-- ==== Sys2Proof/Word.lean ====
section
/-! DEFINITION. The words the TM8 computes with (spec/00_scope.md R10, spec/02_storage_array.md R32, R33). -/
namespace Sys2Proof

/-- A register of the control space. -/
abbrev Word32 := BitVec 32
/-- The 32 data bytes of a segment; data byte `j` is bits [8j + 7 : 8j] (R33). -/
abbrev Seg := BitVec 256
/-- A stored word: 256 data bits below 32 check bits (R33). -/
abbrev Stored := BitVec 288

/-- Bits [hi:lo] of a number. -/
def bits (x hi lo : Nat) : Nat := (x >>> lo) % 2 ^ (hi + 1 - lo)

/-- Bit `i` of a number. -/
def bit (x i : Nat) : Bool := x.testBit i

/-- A Bool as a bit. -/
def b2n (b : Bool) : Nat := if b then 1 else 0

/-- A count that stays at its largest 32-bit value (the RC counters of the spec). -/
def sat32 (x : Nat) : Nat := min x 0xFFFFFFFF

/-- Two's complement value of the low `w` bits of a number. -/
def signed (w x : Nat) : Int :=
  if x % 2 ^ w < 2 ^ (w - 1) then (x % 2 ^ w : Nat) else (x % 2 ^ w : Nat) - (2 ^ w : Nat)

/-- The `w`-bit two's complement code of an integer. -/
def unsigned (w : Nat) (x : Int) : Nat := (x % (2 ^ w : Nat)).toNat

end Sys2Proof
end

