-- ==== Sys2Proof/Syntax.lean ====
section
/-! DEFINITION. The commands of the block, one constructor for each row of spec/opcode_table.json. Rows that are register
writes carry the writing master; rows that are events of an engine carry what picks the event out, and any value that
comes from outside the block. -/
namespace Sys2Proof

/-- A master of the control fabric (spec/17_control_and_firmware.md R500). -/
inductive Master where
  | cpa | cpb | em0 | em1 | dbg
deriving DecidableEq, Repr

/-- The payload of a REQ transfer with its WD beats (spec/05_port_protocol.md R139, R148). `data` holds the WD beats as a
little-endian number and `beats` is their count up to and including WLAST. -/
structure Request where
  op     : Nat   -- 0 READ, 1 WRITE, 2 FILL, 3 ACC, 4 SACC, 5 ATOMIC, 6 to 15 reserved
  seg    : Bool  -- segment operation
  form   : Nat   -- 0 offset, 1 tile, 2 PTA, 3 EXT
  dir    : Bool  -- column direction
  handle : Nat
  gen    : Nat
  addr   : Nat
  lenM1  : Nat
  tid    : Nat
  tag    : Nat
  mcast  : Nat
  lens   : Nat
  slot   : Bool
  aop    : Nat
  aw     : Bool
  accf   : Nat
  gate   : Nat
  data   : Nat
  beats  : Nat
deriving DecidableEq, Repr

/-- A message of the SQ channel of a port (spec/10_synchronisation.md R307). `resv` is the number in its reserved bits. -/
structure SqWord where
  op    : Nat   -- 0 NOP, 1 ADD, 2 SUB, 3 SET, 4 WATCH, 5 UNWATCH, 6 READ, 7 ARRIVE, 8 to 15 reserved
  rel   : Bool
  cons  : Bool
  cond  : Bool
  widx  : Nat
  resv  : Nat
  id    : Nat
  value : Nat
deriving DecidableEq, Repr

/-- Faulty lanes of a lane group of a Spoke at the crossing that is brought up (spec/21_integration.md R602, R603). -/
structure LaneFaults where
  spoke  : Nat   -- 4 * layer + sector
  group  : Nat
  mapped : Nat   -- lanes of the fused repair map
  found  : Nat   -- lanes that fail the pattern
deriving DecidableEq, Repr

/-- The units that fail the boot self-test (spec/19_test.md R559). -/
structure BstFail where
  em0    : Bool
  em1    : Bool
  sync   : Bool
  planes : List Nat           -- 0 A, 1 B
  rims   : List (Nat × Nat)   -- layer and physical rim
  ports  : List Nat           -- port indices, mover channels among them
  links  : List Nat
deriving DecidableEq, Repr

/-- A piece of a master's burst that waits at a page group (spec/17_control_and_firmware.md R499, R504): up to four beats from
the register offset `off` up. -/
structure FabPiece where
  m    : Master
  wr   : Bool
  off  : Nat
  n    : Nat                  -- beats of a read
  data : List Nat             -- beats of a write
  page : Nat                  -- an offset in the page that its burst starts in
  left : Nat                  -- beats of its burst that follow it
deriving DecidableEq, Repr

/-- A command of the block: one constructor for each row of spec/opcode_table.json, in the table's order. -/
inductive Instr where
  /-- READ_REQUEST (R140). A READ request is taken on a port's REQ channel, and the adapter refuses it with PARKED or DISABLED or queues it. -/
  | readRequest (x : Nat) (r : Request)
  /-- WRITE_REQUEST (R148). A WRITE request is taken with its WD beats; the adapter buffers the data, and a converting write is converted before it enters the Hub. -/
  | writeRequest (x : Nat) (r : Request)
  /-- FILL_REQUEST (R145). A FILL request carrying a 32-byte pattern is taken on a port. -/
  | fillRequest (x : Nat) (r : Request)
  /-- ACC_REQUEST (R225). An accumulate-on-write request is taken on a broad or narrow port. -/
  | accRequest (x : Nat) (r : Request)
  /-- SACC_REQUEST (R227). A scaled accumulate-on-write request carrying its gate is taken on a broad or narrow port. -/
  | saccRequest (x : Nat) (r : Request)
  /-- ATOMIC_ADD (R233). An ATOMIC request with AOP ADD is taken on a narrow port and performed at the home rim. -/
  | atomicAdd (x : Nat) (r : Request)
  /-- ATOMIC_SMIN (R233). An ATOMIC request with AOP SMIN stores the signed minimum of the old value and A. -/
  | atomicSmin (x : Nat) (r : Request)
  /-- ATOMIC_SMAX (R233). An ATOMIC request with AOP SMAX stores the signed maximum of the old value and A. -/
  | atomicSmax (x : Nat) (r : Request)
  /-- ATOMIC_UMIN (R233). An ATOMIC request with AOP UMIN stores the unsigned minimum of the old value and A. -/
  | atomicUmin (x : Nat) (r : Request)
  /-- ATOMIC_UMAX (R233). An ATOMIC request with AOP UMAX stores the unsigned maximum of the old value and A. -/
  | atomicUmax (x : Nat) (r : Request)
  /-- ATOMIC_SWAP (R233). An ATOMIC request with AOP SWAP stores A and returns the old value. -/
  | atomicSwap (x : Nat) (r : Request)
  /-- ATOMIC_CAS (R234). An ATOMIC request with AOP CAS stores B if the old value equals A, and otherwise reserves the bank without writing. -/
  | atomicCas (x : Nat) (r : Request)
  /-- ATOMIC_AND (R233). An ATOMIC request with AOP AND combines the old value bitwise with A. -/
  | atomicAnd (x : Nat) (r : Request)
  /-- ATOMIC_OR (R233). An ATOMIC request with AOP OR combines the old value bitwise with A. -/
  | atomicOr (x : Nat) (r : Request)
  /-- ATOMIC_XOR (R233). An ATOMIC request with AOP XOR combines the old value bitwise with A. -/
  | atomicXor (x : Nat) (r : Request)
  /-- REQUEST_REACHES_HUB (R138). After crossing the adapter, a request reaches the Hub, is checked by R85 and is split or refused. -/
  | requestReachesHub (x : Nat)
  /-- SPLIT_RELEASE (R174). The split stage releases the next line access into its sector pool once room, queue share and return-buffer space allow. -/
  | splitRelease (x : Nat)
  /-- UPWARD_ARBITRATION (R183). A sector's upward arbiter fills its Spoke slots with eligible pool entries of lowest level and greatest age. -/
  | upwardArbitration (layer : Nat) (sector : Nat)
  /-- RIM_ARBITRATION (R180). A free rim grants one winning access and fills its remaining banks, performing any reserved read-modify-write half. -/
  | rimArbitration (layer : Nat) (rim : Nat)
  /-- DOWNWARD_ARBITRATION (R183). A sector's downward arbiter fills its slots with output-stage read lines. -/
  | downwardArbitration (layer : Nat) (sector : Nat)
  /-- PLANE_MERGE (R172). The Hub joins the two halves of an access and sends the read data, multicast copies or write response toward the adapter. -/
  | planeMerge (seq : Nat)
  /-- RESPONSE (R151). A response lane crosses the adapter and is offered on RSP, with DONE on the request's last lane. -/
  | response (x : Nat)
  /-- MC_HOLD_EXPIRY (R155). A held multicast copy finds no free RSP lane within its MC_HOLD time and is dropped for that receiver. -/
  | mcHoldExpiry (x : Nat)
  /-- LENS_CONVERT (R125). Once both the data line and its scale row have arrived, the lens converts the line and installs the scale entry. -/
  | lensConvert (x : Nat)
  /-- SFLUSH (R127). A write of LENS_CTL.SFLUSH drops every entry of that port's scale buffer. -/
  | sflush (m : Master) (x : Nat)
  /-- ENGINE_SFLUSH (R282). A write of ENGe_CTL.SFLUSH drops every entry of a mover engine's scale buffer. -/
  | engineSflush (m : Master) (e : Nat)
  /-- URG_CHANGE (R161). A new URG level, stable for two edges, is taken and applied to the port's queued requests. -/
  | urgChange (x : Nat) (urg : Nat)
  /-- URG_CAP_WRITE (R161). A write to PCTL.URG_CAP changes the urgency in use for new and queued requests. -/
  | urgCapWrite (m : Master) (x : Nat) (cap : Nat)
  /-- PORT_ENABLE (R164). Writing PCTL.EN to 1 enables the port, or holds the enable until a running drain completes. -/
  | portEnable (m : Master) (x : Nat)
  /-- PORT_DISABLE (R164). Writing PCTL.EN to 0 starts draining the port, and later requests complete with DISABLED. -/
  | portDisable (m : Master) (x : Nat)
  /-- PORT_DRAIN_DONE (R164). After the last response of a draining port has been taken, the port becomes DISABLED and its watches and waiters are freed. -/
  | portDrainDone (x : Nat)
  /-- LOOP_WRITE (R169). A write of PCTL.LOOP sets the loopback depth, or is refused with LOOP_REJ when the port is not DISABLED. -/
  | loopWrite (m : Master) (x : Nat) (depth : Nat)
  /-- PLANE_FAULT (R189). A hard fault of a Hub plane stops sending, completes the lost accesses with FAULT, and begins failover or parks the device. `mismatches` are the CRC mismatches of halves that led to it (R466). -/
  | planeFault (p : Nat) (cause : Nat) (mismatches : Nat)
  /-- FAILOVER_RESUME (R189). After rerouting onto the surviving plane, the Hub resumes sending at single-plane rate. -/
  | failoverResume
  /-- PLANE_TAKE_OUT (R191). Writing a PLANE_CTL bit to 1 drains that plane out of service, or is refused. -/
  | planeTakeOut (m : Master) (p : Nat)
  /-- PLANE_RETURN (R191). Writing a PLANE_CTL bit to 0 returns the plane to service through REJOINING, or is refused. -/
  | planeReturn (m : Master) (p : Nat)
  /-- PLANE_CHANGE_DONE (R191). A plane change completes its drain and rerouting, and sending resumes. -/
  | planeChangeDone
  /-- REGULATION_WINDOW_BOUNDARY (R201). At a TID's window boundary its SPENT count falls by min(SPENT, BUDGET). -/
  | regulationWindowBoundary (t : Nat)
  /-- BRAKE_STATE_ARRIVAL (R206). A change of a TID's Brake state reaches an arbiter. -/
  | brakeStateArrival (t : Nat) (arb : Nat)
  /-- TID_CONFIG_WRITE (R209). A write to a TCFG or TBUD entry changes FORCE, BUDGET, CLASS, SHARE or WIN_M1, or is ignored under LOCK. -/
  | tidConfigWrite (m : Master) (t : Nat) (bud : Bool) (v : Word32)
  /-- TABLE_SIG_UPDATE (R219). REGUL.TABLE_SIG is recomputed after a write to the TID table. -/
  | tableSigUpdate
  /-- STEP_WRITE (R211). A write to TSTEP.STEP sets the step number taken by later accesses of the TID. -/
  | stepWrite (m : Master) (t : Nat) (step : Nat)
  /-- PREEMPT_WRITE (R212). A write to REGUL.PREEMPT increments the named TID's preemption count. -/
  | preemptWrite (m : Master) (t : Nat)
  /-- SNAPSHOT_GO (R216). A SNAP_CTL.GO write freezes a TID's counters at that instant and starts the copy, or sets SNAP_OVR. -/
  | snapshotGo (m : Master) (t : Nat) (clrh : Bool)
  /-- SNAPSHOT_DONE (R216). The snapshot copy completes and SNAP_CTL.BUSY falls. -/
  | snapshotDone
  /-- HAPPLY (R214). Writing HAPPLY applies staged histogram edges and clears every bin, or sets HIST_ERR. -/
  | happly (m : Master)
  /-- LOCK (R218). Writing REGUL_CTL.LOCK locks the regulation setting until reset. -/
  | lock (m : Master)
  /-- HANDLE_INSTALL (R92). HCMD INSTALL checks the staged descriptor and begins writing the class map and the valid-bit clear. -/
  | handleInstall (m : Master) (h : Nat) (ovchk : Bool) (iclear : Bool)
  /-- INSTALL_CLASS_MAP_DONE (R92). The install's class-map write completes and its valid-bit clear pass begins. -/
  | installClassMapDone
  /-- INSTALL_DONE (R92). The install's clear ends, the generation is incremented, the handle becomes LIVE and BUSY falls. -/
  | installDone
  /-- HANDLE_MODIFY (R88). HCMD MODIFY applies new policy fields to requests accepted from then on, or is refused. -/
  | handleModify (m : Master) (h : Nat)
  /-- MODIFY_DONE (R88). A MODIFY completes once earlier requests have completed and the handle's rims are in permitted states. -/
  | modifyDone
  /-- HANDLE_RETIRE (R88). HCMD RETIRE makes a LIVE handle DRAINING. -/
  | handleRetire (m : Master) (h : Nat)
  /-- HANDLE_FREED (R95). A DRAINING handle becomes FREE once every request accepted under it has completed. -/
  | handleFreed
  /-- HANDLE_CLEAR (R88). HCMD CLEAR starts clearing the valid bits of every frame of the handle. -/
  | handleClear (m : Master) (h : Nat)
  /-- CLEAR_DONE (R92). A handle's valid-bit clear completes and BUSY falls. -/
  | clearDone
  /-- HANDLE_READ (R99). HCMD READ copies a handle's descriptor and generation into RDESC0-7 and RD_HANDLE. -/
  | handleRead (m : Master) (h : Nat)
  /-- RA_PUSH (R236). A write of RA_PUSH pushes the staged operation record to a queue, or is refused with REJ. -/
  | raPush (m : Master) (q : Nat)
  /-- OPREC_NOP (R237). A NOP record starts, is checked and completes. -/
  | oprecNop (q : Nat)
  /-- OPREC_ZERO (R223). A ZERO record starts and clears the valid bits of the lines it covers. -/
  | oprecZero (q : Nat)
  /-- OPREC_FILL (R224). A FILL record starts and writes its pattern to every line it covers. -/
  | oprecFill (q : Nat)
  /-- OPREC_COPY (R244). A COPY record starts and copies A's walk lines to D's walk lines. -/
  | oprecCopy (q : Nat)
  /-- OPREC_KERNEL (R246). A KERNEL record starts and sends its steps to the rims' ALUs. -/
  | oprecKernel (q : Nat)
  /-- RECORD_CHUNK_ADMISSION (R259). Before each chunk of up to 4,096 steps, the energy estimate is admitted or deferred. -/
  | recordChunkAdmission (q : Nat)
  /-- REDUCE_SEGMENT_WRITE (R253). Once eight reduce words have arrived, the queue writes them as one full segment. -/
  | reduceSegmentWrite (q : Nat)
  /-- RECORD_COMPLETE (R242). A record completes after its steps and writes have landed, and takes its counter, completion-entry and interrupt actions. -/
  | recordComplete (q : Nat)
  /-- QUEUE_ENABLE (R262). Setting a QEN bit enables an operation queue. -/
  | queueEnable (m : Master) (q : Nat)
  /-- QUEUE_DISABLE (R262). Clearing a QEN bit makes the queue DRAINING, and its queued records complete with DISABLED. -/
  | queueDisable (m : Master) (q : Nat)
  /-- QUEUE_DRAIN_DONE (R262). A draining queue's running record completes and the queue reads DISABLED. -/
  | queueDrainDone (q : Nat)
  /-- QCPL_READ (R264). A read of Qq_CPL returns and removes the oldest completion entry. -/
  | qcplRead (m : Master) (q : Nat)
  /-- KERNEL_LOAD (R247). KCTL.LOAD loads staged instructions into a kernel slot, or is refused with KERR. -/
  | kernelLoad (m : Master) (slot : Nat) (len : Nat)
  /-- KI_NOP (R249). A kernel NOP instruction issues at a rim. -/
  | kiNop (layer : Nat) (rim : Nat)
  /-- KI_LDA (R249). A kernel LDA instruction loads an A walk line into a register. -/
  | kiLda (layer : Nat) (rim : Nat)
  /-- KI_LDB (R249). A kernel LDB instruction loads a B walk line into a register. -/
  | kiLdb (layer : Nat) (rim : Nat)
  /-- KI_ST (R255). A kernel ST instruction copies a register into a kernel write buffer to store a D walk line. -/
  | kiSt (layer : Nat) (rim : Nat)
  /-- KI_ADD (R249). A kernel ADD instruction adds lane by lane. -/
  | kiAdd (layer : Nat) (rim : Nat)
  /-- KI_MUL (R249). A kernel MUL instruction multiplies lane by lane. -/
  | kiMul (layer : Nat) (rim : Nat)
  /-- KI_FMA (R249). A kernel FMA instruction performs a fused multiply-add lane by lane. -/
  | kiFma (layer : Nat) (rim : Nat)
  /-- KI_MIN (R250). A kernel MIN instruction takes the lane-wise minimum. -/
  | kiMin (layer : Nat) (rim : Nat)
  /-- KI_MAX (R250). A kernel MAX instruction takes the lane-wise maximum. -/
  | kiMax (layer : Nat) (rim : Nat)
  /-- KI_CLIP (R249). A kernel CLIP instruction clamps lanes between two scalars. -/
  | kiClip (layer : Nat) (rim : Nat)
  /-- KI_CVT (R251). A kernel CVT instruction converts a register between element formats. -/
  | kiCvt (layer : Nat) (rim : Nat)
  /-- KI_RSUM (R250). A kernel RSUM instruction sends the sum of a register's lanes to the queue as the step's word. -/
  | kiRsum (layer : Nat) (rim : Nat)
  /-- KI_RMAX (R250). A kernel RMAX instruction sends the largest lane to the queue as the step's word. -/
  | kiRmax (layer : Nat) (rim : Nat)
  /-- SUB_NOP (R268). A NOP submission word is taken on a mover channel. -/
  | subNop (c : Nat) (w0 : Nat) (w1 : Nat) (w2 : Nat) (w3 : Nat)
  /-- SUB_POST (R269). A POST submission word queues a descriptor chain, or is rejected with a post-level record when the channel is not ENABLED. -/
  | subPost (c : Nat) (w0 : Nat) (w1 : Nat) (w2 : Nat) (w3 : Nat)
  /-- SUB_CPLACK (R292). A CPLACK submission word reports a new CONS of the completion ring. -/
  | subCplack (c : Nat) (w0 : Nat) (w1 : Nat) (w2 : Nat) (w3 : Nat)
  /-- SUB_SCRUB (R268). A scrub post from EM1 queues a scrub walk as one SCRUB descriptor. -/
  | subScrub (m : Master) (c : Nat) (w0 : Nat) (w1 : Nat) (w2 : Nat) (w3 : Nat)
  /-- CHANNEL_POST_WRITE (R270). A write to CHc_POST3 issues the four staged words as one SUB transfer. -/
  | channelPostWrite (m : Master) (c : Nat) (w3 : Word32)
  /-- CRIDX_CONS_WRITE (R292). A write of CHc_CRIDX.CONS reports consumed records, or is ignored with CONS_ERR. -/
  | cridxConsWrite (m : Master) (c : Nat) (cons : Nat)
  /-- DESCRIPTOR_FETCH (R269). The engine reads a descriptor of a posted chain ahead of the one running. -/
  | descriptorFetch (c : Nat)
  /-- DESC_NOP (R273). A NOP descriptor starts. -/
  | descNop (c : Nat)
  /-- DESC_COPY (R279). A COPY descriptor starts and moves bytes from SRC's walk to DST's walk, converting with CONV 1. -/
  | descCopy (c : Nat)
  /-- DESC_FILL (R283). A FILL descriptor starts and writes its PARAM word over DST. -/
  | descFill (c : Nat)
  /-- DESC_REDUCE (R284). A REDUCE descriptor starts and accumulates SRC into DST. -/
  | descReduce (c : Nat)
  /-- DESC_GATHER (R285). A GATHER descriptor starts and copies indexed source units to consecutive destination units. -/
  | descGather (c : Nat)
  /-- DESC_SCATTER (R285). A SCATTER descriptor starts and copies consecutive source units to indexed destination units. -/
  | descScatter (c : Nat)
  /-- DESC_SCRUB (R286). A SCRUB descriptor starts and checks every line of SRC's walk. -/
  | descScrub (c : Nat)
  /-- DESC_POSTREC (R287). A POSTREC descriptor starts, reads an operation record and pushes it to a RIMALU queue. -/
  | descPostrec (c : Nat)
  /-- DESC_DISPATCH (R300). A DISPATCH descriptor starts and appends each token vector to its experts' rings, then markers. -/
  | descDispatch (c : Nat)
  /-- DESC_RETURN (R301). A RETURN descriptor starts and sends each expert output back to its origin. -/
  | descReturn (c : Nat)
  /-- DESC_COMBINE (R302). A COMBINE descriptor starts and scales and adds returned outputs into the output vectors. -/
  | descCombine (c : Nat)
  /-- MOVER_ISSUE (R265). Each pc, a mover engine issues ready accesses of its channels round-robin. -/
  | moverIssue (e : Nat)
  /-- MOVER_CHUNK_ADMISSION (R295). Before each chunk of up to 4,096 accesses, a mover admits or defers the chunk's energy estimate. -/
  | moverChunkAdmission (c : Nat)
  /-- ROUTER_APPEND (R299). A router append takes a local slot or a remote credit and sends its vector and ticket. -/
  | routerAppend (c : Nat)
  /-- CREDIT_WAIT_TIMEOUT (R299). A remote append that has waited for a credit beyond CRED_TMO fails with SLOT_TIMEOUT. -/
  | creditWaitTimeout (c : Nat)
  /-- MASTER_PORT_RESPONSE (R276). A read or write response arrives on the mover master port, possibly with an error. -/
  | masterPortResponse (id : Nat) (err : Bool) (data : Nat)
  /-- DESCRIPTOR_COMPLETE (R288). A descriptor completes after its accesses and writes have landed, and takes its CNT, SLOTF, NTFY, REC and IRQ actions. -/
  | descriptorComplete (c : Nat)
  /-- CREDIT_CLEAR (R304). A write of CAa_CFG.CLR sets an account's CREDITS to 0. -/
  | creditClear (m : Master) (a : Nat)
  /-- SQ_NOP (R307). A NOP SQ message is taken. -/
  | sqNop (x : Nat) (w : SqWord)
  /-- SQ_ADD (R313). An ADD SQ message adds to a counter of the port's core, held for release when REL is set. -/
  | sqAdd (x : Nat) (w : SqWord)
  /-- SQ_SUB (R313). A SUB SQ message subtracts from a counter of the port's core. -/
  | sqSub (x : Nat) (w : SqWord)
  /-- SQ_SET (R313). A SET SQ message sets a counter of the port's core. -/
  | sqSet (x : Nat) (w : SqWord)
  /-- SQ_WATCH (R316). A WATCH SQ message arms a watch on a counter, which may fire at once. -/
  | sqWatch (x : Nat) (w : SqWord)
  /-- SQ_UNWATCH (R318). An UNWATCH SQ message frees a watch and is answered by CANCELLED. -/
  | sqUnwatch (x : Nat) (w : SqWord)
  /-- SQ_READ (R313). A READ SQ message returns a counter's value as SW VALUE. -/
  | sqRead (x : Nat) (w : SqWord)
  /-- SQ_ARRIVE (R335). An ARRIVE SQ message adds arrivals to a barrier and may register the engine as a waiter. -/
  | sqArrive (x : Nat) (w : SqWord)
  /-- SQ_RELEASE_EFFECT (R315). An SQ message held for release takes effect once the writes it waits for have landed. -/
  | sqReleaseEffect (x : Nat)
  /-- SW_TRANSFER (R308). A wake, value, release, error or cancel message crosses to the host on SW. -/
  | swTransfer (x : Nat)
  /-- CTR_CMD_ADD (R313). CTR_CMD with OP ADD adds to the named counter. -/
  | ctrCmdAdd (m : Master) (c : Nat) (v : Nat)
  /-- CTR_CMD_SUB (R313). CTR_CMD with OP SUB subtracts from the named counter. -/
  | ctrCmdSub (m : Master) (c : Nat) (v : Nat)
  /-- CTR_CMD_SET (R313). CTR_CMD with OP SET sets the named counter. -/
  | ctrCmdSet (m : Master) (c : Nat) (v : Nat)
  /-- TAG_CMD_SET_FULL (R331). TAG_CMD SET_FULL sets a slot's tag FULL and admits parked reads. -/
  | tagCmdSetFull (m : Master) (ring : Nat) (slot : Nat)
  /-- TAG_CMD_SET_EMPTY (R331). TAG_CMD SET_EMPTY sets a slot's tag EMPTY and admits parked writes. -/
  | tagCmdSetEmpty (m : Master) (ring : Nat) (slot : Nat)
  /-- BARRIVE (R345). A write of BARRIVE counts arrivals at a barrier without a waiter. -/
  | barrive (m : Master) (bar : Nat) (n : Nat)
  /-- BARRIER_ENABLE (R338). Writing BCFGn.EN to 1 enables a barrier with a fresh phase, or is refused with BAR_ERR. -/
  | barrierEnable (m : Master) (bar : Nat) (w : Word32)
  /-- BARRIER_DISABLE (R338). Writing BCFGn.EN to 0 aborts the phase and disables the barrier. -/
  | barrierDisable (m : Master) (bar : Nat) (w : Word32)
  /-- BARRIER_RESET (R338). BCFGn.RESET aborts every waiter and clears the phase's counts. -/
  | barrierReset (m : Master) (bar : Nat)
  /-- RING_ENABLE (R321). Writing RCFG0.EN to 1 enables a slot ring, or is refused with RING_ERR. -/
  | ringEnable (m : Master) (ring : Nat) (w : Word32)
  /-- RING_DISABLE (R334). Writing RCFG0.EN to 0 disables a ring and completes its parked requests with DISABLED. -/
  | ringDisable (m : Master) (ring : Nat) (w : Word32)
  /-- SLOT_FILL (R325). A slot's tag becomes FULL after the filling writes settle, and parked reads are admitted. -/
  | slotFill (x : Nat) (tag : Nat)
  /-- SLOT_EMPTY (R326). A slot's tag becomes EMPTY after the emptying reads are performed, and parked writes are admitted. -/
  | slotEmpty (x : Nat) (tag : Nat)
  /-- SLOT_TIMEOUT (R329). A parked slot-semantics request reaches its ring's timeout and completes with SLOT_TIMEOUT. -/
  | slotTimeout (x : Nat) (tag : Nat)
  /-- PARK_RETRY_PROBE (R330). A request waiting for room in a full park table probes again every 16 pc. -/
  | parkRetryProbe (x : Nat) (tag : Nat)
  /-- CACHE_FILL_COMPLETE (R368). A cache miss's line arrives from the master port, the line is allocated and the EXT request completes. -/
  | cacheFillComplete (id : Nat) (err : Bool) (data : Nat)
  /-- COP_INV (R375). COP_CMD INV starts invalidating the cache lines of a range or of the whole cache. -/
  | copInv (m : Master) (w : Word32)
  /-- COP_CLEAN (R375). COP_CMD CLEAN starts writing back the dirty lines of a range. -/
  | copClean (m : Master) (w : Word32)
  /-- COP_CLEAN_INV (R375). COP_CMD CLEAN_INV starts cleaning and then invalidating a range. -/
  | copCleanInv (m : Master) (w : Word32)
  /-- COP_DONE (R376). A maintenance operation completes, BUSY falls, and its counter and interrupt actions are taken. -/
  | copDone
  /-- SECTION_SWITCH (R378). SEC_CMD.GO starts switching cache sections, or is refused. -/
  | sectionSwitch (m : Master) (target : Nat)
  /-- SECTION_SWITCH_DONE (R379). A section switch finishes cleaning and clearing, and the new set of sections takes effect. -/
  | sectionSwitchDone
  /-- XBASE_WRITE (R365). A write to XBASE sets the cache window base, or is ignored with XB_REJ. -/
  | xbaseWrite (m : Master) (hi : Bool) (v : Word32)
  /-- CB_IDLE (R388). An IDLE control block is received on a link port. -/
  | cbIdle (p : Nat)
  /-- CB_LINK (R388). A LINK control block delivers ACK and credit totals. -/
  | cbLink (p : Nat)
  /-- CB_RETRY (R398). A RETRY control block makes the transmitter resend from the named LSEQ. -/
  | cbRetry (p : Nat)
  /-- CB_LANE_DROP (R405). A LANE_DROP control block makes the transmitter switch to the remaining lanes. -/
  | cbLaneDrop (p : Nat)
  /-- CB_LANE_SWITCH (R405). A LANE_SWITCH control block tells the receiver which lanes are used from the next codeword. -/
  | cbLaneSwitch (p : Nat)
  /-- CB_INIT (R403). An INIT control block records the far address and port, and brings the port UP once both sides have exchanged. -/
  | cbInit (p : Nat)
  /-- CODEWORD_RECEIVED (R387). A codeword is decoded and corrected, or discarded as uncorrectable. -/
  | codewordReceived (p : Nat) (marks : Bool) (lanes : List Nat)
  /-- PKT_BWR (R419). An arriving bulk write is checked against its window and written raw, or refused with a NAK. -/
  | pktBwr (p : Nat)
  /-- PKT_TWR (R426). An arriving token write packet is handled in its token, the first packet taking a credit and a slot. -/
  | pktTwr (p : Nat)
  /-- PKT_NTFY (R431). An arriving notify is checked and placed in the fence table, or refused. -/
  | pktNtfy (p : Nat)
  /-- PKT_BARR (R433). The manager receives a domain barrier arrival and counts it, holds it for its fence, or discards it. -/
  | pktBarr (p : Nat)
  /-- PKT_BREL (R337). A domain barrier release arrives and the device releases its local waiters. -/
  | pktBrel (p : Nat)
  /-- PKT_BABT (R338). A domain barrier abort arrives and aborts the device's phase. -/
  | pktBabt (p : Nat)
  /-- PKT_LACK (R434). A landed acknowledgement completes up to eight outstanding packets at the sender. -/
  | pktLack (p : Nat)
  /-- PKT_NAK (R436). A NAK completes the refused packet's item at the sender with its cause. -/
  | pktNak (p : Nat)
  /-- PKT_CGRANT (R430). A credit grant adds credits to the matching account, or is discarded. -/
  | pktCgrant (p : Nat)
  /-- PKT_TSREQ (R410). The manager receives a time request and answers with TSRSP. -/
  | pktTsreq (p : Nat)
  /-- PKT_TSRSP (R410). A worker receives a time response and sets DT_OFS. -/
  | pktTsrsp (p : Nat)
  /-- RETRY_REPEAT (R398). While no progress is made, RETRY is repeated every 1 µs, and the port fails after RETRY_MAX. -/
  | retryRepeat (p : Nat)
  /-- LINK_SILENCE_TIMEOUT (R398). No control block has been received for 100 µs, and the port enters FAILED. -/
  | linkSilenceTimeout (p : Nat)
  /-- LANE_LOSS (R405). A receive lane loses signal, lock or alignment, and LANE_DROP is sent. -/
  | laneLoss (p : Nat) (lane : Nat) (signal : Bool)
  /-- SER_INTERVAL (R405). At the end of each 10 µs interval, corrected symbols per lane are compared with THRESH toward a drop. -/
  | serInterval (p : Nat)
  /-- LANE_RELOCK (R405). The receiver locks on the remaining lanes and sends RETRY. -/
  | laneRelock (p : Nat)
  /-- LINK_PORT_ENABLE (R403). Writing Pp_CTL.EN to 1 starts TRAIN, or LOOPBACK with LOOP set. -/
  | linkPortEnable (m : Master) (p : Nat) (w : Word32)
  /-- LINK_PORT_DISABLE (R403). Writing Pp_CTL.EN to 0 makes the port DRAINING, or DOWN from FAILED. -/
  | linkPortDisable (m : Master) (p : Nat) (w : Word32)
  /-- LINK_DRAIN_DONE (R403). A draining link port has its replay buffer acknowledged, or 100 µs passes, and it becomes DOWN. -/
  | linkDrainDone (p : Nat)
  /-- LINK_TRAIN_DONE (R403). Lane training ends and the port enters ALIGN or FAILED. -/
  | linkTrainDone (p : Nat) (tx : Nat) (rx : Nat)
  /-- LINK_ALIGN_DONE (R403). Codeword lock and deskew end, and the port enters INIT or FAILED. -/
  | linkAlignDone (p : Nat) (ok : Bool)
  /-- RETRAIN (R404). Pp_CTL.RETRAIN takes the port from UP or FAILED into TRAIN. -/
  | retrain (m : Master) (p : Nat)
  /-- FWD_WRITE (R400). A write to a forwarding entry applies to packets routed afterwards. -/
  | fwdWrite (m : Master) (a : Nat) (w : Word32)
  /-- ENUM_GO (R407). ENUM_CTL.GO on the manager starts domain enumeration by sending CLEAR around the Chain. -/
  | enumGo (m : Master)
  /-- CHAIN_CLEAR (R407). A CLEAR Chain frame is received; a worker drops its address and forwards the frame, and the manager sends ENUM on its return. -/
  | chainClear (w : Nat)
  /-- CHAIN_ENUM (R407). An ENUM Chain frame is received; a worker takes its address, and the manager counts devices on its return. -/
  | chainEnum (w : Nat)
  /-- CHAIN_DONE (R407). A DONE Chain frame is received; the device records DEVICES and sends INIT, and the manager completes. -/
  | chainDone (w : Nat)
  /-- ENUM_TIMEOUT (R407). The manager receives no frame back within ENUM_CTL.TMO and fails enumeration with BROKEN. -/
  | enumTimeout
  /-- TS_GO (R410). TS_CTL.GO on a worker runs one time exchange. -/
  | tsGo (m : Master)
  /-- TS_PERIOD (R410). Every PERIOD ms, a worker runs a time exchange. -/
  | tsPeriod
  /-- E2E_TIMEOUT (R412). A packet gets no LACK or NAK within E2E_TMO and completes with TIMEOUT. -/
  | e2eTimeout (etag : Nat)
  /-- LACK_SEND (R434). A receiver sends a gathered LACK when eight entries have gathered or 256 ns have passed. -/
  | lackSend (src : Nat)
  /-- WINDOW_UNIT_ENABLE (R414). A write of WCTL.EN starts or stops acceptance of arriving writes and notifies. -/
  | windowUnitEnable (m : Master) (w : Word32)
  /-- WINDOW_OPEN (R417). OPEN opens a window and clears its landed counters, or is refused with WERR. -/
  | windowOpen (m : Master) (w : Nat)
  /-- WINDOW_CLOSE (R421). CLOSE makes an OPEN window CLOSING. -/
  | windowClose (m : Master) (w : Nat)
  /-- WINDOW_CLOSE_DONE (R421). A CLOSING window's writes have settled, and it becomes CLOSED with its interrupt and counter actions. -/
  | windowCloseDone (w : Nat)
  /-- CCH_ENABLE (R424). Writing CCHc_CFG.EN to 1 enables a credit channel and grants LIMIT credits, or is refused. -/
  | cchEnable (m : Master) (c : Nat) (w : Word32)
  /-- CCH_DISABLE (R429). Writing CCHc_CFG.EN to 0 makes a credit channel DRAINING. -/
  | cchDisable (m : Master) (c : Nat) (w : Word32)
  /-- CCH_DRAIN_DONE (R429). A draining credit channel has no token in progress and becomes DISABLED. -/
  | cchDrainDone (c : Nat)
  /-- CREDIT_RETURN (R425). A channel's pending returns reach GRAN or wait 1 µs, and one CGRANT is sent. -/
  | creditReturn (c : Nat)
  /-- TOKEN_LANDED (R426). A token's writes have landed, its slot is set FULL and the token is acknowledged. -/
  | tokenLanded (id : Nat)
  /-- NOTIFY_EFFECT (R431). A held notify's ordering and fence are met, and it increments its counter or fills its slot. -/
  | notifyEffect (k : Nat)
  /-- FENCE_TIMEOUT (R431). A notify held for FENCE_TMO is removed and refused with FENCE_TIMEOUT. -/
  | fenceTimeout (k : Nat)
  /-- SENT_CLR (R432). SENT_SEL.CLR clears the sent count of one destination and window. -/
  | sentClr (m : Master) (dev : Nat) (w : Nat)
  /-- SENT_CLRALL (R432). SENT_SEL.CLRALL clears every sent count. -/
  | sentClrall (m : Master)
  /-- CORRECTION_WRITEBACK (R445). A queued correction write-back is performed at its rim, or cancelled by a newer write or a clear. -/
  | correctionWriteback (id : Nat)
  /-- RIM_HARD_FAULT (R460). A rim hard fault is detected, the rim is disconnected, its queued accesses complete with FAULT, and the fault is recorded. -/
  | rimHardFault (layer : Nat) (p : Nat) (cause : Nat)
  /-- RIM_CMD_RETIRE (R461). RIM_CMD RETIRE replaces a logical rim by the spare according to the spare's role. -/
  | rimCmdRetire (m : Master) (layer : Nat) (rim : Nat)
  /-- SPARE_TAKEOVER_DONE (R460). The spare finishes clearing, sets its lost bits and takes over the retired rim. -/
  | spareTakeoverDone
  /-- RIM_CMD_EVACUATE (R463). RIM_CMD EVACUATE starts copying a failing rim to the spare with writes mirrored. -/
  | rimCmdEvacuate (m : Master) (layer : Nat) (rim : Nat)
  /-- EVACUATION_DONE (R463). The evacuation copy ends, the map switches to the spare, and the original rim is PARKED. -/
  | evacuationDone
  /-- RIM_CMD_ABORT (R465). RIM_CMD ABORT ends an evacuation before the switch, and the spare returns to Idle. -/
  | rimCmdAbort (m : Master)
  /-- SCRUB_GO (R454). SCRUB_CMD.GO starts a scrub pass that EM1 issues as scrub posts, or is refused. -/
  | scrubGo (m : Master) (pta : Bool) (tid : Nat) (chan : Nat)
  /-- SCRUB_ABORT (R457). SCRUB_CMD.ABORT ends a scrub pass with ABORTED. -/
  | scrubAbort (m : Master)
  /-- SCRUB_PASS_DONE (R454). The last scrub post has completed, EM1 ends the pass and BUSY falls. -/
  | scrubPassDone
  /-- FLIP_ARM (R458). FLIP_CTL.ARM arms the flip mask for the next qualifying write. -/
  | flipArm (m : Master) (layer : Nat) (bank : Nat) (rim : Nat)
  /-- PSN_LOG_READ (R470). A read of PSN_E0 returns the oldest poison log entry, latches its other words and removes it. -/
  | psnLogRead (m : Master)
  /-- DRIGAR_PARITY_ERROR (R605). A parity error on a crossing stops the Spoke, locates the faulty lane and substitutes a spare. The halves that failed their CRC are given by plane. -/
  | drigarParityError (n : Nat) (layer : Nat) (sector : Nat) (group : Nat) (halvesA : Nat) (halvesB : Nat)
  /-- SPOKE_RESUME (R605). After lane substitution the Spoke resumes and the failed halves are resent. -/
  | spokeResume (layer : Nat) (sector : Nat)
  /-- DOM_CMD_ON (R474). DOM_CMD with ON 1 switches a non-rim domain on, or is refused. -/
  | domCmdOn (m : Master) (n : Nat)
  /-- DOM_CMD_OFF (R474). DOM_CMD with ON 0 switches a non-rim domain off, or is refused. -/
  | domCmdOff (m : Master) (n : Nat)
  /-- DOMAIN_ON_DONE (R474). A domain switched on completes its power-up and its unit becomes usable. -/
  | domainOnDone (n : Nat)
  /-- TARGET_ON (R475). A write of PWR_CTL.TARGET ON starts a wake, or ends a drain. -/
  | targetOn (m : Master) (layer : Nat) (p : Nat) (idle : Nat)
  /-- TARGET_FREEWHEEL (R475). A write of TARGET FREEWHEEL starts draining the rim toward retention, or is refused. -/
  | targetFreewheel (m : Master) (layer : Nat) (p : Nat) (idle : Nat)
  /-- TARGET_OFF (R475). A write of TARGET OFF starts draining the rim toward power-off, or is refused. -/
  | targetOff (m : Master) (layer : Nat) (p : Nat) (idle : Nat)
  /-- RIM_DRAIN_END (R477). A draining rim's queue empties and its transition starts. -/
  | rimDrainEnd (layer : Nat) (p : Nat)
  /-- DRAIN_LIMIT_EXPIRY (R477). A drain exceeds DRAIN_LIM, its remaining entries complete with DISABLED, and FORCED is set. -/
  | drainLimitExpiry (layer : Nat) (p : Nat)
  /-- RIM_STATE_REACHED (R476). A rim completes its transition to ON, FREEWHEEL or OFF, and waiting accesses proceed. -/
  | rimStateReached (layer : Nat) (p : Nat)
  /-- RIM_WAKE_START (R478). A triggered wake starts within the 16-per-microsecond limit. -/
  | rimWakeStart
  /-- RIM_IDLE_EXPIRY (R479). A rim idle for IDLE_US enters FREEWHEEL when permitted. -/
  | rimIdleExpiry (layer : Nat) (p : Nat)
  /-- CADENCE_BOUNDARY (R490). At a Cadence boundary the ledger closes, the pools are set and deferred chunks are retried. -/
  | cadenceBoundary (arrMv : Nat) (periMv : Nat)
  /-- EM_ALIVE_EXPIRY (R489). EM_ALIVE has not been written for two Cadences, and the budget falls to FLOOR. -/
  | emAliveExpiry
  /-- RING_MONITOR_REPORT (R482). Every 10 µs a ring monitor reports its pace and the device pace is updated. -/
  | ringMonitorReport (unit : Nat) (pace : Nat)
  /-- THERMAL_REPORT (R483). Every 10 µs a sector sensor reports its temperature, and a warning or over-temperature may be set. -/
  | thermalReport (sector : Nat) (temp : Nat)
  /-- POWER_ALERT_CHANGE (R495). POWER_ALERT takes a new level after two ticks, and EMERGENCY is entered or its clearing starts. -/
  | powerAlertChange (level : Bool)
  /-- EMG_FORCE_WRITE (R495). A write of EMG_CTL.FORCE sets or removes the forced EMERGENCY cause. -/
  | emgForceWrite (m : Master) (force : Bool)
  /-- EMERGENCY_EXIT (R495). Ten ms after the last cause clears, EMERGENCY ends and stopped work becomes eligible. -/
  | emergencyExit
  /-- GOVERNOR_WINDOW (R494). A new 16 ns governor window begins and its start count resets. -/
  | governorWindow
  /-- FABRIC_PIECE (R505). A page group grants one piece of up to four beats of a master's burst and performs it. -/
  | fabricPiece (cands : List FabPiece)
  /-- REGISTER_WRITE (R500). A write to a register that has no row of its own sets its fields, or is ignored or flagged. -/
  | registerWrite (m : Master) (off : Nat) (w : Word32)
  /-- IRQ_FORCE (R581). A write of IRQ_FORCE sets IRQ_STAT bits as their events would. -/
  | irqForce (m : Master) (off : Nat) (set : Nat)
  /-- SEMA_CLAIM (R508). SEM_OP CLAIM takes a free semaphore for the writing master. -/
  | semaClaim (m : Master) (g : Nat)
  /-- SEMA_RELEASE (R508). SEM_OP RELEASE frees the writing master's semaphore, or is ignored and flagged. -/
  | semaRelease (m : Master) (g : Nat)
  /-- SEMA_FORCE (R508). SEM_OP FORCE takes a semaphore held by the other control port or DBG. -/
  | semaForce (m : Master) (g : Nat)
  /-- FW_STAGE (R518). FW_CMD STAGE reads an image into the inactive bank. -/
  | fwStage (m : Master)
  /-- FW_STAGE_DONE (R518). The staged image has been read and authenticated, and STAGED or a failure result is set. -/
  | fwStageDone
  /-- FW_ACTIVATE (R520). FW_CMD ACTIVATE starts an activation, or defers it during EMERGENCY. -/
  | fwActivate (m : Master)
  /-- FW_CANCEL (R519). FW_CMD CANCEL clears a pending activation. -/
  | fwCancel (m : Master)
  /-- PENDING_ACTIVATION_START (R519). Ten ms after EMERGENCY falls, a pending activation starts by itself. -/
  | pendingActivationStart
  /-- ACTIVATION_COMMIT (R520). Both cores run and have kicked, so the bank flips and COMMITS rises, or the activation falls back. -/
  | activationCommit
  /-- EM_LOAD_DONE (R513). An Emlar core finishes loading and enters RUN, or returns to HALTED on a digest failure. -/
  | emLoadDone (n : Nat)
  /-- WDT_KICK (R514). An Emlar core's write of its WDT_KICK restarts its watchdog. -/
  | wdtKick (m : Master) (n : Nat)
  /-- WATCHDOG_EXPIRY (R514). An Emlar watchdog expires and the core restarts, incrementing the mailbox epochs. -/
  | watchdogExpiry (n : Nat)
  /-- EM_RESTART (R514). Writing EM_CTL.RESTART restarts an Emlar core. -/
  | emRestart (m : Master) (n : Nat)
  /-- REQ_PROD_WRITE (R522). A host write of REQ_PROD posts mailbox requests, or is ignored and flagged. -/
  | reqProdWrite (m : Master) (r : Nat) (prod : Nat)
  /-- RSP_CONS_WRITE (R530). A host write of RSP_CONS consumes mailbox responses. -/
  | rspConsWrite (m : Master) (r : Nat) (cons : Nat)
  /-- ECHO (R528). The EM0 ECHO message returns its payload. -/
  | echo (r : Nat)
  /-- INFO (R528). The EM0 INFO message returns the image and interface versions and the uptime. -/
  | info (r : Nat)
  /-- EM1_ECHO (R528). The EM1 ECHO message returns its payload. -/
  | em1Echo (r : Nat)
  /-- EM1_INFO (R528). The EM1 INFO message returns the versions and the uptime. -/
  | em1Info (r : Nat)
  /-- LIFE_INFO (R550). LIFE_INFO returns the state of the life store and the base image. -/
  | lifeInfo (r : Nat)
  /-- LIFE_FLUSH (R550). LIFE_FLUSH flushes or prepares the lifetime image and answers when it is done. -/
  | lifeFlush (r : Nat)
  /-- LIFE_READ (R550). LIFE_READ returns 48 bytes of the last flushed or prepared image. -/
  | lifeRead (r : Nat)
  /-- LIFE_LOAD (R550). LIFE_LOAD stores bytes into the load buffer. -/
  | lifeLoad (r : Nat)
  /-- LIFE_COMMIT (R549). LIFE_COMMIT checks the loaded image and adopts it as the base. -/
  | lifeCommit (r : Nat)
  /-- FT_RIM (R569). The FT_RIM message starts a transparent rim test. -/
  | ftRim (r : Nat)
  /-- FT_PLANE (R569). The FT_PLANE message starts a Hub plane isolation test. -/
  | ftPlane (r : Nat)
  /-- FT_LINK (R569). The FT_LINK message starts a link loopback test. -/
  | ftLink (r : Nat)
  /-- FT_SYNC (R569). The FT_SYNC message starts the synchronisation plane test, or is DENIED in DEPLOY. -/
  | ftSync (r : Nat)
  /-- FT_ABORT (R569). The FT_ABORT message aborts the running field test. -/
  | ftAbort (r : Nat)
  /-- FT_RESULT (R569). The FT_RESULT message returns the last field-test result. -/
  | ftResult (r : Nat)
  /-- FT_CMD_RIM (R563). FT_CMD RIM starts a transparent rim test with its copy phase, or refuses it. -/
  | ftCmdRim (m : Master) (layer : Nat) (rim : Nat)
  /-- FT_CMD_PLANE (R567). FT_CMD PLANE takes a plane out of service and runs its patterns. -/
  | ftCmdPlane (m : Master) (plane : Nat)
  /-- FT_CMD_LINK (R567). FT_CMD LINK runs PRBS31 through a link port at the chosen depth. -/
  | ftCmdLink (m : Master) (p : Nat) (depth : Nat)
  /-- FT_CMD_SYNC (R567). FT_CMD SYNC isolates and patterns the synchronisation plane. -/
  | ftCmdSync (m : Master)
  /-- FT_CMD_ABORT (R566). FT_CMD ABORT ends the running field test according to its phase. -/
  | ftCmdAbort (m : Master)
  /-- FT_COPY_DONE (R563). A rim test's copy phase ends and the map switches to the spare. -/
  | ftCopyDone
  /-- FT_PATTERNS_DONE (R563). The pattern phase ends, and copy-back starts or the rim is retired on failure. -/
  | ftPatternsDone (ok : Bool) (elem : Nat) (bank : Nat) (row : Nat) (fbits : Nat)
  /-- FT_BACK_DONE (R563). The copy-back ends, the map returns and the spare goes Idle. -/
  | ftBackDone
  /-- FIELD_TEST_DONE (R567). A plane, link or sync field test ends and its unit returns to service or to its safe state. -/
  | fieldTestDone (ok : Bool) (errs : Nat)
  /-- RC_ENABLE (R531). Writing RC_CTL.EN to 1 enables the recorder. -/
  | rcEnable (m : Master) (w : Word32)
  /-- RC_DISABLE (R541). Writing RC_CTL.EN to 0 starts draining the recorder. -/
  | rcDisable (m : Master) (w : Word32)
  /-- RC_DRAIN_DONE (R541). The record being written completes and the recorder becomes DISABLED. -/
  | rcDrainDone
  /-- RC_ARM (R540). Writing ARM enters CLEARING and clears RC_MISSED. -/
  | rcArm (m : Master)
  /-- RC_CLEARING_DONE (R540). Slot clearing ends and the recorder becomes ARMED. -/
  | rcClearingDone
  /-- TRIGGER_SAMPLE (R532). Every 1 µs, LEVEL and DELTA triggers sample their registers and may fire. -/
  | triggerSample
  /-- RC_SWTRIG (R532). A write of RC_SWTRIG fires a SOFTWARE trigger. -/
  | rcSwtrig (m : Master) (tag : Nat) (trig : Nat)
  /-- RECORD_WRITE (R536). A fired trigger takes a slot, and its record and snapshot words are written. -/
  | recordWrite
  /-- LIFE_SAMPLE (R542). Once a second, EM0 adds counter deltas and histogram samples to the lifetime image. -/
  | lifeSample
  /-- LIFE_PERIODIC_FLUSH (R547). Every 60 s, EM0 flushes the image to the life store or prepares it for the host. -/
  | lifePeriodicFlush
  /-- LIFE_BASE_LOAD (R548). At start-up, EM0 loads the newest valid life-store image as the base. -/
  | lifeBaseLoad
  /-- LC_ADVANCE (R556). LC_CMD ADVANCE blows the next lifecycle fuse, or is ignored and flagged. -/
  | lcAdvance (m : Master) (confirm : Nat)
  /-- LC_RETIRE_DEVICE (R557). LC_CMD RETIRE_DEVICE blows the RETIRED fuse and parks the device. -/
  | lcRetireDevice (m : Master) (confirm : Nat)
  /-- SVC_ENTER (R558). SVC_CTL.ENTER checks the service token and enters SERVICE or refuses. -/
  | svcEnter (m : Master)
  /-- PORST_RELEASE (R598). PORST_N is released, MGR is sampled, the timestamp starts and start-up begins. -/
  | porstRelease (mgr : Bool)
  /-- PORST_ASSERT (R598). PORST_N goes low and resets everything, the timestamp and image store included. -/
  | porstAssert
  /-- SRST_ASSERT (R598). SRST_N goes low and resets the device while keeping the timestamp, fuse shadow and image store. -/
  | srstAssert
  /-- RAIL_OUT_OF_RANGE (R597). A rail leaves its range while PORST_N is high, and the state becomes undefined. -/
  | railOutOfRange
  /-- TIMEREF_STOP (R601). TIMEREF stops and every wall-clock function freezes. -/
  | timerefStop
  /-- FUSE_SHADOW_LOADED (R607). The fuse shadow loads 20 µs after reset, and IDENT, CAPS and TEST become reachable. -/
  | fuseShadowLoaded
  /-- CROSSING_BRINGUP (R603). One Drigar crossing is repaired, tested and identified, and reports its result. -/
  | crossingBringup (n : Nat) (present : Bool) (faults : List LaneFaults)
  /-- BOOT_SELF_TEST (R559). The boot self-test runs over cores, planes, rims, ports and links. -/
  | bootSelfTest (fails : BstFail)
  /-- BOOT_SELF_TEST_DONE (R560). The boot self-test ends, valid bits are cleared, and BST_STAT.DONE and BOOT_DONE rise. -/
  | bootSelfTestDone
  /-- RETIREMENTS_REAPPLIED (R561). EM1 reapplies the lifetime retirements, and BST_STAT.REAPPLIED rises. -/
  | retirementsReapplied
  /-- SRST_RELEASE (R598). SRST_N is released with PORST_N high, and start-up proceeds with the timestamp, fuse shadow and image store kept and the former bank reported STAGED. -/
  | srstRelease
  /-- SECTOR_PERIPHERY_FAULT (R461). A fault of a sector periphery isolates its four rims at once by R460 steps 1 to 3, and they answer FAULT until reset. -/
  | sectorPeripheryFault (layer : Nat) (sector : Nat) (cause : Nat)
  /-- SYNC_PLANE_FAULT (R469). A hard fault of the synchronisation plane parks the device, and every port then answers as R167 gives. -/
  | syncPlaneFault (cause : Nat)
  /-- PORT_ADAPTER_FAULT (R469). A fault of a port adapter stops that port alone. -/
  | portAdapterFault (x : Nat)
  /-- MOVER_ENGINE_FAULT (R469). A fault of a mover engine stops its four channels alone. -/
  | moverEngineFault (e : Nat)
  /-- CE_THRESHOLD_CROSSED (R465). A rim's CE_CNT rises by more than CE_THRESH.MAX within WIN, or its UE_CNT rises; EM1 then evacuates the rim if the spare is Idle, and otherwise raises IRQ_STAT bit 6. -/
  | ceThresholdCrossed (layer : Nat) (p : Nat)
  /-- ACTIVATION_KICK_TIMEOUT (R520). A core has not written its WDT_KICK within 50 ms of the activation's step 1, and the loader falls back to the previous bank, or reports FAILED on the first activation. -/
  | activationKickTimeout
  /-- LIFE_FLUSH_WRITTEN (R547). A life-store slot write of up to 40 ms ends and is verified; a good write sets IRQ_STAT bit 3 and answers LIFE_FLUSH, and a failed one marks the slot bad, moves on and sets bit 4. -/
  | lifeFlushWritten (ok : Bool)
deriving DecidableEq, Repr

end Sys2Proof
end

