-- ==== Sys2Proof/Machine/Ecc.lean ====
section
/-! DEFINITION. The two protection codes of a stored word (spec/15_integrity.md R441 to R443): the Hsiao SEC-DED (72,64)
code over a data word and its address, and CRC-32C over a segment and its address. -/
namespace Sys2Proof.Machine

/-- The 8-bit values of weight 3, in ascending order: the columns of data bits 0 to 55 (R441). -/
def colsWeight3 : List Nat :=
  [0x07, 0x0B, 0x0D, 0x0E, 0x13, 0x15, 0x16, 0x19, 0x1A, 0x1C, 0x23, 0x25, 0x26, 0x29, 0x2A, 0x2C, 0x31, 0x32, 0x34,
   0x38, 0x43, 0x45, 0x46, 0x49, 0x4A, 0x4C, 0x51, 0x52, 0x54, 0x58, 0x61, 0x62, 0x64, 0x68, 0x70, 0x83, 0x85, 0x86,
   0x89, 0x8A, 0x8C, 0x91, 0x92, 0x94, 0x98, 0xA1, 0xA2, 0xA4, 0xA8, 0xB0, 0xC1, 0xC2, 0xC4, 0xC8, 0xD0, 0xE0]

/-- The 8-bit values of weight 5, in ascending order: the first 8 are the columns of data bits 56 to 63, the next 27 those
of address bits 0 to 26 (R441). -/
def colsWeight5 : List Nat :=
  [0x1F, 0x2F, 0x37, 0x3B, 0x3D, 0x3E, 0x4F, 0x57, 0x5B, 0x5D, 0x5E, 0x67, 0x6B, 0x6D, 0x6E, 0x73, 0x75, 0x76, 0x79,
   0x7A, 0x7C, 0x8F, 0x97, 0x9B, 0x9D, 0x9E, 0xA7, 0xAB, 0xAD, 0xAE, 0xB3, 0xB5, 0xB6, 0xB9, 0xBA, 0xBC, 0xC7, 0xCB,
   0xCD, 0xCE, 0xD3, 0xD5, 0xD6, 0xD9, 0xDA, 0xDC, 0xE3, 0xE5, 0xE6, 0xE9, 0xEA, 0xEC, 0xF1, 0xF2, 0xF4, 0xF8]

/-- The columns of the 64 data bits. -/
def dataCols : List Nat := colsWeight3 ++ colsWeight5.take 8
/-- The columns of the 27 address bits. -/
def addrCols : List Nat := (colsWeight5.drop 8).take 27

/-- The exclusive-or of the columns of the bits of `x` that are 1. -/
def xorCols : List Nat → Nat → Nat
  | [], _ => 0
  | c :: cs, x => (if x % 2 = 1 then c else 0) ^^^ xorCols cs (x / 2)

/-- The check byte of data word `k` of the segment at `pta`, holding `w` (R441). -/
def checkByte (pta k w : Nat) : Nat := xorCols dataCols w ^^^ xorCols addrCols (((pta >>> 5) % 2 ^ 25) * 4 + k)

/-- What the code finds in one data word (R442). -/
inductive WordCheck where
  | clean
  | corrected (w : Nat)
  | bad
deriving DecidableEq, Repr

/-- The outcome of R442 for a word and its stored check byte. -/
def checkWord (pta k w chk : Nat) : WordCheck :=
  let syn := checkByte pta k w ^^^ chk
  if syn = 0 then .clean
  else if (List.range 8).any (fun j => syn == 2 ^ j) then .corrected w
  else match dataCols.findIdx? (· == syn) with
    | some i => .corrected (w ^^^ 2 ^ i)
    | none => .bad

/-- One byte into a reflected CRC-32C. -/
def crcByte (crc b : Nat) : Nat :=
  (List.range 8).foldl (fun c _ => if c % 2 = 1 then (c >>> 1) ^^^ 0x82F63B78 else c >>> 1) (crc ^^^ b)

/-- CRC-32C over the low `n` bytes of a little-endian number, from a running value. -/
def crcBytes (crc x : Nat) : Nat → Nat
  | 0 => crc
  | n + 1 => crcBytes (crcByte crc (x % 256)) (x / 256) n

/-- CRC-32C with the initial value and final exclusive-or of R443 and R219. -/
def crc32c (x n : Nat) : Nat := crcBytes 0xFFFFFFFF x n ^^^ 0xFFFFFFFF

/-- CRC-32C of a segment and its PTA (R443). -/
def segCrc (pta d : Nat) : Nat := crc32c (d + 2 ^ 256 * (pta / 32 * 32)) 36

/-- The check field of a segment at `pta`; `clsD` selects class D (R33). -/
def checkField (clsD : Bool) (pta d : Nat) : Nat :=
  if clsD then segCrc pta d
  else (List.range 4).foldl (fun acc k => acc + checkByte pta k (bits d (64 * k + 63) (64 * k)) * 256 ^ k) 0

/-- The stored word of a segment (R33). -/
def encodeWord (clsD : Bool) (pta : Nat) (d : Seg) : Stored :=
  BitVec.ofNat 288 (d.toNat + 2 ^ 256 * checkField clsD pta d.toNat)

/-- The outcome of a read's check: the data, whether a word was corrected, and whether it is uncorrectable. -/
structure SegCheck where
  data : Seg
  corrected : Bool
  bad  : Bool
deriving DecidableEq, Repr

/-- The check of a stored word under its class (R442, R443). -/
def decodeWord (clsD : Bool) (pta : Nat) (w : Stored) : SegCheck :=
  let d := w.toNat % 2 ^ 256
  let chk := w.toNat / 2 ^ 256
  if clsD then { data := BitVec.ofNat 256 d, corrected := false, bad := segCrc pta d != chk }
  else
    let rs := (List.range 4).map fun k => (k, checkWord pta k (bits d (64 * k + 63) (64 * k)) (bits chk (8 * k + 7) (8 * k)))
    let bad := rs.any fun r => r.2 == .bad
    let cor := rs.any fun r => match r.2 with | .corrected _ => true | _ => false
    let d' := rs.foldl (fun acc r => acc + (match r.2 with
      | .corrected w => w
      | _ => bits d (64 * r.1 + 63) (64 * r.1)) * 2 ^ (64 * r.1)) 0
    { data := BitVec.ofNat 256 (if bad then d else d'), corrected := cor && !bad, bad := bad }

end Sys2Proof.Machine
end

