-- ==== Sys2Proof/Config.lean ====
section
/-! DEFINITION. What is fixed when a device is made (`Dev`, the ordering code of spec/00_scope.md R1 to R3), and the
values the spec leaves open, which are opaque constants: nothing in this model can evaluate one or prove a value of it. -/
namespace Sys2Proof

/-- The configuration of a device, its ordering code RLT8-Dd-Bb-Ll-options (R1, R2). It never changes (R3). -/
structure Dev where
  dies  : Nat     -- d, 2 to 8
  broad : Nat     -- b, 4 or 8
  links : Nat     -- l, 0, 2 or 4
  optC  : Bool    -- cache sections
  optA  : Bool    -- rim ALU kernels
  optT  : Bool    -- token router
  optN  : Bool    -- embedded life store
deriving DecidableEq, Repr, Inhabited

/-- RLT8-D8-B8-L4-CATN, the device of the spec's worked examples. DESIGN CHOICE (log entry 1): the model's reset state
is of this configuration; every other configuration is a state too (`State.resetOf`). -/
def Dev.kiln16 : Dev :=
  { dies := 8, broad := 8, links := 4, optC := true, optA := true, optT := true, optN := true }

/-- The ordering codes that exist (R1, R2). -/
def Dev.valid (d : Dev) : Bool :=
  decide (2 ≤ d.dies ∧ d.dies ≤ 8) && (d.broad == 4 || d.broad == 8) && (d.links == 0 || d.links == 2 || d.links == 4)

namespace Config

/-- A value that the spec leaves open, drawn by a counter of the state (`State.freeCtr`). -/
opaque freeValue : Nat → BitVec 256
/-- The bits of the fused device unique identifier (R613), before the two values no device has are left out. -/
opaque fusedUid : BitVec 64
/-- The fused silicon stepping: [15:8] major, [7:0] minor (R583). -/
opaque fusedStepping : BitVec 16
/-- The fused die serial of each companion layer (R606, R613), before the value no die has is left out. -/
opaque fusedSerial : Nat → BitVec 32
/-- The fused cost of ledger event k at 0.90 V, in 0.1 pJ (R485). -/
opaque fusedCost : Nat → BitVec 16
/-- The hashes of the two firmware keys fused at manufacture, and whether a key's revocation fuse is blown (R517). -/
opaque fusedKeyHash : Nat → BitVec 256
opaque fusedKeyRevoked : Nat → Bool
/-- The fused hash of the service key (R558). -/
opaque fusedServiceHash : BitVec 256

end Config

/-- The device unique identifier: never all zeros, never all ones (R613). -/
def deviceUid : Nat :=
  let u := Config.fusedUid.toNat
  if u = 0 ∨ u = 0xFFFFFFFFFFFFFFFF then 1 else u

/-- The die serial of companion layer `n`: never 0 (R613). -/
def dieSerial (n : Nat) : Nat :=
  let u := (Config.fusedSerial n).toNat
  if u = 0 then 1 else u

end Sys2Proof
end

