-- ==== Sys2Proof/Machine/Registers.lean ====
section
/-! DEFINITION. The registers of the control space, one row for each register table of `spec/` (chapters 02 to 21),
and one named bit field for every field that is not reserved. A register is named PAGE_REGISTER, a field
PAGE_REGISTER_FIELD, after the spec's PAGE.REGISTER.FIELD (00 R12). Reserved bits have no field: they read zero and
ignore writes (R12). The reset values that the tables give as words ("by page", "fused", ...) stand as 0 here and are
filled in by `resetWord` of Machine/Ops.lean. -/
namespace Sys2Proof.Machine

/-- The page types of R572, and `any` for the common header of R577. -/
inductive Page where
  | any
  | ident
  | caps
  | sema
  | port
  | hub
  | regul
  | handleCmd
  | handleState
  | handleRead
  | handleGuard
  | syncCtr
  | syncRing
  | syncTag
  | syncBar
  | mover
  | rimalu
  | cache
  | link
  | windowCtl
  | windowTab
  | windowCch
  | integ
  | power
  | mailboxCtl
  | mbox
  | recorder
  | test
  | layer
  | rim
deriving DecidableEq, Repr

/-- The access codes of R11. -/
inductive Acc where
  | ro | rw | rw1c | w1s | rc | wo | rwo
deriving DecidableEq, Repr

/-- One field of a register: its bits, its access code and its reset value. -/
structure FieldRow where
  hi  : Nat
  lo  : Nat
  acc : Acc
  rst : Nat
deriving DecidableEq, Repr

/-- One register table row: `n` registers at `off + st * i`, repeated `m` times at a distance of `mt`. -/
structure RegRow where
  off : Nat
  n   : Nat
  st  : Nat
  m   : Nat
  mt  : Nat
  fields : List FieldRow
deriving DecidableEq, Repr

/-- A named bit field: the offset of its register within its page, and its bits. -/
structure Fld where
  off : Nat
  hi  : Nat
  lo  : Nat
deriving DecidableEq, Repr

/-- The whole word at an offset, as a field. -/
abbrev Fld.word (off : Nat) : Fld := { off := off, hi := 31, lo := 0 }

/-- The same field of the `i`-th register of an array whose registers lie `st` bytes apart. -/
abbrev Fld.at (f : Fld) (st i : Nat) : Fld := { off := f.off + st * i, hi := f.hi, lo := f.lo }

/-! ### Common header (R577), every page fields -/

/-- ANY.PAGE_ID (spec/20_register_pages.md). -/
def HDR_PAGE_ID : Nat := 0x000
def HDR_PAGE_ID_TYPE : Fld := { off := 0x000, hi := 31, lo := 24 }
def HDR_PAGE_ID_INSTANCE : Fld := { off := 0x000, hi := 23, lo := 8 }
def HDR_PAGE_ID_VERSION : Fld := { off := 0x000, hi := 7, lo := 0 }
/-- ANY.PAGE_CAP (spec/20_register_pages.md). -/
def HDR_PAGE_CAP : Nat := 0x004
def HDR_PAGE_CAP_DOMAIN : Fld := { off := 0x004, hi := 31, lo := 24 }
def HDR_PAGE_CAP_HASEN : Fld := { off := 0x004, hi := 23, lo := 23 }
def HDR_PAGE_CAP_OPTIONAL : Fld := { off := 0x004, hi := 22, lo := 22 }
def HDR_PAGE_CAP_IRQ_N : Fld := { off := 0x004, hi := 21, lo := 16 }
/-- ANY.CTL (spec/20_register_pages.md). -/
def HDR_CTL : Nat := 0x008
def HDR_CTL_EN : Fld := { off := 0x008, hi := 0, lo := 0 }
/-- ANY.STAT (spec/20_register_pages.md). -/
def HDR_STAT : Nat := 0x00C
def HDR_STAT_DRAINING : Fld := { off := 0x00C, hi := 31, lo := 31 }
def HDR_STAT_IDLE : Fld := { off := 0x00C, hi := 30, lo := 30 }
def HDR_STAT_OFF : Fld := { off := 0x00C, hi := 29, lo := 29 }
def HDR_STAT_PARKED : Fld := { off := 0x00C, hi := 28, lo := 28 }
def HDR_STAT_ERR : Fld := { off := 0x00C, hi := 27, lo := 27 }
/-- ANY.IRQ_STAT (spec/20_register_pages.md). -/
def HDR_IRQ_STAT : Nat := 0x010
def HDR_IRQ_STAT_PEND : Fld := { off := 0x010, hi := 31, lo := 0 }
/-- ANY.IRQ_EN (spec/20_register_pages.md). -/
def HDR_IRQ_EN : Nat := 0x014
def HDR_IRQ_EN_EN : Fld := { off := 0x014, hi := 31, lo := 0 }
/-- ANY.IRQ_FORCE (spec/20_register_pages.md). -/
def HDR_IRQ_FORCE : Nat := 0x018
def HDR_IRQ_FORCE_SET : Fld := { off := 0x018, hi := 31, lo := 0 }
/-- ANY.OWNER (spec/20_register_pages.md). -/
def HDR_OWNER : Nat := 0x01C
def HDR_OWNER_HOLDER : Fld := { off := 0x01C, hi := 7, lo := 6 }
def HDR_OWNER_NOGROUP : Fld := { off := 0x01C, hi := 5, lo := 5 }
def HDR_OWNER_GROUP : Fld := { off := 0x01C, hi := 4, lo := 0 }
/-- ANY.ERR_INFO (spec/20_register_pages.md). -/
def HDR_ERR_INFO : Nat := 0x020
def HDR_ERR_INFO_VALID : Fld := { off := 0x020, hi := 31, lo := 31 }
def HDR_ERR_INFO_MASTER : Fld := { off := 0x020, hi := 30, lo := 28 }
def HDR_ERR_INFO_CAUSE : Fld := { off := 0x020, hi := 27, lo := 24 }
/-- ANY.ERR_ADDR (spec/20_register_pages.md). -/
def HDR_ERR_ADDR : Nat := 0x024
def HDR_ERR_ADDR_OFFSET : Fld := { off := 0x024, hi := 20, lo := 0 }
/-- ANY.VIOL_CNT (spec/20_register_pages.md). -/
def HDR_VIOL_CNT : Nat := 0x028
def HDR_VIOL_CNT_COUNT : Fld := { off := 0x028, hi := 31, lo := 0 }

/-! ### IDENT page fields -/

/-- IDENT.ID0 (spec/20_register_pages.md). -/
def IDENT_ID0 : Nat := 0x040
def IDENT_ID0_VENDOR : Fld := { off := 0x040, hi := 31, lo := 16 }
def IDENT_ID0_PRODUCT : Fld := { off := 0x040, hi := 15, lo := 0 }
/-- IDENT.ID1 (spec/20_register_pages.md). -/
def IDENT_ID1 : Nat := 0x044
def IDENT_ID1_STEP_MAJ : Fld := { off := 0x044, hi := 31, lo := 24 }
def IDENT_ID1_STEP_MIN : Fld := { off := 0x044, hi := 23, lo := 16 }
def IDENT_ID1_MAPVER : Fld := { off := 0x044, hi := 15, lo := 8 }
/-- IDENT.UID_LO (spec/20_register_pages.md). -/
def IDENT_UID_LO : Nat := 0x048
def IDENT_UID_LO_UID : Fld := { off := 0x048, hi := 31, lo := 0 }
/-- IDENT.UID_HI (spec/20_register_pages.md). -/
def IDENT_UID_HI : Nat := 0x04C
def IDENT_UID_HI_UID_HI : Fld := { off := 0x04C, hi := 31, lo := 0 }
/-- IDENT.TIME_LO (spec/20_register_pages.md). -/
def IDENT_TIME_LO : Nat := 0x050
def IDENT_TIME_LO_TICKS : Fld := { off := 0x050, hi := 31, lo := 0 }
/-- IDENT.TIME_HI (spec/20_register_pages.md). -/
def IDENT_TIME_HI : Nat := 0x054
def IDENT_TIME_HI_TICKS_HI : Fld := { off := 0x054, hi := 31, lo := 0 }

/-! ### CAPS page fields -/

/-- CAPS.CFG (spec/20_register_pages.md). -/
def CAPS_CFG : Nat := 0x040
def CAPS_CFG_OPT : Fld := { off := 0x040, hi := 19, lo := 16 }
def CAPS_CFG_LINKS : Fld := { off := 0x040, hi := 11, lo := 8 }
def CAPS_CFG_BROAD : Fld := { off := 0x040, hi := 7, lo := 4 }
def CAPS_CFG_DIES : Fld := { off := 0x040, hi := 3, lo := 0 }
/-- CAPS.COUNTS (spec/20_register_pages.md). -/
def CAPS_COUNTS : Nat := 0x044
def CAPS_COUNTS_ACT_RIMS : Fld := { off := 0x044, hi := 31, lo := 24 }
def CAPS_COUNTS_PHYS_RIMS : Fld := { off := 0x044, hi := 23, lo := 16 }
def CAPS_COUNTS_SECTORS : Fld := { off := 0x044, hi := 15, lo := 8 }
def CAPS_COUNTS_LAYERS : Fld := { off := 0x044, hi := 7, lo := 0 }
/-- CAPS.CAPACITY (spec/20_register_pages.md). -/
def CAPS_CAPACITY : Nat := 0x048
def CAPS_CAPACITY_MIB : Fld := { off := 0x048, hi := 31, lo := 22 }
def CAPS_CAPACITY_FRAMES : Fld := { off := 0x048, hi := 16, lo := 0 }
/-- CAPS.BP_PRES (spec/20_register_pages.md). -/
def CAPS_BP_PRES : Nat := 0x04C
def CAPS_BP_PRES_BP : Fld := { off := 0x04C, hi := 7, lo := 0 }
/-- CAPS.LAYER_PRES (spec/20_register_pages.md). -/
def CAPS_LAYER_PRES : Nat := 0x050
def CAPS_LAYER_PRES_LAYER : Fld := { off := 0x050, hi := 7, lo := 0 }
/-- CAPS.LINK_PRES (spec/20_register_pages.md). -/
def CAPS_LINK_PRES : Nat := 0x054
def CAPS_LINK_PRES_PORT : Fld := { off := 0x054, hi := 3, lo := 0 }
/-- CAPS.UNIT_PRES (spec/20_register_pages.md). -/
def CAPS_UNIT_PRES : Nat := 0x058
def CAPS_UNIT_PRES_AMIYS : Fld := { off := 0x058, hi := 4, lo := 4 }
def CAPS_UNIT_PRES_LIFESTORE : Fld := { off := 0x058, hi := 3, lo := 3 }
def CAPS_UNIT_PRES_ROUTER : Fld := { off := 0x058, hi := 2, lo := 2 }
def CAPS_UNIT_PRES_KERNELS : Fld := { off := 0x058, hi := 1, lo := 1 }
def CAPS_UNIT_PRES_CACHE : Fld := { off := 0x058, hi := 0, lo := 0 }
/-- CAPS.PTYPE_PRES (spec/20_register_pages.md). -/
def CAPS_PTYPE_PRES : Nat := 0x05C
def CAPS_PTYPE_PRES_TYPES : Fld := { off := 0x05C, hi := 29, lo := 1 }
/-- CAPS.TIMING (spec/20_register_pages.md). -/
def CAPS_TIMING : Nat := 0x060
def CAPS_TIMING_NOM_PACE : Fld := { off := 0x060, hi := 31, lo := 16 }
def CAPS_TIMING_TIMEREF_MHZ : Fld := { off := 0x060, hi := 15, lo := 8 }

/-! ### SEMA page fields -/

/-- SEMA.SEM_OP (spec/20_register_pages.md). -/
def SEMA_SEM_OP : Nat := 0x040
def SEMA_SEM_OP_OP : Fld := { off := 0x040, hi := 31, lo := 30 }
def SEMA_SEM_OP_SEM : Fld := { off := 0x040, hi := 4, lo := 0 }
/-- SEMA.SEM_STAT (spec/20_register_pages.md). -/
def SEMA_SEM_STAT : Nat := 0x044
def SEMA_SEM_STAT_OWNER : Fld := { off := 0x044, hi := 31, lo := 30 }
def SEMA_SEM_STAT_RESULT : Fld := { off := 0x044, hi := 29, lo := 28 }
def SEMA_SEM_STAT_SEM : Fld := { off := 0x044, hi := 4, lo := 0 }
/-- SEMA.SEM_OWN0 (spec/20_register_pages.md). -/
def SEMA_SEM_OWN0 : Nat := 0x048
def SEMA_SEM_OWN0_OWN : Fld := { off := 0x048, hi := 31, lo := 0 }
/-- SEMA.SEM_OWN1 (spec/20_register_pages.md). -/
def SEMA_SEM_OWN1 : Nat := 0x04C
def SEMA_SEM_OWN1_OWN : Fld := { off := 0x04C, hi := 31, lo := 0 }
/-- SEMA.SEM_MINE (spec/20_register_pages.md). -/
def SEMA_SEM_MINE : Nat := 0x050
def SEMA_SEM_MINE_MINE : Fld := { off := 0x050, hi := 31, lo := 0 }
/-- SEMA.FORCE_LAST (spec/20_register_pages.md). -/
def SEMA_FORCE_LAST : Nat := 0x054
def SEMA_FORCE_LAST_NEW : Fld := { off := 0x054, hi := 31, lo := 30 }
def SEMA_FORCE_LAST_PREV : Fld := { off := 0x054, hi := 29, lo := 28 }
def SEMA_FORCE_LAST_SEM : Fld := { off := 0x054, hi := 4, lo := 0 }

/-! ### PORT page fields -/

/-- PORT.PORT_ID (spec/05_port_protocol.md). -/
def PORT_PORT_ID : Nat := 0x040
def PORT_PORT_ID_TAGS : Fld := { off := 0x040, hi := 31, lo := 24 }
def PORT_PORT_ID_CORE : Fld := { off := 0x040, hi := 18, lo := 16 }
def PORT_PORT_ID_HASCORE : Fld := { off := 0x040, hi := 15, lo := 15 }
def PORT_PORT_ID_INDEX : Fld := { off := 0x040, hi := 14, lo := 8 }
def PORT_PORT_ID_KIND : Fld := { off := 0x040, hi := 1, lo := 0 }
/-- PORT.PCTL (spec/05_port_protocol.md). -/
def PORT_PCTL : Nat := 0x044
def PORT_PCTL_MC_HOLD : Fld := { off := 0x044, hi := 25, lo := 16 }
def PORT_PCTL_STREAM_TID : Fld := { off := 0x044, hi := 13, lo := 8 }
def PORT_PCTL_URG_CAP : Fld := { off := 0x044, hi := 6, lo := 4 }
def PORT_PCTL_LOOP : Fld := { off := 0x044, hi := 2, lo := 1 }
def PORT_PCTL_EN : Fld := { off := 0x044, hi := 0, lo := 0 }
/-- PORT.PSTAT (spec/05_port_protocol.md). -/
def PORT_PSTAT : Nat := 0x048
def PORT_PSTAT_LOOP_REJ : Fld := { off := 0x048, hi := 26, lo := 26 }
def PORT_PSTAT_WLEN_ERR : Fld := { off := 0x048, hi := 25, lo := 25 }
def PORT_PSTAT_TAG_REUSE : Fld := { off := 0x048, hi := 24, lo := 24 }
def PORT_PSTAT_URG : Fld := { off := 0x048, hi := 18, lo := 16 }
def PORT_PSTAT_OUTST : Fld := { off := 0x048, hi := 15, lo := 8 }
def PORT_PSTAT_STATE : Fld := { off := 0x048, hi := 2, lo := 0 }
/-- PORT.REQ_CNT (spec/05_port_protocol.md). -/
def PORT_REQ_CNT : Nat := 0x04C
def PORT_REQ_CNT_COUNT : Fld := { off := 0x04C, hi := 31, lo := 0 }
/-- PORT.LINE_CNT (spec/05_port_protocol.md). -/
def PORT_LINE_CNT : Nat := 0x050
def PORT_LINE_CNT_COUNT : Fld := { off := 0x050, hi := 31, lo := 0 }
/-- PORT.MC_RECV (spec/05_port_protocol.md). -/
def PORT_MC_RECV : Nat := 0x054
def PORT_MC_RECV_COUNT : Fld := { off := 0x054, hi := 31, lo := 0 }
/-- PORT.MC_DROP (spec/05_port_protocol.md). -/
def PORT_MC_DROP : Nat := 0x058
def PORT_MC_DROP_COUNT : Fld := { off := 0x058, hi := 31, lo := 0 }
/-- PORT.STS_CNT (spec/05_port_protocol.md). -/
def PORT_STS_CNT : Nat := 0x060
def PORT_STS_CNT_COUNT : Fld := { off := 0x060, hi := 31, lo := 0 }
/-- PORT.LENS_CTL (spec/04_formats_and_lens.md). -/
def PORT_LENS_CTL : Nat := 0x100
def PORT_LENS_CTL_ENTRIES : Fld := { off := 0x100, hi := 11, lo := 8 }
def PORT_LENS_CTL_SFLUSH : Fld := { off := 0x100, hi := 1, lo := 1 }
def PORT_LENS_CTL_PRESENT : Fld := { off := 0x100, hi := 0, lo := 0 }
/-- PORT.LENS_SEED (spec/04_formats_and_lens.md). -/
def PORT_LENS_SEED : Nat := 0x104
def PORT_LENS_SEED_STATE : Fld := { off := 0x104, hi := 31, lo := 0 }
/-- PORT.LENS_HIT (spec/04_formats_and_lens.md). -/
def PORT_LENS_HIT : Nat := 0x108
def PORT_LENS_HIT_COUNT : Fld := { off := 0x108, hi := 31, lo := 0 }
/-- PORT.LENS_MISS (spec/04_formats_and_lens.md). -/
def PORT_LENS_MISS : Nat := 0x10C
def PORT_LENS_MISS_COUNT : Fld := { off := 0x10C, hi := 31, lo := 0 }
/-- PORT.LENS_SAT (spec/04_formats_and_lens.md). -/
def PORT_LENS_SAT : Nat := 0x110
def PORT_LENS_SAT_COUNT : Fld := { off := 0x110, hi := 31, lo := 0 }
/-- PORT.LENS_NAN (spec/04_formats_and_lens.md). -/
def PORT_LENS_NAN : Nat := 0x114
def PORT_LENS_NAN_COUNT : Fld := { off := 0x114, hi := 31, lo := 0 }

/-! ### HUB page fields -/

/-- HUB.PLANE_STAT (spec/06_hub.md). -/
def HUB_PLANE_STAT : Nat := 0x040
def HUB_PLANE_STAT_FO_CNT : Fld := { off := 0x040, hi := 31, lo := 24 }
def HUB_PLANE_STAT_REFUSED : Fld := { off := 0x040, hi := 12, lo := 12 }
def HUB_PLANE_STAT_B_STATE : Fld := { off := 0x040, hi := 11, lo := 8 }
def HUB_PLANE_STAT_A_STATE : Fld := { off := 0x040, hi := 7, lo := 4 }
def HUB_PLANE_STAT_MODE : Fld := { off := 0x040, hi := 1, lo := 0 }
/-- HUB.PLANE_CTL (spec/06_hub.md). -/
def HUB_PLANE_CTL : Nat := 0x044
def HUB_PLANE_CTL_OFF_B : Fld := { off := 0x044, hi := 1, lo := 1 }
def HUB_PLANE_CTL_OFF_A : Fld := { off := 0x044, hi := 0, lo := 0 }
/-- HUB.FO_LAST (spec/06_hub.md). -/
def HUB_FO_LAST : Nat := 0x048
def HUB_FO_LAST_PLANE : Fld := { off := 0x048, hi := 31, lo := 31 }
def HUB_FO_LAST_CAUSE : Fld := { off := 0x048, hi := 30, lo := 28 }
def HUB_FO_LAST_DUR : Fld := { off := 0x048, hi := 15, lo := 0 }
/-- HUB.FO_LOST (spec/06_hub.md). -/
def HUB_FO_LOST : Nat := 0x04C
def HUB_FO_LOST_COUNT : Fld := { off := 0x04C, hi := 31, lo := 0 }
/-- HUB.URG_STAT (spec/06_hub.md). -/
def HUB_URG_STAT : Nat := 0x050
def HUB_URG_STAT_OVF : Fld := { off := 0x050, hi := 31, lo := 31 }
def HUB_URG_STAT_SECTOR : Fld := { off := 0x050, hi := 20, lo := 16 }
/-- HUB.URG_OVF_CNT (spec/06_hub.md). -/
def HUB_URG_OVF_CNT : Nat := 0x054
def HUB_URG_OVF_CNT_COUNT : Fld := { off := 0x054, hi := 31, lo := 0 }
/-- HUB.URG_LAT_MAX (spec/06_hub.md). -/
def HUB_URG_LAT_MAX : Nat := 0x058
def HUB_URG_LAT_MAX_MAX : Fld := { off := 0x058, hi := 15, lo := 0 }
/-- HUB.PROMO_CNT (spec/06_hub.md). -/
def HUB_PROMO_CNT : Nat := 0x05C
def HUB_PROMO_CNT_COUNT : Fld := { off := 0x05C, hi := 31, lo := 0 }
/-- HUB.RMW_PASS_CNT (spec/06_hub.md). -/
def HUB_RMW_PASS_CNT : Nat := 0x060
def HUB_RMW_PASS_CNT_COUNT : Fld := { off := 0x060, hi := 31, lo := 0 }
/-- HUB.SPOOL (spec/06_hub.md). -/
def HUB_SPOOL : Nat := 0x080
def HUB_SPOOL_UOCC : Fld := { off := 0x080, hi := 31, lo := 26 }
def HUB_SPOOL_HWM : Fld := { off := 0x080, hi := 24, lo := 16 }
def HUB_SPOOL_OCC : Fld := { off := 0x080, hi := 8, lo := 0 }

/-! ### REGUL page fields -/

/-- REGUL.REGUL_CTL (spec/07_regulation.md). -/
def REGUL_REGUL_CTL : Nat := 0x040
def REGUL_REGUL_CTL_HAPPLY : Fld := { off := 0x040, hi := 4, lo := 4 }
def REGUL_REGUL_CTL_HIST_ERR : Fld := { off := 0x040, hi := 3, lo := 3 }
def REGUL_REGUL_CTL_LOCKED : Fld := { off := 0x040, hi := 2, lo := 2 }
def REGUL_REGUL_CTL_LOCK_VIOL : Fld := { off := 0x040, hi := 1, lo := 1 }
def REGUL_REGUL_CTL_LOCK : Fld := { off := 0x040, hi := 0, lo := 0 }
/-- REGUL.BRAKED_LO (spec/07_regulation.md). -/
def REGUL_BRAKED_LO : Nat := 0x044
def REGUL_BRAKED_LO_TIDS : Fld := { off := 0x044, hi := 31, lo := 0 }
/-- REGUL.BRAKED_HI (spec/07_regulation.md). -/
def REGUL_BRAKED_HI : Nat := 0x048
def REGUL_BRAKED_HI_TIDS : Fld := { off := 0x048, hi := 31, lo := 0 }
/-- REGUL.TABLE_SIG (spec/07_regulation.md). -/
def REGUL_TABLE_SIG : Nat := 0x04C
def REGUL_TABLE_SIG_SIG : Fld := { off := 0x04C, hi := 31, lo := 0 }
/-- REGUL.SNAP_CTL (spec/07_regulation.md). -/
def REGUL_SNAP_CTL : Nat := 0x050
def REGUL_SNAP_CTL_BUSY : Fld := { off := 0x050, hi := 31, lo := 31 }
def REGUL_SNAP_CTL_SNAP_OVR : Fld := { off := 0x050, hi := 30, lo := 30 }
def REGUL_SNAP_CTL_CLRH : Fld := { off := 0x050, hi := 8, lo := 8 }
def REGUL_SNAP_CTL_GO : Fld := { off := 0x050, hi := 7, lo := 7 }
def REGUL_SNAP_CTL_TID : Fld := { off := 0x050, hi := 5, lo := 0 }
/-- REGUL.PREEMPT (spec/07_regulation.md). -/
def REGUL_PREEMPT : Nat := 0x054
def REGUL_PREEMPT_TID : Fld := { off := 0x054, hi := 5, lo := 0 }
/-- REGUL.HEDGE (spec/07_regulation.md). -/
def REGUL_HEDGE : Nat := 0x060
def REGUL_HEDGE_EDGEHI : Fld := { off := 0x060, hi := 31, lo := 16 }
def REGUL_HEDGE_EDGELO : Fld := { off := 0x060, hi := 15, lo := 0 }
/-- REGUL.TCFG (spec/07_regulation.md). -/
def REGUL_TCFG : Nat := 0x100
def REGUL_TCFG_BRK_ISSUE : Fld := { off := 0x100, hi := 31, lo := 31 }
def REGUL_TCFG_BRK_QUEUE : Fld := { off := 0x100, hi := 30, lo := 30 }
def REGUL_TCFG_BRK_EMERG : Fld := { off := 0x100, hi := 29, lo := 29 }
def REGUL_TCFG_BRAKED : Fld := { off := 0x100, hi := 28, lo := 28 }
def REGUL_TCFG_FORCE : Fld := { off := 0x100, hi := 25, lo := 25 }
def REGUL_TCFG_SHARE : Fld := { off := 0x100, hi := 23, lo := 12 }
def REGUL_TCFG_CLASS : Fld := { off := 0x100, hi := 9, lo := 8 }
def REGUL_TCFG_WIN_M1 : Fld := { off := 0x100, hi := 7, lo := 0 }
/-- REGUL.TBUD (spec/07_regulation.md). -/
def REGUL_TBUD : Nat := 0x104
def REGUL_TBUD_BUDGET : Fld := { off := 0x104, hi := 31, lo := 0 }
/-- REGUL.TSTEP (spec/07_regulation.md). -/
def REGUL_TSTEP : Nat := 0x108
def REGUL_TSTEP_OCC : Fld := { off := 0x108, hi := 27, lo := 16 }
def REGUL_TSTEP_STEP : Fld := { off := 0x108, hi := 15, lo := 0 }
/-- REGUL.TSPENT (spec/07_regulation.md). -/
def REGUL_TSPENT : Nat := 0x10C
def REGUL_TSPENT_SPENT : Fld := { off := 0x10C, hi := 31, lo := 0 }
/-- REGUL.SNAP_HDR (spec/07_regulation.md). -/
def REGUL_SNAP_HDR : Nat := 0x800
def REGUL_SNAP_HDR_VALID : Fld := { off := 0x800, hi := 31, lo := 31 }
def REGUL_SNAP_HDR_STEP : Fld := { off := 0x800, hi := 23, lo := 8 }
def REGUL_SNAP_HDR_TID : Fld := { off := 0x800, hi := 5, lo := 0 }
/-- REGUL.SNAP_PRE (spec/07_regulation.md). -/
def REGUL_SNAP_PRE : Nat := 0x804
def REGUL_SNAP_PRE_VALUE : Fld := { off := 0x804, hi := 31, lo := 0 }
/-- REGUL.SNAP_TIME (spec/07_regulation.md). -/
def REGUL_SNAP_TIME : Nat := 0x808
def REGUL_SNAP_TIME_VALUE : Fld := { off := 0x808, hi := 31, lo := 0 }
/-- REGUL.SNAP_SEGRD (spec/07_regulation.md). -/
def REGUL_SNAP_SEGRD : Nat := 0x810
def REGUL_SNAP_SEGRD_VALUE : Fld := { off := 0x810, hi := 31, lo := 0 }
/-- REGUL.SNAP_SEGWR (spec/07_regulation.md). -/
def REGUL_SNAP_SEGWR : Nat := 0x818
def REGUL_SNAP_SEGWR_VALUE : Fld := { off := 0x818, hi := 31, lo := 0 }
/-- REGUL.SNAP_RIMACC (spec/07_regulation.md). -/
def REGUL_SNAP_RIMACC : Nat := 0x820
def REGUL_SNAP_RIMACC_VALUE : Fld := { off := 0x820, hi := 31, lo := 0 }
/-- REGUL.SNAP_GRANTS (spec/07_regulation.md). -/
def REGUL_SNAP_GRANTS : Nat := 0x828
def REGUL_SNAP_GRANTS_VALUE : Fld := { off := 0x828, hi := 31, lo := 0 }
/-- REGUL.SNAP_WAIT (spec/07_regulation.md). -/
def REGUL_SNAP_WAIT : Nat := 0x830
def REGUL_SNAP_WAIT_VALUE : Fld := { off := 0x830, hi := 31, lo := 0 }
/-- REGUL.SNAP_BRAKE (spec/07_regulation.md). -/
def REGUL_SNAP_BRAKE : Nat := 0x838
def REGUL_SNAP_BRAKE_VALUE : Fld := { off := 0x838, hi := 31, lo := 0 }
/-- REGUL.SNAP_DISPL (spec/07_regulation.md). -/
def REGUL_SNAP_DISPL : Nat := 0x840
def REGUL_SNAP_DISPL_VALUE : Fld := { off := 0x840, hi := 31, lo := 0 }
/-- REGUL.SNAP_HIST (spec/07_regulation.md). -/
def REGUL_SNAP_HIST : Nat := 0x880
def REGUL_SNAP_HIST_VALUE : Fld := { off := 0x880, hi := 31, lo := 0 }

/-! ### HANDLE_CMD page fields -/

/-- HANDLE_CMD.SDESC0 (spec/03_handles.md). -/
def HANDLE_CMD_SDESC0 : Nat := 0x040
def HANDLE_CMD_SDESC0_GEN : Fld := { off := 0x040, hi := 31, lo := 24 }
def HANDLE_CMD_SDESC0_POWER : Fld := { off := 0x040, hi := 18, lo := 17 }
def HANDLE_CMD_SDESC0_BASE_LAYER : Fld := { off := 0x040, hi := 16, lo := 14 }
def HANDLE_CMD_SDESC0_BASE_FRAME : Fld := { off := 0x040, hi := 13, lo := 0 }
/-- HANDLE_CMD.SDESC1 (spec/03_handles.md). -/
def HANDLE_CMD_SDESC1 : Nat := 0x044
def HANDLE_CMD_SDESC1_TROW : Fld := { off := 0x044, hi := 31, lo := 16 }
def HANDLE_CMD_SDESC1_EXTENT_M1 : Fld := { off := 0x044, hi := 15, lo := 0 }
/-- HANDLE_CMD.SDESC2 (spec/03_handles.md). -/
def HANDLE_CMD_SDESC2 : Nat := 0x048
def HANDLE_CMD_SDESC2_SPLANE : Fld := { off := 0x048, hi := 31, lo := 16 }
def HANDLE_CMD_SDESC2_FORMAT : Fld := { off := 0x048, hi := 15, lo := 12 }
def HANDLE_CMD_SDESC2_OVF : Fld := { off := 0x048, hi := 11, lo := 11 }
def HANDLE_CMD_SDESC2_SROUND : Fld := { off := 0x048, hi := 10, lo := 10 }
def HANDLE_CMD_SDESC2_CLASS : Fld := { off := 0x048, hi := 9, lo := 9 }
def HANDLE_CMD_SDESC2_LINEAR : Fld := { off := 0x048, hi := 8, lo := 8 }
def HANDLE_CMD_SDESC2_WIN_OK : Fld := { off := 0x048, hi := 7, lo := 7 }
def HANDLE_CMD_SDESC2_TIDLOCK : Fld := { off := 0x048, hi := 6, lo := 6 }
def HANDLE_CMD_SDESC2_OWNER_TID : Fld := { off := 0x048, hi := 5, lo := 0 }
/-- HANDLE_CMD.SDESC3 (spec/03_handles.md). -/
def HANDLE_CMD_SDESC3 : Nat := 0x04C
def HANDLE_CMD_SDESC3_CORES : Fld := { off := 0x04C, hi := 31, lo := 24 }
def HANDLE_CMD_SDESC3_RIGHTS : Fld := { off := 0x04C, hi := 23, lo := 0 }
/-- HANDLE_CMD.SDESC4 (spec/03_handles.md). -/
def HANDLE_CMD_SDESC4 : Nat := 0x050
def HANDLE_CMD_SDESC4_SW_TAG : Fld := { off := 0x050, hi := 31, lo := 0 }
/-- HANDLE_CMD.SDESC5 (spec/03_handles.md). -/
def HANDLE_CMD_SDESC5 : Nat := 0x054
def HANDLE_CMD_SDESC5_SW_TAG : Fld := { off := 0x054, hi := 31, lo := 0 }
/-- HANDLE_CMD.SDESC6 (spec/03_handles.md). -/
def HANDLE_CMD_SDESC6 : Nat := 0x058
def HANDLE_CMD_SDESC6_SW_TAG : Fld := { off := 0x058, hi := 31, lo := 0 }
/-- HANDLE_CMD.SDESC7 (spec/03_handles.md). -/
def HANDLE_CMD_SDESC7 : Nat := 0x05C
def HANDLE_CMD_SDESC7_SW_TAG : Fld := { off := 0x05C, hi := 31, lo := 0 }
/-- HANDLE_CMD.HCMD (spec/03_handles.md). -/
def HANDLE_CMD_HCMD : Nat := 0x060
def HANDLE_CMD_HCMD_OP : Fld := { off := 0x060, hi := 31, lo := 28 }
def HANDLE_CMD_HCMD_OVCHK : Fld := { off := 0x060, hi := 11, lo := 11 }
def HANDLE_CMD_HCMD_ICLEAR : Fld := { off := 0x060, hi := 10, lo := 10 }
def HANDLE_CMD_HCMD_HANDLE : Fld := { off := 0x060, hi := 8, lo := 0 }
/-- HANDLE_CMD.HCMD_STAT (spec/03_handles.md). -/
def HANDLE_CMD_HCMD_STAT : Nat := 0x064
def HANDLE_CMD_HCMD_STAT_BUSY : Fld := { off := 0x064, hi := 31, lo := 31 }
def HANDLE_CMD_HCMD_STAT_OVERRUN : Fld := { off := 0x064, hi := 30, lo := 30 }
def HANDLE_CMD_HCMD_STAT_OVL_WITH : Fld := { off := 0x064, hi := 24, lo := 16 }
def HANDLE_CMD_HCMD_STAT_GEN : Fld := { off := 0x064, hi := 15, lo := 8 }
def HANDLE_CMD_HCMD_STAT_RESULT : Fld := { off := 0x064, hi := 3, lo := 0 }

/-! ### HANDLE_STATE page fields -/

/-- HANDLE_STATE.HSTATE (spec/03_handles.md). -/
def HANDLE_STATE_HSTATE : Nat := 0x040
def HANDLE_STATE_HSTATE_CMD : Fld := { off := 0x040, hi := 16, lo := 16 }
def HANDLE_STATE_HSTATE_GEN : Fld := { off := 0x040, hi := 15, lo := 8 }
def HANDLE_STATE_HSTATE_STATE : Fld := { off := 0x040, hi := 1, lo := 0 }

/-! ### HANDLE_READ page fields -/

/-- HANDLE_READ.RDESC0 (spec/03_handles.md). -/
def HANDLE_READ_RDESC0 : Nat := 0x040
def HANDLE_READ_RDESC0_GEN : Fld := { off := 0x040, hi := 31, lo := 24 }
def HANDLE_READ_RDESC0_POWER : Fld := { off := 0x040, hi := 18, lo := 17 }
def HANDLE_READ_RDESC0_BASE_LAYER : Fld := { off := 0x040, hi := 16, lo := 14 }
def HANDLE_READ_RDESC0_BASE_FRAME : Fld := { off := 0x040, hi := 13, lo := 0 }
/-- HANDLE_READ.RDESC1 (spec/03_handles.md). -/
def HANDLE_READ_RDESC1 : Nat := 0x044
def HANDLE_READ_RDESC1_TROW : Fld := { off := 0x044, hi := 31, lo := 16 }
def HANDLE_READ_RDESC1_EXTENT_M1 : Fld := { off := 0x044, hi := 15, lo := 0 }
/-- HANDLE_READ.RDESC2 (spec/03_handles.md). -/
def HANDLE_READ_RDESC2 : Nat := 0x048
def HANDLE_READ_RDESC2_SPLANE : Fld := { off := 0x048, hi := 31, lo := 16 }
def HANDLE_READ_RDESC2_FORMAT : Fld := { off := 0x048, hi := 15, lo := 12 }
def HANDLE_READ_RDESC2_OVF : Fld := { off := 0x048, hi := 11, lo := 11 }
def HANDLE_READ_RDESC2_SROUND : Fld := { off := 0x048, hi := 10, lo := 10 }
def HANDLE_READ_RDESC2_CLASS : Fld := { off := 0x048, hi := 9, lo := 9 }
def HANDLE_READ_RDESC2_LINEAR : Fld := { off := 0x048, hi := 8, lo := 8 }
def HANDLE_READ_RDESC2_WIN_OK : Fld := { off := 0x048, hi := 7, lo := 7 }
def HANDLE_READ_RDESC2_TIDLOCK : Fld := { off := 0x048, hi := 6, lo := 6 }
def HANDLE_READ_RDESC2_OWNER_TID : Fld := { off := 0x048, hi := 5, lo := 0 }
/-- HANDLE_READ.RDESC3 (spec/03_handles.md). -/
def HANDLE_READ_RDESC3 : Nat := 0x04C
def HANDLE_READ_RDESC3_CORES : Fld := { off := 0x04C, hi := 31, lo := 24 }
def HANDLE_READ_RDESC3_RIGHTS : Fld := { off := 0x04C, hi := 23, lo := 0 }
/-- HANDLE_READ.RDESC4 (spec/03_handles.md). -/
def HANDLE_READ_RDESC4 : Nat := 0x050
def HANDLE_READ_RDESC4_SW_TAG : Fld := { off := 0x050, hi := 31, lo := 0 }
/-- HANDLE_READ.RDESC5 (spec/03_handles.md). -/
def HANDLE_READ_RDESC5 : Nat := 0x054
def HANDLE_READ_RDESC5_SW_TAG : Fld := { off := 0x054, hi := 31, lo := 0 }
/-- HANDLE_READ.RDESC6 (spec/03_handles.md). -/
def HANDLE_READ_RDESC6 : Nat := 0x058
def HANDLE_READ_RDESC6_SW_TAG : Fld := { off := 0x058, hi := 31, lo := 0 }
/-- HANDLE_READ.RDESC7 (spec/03_handles.md). -/
def HANDLE_READ_RDESC7 : Nat := 0x05C
def HANDLE_READ_RDESC7_SW_TAG : Fld := { off := 0x05C, hi := 31, lo := 0 }
/-- HANDLE_READ.RD_HANDLE (spec/03_handles.md). -/
def HANDLE_READ_RD_HANDLE : Nat := 0x060
def HANDLE_READ_RD_HANDLE_GEN : Fld := { off := 0x060, hi := 23, lo := 16 }
def HANDLE_READ_RD_HANDLE_HANDLE : Fld := { off := 0x060, hi := 8, lo := 0 }

/-! ### HANDLE_GUARD page fields -/

/-- HANDLE_GUARD.PRIV_MASK (spec/03_handles.md). -/
def HANDLE_GUARD_PRIV_MASK : Nat := 0x040
def HANDLE_GUARD_PRIV_MASK_MV : Fld := { off := 0x040, hi := 31, lo := 16 }
def HANDLE_GUARD_PRIV_MASK_NP : Fld := { off := 0x040, hi := 15, lo := 0 }
/-- HANDLE_GUARD.STALE_CNT (spec/03_handles.md). -/
def HANDLE_GUARD_STALE_CNT : Nat := 0x044
def HANDLE_GUARD_STALE_CNT_COUNT : Fld := { off := 0x044, hi := 31, lo := 0 }
/-- HANDLE_GUARD.RIGHTS_CNT (spec/03_handles.md). -/
def HANDLE_GUARD_RIGHTS_CNT : Nat := 0x048
def HANDLE_GUARD_RIGHTS_CNT_COUNT : Fld := { off := 0x048, hi := 31, lo := 0 }
/-- HANDLE_GUARD.BOUNDS_CNT (spec/03_handles.md). -/
def HANDLE_GUARD_BOUNDS_CNT : Nat := 0x04C
def HANDLE_GUARD_BOUNDS_CNT_COUNT : Fld := { off := 0x04C, hi := 31, lo := 0 }
/-- HANDLE_GUARD.LAST_ERR (spec/03_handles.md). -/
def HANDLE_GUARD_LAST_ERR : Nat := 0x050
def HANDLE_GUARD_LAST_ERR_KIND : Fld := { off := 0x050, hi := 29, lo := 28 }
def HANDLE_GUARD_LAST_ERR_SOURCE : Fld := { off := 0x050, hi := 26, lo := 20 }
def HANDLE_GUARD_LAST_ERR_HANDLE : Fld := { off := 0x050, hi := 16, lo := 8 }
def HANDLE_GUARD_LAST_ERR_GEN : Fld := { off := 0x050, hi := 7, lo := 0 }

/-! ### SYNC_CTR page fields -/

/-- SYNC_CTR.SY_ID (spec/10_synchronisation.md). -/
def SYNC_CTR_SY_ID : Nat := 0x040
def SYNC_CTR_SY_ID_RINGS_M1 : Fld := { off := 0x040, hi := 31, lo := 24 }
def SYNC_CTR_SY_ID_WATCHES : Fld := { off := 0x040, hi := 23, lo := 16 }
def SYNC_CTR_SY_ID_BARS : Fld := { off := 0x040, hi := 15, lo := 9 }
def SYNC_CTR_SY_ID_CTRS : Fld := { off := 0x040, hi := 8, lo := 3 }
def SYNC_CTR_SY_ID_DOMAIN : Fld := { off := 0x040, hi := 2, lo := 2 }
/-- SYNC_CTR.CTR_CMD (spec/10_synchronisation.md). -/
def SYNC_CTR_CTR_CMD : Nat := 0x044
def SYNC_CTR_CTR_CMD_OP : Fld := { off := 0x044, hi := 31, lo := 30 }
def SYNC_CTR_CTR_CMD_CTR : Fld := { off := 0x044, hi := 24, lo := 16 }
def SYNC_CTR_CTR_CMD_VALUE : Fld := { off := 0x044, hi := 15, lo := 0 }
/-- SYNC_CTR.SY_STAT (spec/10_synchronisation.md). -/
def SYNC_CTR_SY_STAT : Nat := 0x048
def SYNC_CTR_SY_STAT_CMD_ERR : Fld := { off := 0x048, hi := 31, lo := 31 }
def SYNC_CTR_SY_STAT_BAR_ERR : Fld := { off := 0x048, hi := 30, lo := 30 }
/-- SYNC_CTR.SY_SQ_CNT (spec/10_synchronisation.md). -/
def SYNC_CTR_SY_SQ_CNT : Nat := 0x04C
def SYNC_CTR_SY_SQ_CNT_COUNT : Fld := { off := 0x04C, hi := 31, lo := 0 }
/-- SYNC_CTR.SY_WAKE_CNT (spec/10_synchronisation.md). -/
def SYNC_CTR_SY_WAKE_CNT : Nat := 0x050
def SYNC_CTR_SY_WAKE_CNT_COUNT : Fld := { off := 0x050, hi := 31, lo := 0 }
/-- SYNC_CTR.SY_ERR_CNT (spec/10_synchronisation.md). -/
def SYNC_CTR_SY_ERR_CNT : Nat := 0x054
def SYNC_CTR_SY_ERR_CNT_COUNT : Fld := { off := 0x054, hi := 31, lo := 0 }
/-- SYNC_CTR.OVF (spec/10_synchronisation.md). -/
def SYNC_CTR_OVF : Nat := 0x080
def SYNC_CTR_OVF_FLAGS : Fld := { off := 0x080, hi := 31, lo := 0 }
/-- SYNC_CTR.UNF (spec/10_synchronisation.md). -/
def SYNC_CTR_UNF : Nat := 0x0B0
def SYNC_CTR_UNF_FLAGS : Fld := { off := 0x0B0, hi := 31, lo := 0 }
/-- SYNC_CTR.CTR (spec/10_synchronisation.md). -/
def SYNC_CTR_CTR : Nat := 0x200
def SYNC_CTR_CTR_VALUE : Fld := { off := 0x200, hi := 15, lo := 0 }
/-- SYNC_CTR.WATCH (spec/10_synchronisation.md). -/
def SYNC_CTR_WATCH : Nat := 0x800
def SYNC_CTR_WATCH_ARMED : Fld := { off := 0x800, hi := 31, lo := 31 }
def SYNC_CTR_WATCH_COND : Fld := { off := 0x800, hi := 30, lo := 30 }
def SYNC_CTR_WATCH_CONS : Fld := { off := 0x800, hi := 29, lo := 29 }
def SYNC_CTR_WATCH_CHAN : Fld := { off := 0x800, hi := 28, lo := 28 }
def SYNC_CTR_WATCH_CTR : Fld := { off := 0x800, hi := 21, lo := 16 }
def SYNC_CTR_WATCH_VALUE : Fld := { off := 0x800, hi := 15, lo := 0 }

/-! ### SYNC_RING page fields -/

/-- SYNC_RING.RING_ERR (spec/10_synchronisation.md). -/
def SYNC_RING_RING_ERR : Nat := 0x040
def SYNC_RING_RING_ERR_LOCKED : Fld := { off := 0x040, hi := 31, lo := 31 }
def SYNC_RING_RING_ERR_REASON : Fld := { off := 0x040, hi := 26, lo := 24 }
def SYNC_RING_RING_ERR_RING : Fld := { off := 0x040, hi := 7, lo := 0 }
/-- SYNC_RING.RCFG0 (spec/10_synchronisation.md). -/
def SYNC_RING_RCFG0 : Nat := 0x100
def SYNC_RING_RCFG0_EN : Fld := { off := 0x100, hi := 31, lo := 31 }
def SYNC_RING_RCFG0_SLINES_M1 : Fld := { off := 0x100, hi := 29, lo := 24 }
def SYNC_RING_RCFG0_GEN : Fld := { off := 0x100, hi := 23, lo := 16 }
def SYNC_RING_RCFG0_HANDLE : Fld := { off := 0x100, hi := 8, lo := 0 }
/-- SYNC_RING.RCFG1 (spec/10_synchronisation.md). -/
def SYNC_RING_RCFG1 : Nat := 0x104
def SYNC_RING_RCFG1_BASE : Fld := { off := 0x104, hi := 20, lo := 0 }
/-- SYNC_RING.RCFG2 (spec/10_synchronisation.md). -/
def SYNC_RING_RCFG2 : Nat := 0x108
def SYNC_RING_RCFG2_NSLOTS_M1 : Fld := { off := 0x108, hi := 31, lo := 18 }
def SYNC_RING_RCFG2_TBASE : Fld := { off := 0x108, hi := 13, lo := 0 }
/-- SYNC_RING.RCFG3 (spec/10_synchronisation.md). -/
def SYNC_RING_RCFG3 : Nat := 0x10C
def SYNC_RING_RCFG3_TMO_M1 : Fld := { off := 0x10C, hi := 31, lo := 16 }
/-- SYNC_RING.RCUR (spec/10_synchronisation.md). -/
def SYNC_RING_RCUR : Nat := 0x900
def SYNC_RING_RCUR_STALE : Fld := { off := 0x900, hi := 30, lo := 30 }
def SYNC_RING_RCUR_PCUR : Fld := { off := 0x900, hi := 29, lo := 16 }
def SYNC_RING_RCUR_CCUR : Fld := { off := 0x900, hi := 13, lo := 0 }

/-! ### SYNC_TAG page fields -/

/-- SYNC_TAG.TAG_CMD (spec/10_synchronisation.md). -/
def SYNC_TAG_TAG_CMD : Nat := 0x040
def SYNC_TAG_TAG_CMD_OP : Fld := { off := 0x040, hi := 31, lo := 30 }
def SYNC_TAG_TAG_CMD_RING : Fld := { off := 0x040, hi := 29, lo := 22 }
def SYNC_TAG_TAG_CMD_SLOT : Fld := { off := 0x040, hi := 13, lo := 0 }
/-- SYNC_TAG.PARK_NOW (spec/10_synchronisation.md). -/
def SYNC_TAG_PARK_NOW : Nat := 0x044
def SYNC_TAG_PARK_NOW_COUNT : Fld := { off := 0x044, hi := 31, lo := 0 }
/-- SYNC_TAG.PARK_FULL (spec/10_synchronisation.md). -/
def SYNC_TAG_PARK_FULL : Nat := 0x048
def SYNC_TAG_PARK_FULL_COUNT : Fld := { off := 0x048, hi := 31, lo := 0 }
/-- SYNC_TAG.TMO_CNT (spec/10_synchronisation.md). -/
def SYNC_TAG_TMO_CNT : Nat := 0x04C
def SYNC_TAG_TMO_CNT_COUNT : Fld := { off := 0x04C, hi := 31, lo := 0 }
/-- SYNC_TAG.DBL_CNT (spec/10_synchronisation.md). -/
def SYNC_TAG_DBL_CNT : Nat := 0x050
def SYNC_TAG_DBL_CNT_COUNT : Fld := { off := 0x050, hi := 31, lo := 0 }
/-- SYNC_TAG.TAGBITS (spec/10_synchronisation.md). -/
def SYNC_TAG_TAGBITS : Nat := 0x800
def SYNC_TAG_TAGBITS_FULL : Fld := { off := 0x800, hi := 31, lo := 0 }

/-! ### SYNC_BAR page fields -/

/-- SYNC_BAR.BARRIVE (spec/10_synchronisation.md). -/
def SYNC_BAR_BARRIVE : Nat := 0x040
def SYNC_BAR_BARRIVE_BAR : Fld := { off := 0x040, hi := 21, lo := 16 }
def SYNC_BAR_BARRIVE_COUNT : Fld := { off := 0x040, hi := 11, lo := 0 }
/-- SYNC_BAR.BCFG (spec/10_synchronisation.md). -/
def SYNC_BAR_BCFG : Nat := 0x100
def SYNC_BAR_BCFG_EN : Fld := { off := 0x100, hi := 31, lo := 31 }
def SYNC_BAR_BCFG_DOMAIN : Fld := { off := 0x100, hi := 30, lo := 30 }
def SYNC_BAR_BCFG_RESET : Fld := { off := 0x100, hi := 29, lo := 29 }
def SYNC_BAR_BCFG_DEVS : Fld := { off := 0x100, hi := 22, lo := 16 }
def SYNC_BAR_BCFG_EXPECT : Fld := { off := 0x100, hi := 11, lo := 0 }
/-- SYNC_BAR.BSTAT (spec/10_synchronisation.md). -/
def SYNC_BAR_BSTAT : Nat := 0x104
def SYNC_BAR_BSTAT_PHASE : Fld := { off := 0x104, hi := 31, lo := 28 }
def SYNC_BAR_BSTAT_HELD : Fld := { off := 0x104, hi := 27, lo := 27 }
def SYNC_BAR_BSTAT_DEVCNT : Fld := { off := 0x104, hi := 22, lo := 16 }
def SYNC_BAR_BSTAT_COUNT : Fld := { off := 0x104, hi := 11, lo := 0 }
/-- SYNC_BAR.BWAIT (spec/10_synchronisation.md). -/
def SYNC_BAR_BWAIT : Nat := 0x108
def SYNC_BAR_BWAIT_WAIT : Fld := { off := 0x108, hi := 31, lo := 0 }
/-- SYNC_BAR.BDONE (spec/10_synchronisation.md). -/
def SYNC_BAR_BDONE : Nat := 0x10C
def SYNC_BAR_BDONE_COUNT : Fld := { off := 0x10C, hi := 31, lo := 0 }

/-! ### MOVER page fields -/

/-- MOVER.MV_ID (spec/09_movers_and_tokens.md). -/
def MOVER_MV_ID : Nat := 0x040
def MOVER_MV_ID_ROUTER : Fld := { off := 0x040, hi := 16, lo := 16 }
def MOVER_MV_ID_CHANNELS : Fld := { off := 0x040, hi := 15, lo := 8 }
def MOVER_MV_ID_ENGINES : Fld := { off := 0x040, hi := 3, lo := 0 }
/-- MOVER.CRED_TMO (spec/09_movers_and_tokens.md). -/
def MOVER_CRED_TMO : Nat := 0x044
def MOVER_CRED_TMO_TICKS : Fld := { off := 0x044, hi := 31, lo := 0 }
/-- MOVER.MP_STAT (spec/09_movers_and_tokens.md). -/
def MOVER_MP_STAT : Nat := 0x048
def MOVER_MP_STAT_OUTST : Fld := { off := 0x048, hi := 7, lo := 0 }
/-- MOVER.MP_ERR (spec/09_movers_and_tokens.md). -/
def MOVER_MP_ERR : Nat := 0x04C
def MOVER_MP_ERR_COUNT : Fld := { off := 0x04C, hi := 31, lo := 0 }
/-- MOVER.ENG_CTL (spec/09_movers_and_tokens.md). -/
def MOVER_ENG_CTL : Nat := 0x080
def MOVER_ENG_CTL_SFLUSH : Fld := { off := 0x080, hi := 0, lo := 0 }
/-- MOVER.ENG_STAT (spec/09_movers_and_tokens.md). -/
def MOVER_ENG_STAT : Nat := 0x084
def MOVER_ENG_STAT_OUTST : Fld := { off := 0x084, hi := 15, lo := 8 }
def MOVER_ENG_STAT_ENTRIES : Fld := { off := 0x084, hi := 3, lo := 0 }
/-- MOVER.ENG_LINES (spec/09_movers_and_tokens.md). -/
def MOVER_ENG_LINES : Nat := 0x088
def MOVER_ENG_LINES_COUNT : Fld := { off := 0x088, hi := 31, lo := 0 }
/-- MOVER.ENG_DEFER (spec/09_movers_and_tokens.md). -/
def MOVER_ENG_DEFER : Nat := 0x08C
def MOVER_ENG_DEFER_COUNT : Fld := { off := 0x08C, hi := 31, lo := 0 }
/-- MOVER.ENG_UNDER (spec/09_movers_and_tokens.md). -/
def MOVER_ENG_UNDER : Nat := 0x090
def MOVER_ENG_UNDER_COUNT : Fld := { off := 0x090, hi := 31, lo := 0 }
/-- MOVER.CH_CFG (spec/09_movers_and_tokens.md). -/
def MOVER_CH_CFG : Nat := 0x200
def MOVER_CH_CFG_DTID : Fld := { off := 0x200, hi := 21, lo := 16 }
def MOVER_CH_CFG_CR_LOG2 : Fld := { off := 0x200, hi := 11, lo := 8 }
def MOVER_CH_CFG_CR_ROUTE : Fld := { off := 0x200, hi := 2, lo := 2 }
def MOVER_CH_CFG_CR_LOC : Fld := { off := 0x200, hi := 1, lo := 1 }
/-- MOVER.CH_CRH (spec/09_movers_and_tokens.md). -/
def MOVER_CH_CRH : Nat := 0x204
def MOVER_CH_CRH_HANDLE : Fld := { off := 0x204, hi := 16, lo := 8 }
def MOVER_CH_CRH_GEN : Fld := { off := 0x204, hi := 7, lo := 0 }
/-- MOVER.CH_CRA (spec/09_movers_and_tokens.md). -/
def MOVER_CH_CRA : Nat := 0x208
def MOVER_CH_CRA_ADDR : Fld := { off := 0x208, hi := 31, lo := 0 }
/-- MOVER.CH_CRAH (spec/09_movers_and_tokens.md). -/
def MOVER_CH_CRAH : Nat := 0x20C
def MOVER_CH_CRAH_ADDR_HI : Fld := { off := 0x20C, hi := 15, lo := 0 }
/-- MOVER.CH_CRIDX (spec/09_movers_and_tokens.md). -/
def MOVER_CH_CRIDX : Nat := 0x210
def MOVER_CH_CRIDX_PROD : Fld := { off := 0x210, hi := 31, lo := 16 }
def MOVER_CH_CRIDX_CONS : Fld := { off := 0x210, hi := 15, lo := 0 }
/-- MOVER.CH_STAT (spec/09_movers_and_tokens.md). -/
def MOVER_CH_STAT : Nat := 0x214
def MOVER_CH_STAT_CONS_ERR : Fld := { off := 0x214, hi := 17, lo := 17 }
def MOVER_CH_STAT_BADSUB : Fld := { off := 0x214, hi := 16, lo := 16 }
def MOVER_CH_STAT_POSTQ : Fld := { off := 0x214, hi := 15, lo := 11 }
def MOVER_CH_STAT_WAIT : Fld := { off := 0x214, hi := 7, lo := 4 }
def MOVER_CH_STAT_ACT : Fld := { off := 0x214, hi := 1, lo := 0 }
/-- MOVER.CH_LAST (spec/09_movers_and_tokens.md). -/
def MOVER_CH_LAST : Nat := 0x218
def MOVER_CH_LAST_SEQ : Fld := { off := 0x218, hi := 31, lo := 16 }
def MOVER_CH_LAST_STATUS : Fld := { off := 0x218, hi := 11, lo := 8 }
def MOVER_CH_LAST_NAKC : Fld := { off := 0x218, hi := 7, lo := 0 }
/-- MOVER.CH_DONE (spec/09_movers_and_tokens.md). -/
def MOVER_CH_DONE : Nat := 0x21C
def MOVER_CH_DONE_COUNT : Fld := { off := 0x21C, hi := 31, lo := 0 }
/-- MOVER.CH_SEED (spec/09_movers_and_tokens.md). -/
def MOVER_CH_SEED : Nat := 0x220
def MOVER_CH_SEED_STATE : Fld := { off := 0x220, hi := 31, lo := 0 }
/-- MOVER.CH_POST0 (spec/09_movers_and_tokens.md). -/
def MOVER_CH_POST0 : Nat := 0x224
def MOVER_CH_POST0_WORD : Fld := { off := 0x224, hi := 31, lo := 0 }
/-- MOVER.CH_POST1 (spec/09_movers_and_tokens.md). -/
def MOVER_CH_POST1 : Nat := 0x228
def MOVER_CH_POST1_WORD : Fld := { off := 0x228, hi := 31, lo := 0 }
/-- MOVER.CH_POST2 (spec/09_movers_and_tokens.md). -/
def MOVER_CH_POST2 : Nat := 0x22C
def MOVER_CH_POST2_WORD : Fld := { off := 0x22C, hi := 31, lo := 0 }
/-- MOVER.CH_POST3 (spec/09_movers_and_tokens.md). -/
def MOVER_CH_POST3 : Nat := 0x230
def MOVER_CH_POST3_WORD : Fld := { off := 0x230, hi := 31, lo := 0 }
/-- MOVER.EXPMAP (spec/09_movers_and_tokens.md). -/
def MOVER_EXPMAP : Nat := 0x800
def MOVER_EXPMAP_VALID : Fld := { off := 0x800, hi := 31, lo := 31 }
def MOVER_EXPMAP_REMOTE : Fld := { off := 0x800, hi := 30, lo := 30 }
def MOVER_EXPMAP_ACCOUNT : Fld := { off := 0x800, hi := 29, lo := 24 }
def MOVER_EXPMAP_RING : Fld := { off := 0x800, hi := 23, lo := 16 }
/-- MOVER.RETMAP (spec/09_movers_and_tokens.md). -/
def MOVER_RETMAP : Nat := 0xC00
def MOVER_RETMAP_VALID : Fld := { off := 0xC00, hi := 31, lo := 31 }
def MOVER_RETMAP_REMOTE : Fld := { off := 0xC00, hi := 30, lo := 30 }
def MOVER_RETMAP_ACCOUNT : Fld := { off := 0xC00, hi := 29, lo := 24 }
def MOVER_RETMAP_RING : Fld := { off := 0xC00, hi := 23, lo := 16 }
/-- MOVER.CA_CFG (spec/09_movers_and_tokens.md). -/
def MOVER_CA_CFG : Nat := 0xD00
def MOVER_CA_CFG_VALID : Fld := { off := 0xD00, hi := 31, lo := 31 }
def MOVER_CA_CFG_CLR : Fld := { off := 0xD00, hi := 30, lo := 30 }
def MOVER_CA_CFG_DEV : Fld := { off := 0xD00, hi := 21, lo := 16 }
def MOVER_CA_CFG_RING : Fld := { off := 0xD00, hi := 7, lo := 0 }
/-- MOVER.CA_CRED (spec/09_movers_and_tokens.md). -/
def MOVER_CA_CRED : Nat := 0xD04
def MOVER_CA_CRED_CREDITS : Fld := { off := 0xD04, hi := 15, lo := 0 }

/-! ### RIMALU page fields -/

/-- RIMALU.RA_ID (spec/08_inplace_work.md). -/
def RIMALU_RA_ID : Nat := 0x040
def RIMALU_RA_ID_SLOTS : Fld := { off := 0x040, hi := 11, lo := 8 }
def RIMALU_RA_ID_QUEUES : Fld := { off := 0x040, hi := 7, lo := 4 }
def RIMALU_RA_ID_KERNELS : Fld := { off := 0x040, hi := 0, lo := 0 }
/-- RIMALU.RA_CTL (spec/08_inplace_work.md). -/
def RIMALU_RA_CTL : Nat := 0x044
def RIMALU_RA_CTL_QEN : Fld := { off := 0x044, hi := 3, lo := 0 }
/-- RIMALU.RA_PUSH (spec/08_inplace_work.md). -/
def RIMALU_RA_PUSH : Nat := 0x048
def RIMALU_RA_PUSH_Q : Fld := { off := 0x048, hi := 1, lo := 0 }
/-- RIMALU.KCTL (spec/08_inplace_work.md). -/
def RIMALU_KCTL : Nat := 0x04C
def RIMALU_KCTL_KERR : Fld := { off := 0x04C, hi := 15, lo := 12 }
def RIMALU_KCTL_LEN_M1 : Fld := { off := 0x04C, hi := 11, lo := 8 }
def RIMALU_KCTL_SLOT : Fld := { off := 0x04C, hi := 6, lo := 4 }
def RIMALU_KCTL_LOAD : Fld := { off := 0x04C, hi := 0, lo := 0 }
/-- RIMALU.KSLOT_STAT (spec/08_inplace_work.md). -/
def RIMALU_KSLOT_STAT : Nat := 0x050
def RIMALU_KSLOT_STAT_INUSE : Fld := { off := 0x050, hi := 15, lo := 8 }
def RIMALU_KSLOT_STAT_VALID : Fld := { off := 0x050, hi := 7, lo := 0 }
/-- RIMALU.RA_SAT (spec/08_inplace_work.md). -/
def RIMALU_RA_SAT : Nat := 0x054
def RIMALU_RA_SAT_COUNT : Fld := { off := 0x054, hi := 31, lo := 0 }
/-- RIMALU.RA_NAN (spec/08_inplace_work.md). -/
def RIMALU_RA_NAN : Nat := 0x058
def RIMALU_RA_NAN_COUNT : Fld := { off := 0x058, hi := 31, lo := 0 }
/-- RIMALU.RA_STEPS (spec/08_inplace_work.md). -/
def RIMALU_RA_STEPS : Nat := 0x05C
def RIMALU_RA_STEPS_COUNT : Fld := { off := 0x05C, hi := 31, lo := 0 }
/-- RIMALU.Q_STAT (spec/08_inplace_work.md). -/
def RIMALU_Q_STAT : Nat := 0x080
def RIMALU_Q_STAT_REJ : Fld := { off := 0x080, hi := 24, lo := 24 }
def RIMALU_Q_STAT_DEFER : Fld := { off := 0x080, hi := 21, lo := 21 }
def RIMALU_Q_STAT_RUN : Fld := { off := 0x080, hi := 20, lo := 20 }
def RIMALU_Q_STAT_CPL : Fld := { off := 0x080, hi := 16, lo := 12 }
def RIMALU_Q_STAT_DEPTH : Fld := { off := 0x080, hi := 8, lo := 4 }
def RIMALU_Q_STAT_STATE : Fld := { off := 0x080, hi := 1, lo := 0 }
/-- RIMALU.Q_CPL (spec/08_inplace_work.md). -/
def RIMALU_Q_CPL : Nat := 0x084
def RIMALU_Q_CPL_VALID : Fld := { off := 0x084, hi := 31, lo := 31 }
def RIMALU_Q_CPL_RESULT : Fld := { off := 0x084, hi := 23, lo := 20 }
def RIMALU_Q_CPL_SEQ : Fld := { off := 0x084, hi := 15, lo := 0 }
/-- RIMALU.Q_CPL_STEP (spec/08_inplace_work.md). -/
def RIMALU_Q_CPL_STEP : Nat := 0x088
def RIMALU_Q_CPL_STEP_FAILED : Fld := { off := 0x088, hi := 31, lo := 31 }
def RIMALU_Q_CPL_STEP_FAIL_STEP : Fld := { off := 0x088, hi := 19, lo := 0 }
/-- RIMALU.Q_RESULT (spec/08_inplace_work.md). -/
def RIMALU_Q_RESULT : Nat := 0x08C
def RIMALU_Q_RESULT_VALUE : Fld := { off := 0x08C, hi := 31, lo := 0 }
/-- RIMALU.Q_DONE (spec/08_inplace_work.md). -/
def RIMALU_Q_DONE : Nat := 0x090
def RIMALU_Q_DONE_VALUE : Fld := { off := 0x090, hi := 31, lo := 0 }
/-- RIMALU.Q_DEFER (spec/08_inplace_work.md). -/
def RIMALU_Q_DEFER : Nat := 0x094
def RIMALU_Q_DEFER_VALUE : Fld := { off := 0x094, hi := 31, lo := 0 }
/-- RIMALU.OPREC0 (spec/08_inplace_work.md). -/
def RIMALU_OPREC0 : Nat := 0x200
def RIMALU_OPREC0_KIND : Fld := { off := 0x200, hi := 31, lo := 28 }
def RIMALU_OPREC0_KSLOT : Fld := { off := 0x200, hi := 27, lo := 25 }
def RIMALU_OPREC0_IRQ : Fld := { off := 0x200, hi := 24, lo := 24 }
def RIMALU_OPREC0_CNT : Fld := { off := 0x200, hi := 23, lo := 23 }
def RIMALU_OPREC0_CORE : Fld := { off := 0x200, hi := 22, lo := 20 }
def RIMALU_OPREC0_COUNTER : Fld := { off := 0x200, hi := 19, lo := 14 }
def RIMALU_OPREC0_TID : Fld := { off := 0x200, hi := 13, lo := 8 }
def RIMALU_OPREC0_BMODE : Fld := { off := 0x200, hi := 7, lo := 6 }
def RIMALU_OPREC0_AMUL : Fld := { off := 0x200, hi := 5, lo := 4 }
def RIMALU_OPREC0_BMUL : Fld := { off := 0x200, hi := 3, lo := 2 }
def RIMALU_OPREC0_DMUL : Fld := { off := 0x200, hi := 1, lo := 0 }
/-- RIMALU.OPREC1 (spec/08_inplace_work.md). -/
def RIMALU_OPREC1 : Nat := 0x204
def RIMALU_OPREC1_BHANDLE : Fld := { off := 0x204, hi := 26, lo := 18 }
def RIMALU_OPREC1_AHANDLE : Fld := { off := 0x204, hi := 17, lo := 9 }
def RIMALU_OPREC1_DHANDLE : Fld := { off := 0x204, hi := 8, lo := 0 }
/-- RIMALU.OPREC2 (spec/08_inplace_work.md). -/
def RIMALU_OPREC2 : Nat := 0x208
def RIMALU_OPREC2_DGEN : Fld := { off := 0x208, hi := 31, lo := 24 }
def RIMALU_OPREC2_DDIR : Fld := { off := 0x208, hi := 23, lo := 23 }
def RIMALU_OPREC2_DLINE : Fld := { off := 0x208, hi := 20, lo := 0 }
/-- RIMALU.OPREC3 (spec/08_inplace_work.md). -/
def RIMALU_OPREC3 : Nat := 0x20C
def RIMALU_OPREC3_AGEN : Fld := { off := 0x20C, hi := 31, lo := 24 }
def RIMALU_OPREC3_ADIR : Fld := { off := 0x20C, hi := 23, lo := 23 }
def RIMALU_OPREC3_ALINE : Fld := { off := 0x20C, hi := 20, lo := 0 }
/-- RIMALU.OPREC4 (spec/08_inplace_work.md). -/
def RIMALU_OPREC4 : Nat := 0x210
def RIMALU_OPREC4_BGEN : Fld := { off := 0x210, hi := 31, lo := 24 }
def RIMALU_OPREC4_BDIR : Fld := { off := 0x210, hi := 23, lo := 23 }
def RIMALU_OPREC4_BLINE : Fld := { off := 0x210, hi := 20, lo := 0 }
/-- RIMALU.OPREC5 (spec/08_inplace_work.md). -/
def RIMALU_OPREC5 : Nat := 0x214
def RIMALU_OPREC5_NSTEPS_M1 : Fld := { off := 0x214, hi := 31, lo := 12 }
/-- RIMALU.OPREC6 (spec/08_inplace_work.md). -/
def RIMALU_OPREC6 : Nat := 0x218
def RIMALU_OPREC6_SEQ : Fld := { off := 0x218, hi := 31, lo := 16 }
def RIMALU_OPREC6_SEED : Fld := { off := 0x218, hi := 15, lo := 0 }
/-- RIMALU.OPREC7 (spec/08_inplace_work.md). -/
def RIMALU_OPREC7 : Nat := 0x21C
/-- RIMALU.OPREC8 (spec/08_inplace_work.md). -/
def RIMALU_OPREC8 : Nat := 0x220
def RIMALU_OPREC8_OPND : Fld := { off := 0x220, hi := 31, lo := 0 }
/-- RIMALU.OPREC9 (spec/08_inplace_work.md). -/
def RIMALU_OPREC9 : Nat := 0x224
def RIMALU_OPREC9_OPND : Fld := { off := 0x224, hi := 31, lo := 0 }
/-- RIMALU.OPREC10 (spec/08_inplace_work.md). -/
def RIMALU_OPREC10 : Nat := 0x228
def RIMALU_OPREC10_OPND : Fld := { off := 0x228, hi := 31, lo := 0 }
/-- RIMALU.OPREC11 (spec/08_inplace_work.md). -/
def RIMALU_OPREC11 : Nat := 0x22C
def RIMALU_OPREC11_OPND : Fld := { off := 0x22C, hi := 31, lo := 0 }
/-- RIMALU.OPREC12 (spec/08_inplace_work.md). -/
def RIMALU_OPREC12 : Nat := 0x230
def RIMALU_OPREC12_OPND : Fld := { off := 0x230, hi := 31, lo := 0 }
/-- RIMALU.OPREC13 (spec/08_inplace_work.md). -/
def RIMALU_OPREC13 : Nat := 0x234
def RIMALU_OPREC13_OPND : Fld := { off := 0x234, hi := 31, lo := 0 }
/-- RIMALU.OPREC14 (spec/08_inplace_work.md). -/
def RIMALU_OPREC14 : Nat := 0x238
def RIMALU_OPREC14_OPND : Fld := { off := 0x238, hi := 31, lo := 0 }
/-- RIMALU.OPREC15 (spec/08_inplace_work.md). -/
def RIMALU_OPREC15 : Nat := 0x23C
def RIMALU_OPREC15_OPND : Fld := { off := 0x23C, hi := 31, lo := 0 }
/-- RIMALU.KSTAGE (spec/08_inplace_work.md). -/
def RIMALU_KSTAGE : Nat := 0x300
def RIMALU_KSTAGE_INSTR : Fld := { off := 0x300, hi := 31, lo := 0 }
/-- RIMALU.KSLOT (spec/08_inplace_work.md). -/
def RIMALU_KSLOT : Nat := 0x400
def RIMALU_KSLOT_INSTR : Fld := { off := 0x400, hi := 31, lo := 0 }

/-! ### CACHE page fields -/

/-- CACHE.CA_ID (spec/12_cache_mode.md). -/
def CACHE_CA_ID : Nat := 0x040
def CACHE_CA_ID_LINE : Fld := { off := 0x040, hi := 23, lo := 16 }
def CACHE_CA_ID_WAYS : Fld := { off := 0x040, hi := 15, lo := 8 }
def CACHE_CA_ID_SECTIONS : Fld := { off := 0x040, hi := 7, lo := 0 }
/-- CACHE.SEC_CMD (spec/12_cache_mode.md). -/
def CACHE_SEC_CMD : Nat := 0x044
def CACHE_SEC_CMD_GO : Fld := { off := 0x044, hi := 31, lo := 31 }
def CACHE_SEC_CMD_TARGET : Fld := { off := 0x044, hi := 7, lo := 0 }
/-- CACHE.SEC_STAT (spec/12_cache_mode.md). -/
def CACHE_SEC_STAT : Nat := 0x048
def CACHE_SEC_STAT_BUSY : Fld := { off := 0x048, hi := 31, lo := 31 }
def CACHE_SEC_STAT_XB_REJ : Fld := { off := 0x048, hi := 30, lo := 30 }
def CACHE_SEC_STAT_RESULT : Fld := { off := 0x048, hi := 27, lo := 24 }
def CACHE_SEC_STAT_OVL_WITH : Fld := { off := 0x048, hi := 16, lo := 8 }
def CACHE_SEC_STAT_CUR : Fld := { off := 0x048, hi := 7, lo := 0 }
/-- CACHE.XBASE_LO (spec/12_cache_mode.md). -/
def CACHE_XBASE_LO : Nat := 0x04C
def CACHE_XBASE_LO_BASE : Fld := { off := 0x04C, hi := 31, lo := 12 }
/-- CACHE.XBASE_HI (spec/12_cache_mode.md). -/
def CACHE_XBASE_HI : Nat := 0x050
def CACHE_XBASE_HI_BASE_HI : Fld := { off := 0x050, hi := 15, lo := 0 }
/-- CACHE.COP_ADDR_LO (spec/12_cache_mode.md). -/
def CACHE_COP_ADDR_LO : Nat := 0x054
def CACHE_COP_ADDR_LO_ADDR : Fld := { off := 0x054, hi := 31, lo := 7 }
/-- CACHE.COP_ADDR_HI (spec/12_cache_mode.md). -/
def CACHE_COP_ADDR_HI : Nat := 0x058
def CACHE_COP_ADDR_HI_ADDR_HI : Fld := { off := 0x058, hi := 15, lo := 0 }
/-- CACHE.COP_LEN (spec/12_cache_mode.md). -/
def CACHE_COP_LEN : Nat := 0x05C
def CACHE_COP_LEN_LINES_M1 : Fld := { off := 0x05C, hi := 23, lo := 0 }
/-- CACHE.COP_CMD (spec/12_cache_mode.md). -/
def CACHE_COP_CMD : Nat := 0x060
def CACHE_COP_CMD_OP : Fld := { off := 0x060, hi := 31, lo := 30 }
def CACHE_COP_CMD_ALL : Fld := { off := 0x060, hi := 29, lo := 29 }
def CACHE_COP_CMD_CNT : Fld := { off := 0x060, hi := 28, lo := 28 }
def CACHE_COP_CMD_IRQ : Fld := { off := 0x060, hi := 27, lo := 27 }
def CACHE_COP_CMD_CORE : Fld := { off := 0x060, hi := 24, lo := 22 }
def CACHE_COP_CMD_COUNTER : Fld := { off := 0x060, hi := 21, lo := 16 }
/-- CACHE.COP_STAT (spec/12_cache_mode.md). -/
def CACHE_COP_STAT : Nat := 0x064
def CACHE_COP_STAT_BUSY : Fld := { off := 0x064, hi := 31, lo := 31 }
def CACHE_COP_STAT_OVERRUN : Fld := { off := 0x064, hi := 30, lo := 30 }
def CACHE_COP_STAT_DONE : Fld := { off := 0x064, hi := 23, lo := 0 }
/-- CACHE.HIT_CNT (spec/12_cache_mode.md). -/
def CACHE_HIT_CNT : Nat := 0x068
def CACHE_HIT_CNT_COUNT : Fld := { off := 0x068, hi := 31, lo := 0 }
/-- CACHE.MISS_CNT (spec/12_cache_mode.md). -/
def CACHE_MISS_CNT : Nat := 0x06C
def CACHE_MISS_CNT_COUNT : Fld := { off := 0x06C, hi := 31, lo := 0 }
/-- CACHE.WB_CNT (spec/12_cache_mode.md). -/
def CACHE_WB_CNT : Nat := 0x070
def CACHE_WB_CNT_COUNT : Fld := { off := 0x070, hi := 31, lo := 0 }
/-- CACHE.WB_ERR (spec/12_cache_mode.md). -/
def CACHE_WB_ERR : Nat := 0x074
def CACHE_WB_ERR_COUNT : Fld := { off := 0x074, hi := 31, lo := 0 }
/-- CACHE.LOST_CNT (spec/12_cache_mode.md). -/
def CACHE_LOST_CNT : Nat := 0x078
def CACHE_LOST_CNT_COUNT : Fld := { off := 0x078, hi := 31, lo := 0 }
/-- CACHE.LOST_ADDR_LO (spec/12_cache_mode.md). -/
def CACHE_LOST_ADDR_LO : Nat := 0x07C
def CACHE_LOST_ADDR_LO_ADDR : Fld := { off := 0x07C, hi := 31, lo := 7 }
/-- CACHE.LOST_ADDR_HI (spec/12_cache_mode.md). -/
def CACHE_LOST_ADDR_HI : Nat := 0x080
def CACHE_LOST_ADDR_HI_ADDR_HI : Fld := { off := 0x080, hi := 15, lo := 0 }

/-! ### LINK page fields -/

/-- LINK.LK_ID (spec/13_amiys_link.md). -/
def LINK_LK_ID : Nat := 0x040
def LINK_LK_ID_MGR : Fld := { off := 0x040, hi := 7, lo := 7 }
def LINK_LK_ID_PORTS : Fld := { off := 0x040, hi := 2, lo := 0 }
/-- LINK.ENUM_CTL (spec/13_amiys_link.md). -/
def LINK_ENUM_CTL : Nat := 0x044
def LINK_ENUM_CTL_TMO : Fld := { off := 0x044, hi := 31, lo := 16 }
def LINK_ENUM_CTL_GO : Fld := { off := 0x044, hi := 0, lo := 0 }
/-- LINK.ENUM_STAT (spec/13_amiys_link.md). -/
def LINK_ENUM_STAT : Nat := 0x048
def LINK_ENUM_STAT_STATE : Fld := { off := 0x048, hi := 31, lo := 28 }
def LINK_ENUM_STAT_CAUSE : Fld := { off := 0x048, hi := 27, lo := 24 }
def LINK_ENUM_STAT_DEVICES : Fld := { off := 0x048, hi := 22, lo := 16 }
def LINK_ENUM_STAT_ADDR_V : Fld := { off := 0x048, hi := 15, lo := 15 }
def LINK_ENUM_STAT_ADDR : Fld := { off := 0x048, hi := 5, lo := 0 }
/-- LINK.LK_CFG (spec/13_amiys_link.md). -/
def LINK_LK_CFG : Nat := 0x04C
def LINK_LK_CFG_RETRY_MAX : Fld := { off := 0x04C, hi := 7, lo := 4 }
def LINK_LK_CFG_HOP_MAX : Fld := { off := 0x04C, hi := 3, lo := 0 }
/-- LINK.E2E_TMO (spec/13_amiys_link.md). -/
def LINK_E2E_TMO : Nat := 0x050
def LINK_E2E_TMO_TICKS : Fld := { off := 0x050, hi := 31, lo := 0 }
/-- LINK.NAK_LAST (spec/13_amiys_link.md). -/
def LINK_NAK_LAST : Nat := 0x054
def LINK_NAK_LAST_CAUSE : Fld := { off := 0x054, hi := 31, lo := 24 }
def LINK_NAK_LAST_TO : Fld := { off := 0x054, hi := 21, lo := 16 }
def LINK_NAK_LAST_DST : Fld := { off := 0x054, hi := 13, lo := 8 }
def LINK_NAK_LAST_PTYPE : Fld := { off := 0x054, hi := 3, lo := 0 }
/-- LINK.NAK_CNT (spec/13_amiys_link.md). -/
def LINK_NAK_CNT : Nat := 0x058
def LINK_NAK_CNT_COUNT : Fld := { off := 0x058, hi := 31, lo := 0 }
/-- LINK.DTIME_LO (spec/13_amiys_link.md). -/
def LINK_DTIME_LO : Nat := 0x060
def LINK_DTIME_LO_VALUE : Fld := { off := 0x060, hi := 31, lo := 0 }
/-- LINK.DTIME_HI (spec/13_amiys_link.md). -/
def LINK_DTIME_HI : Nat := 0x064
def LINK_DTIME_HI_VALUE : Fld := { off := 0x064, hi := 31, lo := 0 }
/-- LINK.DT_OFS_LO (spec/13_amiys_link.md). -/
def LINK_DT_OFS_LO : Nat := 0x068
def LINK_DT_OFS_LO_VALUE : Fld := { off := 0x068, hi := 31, lo := 0 }
/-- LINK.DT_OFS_HI (spec/13_amiys_link.md). -/
def LINK_DT_OFS_HI : Nat := 0x06C
def LINK_DT_OFS_HI_VALUE : Fld := { off := 0x06C, hi := 31, lo := 0 }
/-- LINK.TS_CTL (spec/13_amiys_link.md). -/
def LINK_TS_CTL : Nat := 0x070
def LINK_TS_CTL_GO : Fld := { off := 0x070, hi := 31, lo := 31 }
def LINK_TS_CTL_ERR : Fld := { off := 0x070, hi := 30, lo := 30 }
def LINK_TS_CTL_PERIOD : Fld := { off := 0x070, hi := 15, lo := 0 }
/-- LINK.FWD (spec/13_amiys_link.md). -/
def LINK_FWD : Nat := 0x100
def LINK_FWD_VALID : Fld := { off := 0x100, hi := 31, lo := 31 }
def LINK_FWD_WRAP : Fld := { off := 0x100, hi := 30, lo := 30 }
def LINK_FWD_PORT : Fld := { off := 0x100, hi := 2, lo := 0 }
/-- LINK.P_CTL (spec/13_amiys_link.md). -/
def LINK_P_CTL : Nat := 0x400
def LINK_P_CTL_MIN_LANES : Fld := { off := 0x400, hi := 27, lo := 24 }
def LINK_P_CTL_PMD : Fld := { off := 0x400, hi := 21, lo := 20 }
def LINK_P_CTL_DIM : Fld := { off := 0x400, hi := 17, lo := 16 }
def LINK_P_CTL_LOOP : Fld := { off := 0x400, hi := 13, lo := 12 }
def LINK_P_CTL_RETRAIN : Fld := { off := 0x400, hi := 8, lo := 8 }
def LINK_P_CTL_EN : Fld := { off := 0x400, hi := 0, lo := 0 }
/-- LINK.P_STAT (spec/13_amiys_link.md). -/
def LINK_P_STAT : Nat := 0x404
def LINK_P_STAT_STATE : Fld := { off := 0x404, hi := 31, lo := 28 }
def LINK_P_STAT_FAR_PORT : Fld := { off := 0x404, hi := 27, lo := 26 }
def LINK_P_STAT_FAR_V : Fld := { off := 0x404, hi := 25, lo := 25 }
def LINK_P_STAT_FAR_ADDR : Fld := { off := 0x404, hi := 21, lo := 16 }
def LINK_P_STAT_RX_LANES : Fld := { off := 0x404, hi := 15, lo := 8 }
def LINK_P_STAT_TX_LANES : Fld := { off := 0x404, hi := 7, lo := 0 }
/-- LINK.P_FECC_LO (spec/13_amiys_link.md). -/
def LINK_P_FECC_LO : Nat := 0x408
def LINK_P_FECC_LO_COUNT : Fld := { off := 0x408, hi := 31, lo := 0 }
/-- LINK.P_FECC_HI (spec/13_amiys_link.md). -/
def LINK_P_FECC_HI : Nat := 0x40C
def LINK_P_FECC_HI_COUNT_HI : Fld := { off := 0x40C, hi := 15, lo := 0 }
/-- LINK.P_FECU (spec/13_amiys_link.md). -/
def LINK_P_FECU : Nat := 0x410
def LINK_P_FECU_COUNT : Fld := { off := 0x410, hi := 31, lo := 0 }
/-- LINK.P_CRCE (spec/13_amiys_link.md). -/
def LINK_P_CRCE : Nat := 0x414
def LINK_P_CRCE_COUNT : Fld := { off := 0x414, hi := 31, lo := 0 }
/-- LINK.P_REPLAY (spec/13_amiys_link.md). -/
def LINK_P_REPLAY : Nat := 0x418
def LINK_P_REPLAY_COUNT : Fld := { off := 0x418, hi := 31, lo := 0 }
/-- LINK.P_LDROP (spec/13_amiys_link.md). -/
def LINK_P_LDROP : Nat := 0x41C
def LINK_P_LDROP_COUNT : Fld := { off := 0x41C, hi := 31, lo := 24 }
def LINK_P_LDROP_DIR : Fld := { off := 0x41C, hi := 23, lo := 23 }
def LINK_P_LDROP_LANE : Fld := { off := 0x41C, hi := 22, lo := 20 }
def LINK_P_LDROP_CAUSE : Fld := { off := 0x41C, hi := 19, lo := 18 }
def LINK_P_LDROP_DUR : Fld := { off := 0x41C, hi := 15, lo := 0 }
/-- LINK.P_TXFL (spec/13_amiys_link.md). -/
def LINK_P_TXFL : Nat := 0x420
def LINK_P_TXFL_COUNT : Fld := { off := 0x420, hi := 31, lo := 0 }
/-- LINK.P_RXFL (spec/13_amiys_link.md). -/
def LINK_P_RXFL : Nat := 0x424
def LINK_P_RXFL_COUNT : Fld := { off := 0x424, hi := 31, lo := 0 }
/-- LINK.P_DISC (spec/13_amiys_link.md). -/
def LINK_P_DISC : Nat := 0x428
def LINK_P_DISC_COUNT : Fld := { off := 0x428, hi := 31, lo := 0 }
/-- LINK.P_SERTH (spec/13_amiys_link.md). -/
def LINK_P_SERTH : Nat := 0x430
def LINK_P_SERTH_THRESH : Fld := { off := 0x430, hi := 15, lo := 0 }
/-- LINK.P_SER (spec/13_amiys_link.md). -/
def LINK_P_SER : Nat := 0x440
def LINK_P_SER_COUNT : Fld := { off := 0x440, hi := 31, lo := 0 }

/-! ### WINDOW_CTL page fields -/

/-- WINDOW_CTL.WN_ID (spec/14_remote_access.md). -/
def WINDOW_CTL_WN_ID : Nat := 0x040
def WINDOW_CTL_WN_ID_WINDOWS : Fld := { off := 0x040, hi := 16, lo := 8 }
def WINDOW_CTL_WN_ID_CHANNELS : Fld := { off := 0x040, hi := 6, lo := 0 }
/-- WINDOW_CTL.WCTL (spec/14_remote_access.md). -/
def WINDOW_CTL_WCTL : Nat := 0x044
def WINDOW_CTL_WCTL_REG : Fld := { off := 0x044, hi := 1, lo := 1 }
def WINDOW_CTL_WCTL_EN : Fld := { off := 0x044, hi := 0, lo := 0 }
/-- WINDOW_CTL.WERR (spec/14_remote_access.md). -/
def WINDOW_CTL_WERR : Nat := 0x048
def WINDOW_CTL_WERR_BUSY : Fld := { off := 0x048, hi := 31, lo := 31 }
def WINDOW_CTL_WERR_REASON : Fld := { off := 0x048, hi := 27, lo := 24 }
def WINDOW_CTL_WERR_KIND : Fld := { off := 0x048, hi := 8, lo := 8 }
def WINDOW_CTL_WERR_NUM : Fld := { off := 0x048, hi := 7, lo := 0 }
/-- WINDOW_CTL.FENCE_TMO (spec/14_remote_access.md). -/
def WINDOW_CTL_FENCE_TMO : Nat := 0x04C
def WINDOW_CTL_FENCE_TMO_TICKS : Fld := { off := 0x04C, hi := 31, lo := 0 }
/-- WINDOW_CTL.NTFY_MASK (spec/14_remote_access.md). -/
def WINDOW_CTL_NTFY_MASK : Nat := 0x050
def WINDOW_CTL_NTFY_MASK_DEVS : Fld := { off := 0x050, hi := 31, lo := 0 }
/-- WINDOW_CTL.REG_CFG (spec/14_remote_access.md). -/
def WINDOW_CTL_REG_CFG : Nat := 0x058
def WINDOW_CTL_REG_CFG_RWIN : Fld := { off := 0x058, hi := 7, lo := 0 }
/-- WINDOW_CTL.LCNT_SEL (spec/14_remote_access.md). -/
def WINDOW_CTL_LCNT_SEL : Nat := 0x05C
def WINDOW_CTL_LCNT_SEL_SRC : Fld := { off := 0x05C, hi := 13, lo := 8 }
def WINDOW_CTL_LCNT_SEL_WIN : Fld := { off := 0x05C, hi := 7, lo := 0 }
/-- WINDOW_CTL.LCNT_VAL (spec/14_remote_access.md). -/
def WINDOW_CTL_LCNT_VAL : Nat := 0x060
def WINDOW_CTL_LCNT_VAL_COUNT : Fld := { off := 0x060, hi := 31, lo := 0 }
/-- WINDOW_CTL.SENT_SEL (spec/14_remote_access.md). -/
def WINDOW_CTL_SENT_SEL : Nat := 0x064
def WINDOW_CTL_SENT_SEL_CLR : Fld := { off := 0x064, hi := 31, lo := 31 }
def WINDOW_CTL_SENT_SEL_CLRALL : Fld := { off := 0x064, hi := 30, lo := 30 }
def WINDOW_CTL_SENT_SEL_DEV : Fld := { off := 0x064, hi := 13, lo := 8 }
def WINDOW_CTL_SENT_SEL_WIN : Fld := { off := 0x064, hi := 7, lo := 0 }
/-- WINDOW_CTL.SENT_VAL (spec/14_remote_access.md). -/
def WINDOW_CTL_SENT_VAL : Nat := 0x068
def WINDOW_CTL_SENT_VAL_COUNT : Fld := { off := 0x068, hi := 31, lo := 0 }
/-- WINDOW_CTL.FENCE_STAT (spec/14_remote_access.md). -/
def WINDOW_CTL_FENCE_STAT : Nat := 0x06C
def WINDOW_CTL_FENCE_STAT_HELD : Fld := { off := 0x06C, hi := 6, lo := 0 }
/-- WINDOW_CTL.FENCE_TO_CNT (spec/14_remote_access.md). -/
def WINDOW_CTL_FENCE_TO_CNT : Nat := 0x070
def WINDOW_CTL_FENCE_TO_CNT_COUNT : Fld := { off := 0x070, hi := 31, lo := 0 }
/-- WINDOW_CTL.BAR_DISC (spec/14_remote_access.md). -/
def WINDOW_CTL_BAR_DISC : Nat := 0x074
def WINDOW_CTL_BAR_DISC_COUNT : Fld := { off := 0x074, hi := 31, lo := 0 }
/-- WINDOW_CTL.GRANT_DISC (spec/14_remote_access.md). -/
def WINDOW_CTL_GRANT_DISC : Nat := 0x078
def WINDOW_CTL_GRANT_DISC_COUNT : Fld := { off := 0x078, hi := 31, lo := 0 }
/-- WINDOW_CTL.SMASK (spec/14_remote_access.md). -/
def WINDOW_CTL_SMASK : Nat := 0x080
def WINDOW_CTL_SMASK_DEVS : Fld := { off := 0x080, hi := 31, lo := 0 }
/-- WINDOW_CTL.BFEN (spec/14_remote_access.md). -/
def WINDOW_CTL_BFEN : Nat := 0x100
def WINDOW_CTL_BFEN_EN : Fld := { off := 0x100, hi := 31, lo := 31 }
def WINDOW_CTL_BFEN_FWIN : Fld := { off := 0x100, hi := 7, lo := 0 }

/-! ### WINDOW_TAB page fields -/

/-- WINDOW_TAB.WIN_CFG0 (spec/14_remote_access.md). -/
def WINDOW_TAB_WIN_CFG0 : Nat := 0x100
def WINDOW_TAB_WIN_CFG0_STATE : Fld := { off := 0x100, hi := 31, lo := 30 }
def WINDOW_TAB_WIN_CFG0_OPEN : Fld := { off := 0x100, hi := 29, lo := 29 }
def WINDOW_TAB_WIN_CFG0_CLOSE : Fld := { off := 0x100, hi := 28, lo := 28 }
def WINDOW_TAB_WIN_CFG0_DIRQ : Fld := { off := 0x100, hi := 27, lo := 27 }
def WINDOW_TAB_WIN_CFG0_DCNT : Fld := { off := 0x100, hi := 26, lo := 26 }
def WINDOW_TAB_WIN_CFG0_TID : Fld := { off := 0x100, hi := 25, lo := 20 }
def WINDOW_TAB_WIN_CFG0_HANDLE : Fld := { off := 0x100, hi := 16, lo := 8 }
def WINDOW_TAB_WIN_CFG0_GEN : Fld := { off := 0x100, hi := 7, lo := 0 }
/-- WINDOW_TAB.WIN_CFG1 (spec/14_remote_access.md). -/
def WINDOW_TAB_WIN_CFG1 : Nat := 0x104
def WINDOW_TAB_WIN_CFG1_BASE : Fld := { off := 0x104, hi := 28, lo := 9 }
def WINDOW_TAB_WIN_CFG1_MSEL : Fld := { off := 0x104, hi := 3, lo := 0 }
/-- WINDOW_TAB.WIN_CFG2 (spec/14_remote_access.md). -/
def WINDOW_TAB_WIN_CFG2 : Nat := 0x108
def WINDOW_TAB_WIN_CFG2_CORE : Fld := { off := 0x108, hi := 31, lo := 29 }
def WINDOW_TAB_WIN_CFG2_COUNTER : Fld := { off := 0x108, hi := 28, lo := 23 }
def WINDOW_TAB_WIN_CFG2_LINES_M1 : Fld := { off := 0x108, hi := 19, lo := 0 }
/-- WINDOW_TAB.WIN_CFG3 (spec/14_remote_access.md). -/
def WINDOW_TAB_WIN_CFG3 : Nat := 0x10C
def WINDOW_TAB_WIN_CFG3_DROPS : Fld := { off := 0x10C, hi := 31, lo := 0 }

/-! ### WINDOW_CCH page fields -/

/-- WINDOW_CCH.CCH_CFG (spec/14_remote_access.md). -/
def WINDOW_CCH_CCH_CFG : Nat := 0x100
def WINDOW_CCH_CCH_CFG_EN : Fld := { off := 0x100, hi := 31, lo := 31 }
def WINDOW_CCH_CCH_CFG_SDEV : Fld := { off := 0x100, hi := 29, lo := 24 }
def WINDOW_CCH_CCH_CFG_SACCT : Fld := { off := 0x100, hi := 23, lo := 18 }
def WINDOW_CCH_CCH_CFG_RING : Fld := { off := 0x100, hi := 15, lo := 8 }
def WINDOW_CCH_CCH_CFG_TID : Fld := { off := 0x100, hi := 5, lo := 0 }
/-- WINDOW_CCH.CCH_LIM (spec/14_remote_access.md). -/
def WINDOW_CCH_CCH_LIM : Nat := 0x104
def WINDOW_CCH_CCH_LIM_LIMIT : Fld := { off := 0x104, hi := 29, lo := 16 }
def WINDOW_CCH_CCH_LIM_GRAN : Fld := { off := 0x104, hi := 7, lo := 0 }
/-- WINDOW_CCH.CCH_STAT (spec/14_remote_access.md). -/
def WINDOW_CCH_CCH_STAT : Nat := 0x108
def WINDOW_CCH_CCH_STAT_STATE : Fld := { off := 0x108, hi := 31, lo := 30 }
def WINDOW_CCH_CCH_STAT_OUTST : Fld := { off := 0x108, hi := 29, lo := 16 }
def WINDOW_CCH_CCH_STAT_FULL : Fld := { off := 0x108, hi := 13, lo := 0 }
/-- WINDOW_CCH.CCH_CNT (spec/14_remote_access.md). -/
def WINDOW_CCH_CCH_CNT : Nat := 0x10C
def WINDOW_CCH_CCH_CNT_TOKENS : Fld := { off := 0x10C, hi := 31, lo := 0 }

/-! ### INTEG page fields -/

/-- INTEG.IG_CTL (spec/15_integrity.md). -/
def INTEG_IG_CTL : Nat := 0x040
def INTEG_IG_CTL_AUTO_RETIRE : Fld := { off := 0x040, hi := 9, lo := 9 }
def INTEG_IG_CTL_AUTO_EVAC : Fld := { off := 0x040, hi := 8, lo := 8 }
def INTEG_IG_CTL_MAINT_TID : Fld := { off := 0x040, hi := 5, lo := 0 }
/-- INTEG.CE_THRESH (spec/15_integrity.md). -/
def INTEG_CE_THRESH : Nat := 0x044
def INTEG_CE_THRESH_WIN : Fld := { off := 0x044, hi := 31, lo := 16 }
def INTEG_CE_THRESH_MAX : Fld := { off := 0x044, hi := 15, lo := 0 }
/-- INTEG.RIM_CMD (spec/15_integrity.md). -/
def INTEG_RIM_CMD : Nat := 0x048
def INTEG_RIM_CMD_OP : Fld := { off := 0x048, hi := 31, lo := 28 }
def INTEG_RIM_CMD_LAYER : Fld := { off := 0x048, hi := 6, lo := 4 }
def INTEG_RIM_CMD_RIM : Fld := { off := 0x048, hi := 3, lo := 0 }
/-- INTEG.RIM_STAT (spec/15_integrity.md). -/
def INTEG_RIM_STAT : Nat := 0x04C
def INTEG_RIM_STAT_BUSY : Fld := { off := 0x04C, hi := 31, lo := 31 }
def INTEG_RIM_STAT_RESULT : Fld := { off := 0x04C, hi := 27, lo := 24 }
def INTEG_RIM_STAT_FRAMES : Fld := { off := 0x04C, hi := 10, lo := 0 }
/-- INTEG.FAULT_LAST (spec/15_integrity.md). -/
def INTEG_FAULT_LAST : Nat := 0x050
def INTEG_FAULT_LAST_KIND : Fld := { off := 0x050, hi := 31, lo := 28 }
def INTEG_FAULT_LAST_CAUSE : Fld := { off := 0x050, hi := 27, lo := 24 }
def INTEG_FAULT_LAST_LAYER : Fld := { off := 0x050, hi := 10, lo := 8 }
def INTEG_FAULT_LAST_UNIT : Fld := { off := 0x050, hi := 4, lo := 0 }
/-- INTEG.FAULT_TIME_LO (spec/15_integrity.md). -/
def INTEG_FAULT_TIME_LO : Nat := 0x054
def INTEG_FAULT_TIME_LO_VALUE : Fld := { off := 0x054, hi := 31, lo := 0 }
/-- INTEG.FAULT_TIME_HI (spec/15_integrity.md). -/
def INTEG_FAULT_TIME_HI : Nat := 0x058
def INTEG_FAULT_TIME_HI_VALUE : Fld := { off := 0x058, hi := 31, lo := 0 }
/-- INTEG.FAULT_CNT (spec/15_integrity.md). -/
def INTEG_FAULT_CNT : Nat := 0x05C
def INTEG_FAULT_CNT_COUNT : Fld := { off := 0x05C, hi := 31, lo := 0 }
/-- INTEG.CE_TOTAL (spec/15_integrity.md). -/
def INTEG_CE_TOTAL : Nat := 0x060
def INTEG_CE_TOTAL_COUNT : Fld := { off := 0x060, hi := 31, lo := 0 }
/-- INTEG.UE_TOTAL (spec/15_integrity.md). -/
def INTEG_UE_TOTAL : Nat := 0x064
def INTEG_UE_TOTAL_COUNT : Fld := { off := 0x064, hi := 31, lo := 0 }
/-- INTEG.WB_CNT (spec/15_integrity.md). -/
def INTEG_WB_CNT : Nat := 0x068
def INTEG_WB_CNT_COUNT : Fld := { off := 0x068, hi := 31, lo := 0 }
/-- INTEG.WB_CANCEL (spec/15_integrity.md). -/
def INTEG_WB_CANCEL : Nat := 0x06C
def INTEG_WB_CANCEL_COUNT : Fld := { off := 0x06C, hi := 31, lo := 0 }
/-- INTEG.XPORT_CNT (spec/15_integrity.md). -/
def INTEG_XPORT_CNT : Nat := 0x070
def INTEG_XPORT_CNT_COUNT : Fld := { off := 0x070, hi := 31, lo := 0 }
/-- INTEG.WB_SKIP (spec/15_integrity.md). -/
def INTEG_WB_SKIP : Nat := 0x074
def INTEG_WB_SKIP_COUNT : Fld := { off := 0x074, hi := 31, lo := 0 }
/-- INTEG.PSN_STAT (spec/15_integrity.md). -/
def INTEG_PSN_STAT : Nat := 0x080
def INTEG_PSN_STAT_LOSTENT : Fld := { off := 0x080, hi := 31, lo := 24 }
def INTEG_PSN_STAT_ENTRIES : Fld := { off := 0x080, hi := 6, lo := 0 }
/-- INTEG.PSN_E0 (spec/15_integrity.md). -/
def INTEG_PSN_E0 : Nat := 0x084
def INTEG_PSN_E0_VALID : Fld := { off := 0x084, hi := 31, lo := 31 }
def INTEG_PSN_E0_KIND : Fld := { off := 0x084, hi := 30, lo := 28 }
def INTEG_PSN_E0_CLASS : Fld := { off := 0x084, hi := 27, lo := 27 }
def INTEG_PSN_E0_TID : Fld := { off := 0x084, hi := 21, lo := 16 }
def INTEG_PSN_E0_STEP : Fld := { off := 0x084, hi := 15, lo := 0 }
/-- INTEG.PSN_E1 (spec/15_integrity.md). -/
def INTEG_PSN_E1 : Nat := 0x088
def INTEG_PSN_E1_PTA : Fld := { off := 0x088, hi := 29, lo := 0 }
/-- INTEG.PSN_E2 (spec/15_integrity.md). -/
def INTEG_PSN_E2 : Nat := 0x08C
def INTEG_PSN_E2_SOURCE : Fld := { off := 0x08C, hi := 31, lo := 25 }
/-- INTEG.PSN_E3 (spec/15_integrity.md). -/
def INTEG_PSN_E3 : Nat := 0x090
def INTEG_PSN_E3_TIME : Fld := { off := 0x090, hi := 31, lo := 0 }
/-- INTEG.SCRUB_CMD (spec/15_integrity.md). -/
def INTEG_SCRUB_CMD : Nat := 0x0A0
def INTEG_SCRUB_CMD_GO : Fld := { off := 0x0A0, hi := 31, lo := 31 }
def INTEG_SCRUB_CMD_ABORT : Fld := { off := 0x0A0, hi := 30, lo := 30 }
def INTEG_SCRUB_CMD_FORM : Fld := { off := 0x0A0, hi := 29, lo := 29 }
def INTEG_SCRUB_CMD_TID : Fld := { off := 0x0A0, hi := 21, lo := 16 }
def INTEG_SCRUB_CMD_CHAN : Fld := { off := 0x0A0, hi := 3, lo := 0 }
/-- INTEG.SCRUB_ARG0 (spec/15_integrity.md). -/
def INTEG_SCRUB_ARG0 : Nat := 0x0A4
def INTEG_SCRUB_ARG0_HANDLE : Fld := { off := 0x0A4, hi := 24, lo := 16 }
def INTEG_SCRUB_ARG0_GEN : Fld := { off := 0x0A4, hi := 7, lo := 0 }
/-- INTEG.SCRUB_ARG1 (spec/15_integrity.md). -/
def INTEG_SCRUB_ARG1 : Nat := 0x0A8
def INTEG_SCRUB_ARG1_START : Fld := { off := 0x0A8, hi := 20, lo := 0 }
/-- INTEG.SCRUB_ARG2 (spec/15_integrity.md). -/
def INTEG_SCRUB_ARG2 : Nat := 0x0AC
def INTEG_SCRUB_ARG2_LINES_M1 : Fld := { off := 0x0AC, hi := 20, lo := 0 }
/-- INTEG.SCRUB_STAT (spec/15_integrity.md). -/
def INTEG_SCRUB_STAT : Nat := 0x0B0
def INTEG_SCRUB_STAT_BUSY : Fld := { off := 0x0B0, hi := 31, lo := 31 }
def INTEG_SCRUB_STAT_RESULT : Fld := { off := 0x0B0, hi := 27, lo := 24 }
/-- INTEG.SCRUB_SUM (spec/15_integrity.md). -/
def INTEG_SCRUB_SUM : Nat := 0x0C0
def INTEG_SCRUB_SUM_WORD : Fld := { off := 0x0C0, hi := 31, lo := 0 }
/-- INTEG.FLIP_CTL (spec/15_integrity.md). -/
def INTEG_FLIP_CTL : Nat := 0x0E0
def INTEG_FLIP_CTL_ARM : Fld := { off := 0x0E0, hi := 31, lo := 31 }
def INTEG_FLIP_CTL_DONE : Fld := { off := 0x0E0, hi := 30, lo := 30 }
def INTEG_FLIP_CTL_LAYER : Fld := { off := 0x0E0, hi := 10, lo := 8 }
def INTEG_FLIP_CTL_BANK : Fld := { off := 0x0E0, hi := 7, lo := 4 }
def INTEG_FLIP_CTL_RIM : Fld := { off := 0x0E0, hi := 3, lo := 0 }
/-- INTEG.FLIP_PTA (spec/15_integrity.md). -/
def INTEG_FLIP_PTA : Nat := 0x0E4
def INTEG_FLIP_PTA_PTA : Fld := { off := 0x0E4, hi := 29, lo := 0 }
/-- INTEG.FLIP_MASK (spec/15_integrity.md). -/
def INTEG_FLIP_MASK : Nat := 0x100
def INTEG_FLIP_MASK_MASK : Fld := { off := 0x100, hi := 31, lo := 0 }
/-- INTEG.PSTEP (spec/15_integrity.md). -/
def INTEG_PSTEP : Nat := 0x200
def INTEG_PSTEP_VALID : Fld := { off := 0x200, hi := 31, lo := 31 }
def INTEG_PSTEP_MULTI : Fld := { off := 0x200, hi := 30, lo := 30 }
def INTEG_PSTEP_COUNT : Fld := { off := 0x200, hi := 23, lo := 16 }
def INTEG_PSTEP_STEP : Fld := { off := 0x200, hi := 15, lo := 0 }

/-! ### POWER page fields -/

/-- POWER.PW_ID (spec/16_power_and_energy.md). -/
def POWER_PW_ID : Nat := 0x040
def POWER_PW_ID_SECTORS : Fld := { off := 0x040, hi := 13, lo := 8 }
def POWER_PW_ID_DOMAINS : Fld := { off := 0x040, hi := 7, lo := 0 }
/-- POWER.DOM_CMD (spec/16_power_and_energy.md). -/
def POWER_DOM_CMD : Nat := 0x044
def POWER_DOM_CMD_GO : Fld := { off := 0x044, hi := 31, lo := 31 }
def POWER_DOM_CMD_ON : Fld := { off := 0x044, hi := 30, lo := 30 }
def POWER_DOM_CMD_DOMAIN : Fld := { off := 0x044, hi := 7, lo := 0 }
/-- POWER.DOM_STAT (spec/16_power_and_energy.md). -/
def POWER_DOM_STAT : Nat := 0x048
def POWER_DOM_STAT_REJ : Fld := { off := 0x048, hi := 31, lo := 31 }
def POWER_DOM_STAT_REASON : Fld := { off := 0x048, hi := 30, lo := 28 }
def POWER_DOM_STAT_DOMAIN : Fld := { off := 0x048, hi := 7, lo := 0 }
/-- POWER.DOM_ON (spec/16_power_and_energy.md). -/
def POWER_DOM_ON : Nat := 0x060
def POWER_DOM_ON_MAP : Fld := { off := 0x060, hi := 31, lo := 0 }
/-- POWER.DOM_PRES (spec/16_power_and_energy.md). -/
def POWER_DOM_PRES : Nat := 0x080
def POWER_DOM_PRES_MAP : Fld := { off := 0x080, hi := 31, lo := 0 }
/-- POWER.PACE_DEV (spec/16_power_and_energy.md). -/
def POWER_PACE_DEV : Nat := 0x0A0
def POWER_PACE_DEV_PERI : Fld := { off := 0x0A0, hi := 31, lo := 16 }
def POWER_PACE_DEV_DEV : Fld := { off := 0x0A0, hi := 15, lo := 0 }
/-- POWER.PACE_MM (spec/16_power_and_energy.md). -/
def POWER_PACE_MM : Nat := 0x0A4
def POWER_PACE_MM_MAX : Fld := { off := 0x0A4, hi := 31, lo := 16 }
def POWER_PACE_MM_MIN : Fld := { off := 0x0A4, hi := 15, lo := 0 }
/-- POWER.SUPPLY (spec/16_power_and_energy.md). -/
def POWER_SUPPLY : Nat := 0x0A8
def POWER_SUPPLY_PERI_MV : Fld := { off := 0x0A8, hi := 31, lo := 16 }
def POWER_SUPPLY_ARRAY_MV : Fld := { off := 0x0A8, hi := 15, lo := 0 }
/-- POWER.VFACT (spec/16_power_and_energy.md). -/
def POWER_VFACT : Nat := 0x0AC
def POWER_VFACT_VF_PERI : Fld := { off := 0x0AC, hi := 31, lo := 16 }
def POWER_VFACT_VF_ARR : Fld := { off := 0x0AC, hi := 15, lo := 0 }
/-- POWER.TH_CFG (spec/16_power_and_energy.md). -/
def POWER_TH_CFG : Nat := 0x0B0
def POWER_TH_CFG_WARN : Fld := { off := 0x0B0, hi := 27, lo := 16 }
def POWER_TH_CFG_OT : Fld := { off := 0x0B0, hi := 11, lo := 0 }
/-- POWER.TH_STAT (spec/16_power_and_energy.md). -/
def POWER_TH_STAT : Nat := 0x0B4
def POWER_TH_STAT_SECTOR : Fld := { off := 0x0B4, hi := 20, lo := 16 }
def POWER_TH_STAT_TEMP : Fld := { off := 0x0B4, hi := 11, lo := 0 }
/-- POWER.EMG_CTL (spec/16_power_and_energy.md). -/
def POWER_EMG_CTL : Nat := 0x0B8
def POWER_EMG_CTL_FORCE : Fld := { off := 0x0B8, hi := 0, lo := 0 }
/-- POWER.EMG_STAT (spec/16_power_and_energy.md). -/
def POWER_EMG_STAT : Nat := 0x0BC
def POWER_EMG_STAT_ACTIVE : Fld := { off := 0x0BC, hi := 31, lo := 31 }
def POWER_EMG_STAT_ALERT : Fld := { off := 0x0BC, hi := 30, lo := 30 }
def POWER_EMG_STAT_OT : Fld := { off := 0x0BC, hi := 29, lo := 29 }
def POWER_EMG_STAT_FORCED : Fld := { off := 0x0BC, hi := 28, lo := 28 }
def POWER_EMG_STAT_CLEARING : Fld := { off := 0x0BC, hi := 27, lo := 27 }
/-- POWER.EMG_CNT (spec/16_power_and_energy.md). -/
def POWER_EMG_CNT : Nat := 0x0C0
def POWER_EMG_CNT_COUNT : Fld := { off := 0x0C0, hi := 31, lo := 0 }
/-- POWER.GRANT (spec/16_power_and_energy.md). -/
def POWER_GRANT : Nat := 0x0D0
def POWER_GRANT_UJ : Fld := { off := 0x0D0, hi := 19, lo := 0 }
/-- POWER.FLOOR (spec/16_power_and_energy.md). -/
def POWER_FLOOR : Nat := 0x0D4
def POWER_FLOOR_UJ : Fld := { off := 0x0D4, hi := 19, lo := 0 }
/-- POWER.RT_RES (spec/16_power_and_energy.md). -/
def POWER_RT_RES : Nat := 0x0D8
def POWER_RT_RES_UJ : Fld := { off := 0x0D8, hi := 19, lo := 0 }
/-- POWER.LC_RES (spec/16_power_and_energy.md). -/
def POWER_LC_RES : Nat := 0x0DC
def POWER_LC_RES_UJ : Fld := { off := 0x0DC, hi := 19, lo := 0 }
/-- POWER.LEAK_EST (spec/16_power_and_energy.md). -/
def POWER_LEAK_EST : Nat := 0x0E0
def POWER_LEAK_EST_NJ : Fld := { off := 0x0E0, hi := 31, lo := 0 }
/-- POWER.EM_ALIVE (spec/16_power_and_energy.md). -/
def POWER_EM_ALIVE : Nat := 0x0E4
def POWER_EM_ALIVE_CAD : Fld := { off := 0x0E4, hi := 31, lo := 0 }
/-- POWER.ARB_STAT (spec/16_power_and_energy.md). -/
def POWER_ARB_STAT : Nat := 0x0E8
def POWER_ARB_STAT_FLOOR_ACT : Fld := { off := 0x0E8, hi := 31, lo := 31 }
def POWER_ARB_STAT_DEFER_NOW : Fld := { off := 0x0E8, hi := 15, lo := 0 }
/-- POWER.CAD_IDX (spec/16_power_and_energy.md). -/
def POWER_CAD_IDX : Nat := 0x0F0
def POWER_CAD_IDX_INDEX : Fld := { off := 0x0F0, hi := 31, lo := 0 }
/-- POWER.POOL (spec/16_power_and_energy.md). -/
def POWER_POOL : Nat := 0x0F4
def POWER_POOL_NJ : Fld := { off := 0x0F4, hi := 31, lo := 0 }
/-- POWER.RT_POOL (spec/16_power_and_energy.md). -/
def POWER_RT_POOL : Nat := 0x0F8
def POWER_RT_POOL_NJ : Fld := { off := 0x0F8, hi := 31, lo := 0 }
/-- POWER.LC_POOL (spec/16_power_and_energy.md). -/
def POWER_LC_POOL : Nat := 0x0FC
def POWER_LC_POOL_NJ : Fld := { off := 0x0FC, hi := 31, lo := 0 }
/-- POWER.LEDGER_LO (spec/16_power_and_energy.md). -/
def POWER_LEDGER_LO : Nat := 0x100
def POWER_LEDGER_LO_NJ : Fld := { off := 0x100, hi := 31, lo := 0 }
/-- POWER.LEDGER_HI (spec/16_power_and_energy.md). -/
def POWER_LEDGER_HI : Nat := 0x104
def POWER_LEDGER_HI_NJ_HI : Fld := { off := 0x104, hi := 31, lo := 0 }
/-- POWER.LAST_RT (spec/16_power_and_energy.md). -/
def POWER_LAST_RT : Nat := 0x108
def POWER_LAST_RT_NJ : Fld := { off := 0x108, hi := 31, lo := 0 }
/-- POWER.LAST_LC (spec/16_power_and_energy.md). -/
def POWER_LAST_LC : Nat := 0x10C
def POWER_LAST_LC_NJ : Fld := { off := 0x10C, hi := 31, lo := 0 }
/-- POWER.LAST_BE (spec/16_power_and_energy.md). -/
def POWER_LAST_BE : Nat := 0x110
def POWER_LAST_BE_NJ : Fld := { off := 0x110, hi := 31, lo := 0 }
/-- POWER.LAST_MT (spec/16_power_and_energy.md). -/
def POWER_LAST_MT : Nat := 0x114
def POWER_LAST_MT_NJ : Fld := { off := 0x114, hi := 31, lo := 0 }
/-- POWER.LAST_STAT (spec/16_power_and_energy.md). -/
def POWER_LAST_STAT : Nat := 0x118
def POWER_LAST_STAT_NJ : Fld := { off := 0x118, hi := 31, lo := 0 }
/-- POWER.OVER_CNT (spec/16_power_and_energy.md). -/
def POWER_OVER_CNT : Nat := 0x11C
def POWER_OVER_CNT_COUNT : Fld := { off := 0x11C, hi := 31, lo := 0 }
/-- POWER.GOV_CTL (spec/16_power_and_energy.md). -/
def POWER_GOV_CTL : Nat := 0x130
def POWER_GOV_CTL_ACT_MAX : Fld := { off := 0x130, hi := 11, lo := 0 }
/-- POWER.GOV_HOLD (spec/16_power_and_energy.md). -/
def POWER_GOV_HOLD : Nat := 0x134
def POWER_GOV_HOLD_COUNT : Fld := { off := 0x134, hi := 31, lo := 0 }
/-- POWER.DRAIN_LIM (spec/16_power_and_energy.md). -/
def POWER_DRAIN_LIM : Nat := 0x138
def POWER_DRAIN_LIM_US : Fld := { off := 0x138, hi := 15, lo := 0 }
/-- POWER.EC (spec/16_power_and_energy.md). -/
def POWER_EC : Nat := 0x140
def POWER_EC_COST : Fld := { off := 0x140, hi := 15, lo := 0 }
/-- POWER.SEC (spec/16_power_and_energy.md). -/
def POWER_SEC : Nat := 0x200
def POWER_SEC_VALID : Fld := { off := 0x200, hi := 31, lo := 31 }
def POWER_SEC_OT : Fld := { off := 0x200, hi := 30, lo := 30 }
def POWER_SEC_TEMP : Fld := { off := 0x200, hi := 27, lo := 16 }
def POWER_SEC_PACE : Fld := { off := 0x200, hi := 15, lo := 0 }

/-! ### MAILBOX_CTL page fields -/

/-- MAILBOX_CTL.MB_ID (spec/17_control_and_firmware.md). -/
def MAILBOX_CTL_MB_ID : Nat := 0x040
def MAILBOX_CTL_MB_ID_IF_MAJ : Fld := { off := 0x040, hi := 31, lo := 16 }
def MAILBOX_CTL_MB_ID_IF_MIN : Fld := { off := 0x040, hi := 15, lo := 0 }
/-- MAILBOX_CTL.FW_VER (spec/17_control_and_firmware.md). -/
def MAILBOX_CTL_FW_VER : Nat := 0x044
def MAILBOX_CTL_FW_VER_VER : Fld := { off := 0x044, hi := 31, lo := 0 }
/-- MAILBOX_CTL.FW_SVER (spec/17_control_and_firmware.md). -/
def MAILBOX_CTL_FW_SVER : Nat := 0x048
def MAILBOX_CTL_FW_SVER_VER : Fld := { off := 0x048, hi := 31, lo := 0 }
/-- MAILBOX_CTL.FW_LOC (spec/17_control_and_firmware.md). -/
def MAILBOX_CTL_FW_LOC : Nat := 0x04C
def MAILBOX_CTL_FW_LOC_LOC : Fld := { off := 0x04C, hi := 31, lo := 31 }
def MAILBOX_CTL_FW_LOC_HANDLE : Fld := { off := 0x04C, hi := 25, lo := 17 }
def MAILBOX_CTL_FW_LOC_GEN : Fld := { off := 0x04C, hi := 16, lo := 9 }
def MAILBOX_CTL_FW_LOC_TID : Fld := { off := 0x04C, hi := 5, lo := 0 }
/-- MAILBOX_CTL.FW_OFS (spec/17_control_and_firmware.md). -/
def MAILBOX_CTL_FW_OFS : Nat := 0x050
def MAILBOX_CTL_FW_OFS_ADDR : Fld := { off := 0x050, hi := 31, lo := 0 }
/-- MAILBOX_CTL.FW_OFS_HI (spec/17_control_and_firmware.md). -/
def MAILBOX_CTL_FW_OFS_HI : Nat := 0x054
def MAILBOX_CTL_FW_OFS_HI_ADDR_HI : Fld := { off := 0x054, hi := 15, lo := 0 }
/-- MAILBOX_CTL.FW_CMD (spec/17_control_and_firmware.md). -/
def MAILBOX_CTL_FW_CMD : Nat := 0x05C
def MAILBOX_CTL_FW_CMD_OP : Fld := { off := 0x05C, hi := 31, lo := 28 }
/-- MAILBOX_CTL.FW_STAT (spec/17_control_and_firmware.md). -/
def MAILBOX_CTL_FW_STAT : Nat := 0x060
def MAILBOX_CTL_FW_STAT_BUSY : Fld := { off := 0x060, hi := 31, lo := 31 }
def MAILBOX_CTL_FW_STAT_PENDING : Fld := { off := 0x060, hi := 30, lo := 30 }
def MAILBOX_CTL_FW_STAT_STAGED : Fld := { off := 0x060, hi := 29, lo := 29 }
def MAILBOX_CTL_FW_STAT_BANK : Fld := { off := 0x060, hi := 28, lo := 28 }
def MAILBOX_CTL_FW_STAT_RESULT : Fld := { off := 0x060, hi := 27, lo := 24 }
def MAILBOX_CTL_FW_STAT_CHECK : Fld := { off := 0x060, hi := 15, lo := 8 }
def MAILBOX_CTL_FW_STAT_COMMITS : Fld := { off := 0x060, hi := 7, lo := 0 }
/-- MAILBOX_CTL.EM_CTL (spec/17_control_and_firmware.md). -/
def MAILBOX_CTL_EM_CTL : Nat := 0x064
def MAILBOX_CTL_EM_CTL_RESTART : Fld := { off := 0x064, hi := 1, lo := 0 }
/-- MAILBOX_CTL.EM_STAT (spec/17_control_and_firmware.md). -/
def MAILBOX_CTL_EM_STAT : Nat := 0x068
def MAILBOX_CTL_EM_STAT_STATE : Fld := { off := 0x068, hi := 31, lo := 28 }
def MAILBOX_CTL_EM_STAT_CAUSE : Fld := { off := 0x068, hi := 27, lo := 24 }
def MAILBOX_CTL_EM_STAT_RESTARTS : Fld := { off := 0x068, hi := 15, lo := 0 }
/-- MAILBOX_CTL.WDT_KICK (spec/17_control_and_firmware.md). -/
def MAILBOX_CTL_WDT_KICK : Nat := 0x070
def MAILBOX_CTL_WDT_KICK_KICK : Fld := { off := 0x070, hi := 31, lo := 0 }
/-- MAILBOX_CTL.IRQ_RTE (spec/17_control_and_firmware.md). -/
def MAILBOX_CTL_IRQ_RTE : Nat := 0x078
def MAILBOX_CTL_IRQ_RTE_ROUTE : Fld := { off := 0x078, hi := 31, lo := 0 }
/-- MAILBOX_CTL.IRQ_SUM (spec/17_control_and_firmware.md). -/
def MAILBOX_CTL_IRQ_SUM : Nat := 0x07C
def MAILBOX_CTL_IRQ_SUM_PEND : Fld := { off := 0x07C, hi := 31, lo := 0 }
/-- MAILBOX_CTL.FAB_STAT (spec/17_control_and_firmware.md). -/
def MAILBOX_CTL_FAB_STAT : Nat := 0x084
def MAILBOX_CTL_FAB_STAT_VIOL : Fld := { off := 0x084, hi := 31, lo := 31 }
def MAILBOX_CTL_FAB_STAT_MASTER : Fld := { off := 0x084, hi := 26, lo := 24 }
def MAILBOX_CTL_FAB_STAT_ADDR : Fld := { off := 0x084, hi := 20, lo := 0 }
/-- MAILBOX_CTL.FAB_VIOL_CNT (spec/17_control_and_firmware.md). -/
def MAILBOX_CTL_FAB_VIOL_CNT : Nat := 0x088
def MAILBOX_CTL_FAB_VIOL_CNT_COUNT : Fld := { off := 0x088, hi := 31, lo := 0 }
/-- MAILBOX_CTL.FAB_PRIO_LO (spec/17_control_and_firmware.md). -/
def MAILBOX_CTL_FAB_PRIO_LO : Nat := 0x0A0
def MAILBOX_CTL_FAB_PRIO_LO_PRIO : Fld := { off := 0x0A0, hi := 31, lo := 0 }
/-- MAILBOX_CTL.FAB_PRIO_HI (spec/17_control_and_firmware.md). -/
def MAILBOX_CTL_FAB_PRIO_HI : Nat := 0x0A4
def MAILBOX_CTL_FAB_PRIO_HI_PRIO : Fld := { off := 0x0A4, hi := 31, lo := 0 }

/-! ### MBOX page fields -/

/-- MBOX.REQ_PROD (spec/17_control_and_firmware.md). -/
def MBOX_REQ_PROD : Nat := 0x040
def MBOX_REQ_PROD_INDEX : Fld := { off := 0x040, hi := 7, lo := 0 }
/-- MBOX.RSP_CONS (spec/17_control_and_firmware.md). -/
def MBOX_RSP_CONS : Nat := 0x044
def MBOX_RSP_CONS_INDEX : Fld := { off := 0x044, hi := 7, lo := 0 }
/-- MBOX.MB_STAT (spec/17_control_and_firmware.md). -/
def MBOX_MB_STAT : Nat := 0x048
def MBOX_MB_STAT_EPOCH : Fld := { off := 0x048, hi := 31, lo := 16 }
def MBOX_MB_STAT_RSP_PROD : Fld := { off := 0x048, hi := 15, lo := 8 }
def MBOX_MB_STAT_REQ_CONS : Fld := { off := 0x048, hi := 7, lo := 0 }
/-- MBOX.MB_DISC (spec/17_control_and_firmware.md). -/
def MBOX_MB_DISC : Nat := 0x04C
def MBOX_MB_DISC_COUNT : Fld := { off := 0x04C, hi := 31, lo := 0 }
/-- MBOX.REQ_ENTRY (spec/17_control_and_firmware.md). -/
def MBOX_REQ_ENTRY : Nat := 0x800
def MBOX_REQ_ENTRY_WORD : Fld := { off := 0x800, hi := 31, lo := 0 }
/-- MBOX.RSP_ENTRY (spec/17_control_and_firmware.md). -/
def MBOX_RSP_ENTRY : Nat := 0xC00
def MBOX_RSP_ENTRY_WORD : Fld := { off := 0xC00, hi := 31, lo := 0 }

/-! ### RECORDER page fields -/

/-- RECORDER.RC_ID (spec/18_observability.md). -/
def RECORDER_RC_ID : Nat := 0x040
def RECORDER_RC_ID_NVSTORE : Fld := { off := 0x040, hi := 31, lo := 31 }
def RECORDER_RC_ID_LISTS : Fld := { off := 0x040, hi := 23, lo := 20 }
def RECORDER_RC_ID_TRIGS : Fld := { off := 0x040, hi := 19, lo := 14 }
def RECORDER_RC_ID_RECORDS_M1 : Fld := { off := 0x040, hi := 11, lo := 0 }
/-- RECORDER.RC_CTL (spec/18_observability.md). -/
def RECORDER_RC_CTL : Nat := 0x044
def RECORDER_RC_CTL_ARM : Fld := { off := 0x044, hi := 2, lo := 2 }
def RECORDER_RC_CTL_MODE : Fld := { off := 0x044, hi := 1, lo := 1 }
def RECORDER_RC_CTL_EN : Fld := { off := 0x044, hi := 0, lo := 0 }
/-- RECORDER.RC_STAT (spec/18_observability.md). -/
def RECORDER_RC_STAT : Nat := 0x048
def RECORDER_RC_STAT_STATE : Fld := { off := 0x048, hi := 31, lo := 29 }
def RECORDER_RC_STAT_WRITING : Fld := { off := 0x048, hi := 28, lo := 28 }
def RECORDER_RC_STAT_QUEUED : Fld := { off := 0x048, hi := 20, lo := 16 }
def RECORDER_RC_STAT_COUNT : Fld := { off := 0x048, hi := 11, lo := 0 }
/-- RECORDER.RC_MISSED (spec/18_observability.md). -/
def RECORDER_RC_MISSED : Nat := 0x04C
def RECORDER_RC_MISSED_COUNT : Fld := { off := 0x04C, hi := 31, lo := 0 }
/-- RECORDER.RC_SEQ (spec/18_observability.md). -/
def RECORDER_RC_SEQ : Nat := 0x050
def RECORDER_RC_SEQ_NEXT : Fld := { off := 0x050, hi := 31, lo := 0 }
/-- RECORDER.RC_WIN (spec/18_observability.md). -/
def RECORDER_RC_WIN : Nat := 0x054
def RECORDER_RC_WIN_BASE : Fld := { off := 0x054, hi := 10, lo := 4 }
/-- RECORDER.RC_SWTRIG (spec/18_observability.md). -/
def RECORDER_RC_SWTRIG : Nat := 0x058
def RECORDER_RC_SWTRIG_TAG : Fld := { off := 0x058, hi := 31, lo := 16 }
def RECORDER_RC_SWTRIG_TRIG : Fld := { off := 0x058, hi := 4, lo := 0 }
/-- RECORDER.LS_STAT (spec/18_observability.md). -/
def RECORDER_LS_STAT : Nat := 0x060
def RECORDER_LS_STAT_STATE : Fld := { off := 0x060, hi := 31, lo := 29 }
def RECORDER_LS_STAT_FOREIGN : Fld := { off := 0x060, hi := 28, lo := 28 }
def RECORDER_LS_STAT_LISTFULL : Fld := { off := 0x060, hi := 27, lo := 16 }
def RECORDER_LS_STAT_BAD : Fld := { off := 0x060, hi := 15, lo := 8 }
def RECORDER_LS_STAT_NEXT : Fld := { off := 0x060, hi := 7, lo := 0 }
/-- RECORDER.LS_ISEQ (spec/18_observability.md). -/
def RECORDER_LS_ISEQ : Nat := 0x064
def RECORDER_LS_ISEQ_ISEQ : Fld := { off := 0x064, hi := 31, lo := 0 }
/-- RECORDER.LS_TIME_LO (spec/18_observability.md). -/
def RECORDER_LS_TIME_LO : Nat := 0x068
def RECORDER_LS_TIME_LO_VALUE : Fld := { off := 0x068, hi := 31, lo := 0 }
/-- RECORDER.LS_TIME_HI (spec/18_observability.md). -/
def RECORDER_LS_TIME_HI : Nat := 0x06C
def RECORDER_LS_TIME_HI_VALUE : Fld := { off := 0x06C, hi := 31, lo := 0 }
/-- RECORDER.LS_FLUSHES (spec/18_observability.md). -/
def RECORDER_LS_FLUSHES : Nat := 0x070
def RECORDER_LS_FLUSHES_COUNT : Fld := { off := 0x070, hi := 31, lo := 0 }
/-- RECORDER.TRG_CFG (spec/18_observability.md). -/
def RECORDER_TRG_CFG : Nat := 0x100
def RECORDER_TRG_CFG_EN : Fld := { off := 0x100, hi := 31, lo := 31 }
def RECORDER_TRG_CFG_ONCE : Fld := { off := 0x100, hi := 30, lo := 30 }
def RECORDER_TRG_CFG_IRQ : Fld := { off := 0x100, hi := 29, lo := 29 }
def RECORDER_TRG_CFG_LIST : Fld := { off := 0x100, hi := 28, lo := 26 }
def RECORDER_TRG_CFG_KIND : Fld := { off := 0x100, hi := 25, lo := 23 }
def RECORDER_TRG_CFG_COND : Fld := { off := 0x100, hi := 16, lo := 16 }
def RECORDER_TRG_CFG_PARAM : Fld := { off := 0x100, hi := 15, lo := 0 }
/-- RECORDER.TRG_ARG0 (spec/18_observability.md). -/
def RECORDER_TRG_ARG0 : Nat := 0x104
def RECORDER_TRG_ARG0_ARG0 : Fld := { off := 0x104, hi := 31, lo := 0 }
/-- RECORDER.TRG_ARG1 (spec/18_observability.md). -/
def RECORDER_TRG_ARG1 : Nat := 0x108
def RECORDER_TRG_ARG1_ARG1 : Fld := { off := 0x108, hi := 31, lo := 0 }
/-- RECORDER.TRG_HITS (spec/18_observability.md). -/
def RECORDER_TRG_HITS : Nat := 0x10C
def RECORDER_TRG_HITS_COUNT : Fld := { off := 0x10C, hi := 31, lo := 0 }
/-- RECORDER.LST_R (spec/18_observability.md). -/
def RECORDER_LST_R : Nat := 0x300
def RECORDER_LST_R_VALID : Fld := { off := 0x300, hi := 31, lo := 31 }
def RECORDER_LST_R_OFFSET : Fld := { off := 0x300, hi := 20, lo := 2 }
/-- RECORDER.RECWIN (spec/18_observability.md). -/
def RECORDER_RECWIN : Nat := 0x800
def RECORDER_RECWIN_WORD : Fld := { off := 0x800, hi := 31, lo := 0 }

/-! ### TEST page fields -/

/-- TEST.LC_STAT (spec/19_test.md). -/
def TEST_LC_STAT : Nat := 0x040
def TEST_LC_STAT_STATE : Fld := { off := 0x040, hi := 31, lo := 29 }
def TEST_LC_STAT_PENDING : Fld := { off := 0x040, hi := 28, lo := 28 }
/-- TEST.LC_CMD (spec/19_test.md). -/
def TEST_LC_CMD : Nat := 0x044
def TEST_LC_CMD_OP : Fld := { off := 0x044, hi := 31, lo := 28 }
def TEST_LC_CMD_CONFIRM : Fld := { off := 0x044, hi := 15, lo := 0 }
/-- TEST.BST_STAT (spec/19_test.md). -/
def TEST_BST_STAT : Nat := 0x048
def TEST_BST_STAT_DONE : Fld := { off := 0x048, hi := 31, lo := 31 }
def TEST_BST_STAT_PARK : Fld := { off := 0x048, hi := 30, lo := 30 }
def TEST_BST_STAT_REAPPLIED : Fld := { off := 0x048, hi := 29, lo := 29 }
def TEST_BST_STAT_EM0_F : Fld := { off := 0x048, hi := 28, lo := 28 }
def TEST_BST_STAT_EM1_F : Fld := { off := 0x048, hi := 27, lo := 27 }
def TEST_BST_STAT_SYNC_F : Fld := { off := 0x048, hi := 26, lo := 26 }
def TEST_BST_STAT_PLANE_F : Fld := { off := 0x048, hi := 25, lo := 24 }
def TEST_BST_STAT_LINK_F : Fld := { off := 0x048, hi := 23, lo := 20 }
def TEST_BST_STAT_RIMS_F : Fld := { off := 0x048, hi := 19, lo := 12 }
def TEST_BST_STAT_PORTS_F : Fld := { off := 0x048, hi := 7, lo := 0 }
/-- TEST.FT_CMD (spec/19_test.md). -/
def TEST_FT_CMD : Nat := 0x050
def TEST_FT_CMD_OP : Fld := { off := 0x050, hi := 31, lo := 28 }
def TEST_FT_CMD_DEPTH : Fld := { off := 0x050, hi := 13, lo := 12 }
def TEST_FT_CMD_PORT : Fld := { off := 0x050, hi := 11, lo := 10 }
def TEST_FT_CMD_PLANE : Fld := { off := 0x050, hi := 9, lo := 9 }
def TEST_FT_CMD_LAYER : Fld := { off := 0x050, hi := 6, lo := 4 }
def TEST_FT_CMD_RIM : Fld := { off := 0x050, hi := 3, lo := 0 }
/-- TEST.FT_CFG (spec/19_test.md). -/
def TEST_FT_CFG : Nat := 0x054
def TEST_FT_CFG_TID : Fld := { off := 0x054, hi := 5, lo := 0 }
/-- TEST.FT_STAT (spec/19_test.md). -/
def TEST_FT_STAT : Nat := 0x058
def TEST_FT_STAT_BUSY : Fld := { off := 0x058, hi := 31, lo := 31 }
def TEST_FT_STAT_PHASE : Fld := { off := 0x058, hi := 30, lo := 28 }
def TEST_FT_STAT_RESULT : Fld := { off := 0x058, hi := 27, lo := 24 }
def TEST_FT_STAT_OP : Fld := { off := 0x058, hi := 23, lo := 20 }
/-- TEST.FT_FAIL0 (spec/19_test.md). -/
def TEST_FT_FAIL0 : Nat := 0x05C
def TEST_FT_FAIL0_ELEM : Fld := { off := 0x05C, hi := 31, lo := 28 }
def TEST_FT_FAIL0_BANK : Fld := { off := 0x05C, hi := 27, lo := 24 }
def TEST_FT_FAIL0_ROW : Fld := { off := 0x05C, hi := 13, lo := 0 }
/-- TEST.FT_FAIL1 (spec/19_test.md). -/
def TEST_FT_FAIL1 : Nat := 0x060
def TEST_FT_FAIL1_BITS : Fld := { off := 0x060, hi := 31, lo := 0 }
/-- TEST.FT_TIME (spec/19_test.md). -/
def TEST_FT_TIME : Nat := 0x064
def TEST_FT_TIME_TICKS : Fld := { off := 0x064, hi := 31, lo := 0 }
/-- TEST.LB_ERR (spec/19_test.md). -/
def TEST_LB_ERR : Nat := 0x068
def TEST_LB_ERR_COUNT : Fld := { off := 0x068, hi := 31, lo := 0 }
/-- TEST.SVC_NONCE_LO (spec/19_test.md). -/
def TEST_SVC_NONCE_LO : Nat := 0x070
def TEST_SVC_NONCE_LO_VALUE : Fld := { off := 0x070, hi := 31, lo := 0 }
/-- TEST.SVC_NONCE_HI (spec/19_test.md). -/
def TEST_SVC_NONCE_HI : Nat := 0x074
def TEST_SVC_NONCE_HI_VALUE : Fld := { off := 0x074, hi := 31, lo := 0 }
/-- TEST.SVC_CTL (spec/19_test.md). -/
def TEST_SVC_CTL : Nat := 0x078
def TEST_SVC_CTL_ENTER : Fld := { off := 0x078, hi := 31, lo := 31 }
def TEST_SVC_CTL_REFUSED : Fld := { off := 0x078, hi := 30, lo := 30 }
/-- TEST.SVC_TOK (spec/19_test.md). -/
def TEST_SVC_TOK : Nat := 0x200
def TEST_SVC_TOK_WORD : Fld := { off := 0x200, hi := 31, lo := 0 }

/-! ### LAYER page fields -/

/-- LAYER.LAYER_GEOM (spec/02_storage_array.md). -/
def LAYER_LAYER_GEOM : Nat := 0x040
def LAYER_LAYER_GEOM_KIND : Fld := { off := 0x040, hi := 17, lo := 16 }
def LAYER_LAYER_GEOM_FRAMES : Fld := { off := 0x040, hi := 15, lo := 0 }
/-- LAYER.LAYER_STAT (spec/02_storage_array.md). -/
def LAYER_LAYER_STAT : Nat := 0x044
def LAYER_LAYER_STAT_ACTIVE : Fld := { off := 0x044, hi := 20, lo := 16 }
def LAYER_LAYER_STAT_RIM_UP : Fld := { off := 0x044, hi := 15, lo := 0 }
/-- LAYER.SPARE_STAT (spec/02_storage_array.md). -/
def LAYER_SPARE_STAT : Nat := 0x048
def LAYER_SPARE_STAT_SPARE_FOR : Fld := { off := 0x048, hi := 7, lo := 4 }
def LAYER_SPARE_STAT_SPARE_ROLE : Fld := { off := 0x048, hi := 2, lo := 0 }
/-- LAYER.RIM_MAP (spec/02_storage_array.md). -/
def LAYER_RIM_MAP : Nat := 0x050
def LAYER_RIM_MAP_MAP3 : Fld := { off := 0x050, hi := 28, lo := 24 }
def LAYER_RIM_MAP_MAP2 : Fld := { off := 0x050, hi := 20, lo := 16 }
def LAYER_RIM_MAP_MAP1 : Fld := { off := 0x050, hi := 12, lo := 8 }
def LAYER_RIM_MAP_MAP0 : Fld := { off := 0x050, hi := 4, lo := 0 }
/-- LAYER.LOST_FRAMES (spec/15_integrity.md). -/
def LAYER_LOST_FRAMES : Nat := 0x060
def LAYER_LOST_FRAMES_FRAMES : Fld := { off := 0x060, hi := 10, lo := 0 }
/-- LAYER.VDIS_CNT (spec/15_integrity.md). -/
def LAYER_VDIS_CNT : Nat := 0x064
def LAYER_VDIS_CNT_COUNT : Fld := { off := 0x064, hi := 31, lo := 0 }
/-- LAYER.DRG_STAT (spec/21_integration.md). -/
def LAYER_DRG_STAT : Nat := 0x068
def LAYER_DRG_STAT_STATE : Fld := { off := 0x068, hi := 31, lo := 30 }
def LAYER_DRG_STAT_SEC_UP : Fld := { off := 0x068, hi := 29, lo := 26 }
def LAYER_DRG_STAT_SPARES : Fld := { off := 0x068, hi := 11, lo := 0 }
/-- LAYER.DRG_CNT (spec/21_integration.md). -/
def LAYER_DRG_CNT : Nat := 0x06C
def LAYER_DRG_CNT_RUN_REP : Fld := { off := 0x06C, hi := 31, lo := 16 }
def LAYER_DRG_CNT_BOOT_REP : Fld := { off := 0x06C, hi := 15, lo := 0 }
/-- LAYER.DRG_DIEID (spec/21_integration.md). -/
def LAYER_DRG_DIEID : Nat := 0x070
def LAYER_DRG_DIEID_SERIAL : Fld := { off := 0x070, hi := 31, lo := 0 }

/-! ### RIM page fields -/

/-- RIM.RIM_ID (spec/02_storage_array.md). -/
def RIM_RIM_ID : Nat := 0x040
def RIM_RIM_ID_LAYER : Fld := { off := 0x040, hi := 15, lo := 13 }
def RIM_RIM_ID_PHYS : Fld := { off := 0x040, hi := 12, lo := 8 }
def RIM_RIM_ID_LOGICAL : Fld := { off := 0x040, hi := 7, lo := 4 }
def RIM_RIM_ID_SECTOR : Fld := { off := 0x040, hi := 3, lo := 2 }
def RIM_RIM_ID_SERVING : Fld := { off := 0x040, hi := 1, lo := 1 }
def RIM_RIM_ID_SPARE : Fld := { off := 0x040, hi := 0, lo := 0 }
/-- RIM.ACC_CNT (spec/02_storage_array.md). -/
def RIM_ACC_CNT : Nat := 0x044
def RIM_ACC_CNT_COUNT : Fld := { off := 0x044, hi := 31, lo := 0 }
/-- RIM.RMW_CNT (spec/02_storage_array.md). -/
def RIM_RMW_CNT : Nat := 0x048
def RIM_RMW_CNT_COUNT : Fld := { off := 0x048, hi := 31, lo := 0 }
/-- RIM.CE_CNT (spec/15_integrity.md). -/
def RIM_CE_CNT : Nat := 0x04C
def RIM_CE_CNT_COUNT : Fld := { off := 0x04C, hi := 31, lo := 0 }
/-- RIM.UE_CNT (spec/15_integrity.md). -/
def RIM_UE_CNT : Nat := 0x050
def RIM_UE_CNT_COUNT : Fld := { off := 0x050, hi := 31, lo := 0 }
/-- RIM.RIM_FSTAT (spec/15_integrity.md). -/
def RIM_RIM_FSTAT : Nat := 0x054
def RIM_RIM_FSTAT_CAUSE : Fld := { off := 0x054, hi := 7, lo := 4 }
def RIM_RIM_FSTAT_HEALTH : Fld := { off := 0x054, hi := 1, lo := 0 }
/-- RIM.PWR_CTL (spec/16_power_and_energy.md). -/
def RIM_PWR_CTL : Nat := 0x058
def RIM_PWR_CTL_IDLE_US : Fld := { off := 0x058, hi := 15, lo := 8 }
def RIM_PWR_CTL_TARGET : Fld := { off := 0x058, hi := 1, lo := 0 }
/-- RIM.PWR_STAT (spec/16_power_and_energy.md). -/
def RIM_PWR_STAT : Nat := 0x05C
def RIM_PWR_STAT_REFUSED : Fld := { off := 0x05C, hi := 31, lo := 31 }
def RIM_PWR_STAT_FORCED : Fld := { off := 0x05C, hi := 30, lo := 30 }
def RIM_PWR_STAT_STATE : Fld := { off := 0x05C, hi := 18, lo := 16 }
def RIM_PWR_STAT_WAKES : Fld := { off := 0x05C, hi := 15, lo := 0 }

/-- The rows of the ANY page. -/
def rowsAny : List RegRow :=
  [ ⟨0x000, 1, 0, 1, 0, [⟨31, 24, .ro, 0⟩, ⟨23, 8, .ro, 0⟩, ⟨7, 0, .ro, 1⟩]⟩,
    ⟨0x004, 1, 0, 1, 0, [⟨31, 24, .ro, 0⟩, ⟨23, 23, .ro, 0⟩, ⟨22, 22, .ro, 0⟩, ⟨21, 16, .ro, 0⟩]⟩,
    ⟨0x008, 1, 0, 1, 0, [⟨0, 0, .ro, 0⟩]⟩,
    ⟨0x00C, 1, 0, 1, 0, [⟨31, 31, .ro, 0⟩, ⟨30, 30, .ro, 0⟩, ⟨29, 29, .ro, 0⟩, ⟨28, 28, .ro, 0⟩, ⟨27, 27, .ro, 0⟩]⟩,
    ⟨0x010, 1, 0, 1, 0, [⟨31, 0, .rw1c, 0⟩]⟩,
    ⟨0x014, 1, 0, 1, 0, [⟨31, 0, .rw, 0⟩]⟩,
    ⟨0x018, 1, 0, 1, 0, [⟨31, 0, .w1s, 0⟩]⟩,
    ⟨0x01C, 1, 0, 1, 0, [⟨7, 6, .ro, 0⟩, ⟨5, 5, .ro, 0⟩, ⟨4, 0, .ro, 0⟩]⟩,
    ⟨0x020, 1, 0, 1, 0, [⟨31, 31, .rw1c, 0⟩, ⟨30, 28, .ro, 0⟩, ⟨27, 24, .ro, 0⟩]⟩,
    ⟨0x024, 1, 0, 1, 0, [⟨20, 0, .ro, 0⟩]⟩,
    ⟨0x028, 1, 0, 1, 0, [⟨31, 0, .rc, 0⟩]⟩ ]

/-- The rows of the IDENT page. -/
def rowsIdent : List RegRow :=
  [ ⟨0x040, 1, 0, 1, 0, [⟨31, 16, .ro, 22610⟩, ⟨15, 0, .ro, 8⟩]⟩,
    ⟨0x044, 1, 0, 1, 0, [⟨31, 24, .ro, 0⟩, ⟨23, 16, .ro, 0⟩, ⟨15, 8, .ro, 1⟩]⟩,
    ⟨0x048, 1, 0, 1, 0, [⟨31, 0, .ro, 0⟩]⟩,
    ⟨0x04C, 1, 0, 1, 0, [⟨31, 0, .ro, 0⟩]⟩,
    ⟨0x050, 1, 0, 1, 0, [⟨31, 0, .ro, 0⟩]⟩,
    ⟨0x054, 1, 0, 1, 0, [⟨31, 0, .ro, 0⟩]⟩ ]

/-- The rows of the CAPS page. -/
def rowsCaps : List RegRow :=
  [ ⟨0x040, 1, 0, 1, 0, [⟨19, 16, .ro, 0⟩, ⟨11, 8, .ro, 0⟩, ⟨7, 4, .ro, 0⟩, ⟨3, 0, .ro, 0⟩]⟩,
    ⟨0x044, 1, 0, 1, 0, [⟨31, 24, .ro, 0⟩, ⟨23, 16, .ro, 0⟩, ⟨15, 8, .ro, 0⟩, ⟨7, 0, .ro, 0⟩]⟩,
    ⟨0x048, 1, 0, 1, 0, [⟨31, 22, .ro, 0⟩, ⟨16, 0, .ro, 0⟩]⟩,
    ⟨0x04C, 1, 0, 1, 0, [⟨7, 0, .ro, 0⟩]⟩,
    ⟨0x050, 1, 0, 1, 0, [⟨7, 0, .ro, 0⟩]⟩,
    ⟨0x054, 1, 0, 1, 0, [⟨3, 0, .ro, 0⟩]⟩,
    ⟨0x058, 1, 0, 1, 0, [⟨4, 4, .ro, 0⟩, ⟨3, 3, .ro, 0⟩, ⟨2, 2, .ro, 0⟩, ⟨1, 1, .ro, 0⟩, ⟨0, 0, .ro, 0⟩]⟩,
    ⟨0x05C, 1, 0, 1, 0, [⟨29, 1, .ro, 0⟩]⟩,
    ⟨0x060, 1, 0, 1, 0, [⟨31, 16, .ro, 1250⟩, ⟨15, 8, .ro, 100⟩]⟩ ]

/-- The rows of the SEMA page. -/
def rowsSema : List RegRow :=
  [ ⟨0x040, 1, 0, 1, 0, [⟨31, 30, .wo, 0⟩, ⟨4, 0, .wo, 0⟩]⟩,
    ⟨0x044, 1, 0, 1, 0, [⟨31, 30, .ro, 0⟩, ⟨29, 28, .ro, 0⟩, ⟨4, 0, .ro, 0⟩]⟩,
    ⟨0x048, 1, 0, 1, 0, [⟨31, 0, .ro, 0⟩]⟩,
    ⟨0x04C, 1, 0, 1, 0, [⟨31, 0, .ro, 0⟩]⟩,
    ⟨0x050, 1, 0, 1, 0, [⟨31, 0, .ro, 0⟩]⟩,
    ⟨0x054, 1, 0, 1, 0, [⟨31, 30, .ro, 0⟩, ⟨29, 28, .ro, 0⟩, ⟨4, 0, .ro, 0⟩]⟩ ]

/-- The rows of the PORT page. -/
def rowsPort : List RegRow :=
  [ ⟨0x040, 1, 0, 1, 0, [⟨31, 24, .ro, 0⟩, ⟨18, 16, .ro, 0⟩, ⟨15, 15, .ro, 0⟩, ⟨14, 8, .ro, 0⟩, ⟨1, 0, .ro, 0⟩]⟩,
    ⟨0x044, 1, 0, 1, 0, [⟨25, 16, .rwo, 64⟩, ⟨13, 8, .rwo, 0⟩, ⟨6, 4, .rwo, 7⟩, ⟨2, 1, .rwo, 0⟩, ⟨0, 0, .rwo, 0⟩]⟩,
    ⟨0x048, 1, 0, 1, 0, [⟨26, 26, .rw1c, 0⟩, ⟨25, 25, .rw1c, 0⟩, ⟨24, 24, .rw1c, 0⟩, ⟨18, 16, .ro, 0⟩, ⟨15, 8, .ro, 0⟩, ⟨2, 0, .ro, 1⟩]⟩,
    ⟨0x04C, 1, 0, 1, 0, [⟨31, 0, .ro, 0⟩]⟩,
    ⟨0x050, 1, 0, 1, 0, [⟨31, 0, .ro, 0⟩]⟩,
    ⟨0x054, 1, 0, 1, 0, [⟨31, 0, .ro, 0⟩]⟩,
    ⟨0x058, 1, 0, 1, 0, [⟨31, 0, .rc, 0⟩]⟩,
    ⟨0x060, 9, 4, 1, 0, [⟨31, 0, .rc, 0⟩]⟩,
    ⟨0x100, 1, 0, 1, 0, [⟨11, 8, .ro, 0⟩, ⟨1, 1, .w1s, 0⟩, ⟨0, 0, .ro, 0⟩]⟩,
    ⟨0x104, 1, 0, 1, 0, [⟨31, 0, .rwo, 1⟩]⟩,
    ⟨0x108, 1, 0, 1, 0, [⟨31, 0, .ro, 0⟩]⟩,
    ⟨0x10C, 1, 0, 1, 0, [⟨31, 0, .ro, 0⟩]⟩ ] ++
  [ ⟨0x110, 1, 0, 1, 0, [⟨31, 0, .rc, 0⟩]⟩,
    ⟨0x114, 1, 0, 1, 0, [⟨31, 0, .rc, 0⟩]⟩ ]

/-- The rows of the HUB page. -/
def rowsHub : List RegRow :=
  [ ⟨0x040, 1, 0, 1, 0, [⟨31, 24, .ro, 0⟩, ⟨12, 12, .rw1c, 0⟩, ⟨11, 8, .ro, 0⟩, ⟨7, 4, .ro, 0⟩, ⟨1, 0, .ro, 0⟩]⟩,
    ⟨0x044, 1, 0, 1, 0, [⟨1, 1, .rwo, 0⟩, ⟨0, 0, .rwo, 0⟩]⟩,
    ⟨0x048, 1, 0, 1, 0, [⟨31, 31, .ro, 0⟩, ⟨30, 28, .ro, 0⟩, ⟨15, 0, .ro, 0⟩]⟩,
    ⟨0x04C, 1, 0, 1, 0, [⟨31, 0, .ro, 0⟩]⟩,
    ⟨0x050, 1, 0, 1, 0, [⟨31, 31, .rw1c, 0⟩, ⟨20, 16, .ro, 0⟩]⟩,
    ⟨0x054, 1, 0, 1, 0, [⟨31, 0, .rc, 0⟩]⟩,
    ⟨0x058, 1, 0, 1, 0, [⟨15, 0, .rc, 0⟩]⟩,
    ⟨0x05C, 1, 0, 1, 0, [⟨31, 0, .ro, 0⟩]⟩,
    ⟨0x060, 1, 0, 1, 0, [⟨31, 0, .ro, 0⟩]⟩,
    ⟨0x080, 32, 4, 1, 0, [⟨31, 26, .ro, 0⟩, ⟨24, 16, .rc, 0⟩, ⟨8, 0, .ro, 0⟩]⟩ ]

/-- The rows of the REGUL page. -/
def rowsRegul : List RegRow :=
  [ ⟨0x040, 1, 0, 1, 0, [⟨4, 4, .w1s, 0⟩, ⟨3, 3, .rw1c, 0⟩, ⟨2, 2, .ro, 0⟩, ⟨1, 1, .rw1c, 0⟩, ⟨0, 0, .w1s, 0⟩]⟩,
    ⟨0x044, 1, 0, 1, 0, [⟨31, 0, .ro, 0⟩]⟩,
    ⟨0x048, 1, 0, 1, 0, [⟨31, 0, .ro, 0⟩]⟩,
    ⟨0x04C, 1, 0, 1, 0, [⟨31, 0, .ro, 0⟩]⟩,
    ⟨0x050, 1, 0, 1, 0, [⟨31, 31, .ro, 0⟩, ⟨30, 30, .rw1c, 0⟩, ⟨8, 8, .rw, 0⟩, ⟨7, 7, .w1s, 0⟩, ⟨5, 0, .rw, 0⟩]⟩,
    ⟨0x054, 1, 0, 1, 0, [⟨5, 0, .rwo, 0⟩]⟩,
    ⟨0x060, 7, 4, 1, 0, [⟨31, 16, .rwo, 0⟩, ⟨15, 0, .rwo, 0⟩]⟩,
    ⟨0x07C, 1, 0, 1, 0, [⟨15, 0, .rwo, 0⟩]⟩,
    ⟨0x100, 64, 16, 1, 0, [⟨31, 31, .ro, 0⟩, ⟨30, 30, .ro, 0⟩, ⟨29, 29, .ro, 0⟩, ⟨28, 28, .ro, 0⟩, ⟨25, 25, .rwo, 0⟩, ⟨23, 12, .rwo, 4095⟩, ⟨9, 8, .rwo, 2⟩, ⟨7, 0, .rwo, 0⟩]⟩,
    ⟨0x104, 64, 16, 1, 0, [⟨31, 0, .rwo, 4294967295⟩]⟩,
    ⟨0x108, 64, 16, 1, 0, [⟨27, 16, .ro, 0⟩, ⟨15, 0, .rwo, 0⟩]⟩,
    ⟨0x10C, 64, 16, 1, 0, [⟨31, 0, .ro, 0⟩]⟩,
    ⟨0x800, 1, 0, 1, 0, [⟨31, 31, .ro, 0⟩, ⟨23, 8, .ro, 0⟩, ⟨5, 0, .ro, 0⟩]⟩ ] ++
  [ ⟨0x804, 1, 0, 1, 0, [⟨31, 0, .ro, 0⟩]⟩,
    ⟨0x808, 2, 4, 1, 0, [⟨31, 0, .ro, 0⟩]⟩,
    ⟨0x810, 2, 4, 1, 0, [⟨31, 0, .ro, 0⟩]⟩,
    ⟨0x818, 2, 4, 1, 0, [⟨31, 0, .ro, 0⟩]⟩,
    ⟨0x820, 2, 4, 1, 0, [⟨31, 0, .ro, 0⟩]⟩,
    ⟨0x828, 2, 4, 1, 0, [⟨31, 0, .ro, 0⟩]⟩,
    ⟨0x830, 2, 4, 1, 0, [⟨31, 0, .ro, 0⟩]⟩,
    ⟨0x838, 2, 4, 1, 0, [⟨31, 0, .ro, 0⟩]⟩,
    ⟨0x840, 2, 4, 1, 0, [⟨31, 0, .ro, 0⟩]⟩,
    ⟨0x880, 16, 4, 1, 0, [⟨31, 0, .ro, 0⟩]⟩ ]

/-- The rows of the HANDLE_CMD page. -/
def rowsHandleCmd : List RegRow :=
  [ ⟨0x040, 1, 0, 1, 0, [⟨31, 24, .rwo, 0⟩, ⟨18, 17, .rwo, 0⟩, ⟨16, 14, .rwo, 0⟩, ⟨13, 0, .rwo, 0⟩]⟩,
    ⟨0x044, 1, 0, 1, 0, [⟨31, 16, .rwo, 0⟩, ⟨15, 0, .rwo, 0⟩]⟩,
    ⟨0x048, 1, 0, 1, 0, [⟨31, 16, .rwo, 0⟩, ⟨15, 12, .rwo, 0⟩, ⟨11, 11, .rwo, 0⟩, ⟨10, 10, .rwo, 0⟩, ⟨9, 9, .rwo, 0⟩, ⟨8, 8, .rwo, 0⟩, ⟨7, 7, .rwo, 0⟩, ⟨6, 6, .rwo, 0⟩, ⟨5, 0, .rwo, 0⟩]⟩,
    ⟨0x04C, 1, 0, 1, 0, [⟨31, 24, .rwo, 0⟩, ⟨23, 0, .rwo, 0⟩]⟩,
    ⟨0x050, 1, 0, 1, 0, [⟨31, 0, .rwo, 0⟩]⟩,
    ⟨0x054, 1, 0, 1, 0, [⟨31, 0, .rwo, 0⟩]⟩,
    ⟨0x058, 1, 0, 1, 0, [⟨31, 0, .rwo, 0⟩]⟩,
    ⟨0x05C, 1, 0, 1, 0, [⟨31, 0, .rwo, 0⟩]⟩,
    ⟨0x060, 1, 0, 1, 0, [⟨31, 28, .rwo, 0⟩, ⟨11, 11, .rwo, 0⟩, ⟨10, 10, .rwo, 0⟩, ⟨8, 0, .rwo, 0⟩]⟩,
    ⟨0x064, 1, 0, 1, 0, [⟨31, 31, .ro, 0⟩, ⟨30, 30, .rw1c, 0⟩, ⟨24, 16, .ro, 0⟩, ⟨15, 8, .ro, 0⟩, ⟨3, 0, .ro, 0⟩]⟩ ]

/-- The rows of the HANDLE_STATE page. -/
def rowsHandleState : List RegRow :=
  [ ⟨0x040, 512, 4, 1, 0, [⟨16, 16, .ro, 0⟩, ⟨15, 8, .ro, 0⟩, ⟨1, 0, .ro, 0⟩]⟩ ]

/-- The rows of the HANDLE_READ page. -/
def rowsHandleRead : List RegRow :=
  [ ⟨0x040, 1, 0, 1, 0, [⟨31, 24, .ro, 0⟩, ⟨18, 17, .ro, 0⟩, ⟨16, 14, .ro, 0⟩, ⟨13, 0, .ro, 0⟩]⟩,
    ⟨0x044, 1, 0, 1, 0, [⟨31, 16, .ro, 0⟩, ⟨15, 0, .ro, 0⟩]⟩,
    ⟨0x048, 1, 0, 1, 0, [⟨31, 16, .ro, 0⟩, ⟨15, 12, .ro, 0⟩, ⟨11, 11, .ro, 0⟩, ⟨10, 10, .ro, 0⟩, ⟨9, 9, .ro, 0⟩, ⟨8, 8, .ro, 0⟩, ⟨7, 7, .ro, 0⟩, ⟨6, 6, .ro, 0⟩, ⟨5, 0, .ro, 0⟩]⟩,
    ⟨0x04C, 1, 0, 1, 0, [⟨31, 24, .ro, 0⟩, ⟨23, 0, .ro, 0⟩]⟩,
    ⟨0x050, 1, 0, 1, 0, [⟨31, 0, .ro, 0⟩]⟩,
    ⟨0x054, 1, 0, 1, 0, [⟨31, 0, .ro, 0⟩]⟩,
    ⟨0x058, 1, 0, 1, 0, [⟨31, 0, .ro, 0⟩]⟩,
    ⟨0x05C, 1, 0, 1, 0, [⟨31, 0, .ro, 0⟩]⟩,
    ⟨0x060, 1, 0, 1, 0, [⟨23, 16, .ro, 0⟩, ⟨8, 0, .ro, 0⟩]⟩ ]

/-- The rows of the HANDLE_GUARD page. -/
def rowsHandleGuard : List RegRow :=
  [ ⟨0x040, 1, 0, 1, 0, [⟨31, 16, .rwo, 0⟩, ⟨15, 0, .rwo, 0⟩]⟩,
    ⟨0x044, 1, 0, 1, 0, [⟨31, 0, .rc, 0⟩]⟩,
    ⟨0x048, 1, 0, 1, 0, [⟨31, 0, .rc, 0⟩]⟩,
    ⟨0x04C, 1, 0, 1, 0, [⟨31, 0, .rc, 0⟩]⟩,
    ⟨0x050, 1, 0, 1, 0, [⟨29, 28, .ro, 0⟩, ⟨26, 20, .ro, 0⟩, ⟨16, 8, .ro, 0⟩, ⟨7, 0, .ro, 0⟩]⟩ ]

/-- The rows of the SYNC_CTR page. -/
def rowsSyncCtr : List RegRow :=
  [ ⟨0x040, 1, 0, 1, 0, [⟨31, 24, .ro, 255⟩, ⟨23, 16, .ro, 128⟩, ⟨15, 9, .ro, 64⟩, ⟨8, 3, .ro, 48⟩, ⟨2, 2, .ro, 0⟩]⟩,
    ⟨0x044, 1, 0, 1, 0, [⟨31, 30, .rwo, 0⟩, ⟨24, 16, .rwo, 0⟩, ⟨15, 0, .rwo, 0⟩]⟩,
    ⟨0x048, 1, 0, 1, 0, [⟨31, 31, .rw1c, 0⟩, ⟨30, 30, .rw1c, 0⟩]⟩,
    ⟨0x04C, 1, 0, 1, 0, [⟨31, 0, .ro, 0⟩]⟩,
    ⟨0x050, 1, 0, 1, 0, [⟨31, 0, .ro, 0⟩]⟩,
    ⟨0x054, 1, 0, 1, 0, [⟨31, 0, .rc, 0⟩]⟩,
    ⟨0x080, 12, 4, 1, 0, [⟨31, 0, .rw1c, 0⟩]⟩,
    ⟨0x0B0, 12, 4, 1, 0, [⟨31, 0, .rw1c, 0⟩]⟩,
    ⟨0x200, 384, 4, 1, 0, [⟨15, 0, .ro, 0⟩]⟩,
    ⟨0x800, 128, 4, 1, 0, [⟨31, 31, .ro, 0⟩, ⟨30, 30, .ro, 0⟩, ⟨29, 29, .ro, 0⟩, ⟨28, 28, .ro, 0⟩, ⟨21, 16, .ro, 0⟩, ⟨15, 0, .ro, 0⟩]⟩ ]

/-- The rows of the SYNC_RING page. -/
def rowsSyncRing : List RegRow :=
  [ ⟨0x040, 1, 0, 1, 0, [⟨31, 31, .rw1c, 0⟩, ⟨26, 24, .ro, 0⟩, ⟨7, 0, .ro, 0⟩]⟩,
    ⟨0x100, 128, 16, 1, 0, [⟨31, 31, .rwo, 0⟩, ⟨29, 24, .rwo, 0⟩, ⟨23, 16, .rwo, 0⟩, ⟨8, 0, .rwo, 0⟩]⟩,
    ⟨0x104, 128, 16, 1, 0, [⟨20, 0, .rwo, 0⟩]⟩,
    ⟨0x108, 128, 16, 1, 0, [⟨31, 18, .rwo, 0⟩, ⟨13, 0, .rwo, 0⟩]⟩,
    ⟨0x10C, 128, 16, 1, 0, [⟨31, 16, .rwo, 0⟩]⟩,
    ⟨0x900, 128, 4, 1, 0, [⟨30, 30, .ro, 0⟩, ⟨29, 16, .ro, 0⟩, ⟨13, 0, .ro, 0⟩]⟩ ]

/-- The rows of the SYNC_TAG page. -/
def rowsSyncTag : List RegRow :=
  [ ⟨0x040, 1, 0, 1, 0, [⟨31, 30, .rwo, 0⟩, ⟨29, 22, .rwo, 0⟩, ⟨13, 0, .rwo, 0⟩]⟩,
    ⟨0x044, 1, 0, 1, 0, [⟨31, 0, .ro, 0⟩]⟩,
    ⟨0x048, 1, 0, 1, 0, [⟨31, 0, .rc, 0⟩]⟩,
    ⟨0x04C, 1, 0, 1, 0, [⟨31, 0, .rc, 0⟩]⟩,
    ⟨0x050, 1, 0, 1, 0, [⟨31, 0, .rc, 0⟩]⟩,
    ⟨0x800, 512, 4, 1, 0, [⟨31, 0, .ro, 0⟩]⟩ ]

/-- The rows of the SYNC_BAR page. -/
def rowsSyncBar : List RegRow :=
  [ ⟨0x040, 1, 0, 1, 0, [⟨21, 16, .rwo, 0⟩, ⟨11, 0, .rwo, 0⟩]⟩,
    ⟨0x100, 64, 16, 1, 0, [⟨31, 31, .rwo, 0⟩, ⟨30, 30, .rwo, 0⟩, ⟨29, 29, .w1s, 0⟩, ⟨22, 16, .rwo, 0⟩, ⟨11, 0, .rwo, 0⟩]⟩,
    ⟨0x104, 64, 16, 1, 0, [⟨31, 28, .ro, 0⟩, ⟨27, 27, .ro, 0⟩, ⟨22, 16, .ro, 0⟩, ⟨11, 0, .ro, 0⟩]⟩,
    ⟨0x108, 64, 16, 1, 0, [⟨31, 0, .ro, 0⟩]⟩,
    ⟨0x10C, 64, 16, 1, 0, [⟨31, 0, .ro, 0⟩]⟩ ]

/-- The rows of the MOVER page. -/
def rowsMover : List RegRow :=
  [ ⟨0x040, 1, 0, 1, 0, [⟨16, 16, .ro, 0⟩, ⟨15, 8, .ro, 16⟩, ⟨3, 0, .ro, 4⟩]⟩,
    ⟨0x044, 1, 0, 1, 0, [⟨31, 0, .rwo, 0⟩]⟩,
    ⟨0x048, 1, 0, 1, 0, [⟨7, 0, .ro, 0⟩]⟩,
    ⟨0x04C, 1, 0, 1, 0, [⟨31, 0, .rc, 0⟩]⟩,
    ⟨0x080, 4, 32, 1, 0, [⟨0, 0, .w1s, 0⟩]⟩,
    ⟨0x084, 4, 32, 1, 0, [⟨15, 8, .ro, 0⟩, ⟨3, 0, .ro, 0⟩]⟩,
    ⟨0x088, 4, 32, 1, 0, [⟨31, 0, .ro, 0⟩]⟩,
    ⟨0x08C, 4, 32, 1, 0, [⟨31, 0, .rc, 0⟩]⟩,
    ⟨0x090, 4, 32, 1, 0, [⟨31, 0, .rc, 0⟩]⟩,
    ⟨0x200, 16, 64, 1, 0, [⟨21, 16, .rwo, 0⟩, ⟨11, 8, .rwo, 0⟩, ⟨2, 2, .rwo, 0⟩, ⟨1, 1, .rwo, 0⟩]⟩,
    ⟨0x204, 16, 64, 1, 0, [⟨16, 8, .rwo, 0⟩, ⟨7, 0, .rwo, 0⟩]⟩,
    ⟨0x208, 16, 64, 1, 0, [⟨31, 0, .rwo, 0⟩]⟩ ] ++
  [ ⟨0x20C, 16, 64, 1, 0, [⟨15, 0, .rwo, 0⟩]⟩,
    ⟨0x210, 16, 64, 1, 0, [⟨31, 16, .ro, 0⟩, ⟨15, 0, .rwo, 0⟩]⟩,
    ⟨0x214, 16, 64, 1, 0, [⟨17, 17, .rw1c, 0⟩, ⟨16, 16, .rw1c, 0⟩, ⟨15, 11, .ro, 0⟩, ⟨7, 4, .ro, 0⟩, ⟨1, 0, .ro, 0⟩]⟩,
    ⟨0x218, 16, 64, 1, 0, [⟨31, 16, .ro, 0⟩, ⟨11, 8, .ro, 0⟩, ⟨7, 0, .ro, 0⟩]⟩,
    ⟨0x21C, 16, 64, 1, 0, [⟨31, 0, .ro, 0⟩]⟩,
    ⟨0x220, 16, 64, 1, 0, [⟨31, 0, .rwo, 1⟩]⟩,
    ⟨0x224, 16, 64, 1, 0, [⟨31, 0, .wo, 0⟩]⟩,
    ⟨0x228, 16, 64, 1, 0, [⟨31, 0, .wo, 0⟩]⟩,
    ⟨0x22C, 16, 64, 1, 0, [⟨31, 0, .wo, 0⟩]⟩,
    ⟨0x230, 16, 64, 1, 0, [⟨31, 0, .wo, 0⟩]⟩,
    ⟨0x800, 256, 4, 1, 0, [⟨31, 31, .rwo, 0⟩, ⟨30, 30, .rwo, 0⟩, ⟨29, 24, .rwo, 0⟩, ⟨23, 16, .rwo, 0⟩]⟩,
    ⟨0xC00, 64, 4, 1, 0, [⟨31, 31, .rwo, 0⟩, ⟨30, 30, .rwo, 0⟩, ⟨29, 24, .rwo, 0⟩, ⟨23, 16, .rwo, 0⟩]⟩ ] ++
  [ ⟨0xD00, 64, 8, 1, 0, [⟨31, 31, .rwo, 0⟩, ⟨30, 30, .w1s, 0⟩, ⟨21, 16, .rwo, 0⟩, ⟨7, 0, .rwo, 0⟩]⟩,
    ⟨0xD04, 64, 8, 1, 0, [⟨15, 0, .ro, 0⟩]⟩ ]

/-- The rows of the RIMALU page. -/
def rowsRimalu : List RegRow :=
  [ ⟨0x040, 1, 0, 1, 0, [⟨11, 8, .ro, 0⟩, ⟨7, 4, .ro, 4⟩, ⟨0, 0, .ro, 0⟩]⟩,
    ⟨0x044, 1, 0, 1, 0, [⟨3, 0, .rwo, 0⟩]⟩,
    ⟨0x048, 1, 0, 1, 0, [⟨1, 0, .wo, 0⟩]⟩,
    ⟨0x04C, 1, 0, 1, 0, [⟨15, 12, .ro, 0⟩, ⟨11, 8, .rwo, 0⟩, ⟨6, 4, .rwo, 0⟩, ⟨0, 0, .w1s, 0⟩]⟩,
    ⟨0x050, 1, 0, 1, 0, [⟨15, 8, .ro, 0⟩, ⟨7, 0, .ro, 0⟩]⟩,
    ⟨0x054, 1, 0, 1, 0, [⟨31, 0, .rc, 0⟩]⟩,
    ⟨0x058, 1, 0, 1, 0, [⟨31, 0, .rc, 0⟩]⟩,
    ⟨0x05C, 1, 0, 1, 0, [⟨31, 0, .ro, 0⟩]⟩,
    ⟨0x080, 4, 32, 1, 0, [⟨24, 24, .rw1c, 0⟩, ⟨21, 21, .ro, 0⟩, ⟨20, 20, .ro, 0⟩, ⟨16, 12, .ro, 0⟩, ⟨8, 4, .ro, 0⟩, ⟨1, 0, .ro, 0⟩]⟩,
    ⟨0x084, 4, 32, 1, 0, [⟨31, 31, .rc, 0⟩, ⟨23, 20, .rc, 0⟩, ⟨15, 0, .rc, 0⟩]⟩,
    ⟨0x088, 4, 32, 1, 0, [⟨31, 31, .ro, 0⟩, ⟨19, 0, .ro, 0⟩]⟩,
    ⟨0x08C, 4, 32, 1, 0, [⟨31, 0, .ro, 0⟩]⟩ ] ++
  [ ⟨0x090, 4, 32, 1, 0, [⟨31, 0, .ro, 0⟩]⟩,
    ⟨0x094, 4, 32, 1, 0, [⟨31, 0, .rc, 0⟩]⟩,
    ⟨0x200, 1, 0, 1, 0, [⟨31, 28, .rwo, 0⟩, ⟨27, 25, .rwo, 0⟩, ⟨24, 24, .rwo, 0⟩, ⟨23, 23, .rwo, 0⟩, ⟨22, 20, .rwo, 0⟩, ⟨19, 14, .rwo, 0⟩, ⟨13, 8, .rwo, 0⟩, ⟨7, 6, .rwo, 0⟩, ⟨5, 4, .rwo, 0⟩, ⟨3, 2, .rwo, 0⟩, ⟨1, 0, .rwo, 0⟩]⟩,
    ⟨0x204, 1, 0, 1, 0, [⟨26, 18, .rwo, 0⟩, ⟨17, 9, .rwo, 0⟩, ⟨8, 0, .rwo, 0⟩]⟩,
    ⟨0x208, 1, 0, 1, 0, [⟨31, 24, .rwo, 0⟩, ⟨23, 23, .rwo, 0⟩, ⟨20, 0, .rwo, 0⟩]⟩,
    ⟨0x20C, 1, 0, 1, 0, [⟨31, 24, .rwo, 0⟩, ⟨23, 23, .rwo, 0⟩, ⟨20, 0, .rwo, 0⟩]⟩,
    ⟨0x210, 1, 0, 1, 0, [⟨31, 24, .rwo, 0⟩, ⟨23, 23, .rwo, 0⟩, ⟨20, 0, .rwo, 0⟩]⟩,
    ⟨0x214, 1, 0, 1, 0, [⟨31, 12, .rwo, 0⟩]⟩,
    ⟨0x218, 1, 0, 1, 0, [⟨31, 16, .rwo, 0⟩, ⟨15, 0, .rwo, 0⟩]⟩,
    ⟨0x21C, 1, 0, 1, 0, []⟩,
    ⟨0x220, 1, 0, 1, 0, [⟨31, 0, .rwo, 0⟩]⟩,
    ⟨0x224, 1, 0, 1, 0, [⟨31, 0, .rwo, 0⟩]⟩ ] ++
  [ ⟨0x228, 1, 0, 1, 0, [⟨31, 0, .rwo, 0⟩]⟩,
    ⟨0x22C, 1, 0, 1, 0, [⟨31, 0, .rwo, 0⟩]⟩,
    ⟨0x230, 1, 0, 1, 0, [⟨31, 0, .rwo, 0⟩]⟩,
    ⟨0x234, 1, 0, 1, 0, [⟨31, 0, .rwo, 0⟩]⟩,
    ⟨0x238, 1, 0, 1, 0, [⟨31, 0, .rwo, 0⟩]⟩,
    ⟨0x23C, 1, 0, 1, 0, [⟨31, 0, .rwo, 0⟩]⟩,
    ⟨0x300, 16, 4, 1, 0, [⟨31, 0, .rwo, 0⟩]⟩,
    ⟨0x400, 128, 4, 1, 0, [⟨31, 0, .ro, 0⟩]⟩ ]

/-- The rows of the CACHE page. -/
def rowsCache : List RegRow :=
  [ ⟨0x040, 1, 0, 1, 0, [⟨23, 16, .ro, 128⟩, ⟨15, 8, .ro, 8⟩, ⟨7, 0, .ro, 8⟩]⟩,
    ⟨0x044, 1, 0, 1, 0, [⟨31, 31, .w1s, 0⟩, ⟨7, 0, .rwo, 0⟩]⟩,
    ⟨0x048, 1, 0, 1, 0, [⟨31, 31, .ro, 0⟩, ⟨30, 30, .rw1c, 0⟩, ⟨27, 24, .ro, 0⟩, ⟨16, 8, .ro, 0⟩, ⟨7, 0, .ro, 0⟩]⟩,
    ⟨0x04C, 1, 0, 1, 0, [⟨31, 12, .rwo, 0⟩]⟩,
    ⟨0x050, 1, 0, 1, 0, [⟨15, 0, .rwo, 0⟩]⟩,
    ⟨0x054, 1, 0, 1, 0, [⟨31, 7, .rwo, 0⟩]⟩,
    ⟨0x058, 1, 0, 1, 0, [⟨15, 0, .rwo, 0⟩]⟩,
    ⟨0x05C, 1, 0, 1, 0, [⟨23, 0, .rwo, 0⟩]⟩,
    ⟨0x060, 1, 0, 1, 0, [⟨31, 30, .rwo, 0⟩, ⟨29, 29, .rwo, 0⟩, ⟨28, 28, .rwo, 0⟩, ⟨27, 27, .rwo, 0⟩, ⟨24, 22, .rwo, 0⟩, ⟨21, 16, .rwo, 0⟩]⟩,
    ⟨0x064, 1, 0, 1, 0, [⟨31, 31, .ro, 0⟩, ⟨30, 30, .rw1c, 0⟩, ⟨23, 0, .ro, 0⟩]⟩,
    ⟨0x068, 1, 0, 1, 0, [⟨31, 0, .ro, 0⟩]⟩,
    ⟨0x06C, 1, 0, 1, 0, [⟨31, 0, .ro, 0⟩]⟩ ] ++
  [ ⟨0x070, 1, 0, 1, 0, [⟨31, 0, .ro, 0⟩]⟩,
    ⟨0x074, 1, 0, 1, 0, [⟨31, 0, .rc, 0⟩]⟩,
    ⟨0x078, 1, 0, 1, 0, [⟨31, 0, .rc, 0⟩]⟩,
    ⟨0x07C, 1, 0, 1, 0, [⟨31, 7, .ro, 0⟩]⟩,
    ⟨0x080, 1, 0, 1, 0, [⟨15, 0, .ro, 0⟩]⟩ ]

/-- The rows of the LINK page. -/
def rowsLink : List RegRow :=
  [ ⟨0x040, 1, 0, 1, 0, [⟨7, 7, .ro, 0⟩, ⟨2, 0, .ro, 0⟩]⟩,
    ⟨0x044, 1, 0, 1, 0, [⟨31, 16, .rwo, 100⟩, ⟨0, 0, .w1s, 0⟩]⟩,
    ⟨0x048, 1, 0, 1, 0, [⟨31, 28, .ro, 0⟩, ⟨27, 24, .ro, 0⟩, ⟨22, 16, .ro, 0⟩, ⟨15, 15, .ro, 0⟩, ⟨5, 0, .ro, 0⟩]⟩,
    ⟨0x04C, 1, 0, 1, 0, [⟨7, 4, .rwo, 8⟩, ⟨3, 0, .rwo, 8⟩]⟩,
    ⟨0x050, 1, 0, 1, 0, [⟨31, 0, .rwo, 100000⟩]⟩,
    ⟨0x054, 1, 0, 1, 0, [⟨31, 24, .ro, 0⟩, ⟨21, 16, .ro, 0⟩, ⟨13, 8, .ro, 0⟩, ⟨3, 0, .ro, 0⟩]⟩,
    ⟨0x058, 1, 0, 1, 0, [⟨31, 0, .rc, 0⟩]⟩,
    ⟨0x060, 1, 0, 1, 0, [⟨31, 0, .ro, 0⟩]⟩,
    ⟨0x064, 1, 0, 1, 0, [⟨31, 0, .ro, 0⟩]⟩,
    ⟨0x068, 1, 0, 1, 0, [⟨31, 0, .ro, 0⟩]⟩,
    ⟨0x06C, 1, 0, 1, 0, [⟨31, 0, .ro, 0⟩]⟩,
    ⟨0x070, 1, 0, 1, 0, [⟨31, 31, .w1s, 0⟩, ⟨30, 30, .rw1c, 0⟩, ⟨15, 0, .rwo, 0⟩]⟩ ] ++
  [ ⟨0x100, 64, 4, 1, 0, [⟨31, 31, .rwo, 0⟩, ⟨30, 30, .rwo, 0⟩, ⟨2, 0, .rwo, 0⟩]⟩,
    ⟨0x400, 4, 256, 1, 0, [⟨27, 24, .rwo, 4⟩, ⟨21, 20, .rwo, 0⟩, ⟨17, 16, .rwo, 0⟩, ⟨13, 12, .rwo, 0⟩, ⟨8, 8, .w1s, 0⟩, ⟨0, 0, .rwo, 0⟩]⟩,
    ⟨0x404, 4, 256, 1, 0, [⟨31, 28, .ro, 0⟩, ⟨27, 26, .ro, 0⟩, ⟨25, 25, .ro, 0⟩, ⟨21, 16, .ro, 0⟩, ⟨15, 8, .ro, 0⟩, ⟨7, 0, .ro, 0⟩]⟩,
    ⟨0x408, 4, 256, 1, 0, [⟨31, 0, .ro, 0⟩]⟩,
    ⟨0x40C, 4, 256, 1, 0, [⟨15, 0, .ro, 0⟩]⟩,
    ⟨0x410, 4, 256, 1, 0, [⟨31, 0, .rc, 0⟩]⟩,
    ⟨0x414, 4, 256, 1, 0, [⟨31, 0, .rc, 0⟩]⟩,
    ⟨0x418, 4, 256, 1, 0, [⟨31, 0, .rc, 0⟩]⟩,
    ⟨0x41C, 4, 256, 1, 0, [⟨31, 24, .ro, 0⟩, ⟨23, 23, .ro, 0⟩, ⟨22, 20, .ro, 0⟩, ⟨19, 18, .ro, 0⟩, ⟨15, 0, .ro, 0⟩]⟩,
    ⟨0x420, 4, 256, 1, 0, [⟨31, 0, .ro, 0⟩]⟩,
    ⟨0x424, 4, 256, 1, 0, [⟨31, 0, .ro, 0⟩]⟩,
    ⟨0x428, 4, 256, 1, 0, [⟨31, 0, .rc, 0⟩]⟩ ] ++
  [ ⟨0x430, 4, 256, 1, 0, [⟨15, 0, .rwo, 4096⟩]⟩,
    ⟨0x440, 8, 4, 4, 256, [⟨31, 0, .rc, 0⟩]⟩ ]

/-- The rows of the WINDOW_CTL page. -/
def rowsWindowCtl : List RegRow :=
  [ ⟨0x040, 1, 0, 1, 0, [⟨16, 8, .ro, 256⟩, ⟨6, 0, .ro, 64⟩]⟩,
    ⟨0x044, 1, 0, 1, 0, [⟨1, 1, .rwo, 0⟩, ⟨0, 0, .rwo, 0⟩]⟩,
    ⟨0x048, 1, 0, 1, 0, [⟨31, 31, .rw1c, 0⟩, ⟨27, 24, .ro, 0⟩, ⟨8, 8, .ro, 0⟩, ⟨7, 0, .ro, 0⟩]⟩,
    ⟨0x04C, 1, 0, 1, 0, [⟨31, 0, .rwo, 50000⟩]⟩,
    ⟨0x050, 2, 4, 1, 0, [⟨31, 0, .rwo, 0⟩]⟩,
    ⟨0x058, 1, 0, 1, 0, [⟨7, 0, .rwo, 0⟩]⟩,
    ⟨0x05C, 1, 0, 1, 0, [⟨13, 8, .rwo, 0⟩, ⟨7, 0, .rwo, 0⟩]⟩,
    ⟨0x060, 1, 0, 1, 0, [⟨31, 0, .ro, 0⟩]⟩,
    ⟨0x064, 1, 0, 1, 0, [⟨31, 31, .w1s, 0⟩, ⟨30, 30, .w1s, 0⟩, ⟨13, 8, .rwo, 0⟩, ⟨7, 0, .rwo, 0⟩]⟩,
    ⟨0x068, 1, 0, 1, 0, [⟨31, 0, .ro, 0⟩]⟩,
    ⟨0x06C, 1, 0, 1, 0, [⟨6, 0, .ro, 0⟩]⟩,
    ⟨0x070, 1, 0, 1, 0, [⟨31, 0, .rc, 0⟩]⟩ ] ++
  [ ⟨0x074, 1, 0, 1, 0, [⟨31, 0, .rc, 0⟩]⟩,
    ⟨0x078, 1, 0, 1, 0, [⟨31, 0, .rc, 0⟩]⟩,
    ⟨0x080, 32, 4, 1, 0, [⟨31, 0, .rwo, 0⟩]⟩,
    ⟨0x100, 64, 4, 1, 0, [⟨31, 31, .rwo, 0⟩, ⟨7, 0, .rwo, 0⟩]⟩ ]

/-- The rows of the WINDOW_TAB page. -/
def rowsWindowTab : List RegRow :=
  [ ⟨0x100, 128, 16, 1, 0, [⟨31, 30, .ro, 0⟩, ⟨29, 29, .w1s, 0⟩, ⟨28, 28, .w1s, 0⟩, ⟨27, 27, .rwo, 0⟩, ⟨26, 26, .rwo, 0⟩, ⟨25, 20, .rwo, 0⟩, ⟨16, 8, .rwo, 0⟩, ⟨7, 0, .rwo, 0⟩]⟩,
    ⟨0x104, 128, 16, 1, 0, [⟨28, 9, .rwo, 0⟩, ⟨3, 0, .rwo, 0⟩]⟩,
    ⟨0x108, 128, 16, 1, 0, [⟨31, 29, .rwo, 0⟩, ⟨28, 23, .rwo, 0⟩, ⟨19, 0, .rwo, 0⟩]⟩,
    ⟨0x10C, 128, 16, 1, 0, [⟨31, 0, .rc, 0⟩]⟩ ]

/-- The rows of the WINDOW_CCH page. -/
def rowsWindowCch : List RegRow :=
  [ ⟨0x100, 64, 16, 1, 0, [⟨31, 31, .rwo, 0⟩, ⟨29, 24, .rwo, 0⟩, ⟨23, 18, .rwo, 0⟩, ⟨15, 8, .rwo, 0⟩, ⟨5, 0, .rwo, 0⟩]⟩,
    ⟨0x104, 64, 16, 1, 0, [⟨29, 16, .rwo, 0⟩, ⟨7, 0, .rwo, 1⟩]⟩,
    ⟨0x108, 64, 16, 1, 0, [⟨31, 30, .ro, 0⟩, ⟨29, 16, .ro, 0⟩, ⟨13, 0, .ro, 0⟩]⟩,
    ⟨0x10C, 64, 16, 1, 0, [⟨31, 0, .ro, 0⟩]⟩ ]

/-- The rows of the INTEG page. -/
def rowsInteg : List RegRow :=
  [ ⟨0x040, 1, 0, 1, 0, [⟨9, 9, .rwo, 1⟩, ⟨8, 8, .rwo, 0⟩, ⟨5, 0, .rwo, 63⟩]⟩,
    ⟨0x044, 1, 0, 1, 0, [⟨31, 16, .rwo, 60⟩, ⟨15, 0, .rwo, 1024⟩]⟩,
    ⟨0x048, 1, 0, 1, 0, [⟨31, 28, .rwo, 0⟩, ⟨6, 4, .rwo, 0⟩, ⟨3, 0, .rwo, 0⟩]⟩,
    ⟨0x04C, 1, 0, 1, 0, [⟨31, 31, .ro, 0⟩, ⟨27, 24, .ro, 0⟩, ⟨10, 0, .ro, 0⟩]⟩,
    ⟨0x050, 1, 0, 1, 0, [⟨31, 28, .ro, 0⟩, ⟨27, 24, .ro, 0⟩, ⟨10, 8, .ro, 0⟩, ⟨4, 0, .ro, 0⟩]⟩,
    ⟨0x054, 1, 0, 1, 0, [⟨31, 0, .ro, 0⟩]⟩,
    ⟨0x058, 1, 0, 1, 0, [⟨31, 0, .ro, 0⟩]⟩,
    ⟨0x05C, 1, 0, 1, 0, [⟨31, 0, .ro, 0⟩]⟩,
    ⟨0x060, 1, 0, 1, 0, [⟨31, 0, .ro, 0⟩]⟩,
    ⟨0x064, 1, 0, 1, 0, [⟨31, 0, .ro, 0⟩]⟩,
    ⟨0x068, 1, 0, 1, 0, [⟨31, 0, .ro, 0⟩]⟩,
    ⟨0x06C, 1, 0, 1, 0, [⟨31, 0, .ro, 0⟩]⟩ ] ++
  [ ⟨0x070, 1, 0, 1, 0, [⟨31, 0, .ro, 0⟩]⟩,
    ⟨0x074, 1, 0, 1, 0, [⟨31, 0, .ro, 0⟩]⟩,
    ⟨0x080, 1, 0, 1, 0, [⟨31, 24, .rc, 0⟩, ⟨6, 0, .ro, 0⟩]⟩,
    ⟨0x084, 1, 0, 1, 0, [⟨31, 31, .rc, 0⟩, ⟨30, 28, .rc, 0⟩, ⟨27, 27, .rc, 0⟩, ⟨21, 16, .rc, 0⟩, ⟨15, 0, .rc, 0⟩]⟩,
    ⟨0x088, 1, 0, 1, 0, [⟨29, 0, .ro, 0⟩]⟩,
    ⟨0x08C, 1, 0, 1, 0, [⟨31, 25, .ro, 0⟩]⟩,
    ⟨0x090, 1, 0, 1, 0, [⟨31, 0, .ro, 0⟩]⟩,
    ⟨0x0A0, 1, 0, 1, 0, [⟨31, 31, .w1s, 0⟩, ⟨30, 30, .w1s, 0⟩, ⟨29, 29, .rwo, 0⟩, ⟨21, 16, .rwo, 0⟩, ⟨3, 0, .rwo, 0⟩]⟩,
    ⟨0x0A4, 1, 0, 1, 0, [⟨24, 16, .rwo, 0⟩, ⟨7, 0, .rwo, 0⟩]⟩,
    ⟨0x0A8, 1, 0, 1, 0, [⟨20, 0, .rwo, 0⟩]⟩,
    ⟨0x0AC, 1, 0, 1, 0, [⟨20, 0, .rwo, 0⟩]⟩,
    ⟨0x0B0, 1, 0, 1, 0, [⟨31, 31, .ro, 0⟩, ⟨27, 24, .ro, 0⟩]⟩ ] ++
  [ ⟨0x0C0, 8, 4, 1, 0, [⟨31, 0, .ro, 0⟩]⟩,
    ⟨0x0E0, 1, 0, 1, 0, [⟨31, 31, .w1s, 0⟩, ⟨30, 30, .rw1c, 0⟩, ⟨10, 8, .rwo, 0⟩, ⟨7, 4, .rwo, 0⟩, ⟨3, 0, .rwo, 0⟩]⟩,
    ⟨0x0E4, 1, 0, 1, 0, [⟨29, 0, .ro, 0⟩]⟩,
    ⟨0x100, 9, 4, 1, 0, [⟨31, 0, .rwo, 0⟩]⟩,
    ⟨0x200, 64, 4, 1, 0, [⟨31, 31, .rw1c, 0⟩, ⟨30, 30, .ro, 0⟩, ⟨23, 16, .ro, 0⟩, ⟨15, 0, .ro, 0⟩]⟩ ]

/-- The rows of the POWER page. -/
def rowsPower : List RegRow :=
  [ ⟨0x040, 1, 0, 1, 0, [⟨13, 8, .ro, 0⟩, ⟨7, 0, .ro, 195⟩]⟩,
    ⟨0x044, 1, 0, 1, 0, [⟨31, 31, .w1s, 0⟩, ⟨30, 30, .rwo, 0⟩, ⟨7, 0, .rwo, 0⟩]⟩,
    ⟨0x048, 1, 0, 1, 0, [⟨31, 31, .rw1c, 0⟩, ⟨30, 28, .ro, 0⟩, ⟨7, 0, .ro, 0⟩]⟩,
    ⟨0x060, 7, 4, 1, 0, [⟨31, 0, .ro, 0⟩]⟩,
    ⟨0x080, 7, 4, 1, 0, [⟨31, 0, .ro, 0⟩]⟩,
    ⟨0x0A0, 1, 0, 1, 0, [⟨31, 16, .ro, 0⟩, ⟨15, 0, .ro, 0⟩]⟩,
    ⟨0x0A4, 1, 0, 1, 0, [⟨31, 16, .rc, 0⟩, ⟨15, 0, .rc, 65535⟩]⟩,
    ⟨0x0A8, 1, 0, 1, 0, [⟨31, 16, .ro, 0⟩, ⟨15, 0, .ro, 0⟩]⟩,
    ⟨0x0AC, 1, 0, 1, 0, [⟨31, 16, .ro, 4096⟩, ⟨15, 0, .ro, 4096⟩]⟩,
    ⟨0x0B0, 1, 0, 1, 0, [⟨27, 16, .rwo, 760⟩, ⟨11, 0, .rwo, 840⟩]⟩,
    ⟨0x0B4, 1, 0, 1, 0, [⟨20, 16, .ro, 0⟩, ⟨11, 0, .ro, 0⟩]⟩,
    ⟨0x0B8, 1, 0, 1, 0, [⟨0, 0, .rwo, 0⟩]⟩ ] ++
  [ ⟨0x0BC, 1, 0, 1, 0, [⟨31, 31, .ro, 0⟩, ⟨30, 30, .ro, 0⟩, ⟨29, 29, .ro, 0⟩, ⟨28, 28, .ro, 0⟩, ⟨27, 27, .ro, 0⟩]⟩,
    ⟨0x0C0, 1, 0, 1, 0, [⟨31, 0, .rc, 0⟩]⟩,
    ⟨0x0D0, 1, 0, 1, 0, [⟨19, 0, .rwo, 0⟩]⟩,
    ⟨0x0D4, 1, 0, 1, 0, [⟨19, 0, .rwo, 0⟩]⟩,
    ⟨0x0D8, 1, 0, 1, 0, [⟨19, 0, .rwo, 0⟩]⟩,
    ⟨0x0DC, 1, 0, 1, 0, [⟨19, 0, .rwo, 0⟩]⟩,
    ⟨0x0E0, 1, 0, 1, 0, [⟨31, 0, .rw, 0⟩]⟩,
    ⟨0x0E4, 1, 0, 1, 0, [⟨31, 0, .rw, 0⟩]⟩,
    ⟨0x0E8, 1, 0, 1, 0, [⟨31, 31, .ro, 0⟩, ⟨15, 0, .ro, 0⟩]⟩,
    ⟨0x0F0, 1, 0, 1, 0, [⟨31, 0, .ro, 0⟩]⟩,
    ⟨0x0F4, 1, 0, 1, 0, [⟨31, 0, .ro, 0⟩]⟩,
    ⟨0x0F8, 1, 0, 1, 0, [⟨31, 0, .ro, 0⟩]⟩ ] ++
  [ ⟨0x0FC, 1, 0, 1, 0, [⟨31, 0, .ro, 0⟩]⟩,
    ⟨0x100, 1, 0, 1, 0, [⟨31, 0, .ro, 0⟩]⟩,
    ⟨0x104, 1, 0, 1, 0, [⟨31, 0, .ro, 0⟩]⟩,
    ⟨0x108, 1, 0, 1, 0, [⟨31, 0, .ro, 0⟩]⟩,
    ⟨0x10C, 1, 0, 1, 0, [⟨31, 0, .ro, 0⟩]⟩,
    ⟨0x110, 1, 0, 1, 0, [⟨31, 0, .ro, 0⟩]⟩,
    ⟨0x114, 1, 0, 1, 0, [⟨31, 0, .ro, 0⟩]⟩,
    ⟨0x118, 1, 0, 1, 0, [⟨31, 0, .ro, 0⟩]⟩,
    ⟨0x11C, 1, 0, 1, 0, [⟨31, 0, .rc, 0⟩]⟩,
    ⟨0x130, 1, 0, 1, 0, [⟨11, 0, .rwo, 0⟩]⟩,
    ⟨0x134, 1, 0, 1, 0, [⟨31, 0, .ro, 0⟩]⟩,
    ⟨0x138, 1, 0, 1, 0, [⟨15, 0, .rwo, 100⟩]⟩ ] ++
  [ ⟨0x140, 16, 4, 1, 0, [⟨15, 0, .ro, 0⟩]⟩,
    ⟨0x200, 32, 4, 1, 0, [⟨31, 31, .ro, 0⟩, ⟨30, 30, .ro, 0⟩, ⟨27, 16, .ro, 0⟩, ⟨15, 0, .ro, 0⟩]⟩ ]

/-- The rows of the MAILBOX_CTL page. -/
def rowsMailboxCtl : List RegRow :=
  [ ⟨0x040, 1, 0, 1, 0, [⟨31, 16, .ro, 0⟩, ⟨15, 0, .ro, 0⟩]⟩,
    ⟨0x044, 1, 0, 1, 0, [⟨31, 0, .ro, 0⟩]⟩,
    ⟨0x048, 1, 0, 1, 0, [⟨31, 0, .ro, 0⟩]⟩,
    ⟨0x04C, 1, 0, 1, 0, [⟨31, 31, .rwo, 0⟩, ⟨25, 17, .rwo, 0⟩, ⟨16, 9, .rwo, 0⟩, ⟨5, 0, .rwo, 0⟩]⟩,
    ⟨0x050, 1, 0, 1, 0, [⟨31, 0, .rwo, 0⟩]⟩,
    ⟨0x054, 1, 0, 1, 0, [⟨15, 0, .rwo, 0⟩]⟩,
    ⟨0x05C, 1, 0, 1, 0, [⟨31, 28, .rwo, 0⟩]⟩,
    ⟨0x060, 1, 0, 1, 0, [⟨31, 31, .ro, 0⟩, ⟨30, 30, .ro, 0⟩, ⟨29, 29, .ro, 0⟩, ⟨28, 28, .ro, 0⟩, ⟨27, 24, .ro, 0⟩, ⟨15, 8, .ro, 0⟩, ⟨7, 0, .ro, 0⟩]⟩,
    ⟨0x064, 1, 0, 1, 0, [⟨1, 0, .rwo, 0⟩]⟩,
    ⟨0x068, 2, 4, 1, 0, [⟨31, 28, .ro, 0⟩, ⟨27, 24, .ro, 0⟩, ⟨15, 0, .ro, 0⟩]⟩,
    ⟨0x070, 2, 4, 1, 0, [⟨31, 0, .wo, 0⟩]⟩,
    ⟨0x078, 1, 0, 1, 0, [⟨31, 0, .rwo, 0⟩]⟩ ] ++
  [ ⟨0x07C, 1, 0, 1, 0, [⟨31, 0, .ro, 0⟩]⟩,
    ⟨0x084, 1, 0, 1, 0, [⟨31, 31, .rw1c, 0⟩, ⟨26, 24, .ro, 0⟩, ⟨20, 0, .ro, 0⟩]⟩,
    ⟨0x088, 1, 0, 1, 0, [⟨31, 0, .rc, 0⟩]⟩,
    ⟨0x0A0, 5, 8, 1, 0, [⟨31, 0, .rwo, 0⟩]⟩,
    ⟨0x0A4, 5, 8, 1, 0, [⟨31, 0, .rwo, 0⟩]⟩ ]

/-- The rows of the MBOX page. -/
def rowsMbox : List RegRow :=
  [ ⟨0x040, 1, 0, 1, 0, [⟨7, 0, .rw, 0⟩]⟩,
    ⟨0x044, 1, 0, 1, 0, [⟨7, 0, .rw, 0⟩]⟩,
    ⟨0x048, 1, 0, 1, 0, [⟨31, 16, .ro, 0⟩, ⟨15, 8, .ro, 0⟩, ⟨7, 0, .ro, 0⟩]⟩,
    ⟨0x04C, 1, 0, 1, 0, [⟨31, 0, .rc, 0⟩]⟩,
    ⟨0x800, 256, 4, 1, 0, [⟨31, 0, .rw, 0⟩]⟩,
    ⟨0xC00, 256, 4, 1, 0, [⟨31, 0, .ro, 0⟩]⟩ ]

/-- The rows of the RECORDER page. -/
def rowsRecorder : List RegRow :=
  [ ⟨0x040, 1, 0, 1, 0, [⟨31, 31, .ro, 0⟩, ⟨23, 20, .ro, 8⟩, ⟨19, 14, .ro, 32⟩, ⟨11, 0, .ro, 2047⟩]⟩,
    ⟨0x044, 1, 0, 1, 0, [⟨2, 2, .w1s, 0⟩, ⟨1, 1, .rwo, 0⟩, ⟨0, 0, .rwo, 0⟩]⟩,
    ⟨0x048, 1, 0, 1, 0, [⟨31, 29, .ro, 0⟩, ⟨28, 28, .ro, 0⟩, ⟨20, 16, .ro, 0⟩, ⟨11, 0, .ro, 0⟩]⟩,
    ⟨0x04C, 1, 0, 1, 0, [⟨31, 0, .rc, 0⟩]⟩,
    ⟨0x050, 1, 0, 1, 0, [⟨31, 0, .ro, 1⟩]⟩,
    ⟨0x054, 1, 0, 1, 0, [⟨10, 4, .rwo, 0⟩]⟩,
    ⟨0x058, 1, 0, 1, 0, [⟨31, 16, .wo, 0⟩, ⟨4, 0, .wo, 0⟩]⟩,
    ⟨0x060, 1, 0, 1, 0, [⟨31, 29, .ro, 0⟩, ⟨28, 28, .ro, 0⟩, ⟨27, 16, .ro, 0⟩, ⟨15, 8, .ro, 0⟩, ⟨7, 0, .ro, 0⟩]⟩,
    ⟨0x064, 1, 0, 1, 0, [⟨31, 0, .ro, 0⟩]⟩,
    ⟨0x068, 1, 0, 1, 0, [⟨31, 0, .ro, 0⟩]⟩,
    ⟨0x06C, 1, 0, 1, 0, [⟨31, 0, .ro, 0⟩]⟩,
    ⟨0x070, 1, 0, 1, 0, [⟨31, 0, .ro, 0⟩]⟩ ] ++
  [ ⟨0x100, 32, 16, 1, 0, [⟨31, 31, .rwo, 0⟩, ⟨30, 30, .rwo, 0⟩, ⟨29, 29, .rwo, 0⟩, ⟨28, 26, .rwo, 0⟩, ⟨25, 23, .rwo, 0⟩, ⟨16, 16, .rwo, 0⟩, ⟨15, 0, .rwo, 0⟩]⟩,
    ⟨0x104, 32, 16, 1, 0, [⟨31, 0, .rwo, 0⟩]⟩,
    ⟨0x108, 32, 16, 1, 0, [⟨31, 0, .rwo, 0⟩]⟩,
    ⟨0x10C, 32, 16, 1, 0, [⟨31, 0, .ro, 0⟩]⟩,
    ⟨0x300, 24, 4, 8, 96, [⟨31, 31, .rwo, 0⟩, ⟨20, 2, .rwo, 0⟩]⟩,
    ⟨0x800, 512, 4, 1, 0, [⟨31, 0, .ro, 0⟩]⟩ ]

/-- The rows of the TEST page. -/
def rowsTest : List RegRow :=
  [ ⟨0x040, 1, 0, 1, 0, [⟨31, 29, .ro, 0⟩, ⟨28, 28, .ro, 0⟩]⟩,
    ⟨0x044, 1, 0, 1, 0, [⟨31, 28, .wo, 0⟩, ⟨15, 0, .wo, 0⟩]⟩,
    ⟨0x048, 1, 0, 1, 0, [⟨31, 31, .ro, 0⟩, ⟨30, 30, .ro, 0⟩, ⟨29, 29, .ro, 0⟩, ⟨28, 28, .ro, 0⟩, ⟨27, 27, .ro, 0⟩, ⟨26, 26, .ro, 0⟩, ⟨25, 24, .ro, 0⟩, ⟨23, 20, .ro, 0⟩, ⟨19, 12, .ro, 0⟩, ⟨7, 0, .ro, 0⟩]⟩,
    ⟨0x050, 1, 0, 1, 0, [⟨31, 28, .wo, 0⟩, ⟨13, 12, .wo, 0⟩, ⟨11, 10, .wo, 0⟩, ⟨9, 9, .wo, 0⟩, ⟨6, 4, .wo, 0⟩, ⟨3, 0, .wo, 0⟩]⟩,
    ⟨0x054, 1, 0, 1, 0, [⟨5, 0, .rwo, 63⟩]⟩,
    ⟨0x058, 1, 0, 1, 0, [⟨31, 31, .ro, 0⟩, ⟨30, 28, .ro, 0⟩, ⟨27, 24, .ro, 0⟩, ⟨23, 20, .ro, 0⟩]⟩,
    ⟨0x05C, 1, 0, 1, 0, [⟨31, 28, .ro, 0⟩, ⟨27, 24, .ro, 0⟩, ⟨13, 0, .ro, 0⟩]⟩,
    ⟨0x060, 1, 0, 1, 0, [⟨31, 0, .ro, 0⟩]⟩,
    ⟨0x064, 1, 0, 1, 0, [⟨31, 0, .ro, 0⟩]⟩,
    ⟨0x068, 1, 0, 1, 0, [⟨31, 0, .rc, 0⟩]⟩,
    ⟨0x070, 1, 0, 1, 0, [⟨31, 0, .ro, 0⟩]⟩,
    ⟨0x074, 1, 0, 1, 0, [⟨31, 0, .ro, 0⟩]⟩ ] ++
  [ ⟨0x078, 1, 0, 1, 0, [⟨31, 31, .w1s, 0⟩, ⟨30, 30, .rw1c, 0⟩]⟩,
    ⟨0x200, 40, 4, 1, 0, [⟨31, 0, .wo, 0⟩]⟩ ]

/-- The rows of the LAYER page. -/
def rowsLayer : List RegRow :=
  [ ⟨0x040, 1, 0, 1, 0, [⟨17, 16, .ro, 0⟩, ⟨15, 0, .ro, 0⟩]⟩,
    ⟨0x044, 1, 0, 1, 0, [⟨20, 16, .ro, 16⟩, ⟨15, 0, .ro, 65535⟩]⟩,
    ⟨0x048, 1, 0, 1, 0, [⟨7, 4, .ro, 0⟩, ⟨2, 0, .ro, 0⟩]⟩,
    ⟨0x050, 4, 4, 1, 0, [⟨28, 24, .ro, 0⟩, ⟨20, 16, .ro, 0⟩, ⟨12, 8, .ro, 0⟩, ⟨4, 0, .ro, 0⟩]⟩,
    ⟨0x060, 1, 0, 1, 0, [⟨10, 0, .ro, 0⟩]⟩,
    ⟨0x064, 1, 0, 1, 0, [⟨31, 0, .ro, 0⟩]⟩,
    ⟨0x068, 1, 0, 1, 0, [⟨31, 30, .ro, 0⟩, ⟨29, 26, .ro, 0⟩, ⟨11, 0, .ro, 0⟩]⟩,
    ⟨0x06C, 1, 0, 1, 0, [⟨31, 16, .ro, 0⟩, ⟨15, 0, .ro, 0⟩]⟩,
    ⟨0x070, 1, 0, 1, 0, [⟨31, 0, .ro, 0⟩]⟩ ]

/-- The rows of the RIM page. -/
def rowsRim : List RegRow :=
  [ ⟨0x040, 1, 0, 1, 0, [⟨15, 13, .ro, 0⟩, ⟨12, 8, .ro, 0⟩, ⟨7, 4, .ro, 0⟩, ⟨3, 2, .ro, 0⟩, ⟨1, 1, .ro, 0⟩, ⟨0, 0, .ro, 0⟩]⟩,
    ⟨0x044, 1, 0, 1, 0, [⟨31, 0, .ro, 0⟩]⟩,
    ⟨0x048, 1, 0, 1, 0, [⟨31, 0, .ro, 0⟩]⟩,
    ⟨0x04C, 1, 0, 1, 0, [⟨31, 0, .ro, 0⟩]⟩,
    ⟨0x050, 1, 0, 1, 0, [⟨31, 0, .ro, 0⟩]⟩,
    ⟨0x054, 1, 0, 1, 0, [⟨7, 4, .ro, 0⟩, ⟨1, 0, .ro, 0⟩]⟩,
    ⟨0x058, 1, 0, 1, 0, [⟨15, 8, .rwo, 0⟩, ⟨1, 0, .rwo, 0⟩]⟩,
    ⟨0x05C, 1, 0, 1, 0, [⟨31, 31, .rw1c, 0⟩, ⟨30, 30, .rw1c, 0⟩, ⟨18, 16, .ro, 0⟩, ⟨15, 0, .ro, 0⟩]⟩ ]

/-- The register rows of a page type, the common header left out. -/
def pageRows : Page → List RegRow
  | .any => rowsAny
  | .ident => rowsIdent
  | .caps => rowsCaps
  | .sema => rowsSema
  | .port => rowsPort
  | .hub => rowsHub
  | .regul => rowsRegul
  | .handleCmd => rowsHandleCmd
  | .handleState => rowsHandleState
  | .handleRead => rowsHandleRead
  | .handleGuard => rowsHandleGuard
  | .syncCtr => rowsSyncCtr
  | .syncRing => rowsSyncRing
  | .syncTag => rowsSyncTag
  | .syncBar => rowsSyncBar
  | .mover => rowsMover
  | .rimalu => rowsRimalu
  | .cache => rowsCache
  | .link => rowsLink
  | .windowCtl => rowsWindowCtl
  | .windowTab => rowsWindowTab
  | .windowCch => rowsWindowCch
  | .integ => rowsInteg
  | .power => rowsPower
  | .mailboxCtl => rowsMailboxCtl
  | .mbox => rowsMbox
  | .recorder => rowsRecorder
  | .test => rowsTest
  | .layer => rowsLayer
  | .rim => rowsRim

end Sys2Proof.Machine
end

