-- ==== Sys2Proof/Machine/Sparse.lean ====
section
/-! DEFINITION. Sparse maps and sets over natural keys, kept with strictly rising keys, and the byte memory over them:
a list of (address, byte) pairs (`Host.Cell`) in which no entry equals the byte 0 that an unlisted address reads as. -/
namespace Sys2Proof.Machine

/-- A sparse map: keys strictly rising (`Sp.rising`). -/
abbrev Sp (α : Type) := List (Nat × α)

/-- The value at a key, `d` where the key is not listed. -/
def Sp.get {α : Type} (d : α) : Sp α → Nat → α
  | [], _ => d
  | (k, v) :: m, a => if a = k then v else if a < k then d else Sp.get d m a

/-- The map with the value at a key replaced. -/
def Sp.set {α : Type} : Sp α → Nat → α → Sp α
  | [], a, x => [(a, x)]
  | (k, v) :: m, a, x =>
    if a = k then (a, x) :: m else if a < k then (a, x) :: (k, v) :: m else (k, v) :: Sp.set m a x

/-- The map without a key. -/
def Sp.del {α : Type} : Sp α → Nat → Sp α
  | [], _ => []
  | (k, v) :: m, a => if a = k then m else if a < k then (k, v) :: m else (k, v) :: Sp.del m a

/-- Every key of the list is above a bound. -/
def Sp.above {α : Type} (b : Nat) (m : Sp α) : Bool := m.all fun c => decide (b < c.1)

/-- Keys strictly rising. -/
def Sp.rising {α : Type} : Sp α → Bool
  | [] => true
  | (k, _) :: m => Sp.above k m && Sp.rising m

/-! ### Byte memory -/

/-- The byte at an address. An unlisted address reads 0 (DESIGN CHOICE, log entry 3). -/
def Mem.read (m : List Host.Cell) (a : Nat) : BitVec 8 := Sp.get 0 m a

/-- The memory with the byte at an address replaced; the byte 0 is not listed. -/
def Mem.write (m : List Host.Cell) (a : Nat) (v : BitVec 8) : List Host.Cell :=
  if v = 0 then Sp.del m a else Sp.set m a v

/-- The canonical form: addresses strictly rising, no listed byte 0. -/
def Mem.wf (m : List Host.Cell) : Bool := Sp.rising m && m.all fun c => c.2 != 0

/-- A list of cells brought into canonical form: the last byte listed for an address counts. -/
def Mem.norm (l : List Host.Cell) : List Host.Cell := l.foldl (fun m c => Mem.write m c.1 c.2) []

/-- The `n` bytes from an address up, as a little-endian number. -/
def Mem.readN (m : List Host.Cell) (a : Nat) : Nat → Nat
  | 0 => 0
  | n + 1 => (Mem.read m a).toNat + 256 * Mem.readN m (a + 1) n

/-- The memory with the `n` bytes from an address up replaced by a little-endian number. -/
def Mem.writeN (m : List Host.Cell) (a x : Nat) : Nat → List Host.Cell
  | 0 => m
  | n + 1 => Mem.writeN (Mem.write m a (BitVec.ofNat 8 x)) (a + 1) (x / 256) n

/-! ### Sets of numbers, strictly rising -/

/-- The set with a number in it. -/
def NSet.insert : List Nat → Nat → List Nat
  | [], a => [a]
  | k :: m, a => if a = k then k :: m else if a < k then a :: k :: m else k :: NSet.insert m a

/-- The set without a number. -/
def NSet.erase (m : List Nat) (a : Nat) : List Nat := m.filter (· != a)

/-- The set with a number put in or taken out. -/
def NSet.put (m : List Nat) (a : Nat) (on : Bool) : List Nat := if on then NSet.insert m a else NSet.erase m a

/-- The set without the numbers from `lo` up to, not including, `hi`. -/
def NSet.eraseRange (m : List Nat) (lo hi : Nat) : List Nat := m.filter fun a => decide (a < lo ∨ hi ≤ a)

/-- Numbers strictly rising. -/
def NSet.wf : List Nat → Bool
  | [] => true
  | k :: m => m.all (fun a => decide (k < a)) && NSet.wf m

end Sys2Proof.Machine
end

