-- ==== Sys2Proof/Machine/State.lean ====
section
/-! DEFINITION. The state of the block: plain data, one structure for each unit of the spec. Every register of the
control space has one home, the sparse store `State.regs` (register offset to word; an unlisted register holds its reset
value, `resetWord` of Machine/Ops.lean). What the spec gives a unit beside its registers is in the structures below. -/
namespace Sys2Proof

/-- A packet of the Amiys link (spec/13_amiys_link.md R389, R390). Words H2 to H6 hold the fields of its type; `data` holds its data
flits as a little-endian number. -/
structure Packet where
  ptype : Nat   -- 1 BWR, 2 TWR, 3 NTFY, 4 BARR, 5 BREL, 6 BABT, 8 LACK, 9 NAK, 10 CGRANT, 12 TSREQ, 13 TSRSP
  cls   : Nat   -- 0 BULK, 1 TOKEN, 2 RESP, 3 CTRL
  vl    : Nat
  dst   : Nat
  src   : Nat
  ndata : Nat
  lseq  : Nat
  hops  : Nat
  etag  : Nat
  h2    : Nat
  h3    : Nat
  h4    : Nat
  h5    : Nat
  h6    : Nat
  data  : Nat
  pcrc  : Nat
  res   : Nat := 0   -- the reserved bits of H0: [24], then [6:0]
deriving DecidableEq, Repr

end Sys2Proof

namespace Sys2Proof.Machine

/-! ### The array (spec/02_storage_array.md, spec/15_integrity.md) -/

/-- A run of frames in placement order: from `lo` to `hi` in the numbering of `gpOf`, through the linear placement when
`lin` (R74). -/
structure Span where
  lin : Bool
  lo  : Nat
  hi  : Nat
deriving DecidableEq, Repr

/-- A valid-bit clear in progress (R92): its frames; only those whose class changed from `old` to `cls` unless `all`. -/
structure ClearJob where
  span : Span
  all  : Bool
  cls  : Bool
  old  : List (Span × Bool)
deriving DecidableEq, Repr

/-- A pending correction write-back (R445). -/
structure WriteBack where
  layer : Nat
  rim   : Nat          -- logical rim
  frame : Nat          -- PTA frame index
  row   : Nat
  col   : Nat
  data  : Seg
  tid   : Nat
  born  : Nat          -- pc count when it was queued
  id    : Nat          -- rim access that found it; those of one access are performed together
  bornD : Nat          -- pc count of device pace when it was queued
deriving DecidableEq, Repr

/-- An armed flip mask (R458). -/
structure Flip where
  layer : Nat
  rim   : Nat
  bank  : Nat
  mask  : Stored
deriving DecidableEq, Repr

/-- The storage array. -/
structure ArraySt where
  mem    : List Host.Cell := []        -- stored words, byte by byte: word index * 36 + byte
  validA : List Nat := []              -- first copy of every valid bit, by word index (R447)
  validB : List Nat := []              -- second copy
  lost   : List Nat := []              -- lost bits: (17 * layer + physical rim) * 1024 + slot (R449)
  cls    : List (Span × Bool) := []    -- frame class map, latest install first; true is class D (R76)
  clear  : Option ClearJob := none
  wbs    : List WriteBack := []        -- write-back stores, oldest first
  flip   : Option Flip := none
deriving DecidableEq, Repr, Inhabited

/-- Who made an access, and so where its answer goes. -/
inductive Src where
  | portLine (x tag line : Nat)        -- a line or the segment operation of a port request
  | portScale (x tag line : Nat)       -- the scale-entry write of an MX lens write (R122)
  | lensFetch (x id : Nat)             -- a lens scale-row read (R125)
  | engFetch (c id : Nat)              -- a mover engine's scale-row read, for channel c (R282)
  | mover (c unit : Nat)               -- a mover channel's access
  | remote (id unit : Nat)             -- a write that arrived over the link
  | firmware (unit : Nat)              -- a read of a firmware image in TM8 storage (R518)
  | test (x tag line : Nat)            -- an access of a port in loopback at the rim (R169)
  | inplace (unit : Nat)               -- an access that a unit performs where it stands (log entry 46)
  | kstore (q step : Nat)              -- a line that a kernel's ST holds in a write buffer of its rim (R255)
  | copyLine (q step : Nat)            -- a line of a COPY record that crosses from one sector to another (R30, R244)
  | wback (id : Nat)                   -- a correction write-back (R445)
  | copy (layer : Nat)                 -- a line of an evacuation or a test copy (R463, R563)
  | cache (job : Nat)                  -- an access of the cache controller (R369)
deriving DecidableEq, Repr

/-- The second half of a read-modify-write, to be performed in the next pc of its rim (R56). -/
structure RmwHalf where
  seq    : Nat                         -- the access
  frame  : Nat
  writes : List (Nat × Nat × Seg)      -- row, column, merged data; empty for a failing CAS
  banks  : List Nat
  tid    : Nat
  src    : Src                         -- who made the access
deriving DecidableEq, Repr

/-- A physical rim, beside its RIM page registers. -/
structure RimSt where
  half   : Option RmwHalf := none
  norm   : Bool := false               -- a line was passed over for a reservation (R180)
  aluX   : Nat := 0                    -- line register X of the rim ALU, 512 bytes (R246)
  aluXs  : Nat := 0                    -- its 32-byte scale field
  aluY   : Nat := 0
  aluYs  : Nat := 0
  kq     : Option Nat := none          -- the operation queue whose KERNEL operation holds the ALU
  krun   : Bool := false               -- a step runs
  kstep  : Nat := 0                    -- the step
  kpc    : Nat := 0                    -- next instruction of the body
  kseed  : Nat := 0                    -- generator state of the step (R252)
  kbad   : Nat := 0                    -- registers that hold a failed load, or what was made from one
  kfail  : Nat := 0                    -- status of the step so far
  kword  : Option Nat := none          -- its reduce word
  idleFrom : Nat := 0                  -- timestamp of the last access (R479)
  goal   : Option Nat := none          -- rim state that the rim drains or moves toward (R476, R477)
  startedAt : Nat := 0                 -- timestamp at which the drain, or the transition that runs, began
  moving : Bool := false               -- the drain has ended and the transition out of ON runs (R476)
deriving DecidableEq, Repr

/-! ### Accesses in the Hub (spec/06_hub.md) -/

/-- A stored word that a granted write replaced, for the case that the write is lost with a plane (R190, R349). -/
structure Undo where
  seg    : Nat                         -- segment of the access
  idx    : Nat                         -- word index
  old    : Stored
  wasA   : Bool                        -- its valid bits before
  wasB   : Bool
  new    : Stored
deriving DecidableEq, Repr

/-- What an access does at its rim. -/
inductive AccOp where
  | read
  | write
  | acc (fmt : Nat)
  | sacc (fmt gate : Nat)
  | atomic (aop : Nat) (aw : Bool) (off a b : Nat)
  | loop (rd wr : Nat)                 -- takes a rim access, reads and writes no bank (R169); the charge of its operation
deriving DecidableEq, Repr

/-- Where an access waits (R175). -/
inductive Loc where
  | pool | rim | half | out | merge
deriving DecidableEq, Repr

/-- A segment of an access: its place in the frame, its data and the bytes of it that are written. -/
structure SegOp where
  row  : Nat
  col  : Nat
  data : Seg
  mask : BitVec 32
deriving DecidableEq, Repr

/-- An access, from its split to its merge. -/
structure Access where
  seq    : Nat                         -- split sequence number (R178)
  src    : Src
  op     : AccOp
  line   : Bool                        -- a line access: sixteen segments
  layer  : Nat
  frame  : Nat                         -- PTA frame index
  segs   : List SegOp
  tid    : Nat
  step   : Nat                         -- STEP of the TID at the split (R211)
  obs    : Nat                         -- the observer whose common segments order it (R181)
  wide   : Nat                         -- base level: 2 port line, 3 port segment, 4 mover and in-place
  stream : Option Nat                  -- stream port whose urgency it has
  born   : Nat                         -- pc count of the host-die periphery at the split
  bornD  : Nat                         -- pc count of device pace at the split (R214)
  policy : Nat                         -- power policy of its handle; 4 for handle 0 (R72, R73)
  loc    : Loc
  status : Nat
  pmask  : Nat                         -- poisoned segments
  pk     : Nat                         -- kind of access in the poison log (PSN_E0.KIND)
  source : Nat                         -- source code of R100
  mcast  : Nat                         -- receivers named by a multicast read
  nval   : Nat := 0                    -- a read found so many valid, corrected, and invalid segments (R456)
  ncor   : Nat := 0
  ninv   : Nat := 0
  reachD : Nat := 0                    -- pc count of device pace at which its request reached the Hub (R194)
  sent   : Bool := false               -- it, or its command, is on the planes (R190)
  grantLv : Option Nat := none         -- level at which its rim granted it
  urgAt  : Option Nat := none          -- urgency in use at its rim's grant, which it keeps (R161)
  undo   : List Undo := []             -- words that it has written at its rim
  seen   : Bool := false               -- what it wrote has been read or overwritten, or counted as landed (R348, R354)
  fill   : Bool := false               -- a FILL: its line is made at the rim, and none travels (R30, R222)
  pooled : Bool := false               -- it has entered a sector pool (R203)
  racc   : Nat := 0                    -- number of the rim access that it was granted in
deriving DecidableEq, Repr

/-! ### Ports (spec/05_port_protocol.md, spec/04_formats_and_lens.md) -/

/-- A response lane (R150), with its data as a little-endian number. -/
structure Lane where
  wr     : Bool
  tag    : Nat
  line   : Nat
  part   : Nat
  status : Nat
  pmask  : Nat
  mc     : Bool
  origin : Nat
  done   : Bool
  mcd    : Nat
  data   : Option Nat
  since  : Nat                         -- pc count at which it became ready
deriving DecidableEq, Repr

/-- A scale row that a request needs: already held, or being fetched (R125). -/
inductive ScaleRef where
  | row (data : List Seg)
  | fetch (id : Nat)
deriving DecidableEq, Repr

/-- A request that a port has accepted, until its DONE lane has been taken. -/
structure Txn where
  req    : Request                     -- as taken, its data converted to stored bytes
  acc    : Nat                         -- acceptance number, device-wide
  atHub  : Bool                        -- has reached the Hub
  raw    : Nat                         -- stored bytes to write, little-endian
  scales : List (Nat × Seg)            -- scale entries to write: line within the request, entry (R122)
  conv   : Bool                        -- converting request
  fmt    : Nat                         -- stored format of its handle
  policy : Nat
  refs   : List (Nat × ScaleRef)       -- scale rows by handle frame (R125)
  toGo   : List Nat                    -- lines not yet answered
  scaleGo : List Nat                   -- lines whose scale entry has not yet landed
  late   : List (Nat × Nat × Nat)      -- write lines answered by one of their two writes: line, status, pmask
  recv   : List Nat                    -- receivers of a multicast (R154)
  short  : List Nat                    -- receivers that lost or skipped a line
  slotAt : Option Nat                  -- the slot tag it runs under, ring * 16384 + slot
  reachD : Nat := 0                    -- pc count of device pace at which it reached the Hub
  scaleOk : List Nat := []             -- lines whose scale entry has landed
  copied : List Nat := []              -- read lines that have come back, with their copies made (R155)
  unsure : Bool := false               -- a write whose handle was not LIVE with its generation at the REQ transfer (R148)
deriving DecidableEq, Repr

/-- A read line that has come back, waiting for its conversion (R125), or a multicast copy held for a receiver (R185). -/
structure BackLine where
  issuer : Nat                         -- issuing port
  tag    : Nat
  line   : Nat
  hframe : Nat                         -- handle frame of the line
  segs   : List SegOp                  -- segments in line order, data as read
  bytes  : Nat                         -- byte offset within the first segment (segment operations)
  len    : Nat                         -- stored bytes
  status : Nat
  pmask  : Nat
  since  : Nat                         -- pc count of its arrival
  bornD  : Nat                         -- pc count of device pace at its split
deriving DecidableEq, Repr

/-- A scale row fetch: its tag, the line it reads, and its outcome once it has arrived (R125, R126). -/
structure Fetch where
  id     : Nat
  handle : Nat
  gen    : Nat
  frame  : Nat                         -- data frame it serves
  layer  : Nat
  pframe : Nat                         -- PTA frame and row line of the scale row
  row    : Nat
  tid    : Nat
  wide   : Nat                         -- base level, that of the request it serves (R179)
  policy : Nat
  sent   : Bool                        -- released into its sector pool
  result : Option (Nat × List Seg)     -- status, row
  keep   : Bool                        -- still to be installed (an SFLUSH or a handle command drops it)
deriving DecidableEq, Repr

/-- An entry of a scale buffer (R124), most recently used first in its buffer. -/
structure ScaleEntry where
  handle : Nat
  gen    : Nat
  frame  : Nat
  row    : List Seg
deriving DecidableEq, Repr

/-- The request being split (R174): the next line to release. -/
structure Splitting where
  tag  : Nat
  next : Nat
  scaleNext : Bool                     -- the scale entry of the line before is still to be released
deriving DecidableEq, Repr

/-- A message on its way to the host on SW (R308), with the SQ entries that its transfer frees (R309). -/
structure SwMsg where
  kind  : Nat                          -- 1 WAKE, 2 VALUE, 3 RELEASE, 4 ERROR, 5 CANCELLED
  widx  : Nat
  id    : Nat
  err   : Nat
  phase : Nat
  value : Nat
  frees : Nat
  also  : Option Nat := none           -- port of a watch that an UNWATCH has freed: its entry is freed with this message (R309)
deriving DecidableEq, Repr

/-- An SQ message that is not yet in effect: the writes accepted before `mark` are those its release waits for; `err` is the
error it was refused with when it was taken, 0 for none (R310, R312, R315). -/
structure SqHeld where
  w    : SqWord
  mark : Nat
  err  : Nat
deriving DecidableEq, Repr

/-- A port, beside its PORT page registers. -/
structure PortSt where
  held   : Bool := false               -- an enable held until a drain completes (R164)
  queue  : List Nat := []              -- tags in the adapter queue, oldest first
  await  : List Nat := []              -- tags at the Hub waiting for the split stage, oldest first
  split  : Option Splitting := none
  txns   : List Txn := []
  ready  : List Lane := []             -- lanes on their way to RSP, oldest first
  rsp    : Option Lane := none         -- the lane last transferred on RSP
  back   : List BackLine := []         -- return buffer
  hold   : List BackLine := []         -- multicast hold
  fetches : List Fetch := []
  scale  : List ScaleEntry := []
  loopMem : List Host.Cell := []       -- loop store of the adapter (R169)
  loopHubMem : List Host.Cell := []    -- loop store in the Hub (R169)
  drainMark : Nat := 0                 -- acceptance number at the write of EN that began the drain (R164)
  urgIn  : Nat := 0                    -- URG level taken
  broken : Bool := false               -- the adapter has failed (R469)
  sqUsed : Nat := 0                    -- SW entries reserved (R309)
  sqHeld : List SqHeld := []           -- SQ messages not yet in effect (R310)
  sw     : List SwMsg := []            -- SW messages, oldest first
  swLast : Option SwMsg := none        -- the message last transferred on SW
deriving DecidableEq, Repr

/-! ### Handles (spec/03_handles.md) -/

/-- A handle descriptor (R69). -/
structure Desc where
  power : Nat
  baseLayer : Nat
  baseFrame : Nat
  trow  : Nat
  extentM1 : Nat
  splane : Nat
  format : Nat
  ovf   : Bool
  sround : Bool
  clsD  : Bool
  linear : Bool
  winOk : Bool
  tidlock : Bool
  owner : Nat
  cores : Nat
  rights : Nat
  tag   : Nat
deriving DecidableEq, Repr

/-- The handle command that runs (R87): its stage and what it waits for. -/
structure HandleCmd where
  op     : Nat
  handle : Nat
  stage  : Nat                         -- INSTALL: 0 class map, 1 clear; others 0
  iclear : Bool
  desc   : Desc
  before : Nat                         -- acceptance number at the command
deriving DecidableEq, Repr

/-! ### Regulation (spec/07_regulation.md) -/

/-- The per-TID counters of R213 that no register holds. -/
structure TidCnt where
  segRd  : Nat := 0
  segWr  : Nat := 0
  rimAcc : Nat := 0
  grants : Nat := 0
  waitSum : Nat := 0
  brakeT : Nat := 0
  displ  : Nat := 0
  preempt : Nat := 0
  hist   : List Nat := []              -- bins 0 to 15; a missing bin is 0
deriving DecidableEq, Repr

/-- The regulation state beside the REGUL page. -/
structure RegulSt where
  cnt    : Sp TidCnt := []
  edges  : List Nat := [16, 24, 32, 48, 64, 96, 128, 192, 256, 384, 512, 1024, 2048, 8192, 32768]
  seen   : Sp (Bool × Nat) := []       -- Brake state and class as an arbiter last received them: arbiter * 64 + TID
  snap   : Option (Nat × Nat × Nat × TidCnt) := none   -- snapshot being copied: TID, STEP, timestamp, counters
  lastWin : Sp Nat := []               -- timestamp from which a TID's next window boundary counts (R200, R209)
  overShare : List Nat := []           -- TIDs whose SHARE was written below their occupancy, until it falls below it (R209)
deriving DecidableEq, Repr, Inhabited

/-- The outcome of an access of a unit other than a port, until the unit takes it. -/
structure Answer where
  src    : Src
  status : Nat                         -- R152, and 10 EXT_ERR, 11 NAK (R293)
  pmask  : Nat
  segs   : List SegOp
  data   : Nat := 0                    -- data of a master-port read
  nval   : Nat := 0
  ncor   : Nat := 0
  ninv   : Nat := 0
deriving DecidableEq, Repr

/-- The Hub, beside the HUB page. -/
structure HubSt where
  flight : List Access := []
  answers : List Answer := []
  govStarts : Nat := 0                 -- rim access starts in the running governor window (R494)
  govWin : Nat := 0                    -- number of the running governor window
  seqCtr : Nat := 0                    -- next split sequence number
  accCtr : Nat := 0                    -- next acceptance number
  paused : Bool := false               -- sending up the Spokes is stopped (R189, R191)
  change : Option (Nat × Bool) := none -- plane change in progress: plane, taking it out
  changeAt : Nat := 0                  -- timestamp of the pause's start
  claims : List Access := []           -- accesses that units perform where they stand: entries of their rim's queue, waiting
                                       -- for its grant, or granted (at the merge) and not yet performed
deriving DecidableEq, Repr, Inhabited

/-- An entry of the poison log (R452). -/
structure PsnEntry where
  kind   : Nat
  clsD   : Bool
  tid    : Nat
  step   : Nat
  pta    : Nat
  source : Nat
  time   : Nat
deriving DecidableEq, Repr

/-! ### Energy (spec/16_power_and_energy.md) -/

/-- A chunk of accesses or steps that asked for energy (R491 to R493). -/
structure Chunk where
  owner  : Nat                         -- mover channel, or 16 + operation queue
  tid    : Nat
  n      : Nat                         -- accesses or steps that it covers
  est    : Nat                         -- its estimate
  adm    : Bool                        -- admitted; else deferred
  pool   : Nat                         -- pool its estimate was taken from: 0 RT, 1 LC, 2 POOL
  live   : Bool                        -- its commitment holds: it was admitted in the running Cadence
  spent  : Nat                         -- charged under the commitment
deriving DecidableEq, Repr

/-- The ledger and the pools, in units of 0.1 pJ / 4,096 so that every charge of R485 is exact. -/
structure EnergySt where
  ledger : Nat := 0                    -- every charge since reset (R488)
  cls    : List Nat := [0, 0, 0, 0]    -- the running Cadence's totals, RT, LC, BE, MT
  stat   : Nat := 0                    -- the running Cadence's static charge, in nJ (R487)
  nobody : Nat := 0                    -- the running Cadence's charges to no TID (R486)
  cad    : Nat := 0                    -- index of the running Cadence, not reduced (R484)
  grant  : Nat := 0xFFFFF              -- GRANT in force, in µJ (R489)
  em0Down : Bool := false              -- EM0 has been found not alive (R489)
  aliveAt : Nat := 0                   -- the Cadence, not reduced, in which EM_ALIVE was last written (R489)
  budget : Nat := 0                    -- the effective budget B now, in µJ (R489)
  pool   : Int := 0                    -- POOL, RT_POOL and LC_POOL now (R490)
  rtPool : Int := 0
  lcPool : Int := 0
  beAdmitted : Bool := false           -- a BE or MT chunk has been admitted in this Cadence (R493)
  chunks : List Chunk := []            -- chunks admitted or deferred, oldest first
  meter  : Sp Nat := []                -- charges of the running descriptor or record of an owner
  clearAt : Nat := 0                   -- timestamp at which EMERGENCY ends, while EMG_STAT.CLEARING is 1
  fellAt : Nat := 0                    -- timestamp at which EMERGENCY last ended
  emgs   : Nat := 0                    -- entries into EMERGENCY (R544)
  current : Sp Nat := []               -- readings of a sector since its periphery came on: 1 pace, 2 temperature (R473, R482)
  wakeStarts : List Nat := []          -- timestamps of the rim wakes started in the last 1 µs (R478)
deriving DecidableEq, Repr, Inhabited

/-! ### The event recorder (spec/18_observability.md) -/

/-- A fired trigger that waits for a slot (R537). -/
structure Fired where
  trig : Nat
  time : Nat                           -- timestamp at the firing
  pc   : Nat                           -- pc count of the host-die periphery at the firing
  info : Nat
  aux  : Nat
deriving DecidableEq, Repr

/-- A record that is being written (R536, R538, R539). -/
structure RecJob where
  slot : Nat
  seq  : Nat
  fired : Fired
  cfg  : Nat                           -- TRGn_CFG of its trigger, as the slot was taken
  left : List (Nat × Nat)              -- entries of its list still to read: entry and offset
  snap : List Nat                      -- snapshot words read
  bad  : Nat                           -- BADMASK
  readPc : Nat                         -- pc count at the last snapshot read; that of the firing before any
deriving DecidableEq, Repr

/-- The recorder, beside the RECORDER page. -/
structure RecSt where
  slots   : Sp (List Nat) := []        -- records, W0 first; an unlisted slot is zero
  taken   : Nat := 0                   -- slots taken in this arming
  waiting : List Fired := []
  writing : Option RecJob := none
  prev    : Sp Nat := []               -- previous sample of each LEVEL or DELTA trigger
  sampled : Nat := 0                   -- timestamp of the last sample
  clearAt : Nat := 0                   -- pc count at the start of the clearing
deriving DecidableEq, Repr, Inhabited

/-! ### Synchronisation (spec/10_synchronisation.md) -/

/-- A parked slot-semantics request (R323, R324, R330). -/
structure Park where
  x    : Nat
  tag  : Nat
  acc  : Nat                           -- acceptance number
  home : Nat                           -- home rim, 16 * layer + logical rim
  ring : Nat
  slot : Nat
  full : Bool                          -- waits for FULL (a read); otherwise for EMPTY
  deadline : Option Nat                -- timestamp of its timeout; none before its first probe
  table : Bool                         -- holds a park table entry; otherwise in its port's retry list
deriving DecidableEq, Repr

/-- A fill or an empty that waits for its lines to settle (R325 to R327). -/
structure SlotChange where
  ring : Nat
  slot : Nat
  fill : Bool
  x    : Nat
  tag  : Nat
  acc  : Nat
  go   : List Nat                      -- lines of the request not yet settled
  bad  : Bool                          -- a line has settled with a status other than OK or POISON
deriving DecidableEq, Repr

/-- The synchronisation plane, beside the SYNC pages. -/
structure SyncSt where
  watchOrd : List Nat := []            -- armed watches, first armed first
  waiters  : List (Nat × Nat) := []    -- barrier and port of each waiter
  parks    : List Park := []           -- parked requests, oldest first
  changes  : List SlotChange := []
  filler   : Sp Nat := []              -- credit channel that filled a tag's slot (R425), by tag
  owed     : Sp (Nat × Nat) := []      -- pending credit returns of a channel and the timestamp of the first
  arrived  : List (Nat × Nat) := []    -- manager: barrier and device of each arrival of the running phase
  sent     : List Nat := []            -- domain barriers whose arrival awaits its release
deriving DecidableEq, Repr, Inhabited

/-! ### The cache and the master port (spec/12_cache_mode.md, spec/09_movers_and_tokens.md R276) -/

/-- Who made a transaction on the master port. -/
inductive MpSrc where
  | fill (job : Nat)                   -- a cache miss, of a job of the controller
  | wback (job : Nat)                  -- a write-back of a cache line
  | through (job : Nat)                -- a mover's THROUGH access that its line is done with
  | chan (c unit : Nat)                -- a mover channel
  | image                              -- a read of a firmware image (R518)
deriving DecidableEq, Repr

/-- A transaction outstanding on the mover master port: 64 to 512 bytes from a multiple of 64, of which `n` bytes from byte `skip`
are enabled. -/
structure MpReq where
  id    : Nat
  src   : MpSrc
  write : Bool
  addr  : Nat
  len   : Nat
  skip  : Nat
  n     : Nat
  data  : Nat                          -- the enabled bytes of a write
  qos   : Nat
deriving DecidableEq, Repr

/-- A valid line of the cache. Its slot (R363) is its key: 65,536 * section + slot number. -/
structure CLine where
  tag   : Nat
  dirty : Bool
deriving DecidableEq, Repr

/-- What an operation at the controller is for (R370). -/
inductive CacheOp where
  | ext (x tag : Nat)                  -- an EXT request of a port
  | alloc                              -- the allocation left of a read miss that has been answered
  | cop (op : Nat)                     -- a maintenance operation on the line: 1 INV, 2 CLEAN, 3 CLEAN_INV
  | evict                              -- an eviction of the line
  | mover (c unit : Nat)               -- a THROUGH access of a mover channel
deriving DecidableEq, Repr

/-- How far an operation on a line has come. -/
inductive CacheStage where
  | wait                               -- behind an earlier operation on its line
  | full                               -- missed, with no room for another miss (R368)
  | fetch                              -- its line is being read from external memory
  | place                              -- the line has arrived and waits for a way
  | hit                                -- its access to a line that the cache holds
  | fill                               -- the fill write
  | readOut                            -- a dirty line being read out of its section
  | issue                              -- a transaction to be issued on the master port
  | land                               -- the transaction is outstanding
deriving DecidableEq, Repr

/-- An operation at the controller, on `n` bytes from byte `b` of a line. -/
structure CacheJob where
  id    : Nat
  line  : Nat
  op    : CacheOp
  tid   : Nat
  b     : Nat
  n     : Nat
  wr    : Bool
  data  : Nat                          -- bytes to write; then those of the line, once it has arrived or been read out
  stage : CacheStage := .wait
  key   : Nat := 0                     -- slot of its rim access
  sent  : Bool := false                -- its rim access has gone into its pool
  paid  : Bool := false                -- the request has been charged (R369)
  bad   : Nat := 0                     -- status that it has met
deriving DecidableEq, Repr

/-- The cache controller, beside the CACHE page. -/
structure CacheSt where
  lines : Sp CLine := []
  plru  : Sp Nat := []                 -- tree of R364 by 8,192 * section + set, seven bits
  jobs  : List CacheJob := []          -- in the order in which they reached the controller
  next  : Nat := 0                     -- number of the next one
  cop    : Option (Nat × Nat) := none  -- the maintenance operation that runs: its first line and its count of lines (R375)
  switch : Option Nat := none          -- target set of the section switch that runs
deriving DecidableEq, Repr, Inhabited

/-! ### Movers (spec/09_movers_and_tokens.md) -/

/-- A posted chain, or a scrub post, as its submission words give it (R268, R269). -/
structure Chain where
  acc   : Nat                          -- acceptance number of its submission
  scrub : Bool
  words : List Nat                     -- S0 to S3
  next  : Nat                          -- next descriptor to read
deriving DecidableEq, Repr

/-- What the outstanding access of a descriptor is for. -/
inductive Want where
  | none | data | write | index | entry | vector | ticket | summary | scaleRow | scaleWrite
deriving DecidableEq, Repr

/-- A descriptor that has been read, and its progress once it has started. One with no words stands for a descriptor that could
not be read, with the status of its read (R291). -/
structure MvJob where
  words  : List Nat                    -- D0 to D15; S0 to S3 of a scrub post
  chain  : Nat                         -- acceptance number of its chain
  scrub  : Bool := false               -- a scrub post (R454)
  started : Bool := false
  ended  : Bool := false               -- issues nothing more
  status : Nat := 0
  fail   : Nat := 0xFFFFFFFF           -- FAIL_ITEM
  nak    : Nat := 0
  acc    : Nat := 0                    -- acceptance number at its start
  step   : Nat := 0                    -- STEP of its TID at the start
  item   : Nat := 0                    -- item that runs
  sub    : Nat := 0                    -- stage of the item
  rpos   : Nat := 0                    -- SRC walk bytes of the running transfer: next and end
  rend   : Nat := 0
  wpos   : Nat := 0                    -- DST walk bytes
  wend   : Nat := 0
  zero   : Bool := false               -- the transfer writes zeros (R285)
  stg    : Nat := 0                    -- staged bytes, little-endian, and their count
  stgN   : Nat := 0
  scs    : List (Nat × Nat × Seg) := []  -- scale entries to be written: handle frame, row, entry (R281)
  idx    : List Nat := []              -- indices read ahead
  entry  : Nat := 0                    -- routing entry or ticket of the running item
  vec    : Nat := 0                    -- vector of the running item
  sentTo : Sp Nat := []                -- tokens sent to each expert, for its marker
  slot   : Option (Nat × Nat) := none  -- ring and slot consumed
  slot2  : Option (Nat × Nat) := none  -- ring and slot that an append has taken
  deadline : Option Nat := none        -- timestamp of the timeout of a wait for a slot or a credit
  rowOf  : Option Nat := none          -- it waits for the scale row that another channel of its engine is reading (R125, R282)
  need   : Bool := false               -- its next access waits for a chunk to be asked for (R295)
  out    : Bool := false               -- an access is outstanding
  want   : Want := .none
  pos    : Nat := 0                    -- walk byte offset of the outstanding access
  len    : Nat := 0                    -- its bytes
  rem    : Nat := 0                    -- packets awaiting LACK or NAK
  row    : Option (Nat × List Seg) := none  -- handle frame and scale row in use
  chunk  : Nat := 0                    -- accesses of the admitted chunk still to issue
  accs   : Nat := 0                    -- accesses issued
  xr     : List (Nat × Nat) := []      -- external ranges written, each with its end (R277)
  resv   : Nat := 0                    -- staging bytes reserved for a router vector (R267)
  caps   : Sp (Nat × Bool × Bool) := []  -- POWER, OVF and SROUND of its handles at its start, by handle (R88)
  keep   : Bool := true                -- the scale row being read is still to be buffered (R127, R282)
  inval  : Bool := false               -- its INVC invalidations have been asked for (R277)
  mark   : Option Nat := none          -- split number at which a slot fill was due (R325)
  wait   : Nat := 0                    -- WAIT code of R294
  sum    : List Nat := [0, 0, 0, 0, 0, 0, 0, 0x3FFFFFFF]  -- scrub summary (R456)
  acted  : Nat := 0                    -- completion actions (R289): 1 counter and slot, 2 notify sent, 3 notify answered, 4 record queued
deriving DecidableEq, Repr

/-- A completion record to be written (R291). -/
structure MvRec where
  words : List Nat
  irq   : Bool                         -- the channel's IRQ action follows it
  head  : Bool := false               -- the head descriptor waits for it to land (R289)
deriving DecidableEq, Repr

/-- A mover channel. -/
structure MvChan where
  chains : List Chain := []            -- posted, oldest first
  jobs   : List MvJob := []            -- read descriptors, the running one first
  recs   : List MvRec := []            -- records to write, oldest first
  recOut : Option (Nat × Nat) := none  -- a record write is in flight: its handle, 0 for none, and acceptance number (R88)
  fetch  : Option Nat := none          -- the chain whose descriptor read is in flight
  fetchOf : Nat × Nat := (0, 0)        -- handle of that read, 0 for none, and its acceptance number (R88)
  mpw    : Bool := false               -- an access of it waits for the master port (R276)
deriving DecidableEq, Repr

/-! ### Integrity and test (spec/15_integrity.md, spec/19_test.md) -/

/-- A copy of a logical rim between two physical rims, line by line (R463, R563): an evacuation, or a test copy. -/
structure CopyJob where
  rim  : Nat                           -- logical rim
  src  : Nat                           -- physical rims
  dst  : Nat
  tid  : Nat
  next : Nat                           -- next line: 16 * frame slot + row
  seq  : Nat                           -- number of its next access
  step : Nat                           -- STEP of the TID when that access was queued (R211)
  born : Nat                           -- pc counts when it was queued
  bornD : Nat
deriving DecidableEq, Repr

/-- The rim command that runs (R461, R463). -/
structure RimCmd where
  evac  : Bool                         -- EVACUATE; otherwise RETIRE
  layer : Nat
  rim   : Nat
  since : Nat                          -- pc count of its start
deriving DecidableEq, Repr

/-- A scrub pass on the INTEG page (R454). Its range is one walk, so EM1 issues one scrub post. -/
structure ScrubPass where
  post   : Nat := 0                    -- acceptance number of its post
  aborted : Bool := false
  ended  : Bool := false               -- its post has completed
  part   : Bool := false               -- its post failed or was discarded
  wait   : Option (Nat × List Nat) := none  -- its post, and the channel that has no room for it yet
deriving DecidableEq, Repr

/-- Integrity state beside the INTEG page. -/
structure IntegSt where
  cmd    : Option RimCmd := none
  sectors : List Nat := []             -- sectors whose periphery has failed, 4 * layer + sector (R461)
  ceMark : Sp (Nat × Nat × Nat) := []  -- by physical rim: CE_CNT and timestamp of the running interval, UE_CNT (R465)
  scrub  : Option ScrubPass := none
  lanes  : Sp Nat := []                -- spare lanes in use of each lane group (R602), by `laneKey`
  crossings : Nat := 0                 -- Drigar crossings brought up since reset (R603)
  copies : Sp CopyJob := []            -- copies that run, by layer
  mism   : Sp (List Nat) := []         -- timestamps of the transport mismatches of a plane in the last 1 ms (R466)
deriving DecidableEq, Repr, Inhabited

/-- A field test (R562 to R567). -/
structure FieldTest where
  op    : Nat                          -- 1 RIM, 2 PLANE, 3 LINK, 4 SYNC
  layer : Nat
  unit  : Nat                          -- logical rim, plane or link port
  depth : Nat                          -- LINK depth
  start : Nat                          -- timestamp
  since : Nat                          -- pc count at the start of the phase
  abort : Bool
  reply : Option (Nat × Nat)           -- mailbox ring and SEQ that wait for the answer (R569)
  pat   : Nat := 0                     -- rim accesses that the patterns of phase 2 have made (R564)
  hold  : Nat := 0                     -- timestamp at which their retention pause ends
deriving DecidableEq, Repr

/-- Test state beside the TEST page. -/
structure TestSt where
  ft     : Option FieldTest := none
  target : Sp Nat := []                -- TARGET held until the test or the transition ends, by 17 * layer + rim (R475, R566)
  reapply : Nat := 0                   -- entries of the retired-rim list already applied again (R561)
  bst    : Bool := false               -- the boot self-test has run since reset (R559)
  sibs   : Nat := 0                    -- segment insertion bits that a scan has set: layers 0 to 7, planes 8 and 9, link ports 10 to 13 (R570)
deriving DecidableEq, Repr, Inhabited

/-! ### Lifetime records (spec/18_observability.md R542 to R551) -/

/-- The lifetime records: EM0's image and buffers, and the life store of option N. Images are 8 KiB, byte by byte. -/
structure LifeSt where
  img     : List Host.Cell := []       -- the image in EM0's SRAM
  flushed : List Host.Cell := []       -- the image last flushed or prepared
  loaded  : Bool := false              -- EM0 has taken a base since it started
  ready   : Bool := false              -- an image has been flushed or prepared since start-up
  buf     : List Host.Cell := []       -- load buffer of LIFE_LOAD
  baseSeq : Nat := 0                   -- ISEQ of the base
  next    : List Host.Cell := []       -- the image that a flush is writing
  committed : Bool := false            -- LIFE_COMMIT has adopted a base since start-up
  store   : Sp (List Host.Cell) := []  -- slots of the life store that hold an image
  writing : Option Nat := none         -- slot being written by a flush
  reply   : Option (Nat × Nat) := none -- mailbox ring and SEQ of the LIFE_FLUSH that waits for the write
  prev    : Sp Nat := []               -- last sample of each source of R544
  sampled : Nat := 0                   -- timestamp of the last sample
  flushAt : Nat := 0                   -- timestamp of the last flush
  mirror  : Sp Nat := []               -- last sample of CE_CNT and UE_CNT by physical rim
  slot    : Nat := 0                   -- EM0's own record of what LS_STAT and LS_TIME show: slot of the next flush
  bad     : Nat := 0                   -- bad slots
  state   : Nat := 0                   -- STATE
  lastAt  : Nat := 0                   -- timestamp of the last flush
deriving DecidableEq, Repr, Inhabited

/-! ### Operation records (spec/08_inplace_work.md) -/

/-- An operation record in a queue, and its progress once it has started. -/
structure RaRec where
  words  : List Nat                    -- W0 to W15
  chan   : Option Nat                  -- the mover channel that posted it
  acc    : Nat := 0                    -- acceptance number at its start (R241)
  started : Bool := false
  stop   : Bool := false               -- sends no further steps (R260)
  status : Nat := 0                    -- RESULT
  fail   : Option Nat := none          -- FAIL_STEP
  next   : Nat := 0                    -- next step to send
  fly    : List Nat := []              -- steps sent to the rims' ALUs and not finished, ascending
  ended  : List (Nat × Nat × Option Nat) := []  -- steps whose instructions have all issued, with a line still in a write buffer:
                                       -- step, status, reduce word (R252, R255)
  upTo   : Nat := 0                    -- end of the chunk that has asked for energy
  rims   : List Nat := []              -- rims that a step has been sent to, 16 * layer + logical rim
  gates  : Sp (Nat × Nat) := []        -- gate segments read: status and data, by number (R253)
  red    : Sp Nat := []                -- reduce words that wait to be written, by step
  caps   : Sp (Nat × Bool × Bool) := []  -- POWER, OVF and SROUND of its handles at its start, by handle (R88)
deriving DecidableEq, Repr

/-- An operation queue: its records, the running one first, and its completion FIFO: RESULT, SEQ and failed step. -/
structure RaQueue where
  recs : List RaRec := []
  cpl  : List (Nat × Nat × Option Nat) := []
deriving DecidableEq, Repr

/-! ### The Amiys link and the window unit (spec/13_amiys_link.md, spec/14_remote_access.md) -/

/-- A packet that waits for an output port, or for its acknowledgement: the input port it came from (4 for this device's own), the
class and lane it had there, and the TID its flits are charged to. -/
structure LinkTx where
  pk  : Packet
  inp : Nat
  laneIn : Nat
  tid : Option Nat
  own : Option Nat := none             -- mover channel whose descriptor sent it (R267, R295)
  freed : Bool := false                -- its flits have left the receive buffer they came in (R395)
deriving DecidableEq, Repr

/-- A link port, beside its block of the LINK page. Credit totals are by 2 * class + virtual lane, modulo 4,096 (R388). -/
structure LinkPort where
  txq    : List LinkTx := []           -- packets that wait for the port, oldest first
  replay : List LinkTx := []           -- sent and not acknowledged, oldest first (R397)
  nextL  : Nat := 0                    -- LSEQ of the next packet sent
  sentC  : List Nat := []              -- flits sent; [] is eight zeros
  farC   : List Nat := []              -- flits that the far receiver has freed
  expL   : Nat := 0                    -- next LSEQ expected (R398)
  freed  : List Nat := []              -- flits freed here
  rxq    : List Packet := []           -- packets accepted and not yet consumed, oldest first
  waitL  : Bool := false               -- discards packets until the expected one arrives
  retryAt : Nat := 0                   -- timestamp of the last RETRY sent
  retries : Nat := 0                   -- RETRYs sent without progress
  heard  : Nat := 0                    -- timestamp of the last control block
  drainAt : Nat := 0                   -- timestamp at which DRAINING began
  dropMask : Option Nat := none        -- lanes kept, while LANE_DROP is sent (R405)
  lossAt : Option Nat := none          -- timestamp of a lane's loss, until delivery resumes
  lock   : Bool := true                -- the receiver is locked on its lanes
  serMark : List Nat := []             -- corrected symbols in the running 10 µs interval, by lane
  serHigh : List Nat := []             -- consecutive intervals above the threshold, by lane
  rxCtl  : List Nat := []              -- control blocks received and not yet acted on, oldest first
  rxFlits : List Nat := []             -- flits received that are not yet a packet taken, oldest first
  held   : List Nat := []              -- flits accepted and not yet freed, by lane
  stale  : List Nat := []              -- those among them that were accepted before the last INIT: they are credited to nobody (R395)
  scr    : Nat := 0                    -- the scrambler: the last 58 bits sent (R385)
  descr  : Nat := 0                    -- the descrambler: the last 58 bits received
  cwN    : Nat := 0                    -- codewords sent, modulo 4,096 (R386)
  cwOut  : List Nat := []              -- the codeword sent last: the symbols on each active lane, the first lowest
  marks  : List Nat := []              -- what each active lane carried of the last codeword of alignment markers (R386)
  cbOut  : Sp Nat := []                -- the control block last handed over for sending, by its kind
  cbWait : List Nat := []              -- control blocks that wait for the end of the markers, oldest first (R405)
  marksTo : Nat := 0                   -- timestamp up to which every codeword carries markers (R405)
  linkAt : Nat := 0                    -- timestamp of the last LINK block (R388)
  linkCw : Nat := 4                    -- codewords sent from the last LINK block on, up to four
  linkDue : Bool := false              -- a LINK block waits for its turn
  prbs   : Nat := 0x7FFFFFFF           -- the pattern generator of a LINK test: the last 31 bits (R567)
deriving DecidableEq, Repr

/-- What a packet awaiting LACK or NAK was sent for. -/
inductive SentFor where
  | data (c pos : Nat)                 -- a write or token of a mover channel, with its walk byte offset or item
  | ntfy (c : Nat)                     -- a notify of a mover channel's descriptor
  | other                              -- a registry record
deriving DecidableEq, Repr

/-- A packet, or token, awaiting LACK or NAK (R434). -/
structure SentPk where
  etag  : Nat
  who   : SentFor
  dst   : Nat
  ptype : Nat
  time  : Nat                          -- timestamp of its injection
  tid   : Option Nat := none           -- TID of the descriptor that it belongs to (R486)
  n     : Nat := 1                     -- packets that it stands for: those of a token share a tag
deriving DecidableEq, Repr

/-- The link block. -/
structure LinkSt where
  ports  : Sp LinkPort := []
  sent   : List SentPk := []
  tag    : Nat := 1                    -- next ETAG
  results : List (SentFor × Option Nat) := []  -- outcomes not yet taken by their movers: landed, or a NAK cause
  here   : List Packet := []           -- packets for this device from itself, oldest first
  lacks  : Sp (List Nat × Nat) := []   -- by source device: ETAGs gathered, timestamp of the first (R434)
  lackTid : Sp Nat := []               -- by source device: TID of the write that the first of them answers (R486)
  ts     : Option (Nat × Nat) := none  -- t1 and timestamp of the running time exchange (R410)
  tsAt   : Nat := 0                    -- timestamp of the last periodic exchange
  chainAt : Option (Nat × Nat) := none -- the manager waits for a Chain frame: OP and timestamp (R407)
  chainOut : Option Nat := none        -- the frame last driven on CHAIN_OUT (R406)
deriving DecidableEq, Repr, Inhabited

/-- An arriving write that has passed its checks (R419, R426): parts still to be sent into the Hub and not yet landed. -/
structure Arrival where
  id    : Nat
  pk    : Packet
  tid   : Nat
  inp   : Nat                          -- input port
  handle : Nat                         -- handle that its bytes are written under
  parts : List (Nat × Nat × Nat)       -- parts not yet sent into the Hub: handle byte offset, length, data
  go    : Nat                          -- accesses in flight
  status : Nat                         -- worst status so far
  token : Option Nat                   -- the token it belongs to
  lost  : Bool := false                -- its port has failed before its last part was sent: it is not answered (R403)
  acc   : Nat := 0                     -- acceptance number (R88)
  policy : Nat := 0                    -- POWER of the handle and STEP of the TID as it was accepted (R86, R93, R211)
  step  : Nat := 0
deriving DecidableEq, Repr

/-- A token being received (R426). -/
structure Token where
  id    : Nat
  cch   : Nat                          -- credit channel, with its SACCT and TID as the token was taken
  acct  : Nat
  tid   : Nat
  src   : Nat
  etag  : Nat
  ring  : Nat
  slot  : Nat
  last  : Bool                         -- its last packet has arrived
  bad   : Option Nat                   -- NAK cause it has been refused with
  before : List Nat                    -- arrivals of its source and class that its fill must follow (R358)
  marked : Bool := false               -- the marker ticket of a refused token has been sent into its slot (R427)
deriving DecidableEq, Repr

/-- A held notify, or a barrier arrival held for its fence (R431, R433). -/
structure Held where
  pk   : Packet
  at_  : Nat                           -- timestamp at which it entered the table
  before : List Nat                    -- arrivals of its source, on its input port, that it must follow (R358)
deriving DecidableEq, Repr

/-- The window unit, beside the WINDOW pages. -/
structure WinSt where
  landed : Sp Nat := []                -- landed-write counters, 64 * window + source (R420)
  sentN  : Sp Nat := []                -- sent counts, 256 * device + window (R432)
  arr    : List Arrival := []          -- writes that land, oldest first
  next   : Nat := 0                    -- next arrival or token number
  tokens : List Token := []
  skip   : List (Nat × Nat) := []      -- source and CCH of refused tokens whose remaining packets are discarded (R427)
  fences : List Held := []             -- the fence table
  held   : List Nat := []              -- TIDs of packets in the receive buffers that wait for their queue share (R204, R415)
  records : List (Nat × Nat) := []     -- registry records to be sent: offset and 32 bytes of data (R422)
deriving DecidableEq, Repr, Inhabited

/-! ### Firmware (spec/17_control_and_firmware.md) -/

/-- The loader reading an image into the inactive bank (R518). -/
structure FwLoad where
  out  : Bool := false                 -- a read is outstanding
  under : Option (Nat × Nat) := none   -- of one of TM8 storage, its handle and its acceptance number (R88, R95)
  got  : Nat := 0                      -- bytes read
  data : Nat := 0                      -- the bytes, little-endian
  bad  : Bool := false                 -- a read has failed
deriving DecidableEq, Repr

/-- An activation (R520). -/
structure FwAct where
  start  : Nat                         -- timestamp of its step 1
  cores  : List Nat                    -- cores that take part
  kicked : List Nat := []              -- those that have written their WDT_KICK since
  spoiled : List Nat := []             -- those restarted since under R514, which load from the active bank
deriving DecidableEq, Repr

/-- The image store, the loader and the Emlar cores, beside the MAILBOX pages. -/
structure FwSt where
  banks  : Sp (List Host.Cell) := []   -- images in the two banks
  active : Bool := false               -- the active bank holds an image that has been committed
  load   : Option FwLoad := none
  sram   : Sp (List Host.Cell) := []   -- what a core has in its local SRAM, by core (R513)
  entry  : Sp Nat := []                -- offset within its section at which a core was last started (R513, R516)
  act    : Option FwAct := none
  held   : Bool := false               -- an ACTIVATE waits for a core's restart (R520)
  kickAt : Sp Nat := []                -- by core: timestamp of the last kick, or of its start (R514)
  runAt  : Sp Nat := []                -- by core: timestamp at which it entered RUN
  owed   : List (Nat × List Nat) := [] -- responses that wait for a free entry: ring, then TYPE, SEQ, STATUS, LEN and words (R524)
  vers   : Sp (Nat × Nat) := []        -- by core: IMG_VER and IF_VER of the image it was loaded from
deriving DecidableEq, Repr, Inhabited

/-- The transaction that a master has outstanding, some of its pieces performed (R501, R504). -/
structure FabBurst where
  wr   : Bool
  page : Nat                           -- an offset in the page that it starts in
  off  : Nat                           -- offset of its next beat
  left : Nat                           -- its beats still to come
  resp : Nat                           -- RESP of its beats so far
deriving DecidableEq, Repr

/-- The control fabric (R501, R504, R505). -/
structure FabSt where
  bursts : Sp FabBurst := []           -- by master
  passed : Sp Nat := []                -- pieces that have passed a master's, by 8 * group + master
  last   : Sp Nat := []                -- the master granted last, by group
deriving DecidableEq, Repr, Inhabited


/-- The whole state. -/
structure State where
  cfg    : Dev := Dev.kiln16
  regs   : Sp Word32 := []
  now    : Nat := 0                    -- TIMEREF timestamp (R9)
  pcNow  : Nat := 0                    -- pace cycles of the host-die periphery counted since reset
  pcRem  : Nat := 0                    -- picoseconds of the running pace cycle already gone
  pcDev  : Nat := 0                    -- pace cycles of device pace counted since reset
  pcDevRem : Nat := 0
  clockOn : Bool := true               -- TIMEREF runs (R601)
  fuseLoaded : Bool := false           -- the fuse shadow is loaded (R607)
  porstLow : Bool := false             -- PORST_N is low (R598)
  srstLow : Bool := false              -- SRST_N is low (R598)
  railLost : Bool := false             -- a rail has left its range since the last power-on start (R597)
  fused  : Nat := 2                    -- lifecycle state of the fuses, coded as LC_STAT.STATE (R554)
  freeCtr : Nat := 1                   -- next free value to draw (the model's own counter)
  array  : ArraySt := {}
  rims   : Sp RimSt := []              -- by 17 * layer + physical rim
  hub    : HubSt := {}
  ports  : Sp PortSt := []             -- by port index
  handles : Sp Desc := []              -- descriptors of handles that are not FREE
  hcmd   : Option HandleCmd := none
  regul  : RegulSt := {}
  psnLog : List PsnEntry := []
  captured : Sp Nat := []              -- words captured per master by a low-half read (R507)
  reply  : Sp (List (Nat × Nat)) := [] -- CR beats of each master's last piece: DATA and RESP (R499)
  energyAcc : EnergySt := {}
  shareHeld : List (Nat × Nat) := []   -- accesses of units held for their TID's queue share: unit and TID (R204)
  domUp  : Sp Nat := []                -- domains switched on whose power-up has not ended, with the timestamp of its start (R474)
  domDead : List Nat := []             -- domains that a failed boot self-test keeps off (R559)
  wakes  : List Nat := []              -- rims whose wake waits to start, 17 * layer + rim, oldest first (R478)
  sync   : SyncSt := {}
  cache  : CacheSt := {}
  mport  : List MpReq := []            -- transactions on the master port, oldest first
  mpCtr  : Nat := 0                    -- next transaction number
  mpRr   : Nat := 3                    -- engine that the master port served last (R276)
  engScale : Sp (List ScaleEntry) := []  -- scale buffer of each mover engine (R282)
  spokeHeld : List Nat := []           -- sectors whose Spoke pauses for a lane substitution (R467)
  chans  : Sp MvChan := []             -- mover channels
  engRr  : Sp Nat := []                -- channel that each engine served last
  recd   : RecSt := {}
  integ  : IntegSt := {}
  test   : TestSt := {}
  life   : LifeSt := {}
  raq    : Sp RaQueue := []            -- operation queues
  klen   : Sp Nat := []                -- instructions of each loaded kernel slot
  link   : LinkSt := {}
  win    : WinSt := {}
  fw     : FwSt := {}
  fab    : FabSt := {}
  pending : List Instr := []           -- commands that wait, first in first out
deriving DecidableEq, Repr, Inhabited

/-- Why a step ends in a fault: nothing does. The spec gives every command an effect, and no access of the block stops it. -/
inductive Fault where
deriving DecidableEq, Repr

/-- Why a step is refused. -/
inductive Refusal where
  /-- Raised by an arm of `exec` whose command has no meaning yet. Safe: nothing is claimed about it. -/
  | notModelled (mnemonic : String)
deriving DecidableEq, Repr

/-- The state of a device whose rail has left its range (R597): the contents of all storage and the state of every register are
undefined. A free value: nothing can evaluate it or prove anything of it. -/
opaque lostState : Nat → State

/-- The outcome of a command. -/
abbrev Res := Host.Outcome State Fault Refusal

/-- The machine right after the release of power-on reset, of a given configuration: every register at its reset value
(`resetWord`), the array all invalid, every queue empty, the timestamp 0 (R448, R598). -/
def State.resetOf (d : Dev) : State := { cfg := d }

/-- The machine right after reset. Its configuration is the model's choice (log entry 1). -/
def State.reset : State := State.resetOf Dev.kiln16

end Sys2Proof.Machine
end

