-- ==== Sys2Proof/Machine/Ops.lean ====
section
/-! DEFINITION. The named operations over registers, time, free values and interrupts: where each page lies (R572), what a
register holds at reset, field reads and writes, counters, and the setting of IRQ_STAT bits. -/
namespace Sys2Proof.Machine

/-! ### Pages (spec/20_register_pages.md R572) -/

def pgIDENT : Nat := 0x000000
def pgCAPS : Nat := 0x001000
def pgSEMA : Nat := 0x002000
def pgHUB : Nat := 0x020000
def pgREGUL : Nat := 0x030000
def pgHCMD : Nat := 0x040000
def pgHSTATE : Nat := 0x041000
def pgHREAD : Nat := 0x042000
def pgHGUARD : Nat := 0x043000
def pgSYNCCTR : Nat := 0x050000
def pgSYNCTAG : Nat := 0x053000
def pgSYNCBAR : Nat := 0x054000
def pgMOVER : Nat := 0x060000
def pgRIMALU : Nat := 0x070000
def pgCACHE : Nat := 0x080000
def pgLINK : Nat := 0x090000
def pgWINCTL : Nat := 0x0A0000
def pgWINCCH : Nat := 0x0A3000
def pgINTEG : Nat := 0x0B0000
def pgPOWER : Nat := 0x0C0000
def pgMBCTL : Nat := 0x0D0000
def pgREC : Nat := 0x0E0000
def pgTEST : Nat := 0x0F0000
/-- The PORT page of port index x (R170). -/
def portBase (x : Nat) : Nat := 0x010000 + 0x200 * x
/-- The SYNC_RING page of ring i. -/
def ringBase (i : Nat) : Nat := if i < 128 then 0x051000 else 0x052000
/-- The WINDOW_TAB page of window w. -/
def winBase (w : Nat) : Nat := if w < 128 then 0x0A1000 else 0x0A2000
/-- The mailbox ring page of host h: 0 CPA, 1 CPB. -/
def mboxBase (h : Nat) : Nat := 0x0D1000 + 0x1000 * h
/-- The LAYER page of layer n (R62). -/
def layerBase (n : Nat) : Nat := 0x100000 + 0x20000 * n
/-- The RIM page of physical rim p of layer n (R62). -/
def rimBase (n p : Nat) : Nat := layerBase n + 0x1000 * (p + 1)

/-- A page as its offset decodes: its type, instance and base (R572). -/
structure PageAt where
  page : Page
  inst : Nat
  base : Nat
deriving DecidableEq, Repr

/-- The single pages of R572 below the LAYER pages: base, type and instance. -/
def fixedPages : List PageAt :=
  [ ⟨.ident, 0, 0x000000⟩, ⟨.caps, 0, 0x001000⟩, ⟨.sema, 0, 0x002000⟩, ⟨.hub, 0, 0x020000⟩, ⟨.regul, 0, 0x030000⟩,
    ⟨.handleCmd, 0, 0x040000⟩, ⟨.handleState, 0, 0x041000⟩, ⟨.handleRead, 0, 0x042000⟩, ⟨.handleGuard, 0, 0x043000⟩,
    ⟨.syncCtr, 0, 0x050000⟩, ⟨.syncRing, 0, 0x051000⟩, ⟨.syncRing, 1, 0x052000⟩, ⟨.syncTag, 0, 0x053000⟩ ] ++
  [ ⟨.syncBar, 0, 0x054000⟩, ⟨.mover, 0, 0x060000⟩, ⟨.rimalu, 0, 0x070000⟩, ⟨.cache, 0, 0x080000⟩, ⟨.link, 0, 0x090000⟩,
    ⟨.windowCtl, 0, 0x0A0000⟩, ⟨.windowTab, 0, 0x0A1000⟩, ⟨.windowTab, 1, 0x0A2000⟩, ⟨.windowCch, 0, 0x0A3000⟩,
    ⟨.integ, 0, 0x0B0000⟩, ⟨.power, 0, 0x0C0000⟩, ⟨.mailboxCtl, 0, 0x0D0000⟩ ] ++
  [ ⟨.mbox, 0, 0x0D1000⟩, ⟨.mbox, 1, 0x0D2000⟩, ⟨.recorder, 0, 0x0E0000⟩, ⟨.test, 0, 0x0F0000⟩ ]

/-- The page that holds an offset, `none` for a reserved offset (R573). -/
def pageAt (off : Nat) : Option PageAt :=
  if 0x010000 ≤ off ∧ off < 0x019000 then
    let x := (off - 0x010000) / 0x200
    some ⟨.port, x, portBase x⟩
  else if 0x100000 ≤ off ∧ off < 0x200000 then
    let n := (off - 0x100000) / 0x20000
    let k := (off - 0x100000) % 0x20000 / 0x1000
    if k = 0 then some ⟨.layer, n, layerBase n⟩
    else if k ≤ 17 then some ⟨.rim, 17 * n + (k - 1), rimBase n (k - 1)⟩
    else none
  else fixedPages.find? fun p => decide (p.base ≤ off ∧ off < p.base + 0x1000)

/-- Whether a page is present in a configuration (R572, R574). -/
def pagePresent (d : Dev) (p : PageAt) : Bool :=
  match p.page with
  | .port => !(decide (4 ≤ p.inst ∧ p.inst < 8) && d.broad == 4)
  | .cache => d.optC
  | .link | .windowCtl | .windowTab | .windowCch => d.links != 0
  | .layer => decide (p.inst < d.dies)
  | .rim => decide (p.inst / 17 < d.dies)
  | _ => true

/-- The page group of a page (R502, R572); `none` for the MBOX pages. -/
def pageGroup (p : PageAt) : Option Nat :=
  match p.page with
  | .ident | .caps | .sema | .any => some 0
  | .port => some (if p.inst < 8 then 1 else if p.inst < 24 then 2 else if p.inst < 56 then 3 else 4)
  | .hub => some 5
  | .regul => some 6
  | .handleCmd | .handleState | .handleRead | .handleGuard => some 7
  | .syncCtr => some 8
  | .syncRing | .syncTag => some 9
  | .syncBar => some 10
  | .mover => some 11
  | .rimalu => some 12
  | .cache => some 13
  | .link => some 14
  | .windowCtl | .windowTab | .windowCch => some 15
  | .integ => some 16
  | .power => some 17
  | .mailboxCtl => some 18
  | .mbox => none
  | .recorder => some 19
  | .test => some 20
  | .layer => some (21 + p.inst)
  | .rim => some (21 + p.inst / 17)

/-! ### Register rows and reset values -/

/-- Whether a row holds the register at an in-page offset. -/
def RegRow.holds (r : RegRow) (o : Nat) : Bool :=
  (List.range r.m).any fun j =>
    let q := o - r.off - r.mt * j
    decide (r.off + r.mt * j ≤ o) && (if r.n = 1 then q == 0 else q % r.st == 0 && decide (q / r.st < r.n))

/-- The row of the register at an in-page offset: the common header below 0x40 (R577), then the page's own rows. -/
def rowAt (p : Page) (o : Nat) : Option RegRow :=
  (if o < 0x40 then rowsAny else pageRows p).find? (·.holds o)

/-- The kind of port x: 0 broad, 1 narrow, 2 stream, 3 mover channel (R133). -/
def portKind (x : Nat) : Nat := if x < 8 then 0 else if x < 24 then 1 else if x < 56 then 2 else 3
/-- The host core of port x (R18); stream ports have none. -/
def portCore (x : Nat) : Nat := if x < 8 then x else if x < 24 then (x - 8) / 2 else (x - 56) / 2
/-- Tags of port x (R132). -/
def portTags (x : Nat) : Nat := if x < 8 then 64 else if x < 24 then 32 else if x < 56 then 16 else 0

/-- CRC-32C of R219 over the reset TID table: TCFG holds CLASS 2 and SHARE 0xFFF, TBUD 0xFFFF_FFFF. -/
def resetTableSig : Nat :=
  crcBytes 0xFFFFFFFF ((List.range 64).foldl (fun a _ => a * 2 ^ 64 + (0x00FFF200 + 2 ^ 32 * 0xFFFFFFFF)) 0) 512 ^^^ 0xFFFFFFFF

/-- The units present, one bit per power domain of R473: 0 to 135 rims, 136 to 167 sector peripheries, 168 and 169 the Hub
planes, 170 to 177 broad ports, 178 and 179 narrow groups, 180 and 181 stream groups, 182 to 185 mover engines, 186 to 189
link ports, 190 the synchronisation plane, 191 and 192 the Emlar cores, 193 the cache controller, 194 the recorder. -/
def domPresent (d : Dev) (n : Nat) : Bool :=
  if n < 136 then decide (n / 17 < d.dies)
  else if n < 168 then decide ((n - 136) / 4 < d.dies)
  else if n < 170 then true
  else if n < 178 then decide (n - 170 < d.broad)
  else if n < 186 then true
  else if n < 190 then decide (n - 186 < d.links)
  else if n = 193 then d.optC
  else decide (n ≤ 194)

/-- Word w of the map of present domains. -/
def domWord (d : Dev) (w : Nat) : Nat :=
  (List.range 32).foldl (fun a b => a + b2n (domPresent d (32 * w + b)) * 2 ^ b) 0

/-- Domains that are on after reset (R476 and the power chapter): every present one. -/
def domResetWord (d : Dev) (w : Nat) : Nat := domWord d w

/-- The page types with a page present (CAPS.PTYPE_PRES). -/
def ptypePres (d : Dev) : Nat :=
  0x3FFFFFFE - b2n (!d.optC) * 2 ^ 17 - b2n (d.links == 0) * (2 ^ 18 + 2 ^ 19 + 2 ^ 20 + 2 ^ 21)

/-- The reset words that the register tables give in words ("by page", "by kind", "fused", ...). -/
def resetSpecial (d : Dev) (p : PageAt) (o : Nat) : Option Nat :=
  match p.page with
  | .ident =>
    if o = IDENT_ID1 then some (Config.fusedStepping.toNat * 2 ^ 16 + 0x100)
    else if o = IDENT_UID_LO then some (deviceUid % 2 ^ 32)
    else if o = IDENT_UID_HI then some (deviceUid / 2 ^ 32)
    else none
  | .caps =>
    if o = CAPS_CFG then
      some ((b2n d.optC + 2 * b2n d.optA + 4 * b2n d.optT + 8 * b2n d.optN) * 2 ^ 16 + d.links * 2 ^ 8 + d.broad * 16 + d.dies)
    else if o = CAPS_COUNTS then some (16 * d.dies * 2 ^ 24 + 17 * d.dies * 2 ^ 16 + 4 * d.dies * 2 ^ 8 + d.dies)
    else if o = CAPS_CAPACITY then some ((64 + 128 * (d.dies - 1)) * 2 ^ 22 + (8192 + 16384 * (d.dies - 1)))
    else if o = CAPS_BP_PRES then some (2 ^ d.broad - 1)
    else if o = CAPS_LAYER_PRES then some (2 ^ d.dies - 1)
    else if o = CAPS_LINK_PRES then some (2 ^ d.links - 1)
    else if o = CAPS_UNIT_PRES then
      some (16 * b2n (d.links != 0) + 8 * b2n d.optN + 4 * b2n d.optT + 2 * b2n d.optA + b2n d.optC)
    else if o = CAPS_PTYPE_PRES then some (ptypePres d)
    else none
  | .port =>
    if o = PORT_PORT_ID then
      let x := p.inst
      some (portTags x * 2 ^ 24 + (if portKind x = 2 then 0 else portCore x * 2 ^ 16 + 2 ^ 15) + x * 2 ^ 8 + portKind x)
    else if o = PORT_PCTL then
      some ((if portKind p.inst = 0 then 64 * 2 ^ 16 else 0) + (if portKind p.inst = 2 then 7 * 2 ^ 4 else 0))
    else if o = PORT_LENS_CTL then some (b2n (decide (portKind p.inst < 2)))
    else if o = PORT_LENS_SEED then some (b2n (decide (portKind p.inst < 2)))
    else none
  | .regul =>
    if o = REGUL_TABLE_SIG then some resetTableSig
    else if REGUL_HEDGE ≤ o ∧ o < REGUL_HEDGE + 32 then
      let e := [16, 24, 32, 48, 64, 96, 128, 192, 256, 384, 512, 1024, 2048, 8192, 32768]
      let k := (o - REGUL_HEDGE) / 4
      some (e.getD (2 * k) 0 + 2 ^ 16 * e.getD (2 * k + 1) 0)
    else none
  | .rimalu => if o = RIMALU_RA_ID then some ((if d.optA then 8 * 2 ^ 8 + 1 else 0) + 4 * 2 ^ 4) else none
  | .mover => if o = MOVER_MV_ID then some (b2n d.optT * 2 ^ 16 + 16 * 2 ^ 8 + 4) else none
  | .syncCtr =>
    if o = SYNC_CTR_SY_ID then some (255 * 2 ^ 24 + 128 * 2 ^ 16 + 64 * 2 ^ 9 + 48 * 8 + b2n (d.links != 0) * 4) else none
  | .link => if o = LINK_LK_ID then some d.links else none
  | .power =>
    if o = POWER_PW_ID then some (4 * d.dies * 2 ^ 8 + 195)
    else if POWER_DOM_ON ≤ o ∧ o < POWER_DOM_ON + 28 then some (domResetWord d ((o - POWER_DOM_ON) / 4))
    else if POWER_DOM_PRES ≤ o ∧ o < POWER_DOM_PRES + 28 then some (domWord d ((o - POWER_DOM_PRES) / 4))
    else if o = POWER_GRANT then some 0xFFFFF
    else if o = POWER_FLOOR then some 500
    else if POWER_EC ≤ o ∧ o < POWER_EC + 40 then some (Config.fusedCost ((o - POWER_EC) / 4)).toNat
    else none
  | .mailboxCtl =>
    if MAILBOX_CTL_FAB_PRIO_LO ≤ o ∧ o < MAILBOX_CTL_FAB_PRIO_LO + 40 then
      let m := (o - MAILBOX_CTL_FAB_PRIO_LO) / 8
      some (if m < 2 then 0x55555555 else if m < 4 then 0xAAAAAAAA else 0)
    else none
  | .recorder => if o = RECORDER_RC_ID then some (b2n d.optN * 2 ^ 31 + 8 * 2 ^ 20 + 32 * 2 ^ 14 + 2047) else none
  | .test =>
    if o = TEST_SVC_NONCE_LO then some ((Config.freeValue 0).toNat % 2 ^ 32)
    else if o = TEST_SVC_NONCE_HI then some ((Config.freeValue 0).toNat / 2 ^ 32 % 2 ^ 32)
    else if o = TEST_LC_STAT then some (2 * 2 ^ 29)
    else none
  | .layer =>
    if o = LAYER_LAYER_GEOM then some (if p.inst = 0 then 8192 else 2 ^ 16 + 16384)
    else if LAYER_RIM_MAP ≤ o ∧ o < LAYER_RIM_MAP + 16 then
      let k := (o - LAYER_RIM_MAP) / 4
      some ((4 * k + 3) * 2 ^ 24 + (4 * k + 2) * 2 ^ 16 + (4 * k + 1) * 2 ^ 8 + 4 * k)
    else if o = LAYER_DRG_STAT then some (if p.inst = 0 then 0xF * 2 ^ 26 else 0)
    else none
  | .rim =>
    if o = RIM_RIM_ID then
      let n := p.inst / 17
      let q := p.inst % 17
      some (n * 2 ^ 13 + q * 2 ^ 8 + (if q < 16 then q * 16 + q / 4 * 4 + 2 else 1))
    else none
  | _ => none

/-- What a register holds at reset (R11, R12 and the register tables). -/
def resetWord (d : Dev) (off : Nat) : Word32 :=
  match pageAt off with
  | none => 0
  | some p =>
    if !pagePresent d p then 0
    else match resetSpecial d p (off - p.base) with
      | some w => BitVec.ofNat 32 w
      | none => match rowAt p.page (off - p.base) with
        | none => 0
        | some r => BitVec.ofNat 32 (r.fields.foldl (fun a f => a + f.rst * 2 ^ f.lo) 0)

/-! ### Register words and fields -/

/-- The word a register holds. -/
def State.rd (s : State) (off : Nat) : Word32 := Sp.get (resetWord s.cfg off) s.regs off
/-- The state with the word of a register replaced. -/
def State.wr (s : State) (off : Nat) (w : Word32) : State := { s with regs := Sp.set s.regs off w }
/-- A field of a word, as a number. -/
def Fld.of (f : Fld) (w : Word32) : Nat := bits w.toNat f.hi f.lo
/-- A word with a field replaced. -/
def Fld.into (f : Fld) (w : Word32) (v : Nat) : Word32 :=
  let n := 2 ^ (f.hi + 1 - f.lo)
  BitVec.ofNat 32 (w.toNat - bits w.toNat f.hi f.lo * 2 ^ f.lo + v % n * 2 ^ f.lo)
/-- A field of the register of a page. -/
def State.get (s : State) (base : Nat) (f : Fld) : Nat := f.of (s.rd (base + f.off))
/-- The state with a field of a register of a page replaced. -/
def State.put (s : State) (base : Nat) (f : Fld) (v : Nat) : State :=
  s.wr (base + f.off) (f.into (s.rd (base + f.off)) v)
/-- A one-bit field. -/
def State.flag (s : State) (base : Nat) (f : Fld) : Bool := s.get base f == 1
/-- A field counted up by `n`, wrapping at its width. -/
def State.bump (s : State) (base : Nat) (f : Fld) (n : Nat := 1) : State := s.put base f (s.get base f + n)
/-- A field counted up by `n`, staying at its largest value. -/
def State.bumpSat (s : State) (base : Nat) (f : Fld) (n : Nat := 1) : State :=
  s.put base f (min (s.get base f + n) (2 ^ (f.hi + 1 - f.lo) - 1))
/-- A field lowered by `n`, not below 0. -/
def State.drop (s : State) (base : Nat) (f : Fld) (n : Nat := 1) : State := s.put base f (s.get base f - n)

/-! ### Sequencing, free values, interrupts -/

/-- A change applied only where a condition holds. -/
def State.cond (s : State) (c : Bool) (f : State → State) : State := if c then f s else s
/-- A change applied for each element of a list, in order. -/
def State.each {α : Type} (s : State) (l : List α) (f : State → α → State) : State := l.foldl f s

/-- The next free value, and the state with it drawn. -/
def State.draw (s : State) : Nat × State := ((Config.freeValue s.freeCtr).toNat, { s with freeCtr := s.freeCtr + 1 })

/-! ### Recorder triggers and interrupts (R512, R532, R537, R581) -/

/-- CFG, ARG0 of recorder trigger n; both are 0 at reset. -/
def trgCfg (s : State) (n : Nat) : Nat := (Sp.get 0 s.regs (pgREC + RECORDER_TRG_CFG + 16 * n)).toNat
def trgArg0 (s : State) (n : Nat) : Nat := (Sp.get 0 s.regs (pgREC + RECORDER_TRG_ARG0 + 16 * n)).toNat
/-- Enabled triggers of a KIND. -/
def triggers (s : State) (kind : Nat) : List Nat :=
  (List.range 32).filter fun n => let c := trgCfg s n; bit c 31 && bits c 25 23 == kind
/-- IRQ_STAT bit k of a page set, without its triggers. -/
def State.irqBit (s : State) (base k : Nat) : State :=
  s.wr (base + HDR_IRQ_STAT) (s.rd (base + HDR_IRQ_STAT) ||| BitVec.ofNat 32 (2 ^ k))
/-- A trigger fires (R532): counted, and waiting for a slot where the recorder takes it. Answers whether it was missed: sixteen
already wait, or the recorder is FULL (R537). A recorder that is DISABLED or DRAINING ignores it (R531). -/
def State.fire (s : State) (n info aux : Nat) : Bool × State :=
  let st := s.get pgREC RECORDER_RC_STAT_STATE
  if st = 0 ∨ st = 4 then (false, s)
  else
    let s := s.bump pgREC (RECORDER_TRG_HITS_COUNT.at 16 n)
    if st = 3 ∨ 16 ≤ s.recd.waiting.length then (true, s.bumpSat pgREC RECORDER_RC_MISSED_COUNT)
    else (false, { s with recd := { s.recd with waiting := s.recd.waiting ++ [⟨n, s.now, s.pcNow, info, aux⟩] } })
/-- The ERROR triggers of a bit of a page's IRQ_STAT that has risen. Answers whether one was missed. -/
def State.fireErrors (s : State) (base k : Nat) : Bool × State :=
  let page := (base + HDR_IRQ_STAT) / 4096
  ((triggers s 1).filter fun n => bits (trgCfg s n) 8 0 == page && bit (trgArg0 s n) k).foldl
    (fun (acc : Bool × State) n =>
      let (m, s) := acc.2.fire n (acc.2.rd (base + HDR_IRQ_STAT)).toNat page
      (acc.1 || m, s)) (false, s)
/-- The recorder has missed a trigger: its IRQ_STAT bit 2, whose own ERROR triggers are missed with it. -/
def State.missed (s : State) : State :=
  if (s.rd (pgREC + HDR_IRQ_STAT)).toNat.testBit 2 then s else ((s.irqBit pgREC 2).fireErrors pgREC 2).2
/-- A trigger fires, with the interrupt of a missed one. -/
def State.trigger (s : State) (n info aux : Nat) : State :=
  let (m, s) := s.fire n info aux
  s.cond m State.missed
/-- Bit k of a page's IRQ_STAT is set by its event (R512, R581), with the recorder's ERROR triggers on its rise (R532). -/
def State.irq (s : State) (base k : Nat) : State :=
  if (s.rd (base + HDR_IRQ_STAT)).toNat.testBit k then s
  else
    let (m, s) := (s.irqBit base k).fireErrors base k
    s.cond m State.missed

/-- EMERGENCY holds (R495). -/
def emergency (s : State) : Bool := s.flag pgPOWER POWER_EMG_STAT_ACTIVE

/-- The low 32 and high 32 bits of a 64-bit number into two registers. -/
def State.put64 (s : State) (lo hi : Nat) (v : Nat) : State :=
  (s.wr lo (BitVec.ofNat 32 v)).wr hi (BitVec.ofNat 32 (v / 2 ^ 32))

/-- A value in a sparse map of the state, with its default. -/
def portOf (s : State) (x : Nat) : PortSt := Sp.get {} s.ports x
/-- The state with a port's structure changed. -/
def State.port (s : State) (x : Nat) (f : PortSt → PortSt) : State :=
  { s with ports := Sp.set s.ports x (f (portOf s x)) }
/-- A physical rim's structure. -/
def rimOf (s : State) (n p : Nat) : RimSt := Sp.get {} s.rims (17 * n + p)
/-- The state with a physical rim's structure changed. -/
def State.rim (s : State) (n p : Nat) (f : RimSt → RimSt) : State :=
  { s with rims := Sp.set s.rims (17 * n + p) (f (rimOf s n p)) }
/-- A TID's counters. -/
def tidOf (s : State) (t : Nat) : TidCnt := Sp.get {} s.regul.cnt t
/-- The state with a TID's counters changed. -/
def State.tidCnt (s : State) (t : Nat) (f : TidCnt → TidCnt) : State :=
  { s with regul := { s.regul with cnt := Sp.set s.regul.cnt t (f (tidOf s t)) } }

end Sys2Proof.Machine
end

