-- ==== Sys2Proof/Machine/Gate.lean ====
section
/-! DEFINITION. Who may write a register (spec/17_control_and_firmware.md R502 to R511, spec/19_test.md R555, R557,
spec/20_register_pages.md R573, R574, R578, R582, spec/21_integration.md R607): the one gate that every register write of
a master passes, and the record of a flagged write. -/
namespace Sys2Proof

/-- The code of a master in ERR_INFO and FAB_STAT (R529, R577). -/
def Master.code : Master → Nat
  | .cpa => 0 | .cpb => 1 | .em0 => 2 | .em1 => 3 | .dbg => 4
/-- A control port. -/
def Master.isCp : Master → Bool
  | .cpa | .cpb => true
  | _ => false
/-- An Emlar core. -/
def Master.isEm : Master → Bool
  | .em0 | .em1 => true
  | _ => false
/-- The holder code of a master in the SEMA page; the Emlar cores never hold a semaphore (R508, R509). -/
def Master.holder : Master → Nat
  | .cpa => 1 | .cpb => 2 | .dbg => 3 | _ => 0

end Sys2Proof

namespace Sys2Proof.Machine

/-- The lifecycle state in force: 0 FAB, 1 TEST, 2 DEPLOY, 3 SERVICE, 4 RETIRED (R554, R571). -/
def lcState (s : State) : Nat := s.get pgTEST TEST_LC_STAT_STATE
/-- The device is PARKED (R167, R192, R557). -/
def parked (s : State) : Bool := s.get pgHUB HUB_PLANE_STAT_MODE == 3 || lcState s == 4
/-- The owner of semaphore g: 0 none, 1 CPA, 2 CPB, 3 DBG (R586). -/
def semOwner (s : State) (g : Nat) : Nat :=
  let off := pgSEMA + (if g < 16 then SEMA_SEM_OWN0 else SEMA_SEM_OWN1)
  bits (s.rd off).toNat (2 * (g % 16) + 1) (2 * (g % 16))
/-- The state with the owner of a semaphore replaced. -/
def State.setOwner (s : State) (g v : Nat) : State :=
  let f : Fld := ⟨if g < 16 then SEMA_SEM_OWN0 else SEMA_SEM_OWN1, 2 * (g % 16) + 1, 2 * (g % 16)⟩
  s.put pgSEMA f v

/-- The fabric has a path for a write (R503), in the lifecycle state in force (R555, R557). -/
def writePath (s : State) (m : Master) (p : PageAt) : Bool :=
  let g := (pageGroup p).getD 32
  let lc := lcState s
  if m = .dbg ∧ (lc = 2 ∨ lc = 4) then false
  else if lc = 4 ∧ !(g == 0 || g == 20) then false
  else match m with
    | .cpa => !(p.page == .mbox && p.inst == 1)
    | .cpb => !(p.page == .mbox && p.inst == 0)
    | .em0 => p.page == .mbox || g == 17 || g == 18 || g == 19
    | .em1 => p.page == .mbox || g == 11 || (14 ≤ g && g ≤ 16) || g == 18 || (20 ≤ g && g ≤ 28)
    | .dbg => p.page != .mbox
/-- The fabric has a path for a read (R503), in the lifecycle state in force (R555, R557). -/
def readPath (s : State) (m : Master) (p : PageAt) : Bool :=
  let g := (pageGroup p).getD 32
  let lc := lcState s
  if m = .dbg ∧ lc = 2 then false else !(lc == 4 && !(g == 0 || g == 20))

/-- State of an Emlar core: 0 HALTED, 1 LOADING, 2 RUN, 3 RESTART (R513). -/
def emState (s : State) (n : Nat) : Nat := s.get pgMBCTL (MAILBOX_CTL_EM_STAT_STATE.at 4 n)
/-- An Emlar core runs. -/
def emRuns (s : State) (n : Nat) : Bool := emState s n == 2
/-- The master makes accesses: an Emlar core only while it runs (R513). -/
def masterRuns (s : State) (m : Master) : Bool := !m.isEm || emRuns s (m.code - 2)

/-- The access of a master is not held: that of a control port at the fabric while the boot self-test, which a RETIRED device does
not run, has not ended (R559, R607); that of a core that does not run. -/
def fabricReady (s : State) (m : Master) (p : PageAt) : Bool :=
  if m.isEm then masterRuns s m else !m.isCp || (s.fuseLoaded &&
    (s.flag pgTEST TEST_BST_STAT_DONE || lcState s == 4 || p.page == .ident || p.page == .caps || p.page == .test))

/-- A master's access can be made: it is not held, and no transaction of the master is outstanding (R501). -/
def fabricOpen (s : State) (m : Master) (p : PageAt) : Bool := fabricReady s m p && !(s.fab.bursts.any fun e => e.1 == m.code)

/-- A flagged write is recorded at its page (R577, R578): cause 1 NOT_OWNER, 2 NO_PATH, 3 REFUSED. -/
def State.flagPage (s : State) (m : Master) (base off cause : Nat) : State :=
  let s := s.wr (base + HDR_ERR_INFO) (BitVec.ofNat 32 (2 ^ 31 + m.code * 2 ^ 28 + cause * 2 ^ 24))
  let s := s.wr (base + HDR_ERR_ADDR) (BitVec.ofNat 32 off)
  s.bumpSat base HDR_VIOL_CNT_COUNT

/-- A write ignored under R503, R508 or R509 is recorded in MAILBOX.FAB_STAT when a control port or DBG made it. -/
def State.fabStat (s : State) (m : Master) (off : Nat) : State :=
  s.cond (!m.isEm) fun s =>
    let s := s.wr (pgMBCTL + MAILBOX_CTL_FAB_STAT) (BitVec.ofNat 32 (2 ^ 31 + m.code * 2 ^ 24 + off))
    (s.bumpSat pgMBCTL MAILBOX_CTL_FAB_VIOL_CNT_COUNT).irq pgMBCTL 3

/-- A write refused by its page's chapter: CAUSE 3 (R578). -/
def State.refused (s : State) (m : Master) (base reg : Nat) : State := s.flagPage m base (base + reg) 3

/-- A write of a master to the register `reg` of the page at `base`: what it does when the fabric performs it. `owned` asks
for the page group's owner, as a write of an RWO field does (R509). -/
def State.gate (s : State) (m : Master) (base reg : Nat) (owned : Bool) (act : State → State) : State :=
  let off := base + reg
  match pageAt off with
  | none => s
  | some p =>
    if !fabricOpen s m p then s
    else if !pagePresent s.cfg p then s
    else if !writePath s m p then (s.flagPage m p.base off 2).fabStat m off
    else match pageGroup p with
      | some g =>
        if owned && !m.isEm && semOwner s g != m.holder then (s.flagPage m p.base off 1).fabStat m off else act s
      | none => act s

/-- A master may write the RWO fields of a page's group (R509). -/
def ownsPage (s : State) (m : Master) (p : PageAt) : Bool :=
  m.isEm || match pageGroup p with
    | some g => semOwner s g == m.holder
    | none => true

/-- The fields of the register `reg` of the page at `base` written by their access codes (R11): RW, WO, RW1C, and RWO by
the owner. W1S fields are left to the register's own meaning; a write that names RWO fields of another owner is flagged
(R509). -/
def State.setFields (s : State) (m : Master) (base reg : Nat) (w : Word32) : State :=
  match pageAt (base + reg) with
  | none => s
  | some p => match rowAt p.page reg with
    | none => s
    | some r =>
      let own := ownsPage s m p
      let s := s.each r.fields fun s (f : FieldRow) =>
        let fl : Fld := ⟨reg, f.hi, f.lo⟩
        match f.acc with
        | .rw | .wo => s.put base fl (fl.of w)
        | .rwo => s.cond own fun s => s.put base fl (fl.of w)
        | .rw1c => let old := s.get base fl
          s.put base fl (old - (old &&& fl.of w))
        | _ => s
      s.cond (!own && r.fields.any fun (f : FieldRow) => f.acc == .rwo) fun s =>
        (s.flagPage m base (base + reg) 1).fabStat m (base + reg)

/-- The CR beats of a master's piece (R499). -/
def State.answerMaster (s : State) (m : Master) (l : List (Nat × Nat)) : State := { s with reply := Sp.set s.reply m.code l }

end Sys2Proof.Machine
end

