-- ==== Sys2Proof/Machine/Formats.lean ====
section
/-! DEFINITION. Element formats and their conversions (spec/04_formats_and_lens.md R101 to R122): exact values of codes,
rounding to nearest even, stochastic rounding with the generator of R119, MX blocks, and the lens conversions of a run of
elements. Values are exact (a sign, a magnitude and a power of two), and are narrowed once, at the end. -/
namespace Sys2Proof.Machine

/-- The exact value of an element: `fin neg m e` is (-1)^neg * m * 2^e. -/
inductive FVal where
  | nan
  | inf (neg : Bool)
  | fin (neg : Bool) (m : Nat) (e : Int)
deriving DecidableEq, Repr

/-- A floating-point format (R104): field widths, bias, the greatest finite exponent and mantissa fields, whether it has
an infinity, and its canonical NaN code. -/
structure FFmt where
  ebits : Nat
  mbits : Nat
  bias  : Nat
  maxE  : Nat
  maxM  : Nat
  hasInf : Bool
  nanCode : Option Nat
deriving DecidableEq, Repr

def fmtE2M1 : FFmt := { ebits := 2, mbits := 1, bias := 1, maxE := 3, maxM := 1, hasInf := false, nanCode := none }
def fmtE4M3 : FFmt := { ebits := 4, mbits := 3, bias := 7, maxE := 15, maxM := 6, hasInf := false, nanCode := some 0x7F }
def fmtE5M2 : FFmt := { ebits := 5, mbits := 2, bias := 15, maxE := 30, maxM := 3, hasInf := true, nanCode := some 0x7E }
def fmtBF16 : FFmt := { ebits := 8, mbits := 7, bias := 127, maxE := 254, maxM := 127, hasInf := true, nanCode := some 0x7FC0 }
def fmtF16 : FFmt := { ebits := 5, mbits := 10, bias := 15, maxE := 30, maxM := 1023, hasInf := true, nanCode := some 0x7E00 }
def fmtF32 : FFmt :=
  { ebits := 8, mbits := 23, bias := 127, maxE := 254, maxM := 2 ^ 23 - 1, hasInf := true, nanCode := some 0x7FC00000 }

/-- Width of a format's code. -/
def FFmt.width (f : FFmt) : Nat := 1 + f.ebits + f.mbits
/-- The exponent of the last place of subnormals. -/
def FFmt.qmin (f : FFmt) : Int := 1 - (f.bias : Int) - (f.mbits : Int)

/-- The value of a code (R104). -/
def FFmt.decode (f : FFmt) (c : Nat) : FVal :=
  let neg := bit c (f.ebits + f.mbits)
  let E := bits c (f.ebits + f.mbits - 1) f.mbits
  let M := c % 2 ^ f.mbits
  if E = 0 then .fin neg M f.qmin
  else if E > f.maxE ∨ (E = f.maxE ∧ M > f.maxM) then
    if f.hasInf && M == 0 then .inf neg else .nan
  else .fin neg (M + 2 ^ f.mbits) (f.qmin + (E - 1 : Nat))

/-- How a value is rounded: to nearest even, or stochastically with the drawn 16-bit number (R117, R118). -/
inductive RMode where
  | rne
  | sr (rnd : Nat)
deriving DecidableEq, Repr

/-- `m * 2^e` in units of `2^q`, with what the rounding needs: the whole part, and the rest over `2^d`. -/
def toUnits (m : Nat) (e q : Int) : Nat × Nat × Nat :=
  if q ≤ e then (m * 2 ^ (e - q).toNat, 0, 0)
  else let d := (q - e).toNat; (m >>> d, m % 2 ^ d, d)

/-- A magnitude in units of 2^q, rounded to a whole number of units. -/
def roundUnits (mode : RMode) (n rem d : Nat) : Nat :=
  if rem = 0 then n
  else match mode with
    | .rne => if 2 * rem > 2 ^ d ∨ (2 * rem = 2 ^ d ∧ n % 2 = 1) then n + 1 else n
    | .sr rnd => if rnd < (65536 * rem) / 2 ^ d then n + 1 else n

/-- The exponent of the last place of `m * 2^e` in format `f`: subnormals share the smallest. -/
def FFmt.unit (f : FFmt) (m : Nat) (e : Int) : Int :=
  max f.qmin ((Nat.log2 m : Int) + e - (f.mbits : Int))

/-- A nonzero magnitude rounded to the format: the code's exponent and mantissa fields together, `none` on overflow. -/
def FFmt.roundMag (f : FFmt) (mode : RMode) (m : Nat) (e : Int) : Option Nat :=
  if m = 0 then some 0
  else
    let q := f.unit m e
    let (n, rem, d) := toUnits m e q
    let n := roundUnits mode n rem d
    let up := n == 2 ^ (f.mbits + 1)
    let nq : Nat × Int := if up then (2 ^ f.mbits, q + 1) else (n, q)
    if nq.1 < 2 ^ f.mbits then some nq.1
    else
      let E := (nq.2 - f.qmin).toNat + 1
      let M := nq.1 - 2 ^ f.mbits
      if E > f.maxE ∨ (E = f.maxE ∧ M > f.maxM) then none else some (E * 2 ^ f.mbits + M)

/-- Whether a magnitude is exactly representable in the format (R118, R119): on its grid, and no more than its largest finite
value. -/
def FFmt.exact (f : FFmt) (m : Nat) (e : Int) : Bool :=
  m == 0 || ((toUnits m e (f.unit m e)).2.1 == 0 && (f.roundMag .rne m e).isSome)
/-- Whether a number is exactly representable as an int8. -/
def exactInt8 (neg : Bool) (m : Nat) (e : Int) : Bool :=
  let (n, rem, _) := toUnits m e 0
  rem == 0 && decide (n ≤ if neg then 128 else 127)
/-- The sign bit of a code. -/
def FFmt.signBit (f : FFmt) (neg : Bool) : Nat := b2n neg * 2 ^ (f.ebits + f.mbits)
/-- The code of the largest finite value. -/
def FFmt.maxCode (f : FFmt) (neg : Bool) : Nat := f.signBit neg + f.maxE * 2 ^ f.mbits + f.maxM
/-- The code of an infinity. -/
def FFmt.infCode (f : FFmt) (neg : Bool) : Nat := f.signBit neg + (2 ^ f.ebits - 1) * 2 ^ f.mbits

/-- An element code and whether the element counts as saturated (LENS_SAT, RA_SAT) or as NaN (LENS_NAN, RA_NAN). -/
structure Conv where
  code : Nat
  sat  : Bool
  nan  : Bool
deriving DecidableEq, Repr

/-- A value narrowed to a format. `satFin` says a finite overflow gives the largest finite value, else infinity
(R115, R120); an infinite input gives infinity when `keepInf`, else the largest finite value. -/
def FFmt.narrow (f : FFmt) (mode : RMode) (satFin keepInf : Bool) (v : FVal) : Conv :=
  match v with
  | .nan => { code := f.nanCode.getD 0, sat := false, nan := true }
  | .inf neg =>
    if keepInf && f.hasInf then { code := f.infCode neg, sat := false, nan := false }
    else { code := f.maxCode neg, sat := true, nan := false }
  | .fin neg m e =>
    match f.roundMag mode m e with
    | some c => { code := f.signBit neg + c, sat := false, nan := false }
    | none =>
      if satFin || !f.hasInf then { code := f.maxCode neg, sat := true, nan := false }
      else { code := f.infCode neg, sat := true, nan := false }

/-- A value narrowed to IEEE infinity-on-overflow form (bf16, binary32 results). -/
def FFmt.ieee (f : FFmt) (v : FVal) : Conv := f.narrow .rne false true v

/-- A value rounded to an integer in [lo, hi], with its clamp (R120). NaN gives 0. -/
def narrowInt (mode : RMode) (lo hi : Int) (v : FVal) : Int × Bool × Bool :=
  match v with
  | .nan => (0, false, true)
  | .inf neg => ((if neg then lo else hi), true, false)
  | .fin neg m e =>
    let (n, rem, d) := toUnits m e 0
    let n : Int := roundUnits mode n rem d
    let x := if neg then -n else n
    if x < lo then (lo, true, false) else if x > hi then (hi, true, false) else (x, false, false)

/-- An integer as an exact value. -/
def FVal.ofInt (x : Int) : FVal := .fin (decide (x < 0)) x.natAbs 0

/-- A value times 2^k. -/
def FVal.scale (v : FVal) (k : Int) : FVal :=
  match v with
  | .fin n m e => .fin n m (e + k)
  | v => v

/-! ### Format codes of R70 -/

def FMT_RAW : Nat := 0
def FMT_INT4 : Nat := 1
def FMT_INT8 : Nat := 2
def FMT_INT32 : Nat := 3
def FMT_E4M3 : Nat := 4
def FMT_E5M2 : Nat := 5
def FMT_BF16 : Nat := 6
def FMT_F16 : Nat := 7
def FMT_F32 : Nat := 8
def FMT_MXFP4 : Nat := 9
def FMT_MXE4M3 : Nat := 10
def FMT_MXE5M2 : Nat := 11
def FMT_MXINT8 : Nat := 12

/-- The MX formats (R70). -/
def isMX (fmt : Nat) : Bool := decide (9 ≤ fmt ∧ fmt ≤ 12)

/-- Bits per element (R101, R104). RAW is bytes. A reserved LENS 13 to 15, for which the spec gives no width, counts as
8 bits (DESIGN CHOICE, log entry 12). -/
def fmtWidth (fmt : Nat) : Nat :=
  if fmt = 1 ∨ fmt = 9 then 4
  else if fmt = 6 ∨ fmt = 7 then 16
  else if fmt = 3 ∨ fmt = 8 then 32
  else 8

/-- The value of one element code, MX element formats without their scale (R104, R105). -/
def elemValue (fmt c : Nat) : FVal :=
  if fmt = 1 then .ofInt (signed 4 c)
  else if fmt = 2 then .ofInt (signed 8 c)
  else if fmt = 3 then .ofInt (signed 32 c)
  else if fmt = 4 ∨ fmt = 10 then fmtE4M3.decode c
  else if fmt = 5 ∨ fmt = 11 then fmtE5M2.decode c
  else if fmt = 6 then fmtBF16.decode c
  else if fmt = 7 then fmtF16.decode c
  else if fmt = 8 then fmtF32.decode c
  else if fmt = 9 then fmtE2M1.decode c
  else if fmt = 12 then (FVal.ofInt (signed 8 c)).scale (-6)
  else .fin false c 0

/-- The pairings of R110: `write = false` is a read of the stored format into the engine format. -/
def lensPair (write : Bool) (stored engine : Nat) : Bool :=
  if write then
    (stored == 4 || stored == 5 || stored == 2 || isMX stored) && (engine == 6 || engine == 8)
  else
    ((stored == 9 || stored == 10 || stored == 11) && (engine == 6 || engine == 4 || engine == 5))
      || (stored == 12 && engine == 6) || (stored == 1 && engine == 2)
      || ((stored == 4 || stored == 5) && engine == 6)

/-- One element converted on read (R114, R115); `scale` is its block's scale byte for an MX format. -/
def readElem (stored engine c scale : Nat) : Conv :=
  if stored = 1 then { code := unsigned 8 (signed 4 c), sat := false, nan := false }
  else
    let v := if isMX stored then
        (if scale = 0xFF then .nan else (elemValue stored c).scale ((scale : Int) - 127))
      else elemValue stored c
    if engine = 6 then fmtBF16.narrow .rne false true v
    else if engine = 4 then fmtE4M3.narrow .rne true false v
    else fmtE5M2.narrow .rne true false v

/-- One step of the generator of R119, with a state of zero replaced first. -/
def lfsrStep (state : Nat) : Nat :=
  let s := if state = 0 then 1 else state
  if s % 2 = 1 then (s >>> 1) ^^^ 0x80200003 else s >>> 1

/-- One element converted on write into a plain fp8 or int8 element (R117, R118, R120), with the generator's state. An
infinity or NaN that the format has no code for draws no number (DESIGN CHOICE, log entry 12). -/
def writeElem (stored : Nat) (ovf sround : Bool) (v : FVal) (seed : Nat) : Conv × Nat :=
  let f := if stored = 4 then fmtE4M3 else fmtE5M2
  let exact := match v with
    | .fin n m e => if stored = 2 then exactInt8 n m e else f.exact m e
    | _ => true
  let (mode, seed) := if sround && !exact then
      let s := lfsrStep seed
      (RMode.sr (s % 65536), s)
    else (RMode.rne, seed)
  if stored = 2 then
    let (x, sat, _) := narrowInt mode (-128) 127 v
    ({ code := unsigned 8 x, sat := sat, nan := false }, seed)
  else (f.narrow mode (!ovf) ovf v, seed)

/-- The element format of an MX format: emax of R121. -/
def mxEmax (stored : Nat) : Int :=
  if stored = 9 then 2 else if stored = 10 then 8 else if stored = 11 then 15 else 0

/-- `floor(log2)` of a nonzero magnitude. -/
def floorLog2 (m : Nat) (e : Int) : Int := (Nat.log2 m : Int) + e

/-- The exponent e of R121 for a block: the greatest floor(log2) of its nonzero values, less emax, clamped. -/
def mxExp (stored : Nat) (xs : List FVal) : Int :=
  let logs := xs.filterMap fun v => match v with
    | .fin _ m e => if m = 0 then none else some (floorLog2 m e)
    | _ => none
  match logs with
  | [] => 0
  | l :: ls => max (-127) (min 127 (ls.foldl max l - mxEmax stored))

/-- One element of a block quantized with the block exponent `be` (R121). -/
def mxElem (stored : Nat) (sround : Bool) (be : Int) (v : FVal) (seed : Nat) : Conv × Nat :=
  let v := v.scale (-be)
  let f := if stored = 9 then fmtE2M1 else if stored = 10 then fmtE4M3 else fmtE5M2
  let v := if stored = 12 then v.scale 6 else v
  let exact := match v with
    | .fin n m e => if stored = 12 then exactInt8 n m e else f.exact m e
    | _ => true
  let (mode, seed) := if sround && !exact then
      let s := lfsrStep seed
      (RMode.sr (s % 65536), s)
    else (RMode.rne, seed)
  if stored = 12 then
    let (x, sat, _) := narrowInt mode (-128) 127 v
    ({ code := unsigned 8 x, sat := sat, nan := false }, seed)
  else (f.narrow mode true false v, seed)

/-- A list of conversions in order, the generator threaded through them (R119). -/
def convList (f : FVal → Nat → Conv × Nat) : List FVal → Nat → List Conv × Nat
  | [], seed => ([], seed)
  | v :: vs, seed =>
    let (c, seed) := f v seed
    let (cs, seed) := convList f vs seed
    (c :: cs, seed)

/-- A block of R121: its scale byte and its elements. -/
def mxBlock (stored : Nat) (sround : Bool) (xs : List FVal) (seed : Nat) : Nat × List Conv × Nat :=
  if xs.any (fun v => match v with | .fin .. => false | _ => true) then
    (0xFF, xs.map (fun _ => { code := 0, sat := false, nan := true }), seed)
  else
    let be := mxExp stored xs
    let (cs, seed) := convList (mxElem stored sround be) xs seed
    ((be + 127).toNat, cs, seed)

/-! ### Runs of elements, as little-endian numbers -/

/-- The `n` elements of width `w` of a little-endian number, lowest first. -/
def elems (w n x : Nat) : List Nat := (List.range n).map fun i => (x >>> (w * i)) % 2 ^ w

/-- Elements of width `w` packed into a little-endian number. -/
def packElems (w : Nat) : List Nat → Nat
  | [] => 0
  | c :: cs => c % 2 ^ w + 2 ^ w * packElems w cs

end Sys2Proof.Machine
end

