-- ==== Sys2Proof/Machine/Array.lean ====
section
/-! DEFINITION. The storage array: where a frame lies (spec/02_storage_array.md R36 to R51, spec/03_handles.md R74, R75),
the protection class and the valid bits of a segment, and reading and writing one stored word at a physical rim
(spec/15_integrity.md R441 to R449, R458). -/
namespace Sys2Proof.Machine

/-! ### Addresses -/

/-- Frames of data in a layer (R74). -/
def framesIn (n : Nat) : Nat := if n = 0 then 8192 else 16384
/-- The four rim bits that a frame index folds to (R46), and the same fold that turns a linear frame number into a PTA frame
index and back (R49). -/
def foldFrame (f : Nat) : Nat := (f ^^^ (f >>> 4) ^^^ (f >>> 8) ^^^ (f >>> 12)) % 16
/-- The logical rim of PTA frame f (R46). -/
def rimOfFrame (f : Nat) : Nat := foldFrame (f % 16384)
/-- The frame slot of PTA frame f (R46). -/
def slotOfFrame (f : Nat) : Nat := bits f 13 4
/-- A linear frame number and a PTA frame index, either from the other (R49). -/
def linearFrame (p : Nat) : Nat := p / 16 * 16 + foldFrame p
/-- The PTA frame index at a rim and slot: the inverse of R46. -/
def frameAt (rim slot : Nat) : Nat := linearFrame (slot * 16 + rim)
/-- A PTA from its fields (R43). -/
def mkPta (layer frame byte : Nat) : Nat := layer * 2 ^ 27 + frame * 2 ^ 13 + byte
def ptaLayer (a : Nat) : Nat := bits a 29 27
def ptaFrame (a : Nat) : Nat := bits a 26 13
def ptaByte (a : Nat) : Nat := a % 8192
/-- A PTA is in range (R44). -/
def ptaOk (d : Dev) (a : Nat) : Bool :=
  decide (a < 2 ^ 30) && decide (ptaLayer a < d.dies) && !(ptaLayer a == 0 && decide (8192 ≤ ptaFrame a))
/-- The PTA of segment (r, c) of a frame. -/
def segPta (layer frame r c : Nat) : Nat := mkPta layer frame (512 * r + 32 * c)

/-- Frames counted through the layers, layer 0 first (R74). -/
def gpOf (layer p : Nat) : Nat := if layer = 0 then p else 8192 + 16384 * (layer - 1) + p
/-- The layer and place in it of a frame counted through the layers. -/
def ofGp (g : Nat) : Nat × Nat := if g < 8192 then (0, g) else (1 + (g - 8192) / 16384, (g - 8192) % 16384)
/-- Frames of the part. -/
def gpEnd (d : Dev) : Nat := 8192 + 16384 * (d.dies - 1)
/-- The frames of a handle. -/
def Desc.span (d : Desc) : Span :=
  let g := gpOf d.baseLayer d.baseFrame
  { lin := d.linear, lo := g, hi := g + d.extentM1 }
/-- A PTA frame lies in a span. -/
def Span.has (sp : Span) (layer frame : Nat) : Bool :=
  let g := gpOf layer (if sp.lin then linearFrame frame else frame)
  decide (sp.lo ≤ g ∧ g ≤ sp.hi)
/-- Layer and PTA frame index of handle frame i (R74). -/
def Desc.frame (d : Desc) (i : Nat) : Nat × Nat :=
  let (l, p) := ofGp (gpOf d.baseLayer d.baseFrame + i)
  (l, if d.linear then linearFrame p else p)

/-- Physical rim that serves logical rim i of a layer, 31 for none (R50, R63). -/
def physOf (s : State) (layer i : Nat) : Nat :=
  bits (s.rd (layerBase layer + LAYER_RIM_MAP + 4 * (i / 4))).toNat (8 * (i % 4) + 4) (8 * (i % 4))
/-- Role and logical rim of a layer's spare (R51, R63). -/
def spareRole (s : State) (layer : Nat) : Nat := s.get (layerBase layer) LAYER_SPARE_STAT_SPARE_ROLE
def spareFor (s : State) (layer : Nat) : Nat := s.get (layerBase layer) LAYER_SPARE_STAT_SPARE_FOR
/-- Logical rim i of a layer is in service (RIM_UP). -/
def rimUp (s : State) (layer i : Nat) : Bool := bit (s.get (layerBase layer) LAYER_LAYER_STAT_RIM_UP) i
/-- The physical rim that writes of logical rim i are mirrored to: the spare in the roles test copy and evacuating (R51), the
tested rim during the copy back (R563). -/
def mirrorOf (s : State) (layer i : Nat) : Option Nat :=
  if spareFor s layer != i then none
  else if spareRole s layer = 1 ∨ spareRole s layer = 3 then some 16
  else if spareRole s layer = 2 ∧ s.get pgTEST TEST_FT_STAT_PHASE = 3 then some i
  else none
/-- The key of a lost bit (R449). -/
def lostKey (layer p slot : Nat) : Nat := (17 * layer + p) * 1024 + slot
/-- The logical rim that a physical rim holds frames of: its own number, or the one the spare serves or shadows. -/
def logicalOf (s : State) (layer p : Nat) : Nat := if p = 16 then spareFor s layer else p

/-- Index of the stored word of segment (r, c) of a slot of a physical rim. Its bank is (r + c) mod 16 and its bank row
16 * slot + r (R36). -/
def wordIdx (layer p slot r c : Nat) : Nat := ((layer * 17 + p) * 1024 + slot) * 256 + r * 16 + c
/-- Bank of segment (r, c) (R36). -/
def bankOf (r c : Nat) : Nat := (r + c) % 16
/-- Bank row of row r of a slot (R36); the mat that bank row n lies in, and its row in that mat (R35): n[12:8], or n[15:8] in a companion
layer, which has 64 mats. -/
def bankRow (slot r : Nat) : Nat := 16 * slot + r
def matOf (layer n : Nat) : Nat := if layer = 0 then bits n 12 8 else bits n 15 8
def matRow (n : Nat) : Nat := bits n 7 0
/-- The layer, physical rim and slot of a word index. -/
def idxLayer (w : Nat) : Nat := w / 256 / 1024 / 17
def idxRim (w : Nat) : Nat := w / 256 / 1024 % 17
def idxSlot (w : Nat) : Nat := w / 256 % 1024

/-- The protection class of a frame: the latest class written over it, class C at reset (R76). `true` is class D. -/
def classOf (cls : List (Span × Bool)) (layer frame : Nat) : Bool :=
  match cls.find? (fun c => c.1.has layer frame) with
  | some c => c.2
  | none => false

/-! ### Array updates -/

/-- The state with its array changed. -/
def State.arr (s : State) (f : ArraySt → ArraySt) : State := { s with array := f s.array }
/-- The stored word at an index. -/
def wordAt (s : State) (w : Nat) : Stored := BitVec.ofNat 288 (Mem.readN s.array.mem (w * 36) 36)
/-- The state with a stored word replaced. -/
def State.setWord (s : State) (w : Nat) (v : Stored) : State :=
  s.arr fun a => { a with mem := Mem.writeN a.mem (w * 36) v.toNat 36 }
/-- The state with both copies of a valid bit set to a value. -/
def State.setValid (s : State) (w : Nat) (on : Bool) : State :=
  s.arr fun a => { a with validA := NSet.put a.validA w on, validB := NSet.put a.validB w on }
/-- Valid bits of whole frames cleared at every physical rim that `hit` names: layer, physical rim, slot (R448). The lost
bits of the same frames are cleared with them (R449), and their pending write-backs are cancelled (R446). -/
def State.clearFrames (s : State) (hit : Nat → Nat → Nat → Bool) : State :=
  let keep := fun w => !hit (idxLayer w) (idxRim w) (idxSlot w)
  let gone := s.array.wbs.filter fun b => hit b.layer (physOf s b.layer b.rim) (slotOfFrame b.frame)
  let s := s.arr fun a => { a with
    validA := a.validA.filter keep, validB := a.validB.filter keep,
    lost := a.lost.filter (fun k => !hit (k / 1024 / 17) (k / 1024 % 17) (k % 1024)),
    wbs := a.wbs.filter fun b => !hit b.layer (physOf s b.layer b.rim) (slotOfFrame b.frame) }
  s.bumpSat pgINTEG (.word INTEG_WB_CANCEL) gone.length
/-- A frame of a layer held by a physical rim at a slot, as the clears of R448 by frame see it: the rim that serves it, and the
rim that shadows it. -/
def frameHit (s : State) (want : Nat → Nat → Bool) (layer p slot : Nat) : Bool :=
  let i := logicalOf s layer p
  (physOf s layer i == p || mirrorOf s layer i == some p) && want layer (frameAt i slot)

/-! ### One segment at a physical rim -/

/-- What a read of one segment finds. `bad` is a segment that fails its check, or a lost one (R449). -/
structure SegRead where
  data  : Seg
  valid : Bool
  bad   : Bool
  corrected : Bool
deriving DecidableEq, Repr

/-- A segment read with its valid bit and its check (R34, R442, R443, R447, R449). -/
def readSeg (s : State) (layer p frame r c : Nat) : SegRead × State :=
  let w := wordIdx layer p (slotOfFrame frame) r c
  let va := s.array.validA.contains w
  let vb := s.array.validB.contains w
  let clsD := classOf s.array.cls layer frame
  let chk := decodeWord clsD (segPta layer frame r c) (wordAt s w)
  if va && vb then ({ data := chk.data, valid := true, bad := chk.bad, corrected := chk.corrected }, s)
  else if va || vb then
    let s := s.bumpSat (layerBase layer) LAYER_VDIS_CNT_COUNT
    if chk.bad then ({ data := chk.data, valid := true, bad := true, corrected := false }, s)
    else ({ data := chk.data, valid := true, bad := false, corrected := chk.corrected }, s.setValid w true)
  else if s.array.lost.contains (lostKey layer p (slotOfFrame frame)) then
    ({ data := 0, valid := false, bad := true, corrected := false }, s)
  else ({ data := 0, valid := false, bad := false, corrected := false }, s)

/-- The counters of one segment read: corrected and uncorrectable segments (R445, R471). -/
def countCheck (s : State) (layer p : Nat) (x : SegRead) : State :=
  let s := s.cond x.corrected fun s =>
    (s.bumpSat (rimBase layer p) RIM_CE_CNT_COUNT).bumpSat pgINTEG (.word INTEG_CE_TOTAL)
  s.cond x.bad fun s =>
    (s.bumpSat (rimBase layer p) RIM_UE_CNT_COUNT).bumpSat pgINTEG (.word INTEG_UE_TOTAL)

/-- The bytes of `new` where the mask has a one, of `old` elsewhere. -/
def mergeBytes (mask : BitVec 32) (old new : Seg) : Seg :=
  BitVec.ofNat 256 ((List.range 32).foldl (fun a j =>
    a + (if mask.getLsbD j then bits new.toNat (8 * j + 7) (8 * j) else bits old.toNat (8 * j + 7) (8 * j)) * 256 ^ j) 0)

/-- All 32 bytes. -/
def fullMask : BitVec 32 := BitVec.ofNat 32 0xFFFFFFFF
/-- The mask covers whole aligned data words only (R55). -/
def alignedMask (mask : BitVec 32) : Bool :=
  (List.range 4).all fun k => bits mask.toNat (8 * k + 7) (8 * k) == 0 || bits mask.toNat (8 * k + 7) (8 * k) == 255

/-- A stored word put at a physical rim, its valid bit set, with the flip mask when it applies (R458). -/
def storeAt (s : State) (layer p frame r c : Nat) (word : Stored) (flips : Bool) : State :=
  let w := wordIdx layer p (slotOfFrame frame) r c
  let hit := flips && match s.array.flip with
    | some f => f.layer == layer && f.rim == rimOfFrame frame && f.bank == bankOf r c
    | none => false
  let word' := if hit then word ^^^ (s.array.flip.map (·.mask)).getD 0 else word
  let s := (s.setWord w word').setValid w true
  s.cond hit fun s =>
    let s := s.arr fun a => { a with flip := none }
    let s := (s.put pgINTEG INTEG_FLIP_CTL_ARM 0).put pgINTEG INTEG_FLIP_CTL_DONE 1
    (s.put pgINTEG INTEG_FLIP_PTA_PTA (segPta layer frame r c)).irq pgINTEG 4

/-- A stored word put at the rim that serves a frame, and at the rim that shadows it (R53). It cancels a write-back of the
segment (R446). -/
def storeWord (s : State) (layer frame r c : Nat) (word : Stored) (flips : Bool) : State :=
  let i := rimOfFrame frame
  let s := storeAt s layer (physOf s layer i) frame r c word flips
  let s := match mirrorOf s layer i with
    | some p => storeAt s layer p frame r c word false
    | none => s
  let mine := fun (b : WriteBack) => b.layer == layer && b.frame == frame && b.row == r && b.col == c
  let s := s.cond (s.array.wbs.any mine) fun s => s.bumpSat pgINTEG (.word INTEG_WB_CANCEL)
  s.arr fun a => { a with wbs := a.wbs.filter fun b => !mine b }

/-- A whole segment written under the class of its frame (R55). -/
def writeSeg (s : State) (layer frame r c : Nat) (data : Seg) : State :=
  storeWord s layer frame r c (encodeWord (classOf s.array.cls layer frame) (segPta layer frame r c) data) true

/-- Whether a masked write of a segment needs a read-modify-write (R55): it is partial, the segment is valid (or its valid
bits disagree, or it is lost), and its class cannot write the bytes alone. -/
def needsRmw (s : State) (layer p frame r c : Nat) (mask : BitVec 32) : Bool :=
  let w := wordIdx layer p (slotOfFrame frame) r c
  let va := s.array.validA.contains w
  let vb := s.array.validB.contains w
  mask != fullMask &&
    ((va && vb && (classOf s.array.cls layer frame || !alignedMask mask)) || (va != vb) ||
     (!va && !vb && s.array.lost.contains (lostKey layer p (slotOfFrame frame))))

/-- A masked write that takes a single rim access (R55): a whole segment, a partial write into an invalid segment, or whole
aligned words of a valid class C segment, whose other words keep their stored bits. -/
def writeMasked (s : State) (layer frame r c : Nat) (x : SegOp) : State :=
  let p := physOf s layer (rimOfFrame frame)
  let w := wordIdx layer p (slotOfFrame frame) r c
  if x.mask = fullMask then writeSeg s layer frame r c x.data
  else if s.array.validA.contains w then
    let old := wordAt s w
    let new := encodeWord false (segPta layer frame r c) x.data
    let word := (List.range 4).foldl (fun a k =>
      let src := if bits x.mask.toNat (8 * k + 7) (8 * k) = 255 then new else old
      a + bits src.toNat (64 * k + 63) (64 * k) * 2 ^ (64 * k)
        + bits src.toNat (256 + 8 * k + 7) (256 + 8 * k) * 2 ^ (256 + 8 * k)) 0
    storeWord s layer frame r c (BitVec.ofNat 288 word) true
  else writeSeg s layer frame r c (mergeBytes x.mask 0 x.data)

/-- The segments of a line in line order (R38): row line or column line k. -/
def lineSegs (col : Bool) (k : Nat) : List (Nat × Nat) :=
  (List.range 16).map fun j => if col then (j, k) else (k, j)

end Sys2Proof.Machine
end

