-- ==== Sys2Proof/Machine/Flags.lean ====
section
/-! DEFINITION. The status codes of R152 and the flags and counts that accesses leave: charges to a TID, Brake causes,
the energy ledger, poison marks and the poison log, histogram bins. -/
namespace Sys2Proof.Machine

def stOK : Nat := 0
def stPOISON : Nat := 1
def stBOUNDS : Nat := 2
def stRIGHTS : Nat := 3
def stSTALE : Nat := 4
def stTIMEOUT : Nat := 5
def stDISABLED : Nat := 6
def stASLEEP : Nat := 7
def stPARKED : Nat := 8
def stFAULT : Nat := 9

/-- The service class of a TID: 0 RT, 1 LC, 2 BE, 3 MT (R197). The TID of test copies is given class MT while a test runs (R562; DEDUCED,
log entry 34). -/
def tidClass (s : State) (t : Nat) : Nat :=
  if s.test.ft.isSome ∧ t = s.get pgTEST TEST_FT_CFG_TID then 3 else s.get pgREGUL (REGUL_TCFG_CLASS.at 16 t)

/-! ### Energy (spec/16_power_and_energy.md R485 to R492) -/

/-- The charge of `n` events of kind k, in units of 0.1 pJ / 4,096 (R485). -/
def eventCharge (s : State) (k n : Nat) : Nat :=
  s.get pgPOWER (POWER_EC_COST.at 4 k) * n *
    s.get pgPOWER (if k < 4 then POWER_VFACT_VF_ARR else POWER_VFACT_VF_PERI)

/-- Units of the ledger's own unit in one nJ. -/
def njUnits : Nat := 10000 * 4096

/-- `n` events of kind k charged to a TID: to the ledger, to the class's total of the Cadence, to the meter of the owner that
works, and to the pool that R490 names, unless the commitment of the owner's chunk covers it (R492). -/
def State.energy (s : State) (k n t : Nat) (owner : Option Nat := none) : State :=
  let c := eventCharge s k n
  let cl := tidClass s t
  let e := s.energyAcc
  let e := { e with ledger := e.ledger + c, cls := e.cls.modify cl (· + c) }
  let e := match owner with
    | some o => { e with meter := Sp.set e.meter o (Sp.get 0 e.meter o + c) }
    | none => e
  let c' : Int := (c : Nat)
  let mine := fun (h : Chunk) => h.adm && h.live && owner == some h.owner
  let e := if e.chunks.any mine then
      { e with chunks := e.chunks.map fun h => if mine h then { h with spent := h.spent + c } else h }
    else if cl = 0 ∧ 0 < e.rtPool then { e with rtPool := e.rtPool - c' }
    else if cl = 1 ∧ 0 < e.lcPool then { e with lcPool := e.lcPool - c' }
    else { e with pool := e.pool - c' }
  { s with energyAcc := e }
/-- Events charged to no TID: to the ledger and the Cadence's total, and to no class or pool (R486, R490, R493). -/
def State.energyNone (s : State) (k n : Nat) : State :=
  let c := eventCharge s k n
  { s with energyAcc := { s.energyAcc with ledger := s.energyAcc.ledger + c, nobody := s.energyAcc.nobody + c } }

/-! ### Charges and the Brake (R198 to R205) -/

/-- A charge of read and write segments to a TID (R199, R201, R213). -/
def State.charge (s : State) (t rd wr : Nat) : State :=
  let s := s.bumpSat pgREGUL (REGUL_TSPENT_SPENT.at 16 t) (rd + wr)
  s.tidCnt t fun c => { c with segRd := (c.segRd + rd) % 2 ^ 64, segWr := (c.segWr + wr) % 2 ^ 64 }

/-- An access stands in a sector pool or a rim queue that it came to through one (R203). -/
def Access.stands (a : Access) : Bool := a.pooled && (a.loc == .pool || a.loc == .rim)
/-- The occupancy of a TID (R203). TSTEP.OCC shows it, as far as its twelve bits go. -/
def tidOcc (s : State) (t : Nat) : Nat := (s.hub.flight.filter fun a => a.stands && a.tid == t).length
/-- The queue share of a TID: 0 acts as 1, 0xFFF sets no limit (R203). -/
def shareFull (s : State) (t : Nat) : Bool :=
  let sh := s.get pgREGUL (REGUL_TCFG_SHARE.at 16 t)
  sh != 0xFFF && decide (max 1 sh ≤ tidOcc s t)
/-- Over the issue budget (R202). -/
def overBudget (s : State) (t : Nat) : Bool :=
  let b := s.get pgREGUL (REGUL_TBUD_BUDGET.at 16 t)
  b != 0xFFFFFFFF && decide (b < s.get pgREGUL (REGUL_TSPENT_SPENT.at 16 t))
/-- An access of a port waits in its split stage: that of the request being split, or a scale-row read (R174, R204). -/
def PortSt.splits (p : PortSt) (t : Nat) : Bool :=
  (p.fetches.any fun f => !f.sent && f.tid == t) ||
    match p.split with
    | some sp => (p.txns.find? fun x => x.req.tag == sp.tag).any fun x => x.req.tid == t
    | none => false
/-- Over its queue share: an access of the TID waits for room in it, in a split stage, in a mover channel or on arrival (R204), or
its SHARE was written below its occupancy, which has not fallen below it since (R209). -/
def shareWait (s : State) (t : Nat) : Bool :=
  s.regul.overShare.contains t || (shareFull s t && ((s.shareHeld.any fun e => e.2 == t) || s.win.held.contains t || s.ports.any fun p => p.2.splits t))
/-- The occupancy of a TID has fallen: below SHARE, a write of SHARE below it has done its work (R209). -/
def State.occDown (s : State) (t : Nat) : State :=
  s.cond (!shareFull s t) fun s => { s with regul := { s.regul with overShare := s.regul.overShare.filter (· != t) } }
/-- Braked as an LC TID during EMERGENCY (R205). -/
def brakeEmerg (s : State) (t : Nat) : Bool := tidClass s t == 1 && emergency s
/-- A TID is Braked (R205). -/
def braked (s : State) (t : Nat) : Bool :=
  overBudget s t || shareWait s t || s.flag pgREGUL (REGUL_TCFG_FORCE.at 16 t) || brakeEmerg s t

/-- STEP of a TID (R211). -/
def tidStep (s : State) (t : Nat) : Nat := s.get pgREGUL (REGUL_TSTEP_STEP.at 16 t)

/-! ### Poison (R450 to R452) -/

/-- The mark of (TID, STEP) in PSTEPt (R451). -/
def State.mark (s : State) (t step : Nat) : State :=
  if s.flag pgINTEG (INTEG_PSTEP_VALID.at 4 t) then
    let s := s.bumpSat pgINTEG (INTEG_PSTEP_COUNT.at 4 t)
    s.cond (s.get pgINTEG (INTEG_PSTEP_STEP.at 4 t) != step) fun s => s.put pgINTEG (INTEG_PSTEP_MULTI.at 4 t) 1
  else s.wr (pgINTEG + INTEG_PSTEP + 4 * t) (BitVec.ofNat 32 (2 ^ 31 + 2 ^ 16 + step % 2 ^ 16))

/-- An entry appended to the poison log (R452). -/
def State.logPoison (s : State) (e : PsnEntry) : State :=
  if s.psnLog.length < 64 then State.irq { s with psnLog := s.psnLog ++ [e] } pgINTEG 1
  else (s.bumpSat pgINTEG INTEG_PSN_STAT_LOSTENT).irq pgINTEG 5

/-- An access that completes with POISON: logged, and its (TID, STEP) marked unless it is a scrub or a copy (R450, R452). -/
def State.poison (s : State) (kind : Nat) (layer frame r c tid step source : Nat) : State :=
  let s := s.logPoison ⟨kind, classOf s.array.cls layer frame, tid, step, segPta layer frame r c, source, s.now % 2 ^ 32⟩
  s.cond (kind < 6) fun s => s.mark tid step

/-! ### Latency histograms (R214) -/

/-- The histogram bin of a latency: the number of edges at or below it. -/
def histBin (edges : List Nat) (lat : Nat) : Nat := (edges.filter fun e => decide (e ≤ lat)).length
/-- A list of sixteen bins with one counted up, saturating. -/
def binUp (h : List Nat) (b : Nat) : List Nat :=
  (List.range 16).map fun i => if i = b then sat32 (h.getD i 0 + 1) else h.getD i 0
/-- A completed access counted by its latency in pc of device pace. -/
def State.latency (s : State) (t lat : Nat) : State :=
  s.tidCnt t fun c => { c with hist := binUp c.hist (histBin s.regul.edges lat) }

/-- The status counter of a port for a code from 1 to 9 (R171). -/
def State.countStatus (s : State) (x st : Nat) : State :=
  s.cond (decide (1 ≤ st ∧ st ≤ 9)) fun s => s.bumpSat (portBase x) ((Fld.word PORT_STS_CNT).at 4 (st - 1))

end Sys2Proof.Machine
end

