-- ==== Sys2Proof/Machine/LinkCode.lean ====
section
/-! DEFINITION. The coding of the Amiys link (spec/13_amiys_link.md R385 to R390, R406): the RS(544,514) code over 10-bit symbols,
the scrambler, the lanes, 257-bit blocks, control blocks, header flits with their PCRC, and Chain frames. -/
namespace Sys2Proof.Machine

/-! ### The field of 1,024 elements -/

/-- x times an element, modulo x^10 + x^3 + 1, the field of IEEE 802.3 Clause 91 (PRESUMED, log entry 65). -/
def gfX (a : Nat) : Nat := if 1024 ≤ 2 * a then (2 * a) ^^^ 0x409 else 2 * a
/-- The product of two elements. -/
def gfMul (a b : Nat) : Nat := (List.range 10).foldl (fun c k => gfX c ^^^ if bit b (9 - k) then a else 0) 0
/-- The inverse of an element other than 0: its power 1,022. -/
def gfInv (a : Nat) : Nat := ((List.range 9).foldl (fun (c : Nat × Nat) _ => let q := gfMul c.2 c.2; (gfMul c.1 q, q)) (1, a)).1
/-- The first `n` powers of an element times `c`. -/
def gfPowers (a c : Nat) : Nat → List Nat
  | 0 => []
  | n + 1 => c :: gfPowers a (gfMul c a) n
/-- A polynomial, its constant term first, at a point. -/
def gfEval (l : List Nat) (x : Nat) : Nat := l.foldr (fun c v => c ^^^ gfMul v x) 0
/-- The sum of two polynomials, the second one times `k`. -/
def gfAddMul : List Nat → Nat → List Nat → List Nat
  | [], k, b => b.map (gfMul k)
  | a, _, [] => a
  | a :: l, k, b :: m => (a ^^^ gfMul k b) :: gfAddMul l k m
/-- The product of two polynomials. -/
def gfPolyMul (a b : List Nat) : List Nat := a.foldr (fun c v => gfAddMul (0 :: v) c b) []

/-! ### RS(544,514) (R385, R387) -/

/-- The generator: its roots are the first 30 powers of x. -/
def rsGen : List Nat := (gfPowers 2 1 30).foldl (fun g r => gfPolyMul g [r, 1]) [1]
/-- The 544 symbols of a codeword, as sent, for the 514 of a message: the remainder of the message follows it. -/
def rsEncode (msg : List Nat) : List Nat :=
  let g := (rsGen.reverse).drop 1
  msg ++ msg.foldl (fun r m => gfAddMul (r.drop 1 ++ [0]) (m ^^^ r.headD 0) g) (List.replicate 30 0)
/-- The 30 syndromes of a received word. -/
def rsSyndromes (r : List Nat) : List Nat := (gfPowers 2 1 30).map fun a => r.foldl (fun v c => gfMul v a ^^^ c) 0
/-- What a step of the search for the error locator holds: the locator, the one before, the length, the distance and the last
discrepancy. -/
structure RsSearch where
  c : List Nat
  b : List Nat
  l : Nat
  m : Nat
  d : Nat
/-- The search taken one syndrome further (Berlekamp and Massey). -/
def rsSearch (syn : List Nat) (t : RsSearch) (n : Nat) : RsSearch :=
  let d := (List.range (t.l + 1)).foldl (fun v i => v ^^^ gfMul (t.c.getD i 0) (syn.getD (n - i) 0)) 0
  if d = 0 then { t with m := t.m + 1 }
  else
    let c := gfAddMul t.c (gfMul d (gfInv t.d)) (List.replicate t.m 0 ++ t.b)
    if 2 * t.l ≤ n then { c := c, b := t.c, l := n + 1 - t.l, m := 1, d := d } else { t with c := c, m := t.m + 1 }
/-- The error locator of 30 syndromes, and its length. -/
def rsLocator (syn : List Nat) : List Nat × Nat :=
  let t := (List.range 30).foldl (rsSearch syn) { c := [1], b := [1], l := 0, m := 1, d := 1 }
  (t.c, t.l)
/-- A received word decoded: the codeword within 15 symbols of it, with the positions corrected, in the order sent; none where it is
uncorrectable (R387). -/
def rsDecode (r : List Nat) : Option (List Nat × List Nat) :=
  let syn := rsSyndromes r
  if syn.all (· == 0) then some (r, [])
  else
    let (c, l) := rsLocator syn
    let inv := (gfPowers (gfInv 2) 1 544).reverse
    let at_ := (List.range 544).filter fun i => gfEval c (inv.getD i 0) == 0
    if 15 < l ∨ at_.length ≠ l then none
    else
      let omega := (gfPolyMul syn c).take 30
      let slope := (List.range l).map fun k => if k % 2 = 0 then c.getD (k + 1) 0 else 0
      let fixed := at_.foldl (fun w i =>
        let x := inv.getD i 0
        w.set i (w.getD i 0 ^^^ gfMul (gfMul (gfInv x) (gfEval omega x)) (gfInv (gfEval slope x)))) r
      if (rsSyndromes fixed).all (· == 0) then some (fixed, at_) else none

/-! ### Lanes (R386) -/

/-- The symbols of a codeword striped over `n` active lanes: what each carries, its first symbol lowest. -/
def stripe (n : Nat) (syms : List Nat) : List Nat :=
  (List.range n).map fun j => (List.range ((544 + n - 1 - j) / n)).foldl (fun v k => v + syms.getD (j + n * k) 0 * 1024 ^ k) 0
/-- The symbols of a codeword, in the order sent, from what its lanes carried. -/
def gather (lanes : List Nat) : List Nat :=
  (List.range 544).map fun i => lanes.getD (i % lanes.length) 0 / 1024 ^ (i / lanes.length) % 1024

/-! ### Blocks and the scrambler (R385) -/

/-- A payload bit through the scrambler x^58 + x^39 + 1, sending or receiving: the register of the last 58 bits sent, and the result. -/
def scrambleBit (rx : Bool) (reg : Nat) (d : Bool) : Nat × Bool :=
  let o := (d != bit reg 38) != bit reg 57
  ((2 * reg + b2n (if rx then d else o)) % 2 ^ 58, o)
/-- A block through the scrambler: its header bit passes as it is. -/
def scrambleBlock (rx : Bool) (reg block : Nat) : Nat × Nat :=
  (List.range 256).foldl (fun (a : Nat × Nat) k =>
    let (reg, o) := scrambleBit rx a.1 (bit block (k + 1))
    (reg, a.2 + b2n o * 2 ^ (k + 1))) (reg, block % 2)
/-- Blocks through the scrambler, in order. -/
def scrambleAll (rx : Bool) : Nat → List Nat → Nat × List Nat
  | reg, [] => (reg, [])
  | reg, b :: l =>
    let (reg, o) := scrambleBlock rx reg b
    let (reg, os) := scrambleAll rx reg l
    (reg, o :: os)
/-- The message symbols of 20 scrambled blocks, and the blocks of a message: block k starts at bit 257 k, symbol i at bit 10 i
(PRESUMED, log entry 65). -/
def blocksToSyms (l : List Nat) : List Nat := elems 10 514 (packElems 257 l)
def symsToBlocks (l : List Nat) : List Nat := elems 257 20 (packElems 10 (l.take 514))

/-! ### The test pattern (R567) -/

/-- The bits of a PRBS31, x^31 + x^28 + 1 (PRESUMED, log entry 65), after the last 31 of them: `n` of them, the first lowest, and the new last
31. -/
def prbsBits (reg n : Nat) : Nat × Nat :=
  (List.range n).foldl (fun (a : Nat × Nat) k =>
    let o := bit a.2 30 != bit a.2 27
    (a.1 + b2n o * 2 ^ k, (2 * a.2 + b2n o) % 2 ^ 31)) (0, reg)
/-- A flit of 256 bits that the pattern could carry. -/
def prbsGood (flit : Nat) : Bool := (List.range 225).all fun k => bit flit (k + 31) == (bit flit k != bit flit (k + 3))

/-! ### Checks -/

/-- A CRC of `w` bits over the low `n` bits of a number, the highest first. -/
def crcHigh (w poly init x n : Nat) : Nat :=
  (List.range n).foldl (fun c k => (2 * c % 2 ^ w) ^^^ if bit c (w - 1) != bit x (n - 1 - k) then poly else 0) init
/-- The CRC-16 of a control block (R388), over its payload bits [256:17]. -/
def cbCrc (block : Nat) : Nat := crcHigh 16 0x1021 0xFFFF (block / 2 ^ 17) 240
/-- The CRC-8 of a Chain frame, over its bits [31:8] (R406). The spec gives no initial value: 0 is a DESIGN CHOICE (log entry 65). -/
def frameCrc (w : Nat) : Nat := crcHigh 8 0x07 0 (w / 2 ^ 8) 24

/-! ### Control blocks (R388) -/

/-- A control block of a kind, with its payload from bit 17 up. -/
def controlBlock (ctype payload : Nat) : Nat :=
  let b := ctype * 2 ^ 253 + payload % 2 ^ 236 * 2 ^ 17
  b + cbCrc b * 2
/-- The kind and the payload of a control block, and whether it passes its check. -/
def cbType (block : Nat) : Nat := bits block 256 253
def cbData (block : Nat) : Nat := bits block 252 17
def cbSound (block : Nat) : Bool := bits block 16 1 == cbCrc block
/-- IDLE. -/
def idleBlock : Nat := controlBlock 0 0

/-! ### Packets (R389, R390) -/

/-- The words H0 and H1 of a packet, without VL, LSEQ and HOPS; H0 to H6 without them. -/
def headLow (pk : Packet) : Nat :=
  pk.ptype * 2 ^ 28 + pk.cls * 2 ^ 26 + pk.res / 128 * 2 ^ 24 + pk.dst * 2 ^ 18 + pk.src * 2 ^ 12 + pk.ndata * 2 ^ 7 + pk.res % 128 +
    2 ^ 32 * pk.etag
def headSeven (pk : Packet) : Nat :=
  headLow pk + 2 ^ 64 * pk.h2 + 2 ^ 96 * pk.h3 + 2 ^ 128 * pk.h4 + 2 ^ 160 * pk.h5 + 2 ^ 192 * pk.h6
/-- The PCRC of a packet (R389). -/
def packetCrc (pk : Packet) : Nat := crc32c (headSeven pk + 2 ^ 224 * (pk.data % 2 ^ (256 * pk.ndata))) (28 + 32 * pk.ndata)
/-- A packet with its PCRC, as its source makes it. -/
def sealPacket (pk : Packet) : Packet := { pk with pcrc := packetCrc pk }
/-- The flits of a packet, as blocks: their header bit is 1. -/
def packetBlocks (pk : Packet) : List Nat :=
  let h := headSeven pk + pk.vl * 2 ^ 25 + 2 ^ 32 * (pk.lseq * 2 ^ 20 + pk.hops * 2 ^ 16) + 2 ^ 224 * pk.pcrc
  (h :: elems 256 pk.ndata pk.data).map fun f => 2 * f + 1
/-- The packet that begins with a header flit, its data flits in hand. -/
def readPacket (h data : Nat) : Packet :=
  { ptype := bits h 31 28, cls := bits h 27 26, vl := bits h 25 25, res := bits h 24 24 * 128 + bits h 6 0, dst := bits h 23 18,
    src := bits h 17 12, ndata := bits h 11 7, lseq := bits h 63 52, hops := bits h 51 48, etag := bits h 47 32, h2 := bits h 95 64,
    h3 := bits h 127 96, h4 := bits h 159 128, h5 := bits h 191 160, h6 := bits h 223 192, pcrc := bits h 255 224, data := data }
/-- The packet whose flits are first among those received, and the flits after it; none while some have yet to arrive. A header that
names more than 16 data flits stands alone. -/
def nextPacket : List Nat → Option (Packet × List Nat)
  | [] => none
  | h :: l =>
    let n := bits h 11 7
    if 16 < n then some (readPacket h 0, l)
    else if l.length < n then none
    else some (readPacket h (packElems 256 (l.take n)), l.drop n)
/-- A received packet passes its check. -/
def packetSound (pk : Packet) : Bool := decide (pk.ndata ≤ 16) && pk.pcrc == packetCrc pk
/-- The flits of the whole packets that are first among those received; `fuel` is at least their count. -/
def wholeFlits : Nat → List Nat → List Nat
  | 0, _ => []
  | fuel + 1, l => match nextPacket l with
    | none => []
    | some (_, rest) => l.take (l.length - rest.length) ++ wholeFlits fuel rest

/-! ### Chain frames (R406) -/

/-- A Chain frame of an OP, and its fields. -/
def chainFrame (op addr count : Nat) : Nat :=
  let w := op * 2 ^ 28 + addr % 128 * 2 ^ 21 + count % 128 * 2 ^ 14
  w + frameCrc w
def frameOp (w : Nat) : Nat := bits w 31 28
def frameAddr (w : Nat) : Nat := bits w 27 21
def frameCount (w : Nat) : Nat := bits w 20 14
/-- A frame passes its check. -/
def frameSound (w : Nat) : Bool := bits w 7 0 == frameCrc w

end Sys2Proof.Machine
end

