-- ==== Sys2Proof/Machine/LinkOps.lean ====
section
/-! DEFINITION. The link block's sending side (spec/13_amiys_link.md R392 to R402, R408, R412, spec/14_remote_access.md R432,
R434): routing, the queues of a port with its credits and its replay buffer, the packets that await an answer, and NAKs. -/
namespace Sys2Proof

/-- Flits of a packet, and the index of its class and virtual lane. -/
def Packet.flits (pk : Packet) : Nat := 1 + pk.ndata
def Packet.lane (pk : Packet) : Nat := 2 * pk.cls + pk.vl

end Sys2Proof

namespace Sys2Proof.Machine

/-- The state with the link block, or the window unit, changed. -/
def State.lnk (s : State) (f : LinkSt → LinkSt) : State := { s with link := f s.link }
def State.wnu (s : State) (f : WinSt → WinSt) : State := { s with win := f s.win }
/-- A link port, and the state with it changed. -/
def lkPort (s : State) (p : Nat) : LinkPort := Sp.get {} s.link.ports p
def State.lport (s : State) (p : Nat) (f : LinkPort → LinkPort) : State :=
  s.lnk fun l => { l with ports := Sp.set l.ports p (f (lkPort s p)) }
/-- State of a link port: 0 DOWN, 1 TRAIN, 2 ALIGN, 3 INIT, 4 UP, 5 DRAINING, 6 FAILED, 7 LOOPBACK, 8 OFF (R403). -/
def lpState (s : State) (p : Nat) : Nat := s.get pgLINK (LINK_P_STAT_STATE.at 256 p)
/-- This device's address, and the devices of its domain once it is enumerated (R407, R408). -/
def devAddr (s : State) : Nat := s.get pgLINK LINK_ENUM_STAT_ADDR
def enumerated (s : State) : Bool := s.get pgLINK LINK_ENUM_STAT_STATE == 2
def devices (s : State) : Nat := s.get pgLINK LINK_ENUM_STAT_DEVICES

/-- A port takes and sends control blocks: INIT, UP or DRAINING. -/
def hears (s : State) (p : Nat) : Bool := decide (p < 4) && (lpState s p == 3 || lpState s p == 4 || lpState s p == 5)

/-! ### What a port sends (R385, R386, R388)

The model forms a codeword where there is a block to send, and fills it up with IDLE. The codewords of IDLE that fill the time between are
left out (log entry 66). -/

/-- Active transmit lanes of a port. -/
def txLanes (s : State) (p : Nat) : Nat :=
  let lanes := s.get pgLINK (LINK_P_STAT_TX_LANES.at 256 p)
  ((List.range 8).filter (bit lanes)).length
/-- A codeword of alignment markers on every active lane, in place of blocks (R386). The spec does not give the markers' bits: each lane
carries a free value. -/
def State.sendMarks (s : State) (p : Nat) : State :=
  let lanes := (List.range (txLanes s p)).map fun k => (Config.freeValue (s.freeCtr + k)).toNat
  ({ s with freeCtr := s.freeCtr + lanes.length } : State).lport p fun l => { l with
    marks := lanes, cwN := (l.cwN + 1) % 4096, linkCw := min 4 (l.linkCw + 1) }
/-- A codeword of 20 blocks, behind one of markers where that one's turn has come: one in 4,096. Its symbols go over the active lanes in
turn (R385, R386). -/
def State.sendWord (s : State) (p : Nat) (blocks : List Nat) : State :=
  let s := s.cond ((lkPort s p).cwN == 0) fun s => s.sendMarks p
  let n := txLanes s p
  s.lport p fun l =>
    let out := scrambleAll false l.scr blocks
    { l with
      scr := out.1, cwN := (l.cwN + 1) % 4096, cwOut := stripe n (rsEncode (blocksToSyms out.2)), linkCw := min 4 (l.linkCw + 1) }
/-- LANE_DROP, which a receiver that gives lanes up sends in every codeword until it sees LANE_SWITCH (R405). -/
def dropBlock (l : LinkPort) : List Nat := match l.dropMask with
  | some keep => [controlBlock 3 keep]
  | none => []
/-- Blocks sent on a port, in codewords filled up with IDLE; `fuel` is at least their count. -/
def State.sendBlocks (s : State) (p : Nat) : Nat → List Nat → State
  | 0, _ => s
  | _, [] => s
  | fuel + 1, b :: l =>
    let drop := (dropBlock (lkPort s p)).filter fun x => !(b :: l).contains x
    let now := drop ++ (b :: l).take (20 - drop.length)
    (s.sendWord p (now ++ List.replicate (20 - now.length) idleBlock)).sendBlocks p fuel ((b :: l).drop (20 - drop.length))
/-- A control block sent on a port that sends them (R388); while every codeword carries markers it waits (R405). -/
def State.sendCb (s : State) (p ctype payload : Nat) : State :=
  s.cond (hears s p) fun s =>
    let b := controlBlock ctype payload
    let s := s.lport p fun l => { l with cbOut := Sp.set l.cbOut ctype b }
    if (lkPort s p).marksTo ≤ s.now then s.sendBlocks p 1 [b] else s.lport p fun l => { l with cbWait := l.cbWait ++ [b] }
/-- A LINK block may go now: no packet waits, or four codewords have passed since the last, of which 25.6 ns carry four (R388). -/
def linkTurn (s : State) (l : LinkPort) : Bool := l.txq == [] || decide (4 ≤ l.linkCw) || decide (l.linkAt + 3 ≤ s.now)
/-- LINK: the LSEQ received last in order, and the flits freed (R388, R395, R397). The payload's places are DESIGN CHOICE (log entry 65):
its fields in the order of R388, from its lowest bit up. -/
def State.sendLink (s : State) (p : Nat) : State :=
  let l := lkPort s p
  if !linkTurn s l then s.lport p fun l => { l with linkDue := true }
  else (s.lport p fun l => { l with linkDue := false, linkAt := s.now, linkCw := 0 }).sendCb p 1
    ((l.expL + 4095) % 4096 + 2 ^ 12 * packElems 12 ((List.range 8).map fun k => l.freed.getD k 0))
/-- RETRY from the expected LSEQ (R398). -/
def State.sendRetry (s : State) (p : Nat) : State := s.sendCb p 2 (lkPort s p).expL
/-- INIT: address, its valid bit, port, manager bit, ports present (R388, R403, R404). -/
def State.sendInit (s : State) (p : Nat) : State :=
  s.sendCb p 5 (devAddr s + b2n (s.flag pgLINK LINK_ENUM_STAT_ADDR_V) * 2 ^ 6 + p * 2 ^ 7 + s.get pgLINK LINK_LK_ID_MGR * 2 ^ 9 +
    s.cfg.links * 2 ^ 10)
/-- INIT again on every port that is UP (R404, R407). -/
def State.sendInits (s : State) : State :=
  s.each (List.range 4) fun s p => s.cond (lpState s p == 4) fun s => s.sendInit p

/-! ### Credits and the replay buffer (R395, R397) -/

/-- Size of a receiver's buffer in flits. -/
def laneRoom (k : Nat) : Nat := [512, 256, 256, 128, 128, 64, 64, 64].getD k 0
/-- A total of eight with one raised, modulo 4,096. -/
def totalUp (l : List Nat) (k n : Nat) : List Nat :=
  (List.range 8).map fun j => (l.getD j 0 + if j = k then n else 0) % 4096
/-- A total of eight with one lowered. -/
def totalDown (l : List Nat) (k n : Nat) : List Nat := (List.range 8).map fun j => l.getD j 0 - if j = k then n else 0
/-- A queued packet can be sent now: the port is UP and sends blocks, its class and lane have credits, and the replay buffer has room. -/
def canSend (s : State) (p : Nat) (t : LinkTx) : Bool :=
  let l := lkPort s p
  let k := t.pk.lane
  let out := (l.sentC.getD k 0 + 4096 - l.farC.getD k 0) % 4096
  lpState s p == 4 && decide (l.marksTo ≤ s.now) && decide (out + t.pk.flits ≤ laneRoom k) && decide (l.replay.length < 2048) &&
    decide (((l.replay.map (·.pk.flits)).foldl (· + ·) 0 + t.pk.flits) * 32 ≤ 65536)
/-- The oldest packet of its queue, by input port, class and virtual lane (R394). -/
def headOf (q : List LinkTx) (t : LinkTx) : Bool :=
  (q.find? fun u => u.inp == t.inp && u.pk.lane == t.pk.lane) == some t
/-- Flits that have left a lane of an input port's receive buffer are credited to its sender (R395), but those that it sent before the
last INIT, which started its credits anew. -/
def State.freeLane (s : State) (p lane n : Nat) : State :=
  s.cond (decide (p < 4)) fun s =>
    let old := min n ((lkPort s p).stale.getD lane 0)
    (s.lport p fun l => { l with
      freed := totalUp l.freed lane (n - old), held := totalDown l.held lane n, stale := totalDown l.stale lane old }).sendLink p
def State.freeRx (s : State) (p : Nat) (pk : Packet) : State := s.freeLane p pk.lane pk.flits
/-- The flits of a packet sent on a port: counted (R413), and charged, but those in transit (R396, R485). -/
def State.flitsSent (s : State) (p : Nat) (t : LinkTx) : State :=
  let n := t.pk.flits
  let s := (s.bump pgLINK (LINK_P_TXFL_COUNT.at 256 p) n).sendBlocks p n (packetBlocks t.pk)
  let s := s.cond (lkPort s p).linkDue fun s => s.sendLink p
  if t.inp < 4 then s
  else match t.tid with
    | some tid => s.energy 8 n tid t.own
    | none => s.energyNone 8 n
/-- The time stamps that a packet of this device takes as it is sent (R410): t1 of a TSREQ, t3 of a TSRSP. -/
def stampPacket (now : Nat) (pk : Packet) : Packet :=
  let lo := now % 2 ^ 32
  let hi := now / 2 ^ 32 % 2 ^ 32
  if pk.ptype = 12 then { pk with h2 := lo, h3 := hi } else if pk.ptype = 13 then { pk with h4 := lo, h5 := hi } else pk
/-- Packets that can be sent on a port are sent, `fuel` of them at most: numbered, kept for replay, counted, charged (R397, R485). -/
def State.pump (s : State) (p : Nat) : Nat → State
  | 0 => s
  | fuel + 1 =>
    let q := (lkPort s p).txq
    match q.find? fun t => headOf q t && canSend s p t with
    | none => s
    | some t =>
      let first := !t.freed
      let pk := if t.inp = 4 ∧ first then sealPacket (stampPacket s.now t.pk) else t.pk
      let u := { t with pk := { pk with lseq := (lkPort s p).nextL }, freed := true }
      let s := s.cond (t.inp == 4 && first && pk.ptype == 12) fun s => s.lnk fun l => { l with ts := l.ts.map fun e => (s.now, e.2) }
      let s := s.lport p fun l => { l with
        txq := l.txq.erase t, replay := l.replay ++ [u], nextL := (l.nextL + 1) % 4096,
        sentC := totalUp l.sentC t.pk.lane t.pk.flits }
      ((s.flitsSent p u).cond first fun s => s.freeLane t.inp t.laneIn t.pk.flits).pump p fuel
def State.pumpAll (s : State) (p : Nat) : State := s.pump p (lkPort s p).txq.length

/-! ### Routing (R399 to R401) -/

/-- Where a packet goes: a port, 4 for this device, or the cause of its refusal (R399, R408, R412). -/
def routeOf (s : State) (dst : Nat) : Nat ⊕ Nat :=
  let fwd := fun (f : Fld) => s.get pgLINK (f.at 4 dst)
  if dst = devAddr s ∧ s.flag pgLINK LINK_ENUM_STAT_ADDR_V then .inr 4
  else if fwd LINK_FWD_VALID = 0 ∨ s.cfg.links ≤ fwd LINK_FWD_PORT then .inl 0x40
  else if lpState s (fwd LINK_FWD_PORT) ≠ 4 then .inl 0x41
  else .inr (fwd LINK_FWD_PORT)
/-- A routed packet joins its output port's queue, with its virtual lane for the hop (R401), or this device's own arrivals. -/
def State.enqueue (s : State) (p inp : Nat) (pk : Packet) (tid : Option Nat) (own : Option Nat := none) : State :=
  if p = 4 then (s.lnk fun l => { l with here := l.here ++ [pk] }).freeRx inp pk
  else
    let dim := fun k => s.get pgLINK (LINK_P_CTL_DIM.at 256 k)
    let vl := if s.flag pgLINK (LINK_FWD_WRAP.at 4 pk.dst) then 1
      else if inp < 4 ∧ dim p = dim inp then pk.vl else 0
    let t : LinkTx := { pk := { pk with vl := vl, hops := pk.hops + 1 }, inp := inp, laneIn := pk.lane, tid := tid, own := own }
    (s.lport p fun l => { l with txq := l.txq ++ [t] }).pumpAll p

/-! ### Packets of this device -/

/-- A NAK that this device makes, recorded (R412, R413). -/
def State.countNak (s : State) (cause to_ dst ptype : Nat) : State :=
  let s := s.wr (pgLINK + LINK_NAK_LAST) (BitVec.ofNat 32 (cause * 2 ^ 24 + to_ * 2 ^ 16 + dst * 2 ^ 8 + ptype))
  (s.bumpSat pgLINK LINK_NAK_CNT_COUNT).irq pgLINK 9
/-- A packet of this device with nothing in its fields. -/
def newPacket (s : State) (ptype cls dst : Nat) : Packet :=
  ⟨ptype, cls, 0, dst, devAddr s, 0, 0, 0, 0, 0, 0, 0, 0, 0, 0, 0, 0⟩
/-- A packet discarded and counted (R412) at the port of its forwarding entry, at port 0 where that one is absent: the spec does not say at
which port (DESIGN CHOICE, log entry 64). -/
def State.discard (s : State) (dst : Nat) : State :=
  let q := s.get pgLINK (LINK_FWD_PORT.at 4 dst)
  s.cond (s.cfg.links != 0) fun s => s.bumpSat pgLINK (LINK_P_DISC_COUNT.at 256 (if q < s.cfg.links then q else 0))
/-- A RESP or CTRL packet of this device injected, for a TID; one with no way is discarded and counted (R408, R412). -/
def State.sendResp (s : State) (pk : Packet) (tid : Option Nat := none) : State :=
  if !enumerated s ∨ devices s ≤ pk.dst then s.discard pk.dst
  else match routeOf s pk.dst with
    | .inl _ => s.discard pk.dst
    | .inr p => s.enqueue p 4 pk tid
/-- An arriving packet is refused with a NAK to its source, charged to the TID of the arriving write (R412, R435, R486). -/
def State.nakTo (s : State) (cause : Nat) (pk : Packet) (tid : Option Nat := none) : State :=
  let s := s.countNak cause pk.src pk.dst pk.ptype
  s.sendResp { newPacket s 9 2 pk.src with etag := pk.etag, h2 := devAddr s * 2 ^ 16 + pk.ptype * 2 ^ 8 + cause } tid
/-- A tracked packet is answered: landed, or refused with a cause. An ETAG that is no longer tracked is discarded (R434). -/
def State.closeTag (s : State) (etag : Nat) (nak : Option Nat) : State :=
  match s.link.sent.find? fun e => e.etag == etag with
  | none => s
  | some e => s.lnk fun l => { l with
      sent := l.sent.filter fun e => e.etag != etag,
      results := if e.who = .other then l.results else l.results ++ [(e.who, nak)] }
/-- There is room for `n` more packets among the 16,384 that may await an answer (R434). -/
def tagRoom (s : State) (n : Nat := 1) : Bool := decide ((s.link.sent.map (·.n)).foldl (· + ·) 0 + n ≤ 16384)
/-- The next ETAG not in use: 1 to 65,535. -/
def freeTag (s : State) : Nat → Nat → Nat
  | 0, t => t
  | fuel + 1, t => if s.link.sent.any fun e => e.etag == t then freeTag s fuel (t % 65535 + 1) else t
/-- A new tag for a packet, or for the `n` packets of one token. -/
def State.openTag (s : State) (who : SentFor) (dst ptype : Nat) (tid : Option Nat) (n : Nat := 1) : Nat × State :=
  let t := freeTag s 65535 s.link.tag
  (t, s.lnk fun l => { l with tag := t % 65535 + 1, sent := l.sent ++ [⟨t, who, dst, ptype, s.now, tid, n⟩] })
/-- Sent count of a device and window (R432). -/
def sentCount (s : State) (dev w : Nat) : Nat := Sp.get 0 s.win.sentN (256 * dev + w)
/-- A BWR, TWR or NTFY of this device injected under its tag; where it has no way its tag is refused (R408, R412). -/
def State.sendData (s : State) (pk : Packet) (tid : Option Nat) (own : Option Nat := none) : State :=
  let refuse := fun (c : Nat) (s : State) => (s.countNak c (devAddr s) pk.dst pk.ptype).closeTag pk.etag (some c)
  if !enumerated s ∨ devices s ≤ pk.dst then refuse 0x43 s
  else match routeOf s pk.dst with
    | .inl c => refuse c s
    | .inr p =>
      let w := pk.h2 % 256
      let s := s.cond (pk.ptype == 1) fun s => s.wnu fun u => { u with
        sentN := Sp.set u.sentN (256 * pk.dst + w) ((sentCount s pk.dst w + 1) % 2 ^ 32) }
      s.enqueue p 4 pk tid own
/-- Data flits of `n` bytes whose first lies `off` bytes into the first flit (R391). -/
def flitsOf (off n : Nat) : Nat := (off + n + 31) / 32
/-- A bulk write of `n` bytes at a window offset (R390, R391). -/
def State.sendBwr (s : State) (who : SentFor) (dev w off n data : Nat) (tid : Option Nat)
    (own : Option Nat := none) : State :=
  let (t, s) := s.openTag who dev 1 tid
  s.sendData { newPacket s 1 0 dev with
    etag := t, h2 := w, h3 := off, h4 := n - 1, ndata := flitsOf (off % 32) n, data := data * 256 ^ (off % 32) } tid own

/-! ### Domain messages (R337, R338, R433) -/

/-- The arrivals of a domain barrier carry a fence (R433). -/
def barFence (s : State) (bar : Nat) : Bool := s.flag 0x0A0000 (WINDOW_CTL_BFEN_EN.at 4 bar)
/-- A barrier message sent on class CTRL; one that has no way is a NAK made locally where the device is not enumerated (R408). -/
def State.sendCtrl (s : State) (ptype dst bar phase : Nat) : State :=
  let fence := ptype == 4 && barFence s bar
  let w := s.get 0x0A0000 (WINDOW_CTL_BFEN_FWIN.at 4 bar)
  let pk := { newPacket s ptype 3 dst with
    h2 := phase % 16 * 2 ^ 8 + bar, h4 := if fence then 2 ^ 31 + w else 0, h5 := if fence then sentCount s dst w else 0 }
  let s := s.cond (!enumerated s || decide (devices s ≤ dst)) fun s => s.countNak 0x43 (devAddr s) dst ptype
  s.sendResp pk

end Sys2Proof.Machine
end

