-- ==== Sys2Proof/Machine/Inplace.lean ====
section
/-! DEFINITION. The arithmetic of the work done at the rims (spec/08_inplace_work.md R225 to R234, R250): exact sums and
products rounded once, accumulation into a segment, and the atomics. -/
namespace Sys2Proof.Machine

/-- An exact sum (R228): infinity minus infinity is NaN, an exact zero is +0 unless both addends are -0. -/
def FVal.add (x y : FVal) : FVal :=
  match x, y with
  | .nan, _ => .nan
  | _, .nan => .nan
  | .inf a, .inf b => if a = b then .inf a else .nan
  | .inf a, _ => .inf a
  | _, .inf b => .inf b
  | .fin n1 m1 e1, .fin n2 m2 e2 =>
    let e := min e1 e2
    let i1 : Int := (m1 * 2 ^ (e1 - e).toNat : Nat)
    let i2 : Int := (m2 * 2 ^ (e2 - e).toNat : Nat)
    let z := (if n1 then -i1 else i1) + (if n2 then -i2 else i2)
    if z = 0 then .fin (n1 && n2) 0 e else .fin (decide (z < 0)) z.natAbs e

/-- An exact product (R228): zero times infinity is NaN. -/
def FVal.mul (x y : FVal) : FVal :=
  match x, y with
  | .nan, _ => .nan
  | _, .nan => .nan
  | .inf a, .inf b => .inf (a != b)
  | .inf a, .fin b m _ => if m = 0 then .nan else .inf (a != b)
  | .fin a m _, .inf b => if m = 0 then .nan else .inf (a != b)
  | .fin n1 m1 e1, .fin n2 m2 e2 => .fin (n1 != n2) (m1 * m2) (e1 + e2)

/-- Exact comparison of two values that are not NaN, with -0 below +0 (R250). -/
def FVal.lt (x y : FVal) : Bool :=
  match x, y with
  | .nan, _ => false
  | _, .nan => false
  | .inf a, .inf b => a && !b
  | .inf a, _ => a
  | _, .inf b => !b
  | .fin n1 m1 e1, .fin n2 m2 e2 =>
    let e := min e1 e2
    let i1 : Int := (m1 * 2 ^ (e1 - e).toNat : Nat)
    let i2 : Int := (m2 * 2 ^ (e2 - e).toNat : Nat)
    let a := if n1 then -i1 else i1
    let b := if n2 then -i2 else i2
    decide (a < b) || (a == b && n1 && !n2)

/-- The format of an ACCF code: bf16, binary32 (R139). -/
def accFmt (accf : Nat) : FFmt := if accf = 0 then fmtBF16 else fmtF32
/-- Bits of an element of an ACCF code. -/
def accWidth (accf : Nat) : Nat := if accf = 0 then 16 else 32

/-- One element of an accumulation (R227): destination d, source x, and the gate of an SACC. -/
def accElem (accf : Nat) (gate : Option Nat) (d x : Nat) : Nat :=
  if accf = 2 then (d + x) % 2 ^ 32
  else
    let f := accFmt accf
    let xv := f.decode x
    let add := match gate with
      | some g => (fmtF32.decode g).mul xv
      | none => xv
    (f.ieee ((f.decode d).add add)).code

/-- A segment accumulated into (R227): elements whose bytes the mask covers. -/
def accSeg (accf : Nat) (gate : Option Nat) (mask : BitVec 32) (old new : Seg) : Seg :=
  let w := accWidth accf
  BitVec.ofNat 256 (packElems w (((elems w (256 / w) old.toNat).zip (elems w (256 / w) new.toNat)).mapIdx fun i p =>
    if mask.getLsbD (w / 8 * i) then accElem accf gate p.1 p.2 else p.1))

/-- The new value of an atomic on a word of `w` bits (R233); `none` where CAS writes nothing. -/
def atomicNew (aop w old a b : Nat) : Option Nat :=
  let a := a % 2 ^ w
  if aop = 0 then some ((old + a) % 2 ^ w)
  else if aop = 1 then some (if signed w old ≤ signed w a then old else a)
  else if aop = 2 then some (if signed w a ≤ signed w old then old else a)
  else if aop = 3 then some (min old a)
  else if aop = 4 then some (max old a)
  else if aop = 5 then some a
  else if aop = 6 then (if old = a then some (b % 2 ^ w) else none)
  else if aop = 7 then some (old &&& a)
  else if aop = 8 then some (old ||| a)
  else some (old ^^^ a)

end Sys2Proof.Machine
end

