-- ==== Sys2Proof/Machine/HubOps.lean ====
section
/-! DEFINITION. Accesses in flight (spec/06_hub.md): their level and age, the order they are held in, the admission to a
sector pool, what a granted access does at its rim, and its way back to the merge. -/
namespace Sys2Proof.Machine

/-! ### Places -/

/-- The logical rim of an access. -/
def Access.rim (a : Access) : Nat := rimOfFrame a.frame
/-- The sector of an access, counted 4 * layer + sector (R42). -/
def Access.sector (a : Access) : Nat := 4 * a.layer + a.rim / 4
/-- Segments of a charge (R198): sixteen for a line, else those touched. -/
def Access.charge (a : Access) : Nat × Nat :=
  let k := if a.line then 16 else a.segs.length
  match a.op with
  | .read => (k, 0)
  | .write => (0, k)
  | .acc _ | .sacc _ _ => (k, k)
  | .atomic .. => (1, 1)
  | .loop r w => (r, w)
/-- Whose energy an access counts in: a mover channel, or 16 + an operation queue (R259, R288, R295). -/
def Src.owner : Src → Option Nat
  | .mover c _ | .engFetch c _ => some c
  | .inplace u => some (16 + u % 4)
  | .kstore q _ | .copyLine q _ => some (16 + q)
  | _ => none
def Access.owner (a : Access) : Option Nat := a.src.owner
/-- The outcome of an access, as its unit takes it. -/
def Access.answer (a : Access) : Answer := ⟨a.src, a.status, a.pmask, a.segs, 0, a.nval, a.ncor, a.ninv⟩
/-- An access of a unit that takes its outcome from `HubSt.answers`: a mover, an arrival over the link, EM1. -/
def Access.unitSrc (a : Access) : Bool :=
  match a.src with
  | .mover .. | .engFetch .. | .remote .. | .firmware _ => true
  | _ => false
/-- An access that returns data over the downward slots (R173); an atomic's old value and a loopback access take the
write response path (DESIGN CHOICE, log entry 75). -/
def Access.isRead (a : Access) : Bool := match a.op with | .read => true | _ => false

/-- The arbiters: up and down of each sector, and each logical rim (R206). -/
def arbUp (sector : Nat) : Nat := sector
def arbDown (sector : Nat) : Nat := 32 + sector
def arbRim (layer i : Nat) : Nat := 64 + 16 * layer + i

/-! ### Levels (R177, R178) -/

/-- The Brake state and class of a TID as an arbiter last received them (R206). -/
def seenBy (s : State) (arb t : Nat) : Bool × Nat := Sp.get (false, 2) s.regul.seen (arb * 64 + t)
/-- The urgency in use of a stream port (R161). -/
def urgency (s : State) (x : Nat) : Nat := s.get (portBase x) PORT_PSTAT_URG
/-- The urgency of an access: that in use at its port, until its rim grants it, and from then on that of the grant (R161). -/
def Access.urg (s : State) (a : Access) : Nat :=
  match a.urgAt, a.stream with
  | some u, _ => u
  | none, some x => urgency s x
  | none, none => 0
/-- The level of an access at an arbiter. -/
def level (s : State) (arb : Nat) (a : Access) : Nat :=
  let (brk, cl) := seenBy s arb a.tid
  if brk then 6
  else if a.stream.isSome && decide (5 ≤ a.urg s) then 1
  else
    let base := if cl ≤ 1 then a.wide else 5
    max 2 (base - (s.pcNow - a.born) / 64)
/-- The base level of an access, before promotion (R194 PROMO_CNT). -/
def baseLevel (s : State) (arb : Nat) (a : Access) : Nat := if (seenBy s arb a.tid).2 ≤ 1 then a.wide else 5
/-- BE and MT accesses are stopped during EMERGENCY (R496). -/
def stopped (s : State) (arb : Nat) (a : Access) : Bool := emergency s && decide (2 ≤ (seenBy s arb a.tid).2)

/-- The order in which an arbiter serves: level, then age, then split sequence number (R178). -/
def before (s : State) (arb : Nat) (a b : Access) : Bool :=
  let la := level s arb a
  let lb := level s arb b
  decide (la < lb) || (la == lb && (decide (a.born < b.born) || (a.born == b.born && decide (a.seq < b.seq))))
/-- An access put into its place in the order of an arbiter. -/
def insertBy (lt : Access → Access → Bool) : List Access → Access → List Access
  | [], a => [a]
  | b :: l, a => if lt a b then a :: b :: l else b :: insertBy lt l a
/-- Accesses in the order an arbiter serves them. -/
def served (s : State) (arb : Nat) (l : List Access) : List Access :=
  l.foldl (insertBy (before s arb)) []

/-- Two accesses touch a common segment. -/
def common (a b : Access) : Bool :=
  a.layer == b.layer && a.frame == b.frame && a.segs.any fun x => b.segs.any fun y => x.row == y.row && x.col == y.col
/-- An access that an earlier one of the same observer holds back (R181). -/
def heldBack (s : State) (a : Access) : Bool :=
  s.hub.flight.any fun b => b.obs == a.obs && decide (b.seq < a.seq) && (b.loc == .pool || b.loc == .rim) && common a b

/-! ### The flight list -/

/-- The state with the Hub changed. -/
def State.hubf (s : State) (f : HubSt → HubSt) : State := { s with hub := f s.hub }
/-- The state with the accesses in flight changed. -/
def State.setFlight (s : State) (l : List Access) : State := s.hubf fun h => { h with flight := l }
/-- An access replaced by its new form. -/
def State.upd (s : State) (a : Access) : State :=
  s.setFlight (s.hub.flight.map fun b => if b.seq = a.seq then a else b)
/-- An access taken out of the flight. -/
def State.leave (s : State) (a : Access) : State := s.setFlight (s.hub.flight.filter fun b => b.seq != a.seq)
/-- Accesses in a place. -/
def inLoc (s : State) (l : Loc) : List Access := s.hub.flight.filter fun a => a.loc == l
/-- Those of a sector's pool, in a rim's queue, and in a rim's output stage. -/
def poolOf (s : State) (sector : Nat) : List Access := (inLoc s .pool).filter fun a => a.sector == sector
def rimQueue (s : State) (layer i : Nat) : List Access :=
  s.hub.flight.filter fun a => (a.loc == .rim) && a.layer == layer && a.rim == i
def outStage (s : State) (layer i : Nat) : List Access :=
  (inLoc s .out).filter fun a => a.layer == layer && a.rim == i

/-- Room for an access in a place of a given depth and reserve for level 1 (R175). -/
def roomIn (s : State) (arb depth reserve : Nat) (there : List Access) (a : Access) : Bool :=
  decide (there.length < depth) &&
    (level s arb a == 1 || decide ((there.filter fun b => level s arb b != 1).length < depth - reserve))

/-! ### Rims that cannot be reached -/

/-- Power state of a physical rim: 0 ON, 1 DRAINING, 2 FREEWHEEL, 3 OFF, 4 WAKING, 5 PARKED (R498). -/
def rimPower (s : State) (layer p : Nat) : Nat := s.get (rimBase layer p) RIM_PWR_STAT_STATE
/-- The rims of a handle (R74): pairs of layer and logical rim. Sixteen frames whose index starts at a multiple of 16 lie in
sixteen rims. -/
def Desc.rims (d : Desc) : List (Nat × Nat) :=
  let lo := gpOf d.baseLayer d.baseFrame
  let hi := lo + d.extentM1
  (List.range 8).flatMap fun n =>
    let a := max lo (gpOf n 0)
    let b := min hi (gpOf n 0 + framesIn n - 1)
    if b < a then []
    else if 31 ≤ b - a + 1 then (List.range 16).map fun i => (n, i)
    else ((List.range (b - a + 1)).map fun k => (n, rimOfFrame (d.frame (a + k - lo)).2)).eraseDups
/-- A power policy permits a rim state (R72): 0 ON, 2 FREEWHEEL, 3 OFF. -/
def policyPermits (policy st : Nat) : Bool := st == 0 || (st == 2 && policy != 0) || (st == 3 && policy == 3)
/-- A rim may be in a state (R73). -/
def rimPermits (s : State) (layer i st : Nat) : Bool :=
  (st == 0 || !(layer == 0 && s.get pgCACHE CACHE_SEC_STAT_CUR != 0)) &&
    s.handles.all fun h => policyPermits h.2.power st || !h.2.rims.contains (layer, i)
/-- The status an access completes with because of its rim, if any (R52, R72, R73, R153): FAULT without a physical rim in
service, ASLEEP at a rim not ON whose policy does not wake it. A rim left in a state that is no longer permitted is being woken, and
every access waits for it (R480). -/
def rimRefusal (s : State) (layer i policy : Nat) : Option Nat :=
  let p := physOf s layer i
  if p = 31 ∨ !rimUp s layer i then some stFAULT
  else
    let st := rimPower s layer p
    if st = 0 ∨ st = 1 ∨ st = 4 then none
    else if policy ≤ 1 then none
    else if (st = 2 ∨ st = 3) ∧ !rimPermits s layer i st then none
    else some stASLEEP
/-- An access waits for its rim: it is waking, or it is to be woken for a policy that waits (R72, R478). -/
def rimWaits (s : State) (layer i : Nat) : Bool := rimPower s layer (physOf s layer i) != 0

/-- A wake is asked for at a rim in FREEWHEEL, OFF or draining toward them (R72, R478): it joins the wakes that wait. -/
def State.askWake (s : State) (layer p : Nat) : State :=
  let st := rimPower s layer p
  s.cond ((st == 1 || st == 2 || st == 3) && !s.wakes.contains (17 * layer + p)) fun s =>
    { s with wakes := s.wakes ++ [17 * layer + p] }

/-- The state with the synchronisation plane changed. -/
def State.syn (s : State) (f : SyncSt → SyncSt) : State := { s with sync := f s.sync }
/-- A line of a slot-semantics request settles at its rim, or before it, with a status (R325 to R327). The scale entry of
line k counts as line 64 + k. -/
def State.settleLine (s : State) (x tag line status : Nat) : State :=
  s.syn fun y => { y with changes := y.changes.map fun c =>
    if c.x = x ∧ c.tag = tag ∧ c.go.contains line then
      { c with go := c.go.filter (· != line), bad := c.bad || decide (1 < status) } else c }

/-- An access settles at its rim, or before it (R325, R327). -/
def State.settleAcc (s : State) (a : Access) (status : Nat) : State :=
  match a.src with
  | .portLine x tag line => s.settleLine x tag line status
  | .portScale x tag line => s.settleLine x tag (64 + line) status
  | _ => s

/-! ### Leaving with a status, without a grant -/

/-- An access completed with a status where it stands: it goes to the merge with no data (R152), and no longer counts in its TID's
occupancy (R203). -/
def State.failAccess (s : State) (a : Access) (st : Nat) : State :=
  let s := s.settleAcc a st
  (s.upd { a with loc := .merge, status := st, segs := a.segs.map (fun x => { x with data := 0 }), sent := false }).occDown a.tid

/-! ### At the rim -/

/-- What the accesses in flight have written to segments of a frame has been read or overwritten, so that it stays (R190, R348). -/
def State.observed (s : State) (layer frame : Nat) (segs : List (Nat × Nat)) : State :=
  s.setFlight (s.hub.flight.map fun b =>
    if b.undo.isEmpty then b
    else { b with seen := b.seen || (b.layer == layer && b.frame == frame && b.segs.any fun x => segs.contains (x.row, x.col)) })
/-- The places of the segments of an access. -/
def Access.places (a : Access) : List (Nat × Nat) := a.segs.map fun x => (x.row, x.col)
/-- The stored words of the segments of an access, at the rim that serves its frame and at the one that shadows it: segment
number and word index. -/
def Access.words (s : State) (a : Access) : List (Nat × Nat) :=
  (physOf s a.layer a.rim :: (mirrorOf s a.layer a.rim).toList).flatMap fun p =>
    a.segs.mapIdx fun k x => (k, wordIdx a.layer p (slotOfFrame a.frame) x.row x.col)
/-- What a write has changed between two states, for the case that it is lost (R190). -/
def Access.undoOf (a : Access) (old new : State) : List Undo :=
  (a.words old).filterMap fun x =>
    let i := x.2
    let was : Bool × Bool := (old.array.validA.contains i, old.array.validB.contains i)
    if wordAt old i = wordAt new i ∧ was = (new.array.validA.contains i, new.array.validB.contains i) then none
    else some ⟨x.1, i, wordAt old i, was.1, was.2, wordAt new i⟩
/-- The words that an access in flight has changed noted with it. -/
def State.noteWrite (s old : State) (a : Access) : State :=
  let l := a.undoOf old s
  s.setFlight (s.hub.flight.map fun b => if b.seq = a.seq then { b with undo := b.undo ++ l } else b)

/-- Whether an access needs a read-modify-write now (R55, R56, R225, R232). -/
def Access.rmw (s : State) (a : Access) : Bool :=
  match a.op with
  | .acc _ | .sacc _ _ | .atomic .. => true
  | .write => let p := physOf s a.layer a.rim
    a.segs.any fun x => needsRmw s a.layer p a.frame x.row x.col x.mask
  | _ => false
/-- An access writes in the rim access that it is granted in: a write of a segment that needs no read-modify-write. -/
def Access.writesNow (s : State) (a : Access) : Bool :=
  match a.op with
  | .write => let p := physOf s a.layer a.rim
    a.segs.any fun x => !needsRmw s a.layer p a.frame x.row x.col x.mask
  | _ => false
/-- Banks of an access: a loopback access takes those of its segments too. -/
def Access.banks (a : Access) : List Nat := a.segs.map fun x => bankOf x.row x.col

/-- A correction write-back queued for a segment (R445), with its charge: those found in one rim access carry its number. -/
def State.queueWb (s : State) (a : Access) (r c : Nat) (data : Seg) : State :=
  let mine := fun (b : WriteBack) => b.layer == a.layer && b.frame == a.frame && b.row == r && b.col == c
  if s.array.wbs.any mine then s
  else if 16 ≤ (s.array.wbs.filter fun b => b.layer == a.layer && b.rim == a.rim).length then
    s.bumpSat pgINTEG (.word INTEG_WB_SKIP)
  else
    let wb : WriteBack := ⟨a.layer, a.rim, a.frame, r, c, data, a.tid, s.pcNow, a.racc, s.pcDev⟩
    let s := s.arr fun x => { x with wbs := x.wbs ++ [wb] }
    s.charge a.tid 0 1

/-- A read of the segments of an access (R34, R442, R445): data, poison and write-backs. -/
def readSegs (s : State) (a : Access) : State :=
  let p := physOf s a.layer a.rim
  let s := s.observed a.layer a.frame a.places
  let rec go (s : State) (k pm : Nat) : List SegOp → List SegOp × Nat × List SegRead × State
    | [] => ([], pm, [], s)
    | x :: xs =>
      let (rd, s) := readSeg s a.layer p a.frame x.row x.col
      let s := countCheck s a.layer p rd
      let s := s.cond rd.corrected fun s => s.queueWb a x.row x.col rd.data
      let (ys, pm, rs, s) := go s (k + 1) (if rd.bad then pm + 2 ^ k else pm) xs
      ({ x with data := if rd.bad then 0 else rd.data } :: ys, pm, rd :: rs, s)
  let (segs, pm, rs, s) := go s 0 0 a.segs
  let n := fun (f : SegRead → Bool) => (rs.filter f).length
  s.upd { a with
    segs := segs, pmask := pm, status := if pm = 0 then stOK else stPOISON, loc := .out, nval := n (·.valid),
    ncor := n (·.corrected), ninv := n fun r => !r.valid && !r.bad }

/-- The new data of one segment of a read-modify-write, and what the access answers for it: the old word for an atomic. -/
def mergeOp (op : AccOp) (x : SegOp) (old : Seg) : Option Seg × Seg :=
  match op with
  | .acc f => (some (accSeg f none x.mask old x.data), 0)
  | .sacc f g => (some (accSeg f (some g) x.mask old x.data), 0)
  | .atomic aop aw off a b =>
    let w := if aw then 64 else 32
    let o := bits old.toNat (8 * off + w - 1) (8 * off)
    ((atomicNew aop w o a b).map fun n =>
      BitVec.ofNat 256 (old.toNat - o * 2 ^ (8 * off) + n * 2 ^ (8 * off)), BitVec.ofNat 256 o)
  | _ => (some (mergeBytes x.mask old x.data), 0)

/-- The read half of a read-modify-write (R56, R231, R234): old words checked and merged, the write half reserved. A segment
that fails its check is not written. Segments of a write that need no read are merged as R55 gives. -/
def rmwRead (s : State) (a : Access) : State :=
  let p := physOf s a.layer a.rim
  let s := s.observed a.layer a.frame a.places
  let rec go (s : State) (k pm : Nat) : List SegOp → List SegOp × Nat × List (Nat × Nat × Seg) × State
    | [] => ([], pm, [], s)
    | x :: xs =>
      let isWrite := match a.op with | .write => true | _ => false
      if isWrite && !needsRmw s a.layer p a.frame x.row x.col x.mask then
        let s := writeMasked s a.layer a.frame x.row x.col x
        let (ys, pm, ws, s) := go s (k + 1) pm xs
        ({ x with data := 0 } :: ys, pm, ws, s)
      else
        let (rd, s) := readSeg s a.layer p a.frame x.row x.col
        let s := countCheck s a.layer p rd
        let (new, ans) := mergeOp a.op x rd.data
        let s := s.cond (rd.corrected && new.isNone) fun s => s.queueWb a x.row x.col rd.data
        let (ys, pm, ws, s) := go s (k + 1) (if rd.bad then pm + 2 ^ k else pm) xs
        let ws := if rd.bad then ws else match new with | some d => (x.row, x.col, d) :: ws | none => ws
        ({ x with data := if rd.bad then 0 else ans } :: ys, pm, ws, s)
  let (segs, pm, ws, s) := go s 0 0 a.segs
  let h : RmwHalf := ⟨a.seq, a.frame, ws, a.banks, a.tid, a.src⟩
  let s := s.rim a.layer p fun r => { r with half := some h }
  let s := s.bump (rimBase a.layer p) RIM_RMW_CNT_COUNT
  s.upd { a with segs := segs, pmask := pm, status := if pm = 0 then stOK else stPOISON, loc := .half }

/-- The reserved write half performed (R56, R180). The access goes to the merge. -/
def State.writeHalf (s : State) (layer p : Nat) : State :=
  match (rimOf s layer p).half with
  | none => s
  | some h =>
    let old := s
    let s := s.each h.writes fun s w => writeSeg s layer h.frame w.1 w.2.1 w.2.2
    let s := s.rim layer p fun r => { r with half := none }
    match s.hub.flight.find? fun a => a.seq == h.seq with
    | some a => ((s.settleAcc a a.status).upd { a with loc := .merge }).noteWrite old a
    | none => s

/-- An access of the cache controller, which itself says what becomes of a line that fails its check (R372). -/
def Access.ofCache (a : Access) : Bool := match a.src with | .cache _ => true | _ => false
/-- The lowest bit set in a mask. -/
def lowBit (m : Nat) : Nat := Nat.log2 (m &&& (m ^^^ (m - 1)))

/-- A grant counted to its TID, with the age at it, and its promotions where it is neither Braked nor urgent (R178, R194, R213). -/
def State.countGrant (s : State) (arb : Nat) (a : Access) : State :=
  let lv := level s arb a
  let s := s.tidCnt a.tid fun c => { c with
    grants := (c.grants + 1) % 2 ^ 64, waitSum := (c.waitSum + (s.pcNow - a.born)) % 2 ^ 64 }
  s.cond (lv != 6 && lv != 1) fun s => s.bump pgHUB (.word HUB_PROMO_CNT) (baseLevel s arb a - lv)

/-- The poison of an access logged and marked: one entry, at its lowest poisoned segment (R450, R452), but one for each
uncorrectable segment that a scrub pass finds. -/
def State.poisonAcc (s : State) (a : Access) (kind : Nat) : State :=
  let ks := (List.range a.segs.length).filter (bit a.pmask)
  s.each (if kind = 6 then ks else ks.take 1) fun s k =>
    let x := a.segs.getD k ⟨0, 0, 0, 0⟩
    s.poison kind a.layer a.frame x.row x.col a.tid a.step a.source

/-- One granted access performed at its rim (R180), in rim access `a.racc`: counted to its TID, and logged and marked when it is
poisoned. -/
def performAt (s : State) (arb : Nat) (a : Access) : State :=
  let s := s.countGrant arb a
  let a := { a with grantLv := some (level s arb a), urgAt := a.stream.map (urgency s) }
  let kind := if a.pk = 0 && a.rmw s then 1 else a.pk
  let s := s.upd a
  let old := s
  let s := if a.rmw s then rmwRead s a
    else match a.op with
      | .read => readSegs s a
      | .write =>
        let s := s.each a.segs fun s x => writeMasked s a.layer a.frame x.row x.col x
        (s.observed a.layer a.frame a.places).upd { a with loc := .merge }
      | _ => s.upd { a with loc := .merge }
  let s := s.cond (match a.op with | .write => true | _ => false) fun s => s.noteWrite old a
  let s := s.occDown a.tid
  match s.hub.flight.find? fun b => b.seq == a.seq with
  | none => s
  | some b =>
    let s := s.cond (b.loc != .half || b.status == stPOISON) fun s => s.settleAcc b b.status
    if b.pmask = 0 ∨ b.ofCache then s else s.poisonAcc b kind

/-! ### The choice of a rim (R180) -/

/-- The choice of R180 among entries in serving order: the winner, then the segments that fit into the banks it leaves. -/
def rimFill (s : State) (free : List Nat) (rmwOk : Bool) : List Access → List Access
  | [] => []
  | a :: l =>
    if !a.line && a.banks.all free.contains && (rmwOk || !a.rmw s) then
      a :: rimFill s (free.filter fun b => !a.banks.contains b) (rmwOk && !a.rmw s) l
    else rimFill s free rmwOk l
/-- The winner of R180. -/
def rimWinner (s : State) (free : List Nat) (rmwOk : Bool) (l : List Access) : Option Access :=
  l.find? fun a => a.banks.all free.contains && (rmwOk || !a.rmw s)
/-- Every access that a rim grants in one pc. -/
def rimChoice (s : State) (free : List Nat) (rmwOk : Bool) (l : List Access) : List Access :=
  match rimWinner s free rmwOk l with
  | none => []
  | some w =>
    w :: rimFill s (free.filter fun b => !w.banks.contains b) (rmwOk && !w.rmw s) (l.filter fun a => a.seq != w.seq)

/-- The displacement of a level-1 grant (R215): the access that would have been granted had it been absent. -/
def displaced (choice : List Access → List Access) (l granted : List Access) (a : Access) : Option Access :=
  (choice (l.filter fun b => b.seq != a.seq)).find? fun b => !granted.any fun g => g.seq == b.seq
/-- Displacements counted for the level-1 grants of an arbiter. -/
def State.countDispl (s : State) (arb : Nat) (choice : List Access → List Access) (l granted : List Access) : State :=
  s.each (granted.filter fun a => level s arb a == 1) fun s a =>
    match displaced choice l granted a with
    | some b => s.tidCnt b.tid fun c => { c with displ := (c.displ + 1) % 2 ^ 64 }
    | none => s

/-- A frame whose class has changed waits for its clear (R92). -/
def awaitsClear (s : State) (layer frame : Nat) : Bool :=
  match s.array.clear with
  | some j => j.span.has layer frame && classOf j.old layer frame != j.cls
  | none => false

/-- The peak-current governor withholds a grant (R494). -/
def govHolds (s : State) (arb : Nat) (a : Access) : Bool :=
  let m := s.get pgPOWER POWER_GOV_CTL_ACT_MAX
  m != 0 && decide (m ≤ s.hub.govStarts) && decide (4 ≤ level s arb a)

/-! ### What a rim chooses among -/

/-- A correction write-back as an entry of its rim: level 4 under the TID of the read that found the error (R179, R445). -/
def WriteBack.access (b : WriteBack) (l : List WriteBack) : Access :=
  let mine := l.filter fun w => w.id == b.id
  { seq := b.id, src := .wback b.id, op := .write, line := false, layer := b.layer, frame := b.frame,
    segs := mine.map (fun w => ⟨w.row, w.col, w.data, fullMask⟩), tid := b.tid, step := 0, obs := 5000, wide := 4,
    stream := none, born := b.born, bornD := b.bornD, policy := 4, loc := .rim, status := stOK, pmask := 0, pk := 0,
    source := 77, mcast := 0 }
/-- The correction write-backs of a rim, those of one rim access together (R445). -/
def wbEntries (s : State) (layer i : Nat) : List Access :=
  let l := s.array.wbs.filter fun b => b.layer == layer && b.rim == i
  (l.map (·.id)).eraseDups.filterMap fun id => (l.find? fun b => b.id == id).map fun b => b.access l
/-- The accesses that units perform at a rim and that wait for its grant. -/
def claimsAt (s : State) (layer i : Nat) : List Access :=
  s.hub.claims.filter fun a => (a.loc == .rim) && a.layer == layer && a.rim == i
/-- The next line of a copy as an entry of its rim (R463, R563): it waits with its age at the level of its TID (R177, R179). -/
def CopyJob.access (c : CopyJob) (layer : Nat) : Access :=
  { seq := c.seq, src := .copy layer, op := .read, line := true, layer := layer, frame := frameAt c.rim (c.next / 16),
    segs := (lineSegs false (c.next % 16)).map fun x => ⟨x.1, x.2, 0, 0⟩, tid := c.tid, step := c.step, obs := 5000, wide := 4, stream := none, born := c.born,
    bornD := c.bornD, policy := 4, loc := .rim, status := stOK, pmask := 0, pk := 7, source := 77, mcast := 0 }
/-- Frame slots of a rim of a layer. -/
def slotsOf (layer : Nat) : Nat := framesIn layer / 16
/-- A copy has lines left. -/
def CopyJob.more (c : CopyJob) (layer : Nat) : Bool := decide (c.next < 16 * slotsOf layer)
/-- The line that a copy of a rim asks for. -/
def copyEntries (s : State) (layer i : Nat) : List Access :=
  match s.integ.copies.find? fun e => e.1 == layer with
  | some (_, c) => if c.rim = i ∧ c.more layer then [c.access layer] else []
  | none => []
/-- Everything that asks for a grant at a rim: its queue, the accesses that units perform there, its write-backs, and a copy. -/
def rimEntries (s : State) (layer i : Nat) : List Access :=
  rimQueue s layer i ++ claimsAt s layer i ++ wbEntries s layer i ++ copyEntries s layer i
/-- What stands in the queue of a rim (R175): a line in a kernel's write buffer does not. -/
def rimPlaces (s : State) (layer i : Nat) : List Access :=
  rimQueue s layer i ++ (claimsAt s layer i).filter fun a => match a.src with | .kstore .. => false | _ => true
/-- An access that crosses the Hub and so takes an entry of the output stage. -/
def Access.crosses (a : Access) : Bool := match a.src with | .inplace _ | .kstore .. | .wback _ | .copy _ => false | _ => true
/-- The entries of a list that a rim may grant in this pc (R92, R180, R181, R496), output room for a read apart. -/
def eligible (s : State) (layer i : Nat) (l : List Access) : List Access :=
  l.filter fun a => !heldBack s a && !awaitsClear s layer a.frame && !stopped s (arbRim layer i) a
/-- The reads of a choice that find an entry of the output stage, each after those before it (R175). -/
def takeOut (s : State) (arb : Nat) (out : List Access) : List Access → List Access
  | [] => []
  | a :: l =>
    if !a.isRead || !a.crosses then a :: takeOut s arb out l
    else if roomIn s arb 8 4 out a then a :: takeOut s arb (out ++ [a]) l
    else takeOut s arb out l
/-- The choice of a rim with output room: an entry that finds none is not eligible, so the others are chosen from again.
`fuel` is above the entries. -/
def rimGrant (s : State) (arb : Nat) (out : List Access) (free : List Nat) (rmwOk : Bool) : Nat → List Access → List Access
  | 0, _ => []
  | fuel + 1, l =>
    let won := rimChoice s free rmwOk l
    let got := takeOut s arb out won
    match won.find? fun a => !got.any fun b => b.seq == a.seq with
    | none => won
    | some a => rimGrant s arb out free rmwOk fuel (l.filter fun b => b.seq != a.seq)

/-- One access of a physical rim counted (R64, R213, R485, R494): to the rim, to the governor, to the ledger, and to each TID that it
serves. -/
def State.oneAcc (s : State) (layer p : Nat) (tids : List Nat) (owner : Option Nat) : State :=
  let s := s.bump (rimBase layer p) RIM_ACC_CNT_COUNT
  let s := s.hubf fun h => { h with govStarts := h.govStarts + 1 }
  let s := s.energy 0 1 (tids.headD 0) owner
  s.each tids fun s t => s.tidCnt t fun c => { c with rimAcc := (c.rimAcc + 1) % 2 ^ 64 }
/-- A rim access of logical rim i counted for the TIDs that it serves, and the mirrored access of the rim that shadows it for those
that it writes for (R53, R64). -/
def State.countAcc (s : State) (layer i : Nat) (tids writers : List Nat) (owner : Option Nat) : State :=
  s.cond (!tids.isEmpty) fun s =>
    let s := s.oneAcc layer (physOf s layer i) tids owner
    match mirrorOf s layer i with
    | some q => s.cond (!writers.isEmpty) fun s => s.oneAcc layer q writers owner
    | none => s

/-! ### Accesses that units perform where they stand: steps of operation records and kernels -/

/-- The TID for which a reserved write half writes, if it writes. -/
def RmwHalf.writers (h : RmwHalf) : List Nat := if h.writes.isEmpty then [] else [h.tid]
/-- The reservation of a rim settled, and counted, before another access of the same rim is performed (R59, R234). -/
def State.settle (s : State) (layer i : Nat) : State :=
  let p := physOf s layer i
  match (rimOf s layer p).half with
  | none => s
  | some h => (s.writeHalf layer p).countAcc layer i [h.tid] h.writers h.src.owner

/-- An access that a unit performs where it stands (log entry 46), of a base level. -/
def inAccess (s : State) (unit wide layer frame : Nat) (op : AccOp) (segs : List SegOp) (tid policy : Nat) : Access :=
  { seq := 0, src := .inplace unit, op := op, line := segs.length == 16, layer := layer, frame := frame, segs := segs,
    tid := tid, step := tidStep s tid, obs := 5001 + unit, wide := wide, stream := none, born := s.pcNow, bornD := s.pcDev,
    policy := policy, loc := .rim, status := stOK, pmask := 0, pk := 3, source := 77, mcast := 0 }
/-- Two such accesses are the same one, asked for again. -/
def Access.same (a b : Access) : Bool :=
  a.layer == b.layer && a.frame == b.frame && a.tid == b.tid && a.isRead == b.isRead && a.places == b.places
/-- The claims of a unit dropped. -/
def State.dropClaims (s : State) (unit : Nat) : State :=
  s.hubf fun h => { h with claims := h.claims.filter fun c => c.src != .inplace unit }
/-- The granted claim that a direct access consumes, and the state without it. -/
def State.takeClaim (s : State) (a : Access) : Option Access × State :=
  match s.hub.claims.find? fun c => c.loc == .merge && c.same a with
  | some c => (some c, s.hubf fun h => { h with claims := h.claims.filter fun d => d.seq != c.seq })
  | none => (none, s)

/-- The claim that a direct access is made under, with its place in the queue, its STEP and its rim access; its latency is
binned (R211, R214). An access for which nothing was claimed is counted as it is performed. -/
def State.underClaim (s : State) (a : Access) : Access × State :=
  match s.takeClaim a with
  | (some c, s) => (c, s.latency a.tid (s.pcDev - c.bornD))
  | (none, s) =>
    let s := s.countAcc a.layer a.rim [a.tid] (if a.writesNow s then [a.tid] else []) a.owner
    (a, (s.countGrant (arbRim a.layer a.rim) a).latency a.tid 0)

/-- Segments of one frame read directly in one rim access: their data, zero where they are poisoned, the poison mask, and the
state. Poison is logged and marked as R450 gives. -/
def directRead (s : State) (layer frame : Nat) (segs : List (Nat × Nat)) (tid : Nat) : List Seg × Nat × State :=
  let a := inAccess s 0 4 layer frame .read (segs.map fun x => ⟨x.1, x.2, 0, 0⟩) tid 0
  let (c, s) := (s.settle layer a.rim).underClaim a
  let a := { c with seq := s.hub.seqCtr }
  let s := s.hubf fun h => { h with seqCtr := h.seqCtr + 1 }
  let s := readSegs (s.setFlight (s.hub.flight ++ [a])) a
  match s.hub.flight.find? fun b => b.seq == a.seq with
  | none => ([], 0, s)
  | some b => (b.segs.map (·.data), b.pmask, (s.poisonAcc b b.pk).leave a)

/-- Segments of one frame written directly, under masks, in one rim access. A partial write that needs its old word reads it, and its
write half is left reserved; it is not made where the old word fails its check (R55, R56, R182). Answers the poison mask. -/
def directWrite (s : State) (layer frame : Nat) (xs : List SegOp) (tid : Nat) : Nat × State :=
  let a := inAccess s 0 4 layer frame .write xs tid 0
  let i := a.rim
  let p := physOf s layer i
  let (c, s) := (s.settle layer i).underClaim a
  let two := a.rmw s
  let s := s.observed layer frame a.places
  let rec go (s : State) (k pm : Nat) : List SegOp → Nat × List (Nat × Nat × Seg) × State
    | [] => (pm, [], s)
    | x :: xs =>
      if needsRmw s layer p frame x.row x.col x.mask then
        let (rd, s) := readSeg s layer p frame x.row x.col
        let s := countCheck s layer p rd
        let (pm, ws, s) := go s (k + 1) (if rd.bad then pm + 2 ^ k else pm) xs
        (pm, if rd.bad then ws else (x.row, x.col, mergeBytes x.mask rd.data x.data) :: ws, s)
      else go (writeMasked s layer frame x.row x.col x) (k + 1) pm xs
  let (pm, ws, s) := go s 0 0 xs
  let s := s.cond two fun s =>
    (s.rim layer p fun r => { r with half := some ⟨c.seq, frame, ws, a.banks, tid, c.src⟩ }).bump (rimBase layer p) RIM_RMW_CNT_COUNT
  (pm, s.poisonAcc { c with pmask := pm, segs := xs } c.pk)

/-! ### Entering a pool (R174 to R176, R188, R199, R203, R204) -/

/-- Room for an access in its sector pool, within its TID's queue share (R175, R204). -/
def poolRoom (s : State) (a : Access) : Bool :=
  !shareFull s a.tid && roomIn s (arbUp a.sector) 256 32 (poolOf s a.sector) a

/-- An access enters its sector pool: numbered and aged (R178), charged (R199), counted (R195, R203). -/
def State.enterPool (s : State) (a : Access) : State :=
  let sec := a.sector
  let s := s.setFlight (s.hub.flight ++ [{ a with seq := s.hub.seqCtr, loc := .pool, pooled := true }])
  let s := s.hubf fun h => { h with seqCtr := h.seqCtr + 1 }
  let s := s.charge a.tid a.charge.1 a.charge.2
  let n := (poolOf s sec).length
  s.cond (decide (s.get pgHUB (HUB_SPOOL_HWM.at 4 sec) < n)) fun s => s.put pgHUB (HUB_SPOOL_HWM.at 4 sec) n

/-- An access that its rim refuses before it enters a pool (R153): split, numbered and charged like any other (R174, R199), it completes
with a status. -/
def State.enterRefused (s : State) (a : Access) (st : Nat) : State :=
  let a := { a with seq := s.hub.seqCtr, loc := .merge, status := st, segs := a.segs.map fun x => { x with data := 0 } }
  let s := (s.settleAcc a st).setFlight (s.hub.flight ++ [a])
  let s := s.hubf fun h => { h with seqCtr := h.seqCtr + 1 }
  s.charge a.tid a.charge.1 a.charge.2

/-- The unit that holds an access for its TID's queue share (R204): a mover channel, or an access of another unit. -/
def Src.unit : Src → Nat
  | .mover c u => 4 * c + u
  | .engFetch c _ => 4 * c + 3
  | .remote id _ => 66 + 2 * id
  | .cache job => 65 + 2 * job
  | _ => 64
/-- A unit holds no access for its TID's queue share (R204). -/
def State.shareFree (s : State) (u : Nat) : State := { s with shareHeld := s.shareHeld.filter fun e => e.1 != u }
/-- An access of a unit that no split stage holds, sent into its pool: refused at once where its rim cannot be reached, not sent where
there is no room, and then held for its TID's queue share where that is full (R153, R175, R204). Answers whether it went. -/
def State.sendAccess (s : State) (a : Access) : Bool × State :=
  let s := s.shareFree a.src.unit
  match rimRefusal s a.layer a.rim a.policy with
  | some st => (true, s.enterRefused a st)
  | none =>
    if poolRoom s a then (true, s.enterPool a)
    else (false, s.cond (shareFull s a.tid) fun s => { s with shareHeld := s.shareHeld ++ [(a.src.unit, a.tid)] })

/-! ### Copies between physical rims (R463, R563) -/

/-- One segment copied between two physical rims of a layer: the raw word, corrected where it can be, with its valid bits as they
are; an uncorrectable one is logged (R452). -/
def State.copySeg (s : State) (layer : Nat) (j : CopyJob) (a : Access) (x : SegOp) : State :=
  let slot := j.next / 16
  let w := wordIdx layer j.src slot x.row x.col
  let v := wordIdx layer j.dst slot x.row x.col
  let (rd, s) := readSeg s layer j.src a.frame x.row x.col
  let s := countCheck s layer j.src rd
  let s := s.cond rd.bad fun s => s.poison 7 layer a.frame x.row x.col j.tid j.step 77
  let word := if rd.corrected then encodeWord (classOf s.array.cls layer a.frame) (segPta layer a.frame x.row x.col) rd.data
    else wordAt s w
  let s := s.cond rd.valid fun s => s.setWord v word
  s.arr fun a => { a with
    validA := NSet.put a.validA v (a.validA.contains w), validB := NSet.put a.validB v (a.validB.contains w) }
/-- The next line of a copy is queued, and charged as a line read and a line write (R198, R199, R211). -/
def State.copyQueue (s : State) (layer : Nat) (j : CopyJob) : State :=
  let j := { j with seq := s.hub.seqCtr, step := tidStep s j.tid, born := s.pcNow, bornD := s.pcDev }
  let s := s.hubf fun h => { h with seqCtr := h.seqCtr + 1 }
  let s := { s with integ := { s.integ with copies := Sp.set s.integ.copies layer j } }
  s.cond (j.more layer) fun s => s.charge j.tid 16 16
/-- A copy of a logical rim of a layer begins. -/
def State.copyStart (s : State) (layer i src dst tid : Nat) : State := s.copyQueue layer ⟨i, src, dst, tid, 0, 0, 0, 0, 0⟩
/-- A copy of a layer ends, or is given up. -/
def State.copyEnd (s : State) (layer : Nat) : State :=
  { s with integ := { s.integ with copies := Sp.del s.integ.copies layer } }
/-- The lost bit of a frame slot carried over once its lines have been copied (DESIGN CHOICE, log entry 30). -/
def State.copyLost (s : State) (layer : Nat) (j : CopyJob) : State :=
  let slot := j.next / 16
  s.cond (j.next % 16 == 15) fun s => s.arr fun a => { a with
    lost := NSet.put a.lost (lostKey layer j.dst slot) (a.lost.contains (lostKey layer j.src slot)) }
/-- The line that a copy asks for is read and written, in one pc of its two rims: the write is another grant, and an access of the
other rim (R53, R213, R214). RIM_STAT.FRAMES counts the frame slots of an evacuation (R463). -/
def State.copyRow (s : State) (arb layer : Nat) (j : CopyJob) : State :=
  let a := j.access layer
  let s := s.observed layer a.frame a.places
  let s := s.each a.segs fun s x => s.copySeg layer j a x
  let s := ((s.copyLost layer j).countGrant arb a).oneAcc layer j.dst [j.tid] none
  let s := s.each [0, 1] fun s _ => s.latency j.tid (s.pcDev - j.bornD)
  let s := s.rim layer j.dst fun r => { r with idleFrom := s.now }
  let s := s.cond (spareRole s layer == 3) fun s => s.put pgINTEG INTEG_RIM_STAT_FRAMES ((j.next + 1) / 16)
  s.copyQueue layer { j with next := j.next + 1 }
/-- The copy of a layer, where one runs. -/
def copyOf (s : State) (layer : Nat) : Option CopyJob := (s.integ.copies.find? fun e => e.1 == layer).map (·.2)
/-- The copy of a logical rim has copied every line. -/
def copied (s : State) (layer i : Nat) : Bool := (copyOf s layer).any fun j => j.rim == i && !j.more layer

/-! ### One pc of a rim -/

/-- The write-backs of one rim access performed (R445): stored, counted, and binned by their latency. -/
def State.doWriteback (s : State) (a : Access) (id : Nat) : State :=
  let mine := s.array.wbs.filter fun w => w.id == id
  let s := s.arr fun x => { x with wbs := x.wbs.filter fun w => w.id != id }
  let s := s.each mine fun s w =>
    storeWord s w.layer w.frame w.row w.col
      (encodeWord (classOf s.array.cls w.layer w.frame) (segPta w.layer w.frame w.row w.col) w.data) false
  (s.latency a.tid (s.pcDev - a.bornD)).bumpSat pgINTEG (.word INTEG_WB_CNT) mine.length
/-- A claim changed. -/
def State.setClaim (s : State) (seq : Nat) (f : Access → Access) : State :=
  s.hubf fun h => { h with claims := h.claims.map fun c => if c.seq = seq then f c else c }
/-- A granted entry of a rim: an access of its queue is performed, a write-back, a line of a copy and a buffered line of a kernel
too, and one that a unit performs may now go on. -/
def State.grantAt (s : State) (arb : Nat) (a : Access) : State :=
  let mark := fun (s : State) => s.setClaim a.seq fun c => { c with loc := .merge, grantLv := some (level s arb a), racc := a.racc }
  match a.src with
  | .inplace _ => (mark s).countGrant arb a
  | .kstore .. => (directWrite ((mark s).countGrant arb a) a.layer a.frame a.segs a.tid).2
  | .wback id => (s.countGrant arb a).doWriteback a id
  | .copy n => match copyOf s n with
    | some j => (s.countGrant arb a).copyRow arb n j
    | none => s
  | _ => performAt s arb a

/-- A line access passed over for a reservation (R180, R182, R194): with the reserved banks free the rim would have chosen a line,
and has not. The model counts one such access in a pc (DESIGN CHOICE, log entry 47). -/
def passedOver (s : State) (arb : Nat) (out : List Access) (half rmwOk : Bool) (l granted : List Access) : Bool :=
  half && match (rimGrant s arb out (List.range 16) rmwOk (l.length + 1) l).head? with
    | some w => w.line && !granted.any fun g => g.seq == w.seq
    | none => false

/-- One pc of the rim of logical rim i: the reserved write half, then the choice of R180 among the eligible entries, and the
counts of the rim access. -/
def rimArb (s : State) (layer i : Nat) : State :=
  let p := physOf s layer i
  if p = 31 ∨ !rimUp s layer i ∨ (rimPower s layer p != 0 && rimPower s layer p != 1) then s
  else
    let arb := arbRim layer i
    let st := rimOf s layer p
    let busy := (st.half.map (·.banks)).getD []
    let s := s.writeHalf layer p
    let free := (List.range 16).filter fun b => !busy.contains b
    let queue := eligible s layer i (rimEntries s layer i)
    let ok := served s arb (queue.filter fun a => !govHolds s arb a)
    let out := outStage s layer i
    let choice := rimGrant s arb out free (!st.norm) (ok.length + 1)
    let id := s.hub.seqCtr
    let granted := (choice ok).map fun a => { a with racc := id }
    let passed := passedOver s arb out st.half.isSome (!st.norm) ok granted
    let withheld := match rimWinner s free (!st.norm) (served s arb queue) with
      | some w => govHolds s arb w
      | none => false
    let halves := st.half.toList
    let tids := (halves.map (·.tid) ++ granted.map (·.tid)).eraseDups
    let writers := (halves.flatMap RmwHalf.writers ++ (granted.filter fun a => a.writesNow s).map (·.tid)).eraseDups
    let owner := (st.half.bind (·.src.owner)) <|> (granted.head?.bind Access.owner)
    let s := (s.countDispl arb choice ok granted).hubf fun h => { h with seqCtr := h.seqCtr + 1 }
    let s := s.each granted fun s a => s.grantAt arb a
    let s := s.rim layer p fun r => { r with norm := passed, idleFrom := if tids.isEmpty then r.idleFrom else s.now }
    let s := s.cond passed fun s => s.bump pgHUB (.word HUB_RMW_PASS_CNT)
    let s := s.cond withheld fun s => s.bump pgPOWER POWER_GOV_HOLD_COUNT
    s.countAcc layer i tids writers owner

end Sys2Proof.Machine
end

