-- ==== Sys2Proof/Machine/Operands.lean ====
section
/-! DEFINITION. The operand forms: the three address forms of R81 to R84 and what a request covers, the lens pairing of a
request, and the checks of R85 with the refusals of R79, R80, R111, R139 to R144, R155 and R226. -/
namespace Sys2Proof.Machine

/-! ### Groups, privilege, rights (spec/03_handles.md R77 to R80) -/

/-- Port group of port x (R77). -/
def portGroup (x : Nat) : Nat :=
  if x < 8 then 0
  else if x < 24 then (if x % 2 = 0 then 1 else 2)
  else if x < 40 then 4
  else if x < 56 then 5
  else 3
/-- A privileged source of handle 0 (R80). -/
def privileged (s : State) (x : Nat) : Bool :=
  if 8 ≤ x ∧ x < 24 then bit (s.get pgHGUARD HANDLE_GUARD_PRIV_MASK_NP) (x - 8)
  else if 56 ≤ x then bit (s.get pgHGUARD HANDLE_GUARD_PRIV_MASK_MV) (x - 56)
  else false

/-- The right an operation needs: bit 0 R, 1 W, 2 X (R78); none for a reserved OP. -/
def rightOf (op : Nat) : Option Nat :=
  if op = 0 then some 0 else if op = 1 ∨ op = 2 then some 1 else if op < 6 then some 2 else none
/-- A descriptor gives a right to a group. -/
def Desc.grants (d : Desc) (group right : Nat) : Bool := bit d.rights (3 * group + right)
/-- Admission under a handle (R79): the right of the group, CORES in groups G0 to G3, TIDLOCK in groups G0 to G5. -/
def Desc.admits (d : Desc) (group : Nat) (right : Option Nat) (core tid : Nat) : Bool :=
  (match right with | some r => d.grants group r | none => true) &&
    (!decide (group ≤ 3) || bit d.cores core) && (!(decide (group ≤ 5) && d.tidlock) || tid == d.owner)

/-- State of a handle: 0 FREE, 1 LIVE, 2 DRAINING (R66). -/
def handleState (s : State) (h : Nat) : Nat := s.get pgHSTATE (HANDLE_STATE_HSTATE_STATE.at 4 h)
def handleGen (s : State) (h : Nat) : Nat := s.get pgHSTATE (HANDLE_STATE_HSTATE_GEN.at 4 h)
/-- The descriptor of a handle named with a generation, when it is LIVE with it (R67). -/
def liveDesc (s : State) (h gen : Nat) : Option Desc :=
  if h = 0 ∨ 512 ≤ h then none
  else if handleState s h = 1 ∧ handleGen s h = gen then (s.handles.find? fun e => e.1 == h).map (·.2) else none

/-- The descriptor that a handle number names, whatever its state; none for handle 0. -/
def descOf (s : State) (h : Nat) : Option Desc := (s.handles.find? fun e => e.1 == h).map (·.2)

/-! ### What a request covers -/

/-- A line of storage: handle frame (0 for a PTA), layer, PTA frame, direction, number. -/
structure LineAt where
  hframe : Nat
  layer  : Nat
  frame  : Nat
  col    : Bool
  num    : Nat
deriving DecidableEq, Repr

/-- Bytes of a lane word of an ATOMIC. -/
def atomicBytes (r : Request) : Nat := if r.aw then 8 else 4
/-- Stored bytes of a segment operation (R139, R143). -/
def segBytes (r : Request) : Nat := if r.op = 5 then atomicBytes r else r.lenM1 + 1

/-- Handle frame and line number of line k of a line request by handle (R82, R83). -/
def handleLine (r : Request) (trow k : Nat) : Nat × Nat :=
  if r.form = 0 then
    let n := r.addr / 512 + k
    (n / 16, n % 16)
  else
    let tr := bits r.addr 35 20
    let tc := bits r.addr 19 4
    let l := r.addr % 16 + k
    (if r.dir then (tr * trow + (tc + l / 16), l % 16) else ((tr + l / 16) * trow + tc, l % 16))

/-- Line k of a line request: by PTA (R84), or by a handle's descriptor. -/
def lineAt (r : Request) (d : Option Desc) (k : Nat) : LineAt :=
  match d with
  | none =>
    let l := if r.dir then ptaByte r.addr / 32 else ptaByte r.addr / 512
    ⟨0, ptaLayer r.addr, ptaFrame r.addr, r.dir, l + k⟩
  | some d =>
    let (hf, l) := handleLine r d.trow k
    let (layer, frame) := d.frame hf
    ⟨hf, layer, frame, r.dir, l⟩

/-- The frame of a segment operation: handle frame, layer, PTA frame, first byte of the frame. -/
def segAt (r : Request) (d : Option Desc) : Nat × Nat × Nat × Nat :=
  match d with
  | none => (0, ptaLayer r.addr, ptaFrame r.addr, ptaByte r.addr)
  | some d =>
    let hf := r.addr / 8192
    let (layer, frame) := d.frame hf
    (hf, layer, frame, r.addr % 8192)

/-- The segments of `len` bytes at byte b of a frame, with their data and masks; `data` is a little-endian number. -/
def cutSegs (b len data : Nat) : List SegOp :=
  let first := b / 32
  let count := (b + len - 1) / 32 - first + 1
  let shifted := data % 256 ^ len * 256 ^ (b % 32)
  let mask := (2 ^ len - 1) * 2 ^ (b % 32)
  (List.range count).map fun j =>
    { row := (first + j) / 16, col := (first + j) % 16, data := BitVec.ofNat 256 (shifted / 2 ^ (256 * j)),
      mask := BitVec.ofNat 32 (mask / 2 ^ (32 * j)) }

/-- The sixteen segments of a line, with a line's 512 bytes as data. -/
def cutLine (col : Bool) (num data : Nat) : List SegOp :=
  (lineSegs col num).mapIdx fun j x =>
    { row := x.1, col := x.2, data := BitVec.ofNat 256 (data / 2 ^ (256 * j)), mask := fullMask }

/-- Segments joined to a little-endian number, lowest first. -/
def joinSegs : List SegOp → Nat
  | [] => 0
  | x :: xs => x.data.toNat + 2 ^ 256 * joinSegs xs

/-- Lines of a request: 1 for a segment operation. -/
def reqLines (r : Request) : Nat := if r.seg then 1 else r.lenM1 + 1

/-! ### The lens of a request (spec/04_formats_and_lens.md R109 to R112, R122) -/

/-- A converting request (R109), given the FORMAT of the handle it names, `none` for handle 0. -/
def converting (r : Request) (fmt : Option Nat) : Bool :=
  r.lens != 0 && (match fmt with | some f => r.lens != f | none => true)
/-- Engine bytes of `n` stored bytes (R112). -/
def engineBytes (conv : Bool) (fmt lens n : Nat) : Nat := if conv then n * fmtWidth lens / fmtWidth fmt else n
/-- The stored bytes a request covers. -/
def storedBytes (r : Request) : Nat := if r.seg then segBytes r else 512 * (r.lenM1 + 1)

/-- The pairing of a converting request is supported (R110, R111). -/
def pairingOk (x : Nat) (r : Request) (d : Option Desc) : Bool :=
  match d with
  | none => r.lens == 0
  | some d =>
    if !converting r (some d.format) then true
    else
      portKind x != 2 && d.format != 0 && decide (r.op ≤ 1) && lensPair (r.op == 1) d.format r.lens &&
        (!isMX d.format ||
          (if r.seg then decide (r.addr / 8192 < d.splane)
           else (List.range (reqLines r)).all fun k => decide ((handleLine r d.trow k).1 < d.splane)))

/-! ### Check step 4 (R85): the form of a request -/

/-- The pairing of OP, form and port of R140, with the reserved encodings of R139 and R81. -/
def formOk (s : State) (x : Nat) (r : Request) (d : Option Desc) : Bool :=
  let kind := portKind x
  let conv := converting r (d.map (·.format))
  -- admitted operations
  (decide (r.op < 6)) &&
  (match r.op with
    | 0 | 1 => kind != 0 || !r.seg
    | 2 => !r.seg
    | 3 | 4 => kind != 2 && (kind != 0 || !r.seg)
    | _ => kind == 1 && r.seg) &&
  -- forms and their handles
  (if r.form = 2 then r.handle == 0 && decide (r.addr < 2 ^ 30)
   else r.handle != 0 && (if r.form = 0 then decide (r.addr < 2 ^ 29) else r.form == 1 && decide (r.addr < 2 ^ 36))) &&
  (!r.seg || r.form != 1) &&
  -- line alignment and tiles
  (r.seg ||
    (match r.form with
      | 0 => !r.dir && r.addr % 512 == 0
      | 1 => (match d with
        | some d => d.trow != 0 && decide (bits r.addr 19 4 < d.trow)
        | none => false)
      | _ => if r.dir then decide (ptaByte r.addr < 512) && r.addr % 32 == 0 &&
            decide (ptaByte r.addr / 32 + r.lenM1 ≤ 15)
          else r.addr % 512 == 0 && decide (ptaByte r.addr / 512 + r.lenM1 ≤ 15))) &&
  -- segment operations (R141, R143)
  (!r.seg || r.op == 5 || r.addr / 512 == (r.addr + r.lenM1) / 512) &&
  (r.op != 5 || (decide (r.aop < 10) && r.addr % atomicBytes r == 0)) &&
  (!(r.seg && conv) || (match d with
    | some d =>
      let u := if d.format = 9 then 16 else if isMX d.format then 32 else max 1 (fmtWidth d.format / 8)
      r.addr % u == 0 && (r.lenM1 + 1) % u == 0
    | none => false)) &&
  -- accumulation formats (R139, R141, R226)
  (!(r.op == 3 || r.op == 4) ||
    (decide (r.accf < 3) && !(r.op == 4 && r.accf == 2) &&
      (!r.seg || (r.addr % (accWidth r.accf / 8) == 0 && (r.lenM1 + 1) % (accWidth r.accf / 8) == 0)) &&
      (match d with
        | some d => d.format == 0 || d.format == (if r.accf = 0 then 6 else if r.accf = 1 then 8 else 3)
        | none => true))) &&
  -- lens (R111, R122)
  (pairingOk x r d) && (!(conv && decide (2 ≤ r.op))) &&
  (!(conv && r.op == 1 && (match d with | some d => isMX d.format | none => false)) || (!r.seg && !r.dir)) &&
  -- slots and multicast (R140, R155)
  (!r.slot || (decide (r.op ≤ 1) && !r.seg)) &&
  (r.mcast == 0 || (kind == 0 && r.op == 0 && !r.seg && !r.slot && decide (r.mcast < 2 ^ s.cfg.broad)))

/-- Check step 5 (R85): every byte and line within the handle's extent, or in range (R44) and not in a section in cache mode (R380). -/
def extentOk (s : State) (r : Request) (d : Option Desc) : Bool :=
  match d with
  | none => ptaOk s.cfg r.addr && ptaOk s.cfg (r.addr + (if r.seg then segBytes r - 1 else 0)) &&
      !(ptaLayer r.addr == 0 && bit (s.get pgCACHE CACHE_SEC_STAT_CUR) (ptaFrame r.addr / 1024))
  | some d =>
    if r.seg then decide ((r.addr + segBytes r - 1) / 8192 ≤ d.extentM1)
    else
      decide ((handleLine r d.trow (reqLines r - 1)).1 ≤ d.extentM1) &&
        (!(r.form == 1 && r.dir) || decide (bits r.addr 19 4 + (r.addr % 16 + r.lenM1) / 16 < d.trow))

/-- The external address of a request in form EXT (R365). -/
def extAddr (s : State) (r : Request) : Nat :=
  (s.get pgCACHE CACHE_XBASE_LO_BASE * 2 ^ 12 + s.get pgCACHE CACHE_XBASE_HI_BASE_HI * 2 ^ 32 + r.addr % 2 ^ 36) % 2 ^ 48
/-- A request in form EXT (R144, R366): its status at check step 4, DISABLED with no section in cache mode. -/
def extCheck (s : State) (x : Nat) (r : Request) : Nat :=
  if !(portKind x == 1 && decide (r.op ≤ 1) && r.seg && r.lens == 0 && !r.slot && s.cfg.optC) then stBOUNDS
  else if s.get pgCACHE CACHE_SEC_STAT_CUR = 0 then stDISABLED
  else if r.handle ≠ 0 ∨ r.gen ≠ 0 ∨ extAddr s r / 128 ≠ (extAddr s r + r.lenM1) / 128 then stBOUNDS
  else stOK

/-- The checks of R85 for a request of port x, in their order: the status of the first that fails, OK when none does. A request in form
EXT takes no other check than those of R144 and R366, also where its port or operation admits no such form; a multicast mask bit of
a broad port that the part lacks is tested against CORES at step 3, as the core it would have (DESIGN CHOICE, log entry 56). -/
def checkRequest (s : State) (x : Nat) (r : Request) : Nat :=
  if r.form = 3 then extCheck s x r
  else if r.handle = 0 ∧ !privileged s x then stRIGHTS
  else
    let d := liveDesc s r.handle r.gen
    if r.handle ≠ 0 ∧ d.isNone then stSTALE
    else
      let ok3 := match d with
        | none => true
        | some d =>
          d.admits (portGroup x) (rightOf r.op) (portCore x) r.tid &&
            (r.mcast == 0 || r.op != 0 || (List.range 8).all fun k => !bit r.mcast k || bit d.cores k)
      if !ok3 then stRIGHTS
      else if !formOk s x r d then stBOUNDS
      else if !extentOk s r d then stBOUNDS
      else stOK

end Sys2Proof.Machine
end

