-- ==== Sys2Proof/Machine/SyncOps.lean ====
section
/-! DEFINITION. The operations of the synchronisation plane that other units share (spec/10_synchronisation.md): counters
with their watches, SW messages, slot rings with their tags and parked requests, and barriers. -/
namespace Sys2Proof.Machine

/-! ### Engines, ports and SW -/

/-- Engine number 4k + e of the engine behind port x: e is 0 M, 1 V, 2 S, 3 D (R305, R342, R345). -/
def engineOf (x : Nat) : Nat :=
  if x < 8 then 4 * x
  else if x < 24 then 4 * ((x - 8) / 2) + 1 + (x - 8) % 2
  else 4 * ((x - 56) / 2) + 3
/-- The port of a watch: that of its engine, for a D engine the channel that armed it (R318). -/
def watchPort (s : State) (w : Nat) : Nat :=
  let k := w / 16
  match w % 16 / 4 with
  | 0 => k
  | 1 => 8 + 2 * k
  | 2 => 9 + 2 * k
  | _ => 56 + 2 * k + s.get pgSYNCCTR (SYNC_CTR_WATCH_CHAN.at 4 w)

/-- An SW message produced for port x (R308): counted as a wake, release or error (R342). -/
def State.sw (s : State) (x : Nat) (m : SwMsg) : State :=
  let s := s.port x fun p => { p with sw := p.sw ++ [m] }
  let s := s.cond (m.kind == 1 || m.kind == 3) fun s => s.bump pgSYNCCTR SYNC_CTR_SY_WAKE_CNT_COUNT
  s.cond (m.kind == 4) fun s => s.bumpSat pgSYNCCTR SYNC_CTR_SY_ERR_CNT_COUNT

/-! ### Counters and watches (R313 to R319) -/

/-- The count of device counter c (R306). -/
def counter (s : State) (c : Nat) : Nat := s.get pgSYNCCTR (SYNC_CTR_CTR_VALUE.at 4 c)
/-- Watch w is armed. -/
def armed (s : State) (w : Nat) : Bool := s.flag pgSYNCCTR (SYNC_CTR_WATCH_ARMED.at 4 w)
/-- Watch w freed. -/
def State.freeWatch (s : State) (w : Nat) : State :=
  (s.put pgSYNCCTR (SYNC_CTR_WATCH_ARMED.at 4 w) 0).syn fun y => { y with watchOrd := y.watchOrd.filter (· != w) }

/-- The recorder's WATCH triggers on counter c after an operation, a watch's consumption and a READ among them, that found `old` and left
its count (R313, R532). -/
def State.watchTriggers (s : State) (c old : Nat) : State :=
  let new := counter s c
  s.each (triggers s 4) fun s g =>
    let cfg := trgCfg s g
    let a := trgArg0 s g % 2 ^ 16
    s.cond (bits cfg 8 0 == c && if bit cfg 16 then new == a else decide (old < a ∧ a ≤ new)) fun s => s.trigger g new c
/-- Watch w evaluated on the count of its counter: where its condition holds it fires, consumes, wakes its engine and is
free (R316, R318). -/
def State.tryWatch (s : State) (w : Nat) : State :=
  let i := s.get pgSYNCCTR (SYNC_CTR_WATCH_CTR.at 4 w)
  let c := 48 * (w / 16) + i
  let n := counter s c
  let v := s.get pgSYNCCTR (SYNC_CTR_WATCH_VALUE.at 4 w)
  let eq := s.flag pgSYNCCTR (SYNC_CTR_WATCH_COND.at 4 w)
  if if eq then n == v else decide (v ≤ n) then
    let s := s.cond (!eq && s.flag pgSYNCCTR (SYNC_CTR_WATCH_CONS.at 4 w)) fun s =>
      (s.put pgSYNCCTR (SYNC_CTR_CTR_VALUE.at 4 c) (n - v)).watchTriggers c n
    let x := watchPort s w
    (s.freeWatch w).sw x ⟨1, w % 4, i, 0, 0, n, 1, none⟩
  else s

/-- An operation on device counter c (R313): 0 ADD, 1 SUB, 2 SET; then the recorder's WATCH triggers on it
(R532) and its armed watches in the order of their arming (R317). While the device is PARKED no counter changes (R339). -/
def State.ctrOp (s : State) (c op v : Nat) : State :=
  if parked s then s
  else
  let n := counter s c
  let new := if op = 0 then min (n + v) 0xFFFF else if op = 1 then n - v else v % 2 ^ 16
  let s := s.put pgSYNCCTR (SYNC_CTR_CTR_VALUE.at 4 c) new
  let s := s.cond (op == 0 && decide (0xFFFF < n + v)) fun s =>
    s.put pgSYNCCTR ⟨SYNC_CTR_OVF + 4 * (c / 32), c % 32, c % 32⟩ 1
  let s := s.cond (op == 1 && decide (n < v)) fun s =>
    s.put pgSYNCCTR ⟨SYNC_CTR_UNF + 4 * (c / 32), c % 32, c % 32⟩ 1
  let s := s.watchTriggers c n
  let mine := s.sync.watchOrd.filter fun w =>
    48 * (w / 16) + s.get pgSYNCCTR (SYNC_CTR_WATCH_CTR.at 4 w) == c
  s.each mine State.tryWatch

/-! ### Slot rings (R320 to R322) -/

/-- A field of ring i's entry, and its cursor register (R343). -/
def ringGet (s : State) (i : Nat) (f : Fld) : Nat := s.get (ringBase i) (f.at 16 (i % 128))
def State.ringPut (s : State) (i : Nat) (f : Fld) (v : Nat) : State := s.put (ringBase i) (f.at 16 (i % 128)) v
def ringOn (s : State) (i : Nat) : Bool := ringGet s i SYNC_RING_RCFG0_EN == 1
/-- Lines of a slot, slots of the ring, first line and first tag. -/
def slotLines (s : State) (i : Nat) : Nat := ringGet s i SYNC_RING_RCFG0_SLINES_M1 + 1
def ringSlots (s : State) (i : Nat) : Nat := ringGet s i SYNC_RING_RCFG2_NSLOTS_M1 + 1
def ringLine (s : State) (i : Nat) : Nat := ringGet s i SYNC_RING_RCFG1_BASE
def ringTag (s : State) (i : Nat) : Nat := ringGet s i SYNC_RING_RCFG2_TBASE
/-- The rings that are enabled. -/
def ringsOn (s : State) : List Nat := (List.range 256).filter (ringOn s)

/-- The handle lines of a line request, in its own order. -/
def requestLines (r : Request) (d : Desc) : List Nat :=
  (List.range (reqLines r)).map fun k => let (f, l) := handleLine r d.trow k; 16 * f + l

/-- The ring and slot that a slot-semantics request names (R322). -/
def slotNamed (s : State) (r : Request) (d : Desc) : Option (Nat × Nat) :=
  if r.dir then none
  else
    let ls := requestLines r d
    (ringsOn s).findSome? fun i =>
      if ringGet s i SYNC_RING_RCFG0_HANDLE = r.handle ∧ ringGet s i SYNC_RING_RCFG0_GEN = r.gen then
        let k := (ls.headD 0 - ringLine s i) / slotLines s i
        if k < ringSlots s i ∧ ls.all fun l => decide (ringLine s i ≤ l) && (l - ringLine s i) / slotLines s i == k then
          some (i, k) else none
      else none
/-- The request covers the last line of its slot (R325, R326). -/
def coversLast (s : State) (r : Request) (d : Desc) (ring slot : Nat) : Bool :=
  (requestLines r d).contains (ringLine s ring + (slot + 1) * slotLines s ring - 1)
/-- The home rim of a slot, 16 * layer + logical rim (R322). -/
def slotHome (s : State) (d : Desc) (ring slot : Nat) : Nat :=
  let (layer, frame) := d.frame ((ringLine s ring + slot * slotLines s ring) / 16)
  16 * layer + rimOfFrame frame

/-! ### Tags (R323 to R331) -/

/-- The tag of a slot is FULL. -/
def tagFull (s : State) (ring slot : Nat) : Bool :=
  let t := ringTag s ring + slot
  s.flag pgSYNCTAG ⟨SYNC_TAG_TAGBITS + 4 * (t / 32), t % 32, t % 32⟩
/-- The state with a tag set. -/
def State.setTag (s : State) (t : Nat) (full : Bool) : State :=
  s.put pgSYNCTAG ⟨SYNC_TAG_TAGBITS + 4 * (t / 32), t % 32, t % 32⟩ (b2n full)

/-- A tag joins the requests that wait for the split stage of its port, in the order of acceptance. -/
def awaitIn (p : PortSt) (tag : Nat) : PortSt :=
  let acc := fun t => ((p.txns.find? fun y => y.req.tag == t).map (·.acc)).getD 0
  { p with await := p.await.filter (fun t => decide (acc t ≤ acc tag)) ++ [tag] ++
      p.await.filter (fun t => decide (acc tag < acc t)) }
/-- A slot-semantics request admitted (R323): its bound runs from here (R324), it waits for the split stage, and its fill or empty waits
for its lines where it covers the last line of the slot. -/
def State.admitSlot (s : State) (x tag acc ring slot : Nat) : State :=
  match (portOf s x).txns.find? fun t => t.req.tag == tag with
  | none => s
  | some t =>
    let d := descOf s t.req.handle
    let last := d.any fun d => coversLast s t.req d ring slot
    let s := s.cond last fun s => s.syn fun y => { y with
      changes := y.changes ++ [⟨ring, slot, t.req.op == 1, x, tag, acc,
        List.range (reqLines t.req) ++ t.scales.map fun e => 64 + e.1, false⟩] }
    s.port x fun p => awaitIn { p with txns := p.txns.map fun t => if t.req.tag = tag then { t with reachD := s.pcDev } else t } tag
/-- Parked requests of a slot that wait for a state of its tag are admitted, oldest first (R328). -/
def State.admitParked (s : State) (ring slot : Nat) (full : Bool) : State :=
  let mine := s.sync.parks.filter fun k => k.table && k.ring == ring && k.slot == slot && k.full == full
  let s := s.syn fun y => { y with
    parks := y.parks.filter fun k => !(k.table && k.ring == ring && k.slot == slot && k.full == full) }
  s.each mine fun s k => s.admitSlot k.x k.tag k.acc ring slot

/-- A slot becomes FULL by any means (R325, R331). -/
def State.fillSlot (s : State) (ring slot : Nat) : State :=
  if tagFull s ring slot then s.bumpSat pgSYNCTAG SYNC_TAG_DBL_CNT_COUNT
  else (s.setTag (ringTag s ring + slot) true).admitParked ring slot true
/-- A slot becomes EMPTY by any means (R326, R331); a token's slot gives its channel one more pending return (R425). -/
def State.emptySlot (s : State) (ring slot : Nat) : State :=
  if tagFull s ring slot then
    let t := ringTag s ring + slot
    let s := s.setTag t false
    let s := match s.sync.filler.find? fun e => e.1 == t with
      | none => s
      | some (_, ch) => (s.drop pgWINCCH (WINDOW_CCH_CCH_STAT_FULL.at 16 ch)).syn fun y =>
        let (n, since) := Sp.get (0, s.now) y.owed ch
        { y with filler := Sp.del y.filler t, owed := Sp.set y.owed ch (n + 1, if n = 0 then s.now else since) }
    s.admitParked ring slot false
  else s

/-- A cursor of a ring taken and advanced (R332). -/
def State.takeCursor (s : State) (ring : Nat) (producer : Bool) : Nat × State :=
  let f := (if producer then SYNC_RING_RCUR_PCUR else SYNC_RING_RCUR_CCUR).at 4 (ring % 128)
  let c := s.get (ringBase ring) f
  (c, s.put (ringBase ring) f ((c + 1) % ringSlots s ring))

/-! ### Parking (R324, R328 to R330) -/

/-- The timestamp at which a request that parks now times out (R329). -/
def slotDeadline (s : State) (ring : Nat) : Nat :=
  (s.now + 100 * (ringGet s ring SYNC_RING_RCFG3_TMO_M1 + 1) + 99) / 100 * 100
/-- Requests of a port that are held before its split stage: the parked ones, and those that wait behind a held one whose segments
they touch (R156, R158). `l` is what is left to look at, oldest first. -/
def heldTxns (s : State) (x : Nat) (covered : Request → List (Nat × Nat × Nat × Nat)) : List Txn → List Txn → List Txn
  | held, [] => held
  | held, t :: l =>
    let tag := t.req.tag
    let now := (s.sync.parks.any fun k => k.x == x && k.tag == tag) ||
      ((portOf s x).await.contains tag && held.any fun u => (covered u.req).any (covered t.req).contains)
    heldTxns s x covered (if now then held ++ [t] else held) l
/-- A request touches a segment of an earlier request that is held (R156, R158). -/
def behindPark (s : State) (x acc : Nat) (cover : List (Nat × Nat × Nat × Nat))
    (covered : Request → List (Nat × Nat × Nat × Nat)) : Bool :=
  (heldTxns s x covered [] ((portOf s x).txns.filter fun t => decide (t.acc < acc))).any fun u => (covered u.req).any cover.contains
/-- A tag probe of a slot-semantics request (R323, R330): admitted, parked in the home rim's table, or left in the retry list
of its port where the table is full. -/
def State.probe (s : State) (k : Park) : State :=
  let s := s.syn fun y => { y with parks := y.parks.filter fun j => !(j.x == k.x && j.tag == k.tag) }
  if tagFull s k.ring k.slot = k.full then s.admitSlot k.x k.tag k.acc k.ring k.slot
  else
    let full := decide (32 ≤ (s.sync.parks.filter fun j => j.table && j.home == k.home).length)
    let s := s.cond full fun s => s.bumpSat pgSYNCTAG SYNC_TAG_PARK_FULL_COUNT
    s.syn fun y => { y with
      parks := y.parks ++ [{ k with table := !full, deadline := some (k.deadline.getD (slotDeadline s k.ring)) }] }
/-- A parked request taken away. -/
def State.unpark (s : State) (x tag : Nat) : State :=
  s.syn fun y => { y with parks := y.parks.filter fun j => !(j.x == x && j.tag == tag) }

/-! ### Barriers (R335 to R339) -/

/-- The device is the manager of its domain (R406). -/
def isManager (s : State) : Bool := s.flag pgLINK LINK_LK_ID_MGR
/-- A field of barrier n. -/
def barGet (s : State) (n : Nat) (f : Fld) : Nat := s.get pgSYNCBAR (f.at 16 n)
def State.barPut (s : State) (n : Nat) (f : Fld) (v : Nat) : State := s.put pgSYNCBAR (f.at 16 n) v
/-- Barrier n takes arrivals. -/
def barOn (s : State) (n : Nat) : Bool := barGet s n SYNC_BAR_BCFG_EN == 1

/-- The waiters of barrier n answered and withdrawn: RELEASE with a phase, or ERROR ABORTED. -/
def State.answerWaiters (s : State) (n : Nat) (m : SwMsg) : State :=
  let mine := s.sync.waiters.filter fun w => w.1 == n
  let s := s.syn fun y => { y with waiters := y.waiters.filter fun w => w.1 != n }
  (s.barPut n SYNC_BAR_BWAIT_WAIT 0).each mine fun s w => s.sw w.2 m
/-- A phase of barrier n completes (R336). -/
def State.phaseDone (s : State) (n : Nat) : State :=
  let ph := barGet s n SYNC_BAR_BSTAT_PHASE
  let s := s.answerWaiters n ⟨3, 0, n, 0, ph, 0, 1, none⟩
  (s.barPut n SYNC_BAR_BSTAT_PHASE (ph + 1)).bump pgSYNCBAR (SYNC_BAR_BDONE_COUNT.at 16 n)

/-- A domain arrival of this device for its running phase awaits its release. -/
def awaitsRelease (s : State) (n : Nat) : Bool := s.sync.sent.contains n

/-- The manager counts the arrival of a device (R337, R433); one for another phase or for a barrier not enabled with DOMAIN 1
is discarded. Where the last device arrives, the release goes to every device that arrived. Answers whether this device is
among them. -/
def State.devArrive (s : State) (n dev phase : Nat) : Bool × State :=
  if !(barOn s n && barGet s n SYNC_BAR_BCFG_DOMAIN == 1) || barGet s n SYNC_BAR_BSTAT_PHASE % 16 != phase % 16 then
    (false, s.bumpSat 0x0A0000 WINDOW_CTL_BAR_DISC_COUNT)
  else
    let s := s.syn fun y => { y with arrived := y.arrived ++ [(n, dev)] }
    let c := barGet s n SYNC_BAR_BSTAT_DEVCNT + 1
    if c < barGet s n SYNC_BAR_BCFG_DEVS then (false, s.barPut n SYNC_BAR_BSTAT_DEVCNT c)
    else
      let devs := (s.sync.arrived.filter fun a => a.1 == n).map (·.2)
      let s := s.syn fun y => { y with arrived := y.arrived.filter fun a => a.1 != n }
      let s := s.each (devs.filter (· != 0)) fun s d => s.sendCtrl 5 d n phase
      (devs.contains 0, s.barPut n SYNC_BAR_BSTAT_DEVCNT 0)

/-- The released phase of a domain barrier ends at this device (R337). -/
def State.domRelease (s : State) (n : Nat) : State :=
  (s.syn fun y => { y with sent := y.sent.filter (· != n) }).phaseDone n

/-- One round of barrier n: where its count has reached EXPECT, the local phase completes (R335), or its arrival is sent to
the manager (R337); the manager's own is counted at once, unless it carries a fence (R433). Answers whether another round can follow. -/
def State.barRound (s : State) (n : Nat) : Bool × State :=
  let c := barGet s n SYNC_BAR_BSTAT_COUNT
  let e := barGet s n SYNC_BAR_BCFG_EXPECT
  if !barOn s n || e = 0 || c < e then (false, s)
  else if barGet s n SYNC_BAR_BCFG_DOMAIN = 0 then (true, (s.barPut n SYNC_BAR_BSTAT_COUNT (c - e)).phaseDone n)
  else if awaitsRelease s n then (false, s.barPut n SYNC_BAR_BSTAT_HELD 1)
  else
    let ph := barGet s n SYNC_BAR_BSTAT_PHASE
    let s := (s.barPut n SYNC_BAR_BSTAT_COUNT (c - e)).barPut n SYNC_BAR_BSTAT_HELD 0
    let s := s.syn fun y => { y with sent := y.sent ++ [n] }
    let s := s.cond (decide (e ≤ c - e)) fun s => s.barPut n SYNC_BAR_BSTAT_HELD 1
    if isManager s && !barFence s n then
      let (mine, s) := s.devArrive n 0 ph
      (mine, s.cond mine fun s => s.domRelease n)
    else (true, s.sendCtrl 4 0 n ph)
/-- Rounds of barrier n until none follows; `fuel` is above the count. -/
def State.barRun (s : State) (n : Nat) : Nat → State
  | 0 => s
  | fuel + 1 => match s.barRound n with
    | (true, s) => s.barRun n fuel
    | (false, s) => s
/-- Arrivals counted at barrier n (R335): in turn, so that every completion lowers the count within its register. -/
def State.arrive (s : State) (n k : Nat) : State :=
  let e := barGet s n SYNC_BAR_BCFG_EXPECT
  let c := barGet s n SYNC_BAR_BSTAT_COUNT
  let s := s.barPut n SYNC_BAR_BSTAT_COUNT (c + min k (e - c))
  let s := s.barRun n 4096
  (s.barPut n SYNC_BAR_BSTAT_COUNT (barGet s n SYNC_BAR_BSTAT_COUNT + (k - min k (e - c)))).barRun n 4096

/-- The running phase of barrier n aborted at this device: waiters answered, counts cleared (R338). -/
def State.barAbort (s : State) (n : Nat) : State :=
  let s := s.answerWaiters n ⟨4, 0, n, 6, 0, 0, 1, none⟩
  let s := (s.barPut n SYNC_BAR_BSTAT_COUNT 0).barPut n SYNC_BAR_BSTAT_DEVCNT 0
  let s := s.barPut n SYNC_BAR_BSTAT_HELD 0
  s.syn fun y => { y with sent := y.sent.filter (· != n) }
/-- A reset of barrier n, which on the manager aborts the phase at every device that has arrived in it (R338). -/
def State.barReset (s : State) (n : Nat) : State :=
  let s := s.barAbort n
  let devs := (s.sync.arrived.filter fun a => a.1 == n && a.2 != 0).map (·.2)
  let s := s.syn fun y => { y with arrived := y.arrived.filter fun a => a.1 != n }
  s.each devs fun s d => s.sendCtrl 6 d n 0

/-- The watches and waiter registrations of a port that reaches DISABLED are withdrawn (R339). -/
def State.dropEngine (s : State) (x : Nat) : State :=
  let ws := s.sync.watchOrd.filter fun w => watchPort s w == x
  let bs := s.sync.waiters.filter fun b => b.2 == x
  let s := s.each ws State.freeWatch
  let s := s.syn fun y => { y with waiters := y.waiters.filter fun b => b.2 != x }
  let s := s.each bs fun s b => s.put pgSYNCBAR ⟨SYNC_BAR_BWAIT + 16 * b.1, engineOf x, engineOf x⟩
    (b2n (s.sync.waiters.any fun v => v.1 == b.1 && engineOf v.2 == engineOf x))
  s.port x fun p => { p with sqUsed := p.sqUsed - ws.length - bs.length }

end Sys2Proof.Machine
end

