-- ==== Sys2Proof/Machine/PortOps.lean ====
section
/-! DEFINITION. What the port commands share: the lens applied to a request's data (spec/04_formats_and_lens.md R113 to
R131), and the response lanes of a port with their tags, statuses and multicast copies (spec/05_port_protocol.md R147 to
R155, R171). -/
namespace Sys2Proof.Machine

/-! ### The lens on a run of bytes -/

/-- First byte and count of the run of ones of a segment mask. -/
def maskRun (m : BitVec 32) : Nat × Nat :=
  let on := (List.range 32).filter fun j => m.getLsbD j
  (on.headD 0, on.length)

/-- Engine-side data of part of one segment read through the lens (R113 to R115), lowest element first: engine bytes as a
number, with the counts of LENS_SAT and LENS_NAN. `row` is the scale row of the frame; a poisoned segment gives zero
elements (R126). -/
def lensSeg (stored engine : Nat) (row : List Seg) (x : SegOp) (poisoned : Bool) : Nat × Nat × Nat :=
  let (b, len) := maskRun x.mask
  let w := fmtWidth stored
  let n := len * 8 / w
  let e0 := b * 8 / w
  let codes := elems w n (x.data.toNat >>> (8 * b))
  let cs := codes.mapIdx fun i c =>
    let k := (x.col * (256 / w) + e0 + i) / 32
    let sc := bits (row.getD x.row 0).toNat (8 * k + 7) (8 * k)
    if poisoned then { code := 0, sat := false, nan := false } else readElem stored engine c sc
  (packElems (fmtWidth engine) (cs.map (·.code)), (cs.filter (·.sat)).length, (cs.filter (·.nan)).length)

/-- Engine-side data of segments read through the lens, in line order, with its byte count and the lens counts. -/
def lensSegs (stored engine : Nat) (row : List Seg) (pm : Nat) : Nat → List SegOp → Nat × Nat × Nat × Nat
  | _, [] => (0, 0, 0, 0)
  | k, x :: xs =>
    let (v, a, b) := lensSeg stored engine row x (bit pm k)
    let n := engineBytes true stored engine (maskRun x.mask).2
    let (v', n', a', b') := lensSegs stored engine row pm (k + 1) xs
    (v + 256 ^ n * v', n + n', a + a', b + b')

/-- Blocks of 32 values quantized in order (R121). -/
def mxBlocks (stored : Nat) (sround : Bool) : List (List FVal) → Nat → List (Nat × List Conv) × Nat
  | [], seed => ([], seed)
  | b :: bs, seed =>
    let (sc, cs, seed) := mxBlock stored sround b seed
    let (rest, seed) := mxBlocks stored sround bs seed
    ((sc, cs) :: rest, seed)

/-- The stored form of converted write data. -/
structure LensWrite where
  raw    : Nat
  scales : List (Nat × Seg)            -- MX: line within the request, scale entry
  seed   : Nat
  sat    : Nat
  nan    : Nat
deriving DecidableEq, Repr

/-- Engine data of `n` stored bytes converted on write (R117 to R122), with the port's generator state. -/
def lensWrite (d : Desc) (engine n data seed : Nat) : LensWrite :=
  let w := fmtWidth d.format
  let count := n * 8 / w
  let vals := (elems (fmtWidth engine) count data).map (elemValue engine)
  if isMX d.format then
    let blocks := (List.range (count / 32)).map fun i => (vals.drop (32 * i)).take 32
    let (bs, seed) := mxBlocks d.format d.sround blocks seed
    let cs := bs.flatMap (·.2)
    let per := 4096 / w / 32
    let lines := n / 512
    { raw := packElems w (cs.map (·.code)), seed := seed,
      scales := (List.range lines).map fun l =>
        (l, BitVec.ofNat 256 (packElems 8 (((bs.map (·.1)).drop (per * l)).take per))),
      sat := (cs.filter (·.sat)).length, nan := (cs.filter (·.nan)).length }
  else
    let (cs, seed) := convList (writeElem d.format d.ovf d.sround) vals seed
    { raw := packElems w (cs.map (·.code)), seed := seed, scales := [],
      sat := (cs.filter (·.sat)).length, nan := (cs.filter (·.nan)).length }

/-! ### Transactions -/

/-- The transaction of a port with a tag. -/
def txnOf (s : State) (x tag : Nat) : Option Txn := (portOf s x).txns.find? fun t => t.req.tag == tag
/-- The state with the transaction of a tag changed. -/
def State.txn (s : State) (x tag : Nat) (f : Txn → Txn) : State :=
  s.port x fun p => { p with txns := p.txns.map fun t => if t.req.tag = tag then f t else t }

/-- The state of a port (R171): 0 OFF, 1 DISABLED, 2 ENABLED, 3 DRAINING, 4 LOOPBACK, 5 PARKED. -/
def portState (s : State) (x : Nat) : Nat := s.get (portBase x) PORT_PSTAT_STATE
/-- The loopback depth in force at a port (R169): while it is in LOOPBACK, and while it drains from it. LOOP is 0 in a port that was
enabled otherwise, and does not change while the port drains. -/
def loopDepth (s : State) (x : Nat) : Nat :=
  if portState s x = 3 ∨ portState s x = 4 then s.get (portBase x) PORT_PCTL_LOOP else 0
/-- Bytes of a lane (R150). -/
def laneSize (x : Nat) : Nat := if x < 8 then 512 else 64
/-- WR of a request's lanes: a response to WRITE, FILL, ACC or SACC (R150). -/
def laneWr (r : Request) : Bool := decide (1 ≤ r.op ∧ r.op ≤ 4)
/-- Statuses of request scope (R152). -/
def requestScope (st : Nat) : Bool := (2 ≤ st && st ≤ 5) || st == 8

/-- The worse of two line statuses: FAULT, DISABLED, ASLEEP, then POISON (R153). -/
def worst (a b : Nat) : Nat :=
  let rank := fun st => if st = stFAULT then 0 else if st = stDISABLED then 1 else if st = stASLEEP then 2
    else if st = stPOISON then 3 else 4
  if rank a ≤ rank b then a else b

/-- The lanes of one response (R150): cut into lane widths from `data`, its byte count and value. -/
def cutLanes (x : Nat) (l : Lane) (data : Option (Nat × Nat)) : List Lane :=
  match data with
  | none => [{ l with data := none }]
  | some (n, v) =>
    let w := laneSize x
    (List.range ((n + w - 1) / w)).map fun k =>
      { l with part := k, data := some (v / 256 ^ (w * k) % 256 ^ (min w (n - w * k))) }

/-- Units of 64 engine-side bytes (R485): a part unit counts as one. -/
def units64 (n : Nat) : Nat := (n + 63) / 64

/-- A line, or a segment operation, of a request answered (R151): its lanes become ready, in the order of their parts, and
its status is counted (R171). Data that leaves the port is charged (R485). -/
def State.answerLine (s : State) (x tag line status pmask : Nat) (data : Option (Nat × Nat)) : State :=
  match txnOf s x tag with
  | none => s
  | some t =>
    let l : Lane := ⟨laneWr t.req, tag, line, 0, status, pmask, false, 0, false, 0, none, s.pcNow⟩
    let s := s.port x fun p => { p with ready := p.ready ++ cutLanes x l data }
    let s := s.txn x tag fun t => { t with toGo := t.toGo.filter (· != line) }
    let s := s.countStatus x status
    match data with
    | some (n, _) => s.energy 5 (units64 n) t.req.tid
    | none => s

/-- The bookkeeping of R100 for a request refused with STALE_HANDLE, RIGHTS or BOUNDS. -/
def State.reject (s : State) (source h gen st : Nat) : State :=
  if st = stSTALE ∨ st = stRIGHTS ∨ st = stBOUNDS then
    let (kind, fld) := if st = stSTALE then (1, HANDLE_GUARD_STALE_CNT_COUNT)
      else if st = stRIGHTS then (2, HANDLE_GUARD_RIGHTS_CNT_COUNT) else (3, HANDLE_GUARD_BOUNDS_CNT_COUNT)
    (s.bumpSat pgHGUARD fld).wr (pgHGUARD + HANDLE_GUARD_LAST_ERR)
      (BitVec.ofNat 32 (kind * 2 ^ 28 + source * 2 ^ 20 + h * 2 ^ 8 + gen))
  else s

/-- A request completed as a whole with one lane (R151): LINE 0, DONE, no data. -/
def State.answerReq (s : State) (x tag status : Nat) : State :=
  match txnOf s x tag with
  | none => s
  | some t =>
    let s := s.txn x tag fun t => { t with toGo := [], scaleGo := [], short := t.recv }
    let s := s.syn fun y => { y with changes := y.changes.filter fun c => !(c.x == x && c.tag == tag) }
    let s := s.port x fun p => { p with
      ready := p.ready ++ [⟨laneWr t.req, tag, 0, 0, status, 0, false, 0, false, 0, none, s.pcNow⟩],
      queue := p.queue.filter (· != tag), await := p.await.filter (· != tag) }
    s.countStatus x status

/-- The lens's scale row for a data frame of a request: `none` while its fetch is in flight (R125, R126). -/
def rowFor (s : State) (x : Nat) (t : Txn) (frame : Nat) : Option (Nat × List Seg) :=
  match t.refs.find? fun r => r.1 == frame with
  | none => some (stOK, [])
  | some (_, .row data) => some (stOK, data)
  | some (_, .fetch id) => match (portOf s x).fetches.find? fun f => f.id == id with
    | none => some (stOK, [])
    | some f => f.result

/-- A read line converted for delivery (R125, R126): status, poison mask, engine-side bytes and their count, and the lens
counts. `none` while its scale row is in flight. -/
def convertBack (s : State) (b : BackLine) : Option (Nat × Nat × Option (Nat × Nat) × Nat × Nat) :=
  match txnOf s b.issuer b.tag with
  | none => some (b.status, b.pmask, none, 0, 0)
  | some t =>
    let all := 2 ^ b.segs.length - 1
    if !t.conv then
      if b.status = stOK ∨ b.status = stPOISON then
        some (b.status, b.pmask, some (b.len, joinSegs b.segs / 256 ^ b.bytes % 256 ^ b.len), 0, 0)
      else some (b.status, b.pmask, none, 0, 0)
    else match rowFor s b.issuer t b.hframe with
      | none => none
      | some (st, row) =>
        let status := worst b.status st
        if status = stOK ∨ status = stPOISON then
          let pm := if st = stPOISON then all else b.pmask
          let (v, n, sat, nan) := lensSegs t.fmt t.req.lens row pm 0 b.segs
          some (status, pm, some (n, v), sat, nan)
        else some (status, 0, none, 0, 0)

/-- Lens counts added to a port's page (R131). -/
def State.lensCount (s : State) (x sat nan : Nat) : State :=
  (s.bumpSat (portBase x) PORT_LENS_SAT_COUNT sat).bumpSat (portBase x) PORT_LENS_NAN_COUNT nan

/-- An entry of the scale buffer put at the front; the ninth is dropped (R124). -/
def putScale (l : List ScaleEntry) (e : ScaleEntry) : List ScaleEntry :=
  (e :: l.filter fun o => !(o.handle == e.handle && o.gen == e.gen && o.frame == e.frame)).take 8
/-- SRC's handle of a descriptor (R272). -/
def MvJob.srcHandle (j : MvJob) : Nat := bits (j.words.getD 4 0) 26 18
/-- A scale row that a mover channel is reading, of one handle or of any, will not be buffered (R127, R282). -/
def MvChan.dropRows (k : MvChan) (h : Option Nat) : MvChan := { k with
  jobs := k.jobs.map fun j => { j with keep := j.keep && h.any (· != j.srcHandle) } }
/-- Entries of a handle dropped in every lens (R127), and in every mover engine (R282). -/
def State.dropScales (s : State) (h : Nat) : State :=
  { s with
    ports := s.ports.map fun e => (e.1, { e.2 with
      scale := e.2.scale.filter (fun o => o.handle != h),
      fetches := e.2.fetches.map fun f => if f.handle = h then { f with keep := false } else f }),
    engScale := s.engScale.map fun e => (e.1, e.2.filter fun o => o.handle != h),
    chans := s.chans.map fun e => (e.1, e.2.dropRows (some h)) }

/-! ### Multicast (R154, R155, R184, R185) -/

/-- The receivers of a multicast get no copy of a line of a request. -/
def State.noCopies (s : State) (x tag : Nat) : State := s.txn x tag fun t => { t with short := t.recv }
/-- A multicast line copied into the hold of each receiver, or dropped for it. -/
def State.copyLine (s : State) (b : BackLine) (recv : List Nat) : State :=
  s.each recv fun s k =>
    let short := fun (s : State) => s.txn b.issuer b.tag fun t => { t with short := NSet.insert t.short k }
    if portState s k != 2 then short s
    else if 8 ≤ (portOf s k).hold.length then short (s.bumpSat (portBase k) PORT_MC_DROP_COUNT)
    else s.port k fun p => { p with hold := p.hold ++ [b] }

/-- Copies of a request that are not settled: held for port k, or on its lanes. -/
def copiesAt (s : State) (issuer tag k : Nat) : Bool :=
  (portOf s k).hold.any (fun b => b.issuer == issuer && b.tag == tag) ||
    (portOf s k).ready.any (fun l => l.mc && l.origin == issuer && l.tag == tag)

/-! ### Settled writes (R160, R315, R325) -/

/-- Every access of a request has passed its rim: none is still to be split, in a pool or rim queue, or between the halves of
a read-modify-write. For a fill (`poisonOk`), the read half of one that found poison settles it (R325). -/
def txnSettled (s : State) (x : Nat) (t : Txn) (poisonOk : Bool) : Bool :=
  let p := portOf s x
  t.atHub && !p.await.contains t.req.tag && (p.split.map (·.tag)) != some t.req.tag &&
    !s.sync.parks.any (fun k => k.x == x && k.tag == t.req.tag) &&
    !s.cache.jobs.any (fun j => j.op == .ext x t.req.tag) &&
    s.hub.flight.all fun a =>
      !((match a.src with
        | .portLine y g _ | .portScale y g _ | .test y g _ => y == x && g == t.req.tag
        | _ => false) &&
        (a.loc == .pool || a.loc == .rim || (a.loc == .half && !(poisonOk && a.status == stPOISON))))
/-- Every write of port x accepted before a mark has settled. -/
def writesSettled (s : State) (x mark : Nat) (poisonOk : Bool) : Bool :=
  (portOf s x).txns.all fun t =>
    !(decide (t.acc < mark) && decide (1 ≤ t.req.op ∧ t.req.op ≤ 5)) || txnSettled s x t poisonOk

/-- The writes that a fill or a release counts as landed can no longer be undone (R325, R348, R354). -/
def State.landed (s : State) (f : Access → Bool) : State :=
  s.setFlight (s.hub.flight.map fun a => { a with seen := a.seen || (a.grantLv.isSome && f a) })
/-- An access of a write of port x accepted before a mark. -/
def writeOf (s : State) (x mark : Nat) (a : Access) : Bool :=
  match a.src with
  | .portLine y tag _ | .portScale y tag _ => y == x && (txnOf s x tag).any fun t => decide (t.acc < mark)
  | _ => false

/-! ### SQ messages that take effect (R310 to R318) -/

/-- The error of a message as it comes to take effect: BADID, BUSY (R312). -/
def sqReject (s : State) (x : Nat) (w : SqWord) : Nat :=
  let ctr := (1 ≤ w.op && w.op ≤ 4) || w.op == 6
  let n := 16 * (engineOf x / 4) + 4 * (engineOf x % 4) + w.widx
  if ctr && 47 < w.id then 1
  else if w.op == 7 && !barOn s w.id then 1
  else if w.op == 4 && armed s n then 3
  else if w.op == 7 && !w.cons && s.sync.waiters.any (fun v => v.1 == w.id && engineOf v.2 == engineOf x) then 3
  else 0
/-- A message with no answer frees its entry (R309). -/
def State.sqFree (s : State) (x : Nat) : State := s.port x fun p => { p with sqUsed := p.sqUsed - 1 }

/-- The effect of a message (R313, R316, R318, R335). -/
def State.sqEffect (s : State) (x : Nat) (w : SqWord) : State :=
  let e := engineOf x
  let k := e / 4
  let n := 16 * k + 4 * (e % 4) + w.widx
  match w.op with
  | 1 => (s.ctrOp (48 * k + w.id) 0 w.value).sqFree x
  | 2 => (s.ctrOp (48 * k + w.id) 1 w.value).sqFree x
  | 3 => (s.ctrOp (48 * k + w.id) 2 w.value).sqFree x
  | 4 =>
    let chan := if 56 ≤ x then x % 2 else 0
    let s := s.wr (pgSYNCCTR + SYNC_CTR_WATCH + 4 * n) (BitVec.ofNat 32
      (2 ^ 31 + b2n w.cond * 2 ^ 30 + b2n w.cons * 2 ^ 29 + chan * 2 ^ 28 + w.id * 2 ^ 16 + w.value))
    (s.syn fun y => { y with watchOrd := y.watchOrd ++ [n] }).tryWatch n
  | 5 =>
    if armed s n then
      let y := watchPort s n
      let i := s.get pgSYNCCTR (SYNC_CTR_WATCH_CTR.at 4 n)
      (s.freeWatch n).sw x ⟨5, w.widx, i, 0, 0, 0, 1, some y⟩
    else s.sw x ⟨5, w.widx, w.id, 0, 0, 0, 1, none⟩
  | 6 => (s.watchTriggers (48 * k + w.id) (counter s (48 * k + w.id))).sw x ⟨2, 0, w.id, 0, 0, counter s (48 * k + w.id), 1, none⟩
  | 7 =>
    let s := if w.cons then s.sqFree x
      else (s.syn fun y => { y with waiters := y.waiters ++ [(w.id, x)] }).put pgSYNCBAR ⟨SYNC_BAR_BWAIT + 16 * w.id, e, e⟩ 1
    s.arrive w.id (w.value % 4096)
  | _ => s.sqFree x

/-- The writes that a release waits for have landed (R160, R315). -/
def released (s : State) (x mark : Nat) : Bool :=
  if x < 56 then writesSettled s x mark false
  else
    let k := (x - 56) / 2
    [2 * k, 2 * k + 1].all fun c =>
      let ch := Sp.get {} s.chans c
      ch.chains.all (fun h => decide (mark ≤ h.acc)) && ch.jobs.all fun j => decide (mark ≤ j.chain)

/-- A message takes effect, or is refused with one ERROR (R312). -/
def State.sqRun (s : State) (x : Nat) (h : SqHeld) : State :=
  let err := if h.err != 0 then h.err else sqReject s x h.w
  if err != 0 then s.sw x ⟨4, 0, h.w.id, err, 0, 0, 1, none⟩
  else (s.cond h.w.rel fun s => s.landed (writeOf s x h.mark)).sqEffect x h.w
/-- A message must still wait for its release. -/
def sqWaits (s : State) (x : Nat) (h : SqHeld) : Bool :=
  h.err == 0 && h.w.rel && sqReject s x h.w == 0 && !released s x h.mark

/-- The messages of a port that can take effect, in order, from the first one not yet in effect (R310). -/
def State.sqDrain (s : State) (x : Nat) : Nat → State
  | 0 => s
  | fuel + 1 => match (portOf s x).sqHeld with
    | [] => s
    | h :: rest =>
      if sqWaits s x h then s
      else ((s.port x fun p => { p with sqHeld := rest }).sqRun x h).sqDrain x fuel
/-- The messages of a port that are not in effect when it reaches DISABLED, or when the device parks, are each answered with an ERROR
(R312, R339; what becomes of one held for its release at a port that reaches DISABLED is DESIGN CHOICE, log entry 62). -/
def State.sqStop (s : State) (x err : Nat) : State :=
  let mine := (portOf s x).sqHeld
  (s.port x fun p => { p with sqHeld := [] }).each mine fun s h => s.sw x ⟨4, 0, h.w.id, err, 0, 0, 1, none⟩

end Sys2Proof.Machine
end

