-- ==== Sys2Proof/Machine/CacheOps.lean ====
section
/-! DEFINITION. The cache controller (spec/12_cache_mode.md R362 to R377): where a line lives, its replacement, hits, misses,
evictions, cleans and invalidations. The operations on one line are performed one at a time; their rim accesses go through the Hub. -/
namespace Sys2Proof.Machine

/-- The state with the cache changed. -/
def State.cach (s : State) (f : CacheSt → CacheSt) : State := { s with cache := f s.cache }
/-- Sections in cache mode, in ascending order. -/
def cacheSections (s : State) : List Nat := (List.range 8).filter (bit (s.get pgCACHE CACHE_SEC_STAT_CUR))

/-- Section and set of a line address (R363); none with no section in cache mode. -/
def cachePlace (s : State) (line : Nat) : Option (Nat × Nat) :=
  let secs := cacheSections s
  if secs.isEmpty then none else some (secs.getD (line / 8192 % secs.length) 0, line % 8192)
/-- The key of way w of a place. -/
def slotKey (place : Nat × Nat) (w : Nat) : Nat := place.1 * 65536 + 8 * place.2 + w
/-- The line address of a valid slot. -/
def lineOfSlot (key : Nat) (l : CLine) : Nat := l.tag * 8192 + key % 65536 / 8
/-- The slot that holds a line. -/
def findLine (s : State) (line : Nat) : Option (Nat × CLine) :=
  match cachePlace s line with
  | none => none
  | some pl => s.cache.lines.find? fun e =>
      decide (slotKey pl 0 ≤ e.1 ∧ e.1 < slotKey pl 8) && e.2.tag == line / 8192
/-- Frame of layer 0, row and first column of a slot (R363). -/
def slotAt (key : Nat) : Nat × Nat × Nat :=
  let q := key % 65536
  let byte := 128 * (q % 64)
  (1024 * (key / 65536) + q / 64, byte / 512, byte % 512 / 32)
/-- The segments of `n` bytes at byte b of the line in a slot, with their data and masks. -/
def slotSegs (key b n data : Nat) : Nat × List SegOp :=
  let (frame, row, col) := slotAt key
  (frame, cutSegs (512 * row + 32 * col + b) n data)

/-- A line of the cache replaced or taken out. -/
def State.setLine (s : State) (key : Nat) (l : Option CLine) : State :=
  s.cach fun c => { c with lines := match l with | some l => Sp.set c.lines key l | none => Sp.del c.lines key }

/-- The tree of a set after a use of way w (R364): each node on the way's path points away from it. -/
def plruUse (tree w : Nat) : Nat :=
  let put := fun t i (v : Bool) => if bit t i == v then t else if v then t + 2 ^ i else t - 2 ^ i
  let hi := w / 4
  let mid := w / 2
  put (put (put tree 0 (hi == 0)) (1 + hi) (mid % 2 == 0)) (3 + mid) (w % 2 == 0)
/-- The way that a tree points to. -/
def plruVictim (tree : Nat) : Nat :=
  let hi := b2n (bit tree 0)
  let mid := 2 * hi + b2n (bit tree (1 + hi))
  2 * mid + b2n (bit tree (3 + mid))
def treeKey (key : Nat) : Nat := key / 65536 * 8192 + key % 65536 / 8
/-- A use of a slot. -/
def State.useSlot (s : State) (key : Nat) : State :=
  s.cach fun c => { c with plru := Sp.set c.plru (treeKey key) (plruUse (Sp.get 0 c.plru (treeKey key)) (key % 8)) }

/-! ### The master port (R276) -/

/-- Bytes of the transaction that carries `n` bytes at an address: whole 64-byte blocks. -/
def mpLen (addr n : Nat) : Nat := (addr % 64 + n + 63) / 64 * 64
/-- A transaction issued on the master port: aligned to 64 bytes, its other bytes not enabled. -/
def State.mpIssue (s : State) (src : MpSrc) (write : Bool) (addr n data qos : Nat) : State :=
  { s with
    mport := s.mport ++ [⟨s.mpCtr, src, write, addr / 64 * 64, mpLen addr n, addr % 64, n, data, qos⟩], mpCtr := s.mpCtr + 1 }
/-- The port has room for another transaction. -/
def mpRoom (s : State) : Bool := decide (s.mport.length < 128)
/-- The enabled bytes of the data of a response. -/
def MpReq.value (r : MpReq) (data : Nat) : Nat := if r.write then 0 else data / 256 ^ r.skip % 256 ^ r.n

/-! ### Operations on a line (R367 to R373, R375) -/

/-- A dirty line lost (R372). -/
def State.loseLine (s : State) (key : Nat) (l : CLine) : State :=
  let a := lineOfSlot key l * 128
  let s := (s.setLine key none).bumpSat pgCACHE CACHE_LOST_CNT_COUNT
  s.put64 (pgCACHE + CACHE_LOST_ADDR_LO) (pgCACHE + CACHE_LOST_ADDR_HI) (a % 2 ^ 48)

/-- The rim of a slot can be accessed. -/
def slotUp (s : State) (key : Nat) : Bool :=
  let i := rimOfFrame (slotAt key).1
  physOf s 0 i != 31 && rimUp s 0 i

/-- A line is busy: an earlier operation on it is at the controller (R370). -/
def lineBusy (s : State) (line : Nat) : Bool := s.cache.jobs.any fun j => j.line == line
/-- Misses outstanding (R368). -/
def missesOut (s : State) : Nat :=
  (s.cache.jobs.filter fun j => j.stage == .fetch || j.stage == .place || j.stage == .fill).length
/-- Another miss can go out: fewer than 32 are outstanding, and the port has room (R276, R368). -/
def missRoom (s : State) : Bool := decide (missesOut s < 32) && mpRoom s
/-- A request of port x is at the controller and needs a miss that has no room: the port's later requests wait (R368). -/
def missHeld (s : State) (x : Nat) : Bool :=
  s.cache.jobs.any fun j => (match j.op with | .ext y _ => y == x | _ => false) && j.stage == .full
/-- An operation joins those at the controller. -/
def State.addLineJob (s : State) (line : Nat) (op : CacheOp) (tid b n : Nat) (wr : Bool) (data : Nat) : State :=
  s.cach fun c => { c with
    next := c.next + 1, jobs := c.jobs ++ [{ id := c.next, line := line, op := op, tid := tid, b := b, n := n, wr := wr, data := data }] }
/-- An operation changed, or ended. -/
def State.lineJob (s : State) (id : Nat) (f : CacheJob → CacheJob) : State :=
  s.cach fun c => { c with jobs := c.jobs.map fun j => if j.id = id then f j else j }
def State.lineDone (s : State) (id : Nat) : State :=
  s.cach fun c => { c with jobs := c.jobs.filter fun j => j.id != id }

/-- Source code of an operation (R100). -/
def CacheJob.source (j : CacheJob) : Nat :=
  match j.op with
  | .ext x _ => x
  | .mover c _ => 56 + c
  | _ => 77
/-- The rim access of an operation: a segment operation of level 3 or 5 by its TID's class (R369). -/
def CacheJob.access (s : State) (j : CacheJob) : Access :=
  let write := if j.stage = .hit then j.wr else j.stage == .fill
  let (frame, segs) := if j.stage = .hit then slotSegs j.key j.b j.n (if j.wr then j.data else 0)
    else slotSegs j.key 0 128 (if write then j.data else 0)
  { seq := 0, src := .cache j.id, op := if write then .write else .read, line := false, layer := 0, frame := frame, segs := segs,
    tid := j.tid, step := tidStep s j.tid, obs := 4000, wide := 3, stream := none, born := s.pcNow, bornD := s.pcDev, policy := 0,
    loc := .pool, status := stOK, pmask := 0, pk := 5, source := j.source, mcast := 0 }
/-- An operation's own outcome given to who asked for it: a port's request is answered with one segment response, a mover channel
takes it from the answers. -/
def State.tellLine (s : State) (j : CacheJob) (st pm data : Nat) : State :=
  match j.op with
  | .ext x tag =>
    s.answerLine x tag 0 st pm (if j.wr ∨ (st ≠ stOK ∧ st ≠ stPOISON) then none else some (j.n, data))
  | .mover c u => s.hubf fun h => { h with answers := h.answers ++ [⟨.mover c u, st, pm, [], data, 0, 0, 0⟩] }
  | _ => s
/-- A request charged as a segment access of the segments it touches (R369). -/
def State.payLine (s : State) (j : CacheJob) : State :=
  let n := (slotSegs 0 j.b j.n 0).2.length
  s.cond (!j.paid) fun s => (s.charge j.tid (if j.wr then 0 else n) (if j.wr then n else 0)).lineJob j.id fun j => { j with paid := true }
/-- An operation misses its line: a port's request is read from external memory where a miss has room, a mover's access goes to memory. -/
def State.lineMiss (s : State) (j : CacheJob) : State :=
  match j.op with
  | .ext .. =>
    if missRoom s then
      (((s.bump pgCACHE CACHE_MISS_CNT_COUNT).payLine j).lineJob j.id fun j => { j with stage := .fetch }).mpIssue
        (.fill j.id) false (j.line * 128) 128 0 0
    else s.lineJob j.id fun j => { j with stage := .full }
  | _ => s.lineJob j.id fun j => { j with stage := .issue }
/-- An operation whose line is free begins (R367, R373, R375). -/
def State.lineStart (s : State) (j : CacheJob) : State :=
  match findLine s j.line, j.op with
  | none, .ext .. | none, .mover .. => s.lineMiss j
  | some (key, _), .ext .. =>
    ((s.bump pgCACHE CACHE_HIT_CNT_COUNT).useSlot key).lineJob j.id fun j => { j with stage := .hit, key := key }
  | some (key, _), .mover .. => s.lineJob j.id fun j => { j with stage := .hit, key := key }
  | some (key, l), .cop op =>
    if op = 1 ∨ (op = 3 ∧ !l.dirty) then (s.setLine key none).lineDone j.id
    else if l.dirty then s.lineJob j.id fun j => { j with stage := .readOut, key := key }
    else s.lineDone j.id
  | some (key, l), .evict =>
    if l.dirty then s.lineJob j.id fun j => { j with stage := .readOut, key := key } else (s.setLine key none).lineDone j.id
  | _, _ => s.lineDone j.id
/-- The way of a line that has arrived (R364, R367): an invalid one, else the one that the set's tree names, once its own line has been
evicted. None where it must wait, with the eviction asked for. -/
def State.linePlace (s : State) (j : CacheJob) : Option State :=
  match cachePlace s j.line with
  | none => some (s.lineDone j.id)
  | some pl =>
    let taken := fun w => s.cache.jobs.any fun k => k.stage == .fill && k.key == slotKey pl w
    let held := fun w => s.cache.lines.any fun e => e.1 == slotKey pl w
    let take := fun (key : Nat) (s : State) => some (s.lineJob j.id fun j => { j with stage := .fill, key := key, sent := false })
    match (List.range 8).find? fun w => !held w && !taken w with
    | some w => take (slotKey pl w) s
    | none =>
      let key := slotKey pl (plruVictim (Sp.get 0 s.cache.plru (treeKey (slotKey pl 0))))
      match s.cache.lines.find? fun e => e.1 == key with
      | none => none
      | some (_, l) =>
        let line := lineOfSlot key l
        if lineBusy s line then none
        else if l.dirty then some (s.addLineJob line .evict j.tid 0 128 false 0)
        else take key (s.setLine key none)
/-- An operation's rim access sent, and counted to the port whose request it serves (R171): none where it finds no room. -/
def State.lineSend (s : State) (j : CacheJob) : Option State :=
  match s.sendAccess (j.access s) with
  | (true, s) =>
    let s := match j.op, j.stage with
      | .ext x _, .hit => s.bump (portBase x) PORT_LINE_CNT_COUNT
      | _, _ => s
    some (s.lineJob j.id fun j => { j with sent := true, paid := j.paid || j.stage == .hit })
  | (false, _) => none
/-- The rim accesses of the controller that are held for their TID's queue share (R204). -/
def State.cacheHeld (s : State) : State :=
  let sends := fun (j : CacheJob) => (j.stage == .hit || j.stage == .fill || j.stage == .readOut) && !j.sent && shareFull s j.tid
  { s with shareHeld := s.shareHeld.filter (fun e => !(decide (64 < e.1) && e.1 % 2 == 1)) ++
      (s.cache.jobs.filter sends).map fun j => (65 + 2 * j.id, j.tid) }
/-- An operation's transaction issued: a write-back, or a mover's access to memory (R276, R277). -/
def State.lineIssue (s : State) (j : CacheJob) : State :=
  let s := s.lineJob j.id fun j => { j with stage := .land }
  match j.op with
  | .mover c u => (s.mpIssue (.through j.id) j.wr (j.line * 128 + j.b) j.n (if j.wr then j.data else 0) 0).energy 7
      (mpLen j.b j.n / 64) j.tid (if u = 0 then some c else none)
  | _ => (s.mpIssue (.wback j.id) true (j.line * 128) 128 j.data 0).energy 7 2 j.tid
/-- One step of an operation at the controller: none where it must wait. -/
def lineStep (s : State) (j : CacheJob) : Option State :=
  match j.stage with
  | .wait => if s.cache.jobs.any fun k => k.line == j.line && decide (k.id < j.id) then none else some (s.lineStart j)
  | .full => if missRoom s then some (s.lineMiss j) else none
  | .place => s.linePlace j
  | .hit | .fill | .readOut => if j.sent then none else s.lineSend j
  | .issue => if mpRoom s then some (s.lineIssue j) else none
  | .fetch | .land => none
/-- The operations at the controller go on as far as they can. -/
def State.lineRun (s : State) : Nat → State
  | 0 => s
  | fuel + 1 => match s.cache.jobs.findSome? (lineStep s) with
    | none => s
    | some s => s.lineRun fuel
def State.cacheRun (s : State) : State := s.cond (!parked s) fun s => (s.lineRun (16 * s.cache.jobs.length + 16)).cacheHeld

/-- The poison that a lost line gives an access: logged and marked at the first failing segment, or at the first one of the access where
its rim is gone (R372, R450, R452). -/
def State.linePoison (s : State) (j : CacheJob) (a : Access) : State :=
  let x := a.segs.getD (if a.pmask = 0 then 0 else lowBit a.pmask) ⟨0, 0, 0, 0⟩
  s.poison 5 0 a.frame x.row x.col j.tid a.step j.source
/-- A hit that has come back well. -/
def State.hitBack (s : State) (j : CacheJob) (a : Access) : State :=
  match j.op, j.wr with
  | .mover .., true => s.lineJob j.id fun j => { j with stage := .issue }
  | _, wr =>
    let s := match s.cache.lines.find? fun e => e.1 == j.key with
      | some (_, l) => s.cond wr fun s => s.setLine j.key (some { l with dirty := true })
      | none => s
    (s.tellLine j stOK 0 (joinSegs a.segs / 256 ^ (j.b % 32) % 256 ^ j.n)).lineDone j.id
/-- A hit that has failed (R372): a clean line is dropped and the access goes on as a miss; a dirty one is lost, and the access completes
with POISON, a mover's write after it has gone to memory. -/
def State.hitFailed (s : State) (j : CacheJob) (a : Access) (l : CLine) : State :=
  if !l.dirty then
    match s.cache.jobs.find? fun k => k.id == j.id with
    | some k => (s.setLine j.key none).lineMiss k
    | none => s
  else
    let s := (s.linePoison j a).loseLine j.key l
    match j.op, j.wr with
    | .mover .., true => s.lineJob j.id fun j => { j with stage := .issue, bad := stPOISON }
    | _, _ => (s.tellLine j stPOISON (2 ^ a.segs.length - 1) 0).lineDone j.id
/-- An access of the controller has come back (R367, R371, R372). One that a plane has lost leaves its line as it is. -/
def State.lineAccBack (s : State) (id : Nat) (a : Access) : State :=
  match s.cache.jobs.find? fun j => j.id == id with
  | none => s
  | some j =>
    let failed := a.status = stPOISON || (a.status != stOK && !slotUp s j.key)
    let line := s.cache.lines.find? fun e => e.1 == j.key
    match j.stage, line with
    | .hit, some (_, l) =>
      if a.status = stOK then s.hitBack j a
      else if failed then s.hitFailed j a l
      else (s.tellLine j a.status 0 0).lineDone id
    | .fill, _ =>
      let s := s.cond (a.status == stOK) fun s => (s.setLine j.key (some ⟨j.line / 8192, j.wr⟩)).useSlot j.key
      (s.tellLine j (if a.status = stOK then stOK else stFAULT) 0 0).lineDone id
    | .readOut, some (_, l) =>
      if a.status = stOK then s.lineJob id fun j => { j with stage := .issue, data := joinSegs a.segs % 2 ^ 1024 }
      else if failed then (s.loseLine j.key l).lineDone id
      else s.lineJob id fun j => { j with sent := false }
    | .hit, none => s.lineMiss j
    | _, _ => s.lineDone id

/-- A missed line arrives (R367, R368): a read is answered with its bytes, a write merged into the line. -/
def State.lineArrives (s : State) (j : CacheJob) (data : Nat) : State :=
  let s := s.energy 7 2 j.tid
  let s := s.cond (!j.wr) fun s => s.tellLine j stOK 0 (data / 256 ^ j.b % 256 ^ j.n)
  let v := if j.wr then data - (data / 256 ^ j.b % 256 ^ j.n) * 256 ^ j.b + j.data % 256 ^ j.n * 256 ^ j.b else data
  s.lineJob j.id fun j => { j with stage := .place, data := v, op := if j.wr then j.op else .alloc }
/-- The transaction of an operation is answered: a write-back leaves its line clean, or gone, and one that fails leaves it as it is
(R371); a mover's access ends. -/
def State.lineLanded (s : State) (j : CacheJob) (err : Bool) (data : Nat) : State :=
  let s := s.lineDone j.id
  match j.op with
  | .mover .. => s.tellLine j (if j.bad ≠ 0 then j.bad else if err then 10 else stOK) 0 data
  | op =>
    if err then s.bumpSat pgCACHE CACHE_WB_ERR_COUNT
    else
      let s := s.bump pgCACHE CACHE_WB_CNT_COUNT
      match s.cache.lines.find? fun e => e.1 == j.key with
      | some (_, l) => s.setLine j.key (if op = .cop 2 then some { l with dirty := false } else none)
      | none => s

/-- An EXT request reaches the controller (R367, R370, R379): false where it waits in its port's split stage, for a section switch or as
a 33rd miss (R368). With no section left in cache mode it completes with DISABLED (R144). -/
def State.extTake (s : State) (x tag : Nat) : Bool × State :=
  match txnOf s x tag with
  | none => (true, s)
  | some t =>
    let a := extAddr s t.req
    let line := a / 128
    if s.cache.switch.isSome then (false, s)
    else if cacheSections s = [] then (true, s.answerLine x tag 0 stDISABLED 0 none)
    else if !lineBusy s line && (findLine s line).isNone && !missRoom s then (false, s)
    else (true, (s.addLineJob line (.ext x tag) t.req.tid (a % 128) (t.req.lenM1 + 1) (t.req.op != 0) t.raw).cacheRun)

/-- Valid lines that an address range covers, and lines being fetched or worked on in it. -/
def linesIn (s : State) (lo n : Nat) : List Nat :=
  (((s.cache.lines.map fun e => lineOfSlot e.1 e.2) ++ s.cache.jobs.map (·.line)).filter
    fun l => decide (lo ≤ l ∧ l < lo + n)).eraseDups
/-- One maintenance operation on a line, after the operations already on it (R370, R377). It runs under TID 0 (log entry 21). -/
def State.copAsk (s : State) (line op : Nat) : State := s.addLineJob line (.cop op) 0 0 128 false 0
/-- A maintenance operation on a line of a range is still at the controller, or one of its write-backs has not landed. -/
def copWaits (s : State) (lo n : Nat) : Bool :=
  s.cache.jobs.any fun j => (match j.op with | .cop _ | .evict => true | _ => false) && decide (lo ≤ j.line ∧ j.line < lo + n)
/-- The device has become PARKED: what the controller was doing in the array ends; a mover's access there completes with FAULT. -/
def State.parkCache (s : State) : State :=
  let out := fun (j : CacheJob) => j.stage == .issue || j.stage == .land
  let s := s.each (s.cache.jobs.filter fun j => !out j) fun s j => match j.op with
    | .mover .. => s.tellLine j stFAULT 0 0
    | _ => s
  s.cach fun c => { c with jobs := c.jobs.filter out }

end Sys2Proof.Machine
end

