-- ==== Sys2Proof/Machine/EnergyOps.lean ====
section
/-! DEFINITION. The energy arbiter (spec/16_power_and_energy.md R489 to R496): the effective budget, the pools, the admission
of chunks, and the entry into EMERGENCY. -/
namespace Sys2Proof.Machine

/-- The state with the energy structures changed. -/
def State.nrg (s : State) (f : EnergySt → EnergySt) : State := { s with energyAcc := f s.energyAcc }
/-- nJ as a signed count of the ledger's unit. -/
def njInt (n : Nat) : Int := ((n * njUnits : Nat) : Int)

/-! ### Chunks (R491 to R493) -/

/-- The chunk of an owner. -/
def chunkOf (s : State) (o : Nat) : Option Chunk := s.energyAcc.chunks.find? fun h => h.owner == o
/-- A chunk is deferred. -/
def anyDeferred (s : State) : Bool := s.energyAcc.chunks.any fun h => !h.adm
/-- An estimate taken from a pool: 0 RT, 1 LC, 2 POOL. -/
def State.commit (s : State) (pool est : Nat) : State :=
  let v : Int := (est : Nat)
  s.nrg fun e => match pool with
    | 0 => { e with rtPool := e.rtPool - v }
    | 1 => { e with lcPool := e.lcPool - v }
    | _ => { e with pool := e.pool - v }
/-- The pool that admits a chunk now (R491), none where it is deferred. `ahead` says that an older chunk is deferred; `force`
that the oldest deferred chunk is admitted at a boundary (R493). -/
def admitPool (s : State) (tid est : Nat) (ahead force : Bool) : Option Nat :=
  let e := s.energyAcc
  let v : Int := (est : Nat)
  let cl := tidClass s tid
  if cl = 0 then some (if 0 < e.rtPool then 0 else 2)
  else if cl = 1 ∧ v ≤ e.lcPool then some 1
  else if cl = 1 ∧ v ≤ e.pool then some 2
  else if 2 ≤ cl ∧ emergency s then none
  else if (v ≤ e.pool ∧ !ahead) ∨ (force ∧ 0 < e.pool ∧ !e.beAdmitted) then some 2
  else none
/-- A chunk admitted from a pool. -/
def State.admitFrom (s : State) (h : Chunk) (pool : Nat) : State :=
  let s := s.commit pool h.est
  s.nrg fun e => { e with
    chunks := e.chunks.map fun c => if c.owner = h.owner then { c with adm := true, live := true, pool := pool } else c,
    beAdmitted := e.beAdmitted || decide (2 ≤ tidClass s h.tid) }
/-- A chunk of an owner asks for energy (R491): admitted, or deferred behind those that wait. Answers whether it was deferred. -/
def State.askChunk (s : State) (o tid n est : Nat) : Bool × State :=
  let h : Chunk := ⟨o, tid, n, est, false, 2, false, 0⟩
  let ahead := anyDeferred s
  let s := s.nrg fun e => { e with chunks := e.chunks ++ [h] }
  match admitPool s tid est ahead false with
  | some pool => (false, s.admitFrom h pool)
  | none => (true, s)
/-- Deferred chunks retried, oldest first (R493). -/
def State.retryChunks (s : State) (boundary : Bool) : State :=
  ((s.energyAcc.chunks.filter fun h => !h.adm).foldl (fun (acc : Bool × State) h =>
    let (ahead, s) := acc
    match admitPool s h.tid h.est ahead (boundary && !ahead) with
    | some pool => (ahead, s.admitFrom h pool)
    | none => (true, s)) (false, s)).2
/-- A chunk completes, or its owner gives it up (R492): in the Cadence of its admission the difference between its estimate and
its charges returns to its pool, or is taken from it. -/
def State.endChunk (s : State) (o : Nat) : State :=
  match chunkOf s o with
  | none => s
  | some h =>
    let s := s.nrg fun e => { e with chunks := e.chunks.filter fun c => c.owner != o }
    if h.adm && h.live then
      let d : Int := (h.est : Nat) - (h.spent : Nat)
      let s := s.nrg fun e => match h.pool with
        | 0 => { e with rtPool := e.rtPool + d }
        | 1 => { e with lcPool := e.lcPool + d }
        | _ => { e with pool := e.pool + d }
      s.cond (h.pool == 2 && decide (0 < d)) fun s => s.retryChunks false
    else s

/-! ### The effective budget (R489, R496) -/

/-- EM0 is alive: EM_ALIVE was written in the running Cadence or in one of the two before it, whatever the value written; at reset it
counts as written in Cadence 0 (DEDUCED, log entry 43). -/
def em0Alive (s : State) : Bool := decide (s.energyAcc.cad ≤ s.energyAcc.aliveAt + 2)
/-- B becomes a new value within a Cadence: the pools are recomputed as R496 gives. -/
def State.setBudget (s : State) (b : Nat) (floor lcToPool : Bool) : State :=
  let s := s.put pgPOWER POWER_ARB_STAT_FLOOR_ACT (b2n floor)
  s.nrg fun e =>
    let d := njInt (1000 * b) - njInt (1000 * e.budget)
    if lcToPool then { e with budget := b, pool := e.pool + d + e.lcPool, lcPool := 0 }
    else { e with budget := b, pool := e.pool + d }
/-- EM0 is found dead: B falls to FLOOR at once (R489). -/
def State.em0Expire (s : State) : State :=
  if s.energyAcc.em0Down || em0Alive s then s
  else
    let s := (s.nrg fun e => { e with em0Down := true }).irq pgPOWER 4
    s.cond (!s.flag pgPOWER POWER_ARB_STAT_FLOOR_ACT) fun s => s.setBudget (s.get pgPOWER POWER_FLOOR_UJ) true false
/-- EMERGENCY holds, or held earlier in the running Cadence: B stays FLOOR until the next boundary (R496). -/
def emgFloor (s : State) : Bool :=
  emergency s || (s.energyAcc.fellAt != 0 && decide (10000 * s.energyAcc.cad ≤ s.energyAcc.fellAt))
/-- EM_ALIVE is written: EM0 is alive, and B rises at once where it was FLOOR for want of EM0 alone (R489, R496). -/
def State.em0Write (s : State) (v : Nat) : State :=
  let s := (s.put pgPOWER POWER_EM_ALIVE_CAD v).nrg fun e => { e with aliveAt := e.cad }
  if s.energyAcc.em0Down then
    let s := s.nrg fun e => { e with em0Down := false }
    s.cond (!emgFloor s) fun s => s.setBudget s.energyAcc.grant false false
  else s

/-! ### EMERGENCY (R495, R496) -/

/-- Ticks of 10 ms (R9). -/
def tenMs : Nat := 1000000
/-- A cause of EMERGENCY may have come or gone: entry with the first, the 10 ms of clearing with the last. -/
def State.emgUpdate (s : State) : State :=
  let cause := s.flag pgPOWER POWER_EMG_STAT_ALERT || s.flag pgPOWER POWER_EMG_STAT_OT || s.flag pgPOWER POWER_EMG_STAT_FORCED
  if cause then
    let s := s.put pgPOWER POWER_EMG_STAT_CLEARING 0
    if emergency s then s
    else
      let s := (s.put pgPOWER POWER_EMG_STAT_ACTIVE 1).bumpSat pgPOWER POWER_EMG_CNT_COUNT
      let s := s.nrg fun e => { e with emgs := e.emgs + 1 }
      (s.setBudget (s.get pgPOWER POWER_FLOOR_UJ) true true).irq pgPOWER 0
  else if emergency s && !s.flag pgPOWER POWER_EMG_STAT_CLEARING then
    (s.put pgPOWER POWER_EMG_STAT_CLEARING 1).nrg fun e => { e with clearAt := s.now + tenMs }
  else s

end Sys2Proof.Machine
end

