-- ==== Sys2Proof/Machine/MvBase.lean ====
section
/-! DEFINITION. A mover channel's chains and completion records (spec/09_movers_and_tokens.md R268, R269, R291, R292, R294). -/
namespace Sys2Proof.Machine

/-- A mover channel, and the state with it changed. -/
def chanOf (s : State) (c : Nat) : MvChan := Sp.get {} s.chans c
def State.chan (s : State) (c : Nat) (f : MvChan → MvChan) : State := { s with chans := Sp.set s.chans c (f (chanOf s c)) }
/-- State of a channel, that of its port page (R294): 0 OFF, 1 DISABLED, 2 ENABLED, 3 DRAINING, 5 PARKED. -/
def chanState (s : State) (c : Nat) : Nat := s.get (portBase (56 + c)) PORT_PSTAT_STATE
/-- A field of a channel's block. -/
def chGet (s : State) (c : Nat) (f : Fld) : Nat := s.get pgMOVER (f.at 64 c)
/-- Entries of a channel's completion ring, 0 for none (R292). -/
def ringSize (s : State) (c : Nat) : Nat :=
  let n := chGet s c MOVER_CH_CFG_CR_LOG2
  if 4 ≤ n ∧ n ≤ 12 then 2 ^ n else 0
/-- The completion ring is full (R292). -/
def recFull (s : State) (c : Nat) : Bool :=
  ringSize s c != 0 && (chGet s c MOVER_CH_CRIDX_PROD + 2 ^ 16 - chGet s c MOVER_CH_CRIDX_CONS) % 2 ^ 16 == ringSize s c
/-- The channel waits: it has a record to write, and its completion ring is full (R292). -/
def recWait (s : State) (c : Nat) : Bool := (chanOf s c).recs != [] && recFull s c
/-- A completion record joins those to be written; with no ring it is not written, and its interrupt is raised at once. `head` says that the
channel's head descriptor waits for it to land (R289). -/
def State.record (s : State) (c : Nat) (words : List Nat) (irq : Bool) (head : Bool := false) : State :=
  if ringSize s c = 0 then s.cond irq fun s => s.irq pgMOVER c
  else s.chan c fun h => { h with recs := h.recs ++ [⟨words, irq, head⟩] }
/-- A post-level record (R291): `bits` holds DREAD or SKIP. -/
def State.postRecord (s : State) (c flagBits status nak ptag left : Nat) : State :=
  s.record c [2 ^ 30 + flagBits + status * 2 ^ 24 + nak * 2 ^ 16 + ptag, left, s.now % 2 ^ 32, 0] false

/-- Descriptors of a chain, and its PTAG. -/
def Chain.count (h : Chain) : Nat := if h.scrub then 1 else bits (h.words.getD 3 0) 31 20 + 1
def Chain.ptag (h : Chain) : Nat := h.words.getD 3 0 % 2 ^ 16
/-- A scrub post ends without having run to its end: its pass will end with PARTIAL (R454, R457). -/
def State.scrubLost (s : State) (acc : Nat) : State :=
  { s with integ := { s.integ with scrub := s.integ.scrub.map fun p =>
    if p.post = acc ∧ !p.ended then { p with ended := true, part := true } else p } }
/-- A chain is given up: its descriptors are dropped, and a post-level record says how many did not run. -/
def State.dropChain (s : State) (c : Nat) (h : Chain) (flagBits status nak left : Nat) : State :=
  let s := s.chan c fun k => { k with
    chains := k.chains.filter fun g => g.acc != h.acc, jobs := k.jobs.filter fun j => j.chain != h.acc, mpw := false }
  if h.scrub then s.scrubLost h.acc else s.postRecord c flagBits status nak h.ptag left
/-- A draining channel with no running descriptor discards every chain that is left (R294). -/
def State.drainChan (s : State) (c : Nat) : State :=
  let k := chanOf s c
  if chanState s c = 3 ∧ !k.jobs.any (·.started) then
    s.each k.chains fun s h =>
      let read := (k.jobs.filter fun j => j.chain == h.acc).length
      s.dropChain c h 0 stDISABLED 0 (h.count - h.next + read)
  else s

end Sys2Proof.Machine
end

