-- ==== Sys2Proof/Machine/Port.lean ====
section
/-! DEFINITION. The port commands (spec/05_port_protocol.md): the REQ transfers of every operation, a request's arrival at
the Hub with the checks of R85, response lanes, the lens conversion of read lines, and a port's urgency, enable, drain and
loopback. -/
namespace Sys2Proof.Machine

/-! ### REQ (R139, R147 to R149, R162, R164, R167) -/

/-- The engine-side bytes of a request's write data and the WD beats that it needs (R148); the ratio of handle 0 is 1. -/
def wdNeed (x : Nat) (r : Request) (fmt : Option Nat) : Nat × Nat :=
  if r.op = 0 ∨ 6 ≤ r.op then (0, 0)
  else if r.op = 2 ∨ r.op = 5 then (laneSize x, 1)
  else
    let e := engineBytes (fmt.any fun f => converting r (some f)) (fmt.getD 0) r.lens (if r.seg then r.lenM1 + 1 else 512 * (r.lenM1 + 1))
    (e, (e + laneSize x - 1) / laneSize x)
/-- Bytes of a write buffer (R132). -/
def writeBuffer (x : Nat) : Nat := if x < 8 then 32768 else 8192
/-- A request carries write data (R148). -/
def hasData (r : Request) : Bool := decide (1 ≤ r.op ∧ r.op ≤ 5)
/-- A request keeps its write buffer until its data has moved into the Hub (R158, R174). -/
def holdsBuffer (s : State) (x : Nat) (t : Txn) : Bool :=
  let p := portOf s x
  hasData t.req && (!t.atHub || p.await.contains t.req.tag || (p.split.map (·.tag)) == some t.req.tag ||
    s.sync.parks.any fun k => k.x == x && k.tag == t.req.tag)
/-- A port takes a request now (R147, R162, R166): its domain is on, its tag is free, and there is room. -/
def reqReady (s : State) (x : Nat) (r : Request) : Bool :=
  let p := portOf s x
  portState s x != 0 && !p.broken && !p.txns.any (fun t => t.req.tag == r.tag) && decide (p.queue.length < 8) &&
    (!hasData r || decide ((p.txns.filter (holdsBuffer s x)).length < 2))

/-- The pairing of a converting request names R110's table and none of R111's exclusions (R119). -/
def convertible (x : Nat) (r : Request) (d : Option Desc) : Bool :=
  match d with
  | none => false
  | some d => converting r (some d.format) && pairingOk x r (some d)

/-- The write data of a request in stored form: converted by the lens where R119 says so (DEDUCED, log entry 13). -/
def takeData (s : State) (x : Nat) (r : Request) (d : Option Desc) : LensWrite :=
  let seed := s.get (portBase x) PORT_LENS_SEED_STATE
  match d with
  | some d =>
    if r.op = 1 ∧ convertible x r (some d) then lensWrite d r.lens (storedBytes r) r.data seed
    else ⟨r.data, [], seed, 0, 0⟩
  | none => ⟨r.data, [], seed, 0, 0⟩

/-- Bytes of a loop store from an address, wrapping at 4 KiB (R169). -/
def loopRead (m : List Host.Cell) (a : Nat) : Nat → Nat
  | 0 => 0
  | n + 1 => (Mem.read m (a % 4096)).toNat + 256 * loopRead m (a + 1) n
def loopWrite (m : List Host.Cell) (a x : Nat) : Nat → List Host.Cell
  | 0 => m
  | n + 1 => loopWrite (Mem.write m (a % 4096) (BitVec.ofNat 8 x)) (a + 1) (x / 256) n
/-- The 32-byte pattern of a FILL repeated over n bytes (R145). -/
def fillBytes (pat n : Nat) : Nat := packElems 256 ((List.range (n / 32)).map fun _ => pat)

/-- The loop store of a port: the adapter's, or at depth 2 the one in the Hub (R169). -/
def PortSt.loopStore (p : PortSt) (hub : Bool) : List Host.Cell := if hub then p.loopHubMem else p.loopMem
/-- A request performed on a loop store of a port (R169): every line answered OK. The values that ACC, SACC, ATOMIC and, at the
adapter, which makes no check, a reserved OP leave there are free (log entry 22). -/
def State.loopServe (s : State) (x tag : Nat) (hub : Bool) : State :=
  match txnOf s x tag with
  | none => s
  | some t =>
    let r := t.req
    let n := storedBytes r
    let (v, s) := if 3 ≤ r.op then s.draw else (0, s)
    let data := if r.op = 1 then some t.raw else if r.op = 2 then some (fillBytes t.raw n)
      else if 3 ≤ r.op then some v else none
    let old := (portOf s x).loopStore hub
    let s := s.noCopies x tag
    let s := match data with
      | some w => s.port x fun p =>
        if hub then { p with loopHubMem := loopWrite old r.addr w n } else { p with loopMem := loopWrite old r.addr w n }
      | none => s
    let per := if r.seg then n else 512
    s.each (List.range (reqLines r)) fun s k =>
      let d := if r.op = 0 ∨ r.op = 5 then some (per, loopRead old (r.addr + per * k) per) else none
      s.answerLine x tag k stOK 0 d

/-- A REQ transfer with its WD beats. A request that the adapter does not take changes nothing but TAG_REUSE (R147); one
refused at the adapter is answered there, with PARKED, DISABLED or BOUNDS in that order (R149, R151, R153). WLEN_ERR is also set for
a misplaced WLAST of a write that is refused with DISABLED or PARKED (DESIGN CHOICE, log entry 52). Data that a stream port takes is
charged to its STREAM_TID (R146); the beat of a FILL is not charged (R30). -/
def takeRequest (s : State) (x : Nat) (r : Request) : Res :=
  if 56 ≤ x ∨ !pagePresent s.cfg ⟨.port, x, portBase x⟩ ∨ portTags x ≤ r.tag then .next s
  else if !reqReady s x r then
    .next (s.cond ((portOf s x).txns.any fun t => t.req.tag == r.tag) fun s => s.put (portBase x) PORT_PSTAT_TAG_REUSE 1)
  else
    let st := portState s x
    let depth := loopDepth s x
    let d := liveDesc s r.handle r.gen
    let fmt := d.map (·.format)
    let (e, need) := wdNeed x r fmt
    let unsure := r.handle != 0 && d.isNone && (r.op == 1 || r.op == 3 || r.op == 4)
    let tid := if portKind x = 2 then s.get (portBase x) PORT_PCTL_STREAM_TID else r.tid
    let wrong := if unsure then decide (writeBuffer x < r.beats * laneSize x) else r.beats != need
    let refuse := if parked s then some stPARKED
      else if st != 2 && st != 4 then some stDISABLED
      else if depth = 1 then none
      else if hasData r && ((!unsure && decide (writeBuffer x < e)) || wrong) then some stBOUNDS
      else none
    let conv := converting r fmt && d.isSome
    let w := if refuse.isSome || depth == 1 then ⟨r.data, [], 0, 0, 0⟩ else takeData s x r d
    let s := s.cond (refuse.isNone && depth != 1 && r.op == 1 && convertible x r d) fun s =>
      (((s.put (portBase x) PORT_LENS_SEED_STATE w.seed).lensCount x w.sat w.nan).energy 6 (units64 e) tid)
    let s := s.cond (hasData r && wrong && st != 0) fun s => s.put (portBase x) PORT_PSTAT_WLEN_ERR 1
    let s := s.bump (portBase x) PORT_REQ_CNT_COUNT
    let s := s.bump (portBase x) PORT_PSTAT_OUTST
    let t : Txn := { req := { r with data := 0 }, acc := s.hub.accCtr, atHub := refuse.isSome || depth == 1, raw := w.raw,
                     scales := w.scales, conv := conv, fmt := fmt.getD 0, policy := (d.map (·.power)).getD 4, refs := [],
                     toGo := List.range (reqLines r), scaleGo := w.scales.map (·.1), late := [], recv := [], short := [],
                     slotAt := none, unsure := unsure }
    let s := s.hubf fun h => { h with accCtr := h.accCtr + 1 }
    let s := s.port x fun p => { p with txns := p.txns ++ [t] }
    let s := s.cond (hasData r && r.op != 2 && e != 0) fun s => s.energy 5 (units64 e) tid
    match refuse with
    | some code =>
      let s := s.cond (code == stBOUNDS) fun s => s.reject x r.handle r.gen stBOUNDS
      .next (s.answerReq x r.tag code)
    | none =>
      if depth = 1 then .next (s.loopServe x r.tag false)
      else .next (s.port x fun p => { p with queue := p.queue ++ [r.tag] })

/-- A REQ transfer of an operation: reserved operations ride on READ. -/
def request (op : Nat) (s : State) (x : Nat) (r : Request) : Res :=
  takeRequest s x { r with op := if op = 0 ∧ 6 ≤ r.op then r.op else op }
/-- A REQ transfer of an atomic: reserved AOP codes ride on ADD. -/
def atomicRequest (aop : Nat) (s : State) (x : Nat) (r : Request) : Res :=
  takeRequest s x { r with op := 5, aop := if aop = 0 ∧ 10 ≤ r.aop then r.aop else aop }

/-- READ (R140). -/
def execReadRequest (x : Nat) (r : Request) (s : State) : Res := request 0 s x r
/-- WRITE (R148, R149). -/
def execWriteRequest (x : Nat) (r : Request) (s : State) : Res := request 1 s x r
/-- FILL (R145). -/
def execFillRequest (x : Nat) (r : Request) (s : State) : Res := request 2 s x r
/-- ACC (R225). -/
def execAccRequest (x : Nat) (r : Request) (s : State) : Res := request 3 s x r
/-- SACC (R227). -/
def execSaccRequest (x : Nat) (r : Request) (s : State) : Res := request 4 s x r
/-- ATOMIC ADD (R233). -/
def execAtomicAdd (x : Nat) (r : Request) (s : State) : Res := atomicRequest 0 s x r
/-- ATOMIC SMIN (R233). -/
def execAtomicSmin (x : Nat) (r : Request) (s : State) : Res := atomicRequest 1 s x r
/-- ATOMIC SMAX (R233). -/
def execAtomicSmax (x : Nat) (r : Request) (s : State) : Res := atomicRequest 2 s x r
/-- ATOMIC UMIN (R233). -/
def execAtomicUmin (x : Nat) (r : Request) (s : State) : Res := atomicRequest 3 s x r
/-- ATOMIC UMAX (R233). -/
def execAtomicUmax (x : Nat) (r : Request) (s : State) : Res := atomicRequest 4 s x r
/-- ATOMIC SWAP (R233). -/
def execAtomicSwap (x : Nat) (r : Request) (s : State) : Res := atomicRequest 5 s x r
/-- ATOMIC CAS (R234). -/
def execAtomicCas (x : Nat) (r : Request) (s : State) : Res := atomicRequest 6 s x r
/-- ATOMIC AND (R233). -/
def execAtomicAnd (x : Nat) (r : Request) (s : State) : Res := atomicRequest 7 s x r
/-- ATOMIC OR (R233). -/
def execAtomicOr (x : Nat) (r : Request) (s : State) : Res := atomicRequest 8 s x r
/-- ATOMIC XOR (R233). -/
def execAtomicXor (x : Nat) (r : Request) (s : State) : Res := atomicRequest 9 s x r

/-! ### At the Hub (R85, R125, R138, R146, R323) -/

/-- The segments that a request covers, with the scale entries of an MX lens write: layer, PTA frame, row, column. -/
def covered (s : State) (r : Request) : List (Nat × Nat × Nat × Nat) :=
  let d := descOf s r.handle
  if r.form = 3 then []
  else if r.seg then
    let (_, layer, frame, b) := segAt r d
    (cutSegs b (segBytes r) 0).map fun y => (layer, frame, y.row, y.col)
  else (List.range (reqLines r)).flatMap fun k =>
    let l := lineAt r d k
    (lineSegs l.col l.num).map (fun p => (l.layer, l.frame, p.1, p.2)) ++ match d with
      | some d =>
        if r.op = 1 ∧ isMX d.format ∧ converting r (some d.format) then
          let (j, row) := handleLine r d.trow k
          let (layer, frame) := d.frame (d.splane + j / 16)
          [(layer, frame, j % 16, row)]
        else []
      | none => []
/-- A request waits behind an earlier request of its port that is held and touches one of its segments (R156, R158). -/
def mustWait (s : State) (x : Nat) (t : Txn) : Bool :=
  s.sync.parks.any (fun k => k.x == x && decide (k.acc < t.acc)) && behindPark s x t.acc (covered s t.req) (covered s)

/-- The scale rows of a converting read of an MX handle: looked up once per data frame (R125). A hit moves the entry to the front; a
line's conversion does not (DESIGN CHOICE, log entry 50). A fetch in flight that an SFLUSH or a handle command has dropped is no hit
(DESIGN CHOICE, log entry 49). -/
def State.lookupRows (s : State) (x tag : Nat) (d : Desc) : State :=
  match txnOf s x tag with
  | none => s
  | some t =>
    let r := t.req
    let frames := (if r.seg then [r.addr / 8192] else (List.range (reqLines r)).map fun k => (handleLine r d.trow k).1).eraseDups
    s.each frames fun s j =>
      let p := portOf s x
      match p.scale.find? fun e => e.handle == r.handle && e.gen == r.gen && e.frame == j with
      | some e =>
        let s := s.port x fun p => { p with scale := putScale p.scale e }
        (s.bump (portBase x) PORT_LENS_HIT_COUNT).txn x tag fun t => { t with refs := t.refs ++ [(j, .row e.row)] }
      | none =>
        match p.fetches.find? fun f => f.handle == r.handle && f.gen == r.gen && f.frame == j && f.keep &&
            (match f.result with | none => true | some (st, _) => st == stOK) with
        | some f => (s.bump (portBase x) PORT_LENS_HIT_COUNT).txn x tag fun t => { t with refs := t.refs ++ [(j, .fetch f.id)] }
        | none =>
          let id := s.hub.accCtr
          let (layer, frame) := d.frame (d.splane + j / 16)
          let f : Fetch := { id := id, handle := r.handle, gen := r.gen, frame := j, layer := layer, pframe := frame,
                             row := j % 16, tid := r.tid, wide := if r.seg then 3 else 2, policy := d.power, sent := false,
                             result := none, keep := true }
          let s := s.hubf fun h => { h with accCtr := h.accCtr + 1 }
          let s := s.port x fun p => { p with fetches := p.fetches ++ [f] }
          (s.bump (portBase x) PORT_LENS_MISS_COUNT).txn x tag fun t => { t with refs := t.refs ++ [(j, .fetch id)] }

/-- The scale rows of a converting read of a port in loopback: no rim is read, and the spec names no row, so each is a free
value (log entry 22). -/
def State.freeRows (s : State) (x tag : Nat) (d : Desc) : State :=
  match txnOf s x tag with
  | none => s
  | some t =>
    let r := t.req
    let frames := (if r.seg then [r.addr / 8192] else (List.range (reqLines r)).map fun k => (handleLine r d.trow k).1).eraseDups
    s.each frames fun s j =>
      let (v, s) := s.draw
      s.txn x tag fun t => { t with refs := t.refs ++ [(j, .row (List.replicate 16 (BitVec.ofNat 256 v)))] }

/-- An access of a port's request, before it enters its pool. -/
def portAccess (s : State) (x : Nat) (r : Request) (policy : Nat) (src : Src) (op : AccOp) (layer frame : Nat)
    (segs : List SegOp) : Access :=
  { seq := 0, src := src, op := op, line := !r.seg, layer := layer, frame := frame, segs := segs, tid := r.tid,
    step := tidStep s r.tid, obs := x, wide := if r.seg then 3 else 2, stream := if portKind x = 2 then some x else none,
    born := s.pcNow, bornD := s.pcDev, policy := policy, loc := .pool, status := stOK, pmask := 0, pk := 0, source := x,
    mcast := r.mcast }
/-- What an access of a port in loopback at the rim does: it is regulated as the operation it stands for (R169, R198). -/
def loopOp (op n : Nat) : AccOp :=
  if op = 0 then .loop n 0 else if op = 1 ∨ op = 2 then .loop 0 n else if op = 5 then .loop 1 1 else .loop n n

/-- The operation and data of line k, or of the segment operation, of a request. -/
def lineAccess (s : State) (x : Nat) (t : Txn) (k : Nat) : Access :=
  let r := t.req
  let d := descOf s r.handle
  let test := loopDepth s x == 3
  let src := if test then Src.test x r.tag k else Src.portLine x r.tag k
  if r.seg then
    let (_, layer, frame, b) := segAt r d
    let n := segBytes r
    let w := atomicBytes r
    let segs := cutSegs b n (if r.op = 5 then 0 else t.raw)
    let op := if test then loopOp r.op segs.length else match r.op with
      | 0 => AccOp.read
      | 1 => .write
      | 3 => .acc r.accf
      | 4 => .sacc r.accf r.gate
      | _ => .atomic r.aop r.aw (b % 32) (t.raw % 256 ^ w) (t.raw / 256 ^ w % 256 ^ w)
    { portAccess s x r t.policy src op layer frame segs with reachD := t.reachD }
  else
    let l := lineAt r d k
    let data := if r.op = 2 then fillBytes t.raw 512 else t.raw / 2 ^ (4096 * k) % 2 ^ 4096
    let op := if test then loopOp r.op 16 else match r.op with
      | 0 => AccOp.read
      | 3 => .acc r.accf
      | 4 => .sacc r.accf r.gate
      | _ => .write
    { portAccess s x r t.policy src op l.layer l.frame (cutLine l.col l.num (if r.op = 0 then 0 else data)) with
      reachD := t.reachD, fill := r.op == 2 }
/-- The scale-entry write of line k of an MX lens write (R107, R122). In loopback at the rim it writes no bank (R169). -/
def scaleAccess (s : State) (x : Nat) (t : Txn) (k : Nat) (entry : Seg) : Access :=
  let d := descOf s t.req.handle
  let (j, row) := handleLine t.req ((d.map (·.trow)).getD 0) k
  let (layer, frame) := (d.map fun d => d.frame (d.splane + j / 16)).getD (0, 0)
  let op := if loopDepth s x = 3 then AccOp.loop 0 1 else .write
  { portAccess s x t.req t.policy (.portScale x t.req.tag k) op layer frame [⟨j % 16, row, entry, fullMask⟩] with line := false }

/-! ### Level-1 accesses of a sector (R186, R188) -/

/-- Lines of a request that its split stage has not released. -/
def unreleased (p : PortSt) (t : Txn) : List Nat :=
  if p.await.contains t.req.tag then t.toGo
  else match p.split with
    | some sp => if sp.tag = t.req.tag then t.toGo.filter fun k => decide (sp.next ≤ k) else []
    | none => []
/-- Level-1 accesses of a sector in flight: from reaching the Hub until they complete (R186 condition 5). -/
def urgCount (s : State) (sec : Nat) : Nat :=
  let urgent := fun (a : Access) => a.sector == sec && level s (arbUp sec) a == 1
  (s.hub.flight.filter urgent).length +
    (s.ports.map fun e => if portKind e.1 = 2 then
      ((e.2.txns.filter fun t => t.atHub && t.req.form != 3).flatMap fun t =>
        (unreleased e.2 t).filter fun k => urgent (lineAccess s e.1 t k)).length else 0).sum
/-- A request of a stream port has reached the Hub with level-1 accesses: each that finds 32 in its sector is recorded (R188). -/
def State.urgArrive (s : State) (x : Nat) (t : Txn) : State :=
  if portKind x ≠ 2 then s
  else
    let lines := (List.range (reqLines t.req)).filterMap fun k =>
      let a := lineAccess s x t k
      if level s (arbUp a.sector) a = 1 then some a.sector else none
    s.each lines.zipIdx fun s y =>
      s.cond (decide (32 ≤ urgCount s y.1 + ((lines.take y.2).filter (· == y.1)).length)) fun s =>
        ((s.put pgHUB HUB_URG_STAT_OVF 1).put pgHUB HUB_URG_STAT_SECTOR y.1 |>.bumpSat pgHUB HUB_URG_OVF_CNT_COUNT).irq pgHUB 3

/-- The oldest request of a port's adapter reaches the Hub (R138): a stream port's takes its TID (R146), the checks of R85 are
made once (R86), the scale rows are looked up, and it waits for the split stage, or is probed for its slot (R323). A write whose handle
was not LIVE with its generation at the REQ transfer fails at step 2 (R148). In loopback no slot is probed, and no tag changes (DESIGN
CHOICE, log entry 22). -/
def execRequestReachesHub (x : Nat) (s : State) : Res :=
  let p := portOf s x
  match p.queue with
  | [] => .next s
  | tag :: rest =>
    match txnOf s x tag with
    | none => .next s
    | some t =>
      if p.split.isSome || p.await.any (fun g => (txnOf s x g).any fun u => !mustWait s x u) then .next s
      else
        let tid := if portKind x = 2 then s.get (portBase x) PORT_PCTL_STREAM_TID else t.req.tid
        let r := { t.req with tid := tid }
        let d := liveDesc s r.handle r.gen
        let s := s.port x fun p => { p with queue := rest }
        let recv := (List.range 8).filter fun k => bit r.mcast k && k != x
        let conv := if r.op = 0 then converting r (d.map (·.format)) && d.isSome else t.conv
        let t := { t with atHub := true, req := r, policy := (d.map (·.power)).getD 4, recv := recv, reachD := s.pcDev,
                          conv := conv, fmt := if r.op = 0 then (d.map (·.format)).getD 0 else t.fmt }
        let s := s.txn x tag fun _ => t
        let slot := d.bind fun d => if r.slot then slotNamed s r d else none
        let st := if t.unsure ∧ r.form ≠ 3 then stSTALE else checkRequest s x r
        let st := if st = stOK ∧ r.slot ∧ slot.isNone then stBOUNDS else st
        if st != stOK then .next ((s.reject x r.handle r.gen st).answerReq x tag st)
        else
          let s := match d with
            | some d => s.cond (r.op == 0 && conv && isMX d.format) fun s =>
              if loopDepth s x = 0 then s.lookupRows x tag d else s.freeRows x tag d
            | none => s
          let s := s.urgArrive x t
          match (if loopDepth s x = 0 then slot else none), d with
          | some (ring, k), some d =>
            let s := s.txn x tag fun t => { t with slotAt := some (ring * 16384 + k) }
            let park : Park := ⟨x, tag, t.acc, slotHome s d ring k, ring, k, r.op == 0, none, false⟩
            if mustWait s x t then .next (s.syn fun y => { y with parks := y.parks ++ [park] })
            else .next (s.probe park)
          | _, _ => .next (s.port x fun p => awaitIn p tag)

/-! ### RSP (R150, R151, R155, R185) -/

/-- A lane is the last of its request on the issuing port. -/
def lastLane (s : State) (x : Nat) (l : Lane) : Bool :=
  ((txnOf s x l.tag).map (·.toGo)).getD [] == [] &&
    ((portOf s x).ready.filter fun m => !m.mc && m.tag == l.tag).length == 1
/-- Copies of a multicast request not yet delivered or dropped. -/
def copiesOut (s : State) (x tag : Nat) : Bool := (List.range 8).any (copiesAt s x tag)
/-- A lane stands behind an earlier one of another request that answers for a common segment (R156). -/
def laneBehind (s : State) (x : Nat) (l : Lane) : Bool :=
  match txnOf s x l.tag with
  | none => false
  | some t => ((portOf s x).ready.takeWhile fun m => m != l).any fun m =>
      !m.mc && m.tag != l.tag && !requestScope m.status && (txnOf s x m.tag).any fun u =>
        u.req.form != 3 && t.req.form != 3 && common (lineAccess s x u m.line) (lineAccess s x t l.line)
/-- A lane can be sent now: a DONE lane waits for every copy (R155), and one for a segment for the lanes of earlier requests. -/
def sendable (s : State) (x : Nat) (l : Lane) : Bool :=
  l.mc || ((!(lastLane s x l) || !copiesOut s x l.tag) && !laneBehind s x l)

/-- A held copy that is delivered: converted as the issuer's line is (R128), its lanes put on the receiver's way to RSP. It is not
counted in the receiver's STS_CNT (DESIGN CHOICE, log entry 53). -/
def State.deliverCopy (s : State) (x : Nat) (b : BackLine) : State :=
  match convertBack s b with
  | none => s
  | some (st, pm, data, sat, nan) =>
    let conv := (txnOf s b.issuer b.tag).any (·.conv)
    let tid := ((txnOf s b.issuer b.tag).map (·.req.tid)).getD 0
    let l : Lane := ⟨false, b.tag, b.line, 0, st, pm, true, b.issuer, false, 0, none, b.since⟩
    let s := s.port x fun p => { p with hold := p.hold.erase b, ready := cutLanes x l data ++ p.ready }
    let s := s.bump (portBase x) PORT_MC_RECV_COUNT
    let s := s.cond conv fun s => s.lensCount x sat nan
    match data with
    | some (n, _) => (s.energy 5 (units64 n) tid).cond conv fun s => s.energy 6 (units64 n) tid
    | none => s

/-- A transaction leaves its port with its DONE lane: the tag is free again (R147). -/
def State.endTxn (s : State) (x tag : Nat) : State :=
  let s := s.port x fun p =>
    let txns := p.txns.filter fun t => t.req.tag != tag
    let used := fun (f : Fetch) => txns.any fun t => t.refs.any fun r => r.2 == .fetch f.id
    { p with txns := txns, fetches := p.fetches.filter fun f => f.result.isNone || used f || f.keep }
  s.drop (portBase x) PORT_PSTAT_OUTST

/-- One lane is offered and taken on RSP: the oldest that can be sent, of the port's own responses and the copies it holds. -/
def execResponse (x : Nat) (s : State) : Res :=
  if portState s x = 0 ∨ (portOf s x).broken then .next s
  else
    let own := (portOf s x).ready.find? (sendable s x)
    let copy := (portOf s x).hold.find? fun b => (convertBack s b).isSome
    let s := match own, copy with
      | none, some b => s.deliverCopy x b
      | some l, some b => if b.since < l.since then s.deliverCopy x b else s
      | _, none => s
    match (portOf s x).ready.find? (sendable s x) with
    | none => .next s
    | some l =>
      if l.mc then
        let s := s.port x fun p => { p with ready := p.ready.erase l }
        let more := copiesAt s l.origin l.tag x || (txnOf s l.origin l.tag).any fun t => t.toGo.any fun k => !t.copied.contains k
        .next (s.port x fun p => { p with rsp := some { l with done := !more } })
      else
        let last := lastLane s x l
        let t := txnOf s x l.tag
        let full := fun k => t.any fun t => t.recv.contains k && !t.short.contains k
        let mcd := if last then (List.range 8).foldl (fun a k => a + b2n (full k) * 2 ^ k) 0 else 0
        let s := s.port x fun p => { p with ready := p.ready.erase l, rsp := some { l with done := last, mcd := mcd } }
        .next (s.cond last fun s => s.endTxn x l.tag)

/-- The oldest copy held for a receiver has waited its MC_HOLD time and is dropped for it (R155, R185). -/
def execMcHoldExpiry (x : Nat) (s : State) : Res :=
  match (portOf s x).hold with
  | [] => .next s
  | b :: rest =>
    if s.pcNow < b.since + 4 * s.get (portBase x) PORT_PCTL_MC_HOLD then .next s
    else
      let s := s.port x fun p => { p with hold := rest }
      let s := s.bumpSat (portBase x) PORT_MC_DROP_COUNT
      .next (s.txn b.issuer b.tag fun t => { t with short := NSet.insert t.short x })

/-! ### The lens (R125 to R127) -/

/-- A scale row has arrived: the requests that wait for it can be converted, and it is installed in its port's buffer unless it
failed or was dropped (R124 to R127). -/
def State.installFetch (s : State) (x id st : Nat) (row : List Seg) : State :=
  s.port x fun p =>
    let p := match p.fetches.find? fun (f : Fetch) => f.id == id with
      | some f => if f.keep ∧ st = stOK then { p with scale := putScale p.scale ⟨f.handle, f.gen, f.frame, row⟩ } else p
      | none => p
    { p with fetches := p.fetches.map fun (g : Fetch) => if g.id = id then { g with result := some (st, row), keep := false } else g }

/-- The oldest read line of a port's return buffer that has its scale row is converted and answered (R125). -/
def execLensConvert (x : Nat) (s : State) : Res :=
  match (portOf s x).back.find? fun b => (convertBack s b).isSome with
  | none => .next s
  | some b =>
    match convertBack s b, txnOf s x b.tag with
    | some (st, pm, data, sat, nan), some t =>
      let s := s.port x fun p => { p with back := p.back.erase b }
      let s := (s.lensCount x sat nan).latency t.req.tid (s.pcDev - b.bornD)
      let s := match data with | some (n, _) => s.energy 6 (units64 n) t.req.tid | none => s
      .next (s.answerLine x b.tag b.line st pm data)
    | _, _ => .next s

/-- LENS_CTL.SFLUSH drops every entry of the port's scale buffer (R127). A scale row still being fetched is then neither installed nor
found by a later lookup, which counts a miss (DESIGN CHOICE, log entry 49). -/
def execSflush (m : Master) (x : Nat) (s : State) : Res :=
  .next (s.gate m (portBase x) PORT_LENS_CTL false fun s =>
    s.cond (decide (portKind x < 2)) fun s => s.port x fun p =>
      { p with scale := [], fetches := p.fetches.map fun f => { f with keep := false } })
/-- ENGe_CTL.SFLUSH drops every entry of a mover engine's scale buffer (R282). -/
def execEngineSflush (m : Master) (e : Nat) (s : State) : Res :=
  .next (s.gate m pgMOVER (MOVER_ENG_CTL + 32 * e) false fun s => { s with
    engScale := Sp.set s.engScale e [], chans := s.chans.map fun k => (k.1, if k.1 / 4 = e then k.2.dropRows none else k.2) })

/-! ### Urgency (R161) -/

/-- The urgency in use of a stream port follows URG and URG_CAP, for new and queued requests alike. -/
def State.applyUrg (s : State) (x : Nat) : State :=
  s.put (portBase x) PORT_PSTAT_URG (min (portOf s x).urgIn (s.get (portBase x) PORT_PCTL_URG_CAP))
/-- A new URG level, stable for two edges, is taken. -/
def execUrgChange (x : Nat) (urg : Nat) (s : State) : Res :=
  if portKind x != 2 || 7 < urg then .next s
  else .next ((s.port x fun p => { p with urgIn := urg }).applyUrg x)
/-- A write of PCTL.URG_CAP. -/
def execUrgCapWrite (m : Master) (x : Nat) (cap : Nat) (s : State) : Res :=
  .next (s.gate m (portBase x) PORT_PCTL true fun s =>
    s.cond (portKind x == 2) fun s => (s.put (portBase x) PORT_PCTL_URG_CAP cap).applyUrg x)

/-! ### Enable, drain, loopback (R164, R169) -/

/-- A port becomes enabled: LOOPBACK where a depth is set. -/
def State.enablePort (s : State) (x : Nat) : State :=
  let s := s.put (portBase x) PORT_PCTL_EN 1
  s.put (portBase x) PORT_PSTAT_STATE (if s.get (portBase x) PORT_PCTL_LOOP = 0 then 2 else 4)
/-- A port reaches DISABLED (R339). -/
def State.portDown (s : State) (x : Nat) : State :=
  (s.put (portBase x) PORT_PSTAT_STATE 1).cond (portKind x != 2) fun s => ((s.sqDrain x 16).sqStop x 4).dropEngine x
/-- PCTL.EN written to 1. While an enable written during DRAINING is held, EN reads 1; one written while the port is OFF
stays 1 and does not enable the port when its domain comes on (DESIGN CHOICE, log entry 51). -/
def execPortEnable (m : Master) (x : Nat) (s : State) : Res :=
  .next (s.gate m (portBase x) PORT_PCTL true fun s =>
    match portState s x with
    | 1 => s.enablePort x
    | 3 => (s.put (portBase x) PORT_PCTL_EN 1).port x fun p => { p with held := true }
    | _ => s.put (portBase x) PORT_PCTL_EN 1)
/-- PCTL.EN written to 0. -/
def execPortDisable (m : Master) (x : Nat) (s : State) : Res :=
  .next (s.gate m (portBase x) PORT_PCTL true fun s =>
    let s := s.put (portBase x) PORT_PCTL_EN 0
    match portState s x with
    | 2 | 4 => ((s.put (portBase x) PORT_PSTAT_STATE 3).port x fun p => { p with drainMark := s.hub.accCtr }).cond (56 ≤ x) fun s => s.drainChan (x - 56)
    | 3 => s.port x fun p => { p with held := false }
    | _ => s)
/-- A mover channel holds no chain, descriptor or record. -/
def moverQuiet (s : State) (x : Nat) : Bool :=
  x < 56 || (let c := Sp.get {} s.chans (x - 56)
    c.chains == [] && c.jobs == [] && c.recs == [] && c.recOut.isNone && c.fetch.isNone)
/-- A draining port whose last response to a request from before the drain has been taken becomes DISABLED, and ENABLED at once where an enable was held. A mover
channel drains when it has no work left. -/
def execPortDrainDone (x : Nat) (s : State) : Res :=
  let p := portOf s x
  if portState s x != 3 || p.txns.any (fun t => decide (t.acc < p.drainMark)) || !moverQuiet s x then .next s
  else
    let s := s.portDown x
    .next (s.cond p.held fun s => (s.port x fun p => { p with held := false }).enablePort x)
/-- PCTL.LOOP written: admitted only while the port is DISABLED. On the page of a mover channel LOOP reads 0 (R294). -/
def execLoopWrite (m : Master) (x : Nat) (depth : Nat) (s : State) : Res :=
  .next (s.gate m (portBase x) PORT_PCTL true fun s =>
    if 56 ≤ x then s
    else if portState s x = 1 then s.put (portBase x) PORT_PCTL_LOOP depth
    else (s.put (portBase x) PORT_PSTAT_LOOP_REJ 1).refused m (portBase x) PORT_PCTL)

end Sys2Proof.Machine
end

