-- ==== Sys2Proof/Machine/RaOps.lean ====
section
/-! DEFINITION. Operation records (spec/08_inplace_work.md R236 to R263): the fields of a record, the line walk, the checks at
its start, its steps and their failures, and its completion. -/
namespace Sys2Proof.Machine

/-! ### A record's fields (R237) -/

def RaRec.w (r : RaRec) (n : Nat) : Nat := r.words.getD n 0
def RaRec.kind (r : RaRec) : Nat := bits (r.w 0) 31 28
def RaRec.kslot (r : RaRec) : Nat := bits (r.w 0) 27 25
def RaRec.core (r : RaRec) : Nat := bits (r.w 0) 22 20
def RaRec.counter (r : RaRec) : Nat := bits (r.w 0) 19 14
def RaRec.tid (r : RaRec) : Nat := bits (r.w 0) 13 8
def RaRec.bmode (r : RaRec) : Nat := bits (r.w 0) 7 6
def RaRec.steps (r : RaRec) : Nat := bits (r.w 5) 31 12 + 1
def RaRec.seq (r : RaRec) : Nat := bits (r.w 6) 31 16

/-- A line operand. -/
structure RaOp where
  handle : Nat
  gen    : Nat
  col    : Bool
  line   : Nat
  mul    : Nat                         -- log2 of the lines it advances per step
deriving DecidableEq, Repr

def RaRec.opD (r : RaRec) : RaOp :=
  ⟨bits (r.w 1) 8 0, bits (r.w 2) 31 24, bit (r.w 2) 23, bits (r.w 2) 20 0, bits (r.w 0) 1 0⟩
def RaRec.opA (r : RaRec) : RaOp :=
  ⟨bits (r.w 1) 17 9, bits (r.w 3) 31 24, bit (r.w 3) 23, bits (r.w 3) 20 0, bits (r.w 0) 5 4⟩
def RaRec.opB (r : RaRec) : RaOp :=
  ⟨bits (r.w 1) 26 18, bits (r.w 4) 31 24, bit (r.w 4) 23, bits (r.w 4) 20 0, bits (r.w 0) 3 2⟩

/-! ### Kernels (R247 to R249) -/

/-- Instruction i of kernel slot k, and the body of a slot; an unloaded slot has none. -/
def kInstr (s : State) (k i : Nat) : Nat := (s.rd (pgRIMALU + RIMALU_KSLOT + 64 * k + 4 * i)).toNat
def kValid (s : State) (k : Nat) : Bool := bit (s.get pgRIMALU RIMALU_KSLOT_STAT_VALID) k
def kBody (s : State) (k : Nat) : List Nat :=
  if kValid s k then (List.range (Sp.get 0 s.klen k)).map (kInstr s k) else []
def kiOpc (i : Nat) : Nat := bits i 31 27
def kiFmt (i : Nat) : Nat := bits i 26 23
def kiCfmt (i : Nat) : Nat := bits i 22 19
def kiDst (i : Nat) : Bool := bit i 18
def kiSa (i : Nat) : Bool := bit i 17
def kiSrc (i : Nat) : Nat := bits i 16 15
def kiKix (i : Nat) : Nat := bits i 14 12
def kiJ (i : Nat) : Nat := bits i 11 9
/-- The instruction reads SRC. -/
def kiUsesSrc (i : Nat) : Bool := decide (4 ≤ kiOpc i ∧ kiOpc i ≤ 8)
/-- The ratio of the widths of a CVT (R251). -/
def cvtRatio (i : Nat) : Nat :=
  let wi := fmtWidth (kiFmt i)
  let wo := fmtWidth (kiCfmt i)
  if wo ≤ wi then wi / wo else wo / wi

/-! ### The line walk (R239) -/

/-- Lines that precede layer 1 in the walk of handle 0, and the lines skipped before it. -/
def lines0 : Nat := 8192 * 16
/-- Walk line t of an operand. -/
def walkLine (s : State) (o : RaOp) (t : Nat) : LineAt :=
  if o.handle = 0 then
    let p := if o.line < lines0 ∧ lines0 ≤ o.line + t then o.line + t + lines0 else o.line + t
    ⟨0, p / 16 / 16384, p / 16 % 16384, o.col, p % 16⟩
  else
    let n := o.line + t
    match descOf s o.handle with
    | none => ⟨n / 16, 0, 0, o.col, n % 16⟩
    | some d =>
      let (layer, frame) := d.frame (n / 16)
      ⟨n / 16, layer, frame, o.col, n % 16⟩
/-- The logical rim of a line, 16 * layer + rim, and its sector. -/
def LineAt.rim (l : LineAt) : Nat := rimOfFrame l.frame
def LineAt.key (l : LineAt) : Nat := 16 * l.layer + l.rim
def LineAt.sector (l : LineAt) : Nat := 4 * l.layer + l.rim / 4
/-- The line that holds word s of a gate or reduce operand, and the segment of it. -/
def wordLine (s : State) (o : RaOp) (step : Nat) : LineAt × Nat × Nat :=
  let l := walkLine s o (step / 128)
  (l, l.num, step % 128 / 8)
/-- Power policy of an operand: 4 for handle 0 (R72, R73). -/
def opPolicy (s : State) (h : Nat) : Nat := if h = 0 then 4 else ((descOf s h).map (·.power)).getD 4
/-- POWER, OVF and SROUND of a handle, as an operation takes them at its start (R88). -/
def capOf (s : State) (h : Nat) : Nat × Bool × Bool :=
  (opPolicy s h, ((descOf s h).map (·.ovf)).getD false, ((descOf s h).map (·.sround)).getD false)
/-- Those of a record: as taken at its start. -/
def RaRec.cap (s : State) (r : RaRec) (h : Nat) : Nat × Bool × Bool :=
  match r.caps.find? fun e => e.1 == h with
  | some e => e.2
  | none => capOf s h
/-- The power policy of an operand of a record. -/
def RaRec.pol (s : State) (r : RaRec) (h : Nat) : Nat := (r.cap s h).1
/-- An operand has an MX format. -/
def opMX (s : State) (h : Nat) : Bool := ((descOf s h).map fun d => isMX d.format).getD false

/-! ### The checks at the start (R238, R240, R254) -/

/-- The checks of R85 for `n` walk lines of an operand that needs a right: 0 R, 1 W (R78, R240). -/
def checkOp (s : State) (r : RaRec) (o : RaOp) (right n : Nat) : Nat :=
  if o.handle = 0 then
    let priv := match r.chan with
      | none => true
      | some c => bit (s.get pgHGUARD HANDLE_GUARD_PRIV_MASK_MV) c
    let stop := o.line + n
    let last := if o.line < lines0 ∧ lines0 < stop then stop + lines0 else stop
    let secs := s.get pgCACHE CACHE_SEC_STAT_CUR
    let cached := (List.range 8).any fun k =>
      bit secs k && decide (o.line < min lines0 (16384 * (k + 1)) ∧ 16384 * k < min lines0 stop)
    if !priv then stRIGHTS
    else if (lines0 ≤ o.line ∧ o.line < 2 * lines0) ∨ s.cfg.dies * 2 ^ 18 < last ∨ cached then stBOUNDS
    else stOK
  else match liveDesc s o.handle o.gen with
    | none => stSTALE
    | some d =>
      let ok := match r.chan with
        | none => d.admits 7 (some right) 0 r.tid
        | some c => d.admits 3 (some right) (c / 2) r.tid
      if !ok then stRIGHTS
      else if 16 * (d.extentM1 + 1) < o.line + n then stBOUNDS
      else stOK

/-- The cases of R254. -/
def kernelBad (s : State) (r : RaRec) : Bool :=
  let body := kBody s r.kslot
  let n := r.steps
  let has := fun (p : Nat → Bool) => body.any p
  let mxBad := fun (o : RaOp) (p : Nat → Bool) =>
    opMX s o.handle && has p && (o.col || match descOf s o.handle with
      | some d => body.any fun i => p i && decide (d.splane ≤ (o.line + 2 ^ o.mul * (n - 1) + kiJ i) / 16)
      | none => false)
  let lda := fun i => kiOpc i == 1
  let ldb := fun i => kiOpc i == 2
  let st := fun i => kiOpc i == 3
  !kValid s r.kslot ||
    (has ldb && r.bmode != 1) || (has (fun i => kiUsesSrc i && kiSrc i == 3) && r.bmode != 2) ||
    (has (fun i => kiOpc i == 11 || kiOpc i == 12) != (r.bmode == 3)) ||
    has (fun i => (lda i && decide (2 ^ r.opA.mul ≤ kiJ i)) || (ldb i && decide (2 ^ r.opB.mul ≤ kiJ i)) ||
      (st i && decide (2 ^ r.opD.mul ≤ kiJ i)) || (kiOpc i == 10 && decide (cvtRatio i ≤ kiJ i))) ||
    mxBad r.opA lda || mxBad r.opB ldb || mxBad r.opD st

/-- A record uses operand A (R238). -/
def RaRec.usesA (s : State) (r : RaRec) : Bool :=
  r.kind == 3 || (r.kind == 4 && (kBody s r.kslot).any fun i => kiOpc i == 1)
/-- The operands in use with the right each needs and the walk lines each touches, in the order they are checked: D, A, B. -/
def RaRec.operands (s : State) (r : RaRec) : List (RaOp × Nat × Nat) :=
  (if r.kind != 0 then [(r.opD, 1, 2 ^ r.opD.mul * r.steps)] else []) ++
  (if r.usesA s then [(r.opA, 0, 2 ^ r.opA.mul * r.steps)] else []) ++
  (if r.bmode = 1 then [(r.opB, 0, 2 ^ r.opB.mul * r.steps)]
   else if r.bmode = 2 then [(r.opB, 0, (r.steps + 127) / 128)]
   else if r.bmode = 3 then [(r.opB, 1, (r.steps + 127) / 128)] else [])

/-- The checks of a record apart from those of R85 and of its kernel: the RESULT of the first that fails, else 0. -/
def recordForm (s : State) (r : RaRec) : Nat :=
  if parked s then 8
  else if r.kind = 4 ∧ !s.cfg.optA then 6
  else if 4 < r.kind ∨ 47 < r.counter then 2
  else if (1 ≤ r.kind ∧ r.kind ≤ 3 ∧ (r.opA.mul ≠ 0 ∨ r.opD.mul ≠ 0)) ∨ (2 ≤ r.bmode ∧ (r.opB.col ∨ r.opB.mul ≠ 0)) then 2
  else if (match r.chan with | some c => r.core != c / 2 | none => false) then 3
  else 0
/-- The operand that fails a check of R85, the first in their order, with its status. -/
def recordRefused (s : State) (r : RaRec) : Option (RaOp × Nat) :=
  ((r.operands s).find? fun o => checkOp s r o.1 o.2.1 o.2.2 != stOK).map fun o => (o.1, checkOp s r o.1 o.2.1 o.2.2)
/-- The RESULT that a record completes with at its start, 0 where it passes every check (R240, R254, R261, R263). -/
def recordCheck (s : State) (r : RaRec) : Nat :=
  if recordForm s r ≠ 0 then recordForm s r
  else match recordRefused s r with
    | some o => o.2
    | none => if r.kind = 4 ∧ kernelBad s r then 10 else 0

/-! ### Queues -/

/-- An operation queue, and the state with it changed. -/
def raqOf (s : State) (q : Nat) : RaQueue := Sp.get {} s.raq q
def State.setRaq (s : State) (q : Nat) (f : RaQueue → RaQueue) : State := { s with raq := Sp.set s.raq q (f (raqOf s q)) }
/-- The record at the head of a queue, and the state with it changed. -/
def raHead (s : State) (q : Nat) : Option RaRec := (raqOf s q).recs.head?
def State.headRec (s : State) (q : Nat) (f : RaRec → RaRec) : State :=
  s.setRaq q fun y => { y with recs := match y.recs with | [] => [] | r :: l => f r :: l }
/-- State of a queue: 0 DISABLED, 1 ENABLED, 2 DRAINING. -/
def raState (s : State) (q : Nat) : Nat := s.get pgRIMALU (RIMALU_Q_STAT_STATE.at 32 q)
/-- A queued or running record names kernel slot k (R247). -/
def slotInUse (s : State) (k : Nat) : Bool :=
  s.raq.any fun e => e.2.recs.any fun r => r.kind == 4 && r.kslot == k
/-- The energy owner of a queue's record. -/
def raOwner (q : Nat) : Nat := 16 + q

/-- The completion actions of a record (R242): counter, completion entry, interrupt. -/
def State.completeRec (s : State) (q : Nat) (r : RaRec) : State :=
  let s := s.cond (bit (r.w 0) 23 && decide (r.counter ≤ 47)) fun s => s.ctrOp (48 * r.core + r.counter) 0 1
  let s := s.setRaq q fun y => { y with cpl := y.cpl ++ [(r.status, r.seq, r.fail)] }
  let s := s.bump pgRIMALU (RIMALU_Q_DONE_VALUE.at 32 q)
  s.cond (bit (r.w 0) 24) fun s => s.irq pgRIMALU q
/-- Records that have not started complete with DISABLED in a queue that is not ENABLED, while its completion FIFO has room
(R262); at 16 entries they are held (DESIGN CHOICE, log entry 76). `fuel` is above the records. -/
def State.flushDisabled (s : State) (q : Nat) : Nat → State
  | 0 => s
  | fuel + 1 =>
    if raState s q = 1 ∨ 16 ≤ (raqOf s q).cpl.length then s
    else match (raqOf s q).recs.find? fun r => !r.started with
      | none => s
      | some r =>
        let s := s.setRaq q fun y => { y with recs := y.recs.erase r }
        (s.completeRec q { r with status := 6 }).flushDisabled q fuel

/-- Qq_CPL as its next read returns it. -/
def qCplWord (s : State) (q : Nat) : Nat :=
  match (raqOf s q).cpl with
  | (r, seq, _) :: _ => 2 ^ 31 + r % 16 * 2 ^ 20 + seq % 2 ^ 16
  | [] => 0
/-- A read of Qq_CPL: the oldest completion entry is removed, and CPL_STEP takes its failed step (R264). -/
def State.popCpl (s : State) (q : Nat) : State :=
  match (raqOf s q).cpl with
  | (_, _, f) :: l =>
    let s := s.setRaq q fun y => { y with cpl := l }
    let s := s.put pgRIMALU (RIMALU_Q_CPL_STEP_FAILED.at 32 q) (b2n f.isSome)
    (s.put pgRIMALU (RIMALU_Q_CPL_STEP_FAIL_STEP.at 32 q) (f.getD 0)).flushDisabled q 17
  | [] => s

/-- A record pushed to a queue (R236, R262): false where the queue is full and sets REJ. -/
def State.pushRec (s : State) (q : Nat) (words : List Nat) (chan : Option Nat) : Bool × State :=
  if 16 ≤ (raqOf s q).recs.length then
    (false, (s.put pgRIMALU (RIMALU_Q_STAT_REJ.at 32 q) 1).irq pgRIMALU (4 + q))
  else
    let s := s.setRaq q fun y => { y with recs := y.recs ++ [{ words := words, chan := chan }] }
    (true, s.flushDisabled q 17)

/-! ### Accesses of a record -/

/-- What a record's access meets: it proceeds, waits, or completes with a status. -/
inductive Go where
  | go
  | wait
  | fail (st : Nat)
deriving DecidableEq, Repr

/-- Work of a TID on a frame at a rim, under a power policy (R72, R73, R92, R153, R480, R496); it asks for the wake that it
waits for. -/
def State.tryRim (s : State) (tid layer frame policy : Nat) : Go × State :=
  let i := rimOfFrame frame
  if 2 ≤ tidClass s tid ∧ emergency s then (.wait, s)
  else match rimRefusal s layer i policy with
    | some st => (.fail st, s)
    | none =>
      let p := physOf s layer i
      if 1 < rimPower s layer p then (.wait, s.askWake layer p)
      else if awaitsClear s layer frame then (.wait, s)
      else (.go, s)
/-- The same for work that has not yet come to the rim: a draining rim takes none (R477), but the step that its ALU runs goes on. -/
def State.tryNew (s : State) (tid layer frame policy : Nat) : Go × State :=
  let i := rimOfFrame frame
  let p := physOf s layer i
  match s.tryRim tid layer frame policy with
  | (.go, s) =>
    (if rimPower s layer p = 1 ∧ ((rimOf s layer p).moving ∨ !(rimOf s layer p).krun) then .wait else .go, s)
  | x => x

/-- A rim would grant an entry now: nothing that it may grant in this pc comes before it (R177 to R181). -/
def wins (s : State) (layer i seq : Nat) : Bool :=
  let arb := arbRim layer i
  let st := rimOf s layer (physOf s layer i)
  let busy := (st.half.map (·.banks)).getD []
  let free := (List.range 16).filter fun b => !busy.contains b
  let ok := served s arb ((eligible s layer i (rimEntries s layer i)).filter fun a => !govHolds s arb a)
  (rimGrant s arb (outStage s layer i) free (!st.norm) (ok.length + 1) ok).any fun a => a.seq == seq
/-- A line that a kernel of the same record has stored, and that still waits in a write buffer, covers a segment of an access. -/
def behindStore (s : State) (a : Access) : Bool :=
  s.hub.claims.any fun c => match c.src, a.src with
    | .kstore q _, .inplace u => q == u % 4 && common c a
    | _, _ => false
/-- A claim dropped. -/
def State.dropClaim (s : State) (seq : Nat) : State :=
  s.hubf fun h => { h with claims := h.claims.filter fun c => c.seq != seq }
/-- A claim has its rim's grant. -/
def claimWon (s : State) (seq : Nat) : Bool := s.hub.claims.any fun c => c.seq == seq && c.loc == .merge
/-- A claim asked at its rim: it waits there with its age. Where it would be chosen now, the rim arbitrates at once (R611), as for
any other access (R177 to R180). -/
def State.askRim (s : State) (a : Access) : Go × State :=
  match s.tryRim a.tid a.layer a.frame a.policy with
  | (.fail st, s) => (.fail st, s.dropClaim a.seq)
  | (.wait, s) => (.wait, s)
  | (.go, s) =>
    if a.loc == .merge then (.go, s)
    else if behindStore s a then (.wait, s)
    else if wins s a.layer a.rim a.seq then
      let s := rimArb s a.layer a.rim
      (if claimWon s a.seq then .go else .wait, s)
    else (.wait, s.cond (govHolds s (arbRim a.layer a.rim) a) fun s => s.bump pgPOWER POWER_GOV_HOLD_COUNT)
/-- An access that a unit performs where it stands: it proceeds, waits for its rim's grant, or completes with a status. It is
charged when it first stands in the queue of its rim (R175, R199). -/
def State.tryAcc (s : State) (a : Access) : Go × State :=
  match s.hub.claims.find? fun c => c.src == a.src && c.same a with
  | some c => if c.status ≠ stOK then (.fail c.status, s.dropClaim c.seq) else s.askRim c
  | none =>
    match s.tryNew a.tid a.layer a.frame a.policy with
    | (.fail st, s) => (.fail st, s)
    | (.wait, s) => (.wait, s)
    | (.go, s) =>
      if !roomIn s (arbRim a.layer a.rim) 48 32 (rimPlaces s a.layer a.rim) a then (.wait, s)
      else
        let a := { a with seq := s.hub.seqCtr }
        let s := s.hubf fun h => { h with seqCtr := h.seqCtr + 1, claims := h.claims ++ [a] }
        (s.charge a.tid a.charge.1 a.charge.2).askRim a

/-- Source code of a record's accesses in the poison log: 76, or 56 + c for one that a mover channel posted (R100). -/
def RaRec.source (r : RaRec) : Nat := match r.chan with | none => 76 | some c => 56 + c
/-- The unit of a step of a record, and that of the gate segment of eight steps, which one access reads for all of them (R253,
R258). -/
def raUnit (q step : Nat) : Nat := 4 * step + q
def gateUnit (q g : Nat) : Nat := 4 * (2 ^ 24 + g) + q
/-- The access of a unit of a record to a line or a segment of an operand. -/
def lineClaim (s : State) (q step : Nat) (r : RaRec) (l : LineAt) (op : AccOp) (policy : Nat) : Access :=
  { inAccess s (raUnit q step) 4 l.layer l.frame op (cutLine l.col l.num 0) r.tid policy with source := r.source }
def segClaim (s : State) (unit : Nat) (r : RaRec) (layer frame row col : Nat) (op : AccOp) (mask : BitVec 32) (policy : Nat) : Access :=
  { inAccess s unit 4 layer frame op [⟨row, col, 0, mask⟩] r.tid policy with source := r.source }
/-- An access between two lines crosses the Hub (R30), which is stopped during a plane change or a lane substitution. -/
def crossHeld (s : State) (a b : LineAt) : Bool :=
  a.sector != b.sector && (s.hub.paused || s.spokeHeld.contains a.sector || s.spokeHeld.contains b.sector)

/-- A line read for a record: status, the 512 bytes as a number. -/
def State.raRead (s : State) (r : RaRec) (l : LineAt) : Nat × Nat × State :=
  let (ds, pm, s) := directRead s l.layer l.frame (lineSegs l.col l.num) r.tid
  (if pm = 0 then stOK else stPOISON, ds.foldr (fun d a => d.toNat + 2 ^ 256 * a) 0, s)
/-- A line written for a record. -/
def State.raWrite (s : State) (r : RaRec) (l : LineAt) (data : Nat) : State :=
  (directWrite s l.layer l.frame (cutLine l.col l.num data) r.tid).2

/-- A step fails with a status (R260): no further steps are sent, and the lowest failed step names the result. -/
def State.failStep (s : State) (q step st : Nat) : State :=
  (s.dropClaims (raUnit q step)).headRec q fun r =>
    let lower := match r.fail with | some f => decide (step < f) | none => true
    { r with stop := true, status := if lower then st else r.status, fail := if lower then some step else r.fail }
/-- Steps finished (RA_STEPS). -/
def State.stepsDone (s : State) (n : Nat) : State := s.bump pgRIMALU RIMALU_RA_STEPS_COUNT n

/-- Valid bits of one line cleared at the rim that serves a frame and the rim that shadows it (R223); pending write-backs of the
line are cancelled (R446). -/
def State.clearLine (s : State) (l : LineAt) : State :=
  let i := l.rim
  let rims := physOf s l.layer i :: (mirrorOf s l.layer i).toList
  let segs := lineSegs l.col l.num
  let ws := rims.flatMap fun p => segs.map fun x => wordIdx l.layer p (slotOfFrame l.frame) x.1 x.2
  let mine := fun (b : WriteBack) => b.layer == l.layer && b.frame == l.frame && segs.contains (b.row, b.col)
  let gone := (s.array.wbs.filter mine).length
  let s := s.arr fun a => { a with
    validA := a.validA.filter (fun w => !ws.contains w), validB := a.validB.filter (fun w => !ws.contains w),
    wbs := a.wbs.filter fun b => !mine b }
  s.bumpSat pgINTEG (.word INTEG_WB_CANCEL) gone

/-- The sixteen steps from step t of a ZERO cover a whole frame (R223), whether or not they have all been sent. -/
def wholeFrame (r : RaRec) (d : LineAt) (t : Nat) : Bool := d.num == 0 && decide (t + 16 ≤ r.steps)
/-- Steps of a record that are in flight no longer, and are not sent again. -/
def State.stepsOff (s : State) (q t n : Nat) : State :=
  s.headRec q fun r => { r with fly := r.fly.filter (fun k => !decide (t ≤ k ∧ k < t + n)), next := max r.next (t + n) }
/-- Step t of a ZERO at line d, with the other steps of a whole frame: valid bits cleared between two accesses of the rim. -/
def State.zeroStep (s : State) (q : Nat) (r : RaRec) (d : LineAt) (t : Nat) : State :=
  let s := s.settle d.layer d.rim
  let s := if wholeFrame r d t then s.clearFrames fun l p slot => frameHit s (fun l f => l == d.layer && f == d.frame) l p slot
    else s.clearLine d
  let n := if wholeFrame r d t then 16 else 1
  ((s.energy 1 1 r.tid (some (raOwner q))).stepsDone n).stepsOff q t n
/-- The line that a FILL writes: its pattern in each of the sixteen segments (R224). -/
def RaRec.fill (r : RaRec) : Nat :=
  let pat := (List.range 8).foldl (fun a k => a + (r.w (8 + k)) * 2 ^ (32 * k)) 0
  (List.range 16).foldl (fun a j => a + pat * 2 ^ (256 * j)) 0
/-- A line of a COPY within a sector, from line a to line d: read, moved as R30 gives, and written. -/
def State.copyStep (s : State) (q : Nat) (r : RaRec) (a d : LineAt) (t : Nat) : State :=
  let (st, data, s) := s.raRead r a
  if st = stOK then ((s.raWrite r d data).stepsDone 1).stepsOff q t 1 else (s.failStep q t st).stepsOff q t 1
/-- The access of a line of a COPY that crosses from one sector to another, and so takes a slot of each Spoke (R30, R173). -/
def crossAccess (s : State) (q : Nat) (r : RaRec) (t : Nat) (l : LineAt) (op : AccOp) (data policy : Nat) : Access :=
  { lineClaim s q t r l op policy with src := .copyLine q t, segs := cutLine l.col l.num data }
/-- Its read goes to the queue of the source rim, where there is room (R175); false while the step is under way, or waits. -/
def State.crossStep (s : State) (q : Nat) (r : RaRec) (a : LineAt) (t : Nat) : Bool × State :=
  if s.hub.flight.any fun b => b.src == .copyLine q t then (false, s)
  else
    let pol := r.pol s r.opA.handle
    match s.tryNew r.tid a.layer a.frame pol with
    | (.wait, s) => (false, s)
    | (.fail st, s) => (true, (s.failStep q t st).stepsOff q t 1)
    | (.go, s) =>
      let b := { crossAccess s q r t a .read 0 pol with seq := s.hub.seqCtr }
      if !roomIn s (arbRim a.layer a.rim) 48 32 (rimPlaces s a.layer a.rim) b then (false, s)
      else
        let s := (s.setFlight (s.hub.flight ++ [b])).hubf fun h => { h with seqCtr := h.seqCtr + 1 }
        (false, s.charge b.tid b.charge.1 b.charge.2)
/-- Such an access has come to the Hub: the line that was read goes up the destination's Spoke, once there is room in its pool, and the
step ends when it has landed (R244). -/
def State.crossBack (s : State) (q t : Nat) (b : Access) : State :=
  let s := s.leave b
  match raHead s q with
  | none => s
  | some r =>
    if b.status ≠ stOK then (s.failStep q t b.status).stepsOff q t 1
    else if !b.isRead then (s.stepsDone 1).stepsOff q t 1
    else
      let d := walkLine s r.opD t
      let w := crossAccess s q r t d .write (b.segs.foldr (fun x a => x.data.toNat + 2 ^ 256 * a) 0) (r.pol s r.opD.handle)
      match rimRefusal s d.layer d.rim w.policy with
      | some st => (s.failStep q t st).stepsOff q t 1
      | none => s.enterPool w
/-- The line of a cross-sector COPY cannot go up yet: its pool, or its TID's queue share, has no room (R175, R204). -/
def crossWaits (s : State) (q t : Nat) (b : Access) : Bool :=
  match raHead s q with
  | none => false
  | some r =>
    let d := walkLine s r.opD t
    let w := crossAccess s q r t d .write 0 (r.pol s r.opD.handle)
    b.isRead && b.status == stOK && (rimRefusal s d.layer d.rim w.policy).isNone && !poolRoom s w
/-- Step t of a ZERO, FILL or COPY record at its rim: false where it must wait. -/
def State.plainStep (s : State) (q : Nat) (r : RaRec) (t : Nat) : Bool × State :=
  let d := walkLine s r.opD t
  let a := walkLine s r.opA t
  if r.kind = 3 ∧ a.sector ≠ d.sector then s.crossStep q r a t
  else
    let go := if r.kind = 1 then s.tryNew r.tid d.layer d.frame (r.pol s r.opD.handle)
      else s.tryAcc (lineClaim s q t r d .write (r.pol s r.opD.handle))
    match go with
    | (.wait, s) => (false, s)
    | (.fail st, s) => (true, (s.failStep q t st).stepsOff q t 1)
    | (.go, s) =>
      if r.kind = 1 then (true, s.zeroStep q r d t)
      else if r.kind = 2 then (true, ((s.raWrite r d r.fill).stepsDone 1).stepsOff q t 1)
      else match s.tryAcc (lineClaim s q t r a .read (r.pol s r.opA.handle)) with
        | (.wait, s) => (false, s)
        | (.fail st, s) => (true, (s.failStep q t st).stepsOff q t 1)
        | (.go, s) => (true, s.copyStep q r a d t)
/-- The steps in flight of a ZERO, FILL or COPY record, each rim's in ascending order: a step that must wait holds the later ones of
its own rim and no others (R242). Answers whether one went on. -/
def State.plainPass (s : State) (q : Nat) (r : RaRec) : List Nat → List Nat → Bool × State
  | _, [] => (false, s)
  | busy, t :: ts =>
    let k := (walkLine s r.opD t).key
    if busy.contains k ∨ !(raHead s q).any (fun r => r.fly.contains t) then s.plainPass q r busy ts
    else match s.plainStep q r t with
      | (true, s) => (true, (s.plainPass q r busy ts).2)
      | (false, s) => s.plainPass q r (k :: busy) ts
/-- Steps of a record sent to its rims, up to the 64 that may be in flight (R242). -/
def State.sendSteps (s : State) (q : Nat) : State :=
  match raHead s q with
  | none => s
  | some r =>
    let n := if r.stop then 0 else min (64 - r.fly.length) (r.upTo - r.next)
    s.headRec q fun r => { r with fly := r.fly ++ (List.range n).map (r.next + ·), next := r.next + n }

/-- Steps of the admitted chunk of a ZERO, FILL or COPY record, until every rim that has one must wait. -/
def State.plainRun (s : State) (q : Nat) : Nat → State
  | 0 => s
  | fuel + 1 =>
    let s := s.sendSteps q
    match raHead s q with
    | none => s
    | some r => match s.plainPass q r [] r.fly with
      | (true, s) => s.plainRun q fuel
      | (false, s) => s

/-- The energy estimate of the next `n` steps of a record (R259): its rim accesses, Spoke lines and ALU instructions. -/
def chunkEstimate (s : State) (r : RaRec) (n : Nat) : Nat :=
  if r.kind = 2 then eventCharge s 0 n
  else if r.kind = 3 then
    let layers := (List.range n).foldl (fun a k =>
      let x := walkLine s r.opA (r.next + k)
      let y := walkLine s r.opD (r.next + k)
      a + if x.sector = y.sector then 0 else x.layer + y.layer) 0
    eventCharge s 0 (2 * n) + eventCharge s 3 layers
  else if r.kind = 4 then
    let body := kBody s r.kslot
    let per := fun (opc : Nat) (o : RaOp) => (body.filter fun i => kiOpc i == opc).length * (if opMX s o.handle then 2 else 1)
    eventCharge s 0 (n * (per 1 r.opA + per 2 r.opB + per 3 r.opD) + (if 2 ≤ r.bmode then (n + 7) / 8 else 0)) +
      eventCharge s 2 (n * body.length)
  else 0

/-- The steps of an admitted chunk go to the rims (R242, R259). -/
def State.runChunk (s : State) (q : Nat) : State :=
  match raHead s q with
  | none => s
  | some r =>
    if r.started && (chunkOf s (raOwner q)).any (·.adm) then
      if r.kind = 4 then s.sendSteps q else s.plainRun q 4097
    else s
/-- The next chunk of a started record asks for energy (R259). -/
def State.nextChunk (s : State) (q : Nat) : State :=
  match raHead s q with
  | none => s
  | some r =>
    let n := min 4096 (r.steps - r.next)
    let s := s.endChunk (raOwner q)
    let est := chunkEstimate s r n
    let s := s.headRec q fun r => { r with upTo := r.next + n }
    let (deferred, s) := s.askChunk (raOwner q) r.tid n est
    s.cond deferred fun s => s.bumpSat pgRIMALU (RIMALU_Q_DEFER_VALUE.at 32 q)

/-- A record that has started has nothing left to send and no step in flight. -/
def RaRec.quiet (r : RaRec) : Bool := r.started && (r.stop || decide (r.steps ≤ r.next)) && r.fly.isEmpty

/-- A step of a KERNEL record finishes with a status: its reduce word goes to the queue where it succeeded (R253, R260). -/
def State.stepEnd (s : State) (q step st : Nat) (word : Option Nat) : State :=
  let s := s.headRec q fun r => { r with fly := r.fly.filter (· != step) }
  if st = 0 then
    let s := match word with
      | none => s
      | some w => s.headRec q fun r => { r with red := Sp.set r.red step w }
    let s := match raHead s q, word with
      | some r, some w => s.cond (step + 1 == r.steps) fun s => s.put pgRIMALU (RIMALU_Q_RESULT_VALUE.at 32 q) w
      | _, _ => s
    (s.stepsDone 1).sendSteps q
  else s.failStep q step st
/-- Steps in flight whose instructions have not all issued. -/
def RaRec.waiting (r : RaRec) : List Nat := r.fly.filter fun t => !r.ended.any fun e => e.1 == t
/-- The ALU of a physical rim is free for its next step; the operation keeps it while it has another step there (R246). -/
def State.aluFree (s : State) (layer i q : Nat) : State :=
  let more := match raHead s q with
    | some r => r.waiting.any fun t => (walkLine s r.opD (2 ^ r.opD.mul * t)).key == 16 * layer + i
    | none => false
  s.rim layer (physOf s layer i) fun r => { r with krun := false, kq := if more then some q else none }
/-- A step has a line in a write buffer of a rim. -/
def storing (s : State) (q step : Nat) : Bool := s.hub.claims.any fun c => c.src == .kstore q step
/-- The instructions of a step have all issued: it finishes once every line that it stored has landed (R252, R260). -/
def State.stepIssued (s : State) (q step st : Nat) (word : Option Nat) : State :=
  if storing s q step then s.headRec q fun r => { r with ended := r.ended ++ [(step, st, word)] } else s.stepEnd q step st word
/-- Steps whose stored lines have now all landed finish. -/
def State.stepsLand (s : State) (q : Nat) : State :=
  match raHead s q with
  | none => s
  | some r => s.each (r.ended.filter fun e => !storing s q e.1) fun s e =>
      (s.headRec q fun r => { r with ended := r.ended.filter fun f => f.1 != e.1 }).stepEnd q e.1 e.2.1 e.2.2
/-- A line that a step has stored is lost with a status: the step, running or ended, fails with it (R260). -/
def State.storeLost (s : State) (q step st : Nat) : State :=
  let s := s.headRec q fun r => { r with ended := r.ended.map fun e => if e.1 = step ∧ e.2.1 = 0 then (e.1, st, none) else e }
  let bad := fun (x : RimSt) => if x.krun && x.kq == some q && x.kstep == step && x.kfail == 0 then { x with kfail := st } else x
  { s with rims := s.rims.map fun e => (e.1, bad e.2) }
/-- What units have at a rim that is lost, or forced off, ends with a status: accesses that wait for a grant, lines in a kernel's
write buffers, and a write half, each with the step that made it (R261). -/
def State.loseClaims (s : State) (layer i st : Nat) : State :=
  let p := physOf s layer i
  let s := match (rimOf s layer p).half with
    | some h => match h.src with
      | .inplace u => (s.rim layer p fun r => { r with half := none }).failStep (u % 4) (u / 4) st
      | _ => s
    | none => s
  let s := s.each (claimsAt s layer i) fun s c => match c.src with
    | .kstore q step => (s.dropClaim c.seq).storeLost q step st
    | _ => s.setClaim c.seq fun c => { c with loc := .merge, status := st }
  s.each [0, 1, 2, 3] fun s q => s.stepsLand q
/-- A logical rim is lost, or forced off, with the step that its ALU runs (R261). -/
def State.loseStep (s : State) (layer i st : Nat) : State :=
  let p := physOf s layer i
  let r := rimOf s layer p
  let s := s.loseClaims layer i st
  match r.kq with
  | none => s
  | some q =>
    let s := s.cond r.krun fun s => s.stepEnd q r.kstep st none
    s.rim layer p fun r => { r with krun := false, kq := none, aluX := 0, aluXs := 0, aluY := 0, aluYs := 0 }
/-- The steps queued at a rim that is forced off end with DISABLED (R261, R477). -/
def State.dropSteps (s : State) (layer i : Nat) : State :=
  (s.loseStep layer i stDISABLED).each [0, 1, 2, 3] fun s q => match raHead s q with
    | none => s
    | some r => s.each (r.fly.filter fun t => (walkLine s r.opD (2 ^ r.opD.mul * t)).key == 16 * layer + i) fun s t =>
        s.stepEnd q t stDISABLED none

/-- The device has become PARKED: running records stop with PARKED, and no rim ALU holds a step (R261). -/
def State.parkRecords (s : State) : State :=
  let stopRec := fun (r : RaRec) => if r.started && !r.quiet then
      { r with stop := true, fly := [], ended := [], red := [], status := if r.fail.isSome then r.status else 8 } else r
  let s := s.each [0, 1, 2, 3] fun s q => s.setRaq q fun y => { y with recs := y.recs.map stopRec }
  let idle := fun (r : RimSt) => { r with krun := false, kq := none }
  let s := s.hubf fun h => { h with claims := [] }
  { s with rims := s.rims.map fun e => (e.1, idle e.2) }
/-- A record that has started uses a handle and was accepted before an acceptance number (R241). -/
def recordUses (s : State) (h before : Nat) : Bool :=
  s.raq.any fun e => e.2.recs.any fun r => r.started && decide (r.acc < before) &&
    (r.operands s).any fun o => o.1.handle == h

end Sys2Proof.Machine
end

