-- ==== Sys2Proof/Machine/Hub.lean ====
section
/-! DEFINITION. The Hub commands (spec/06_hub.md): the split stage, the arbiters of a sector and of a rim, the merge of an
access and its way back, and the faults and changes of the two planes. -/
namespace Sys2Proof.Machine

/-! ### Splitting (R174 to R176) -/

/-- A scale-row read (R125). -/
def fetchAccess (s : State) (x : Nat) (f : Fetch) : Access :=
  { seq := 0, src := .lensFetch x f.id, op := .read, line := true, layer := f.layer, frame := f.pframe,
    segs := cutLine false f.row 0, tid := f.tid, step := tidStep s f.tid, obs := x, wide := f.wide, stream := none,
    born := s.pcNow, bornD := s.pcDev, policy := f.policy, loc := .pool, status := stOK, pmask := 0, pk := 0, source := x,
    mcast := 0 }

/-- Engine-side bytes of one line, or of the segment operation, of a read. -/
def readBytes (t : Txn) : Nat :=
  engineBytes t.conv t.fmt t.req.lens (if t.req.seg then segBytes t.req else 512)
/-- Bytes of a port's return buffer in use or reserved (R163): released lines not yet answered, and lanes not yet taken. -/
def returnUsed (s : State) (x : Nat) : Nat :=
  let p := portOf s x
  let released := fun (t : Txn) => match p.split with
    | some sp => if sp.tag = t.req.tag then (t.toGo.filter fun k => decide (k < sp.next)).length else t.toGo.length
    | none => t.toGo.length
  let waiting := (p.txns.filter fun t => t.req.op == 0 && t.atHub && !p.await.contains t.req.tag &&
    !s.sync.parks.any fun k => k.x == x && k.tag == t.req.tag).foldl (fun a t => a + released t * readBytes t) 0
  waiting + ((p.ready.filter fun l => !l.mc && l.data.isSome).length) * laneSize x
/-- Bytes of the return buffer (R163). -/
def returnSize (x : Nat) : Nat := if x < 8 then 32768 else 4096

/-- A line of a port that cannot be sent because of its rim completes at once (R153). The scale entry of an MX lens write is then not
written, while one whose own rim refuses it leaves its line written (DESIGN CHOICE, log entry 54); the line alone answers. -/
def State.refuseLine (s : State) (x : Nat) (t : Txn) (k st : Nat) (a : Access) : State :=
  let s := s.cond (t.scaleGo.contains k) fun s => (s.settleLine x t.req.tag (64 + k) st).txn x t.req.tag fun t =>
    { t with scaleGo := t.scaleGo.filter (· != k), late := t.late ++ [(k, stOK, 0)] }
  s.enterRefused a st

/-- The split stage goes on after line k of its request. -/
def State.splitNext (s : State) (x : Nat) (t : Txn) (k : Nat) : State :=
  s.port x fun p => { p with
    split := if k + 1 < reqLines t.req then some ⟨t.req.tag, k + 1, false⟩ else none }

/-- The request that a port's split stage takes next: the oldest one that waits behind no parked request, unless a miss of the port
has no room (R368). -/
def nextSplit (s : State) (x : Nat) : Option Txn :=
  if missHeld s x then none
  else (portOf s x).await.findSome? fun tag => match txnOf s x tag with
    | some t => if mustWait s x t then none else some t
    | none => none

/-- A request of a port in loopback at the Hub (R169): performed on the port's loop store there, with the lens on reads. An EXT request
names no rim, so it is performed there at depth 3 too (DESIGN CHOICE, log entry 22). -/
def State.loopHub (s : State) (x : Nat) (t : Txn) : State :=
  let s := s.noCopies x t.req.tag
  if t.req.op = 0 ∧ t.conv then
    let n := if t.req.seg then segBytes t.req else 512
    let d := descOf s t.req.handle
    s.each (List.range (reqLines t.req)) fun s k =>
      let v := loopRead (portOf s x).loopHubMem (t.req.addr + 512 * k) n
      let (hf, segs, b) := if t.req.seg then
          let (hf, _, _, b) := segAt t.req d
          (hf, cutSegs b n v, b % 32)
        else let l := lineAt t.req d k; (l.hframe, cutLine l.col l.num v, 0)
      s.port x fun p => { p with back := p.back ++ [⟨x, t.req.tag, k, hf, segs, b, n, stOK, 0, s.pcNow, s.pcDev⟩] }
  else s.loopServe x t.req.tag true

/-- The split stage of port x releases one access (R174): a scale-row read first, then the lines of its request in order, each
with the scale entry of an MX lens write behind it. -/
def execSplitRelease (x : Nat) (s : State) : Res :=
  let s := s.cacheRun
  match (portOf s x).fetches.find? fun f => !f.sent with
  | some f =>
    let a := fetchAccess s x f
    let i := a.rim
    let mark := fun (s : State) => s.port x fun p => { p with
      fetches := p.fetches.map fun g => if g.id = f.id then { g with sent := true } else g }
    match rimRefusal s f.layer i f.policy with
    | some st => .next ((mark s).enterRefused a st)
    | none =>
      if !poolRoom s a then .next s
      else .next (((mark s).enterPool a).bump (portBase x) PORT_LINE_CNT_COUNT)
  | none =>
    let s := match (portOf s x).split with
      | some _ => s
      | none => match nextSplit s x with
        | none => s
        | some t =>
          if t.req.form = 3 ∧ loopDepth s x = 0 then
            let (took, s) := if t.req.op = 0 ∧ returnSize x < returnUsed s x + readBytes t then (false, s)
              else s.extTake x t.req.tag
            s.cond took fun s => s.port x fun p => { p with await := p.await.filter (· != t.req.tag) }
          else
            let s := s.port x fun p => { p with await := p.await.filter (· != t.req.tag) }
            s.port x fun p => { p with split := some ⟨t.req.tag, 0, false⟩ }
    match (portOf s x).split with
    | none => .next s
    | some sp =>
      match txnOf s x sp.tag with
      | none => .next (s.port x fun p => { p with split := none })
      | some t =>
        let k := sp.next
        if loopDepth s x = 2 ∨ t.req.form = 3 then
          if shareFull s t.req.tid then .next s else .next ((s.port x fun p => { p with split := none }).loopHub x t)
        else if sp.scaleNext then
          let a := scaleAccess s x t k (((t.scales.find? fun e => e.1 == k).map (·.2)).getD 0)
          match rimRefusal s a.layer a.rim a.policy with
          | some st => .next ((s.enterRefused a st).splitNext x t k)
          | none =>
            if !poolRoom s a then .next s
            else .next (((s.enterPool a).bump (portBase x) PORT_LINE_CNT_COUNT).splitNext x t k)
        else
          let a := lineAccess s x t k
          match rimRefusal s a.layer a.rim a.policy with
          | some st => .next ((s.refuseLine x t k st a).splitNext x t k)
          | none =>
            if (t.req.op == 0 && decide (returnSize x < returnUsed s x + readBytes t)) || !poolRoom s a then .next s
            else
              let s := (s.enterPool a).bump (portBase x) PORT_LINE_CNT_COUNT
              if t.scaleGo.contains k then .next (s.port x fun p => { p with split := some { sp with scaleNext := true } })
              else .next (s.splitNext x t k)

/-! ### The Spokes (R173, R183) -/

/-- Slots of a sector each way in one pc (R173). -/
def spokeSlots (s : State) : Nat := if s.get pgHUB HUB_PLANE_STAT_MODE = 0 then 2 else 1
/-- The Spoke of a sector can carry accesses: its periphery works and is on, and no lane is being substituted. -/
def spokeUp (s : State) (sector : Nat) : Bool :=
  let n := 136 + sector
  bit (s.rd (pgPOWER + POWER_DOM_ON + 4 * (n / 32))).toNat (n % 32) && !s.spokeHeld.contains sector

/-- One decision of a sector's upward arbiter: pool entries go up, in serving order, while slots and rim-queue entries last. An
entry whose rim has left service, or sleeps under a policy that does not wake it, completes instead; one that waits for its
rim has it woken (R72). A FILL line crosses nothing and is charged for nothing here (R30; that its Hub transfer is left out too is DESIGN
CHOICE, log entry 68). -/
def execUpwardArbitration (layer sector : Nat) (s : State) : Res :=
  let sec := 4 * layer + sector
  let arb := arbUp sec
  if 4 ≤ sector then .next s
  else
    let s := s.each (poolOf s sec) fun s a =>
      match rimRefusal s a.layer a.rim a.policy with
      | some st => s.failAccess a st
      | none =>
        let p := physOf s a.layer a.rim
        s.cond (decide (1 < rimPower s a.layer p)) fun s => s.askWake a.layer p
    if s.hub.paused || !spokeUp s sec then .next s
    else
      let pick := fun (s : State) (l : List Access) =>
        (served s arb (l.filter fun a => !heldBack s a && !stopped s arb a && !rimWaits s a.layer a.rim)).foldl
          (fun (acc : List Access) a =>
            if acc.length < spokeSlots s ∧ roomIn s (arbRim a.layer a.rim) 48 32
                (rimPlaces s a.layer a.rim ++ acc.filter fun b => b.rim == a.rim) a
            then acc ++ [a] else acc) []
      let pool := poolOf s sec
      let won := pick s pool
      let s := s.countDispl arb (pick s) pool won
      .next (s.each won fun s a =>
        let s := s.upd { a with loc := .rim, sent := true }
        s.cond (!a.isRead && !a.fill) fun s => (s.energy 3 a.layer a.tid a.owner).energy 4 1 a.tid a.owner)

/-- One pc of a rim (R180, R611). -/
def execRimArbitration (layer rim : Nat) (s : State) : Res :=
  if s.cfg.dies ≤ layer ∨ 16 ≤ rim then .next s
  else .next ((rimArb s layer rim).each [0, 1, 2, 3] fun s q => s.stepsLand q)

/-- One decision of a sector's downward arbiter: lines of the output stages go down, in serving order. -/
def execDownwardArbitration (layer sector : Nat) (s : State) : Res :=
  let sec := 4 * layer + sector
  let arb := arbDown sec
  if 4 ≤ sector ∨ !spokeUp s sec then .next s
  else
    let out := (inLoc s .out).filter fun a => a.sector == sec && !stopped s arb a
    let pick := fun (l : List Access) => (served s arb l).take (spokeSlots s)
    let won := pick out
    let s' := s.countDispl arb pick out won
    .next (s'.each won fun s a =>
      ((s.upd { a with loc := .merge, sent := true }).energy 3 a.layer a.tid a.owner).energy 4 1 a.tid a.owner)

/-! ### The way back (R122, R125, R151, R172, R184, R214) -/

/-- One of the two writes of a line of an MX lens write has landed: the line is answered once both have (R122). -/
def State.mxHalf (s : State) (x tag k st pm : Nat) : State :=
  match txnOf s x tag with
  | none => s
  | some t => match t.late.find? fun e => e.1 == k with
    | some (_, st', pm') => s.answerLine x tag k (worst st st') (pm ||| pm') none
    | none => s.txn x tag fun t => { t with late := t.late ++ [(k, st, pm)] }
/-- A lens write whose response returns replaces the scale entry that it has stored in the port's own buffered row (R127). -/
def State.freshScale (s : State) (x : Nat) (t : Txn) (k : Nat) : State :=
  match (t.scales.find? fun e => e.1 == k), descOf s t.req.handle with
  | some (_, entry), some d =>
    let (j, row) := handleLine t.req d.trow k
    s.port x fun p => { p with scale := p.scale.map fun e =>
      if e.handle = t.req.handle ∧ e.gen = t.req.gen ∧ e.frame = j then { e with row := e.row.set row entry } else e }
  | _, _ => s

/-- A line of a port's request comes back: a write is answered; a read goes to the lens, or straight to its lanes, and its
copies to the receivers of a multicast. A line that its rim refused before it was sent has no data, and gives the receivers no copy, so
that their MCD bits read 0 (DESIGN CHOICE, log entry 53). A converting read completes, and its latency is binned, as its bytes leave the
lens (R214). -/
def State.lineBack (s : State) (x tag k : Nat) (a : Access) : State :=
  match txnOf s x tag with
  | none => s
  | some t =>
    let r := t.req
    let s := s.cond (!(r.op == 0 && t.conv)) fun s => s.latency a.tid (s.pcDev - a.bornD)
    if r.op = 0 then
      let d := descOf s r.handle
      let (hf, b, n) := if r.seg then let (hf, _, _, b) := segAt r d; (hf, b % 32, segBytes r) else ((lineAt r d k).hframe, 0, 512)
      let (v, s) := match a.op with | .loop .. => s.draw | _ => (0, s)
      let segs := match a.op with
        | .loop .. => a.segs.map fun y => { y with data := BitVec.ofNat 256 v }
        | _ => a.segs
      let line : BackLine := ⟨x, tag, k, hf, segs, b, n, a.status, a.pmask, s.pcNow, a.bornD⟩
      let s := if a.sent then s.copyLine line t.recv else s.noCopies x tag
      let s := s.txn x tag fun t => { t with copied := t.copied ++ [k] }
      if t.conv then s.port x fun p => { p with back := p.back ++ [line] }
      else match convertBack s line with
        | some (_, _, data, _, _) => s.answerLine x tag k a.status a.pmask data
        | none => s
    else
      if r.op = 5 then
        let w := atomicBytes r
        let old := (a.segs.headD ⟨0, 0, 0, 0⟩).data.toNat
        let ok := a.status == stOK || a.status == stPOISON
        s.answerLine x tag k a.status a.pmask (if ok then some (w, if a.status = stOK then old else 0) else none)
      else if t.scales.any fun e => e.1 == k then
        if t.scaleGo.contains k then s.txn x tag fun t => { t with late := t.late ++ [(k, a.status, a.pmask)] }
        else (s.mxHalf x tag k a.status a.pmask).cond (t.scaleOk.contains k) fun s => s.freshScale x t k
      else s.answerLine x tag k a.status a.pmask none

/-- An earlier request of the port has not been answered for a segment of an access, of a line or of the scale entry of an MX write: the
access comes back after it (R156). -/
def answersAfter (s : State) (a : Access) : Bool :=
  match a.src with
  | .portLine x tag _ | .portScale x tag _ | .test x tag _ => match txnOf s x tag with
    | none => false
    | some t => (portOf s x).txns.any fun u => decide (u.acc < t.acc) && u.atHub && u.req.form != 3 &&
        !(s.sync.parks.any fun k => k.x == x && k.tag == u.req.tag) &&
        u.toGo.any fun k => common (lineAccess s x u k) a || (u.scales.any fun e => e.1 == k) && common (scaleAccess s x u k 0) a
  | _ => false
/-- The halves of an access are joined at the Hub and its outcome goes where it came from (R172, R173). Accesses of one
observer to a common segment come back in their order (R156). -/
def execPlaneMerge (seq : Nat) (s : State) : Res :=
  match s.hub.flight.find? fun a => a.seq == seq && a.loc == .merge with
  | none => .next s
  | some a =>
    let waits : Bool := match a.src with | .copyLine q t => crossWaits s q t a | _ => false
    if (s.hub.flight.any fun b => b.obs == a.obs && decide (b.seq < a.seq) && common a b) ∨ answersAfter s a ∨ waits then .next s
    else
      let s := s.leave a
      let lat := s.pcDev - a.bornD
      let took := min (s.pcDev - a.reachD) 0xFFFF
      let s := s.cond (a.line && a.grantLv == some 1 && decide (s.get pgHUB HUB_URG_LAT_MAX_MAX < took)) fun s =>
        s.put pgHUB HUB_URG_LAT_MAX_MAX took
      match a.src with
      | .portLine x tag k | .test x tag k => .next (s.lineBack x tag k a)
      | .portScale x tag k =>
        let t := txnOf s x tag
        let stored := a.status == stOK && a.op == .write
        let s := s.txn x tag fun t => { t with
          scaleGo := t.scaleGo.filter (· != k), scaleOk := if stored then t.scaleOk ++ [k] else t.scaleOk }
        let both := t.any fun t => t.late.any fun e => e.1 == k
        let s := (s.latency a.tid lat).mxHalf x tag k a.status 0
        match t with
        | some t => .next (s.cond (both && stored) fun s => s.freshScale x t k)
        | none => .next s
      | .lensFetch x id =>
        .next ((s.latency a.tid lat).installFetch x id a.status (a.segs.map (·.data)))
      | .cache job => .next ((s.latency a.tid lat).lineAccBack job a).cacheRun
      | .copyLine q t => .next (((s.latency a.tid lat).crossBack q t a).runChunk q)
      | _ => .next ((s.latency a.tid lat).hubf fun h => { h with answers := h.answers ++ [a.answer] })

/-! ### Planes (R189 to R193, R612) -/

/-- State of a plane: 0 ACTIVE, 1 DRAINING, 2 OFFLINE, 3 FAILED, 4 REJOINING. Plane 0 is A. -/
def planeState (s : State) (p : Nat) : Nat :=
  s.get pgHUB (if p = 0 then HUB_PLANE_STAT_A_STATE else HUB_PLANE_STAT_B_STATE)
def State.setPlane (s : State) (p v : Nat) : State :=
  s.put pgHUB (if p = 0 then HUB_PLANE_STAT_A_STATE else HUB_PLANE_STAT_B_STATE) v

/-- An access has a half, or a command, on plane p (R172, R190). -/
def onPlane (s : State) (p : Nat) (a : Access) : Bool :=
  a.sent &&
    match s.get pgHUB HUB_PLANE_STAT_MODE with
    | 0 => a.line || a.banks.any fun b => b % 2 == p
    | m => m == p + 1

/-- A hard fault recorded on the INTEG page (R466, R470). -/
def State.recordFault (s : State) (kind cause layer unit : Nat) : State :=
  let s := s.wr (pgINTEG + INTEG_FAULT_LAST) (BitVec.ofNat 32 (kind * 2 ^ 28 + cause * 2 ^ 24 + layer * 2 ^ 8 + unit))
  let s := s.put64 (pgINTEG + INTEG_FAULT_TIME_LO) (pgINTEG + INTEG_FAULT_TIME_HI) s.now
  (s.bumpSat pgINTEG (.word INTEG_FAULT_CNT)).irq pgINTEG 0

/-- A pending fill counts a granted write as landed: one of its own request, or of an earlier one of its port (R325). For a D engine, one
that was issued before the fill. -/
def fillCounts (s : State) (a : Access) : Bool :=
  match a.src with
  | .portLine x tag _ | .portScale x tag _ => match txnOf s x tag with
    | some t => s.sync.changes.any fun c => c.fill && c.x == x && decide (t.acc ≤ c.acc)
    | none => false
  | .mover c _ => s.chans.any fun e => e.1 / 2 == c / 2 && e.2.jobs.any fun j => j.mark.any fun m => decide (a.seq < m)
  | _ => false
/-- A stored word put back as it was before a lost write, unless something has been stored or cleared there since. -/
def State.takeBack (s : State) (u : Undo) : State :=
  if wordAt s u.idx = u.new ∧ s.array.validA.contains u.idx ∧ s.array.validB.contains u.idx then
    (s.setWord u.idx u.old).arr fun a => { a with
      validA := NSet.put a.validA u.idx u.wasA, validB := NSet.put a.validB u.idx u.wasB }
  else s
/-- A lost write that its rim had granted may have landed (R152, R190, R349): each segment that it wrote keeps the new value or takes
its old one back, as a free value decides. What an access has read or overwritten stays, and so does what a fill or a release counts as landed
(R325, R348; that a write which a fill still waits to count has landed is DESIGN CHOICE, log entry 69). -/
def State.unknownWrite (s : State) (a : Access) : State :=
  if a.seen || fillCounts s a then s
  else
    let (v, s) := s.draw
    s.each a.undo fun s u => s.cond (bit v u.seg) fun s => s.takeBack u
/-- The write half of a lost read-modify-write that has not run may run or not, as a free value decides (R190): with it the access settles
as it stands, without it with FAULT (R327). -/
def State.loseHalf (s : State) (a : Access) : State :=
  let p := physOf s a.layer a.rim
  let (v, s) := s.draw
  if bit v 0 then s.settle a.layer a.rim
  else (s.rim a.layer p fun r => { r with half := if (r.half.map (·.seq)) = some a.seq then none else r.half }).settleAcc a stFAULT
/-- An access lost with a plane, or by a parking device: FAULT, its storage unknown once its rim had granted it (R190). -/
def State.loseAccess (s : State) (a : Access) : State :=
  let granted := a.grantLv.isSome
  let s := if a.loc = .half then s.loseHalf a
    else (s.cond (granted && a.status != stFAULT) fun s => s.unknownWrite a).settleAcc a
      (if granted || a.loc == .out then a.status else stFAULT)
  (s.upd { a with
    loc := .merge, status := stFAULT, pmask := 0, segs := a.segs.map (fun x => { x with data := 0 }), undo := [],
    sent := false }).occDown a.tid

/-- A request at the Hub of a device that parks (R192, R327): each of its lines that has not been answered completes with FAULT, but a
parked slot-semantics request with PARKED. -/
def State.parkTxn (s : State) (x : Nat) (t : Txn) : State :=
  let tag := t.req.tag
  if s.sync.parks.any fun k => k.x == x && k.tag == tag then s.answerReq x tag stPARKED
  else
    let s := s.each t.toGo fun s k => (s.settleLine x tag k stFAULT).answerLine x tag k stFAULT 0 none
    let s := s.each t.scaleGo fun s k => s.settleLine x tag (64 + k) stFAULT
    s.txn x tag fun t => { t with scaleGo := [], late := [], short := t.recv }
/-- The device becomes PARKED (R167, R192): every request at the Hub completes with FAULT, those still in their adapters with
PARKED, and every port reads PARKED. -/
def State.park (s : State) : State :=
  let s := s.put pgHUB HUB_PLANE_STAT_MODE 3
  let s := s.each s.hub.flight fun s a =>
    (s.cond (a.loc != .merge || a.status != stFAULT) fun s => s.loseAccess a).latency a.tid (s.pcDev - a.bornD)
  let s := s.hubf fun h => { h with
    flight := [], change := none, paused := false,
    answers := h.answers ++ (h.flight.filter Access.unitSrc).map Access.answer }
  let s := s.each (List.range 56) fun s x =>
    let p := portOf s x
    let s := s.each p.queue fun s tag => s.answerReq x tag stPARKED
    s.each (p.txns.filter fun t => t.atHub && t.toGo != []) fun s t => s.parkTxn x t
  let s := s.each (List.range 56) fun s x =>
    s.port x fun p => { p with split := none, await := [], back := [], hold := [], fetches := [] }
  let s := { s with shareHeld := [] }
  let s := ((s.syn fun y => { y with parks := [] }).parkRecords).parkCache
  s.each (List.range 72) fun s x =>
    (s.sqStop x 5).cond (portState s x != 0) fun s => s.put (portBase x) PORT_PSTAT_STATE 5

/-- Plane p is in hard fault (R189, R192, R612). PLANE_CTL keeps its bits through it (DESIGN CHOICE, log entry 48). -/
def State.planeDown (s : State) (p cause : Nat) : State :=
  let q := 1 - p
  let st := planeState s p
  if 1 < p ∨ st = 3 ∨ parked s then s
  else
    let s := (s.recordFault 4 cause 0 p).setPlane p 3
    let last := fun (s : State) => s.wr (pgHUB + HUB_FO_LAST) (BitVec.ofNat 32 (p * 2 ^ 31 + 2 ^ 28))
    if st = 2 then last s
    else if 1 < planeState s q then (last s).park
    else
      let lost := s.hub.flight.filter (onPlane s p)
      let s := ((last s).setPlane q 0).bumpSat pgHUB HUB_PLANE_STAT_FO_CNT
      let s := s.hubf fun h => { h with paused := true, change := none, changeAt := s.now }
      let s := s.bumpSat pgHUB HUB_FO_LOST_COUNT lost.length
      s.each lost fun s a => s.loseAccess a
/-- Mismatches of the CRC of halves on plane p (R466): each is counted, and more than 16 within 1 ms are a hard fault of the plane. -/
def State.mismatch (s : State) (p n : Nat) : State :=
  let l := (Sp.get [] s.integ.mism p).filter (fun t => decide (s.now < t + 100000)) ++ List.replicate n s.now
  let s := { s with integ := { s.integ with mism := Sp.set s.integ.mism p l } }
  (s.bumpSat pgINTEG (.word INTEG_XPORT_CNT) n).cond (decide (16 < l.length)) fun s => s.planeDown p 4
/-- A hard fault of plane p is detected, with a cause of R466, and with the CRC mismatches that have led to it. -/
def execPlaneFault (p cause mismatches : Nat) (s : State) : Res :=
  if 1 < p then .next s else .next ((s.mismatch p (min mismatches 17)).planeDown p cause)

/-- After rerouting onto the surviving plane, sending resumes (R189). -/
def execFailoverResume (s : State) : Res :=
  let failed := if planeState s 0 = 3 then some 0 else if planeState s 1 = 3 then some 1 else none
  match failed with
  | some p =>
    if !s.hub.paused || s.hub.change.isSome || parked s then .next s
    else
      let s := s.put pgHUB HUB_PLANE_STAT_MODE (if p = 0 then 2 else 1)
      let s := s.put pgHUB HUB_FO_LAST_DUR (s.now - s.hub.changeAt)
      .next ((s.hubf fun h => { h with paused := false }).irq pgHUB 0)
  | none => .next s

/-- A PLANE_CTL write refused (R191). -/
def State.planeRefused (s : State) (m : Master) : State :=
  ((s.put pgHUB HUB_PLANE_STAT_REFUSED 1).irq pgHUB 2).refused m pgHUB HUB_PLANE_CTL
/-- A change of R191 begins. -/
def State.planeChange (s : State) (p : Nat) (out : Bool) : State :=
  let s := s.put pgHUB (if p = 0 then HUB_PLANE_CTL_OFF_A else HUB_PLANE_CTL_OFF_B) (b2n out)
  let s := s.setPlane p (if out then 1 else 4)
  s.hubf fun h => { h with paused := true, change := some (p, out), changeAt := s.now }

/-- PLANE_CTL bit of plane p written to 1. -/
def execPlaneTakeOut (m : Master) (p : Nat) (s : State) : Res :=
  .next (s.gate m pgHUB HUB_PLANE_CTL true fun s =>
    if 1 < p ∨ planeState s p = 3 ∨ (planeState s p = 2 ∧ s.hub.change.isNone) then s
    else if s.hub.change.isSome || s.hub.paused || planeState s (1 - p) != 0 then s.planeRefused m
    else s.planeChange p true)
/-- PLANE_CTL bit of plane p written to 0. -/
def execPlaneReturn (m : Master) (p : Nat) (s : State) : Res :=
  .next (s.gate m pgHUB HUB_PLANE_CTL true fun s =>
    if 1 < p ∨ planeState s p = 3 ∨ (planeState s p = 0 ∧ s.hub.change.isNone) then s
    else if s.hub.change.isSome || s.hub.paused then s.planeRefused m
    else s.planeChange p false)
/-- A plane change completes: every access on the planes has completed, the halves are rerouted, and sending resumes. -/
def execPlaneChangeDone (s : State) : Res :=
  match s.hub.change with
  | none => .next s
  | some (p, out) =>
    if s.hub.flight.any fun a => a.sent then .next s
    else
      let s := s.setPlane p (if out then 2 else 0)
      let s := s.put pgHUB HUB_PLANE_STAT_MODE (if out then (if p = 0 then 2 else 1) else 0)
      let s := s.wr (pgHUB + HUB_FO_LAST)
        (BitVec.ofNat 32 (p * 2 ^ 31 + (if out then 2 else 3) * 2 ^ 28 + min (s.now - s.hub.changeAt) 0xFFFF))
      .next ((s.hubf fun h => { h with paused := false, change := none }).irq pgHUB 1)

end Sys2Proof.Machine
end

