-- ==== Sys2Proof/Machine/PowerOps.lean ====
section
/-! DEFINITION. The rim states (spec/16_power_and_energy.md R475 to R480) and the power domains (R473, R474). -/
namespace Sys2Proof.Machine

/-- A domain is on. -/
def domOn (s : State) (n : Nat) : Bool := bit (s.rd (pgPOWER + POWER_DOM_ON + 4 * (n / 32))).toNat (n % 32)
/-- A power domain shown on or off (R473). -/
def State.setDom (s : State) (n : Nat) (on : Bool) : State :=
  s.put pgPOWER ⟨POWER_DOM_ON + 4 * (n / 32), n % 32, n % 32⟩ (b2n on)
/-- A rim's power state set (R498). -/
def State.setRimPower (s : State) (layer p st : Nat) : State := s.put (rimBase layer p) RIM_PWR_STAT_STATE st

/-- The rim is under a field test, which holds its TARGET (R566). -/
def underTest (s : State) (layer p : Nat) : Bool :=
  match s.test.ft with
  | some f => f.op == 1 && f.layer == layer && f.unit == p
  | none => false
/-- A transition of the rim is in progress (R475). -/
def inTransition (s : State) (layer p : Nat) : Bool := (rimOf s layer p).goal.isSome
/-- A rim leaves ON (R477). -/
def State.startDrain (s : State) (layer p goal : Nat) : State :=
  (s.setRimPower layer p 1).rim layer p fun r => { r with goal := some goal, startedAt := s.now, moving := false }
/-- A taken TARGET takes effect (R476, R477): 0 ON, 1 FREEWHEEL, 2 OFF. A TARGET that is not ON calls off a wake that has not started
(R475). -/
def State.applyTarget (s : State) (layer p t : Nat) : State :=
  let st := rimPower s layer p
  let s := s.cond (t != 0) fun s => { s with wakes := s.wakes.filter (· != 17 * layer + p) }
  match t with
  | 0 => s.cond (st == 2 || st == 3) fun s => s.askWake layer p
  | 1 => s.cond (st == 0) fun s => s.startDrain layer p 2
  | _ =>
    if st = 0 then s.startDrain layer p 3
    else s.cond (st == 2) fun s => s.rim layer p fun r => { r with goal := some 3, startedAt := s.now }
/-- The state that a TARGET names: 0 ON, 2 FREEWHEEL, 3 OFF. -/
def targetState (t : Nat) : Nat := if t = 0 then 0 else t + 1
/-- The TARGET held for a rim takes effect once its transition or test has ended; the last one written has won (R475).
One that R73 no longer permits by then is refused (DEDUCED, log entry 71). -/
def State.applyHeld (s : State) (layer p : Nat) : State :=
  match s.test.target.find? fun e => e.1 == 17 * layer + p with
  | none => s
  | some (k, t) =>
    if inTransition s layer p || underTest s layer p || rimPower s layer p == 5 then s
    else
      let s := { s with test := { s.test with target := Sp.del s.test.target k } }
      if rimPermits s layer p (targetState t) then s.applyTarget layer p t else s.put (rimBase layer p) RIM_PWR_STAT_REFUSED 1
/-- A drain ends before its transition has started, and the rim stays ON (R477). -/
def State.endDrain (s : State) (layer p : Nat) : State :=
  (s.setRimPower layer p 0).rim layer p fun r => { r with goal := none }
/-- A write of PWR_CTL.TARGET to a physical rim (R475 to R477). -/
def State.writeTarget (s : State) (m : Master) (layer p t : Nat) : State :=
  let b := rimBase layer p
  let st := rimPower s layer p
  if p = 16 ∨ st = 5 then s
  else if t = 3 ∨ !rimPermits s layer p (targetState t) ∨ (t = 1 ∧ st = 3) then
    (s.put b RIM_PWR_STAT_REFUSED 1).refused m b RIM_PWR_CTL
  else
    let s := s.put b RIM_PWR_CTL_TARGET t
    if st = 1 ∧ t = 0 ∧ !(rimOf s layer p).moving then
      let s := s.endDrain layer p
      { s with test := { s.test with target := Sp.del s.test.target (17 * layer + p) } }
    else if inTransition s layer p || underTest s layer p then
      { s with test := { s.test with target := Sp.set s.test.target (17 * layer + p) t } }
    else s.applyTarget layer p t

/-- A rim in a state that is no longer permitted, or on its way to one, is woken at once (R73, R480): a drain ends, and a transition
that runs is followed by a wake. -/
def State.wakeRim (s : State) (layer i : Nat) : State :=
  let p := physOf s layer i
  let st := rimPower s layer p
  let r := rimOf s layer p
  if p = 31 ∨ st = 0 ∨ st = 4 ∨ st = 5 ∨ rimPermits s layer i (r.goal.getD st) then s
  else if st = 1 ∧ !r.moving then s.endDrain layer p
  else s.askWake layer p
/-- The rims of a handle in a state that is no longer permitted. -/
def State.wakeUnpermitted (s : State) (d : Desc) : State := s.each d.rims fun s x => s.wakeRim x.1 x.2
/-- A reading of a sector is current: bit 0 of `k` pace, bit 1 temperature. SEC.VALID says that both are (DESIGN CHOICE, log entry
55). -/
def State.reading (s : State) (q k : Nat) : State :=
  let v := Sp.get 0 s.energyAcc.current q ||| k
  (s.nrg fun e => { e with current := Sp.set e.current q v }).put pgPOWER (POWER_SEC_VALID.at 4 q) (b2n (v == 3))
/-- PACE_DEV.DEV: the slowest pace of the host-die periphery and of the sectors whose report holds (R27, R482), with the smallest and
the largest that PACE_MM has seen. -/
def State.paceDevice (s : State) : State :=
  let dev := (List.range 32).foldl (fun a q =>
    if s.flag pgPOWER (POWER_SEC_VALID.at 4 q) then max a (s.get pgPOWER (POWER_SEC_PACE.at 4 q)) else a)
    (s.get pgPOWER POWER_PACE_DEV_PERI)
  (s.put pgPOWER POWER_PACE_DEV_DEV dev).cond (dev != 0) fun s =>
    (s.put pgPOWER POWER_PACE_MM_MAX (max dev (s.get pgPOWER POWER_PACE_MM_MAX))).put pgPOWER POWER_PACE_MM_MIN
      (min dev (s.get pgPOWER POWER_PACE_MM_MIN))

end Sys2Proof.Machine
end

