-- ==== Sys2Proof/Machine/Cache.lean ====
section
/-! DEFINITION. Commands of the cache (spec/12_cache_mode.md R365 to R381): the arrival of a missed line, maintenance operations
and section switches. -/
namespace Sys2Proof.Machine

/-- The line of miss transaction `id` arrives from the master port, or an error in its place (R367, R368, R371). -/
def execCacheFillComplete (id : Nat) (err : Bool) (data : Nat) (s : State) : Res :=
  match s.mport.find? fun r => r.id == id with
  | none => .next s
  | some r =>
    match r.src with
    | .fill job =>
      let s : State := { s with mport := s.mport.filter fun q => q.id != id }
      match s.cache.jobs.find? fun j => j.id == job && j.stage == .fetch with
      | none => .next s
      | some j =>
        if err then .next (((s.bumpSat pgMOVER MOVER_MP_ERR_COUNT).tellLine j stFAULT 0 0).lineDone j.id).cacheRun
        else .next (s.lineArrives j (data % 2 ^ 1024)).cacheRun
    | _ => .next s

/-- Lines that a maintenance operation examines, of a range of `n` (R376). -/
def copLines (s : State) (all : Bool) (n : Nat) : Nat :=
  let whole := 65536 * (cacheSections s).length
  if all then whole else min n whole
/-- A write of COP_CMD (R375, R376). -/
def copWrite (m : Master) (w : Word32) (s : State) : State :=
  s.gate m pgCACHE CACHE_COP_CMD true fun s =>
    if s.flag pgCACHE CACHE_COP_STAT_BUSY then (s.put pgCACHE CACHE_COP_STAT_OVERRUN 1).refused m pgCACHE CACHE_COP_CMD
    else
      let op := CACHE_COP_CMD_OP.of w
      let s := s.wr (pgCACHE + CACHE_COP_CMD) (BitVec.ofNat 32 (bits w.toNat 31 27 * 2 ^ 27 + bits w.toNat 24 16 * 2 ^ 16))
      s.cond (op != 0) fun s =>
        let all := CACHE_COP_CMD_ALL.of w == 1
        let lo := if all then 0 else
          (s.get pgCACHE CACHE_COP_ADDR_LO_ADDR * 128 + s.get pgCACHE CACHE_COP_ADDR_HI_ADDR_HI * 2 ^ 32) / 128
        let n := if all then 2 ^ 41 else s.get pgCACHE CACHE_COP_LEN_LINES_M1 + 1
        let s := (s.put pgCACHE CACHE_COP_STAT_BUSY 1).put pgCACHE CACHE_COP_STAT_DONE (copLines s all n)
        let s := s.cach fun c => { c with cop := some (lo, n) }
        (s.each (linesIn s lo n) fun s l => s.copAsk l op).cacheRun

/-- A write of COP_CMD with OP forced to `op`. -/
def copStart (m : Master) (op : Nat) (w : Word32) (s : State) : Res := .next (copWrite m (CACHE_COP_CMD_OP.into w op) s)
/-- COP_CMD INV. -/
def execCopInv (m : Master) (w : Word32) (s : State) : Res := copStart m 1 w s
/-- COP_CMD CLEAN. -/
def execCopClean (m : Master) (w : Word32) (s : State) : Res := copStart m 2 w s
/-- COP_CMD CLEAN_INV. -/
def execCopCleanInv (m : Master) (w : Word32) (s : State) : Res := copStart m 3 w s

/-- A maintenance operation completes (R376). -/
def execCopDone (s : State) : Res :=
  let s := s.cacheRun
  match s.cache.cop with
  | none => .next s
  | some (lo, n) =>
    if copWaits s lo n then .next s
    else
      let s := (s.put pgCACHE CACHE_COP_STAT_BUSY 0).cach fun c => { c with cop := none }
      let g := s.get pgCACHE
      let s := s.cond (g CACHE_COP_CMD_CNT == 1 && decide (g CACHE_COP_CMD_COUNTER < 48)) fun s =>
        s.ctrOp (48 * g CACHE_COP_CMD_CORE + g CACHE_COP_CMD_COUNTER) 0 1
      .next (s.cond (g CACHE_COP_CMD_IRQ == 1) fun s => s.irq pgCACHE 0)

/-! ### Section switches (R378 to R380) -/

/-- The frames of section k. -/
def sectionSpan (k : Nat) : Span := { lin := false, lo := 1024 * k, hi := 1024 * k + 1023 }
/-- Two runs of frames share a frame. Under one placement their numbers overlap. Sixteen frames that begin at a multiple of 16 are the
same frames under either placement (R49): a group that lies inside both runs is shared, and one at an end of a run is looked at
frame by frame. -/
def Span.meets (a b : Span) : Bool :=
  let lo := max a.lo b.lo
  let hi := min a.hi b.hi
  if a.lin = b.lin then decide (lo ≤ hi)
  else
    let inside := decide ((lo + 15) / 16 < (hi + 1) / 16)
    inside || [a.lo, a.hi, b.lo, b.hi].any fun g => (List.range 16).any fun k =>
      let (layer, p) := ofGp (g / 16 * 16 + k)
      a.has layer p && b.has layer p
/-- A write of SEC_CMD: the target set, and the start of a switch with GO (R378). -/
def secWrite (m : Master) (w : Word32) (s : State) : State :=
  let go := CACHE_SEC_CMD_GO.of w == 1
  s.gate m pgCACHE CACHE_SEC_CMD false fun s =>
    let s := s.setFields m pgCACHE CACHE_SEC_CMD w
    let target := s.get pgCACHE CACHE_SEC_CMD_TARGET
    if !go then s
    else
      let enters := (List.range 8).filter fun k => bit target k && !bit (s.get pgCACHE CACHE_SEC_STAT_CUR) k
      let laid := s.handles.find? fun h => enters.any fun k => (sectionSpan k).meets h.2.span
      let refuse := fun (r : Nat) (s : State) => (s.put pgCACHE CACHE_SEC_STAT_RESULT r).refused m pgCACHE CACHE_SEC_CMD
      match laid with
      | some h => refuse 1 (s.put pgCACHE CACHE_SEC_STAT_OVL_WITH h.1)
      | none =>
        if s.flag pgCACHE CACHE_COP_STAT_BUSY then refuse 2 s
        else if s.cache.switch.isSome then refuse 3 s
        else if (List.range 16).any fun i => !rimUp s 0 i then refuse 4 s
        else
          let s := (s.put pgCACHE CACHE_SEC_STAT_BUSY 1).put pgCACHE CACHE_SEC_STAT_RESULT 0
          let s := s.cach fun c => { c with switch := some target }
          (s.each ((s.cache.lines.map fun e => lineOfSlot e.1 e.2)) fun s l => s.copAsk l 3).cacheRun
/-- SEC_CMD.GO with its target. -/
def execSectionSwitch (m : Master) (target : Nat) (s : State) : Res :=
  .next (secWrite m (BitVec.ofNat 32 (2 ^ 31 + target % 256)) s)

/-- Rims of layer 0 that may no longer sleep are woken (R73, R380, R480). -/
def State.wakeNear (s : State) : State :=
  s.each (List.range 16) fun s i => s.wakeRim 0 i
/-- The switch's steps after the last operation at the controller (R379). A line that is still held, as one whose write-back has
failed, is cleaned again. -/
def execSectionSwitchDone (s : State) : Res :=
  let s := s.cacheRun
  match s.cache.switch with
  | none => .next s
  | some target =>
    if s.cache.jobs != [] then .next s
    else if s.cache.lines != [] then .next (s.each (s.cache.lines.map fun e => lineOfSlot e.1 e.2) fun s l => s.copAsk l 3).cacheRun
    else
      let cur := s.get pgCACHE CACHE_SEC_STAT_CUR
      let moved := (List.range 8).filter fun k => bit target k != bit cur k
      let want := fun (layer f : Nat) => moved.any fun k => (sectionSpan k).has layer f
      let s := s.each (List.range 16) fun s i => s.settle 0 i
      let s := (s.clearFrames (frameHit s want)).energy 1 (1024 * moved.length) (s.get pgINTEG INTEG_IG_CTL_MAINT_TID)
      let s := s.arr fun a => { a with cls := moved.map (fun k => (sectionSpan k, false)) ++ a.cls }
      let s := (s.put pgCACHE CACHE_SEC_STAT_CUR target).put pgCACHE CACHE_SEC_STAT_BUSY 0
      let s := s.cach fun c => { c with switch := none, plru := [] }
      .next (s.cond (target != 0) State.wakeNear)

/-- A write of XBASE_LO, or of XBASE_HI where `hi` (R365). -/
def execXbaseWrite (m : Master) (hi : Bool) (v : Word32) (s : State) : Res :=
  let off := if hi then CACHE_XBASE_HI else CACHE_XBASE_LO
  .next (s.gate m pgCACHE off true fun s =>
    if s.get pgCACHE CACHE_SEC_STAT_CUR ≠ 0 then (s.put pgCACHE CACHE_SEC_STAT_XB_REJ 1).refused m pgCACHE off
    else if hi then s.put pgCACHE CACHE_XBASE_HI_BASE_HI (CACHE_XBASE_HI_BASE_HI.of v)
    else s.put pgCACHE CACHE_XBASE_LO_BASE (CACHE_XBASE_LO_BASE.of v))

end Sys2Proof.Machine
end

