-- ==== Sys2Proof/Machine/Link.lean ====
section
/-! DEFINITION. Commands of the link ports (spec/13_amiys_link.md R382 to R411): control blocks, codewords, port states, lanes,
enumeration and domain time. -/
namespace Sys2Proof.Machine

/-- Ticks of 1 µs, 100 µs and 1 ms (R9). -/
def usTicks : Nat := 100
def hundredUs : Nat := 10000
def msTicks : Nat := 100000

/-! ### Port states (R403) -/

/-- A link port enters a state (IRQ_STAT bit p, R413). -/
def State.lpSet (s : State) (p st : Nat) : State :=
  if lpState s p = st then s else (s.put pgLINK (LINK_P_STAT_STATE.at 256 p) st).irq pgLINK p
/-- Lanes of a direction, as their mask. -/
def State.setLanes (s : State) (p tx rx : Nat) : State :=
  (s.put pgLINK (LINK_P_STAT_TX_LANES.at 256 p) tx).put pgLINK (LINK_P_STAT_RX_LANES.at 256 p) rx
def laneCount (mask : Nat) : Nat := ((List.range 8).filter (bit mask)).length
/-- MIN_LANES in use. -/
def minLanes (s : State) (p : Nat) : Nat := min 8 (max 1 (s.get pgLINK (LINK_P_CTL_MIN_LANES.at 256 p)))
/-- A control field of a port. -/
def lpGet (s : State) (p : Nat) (f : Fld) : Nat := s.get pgLINK (f.at 256 p)

/-- The token in progress that a packet belongs to: that of its source, account and tag (R426). -/
def tokenOf (s : State) (pk : Packet) : Option Token :=
  s.win.tokens.find? fun t => t.src == pk.src && t.etag == pk.etag && !t.last && t.acct == bits pk.h2 31 26
/-- A packet that has lost its way at this device: one of its own is refused with a cause, a transit write, token or notify is
refused to its source, any other is discarded and counted at a port (R412). -/
def State.refusePk (s : State) (p cause : Nat) (inp : Nat) (pk : Packet) : State :=
  if inp = 4 ∧ pk.ptype ≤ 3 then (s.countNak cause (devAddr s) pk.dst pk.ptype).closeTag pk.etag (some cause)
  else if inp = 4 then s.bumpSat pgLINK (LINK_P_DISC_COUNT.at 256 p)
  else if pk.ptype ≤ 3 then s.nakTo cause pk
  else s.bumpSat pgLINK (LINK_P_DISC_COUNT.at 256 p)
/-- Packets that wait for a port that is no longer UP are refused (R399, R412). -/
def State.dropQueue (s : State) (p : Nat) : State :=
  let q := (lkPort s p).txq
  let s := s.lport p fun l => { l with txq := [] }
  s.each q fun s t => (s.cond (!t.freed) fun s => s.freeLane t.inp t.laneIn t.pk.flits).refusePk p 0x41 t.inp t.pk
/-- A receive buffer discarded (R403): the packets of port p that wait in it, those in transit that other ports have not sent, and the
parts of its writes that have not gone into the Hub. A token that has lost a packet so ends without a word: its slot is never FULL, and its
sender learns of it by TIMEOUT (R412). -/
def State.dropRx (s : State) (p : Nat) : State :=
  let s := s.each ((List.range 4).filter (· != p)) fun s q => s.lport q fun l => { l with
    txq := l.txq.filter fun t => t.freed || t.inp != p }
  let cut := (s.win.arr.filter fun a => a.inp == p && a.parts != []).filterMap (·.token)
  let held := ((lkPort s p).rxq.filter fun pk => pk.ptype == 2).filterMap fun pk => (tokenOf s pk).map (·.id)
  let s := s.wnu fun u => { u with
    arr := u.arr.map fun a => if a.inp = p ∧ a.parts ≠ [] then { a with parts := [], lost := true } else a
    tokens := u.tokens.filter fun t => !(cut ++ held).contains t.id }
  s.lport p fun l => { l with rxq := [], rxCtl := [], rxFlits := [], held := [], stale := [] }
/-- A port fails (R398, R403): lanes idle, its replay and receive buffers discarded; its own device's packets among them are
refused with PORT_FAILED (R412). -/
def State.lpFail (s : State) (p : Nat) : State :=
  let mine := (lkPort s p).replay.filter fun t => t.inp == 4
  let s := ((s.setLanes p 0 0).lpSet p 6).dropRx p
  let s := s.lport p fun l => { l with replay := [], waitL := false, dropMask := none, lossAt := none, lock := true }
  (s.each mine fun s t => s.refusePk p 0x45 4 t.pk).dropQueue p
/-- A port in DOWN with EN 1 starts (R383, R403, R411); in LOOPBACK it uses its eight lanes (R382). -/
def State.lpStart (s : State) (p : Nat) : State :=
  s.cond (lpState s p == 0 && lpGet s p LINK_P_CTL_EN == 1 && lpGet s p LINK_P_CTL_PMD != 3) fun s =>
    if lpGet s p LINK_P_CTL_LOOP = 0 then s.lpSet p 1 else (s.setLanes p 255 255).lpSet p 7
/-- A port becomes DOWN, and starts at once where EN is 1. -/
def State.lpDown (s : State) (p : Nat) : State :=
  let s := (s.setLanes p 0 0).lport p fun l => { l with replay := [], waitL := false, dropMask := none, lossAt := none, lock := true }
  ((s.dropQueue p).lpSet p 0).lpStart p
/-- A write of Pp_CTL (R403, R404, R413): its fields are the owner's, RETRAIN is not (R11, log entry 14). -/
def linkCtlWrite (m : Master) (p : Nat) (w : Word32) (s : State) : State :=
  let reg := LINK_P_CTL + 256 * p
  s.gate m pgLINK reg false fun s =>
    if s.cfg.links ≤ p then s
    else
      let was := lpGet s p LINK_P_CTL_EN
      let w := if lpState s p = 0 then w
        else LINK_P_CTL_PMD.into (LINK_P_CTL_LOOP.into w (lpGet s p LINK_P_CTL_LOOP)) (lpGet s p LINK_P_CTL_PMD)
      let s := s.setFields m pgLINK reg w
      let st := lpState s p
      if lpGet s p LINK_P_CTL_EN = 0 then
        if st = 6 ∨ st = 7 then s.lpDown p
        else s.cond (was == 1 && (1 ≤ st && st ≤ 4)) fun s =>
          (s.lport p fun l => { l with drainAt := s.now }).lpSet p 5
      else
        let s := s.lpStart p
        s.cond (LINK_P_CTL_RETRAIN.of w == 1 && (st == 4 || st == 6)) fun s => (s.setLanes p 0 0).lpSet p 1
/-- Pp_CTL written with EN 1. -/
def execLinkPortEnable (m : Master) (p : Nat) (w : Word32) (s : State) : Res :=
  .next (linkCtlWrite m (p % 4) (LINK_P_CTL_EN.into w 1) s)
/-- Pp_CTL written with EN 0. -/
def execLinkPortDisable (m : Master) (p : Nat) (w : Word32) (s : State) : Res :=
  .next (linkCtlWrite m (p % 4) (LINK_P_CTL_EN.into w 0) s)
/-- RETRAIN written, with the other fields of Pp_CTL as they stand (R404). -/
def execRetrain (m : Master) (p : Nat) (s : State) : Res :=
  .next (linkCtlWrite m (p % 4) (LINK_P_CTL_RETRAIN.into (s.rd (pgLINK + LINK_P_CTL + 256 * (p % 4))) 1) s)
/-- A draining port has its replay buffer acknowledged, or 100 µs have passed (R403). -/
def execLinkDrainDone (p : Nat) (s : State) : Res :=
  if p < 4 ∧ lpState s p = 5 ∧ ((lkPort s p).replay = [] ∨ (lkPort s p).drainAt + hundredUs ≤ s.now) then .next (s.lpDown p)
  else .next s
/-- Lane training has ended, with the lanes that have trained (R403). -/
def execLinkTrainDone (p tx rx : Nat) (s : State) : Res :=
  if p < 4 ∧ lpState s p = 1 then
    if minLanes s p ≤ laneCount (tx % 256) ∧ minLanes s p ≤ laneCount (rx % 256) then
      .next ((s.setLanes p (tx % 256) (rx % 256)).lpSet p 2)
    else .next (s.lpFail p)
  else .next s
/-- Codeword lock and deskew have ended: INIT, with LSEQ, ACK and credits reset, or FAILED (R395, R397, R403). Packets in the
replay buffer are sent again from the first (R397). -/
def execLinkAlignDone (p : Nat) (ok : Bool) (s : State) : Res :=
  if p < 4 ∧ lpState s p = 2 then
    if !ok then .next (s.lpFail p)
    else
      let s := s.lport p fun l => { l with
        txq := l.replay ++ l.txq, replay := [], nextL := 0, sentC := [], farC := [], expL := 0, freed := [], waitL := false,
        retries := 0, heard := s.now, dropMask := none, lossAt := none, lock := true, serMark := [], serHigh := [],
        rxCtl := [], rxFlits := [], stale := l.held, marksTo := 0, cbWait := [], linkDue := false }
      .next ((s.lpSet p 3).sendInit p)
  else .next s

/-! ### Control blocks (R388) -/

/-- The oldest control block received, where it is of one of some kinds, and the ones after it. -/
def cbFront (s : State) (p : Nat) (kinds : List Nat) : Option (Nat × List Nat) :=
  match (lkPort s p).rxCtl with
  | [] => none
  | b :: l => if hears s p && kinds.contains (cbType b) then some (b, l) else none
/-- A control block of some kinds is taken: one that fails its check is discarded, of another its payload is acted on. -/
def onBlock (p : Nat) (kinds : List Nat) (s : State) (act : State → Nat → State) : Res :=
  match cbFront s p kinds with
  | none => .next s
  | some (b, rest) =>
    let s := s.lport p fun l => { l with rxCtl := rest }
    if cbSound b then .next (act (s.lport p fun l => { l with heard := s.now }) (cbData b)) else .next s
/-- IDLE, and the reserved kinds, which are discarded. -/
def execCbIdle (p : Nat) (s : State) : Res := onBlock p [0, 6, 7, 8, 9, 10, 11, 12, 13, 14, 15] s fun s _ => s
/-- LINK: the last LSEQ received in order, and the eight totals of flits freed (R395, R397). -/
def execCbLink (p : Nat) (s : State) : Res :=
  onBlock p [1] s fun s data =>
    let ack := data % 4096
    let l := lkPort s p
    let n := match l.replay with
      | [] => 0
      | t :: _ => (ack + 4097 - t.pk.lseq) % 4096
    let s := s.lport p fun l => { l with
      farC := elems 12 8 (data / 4096), replay := if n ≤ l.replay.length then l.replay.drop n else l.replay }
    s.pumpAll p
/-- RETRY: the packets from the named LSEQ on are sent again (R398). -/
def execCbRetry (p : Nat) (s : State) : Res :=
  onBlock p [2] s fun s data =>
    let s := s.bumpSat pgLINK (LINK_P_REPLAY_COUNT.at 256 p)
    let again := (lkPort s p).replay.dropWhile fun t => t.pk.lseq != data % 4096
    s.cond (lpState s p != 3) fun s => (s.each again fun s t => s.flitsSent p t).pumpAll p
/-- A lane drop noted (R405, R413): how many, the direction, the lowest lane, the cause. -/
def State.noteDrop (s : State) (p n dir lane cause dur : Nat) : State :=
  let s := s.bumpSat pgLINK (LINK_P_LDROP_COUNT.at 256 p) n
  let s := (s.put pgLINK (LINK_P_LDROP_DIR.at 256 p) dir).put pgLINK (LINK_P_LDROP_LANE.at 256 p) lane
  let s := (s.put pgLINK (LINK_P_LDROP_CAUSE.at 256 p) cause).put pgLINK (LINK_P_LDROP_DUR.at 256 p) dur
  s.irq pgLINK (4 + p)
/-- LANE_DROP: the transmitter goes on with the lanes that the far receiver keeps, sends LANE_SWITCH on them, and for 10 µs sends markers
in every codeword, in place of blocks (R386, R405): packets and control blocks wait so long (DESIGN CHOICE, log entry 66). The spec gives neither the cause nor the
duration that the transmitting side shows: they are free values. -/
def execCbLaneDrop (p : Nat) (s : State) : Res :=
  onBlock p [3] s fun s data =>
    let mask := data % 256
    let cur := lpGet s p LINK_P_STAT_TX_LANES
    let gone := (List.range 8).filter fun j => bit cur j && !bit mask j
    match gone with
    | [] => s
    | j :: _ =>
      let keep := gone.foldl (fun m k => m - 2 ^ k) cur
      let (v, s) := s.draw
      let s := (s.noteDrop p gone.length 1 j (v % 4) (v / 4)).put pgLINK (LINK_P_STAT_TX_LANES.at 256 p) keep
      if laneCount keep < minLanes s p then s.lpFail p
      else ((s.sendCb p 4 keep).sendMarks p).lport p fun l => { l with marksTo := s.now + 10 * usTicks }
/-- LANE_SWITCH: the lanes used from the next codeword (R405). -/
def execCbLaneSwitch (p : Nat) (s : State) : Res :=
  onBlock p [4] s fun s data =>
    (s.put pgLINK (LINK_P_STAT_RX_LANES.at 256 p) (data % 256)).lport p fun l => { l with dropMask := none, lock := false }
/-- INIT: the far address and port (R403, R404). A port in INIT has sent its own before, which a far port still in ALIGN did not hear: it
answers with one more, and each side has then received the other's (DEDUCED, log entry 66). -/
def execCbInit (p : Nat) (s : State) : Res :=
  onBlock p [5] s fun s data =>
    let s := (s.put pgLINK (LINK_P_STAT_FAR_ADDR.at 256 p) (bits data 5 0)).put pgLINK (LINK_P_STAT_FAR_PORT.at 256 p) (bits data 8 7)
    let s := s.put pgLINK (LINK_P_STAT_FAR_V.at 256 p) (bits data 6 6)
    s.cond (lpState s p == 3) fun s => ((s.sendInit p).lpSet p 4).pumpAll p

/-! ### Retry (R387, R398) -/

/-- The receiver discards packets until the expected one arrives, and sends RETRY. -/
def State.askRetry (s : State) (p : Nat) : State :=
  if (lkPort s p).waitL then s
  else (s.lport p fun l => { l with waitL := true, retryAt := s.now, retries := 1 }).sendRetry p
/-- The corrected symbols of a lane counted. -/
def addLane (l : List Nat) (j n : Nat) : List Nat := (List.range 8).map fun k => l.getD k 0 + if k = j then n else 0
/-- The blocks of a codeword received, where the port takes any: flits and control blocks each in their order. A receiver that is not locked
on its lanes discards packets (R405). After an uncorrectable one
the flits of a packet that it has cut go too (R387). -/
def State.takeBlocks (s : State) (p : Nat) (bad : Bool) (blocks : List Nat) : State :=
  s.cond (hears s p) fun s => s.lport p fun l =>
    if bad then { l with rxFlits := wholeFlits l.rxFlits.length l.rxFlits }
    else { l with
      rxFlits := l.rxFlits ++ (if l.lock then (blocks.filter fun b => bit b 0).map (· / 2) else []), rxCtl := l.rxCtl ++ blocks.filter fun b => !bit b 0 }
/-- A LINK test runs on a port (R567). -/
def linkTested (s : State) (p : Nat) : Bool := s.test.ft.any fun f => f.op == 3 && f.unit == p
/-- The checker of a port in LOOPBACK: the flits that do not carry the pattern are counted in LB_ERR (R411, R567). -/
def State.checkFlits (s : State) (p : Nat) (blocks : List Nat) : State :=
  s.cond (linkTested s p) fun s =>
    s.bumpSat pgTEST TEST_LB_ERR_COUNT ((blocks.filter fun b => bit b 0 && !prbsGood (b / 2)).length)
/-- What the lanes carried to a receiver: in LOOPBACK at depth 1 or 2 the port's own codeword, turned back (R411). -/
def lanesIn (s : State) (p : Nat) (lanes : List Nat) : List Nat :=
  if lpState s p = 7 ∧ lpGet s p LINK_P_CTL_LOOP ≤ 2 then (lkPort s p).cwOut else lanes
/-- The lanes that a codeword has come on: those in use, or, once the receiver has given lanes up, those that it keeps, where it has come on
as many (R405; DESIGN CHOICE, log entry 66). -/
def activeIn (s : State) (p n : Nat) : List Nat :=
  let lanes := fun (m : Nat) => (List.range 8).filter (bit m)
  match (lkPort s p).dropMask with
  | some keep => if n = (lanes keep).length then lanes keep else lanes (lpGet s p LINK_P_STAT_RX_LANES)
  | none => lanes (lpGet s p LINK_P_STAT_RX_LANES)
/-- A codeword, as its active lanes carried it (R386): decoded, counted with its corrected symbols by lane, and passed on, or discarded as
uncorrectable (R387). One that carries markers carries no blocks. The descrambler follows the bits received. A port in LOOPBACK at depth 3
that runs no test sends back what it receives, without decoding it (R411). -/
def execCodewordReceived (p : Nat) (marks : Bool) (lanes : List Nat) (s : State) : Res :=
  if !hears s p ∧ !(p < 4 ∧ lpState s p = 7) then .next s
  else if lpState s p = 7 ∧ lpGet s p LINK_P_CTL_LOOP = 3 ∧ !linkTested s p then
    .next (s.lport p fun l => { l with cwOut := lanes })
  else
    let lanes := lanesIn s p lanes
    let active := activeIn s p lanes.length
    let lanes := (List.range active.length).map fun j => lanes.getD j 0
    let got := gather lanes
    let code := rsDecode got
    let out := scrambleAll true (lkPort s p).descr (symsToBlocks ((code.map (·.1)).getD got))
    let s := s.cond (!marks) fun s => s.lport p fun l => { l with descr := out.1 }
    match code with
    | none =>
      let s := (s.bumpSat pgLINK (LINK_P_FECU_COUNT.at 256 p)).takeBlocks p true []
      .next (s.cond (lpState s p == 4 || lpState s p == 5) fun s => s.askRetry p)
    | some (_, at_) =>
      let n := fun j => (at_.filter fun i => i % lanes.length == j).length
      let lo := pgLINK + LINK_P_FECC_LO + 256 * p
      let hi := pgLINK + LINK_P_FECC_HI + 256 * p
      let c := (s.rd lo).toNat + 2 ^ 32 * (s.rd hi).toNat
      let s := s.cond (at_ != []) fun s => s.put64 lo hi ((c + 1) % 2 ^ 48)
      let s := s.each ((List.range active.length).filter fun j => n j != 0) fun s j =>
        let lane := active.getD j 0
        (s.bumpSat pgLINK (LINK_P_SER_COUNT.at 256 p |>.at 4 lane) (n j)).lport p fun l => { l with
          serMark := addLane l.serMark lane (n j) }
      .next (s.cond (!marks) fun s => (s.cond (lpState s p == 7) fun s => s.checkFlits p out.2).takeBlocks p false out.2)
/-- RETRY is repeated 1 µs after the last, and the port fails after RETRY_MAX of them without progress (R398). -/
def execRetryRepeat (p : Nat) (s : State) : Res :=
  let l := lkPort s p
  if p < 4 ∧ (lpState s p = 4 ∨ lpState s p = 5) ∧ l.waitL ∧ l.lock ∧ l.retryAt + usTicks ≤ s.now then
    if max 1 (s.get pgLINK LINK_LK_CFG_RETRY_MAX) ≤ l.retries then .next (s.lpFail p)
    else .next ((s.lport p fun l => { l with retries := l.retries + 1, retryAt := s.now }).sendRetry p)
  else .next s
/-- No control block for 100 µs (R398). -/
def execLinkSilenceTimeout (p : Nat) (s : State) : Res :=
  if p < 4 ∧ (lpState s p = 4 ∨ lpState s p = 5) ∧ (lkPort s p).heard + hundredUs ≤ s.now then .next (s.lpFail p) else .next s

/-! ### Losing a lane (R405) -/

/-- A receive lane is lost for a cause: 1 signal, 2 lock or alignment, 3 symbol errors. -/
def State.loseLane (s : State) (p lane cause : Nat) : State :=
  let l := lkPort s p
  let cur := l.dropMask.getD (lpGet s p LINK_P_STAT_RX_LANES)
  if !bit cur lane then s
  else
    let keep := cur - 2 ^ lane
    let s := s.noteDrop p 1 0 lane cause 0
    if laneCount keep < minLanes s p then s.lpFail p
    else (s.lport p fun l => { l with
      dropMask := some keep, lossAt := some (l.lossAt.getD s.now), lock := l.lock && cause == 3,
      waitL := l.waitL || cause != 3 }).sendCb p 3 keep
/-- A lane loses signal, or lock or alignment. -/
def execLaneLoss (p lane : Nat) (signal : Bool) (s : State) : Res :=
  if p < 4 ∧ lane < 8 ∧ (lpState s p = 4 ∨ lpState s p = 5) then .next (s.loseLane p lane (if signal then 1 else 2)) else .next s
/-- A 10 µs interval ends: a lane above the threshold in three of them in a row is lost. -/
def execSerInterval (p : Nat) (s : State) : Res :=
  if p < 4 ∧ (lpState s p = 4 ∨ lpState s p = 5) then
    let th := lpGet s p LINK_P_SERTH_THRESH
    let l := lkPort s p
    let high := (List.range 8).map fun j => if th != 0 && decide (th < l.serMark.getD j 0) then l.serHigh.getD j 0 + 1 else 0
    let s := s.lport p fun l => { l with serMark := [], serHigh := high.map fun n => if 3 ≤ n then 0 else n }
    .next (s.each ((List.range 8).filter fun j => decide (3 ≤ high.getD j 0)) fun s j => s.loseLane p j 3)
  else .next s
/-- The receiver has locked on the remaining lanes, and sends RETRY. -/
def execLaneRelock (p : Nat) (s : State) : Res :=
  let l := lkPort s p
  if p < 4 ∧ (lpState s p = 4 ∨ lpState s p = 5) ∧ !l.lock ∧ l.dropMask = none then
    .next ((s.lport p fun l => { l with lock := true, waitL := true, retryAt := s.now, retries := 1 }).sendRetry p)
  else .next s

/-- What a port sends as time passes: the blocks and packets that have waited for the end of the markers, LANE_DROP again, a LINK block whose
turn has come, INIT again while it waits for the far one, and, under a LINK test, the pattern (R388, R403, R405, R567). -/
def State.linkTick (s : State) (p : Nat) : State :=
  if lpState s p = 7 then
    s.cond (linkTested s p) fun s =>
      let (v, r) := prbsBits (lkPort s p).prbs 5120
      (s.lport p fun l => { l with prbs := r }).sendWord p ((elems 256 20 v).map fun f => 2 * f + 1)
  else if !hears s p then s
  else if s.now < (lkPort s p).marksTo then s.sendMarks p
  else
    let l := lkPort s p
    let due := l.cbWait ++ dropBlock l
    let s := (s.lport p fun l => { l with cbWait := [] }).sendBlocks p due.length due
    let s := s.cond (lpState s p == 3) fun s => s.sendInit p
    (s.cond l.linkDue fun s => s.sendLink p).pumpAll p

/-- A write of a forwarding entry (R400). -/
def execFwdWrite (m : Master) (a : Nat) (w : Word32) (s : State) : Res :=
  let a := a % 64
  .next (s.gate m pgLINK (LINK_FWD + 4 * a) true fun s =>
    [LINK_FWD_VALID, LINK_FWD_WRAP, LINK_FWD_PORT].foldl (fun s f => s.put pgLINK (f.at 4 a) (f.of w)) s)

/-! ### Enumeration (R406, R407) -/

/-- A frame driven on CHAIN_OUT; on the manager, with the wait for its return. -/
def State.chainSend (s : State) (op addr count : Nat) (wait : Bool) : State :=
  s.lnk fun l => { l with
    chainOut := some (chainFrame op addr count), chainAt := if wait then some (op, s.now) else l.chainAt }
def State.enumPut (s : State) (f : Fld) (v : Nat) : State := s.put pgLINK f v
/-- The manager waits for the return of a frame. -/
def chainWaits (s : State) (op : Nat) : Bool := match s.link.chainAt with
  | some (o, _) => o == op
  | none => false
/-- Enumeration ends at the manager: state 2 DONE or 3 FAILED. -/
def State.enumEnd (s : State) (st : Nat) : State :=
  ((s.enumPut LINK_ENUM_STAT_STATE st).lnk fun l => { l with chainAt := none }).irq pgLINK 8
/-- A write of ENUM_CTL.GO. -/
def execEnumGo (m : Master) (s : State) : Res :=
  .next (s.gate m pgLINK LINK_ENUM_CTL false fun s => s.cond (isManager s) fun s =>
    let s := (s.enumPut LINK_ENUM_STAT_ADDR 0).enumPut LINK_ENUM_STAT_ADDR_V 1
    let s := (s.enumPut LINK_ENUM_STAT_STATE 1).enumPut LINK_ENUM_STAT_CAUSE 0
    s.sendInits.chainSend 3 0 0 true)
/-- A Chain frame received (R406, R407): one that fails its CRC is stopped, one of a reserved OP is passed on unchanged. -/
def onFrame (op w : Nat) (s : State) (act : State → State) : Res :=
  if s.cfg.links = 0 then .next s
  else if !frameSound w then .next (s.enumPut LINK_ENUM_STAT_CAUSE 3)
  else if frameOp w = op then .next (act s)
  else if [1, 2, 3].contains (frameOp w) then .next s
  else .next (s.lnk fun l => { l with chainOut := some w })
/-- CLEAR. -/
def execChainClear (w : Nat) (s : State) : Res :=
  onFrame 3 w s fun s =>
    if isManager s then s.cond (chainWaits s 3) fun s => s.chainSend 1 1 0 true
    else (((s.enumPut LINK_ENUM_STAT_ADDR_V 0).enumPut LINK_ENUM_STAT_STATE 1).sendInits).chainSend 3 0 0 false
/-- ENUM with an ADDR. -/
def execChainEnum (w : Nat) (s : State) : Res :=
  let addr := frameAddr w
  onFrame 1 w s fun s =>
    if isManager s then s.cond (chainWaits s 1) fun s =>
      if 65 ≤ addr then (s.enumPut LINK_ENUM_STAT_CAUSE 1).enumEnd 3 else s.chainSend 2 0 addr true
    else
      let s := if addr < 64 then ((s.enumPut LINK_ENUM_STAT_ADDR addr).enumPut LINK_ENUM_STAT_ADDR_V 1).sendInits
        else s.enumPut LINK_ENUM_STAT_CAUSE 1
      s.chainSend 1 (addr + 1) 0 false
/-- DONE with a COUNT. -/
def execChainDone (w : Nat) (s : State) : Res :=
  let count := frameCount w
  onFrame 2 w s fun s =>
    if isManager s then s.cond (chainWaits s 2) fun s => ((s.enumPut LINK_ENUM_STAT_DEVICES count).enumEnd 2).sendInits
    else (((s.enumPut LINK_ENUM_STAT_DEVICES count).enumPut LINK_ENUM_STAT_STATE 2).sendInits).chainSend 2 0 count false
/-- No frame came back within ENUM_CTL.TMO. -/
def execEnumTimeout (s : State) : Res :=
  match s.link.chainAt with
  | some (_, t) =>
    if t + hundredUs * s.get pgLINK LINK_ENUM_CTL_TMO ≤ s.now then .next ((s.enumPut LINK_ENUM_STAT_CAUSE 2).enumEnd 3) else .next s
  | none => .next s

/-! ### Domain time (R410) -/

/-- A worker sends TSREQ, which takes its stamp as it is sent (`State.pump`). -/
def State.tsStart (s : State) : State := (s.lnk fun l => { l with ts := some (s.now, s.now) }).sendResp (newPacket s 12 3 0)
/-- A write of TS_CTL.GO. -/
def execTsGo (m : Master) (s : State) : Res :=
  .next (s.gate m pgLINK LINK_TS_CTL false fun s => s.cond (!isManager s) State.tsStart)
/-- The periodic exchange. -/
def execTsPeriod (s : State) : Res :=
  let n := s.get pgLINK LINK_TS_CTL_PERIOD
  if s.cfg.links ≠ 0 ∧ n ≠ 0 ∧ !isManager s ∧ s.link.tsAt + n * msTicks ≤ s.now then
    .next (s.lnk fun l => { l with tsAt := s.now }).tsStart
  else .next s
/-- Domain time (R410). -/
def domainTime (s : State) : Nat :=
  (s.now + (s.rd (pgLINK + LINK_DT_OFS_LO)).toNat + 2 ^ 32 * (s.rd (pgLINK + LINK_DT_OFS_HI)).toNat) % 2 ^ 64
/-- The offset that a worker sets from the four stamps. -/
def dtOffset (t1 t2 t3 t4 : Nat) : Nat :=
  unsigned 64 (Int.tdiv (((t2 : Nat) : Int) - (t1 : Nat) + ((t3 : Nat) : Int) - (t4 : Nat)) 2)

/-- No answer within E2E_TMO: of the packet with a tag, or, for tag 0, of the time exchange (R410, R412). -/
def execE2eTimeout (etag : Nat) (s : State) : Res :=
  let tmo := s.get pgLINK LINK_E2E_TMO_TICKS
  if tmo = 0 then .next s
  else if etag = 0 then
    match s.link.ts with
    | some (_, t) => if t + tmo ≤ s.now then .next ((s.put pgLINK LINK_TS_CTL_ERR 1).lnk fun l => { l with ts := none }) else .next s
    | none => .next s
  else match s.link.sent.find? fun e => e.etag == etag with
    | some e => if e.time + tmo ≤ s.now then .next ((s.countNak 0x44 (devAddr s) e.dst e.ptype).closeTag etag (some 0x44)) else .next s
    | none => .next s

end Sys2Proof.Machine
end

