-- ==== Sys2Proof/Machine/MoverOps.lean ====
section
/-! DEFINITION. What a mover channel's descriptor does (spec/09_movers_and_tokens.md R266 to R303): its fields and endpoints, the
checks at its start, its accesses, and the state machine of each operation. A channel keeps one access outstanding (log entry 25). -/
namespace Sys2Proof.Machine

/-! ### Descriptors and endpoints (R271 to R273) -/

/-- An endpoint. -/
structure Ep where
  kind   : Nat                         -- 0 TM8 storage, 1 external, 2 remote window, 3 none
  form   : Nat
  col    : Bool
  handle : Nat
  gen    : Nat
  addr   : Nat
  direct : Bool                        -- ROUTE
  ext    : Nat
  dev    : Nat
  win    : Nat
deriving DecidableEq, Repr

/-- The endpoint of four words. -/
def epOf (a b c : Nat) : Ep :=
  let kind := bits a 31 30
  { kind := kind, form := bits a 29 28, col := bit a 27, handle := bits a 26 18, gen := bits a 17 10,
    addr := if kind = 2 then bits b 28 0 else b + bits c 3 0 * 2 ^ 32, direct := bit a 29,
    ext := b + bits a 15 0 * 2 ^ 32, dev := bits a 29 24, win := bits a 23 16 }
/-- Reserved fields of an endpoint are zero. -/
def epClean (a b c d : Nat) : Bool :=
  match bits a 31 30 with
  | 0 => bits a 9 0 == 0 && bits c 31 4 == 0 && d == 0
  | 1 => bits a 28 16 == 0 && c == 0 && d == 0
  | 2 => bits a 15 0 == 0 && bits b 31 29 == 0 && c == 0 && d == 0
  | _ => bits a 29 0 == 0 && b == 0 && c == 0 && d == 0

def MvJob.d (j : MvJob) (n : Nat) : Nat := j.words.getD n 0
def MvJob.op (j : MvJob) : Nat := if j.scrub then 6 else bits (j.d 0) 31 28
def MvJob.tid (j : MvJob) : Nat := if j.scrub then bits (j.d 3) 5 0 else bits (j.d 0) 27 22
def MvJob.seq (j : MvJob) : Nat := bits (j.d 0) 15 0
def MvJob.count (j : MvJob) : Nat := if j.scrub then 512 * (bits (j.d 2) 20 0 + 1) else bits (j.d 1) 29 0 + 1
def MvJob.conv (j : MvJob) : Bool := !j.scrub && bit (j.d 2) 31
def MvJob.accf (j : MvJob) : Nat := bits (j.d 2) 29 28
def MvJob.xfmt (j : MvJob) : Nat := bits (j.d 2) 27 24
def MvJob.energy (j : MvJob) : Nat := if j.scrub then 0 else bits (j.d 2) 23 0
def MvJob.param (j : MvJob) : Nat := j.d 3
/-- Bytes of a GATHER or SCATTER unit. -/
def MvJob.unit (j : MvJob) : Nat := 32 * 2 ^ j.xfmt
/-- Lines of a router vector. -/
def MvJob.vlines (j : MvJob) : Nat := bits j.param 12 8 + 1
def MvJob.src (j : MvJob) : Ep :=
  if j.scrub then
    if bit (j.d 0) 27 then { epOf 0x20000000 0 0 with addr := 512 * bits (j.d 1) 20 0 }
    else { epOf 0 0 0 with handle := bits (j.d 0) 26 18, gen := bits (j.d 0) 17 10, addr := 512 * bits (j.d 1) 20 0 }
  else epOf (j.d 4) (j.d 5) (j.d 6)
def MvJob.dst (j : MvJob) : Ep := if j.scrub then epOf 0xC0000000 0 0 else epOf (j.d 8) (j.d 9) (j.d 10)

/-- Format of an endpoint of a converting copy (R281); 0 where it has none. -/
def epFmt (s : State) (j : MvJob) (e : Ep) : Nat :=
  if e.kind = 0 then ((descOf s e.handle).map (·.format)).getD 0 else j.xfmt
/-- How a copy converts: 0 not, 1 as a read, 2 as a write (R281). -/
def convMode (s : State) (j : MvJob) : Nat :=
  if !j.conv then 0
  else if lensPair false (epFmt s j j.src) (epFmt s j j.dst) then 1
  else if lensPair true (epFmt s j j.dst) (epFmt s j j.src) then 2 else 3
/-- Bytes of DST's walk in a COPY, FILL or REDUCE. -/
def dstBytes (s : State) (j : MvJob) : Nat :=
  if j.conv then j.count * fmtWidth (epFmt s j j.dst) / max 1 (fmtWidth (epFmt s j j.src)) else j.count

/-! ### The walk (R275) -/

/-- A piece of a walk that one access covers: a whole line, or up to 64 bytes of a row line. -/
structure Piece where
  hframe : Nat
  layer  : Nat
  frame  : Nat
  col    : Bool
  line   : Bool
  num    : Nat
  byte   : Nat                         -- first byte in the frame, for a segment operation
  len    : Nat
deriving DecidableEq, Repr

/-- Handle frame and line of line k of a tile walk (R83). -/
def tileLine (e : Ep) (trow k : Nat) : Nat × Nat :=
  let tr := bits e.addr 35 20
  let tc := bits e.addr 19 4
  let l := e.addr % 16 + k
  (if e.col then tr * trow + (tc + l / 16) else (tr + l / 16) * trow + tc, l % 16)
/-- The 21-bit line index of a PTA, by its direction. -/
def ptaLine (e : Ep) : Nat := e.addr / 8192 * 16 + (if e.col then ptaByte e.addr / 32 else ptaByte e.addr / 512)
/-- Bytes of layer 0. -/
def bytes0 : Nat := 8192 * 8192
/-- A piece of a walk in column direction at byte `b` of line `l`: the whole line, or bytes of one of its segments (R275). -/
def colPiece (hf layer frame l b left : Nat) : Piece :=
  if b = 0 ∧ 512 ≤ left then { hframe := hf, layer, frame, col := true, line := true, num := l, byte := 0, len := 512 }
  else
    let x := (lineSegs true l).getD (b / 32) (0, 0)
    { hframe := hf, layer, frame, col := true, line := false, num := l, byte := 512 * x.1 + 32 * x.2 + b % 32,
      len := min left (32 - b % 32) }
/-- The piece of a TM8 walk at byte `pos`, of which `left` bytes remain. -/
def epPiece (s : State) (e : Ep) (pos left : Nat) : Piece :=
  let row := fun (hf layer frame b : Nat) =>
    if b % 512 = 0 ∧ 512 ≤ left then { hframe := hf, layer, frame, col := false, line := true, num := b / 512, byte := b, len := 512 : Piece }
    else { hframe := hf, layer, frame, col := false, line := false, num := b / 512, byte := b, len := min left (64 - b % 64) }
  match e.form with
  | 0 =>
    let a := e.addr + pos
    let (layer, frame) := ((descOf s e.handle).map fun d => d.frame (a / 8192)).getD (0, 0)
    row (a / 8192) layer frame (a % 8192)
  | 1 =>
    match descOf s e.handle with
    | none => row 0 0 0 0
    | some d =>
      let (hf, l) := tileLine e d.trow (pos / 512)
      let (layer, frame) := d.frame hf
      if e.col then colPiece hf layer frame l (pos % 512) left
      else row hf layer frame (512 * l + pos % 512)
  | _ =>
    if e.col then
      let p := ptaLine e
      let k := pos / 512
      let p := if p < 131072 ∧ 131072 ≤ p + k then p + k + 131072 else p + k
      colPiece 0 (p / 262144) (p / 16 % 16384) (p % 16) (pos % 512) left
    else
      let a := if e.addr < bytes0 ∧ bytes0 ≤ e.addr + pos then e.addr + pos + bytes0 else e.addr + pos
      row 0 (ptaLayer a) (ptaFrame a) (ptaByte a)
/-- The segments of a piece, with data. -/
def Piece.segs (p : Piece) (data : Nat) : List SegOp :=
  if p.line then cutLine p.col p.num data else cutSegs p.byte p.len data

/-- The last handle frame of the first `n` bytes of a walk by handle. -/
def epLast (e : Ep) (trow n : Nat) : Nat :=
  if e.form = 0 then (e.addr + n - 1) / 8192 else (tileLine e trow ((n + 511) / 512 - 1)).1
/-- The first `n` bytes of a TM8 walk lie in the handle's extent, or in range and in no section in cache mode (R85, R380). -/
def epFits (s : State) (e : Ep) (n : Nat) : Bool :=
  if e.form = 2 then
    let lo := e.addr
    let hi := e.addr + n - 1
    let top := if e.col then ptaLine e + (n + 511) / 512 - 1 else hi / 512
    let last := if (e.addr < bytes0) ∧ 131072 ≤ top then top + 131072 else top
    let lo0 := if e.col then ptaLine e * 512 else lo
    let hi0 := min (bytes0 - 1) (top * 512 + 511)
    !(decide (bytes0 ≤ lo ∧ lo < 2 * bytes0)) && decide (last < s.cfg.dies * 262144) &&
      !(List.range 8).any fun k => bit (s.get pgCACHE CACHE_SEC_STAT_CUR) k &&
        decide (lo < bytes0 ∧ lo0 < 1024 * 8192 * (k + 1) ∧ 1024 * 8192 * k ≤ hi0)
  else match descOf s e.handle with
    | none => false
    | some d =>
      if e.form = 0 then decide (epLast e 0 n ≤ d.extentM1)
      else decide (epLast e d.trow n ≤ d.extentM1) &&
        (!e.col || decide (bits e.addr 19 4 + (e.addr % 16 + (n + 511) / 512 - 1) / 16 < d.trow))

/-! ### The checks at a descriptor's start (R273, R274, R281, R284, R290, R303) -/

/-- The handle of an endpoint or of an index list, for channel c: steps 1 to 3 of R85 in group G3. -/
def handleCheck (s : State) (c : Nat) (j : MvJob) (h gen right : Nat) : Nat :=
  if h = 0 then
    if j.scrub ∨ bit (s.get pgHGUARD HANDLE_GUARD_PRIV_MASK_MV) c then stOK else stRIGHTS
  else match liveDesc s h gen with
    | none => stSTALE
    | some d => if j.scrub ∨ d.admits 3 (some right) (c / 2) j.tid then stOK else stRIGHTS
/-- A TM8 endpoint over `n` bytes of its walk. -/
def epCheck (s : State) (c : Nat) (j : MvJob) (e : Ep) (right n : Nat) : Nat :=
  let st := handleCheck s c j e.handle e.gen right
  if st ≠ stOK then st
  else
    let form := match e.form with
      | 0 => e.handle != 0 && !e.col && decide (e.addr < 2 ^ 29)
      | 1 => e.handle != 0 && (match descOf s e.handle with
          | some d => d.trow != 0 && decide (bits e.addr 19 4 < d.trow)
          | none => false)
      | 2 => e.handle == 0 && decide (e.addr < 2 ^ 30) && (!e.col || (decide (ptaByte e.addr < 512) && e.addr % 32 == 0))
      | _ => false
    if !form ∨ ((e.col ∨ j.conv) ∧ n % 512 ≠ 0) ∨ !epFits s e n then stBOUNDS else stOK
/-- Reserved fields of a descriptor are zero (R271 to R273). -/
def MvJob.clean (j : MvJob) : Bool :=
  bits (j.d 0) 20 16 == 0 && bits (j.d 1) 31 30 == 0 && bits (j.d 12) 17 0 == 0 && bits (j.d 13) 9 0 == 0 &&
    bits (j.d 14) 7 0 == 0 && bits (j.d 15) 9 0 == 0 &&
    epClean (j.d 4) (j.d 5) (j.d 6) (j.d 7) && epClean (j.d 8) (j.d 9) (j.d 10) (j.d 11) &&
    (match j.op with
      | 7 => bits j.param 31 2 == 0
      | 8 => bits j.param 7 0 == 0
      | 9 | 10 => bits j.param 31 13 == 0
      | _ => true)
/-- The endpoint kinds of an operation (R273). -/
def MvJob.kindsOk (j : MvJob) : Bool :=
  let a := j.src.kind
  let b := j.dst.kind
  match j.op with
  | 0 => a == 3 && b == 3
  | 1 | 4 | 5 => decide (a ≤ 1) && decide (b ≤ 2)
  | 2 => a == 3 && decide (b ≤ 2)
  | 3 => decide (a ≤ 1) && b == 0
  | 6 => a == 0 && (decide (b ≤ 1) || j.scrub)
  | 7 => decide (a ≤ 1) && b == 3
  | 8 => a == 0 && b == 0
  | 9 => a == 3 && b == 3
  | 10 => a == 3 && b == 0
  | _ => false
/-- Bytes of SRC's and DST's walks that are checked at the start; 0 for a walk whose items are checked one by one. -/
def walkBytes (s : State) (j : MvJob) : Nat × Nat :=
  match j.op with
  | 1 | 3 => (j.count, dstBytes s j)
  | 2 => (0, j.count)
  | 4 => (1, j.count * j.unit)
  | 5 => (j.count * j.unit, 1)
  | 6 => (j.count, 32)
  | 7 => (64, 0)
  | 8 => (j.count * j.vlines * 512, 32 * j.count)
  | 10 => (0, 1)
  | _ => (0, 0)
/-- DST of an accumulation satisfies R226. -/
def accOk (s : State) (j : MvJob) (sacc : Bool) : Bool :=
  let w := accWidth j.accf / 8
  j.accf != 3 && !(sacc && j.accf == 2) && j.dst.addr % (if j.dst.form = 1 then 1 else w) == 0 &&
    (match descOf s j.dst.handle with
      | some d => d.format == 0 || d.format == (if j.accf = 0 then 6 else if j.accf = 1 then 8 else 3)
      | none => true)
/-- The constraints of a converting copy (R281). -/
def convOk (s : State) (j : MvJob) : Bool :=
  let mode := convMode s j
  let under := fun (e : Ep) (n : Nat) => match descOf s e.handle with
    | some d => !(e.kind == 0 && isMX d.format) || decide (epLast e d.trow n < d.splane)
    | none => true
  let ext := j.src.kind != 0 || j.dst.kind != 0
  (mode == 1 || mode == 2) && !(ext && isMX j.xfmt) && under j.src j.count && under j.dst (dstBytes s j) &&
    !(mode == 2 && isMX (epFmt s j j.dst) && (j.dst.col || (j.dst.form == 0 && j.dst.addr % 512 != 0)))
/-- A DISPATCH or RETURN may write remotely to a device: some entry of its map names a credit account of it. The spec does not say how the
TM8 knows at the start which entries it will use (DESIGN CHOICE, log entry 58). -/
def routesTo (s : State) (j : MvJob) (dev : Nat) : Bool :=
  let hit := fun (reg e : Nat) =>
    let w := (s.rd (pgMOVER + reg + 4 * e)).toNat
    bit w 31 && bit w 30 && s.get pgMOVER (MOVER_CA_CFG_DEV.at 8 (bits w 29 24)) == dev
  (j.op == 8 && (List.range 256).any (hit MOVER_EXPMAP)) || (j.op == 9 && (List.range 64).any (hit MOVER_RETMAP))
/-- An endpoint's walk can be in whole lines: it begins on a line. -/
def Ep.onLine (e : Ep) : Bool := e.kind != 0 || e.form == 1 || e.col || e.addr % 512 == 0
/-- The checks of a descriptor's own words fail (R273, R281, R284 to R286, R290, R302). -/
def mvMisshaped (s : State) (j : MvJob) : Bool :=
    let remote := j.dst.kind == 2 || (!j.scrub && bit (j.d 12) 29)
    let early := !j.scrub && bit (j.d 12) 28
    let ndev := bits (j.d 14) 31 26
    !j.kindsOk || (!j.scrub && (!j.clean || decide (47 < bits (j.d 12) 23 18))) || (remote && s.cfg.links == 0) ||
      (early && !((j.dst.kind == 2 && j.dst.dev == ndev) || routesTo s j ndev)) || (j.conv && j.op != 1) ||
      (j.op == 3 && !accOk s j (bit (j.d 2) 30)) || (j.op == 3 && j.count % (accWidth j.accf / 8) != 0) ||
      (j.op == 10 && !accOk s j true) || ((j.op == 4 || j.op == 5) && decide (8 < j.xfmt)) ||
      (j.op == 6 && (j.count % 512 != 0 || !j.src.onLine))
/-- The endpoint that a check of R85 refuses, with its status: SRC needs R; DST needs W, or X for REDUCE and COMBINE (R274); the routing
table that DST of a DISPATCH names is read, which needs R too (R78). Where both endpoints are refused, the descriptor takes SRC's status,
and SRC's request is the one counted (DESIGN CHOICE, log entry 72). -/
def mvRefused (s : State) (c : Nat) (j : MvJob) : Option (Ep × Nat) :=
  let (n, m) := walkBytes s j
  let a := if j.src.kind = 0 ∧ n ≠ 0 then
      epCheck s c j j.src 0 (if j.op = 4 then (if j.src.col then 512 else 1) else n)
    else stOK
  let b := if j.dst.kind = 0 ∧ m ≠ 0 then
      let st := epCheck s c j j.dst (if j.op = 3 ∨ j.op = 10 then 2 else 1)
        (if (j.op = 5 ∨ j.op = 10) ∧ j.dst.col then 512 else m)
      if st = stOK ∧ j.op = 8 then epCheck s c j j.dst 0 m else st
    else stOK
  if a ≠ stOK then some (j.src, a) else if b ≠ stOK then some (j.dst, b) else none
/-- Source code of a descriptor's accesses (R100). -/
def MvJob.source (j : MvJob) (c : Nat) : Nat := if j.scrub then 77 else 56 + c
/-- A descriptor completes at its start before its endpoints are checked. -/
def mvForm (s : State) (j : MvJob) : Nat :=
  if parked s then stPARKED
  else if 8 ≤ j.op ∧ j.op ≤ 10 ∧ !s.cfg.optT then stDISABLED
  else if mvMisshaped s j then stBOUNDS else stOK
/-- The status that a descriptor completes with at its start, OK where it passes every check. -/
def mvCheck (s : State) (c : Nat) (j : MvJob) : Nat :=
  if mvForm s j ≠ stOK then mvForm s j
  else match mvRefused s c j with
    | some e => e.2
    | none => if j.conv ∧ !convOk s j then stBOUNDS else stOK

/-! ### Energy (R295) -/

/-- Accesses of a descriptor at SRC and at DST, as its engine counts them. -/
def accessCount (s : State) (j : MvJob) : Nat × Nat :=
  let lines := fun n => (n + 511) / 512
  let (n, m) := walkBytes s j
  let v := j.vlines
  match j.op with
  | 1 | 3 => (lines n, lines m)
  | 2 => (0, lines m)
  | 4 | 5 => (j.count * lines j.unit + j.count / 8 + 1, j.count * lines j.unit)
  | 6 => (lines n, 1)
  | 7 => (1, 0)
  | 8 => (j.count * (v + 1), j.count * (bits j.param 14 13 + 1) * (v + 1))
  | 9 => (j.count * (v + 1), j.count * (v + 1))
  | 10 => (j.count * (v + 1), j.count * v)
  | _ => (0, 0)
/-- Total accesses of a descriptor: at least one. -/
def accessTotal (s : State) (j : MvJob) : Nat := let (a, b) := accessCount s j; max 1 (a + b)
/-- Of the appends of a DISPATCH or RETURN, the share that goes over the link, as its map has it: entries that name an account, and
valid entries. The engine has not read its routing table or its slots when it prices it (DESIGN CHOICE, log entry 59). -/
def remoteShare (s : State) (j : MvJob) : Nat × Nat :=
  let valid := fun (reg n : Nat) => (List.range n).map (fun e => (s.rd (pgMOVER + reg + 4 * e)).toNat) |>.filter fun w => bit w 31
  let l := if j.op = 8 then valid MOVER_EXPMAP 256 else if j.op = 9 then valid MOVER_RETMAP 64 else []
  ((l.filter fun w => bit w 30).length, max 1 l.length)
/-- The engine's own price of a descriptor: rim accesses, Spoke lines, Hub transfers, master-port and link bytes. A FILL sends its rims no line
(R222, R283). -/
def ownPrice (s : State) (j : MvJob) : Nat :=
  let (a, b) := accessCount s j
  let layer := fun (e : Ep) => if e.kind = 0 then (epPiece s e 0 1).layer else 0
  let rims := fun (e : Ep) (n k : Nat) => if 8 ≤ j.op then
      let (r, v) := remoteShare s j
      let far := n * r / v
      eventCharge s 0 (k * (n - far)) + eventCharge s 3 ((n - far) * layer e) + eventCharge s 4 (n - far) + eventCharge s 8 (17 * far)
    else if e.kind = 0 ∧ j.op = 2 then eventCharge s 0 n
    else if e.kind = 0 then eventCharge s 0 (k * n) + eventCharge s 3 (n * layer e) + eventCharge s 4 n
    else if e.kind = 1 then eventCharge s 7 (8 * n)
    else if e.kind = 2 then eventCharge s 8 (17 * n) else 0
  let near := fun (n : Nat) => eventCharge s 0 n + eventCharge s 3 (n * layer j.src) + eventCharge s 4 n
  (if 8 ≤ j.op then near a else rims j.src a 1) + rims j.dst b (if j.op = 3 ∨ j.op = 10 then 2 else 1)
/-- An access of a descriptor can be issued: its chunk is admitted (R295). -/
def mvFed (s : State) (c : Nat) (j : MvJob) : Bool := j.chunk != 0 && (chunkOf s c).any (·.adm)
/-- The next chunk of a descriptor asks for energy (R295). -/
def State.mvChunk (s : State) (c : Nat) (j : MvJob) : State :=
  let total := max (accessTotal s j) (j.accs + 1)
  let n := min 4096 (total - j.accs)
  let all := if j.energy = 0 then ownPrice s j else j.energy * njUnits
  let s := s.endChunk c
  let (deferred, s) := s.askChunk c j.tid n (all * n / total)
  let s := s.cond deferred fun s => s.bumpSat pgMOVER (MOVER_ENG_DEFER_COUNT.at 32 (c / 4))
  s.chan c fun h => { h with jobs := match h.jobs with
    | [] => []
    | k :: l => { k with chunk := n, need := false, wait := if deferred then 2 else 0 } :: l }

/-! ### Accesses -/

/-- The head descriptor changed. -/
def State.job (s : State) (c : Nat) (f : MvJob → MvJob) : State :=
  s.chan c fun h => { h with jobs := match h.jobs with | [] => [] | j :: l => f j :: l }
/-- The next access of a descriptor waits for its chunk (R295). -/
def State.unfed (s : State) (c : Nat) : State := s.job c fun j => { j with need := j.chunk == 0 }
/-- A channel gives up an access that waits for a place in the Hub or on the master port (R204, R276). -/
def State.mvGiveUp (s : State) (c : Nat) : State :=
  ((s.shareFree (Src.mover c 0).unit).shareFree (Src.engFetch c 0).unit).chan c fun k => { k with mpw := false }
/-- A descriptor fails with a status at an item; the lowest failed item names it (R293). A local slot that an append of it has taken is
still to be marked and set full, in stage 6, once it is empty (R299). -/
def State.mvFail (s : State) (c st item nak : Nat) : State :=
  (s.mvGiveUp c).job c fun j =>
    let j := if j.status = 0 ∨ item < j.fail then { j with status := st, fail := item, nak := nak } else j
    if j.slot2.isSome ∧ 3 ≤ j.sub ∧ j.sub ≤ 6 then (if j.sub = 6 then j else { j with sub := 6, mark := none })
    else { j with ended := true }
/-- A descriptor whose append waits for its slot fails: the slot stays as it is (R299, R329, R334; log entry 28). -/
def State.appendFail (s : State) (c st item : Nat) : State :=
  (s.mvFail c st item 0).job c fun j => { j with ended := true, slot2 := none }
/-- A mover's request refused at a check of R85 (R100), and its descriptor failed. -/
def State.mvReject (s : State) (c : Nat) (j : MvJob) (h gen st item : Nat) : State :=
  (s.reject (j.source c) h gen st).mvFail c st item 0
/-- An outcome made without an access joins the answers. -/
def State.answerNow (s : State) (src : Src) (st : Nat) : State :=
  s.hubf fun h => { h with answers := h.answers ++ [⟨src, st, 0, [], 0, 0, 0, 0⟩] }
/-- An access that an engine has issued (R304), and, where it goes to a rim, its line on the channel's page (R171). -/
def State.engLine (s : State) (c : Nat) (rim : Bool) : State :=
  (s.bump pgMOVER (MOVER_ENG_LINES_COUNT.at 32 (c / 4))).cond rim fun s => s.bump (portBase (56 + c)) PORT_LINE_CNT_COUNT
/-- An access of channel c sent into the Hub under a TID: answered at once where its rim refuses it or the device is PARKED, not
sent where there is no room in its pool (R153, R204). Answers whether it went. -/
def State.mvSend (s : State) (c : Nat) (src : Src) (op : AccOp) (line : Bool) (layer frame : Nat) (segs : List SegOp)
    (tid policy pk : Nat) (fill : Bool := false) (source : Nat := 56 + c) : Bool × State :=
  let a : Access := {
    seq := 0, src := src, op := op, line := line, layer := layer, frame := frame, segs := segs, tid := tid,
    step := tidStep s tid, obs := 100 + c / 2, wide := 4, stream := none, born := s.pcNow, bornD := s.pcDev,
    policy := policy, loc := .pool, status := stOK, pmask := 0, pk := pk, source := source, mcast := 0, fill := fill }
  if parked s then (true, s.answerNow src stPARKED)
  else match s.sendAccess a with
    | (true, s) => (true, s.engLine c true)
    | (false, s) => (false, s)
/-- Power policy of an endpoint's handle; 4 for handle 0 (R72, R73). -/
def hPolicy (s : State) (h : Nat) : Nat := (capOf s h).1
/-- POWER, OVF and SROUND of a handle of a descriptor: as taken at its start (R88). -/
def MvJob.cap (s : State) (j : MvJob) (h : Nat) : Nat × Bool × Bool :=
  match j.caps.find? fun e => e.1 == h with
  | some e => e.2
  | none => capOf s h
/-- The handles of a descriptor whose POWER, OVF and SROUND it takes at its start. -/
def State.mvCaps (s : State) (j : MvJob) : Sp (Nat × Bool × Bool) :=
  [j.src.handle, j.dst.handle, if j.op = 4 ∨ j.op = 5 then bits j.param 31 23 else 0].map fun h => (h, capOf s h)
/-- The outstanding access of a descriptor noted. -/
def State.mvWait (s : State) (c : Nat) (want : Want) (pos len : Nat) : State :=
  s.job c fun j => { j with out := true, want := want, pos := pos, len := len, chunk := j.chunk - 1, accs := j.accs + 1, wait := 0 }
/-- An access of the running descriptor at a piece of a walk. A whole line of a FILL is a FILL access (R283), and only the reads of a SCRUB
are those of a scrub pass (R452). -/
def State.mvPiece (s : State) (c : Nat) (j : MvJob) (h : Nat) (p : Piece) (op : AccOp) (data : Nat) (want : Want) (pos : Nat) :
    Bool × State :=
  if !mvFed s c j then (false, s.unfed c)
  else
  let (went, s) := s.mvSend c (.mover c 0) op p.line p.layer p.frame (p.segs data) j.tid (j.cap s h).1
    (if j.op = 6 ∧ op = .read then 6 else 2) (j.op == 2 && p.line) (j.source c)
  if went then (true, s.mvWait c want pos p.len)
  else (false, s.job c fun j => { j with wait := if shareFull s j.tid then 1 else 0 })

/-- An external piece: within one 512-byte block, and within one cache line where the access goes THROUGH a cache (R276, R277). -/
def extLen (s : State) (e : Ep) (pos left : Nat) : Nat :=
  let a := e.ext + pos
  let u := if !e.direct && s.cfg.optC && s.get pgCACHE CACHE_SEC_STAT_CUR != 0 then 128 else 512
  min left (u - a % u)
/-- The master port serves the engines round-robin (R276): none that waits for it comes before engine e. -/
def mpTurn (s : State) (e : Nat) : Bool :=
  let waits := fun k => k == e || (List.range 4).any fun i => (chanOf s (4 * k + i)).mpw && !(portOf s (56 + 4 * k + i)).broken
  ((List.range 4).map fun k => (s.mpRr + 1 + k) % 4).find? waits == some e
/-- An external access of channel c, for its unit: THROUGH the cache controller where a section is in cache mode, else a transaction of its
own on the master port (R276, R277, R379). Answers whether it was issued. -/
def State.extAccess (s : State) (c unit tid : Nat) (wr direct : Bool) (a n data : Nat) : Bool × State :=
  let own := if unit = 0 then some c else none
  if !direct ∧ s.cfg.optC ∧ (s.cache.switch.isSome ∨ cacheSections s ≠ []) then
    if s.cache.switch.isSome then (false, s)
    else (true, ((s.addLineJob (a / 128) (.mover c unit) tid (a % 128) n wr data).cacheRun).engLine c false)
  else if mpRoom s && mpTurn s (c / 4) then
    let s := { s with mpRr := c / 4 }.chan c fun k => { k with mpw := false }
    (true, ((s.mpIssue (.chan c unit) wr a n data 0).energy 7 (mpLen a n / 64) tid own).engLine c false)
  else (false, s.chan c fun k => { k with mpw := true })
/-- An external read of the running descriptor. -/
def State.extRead (s : State) (c : Nat) (j : MvJob) (e : Ep) (pos left : Nat) (want : Want) : Bool × State :=
  let n := extLen s e pos left
  if !mvFed s c j then (false, s.unfed c)
  else match s.extAccess c 0 j.tid false e.direct ((e.ext + pos) % 2 ^ 48) n 0 with
  | (true, s) => (true, s.mvWait c want pos n)
  | (false, s) => (false, s)
/-- A range added to those written, joined with the last where it follows it. -/
def addRange (l : List (Nat × Nat)) (lo hi : Nat) : List (Nat × Nat) :=
  match l with
  | (a, b) :: l => if b = lo then (a, hi) :: l else (lo, hi) :: (a, b) :: l
  | [] => [(lo, hi)]
/-- An external write of the running descriptor. -/
def State.extWrite (s : State) (c : Nat) (j : MvJob) (e : Ep) (pos n data : Nat) (want : Want) : Bool × State :=
  let a := (e.ext + pos) % 2 ^ 48
  match s.extAccess c 0 j.tid true e.direct a n data with
  | (true, s) => (true, (s.job c fun j => { j with xr := addRange j.xr a (a + n) }).mvWait c want pos n)
  | (false, s) => (false, s)

/-! ### A transfer: bytes rpos to rend of SRC's walk to bytes wpos to wend of DST's walk -/

/-- Bytes staged, or taken from the staging buffer. -/
def State.stage (s : State) (c data n : Nat) : State :=
  s.job c fun j => { j with stg := j.stg + data % 256 ^ n * 256 ^ j.stgN, stgN := j.stgN + n }
def State.unstage (s : State) (c n : Nat) : State :=
  s.job c fun j => { j with stg := j.stg / 256 ^ n, stgN := j.stgN - n }
/-- Staging bytes that `n` bytes read by a descriptor take: a converting read's are those of the engine format (R281). -/
def stageLen (s : State) (j : MvJob) (n : Nat) : Nat :=
  if convMode s j = 1 then n * fmtWidth (epFmt s j j.dst) / max 1 (fmtWidth (epFmt s j j.src)) else n
/-- Staging bytes that a descriptor holds (R267): a router's vector, a line of a slot that COMBINE adds, or what it has read for a remote or
external destination or a converting copy, with what it is reading. -/
def MvJob.staged (s : State) (j : MvJob) : Nat :=
  if j.ended ∨ j.op = 6 ∨ j.op = 7 then 0
  else if j.op = 10 then j.stgN + if j.out ∧ j.want = .vector then j.len else 0
  else if 8 ≤ j.op then j.resv
  else if j.dst.kind = 0 ∧ !j.conv then 0
  else j.stgN + if j.out ∧ j.want = .data then stageLen s j j.len else 0
/-- `n` more bytes fit into the 32 KiB staging buffer of a channel's engine, beside what its channels hold and the data of packets that
they have not sent (R267). -/
def stageRoom (s : State) (c n : Nat) : Bool :=
  let e := c / 4
  let held := (List.range 4).foldl (fun a k => a + (((chanOf s (4 * e + k)).jobs.head?.map (MvJob.staged s)).getD 0)) 0
  let sent := (List.range 4).foldl (fun a p => a + ((lkPort s p).txq.filter fun t => (t.own.map (· / 4)) == some e).foldl
    (fun b t => b + 32 * t.pk.ndata) 0) 0
  decide (held + sent + n ≤ 32768)
/-- A read of a transfer has to wait for staging room (R267). -/
def stageWait (s : State) (c : Nat) (j : MvJob) (n : Nat) : Bool :=
  decide (j.op < 6) && (j.dst.kind != 0 || j.conv) && !stageRoom s c (stageLen s j n)
/-- A channel waits for staging room. -/
def State.waitStage (s : State) (c : Nat) : State := s.job c fun j => { j with wait := 8 }
/-- The item of a failure at walk byte `pos` (R293). -/
def MvJob.failAt (j : MvJob) (pos : Nat) : Nat :=
  if j.op = 1 ∨ j.op = 2 ∨ j.op = 3 ∨ j.op = 6 then pos else j.item

/-- The scale row of a data frame in the engine's buffer (R282). -/
def engRow (s : State) (c : Nat) (e : Ep) (hf : Nat) : Option (List Seg) :=
  ((Sp.get [] s.engScale (c / 4)).find? fun x => x.handle == e.handle && x.gen == e.gen && x.frame == hf).map (·.row)
/-- A use of that row: its entry becomes the most recently used (R124, R282). -/
def State.engUse (s : State) (c : Nat) (e : Ep) (hf : Nat) : State :=
  let l := Sp.get [] s.engScale (c / 4)
  let mine := fun (x : ScaleEntry) => x.handle == e.handle && x.gen == e.gen && x.frame == hf
  { s with engScale := Sp.set s.engScale (c / 4) (l.filter mine ++ l.filter fun x => !mine x) }
/-- The other channel of the engine that is reading a scale row, to be buffered (R125, R282). -/
def rowReader (s : State) (c : Nat) (e : Ep) (hf : Nat) : Option Nat :=
  ((List.range 4).map (4 * (c / 4) + ·)).find? fun k => k != c && match (chanOf s k).jobs with
    | g :: _ => g.out && g.want == .scaleRow && g.keep && g.src.handle == e.handle && g.src.gen == e.gen &&
        (epPiece s g.src g.pos (g.rend - g.pos)).hframe == hf
    | [] => false
/-- The next read of a transfer: a scale row first where the conversion needs one that is neither buffered nor being read. -/
def State.xferRead (s : State) (c : Nat) (j : MvJob) : Bool × State :=
  let left := j.rend - j.rpos
  if stageWait s c j (if j.src.kind = 1 then extLen s j.src j.rpos left else (epPiece s j.src j.rpos left).len) then
    (false, s.waitStage c)
  else if j.src.kind = 1 then
    let n := extLen s j.src j.rpos left
    let (went, s) := s.extRead c j j.src j.rpos left .data
    (false, s.cond went fun s => s.job c fun j => { j with rpos := j.rpos + n })
  else
    let p := epPiece s j.src j.rpos left
    let mx := convMode s j == 1 && isMX (epFmt s j j.src)
    if mx && (j.row.map (·.1)) != some p.hframe then
      if j.rowOf.isSome then (false, s)
      else match engRow s c j.src p.hframe, descOf s j.src.handle with
      | some row, _ => (true, (s.engUse c j.src p.hframe).job c fun j => { j with row := some (p.hframe, row) })
      | none, some d =>
        let reader := rowReader s c j.src p.hframe
        if reader.isSome then (false, s.job c fun j => { j with rowOf := reader })
        else if !mvFed s c j then (false, s.unfed c)
        else
        let (layer, frame) := d.frame (d.splane + p.hframe / 16)
        let (went, s) := s.mvSend c (.engFetch c p.hframe) .read true layer frame (cutLine false (p.hframe % 16) 0) j.tid (j.cap s j.src.handle).1 2
        (false, s.cond went fun s => (s.job c fun j => { j with keep := true }).mvWait c .scaleRow j.rpos 512)
      | none, none => (false, s.mvFail c stSTALE (j.failAt j.rpos) 0)
    else
      let (went, s) := s.mvPiece c j j.src.handle p .read 0 .data j.rpos
      (false, s.cond went fun s => s.job c fun j => { j with rpos := j.rpos + p.len })
/-- The stored descriptor, or the format alone of an endpoint outside, that a converting write goes into. -/
def convDesc (s : State) (j : MvJob) : Desc :=
  match (if j.dst.kind = 0 then descOf s j.dst.handle else none) with
  | some d => let (_, ovf, sround) := j.cap s j.dst.handle; { d with ovf := ovf, sround := sround }
  | none => ⟨0, 0, 0, 0, 0, 0, j.xfmt, false, false, false, false, false, false, 0, 0, 0, 0⟩
/-- Data of the next `n` bytes of DST's walk, taken from the staging buffer or made up, with the scale entry of an MX line. -/
def State.xferData (s : State) (c : Nat) (j : MvJob) (n : Nat) (hf row : Nat) : Nat × State :=
  if j.op = 2 then
    let pat := (List.range 4).foldl (fun a k => a + bits j.param (8 * ((j.wpos + k) % 4) + 7) (8 * ((j.wpos + k) % 4)) * 256 ^ k) 0
    ((List.range ((n + 3) / 4)).foldl (fun a k => a + pat * 2 ^ (32 * k)) 0 % 256 ^ n, s)
  else if j.zero then (0, s)
  else if convMode s j = 2 then
    let need := n * fmtWidth (epFmt s j j.src) / fmtWidth (epFmt s j j.dst)
    let w := lensWrite (convDesc s j) (epFmt s j j.src) n (j.stg % 256 ^ need) (chGet s c MOVER_CH_SEED_STATE)
    let s := (s.put pgMOVER (MOVER_CH_SEED_STATE.at 64 c) w.seed).unstage c need
    let s := s.energy 6 (units64 need) j.tid (some c)
    (w.raw, s.job c fun j => { j with scs := w.scales.map fun e => (hf, row, e.2) })
  else (j.stg % 256 ^ n, s.unstage c n)
/-- The accumulation of a REDUCE, or a plain write. -/
def MvJob.wop (j : MvJob) : AccOp :=
  if j.op = 3 then (if bit (j.d 2) 30 then .sacc j.accf j.param else .acc j.accf)
  else if j.op = 10 then .sacc j.accf (j.entry / 2 ^ 32 % 2 ^ 32) else .write
/-- The write of a transfer that has not gone leaves its marks alone: what waits, and why (R204, R276, R294). -/
def State.held (s t : State) (c : Nat) : State :=
  ({ s with shareHeld := t.shareHeld }.chan c fun k => { k with mpw := (chanOf t c).mpw }).job c fun k =>
    { k with wait := ((chanOf t c).jobs.head?.map MvJob.wait).getD 0 }
/-- One step of the running transfer. Answers whether another step can follow at once. -/
def State.xferStep (s : State) (c : Nat) (j : MvJob) : Bool × State :=
  match j.scs with
  | (hf, row, entry) :: l =>
    match descOf s j.dst.handle with
    | none => (false, s.mvFail c stSTALE (j.failAt j.wpos) 0)
    | some d =>
      let (layer, frame) := d.frame (d.splane + hf / 16)
      if !mvFed s c j then (false, s.unfed c)
      else
      let (went, s) := s.mvSend c (.mover c 0) .write false layer frame [⟨hf % 16, row, entry, fullMask⟩] j.tid (j.cap s j.dst.handle).1 2
      (false, s.cond went fun s => (s.job c fun j => { j with scs := l }).mvWait c .scaleWrite j.pos 32)
  | [] =>
    let left := j.wend - j.wpos
    let p := epPiece s j.dst j.wpos left
    let n := match j.dst.kind with
      | 0 => p.len
      | 1 => extLen s j.dst j.wpos left
      | _ => min left (512 - (j.dst.addr + j.wpos) % 512)
    let need := if convMode s j = 2 then n * fmtWidth (epFmt s j j.src) / fmtWidth (epFmt s j j.dst) else n
    if j.op ≠ 2 ∧ !j.zero ∧ j.stgN < need ∧ j.rpos < j.rend then s.xferRead c j
    else if !mvFed s c j then (false, s.unfed c)
    else if j.dst.kind = 2 then
      if !tagRoom s then (false, s)
      else
        let (v, s) := s.xferData c j n 0 0
        let s := s.job c fun j => { j with rem := j.rem + 1, wpos := j.wpos + n, chunk := j.chunk - 1, accs := j.accs + 1 }
        (true, s.sendBwr (.data c (j.failAt j.wpos)) j.dst.dev j.dst.win (j.dst.addr + j.wpos) n v (some j.tid) (some c))
    else
      let (v, t) := s.xferData c j n p.hframe p.num
      let (went, t) := if j.dst.kind = 1 then t.extWrite c j j.dst j.wpos n v .write
        else t.mvPiece c j j.dst.handle p j.wop v .write j.wpos
      if went then (false, t.job c fun j => { j with wpos := j.wpos + n })
      else (false, s.held t c)
/-- A transfer is under way. -/
def MvJob.busy (j : MvJob) : Bool := decide (j.wpos < j.wend) || j.scs != []

/-! ### Notifies (R289, R290) -/

/-- The notify of a descriptor sent (R289, R290, R390). -/
def State.sendNtfy (s : State) (c : Nat) (j : MvJob) (cls : Nat) : State :=
  let dev := bits (j.d 14) 31 26
  let w := bits (j.d 14) 15 8
  let fen := bit (j.d 12) 27
  let (t, s) := s.openTag (.ntfy c) dev 3 (some j.tid)
  let pk := { newPacket s 3 cls dev with
    etag := t, h2 := b2n (bit (j.d 14) 25) * 2 ^ 31 + bits (j.d 14) 24 22 * 2 ^ 28 + bits (j.d 14) 21 16 * 2 ^ 22,
    h3 := bits (j.d 15) 31 24 * 2 ^ 24 + bits (j.d 15) 23 10 * 2 ^ 10,
    h4 := if fen then 2 ^ 31 + w else 0, h5 := if fen then sentCount s dev w else 0 }
  s.sendData pk (some j.tid) (some c)
/-- The descriptor has nothing more to issue; an early notify follows its last remote write at once, on the same class: the token class
for a DISPATCH or RETURN (R290). The end waits while that notify has to (R434). -/
def State.mvOver (s : State) (c : Nat) (j : MvJob) : State :=
  let early := !j.scrub && bit (j.d 12) 29 && bit (j.d 12) 28 && j.status == 0
  if early && !tagRoom s then s
  else
  let s := s.job c fun j => { j with ended := true }
  s.cond early fun s =>
    (s.sendNtfy c j (b2n (decide (8 ≤ j.op)))).job c fun j => { j with acted := 2, rem := j.rem + 1 }

/-! ### Slots of the token router (R297 to R302) -/

/-- The handle frame and row of line k of a slot, with its handle; none where the ring has no live handle. -/
def slotLine (s : State) (ring slot k : Nat) : Option (Nat × Piece) :=
  let h := ringGet s ring SYNC_RING_RCFG0_HANDLE
  (liveDesc s h (ringGet s ring SYNC_RING_RCFG0_GEN)).map fun d =>
    let l := ringLine s ring + slot * slotLines s ring + k
    let (layer, frame) := d.frame (l / 16)
    (h, { hframe := l / 16, layer, frame, col := false, line := true, num := l % 16, byte := 512 * (l % 16), len := 512 })
/-- The check of R85 on the ring's handle for an access to a slot, in group G3 under the channel's core (R78, R79). -/
def slotRefused (s : State) (c : Nat) (j : MvJob) (ring : Nat) (op : AccOp) : Nat :=
  handleCheck s c j (ringGet s ring SYNC_RING_RCFG0_HANDLE) (ringGet s ring SYNC_RING_RCFG0_GEN)
    (match op with | .read => 0 | _ => 1)
/-- An access to the first `n` bytes of line k of a slot. -/
def State.slotAccess (s : State) (c : Nat) (j : MvJob) (ring slot k n data : Nat) (op : AccOp) (want : Want) : Bool × State :=
  let st := slotRefused s c j ring op
  match (if st = stOK then slotLine s ring slot k else none) with
  | none => (false, s.mvReject c j (ringGet s ring SYNC_RING_RCFG0_HANDLE) (ringGet s ring SYNC_RING_RCFG0_GEN)
      (if st = stOK then stSTALE else st) j.item)
  | some (h, p) => (false, (s.mvPiece c j h (if n = 512 then p else { p with line := false, len := n }) op data want j.item).2)

/-- The map entry that an append goes through: none where it fails its item with BOUNDS (R298, R303). -/
def mapEntry (s : State) (reg idx limit : Nat) : Option (Nat ⊕ Nat) :=
  if limit ≤ idx then none
  else
    let w := (s.rd (pgMOVER + reg + 4 * idx)).toNat
    if !bit w 31 then none
    else if bit w 30 then (if s.cfg.links = 0 then none else some (.inr (bits w 29 24)))
    else some (.inl (bits w 23 16))
/-- The ticket of an append (R297). -/
def ticketOf (s : State) (token rank gate expert bstep : Nat) (mark : Bool) : Nat :=
  let origin := if s.cfg.links = 0 then 0 else devAddr s
  (origin * 2 ^ 18 + rank * 2 ^ 16 + token % 2 ^ 16) + gate * 2 ^ 32 + (expert * 2 ^ 16 + bstep) * 2 ^ 64 + b2n mark * 2 ^ 96
/-- The append that the running item of a DISPATCH or RETURN makes: its map entry, its ticket, and whether it carries a vector. -/
def appendOf (s : State) (j : MvJob) : Option (Nat ⊕ Nat) × Nat × Bool :=
  if j.op = 9 then (mapEntry s MOVER_RETMAP (bits j.entry 23 18) 64, j.entry, true)
  else
    let bstep := bits j.param 31 16
    if 4 * j.count ≤ j.item then
      let e := j.item - 4 * j.count
      (mapEntry s MOVER_EXPMAP e 256, ticketOf s (Sp.get 0 j.sentTo e) 0 0 e bstep true, false)
    else
      let r := j.item % 4
      let e := bits j.entry (16 * r + 15) (16 * r)
      (mapEntry s MOVER_EXPMAP e 256, ticketOf s (j.item / 4) r (bits j.entry (64 + 32 * r + 31) (64 + 32 * r)) e bstep false, true)

/-! ### The stages of a descriptor -/

/-- The stage after an append has completed. -/
def State.appended (s : State) (c : Nat) (j : MvJob) : State :=
  if j.op = 9 then s.job c fun j => { j with sub := 7, slot2 := none, mark := none, resv := 0 }
  else
    let e := bits j.entry (16 * (j.item % 4) + 15) (16 * (j.item % 4))
    s.job c fun j => { j with
      sentTo := if j.item < 4 * j.count then Sp.set j.sentTo e (Sp.get 0 j.sentTo e + 1) else j.sentTo,
      item := j.item + 1, slot2 := none, deadline := none, mark := none,
      resv := if (j.item + 1) % 4 = 0 then 0 else j.resv,
      sub := if 4 * j.count ≤ j.item then 8 else if (j.item + 1) % 4 = 0 then 0 else 2 }
/-- The marker ticket that a failed append leaves in the slot it took (R299). -/
def deadTicket (s : State) : Nat := ticketOf s 0 0 0 0 0 true

/-- An access that the movers of channel c's core issued before a split number. -/
def coreAccess (c mark : Nat) (a : Access) : Bool :=
  (match a.src with | .mover k _ => k / 2 == c / 2 | _ => false) && decide (a.seq < mark)
/-- Writes of a core's movers that were issued before a split number have not settled (R325). -/
def coreWrites (s : State) (c mark : Nat) : Bool :=
  s.hub.flight.any fun a => coreAccess c mark a && !a.isRead && (a.loc == .pool || a.loc == .rim || (a.loc == .half && a.status != stPOISON))
/-- A slot filled by a D engine: the writes counted can no longer be undone (R325, R348, R354). -/
def State.coreFill (s : State) (c mark ring slot : Nat) : State := (s.landed (coreAccess c mark)).fillSlot ring slot
/-- The slot of a local append that failed becomes full, with its marker; then the descriptor ends. -/
def State.slotDead (s : State) (c mark : Nat) (j : MvJob) : State :=
  let (ring, k) := j.slot2.getD (0, 0)
  (s.coreFill c mark ring k).job c fun j => { j with ended := true, slot2 := none }
/-- The lines, the ticket and the fill of a local append that has taken its slot; the fill follows the earlier
writes of the core's movers (R325). Stage 6 writes the marker of one that failed, once its slot is empty; a slot that stays full to its
ring's timeout stays so (log entry 28). -/
def State.appendStep (s : State) (c : Nat) (j : MvJob) : Bool × State :=
  let (ring, k) := j.slot2.getD (0, 0)
  let (_, ticket, vector) := appendOf s j
  match j.sub with
  | 4 =>
    let n := j.stgN / 512
    if vector && decide (n < j.vlines) then
      s.slotAccess c j ring k n 512 (j.vec / 2 ^ (4096 * n) % 2 ^ 4096) .write .write
    else (true, s.job c fun j => { j with sub := 5, stgN := 0 })
  | 5 => match j.mark with
    | none => s.slotAccess c j ring k j.vlines 32 ticket .write .ticket
    | some m => if coreWrites s c m then (false, s) else (true, (s.coreFill c m ring k).appended c j)
  | _ => match j.mark with
    | some m => if coreWrites s c m then (false, s) else (false, s.slotDead c m j)
    | none =>
    if !ringOn s ring then (false, s.appendFail c j.status j.fail)
    else if j.deadline.isSome ∧ tagFull s ring k then
      (false, if j.deadline.any fun d => decide (d ≤ s.now) then s.appendFail c j.status j.fail else s)
    else if slotRefused s c j ring .write ≠ stOK then (true, s.job c fun j => { j with mark := some s.hub.seqCtr })
    else s.slotAccess c j ring k j.vlines 32 (deadTicket s) .write .summary
/-- One step of the running descriptor of channel c, which has started and has no access outstanding. Answers whether another step
can follow at once. -/
def State.mvStep (s : State) (c : Nat) (j : MvJob) : Bool × State :=
  let go := fun (f : MvJob → MvJob) => (true, s.job c f)
  let slots := j.vlines
  match j.op with
  | 0 => (false, s.mvOver c j)
  | 1 | 2 | 3 => if j.busy then s.xferStep c j else (false, s.mvOver c j)
  | 4 | 5 =>
    if j.sub = 1 then (if j.busy then s.xferStep c j else go fun j => { j with sub := 0, item := j.item + 1, zero := false })
    else if j.count ≤ j.item then (false, s.mvOver c j)
    else match j.idx with
      | [] =>
        let h := bits j.param 31 23
        let at_ := 32 * bits j.param 14 0 + 4 * j.item
        let n := min (4 * (j.count - j.item)) (32 - at_ % 32)
        let st := handleCheck s c j h (bits j.param 22 15) 0
        let e : Ep := { epOf 0 0 0 with handle := h, addr := at_ }
        let st := if st = stOK ∧ (h = 0 ∨ !epFits s e n) then stBOUNDS else st
        if st ≠ stOK then (false, s.mvReject c j h (bits j.param 22 15) st j.item)
        else (false, (s.mvPiece c j h { epPiece s e 0 n with len := n, line := false } .read 0 .index j.item).2)
      | i :: l =>
        let u := j.unit
        if i = 0xFFFFFFFF then
          if j.op = 5 then go fun j => { j with idx := l, item := j.item + 1 }
          else if 512 ≤ u ∧ !j.dst.onLine then (false, s.mvFail c stBOUNDS j.item 0)
          else go fun j => { j with idx := l, sub := 1, zero := true, rpos := 0, rend := 0, wpos := j.item * u, wend := (j.item + 1) * u }
        else
          let e := if j.op = 4 then j.src else j.dst
          let aligned := u < 512 || (j.src.onLine && j.dst.onLine)
          if !aligned ∨ (e.kind = 2 ∧ 2 ^ 29 < e.addr + (i + 1) * u) then (false, s.mvFail c stBOUNDS j.item 0)
          else if e.kind = 0 ∧ !epFits s e ((i + 1) * u) then (false, s.mvReject c j e.handle e.gen stBOUNDS j.item)
          else
            let r := if j.op = 4 then i else j.item
            let w := if j.op = 4 then j.item else i
            go fun j => { j with idx := l, sub := 1, rpos := r * u, rend := (r + 1) * u, wpos := w * u, wend := (w + 1) * u }
  | 6 =>
    if j.sub = 0 then
      if j.rpos < j.rend then
        let p := epPiece s j.src j.rpos (j.rend - j.rpos)
        let (went, s) := s.mvPiece c j j.src.handle p .read 0 .data j.rpos
        (false, s.cond went fun s => s.job c fun j => { j with
          rpos := j.rpos + p.len, sum := if j.accs = 1 then j.sum.set 5 s.now else j.sum })
      else if j.scrub then (false, s.mvOver c j)
      else go fun j => { j with sub := 1, stg := packElems 32 j.sum, stgN := 32, wpos := 0, wend := 32 }
    else if j.busy then s.xferStep c j else (false, s.mvOver c j)
  | 7 =>
    if j.stgN < 64 then s.xferRead c j
    else
      let q := j.param % 4
      if 16 ≤ (raqOf s q).recs.length then (false, s.job c fun j => { j with wait := 6 })
      else (false, ((s.pushRec q (elems 32 16 j.stg) (some c)).2).mvOver c j)
  | 8 =>
    match j.sub with
    | 0 =>
      if j.count ≤ j.item / 4 then
        go fun j => { j with sub := 8, item := 4 * j.count }
      else
        let p := epPiece s j.dst (32 * (j.item / 4) + j.stgN) (32 - j.stgN)
        let n := min (32 - j.stgN) (512 - p.byte % 512)
        (false, (s.mvPiece c j j.dst.handle { p with len := if j.dst.col then p.len else n, line := false } .read 0 .entry j.item).2)
    | 1 =>
      if j.resv = 0 then
        if stageRoom s c (512 * slots) then go fun j => { j with resv := 512 * slots } else (false, s.waitStage c)
      else if j.stgN < 512 * slots then s.xferRead c j
      else go fun j => { j with sub := 2, vec := j.stg, stg := 0, stgN := 0 }
    | 2 =>
      let r := j.item % 4
      let e := bits j.entry (16 * r + 15) (16 * r)
      if bits j.param 14 13 < r then go fun j => { j with item := 4 * (j.item / 4 + 1), sub := 0, resv := 0 }
      else if e = 0xFFFF then
        go fun j => { j with
          item := j.item + 1, sub := if (j.item + 1) % 4 = 0 then 0 else 2, resv := if (j.item + 1) % 4 = 0 then 0 else j.resv }
      else go fun j => { j with sub := 3 }
    | 8 =>
      let e := j.item - 4 * j.count
      if !bit j.param 15 ∨ 256 ≤ e then (false, s.mvOver c j)
      else if (s.rd (pgMOVER + MOVER_EXPMAP + 4 * e)).toNat.testBit 31 then go fun j => { j with sub := 3 }
      else go fun j => { j with item := j.item + 1 }
    | 4 | 5 | 6 => s.appendStep c j
    | _ => (false, s)
  | 9 | 10 =>
    let ring := bits j.param 7 0
    match j.sub with
    | 0 =>
      if j.count ≤ j.item then (false, s.mvOver c j)
      else if !ringOn s ring ∨ slotLines s ring < slots + 1 then
        (false, s.mvFail c (if j.slot.isSome ∧ !ringOn s ring then stDISABLED else stBOUNDS) j.item 0)
      else
        let (k, s) := match j.slot with
          | some (_, k) => (k, s)
          | none => s.takeCursor ring false
        let s := s.job c fun j => { j with slot := some (ring, k), deadline := some (j.deadline.getD (slotDeadline s ring)) }
        if tagFull s ring k then (true, s.job c fun j => { j with sub := 1, deadline := none, wait := 0 })
        else if (j.deadline.getD (slotDeadline s ring)) ≤ s.now then (false, s.mvFail c stTIMEOUT j.item 0)
        else (false, s.job c fun j => { j with wait := 4 })
    | 1 => s.slotAccess c j ring (j.slot.map (·.2) |>.getD 0) slots 32 0 .read .ticket
    | 2 =>
      let k := (j.slot.map (·.2)).getD 0
      if j.op = 9 ∧ j.resv = 0 then
        if stageRoom s c (512 * slots) then go fun j => { j with resv := 512 * slots } else (false, s.waitStage c)
      else if j.op = 9 then
        if j.stgN < 512 * slots then s.slotAccess c j ring k (j.stgN / 512) 512 0 .read .vector
        else go fun j => { j with sub := 3, vec := j.stg, stg := 0, stgN := 0 }
      else if j.busy then
        if j.stgN = 0 ∧ !stageRoom s c 512 then (false, s.waitStage c)
        else if j.stgN = 0 then s.slotAccess c j ring k ((512 * slots - (j.wend - j.wpos)) / 512) 512 0 .read .vector
        else
          let p := epPiece s j.dst j.wpos (min (j.wend - j.wpos) j.stgN)
          let (went, t) := s.mvPiece c j j.dst.handle p j.wop (j.stg % 256 ^ p.len) .write j.item
          (false, if went then (t.unstage c p.len).job c fun j => { j with wpos := j.wpos + p.len } else t)
      else go fun j => { j with sub := 7 }
    | 4 | 5 | 6 => s.appendStep c j
    | 7 =>
      if j.rem ≠ 0 then (false, s)
      else
        let s := match j.slot with
          | some (r, k) => s.emptySlot r k
          | none => s
        (true, s.job c fun j => { j with sub := 0, item := j.item + 1, slot := none, deadline := none })
    | _ => (false, s)
  | _ => (false, s.mvOver c j)
/-- A ring is disabled: the appends, and the slot reads of RETURN and COMBINE, that are parked on it complete with DISABLED (R334). -/
def State.dropAppends (s : State) (ring : Nat) : State :=
  s.each (List.range 16) fun s c => match (chanOf s c).jobs with
    | [] => s
    | j :: _ =>
      let on := fun (x : Option (Nat × Nat)) => (x.map (·.1)) == some ring
      s.cond (j.started && !j.ended && ((j.sub == 3 && on j.slot2) || (decide (9 ≤ j.op) && j.sub == 0 && on j.slot))) fun s =>
        s.appendFail c stDISABLED j.item

end Sys2Proof.Machine
end

