-- ==== Sys2Proof/Machine/WinOps.lean ====
section
/-! DEFINITION. What an arriving packet does (spec/14_remote_access.md R414 to R436): the receive buffers, windows and credit
channels, the parts of a write, tokens, notifies, fences and acknowledgements. -/
namespace Sys2Proof.Machine

/-! ### Windows and channels -/

/-- A field of window w; of credit channel c. -/
def winGet (s : State) (w : Nat) (f : Fld) : Nat := s.get (winBase w) (f.at 16 (w % 128))
def State.winPut (s : State) (w : Nat) (f : Fld) (v : Nat) : State := s.put (winBase w) (f.at 16 (w % 128)) v
def cchGet (s : State) (c : Nat) (f : Fld) : Nat := s.get pgWINCCH (f.at 16 c)
def State.cchPut (s : State) (c : Nat) (f : Fld) (v : Nat) : State := s.put pgWINCCH (f.at 16 c) v
/-- State of a window: 0 CLOSED, 1 OPEN, 2 CLOSING; of a channel: 0 DISABLED, 1 ENABLED, 2 DRAINING. -/
def winState (s : State) (w : Nat) : Nat := winGet s w WINDOW_TAB_WIN_CFG0_STATE
def cchState (s : State) (c : Nat) : Nat := cchGet s c WINDOW_CCH_CCH_STAT_STATE
/-- Bit d of a pair of mask registers. -/
def pairBit (s : State) (lo d : Nat) : Bool := bit (s.rd (pgWINCTL + lo + 4 * (d / 32))).toNat (d % 32)
/-- Group G6 may write under a descriptor (R77). -/
def remoteWrite (d : Desc) : Bool := d.grants 6 1
/-- Landed-write counter of a window and source (R420). -/
def landedOf (s : State) (w src : Nat) : Nat := Sp.get 0 s.win.landed (64 * w + src)
/-- A bulk write has settled. -/
def State.settled (s : State) (w src : Nat) : State :=
  s.wnu fun u => { u with landed := Sp.set u.landed (64 * w + src) ((landedOf s w src + 1) % 2 ^ 32) }
/-- A fence of a packet is met: none, or the counter has reached its count modulo 2^32 (R431, R433). -/
def fenceMet (s : State) (pk : Packet) : Bool :=
  !bit pk.h4 31 || decide ((landedOf s (pk.h4 % 256) pk.src + 2 ^ 32 - pk.h5 % 2 ^ 32) % 2 ^ 32 < 2 ^ 31)

/-! ### Acknowledgements (R434) -/

/-- The gathered entries of a source sent as one LACK. -/
def State.sendLack (s : State) (src : Nat) : State :=
  let (tags, _) := Sp.get ([], 0) s.link.lacks src
  let tid := (s.link.lackTid.find? fun e => e.1 == src).map (·.2)
  let s := s.lnk fun l => { l with lacks := Sp.del l.lacks src, lackTid := Sp.del l.lackTid src }
  let h := fun k => tags.getD (2 * k) 0 + 2 ^ 16 * tags.getD (2 * k + 1) 0
  s.cond (tags != []) fun s => s.sendResp { newPacket s 8 2 src with
    h2 := h 0, h3 := h 1, h4 := h 2, h5 := h 3, h6 := tags.length } tid
/-- An entry for a source gathered; the eighth sends them. A packet with tag 0 expects no answer. The LACK is charged to the TID of the first
write that it answers (R486; DESIGN CHOICE, log entry 28). -/
def State.lack (s : State) (src etag : Nat) (tid : Option Nat := none) : State :=
  if etag = 0 then s
  else
    let (tags, t) := Sp.get ([], s.now) s.link.lacks src
    let s := s.cond (tags == []) fun s => match tid with
      | some t => s.lnk fun l => { l with lackTid := Sp.set l.lackTid src t }
      | none => s
    let s := s.lnk fun l => { l with lacks := Sp.set l.lacks src (tags ++ [etag], t) }
    s.cond (decide (8 ≤ tags.length + 1)) fun s => s.sendLack src
/-- The cause that a part's status makes (R419, R435). -/
def nakOf (st : Nat) : Nat :=
  if st = stPOISON then 9 else if st = stASLEEP then 7 else if st = stDISABLED then 0xA else if st = stPARKED then 2 else 8
/-- The first of two statuses in the order of R153. -/
def firstStatus (a b : Nat) : Nat := if a = stPARKED ∨ b = stPARKED then stPARKED else worst a b

/-! ### Parts of a write (R415, R419) -/

/-- Parts of `n` bytes at a handle offset: one row line, or segment writes of at most 64 bytes cut at multiples of 64. -/
def cutParts (off n data : Nat) : List (Nat × Nat × Nat) :=
  if off % 512 = 0 ∧ n = 512 then [(off, 512, data % 2 ^ 4096)]
  else
    let first := off / 64
    let last := (off + n - 1) / 64
    (List.range (last - first + 1)).map fun k =>
      let lo := max off (64 * (first + k))
      let hi := min (off + n) (64 * (first + k + 1))
      (lo, hi - lo, data / 256 ^ (lo - off) % 256 ^ (hi - lo))
/-- Arrivals under a TID stop: it is of class BE or MT in EMERGENCY (R496). -/
def tidStopped (s : State) (t : Nat) : Bool := emergency s && decide (2 ≤ tidClass s t)
/-- A part sent into the Hub as a write of group G6: refused where its rim cannot be reached, not sent where its TID is stopped, or its
share or its sector pool is full. -/
def State.sendPart (s : State) (a : Arrival) (part : Nat × Nat × Nat) : Bool × State :=
  let (off, n, data) := part
  let src := Src.remote a.id 0
  match descOf s a.handle with
  | none => (true, s.answerNow src stFAULT)
  | some d =>
    let (layer, frame) := d.frame (off / 8192)
    let line := decide (n = 512)
    let segs := if line then cutLine false (off % 8192 / 512) data else cutSegs (off % 8192) n data
    let x : Access := {
      seq := 0, src := src, op := .write, line := line, layer := layer, frame := frame, segs := segs, tid := a.tid,
      step := a.step, obs := 300 + a.pk.src, wide := 4, stream := none, born := s.pcNow, bornD := s.pcDev,
      policy := a.policy, loc := .pool, status := stOK, pmask := 0, pk := 4,
      source := if a.inp < 4 then 72 + a.inp else 77, mcast := 0 }
    if parked s then (true, s.answerNow src stPARKED)
    else if tidStopped s a.tid then (false, s)
    else s.sendAccess x
/-- An arrival changed, or taken out. -/
def State.setArr (s : State) (id : Nat) (f : Arrival → Option Arrival) : State :=
  s.wnu fun u => { u with arr := u.arr.filterMap fun a => if a.id = id then f a else some a }
/-- The parts of an arrival sent in order while there is room; with the last, its flits leave the receive buffer. -/
def State.sendParts (s : State) (id : Nat) : Nat → State
  | 0 => s
  | fuel + 1 =>
    match s.win.arr.find? fun a => a.id == id with
    | none => s
    | some a =>
      match a.parts with
      | [] => s
      | part :: rest =>
        match s.sendPart a part with
        | (false, s) => s
        | (true, s) =>
          let s := s.setArr id fun a => some { a with parts := rest, go := a.go + 1 }
          (s.cond (rest == []) fun s => s.freeRx a.inp a.pk).sendParts id fuel
/-- A write that has passed its checks: it is accepted, under its handle's POWER and its TID's STEP as they stand (R86, R93). -/
def State.arrivalIn (s : State) (inp : Nat) (pk : Packet) (tid handle off n : Nat) (token : Option Nat) : State :=
  let id := s.win.next
  let a : Arrival := ⟨id, pk, tid, inp, handle, cutParts off n (pk.data / 256 ^ (off % 32)), 0, stOK, token, false, s.hub.accCtr,
    ((descOf s handle).map (·.power)).getD 0, tidStep s tid⟩
  let s := s.hubf fun h => { h with accCtr := h.accCtr + 1 }
  (s.wnu fun u => { u with next := id + 1, arr := u.arr ++ [a] }).sendParts id 32
/-- Writes of a source on a class that have arrived and not landed (R358). -/
def earlier (s : State) (src cls : Nat) : List Nat :=
  (s.win.arr.filter fun a => a.pk.src == src && a.pk.cls == cls).map (·.id)
/-- A settled arrival leaves: a bulk write is counted and answered, a token's write leaves its outcome with the token. -/
def State.arrDone (s : State) (a : Arrival) : State :=
  let s := s.setArr a.id fun _ => none
  match a.token with
  | some t => s.cond (a.status != stOK) fun s => s.wnu fun u => { u with tokens := u.tokens.map fun k =>
      if k.id = t ∧ k.bad = none then { k with bad := some (nakOf a.status), before := k.before ++ earlier s a.pk.src 1 } else k }
  | none =>
    if a.lost then s
    else
    let s := s.settled (a.pk.h2 % 256) a.pk.src
    if a.status = stOK then s.lack a.pk.src a.pk.etag (some a.tid) else s.nakTo (nakOf a.status) a.pk (some a.tid)
/-- The outcomes of parts taken from the Hub. -/
def State.pullParts (s : State) : State :=
  let mine := fun (x : Answer) => match x.src with
    | .remote .. => true
    | _ => false
  let got := s.hub.answers.filter mine
  let s := s.hubf fun h => { h with answers := h.answers.filter fun x => !mine x }
  let s := s.each got fun s x => match x.src with
    | .remote id _ => s.setArr id fun a => some { a with go := a.go - 1, status := firstStatus a.status x.status }
    | _ => s
  s.each (s.win.arr.filter fun a => a.parts == [] && a.go == 0) State.arrDone

/-! ### Bulk writes (R418, R419) -/

/-- R414: the cause with which every write and notify is refused. -/
def shutCause (s : State) : Option Nat :=
  if !s.flag pgWINCTL WINDOW_CTL_WCTL_EN then some 1 else if parked s then some 2 else none
/-- The checks of R418: the first cause, if any. -/
def bwrCheck (s : State) (pk : Packet) : Option Nat :=
  let w := pk.h2 % 256
  let off := pk.h3 % 2 ^ 29
  let n := pk.h4 % 512 + 1
  match shutCause s with
  | some c => some c
  | none =>
    if winState s w ≠ 1 then some 3
    else if !pairBit s (WINDOW_CTL_SMASK + 8 * winGet s w WINDOW_TAB_WIN_CFG1_MSEL) pk.src then some 4
    else if 512 * (winGet s w WINDOW_TAB_WIN_CFG2_LINES_M1 + 1) < off + n then some 5
    else if !(descOf s (winGet s w WINDOW_TAB_WIN_CFG0_HANDLE)).any remoteWrite then some 6
    else none
/-- Source code of what arrives on a link port (R100). -/
def inSource (inp : Nat) : Nat := if inp < 4 then 72 + inp else 77
/-- A bulk write at the head of its buffer, with the rejection count of R100 where the rights of its handle refuse it: none where it waits for its TID's share, or its TID is stopped
(R415, R496). -/
def bwrTake (s : State) (inp : Nat) (pk : Packet) : Option State :=
  let w := pk.h2 % 256
  match bwrCheck s pk with
  | some c =>
    let s := (s.bumpSat (winBase w) (WINDOW_TAB_WIN_CFG3_DROPS.at 16 (w % 128))).settled w pk.src
    let s := s.cond (c == 6) fun s =>
      s.reject (inSource inp) (winGet s w WINDOW_TAB_WIN_CFG0_HANDLE) (winGet s w WINDOW_TAB_WIN_CFG0_GEN) stRIGHTS
    some ((s.nakTo c pk (some (winGet s w WINDOW_TAB_WIN_CFG0_TID))).freeRx inp pk)
  | none =>
    let tid := winGet s w WINDOW_TAB_WIN_CFG0_TID
    if shareFull s tid || tidStopped s tid then none
    else
      let base := 512 * winGet s w WINDOW_TAB_WIN_CFG1_BASE
      some (s.arrivalIn inp pk tid (winGet s w WINDOW_TAB_WIN_CFG0_HANDLE) (base + pk.h3 % 2 ^ 29) (pk.h4 % 512 + 1) none)

/-! ### Tokens (R423 to R427) -/

/-- The enabled channel of a token write (R423). -/
def cchOf (s : State) (pk : Packet) : Option Nat :=
  (List.range 64).find? fun c => cchState s c == 1 && cchGet s c WINDOW_CCH_CCH_CFG_SDEV == pk.src &&
    cchGet s c WINDOW_CCH_CCH_CFG_SACCT == bits pk.h2 31 26
/-- A CGRANT of n to the sender of a channel (R424, R425), charged to the channel's TID (DESIGN CHOICE, log entry 28). -/
def State.grant (s : State) (c n : Nat) : State :=
  let dev := cchGet s c WINDOW_CCH_CCH_CFG_SDEV
  s.sendResp { newPacket s 10 2 dev with h2 := cchGet s c WINDOW_CCH_CCH_CFG_SACCT * 2 ^ 26 + n % 2 ^ 16 }
    (some (cchGet s c WINDOW_CCH_CCH_CFG_TID))
/-- A token refused at its first packet: its remaining packets are discarded (R427). -/
def State.tokenRefused (s : State) (cause : Nat) (pk : Packet) : State :=
  let s := s.nakTo cause pk
  s.cond (!bit pk.h2 18) fun s => s.wnu fun u => { u with skip := (pk.src, bits pk.h2 31 26) :: u.skip }
/-- The first packet of a token: its checks, its credit and its slot. -/
def State.tokenFirst (s : State) (pk : Packet) : State :=
  match shutCause s with
  | some c => s.tokenRefused c pk
  | none =>
    match cchOf s pk with
    | none => s.tokenRefused 0x10 pk
    | some c =>
      let ring := cchGet s c WINDOW_CCH_CCH_CFG_RING
      if cchGet s c WINDOW_CCH_CCH_STAT_OUTST = 0 then s.tokenRefused 0x11 pk
      else if !ringOn s ring then s.tokenRefused 0x10 pk
      else if tagFull s ring (ringGet s ring SYNC_RING_RCUR_PCUR) then (s.tokenRefused 0x12 pk).grant c 1
      else
        let (k, s) := s.takeCursor ring true
        let s := s.drop pgWINCCH (WINDOW_CCH_CCH_STAT_OUTST.at 16 c)
        s.wnu fun u => { u with
          next := u.next + 1, tokens := u.tokens ++ [⟨u.next, c, bits pk.h2 31 26, cchGet s c WINDOW_CCH_CCH_CFG_TID, pk.src, pk.etag, ring, k, false, none, [], false⟩] }
def State.setToken (s : State) (id : Nat) (f : Token → Token) : State :=
  s.wnu fun u => { u with tokens := u.tokens.map fun t => if t.id = id then f t else t }
/-- The check of R85 on the ring's handle for a line of a token, in group G6 (R67, R77, R78): a ring whose handle has been retired, or
installed anew, takes no line. The spec names no NAK cause for it; the model answers FAULT (DESIGN CHOICE, log entry 61). -/
def tokenRefusal (s : State) (t : Token) : Nat :=
  match liveDesc s (ringGet s t.ring SYNC_RING_RCFG0_HANDLE) (ringGet s t.ring SYNC_RING_RCFG0_GEN) with
  | none => stSTALE
  | some d =>
    if remoteWrite d then stOK else stRIGHTS
/-- A packet of a token at the head of its buffer: none where it waits for its TID's share, or its TID is stopped (R415, R496). -/
def twrTake (s : State) (inp : Nat) (pk : Packet) : Option State :=
  let key := (pk.src, bits pk.h2 31 26)
  let first := bit pk.h2 19
  let done := fun (s : State) => some (s.freeRx inp pk)
  if !first ∧ s.win.skip.contains key then
    done (s.cond (bit pk.h2 18) fun s => s.wnu fun u => { u with skip := u.skip.filter (· != key) })
  else
    let fresh := if first then (s.wnu fun u => { u with skip := u.skip.filter (· != key) }).tokenFirst pk else s
    match tokenOf fresh pk with
    | none => done fresh
    | some t =>
      let mark := fun (s : State) (bad : Option Nat) => s.setToken t.id fun t => { t with
        last := bit pk.h2 18, bad := if t.bad.isSome then t.bad else bad,
        before := earlier s pk.src 1 }
      let line := bits pk.h2 25 20
      if t.bad.isSome then done (mark fresh none)
      else if slotLines fresh t.ring ≤ line then done (mark fresh (some 5))
      else if tokenRefusal fresh t ≠ stOK then
        done (mark (fresh.reject (inSource inp) (ringGet fresh t.ring SYNC_RING_RCFG0_HANDLE)
          (ringGet fresh t.ring SYNC_RING_RCFG0_GEN) (tokenRefusal fresh t)) (some (nakOf (tokenRefusal fresh t))))
      else if shareFull s t.tid || tidStopped s t.tid then none
      else
        let l := ringLine fresh t.ring + t.slot * slotLines fresh t.ring + line
        some (mark (fresh.arrivalIn inp pk t.tid (ringGet fresh t.ring SYNC_RING_RCFG0_HANDLE) (512 * l) (pk.h4 % 512 + 1) (some t.id)) none)

/-! ### Notifies and barrier arrivals (R431, R433) -/

/-- The checks of R431: the first cause, if any. -/
def ntfyCheck (s : State) (pk : Packet) : Option Nat :=
  let ring := bits pk.h3 31 24
  let good := if bit pk.h2 31 then ringOn s ring && decide (bits pk.h3 23 10 < ringSlots s ring) else decide (bits pk.h2 27 22 ≤ 47)
  match shutCause s with
  | some c => some c
  | none =>
    if !pairBit s WINDOW_CTL_NTFY_MASK pk.src then some 4
    else if !good then some 0x18
    else if 64 ≤ s.win.fences.length then some 0x1A
    else none
/-- A packet placed in the fence table. -/
def State.holdFence (s : State) (pk : Packet) : State :=
  s.wnu fun u => { u with fences := u.fences ++ [⟨pk, s.now, if pk.ptype = 3 then earlier s pk.src pk.cls else []⟩] }
/-- A notify at the head of its buffer. -/
def ntfyTake (s : State) (pk : Packet) : State :=
  match ntfyCheck s pk with
  | some c => s.nakTo c pk
  | none => s.holdFence pk
/-- The manager counts a device's arrival, and releases its own waiters where the phase ends for it (R337). -/
def State.countBarr (s : State) (pk : Packet) : State :=
  let n := pk.h2 % 64
  let (mine, s) := s.devArrive n pk.src (bits pk.h2 11 8)
  s.cond mine fun s => (s.domRelease n).barRun n 4096
/-- A BARR for a barrier not enabled with DOMAIN 1, of another phase, or at a device that is not the manager, is discarded. -/
def barrGood (s : State) (pk : Packet) : Bool :=
  let n := pk.h2 % 64
  isManager s && barOn s n && barGet s n SYNC_BAR_BCFG_DOMAIN == 1 && barGet s n SYNC_BAR_BSTAT_PHASE % 16 == bits pk.h2 11 8
/-- A BARR at the head of its buffer: none where it waits for room in the fence table. -/
def barrTake (s : State) (pk : Packet) : Option State :=
  if !barrGood s pk then some (s.bumpSat pgWINCTL WINDOW_CTL_BAR_DISC_COUNT)
  else if fenceMet s pk then some (s.countBarr pk)
  else if 64 ≤ s.win.fences.length then none
  else some (s.holdFence pk)

/-! ### Packets that are always consumed -/

/-- RESP and CTRL packets other than BARR (R337, R338, R410, R430, R434, R436). A packet of the time exchange holds in its data the stamp of
its reception. -/
def State.takeResp (s : State) (pk : Packet) : State :=
  let n := pk.h2 % 64
  match pk.ptype with
  | 5 => s.cond (awaitsRelease s n && barGet s n SYNC_BAR_BSTAT_PHASE % 16 == bits pk.h2 11 8) fun s => (s.domRelease n).barRun n 4096
  | 6 => s.barAbort n
  | 8 =>
    let tags := elems 16 8 (pk.h2 % 2 ^ 32 + 2 ^ 32 * (pk.h3 % 2 ^ 32) + 2 ^ 64 * (pk.h4 % 2 ^ 32) + 2 ^ 96 * (pk.h5 % 2 ^ 32))
    s.each (tags.take (pk.h6 % 16)) fun s t => s.closeTag t none
  | 9 => s.closeTag pk.etag (some (pk.h2 % 256))
  | 10 =>
    let a := bits pk.h2 31 26
    if s.flag pgMOVER (MOVER_CA_CFG_VALID.at 8 a) && s.get pgMOVER (MOVER_CA_CFG_DEV.at 8 a) == pk.src then
      s.bumpSat pgMOVER (MOVER_CA_CRED_CREDITS.at 8 a) (pk.h2 % 2 ^ 16)
    else s.bumpSat pgWINCTL WINDOW_CTL_GRANT_DISC_COUNT
  | 12 => s.cond (isManager s) fun s => s.sendResp { newPacket s 13 3 pk.src with
      h2 := pk.data % 2 ^ 32, h3 := pk.data / 2 ^ 32 % 2 ^ 32 }
  | 13 =>
    match s.link.ts with
    | some (t1, _) =>
      let t2 := pk.h2 % 2 ^ 32 + 2 ^ 32 * (pk.h3 % 2 ^ 32)
      let t3 := pk.h4 % 2 ^ 32 + 2 ^ 32 * (pk.h5 % 2 ^ 32)
      (s.put64 (pgLINK + LINK_DT_OFS_LO) (pgLINK + LINK_DT_OFS_HI) (dtOffset t1 t2 t3 pk.data)).lnk fun l => { l with ts := none }
    | none => s
  | _ => s

/-! ### The receive buffers (R392, R395, R415) -/

/-- A packet at the head of its buffer taken: none where it waits. -/
def takeHead (s : State) (inp : Nat) (pk : Packet) : Option State :=
  if s.win.arr.any fun a => a.inp == inp && a.pk.lane == pk.lane && a.parts != [] then none
  else match pk.ptype with
    | 1 => bwrTake s inp pk
    | 2 => twrTake s inp pk
    | 3 => some ((ntfyTake s pk).freeRx inp pk)
    | 4 => (barrTake s pk).map fun s => s.freeRx inp pk
    | _ => some ((s.takeResp pk).freeRx inp pk)
/-- The TID whose queue share a packet at the head of its buffer waits for (R204, R415). -/
def shareOf (s : State) (pk : Packet) : Option Nat :=
  let tid := if pk.ptype = 1 ∧ bwrCheck s pk = none then some (winGet s (pk.h2 % 256) WINDOW_TAB_WIN_CFG0_TID)
    else if pk.ptype = 2 then (tokenOf s pk).map (·.tid) else none
  tid.filter fun t => shareFull s t
/-- The first packet of its lane in a list. -/
def laneHeads (q : List Packet) : List Packet :=
  (List.range 8).filterMap fun k => q.find? fun pk => pk.lane % 8 == k
/-- The buffers of a port emptied as far as they can be. -/
def State.rxRun (s : State) (p : Nat) : Nat → State
  | 0 => s
  | fuel + 1 =>
    match (laneHeads (lkPort s p).rxq).findSome? fun pk => (takeHead s p pk).map fun t => (pk, t) with
    | none => s
    | some (pk, s) => (s.lport p fun l => { l with rxq := l.rxq.erase pk }).rxRun p fuel
/-- Registry records that wait are sent while tags are free (R422, R434). -/
def State.sendRecords (s : State) : Nat → State
  | 0 => s
  | fuel + 1 =>
    match s.win.records with
    | [] => s
    | (off, data) :: rest =>
      if !tagRoom s then s
      else
        let s := s.wnu fun u => { u with records := rest }
        (s.sendBwr .other 0 (s.get pgWINCTL WINDOW_CTL_REG_CFG_RWIN) off 32 data none).sendRecords fuel
/-- The window unit's work that can be done now: outcomes taken, parts sent, buffers emptied, records sent. -/
def State.winRun (s : State) : State :=
  if s.cfg.links = 0 then s
  else
    let s := s.pullParts
    let s := s.each (s.win.arr.map (·.id)) fun s id => s.sendParts id 32
    let s := s.pullParts
    let s := s.each (List.range 5) fun s p => s.rxRun p ((lkPort s p).rxq.length)
    let s := s.pullParts.sendRecords s.win.records.length
    s.wnu fun u => { u with
      held := ((List.range 5).flatMap fun p => (laneHeads (lkPort s p).rxq).filterMap (shareOf s)).eraseDups }

end Sys2Proof.Machine
end

