-- ==== Sys2Proof/Machine/Handle.lean ====
section
/-! DEFINITION. The handle commands (spec/03_handles.md R87 to R99). -/
namespace Sys2Proof.Machine

/-- RESULT codes of R97. -/
def hrOK : Nat := 0
def hrBAD_FIELD : Nat := 1
def hrRANGE : Nat := 2
def hrOVERLAP : Nat := 3
def hrNOT_FREE : Nat := 4
def hrNOT_LIVE : Nat := 5
def hrHANDLE0 : Nat := 6
def hrCACHE : Nat := 7
def hrWINDOW_OPEN : Nat := 8

/-- The staged descriptor (R69). -/
def stagedDesc (s : State) : Desc :=
  let g := fun (f : Fld) => s.get pgHCMD f
  let w := fun (o : Nat) => (s.rd (pgHCMD + o)).toNat
  { power := g HANDLE_CMD_SDESC0_POWER, baseLayer := g HANDLE_CMD_SDESC0_BASE_LAYER, baseFrame := g HANDLE_CMD_SDESC0_BASE_FRAME,
    trow := g HANDLE_CMD_SDESC1_TROW, extentM1 := g HANDLE_CMD_SDESC1_EXTENT_M1, splane := g HANDLE_CMD_SDESC2_SPLANE,
    format := g HANDLE_CMD_SDESC2_FORMAT, ovf := g HANDLE_CMD_SDESC2_OVF == 1, sround := g HANDLE_CMD_SDESC2_SROUND == 1,
    clsD := g HANDLE_CMD_SDESC2_CLASS == 1, linear := g HANDLE_CMD_SDESC2_LINEAR == 1, winOk := g HANDLE_CMD_SDESC2_WIN_OK == 1,
    tidlock := g HANDLE_CMD_SDESC2_TIDLOCK == 1, owner := g HANDLE_CMD_SDESC2_OWNER_TID, cores := g HANDLE_CMD_SDESC3_CORES,
    rights := g HANDLE_CMD_SDESC3_RIGHTS,
    tag := w HANDLE_CMD_SDESC4 + 2 ^ 32 * w HANDLE_CMD_SDESC5 + 2 ^ 64 * w HANDLE_CMD_SDESC6 + 2 ^ 96 * w HANDLE_CMD_SDESC7 }
/-- Word n of a descriptor, with a generation (R69). -/
def Desc.word (d : Desc) (gen n : Nat) : Nat :=
  match n with
  | 0 => gen * 2 ^ 24 + d.power * 2 ^ 17 + d.baseLayer * 2 ^ 14 + d.baseFrame
  | 1 => d.trow * 2 ^ 16 + d.extentM1
  | 2 => d.splane * 2 ^ 16 + d.format * 2 ^ 12 + b2n d.ovf * 2 ^ 11 + b2n d.sround * 2 ^ 10 + b2n d.clsD * 2 ^ 9 +
      b2n d.linear * 2 ^ 8 + b2n d.winOk * 2 ^ 7 + b2n d.tidlock * 2 ^ 6 + d.owner
  | 3 => d.cores * 2 ^ 24 + d.rights
  | _ => d.tag / 2 ^ (32 * (n - 4)) % 2 ^ 32

/-- The field checks of an INSTALL (R89). -/
def fieldsBad (s : State) (d : Desc) : Bool :=
  decide (13 ≤ d.format) ||
  (if isMX d.format then d.splane == 0 || decide (d.extentM1 + 1 < d.splane + (d.splane + 15) / 16) else d.splane != 0) ||
  decide (d.extentM1 + 1 < d.trow) || (d.winOk && s.cfg.links == 0)
/-- The range check of an INSTALL. -/
def rangeBad (s : State) (d : Desc) : Bool :=
  decide (s.cfg.dies ≤ d.baseLayer) || decide (framesIn d.baseLayer ≤ d.baseFrame) || decide (gpEnd s.cfg ≤ d.span.hi)
/-- A frame of a descriptor lies in a section in cache mode. -/
def cacheBad (s : State) (d : Desc) : Bool := (cacheSections s).any fun k => (sectionSpan k).meets d.span
/-- The lowest LIVE or DRAINING handle that shares a frame. -/
def overlapWith (s : State) (d : Desc) : Option Nat := (s.handles.find? fun e => e.2.span.meets d.span).map (·.1)
/-- An OPEN or CLOSING window names the handle. -/
def windowOn (s : State) (h : Nat) : Bool :=
  s.cfg.links != 0 && (List.range 256).any fun w => winState s w != 0 && winGet s w WINDOW_TAB_WIN_CFG0_HANDLE == h
/-- A MODIFY changes a field that R88 does not list. -/
def modifyBad (s : State) (old new : Desc) : Bool :=
  let kept : Desc := { new with
    power := old.power, owner := old.owner, tidlock := old.tidlock, cores := old.cores, rights := old.rights,
    ovf := old.ovf, sround := old.sround, winOk := old.winOk, tag := old.tag }
  kept != old || (new.winOk && s.cfg.links == 0)

/-- The RESULT of a command's checks (R89, R91). -/
def hcmdCheck (s : State) (op h : Nat) (ovchk : Bool) : Nat :=
  let d := stagedDesc s
  match op with
  | 1 =>
    if h = 0 then hrHANDLE0
    else if handleState s h ≠ 0 then hrNOT_FREE
    else if fieldsBad s d then hrBAD_FIELD
    else if rangeBad s d then hrRANGE
    else if cacheBad s d then hrCACHE
    else if ovchk && (overlapWith s d).isSome then hrOVERLAP
    else hrOK
  | 2 | 3 | 4 =>
    if h = 0 then hrHANDLE0
    else if handleState s h ≠ 1 then hrNOT_LIVE
    else match descOf s h with
      | none => hrNOT_LIVE
      | some old =>
        if op = 2 ∧ modifyBad s old d then hrBAD_FIELD
        else if ((op = 2 ∧ old.winOk ∧ !d.winOk) ∨ op = 3) ∧ windowOn s h then hrWINDOW_OPEN
        else hrOK
  | 5 => hrOK
  | _ => hrBAD_FIELD

/-- A command ends (R87): BUSY falls with its RESULT and the handle's generation. -/
def State.hcmdEnd (s : State) (h result : Nat) : State :=
  let s := (s.put pgHCMD HANDLE_CMD_HCMD_STAT_BUSY 0).put pgHCMD HANDLE_CMD_HCMD_STAT_RESULT result
  let s := s.put pgHCMD HANDLE_CMD_HCMD_STAT_GEN (handleGen s h)
  { s.put pgHSTATE (HANDLE_STATE_HSTATE_CMD.at 4 h) 0 with hcmd := none }
/-- A command starts. -/
def State.hcmdStart (s : State) (op h : Nat) (iclear : Bool) (d : Desc) : State :=
  let s := (s.put pgHCMD HANDLE_CMD_HCMD_STAT_BUSY 1).put pgHSTATE (HANDLE_STATE_HSTATE_CMD.at 4 h) 1
  { s with hcmd := some ⟨op, h, 0, iclear, d, s.hub.accCtr⟩ }
/-- READ (R88, R99). -/
def State.hcmdRead (s : State) (h : Nat) : State :=
  let s := s.each (List.range 8) fun s n =>
    s.wr (pgHREAD + HANDLE_READ_RDESC0 + 4 * n) (BitVec.ofNat 32 (((descOf s h).map fun d => d.word (handleGen s h) n).getD 0))
  let s := s.put pgHREAD HANDLE_READ_RD_HANDLE_GEN (handleGen s h)
  (s.put pgHREAD HANDLE_READ_RD_HANDLE_HANDLE h).hcmdEnd h hrOK
/-- HCMD with the fields of a word (R97). -/
def State.hcmdFields (s : State) (w : Word32) : State :=
  [HANDLE_CMD_HCMD_OP, HANDLE_CMD_HCMD_OVCHK, HANDLE_CMD_HCMD_ICLEAR, HANDLE_CMD_HCMD_HANDLE].foldl
    (fun s f => s.put pgHCMD f (f.of w)) s
/-- A command is checked, and starts or is refused (R87 to R91). OVL_WITH keeps its value until a command ends with OVERLAP (DESIGN
CHOICE, log entry 57). -/
def State.hcmdGo (s : State) (m : Master) (op h : Nat) (ovchk iclear : Bool) : State :=
  let d := stagedDesc s
  match hcmdCheck s op h ovchk with
  | 0 =>
    match op with
    | 1 => (s.dropScales h).hcmdStart 1 h iclear d
    | 2 =>
      let s := (s.hcmdStart 2 h iclear d)
      ({ s with handles := Sp.set s.handles h d } : State).wakeUnpermitted d
    | 3 =>
      let s := ((s.dropScales h).hcmdStart 3 h iclear d)
      s.put pgHSTATE (HANDLE_STATE_HSTATE_STATE.at 4 h) 2
    | 4 => (s.dropScales h).hcmdStart 4 h iclear d
    | _ => s.hcmdRead h
  | r =>
    let s := s.cond (r == hrOVERLAP) fun s => s.put pgHCMD HANDLE_CMD_HCMD_STAT_OVL_WITH ((overlapWith s d).getD 0)
    (s.hcmdEnd h r).refused m pgHCMD HANDLE_CMD_HCMD
/-- A write of HCMD (R87, R97). -/
def hcmdWrite (m : Master) (w : Word32) (s : State) : State :=
  s.gate m pgHCMD HANDLE_CMD_HCMD true fun s =>
    if s.hcmd.isSome then (s.put pgHCMD HANDLE_CMD_HCMD_STAT_OVERRUN 1).refused m pgHCMD HANDLE_CMD_HCMD
    else
      let op := HANDLE_CMD_HCMD_OP.of w
      let s := s.hcmdFields w
      if op = 0 then s
      else s.hcmdGo m op (HANDLE_CMD_HCMD_HANDLE.of w) (HANDLE_CMD_HCMD_OVCHK.of w == 1) (HANDLE_CMD_HCMD_ICLEAR.of w == 1)
/-- HCMD with an OP, a handle and the options of INSTALL. -/
def hcmdWord (op h : Nat) (ovchk iclear : Bool) : Word32 :=
  BitVec.ofNat 32 (op * 2 ^ 28 + b2n ovchk * 2 ^ 11 + b2n iclear * 2 ^ 10 + h % 512)
/-- INSTALL (R88, R89). -/
def execHandleInstall (m : Master) (h : Nat) (ovchk iclear : Bool) (s : State) : Res := .next (hcmdWrite m (hcmdWord 1 h ovchk iclear) s)
/-- MODIFY (R88, R91). -/
def execHandleModify (m : Master) (h : Nat) (s : State) : Res := .next (hcmdWrite m (hcmdWord 2 h false false) s)
/-- RETIRE (R88, R91, R94). -/
def execHandleRetire (m : Master) (h : Nat) (s : State) : Res := .next (hcmdWrite m (hcmdWord 3 h false false) s)
/-- CLEAR (R88, R91). -/
def execHandleClear (m : Master) (h : Nat) (s : State) : Res := .next (hcmdWrite m (hcmdWord 4 h false false) s)
/-- READ (R88, R99). -/
def execHandleRead (m : Master) (h : Nat) (s : State) : Res := .next (hcmdWrite m (hcmdWord 5 h false false) s)

/-- Stage 2 of an INSTALL ends: the class map holds the handle's class (R76, R92). -/
def execInstallClassMapDone (s : State) : Res :=
  match s.hcmd with
  | some c =>
    if c.op ≠ 1 ∨ c.stage ≠ 0 then .next s
    else
      let s := s.arr fun a => { a with
        cls := (c.desc.span, c.desc.clsD) :: a.cls, clear := some ⟨c.desc.span, c.iclear, c.desc.clsD, a.cls⟩ }
      .next { s with hcmd := some { c with stage := 1 } }
  | none => .next s
/-- Frames of a descriptor cleared, between two accesses of each rim, with the charge to its owner (R56, R93, R448, R485). -/
def State.clearHandle (s : State) (d : Desc) (want : Nat → Nat → Bool) : State :=
  let n := ((List.range (d.extentM1 + 1)).filter fun k => want (d.frame k).1 (d.frame k).2).length
  let s := s.each d.rims fun s x => s.settle x.1 x.2
  (s.clearFrames (frameHit s want)).energy 1 n d.owner
/-- The last stage of an INSTALL ends: the frames are clear and the handle is LIVE (R68, R92). -/
def execInstallDone (s : State) : Res :=
  match s.hcmd, s.array.clear with
  | some c, some j =>
    if c.op ≠ 1 ∨ c.stage ≠ 1 then .next s
    else
      let s := s.clearHandle c.desc fun layer f => j.span.has layer f && (j.all || classOf j.old layer f != j.cls)
      let s := s.arr fun a => { a with clear := none }
      let s := (s.bump pgHSTATE (HANDLE_STATE_HSTATE_GEN.at 4 c.handle)).put pgHSTATE (HANDLE_STATE_HSTATE_STATE.at 4 c.handle) 1
      let s : State := { s with handles := Sp.set s.handles c.handle c.desc }
      .next ((s.wakeUnpermitted c.desc).hcmdEnd c.handle hrOK)
  | _, _ => .next s
/-- A CLEAR has reached the last frame. -/
def execClearDone (s : State) : Res :=
  match s.hcmd with
  | some c =>
    if c.op ≠ 4 then .next s
    else match descOf s c.handle with
      | none => .next s
      | some d => .next ((s.clearHandle d fun layer f => d.span.has layer f).hcmdEnd c.handle hrOK)
  | none => .next s

/-- A mover descriptor that has started uses a handle: as an endpoint, an index list, or the handle of a ring it works on. -/
def MvJob.uses (s : State) (h : Nat) (j : MvJob) : Bool :=
  let ring := fun (r : Option (Nat × Nat)) => match r with
    | some (i, _) => ringGet s i SYNC_RING_RCFG0_HANDLE == h
    | none => false
  j.started && (j.src.kind == 0 && j.src.handle == h || j.dst.kind == 0 && j.dst.handle == h ||
    (j.op == 4 || j.op == 5) && bits j.param 31 23 == h || ring j.slot || ring j.slot2)
/-- A request accepted under a handle before an acceptance number has not completed (R88, R95, R241). -/
def underHandle (s : State) (h before : Nat) : Bool :=
  (s.ports.any fun p => p.2.txns.any fun t => t.atHub && t.req.form != 3 && t.req.handle == h && decide (t.acc < before)) ||
    recordUses s h before || (s.chans.any fun c => (c.2.jobs.any fun j => j.uses s h && decide (j.acc < before)) ||
      (c.2.fetch.isSome && c.2.fetchOf.1 == h && decide (c.2.fetchOf.2 < before)) ||
      c.2.recOut.any fun r => r.1 == h && decide (r.2 < before)) ||
    (s.win.arr.any fun a => a.handle == h && decide (a.acc < before)) ||
    s.fw.load.any fun l => l.out && l.under.any fun u => u.1 == h && decide (u.2 < before)
/-- Every rim of a descriptor is in a state that its policy permits. -/
def rimsSettled (s : State) (d : Desc) : Bool :=
  d.rims.all fun x =>
    let p := physOf s x.1 x.2
    let st := rimPower s x.1 p
    p == 31 || st == 5 || ((st == 0 || st == 2 || st == 3) && policyPermits d.power st)
/-- A MODIFY ends (R88). -/
def execModifyDone (s : State) : Res :=
  match s.hcmd with
  | some c => if c.op ≠ 2 ∨ underHandle s c.handle c.before ∨ !rimsSettled s c.desc then .next s else .next (s.hcmdEnd c.handle hrOK)
  | none => .next s
/-- Every request accepted under a retired handle has completed: it is FREE (R88, R95). -/
def execHandleFreed (s : State) : Res :=
  match s.hcmd with
  | some c =>
    if c.op ≠ 3 ∨ underHandle s c.handle s.hub.accCtr then .next s
    else
      let s := s.put pgHSTATE (HANDLE_STATE_HSTATE_STATE.at 4 c.handle) 0
      .next (({ s with handles := Sp.del s.handles c.handle } : State).hcmdEnd c.handle hrOK)
  | none => .next s

end Sys2Proof.Machine
end

