-- ==== Sys2Proof/Machine/Crypto.lean ====
section
/-! DEFINITION. The two standards that firmware and service tokens are checked by (spec/17_control_and_firmware.md R517,
spec/19_test.md R558): SHA-256 of FIPS 180-4, and verification of ECDSA with curve P-256 of FIPS 186-5. The spec names them and
does not restate them: PRESUMED (log entry 32). -/
namespace Sys2Proof.Machine

/-! ### SHA-256 -/

/-- The 64 round constants. -/
def shaK : List Nat :=
  [0x428A2F98, 0x71374491, 0xB5C0FBCF, 0xE9B5DBA5, 0x3956C25B, 0x59F111F1, 0x923F82A4, 0xAB1C5ED5] ++
  [0xD807AA98, 0x12835B01, 0x243185BE, 0x550C7DC3, 0x72BE5D74, 0x80DEB1FE, 0x9BDC06A7, 0xC19BF174] ++
  [0xE49B69C1, 0xEFBE4786, 0x0FC19DC6, 0x240CA1CC, 0x2DE92C6F, 0x4A7484AA, 0x5CB0A9DC, 0x76F988DA] ++
  [0x983E5152, 0xA831C66D, 0xB00327C8, 0xBF597FC7, 0xC6E00BF3, 0xD5A79147, 0x06CA6351, 0x14292967] ++
  [0x27B70A85, 0x2E1B2138, 0x4D2C6DFC, 0x53380D13, 0x650A7354, 0x766A0ABB, 0x81C2C92E, 0x92722C85] ++
  [0xA2BFE8A1, 0xA81A664B, 0xC24B8B70, 0xC76C51A3, 0xD192E819, 0xD6990624, 0xF40E3585, 0x106AA070] ++
  [0x19A4C116, 0x1E376C08, 0x2748774C, 0x34B0BCB5, 0x391C0CB3, 0x4ED8AA4A, 0x5B9CCA4F, 0x682E6FF3] ++
  [0x748F82EE, 0x78A5636F, 0x84C87814, 0x8CC70208, 0x90BEFFFA, 0xA4506CEB, 0xBEF9A3F7, 0xC67178F2]
/-- The initial hash value. -/
def shaH0 : List Nat := [0x6A09E667, 0xBB67AE85, 0x3C6EF372, 0xA54FF53A,
  0x510E527F, 0x9B05688C, 0x1F83D9AB, 0x5BE0CD19]
/-- A 32-bit rotation to the right. -/
def rotr (x n : Nat) : Nat := (x >>> n) ||| (x % 2 ^ n * 2 ^ (32 - n))
/-- Sixteen message words become 64. -/
def shaSchedule (w : List Nat) : List Nat :=
  (List.range 48).foldl (fun w k =>
    let t := 16 + k
    let a := w.getD (t - 15) 0
    let b := w.getD (t - 2) 0
    let s0 := rotr a 7 ^^^ rotr a 18 ^^^ (a >>> 3)
    let s1 := rotr b 17 ^^^ rotr b 19 ^^^ (b >>> 10)
    w ++ [(w.getD (t - 16) 0 + s0 + w.getD (t - 7) 0 + s1) % 2 ^ 32]) w
/-- One round on a to h. -/
def shaRound (v : List Nat) (kw : Nat) : List Nat :=
  match v with
  | [a, b, c, d, e, f, g, h] =>
    let s1 := rotr e 6 ^^^ rotr e 11 ^^^ rotr e 25
    let ch := (e &&& f) ^^^ ((e ^^^ 0xFFFFFFFF) &&& g)
    let t1 := h + s1 + ch + kw
    let s0 := rotr a 2 ^^^ rotr a 13 ^^^ rotr a 22
    let mj := (a &&& b) ^^^ (a &&& c) ^^^ (b &&& c)
    [(t1 + s0 + mj) % 2 ^ 32, a, b, c, (d + t1) % 2 ^ 32, e, f, g]
  | _ => v
/-- One block of 64 bytes, given as sixteen words. -/
def shaBlock (h w : List Nat) : List Nat :=
  let v := (shaK.zip (shaSchedule w)).foldl (fun v kw => shaRound v (kw.1 + kw.2)) h
  (h.zip v).map fun x => (x.1 + x.2) % 2 ^ 32
/-- Byte `j` of the padded message of `n` bytes of a little-endian number. -/
def shaByte (x n blocks j : Nat) : Nat :=
  if j < n then bits x (8 * j + 7) (8 * j)
  else if j = n then 0x80
  else if 64 * blocks ≤ j + 8 then bits (8 * n) (8 * (64 * blocks - 1 - j) + 7) (8 * (64 * blocks - 1 - j))
  else 0
/-- SHA-256 of the low `n` bytes of a little-endian number, as the 256-bit number its big-endian bytes spell. -/
def sha256 (x n : Nat) : Nat :=
  let blocks := (n + 72) / 64
  let word := fun (k i : Nat) =>
    (List.range 4).foldl (fun a b => a * 256 + shaByte x n blocks (64 * k + 4 * i + b)) 0
  let h := (List.range blocks).foldl (fun h k => shaBlock h ((List.range 16).map (word k))) shaH0
  h.foldl (fun a w => a * 2 ^ 32 + w) 0

/-! ### ECDSA over P-256 -/

/-- The prime, the coefficient b, the order and the base point of P-256. -/
def p256P : Nat := 2 ^ 256 - 2 ^ 224 + 2 ^ 192 + 2 ^ 96 - 1
def p256B : Nat := 0x5AC635D8AA3A93E7B3EBBD55769886BC651D06B0CC53B0F63BCE3C3E27D2604B
def p256N : Nat := 0xFFFFFFFF00000000FFFFFFFFFFFFFFFFBCE6FAADA7179E84F3B9CAC2FC632551
def p256G : Nat × Nat :=
  (0x6B17D1F2E12C4247F8BCE6E563A440F277037D812DEB33A0F4A13945D898C296,
   0x4FE342E2FE1A7F9B8EE7EB4A7C0F9E162BCE33576B315ECECBB6406837BF51F5)
/-- a ^ e modulo m, for e below 2 ^ 256. -/
def powMod (a e m : Nat) : Nat :=
  (List.range 256).foldl (fun r k => let r := r * r % m; if e.testBit (255 - k) then r * a % m else r) 1
/-- The inverse of a number modulo a prime. -/
def invMod (a m : Nat) : Nat := powMod (a % m) (m - 2) m
/-- A difference modulo m, of numbers below m. -/
def subMod (a b m : Nat) : Nat := (a + m - b) % m
/-- The sum of two points of the curve; `none` is the point at infinity. -/
def ecAdd : Option (Nat × Nat) → Option (Nat × Nat) → Option (Nat × Nat)
  | none, q => q
  | p, none => p
  | some (x1, y1), some (x2, y2) =>
    let p := p256P
    if x1 = x2 ∧ (y1 ≠ y2 ∨ y1 = 0) then none
    else
      let l := if x1 = x2 then (3 * x1 * x1 + p - 3) * invMod (2 * y1) p % p
        else subMod y2 y1 p * invMod (subMod x2 x1 p) p % p
      let x := subMod (l * l % p) ((x1 + x2) % p) p
      some (x, subMod (l * subMod x1 x p % p) y1 p)
/-- A multiple of a point. -/
def ecMul (k : Nat) (q : Option (Nat × Nat)) : Option (Nat × Nat) :=
  (List.range 256).foldl (fun r i => let r := ecAdd r r; if k.testBit (255 - i) then ecAdd r q else r) none
/-- The signature (r, s) verifies for a digest under the public key (x, y). -/
def ecdsaVerify (x y digest r s : Nat) : Bool :=
  let p := p256P
  let n := p256N
  let onCurve := decide (x < p ∧ y < p) && y * y % p == (x * x * x + (p - 3) * x + p256B) % p
  let inRange := decide (1 ≤ r ∧ r < n ∧ 1 ≤ s ∧ s < n)
  let w := invMod s n
  onCurve && inRange &&
    match ecAdd (ecMul (digest * w % n) (some p256G)) (ecMul (r * w % n) (some (x, y))) with
    | some q => q.1 % n == r
    | none => false

/-- The big-endian number of the 32 bytes at an offset of a little-endian number. -/
def be32 (x off : Nat) : Nat :=
  (List.range 32).foldl (fun a k => a * 256 + bits x (8 * (off + k) + 7) (8 * (off + k))) 0

end Sys2Proof.Machine
end

