-- ==== Sys2Proof/Machine/Mover.lean ====
section
/-! DEFINITION. The commands of the movers (spec/09_movers_and_tokens.md): submission words, descriptor reads and starts, the
engines' accesses and their outcomes, energy chunks, router appends, completions with their records, and the master port. -/
namespace Sys2Proof.Machine

/-! ### Submission (R268 to R270, R292, R294) -/

/-- A new CONS reported for a channel (R292): false where it is ignored. -/
def State.ackCons (s : State) (c cons : Nat) : Bool × State :=
  let prod := chGet s c MOVER_CH_CRIDX_PROD
  if ringSize s c < (prod + 2 ^ 16 - cons % 2 ^ 16) % 2 ^ 16 then
    (false, (s.put pgMOVER (MOVER_CH_STAT_CONS_ERR.at 64 c) 1).irq pgMOVER (16 + c))
  else (true, s.put pgMOVER (MOVER_CH_CRIDX_CONS.at 64 c) cons)
/-- A chain or a scrub post reaches a channel: held where it is ENABLED, else rejected with a post-level record (R294). -/
def State.postChain (s : State) (c : Nat) (words : List Nat) (scrub : Bool) : State :=
  let st := chanState s c
  if st = 2 then
    let s := s.chan c fun h => { h with chains := h.chains ++ [⟨s.hub.accCtr, scrub, words, 0⟩] }
    s.hubf fun h => { h with accCtr := h.accCtr + 1 }
  else
    let h : Chain := ⟨s.hub.accCtr, scrub, words, 0⟩
    if scrub then s.scrubLost h.acc
    else s.postRecord c 0 (if st = 5 then stPARKED else stDISABLED) 0 h.ptag h.count
/-- SUB_READY of a channel (R166, R269). -/
def subReady (s : State) (c : Nat) : Bool := chanState s c != 0 && decide ((chanOf s c).chains.length < 16)
/-- A submission word taken by a channel (R268): `em1` says that EM1 wrote it. -/
def State.subTake (s : State) (c : Nat) (words : List Nat) (em1 : Bool) : State :=
  match bits (words.getD 0 0) 31 28 with
  | 0 => s
  | 1 => s.postChain c words false
  | 2 => (s.ackCons c (words.getD 1 0 % 2 ^ 16)).2
  | 3 => if em1 then s.postChain c words true else s.put pgMOVER (MOVER_CH_STAT_BADSUB.at 64 c) 1
  | _ => s.put pgMOVER (MOVER_CH_STAT_BADSUB.at 64 c) 1
/-- A word offered on SUB whose TYPE is one of a list. -/
def subWord (types : List Nat) (c w0 w1 w2 w3 : Nat) (s : State) : Res :=
  if c < 16 ∧ subReady s c ∧ types.contains (bits w0 31 28) then
    .next (s.subTake c ([w0, w1, w2, w3].map (· % 2 ^ 32)) false)
  else .next s
/-- A NOP word, or one of a reserved TYPE, TYPE 3 on SUB included. -/
def execSubNop (c w0 w1 w2 w3 : Nat) (s : State) : Res :=
  subWord [0, 3, 4, 5, 6, 7, 8, 9, 10, 11, 12, 13, 14, 15] c w0 w1 w2 w3 s
/-- A POST word. -/
def execSubPost (c w0 w1 w2 w3 : Nat) (s : State) : Res := subWord [1] c w0 w1 w2 w3 s
/-- A CPLACK word. -/
def execSubCplack (c w0 w1 w2 w3 : Nat) (s : State) : Res := subWord [2] c w0 w1 w2 w3 s
/-- A scrub post: the four words that EM1 has staged with this last one, written to CHc_POST3. -/
def execSubScrub (m : Master) (c w0 w1 w2 w3 : Nat) (s : State) : Res :=
  let c := c % 16
  if bits w0 31 28 ≠ 3 then .next s
  else .next (s.gate m pgMOVER (MOVER_CH_POST3 + 64 * c) false fun s =>
    s.cond (subReady s c) fun s => s.subTake c ([w0, w1, w2, w3].map (· % 2 ^ 32)) (m == .em1))
/-- A write to CHc_POST3 (R270): POST0 to POST2 hold the words before it. One for which SUB_READY is 0 is refused (log entry 26). -/
def execChannelPostWrite (m : Master) (c : Nat) (w3 : Word32) (s : State) : Res :=
  let c := c % 16
  .next (s.gate m pgMOVER (MOVER_CH_POST3 + 64 * c) false fun s =>
    let w := fun (o : Nat) => (s.rd (pgMOVER + o + 64 * c)).toNat
    if subReady s c then s.subTake c [w MOVER_CH_POST0, w MOVER_CH_POST1, w MOVER_CH_POST2, w3.toNat] (m == .em1)
    else s.refused m pgMOVER (MOVER_CH_POST3 + 64 * c))
/-- A write of CHc_CRIDX.CONS (R292). -/
def execCridxConsWrite (m : Master) (c cons : Nat) (s : State) : Res :=
  let c := c % 16
  .next (s.gate m pgMOVER (MOVER_CH_CRIDX + 64 * c) true fun s =>
    match s.ackCons c cons with
    | (true, s) => s
    | (false, s) => s.refused m pgMOVER (MOVER_CH_CRIDX + 64 * c))

/-! ### Descriptor reads (R269) -/

/-- The chain whose descriptor is read next. -/
def nextChain (s : State) (c : Nat) : Option Chain :=
  (chanOf s c).chains.find? fun h => decide (h.next < h.count)
/-- A descriptor joins those read; `none` for one that could not be read, which ends its chain's reads. -/
def State.addJob (s : State) (c : Nat) (acc : Nat) (words : Option (List Nat)) (scrub : Bool) (st : Nat) : State :=
  match (chanOf s c).chains.find? fun h => h.acc == acc with
  | none => s.chan c fun k => { k with fetch := none }
  | some h => s.chan c fun k => { k with
      fetch := none,
      chains := k.chains.map fun g => if g.acc = acc then { g with next := if words.isSome then g.next + 1 else g.count } else g,
      jobs := k.jobs ++ [{ words := words.getD [], chain := acc, scrub := scrub, status := st, item := if words.isSome then 0 else h.next }] }
/-- An acceptance number taken (R88). -/
def State.accept (s : State) : Nat × State := (s.hub.accCtr, s.hubf fun h => { h with accCtr := h.accCtr + 1 })
/-- A channel's descriptor read is in flight, under a handle or none (R88, R95). -/
def State.fetching (s : State) (c acc h : Nat) : State :=
  let (n, s) := s.accept
  s.chan c fun k => { k with fetch := some acc, fetchOf := (h, n) }
/-- The engine reads a descriptor of a posted chain, at most four ahead of the running one. -/
def execDescriptorFetch (c : Nat) (s : State) : Res :=
  let k := chanOf s c
  if 16 ≤ c ∨ chanState s c ≠ 2 ∨ (portOf s (56 + c)).broken ∨ k.fetch.isSome ∨ 5 ≤ k.jobs.length then .next s
  else match nextChain s c with
    | none => .next s
    | some h =>
      let w := fun n => h.words.getD n 0
      if h.scrub then .next (s.addJob c h.acc (some h.words) true 0)
      else
        let tid := chGet s c MOVER_CH_CFG_DTID
        let j : MvJob := { words := [tid * 2 ^ 22], chain := h.acc }
        if bit (w 0) 27 then
          let a := (w 1 / 64 * 64 + bits (w 2) 15 0 * 2 ^ 32 + 64 * h.next) % 2 ^ 48
          let (went, s) := s.extAccess c 1 tid false (bit (w 0) 26) a 64 0
          .next (s.cond went fun s => s.fetching c h.acc 0)
        else
          let e : Ep := { epOf 0 0 0 with handle := bits (w 0) 26 18, gen := bits (w 0) 17 10, addr := bits (w 1) 28 6 * 64 + 64 * h.next }
          let st := handleCheck s c j e.handle e.gen 0
          let st := if st = stOK ∧ (e.handle = 0 ∨ !epFits s e 64) then stBOUNDS else st
          if st ≠ stOK then .next (((s.reject (56 + c) e.handle e.gen st).fetching c h.acc 0).answerNow (.mover c 1) st)
          else
            let p := epPiece s e 0 64
            let (went, s) := s.mvSend c (.mover c 1) .read false p.layer p.frame (cutSegs p.byte 64 0) tid (hPolicy s e.handle) 2
            .next (s.cond went fun s => s.fetching c h.acc e.handle)

/-! ### Starts (R274, R293) -/

/-- The descriptor at the head of a channel starts where it is of an operation: it is checked, and takes an acceptance number and the POWER,
OVF and SROUND of its handles (R88, R274). -/
def startDesc (c op : Nat) (s : State) : Res :=
  match (chanOf s c).jobs with
  | [] => .next s
  | j :: _ =>
    if 16 ≤ c ∨ j.started ∨ j.words = [] ∨ (chanState s c ≠ 2 ∧ chanState s c ≠ 5) ∨ (portOf s (56 + c)).broken ∨ recWait s c ∨
        (if j.op ≤ 10 then j.op else 0) ≠ op then .next s
    else
      let st := mvCheck s c j
      let s := match mvRefused s c j with
        | some (e, st) => s.cond (mvForm s j == stOK) fun s => s.reject (j.source c) e.handle e.gen st
        | none => s
      let caps := s.mvCaps j
      let (acc, s) := s.accept
      let s := s.job c fun j => { j with
        started := true, acc := acc, caps := caps, step := tidStep s j.tid, rend := (walkBytes s j).1, wend := if 4 ≤ j.op then 0 else dstBytes s j }
      let s := s.job c fun j => { j with rend := if j.op = 4 ∨ j.op = 5 ∨ j.op = 8 then 0 else j.rend }
      let s := s.nrg fun e => { e with meter := Sp.del e.meter c }
      .next (if st = stOK then s else s.job c fun j => { j with ended := true, status := st })
/-- A NOP descriptor starts; one of a reserved OP, which the checks refuse, starts with it. -/
def execDescNop (c : Nat) (s : State) : Res := startDesc c 0 s
/-- A COPY descriptor starts (R279, R281). -/
def execDescCopy (c : Nat) (s : State) : Res := startDesc c 1 s
/-- A FILL descriptor starts (R283). -/
def execDescFill (c : Nat) (s : State) : Res := startDesc c 2 s
/-- A REDUCE descriptor starts (R284). -/
def execDescReduce (c : Nat) (s : State) : Res := startDesc c 3 s
/-- A GATHER descriptor starts (R285). -/
def execDescGather (c : Nat) (s : State) : Res := startDesc c 4 s
/-- A SCATTER descriptor starts (R285). -/
def execDescScatter (c : Nat) (s : State) : Res := startDesc c 5 s
/-- A SCRUB descriptor starts (R286). -/
def execDescScrub (c : Nat) (s : State) : Res := startDesc c 6 s
/-- A POSTREC descriptor starts (R287). -/
def execDescPostrec (c : Nat) (s : State) : Res := startDesc c 7 s
/-- A DISPATCH descriptor starts (R300). -/
def execDescDispatch (c : Nat) (s : State) : Res := startDesc c 8 s
/-- A RETURN descriptor starts (R301). -/
def execDescReturn (c : Nat) (s : State) : Res := startDesc c 9 s
/-- A COMBINE descriptor starts (R302). -/
def execDescCombine (c : Nat) (s : State) : Res := startDesc c 10 s

/-! ### Outcomes of accesses -/

/-- The bytes that a read brought. -/
def Answer.value (a : Answer) (n : Nat) : Nat :=
  if a.segs = [] then a.data % 256 ^ n
  else joinSegs a.segs / 256 ^ ((a.segs.head?.map fun x => (maskRun x.mask).1).getD 0) % 256 ^ n
/-- Data of a converting read, converted as it arrives (R281, R114, R115): engine bytes and their count. -/
def convData (s : State) (j : MvJob) (a : Answer) (n : Nat) : Nat × Nat :=
  let sf := epFmt s j j.src
  let df := epFmt s j j.dst
  let out := n * fmtWidth df / fmtWidth sf
  if j.src.kind = 0 then
    let (v, _, _, _) := lensSegs sf df ((j.row.map (·.2)).getD []) 0 0 a.segs
    (v, out)
  else (packElems (fmtWidth df) ((elems (fmtWidth sf) (n * 8 / fmtWidth sf) (a.value n)).map fun c => (readElem sf df c 0).code), out)
/-- A line checked by a SCRUB (R456). -/
def State.scrubLine (s : State) (c : Nat) (j : MvJob) (a : Answer) : State :=
  let bad := (List.range 16).filter (bit a.pmask)
  let g := fun k => j.sum.getD k 0
  let p := epPiece s j.src j.pos (j.count - j.pos)
  let first := match bad with
    | [] => g 7
    | k :: _ =>
      let x := a.segs.getD k ⟨0, 0, 0, 0⟩
      if g 7 = 0x3FFFFFFF then segPta p.layer p.frame x.row x.col else g 7
  s.job c fun j => { j with
    sum := [sat32 (g 0 + a.nval), sat32 (g 1 + a.ncor), sat32 (g 2 + bad.length), sat32 (g 3 + a.ninv),
      sat32 (s.now - g 5), g 5, g 6, first] }

/-- The outcome of a channel's scale-row read reaches the channels of its engine that wait for it (R125, R126, R282). -/
def State.rowShared (s : State) (c st hf : Nat) (row : List Seg) : State :=
  s.each ((List.range 4).map (4 * (c / 4) + ·)) fun s k => match (chanOf s k).jobs with
    | g :: _ => s.cond (g.rowOf == some c) fun s =>
        let s := s.job k fun g => { g with rowOf := none }
        if st = stOK then s.job k fun g => { g with row := some (hf, row) } else s.mvFail k st (g.failAt g.rpos) 0
    | [] => s
/-- The outcome of the outstanding access of the running descriptor. -/
def State.mvAnswer (s : State) (c : Nat) (a : Answer) : State :=
  match (chanOf s c).jobs with
  | [] => s
  | j :: _ =>
    let s := s.job c fun j => { j with out := false, want := .none }
    let st := a.status
    let v := a.value j.len
    let fail := fun (s : State) => s.mvFail c st (j.failAt j.pos) 0
    match j.want with
    | .none => s
    | .scaleRow =>
      let row := a.segs.map (·.data)
      let hf := (epPiece s j.src j.pos (j.rend - j.pos)).hframe
      let s := s.rowShared c st hf row
      if st ≠ stOK then fail s
      else
        let rows := putScale (Sp.get [] s.engScale (c / 4)) ⟨j.src.handle, j.src.gen, hf, row⟩
        let s := s.cond j.keep fun s => { s with engScale := Sp.set s.engScale (c / 4) rows }
        s.job c fun j => { j with row := some (hf, row) }
    | .scaleWrite =>
      if st ≠ stOK then fail s
      else match a.segs with
        | x :: _ =>
          let hf := (epPiece s j.dst j.pos 512).hframe
          let rows := (Sp.get [] s.engScale (c / 4)).map fun e =>
            if e.handle = j.dst.handle ∧ e.gen = j.dst.gen ∧ e.frame = hf then
              { e with row := e.row.set ((epPiece s j.dst j.pos 512).num) x.data } else e
          { s with engScale := Sp.set s.engScale (c / 4) rows }
        | [] => s
    | .data =>
      if j.op = 6 then (if st ≤ stPOISON then s.scrubLine c j a else fail s)
      else if st ≠ stOK then fail s
      else if convMode s j = 1 then
        let (v, n) := convData s j a j.len
        (s.stage c v n).energy 6 (units64 n) j.tid (some c)
      else s.stage c v j.len
    | .index => if st ≠ stOK then fail s else s.job c fun j => { j with idx := elems 32 (j.len / 4) v }
    | .entry =>
      if st ≠ stOK then fail s
      else if j.stgN + j.len < 32 then s.stage c v j.len
      else (s.stage c v j.len).job c fun j => { j with
        entry := j.stg, stg := 0, stgN := 0, sub := 1, rpos := j.item / 4 * j.vlines * 512, rend := (j.item / 4 + 1) * j.vlines * 512 }
    | .vector => if st ≠ stOK then fail s else s.stage c v j.len
    | .write =>
      if j.sub = 4 then (if st ≠ stOK then s.mvFail c st j.item 0 else s.job c fun j => { j with stgN := j.stgN + 512 })
      else if st ≠ stOK then fail s else s
    | .ticket =>
      if j.sub = 1 then
        if st ≠ stOK then fail s
        else
          let off := v % 2 ^ 16 * j.vlines * 512
          if bit v 96 then s.job c fun j => { j with entry := v, sub := 7 }
          else if j.op = 10 then
            if epFits s j.dst (off + 512 * j.vlines) then
              s.job c fun j => { j with entry := v, sub := 2, wpos := off, wend := off + 512 * j.vlines }
            else s.mvReject c j j.dst.handle j.dst.gen stBOUNDS j.item
          else s.job c fun j => { j with entry := v, sub := 2 }
      else if st ≠ stOK then s.mvFail c st j.item 0
      else if j.sub = 6 then s
      else s.job c fun j => { j with mark := some s.hub.seqCtr }
    | .summary => s.job c fun j => { j with mark := some s.hub.seqCtr }

/-- The descriptor at the head of a channel leaves it, and its chain with it where it was the last, or failed (R293, R294). -/
def State.jobLeaves (s : State) (c : Nat) (j : MvJob) : State :=
  let s := s.chan c fun k => { k with jobs := k.jobs.drop 1 }
  match (chanOf s c).chains.find? fun h => h.acc == j.chain with
  | none => s.drainChan c
  | some h =>
    let left := h.count - h.next + ((chanOf s c).jobs.filter fun k => k.chain == j.chain).length
    let s := if j.words = [] then s.dropChain c h (2 ^ 29) j.status 0 (h.count - j.item)
      else if left = 0 then s.chan c fun k => { k with chains := k.chains.filter fun g => g.acc != h.acc }
      else if j.status ≠ 0 then s.dropChain c h (2 ^ 28) j.status j.nak left
      else s
    s.drainChan c
/-- A completion record has landed, or was lost: PROD rises, its interrupt follows (R291, R292), and the descriptor that has waited for it
leaves the channel (R289). -/
def State.recLanded (s : State) (c : Nat) : State :=
  match (chanOf s c).recs with
  | [] => s
  | r :: l =>
    let s := s.chan c fun k => { k with recs := l, recOut := none }
    let s := (s.bump pgMOVER (MOVER_CH_CRIDX_PROD.at 64 c)).cond r.irq fun s => s.irq pgMOVER c
    match (chanOf s c).jobs with
    | j :: _ => s.cond r.head fun s => s.jobLeaves c j
    | [] => s
/-- Every outcome that waits for a channel is taken: its accesses, its descriptor read, its record, and its packets' answers. -/
def State.mvPull (s : State) (c : Nat) : State :=
  let mine := fun (a : Answer) => match a.src with
    | .mover k _ | .engFetch k _ => k == c
    | _ => false
  let got := s.hub.answers.filter mine
  let s := s.hubf fun h => { h with answers := h.answers.filter fun a => !mine a }
  let s := s.each got fun s a => match a.src with
    | .mover _ 1 => match (chanOf s c).fetch with
      | some acc => s.addJob c acc (if a.status = stOK then some (elems 32 16 (a.value 64)) else none) false a.status
      | none => s
    | .mover _ 2 => s.recLanded c
    | _ => s.mvAnswer c a
  let ours := fun (w : SentFor) => match w with
    | .data k _ | .ntfy k => k == c
    | .other => false
  let res := s.link.results.filter fun r => ours r.1
  let s := s.lnk fun l => { l with results := l.results.filter fun r => !ours r.1 }
  s.each res fun s r =>
    let s := s.job c fun j => { j with rem := j.rem - 1 }
    match r.1, r.2 with
    | .data _ pos, some nak => s.mvFail c 11 pos nak
    | .ntfy _, some nak => s.job c fun j => if j.status = 0 then { j with status := 11, nak := nak } else j
    | _, none => s
    | .other, _ => s

/-! ### The engines (R265, R295) -/

/-- The record at the head of a channel's records is written to the completion ring, while the ring has room (R291, R292). -/
def State.recIssue (s : State) (c : Nat) : Bool × State :=
  let k := chanOf s c
  let size := ringSize s c
  let prod := chGet s c MOVER_CH_CRIDX_PROD
  match k.recs with
  | [] => (false, s)
  | r :: _ =>
    if k.recOut.isSome then (false, s)
    else if size = 0 then (false, s.recLanded c)
    else if recFull s c then (false, s)
    else
      let data := packElems 32 r.words + b2n (prod / size % 2 == 0) * 2 ^ 31
      let tid := chGet s c MOVER_CH_CFG_DTID
      let off := 16 * (prod % size)
      let out := fun (h : Nat) (s : State) =>
        let (n, s) := s.accept
        s.chan c fun k => { k with recOut := some (h, n) }
      if chGet s c MOVER_CH_CFG_CR_LOC = 1 then
        let a := (chGet s c MOVER_CH_CRA_ADDR / 16 * 16 + chGet s c MOVER_CH_CRAH_ADDR_HI * 2 ^ 32 + off) % 2 ^ 48
        let (went, s) := s.extAccess c 2 tid true (chGet s c MOVER_CH_CFG_CR_ROUTE != 0) a 16 data
        (went, s.cond went (out 0))
      else
        let e : Ep := { epOf 0 0 0 with
          handle := chGet s c MOVER_CH_CRH_HANDLE, gen := chGet s c MOVER_CH_CRH_GEN, addr := bits (chGet s c MOVER_CH_CRA_ADDR) 28 4 * 16 + off }
        let j : MvJob := { words := [tid * 2 ^ 22], chain := 0 }
        let st := handleCheck s c j e.handle e.gen 1
        let st := if st = stOK ∧ (e.handle = 0 ∨ !epFits s e 16) then stBOUNDS else st
        if st ≠ stOK then (false, (s.reject (56 + c) e.handle e.gen st).recLanded c)
        else
          let p := epPiece s e 0 16
          let (went, s) := s.mvSend c (.mover c 2) .write false p.layer p.frame (cutSegs (e.addr % 8192) 16 data) tid (hPolicy s e.handle) 2
          (went, s.cond went (out e.handle))
/-- The running descriptor can go on: it has started, no access of it is outstanding, and its channel has no record to wait for. What it does
beside accesses waits for no chunk (R288, R290, R295). -/
def mvReady (s : State) (c : Nat) (j : MvJob) : Bool := j.started && !j.ended && !j.out && !recWait s c
/-- Steps of a channel's running descriptor until one issues an access or none can follow. -/
def State.mvRun (s : State) (c : Nat) : Nat → State
  | 0 => s
  | fuel + 1 =>
    match (chanOf s c).jobs with
    | [] => s
    | j :: _ =>
      if mvReady s c j then
        match s.mvStep c j with
        | (true, s) => s.mvRun c fuel
        | (false, s) => s
      else s
/-- An access of the channel is outstanding. -/
def mvOut (s : State) (c : Nat) : Bool := ((chanOf s c).jobs.head?.map (·.out)).getD false
/-- Channels of an engine in the order it serves them, after the one it served last (R265). -/
def engOrder (s : State) (e : Nat) : List Nat :=
  let last := Sp.get 3 s.engRr e
  (List.range 4).map fun k => 4 * e + (last + 1 + k) % 4
/-- One pc of a mover engine: outcomes are taken, then ready accesses of its channels issue, at most two (R265). -/
def execMoverIssue (e : Nat) (s : State) : Res :=
  if 4 ≤ e then .next s
  else
    let order := (engOrder s e).filter fun c => !(portOf s (56 + c)).broken
    let s := s.each order State.mvPull
    .next (order.foldl (fun (acc : Nat × State) c =>
      let (n, s) := acc
      if 2 ≤ n then (n, s)
      else
        let (rec, s) := s.recIssue c
        let n := n + b2n rec
        let before := mvOut s c || decide (2 ≤ n)
        let s := if before then s else s.mvRun c 600
        let n := n + b2n (!before && mvOut s c)
        (n, s.cond (!before && mvOut s c) fun s => { s with engRr := Sp.set s.engRr e (c % 4) })) (0, s)).2
/-- The next chunk of a channel's running descriptor, whose next access waits for it, is admitted or deferred (R295). -/
def execMoverChunkAdmission (c : Nat) (s : State) : Res :=
  match (chanOf s c).jobs with
  | [] => .next s
  | j :: _ => 
    if 16 ≤ c ∨ !j.need ∨ !j.started ∨ j.ended ∨ j.out ∨ j.chunk ≠ 0 ∨ (portOf s (56 + c)).broken ∨ (chunkOf s c).any (fun h => !h.adm) then
      .next s
    else .next (s.mvChunk c j)

/-! ### The token router (R299) -/

/-- The packets of a token: the vector's lines, then the ticket (R299, R426). -/
def State.sendToken (s : State) (c : Nat) (j : MvJob) (account ticket : Nat) (vector : Bool) : State :=
  let dev := s.get pgMOVER (MOVER_CA_CFG_DEV.at 8 account)
  let (t, s) := s.openTag (.data c j.item) dev 2 (some j.tid) ((if vector then j.vlines else 0) + 1)
  let send := fun (s : State) (line n data : Nat) (first last : Bool) => s.sendData { newPacket s 2 1 dev with
    etag := t, h2 := account * 2 ^ 26 + line * 2 ^ 20 + b2n first * 2 ^ 19 + b2n last * 2 ^ 18, h4 := n - 1,
    ndata := flitsOf 0 n, data := data } (some j.tid) (some c)
  let s := s.each (List.range (if vector then j.vlines else 0)) fun s k =>
    send s k 512 (j.vec / 2 ^ (4096 * k) % 2 ^ 4096) (k == 0) false
  send s j.vlines 32 ticket (!vector) true
/-- A router append takes its slot or its credit (R299). -/
def execRouterAppend (c : Nat) (s : State) : Res :=
  match (chanOf s c).jobs with
  | [] => .next s
  | j :: _ =>
    if 16 ≤ c ∨ !mvReady s c j ∨ j.op < 8 ∨ j.sub ≠ 3 ∨ (portOf s (56 + c)).broken then .next s
    else
      let (entry, ticket, vector) := appendOf s j
      match entry with
      | none => .next (s.mvFail c stBOUNDS j.item 0)
      | some (.inl ring) =>
        if !ringOn s ring ∨ slotLines s ring < j.vlines + 1 then
          .next (s.appendFail c (if j.slot2.isSome ∧ !ringOn s ring then stDISABLED else stBOUNDS) j.item)
        else
          let (k, s) := match j.slot2 with
            | some (_, k) => (k, s)
            | none => s.takeCursor ring true
          let dl := j.deadline.getD (slotDeadline s ring)
          let s := s.job c fun j => { j with slot2 := some (ring, k), deadline := some dl }
          if !tagFull s ring k then .next (s.job c fun j => { j with sub := 4, deadline := none, wait := 0, stg := 0, stgN := 0 })
          else if dl ≤ s.now then .next (s.appendFail c stTIMEOUT j.item)
          else .next (s.job c fun j => { j with wait := 4 })
      | some (.inr a) =>
        let cred := MOVER_CA_CRED_CREDITS.at 8 a
        if s.flag pgMOVER (MOVER_CA_CFG_VALID.at 8 a) && s.get pgMOVER cred != 0 then
          let n := (if vector then j.vlines else 0) + 1
          if !tagRoom s n then .next s
          else if !mvFed s c j then .next (s.unfed c)
          else
            let s := s.drop pgMOVER cred
            let s := s.job c fun j => { j with rem := j.rem + 1, wait := 0, chunk := j.chunk - n, accs := j.accs + n }
            .next ((s.sendToken c j a ticket vector).appended c { j with rem := j.rem + 1 })
        else
          let tmo := s.get pgMOVER MOVER_CRED_TMO_TICKS
          .next (s.job c fun j => { j with
            wait := 3, deadline := if tmo = 0 then none else some (j.deadline.getD (s.now + tmo)) })
/-- A remote append has waited for a credit beyond CRED_TMO (R299). -/
def execCreditWaitTimeout (c : Nat) (s : State) : Res :=
  match (chanOf s c).jobs with
  | [] => .next s
  | j :: _ =>
    let remote := match (appendOf s j).1 with | some (.inr _) => true | _ => false
    if j.started && !j.ended && j.op ≥ 8 && j.sub == 3 && remote && (j.deadline.map fun d => decide (d ≤ s.now)).getD false then
      .next (s.mvFail c stTIMEOUT j.item 0)
    else .next s
/-- A write of CAa_CFG.CLR (R304). -/
def execCreditClear (m : Master) (a : Nat) (s : State) : Res :=
  let a := a % 64
  .next (s.gate m pgMOVER (MOVER_CA_CFG + 8 * a) false fun s =>
    s.cond s.cfg.optT fun s => s.put pgMOVER (MOVER_CA_CRED_CREDITS.at 8 a) 0)

/-! ### The master port (R276) -/

/-- A response arrives on the master port: `err` for an error response. A cache line's arrival is a row of its own. -/
def execMasterPortResponse (id : Nat) (err : Bool) (data : Nat) (s : State) : Res :=
  match s.mport.find? fun r => r.id == id with
  | none => .next s
  | some r =>
    let drop := fun (s : State) =>
      ({ s with mport := s.mport.filter fun q => q.id != id } : State).cond err fun s => s.bumpSat pgMOVER MOVER_MP_ERR_COUNT
    let answer := fun (src : Src) (s : State) => s.hubf fun h => { h with
      answers := h.answers ++ [⟨src, if err then 10 else stOK, 0, [], r.value data, 0, 0, 0⟩] }
    match r.src with
    | .fill _ => .next s
    | .wback job | .through job => .next (match s.cache.jobs.find? fun j => j.id == job && j.stage == .land with
      | some j => ((drop s).lineLanded j err (r.value data)).cacheRun
      | none => drop s)
    | .chan c u => .next (answer (.mover c u) (drop s))
    | .image => .next (answer (.firmware r.n) (drop s))

/-! ### Completion (R288 to R293) -/

/-- The summary of a scrub post added into that of its INTEG pass (R454). -/
def State.scrubAdd (s : State) (j : MvJob) : State :=
  let w := fun k => j.sum.getD k 0
  if !s.integ.scrub.any fun p => p.post == j.chain && !p.ended then s
  else
  let s := s.each [0, 1, 2, 3] fun s k => s.bumpSat pgINTEG ((Fld.word INTEG_SCRUB_SUM).at 4 k) (w k)
  let s := s.each [4, 5, 6, 7] fun s k => s.wr (pgINTEG + INTEG_SCRUB_SUM + 4 * k) (BitVec.ofNat 32 (w k))
  { s with integ := { s.integ with scrub := s.integ.scrub.map fun p => { p with ended := true, part := p.part || j.status != 0 } } }
/-- The cache lines of a range of bytes: the first and their count. -/
def rangeLines (x : Nat × Nat) : Nat × Nat := (x.1 / 128, (x.2 - 1) / 128 - x.1 / 128 + 1)
/-- The INVC invalidations of a descriptor are still to be asked for, or not all done (R277, R288, R379). -/
def invWaits (s : State) (j : MvJob) : Bool :=
  s.cfg.optC && j.xr != [] && (s.cache.switch.isSome || (!j.inval && cacheSections s != []) ||
    (j.inval && j.xr.any fun x => copWaits s (rangeLines x).1 (rangeLines x).2))
/-- They are asked for, unless a section switch runs. -/
def State.invAsk (s : State) (c : Nat) (j : MvJob) : State :=
  s.cond (!j.inval && s.cache.switch.isNone) fun s =>
    let s := s.each j.xr fun s x => s.each (linesIn s (rangeLines x).1 (rangeLines x).2) fun s l => s.copAsk l 1
    (s.job c fun j => { j with inval := true }).cacheRun
/-- The descriptor at the head of a channel completes, in the stages of R289: its counter and slot, its notify, and, once that is
answered, its record, with which it leaves once that has landed, and its interrupt. -/
def execDescriptorComplete (c : Nat) (s : State) : Res :=
  if 16 ≤ c then .next s
  else
    let s := s.mvPull c
    match (chanOf s c).jobs with
    | [] => .next s
    | j :: _ =>
      if recWait s c ∨ (portOf s (56 + c)).broken then .next s
      else if j.words = [] then .next ((s.irq pgMOVER (16 + c)).jobLeaves c j)
      else if !j.started ∨ !j.ended ∨ j.out ∨ j.rem ≠ 0 ∨ j.acted = 4 then .next s
      else if j.scrub then
        let s := (s.endChunk c).scrubAdd j
        let s := s.bump pgMOVER (MOVER_CH_DONE_COUNT.at 64 c)
        .next ((s.cond (j.status != 0) fun s => s.irq pgMOVER (16 + c)).jobLeaves c j)
      else
        let w := fun hi lo => bits (j.d 12) hi lo
        let early := w 28 28 = 1 ∧ j.acted = 2
        let first := j.acted = 0 ∨ early
        let fill := first ∧ w 30 30 = 1
        if first ∧ w 24 24 = 1 ∧ invWaits s j then .next (s.invAsk c j)
        else if fill ∧ j.mark = none then .next (s.job c fun j => { j with mark := some s.hub.seqCtr })
        else if fill ∧ coreWrites s c (j.mark.getD 0) then .next s
        else
        let s := s.cond first fun s =>
          let s := s.cond (w 31 31 == 1 && decide (w 23 18 ≤ 47)) fun s => s.ctrOp (48 * (c / 2) + w 23 18) 0 1
          s.cond (w 30 30 == 1) fun s =>
            let ring := bits (j.d 13) 31 24
            let k := bits (j.d 13) 23 10
            s.cond (ringOn s ring && decide (k < ringSlots s ring)) fun s => s.coreFill c (j.mark.getD 0) ring k
        if first ∧ w 29 29 = 1 ∧ !early ∧ s.cfg.links ≠ 0 then
          if tagRoom s then .next ((s.sendNtfy c j 0).job c fun j => { j with acted := 3, rem := j.rem + 1 })
          else .next (s.job c fun j => { j with acted := 1 })
        else if j.acted = 1 then
          .next (s.cond (tagRoom s) fun s => (s.sendNtfy c j 0).job c fun j => { j with acted := 3, rem := j.rem + 1 })
        else
          let size := ringSize s c
          let used := (chGet s c MOVER_CH_CRIDX_PROD + (chanOf s c).recs.length + 2 ^ 16 - chGet s c MOVER_CH_CRIDX_CONS) % 2 ^ 16
          if w 25 25 = 1 ∧ size ≠ 0 ∧ size ≤ used then .next (s.job c fun j => { j with acted := 3, wait := 5 })
          else
            let spent := Sp.get 0 s.energyAcc.meter c
            let s := (s.endChunk c).nrg fun e => { e with meter := Sp.del e.meter c }
            let s := s.cond (j.energy != 0 && decide (j.energy * njUnits < spent)) fun s =>
              s.bumpSat pgMOVER (MOVER_ENG_UNDER_COUNT.at 32 (c / 4))
            let s := s.bump pgMOVER (MOVER_CH_DONE_COUNT.at 64 c)
            let s := s.cond (j.status != 0) fun s =>
              (s.wr (pgMOVER + MOVER_CH_LAST + 64 * c) (BitVec.ofNat 32 (j.seq * 2 ^ 16 + j.status * 2 ^ 8 + j.nak))).irq pgMOVER (16 + c)
            if w 25 25 = 1 ∧ size ≠ 0 then
              .next ((s.record c [j.status * 2 ^ 24 + j.nak * 2 ^ 16 + j.seq, j.fail, s.now % 2 ^ 32,
                j.step % 2 ^ 16 * 2 ^ 16 + j.tid * 2 ^ 10] (w 26 26 == 1) true).job c fun j => { j with acted := 4, wait := 0 })
            else .next ((s.cond (w 26 26 == 1) fun s => s.irq pgMOVER c).jobLeaves c j)

end Sys2Proof.Machine
end

