-- ==== Sys2Proof/Machine/LifeOps.lean ====
section
/-! DEFINITION. The lifetime image (spec/18_observability.md R542 to R546): its bytes, and the retired-rim list. -/
namespace Sys2Proof.Machine

/-- The state with the lifetime records changed. -/
def State.lif (s : State) (f : LifeSt → LifeSt) : State := { s with life := f s.life }
/-- EM0 writes LS registers: a write does nothing while the recorder's domain is off (R531). -/
def State.lsWrite (s : State) (f : State → State) : State := s.cond (domOn s 194) f
/-- `n` bytes of an image, and an image with them replaced. -/
def imgGet (m : List Host.Cell) (off n : Nat) : Nat := Mem.readN m off n
def imgPut (m : List Host.Cell) (off n v : Nat) : List Host.Cell := Mem.writeN m off v n

/-- An entry of the retired-rim list (R546). -/
def retireEntry (time cause layer p : Nat) : Nat :=
  bits time 41 10 * 2 ^ 32 + cause % 256 * 2 ^ 24 + layer * 2 ^ 13 + p * 2 ^ 8 + 1
/-- The layer and physical rim of an entry; none where it is not VALID. -/
def entryRim (e : Nat) : Option (Nat × Nat) := if bit e 0 then some (bits e 15 13, bits e 12 8) else none
/-- The entries of an image's list. -/
def retiredList (m : List Host.Cell) : List Nat := (List.range 64).map fun k => imgGet m (0x240 + 8 * k) 8
/-- An entry added to an image's list: nothing where its rim is listed already, none where the list is full. -/
def addRetired (m : List Host.Cell) (e : Nat) : Option (List Host.Cell) :=
  let l := retiredList m
  if l.any fun x => entryRim x != none && entryRim x == entryRim e then some m
  else match l.findIdx? fun x => entryRim x == none with
    | some k => some (imgPut m (0x240 + 8 * k) 8 e)
    | none => none
/-- A rim that has become PARKED is appended to the list by EM0, or counted where the list is full (R546). -/
def State.listRetired (s : State) (layer p cause : Nat) : State :=
  if !emRuns s 0 then s
  else match addRetired s.life.img (retireEntry s.now cause layer p) with
    | some m => s.lif fun l => { l with img := m }
    | none => s.lsWrite fun s => s.bumpSat pgREC RECORDER_LS_STAT_LISTFULL

end Sys2Proof.Machine
end

