-- ==== Sys2Proof/Machine/Rings.lean ====
section
/-! DEFINITION. The mailbox rings (spec/17_control_and_firmware.md R522 to R526): indices, entries and responses. -/
namespace Sys2Proof.Machine

/-- Index fields of ring r: 0 of CPA, 1 of CPB. -/
def reqProd (s : State) (r : Nat) : Nat := s.get (mboxBase r) MBOX_REQ_PROD_INDEX
def rspCons (s : State) (r : Nat) : Nat := s.get (mboxBase r) MBOX_RSP_CONS_INDEX
def reqCons (s : State) (r : Nat) : Nat := s.get (mboxBase r) MBOX_MB_STAT_REQ_CONS
def rspProd (s : State) (r : Nat) : Nat := s.get (mboxBase r) MBOX_MB_STAT_RSP_PROD
def mbEpoch (s : State) (r : Nat) : Nat := s.get (mboxBase r) MBOX_MB_STAT_EPOCH
/-- A difference of two ring indices. -/
def idxDiff (a b : Nat) : Nat := (a + 256 - b) % 256
/-- Word k of the oldest request that has not been taken. -/
def reqWord (s : State) (r k : Nat) : Nat :=
  (s.rd (mboxBase r + MBOX_REQ_ENTRY + 64 * (reqCons s r % 16) + 4 * k)).toNat
/-- Its TYPE; none where no request waits. -/
def headType (s : State) (r : Nat) : Option Nat := if reqProd s r = reqCons s r then none else some (reqWord s r 0 % 2 ^ 16)
def headSeq (s : State) (r : Nat) : Nat := bits (reqWord s r 1) 31 16
def headLen (s : State) (r : Nat) : Nat := bits (reqWord s r 1) 15 8
def headEpoch (s : State) (r : Nat) : Nat := bits (reqWord s r 2) 31 16
/-- The response ring has a free entry (R524). -/
def rspRoom (s : State) (r : Nat) : Bool := decide (idxDiff (rspProd s r) (rspCons s r) < 16)
/-- The message types that are defined (R528, R550, R569). -/
def mbTypes : List Nat :=
  [0x0001, 0x0002, 0x0200, 0x0201, 0x0202, 0x0203, 0x0204, 0x8001, 0x8002, 0x8100, 0x8101, 0x8102, 0x8103, 0x8104, 0x8105]

/-- A response placed in a ring: `n` payload bytes from a list of words. -/
def State.respond (s : State) (r typ seq status : Nat) (words : List Nat) (n : Nat) : State :=
  let b := mboxBase r
  let at_ := b + MBOX_RSP_ENTRY + 64 * (rspProd s r % 16)
  let ver := s.get pgMBCTL MAILBOX_CTL_MB_ID_IF_MAJ % 256 * 2 ^ 24 + s.get pgMBCTL MAILBOX_CTL_MB_ID_IF_MIN % 256 * 2 ^ 16
  let head := [ver + typ, seq * 2 ^ 16 + n * 2 ^ 8 + status, mbEpoch s r * 2 ^ 16, 0]
  let s := s.each (List.range 16) fun s k =>
    s.wr (at_ + 4 * k) (BitVec.ofNat 32 (if k < 4 then head.getD k 0 else if 4 * (k - 4) < n then words.getD (k - 4) 0 else 0))
  (s.bump b MBOX_MB_STAT_RSP_PROD).irq b 0
/-- A response of the firmware: placed, or kept until the ring has a free entry (R524). -/
def State.answer (s : State) (r typ seq status : Nat) (words : List Nat) (n : Nat) : State :=
  if rspRoom s r && s.fw.owed.all fun (o : Nat × List Nat) => o.1 != r then s.respond r typ seq status words n
  else { s with fw := { s.fw with owed := s.fw.owed ++ [(r, [typ, seq, status, n] ++ words)] } }
/-- The responses that wait for ring r are placed, oldest first, where there is room. -/
def State.placeOwed (s : State) (r : Nat) : Nat → State
  | 0 => s
  | k + 1 => match s.fw.owed.find? fun (o : Nat × List Nat) => o.1 == r with
  | some (q, l) =>
    if !rspRoom s r then s
    else
      let s := { s with fw := { s.fw with owed := s.fw.owed.erase (q, l) } }
      (s.respond r (l.getD 0 0) (l.getD 1 0) (l.getD 2 0) (l.drop 4) (l.getD 3 0)).placeOwed r k
  | none => s
/-- The oldest request is taken. -/
def State.takeReq (s : State) (r : Nat) : State := s.bump (mboxBase r) MBOX_MB_STAT_REQ_CONS

end Sys2Proof.Machine
end

