-- ==== Sys2Proof/Machine/SpareOps.lean ====
section
/-! DEFINITION. What rim commands, hard faults and field tests share (spec/02_storage_array.md R51 to R53,
spec/15_integrity.md R460 to R464, spec/19_test.md R563, R566): the map, the spare's role, copies between physical rims,
isolation and parking. The copies between physical rims are in Machine/HubOps.lean. -/
namespace Sys2Proof.Machine

/-- The state with the integrity structures, or the test structures, changed. -/
def State.ig (s : State) (f : IntegSt → IntegSt) : State := { s with integ := f s.integ }
def State.tst (s : State) (f : TestSt → TestSt) : State := { s with test := f s.test }

/-- Logical rim i of a layer is mapped to physical rim p, between two accesses of it (R53). -/
def State.setMap (s : State) (layer i p : Nat) : State :=
  let s := s.settle layer i
  s.put (layerBase layer) ⟨LAYER_RIM_MAP + 4 * (i / 4), 8 * (i % 4) + 4, 8 * (i % 4)⟩ p
/-- The spare of a layer takes a role for a logical rim (R51). -/
def State.setRole (s : State) (layer role i : Nat) : State :=
  (s.put (layerBase layer) LAYER_SPARE_STAT_SPARE_ROLE role).put (layerBase layer) LAYER_SPARE_STAT_SPARE_FOR i
/-- Logical rim i of a layer is in service, or not (R63). -/
def State.setRimUp (s : State) (layer i : Nat) (on : Bool) : State :=
  let s := s.put (layerBase layer) ⟨LAYER_LAYER_STAT, i, i⟩ (b2n on)
  s.put (layerBase layer) LAYER_LAYER_STAT_ACTIVE ((List.range 16).filter (rimUp s layer)).length
/-- A physical rim becomes PARKED (R476, R460, R463): its domain off, recorded by EM0 with a cause (R546). -/
def State.parkRim (s : State) (layer p cause : Nat) : State :=
  let b := rimBase layer p
  let s := (s.put b RIM_PWR_STAT_STATE 5).put b RIM_RIM_FSTAT_HEALTH 2
  let s := (s.setDom (17 * layer + p) false).listRetired layer p cause
  let s := s.rim layer p fun r => { r with goal := none, moving := false }
  { s with wakes := s.wakes.filter (· != 17 * layer + p) }

/-- Valid and lost bits of one physical rim cleared (R448), for a TID. -/
def State.clearRim (s : State) (layer p tid : Nat) : State :=
  (s.clearFrames fun l q _ => l == layer && q == p).energy 1 (slotsOf layer) tid
/-- Lost bits of a physical rim set from a slot up. -/
def State.loseFrom (s : State) (layer p slot : Nat) : State :=
  s.arr fun a => { a with
    lost := (List.range (slotsOf layer - slot)).foldl (fun l k => NSet.insert l (lostKey layer p (slot + k))) a.lost }

/-- Accesses standing at a rim, the step that its ALU runs, and its write-backs are lost with it (R460 step 2, R261). -/
def State.loseRim (s : State) (layer i : Nat) : State :=
  let s := (s.loseStep layer i stFAULT).arr fun a => { a with wbs := a.wbs.filter fun w => !(w.layer == layer && w.rim == i) }
  s.each (s.hub.flight.filter fun a =>
    a.layer == layer && a.rim == i && (a.loc == .rim || a.loc == .half || a.loc == .out)) fun s a => s.loseAccess a

/-- The last result of a field test, as the messages of R569 return it. -/
def ftWords (s : State) : List Nat :=
  [TEST_FT_STAT, TEST_FT_FAIL0, TEST_FT_FAIL1, TEST_FT_TIME].map fun o => (s.rd (pgTEST + o)).toNat
/-- The message that started a test is answered when the test ends (R569). -/
def State.ftReply (s : State) (f : FieldTest) : State :=
  match f.reply with
  | some (r, seq) => s.answer r (0x80FF + f.op) seq 0 (ftWords s) 16
  | none => s
/-- The running field test ends (R563, R566), with its copy: its result, its duration, IRQ_STAT bit 1, and the tested rim's held
TARGET. -/
def State.ftEnd (s : State) (result : Nat) : State :=
  match s.test.ft with
  | none => s
  | some f =>
    let s := (s.put pgTEST TEST_FT_STAT_BUSY 0).put pgTEST TEST_FT_STAT_PHASE 0
    let s := s.put pgTEST TEST_FT_STAT_RESULT result
    let s := s.wr (pgTEST + TEST_FT_TIME) (BitVec.ofNat 32 (s.now - f.start))
    let s := ((s.tst fun t => { t with ft := none }).irq pgTEST 1).cond (f.op == 1) fun s => s.copyEnd f.layer
    let s := s.ftReply f
    s.cond (f.op == 1) fun s => s.applyHeld f.layer f.unit
/-- Phase 3 of a RIM test begins: the spare is copied back to the rim (R563). -/
def State.ftBack (s : State) (f : FieldTest) : State :=
  (s.put pgTEST TEST_FT_STAT_PHASE 3).copyStart f.layer f.unit 16 f.unit (s.get pgTEST TEST_FT_CFG_TID)
/-- A RIM test in phase 2 or 3 is to give its rim back, with RESULT ABORTED (R461, R566). -/
def State.ftGiveUp (s : State) (f : FieldTest) : State :=
  let s := s.tst fun t => { t with ft := t.ft.map fun f => { f with abort := true } }
  s.cond (s.get pgTEST TEST_FT_STAT_PHASE == 2) fun s => s.ftBack f
/-- The running field test is a RIM test of a layer. -/
def ftRim (s : State) (layer : Nat) : Option FieldTest :=
  match s.test.ft with
  | some f => if f.op = 1 ∧ f.layer = layer then some f else none
  | none => none

/-- A RIM_CMD is answered with a result: BUSY shows whether another one still runs. -/
def State.rimCmdAnswer (s : State) (result : Nat) : State :=
  let s := (s.put pgINTEG INTEG_RIM_STAT_BUSY (b2n s.integ.cmd.isSome)).put pgINTEG INTEG_RIM_STAT_RESULT result
  s.irq pgINTEG 3
/-- The running RIM_CMD completes (R463): BUSY falls with its result. FRAMES keeps the count of the last evacuation. -/
def State.rimCmdDone (s : State) (result : Nat) : State := (s.ig fun g => { g with cmd := none }).rimCmdAnswer result

end Sys2Proof.Machine
end

