-- ==== Sys2Proof/Machine/Integ.lean ====
section
/-! DEFINITION. The commands of integrity (spec/15_integrity.md, spec/21_integration.md R605): write-backs, hard faults, rim
commands, scrub passes, the flip mask, the poison log and Spoke lanes. -/
namespace Sys2Proof.Machine

/-- MAINT_TID (R463). -/
def maintTid (s : State) : Nat := s.get pgINTEG INTEG_IG_CTL_MAINT_TID

/-! ### Write-backs (R445, R446) -/

/-- The write-backs of rim access `id` are performed together, in the pc in which their rim grants them at level 4 (R179). -/
def execCorrectionWriteback (id : Nat) (s : State) : Res :=
  match s.array.wbs.find? fun b => b.id == id with
  | none => .next s
  | some b =>
    if !wins s b.layer b.rim id then .next s
    else
      .next ((rimArb s b.layer b.rim).each [0, 1, 2, 3] fun s q => s.stepsLand q)

/-! ### Taking over a rim (R460 to R464) -/

/-- The switch of R464: the frame slots that have been copied are kept; the one being copied, and the others, are lost. -/
def State.switchAtOnce (s : State) (layer i cause : Nat) : State :=
  let old := physOf s layer i
  let n := ((copyOf s layer).map fun (j : CopyJob) => j.next / 16).getD 0
  let s := (((s.loseRim layer i).copyEnd layer).loseFrom layer 16 n).setMap layer i 16
  ((s.setRole layer 4 i).setRimUp layer i true).parkRim layer old cause

/-- The retirement of a rim by an Idle spare begins (R460 step 5). -/
def State.takeOver (s : State) (layer i : Nat) : State :=
  (s.setRole layer 4 i).ig fun g => { g with cmd := some ⟨false, layer, i, s.pcNow⟩ }

/-- A rim that is retired with no spare to take its place keeps no physical rim (R52, R461). -/
def State.dropRim (s : State) (layer i : Nat) : State :=
  let p := physOf s layer i
  if p = 31 then s
  else
    let s := (s.loseRim layer i).setRimUp layer i false
    let cause := s.get (rimBase layer p) RIM_RIM_FSTAT_CAUSE
    (s.setMap layer i 31).parkRim layer p cause
/-- The RETIRE that runs in a layer finds that the spare can no longer take its rim's place. -/
def State.retireLost (s : State) (layer : Nat) : State :=
  match s.integ.cmd with
  | some c => s.cond (!c.evac && c.layer == layer) fun s => (s.dropRim layer c.rim).rimCmdDone 2
  | none => s

/-- RIM_CMD RETIRE meets the spare's role (R461). Behind a test redirect it waits until the tested rim has been given back. -/
def State.retireRim (s : State) (m : Master) (layer i : Nat) : State :=
  let j := spareFor s layer
  if s.integ.sectors.contains (4 * layer + i / 4) then (s.rimCmdAnswer 2).refused m pgINTEG INTEG_RIM_CMD
  else match spareRole s layer, ftRim s layer with
    | 0, _ => s.takeOver layer i
    | 1, _ => (s.ftEnd 4).takeOver layer i
    | 2, some f =>
      let s := (s.ftGiveUp f).cond (i != j) fun s => (s.loseRim layer i).setRimUp layer i false
      s.ig fun g => { g with cmd := some ⟨false, layer, i, s.pcNow⟩ }
    | 3, _ =>
      if j = i then (s.switchAtOnce layer i (s.get (rimBase layer (physOf s layer i)) RIM_RIM_FSTAT_CAUSE)).rimCmdDone 6
      else (((s.copyEnd layer).rimCmdDone 4).put pgINTEG INTEG_RIM_STAT_BUSY 1).takeOver layer i
    | _, _ => (s.dropRim layer i).rimCmdDone 2

/-- RIM_CMD EVACUATE (R463). -/
def State.evacuate (s : State) (m : Master) (layer i : Nat) : State :=
  let fail := fun (s : State) r => (s.rimCmdDone r).refused m pgINTEG INTEG_RIM_CMD
  let role := spareRole s layer
  if 1 ≤ role ∧ role ≤ 3 then fail s 1
  else if role ≠ 0 then fail s 2
  else if physOf s layer i = 31 ∨ !rimUp s layer i then fail s 3
  else
    let s := ((s.clearRim layer 16 (maintTid s)).setRole layer 3 i).put pgINTEG INTEG_RIM_STAT_FRAMES 0
    (s.ig fun g => { g with cmd := some ⟨true, layer, i, s.pcNow⟩ }).copyStart layer i (physOf s layer i) 16 (maintTid s)

/-- RIM_CMD ABORT (R465). With no evacuation to end its RESULT is not stated: a free value. -/
def State.abortEvac (s : State) : State :=
  match s.integ.cmd with
  | some c => ((s.copyEnd c.layer).setRole c.layer 0 0).rimCmdDone 4
  | none => let (v, s) := s.draw
    s.rimCmdDone (v % 16)

/-- A write of RIM_CMD. While a command runs it is ignored (R470), but for the ABORT of an evacuation (R465) and for the RETIRE of a rim
of the layer whose spare evacuates (R461). -/
def rimCmdWrite (m : Master) (w : Word32) (s : State) : State :=
  s.gate m pgINTEG INTEG_RIM_CMD true fun s =>
    let op := INTEG_RIM_CMD_OP.of w
    let layer := INTEG_RIM_CMD_LAYER.of w
    let i := INTEG_RIM_CMD_RIM.of w
    let meets := s.integ.cmd.any fun c => c.evac && (op == 3 || (op == 2 && c.layer == layer))
    if s.integ.cmd.isSome ∧ !meets then s
    else
      let s := s.setFields m pgINTEG INTEG_RIM_CMD w
      if op = 0 then s
      else
        let s := s.put pgINTEG INTEG_RIM_STAT_BUSY 1
        if 3 < op ∨ (op ≠ 3 ∧ s.cfg.dies ≤ layer) then (s.rimCmdDone 5).refused m pgINTEG INTEG_RIM_CMD
        else if op = 1 then s.evacuate m layer i
        else if op = 2 then s.retireRim m layer i
        else s.abortEvac
/-- RIM_CMD with an OP. -/
def rimCmdWord (op layer i : Nat) : Word32 := BitVec.ofNat 32 (op * 2 ^ 28 + layer % 8 * 16 + i % 16)
/-- RETIRE. EM1 writes it after a hard fault only while AUTO_RETIRE is 1 (R460 step 4). -/
def execRimCmdRetire (m : Master) (layer rim : Nat) (s : State) : Res :=
  if m = .em1 ∧ !s.flag pgINTEG INTEG_IG_CTL_AUTO_RETIRE then .next s
  else .next (rimCmdWrite m (rimCmdWord 2 layer rim) s)
/-- EVACUATE. -/
def execRimCmdEvacuate (m : Master) (layer rim : Nat) (s : State) : Res := .next (rimCmdWrite m (rimCmdWord 1 layer rim) s)
/-- ABORT. -/
def execRimCmdAbort (m : Master) (s : State) : Res := .next (rimCmdWrite m (rimCmdWord 3 0 0) s)

/-- The spare has cleared its valid bits: every lost bit is set, and it takes over the retired rim (R460 step 5). -/
def execSpareTakeoverDone (s : State) : Res :=
  match s.integ.cmd with
  | none => .next s
  | some c =>
    if c.evac ∨ spareRole s c.layer ≠ 4 ∨ spareFor s c.layer ≠ c.rim then .next s
    else
      let old := physOf s c.layer c.rim
      let s := (s.loseRim c.layer c.rim).setMap c.layer c.rim 16
      let s := ((s.clearRim c.layer 16 (maintTid s)).loseFrom c.layer 16 0).setRimUp c.layer c.rim true
      let s := s.cond (decide (old < 16)) fun s =>
        s.parkRim c.layer old (s.get (rimBase c.layer old) RIM_RIM_FSTAT_CAUSE)
      .next (s.rimCmdDone 0)
/-- An evacuation whose copy has read and written every line ends (R463 steps 3 and 4). -/
def execEvacuationDone (s : State) : Res :=
  match s.integ.cmd with
  | none => .next s
  | some c =>
    if !c.evac ∨ !copied s c.layer c.rim then .next s
    else
      let old := physOf s c.layer c.rim
      let s := ((s.copyEnd c.layer).setMap c.layer c.rim 16).setRole c.layer 4 c.rim
      .next ((s.parkRim c.layer old 0).rimCmdDone 0)

/-! ### Hard faults (R459 to R462, R469) -/

/-- A physical rim is isolated (R460 steps 1 to 3). -/
def State.isolate (s : State) (layer p cause : Nat) : State :=
  (s.put (rimBase layer p) RIM_RIM_FSTAT_HEALTH 1).put (rimBase layer p) RIM_RIM_FSTAT_CAUSE cause

/-- A hard fault of physical rim p < 16. -/
def State.rimFault (s : State) (layer p cause : Nat) : State :=
  let i := p
  let s := (s.isolate layer p cause).recordFault 1 cause layer p
  match ftRim s layer with
  | some f =>
    if f.unit = i then
      if s.get pgTEST TEST_FT_STAT_PHASE = 1 then (s.switchAtOnce layer i cause).ftEnd 6
      else (((s.setRole layer 4 i).parkRim layer p cause).ftEnd 6).retireLost layer
    else (s.loseRim layer i).setRimUp layer i false
  | none =>
    if physOf s layer i ≠ p then s
    else if spareRole s layer = 3 ∧ spareFor s layer = i then (s.switchAtOnce layer i cause).rimCmdDone 6
    else (s.loseRim layer i).setRimUp layer i false

/-- The frame slots of physical rim i from slot n up lose what they hold: their valid bits are cleared and their lost bits set. -/
def State.loseSlots (s : State) (layer i n : Nat) : State :=
  (s.clearFrames fun l q k => l == layer && q == i && decide (n ≤ k)).loseFrom layer i n
/-- A test redirect loses its spare: the rim takes its traffic back, and the frame slots from n up, which only the spare held, are lost. -/
def State.redirectLost (s : State) (layer i n result : Nat) : State :=
  ((s.setMap layer i i).loseSlots layer i n).ftEnd result

/-- A hard fault of the spare (R462, R566): its role is lost, and an operation that used it ends. In phase 3 of a test the slots not yet
copied back are lost (DESIGN CHOICE, log entry 30). -/
def State.spareFault (s : State) (layer cause : Nat) : State :=
  let role := spareRole s layer
  let i := spareFor s layer
  let s := (s.isolate layer 16 cause).recordFault 5 cause layer 16
  let s := s.cond (physOf s layer i == 16) fun s => s.loseRim layer i
  let s := match role with
    | 1 => s.ftEnd 6
    | 2 =>
      let n := ((copyOf s layer).map fun (j : CopyJob) => j.next / 16).getD 0
      if s.get pgTEST TEST_FT_STAT_PHASE = 3 then s.redirectLost layer i n 6 else s.redirectLost layer i 0 7
    | 3 => (s.copyEnd layer).rimCmdDone 6
    | 4 =>
      if s.integ.cmd.any fun (c : RimCmd) => !c.evac && c.layer == layer then s
      else (s.setRimUp layer i false).setMap layer i 31
    | _ => s
  ((s.retireLost layer).setRole layer 5 i).listRetired layer 16 cause

/-- A rim hard fault is detected. -/
def execRimHardFault (layer p cause : Nat) (s : State) : Res :=
  if s.cfg.dies ≤ layer ∨ 16 < p ∨ s.get (rimBase layer p) RIM_RIM_FSTAT_HEALTH ≠ 0 ∨ rimPower s layer p = 5 then .next s
  else if p = 16 then .next (s.spareFault layer (cause % 16))
  else .next (s.rimFault layer p (cause % 16))

/-- The four rims of a sector are isolated (R461, R604): they answer FAULT until reset. -/
def State.isolateSector (s : State) (layer sector cause : Nat) : State :=
  let s := s.ig fun g => { g with sectors := NSet.insert g.sectors (4 * layer + sector) }
  s.each (List.range 4) fun s k =>
    let i := 4 * sector + k
    let s := s.cond (s.get (rimBase layer i) RIM_RIM_FSTAT_HEALTH == 0) fun s => s.isolate layer i cause
    let s := s.loseRim layer i
    let s := s.cond ((ftRim s layer).any fun f => f.unit == i) fun s =>
      (((s.setMap layer i i).setRole layer 0 0).ftEnd 6).retireLost layer
    let s := s.cond (s.integ.cmd.any fun c => c.layer == layer && c.rim == i) fun s =>
      ((s.copyEnd layer).setRole layer 0 0).rimCmdDone (if s.integ.cmd.any (·.evac) then 6 else 2)
    s.setRimUp layer i false
/-- A fault of a sector periphery. -/
def execSectorPeripheryFault (layer sector cause : Nat) (s : State) : Res :=
  if s.cfg.dies ≤ layer ∨ 4 ≤ sector ∨ s.integ.sectors.contains (4 * layer + sector) then .next s
  else .next ((s.recordFault 2 (cause % 16) layer sector).isolateSector layer sector (cause % 16))
/-- A hard fault of the synchronisation plane. -/
def execSyncPlaneFault (cause : Nat) (s : State) : Res :=
  if parked s then .next s else .next (s.recordFault 6 (cause % 16) 0 0).park
/-- A fault of a port adapter. -/
def execPortAdapterFault (x : Nat) (s : State) : Res :=
  if 72 ≤ x then .next s else .next (s.port x fun p => { p with broken := true })
/-- A fault of mover engine e. -/
def execMoverEngineFault (e : Nat) (s : State) : Res :=
  if 4 ≤ e then .next s
  else .next (s.each (List.range 4) fun s k => s.port (56 + 4 * e + k) fun p => { p with broken := true })

/-- The rates of R465 over one physical rim, looked at by EM1. The intervals of CE_THRESH.WIN seconds begin where an event finds
the last one over, or acts; while another RIM_CMD runs, EM1 waits for it before it evacuates. -/
def execCeThresholdCrossed (layer p : Nat) (s : State) : Res :=
  if s.cfg.dies ≤ layer ∨ 16 < p ∨ !emRuns s 1 then .next s
  else
    let key := 17 * layer + p
    let ce := s.get (rimBase layer p) RIM_CE_CNT_COUNT
    let ue := s.get (rimBase layer p) RIM_UE_CNT_COUNT
    let evacuates := s.flag pgINTEG INTEG_IG_CTL_AUTO_EVAC && spareRole s layer == 0 && decide (p < 16) && physOf s layer p == p
    let (ce0, t0, ue0) := Sp.get (0, 0, 0) s.integ.ceMark key
    let win := s.get pgINTEG INTEG_CE_THRESH_WIN
    let inTime := win != 0 && decide (s.now - t0 ≤ win * 100000000)
    let hit := (inTime && decide (s.get pgINTEG INTEG_CE_THRESH_MAX < ce - ce0)) || decide (ue0 < ue)
    if (inTime ∧ !hit) ∨ (hit ∧ evacuates ∧ s.integ.cmd.isSome) then .next s
    else
      let s := s.ig fun g => { g with ceMark := Sp.set g.ceMark key (ce, s.now, ue) }
      if !hit then .next s
      else if evacuates then
        .next (rimCmdWrite .em1 (rimCmdWord 1 layer p) s)
      else .next (s.irq pgINTEG 6)

/-! ### Scrub passes (R454 to R457) -/

/-- The words of the scrub post of a pass (R268): a handle from its first line, or PTA lines. -/
def scrubWords (s : State) (d : Option Desc) : List Nat :=
  let h := s.get pgINTEG INTEG_SCRUB_ARG0_HANDLE
  match d with
  | some d => [3 * 2 ^ 28 + h * 2 ^ 18 + s.get pgINTEG INTEG_SCRUB_ARG0_GEN * 2 ^ 10, 0, 16 * (d.extentM1 + 1) - 1, d.owner]
  | none => [3 * 2 ^ 28 + 2 ^ 27, s.get pgINTEG INTEG_SCRUB_ARG1_START, s.get pgINTEG INTEG_SCRUB_ARG2_LINES_M1,
      s.get pgINTEG INTEG_SCRUB_CMD_TID]
/-- EM1 issues the scrub post of a pass, once the channel's SUB_READY is 1 (R269). -/
def State.scrubPost (s : State) : State :=
  match s.integ.scrub with
  | some p => match p.wait with
    | some (c, words) => s.cond (!p.ended && emRuns s 1 && subReady s c) fun s =>
        (s.ig fun g => { g with scrub := some { p with post := s.hub.accCtr, wait := none } }).subTake c words true
    | none => s
  | none => s
/-- SCRUB_CMD.GO. The pass waits for EM1, and ends PARTIAL, where EM1 does not run (log entry 31). -/
def State.scrubGo (s : State) (m : Master) : State :=
  let h := s.get pgINTEG INTEG_SCRUB_ARG0_HANDLE
  let form := s.flag pgINTEG INTEG_SCRUB_CMD_FORM
  let c := s.get pgINTEG INTEG_SCRUB_CMD_CHAN
  let d := liveDesc s h (s.get pgINTEG INTEG_SCRUB_ARG0_GEN)
  if s.integ.scrub.isSome ∨ chanState s c ≠ 2 ∨ (!form ∧ d.isNone) then
    (s.put pgINTEG INTEG_SCRUB_STAT_RESULT 3).refused m pgINTEG INTEG_SCRUB_CMD
  else
    let s := s.each (List.range 8) fun s k =>
      s.wr (pgINTEG + INTEG_SCRUB_SUM + 4 * k) (BitVec.ofNat 32 (if k = 7 then 0x3FFFFFFF else 0))
    let s := s.put pgINTEG INTEG_SCRUB_STAT_BUSY 1
    if emRuns s 1 then
      (s.ig fun g => { g with scrub := some { wait := some (c, scrubWords s (if form then none else d)) } }).scrubPost
    else s.ig fun g => { g with scrub := some { ended := true, part := true } }
/-- SCRUB_CMD.ABORT. -/
def State.scrubAbort (s : State) : State :=
  s.ig fun g => { g with scrub := g.scrub.map fun p => { p with aborted := true, ended := p.ended || p.wait.isSome } }
/-- EM1 stops: the pass ends PARTIAL (R457). -/
def State.scrubEm1 (s : State) : State :=
  s.ig fun g => { g with scrub := g.scrub.map fun p => { p with ended := true, part := true } }
/-- A write of SCRUB_CMD. -/
def scrubCmdWrite (m : Master) (w : Word32) (s : State) : State :=
  s.gate m pgINTEG INTEG_SCRUB_CMD false fun s =>
    let s := s.setFields m pgINTEG INTEG_SCRUB_CMD w
    let s := s.cond (INTEG_SCRUB_CMD_GO.of w == 1) fun s => s.scrubGo m
    s.cond (INTEG_SCRUB_CMD_ABORT.of w == 1) State.scrubAbort
/-- A write with GO 1, and its other fields. -/
def execScrubGo (m : Master) (pta : Bool) (tid chan : Nat) (s : State) : Res :=
  .next (scrubCmdWrite m (BitVec.ofNat 32 (2 ^ 31 + b2n pta * 2 ^ 29 + tid % 64 * 2 ^ 16 + chan % 16)) s)
/-- A write with ABORT 1. The RWO fields are written as they stand. -/
def execScrubAbort (m : Master) (s : State) : Res :=
  .next (scrubCmdWrite m (s.rd (pgINTEG + INTEG_SCRUB_CMD) ||| BitVec.ofNat 32 (2 ^ 30)) s)
/-- EM1 ends the pass (R454, R457). -/
def execScrubPassDone (s : State) : Res :=
  match s.integ.scrub with
  | none => .next s
  | some p =>
    if !p.ended ∨ !emRuns s 1 then .next s
    else
      let f := s.get pgINTEG ((Fld.word INTEG_SCRUB_SUM).at 4 6)
      let f := f ||| (b2n p.aborted * 2 + b2n p.part)
      let s := s.wr (pgINTEG + INTEG_SCRUB_SUM + 24) (BitVec.ofNat 32 f)
      let s := (s.put pgINTEG INTEG_SCRUB_STAT_BUSY 0).put pgINTEG INTEG_SCRUB_STAT_RESULT
        (if p.part then 2 else if p.aborted then 1 else 0)
      .next ((s.ig fun g => { g with scrub := none }).irq pgINTEG 2)

/-! ### The flip mask and the poison log (R458, R470) -/

/-- The flip mask in FLIP_MASK0 to FLIP_MASK8. -/
def flipMask (s : State) : Stored :=
  BitVec.ofNat 288 ((List.range 9).foldl (fun a k => a + (s.rd (pgINTEG + INTEG_FLIP_MASK + 4 * k)).toNat * 2 ^ (32 * k)) 0)
/-- A write of FLIP_CTL. -/
def flipCtlWrite (m : Master) (w : Word32) (s : State) : State :=
  s.gate m pgINTEG INTEG_FLIP_CTL false fun s =>
    let s := s.setFields m pgINTEG INTEG_FLIP_CTL w
    s.cond (INTEG_FLIP_CTL_ARM.of w == 1) fun s =>
      let f : Flip := {
        layer := s.get pgINTEG INTEG_FLIP_CTL_LAYER, rim := s.get pgINTEG INTEG_FLIP_CTL_RIM,
        bank := s.get pgINTEG INTEG_FLIP_CTL_BANK, mask := flipMask s }
      (s.arr fun a => { a with flip := some f }).put pgINTEG INTEG_FLIP_CTL_ARM 1
/-- FLIP_CTL written with ARM 1. -/
def execFlipArm (m : Master) (layer bank rim : Nat) (s : State) : Res :=
  .next (flipCtlWrite m (BitVec.ofNat 32 (2 ^ 31 + layer % 8 * 2 ^ 8 + bank % 16 * 16 + rim % 16)) s)

/-- The word of PSN_E0 for an entry. -/
def PsnEntry.e0 (e : PsnEntry) : Nat :=
  2 ^ 31 + e.kind % 8 * 2 ^ 28 + b2n e.clsD * 2 ^ 27 + e.tid % 64 * 2 ^ 16 + e.step % 2 ^ 16
/-- A read of PSN_E0: the oldest entry is removed, its other words are latched. Answers the word. -/
def State.psnRead (s : State) : Nat × State :=
  let latch := fun (s : State) (a b c : Nat) =>
    ((s.wr (pgINTEG + INTEG_PSN_E1) (BitVec.ofNat 32 a)).wr (pgINTEG + INTEG_PSN_E2) (BitVec.ofNat 32 b)).wr
      (pgINTEG + INTEG_PSN_E3) (BitVec.ofNat 32 c)
  match s.psnLog with
  | [] => (0, latch s 0 0 0)
  | e :: l => (e.e0, latch { s with psnLog := l } (e.pta % 2 ^ 30) (e.source % 128 * 2 ^ 25) e.time)
/-- A master reads PSN_E0. -/
def execPsnLogRead (m : Master) (s : State) : Res :=
  let p : PageAt := ⟨.integ, 0, pgINTEG⟩
  if !fabricOpen s m p then .next s
  else if !readPath s m p then .next (s.answerMaster m [(0, 0)])
  else
    let (v, s) := s.psnRead
    .next (s.answerMaster m [(v, 0)])

/-! ### Spoke lanes (R602, R604, R605) -/

/-- The key of a lane group: crossing n, Spoke 4 * layer + sector, group. -/
def laneKey (n spoke group : Nat) : Nat := (n * 32 + spoke) * 48 + group
/-- A sector cannot be reached any more (R604). -/
def State.unreachable (s : State) (layer sector : Nat) : State :=
  let b := layerBase layer
  let s := (s.recordFault 3 5 layer sector).isolateSector layer sector 5
  (s.put b ⟨LAYER_DRG_STAT, 26 + sector, 26 + sector⟩ 0).put b LAYER_DRG_STAT_STATE 2
/-- A parity error of a lane group of a Spoke at crossing n: so many access halves on plane A and on plane B, at most four in all, failed
their CRC before the Spoke stopped (R466). A spare is substituted while it is stopped; with none left the sector is cut off. -/
def execDrigarParityError (n layer sector group halvesA halvesB : Nat) (s : State) : Res :=
  let spoke := 4 * layer + sector
  if n = 0 ∨ layer < n ∨ s.cfg.dies ≤ layer ∨ 4 ≤ sector ∨ 48 ≤ group ∨ s.integ.sectors.contains spoke then .next s
  else
    let key := laneKey n spoke group
    let used := Sp.get 0 s.integ.lanes key
    let a := min halvesA 4
    let s := (s.mismatch 0 a).mismatch 1 (min halvesB (4 - a))
    if 2 ≤ used then .next ({ s with spokeHeld := NSet.erase s.spokeHeld spoke }.unreachable layer sector)
    else
      let b := layerBase layer
      let s := s.ig fun g => { g with lanes := Sp.set g.lanes key (used + 1) }
      let s := (s.bump b LAYER_DRG_STAT_SPARES).bumpSat b LAYER_DRG_CNT_RUN_REP
      .next { s with spokeHeld := NSet.insert s.spokeHeld spoke }
/-- The Spoke resumes. -/
def execSpokeResume (layer sector : Nat) (s : State) : Res :=
  .next { s with spokeHeld := NSet.erase s.spokeHeld (4 * layer + sector) }

end Sys2Proof.Machine
end

