-- ==== Sys2Proof/Machine/MboxOps.lean ====
section
/-! DEFINITION. The mailbox rings and the starting and stopping of the Emlar cores (spec/17_control_and_firmware.md R513 to
R515, R522 to R530). -/
namespace Sys2Proof.Machine

/-! ### The rings -/

/-- The requests at the head that no message row answers: those of another epoch (R525), of an undefined TYPE or of more than 48
payload bytes (R523, R528). -/
def State.mboxAuto (s : State) (r : Nat) : Nat → State
  | 0 => s
  | n + 1 =>
    let s := s.placeOwed r 16
    match headType s r with
    | none => s
    | some typ =>
      let answer := fun (st : Nat) => ((s.respond r typ (headSeq s r) st [] 0).takeReq r)
      if !rspRoom s r then s
      else if headEpoch s r ≠ mbEpoch s r then
        (((answer 8).bumpSat (mboxBase r) MBOX_MB_DISC_COUNT).irq (mboxBase r) 1).mboxAuto r n
      else if !emRuns s (typ / 2 ^ 15) then s
      else if !mbTypes.contains typ then (answer 1).mboxAuto r n
      else if 48 < headLen s r then (answer 2).mboxAuto r n
      else s
/-- What a message answers: its status, payload words and payload bytes; none where the answer comes later. -/
abbrev Reply := Option (Nat × List Nat × Nat)
/-- A message of a TYPE at the head of ring r: taken by its core, and answered (R524). `need` is the least payload in bytes. -/
def message (typ need r : Nat) (act : Nat → List Nat → State → Reply × State) (s : State) : Res :=
  if 2 ≤ r then .next s
  else
    let s := s.mboxAuto r 256
    if headType s r ≠ some typ ∨ headEpoch s r ≠ mbEpoch s r ∨ !rspRoom s r ∨ !emRuns s (typ / 2 ^ 15) ∨ 48 < headLen s r then .next s
    else
      let seq := headSeq s r
      let len := headLen s r
      let words := (List.range 12).map fun k => reqWord s r (4 + k)
      let s := s.takeReq r
      let s := if len < need then s.answer r typ seq 2 [] 0
        else match act len words s with
          | (some (st, ws, n), s) => s.answer r typ seq st ws n
          | (none, s) => s
      .next (s.mboxAuto r 256)
/-- The master of a ring owns a page group (R526). -/
def ringOwns (s : State) (r g : Nat) : Bool := semOwner s g == r + 1

/-- The epoch of both rings rises (R515, R525): untaken requests are discarded, responses not yet placed are dropped. -/
def State.newEpoch (s : State) : State :=
  let s := s.each [0, 1] fun s r =>
    let b := mboxBase r
    let s := s.bumpSat b MBOX_MB_DISC_COUNT (idxDiff (reqProd s r) (reqCons s r))
    let s := (s.put b MBOX_MB_STAT_REQ_CONS (reqProd s r)).bump b MBOX_MB_STAT_EPOCH
    s.irq b 1
  let s := s.lif fun l => { l with reply := none }
  let s := { s with fw := { s.fw with owed := [] } }
  s.tst fun t => { t with ft := t.ft.map fun f => { f with reply := none } }

/-! ### The cores -/

/-- The state with the firmware structures changed. -/
def State.fwm (s : State) (f : FwSt → FwSt) : State := { s with fw := f s.fw }
def emFld (n : Nat) (f : Fld) : Fld := f.at 4 n
/-- A core failed the boot self-test and stays HALTED (R559). -/
def emDead (s : State) (n : Nat) : Bool :=
  s.flag pgTEST (if n = 0 then TEST_BST_STAT_EM0_F else TEST_BST_STAT_EM1_F)
/-- A core stops (R515): its transaction ends, and its SRAM is cleared before it loads again (R513); EM0's local memory loses the lifetime image (R551), EM1's scrub pass ends PARTIAL (R457). -/
def State.coreStops (s : State) (n st : Nat) : State :=
  let s := s.put pgMBCTL (emFld n MAILBOX_CTL_EM_STAT_STATE) st
  let s := { s with fab := { s.fab with bursts := Sp.del s.fab.bursts (2 + n) } }
  let s := s.fwm fun w => { w with sram := Sp.del w.sram n }
  if n = 0 then
    s.lif fun l => { l with
      img := [], flushed := [], loaded := false, ready := false, buf := [], committed := false, next := [], reply := none,
      store := match l.writing with | some k => Sp.del l.store k | none => l.store, writing := none }
  else s.scrubEm1
/-- A core is restarted, with a cause (R514). In an activation it has not loaded from the staged bank (R520). -/
def State.restartCore (s : State) (n cause : Nat) : State :=
  let s := s.fwm fun w => { w with act := w.act.map fun a => { a with spoiled := NSet.insert a.spoiled n } }
  let s := ((s.coreStops n 3).put pgMBCTL (emFld n MAILBOX_CTL_EM_STAT_CAUSE) cause).bump pgMBCTL (emFld n MAILBOX_CTL_EM_STAT_RESTARTS)
  s.newEpoch.irq pgMBCTL 2
/-- A core begins to load, with a cause; one that was running counts as restarted. -/
def State.loadCore (s : State) (n cause : Nat) : State :=
  let ran := emState s n != 0
  let s := (s.coreStops n 1).put pgMBCTL (emFld n MAILBOX_CTL_EM_STAT_CAUSE) cause
  s.cond ran fun s => (s.bump pgMBCTL (emFld n MAILBOX_CTL_EM_STAT_RESTARTS)).irq pgMBCTL 2

end Sys2Proof.Machine
end

