-- ==== Sys2Proof/Machine/Firmware.lean ====
section
/-! DEFINITION. The commands of firmware and mailboxes (spec/17_control_and_firmware.md R513 to R530): staging, activation, the
cores' loading and watchdogs, the ring indices, and the messages that report. -/
namespace Sys2Proof.Machine

/-! ### Images (R516, R517) -/

/-- The 32-bit integer at a byte offset of an image. -/
def le32 (x o : Nat) : Nat := bits x (8 * o + 31) (8 * o)
/-- Bytes of a bank. -/
def bankSize : Nat := 262144
/-- Byte of the EM1 section, and the length of an image. -/
def em1At (x : Nat) : Nat := 0x100 + (le32 x 0x10 + 255) / 256 * 256
def imageLen (x : Nat) : Nat := em1At x + le32 x 0x18
/-- Checks 1 and 2 of R517: the first that fails, 0 for none. -/
def headerCheck (x : Nat) : Nat :=
  let lenOk := fun (n : Nat) => n % 4 == 0 && decide (n ≤ 112 * 1024)
  if le32 x 0 ≠ 0x584D4657 ∨ le32 x 4 ≠ 1 ∨ bits x (8 * 0x40 - 1) (8 * 0x20) ≠ 0 then 1
  else if !lenOk (le32 x 0x10) ∨ !lenOk (le32 x 0x18) ∨ bankSize < imageLen x then 2
  else 0
/-- Every check of R517: the first that fails, 0 for an authentic image. -/
def imageCheck (x : Nat) : Nat :=
  let key := bits x (8 * 0xC0 - 1) (8 * 0x80)
  let keyOk := fun (k : Nat) => sha256 key 64 == (Config.fusedKeyHash k).toNat && !Config.fusedKeyRevoked k
  if headerCheck x ≠ 0 then headerCheck x
  else if !keyOk 0 && !keyOk 1 then 3
  else if !ecdsaVerify (be32 x 0x80) (be32 x 0xA0) (sha256 x 0xC0) (be32 x 0xC0) (be32 x 0xE0) then 4
  else if sha256 (x / 256 ^ 0x100) (le32 x 0x10) ≠ be32 x 0x40 then 5
  else if sha256 (x / 256 ^ em1At x) (le32 x 0x18) ≠ be32 x 0x60 then 6
  else 0

/-- FW_STAT.BANK, and an image's header as a number. -/
def fwBank (s : State) : Nat := s.get pgMBCTL MAILBOX_CTL_FW_STAT_BANK
def bankHeader (s : State) (b : Nat) : Nat := Mem.readN (Sp.get [] s.fw.banks b) 0 256
/-- A command completes with a RESULT. -/
def State.fwResult (s : State) (r : Nat) : State := s.put pgMBCTL MAILBOX_CTL_FW_STAT_RESULT r
/-- No image is staged any more. -/
def State.fwUnstage (s : State) : State :=
  (s.put pgMBCTL MAILBOX_CTL_FW_STAT_STAGED 0).wr (pgMBCTL + MAILBOX_CTL_FW_SVER) 0

/-! ### Staging (R518) -/

/-- Bytes that the loader reads: the header, then the whole image where the header passes its checks, in units of 64. -/
def loadNeed (l : FwLoad) : Nat :=
  if l.got < 256 ∨ headerCheck l.data ≠ 0 then 256 else (imageLen l.data + 63) / 64 * 64
/-- The image has been read, or cannot be. -/
def loadOver (l : FwLoad) : Bool := !l.out && (l.bad || decide (loadNeed l ≤ l.got))
/-- The state with the loader changed. -/
def State.loader (s : State) (f : FwLoad → FwLoad) : State := s.fwm fun w => { w with load := w.load.map f }
/-- A read of TM8 storage for the loader, with the checks of R85 in group G3, where the loader is no privileged source (R80, R518); a read
that they refuse is counted (R100). -/
def State.loadTm8 (s : State) (l : FwLoad) : State :=
  let f := fun (x : Fld) => s.get pgMBCTL x
  let h := f MAILBOX_CTL_FW_LOC_HANDLE
  let tid := f MAILBOX_CTL_FW_LOC_TID
  let gen := f MAILBOX_CTL_FW_LOC_GEN
  let fail := fun (s : State) => s.loader fun l => { l with bad := true }
  let refuse := fun (st : Nat) => fail (s.reject 77 h gen st)
  if h = 0 then refuse stRIGHTS
  else match liveDesc s h gen with
  | none => refuse stSTALE
  | some d =>
    let e : Ep := { epOf 0 0 0 with handle := h, addr := bits (f MAILBOX_CTL_FW_OFS_ADDR) 28 8 * 256 + l.got }
    if !d.grants 3 0 ∨ (d.tidlock ∧ d.owner ≠ tid) then refuse stRIGHTS
    else if !epFits s e 64 then refuse stBOUNDS
    else
      let p := epPiece s e 0 (loadNeed l - l.got)
      let a : Access := {
        seq := 0, src := .firmware p.len, op := .read, line := p.line, layer := p.layer, frame := p.frame, segs := p.segs 0,
        tid := tid, step := tidStep s tid, obs := 999, wide := 5, stream := none, born := s.pcNow, bornD := s.pcDev,
        policy := d.power, loc := .pool, status := stOK, pmask := 0, pk := 0, source := 77, mcast := 0 }
      if parked s then fail s
      else
        let (went, s) := s.sendAccess a
        s.cond went fun s =>
          (s.loader fun l => { l with out := true, under := some (h, s.hub.accCtr) }).hubf fun u => { u with accCtr := u.accCtr + 1 }
/-- A read of external memory for the loader, past any cache section. -/
def State.loadExt (s : State) (l : FwLoad) : State :=
  if 128 ≤ s.mport.length then s
  else
    let base := bits (s.get pgMBCTL MAILBOX_CTL_FW_OFS_ADDR) 31 8 * 256 + s.get pgMBCTL MAILBOX_CTL_FW_OFS_HI_ADDR_HI * 2 ^ 32
    let a := (base + l.got) % 2 ^ 48
    let n := min (loadNeed l - l.got) (512 - a % 512)
    let s := (s.mpIssue .image false a n 0 0).energy 7 (mpLen a n / 64) (s.get pgMBCTL MAILBOX_CTL_FW_LOC_TID)
    s.loader fun l => { l with out := true }
/-- The loader goes on: it takes the answer that has come, and sends its next read. -/
def State.loadRun (s : State) : State :=
  match s.fw.load with
  | none => s
  | some _ =>
    let mine := fun (a : Answer) => match a.src with | .firmware _ => true | _ => false
    let s := match s.hub.answers.find? mine with
      | none => s
      | some a =>
        let n := match a.src with | .firmware n => n | _ => 0
        let s := s.hubf fun h => { h with answers := h.answers.filter fun b => !mine b }
        s.loader fun l =>
          if a.status ≠ stOK then { l with out := false, bad := true }
          else { l with out := false, got := l.got + n, data := l.data + a.value n * 256 ^ l.got }
    match s.fw.load with
    | none => s
    | some l =>
      if l.out || loadOver l then s
      else if s.flag pgMBCTL MAILBOX_CTL_FW_LOC_LOC then s.loadExt l else s.loadTm8 l

/-! ### Activation (R519 to R521) -/

/-- A core restarts under R514. -/
def coreRestarting (s : State) : Bool := [0, 1].any fun n => emState s n == 3 || emState s n == 1
/-- An activation starts, from its step 1: both cores stop, the epochs rise, and the cores load from the staged bank. -/
def State.activate (s : State) : State :=
  if !s.flag pgMBCTL MAILBOX_CTL_FW_STAT_STAGED then (s.fwResult 3).put pgMBCTL MAILBOX_CTL_FW_STAT_BUSY 0
  else
    let cores := [0, 1].filter fun n => !emDead s n
    let s := s.newEpoch.each cores fun s n => s.loadCore n 3
    let s := s.put pgMBCTL MAILBOX_CTL_FW_STAT_BUSY 1
    s.fwm fun w => { w with act := some { start := s.now, cores := cores }, held := false }
/-- An activation falls back (R520): to the previous bank, or to HALTED where there is none. -/
def State.fallBack (s : State) (a : FwAct) : State :=
  let s := s.fwm fun w => { w with act := none }
  let s := s.newEpoch.each a.cores fun s n => if s.fw.active then s.loadCore n 4 else s.coreStops n 0
  let s := s.fwUnstage.put pgMBCTL MAILBOX_CTL_FW_STAT_BUSY 0
  (s.fwResult (if s.fw.active then 6 else 7)).irq pgMBCTL 1

/-- A write of FW_CMD. -/
def fwCmdWrite (m : Master) (w : Word32) (s : State) : State :=
  s.gate m pgMBCTL MAILBOX_CTL_FW_CMD true fun s =>
    let op := MAILBOX_CTL_FW_CMD_OP.of w
    let s := s.put pgMBCTL MAILBOX_CTL_FW_CMD_OP op
    let pending := s.flag pgMBCTL MAILBOX_CTL_FW_STAT_PENDING
    let refuse := fun (r : Nat) => (s.fwResult r).refused m pgMBCTL MAILBOX_CTL_FW_CMD
    if op = 0 then s
    else if s.flag pgMBCTL MAILBOX_CTL_FW_STAT_BUSY ∨ 3 < op ∨ (pending ∧ op ≠ 3) then refuse 2
    else match op with
      | 1 =>
        let s := (s.fwUnstage.put pgMBCTL MAILBOX_CTL_FW_STAT_BUSY 1).put pgMBCTL MAILBOX_CTL_FW_STAT_CHECK 0
        (s.fwm fun w => { w with load := some {}, banks := Sp.del w.banks (1 - fwBank s) }).loadRun
      | 2 =>
        if emergency s then (s.fwResult 1).put pgMBCTL MAILBOX_CTL_FW_STAT_PENDING 1
        else if !s.flag pgMBCTL MAILBOX_CTL_FW_STAT_STAGED then refuse 3
        else if coreRestarting s then (s.put pgMBCTL MAILBOX_CTL_FW_STAT_BUSY 1).fwm fun w => { w with held := true }
        else s.activate
      | _ => (s.fwResult 8).put pgMBCTL MAILBOX_CTL_FW_STAT_PENDING 0
/-- FW_CMD with an OP. -/
def fwCmdWord (op : Nat) : Word32 := BitVec.ofNat 32 (op * 2 ^ 28)
/-- FW_CMD STAGE. -/
def execFwStage (m : Master) (s : State) : Res := .next (fwCmdWrite m (fwCmdWord 1) s)
/-- FW_CMD ACTIVATE. -/
def execFwActivate (m : Master) (s : State) : Res := .next (fwCmdWrite m (fwCmdWord 2) s)
/-- FW_CMD CANCEL. -/
def execFwCancel (m : Master) (s : State) : Res := .next (fwCmdWrite m (fwCmdWord 3) s)

/-- The image has been read: it is authenticated, and staged or refused. -/
def execFwStageDone (s : State) : Res :=
  let s := s.loadRun
  match s.fw.load with
  | none => .next s
  | some l =>
    if !loadOver l then .next s
    else
      let s := (s.fwm fun w => { w with load := none }).put pgMBCTL MAILBOX_CTL_FW_STAT_BUSY 0
      let chk := if l.bad then 0 else imageCheck l.data
      let s := s.put pgMBCTL MAILBOX_CTL_FW_STAT_CHECK chk
      let s := if l.bad then s.fwResult 5
        else if chk ≠ 0 then s.fwResult 4
        else
          let s := s.fwm fun w => { w with banks := Sp.set w.banks (1 - fwBank s) (Mem.writeN [] 0 l.data (imageLen l.data)) }
          ((s.put pgMBCTL MAILBOX_CTL_FW_STAT_STAGED 1).wr (pgMBCTL + MAILBOX_CTL_FW_SVER) (BitVec.ofNat 32 (le32 l.data 8))).fwResult 0
      .next (s.irq pgMBCTL 0)
/-- A pending activation starts by itself. -/
def execPendingActivationStart (s : State) : Res :=
  if !s.flag pgMBCTL MAILBOX_CTL_FW_STAT_PENDING ∨ emergency s ∨ !s.clockOn ∨ s.now < s.energyAcc.fellAt + 1000000 then .next s
  else
    let s := s.put pgMBCTL MAILBOX_CTL_FW_STAT_PENDING 0
    .next (if coreRestarting s then (s.put pgMBCTL MAILBOX_CTL_FW_STAT_BUSY 1).fwm fun w => { w with held := true } else s.activate)
/-- Every core runs and has kicked: the bank flips. -/
def execActivationCommit (s : State) : Res :=
  match s.fw.act with
  | none => .next s
  | some a =>
    if !a.cores.all fun n => emRuns s n && a.kicked.contains n && !a.spoiled.contains n then .next s
    else
      let b := 1 - fwBank s
      let x := bankHeader s b
      let s := (s.fwm fun w => { w with act := none, active := true }).put pgMBCTL MAILBOX_CTL_FW_STAT_BANK b
      let s := (s.wr (pgMBCTL + MAILBOX_CTL_FW_VER) (BitVec.ofNat 32 (le32 x 8))).wr (pgMBCTL + MAILBOX_CTL_MB_ID) (BitVec.ofNat 32 (le32 x 0xC))
      let s := (s.fwUnstage.bump pgMBCTL MAILBOX_CTL_FW_STAT_COMMITS).put pgMBCTL MAILBOX_CTL_FW_STAT_BUSY 0
      .next ((s.fwResult 0).irq pgMBCTL 1)
/-- A core has not kicked, loaded from the staged bank, within 50 ms of step 1. -/
def execActivationKickTimeout (s : State) : Res :=
  match s.fw.act with
  | none => .next s
  | some a =>
    if !s.clockOn ∨ s.now < a.start + 5000000 ∨ (a.cores.all fun n => a.kicked.contains n && !a.spoiled.contains n) then .next s else .next (s.fallBack a)

/-! ### The cores (R513, R514) -/

/-- The bank that a core loads from: in an activation the staged one, but for a core restarted in it under R514 (R513, R514, R520). -/
def loadBank (s : State) (n : Nat) : Nat :=
  match s.fw.act with
  | some a => if a.spoiled.contains n then fwBank s else 1 - fwBank s
  | none => fwBank s
/-- A core's section in a bank: its first byte, length, digest and entry (R516). -/
def sectionOf (s : State) (b n : Nat) : Nat × Nat × Nat × Nat :=
  let x := bankHeader s b
  if n = 0 then (0x100, le32 x 0x10, be32 x 0x40, le32 x 0x14) else (em1At x, le32 x 0x18, be32 x 0x60, le32 x 0x1C)
/-- The section's bytes, and whether their digest is that of the header (R513). A bank without an image has no section. -/
def sectionBytes (s : State) (b n : Nat) : Nat :=
  let (at_, len, _) := sectionOf s b n
  Mem.readN (Sp.get [] s.fw.banks b) at_ len
def sectionGood (s : State) (b n : Nat) : Bool :=
  let (_, len, digest, _) := sectionOf s b n
  sha256 (sectionBytes s b n) len == digest
/-- A core has loaded: its section stands in its SRAM, and where the digest matches it starts at its entry (R513). -/
def execEmLoadDone (n : Nat) (s : State) : Res :=
  if 2 ≤ n ∨ (emState s n ≠ 1 ∧ emState s n ≠ 3) then .next s
  else if sectionGood s (loadBank s n) n then
    let b := loadBank s n
    let x := bankHeader s b
    let (_, len, _, entry) := sectionOf s b n
    let s := s.put pgMBCTL (emFld n MAILBOX_CTL_EM_STAT_STATE) 2
    let s := s.put pgMBCTL ⟨MAILBOX_CTL_EM_CTL, n, n⟩ 0
    let s := s.fwm fun w => { w with
      sram := Sp.set w.sram n (Mem.writeN [] 0 (sectionBytes s b n) len), entry := Sp.set w.entry n entry,
      kickAt := Sp.set w.kickAt n s.now, runAt := Sp.set w.runAt n s.now, vers := Sp.set w.vers n (le32 x 8, le32 x 0xC) }
    .next (s.cond (s.fw.held && !coreRestarting s) fun s => (s.fwm fun w => { w with held := false }).activate)
  else
    let s := (s.coreStops n 0).put pgMBCTL (emFld n MAILBOX_CTL_EM_STAT_CAUSE) 6
    match s.fw.act with
    | some a => .next (s.fallBack a)
    | none => .next (s.cond (s.fw.held && !coreRestarting s) fun s => (s.fwm fun w => { w with held := false }).activate)
/-- A write of WDT_KICKn. -/
def execWdtKick (m : Master) (n : Nat) (s : State) : Res :=
  let n := n % 2
  .next (s.gate m pgMBCTL (MAILBOX_CTL_WDT_KICK + 4 * n) false fun s =>
    s.cond (emRuns s n && m == (if n = 0 then .em0 else .em1)) fun s =>
      s.fwm fun w => { w with
        kickAt := Sp.set w.kickAt n s.now, act := w.act.map fun a => { a with kicked := NSet.insert a.kicked n } })
/-- A watchdog has run for 10 ms. -/
def execWatchdogExpiry (n : Nat) (s : State) : Res :=
  if 2 ≤ n ∨ !emRuns s n ∨ !s.clockOn ∨ s.now < Sp.get 0 s.fw.kickAt n + 1000000 then .next s
  else .next (s.restartCore n 1)
/-- A write of EM_CTL. A core that failed the boot self-test, and one that is HALTED for want of a first activation (R513), is not
restarted (log entry 33). -/
def emCtlWrite (m : Master) (w : Word32) (s : State) : State :=
  s.gate m pgMBCTL MAILBOX_CTL_EM_CTL true fun s =>
    s.each ([0, 1].filter fun n => w.toNat.testBit n) fun s n =>
      s.cond (!emDead s n && (s.fw.active || emState s n != 0)) fun s =>
        (s.put pgMBCTL ⟨MAILBOX_CTL_EM_CTL, n, n⟩ 1).restartCore n 2
/-- EM_CTL.RESTARTn written to 1. -/
def execEmRestart (m : Master) (n : Nat) (s : State) : Res := .next (emCtlWrite m (BitVec.ofNat 32 (2 ^ (n % 2))) s)

/-! ### Ring indices and reports (R522, R528, R530) -/

/-- A write of REQ_PROD. -/
def execReqProdWrite (m : Master) (r prod : Nat) (s : State) : Res :=
  let r := r % 2
  let b := mboxBase r
  .next (s.gate m b MBOX_REQ_PROD false fun s =>
    let p := prod % 256
    let old := idxDiff (reqProd s r) (reqCons s r)
    let new := idxDiff p (reqCons s r)
    if m.isEm then s
    else if 16 < new ∨ new < old then (s.refused m b MBOX_REQ_PROD).fabStat m (b + MBOX_REQ_PROD)
    else (s.put b MBOX_REQ_PROD_INDEX p).mboxAuto r 256)
/-- A write of RSP_CONS. One that would pass RSP_PROD, or move backwards, is ignored and flagged as for REQ_PROD (log entry 33). -/
def execRspConsWrite (m : Master) (r cons : Nat) (s : State) : Res :=
  let r := r % 2
  let b := mboxBase r
  .next (s.gate m b MBOX_RSP_CONS false fun s =>
    let c := cons % 256
    if m.isEm then s
    else if idxDiff (rspProd s r) (rspCons s r) < idxDiff c (rspCons s r) then
      (s.refused m b MBOX_RSP_CONS).fabStat m (b + MBOX_RSP_CONS)
    else
      let s := s.put b MBOX_RSP_CONS_INDEX c
      let s := s.cond (c == rspProd s r) fun s => s.put b ⟨HDR_IRQ_STAT, 0, 0⟩ 0
      s.mboxAuto r 256)

/-- ECHO of a core: the payload comes back. -/
def echo (len : Nat) (words : List Nat) (s : State) : Reply × State := (some (0, words, len), s)
/-- INFO of core n. -/
def info (n : Nat) (s : State) : Reply × State :=
  let (img, ifv) := Sp.get (0, 0) s.fw.vers n
  let up := s.now - Sp.get 0 s.fw.runAt n
  (some (0, [img, ifv, up % 2 ^ 32, up / 2 ^ 32], 16), s)
/-- ECHO (EM0). -/
def execEcho (r : Nat) (s : State) : Res := message 0x0001 0 r (fun n w s => echo n w s) s
/-- INFO (EM0). -/
def execInfo (r : Nat) (s : State) : Res := message 0x0002 0 r (fun _ _ s => info 0 s) s
/-- ECHO (EM1). -/
def execEm1Echo (r : Nat) (s : State) : Res := message 0x8001 0 r (fun n w s => echo n w s) s
/-- INFO (EM1). -/
def execEm1Info (r : Nat) (s : State) : Res := message 0x8002 0 r (fun _ _ s => info 1 s) s

end Sys2Proof.Machine
end

