-- ==== Sys2Proof/Machine/Power.lean ====
section
/-! DEFINITION. The commands of power and energy (spec/16_power_and_energy.md): domains, rim states, the Cadence and its budget,
pace and temperature, EMERGENCY and the peak-current governor. -/
namespace Sys2Proof.Machine

/-! ### Domains (R473, R474) -/

/-- The ports of a port group's or mover engine's domain. -/
def domPorts (n : Nat) : List Nat :=
  if n < 170 then []
  else if n < 178 then [n - 170]
  else if n < 180 then (List.range 8).map (· + 8 + 8 * (n - 178))
  else if n < 182 then (List.range 16).map (· + 24 + 16 * (n - 180))
  else if n < 186 then (List.range 4).map (· + 56 + 4 * (n - 182))
  else []
/-- A section switch runs, or a section is in cache mode. -/
def cacheInUse (s : State) : Bool := s.get pgCACHE CACHE_SEC_STAT_CUR != 0 || s.cache.switch.isSome
/-- A domain may be switched off (R474). -/
def domMayOff (s : State) (n : Nat) : Bool :=
  if n < 168 then
    let layer := (n - 136) / 4
    let sector := (n - 136) % 4
    ((List.range 4).all fun k => let st := rimPower s layer (4 * sector + k); st == 3 || st == 5) &&
      (List.range 4).all fun k => physOf s layer (4 * sector + k) != 16
  else if n < 170 then let st := s.get pgHUB (if n = 168 then HUB_PLANE_STAT_A_STATE else HUB_PLANE_STAT_B_STATE); st == 2 || st == 3
  else if n < 186 then (domPorts n).all fun x => portState s x == 1
  else if n < 190 then lpState s (n - 186) == 0 || lpState s (n - 186) == 6
  else if n = 193 then !cacheInUse s
  else s.get pgREC RECORDER_RC_STAT_STATE == 0
/-- A temperature in 0.125 °C. -/
def tempOf (s : State) (q : Nat) : Int := signed 12 (s.get pgPOWER (POWER_SEC_TEMP.at 4 q))
/-- The hottest sector of those that take part, the lowest number first. -/
def hottest (s : State) : Option Nat :=
  (List.range 32).foldl (fun a q =>
    if !s.flag pgPOWER (POWER_SEC_VALID.at 4 q) then a
    else match a with
      | some b => if tempOf s b < tempOf s q then some q else a
      | none => some q) none
/-- TH_STAT names the hottest sector (R483). -/
def State.thStat (s : State) : State :=
  match hottest s with
  | some q => (s.put pgPOWER POWER_TH_STAT_SECTOR q).put pgPOWER POWER_TH_STAT_TEMP (s.get pgPOWER (POWER_SEC_TEMP.at 4 q))
  | none => s
/-- Over-temperature as the sectors that take part show it (R474, R483), with what follows for EMERGENCY (R495). -/
def State.otUpdate (s : State) : State :=
  let ot := (List.range 32).any fun q => s.flag pgPOWER (POWER_SEC_VALID.at 4 q) && s.flag pgPOWER (POWER_SEC_OT.at 4 q)
  (s.put pgPOWER POWER_EMG_STAT_OT (b2n ot)).emgUpdate
/-- The power-up of a domain runs. -/
def rising (s : State) (n : Nat) : Bool := s.domUp.any fun e => e.1 == n
/-- Ticks that a domain takes to come on (R474): 10 µs for a sector periphery or a Hub plane, 5 µs for the others. -/
def domTime (n : Nat) : Nat := if n < 170 then 1000 else 500
/-- A domain goes off. -/
def State.domOff (s : State) (n : Nat) : State :=
  let s := { s with domUp := Sp.del s.domUp n }.setDom n false
  if n < 168 then
    let q := n - 136
    let s := s.nrg fun e => { e with current := Sp.del e.current q }
    ((s.put pgPOWER (POWER_SEC_VALID.at 4 q) 0).put pgPOWER (POWER_SEC_OT.at 4 q) 0).paceDevice.thStat.otUpdate
  else if n < 170 then s
  else if n < 186 then s.each (domPorts n) fun s x => s.put (portBase x) PORT_PSTAT_STATE 0
  else if n < 190 then (s.setLanes (n - 186) 0 0).lpSet (n - 186) 8
  else if n = 194 then { s with recd := { s.recd with slots := [], waiting := [], writing := none } }
  else s
/-- The refusal reason of a DOM_CMD (R474), 0 for none. -/
def domReason (s : State) (n : Nat) (on : Bool) : Nat :=
  if 194 < n ∨ !domPresent s.cfg n then 1
  else if n < 136 then 2
  else if 190 ≤ n ∧ n ≤ 192 then 4
  else if on then b2n (s.domDead.contains n) * 3
  else if domOn s n && !domMayOff s n then 3
  else 0
/-- A write of DOM_CMD. -/
def domCmdWrite (m : Master) (w : Word32) (s : State) : State :=
  s.gate m pgPOWER POWER_DOM_CMD false fun s =>
    let s := s.setFields m pgPOWER POWER_DOM_CMD w
    s.cond (POWER_DOM_CMD_GO.of w == 1) fun s =>
      let n := s.get pgPOWER POWER_DOM_CMD_DOMAIN
      let on := s.flag pgPOWER POWER_DOM_CMD_ON
      let r := domReason s n on
      let s := (s.put pgPOWER POWER_DOM_STAT_DOMAIN n).put pgPOWER POWER_DOM_STAT_REASON r
      if r ≠ 0 then ((s.put pgPOWER POWER_DOM_STAT_REJ 1).irq pgPOWER 5).refused m pgPOWER POWER_DOM_CMD
      else if on then (if domOn s n || rising s n then s else { s with domUp := Sp.set s.domUp n s.now })
      else s.cond (domOn s n || rising s n) fun s => s.domOff n
/-- DOM_CMD with ON 1. -/
def execDomCmdOn (m : Master) (n : Nat) (s : State) : Res :=
  .next (domCmdWrite m (BitVec.ofNat 32 (2 ^ 31 + 2 ^ 30 + n % 256)) s)
/-- DOM_CMD with ON 0. -/
def execDomCmdOff (m : Master) (n : Nat) (s : State) : Res := .next (domCmdWrite m (BitVec.ofNat 32 (2 ^ 31 + n % 256)) s)
/-- A domain has powered up. -/
def execDomainOnDone (n : Nat) (s : State) : Res :=
  if !rising s n ∨ s.now < Sp.get 0 s.domUp n + domTime n then .next s
  else
    let s := { s with domUp := Sp.del s.domUp n }.setDom n true
    .next (if n < 168 then s
      else if n < 170 then s.cond (planeState s (n - 168) != 3) fun s => s.setPlane (n - 168) 2
      else if n < 186 then s.each (domPorts n) fun s x => s.put (portBase x) PORT_PSTAT_STATE (if parked s then 5 else 1)
      else if n < 190 then s.lpDown (n - 186)
      else if n = 194 then s.put pgREC RECORDER_RC_STAT_STATE 0
      else s)

/-! ### Rim states (R475 to R480) -/

/-- A write of a rim's PWR_CTL. -/
def pwrCtlWrite (m : Master) (layer p : Nat) (w : Word32) (s : State) : State :=
  s.gate m (rimBase layer p) RIM_PWR_CTL true fun s =>
    (s.put (rimBase layer p) RIM_PWR_CTL_IDLE_US (RIM_PWR_CTL_IDLE_US.of w)).writeTarget m layer p (RIM_PWR_CTL_TARGET.of w)
/-- A write of PWR_CTL with a TARGET. -/
def targetWrite (m : Master) (layer p idle t : Nat) (s : State) : Res :=
  if 8 ≤ layer ∨ 16 < p then .next s else .next (pwrCtlWrite m layer p (BitVec.ofNat 32 (idle % 256 * 256 + t)) s)
/-- TARGET ON. -/
def execTargetOn (m : Master) (layer p idle : Nat) (s : State) : Res := targetWrite m layer p idle 0 s
/-- TARGET FREEWHEEL. -/
def execTargetFreewheel (m : Master) (layer p idle : Nat) (s : State) : Res := targetWrite m layer p idle 1 s
/-- TARGET OFF. -/
def execTargetOff (m : Master) (layer p idle : Nat) (s : State) : Res := targetWrite m layer p idle 2 s

/-- A rim drains. -/
def draining (s : State) (layer p : Nat) : Bool := rimPower s layer p == 1 && !(rimOf s layer p).moving && decide (p < 16)
/-- The drain of a rim ends, and its transition starts (R476). -/
def State.drained (s : State) (layer p : Nat) : State := s.rim layer p fun r => { r with moving := true, startedAt := s.now }
/-- Ticks of the transition that a rim makes (R476): out of ON 0.4 µs to FREEWHEEL and 1 µs to OFF, FREEWHEEL to OFF 1 µs, and awake
2 µs from FREEWHEEL and 20 µs from OFF, where its domain is off. -/
def rimTime (s : State) (layer p goal : Nat) : Nat :=
  if goal = 2 then 40 else if goal = 3 then 100 else if domOn s (17 * layer + p) then 200 else 2000
/-- The queue of a draining rim is empty. -/
def execRimDrainEnd (layer p : Nat) (s : State) : Res :=
  if !draining s layer p ∨ (rimQueue s layer p).length ≠ 0 ∨ (rimOf s layer p).half.isSome ∨ (rimOf s layer p).krun ∨
      claimsAt s layer p ≠ [] then .next s
  else .next (s.drained layer p)
/-- A drain has lasted for DRAIN_LIM. -/
def execDrainLimitExpiry (layer p : Nat) (s : State) : Res :=
  if !draining s layer p ∨ s.now < (rimOf s layer p).startedAt + 100 * s.get pgPOWER POWER_DRAIN_LIM_US then .next s
  else
    let s := s.settle layer p
    let s := (s.each (rimQueue s layer p) fun s a => s.failAccess a stDISABLED).dropSteps layer p
    .next ((s.put (rimBase layer p) RIM_PWR_STAT_FORCED 1).drained layer p)
/-- A rim reaches the state that it moves toward. -/
def execRimStateReached (layer p : Nat) (s : State) : Res :=
  let st := rimPower s layer p
  let r := rimOf s layer p
  match r.goal with
  | none => .next s
  | some g =>
    if (st = 1 ∧ !r.moving) ∨ 16 < p ∨ st = 5 ∨ s.now < r.startedAt + rimTime s layer p g then .next s
    else
      let s := (s.setRimPower layer p g).rim layer p fun r => { r with goal := none, moving := false, idleFrom := s.now }
      let s := if g = 3 then s.setDom (17 * layer + p) false
        else s.cond (g == 0 && !domOn s (17 * layer + p)) fun s =>
          (s.setDom (17 * layer + p) true).clearRim layer p (s.get pgINTEG INTEG_IG_CTL_MAINT_TID)
      .next (s.applyHeld layer p)
/-- The oldest wake whose rim has reached FREEWHEEL or OFF starts, at most sixteen in 1 µs. -/
def execRimWakeStart (s : State) : Res :=
  let recent := s.energyAcc.wakeStarts.filter fun t => decide (s.now < t + 100)
  let ready := fun (k : Nat) => let st := rimPower s (k / 17) (k % 17); (st == 2 || st == 3) && (rimOf s (k / 17) (k % 17)).goal.isNone
  let live := s.wakes.filter fun k => let st := rimPower s (k / 17) (k % 17); st != 0 && st != 4 && st != 5
  match live.find? ready with
  | none => .next { s with wakes := live }
  | some k =>
    if 16 ≤ recent.length then .next { s with wakes := live }
    else
      let layer := k / 17
      let p := k % 17
      let s := ({ s with wakes := live.filter (· != k) }.nrg fun e => { e with wakeStarts := recent ++ [s.now] })
      let s := (s.setRimPower layer p 4).bump (rimBase layer p) RIM_PWR_STAT_WAKES
      .next (s.rim layer p fun r => { r with goal := some 0, startedAt := s.now })
/-- A rim has been idle for IDLE_US. -/
def execRimIdleExpiry (layer p : Nat) (s : State) : Res :=
  let us := s.get (rimBase layer p) RIM_PWR_CTL_IDLE_US
  if s.cfg.dies ≤ layer ∨ 16 ≤ p ∨ us = 0 ∨ s.get (rimBase layer p) RIM_PWR_CTL_TARGET ≠ 0 ∨ rimPower s layer p ≠ 0 ∨
      s.now < (rimOf s layer p).idleFrom + 100 * us ∨ !rimPermits s layer p 2 ∨ underTest s layer p then .next s
  else .next (s.startDrain layer p 2)

/-! ### The Cadence (R484 to R493) -/

/-- Nanojoules of a total in the ledger's unit. -/
def njOf (n : Nat) : Nat := n / njUnits
/-- The supply factor of R485 in 1/4,096 for a supply in mV. -/
def supplyFactor (mv : Nat) : Nat := (8192 * mv * mv + 810000) / 1620000
/-- A Cadence boundary; the supplies are those sampled at it, in mV. -/
def execCadenceBoundary (arrMv periMv : Nat) (s : State) : Res :=
  let k := s.energyAcc.cad + 1
  if !s.clockOn ∨ s.now < 10000 * k then .next s
  else
    let e := s.energyAcc
    let limit := if e.budget = 0 ∧ !s.flag pgPOWER POWER_ARB_STAT_FLOOR_ACT then e.grant else e.budget
    let total := e.cls.foldl (· + ·) 0 + e.nobody + e.stat * njUnits
    let s := s.cond (decide (limit * 1000 * njUnits < total)) fun s => (s.bumpSat pgPOWER POWER_OVER_CNT_COUNT).irq pgPOWER 3
    let s := s.each [(0, POWER_LAST_RT), (1, POWER_LAST_LC), (2, POWER_LAST_BE), (3, POWER_LAST_MT)] fun s x =>
      s.wr (pgPOWER + x.2) (BitVec.ofNat 32 (sat32 (njOf (e.cls.getD x.1 0))))
    let s := s.wr (pgPOWER + POWER_LAST_STAT) (BitVec.ofNat 32 (sat32 e.stat))
    let s := s.wr (pgPOWER + POWER_CAD_IDX) (BitVec.ofNat 32 k)
    let s := s.wr (pgPOWER + POWER_SUPPLY) (BitVec.ofNat 32 (periMv % 2 ^ 16 * 2 ^ 16 + arrMv % 2 ^ 16))
    let s := (s.put pgPOWER POWER_VFACT_VF_PERI (supplyFactor (periMv % 2 ^ 16))).put pgPOWER POWER_VFACT_VF_ARR (supplyFactor (arrMv % 2 ^ 16))
    let leak := s.get pgPOWER POWER_LEAK_EST_NJ
    let grant := s.get pgPOWER POWER_GRANT_UJ
    let s := s.nrg fun e => { e with
      ledger := e.ledger + leak * njUnits, stat := leak, cls := [0, 0, 0, 0], nobody := 0, cad := k, grant := grant, beAdmitted := false,
      chunks := e.chunks.map fun c => { c with live := false } }
    let s := s.em0Expire
    let floor := emergency s || s.energyAcc.em0Down
    let b := if floor then s.get pgPOWER POWER_FLOOR_UJ else grant
    let s := s.put pgPOWER POWER_ARB_STAT_FLOOR_ACT (b2n floor)
    let rt := njInt (1000 * s.get pgPOWER POWER_RT_RES_UJ)
    let lc := if emergency s then 0 else njInt (1000 * s.get pgPOWER POWER_LC_RES_UJ)
    let s := s.nrg fun e => { e with
      budget := b, rtPool := rt, lcPool := lc, pool := njInt (1000 * b) - njInt leak - rt - lc }
    let s := s.retryChunks true
    .next (s.each (triggers s 6) fun s n =>
      s.cond (k % (bits (trgCfg s n) 15 0 + 1) == 0) fun s => s.trigger n (k % 2 ^ 32) 0)
/-- EM_ALIVE has not been written for two Cadences (R489). -/
def execEmAliveExpiry (s : State) : Res := .next s.em0Expire

/-! ### Pace and temperature (R481 to R483) -/

/-- A sector's periphery is present and on. -/
def sectorOn (s : State) (q : Nat) : Bool := decide (q < 32) && domPresent s.cfg (136 + q) && domOn s (136 + q)
/-- A ring monitor reports: sector 4 * layer + s, or the host-die periphery for 32. -/
def execRingMonitorReport (unit pace : Nat) (s : State) : Res :=
  if 32 < unit ∨ (unit < 32 ∧ !sectorOn s unit) then .next s
  else
    let s := if unit = 32 then s.put pgPOWER POWER_PACE_DEV_PERI pace
      else (s.put pgPOWER (POWER_SEC_PACE.at 4 unit) pace).reading unit 1
    .next s.paceDevice

/-- The over-temperature level: values above 105 °C act as 105 °C. -/
def otLevel (s : State) : Int := min (signed 12 (s.get pgPOWER POWER_TH_CFG_OT)) 840
/-- A sector's thermal sensor reports, in 0.125 °C, two's complement. -/
def execThermalReport (sector temp : Nat) (s : State) : Res :=
  if !sectorOn s sector then .next s
  else
    let was := s.flag pgPOWER (POWER_SEC_OT.at 4 sector)
    let v := signed 12 temp
    let hot := decide (otLevel s ≤ v) || (was && decide (otLevel s - 24 ≤ v))
    let s := ((s.put pgPOWER (POWER_SEC_TEMP.at 4 sector) temp).put pgPOWER (POWER_SEC_OT.at 4 sector) (b2n hot)).reading sector 2
    let s := s.paceDevice.thStat
    let s := s.cond (decide (signed 12 (s.get pgPOWER POWER_TH_CFG_WARN) ≤ v)) fun s => s.irq pgPOWER 2
    .next s.otUpdate

/-! ### EMERGENCY and the governor (R494 to R496) -/

/-- POWER_ALERT has held a new level for two ticks. -/
def execPowerAlertChange (level : Bool) (s : State) : Res :=
  if !s.clockOn then .next s else .next (s.put pgPOWER POWER_EMG_STAT_ALERT (b2n level)).emgUpdate
/-- A write of EMG_CTL.FORCE. -/
def execEmgForceWrite (m : Master) (force : Bool) (s : State) : Res :=
  .next (s.gate m pgPOWER POWER_EMG_CTL true fun s =>
    ((s.put pgPOWER POWER_EMG_CTL_FORCE (b2n force)).put pgPOWER POWER_EMG_STAT_FORCED (b2n force)).emgUpdate)
/-- The 10 ms after the last cause have passed. -/
def execEmergencyExit (s : State) : Res :=
  if !emergency s ∨ !s.flag pgPOWER POWER_EMG_STAT_CLEARING ∨ s.now < s.energyAcc.clearAt then .next s
  else
    let s := (s.put pgPOWER POWER_EMG_STAT_ACTIVE 0).put pgPOWER POWER_EMG_STAT_CLEARING 0
    .next ((s.nrg fun e => { e with fellAt := s.now }).irq pgPOWER 1)
/-- A governor window begins (R494). Windows follow each other every 16 ns: window w starts at 16 w ns, which must lie before the tick of
10 ns that follows the timestamp (DEDUCED, log entry 8). -/
def execGovernorWindow (s : State) : Res :=
  if (10 * s.now + 9) / 16 ≤ s.hub.govWin then .next s
  else .next (s.hubf fun h => { h with govStarts := 0, govWin := max (h.govWin + 1) (10 * s.now / 16) })

end Sys2Proof.Machine
end

