-- ==== Sys2Proof/Machine/RegRead.lean ====
section
/-! DEFINITION. What a read of a register returns (spec/20_register_pages.md R573 to R582, spec/17_control_and_firmware.md R507,
R512): the common header, the fields that show the state of a unit, and the effects of a read. -/
namespace Sys2Proof.Machine

/-! ### The common header (R577 to R582) -/

/-- IRQ_STAT bits that a page defines. -/
def irqN (p : Page) : Nat :=
  match p with
  | .sema | .cache => 1
  | .hub | .mailboxCtl => 4
  | .rimalu => 9
  | .mover => 32
  | .link => 10
  | .windowCtl | .mbox => 2
  | .integ => 7
  | .power | .recorder => 6
  | .test => 3
  | _ => 0
/-- The power domain of a page's unit; 255 where it covers none or several. -/
def pageDomain (p : PageAt) : Nat :=
  match p.page with
  | .port =>
    let x := p.inst
    if x < 8 then 170 + x else if x < 24 then 178 + (x - 8) / 8 else if x < 56 then 180 + (x - 24) / 16 else 182 + (x - 56) / 4
  | .syncCtr | .syncRing | .syncTag | .syncBar => 190
  | .cache => 193
  | .recorder => 194
  | .rim => p.inst
  | _ => 255
/-- A page type that is present only in some configurations. -/
def pageOptional (p : PageAt) : Bool :=
  match p.page with
  | .port => decide (4 ≤ p.inst ∧ p.inst < 8)
  | .cache | .link | .windowCtl | .windowTab | .windowCch => true
  | .layer => decide (2 ≤ p.inst)
  | .rim => decide (34 ≤ p.inst)
  | _ => false
/-- The enable that CTL.EN aliases (R579). -/
def aliasEn (p : Page) : Option Fld :=
  match p with
  | .port => some PORT_PCTL_EN
  | .windowCtl => some WINDOW_CTL_WCTL_EN
  | .recorder => some RECORDER_RC_CTL_EN
  | _ => none
/-- STAT.DRAINING and STAT.IDLE of a page (R580). -/
def pageDrains (s : State) (p : PageAt) : Bool × Bool :=
  match p.page with
  | .port => let st := portState s p.inst
    (st == 3, decide (st < 2))
  | .hub => (planeState s 0 == 1 || planeState s 1 == 1, false)
  | .mover => ((List.range 16).any fun c => chanState s c == 3, (List.range 16).all fun c => decide (chanState s c < 2))
  | .rimalu => ((List.range 4).any fun q => raState s q == 2, (List.range 4).all fun q => raState s q == 0)
  | .cache => (s.cache.switch.isSome, s.get pgCACHE CACHE_SEC_STAT_CUR == 0 && s.cache.switch.isNone)
  | .link =>
    let ps := List.range s.cfg.links
    (ps.any fun q => lpState s q == 5, ps.all fun q => lpState s q == 0 || lpState s q == 6 || lpState s q == 8)
  | .windowCtl =>
    let busy := (List.range 256).any (fun w => winState s w == 2) || (List.range 64).any fun c => cchState s c == 2
    (busy, !busy && s.get pgWINCTL WINDOW_CTL_WCTL_EN == 0)
  | .recorder => let st := s.get pgREC RECORDER_RC_STAT_STATE
    (st == 4, st == 0)
  | .rim => let st := rimPower s (p.inst / 17) (p.inst % 17)
    (st == 1, st == 3 || st == 5)
  | _ => (false, false)
/-- The type code of a page (R572). -/
def Page.code : Page → Nat
  | .any => 0 | .ident => 1 | .caps => 2 | .sema => 3 | .port => 4 | .hub => 5 | .regul => 6 | .handleCmd => 7
  | .handleState => 8 | .handleRead => 9 | .handleGuard => 10 | .syncCtr => 11 | .syncRing => 12 | .syncTag => 13 | .syncBar => 14
  | .mover => 15 | .rimalu => 16 | .cache => 17 | .link => 18 | .windowCtl => 19 | .windowTab => 20 | .windowCch => 21
  | .integ => 22 | .power => 23 | .mailboxCtl => 24 | .mbox => 25 | .recorder => 26 | .test => 27 | .layer => 28 | .rim => 29
/-- A word of the common header that a page shows; none for those that registers hold. -/
def headerView (s : State) (p : PageAt) (o : Nat) : Option Nat :=
  let dom := pageDomain p
  if o = HDR_PAGE_ID then some (p.page.code * 2 ^ 24 + p.inst * 2 ^ 8 + 1)
  else if o = HDR_PAGE_CAP then
    some (dom * 2 ^ 24 + b2n (aliasEn p.page).isSome * 2 ^ 23 + b2n (pageOptional p) * 2 ^ 22 + irqN p.page % 64 * 2 ^ 16)
  else if o = HDR_CTL then some (((aliasEn p.page).map fun f => s.get p.base f).getD 0)
  else if o = HDR_STAT then
    let (d, i) := pageDrains s p
    some (b2n d * 2 ^ 31 + b2n i * 2 ^ 30 + b2n (dom != 255 && !domOn s dom) * 2 ^ 29 + b2n (parked s) * 2 ^ 28 +
      s.get p.base HDR_ERR_INFO_VALID * 2 ^ 27)
  else if o = HDR_OWNER then
    some (match pageGroup p with
      | some g => semOwner s g * 2 ^ 6 + g
      | none => 2 ^ 5)
  else none

/-! ### Interrupt outputs (R512) and pins (R589) -/

/-- Every page that a configuration holds. -/
def allPages (d : Dev) : List PageAt :=
  (fixedPages ++ (List.range 72).map (fun x => (⟨.port, x, portBase x⟩ : PageAt)) ++ (List.range 8).map (fun n => (⟨.layer, n, layerBase n⟩ : PageAt)) ++
    (List.range 136).map (fun q => (⟨.rim, q, rimBase (q / 17) (q % 17)⟩ : PageAt))).filter (pagePresent d)
/-- A page has a pending enabled interrupt. -/
def pagePends (s : State) (p : PageAt) : Bool := (s.rd (p.base + HDR_IRQ_STAT) &&& s.rd (p.base + HDR_IRQ_EN)) != 0
/-- IRQ_SUM. -/
def irqSum (s : State) : Nat :=
  ((allPages s.cfg).filter (pagePends s)).foldl (fun a p => match pageGroup p with
    | some g => a ||| 2 ^ g
    | none => a) 0
/-- The output of control port h: 0 CPA_IRQ, 1 CPB_IRQ. -/
def cpIrq (s : State) (h : Nat) : Bool :=
  let route := (s.rd (pgMBCTL + MAILBOX_CTL_IRQ_RTE)).toNat
  (List.range 32).any (fun g => bit (irqSum s) g && bit route g == (h == 1)) || pagePends s ⟨.mbox, h, mboxBase h⟩
/-- The pins BOOT_DONE and PARKED_OUT. -/
def bootDone (s : State) : Bool := s.flag pgTEST TEST_BST_STAT_DONE
def parkedOut (s : State) : Bool := parked s

/-! ### Registers that show the state of a unit -/

/-- Index of an in-page offset in an array of `n` registers `st` bytes apart. -/
def idxIn (o base st n : Nat) : Option Nat :=
  if base ≤ o ∧ (o - base) % st = 0 ∧ (o - base) / st < n then some ((o - base) / st) else none
/-- The key of a word captured for a master (R507). -/
def capKey (m : Master) (off : Nat) : Nat := m.code * 2 ^ 21 + off
/-- A 64-bit value and the pair of registers that shows it, by the offset of its low or high word (R507). -/
def pairAt (s : State) (off : Nat) : Option (Bool × Nat) :=
  let both := fun (lo hi v : Nat) => if off = lo then some (false, v) else if off = hi then some (true, v) else none
  let reg := fun (lo hi : Nat) => (s.rd lo).toNat + 2 ^ 32 * (s.rd hi).toNat
  let fecc := fun (p : Nat) =>
    let lo := pgLINK + LINK_P_FECC_LO + 256 * p
    let hi := pgLINK + LINK_P_FECC_HI + 256 * p
    both lo hi (if s.cfg.links ≤ p then 0 else reg lo hi)
  match both (pgIDENT + IDENT_TIME_LO) (pgIDENT + IDENT_TIME_HI) s.now with
  | some r => some r
  | none => match both (pgLINK + LINK_DTIME_LO) (pgLINK + LINK_DTIME_HI) (domainTime s) with
    | some r => some r
    | none => match both (pgPOWER + POWER_LEDGER_LO) (pgPOWER + POWER_LEDGER_HI) (s.energyAcc.ledger / njUnits) with
      | some r => some r
      | none =>
        let lo := pgINTEG + INTEG_FAULT_TIME_LO
        let hi := pgINTEG + INTEG_FAULT_TIME_HI
        match both lo hi (reg lo hi) with
        | some r => some r
        | none => (List.range 4).findSome? fecc
/-- The offset of the high word of a pair whose low word lies at an offset. -/
def pairHigh (off : Nat) : Nat :=
  if off = pgPOWER + POWER_LEDGER_LO ∨ off = pgLINK + LINK_DTIME_LO ∨ off = pgIDENT + IDENT_TIME_LO ∨
    off = pgINTEG + INTEG_FAULT_TIME_LO then off + 4 else off - LINK_P_FECC_LO + LINK_P_FECC_HI
/-- Pools as POOL, RT_POOL and LC_POOL show them. -/
def poolWord (v : Int) : Nat := unsigned 32 (v / ((njUnits : Nat) : Int))
/-- TCFGt with its Brake causes. -/
def tcfgView (s : State) (t : Nat) (w : Word32) : Word32 :=
  let w := REGUL_TCFG_BRK_ISSUE.into w (b2n (overBudget s t))
  let w := REGUL_TCFG_BRK_QUEUE.into w (b2n (shareWait s t))
  (REGUL_TCFG_BRAKED.into (REGUL_TCFG_BRK_EMERG.into w (b2n (brakeEmerg s t))) (b2n (braked s t)))
/-- TSTEPt with its occupancy (R203, R220). -/
def tstepView (s : State) (t : Nat) (w : Word32) : Word32 := REGUL_TSTEP_OCC.into w (min (tidOcc s t) 0xFFF)
/-- Braked TIDs from TID t0 up. -/
def brakedWord (s : State) (t0 : Nat) : Nat := (List.range 32).foldl (fun a j => a + b2n (braked s (t0 + j)) * 2 ^ j) 0
/-- SPOOLs. -/
def spoolView (s : State) (sec : Nat) (w : Word32) : Word32 :=
  if 4 * s.cfg.dies ≤ sec then 0
  else
    let n := (poolOf s sec).length
    let w := HUB_SPOOL_HWM.into w (max n (HUB_SPOOL_HWM.of w))
    HUB_SPOOL_OCC.into (HUB_SPOOL_UOCC.into w (min (urgCount s sec) 63)) n
/-- ENGe_STAT. -/
def engView (s : State) (e : Nat) : Nat :=
  let mine := fun (src : Src) => match src with
    | .mover c _ | .engFetch c _ => c / 4 == e
    | _ => false
  MOVER_ENG_STAT_OUTST.into 0 (s.hub.flight.filter fun a => mine a.src).length |>.toNat |>
    (· + (Sp.get [] s.engScale e).length % 16)
/-- A register of the token router that this part does not have: all of them without option T, the credit accounts without Amiys ports
(R303). -/
def routerAbsent (s : State) (o : Nat) : Bool :=
  (decide (MOVER_EXPMAP ≤ o) && !s.cfg.optT) || (decide (MOVER_CA_CFG ≤ o) && s.cfg.links == 0)
/-- Lines of a mover channel that are outstanding (R171). -/
def chanLines (s : State) (c : Nat) : Nat :=
  (s.hub.flight.filter fun a => match a.src with | .mover k _ | .engFetch k _ => k == c | _ => false).length
/-- CHc_STAT. -/
def chStatView (s : State) (c : Nat) (w : Word32) : Word32 :=
  let k := chanOf s c
  let wait := if recWait s c then 5 else match k.jobs with
    | j :: i :: _ => if j.wait = 0 ∧ j.ended ∧ i.words != [] ∧ !i.scrub ∧ bit (i.d 0) 21 then 7 else j.wait
    | [j] => j.wait
    | [] => 0
  let runs := k.jobs.any (·.started)
  let act := if wait ≠ 0 then 2 else if runs ∨ k.recOut.isSome ∨ k.fetch.isSome then 1 else 0
  MOVER_CH_STAT_POSTQ.into (MOVER_CH_STAT_WAIT.into (MOVER_CH_STAT_ACT.into w act) wait) k.chains.length
/-- Qq_STAT. -/
def qStatView (s : State) (q : Nat) (w : Word32) : Word32 :=
  let y := raqOf s q
  let w := RIMALU_Q_STAT_DEPTH.into (RIMALU_Q_STAT_CPL.into w y.cpl.length) y.recs.length
  let w := RIMALU_Q_STAT_RUN.into w (b2n (y.recs.any (·.started)))
  RIMALU_Q_STAT_DEFER.into w (b2n ((chunkOf s (raOwner q)).any fun (h : Chunk) => !h.adm))
/-- Slots from 0 up that a clear in native mode has written to zero, one per pc (R540). -/
def slotsCleared (s : State) : Nat :=
  if s.get pgREC RECORDER_RC_STAT_STATE = 1 ∧ s.get pgREC RECORDER_RC_CTL_MODE = 0 ∧ s.recd.writing = none then s.pcNow - s.recd.clearAt else 0
/-- PSN_E0 as its next read returns it. -/
def psnWord (s : State) : Nat := match s.psnLog with
  | e :: _ => e.e0
  | [] => 0
/-- RCURi, its handle gone stale or not (R334). -/
def rcurView (s : State) (i : Nat) (w : Word32) : Word32 :=
  let stale := ringOn s i && (liveDesc s (ringGet s i SYNC_RING_RCFG0_HANDLE) (ringGet s i SYNC_RING_RCFG0_GEN)).isNone
  SYNC_RING_RCUR_STALE.into w (b2n stale)
/-- RIM_ID (R62). -/
def rimIdView (s : State) (layer p : Nat) (w : Word32) : Word32 :=
  if p < 16 then RIM_RIM_ID_SERVING.into w (b2n (physOf s layer p == p))
  else
    let i := spareFor s layer
    if physOf s layer i = 16 then
      RIM_RIM_ID_LOGICAL.into (RIM_RIM_ID_SECTOR.into (RIM_RIM_ID_SERVING.into w 1) (i / 4)) i
    else w
/-- SEM_MINE of a master. -/
def semMine (s : State) (m : Master) : Nat :=
  (List.range 32).foldl (fun a g => a + b2n (semOwner s g != 0 && semOwner s g == m.holder) * 2 ^ g) 0
/-- The frames of a layer's spare with the lost bit set. -/
def lostFrames (s : State) (layer : Nat) : Nat := (s.array.lost.filter fun k => k / 1024 == 17 * layer + 16).length

/-- The word of a register that shows the state of a unit, for a master, or for the recorder; none where the register holds its
word itself. -/
def regView (s : State) (who : Option Master) (p : PageAt) (o : Nat) : Option Nat :=
  let w := s.rd (p.base + o)
  match p.page with
  | .sema =>
    if o = SEMA_SEM_MINE then some ((who.map (semMine s)).getD 0)
    else if o = SEMA_SEM_STAT then some ((who.map fun m => Sp.get 0 s.captured (capKey m (pgSEMA + o))).getD 0)
    else none
  | .port =>
    if o = PORT_PSTAT ∧ 56 ≤ p.inst then some (PORT_PSTAT_OUTST.into w (chanLines s (p.inst - 56))).toNat
    else if o = PORT_LENS_CTL ∧ portKind p.inst < 2 then some (PORT_LENS_CTL_ENTRIES.into w (portOf s p.inst).scale.length).toNat else none
  | .hub => (idxIn o HUB_SPOOL 4 32).map fun k => (spoolView s k w).toNat
  | .regul =>
    if o = REGUL_BRAKED_LO then some (brakedWord s 0)
    else if o = REGUL_BRAKED_HI then some (brakedWord s 32)
    else match idxIn o REGUL_TCFG 16 64 with
      | some t => some (tcfgView s t w).toNat
      | none => (idxIn o REGUL_TSTEP 16 64).map fun t => (tstepView s t w).toNat
  | .handleState => if o = HANDLE_STATE_HSTATE then some (HANDLE_STATE_HSTATE_STATE.into 0 1).toNat else none
  | .syncRing => (idxIn o SYNC_RING_RCUR 4 128).map fun k => (rcurView s (128 * p.inst + k) w).toNat
  | .syncTag => if o = SYNC_TAG_PARK_NOW then some (s.sync.parks.filter (·.table)).length else none
  | .mover =>
    if o = MOVER_MP_STAT then some s.mport.length
    else if routerAbsent s o then some 0
    else match idxIn o MOVER_ENG_STAT 32 4 with
      | some e => some (engView s e)
      | none => (idxIn o MOVER_CH_STAT 64 16).map fun c => (chStatView s c w).toNat
  | .rimalu =>
    if (o = RIMALU_KSLOT_STAT ∨ RIMALU_KSLOT ≤ o) ∧ !s.cfg.optA then some 0
    else if o = RIMALU_KSLOT_STAT then
      some (RIMALU_KSLOT_STAT_INUSE.into w ((List.range 8).foldl (fun a k => a + b2n (slotInUse s k) * 2 ^ k) 0)).toNat
    else match idxIn o RIMALU_Q_STAT 32 4 with
      | some q => some (qStatView s q w).toNat
      | none => (idxIn o RIMALU_Q_CPL 32 4).map (qCplWord s)
  | .link => if LINK_P_CTL + 256 * s.cfg.links ≤ o ∧ o < LINK_P_CTL + 0x400 then some 0 else none
  | .windowCtl =>
    let sel := fun (reg : Nat) (a b : Fld) => (a.of (s.rd (pgWINCTL + reg)), b.of (s.rd (pgWINCTL + reg)))
    if o = WINDOW_CTL_LCNT_VAL then
      let (src, win) := sel WINDOW_CTL_LCNT_SEL WINDOW_CTL_LCNT_SEL_SRC WINDOW_CTL_LCNT_SEL_WIN
      some (landedOf s win src)
    else if o = WINDOW_CTL_SENT_VAL then
      let (dev, win) := sel WINDOW_CTL_SENT_SEL WINDOW_CTL_SENT_SEL_DEV WINDOW_CTL_SENT_SEL_WIN
      some (sentCount s dev win)
    else if o = WINDOW_CTL_FENCE_STAT then some s.win.fences.length
    else none
  | .integ =>
    if o = INTEG_PSN_STAT then some (INTEG_PSN_STAT_ENTRIES.into w s.psnLog.length).toNat
    else if o = INTEG_PSN_E0 then some (psnWord s)
    else none
  | .power =>
    let e := s.energyAcc
    if o = POWER_POOL then some (poolWord e.pool)
    else if o = POWER_RT_POOL then some (poolWord e.rtPool)
    else if o = POWER_LC_POOL then some (poolWord e.lcPool)
    else if o = POWER_ARB_STAT then
      some (POWER_ARB_STAT_DEFER_NOW.into w (min 65535 (e.chunks.filter fun (h : Chunk) => !h.adm).length)).toNat
    else none
  | .mailboxCtl => if o = MAILBOX_CTL_IRQ_SUM then some (irqSum s) else none
  | .recorder =>
    if o = RECORDER_RC_STAT then
      let now := b2n s.recd.writing.isSome
      let count := if s.get pgREC RECORDER_RC_CTL_MODE = 0 then s.recd.taken - now else s.recd.taken
      let w := RECORDER_RC_STAT_WRITING.into (RECORDER_RC_STAT_COUNT.into w (count % 2048)) now
      some (RECORDER_RC_STAT_QUEUED.into w s.recd.waiting.length).toNat
    else if RECORDER_RECWIN ≤ o then
      let k := (o - RECORDER_RECWIN) / 4
      let slot := 16 * s.get pgREC RECORDER_RC_WIN_BASE + k / 32
      some (if slot < slotsCleared s then 0 else (Sp.get [] s.recd.slots slot).getD (k % 32) 0)
    else none
  | .layer => if o = LAYER_LOST_FRAMES then some (lostFrames s p.inst) else none
  | .rim => if o = RIM_RIM_ID then some (rimIdView s (p.inst / 17) (p.inst % 17) w).toNat else none
  | _ => none

/-- The fields of a register that a read returns: WO and W1S fields read zero (R11), but for FLIP_CTL.ARM (R458). -/
def readable (p : Page) (o : Nat) (r : RegRow) (w : Nat) : Nat :=
  r.fields.foldl (fun a (f : FieldRow) =>
    let hidden := f.acc == .wo || (f.acc == .w1s && !(p == .integ && o == INTEG_FLIP_CTL))
    a + (if hidden then 0 else bits w f.hi f.lo * 2 ^ f.lo)) 0
/-- What a register holds for a reader, without the effects of a read (R534): a master, or the recorder. -/
def peek (s : State) (who : Option Master) (off : Nat) : Nat :=
  match pageAt off with
  | none => 0
  | some p =>
    let o := off - p.base
    if !pagePresent s.cfg p then 0
    else if p.page = .recorder ∧ 0x40 ≤ o ∧ !domOn s 194 then 0
    else match pairAt s off with
      | some (false, v) => v % 2 ^ 32
      | some (true, v) => (match who with
        | some m => Sp.get 0 s.captured (capKey m off)
        | none => v / 2 ^ 32 % 2 ^ 32)
      | none => match rowAt p.page o with
        | none => 0
        | some r =>
          let w := match (if o < 0x40 then headerView s p o else regView s who p o) with
            | some v => v
            | none => (s.rd off).toNat
          readable p.page o r w

/-! ### A read by a master -/

/-- The RC fields of a register cleared: to 0, PACE_MM to its reset values (R11). -/
def State.clearRc (s : State) (off : Nat) (r : RegRow) : State :=
  let w := r.fields.foldl (fun w (f : FieldRow) => if f.acc == .rc then Fld.into ⟨0, f.hi, f.lo⟩ w f.rst else w) (s.rd off)
  s.wr off (match idxIn off (pgHUB + HUB_SPOOL) 4 32 with
    | some sec => HUB_SPOOL_HWM.into w (poolOf s sec).length
    | none => w)
/-- The effects of a master's read at an offset: a capture (R507), an entry taken from a FIFO, RC fields cleared. -/
def State.readDone (s : State) (m : Master) (off : Nat) : State :=
  match pageAt off with
  | none => s
  | some p =>
    let o := off - p.base
    if !pagePresent s.cfg p ∨ (p.page = .recorder ∧ 0x40 ≤ o ∧ !domOn s 194) then s
    else match pairAt s off with
      | some (false, v) => { s with captured := Sp.set s.captured (capKey m (pairHigh off)) (v / 2 ^ 32 % 2 ^ 32) }
      | some _ => s
      | none =>
        if off = pgINTEG + INTEG_PSN_E0 then s.psnRead.2
        else match (if p.page = .rimalu then idxIn o RIMALU_Q_CPL 32 4 else none) with
          | some q => s.popCpl q
          | none => match rowAt p.page o with
            | none => s
            | some r => s.cond (r.fields.any fun (f : FieldRow) => f.acc == .rc) fun s => s.clearRc off r

end Sys2Proof.Machine
end

