-- ==== Sys2Proof/Machine/Test.lean ====
section
/-! DEFINITION. The commands of field tests (spec/19_test.md R562 to R569): the transparent rim test, the isolation tests, and the
messages of EM1 that start and report them. -/
namespace Sys2Proof.Machine

/-! ### The IEEE 1687 network (R570)

No row of the command table scans the network, so no command sets an insertion bit (log entry 73); what a scan reaches is said here. -/

/-- What a segment insertion bit puts in the network: the instruments of a layer, of a Hub plane or of a link port. -/
inductive Segment where
  | layer (n : Nat)
  | plane (p : Nat)
  | link (p : Nat)
deriving DecidableEq, Repr
/-- The insertion bit of a segment. -/
def Segment.bit : Segment → Nat
  | .layer n => n
  | .plane p => 8 + p
  | .link p => 10 + p
/-- Whether the part has the unit behind a segment. -/
def Segment.present (s : State) : Segment → Bool
  | .layer n => decide (n < s.cfg.dies)
  | .plane p => decide (p < 2)
  | .link p => decide (p < s.cfg.links)
/-- A segment is open: its insertion bit has been set. In DEPLOY and RETIRED every bit is held closed (R570). -/
def segOpen (s : State) (g : Segment) : Bool :=
  g.present s && s.test.sibs.testBit g.bit && decide (lcState s ≠ 2 ∧ lcState s ≠ 4)
/-- The IDENT instrument: the words of the IDENT page. It is readable in every lifecycle state (R570). -/
def identInstrument (s : State) : List Nat := (List.range 22).map fun k => peek s (some .dbg) (pgIDENT + 4 * k)
/-- The IEEE 1838 wrapper of companion die n is in reach of a scan: its layer's segment is open, and the Drigar crossings of the layers
below it have been brought up (R570, R603). -/
def wrapperReached (s : State) (n : Nat) : Bool := decide (1 ≤ n ∧ n ≤ s.integ.crossings) && segOpen s (.layer n)

/-! ### Starting (R562, R563, R567) -/

/-- The TID of test copies. -/
def ftTid (s : State) : Nat := s.get pgTEST TEST_FT_CFG_TID
/-- The RESULT of a RIM test that may not start; none where it may (R563). -/
def rimTestBar (s : State) (layer i : Nat) : Option Nat :=
  if s.cfg.dies ≤ layer then some 3
  else if spareRole s layer ≠ 0 then some 2
  else if !rimUp s layer i ∨ physOf s layer i ≠ i ∨ rimPower s layer i ≠ 0 then some 3
  else none
/-- The same of a PLANE test (R567): the other plane is ACTIVE, and this one can be taken out by R191. -/
def planeTestBar (s : State) (p : Nat) : Option Nat :=
  if planeState s (1 - p) = 0 ∧ planeState s p = 0 ∧ s.hub.change.isNone ∧ !s.hub.paused ∧ !parked s then none else some 3
/-- The same of a LINK test. -/
def linkTestBar (s : State) (p depth : Nat) : Option Nat :=
  if p < s.cfg.links ∧ lpState s p = 0 ∧ 1 ≤ depth ∧ depth ≤ 3 then none else some 3
/-- The same of a SYNC test. -/
def syncTestBar (s : State) : Option Nat :=
  if lcState s = 2 ∨ lcState s = 4 then some 8
  else if (List.range 72).all (fun x => decide (portState s x < 2)) ∧ ringsOn s = [] ∧ (List.range 64).all (fun n => !barOn s n) then none
  else some 3
/-- The unit of a test taken out of service, or its copy begun. -/
def State.ftBegin (s : State) (op layer unit depth : Nat) : State :=
  match op with
  | 1 => ((s.clearRim layer 16 (ftTid s)).setRole layer 1 unit).copyStart layer unit unit 16 (ftTid s)
  | 2 => s.planeChange unit true
  | 3 =>
    let s := (s.put pgLINK (LINK_P_CTL_LOOP.at 256 unit) depth).put pgLINK (LINK_P_CTL_EN.at 256 unit) 1
    (s.wr (pgTEST + TEST_LB_ERR) 0).lpStart unit
  | _ => s
/-- A start of a field test, with the mailbox message that waits for its end. -/
def State.ftStart (s : State) (m : Master) (op layer unit depth : Nat) (reply : Option (Nat × Nat)) : State :=
  let stop := fun (s : State) (r : Nat) => (s.put pgTEST TEST_FT_STAT_RESULT r).refused m pgTEST TEST_FT_CMD
  if s.test.ft.isSome then
    let s := stop s 5
    match reply with
    | some (r, seq) => s.answer r (0x80FF + op) seq 4 (ftWords s) 16
    | none => s
  else
    let bar := match op with
      | 1 => rimTestBar s layer unit
      | 2 => planeTestBar s unit
      | 3 => linkTestBar s unit depth
      | _ => syncTestBar s
    let s := s.put pgTEST TEST_FT_STAT_OP op
    let f : FieldTest := { op, layer, unit, depth, start := s.now, since := s.pcNow, abort := false, reply }
    match bar with
    | some r => ((stop s r).irq pgTEST 1).ftReply f
    | none =>
      let s := (s.put pgTEST TEST_FT_STAT_BUSY 1).put pgTEST TEST_FT_STAT_PHASE (if op = 1 then 1 else 2)
      (s.tst fun t => { t with ft := some f }).ftBegin op layer unit depth
/-- An abort, by the phase of the test (R566). An isolation test ends ABORTED at its end (log entry 34). -/
def State.ftAbort (s : State) : State :=
  match s.test.ft with
  | none => s
  | some f =>
    if f.op = 1 ∧ s.get pgTEST TEST_FT_STAT_PHASE = 1 then (s.setRole f.layer 0 0).ftEnd 4
    else if f.op = 1 then s.ftGiveUp f
    else s.tst fun t => { t with ft := t.ft.map fun f => { f with abort := true } }
/-- A write of FT_CMD: in DEPLOY and RETIRED those of a control port or DBG are ignored and flagged in FAB_STAT (R555). -/
def ftCmdWrite (m : Master) (w : Word32) (s : State) : State :=
  s.gate m pgTEST TEST_FT_CMD false fun s =>
    let lc := lcState s
    let op := TEST_FT_CMD_OP.of w
    if (lc = 2 ∨ lc = 4) ∧ !m.isEm then (s.refused m pgTEST TEST_FT_CMD).fabStat m (pgTEST + TEST_FT_CMD)
    else match op with
      | 1 => s.ftStart m 1 (TEST_FT_CMD_LAYER.of w) (TEST_FT_CMD_RIM.of w) 0 none
      | 2 => s.ftStart m 2 0 (TEST_FT_CMD_PLANE.of w) 0 none
      | 3 => s.ftStart m 3 0 (TEST_FT_CMD_PORT.of w) (TEST_FT_CMD_DEPTH.of w) none
      | 4 => s.ftStart m 4 0 0 0 none
      | 5 => s.ftAbort
      | _ => s
/-- FT_CMD with an OP. -/
def ftCmdWord (op rest : Nat) : Word32 := BitVec.ofNat 32 (op * 2 ^ 28 + rest)
/-- FT_CMD RIM. -/
def execFtCmdRim (m : Master) (layer rim : Nat) (s : State) : Res := .next (ftCmdWrite m (ftCmdWord 1 (layer % 8 * 16 + rim % 16)) s)
/-- FT_CMD PLANE. -/
def execFtCmdPlane (m : Master) (plane : Nat) (s : State) : Res := .next (ftCmdWrite m (ftCmdWord 2 (plane % 2 * 512)) s)
/-- FT_CMD LINK. -/
def execFtCmdLink (m : Master) (p depth : Nat) (s : State) : Res :=
  .next (ftCmdWrite m (ftCmdWord 3 (depth % 4 * 4096 + p % 4 * 1024)) s)
/-- FT_CMD SYNC. -/
def execFtCmdSync (m : Master) (s : State) : Res := .next (ftCmdWrite m (ftCmdWord 4 0) s)
/-- FT_CMD ABORT. -/
def execFtCmdAbort (m : Master) (s : State) : Res := .next (ftCmdWrite m (ftCmdWord 5 0) s)

/-! ### The phases of a rim test (R563, R564) -/

/-- The running test is a RIM test in a phase. -/
def inPhase (s : State) (ph : Nat) : Option FieldTest :=
  match s.test.ft with
  | some f => if f.op = 1 ∧ s.get pgTEST TEST_FT_STAT_PHASE = ph then some f else none
  | none => none
/-- The copy to the spare has read and written every line: the map switches, and the patterns begin. -/
def execFtCopyDone (s : State) : Res :=
  match inPhase s 1 with
  | none => .next s
  | some f =>
    if !copied s f.layer f.unit then .next s
    else
      let s := ((s.copyEnd f.layer).setMap f.layer f.unit 16).setRole f.layer 2 f.unit
      .next ((s.tst fun t => { t with ft := some { f with pat := 0, hold := 0 } }).put pgTEST TEST_FT_STAT_PHASE 2)
/-- Bank rows of a rim. -/
def bankRows (layer : Nat) : Nat := 16 * slotsOf layer
/-- Accesses of all the patterns (R564). -/
def patAll (layer : Nat) : Nat := 108 * bankRows layer
/-- The points of the patterns at which one of the two retention pauses begins: after the retention element's write of the background,
and after that of its inverse (DESIGN CHOICE, log entry 34). -/
def patStops (layer : Nat) : List Nat := [105 * bankRows layer, 107 * bankRows layer, patAll layer]
/-- The pattern accesses of `n` pc, one in each, with their retention pauses of 100 µs (R564): rim accesses of the tested rim for the test's
TID (R213, R485, R494). They pause while EMERGENCY holds. -/
def State.patRun (s : State) (n : Nat) : State :=
  match inPhase s 2 with
  | none => s
  | some f =>
    if emergency s || decide (s.now < f.hold) || decide (patAll f.layer ≤ f.pat) then s
    else
      let stop := ((patStops f.layer).find? fun k => decide (f.pat < k)).getD f.pat
      let k := min n (stop - f.pat)
      let hold := if f.pat + k = stop ∧ stop < patAll f.layer then s.now + 10000 else f.hold
      let s := s.tst fun t => { t with ft := some { f with pat := f.pat + k, hold := hold } }
      let s := (s.energy 0 k (ftTid s)).bump (rimBase f.layer f.unit) RIM_ACC_CNT_COUNT k
      let s := s.hubf fun h => { h with govStarts := h.govStarts + k }
      let s := s.rim f.layer f.unit fun r => { r with idleFrom := s.now }
      s.tidCnt (ftTid s) fun c => { c with rimAcc := (c.rimAcc + k) % 2 ^ 64 }
/-- The patterns end: all of them made without a fault, or at the first fault, with where it was found. -/
def execFtPatternsDone (ok : Bool) (elem bank row fbits : Nat) (s : State) : Res :=
  match inPhase s 2 with
  | none => .next s
  | some f =>
    if emergency s || (ok && decide (f.pat < patAll f.layer)) then .next s
    else if ok then .next (s.ftBack f)
    else
      let s := ((s.put pgTEST TEST_FT_FAIL0_ELEM elem).put pgTEST TEST_FT_FAIL0_BANK bank).put pgTEST TEST_FT_FAIL0_ROW row
      let s := s.wr (pgTEST + TEST_FT_FAIL1) (BitVec.ofNat 32 fbits)
      .next (((s.setRole f.layer 4 f.unit).parkRim f.layer f.unit 0).ftEnd 1)
/-- The copy back has read and written every line: the map returns, and the spare is Idle, or takes over the rim that a RETIRE has waited
with (R461). -/
def execFtBackDone (s : State) : Res :=
  match inPhase s 3 with
  | none => .next s
  | some f =>
    if !copied s f.layer f.unit then .next s
    else
      let s := ((s.copyEnd f.layer).setMap f.layer f.unit f.unit).setRole f.layer 0 0
      let s := s.ftEnd (if f.abort then 4 else 0)
      .next (match s.integ.cmd with
        | some c => s.cond (!c.evac && c.layer == f.layer) fun s => s.takeOver c.layer c.rim
        | none => s)

/-! ### The isolation tests (R567) -/

/-- The counters, tags, watches and barriers at their reset values. -/
def State.resetSync (s : State) : State :=
  let mine := fun (o : Nat) =>
    decide (pgSYNCCTR + SYNC_CTR_CTR ≤ o ∧ o < pgSYNCCTR + 0x1000) || decide (pgSYNCTAG + SYNC_TAG_TAGBITS ≤ o ∧ o < pgSYNCTAG + 0x1000) ||
    decide (pgSYNCBAR + SYNC_BAR_BCFG ≤ o ∧ o < pgSYNCBAR + 0x1000)
  let s := { s with regs := s.regs.filter fun c => !mine c.1 }
  s.syn fun y => { y with watchOrd := [], waiters := [], parks := [], changes := [], filler := [], arrived := [], sent := [] }
/-- A test that meets something that no rule resolves ends with a RESULT that is not stated: a free value. -/
def State.ftOpen (s : State) : State :=
  let (v, s) := s.draw
  s.ftEnd (v % 16)
/-- The end of a PLANE test: its patterns, and then its return (R191). -/
def State.planeTestDone (s : State) (f : FieldTest) (ok : Bool) : State :=
  let p := f.unit
  let st := planeState s p
  if st = 3 ∨ parked s then s.ftEnd 1
  else if s.hub.change.isSome then s
  else if st = 2 ∧ s.get pgTEST TEST_FT_STAT_PHASE = 2 then
    if ok || f.abort then (s.planeChange p false).put pgTEST TEST_FT_STAT_PHASE 3
    else ((s.setPlane p 3).setDom (168 + p) false).ftEnd 1
  else if st = 0 ∧ s.get pgTEST TEST_FT_STAT_PHASE = 3 then s.ftEnd (if f.abort then 4 else 0)
  else s.ftOpen
/-- The end of a LINK test, with its mismatched flits. -/
def State.linkTestDone (s : State) (f : FieldTest) (ok : Bool) (errs : Nat) : State :=
  let p := f.unit
  if lpState s p ≠ 7 then s.ftOpen
  else
    let s := s.wr (pgTEST + TEST_LB_ERR) (BitVec.ofNat 32 (sat32 errs))
    let s := (s.put pgLINK (LINK_P_CTL_LOOP.at 256 p) 0).put pgLINK (LINK_P_CTL_EN.at 256 p) 0
    if ok && errs == 0 || f.abort then (s.lpDown p).ftEnd (if f.abort then 4 else 0) else (s.lpFail p).ftEnd 1
/-- The end of a SYNC test. -/
def State.syncTestDone (s : State) (f : FieldTest) (ok : Bool) : State :=
  let s := s.resetSync
  if ok || f.abort then s.ftEnd (if f.abort then 4 else 0) else s.park.ftEnd 1
/-- The least time that an isolation test takes, in ticks (R567). -/
def ftTicks (op : Nat) : Nat := if op = 2 then 40000 else if op = 3 then 100000 else 50000
/-- An isolation test ends, no sooner than its duration allows. -/
def execFieldTestDone (ok : Bool) (errs : Nat) (s : State) : Res :=
  match s.test.ft with
  | none => .next s
  | some f =>
    if emergency s || decide (s.now < f.start + ftTicks f.op) then .next s
    else match f.op with
      | 2 => .next (s.planeTestDone f ok)
      | 3 => .next (s.linkTestDone f ok errs)
      | 4 => .next (s.syncTestDone f ok)
      | _ => .next s

/-! ### Messages (R569) -/

/-- A field-test message: EM1 answers none before the retirements have been applied again (R561), and refuses those of a ring that
does not own group 20. -/
def ftMessage (typ need r : Nat) (act : List Nat → State → Reply × State) (s : State) : Res :=
  if !s.flag pgTEST TEST_BST_STAT_REAPPLIED then .next s
  else message typ need r (fun _ w s =>
    if !ringOwns s r 20 ∨ lcState s = 4 ∨ (typ = 0x8103 ∧ lcState s = 2) then (some (6, [], 0), s) else act w s) s
/-- The message at the head of a ring as a start's reply address. -/
def ftFrom (s : State) (r : Nat) : Option (Nat × Nat) := some (r, headSeq (s.mboxAuto r 256) r)
/-- FT_RIM. -/
def execFtRim (r : Nat) (s : State) : Res :=
  let from_ := ftFrom s r
  ftMessage 0x8100 4 r (fun w s =>
    let x := w.getD 0 0
    (none, s.ftStart .em1 1 (bits x 6 4) (bits x 3 0) 0 from_)) s
/-- FT_PLANE. -/
def execFtPlane (r : Nat) (s : State) : Res :=
  let from_ := ftFrom s r
  ftMessage 0x8101 4 r (fun w s => (none, s.ftStart .em1 2 0 (w.getD 0 0 % 2) 0 from_)) s
/-- FT_LINK. -/
def execFtLink (r : Nat) (s : State) : Res :=
  let from_ := ftFrom s r
  ftMessage 0x8102 4 r (fun w s =>
    let x := w.getD 0 0
    (none, s.ftStart .em1 3 0 (bits x 1 0) (bits x 5 4) from_)) s
/-- FT_SYNC. -/
def execFtSync (r : Nat) (s : State) : Res :=
  let from_ := ftFrom s r
  ftMessage 0x8103 0 r (fun _ s => (none, s.ftStart .em1 4 0 0 0 from_)) s
/-- FT_ABORT. -/
def execFtAbort (r : Nat) (s : State) : Res := ftMessage 0x8104 0 r (fun _ s => (some (0, [], 0), s.ftAbort)) s
/-- FT_RESULT. -/
def execFtResult (r : Nat) (s : State) : Res := ftMessage 0x8105 0 r (fun _ s => (some (0, ftWords s, 16), s)) s

end Sys2Proof.Machine
end

