-- ==== Sys2Proof/Machine/Lifecycle.lean ====
section
/-! DEFINITION. The commands of the lifecycle, of reset and of start-up (spec/19_test.md R554 to R561, spec/21_integration.md
R597 to R608). -/
namespace Sys2Proof.Machine

/-! ### Lifecycle fuses and the service token (R556 to R558) -/

/-- A write of LC_CMD (R556, R557). -/
def lcCmdWrite (m : Master) (w : Word32) (s : State) : State :=
  s.gate m pgTEST TEST_LC_CMD false fun s =>
    let lc := lcState s
    let op := TEST_LC_CMD_OP.of w
    let refuse := s.refused m pgTEST TEST_LC_CMD
    if TEST_LC_CMD_CONFIRM.of w ≠ 0x4C43 then refuse
    else match op with
      | 1 =>
        if lc ≤ 1 ∧ !m.isEm then { s with fused := lc + 1 }.put pgTEST TEST_LC_STAT_PENDING 1 else refuse
      | 2 =>
        if lc = 1 ∨ lc = 3 then ({ s with fused := 4 }.put pgTEST TEST_LC_STAT_STATE 4).park else refuse
      | _ => s
/-- LC_CMD with OP ADVANCE. -/
def execLcAdvance (m : Master) (confirm : Nat) (s : State) : Res :=
  .next (lcCmdWrite m (BitVec.ofNat 32 (2 ^ 28 + confirm % 2 ^ 16)) s)
/-- LC_CMD with OP RETIRE_DEVICE. -/
def execLcRetireDevice (m : Master) (confirm : Nat) (s : State) : Res :=
  .next (lcCmdWrite m (BitVec.ofNat 32 (2 * 2 ^ 28 + confirm % 2 ^ 16)) s)

/-- The service token in SVC_TOK0 to SVC_TOK39, little-endian. -/
def svcToken (s : State) : Nat :=
  (List.range 40).foldl (fun a k => a + (s.rd (pgTEST + TEST_SVC_TOK + 4 * k)).toNat * 2 ^ (32 * k)) 0
/-- SVC_NONCE. -/
def svcNonce (s : State) : Nat :=
  (s.rd (pgTEST + TEST_SVC_NONCE_LO)).toNat + (s.rd (pgTEST + TEST_SVC_NONCE_HI)).toNat * 2 ^ 32
/-- The checks of R558. -/
def tokenOk (s : State) : Bool :=
  let x := svcToken s
  bits x 63 0 == deviceUid && bits x 127 64 == svcNonce s &&
    sha256 (x / 256 ^ 0x20) 64 == Config.fusedServiceHash.toNat &&
    ecdsaVerify (be32 x 0x20) (be32 x 0x40) (sha256 x 0x60) (be32 x 0x60) (be32 x 0x80)
/-- A fresh nonce from the random source: a free value. -/
def State.newNonce (s : State) : State :=
  let (v, s) := s.draw
  s.put64 (pgTEST + TEST_SVC_NONCE_LO) (pgTEST + TEST_SVC_NONCE_HI) v
/-- A write of SVC_CTL (R558). -/
def svcCtlWrite (m : Master) (w : Word32) (s : State) : State :=
  s.gate m pgTEST TEST_SVC_CTL false fun s =>
    let s := s.setFields m pgTEST TEST_SVC_CTL w
    s.cond (TEST_SVC_CTL_ENTER.of w == 1 && lcState s == 2) fun s =>
      let ok := tokenOk s
      let s := s.newNonce
      if ok then s.put pgTEST TEST_LC_STAT_STATE 3
      else ((s.put pgTEST TEST_SVC_CTL_REFUSED 1).irq pgTEST 2).refused m pgTEST TEST_SVC_CTL
/-- SVC_CTL written with ENTER 1. -/
def execSvcEnter (m : Master) (s : State) : Res := .next (svcCtlWrite m (BitVec.ofNat 32 (2 ^ 31)) s)

/-! ### Resets (R597 to R599) -/

/-- A reset input is low. -/
def inReset (s : State) : Bool := s.porstLow || s.srstLow
/-- The life store, which no reset touches: a slot that was being written holds no image (R548, R597). -/
def keptStore (s : State) : Sp (List Host.Cell) :=
  match s.life.writing with
  | some k => Sp.del s.life.store k
  | none => s.life.store
/-- The device as a power-on reset leaves it: the fuses and the life store stand, and the waiting commands are the
environment's. The nonce is fresh (R558), and a RETIRED device is PARKED (R557). -/
def State.powerReset (s : State) : State :=
  let r := State.resetOf s.cfg
  let r := { r with
    freeCtr := s.freeCtr, pending := s.pending, fused := s.fused, clockOn := s.clockOn, srstLow := s.srstLow,
    life := { r.life with store := keptStore s } }
  let r := (r.put pgTEST TEST_LC_STAT_STATE s.fused).newNonce
  r.cond (s.fused == 4) State.park
/-- The image store over SRST_N (R598): its banks stand, and the former active one is reported STAGED. It is the inactive one
again (DESIGN CHOICE, log entry 38). -/
def State.keepImages (r s : State) : State :=
  let b := fwBank s
  let here := Sp.get [] s.fw.banks b
  let other := Sp.get [] s.fw.banks (1 - b)
  let r := r.fwm fun w => { w with banks := [(0, if s.fw.active then other else here), (1, if s.fw.active then here else other)] }
  r.cond s.fw.active fun r =>
    (r.put pgMBCTL MAILBOX_CTL_FW_STAT_STAGED 1).wr (pgMBCTL + MAILBOX_CTL_FW_SVER) (BitVec.ofNat 32 (le32 (Mem.readN here 0 256) 8))
/-- The device as SRST_N leaves it: the timestamp, and what is counted in it, goes on; the fuse shadow, the sampled MGR and the
image store stand (R598, R599). -/
def State.softReset (s : State) : State :=
  let r := s.powerReset
  let cad := s.now / 10000
  let r := { r with
    now := s.now, pcNow := s.pcNow, pcRem := s.pcRem, pcDev := s.pcDev, pcDevRem := s.pcDevRem, fuseLoaded := s.fuseLoaded,
    energyAcc := { r.energyAcc with cad := cad, fellAt := s.now },
    regul := { r.regul with lastWin := (List.range 64).map fun t => (t, s.now) },
    recd := { r.recd with sampled := s.now }, link := { r.link with tsAt := s.now } }
  let r := r.wr (pgPOWER + POWER_CAD_IDX) (BitVec.ofNat 32 cad)
  let r := r.put pgLINK LINK_LK_ID_MGR (s.get pgLINK LINK_LK_ID_MGR)
  r.keepImages s

/-- PORST_N goes low. -/
def execPorstAssert (s : State) : Res := .next { s.powerReset with porstLow := true }
/-- PORST_N is released; MGR is sampled. A part without links has no Chain to manage. -/
def execPorstRelease (mgr : Bool) (s : State) : Res :=
  if !s.porstLow then .next s
  else
    let s := { s with porstLow := false, clockOn := true }
    .next (s.put pgLINK LINK_LK_ID_MGR (b2n (mgr && s.cfg.links != 0)))
/-- SRST_N goes low. With PORST_N low, or after a rail's loss, the device is in, or awaits, the other reset. -/
def execSrstAssert (s : State) : Res :=
  if s.railLost then .next s
  else if s.porstLow then .next { s with srstLow := true }
  else .next { s.softReset with srstLow := true }
/-- SRST_N is released. -/
def execSrstRelease (s : State) : Res :=
  if s.railLost ∨ !s.srstLow then .next s else .next { s with srstLow := false, clockOn := true }
/-- A rail leaves its range while PORST_N is high (R597): every register and the contents of all storage are undefined, a free
value, until PORST_N goes low. What the device was made with, its fuses and its life store stand. -/
def execRailOutOfRange (s : State) : Res :=
  if s.porstLow then .next s
  else
    let u := lostState s.freeCtr
    .next { u with
      cfg := s.cfg, pending := s.pending, freeCtr := s.freeCtr + 1, fused := s.fused, porstLow := false, railLost := true,
      array := { u.array with mem := Mem.norm u.array.mem }, life := { u.life with store := keptStore s, writing := none } }
/-- TIMEREF stops (R601). -/
def execTimerefStop (s : State) : Res := .next { s with clockOn := false }

/-! ### Start-up (R603 to R607) -/

/-- The fuse shadow has been loaded, 20 µs after the release of PORST_N (R607). -/
def execFuseShadowLoaded (s : State) : Res :=
  if s.now < 2000 then .next s else .next { s with fuseLoaded := s.fuseLoaded || !inReset s }

/-- The lanes of a group repaired at a crossing; a third faulty lane cuts the sector off. -/
def State.repairLanes (s : State) (n : Nat) (f : LaneFaults) : State :=
  let layer := f.spoke / 4
  let sector := f.spoke % 4
  if layer < n ∨ s.cfg.dies ≤ layer ∨ 48 ≤ f.group then s
  else
    let b := layerBase layer
    let used := min 2 (f.mapped + f.found)
    let s := s.ig fun g => { g with lanes := Sp.set g.lanes (laneKey n f.spoke f.group) used }
    let s := (s.bump b LAYER_DRG_STAT_SPARES used).bumpSat b LAYER_DRG_CNT_BOOT_REP (min f.found (2 - f.mapped))
    s.cond (decide (2 < f.mapped + f.found) && !s.integ.sectors.contains f.spoke) fun s => s.unreachable layer sector
/-- Crossing n is brought up (R603, R604): the faulty lanes of its groups, at most one entry for each, and whether the identity
block of layer n answers as that of a companion die. -/
def execCrossingBringup (n : Nat) (present : Bool) (faults : List LaneFaults) (s : State) : Res :=
  if !s.fuseLoaded ∨ inReset s ∨ n ≠ s.integ.crossings + 1 ∨ s.cfg.dies ≤ n then .next s
  else
    let b := layerBase n
    let s := s.each faults fun s f => s.repairLanes n f
    let s := s.ig fun g => { g with crossings := n }
    let s := s.cond (!present) fun s =>
      s.each ((List.range 4).filter fun q => !s.integ.sectors.contains (4 * n + q)) fun s q => s.unreachable n q
    let up := (List.range 4).foldl (fun a q => a + b2n (!s.integ.sectors.contains (4 * n + q)) * 2 ^ q) 0
    let s := (s.put b LAYER_DRG_STAT_SEC_UP up).put b LAYER_DRG_STAT_STATE (if !present then 3 else if up = 15 then 1 else 2)
    .next (s.cond present fun s => s.wr (b + LAYER_DRG_DIEID) (BitVec.ofNat 32 (dieSerial n)))

/-- The rims of a layer that fail the boot self-test (R559). Those of a sector that cannot be reached are isolated already. -/
def State.bstLayer (s : State) (rims : List (Nat × Nat)) (layer : Nat) : State :=
  let bad := (List.range 16).filter fun p => rims.contains (layer, p) && !s.integ.sectors.contains (4 * layer + p / 4)
  let spare := rims.contains (layer, 16)
  let s := s.put pgTEST TEST_BST_STAT_RIMS_F (s.get pgTEST TEST_BST_STAT_RIMS_F + bad.length + b2n spare)
  let s := s.cond spare fun s => (s.parkRim layer 16 0).setRole layer 5 0
  s.each bad fun s p =>
    let s := s.parkRim layer p 0
    if spareRole s layer = 0 then (s.setMap layer p 16).setRole layer 4 p
    else (s.setMap layer p 31).setRimUp layer p false
/-- The Hub planes that fail: both park the device. -/
def State.bstPlanes (s : State) (planes : List Nat) : State :=
  let a := planes.contains 0
  let b := planes.contains 1
  let s := s.put pgTEST TEST_BST_STAT_PLANE_F (b2n a + 2 * b2n b)
  let s := s.cond a fun s => (s.setPlane 0 3).setDom 168 false
  let s := s.cond b fun s => (s.setPlane 1 3).setDom 169 false
  if a && b then s.park
  else s.cond (a || b) fun s => s.put pgHUB HUB_PLANE_STAT_MODE (if a then 2 else 1)
/-- The ports and mover channels that fail: their domains go off, and stay off. -/
def State.bstPorts (s : State) (ports : List Nat) : State :=
  let bad := (List.range 72).filter fun x => ports.contains x && pagePresent s.cfg ⟨.port, x, portBase x⟩
  let s := s.put pgTEST TEST_BST_STAT_PORTS_F bad.length
  s.each bad fun s x =>
    let d := pageDomain ⟨.port, x, portBase x⟩
    { s with domDead := NSet.insert s.domDead d }.domOff d
/-- The boot self-test runs after the stack has been brought up (R559), with the units that fail it. -/
def execBootSelfTest (fails : BstFail) (s : State) : Res :=
  if !s.fuseLoaded ∨ inReset s ∨ s.integ.crossings + 1 ≠ s.cfg.dies ∨ lcState s = 4 ∨ s.test.bst then .next s
  else
    let s := s.tst fun t => { t with bst := true }
    let s := ((s.put pgTEST TEST_BST_STAT_EM0_F (b2n fails.em0)).put pgTEST TEST_BST_STAT_EM1_F (b2n fails.em1)).put
      pgTEST TEST_BST_STAT_SYNC_F (b2n fails.sync)
    let s := s.each (List.range s.cfg.dies) fun s n => s.bstLayer fails.rims n
    let s := s.bstPorts fails.ports
    let links := (List.range s.cfg.links).filter fails.links.contains
    let s := s.put pgTEST TEST_BST_STAT_LINK_F (links.foldl (fun a p => a + 2 ^ p) 0)
    let s := s.each links fun s p => s.lpFail p
    let s := (s.bstPlanes fails.planes).cond fails.sync State.park
    .next (s.put pgTEST TEST_BST_STAT_PARK (b2n (parked s)))
/-- The boot self-test ends (R560). -/
def execBootSelfTestDone (s : State) : Res :=
  if !s.test.bst ∨ bootDone s then .next s
  else
    let s := s.arr fun a => { a with validA := [], validB := [], lost := [] }
    .next ((s.put pgTEST TEST_BST_STAT_DONE 1).irq pgTEST 0)

/-- The rims of EM0's retired list in ascending timestamp order, as EM1 reapplies them. -/
def reapplyOrder (s : State) : List (Nat × Nat) :=
  let l := (retiredList s.life.img).filter fun e => (entryRim e).isSome
  let key := fun (e : Nat) => e / 2 ^ 32
  let ins := fun (acc : List Nat) (e : Nat) => acc.takeWhile (fun a => decide (key a ≤ key e)) ++ e :: acc.dropWhile (fun a => decide (key a ≤ key e))
  (l.foldl ins []).filterMap entryRim
/-- EM1 reapplies the next listed retirement, and reports when it has issued the last (R561): a rim already PARKED is skipped, and
so is a spare, which RIM_CMD does not name (log entry 30). It waits for a rim command to end. -/
def execRetirementsReapplied (s : State) : Res :=
  let adopted := s.life.loaded && s.life.state != 4
  if !emRuns s 1 ∨ !bootDone s ∨ !adopted ∨ s.flag pgTEST TEST_BST_STAT_REAPPLIED ∨ s.integ.cmd.isSome then .next s
  else match (reapplyOrder s).drop s.test.reapply with
    | [] => .next (s.put pgTEST TEST_BST_STAT_REAPPLIED 1)
    | (layer, p) :: _ =>
      let s := s.tst fun t => { t with reapply := t.reapply + 1 }
      if 16 ≤ p ∨ s.cfg.dies ≤ layer ∨ rimPower s layer p = 5 then .next s
      else .next (rimCmdWrite .em1 (rimCmdWord 2 layer p) s)

end Sys2Proof.Machine
end

