-- ==== Sys2Proof/Machine/Recorder.lean ====
section
/-! DEFINITION. The commands of the event recorder (spec/18_observability.md R531 to R541). -/
namespace Sys2Proof.Machine

/-- The state with the recorder changed. -/
def State.rec_ (s : State) (f : RecSt → RecSt) : State := { s with recd := f s.recd }
/-- RC_STAT.STATE: 0 DISABLED, 1 CLEARING, 2 ARMED, 3 FULL, 4 DRAINING. -/
def rcState (s : State) : Nat := s.get pgREC RECORDER_RC_STAT_STATE
def State.rcSet (s : State) (st : Nat) : State := s.put pgREC RECORDER_RC_STAT_STATE st

/-! ### Enabling, arming, disabling (R531, R540, R541) -/

/-- EN has been written 0: waiting triggers are discarded, and a clear stops where it stands. -/
def State.rcDrain (s : State) : State :=
  let k := slotsCleared s
  (s.rec_ fun r => { r with waiting := [], slots := r.slots.filter fun e => decide (k ≤ e.1) }).rcSet 4
/-- ARM has been written. -/
def State.rcArm (s : State) : State :=
  ((s.rec_ fun r => { r with clearAt := s.pcNow }).rcSet 1).wr (pgREC + RECORDER_RC_MISSED) 0
/-- A write of RC_CTL: MODE is taken only while the recorder is DISABLED (R539), ARM only while EN is 1. -/
def rcCtlWrite (m : Master) (w : Word32) (s : State) : State :=
  s.gate m pgREC RECORDER_RC_CTL false fun s =>
    if !domOn s 194 then s
    else
      let st := rcState s
      let mode := s.get pgREC RECORDER_RC_CTL_MODE
      let s := s.setFields m pgREC RECORDER_RC_CTL w
      let s := s.cond (st != 0) fun s => s.put pgREC RECORDER_RC_CTL_MODE mode
      if s.get pgREC RECORDER_RC_CTL_EN = 0 then s.cond (1 ≤ st && st ≤ 3) State.rcDrain
      else s.cond (RECORDER_RC_CTL_ARM.of w == 1 && st != 1 && st != 4) State.rcArm
/-- RC_CTL written with EN 1. -/
def execRcEnable (m : Master) (w : Word32) (s : State) : Res := .next (rcCtlWrite m (RECORDER_RC_CTL_EN.into w 1) s)
/-- RC_CTL written with EN 0. -/
def execRcDisable (m : Master) (w : Word32) (s : State) : Res := .next (rcCtlWrite m (RECORDER_RC_CTL_EN.into w 0) s)
/-- ARM written, with the other fields as they stand. -/
def execRcArm (m : Master) (s : State) : Res :=
  .next (rcCtlWrite m (RECORDER_RC_CTL_ARM.into (s.rd (pgREC + RECORDER_RC_CTL)) 1) s)
/-- A draining recorder becomes DISABLED, once the record being written has completed. -/
def execRcDrainDone (s : State) : Res := if rcState s = 4 ∧ s.recd.writing = none then .next (s.rcSet 0) else .next s
/-- The clear ends: in native mode every slot is zero, one slot per pc (R540). It begins when the record being written has completed. -/
def execRcClearingDone (s : State) : Res :=
  let native := s.get pgREC RECORDER_RC_CTL_MODE == 0
  if rcState s ≠ 1 ∨ s.recd.writing.isSome ∨ (native ∧ s.pcNow < s.recd.clearAt + 2048) then .next s
  else
    .next ((s.rec_ fun r => { r with slots := if native then [] else r.slots, taken := 0 }).rcSet 2)

/-! ### Triggers (R532) -/

/-- A trigger's sample, its previous one kept (R532). -/
def State.sampleTrg (s : State) (n : Nat) : State :=
  let cfg := trgCfg s n
  let off := bits (trgArg0 s n) 20 2 * 4
  let arg := (s.rd (pgREC + RECORDER_TRG_ARG1 + 16 * n)).toNat
  if (pageAt off).all fun p => !pagePresent s.cfg p then s
  else
    let v := peek s none off
    let old := s.recd.prev.find? fun e => e.1 == n
    let s := s.rec_ fun r => { r with prev := Sp.set r.prev n v }
    match old with
    | none => s
    | some (_, u) =>
      let hit := if bits cfg 25 23 = 2 then decide (arg ≤ v ∧ u < arg) else decide (arg ≤ (v + 2 ^ 32 - u) % 2 ^ 32)
      s.cond hit fun s => s.trigger n v u
/-- LEVEL and DELTA triggers sample their registers, once in 100 ticks. -/
def execTriggerSample (s : State) : Res :=
  if !s.clockOn ∨ s.now / 100 ≤ s.recd.sampled / 100 ∨ !domOn s 194 then .next s
  else
    let due := (List.range 32).filter fun n =>
      let c := trgCfg s n
      bit c 31 && (bits c 25 23 == 2 || bits c 25 23 == 3)
    .next ((s.each due State.sampleTrg).rec_ fun r => { r with sampled := s.now })
/-- A write of RC_SWTRIG. -/
def execRcSwtrig (m : Master) (tag trig : Nat) (s : State) : Res :=
  .next (s.gate m pgREC RECORDER_RC_SWTRIG false fun s =>
    let n := trig % 32
    s.cond (domOn s 194 && (triggers s 5).contains n) fun s => s.trigger n (tag % 2 ^ 16) m.code)
/-- A write of TRGn_CFG: a trigger that EN sets takes its first sample as the previous one. -/
def trgCfgWrite (m : Master) (n : Nat) (w : Word32) (s : State) : State :=
  let reg := RECORDER_TRG_CFG + 16 * n
  s.gate m pgREC reg true fun s =>
    if !domOn s 194 then s
    else
      let was := bit (trgCfg s n) 31
      let s := s.setFields m pgREC reg w
      s.cond (!was && bit w.toNat 31) fun s => s.rec_ fun r => { r with prev := Sp.del r.prev n }

/-! ### Records (R533 to R537) -/

/-- The trigger whose record is taken next: the earliest, and of one tick the lowest. -/
def nextFired (l : List Fired) : Option Fired :=
  l.foldl (fun best f => match best with
    | none => some f
    | some b => if f.time < b.time ∨ (f.time = b.time ∧ f.trig < b.trig) then some f else some b) none
/-- The VALID entries of a snapshot list: entry and offset. -/
def listOf (s : State) (l : Nat) : List (Nat × Nat) :=
  (List.range 24).filterMap fun j =>
    let w := (s.rd (pgREC + RECORDER_LST_R + 96 * l + 4 * j)).toNat
    if bit w 31 then some (j, bits w 20 2 * 4) else none
/-- Words W0 to W31 of a slot. -/
def slotWords (s : State) (slot : Nat) : List Nat :=
  let l := Sp.get [] s.recd.slots slot
  (List.range 32).map fun k => l.getD k 0
/-- The words W1 to W5 of a record (R535), with `n` entries in its list. -/
def recordHead (f : Fired) (cfg n : Nat) : List Nat :=
  [f.trig * 2 ^ 27 + bits cfg 25 23 * 2 ^ 24 + bits cfg 28 26 * 2 ^ 21 + n * 2 ^ 16,
    f.time % 2 ^ 32, f.time / 2 ^ 32 % 2 ^ 32, f.info, f.aux]
/-- Words of the record being written, from word k up. -/
def State.recordPut (s : State) (slot k : Nat) (ws : List Nat) : State :=
  let old := slotWords s slot
  s.rec_ fun r => { r with slots := Sp.set r.slots slot (old.take k ++ ws ++ old.drop (k + ws.length)) }
/-- A fired trigger takes a slot and a sequence number: HSEQ is written, and in TM2-compatible mode TSEQ with it (R536, R538, R539). -/
def State.recordTake (s : State) (f : Fired) : State :=
  let cfg := trgCfg s f.trig
  let seq := s.get pgREC RECORDER_RC_SEQ_NEXT
  let slot := s.recd.taken
  let s := s.recordPut slot 0 [seq]
  let s := s.cond (s.get pgREC RECORDER_RC_CTL_MODE == 1) fun s => s.recordPut slot 31 [seq]
  let job : RecJob := { slot, seq, fired := f, cfg, left := listOf s (bits cfg 28 26), snap := [], bad := 0, readPc := f.pc }
  let s := s.rec_ fun r => { r with waiting := r.waiting.erase f, taken := r.taken + 1, writing := some job }
  let s := s.recordPut slot 1 (recordHead f cfg job.left.length)
  s.put pgREC RECORDER_RC_SEQ_NEXT (if seq + 1 = 2 ^ 32 then 1 else seq + 1)
/-- The entries that the recorder reads together: one, or both words of a 64-bit pair whose low word comes first (R534). -/
def readTogether (s : State) (l : List (Nat × Nat)) : List (Nat × Nat) :=
  match l with
  | (j, o) :: (k, q) :: _ =>
    match pairAt s o with
    | some (false, _) => if q = pairHigh o then [(j, o), (k, q)] else [(j, o)]
    | _ => [(j, o)]
  | l => l
/-- The next snapshot word of the record being written, or its end: W30 and TSEQ (R535 to R538). DUR of a record that reads nothing is 0
(DEDUCED, log entry 35). -/
def State.recordGo (s : State) (j : RecJob) : State :=
  match j.left with
  | _ :: _ =>
    let now := readTogether s j.left
    let vs := now.map fun e => peek s none e.2
    let bad := (now.filter fun e => (pageAt e.2).isNone).foldl (fun a e => a + 2 ^ e.1) j.bad
    let job := { j with left := j.left.drop now.length, snap := j.snap ++ vs, bad := bad, readPc := s.pcNow }
    (s.recordPut j.slot (6 + j.snap.length) vs).rec_ fun r => { r with writing := some job }
  | [] =>
    let n := j.snap.length
    let s := s.recordPut j.slot (6 + n) (List.replicate (24 - n) 0 ++ [min (j.readPc - j.fired.pc) 255 * 2 ^ 24 + j.bad, j.seq])
    let s := s.rec_ fun r => { r with writing := none, clearAt := s.pcNow }
    let s := s.cond (bit j.cfg 30) fun s => s.put pgREC (RECORDER_TRG_CFG_EN.at 16 j.fired.trig) 0
    let s := s.cond (bit j.cfg 29) fun s => s.irq pgREC 0
    s.cond (rcState s == 2 && decide (2048 ≤ s.recd.taken)) fun s => (s.rcSet 3).irq pgREC 1
/-- One pc of the recorder: the record being written goes on, or a fired trigger takes a slot while ARMED. -/
def State.recordStep (s : State) : State :=
  match s.recd.writing with
  | some j => s.recordGo j
  | none =>
    if rcState s ≠ 2 then s
    else match nextFired s.recd.waiting with
      | none => s
      | some f => s.recordTake f
/-- A fired trigger takes a slot, and its record is written: one pc of the recorder's work (log entry 35). -/
def execRecordWrite (s : State) : Res := .next s.recordStep

end Sys2Proof.Machine
end

