-- ==== Sys2Proof/Machine/Regul.lean ====
section
/-! DEFINITION. The commands of regulation (spec/07_regulation.md): window boundaries, the Brake's arrival at the arbiters, the
TID table, steps, preemption, the snapshot, the histogram edges and the lock. -/
namespace Sys2Proof.Machine

/-- Arbiters of the device (R206): upward and downward of each sector, and each logical rim. -/
def arbCount : Nat := 64 + 128

/-- Ticks of a TID's regulation window (R200). -/
def windowTicks (s : State) (t : Nat) : Nat := 100 * (s.get pgREGUL (REGUL_TCFG_WIN_M1.at 16 t) + 1)
/-- The state with the count of a TID's boundaries begun anew. -/
def State.winFrom (s : State) (t : Nat) : State :=
  { s with regul := { s.regul with lastWin := Sp.set s.regul.lastWin t s.now } }
/-- At a TID's window boundary its spent count falls by min(SPENT, BUDGET) (R200, R201). -/
def execRegulationWindowBoundary (t : Nat) (s : State) : Res :=
  let w := windowTicks s t
  if 64 ≤ t ∨ s.now / w ≤ Sp.get 0 s.regul.lastWin t / w then .next s
  else .next ((s.drop pgREGUL (REGUL_TSPENT_SPENT.at 16 t) (s.get pgREGUL (REGUL_TBUD_BUDGET.at 16 t))).winFrom t)

/-- The Brake state and class of a TID reach an arbiter (R206, R209). -/
def execBrakeStateArrival (t arb : Nat) (s : State) : Res :=
  if 64 ≤ t ∨ arbCount ≤ arb then .next s
  else .next { s with regul := { s.regul with seen := Sp.set s.regul.seen (arb * 64 + t) (braked s t, tidClass s t) } }

/-- A write ignored under LOCK (R218). -/
def State.lockViol (s : State) (m : Master) (reg : Nat) : State :=
  (s.put pgREGUL REGUL_REGUL_CTL_LOCK_VIOL 1).refused m pgREGUL reg
/-- REGUL_CTL.LOCKED. -/
def regLocked (s : State) : Bool := s.flag pgREGUL REGUL_REGUL_CTL_LOCKED
/-- A write of a TCFG entry's fields (R209). -/
def State.tcfgWrite (s : State) (t : Nat) (v : Word32) : State :=
  let s := s.put pgREGUL (REGUL_TCFG_FORCE.at 16 t) (REGUL_TCFG_FORCE.of v)
  let s := s.put pgREGUL (REGUL_TCFG_SHARE.at 16 t) (REGUL_TCFG_SHARE.of v)
  let s := s.put pgREGUL (REGUL_TCFG_CLASS.at 16 t) (REGUL_TCFG_CLASS.of v)
  let below := REGUL_TCFG_SHARE.of v != 0xFFF && decide (max 1 (REGUL_TCFG_SHARE.of v) < tidOcc s t)
  let s : State := { s with regul := { s.regul with
    overShare := if below then NSet.insert s.regul.overShare t else
      if shareFull s t then s.regul.overShare else s.regul.overShare.filter (· != t) } }
  if s.get pgREGUL (REGUL_TCFG_WIN_M1.at 16 t) = REGUL_TCFG_WIN_M1.of v then s
  else (s.put pgREGUL (REGUL_TCFG_WIN_M1.at 16 t) (REGUL_TCFG_WIN_M1.of v)).winFrom t
/-- A write of TCFGt, or of TBUDt. -/
def execTidConfigWrite (m : Master) (t : Nat) (bud : Bool) (v : Word32) (s : State) : Res :=
  let t := t % 64
  let reg := (if bud then REGUL_TBUD else REGUL_TCFG) + 16 * t
  .next (s.gate m pgREGUL reg true fun s =>
    if regLocked s then s.lockViol m reg
    else if bud then s.wr (pgREGUL + reg) v
    else s.tcfgWrite t v)

/-- The words of the TID table as the signature takes them: TCFG without its RO fields, then TBUD (R219). -/
def tableSig (s : State) : Nat :=
  let word := fun t => (s.rd (pgREGUL + REGUL_TCFG + 16 * t)).toNat &&& 0x02FFF3FF
  let x := (List.range 64).foldl (fun a j =>
    let t := 63 - j
    a * 2 ^ 64 + (word t + 2 ^ 32 * (s.rd (pgREGUL + REGUL_TBUD + 16 * t)).toNat)) 0
  crc32c x 512
/-- TABLE_SIG is recomputed (R219). -/
def execTableSigUpdate (s : State) : Res := .next (s.wr (pgREGUL + REGUL_TABLE_SIG) (BitVec.ofNat 32 (tableSig s)))

/-- A write of TSTEPt.STEP (R211). -/
def execStepWrite (m : Master) (t step : Nat) (s : State) : Res :=
  .next (s.gate m pgREGUL (REGUL_TSTEP + 16 * (t % 64)) true fun s => s.put pgREGUL (REGUL_TSTEP_STEP.at 16 (t % 64)) step)
/-- A write of PREEMPT (R212). -/
def execPreemptWrite (m : Master) (t : Nat) (s : State) : Res :=
  .next (s.gate m pgREGUL REGUL_PREEMPT true fun s =>
    (s.wr (pgREGUL + REGUL_PREEMPT) (BitVec.ofNat 32 (t % 64))).tidCnt (t % 64) fun c => { c with preempt := sat32 (c.preempt + 1) })

/-- A write of SNAP_CTL with GO 1 (R216): the counters of a TID are frozen at this instant. -/
def execSnapshotGo (m : Master) (t : Nat) (clrh : Bool) (s : State) : Res :=
  .next (s.gate m pgREGUL REGUL_SNAP_CTL false fun s =>
    let t := t % 64
    if s.regul.snap.isSome then (s.put pgREGUL REGUL_SNAP_CTL_SNAP_OVR 1).refused m pgREGUL REGUL_SNAP_CTL
    else
      let s := (s.put pgREGUL REGUL_SNAP_CTL_TID t).put pgREGUL REGUL_SNAP_CTL_CLRH (b2n clrh)
      let s := s.put pgREGUL REGUL_SNAP_CTL_BUSY 1
      let s := { s with regul := { s.regul with snap := some (t, tidStep s t, s.now, tidOf s t) } }
      s.cond clrh fun s => s.tidCnt t fun c => { c with hist := [] })
/-- The snapshot is in its window and BUSY falls (R216, R221). -/
def execSnapshotDone (s : State) : Res :=
  match s.regul.snap with
  | none => .next s
  | some (t, step, time, c) =>
    let s := { s with regul := { s.regul with snap := none } }
    let s := s.put pgREGUL REGUL_SNAP_CTL_BUSY 0
    let s := s.wr (pgREGUL + REGUL_SNAP_HDR) (BitVec.ofNat 32 (2 ^ 31 + step % 2 ^ 16 * 2 ^ 8 + t))
    let s := s.wr (pgREGUL + REGUL_SNAP_PRE) (BitVec.ofNat 32 c.preempt)
    let s := s.each [(REGUL_SNAP_TIME, time), (REGUL_SNAP_SEGRD, c.segRd), (REGUL_SNAP_SEGWR, c.segWr),
        (REGUL_SNAP_RIMACC, c.rimAcc), (REGUL_SNAP_GRANTS, c.grants), (REGUL_SNAP_WAIT, c.waitSum),
        (REGUL_SNAP_BRAKE, c.brakeT), (REGUL_SNAP_DISPL, c.displ)] fun s e =>
      s.put64 (pgREGUL + e.1) (pgREGUL + e.1 + 4) e.2
    .next (s.each (List.range 16) fun s b => s.wr (pgREGUL + REGUL_SNAP_HIST + 4 * b) (BitVec.ofNat 32 (c.hist.getD b 0)))

/-- The edges staged in HEDGE0 to HEDGE7 (R214, R220). -/
def stagedEdges (s : State) : List Nat :=
  (List.range 15).map fun i => bits (s.rd (pgREGUL + REGUL_HEDGE + 4 * (i / 2))).toNat (16 * (i % 2) + 15) (16 * (i % 2))
/-- A list strictly rises. -/
def risingList : List Nat → Bool
  | a :: b :: l => decide (a < b) && risingList (b :: l)
  | _ => true
/-- REGUL_CTL.HAPPLY (R214). -/
def execHapply (m : Master) (s : State) : Res :=
  .next (s.gate m pgREGUL REGUL_REGUL_CTL false fun s =>
    if regLocked s then s.lockViol m REGUL_REGUL_CTL
    else if risingList (stagedEdges s) then
      { s with regul := { s.regul with
        edges := stagedEdges s, cnt := s.regul.cnt.map fun e => (e.1, { e.2 with hist := [] }) } }
    else (s.put pgREGUL REGUL_REGUL_CTL_HIST_ERR 1).refused m pgREGUL REGUL_REGUL_CTL)
/-- REGUL_CTL.LOCK (R218). -/
def execLock (m : Master) (s : State) : Res :=
  .next (s.gate m pgREGUL REGUL_REGUL_CTL false fun s => s.put pgREGUL REGUL_REGUL_CTL_LOCKED 1)

end Sys2Proof.Machine
end

