-- ==== Sys2Proof/Machine/RimAlu.lean ====
section
/-! DEFINITION. The commands of in-place work (spec/08_inplace_work.md): operation records and their queues, the kernel slots,
and the kernel instructions at a rim's ALU. -/
namespace Sys2Proof.Machine

/-! ### Queues and records -/

/-- RA_PUSH (R236, R262). -/
def execRaPush (m : Master) (q : Nat) (s : State) : Res :=
  .next (s.gate m pgRIMALU RIMALU_RA_PUSH false fun s =>
    let words := (List.range 16).map fun n => (s.rd (pgRIMALU + RIMALU_OPREC0 + 4 * n)).toNat
    match s.pushRec (q % 4) words none with
    | (true, s) => s
    | (false, s) => s.refused m pgRIMALU RIMALU_RA_PUSH)

/-- The bookkeeping of R100 for a record refused at the checks of R85. -/
def State.rejectRec (s : State) (r : RaRec) : State :=
  match recordRefused s r with
  | some (o, st) => s.cond (recordForm s r == 0) fun s => s.reject r.source o.handle o.gen st
  | none => s
/-- The record at the head of a queue counts as started: accepted under its handles, whose POWER, OVF and SROUND it takes (R88,
R241). -/
def State.beginRec (s : State) (q : Nat) : State :=
  let caps := fun (r : RaRec) => (r.operands s).map fun o => (o.1.handle, capOf s o.1.handle)
  (s.headRec q fun r => { r with started := true, acc := s.hub.accCtr, caps := caps r }).hubf fun h => { h with accCtr := h.accCtr + 1 }
/-- The record at the head of a queue starts where it is of a kind: it is checked, and its first chunk asks for energy (R236,
R240, R243). -/
def startRecord (q kind : Nat) (s : State) : State :=
  match raHead s q with
  | none => s
  | some r =>
    if r.started ∨ raState s q ≠ 1 ∨ 16 ≤ (raqOf s q).cpl.length ∨ (if r.kind ≤ 4 then r.kind else 0) ≠ kind then s
    else
      let st := recordCheck s r
      let s := s.beginRec q
      if st ≠ 0 then (s.rejectRec r).headRec q fun r => { r with stop := true, status := st }
      else if r.kind = 0 then s.headRec q fun r => { r with next := r.steps, upTo := r.steps }
      else (s.nextChunk q).runChunk q
/-- A NOP record starts; a record of a reserved KIND, which the checks refuse, starts with it. -/
def execOprecNop (q : Nat) (s : State) : Res := .next (startRecord (q % 4) 0 s)
/-- A ZERO record starts (R223). -/
def execOprecZero (q : Nat) (s : State) : Res := .next (startRecord (q % 4) 1 s)
/-- A FILL record starts (R224). -/
def execOprecFill (q : Nat) (s : State) : Res := .next (startRecord (q % 4) 2 s)
/-- A COPY record starts (R244). -/
def execOprecCopy (q : Nat) (s : State) : Res := .next (startRecord (q % 4) 3 s)
/-- A KERNEL record starts (R246). -/
def execOprecKernel (q : Nat) (s : State) : Res := .next (startRecord (q % 4) 4 s)

/-- The running record of a queue goes on: its next chunk asks for energy once the last one has finished, and the steps of an
admitted chunk go to the rims (R242, R259). -/
def execRecordChunkAdmission (q : Nat) (s : State) : Res :=
  let q := q % 4
  match raHead s q with
  | none => .next s
  | some r =>
    if !r.started then .next s
    else if !r.stop ∧ r.upTo ≤ r.next ∧ r.next < r.steps ∧ r.fly.isEmpty then .next ((s.nextChunk q).runChunk q)
    else .next (s.runChunk q)

/-- The reduce segment that can be written: a full one, or any once the operation has ended (R253). -/
def reduceReady (r : RaRec) : Option Nat :=
  let segs := (r.red.map fun e => e.1 / 8).eraseDups
  segs.find? fun g => r.quiet || (List.range 8).all fun k => r.red.any fun e => e.1 == 8 * g + k
/-- A segment of reduce words written to operand B (R253, R258). -/
def execReduceSegmentWrite (q : Nat) (s : State) : Res :=
  let q := q % 4
  match raHead s q with
  | none => .next s
  | some r => match reduceReady r with
    | none => .next s
    | some g =>
      let (l, row, col) := wordLine s r.opB (8 * g)
      let words := r.red.filter fun e => e.1 / 8 == g
      let drop := fun (s : State) => s.headRec q fun r => { r with red := r.red.filter fun e => e.1 / 8 != g }
      let step := (words.map (·.1)).headD 0
      let data := words.foldl (fun a e => a + e.2 * 2 ^ (32 * (e.1 % 8))) 0
      let mask := words.foldl (fun a e => a + 15 * 2 ^ (4 * (e.1 % 8))) 0
      let x : SegOp := ⟨row, col, BitVec.ofNat 256 data, BitVec.ofNat 32 mask⟩
      match s.tryAcc (segClaim s (raUnit q step) r l.layer l.frame row col .write x.mask (r.pol s r.opB.handle)) with
      | (.wait, s) => .next s
      | (.fail st, s) => .next ((drop s).failStep q step st)
      | (.go, s) =>
        let (pm, s) := directWrite s l.layer l.frame [x] r.tid
        let s := drop s
        .next (s.cond (pm != 0) fun s => s.failStep q step stPOISON)

/-- A write of a queue's record has not landed: a line in a write buffer, or a reserved write half (R242). -/
def writing (s : State) (q : Nat) : Bool :=
  (s.hub.claims.any fun c => match c.src with | .kstore k _ => k == q | _ => false) ||
    s.rims.any fun e => e.2.half.any fun h => h.src.owner == some (raOwner q)
/-- The running record of a queue completes (R242). -/
def execRecordComplete (q : Nat) (s : State) : Res :=
  let q := q % 4
  match raHead s q with
  | none => .next s
  | some r =>
    if r.quiet && r.red.isEmpty && !writing s q && decide ((raqOf s q).cpl.length < 16) then
      let s := (s.endChunk (raOwner q)).nrg fun e => { e with meter := Sp.del e.meter (raOwner q) }
      let s := s.setRaq q fun y => { y with recs := y.recs.drop 1 }
      .next (s.completeRec q r)
    else .next s

/-- QEN bit q is set (R262). An enable of a DRAINING queue is held until it has drained, and a record held at a full
completion FIFO of a DISABLED queue then runs (DESIGN CHOICE, log entry 76). -/
def execQueueEnable (m : Master) (q : Nat) (s : State) : Res :=
  let q := q % 4
  .next (s.gate m pgRIMALU RIMALU_RA_CTL true fun s =>
    let s := s.put pgRIMALU ⟨RIMALU_RA_CTL, q, q⟩ 1
    s.cond (raState s q == 0) fun s => s.put pgRIMALU (RIMALU_Q_STAT_STATE.at 32 q) 1)
/-- QEN bit q is cleared (R262). -/
def execQueueDisable (m : Master) (q : Nat) (s : State) : Res :=
  let q := q % 4
  .next (s.gate m pgRIMALU RIMALU_RA_CTL true fun s =>
    let s := s.put pgRIMALU ⟨RIMALU_RA_CTL, q, q⟩ 0
    s.cond (raState s q == 1) fun s => (s.put pgRIMALU (RIMALU_Q_STAT_STATE.at 32 q) 2).flushDisabled q 17)
/-- A draining queue whose records have all completed reads DISABLED (R262); one whose QEN was written back to 1 reads
ENABLED (DESIGN CHOICE, log entry 76). -/
def execQueueDrainDone (q : Nat) (s : State) : Res :=
  let q := q % 4
  if raState s q = 2 ∧ (raqOf s q).recs.isEmpty then
    .next (s.put pgRIMALU (RIMALU_Q_STAT_STATE.at 32 q) (b2n (bit (s.get pgRIMALU RIMALU_RA_CTL_QEN) q)))
  else .next s

/-- A read of Qq_CPL by a master: the oldest completion entry is removed, and CPL_STEP takes its failed step (R264). -/
def execQcplRead (m : Master) (q : Nat) (s : State) : Res :=
  let q := q % 4
  let pg : PageAt := ⟨.rimalu, 0, pgRIMALU⟩
  if !fabricOpen s m pg then .next s
  else if !readPath s m pg then .next (s.answerMaster m [(0, 0)])
  else .next ((s.popCpl q).answerMaster m [(qCplWord s q, 0)])

/-! ### Kernel slots (R247) -/

/-- KERR of a body: 0 where it can be loaded. -/
def kernelErr (body : List Nat) : Nat :=
  let arith := fun i => decide (4 ≤ kiOpc i) && kiOpc i != 10
  let fmtOk := fun f => f == 2 || f == 3 || f == 6 || f == 8
  if body.any fun i => decide (12 < kiOpc i) || i % 512 != 0 || (kiOpc i != 10 && kiCfmt i != 0) then 1
  else if body.any fun i => (arith i && !fmtOk (kiFmt i)) || (kiOpc i == 10 &&
      (kiFmt i == 0 || decide (12 < kiFmt i) || kiCfmt i == 0 || decide (12 < kiCfmt i))) then 2
  else if body.any fun i => kiOpc i == 9 && kiKix i % 2 == 1 then 3
  else if 1 < (body.filter fun i => kiOpc i == 11 || kiOpc i == 12).length then 4
  else 0
/-- KCTL.LOAD with its SLOT and LEN_M1, which only the page's owner writes (R11, R247, R263, R509). -/
def execKernelLoad (m : Master) (slot len : Nat) (s : State) : Res :=
  .next (s.gate m pgRIMALU RIMALU_KCTL false fun s =>
    if !s.cfg.optA then s
    else
      let w := RIMALU_KCTL_LEN_M1.into (RIMALU_KCTL_SLOT.into (s.rd (pgRIMALU + RIMALU_KCTL)) (slot % 8)) (len % 16)
      let s := s.setFields m pgRIMALU RIMALU_KCTL w
      let k := s.get pgRIMALU RIMALU_KCTL_SLOT
      let n := s.get pgRIMALU RIMALU_KCTL_LEN_M1 + 1
      let body := (List.range n).map fun i => (s.rd (pgRIMALU + RIMALU_KSTAGE + 4 * i)).toNat
      let err := if slotInUse s k then 5 else kernelErr body
      let s := s.put pgRIMALU RIMALU_KCTL_KERR err
      if err ≠ 0 then (s.irq pgRIMALU 8).refused m pgRIMALU RIMALU_KCTL
      else
        let s := s.each (List.range n) fun s i =>
          s.wr (pgRIMALU + RIMALU_KSLOT + 64 * k + 4 * i) (BitVec.ofNat 32 (body.getD i 0))
        { s.put pgRIMALU ⟨RIMALU_KSLOT_STAT, k, k⟩ 1 with klen := Sp.set s.klen k n })

/-! ### The rim ALU (R246 to R256) -/

/-- A step at the head of a rim: its queue, its record and its number. -/
structure KCtx where
  layer : Nat
  i     : Nat
  p     : Nat
  q     : Nat
  r     : RaRec
  step  : Nat

/-- A register of the ALU, and its scale field. -/
def aluReg (r : RimSt) (y : Bool) : Nat := if y then r.aluY else r.aluX
def aluScale (r : RimSt) (y : Bool) : Nat := if y then r.aluYs else r.aluXs
/-- The state with a register of the ALU replaced; `bad` says that it holds a failed load. -/
def State.setAlu (s : State) (c : KCtx) (y : Bool) (v : Nat) (bad : Bool) : State :=
  s.rim c.layer c.p fun r =>
    let r := if y then { r with aluY := v } else { r with aluX := v }
    { r with kbad := r.kbad - b2n (bit r.kbad (b2n y)) * 2 ^ b2n y + b2n bad * 2 ^ b2n y }
def State.setAluScale (s : State) (c : KCtx) (y : Bool) (v : Nat) : State :=
  s.rim c.layer c.p fun r => if y then { r with aluYs := v } else { r with aluXs := v }
/-- A register holds a failed load. -/
def aluBad (s : State) (c : KCtx) (y : Bool) : Bool := bit (rimOf s c.layer c.p).kbad (b2n y)
/-- The running step takes a status where it has none yet. -/
def State.kFail (s : State) (c : KCtx) (st : Nat) : State :=
  s.rim c.layer c.p fun r => { r with kfail := if r.kfail = 0 then st else r.kfail }

/-- The generator state of a step (R252). -/
def stepSeed (seed step : Nat) : Nat :=
  let x := (seed * 0x00010001 % 2 ^ 32) ^^^ (step * 0x9E3779B9 % 2 ^ 32)
  if x = 0 then 1 else x

/-- The gate segment of a step, read once for its eight steps (R253); none while it must wait. -/
def State.gateSeg (s : State) (q : Nat) (r : RaRec) (step : Nat) : Option (Nat × Nat) × State :=
  let g := step / 8
  match r.gates.find? fun e => e.1 == g with
  | some e => (some e.2, s)
  | none =>
    let (l, row, col) := wordLine s r.opB step
    let keep := fun (v : Nat × Nat) (s : State) => s.headRec q fun r => { r with
      gates := Sp.set (r.gates.filter fun e => decide (r.fly.headD 0 / 8 ≤ e.1)) g v }
    match s.tryAcc (segClaim s (gateUnit q g) r l.layer l.frame row col .read 0 (r.pol s r.opB.handle)) with
    | (.wait, s) => (none, s)
    | (.fail st, s) => (some (st, 0), keep (st, 0) s)
    | (.go, s) =>
      let (ds, pm, s) := directRead s l.layer l.frame [(row, col)] r.tid
      let v := (if pm = 0 then stOK else stPOISON, (ds.headD 0).toNat)
      (some v, keep v s)

/-- The step of a record claimed by a rim: its ALU registers are zero at the record's first step there (R246). -/
def State.kStart (s : State) (layer i q : Nat) (r : RaRec) (step : Nat) : Option KCtx × State :=
  let p := physOf s layer i
  let first := !r.rims.contains (16 * layer + i)
  let s := s.headRec q fun r => { r with rims := NSet.insert r.rims (16 * layer + i) }
  let s := s.rim layer p fun x =>
    let x := if first then { x with aluX := 0, aluXs := 0, aluY := 0, aluYs := 0, kbad := 0 } else x
    { x with kq := some q, krun := true, kstep := step, kpc := 0, kfail := 0, kbad := 0, kword := none,
             kseed := stepSeed (bits (r.w 6) 15 0) step }
  (some ⟨layer, i, p, q, r, step⟩, s)
/-- The gate segment of a step read, then the step begins, or fails (R253). -/
def State.kGate (s : State) (layer i q : Nat) (r : RaRec) (step : Nat) : Option KCtx × State :=
  if r.bmode ≠ 2 then s.kStart layer i q r step
  else match s.gateSeg q r step with
    | (none, s) => (none, s)
    | (some (st, _), s) => if st ≠ 0 then (none, s.stepEnd q step st none) else s.kStart layer i q r step
/-- The step of a record asked at its rim. -/
def State.kTry (s : State) (layer i q : Nat) (r : RaRec) (step : Nat) : Option KCtx × State :=
  let d := walkLine s r.opD (2 ^ r.opD.mul * step)
  match s.tryNew r.tid d.layer d.frame (r.pol s r.opD.handle) with
  | (.wait, s) => (none, s)
  | (.fail st, s) => (none, s.stepEnd q step st none)
  | (.go, s) => s.kGate layer i q r step
/-- The step that a rim's ALU runs, or starts: none where there is none, or where it cannot start now. -/
def State.kClaim (s : State) (layer i : Nat) : Option KCtx × State :=
  let p := physOf s layer i
  let rim := rimOf s layer p
  let here := fun (r : RaRec) (t : Nat) => (walkLine s r.opD (2 ^ r.opD.mul * t)).key == 16 * layer + i
  let stepsOf := fun q => match raHead s q with
    | some r => if r.kind = 4 then (r.waiting.filter (here r)).map fun t => (r, t) else []
    | none => []
  match rim.krun, rim.kq with
  | true, some q => match raHead s q with
    | some r => (some ⟨layer, i, p, q, r, rim.kstep⟩, s)
    | none => (none, s)
  | _, kq =>
    match (kq.toList ++ [0, 1, 2, 3]).find? fun q => !(stepsOf q).isEmpty with
    | none => (none, s)
    | some q => match stepsOf q with
      | [] => (none, s)
      | (r, step) :: _ => s.kTry layer i q r step

/-- The next instruction of a rim's kernel step issues, where it has an opcode (R255): its effect, its charge, and the end of the
step after the last instruction of the body. An effect that must wait answers none with the state. -/
def kernelIssue (layer i opc : Nat) (act : KCtx → Nat → State → Bool × State) (s : State) : Res :=
  if s.cfg.dies ≤ layer ∨ 16 ≤ i ∨ physOf s layer i = 31 then .next s
  else match s.kClaim layer i with
    | (none, s) => .next s
    | (some c, t) =>
      let body := kBody t c.r.kslot
      let pc := (rimOf t layer c.p).kpc
      let ins := body.getD pc 0
      if body.length ≤ pc ∨ kiOpc ins ≠ opc then .next s
      else match act c ins t with
        | (false, t) => .next t
        | (true, t) =>
          let t := t.energy 2 1 c.r.tid (some (raOwner c.q))
          let t := t.rim layer c.p fun r => { r with kpc := pc + 1 }
          if pc + 1 < body.length then .next t
          else
            let r := rimOf t layer c.p
            let t := t.stepIssued c.q c.step r.kfail (if r.kfail = 0 then r.kword else none)
            .next (t.aluFree layer i c.q)

/-- A line, and for an MX handle its scale entry, loaded into a register (R252, R256, R260). -/
def kLoad (o : RaOp) (c : KCtx) (ins : Nat) (s : State) : Bool × State :=
  let l := walkLine s o (2 ^ o.mul * c.step + kiJ ins)
  let y := kiDst ins
  let pol := c.r.pol s o.handle
  let home := walkLine s c.r.opD (2 ^ c.r.opD.mul * c.step)
  let scale := match descOf s o.handle with
    | some d => if isMX d.format then some (d.frame (d.splane + l.hframe / 16), l.hframe % 16, l.num) else none
    | none => none
  if crossHeld s l home then (false, s)
  else match s.tryAcc (lineClaim s c.q c.step c.r l .read pol) with
    | (.wait, s) => (false, s)
    | (.fail st, s) => (true, (s.setAlu c y 0 true).kFail c st)
    | (.go, s) =>
      let line := fun (s : State) =>
        let (st, v, s) := s.raRead c.r l
        let s := s.setAlu c y (if st = stOK then v else 0) (st != stOK)
        s.cond (st != stOK) fun s => s.kFail c st
      match scale with
      | none => (true, line s)
      | some ((sl, sf), row, col) =>
        match s.tryAcc (segClaim s (raUnit c.q c.step) c.r sl sf row col .read 0 pol) with
        | (.wait, s) => (false, s)
        | (.fail st, s) => (true, ((line s).rim c.layer c.p fun r =>
            { r with kbad := r.kbad - b2n (bit r.kbad (b2n y)) * 2 ^ b2n y + 2 ^ b2n y }).kFail c st)
        | (.go, s) =>
          let s := line s
          let (ds, pm, s) := directRead s sl sf [(row, col)] c.r.tid
          let s := s.setAluScale c y (ds.headD 0).toNat
          (true, s.cond (pm != 0) fun s => (s.rim c.layer c.p fun r =>
            { r with kbad := r.kbad - b2n (bit r.kbad (b2n y)) * 2 ^ b2n y + 2 ^ b2n y }).kFail c stPOISON)

/-- A kernel NOP. -/
def execKiNop (layer rim : Nat) (s : State) : Res := kernelIssue layer rim 0 (fun _ _ s => (true, s)) s
/-- A kernel LDA (R249, R252). -/
def execKiLda (layer rim : Nat) (s : State) : Res := kernelIssue layer rim 1 (fun c ins s => kLoad c.r.opA c ins s) s
/-- A kernel LDB (R249). -/
def execKiLdb (layer rim : Nat) (s : State) : Res := kernelIssue layer rim 2 (fun c ins s => kLoad c.r.opB c ins s) s
/-- Lines that kernels have stored at a rim and that still wait in its two write buffers (R255). -/
def buffered (s : State) (c : KCtx) : Nat :=
  (s.hub.claims.filter fun a => a.line && (match a.src with | .kstore .. => true | _ => false) &&
    a.layer == c.layer && a.rim == c.i).length
/-- A write of a kernel's ST enters a write buffer of the rim, charged, and the rim serves it as R180 gives: at once where it would be
chosen now. Answers the status it is refused with. -/
def State.kWrite (s : State) (c : KCtx) (a : Access) (segs : List SegOp) : Nat × State :=
  match s.tryRim a.tid a.layer a.frame a.policy with
  | (.fail st, s) => (st, s)
  | (go, s) =>
    let b := { a with seq := s.hub.seqCtr, src := .kstore c.q c.step, segs := segs }
    let s := s.hubf fun h => { h with seqCtr := h.seqCtr + 1, claims := h.claims ++ [b] }
    let s := s.charge b.tid b.charge.1 b.charge.2
    (stOK, s.cond (go == .go && wins s b.layer b.rim b.seq) fun s => rimArb s b.layer b.rim)
/-- A kernel ST: the line, and for an MX handle its scale entry, leaves a register for a write buffer of the rim, unless the
register holds a failed load; it waits while both buffers are full (R252, R255, R260). -/
def kStore (c : KCtx) (ins : Nat) (s : State) : Bool × State :=
  let o := c.r.opD
  let l := walkLine s o (2 ^ o.mul * c.step + kiJ ins)
  let y := kiSa ins
  let pol := c.r.pol s o.handle
  let reg := rimOf s c.layer c.p
  if aluBad s c y then (true, s)
  else if 2 ≤ buffered s c then (false, s)
  else
    let (st, s) := s.kWrite c (lineClaim s c.q c.step c.r l .write pol) (cutLine l.col l.num (aluReg reg y))
    if st ≠ stOK then (true, s.kFail c st)
    else match descOf s o.handle with
      | none => (true, s)
      | some d =>
        if !isMX d.format then (true, s)
        else
          let (sl, sf) := d.frame (d.splane + l.hframe / 16)
          let x : SegOp := ⟨l.hframe % 16, l.num, BitVec.ofNat 256 (aluScale reg y), fullMask⟩
          let (st, s) := s.kWrite c (segClaim s (raUnit c.q c.step) c.r sl sf x.row x.col .write fullMask pol) [x]
          (true, s.cond (st != stOK) fun s => s.kFail c st)
def execKiSt (layer rim : Nat) (s : State) : Res := kernelIssue layer rim 3 kStore s

/-! ### Lane arithmetic (R249, R250) -/

/-- An exact value narrowed to an arithmetic format: 2 int8, 3 int32, 6 bf16, 8 binary32. -/
def laneOf (fmt : Nat) (v : FVal) : Conv :=
  if fmt = 2 then
    let (x, sat, _) := narrowInt .rne (-128) 127 v
    { code := unsigned 8 x, sat := sat, nan := false }
  else if fmt = 3 then
    let (x, sat, _) := narrowInt .rne (-(2 ^ 31)) (2 ^ 31 - 1) v
    { code := unsigned 32 x, sat := sat, nan := false }
  else if fmt = 6 then fmtBF16.ieee v
  else fmtF32.ieee v
/-- A float format. -/
def laneFloat (fmt : Nat) : Bool := fmt == 6 || fmt == 8
/-- A scalar or gate word taken into a format. -/
def scalarLane (fmt word : Nat) (gate : Bool) : Nat :=
  (laneOf fmt (if gate || laneFloat fmt then fmtF32.decode word else .ofInt (signed 32 word))).code
/-- Scalar K[n] of a record. -/
def RaRec.k (r : RaRec) (n : Nat) : Nat := r.w (8 + n % 8)
/-- The minimum or the maximum of two lanes: the canonical NaN where either is NaN. -/
def laneMinMax (fmt : Nat) (max : Bool) (a b : Nat) : Conv :=
  let x := elemValue fmt a
  let y := elemValue fmt b
  if x = .nan ∨ y = .nan then laneOf fmt .nan
  else { code := if (if max then y.lt x else x.lt y) then a else b, sat := false, nan := false }

/-- The gate word of a step. -/
def gateWord (s : State) (c : KCtx) : Nat :=
  let g := match raHead s c.q with
    | some r => (Sp.get (0, 0) r.gates (c.step / 8)).2
    | none => 0
  bits g (32 * (c.step % 8) + 31) (32 * (c.step % 8))
/-- The lanes of SRC (R248, R250). -/
def srcLanes (s : State) (c : KCtx) (ins : Nat) : List Nat :=
  let fmt := kiFmt ins
  let w := fmtWidth fmt
  let n := 4096 / w
  let reg := rimOf s c.layer c.p
  match kiSrc ins with
  | 0 => elems w n reg.aluX
  | 1 => elems w n reg.aluY
  | 2 => List.replicate n (scalarLane fmt (c.r.k (kiKix ins)) false)
  | _ => List.replicate n (scalarLane fmt (gateWord s c) true)
/-- SRC holds a failed load. -/
def srcBad (s : State) (c : KCtx) (ins : Nat) : Bool :=
  match kiSrc ins with
  | 0 => aluBad s c false
  | 1 => aluBad s c true
  | _ => false
/-- Lanes counted in RA_SAT and RA_NAN. -/
def State.countLanes (s : State) (cs : List Conv) : State :=
  (s.bumpSat pgRIMALU RIMALU_RA_SAT_COUNT (cs.filter (·.sat)).length).bumpSat pgRIMALU RIMALU_RA_NAN_COUNT
    (cs.filter (·.nan)).length
/-- A lane-wise instruction: DST takes the results of `f` on the lanes of DST, SA and SRC. `usesDst` says that DST is read. -/
def kLanes (f : Nat → Nat → Nat → Nat → Conv) (usesDst : Bool) (c : KCtx) (ins : Nat) (s : State) : Bool × State :=
  let fmt := kiFmt ins
  let w := fmtWidth fmt
  let n := 4096 / w
  let reg := rimOf s c.layer c.p
  let ds := elems w n (aluReg reg (kiDst ins))
  let xs := elems w n (aluReg reg (kiSa ins))
  let ys := srcLanes s c ins
  let cs := (ds.zip (xs.zip ys)).map fun t => f fmt t.1 t.2.1 t.2.2
  let bad := aluBad s c (kiSa ins) || (kiUsesSrc ins && srcBad s c ins) || (usesDst && aluBad s c (kiDst ins))
  (true, (s.setAlu c (kiDst ins) (packElems w (cs.map (·.code))) bad).countLanes cs)

/-- A kernel ADD. -/
def execKiAdd (layer rim : Nat) (s : State) : Res :=
  kernelIssue layer rim 4 (kLanes (fun f _ a b => laneOf f ((elemValue f a).add (elemValue f b))) false) s
/-- A kernel MUL. -/
def execKiMul (layer rim : Nat) (s : State) : Res :=
  kernelIssue layer rim 5 (kLanes (fun f _ a b => laneOf f ((elemValue f a).mul (elemValue f b))) false) s
/-- A kernel FMA: one rounding. -/
def execKiFma (layer rim : Nat) (s : State) : Res :=
  kernelIssue layer rim 6 (kLanes (fun f d a b =>
    laneOf f ((elemValue f d).add ((elemValue f a).mul (elemValue f b)))) true) s
/-- A kernel MIN. -/
def execKiMin (layer rim : Nat) (s : State) : Res :=
  kernelIssue layer rim 7 (kLanes (fun f _ a b => laneMinMax f false a b) false) s
/-- A kernel MAX. -/
def execKiMax (layer rim : Nat) (s : State) : Res :=
  kernelIssue layer rim 8 (kLanes (fun f _ a b => laneMinMax f true a b) false) s
/-- The lanes clamped between two scalars: min(max(SA, K[KIX]), K[KIX + 1]). -/
def kClip (c : KCtx) (ins : Nat) (s : State) : Bool × State :=
  kLanes (fun f _ a _ => laneMinMax f false (laneMinMax f true a (scalarLane f (c.r.k (kiKix ins)) false)).code
    (scalarLane f (c.r.k (kiKix ins + 1)) false)) false c ins s
/-- A kernel CLIP. -/
def execKiClip (layer rim : Nat) (s : State) : Res := kernelIssue layer rim 9 kClip s

/-- The integer range of a format: int4, int8, int32. -/
def intRange (fmt : Nat) : Option (Int × Int) :=
  if fmt = 1 then some (-8, 7) else if fmt = 2 then some (-128, 127)
  else if fmt = 3 then some (-(2 ^ 31), 2 ^ 31 - 1) else none
/-- One element converted by a CVT into a format that is not MX (R251). Between formats of equal width an fp8 overflow
saturates whatever OVF and a bf16 or binary16 overflow gives infinity; an int4 target narrower than its source takes
SROUND's draw (DESIGN CHOICE, log entry 28). -/
def cvtElem (co wi : Nat) (ovf sround : Bool) (v : FVal) (seed : Nat) : Conv × Nat :=
  let narrower := decide (fmtWidth co < wi)
  if narrower && (co == 2 || co == 4 || co == 5) then writeElem co ovf sround v seed
  else match intRange co with
    | some (lo, hi) =>
      let exact := match v with
        | .fin n m e => (toUnits m e 0).2.1 == 0 && decide ((toUnits m e 0).1 ≤ (if n then -lo else hi).toNat)
        | _ => true
      let draw := narrower && sround && !exact
      let seed := if draw then lfsrStep seed else seed
      let (x, sat, _) := narrowInt (if draw then .sr (seed % 65536) else .rne) lo hi v
      ({ code := unsigned (fmtWidth co) x, sat := sat, nan := false }, seed)
    | none =>
      let f := if co = 4 then fmtE4M3 else if co = 5 then fmtE5M2 else if co = 6 then fmtBF16
        else if co = 7 then fmtF16 else fmtF32
      let keep := decide (6 ≤ co) && (!narrower || ovf)
      (f.narrow .rne (!keep) keep v, seed)
/-- A register converted (R251): the new register and scale field of DST, the lanes, and the generator.
An MX target of the source's own width rounds by the SROUND of D's handle (DESIGN CHOICE, log entry 28). -/
def cvtReg (ins src srcScale dst dstScale : Nat) (ovf sround : Bool) (seed : Nat) : Nat × Nat × List Conv × Nat :=
  let fi := kiFmt ins
  let co := kiCfmt ins
  let wi := fmtWidth fi
  let wo := fmtWidth co
  let k := cvtRatio ins
  let n := 4096 / wi
  let first := if wo ≤ wi then 0 else kiJ ins * n / k
  let count := if wo ≤ wi then n else n / k
  let vals := ((elems wi n src).mapIdx fun e x =>
    let v := elemValue fi x
    if isMX fi then
      let sc := bits srcScale (8 * (e / 32) + 7) (8 * (e / 32))
      if sc = 0xFF then FVal.nan else v.scale ((sc : Int) - 127)
    else v).drop first |>.take count
  let at0 := if wo ≤ wi then kiJ ins * n else 0         -- first lane of DST written
  let put := fun (cs : List Conv) =>
    let new := packElems wo (cs.map (·.code))
    dst - bits dst (wo * (at0 + count) - 1) (wo * at0) * 2 ^ (wo * at0) + new * 2 ^ (wo * at0)
  if isMX co then
    let blocks := (List.range (count / 32)).map fun b => (vals.drop (32 * b)).take 32
    let (bs, seed) := mxBlocks co sround blocks seed
    let scale := (List.range bs.length).foldl (fun a b =>
      let pos := 8 * (at0 / 32 + b)
      a - bits a (pos + 7) pos * 2 ^ pos + ((bs.map (·.1)).getD b 0) * 2 ^ pos) dstScale
    let cs := bs.flatMap (·.2)
    (put cs, scale, cs, seed)
  else
    let (cs, seed) := convList (cvtElem co wi ovf sround) vals seed
    (put cs, dstScale, cs, seed)
/-- SA converted into DST (R251, R252). -/
def kConvert (c : KCtx) (ins : Nat) (s : State) : Bool × State :=
  let reg := rimOf s c.layer c.p
  let cap := c.r.cap s c.r.opD.handle
  let x := cvtReg ins (aluReg reg (kiSa ins)) (aluScale reg (kiSa ins)) (aluReg reg (kiDst ins))
    (aluScale reg (kiDst ins)) cap.2.1 cap.2.2 reg.kseed
  let part := decide (fmtWidth (kiCfmt ins) < fmtWidth (kiFmt ins))
  let s := s.setAlu c (kiDst ins) x.1 (aluBad s c (kiSa ins) || (part && aluBad s c (kiDst ins)))
  let s := (s.setAluScale c (kiDst ins) x.2.1).countLanes x.2.2.1
  (true, s.rim c.layer c.p fun r => { r with kseed := x.2.2.2 })
/-- A kernel CVT. -/
def execKiCvt (layer rim : Nat) (s : State) : Res := kernelIssue layer rim 10 kConvert s

/-- The step's reduce word (R250, R253). -/
def kReduce (f : Nat → List FVal → Conv) (c : KCtx) (ins : Nat) (s : State) : Bool × State :=
  let fmt := kiFmt ins
  let w := fmtWidth fmt
  let vs := (elems w (4096 / w) (aluReg (rimOf s c.layer c.p) (kiSa ins))).map (elemValue fmt)
  let out := f (if laneFloat fmt then 8 else 3) vs
  (true, if aluBad s c (kiSa ins) then s else s.rim c.layer c.p fun r => { r with kword := some out.code })
/-- The exact sum of a list of values. -/
def sumVals : List FVal → FVal
  | [] => .fin false 0 0
  | v :: vs => vs.foldl FVal.add v
/-- The largest of a list of values: NaN where any is. -/
def maxVals : List FVal → FVal
  | [] => .fin false 0 0
  | v :: vs => vs.foldl (fun a b => if a = .nan ∨ b = .nan then .nan else if a.lt b then b else a) v
/-- A kernel RSUM. -/
def execKiRsum (layer rim : Nat) (s : State) : Res :=
  kernelIssue layer rim 11 (kReduce fun f vs => laneOf f (sumVals vs)) s
/-- A kernel RMAX. -/
def execKiRmax (layer rim : Nat) (s : State) : Res :=
  kernelIssue layer rim 12 (kReduce fun f vs => laneOf f (maxVals vs)) s

end Sys2Proof.Machine
end

