-- ==== Sys2Proof/Machine/Sync.lean ====
section
/-! DEFINITION. The commands of the synchronisation plane (spec/10_synchronisation.md): SQ and SW messages, the SYNC pages'
commands, and the events of slots and parked requests. -/
namespace Sys2Proof.Machine

/-! ### SQ (R307 to R318) -/

/-- The error of a message as it is taken: PARKED, DISABLED, BADOP (R312). -/
def sqRefuse (s : State) (x : Nat) (w : SqWord) : Nat :=
  let isRel := (1 ≤ w.op && w.op ≤ 3) || w.op == 7
  if parked s then 5
  else if portState s x != 2 && portState s x != 4 then 4
  else if 8 ≤ w.op || (w.rel && !isRel) || w.resv != 0 ||
      (w.op == 7 && (w.value % 4096 == 0 || w.value / 4096 != 0)) then 2
  else 0
/-- An SQ transfer: taken where an entry is free (R309), counted, and performed unless a held message stands before it or it
must wait for its release (R310, R314). -/
def sqTake (s : State) (x : Nat) (w : SqWord) : Res :=
  if portKind x = 2 ∨ 72 ≤ x ∨ !pagePresent s.cfg ⟨.port, x, portBase x⟩ ∨ portState s x = 0 ∨ (portOf s x).broken ∨
      16 ≤ (portOf s x).sqUsed then .next s
  else
    let h : SqHeld := ⟨w, s.hub.accCtr, sqRefuse s x w⟩
    let s := (s.port x fun p => { p with sqUsed := p.sqUsed + 1 }).bump pgSYNCCTR SYNC_CTR_SY_SQ_CNT_COUNT
    if (portOf s x).sqHeld != [] || sqWaits s x h then .next (s.port x fun p => { p with sqHeld := p.sqHeld ++ [h] })
    else .next (s.sqRun x h)

/-- NOP (R307); reserved OP codes ride on it. -/
def execSqNop (x : Nat) (w : SqWord) (s : State) : Res := sqTake s x { w with op := if 8 ≤ w.op then w.op else 0 }
/-- ADD (R313). -/
def execSqAdd (x : Nat) (w : SqWord) (s : State) : Res := sqTake s x { w with op := 1 }
/-- SUB (R313). -/
def execSqSub (x : Nat) (w : SqWord) (s : State) : Res := sqTake s x { w with op := 2 }
/-- SET (R313). -/
def execSqSet (x : Nat) (w : SqWord) (s : State) : Res := sqTake s x { w with op := 3 }
/-- WATCH (R316). -/
def execSqWatch (x : Nat) (w : SqWord) (s : State) : Res := sqTake s x { w with op := 4 }
/-- UNWATCH (R318). -/
def execSqUnwatch (x : Nat) (w : SqWord) (s : State) : Res := sqTake s x { w with op := 5 }
/-- READ (R313). -/
def execSqRead (x : Nat) (w : SqWord) (s : State) : Res := sqTake s x { w with op := 6 }
/-- ARRIVE (R335, R336). -/
def execSqArrive (x : Nat) (w : SqWord) (s : State) : Res := sqTake s x { w with op := 7 }

/-- A held message of a port takes effect once the writes it waits for have landed, and the later ones behind it follow. -/
def execSqReleaseEffect (x : Nat) (s : State) : Res := .next (s.sqDrain x 16)

/-- The oldest message crosses to the host on SW and frees its entries (R309, R310). -/
def execSwTransfer (x : Nat) (s : State) : Res :=
  match (portOf s x).sw with
  | [] => .next s
  | m :: rest =>
    if portState s x = 0 ∨ (portOf s x).broken then .next s
    else
      let s := s.port x fun p => { p with sw := rest, swLast := some m, sqUsed := p.sqUsed - m.frees }
      match m.also with
      | none => .next s
      | some y => .next (s.sqFree y)

/-! ### Commands of the SYNC pages (R331, R338, R342, R344, R345) -/

/-- A CTR_CMD, TAG_CMD or BARRIVE write is ignored: CMD_ERR, and flagged (R578). -/
def State.syncRefused (s : State) (m : Master) (base reg : Nat) : State :=
  (s.put pgSYNCCTR SYNC_CTR_SY_STAT_CMD_ERR 1).refused m base reg
/-- A CTR_CMD write. -/
def ctrCmd (s : State) (m : Master) (op c v : Nat) : Res :=
  .next (s.gate m pgSYNCCTR SYNC_CTR_CTR_CMD true fun s =>
    if 384 ≤ c % 512 then s.syncRefused m pgSYNCCTR SYNC_CTR_CTR_CMD
    else (s.wr (pgSYNCCTR + SYNC_CTR_CTR_CMD) (BitVec.ofNat 32 (op * 2 ^ 30 + c % 512 * 2 ^ 16 + v % 2 ^ 16))).ctrOp (c % 512) op (v % 2 ^ 16))
/-- CTR_CMD ADD. -/
def execCtrCmdAdd (m : Master) (c v : Nat) (s : State) : Res := ctrCmd s m 0 c v
/-- CTR_CMD SUB. -/
def execCtrCmdSub (m : Master) (c v : Nat) (s : State) : Res := ctrCmd s m 1 c v
/-- CTR_CMD SET. -/
def execCtrCmdSet (m : Master) (c v : Nat) (s : State) : Res := ctrCmd s m 2 c v

/-- A TAG_CMD write (R331). -/
def tagCmd (s : State) (m : Master) (op ring slot : Nat) : Res :=
  .next (s.gate m pgSYNCTAG SYNC_TAG_TAG_CMD true fun s =>
    let ring := ring % 256
    let slot := slot % 16384
    if !ringOn s ring || decide (ringSlots s ring ≤ slot) then s.syncRefused m pgSYNCTAG SYNC_TAG_TAG_CMD
    else
      let s := s.wr (pgSYNCTAG + SYNC_TAG_TAG_CMD) (BitVec.ofNat 32 (op * 2 ^ 30 + ring * 2 ^ 22 + slot))
      if op = 1 then s.fillSlot ring slot else s.emptySlot ring slot)
/-- TAG_CMD SET_FULL. -/
def execTagCmdSetFull (m : Master) (ring slot : Nat) (s : State) : Res := tagCmd s m 1 ring slot
/-- TAG_CMD SET_EMPTY. -/
def execTagCmdSetEmpty (m : Master) (ring slot : Nat) (s : State) : Res := tagCmd s m 2 ring slot

/-- BARRIVE: arrivals without a waiter (R345). -/
def execBarrive (m : Master) (bar n : Nat) (s : State) : Res :=
  .next (s.gate m pgSYNCBAR SYNC_BAR_BARRIVE true fun s =>
    let bar := bar % 64
    let n := n % 4096
    if !barOn s bar || n == 0 then s.syncRefused m pgSYNCBAR SYNC_BAR_BARRIVE
    else (s.wr (pgSYNCBAR + SYNC_BAR_BARRIVE) (BitVec.ofNat 32 (bar * 2 ^ 16 + n))).arrive bar n)

/-- The configuration fields of a BCFG write, which take effect only while EN is 0 (R338). -/
def State.barConfig (s : State) (n : Nat) (w : Word32) : State :=
  if barOn s n then s
  else ((s.barPut n SYNC_BAR_BCFG_DOMAIN (SYNC_BAR_BCFG_DOMAIN.of w)).barPut n SYNC_BAR_BCFG_DEVS
    (SYNC_BAR_BCFG_DEVS.of w)).barPut n SYNC_BAR_BCFG_EXPECT (SYNC_BAR_BCFG_EXPECT.of w)
/-- BCFGn written with EN 1: enabled with a fresh phase, or refused with BAR_ERR. -/
def execBarrierEnable (m : Master) (bar : Nat) (w : Word32) (s : State) : Res :=
  let n := bar % 64
  .next (s.gate m pgSYNCBAR (SYNC_BAR_BCFG + 16 * n) true fun s =>
    let was := barOn s n
    let s := s.barConfig n w
    if was then s
    else if barGet s n SYNC_BAR_BCFG_EXPECT = 0 ∨ (barGet s n SYNC_BAR_BCFG_DOMAIN = 1 ∧ s.cfg.links = 0) then
      (s.put pgSYNCCTR SYNC_CTR_SY_STAT_BAR_ERR 1).refused m pgSYNCBAR (SYNC_BAR_BCFG + 16 * n)
    else (s.barPut n SYNC_BAR_BSTAT_COUNT 0).barPut n SYNC_BAR_BCFG_EN 1)
/-- BCFGn written with EN 0: the running phase is aborted (R338). -/
def execBarrierDisable (m : Master) (bar : Nat) (w : Word32) (s : State) : Res :=
  let n := bar % 64
  .next (s.gate m pgSYNCBAR (SYNC_BAR_BCFG + 16 * n) true fun s =>
    if barOn s n then (s.barReset n).barPut n SYNC_BAR_BCFG_EN 0 else s.barConfig n w)
/-- BCFGn.RESET. -/
def execBarrierReset (m : Master) (bar : Nat) (s : State) : Res :=
  .next (s.gate m pgSYNCBAR (SYNC_BAR_BCFG + 16 * (bar % 64)) false fun s => s.barReset (bar % 64))

/-! ### Rings (R321, R334) -/

/-- RCFG0 of a ring without EN. -/
def rcfgFields (w : Word32) : Nat := w.toNat % 2 ^ 30 / 2 ^ 16 * 2 ^ 16 + w.toNat % 2 ^ 9
def rcfgOff (i : Nat) : Nat := SYNC_RING_RCFG0 + 16 * (i % 128)
/-- A configuration field of an enabled ring was written: ignored, LOCKED (R321). -/
def State.ringLocked (s : State) (m : Master) (i reg : Nat) : State :=
  ((s.put (ringBase i) SYNC_RING_RING_ERR_LOCKED 1).put (ringBase i) SYNC_RING_RING_ERR_RING i).refused m (ringBase i) reg
/-- The first reason of R321 that forbids a ring to be enabled, 0 for none. -/
def ringReason (s : State) (i : Nat) : Nat :=
  let h := ringGet s i SYNC_RING_RCFG0_HANDLE
  let lo := ringLine s i
  let hi := lo + ringSlots s i * slotLines s i
  let t := ringTag s i
  let u := t + ringSlots s i
  let others := (ringsOn s).filter (· != i)
  match liveDesc s h (ringGet s i SYNC_RING_RCFG0_GEN) with
  | none => 1
  | some d =>
    if 16 * (d.extentM1 + 1) < hi then 2
    else if 16384 < u then 3
    else if others.any fun j => decide (t < ringTag s j + ringSlots s j ∧ ringTag s j < u) then 4
    else if others.any fun j => ringGet s j SYNC_RING_RCFG0_HANDLE == h &&
        decide (lo < ringLine s j + ringSlots s j * slotLines s j ∧ ringLine s j < hi) then 5
    else 0
/-- Every tag of a ring EMPTY and both cursors at 0. -/
def State.ringFresh (s : State) (i : Nat) : State :=
  let s := s.each (List.range (ringSlots s i)) fun s k => s.setTag (ringTag s i + k) false
  s.wr (ringBase i + SYNC_RING_RCUR + 4 * (i % 128)) 0
/-- RCFG0 of a ring written with EN 1. -/
def execRingEnable (m : Master) (ring : Nat) (w : Word32) (s : State) : Res :=
  let i := ring % 256
  .next (s.gate m (ringBase i) (rcfgOff i) true fun s =>
    if ringOn s i then
      s.cond (rcfgFields (s.rd (ringBase i + rcfgOff i)) != rcfgFields w) fun s => s.ringLocked m i (rcfgOff i)
    else
      let s := s.wr (ringBase i + rcfgOff i) (BitVec.ofNat 32 (rcfgFields w))
      let why := ringReason s i
      if why = 0 then (s.ringFresh i).ringPut i SYNC_RING_RCFG0_EN 1
      else ((s.put (ringBase i) SYNC_RING_RING_ERR_REASON why).put (ringBase i) SYNC_RING_RING_ERR_RING i).refused m
        (ringBase i) (rcfgOff i))
/-- RCFG0 of a ring written with EN 0: its parked requests complete with DISABLED, its tags and cursors are discarded. -/
def execRingDisable (m : Master) (ring : Nat) (w : Word32) (s : State) : Res :=
  let i := ring % 256
  .next (s.gate m (ringBase i) (rcfgOff i) true fun s =>
    if !ringOn s i then s.wr (ringBase i + rcfgOff i) (BitVec.ofNat 32 (rcfgFields w))
    else
      let s := s.cond (rcfgFields (s.rd (ringBase i + rcfgOff i)) != rcfgFields w) fun s => s.ringLocked m i (rcfgOff i)
      let mine := s.sync.parks.filter fun k => k.ring == i
      let tags := List.range (ringSlots s i) |>.map fun k => ringTag s i + k
      let s := s.syn fun y => { y with
        parks := y.parks.filter (fun k => k.ring != i), changes := y.changes.filter (fun c => c.ring != i),
        filler := y.filler.filter fun e => !tags.contains e.1 }
      let s := ((s.ringFresh i).ringPut i SYNC_RING_RCFG0_EN 0).dropAppends i
      s.each mine fun s k => s.answerReq k.x k.tag stDISABLED)

/-! ### Slots (R325 to R330) -/

/-- The oldest fill of a request takes effect once its lines and every earlier write of its port have settled; with another
status than OK or POISON among its lines the tag stays (R325, R327). -/
def execSlotFill (x tag : Nat) (s : State) : Res :=
  match s.sync.changes.find? fun c => c.x == x && c.tag == tag && c.fill with
  | none => .next s
  | some c =>
    if c.go != [] || !writesSettled s x c.acc true then .next s
    else
      let s := s.syn fun y => { y with changes := y.changes.erase c }
      .next (s.cond (!c.bad) fun s => (s.landed (writeOf s x (c.acc + 1))).fillSlot c.ring c.slot)
/-- The oldest empty of a request takes effect once its lines and every earlier slot-semantics read of its port to the slot
have been performed (R326, R327). -/
def execSlotEmpty (x tag : Nat) (s : State) : Res :=
  match s.sync.changes.find? fun c => c.x == x && c.tag == tag && !c.fill with
  | none => .next s
  | some c =>
    let earlier := (portOf s x).txns.all fun t =>
      !(t.slotAt == some (c.ring * 16384 + c.slot) && t.req.op == 0 && decide (t.acc < c.acc)) || txnSettled s x t true
    if c.go != [] || !earlier then .next s
    else
      let s := s.syn fun y => { y with changes := y.changes.erase c }
      .next (s.cond (!c.bad) fun s => s.emptySlot c.ring c.slot)
/-- A parked request reaches its ring's timeout (R329). -/
def execSlotTimeout (x tag : Nat) (s : State) : Res :=
  match s.sync.parks.find? fun k => k.x == x && k.tag == tag with
  | none => .next s
  | some k => match k.deadline with
    | none => .next s
    | some t =>
      if s.now < t then .next s
      else .next (((s.unpark x tag).bumpSat pgSYNCTAG SYNC_TAG_TMO_CNT_COUNT).answerReq x tag stTIMEOUT)
/-- A request outside its home rim's park table probes again: for want of room (R330), or because the parked request it
waited behind has gone (R158). -/
def execParkRetryProbe (x tag : Nat) (s : State) : Res :=
  match s.sync.parks.find? fun k => k.x == x && k.tag == tag && !k.table with
  | none => .next s
  | some k =>
    match txnOf s x tag with
    | none => .next s
    | some t => if k.deadline.isNone && mustWait s x t then .next s else .next (s.probe k)

end Sys2Proof.Machine
end

