-- ==== Sys2Proof/Machine/Window.lean ====
section
/-! DEFINITION. Packets received on the link and the commands of the window unit (spec/13_amiys_link.md R389 to R401,
spec/14_remote_access.md R414 to R440). -/
namespace Sys2Proof.Machine

/-! ### A packet received on a port (R389, R390, R396, R398, R399) -/

/-- A packet's type is admitted in its class (R390). -/
def classOk (pk : Packet) : Bool :=
  match pk.ptype with
  | 1 => pk.cls == 0
  | 2 => pk.cls == 1
  | 3 => pk.cls == 0 || pk.cls == 1
  | 4 | 5 | 6 | 12 | 13 => pk.cls == 3
  | 8 | 9 | 10 => pk.cls == 2
  | _ => false
/-- A packet is for this device (R399). -/
def forMe (s : State) (pk : Packet) : Bool := pk.dst == devAddr s && s.flag pgLINK LINK_ENUM_STAT_ADDR_V
/-- A packet of the time exchange takes the stamp of its reception, t2 or t4 (R410). -/
def stampIn (s : State) (pk : Packet) : Packet := if pk.ptype = 12 ∨ pk.ptype = 13 then { pk with data := s.now } else pk
/-- The TID that an accepted packet's flits are charged to (R486): that of its window or channel, or, for an answer, that of the descriptor
whose packet it answers. Others belong to no descriptor and to no arriving write: they are charged to none (DESIGN CHOICE, log entry 28). -/
def rxTid (s : State) (pk : Packet) : Option Nat :=
  let sender := fun (tag : Nat) => (s.link.sent.find? fun e => e.etag == tag).bind (·.tid)
  match pk.ptype with
  | 1 => some (winGet s (pk.h2 % 256) WINDOW_TAB_WIN_CFG0_TID)
  | 2 => match tokenOf s pk with
    | some t => some t.tid
    | none => (cchOf s pk).map fun c => cchGet s c WINDOW_CCH_CCH_CFG_TID
  | 8 => sender (pk.h2 % 2 ^ 16)
  | 9 => sender pk.etag
  | _ => none
/-- A packet accepted in order: discarded, kept for this device, or sent on (R390, R396, R399, R412). -/
def State.acceptPk (s : State) (p : Nat) (pk : Packet) : State :=
  if !classOk pk then (s.bumpSat pgLINK (LINK_P_DISC_COUNT.at 256 p)).freeRx p pk
  else if forMe s pk then s.lport p fun l => { l with rxq := l.rxq ++ [stampIn s pk] }
  else if s.get pgLINK LINK_LK_CFG_HOP_MAX < pk.hops + 1 then (s.freeRx p pk).refusePk p 0x42 p pk
  else match routeOf s pk.dst with
    | .inl c => (s.freeRx p pk).refusePk p c p pk
    | .inr q => s.enqueue q p pk none
/-- The flits of a packet accepted: counted, held in their lane of the receive buffer, and charged (R413, R485), but those in transit
(R396). -/
def State.flitsIn (s : State) (p : Nat) (pk : Packet) : State :=
  let n := pk.flits
  let s := (s.bump pgLINK (LINK_P_RXFL_COUNT.at 256 p) n).lport p fun l => { l with held := totalUp l.held pk.lane n }
  if !forMe s pk then s
  else match rxTid s pk with
    | some t => s.energy 9 n t
    | none => s.energyNone 9 n
/-- The next packet expected has been received (R397, R398). Where it is the first after a lane's loss, on the lanes kept, delivery has
resumed (R405, R413). -/
def State.inOrder (s : State) (p : Nat) (pk : Packet) : State :=
  let back := (lkPort s p).dropMask.isNone
  let s := match (lkPort s p).lossAt with
    | some t => s.cond back fun s => s.put pgLINK (LINK_P_LDROP_DUR.at 256 p) (min (s.now - t) 0xFFFF)
    | none => s
  let s := s.lport p fun l => { l with
    expL := (l.expL + 1) % 4096, waitL := false, retries := 0, lossAt := if back then none else l.lossAt }
  ((s.sendLink p).flitsIn p pk).acceptPk p pk
/-- A packet of one of some types taken (R398): from the flits that a port has received, or, for port 4, the next one that this device sent
to itself. One that fails its check, or is not the next expected, is discarded and asked for again. Where a check fails the receiver drops
one flit and looks on from the next; while it waits for a resent packet it counts no failed check (DESIGN CHOICE, log entry 65). -/
def pktIn (p : Nat) (types : List Nat) (s : State) : Res :=
  if p = 4 then
    match s.link.here with
    | [] => .next s
    | q :: rest =>
      if !types.contains q.ptype then .next s
      else .next ((s.lnk fun l => { l with here := rest }).lport 4 fun l => { l with rxq := l.rxq ++ [stampIn s q] }).winRun
  else if 4 < p ∨ !(lpState s p = 4 ∨ lpState s p = 5) ∨ !(lkPort s p).lock then .next s
  else match nextPacket (lkPort s p).rxFlits with
    | none => .next s
    | some (pk, rest) =>
      if !packetSound pk then
        let s := s.cond (!(lkPort s p).waitL) fun s => s.bumpSat pgLINK (LINK_P_CRCE_COUNT.at 256 p)
        .next ((s.lport p fun l => { l with rxFlits := l.rxFlits.drop 1 }).askRetry p)
      else if !types.contains pk.ptype then .next s
      else
        let s := s.lport p fun l => { l with rxFlits := rest }
        if pk.lseq ≠ (lkPort s p).expL then .next (s.askRetry p) else .next (s.inOrder p pk).winRun

/-- BWR, or a packet whose PTYPE is reserved (R390). -/
def execPktBwr (p : Nat) (s : State) : Res := pktIn p [1, 0, 7, 11, 14, 15] s
/-- TWR. -/
def execPktTwr (p : Nat) (s : State) : Res := pktIn p [2] s
/-- NTFY. -/
def execPktNtfy (p : Nat) (s : State) : Res := pktIn p [3] s
/-- BARR. -/
def execPktBarr (p : Nat) (s : State) : Res := pktIn p [4] s
/-- BREL. -/
def execPktBrel (p : Nat) (s : State) : Res := pktIn p [5] s
/-- BABT. -/
def execPktBabt (p : Nat) (s : State) : Res := pktIn p [6] s
/-- LACK. -/
def execPktLack (p : Nat) (s : State) : Res := pktIn p [8] s
/-- NAK. -/
def execPktNak (p : Nat) (s : State) : Res := pktIn p [9] s
/-- CGRANT. -/
def execPktCgrant (p : Nat) (s : State) : Res := pktIn p [10] s
/-- TSREQ. -/
def execPktTsreq (p : Nat) (s : State) : Res := pktIn p [12] s
/-- TSRSP. -/
def execPktTsrsp (p : Nat) (s : State) : Res := pktIn p [13] s
/-- A gathered LACK is due for a source: eight entries, or 256 ns after the first (R434). -/
def execLackSend (src : Nat) (s : State) : Res :=
  let s := s.winRun
  let (tags, t) := Sp.get ([], 0) s.link.lacks src
  if tags ≠ [] ∧ (8 ≤ tags.length ∨ t + 26 ≤ s.now) then .next (s.sendLack src) else .next s

/-! ### Windows (R414 to R422) -/

/-- A write of WCTL. -/
def execWindowUnitEnable (m : Master) (w : Word32) (s : State) : Res :=
  .next (s.gate m pgWINCTL WINDOW_CTL_WCTL true fun s =>
    ((s.put pgWINCTL WINDOW_CTL_WCTL_EN (WINDOW_CTL_WCTL_EN.of w)).put pgWINCTL WINDOW_CTL_WCTL_REG (WINDOW_CTL_WCTL_REG.of w)).winRun)
/-- A refused write of the window unit, in WERR with a reason (R417, R424, R578). -/
def State.winErr (s : State) (m : Master) (base reg kind num reason : Nat) : State :=
  let s := (s.put pgWINCTL WINDOW_CTL_WERR_REASON reason).put pgWINCTL WINDOW_CTL_WERR_KIND kind
  (s.put pgWINCTL WINDOW_CTL_WERR_NUM num).refused m base reg
/-- A write ignored because its window is not CLOSED (R417, R421). -/
def State.winBusy (s : State) (m : Master) (base reg : Nat) : State :=
  (s.put pgWINCTL WINDOW_CTL_WERR_BUSY 1).refused m base reg
/-- The registry record of a window that has become OPEN or CLOSED (R422). -/
def State.registry (s : State) (w : Nat) (on : Bool) : State :=
  if !s.flag pgWINCTL WINDOW_CTL_WCTL_REG then s
  else
    let lo := WINDOW_CTL_SMASK + 8 * winGet s w WINDOW_TAB_WIN_CFG1_MSEL
    let a := devAddr s
    let data := b2n on * 2 ^ 31 + w * 2 ^ 16 + a + 2 ^ 32 * winGet s w WINDOW_TAB_WIN_CFG2_LINES_M1 +
      2 ^ 64 * (s.rd (pgWINCTL + lo)).toNat + 2 ^ 96 * (s.rd (pgWINCTL + lo + 4)).toNat + 2 ^ 128 * (s.now % 2 ^ 32)
    let s := s.wnu fun u => { u with records := u.records ++ [(32 * (256 * a + w), data)] }
    s.sendRecords s.win.records.length
/-- The first check of R417 that fails: 1 handle, 2 WIN_OK, 3 rights, 4 extent; 0 for none. -/
def openReason (s : State) (w : Nat) : Nat :=
  match liveDesc s (winGet s w WINDOW_TAB_WIN_CFG0_HANDLE) (winGet s w WINDOW_TAB_WIN_CFG0_GEN) with
  | none => 1
  | some d =>
    if !d.winOk then 2
    else if !remoteWrite d then 3
    else if 8192 * (d.extentM1 + 1) <
        512 * winGet s w WINDOW_TAB_WIN_CFG1_BASE + 512 * (winGet s w WINDOW_TAB_WIN_CFG2_LINES_M1 + 1) then 4
    else 0
/-- OPEN written to a window (R417, R421). -/
def State.openWin (s : State) (m : Master) (w : Nat) : State :=
  let reg := WINDOW_TAB_WIN_CFG0 + 16 * (w % 128)
  if winState s w ≠ 0 then s.winBusy m (winBase w) reg
  else match openReason s w with
    | 0 =>
      let s := s.winPut w WINDOW_TAB_WIN_CFG0_STATE 1
      let s := s.wnu fun u => { u with landed := u.landed.filter fun e => e.1 / 64 != w }
      s.registry w true
    | r => s.winErr m (winBase w) reg 0 w r
/-- A write of WINw_CFG0 (R417, R421, R439): its fields are the owner's, OPEN and CLOSE are not (R11, log entry 14). The fields of a master
that does not own the group are ignored as NOT_OWNER, whatever the window's state (R509). -/
def winCfg0Write (m : Master) (w : Nat) (v : Word32) (s : State) : State :=
  let reg := WINDOW_TAB_WIN_CFG0 + 16 * (w % 128)
  s.gate m (winBase w) reg false fun s =>
    if winState s w = 0 then
      let s := s.setFields m (winBase w) reg v
      s.cond (WINDOW_TAB_WIN_CFG0_OPEN.of v == 1) fun s => s.openWin m w
    else
      let mine := (pageAt (winBase w + reg)).any fun p => ownsPage s m p
      let s := s.cond (!mine) fun s => (s.flagPage m (winBase w) (winBase w + reg) 1).fabStat m (winBase w + reg)
      if WINDOW_TAB_WIN_CFG0_CLOSE.of v = 1 ∧ winState s w = 1 then s.winPut w WINDOW_TAB_WIN_CFG0_STATE 2
      else s.cond (mine || WINDOW_TAB_WIN_CFG0_OPEN.of v == 1) fun s => s.winBusy m (winBase w) reg
/-- OPEN, with the window's configuration as it stands. -/
def execWindowOpen (m : Master) (w : Nat) (s : State) : Res :=
  let w := w % 256
  .next (s.gate m (winBase w) (WINDOW_TAB_WIN_CFG0 + 16 * (w % 128)) false fun s => s.openWin m w)
/-- CLOSE (R421). -/
def execWindowClose (m : Master) (w : Nat) (s : State) : Res :=
  let w := w % 256
  .next (s.gate m (winBase w) (WINDOW_TAB_WIN_CFG0 + 16 * (w % 128)) false fun s =>
    s.cond (winState s w == 1) fun s => s.winPut w WINDOW_TAB_WIN_CFG0_STATE 2)
/-- The writes of a CLOSING window have settled (R421). -/
def execWindowCloseDone (w : Nat) (s : State) : Res :=
  let w := w % 256
  let s := s.winRun
  if winState s w ≠ 2 ∨ s.win.arr.any (fun a => a.token == none && a.pk.h2 % 256 == w) then .next s
  else
    let s := s.winPut w WINDOW_TAB_WIN_CFG0_STATE 0
    let s := s.cond (winGet s w WINDOW_TAB_WIN_CFG0_DIRQ == 1) fun s => s.irq pgWINCTL 0
    let k := winGet s w WINDOW_TAB_WIN_CFG2_COUNTER
    let s := s.cond (winGet s w WINDOW_TAB_WIN_CFG0_DCNT == 1 && decide (k ≤ 47)) fun s =>
      s.ctrOp (48 * winGet s w WINDOW_TAB_WIN_CFG2_CORE + k) 0 1
    .next (s.registry w false)

/-! ### Credit channels (R423 to R430) -/

/-- The first condition of R424 that fails: 5 ring, 6 duplicate channel, 7 LIMIT sum; 0 for none. -/
def cchReason (s : State) (c : Nat) : Nat :=
  let g := fun (k : Nat) (f : Fld) => cchGet s k f
  let ring := g c WINDOW_CCH_CCH_CFG_RING
  let d := liveDesc s (ringGet s ring SYNC_RING_RCFG0_HANDLE) (ringGet s ring SYNC_RING_RCFG0_GEN)
  let others := (List.range 64).filter fun k => k != c && cchState s k == 1
  let limit := g c WINDOW_CCH_CCH_LIM_LIMIT
  let sum := (others.filter fun k => g k WINDOW_CCH_CCH_CFG_RING == ring).foldl (fun n k => n + g k WINDOW_CCH_CCH_LIM_LIMIT) limit
  if !ringOn s ring ∨ !d.any (fun d => d.winOk && remoteWrite d) then 5
  else if others.any fun k => g k WINDOW_CCH_CCH_CFG_SDEV == g c WINDOW_CCH_CCH_CFG_SDEV &&
      g k WINDOW_CCH_CCH_CFG_SACCT == g c WINDOW_CCH_CCH_CFG_SACCT then 6
  else if limit = 0 ∨ ringSlots s ring < sum then 7
  else 0
/-- A write of CCHc_CFG (R424, R429). -/
def cchCfgWrite (m : Master) (c : Nat) (w : Word32) (s : State) : State :=
  let reg := WINDOW_CCH_CCH_CFG + 16 * c
  s.gate m pgWINCCH reg true fun s =>
    let s := [WINDOW_CCH_CCH_CFG_SDEV, WINDOW_CCH_CCH_CFG_SACCT, WINDOW_CCH_CCH_CFG_RING, WINDOW_CCH_CCH_CFG_TID].foldl
      (fun s g => s.cchPut c g (g.of w)) s
    if WINDOW_CCH_CCH_CFG_EN.of w = 0 then
      let s := s.cchPut c WINDOW_CCH_CCH_CFG_EN 0
      s.cond (cchState s c == 1) fun s => s.cchPut c WINDOW_CCH_CCH_STAT_STATE 2
    else if cchState s c ≠ 0 then s
    else match cchReason s c with
      | 0 =>
        let limit := cchGet s c WINDOW_CCH_CCH_LIM_LIMIT
        let s := (s.cchPut c WINDOW_CCH_CCH_CFG_EN 1).cchPut c WINDOW_CCH_CCH_STAT_STATE 1
        let s := (s.cchPut c WINDOW_CCH_CCH_STAT_OUTST limit).cchPut c WINDOW_CCH_CCH_STAT_FULL 0
        s.grant c limit
      | r => s.winErr m pgWINCCH reg 1 c r
/-- CCHc_CFG written with EN 1. -/
def execCchEnable (m : Master) (c : Nat) (w : Word32) (s : State) : Res :=
  .next (cchCfgWrite m (c % 64) (WINDOW_CCH_CCH_CFG_EN.into w 1) s)
/-- CCHc_CFG written with EN 0. -/
def execCchDisable (m : Master) (c : Nat) (w : Word32) (s : State) : Res :=
  .next (cchCfgWrite m (c % 64) (WINDOW_CCH_CCH_CFG_EN.into w 0) s)
/-- A draining channel has no token in progress (R429); its slots return no more credits (R425). -/
def execCchDrainDone (c : Nat) (s : State) : Res :=
  if 64 ≤ c ∨ cchState s c ≠ 2 ∨ s.win.tokens.any (fun t => t.cch == c) then .next s
  else
    let s := (s.cchPut c WINDOW_CCH_CCH_STAT_STATE 0).cchPut c WINDOW_CCH_CCH_STAT_OUTST 0
    let s := s.cchPut c WINDOW_CCH_CCH_STAT_FULL 0
    .next (s.syn fun y => { y with filler := y.filler.filter (fun e => e.2 != c), owed := Sp.del y.owed c })
/-- Pending returns of a channel reach GRAN, or are 1 µs old (R425). -/
def execCreditReturn (c : Nat) (s : State) : Res :=
  let (n, t) := Sp.get (0, 0) s.sync.owed c
  if 64 ≤ c ∨ n = 0 ∨ cchState s c ≠ 1 ∨ !(max 1 (cchGet s c WINDOW_CCH_CCH_LIM_GRAN) ≤ n ∨ t + usTicks ≤ s.now) then .next s
  else
    let s := s.syn fun y => { y with owed := Sp.del y.owed c }
    .next ((s.cchPut c WINDOW_CCH_CCH_STAT_OUTST (cchGet s c WINDOW_CCH_CCH_STAT_OUTST + n)).grant c n)

/-- The marker ticket of a refused token sent into its slot: the first segment of the slot's last line (R297, R427). A ring whose handle
is no longer its own takes none. -/
def State.tokenMark (s : State) (t : Token) : State :=
  let s := s.setToken t.id fun t => { t with marked := true }
  let line := ringLine s t.ring + t.slot * slotLines s t.ring + (slotLines s t.ring - 1)
  let pk := { newPacket s 2 1 (devAddr s) with src := t.src, data := t.src * 2 ^ 18 + 2 ^ 96 }
  s.cond (tokenRefusal s t == stOK) fun s =>
    s.arrivalIn 4 pk t.tid (ringGet s t.ring SYNC_RING_RCFG0_HANDLE) (512 * line) 32 (some t.id)
/-- A token whose writes have settled ends (R426, R427): its slot becomes FULL, and it is acknowledged or refused. -/
def execTokenLanded (id : Nat) (s : State) : Res :=
  let s := s.winRun
  match s.win.tokens.find? fun t => t.id == id with
  | none => .next s
  | some t =>
    let open_ := fun (k : Nat) => s.win.arr.any fun a => a.id == k
    if !(t.last || t.bad.isSome) ∨ s.win.arr.any (fun a => a.token == some id) ∨ t.before.any open_ then .next s
    else if t.bad.isSome && !t.marked then .next (s.tokenMark t).winRun
    else
      let s := s.wnu fun u => { u with
        tokens := u.tokens.filter fun k => k.id != id,
        skip := if t.last then u.skip else (t.src, t.acct) :: u.skip }
      let s := s.cond (!tagFull s t.ring t.slot) fun s =>
        (s.syn fun y => { y with filler := Sp.set y.filler (ringTag s t.ring + t.slot) t.cch }).bump pgWINCCH
          (WINDOW_CCH_CCH_STAT_FULL.at 16 t.cch)
      let s := s.fillSlot t.ring t.slot
      match t.bad with
      | none => .next ((s.bump pgWINCCH (WINDOW_CCH_CCH_CNT_TOKENS.at 16 t.cch)).lack t.src t.etag (some t.tid))
      | some c => .next (s.nakTo c { newPacket s 2 1 (devAddr s) with src := t.src, etag := t.etag } (some t.tid))

/-! ### Fences (R431 to R433) -/

/-- An entry of the fence table takes effect once its fence is met and the earlier writes of its source have landed. -/
def execNotifyEffect (k : Nat) (s : State) : Res :=
  let s := s.winRun
  match s.win.fences[k]? with
  | none => .next s
  | some h =>
    let pk := h.pk
    if !fenceMet s pk ∨ h.before.any (fun id => s.win.arr.any fun a => a.id == id) then .next s
    else
      let s := s.wnu fun u => { u with fences := u.fences.eraseIdx k }
      if pk.ptype = 4 then .next (s.countBarr pk).winRun
      else
        let s := if bit pk.h2 31 then s.cond (ringOn s (bits pk.h3 31 24)) fun s => s.fillSlot (bits pk.h3 31 24) (bits pk.h3 23 10)
          else s.ctrOp (48 * bits pk.h2 30 28 + bits pk.h2 27 22) 0 1
        .next (s.lack pk.src pk.etag).winRun
/-- An entry has been held for FENCE_TMO. -/
def execFenceTimeout (k : Nat) (s : State) : Res :=
  let tmo := s.get pgWINCTL WINDOW_CTL_FENCE_TMO_TICKS
  match s.win.fences[k]? with
  | none => .next s
  | some h =>
    if tmo = 0 ∨ s.now < h.at_ + tmo then .next s
    else
      let s := s.wnu fun u => { u with fences := u.fences.eraseIdx k }
      let s := s.bumpSat pgWINCTL WINDOW_CTL_FENCE_TO_CNT_COUNT
      let s := s.irq pgWINCTL 1
      if h.pk.ptype = 4 then .next (s.bumpSat pgWINCTL WINDOW_CTL_BAR_DISC_COUNT).winRun
      else .next (s.nakTo 0x19 h.pk).winRun
/-- A write of SENT_SEL (R432): DEV and WIN are the owner's, CLR and CLRALL are not (R11, log entry 14). CLR clears the count that SENT_SEL
then selects. -/
def sentSelWrite (m : Master) (w : Word32) (s : State) : State :=
  s.gate m pgWINCTL WINDOW_CTL_SENT_SEL false fun s =>
    let s := s.setFields m pgWINCTL WINDOW_CTL_SENT_SEL w
    let at_ := 256 * s.get pgWINCTL WINDOW_CTL_SENT_SEL_DEV + s.get pgWINCTL WINDOW_CTL_SENT_SEL_WIN
    let s := s.cond (WINDOW_CTL_SENT_SEL_CLR.of w == 1) fun s => s.wnu fun u => { u with sentN := Sp.del u.sentN at_ }
    s.cond (WINDOW_CTL_SENT_SEL_CLRALL.of w == 1) fun s => s.wnu fun u => { u with sentN := [] }
/-- SENT_SEL.CLR, with its destination and window. -/
def execSentClr (m : Master) (dev w : Nat) (s : State) : Res :=
  .next (sentSelWrite m (BitVec.ofNat 32 (2 ^ 31 + dev % 64 * 2 ^ 8 + w % 256)) s)
/-- SENT_SEL.CLRALL, with DEV and WIN as they stand. -/
def execSentClrall (m : Master) (s : State) : Res :=
  .next (sentSelWrite m (WINDOW_CTL_SENT_SEL_CLRALL.into (s.rd (pgWINCTL + WINDOW_CTL_SENT_SEL)) 1) s)

end Sys2Proof.Machine
end

