-- ==== Sys2Proof/Machine/Fabric.lean ====
section
/-! DEFINITION. The control fabric (spec/17_control_and_firmware.md R499 to R511, spec/20_register_pages.md R572 to R588): writes of
registers, semaphores, forced interrupts, and the pieces that a page group grants. -/
namespace Sys2Proof.Machine

/-! ### Semaphores (R508, R586 to R588) -/

/-- A write of SEM_OP: 1 CLAIM, 2 RELEASE, 3 FORCE. Its result is kept for the writing master. -/
def semOp (m : Master) (w : Word32) (s : State) : State :=
  s.gate m pgSEMA SEMA_SEM_OP false fun s =>
    let op := SEMA_SEM_OP_OP.of w
    let g := SEMA_SEM_OP_SEM.of w
    let own := semOwner s g
    let me := m.holder
    let tell := fun (result : Nat) (s : State) =>
      { s with captured := Sp.set s.captured (capKey m (pgSEMA + SEMA_SEM_STAT)) (semOwner s g * 2 ^ 30 + result * 2 ^ 28 + g) }
    if op = 0 then s
    else if g = 0 ∨ 28 < g ∨ (op = 3 ∧ m = .dbg) then tell 3 s
    else match op with
      | 1 => if own = 0 then tell 0 (s.setOwner g me) else tell (b2n (own != me)) s
      | 2 =>
        if own = me then tell 0 (s.setOwner g 0)
        else if own = 0 then tell 2 s
        else tell 2 ((s.refused m pgSEMA SEMA_SEM_OP).fabStat m (pgSEMA + SEMA_SEM_OP))
      | _ =>
        if own = 0 ∨ own = me then tell 2 s
        else
          let s := s.setOwner g me
          let s := s.wr (pgSEMA + SEMA_FORCE_LAST) (BitVec.ofNat 32 (me * 2 ^ 30 + own * 2 ^ 28 + g))
          tell 0 (s.irq pgSEMA 0)
/-- SEM_OP with an OP and a semaphore. -/
def semWord (op g : Nat) : Word32 := BitVec.ofNat 32 (op * 2 ^ 30 + g % 32)
/-- CLAIM. -/
def execSemaClaim (m : Master) (g : Nat) (s : State) : Res := .next (semOp m (semWord 1 g) s)
/-- RELEASE. -/
def execSemaRelease (m : Master) (g : Nat) (s : State) : Res := .next (semOp m (semWord 2 g) s)
/-- FORCE. -/
def execSemaForce (m : Master) (g : Nat) (s : State) : Res := .next (semOp m (semWord 3 g) s)

/-! ### Forced interrupts (R581) -/

/-- A write of a page's IRQ_FORCE: the bits below IRQ_N are set as their events would set them. -/
def irqForce (m : Master) (p : PageAt) (w : Word32) (s : State) : State :=
  s.gate m p.base HDR_IRQ_FORCE false fun s =>
    s.each ((List.range (irqN p.page)).filter fun k => w.toNat.testBit k) fun s k => s.irq p.base k
/-- A write of the IRQ_FORCE of the page that holds an offset. -/
def execIrqForce (m : Master) (off set : Nat) (s : State) : Res :=
  match pageAt off with
  | none => .next s
  | some p => .next (irqForce m p (BitVec.ofNat 32 set) s)

/-! ### Writes of one register (R500) -/

/-- The state after a command that always answers one. -/
def after (r : Res) (s : State) : State := match r with
  | .next t => t
  | _ => s
/-- A write with no effect of its own: the fields of the register, by their access codes. -/
def plainWrite (m : Master) (p : PageAt) (o : Nat) (w : Word32) (s : State) : State :=
  s.gate m p.base o false fun s => s.setFields m p.base o w
/-- A write that the page ignores, after its path and its owner have been checked. -/
def idleWrite (m : Master) (p : PageAt) (o : Nat) (s : State) : State := s.gate m p.base o false id
/-- A write of PCTL, the fields that do not apply to the port's kind left out (R164, R169, R170). -/
def pctlWrite (m : Master) (x : Nat) (w : Word32) (s : State) : State :=
  let b := portBase x
  s.gate m b PORT_PCTL true fun s =>
    let s := s.cond (portKind x == 0) fun s => s.put b PORT_PCTL_MC_HOLD (PORT_PCTL_MC_HOLD.of w)
    let s := s.cond (portKind x == 2) fun s => s.put b PORT_PCTL_STREAM_TID (PORT_PCTL_STREAM_TID.of w)
    let s := after (execUrgCapWrite m x (PORT_PCTL_URG_CAP.of w) s) s
    let depth := PORT_PCTL_LOOP.of w
    let s := s.cond (s.get b PORT_PCTL_LOOP != depth) fun s => after (execLoopWrite m x depth s) s
    if PORT_PCTL_EN.of w = 1 then after (execPortEnable m x s) s else after (execPortDisable m x s) s
/-- A write of CTL.EN, by the enable it aliases (R579). -/
def ctlWrite (m : Master) (p : PageAt) (w : Word32) (s : State) : State :=
  let en := HDR_CTL_EN.of w
  match p.page with
  | .port =>
    s.gate m p.base HDR_CTL true fun s => if en = 1 then after (execPortEnable m p.inst s) s else after (execPortDisable m p.inst s) s
  | .windowCtl =>
    s.gate m p.base HDR_CTL true fun s =>
      after (execWindowUnitEnable m (WINDOW_CTL_WCTL_EN.into (s.rd (pgWINCTL + WINDOW_CTL_WCTL)) en) s) s
  | .recorder =>
    s.gate m p.base HDR_CTL true fun s => rcCtlWrite m (RECORDER_RC_CTL_EN.into (s.rd (pgREC + RECORDER_RC_CTL)) en) s
  | _ => idleWrite m p HDR_CTL s
/-- A write of PLANE_CTL: refused whole where it would leave no plane in service (R191). -/
def planeCtlWrite (m : Master) (w : Word32) (s : State) : State :=
  s.gate m pgHUB HUB_PLANE_CTL true fun s =>
    let a := HUB_PLANE_CTL_OFF_A.of w == 1
    let b := HUB_PLANE_CTL_OFF_B.of w == 1
    if a && b then s.planeRefused m
    else if a then after (execPlaneTakeOut m 0 s) s
    else if b then after (execPlaneTakeOut m 1 s) s
    else if planeState s 1 = 2 then after (execPlaneReturn m 1 s) s
    else after (execPlaneReturn m 0 s) s
/-- A write of REGUL_CTL. -/
def regulCtlWrite (m : Master) (p : PageAt) (w : Word32) (s : State) : State :=
  s.gate m p.base REGUL_REGUL_CTL false fun s =>
    let s := s.setFields m p.base REGUL_REGUL_CTL w
    let s := s.cond (REGUL_REGUL_CTL_HAPPLY.of w == 1) fun s => after (execHapply m s) s
    s.cond (REGUL_REGUL_CTL_LOCK.of w == 1) fun s => after (execLock m s) s
/-- A write of the REGUL page. -/
def regulWrite (m : Master) (p : PageAt) (o : Nat) (w : Word32) (s : State) : State :=
  if o = REGUL_REGUL_CTL then regulCtlWrite m p w s
  else if o = REGUL_SNAP_CTL then s.gate m p.base o false fun s =>
    let s := s.setFields m p.base o w
    s.cond (REGUL_SNAP_CTL_GO.of w == 1) fun s =>
      after (execSnapshotGo m (REGUL_SNAP_CTL_TID.of w) (REGUL_SNAP_CTL_CLRH.of w == 1) s) s
  else if o = REGUL_PREEMPT then after (execPreemptWrite m (REGUL_PREEMPT_TID.of w) s) s
  else if (idxIn o REGUL_HEDGE 4 8).isSome ∧ regLocked s then s.gate m p.base o true fun s => s.lockViol m o
  else match idxIn o REGUL_TCFG 4 256 with
    | some k =>
      let t := k / 4
      match k % 4 with
      | 0 => after (execTidConfigWrite m t false w s) s
      | 1 => after (execTidConfigWrite m t true w s) s
      | 2 => after (execStepWrite m t (w.toNat % 2 ^ 16) s) s
      | _ => plainWrite m p o w s
    | none => plainWrite m p o w s
/-- A write of a SYNC_RING page. -/
def ringWrite (m : Master) (p : PageAt) (o : Nat) (w : Word32) (s : State) : State :=
  match idxIn o SYNC_RING_RCFG0 4 512 with
  | none => plainWrite m p o w s
  | some k =>
    let i := 128 * p.inst + k / 4
    if k % 4 = 0 then
      if SYNC_RING_RCFG0_EN.of w = 1 then after (execRingEnable m i w s) s else after (execRingDisable m i w s) s
    else if ringOn s i then s.gate m p.base o true fun s => s.ringLocked m i o
    else plainWrite m p o w s
/-- A write of the SYNC_TAG page; TAG_CMD with OP 0 does nothing, and with the reserved OP 3 it is ignored. -/
def tagWrite (m : Master) (p : PageAt) (o : Nat) (w : Word32) (s : State) : State :=
  if o = SYNC_TAG_TAG_CMD then
    let op := SYNC_TAG_TAG_CMD_OP.of w
    if op = 1 ∨ op = 2 then after (tagCmd s m op (SYNC_TAG_TAG_CMD_RING.of w) (SYNC_TAG_TAG_CMD_SLOT.of w)) s
    else s.gate m p.base o true fun s =>
      let s := s.setFields m p.base o w
      s.cond (op == 3) fun s => s.syncRefused m p.base o
  else plainWrite m p o w s
/-- A write of the SYNC_CTR page. -/
def ctrWrite (m : Master) (p : PageAt) (o : Nat) (w : Word32) (s : State) : State :=
  if o = SYNC_CTR_CTR_CMD then
    let op := SYNC_CTR_CTR_CMD_OP.of w
    if op = 3 then s.gate m p.base o true fun s => (s.setFields m p.base o w).syncRefused m p.base o
    else after (ctrCmd s m op (SYNC_CTR_CTR_CMD_CTR.of w) (SYNC_CTR_CTR_CMD_VALUE.of w)) s
  else plainWrite m p o w s
/-- A write of the SYNC_BAR page. -/
def barWrite (m : Master) (p : PageAt) (o : Nat) (w : Word32) (s : State) : State :=
  if o = SYNC_BAR_BARRIVE then after (execBarrive m (SYNC_BAR_BARRIVE_BAR.of w) (SYNC_BAR_BARRIVE_COUNT.of w) s) s
  else match idxIn o SYNC_BAR_BCFG 16 64 with
    | some n => s.gate m p.base o false fun s =>
      let s := if SYNC_BAR_BCFG_EN.of w = 1 then after (execBarrierEnable m n w s) s else after (execBarrierDisable m n w s) s
      s.cond (SYNC_BAR_BCFG_RESET.of w == 1) fun s => after (execBarrierReset m n s) s
    | none => plainWrite m p o w s
/-- A write of the MOVER page. -/
def moverWrite (m : Master) (p : PageAt) (o : Nat) (w : Word32) (s : State) : State :=
  if routerAbsent s o then idleWrite m p o s
  else match idxIn o MOVER_ENG_CTL 32 4 with
    | some e => if bit w.toNat 0 then after (execEngineSflush m e s) s else plainWrite m p o w s
    | none => match idxIn o MOVER_CH_POST3 64 16 with
      | some c => after (execChannelPostWrite m c w s) s
      | none => match idxIn o MOVER_CH_CRIDX 64 16 with
        | some c => after (execCridxConsWrite m c (w.toNat % 2 ^ 16) s) s
        | none => match idxIn o MOVER_CA_CFG 8 64 with
          | some a => s.gate m p.base o false fun s =>
            let s := s.setFields m p.base o w
            s.cond (bit w.toNat 30) fun s => after (execCreditClear m a s) s
          | none => plainWrite m p o w s
/-- A write of the RIMALU page. -/
def rimaluWrite (m : Master) (p : PageAt) (o : Nat) (w : Word32) (s : State) : State :=
  if o = RIMALU_RA_CTL then
    s.gate m p.base o true fun s =>
      s.each (List.range 4) fun s q =>
        let on := bit w.toNat q
        if on == bit (s.get pgRIMALU RIMALU_RA_CTL_QEN) q then s
        else if on then after (execQueueEnable m q s) s
        else after (execQueueDisable m q s) s
  else if o = RIMALU_RA_PUSH then after (execRaPush m (w.toNat % 4) s) s
  else if (o = RIMALU_KCTL ∨ RIMALU_KSTAGE ≤ o) ∧ !s.cfg.optA then idleWrite m p o s
  else if o = RIMALU_KCTL ∧ bit w.toNat 0 then after (execKernelLoad m (RIMALU_KCTL_SLOT.of w) (RIMALU_KCTL_LEN_M1.of w) s) s
  else plainWrite m p o w s
/-- A write of the CACHE page. -/
def cacheWrite (m : Master) (p : PageAt) (o : Nat) (w : Word32) (s : State) : State :=
  if o = CACHE_COP_CMD then copWrite m w s
  else if o = CACHE_SEC_CMD then secWrite m w s
  else if o = CACHE_XBASE_LO then after (execXbaseWrite m false w s) s
  else if o = CACHE_XBASE_HI then after (execXbaseWrite m true w s) s
  else plainWrite m p o w s
/-- A write of the LINK page; the block of an absent port takes none (R413). -/
def linkWrite (m : Master) (p : PageAt) (o : Nat) (w : Word32) (s : State) : State :=
  if LINK_P_CTL + 256 * s.cfg.links ≤ o ∧ o < LINK_P_CTL + 0x400 then idleWrite m p o s
  else if o = LINK_ENUM_CTL then s.gate m p.base o false fun s =>
    let s := s.setFields m p.base o w
    s.cond (LINK_ENUM_CTL_GO.of w == 1) fun s => after (execEnumGo m s) s
  else if o = LINK_TS_CTL then s.gate m p.base o false fun s =>
    let s := s.setFields m p.base o w
    s.cond (LINK_TS_CTL_GO.of w == 1) fun s => after (execTsGo m s) s
  else match idxIn o LINK_FWD 4 64 with
    | some a => after (execFwdWrite m a w s) s
    | none => match idxIn o LINK_P_CTL 256 4 with
      | some q => linkCtlWrite m q w s
      | none => plainWrite m p o w s
/-- A write of a WINDOW page. -/
def windowWrite (m : Master) (p : PageAt) (o : Nat) (w : Word32) (s : State) : State :=
  match p.page with
  | .windowCtl =>
    if o = WINDOW_CTL_WCTL then after (execWindowUnitEnable m w s) s
    else if o = WINDOW_CTL_SENT_SEL then sentSelWrite m w s
    else plainWrite m p o w s
  | .windowTab => match idxIn o WINDOW_TAB_WIN_CFG0 4 512 with
    | none => plainWrite m p o w s
    | some k =>
      let n := 128 * p.inst + k / 4
      if k % 4 = 0 then winCfg0Write m n w s
      else if k % 4 ≤ 2 ∧ winState s n ≠ 0 then s.gate m p.base o true fun s => s.winBusy m p.base o
      else plainWrite m p o w s
  | _ => match idxIn o WINDOW_CCH_CCH_CFG 16 64 with
    | some c => cchCfgWrite m c w s
    | none => plainWrite m p o w s
/-- A write of the INTEG page. Writing 1 to PSTEPt.VALID clears the entry (R451). -/
def integWrite (m : Master) (p : PageAt) (o : Nat) (w : Word32) (s : State) : State :=
  if o = INTEG_RIM_CMD then rimCmdWrite m w s
  else if o = INTEG_SCRUB_CMD then scrubCmdWrite m w s
  else if o = INTEG_FLIP_CTL then flipCtlWrite m w s
  else if (idxIn o INTEG_PSTEP 4 64).isSome then
    s.gate m p.base o false fun s => s.cond (w.toNat.testBit 31) fun s => s.wr (p.base + o) 0
  else plainWrite m p o w s
/-- A write of the POWER page. -/
def powerWrite (m : Master) (p : PageAt) (o : Nat) (w : Word32) (s : State) : State :=
  if o = POWER_DOM_CMD then domCmdWrite m w s
  else if o = POWER_EMG_CTL then after (execEmgForceWrite m (bit w.toNat 0) s) s
  else if o = POWER_EM_ALIVE then s.gate m p.base o false fun s => s.em0Write w.toNat
  else plainWrite m p o w s
/-- A write of the RECORDER page, whose registers take none while its domain is off (R531). EM0 writes the LS registers; a
write of them by any other master does nothing and is not flagged (R511). -/
def recorderWrite (m : Master) (p : PageAt) (o : Nat) (w : Word32) (s : State) : State :=
  if !domOn s 194 then idleWrite m p o s
  else if o = RECORDER_RC_CTL then rcCtlWrite m w s
  else if o = RECORDER_RC_SWTRIG then after (execRcSwtrig m (RECORDER_RC_SWTRIG_TAG.of w) (RECORDER_RC_SWTRIG_TRIG.of w) s) s
  else if [RECORDER_LS_STAT, RECORDER_LS_ISEQ, RECORDER_LS_TIME_LO, RECORDER_LS_TIME_HI, RECORDER_LS_FLUSHES].contains o then
    if m ≠ .em0 then s else s.gate m p.base o false fun s => match rowAt p.page o with
      | some r => s.each r.fields fun s (f : FieldRow) => let fl : Fld := ⟨o, f.hi, f.lo⟩
        s.put p.base fl (fl.of w)
      | none => s
  else match idxIn o RECORDER_TRG_CFG 16 32 with
    | some n => trgCfgWrite m n w s
    | none => plainWrite m p o w s
/-- A write of the MAILBOX_CTL page. -/
def mailboxWrite (m : Master) (p : PageAt) (o : Nat) (w : Word32) (s : State) : State :=
  if o = MAILBOX_CTL_FW_CMD then fwCmdWrite m w s
  else if o = MAILBOX_CTL_EM_CTL then emCtlWrite m w s
  else match idxIn o MAILBOX_CTL_WDT_KICK 4 2 with
    | some n => after (execWdtKick m n s) s
    | none => plainWrite m p o w s
/-- A write of a ring page: its indices, and the response entries, which the Emlar cores write (R510, R522). -/
def mboxWrite (m : Master) (p : PageAt) (o : Nat) (w : Word32) (s : State) : State :=
  if o = MBOX_REQ_PROD then after (execReqProdWrite m p.inst (w.toNat % 256) s) s
  else if o = MBOX_RSP_CONS then after (execRspConsWrite m p.inst (w.toNat % 256) s) s
  else if 0xC00 ≤ o ∧ o < 0x1000 ∧ m.isEm then s.gate m p.base o false fun s => s.wr (p.base + o) w
  else plainWrite m p o w s
/-- A write of a register of the common header other than CTL and IRQ_FORCE. IRQ_STAT bit 0 of a ring page stays set while RSP_PROD
differs from RSP_CONS (R530). -/
def headerWrite (m : Master) (p : PageAt) (o : Nat) (w : Word32) (s : State) : State :=
  let s := plainWrite m p o w s
  s.cond (p.page == .mbox && o == HDR_IRQ_STAT && rspProd s p.inst != rspCons s p.inst) fun s => s.put p.base ⟨HDR_IRQ_STAT, 0, 0⟩ 1
/-- A write of a word to the register at an offset, by a master: the register's own command where it has one. -/
def writeReg (m : Master) (off : Nat) (w : Word32) (s : State) : State :=
  match pageAt off with
  | none => s
  | some p =>
    let o := off - p.base
    if o = HDR_CTL then ctlWrite m p w s
    else if o = HDR_IRQ_FORCE then irqForce m p w s
    else if o < 0x40 then headerWrite m p o w s
    else match p.page with
      | .sema => if o = SEMA_SEM_OP then semOp m w s else plainWrite m p o w s
      | .port =>
        if o = PORT_PCTL then pctlWrite m p.inst w s
        else if o = PORT_LENS_CTL ∧ bit w.toNat 1 then after (execSflush m p.inst s) s
        else if o = PORT_LENS_SEED ∧ 2 ≤ portKind p.inst then idleWrite m p o s
        else plainWrite m p o w s
      | .hub => if o = HUB_PLANE_CTL then planeCtlWrite m w s else plainWrite m p o w s
      | .regul => regulWrite m p o w s
      | .handleCmd => if o = HANDLE_CMD_HCMD then hcmdWrite m w s else plainWrite m p o w s
      | .syncCtr => ctrWrite m p o w s
      | .syncRing => ringWrite m p o w s
      | .syncTag => tagWrite m p o w s
      | .syncBar => barWrite m p o w s
      | .mover => moverWrite m p o w s
      | .rimalu => rimaluWrite m p o w s
      | .cache => cacheWrite m p o w s
      | .link => linkWrite m p o w s
      | .windowCtl | .windowTab | .windowCch => windowWrite m p o w s
      | .integ => integWrite m p o w s
      | .power => powerWrite m p o w s
      | .mailboxCtl => mailboxWrite m p o w s
      | .mbox => mboxWrite m p o w s
      | .recorder => recorderWrite m p o w s
      | .test =>
        if o = TEST_LC_CMD then lcCmdWrite m w s
        else if o = TEST_FT_CMD then ftCmdWrite m w s
        else if o = TEST_SVC_CTL then svcCtlWrite m w s
        else plainWrite m p o w s
      | .rim => if o = RIM_PWR_CTL then pwrCtlWrite m (p.inst / 17) (p.inst % 17) w s else plainWrite m p o w s
      | _ => plainWrite m p o w s
/-- A write of one register. -/
def execRegisterWrite (m : Master) (off : Nat) (w : Word32) (s : State) : Res := .next (writeReg m (off / 4 * 4) w s)

/-! ### Pieces (R504, R505) -/

/-- The group at which a piece is arbitrated: its page group; the two mailbox pages, and the reserved offsets, stand alone. -/
def pieceGroup (f : FabPiece) : Nat :=
  match pageAt f.off with
  | none => 34
  | some p => (pageGroup p).getD (32 + p.inst)
/-- PRIO of a master at a group; the mailbox pages belong to no group and have no priority field. -/
def fabPrio (s : State) (m : Master) (g : Nat) : Nat :=
  let off := pgMBCTL + MAILBOX_CTL_FAB_PRIO_LO + 8 * m.code + (if g < 16 then 0 else 4)
  if 29 ≤ g then 0 else bits (s.rd off).toNat (2 * (g % 16) + 1) (2 * (g % 16))
/-- Grants that a waiting master has let pass at a group. -/
def passedOf (s : State) (g : Nat) (m : Master) : Nat := Sp.get 0 s.fab.passed (8 * g + m.code)
/-- The piece that a group grants, of those that wait, oldest first (R505). -/
def fabChoose (s : State) (g : Nat) (cands : List FabPiece) : Option FabPiece :=
  match cands.find? fun f => decide (8 ≤ passedOf s g f.m) with
  | some f => some f
  | none =>
    let last := Sp.get 4 s.fab.last g
    let rank := fun (f : FabPiece) => 8 * fabPrio s f.m g + (4 - (f.m.code + 4 - last) % 5)
    cands.foldl (fun best f => match best with
      | none => some f
      | some b => if rank b < rank f then some f else some b) none
/-- The grant of a piece: the others that waited have been passed. -/
def State.fabGrant (s : State) (g : Nat) (cands : List FabPiece) (c : FabPiece) : State :=
  let passed := cands.foldl (fun (p : Sp Nat) f => if f.m = c.m then p else Sp.set p (8 * g + f.m.code) (Sp.get 0 p (8 * g + f.m.code) + 1)) s.fab.passed
  { s with fab := { s.fab with passed := Sp.set passed (8 * g + c.m.code) 0, last := Sp.set s.fab.last g c.m.code } }
/-- A beat is mapped: it lies in a page, the one its burst starts in (R500). -/
def beatPage (f : FabPiece) (off : Nat) : Option PageAt :=
  match pageAt off, pageAt f.page with
  | some p, some q => if p.base = q.base then some p else none
  | _, _ => none
/-- A beat of a read: its word and RESP, which stands at 2 for the bus error of an Emlar core (R503). -/
def readBeat (f : FabPiece) (off : Nat) (s : State) : (Nat × Nat) × State :=
  match beatPage f off with
  | none => ((0, 1), s)
  | some p =>
    if !pagePresent s.cfg p then ((0, 0), s)
    else if !readPath s f.m p then ((0, if f.m.isEm then 2 else 0), s.fabStat f.m off)
    else ((peek s (some f.m) off, 0), s.readDone f.m off)
/-- A beat of a write, and its RESP. -/
def writeBeat (f : FabPiece) (off : Nat) (w : Nat) (s : State) : Nat × State :=
  match beatPage f off with
  | none => (1, s)
  | some p => (if f.m.isEm && pagePresent s.cfg p && !writePath s f.m p then 2 else 0, writeReg f.m off (BitVec.ofNat 32 w) s)
/-- The transaction that a master has outstanding. -/
def burstOf (s : State) (m : Master) : Option FabBurst := (s.fab.bursts.find? fun e => e.1 == m.code).map (·.2)
/-- Beats of a piece. -/
def pieceBeats (f : FabPiece) : Nat := if f.wr then min f.data.length 4 else min f.n 4
/-- A piece may wait at its group: it begins a transaction of a master that has none outstanding, or goes on with the one that it has
(R501). All but the last piece of a burst have four beats (R504). -/
def pieceNext (s : State) (f : FabPiece) : Bool :=
  pieceBeats f != 0 && (f.left == 0 || pieceBeats f == 4) && match burstOf s f.m with
    | none => decide (pieceBeats f + f.left ≤ 16)
    | some b => f.wr == b.wr && f.page == b.page && f.off / 4 * 4 == b.off && pieceBeats f + f.left == b.left
/-- The CR beats of a piece: one beat answers a write, with its last piece, and carries NOMAP where any of its beats did (R499, R500). -/
def State.fabAnswer (s : State) (f : FabPiece) (resp : Nat) (l : List (Nat × Nat)) : State :=
  let b : FabBurst := ⟨f.wr, f.page, f.off / 4 * 4 + 4 * pieceBeats f, f.left, resp⟩
  let s := { s with fab := { s.fab with
    bursts := if f.left = 0 then Sp.del s.fab.bursts f.m.code else Sp.set s.fab.bursts f.m.code b } }
  s.answerMaster f.m (if f.wr && f.left != 0 then [] else l)
/-- A piece is performed: a beat of data for each read, one beat for a write. Its transaction stands aside while its beats are made. -/
def State.fabPerform (s : State) (f : FabPiece) : State :=
  let off := f.off / 4 * 4
  let before := (burstOf s f.m).map (·.resp) |>.getD 0
  let s := { s with fab := { s.fab with bursts := Sp.del s.fab.bursts f.m.code } }
  if f.wr then
    let (_, resp, s) := (f.data.take 4).foldl (fun (acc : Nat × Nat × State) w =>
      let (k, worst, s) := acc
      let (r, s) := writeBeat f (off + 4 * k) w s
      (k + 1, max worst r, s)) (0, 0, s)
    s.fabAnswer f (max resp before) [(0, max resp before)]
  else
    let (l, s) := (List.range (min f.n 4)).foldl (fun (acc : List (Nat × Nat) × State) k =>
      let (r, s) := readBeat f (off + 4 * k) acc.2
      (acc.1 ++ [r], s)) ([], s)
    s.fabAnswer f 0 l
/-- The piece is not held: by the boot self-test, or as that of a core that does not run. -/
def pieceOpen (s : State) (f : FabPiece) : Bool :=
  match pageAt f.off with
  | some p => fabricReady s f.m p
  | none => if f.m.isCp then s.fuseLoaded else masterRuns s f.m
/-- A page group grants one of the pieces that wait at it, at most one of each master, oldest first, and performs it. -/
def execFabricPiece (cands : List FabPiece) (s : State) : Res :=
  match cands.filter fun f => pieceOpen s f && pieceNext s f with
  | [] => .next s
  | f :: l =>
    let g := pieceGroup f
    let seen := fun (acc : List FabPiece) (c : FabPiece) =>
      if pieceGroup c = g ∧ !acc.any (fun d => d.m == c.m) then acc ++ [c] else acc
    let wait := l.foldl seen [f]
    match fabChoose s g wait with
    | none => .next s
    | some c => .next ((s.fabGrant g wait c).fabPerform c)

end Sys2Proof.Machine
end

