-- ==== Sys2Proof/Machine/Life.lean ====
section
/-! DEFINITION. The commands of the lifetime records (spec/18_observability.md R542 to R551): sampling, flushes, the base image,
and the messages of EM0 about them. -/
namespace Sys2Proof.Machine

/-! ### The image (R543) -/

/-- Bytes of an image. -/
def imgSize : Nat := 8192
/-- An image carries a header: MAGIC, VER major 1 and a correct CRC (R548, R549). -/
def imgValid (m : List Host.Cell) : Bool :=
  imgGet m 0 4 == 0x4546494C && imgGet m 6 2 == 1 && imgGet m 0x3C 4 == crc32c (imgGet m 0x40 (imgSize - 0x40)) (imgSize - 0x40)
/-- The base where there is no valid image: all zero except MAGIC and VER (R548). -/
def imgEmpty : List Host.Cell := imgPut (imgPut [] 0 4 0x4546494C) 4 4 0x10000
/-- The image as a flush writes it: ISEQ one higher, the time, the device identifier and the CRC. -/
def flushImage (s : State) : List Host.Cell :=
  let m := s.life.img
  let m := imgPut m 8 4 (imgGet m 8 4 + 1)
  let m := imgPut (imgPut m 0x10 8 s.now) 0x18 8 deviceUid
  imgPut m 0x3C 4 (crc32c (imgGet m 0x40 (imgSize - 0x40)) (imgSize - 0x40))
/-- A lifetime counter of an image, and one added to, at its width of R544. -/
def lifeCtr (m : List Host.Cell) (n : Nat) : Nat := imgGet m (0x40 + 8 * n) 8
def lifeWide (n : Nat) : Bool := n == 0 || n == 2 || n == 10
def lifeAdd (m : List Host.Cell) (n d : Nat) : List Host.Cell :=
  let v := lifeCtr m n + d
  imgPut m (0x40 + 8 * n) 8 (if lifeWide n then v else sat32 v)
/-- A 32-bit saturating count of an image added to. -/
def cellAdd (m : List Host.Cell) (off d : Nat) : List Host.Cell :=
  if d = 0 then m else imgPut m off 4 (sat32 (imgGet m off 4 + d))

/-! ### LS registers, which EM0 writes (R511, R553), and what it knows itself -/

/-- LS_STAT.STATE as EM0 has it. -/
def lsState (s : State) : Nat := s.life.state
/-- Slot k of the life store is good. -/
def slotGood (s : State) (k : Nat) : Bool := !bit s.life.bad k
/-- The first good slot in rotation from slot k. -/
def nextGood (s : State) (k : Nat) : Option Nat := ((List.range 8).map fun j => (k + j) % 8).find? (slotGood s)
/-- A flush has been written, or an image prepared: the image it left, and the LS registers. -/
def State.flushed (s : State) (m : List Host.Cell) : State :=
  let s := s.lif fun l => { l with flushed := m, ready := true, img := imgPut l.img 8 4 (imgGet m 8 4), lastAt := imgGet m 0x10 8 }
  s.lsWrite fun s =>
    let s := s.wr (pgREC + RECORDER_LS_ISEQ) (BitVec.ofNat 32 (imgGet m 8 4))
    let s := s.put64 (pgREC + RECORDER_LS_TIME_LO) (pgREC + RECORDER_LS_TIME_HI) (imgGet m 0x10 8)
    s.bump pgREC RECORDER_LS_FLUSHES_COUNT
/-- The slot of the next flush, and LS_STAT.STATE, as EM0 sets them. -/
def State.lsNext (s : State) (k : Nat) : State :=
  (s.lif fun l => { l with slot := k }).lsWrite fun s => s.put pgREC RECORDER_LS_STAT_NEXT k
def State.lsSet (s : State) (st : Nat) : State :=
  (s.lif fun l => { l with state := st }).lsWrite fun s => s.put pgREC RECORDER_LS_STAT_STATE st
/-- A flush starts (R547), or the image is prepared for the host (R549). -/
def State.flush (s : State) (reply : Option (Nat × Nat)) : State :=
  if !s.cfg.optN then (s.flushed (flushImage s)).irq pgREC 5
  else match nextGood s s.life.slot with
    | some k => s.lif fun l => { l with next := flushImage s, writing := some k, store := Sp.del l.store k, reply := reply }
    | none => s

/-! ### Sampling (R542, R544, R545) -/

/-- The counters that EM0 samples: a key, the lifetime counter it adds to, its modulus or 0 where it saturates, and its value. -/
def lifeSources (s : State) : List (Nat × Nat × Nat × Nat) :=
  [ (0, 2, 0, s.energyAcc.ledger / (1000000 * njUnits)),
    (1, 5, 0, s.get pgINTEG INTEG_CE_TOTAL_COUNT), (2, 6, 0, s.get pgINTEG INTEG_UE_TOTAL_COUNT),
    (3, 7, 0, s.get pgINTEG INTEG_FAULT_CNT_COUNT), (4, 8, 0, s.get pgHUB HUB_PLANE_STAT_FO_CNT),
    (5, 11, 2 ^ 16, s.get pgMBCTL (emFld 0 MAILBOX_CTL_EM_STAT_RESTARTS)),
    (6, 11, 2 ^ 16, s.get pgMBCTL (emFld 1 MAILBOX_CTL_EM_STAT_RESTARTS)),
    (7, 12, 2 ^ 8, s.get pgMBCTL MAILBOX_CTL_FW_STAT_COMMITS),
    (8, 3, 0, s.energyAcc.emgs), (9, 13, 0, b2n ((s.rd (pgPOWER + HDR_IRQ_STAT)).toNat.testBit 3)) ] ++
  (List.range 4).map (fun p => (16 + p, 9, 0, s.get pgLINK (LINK_P_LDROP_COUNT.at 256 p))) ++
  (List.range 4).map (fun p => (20 + p, 10, 2 ^ 48,
    s.get pgLINK (LINK_P_FECC_LO_COUNT.at 256 p) + 2 ^ 32 * s.get pgLINK (LINK_P_FECC_HI_COUNT_HI.at 256 p)))
/-- What has been added since a sample. -/
def sampleDelta (modulus now prev : Nat) : Nat := if modulus = 0 then now - prev else (now + modulus - prev) % modulus
/-- Bins of R545: temperature in 0.125 °C, pace in ps, supply in mV, and energy in nJ. -/
def tempBin (v : Int) : Nat := if v < -240 then 0 else min 15 ((v + 320) / 80).toNat
def paceBin (v : Nat) : Nat := if v < 1000 then 0 else min 15 ((v - 950) / 50)
def supplyBin (v : Nat) : Nat := if v < 780 then 0 else min 15 ((v - 760) / 20)
def energyBin (nj : Nat) : Nat := min 15 (nj / 400000)
/-- One sample in a bin of the histogram at an offset. -/
def histAdd (m : List Host.Cell) (off b : Nat) : List Host.Cell := cellAdd m (off + 4 * b) 1
/-- The counters and the rim counts of an image with the deltas of their sources. -/
def addDeltas (s : State) (m : List Host.Cell) : List Host.Cell :=
  let m := (lifeSources s).foldl (fun m (k, n, modulus, v) => lifeAdd m n (sampleDelta modulus v (Sp.get 0 s.life.prev k))) m
  (List.range (17 * s.cfg.dies)).foldl (fun m q =>
    let b := rimBase (q / 17) (q % 17)
    let m := cellAdd m (0x440 + 4 * q) (s.get b RIM_CE_CNT_COUNT - Sp.get 0 s.life.mirror (2 * q))
    cellAdd m (0x660 + 4 * q) (s.get b RIM_UE_CNT_COUNT - Sp.get 0 s.life.mirror (2 * q + 1))) m
/-- The histograms of an image with one sample each. -/
def addHists (s : State) (m : List Host.Cell) : List Host.Cell :=
  let m := (List.range 32).foldl (fun m q =>
    if s.flag pgPOWER (POWER_SEC_VALID.at 4 q) then histAdd m (0x880 + 64 * q) (tempBin (signed 12 (s.get pgPOWER (POWER_SEC_TEMP.at 4 q))))
    else m) m
  let m := histAdd m 0x1080 (paceBin (s.get pgPOWER POWER_PACE_DEV_DEV))
  let m := histAdd m 0x10C0 (supplyBin (s.get pgPOWER POWER_SUPPLY_ARRAY_MV))
  let m := histAdd m 0x1100 (supplyBin (s.get pgPOWER POWER_SUPPLY_PERI_MV))
  let nj := ([POWER_LAST_RT_NJ, POWER_LAST_LC_NJ, POWER_LAST_BE_NJ, POWER_LAST_MT_NJ, POWER_LAST_STAT_NJ].map fun f => s.get pgPOWER f).foldl (· + ·) 0
  histAdd m 0x1140 (energyBin nj)
/-- The higher of two temperatures, or paces, put at counter n. -/
def lifeMax (m : List Host.Cell) (n : Nat) (v : Int) : List Host.Cell :=
  if signed 32 (lifeCtr m n) < v then imgPut m (0x40 + 8 * n) 8 (unsigned 32 v) else m
/-- The samples that the next deltas start from. -/
def State.takeSamples (s : State) : State :=
  s.lif fun l => { l with
    prev := (lifeSources s).foldl (fun p (k, _, _, v) => Sp.set p k v) [],
    mirror := (List.range (17 * s.cfg.dies)).foldl (fun p q =>
      let b := rimBase (q / 17) (q % 17)
      Sp.set (Sp.set p (2 * q) (s.get b RIM_CE_CNT_COUNT)) (2 * q + 1) (s.get b RIM_UE_CNT_COUNT)) [] }
/-- Once a second EM0 adds its samples to the image. -/
def execLifeSample (s : State) : Res :=
  if !s.clockOn ∨ !emRuns s 0 ∨ !s.life.loaded ∨ s.now / 100000000 ≤ s.life.sampled / 100000000 then .next s
  else
    let m := lifeAdd (addDeltas s s.life.img) 0 1
    let m := lifeAdd m 4 (b2n (emergency s))
    let m := lifeMax m 14 (signed 12 (s.get pgPOWER POWER_TH_STAT_TEMP))
    let m := lifeMax m 15 (s.get pgPOWER POWER_PACE_DEV_DEV)
    let m := addHists s m
    .next (s.takeSamples.lif fun l => { l with img := m, sampled := s.now })

/-! ### Flushes and the base (R547 to R549) -/

/-- EM0 flushes every 60 s of TIMEREF. -/
def execLifePeriodicFlush (s : State) : Res :=
  if !s.clockOn ∨ !emRuns s 0 ∨ !s.life.loaded ∨ s.now / 6000000000 ≤ s.life.flushAt / 6000000000 ∨ s.life.writing.isSome then .next s
  else .next ((s.lif fun l => { l with flushAt := s.now }).flush none)
/-- The slot write of a flush has ended; `ok` says that it verifies. -/
def execLifeFlushWritten (ok : Bool) (s : State) : Res :=
  match s.life.writing with
  | none => .next s
  | some k =>
    let m := s.life.next
    let done := fun (st : Nat) (s : State) =>
      let s := match s.life.reply with
        | some (r, seq) => s.answer r 0x0201 seq st [] 0
        | none => s
      s.lif fun l => { l with writing := none, next := [], reply := none }
    if ok then
      let s := (s.lif fun l => { l with store := Sp.set l.store k m }).flushed m
      let s := s.lsNext ((nextGood s (k + 1)).getD 0)
      .next (done 0 (s.irq pgREC 3))
    else
      let s := s.lif fun l => { l with bad := l.bad ||| 2 ^ k }
      let s := (s.lsWrite fun s => s.put pgREC ⟨RECORDER_LS_STAT, 8 + k, 8 + k⟩ 1).irq pgREC 4
      match nextGood s (k + 1) with
      | some j =>
        let s := s.lsNext j
        .next (s.lif fun l => { l with writing := some j, store := Sp.del l.store j })
      | none => .next (done 7 (s.lsSet 3))
/-- The newest of two images by ISEQ, modulo 2^32. -/
def newer (a b : List Host.Cell) : Bool := decide (0 < (imgGet a 8 4 + 2 ^ 32 - imgGet b 8 4) % 2 ^ 32 ∧
  (imgGet a 8 4 + 2 ^ 32 - imgGet b 8 4) % 2 ^ 32 < 2 ^ 31)
/-- The life-store slot that start-up takes as the base (R548). -/
def bestSlot (s : State) : Option (Nat × List Host.Cell) :=
  s.life.store.foldl (fun best (k, m) =>
    if !imgValid m then best
    else match best with
      | none => some (k, m)
      | some (j, b) => if newer m b then some (k, m) else some (j, b)) none
/-- The retired-rim list of EM0's image merged into another image (R549): the entries that find no room are counted. -/
def State.mergeRetired (s : State) (m : List Host.Cell) : List Host.Cell × State :=
  let (m, full) := (retiredList s.life.img).foldl (fun (acc : List Host.Cell × Nat) e =>
    if !bit e 0 then acc
    else match addRetired acc.1 e with
      | some m => (m, acc.2)
      | none => (acc.1, acc.2 + 1)) (m, 0)
  (m, s.lsWrite fun s => s.bumpSat pgREC RECORDER_LS_STAT_LISTFULL full)
/-- LS_STAT.STATE with a base adopted: FAILED while every slot is bad (R547). -/
def baseState (s : State) (st : Nat) : Nat := if s.cfg.optN && (nextGood s 0).isNone then 3 else st
/-- A base is adopted by EM0, with the retirements that its image has gathered. -/
def State.takeBase (s : State) (base m : List Host.Cell) (st : Nat) : State :=
  let (m, s) := s.mergeRetired m
  let foreign := imgGet base 8 4 + imgGet base 0x18 8 != 0 && imgGet base 0x18 8 != deviceUid
  let s := (s.lsWrite fun s => s.put pgREC RECORDER_LS_STAT_FOREIGN (b2n foreign)).lsSet st
  s.lif fun l => { l with img := m, baseSeq := imgGet base 8 4 }
/-- At start-up, EM0 loads its base: the newest valid slot, or nothing; with no life store it waits for the host. Its own restarts since its
last sample are still to be counted (R544; DEDUCED, log entry 70). -/
def execLifeBaseLoad (s : State) : Res :=
  if !emRuns s 0 ∨ s.life.loaded then .next s
  else
    let own := Sp.get 0 s.life.prev 5
    let s := s.takeSamples.lif fun l => { l with loaded := true, sampled := s.now, flushAt := s.now, prev := Sp.set l.prev 5 own }
    if !s.cfg.optN then .next (s.takeBase imgEmpty imgEmpty 4)
    else match bestSlot s with
      | some (k, m) =>
        .next ((s.takeBase m (lifeAdd m 1 1) (baseState s 2)).lsNext ((nextGood s (k + 1)).getD 0))
      | none => .next (s.takeBase imgEmpty (lifeAdd imgEmpty 1 1) (baseState s 1))

/-! ### Messages (R549, R550) -/

/-- LIFE_INFO. -/
def execLifeInfo (r : Nat) (s : State) : Res :=
  message 0x0200 0 r (fun _ _ s =>
    let good := if s.cfg.optN then 255 - s.life.bad else 0
    (some (0, [b2n s.cfg.optN + 2 * lsState s + 16 * good, s.life.baseSeq, s.life.lastAt % 2 ^ 32, s.life.lastAt / 2 ^ 32], 16), s)) s
/-- LIFE_FLUSH. While a flush is being written, or before it has taken its base (R548), EM0 takes the message later. -/
def execLifeFlush (r : Nat) (s : State) : Res :=
  if s.life.writing.isSome ∨ !s.life.loaded then .next s
  else
    let seq := headSeq ((s.mboxAuto r 256)) r
    message 0x0201 0 r (fun _ _ s =>
      if s.cfg.optN ∧ (nextGood s 0).isNone then (some (7, [], 0), s)
      else if s.cfg.optN then (none, s.flush (some (r, seq)))
      else (some (0, [], 0), s.flush none)) s
/-- LIFE_READ. Before any image has been flushed or prepared its bytes are free values. -/
def execLifeRead (r : Nat) (s : State) : Res :=
  message 0x0202 4 r (fun _ w s =>
    let off := w.getD 0 0
    if off % 4 ≠ 0 ∨ imgSize ≤ off then (some (3, [], 0), s)
    else
      let n := min 48 (imgSize - off)
      let word := fun (k : Nat) => imgGet s.life.flushed (off + 4 * k) 4
      if s.life.ready then (some (0, (List.range (n / 4)).map word, n), s)
      else
        let (v, s) := s.draw
        let (u, s) := s.draw
        let x := v + 2 ^ 256 * u
        (some (0, (List.range (n / 4)).map (fun k => bits x (32 * k + 31) (32 * k)), n), s)) s
/-- LIFE_LOAD. -/
def execLifeLoad (r : Nat) (s : State) : Res :=
  message 0x0203 0 r (fun len w s =>
    let off := w.getD 0 0
    if s.cfg.optN then (some (1, [], 0), s)
    else if !ringOwns s r 19 then (some (6, [], 0), s)
    else if len < 4 then (some (2, [], 0), s)
    else if off % 4 ≠ 0 ∨ imgSize < off + (len - 4) then (some (3, [], 0), s)
    else
      let x := (List.range 11).foldl (fun a k => a + w.getD (k + 1) 0 * 2 ^ (32 * k)) 0
      (some (0, [], 0), s.lif fun l => { l with buf := imgPut l.buf off (len - 4) x })) s
/-- The base of the host with what has been gathered since start-up added to it (R549). -/
def mergeImage (m add : List Host.Cell) : List Host.Cell :=
  let m := (List.range 14).foldl (fun m n => lifeAdd m n (lifeCtr add n)) m
  let m := lifeMax (lifeMax m 14 (signed 32 (lifeCtr add 14))) 15 (signed 32 (lifeCtr add 15))
  (List.range ((0x1180 - 0x440) / 4)).foldl (fun m k => cellAdd m (0x440 + 4 * k) (imgGet add (0x440 + 4 * k) 4)) m
/-- LIFE_COMMIT. -/
def execLifeCommit (r : Nat) (s : State) : Res :=
  message 0x0204 0 r (fun _ _ s =>
    if s.cfg.optN then (some (1, [], 0), s)
    else if !ringOwns s r 19 then (some (6, [], 0), s)
    else if s.life.committed then (some (4, [], 0), s)
    else if !s.life.loaded ∨ !imgValid s.life.buf then (some (7, [], 0), s)
    else
      let b := s.life.buf
      let s := s.takeBase b (lifeAdd (mergeImage b s.life.img) 1 1) 2
      (some (0, [], 0), s.lif fun l => { l with committed := true })) s

end Sys2Proof.Machine
end

