-- ==== Sys2Proof/Machine/Dispatch.lean ====
section
/-! DEFINITION. One arm per command, each one direct call of its meaning. -/
namespace Sys2Proof.Machine

def exec (i : Instr) (s : State) : Host.Outcome State Fault Refusal :=
  match i with
  | .readRequest x r => Sys2Proof.Machine.execReadRequest x r s
  | .writeRequest x r => Sys2Proof.Machine.execWriteRequest x r s
  | .fillRequest x r => Sys2Proof.Machine.execFillRequest x r s
  | .accRequest x r => Sys2Proof.Machine.execAccRequest x r s
  | .saccRequest x r => Sys2Proof.Machine.execSaccRequest x r s
  | .atomicAdd x r => Sys2Proof.Machine.execAtomicAdd x r s
  | .atomicSmin x r => Sys2Proof.Machine.execAtomicSmin x r s
  | .atomicSmax x r => Sys2Proof.Machine.execAtomicSmax x r s
  | .atomicUmin x r => Sys2Proof.Machine.execAtomicUmin x r s
  | .atomicUmax x r => Sys2Proof.Machine.execAtomicUmax x r s
  | .atomicSwap x r => Sys2Proof.Machine.execAtomicSwap x r s
  | .atomicCas x r => Sys2Proof.Machine.execAtomicCas x r s
  | .atomicAnd x r => Sys2Proof.Machine.execAtomicAnd x r s
  | .atomicOr x r => Sys2Proof.Machine.execAtomicOr x r s
  | .atomicXor x r => Sys2Proof.Machine.execAtomicXor x r s
  | .requestReachesHub x => Sys2Proof.Machine.execRequestReachesHub x s
  | .splitRelease x => Sys2Proof.Machine.execSplitRelease x s
  | .upwardArbitration layer sector => Sys2Proof.Machine.execUpwardArbitration layer sector s
  | .rimArbitration layer rim => Sys2Proof.Machine.execRimArbitration layer rim s
  | .downwardArbitration layer sector => Sys2Proof.Machine.execDownwardArbitration layer sector s
  | .planeMerge seq => Sys2Proof.Machine.execPlaneMerge seq s
  | .response x => Sys2Proof.Machine.execResponse x s
  | .mcHoldExpiry x => Sys2Proof.Machine.execMcHoldExpiry x s
  | .lensConvert x => Sys2Proof.Machine.execLensConvert x s
  | .sflush m x => Sys2Proof.Machine.execSflush m x s
  | .engineSflush m e => Sys2Proof.Machine.execEngineSflush m e s
  | .urgChange x urg => Sys2Proof.Machine.execUrgChange x urg s
  | .urgCapWrite m x cap => Sys2Proof.Machine.execUrgCapWrite m x cap s
  | .portEnable m x => Sys2Proof.Machine.execPortEnable m x s
  | .portDisable m x => Sys2Proof.Machine.execPortDisable m x s
  | .portDrainDone x => Sys2Proof.Machine.execPortDrainDone x s
  | .loopWrite m x depth => Sys2Proof.Machine.execLoopWrite m x depth s
  | .planeFault p cause mismatches => Sys2Proof.Machine.execPlaneFault p cause mismatches s
  | .failoverResume => Sys2Proof.Machine.execFailoverResume s
  | .planeTakeOut m p => Sys2Proof.Machine.execPlaneTakeOut m p s
  | .planeReturn m p => Sys2Proof.Machine.execPlaneReturn m p s
  | .planeChangeDone => Sys2Proof.Machine.execPlaneChangeDone s
  | .regulationWindowBoundary t => Sys2Proof.Machine.execRegulationWindowBoundary t s
  | .brakeStateArrival t arb => Sys2Proof.Machine.execBrakeStateArrival t arb s
  | .tidConfigWrite m t bud v => Sys2Proof.Machine.execTidConfigWrite m t bud v s
  | .tableSigUpdate => Sys2Proof.Machine.execTableSigUpdate s
  | .stepWrite m t step => Sys2Proof.Machine.execStepWrite m t step s
  | .preemptWrite m t => Sys2Proof.Machine.execPreemptWrite m t s
  | .snapshotGo m t clrh => Sys2Proof.Machine.execSnapshotGo m t clrh s
  | .snapshotDone => Sys2Proof.Machine.execSnapshotDone s
  | .happly m => Sys2Proof.Machine.execHapply m s
  | .lock m => Sys2Proof.Machine.execLock m s
  | .handleInstall m h ovchk iclear => Sys2Proof.Machine.execHandleInstall m h ovchk iclear s
  | .installClassMapDone => Sys2Proof.Machine.execInstallClassMapDone s
  | .installDone => Sys2Proof.Machine.execInstallDone s
  | .handleModify m h => Sys2Proof.Machine.execHandleModify m h s
  | .modifyDone => Sys2Proof.Machine.execModifyDone s
  | .handleRetire m h => Sys2Proof.Machine.execHandleRetire m h s
  | .handleFreed => Sys2Proof.Machine.execHandleFreed s
  | .handleClear m h => Sys2Proof.Machine.execHandleClear m h s
  | .clearDone => Sys2Proof.Machine.execClearDone s
  | .handleRead m h => Sys2Proof.Machine.execHandleRead m h s
  | .raPush m q => Sys2Proof.Machine.execRaPush m q s
  | .oprecNop q => Sys2Proof.Machine.execOprecNop q s
  | .oprecZero q => Sys2Proof.Machine.execOprecZero q s
  | .oprecFill q => Sys2Proof.Machine.execOprecFill q s
  | .oprecCopy q => Sys2Proof.Machine.execOprecCopy q s
  | .oprecKernel q => Sys2Proof.Machine.execOprecKernel q s
  | .recordChunkAdmission q => Sys2Proof.Machine.execRecordChunkAdmission q s
  | .reduceSegmentWrite q => Sys2Proof.Machine.execReduceSegmentWrite q s
  | .recordComplete q => Sys2Proof.Machine.execRecordComplete q s
  | .queueEnable m q => Sys2Proof.Machine.execQueueEnable m q s
  | .queueDisable m q => Sys2Proof.Machine.execQueueDisable m q s
  | .queueDrainDone q => Sys2Proof.Machine.execQueueDrainDone q s
  | .qcplRead m q => Sys2Proof.Machine.execQcplRead m q s
  | .kernelLoad m slot len => Sys2Proof.Machine.execKernelLoad m slot len s
  | .kiNop layer rim => Sys2Proof.Machine.execKiNop layer rim s
  | .kiLda layer rim => Sys2Proof.Machine.execKiLda layer rim s
  | .kiLdb layer rim => Sys2Proof.Machine.execKiLdb layer rim s
  | .kiSt layer rim => Sys2Proof.Machine.execKiSt layer rim s
  | .kiAdd layer rim => Sys2Proof.Machine.execKiAdd layer rim s
  | .kiMul layer rim => Sys2Proof.Machine.execKiMul layer rim s
  | .kiFma layer rim => Sys2Proof.Machine.execKiFma layer rim s
  | .kiMin layer rim => Sys2Proof.Machine.execKiMin layer rim s
  | .kiMax layer rim => Sys2Proof.Machine.execKiMax layer rim s
  | .kiClip layer rim => Sys2Proof.Machine.execKiClip layer rim s
  | .kiCvt layer rim => Sys2Proof.Machine.execKiCvt layer rim s
  | .kiRsum layer rim => Sys2Proof.Machine.execKiRsum layer rim s
  | .kiRmax layer rim => Sys2Proof.Machine.execKiRmax layer rim s
  | .subNop c w0 w1 w2 w3 => Sys2Proof.Machine.execSubNop c w0 w1 w2 w3 s
  | .subPost c w0 w1 w2 w3 => Sys2Proof.Machine.execSubPost c w0 w1 w2 w3 s
  | .subCplack c w0 w1 w2 w3 => Sys2Proof.Machine.execSubCplack c w0 w1 w2 w3 s
  | .subScrub m c w0 w1 w2 w3 => Sys2Proof.Machine.execSubScrub m c w0 w1 w2 w3 s
  | .channelPostWrite m c w3 => Sys2Proof.Machine.execChannelPostWrite m c w3 s
  | .cridxConsWrite m c cons => Sys2Proof.Machine.execCridxConsWrite m c cons s
  | .descriptorFetch c => Sys2Proof.Machine.execDescriptorFetch c s
  | .descNop c => Sys2Proof.Machine.execDescNop c s
  | .descCopy c => Sys2Proof.Machine.execDescCopy c s
  | .descFill c => Sys2Proof.Machine.execDescFill c s
  | .descReduce c => Sys2Proof.Machine.execDescReduce c s
  | .descGather c => Sys2Proof.Machine.execDescGather c s
  | .descScatter c => Sys2Proof.Machine.execDescScatter c s
  | .descScrub c => Sys2Proof.Machine.execDescScrub c s
  | .descPostrec c => Sys2Proof.Machine.execDescPostrec c s
  | .descDispatch c => Sys2Proof.Machine.execDescDispatch c s
  | .descReturn c => Sys2Proof.Machine.execDescReturn c s
  | .descCombine c => Sys2Proof.Machine.execDescCombine c s
  | .moverIssue e => Sys2Proof.Machine.execMoverIssue e s
  | .moverChunkAdmission c => Sys2Proof.Machine.execMoverChunkAdmission c s
  | .routerAppend c => Sys2Proof.Machine.execRouterAppend c s
  | .creditWaitTimeout c => Sys2Proof.Machine.execCreditWaitTimeout c s
  | .masterPortResponse id err data => Sys2Proof.Machine.execMasterPortResponse id err data s
  | .descriptorComplete c => Sys2Proof.Machine.execDescriptorComplete c s
  | .creditClear m a => Sys2Proof.Machine.execCreditClear m a s
  | .sqNop x w => Sys2Proof.Machine.execSqNop x w s
  | .sqAdd x w => Sys2Proof.Machine.execSqAdd x w s
  | .sqSub x w => Sys2Proof.Machine.execSqSub x w s
  | .sqSet x w => Sys2Proof.Machine.execSqSet x w s
  | .sqWatch x w => Sys2Proof.Machine.execSqWatch x w s
  | .sqUnwatch x w => Sys2Proof.Machine.execSqUnwatch x w s
  | .sqRead x w => Sys2Proof.Machine.execSqRead x w s
  | .sqArrive x w => Sys2Proof.Machine.execSqArrive x w s
  | .sqReleaseEffect x => Sys2Proof.Machine.execSqReleaseEffect x s
  | .swTransfer x => Sys2Proof.Machine.execSwTransfer x s
  | .ctrCmdAdd m c v => Sys2Proof.Machine.execCtrCmdAdd m c v s
  | .ctrCmdSub m c v => Sys2Proof.Machine.execCtrCmdSub m c v s
  | .ctrCmdSet m c v => Sys2Proof.Machine.execCtrCmdSet m c v s
  | .tagCmdSetFull m ring slot => Sys2Proof.Machine.execTagCmdSetFull m ring slot s
  | .tagCmdSetEmpty m ring slot => Sys2Proof.Machine.execTagCmdSetEmpty m ring slot s
  | .barrive m bar n => Sys2Proof.Machine.execBarrive m bar n s
  | .barrierEnable m bar w => Sys2Proof.Machine.execBarrierEnable m bar w s
  | .barrierDisable m bar w => Sys2Proof.Machine.execBarrierDisable m bar w s
  | .barrierReset m bar => Sys2Proof.Machine.execBarrierReset m bar s
  | .ringEnable m ring w => Sys2Proof.Machine.execRingEnable m ring w s
  | .ringDisable m ring w => Sys2Proof.Machine.execRingDisable m ring w s
  | .slotFill x tag => Sys2Proof.Machine.execSlotFill x tag s
  | .slotEmpty x tag => Sys2Proof.Machine.execSlotEmpty x tag s
  | .slotTimeout x tag => Sys2Proof.Machine.execSlotTimeout x tag s
  | .parkRetryProbe x tag => Sys2Proof.Machine.execParkRetryProbe x tag s
  | .cacheFillComplete id err data => Sys2Proof.Machine.execCacheFillComplete id err data s
  | .copInv m w => Sys2Proof.Machine.execCopInv m w s
  | .copClean m w => Sys2Proof.Machine.execCopClean m w s
  | .copCleanInv m w => Sys2Proof.Machine.execCopCleanInv m w s
  | .copDone => Sys2Proof.Machine.execCopDone s
  | .sectionSwitch m target => Sys2Proof.Machine.execSectionSwitch m target s
  | .sectionSwitchDone => Sys2Proof.Machine.execSectionSwitchDone s
  | .xbaseWrite m hi v => Sys2Proof.Machine.execXbaseWrite m hi v s
  | .cbIdle p => Sys2Proof.Machine.execCbIdle p s
  | .cbLink p => Sys2Proof.Machine.execCbLink p s
  | .cbRetry p => Sys2Proof.Machine.execCbRetry p s
  | .cbLaneDrop p => Sys2Proof.Machine.execCbLaneDrop p s
  | .cbLaneSwitch p => Sys2Proof.Machine.execCbLaneSwitch p s
  | .cbInit p => Sys2Proof.Machine.execCbInit p s
  | .codewordReceived p marks lanes => Sys2Proof.Machine.execCodewordReceived p marks lanes s
  | .pktBwr p => Sys2Proof.Machine.execPktBwr p s
  | .pktTwr p => Sys2Proof.Machine.execPktTwr p s
  | .pktNtfy p => Sys2Proof.Machine.execPktNtfy p s
  | .pktBarr p => Sys2Proof.Machine.execPktBarr p s
  | .pktBrel p => Sys2Proof.Machine.execPktBrel p s
  | .pktBabt p => Sys2Proof.Machine.execPktBabt p s
  | .pktLack p => Sys2Proof.Machine.execPktLack p s
  | .pktNak p => Sys2Proof.Machine.execPktNak p s
  | .pktCgrant p => Sys2Proof.Machine.execPktCgrant p s
  | .pktTsreq p => Sys2Proof.Machine.execPktTsreq p s
  | .pktTsrsp p => Sys2Proof.Machine.execPktTsrsp p s
  | .retryRepeat p => Sys2Proof.Machine.execRetryRepeat p s
  | .linkSilenceTimeout p => Sys2Proof.Machine.execLinkSilenceTimeout p s
  | .laneLoss p lane signal => Sys2Proof.Machine.execLaneLoss p lane signal s
  | .serInterval p => Sys2Proof.Machine.execSerInterval p s
  | .laneRelock p => Sys2Proof.Machine.execLaneRelock p s
  | .linkPortEnable m p w => Sys2Proof.Machine.execLinkPortEnable m p w s
  | .linkPortDisable m p w => Sys2Proof.Machine.execLinkPortDisable m p w s
  | .linkDrainDone p => Sys2Proof.Machine.execLinkDrainDone p s
  | .linkTrainDone p tx rx => Sys2Proof.Machine.execLinkTrainDone p tx rx s
  | .linkAlignDone p ok => Sys2Proof.Machine.execLinkAlignDone p ok s
  | .retrain m p => Sys2Proof.Machine.execRetrain m p s
  | .fwdWrite m a w => Sys2Proof.Machine.execFwdWrite m a w s
  | .enumGo m => Sys2Proof.Machine.execEnumGo m s
  | .chainClear w => Sys2Proof.Machine.execChainClear w s
  | .chainEnum w => Sys2Proof.Machine.execChainEnum w s
  | .chainDone w => Sys2Proof.Machine.execChainDone w s
  | .enumTimeout => Sys2Proof.Machine.execEnumTimeout s
  | .tsGo m => Sys2Proof.Machine.execTsGo m s
  | .tsPeriod => Sys2Proof.Machine.execTsPeriod s
  | .e2eTimeout etag => Sys2Proof.Machine.execE2eTimeout etag s
  | .lackSend src => Sys2Proof.Machine.execLackSend src s
  | .windowUnitEnable m w => Sys2Proof.Machine.execWindowUnitEnable m w s
  | .windowOpen m w => Sys2Proof.Machine.execWindowOpen m w s
  | .windowClose m w => Sys2Proof.Machine.execWindowClose m w s
  | .windowCloseDone w => Sys2Proof.Machine.execWindowCloseDone w s
  | .cchEnable m c w => Sys2Proof.Machine.execCchEnable m c w s
  | .cchDisable m c w => Sys2Proof.Machine.execCchDisable m c w s
  | .cchDrainDone c => Sys2Proof.Machine.execCchDrainDone c s
  | .creditReturn c => Sys2Proof.Machine.execCreditReturn c s
  | .tokenLanded id => Sys2Proof.Machine.execTokenLanded id s
  | .notifyEffect k => Sys2Proof.Machine.execNotifyEffect k s
  | .fenceTimeout k => Sys2Proof.Machine.execFenceTimeout k s
  | .sentClr m dev w => Sys2Proof.Machine.execSentClr m dev w s
  | .sentClrall m => Sys2Proof.Machine.execSentClrall m s
  | .correctionWriteback id => Sys2Proof.Machine.execCorrectionWriteback id s
  | .rimHardFault layer p cause => Sys2Proof.Machine.execRimHardFault layer p cause s
  | .rimCmdRetire m layer rim => Sys2Proof.Machine.execRimCmdRetire m layer rim s
  | .spareTakeoverDone => Sys2Proof.Machine.execSpareTakeoverDone s
  | .rimCmdEvacuate m layer rim => Sys2Proof.Machine.execRimCmdEvacuate m layer rim s
  | .evacuationDone => Sys2Proof.Machine.execEvacuationDone s
  | .rimCmdAbort m => Sys2Proof.Machine.execRimCmdAbort m s
  | .scrubGo m pta tid chan => Sys2Proof.Machine.execScrubGo m pta tid chan s
  | .scrubAbort m => Sys2Proof.Machine.execScrubAbort m s
  | .scrubPassDone => Sys2Proof.Machine.execScrubPassDone s
  | .flipArm m layer bank rim => Sys2Proof.Machine.execFlipArm m layer bank rim s
  | .psnLogRead m => Sys2Proof.Machine.execPsnLogRead m s
  | .drigarParityError n layer sector group halvesA halvesB => Sys2Proof.Machine.execDrigarParityError n layer sector group halvesA halvesB s
  | .spokeResume layer sector => Sys2Proof.Machine.execSpokeResume layer sector s
  | .domCmdOn m n => Sys2Proof.Machine.execDomCmdOn m n s
  | .domCmdOff m n => Sys2Proof.Machine.execDomCmdOff m n s
  | .domainOnDone n => Sys2Proof.Machine.execDomainOnDone n s
  | .targetOn m layer p idle => Sys2Proof.Machine.execTargetOn m layer p idle s
  | .targetFreewheel m layer p idle => Sys2Proof.Machine.execTargetFreewheel m layer p idle s
  | .targetOff m layer p idle => Sys2Proof.Machine.execTargetOff m layer p idle s
  | .rimDrainEnd layer p => Sys2Proof.Machine.execRimDrainEnd layer p s
  | .drainLimitExpiry layer p => Sys2Proof.Machine.execDrainLimitExpiry layer p s
  | .rimStateReached layer p => Sys2Proof.Machine.execRimStateReached layer p s
  | .rimWakeStart => Sys2Proof.Machine.execRimWakeStart s
  | .rimIdleExpiry layer p => Sys2Proof.Machine.execRimIdleExpiry layer p s
  | .cadenceBoundary arrMv periMv => Sys2Proof.Machine.execCadenceBoundary arrMv periMv s
  | .emAliveExpiry => Sys2Proof.Machine.execEmAliveExpiry s
  | .ringMonitorReport unit pace => Sys2Proof.Machine.execRingMonitorReport unit pace s
  | .thermalReport sector temp => Sys2Proof.Machine.execThermalReport sector temp s
  | .powerAlertChange level => Sys2Proof.Machine.execPowerAlertChange level s
  | .emgForceWrite m force => Sys2Proof.Machine.execEmgForceWrite m force s
  | .emergencyExit => Sys2Proof.Machine.execEmergencyExit s
  | .governorWindow => Sys2Proof.Machine.execGovernorWindow s
  | .fabricPiece cands => Sys2Proof.Machine.execFabricPiece cands s
  | .registerWrite m off w => Sys2Proof.Machine.execRegisterWrite m off w s
  | .irqForce m off set => Sys2Proof.Machine.execIrqForce m off set s
  | .semaClaim m g => Sys2Proof.Machine.execSemaClaim m g s
  | .semaRelease m g => Sys2Proof.Machine.execSemaRelease m g s
  | .semaForce m g => Sys2Proof.Machine.execSemaForce m g s
  | .fwStage m => Sys2Proof.Machine.execFwStage m s
  | .fwStageDone => Sys2Proof.Machine.execFwStageDone s
  | .fwActivate m => Sys2Proof.Machine.execFwActivate m s
  | .fwCancel m => Sys2Proof.Machine.execFwCancel m s
  | .pendingActivationStart => Sys2Proof.Machine.execPendingActivationStart s
  | .activationCommit => Sys2Proof.Machine.execActivationCommit s
  | .emLoadDone n => Sys2Proof.Machine.execEmLoadDone n s
  | .wdtKick m n => Sys2Proof.Machine.execWdtKick m n s
  | .watchdogExpiry n => Sys2Proof.Machine.execWatchdogExpiry n s
  | .emRestart m n => Sys2Proof.Machine.execEmRestart m n s
  | .reqProdWrite m r prod => Sys2Proof.Machine.execReqProdWrite m r prod s
  | .rspConsWrite m r cons => Sys2Proof.Machine.execRspConsWrite m r cons s
  | .echo r => Sys2Proof.Machine.execEcho r s
  | .info r => Sys2Proof.Machine.execInfo r s
  | .em1Echo r => Sys2Proof.Machine.execEm1Echo r s
  | .em1Info r => Sys2Proof.Machine.execEm1Info r s
  | .lifeInfo r => Sys2Proof.Machine.execLifeInfo r s
  | .lifeFlush r => Sys2Proof.Machine.execLifeFlush r s
  | .lifeRead r => Sys2Proof.Machine.execLifeRead r s
  | .lifeLoad r => Sys2Proof.Machine.execLifeLoad r s
  | .lifeCommit r => Sys2Proof.Machine.execLifeCommit r s
  | .ftRim r => Sys2Proof.Machine.execFtRim r s
  | .ftPlane r => Sys2Proof.Machine.execFtPlane r s
  | .ftLink r => Sys2Proof.Machine.execFtLink r s
  | .ftSync r => Sys2Proof.Machine.execFtSync r s
  | .ftAbort r => Sys2Proof.Machine.execFtAbort r s
  | .ftResult r => Sys2Proof.Machine.execFtResult r s
  | .ftCmdRim m layer rim => Sys2Proof.Machine.execFtCmdRim m layer rim s
  | .ftCmdPlane m plane => Sys2Proof.Machine.execFtCmdPlane m plane s
  | .ftCmdLink m p depth => Sys2Proof.Machine.execFtCmdLink m p depth s
  | .ftCmdSync m => Sys2Proof.Machine.execFtCmdSync m s
  | .ftCmdAbort m => Sys2Proof.Machine.execFtCmdAbort m s
  | .ftCopyDone => Sys2Proof.Machine.execFtCopyDone s
  | .ftPatternsDone ok elem bank row fbits => Sys2Proof.Machine.execFtPatternsDone ok elem bank row fbits s
  | .ftBackDone => Sys2Proof.Machine.execFtBackDone s
  | .fieldTestDone ok errs => Sys2Proof.Machine.execFieldTestDone ok errs s
  | .rcEnable m w => Sys2Proof.Machine.execRcEnable m w s
  | .rcDisable m w => Sys2Proof.Machine.execRcDisable m w s
  | .rcDrainDone => Sys2Proof.Machine.execRcDrainDone s
  | .rcArm m => Sys2Proof.Machine.execRcArm m s
  | .rcClearingDone => Sys2Proof.Machine.execRcClearingDone s
  | .triggerSample => Sys2Proof.Machine.execTriggerSample s
  | .rcSwtrig m tag trig => Sys2Proof.Machine.execRcSwtrig m tag trig s
  | .recordWrite => Sys2Proof.Machine.execRecordWrite s
  | .lifeSample => Sys2Proof.Machine.execLifeSample s
  | .lifePeriodicFlush => Sys2Proof.Machine.execLifePeriodicFlush s
  | .lifeBaseLoad => Sys2Proof.Machine.execLifeBaseLoad s
  | .lcAdvance m confirm => Sys2Proof.Machine.execLcAdvance m confirm s
  | .lcRetireDevice m confirm => Sys2Proof.Machine.execLcRetireDevice m confirm s
  | .svcEnter m => Sys2Proof.Machine.execSvcEnter m s
  | .porstRelease mgr => Sys2Proof.Machine.execPorstRelease mgr s
  | .porstAssert => Sys2Proof.Machine.execPorstAssert s
  | .srstAssert => Sys2Proof.Machine.execSrstAssert s
  | .railOutOfRange => Sys2Proof.Machine.execRailOutOfRange s
  | .timerefStop => Sys2Proof.Machine.execTimerefStop s
  | .fuseShadowLoaded => Sys2Proof.Machine.execFuseShadowLoaded s
  | .crossingBringup n present faults => Sys2Proof.Machine.execCrossingBringup n present faults s
  | .bootSelfTest fails => Sys2Proof.Machine.execBootSelfTest fails s
  | .bootSelfTestDone => Sys2Proof.Machine.execBootSelfTestDone s
  | .retirementsReapplied => Sys2Proof.Machine.execRetirementsReapplied s
  | .srstRelease => Sys2Proof.Machine.execSrstRelease s
  | .sectorPeripheryFault layer sector cause => Sys2Proof.Machine.execSectorPeripheryFault layer sector cause s
  | .syncPlaneFault cause => Sys2Proof.Machine.execSyncPlaneFault cause s
  | .portAdapterFault x => Sys2Proof.Machine.execPortAdapterFault x s
  | .moverEngineFault e => Sys2Proof.Machine.execMoverEngineFault e s
  | .ceThresholdCrossed layer p => Sys2Proof.Machine.execCeThresholdCrossed layer p s
  | .activationKickTimeout => Sys2Proof.Machine.execActivationKickTimeout s
  | .lifeFlushWritten ok => Sys2Proof.Machine.execLifeFlushWritten ok s

end Sys2Proof.Machine
end

