-- ==== Sys2Proof/Machine/Tick.lean ====
section
/-! DEFINITION. A period of TIMEREF, 10 ns, which passes when no command waits (DESIGN CHOICE, log entry 2): the timestamp and the
pace cycles are counted, and work that needs no event of its own goes on. -/
namespace Sys2Proof.Machine

/-- A pace in picoseconds; nominal before the first report of the monitors (R7, R27; DESIGN CHOICE, log entry 2). -/
def paceOf (s : State) (f : Fld) : Nat := let p := s.get pgPOWER f
  if p = 0 then 1250 else p
/-- 10 ns of pace cycles are counted. -/
def State.countPace (s : State) : State :=
  let a := paceOf s POWER_PACE_DEV_PERI
  let b := paceOf s POWER_PACE_DEV_DEV
  let x := s.pcRem + 10000
  let y := s.pcDevRem + 10000
  { s with pcNow := s.pcNow + x / a, pcRem := x % a, pcDev := s.pcDev + y / b, pcDevRem := y % b }
/-- A core in RESTART begins to load (R514). -/
def State.coreTick (s : State) (n : Nat) : State :=
  s.cond (emState s n == 3) fun s => s.put pgMBCTL (emFld n MAILBOX_CTL_EM_STAT_STATE) 1
/-- The ticks of the TIDs that are Braked (R213). -/
def State.brakeTick (s : State) : State :=
  s.each (List.range 64) fun s t => s.cond (braked s t) fun s => s.tidCnt t fun c => { c with brakeT := (c.brakeT + 1) % 2 ^ 64 }
/-- 10 ns pass. While PORST_N is low nothing counts. -/
def State.tick (s : State) : State :=
  if s.porstLow then s
  else
    let pc := s.pcDev
    let s := ({ s with now := s.now + b2n s.clockOn }.cond s.clockOn State.brakeTick).countPace
    let s := (((s.coreTick 0).coreTick 1).winRun.loadRun.patRun (s.pcDev - pc)).scrubPost
    let s := s.cond (s.cfg.links != 0) fun s => s.each (List.range 4) State.linkTick
    ((s.mboxAuto 0 256).mboxAuto 1 256).each (List.range 8) fun s _ => s.recordStep

end Sys2Proof.Machine
end

