-- ==== Sys2Proof/Safety.lean ====
section
/-! DEFINITION. What the statements say of a run: the invariant of every state that a step keeps, and when the control fabric lets a
master's write of a register take its effect. -/
namespace Sys2Proof.Machine

/-- The configuration is an ordering code that exists (R1, R2), and the array memory stands in its canonical form. -/
def State.Inv (s : State) : Prop := s.cfg.valid = true ∧ Mem.wf s.array.mem = true

/-- A write of a master to the register `reg` of the page at `base` takes its effect: the page exists and is present (R573, R574),
the fabric does not hold the master's access (R513, R559, R607), has a path for the write (R503, R555, R557), and, where the write
is one of RWO fields (`owned`), the master is an Emlar core or owns the page's group (R509). -/
def mayWrite (s : State) (m : Master) (base reg : Nat) (owned : Bool) : Bool :=
  match pageAt (base + reg) with
  | none => false
  | some p => fabricOpen s m p && pagePresent s.cfg p && writePath s m p &&
      match pageGroup p with
      | some g => !owned || m.isEm || semOwner s g == m.holder
      | none => true

/-! ### What the statements say of the commands' operands and states -/

/-- The REQ transfers of the port protocol (R139), each with the request as its command takes it. -/
def portRequests : List ((Nat → Request → Instr) × (Request → Request)) :=
  [ (.readRequest, fun r => { r with op := if 6 ≤ r.op then r.op else 0 }), (.writeRequest, fun r => { r with op := 1 }),
    (.fillRequest, fun r => { r with op := 2 }), (.accRequest, fun r => { r with op := 3 }),
    (.saccRequest, fun r => { r with op := 4 }),
    (.atomicAdd, fun r => { r with op := 5, aop := if 10 ≤ r.aop then r.aop else 0 }),
    (.atomicSmin, fun r => { r with op := 5, aop := 1 }), (.atomicSmax, fun r => { r with op := 5, aop := 2 }) ] ++
  [ (.atomicUmin, fun r => { r with op := 5, aop := 3 }), (.atomicUmax, fun r => { r with op := 5, aop := 4 }),
    (.atomicSwap, fun r => { r with op := 5, aop := 5 }), (.atomicCas, fun r => { r with op := 5, aop := 6 }),
    (.atomicAnd, fun r => { r with op := 5, aop := 7 }), (.atomicOr, fun r => { r with op := 5, aop := 8 }),
    (.atomicXor, fun r => { r with op := 5, aop := 9 }) ]
/-- A port can take a request (R147, R162): it is a port with a REQ channel, present, the tag is one of its tags, and it is ready. -/
def reqTaken (s : State) (x : Nat) (r : Request) : Bool :=
  decide (x < 56) && pagePresent s.cfg ⟨.port, x, portBase x⟩ && decide (r.tag < portTags x) && reqReady s x r
/-- The write data of a request fits the port's write buffer, and WLAST comes with its last beat (R148, R149). Where the handle is
not LIVE and the need would rest on its format, the beats that come are what must fit. -/
def dataFits (s : State) (x : Nat) (r : Request) : Bool :=
  let d := liveDesc s r.handle r.gen
  let need := wdNeed x r (d.map (·.format))
  let open_ := decide (r.handle ≠ 0) && d.isNone && (r.op == 1 || r.op == 3 || r.op == 4)
  !hasData r || (if open_ then decide (r.beats * laneSize x ≤ writeBuffer x) else decide (need.1 ≤ writeBuffer x) && r.beats == need.2)
/-- A rim is in service and ON (R480). -/
def rimReady (s : State) (layer rim : Nat) : Prop :=
  layer < s.cfg.dies ∧ rim < 16 ∧ physOf s layer rim ≠ 31 ∧ rimUp s layer rim = true ∧ rimPower s layer (physOf s layer rim) = 0
/-- Access a of a queue is all that asks for a grant at such a rim, and it may be granted (R92, R181, R494, R496). -/
def onlyAt (s : State) (layer rim : Nat) (a : Access) : Prop :=
  rimReady s layer rim ∧ rimQueue s layer rim = [a] ∧ claimsAt s layer rim = [] ∧ wbEntries s layer rim = [] ∧ copyEntries s layer rim = [] ∧ a.crosses = true ∧
    heldBack s a = false ∧ awaitsClear s layer a.frame = false ∧ stopped s (arbRim layer rim) a = false ∧
    govHolds s (arbRim layer rim) a = false
/-- At the rim of a write-back, which is in service, stand the write-backs of its rim access alone (R445). -/
def onlyWbs (s : State) (b : WriteBack) : Prop :=
  physOf s b.layer b.rim ≠ 31 ∧ rimUp s b.layer b.rim = true ∧ rimPower s b.layer (physOf s b.layer b.rim) ≤ 1 ∧
    (rimOf s b.layer (physOf s b.layer b.rim)).half = none ∧ rimQueue s b.layer b.rim = [] ∧ claimsAt s b.layer b.rim = [] ∧
    copyEntries s b.layer b.rim = [] ∧ ∀ w ∈ s.array.wbs, w.layer = b.layer → w.rim = b.rim → w.id = b.id
/-- The kinds of an operation record (R237), each with the command by which a record of the kind starts; a reserved kind starts, and
is refused, with NOP. -/
def recordKinds : List (Nat × (Nat → Instr)) :=
  [(0, .oprecNop), (1, .oprecZero), (2, .oprecFill), (3, .oprecCopy), (4, .oprecKernel)]
/-- The record at the head of an ENABLED queue is `r`, it has not started, and the completion FIFO has room (R236, R243). -/
def canStart (s : State) (q kind : Nat) (r : RaRec) : Prop :=
  q < 4 ∧ raHead s q = some r ∧ r.started = false ∧ raState s q = 1 ∧ (raqOf s q).cpl.length < 16 ∧
    (if r.kind ≤ 4 then r.kind else 0) = kind
/-- A record that has just started: accepted, with the POWER, OVF and SROUND of its handles (R88, R241). -/
def begun (s : State) (r : RaRec) : RaRec :=
  { r with started := true, acc := s.hub.accCtr, caps := (r.operands s).map fun o => (o.1.handle, capOf s o.1.handle) }
/-- The state after the head record of a queue has started and its first chunk has asked for energy (R259), and that in which the
first steps of the chunk are in flight (R242). -/
def recordBegun (s : State) (q : Nat) : State := (s.beginRec q).nextChunk q
def recordSent (s : State) (q : Nat) : State := (recordBegun s q).sendSteps q
/-- The first chunk of the record at the head of a queue is admitted at its start (R259). -/
def firstAdmitted (s : State) (q : Nat) : Bool := (chunkOf (recordBegun s q) (raOwner q)).any (·.adm)
/-- A kernel step runs at the ALU of a logical rim: its context is `c` and its next instruction is `ins` (R246, R255). -/
def kernelAt (s : State) (c : KCtx) (ins : Nat) : Prop :=
  c.layer < s.cfg.dies ∧ c.i < 16 ∧ physOf s c.layer c.i = c.p ∧ c.p ≠ 31 ∧ (rimOf s c.layer c.p).krun = true ∧
    (rimOf s c.layer c.p).kq = some c.q ∧ raHead s c.q = some c.r ∧ (rimOf s c.layer c.p).kstep = c.step ∧
    (kBody s c.r.kslot)[(rimOf s c.layer c.p).kpc]? = some ins
/-- The instruction is not the last of its body. -/
def notLast (s : State) (c : KCtx) : Prop := (rimOf s c.layer c.p).kpc + 1 < (kBody s c.r.kslot).length
/-- The lane-wise instructions (R249, R250): opcode, command, and what a lane of DST takes from the lanes of DST, SA and SRC. -/
def laneOps : List (Nat × (Nat → Nat → Instr) × (KCtx → Nat → Nat → Nat → Nat → Nat → Conv)) :=
  [ (4, .kiAdd, fun _ _ f _ a b => laneOf f ((elemValue f a).add (elemValue f b))),
    (5, .kiMul, fun _ _ f _ a b => laneOf f ((elemValue f a).mul (elemValue f b))),
    (6, .kiFma, fun _ _ f d a b => laneOf f ((elemValue f d).add ((elemValue f a).mul (elemValue f b)))),
    (7, .kiMin, fun _ _ f _ a b => laneMinMax f false a b),
    (8, .kiMax, fun _ _ f _ a b => laneMinMax f true a b),
    (9, .kiClip, fun c ins f _ a _ => laneMinMax f false
      (laneMinMax f true a (scalarLane f (c.r.k (kiKix ins)) false)).code (scalarLane f (c.r.k (kiKix ins + 1)) false)) ]
/-- The register that a lane-wise instruction leaves in DST. -/
def lanesOut (s : State) (c : KCtx) (ins : Nat) (f : Nat → Nat → Nat → Nat → Conv) : Nat :=
  let reg := rimOf s c.layer c.p
  let w := fmtWidth (kiFmt ins)
  packElems w (((elems w (4096 / w) (aluReg reg (kiDst ins))).zip ((elems w (4096 / w) (aluReg reg (kiSa ins))).zip (srcLanes s c ins))).map
    fun t => (f (kiFmt ins) t.1 t.2.1 t.2.2).code)
/-- The state with the line that an ST stores in a write buffer of its rim, and charged (R255). -/
def inBuffer (s : State) (c : KCtx) (ins : Nat) (l : LineAt) : State :=
  let a := { lineClaim s c.q c.step c.r l .write (c.r.pol s c.r.opD.handle) with
    seq := s.hub.seqCtr, src := .kstore c.q c.step, segs := cutLine l.col l.num (aluReg (rimOf s c.layer c.p) (kiSa ins)) }
  (s.hubf fun h => { h with seqCtr := h.seqCtr + 1, claims := h.claims ++ [a] }).charge a.tid a.charge.1 a.charge.2
/-- An operand of a record is not of an MX format, or it is handle 0. -/
def plainOp (s : State) (o : RaOp) : Prop := ∀ d, descOf s o.handle = some d → isMX d.format = false
/-- No armed watch is on device counter c. -/
def noWatch (s : State) (c : Nat) : Prop :=
  ∀ w ∈ s.sync.watchOrd, w < 128 ∧ 48 * (w / 16) + s.get pgSYNCCTR (SYNC_CTR_WATCH_CTR.at 4 w) ≠ c
/-- A message on the SQ channel of a port is taken and acts at once (R309, R310, R312): the port has an SQ channel, is present and
ENABLED, has a free entry, holds no message back, and the device is not PARKED. -/
def sqReady (s : State) (x : Nat) : Bool :=
  decide (x < 72) && portKind x != 2 && pagePresent s.cfg ⟨.port, x, portBase x⟩ && portState s x == 2 && !(portOf s x).broken &&
    decide ((portOf s x).sqUsed < 16) && !parked s && (portOf s x).sqHeld == []
/-- A message with zeros in its reserved bits that asks for no release (R307, R312, R314). -/
def sqPlain (w : SqWord) : Prop := w.resv = 0 ∧ w.rel = false
/-- The watch that a message of port x names (R316), and the device counter (R306). -/
def sqWatch (x : Nat) (w : SqWord) : Nat := 16 * (engineOf x / 4) + 4 * (engineOf x % 4) + w.widx
def sqCounter (x : Nat) (w : SqWord) : Nat := 48 * (engineOf x / 4) + w.id
/-- The counter operations (R313): the SQ message, the CTR_CMD command, and the count they leave. -/
def counterOps : List ((Nat → SqWord → Instr) × (Master → Nat → Nat → Instr) × (Nat → Nat → Nat)) :=
  [(.sqAdd, .ctrCmdAdd, fun n v => min (n + v) 0xFFFF), (.sqSub, .ctrCmdSub, fun n v => n - v), (.sqSet, .ctrCmdSet, fun _ v => v)]
/-- A write of COP_CMD with ALL over a cache that holds one line, which no operation waits for, on a device that is not PARKED: the
write is free to start (R375, R376). -/
def copOne (s : State) (m : Master) (w : Word32) (key : Nat) (l : CLine) : Prop :=
  mayWrite s m pgCACHE CACHE_COP_CMD true = true ∧ s.flag pgCACHE CACHE_COP_STAT_BUSY = false ∧ CACHE_COP_CMD_ALL.of w = 1 ∧
    s.cache.lines = [(key, l)] ∧ s.cache.jobs = [] ∧ lineOfSlot key l < 2 ^ 41 ∧ findLine s (lineOfSlot key l) = some (key, l) ∧
    parked s = false
/-- A miss of a port's request is outstanding: transaction `id` fetches its line, for the only operation j at the controller. -/
def missOut (s : State) (id x tag : Nat) (r : MpReq) (j : CacheJob) : Prop :=
  (s.mport.find? fun r => r.id == id) = some r ∧ r.src = .fill j.id ∧ s.cache.jobs = [j] ∧ j.stage = .fetch ∧ j.op = .ext x tag ∧
    (txnOf s x tag).isSome = true ∧ parked s = false
/-- The operations of a descriptor, by OP: each command that starts one (R272). -/
def descStarts : List (Nat × (Nat → Instr)) :=
  [(0, .descNop), (1, .descCopy), (2, .descFill), (3, .descReduce), (4, .descGather), (5, .descScatter), (6, .descScrub),
   (7, .descPostrec), (8, .descDispatch), (9, .descReturn), (10, .descCombine)]
/-- The descriptor command of operation `op` finds at the head of channel c a descriptor j of it that may start (R272, R274). -/
def mayStart (s : State) (c op : Nat) (j : MvJob) (l : List MvJob) : Prop :=
  c < 16 ∧ (chanOf s c).jobs = j :: l ∧ j.started = false ∧ j.words ≠ [] ∧ (chanState s c = 2 ∨ chanState s c = 5) ∧
    (portOf s (56 + c)).broken = false ∧ recWait s c = false ∧ (if j.op ≤ 10 then j.op else 0) = op
/-- A channel that may read the next descriptor of its chain h (R269). -/
def mayFetch (s : State) (c : Nat) (h : Chain) : Prop :=
  c < 16 ∧ chanState s c = 2 ∧ (portOf s (56 + c)).broken = false ∧ (chanOf s c).fetch = none ∧ (chanOf s c).jobs.length < 5 ∧ nextChain s c = some h
/-- The address of the next descriptor of a chain in TM8 storage, as an endpoint, and its piece (R269). -/
def fetchEp (h : Chain) : Ep :=
  { epOf 0 0 0 with handle := bits (h.words.getD 0 0) 26 18, gen := bits (h.words.getD 0 0) 17 10,
                    addr := bits (h.words.getD 1 0) 28 6 * 64 + 64 * h.next }
/-- Nothing has come back to the channels, and no channel but c holds anything. -/
def aloneIn (s : State) (c : Nat) (k : MvChan) : Prop :=
  s.hub.answers = [] ∧ s.link.results = [] ∧ s.chans = [(c, k)]
/-- The head descriptor of channel c waits at its append (R299): it has started, nothing of it is outstanding, and its engine works. -/
def atAppend (s : State) (c : Nat) (j : MvJob) (l : List MvJob) : Prop :=
  c < 16 ∧ (chanOf s c).jobs = j :: l ∧ mvReady s c j = true ∧ (portOf s (56 + c)).broken = false ∧ 8 ≤ j.op ∧ j.sub = 3 ∧ j.status = 0
/-- The oldest control block at a port that takes them is `b`, of kind k (0 for a reserved one), and `rest` follow it (R388). -/
def cbFirst (s : State) (p k b : Nat) (rest : List Nat) : Prop :=
  hears s p = true ∧ (lkPort s p).rxCtl = b :: rest ∧ (if cbType b ≤ 5 then cbType b else 0) = k
/-- The commands of control blocks by kind (R388). -/
def cbCommands : List (Nat × (Nat → Instr)) := [(0, .cbIdle), (1, .cbLink), (2, .cbRetry), (3, .cbLaneDrop), (4, .cbLaneSwitch), (5, .cbInit)]
/-- The lanes that a codeword has come on (R386, R405), and its symbols in the order sent, from what those lanes carried. -/
def activeLanes (s : State) (p : Nat) (lanes : List Nat) : List Nat := activeIn s p lanes.length
def wordIn (s : State) (p : Nat) (lanes : List Nat) : List Nat :=
  gather ((List.range (activeLanes s p lanes).length).map fun j => lanes.getD j 0)
/-- The INIT block of a port (R388): address, its valid bit, port, manager bit, ports present. -/
def initBlock (s : State) (p : Nat) : Nat :=
  controlBlock 5 (devAddr s + b2n (s.flag pgLINK LINK_ENUM_STAT_ADDR_V) * 2 ^ 6 + p * 2 ^ 7 + s.get pgLINK LINK_LK_ID_MGR * 2 ^ 9 + s.cfg.links * 2 ^ 10)
/-- A lane has more corrected symbols in the running interval than the threshold, which is not 0 (R405). -/
def laneAbove (s : State) (p j : Nat) : Bool :=
  lpGet s p LINK_P_SERTH_THRESH != 0 && decide (lpGet s p LINK_P_SERTH_THRESH < (lkPort s p).serMark.getD j 0)
/-- A Chain frame of an OP that passes its check, at a device with links (R406). -/
def frameIn (s : State) (op w : Nat) : Prop := s.cfg.links ≠ 0 ∧ frameSound w = true ∧ frameOp w = op
/-- Nothing stands at a rim: the device has no access in flight or claimed, and the rim's ALU no step. -/
def nothingAt (s : State) (layer i : Nat) : Prop :=
  s.hub.flight = [] ∧ s.hub.claims = [] ∧ (rimOf s layer (physOf s layer i)).kq = none
/-- The window unit holds nothing that it can go on with: no write, no outcome, no registry record, no packet (R415). -/
def idleWin (s : State) : Prop := s.hub.answers = [] ∧ s.win.arr = [] ∧ s.win.records = [] ∧ ∀ q < 5, (lkPort s q).rxq = []
/-- A packet of this device to another goes out over port p at once: the device is in the domain, the port is UP, sends blocks, has all its
credits, and nothing waits there (R395, R399, R405, R408). -/
def wayTo (s : State) (dst p : Nat) : Prop :=
  enumerated s = true ∧ dst < devices s ∧ routeOf s dst = .inr p ∧ p < 4 ∧ (lkPort s p).marksTo ≤ s.now ∧ (lkPort s p).txq = [] ∧
    (lkPort s p).replay = [] ∧ (lkPort s p).sentC = [] ∧ (lkPort s p).farC = []
/-- The state with the fields of a write of CCHc_CFG taken, EN aside (R424). -/
def cchFields (s : State) (c : Nat) (w : Word32) : State :=
  [WINDOW_CCH_CCH_CFG_SDEV, WINDOW_CCH_CCH_CFG_SACCT, WINDOW_CCH_CCH_CFG_RING, WINDOW_CCH_CCH_CFG_TID].foldl
    (fun s g => s.cchPut c g (g.of w)) s
/-- The packet whose flits are first in the buffer of a link port that is UP comes in order: it passes its check, is the next expected, of
a class that admits it, and for this device (R390, R396 to R399), at a device whose window unit holds nothing else. -/
def comesIn (s : State) (p : Nat) (pk : Packet) (rest : List Nat) : Prop :=
  p < 4 ∧ s.cfg.links ≠ 0 ∧ lpState s p = 4 ∧ (lkPort s p).lock = true ∧ (lkPort s p).lossAt = none ∧
    nextPacket (lkPort s p).rxFlits = some (pk, rest) ∧ packetSound pk = true ∧ pk.lseq = (lkPort s p).expL ∧ classOk pk = true ∧
    forMe s pk = true ∧ idleWin s
/-- The state in which such a packet lies in its receive buffer: it has left the flits, the next LSEQ is expected and acknowledged, and its
own flits are counted and charged. -/
def taken (s : State) (p : Nat) (pk : Packet) (rest : List Nat) : State :=
  let s := s.lport p fun l => { l with rxFlits := rest }
  let s := s.lport p fun l => { l with expL := (l.expL + 1) % 4096, waitL := false, retries := 0, lossAt := none }
  let s := (s.sendLink p).flitsIn p pk
  s.lport p fun l => { l with rxq := l.rxq ++ [stampIn s pk] }
/-- The state once the packet has left its receive buffer, which was the only one held. -/
def consumed (u : State) (p : Nat) : State := (u.lport p fun l => { l with rxq := [] }).wnu fun w => { w with held := [] }
/-- The state after a packet has been taken holds nothing that the window unit can go on with. -/
def restful (u : State) : Prop :=
  u.hub.answers = [] ∧ u.win.records = [] ∧ u.win.arr.all (fun a => a.parts == [] && a.go != 0) = true
/-- A write that has come in and passed its checks, of one part (R415): its TID and handle, its token, and the POWER and STEP it takes (R86,
R93, R211); and the state that holds it. -/
def arrivalOf (s : State) (p : Nat) (pk : Packet) (tid handle : Nat) (part : Nat × Nat × Nat) (token : Option Nat) : Arrival :=
  ⟨s.win.next, pk, tid, p, handle, [part], 0, stOK, token, false, s.hub.accCtr, ((descOf s handle).map (·.power)).getD 0, tidStep s tid⟩
def arrives (s : State) (a : Arrival) : State :=
  (s.hubf fun h => { h with accCtr := h.accCtr + 1 }).wnu fun w => { w with next := w.next + 1, arr := [a] }
/-- The state in which the first packet of a token has had its credit and its slot taken (R423, R426); a later one finds them as they are. -/
def tokenBegun (s : State) (pk : Packet) : State :=
  if bit pk.h2 19 then
    (s.wnu fun w => { w with skip := w.skip.filter (· != (pk.src, bits pk.h2 31 26)) }).tokenFirst pk
  else s
/-- A packet of token k can be written into its slot (R426, R427): no packet of the token is being discarded, none has been refused, its line is in
the slot, the ring's handle admits it, and its TID's share has room. -/
def tokenWrites (s f : State) (pk : Packet) (k : Token) : Prop :=
  (bit pk.h2 19 = true ∨ s.win.skip.contains (pk.src, bits pk.h2 31 26) = false) ∧ f = tokenBegun s pk ∧ tokenOf f pk = some k ∧
    k.bad = none ∧ bits pk.h2 25 20 < slotLines f k.ring ∧ tokenRefusal f k = stOK ∧ shareFull s k.tid = false ∧ tidStopped s k.tid = false
/-- The handle byte offset of the line of a token's packet. -/
def tokenAt (f : State) (pk : Packet) (k : Token) : Nat := 512 * (ringLine f k.ring + k.slot * slotLines f k.ring + bits pk.h2 25 20)
/-- The commands of packets by type (R390). -/
def packetKinds : List (Nat × (Nat → Instr)) :=
  [(1, .pktBwr), (2, .pktTwr), (3, .pktNtfy), (4, .pktBarr), (5, .pktBrel), (6, .pktBabt), (8, .pktLack), (9, .pktNak), (10, .pktCgrant),
   (12, .pktTsreq), (13, .pktTsrsp)]
/-- A register whose writes have no effect of their own: the fields are written by their access codes (R11). -/
def plainReg (p : PageAt) (o : Nat) : Bool :=
  if o < 0x40 then o != HDR_CTL && o != HDR_IRQ_FORCE && !(p.page == .mbox && o == HDR_IRQ_STAT)
  else match p.page with
    | .ident | .caps | .handleState | .handleRead | .handleGuard | .layer => true
    | .hub => o != HUB_PLANE_CTL
    | .handleCmd => o != HANDLE_CMD_HCMD
    | .syncCtr => o != SYNC_CTR_CTR_CMD
    | _ => false
/-- A field as a write of a word leaves it, by its access code (R11). -/
def fieldAfter (f : FieldRow) (old new : Nat) : Nat := match f.acc with
  | .rw | .rwo | .wo => new
  | .rw1c => old - (old &&& new)
  | _ => old
/-- The state in which the only piece that waits has been granted, and its master's transaction stands aside (R501, R505). -/
def granted (s : State) (f : FabPiece) : State :=
  let t := s.fabGrant (pieceGroup f) [f] f
  { t with fab := { t.fab with bursts := Sp.del t.fab.bursts f.m.code } }
/-- The result that a master reads for its last SEM_OP (R588): owner, RESULT and semaphore. -/
def semResult (s : State) (m : Master) (owner result g : Nat) : Prop :=
  Sp.get 0 s.captured (capKey m (pgSEMA + SEMA_SEM_STAT)) = owner * 2 ^ 30 + result * 2 ^ 28 + g
/-- A message of a TYPE waits alone in ring r, of the ring's epoch, and its core, which runs, can answer it at once (R523 to R525). -/
def msgAt (s : State) (r typ : Nat) : Prop :=
  r < 2 ∧ headType s r = some typ ∧ reqProd s r = (reqCons s r + 1) % 256 ∧ headEpoch s r = mbEpoch s r ∧ rspRoom s r = true ∧
    emRuns s (typ / 2 ^ 15) = true ∧ headLen s r ≤ 48 ∧ s.fw.owed = []
/-- Word k of the response placed first after state s in ring r, as it stands in state t. -/
def rspWord (s t : State) (r k : Nat) : Nat := (t.rd (mboxBase r + MBOX_RSP_ENTRY + 64 * (rspProd s r % 16) + 4 * k)).toNat
/-- The message has been taken and answered (R523, R524): its TYPE and SEQ come back with a STATUS, `n` payload bytes and the epoch, the
payload's words are `w`, and the ring's interrupt is set. -/
def answeredAs (s t : State) (r typ status n : Nat) (w : Nat → Nat) : Prop :=
  reqCons t r = reqProd s r ∧ rspProd t r = (rspProd s r + 1) % 256 ∧ rspWord s t r 0 % 2 ^ 16 = typ ∧
    rspWord s t r 1 = headSeq s r * 2 ^ 16 + n * 2 ^ 8 + status ∧ rspWord s t r 2 = mbEpoch s r * 2 ^ 16 ∧
    (∀ k, 4 * k < n → rspWord s t r (4 + k) = w k % 2 ^ 32) ∧ (t.rd (mboxBase r + HDR_IRQ_STAT)).toNat.testBit 0 = true
/-- The message has been taken, and its answer comes later. -/
def takenOnly (s t : State) (r : Nat) : Prop := reqCons t r = reqProd s r ∧ rspProd t r = rspProd s r
/-- A field-test message waits so, of a ring that owns group 20, in a state of the lifecycle that admits it (R555, R561, R569). -/
def testMsgAt (s : State) (r typ : Nat) : Prop :=
  msgAt s r typ ∧ s.flag pgTEST TEST_BST_STAT_REAPPLIED = true ∧ ringOwns s r 20 = true ∧ lcState s ≠ 4 ∧ (typ = 0x8103 → lcState s ≠ 2)

end Sys2Proof.Machine
end

