-- ==== Sys2Proof/Certificates/Slice0/Obligations.lean ====
section
/-! DEFINITION. The statements for the provers: what each command and each step of the block does, and what stays. -/
open Sys2Proof Sys2Proof.Machine

/-- Each of the fifteen REQ transfers, taken by a present port that is ENABLED on a device that is not PARKED, with write data
that fits: the command answers a next state in which the request's tag is the newest of the port's adapter queue, a transaction
that has not reached the Hub holds the request, and every other port is as before (R139, R147, R148). -/
def Obligations.RequestIsQueued : Prop :=
  ∀ c f, (c, f) ∈ portRequests → ∀ (s : State) (x : Nat) (r : Request),
    reqTaken s x (f r) = true → portState s x = 2 → parked s = false → dataFits s x (f r) = true →
    ∃ t, exec (c x r) s = .next t ∧
      (portOf t x).queue = (portOf s x).queue ++ [(f r).tag] ∧
      (∃ u ∈ (portOf t x).txns, u.req = { f r with data := 0 } ∧ u.atHub = false) ∧
      ∀ y, y ≠ x → portOf t y = portOf s y

/-- Writes that may take effect (`mayWrite`). PCTL.EN set on a DISABLED port makes it ENABLED, or LOOPBACK where a depth is set, and
EN reads 1; EN cleared on an ENABLED or LOOPBACK port makes it DRAINING, and EN reads 0 (R164, R169). LOOP is taken by a DISABLED
port; on any other the write is refused and LOOP_REJ reads 1 (R169); on the page of a mover channel it does nothing (R294). URG_CAP of a stream port is taken, and the urgency in use is
the lower of URG and the cap (R161). SFLUSH of a port with a lens, and of a mover engine, empties the scale buffer (R127, R282). -/
def Obligations.PortControlWrites : Prop :=
  (∀ (s : State) (m : Master) (x : Nat), mayWrite s m (portBase x) PORT_PCTL true = true → portState s x = 1 →
    ∃ t, exec (.portEnable m x) s = .next t ∧ t.get (portBase x) PORT_PCTL_EN = 1 ∧
      portState t x = (if s.get (portBase x) PORT_PCTL_LOOP = 0 then 2 else 4)) ∧
  (∀ (s : State) (m : Master) (x : Nat), x < 56 → mayWrite s m (portBase x) PORT_PCTL true = true →
    portState s x = 2 ∨ portState s x = 4 →
    ∃ t, exec (.portDisable m x) s = .next t ∧ t.get (portBase x) PORT_PCTL_EN = 0 ∧ portState t x = 3) ∧
  (∀ (s : State) (m : Master) (x depth : Nat), x < 56 → mayWrite s m (portBase x) PORT_PCTL true = true → portState s x = 1 →
    ∃ t, exec (.loopWrite m x depth) s = .next t ∧ t.get (portBase x) PORT_PCTL_LOOP = depth % 4) ∧
  (∀ (s : State) (m : Master) (x depth : Nat), x < 56 → mayWrite s m (portBase x) PORT_PCTL true = true → portState s x ≠ 1 →
    ∃ t, exec (.loopWrite m x depth) s = .next t ∧ t.get (portBase x) PORT_PSTAT_LOOP_REJ = 1 ∧
      t.get (portBase x) PORT_PCTL_LOOP = s.get (portBase x) PORT_PCTL_LOOP) ∧
  (∀ (s : State) (m : Master) (x depth : Nat), 56 ≤ x → mayWrite s m (portBase x) PORT_PCTL true = true →
    exec (.loopWrite m x depth) s = .next s) ∧
  (∀ (s : State) (m : Master) (x cap : Nat), mayWrite s m (portBase x) PORT_PCTL true = true → portKind x = 2 →
    (portOf s x).urgIn < 8 →
    ∃ t, exec (.urgCapWrite m x cap) s = .next t ∧ t.get (portBase x) PORT_PCTL_URG_CAP = cap % 8 ∧
      t.get (portBase x) PORT_PSTAT_URG = min (portOf s x).urgIn (cap % 8)) ∧
  (∀ (s : State) (m : Master) (x : Nat), mayWrite s m (portBase x) PORT_LENS_CTL false = true → portKind x < 2 →
    ∃ t, exec (.sflush m x) s = .next t ∧ (portOf t x).scale = []) ∧
  (∀ (s : State) (m : Master) (e : Nat), mayWrite s m pgMOVER (MOVER_ENG_CTL + 32 * e) false = true →
    ∃ t, exec (.engineSflush m e) s = .next t ∧ Sp.get [] t.engScale e = [])

/-- The oldest request of an adapter queue reaches the Hub: it leaves the queue and its transaction is at the Hub, where it names
no slot (R138). The oldest lane that can be sent is the one on RSP, with its status and data, and no longer
waits; it is DONE exactly where it is its request's last (R150, R151). A copy held past MC_HOLD is dropped and counted (R155,
R185). A read line whose
scale row is there is converted: it leaves the return buffer, and its data, cut to the port's lanes, wait for RSP (R125). A stable URG level is the urgency in use, up to
URG_CAP (R161). A draining port with no request left from before its drain, and with no
message held, watch or waiter on the device, becomes DISABLED (R164). -/
def Obligations.PortPipelineSteps : Prop :=
  (∀ (s : State) (x tag : Nat) (rest : List Nat) (u : Txn), (portOf s x).queue = tag :: rest → tag ∉ rest → txnOf s x tag = some u →
    (portOf s x).split = none → (portOf s x).await = [] → u.req.slot = false →
    ∃ t, exec (.requestReachesHub x) s = .next t ∧ tag ∉ (portOf t x).queue ∧
      ∃ v, txnOf t x tag = some v ∧ v.atHub = true ∧ v.req.addr = u.req.addr) ∧
  (∀ (s : State) (x : Nat) (l : Lane), portState s x ≠ 0 → (portOf s x).broken = false → (portOf s x).hold = [] →
    (portOf s x).ready.find? (sendable s x) = some l → l.mc = false →
    ∃ t, exec (.response x) s = .next t ∧ (portOf t x).ready = (portOf s x).ready.erase l ∧
      (portOf t x).rsp.map (fun q => (q.tag, q.line, q.status, q.data, q.done)) =
        some (l.tag, l.line, l.status, l.data, lastLane s x l)) ∧
  (∀ (s : State) (x : Nat) (b : BackLine) (rest : List BackLine), (portOf s x).hold = b :: rest →
    b.since + 4 * s.get (portBase x) PORT_PCTL_MC_HOLD ≤ s.pcNow →
    ∃ t, exec (.mcHoldExpiry x) s = .next t ∧ (portOf t x).hold = rest ∧
      t.get (portBase x) PORT_MC_DROP_COUNT = min (s.get (portBase x) PORT_MC_DROP_COUNT + 1) (2 ^ 32 - 1)) ∧
  (∀ (s : State) (x st pm sat nan : Nat) (data : Option (Nat × Nat)) (b : BackLine) (u : Txn),
    (portOf s x).back.find? (fun b => (convertBack s b).isSome) = some b →
    txnOf s x b.tag = some u → convertBack s b = some (st, pm, data, sat, nan) →
    ∃ t, exec (.lensConvert x) s = .next t ∧ (portOf t x).back = (portOf s x).back.erase b ∧
      (portOf t x).ready = (portOf s x).ready ++
        cutLanes x ⟨laneWr u.req, b.tag, b.line, 0, st, pm, false, 0, false, 0, none, s.pcNow⟩ data) ∧
  (∀ (s : State) (x urg : Nat), portKind x = 2 → urg ≤ 7 →
    ∃ t, exec (.urgChange x urg) s = .next t ∧ (portOf t x).urgIn = urg ∧
      t.get (portBase x) PORT_PSTAT_URG = min urg (s.get (portBase x) PORT_PCTL_URG_CAP)) ∧
  (∀ (s : State) (x : Nat), portState s x = 3 → (portOf s x).txns.any (fun u => decide (u.acc < (portOf s x).drainMark)) = false →
    moverQuiet s x = true → (portOf s x).held = false → (portOf s x).sqHeld = [] → s.sync.watchOrd = [] → s.sync.waiters = [] →
    ∃ t, exec (.portDrainDone x) s = .next t ∧ portState t x = 1)

/-- Each of the fifteen REQ transfers, taken by a present port: on a PARKED device it is answered with PARKED, and else on a port
that is neither ENABLED nor in LOOPBACK with DISABLED (R149, R153, R164, R167). The answer is one lane of LINE 0 without data,
behind the lanes that wait; the adapter queue gains nothing, and the array is untouched. -/
def Obligations.AdapterRefuses : Prop :=
  ∀ c f, (c, f) ∈ portRequests → ∀ (s : State) (x : Nat) (r : Request),
    reqTaken s x (f r) = true → parked s = true ∨ portState s x ≠ 2 ∧ portState s x ≠ 4 →
    ∃ t l, exec (c x r) s = .next t ∧ (portOf t x).ready = (portOf s x).ready ++ [l] ∧
      l.status = (if parked s then stPARKED else stDISABLED) ∧ l.tag = (f r).tag ∧ l.line = 0 ∧ l.data = none ∧
      (portOf t x).queue = (portOf s x).queue.filter (· != (f r).tag) ∧ t.array = s.array

/-- The split stage releases the next line of its request into the sector pool, behind the accesses in flight, under the next split
sequence number, where the pool and the return buffer have room (R174, R178). The upward arbiter of a sector grants its pool's only
eligible access, which joins its rim's queue (R183). The downward arbiter sends the only line of its output stages toward the merge
(R173). The merge of an access of a unit other than a port takes it out of the flight and hands the unit its answer (R172). -/
def Obligations.HubPipelineSteps : Prop :=
  (∀ (s : State) (x k tag : Nat) (u : Txn), s.cache.jobs = [] → (portOf s x).fetches.find? (fun f => !f.sent) = none →
    (portOf s x).split = some ⟨tag, k, false⟩ → txnOf s x tag = some u → loopDepth s x ≠ 2 →
    rimRefusal s (lineAccess s x u k).layer (lineAccess s x u k).rim (lineAccess s x u k).policy = none →
    u.req.form ≠ 3 → u.req.op ≠ 0 ∨ returnUsed s x + readBytes u ≤ returnSize x → poolRoom s (lineAccess s x u k) = true →
    ∃ t, exec (.splitRelease x) s = .next t ∧
      t.hub.flight = s.hub.flight ++ [{ lineAccess s x u k with seq := s.hub.seqCtr, loc := .pool, pooled := true }] ∧
      ∀ sp, (portOf t x).split = some sp → k < sp.next ∨ sp.scaleNext = true) ∧
  (∀ (s : State) (layer sector : Nat) (a : Access), sector < 4 → poolOf s (4 * layer + sector) = [a] →
    rimRefusal s a.layer a.rim a.policy = none → rimWaits s a.layer a.rim = false → s.hub.paused = false →
    spokeUp s (4 * layer + sector) = true → heldBack s a = false → stopped s (arbUp (4 * layer + sector)) a = false →
    roomIn s (arbRim a.layer a.rim) 48 32 (rimPlaces s a.layer a.rim) a = true →
    ∃ t, exec (.upwardArbitration layer sector) s = .next t ∧
      t.hub.flight = s.hub.flight.map fun b => if b.seq = a.seq then { a with loc := .rim, sent := true } else b) ∧
  (∀ (s : State) (layer sector : Nat) (a : Access), sector < 4 → spokeUp s (4 * layer + sector) = true →
    (inLoc s .out).filter (fun b => b.sector == 4 * layer + sector) = [a] → stopped s (arbDown (4 * layer + sector)) a = false →
    ∃ t, exec (.downwardArbitration layer sector) s = .next t ∧
      t.hub.flight = s.hub.flight.map fun b => if b.seq = a.seq then { a with loc := .merge, sent := true } else b) ∧
  (∀ (s : State) (a : Access), s.hub.flight.find? (fun b => b.seq == a.seq && b.loc == .merge) = some a →
    (s.hub.flight.any fun b => b.obs == a.obs && decide (b.seq < a.seq) && common a b) = false → a.unitSrc = true →
    ∃ t, exec (.planeMerge a.seq) s = .next t ∧ t.hub.flight = s.hub.flight.filter (fun b => b.seq != a.seq) ∧
      t.hub.answers = s.hub.answers ++ [a.answer])

/-- One pc of a rim that is ON and holds one access alone, of a queue and eligible there (R180). A write of whole segments is granted and goes to
the merge with its data, while the ports, the handles and the mover channels are untouched (R55). A read that the output stage has room for
is granted and goes there (R175). A read-modify-write, where the reservation is not put off, is granted, and reserves its write half
(R56). A reserved half at a rim that holds nothing is performed, and its access goes to the merge (R56). Every other access in flight stays
where it is. -/
def Obligations.RimGrantsOneWrite : Prop :=
  (∀ (s : State) (layer rim : Nat) (a : Access), onlyAt s layer rim a → (rimOf s layer (physOf s layer rim)).half = none →
    a.op = .write → a.pmask = 0 → (∀ x ∈ a.segs, x.mask = fullMask) →
    ∃ t, exec (.rimArbitration layer rim) s = .next t ∧
      (∀ b ∈ t.hub.flight, b.seq = a.seq → b.loc = .merge ∧ b.segs = a.segs ∧ b.status = a.status) ∧
      (t.hub.flight.filter (fun b => b.seq != a.seq)).map (fun b => (b.seq, b.loc)) =
        ((s.hub.flight.filter (fun b => b.seq != a.seq)).map fun b => (b.seq, b.loc)) ∧
      t.ports = s.ports ∧ t.handles = s.handles ∧ t.chans = s.chans) ∧
  (∀ (s : State) (layer rim : Nat) (a : Access), onlyAt s layer rim a → (rimOf s layer (physOf s layer rim)).half = none →
    a.op = .read → roomIn s (arbRim layer rim) 8 4 (outStage s layer rim) a = true →
    ∃ t, exec (.rimArbitration layer rim) s = .next t ∧ (∀ b ∈ t.hub.flight, b.seq = a.seq → b.loc = .out) ∧
      (t.hub.flight.filter (fun b => b.seq != a.seq)).map (fun b => (b.seq, b.loc)) =
        (s.hub.flight.filter (fun b => b.seq != a.seq)).map fun b => (b.seq, b.loc)) ∧
  (∀ (s : State) (layer rim : Nat) (a : Access), onlyAt s layer rim a → (rimOf s layer (physOf s layer rim)).half = none →
    a.rmw s = true → (rimOf s layer (physOf s layer rim)).norm = false →
    ∃ t, exec (.rimArbitration layer rim) s = .next t ∧ (∀ b ∈ t.hub.flight, b.seq = a.seq → b.loc = .half) ∧
      (rimOf t layer (physOf s layer rim)).half.map (·.seq) = some a.seq ∧
      (t.hub.flight.filter (fun b => b.seq != a.seq)).map (fun b => (b.seq, b.loc)) =
        (s.hub.flight.filter (fun b => b.seq != a.seq)).map fun b => (b.seq, b.loc)) ∧
  (∀ (s : State) (layer rim : Nat) (a : Access) (h : RmwHalf), rimReady s layer rim → rimEntries s layer rim = [] →
    (rimOf s layer (physOf s layer rim)).half = some h → s.hub.flight.find? (fun b => b.seq == h.seq) = some a →
    ∃ t, exec (.rimArbitration layer rim) s = .next t ∧ (rimOf t layer (physOf s layer rim)).half = none ∧
      (∀ b ∈ t.hub.flight, b.seq = h.seq → b.loc = .merge) ∧
      t.hub.flight.filter (fun b => b.seq != h.seq) = s.hub.flight.filter (fun b => b.seq != h.seq))

/-- A hard fault of a plane in service beside a working one (R189): the plane reads FAILED and the other ACTIVE, a running change
ends, sending stops, FO_CNT rises, and every access with a half on the failed plane is at the merge with FAULT. Once rerouted, the
device runs on the other plane and sends again. A PLANE_CTL bit written (R191): an ACTIVE plane beside an ACTIVE one starts
DRAINING, an OFFLINE plane REJOINING, and sending stops; while a change runs the write is refused. When nothing is left on the planes
the change ends: OFFLINE or ACTIVE, the mode that goes with it, and sending resumes. -/
def Obligations.PlaneChanges : Prop :=
  (∀ (s : State) (p cause m : Nat), p < 2 → planeState s p ≠ 3 → planeState s p ≠ 2 → planeState s (1 - p) < 2 → parked s = false →
    ∃ t, exec (.planeFault p cause m) s = .next t ∧ planeState t p = 3 ∧ planeState t (1 - p) = 0 ∧ t.hub.paused = true ∧
      t.hub.change = none ∧ t.get pgHUB HUB_PLANE_STAT_FO_CNT = min (s.get pgHUB HUB_PLANE_STAT_FO_CNT + 1) 255 ∧
      ∀ a ∈ s.hub.flight, onPlane s p a = true → ∀ b ∈ t.hub.flight, b.seq = a.seq → b.loc = .merge ∧ b.status = stFAULT) ∧
  (∀ (s : State) (p : Nat), p < 2 → planeState s p = 3 → planeState s (1 - p) ≠ 3 → s.hub.paused = true → s.hub.change = none →
    parked s = false →
    ∃ t, exec .failoverResume s = .next t ∧ t.hub.paused = false ∧ t.get pgHUB HUB_PLANE_STAT_MODE = 2 - p) ∧
  (∀ (s : State) (m : Master) (p : Nat), mayWrite s m pgHUB HUB_PLANE_CTL true = true → p < 2 → planeState s p = 0 →
    planeState s (1 - p) = 0 → s.hub.change = none → s.hub.paused = false →
    ∃ t, exec (.planeTakeOut m p) s = .next t ∧ planeState t p = 1 ∧ t.hub.paused = true ∧ t.hub.change = some (p, true)) ∧
  (∀ (s : State) (m : Master) (p : Nat), mayWrite s m pgHUB HUB_PLANE_CTL true = true → p < 2 → planeState s p = 2 →
    s.hub.change = none → s.hub.paused = false →
    ∃ t, exec (.planeReturn m p) s = .next t ∧ planeState t p = 4 ∧ t.hub.paused = true ∧ t.hub.change = some (p, false)) ∧
  (∀ (s : State) (m : Master) (p : Nat), mayWrite s m pgHUB HUB_PLANE_CTL true = true → p < 2 → planeState s p = 0 →
    s.hub.change.isSome = true →
    ∃ t, exec (.planeTakeOut m p) s = .next t ∧ planeState t p = 0 ∧ t.hub = s.hub ∧ t.get pgHUB HUB_PLANE_STAT_REFUSED = 1) ∧
  (∀ (s : State) (p : Nat) (out : Bool), s.hub.change = some (p, out) → (∀ a ∈ s.hub.flight, a.sent = false) →
    ∃ t, exec .planeChangeDone s = .next t ∧ planeState t p = (if out then 2 else 0) ∧ t.hub.paused = false ∧
      t.hub.change = none ∧ t.get pgHUB HUB_PLANE_STAT_MODE = (if out then (if p = 0 then 2 else 1) else 0))

/-- At a TID's window boundary SPENT falls by BUDGET, not below 0 (R200, R201). The Brake state and class of a TID reach an arbiter
(R206). A write of an entry of the TID table sets BUDGET, or FORCE, CLASS and SHARE; under LOCK it changes nothing of the entry and
LOCK_VIOL reads 1 (R209, R218). TABLE_SIG becomes the signature of the table (R219). TSTEP.STEP is written; a write of PREEMPT counts
a preemption of its TID (R211, R212). SNAP_CTL.GO freezes a TID's counters and BUSY reads 1, or sets SNAP_OVR while a snapshot runs;
its end lowers BUSY (R216). HAPPLY takes rising edges and clears every bin, or sets HIST_ERR (R214). LOCK locks (R218). -/
def Obligations.RegulationCommands : Prop :=
  (∀ (s : State) (t : Nat), t < 64 → Sp.get 0 s.regul.lastWin t / windowTicks s t < s.now / windowTicks s t →
    ∃ u, exec (.regulationWindowBoundary t) s = .next u ∧ u.get pgREGUL (REGUL_TSPENT_SPENT.at 16 t) =
      s.get pgREGUL (REGUL_TSPENT_SPENT.at 16 t) - s.get pgREGUL (REGUL_TBUD_BUDGET.at 16 t)) ∧
  (∀ (s : State) (t arb : Nat), t < 64 → arb < arbCount →
    ∃ u, exec (.brakeStateArrival t arb) s = .next u ∧ seenBy u arb t = (braked s t, tidClass s t) ∧ u.regs = s.regs) ∧
  (∀ (s : State) (m : Master) (t : Nat) (v : Word32), mayWrite s m pgREGUL (REGUL_TBUD + 16 * (t % 64)) true = true →
    regLocked s = false →
    ∃ u, exec (.tidConfigWrite m t true v) s = .next u ∧ u.get pgREGUL (REGUL_TBUD_BUDGET.at 16 (t % 64)) = v.toNat) ∧
  (∀ (s : State) (m : Master) (t : Nat) (v : Word32), mayWrite s m pgREGUL (REGUL_TCFG + 16 * (t % 64)) true = true →
    regLocked s = false →
    ∃ u, exec (.tidConfigWrite m t false v) s = .next u ∧ u.get pgREGUL (REGUL_TCFG_CLASS.at 16 (t % 64)) = REGUL_TCFG_CLASS.of v ∧
      u.get pgREGUL (REGUL_TCFG_SHARE.at 16 (t % 64)) = REGUL_TCFG_SHARE.of v ∧
      u.get pgREGUL (REGUL_TCFG_FORCE.at 16 (t % 64)) = REGUL_TCFG_FORCE.of v) ∧
  (∀ (s : State) (m : Master) (t : Nat) (v : Word32), mayWrite s m pgREGUL (REGUL_TCFG + 16 * (t % 64)) true = true →
    regLocked s = true →
    ∃ u, exec (.tidConfigWrite m t false v) s = .next u ∧ u.flag pgREGUL REGUL_REGUL_CTL_LOCK_VIOL = true ∧
      u.rd (pgREGUL + REGUL_TCFG + 16 * (t % 64)) = s.rd (pgREGUL + REGUL_TCFG + 16 * (t % 64))) ∧
  (∀ s : State, ∃ u, exec .tableSigUpdate s = .next u ∧ u.rd (pgREGUL + REGUL_TABLE_SIG) = BitVec.ofNat 32 (tableSig s)) ∧
  (∀ (s : State) (m : Master) (t step : Nat), mayWrite s m pgREGUL (REGUL_TSTEP + 16 * (t % 64)) true = true →
    ∃ u, exec (.stepWrite m t step) s = .next u ∧ tidStep u (t % 64) = step % 2 ^ 16) ∧
  (∀ (s : State) (m : Master) (t : Nat), mayWrite s m pgREGUL REGUL_PREEMPT true = true →
    ∃ u, exec (.preemptWrite m t) s = .next u ∧ (tidOf u (t % 64)).preempt = sat32 ((tidOf s (t % 64)).preempt + 1)) ∧
  (∀ (s : State) (m : Master) (t : Nat) (c : Bool), mayWrite s m pgREGUL REGUL_SNAP_CTL false = true → s.regul.snap = none →
    ∃ u, exec (.snapshotGo m t c) s = .next u ∧ u.flag pgREGUL REGUL_SNAP_CTL_BUSY = true ∧
      u.regul.snap = some (t % 64, tidStep s (t % 64), s.now, tidOf s (t % 64))) ∧
  (∀ (s : State) (m : Master) (t : Nat) (c : Bool), mayWrite s m pgREGUL REGUL_SNAP_CTL false = true → s.regul.snap.isSome = true →
    ∃ u, exec (.snapshotGo m t c) s = .next u ∧ u.flag pgREGUL REGUL_SNAP_CTL_SNAP_OVR = true ∧ u.regul = s.regul) ∧
  (∀ (s : State), s.regul.snap.isSome = true →
    ∃ u, exec .snapshotDone s = .next u ∧ u.flag pgREGUL REGUL_SNAP_CTL_BUSY = false ∧ u.regul = { s.regul with snap := none }) ∧
  (∀ (s : State) (m : Master), mayWrite s m pgREGUL REGUL_REGUL_CTL false = true → regLocked s = false →
    risingList (stagedEdges s) = true →
    ∃ u, exec (.happly m) s = .next u ∧ u.regul.edges = stagedEdges s ∧ ∀ t, (tidOf u t).hist = []) ∧
  (∀ (s : State) (m : Master), mayWrite s m pgREGUL REGUL_REGUL_CTL false = true → regLocked s = false →
    risingList (stagedEdges s) = false →
    ∃ u, exec (.happly m) s = .next u ∧ u.flag pgREGUL REGUL_REGUL_CTL_HIST_ERR = true ∧ u.regul = s.regul) ∧
  (∀ (s : State) (m : Master), mayWrite s m pgREGUL REGUL_REGUL_CTL false = true →
    ∃ u, exec (.lock m) s = .next u ∧ regLocked u = true)

/-- HCMD written while no command runs (R87, R88, R97): an INSTALL, MODIFY, RETIRE or CLEAR whose checks pass begins, with the staged
descriptor and BUSY 1; a MODIFY puts its descriptor in force and a RETIRE makes its handle DRAINING. A READ is over at once, with BUSY 0, and
RD_HANDLE names the handle and its generation (R99). A command whose check fails ends at once with that RESULT and changes no
descriptor (R89, R91). While a command runs, a write is ignored and sets OVERRUN (R87). -/
def Obligations.HandleCommandsStart : Prop :=
  (∀ (s : State) (m : Master) (h : Nat) (ov ic : Bool), mayWrite s m pgHCMD HANDLE_CMD_HCMD true = true → s.hcmd = none → h < 512 →
    hcmdCheck (s.hcmdFields (hcmdWord 1 h ov ic)) 1 h ov = hrOK →
    ∃ t, exec (.handleInstall m h ov ic) s = .next t ∧ t.flag pgHCMD HANDLE_CMD_HCMD_STAT_BUSY = true ∧
      t.hcmd = some ⟨1, h, 0, ic, stagedDesc (s.hcmdFields (hcmdWord 1 h ov ic)), s.hub.accCtr⟩ ∧ t.handles = s.handles) ∧
  (∀ (s : State) (m : Master) (h : Nat), mayWrite s m pgHCMD HANDLE_CMD_HCMD true = true → s.hcmd = none → h < 512 →
    hcmdCheck (s.hcmdFields (hcmdWord 2 h false false)) 2 h false = hrOK →
    ∃ t, exec (.handleModify m h) s = .next t ∧ t.flag pgHCMD HANDLE_CMD_HCMD_STAT_BUSY = true ∧
      t.handles = Sp.set s.handles h (stagedDesc (s.hcmdFields (hcmdWord 2 h false false)))) ∧
  (∀ (s : State) (m : Master) (h : Nat), mayWrite s m pgHCMD HANDLE_CMD_HCMD true = true → s.hcmd = none → h < 512 →
    hcmdCheck (s.hcmdFields (hcmdWord 3 h false false)) 3 h false = hrOK →
    ∃ t, exec (.handleRetire m h) s = .next t ∧ handleState t h = 2 ∧ t.handles = s.handles ∧ t.hcmd.map (·.op) = some 3) ∧
  (∀ (s : State) (m : Master) (h : Nat), mayWrite s m pgHCMD HANDLE_CMD_HCMD true = true → s.hcmd = none → h < 512 →
    hcmdCheck (s.hcmdFields (hcmdWord 4 h false false)) 4 h false = hrOK →
    ∃ t, exec (.handleClear m h) s = .next t ∧ t.flag pgHCMD HANDLE_CMD_HCMD_STAT_BUSY = true ∧ t.hcmd.map (·.handle) = some h ∧
      t.handles = s.handles) ∧
  (∀ (s : State) (m : Master) (h : Nat), mayWrite s m pgHCMD HANDLE_CMD_HCMD true = true → s.hcmd = none → h < 512 →
    ∃ t, exec (.handleRead m h) s = .next t ∧ t.flag pgHCMD HANDLE_CMD_HCMD_STAT_BUSY = false ∧ t.hcmd = none ∧
      t.get pgHREAD HANDLE_READ_RD_HANDLE_HANDLE = h) ∧
  (∀ (s : State) (m : Master) (h : Nat) (ov ic : Bool), mayWrite s m pgHCMD HANDLE_CMD_HCMD true = true → s.hcmd = none → h < 512 →
    hcmdCheck (s.hcmdFields (hcmdWord 1 h ov ic)) 1 h ov ≠ hrOK →
    ∃ t, exec (.handleInstall m h ov ic) s = .next t ∧ t.hcmd = none ∧ t.handles = s.handles ∧
      t.get pgHCMD HANDLE_CMD_HCMD_STAT_RESULT = hcmdCheck (s.hcmdFields (hcmdWord 1 h ov ic)) 1 h ov) ∧
  (∀ (s : State) (m : Master) (h : Nat) (ov ic : Bool), mayWrite s m pgHCMD HANDLE_CMD_HCMD true = true → s.hcmd.isSome = true →
    ∃ t, exec (.handleInstall m h ov ic) s = .next t ∧ t.hcmd = s.hcmd ∧ t.handles = s.handles ∧
      t.flag pgHCMD HANDLE_CMD_HCMD_STAT_OVERRUN = true)

/-- The class map of an INSTALL is written: its frames take the class of the descriptor, and its clear begins (R76, R92). The clear
ends: the generation rises by one modulo 256, the handle is LIVE under its descriptor, and BUSY reads 0 (R68, R92). A CLEAR, at rims with no
write half outstanding, clears every valid bit of the handle's frames and no other, and it and a MODIFY end with BUSY 0 (R88, R93). A DRAINING handle under which nothing runs is FREE and has no descriptor (R95). -/
def Obligations.HandleCommandsEnd : Prop :=
  (∀ (s : State) (c : HandleCmd), s.hcmd = some c → c.op = 1 → c.stage = 0 →
    ∃ t, exec .installClassMapDone s = .next t ∧ t.hcmd = some { c with stage := 1 } ∧
      t.array.cls = (c.desc.span, c.desc.clsD) :: s.array.cls ∧ t.array.clear.isSome = true) ∧
  (∀ (s : State) (c : HandleCmd) (j : ClearJob), s.hcmd = some c → s.array.clear = some j → c.op = 1 → c.stage = 1 → c.handle < 512 →
    ∃ t, exec .installDone s = .next t ∧ handleState t c.handle = 1 ∧
      handleGen t c.handle = (handleGen s c.handle + 1) % 256 ∧ t.handles = Sp.set s.handles c.handle c.desc ∧
      t.flag pgHCMD HANDLE_CMD_HCMD_STAT_BUSY = false ∧ t.hcmd = none ∧ t.array.clear = none) ∧
  (∀ (s : State) (c : HandleCmd) (d : Desc), s.hcmd = some c → c.op = 4 → descOf s c.handle = some d →
    (∀ x ∈ d.rims, (rimOf s x.1 (physOf s x.1 x.2)).half = none) →
    ∃ t, exec .clearDone s = .next t ∧ t.flag pgHCMD HANDLE_CMD_HCMD_STAT_BUSY = false ∧ t.hcmd = none ∧ t.handles = s.handles ∧
      t.array.validA = s.array.validA.filter fun w =>
        !frameHit s (fun layer f => d.span.has layer f) (idxLayer w) (idxRim w) (idxSlot w)) ∧
  (∀ (s : State) (c : HandleCmd), s.hcmd = some c → c.op = 2 → underHandle s c.handle c.before = false → rimsSettled s c.desc = true →
    ∃ t, exec .modifyDone s = .next t ∧ t.flag pgHCMD HANDLE_CMD_HCMD_STAT_BUSY = false ∧ t.hcmd = none ∧ t.handles = s.handles ∧
      t.array = s.array) ∧
  (∀ (s : State) (c : HandleCmd), s.hcmd = some c → c.op = 3 → underHandle s c.handle s.hub.accCtr = false → c.handle < 512 →
    ∃ t, exec .handleFreed s = .next t ∧ handleState t c.handle = 0 ∧ t.handles = Sp.del s.handles c.handle ∧ t.hcmd = none ∧
      t.flag pgHCMD HANDLE_CMD_HCMD_STAT_BUSY = false)

/-- The end of an INSTALL, which runs for a handle that was FREE when it began, leaves the handle LIVE with its generation one higher
modulo 256: 1 after the first since reset, when every handle of 1 to 511 is FREE with generation 0, and 0 after 255 (R68, R66). -/
def Obligations.InstallGeneration : Prop :=
  (∀ (s : State) (c : HandleCmd) (j : ClearJob), s.hcmd = some c → s.array.clear = some j → c.op = 1 → c.stage = 1 → c.handle < 512 →
    ∃ t, exec .installDone s = .next t ∧ handleState t c.handle = 1 ∧ handleGen t c.handle = (handleGen s c.handle + 1) % 256 ∧
      (handleGen s c.handle = 255 → handleGen t c.handle = 0)) ∧
  (∀ h : Nat, 1 ≤ h → h < 512 → handleState State.reset h = 0 ∧ handleGen State.reset h = 0)

/-- A write of RA_PUSH puts the staged record at the end of an ENABLED queue that holds fewer than sixteen records, and is refused with
REJ, changing no queue, where the queue is full (R236, R262). Setting a QEN bit enables a DISABLED queue; clearing it makes an ENABLED
queue DRAINING, and its running record stays (R262). A DRAINING queue with no record left reads DISABLED, or ENABLED where its bit is
set again (R262). A read of Qq_CPL removes the oldest completion entry and answers it (R264). -/
def Obligations.OperationQueues : Prop :=
  (∀ (s : State) (m : Master) (q : Nat), mayWrite s m pgRIMALU RIMALU_RA_PUSH false = true → q < 4 → raState s q = 1 →
    (raqOf s q).recs.length < 16 →
    ∃ t, exec (.raPush m q) s = .next t ∧ (raqOf t q).recs = (raqOf s q).recs ++
      [{ words := (List.range 16).map fun n => (s.rd (pgRIMALU + RIMALU_OPREC0 + 4 * n)).toNat, chan := none }]) ∧
  (∀ (s : State) (m : Master) (q : Nat), mayWrite s m pgRIMALU RIMALU_RA_PUSH false = true → q < 4 → 16 ≤ (raqOf s q).recs.length →
    ∃ t, exec (.raPush m q) s = .next t ∧ t.raq = s.raq ∧ t.flag pgRIMALU (RIMALU_Q_STAT_REJ.at 32 q) = true) ∧
  (∀ (s : State) (m : Master) (q : Nat), mayWrite s m pgRIMALU RIMALU_RA_CTL true = true → q < 4 → raState s q = 0 →
    ∃ t, exec (.queueEnable m q) s = .next t ∧ raState t q = 1 ∧ t.raq = s.raq) ∧
  (∀ (s : State) (m : Master) (q : Nat), mayWrite s m pgRIMALU RIMALU_RA_CTL true = true → q < 4 → raState s q = 1 →
    (raqOf s q).recs.all (·.started) = true →
    ∃ t, exec (.queueDisable m q) s = .next t ∧ raState t q = 2 ∧ t.raq = s.raq) ∧
  (∀ (s : State) (q : Nat), q < 4 → raState s q = 2 → (raqOf s q).recs.isEmpty = true →
    ∃ t, exec (.queueDrainDone q) s = .next t ∧ raState t q = b2n (bit (s.get pgRIMALU RIMALU_RA_CTL_QEN) q) ∧ t.raq = s.raq) ∧
  (∀ (s : State) (m : Master) (q r k : Nat) (f : Option Nat) (l : List (Nat × Nat × Option Nat)), q < 4 →
    fabricOpen s m ⟨.rimalu, 0, pgRIMALU⟩ = true → readPath s m ⟨.rimalu, 0, pgRIMALU⟩ = true → raState s q = 1 →
    (raqOf s q).cpl = (r, k, f) :: l →
    ∃ t, exec (.qcplRead m q) s = .next t ∧ (raqOf t q).cpl = l ∧
      Sp.get [] t.reply m.code = [(2 ^ 31 + r % 16 * 2 ^ 20 + k % 2 ^ 16, 0)])

/-- The record at the head of an ENABLED queue starts, and takes the POWER, OVF and SROUND of its handles (R88, R236, R243). Where a check of
R240, R254 or R261 fails, it stops with that RESULT and the array is as before. A NOP that passes has nothing left to do. One whose first
chunk is not admitted waits, and no step of it is sent (R259). A KERNEL whose first chunk is admitted has its first steps, at most
64, in flight (R242, R246). A ZERO of one line clears the line's valid bits (R223), a FILL of one line writes its pattern there (R224),
and a COPY of one line within a sector writes there what the rims return for the line of A (R244), each where the chunk is admitted and
the rims serve the accesses at once. -/
def Obligations.RecordsStart : Prop :=
  (∀ k c, (k, c) ∈ recordKinds → ∀ (s : State) (q : Nat) (r : RaRec), canStart s q k r → recordCheck s r ≠ 0 →
    ∃ t, exec (c q) s = .next t ∧ t.array = s.array ∧
      raHead t q = some { begun s r with stop := true, status := recordCheck s r }) ∧
  (∀ (s : State) (q : Nat) (r : RaRec), canStart s q 0 r → recordCheck s r = 0 → r.kind = 0 →
    ∃ t, exec (.oprecNop q) s = .next t ∧ t.array = s.array ∧
      raHead t q = some { begun s r with next := r.steps, upTo := r.steps }) ∧
  (∀ k c, (k, c) ∈ recordKinds → 1 ≤ k → ∀ (s : State) (q : Nat) (r : RaRec), canStart s q k r → recordCheck s r = 0 →
    firstAdmitted s q = false →
    ∃ t, exec (c q) s = .next t ∧ t.array = s.array ∧
      raHead t q = some { begun s r with upTo := r.next + min 4096 (r.steps - r.next) }) ∧
  (∀ (s : State) (q : Nat) (r : RaRec), canStart s q 4 r → recordCheck s r = 0 → firstAdmitted s q = true →
    r.stop = false → r.fly = [] → r.next = 0 →
    ∃ t, exec (.oprecKernel q) s = .next t ∧ (raHead t q).map (·.fly) = some (List.range (min 64 (min 4096 r.steps)))) ∧
  (∀ (s S : State) (q : Nat) (r u : RaRec) (d : LineAt), canStart s q 1 r → recordCheck s r = 0 → firstAdmitted s q = true →
    r.stop = false → r.fly = [] → r.steps = 1 → r.next = 0 → S = recordSent s q → raHead S q = some u → d = walkLine S u.opD 0 →
    (S.tryNew u.tid d.layer d.frame (u.pol S u.opD.handle)).1 = .go →
    ∃ t, exec (.oprecZero q) s = .next t ∧ t.array = ((S.settle d.layer d.rim).clearLine d).array) ∧
  (∀ (s S v : State) (q : Nat) (r u : RaRec) (d : LineAt), canStart s q 2 r → recordCheck s r = 0 → firstAdmitted s q = true →
    r.stop = false → r.fly = [] → r.steps = 1 → r.next = 0 → S = recordSent s q → raHead S q = some u → d = walkLine S u.opD 0 →
    S.tryAcc (lineClaim S q 0 u d .write (u.pol S u.opD.handle)) = (.go, v) →
    ∃ t, exec (.oprecFill q) s = .next t ∧ t.array = (v.raWrite u d u.fill).array) ∧
  (∀ (s S v w z : State) (q data : Nat) (r u : RaRec) (d a : LineAt), canStart s q 3 r → recordCheck s r = 0 → firstAdmitted s q = true →
    r.stop = false → r.fly = [] → r.steps = 1 → r.next = 0 → S = recordSent s q → raHead S q = some u → d = walkLine S u.opD 0 →
    S.tryAcc (lineClaim S q 0 u d .write (u.pol S u.opD.handle)) = (.go, v) → a = walkLine S u.opA 0 → a.sector = d.sector →
    v.tryAcc (lineClaim v q 0 u a .read (u.pol v u.opA.handle)) = (.go, w) → w.raRead u a = (stOK, data, z) →
    ∃ t, exec (.oprecCopy q) s = .next t ∧ t.array = (z.raWrite u d data).array)

/-- A started record with all steps of its chunk finished and more to do asks for the next chunk, of at most 4,096 steps, and sends none
of them while the chunk is not admitted; a KERNEL record with an admitted chunk sends its next steps while fewer than 64 are in flight
(R242, R259). Reduce words that fill a segment, or any once the operation has ended, are written to operand B with the mask of their
bytes and leave the queue (R253). A record with nothing left to send, in flight, in a write buffer or to write completes: it leaves its queue and its
RESULT, SEQ and failed step are the newest completion entry (R242). KCTL.LOAD of a body without an error gives the slot the staged
instructions and sets its VALID bit; with an error it sets KERR and changes no slot (R247). -/
def Obligations.RecordsRun : Prop :=
  (∀ (s : State) (q : Nat) (r : RaRec), q < 4 → raHead s q = some r → r.started = true → r.stop = false → r.upTo ≤ r.next → r.next < r.steps →
    r.fly = [] → (chunkOf (s.nextChunk q) (raOwner q)).any (·.adm) = false →
    ∃ t, exec (.recordChunkAdmission q) s = .next t ∧ raHead t q = some { r with upTo := r.next + min 4096 (r.steps - r.next) }) ∧
  (∀ (s : State) (q : Nat) (r : RaRec), q < 4 → raHead s q = some r → r.started = true → r.stop = false → r.next < r.upTo →
    r.kind = 4 → (chunkOf s (raOwner q)).any (·.adm) = true →
    ∃ t, exec (.recordChunkAdmission q) s = .next t ∧
      raHead t q = some { r with
        fly := r.fly ++ (List.range (min (64 - r.fly.length) (r.upTo - r.next))).map (r.next + ·),
        next := r.next + min (64 - r.fly.length) (r.upTo - r.next) }) ∧
  (∀ (s u w : State) (q g row col : Nat) (r : RaRec) (l : LineAt), q < 4 → raHead s q = some r → reduceReady r = some g →
    wordLine s r.opB (8 * g) = (l, row, col) →
    s.tryAcc (segClaim s (raUnit q (((r.red.filter fun e => e.1 / 8 == g).map (·.1)).headD 0)) r l.layer l.frame row col .write
      (BitVec.ofNat 32 ((r.red.filter fun e => e.1 / 8 == g).foldl (fun a e => a + 15 * 2 ^ (4 * (e.1 % 8))) 0))
      (r.pol s r.opB.handle)) = (.go, u) →
    directWrite u l.layer l.frame [⟨row, col,
      BitVec.ofNat 256 ((r.red.filter fun e => e.1 / 8 == g).foldl (fun a e => a + e.2 * 2 ^ (32 * (e.1 % 8))) 0),
      BitVec.ofNat 32 ((r.red.filter fun e => e.1 / 8 == g).foldl (fun a e => a + 15 * 2 ^ (4 * (e.1 % 8))) 0)⟩] r.tid = (0, w) →
    ∃ t, exec (.reduceSegmentWrite q) s = .next t ∧ t.array = w.array ∧
      raHead t q = some { r with red := r.red.filter fun e => e.1 / 8 != g }) ∧
  (∀ (s : State) (q : Nat) (r : RaRec), q < 4 → raHead s q = some r → r.quiet = true → r.red = [] → (raqOf s q).cpl.length < 16 →
    writing s q = false →
    ∃ t, exec (.recordComplete q) s = .next t ∧ (raqOf t q).recs = (raqOf s q).recs.tail ∧
      (raqOf t q).cpl = (raqOf s q).cpl ++ [(r.status, r.seq, r.fail)]) ∧
  (∀ (s : State) (m : Master) (k n : Nat), mayWrite s m pgRIMALU RIMALU_KCTL true = true → s.cfg.optA = true → k < 8 → n < 16 →
    slotInUse s k = false → kernelErr ((List.range (n + 1)).map fun i => (s.rd (pgRIMALU + RIMALU_KSTAGE + 4 * i)).toNat) = 0 →
    ∃ t, exec (.kernelLoad m k n) s = .next t ∧ Sp.get 0 t.klen k = n + 1 ∧ t.get pgRIMALU ⟨RIMALU_KSLOT_STAT, k, k⟩ = 1 ∧
      ∀ i ≤ n, kInstr t k i = (s.rd (pgRIMALU + RIMALU_KSTAGE + 4 * i)).toNat) ∧
  (∀ (s : State) (m : Master) (k n : Nat), mayWrite s m pgRIMALU RIMALU_KCTL true = true → s.cfg.optA = true → k < 8 → n < 16 →
    slotInUse s k = false → kernelErr ((List.range (n + 1)).map fun i => (s.rd (pgRIMALU + RIMALU_KSTAGE + 4 * i)).toNat) ≠ 0 →
    ∃ t, exec (.kernelLoad m k n) s = .next t ∧ t.klen = s.klen ∧ t.get pgRIMALU RIMALU_KCTL_KERR =
      kernelErr ((List.range (n + 1)).map fun i => (s.rd (pgRIMALU + RIMALU_KSTAGE + 4 * i)).toNat) ∧ ∀ i < 16, kInstr t k i = kInstr s k i)

/-- A kernel step runs at a rim's ALU and its next instruction is not the last: the instruction issues and the next one follows it (R246,
R255). NOP changes nothing else. ADD, MUL, FMA, MIN, MAX and CLIP give DST the results of its lanes and leave the other register (R249,
R250). CVT gives DST the converted elements (R251). RSUM and RMAX make the step's word the sum or the largest of the lanes of SA, in
the accumulating format, and change no register (R250). LDA and LDB give DST the line that the rims return, and ST puts SA's line for
D's walk line into one of the rim's two write buffers, where a place is free, and goes on; a rim that would choose the line now serves it at
once (R249, R255), where the operand is not MX. After the last
instruction of a body the ALU runs no step (R246, R255); a step whose lines still wait in a write buffer is not finished (R252). -/
def Obligations.KernelInstructions : Prop :=
  (∀ (s : State) (c : KCtx) (ins : Nat), kernelAt s c ins → notLast s c → kiOpc ins = 0 →
    ∃ t, exec (.kiNop c.layer c.i) s = .next t ∧ t.array = s.array ∧
      rimOf t c.layer c.p = { rimOf s c.layer c.p with kpc := (rimOf s c.layer c.p).kpc + 1 }) ∧
  (∀ opc cmd f, (opc, cmd, f) ∈ laneOps → ∀ (s : State) (c : KCtx) (ins : Nat), kernelAt s c ins → notLast s c → kiOpc ins = opc →
    ∃ t, exec (cmd c.layer c.i) s = .next t ∧ t.array = s.array ∧
      (rimOf t c.layer c.p).kpc = (rimOf s c.layer c.p).kpc + 1 ∧
      aluReg (rimOf t c.layer c.p) (kiDst ins) = lanesOut s c ins (f c ins) ∧
      aluReg (rimOf t c.layer c.p) (!kiDst ins) = aluReg (rimOf s c.layer c.p) (!kiDst ins)) ∧
  (∀ (s : State) (c : KCtx) (ins : Nat), kernelAt s c ins → notLast s c → kiOpc ins = 10 →
    ∃ t, exec (.kiCvt c.layer c.i) s = .next t ∧ t.array = s.array ∧
      (rimOf t c.layer c.p).kpc = (rimOf s c.layer c.p).kpc + 1 ∧
      aluReg (rimOf t c.layer c.p) (kiDst ins) = (cvtReg ins (aluReg (rimOf s c.layer c.p) (kiSa ins)) (aluScale (rimOf s c.layer c.p) (kiSa ins))
        (aluReg (rimOf s c.layer c.p) (kiDst ins)) (aluScale (rimOf s c.layer c.p) (kiDst ins)) (c.r.cap s c.r.opD.handle).2.1
        (c.r.cap s c.r.opD.handle).2.2 (rimOf s c.layer c.p).kseed).1 ∧
      aluReg (rimOf t c.layer c.p) (!kiDst ins) = aluReg (rimOf s c.layer c.p) (!kiDst ins)) ∧
  (∀ (s : State) (c : KCtx) (ins : Nat), kernelAt s c ins → notLast s c → kiOpc ins = 11 → aluBad s c (kiSa ins) = false →
    ∃ t, exec (.kiRsum c.layer c.i) s = .next t ∧ t.array = s.array ∧
      rimOf t c.layer c.p = { rimOf s c.layer c.p with kpc := (rimOf s c.layer c.p).kpc + 1, kword := some (laneOf (if laneFloat (kiFmt ins) then 8 else 3)
        (sumVals ((elems (fmtWidth (kiFmt ins)) (4096 / fmtWidth (kiFmt ins)) (aluReg (rimOf s c.layer c.p) (kiSa ins))).map (elemValue (kiFmt ins))))).code }) ∧
  (∀ (s : State) (c : KCtx) (ins : Nat), kernelAt s c ins → notLast s c → kiOpc ins = 12 → aluBad s c (kiSa ins) = false →
    ∃ t, exec (.kiRmax c.layer c.i) s = .next t ∧ t.array = s.array ∧
      rimOf t c.layer c.p = { rimOf s c.layer c.p with kpc := (rimOf s c.layer c.p).kpc + 1, kword := some (laneOf (if laneFloat (kiFmt ins) then 8 else 3)
        (maxVals ((elems (fmtWidth (kiFmt ins)) (4096 / fmtWidth (kiFmt ins)) (aluReg (rimOf s c.layer c.p) (kiSa ins))).map (elemValue (kiFmt ins))))).code }) ∧
  (∀ cmd opc o, (cmd, opc, o) ∈ [(Instr.kiLda, 1, RaRec.opA), (Instr.kiLdb, 2, RaRec.opB)] →
    ∀ (s u w : State) (c : KCtx) (ins v : Nat) (l : LineAt), kernelAt s c ins → notLast s c → kiOpc ins = opc → plainOp s (o c.r) →
    l = walkLine s (o c.r) (2 ^ (o c.r).mul * c.step + kiJ ins) → crossHeld s l (walkLine s c.r.opD (2 ^ c.r.opD.mul * c.step)) = false →
    s.tryAcc (lineClaim s c.q c.step c.r l .read (c.r.pol s (o c.r).handle)) = (.go, u) → u.raRead c.r l = (stOK, v, w) →
    ∃ t, exec (cmd c.layer c.i) s = .next t ∧ t.array = w.array ∧
      (rimOf t c.layer c.p).kpc = (rimOf s c.layer c.p).kpc + 1 ∧ aluReg (rimOf t c.layer c.p) (kiDst ins) = v) ∧
  (∀ (s u : State) (c : KCtx) (ins : Nat) (l : LineAt), kernelAt s c ins → notLast s c → kiOpc ins = 3 → plainOp s c.r.opD →
    aluBad s c (kiSa ins) = false → buffered s c < 2 → l = walkLine s c.r.opD (2 ^ c.r.opD.mul * c.step + kiJ ins) →
    (s.tryRim c.r.tid l.layer l.frame (c.r.pol s c.r.opD.handle)).1 = .go → u = inBuffer s c ins l →
    wins u l.layer l.rim s.hub.seqCtr = true →
    ∃ t, exec (.kiSt c.layer c.i) s = .next t ∧ (rimOf t c.layer c.p).kpc = (rimOf s c.layer c.p).kpc + 1 ∧
      t.array = (rimArb u l.layer l.rim).array) ∧
  (∀ (s u : State) (c : KCtx) (ins : Nat) (l : LineAt), kernelAt s c ins → notLast s c → kiOpc ins = 3 → plainOp s c.r.opD →
    aluBad s c (kiSa ins) = false → buffered s c < 2 → l = walkLine s c.r.opD (2 ^ c.r.opD.mul * c.step + kiJ ins) →
    s.tryRim c.r.tid l.layer l.frame (c.r.pol s c.r.opD.handle) = (.wait, u) ∨
      (s.tryRim c.r.tid l.layer l.frame (c.r.pol s c.r.opD.handle) = (.go, u) ∧
        wins (inBuffer s c ins l) l.layer l.rim s.hub.seqCtr = false) →
    ∃ t, exec (.kiSt c.layer c.i) s = .next t ∧ (rimOf t c.layer c.p).kpc = (rimOf s c.layer c.p).kpc + 1 ∧ t.array = s.array ∧
      t.hub.claims.map (fun a => (a.src, a.segs)) = s.hub.claims.map (fun a => (a.src, a.segs)) ++
        [(.kstore c.q c.step, cutLine l.col l.num (aluReg (rimOf s c.layer c.p) (kiSa ins)))]) ∧
  (∀ (s : State) (c : KCtx) (ins : Nat), kernelAt s c ins → kiOpc ins = 0 → (rimOf s c.layer c.p).kpc + 1 = (kBody s c.r.kslot).length →
    (rimOf s c.layer c.p).kfail = 0 → (rimOf s c.layer c.p).kword = none →
    ∃ t, exec (.kiNop c.layer c.i) s = .next t ∧ t.array = s.array ∧ (rimOf t c.layer c.p).krun = false ∧
      (storing s c.q c.step = true → raHead t c.q = some { c.r with ended := c.r.ended ++ [(c.step, 0, none)] }))

/-- A message that a port's SQ channel takes and that acts at once. A NOP changes no count, watch or barrier and frees its entry (R307,
R309). ADD, SUB and SET give the named counter its new count, saturated at 65,535 and at 0, and leave every other counter, where no watch
is on it (R313). WATCH on a free watch whose condition does not hold arms it, last in order, with the message's fields (R316). UNWATCH of
a watch that is free answers CANCELLED, and of one that is armed frees it too, with its entry (R309, R318). READ answers the count (R313). ARRIVE without a waiter, on a local barrier that is enabled,
raises its count where that stays below EXPECT (R335). A counter message with an identifier above 47 answers ERROR BADID and
changes no count (R312). -/
def Obligations.SqMessages : Prop :=
  (∀ (s : State) (x : Nat) (w : SqWord), sqReady s x = true → sqPlain w → w.op = 0 →
    ∃ t, exec (.sqNop x w) s = .next t ∧ t.sync = s.sync ∧ portOf t x = portOf s x ∧ ∀ c < 384, counter t c = counter s c) ∧
  (∀ e ∈ counterOps, ∀ (s : State) (x : Nat) (w : SqWord), sqReady s x = true → sqPlain w → w.id < 48 → w.value < 65536 → noWatch s (sqCounter x w) →
    ∃ t, exec (e.1 x w) s = .next t ∧ counter t (sqCounter x w) = e.2.2 (counter s (sqCounter x w)) w.value ∧ t.sync = s.sync ∧
      ∀ c < 384, c ≠ sqCounter x w → counter t c = counter s c) ∧
  (∀ (s : State) (x : Nat) (w : SqWord), sqReady s x = true → sqPlain w → w.id < 48 → w.value < 65536 → w.widx < 4 → armed s (sqWatch x w) = false →
    (if w.cond then counter s (sqCounter x w) ≠ w.value else counter s (sqCounter x w) < w.value) →
    ∃ t, exec (.sqWatch x w) s = .next t ∧ armed t (sqWatch x w) = true ∧ t.sync.watchOrd = s.sync.watchOrd ++ [sqWatch x w] ∧
      t.get pgSYNCCTR (SYNC_CTR_WATCH_CTR.at 4 (sqWatch x w)) = w.id ∧ t.get pgSYNCCTR (SYNC_CTR_WATCH_VALUE.at 4 (sqWatch x w)) = w.value ∧
      ∀ c < 384, counter t c = counter s c) ∧
  (∀ (s : State) (x : Nat) (w : SqWord), sqReady s x = true → sqPlain w → w.widx < 4 → armed s (sqWatch x w) = false →
    ∃ t, exec (.sqUnwatch x w) s = .next t ∧ t.sync = s.sync ∧ (portOf t x).sw = (portOf s x).sw ++ [⟨5, w.widx, w.id, 0, 0, 0, 1, none⟩]) ∧
  (∀ (s : State) (x : Nat) (w : SqWord), sqReady s x = true → sqPlain w → w.widx < 4 → armed s (sqWatch x w) = true →
    ∃ t, exec (.sqUnwatch x w) s = .next t ∧ armed t (sqWatch x w) = false ∧
      t.sync.watchOrd = s.sync.watchOrd.filter (· != sqWatch x w) ∧
      (portOf t x).sw = (portOf s x).sw ++ [⟨5, w.widx, s.get pgSYNCCTR (SYNC_CTR_WATCH_CTR.at 4 (sqWatch x w)), 0, 0, 0, 1,
        some (watchPort s (sqWatch x w))⟩]) ∧
  (∀ (s : State) (x : Nat) (w : SqWord), sqReady s x = true → sqPlain w → w.id < 48 →
    ∃ t, exec (.sqRead x w) s = .next t ∧ t.sync = s.sync ∧
      (portOf t x).sw = (portOf s x).sw ++ [⟨2, 0, w.id, 0, 0, counter s (sqCounter x w), 1, none⟩]) ∧
  (∀ (s : State) (x : Nat) (w : SqWord), sqReady s x = true → sqPlain w → w.cons = true → w.id < 64 → 0 < w.value → w.value < 4096 → barOn s w.id = true →
    barGet s w.id SYNC_BAR_BSTAT_COUNT + w.value < barGet s w.id SYNC_BAR_BCFG_EXPECT →
    ∃ t, exec (.sqArrive x w) s = .next t ∧ barGet t w.id SYNC_BAR_BSTAT_COUNT = barGet s w.id SYNC_BAR_BSTAT_COUNT + w.value ∧
      barGet t w.id SYNC_BAR_BSTAT_PHASE = barGet s w.id SYNC_BAR_BSTAT_PHASE ∧ t.sync = s.sync) ∧
  (∀ e ∈ counterOps, ∀ (s : State) (x : Nat) (w : SqWord), sqReady s x = true → sqPlain w → 48 ≤ w.id →
    ∃ t, exec (e.1 x w) s = .next t ∧ t.sync = s.sync ∧ (portOf t x).sw = (portOf s x).sw ++ [⟨4, 0, w.id, 1, 0, 0, 1, none⟩] ∧
      ∀ c < 384, counter t c = counter s c)

/-- CTR_CMD leaves the named counter with its new count and every other as it was, where no watch is on it; while the device is PARKED no
counter changes (R339); a counter above 383 is refused
with CMD_ERR and no count changes (R313, R344). TAG_CMD sets the tag of an EMPTY slot of an enabled ring FULL, or of a FULL one EMPTY
(R331). BARRIVE raises the count of an enabled barrier that stays below EXPECT (R345). BCFG.EN written 1 enables a barrier with its
configuration and a count of 0, or is refused with BAR_ERR where EXPECT is 0; written 0 it disables the barrier (R338), and RESET clears
its count and withdraws its waiters (R338). RCFG0.EN written 1 enables a ring whose configuration passes R321, with both cursors 0;
written 0 it disables the ring, and its parked requests leave the park tables (R334). -/
def Obligations.SyncCommands : Prop :=
  (∀ e ∈ counterOps, ∀ (s : State) (m : Master) (c v : Nat), mayWrite s m pgSYNCCTR SYNC_CTR_CTR_CMD true = true → c < 384 → v < 65536 → noWatch s c →
    (parked s = false → ∃ t, exec (e.2.1 m c v) s = .next t ∧ counter t c = e.2.2 (counter s c) v ∧
      ∀ c' < 384, c' ≠ c → counter t c' = counter s c') ∧
    (parked s = true → ∃ t, exec (e.2.1 m c v) s = .next t ∧ ∀ c' < 384, counter t c' = counter s c')) ∧
  (∀ e ∈ counterOps, ∀ (s : State) (m : Master) (c v : Nat), mayWrite s m pgSYNCCTR SYNC_CTR_CTR_CMD true = true → 384 ≤ c → c < 512 →
    ∃ t, exec (e.2.1 m c v) s = .next t ∧ t.flag pgSYNCCTR SYNC_CTR_SY_STAT_CMD_ERR = true ∧ ∀ c' < 384, counter t c' = counter s c') ∧
  (∀ (s : State) (m : Master) (r k : Nat), mayWrite s m pgSYNCTAG SYNC_TAG_TAG_CMD true = true → r < 256 → k < 16384 → ringOn s r = true →
    k < ringSlots s r → tagFull s r k = false → s.sync.parks = [] →
    ∃ t, exec (.tagCmdSetFull m r k) s = .next t ∧ tagFull t r k = true) ∧
  (∀ (s : State) (m : Master) (r k : Nat), mayWrite s m pgSYNCTAG SYNC_TAG_TAG_CMD true = true → r < 256 → k < 16384 → ringOn s r = true →
    k < ringSlots s r → tagFull s r k = true → s.sync.parks = [] → s.sync.filler = [] →
    ∃ t, exec (.tagCmdSetEmpty m r k) s = .next t ∧ tagFull t r k = false) ∧
  (∀ (s : State) (m : Master) (b n : Nat), mayWrite s m pgSYNCBAR SYNC_BAR_BARRIVE true = true → b < 64 → 0 < n → n < 4096 → barOn s b = true →
    barGet s b SYNC_BAR_BSTAT_COUNT + n < barGet s b SYNC_BAR_BCFG_EXPECT →
    ∃ t, exec (.barrive m b n) s = .next t ∧ barGet t b SYNC_BAR_BSTAT_COUNT = barGet s b SYNC_BAR_BSTAT_COUNT + n ∧ t.sync = s.sync) ∧
  (∀ (s : State) (m : Master) (b : Nat) (w : Word32), mayWrite s m pgSYNCBAR (SYNC_BAR_BCFG + 16 * b) true = true → b < 64 → barOn s b = false →
    SYNC_BAR_BCFG_EXPECT.of w ≠ 0 → SYNC_BAR_BCFG_DOMAIN.of w = 0 →
    ∃ t, exec (.barrierEnable m b w) s = .next t ∧ barOn t b = true ∧ barGet t b SYNC_BAR_BSTAT_COUNT = 0 ∧
      barGet t b SYNC_BAR_BCFG_EXPECT = SYNC_BAR_BCFG_EXPECT.of w ∧ barGet t b SYNC_BAR_BCFG_DOMAIN = 0 ∧ t.sync = s.sync) ∧
  (∀ (s : State) (m : Master) (b : Nat) (w : Word32), mayWrite s m pgSYNCBAR (SYNC_BAR_BCFG + 16 * b) true = true → b < 64 → barOn s b = false →
    SYNC_BAR_BCFG_EXPECT.of w = 0 →
    ∃ t, exec (.barrierEnable m b w) s = .next t ∧ barOn t b = false ∧ t.flag pgSYNCCTR SYNC_CTR_SY_STAT_BAR_ERR = true ∧ t.sync = s.sync) ∧
  (∀ (s : State) (m : Master) (b : Nat) (w : Word32), mayWrite s m pgSYNCBAR (SYNC_BAR_BCFG + 16 * b) true = true → b < 64 → barOn s b = true →
    ∃ t, exec (.barrierDisable m b w) s = .next t ∧ barOn t b = false) ∧
  (∀ (s : State) (m : Master) (b : Nat), mayWrite s m pgSYNCBAR (SYNC_BAR_BCFG + 16 * b) false = true → b < 64 → s.sync.waiters = [] → s.sync.arrived = [] →
    ∃ t, exec (.barrierReset m b) s = .next t ∧ barGet t b SYNC_BAR_BSTAT_COUNT = 0 ∧ barGet t b SYNC_BAR_BSTAT_DEVCNT = 0) ∧
  (∀ (s : State) (m : Master) (i : Nat) (w : Word32), mayWrite s m (ringBase i) (rcfgOff i) true = true → i < 256 → ringOn s i = false →
    ringReason (s.wr (ringBase i + rcfgOff i) (BitVec.ofNat 32 (rcfgFields w))) i = 0 →
    ∃ t, exec (.ringEnable m i w) s = .next t ∧ ringOn t i = true ∧ t.rd (ringBase i + SYNC_RING_RCUR + 4 * (i % 128)) = 0) ∧
  (∀ (s : State) (m : Master) (i : Nat) (w : Word32), mayWrite s m (ringBase i) (rcfgOff i) true = true → i < 256 → ringOn s i = true →
    (∀ k ∈ s.sync.parks, k.x < 72) →
    ∃ t, exec (.ringDisable m i w) s = .next t ∧ ringOn t i = false ∧ t.sync.parks = s.sync.parks.filter fun k => k.ring != i)

/-- An ADD held for release takes effect once the writes it waits for have landed, on a counter no watch is on, and leaves the port's held
messages (R310, R314, R315). The oldest SW message of a present port crosses to the host and frees its entries (R309). A fill whose
lines and earlier writes have settled, none of them bad, makes its slot FULL (R325), and an empty whose lines and earlier reads are
performed makes it EMPTY (R326), each where no request is parked. A parked request whose ring's timeout has come leaves the park
table and completes with SLOT_TIMEOUT (R329). A request in its port's retry list probes again: where the tag does not let it go
and the table has room, it is parked there (R330); where the tag lets it go, it is parked no more (R323). -/
def Obligations.SyncEvents : Prop :=
  (∀ (s : State) (x : Nat) (h : SqHeld), x < 72 → (portOf s x).sqHeld = [h] → h.err = 0 → h.w.op = 1 → h.w.id < 48 → h.w.value < 65536 →
    (h.w.rel = true → released s x h.mark = true) → noWatch s (sqCounter x h.w) → parked s = false →
    ∃ t, exec (.sqReleaseEffect x) s = .next t ∧ (portOf t x).sqHeld = [] ∧
      counter t (sqCounter x h.w) = min (counter s (sqCounter x h.w) + h.w.value) 0xFFFF) ∧
  (∀ (s : State) (x : Nat) (m : SwMsg) (l : List SwMsg), (portOf s x).sw = m :: l → portState s x ≠ 0 → (portOf s x).broken = false →
    ∃ t, exec (.swTransfer x) s = .next t ∧ (portOf t x).sw = l ∧ (portOf t x).swLast = some m ∧
      (portOf t x).sqUsed = (portOf s x).sqUsed - m.frees - (if m.also = some x then 1 else 0) ∧ t.sync = s.sync) ∧
  (∀ (s : State) (x tag : Nat) (c : SlotChange), (s.sync.changes.find? fun c => c.x == x && c.tag == tag && c.fill) = some c → c.go = [] →
    writesSettled s x c.acc true = true → c.bad = false → tagFull s c.ring c.slot = false → s.sync.parks = [] →
    ∃ t, exec (.slotFill x tag) s = .next t ∧ tagFull t c.ring c.slot = true ∧ t.sync.changes = s.sync.changes.erase c) ∧
  (∀ (s : State) (x tag : Nat) (c : SlotChange), (s.sync.changes.find? fun c => c.x == x && c.tag == tag && !c.fill) = some c → c.go = [] →
    ((portOf s x).txns.all fun t => !(t.slotAt == some (c.ring * 16384 + c.slot) && t.req.op == 0 && decide (t.acc < c.acc)) || txnSettled s x t true) = true →
    c.bad = false → tagFull s c.ring c.slot = true → s.sync.parks = [] → s.sync.filler = [] →
    ∃ t, exec (.slotEmpty x tag) s = .next t ∧ tagFull t c.ring c.slot = false ∧ t.sync.changes = s.sync.changes.erase c) ∧
  (∀ (s : State) (x tag d : Nat) (k : Park) (u : Txn), (s.sync.parks.find? fun k => k.x == x && k.tag == tag) = some k → k.deadline = some d → d ≤ s.now →
    txnOf s x tag = some u →
    ∃ t, exec (.slotTimeout x tag) s = .next t ∧ t.sync.parks = s.sync.parks.filter (fun j => !(j.x == x && j.tag == tag)) ∧
      (portOf t x).ready = (portOf s x).ready ++ [⟨laneWr u.req, tag, 0, 0, stTIMEOUT, 0, false, 0, false, 0, none, s.pcNow⟩]) ∧
  (∀ (s : State) (x tag : Nat) (k : Park) (u : Txn), (s.sync.parks.find? fun k => k.x == x && k.tag == tag && !k.table) = some k →
    txnOf s x tag = some u → k.deadline.isSome = true → tagFull s k.ring k.slot ≠ k.full →
    ((s.sync.parks.filter fun j => !(j.x == k.x && j.tag == k.tag)).filter fun j => j.table && j.home == k.home).length < 32 →
    ∃ t, exec (.parkRetryProbe x tag) s = .next t ∧
      t.sync.parks = (s.sync.parks.filter fun j => !(j.x == k.x && j.tag == k.tag)) ++ [{ k with table := true }]) ∧
  (∀ (s : State) (x tag : Nat) (k : Park) (u : Txn), (s.sync.parks.find? fun k => k.x == x && k.tag == tag && !k.table) = some k →
    txnOf s x tag = some u → k.deadline.isSome = true → tagFull s k.ring k.slot = k.full →
    ∃ t, exec (.parkRetryProbe x tag) s = .next t ∧ t.sync.parks = s.sync.parks.filter fun j => !(j.x == k.x && j.tag == k.tag))

/-- The line of the only miss arrives, and its set has an invalid way: a READ's bytes are offered on its port with OK, a WRITE's are put
into the line, and the lowest invalid way is to take it (R367, R368). Once the rim has stored it the cache holds it there, dirty for
a WRITE, which is then answered with OK (R367, R371). Where an error arrives in the line's place, the request completes with FAULT and the
cache holds what it held (R371). -/
def Obligations.CacheFill : Prop :=
  (∀ (s : State) (id x tag w data : Nat) (pl : Nat × Nat) (r : MpReq) (j : CacheJob) (u : Txn), missOut s id x tag r j →
    txnOf s x tag = some u → j.wr = false → cachePlace s j.line = some pl →
    ((List.range 8).find? fun w => !(s.cache.lines.any fun e => e.1 == slotKey pl w)) = some w →
    ∃ t, exec (.cacheFillComplete id false data) s = .next t ∧ t.cache.lines = s.cache.lines ∧
      (t.cache.jobs.map fun k => (k.id, k.line, k.op, k.stage, k.key, k.data)) =
        [(j.id, j.line, .alloc, .fill, slotKey pl w, data % 2 ^ 1024)] ∧
      (portOf t x).ready = (portOf s x).ready ++ cutLanes x ⟨laneWr u.req, tag, 0, 0, stOK, 0, false, 0, false, 0, none, s.pcNow⟩
        (some (j.n, data % 2 ^ 1024 / 256 ^ j.b % 256 ^ j.n))) ∧
  (∀ (s : State) (id x tag w data D : Nat) (pl : Nat × Nat) (r : MpReq) (j : CacheJob), missOut s id x tag r j →
    j.wr = true → cachePlace s j.line = some pl → D = data % 2 ^ 1024 →
    ((List.range 8).find? fun w => !(s.cache.lines.any fun e => e.1 == slotKey pl w)) = some w →
    ∃ t, exec (.cacheFillComplete id false data) s = .next t ∧ t.cache.lines = s.cache.lines ∧
      (t.cache.jobs.map fun k => (k.id, k.line, k.op, k.stage, k.key, k.data)) =
        [(j.id, j.line, j.op, .fill, slotKey pl w,
          D - D / 256 ^ j.b % 256 ^ j.n * 256 ^ j.b + j.data % 256 ^ j.n * 256 ^ j.b)] ∧
      (portOf t x).ready = (portOf s x).ready) ∧
  (∀ (s : State) (a : Access) (x tag : Nat) (j : CacheJob) (u : Txn), parked s = false →
    s.hub.flight.find? (fun b => b.seq == a.seq && b.loc == .merge) = some a →
    (s.hub.flight.any fun b => b.obs == a.obs && decide (b.seq < a.seq) && common a b) = false → a.src = .cache j.id → a.status = stOK →
    s.cache.jobs = [j] → j.stage = .fill → j.op = .ext x tag → j.wr = true → txnOf s x tag = some u →
    ∃ t, exec (.planeMerge a.seq) s = .next t ∧ t.cache.jobs = [] ∧ t.cache.lines = Sp.set s.cache.lines j.key ⟨j.line / 8192, true⟩ ∧
      (portOf t x).ready = (portOf s x).ready ++ [⟨laneWr u.req, tag, 0, 0, stOK, 0, false, 0, false, 0, none, s.pcNow⟩]) ∧
  (∀ (s : State) (a : Access) (j : CacheJob), parked s = false →
    s.hub.flight.find? (fun b => b.seq == a.seq && b.loc == .merge) = some a →
    (s.hub.flight.any fun b => b.obs == a.obs && decide (b.seq < a.seq) && common a b) = false → a.src = .cache j.id → a.status = stOK →
    s.cache.jobs = [j] → j.stage = .fill → j.op = .alloc →
    ∃ t, exec (.planeMerge a.seq) s = .next t ∧ t.cache.jobs = [] ∧ t.cache.lines = Sp.set s.cache.lines j.key ⟨j.line / 8192, j.wr⟩) ∧
  (∀ (s : State) (id x tag data : Nat) (r : MpReq) (j : CacheJob) (u : Txn), missOut s id x tag r j → txnOf s x tag = some u →
    ∃ t, exec (.cacheFillComplete id true data) s = .next t ∧ t.cache.jobs = [] ∧ t.cache.lines = s.cache.lines ∧
      (portOf t x).ready = (portOf s x).ready ++ [⟨laneWr u.req, tag, 0, 0, stFAULT, 0, false, 0, false, 0, none, s.pcNow⟩])

/-- A write of COP_CMD over the whole of a cache that holds one line, free of other operations: BUSY reads 1; INV drops the line, and
CLEAN_INV drops a clean one; CLEAN keeps a clean line; of a dirty one CLEAN and CLEAN_INV keep the line while they read it out for its
write-back (R375, R376). A write-back that has landed leaves its line clean, or gone after a CLEAN_INV (R371, R375). A write while BUSY
sets OVERRUN (R375). The operation is done once nothing of its range is at the controller: BUSY reads 0, and the counter it names is
raised (R376). SEC_CMD.GO starts a switch, or is refused with its RESULT (R378); a switch with nothing left to clean puts the target in
force (R379). XBASE takes its base with no section in cache mode, and is ignored with XB_REJ otherwise (R365). -/
def Obligations.CacheCommands : Prop :=
  (∀ (s : State) (m : Master) (w : Word32) (key : Nat) (l : CLine), copOne s m w key l →
    ∃ t, exec (.copInv m w) s = .next t ∧ t.cache.lines = [] ∧ t.cache.jobs = [] ∧ t.cache.cop = some (0, 2 ^ 41) ∧
      t.flag pgCACHE CACHE_COP_STAT_BUSY = true ∧ t.mport = s.mport) ∧
  (∀ (s : State) (m : Master) (w : Word32) (key : Nat) (l : CLine), copOne s m w key l → l.dirty = false →
    ∃ t, exec (.copCleanInv m w) s = .next t ∧ t.cache.lines = [] ∧ t.cache.jobs = [] ∧ t.cache.cop = some (0, 2 ^ 41) ∧
      t.flag pgCACHE CACHE_COP_STAT_BUSY = true ∧ t.mport = s.mport) ∧
  (∀ (s : State) (m : Master) (w : Word32) (key : Nat) (l : CLine), copOne s m w key l → l.dirty = false →
    ∃ t, exec (.copClean m w) s = .next t ∧ t.cache.lines = [(key, l)] ∧ t.cache.jobs = [] ∧ t.cache.cop = some (0, 2 ^ 41) ∧
      t.flag pgCACHE CACHE_COP_STAT_BUSY = true ∧ t.mport = s.mport) ∧
  (∀ c op, (c, op) ∈ [(Instr.copClean, 2), (.copCleanInv, 3)] → ∀ (s : State) (m : Master) (w : Word32) (key : Nat) (l : CLine),
    copOne s m w key l → l.dirty = true →
    ∃ t, exec (c m w) s = .next t ∧ t.cache.lines = [(key, l)] ∧
      (t.cache.jobs.map fun j => (j.line, j.op, j.stage, j.key)) = [(lineOfSlot key l, .cop op, .readOut, key)] ∧
      t.cache.cop = some (0, 2 ^ 41) ∧ t.flag pgCACHE CACHE_COP_STAT_BUSY = true ∧ t.mport = s.mport) ∧
  (∀ op after, (op, after) ∈ [(2, fun (l : CLine) => [{ l with dirty := false }]), (3, fun _ => [])] →
    ∀ (s : State) (id data key : Nat) (r : MpReq) (j : CacheJob) (l : CLine), (s.mport.find? fun r => r.id == id) = some r →
    r.src = .wback j.id → s.cache.jobs = [j] → j.stage = .land → j.op = .cop op → j.key = key → s.cache.lines = [(key, l)] →
    ∃ t, exec (.masterPortResponse id false data) s = .next t ∧ t.cache.jobs = [] ∧ t.cache.lines = (after l).map fun l => (key, l)) ∧
  (∀ c ∈ [Instr.copInv, .copClean, .copCleanInv], ∀ (s : State) (m : Master) (w : Word32), mayWrite s m pgCACHE CACHE_COP_CMD true = true →
    s.flag pgCACHE CACHE_COP_STAT_BUSY = true →
    ∃ t, exec (c m w) s = .next t ∧ t.flag pgCACHE CACHE_COP_STAT_OVERRUN = true ∧ t.cache = s.cache ∧ t.mport = s.mport) ∧
  (∀ (s u : State) (lo n : Nat), u = s.cacheRun → u.cache.cop = some (lo, n) → copWaits u lo n = false →
    u.get pgCACHE CACHE_COP_CMD_CNT = 0 →
    ∃ t, exec .copDone s = .next t ∧ t.cache = { u.cache with cop := none } ∧ t.flag pgCACHE CACHE_COP_STAT_BUSY = false) ∧
  (∀ (s u : State) (lo n c : Nat), u = s.cacheRun → u.cache.cop = some (lo, n) → copWaits u lo n = false →
    u.get pgCACHE CACHE_COP_CMD_CNT = 1 → u.get pgCACHE CACHE_COP_CMD_COUNTER < 48 →
    c = 48 * u.get pgCACHE CACHE_COP_CMD_CORE + u.get pgCACHE CACHE_COP_CMD_COUNTER → noWatch u c → parked u = false →
    ∃ t, exec .copDone s = .next t ∧ t.cache = { u.cache with cop := none } ∧ t.flag pgCACHE CACHE_COP_STAT_BUSY = false ∧
      counter t c = min (counter u c + 1) 0xFFFF) ∧
  (∀ (s : State) (m : Master) (k : Nat), mayWrite s m pgCACHE CACHE_SEC_CMD true = true → k < 256 → s.handles = [] → s.cache.lines = [] → s.cache.jobs = [] →
    s.flag pgCACHE CACHE_COP_STAT_BUSY = false → s.cache.switch = none → ((List.range 16).any fun i => !rimUp s 0 i) = false →
    ∃ t, exec (.sectionSwitch m k) s = .next t ∧ t.cache = { s.cache with switch := some k } ∧ t.flag pgCACHE CACHE_SEC_STAT_BUSY = true) ∧
  (∀ (s : State) (m : Master) (k : Nat), mayWrite s m pgCACHE CACHE_SEC_CMD true = true → k < 256 → s.handles = [] →
    s.flag pgCACHE CACHE_COP_STAT_BUSY = true →
    ∃ t, exec (.sectionSwitch m k) s = .next t ∧ t.cache = s.cache ∧ t.get pgCACHE CACHE_SEC_STAT_RESULT = 2) ∧
  (∀ (s : State) (k : Nat), k < 256 → s.cache.switch = some k → s.cache.jobs = [] → s.cache.lines = [] →
    ∃ t, exec .sectionSwitchDone s = .next t ∧ t.get pgCACHE CACHE_SEC_STAT_CUR = k ∧ t.flag pgCACHE CACHE_SEC_STAT_BUSY = false ∧ t.cache.switch = none) ∧
  (∀ (s : State) (m : Master) (v : Word32), mayWrite s m pgCACHE CACHE_XBASE_LO true = true → s.get pgCACHE CACHE_SEC_STAT_CUR = 0 →
    ∃ t, exec (.xbaseWrite m false v) s = .next t ∧ t.get pgCACHE CACHE_XBASE_LO_BASE = CACHE_XBASE_LO_BASE.of v) ∧
  (∀ (s : State) (m : Master) (v : Word32), mayWrite s m pgCACHE CACHE_XBASE_HI true = true → s.get pgCACHE CACHE_SEC_STAT_CUR = 0 →
    ∃ t, exec (.xbaseWrite m true v) s = .next t ∧ t.get pgCACHE CACHE_XBASE_HI_BASE_HI = CACHE_XBASE_HI_BASE_HI.of v) ∧
  (∀ (s : State) (m : Master) (hi : Bool) (v : Word32), mayWrite s m pgCACHE (if hi then CACHE_XBASE_HI else CACHE_XBASE_LO) true = true →
    s.get pgCACHE CACHE_SEC_STAT_CUR ≠ 0 →
    ∃ t, exec (.xbaseWrite m hi v) s = .next t ∧ t.flag pgCACHE CACHE_SEC_STAT_XB_REJ = true ∧
      t.get pgCACHE CACHE_XBASE_LO_BASE = s.get pgCACHE CACHE_XBASE_LO_BASE ∧ t.get pgCACHE CACHE_XBASE_HI_BASE_HI = s.get pgCACHE CACHE_XBASE_HI_BASE_HI)

/-- A NOP word changes nothing and a word of a reserved TYPE sets BADSUB. A POST word puts its chain behind those of an ENABLED
channel, and no other channel changes; a channel that is not ENABLED holds no more chains for it and owes a post-level record, DISABLED
or PARKED. A CPLACK sets CONS where it lies within the ring, else it sets CONS_ERR and CONS stays; a write of CRIDX does the same. A scrub
post is EM1's alone. A write of POST3 submits the four words, and is refused where the channel takes none. -/
def Obligations.MoverSubmission : Prop :=
  (∀ (s : State) (c w0 w1 w2 w3 : Nat), c < 16 → subReady s c = true → bits w0 31 28 = 0 → w0 < 2 ^ 32 →
    exec (.subNop c w0 w1 w2 w3) s = .next s) ∧
  (∀ (s : State) (c w0 w1 w2 w3 : Nat), c < 16 → subReady s c = true → 3 ≤ bits w0 31 28 → w0 < 2 ^ 32 →
    ∃ t, exec (.subNop c w0 w1 w2 w3) s = .next t ∧ t.flag pgMOVER (MOVER_CH_STAT_BADSUB.at 64 c) = true ∧ t.chans = s.chans) ∧
  (∀ (s : State) (c w0 w1 w2 w3 : Nat), c < 16 → subReady s c = true → bits w0 31 28 = 1 → w0 < 2 ^ 32 → chanState s c = 2 →
    ∃ t, exec (.subPost c w0 w1 w2 w3) s = .next t ∧ t.regs = s.regs ∧ (∀ d, d ≠ c → chanOf t d = chanOf s d) ∧
      chanOf t c = { chanOf s c with chains := (chanOf s c).chains ++
        [⟨s.hub.accCtr, false, [w0, w1 % 2 ^ 32, w2 % 2 ^ 32, w3 % 2 ^ 32], 0⟩] }) ∧
  (∀ (s : State) (c w0 w1 w2 w3 : Nat), c < 16 → subReady s c = true → bits w0 31 28 = 1 → w0 < 2 ^ 32 → chanState s c ≠ 2 →
    ringSize s c ≠ 0 → w3 < 2 ^ 32 →
    ∃ t, exec (.subPost c w0 w1 w2 w3) s = .next t ∧ (chanOf t c).chains = (chanOf s c).chains ∧ (chanOf t c).recs = (chanOf s c).recs ++
      [⟨[2 ^ 30 + (if chanState s c = 5 then stPARKED else stDISABLED) * 2 ^ 24 + w3 % 2 ^ 16, bits w3 31 20 + 1, s.now % 2 ^ 32, 0], false, false⟩]) ∧
  (∀ (s : State) (c w0 w1 w2 w3 : Nat), c < 16 → subReady s c = true → bits w0 31 28 = 2 → w0 < 2 ^ 32 → w1 < 2 ^ 16 →
    ∃ t, exec (.subCplack c w0 w1 w2 w3) s = .next t ∧ t.chans = s.chans ∧
      if (chGet s c MOVER_CH_CRIDX_PROD + 2 ^ 16 - w1) % 2 ^ 16 ≤ ringSize s c then chGet t c MOVER_CH_CRIDX_CONS = w1
      else chGet t c MOVER_CH_CRIDX_CONS = chGet s c MOVER_CH_CRIDX_CONS ∧ t.flag pgMOVER (MOVER_CH_STAT_CONS_ERR.at 64 c) = true) ∧
  (∀ (s : State) (m : Master) (c w0 w1 w2 w3 : Nat), c < 16 → subReady s c = true → bits w0 31 28 = 3 → w0 < 2 ^ 32 →
    mayWrite s m pgMOVER (MOVER_CH_POST3 + 64 * c) false = true → chanState s c = 2 →
    ∃ t, exec (.subScrub m c w0 w1 w2 w3) s = .next t ∧
      if m = .em1 then (chanOf t c).chains = (chanOf s c).chains ++ [⟨s.hub.accCtr, true, [w0, w1 % 2 ^ 32, w2 % 2 ^ 32, w3 % 2 ^ 32], 0⟩]
      else t.chans = s.chans ∧ t.flag pgMOVER (MOVER_CH_STAT_BADSUB.at 64 c) = true) ∧
  (∀ (s : State) (m : Master) (c : Nat) (w3 : Word32), c < 16 → mayWrite s m pgMOVER (MOVER_CH_POST3 + 64 * c) false = true →
    subReady s c = true → chanState s c = 2 → bits (s.rd (pgMOVER + MOVER_CH_POST0 + 64 * c)).toNat 31 28 = 1 →
    ∃ t, exec (.channelPostWrite m c w3) s = .next t ∧ t.regs = s.regs ∧
      chanOf t c = { chanOf s c with chains := (chanOf s c).chains ++ [⟨s.hub.accCtr, false, [(s.rd (pgMOVER + MOVER_CH_POST0 + 64 * c)).toNat,
        (s.rd (pgMOVER + MOVER_CH_POST1 + 64 * c)).toNat, (s.rd (pgMOVER + MOVER_CH_POST2 + 64 * c)).toNat, w3.toNat], 0⟩] }) ∧
  (∀ (s : State) (m : Master) (c : Nat) (w3 : Word32), c < 16 → mayWrite s m pgMOVER (MOVER_CH_POST3 + 64 * c) false = true →
    subReady s c = false → ∃ t, exec (.channelPostWrite m c w3) s = .next t ∧ t.chans = s.chans ∧
      (t.rd (pgMOVER + HDR_ERR_ADDR)).toNat = pgMOVER + MOVER_CH_POST3 + 64 * c) ∧
  (∀ (s : State) (m : Master) (c cons : Nat), c < 16 → mayWrite s m pgMOVER (MOVER_CH_CRIDX + 64 * c) true = true → cons < 2 ^ 16 →
    (chGet s c MOVER_CH_CRIDX_PROD + 2 ^ 16 - cons) % 2 ^ 16 ≤ ringSize s c →
    ∃ t, exec (.cridxConsWrite m c cons) s = .next t ∧ t.chans = s.chans ∧ chGet t c MOVER_CH_CRIDX_CONS = cons) ∧
  (∀ (s : State) (m : Master) (c cons : Nat), c < 16 → mayWrite s m pgMOVER (MOVER_CH_CRIDX + 64 * c) true = true → cons < 2 ^ 16 →
    ringSize s c < (chGet s c MOVER_CH_CRIDX_PROD + 2 ^ 16 - cons) % 2 ^ 16 →
    ∃ t, exec (.cridxConsWrite m c cons) s = .next t ∧ t.chans = s.chans ∧ chGet t c MOVER_CH_CRIDX_CONS = chGet s c MOVER_CH_CRIDX_CONS ∧
      t.flag pgMOVER (MOVER_CH_STAT_CONS_ERR.at 64 c) = true)

/-- Each operation's descriptor that is at the head of its channel starts once it is checked: its record's acceptance number and STEP are
taken, and where a check fails it has ended with that status and no access; the descriptors behind it and the other channels stay (R274, R293). A
scrub post's descriptor is its own words; one of a chain in external memory whose route is direct is read over the master port, 64 bytes,
at its engine's turn (R276); one in TM8 storage by an access of the channel; one whose handle is stale ends in that status with no access (R269). -/
def Obligations.DescriptorsStart : Prop :=
  (∀ op f, (op, f) ∈ descStarts → ∀ (s : State) (c : Nat) (j : MvJob) (l : List MvJob), mayStart s c op j l → mvCheck s c j = stOK →
    ∃ t, exec (f c) s = .next t ∧ ∃ k, (chanOf t c).jobs = k :: l ∧ k.words = j.words ∧ k.started = true ∧ k.ended = j.ended ∧
      k.status = j.status ∧ k.acc = s.hub.accCtr ∧ k.step = tidStep s j.tid ∧ t.regs = s.regs ∧ ∀ d, d ≠ c → chanOf t d = chanOf s d) ∧
  (∀ op f, (op, f) ∈ descStarts → ∀ (s : State) (c : Nat) (j : MvJob) (l : List MvJob), mayStart s c op j l → mvCheck s c j ≠ stOK →
    ∃ t, exec (f c) s = .next t ∧ ∃ k, (chanOf t c).jobs = k :: l ∧ k.words = j.words ∧ k.started = true ∧ k.ended = true ∧
      k.status = mvCheck s c j ∧ t.hub.flight = s.hub.flight ∧ ∀ d, d ≠ c → chanOf t d = chanOf s d) ∧
  (∀ (s : State) (c : Nat) (h : Chain), mayFetch s c h → h.scrub = true →
    ∃ t, exec (.descriptorFetch c) s = .next t ∧ (chanOf t c).jobs = (chanOf s c).jobs ++ [{ words := h.words, chain := h.acc, scrub := true }]) ∧
  (∀ (s : State) (c : Nat) (h : Chain), mayFetch s c h → h.scrub = false → bit (h.words.getD 0 0) 27 = true → bit (h.words.getD 0 0) 26 = true →
    mpRoom s = true → mpTurn s (c / 4) = true →
    ∃ t, exec (.descriptorFetch c) s = .next t ∧ (chanOf t c).fetch = some h.acc ∧ t.mport = s.mport ++ [⟨s.mpCtr, .chan c 1, false,
      (h.words.getD 1 0 / 64 * 64 + bits (h.words.getD 2 0) 15 0 * 2 ^ 32 + 64 * h.next) % 2 ^ 48, 64, 0, 64, 0, 0⟩]) ∧
  (∀ (s : State) (c : Nat) (h : Chain), mayFetch s c h → h.scrub = false → bit (h.words.getD 0 0) 27 = false →
    (fetchEp h).handle ≠ 0 → liveDesc s (fetchEp h).handle (fetchEp h).gen = none →
    ∃ t, exec (.descriptorFetch c) s = .next t ∧ (chanOf t c).fetch = some h.acc ∧
      t.hub.answers = s.hub.answers ++ [⟨.mover c 1, stSTALE, 0, [], 0, 0, 0, 0⟩]) ∧
  (∀ (s u : State) (c tid : Nat) (h : Chain), mayFetch s c h → h.scrub = false → bit (h.words.getD 0 0) 27 = false →
    (fetchEp h).handle ≠ 0 → epFits s (fetchEp h) 64 = true → tid = chGet s c MOVER_CH_CFG_DTID →
    handleCheck s c { words := [tid * 2 ^ 22], chain := h.acc } (fetchEp h).handle (fetchEp h).gen 0 = stOK →
    s.mvSend c (.mover c 1) .read false (epPiece s (fetchEp h) 0 64).layer (epPiece s (fetchEp h) 0 64).frame
      (cutSegs (epPiece s (fetchEp h) 0 64).byte 64 0) tid (hPolicy s (fetchEp h).handle) 2 = (true, u) →
    ∃ t, exec (.descriptorFetch c) s = .next t ∧ (chanOf t c).fetch = some h.acc ∧ t.hub.flight = u.hub.flight ∧ t.regs = u.regs)

/-- An engine runs the NOP of its one busy channel to its end. A chunk that the next access of the running descriptor of an RT TID waits for is admitted, up to
4,096 accesses. An append fails with BOUNDS where its expert has no map entry, takes the slot at its ring's cursor and goes on where it is EMPTY,
waits with the ring's deadline where it is full, waits for a credit where it has none, and fails with TIMEOUT at its deadline. A response
on the master port leaves it, and answers the channel that asked with the bytes it asked for, EXT_ERR for an error, or the firmware. The completion of a descriptor
that asks for nothing else counts it, and one that names a counter adds 1 to it. A clear of a credit account leaves none. -/
def Obligations.MoverRuns : Prop :=
  (∀ (s : State) (e c : Nat) (k : MvChan) (j : MvJob) (l : List MvJob), e < 4 → c / 4 = e → aloneIn s c k → k.jobs = j :: l → k.recs = [] →
    (portOf s (56 + c)).broken = false → mvReady s c j = true → j.op = 0 → bit (j.d 12) 29 = false →
    ∃ t, exec (.moverIssue e) s = .next t ∧ chanOf t c = { k with jobs := { j with ended := true } :: l } ∧ t.regs = s.regs) ∧
  (∀ (s : State) (c : Nat) (j : MvJob) (l : List MvJob), c < 16 → (chanOf s c).jobs = j :: l → j.started = true → j.ended = false → j.out = false →
    j.need = true → j.chunk = 0 → (portOf s (56 + c)).broken = false → chunkOf s c = none → tidClass s j.tid = 0 →
    ∃ t, exec (.moverChunkAdmission c) s = .next t ∧ (chunkOf t c).any (·.adm) = true ∧
      (chanOf t c).jobs = { j with chunk := min 4096 (max (accessTotal s j) (j.accs + 1) - j.accs), need := false, wait := 0 } :: l) ∧
  (∀ (s : State) (c : Nat) (j : MvJob) (l : List MvJob), atAppend s c j l → (appendOf s j).1 = none → j.slot2 = none →
    ∃ t, exec (.routerAppend c) s = .next t ∧ (chanOf t c).jobs = { j with ended := true, status := stBOUNDS, fail := j.item, nak := 0 } :: l) ∧
  (∀ (s : State) (c ring k : Nat) (j : MvJob) (l : List MvJob), atAppend s c j l → (appendOf s j).1 = some (.inl ring) → ringOn s ring = true →
    j.vlines < slotLines s ring → j.slot2 = some (ring, k) → tagFull s ring k = false →
    ∃ t, exec (.routerAppend c) s = .next t ∧ t.regs = s.regs ∧
      (chanOf t c).jobs = { j with sub := 4, deadline := none, wait := 0, stg := 0, stgN := 0 } :: l) ∧
  (∀ (s u : State) (c ring k : Nat) (j : MvJob) (l : List MvJob), atAppend s c j l → (appendOf s j).1 = some (.inl ring) → ringOn s ring = true →
    j.vlines < slotLines s ring → j.slot2 = none → s.takeCursor ring true = (k, u) → tagFull u ring k = false →
    ∃ t, exec (.routerAppend c) s = .next t ∧ t.regs = u.regs ∧
      (chanOf t c).jobs = { j with slot2 := some (ring, k), sub := 4, deadline := none, wait := 0, stg := 0, stgN := 0 } :: l) ∧
  (∀ (s : State) (c ring k : Nat) (j : MvJob) (l : List MvJob), atAppend s c j l → (appendOf s j).1 = some (.inl ring) → ringOn s ring = true →
    j.vlines < slotLines s ring → j.slot2 = some (ring, k) → tagFull s ring k = true → j.deadline = none → s.now < slotDeadline s ring →
    ∃ t, exec (.routerAppend c) s = .next t ∧ (chanOf t c).jobs = { j with deadline := some (slotDeadline s ring), wait := 4 } :: l) ∧
  (∀ (s : State) (c a : Nat) (j : MvJob) (l : List MvJob), atAppend s c j l → (appendOf s j).1 = some (.inr a) →
    s.get pgMOVER (MOVER_CA_CRED_CREDITS.at 8 a) = 0 → j.deadline = none → s.get pgMOVER MOVER_CRED_TMO_TICKS ≠ 0 →
    ∃ t, exec (.routerAppend c) s = .next t ∧
      (chanOf t c).jobs = { j with wait := 3, deadline := some (s.now + s.get pgMOVER MOVER_CRED_TMO_TICKS) } :: l) ∧
  (∀ (s : State) (c a d : Nat) (j : MvJob) (l : List MvJob), (chanOf s c).jobs = j :: l → j.started = true → j.ended = false → 8 ≤ j.op →
    j.sub = 3 → j.status = 0 → (appendOf s j).1 = some (.inr a) → j.slot2 = none → j.deadline = some d → d ≤ s.now →
    ∃ t, exec (.creditWaitTimeout c) s = .next t ∧ (chanOf t c).jobs = { j with ended := true, status := stTIMEOUT, fail := j.item, nak := 0 } :: l) ∧
  (∀ (s : State) (id data : Nat) (err : Bool) (r : MpReq), (s.mport.find? fun r => r.id == id) = some r → r.src = .image ∨ (∃ c u, r.src = .chan c u) →
    ∃ t, exec (.masterPortResponse id err data) s = .next t ∧ t.mport = s.mport.filter (fun q => q.id != id) ∧
      t.hub.answers = s.hub.answers ++ [⟨(match r.src with | .chan c u => .mover c u | _ => .firmware r.n), if err then 10 else stOK, 0, [],
        r.value data, 0, 0, 0⟩]) ∧
  (∀ (s : State) (c : Nat) (k : MvChan) (j : MvJob) (l : List MvJob), c < 16 → aloneIn s c k → k.jobs = j :: l → chanState s c = 2 →
    (portOf s (56 + c)).broken = false → recWait s c = false → j.words ≠ [] →
    j.scrub = false → j.started = true → j.ended = true → j.out = false → j.rem = 0 → j.acted = 0 → j.status = 0 → j.energy = 0 →
    bits (j.d 12) 31 29 = 0 → bits (j.d 12) 26 24 = 0 →
    ∃ t, exec (.descriptorComplete c) s = .next t ∧ (chanOf t c).jobs = l ∧
      chGet t c MOVER_CH_DONE_COUNT = (chGet s c MOVER_CH_DONE_COUNT + 1) % 2 ^ 32) ∧
  (∀ (s : State) (c n : Nat) (k : MvChan) (j : MvJob) (l : List MvJob), c < 16 → aloneIn s c k → k.jobs = j :: l → chanState s c = 2 →
    (portOf s (56 + c)).broken = false → recWait s c = false → j.words ≠ [] →
    j.scrub = false → j.started = true → j.ended = true → j.out = false → j.rem = 0 → j.acted = 0 → j.status = 0 → j.energy = 0 →
    bits (j.d 12) 31 29 = 4 → bits (j.d 12) 26 24 = 0 → n = bits (j.d 12) 23 18 → n < 48 → noWatch s (48 * (c / 2) + n) → parked s = false →
    ∃ t, exec (.descriptorComplete c) s = .next t ∧ (chanOf t c).jobs = l ∧
      counter t (48 * (c / 2) + n) = min (counter s (48 * (c / 2) + n) + 1) 0xFFFF) ∧
  (∀ (s : State) (m : Master) (a : Nat), a < 64 → mayWrite s m pgMOVER (MOVER_CA_CFG + 8 * a) false = true → s.cfg.optT = true →
    ∃ t, exec (.creditClear m a) s = .next t ∧ t.get pgMOVER (MOVER_CA_CRED_CREDITS.at 8 a) = 0)

/-- The oldest control block of a port in INIT, UP or DRAINING, where it passes its check, is heard (R388). IDLE and the reserved kinds do no
more. LINK releases the packets it acknowledges from the replay buffer and takes the far totals (R395, R397). RETRY counts a replay, and
what the replay buffer holds from the named LSEQ on is sent again (R398). LANE_DROP leaves the transmitter the lanes that the far receiver
keeps, with LANE_SWITCH sent on them, or fails the port where they are fewer than MIN_LANES (R405). LANE_SWITCH sets the lanes received. INIT
takes the far address and port, and brings a port in INIT UP (R403, R404). A block that fails its check is discarded. An uncorrectable
codeword counts, and makes a port that is UP send RETRY (R387, R398); a sound one passes on its blocks, descrambled, and counts its corrected
symbols by lane (R385 to R387); one that carries markers carries no blocks (R386). Where the payload's fields lie is the model's choice (log
entry 65). -/
def Obligations.LinkBlocks : Prop :=
  (∀ (s : State) (p b : Nat) (rest : List Nat), cbFirst s p 0 b rest → cbSound b = true →
    ∃ t, exec (.cbIdle p) s = .next t ∧ lkPort t p = { lkPort s p with rxCtl := rest, heard := s.now } ∧ t.regs = s.regs) ∧
  (∀ (s : State) (p b ack : Nat) (rest : List Nat) (x : LinkTx) (l : List LinkTx), cbFirst s p 1 b rest → cbSound b = true →
    (lkPort s p).txq = [] → (lkPort s p).replay = x :: l → ack = cbData b % 4096 → (ack + 4097 - x.pk.lseq) % 4096 ≤ l.length + 1 →
    ∃ t, exec (.cbLink p) s = .next t ∧ (lkPort t p).farC = elems 12 8 (cbData b / 4096) ∧
      (lkPort t p).replay = (x :: l).drop ((ack + 4097 - x.pk.lseq) % 4096) ∧ (lkPort t p).heard = s.now) ∧
  (∀ (s : State) (p b : Nat) (rest : List Nat), cbFirst s p 2 b rest → cbSound b = true → (lkPort s p).txq = [] →
    ∃ t, exec (.cbRetry p) s = .next t ∧ (lkPort t p).replay = (lkPort s p).replay ∧
      lpGet t p LINK_P_REPLAY_COUNT = min (lpGet s p LINK_P_REPLAY_COUNT + 1) (2 ^ 32 - 1) ∧
      lpGet t p LINK_P_TXFL_COUNT = (lpGet s p LINK_P_TXFL_COUNT + if lpState s p = 3 then 0
        else (((lkPort s p).replay.dropWhile fun x => x.pk.lseq != cbData b % 4096).map fun x => x.pk.flits).sum) % 2 ^ 32) ∧
  (∀ (s : State) (p b j keep : Nat) (l rest : List Nat), cbFirst s p 3 b rest → cbSound b = true →
    (List.range 8).filter (fun j => bit (lpGet s p LINK_P_STAT_TX_LANES) j && !bit (cbData b % 256) j) = j :: l →
    keep = (j :: l).foldl (fun m k => m - 2 ^ k) (lpGet s p LINK_P_STAT_TX_LANES) → keep < 256 → (lkPort s p).txq = [] → (lkPort s p).replay = [] →
    ∃ t, exec (.cbLaneDrop p) s = .next t ∧
      if laneCount keep < minLanes s p then lpState t p = 6 ∧ lpGet t p LINK_P_STAT_TX_LANES = 0
      else lpState t p = lpState s p ∧ lpGet t p LINK_P_STAT_TX_LANES = keep ∧ Sp.get 0 (lkPort t p).cbOut 4 = controlBlock 4 keep ∧
        (lkPort t p).marksTo = s.now + 10 * usTicks) ∧
  (∀ (s : State) (p b : Nat) (rest : List Nat), cbFirst s p 4 b rest → cbSound b = true →
    ∃ t, exec (.cbLaneSwitch p) s = .next t ∧ lpGet t p LINK_P_STAT_RX_LANES = cbData b % 256 ∧ (lkPort t p).lock = false ∧
      (lkPort t p).dropMask = none) ∧
  (∀ (s : State) (p b : Nat) (rest : List Nat), cbFirst s p 5 b rest → cbSound b = true → (lkPort s p).txq = [] →
    ∃ t, exec (.cbInit p) s = .next t ∧ lpGet t p LINK_P_STAT_FAR_ADDR = bits (cbData b) 5 0 ∧ lpGet t p LINK_P_STAT_FAR_PORT = bits (cbData b) 8 7 ∧
      lpGet t p LINK_P_STAT_FAR_V = bits (cbData b) 6 6 ∧ lpState t p = if lpState s p = 3 then 4 else lpState s p) ∧
  (∀ k f, (k, f) ∈ cbCommands → ∀ (s : State) (p b : Nat) (rest : List Nat), cbFirst s p k b rest → cbSound b = false →
    exec (f p) s = .next (s.lport p fun l => { l with rxCtl := rest })) ∧
  (∀ (s : State) (p : Nat) (marks : Bool) (lanes : List Nat), p < 4 → lpState s p = 4 → (lkPort s p).waitL = false →
    rsDecode (wordIn s p lanes) = none →
    ∃ t, exec (.codewordReceived p marks lanes) s = .next t ∧ lpGet t p LINK_P_FECU_COUNT = min (lpGet s p LINK_P_FECU_COUNT + 1) (2 ^ 32 - 1) ∧
      (lkPort t p).waitL = true ∧ (lkPort t p).retryAt = s.now ∧ Sp.get 0 (lkPort t p).cbOut 2 = controlBlock 2 (lkPort s p).expL ∧
      (lkPort t p).rxCtl = (lkPort s p).rxCtl) ∧
  (∀ (s : State) (p : Nat) (lanes word blocks : List Nat) (at_ : List Nat), hears s p = true → (lkPort s p).lock = true →
    rsDecode (wordIn s p lanes) = some (word, at_) → blocks = (scrambleAll true (lkPort s p).descr (symsToBlocks word)).2 →
    ∃ t, exec (.codewordReceived p false lanes) s = .next t ∧
      (lkPort t p).rxFlits = (lkPort s p).rxFlits ++ (blocks.filter fun b => bit b 0).map (· / 2) ∧
      (lkPort t p).rxCtl = (lkPort s p).rxCtl ++ blocks.filter fun b => !bit b 0) ∧
  (∀ (s : State) (p lane : Nat) (lanes word at_ : List Nat) (marks : Bool), hears s p = true → rsDecode (wordIn s p lanes) = some (word, at_) →
    lane ∈ activeLanes s p lanes →
    ∃ t, exec (.codewordReceived p marks lanes) s = .next t ∧ t.get pgLINK ((LINK_P_SER_COUNT.at 256 p).at 4 lane) =
      min (s.get pgLINK ((LINK_P_SER_COUNT.at 256 p).at 4 lane) + (at_.filter fun i => (activeLanes s p lanes).getD (i % (activeLanes s p lanes).length) 0 == lane).length) (2 ^ 32 - 1)) ∧
  (∀ (s : State) (p : Nat) (lanes word : List Nat), hears s p = true → rsDecode (wordIn s p lanes) = some (word, []) →
    exec (.codewordReceived p true lanes) s = .next s)

/-- A DOWN port that is enabled goes to TRAIN, or to LOOPBACK where LOOP says so; one of PMD 3 stays DOWN. Disabling drains a port on its way
UP or UP, and the end of draining brings it DOWN. RETRAIN, by whichever master may write, brings a port that is UP or FAILED to TRAIN (R11,
R404). Training with MIN_LANES in both directions leads to ALIGN with those lanes, and with fewer to FAILED; alignment leads to INIT with the
sequence numbers and credits reset and an INIT block sent, or to FAILED (R403). The last RETRY without progress, and silence for 100 µs, fail a port; an
earlier RETRY is repeated (R398). A lost lane asks the far side to drop it; an interval above the threshold is only counted, or is the
third in a row and loses the lane; a receiver that has locked again asks for a retry (R405). -/
def Obligations.LinkPortStates : Prop :=
  (∀ (s : State) (m : Master) (p : Nat) (w : Word32), p < 4 → p < s.cfg.links → mayWrite s m pgLINK (LINK_P_CTL + 256 * p) true = true →
    lpState s p = 0 →
    ∃ t, exec (.linkPortEnable m p w) s = .next t ∧ lpGet t p LINK_P_CTL_EN = 1 ∧
      lpState t p = if LINK_P_CTL_PMD.of w = 3 then 0 else if LINK_P_CTL_LOOP.of w = 0 then 1 else 7) ∧
  (∀ (s : State) (m : Master) (p : Nat) (w : Word32), p < 4 → p < s.cfg.links → mayWrite s m pgLINK (LINK_P_CTL + 256 * p) true = true →
    1 ≤ lpState s p → lpState s p ≤ 4 → lpGet s p LINK_P_CTL_EN = 1 →
    ∃ t, exec (.linkPortDisable m p w) s = .next t ∧ lpGet t p LINK_P_CTL_EN = 0 ∧ lpState t p = 5 ∧ (lkPort t p).drainAt = s.now) ∧
  (∀ (s : State) (m : Master) (p : Nat), p < 4 → p < s.cfg.links → mayWrite s m pgLINK (LINK_P_CTL + 256 * p) false = true →
    lpState s p = 4 ∨ lpState s p = 6 → lpGet s p LINK_P_CTL_EN = 1 →
    ∃ t, exec (.retrain m p) s = .next t ∧ lpState t p = 1 ∧ lpGet t p LINK_P_STAT_TX_LANES = 0 ∧ lpGet t p LINK_P_STAT_RX_LANES = 0) ∧
  (∀ (s : State) (p : Nat), p < 4 → lpState s p = 5 → (lkPort s p).replay = [] ∨ (lkPort s p).drainAt + hundredUs ≤ s.now →
    (lkPort s p).txq = [] → lpGet s p LINK_P_CTL_EN = 0 →
    ∃ t, exec (.linkDrainDone p) s = .next t ∧ lpState t p = 0 ∧ (lkPort t p).replay = []) ∧
  (∀ (s : State) (p tx rx : Nat), p < 4 → lpState s p = 1 → tx < 256 → rx < 256 → minLanes s p ≤ laneCount tx → minLanes s p ≤ laneCount rx →
    ∃ t, exec (.linkTrainDone p tx rx) s = .next t ∧ lpState t p = 2 ∧ lpGet t p LINK_P_STAT_TX_LANES = tx ∧ lpGet t p LINK_P_STAT_RX_LANES = rx) ∧
  (∀ (s : State) (p tx rx : Nat), p < 4 → lpState s p = 1 → tx < 256 → rx < 256 → laneCount tx < minLanes s p ∨ laneCount rx < minLanes s p →
    (lkPort s p).txq = [] → (lkPort s p).replay = [] → ∃ t, exec (.linkTrainDone p tx rx) s = .next t ∧ lpState t p = 6) ∧
  (∀ (s : State) (p : Nat), p < 4 → lpState s p = 2 →
    ∃ t, exec (.linkAlignDone p true) s = .next t ∧ lpState t p = 3 ∧ (lkPort t p).nextL = 0 ∧ (lkPort t p).expL = 0 ∧ (lkPort t p).sentC = [] ∧
      (lkPort t p).farC = [] ∧ (lkPort t p).txq = (lkPort s p).replay ++ (lkPort s p).txq ∧
      Sp.get 0 (lkPort t p).cbOut 5 = initBlock s p) ∧
  (∀ (s : State) (p : Nat), p < 4 → (lkPort s p).txq = [] → (lkPort s p).replay = [] → ∀ i,
    (i = .linkAlignDone p false ∧ lpState s p = 2) ∨ (i = .linkSilenceTimeout p ∧ lpState s p = 4 ∧ (lkPort s p).heard + hundredUs ≤ s.now) ∨
      (i = .retryRepeat p ∧ lpState s p = 4 ∧ (lkPort s p).waitL = true ∧ (lkPort s p).lock = true ∧ (lkPort s p).retryAt + usTicks ≤ s.now ∧
        max 1 (s.get pgLINK LINK_LK_CFG_RETRY_MAX) ≤ (lkPort s p).retries) →
    ∃ t, exec i s = .next t ∧ lpState t p = 6 ∧ lpGet t p LINK_P_STAT_TX_LANES = 0) ∧
  (∀ (s : State) (p : Nat), p < 4 → lpState s p = 4 → (lkPort s p).waitL = true → (lkPort s p).lock = true → (lkPort s p).retryAt + usTicks ≤ s.now →
    (lkPort s p).retries < max 1 (s.get pgLINK LINK_LK_CFG_RETRY_MAX) →
    ∃ t, exec (.retryRepeat p) s = .next t ∧ (lkPort t p).retries = (lkPort s p).retries + 1 ∧ (lkPort t p).retryAt = s.now ∧
      Sp.get 0 (lkPort t p).cbOut 2 = controlBlock 2 (lkPort s p).expL ∧ t.regs = s.regs) ∧
  (∀ (s : State) (p lane : Nat) (signal : Bool), p < 4 → lane < 8 → lpState s p = 4 → (lkPort s p).dropMask = none →
    bit (lpGet s p LINK_P_STAT_RX_LANES) lane = true → minLanes s p ≤ laneCount (lpGet s p LINK_P_STAT_RX_LANES - 2 ^ lane) →
    ∃ t, exec (.laneLoss p lane signal) s = .next t ∧ (lkPort t p).dropMask = some (lpGet s p LINK_P_STAT_RX_LANES - 2 ^ lane) ∧
      Sp.get 0 (lkPort t p).cbOut 3 = controlBlock 3 (lpGet s p LINK_P_STAT_RX_LANES - 2 ^ lane) ∧
      (lkPort t p).lock = false ∧ (lkPort t p).waitL = true ∧ lpGet t p LINK_P_LDROP_LANE = lane ∧ lpGet t p LINK_P_LDROP_CAUSE = if signal then 1 else 2) ∧
  (∀ (s : State) (p : Nat), p < 4 → lpState s p = 4 → (∀ j < 8, laneAbove s p j = true → (lkPort s p).serHigh.getD j 0 < 2) →
    ∃ t, exec (.serInterval p) s = .next t ∧ lkPort t p = { lkPort s p with
      serMark := [], serHigh := (List.range 8).map (fun j => if laneAbove s p j then (lkPort s p).serHigh.getD j 0 + 1 else 0) } ∧ t.regs = s.regs) ∧
  (∀ (s : State) (p lane : Nat), p < 4 → lpState s p = 4 → lane < 8 → laneAbove s p lane = true → 2 ≤ (lkPort s p).serHigh.getD lane 0 →
    (∀ j < 8, j ≠ lane → laneAbove s p j = false) → (lkPort s p).dropMask = none → bit (lpGet s p LINK_P_STAT_RX_LANES) lane = true →
    minLanes s p ≤ laneCount (lpGet s p LINK_P_STAT_RX_LANES - 2 ^ lane) →
    ∃ t, exec (.serInterval p) s = .next t ∧ (lkPort t p).dropMask = some (lpGet s p LINK_P_STAT_RX_LANES - 2 ^ lane) ∧
      lpGet t p LINK_P_LDROP_LANE = lane ∧ lpGet t p LINK_P_LDROP_CAUSE = 3) ∧
  (∀ (s : State) (p : Nat), p < 4 → lpState s p = 4 → (lkPort s p).lock = false → (lkPort s p).dropMask = none →
    ∃ t, exec (.laneRelock p) s = .next t ∧ (lkPort t p).lock = true ∧ (lkPort t p).waitL = true ∧ (lkPort t p).retryAt = s.now ∧
      (lkPort t p).retries = 1 ∧ Sp.get 0 (lkPort t p).cbOut 2 = controlBlock 2 (lkPort s p).expL ∧ t.regs = s.regs)

/-- A forwarding entry is written whole (R400). On the manager GO takes address 0 and sends CLEAR; a CLEAR that has come round is followed by
ENUM 1, an ENUM by DONE with the count, or by FAILED beyond 64 devices, and a DONE ends enumeration. On a worker CLEAR drops its address,
ENUM gives it one below 64 and is passed on raised by one, DONE gives the count (R407). A frame that fails its CRC is noted and stopped,
and one of a reserved OP is passed on as it is (R406). No frame in time ends enumeration FAILED. A worker's GO, and its period, start the
time exchange, and send its request where the port to the manager can (R410); an exchange, or a packet, that is not answered in time is given
up (R410, R412). The CRC's initial value is the model's choice (log entry 65). -/
def Obligations.LinkChainAndTime : Prop :=
  (∀ (s : State) (m : Master) (a : Nat) (w : Word32), a < 64 → mayWrite s m pgLINK (LINK_FWD + 4 * a) true = true →
    ∃ t, exec (.fwdWrite m a w) s = .next t ∧ t.get pgLINK (LINK_FWD_VALID.at 4 a) = LINK_FWD_VALID.of w ∧
      t.get pgLINK (LINK_FWD_WRAP.at 4 a) = LINK_FWD_WRAP.of w ∧ t.get pgLINK (LINK_FWD_PORT.at 4 a) = LINK_FWD_PORT.of w ∧ t.link = s.link) ∧
  (∀ (s : State) (m : Master), mayWrite s m pgLINK LINK_ENUM_CTL false = true → isManager s = true →
    ∃ t, exec (.enumGo m) s = .next t ∧ devAddr t = 0 ∧ t.flag pgLINK LINK_ENUM_STAT_ADDR_V = true ∧ t.get pgLINK LINK_ENUM_STAT_STATE = 1 ∧
      t.link.chainOut = some (chainFrame 3 0 0) ∧ t.link.chainAt = some (3, s.now)) ∧
  (∀ (s : State) (w : Nat), frameIn s 3 w → isManager s = true → chainWaits s 3 = true →
    ∃ t, exec (.chainClear w) s = .next t ∧ t.link.chainOut = some (chainFrame 1 1 0) ∧ t.link.chainAt = some (1, s.now)) ∧
  (∀ (s : State) (w : Nat), frameIn s 3 w → isManager s = false →
    ∃ t, exec (.chainClear w) s = .next t ∧ t.flag pgLINK LINK_ENUM_STAT_ADDR_V = false ∧ t.get pgLINK LINK_ENUM_STAT_STATE = 1 ∧
      t.link.chainOut = some (chainFrame 3 0 0)) ∧
  (∀ (s : State) (w : Nat), frameIn s 1 w → isManager s = true → chainWaits s 1 = true → frameAddr w < 65 →
    ∃ t, exec (.chainEnum w) s = .next t ∧ t.link.chainOut = some (chainFrame 2 0 (frameAddr w)) ∧ t.link.chainAt = some (2, s.now)) ∧
  (∀ (s : State) (w : Nat), frameIn s 1 w → isManager s = true → chainWaits s 1 = true → 65 ≤ frameAddr w →
    ∃ t, exec (.chainEnum w) s = .next t ∧ t.get pgLINK LINK_ENUM_STAT_STATE = 3 ∧ t.get pgLINK LINK_ENUM_STAT_CAUSE = 1 ∧ t.link.chainAt = none) ∧
  (∀ (s : State) (w : Nat), frameIn s 1 w → isManager s = false → frameAddr w < 64 →
    ∃ t, exec (.chainEnum w) s = .next t ∧ devAddr t = frameAddr w ∧ t.flag pgLINK LINK_ENUM_STAT_ADDR_V = true ∧
      t.link.chainOut = some (chainFrame 1 (frameAddr w + 1) 0)) ∧
  (∀ (s : State) (w : Nat), frameIn s 1 w → isManager s = false → 64 ≤ frameAddr w →
    ∃ t, exec (.chainEnum w) s = .next t ∧ devAddr t = devAddr s ∧ t.get pgLINK LINK_ENUM_STAT_CAUSE = 1 ∧
      t.link.chainOut = some (chainFrame 1 (frameAddr w + 1) 0)) ∧
  (∀ (s : State) (w : Nat), frameIn s 2 w → isManager s = true → chainWaits s 2 = true →
    ∃ t, exec (.chainDone w) s = .next t ∧ enumerated t = true ∧ devices t = frameCount w ∧ t.link.chainAt = none) ∧
  (∀ (s : State) (w : Nat), frameIn s 2 w → isManager s = false →
    ∃ t, exec (.chainDone w) s = .next t ∧ enumerated t = true ∧ devices t = frameCount w ∧
      t.link.chainOut = some (chainFrame 2 0 (frameCount w))) ∧
  (∀ (s : State) (w : Nat), s.cfg.links ≠ 0 → frameSound w = false → ∀ i ∈ [Instr.chainClear w, .chainEnum w, .chainDone w],
    ∃ t, exec i s = .next t ∧ t.get pgLINK LINK_ENUM_STAT_CAUSE = 3 ∧ t.link = s.link) ∧
  (∀ (s : State) (w : Nat), s.cfg.links ≠ 0 → frameSound w = true → frameOp w ∉ [1, 2, 3] → ∀ i ∈ [Instr.chainClear w, .chainEnum w, .chainDone w],
    exec i s = .next { s with link := { s.link with chainOut := some w } }) ∧
  (∀ (s : State) (op tm : Nat), s.link.chainAt = some (op, tm) → tm + hundredUs * s.get pgLINK LINK_ENUM_CTL_TMO ≤ s.now →
    ∃ t, exec .enumTimeout s = .next t ∧ t.get pgLINK LINK_ENUM_STAT_STATE = 3 ∧ t.get pgLINK LINK_ENUM_STAT_CAUSE = 2 ∧ t.link.chainAt = none) ∧
  (∀ (s : State) (m : Master), mayWrite s m pgLINK LINK_TS_CTL false = true → isManager s = false →
    ∃ t, exec (.tsGo m) s = .next t ∧ t.link.ts = some (s.now, s.now)) ∧
  (∀ (s : State) (m : Master) (p : Nat), mayWrite s m pgLINK LINK_TS_CTL false = true → isManager s = false → wayTo s 0 p →
    ∃ t, exec (.tsGo m) s = .next t ∧ (lkPort t p).replay.map (fun x => (x.pk.ptype, x.pk.dst, x.pk.h2, x.pk.h3)) =
      [(12, 0, s.now % 2 ^ 32, s.now / 2 ^ 32 % 2 ^ 32)]) ∧
  (∀ (s : State), s.cfg.links ≠ 0 → s.get pgLINK LINK_TS_CTL_PERIOD ≠ 0 → isManager s = false →
    s.link.tsAt + s.get pgLINK LINK_TS_CTL_PERIOD * msTicks ≤ s.now →
    ∃ t, exec .tsPeriod s = .next t ∧ t.link.ts = some (s.now, s.now) ∧ t.link.tsAt = s.now) ∧
  (∀ (s : State) (t1 tm : Nat), s.get pgLINK LINK_E2E_TMO_TICKS ≠ 0 → s.link.ts = some (t1, tm) → tm + s.get pgLINK LINK_E2E_TMO_TICKS ≤ s.now →
    ∃ t, exec (.e2eTimeout 0) s = .next t ∧ t.link.ts = none ∧ t.flag pgLINK LINK_TS_CTL_ERR = true) ∧
  (∀ (s : State) (etag : Nat) (e : SentPk), s.get pgLINK LINK_E2E_TMO_TICKS ≠ 0 → etag ≠ 0 →
    (s.link.sent.find? fun e => e.etag == etag) = some e → e.time + s.get pgLINK LINK_E2E_TMO_TICKS ≤ s.now → e.who ≠ .other →
    ∃ t, exec (.e2eTimeout etag) s = .next t ∧ t.link.sent = s.link.sent.filter (fun e => e.etag != etag) ∧
      t.link.results = s.link.results ++ [(e.who, some 0x44)])

/-- A packet of each type that comes in order over a link port, for this device, and one that this device has sent to itself, leaves its
receive buffer with its effect where it can have it at once; over a link it is acknowledged, counted and charged (R390 to R399, R415). A
bulk write that its window admits is sent into the Hub as its part (R418, R419); a notify that is admitted waits in the fence table
(R431); an arrival that does not complete its domain barrier is counted (R337); a LACK ends the wait of the packet it names, and a NAK
ends it with its cause (R434, R435); a grant adds credits to its account (R430); a time response, stamped as it is received, sets the offset of
domain time (R410). -/
def Obligations.PacketsTaken : Prop :=
  (∀ ty f, (ty, f) ∈ packetKinds → ∀ (s u : State) (p : Nat) (pk : Packet) (rest : List Nat), pk.ptype = ty → comesIn s p pk rest →
    takeHead (taken s p pk rest) p (stampIn s pk) = some u → restful u → u.cfg.links ≠ 0 →
    (∀ q < 5, q ≠ p → (lkPort u q).rxq = []) → (lkPort u p).rxq = [stampIn s pk] →
    exec (f p) s = .next (consumed u p)) ∧
  (∀ ty f, (ty, f) ∈ packetKinds → ∀ (s S u : State) (pk : Packet) (rest : List Packet), pk.ptype = ty → s.link.here = pk :: rest →
    s.cfg.links ≠ 0 → idleWin s → S = (s.lnk fun l => { l with here := rest }).lport 4 (fun l => { l with rxq := [stampIn s pk] }) →
    takeHead S 4 (stampIn s pk) = some u → restful u → u.cfg.links ≠ 0 →
    (∀ q < 4, (lkPort u q).rxq = []) → (lkPort u 4).rxq = [stampIn s pk] →
    exec (f 4) s = .next (consumed u 4)) ∧
  (∀ (s u : State) (p tid : Nat) (pk : Packet) (rest : List Nat) (part : Nat × Nat × Nat) (S : State) (a : Arrival), pk.ptype = 1 → comesIn s p pk rest →
    S = taken s p pk rest → bwrCheck S pk = none → tid = winGet S (pk.h2 % 256) WINDOW_TAB_WIN_CFG0_TID → shareFull S tid = false →
    tidStopped S tid = false → a = arrivalOf S p pk tid (winGet S (pk.h2 % 256) WINDOW_TAB_WIN_CFG0_HANDLE) part none →
    cutParts (512 * winGet S (pk.h2 % 256) WINDOW_TAB_WIN_CFG1_BASE + pk.h3 % 2 ^ 29) (pk.h4 % 512 + 1)
      (pk.data / 256 ^ ((512 * winGet S (pk.h2 % 256) WINDOW_TAB_WIN_CFG1_BASE + pk.h3 % 2 ^ 29) % 32)) = [part] →
    (arrives S a).sendPart a part = (true, u) → u.hub.answers = [] →
    ∃ t, exec (.pktBwr p) s = .next t ∧ t.win.arr = [{ a with parts := [], go := 1 }] ∧ t.hub = u.hub ∧ (lkPort t p).rxq = []) ∧
  (∀ (s : State) (p : Nat) (pk : Packet) (rest : List Nat), pk.ptype = 3 → comesIn s p pk rest → ntfyCheck (taken s p pk rest) pk = none →
    ∃ t, exec (.pktNtfy p) s = .next t ∧ t.win.fences = s.win.fences ++ [⟨pk, s.now, []⟩] ∧ (lkPort t p).expL = ((lkPort s p).expL + 1) % 4096 ∧
      (lkPort t p).rxFlits = rest) ∧
  (∀ (s : State) (p n : Nat) (pk : Packet) (rest : List Nat), pk.ptype = 4 → comesIn s p pk rest → barrGood (taken s p pk rest) pk = true →
    fenceMet s pk = true → n = pk.h2 % 64 → barGet s n SYNC_BAR_BSTAT_DEVCNT + 1 < barGet s n SYNC_BAR_BCFG_DEVS →
    ∃ t, exec (.pktBarr p) s = .next t ∧ barGet t n SYNC_BAR_BSTAT_DEVCNT = barGet s n SYNC_BAR_BSTAT_DEVCNT + 1 ∧
      t.sync.arrived = s.sync.arrived ++ [(n, pk.src)]) ∧
  (∀ (s : State) (p : Nat) (pk : Packet) (rest : List Nat) (tag : Nat) (e : SentPk), pk.ptype = 8 → comesIn s p pk rest → pk.h6 = 1 → pk.h2 = tag →
    tag < 2 ^ 16 → (s.link.sent.find? fun e => e.etag == tag) = some e → e.who ≠ .other →
    ∃ t, exec (.pktLack p) s = .next t ∧ t.link.sent = s.link.sent.filter (fun e => e.etag != tag) ∧ t.link.results = s.link.results ++ [(e.who, none)]) ∧
  (∀ (s : State) (p : Nat) (pk : Packet) (rest : List Nat) (e : SentPk), pk.ptype = 9 → comesIn s p pk rest →
    (s.link.sent.find? fun e => e.etag == pk.etag) = some e → e.who ≠ .other →
    ∃ t, exec (.pktNak p) s = .next t ∧ t.link.sent = s.link.sent.filter (fun e => e.etag != pk.etag) ∧
      t.link.results = s.link.results ++ [(e.who, some (pk.h2 % 256))]) ∧
  (∀ (s : State) (p a : Nat) (pk : Packet) (rest : List Nat), pk.ptype = 10 → comesIn s p pk rest → a = bits pk.h2 31 26 →
    s.flag pgMOVER (MOVER_CA_CFG_VALID.at 8 a) = true → s.get pgMOVER (MOVER_CA_CFG_DEV.at 8 a) = pk.src →
    ∃ t, exec (.pktCgrant p) s = .next t ∧ t.get pgMOVER (MOVER_CA_CRED_CREDITS.at 8 a) =
      min (s.get pgMOVER (MOVER_CA_CRED_CREDITS.at 8 a) + pk.h2 % 2 ^ 16) (2 ^ 16 - 1)) ∧
  (∀ (s : State) (p t1 tm : Nat) (pk : Packet) (rest : List Nat), pk.ptype = 13 → comesIn s p pk rest → s.link.ts = some (t1, tm) →
    ∃ t, exec (.pktTsrsp p) s = .next t ∧ t.link.ts = none ∧ (t.rd (pgLINK + LINK_DT_OFS_LO)).toNat =
      dtOffset t1 (pk.h2 % 2 ^ 32 + 2 ^ 32 * (pk.h3 % 2 ^ 32)) (pk.h4 % 2 ^ 32 + 2 ^ 32 * (pk.h5 % 2 ^ 32)) s.now % 2 ^ 32)

/-- What four packets do that come in order over a link port, for this device. A token write that its channel, slot and handle admit is sent
into the Hub as its part, and its token notes whether it was the last (R426). A BREL for the running phase of a barrier that awaits it ends that
phase: its waiters are answered, the phase number rises, and the next phase, whose arrivals are not yet there, runs (R337). A BABT answers the
barrier's waiters and clears its counts (R338). The manager answers a TSREQ with a TSRSP that carries the stamps of its reception and of its
sending (R410); a worker discards it. -/
def Obligations.PacketsAct : Prop :=
  (∀ (s S F u : State) (p : Nat) (pk : Packet) (rest : List Nat) (part : Nat × Nat × Nat) (k : Token) (a : Arrival), pk.ptype = 2 →
    comesIn s p pk rest → S = taken s p pk rest → tokenWrites S F pk k →
    a = arrivalOf F p pk k.tid (ringGet F k.ring SYNC_RING_RCFG0_HANDLE) part (some k.id) →
    cutParts (tokenAt F pk k) (pk.h4 % 512 + 1) (pk.data / 256 ^ (tokenAt F pk k % 32)) = [part] →
    (arrives F a).sendPart a part = (true, u) → u.hub.answers = [] →
    ∃ t, exec (.pktTwr p) s = .next t ∧ t.win.arr = [{ a with parts := [], go := 1 }] ∧ t.hub = u.hub ∧ (lkPort t p).rxq = [] ∧
      t.win.tokens = F.win.tokens.map fun x => if x.id = k.id then { x with last := bit pk.h2 18, before := [a.id] } else x) ∧
  (∀ (s : State) (p n : Nat) (pk : Packet) (rest : List Nat), pk.ptype = 5 → comesIn s p pk rest → n = pk.h2 % 64 → awaitsRelease s n = true →
    barGet s n SYNC_BAR_BSTAT_PHASE = bits pk.h2 11 8 → barGet s n SYNC_BAR_BSTAT_COUNT < barGet s n SYNC_BAR_BCFG_EXPECT →
    ∃ t, exec (.pktBrel p) s = .next t ∧ barGet t n SYNC_BAR_BSTAT_PHASE = (barGet s n SYNC_BAR_BSTAT_PHASE + 1) % 16 ∧
      awaitsRelease t n = false ∧ t.sync.waiters = s.sync.waiters.filter (fun w => w.1 != n) ∧
      barGet t n SYNC_BAR_BSTAT_COUNT = barGet s n SYNC_BAR_BSTAT_COUNT ∧ (lkPort t p).rxq = []) ∧
  (∀ (s : State) (p n : Nat) (pk : Packet) (rest : List Nat), pk.ptype = 6 → comesIn s p pk rest → n = pk.h2 % 64 →
    ∃ t, exec (.pktBabt p) s = .next t ∧ barGet t n SYNC_BAR_BSTAT_COUNT = 0 ∧ barGet t n SYNC_BAR_BSTAT_DEVCNT = 0 ∧
      barGet t n SYNC_BAR_BSTAT_HELD = 0 ∧ awaitsRelease t n = false ∧ t.sync.waiters = s.sync.waiters.filter (fun w => w.1 != n) ∧
      barGet t n SYNC_BAR_BSTAT_PHASE = barGet s n SYNC_BAR_BSTAT_PHASE ∧ (lkPort t p).rxq = []) ∧
  (∀ (s : State) (p q : Nat) (pk : Packet) (rest : List Nat), pk.ptype = 12 → comesIn s p pk rest → isManager s = true → wayTo s pk.src q →
    ∃ t, exec (.pktTsreq p) s = .next t ∧ (lkPort t p).rxq = [] ∧
      (lkPort t q).replay.map (fun x => (x.pk.ptype, x.pk.dst, x.pk.h2, x.pk.h3, x.pk.h4, x.pk.h5)) =
        [(13, pk.src, s.now % 2 ^ 32, s.now / 2 ^ 32 % 2 ^ 32, s.now % 2 ^ 32, s.now / 2 ^ 32 % 2 ^ 32)]) ∧
  (∀ (s : State) (p : Nat) (pk : Packet) (rest : List Nat), pk.ptype = 12 → comesIn s p pk rest → isManager s = false →
    ∃ t, exec (.pktTsreq p) s = .next t ∧ (lkPort t p).rxq = [] ∧ ∀ q, (lkPort t q).replay = (lkPort s q).replay ∧
      (lkPort t q).txq = (lkPort s q).txq)

/-- WCTL takes EN and REG (R414, R422). OPEN of a CLOSED window whose checks pass makes it OPEN, and its landed-write counters 0 (R417, R420);
with REG 1 a registry record joins those to be sent (R422). A check that fails is the REASON in WERR, and the window stays CLOSED; OPEN of a
window that is not CLOSED is BUSY (R417, R421). CLOSE makes an OPEN window CLOSING. A CLOSING window with no write left is CLOSED, raises
its interrupt where DIRQ asks for it, and adds 1 to its counter where DCNT does (R421). -/
def Obligations.WindowCommands : Prop :=
  (∀ (s : State) (m : Master) (w : Word32), mayWrite s m pgWINCTL WINDOW_CTL_WCTL true = true → idleWin s →
    ∃ t, exec (.windowUnitEnable m w) s = .next t ∧ t.get pgWINCTL WINDOW_CTL_WCTL_EN = WINDOW_CTL_WCTL_EN.of w ∧
      t.get pgWINCTL WINDOW_CTL_WCTL_REG = WINDOW_CTL_WCTL_REG.of w ∧ t.link = s.link) ∧
  (∀ (s : State) (m : Master) (w : Nat), mayWrite s m (winBase w) (WINDOW_TAB_WIN_CFG0 + 16 * (w % 128)) false = true → w < 256 →
    winState s w = 0 → openReason s w = 0 → s.flag pgWINCTL WINDOW_CTL_WCTL_REG = false →
    ∃ t, exec (.windowOpen m w) s = .next t ∧ winState t w = 1 ∧ t.win.landed = s.win.landed.filter (fun e => e.1 / 64 != w) ∧
      (∀ src < 64, landedOf t w src = 0) ∧ t.link = s.link) ∧
  (∀ (s : State) (m : Master) (w : Nat), mayWrite s m (winBase w) (WINDOW_TAB_WIN_CFG0 + 16 * (w % 128)) false = true → w < 256 →
    winState s w = 0 → openReason s w = 0 → s.flag pgWINCTL WINDOW_CTL_WCTL_REG = true → tagRoom s = false →
    ∃ t, exec (.windowOpen m w) s = .next t ∧ winState t w = 1 ∧
      t.win.records.map (·.1) = s.win.records.map (·.1) ++ [32 * (256 * devAddr s + w)]) ∧
  (∀ (s : State) (m : Master) (w : Nat), mayWrite s m (winBase w) (WINDOW_TAB_WIN_CFG0 + 16 * (w % 128)) false = true → w < 256 →
    winState s w = 0 → openReason s w ≠ 0 →
    ∃ t, exec (.windowOpen m w) s = .next t ∧ winState t w = 0 ∧ t.get pgWINCTL WINDOW_CTL_WERR_REASON = openReason s w ∧
      t.get pgWINCTL WINDOW_CTL_WERR_KIND = 0 ∧ t.get pgWINCTL WINDOW_CTL_WERR_NUM = w ∧ t.win = s.win) ∧
  (∀ (s : State) (m : Master) (w : Nat), mayWrite s m (winBase w) (WINDOW_TAB_WIN_CFG0 + 16 * (w % 128)) false = true → w < 256 →
    winState s w ≠ 0 →
    ∃ t, exec (.windowOpen m w) s = .next t ∧ winState t w = winState s w ∧ t.get pgWINCTL WINDOW_CTL_WERR_BUSY = 1 ∧ t.win = s.win) ∧
  (∀ (s : State) (m : Master) (w : Nat), mayWrite s m (winBase w) (WINDOW_TAB_WIN_CFG0 + 16 * (w % 128)) false = true → w < 256 →
    winState s w = 1 →
    ∃ t, exec (.windowClose m w) s = .next t ∧ winState t w = 2 ∧ t.win = s.win) ∧
  (∀ (s : State) (w : Nat), idleWin s → s.cfg.links ≠ 0 → w < 256 → winState s w = 2 → s.flag pgWINCTL WINDOW_CTL_WCTL_REG = false →
    winGet s w WINDOW_TAB_WIN_CFG0_DCNT = 0 →
    ∃ t, exec (.windowCloseDone w) s = .next t ∧ winState t w = 0 ∧
      (winGet s w WINDOW_TAB_WIN_CFG0_DIRQ = 1 → (t.rd (pgWINCTL + HDR_IRQ_STAT)).toNat.testBit 0 = true)) ∧
  (∀ (s : State) (w c : Nat), idleWin s → s.cfg.links ≠ 0 → w < 256 → winState s w = 2 → s.flag pgWINCTL WINDOW_CTL_WCTL_REG = false →
    winGet s w WINDOW_TAB_WIN_CFG0_DCNT = 1 → winGet s w WINDOW_TAB_WIN_CFG2_COUNTER ≤ 47 →
    c = 48 * winGet s w WINDOW_TAB_WIN_CFG2_CORE + winGet s w WINDOW_TAB_WIN_CFG2_COUNTER → noWatch s c → parked s = false →
    ∃ t, exec (.windowCloseDone w) s = .next t ∧ winState t w = 0 ∧ counter t c = min (counter s c + 1) 0xFFFF)

/-- CCHc_CFG written with EN 1 to a DISABLED channel whose conditions hold enables it with its fields, LIMIT credits outstanding and no slot
full; a condition that fails is the REASON in WERR (R424). EN 0 makes an ENABLED channel DRAINING, which is DISABLED, and owes no more credits,
once no token of it is in progress (R425, R429). Returns that reach GRAN, or are 1 µs old, are granted: they are outstanding again, and none
is owed (R425). A token whose packets have all landed fills its slot, is counted, and is acknowledged (R426); one that has been refused,
and has left its marker, fills its slot and is refused with its cause (R427). -/
def Obligations.CreditChannels : Prop :=
  (∀ (s : State) (m : Master) (c : Nat) (w : Word32), mayWrite s m pgWINCCH (WINDOW_CCH_CCH_CFG + 16 * c) true = true → c < 64 →
    cchState s c = 0 → cchReason (cchFields s c w) c = 0 →
    ∃ t, exec (.cchEnable m c w) s = .next t ∧ cchState t c = 1 ∧ cchGet t c WINDOW_CCH_CCH_CFG_EN = 1 ∧
      cchGet t c WINDOW_CCH_CCH_STAT_OUTST = cchGet s c WINDOW_CCH_CCH_LIM_LIMIT ∧ cchGet t c WINDOW_CCH_CCH_STAT_FULL = 0 ∧
      cchGet t c WINDOW_CCH_CCH_CFG_SDEV = WINDOW_CCH_CCH_CFG_SDEV.of w ∧ cchGet t c WINDOW_CCH_CCH_CFG_RING = WINDOW_CCH_CCH_CFG_RING.of w) ∧
  (∀ (s : State) (m : Master) (c : Nat) (w : Word32), mayWrite s m pgWINCCH (WINDOW_CCH_CCH_CFG + 16 * c) true = true → c < 64 →
    cchState s c = 0 → cchReason (cchFields s c w) c ≠ 0 →
    ∃ t, exec (.cchEnable m c w) s = .next t ∧ cchState t c = 0 ∧ t.get pgWINCTL WINDOW_CTL_WERR_REASON = cchReason (cchFields s c w) c ∧
      t.get pgWINCTL WINDOW_CTL_WERR_KIND = 1 ∧ t.get pgWINCTL WINDOW_CTL_WERR_NUM = c) ∧
  (∀ (s : State) (m : Master) (c : Nat) (w : Word32), mayWrite s m pgWINCCH (WINDOW_CCH_CCH_CFG + 16 * c) true = true → c < 64 →
    ∃ t, exec (.cchDisable m c w) s = .next t ∧ cchGet t c WINDOW_CCH_CCH_CFG_EN = 0 ∧
      cchState t c = if cchState s c = 1 then 2 else cchState s c) ∧
  (∀ (s : State) (c : Nat), c < 64 → cchState s c = 2 → (∀ t ∈ s.win.tokens, t.cch ≠ c) →
    ∃ t, exec (.cchDrainDone c) s = .next t ∧ cchState t c = 0 ∧ cchGet t c WINDOW_CCH_CCH_STAT_OUTST = 0 ∧
      cchGet t c WINDOW_CCH_CCH_STAT_FULL = 0 ∧ t.sync.owed = Sp.del s.sync.owed c ∧ ∀ e ∈ t.sync.filler, e.2 ≠ c) ∧
  (∀ (s : State) (c n since : Nat), c < 64 → cchState s c = 1 → Sp.get (0, 0) s.sync.owed c = (n, since) → n ≠ 0 →
    max 1 (cchGet s c WINDOW_CCH_CCH_LIM_GRAN) ≤ n ∨ since + usTicks ≤ s.now →
    ∃ t, exec (.creditReturn c) s = .next t ∧ t.sync.owed = Sp.del s.sync.owed c ∧
      cchGet t c WINDOW_CCH_CCH_STAT_OUTST = (cchGet s c WINDOW_CCH_CCH_STAT_OUTST + n) % 2 ^ 14) ∧
  (∀ (s : State) (id : Nat) (k : Token), idleWin s → s.cfg.links ≠ 0 → (s.win.tokens.find? fun t => t.id == id) = some k → k.last = true →
    k.bad = none → k.cch < 64 → k.slot < 16384 → tagFull s k.ring k.slot = false → s.sync.parks = [] →
    ∃ t, exec (.tokenLanded id) s = .next t ∧ t.win.tokens = s.win.tokens.filter (fun k => k.id != id) ∧ tagFull t k.ring k.slot = true ∧
      cchGet t k.cch WINDOW_CCH_CCH_STAT_FULL = (cchGet s k.cch WINDOW_CCH_CCH_STAT_FULL + 1) % 2 ^ 14 ∧
      cchGet t k.cch WINDOW_CCH_CCH_CNT_TOKENS = (cchGet s k.cch WINDOW_CCH_CCH_CNT_TOKENS + 1) % 2 ^ 32 ∧
      (k.etag ≠ 0 → (Sp.get ([], s.now) s.link.lacks k.src).1.length < 7 → t.link.lacks = Sp.set s.link.lacks k.src
        ((Sp.get ([], s.now) s.link.lacks k.src).1 ++ [k.etag], (Sp.get ([], s.now) s.link.lacks k.src).2))) ∧
  (∀ (s : State) (id c : Nat) (k : Token), idleWin s → s.cfg.links ≠ 0 → (s.win.tokens.find? fun t => t.id == id) = some k → k.bad = some c →
    k.marked = true → k.cch < 64 → k.slot < 16384 → tagFull s k.ring k.slot = false → s.sync.parks = [] →
    ∃ t, exec (.tokenLanded id) s = .next t ∧ t.win.tokens = s.win.tokens.filter (fun k => k.id != id) ∧ tagFull t k.ring k.slot = true ∧
      t.get pgLINK LINK_NAK_CNT_COUNT = min (s.get pgLINK LINK_NAK_CNT_COUNT + 1) (2 ^ 32 - 1) ∧
      cchGet t k.cch WINDOW_CCH_CCH_CNT_TOKENS = cchGet s k.cch WINDOW_CCH_CCH_CNT_TOKENS)

/-- The entries gathered for a source are sent in one LACK once eight are there or 256 ns have passed (R434). A held notify whose fence is
met and whose earlier writes have landed adds 1 to its counter, or fills its slot, and leaves the table (R431); a held arrival is counted at its
barrier (R433). An entry held for FENCE_TMO leaves the table and is counted: a notify is refused with cause 19H, an arrival is discarded (R431,
R433). SENT_SEL.CLR clears the sent count it selects, and CLRALL, by whichever master may write, all of them (R11, R432). -/
def Obligations.FencesAndAcks : Prop :=
  (∀ (s : State) (src since p : Nat) (tags : List Nat), idleWin s → s.cfg.links ≠ 0 → Sp.get ([], 0) s.link.lacks src = (tags, since) → tags ≠ [] →
    8 ≤ tags.length ∨ since + 26 ≤ s.now → wayTo s src p →
    ∃ t, exec (.lackSend src) s = .next t ∧ t.link.lacks = Sp.del s.link.lacks src ∧
      (lkPort t p).replay.map (fun x => (x.pk.ptype, x.pk.dst, x.pk.h6, x.pk.h2, x.pk.h3, x.pk.h4, x.pk.h5)) = [(8, src, tags.length,
        tags.getD 0 0 + 2 ^ 16 * tags.getD 1 0, tags.getD 2 0 + 2 ^ 16 * tags.getD 3 0, tags.getD 4 0 + 2 ^ 16 * tags.getD 5 0,
        tags.getD 6 0 + 2 ^ 16 * tags.getD 7 0)]) ∧
  (∀ (s : State) (k c : Nat) (h : Held), idleWin s → s.cfg.links ≠ 0 → s.win.fences[k]? = some h → h.pk.ptype = 3 → fenceMet s h.pk = true →
    bit h.pk.h2 31 = false → bits h.pk.h2 27 22 ≤ 47 → c = 48 * bits h.pk.h2 30 28 + bits h.pk.h2 27 22 → noWatch s c →
    parked s = false →
    ∃ t, exec (.notifyEffect k) s = .next t ∧ t.win.fences = s.win.fences.eraseIdx k ∧ counter t c = min (counter s c + 1) 0xFFFF) ∧
  (∀ (s : State) (k : Nat) (h : Held), idleWin s → s.cfg.links ≠ 0 → s.win.fences[k]? = some h → h.pk.ptype = 3 → fenceMet s h.pk = true →
    bit h.pk.h2 31 = true → ringOn s (bits h.pk.h3 31 24) = true → tagFull s (bits h.pk.h3 31 24) (bits h.pk.h3 23 10) = false →
    s.sync.parks = [] →
    ∃ t, exec (.notifyEffect k) s = .next t ∧ t.win.fences = s.win.fences.eraseIdx k ∧
      tagFull t (bits h.pk.h3 31 24) (bits h.pk.h3 23 10) = true) ∧
  (∀ (s : State) (k n : Nat) (h : Held), idleWin s → s.cfg.links ≠ 0 → s.win.fences[k]? = some h → h.pk.ptype = 4 → h.before = [] →
    fenceMet s h.pk = true → n = h.pk.h2 % 64 → barOn s n = true → barGet s n SYNC_BAR_BCFG_DOMAIN = 1 →
    barGet s n SYNC_BAR_BSTAT_PHASE % 16 = bits h.pk.h2 11 8 → barGet s n SYNC_BAR_BSTAT_DEVCNT + 1 < barGet s n SYNC_BAR_BCFG_DEVS →
    ∃ t, exec (.notifyEffect k) s = .next t ∧ t.win.fences = s.win.fences.eraseIdx k ∧
      barGet t n SYNC_BAR_BSTAT_DEVCNT = barGet s n SYNC_BAR_BSTAT_DEVCNT + 1 ∧ t.sync.arrived = s.sync.arrived ++ [(n, h.pk.src)]) ∧
  (∀ (s : State) (k : Nat) (h : Held), idleWin s → s.cfg.links ≠ 0 → s.win.fences[k]? = some h → s.get pgWINCTL WINDOW_CTL_FENCE_TMO_TICKS ≠ 0 →
    h.at_ + s.get pgWINCTL WINDOW_CTL_FENCE_TMO_TICKS ≤ s.now →
    ∃ t, exec (.fenceTimeout k) s = .next t ∧ t.win.fences = s.win.fences.eraseIdx k ∧
      t.get pgWINCTL WINDOW_CTL_FENCE_TO_CNT_COUNT = min (s.get pgWINCTL WINDOW_CTL_FENCE_TO_CNT_COUNT + 1) (2 ^ 32 - 1) ∧
      if h.pk.ptype = 4 then t.get pgWINCTL WINDOW_CTL_BAR_DISC_COUNT = min (s.get pgWINCTL WINDOW_CTL_BAR_DISC_COUNT + 1) (2 ^ 32 - 1)
      else t.rd (pgLINK + LINK_NAK_LAST) = BitVec.ofNat 32 (0x19 * 2 ^ 24 + h.pk.src * 2 ^ 16 + h.pk.dst * 2 ^ 8 + h.pk.ptype)) ∧
  (∀ (s : State) (m : Master) (dev w : Nat), mayWrite s m pgWINCTL WINDOW_CTL_SENT_SEL true = true → dev < 64 → w < 256 →
    ∃ t, exec (.sentClr m dev w) s = .next t ∧ t.win = { s.win with sentN := Sp.del s.win.sentN (256 * dev + w) }) ∧
  (∀ (s : State) (m : Master), mayWrite s m pgWINCTL WINDOW_CTL_SENT_SEL false = true →
    ∃ t, exec (.sentClrall m) s = .next t ∧ t.win = { s.win with sentN := [] })

/-- RIM_CMD RETIRE with the spare Idle gives the spare its role and starts its clear (R460, R461); of a rim that nothing stands at, whose
layer has no spare left, it ends with RESULT 2 and the rim has no physical rim (R461). The spare takes over: it serves the rim, its valid bits
are clear, every lost bit of it is set, and the old rim is PARKED (R460). EVACUATE with the spare Idle and the rim in service starts the
copy, with the spare's valid bits clear, and is refused where the spare has a role (R463). A pc in which the rim has nothing
else to do copies one line, and RIM_STAT counts the frame slots done; with the last line copied the spare serves the rim, and the old one
is PARKED (R463). ABORT ends an evacuation with RESULT 4 and the spare Idle (R465). While a retirement runs
every write of RIM_CMD is ignored. -/
def Obligations.RimRetirement : Prop :=
  (∀ (s : State) (m : Master) (layer i : Nat), mayWrite s m pgINTEG INTEG_RIM_CMD true = true →
    m ≠ .em1 ∨ s.flag pgINTEG INTEG_IG_CTL_AUTO_RETIRE = true → layer < s.cfg.dies → layer < 8 → i < 16 → s.integ.cmd = none →
    s.integ.sectors.contains (4 * layer + i / 4) = false → spareRole s layer = 0 →
    ∃ t, exec (.rimCmdRetire m layer i) s = .next t ∧ t.integ.cmd = some ⟨false, layer, i, s.pcNow⟩ ∧ spareRole t layer = 4 ∧
      spareFor t layer = i ∧ t.flag pgINTEG INTEG_RIM_STAT_BUSY = true ∧ t.array = s.array) ∧
  (∀ (s : State) (m : Master) (layer i : Nat), mayWrite s m pgINTEG INTEG_RIM_CMD true = true →
    m ≠ .em1 ∨ s.flag pgINTEG INTEG_IG_CTL_AUTO_RETIRE = true → layer < s.cfg.dies → layer < 8 → i < 16 → s.integ.cmd = none →
    s.integ.sectors.contains (4 * layer + i / 4) = false → 4 ≤ spareRole s layer → nothingAt s layer i →
    ∃ t, exec (.rimCmdRetire m layer i) s = .next t ∧ t.integ.cmd = none ∧ physOf t layer i = 31 ∧ t.get pgINTEG INTEG_RIM_STAT_RESULT = 2 ∧
      t.flag pgINTEG INTEG_RIM_STAT_BUSY = false) ∧
  (∀ (s : State) (c : RimCmd), s.integ.cmd = some c → c.evac = false → c.layer < 8 → c.rim < 16 → spareRole s c.layer = 4 →
    spareFor s c.layer = c.rim → nothingAt s c.layer c.rim →
    ∃ t, exec .spareTakeoverDone s = .next t ∧ physOf t c.layer c.rim = 16 ∧ rimUp t c.layer c.rim = true ∧ t.integ.cmd = none ∧
      t.get pgINTEG INTEG_RIM_STAT_RESULT = 0 ∧ t.flag pgINTEG INTEG_RIM_STAT_BUSY = false ∧
      (∀ k < slotsOf c.layer, t.array.lost.contains (lostKey c.layer 16 k) = true) ∧
      (∀ w ∈ t.array.validA, ¬ (idxLayer w = c.layer ∧ idxRim w = 16)) ∧
      (physOf s c.layer c.rim < 16 → rimPower t c.layer (physOf s c.layer c.rim) = 5)) ∧
  (∀ (s : State) (m : Master) (layer i : Nat), mayWrite s m pgINTEG INTEG_RIM_CMD true = true → layer < s.cfg.dies → layer < 8 → i < 16 →
    s.integ.cmd = none → spareRole s layer = 0 → physOf s layer i ≠ 31 → rimUp s layer i = true →
    ∃ t, exec (.rimCmdEvacuate m layer i) s = .next t ∧ t.integ.cmd = some ⟨true, layer, i, s.pcNow⟩ ∧ spareRole t layer = 3 ∧
      spareFor t layer = i ∧ t.flag pgINTEG INTEG_RIM_STAT_BUSY = true ∧ ∀ w ∈ t.array.validA, ¬ (idxLayer w = layer ∧ idxRim w = 16)) ∧
  (∀ (s : State) (m : Master) (layer i : Nat), mayWrite s m pgINTEG INTEG_RIM_CMD true = true → layer < s.cfg.dies → layer < 8 → i < 16 →
    s.integ.cmd = none → spareRole s layer ≠ 0 →
    ∃ t, exec (.rimCmdEvacuate m layer i) s = .next t ∧ t.integ.cmd = none ∧ spareRole t layer = spareRole s layer ∧ t.array = s.array ∧
      t.get pgINTEG INTEG_RIM_STAT_RESULT = if spareRole s layer ≤ 3 then 1 else 2) ∧
  (∀ (s : State) (c : RimCmd), s.integ.cmd = some c → c.evac = true → c.layer < 8 → c.rim < 16 → physOf s c.layer c.rim < 16 →
    copied s c.layer c.rim = true →
    ∃ t, exec .evacuationDone s = .next t ∧ physOf t c.layer c.rim = 16 ∧ spareRole t c.layer = 4 ∧ t.integ.cmd = none ∧
      rimPower t c.layer (physOf s c.layer c.rim) = 5 ∧ t.get pgINTEG INTEG_RIM_STAT_RESULT = 0 ∧
      t.flag pgINTEG INTEG_RIM_STAT_BUSY = false) ∧
  (∀ (s : State) (layer i : Nat) (j : CopyJob), rimReady s layer i → rimQueue s layer i = [] → claimsAt s layer i = [] → wbEntries s layer i = [] →
    (rimOf s layer (physOf s layer i)).half = none → copyOf s layer = some j → j.rim = i → j.more layer = true → spareRole s layer = 3 →
    heldBack s (j.access layer) = false → awaitsClear s layer (j.access layer).frame = false →
    stopped s (arbRim layer i) (j.access layer) = false → govHolds s (arbRim layer i) (j.access layer) = false →
    ∃ t, exec (.rimArbitration layer i) s = .next t ∧ (copyOf t layer).map (·.next) = some (j.next + 1) ∧
      t.get pgINTEG INTEG_RIM_STAT_FRAMES = (j.next + 1) / 16 % 2 ^ 11) ∧
  (∀ (s : State) (m : Master) (c : RimCmd), mayWrite s m pgINTEG INTEG_RIM_CMD true = true → s.integ.cmd = some c → c.evac = true → c.layer < 8 →
    ∃ t, exec (.rimCmdAbort m) s = .next t ∧ t.integ.cmd = none ∧ spareRole t c.layer = 0 ∧ t.get pgINTEG INTEG_RIM_STAT_RESULT = 4 ∧
      t.flag pgINTEG INTEG_RIM_STAT_BUSY = false ∧ t.array = s.array) ∧
  (∀ (s : State) (m : Master) (c : RimCmd) (layer i : Nat), mayWrite s m pgINTEG INTEG_RIM_CMD true = true → s.integ.cmd = some c → c.evac = false →
    ∀ k ∈ [Instr.rimCmdRetire m layer i, .rimCmdEvacuate m layer i, .rimCmdAbort m], exec k s = .next s)

/-- A hard fault of a rim in its own place: the rim is isolated with its cause and out of service, and each access that stands there completes
with FAULT (R459, R460). One of an Idle spare takes its role away (R462). A fault of a sector periphery takes its four rims out of service
(R461). One of the synchronisation plane parks the device (R467). One of a port adapter, or of a mover engine, stops that port, or the engine's four
channels, and no other (R468, R469). A rim with new uncorrectable segments is evacuated where AUTO_EVAC says so, else noted; below the rates of CE_THRESH
nothing happens (R465). A parity error of a lane group takes a spare lane while the Spoke stops, and resumes; with no spare left the sector
is cut off (R602, R604, R605). -/
def Obligations.HardFaults : Prop :=
  (∀ (s : State) (layer p cause : Nat), layer < s.cfg.dies → layer < 8 → p < 16 → s.get (rimBase layer p) RIM_RIM_FSTAT_HEALTH = 0 →
    rimPower s layer p ≠ 5 → s.test.ft = none → physOf s layer p = p → ¬ (spareRole s layer = 3 ∧ spareFor s layer = p) →
    s.hub.claims = [] → (rimOf s layer p).kq = none → (∀ a ∈ s.hub.flight, a.tid < 64) →
    ∃ t, exec (.rimHardFault layer p cause) s = .next t ∧ t.get (rimBase layer p) RIM_RIM_FSTAT_HEALTH = 1 ∧
      t.get (rimBase layer p) RIM_RIM_FSTAT_CAUSE = cause % 16 ∧ rimUp t layer p = false ∧
      ∀ a ∈ s.hub.flight, a.layer = layer → a.rim = p → a.loc = .rim ∨ a.loc = .half ∨ a.loc = .out →
        ∀ b ∈ t.hub.flight, b.seq = a.seq → b.loc = .merge ∧ b.status = stFAULT) ∧
  (∀ (s : State) (layer cause : Nat), layer < s.cfg.dies → layer < 8 → s.get (rimBase layer 16) RIM_RIM_FSTAT_HEALTH = 0 →
    rimPower s layer 16 ≠ 5 → spareRole s layer = 0 → s.integ.cmd = none → physOf s layer (spareFor s layer) ≠ 16 →
    ∃ t, exec (.rimHardFault layer 16 cause) s = .next t ∧ t.get (rimBase layer 16) RIM_RIM_FSTAT_HEALTH = 1 ∧ spareRole t layer = 5 ∧
      t.hub = s.hub) ∧
  (∀ (s : State) (layer sector cause : Nat), layer < s.cfg.dies → layer < 8 → sector < 4 → s.integ.sectors.contains (4 * layer + sector) = false →
    s.test.ft = none → s.integ.cmd = none → (∀ k < 4, nothingAt s layer (4 * sector + k)) →
    ∃ t, exec (.sectorPeripheryFault layer sector cause) s = .next t ∧ t.integ.sectors.contains (4 * layer + sector) = true ∧
      ∀ k < 4, rimUp t layer (4 * sector + k) = false) ∧
  (∀ (s : State) (cause : Nat), parked s = false → s.hub.flight = [] → s.ports = [] → s.cache.jobs = [] → s.raq = [] →
    ∃ t, exec (.syncPlaneFault cause) s = .next t ∧ parked t = true ∧ t.get pgHUB HUB_PLANE_STAT_MODE = 3) ∧
  (∀ (s : State) (x : Nat), x < 72 →
    ∃ t, exec (.portAdapterFault x) s = .next t ∧ portOf t x = { portOf s x with broken := true } ∧ (∀ y, y ≠ x → portOf t y = portOf s y) ∧
      t.regs = s.regs) ∧
  (∀ (s : State) (e : Nat), e < 4 →
    ∃ t, exec (.moverEngineFault e) s = .next t ∧ (∀ k < 4, (portOf t (56 + 4 * e + k)).broken = true) ∧
      (∀ y, y < 56 + 4 * e ∨ 60 + 4 * e ≤ y → portOf t y = portOf s y) ∧ t.regs = s.regs) ∧
  (∀ (s : State) (layer p ce0 t0 ue0 : Nat), layer < s.cfg.dies → p ≤ 16 → emRuns s 1 = true →
    Sp.get (0, 0, 0) s.integ.ceMark (17 * layer + p) = (ce0, t0, ue0) → ue0 < s.get (rimBase layer p) RIM_UE_CNT_COUNT →
    s.flag pgINTEG INTEG_IG_CTL_AUTO_EVAC = false →
    ∃ t, exec (.ceThresholdCrossed layer p) s = .next t ∧ (t.rd (pgINTEG + HDR_IRQ_STAT)).toNat.testBit 6 = true ∧ t.integ.cmd = s.integ.cmd ∧
      t.integ.ceMark = Sp.set s.integ.ceMark (17 * layer + p)
        (s.get (rimBase layer p) RIM_CE_CNT_COUNT, s.now, s.get (rimBase layer p) RIM_UE_CNT_COUNT)) ∧
  (∀ (s : State) (layer p ce0 t0 ue0 : Nat), layer < s.cfg.dies → layer < 8 → p < 16 → emRuns s 1 = true →
    Sp.get (0, 0, 0) s.integ.ceMark (17 * layer + p) = (ce0, t0, ue0) → ue0 < s.get (rimBase layer p) RIM_UE_CNT_COUNT →
    s.flag pgINTEG INTEG_IG_CTL_AUTO_EVAC = true → spareRole s layer = 0 → physOf s layer p = p → rimUp s layer p = true →
    s.integ.cmd = none → mayWrite s .em1 pgINTEG INTEG_RIM_CMD true = true →
    ∃ t, exec (.ceThresholdCrossed layer p) s = .next t ∧ t.integ.cmd = some ⟨true, layer, p, s.pcNow⟩ ∧ spareRole t layer = 3) ∧
  (∀ (s : State) (layer p ce0 t0 ue0 : Nat), Sp.get (0, 0, 0) s.integ.ceMark (17 * layer + p) = (ce0, t0, ue0) →
    s.get pgINTEG INTEG_CE_THRESH_WIN ≠ 0 → s.now - t0 ≤ s.get pgINTEG INTEG_CE_THRESH_WIN * 100000000 →
    s.get (rimBase layer p) RIM_CE_CNT_COUNT - ce0 ≤ s.get pgINTEG INTEG_CE_THRESH_MAX → s.get (rimBase layer p) RIM_UE_CNT_COUNT ≤ ue0 →
    exec (.ceThresholdCrossed layer p) s = .next s) ∧
  (∀ (s : State) (n layer sector group a b : Nat), 1 ≤ n → n ≤ layer → layer < s.cfg.dies → layer < 8 → sector < 4 → group < 48 →
    s.integ.sectors.contains (4 * layer + sector) = false → Sp.get 0 s.integ.lanes (laneKey n (4 * layer + sector) group) < 2 →
    ∃ t, exec (.drigarParityError n layer sector group a b) s = .next t ∧ t.spokeHeld.contains (4 * layer + sector) = true ∧
      Sp.get 0 t.integ.lanes (laneKey n (4 * layer + sector) group) = Sp.get 0 s.integ.lanes (laneKey n (4 * layer + sector) group) + 1 ∧
      t.get pgINTEG INTEG_XPORT_CNT_COUNT = 
        min (s.get pgINTEG INTEG_XPORT_CNT_COUNT + (min a 4 + min b (4 - min a 4))) (2 ^ 32 - 1)) ∧
  (∀ (s : State) (n layer sector group a b : Nat), 1 ≤ n → n ≤ layer → layer < s.cfg.dies → layer < 8 → sector < 4 → group < 48 →
    s.integ.sectors.contains (4 * layer + sector) = false → 2 ≤ Sp.get 0 s.integ.lanes (laneKey n (4 * layer + sector) group) →
    s.test.ft = none → s.integ.cmd = none → (∀ k < 4, nothingAt s layer (4 * sector + k)) →
    ∃ t, exec (.drigarParityError n layer sector group a b) s = .next t ∧ t.integ.sectors.contains (4 * layer + sector) = true ∧
      (∀ k < 4, rimUp t layer (4 * sector + k) = false) ∧ t.get (layerBase layer) LAYER_DRG_STAT_STATE = 2) ∧
  (∀ (s : State) (layer sector : Nat), exec (.spokeResume layer sector) s = .next { s with spokeHeld := NSet.erase s.spokeHeld (4 * layer + sector) })

/-- The write-backs of one rim access are performed once their rim grants them: they no longer wait, they are counted, and one alone leaves its
segment stored as the encoding of its data (R445, R446). SCRUB_CMD.GO over PTA lines, or a handle, starts a pass: EM1 posts its scrub words on
the channel as soon as that takes one, or, where EM1 does not run, the pass will end PARTIAL (log entry 31); a pass that runs, a channel that is not ENABLED, or a
stale handle refuses it with RESULT 3 (R454). ABORT, by whichever master may write, marks the running pass (R11, R457). A pass whose post
has ended is over, with its RESULT (R454, R457). FLIP_CTL.ARM takes the mask for one write (R458). A read of PSN_E0 removes the oldest
entry, answers its word, and latches the others (R452, R470). -/
def Obligations.IntegrityCommands : Prop :=
  (∀ (s : State) (id : Nat) (b : WriteBack), (s.array.wbs.find? fun b => b.id == id) = some b → onlyWbs s b → wins s b.layer b.rim id = true →
    b.layer < 8 → b.tid < 64 →
    ∃ t, exec (.correctionWriteback id) s = .next t ∧ (∀ w ∈ t.array.wbs, w.id ≠ id) ∧ t.hub.flight = s.hub.flight ∧
      t.get pgINTEG INTEG_WB_CNT_COUNT =
        min (s.get pgINTEG INTEG_WB_CNT_COUNT + (s.array.wbs.filter fun w => w.id == id).length) (2 ^ 32 - 1)) ∧
  (∀ (s : State) (id : Nat) (b : WriteBack), (s.array.wbs.filter fun b => b.id == id) = [b] → onlyWbs s b → wins s b.layer b.rim id = true →
    Mem.wf s.array.mem = true →
    ∃ t, exec (.correctionWriteback id) s = .next t ∧
      wordAt t (wordIdx b.layer (physOf s b.layer (rimOfFrame b.frame)) (slotOfFrame b.frame) b.row b.col) =
        encodeWord (classOf s.array.cls b.layer b.frame) (segPta b.layer b.frame b.row b.col) b.data) ∧
  (∀ (s : State) (m : Master) (tid c : Nat), mayWrite s m pgINTEG INTEG_SCRUB_CMD true = true → s.integ.scrub = none → tid < 64 → c < 16 →
    chanState s c = 2 → (chanOf s c).chains.length < 16 → emRuns s 1 = true →
    ∃ t, exec (.scrubGo m true tid c) s = .next t ∧ t.flag pgINTEG INTEG_SCRUB_STAT_BUSY = true ∧
      t.integ.scrub = some { post := s.hub.accCtr } ∧ (chanOf t c).chains = (chanOf s c).chains ++ [⟨s.hub.accCtr, true,
        [3 * 2 ^ 28 + 2 ^ 27, s.get pgINTEG INTEG_SCRUB_ARG1_START, s.get pgINTEG INTEG_SCRUB_ARG2_LINES_M1, tid], 0⟩]) ∧
  (∀ (s : State) (m : Master) (tid c h g : Nat) (d : Desc), mayWrite s m pgINTEG INTEG_SCRUB_CMD true = true → s.integ.scrub = none → tid < 64 →
    c < 16 → chanState s c = 2 → (chanOf s c).chains.length < 16 → emRuns s 1 = true → h = s.get pgINTEG INTEG_SCRUB_ARG0_HANDLE → g = s.get pgINTEG INTEG_SCRUB_ARG0_GEN →
    liveDesc s h g = some d →
    ∃ t, exec (.scrubGo m false tid c) s = .next t ∧ t.integ.scrub = some { post := s.hub.accCtr } ∧
      (chanOf t c).chains = (chanOf s c).chains ++ [⟨s.hub.accCtr, true,
        [3 * 2 ^ 28 + h * 2 ^ 18 + g * 2 ^ 10, 0, 16 * (d.extentM1 + 1) - 1, d.owner], 0⟩]) ∧
  (∀ (s : State) (m : Master) (tid c : Nat), mayWrite s m pgINTEG INTEG_SCRUB_CMD true = true → s.integ.scrub = none → tid < 64 → c < 16 →
    chanState s c = 2 → 16 ≤ (chanOf s c).chains.length → emRuns s 1 = true →
    ∃ t, exec (.scrubGo m true tid c) s = .next t ∧ t.chans = s.chans ∧ t.integ.scrub = some { wait := some (c,
      [3 * 2 ^ 28 + 2 ^ 27, s.get pgINTEG INTEG_SCRUB_ARG1_START, s.get pgINTEG INTEG_SCRUB_ARG2_LINES_M1, tid]) }) ∧
  (∀ (s : State) (m : Master) (tid c : Nat), mayWrite s m pgINTEG INTEG_SCRUB_CMD true = true → s.integ.scrub = none → tid < 64 → c < 16 →
    chanState s c = 2 → emRuns s 1 = false →
    ∃ t, exec (.scrubGo m true tid c) s = .next t ∧ t.integ.scrub = some { ended := true, part := true } ∧ t.chans = s.chans) ∧
  (∀ (s : State) (m : Master) (pta : Bool) (tid c : Nat), mayWrite s m pgINTEG INTEG_SCRUB_CMD true = true → tid < 64 → c < 16 →
    s.integ.scrub.isSome = true ∨ chanState s c ≠ 2 ∨
      pta = false ∧ liveDesc s (s.get pgINTEG INTEG_SCRUB_ARG0_HANDLE) (s.get pgINTEG INTEG_SCRUB_ARG0_GEN) = none →
    ∃ t, exec (.scrubGo m pta tid c) s = .next t ∧ t.get pgINTEG INTEG_SCRUB_STAT_RESULT = 3 ∧ t.integ = s.integ ∧ t.chans = s.chans) ∧
  (∀ (s : State) (m : Master) (p : ScrubPass), mayWrite s m pgINTEG INTEG_SCRUB_CMD false = true → s.integ.scrub = some p →
    ∃ t, exec (.scrubAbort m) s = .next t ∧ t.integ.scrub = some { p with aborted := true, ended := p.ended || p.wait.isSome } ∧
      t.chans = s.chans) ∧
  (∀ (s : State) (p : ScrubPass), s.integ.scrub = some p → p.ended = true → emRuns s 1 = true →
    ∃ t, exec .scrubPassDone s = .next t ∧ t.integ.scrub = none ∧ t.flag pgINTEG INTEG_SCRUB_STAT_BUSY = false ∧
      t.get pgINTEG INTEG_SCRUB_STAT_RESULT = if p.part then 2 else if p.aborted then 1 else 0) ∧
  (∀ (s : State) (m : Master) (layer bank rim : Nat), mayWrite s m pgINTEG INTEG_FLIP_CTL true = true → layer < 8 → bank < 16 → rim < 16 →
    ∃ t, exec (.flipArm m layer bank rim) s = .next t ∧ t.array = { s.array with flip := some ⟨layer, rim, bank, flipMask s⟩ } ∧
      t.flag pgINTEG INTEG_FLIP_CTL_ARM = true) ∧
  (∀ (s : State) (m : Master) (e : PsnEntry) (l : List PsnEntry), fabricOpen s m ⟨.integ, 0, pgINTEG⟩ = true →
    readPath s m ⟨.integ, 0, pgINTEG⟩ = true → s.psnLog = e :: l →
    ∃ t, exec (.psnLogRead m) s = .next t ∧ t.psnLog = l ∧ Sp.get [] t.reply m.code = [(e.e0, 0)] ∧
      t.get pgINTEG INTEG_PSN_E1_PTA = e.pta % 2 ^ 30 ∧ t.get pgINTEG INTEG_PSN_E2_SOURCE = e.source % 128 ∧
      t.get pgINTEG INTEG_PSN_E3_TIME = e.time % 2 ^ 32)

/-- DOM_CMD with GO (R474): a domain other than a rim's, present and not one that never switches, is asked to power up, or goes off where its
condition holds; a command that names an absent domain, a rim's, one that may not go off now, or one that never switches is refused with
its reason in DOM_STAT, and no domain changes. A domain that has had its 10 or 5 µs of power-up is on, and its plane shows OFFLINE, its ports
DISABLED, its link port DOWN (R474). -/
def Obligations.PowerDomains : Prop :=
  (∀ (s : State) (m : Master) (n : Nat), mayWrite s m pgPOWER POWER_DOM_CMD true = true → 136 ≤ n → n ≤ 194 → ¬ (190 ≤ n ∧ n ≤ 192) →
    domPresent s.cfg n = true → s.domDead.contains n = false → domOn s n = false → rising s n = false →
    ∃ t, exec (.domCmdOn m n) s = .next t ∧ t.domUp = Sp.set s.domUp n s.now ∧ t.get pgPOWER POWER_DOM_STAT_REASON = 0 ∧
      t.get pgPOWER POWER_DOM_STAT_DOMAIN = n ∧ domOn t n = false) ∧
  (∀ (s : State) (m : Master) (n : Nat), mayWrite s m pgPOWER POWER_DOM_CMD true = true → 136 ≤ n → n ≤ 194 → ¬ (190 ≤ n ∧ n ≤ 192) →
    domPresent s.cfg n = true → domOn s n = true → domMayOff s n = true →
    ∃ t, exec (.domCmdOff m n) s = .next t ∧ domOn t n = false ∧ t.domUp = Sp.del s.domUp n ∧
      (n < 168 → t.flag pgPOWER (POWER_SEC_VALID.at 4 (n - 136)) = false) ∧ ∀ x ∈ domPorts n, portState t x = 0) ∧
  (∀ (s : State) (m : Master) (n reason : Nat), mayWrite s m pgPOWER POWER_DOM_CMD true = true → n < 256 →
    (reason = 1 ∧ (194 < n ∨ domPresent s.cfg n = false)) ∨ (domPresent s.cfg n = true ∧
      ((reason = 2 ∧ n < 136) ∨ (reason = 4 ∧ 190 ≤ n ∧ n ≤ 192) ∨
        (reason = 3 ∧ 136 ≤ n ∧ n ≤ 194 ∧ ¬ (190 ≤ n ∧ n ≤ 192) ∧ domOn s n = true ∧ domMayOff s n = false))) →
    ∃ t, exec (.domCmdOff m n) s = .next t ∧ t.get pgPOWER POWER_DOM_STAT_REASON = reason ∧ t.get pgPOWER POWER_DOM_STAT_REJ = 1 ∧
      t.domUp = s.domUp ∧ ∀ k ≤ 194, domOn t k = domOn s k) ∧
  (∀ (s : State) (n : Nat), rising s n = true → Sp.get 0 s.domUp n + domTime n ≤ s.now → 136 ≤ n → n ≤ 194 →
    ∃ t, exec (.domainOnDone n) s = .next t ∧ domOn t n = true ∧ t.domUp = Sp.del s.domUp n ∧
      (n = 168 ∨ n = 169 → planeState s (n - 168) ≠ 3 → planeState t (n - 168) = 2) ∧
      (∀ x ∈ domPorts n, portState t x = if parked s then 5 else 1) ∧ (186 ≤ n → n ≤ 189 → lpGet s (n - 186) LINK_P_CTL_EN = 0 →
        lpState t (n - 186) = 0))

/-- A TARGET written to an ON rim starts a drain toward FREEWHEEL or OFF where R73 permits it, else the write is refused and the rim stays
(R475, R477); ON written to a rim in FREEWHEEL or OFF asks for a wake (R476). With its queue empty a draining rim starts its transition; after
DRAIN_LIM each entry left completes with DISABLED and FORCED reads 1 (R477). A rim whose transition has had its time reaches the state it moves to, and its domain is off in OFF
(R476). The oldest wake starts, and is counted, unless sixteen have started within 1 µs (R478). A rim idle for IDLE_US, where FREEWHEEL is
permitted, drains toward it (R479). -/
def Obligations.RimPowerStates : Prop :=
  (∀ (s : State) (m : Master) (layer p idle : Nat), mayWrite s m (rimBase layer p) RIM_PWR_CTL true = true → layer < 8 → p < 16 →
    rimPower s layer p = 0 → inTransition s layer p = false → underTest s layer p = false →
    (rimPermits s layer p 2 = true → ∃ t, exec (.targetFreewheel m layer p idle) s = .next t ∧ rimPower t layer p = 1 ∧
      (rimOf t layer p).goal = some 2 ∧ (rimOf t layer p).moving = false ∧ t.get (rimBase layer p) RIM_PWR_CTL_TARGET = 1 ∧
      t.get (rimBase layer p) RIM_PWR_CTL_IDLE_US = idle % 256) ∧
    (rimPermits s layer p 3 = true → ∃ t, exec (.targetOff m layer p idle) s = .next t ∧ rimPower t layer p = 1 ∧
      (rimOf t layer p).goal = some 3 ∧ t.get (rimBase layer p) RIM_PWR_CTL_TARGET = 2) ∧
    (rimPermits s layer p 3 = false → ∃ t, exec (.targetOff m layer p idle) s = .next t ∧ rimPower t layer p = 0 ∧
      rimOf t layer p = rimOf s layer p ∧ t.get (rimBase layer p) RIM_PWR_STAT_REFUSED = 1 ∧
      t.get (rimBase layer p) RIM_PWR_CTL_TARGET = s.get (rimBase layer p) RIM_PWR_CTL_TARGET)) ∧
  (∀ (s : State) (m : Master) (layer p idle : Nat), mayWrite s m (rimBase layer p) RIM_PWR_CTL true = true → layer < 8 → p < 16 →
    rimPower s layer p = 2 ∨ rimPower s layer p = 3 → inTransition s layer p = false → underTest s layer p = false → s.wakes = [] →
    ∃ t, exec (.targetOn m layer p idle) s = .next t ∧ t.wakes = [17 * layer + p] ∧ t.get (rimBase layer p) RIM_PWR_CTL_TARGET = 0) ∧
  (∀ (s : State) (layer p : Nat), draining s layer p = true → rimQueue s layer p = [] → claimsAt s layer p = [] →
    (rimOf s layer p).half = none → (rimOf s layer p).krun = false →
    ∃ t, exec (.rimDrainEnd layer p) s = .next t ∧ (rimOf t layer p).moving = true ∧ t.regs = s.regs ∧ t.hub = s.hub) ∧
  (∀ (s : State) (layer p : Nat), layer < 8 → draining s layer p = true → (rimOf s layer p).half = none →
    (rimOf s layer p).startedAt + 100 * s.get pgPOWER POWER_DRAIN_LIM_US ≤ s.now →
    ∃ t, exec (.drainLimitExpiry layer p) s = .next t ∧ (rimOf t layer p).moving = true ∧
      t.get (rimBase layer p) RIM_PWR_STAT_FORCED = 1 ∧
      ∀ a ∈ rimQueue s layer p, ∀ b ∈ t.hub.flight, b.seq = a.seq → b.loc = .merge ∧ b.status = stDISABLED) ∧
  (∀ (s : State) (layer p g : Nat), layer < 8 → p < 17 → (rimOf s layer p).goal = some g → g = 0 ∨ g = 2 ∨ g = 3 → s.test.target = [] →
    (rimOf s layer p).startedAt + rimTime s layer p g ≤ s.now →
    rimPower s layer p ≠ 5 → rimPower s layer p ≠ 1 ∨ (rimOf s layer p).moving = true →
    ∃ t, exec (.rimStateReached layer p) s = .next t ∧ rimPower t layer p = g ∧ (rimOf t layer p).goal = none ∧
      (rimOf t layer p).idleFrom = s.now ∧ (g ≠ 2 → domOn t (17 * layer + p) = decide (g = 0))) ∧
  (∀ (s : State) (layer p : Nat), layer < 8 → p < 17 → s.wakes = [17 * layer + p] → rimPower s layer p = 2 ∨ rimPower s layer p = 3 →
    (rimOf s layer p).goal = none →
    ((s.energyAcc.wakeStarts.filter fun t => decide (s.now < t + 100)).length < 16 →
      ∃ t, exec .rimWakeStart s = .next t ∧ rimPower t layer p = 4 ∧ (rimOf t layer p).goal = some 0 ∧ t.wakes = [] ∧
        t.get (rimBase layer p) RIM_PWR_STAT_WAKES = (s.get (rimBase layer p) RIM_PWR_STAT_WAKES + 1) % 2 ^ 16) ∧
    (16 ≤ (s.energyAcc.wakeStarts.filter fun t => decide (s.now < t + 100)).length → exec .rimWakeStart s = .next s)) ∧
  (∀ (s : State) (layer p : Nat), layer < s.cfg.dies → layer < 8 → p < 16 → s.get (rimBase layer p) RIM_PWR_CTL_IDLE_US ≠ 0 →
    s.get (rimBase layer p) RIM_PWR_CTL_TARGET = 0 → rimPower s layer p = 0 → rimPermits s layer p 2 = true → underTest s layer p = false →
    (rimOf s layer p).idleFrom + 100 * s.get (rimBase layer p) RIM_PWR_CTL_IDLE_US ≤ s.now →
    ∃ t, exec (.rimIdleExpiry layer p) s = .next t ∧ rimPower t layer p = 1 ∧ (rimOf t layer p).goal = some 2)

/-- At a Cadence boundary CAD_IDX steps, the LAST registers hold what the Cadence was charged by class, SUPPLY and VFACT hold the sampled
supplies, and the new Cadence starts with its estimate of leakage charged (R484, R485, R487, R488). B is GRANT, or FLOOR without RT and LC change where EMERGENCY
holds (then the LC pool is 0), and the pools are those of R490. A Cadence that was charged more than its B counts in OVER_CNT (R493).
EM_ALIVE not written for two Cadences makes B fall to FLOOR, with an interrupt (R489). -/
def Obligations.CadenceAndBudget : Prop :=
  (∀ (s : State) (a p : Nat), s.clockOn = true → 10000 * (s.energyAcc.cad + 1) ≤ s.now → a < 2000 → p < 2000 →
    ∃ t, exec (.cadenceBoundary a p) s = .next t ∧ t.energyAcc.cad = s.energyAcc.cad + 1 ∧
      t.rd (pgPOWER + POWER_CAD_IDX) = BitVec.ofNat 32 (s.energyAcc.cad + 1) ∧
      t.get pgPOWER POWER_SUPPLY_ARRAY_MV = a ∧ t.get pgPOWER POWER_SUPPLY_PERI_MV = p ∧
      t.get pgPOWER POWER_VFACT_VF_ARR = supplyFactor a ∧ t.get pgPOWER POWER_VFACT_VF_PERI = supplyFactor p ∧
      t.energyAcc.cls = [0, 0, 0, 0] ∧ t.energyAcc.stat = s.get pgPOWER POWER_LEAK_EST_NJ ∧
      t.energyAcc.ledger = s.energyAcc.ledger + s.get pgPOWER POWER_LEAK_EST_NJ * njUnits ∧
      (∀ k r, (k, r) ∈ [(0, POWER_LAST_RT), (1, POWER_LAST_LC), (2, POWER_LAST_BE), (3, POWER_LAST_MT)] →
        t.rd (pgPOWER + r) = BitVec.ofNat 32 (sat32 (njOf (s.energyAcc.cls.getD k 0))))) ∧
  (∀ (s : State) (a p : Nat), s.clockOn = true → 10000 * (s.energyAcc.cad + 1) ≤ s.now → s.energyAcc.em0Down = false →
    s.energyAcc.cad + 1 ≤ s.energyAcc.aliveAt + 2 → s.energyAcc.chunks = [] →
    ∃ t, exec (.cadenceBoundary a p) s = .next t ∧
      t.energyAcc.budget = (if emergency s then s.get pgPOWER POWER_FLOOR_UJ else s.get pgPOWER POWER_GRANT_UJ) ∧
      t.energyAcc.rtPool = njInt (1000 * s.get pgPOWER POWER_RT_RES_UJ) ∧
      t.energyAcc.lcPool = (if emergency s then 0 else njInt (1000 * s.get pgPOWER POWER_LC_RES_UJ)) ∧
      t.energyAcc.pool = njInt (1000 * t.energyAcc.budget) - njInt (s.get pgPOWER POWER_LEAK_EST_NJ) - t.energyAcc.rtPool - t.energyAcc.lcPool ∧
      t.flag pgPOWER POWER_ARB_STAT_FLOOR_ACT = emergency s) ∧
  (∀ (s : State) (a p : Nat), s.clockOn = true → 10000 * (s.energyAcc.cad + 1) ≤ s.now → s.energyAcc.budget ≠ 0 →
    ∃ t, exec (.cadenceBoundary a p) s = .next t ∧ t.get pgPOWER POWER_OVER_CNT_COUNT =
      if s.energyAcc.budget * 1000 * njUnits < s.energyAcc.cls.foldl (· + ·) 0 + s.energyAcc.nobody + s.energyAcc.stat * njUnits
      then min (s.get pgPOWER POWER_OVER_CNT_COUNT + 1) (2 ^ 32 - 1) else s.get pgPOWER POWER_OVER_CNT_COUNT) ∧
  (∀ s : State, s.energyAcc.em0Down = false → em0Alive s = false → s.flag pgPOWER POWER_ARB_STAT_FLOOR_ACT = false →
    ∃ t, exec .emAliveExpiry s = .next t ∧ t.energyAcc.em0Down = true ∧ t.energyAcc.budget = s.get pgPOWER POWER_FLOOR_UJ ∧
      t.flag pgPOWER POWER_ARB_STAT_FLOOR_ACT = true ∧ (t.rd (pgPOWER + HDR_IRQ_STAT)).toNat.testBit 4 = true)

/-- A pace report of a sector that is on sets its PACE, and DEV is the largest of the host die's pace and of those of the sectors whose readings
are valid (R27, R482). A temperature at the over-temperature level or above sets OT, one 3 °C below it clears OT, and one between leaves it
(R483); with a pace reading there, the device enters EMERGENCY, and TH_STAT names a hottest valid sector. POWER_ALERT, and FORCE, are causes of
EMERGENCY: the first one makes ACTIVE 1, counts, sets B to FLOOR, gives the LC pool to POOL, and interrupts (R495, R496); the last one gone
starts the 10 ms of clearing, and after them EMERGENCY ends (R495). A new governor window, 16 ns after the last one began, starts with no rim access starts counted (R494; log entry 8). -/
def Obligations.HeatAndEmergency : Prop :=
  (∀ (s : State) (q pace : Nat), q < 32 → sectorOn s q = true → pace < 2 ^ 16 →
    ∃ t, exec (.ringMonitorReport q pace) s = .next t ∧ t.get pgPOWER (POWER_SEC_PACE.at 4 q) = pace ∧
      t.get pgPOWER POWER_PACE_DEV_PERI ≤ t.get pgPOWER POWER_PACE_DEV_DEV ∧
      (∀ k < 32, t.flag pgPOWER (POWER_SEC_VALID.at 4 k) = true →
        t.get pgPOWER (POWER_SEC_PACE.at 4 k) ≤ t.get pgPOWER POWER_PACE_DEV_DEV) ∧
      (t.get pgPOWER POWER_PACE_DEV_DEV = t.get pgPOWER POWER_PACE_DEV_PERI ∨
        ∃ k < 32, t.flag pgPOWER (POWER_SEC_VALID.at 4 k) = true ∧ t.get pgPOWER POWER_PACE_DEV_DEV = t.get pgPOWER (POWER_SEC_PACE.at 4 k))) ∧
  (∀ (s : State) (pace : Nat), pace < 2 ^ 16 →
    ∃ t, exec (.ringMonitorReport 32 pace) s = .next t ∧ t.get pgPOWER POWER_PACE_DEV_PERI = pace ∧ pace ≤ t.get pgPOWER POWER_PACE_DEV_DEV) ∧
  (∀ (s : State) (q temp : Nat), q < 32 → sectorOn s q = true → temp < 4096 →
    ∃ t, exec (.thermalReport q temp) s = .next t ∧ t.get pgPOWER (POWER_SEC_TEMP.at 4 q) = temp ∧
      t.flag pgPOWER (POWER_SEC_OT.at 4 q) = (if otLevel s ≤ signed 12 temp then true else
        if otLevel s - 24 ≤ signed 12 temp then s.flag pgPOWER (POWER_SEC_OT.at 4 q) else false)) ∧
  (∀ (s : State) (q temp : Nat), q < 32 → sectorOn s q = true → temp < 4096 → otLevel s ≤ signed 12 temp →
    Sp.get 0 s.energyAcc.current q = 1 ∨ Sp.get 0 s.energyAcc.current q = 3 →
    ∃ t, exec (.thermalReport q temp) s = .next t ∧ emergency t = true ∧ ∃ h < 32, t.get pgPOWER POWER_TH_STAT_SECTOR = h ∧
      t.flag pgPOWER (POWER_SEC_VALID.at 4 h) = true ∧ t.get pgPOWER POWER_TH_STAT_TEMP = t.get pgPOWER (POWER_SEC_TEMP.at 4 h) ∧
      ∀ k < 32, t.flag pgPOWER (POWER_SEC_VALID.at 4 k) = true → tempOf t k ≤ tempOf t h) ∧
  (∀ s : State, s.clockOn = true → emergency s = false →
    ∃ t, exec (.powerAlertChange true) s = .next t ∧ emergency t = true ∧ t.flag pgPOWER POWER_EMG_STAT_ALERT = true ∧
      t.get pgPOWER POWER_EMG_CNT_COUNT = min (s.get pgPOWER POWER_EMG_CNT_COUNT + 1) (2 ^ 32 - 1) ∧
      t.energyAcc.budget = s.get pgPOWER POWER_FLOOR_UJ ∧ t.energyAcc.lcPool = 0 ∧ t.energyAcc.pool = s.energyAcc.pool +
        (njInt (1000 * s.get pgPOWER POWER_FLOOR_UJ) - njInt (1000 * s.energyAcc.budget)) + s.energyAcc.lcPool ∧
      (t.rd (pgPOWER + HDR_IRQ_STAT)).toNat.testBit 0 = true) ∧
  (∀ (s : State) (m : Master), mayWrite s m pgPOWER POWER_EMG_CTL true = true →
    ∃ t, exec (.emgForceWrite m true) s = .next t ∧ emergency t = true ∧ t.flag pgPOWER POWER_EMG_STAT_FORCED = true) ∧
  (∀ s : State, s.clockOn = true → emergency s = true → s.flag pgPOWER POWER_EMG_STAT_OT = false →
    s.flag pgPOWER POWER_EMG_STAT_FORCED = false → s.flag pgPOWER POWER_EMG_STAT_CLEARING = false →
    ∃ t, exec (.powerAlertChange false) s = .next t ∧ emergency t = true ∧ t.flag pgPOWER POWER_EMG_STAT_CLEARING = true ∧
      t.energyAcc.clearAt = s.now + tenMs) ∧
  (∀ s : State, emergency s = true → s.flag pgPOWER POWER_EMG_STAT_CLEARING = true → s.energyAcc.clearAt ≤ s.now →
    ∃ t, exec .emergencyExit s = .next t ∧ emergency t = false ∧ t.flag pgPOWER POWER_EMG_STAT_CLEARING = false ∧
      t.energyAcc.fellAt = s.now ∧ (t.rd (pgPOWER + HDR_IRQ_STAT)).toNat.testBit 1 = true) ∧
  (∀ s : State, s.hub.govWin < (10 * s.now + 9) / 16 →
    exec .governorWindow s = .next { s with hub := { s.hub with govStarts := 0, govWin := max (s.hub.govWin + 1) (10 * s.now / 16) } })

/-- SEM_OP (R508, R586, R587): CLAIM of a free semaphore gives it to the writing master, and no other changes; of one held by another it fails with
RESULT 1. RELEASE by the owner frees it; by another it fails with RESULT 2. FORCE by a control port takes it from its owner, which FORCE_LAST
names, with an interrupt. A write of IRQ_FORCE sets the bits below IRQ_N (R581). A write of a register without an effect of its own leaves each
field as its access code says, and no other register changes (R11, R500); by a master that does not own the page's group its RWO fields stay,
and the page records it (R509, R577); one without a path changes no field, and is recorded (R503, R577). -/
def Obligations.RegisterWrites : Prop :=
  (∀ (s : State) (m : Master) (g : Nat), mayWrite s m pgSEMA SEMA_SEM_OP false = true → 1 ≤ g → g ≤ 28 →
    (semOwner s g = 0 → ∃ t, exec (.semaClaim m g) s = .next t ∧ semOwner t g = m.holder ∧ semResult t m m.holder 0 g ∧
      ∀ h ≤ 28, h ≠ g → semOwner t h = semOwner s h) ∧
    (semOwner s g ≠ 0 → semOwner s g ≠ m.holder → ∃ t, exec (.semaClaim m g) s = .next t ∧ t.regs = s.regs ∧
      semResult t m (semOwner s g) 1 g) ∧
    (semOwner s g ≠ 0 → semOwner s g = m.holder → ∃ t, exec (.semaRelease m g) s = .next t ∧ semOwner t g = 0 ∧ semResult t m 0 0 g) ∧
    (semOwner s g ≠ 0 → semOwner s g ≠ m.holder → ∃ t, exec (.semaRelease m g) s = .next t ∧ semOwner t g = semOwner s g ∧
      semResult t m (semOwner s g) 2 g) ∧
    (semOwner s g ≠ 0 → semOwner s g ≠ m.holder → m ≠ .dbg → ∃ t, exec (.semaForce m g) s = .next t ∧ semOwner t g = m.holder ∧
      semResult t m m.holder 0 g ∧ t.rd (pgSEMA + SEMA_FORCE_LAST) = BitVec.ofNat 32 (m.holder * 2 ^ 30 + semOwner s g * 2 ^ 28 + g) ∧
      (t.rd (pgSEMA + HDR_IRQ_STAT)).toNat.testBit 0 = true)) ∧
  (∀ (s : State) (m : Master) (off set k : Nat) (p : PageAt), pageAt off = some p → mayWrite s m p.base HDR_IRQ_FORCE false = true →
    set < 2 ^ 32 → k < irqN p.page → set.testBit k = true →
    ∃ t, exec (.irqForce m off set) s = .next t ∧ (t.rd (p.base + HDR_IRQ_STAT)).toNat.testBit k = true) ∧
  (∀ (s : State) (m : Master) (p : PageAt) (o : Nat) (w : Word32) (r : RegRow), pageAt (p.base + o) = some p → o % 4 = 0 → plainReg p o = true →
    mayWrite s m p.base o true = true → rowAt p.page o = some r →
    ∃ t, exec (.registerWrite m (p.base + o) w) s = .next t ∧
      (∀ f ∈ r.fields, t.get p.base ⟨o, f.hi, f.lo⟩ = fieldAfter f (s.get p.base ⟨o, f.hi, f.lo⟩) (bits w.toNat f.hi f.lo)) ∧
      ∀ k, k ≠ p.base + o → t.rd k = s.rd k) ∧
  (∀ (s : State) (m : Master) (p : PageAt) (o : Nat) (w : Word32) (r : RegRow) (f : FieldRow), pageAt (p.base + o) = some p → o % 4 = 0 →
    plainReg p o = true → mayWrite s m p.base o false = true → mayWrite s m p.base o true = false → rowAt p.page o = some r → f ∈ r.fields →
    f.acc = .rwo →
    ∃ t, exec (.registerWrite m (p.base + o) w) s = .next t ∧ t.get p.base ⟨o, f.hi, f.lo⟩ = s.get p.base ⟨o, f.hi, f.lo⟩ ∧
      t.rd (p.base + HDR_ERR_INFO) = BitVec.ofNat 32 (2 ^ 31 + m.code * 2 ^ 28 + 2 ^ 24)) ∧
  (∀ (s : State) (m : Master) (p : PageAt) (o : Nat) (w : Word32), pageAt (p.base + o) = some p → o % 4 = 0 → 0x40 ≤ o → plainReg p o = true →
    fabricOpen s m p = true → pagePresent s.cfg p = true → writePath s m p = false →
    ∃ t, exec (.registerWrite m (p.base + o) w) s = .next t ∧ t.rd (p.base + o) = s.rd (p.base + o) ∧
      t.rd (p.base + HDR_ERR_INFO) = BitVec.ofNat 32 (2 ^ 31 + m.code * 2 ^ 28 + 2 * 2 ^ 24) ∧
      (m.isEm = false → t.rd (pgMBCTL + MAILBOX_CTL_FAB_STAT) = BitVec.ofNat 32 (2 ^ 31 + m.code * 2 ^ 24 + (p.base + o))))

/-- A page group grants the one piece that waits (R505). A read of one register that has a path answers its word with RESP 0 (R499, R503); a
write of one is the write of that register, the fabric's own record apart. Of two masters' pieces that wait at a group, the one of higher
priority is granted, unless a master has been passed eight times, which goes first (R505). -/
def Obligations.FabricGrants : Prop :=
  (∀ (s : State) (f : FabPiece) (p : PageAt), pieceOpen s f = true → pieceNext s f = true → f.wr = false → f.n = 1 →
    beatPage f (f.off / 4 * 4) = some p → pagePresent s.cfg p = true → readPath s f.m p = true →
    ∃ t, exec (.fabricPiece [f]) s = .next t ∧ Sp.get [] t.reply f.m.code = [(peek (granted s f) (some f.m) (f.off / 4 * 4), 0)]) ∧
  (∀ (s : State) (f : FabPiece) (p : PageAt) (w : Nat), pieceOpen s f = true → pieceNext s f = true → f.wr = true → f.data = [w] →
    beatPage f (f.off / 4 * 4) = some p →
    ∃ t u, exec (.registerWrite f.m f.off (BitVec.ofNat 32 w)) (granted s f) = .next u ∧ exec (.fabricPiece [f]) s = .next t ∧
      t = { u with fab := t.fab, reply := t.reply }) ∧
  (∀ (s : State) (f h : FabPiece), pieceOpen s f = true → pieceNext s f = true → pieceOpen s h = true → pieceNext s h = true →
    f.m ≠ h.m → pieceGroup f = pieceGroup h → passedOf s (pieceGroup f) f.m < 8 → passedOf s (pieceGroup f) h.m < 8 →
    fabPrio s f.m (pieceGroup f) < fabPrio s h.m (pieceGroup f) →
    exec (.fabricPiece [f, h]) s = .next ((s.fabGrant (pieceGroup f) [f, h] h).fabPerform h)) ∧
  (∀ (s : State) (f h : FabPiece), pieceOpen s f = true → pieceNext s f = true → pieceOpen s h = true → pieceNext s h = true →
    f.m ≠ h.m → pieceGroup f = pieceGroup h → passedOf s (pieceGroup f) f.m < 8 → 8 ≤ passedOf s (pieceGroup f) h.m →
    exec (.fabricPiece [f, h]) s = .next ((s.fabGrant (pieceGroup f) [f, h] h).fabPerform h))

/-- FW_CMD (R518 to R520): STAGE makes BUSY 1 and unstages, and the loader starts; the image read ends in STAGED with its version, in the number
of the check of R517 that failed, or in RESULT 5 where a read failed. ACTIVATE of a staged image stops both cores and loads them from it, with new epochs; during EMERGENCY it
waits, PENDING; without a staged image it is refused. CANCEL takes the waiting one back, and 10 ms after EMERGENCY it starts by itself (R519). When
every core runs from the staged bank and has kicked, the bank flips (R520); a core that has not in time makes the activation fall back. -/
def Obligations.FirmwareCommands : Prop :=
  (∀ (s : State) (m : Master), mayWrite s m pgMBCTL MAILBOX_CTL_FW_CMD true = true → s.flag pgMBCTL MAILBOX_CTL_FW_STAT_BUSY = false →
    s.flag pgMBCTL MAILBOX_CTL_FW_STAT_PENDING = false →
    ∃ t, exec (.fwStage m) s = .next t ∧ t.flag pgMBCTL MAILBOX_CTL_FW_STAT_BUSY = true ∧ t.flag pgMBCTL MAILBOX_CTL_FW_STAT_STAGED = false ∧
      t.fw.load.isSome = true ∧ t.get pgMBCTL MAILBOX_CTL_FW_STAT_CHECK = 0 ∧ t.fw.act = s.fw.act) ∧
  (∀ (s : State) (l : FwLoad), s.fw.load = some l → loadOver l = true → s.hub.answers = [] →
    (l.bad = false → ∃ t, exec .fwStageDone s = .next t ∧ t.flag pgMBCTL MAILBOX_CTL_FW_STAT_BUSY = false ∧ t.fw.load = none ∧
      if imageCheck l.data = 0 then t.flag pgMBCTL MAILBOX_CTL_FW_STAT_STAGED = true ∧ t.get pgMBCTL MAILBOX_CTL_FW_STAT_RESULT = 0 ∧
        t.get pgMBCTL MAILBOX_CTL_FW_SVER_VER = le32 l.data 8 ∧
        Sp.get [] t.fw.banks (1 - fwBank s) = Mem.writeN [] 0 l.data (imageLen l.data)
      else t.get pgMBCTL MAILBOX_CTL_FW_STAT_RESULT = 4 ∧ t.get pgMBCTL MAILBOX_CTL_FW_STAT_CHECK = imageCheck l.data ∧
        t.flag pgMBCTL MAILBOX_CTL_FW_STAT_STAGED = s.flag pgMBCTL MAILBOX_CTL_FW_STAT_STAGED ∧ t.fw.banks = s.fw.banks) ∧
    (l.bad = true → ∃ t, exec .fwStageDone s = .next t ∧ t.get pgMBCTL MAILBOX_CTL_FW_STAT_RESULT = 5 ∧
      t.flag pgMBCTL MAILBOX_CTL_FW_STAT_BUSY = false ∧ t.fw.load = none ∧ t.fw.banks = s.fw.banks)) ∧
  (∀ (s : State) (m : Master), mayWrite s m pgMBCTL MAILBOX_CTL_FW_CMD true = true → s.flag pgMBCTL MAILBOX_CTL_FW_STAT_BUSY = false →
    s.flag pgMBCTL MAILBOX_CTL_FW_STAT_PENDING = false →
    (emergency s = false → s.flag pgMBCTL MAILBOX_CTL_FW_STAT_STAGED = true → coreRestarting s = false →
      ∃ t, exec (.fwActivate m) s = .next t ∧ t.flag pgMBCTL MAILBOX_CTL_FW_STAT_BUSY = true ∧
        t.fw.act = some { start := s.now, cores := [0, 1].filter fun n => !emDead s n } ∧
        (∀ n < 2, emDead s n = false → emState t n = 1) ∧
        ∀ r < 2, mbEpoch t r = (mbEpoch s r + 1) % 2 ^ 16 ∧ reqCons t r = reqProd s r) ∧
    (emergency s = true → ∃ t, exec (.fwActivate m) s = .next t ∧ t.flag pgMBCTL MAILBOX_CTL_FW_STAT_PENDING = true ∧ t.fw = s.fw ∧
      t.get pgMBCTL MAILBOX_CTL_FW_STAT_RESULT = 1) ∧
    (emergency s = false → s.flag pgMBCTL MAILBOX_CTL_FW_STAT_STAGED = false →
      ∃ t, exec (.fwActivate m) s = .next t ∧ t.get pgMBCTL MAILBOX_CTL_FW_STAT_RESULT = 3 ∧ t.fw = s.fw)) ∧
  (∀ (s : State) (m : Master), mayWrite s m pgMBCTL MAILBOX_CTL_FW_CMD true = true → s.flag pgMBCTL MAILBOX_CTL_FW_STAT_BUSY = false →
    ∃ t, exec (.fwCancel m) s = .next t ∧ t.flag pgMBCTL MAILBOX_CTL_FW_STAT_PENDING = false ∧
      t.get pgMBCTL MAILBOX_CTL_FW_STAT_RESULT = 8 ∧ t.fw = s.fw) ∧
  (∀ s : State, s.flag pgMBCTL MAILBOX_CTL_FW_STAT_PENDING = true → emergency s = false → s.clockOn = true →
    s.energyAcc.fellAt + 1000000 ≤ s.now → s.flag pgMBCTL MAILBOX_CTL_FW_STAT_STAGED = true → coreRestarting s = false →
    ∃ t, exec .pendingActivationStart s = .next t ∧ t.flag pgMBCTL MAILBOX_CTL_FW_STAT_PENDING = false ∧ t.fw.act.isSome = true) ∧
  (∀ (s : State) (a : FwAct), s.fw.act = some a → (∀ n ∈ a.cores, emRuns s n = true ∧ a.kicked.contains n = true ∧ a.spoiled.contains n = false) →
    ∃ t, exec .activationCommit s = .next t ∧ fwBank t = 1 - fwBank s ∧ t.fw.act = none ∧ t.fw.active = true ∧
      t.get pgMBCTL MAILBOX_CTL_FW_VER_VER = le32 (bankHeader s (1 - fwBank s)) 8 ∧ t.flag pgMBCTL MAILBOX_CTL_FW_STAT_STAGED = false ∧
      t.get pgMBCTL MAILBOX_CTL_FW_STAT_COMMITS = (s.get pgMBCTL MAILBOX_CTL_FW_STAT_COMMITS + 1) % 256 ∧
      t.flag pgMBCTL MAILBOX_CTL_FW_STAT_BUSY = false ∧ t.get pgMBCTL MAILBOX_CTL_FW_STAT_RESULT = 0) ∧
  (∀ (s : State) (a : FwAct), s.fw.act = some a → s.clockOn = true → a.start + 5000000 ≤ s.now →
    (∃ n ∈ a.cores, a.kicked.contains n = false ∨ a.spoiled.contains n = true) →
    ∃ t, exec .activationKickTimeout s = .next t ∧ t.fw.act = none ∧ t.flag pgMBCTL MAILBOX_CTL_FW_STAT_BUSY = false ∧ fwBank t = fwBank s ∧
      t.flag pgMBCTL MAILBOX_CTL_FW_STAT_STAGED = false ∧ t.get pgMBCTL MAILBOX_CTL_FW_STAT_RESULT = if s.fw.active then 6 else 7)

/-- A core that loads enters RUN, at the entry of its section, where the section is good, else it is HALTED with CAUSE 6, and an activation falls back (R513, R520). A core
kicks its own watchdog (R514); 10 ms without a kick restart it with CAUSE 1, and EM_CTL with CAUSE 2: the core leaves RUN, RESTARTS
counts, and both rings take a new epoch (R514, R525), also during an activation, which the core then spoils (R520). REQ_PROD and RSP_CONS are taken where they move forward within the ring, and
refused otherwise (R522, R530; for RSP_CONS log entry 33). ECHO returns the payload, INFO sixteen bytes, from either core (R528). -/
def Obligations.CoresAndRings : Prop :=
  (∀ (s : State) (n : Nat), n < 2 → emState s n = 1 ∨ emState s n = 3 → s.fw.held = false →
    (sectionGood s (loadBank s n) n = true → ∃ t, exec (.emLoadDone n) s = .next t ∧ emRuns t n = true ∧ Sp.get 0 t.fw.kickAt n = s.now ∧
      t.fw.act = s.fw.act ∧ Sp.get 0 t.fw.entry n = (sectionOf s (loadBank s n) n).2.2.2) ∧
    (sectionGood s (loadBank s n) n = false → s.fw.act = none → ∃ t, exec (.emLoadDone n) s = .next t ∧ emState t n = 0 ∧
      t.get pgMBCTL (emFld n MAILBOX_CTL_EM_STAT_CAUSE) = 6) ∧
    (∀ a, sectionGood s (loadBank s n) n = false → s.fw.act = some a → ∃ t, exec (.emLoadDone n) s = .next t ∧ t.fw.act = none ∧
      t.flag pgMBCTL MAILBOX_CTL_FW_STAT_BUSY = false ∧ t.get pgMBCTL MAILBOX_CTL_FW_STAT_RESULT = if s.fw.active then 6 else 7)) ∧
  (∀ (s : State) (m : Master) (n : Nat), n < 2 → mayWrite s m pgMBCTL (MAILBOX_CTL_WDT_KICK + 4 * n) false = true → emRuns s n = true →
    m = (if n = 0 then .em0 else .em1) →
    ∃ t, exec (.wdtKick m n) s = .next t ∧ Sp.get 0 t.fw.kickAt n = s.now ∧ ∀ a, t.fw.act = some a → n ∈ a.kicked) ∧
  (∀ (s : State) (n : Nat), n < 2 → emRuns s n = true → s.clockOn = true → Sp.get 0 s.fw.kickAt n + 1000000 ≤ s.now →
    ∃ t, exec (.watchdogExpiry n) s = .next t ∧ emState t n = 3 ∧ (∀ a, t.fw.act = some a → a.spoiled.contains n = true) ∧ t.get pgMBCTL (emFld n MAILBOX_CTL_EM_STAT_CAUSE) = 1 ∧
      t.get pgMBCTL (emFld n MAILBOX_CTL_EM_STAT_RESTARTS) = (s.get pgMBCTL (emFld n MAILBOX_CTL_EM_STAT_RESTARTS) + 1) % 2 ^ 16 ∧
      ∀ r < 2, mbEpoch t r = (mbEpoch s r + 1) % 2 ^ 16) ∧
  (∀ (s : State) (m : Master) (n : Nat), n < 2 → mayWrite s m pgMBCTL MAILBOX_CTL_EM_CTL true = true → s.fw.active = true ∨ emState s n ≠ 0 →
    emDead s n = false →
    ∃ t, exec (.emRestart m n) s = .next t ∧ emState t n = 3 ∧ (∀ a, t.fw.act = some a → a.spoiled.contains n = true) ∧ t.get pgMBCTL (emFld n MAILBOX_CTL_EM_STAT_CAUSE) = 2 ∧
      t.get pgMBCTL (emFld n MAILBOX_CTL_EM_STAT_RESTARTS) = (s.get pgMBCTL (emFld n MAILBOX_CTL_EM_STAT_RESTARTS) + 1) % 2 ^ 16) ∧
  (∀ (s : State) (m : Master) (r v : Nat), r < 2 → v < 256 → mayWrite s m (mboxBase r) MBOX_REQ_PROD false = true → m.isEm = false →
    ∃ t, exec (.reqProdWrite m r v) s = .next t ∧ reqProd t r =
      if idxDiff (reqProd s r) (reqCons s r) ≤ idxDiff v (reqCons s r) ∧ idxDiff v (reqCons s r) ≤ 16 then v else reqProd s r) ∧
  (∀ (s : State) (m : Master) (r v : Nat), r < 2 → v < 256 → mayWrite s m (mboxBase r) MBOX_RSP_CONS false = true → m.isEm = false →
    ∃ t, exec (.rspConsWrite m r v) s = .next t ∧ rspCons t r =
      if idxDiff v (rspCons s r) ≤ idxDiff (rspProd s r) (rspCons s r) then v else rspCons s r) ∧
  (∀ (s : State) (r : Nat), msgAt s r 0x0001 →
    ∃ t, exec (.echo r) s = .next t ∧ answeredAs s t r 0x0001 0 (headLen s r) fun k => reqWord s r (4 + k)) ∧
  (∀ (s : State) (r : Nat), msgAt s r 0x8001 →
    ∃ t, exec (.em1Echo r) s = .next t ∧ answeredAs s t r 0x8001 0 (headLen s r) fun k => reqWord s r (4 + k)) ∧
  (∀ (s : State) (r : Nat), msgAt s r 0x0002 →
    ∃ t, exec (.info r) s = .next t ∧ answeredAs s t r 0x0002 0 16 fun k =>
      [(Sp.get (0, 0) s.fw.vers 0).1, (Sp.get (0, 0) s.fw.vers 0).2, s.now - Sp.get 0 s.fw.runAt 0, (s.now - Sp.get 0 s.fw.runAt 0) / 2 ^ 32].getD k 0) ∧
  (∀ (s : State) (r : Nat), msgAt s r 0x8002 →
    ∃ t, exec (.em1Info r) s = .next t ∧ answeredAs s t r 0x8002 0 16 fun k =>
      [(Sp.get (0, 0) s.fw.vers 1).1, (Sp.get (0, 0) s.fw.vers 1).2, s.now - Sp.get 0 s.fw.runAt 1, (s.now - Sp.get 0 s.fw.runAt 1) / 2 ^ 32].getD k 0)

/-- The messages of EM0 about the lifetime records (R549, R550). LIFE_INFO answers sixteen bytes. LIFE_FLUSH with no good slot answers 7; with one it
starts the write, and is answered at its end; with no life store it prepares the image at once. LIFE_READ answers bytes of the image flushed,
and 3 for an offset that is not a multiple of 4 or lies past the image. LIFE_LOAD writes the load buffer, and LIFE_COMMIT adopts a valid one as the base; with a
life store both answer 1, from a ring that does not own the group 6, and a second commit 4. -/
def Obligations.LifeMessages : Prop :=
  (∀ (s : State) (r : Nat), msgAt s r 0x0200 →
    ∃ t, exec (.lifeInfo r) s = .next t ∧ answeredAs s t r 0x0200 0 16 fun k => [b2n s.cfg.optN + 2 * lsState s + 16 *
      (if s.cfg.optN then 255 - s.life.bad else 0), s.life.baseSeq, s.life.lastAt, s.life.lastAt / 2 ^ 32].getD k 0) ∧
  (∀ (s : State) (r : Nat), msgAt s r 0x0201 → s.life.writing = none → s.life.loaded = true →
    (s.cfg.optN = false → ∃ t, exec (.lifeFlush r) s = .next t ∧ answeredAs s t r 0x0201 0 0 (fun _ => 0) ∧ t.life.ready = true) ∧
    (s.cfg.optN = true → nextGood s 0 = none → ∃ t, exec (.lifeFlush r) s = .next t ∧ answeredAs s t r 0x0201 7 0 (fun _ => 0)) ∧
    (∀ j k, s.cfg.optN = true → nextGood s 0 = some j → nextGood s s.life.slot = some k →
      ∃ t, exec (.lifeFlush r) s = .next t ∧ takenOnly s t r ∧ t.life.writing = some k ∧ t.life.reply = some (r, headSeq s r))) ∧
  (∀ (s : State) (r : Nat), msgAt s r 0x0202 →
    (headLen s r < 4 → ∃ t, exec (.lifeRead r) s = .next t ∧ answeredAs s t r 0x0202 2 0 fun _ => 0) ∧
    (4 ≤ headLen s r → reqWord s r 4 % 4 ≠ 0 ∨ imgSize ≤ reqWord s r 4 →
      ∃ t, exec (.lifeRead r) s = .next t ∧ answeredAs s t r 0x0202 3 0 fun _ => 0) ∧
    (4 ≤ headLen s r → reqWord s r 4 % 4 = 0 → reqWord s r 4 < imgSize → s.life.ready = true →
      ∃ t, exec (.lifeRead r) s = .next t ∧ answeredAs s t r 0x0202 0 (min 48 (imgSize - reqWord s r 4)) fun k =>
        imgGet s.life.flushed (reqWord s r 4 + 4 * k) 4) ∧
    (4 ≤ headLen s r → reqWord s r 4 % 4 = 0 → reqWord s r 4 < imgSize → s.life.ready = false →
      ∃ t w, exec (.lifeRead r) s = .next t ∧ answeredAs s t r 0x0202 0 (min 48 (imgSize - reqWord s r 4)) w)) ∧
  (∀ (s : State) (r : Nat), msgAt s r 0x0203 →
    (s.cfg.optN = true → ∃ t, exec (.lifeLoad r) s = .next t ∧ answeredAs s t r 0x0203 1 0 fun _ => 0) ∧
    (s.cfg.optN = false → ringOwns s r 19 = false → ∃ t, exec (.lifeLoad r) s = .next t ∧ answeredAs s t r 0x0203 6 0 fun _ => 0) ∧
    (s.cfg.optN = false → ringOwns s r 19 = true → headLen s r = 8 → reqWord s r 4 % 4 = 0 → reqWord s r 4 + 4 ≤ imgSize →
      Mem.wf s.life.buf = true →
      ∃ t, exec (.lifeLoad r) s = .next t ∧ answeredAs s t r 0x0203 0 0 (fun _ => 0) ∧ imgGet t.life.buf (reqWord s r 4) 4 = reqWord s r 5)) ∧
  (∀ (s : State) (r : Nat), msgAt s r 0x0204 →
    (s.cfg.optN = true → ∃ t, exec (.lifeCommit r) s = .next t ∧ answeredAs s t r 0x0204 1 0 fun _ => 0) ∧
    (s.cfg.optN = false → ringOwns s r 19 = false → ∃ t, exec (.lifeCommit r) s = .next t ∧ answeredAs s t r 0x0204 6 0 fun _ => 0) ∧
    (s.cfg.optN = false → ringOwns s r 19 = true → s.life.committed = true →
      ∃ t, exec (.lifeCommit r) s = .next t ∧ answeredAs s t r 0x0204 4 0 fun _ => 0) ∧
    (s.cfg.optN = false → ringOwns s r 19 = true → s.life.committed = false → s.life.loaded = true → imgValid s.life.buf = true →
      ∃ t, exec (.lifeCommit r) s = .next t ∧ answeredAs s t r 0x0204 0 0 (fun _ => 0) ∧ t.life.committed = true ∧ lsState t = 2 ∧
        t.life.baseSeq = imgGet s.life.buf 8 4))

/-- FT_CMD, where the lifecycle admits it, starts a test that may start, with its phase; one that may not start ends at once with its RESULT, and
in DEPLOY and RETIRED a control port's write changes no test (R555, R562, R563, R567). The spare of a tested rim takes the test copy role; a plane
starts its way out; a link port is enabled in its loopback. ABORT in the copy phase ends a rim test with RESULT 4; later it marks the test (R566).
The copy done, the spare serves the rim; a rim that passes its patterns is copied back, and one that fails is PARKED with the spare in its
place; the copy back done, the rim serves again (R563, R564). A plane that passes returns, a link that passes goes DOWN, one with wrong flits
FAILS, and a failing synchronisation plane parks the device, whose counters, watches and tags are reset either way (R567): none ends before its
duration. -/
def Obligations.FieldTests : Prop :=
  (∀ (s : State) (m : Master), mayWrite s m pgTEST TEST_FT_CMD false = true → lcState s ≠ 2 ∧ lcState s ≠ 4 ∨ m.isEm = true →
    s.test.ft = none →
    (∀ layer i, layer < 8 → i < 16 → rimTestBar s layer i = none → ∃ t, exec (.ftCmdRim m layer i) s = .next t ∧
      t.test.ft = some { op := 1, layer := layer, unit := i, depth := 0, start := s.now, since := s.pcNow, abort := false, reply := none } ∧
      t.flag pgTEST TEST_FT_STAT_BUSY = true ∧
      t.get pgTEST TEST_FT_STAT_PHASE = 1 ∧ spareRole t layer = 1 ∧ spareFor t layer = i) ∧
    (∀ layer i res, layer < 8 → i < 16 → rimTestBar s layer i = some res → ∃ t, exec (.ftCmdRim m layer i) s = .next t ∧ t.test = s.test ∧
      t.get pgTEST TEST_FT_STAT_RESULT = res ∧ t.hub = s.hub ∧ t.array = s.array) ∧
    (∀ p, p < 2 → planeTestBar s p = none → ∃ t, exec (.ftCmdPlane m p) s = .next t ∧ t.hub.change = some (p, true) ∧
      t.test.ft = some { op := 2, layer := 0, unit := p, depth := 0, start := s.now, since := s.pcNow, abort := false, reply := none } ∧
      t.get pgTEST TEST_FT_STAT_PHASE = 2) ∧
    (∀ p depth, p < 4 → linkTestBar s p depth = none → ∃ t, exec (.ftCmdLink m p depth) s = .next t ∧
      t.test.ft = some { op := 3, layer := 0, unit := p, depth := depth, start := s.now, since := s.pcNow, abort := false, reply := none } ∧
      lpGet t p LINK_P_CTL_LOOP = depth ∧ lpGet t p LINK_P_CTL_EN = 1 ∧
      t.get pgTEST TEST_LB_ERR_COUNT = 0) ∧
    (syncTestBar s = none → ∃ t, exec (.ftCmdSync m) s = .next t ∧ t.test.ft = some { op := 4, layer := 0, unit := 0, depth := 0, start := s.now, since := s.pcNow, abort := false, reply := none } ∧
     
      t.flag pgTEST TEST_FT_STAT_BUSY = true)) ∧
  (∀ (s : State) (m : Master) (layer i : Nat), mayWrite s m pgTEST TEST_FT_CMD false = true → lcState s = 2 ∨ lcState s = 4 → m.isEm = false →
    ∃ t, exec (.ftCmdRim m layer i) s = .next t ∧ t.test = s.test ∧ t.hub = s.hub ∧ t.array = s.array) ∧
  (∀ (s : State) (m : Master) (f : FieldTest), mayWrite s m pgTEST TEST_FT_CMD false = true → lcState s ≠ 2 ∧ lcState s ≠ 4 ∨ m.isEm = true →
    s.test.ft = some f →
    (f.op = 1 → f.layer < 8 → f.reply = none → s.get pgTEST TEST_FT_STAT_PHASE = 1 → ∃ t, exec (.ftCmdAbort m) s = .next t ∧
      t.test.ft = none ∧ t.get pgTEST TEST_FT_STAT_RESULT = 4 ∧ spareRole t f.layer = 0) ∧
    (f.op ≠ 1 → ∃ t, exec (.ftCmdAbort m) s = .next t ∧ t.test.ft = some { f with abort := true } ∧ t.hub = s.hub)) ∧
  (∀ (s : State) (f : FieldTest), inPhase s 1 = some f → f.layer < 8 → f.unit < 16 → copied s f.layer f.unit = true →
    ∃ t, exec .ftCopyDone s = .next t ∧ physOf t f.layer f.unit = 16 ∧ spareRole t f.layer = 2 ∧ t.get pgTEST TEST_FT_STAT_PHASE = 2 ∧
      t.test.ft = some { f with pat := 0, hold := 0 }) ∧
  (∀ (s : State) (f : FieldTest) (elem bank row fb : Nat), inPhase s 2 = some f → f.layer < 8 → f.unit < 16 → emergency s = false →
    f.reply = none →
    (patAll f.layer ≤ f.pat → ∃ t, exec (.ftPatternsDone true elem bank row fb) s = .next t ∧ t.get pgTEST TEST_FT_STAT_PHASE = 3 ∧
      t.test.ft = some f ∧ (copyOf t f.layer).map (fun j => (j.rim, j.src, j.dst, j.next)) = some (f.unit, 16, f.unit, 0)) ∧
    (elem < 16 → bank < 16 → row < 2 ^ 14 → ∃ t, exec (.ftPatternsDone false elem bank row fb) s = .next t ∧
      t.test.ft = none ∧ t.get pgTEST TEST_FT_STAT_RESULT = 1 ∧ rimPower t f.layer f.unit = 5 ∧ spareRole t f.layer = 4 ∧
      t.get pgTEST TEST_FT_FAIL0_ELEM = elem ∧ t.get pgTEST TEST_FT_FAIL0_BANK = bank ∧ t.get pgTEST TEST_FT_FAIL0_ROW = row)) ∧
  (∀ (s : State) (f : FieldTest), inPhase s 3 = some f → f.layer < 8 → f.unit < 16 → f.reply = none → copied s f.layer f.unit = true →
    s.integ.cmd = none →
    ∃ t, exec .ftBackDone s = .next t ∧ physOf t f.layer f.unit = f.unit ∧ spareRole t f.layer = 0 ∧ t.test.ft = none ∧
      t.get pgTEST TEST_FT_STAT_RESULT = (if f.abort then 4 else 0)) ∧
  (∀ (s : State) (f : FieldTest) (errs : Nat), s.test.ft = some f → emergency s = false → f.reply = none → f.abort = false →
    f.start + ftTicks f.op ≤ s.now →
    (f.op = 2 → f.unit < 2 → parked s = false → s.hub.change = none → planeState s f.unit = 2 → s.get pgTEST TEST_FT_STAT_PHASE = 2 →
      ∃ t, exec (.fieldTestDone true errs) s = .next t ∧ t.hub.change = some (f.unit, false) ∧ t.get pgTEST TEST_FT_STAT_PHASE = 3) ∧
    (f.op = 2 → parked s = false → s.hub.change = none → planeState s f.unit = 0 → s.get pgTEST TEST_FT_STAT_PHASE = 3 →
      ∃ t, exec (.fieldTestDone true errs) s = .next t ∧ t.test.ft = none ∧ t.get pgTEST TEST_FT_STAT_RESULT = 0) ∧
    (f.op = 3 → f.unit < 4 → lpState s f.unit = 7 → (lkPort s f.unit).txq = [] → (lkPort s f.unit).replay = [] →
      (∃ t, exec (.fieldTestDone true 0) s = .next t ∧ t.test.ft = none ∧ t.get pgTEST TEST_FT_STAT_RESULT = 0 ∧ lpState t f.unit = 0) ∧
      (errs ≠ 0 → errs < 2 ^ 32 → ∃ t, exec (.fieldTestDone true errs) s = .next t ∧ t.test.ft = none ∧
        t.get pgTEST TEST_FT_STAT_RESULT = 1 ∧ t.get pgTEST TEST_LB_ERR_COUNT = errs ∧ lpState t f.unit = 6)) ∧
    (f.op = 4 → ∀ ok, ∃ t, exec (.fieldTestDone ok errs) s = .next t ∧ t.test.ft = none ∧
      t.get pgTEST TEST_FT_STAT_RESULT = (if ok then 0 else 1) ∧ t.sync.watchOrd = [] ∧ t.sync.parks = [] ∧
      (ok = false → parked t = true) ∧ ∀ c < 96, ok = true → t.get pgSYNCCTR (SYNC_CTR_CTR_VALUE.at 4 c) = 0))

/-- A field-test message of a ring that owns group 20 (R569): FT_RIM, FT_PLANE, FT_LINK and FT_SYNC start the test, and the message is
answered when it ends; one of a ring that does not own it is DENIED; FT_ABORT answers OK, and FT_RESULT the sixteen bytes of the last result. -/
def Obligations.TestMessages : Prop :=
  (∀ (s : State) (r : Nat), s.test.ft = none →
    (testMsgAt s r 0x8100 → 4 ≤ headLen s r → rimTestBar s (bits (reqWord s r 4) 6 4) (bits (reqWord s r 4) 3 0) = none →
      ∃ t, exec (.ftRim r) s = .next t ∧ takenOnly s t r ∧ t.test.ft =
        some { op := 1, layer := bits (reqWord s r 4) 6 4, unit := bits (reqWord s r 4) 3 0, depth := 0, start := s.now, since := s.pcNow, abort := false, reply := some (r, headSeq s r) }) ∧
    (testMsgAt s r 0x8101 → 4 ≤ headLen s r → planeTestBar s (reqWord s r 4 % 2) = none →
      ∃ t, exec (.ftPlane r) s = .next t ∧ takenOnly s t r ∧ t.hub.change = some (reqWord s r 4 % 2, true) ∧ t.test.ft =
        some { op := 2, layer := 0, unit := reqWord s r 4 % 2, depth := 0, start := s.now, since := s.pcNow, abort := false, reply := some (r, headSeq s r) }) ∧
    (testMsgAt s r 0x8102 → 4 ≤ headLen s r → linkTestBar s (bits (reqWord s r 4) 1 0) (bits (reqWord s r 4) 5 4) = none →
      ∃ t, exec (.ftLink r) s = .next t ∧ takenOnly s t r ∧ t.test.ft =
        some { op := 3, layer := 0, unit := bits (reqWord s r 4) 1 0, depth := bits (reqWord s r 4) 5 4, start := s.now, since := s.pcNow, abort := false, reply := some (r, headSeq s r) }) ∧
    (testMsgAt s r 0x8103 → syncTestBar s = none →
      ∃ t, exec (.ftSync r) s = .next t ∧ takenOnly s t r ∧ t.test.ft =
        some { op := 4, layer := 0, unit := 0, depth := 0, start := s.now, since := s.pcNow, abort := false, reply := some (r, headSeq s r) })) ∧
  (∀ (s : State) (r : Nat), msgAt s r 0x8105 → s.flag pgTEST TEST_BST_STAT_REAPPLIED = true → ringOwns s r 20 = false →
    ∃ t, exec (.ftResult r) s = .next t ∧ answeredAs s t r 0x8105 6 0 fun _ => 0) ∧
  (∀ (s : State) (r : Nat), testMsgAt s r 0x8105 →
    ∃ t, exec (.ftResult r) s = .next t ∧ answeredAs s t r 0x8105 0 16 fun k => (ftWords s).getD k 0) ∧
  (∀ (s : State) (r : Nat), testMsgAt s r 0x8104 → (s.test.ft.all fun f => f.op != 1) = true →
    ∃ t, exec (.ftAbort r) s = .next t ∧ answeredAs s t r 0x8104 0 0 (fun _ => 0) ∧
      t.test.ft = s.test.ft.map fun f => { f with abort := true })

/-- RC_CTL (R531, R539, R540): EN with ARM starts CLEARING, with MISSED at 0, and takes MODE; EN without it leaves the recorder DISABLED; EN 0
makes it DRAINING, and discards the waiting triggers; ARM arms it again. DRAINING ends in DISABLED, and CLEARING in ARMED, with every slot
zero in native mode (R540, R541). A LEVEL trigger fires where its sample has risen to its threshold from below (R532), a SOFTWARE one where it
is named; each waits, with its time, INFO and AUX. A record takes the earliest trigger, the next slot and the next sequence number, then a
snapshot word a pc, and ends with its delay and TSEQ (R535 to R538; the pc of each is the model's, log entry 35). -/
def Obligations.RecorderCommands : Prop :=
  (∀ (s : State) (m : Master) (w : Word32), mayWrite s m pgREC RECORDER_RC_CTL true = true → domOn s 194 = true → rcState s = 0 →
    ∃ t, exec (.rcEnable m w) s = .next t ∧ t.get pgREC RECORDER_RC_CTL_EN = 1 ∧ t.get pgREC RECORDER_RC_CTL_MODE = RECORDER_RC_CTL_MODE.of w ∧
      rcState t = (if RECORDER_RC_CTL_ARM.of w = 1 then 1 else 0) ∧
      (RECORDER_RC_CTL_ARM.of w = 1 → t.get pgREC RECORDER_RC_MISSED_COUNT = 0 ∧ t.recd.clearAt = s.pcNow)) ∧
  (∀ (s : State) (m : Master) (w : Word32), mayWrite s m pgREC RECORDER_RC_CTL true = true → domOn s 194 = true → 1 ≤ rcState s → rcState s ≤ 3 →
    ∃ t, exec (.rcDisable m w) s = .next t ∧ t.get pgREC RECORDER_RC_CTL_EN = 0 ∧ rcState t = 4 ∧ t.recd.waiting = [] ∧
      t.recd.writing = s.recd.writing) ∧
  (∀ (s : State) (m : Master), mayWrite s m pgREC RECORDER_RC_CTL true = true → domOn s 194 = true → s.get pgREC RECORDER_RC_CTL_EN = 1 →
    rcState s = 2 ∨ rcState s = 3 →
    ∃ t, exec (.rcArm m) s = .next t ∧ rcState t = 1 ∧ t.get pgREC RECORDER_RC_MISSED_COUNT = 0) ∧
  (∀ s : State, rcState s = 4 → s.recd.writing = none → ∃ t, exec .rcDrainDone s = .next t ∧ rcState t = 0 ∧ t.recd = s.recd) ∧
  (∀ s : State, rcState s = 1 → s.recd.writing = none →
    (s.get pgREC RECORDER_RC_CTL_MODE = 0 → s.recd.clearAt + 2048 ≤ s.pcNow) → ∃ t, exec .rcClearingDone s = .next t ∧ rcState t = 2 ∧ t.recd.taken = 0 ∧
    t.recd.slots = if s.get pgREC RECORDER_RC_CTL_MODE = 0 then [] else s.recd.slots) ∧
  (∀ (s : State) (n u arg : Nat) (p : PageAt), s.clockOn = true → s.recd.sampled / 100 < s.now / 100 → domOn s 194 = true →
    triggers s 2 = [n] → triggers s 3 = [] → pageAt (bits (trgArg0 s n) 20 2 * 4) = some p → pagePresent s.cfg p = true →
    (s.recd.prev.find? fun e => e.1 == n) = some (n, u) → arg = (s.rd (pgREC + RECORDER_TRG_ARG1 + 16 * n)).toNat →
    arg ≤ peek s none (bits (trgArg0 s n) 20 2 * 4) → u < arg → rcState s = 2 → s.recd.waiting.length < 16 →
    ∃ t, exec .triggerSample s = .next t ∧ t.recd.sampled = s.now ∧
      t.recd.waiting = s.recd.waiting ++ [⟨n, s.now, s.pcNow, peek s none (bits (trgArg0 s n) 20 2 * 4), u⟩]) ∧
  (∀ (s : State) (m : Master) (n tag : Nat), mayWrite s m pgREC RECORDER_RC_SWTRIG false = true → domOn s 194 = true → tag < 2 ^ 16 →
    n ∈ triggers s 5 → rcState s = 2 → s.recd.waiting.length < 16 →
    ∃ t, exec (.rcSwtrig m tag n) s = .next t ∧ t.recd.waiting = s.recd.waiting ++ [⟨n, s.now, s.pcNow, tag, m.code⟩]) ∧
  (∀ (s : State) (f : Fired), s.recd.writing = none → rcState s = 2 → nextFired s.recd.waiting = some f → f.trig < 32 →
    ∃ t, exec .recordWrite s = .next t ∧ t.recd.waiting = s.recd.waiting.erase f ∧ t.recd.taken = s.recd.taken + 1 ∧
      t.get pgREC RECORDER_RC_SEQ_NEXT = (if s.get pgREC RECORDER_RC_SEQ_NEXT + 1 = 2 ^ 32 then 1 else s.get pgREC RECORDER_RC_SEQ_NEXT + 1) ∧
      (t.recd.writing.map fun j => (j.slot, j.seq, j.fired)) = some (s.recd.taken, s.get pgREC RECORDER_RC_SEQ_NEXT, f) ∧
      (slotWords t s.recd.taken).head? = some (s.get pgREC RECORDER_RC_SEQ_NEXT) ∧ (slotWords t s.recd.taken)[2]? = some (f.time % 2 ^ 32)) ∧
  (∀ (s : State) (j : RecJob) (k o : Nat) (rest : List (Nat × Nat)), s.recd.writing = some j → j.left = (k, o) :: rest → pairAt s o = none →
    j.snap.length < 24 →
    ∃ t, exec .recordWrite s = .next t ∧ (t.recd.writing.map (·.snap)) = some (j.snap ++ [peek s none o]) ∧
      (slotWords t j.slot)[6 + j.snap.length]? = some (peek s none o) ∧ (t.recd.writing.map (·.left)) = some rest) ∧
  (∀ (s : State) (j : RecJob), s.recd.writing = some j → j.left = [] → j.snap.length ≤ 24 →
    ∃ t, exec .recordWrite s = .next t ∧ t.recd.writing = none ∧ (slotWords t j.slot)[31]? = some j.seq ∧
      (slotWords t j.slot)[30]? = some (min (j.readPc - j.fired.pc) 255 * 2 ^ 24 + j.bad))

/-- Once a second EM0 adds its samples to the image: its uptime counts on (R542, R544). Every 60 s it flushes, into the first good slot from
NEXT; with no life store the image stands ready at once (R547, R549). A slot write that verifies puts the image into its slot, moves NEXT, and counts;
one that does not marks the slot bad and goes on with the next good one (R547); with the recorder's domain off its registers do not follow
(R531). At start-up EM0 takes the newest valid image, or none, as its base, and
with no life store waits for the host (R548, R549). -/
def Obligations.LifeRecords : Prop :=
  (∀ s : State, s.clockOn = true → emRuns s 0 = true → s.life.loaded = true → s.life.sampled / 100000000 < s.now / 100000000 →
    Mem.wf s.life.img = true → lifeCtr s.life.img 0 + 1 < 2 ^ 64 →
    ∃ t, exec .lifeSample s = .next t ∧ t.life.sampled = s.now ∧ lifeCtr t.life.img 0 = lifeCtr s.life.img 0 + 1 ∧ t.regs = s.regs) ∧
  (∀ s : State, s.clockOn = true → emRuns s 0 = true → s.life.loaded = true → s.life.flushAt / 6000000000 < s.now / 6000000000 →
    s.life.writing = none →
    (∀ k, s.cfg.optN = true → nextGood s s.life.slot = some k →
      ∃ t, exec .lifePeriodicFlush s = .next t ∧ t.life.writing = some k ∧ t.life.next = flushImage s ∧ t.life.flushAt = s.now) ∧
    (s.cfg.optN = false → ∃ t, exec .lifePeriodicFlush s = .next t ∧ t.life.ready = true ∧ t.life.flushed = flushImage s ∧
      t.get pgREC RECORDER_LS_FLUSHES_COUNT = (s.get pgREC RECORDER_LS_FLUSHES_COUNT + b2n (domOn s 194)) % 2 ^ 32)) ∧
  (∀ (s : State) (k : Nat), s.life.writing = some k → s.life.reply = none →
    (∃ t, exec (.lifeFlushWritten true) s = .next t ∧ Sp.get [] t.life.store k = s.life.next ∧ t.life.writing = none ∧
      t.life.flushed = s.life.next ∧
      t.get pgREC RECORDER_LS_FLUSHES_COUNT = (s.get pgREC RECORDER_LS_FLUSHES_COUNT + b2n (domOn s 194)) % 2 ^ 32 ∧
      ∀ j, nextGood s (k + 1) = some j → t.life.slot = j ∧ (domOn s 194 = true → t.get pgREC RECORDER_LS_STAT_NEXT = j)) ∧
    (k < 8 → ∃ t, exec (.lifeFlushWritten false) s = .next t ∧ slotGood t k = false ∧ t.life.flushed = s.life.flushed ∧
      (t.rd (pgREC + HDR_IRQ_STAT)).toNat.testBit 4 = true ∧ ∀ j, t.life.writing = some j → slotGood t j = true ∧
        t.life.slot = j ∧ (domOn s 194 = true → t.get pgREC RECORDER_LS_STAT_NEXT = j))) ∧
  (∀ s : State, emRuns s 0 = true → s.life.loaded = false →
    (s.cfg.optN = false → ∃ t, exec .lifeBaseLoad s = .next t ∧ t.life.loaded = true ∧ lsState t = 4) ∧
    (∀ j, s.cfg.optN = true → nextGood s 0 = some j → bestSlot s = none →
      ∃ t, exec .lifeBaseLoad s = .next t ∧ t.life.loaded = true ∧ lsState t = 1) ∧
    (∀ j k m, s.cfg.optN = true → nextGood s 0 = some j → bestSlot s = some (k, m) →
      ∃ t, exec .lifeBaseLoad s = .next t ∧ t.life.loaded = true ∧ lsState t = 2 ∧ t.life.baseSeq = imgGet m 8 4))

/-- LC_CMD (R556, R557): ADVANCE with CONFIRM, by a control port or DBG in FAB or TEST, fuses the next state and shows PENDING, and the state in force
stays; without CONFIRM nothing is fused. RETIRE_DEVICE in TEST or SERVICE fuses RETIRED, which is in force at once, PARKED. A service token that passes the checks of R558
puts a DEPLOY device in SERVICE; one that does not is REFUSED, with an interrupt; the nonce is used up either way. -/
def Obligations.LifecycleCommands : Prop :=
  (∀ (s : State) (m : Master), mayWrite s m pgTEST TEST_LC_CMD false = true → m.isEm = false → lcState s ≤ 1 →
    ∃ t, exec (.lcAdvance m 0x4C43) s = .next t ∧ t.fused = lcState s + 1 ∧ t.flag pgTEST TEST_LC_STAT_PENDING = true ∧ lcState t = lcState s) ∧
  (∀ (s : State) (m : Master) (c : Nat), c < 2 ^ 16 → c ≠ 0x4C43 →
    (∃ t, exec (.lcAdvance m c) s = .next t ∧ t.fused = s.fused ∧ lcState t = lcState s) ∧
    ∃ t, exec (.lcRetireDevice m c) s = .next t ∧ t.fused = s.fused ∧ lcState t = lcState s) ∧
  (∀ (s : State) (m : Master), mayWrite s m pgTEST TEST_LC_CMD false = true → lcState s = 1 ∨ lcState s = 3 →
    ∃ t, exec (.lcRetireDevice m 0x4C43) s = .next t ∧ t.fused = 4 ∧ lcState t = 4 ∧ parked t = true) ∧
  (∀ (s : State) (m : Master), mayWrite s m pgTEST TEST_SVC_CTL true = true → lcState s = 2 →
    ∃ t, exec (.svcEnter m) s = .next t ∧ lcState t = (if tokenOk s then 3 else 2) ∧ t.freeCtr = s.freeCtr + 1 ∧ t.fused = s.fused ∧
      (tokenOk s = false → t.flag pgTEST TEST_SVC_CTL_REFUSED = true ∧ (t.rd (pgTEST + HDR_IRQ_STAT)).toNat.testBit 2 = true))

/-- PORST_N low resets everything but the fuses and the life store, and SRST_N low everything but those, the timestamp, the fuse shadow and the sampled
MGR; each released, the device runs again (R597 to R599). A rail out of range leaves every register and the storage undefined until a power-on
reset (R597). TIMEREF may stop (R601). The fuse shadow loads, the crossings come up in order, a layer that does not answer is absent, and the boot
self-test runs: a failing rim is PARKED, and the spare serves in its place; it ends with the valid bits clear and an interrupt (R559, R560, R603 to R606). EM1 applies the listed
retirements again one by one, and reports when none is left (R561). -/
def Obligations.ResetAndStart : Prop :=
  (∀ s : State, s.fused < 4 → ∃ t, exec .porstAssert s = .next t ∧ t.porstLow = true ∧ t.fused = s.fused ∧ lcState t = s.fused ∧
    t.array = (State.resetOf s.cfg).array ∧ t.handles = (State.resetOf s.cfg).handles ∧ t.hub = (State.resetOf s.cfg).hub ∧
    t.now = (State.resetOf s.cfg).now ∧ t.life.store = keptStore s ∧ t.fuseLoaded = (State.resetOf s.cfg).fuseLoaded) ∧
  (∀ (s : State) (mgr : Bool), s.porstLow = true → s.cfg.links ≠ 0 →
    ∃ t, exec (.porstRelease mgr) s = .next t ∧ t.porstLow = false ∧ t.clockOn = true ∧ t.get pgLINK LINK_LK_ID_MGR = b2n mgr) ∧
  (∀ s : State, s.fused < 4 → s.railLost = false → s.porstLow = false →
    ∃ t, exec .srstAssert s = .next t ∧ t.srstLow = true ∧ t.now = s.now ∧ t.fuseLoaded = s.fuseLoaded ∧ t.fused = s.fused ∧
      t.array = (State.resetOf s.cfg).array ∧ t.hub = (State.resetOf s.cfg).hub ∧ t.life.store = keptStore s ∧
      t.get pgLINK LINK_LK_ID_MGR = s.get pgLINK LINK_LK_ID_MGR) ∧
  (∀ s : State, s.railLost = false → s.srstLow = true →
    exec .srstRelease s = .next { s with srstLow := false, clockOn := true }) ∧
  (∀ s : State, s.porstLow = false →
    ∃ t, exec .railOutOfRange s = .next t ∧ t.railLost = true ∧ t.cfg = s.cfg ∧ t.fused = s.fused ∧ t.life.store = keptStore s ∧
      t.freeCtr = s.freeCtr + 1) ∧
  (∀ s : State, exec .timerefStop s = .next { s with clockOn := false }) ∧
  (∀ s : State, inReset s = false → 2000 ≤ s.now → exec .fuseShadowLoaded s = .next { s with fuseLoaded := true }) ∧
  (∀ (s : State) (n : Nat), s.fuseLoaded = true → inReset s = false → n = s.integ.crossings + 1 → n < s.cfg.dies → n < 8 →
    (∀ q < 4, s.integ.sectors.contains (4 * n + q) = false) →
    (∃ t, exec (.crossingBringup n true []) s = .next t ∧ t.integ.crossings = n ∧ t.get (layerBase n) LAYER_DRG_STAT_STATE = 1 ∧
      t.get (layerBase n) LAYER_DRG_STAT_SEC_UP = 15 ∧ t.rd (layerBase n + LAYER_DRG_DIEID) = BitVec.ofNat 32 (dieSerial n)) ∧
    ∃ t, exec (.crossingBringup n false []) s = .next t ∧ t.integ.crossings = n ∧ t.get (layerBase n) LAYER_DRG_STAT_STATE = 3 ∧
      ∀ q < 4, t.integ.sectors.contains (4 * n + q) = true) ∧
  (∀ (s : State) (layer p : Nat), s.fuseLoaded = true → inReset s = false → s.integ.crossings + 1 = s.cfg.dies → s.cfg.dies ≤ 8 →
    lcState s ≠ 4 → s.test.bst = false → layer < s.cfg.dies → p < 16 → s.integ.sectors.contains (4 * layer + p / 4) = false →
    spareRole s layer = 0 →
    ∃ t, exec (.bootSelfTest ⟨false, false, false, [], [(layer, p)], [], []⟩) s = .next t ∧ t.test.bst = true ∧ physOf t layer p = 16 ∧
      spareRole t layer = 4 ∧ spareFor t layer = p ∧ rimPower t layer p = 5) ∧
  (∀ s : State, s.test.bst = true → bootDone s = false →
    ∃ t, exec .bootSelfTestDone s = .next t ∧ bootDone t = true ∧ t.array.validA = [] ∧ t.array.validB = [] ∧ t.array.lost = [] ∧
      (t.rd (pgTEST + HDR_IRQ_STAT)).toNat.testBit 0 = true) ∧
  (∀ s : State, emRuns s 1 = true → bootDone s = true → s.life.loaded = true → s.life.state ≠ 4 →
    s.flag pgTEST TEST_BST_STAT_REAPPLIED = false → s.integ.cmd = none →
    ((reapplyOrder s).drop s.test.reapply = [] → ∃ t, exec .retirementsReapplied s = .next t ∧ t.flag pgTEST TEST_BST_STAT_REAPPLIED = true) ∧
    (∀ layer p rest, (reapplyOrder s).drop s.test.reapply = (layer, p) :: rest → p < 16 → layer < s.cfg.dies → rimPower s layer p = 5 →
      exec .retirementsReapplied s = .next { s with test := { s.test with reapply := s.test.reapply + 1 } }) ∧
    ∀ layer p rest, (reapplyOrder s).drop s.test.reapply = (layer, p) :: rest → p < 16 → layer < s.cfg.dies → layer < 8 → rimPower s layer p ≠ 5 →
      mayWrite s .em1 pgINTEG INTEG_RIM_CMD true = true → s.integ.sectors.contains (4 * layer + p / 4) = false → spareRole s layer = 0 →
      ∃ t, exec .retirementsReapplied s = .next t ∧ t.integ.cmd = some ⟨false, layer, p, s.pcNow⟩ ∧ spareRole t layer = 4)

/-- A step with a command at the front of the queue is that command's effect on the state with the queue's rest. A step on an empty
queue takes a next state, that of one period of TIMEREF, which leaves the queue empty and the configuration as it was: the model's own
choice (log entry 2). -/
def Obligations.StepRunsTheFrontCommand : Prop :=
  (∀ (s : State) (c : Instr) (rest : List Instr), s.pending = c :: rest → step s = exec c { s with pending := rest }) ∧
  (∀ s : State, s.pending = [] → step s = .next s.tick ∧ s.tick.pending = [] ∧ s.tick.cfg = s.cfg)

/-- Whatever the state and the operands, every command of the table takes a next state, and that state keeps the configuration and the
queue of waiting commands: no command faults, none is refused, and none changes what waits behind it. -/
def Obligations.NoCommandStops : Prop :=
  ∀ (c : Instr) (s : State), ∃ t, exec c s = .next t ∧ t.cfg = s.cfg ∧ t.pending = s.pending

/-- Whatever the state, where the configuration is an ordering code that exists (R1, R2) and the array memory stands in its canonical
form, a step that takes a next state leaves both so, and the configuration itself as it was. The canonical form is the model's (log
entry 3). -/
def Obligations.StepKeepsInvariant : Prop :=
  ∀ s s' : State, s.Inv → step s = .next s' → s'.Inv ∧ s'.cfg = s.cfg

/-- The state right after reset has a configuration that exists and an array memory in canonical form. -/
def Obligations.ResetInv : Prop := State.reset.Inv

/-- The frame with PTA frame index f lies in the logical rim that the exclusive or of its bits 3 to 0, 7 to 4, 11 to 8 and 13 to 12
gives, at the slot of its bits 13 to 4 (R46): so every access of that frame goes to that rim, and the storage at that rim and slot is that
of this frame and no other. -/
def Obligations.FrameLies : Prop :=
  (∀ f : BitVec 14, rimOfFrame f.toNat =
      (f.extractLsb' 0 4 ^^^ f.extractLsb' 4 4 ^^^ f.extractLsb' 8 4 ^^^ (f.extractLsb' 12 2).zeroExtend 4).toNat ∧
    slotOfFrame f.toNat = (f.extractLsb' 4 10).toNat ∧ frameAt (rimOfFrame f.toNat) (slotOfFrame f.toNat) = f.toNat) ∧
  (∀ a : Access, a.rim = rimOfFrame a.frame) ∧
  (∀ rim slot : Nat, rim < 16 → slot < 1024 → rimOfFrame (frameAt rim slot) = rim ∧ slotOfFrame (frameAt rim slot) = slot)
end

