-- ==== Sys2Proof/Laws/KeepOps.lean ====
section
/-! SUPPORT. What no operation of Machine/Ops.lean changes: the configuration, the queue of waiting commands, the canonical form of memory. -/
namespace Sys2Proof.Machine

/-- What every operation keeps from the state it starts in: the configuration (R3), the queue of waiting commands, and, where the
array memory stands in its canonical form, that form. -/
def State.From (t s : State) : Prop :=
  t.cfg = s.cfg ∧ t.pending = s.pending ∧ (Mem.wf s.array.mem = true → Mem.wf t.array.mem = true)
/-- A command answers a next state that keeps these. -/
def Res.From (r : Res) (s : State) : Prop := ∃ t, r = .next t ∧ t.From s

theorem State.From.refl (s : State) : s.From s := ⟨rfl, rfl, id⟩
theorem State.From.trans {a b c : State} (h : a.From b) (k : b.From c) : a.From c :=
  ⟨h.1.trans k.1, h.2.1.trans k.2.1, fun w => h.2.2 (k.2.2 w)⟩
theorem Res.From.trans {r : Res} {b c : State} (h : r.From b) (k : b.From c) : r.From c :=
  match h with
  | ⟨t, e, f⟩ => ⟨t, e, f.trans k⟩
theorem next_keeps {t s : State} (h : t.From s) : Res.From (.next t) s := ⟨t, rfl, h⟩
theorem ite_keeps {c : Prop} [Decidable c] {a b x : State} (ha : a.From x) (hb : b.From x) : (if c then a else b).From x := by
  split <;> assumption
theorem ite_keeps_res {c : Prop} [Decidable c] {a b : Res} {x : State} (ha : a.From x) (hb : b.From x) :
    Res.From (if c then a else b) x := by
  split <;> assumption
theorem cond_keeps (s : State) (c : Bool) (f : State → State) {x : State} (h : ∀ s, (f s).From s) (hs : s.From x) :
    (s.cond c f).From x := by
  unfold State.cond; split
  · exact (h s).trans hs
  · exact hs
theorem foldl_keeps {α : Type} (s : State) (l : List α) (f : State → α → State) {x : State}
    (h : ∀ s a, (f s a).From s) (hs : s.From x) : (l.foldl f s).From x := by
  induction l generalizing s with
  | nil => exact hs
  | cons a l ih => exact ih _ ((h s a).trans hs)
theorem each_keeps {α : Type} (s : State) (l : List α) (f : State → α → State) {x : State}
    (h : ∀ s a, (f s a).From s) (hs : s.From x) : (s.each l f).From x := foldl_keeps s l f h hs
theorem foldl_keeps2 {α β : Type} (p : β × State) (l : List α) (f : β × State → α → β × State) {x : State}
    (h : ∀ q a, (f q a).2.From q.2) (hs : p.2.From x) : (l.foldl f p).2.From x := by
  induction l generalizing p with
  | nil => exact hs
  | cons a l ih => exact ih _ ((h p a).trans hs)
theorem foldl_keeps3 {α β γ : Type} (p : β × γ × State) (l : List α) (f : β × γ × State → α → β × γ × State) {x : State}
    (h : ∀ q a, (f q a).2.2.From q.2.2) (hs : p.2.2.From x) : (l.foldl f p).2.2.From x := by
  induction l generalizing p with
  | nil => exact hs
  | cons a l ih => exact ih _ ((h p a).trans hs)
theorem pair_keeps {α : Type} {p : α × State} {a : α} {t x : State} (h : p.2.From x) (e : p = (a, t)) : t.From x := by
  subst e; exact h
theorem pair3_keeps {α β : Type} {p : α × β × State} {a : α} {b : β} {t x : State}
    (h : p.2.2.From x) (e : p = (a, b, t)) : t.From x := by
  subst e; exact h
theorem ite_keeps_pair {α : Type} {c : Prop} [Decidable c] {a b : α × State} {x : State} (ha : a.2.From x) (hb : b.2.From x) :
    (if c then a else b).2.From x := by
  split <;> assumption
theorem getD_keeps {o : Option State} {d x : State} (h : ∀ t, o = some t → t.From x) (hd : d.From x) : (o.getD d).From x := by
  cases o with
  | none => exact hd
  | some t => exact h t rfl
theorem State.upd_regs_keeps (s : State) (x : Sp Word32) : State.From { s with regs := x } s := ⟨rfl, rfl, id⟩
theorem State.upd_now_keeps (s : State) (x : Nat) : State.From { s with now := x } s := ⟨rfl, rfl, id⟩
theorem State.upd_pcNow_keeps (s : State) (x : Nat) : State.From { s with pcNow := x } s := ⟨rfl, rfl, id⟩
theorem State.upd_pcRem_keeps (s : State) (x : Nat) : State.From { s with pcRem := x } s := ⟨rfl, rfl, id⟩
theorem State.upd_pcDev_keeps (s : State) (x : Nat) : State.From { s with pcDev := x } s := ⟨rfl, rfl, id⟩
theorem State.upd_pcDevRem_keeps (s : State) (x : Nat) : State.From { s with pcDevRem := x } s := ⟨rfl, rfl, id⟩
theorem State.upd_clockOn_keeps (s : State) (x : Bool) : State.From { s with clockOn := x } s := ⟨rfl, rfl, id⟩
theorem State.upd_fuseLoaded_keeps (s : State) (x : Bool) : State.From { s with fuseLoaded := x } s := ⟨rfl, rfl, id⟩
theorem State.upd_porstLow_keeps (s : State) (x : Bool) : State.From { s with porstLow := x } s := ⟨rfl, rfl, id⟩
theorem State.upd_srstLow_keeps (s : State) (x : Bool) : State.From { s with srstLow := x } s := ⟨rfl, rfl, id⟩
theorem State.upd_railLost_keeps (s : State) (x : Bool) : State.From { s with railLost := x } s := ⟨rfl, rfl, id⟩
theorem State.upd_fused_keeps (s : State) (x : Nat) : State.From { s with fused := x } s := ⟨rfl, rfl, id⟩
theorem State.upd_freeCtr_keeps (s : State) (x : Nat) : State.From { s with freeCtr := x } s := ⟨rfl, rfl, id⟩
theorem State.upd_rims_keeps (s : State) (x : Sp RimSt) : State.From { s with rims := x } s := ⟨rfl, rfl, id⟩
theorem State.upd_hub_keeps (s : State) (x : HubSt) : State.From { s with hub := x } s := ⟨rfl, rfl, id⟩
theorem State.upd_ports_keeps (s : State) (x : Sp PortSt) : State.From { s with ports := x } s := ⟨rfl, rfl, id⟩
theorem State.upd_handles_keeps (s : State) (x : Sp Desc) : State.From { s with handles := x } s := ⟨rfl, rfl, id⟩
theorem State.upd_hcmd_keeps (s : State) (x : Option HandleCmd) : State.From { s with hcmd := x } s := ⟨rfl, rfl, id⟩
theorem State.upd_regul_keeps (s : State) (x : RegulSt) : State.From { s with regul := x } s := ⟨rfl, rfl, id⟩
theorem State.upd_psnLog_keeps (s : State) (x : List PsnEntry) : State.From { s with psnLog := x } s := ⟨rfl, rfl, id⟩
theorem State.upd_captured_keeps (s : State) (x : Sp Nat) : State.From { s with captured := x } s := ⟨rfl, rfl, id⟩
theorem State.upd_reply_keeps (s : State) (x : Sp (List (Nat × Nat))) : State.From { s with reply := x } s := ⟨rfl, rfl, id⟩
theorem State.upd_energyAcc_keeps (s : State) (x : EnergySt) : State.From { s with energyAcc := x } s := ⟨rfl, rfl, id⟩
theorem State.upd_shareHeld_keeps (s : State) (x : List (Nat × Nat)) : State.From { s with shareHeld := x } s := ⟨rfl, rfl, id⟩
theorem State.upd_domUp_keeps (s : State) (x : Sp Nat) : State.From { s with domUp := x } s := ⟨rfl, rfl, id⟩
theorem State.upd_domDead_keeps (s : State) (x : List Nat) : State.From { s with domDead := x } s := ⟨rfl, rfl, id⟩
theorem State.upd_wakes_keeps (s : State) (x : List Nat) : State.From { s with wakes := x } s := ⟨rfl, rfl, id⟩
theorem State.upd_sync_keeps (s : State) (x : SyncSt) : State.From { s with sync := x } s := ⟨rfl, rfl, id⟩
theorem State.upd_cache_keeps (s : State) (x : CacheSt) : State.From { s with cache := x } s := ⟨rfl, rfl, id⟩
theorem State.upd_mport_keeps (s : State) (x : List MpReq) : State.From { s with mport := x } s := ⟨rfl, rfl, id⟩
theorem State.upd_mpCtr_keeps (s : State) (x : Nat) : State.From { s with mpCtr := x } s := ⟨rfl, rfl, id⟩
theorem State.upd_engScale_keeps (s : State) (x : Sp (List ScaleEntry)) : State.From { s with engScale := x } s := ⟨rfl, rfl, id⟩
theorem State.upd_spokeHeld_keeps (s : State) (x : List Nat) : State.From { s with spokeHeld := x } s := ⟨rfl, rfl, id⟩
theorem State.upd_chans_keeps (s : State) (x : Sp MvChan) : State.From { s with chans := x } s := ⟨rfl, rfl, id⟩
theorem State.upd_engRr_keeps (s : State) (x : Sp Nat) : State.From { s with engRr := x } s := ⟨rfl, rfl, id⟩
theorem State.upd_recd_keeps (s : State) (x : RecSt) : State.From { s with recd := x } s := ⟨rfl, rfl, id⟩
theorem State.upd_integ_keeps (s : State) (x : IntegSt) : State.From { s with integ := x } s := ⟨rfl, rfl, id⟩
theorem State.upd_test_keeps (s : State) (x : TestSt) : State.From { s with test := x } s := ⟨rfl, rfl, id⟩
theorem State.upd_life_keeps (s : State) (x : LifeSt) : State.From { s with life := x } s := ⟨rfl, rfl, id⟩
theorem State.upd_raq_keeps (s : State) (x : Sp RaQueue) : State.From { s with raq := x } s := ⟨rfl, rfl, id⟩
theorem State.upd_klen_keeps (s : State) (x : Sp Nat) : State.From { s with klen := x } s := ⟨rfl, rfl, id⟩
theorem State.upd_link_keeps (s : State) (x : LinkSt) : State.From { s with link := x } s := ⟨rfl, rfl, id⟩
theorem State.upd_win_keeps (s : State) (x : WinSt) : State.From { s with win := x } s := ⟨rfl, rfl, id⟩
theorem State.upd_fw_keeps (s : State) (x : FwSt) : State.From { s with fw := x } s := ⟨rfl, rfl, id⟩
theorem State.upd_fab_keeps (s : State) (x : FabSt) : State.From { s with fab := x } s := ⟨rfl, rfl, id⟩
theorem State.upd_mpRr_keeps (s : State) (x : Nat) : State.From { s with mpRr := x } s := ⟨rfl, rfl, id⟩
theorem State.wr_keeps (s : State) (off : Nat) (w : Word32) : (State.wr s off w).From s := by
  unfold State.wr
  repeat' with_reducible first | exact State.From.refl _ | assumption | refine ite_keeps ?_ ?_ | refine (State.upd_regs_keeps ..).trans ?_
theorem State.put_keeps (s : State) (base : Nat) (f : Fld) (v : Nat) : (State.put s base f v).From s := by
  unfold State.put
  repeat' with_reducible first | exact State.From.refl _ | assumption | refine ite_keeps ?_ ?_ | refine (State.wr_keeps ..).trans ?_
theorem State.bump_keeps (s : State) (base : Nat) (f : Fld) (n : Nat) : (State.bump s base f n).From s := by
  unfold State.bump
  repeat' with_reducible first | exact State.From.refl _ | assumption | refine ite_keeps ?_ ?_ | refine (State.put_keeps ..).trans ?_
theorem State.bumpSat_keeps (s : State) (base : Nat) (f : Fld) (n : Nat) : (State.bumpSat s base f n).From s := by
  unfold State.bumpSat
  repeat' with_reducible first | exact State.From.refl _ | assumption | refine ite_keeps ?_ ?_ | refine (State.put_keeps ..).trans ?_
theorem State.drop_keeps (s : State) (base : Nat) (f : Fld) (n : Nat) : (State.drop s base f n).From s := by
  unfold State.drop
  repeat' with_reducible first | exact State.From.refl _ | assumption | refine ite_keeps ?_ ?_ | refine (State.put_keeps ..).trans ?_
theorem State.draw_keeps (s : State) : (State.draw s).2.From s := by
  unfold State.draw
  repeat' with_reducible first | exact State.From.refl _ | assumption | refine ite_keeps ?_ ?_ | refine ite_keeps_pair ?_ ?_ | refine (State.upd_freeCtr_keeps ..).trans ?_
theorem State.irqBit_keeps (s : State) (base : Nat) (k : Nat) : (State.irqBit s base k).From s := by
  unfold State.irqBit
  repeat' with_reducible first | exact State.From.refl _ | assumption | refine ite_keeps ?_ ?_ | refine (State.wr_keeps ..).trans ?_
theorem State.fire_keeps (s : State) (n : Nat) (info : Nat) (aux : Nat) : (State.fire s n info aux).2.From s := by
  unfold State.fire
  repeat' with_reducible first | exact State.From.refl _ | assumption | refine ite_keeps ?_ ?_ | refine ite_keeps_pair ?_ ?_ | refine (State.bump_keeps ..).trans ?_ | refine (State.bumpSat_keeps ..).trans ?_ | split | refine (State.upd_recd_keeps ..).trans ?_ | dsimp only
theorem State.fireErrors_keeps (s : State) (base : Nat) (k : Nat) : (State.fireErrors s base k).2.From s := by
  unfold State.fireErrors
  repeat' with_reducible first | exact State.From.refl _ | assumption | refine (pair_keeps (State.fire_keeps ..) (by assumption)).trans ?_ | refine ite_keeps ?_ ?_ | refine ite_keeps_pair ?_ ?_ | refine (State.fire_keeps ..).trans ?_ | refine foldl_keeps _ _ _ (fun s x => ?_) ?_ | refine foldl_keeps2 _ _ _ (fun s x => ?_) ?_ | refine foldl_keeps3 _ _ _ (fun s x => ?_) ?_ | split | dsimp only
theorem State.missed_keeps (s : State) : (State.missed s).From s := by
  unfold State.missed
  repeat' with_reducible first | exact State.From.refl _ | assumption | refine (pair_keeps (State.fireErrors_keeps ..) (by assumption)).trans ?_ | refine ite_keeps ?_ ?_ | refine (State.irqBit_keeps ..).trans ?_ | refine (State.fireErrors_keeps ..).trans ?_ | split | dsimp only
theorem State.trigger_keeps (s : State) (n : Nat) (info : Nat) (aux : Nat) : (State.trigger s n info aux).From s := by
  unfold State.trigger
  repeat' with_reducible first | exact State.From.refl _ | assumption | refine (pair_keeps (State.fire_keeps ..) (by assumption)).trans ?_ | refine ite_keeps ?_ ?_ | refine cond_keeps _ _ _ (fun s => ?_) ?_ | refine (State.fire_keeps ..).trans ?_ | refine (State.missed_keeps ..).trans ?_ | split | dsimp only
theorem State.irq_keeps (s : State) (base : Nat) (k : Nat) : (State.irq s base k).From s := by
  unfold State.irq
  repeat' with_reducible first | exact State.From.refl _ | assumption | refine (pair_keeps (State.fireErrors_keeps ..) (by assumption)).trans ?_ | refine ite_keeps ?_ ?_ | refine cond_keeps _ _ _ (fun s => ?_) ?_ | refine (State.irqBit_keeps ..).trans ?_ | refine (State.fireErrors_keeps ..).trans ?_ | refine (State.missed_keeps ..).trans ?_ | split | dsimp only
theorem State.put64_keeps (s : State) (lo : Nat) (hi : Nat) (v : Nat) : (State.put64 s lo hi v).From s := by
  unfold State.put64
  repeat' with_reducible first | exact State.From.refl _ | assumption | refine ite_keeps ?_ ?_ | refine (State.wr_keeps ..).trans ?_
theorem State.port_keeps (s : State) (x : Nat) (f : PortSt → PortSt) : (State.port s x f).From s := by
  unfold State.port
  repeat' with_reducible first | exact State.From.refl _ | assumption | refine ite_keeps ?_ ?_ | refine (State.upd_ports_keeps ..).trans ?_
theorem State.rim_keeps (s : State) (n : Nat) (p : Nat) (f : RimSt → RimSt) : (State.rim s n p f).From s := by
  unfold State.rim
  repeat' with_reducible first | exact State.From.refl _ | assumption | refine ite_keeps ?_ ?_ | refine (State.upd_rims_keeps ..).trans ?_
theorem State.tidCnt_keeps (s : State) (t : Nat) (f : TidCnt → TidCnt) : (State.tidCnt s t f).From s := by
  unfold State.tidCnt
  repeat' with_reducible first | exact State.From.refl _ | assumption | refine ite_keeps ?_ ?_ | refine (State.upd_regul_keeps ..).trans ?_

end Sys2Proof.Machine
end

