-- ==== Sys2Proof/Laws/KeepGate.lean ====
section
/-! SUPPORT. What no operation of Machine/Gate.lean changes: the configuration, the queue of waiting commands, the canonical form of memory. -/
namespace Sys2Proof.Machine

theorem State.setOwner_keeps (s : State) (g : Nat) (v : Nat) : (State.setOwner s g v).From s := by
  unfold State.setOwner
  repeat' with_reducible first | exact State.From.refl _ | assumption | refine ite_keeps ?_ ?_ | refine (State.put_keeps ..).trans ?_ | split | dsimp only
theorem State.flagPage_keeps (s : State) (m : Master) (base : Nat) (off : Nat) (cause : Nat) : (State.flagPage s m base off cause).From s := by
  unfold State.flagPage
  repeat' with_reducible first | exact State.From.refl _ | assumption | refine ite_keeps ?_ ?_ | refine (State.wr_keeps ..).trans ?_ | refine (State.bumpSat_keeps ..).trans ?_
theorem State.fabStat_keeps (s : State) (m : Master) (off : Nat) : (State.fabStat s m off).From s := by
  unfold State.fabStat
  repeat' with_reducible first | exact State.From.refl _ | assumption | refine ite_keeps ?_ ?_ | refine cond_keeps _ _ _ (fun s => ?_) ?_ | refine (State.wr_keeps ..).trans ?_ | refine (State.bumpSat_keeps ..).trans ?_ | refine (State.irq_keeps ..).trans ?_
theorem State.refused_keeps (s : State) (m : Master) (base : Nat) (reg : Nat) : (State.refused s m base reg).From s := by
  unfold State.refused
  repeat' with_reducible first | exact State.From.refl _ | assumption | refine ite_keeps ?_ ?_ | refine (State.flagPage_keeps ..).trans ?_
theorem State.gate_keeps (s : State) (m : Master) (base : Nat) (reg : Nat) (owned : Bool) (act : State → State) (hact : ∀  s, (act  s).From s) : (State.gate s m base reg owned act).From s := by
  unfold State.gate
  repeat' with_reducible first | exact State.From.refl _ | assumption | refine ite_keeps ?_ ?_ | refine (hact ..).trans ?_ | refine (State.flagPage_keeps ..).trans ?_ | refine (State.fabStat_keeps ..).trans ?_ | split | dsimp only
theorem State.setFields_keeps (s : State) (m : Master) (base : Nat) (reg : Nat) (w : Word32) : (State.setFields s m base reg w).From s := by
  unfold State.setFields
  repeat' with_reducible first | exact State.From.refl _ | assumption | refine ite_keeps ?_ ?_ | refine cond_keeps _ _ _ (fun s => ?_) ?_ | refine each_keeps _ _ _ (fun s x => ?_) ?_ | refine (State.put_keeps ..).trans ?_ | refine (State.flagPage_keeps ..).trans ?_ | refine (State.fabStat_keeps ..).trans ?_ | split | dsimp only
theorem State.answerMaster_keeps (s : State) (m : Master) (l : List (Nat × Nat)) : (State.answerMaster s m l).From s := by
  unfold State.answerMaster
  repeat' with_reducible first | exact State.From.refl _ | assumption | refine ite_keeps ?_ ?_ | refine (State.upd_reply_keeps ..).trans ?_

end Sys2Proof.Machine
end

