-- ==== Sys2Proof/Laws/Sparse.lean ====
section
/-! SUPPORT. The laws of sparse maps and of the byte memory: a read after a write, and the canonical form that every memory
operation keeps. -/
namespace Sys2Proof.Machine

theorem Sp.above_mono {α : Type} {b c : Nat} {m : Sp α} (h : Sp.above c m = true) (l : b ≤ c) : Sp.above b m = true := by
  simp only [Sp.above, List.all_eq_true, decide_eq_true_eq] at *
  exact fun x hx => Nat.lt_of_le_of_lt l (h x hx)
theorem Sp.above_set {α : Type} {b a : Nat} {x : α} {m : Sp α} (h : Sp.above b m = true) (l : b < a) :
    Sp.above b (Sp.set m a x) = true := by
  induction m with
  | nil => simp [Sp.set, Sp.above, l]
  | cons c m ih =>
    obtain ⟨k, v⟩ := c
    simp only [Sp.above, List.all_cons, Bool.and_eq_true] at h ih ⊢
    unfold Sp.set
    split
    · simp [h.2, l]
    · split
      · simp [h.2, l, of_decide_eq_true h.1]
      · simp only [List.all_cons, Bool.and_eq_true]; exact ⟨h.1, ih h.2⟩
theorem Sp.above_del {α : Type} {b a : Nat} {m : Sp α} (h : Sp.above b m = true) : Sp.above b (Sp.del m a) = true := by
  induction m with
  | nil => exact h
  | cons c m ih =>
    obtain ⟨k, v⟩ := c
    simp only [Sp.above, List.all_cons, Bool.and_eq_true] at h ih ⊢
    unfold Sp.del
    split
    · exact h.2
    · split
      · simp [h.2, of_decide_eq_true h.1]
      · simp only [List.all_cons, Bool.and_eq_true]; exact ⟨h.1, ih h.2⟩
/-- A write keeps the keys strictly rising. -/
theorem Sp.rising_set {α : Type} {m : Sp α} (a : Nat) (x : α) (h : Sp.rising m = true) : Sp.rising (Sp.set m a x) = true := by
  induction m with
  | nil => rfl
  | cons c m ih =>
    obtain ⟨k, v⟩ := c
    simp only [Sp.rising, Bool.and_eq_true] at h
    unfold Sp.set
    split
    · rename_i e; subst e; simp [Sp.rising, h.1, h.2]
    · split
      · rename_i l
        simp only [Sp.rising, Bool.and_eq_true]
        refine ⟨?_, h⟩
        simp only [Sp.above, List.all_cons, Bool.and_eq_true, decide_eq_true_eq]
        exact ⟨l, Sp.above_mono h.1 (Nat.le_of_lt l)⟩
      · rename_i n l
        simp only [Sp.rising, Bool.and_eq_true]
        exact ⟨Sp.above_set h.1 (by omega), ih h.2⟩
theorem Sp.rising_del {α : Type} {m : Sp α} (a : Nat) (h : Sp.rising m = true) : Sp.rising (Sp.del m a) = true := by
  induction m with
  | nil => rfl
  | cons c m ih =>
    obtain ⟨k, v⟩ := c
    simp only [Sp.rising, Bool.and_eq_true] at h
    unfold Sp.del
    split
    · exact h.2
    · split
      · simp [Sp.rising, h.1, h.2]
      · simp only [Sp.rising, Bool.and_eq_true]; exact ⟨Sp.above_del h.1, ih h.2⟩

/-- A map reads back the value last set at a key. -/
@[simp] theorem Sp.get_set_self {α : Type} (d : α) (m : Sp α) (a : Nat) (x : α) : Sp.get d (Sp.set m a x) a = x := by
  induction m with
  | nil => simp [Sp.set, Sp.get]
  | cons c m ih =>
    obtain ⟨k, v⟩ := c
    unfold Sp.set
    split
    · simp [Sp.get]
    · split
      · simp [Sp.get]
      · rename_i n l; simp [Sp.get, n, l, ih]
/-- Setting a key leaves every other key. -/
theorem Sp.get_set_of_ne {α : Type} (d : α) (m : Sp α) {a b : Nat} (x : α) (h : b ≠ a) :
    Sp.get d (Sp.set m a x) b = Sp.get d m b := by
  induction m with
  | nil => simp [Sp.set, Sp.get, h]
  | cons c m ih =>
    obtain ⟨k, v⟩ := c
    unfold Sp.set
    split
    · rename_i e; subst e; simp [Sp.get, h]
    · split
      · rename_i l
        by_cases hb : b < a
        · have : b ≠ k := by omega
          have : b < k := by omega
          simp [Sp.get, *]
        · simp [Sp.get, h, hb]
      · simp [Sp.get, ih]

/-- A map gives its default below every key. -/
theorem Sp.get_of_above {α : Type} (d : α) {m : Sp α} {b : Nat} (h : Sp.above b m = true) {a : Nat} (l : a ≤ b) :
    Sp.get d m a = d := by
  cases m with
  | nil => rfl
  | cons c m =>
    obtain ⟨k, v⟩ := c
    simp only [Sp.above, List.all_cons, Bool.and_eq_true, decide_eq_true_eq] at h
    have h1 : a ≠ k := by omega
    have h2 : a < k := by omega
    simp [Sp.get, h1, h2]
theorem Sp.get_del_self {α : Type} (d : α) (m : Sp α) (a : Nat) (h : Sp.rising m = true) : Sp.get d (Sp.del m a) a = d := by
  induction m with
  | nil => rfl
  | cons c m ih =>
    obtain ⟨k, v⟩ := c
    simp only [Sp.rising, Bool.and_eq_true] at h
    unfold Sp.del
    split
    · rename_i e; subst e; exact Sp.get_of_above d h.1 (Nat.le_refl _)
    · split
      · rename_i n l; simp [Sp.get, n, l]
      · rename_i n l; simp [Sp.get, n, l, ih h.2]
theorem Sp.get_del_of_ne {α : Type} (d : α) (m : Sp α) {a b : Nat} (h : Sp.rising m = true) (e : b ≠ a) :
    Sp.get d (Sp.del m a) b = Sp.get d m b := by
  induction m with
  | nil => rfl
  | cons c m ih =>
    obtain ⟨k, v⟩ := c
    simp only [Sp.rising, Bool.and_eq_true] at h
    unfold Sp.del
    split
    · rename_i q; subst q
      by_cases l : b < a
      · simp [Sp.get, e, l, Sp.get_of_above d h.1 (Nat.le_of_lt l)]
      · simp [Sp.get, e, l]
    · split
      · rfl
      · simp [Sp.get, ih h.2]

/-- A byte read after a write to it is the byte written. -/
theorem Mem.read_write_self (m : List Host.Cell) (a : Nat) (v : BitVec 8) (h : Mem.wf m = true) :
    Mem.read (Mem.write m a v) a = v := by
  simp only [Mem.wf, Bool.and_eq_true] at h
  unfold Mem.read Mem.write
  split
  · rename_i e; rw [e]; exact Sp.get_del_self 0 m a h.1
  · exact Sp.get_set_self 0 m a v
/-- A write leaves every other byte. -/
theorem Mem.read_write_of_ne (m : List Host.Cell) {a b : Nat} (v : BitVec 8) (h : Mem.wf m = true) (e : b ≠ a) :
    Mem.read (Mem.write m a v) b = Mem.read m b := by
  simp only [Mem.wf, Bool.and_eq_true] at h
  unfold Mem.read Mem.write
  split
  · exact Sp.get_del_of_ne 0 m h.1 e
  · exact Sp.get_set_of_ne 0 m v e
theorem Sp.all_del {α : Type} (p : Nat × α → Bool) {m : Sp α} (a : Nat) (h : m.all p = true) : (Sp.del m a).all p = true := by
  induction m with
  | nil => rfl
  | cons c m ih =>
    obtain ⟨k, v⟩ := c
    simp only [List.all_cons, Bool.and_eq_true] at h
    unfold Sp.del
    split
    · exact h.2
    · split
      · simp [h.1, h.2]
      · simp [h.1, ih h.2]
theorem Sp.all_set {α : Type} (p : Nat × α → Bool) {m : Sp α} (a : Nat) (x : α) (h : m.all p = true) (e : p (a, x) = true) :
    (Sp.set m a x).all p = true := by
  induction m with
  | nil => simp [Sp.set, e]
  | cons c m ih =>
    obtain ⟨k, v⟩ := c
    simp only [List.all_cons, Bool.and_eq_true] at h
    unfold Sp.set
    split
    · simp [e, h.2]
    · split
      · simp [e, h.1, h.2]
      · simp [h.1, ih h.2]
/-- A write of a byte keeps the canonical form. -/
theorem Mem.wf_write (m : List Host.Cell) (a : Nat) (v : BitVec 8) (h : Mem.wf m = true) : Mem.wf (Mem.write m a v) = true := by
  simp only [Mem.wf, Bool.and_eq_true] at h ⊢
  unfold Mem.write
  split
  · exact ⟨Sp.rising_del a h.1, Sp.all_del _ a h.2⟩
  · rename_i n; exact ⟨Sp.rising_set a v h.1, Sp.all_set _ a v h.2 (by simpa using n)⟩
/-- A write of several bytes keeps the canonical form. -/
theorem Mem.wf_writeN (n : Nat) (m : List Host.Cell) (a x : Nat) (h : Mem.wf m = true) : Mem.wf (Mem.writeN m a x n) = true := by
  induction n generalizing m a x with
  | zero => exact h
  | succ n ih => exact ih _ _ _ (Mem.wf_write m a _ h)
/-- A write of several bytes leaves every byte outside them. -/
theorem Mem.read_writeN_outside (n : Nat) (m : List Host.Cell) (a x b : Nat) (h : Mem.wf m = true) (e : b < a ∨ a + n ≤ b) :
    Mem.read (Mem.writeN m a x n) b = Mem.read m b := by
  induction n generalizing m a x with
  | zero => rfl
  | succ n ih =>
    unfold Mem.writeN
    rw [ih _ _ _ (Mem.wf_write m a _ h) (by omega), Mem.read_write_of_ne m _ h (by omega)]
/-- A list of cells brought into canonical form stands in it. -/
theorem Mem.wf_norm (l : List Host.Cell) : Mem.wf (Mem.norm l) = true := by
  have h : ∀ m, Mem.wf m = true → Mem.wf (l.foldl (fun m c => Mem.write m c.1 c.2) m) = true := by
    induction l with
    | nil => exact fun m h => h
    | cons c l ih => exact fun m h => ih _ (Mem.wf_write m c.1 c.2 h)
  exact h [] rfl

/-- A read of several bytes after a write of them. -/
theorem Mem.readN_writeN (n : Nat) (m : List Host.Cell) (a x : Nat) (h : Mem.wf m = true) :
    Mem.readN (Mem.writeN m a x n) a n = x % 256 ^ n := by
  induction n generalizing m a x with
  | zero => simp [Mem.readN, Nat.mod_one]
  | succ n ih =>
    have w := Mem.wf_write m a (BitVec.ofNat 8 x) h
    simp only [Mem.readN, Mem.writeN]
    rw [ih _ _ _ w, Mem.read_writeN_outside n _ (a + 1) (x / 256) a w (by omega), Mem.read_write_self m a _ h]
    rw [Nat.pow_succ', Nat.mod_mul]; simp
end Sys2Proof.Machine
end

