-- ==== Sys2Proof/Laws/KeepArray.lean ====
section
/-! SUPPORT. What no operation of Machine/Array.lean changes: the configuration, the queue of waiting commands, the canonical form of memory. -/
namespace Sys2Proof.Machine

theorem State.arr_keeps (s : State) (f : ArraySt → ArraySt) (h : ∀ a, Mem.wf a.mem = true → Mem.wf (f a).mem = true) :
    (s.arr f).From s := ⟨rfl, rfl, h s.array⟩
theorem State.setWord_keeps (s : State) (w : Nat) (v : Stored) : (State.setWord s w v).From s := by
  unfold State.setWord
  refine State.arr_keeps _ _ ?_
  intro a h
  exact Mem.wf_writeN _ _ _ _ h
theorem State.setValid_keeps (s : State) (w : Nat) (on : Bool) : (State.setValid s w on).From s := by
  unfold State.setValid
  repeat' with_reducible first | exact State.From.refl _ | assumption | refine ite_keeps ?_ ?_ | refine (State.arr_keeps _ _ (fun a h => ?_)).trans ?_ | refine (State.put_keeps ..).trans ?_
theorem State.clearFrames_keeps (s : State) (hit : Nat → Nat → Nat → Bool) : (State.clearFrames s hit).From s := by
  unfold State.clearFrames
  repeat' with_reducible first | exact State.From.refl _ | assumption | refine ite_keeps ?_ ?_ | refine (State.arr_keeps _ _ (fun a h => ?_)).trans ?_ | refine (State.bumpSat_keeps ..).trans ?_ | refine (State.rim_keeps ..).trans ?_
theorem readSeg_keeps (s : State) (layer : Nat) (p : Nat) (frame : Nat) (r : Nat) (c : Nat) : (readSeg s layer p frame r c).2.From s := by
  unfold readSeg
  repeat' with_reducible first | exact State.From.refl _ | assumption | refine ite_keeps ?_ ?_ | refine ite_keeps_pair ?_ ?_ | refine (State.bumpSat_keeps ..).trans ?_ | refine (State.setValid_keeps ..).trans ?_ | split | dsimp only
theorem countCheck_keeps (s : State) (layer : Nat) (p : Nat) (x : SegRead) : (countCheck s layer p x).From s := by
  unfold countCheck
  repeat' with_reducible first | exact State.From.refl _ | assumption | refine ite_keeps ?_ ?_ | refine cond_keeps _ _ _ (fun s => ?_) ?_ | refine (State.bumpSat_keeps ..).trans ?_
theorem storeAt_keeps (s : State) (layer : Nat) (p : Nat) (frame : Nat) (r : Nat) (c : Nat) (word : Stored) (flips : Bool) : (storeAt s layer p frame r c word flips).From s := by
  unfold storeAt
  repeat' with_reducible first | exact State.From.refl _ | assumption | refine ite_keeps ?_ ?_ | refine cond_keeps _ _ _ (fun s => ?_) ?_ | refine getD_keeps (fun t h => ?_) ?_ | refine (State.arr_keeps _ _ (fun a h => ?_)).trans ?_ | refine (State.put_keeps ..).trans ?_ | refine (State.irq_keeps ..).trans ?_ | refine (State.rim_keeps ..).trans ?_ | refine (State.setWord_keeps ..).trans ?_ | refine (State.setValid_keeps ..).trans ?_ | split | dsimp only
theorem storeWord_keeps (s : State) (layer : Nat) (frame : Nat) (r : Nat) (c : Nat) (word : Stored) (flips : Bool) : (storeWord s layer frame r c word flips).From s := by
  unfold storeWord
  repeat' with_reducible first | exact State.From.refl _ | assumption | refine ite_keeps ?_ ?_ | refine cond_keeps _ _ _ (fun s => ?_) ?_ | refine (State.arr_keeps _ _ (fun a h => ?_)).trans ?_ | refine (State.bumpSat_keeps ..).trans ?_ | refine (storeAt_keeps ..).trans ?_ | split | dsimp only
theorem writeSeg_keeps (s : State) (layer : Nat) (frame : Nat) (r : Nat) (c : Nat) (data : Seg) : (writeSeg s layer frame r c data).From s := by
  unfold writeSeg
  repeat' with_reducible first | exact State.From.refl _ | assumption | refine ite_keeps ?_ ?_ | refine (storeWord_keeps ..).trans ?_
theorem writeMasked_keeps (s : State) (layer : Nat) (frame : Nat) (r : Nat) (c : Nat) (x : SegOp) : (writeMasked s layer frame r c x).From s := by
  unfold writeMasked
  repeat' with_reducible first | exact State.From.refl _ | assumption | refine ite_keeps ?_ ?_ | refine (storeWord_keeps ..).trans ?_ | refine (writeSeg_keeps ..).trans ?_ | refine foldl_keeps _ _ _ (fun s x => ?_) ?_ | refine foldl_keeps2 _ _ _ (fun s x => ?_) ?_ | refine foldl_keeps3 _ _ _ (fun s x => ?_) ?_ | split | dsimp only

end Sys2Proof.Machine
end

