-- ==== Sys2Proof/Laws/KeepFlags.lean ====
section
/-! SUPPORT. What no operation of Machine/Flags.lean changes: the configuration, the queue of waiting commands, the canonical form of memory. -/
namespace Sys2Proof.Machine

theorem State.energy_keeps (s : State) (k : Nat) (n : Nat) (t : Nat) (owner : Option Nat) : (State.energy s k n t owner).From s := by
  unfold State.energy
  repeat' with_reducible first | exact State.From.refl _ | assumption | refine ite_keeps ?_ ?_ | split | refine (State.upd_energyAcc_keeps ..).trans ?_ | dsimp only
theorem State.energyNone_keeps (s : State) (k : Nat) (n : Nat) : (State.energyNone s k n).From s := by
  unfold State.energyNone
  repeat' with_reducible first | exact State.From.refl _ | assumption | refine ite_keeps ?_ ?_ | refine (State.upd_energyAcc_keeps ..).trans ?_ | (unfold State.From; exact ⟨rfl, rfl, id⟩) | split | dsimp only
theorem State.charge_keeps (s : State) (t : Nat) (rd : Nat) (wr : Nat) : (State.charge s t rd wr).From s := by
  unfold State.charge
  repeat' with_reducible first | exact State.From.refl _ | assumption | refine ite_keeps ?_ ?_ | refine (State.wr_keeps ..).trans ?_ | refine (State.bumpSat_keeps ..).trans ?_ | refine (State.tidCnt_keeps ..).trans ?_
theorem State.occDown_keeps (s : State) (t : Nat) : (State.occDown s t).From s := by
  unfold State.occDown
  repeat' with_reducible first | exact State.From.refl _ | assumption | refine ite_keeps ?_ ?_ | refine cond_keeps _ _ _ (fun s => ?_) ?_ | refine (State.upd_regul_keeps ..).trans ?_ | (unfold State.From; exact ⟨rfl, rfl, id⟩) | split | dsimp only
theorem State.mark_keeps (s : State) (t : Nat) (step : Nat) : (State.mark s t step).From s := by
  unfold State.mark
  repeat' with_reducible first | exact State.From.refl _ | assumption | refine ite_keeps ?_ ?_ | refine cond_keeps _ _ _ (fun s => ?_) ?_ | refine (State.wr_keeps ..).trans ?_ | refine (State.put_keeps ..).trans ?_ | refine (State.bumpSat_keeps ..).trans ?_ | split | dsimp only
theorem State.logPoison_keeps (s : State) (e : PsnEntry) : (State.logPoison s e).From s := by
  unfold State.logPoison
  repeat' with_reducible first | exact State.From.refl _ | assumption | refine ite_keeps ?_ ?_ | refine (State.bumpSat_keeps ..).trans ?_ | refine (State.irq_keeps ..).trans ?_ | split | refine (State.upd_psnLog_keeps ..).trans ?_ | dsimp only
theorem State.poison_keeps (s : State) (kind : Nat) (layer : Nat) (frame : Nat) (r : Nat) (c : Nat) (tid : Nat) (step : Nat) (source : Nat) : (State.poison s kind layer frame r c tid step source).From s := by
  unfold State.poison
  repeat' with_reducible first | exact State.From.refl _ | assumption | refine ite_keeps ?_ ?_ | refine cond_keeps _ _ _ (fun s => ?_) ?_ | refine (State.mark_keeps ..).trans ?_ | refine (State.logPoison_keeps ..).trans ?_
theorem State.latency_keeps (s : State) (t : Nat) (lat : Nat) : (State.latency s t lat).From s := by
  unfold State.latency
  repeat' with_reducible first | exact State.From.refl _ | assumption | refine ite_keeps ?_ ?_ | refine (State.tidCnt_keeps ..).trans ?_
theorem State.countStatus_keeps (s : State) (x : Nat) (st : Nat) : (State.countStatus s x st).From s := by
  unfold State.countStatus
  repeat' with_reducible first | exact State.From.refl _ | assumption | refine ite_keeps ?_ ?_ | refine cond_keeps _ _ _ (fun s => ?_) ?_ | refine (State.bumpSat_keeps ..).trans ?_

end Sys2Proof.Machine
end

