-- ==== Sys2Proof/Laws/KeepEnergyOps.lean ====
section
/-! SUPPORT. What no operation of Machine/EnergyOps.lean changes: the configuration, the queue of waiting commands, the canonical form of memory. -/
namespace Sys2Proof.Machine

theorem State.nrg_keeps (s : State) (f : EnergySt → EnergySt) : (State.nrg s f).From s := by
  unfold State.nrg
  repeat' with_reducible first | exact State.From.refl _ | assumption | refine ite_keeps ?_ ?_ | refine (State.upd_energyAcc_keeps ..).trans ?_
theorem State.commit_keeps (s : State) (pool : Nat) (est : Nat) : (State.commit s pool est).From s := by
  unfold State.commit
  repeat' with_reducible first | exact State.From.refl _ | assumption | refine ite_keeps ?_ ?_ | refine (State.nrg_keeps ..).trans ?_ | split | dsimp only
theorem State.admitFrom_keeps (s : State) (h : Chunk) (pool : Nat) : (State.admitFrom s h pool).From s := by
  unfold State.admitFrom
  repeat' with_reducible first | exact State.From.refl _ | assumption | refine ite_keeps ?_ ?_ | refine (State.nrg_keeps ..).trans ?_ | refine (State.commit_keeps ..).trans ?_ | split | dsimp only
theorem State.askChunk_keeps (s : State) (o : Nat) (tid : Nat) (n : Nat) (est : Nat) : (State.askChunk s o tid n est).2.From s := by
  unfold State.askChunk
  repeat' with_reducible first | exact State.From.refl _ | assumption | refine ite_keeps ?_ ?_ | refine ite_keeps_pair ?_ ?_ | refine (State.nrg_keeps ..).trans ?_ | refine (State.admitFrom_keeps ..).trans ?_ | split | dsimp only
theorem State.retryChunks_keeps (s : State) (boundary : Bool) : (State.retryChunks s boundary).From s := by
  unfold State.retryChunks
  repeat' with_reducible first | exact State.From.refl _ | assumption | refine ite_keeps ?_ ?_ | refine (State.admitFrom_keeps ..).trans ?_ | refine foldl_keeps _ _ _ (fun s x => ?_) ?_ | refine foldl_keeps2 _ _ _ (fun s x => ?_) ?_ | refine foldl_keeps3 _ _ _ (fun s x => ?_) ?_ | split | dsimp only
theorem State.endChunk_keeps (s : State) (o : Nat) : (State.endChunk s o).From s := by
  unfold State.endChunk
  repeat' with_reducible first | exact State.From.refl _ | assumption | refine ite_keeps ?_ ?_ | refine cond_keeps _ _ _ (fun s => ?_) ?_ | refine (State.nrg_keeps ..).trans ?_ | refine (State.retryChunks_keeps ..).trans ?_ | split | dsimp only
theorem State.setBudget_keeps (s : State) (b : Nat) (floor : Bool) (lcToPool : Bool) : (State.setBudget s b floor lcToPool).From s := by
  unfold State.setBudget
  repeat' with_reducible first | exact State.From.refl _ | assumption | refine ite_keeps ?_ ?_ | refine (State.put_keeps ..).trans ?_ | refine (State.nrg_keeps ..).trans ?_ | split | dsimp only
theorem State.em0Expire_keeps (s : State) : (State.em0Expire s).From s := by
  unfold State.em0Expire
  repeat' with_reducible first | exact State.From.refl _ | assumption | refine ite_keeps ?_ ?_ | refine cond_keeps _ _ _ (fun s => ?_) ?_ | refine (State.irq_keeps ..).trans ?_ | refine (State.nrg_keeps ..).trans ?_ | refine (State.setBudget_keeps ..).trans ?_ | split | dsimp only
theorem State.em0Write_keeps (s : State) (v : Nat) : (State.em0Write s v).From s := by
  unfold State.em0Write
  repeat' with_reducible first | exact State.From.refl _ | assumption | refine ite_keeps ?_ ?_ | refine cond_keeps _ _ _ (fun s => ?_) ?_ | refine (State.put_keeps ..).trans ?_ | refine (State.nrg_keeps ..).trans ?_ | refine (State.setBudget_keeps ..).trans ?_ | split | dsimp only
theorem State.emgUpdate_keeps (s : State) : (State.emgUpdate s).From s := by
  unfold State.emgUpdate
  repeat' with_reducible first | exact State.From.refl _ | assumption | refine ite_keeps ?_ ?_ | refine (State.put_keeps ..).trans ?_ | refine (State.bumpSat_keeps ..).trans ?_ | refine (State.irq_keeps ..).trans ?_ | refine (State.nrg_keeps ..).trans ?_ | refine (State.setBudget_keeps ..).trans ?_ | split | dsimp only

end Sys2Proof.Machine
end

