-- ==== Sys2Proof/Laws/KeepLinkOps.lean ====
section
/-! SUPPORT. What no operation of Machine/LinkOps.lean changes: the configuration, the queue of waiting commands, the canonical form of memory. -/
namespace Sys2Proof.Machine

theorem State.lnk_keeps (s : State) (f : LinkSt → LinkSt) : (State.lnk s f).From s := by
  unfold State.lnk
  repeat' with_reducible first | exact State.From.refl _ | assumption | refine ite_keeps ?_ ?_ | refine (State.upd_link_keeps ..).trans ?_
theorem State.wnu_keeps (s : State) (f : WinSt → WinSt) : (State.wnu s f).From s := by
  unfold State.wnu
  repeat' with_reducible first | exact State.From.refl _ | assumption | refine ite_keeps ?_ ?_ | refine (State.upd_win_keeps ..).trans ?_
theorem State.lport_keeps (s : State) (p : Nat) (f : LinkPort → LinkPort) : (State.lport s p f).From s := by
  unfold State.lport
  repeat' with_reducible first | exact State.From.refl _ | assumption | refine ite_keeps ?_ ?_ | refine (State.lnk_keeps ..).trans ?_ | refine (State.upd_ports_keeps ..).trans ?_
theorem State.sendMarks_keeps (s : State) (p : Nat) : (State.sendMarks s p).From s := by
  unfold State.sendMarks
  repeat' with_reducible first | exact State.From.refl _ | assumption | refine ite_keeps ?_ ?_ | refine (State.lport_keeps ..).trans ?_ | refine (State.upd_freeCtr_keeps ..).trans ?_ | (unfold State.From; exact ⟨rfl, rfl, id⟩) | split | dsimp only
theorem State.sendWord_keeps (s : State) (p : Nat) (blocks : List Nat) : (State.sendWord s p blocks).From s := by
  unfold State.sendWord
  repeat' with_reducible first | exact State.From.refl _ | assumption | refine ite_keeps ?_ ?_ | refine cond_keeps _ _ _ (fun s => ?_) ?_ | refine (State.lport_keeps ..).trans ?_ | refine (State.sendMarks_keeps ..).trans ?_ | split | dsimp only
theorem State.sendBlocks_keeps (s : State) (p : Nat) (n : Nat) (l : List Nat) : ((State.sendBlocks s p) n l).From s := by
  induction n generalizing s l with
  | zero => exact State.From.refl _
  | succ n ih =>
    cases l with
    | nil => exact State.From.refl _
    | cons b l => exact (ih ..).trans (State.sendWord_keeps ..)
theorem State.sendCb_keeps (s : State) (p : Nat) (ctype : Nat) (payload : Nat) : (State.sendCb s p ctype payload).From s := by
  unfold State.sendCb
  repeat' with_reducible first | exact State.From.refl _ | assumption | refine ite_keeps ?_ ?_ | refine cond_keeps _ _ _ (fun s => ?_) ?_ | refine (State.lport_keeps ..).trans ?_ | refine (State.sendBlocks_keeps ..).trans ?_ | split | dsimp only
theorem State.sendLink_keeps (s : State) (p : Nat) : (State.sendLink s p).From s := by
  unfold State.sendLink
  repeat' with_reducible first | exact State.From.refl _ | assumption | refine ite_keeps ?_ ?_ | refine getD_keeps (fun t h => ?_) ?_ | refine (State.lport_keeps ..).trans ?_ | refine (State.sendCb_keeps ..).trans ?_ | split | dsimp only
theorem State.sendRetry_keeps (s : State) (p : Nat) : (State.sendRetry s p).From s := by
  unfold State.sendRetry
  repeat' with_reducible first | exact State.From.refl _ | assumption | refine ite_keeps ?_ ?_ | refine (State.sendCb_keeps ..).trans ?_ | split | dsimp only
theorem State.sendInit_keeps (s : State) (p : Nat) : (State.sendInit s p).From s := by
  unfold State.sendInit
  repeat' with_reducible first | exact State.From.refl _ | assumption | refine ite_keeps ?_ ?_ | refine (State.sendCb_keeps ..).trans ?_ | split | dsimp only
theorem State.sendInits_keeps (s : State) : (State.sendInits s).From s := by
  unfold State.sendInits
  repeat' with_reducible first | exact State.From.refl _ | assumption | refine ite_keeps ?_ ?_ | refine cond_keeps _ _ _ (fun s => ?_) ?_ | refine each_keeps _ _ _ (fun s x => ?_) ?_ | refine (State.sendInit_keeps ..).trans ?_ | split | dsimp only
theorem State.freeLane_keeps (s : State) (p : Nat) (lane : Nat) (n : Nat) : (State.freeLane s p lane n).From s := by
  unfold State.freeLane
  repeat' with_reducible first | exact State.From.refl _ | assumption | refine ite_keeps ?_ ?_ | refine cond_keeps _ _ _ (fun s => ?_) ?_ | refine getD_keeps (fun t h => ?_) ?_ | refine (State.lport_keeps ..).trans ?_ | refine (State.sendLink_keeps ..).trans ?_ | split | dsimp only
theorem State.freeRx_keeps (s : State) (p : Nat) (pk : Packet) : (State.freeRx s p pk).From s := by
  unfold State.freeRx
  repeat' with_reducible first | exact State.From.refl _ | assumption | refine ite_keeps ?_ ?_ | refine (State.freeLane_keeps ..).trans ?_
theorem State.flitsSent_keeps (s : State) (p : Nat) (t : LinkTx) : (State.flitsSent s p t).From s := by
  unfold State.flitsSent
  repeat' with_reducible first | exact State.From.refl _ | assumption | refine ite_keeps ?_ ?_ | refine cond_keeps _ _ _ (fun s => ?_) ?_ | refine (State.bump_keeps ..).trans ?_ | refine (State.energy_keeps ..).trans ?_ | refine (State.energyNone_keeps ..).trans ?_ | refine (State.sendBlocks_keeps ..).trans ?_ | refine (State.sendLink_keeps ..).trans ?_ | split | dsimp only
theorem State.pump_keeps (s : State) (p : Nat) (n : Nat) : ((State.pump s p) n).From s := by
  induction n generalizing s with
  | zero => exact State.From.refl _
  | succ n ih =>
    unfold State.pump
    repeat' with_reducible first | exact State.From.refl _ | assumption | refine (ih ..).trans ?_ | refine ite_keeps ?_ ?_ | refine cond_keeps _ _ _ (fun s => ?_) ?_ | refine (State.lnk_keeps ..).trans ?_ | refine (State.lport_keeps ..).trans ?_ | refine (State.freeLane_keeps ..).trans ?_ | refine (State.flitsSent_keeps ..).trans ?_ | split | dsimp only
theorem State.pumpAll_keeps (s : State) (p : Nat) : (State.pumpAll s p).From s := by
  unfold State.pumpAll
  repeat' with_reducible first | exact State.From.refl _ | assumption | refine ite_keeps ?_ ?_ | refine (State.pump_keeps ..).trans ?_
theorem State.enqueue_keeps (s : State) (p : Nat) (inp : Nat) (pk : Packet) (tid : Option Nat) (own : Option Nat) : (State.enqueue s p inp pk tid own).From s := by
  unfold State.enqueue
  repeat' with_reducible first | exact State.From.refl _ | assumption | refine ite_keeps ?_ ?_ | refine (State.lnk_keeps ..).trans ?_ | refine (State.lport_keeps ..).trans ?_ | refine (State.freeRx_keeps ..).trans ?_ | refine (State.pumpAll_keeps ..).trans ?_ | split | dsimp only
theorem State.countNak_keeps (s : State) (cause : Nat) (to_ : Nat) (dst : Nat) (ptype : Nat) : (State.countNak s cause to_ dst ptype).From s := by
  unfold State.countNak
  repeat' with_reducible first | exact State.From.refl _ | assumption | refine ite_keeps ?_ ?_ | refine (State.wr_keeps ..).trans ?_ | refine (State.bumpSat_keeps ..).trans ?_ | refine (State.irq_keeps ..).trans ?_
theorem State.discard_keeps (s : State) (dst : Nat) : (State.discard s dst).From s := by
  unfold State.discard
  repeat' with_reducible first | exact State.From.refl _ | assumption | refine ite_keeps ?_ ?_ | refine cond_keeps _ _ _ (fun s => ?_) ?_ | refine (State.bumpSat_keeps ..).trans ?_ | split | dsimp only
theorem State.sendResp_keeps (s : State) (pk : Packet) (tid : Option Nat) : (State.sendResp s pk tid).From s := by
  unfold State.sendResp
  repeat' with_reducible first | exact State.From.refl _ | assumption | refine ite_keeps ?_ ?_ | refine (State.enqueue_keeps ..).trans ?_ | refine (State.discard_keeps ..).trans ?_ | split | dsimp only
theorem State.nakTo_keeps (s : State) (cause : Nat) (pk : Packet) (tid : Option Nat) : (State.nakTo s cause pk tid).From s := by
  unfold State.nakTo
  repeat' with_reducible first | exact State.From.refl _ | assumption | refine ite_keeps ?_ ?_ | refine (State.countNak_keeps ..).trans ?_ | refine (State.sendResp_keeps ..).trans ?_ | split | dsimp only
theorem State.closeTag_keeps (s : State) (etag : Nat) (nak : Option Nat) : (State.closeTag s etag nak).From s := by
  unfold State.closeTag
  repeat' with_reducible first | exact State.From.refl _ | assumption | refine ite_keeps ?_ ?_ | refine (State.lnk_keeps ..).trans ?_ | split | dsimp only
theorem State.openTag_keeps (s : State) (who : SentFor) (dst : Nat) (ptype : Nat) (tid : Option Nat) (n : Nat) : (State.openTag s who dst ptype tid n).2.From s := by
  unfold State.openTag
  repeat' with_reducible first | exact State.From.refl _ | assumption | refine ite_keeps ?_ ?_ | refine ite_keeps_pair ?_ ?_ | refine (State.lnk_keeps ..).trans ?_ | split | dsimp only
theorem State.sendData_keeps (s : State) (pk : Packet) (tid : Option Nat) (own : Option Nat) : (State.sendData s pk tid own).From s := by
  unfold State.sendData
  repeat' with_reducible first | exact State.From.refl _ | assumption | refine ite_keeps ?_ ?_ | refine cond_keeps _ _ _ (fun s => ?_) ?_ | refine (State.wnu_keeps ..).trans ?_ | refine (State.enqueue_keeps ..).trans ?_ | refine (State.countNak_keeps ..).trans ?_ | refine (State.closeTag_keeps ..).trans ?_ | split | dsimp only
theorem State.sendBwr_keeps (s : State) (who : SentFor) (dev : Nat) (w : Nat) (off : Nat) (n : Nat) (data : Nat) (tid : Option Nat) (own : Option Nat) : (State.sendBwr s who dev w off n data tid own).From s := by
  unfold State.sendBwr
  repeat' with_reducible first | exact State.From.refl _ | assumption | refine (pair_keeps (State.openTag_keeps ..) (by assumption)).trans ?_ | refine ite_keeps ?_ ?_ | refine (State.openTag_keeps ..).trans ?_ | refine (State.sendData_keeps ..).trans ?_ | split | dsimp only
theorem State.sendCtrl_keeps (s : State) (ptype : Nat) (dst : Nat) (bar : Nat) (phase : Nat) : (State.sendCtrl s ptype dst bar phase).From s := by
  unfold State.sendCtrl
  repeat' with_reducible first | exact State.From.refl _ | assumption | refine ite_keeps ?_ ?_ | refine cond_keeps _ _ _ (fun s => ?_) ?_ | refine (State.countNak_keeps ..).trans ?_ | refine (State.sendResp_keeps ..).trans ?_ | split | dsimp only

end Sys2Proof.Machine
end

