-- ==== Sys2Proof/Laws/KeepHubOps.lean ====
section
/-! SUPPORT. What no operation of Machine/HubOps.lean changes: the configuration, the queue of waiting commands, the canonical form of memory. -/
namespace Sys2Proof.Machine

theorem State.hubf_keeps (s : State) (f : HubSt → HubSt) : (State.hubf s f).From s := by
  unfold State.hubf
  repeat' with_reducible first | exact State.From.refl _ | assumption | refine ite_keeps ?_ ?_ | refine (State.upd_hub_keeps ..).trans ?_
theorem State.setFlight_keeps (s : State) (l : List Access) : (State.setFlight s l).From s := by
  unfold State.setFlight
  repeat' with_reducible first | exact State.From.refl _ | assumption | refine ite_keeps ?_ ?_ | refine (State.hubf_keeps ..).trans ?_
theorem State.upd_keeps (s : State) (a : Access) : (State.upd s a).From s := by
  unfold State.upd
  repeat' with_reducible first | exact State.From.refl _ | assumption | refine ite_keeps ?_ ?_ | refine (State.setFlight_keeps ..).trans ?_ | split | dsimp only
theorem State.leave_keeps (s : State) (a : Access) : (State.leave s a).From s := by
  unfold State.leave
  repeat' with_reducible first | exact State.From.refl _ | assumption | refine ite_keeps ?_ ?_ | refine (State.setFlight_keeps ..).trans ?_
theorem State.askWake_keeps (s : State) (layer : Nat) (p : Nat) : (State.askWake s layer p).From s := by
  unfold State.askWake
  repeat' with_reducible first | exact State.From.refl _ | assumption | refine ite_keeps ?_ ?_ | refine cond_keeps _ _ _ (fun s => ?_) ?_ | refine (State.upd_wakes_keeps ..).trans ?_
theorem State.syn_keeps (s : State) (f : SyncSt → SyncSt) : (State.syn s f).From s := by
  unfold State.syn
  repeat' with_reducible first | exact State.From.refl _ | assumption | refine ite_keeps ?_ ?_ | refine (State.upd_sync_keeps ..).trans ?_
theorem State.settleLine_keeps (s : State) (x : Nat) (tag : Nat) (line : Nat) (status : Nat) : (State.settleLine s x tag line status).From s := by
  unfold State.settleLine
  repeat' with_reducible first | exact State.From.refl _ | assumption | refine ite_keeps ?_ ?_ | refine (State.syn_keeps ..).trans ?_ | split | dsimp only
theorem State.settleAcc_keeps (s : State) (a : Access) (status : Nat) : (State.settleAcc s a status).From s := by
  unfold State.settleAcc
  repeat' with_reducible first | exact State.From.refl _ | assumption | refine ite_keeps ?_ ?_ | refine (State.settleLine_keeps ..).trans ?_ | split | dsimp only
theorem State.failAccess_keeps (s : State) (a : Access) (st : Nat) : (State.failAccess s a st).From s := by
  unfold State.failAccess
  repeat' with_reducible first | exact State.From.refl _ | assumption | refine ite_keeps ?_ ?_ | refine (State.occDown_keeps ..).trans ?_ | refine (State.upd_keeps ..).trans ?_ | refine (State.settleAcc_keeps ..).trans ?_ | (unfold State.From; exact ⟨rfl, rfl, id⟩) | split | dsimp only
theorem State.observed_keeps (s : State) (layer : Nat) (frame : Nat) (segs : List (Nat × Nat)) : (State.observed s layer frame segs).From s := by
  unfold State.observed
  repeat' with_reducible first | exact State.From.refl _ | assumption | refine ite_keeps ?_ ?_ | refine (State.setFlight_keeps ..).trans ?_ | split | dsimp only
theorem State.noteWrite_keeps (s : State) (old : State) (a : Access) : (State.noteWrite s old a).From s := by
  unfold State.noteWrite
  repeat' with_reducible first | exact State.From.refl _ | assumption | refine ite_keeps ?_ ?_ | refine (State.setFlight_keeps ..).trans ?_ | split | dsimp only
theorem State.queueWb_keeps (s : State) (a : Access) (r : Nat) (c : Nat) (data : Seg) : (State.queueWb s a r c data).From s := by
  unfold State.queueWb
  repeat' with_reducible first | exact State.From.refl _ | assumption | refine ite_keeps ?_ ?_ | refine (State.bumpSat_keeps ..).trans ?_ | refine (State.rim_keeps ..).trans ?_ | refine (State.arr_keeps _ _ (fun a h => ?_)).trans ?_ | refine (State.charge_keeps ..).trans ?_ | split | dsimp only
theorem readSegs_keeps (s : State) (a : Access) : (readSegs s a).From s := by
  have hgo : ∀ (p : Nat) (l : List SegOp) (s : State) (k pm : Nat), (readSegs.go a p s k pm l).2.2.2.From s := by
    intro p l
    induction l with
    | nil => intro s k pm; exact State.From.refl _
    | cons x xs ih =>
      intro s k pm; unfold readSegs.go
      exact (ih ..).trans (cond_keeps _ _ _ (fun s => State.queueWb_keeps ..) ((countCheck_keeps ..).trans (readSeg_keeps ..)))
  unfold readSegs
  exact (State.upd_keeps ..).trans ((hgo ..).trans (State.observed_keeps ..))
theorem rmwRead_keeps (s : State) (a : Access) : (rmwRead s a).From s := by
  have hgo : ∀ (p : Nat) (l : List SegOp) (s : State) (k pm : Nat), (rmwRead.go a p s k pm l).2.2.2.From s := by
    intro p l
    induction l with
    | nil => intro s k pm; exact State.From.refl _
    | cons x xs ih =>
      intro s k pm; unfold rmwRead.go
      simp only [apply_ite Prod.snd]
      refine ite_keeps ?_ ?_
      · exact (ih ..).trans (writeMasked_keeps ..)
      · exact (ih ..).trans (cond_keeps _ _ _ (fun s => State.queueWb_keeps ..) ((countCheck_keeps ..).trans (readSeg_keeps ..)))
  unfold rmwRead
  exact (State.upd_keeps ..).trans ((State.bump_keeps ..).trans ((State.rim_keeps ..).trans ((hgo ..).trans (State.observed_keeps ..))))
theorem State.writeHalf_keeps (s : State) (layer : Nat) (p : Nat) : (State.writeHalf s layer p).From s := by
  unfold State.writeHalf
  repeat' with_reducible first | exact State.From.refl _ | assumption | refine ite_keeps ?_ ?_ | refine each_keeps _ _ _ (fun s x => ?_) ?_ | refine (State.rim_keeps ..).trans ?_ | refine (writeSeg_keeps ..).trans ?_ | refine (State.upd_keeps ..).trans ?_ | refine (State.settleAcc_keeps ..).trans ?_ | refine (State.noteWrite_keeps ..).trans ?_ | (unfold State.From; exact ⟨rfl, rfl, id⟩) | split | dsimp only
theorem State.countGrant_keeps (s : State) (arb : Nat) (a : Access) : (State.countGrant s arb a).From s := by
  unfold State.countGrant
  repeat' with_reducible first | exact State.From.refl _ | assumption | refine ite_keeps ?_ ?_ | refine cond_keeps _ _ _ (fun s => ?_) ?_ | refine (State.bump_keeps ..).trans ?_ | refine (State.tidCnt_keeps ..).trans ?_ | split | dsimp only
theorem State.poisonAcc_keeps (s : State) (a : Access) (kind : Nat) : (State.poisonAcc s a kind).From s := by
  unfold State.poisonAcc
  repeat' with_reducible first | exact State.From.refl _ | assumption | refine ite_keeps ?_ ?_ | refine each_keeps _ _ _ (fun s x => ?_) ?_ | refine getD_keeps (fun t h => ?_) ?_ | refine (State.poison_keeps ..).trans ?_ | split | dsimp only
theorem performAt_keeps (s : State) (arb : Nat) (a : Access) : (performAt s arb a).From s := by
  unfold performAt
  extract_lets s1 a kind s2 old w s3 s4 s5
  have h2 : s2.From s := (State.upd_keeps ..).trans (State.countGrant_keeps ..)
  have h3 : s3.From s := by
    refine State.From.trans (b := s2) (ite_keeps (rmwRead_keeps ..) ?_) h2
    split
    · exact readSegs_keeps ..
    · exact (State.upd_keeps ..).trans ((State.observed_keeps ..).trans (each_keeps _ _ _ (fun s x => writeMasked_keeps ..) (State.From.refl _)))
    · exact State.upd_keeps ..
  have h5 : s5.From s := (State.occDown_keeps ..).trans (cond_keeps _ _ _ (fun s => State.noteWrite_keeps ..) h3)
  split
  · exact h5
  · have h6 := fun c (b : Access) => cond_keeps s5 c _ (fun s => State.settleAcc_keeps s b b.status) h5
    exact ite_keeps (h6 ..) ((State.poisonAcc_keeps ..).trans (h6 ..))
theorem State.countDispl_keeps (s : State) (arb : Nat) (choice : List Access → List Access) (l : List Access) (granted : List Access) : (State.countDispl s arb choice l granted).From s := by
  unfold State.countDispl
  repeat' with_reducible first | exact State.From.refl _ | assumption | refine ite_keeps ?_ ?_ | refine each_keeps _ _ _ (fun s x => ?_) ?_ | refine (State.tidCnt_keeps ..).trans ?_ | split | dsimp only
theorem State.oneAcc_keeps (s : State) (layer : Nat) (p : Nat) (tids : List Nat) (owner : Option Nat) : (State.oneAcc s layer p tids owner).From s := by
  unfold State.oneAcc
  repeat' with_reducible first | exact State.From.refl _ | assumption | refine ite_keeps ?_ ?_ | refine each_keeps _ _ _ (fun s x => ?_) ?_ | refine (State.bump_keeps ..).trans ?_ | refine (State.tidCnt_keeps ..).trans ?_ | refine (State.energy_keeps ..).trans ?_ | refine (State.hubf_keeps ..).trans ?_ | split | dsimp only
theorem State.countAcc_keeps (s : State) (layer : Nat) (i : Nat) (tids : List Nat) (writers : List Nat) (owner : Option Nat) : (State.countAcc s layer i tids writers owner).From s := by
  unfold State.countAcc
  repeat' with_reducible first | exact State.From.refl _ | assumption | refine ite_keeps ?_ ?_ | refine cond_keeps _ _ _ (fun s => ?_) ?_ | refine (State.oneAcc_keeps ..).trans ?_ | split | dsimp only
theorem State.settle_keeps (s : State) (layer : Nat) (i : Nat) : (State.settle s layer i).From s := by
  unfold State.settle
  repeat' with_reducible first | exact State.From.refl _ | assumption | refine ite_keeps ?_ ?_ | refine (State.writeHalf_keeps ..).trans ?_ | refine (State.countAcc_keeps ..).trans ?_ | split | dsimp only
theorem State.dropClaims_keeps (s : State) (unit : Nat) : (State.dropClaims s unit).From s := by
  unfold State.dropClaims
  repeat' with_reducible first | exact State.From.refl _ | assumption | refine ite_keeps ?_ ?_ | refine (State.hubf_keeps ..).trans ?_ | split | dsimp only
theorem State.takeClaim_keeps (s : State) (a : Access) : (State.takeClaim s a).2.From s := by
  unfold State.takeClaim
  repeat' with_reducible first | exact State.From.refl _ | assumption | refine ite_keeps ?_ ?_ | refine ite_keeps_pair ?_ ?_ | refine (State.hubf_keeps ..).trans ?_ | split | dsimp only
theorem State.underClaim_keeps (s : State) (a : Access) : (State.underClaim s a).2.From s := by
  unfold State.underClaim
  repeat' with_reducible first | exact State.From.refl _ | assumption | refine (pair_keeps (State.takeClaim_keeps ..) (by assumption)).trans ?_ | refine ite_keeps ?_ ?_ | refine ite_keeps_pair ?_ ?_ | refine (State.rim_keeps ..).trans ?_ | refine (State.latency_keeps ..).trans ?_ | refine (State.countGrant_keeps ..).trans ?_ | refine (State.countAcc_keeps ..).trans ?_ | refine (State.takeClaim_keeps ..).trans ?_ | split | dsimp only
theorem directRead_keeps (s : State) (layer : Nat) (frame : Nat) (segs : List (Nat × Nat)) (tid : Nat) : (directRead s layer frame segs tid).2.2.From s := by
  unfold directRead
  repeat' with_reducible first | exact State.From.refl _ | assumption | refine (pair_keeps (State.underClaim_keeps ..) (by assumption)).trans ?_ | refine ite_keeps ?_ ?_ | refine ite_keeps_pair ?_ ?_ | refine (State.rim_keeps ..).trans ?_ | refine (State.hubf_keeps ..).trans ?_ | refine (State.setFlight_keeps ..).trans ?_ | refine (State.leave_keeps ..).trans ?_ | refine (readSegs_keeps ..).trans ?_ | refine (State.poisonAcc_keeps ..).trans ?_ | refine (State.settle_keeps ..).trans ?_ | refine (State.underClaim_keeps ..).trans ?_ | split | dsimp only
theorem directWrite_keeps (s : State) (layer : Nat) (frame : Nat) (xs : List SegOp) (tid : Nat) : (directWrite s layer frame xs tid).2.From s := by
  have hgo : ∀ (p : Nat) (l : List SegOp) (s : State) (k pm : Nat), (directWrite.go layer frame p s k pm l).2.2.From s := by
    intro p l
    induction l with
    | nil => intro s k pm; exact State.From.refl _
    | cons x xs ih =>
      intro s k pm; unfold directWrite.go
      dsimp only
      split
      · exact (ih ..).trans ((countCheck_keeps ..).trans (readSeg_keeps ..))
      · exact (ih ..).trans (writeMasked_keeps ..)
  unfold directWrite
  exact (State.poisonAcc_keeps ..).trans (cond_keeps _ _ _ (fun s => (State.bump_keeps ..).trans (State.rim_keeps ..))
    ((hgo ..).trans ((State.observed_keeps ..).trans ((State.underClaim_keeps ..).trans (State.settle_keeps ..)))))
theorem State.enterPool_keeps (s : State) (a : Access) : (State.enterPool s a).From s := by
  unfold State.enterPool
  repeat' with_reducible first | exact State.From.refl _ | assumption | refine ite_keeps ?_ ?_ | refine cond_keeps _ _ _ (fun s => ?_) ?_ | refine (State.put_keeps ..).trans ?_ | refine (State.charge_keeps ..).trans ?_ | refine (State.hubf_keeps ..).trans ?_ | refine (State.setFlight_keeps ..).trans ?_ | split | dsimp only
theorem State.enterRefused_keeps (s : State) (a : Access) (st : Nat) : (State.enterRefused s a st).From s := by
  unfold State.enterRefused
  repeat' with_reducible first | exact State.From.refl _ | assumption | refine ite_keeps ?_ ?_ | refine (State.charge_keeps ..).trans ?_ | refine (State.hubf_keeps ..).trans ?_ | refine (State.setFlight_keeps ..).trans ?_ | refine (State.settleAcc_keeps ..).trans ?_ | split | dsimp only
theorem State.shareFree_keeps (s : State) (u : Nat) : (State.shareFree s u).From s := by
  unfold State.shareFree
  repeat' with_reducible first | exact State.From.refl _ | assumption | refine ite_keeps ?_ ?_ | refine (State.upd_shareHeld_keeps ..).trans ?_ | (unfold State.From; exact ⟨rfl, rfl, id⟩) | split | dsimp only
theorem State.sendAccess_keeps (s : State) (a : Access) : (State.sendAccess s a).2.From s := by
  unfold State.sendAccess
  extract_lets t
  have h : t.From s := State.shareFree_keeps ..
  split
  · exact (State.enterRefused_keeps ..).trans h
  · exact ite_keeps_pair ((State.enterPool_keeps ..).trans h) (cond_keeps _ _ _ (fun s => State.upd_shareHeld_keeps ..) h)
theorem State.copySeg_keeps (s : State) (layer : Nat) (j : CopyJob) (a : Access) (x : SegOp) : (State.copySeg s layer j a x).From s := by
  unfold State.copySeg
  repeat' with_reducible first | exact State.From.refl _ | assumption | refine (pair_keeps (readSeg_keeps ..) (by assumption)).trans ?_ | refine ite_keeps ?_ ?_ | refine cond_keeps _ _ _ (fun s => ?_) ?_ | refine (State.put_keeps ..).trans ?_ | refine (State.arr_keeps _ _ (fun a h => ?_)).trans ?_ | refine (State.setWord_keeps ..).trans ?_ | refine (readSeg_keeps ..).trans ?_ | refine (countCheck_keeps ..).trans ?_ | refine (State.poison_keeps ..).trans ?_ | split | dsimp only
theorem State.copyQueue_keeps (s : State) (layer : Nat) (j : CopyJob) : (State.copyQueue s layer j).From s := by
  unfold State.copyQueue
  repeat' with_reducible first | exact State.From.refl _ | assumption | refine ite_keeps ?_ ?_ | refine cond_keeps _ _ _ (fun s => ?_) ?_ | refine (State.charge_keeps ..).trans ?_ | refine (State.hubf_keeps ..).trans ?_ | refine (State.upd_integ_keeps ..).trans ?_ | (unfold State.From; exact ⟨rfl, rfl, id⟩) | split | dsimp only
theorem State.copyStart_keeps (s : State) (layer : Nat) (i : Nat) (src : Nat) (dst : Nat) (tid : Nat) : (State.copyStart s layer i src dst tid).From s := by
  unfold State.copyStart
  repeat' with_reducible first | exact State.From.refl _ | assumption | refine ite_keeps ?_ ?_ | refine (State.copyQueue_keeps ..).trans ?_ | split | dsimp only
theorem State.copyEnd_keeps (s : State) (layer : Nat) : (State.copyEnd s layer).From s := by
  unfold State.copyEnd
  repeat' with_reducible first | exact State.From.refl _ | assumption | refine ite_keeps ?_ ?_ | refine (State.upd_integ_keeps ..).trans ?_ | (unfold State.From; exact ⟨rfl, rfl, id⟩) | split | dsimp only
theorem State.copyLost_keeps (s : State) (layer : Nat) (j : CopyJob) : (State.copyLost s layer j).From s := by
  unfold State.copyLost
  repeat' with_reducible first | exact State.From.refl _ | assumption | refine ite_keeps ?_ ?_ | refine cond_keeps _ _ _ (fun s => ?_) ?_ | refine (State.put_keeps ..).trans ?_ | refine (State.arr_keeps _ _ (fun a h => ?_)).trans ?_ | split | dsimp only
theorem State.copyRow_keeps (s : State) (arb : Nat) (layer : Nat) (j : CopyJob) : (State.copyRow s arb layer j).From s := by
  unfold State.copyRow
  repeat' with_reducible first | exact State.From.refl _ | assumption | refine ite_keeps ?_ ?_ | refine cond_keeps _ _ _ (fun s => ?_) ?_ | refine each_keeps _ _ _ (fun s x => ?_) ?_ | refine (State.put_keeps ..).trans ?_ | refine (State.rim_keeps ..).trans ?_ | refine (State.latency_keeps ..).trans ?_ | refine (State.observed_keeps ..).trans ?_ | refine (State.countGrant_keeps ..).trans ?_ | refine (State.oneAcc_keeps ..).trans ?_ | refine (State.copySeg_keeps ..).trans ?_ | refine (State.copyQueue_keeps ..).trans ?_ | refine (State.copyLost_keeps ..).trans ?_ | split | dsimp only
theorem State.doWriteback_keeps (s : State) (a : Access) (id : Nat) : (State.doWriteback s a id).From s := by
  unfold State.doWriteback
  repeat' with_reducible first | exact State.From.refl _ | assumption | refine ite_keeps ?_ ?_ | refine each_keeps _ _ _ (fun s x => ?_) ?_ | refine (State.bumpSat_keeps ..).trans ?_ | refine (State.arr_keeps _ _ (fun a h => ?_)).trans ?_ | refine (storeWord_keeps ..).trans ?_ | refine (State.latency_keeps ..).trans ?_ | split | dsimp only
theorem State.setClaim_keeps (s : State) (seq : Nat) (f : Access → Access) : (State.setClaim s seq f).From s := by
  unfold State.setClaim
  repeat' with_reducible first | exact State.From.refl _ | assumption | refine ite_keeps ?_ ?_ | refine (State.hubf_keeps ..).trans ?_ | split | dsimp only
theorem State.grantAt_keeps (s : State) (arb : Nat) (a : Access) : (State.grantAt s arb a).From s := by
  unfold State.grantAt
  repeat' with_reducible first | exact State.From.refl _ | assumption | refine (pair_keeps (directWrite_keeps ..) (by assumption)).trans ?_ | refine ite_keeps ?_ ?_ | refine (State.countGrant_keeps ..).trans ?_ | refine (performAt_keeps ..).trans ?_ | refine (directWrite_keeps ..).trans ?_ | refine (State.copyRow_keeps ..).trans ?_ | refine (State.doWriteback_keeps ..).trans ?_ | refine (State.setClaim_keeps ..).trans ?_ | split | dsimp only
theorem rimArb_keeps (s : State) (layer : Nat) (i : Nat) : (rimArb s layer i).From s := by
  unfold rimArb
  refine ite_keeps (State.From.refl _) ?_
  refine (State.countAcc_keeps ..).trans (cond_keeps _ _ _ (fun s => State.bump_keeps ..) (cond_keeps _ _ _ (fun s => State.bump_keeps ..) ?_))
  refine (State.rim_keeps ..).trans (each_keeps _ _ _ (fun s a => State.grantAt_keeps ..) ?_)
  exact (State.hubf_keeps ..).trans ((State.countDispl_keeps ..).trans (State.writeHalf_keeps ..))

end Sys2Proof.Machine
end

