-- ==== Sys2Proof/Laws/KeepSyncOps.lean ====
section
/-! SUPPORT. What no operation of Machine/SyncOps.lean changes: the configuration, the queue of waiting commands, the canonical form of memory. -/
namespace Sys2Proof.Machine

theorem State.sw_keeps (s : State) (x : Nat) (m : SwMsg) : (State.sw s x m).From s := by
  unfold State.sw
  repeat' with_reducible first | exact State.From.refl _ | assumption | refine ite_keeps ?_ ?_ | refine cond_keeps _ _ _ (fun s => ?_) ?_ | refine (State.bump_keeps ..).trans ?_ | refine (State.bumpSat_keeps ..).trans ?_ | refine (State.port_keeps ..).trans ?_
theorem State.freeWatch_keeps (s : State) (w : Nat) : (State.freeWatch s w).From s := by
  unfold State.freeWatch
  repeat' with_reducible first | exact State.From.refl _ | assumption | refine ite_keeps ?_ ?_ | refine (State.put_keeps ..).trans ?_ | refine (State.syn_keeps ..).trans ?_
theorem State.watchTriggers_keeps (s : State) (c : Nat) (old : Nat) : (State.watchTriggers s c old).From s := by
  unfold State.watchTriggers
  repeat' with_reducible first | exact State.From.refl _ | assumption | refine ite_keeps ?_ ?_ | refine cond_keeps _ _ _ (fun s => ?_) ?_ | refine each_keeps _ _ _ (fun s x => ?_) ?_ | refine (State.trigger_keeps ..).trans ?_ | split | dsimp only
theorem State.tryWatch_keeps (s : State) (w : Nat) : (State.tryWatch s w).From s := by
  unfold State.tryWatch
  repeat' with_reducible first | exact State.From.refl _ | assumption | refine ite_keeps ?_ ?_ | refine cond_keeps _ _ _ (fun s => ?_) ?_ | refine (State.put_keeps ..).trans ?_ | refine (State.sw_keeps ..).trans ?_ | refine (State.freeWatch_keeps ..).trans ?_ | refine (State.watchTriggers_keeps ..).trans ?_ | split | dsimp only
theorem State.ctrOp_keeps (s : State) (c : Nat) (op : Nat) (v : Nat) : (State.ctrOp s c op v).From s := by
  unfold State.ctrOp
  repeat' with_reducible first | exact State.From.refl _ | assumption | refine ite_keeps ?_ ?_ | refine cond_keeps _ _ _ (fun s => ?_) ?_ | refine each_keeps _ _ _ (fun s x => ?_) ?_ | refine (State.put_keeps ..).trans ?_ | refine (State.watchTriggers_keeps ..).trans ?_ | refine (State.tryWatch_keeps ..).trans ?_ | split | dsimp only
theorem State.ringPut_keeps (s : State) (i : Nat) (f : Fld) (v : Nat) : (State.ringPut s i f v).From s := by
  unfold State.ringPut
  repeat' with_reducible first | exact State.From.refl _ | assumption | refine ite_keeps ?_ ?_ | refine (State.put_keeps ..).trans ?_
theorem State.setTag_keeps (s : State) (t : Nat) (full : Bool) : (State.setTag s t full).From s := by
  unfold State.setTag
  repeat' with_reducible first | exact State.From.refl _ | assumption | refine ite_keeps ?_ ?_ | refine (State.put_keeps ..).trans ?_
theorem State.admitSlot_keeps (s : State) (x : Nat) (tag : Nat) (acc : Nat) (ring : Nat) (slot : Nat) : (State.admitSlot s x tag acc ring slot).From s := by
  unfold State.admitSlot
  repeat' with_reducible first | exact State.From.refl _ | assumption | refine ite_keeps ?_ ?_ | refine cond_keeps _ _ _ (fun s => ?_) ?_ | refine (State.port_keeps ..).trans ?_ | refine (State.syn_keeps ..).trans ?_ | split | dsimp only
theorem State.admitParked_keeps (s : State) (ring : Nat) (slot : Nat) (full : Bool) : (State.admitParked s ring slot full).From s := by
  unfold State.admitParked
  repeat' with_reducible first | exact State.From.refl _ | assumption | refine ite_keeps ?_ ?_ | refine each_keeps _ _ _ (fun s x => ?_) ?_ | refine (State.syn_keeps ..).trans ?_ | refine (State.admitSlot_keeps ..).trans ?_
theorem State.fillSlot_keeps (s : State) (ring : Nat) (slot : Nat) : (State.fillSlot s ring slot).From s := by
  unfold State.fillSlot
  repeat' with_reducible first | exact State.From.refl _ | assumption | refine ite_keeps ?_ ?_ | refine (State.bumpSat_keeps ..).trans ?_ | refine (State.setTag_keeps ..).trans ?_ | refine (State.admitParked_keeps ..).trans ?_ | split | dsimp only
theorem State.emptySlot_keeps (s : State) (ring : Nat) (slot : Nat) : (State.emptySlot s ring slot).From s := by
  unfold State.emptySlot
  repeat' with_reducible first | exact State.From.refl _ | assumption | refine ite_keeps ?_ ?_ | refine (State.drop_keeps ..).trans ?_ | refine (State.syn_keeps ..).trans ?_ | refine (State.setTag_keeps ..).trans ?_ | refine (State.admitParked_keeps ..).trans ?_ | split | dsimp only
theorem State.takeCursor_keeps (s : State) (ring : Nat) (producer : Bool) : (State.takeCursor s ring producer).2.From s := by
  unfold State.takeCursor
  repeat' with_reducible first | exact State.From.refl _ | assumption | refine ite_keeps ?_ ?_ | refine ite_keeps_pair ?_ ?_ | refine (State.put_keeps ..).trans ?_ | split | dsimp only
theorem State.probe_keeps (s : State) (k : Park) : (State.probe s k).From s := by
  unfold State.probe
  repeat' with_reducible first | exact State.From.refl _ | assumption | refine ite_keeps ?_ ?_ | refine cond_keeps _ _ _ (fun s => ?_) ?_ | refine getD_keeps (fun t h => ?_) ?_ | refine (State.bumpSat_keeps ..).trans ?_ | refine (State.syn_keeps ..).trans ?_ | refine (State.admitSlot_keeps ..).trans ?_ | split | dsimp only
theorem State.unpark_keeps (s : State) (x : Nat) (tag : Nat) : (State.unpark s x tag).From s := by
  unfold State.unpark
  repeat' with_reducible first | exact State.From.refl _ | assumption | refine ite_keeps ?_ ?_ | refine (State.syn_keeps ..).trans ?_
theorem State.barPut_keeps (s : State) (n : Nat) (f : Fld) (v : Nat) : (State.barPut s n f v).From s := by
  unfold State.barPut
  repeat' with_reducible first | exact State.From.refl _ | assumption | refine ite_keeps ?_ ?_ | refine (State.put_keeps ..).trans ?_
theorem State.answerWaiters_keeps (s : State) (n : Nat) (m : SwMsg) : (State.answerWaiters s n m).From s := by
  unfold State.answerWaiters
  repeat' with_reducible first | exact State.From.refl _ | assumption | refine ite_keeps ?_ ?_ | refine each_keeps _ _ _ (fun s x => ?_) ?_ | refine (State.syn_keeps ..).trans ?_ | refine (State.sw_keeps ..).trans ?_ | refine (State.barPut_keeps ..).trans ?_
theorem State.phaseDone_keeps (s : State) (n : Nat) : (State.phaseDone s n).From s := by
  unfold State.phaseDone
  repeat' with_reducible first | exact State.From.refl _ | assumption | refine ite_keeps ?_ ?_ | refine (State.bump_keeps ..).trans ?_ | refine (State.barPut_keeps ..).trans ?_ | refine (State.answerWaiters_keeps ..).trans ?_ | split | dsimp only
theorem State.devArrive_keeps (s : State) (n : Nat) (dev : Nat) (phase : Nat) : (State.devArrive s n dev phase).2.From s := by
  unfold State.devArrive
  repeat' with_reducible first | exact State.From.refl _ | assumption | refine ite_keeps ?_ ?_ | refine ite_keeps_pair ?_ ?_ | refine each_keeps _ _ _ (fun s x => ?_) ?_ | refine (State.bumpSat_keeps ..).trans ?_ | refine (State.sendCtrl_keeps ..).trans ?_ | refine (State.syn_keeps ..).trans ?_ | refine (State.barPut_keeps ..).trans ?_ | split | dsimp only
theorem State.domRelease_keeps (s : State) (n : Nat) : (State.domRelease s n).From s := by
  unfold State.domRelease
  repeat' with_reducible first | exact State.From.refl _ | assumption | refine ite_keeps ?_ ?_ | refine (State.syn_keeps ..).trans ?_ | refine (State.phaseDone_keeps ..).trans ?_
theorem State.barRound_keeps (s : State) (n : Nat) : (State.barRound s n).2.From s := by
  unfold State.barRound
  repeat' with_reducible first | exact State.From.refl _ | assumption | refine (pair_keeps (State.devArrive_keeps ..) (by assumption)).trans ?_ | refine ite_keeps ?_ ?_ | refine ite_keeps_pair ?_ ?_ | refine cond_keeps _ _ _ (fun s => ?_) ?_ | refine (State.sendCtrl_keeps ..).trans ?_ | refine (State.syn_keeps ..).trans ?_ | refine (State.barPut_keeps ..).trans ?_ | refine (State.phaseDone_keeps ..).trans ?_ | refine (State.devArrive_keeps ..).trans ?_ | refine (State.domRelease_keeps ..).trans ?_ | split | dsimp only
theorem State.barRun_keeps (s : State) (n : Nat) (fuel_ : Nat) : ((State.barRun s n) fuel_).From s := by
  induction fuel_ generalizing s with
  | zero => exact State.From.refl _
  | succ fuel_ ih =>
    unfold State.barRun
    repeat' with_reducible first | exact State.From.refl _ | assumption | refine (pair_keeps (State.barRound_keeps ..) (by assumption)).trans ?_ | refine ite_keeps ?_ ?_ | refine (ih ..).trans ?_ | refine (State.barRound_keeps ..).trans ?_ | split | dsimp only
theorem State.arrive_keeps (s : State) (n : Nat) (k : Nat) : (State.arrive s n k).From s := by
  unfold State.arrive
  repeat' with_reducible first | exact State.From.refl _ | assumption | refine ite_keeps ?_ ?_ | refine (State.barPut_keeps ..).trans ?_ | refine (State.barRun_keeps ..).trans ?_
theorem State.barAbort_keeps (s : State) (n : Nat) : (State.barAbort s n).From s := by
  unfold State.barAbort
  repeat' with_reducible first | exact State.From.refl _ | assumption | refine ite_keeps ?_ ?_ | refine (State.syn_keeps ..).trans ?_ | refine (State.barPut_keeps ..).trans ?_ | refine (State.answerWaiters_keeps ..).trans ?_ | split | dsimp only
theorem State.barReset_keeps (s : State) (n : Nat) : (State.barReset s n).From s := by
  unfold State.barReset
  repeat' with_reducible first | exact State.From.refl _ | assumption | refine ite_keeps ?_ ?_ | refine each_keeps _ _ _ (fun s x => ?_) ?_ | refine (State.sendCtrl_keeps ..).trans ?_ | refine (State.syn_keeps ..).trans ?_ | refine (State.barAbort_keeps ..).trans ?_
theorem State.dropEngine_keeps (s : State) (x : Nat) : (State.dropEngine s x).From s := by
  unfold State.dropEngine
  repeat' with_reducible first | exact State.From.refl _ | assumption | refine ite_keeps ?_ ?_ | refine each_keeps _ _ _ (fun s x => ?_) ?_ | refine (State.put_keeps ..).trans ?_ | refine (State.port_keeps ..).trans ?_ | refine (State.syn_keeps ..).trans ?_ | refine (State.freeWatch_keeps ..).trans ?_

end Sys2Proof.Machine
end

