-- ==== Sys2Proof/Laws/KeepMvBase.lean ====
section
/-! SUPPORT. What no operation of Machine/MvBase.lean changes: the configuration, the queue of waiting commands, the canonical form of memory. -/
namespace Sys2Proof.Machine

theorem State.chan_keeps (s : State) (c : Nat) (f : MvChan → MvChan) : (State.chan s c f).From s := by
  unfold State.chan
  repeat' with_reducible first | exact State.From.refl _ | assumption | refine ite_keeps ?_ ?_ | refine (State.upd_chans_keeps ..).trans ?_
theorem State.record_keeps (s : State) (c : Nat) (words : List Nat) (irq : Bool) (head : Bool) : (State.record s c words irq head).From s := by
  unfold State.record
  repeat' with_reducible first | exact State.From.refl _ | assumption | refine ite_keeps ?_ ?_ | refine cond_keeps _ _ _ (fun s => ?_) ?_ | refine (State.irq_keeps ..).trans ?_ | refine (State.chan_keeps ..).trans ?_ | split | dsimp only
theorem State.postRecord_keeps (s : State) (c : Nat) (flagBits : Nat) (status : Nat) (nak : Nat) (ptag : Nat) (left : Nat) : (State.postRecord s c flagBits status nak ptag left).From s := by
  unfold State.postRecord
  repeat' with_reducible first | exact State.From.refl _ | assumption | refine ite_keeps ?_ ?_ | refine (State.record_keeps ..).trans ?_ | split | dsimp only
theorem State.scrubLost_keeps (s : State) (acc : Nat) : (State.scrubLost s acc).From s := by
  unfold State.scrubLost
  repeat' with_reducible first | exact State.From.refl _ | assumption | refine ite_keeps ?_ ?_ | split | refine (State.upd_integ_keeps ..).trans ?_ | dsimp only
theorem State.dropChain_keeps (s : State) (c : Nat) (h : Chain) (flagBits : Nat) (status : Nat) (nak : Nat) (left : Nat) : (State.dropChain s c h flagBits status nak left).From s := by
  unfold State.dropChain
  repeat' with_reducible first | exact State.From.refl _ | assumption | refine ite_keeps ?_ ?_ | refine (State.chan_keeps ..).trans ?_ | refine (State.postRecord_keeps ..).trans ?_ | refine (State.scrubLost_keeps ..).trans ?_ | split | dsimp only
theorem State.drainChan_keeps (s : State) (c : Nat) : (State.drainChan s c).From s := by
  unfold State.drainChan
  repeat' with_reducible first | exact State.From.refl _ | assumption | refine ite_keeps ?_ ?_ | refine each_keeps _ _ _ (fun s x => ?_) ?_ | refine (State.dropChain_keeps ..).trans ?_ | split | dsimp only

end Sys2Proof.Machine
end

