-- ==== Sys2Proof/Laws/KeepPortOps.lean ====
section
/-! SUPPORT. What no operation of Machine/PortOps.lean changes: the configuration, the queue of waiting commands, the canonical form of memory. -/
namespace Sys2Proof.Machine

theorem State.txn_keeps (s : State) (x : Nat) (tag : Nat) (f : Txn → Txn) : (State.txn s x tag f).From s := by
  unfold State.txn
  repeat' with_reducible first | exact State.From.refl _ | assumption | refine ite_keeps ?_ ?_ | refine (State.port_keeps ..).trans ?_ | split | dsimp only
theorem State.answerLine_keeps (s : State) (x : Nat) (tag : Nat) (line : Nat) (status : Nat) (pmask : Nat) (data : Option (Nat × Nat)) : (State.answerLine s x tag line status pmask data).From s := by
  unfold State.answerLine
  repeat' with_reducible first | exact State.From.refl _ | assumption | refine ite_keeps ?_ ?_ | refine (State.port_keeps ..).trans ?_ | refine (State.energy_keeps ..).trans ?_ | refine (State.countStatus_keeps ..).trans ?_ | refine (State.txn_keeps ..).trans ?_ | split | dsimp only
theorem State.reject_keeps (s : State) (source : Nat) (h : Nat) (gen : Nat) (st : Nat) : (State.reject s source h gen st).From s := by
  unfold State.reject
  repeat' with_reducible first | exact State.From.refl _ | assumption | refine ite_keeps ?_ ?_ | refine (State.wr_keeps ..).trans ?_ | refine (State.bumpSat_keeps ..).trans ?_ | split | dsimp only
theorem State.answerReq_keeps (s : State) (x : Nat) (tag : Nat) (status : Nat) : (State.answerReq s x tag status).From s := by
  unfold State.answerReq
  repeat' with_reducible first | exact State.From.refl _ | assumption | refine ite_keeps ?_ ?_ | refine (State.port_keeps ..).trans ?_ | refine (State.countStatus_keeps ..).trans ?_ | refine (State.syn_keeps ..).trans ?_ | refine (State.txn_keeps ..).trans ?_ | split | dsimp only
theorem State.lensCount_keeps (s : State) (x : Nat) (sat : Nat) (nan : Nat) : (State.lensCount s x sat nan).From s := by
  unfold State.lensCount
  repeat' with_reducible first | exact State.From.refl _ | assumption | refine ite_keeps ?_ ?_ | refine (State.bumpSat_keeps ..).trans ?_
theorem State.dropScales_keeps (s : State) (h : Nat) : (State.dropScales s h).From s := by
  unfold State.dropScales
  repeat' with_reducible first | exact State.From.refl _ | assumption | refine ite_keeps ?_ ?_ | refine (State.upd_ports_keeps ..).trans ?_ | (unfold State.From; exact ⟨rfl, rfl, id⟩) | split | dsimp only
theorem State.noCopies_keeps (s : State) (x : Nat) (tag : Nat) : (State.noCopies s x tag).From s := by
  unfold State.noCopies
  repeat' with_reducible first | exact State.From.refl _ | assumption | refine ite_keeps ?_ ?_ | refine (State.txn_keeps ..).trans ?_ | split | dsimp only
theorem State.copyLine_keeps (s : State) (b : BackLine) (recv : List Nat) : (State.copyLine s b recv).From s := by
  unfold State.copyLine
  repeat' with_reducible first | exact State.From.refl _ | assumption | refine ite_keeps ?_ ?_ | refine each_keeps _ _ _ (fun s x => ?_) ?_ | refine (State.bumpSat_keeps ..).trans ?_ | refine (State.port_keeps ..).trans ?_ | refine (State.txn_keeps ..).trans ?_ | split | dsimp only
theorem State.landed_keeps (s : State) (f : Access → Bool) : (State.landed s f).From s := by
  unfold State.landed
  repeat' with_reducible first | exact State.From.refl _ | assumption | refine ite_keeps ?_ ?_ | refine (State.setFlight_keeps ..).trans ?_ | split | dsimp only
theorem State.sqFree_keeps (s : State) (x : Nat) : (State.sqFree s x).From s := by
  unfold State.sqFree
  repeat' with_reducible first | exact State.From.refl _ | assumption | refine ite_keeps ?_ ?_ | refine (State.port_keeps ..).trans ?_
theorem State.sqEffect_keeps (s : State) (x : Nat) (w : SqWord) : (State.sqEffect s x w).From s := by
  unfold State.sqEffect
  repeat' with_reducible first | exact State.From.refl _ | assumption | refine ite_keeps ?_ ?_ | refine cond_keeps _ _ _ (fun s => ?_) ?_ | refine (State.wr_keeps ..).trans ?_ | refine (State.put_keeps ..).trans ?_ | refine (State.syn_keeps ..).trans ?_ | refine (State.sw_keeps ..).trans ?_ | refine (State.freeWatch_keeps ..).trans ?_ | refine (State.watchTriggers_keeps ..).trans ?_ | refine (State.tryWatch_keeps ..).trans ?_ | refine (State.ctrOp_keeps ..).trans ?_ | refine (State.arrive_keeps ..).trans ?_ | refine (State.sqFree_keeps ..).trans ?_ | split | dsimp only
theorem State.sqRun_keeps (s : State) (x : Nat) (h : SqHeld) : (State.sqRun s x h).From s := by
  unfold State.sqRun
  repeat' with_reducible first | exact State.From.refl _ | assumption | refine ite_keeps ?_ ?_ | refine cond_keeps _ _ _ (fun s => ?_) ?_ | refine (State.mark_keeps ..).trans ?_ | refine (State.sw_keeps ..).trans ?_ | refine (State.landed_keeps ..).trans ?_ | refine (State.sqEffect_keeps ..).trans ?_ | split | dsimp only
theorem State.sqDrain_keeps (s : State) (x : Nat) (n : Nat) : ((State.sqDrain s x) n).From s := by
  induction n generalizing s with
  | zero => exact State.From.refl _
  | succ n ih =>
    unfold State.sqDrain
    repeat' with_reducible first | exact State.From.refl _ | assumption | refine ite_keeps ?_ ?_ | refine (ih ..).trans ?_ | refine (State.port_keeps ..).trans ?_ | refine (State.sqRun_keeps ..).trans ?_ | split | dsimp only
theorem State.sqStop_keeps (s : State) (x : Nat) (err : Nat) : (State.sqStop s x err).From s := by
  unfold State.sqStop
  repeat' with_reducible first | exact State.From.refl _ | assumption | refine ite_keeps ?_ ?_ | refine each_keeps _ _ _ (fun s x => ?_) ?_ | refine (State.port_keeps ..).trans ?_ | refine (State.sw_keeps ..).trans ?_ | split | dsimp only

end Sys2Proof.Machine
end

