-- ==== Sys2Proof/Laws/KeepCacheOps.lean ====
section
/-! SUPPORT. What no operation of Machine/CacheOps.lean changes: the configuration, the queue of waiting commands, the canonical form of memory. -/
namespace Sys2Proof.Machine

theorem State.cach_keeps (s : State) (f : CacheSt → CacheSt) : (State.cach s f).From s := by
  unfold State.cach
  repeat' with_reducible first | exact State.From.refl _ | assumption | refine ite_keeps ?_ ?_ | refine (State.upd_cache_keeps ..).trans ?_
theorem State.setLine_keeps (s : State) (key : Nat) (l : Option CLine) : (State.setLine s key l).From s := by
  unfold State.setLine
  repeat' with_reducible first | exact State.From.refl _ | assumption | refine ite_keeps ?_ ?_ | refine (State.cach_keeps ..).trans ?_ | split | dsimp only
theorem State.useSlot_keeps (s : State) (key : Nat) : (State.useSlot s key).From s := by
  unfold State.useSlot
  repeat' with_reducible first | exact State.From.refl _ | assumption | refine ite_keeps ?_ ?_ | refine (State.cach_keeps ..).trans ?_
theorem State.mpIssue_keeps (s : State) (src : MpSrc) (write : Bool) (addr : Nat) (n : Nat) (data : Nat) (qos : Nat) : (State.mpIssue s src write addr n data qos).From s := by
  unfold State.mpIssue
  repeat' with_reducible first | exact State.From.refl _ | assumption | refine ite_keeps ?_ ?_ | refine (State.upd_mpCtr_keeps ..).trans ?_ | refine (State.upd_mport_keeps ..).trans ?_ | (unfold State.From; exact ⟨rfl, rfl, id⟩) | split | dsimp only
theorem State.loseLine_keeps (s : State) (key : Nat) (l : CLine) : (State.loseLine s key l).From s := by
  unfold State.loseLine
  repeat' with_reducible first | exact State.From.refl _ | assumption | refine ite_keeps ?_ ?_ | refine (State.bumpSat_keeps ..).trans ?_ | refine (State.put64_keeps ..).trans ?_ | refine (State.setLine_keeps ..).trans ?_
theorem State.addLineJob_keeps (s : State) (line : Nat) (op : CacheOp) (tid : Nat) (b : Nat) (n : Nat) (wr : Bool) (data : Nat) : (State.addLineJob s line op tid b n wr data).From s := by
  unfold State.addLineJob
  repeat' with_reducible first | exact State.From.refl _ | assumption | refine ite_keeps ?_ ?_ | refine (State.cach_keeps ..).trans ?_ | split | dsimp only
theorem State.lineJob_keeps (s : State) (id : Nat) (f : CacheJob → CacheJob) : (State.lineJob s id f).From s := by
  unfold State.lineJob
  repeat' with_reducible first | exact State.From.refl _ | assumption | refine ite_keeps ?_ ?_ | refine (State.cach_keeps ..).trans ?_ | split | dsimp only
theorem State.lineDone_keeps (s : State) (id : Nat) : (State.lineDone s id).From s := by
  unfold State.lineDone
  repeat' with_reducible first | exact State.From.refl _ | assumption | refine ite_keeps ?_ ?_ | refine (State.cach_keeps ..).trans ?_ | split | dsimp only
theorem State.tellLine_keeps (s : State) (j : CacheJob) (st : Nat) (pm : Nat) (data : Nat) : (State.tellLine s j st pm data).From s := by
  unfold State.tellLine
  repeat' with_reducible first | exact State.From.refl _ | assumption | refine ite_keeps ?_ ?_ | refine (State.wr_keeps ..).trans ?_ | refine (State.hubf_keeps ..).trans ?_ | refine (State.answerLine_keeps ..).trans ?_ | split | dsimp only
theorem State.payLine_keeps (s : State) (j : CacheJob) : (State.payLine s j).From s := by
  unfold State.payLine
  repeat' with_reducible first | exact State.From.refl _ | assumption | refine ite_keeps ?_ ?_ | refine cond_keeps _ _ _ (fun s => ?_) ?_ | refine (State.wr_keeps ..).trans ?_ | refine (State.charge_keeps ..).trans ?_ | refine (State.lineJob_keeps ..).trans ?_ | split | dsimp only
theorem State.lineMiss_keeps (s : State) (j : CacheJob) : (State.lineMiss s j).From s := by
  unfold State.lineMiss
  repeat' with_reducible first | exact State.From.refl _ | assumption | refine ite_keeps ?_ ?_ | refine (State.bump_keeps ..).trans ?_ | refine (State.mpIssue_keeps ..).trans ?_ | refine (State.lineJob_keeps ..).trans ?_ | refine (State.payLine_keeps ..).trans ?_ | split | dsimp only
theorem State.lineStart_keeps (s : State) (j : CacheJob) : (State.lineStart s j).From s := by
  unfold State.lineStart
  repeat' with_reducible first | exact State.From.refl _ | assumption | refine ite_keeps ?_ ?_ | refine (State.bump_keeps ..).trans ?_ | refine (State.setLine_keeps ..).trans ?_ | refine (State.useSlot_keeps ..).trans ?_ | refine (State.lineJob_keeps ..).trans ?_ | refine (State.lineDone_keeps ..).trans ?_ | refine (State.lineMiss_keeps ..).trans ?_ | split | dsimp only
theorem State.linePlace_keeps (s : State) (j : CacheJob) : ∀ t, (State.linePlace s j) = some t → t.From s := by
  unfold State.linePlace
  intro t h
  repeat' with_reducible first | cases h | split at h | dsimp only at h
  all_goals  repeat' with_reducible first | exact State.From.refl _ | assumption | refine ite_keeps ?_ ?_ | refine (State.setLine_keeps ..).trans ?_ | refine (State.addLineJob_keeps ..).trans ?_ | refine (State.lineJob_keeps ..).trans ?_ | refine (State.lineDone_keeps ..).trans ?_ | split | dsimp only
theorem State.lineSend_keeps (s : State) (j : CacheJob) : ∀ t, (State.lineSend s j) = some t → t.From s := by
  unfold State.lineSend
  intro t h
  repeat' with_reducible first | cases h | split at h | dsimp only at h
  all_goals  repeat' with_reducible first | exact State.From.refl _ | assumption | refine (pair_keeps (State.sendAccess_keeps ..) (by assumption)).trans ?_ | refine ite_keeps ?_ ?_ | refine (State.bump_keeps ..).trans ?_ | refine (State.sendAccess_keeps ..).trans ?_ | refine (State.lineJob_keeps ..).trans ?_ | split | dsimp only
theorem State.cacheHeld_keeps (s : State) : (State.cacheHeld s).From s := by
  unfold State.cacheHeld
  repeat' with_reducible first | exact State.From.refl _ | assumption | refine ite_keeps ?_ ?_ | refine (State.upd_shareHeld_keeps ..).trans ?_ | (unfold State.From; exact ⟨rfl, rfl, id⟩) | split | dsimp only
theorem State.lineIssue_keeps (s : State) (j : CacheJob) : (State.lineIssue s j).From s := by
  unfold State.lineIssue
  repeat' with_reducible first | exact State.From.refl _ | assumption | refine ite_keeps ?_ ?_ | refine (State.wr_keeps ..).trans ?_ | refine (State.energy_keeps ..).trans ?_ | refine (State.mpIssue_keeps ..).trans ?_ | refine (State.lineJob_keeps ..).trans ?_ | split | dsimp only
theorem lineStep_keeps (s : State) (j : CacheJob) : ∀ t, (lineStep s j) = some t → t.From s := by
  unfold lineStep
  intro t h
  repeat' with_reducible first | cases h | split at h | dsimp only at h
  all_goals  repeat' with_reducible first | exact State.From.refl _ | assumption | refine ite_keeps ?_ ?_ | refine (State.lineMiss_keeps ..).trans ?_ | refine (State.lineStart_keeps ..).trans ?_ | refine (State.linePlace_keeps ..).trans ?_ | refine (State.lineSend_keeps ..).trans ?_ | refine (State.lineIssue_keeps ..).trans ?_ | exact State.linePlace_keeps _ _ _  (by assumption) | refine (State.linePlace_keeps _ _ _  (by assumption)).trans ?_ | exact State.lineSend_keeps _ _ _  (by assumption) | refine (State.lineSend_keeps _ _ _  (by assumption)).trans ?_ | split | dsimp only
theorem State.lineRun_keeps (s : State) (n : Nat) : ((State.lineRun s) n).From s := by
  induction n generalizing s with
  | zero => exact State.From.refl _
  | succ n ih =>
    unfold State.lineRun
    split
    · exact State.From.refl _
    · next heq =>
      obtain ⟨j, _, he⟩ := List.exists_of_findSome?_eq_some heq
      exact (ih ..).trans (lineStep_keeps _ _ _ he)
theorem State.cacheRun_keeps (s : State) : (State.cacheRun s).From s := by
  unfold State.cacheRun
  repeat' with_reducible first | exact State.From.refl _ | assumption | refine ite_keeps ?_ ?_ | refine cond_keeps _ _ _ (fun s => ?_) ?_ | refine (State.cacheHeld_keeps ..).trans ?_ | refine (State.lineRun_keeps ..).trans ?_ | split | dsimp only
theorem State.linePoison_keeps (s : State) (j : CacheJob) (a : Access) : (State.linePoison s j a).From s := by
  unfold State.linePoison
  repeat' with_reducible first | exact State.From.refl _ | assumption | refine ite_keeps ?_ ?_ | refine getD_keeps (fun t h => ?_) ?_ | refine (State.poison_keeps ..).trans ?_ | split | dsimp only
theorem State.hitBack_keeps (s : State) (j : CacheJob) (a : Access) : (State.hitBack s j a).From s := by
  unfold State.hitBack
  repeat' with_reducible first | exact State.From.refl _ | assumption | refine ite_keeps ?_ ?_ | refine cond_keeps _ _ _ (fun s => ?_) ?_ | refine (State.wr_keeps ..).trans ?_ | refine (State.setLine_keeps ..).trans ?_ | refine (State.lineJob_keeps ..).trans ?_ | refine (State.lineDone_keeps ..).trans ?_ | refine (State.tellLine_keeps ..).trans ?_ | split | dsimp only
theorem State.hitFailed_keeps (s : State) (j : CacheJob) (a : Access) (l : CLine) : (State.hitFailed s j a l).From s := by
  unfold State.hitFailed
  repeat' with_reducible first | exact State.From.refl _ | assumption | refine ite_keeps ?_ ?_ | refine (State.wr_keeps ..).trans ?_ | refine (State.setLine_keeps ..).trans ?_ | refine (State.loseLine_keeps ..).trans ?_ | refine (State.lineJob_keeps ..).trans ?_ | refine (State.lineDone_keeps ..).trans ?_ | refine (State.tellLine_keeps ..).trans ?_ | refine (State.lineMiss_keeps ..).trans ?_ | refine (State.linePoison_keeps ..).trans ?_ | split | dsimp only
theorem State.lineAccBack_keeps (s : State) (id : Nat) (a : Access) : (State.lineAccBack s id a).From s := by
  unfold State.lineAccBack
  repeat' with_reducible first | exact State.From.refl _ | assumption | refine ite_keeps ?_ ?_ | refine cond_keeps _ _ _ (fun s => ?_) ?_ | refine (State.wr_keeps ..).trans ?_ | refine (State.setLine_keeps ..).trans ?_ | refine (State.useSlot_keeps ..).trans ?_ | refine (State.loseLine_keeps ..).trans ?_ | refine (State.lineJob_keeps ..).trans ?_ | refine (State.lineDone_keeps ..).trans ?_ | refine (State.tellLine_keeps ..).trans ?_ | refine (State.lineMiss_keeps ..).trans ?_ | refine (State.hitBack_keeps ..).trans ?_ | refine (State.hitFailed_keeps ..).trans ?_ | split | dsimp only
theorem State.lineArrives_keeps (s : State) (j : CacheJob) (data : Nat) : (State.lineArrives s j data).From s := by
  unfold State.lineArrives
  repeat' with_reducible first | exact State.From.refl _ | assumption | refine ite_keeps ?_ ?_ | refine cond_keeps _ _ _ (fun s => ?_) ?_ | refine (State.wr_keeps ..).trans ?_ | refine (State.energy_keeps ..).trans ?_ | refine (State.lineJob_keeps ..).trans ?_ | refine (State.tellLine_keeps ..).trans ?_ | split | dsimp only
theorem State.lineLanded_keeps (s : State) (j : CacheJob) (err : Bool) (data : Nat) : (State.lineLanded s j err data).From s := by
  unfold State.lineLanded
  repeat' with_reducible first | exact State.From.refl _ | assumption | refine ite_keeps ?_ ?_ | refine (State.bump_keeps ..).trans ?_ | refine (State.bumpSat_keeps ..).trans ?_ | refine (State.setLine_keeps ..).trans ?_ | refine (State.lineDone_keeps ..).trans ?_ | refine (State.tellLine_keeps ..).trans ?_ | split | dsimp only
theorem State.extTake_keeps (s : State) (x : Nat) (tag : Nat) : (State.extTake s x tag).2.From s := by
  unfold State.extTake
  repeat' with_reducible first | exact State.From.refl _ | assumption | refine ite_keeps ?_ ?_ | refine ite_keeps_pair ?_ ?_ | refine (State.answerLine_keeps ..).trans ?_ | refine (State.addLineJob_keeps ..).trans ?_ | refine (State.cacheRun_keeps ..).trans ?_ | split | dsimp only
theorem State.copAsk_keeps (s : State) (line : Nat) (op : Nat) : (State.copAsk s line op).From s := by
  unfold State.copAsk
  repeat' with_reducible first | exact State.From.refl _ | assumption | refine ite_keeps ?_ ?_ | refine (State.addLineJob_keeps ..).trans ?_ | split | dsimp only
theorem State.parkCache_keeps (s : State) : (State.parkCache s).From s := by
  unfold State.parkCache
  repeat' with_reducible first | exact State.From.refl _ | assumption | refine ite_keeps ?_ ?_ | refine each_keeps _ _ _ (fun s x => ?_) ?_ | refine (State.cach_keeps ..).trans ?_ | refine (State.tellLine_keeps ..).trans ?_ | split | dsimp only

end Sys2Proof.Machine
end

