-- ==== Sys2Proof/Laws/KeepRaOps.lean ====
section
/-! SUPPORT. What no operation of Machine/RaOps.lean changes: the configuration, the queue of waiting commands, the canonical form of memory. -/
namespace Sys2Proof.Machine

theorem State.setRaq_keeps (s : State) (q : Nat) (f : RaQueue → RaQueue) : (State.setRaq s q f).From s := by
  unfold State.setRaq
  repeat' with_reducible first | exact State.From.refl _ | assumption | refine ite_keeps ?_ ?_ | refine (State.upd_raq_keeps ..).trans ?_
theorem State.headRec_keeps (s : State) (q : Nat) (f : RaRec → RaRec) : (State.headRec s q f).From s := by
  unfold State.headRec
  repeat' with_reducible first | exact State.From.refl _ | assumption | refine ite_keeps ?_ ?_ | refine (State.setRaq_keeps ..).trans ?_ | split | dsimp only
theorem State.completeRec_keeps (s : State) (q : Nat) (r : RaRec) : (State.completeRec s q r).From s := by
  unfold State.completeRec
  repeat' with_reducible first | exact State.From.refl _ | assumption | refine ite_keeps ?_ ?_ | refine cond_keeps _ _ _ (fun s => ?_) ?_ | refine (State.bump_keeps ..).trans ?_ | refine (State.irq_keeps ..).trans ?_ | refine (State.ctrOp_keeps ..).trans ?_ | refine (State.setRaq_keeps ..).trans ?_
theorem State.flushDisabled_keeps (s : State) (q : Nat) (n : Nat) : ((State.flushDisabled s q) n).From s := by
  induction n generalizing s with
  | zero => exact State.From.refl _
  | succ n ih =>
    unfold State.flushDisabled
    repeat' with_reducible first | exact State.From.refl _ | assumption | refine ite_keeps ?_ ?_ | refine (ih ..).trans ?_ | refine (State.setRaq_keeps ..).trans ?_ | refine (State.completeRec_keeps ..).trans ?_ | split | dsimp only
theorem State.popCpl_keeps (s : State) (q : Nat) : (State.popCpl s q).From s := by
  unfold State.popCpl
  repeat' with_reducible first | exact State.From.refl _ | assumption | refine ite_keeps ?_ ?_ | refine getD_keeps (fun t h => ?_) ?_ | refine (State.put_keeps ..).trans ?_ | refine (State.setRaq_keeps ..).trans ?_ | refine (State.flushDisabled_keeps ..).trans ?_ | split | dsimp only
theorem State.pushRec_keeps (s : State) (q : Nat) (words : List Nat) (chan : Option Nat) : (State.pushRec s q words chan).2.From s := by
  unfold State.pushRec
  repeat' with_reducible first | exact State.From.refl _ | assumption | refine ite_keeps ?_ ?_ | refine ite_keeps_pair ?_ ?_ | refine (State.put_keeps ..).trans ?_ | refine (State.irq_keeps ..).trans ?_ | refine (State.chan_keeps ..).trans ?_ | refine (State.setRaq_keeps ..).trans ?_ | refine (State.flushDisabled_keeps ..).trans ?_ | split | dsimp only
theorem State.tryRim_keeps (s : State) (tid : Nat) (layer : Nat) (frame : Nat) (policy : Nat) : (State.tryRim s tid layer frame policy).2.From s := by
  unfold State.tryRim
  repeat' with_reducible first | exact State.From.refl _ | assumption | refine ite_keeps ?_ ?_ | refine ite_keeps_pair ?_ ?_ | refine (State.askWake_keeps ..).trans ?_ | split | dsimp only
theorem State.tryNew_keeps (s : State) (tid : Nat) (layer : Nat) (frame : Nat) (policy : Nat) : (State.tryNew s tid layer frame policy).2.From s := by
  unfold State.tryNew
  repeat' with_reducible first | exact State.From.refl _ | assumption | refine (pair_keeps (State.tryRim_keeps ..) (by assumption)).trans ?_ | refine ite_keeps ?_ ?_ | refine ite_keeps_pair ?_ ?_ | refine (State.tryRim_keeps ..).trans ?_ | split | dsimp only
theorem State.dropClaim_keeps (s : State) (seq : Nat) : (State.dropClaim s seq).From s := by
  unfold State.dropClaim
  repeat' with_reducible first | exact State.From.refl _ | assumption | refine ite_keeps ?_ ?_ | refine (State.hubf_keeps ..).trans ?_ | split | dsimp only
theorem State.askRim_keeps (s : State) (a : Access) : (State.askRim s a).2.From s := by
  unfold State.askRim
  repeat' with_reducible first | exact State.From.refl _ | assumption | refine (pair_keeps (State.tryRim_keeps ..) (by assumption)).trans ?_ | refine ite_keeps ?_ ?_ | refine ite_keeps_pair ?_ ?_ | refine cond_keeps _ _ _ (fun s => ?_) ?_ | refine (State.bump_keeps ..).trans ?_ | refine (State.rim_keeps ..).trans ?_ | refine (rimArb_keeps ..).trans ?_ | refine (State.tryRim_keeps ..).trans ?_ | refine (State.dropClaim_keeps ..).trans ?_ | split | dsimp only
theorem State.tryAcc_keeps (s : State) (a : Access) : (State.tryAcc s a).2.From s := by
  unfold State.tryAcc
  repeat' with_reducible first | exact State.From.refl _ | assumption | refine (pair_keeps (State.askRim_keeps ..) (by assumption)).trans ?_ | refine (pair_keeps (State.tryNew_keeps ..) (by assumption)).trans ?_ | refine ite_keeps ?_ ?_ | refine ite_keeps_pair ?_ ?_ | refine (State.rim_keeps ..).trans ?_ | refine (State.charge_keeps ..).trans ?_ | refine (State.hubf_keeps ..).trans ?_ | refine (State.tryNew_keeps ..).trans ?_ | refine (State.dropClaim_keeps ..).trans ?_ | refine (State.askRim_keeps ..).trans ?_ | split | dsimp only
theorem State.raRead_keeps (s : State) (r : RaRec) (l : LineAt) : (State.raRead s r l).2.2.From s := by
  unfold State.raRead
  repeat' with_reducible first | exact State.From.refl _ | assumption | refine (pair3_keeps (directRead_keeps ..) (by assumption)).trans ?_ | refine ite_keeps ?_ ?_ | refine ite_keeps_pair ?_ ?_ | refine (directRead_keeps ..).trans ?_ | split | dsimp only
theorem State.raWrite_keeps (s : State) (r : RaRec) (l : LineAt) (data : Nat) : (State.raWrite s r l data).From s := by
  unfold State.raWrite
  repeat' with_reducible first | exact State.From.refl _ | assumption | refine (pair_keeps (directWrite_keeps ..) (by assumption)).trans ?_ | refine ite_keeps ?_ ?_ | refine (directWrite_keeps ..).trans ?_ | split | dsimp only
theorem State.failStep_keeps (s : State) (q : Nat) (step : Nat) (st : Nat) : (State.failStep s q step st).From s := by
  unfold State.failStep
  repeat' with_reducible first | exact State.From.refl _ | assumption | refine ite_keeps ?_ ?_ | refine (State.dropClaims_keeps ..).trans ?_ | refine (State.headRec_keeps ..).trans ?_ | split | dsimp only
theorem State.stepsDone_keeps (s : State) (n : Nat) : (State.stepsDone s n).From s := by
  unfold State.stepsDone
  repeat' with_reducible first | exact State.From.refl _ | assumption | refine ite_keeps ?_ ?_ | refine (State.bump_keeps ..).trans ?_
theorem State.clearLine_keeps (s : State) (l : LineAt) : (State.clearLine s l).From s := by
  unfold State.clearLine
  repeat' with_reducible first | exact State.From.refl _ | assumption | refine ite_keeps ?_ ?_ | refine (State.arr_keeps _ _ (fun a h => ?_)).trans ?_ | refine (State.bumpSat_keeps ..).trans ?_ | refine (State.rim_keeps ..).trans ?_
theorem State.stepsOff_keeps (s : State) (q : Nat) (t : Nat) (n : Nat) : (State.stepsOff s q t n).From s := by
  unfold State.stepsOff
  repeat' with_reducible first | exact State.From.refl _ | assumption | refine ite_keeps ?_ ?_ | refine (State.headRec_keeps ..).trans ?_ | split | dsimp only
theorem State.zeroStep_keeps (s : State) (q : Nat) (r : RaRec) (d : LineAt) (t : Nat) : (State.zeroStep s q r d t).From s := by
  unfold State.zeroStep
  repeat' with_reducible first | exact State.From.refl _ | assumption | refine ite_keeps ?_ ?_ | refine (State.rim_keeps ..).trans ?_ | refine (State.clearFrames_keeps ..).trans ?_ | refine (State.energy_keeps ..).trans ?_ | refine (State.settle_keeps ..).trans ?_ | refine (State.stepsDone_keeps ..).trans ?_ | refine (State.clearLine_keeps ..).trans ?_ | refine (State.stepsOff_keeps ..).trans ?_ | split | dsimp only
theorem State.copyStep_keeps (s : State) (q : Nat) (r : RaRec) (a : LineAt) (d : LineAt) (t : Nat) : (State.copyStep s q r a d t).From s := by
  unfold State.copyStep
  repeat' with_reducible first | exact State.From.refl _ | assumption | refine (pair3_keeps (State.raRead_keeps ..) (by assumption)).trans ?_ | refine ite_keeps ?_ ?_ | refine (State.raRead_keeps ..).trans ?_ | refine (State.raWrite_keeps ..).trans ?_ | refine (State.failStep_keeps ..).trans ?_ | refine (State.stepsDone_keeps ..).trans ?_ | refine (State.stepsOff_keeps ..).trans ?_ | split | dsimp only
theorem State.crossStep_keeps (s : State) (q : Nat) (r : RaRec) (a : LineAt) (t : Nat) : (State.crossStep s q r a t).2.From s := by
  unfold State.crossStep
  repeat' with_reducible first | exact State.From.refl _ | assumption | refine (pair_keeps (State.tryNew_keeps ..) (by assumption)).trans ?_ | refine ite_keeps ?_ ?_ | refine ite_keeps_pair ?_ ?_ | refine (State.rim_keeps ..).trans ?_ | refine (State.charge_keeps ..).trans ?_ | refine (State.hubf_keeps ..).trans ?_ | refine (State.setFlight_keeps ..).trans ?_ | refine (State.copyLine_keeps ..).trans ?_ | refine (State.tryNew_keeps ..).trans ?_ | refine (State.failStep_keeps ..).trans ?_ | refine (State.stepsOff_keeps ..).trans ?_ | split | dsimp only
theorem State.crossBack_keeps (s : State) (q : Nat) (t : Nat) (b : Access) : (State.crossBack s q t b).From s := by
  unfold State.crossBack
  repeat' with_reducible first | exact State.From.refl _ | assumption | refine ite_keeps ?_ ?_ | refine (State.rim_keeps ..).trans ?_ | refine (State.leave_keeps ..).trans ?_ | refine (State.enterPool_keeps ..).trans ?_ | refine (State.failStep_keeps ..).trans ?_ | refine (State.stepsDone_keeps ..).trans ?_ | refine (State.stepsOff_keeps ..).trans ?_ | split | dsimp only
theorem State.plainStep_keeps (s : State) (q : Nat) (r : RaRec) (t : Nat) : (State.plainStep s q r t).2.From s := by
  unfold State.plainStep
  repeat' with_reducible first | exact State.From.refl _ | assumption | refine (pair_keeps (State.crossStep_keeps ..) (by assumption)).trans ?_ | refine (pair_keeps (State.tryAcc_keeps ..) (by assumption)).trans ?_ | refine (pair_keeps (State.tryNew_keeps ..) (by assumption)).trans ?_ | refine ite_keeps ?_ ?_ | refine ite_keeps_pair ?_ ?_ | refine (State.tryNew_keeps ..).trans ?_ | refine (State.tryAcc_keeps ..).trans ?_ | refine (State.raWrite_keeps ..).trans ?_ | refine (State.failStep_keeps ..).trans ?_ | refine (State.stepsDone_keeps ..).trans ?_ | refine (State.stepsOff_keeps ..).trans ?_ | refine (State.zeroStep_keeps ..).trans ?_ | refine (State.copyStep_keeps ..).trans ?_ | refine (State.crossStep_keeps ..).trans ?_ | split | dsimp only
theorem State.plainPass_keeps (s : State) (q : Nat) (r : RaRec) (busy : List Nat) (l : List Nat) : ((State.plainPass s q r) busy l).2.From s := by
  induction l generalizing s busy with
  | nil => exact State.From.refl _
  | cons t ts ih =>
    unfold State.plainPass
    repeat' with_reducible first | exact State.From.refl _ | exact ih .. | refine ite_keeps_pair ?_ ?_ | refine (ih ..).trans ?_ | refine (pair_keeps (State.plainStep_keeps ..) (by assumption)).trans ?_ | split | dsimp only
theorem State.sendSteps_keeps (s : State) (q : Nat) : (State.sendSteps s q).From s := by
  unfold State.sendSteps
  repeat' with_reducible first | exact State.From.refl _ | assumption | refine ite_keeps ?_ ?_ | refine (State.headRec_keeps ..).trans ?_ | split | dsimp only
theorem State.plainRun_keeps (s : State) (q : Nat) (n : Nat) : ((State.plainRun s q) n).From s := by
  induction n generalizing s with
  | zero => exact State.From.refl _
  | succ n ih =>
    unfold State.plainRun
    repeat' with_reducible first | exact State.From.refl _ | assumption | refine (ih ..).trans ?_ | refine (pair_keeps (State.plainPass_keeps ..) (by assumption)).trans ?_ | refine ite_keeps ?_ ?_ | refine (State.plainPass_keeps ..).trans ?_ | refine (State.sendSteps_keeps ..).trans ?_ | split | dsimp only
theorem State.runChunk_keeps (s : State) (q : Nat) : (State.runChunk s q).From s := by
  unfold State.runChunk
  repeat' with_reducible first | exact State.From.refl _ | assumption | refine ite_keeps ?_ ?_ | refine (State.plainRun_keeps ..).trans ?_ | refine (State.sendSteps_keeps ..).trans ?_ | split | dsimp only
theorem State.nextChunk_keeps (s : State) (q : Nat) : (State.nextChunk s q).From s := by
  unfold State.nextChunk
  repeat' with_reducible first | exact State.From.refl _ | assumption | refine (pair_keeps (State.askChunk_keeps ..) (by assumption)).trans ?_ | refine ite_keeps ?_ ?_ | refine cond_keeps _ _ _ (fun s => ?_) ?_ | refine (State.bumpSat_keeps ..).trans ?_ | refine (State.askChunk_keeps ..).trans ?_ | refine (State.endChunk_keeps ..).trans ?_ | refine (State.headRec_keeps ..).trans ?_ | split | dsimp only
theorem State.stepEnd_keeps (s : State) (q : Nat) (step : Nat) (st : Nat) (word : Option Nat) : (State.stepEnd s q step st word).From s := by
  unfold State.stepEnd
  repeat' with_reducible first | exact State.From.refl _ | assumption | refine ite_keeps ?_ ?_ | refine cond_keeps _ _ _ (fun s => ?_) ?_ | refine (State.put_keeps ..).trans ?_ | refine (State.headRec_keeps ..).trans ?_ | refine (State.failStep_keeps ..).trans ?_ | refine (State.stepsDone_keeps ..).trans ?_ | refine (State.sendSteps_keeps ..).trans ?_ | split | dsimp only
theorem State.aluFree_keeps (s : State) (layer : Nat) (i : Nat) (q : Nat) : (State.aluFree s layer i q).From s := by
  unfold State.aluFree
  repeat' with_reducible first | exact State.From.refl _ | assumption | refine ite_keeps ?_ ?_ | refine (State.rim_keeps ..).trans ?_ | split | dsimp only
theorem State.stepIssued_keeps (s : State) (q : Nat) (step : Nat) (st : Nat) (word : Option Nat) : (State.stepIssued s q step st word).From s := by
  unfold State.stepIssued
  repeat' with_reducible first | exact State.From.refl _ | assumption | refine ite_keeps ?_ ?_ | refine (State.headRec_keeps ..).trans ?_ | refine (State.stepEnd_keeps ..).trans ?_ | split | dsimp only
theorem State.stepsLand_keeps (s : State) (q : Nat) : (State.stepsLand s q).From s := by
  unfold State.stepsLand
  repeat' with_reducible first | exact State.From.refl _ | assumption | refine ite_keeps ?_ ?_ | refine each_keeps _ _ _ (fun s x => ?_) ?_ | refine (State.headRec_keeps ..).trans ?_ | refine (State.stepEnd_keeps ..).trans ?_ | split | dsimp only
theorem State.storeLost_keeps (s : State) (q : Nat) (step : Nat) (st : Nat) : (State.storeLost s q step st).From s := by
  unfold State.storeLost
  repeat' with_reducible first | exact State.From.refl _ | assumption | refine ite_keeps ?_ ?_ | refine (State.headRec_keeps ..).trans ?_ | refine (State.upd_rims_keeps ..).trans ?_ | (unfold State.From; exact ⟨rfl, rfl, id⟩) | split | dsimp only
theorem State.loseClaims_keeps (s : State) (layer : Nat) (i : Nat) (st : Nat) : (State.loseClaims s layer i st).From s := by
  unfold State.loseClaims
  repeat' with_reducible first | exact State.From.refl _ | assumption | refine ite_keeps ?_ ?_ | refine each_keeps _ _ _ (fun s x => ?_) ?_ | refine (State.rim_keeps ..).trans ?_ | refine (State.setClaim_keeps ..).trans ?_ | refine (State.dropClaim_keeps ..).trans ?_ | refine (State.failStep_keeps ..).trans ?_ | refine (State.stepsLand_keeps ..).trans ?_ | refine (State.storeLost_keeps ..).trans ?_ | split | dsimp only
theorem State.loseStep_keeps (s : State) (layer : Nat) (i : Nat) (st : Nat) : (State.loseStep s layer i st).From s := by
  unfold State.loseStep
  repeat' with_reducible first | exact State.From.refl _ | assumption | refine ite_keeps ?_ ?_ | refine cond_keeps _ _ _ (fun s => ?_) ?_ | refine (State.rim_keeps ..).trans ?_ | refine (State.stepEnd_keeps ..).trans ?_ | refine (State.loseClaims_keeps ..).trans ?_ | split | dsimp only
theorem State.dropSteps_keeps (s : State) (layer : Nat) (i : Nat) : (State.dropSteps s layer i).From s := by
  unfold State.dropSteps
  repeat' with_reducible first | exact State.From.refl _ | assumption | refine ite_keeps ?_ ?_ | refine each_keeps _ _ _ (fun s x => ?_) ?_ | refine (State.stepEnd_keeps ..).trans ?_ | refine (State.loseStep_keeps ..).trans ?_ | split | dsimp only
theorem State.parkRecords_keeps (s : State) : (State.parkRecords s).From s := by
  unfold State.parkRecords
  repeat' with_reducible first | exact State.From.refl _ | assumption | refine ite_keeps ?_ ?_ | refine each_keeps _ _ _ (fun s x => ?_) ?_ | refine (State.hubf_keeps ..).trans ?_ | refine (State.setRaq_keeps ..).trans ?_ | refine (State.upd_rims_keeps ..).trans ?_ | (unfold State.From; exact ⟨rfl, rfl, id⟩) | split | dsimp only

end Sys2Proof.Machine
end

