-- ==== Sys2Proof/Laws/KeepPort.lean ====
section
/-! SUPPORT. What no operation of Machine/Port.lean changes: the configuration, the queue of waiting commands, the canonical form of memory. -/
namespace Sys2Proof.Machine

theorem State.loopServe_keeps (s : State) (x : Nat) (tag : Nat) (hub : Bool) : (State.loopServe s x tag hub).From s := by
  unfold State.loopServe
  repeat' with_reducible first | exact State.From.refl _ | assumption | refine (pair_keeps (State.draw_keeps ..) (by assumption)).trans ?_ | refine ite_keeps ?_ ?_ | refine each_keeps _ _ _ (fun s x => ?_) ?_ | refine (State.draw_keeps ..).trans ?_ | refine (State.port_keeps ..).trans ?_ | refine (State.answerLine_keeps ..).trans ?_ | refine (State.noCopies_keeps ..).trans ?_ | split | dsimp only
theorem takeRequest_keeps (s : State) (x : Nat) (r : Request) : (takeRequest s x r).From s := by
  unfold takeRequest
  repeat' with_reducible first | exact State.From.refl _ | assumption | refine next_keeps ?_ | refine ite_keeps_res ?_ ?_ | refine ite_keeps ?_ ?_ | refine cond_keeps _ _ _ (fun s => ?_) ?_ | refine getD_keeps (fun t h => ?_) ?_ | refine (State.put_keeps ..).trans ?_ | refine (State.bump_keeps ..).trans ?_ | refine (State.port_keeps ..).trans ?_ | refine (State.energy_keeps ..).trans ?_ | refine (State.hubf_keeps ..).trans ?_ | refine (State.reject_keeps ..).trans ?_ | refine (State.answerReq_keeps ..).trans ?_ | refine (State.lensCount_keeps ..).trans ?_ | refine (State.loopServe_keeps ..).trans ?_ | split | dsimp only
theorem request_keeps (op : Nat) (s : State) (x : Nat) (r : Request) : (request op s x r).From s := by
  unfold request
  repeat' with_reducible first | exact State.From.refl _ | assumption | refine next_keeps ?_ | refine ite_keeps_res ?_ ?_ | refine ite_keeps ?_ ?_ | refine (takeRequest_keeps ..).trans ?_ | split | dsimp only
theorem atomicRequest_keeps (aop : Nat) (s : State) (x : Nat) (r : Request) : (atomicRequest aop s x r).From s := by
  unfold atomicRequest
  repeat' with_reducible first | exact State.From.refl _ | assumption | refine next_keeps ?_ | refine ite_keeps_res ?_ ?_ | refine ite_keeps ?_ ?_ | refine (takeRequest_keeps ..).trans ?_ | split | dsimp only
theorem execReadRequest_keeps (x : Nat) (r : Request) (s : State) : (execReadRequest x r s).From s := by
  unfold execReadRequest
  repeat' with_reducible first | exact State.From.refl _ | assumption | refine next_keeps ?_ | refine ite_keeps_res ?_ ?_ | refine ite_keeps ?_ ?_ | refine (request_keeps ..).trans ?_
theorem execWriteRequest_keeps (x : Nat) (r : Request) (s : State) : (execWriteRequest x r s).From s := by
  unfold execWriteRequest
  repeat' with_reducible first | exact State.From.refl _ | assumption | refine next_keeps ?_ | refine ite_keeps_res ?_ ?_ | refine ite_keeps ?_ ?_ | refine (request_keeps ..).trans ?_
theorem execFillRequest_keeps (x : Nat) (r : Request) (s : State) : (execFillRequest x r s).From s := by
  unfold execFillRequest
  repeat' with_reducible first | exact State.From.refl _ | assumption | refine next_keeps ?_ | refine ite_keeps_res ?_ ?_ | refine ite_keeps ?_ ?_ | refine (request_keeps ..).trans ?_
theorem execAccRequest_keeps (x : Nat) (r : Request) (s : State) : (execAccRequest x r s).From s := by
  unfold execAccRequest
  repeat' with_reducible first | exact State.From.refl _ | assumption | refine next_keeps ?_ | refine ite_keeps_res ?_ ?_ | refine ite_keeps ?_ ?_ | refine (request_keeps ..).trans ?_
theorem execSaccRequest_keeps (x : Nat) (r : Request) (s : State) : (execSaccRequest x r s).From s := by
  unfold execSaccRequest
  repeat' with_reducible first | exact State.From.refl _ | assumption | refine next_keeps ?_ | refine ite_keeps_res ?_ ?_ | refine ite_keeps ?_ ?_ | refine (request_keeps ..).trans ?_
theorem execAtomicAdd_keeps (x : Nat) (r : Request) (s : State) : (execAtomicAdd x r s).From s := by
  unfold execAtomicAdd
  repeat' with_reducible first | exact State.From.refl _ | assumption | refine next_keeps ?_ | refine ite_keeps_res ?_ ?_ | refine ite_keeps ?_ ?_ | refine (atomicRequest_keeps ..).trans ?_
theorem execAtomicSmin_keeps (x : Nat) (r : Request) (s : State) : (execAtomicSmin x r s).From s := by
  unfold execAtomicSmin
  repeat' with_reducible first | exact State.From.refl _ | assumption | refine next_keeps ?_ | refine ite_keeps_res ?_ ?_ | refine ite_keeps ?_ ?_ | refine (atomicRequest_keeps ..).trans ?_
theorem execAtomicSmax_keeps (x : Nat) (r : Request) (s : State) : (execAtomicSmax x r s).From s := by
  unfold execAtomicSmax
  repeat' with_reducible first | exact State.From.refl _ | assumption | refine next_keeps ?_ | refine ite_keeps_res ?_ ?_ | refine ite_keeps ?_ ?_ | refine (atomicRequest_keeps ..).trans ?_
theorem execAtomicUmin_keeps (x : Nat) (r : Request) (s : State) : (execAtomicUmin x r s).From s := by
  unfold execAtomicUmin
  repeat' with_reducible first | exact State.From.refl _ | assumption | refine next_keeps ?_ | refine ite_keeps_res ?_ ?_ | refine ite_keeps ?_ ?_ | refine (atomicRequest_keeps ..).trans ?_
theorem execAtomicUmax_keeps (x : Nat) (r : Request) (s : State) : (execAtomicUmax x r s).From s := by
  unfold execAtomicUmax
  repeat' with_reducible first | exact State.From.refl _ | assumption | refine next_keeps ?_ | refine ite_keeps_res ?_ ?_ | refine ite_keeps ?_ ?_ | refine (atomicRequest_keeps ..).trans ?_
theorem execAtomicSwap_keeps (x : Nat) (r : Request) (s : State) : (execAtomicSwap x r s).From s := by
  unfold execAtomicSwap
  repeat' with_reducible first | exact State.From.refl _ | assumption | refine next_keeps ?_ | refine ite_keeps_res ?_ ?_ | refine ite_keeps ?_ ?_ | refine (atomicRequest_keeps ..).trans ?_
theorem execAtomicCas_keeps (x : Nat) (r : Request) (s : State) : (execAtomicCas x r s).From s := by
  unfold execAtomicCas
  repeat' with_reducible first | exact State.From.refl _ | assumption | refine next_keeps ?_ | refine ite_keeps_res ?_ ?_ | refine ite_keeps ?_ ?_ | refine (atomicRequest_keeps ..).trans ?_
theorem execAtomicAnd_keeps (x : Nat) (r : Request) (s : State) : (execAtomicAnd x r s).From s := by
  unfold execAtomicAnd
  repeat' with_reducible first | exact State.From.refl _ | assumption | refine next_keeps ?_ | refine ite_keeps_res ?_ ?_ | refine ite_keeps ?_ ?_ | refine (atomicRequest_keeps ..).trans ?_
theorem execAtomicOr_keeps (x : Nat) (r : Request) (s : State) : (execAtomicOr x r s).From s := by
  unfold execAtomicOr
  repeat' with_reducible first | exact State.From.refl _ | assumption | refine next_keeps ?_ | refine ite_keeps_res ?_ ?_ | refine ite_keeps ?_ ?_ | refine (atomicRequest_keeps ..).trans ?_
theorem execAtomicXor_keeps (x : Nat) (r : Request) (s : State) : (execAtomicXor x r s).From s := by
  unfold execAtomicXor
  repeat' with_reducible first | exact State.From.refl _ | assumption | refine next_keeps ?_ | refine ite_keeps_res ?_ ?_ | refine ite_keeps ?_ ?_ | refine (atomicRequest_keeps ..).trans ?_
theorem State.lookupRows_keeps (s : State) (x : Nat) (tag : Nat) (d : Desc) : (State.lookupRows s x tag d).From s := by
  unfold State.lookupRows
  repeat' with_reducible first | exact State.From.refl _ | assumption | refine ite_keeps ?_ ?_ | refine each_keeps _ _ _ (fun s x => ?_) ?_ | refine (State.bump_keeps ..).trans ?_ | refine (State.port_keeps ..).trans ?_ | refine (State.hubf_keeps ..).trans ?_ | refine (State.txn_keeps ..).trans ?_ | unfold id | split | dsimp only
theorem State.freeRows_keeps (s : State) (x : Nat) (tag : Nat) (d : Desc) : (State.freeRows s x tag d).From s := by
  unfold State.freeRows
  repeat' with_reducible first | exact State.From.refl _ | assumption | refine (pair_keeps (State.draw_keeps ..) (by assumption)).trans ?_ | refine ite_keeps ?_ ?_ | refine each_keeps _ _ _ (fun s x => ?_) ?_ | refine (State.draw_keeps ..).trans ?_ | refine (State.txn_keeps ..).trans ?_ | split | dsimp only
theorem State.urgArrive_keeps (s : State) (x : Nat) (t : Txn) : (State.urgArrive s x t).From s := by
  unfold State.urgArrive
  repeat' with_reducible first | exact State.From.refl _ | assumption | refine ite_keeps ?_ ?_ | refine cond_keeps _ _ _ (fun s => ?_) ?_ | refine each_keeps _ _ _ (fun s x => ?_) ?_ | refine (State.put_keeps ..).trans ?_ | refine (State.bumpSat_keeps ..).trans ?_ | refine (State.irq_keeps ..).trans ?_ | split | dsimp only
theorem execRequestReachesHub_keeps (x : Nat) (s : State) : (execRequestReachesHub x s).From s := by
  unfold execRequestReachesHub
  repeat' with_reducible first | exact State.From.refl _ | assumption | refine next_keeps ?_ | refine ite_keeps_res ?_ ?_ | refine ite_keeps ?_ ?_ | refine cond_keeps _ _ _ (fun s => ?_) ?_ | refine getD_keeps (fun t h => ?_) ?_ | refine (State.port_keeps ..).trans ?_ | refine (State.syn_keeps ..).trans ?_ | refine (State.probe_keeps ..).trans ?_ | refine (State.txn_keeps ..).trans ?_ | refine (State.reject_keeps ..).trans ?_ | refine (State.answerReq_keeps ..).trans ?_ | refine (State.lookupRows_keeps ..).trans ?_ | refine (State.freeRows_keeps ..).trans ?_ | refine (State.urgArrive_keeps ..).trans ?_ | split | dsimp only
theorem State.deliverCopy_keeps (s : State) (x : Nat) (b : BackLine) : (State.deliverCopy s x b).From s := by
  unfold State.deliverCopy
  repeat' with_reducible first | exact State.From.refl _ | assumption | refine ite_keeps ?_ ?_ | refine cond_keeps _ _ _ (fun s => ?_) ?_ | refine getD_keeps (fun t h => ?_) ?_ | refine (State.bump_keeps ..).trans ?_ | refine (State.port_keeps ..).trans ?_ | refine (State.energy_keeps ..).trans ?_ | refine (State.lensCount_keeps ..).trans ?_ | split | dsimp only
theorem State.endTxn_keeps (s : State) (x : Nat) (tag : Nat) : (State.endTxn s x tag).From s := by
  unfold State.endTxn
  repeat' with_reducible first | exact State.From.refl _ | assumption | refine ite_keeps ?_ ?_ | refine (State.drop_keeps ..).trans ?_ | refine (State.port_keeps ..).trans ?_ | unfold id
theorem execResponse_keeps (x : Nat) (s : State) : (execResponse x s).From s := by
  unfold execResponse
  repeat' with_reducible first | exact State.From.refl _ | assumption | refine next_keeps ?_ | refine ite_keeps_res ?_ ?_ | refine ite_keeps ?_ ?_ | refine cond_keeps _ _ _ (fun s => ?_) ?_ | refine foldl_keeps _ _ _ (fun s x => ?_) ?_ | refine foldl_keeps2 _ _ _ (fun s x => ?_) ?_ | refine foldl_keeps3 _ _ _ (fun s x => ?_) ?_ | refine (State.port_keeps ..).trans ?_ | refine (State.deliverCopy_keeps ..).trans ?_ | refine (State.endTxn_keeps ..).trans ?_ | split | dsimp only
theorem execMcHoldExpiry_keeps (x : Nat) (s : State) : (execMcHoldExpiry x s).From s := by
  unfold execMcHoldExpiry
  repeat' with_reducible first | exact State.From.refl _ | assumption | refine next_keeps ?_ | refine ite_keeps_res ?_ ?_ | refine ite_keeps ?_ ?_ | refine (State.bumpSat_keeps ..).trans ?_ | refine (State.port_keeps ..).trans ?_ | refine (State.txn_keeps ..).trans ?_ | split | dsimp only
theorem State.installFetch_keeps (s : State) (x : Nat) (id : Nat) (st : Nat) (row : List Seg) : (State.installFetch s x id st row).From s := by
  unfold State.installFetch
  repeat' with_reducible first | exact State.From.refl _ | assumption | refine ite_keeps ?_ ?_ | refine (State.port_keeps ..).trans ?_ | split | dsimp only
theorem execLensConvert_keeps (x : Nat) (s : State) : (execLensConvert x s).From s := by
  unfold execLensConvert
  repeat' with_reducible first | exact State.From.refl _ | assumption | refine next_keeps ?_ | refine ite_keeps_res ?_ ?_ | refine ite_keeps ?_ ?_ | refine (State.port_keeps ..).trans ?_ | refine (State.energy_keeps ..).trans ?_ | refine (State.latency_keeps ..).trans ?_ | refine (State.answerLine_keeps ..).trans ?_ | refine (State.lensCount_keeps ..).trans ?_ | split | dsimp only
theorem execSflush_keeps (m : Master) (x : Nat) (s : State) : (execSflush m x s).From s := by
  unfold execSflush
  repeat' with_reducible first | exact State.From.refl _ | assumption | refine next_keeps ?_ | refine ite_keeps_res ?_ ?_ | refine ite_keeps ?_ ?_ | refine cond_keeps _ _ _ (fun s => ?_) ?_ | refine (State.gate_keeps _ _ _ _ _ _  (fun  s => ?_)).trans ?_ | refine (State.port_keeps ..).trans ?_
theorem execEngineSflush_keeps (m : Master) (e : Nat) (s : State) : (execEngineSflush m e s).From s := by
  unfold execEngineSflush
  repeat' with_reducible first | exact State.From.refl _ | assumption | refine next_keeps ?_ | refine ite_keeps_res ?_ ?_ | refine ite_keeps ?_ ?_ | refine (State.gate_keeps _ _ _ _ _ _  (fun  s => ?_)).trans ?_ | refine (State.upd_chans_keeps ..).trans ?_ | refine (State.upd_engScale_keeps ..).trans ?_ | (unfold State.From; exact ⟨rfl, rfl, id⟩) | split | dsimp only
theorem State.applyUrg_keeps (s : State) (x : Nat) : (State.applyUrg s x).From s := by
  unfold State.applyUrg
  repeat' with_reducible first | exact State.From.refl _ | assumption | refine ite_keeps ?_ ?_ | refine (State.put_keeps ..).trans ?_
theorem execUrgChange_keeps (x : Nat) (urg : Nat) (s : State) : (execUrgChange x urg s).From s := by
  unfold execUrgChange
  repeat' with_reducible first | exact State.From.refl _ | assumption | refine next_keeps ?_ | refine ite_keeps_res ?_ ?_ | refine ite_keeps ?_ ?_ | refine (State.port_keeps ..).trans ?_ | refine (State.applyUrg_keeps ..).trans ?_ | split | dsimp only
theorem execUrgCapWrite_keeps (m : Master) (x : Nat) (cap : Nat) (s : State) : (execUrgCapWrite m x cap s).From s := by
  unfold execUrgCapWrite
  repeat' with_reducible first | exact State.From.refl _ | assumption | refine next_keeps ?_ | refine ite_keeps_res ?_ ?_ | refine ite_keeps ?_ ?_ | refine cond_keeps _ _ _ (fun s => ?_) ?_ | refine (State.gate_keeps _ _ _ _ _ _  (fun  s => ?_)).trans ?_ | refine (State.put_keeps ..).trans ?_ | refine (State.applyUrg_keeps ..).trans ?_
theorem State.enablePort_keeps (s : State) (x : Nat) : (State.enablePort s x).From s := by
  unfold State.enablePort
  repeat' with_reducible first | exact State.From.refl _ | assumption | refine ite_keeps ?_ ?_ | refine (State.put_keeps ..).trans ?_ | split | dsimp only
theorem State.portDown_keeps (s : State) (x : Nat) : (State.portDown s x).From s := by
  unfold State.portDown
  repeat' with_reducible first | exact State.From.refl _ | assumption | refine ite_keeps ?_ ?_ | refine cond_keeps _ _ _ (fun s => ?_) ?_ | refine (State.put_keeps ..).trans ?_ | refine (State.dropEngine_keeps ..).trans ?_ | refine (State.sqDrain_keeps ..).trans ?_ | refine (State.sqStop_keeps ..).trans ?_ | split | dsimp only
theorem execPortEnable_keeps (m : Master) (x : Nat) (s : State) : (execPortEnable m x s).From s := by
  unfold execPortEnable
  repeat' with_reducible first | exact State.From.refl _ | assumption | refine next_keeps ?_ | refine ite_keeps_res ?_ ?_ | refine ite_keeps ?_ ?_ | refine (State.gate_keeps _ _ _ _ _ _  (fun  s => ?_)).trans ?_ | refine (State.put_keeps ..).trans ?_ | refine (State.port_keeps ..).trans ?_ | refine (State.enablePort_keeps ..).trans ?_ | split | dsimp only
theorem execPortDisable_keeps (m : Master) (x : Nat) (s : State) : (execPortDisable m x s).From s := by
  unfold execPortDisable
  repeat' with_reducible first | exact State.From.refl _ | assumption | refine next_keeps ?_ | refine ite_keeps_res ?_ ?_ | refine ite_keeps ?_ ?_ | refine cond_keeps _ _ _ (fun s => ?_) ?_ | refine (State.put_keeps ..).trans ?_ | refine (State.port_keeps ..).trans ?_ | refine (State.gate_keeps _ _ _ _ _ _  (fun  s => ?_)).trans ?_ | refine (State.drainChan_keeps ..).trans ?_ | split | dsimp only
theorem execPortDrainDone_keeps (x : Nat) (s : State) : (execPortDrainDone x s).From s := by
  unfold execPortDrainDone
  repeat' with_reducible first | exact State.From.refl _ | assumption | refine next_keeps ?_ | refine ite_keeps_res ?_ ?_ | refine ite_keeps ?_ ?_ | refine cond_keeps _ _ _ (fun s => ?_) ?_ | refine (State.port_keeps ..).trans ?_ | refine (State.enablePort_keeps ..).trans ?_ | refine (State.portDown_keeps ..).trans ?_ | split | dsimp only
theorem execLoopWrite_keeps (m : Master) (x : Nat) (depth : Nat) (s : State) : (execLoopWrite m x depth s).From s := by
  unfold execLoopWrite
  repeat' with_reducible first | exact State.From.refl _ | assumption | refine next_keeps ?_ | refine ite_keeps_res ?_ ?_ | refine ite_keeps ?_ ?_ | refine (State.put_keeps ..).trans ?_ | refine (State.refused_keeps ..).trans ?_ | refine (State.gate_keeps _ _ _ _ _ _  (fun  s => ?_)).trans ?_ | split | dsimp only

end Sys2Proof.Machine
end

