-- ==== Sys2Proof/Laws/KeepHub.lean ====
section
/-! SUPPORT. What no operation of Machine/Hub.lean changes: the configuration, the queue of waiting commands, the canonical form of memory. -/
namespace Sys2Proof.Machine

theorem State.refuseLine_keeps (s : State) (x : Nat) (t : Txn) (k : Nat) (st : Nat) (a : Access) : (State.refuseLine s x t k st a).From s := by
  unfold State.refuseLine
  repeat' with_reducible first | exact State.From.refl _ | assumption | refine ite_keeps ?_ ?_ | refine cond_keeps _ _ _ (fun s => ?_) ?_ | refine (State.settleLine_keeps ..).trans ?_ | refine (State.enterRefused_keeps ..).trans ?_ | refine (State.txn_keeps ..).trans ?_ | split | dsimp only
theorem State.splitNext_keeps (s : State) (x : Nat) (t : Txn) (k : Nat) : (State.splitNext s x t k).From s := by
  unfold State.splitNext
  repeat' with_reducible first | exact State.From.refl _ | assumption | refine ite_keeps ?_ ?_ | refine (State.port_keeps ..).trans ?_ | split | dsimp only
theorem State.loopHub_keeps (s : State) (x : Nat) (t : Txn) : (State.loopHub s x t).From s := by
  unfold State.loopHub
  repeat' with_reducible first | exact State.From.refl _ | assumption | refine ite_keeps ?_ ?_ | refine each_keeps _ _ _ (fun s x => ?_) ?_ | refine (State.port_keeps ..).trans ?_ | refine (State.noCopies_keeps ..).trans ?_ | refine (State.loopServe_keeps ..).trans ?_ | split | dsimp only
theorem execSplitRelease_keeps (x : Nat) (s : State) : (execSplitRelease x s).From s := by
  unfold execSplitRelease
  repeat' with_reducible first | exact State.From.refl _ | assumption | refine (pair_keeps (State.extTake_keeps ..) (by assumption)).trans ?_ | refine next_keeps ?_ | refine ite_keeps_res ?_ ?_ | refine ite_keeps ?_ ?_ | refine cond_keeps _ _ _ (fun s => ?_) ?_ | refine getD_keeps (fun t h => ?_) ?_ | refine (State.bump_keeps ..).trans ?_ | refine (State.port_keeps ..).trans ?_ | refine (State.rim_keeps ..).trans ?_ | refine (State.enterPool_keeps ..).trans ?_ | refine (State.enterRefused_keeps ..).trans ?_ | refine (State.cacheRun_keeps ..).trans ?_ | refine (State.extTake_keeps ..).trans ?_ | refine (State.refuseLine_keeps ..).trans ?_ | refine (State.splitNext_keeps ..).trans ?_ | refine (State.loopHub_keeps ..).trans ?_ | split | dsimp only
theorem execUpwardArbitration_keeps (layer : Nat) (sector : Nat) (s : State) : (execUpwardArbitration layer sector s).From s := by
  unfold execUpwardArbitration
  repeat' with_reducible first | exact State.From.refl _ | assumption | refine next_keeps ?_ | refine ite_keeps_res ?_ ?_ | refine ite_keeps ?_ ?_ | refine cond_keeps _ _ _ (fun s => ?_) ?_ | refine each_keeps _ _ _ (fun s x => ?_) ?_ | refine foldl_keeps _ _ _ (fun s x => ?_) ?_ | refine foldl_keeps2 _ _ _ (fun s x => ?_) ?_ | refine foldl_keeps3 _ _ _ (fun s x => ?_) ?_ | refine (State.rim_keeps ..).trans ?_ | refine (State.energy_keeps ..).trans ?_ | refine (State.upd_keeps ..).trans ?_ | refine (State.askWake_keeps ..).trans ?_ | refine (State.failAccess_keeps ..).trans ?_ | refine (State.countDispl_keeps ..).trans ?_ | (unfold State.From; exact ⟨rfl, rfl, id⟩) | split | dsimp only
theorem execRimArbitration_keeps (layer : Nat) (rim : Nat) (s : State) : (execRimArbitration layer rim s).From s := by
  unfold execRimArbitration
  repeat' with_reducible first | exact State.From.refl _ | assumption | refine next_keeps ?_ | refine ite_keeps_res ?_ ?_ | refine ite_keeps ?_ ?_ | refine each_keeps _ _ _ (fun s x => ?_) ?_ | refine (rimArb_keeps ..).trans ?_ | refine (State.stepsLand_keeps ..).trans ?_ | split | dsimp only
theorem execDownwardArbitration_keeps (layer : Nat) (sector : Nat) (s : State) : (execDownwardArbitration layer sector s).From s := by
  unfold execDownwardArbitration
  repeat' with_reducible first | exact State.From.refl _ | assumption | refine next_keeps ?_ | refine ite_keeps_res ?_ ?_ | refine ite_keeps ?_ ?_ | refine each_keeps _ _ _ (fun s x => ?_) ?_ | refine (State.energy_keeps ..).trans ?_ | refine (State.upd_keeps ..).trans ?_ | refine (State.countDispl_keeps ..).trans ?_ | (unfold State.From; exact ⟨rfl, rfl, id⟩) | split | dsimp only
theorem State.mxHalf_keeps (s : State) (x : Nat) (tag : Nat) (k : Nat) (st : Nat) (pm : Nat) : (State.mxHalf s x tag k st pm).From s := by
  unfold State.mxHalf
  repeat' with_reducible first | exact State.From.refl _ | assumption | refine ite_keeps ?_ ?_ | refine (State.txn_keeps ..).trans ?_ | refine (State.answerLine_keeps ..).trans ?_ | split | dsimp only
theorem State.freshScale_keeps (s : State) (x : Nat) (t : Txn) (k : Nat) : (State.freshScale s x t k).From s := by
  unfold State.freshScale
  repeat' with_reducible first | exact State.From.refl _ | assumption | refine ite_keeps ?_ ?_ | refine (State.port_keeps ..).trans ?_ | split | dsimp only
theorem State.lineBack_keeps (s : State) (x : Nat) (tag : Nat) (k : Nat) (a : Access) : (State.lineBack s x tag k a).From s := by
  unfold State.lineBack
  repeat' with_reducible first | exact State.From.refl _ | assumption | refine (pair_keeps (State.draw_keeps ..) (by assumption)).trans ?_ | refine ite_keeps ?_ ?_ | refine cond_keeps _ _ _ (fun s => ?_) ?_ | refine (State.draw_keeps ..).trans ?_ | refine (State.port_keeps ..).trans ?_ | refine (State.latency_keeps ..).trans ?_ | refine (State.txn_keeps ..).trans ?_ | refine (State.answerLine_keeps ..).trans ?_ | refine (State.noCopies_keeps ..).trans ?_ | refine (State.copyLine_keeps ..).trans ?_ | refine (State.mxHalf_keeps ..).trans ?_ | refine (State.freshScale_keeps ..).trans ?_ | split | dsimp only
theorem execPlaneMerge_keeps (seq : Nat) (s : State) : (execPlaneMerge seq s).From s := by
  unfold execPlaneMerge
  repeat' with_reducible first | exact State.From.refl _ | assumption | refine next_keeps ?_ | refine ite_keeps_res ?_ ?_ | refine ite_keeps ?_ ?_ | refine cond_keeps _ _ _ (fun s => ?_) ?_ | refine (State.put_keeps ..).trans ?_ | refine (State.latency_keeps ..).trans ?_ | refine (State.hubf_keeps ..).trans ?_ | refine (State.leave_keeps ..).trans ?_ | refine (State.txn_keeps ..).trans ?_ | refine (State.copyLine_keeps ..).trans ?_ | refine (State.cacheRun_keeps ..).trans ?_ | refine (State.lineAccBack_keeps ..).trans ?_ | refine (State.crossBack_keeps ..).trans ?_ | refine (State.runChunk_keeps ..).trans ?_ | refine (State.installFetch_keeps ..).trans ?_ | refine (State.mxHalf_keeps ..).trans ?_ | refine (State.freshScale_keeps ..).trans ?_ | refine (State.lineBack_keeps ..).trans ?_ | split | dsimp only
theorem State.setPlane_keeps (s : State) (p : Nat) (v : Nat) : (State.setPlane s p v).From s := by
  unfold State.setPlane
  repeat' with_reducible first | exact State.From.refl _ | assumption | refine ite_keeps ?_ ?_ | refine (State.put_keeps ..).trans ?_ | split | dsimp only
theorem State.recordFault_keeps (s : State) (kind : Nat) (cause : Nat) (layer : Nat) (unit : Nat) : (State.recordFault s kind cause layer unit).From s := by
  unfold State.recordFault
  repeat' with_reducible first | exact State.From.refl _ | assumption | refine ite_keeps ?_ ?_ | refine (State.wr_keeps ..).trans ?_ | refine (State.bumpSat_keeps ..).trans ?_ | refine (State.irq_keeps ..).trans ?_ | refine (State.put64_keeps ..).trans ?_
theorem State.takeBack_keeps (s : State) (u : Undo) : (State.takeBack s u).From s := by
  unfold State.takeBack
  repeat' with_reducible first | exact State.From.refl _ | assumption | refine ite_keeps ?_ ?_ | refine (State.put_keeps ..).trans ?_ | refine (State.arr_keeps _ _ (fun a h => ?_)).trans ?_ | refine (State.setWord_keeps ..).trans ?_ | split | dsimp only
theorem State.unknownWrite_keeps (s : State) (a : Access) : (State.unknownWrite s a).From s := by
  unfold State.unknownWrite
  repeat' with_reducible first | exact State.From.refl _ | assumption | refine (pair_keeps (State.draw_keeps ..) (by assumption)).trans ?_ | refine ite_keeps ?_ ?_ | refine cond_keeps _ _ _ (fun s => ?_) ?_ | refine each_keeps _ _ _ (fun s x => ?_) ?_ | refine (State.draw_keeps ..).trans ?_ | refine (State.takeBack_keeps ..).trans ?_ | split | dsimp only
theorem State.loseHalf_keeps (s : State) (a : Access) : (State.loseHalf s a).From s := by
  unfold State.loseHalf
  repeat' with_reducible first | exact State.From.refl _ | assumption | refine (pair_keeps (State.draw_keeps ..) (by assumption)).trans ?_ | refine ite_keeps ?_ ?_ | refine (State.draw_keeps ..).trans ?_ | refine (State.rim_keeps ..).trans ?_ | refine (State.settleAcc_keeps ..).trans ?_ | refine (State.settle_keeps ..).trans ?_ | split | dsimp only
theorem State.loseAccess_keeps (s : State) (a : Access) : (State.loseAccess s a).From s := by
  unfold State.loseAccess
  repeat' with_reducible first | exact State.From.refl _ | assumption | refine ite_keeps ?_ ?_ | refine cond_keeps _ _ _ (fun s => ?_) ?_ | refine (State.occDown_keeps ..).trans ?_ | refine (State.upd_keeps ..).trans ?_ | refine (State.settleAcc_keeps ..).trans ?_ | refine (State.unknownWrite_keeps ..).trans ?_ | refine (State.loseHalf_keeps ..).trans ?_ | (unfold State.From; exact ⟨rfl, rfl, id⟩) | split | dsimp only
theorem State.parkTxn_keeps (s : State) (x : Nat) (t : Txn) : (State.parkTxn s x t).From s := by
  unfold State.parkTxn
  repeat' with_reducible first | exact State.From.refl _ | assumption | refine ite_keeps ?_ ?_ | refine each_keeps _ _ _ (fun s x => ?_) ?_ | refine (State.settleLine_keeps ..).trans ?_ | refine (State.txn_keeps ..).trans ?_ | refine (State.answerLine_keeps ..).trans ?_ | refine (State.answerReq_keeps ..).trans ?_ | split | dsimp only
theorem State.park_keeps (s : State) : (State.park s).From s := by
  unfold State.park
  repeat' with_reducible first | exact State.From.refl _ | assumption | refine ite_keeps ?_ ?_ | refine cond_keeps _ _ _ (fun s => ?_) ?_ | refine each_keeps _ _ _ (fun s x => ?_) ?_ | refine (State.put_keeps ..).trans ?_ | refine (State.port_keeps ..).trans ?_ | refine (State.latency_keeps ..).trans ?_ | refine (State.hubf_keeps ..).trans ?_ | refine (State.syn_keeps ..).trans ?_ | refine (State.answerReq_keeps ..).trans ?_ | refine (State.sqStop_keeps ..).trans ?_ | refine (State.parkCache_keeps ..).trans ?_ | refine (State.parkRecords_keeps ..).trans ?_ | refine (State.loseAccess_keeps ..).trans ?_ | refine (State.parkTxn_keeps ..).trans ?_ | refine (State.upd_shareHeld_keeps ..).trans ?_ | (unfold State.From; exact ⟨rfl, rfl, id⟩) | split | dsimp only
theorem State.planeDown_keeps (s : State) (p : Nat) (cause : Nat) : (State.planeDown s p cause).From s := by
  unfold State.planeDown
  repeat' with_reducible first | exact State.From.refl _ | assumption | refine ite_keeps ?_ ?_ | refine each_keeps _ _ _ (fun s x => ?_) ?_ | refine (State.wr_keeps ..).trans ?_ | refine (State.bumpSat_keeps ..).trans ?_ | refine (State.hubf_keeps ..).trans ?_ | refine (State.setPlane_keeps ..).trans ?_ | refine (State.recordFault_keeps ..).trans ?_ | refine (State.loseAccess_keeps ..).trans ?_ | refine (State.park_keeps ..).trans ?_ | split | dsimp only
theorem State.mismatch_keeps (s : State) (p : Nat) (n : Nat) : (State.mismatch s p n).From s := by
  unfold State.mismatch
  repeat' with_reducible first | exact State.From.refl _ | assumption | refine ite_keeps ?_ ?_ | refine cond_keeps _ _ _ (fun s => ?_) ?_ | refine (State.bumpSat_keeps ..).trans ?_ | refine (State.planeDown_keeps ..).trans ?_ | refine (State.upd_integ_keeps ..).trans ?_ | (unfold State.From; exact ⟨rfl, rfl, id⟩) | split | dsimp only
theorem execPlaneFault_keeps (p : Nat) (cause : Nat) (mismatches : Nat) (s : State) : (execPlaneFault p cause mismatches s).From s := by
  unfold execPlaneFault
  repeat' with_reducible first | exact State.From.refl _ | assumption | refine next_keeps ?_ | refine ite_keeps_res ?_ ?_ | refine ite_keeps ?_ ?_ | refine (State.planeDown_keeps ..).trans ?_ | refine (State.mismatch_keeps ..).trans ?_ | split | dsimp only
theorem execFailoverResume_keeps (s : State) : (execFailoverResume s).From s := by
  unfold execFailoverResume
  repeat' with_reducible first | exact State.From.refl _ | assumption | refine next_keeps ?_ | refine ite_keeps_res ?_ ?_ | refine ite_keeps ?_ ?_ | refine (State.put_keeps ..).trans ?_ | refine (State.irq_keeps ..).trans ?_ | refine (State.hubf_keeps ..).trans ?_ | split | dsimp only
theorem State.planeRefused_keeps (s : State) (m : Master) : (State.planeRefused s m).From s := by
  unfold State.planeRefused
  repeat' with_reducible first | exact State.From.refl _ | assumption | refine ite_keeps ?_ ?_ | refine (State.put_keeps ..).trans ?_ | refine (State.irq_keeps ..).trans ?_ | refine (State.refused_keeps ..).trans ?_
theorem State.planeChange_keeps (s : State) (p : Nat) (out : Bool) : (State.planeChange s p out).From s := by
  unfold State.planeChange
  repeat' with_reducible first | exact State.From.refl _ | assumption | refine ite_keeps ?_ ?_ | refine (State.put_keeps ..).trans ?_ | refine (State.hubf_keeps ..).trans ?_ | refine (State.setPlane_keeps ..).trans ?_ | split | dsimp only
theorem execPlaneTakeOut_keeps (m : Master) (p : Nat) (s : State) : (execPlaneTakeOut m p s).From s := by
  unfold execPlaneTakeOut
  repeat' with_reducible first | exact State.From.refl _ | assumption | refine next_keeps ?_ | refine ite_keeps_res ?_ ?_ | refine ite_keeps ?_ ?_ | refine (State.gate_keeps _ _ _ _ _ _  (fun  s => ?_)).trans ?_ | refine (State.planeRefused_keeps ..).trans ?_ | refine (State.planeChange_keeps ..).trans ?_ | split | dsimp only
theorem execPlaneReturn_keeps (m : Master) (p : Nat) (s : State) : (execPlaneReturn m p s).From s := by
  unfold execPlaneReturn
  repeat' with_reducible first | exact State.From.refl _ | assumption | refine next_keeps ?_ | refine ite_keeps_res ?_ ?_ | refine ite_keeps ?_ ?_ | refine (State.gate_keeps _ _ _ _ _ _  (fun  s => ?_)).trans ?_ | refine (State.planeRefused_keeps ..).trans ?_ | refine (State.planeChange_keeps ..).trans ?_ | split | dsimp only
theorem execPlaneChangeDone_keeps (s : State) : (execPlaneChangeDone s).From s := by
  unfold execPlaneChangeDone
  repeat' with_reducible first | exact State.From.refl _ | assumption | refine next_keeps ?_ | refine ite_keeps_res ?_ ?_ | refine ite_keeps ?_ ?_ | refine (State.wr_keeps ..).trans ?_ | refine (State.put_keeps ..).trans ?_ | refine (State.irq_keeps ..).trans ?_ | refine (State.hubf_keeps ..).trans ?_ | refine (State.setPlane_keeps ..).trans ?_ | split | dsimp only

end Sys2Proof.Machine
end

