-- ==== Sys2Proof/Laws/KeepPowerOps.lean ====
section
/-! SUPPORT. What no operation of Machine/PowerOps.lean changes: the configuration, the queue of waiting commands, the canonical form of memory. -/
namespace Sys2Proof.Machine

theorem State.setDom_keeps (s : State) (n : Nat) (on : Bool) : (State.setDom s n on).From s := by
  unfold State.setDom
  repeat' with_reducible first | exact State.From.refl _ | assumption | refine ite_keeps ?_ ?_ | refine (State.put_keeps ..).trans ?_
theorem State.setRimPower_keeps (s : State) (layer : Nat) (p : Nat) (st : Nat) : (State.setRimPower s layer p st).From s := by
  unfold State.setRimPower
  repeat' with_reducible first | exact State.From.refl _ | assumption | refine ite_keeps ?_ ?_ | refine (State.put_keeps ..).trans ?_
theorem State.startDrain_keeps (s : State) (layer : Nat) (p : Nat) (goal : Nat) : (State.startDrain s layer p goal).From s := by
  unfold State.startDrain
  repeat' with_reducible first | exact State.From.refl _ | assumption | refine ite_keeps ?_ ?_ | refine (State.rim_keeps ..).trans ?_ | refine (State.setRimPower_keeps ..).trans ?_
theorem State.applyTarget_keeps (s : State) (layer : Nat) (p : Nat) (t : Nat) : (State.applyTarget s layer p t).From s := by
  unfold State.applyTarget
  extract_lets st u
  have h : u.From s := cond_keeps _ _ _ (fun s => State.upd_wakes_keeps ..) (State.From.refl _)
  split
  · exact cond_keeps _ _ _ (fun s => State.askWake_keeps ..) h
  · exact cond_keeps _ _ _ (fun s => State.startDrain_keeps ..) h
  · exact ite_keeps ((State.startDrain_keeps ..).trans h) (cond_keeps _ _ _ (fun s => State.rim_keeps ..) h)
theorem State.applyHeld_keeps (s : State) (layer : Nat) (p : Nat) : (State.applyHeld s layer p).From s := by
  unfold State.applyHeld
  split
  · exact State.From.refl _
  · refine ite_keeps (State.From.refl _) ?_
    exact ite_keeps ((State.applyTarget_keeps ..).trans (State.upd_test_keeps ..)) ((State.put_keeps ..).trans (State.upd_test_keeps ..))
theorem State.endDrain_keeps (s : State) (layer : Nat) (p : Nat) : (State.endDrain s layer p).From s := by
  unfold State.endDrain
  repeat' with_reducible first | exact State.From.refl _ | assumption | refine ite_keeps ?_ ?_ | refine (State.rim_keeps ..).trans ?_ | refine (State.setRimPower_keeps ..).trans ?_ | split | dsimp only
theorem State.writeTarget_keeps (s : State) (m : Master) (layer : Nat) (p : Nat) (t : Nat) : (State.writeTarget s m layer p t).From s := by
  unfold State.writeTarget
  repeat' with_reducible first | exact State.From.refl _ | assumption | refine ite_keeps ?_ ?_ | refine (State.put_keeps ..).trans ?_ | refine (State.refused_keeps ..).trans ?_ | refine (State.applyTarget_keeps ..).trans ?_ | refine (State.endDrain_keeps ..).trans ?_ | refine (State.upd_test_keeps ..).trans ?_ | (unfold State.From; exact ⟨rfl, rfl, id⟩) | split | dsimp only
theorem State.wakeRim_keeps (s : State) (layer : Nat) (i : Nat) : (State.wakeRim s layer i).From s := by
  unfold State.wakeRim
  repeat' with_reducible first | exact State.From.refl _ | assumption | refine ite_keeps ?_ ?_ | refine getD_keeps (fun t h => ?_) ?_ | refine (State.askWake_keeps ..).trans ?_ | refine (State.endDrain_keeps ..).trans ?_ | split | dsimp only
theorem State.wakeUnpermitted_keeps (s : State) (d : Desc) : (State.wakeUnpermitted s d).From s := by
  unfold State.wakeUnpermitted
  repeat' with_reducible first | exact State.From.refl _ | assumption | refine ite_keeps ?_ ?_ | refine each_keeps _ _ _ (fun s x => ?_) ?_ | refine (State.wakeRim_keeps ..).trans ?_ | split | dsimp only
theorem State.reading_keeps (s : State) (q : Nat) (k : Nat) : (State.reading s q k).From s := by
  unfold State.reading
  repeat' with_reducible first | exact State.From.refl _ | assumption | refine ite_keeps ?_ ?_ | refine (State.put_keeps ..).trans ?_ | refine (State.nrg_keeps ..).trans ?_ | split | dsimp only
theorem State.paceDevice_keeps (s : State) : (State.paceDevice s).From s := by
  unfold State.paceDevice
  repeat' with_reducible first | exact State.From.refl _ | assumption | refine ite_keeps ?_ ?_ | refine cond_keeps _ _ _ (fun s => ?_) ?_ | refine foldl_keeps _ _ _ (fun s x => ?_) ?_ | refine foldl_keeps2 _ _ _ (fun s x => ?_) ?_ | refine foldl_keeps3 _ _ _ (fun s x => ?_) ?_ | refine (State.put_keeps ..).trans ?_ | split | dsimp only

end Sys2Proof.Machine
end

