-- ==== Sys2Proof/Laws/KeepLifeOps.lean ====
section
/-! SUPPORT. What no operation of Machine/LifeOps.lean changes: the configuration, the queue of waiting commands, the canonical form of memory. -/
namespace Sys2Proof.Machine

theorem State.lif_keeps (s : State) (f : LifeSt → LifeSt) : (State.lif s f).From s := by
  unfold State.lif
  repeat' with_reducible first | exact State.From.refl _ | assumption | refine ite_keeps ?_ ?_ | refine (State.upd_life_keeps ..).trans ?_
theorem State.lsWrite_keeps (s : State) (f : State → State) (hf : ∀ s, (f s).From s) : (State.lsWrite s f).From s :=
  cond_keeps _ _ _ hf (State.From.refl _)
theorem State.listRetired_keeps (s : State) (layer : Nat) (p : Nat) (cause : Nat) : (State.listRetired s layer p cause).From s := by
  unfold State.listRetired
  repeat' with_reducible first | exact State.From.refl _ | assumption | refine ite_keeps ?_ ?_ | refine (State.bumpSat_keeps ..).trans ?_ | refine (State.lif_keeps ..).trans ?_ | refine (State.lsWrite_keeps _ _ (fun s => ?_)).trans ?_ | split | dsimp only

end Sys2Proof.Machine
end

