-- ==== Sys2Proof/Laws/KeepRings.lean ====
section
/-! SUPPORT. What no operation of Machine/Rings.lean changes: the configuration, the queue of waiting commands, the canonical form of memory. -/
namespace Sys2Proof.Machine

theorem State.respond_keeps (s : State) (r : Nat) (typ : Nat) (seq : Nat) (status : Nat) (words : List Nat) (n : Nat) : (State.respond s r typ seq status words n).From s := by
  unfold State.respond
  repeat' with_reducible first | exact State.From.refl _ | assumption | refine ite_keeps ?_ ?_ | refine each_keeps _ _ _ (fun s x => ?_) ?_ | refine getD_keeps (fun t h => ?_) ?_ | refine (State.wr_keeps ..).trans ?_ | refine (State.bump_keeps ..).trans ?_ | refine (State.irq_keeps ..).trans ?_ | split | dsimp only
theorem State.answer_keeps (s : State) (r : Nat) (typ : Nat) (seq : Nat) (status : Nat) (words : List Nat) (n : Nat) : (State.answer s r typ seq status words n).From s := by
  unfold State.answer
  repeat' with_reducible first | exact State.From.refl _ | assumption | refine ite_keeps ?_ ?_ | refine (State.respond_keeps ..).trans ?_ | split | refine (State.upd_fw_keeps ..).trans ?_ | dsimp only
theorem State.placeOwed_keeps (s : State) (r : Nat) (n : Nat) : ((State.placeOwed s r) n).From s := by
  induction n generalizing s with
  | zero => exact State.From.refl _
  | succ n ih =>
    unfold State.placeOwed
    repeat' with_reducible first | exact State.From.refl _ | assumption | refine ite_keeps ?_ ?_ | refine (ih ..).trans ?_ | refine getD_keeps (fun t h => ?_) ?_ | refine (State.drop_keeps ..).trans ?_ | refine (State.respond_keeps ..).trans ?_ | split | refine (State.upd_fw_keeps ..).trans ?_ | dsimp only
theorem State.takeReq_keeps (s : State) (r : Nat) : (State.takeReq s r).From s := by
  unfold State.takeReq
  repeat' with_reducible first | exact State.From.refl _ | assumption | refine ite_keeps ?_ ?_ | refine (State.bump_keeps ..).trans ?_

end Sys2Proof.Machine
end

