-- ==== Sys2Proof/Laws/KeepSpareOps.lean ====
section
/-! SUPPORT. What no operation of Machine/SpareOps.lean changes: the configuration, the queue of waiting commands, the canonical form of memory. -/
namespace Sys2Proof.Machine

theorem State.ig_keeps (s : State) (f : IntegSt → IntegSt) : (State.ig s f).From s := by
  unfold State.ig
  repeat' with_reducible first | exact State.From.refl _ | assumption | refine ite_keeps ?_ ?_ | refine (State.upd_integ_keeps ..).trans ?_
theorem State.tst_keeps (s : State) (f : TestSt → TestSt) : (State.tst s f).From s := by
  unfold State.tst
  repeat' with_reducible first | exact State.From.refl _ | assumption | refine ite_keeps ?_ ?_ | refine (State.upd_test_keeps ..).trans ?_
theorem State.setMap_keeps (s : State) (layer : Nat) (i : Nat) (p : Nat) : (State.setMap s layer i p).From s := by
  unfold State.setMap
  repeat' with_reducible first | exact State.From.refl _ | assumption | refine ite_keeps ?_ ?_ | refine (State.put_keeps ..).trans ?_ | refine (State.settle_keeps ..).trans ?_
theorem State.setRole_keeps (s : State) (layer : Nat) (role : Nat) (i : Nat) : (State.setRole s layer role i).From s := by
  unfold State.setRole
  repeat' with_reducible first | exact State.From.refl _ | assumption | refine ite_keeps ?_ ?_ | refine (State.put_keeps ..).trans ?_
theorem State.setRimUp_keeps (s : State) (layer : Nat) (i : Nat) (on : Bool) : (State.setRimUp s layer i on).From s := by
  unfold State.setRimUp
  repeat' with_reducible first | exact State.From.refl _ | assumption | refine ite_keeps ?_ ?_ | refine (State.put_keeps ..).trans ?_
theorem State.parkRim_keeps (s : State) (layer : Nat) (p : Nat) (cause : Nat) : (State.parkRim s layer p cause).From s := by
  unfold State.parkRim
  repeat' with_reducible first | exact State.From.refl _ | assumption | refine ite_keeps ?_ ?_ | refine (State.put_keeps ..).trans ?_ | refine (State.rim_keeps ..).trans ?_ | refine (State.listRetired_keeps ..).trans ?_ | refine (State.setDom_keeps ..).trans ?_ | refine (State.upd_wakes_keeps ..).trans ?_
theorem State.clearRim_keeps (s : State) (layer : Nat) (p : Nat) (tid : Nat) : (State.clearRim s layer p tid).From s := by
  unfold State.clearRim
  repeat' with_reducible first | exact State.From.refl _ | assumption | refine ite_keeps ?_ ?_ | refine (State.clearFrames_keeps ..).trans ?_ | refine (State.energy_keeps ..).trans ?_
theorem State.loseFrom_keeps (s : State) (layer : Nat) (p : Nat) (slot : Nat) : (State.loseFrom s layer p slot).From s := by
  unfold State.loseFrom
  repeat' with_reducible first | exact State.From.refl _ | assumption | refine ite_keeps ?_ ?_ | refine (State.arr_keeps _ _ (fun a h => ?_)).trans ?_ | refine foldl_keeps _ _ _ (fun s x => ?_) ?_ | refine foldl_keeps2 _ _ _ (fun s x => ?_) ?_ | refine foldl_keeps3 _ _ _ (fun s x => ?_) ?_
theorem State.loseRim_keeps (s : State) (layer : Nat) (i : Nat) : (State.loseRim s layer i).From s := by
  unfold State.loseRim
  repeat' with_reducible first | exact State.From.refl _ | assumption | refine ite_keeps ?_ ?_ | refine each_keeps _ _ _ (fun s x => ?_) ?_ | refine (State.rim_keeps ..).trans ?_ | refine (State.arr_keeps _ _ (fun a h => ?_)).trans ?_ | refine (State.loseStep_keeps ..).trans ?_ | refine (State.loseAccess_keeps ..).trans ?_ | split | dsimp only
theorem State.ftReply_keeps (s : State) (f : FieldTest) : (State.ftReply s f).From s := by
  unfold State.ftReply
  repeat' with_reducible first | exact State.From.refl _ | assumption | refine ite_keeps ?_ ?_ | refine (State.answer_keeps ..).trans ?_ | split | dsimp only
theorem State.ftEnd_keeps (s : State) (result : Nat) : (State.ftEnd s result).From s := by
  unfold State.ftEnd
  repeat' with_reducible first | exact State.From.refl _ | assumption | refine ite_keeps ?_ ?_ | refine cond_keeps _ _ _ (fun s => ?_) ?_ | refine (State.wr_keeps ..).trans ?_ | refine (State.put_keeps ..).trans ?_ | refine (State.irq_keeps ..).trans ?_ | refine (State.copyEnd_keeps ..).trans ?_ | refine (State.applyHeld_keeps ..).trans ?_ | refine (State.tst_keeps ..).trans ?_ | refine (State.ftReply_keeps ..).trans ?_ | split | dsimp only
theorem State.ftBack_keeps (s : State) (f : FieldTest) : (State.ftBack s f).From s := by
  unfold State.ftBack
  repeat' with_reducible first | exact State.From.refl _ | assumption | refine ite_keeps ?_ ?_ | refine (State.put_keeps ..).trans ?_ | refine (State.copyStart_keeps ..).trans ?_ | split | dsimp only
theorem State.ftGiveUp_keeps (s : State) (f : FieldTest) : (State.ftGiveUp s f).From s := by
  unfold State.ftGiveUp
  repeat' with_reducible first | exact State.From.refl _ | assumption | refine ite_keeps ?_ ?_ | refine cond_keeps _ _ _ (fun s => ?_) ?_ | refine (State.tst_keeps ..).trans ?_ | refine (State.ftBack_keeps ..).trans ?_ | split | dsimp only
theorem State.rimCmdAnswer_keeps (s : State) (result : Nat) : (State.rimCmdAnswer s result).From s := by
  unfold State.rimCmdAnswer
  repeat' with_reducible first | exact State.From.refl _ | assumption | refine ite_keeps ?_ ?_ | refine (State.put_keeps ..).trans ?_ | refine (State.irq_keeps ..).trans ?_ | split | dsimp only
theorem State.rimCmdDone_keeps (s : State) (result : Nat) : (State.rimCmdDone s result).From s := by
  unfold State.rimCmdDone
  repeat' with_reducible first | exact State.From.refl _ | assumption | refine ite_keeps ?_ ?_ | refine (State.ig_keeps ..).trans ?_ | refine (State.rimCmdAnswer_keeps ..).trans ?_ | split | dsimp only

end Sys2Proof.Machine
end

