-- ==== Sys2Proof/Laws/KeepRegul.lean ====
section
/-! SUPPORT. What no operation of Machine/Regul.lean changes: the configuration, the queue of waiting commands, the canonical form of memory. -/
namespace Sys2Proof.Machine

theorem State.winFrom_keeps (s : State) (t : Nat) : (State.winFrom s t).From s := by
  unfold State.winFrom
  repeat' with_reducible first | exact State.From.refl _ | assumption | refine ite_keeps ?_ ?_ | refine (State.upd_regul_keeps ..).trans ?_
theorem execRegulationWindowBoundary_keeps (t : Nat) (s : State) : (execRegulationWindowBoundary t s).From s := by
  unfold execRegulationWindowBoundary
  repeat' with_reducible first | exact State.From.refl _ | assumption | refine next_keeps ?_ | refine ite_keeps_res ?_ ?_ | refine ite_keeps ?_ ?_ | refine (State.drop_keeps ..).trans ?_ | refine (State.winFrom_keeps ..).trans ?_ | split | dsimp only
theorem execBrakeStateArrival_keeps (t : Nat) (arb : Nat) (s : State) : (execBrakeStateArrival t arb s).From s := by
  unfold execBrakeStateArrival
  repeat' with_reducible first | exact State.From.refl _ | assumption | refine next_keeps ?_ | refine ite_keeps_res ?_ ?_ | refine ite_keeps ?_ ?_ | split | refine (State.upd_regul_keeps ..).trans ?_ | dsimp only
theorem State.lockViol_keeps (s : State) (m : Master) (reg : Nat) : (State.lockViol s m reg).From s := by
  unfold State.lockViol
  repeat' with_reducible first | exact State.From.refl _ | assumption | refine ite_keeps ?_ ?_ | refine (State.put_keeps ..).trans ?_ | refine (State.refused_keeps ..).trans ?_
theorem State.tcfgWrite_keeps (s : State) (t : Nat) (v : Word32) : (State.tcfgWrite s t v).From s := by
  unfold State.tcfgWrite
  repeat' with_reducible first | exact State.From.refl _ | assumption | refine ite_keeps ?_ ?_ | refine (State.put_keeps ..).trans ?_ | refine (State.winFrom_keeps ..).trans ?_ | refine (State.upd_regul_keeps ..).trans ?_ | (unfold State.From; exact ⟨rfl, rfl, id⟩) | split | dsimp only
theorem execTidConfigWrite_keeps (m : Master) (t : Nat) (bud : Bool) (v : Word32) (s : State) : (execTidConfigWrite m t bud v s).From s := by
  unfold execTidConfigWrite
  repeat' with_reducible first | exact State.From.refl _ | assumption | refine next_keeps ?_ | refine ite_keeps_res ?_ ?_ | refine ite_keeps ?_ ?_ | refine (State.gate_keeps _ _ _ _ _ _  (fun  s => ?_)).trans ?_ | refine (State.wr_keeps ..).trans ?_ | refine (State.lockViol_keeps ..).trans ?_ | refine (State.tcfgWrite_keeps ..).trans ?_ | split | dsimp only
theorem execTableSigUpdate_keeps (s : State) : (execTableSigUpdate s).From s := by
  unfold execTableSigUpdate
  repeat' with_reducible first | exact State.From.refl _ | assumption | refine next_keeps ?_ | refine ite_keeps_res ?_ ?_ | refine ite_keeps ?_ ?_ | refine (State.wr_keeps ..).trans ?_
theorem execStepWrite_keeps (m : Master) (t : Nat) (step : Nat) (s : State) : (execStepWrite m t step s).From s := by
  unfold execStepWrite
  repeat' with_reducible first | exact State.From.refl _ | assumption | refine next_keeps ?_ | refine ite_keeps_res ?_ ?_ | refine ite_keeps ?_ ?_ | refine (State.gate_keeps _ _ _ _ _ _  (fun  s => ?_)).trans ?_ | refine (State.put_keeps ..).trans ?_
theorem execPreemptWrite_keeps (m : Master) (t : Nat) (s : State) : (execPreemptWrite m t s).From s := by
  unfold execPreemptWrite
  repeat' with_reducible first | exact State.From.refl _ | assumption | refine next_keeps ?_ | refine ite_keeps_res ?_ ?_ | refine ite_keeps ?_ ?_ | refine (State.gate_keeps _ _ _ _ _ _  (fun  s => ?_)).trans ?_ | refine (State.wr_keeps ..).trans ?_ | refine (State.tidCnt_keeps ..).trans ?_
theorem execSnapshotGo_keeps (m : Master) (t : Nat) (clrh : Bool) (s : State) : (execSnapshotGo m t clrh s).From s := by
  unfold execSnapshotGo
  repeat' with_reducible first | exact State.From.refl _ | assumption | refine next_keeps ?_ | refine ite_keeps_res ?_ ?_ | refine ite_keeps ?_ ?_ | refine cond_keeps _ _ _ (fun s => ?_) ?_ | refine (State.gate_keeps _ _ _ _ _ _  (fun  s => ?_)).trans ?_ | refine (State.put_keeps ..).trans ?_ | refine (State.tidCnt_keeps ..).trans ?_ | refine (State.refused_keeps ..).trans ?_ | split | refine (State.upd_regul_keeps ..).trans ?_ | dsimp only
theorem execSnapshotDone_keeps (s : State) : (execSnapshotDone s).From s := by
  unfold execSnapshotDone
  repeat' with_reducible first | exact State.From.refl _ | assumption | refine next_keeps ?_ | refine ite_keeps_res ?_ ?_ | refine ite_keeps ?_ ?_ | refine each_keeps _ _ _ (fun s x => ?_) ?_ | refine getD_keeps (fun t h => ?_) ?_ | refine (State.wr_keeps ..).trans ?_ | refine (State.put_keeps ..).trans ?_ | refine (State.put64_keeps ..).trans ?_ | split | refine (State.upd_regul_keeps ..).trans ?_ | dsimp only
theorem execHapply_keeps (m : Master) (s : State) : (execHapply m s).From s := by
  unfold execHapply
  repeat' with_reducible first | exact State.From.refl _ | assumption | refine next_keeps ?_ | refine ite_keeps_res ?_ ?_ | refine ite_keeps ?_ ?_ | refine (State.gate_keeps _ _ _ _ _ _  (fun  s => ?_)).trans ?_ | refine (State.put_keeps ..).trans ?_ | refine (State.refused_keeps ..).trans ?_ | refine (State.lockViol_keeps ..).trans ?_ | split | refine (State.upd_regul_keeps ..).trans ?_ | dsimp only
theorem execLock_keeps (m : Master) (s : State) : (execLock m s).From s := by
  unfold execLock
  repeat' with_reducible first | exact State.From.refl _ | assumption | refine next_keeps ?_ | refine ite_keeps_res ?_ ?_ | refine ite_keeps ?_ ?_ | refine (State.gate_keeps _ _ _ _ _ _  (fun  s => ?_)).trans ?_ | refine (State.put_keeps ..).trans ?_

end Sys2Proof.Machine
end

