-- ==== Sys2Proof/Laws/KeepRimAlu.lean ====
section
/-! SUPPORT. What no operation of Machine/RimAlu.lean changes: the configuration, the queue of waiting commands, the canonical form of memory. -/
namespace Sys2Proof.Machine

theorem execRaPush_keeps (m : Master) (q : Nat) (s : State) : (execRaPush m q s).From s := by
  unfold execRaPush
  repeat' with_reducible first | exact State.From.refl _ | assumption | refine (pair_keeps (State.pushRec_keeps ..) (by assumption)).trans ?_ | refine next_keeps ?_ | refine ite_keeps_res ?_ ?_ | refine ite_keeps ?_ ?_ | refine (State.gate_keeps _ _ _ _ _ _  (fun  s => ?_)).trans ?_ | refine (State.refused_keeps ..).trans ?_ | refine (State.pushRec_keeps ..).trans ?_ | split | dsimp only
theorem State.rejectRec_keeps (s : State) (r : RaRec) : (State.rejectRec s r).From s := by
  unfold State.rejectRec
  repeat' with_reducible first | exact State.From.refl _ | assumption | refine ite_keeps ?_ ?_ | refine cond_keeps _ _ _ (fun s => ?_) ?_ | refine (State.reject_keeps ..).trans ?_ | split | dsimp only
theorem State.beginRec_keeps (s : State) (q : Nat) : (State.beginRec s q).From s := by
  unfold State.beginRec
  repeat' with_reducible first | exact State.From.refl _ | assumption | refine ite_keeps ?_ ?_ | refine (State.hubf_keeps ..).trans ?_ | refine (State.headRec_keeps ..).trans ?_ | split | dsimp only
theorem startRecord_keeps (q : Nat) (kind : Nat) (s : State) : (startRecord q kind s).From s := by
  unfold startRecord
  repeat' with_reducible first | exact State.From.refl _ | assumption | refine ite_keeps ?_ ?_ | refine (State.headRec_keeps ..).trans ?_ | refine (State.runChunk_keeps ..).trans ?_ | refine (State.nextChunk_keeps ..).trans ?_ | refine (State.rejectRec_keeps ..).trans ?_ | refine (State.beginRec_keeps ..).trans ?_ | split | dsimp only
theorem execOprecNop_keeps (q : Nat) (s : State) : (execOprecNop q s).From s := by
  unfold execOprecNop
  repeat' with_reducible first | exact State.From.refl _ | assumption | refine next_keeps ?_ | refine ite_keeps_res ?_ ?_ | refine ite_keeps ?_ ?_ | refine (startRecord_keeps ..).trans ?_
theorem execOprecZero_keeps (q : Nat) (s : State) : (execOprecZero q s).From s := by
  unfold execOprecZero
  repeat' with_reducible first | exact State.From.refl _ | assumption | refine next_keeps ?_ | refine ite_keeps_res ?_ ?_ | refine ite_keeps ?_ ?_ | refine (startRecord_keeps ..).trans ?_
theorem execOprecFill_keeps (q : Nat) (s : State) : (execOprecFill q s).From s := by
  unfold execOprecFill
  repeat' with_reducible first | exact State.From.refl _ | assumption | refine next_keeps ?_ | refine ite_keeps_res ?_ ?_ | refine ite_keeps ?_ ?_ | refine (startRecord_keeps ..).trans ?_
theorem execOprecCopy_keeps (q : Nat) (s : State) : (execOprecCopy q s).From s := by
  unfold execOprecCopy
  repeat' with_reducible first | exact State.From.refl _ | assumption | refine next_keeps ?_ | refine ite_keeps_res ?_ ?_ | refine ite_keeps ?_ ?_ | refine (startRecord_keeps ..).trans ?_
theorem execOprecKernel_keeps (q : Nat) (s : State) : (execOprecKernel q s).From s := by
  unfold execOprecKernel
  repeat' with_reducible first | exact State.From.refl _ | assumption | refine next_keeps ?_ | refine ite_keeps_res ?_ ?_ | refine ite_keeps ?_ ?_ | refine (startRecord_keeps ..).trans ?_
theorem execRecordChunkAdmission_keeps (q : Nat) (s : State) : (execRecordChunkAdmission q s).From s := by
  unfold execRecordChunkAdmission
  repeat' with_reducible first | exact State.From.refl _ | assumption | refine next_keeps ?_ | refine ite_keeps_res ?_ ?_ | refine ite_keeps ?_ ?_ | refine (State.runChunk_keeps ..).trans ?_ | refine (State.nextChunk_keeps ..).trans ?_ | split | dsimp only
theorem execReduceSegmentWrite_keeps (q : Nat) (s : State) : (execReduceSegmentWrite q s).From s := by
  unfold execReduceSegmentWrite
  repeat' with_reducible first | exact State.From.refl _ | assumption | refine (pair_keeps (State.tryAcc_keeps ..) (by assumption)).trans ?_ | refine (pair_keeps (directWrite_keeps ..) (by assumption)).trans ?_ | refine next_keeps ?_ | refine ite_keeps_res ?_ ?_ | refine ite_keeps ?_ ?_ | refine cond_keeps _ _ _ (fun s => ?_) ?_ | refine foldl_keeps _ _ _ (fun s x => ?_) ?_ | refine foldl_keeps2 _ _ _ (fun s x => ?_) ?_ | refine foldl_keeps3 _ _ _ (fun s x => ?_) ?_ | refine (directWrite_keeps ..).trans ?_ | refine (State.headRec_keeps ..).trans ?_ | refine (State.tryAcc_keeps ..).trans ?_ | refine (State.failStep_keeps ..).trans ?_ | split | dsimp only
theorem execRecordComplete_keeps (q : Nat) (s : State) : (execRecordComplete q s).From s := by
  unfold execRecordComplete
  repeat' with_reducible first | exact State.From.refl _ | assumption | refine next_keeps ?_ | refine ite_keeps_res ?_ ?_ | refine ite_keeps ?_ ?_ | refine (State.drop_keeps ..).trans ?_ | refine (State.nrg_keeps ..).trans ?_ | refine (State.endChunk_keeps ..).trans ?_ | refine (State.setRaq_keeps ..).trans ?_ | refine (State.completeRec_keeps ..).trans ?_ | split | dsimp only
theorem execQueueEnable_keeps (m : Master) (q : Nat) (s : State) : (execQueueEnable m q s).From s := by
  unfold execQueueEnable
  repeat' with_reducible first | exact State.From.refl _ | assumption | refine next_keeps ?_ | refine ite_keeps_res ?_ ?_ | refine ite_keeps ?_ ?_ | refine cond_keeps _ _ _ (fun s => ?_) ?_ | refine (State.gate_keeps _ _ _ _ _ _  (fun  s => ?_)).trans ?_ | refine (State.put_keeps ..).trans ?_
theorem execQueueDisable_keeps (m : Master) (q : Nat) (s : State) : (execQueueDisable m q s).From s := by
  unfold execQueueDisable
  repeat' with_reducible first | exact State.From.refl _ | assumption | refine next_keeps ?_ | refine ite_keeps_res ?_ ?_ | refine ite_keeps ?_ ?_ | refine cond_keeps _ _ _ (fun s => ?_) ?_ | refine (State.gate_keeps _ _ _ _ _ _  (fun  s => ?_)).trans ?_ | refine (State.put_keeps ..).trans ?_ | refine (State.flushDisabled_keeps ..).trans ?_
theorem execQueueDrainDone_keeps (q : Nat) (s : State) : (execQueueDrainDone q s).From s := by
  unfold execQueueDrainDone
  repeat' with_reducible first | exact State.From.refl _ | assumption | refine next_keeps ?_ | refine ite_keeps_res ?_ ?_ | refine ite_keeps ?_ ?_ | refine (State.put_keeps ..).trans ?_ | split | dsimp only
theorem execQcplRead_keeps (m : Master) (q : Nat) (s : State) : (execQcplRead m q s).From s := by
  unfold execQcplRead
  repeat' with_reducible first | exact State.From.refl _ | assumption | refine next_keeps ?_ | refine ite_keeps_res ?_ ?_ | refine ite_keeps ?_ ?_ | refine (State.answerMaster_keeps ..).trans ?_ | refine (State.popCpl_keeps ..).trans ?_ | split | dsimp only
theorem execKernelLoad_keeps (m : Master) (slot : Nat) (len : Nat) (s : State) : (execKernelLoad m slot len s).From s := by
  unfold execKernelLoad
  repeat' with_reducible first | exact State.From.refl _ | assumption | refine next_keeps ?_ | refine ite_keeps_res ?_ ?_ | refine ite_keeps ?_ ?_ | refine each_keeps _ _ _ (fun s x => ?_) ?_ | refine getD_keeps (fun t h => ?_) ?_ | refine (State.wr_keeps ..).trans ?_ | refine (State.put_keeps ..).trans ?_ | refine (State.irq_keeps ..).trans ?_ | refine (State.refused_keeps ..).trans ?_ | refine (State.gate_keeps _ _ _ _ _ _  (fun  s => ?_)).trans ?_ | refine (State.setFields_keeps ..).trans ?_ | refine (State.upd_klen_keeps ..).trans ?_ | (unfold State.From; exact ⟨rfl, rfl, id⟩) | split | dsimp only
theorem State.setAlu_keeps (s : State) (c : KCtx) (y : Bool) (v : Nat) (bad : Bool) : (State.setAlu s c y v bad).From s := by
  unfold State.setAlu
  repeat' with_reducible first | exact State.From.refl _ | assumption | refine ite_keeps ?_ ?_ | refine (State.rim_keeps ..).trans ?_ | split | dsimp only
theorem State.setAluScale_keeps (s : State) (c : KCtx) (y : Bool) (v : Nat) : (State.setAluScale s c y v).From s := by
  unfold State.setAluScale
  repeat' with_reducible first | exact State.From.refl _ | assumption | refine ite_keeps ?_ ?_ | refine (State.rim_keeps ..).trans ?_ | split | dsimp only
theorem State.kFail_keeps (s : State) (c : KCtx) (st : Nat) : (State.kFail s c st).From s := by
  unfold State.kFail
  repeat' with_reducible first | exact State.From.refl _ | assumption | refine ite_keeps ?_ ?_ | refine (State.rim_keeps ..).trans ?_ | split | dsimp only
theorem State.gateSeg_keeps (s : State) (q : Nat) (r : RaRec) (step : Nat) : (State.gateSeg s q r step).2.From s := by
  unfold State.gateSeg
  repeat' with_reducible first | exact State.From.refl _ | assumption | refine (pair_keeps (State.tryAcc_keeps ..) (by assumption)).trans ?_ | refine (pair3_keeps (directRead_keeps ..) (by assumption)).trans ?_ | refine ite_keeps ?_ ?_ | refine ite_keeps_pair ?_ ?_ | refine (directRead_keeps ..).trans ?_ | refine (State.headRec_keeps ..).trans ?_ | refine (State.tryAcc_keeps ..).trans ?_ | split | dsimp only
theorem State.kStart_keeps (s : State) (layer : Nat) (i : Nat) (q : Nat) (r : RaRec) (step : Nat) : (State.kStart s layer i q r step).2.From s := by
  unfold State.kStart
  repeat' with_reducible first | exact State.From.refl _ | assumption | refine ite_keeps ?_ ?_ | refine ite_keeps_pair ?_ ?_ | refine (State.rim_keeps ..).trans ?_ | refine (State.headRec_keeps ..).trans ?_ | split | refine (State.upd_rims_keeps ..).trans ?_ | dsimp only
theorem State.kGate_keeps (s : State) (layer : Nat) (i : Nat) (q : Nat) (r : RaRec) (step : Nat) : (State.kGate s layer i q r step).2.From s := by
  unfold State.kGate
  repeat' with_reducible first | exact State.From.refl _ | assumption | refine (pair_keeps (State.gateSeg_keeps ..) (by assumption)).trans ?_ | refine (pair_keeps (State.kStart_keeps ..) (by assumption)).trans ?_ | refine ite_keeps ?_ ?_ | refine ite_keeps_pair ?_ ?_ | refine (State.stepEnd_keeps ..).trans ?_ | refine (State.gateSeg_keeps ..).trans ?_ | refine (State.kStart_keeps ..).trans ?_ | split | dsimp only
theorem State.kTry_keeps (s : State) (layer : Nat) (i : Nat) (q : Nat) (r : RaRec) (step : Nat) : (State.kTry s layer i q r step).2.From s := by
  unfold State.kTry
  repeat' with_reducible first | exact State.From.refl _ | assumption | refine (pair_keeps (State.kGate_keeps ..) (by assumption)).trans ?_ | refine (pair_keeps (State.tryNew_keeps ..) (by assumption)).trans ?_ | refine ite_keeps ?_ ?_ | refine ite_keeps_pair ?_ ?_ | refine (State.tryNew_keeps ..).trans ?_ | refine (State.stepEnd_keeps ..).trans ?_ | refine (State.kGate_keeps ..).trans ?_ | split | dsimp only
theorem State.kClaim_keeps (s : State) (layer : Nat) (i : Nat) : (State.kClaim s layer i).2.From s := by
  unfold State.kClaim
  repeat' with_reducible first | exact State.From.refl _ | assumption | refine (pair_keeps (State.kTry_keeps ..) (by assumption)).trans ?_ | refine ite_keeps ?_ ?_ | refine ite_keeps_pair ?_ ?_ | refine (State.kTry_keeps ..).trans ?_ | split | dsimp only
theorem kernelIssue_keeps (layer : Nat) (i : Nat) (opc : Nat) (act : KCtx → Nat → State → Bool × State) (s : State) (hact : ∀ x0 x1 s, (act x0 x1 s).2.From s) : (kernelIssue layer i opc act s).From s := by
  unfold kernelIssue
  repeat' with_reducible first | exact State.From.refl _ | assumption | refine (pair_keeps (hact ..) (by assumption)).trans ?_ | refine (pair_keeps (State.kClaim_keeps ..) (by assumption)).trans ?_ | refine next_keeps ?_ | refine ite_keeps_res ?_ ?_ | refine ite_keeps ?_ ?_ | refine getD_keeps (fun t h => ?_) ?_ | refine (hact ..).trans ?_ | refine (State.rim_keeps ..).trans ?_ | refine (State.energy_keeps ..).trans ?_ | refine (State.stepIssued_keeps ..).trans ?_ | refine (State.aluFree_keeps ..).trans ?_ | refine (State.kClaim_keeps ..).trans ?_ | split | dsimp only
theorem kLoad_keeps (o : RaOp) (c : KCtx) (ins : Nat) (s : State) : (kLoad o c ins s).2.From s := by
  unfold kLoad
  repeat' with_reducible first | exact State.From.refl _ | assumption | refine (pair3_keeps (State.raRead_keeps ..) (by assumption)).trans ?_ | refine (pair_keeps (State.tryAcc_keeps ..) (by assumption)).trans ?_ | refine (pair3_keeps (directRead_keeps ..) (by assumption)).trans ?_ | refine ite_keeps ?_ ?_ | refine ite_keeps_pair ?_ ?_ | refine cond_keeps _ _ _ (fun s => ?_) ?_ | refine (State.rim_keeps ..).trans ?_ | refine (directRead_keeps ..).trans ?_ | refine (State.tryAcc_keeps ..).trans ?_ | refine (State.raRead_keeps ..).trans ?_ | refine (State.setAlu_keeps ..).trans ?_ | refine (State.setAluScale_keeps ..).trans ?_ | refine (State.kFail_keeps ..).trans ?_ | split | dsimp only
theorem execKiNop_keeps (layer : Nat) (rim : Nat) (s : State) : (execKiNop layer rim s).From s := by
  unfold execKiNop
  repeat' with_reducible first | exact State.From.refl _ | assumption | refine next_keeps ?_ | refine ite_keeps_res ?_ ?_ | refine ite_keeps ?_ ?_ | refine (kernelIssue_keeps _ _ _ _ _  (fun _ _ s => ?_)).trans ?_ | refine (State.rim_keeps ..).trans ?_
theorem execKiLda_keeps (layer : Nat) (rim : Nat) (s : State) : (execKiLda layer rim s).From s := by
  unfold execKiLda
  repeat' with_reducible first | exact State.From.refl _ | assumption | refine (pair_keeps (kLoad_keeps ..) (by assumption)).trans ?_ | refine next_keeps ?_ | refine ite_keeps_res ?_ ?_ | refine ite_keeps ?_ ?_ | refine (kernelIssue_keeps _ _ _ _ _  (fun _ _ s => ?_)).trans ?_ | refine (State.rim_keeps ..).trans ?_ | refine (kLoad_keeps ..).trans ?_
theorem execKiLdb_keeps (layer : Nat) (rim : Nat) (s : State) : (execKiLdb layer rim s).From s := by
  unfold execKiLdb
  repeat' with_reducible first | exact State.From.refl _ | assumption | refine (pair_keeps (kLoad_keeps ..) (by assumption)).trans ?_ | refine next_keeps ?_ | refine ite_keeps_res ?_ ?_ | refine ite_keeps ?_ ?_ | refine (kernelIssue_keeps _ _ _ _ _  (fun _ _ s => ?_)).trans ?_ | refine (State.rim_keeps ..).trans ?_ | refine (kLoad_keeps ..).trans ?_
theorem State.kWrite_keeps (s : State) (c : KCtx) (a : Access) (segs : List SegOp) : (State.kWrite s c a segs).2.From s := by
  unfold State.kWrite
  repeat' with_reducible first | exact State.From.refl _ | assumption | refine (pair_keeps (State.tryRim_keeps ..) (by assumption)).trans ?_ | refine ite_keeps ?_ ?_ | refine ite_keeps_pair ?_ ?_ | refine cond_keeps _ _ _ (fun s => ?_) ?_ | refine (State.rim_keeps ..).trans ?_ | refine (State.charge_keeps ..).trans ?_ | refine (State.hubf_keeps ..).trans ?_ | refine (rimArb_keeps ..).trans ?_ | refine (State.tryRim_keeps ..).trans ?_ | split | dsimp only
theorem kStore_keeps (c : KCtx) (ins : Nat) (s : State) : (kStore c ins s).2.From s := by
  unfold kStore
  repeat' with_reducible first | exact State.From.refl _ | assumption | refine (pair_keeps (State.kWrite_keeps ..) (by assumption)).trans ?_ | refine ite_keeps ?_ ?_ | refine ite_keeps_pair ?_ ?_ | refine cond_keeps _ _ _ (fun s => ?_) ?_ | refine (State.kFail_keeps ..).trans ?_ | refine (State.kWrite_keeps ..).trans ?_ | split | dsimp only
theorem execKiSt_keeps (layer : Nat) (rim : Nat) (s : State) : (execKiSt layer rim s).From s := by
  unfold execKiSt
  repeat' with_reducible first | exact State.From.refl _ | assumption | refine (pair_keeps (kStore_keeps ..) (by assumption)).trans ?_ | refine next_keeps ?_ | refine ite_keeps_res ?_ ?_ | refine ite_keeps ?_ ?_ | refine (kernelIssue_keeps _ _ _ _ _  (fun _ _ s => ?_)).trans ?_ | refine (State.rim_keeps ..).trans ?_ | refine (kStore_keeps ..).trans ?_
theorem State.countLanes_keeps (s : State) (cs : List Conv) : (State.countLanes s cs).From s := by
  unfold State.countLanes
  repeat' with_reducible first | exact State.From.refl _ | assumption | refine ite_keeps ?_ ?_ | refine (State.bumpSat_keeps ..).trans ?_
theorem kLanes_keeps (f : Nat → Nat → Nat → Nat → Conv) (usesDst : Bool) (c : KCtx) (ins : Nat) (s : State) : (kLanes f usesDst c ins s).2.From s := by
  unfold kLanes
  repeat' with_reducible first | exact State.From.refl _ | assumption | refine ite_keeps ?_ ?_ | refine ite_keeps_pair ?_ ?_ | refine (State.setAlu_keeps ..).trans ?_ | refine (State.countLanes_keeps ..).trans ?_
theorem execKiAdd_keeps (layer : Nat) (rim : Nat) (s : State) : (execKiAdd layer rim s).From s := by
  unfold execKiAdd
  repeat' with_reducible first | exact State.From.refl _ | assumption | refine (pair_keeps (kLanes_keeps ..) (by assumption)).trans ?_ | refine next_keeps ?_ | refine ite_keeps_res ?_ ?_ | refine ite_keeps ?_ ?_ | refine (kernelIssue_keeps _ _ _ _ _  (fun _ _ s => ?_)).trans ?_ | refine (State.rim_keeps ..).trans ?_ | refine (kLanes_keeps ..).trans ?_
theorem execKiMul_keeps (layer : Nat) (rim : Nat) (s : State) : (execKiMul layer rim s).From s := by
  unfold execKiMul
  repeat' with_reducible first | exact State.From.refl _ | assumption | refine (pair_keeps (kLanes_keeps ..) (by assumption)).trans ?_ | refine next_keeps ?_ | refine ite_keeps_res ?_ ?_ | refine ite_keeps ?_ ?_ | refine (kernelIssue_keeps _ _ _ _ _  (fun _ _ s => ?_)).trans ?_ | refine (State.rim_keeps ..).trans ?_ | refine (kLanes_keeps ..).trans ?_
theorem execKiFma_keeps (layer : Nat) (rim : Nat) (s : State) : (execKiFma layer rim s).From s := by
  unfold execKiFma
  repeat' with_reducible first | exact State.From.refl _ | assumption | refine (pair_keeps (kLanes_keeps ..) (by assumption)).trans ?_ | refine next_keeps ?_ | refine ite_keeps_res ?_ ?_ | refine ite_keeps ?_ ?_ | refine (kernelIssue_keeps _ _ _ _ _  (fun _ _ s => ?_)).trans ?_ | refine (State.rim_keeps ..).trans ?_ | refine (kLanes_keeps ..).trans ?_
theorem execKiMin_keeps (layer : Nat) (rim : Nat) (s : State) : (execKiMin layer rim s).From s := by
  unfold execKiMin
  repeat' with_reducible first | exact State.From.refl _ | assumption | refine (pair_keeps (kLanes_keeps ..) (by assumption)).trans ?_ | refine next_keeps ?_ | refine ite_keeps_res ?_ ?_ | refine ite_keeps ?_ ?_ | refine (kernelIssue_keeps _ _ _ _ _  (fun _ _ s => ?_)).trans ?_ | refine (State.rim_keeps ..).trans ?_ | refine (kLanes_keeps ..).trans ?_
theorem execKiMax_keeps (layer : Nat) (rim : Nat) (s : State) : (execKiMax layer rim s).From s := by
  unfold execKiMax
  repeat' with_reducible first | exact State.From.refl _ | assumption | refine (pair_keeps (kLanes_keeps ..) (by assumption)).trans ?_ | refine next_keeps ?_ | refine ite_keeps_res ?_ ?_ | refine ite_keeps ?_ ?_ | refine (kernelIssue_keeps _ _ _ _ _  (fun _ _ s => ?_)).trans ?_ | refine (State.rim_keeps ..).trans ?_ | refine (kLanes_keeps ..).trans ?_
theorem kClip_keeps (c : KCtx) (ins : Nat) (s : State) : (kClip c ins s).2.From s := by
  unfold kClip
  repeat' with_reducible first | exact State.From.refl _ | assumption | refine (pair_keeps (kLanes_keeps ..) (by assumption)).trans ?_ | refine ite_keeps ?_ ?_ | refine ite_keeps_pair ?_ ?_ | refine (kLanes_keeps ..).trans ?_
theorem execKiClip_keeps (layer : Nat) (rim : Nat) (s : State) : (execKiClip layer rim s).From s := by
  unfold execKiClip
  repeat' with_reducible first | exact State.From.refl _ | assumption | refine (pair_keeps (kClip_keeps ..) (by assumption)).trans ?_ | refine next_keeps ?_ | refine ite_keeps_res ?_ ?_ | refine ite_keeps ?_ ?_ | refine (kernelIssue_keeps _ _ _ _ _  (fun _ _ s => ?_)).trans ?_ | refine (State.rim_keeps ..).trans ?_ | refine (kClip_keeps ..).trans ?_
theorem kConvert_keeps (c : KCtx) (ins : Nat) (s : State) : (kConvert c ins s).2.From s := by
  unfold kConvert
  repeat' with_reducible first | exact State.From.refl _ | assumption | refine ite_keeps ?_ ?_ | refine ite_keeps_pair ?_ ?_ | refine (State.rim_keeps ..).trans ?_ | refine (State.setAlu_keeps ..).trans ?_ | refine (State.setAluScale_keeps ..).trans ?_ | refine (State.countLanes_keeps ..).trans ?_ | split | dsimp only
theorem execKiCvt_keeps (layer : Nat) (rim : Nat) (s : State) : (execKiCvt layer rim s).From s := by
  unfold execKiCvt
  repeat' with_reducible first | exact State.From.refl _ | assumption | refine (pair_keeps (kConvert_keeps ..) (by assumption)).trans ?_ | refine next_keeps ?_ | refine ite_keeps_res ?_ ?_ | refine ite_keeps ?_ ?_ | refine (kernelIssue_keeps _ _ _ _ _  (fun _ _ s => ?_)).trans ?_ | refine (State.rim_keeps ..).trans ?_ | refine (kConvert_keeps ..).trans ?_
theorem kReduce_keeps (f : Nat → List FVal → Conv) (c : KCtx) (ins : Nat) (s : State) : (kReduce f c ins s).2.From s := by
  unfold kReduce
  repeat' with_reducible first | exact State.From.refl _ | assumption | refine ite_keeps ?_ ?_ | refine ite_keeps_pair ?_ ?_ | refine (State.rim_keeps ..).trans ?_ | split | dsimp only
theorem execKiRsum_keeps (layer : Nat) (rim : Nat) (s : State) : (execKiRsum layer rim s).From s := by
  unfold execKiRsum
  repeat' with_reducible first | exact State.From.refl _ | assumption | refine (pair_keeps (kReduce_keeps ..) (by assumption)).trans ?_ | refine next_keeps ?_ | refine ite_keeps_res ?_ ?_ | refine ite_keeps ?_ ?_ | refine (kernelIssue_keeps _ _ _ _ _  (fun _ _ s => ?_)).trans ?_ | refine (State.rim_keeps ..).trans ?_ | refine (kReduce_keeps ..).trans ?_
theorem execKiRmax_keeps (layer : Nat) (rim : Nat) (s : State) : (execKiRmax layer rim s).From s := by
  unfold execKiRmax
  repeat' with_reducible first | exact State.From.refl _ | assumption | refine (pair_keeps (kReduce_keeps ..) (by assumption)).trans ?_ | refine next_keeps ?_ | refine ite_keeps_res ?_ ?_ | refine ite_keeps ?_ ?_ | refine (kernelIssue_keeps _ _ _ _ _  (fun _ _ s => ?_)).trans ?_ | refine (State.rim_keeps ..).trans ?_ | refine (kReduce_keeps ..).trans ?_

end Sys2Proof.Machine
end

