-- ==== Sys2Proof/Laws/KeepMoverOps.lean ====
section
/-! SUPPORT. What no operation of Machine/MoverOps.lean changes: the configuration, the queue of waiting commands, the canonical form of memory. -/
namespace Sys2Proof.Machine

theorem State.mvChunk_keeps (s : State) (c : Nat) (j : MvJob) : (State.mvChunk s c j).From s := by
  unfold State.mvChunk
  repeat' with_reducible first | exact State.From.refl _ | assumption | refine (pair_keeps (State.askChunk_keeps ..) (by assumption)).trans ?_ | refine ite_keeps ?_ ?_ | refine cond_keeps _ _ _ (fun s => ?_) ?_ | refine (State.bumpSat_keeps ..).trans ?_ | refine (State.energy_keeps ..).trans ?_ | refine (State.askChunk_keeps ..).trans ?_ | refine (State.endChunk_keeps ..).trans ?_ | refine (State.chan_keeps ..).trans ?_ | split | dsimp only
theorem State.job_keeps (s : State) (c : Nat) (f : MvJob → MvJob) : (State.job s c f).From s := by
  unfold State.job
  repeat' with_reducible first | exact State.From.refl _ | assumption | refine ite_keeps ?_ ?_ | refine (State.chan_keeps ..).trans ?_ | split | dsimp only
theorem State.unfed_keeps (s : State) (c : Nat) : (State.unfed s c).From s := by
  unfold State.unfed
  repeat' with_reducible first | exact State.From.refl _ | assumption | refine ite_keeps ?_ ?_ | refine (State.job_keeps ..).trans ?_ | split | dsimp only
theorem State.mvGiveUp_keeps (s : State) (c : Nat) : (State.mvGiveUp s c).From s := by
  unfold State.mvGiveUp
  repeat' with_reducible first | exact State.From.refl _ | assumption | refine ite_keeps ?_ ?_ | refine (State.shareFree_keeps ..).trans ?_ | refine (State.chan_keeps ..).trans ?_ | split | dsimp only
theorem State.mvFail_keeps (s : State) (c : Nat) (st : Nat) (item : Nat) (nak : Nat) : (State.mvFail s c st item nak).From s := by
  unfold State.mvFail
  repeat' with_reducible first | exact State.From.refl _ | assumption | refine ite_keeps ?_ ?_ | refine (State.job_keeps ..).trans ?_ | refine (State.mvGiveUp_keeps ..).trans ?_ | split | dsimp only
theorem State.appendFail_keeps (s : State) (c : Nat) (st : Nat) (item : Nat) : (State.appendFail s c st item).From s := by
  unfold State.appendFail
  repeat' with_reducible first | exact State.From.refl _ | assumption | refine ite_keeps ?_ ?_ | refine (State.job_keeps ..).trans ?_ | refine (State.mvFail_keeps ..).trans ?_ | split | dsimp only
theorem State.mvReject_keeps (s : State) (c : Nat) (j : MvJob) (h : Nat) (gen : Nat) (st : Nat) (item : Nat) : (State.mvReject s c j h gen st item).From s := by
  unfold State.mvReject
  repeat' with_reducible first | exact State.From.refl _ | assumption | refine ite_keeps ?_ ?_ | refine (State.reject_keeps ..).trans ?_ | refine (State.mvFail_keeps ..).trans ?_ | split | dsimp only
theorem State.answerNow_keeps (s : State) (src : Src) (st : Nat) : (State.answerNow s src st).From s := by
  unfold State.answerNow
  repeat' with_reducible first | exact State.From.refl _ | assumption | refine ite_keeps ?_ ?_ | refine (State.hubf_keeps ..).trans ?_
theorem State.engLine_keeps (s : State) (c : Nat) (rim : Bool) : (State.engLine s c rim).From s := by
  unfold State.engLine
  repeat' with_reducible first | exact State.From.refl _ | assumption | refine ite_keeps ?_ ?_ | refine cond_keeps _ _ _ (fun s => ?_) ?_ | refine (State.bump_keeps ..).trans ?_ | split | dsimp only
theorem State.mvSend_keeps (s : State) (c : Nat) (src : Src) (op : AccOp) (line : Bool) (layer : Nat) (frame : Nat) (segs : List SegOp) (tid : Nat) (policy : Nat) (pk : Nat) (fill : Bool) (source : Nat) : (State.mvSend s c src op line layer frame segs tid policy pk fill source).2.From s := by
  unfold State.mvSend
  repeat' with_reducible first | exact State.From.refl _ | assumption | refine (pair_keeps (State.sendAccess_keeps ..) (by assumption)).trans ?_ | refine ite_keeps ?_ ?_ | refine ite_keeps_pair ?_ ?_ | refine (State.sendAccess_keeps ..).trans ?_ | refine (State.answerNow_keeps ..).trans ?_ | refine (State.engLine_keeps ..).trans ?_ | split | dsimp only
theorem State.mvWait_keeps (s : State) (c : Nat) (want : Want) (pos : Nat) (len : Nat) : (State.mvWait s c want pos len).From s := by
  unfold State.mvWait
  repeat' with_reducible first | exact State.From.refl _ | assumption | refine ite_keeps ?_ ?_ | refine (State.job_keeps ..).trans ?_
theorem State.mvPiece_keeps (s : State) (c : Nat) (j : MvJob) (h : Nat) (p : Piece) (op : AccOp) (data : Nat) (want : Want) (pos : Nat) : (State.mvPiece s c j h p op data want pos).2.From s := by
  unfold State.mvPiece
  repeat' with_reducible first | exact State.From.refl _ | assumption | refine (pair_keeps (State.mvSend_keeps ..) (by assumption)).trans ?_ | refine ite_keeps ?_ ?_ | refine ite_keeps_pair ?_ ?_ | refine (State.job_keeps ..).trans ?_ | refine (State.unfed_keeps ..).trans ?_ | refine (State.mvSend_keeps ..).trans ?_ | refine (State.mvWait_keeps ..).trans ?_ | split | dsimp only
theorem State.extAccess_keeps (s : State) (c : Nat) (unit : Nat) (tid : Nat) (wr : Bool) (direct : Bool) (a : Nat) (n : Nat) (data : Nat) : (State.extAccess s c unit tid wr direct a n data).2.From s := by
  unfold State.extAccess
  repeat' with_reducible first | exact State.From.refl _ | assumption | refine ite_keeps ?_ ?_ | refine ite_keeps_pair ?_ ?_ | refine (State.energy_keeps ..).trans ?_ | refine (State.chan_keeps ..).trans ?_ | refine (State.mpIssue_keeps ..).trans ?_ | refine (State.addLineJob_keeps ..).trans ?_ | refine (State.cacheRun_keeps ..).trans ?_ | refine (State.engLine_keeps ..).trans ?_ | refine (State.upd_mpRr_keeps ..).trans ?_ | (unfold State.From; exact ⟨rfl, rfl, id⟩) | split | dsimp only
theorem State.extRead_keeps (s : State) (c : Nat) (j : MvJob) (e : Ep) (pos : Nat) (left : Nat) (want : Want) : (State.extRead s c j e pos left want).2.From s := by
  unfold State.extRead
  repeat' with_reducible first | exact State.From.refl _ | assumption | refine (pair_keeps (State.extAccess_keeps ..) (by assumption)).trans ?_ | refine ite_keeps ?_ ?_ | refine ite_keeps_pair ?_ ?_ | refine (State.unfed_keeps ..).trans ?_ | refine (State.mvWait_keeps ..).trans ?_ | refine (State.extAccess_keeps ..).trans ?_ | split | dsimp only
theorem State.extWrite_keeps (s : State) (c : Nat) (j : MvJob) (e : Ep) (pos : Nat) (n : Nat) (data : Nat) (want : Want) : (State.extWrite s c j e pos n data want).2.From s := by
  unfold State.extWrite
  repeat' with_reducible first | exact State.From.refl _ | assumption | refine (pair_keeps (State.extAccess_keeps ..) (by assumption)).trans ?_ | refine ite_keeps ?_ ?_ | refine ite_keeps_pair ?_ ?_ | refine (State.job_keeps ..).trans ?_ | refine (State.mvWait_keeps ..).trans ?_ | refine (State.extAccess_keeps ..).trans ?_ | split | dsimp only
theorem State.stage_keeps (s : State) (c : Nat) (data : Nat) (n : Nat) : (State.stage s c data n).From s := by
  unfold State.stage
  repeat' with_reducible first | exact State.From.refl _ | assumption | refine ite_keeps ?_ ?_ | refine (State.job_keeps ..).trans ?_
theorem State.unstage_keeps (s : State) (c : Nat) (n : Nat) : (State.unstage s c n).From s := by
  unfold State.unstage
  repeat' with_reducible first | exact State.From.refl _ | assumption | refine ite_keeps ?_ ?_ | refine (State.job_keeps ..).trans ?_
theorem State.waitStage_keeps (s : State) (c : Nat) : (State.waitStage s c).From s := by
  unfold State.waitStage
  repeat' with_reducible first | exact State.From.refl _ | assumption | refine ite_keeps ?_ ?_ | refine (State.job_keeps ..).trans ?_ | split | dsimp only
theorem State.engUse_keeps (s : State) (c : Nat) (e : Ep) (hf : Nat) : (State.engUse s c e hf).From s := by
  unfold State.engUse
  repeat' with_reducible first | exact State.From.refl _ | assumption | refine ite_keeps ?_ ?_ | refine (State.upd_engScale_keeps ..).trans ?_ | (unfold State.From; exact ⟨rfl, rfl, id⟩) | split | dsimp only
theorem State.xferRead_keeps (s : State) (c : Nat) (j : MvJob) : (State.xferRead s c j).2.From s := by
  unfold State.xferRead
  repeat' with_reducible first | exact State.From.refl _ | assumption | refine (pair_keeps (State.extRead_keeps ..) (by assumption)).trans ?_ | refine (pair_keeps (State.mvPiece_keeps ..) (by assumption)).trans ?_ | refine (pair_keeps (State.mvSend_keeps ..) (by assumption)).trans ?_ | refine ite_keeps ?_ ?_ | refine ite_keeps_pair ?_ ?_ | refine cond_keeps _ _ _ (fun s => ?_) ?_ | refine (State.job_keeps ..).trans ?_ | refine (State.unfed_keeps ..).trans ?_ | refine (State.mvFail_keeps ..).trans ?_ | refine (State.mvSend_keeps ..).trans ?_ | refine (State.mvWait_keeps ..).trans ?_ | refine (State.mvPiece_keeps ..).trans ?_ | refine (State.extRead_keeps ..).trans ?_ | refine (State.waitStage_keeps ..).trans ?_ | refine (State.engUse_keeps ..).trans ?_ | split | dsimp only
theorem State.xferData_keeps (s : State) (c : Nat) (j : MvJob) (n : Nat) (hf : Nat) (row : Nat) : (State.xferData s c j n hf row).2.From s := by
  unfold State.xferData
  repeat' with_reducible first | exact State.From.refl _ | assumption | refine ite_keeps ?_ ?_ | refine ite_keeps_pair ?_ ?_ | refine (State.put_keeps ..).trans ?_ | refine (State.energy_keeps ..).trans ?_ | refine (State.job_keeps ..).trans ?_ | refine (State.unstage_keeps ..).trans ?_ | refine foldl_keeps _ _ _ (fun s x => ?_) ?_ | refine foldl_keeps2 _ _ _ (fun s x => ?_) ?_ | refine foldl_keeps3 _ _ _ (fun s x => ?_) ?_ | split | dsimp only
theorem State.held_keeps (s : State) (t : State) (c : Nat) : (State.held s t c).From s := by
  unfold State.held
  repeat' with_reducible first | exact State.From.refl _ | assumption | refine ite_keeps ?_ ?_ | refine getD_keeps (fun t h => ?_) ?_ | refine (State.chan_keeps ..).trans ?_ | refine (State.job_keeps ..).trans ?_ | refine (State.upd_shareHeld_keeps ..).trans ?_ | (unfold State.From; exact ⟨rfl, rfl, id⟩) | split | dsimp only
theorem State.xferStep_keeps (s : State) (c : Nat) (j : MvJob) : (State.xferStep s c j).2.From s := by
  unfold State.xferStep
  repeat' with_reducible first | exact State.From.refl _ | assumption | refine (pair_keeps (State.xferData_keeps ..) (by assumption)).trans ?_ | refine (pair_keeps (State.xferRead_keeps ..) (by assumption)).trans ?_ | refine (pair_keeps (State.extWrite_keeps ..) (by assumption)).trans ?_ | refine (pair_keeps (State.mvPiece_keeps ..) (by assumption)).trans ?_ | refine (pair_keeps (State.mvSend_keeps ..) (by assumption)).trans ?_ | refine ite_keeps ?_ ?_ | refine ite_keeps_pair ?_ ?_ | refine cond_keeps _ _ _ (fun s => ?_) ?_ | refine (State.sendBwr_keeps ..).trans ?_ | refine (State.job_keeps ..).trans ?_ | refine (State.unfed_keeps ..).trans ?_ | refine (State.mvFail_keeps ..).trans ?_ | refine (State.mvSend_keeps ..).trans ?_ | refine (State.mvWait_keeps ..).trans ?_ | refine (State.mvPiece_keeps ..).trans ?_ | refine (State.extWrite_keeps ..).trans ?_ | refine (State.xferRead_keeps ..).trans ?_ | refine (State.xferData_keeps ..).trans ?_ | refine (State.held_keeps ..).trans ?_ | split | dsimp only
theorem State.sendNtfy_keeps (s : State) (c : Nat) (j : MvJob) (cls : Nat) : (State.sendNtfy s c j cls).From s := by
  unfold State.sendNtfy
  repeat' with_reducible first | exact State.From.refl _ | assumption | refine (pair_keeps (State.openTag_keeps ..) (by assumption)).trans ?_ | refine ite_keeps ?_ ?_ | refine (State.openTag_keeps ..).trans ?_ | refine (State.sendData_keeps ..).trans ?_ | split | dsimp only
theorem State.mvOver_keeps (s : State) (c : Nat) (j : MvJob) : (State.mvOver s c j).From s := by
  unfold State.mvOver
  repeat' with_reducible first | exact State.From.refl _ | assumption | refine ite_keeps ?_ ?_ | refine cond_keeps _ _ _ (fun s => ?_) ?_ | refine (State.job_keeps ..).trans ?_ | refine (State.sendNtfy_keeps ..).trans ?_ | split | dsimp only
theorem State.slotAccess_keeps (s : State) (c : Nat) (j : MvJob) (ring : Nat) (slot : Nat) (k : Nat) (n : Nat) (data : Nat) (op : AccOp) (want : Want) : (State.slotAccess s c j ring slot k n data op want).2.From s := by
  unfold State.slotAccess
  repeat' with_reducible first | exact State.From.refl _ | assumption | refine (pair_keeps (State.mvPiece_keeps ..) (by assumption)).trans ?_ | refine ite_keeps ?_ ?_ | refine ite_keeps_pair ?_ ?_ | refine (State.mvReject_keeps ..).trans ?_ | refine (State.mvPiece_keeps ..).trans ?_ | split | dsimp only
theorem State.appended_keeps (s : State) (c : Nat) (j : MvJob) : (State.appended s c j).From s := by
  unfold State.appended
  repeat' with_reducible first | exact State.From.refl _ | assumption | refine ite_keeps ?_ ?_ | refine (State.job_keeps ..).trans ?_ | split | dsimp only
theorem State.coreFill_keeps (s : State) (c : Nat) (mark : Nat) (ring : Nat) (slot : Nat) : (State.coreFill s c mark ring slot).From s := by
  unfold State.coreFill
  repeat' with_reducible first | exact State.From.refl _ | assumption | refine ite_keeps ?_ ?_ | refine (State.fillSlot_keeps ..).trans ?_ | refine (State.landed_keeps ..).trans ?_ | split | dsimp only
theorem State.slotDead_keeps (s : State) (c : Nat) (mark : Nat) (j : MvJob) : (State.slotDead s c mark j).From s := by
  unfold State.slotDead
  repeat' with_reducible first | exact State.From.refl _ | assumption | refine ite_keeps ?_ ?_ | refine getD_keeps (fun t h => ?_) ?_ | refine (State.job_keeps ..).trans ?_ | refine (State.coreFill_keeps ..).trans ?_ | split | dsimp only
theorem State.appendStep_keeps (s : State) (c : Nat) (j : MvJob) : (State.appendStep s c j).2.From s := by
  unfold State.appendStep
  repeat' with_reducible first | exact State.From.refl _ | assumption | refine (pair_keeps (State.slotAccess_keeps ..) (by assumption)).trans ?_ | refine ite_keeps ?_ ?_ | refine ite_keeps_pair ?_ ?_ | refine getD_keeps (fun t h => ?_) ?_ | refine (State.mark_keeps ..).trans ?_ | refine (State.job_keeps ..).trans ?_ | refine (State.appendFail_keeps ..).trans ?_ | refine (State.slotAccess_keeps ..).trans ?_ | refine (State.appended_keeps ..).trans ?_ | refine (State.coreFill_keeps ..).trans ?_ | refine (State.slotDead_keeps ..).trans ?_ | split | dsimp only
theorem State.mvStep_keeps (s : State) (c : Nat) (j : MvJob) : (State.mvStep s c j).2.From s := by
  unfold State.mvStep
  repeat' with_reducible first | exact State.From.refl _ | assumption | refine (pair_keeps (State.appendStep_keeps ..) (by assumption)).trans ?_ | refine (pair_keeps (State.slotAccess_keeps ..) (by assumption)).trans ?_ | refine (pair_keeps (State.xferStep_keeps ..) (by assumption)).trans ?_ | refine (pair_keeps (State.xferRead_keeps ..) (by assumption)).trans ?_ | refine (pair_keeps (State.mvPiece_keeps ..) (by assumption)).trans ?_ | refine (pair_keeps (State.pushRec_keeps ..) (by assumption)).trans ?_ | refine (pair_keeps (State.takeCursor_keeps ..) (by assumption)).trans ?_ | refine ite_keeps ?_ ?_ | refine ite_keeps_pair ?_ ?_ | refine cond_keeps _ _ _ (fun s => ?_) ?_ | refine getD_keeps (fun t h => ?_) ?_ | refine (State.emptySlot_keeps ..).trans ?_ | refine (State.takeCursor_keeps ..).trans ?_ | refine (State.pushRec_keeps ..).trans ?_ | refine (State.job_keeps ..).trans ?_ | refine (State.mvFail_keeps ..).trans ?_ | refine (State.mvReject_keeps ..).trans ?_ | refine (State.mvPiece_keeps ..).trans ?_ | refine (State.unstage_keeps ..).trans ?_ | refine (State.waitStage_keeps ..).trans ?_ | refine (State.xferRead_keeps ..).trans ?_ | refine (State.xferStep_keeps ..).trans ?_ | refine (State.mvOver_keeps ..).trans ?_ | refine (State.slotAccess_keeps ..).trans ?_ | refine (State.appendStep_keeps ..).trans ?_ | split | dsimp only
theorem State.dropAppends_keeps (s : State) (ring : Nat) : (State.dropAppends s ring).From s := by
  unfold State.dropAppends
  repeat' with_reducible first | exact State.From.refl _ | assumption | refine ite_keeps ?_ ?_ | refine cond_keeps _ _ _ (fun s => ?_) ?_ | refine each_keeps _ _ _ (fun s x => ?_) ?_ | refine (State.appendFail_keeps ..).trans ?_ | split | dsimp only

end Sys2Proof.Machine
end

