-- ==== Sys2Proof/Laws/KeepSync.lean ====
section
/-! SUPPORT. What no operation of Machine/Sync.lean changes: the configuration, the queue of waiting commands, the canonical form of memory. -/
namespace Sys2Proof.Machine

theorem sqTake_keeps (s : State) (x : Nat) (w : SqWord) : (sqTake s x w).From s := by
  unfold sqTake
  repeat' with_reducible first | exact State.From.refl _ | assumption | refine next_keeps ?_ | refine ite_keeps_res ?_ ?_ | refine ite_keeps ?_ ?_ | refine (State.bump_keeps ..).trans ?_ | refine (State.port_keeps ..).trans ?_ | refine (State.sqRun_keeps ..).trans ?_ | split | dsimp only
theorem execSqNop_keeps (x : Nat) (w : SqWord) (s : State) : (execSqNop x w s).From s := by
  unfold execSqNop
  repeat' with_reducible first | exact State.From.refl _ | assumption | refine next_keeps ?_ | refine ite_keeps_res ?_ ?_ | refine ite_keeps ?_ ?_ | refine (sqTake_keeps ..).trans ?_ | split | dsimp only
theorem execSqAdd_keeps (x : Nat) (w : SqWord) (s : State) : (execSqAdd x w s).From s := by
  unfold execSqAdd
  repeat' with_reducible first | exact State.From.refl _ | assumption | refine next_keeps ?_ | refine ite_keeps_res ?_ ?_ | refine ite_keeps ?_ ?_ | refine (sqTake_keeps ..).trans ?_
theorem execSqSub_keeps (x : Nat) (w : SqWord) (s : State) : (execSqSub x w s).From s := by
  unfold execSqSub
  repeat' with_reducible first | exact State.From.refl _ | assumption | refine next_keeps ?_ | refine ite_keeps_res ?_ ?_ | refine ite_keeps ?_ ?_ | refine (sqTake_keeps ..).trans ?_
theorem execSqSet_keeps (x : Nat) (w : SqWord) (s : State) : (execSqSet x w s).From s := by
  unfold execSqSet
  repeat' with_reducible first | exact State.From.refl _ | assumption | refine next_keeps ?_ | refine ite_keeps_res ?_ ?_ | refine ite_keeps ?_ ?_ | refine (sqTake_keeps ..).trans ?_
theorem execSqWatch_keeps (x : Nat) (w : SqWord) (s : State) : (execSqWatch x w s).From s := by
  unfold execSqWatch
  repeat' with_reducible first | exact State.From.refl _ | assumption | refine next_keeps ?_ | refine ite_keeps_res ?_ ?_ | refine ite_keeps ?_ ?_ | refine (sqTake_keeps ..).trans ?_
theorem execSqUnwatch_keeps (x : Nat) (w : SqWord) (s : State) : (execSqUnwatch x w s).From s := by
  unfold execSqUnwatch
  repeat' with_reducible first | exact State.From.refl _ | assumption | refine next_keeps ?_ | refine ite_keeps_res ?_ ?_ | refine ite_keeps ?_ ?_ | refine (sqTake_keeps ..).trans ?_
theorem execSqRead_keeps (x : Nat) (w : SqWord) (s : State) : (execSqRead x w s).From s := by
  unfold execSqRead
  repeat' with_reducible first | exact State.From.refl _ | assumption | refine next_keeps ?_ | refine ite_keeps_res ?_ ?_ | refine ite_keeps ?_ ?_ | refine (sqTake_keeps ..).trans ?_
theorem execSqArrive_keeps (x : Nat) (w : SqWord) (s : State) : (execSqArrive x w s).From s := by
  unfold execSqArrive
  repeat' with_reducible first | exact State.From.refl _ | assumption | refine next_keeps ?_ | refine ite_keeps_res ?_ ?_ | refine ite_keeps ?_ ?_ | refine (sqTake_keeps ..).trans ?_
theorem execSqReleaseEffect_keeps (x : Nat) (s : State) : (execSqReleaseEffect x s).From s := by
  unfold execSqReleaseEffect
  repeat' with_reducible first | exact State.From.refl _ | assumption | refine next_keeps ?_ | refine ite_keeps_res ?_ ?_ | refine ite_keeps ?_ ?_ | refine (State.sqDrain_keeps ..).trans ?_
theorem execSwTransfer_keeps (x : Nat) (s : State) : (execSwTransfer x s).From s := by
  unfold execSwTransfer
  repeat' with_reducible first | exact State.From.refl _ | assumption | refine next_keeps ?_ | refine ite_keeps_res ?_ ?_ | refine ite_keeps ?_ ?_ | refine (State.port_keeps ..).trans ?_ | refine (State.sw_keeps ..).trans ?_ | refine (State.sqFree_keeps ..).trans ?_ | split | dsimp only
theorem State.syncRefused_keeps (s : State) (m : Master) (base : Nat) (reg : Nat) : (State.syncRefused s m base reg).From s := by
  unfold State.syncRefused
  repeat' with_reducible first | exact State.From.refl _ | assumption | refine ite_keeps ?_ ?_ | refine (State.put_keeps ..).trans ?_ | refine (State.refused_keeps ..).trans ?_
theorem ctrCmd_keeps (s : State) (m : Master) (op : Nat) (c : Nat) (v : Nat) : (ctrCmd s m op c v).From s := by
  unfold ctrCmd
  repeat' with_reducible first | exact State.From.refl _ | assumption | refine next_keeps ?_ | refine ite_keeps_res ?_ ?_ | refine ite_keeps ?_ ?_ | refine (State.wr_keeps ..).trans ?_ | refine (State.gate_keeps _ _ _ _ _ _  (fun  s => ?_)).trans ?_ | refine (State.ctrOp_keeps ..).trans ?_ | refine (State.syncRefused_keeps ..).trans ?_ | split | dsimp only
theorem execCtrCmdAdd_keeps (m : Master) (c : Nat) (v : Nat) (s : State) : (execCtrCmdAdd m c v s).From s := by
  unfold execCtrCmdAdd
  repeat' with_reducible first | exact State.From.refl _ | assumption | refine next_keeps ?_ | refine ite_keeps_res ?_ ?_ | refine ite_keeps ?_ ?_ | refine (ctrCmd_keeps ..).trans ?_
theorem execCtrCmdSub_keeps (m : Master) (c : Nat) (v : Nat) (s : State) : (execCtrCmdSub m c v s).From s := by
  unfold execCtrCmdSub
  repeat' with_reducible first | exact State.From.refl _ | assumption | refine next_keeps ?_ | refine ite_keeps_res ?_ ?_ | refine ite_keeps ?_ ?_ | refine (ctrCmd_keeps ..).trans ?_
theorem execCtrCmdSet_keeps (m : Master) (c : Nat) (v : Nat) (s : State) : (execCtrCmdSet m c v s).From s := by
  unfold execCtrCmdSet
  repeat' with_reducible first | exact State.From.refl _ | assumption | refine next_keeps ?_ | refine ite_keeps_res ?_ ?_ | refine ite_keeps ?_ ?_ | refine (ctrCmd_keeps ..).trans ?_
theorem tagCmd_keeps (s : State) (m : Master) (op : Nat) (ring : Nat) (slot : Nat) : (tagCmd s m op ring slot).From s := by
  unfold tagCmd
  repeat' with_reducible first | exact State.From.refl _ | assumption | refine next_keeps ?_ | refine ite_keeps_res ?_ ?_ | refine ite_keeps ?_ ?_ | refine (State.wr_keeps ..).trans ?_ | refine (State.gate_keeps _ _ _ _ _ _  (fun  s => ?_)).trans ?_ | refine (State.fillSlot_keeps ..).trans ?_ | refine (State.emptySlot_keeps ..).trans ?_ | refine (State.syncRefused_keeps ..).trans ?_ | split | dsimp only
theorem execTagCmdSetFull_keeps (m : Master) (ring : Nat) (slot : Nat) (s : State) : (execTagCmdSetFull m ring slot s).From s := by
  unfold execTagCmdSetFull
  repeat' with_reducible first | exact State.From.refl _ | assumption | refine next_keeps ?_ | refine ite_keeps_res ?_ ?_ | refine ite_keeps ?_ ?_ | refine (tagCmd_keeps ..).trans ?_
theorem execTagCmdSetEmpty_keeps (m : Master) (ring : Nat) (slot : Nat) (s : State) : (execTagCmdSetEmpty m ring slot s).From s := by
  unfold execTagCmdSetEmpty
  repeat' with_reducible first | exact State.From.refl _ | assumption | refine next_keeps ?_ | refine ite_keeps_res ?_ ?_ | refine ite_keeps ?_ ?_ | refine (tagCmd_keeps ..).trans ?_
theorem execBarrive_keeps (m : Master) (bar : Nat) (n : Nat) (s : State) : (execBarrive m bar n s).From s := by
  unfold execBarrive
  repeat' with_reducible first | exact State.From.refl _ | assumption | refine next_keeps ?_ | refine ite_keeps_res ?_ ?_ | refine ite_keeps ?_ ?_ | refine (State.wr_keeps ..).trans ?_ | refine (State.gate_keeps _ _ _ _ _ _  (fun  s => ?_)).trans ?_ | refine (State.arrive_keeps ..).trans ?_ | refine (State.syncRefused_keeps ..).trans ?_ | split | dsimp only
theorem State.barConfig_keeps (s : State) (n : Nat) (w : Word32) : (State.barConfig s n w).From s := by
  unfold State.barConfig
  repeat' with_reducible first | exact State.From.refl _ | assumption | refine ite_keeps ?_ ?_ | refine (State.barPut_keeps ..).trans ?_ | split | dsimp only
theorem execBarrierEnable_keeps (m : Master) (bar : Nat) (w : Word32) (s : State) : (execBarrierEnable m bar w s).From s := by
  unfold execBarrierEnable
  repeat' with_reducible first | exact State.From.refl _ | assumption | refine next_keeps ?_ | refine ite_keeps_res ?_ ?_ | refine ite_keeps ?_ ?_ | refine (State.gate_keeps _ _ _ _ _ _  (fun  s => ?_)).trans ?_ | refine (State.put_keeps ..).trans ?_ | refine (State.refused_keeps ..).trans ?_ | refine (State.barPut_keeps ..).trans ?_ | refine (State.barConfig_keeps ..).trans ?_ | split | dsimp only
theorem execBarrierDisable_keeps (m : Master) (bar : Nat) (w : Word32) (s : State) : (execBarrierDisable m bar w s).From s := by
  unfold execBarrierDisable
  repeat' with_reducible first | exact State.From.refl _ | assumption | refine next_keeps ?_ | refine ite_keeps_res ?_ ?_ | refine ite_keeps ?_ ?_ | refine (State.gate_keeps _ _ _ _ _ _  (fun  s => ?_)).trans ?_ | refine (State.barPut_keeps ..).trans ?_ | refine (State.barReset_keeps ..).trans ?_ | refine (State.barConfig_keeps ..).trans ?_ | split | dsimp only
theorem execBarrierReset_keeps (m : Master) (bar : Nat) (s : State) : (execBarrierReset m bar s).From s := by
  unfold execBarrierReset
  repeat' with_reducible first | exact State.From.refl _ | assumption | refine next_keeps ?_ | refine ite_keeps_res ?_ ?_ | refine ite_keeps ?_ ?_ | refine (State.gate_keeps _ _ _ _ _ _  (fun  s => ?_)).trans ?_ | refine (State.barReset_keeps ..).trans ?_
theorem State.ringLocked_keeps (s : State) (m : Master) (i : Nat) (reg : Nat) : (State.ringLocked s m i reg).From s := by
  unfold State.ringLocked
  repeat' with_reducible first | exact State.From.refl _ | assumption | refine ite_keeps ?_ ?_ | refine (State.put_keeps ..).trans ?_ | refine (State.refused_keeps ..).trans ?_
theorem State.ringFresh_keeps (s : State) (i : Nat) : (State.ringFresh s i).From s := by
  unfold State.ringFresh
  repeat' with_reducible first | exact State.From.refl _ | assumption | refine ite_keeps ?_ ?_ | refine each_keeps _ _ _ (fun s x => ?_) ?_ | refine (State.wr_keeps ..).trans ?_ | refine (State.setTag_keeps ..).trans ?_
theorem execRingEnable_keeps (m : Master) (ring : Nat) (w : Word32) (s : State) : (execRingEnable m ring w s).From s := by
  unfold execRingEnable
  repeat' with_reducible first | exact State.From.refl _ | assumption | refine next_keeps ?_ | refine ite_keeps_res ?_ ?_ | refine ite_keeps ?_ ?_ | refine cond_keeps _ _ _ (fun s => ?_) ?_ | refine (State.gate_keeps _ _ _ _ _ _  (fun  s => ?_)).trans ?_ | refine (State.wr_keeps ..).trans ?_ | refine (State.put_keeps ..).trans ?_ | refine (State.refused_keeps ..).trans ?_ | refine (State.ringPut_keeps ..).trans ?_ | refine (State.ringLocked_keeps ..).trans ?_ | refine (State.ringFresh_keeps ..).trans ?_ | split | dsimp only
theorem execRingDisable_keeps (m : Master) (ring : Nat) (w : Word32) (s : State) : (execRingDisable m ring w s).From s := by
  unfold execRingDisable
  repeat' with_reducible first | exact State.From.refl _ | assumption | refine next_keeps ?_ | refine ite_keeps_res ?_ ?_ | refine ite_keeps ?_ ?_ | refine cond_keeps _ _ _ (fun s => ?_) ?_ | refine each_keeps _ _ _ (fun s x => ?_) ?_ | refine (State.wr_keeps ..).trans ?_ | refine (State.gate_keeps _ _ _ _ _ _  (fun  s => ?_)).trans ?_ | refine (State.syn_keeps ..).trans ?_ | refine (State.ringPut_keeps ..).trans ?_ | refine (State.answerReq_keeps ..).trans ?_ | refine (State.dropAppends_keeps ..).trans ?_ | refine (State.ringLocked_keeps ..).trans ?_ | refine (State.ringFresh_keeps ..).trans ?_ | split | dsimp only
theorem execSlotFill_keeps (x : Nat) (tag : Nat) (s : State) : (execSlotFill x tag s).From s := by
  unfold execSlotFill
  repeat' with_reducible first | exact State.From.refl _ | assumption | refine next_keeps ?_ | refine ite_keeps_res ?_ ?_ | refine ite_keeps ?_ ?_ | refine cond_keeps _ _ _ (fun s => ?_) ?_ | refine (State.syn_keeps ..).trans ?_ | refine (State.fillSlot_keeps ..).trans ?_ | refine (State.landed_keeps ..).trans ?_ | split | dsimp only
theorem execSlotEmpty_keeps (x : Nat) (tag : Nat) (s : State) : (execSlotEmpty x tag s).From s := by
  unfold execSlotEmpty
  repeat' with_reducible first | exact State.From.refl _ | assumption | refine next_keeps ?_ | refine ite_keeps_res ?_ ?_ | refine ite_keeps ?_ ?_ | refine cond_keeps _ _ _ (fun s => ?_) ?_ | refine (State.syn_keeps ..).trans ?_ | refine (State.emptySlot_keeps ..).trans ?_ | split | dsimp only
theorem execSlotTimeout_keeps (x : Nat) (tag : Nat) (s : State) : (execSlotTimeout x tag s).From s := by
  unfold execSlotTimeout
  repeat' with_reducible first | exact State.From.refl _ | assumption | refine next_keeps ?_ | refine ite_keeps_res ?_ ?_ | refine ite_keeps ?_ ?_ | refine (State.bumpSat_keeps ..).trans ?_ | refine (State.unpark_keeps ..).trans ?_ | refine (State.answerReq_keeps ..).trans ?_ | split | dsimp only
theorem execParkRetryProbe_keeps (x : Nat) (tag : Nat) (s : State) : (execParkRetryProbe x tag s).From s := by
  unfold execParkRetryProbe
  repeat' with_reducible first | exact State.From.refl _ | assumption | refine next_keeps ?_ | refine ite_keeps_res ?_ ?_ | refine ite_keeps ?_ ?_ | refine (State.probe_keeps ..).trans ?_ | split | dsimp only

end Sys2Proof.Machine
end

