-- ==== Sys2Proof/Laws/KeepMover.lean ====
section
/-! SUPPORT. What no operation of Machine/Mover.lean changes: the configuration, the queue of waiting commands, the canonical form of memory. -/
namespace Sys2Proof.Machine

theorem State.ackCons_keeps (s : State) (c : Nat) (cons : Nat) : (State.ackCons s c cons).2.From s := by
  unfold State.ackCons
  repeat' with_reducible first | exact State.From.refl _ | assumption | refine ite_keeps ?_ ?_ | refine ite_keeps_pair ?_ ?_ | refine (State.put_keeps ..).trans ?_ | refine (State.irq_keeps ..).trans ?_ | split | dsimp only
theorem State.postChain_keeps (s : State) (c : Nat) (words : List Nat) (scrub : Bool) : (State.postChain s c words scrub).From s := by
  unfold State.postChain
  repeat' with_reducible first | exact State.From.refl _ | assumption | refine ite_keeps ?_ ?_ | refine (State.hubf_keeps ..).trans ?_ | refine (State.chan_keeps ..).trans ?_ | refine (State.postRecord_keeps ..).trans ?_ | refine (State.scrubLost_keeps ..).trans ?_ | split | dsimp only
theorem State.subTake_keeps (s : State) (c : Nat) (words : List Nat) (em1 : Bool) : (State.subTake s c words em1).From s := by
  unfold State.subTake
  repeat' with_reducible first | exact State.From.refl _ | assumption | refine (pair_keeps (State.ackCons_keeps ..) (by assumption)).trans ?_ | refine ite_keeps ?_ ?_ | refine getD_keeps (fun t h => ?_) ?_ | refine (State.put_keeps ..).trans ?_ | refine (State.ackCons_keeps ..).trans ?_ | refine (State.postChain_keeps ..).trans ?_ | split | dsimp only
theorem subWord_keeps (types : List Nat) (c : Nat) (w0 : Nat) (w1 : Nat) (w2 : Nat) (w3 : Nat) (s : State) : (subWord types c w0 w1 w2 w3 s).From s := by
  unfold subWord
  repeat' with_reducible first | exact State.From.refl _ | assumption | refine next_keeps ?_ | refine ite_keeps_res ?_ ?_ | refine ite_keeps ?_ ?_ | refine (State.subTake_keeps ..).trans ?_ | split | dsimp only
theorem execSubNop_keeps (c : Nat) (w0 : Nat) (w1 : Nat) (w2 : Nat) (w3 : Nat) (s : State) : (execSubNop c w0 w1 w2 w3 s).From s := by
  unfold execSubNop
  repeat' with_reducible first | exact State.From.refl _ | assumption | refine next_keeps ?_ | refine ite_keeps_res ?_ ?_ | refine ite_keeps ?_ ?_ | refine (subWord_keeps ..).trans ?_
theorem execSubPost_keeps (c : Nat) (w0 : Nat) (w1 : Nat) (w2 : Nat) (w3 : Nat) (s : State) : (execSubPost c w0 w1 w2 w3 s).From s := by
  unfold execSubPost
  repeat' with_reducible first | exact State.From.refl _ | assumption | refine next_keeps ?_ | refine ite_keeps_res ?_ ?_ | refine ite_keeps ?_ ?_ | refine (subWord_keeps ..).trans ?_
theorem execSubCplack_keeps (c : Nat) (w0 : Nat) (w1 : Nat) (w2 : Nat) (w3 : Nat) (s : State) : (execSubCplack c w0 w1 w2 w3 s).From s := by
  unfold execSubCplack
  repeat' with_reducible first | exact State.From.refl _ | assumption | refine next_keeps ?_ | refine ite_keeps_res ?_ ?_ | refine ite_keeps ?_ ?_ | refine (subWord_keeps ..).trans ?_
theorem execSubScrub_keeps (m : Master) (c : Nat) (w0 : Nat) (w1 : Nat) (w2 : Nat) (w3 : Nat) (s : State) : (execSubScrub m c w0 w1 w2 w3 s).From s := by
  unfold execSubScrub
  repeat' with_reducible first | exact State.From.refl _ | assumption | refine next_keeps ?_ | refine ite_keeps_res ?_ ?_ | refine ite_keeps ?_ ?_ | refine cond_keeps _ _ _ (fun s => ?_) ?_ | refine (State.gate_keeps _ _ _ _ _ _  (fun  s => ?_)).trans ?_ | refine (State.subTake_keeps ..).trans ?_ | split | dsimp only
theorem execChannelPostWrite_keeps (m : Master) (c : Nat) (w3 : Word32) (s : State) : (execChannelPostWrite m c w3 s).From s := by
  unfold execChannelPostWrite
  repeat' with_reducible first | exact State.From.refl _ | assumption | refine next_keeps ?_ | refine ite_keeps_res ?_ ?_ | refine ite_keeps ?_ ?_ | refine (State.gate_keeps _ _ _ _ _ _  (fun  s => ?_)).trans ?_ | refine (State.refused_keeps ..).trans ?_ | refine (State.subTake_keeps ..).trans ?_ | split | dsimp only
theorem execCridxConsWrite_keeps (m : Master) (c : Nat) (cons : Nat) (s : State) : (execCridxConsWrite m c cons s).From s := by
  unfold execCridxConsWrite
  repeat' with_reducible first | exact State.From.refl _ | assumption | refine (pair_keeps (State.ackCons_keeps ..) (by assumption)).trans ?_ | refine next_keeps ?_ | refine ite_keeps_res ?_ ?_ | refine ite_keeps ?_ ?_ | refine (State.gate_keeps _ _ _ _ _ _  (fun  s => ?_)).trans ?_ | refine (State.refused_keeps ..).trans ?_ | refine (State.ackCons_keeps ..).trans ?_ | split | dsimp only
theorem State.addJob_keeps (s : State) (c : Nat) (acc : Nat) (words : Option (List Nat)) (scrub : Bool) (st : Nat) : (State.addJob s c acc words scrub st).From s := by
  unfold State.addJob
  repeat' with_reducible first | exact State.From.refl _ | assumption | refine ite_keeps ?_ ?_ | refine getD_keeps (fun t h => ?_) ?_ | refine (State.chan_keeps ..).trans ?_ | split | dsimp only
theorem State.accept_keeps (s : State) : (State.accept s).2.From s := by
  unfold State.accept
  repeat' with_reducible first | exact State.From.refl _ | assumption | refine ite_keeps ?_ ?_ | refine ite_keeps_pair ?_ ?_ | refine (State.hubf_keeps ..).trans ?_ | split | dsimp only
theorem State.fetching_keeps (s : State) (c : Nat) (acc : Nat) (h : Nat) : (State.fetching s c acc h).From s := by
  unfold State.fetching
  repeat' with_reducible first | exact State.From.refl _ | assumption | refine (pair_keeps (State.accept_keeps ..) (by assumption)).trans ?_ | refine ite_keeps ?_ ?_ | refine (State.chan_keeps ..).trans ?_ | refine (State.accept_keeps ..).trans ?_ | split | dsimp only
theorem execDescriptorFetch_keeps (c : Nat) (s : State) : (execDescriptorFetch c s).From s := by
  unfold execDescriptorFetch
  repeat' with_reducible first | exact State.From.refl _ | assumption | refine (pair_keeps (State.extAccess_keeps ..) (by assumption)).trans ?_ | refine (pair_keeps (State.mvSend_keeps ..) (by assumption)).trans ?_ | refine next_keeps ?_ | refine ite_keeps_res ?_ ?_ | refine ite_keeps ?_ ?_ | refine cond_keeps _ _ _ (fun s => ?_) ?_ | refine getD_keeps (fun t h => ?_) ?_ | refine (State.reject_keeps ..).trans ?_ | refine (State.answerNow_keeps ..).trans ?_ | refine (State.mvSend_keeps ..).trans ?_ | refine (State.extAccess_keeps ..).trans ?_ | refine (State.addJob_keeps ..).trans ?_ | refine (State.fetching_keeps ..).trans ?_ | split | dsimp only
theorem startDesc_keeps (c : Nat) (op : Nat) (s : State) : (startDesc c op s).From s := by
  unfold startDesc
  repeat' with_reducible first | exact State.From.refl _ | assumption | refine (pair_keeps (State.accept_keeps ..) (by assumption)).trans ?_ | refine next_keeps ?_ | refine ite_keeps_res ?_ ?_ | refine ite_keeps ?_ ?_ | refine cond_keeps _ _ _ (fun s => ?_) ?_ | refine (State.nrg_keeps ..).trans ?_ | refine (State.reject_keeps ..).trans ?_ | refine (State.job_keeps ..).trans ?_ | refine (State.accept_keeps ..).trans ?_ | split | dsimp only
theorem execDescNop_keeps (c : Nat) (s : State) : (execDescNop c s).From s := by
  unfold execDescNop
  repeat' with_reducible first | exact State.From.refl _ | assumption | refine next_keeps ?_ | refine ite_keeps_res ?_ ?_ | refine ite_keeps ?_ ?_ | refine (startDesc_keeps ..).trans ?_
theorem execDescCopy_keeps (c : Nat) (s : State) : (execDescCopy c s).From s := by
  unfold execDescCopy
  repeat' with_reducible first | exact State.From.refl _ | assumption | refine next_keeps ?_ | refine ite_keeps_res ?_ ?_ | refine ite_keeps ?_ ?_ | refine (startDesc_keeps ..).trans ?_
theorem execDescFill_keeps (c : Nat) (s : State) : (execDescFill c s).From s := by
  unfold execDescFill
  repeat' with_reducible first | exact State.From.refl _ | assumption | refine next_keeps ?_ | refine ite_keeps_res ?_ ?_ | refine ite_keeps ?_ ?_ | refine (startDesc_keeps ..).trans ?_
theorem execDescReduce_keeps (c : Nat) (s : State) : (execDescReduce c s).From s := by
  unfold execDescReduce
  repeat' with_reducible first | exact State.From.refl _ | assumption | refine next_keeps ?_ | refine ite_keeps_res ?_ ?_ | refine ite_keeps ?_ ?_ | refine (startDesc_keeps ..).trans ?_
theorem execDescGather_keeps (c : Nat) (s : State) : (execDescGather c s).From s := by
  unfold execDescGather
  repeat' with_reducible first | exact State.From.refl _ | assumption | refine next_keeps ?_ | refine ite_keeps_res ?_ ?_ | refine ite_keeps ?_ ?_ | refine (startDesc_keeps ..).trans ?_
theorem execDescScatter_keeps (c : Nat) (s : State) : (execDescScatter c s).From s := by
  unfold execDescScatter
  repeat' with_reducible first | exact State.From.refl _ | assumption | refine next_keeps ?_ | refine ite_keeps_res ?_ ?_ | refine ite_keeps ?_ ?_ | refine (startDesc_keeps ..).trans ?_
theorem execDescScrub_keeps (c : Nat) (s : State) : (execDescScrub c s).From s := by
  unfold execDescScrub
  repeat' with_reducible first | exact State.From.refl _ | assumption | refine next_keeps ?_ | refine ite_keeps_res ?_ ?_ | refine ite_keeps ?_ ?_ | refine (startDesc_keeps ..).trans ?_
theorem execDescPostrec_keeps (c : Nat) (s : State) : (execDescPostrec c s).From s := by
  unfold execDescPostrec
  repeat' with_reducible first | exact State.From.refl _ | assumption | refine next_keeps ?_ | refine ite_keeps_res ?_ ?_ | refine ite_keeps ?_ ?_ | refine (startDesc_keeps ..).trans ?_
theorem execDescDispatch_keeps (c : Nat) (s : State) : (execDescDispatch c s).From s := by
  unfold execDescDispatch
  repeat' with_reducible first | exact State.From.refl _ | assumption | refine next_keeps ?_ | refine ite_keeps_res ?_ ?_ | refine ite_keeps ?_ ?_ | refine (startDesc_keeps ..).trans ?_
theorem execDescReturn_keeps (c : Nat) (s : State) : (execDescReturn c s).From s := by
  unfold execDescReturn
  repeat' with_reducible first | exact State.From.refl _ | assumption | refine next_keeps ?_ | refine ite_keeps_res ?_ ?_ | refine ite_keeps ?_ ?_ | refine (startDesc_keeps ..).trans ?_
theorem execDescCombine_keeps (c : Nat) (s : State) : (execDescCombine c s).From s := by
  unfold execDescCombine
  repeat' with_reducible first | exact State.From.refl _ | assumption | refine next_keeps ?_ | refine ite_keeps_res ?_ ?_ | refine ite_keeps ?_ ?_ | refine (startDesc_keeps ..).trans ?_
theorem State.scrubLine_keeps (s : State) (c : Nat) (j : MvJob) (a : Answer) : (State.scrubLine s c j a).From s := by
  unfold State.scrubLine
  repeat' with_reducible first | exact State.From.refl _ | assumption | refine ite_keeps ?_ ?_ | refine getD_keeps (fun t h => ?_) ?_ | refine (State.job_keeps ..).trans ?_ | split | dsimp only
theorem State.rowShared_keeps (s : State) (c : Nat) (st : Nat) (hf : Nat) (row : List Seg) : (State.rowShared s c st hf row).From s := by
  unfold State.rowShared
  repeat' with_reducible first | exact State.From.refl _ | assumption | refine ite_keeps ?_ ?_ | refine cond_keeps _ _ _ (fun s => ?_) ?_ | refine each_keeps _ _ _ (fun s x => ?_) ?_ | refine (State.job_keeps ..).trans ?_ | refine (State.mvFail_keeps ..).trans ?_ | split | dsimp only
theorem State.mvAnswer_keeps (s : State) (c : Nat) (a : Answer) : (State.mvAnswer s c a).From s := by
  unfold State.mvAnswer
  split
  · exact State.From.refl _
  · next j l heq =>
    extract_lets s1 st v fail
    have h1 : s1.From s := State.job_keeps ..
    have hs : ∀ hf row, (s1.rowShared c st hf row).From s := fun _ _ => (State.rowShared_keeps ..).trans h1
    have hf : ∀ t : State, t.From s → (fail t).From s := fun t h => (State.mvFail_keeps ..).trans h
    have hm : ∀ st i n, (s1.mvFail c st i n).From s := fun _ _ _ => (State.mvFail_keeps ..).trans h1
    have hj : ∀ f, (s1.job c f).From s := fun _ => (State.job_keeps ..).trans h1
    have hg : ∀ v n, (s1.stage c v n).From s := fun _ _ => (State.stage_keeps ..).trans h1
    have hr : ∀ h g st i, (s1.mvReject c j h g st i).From s := fun _ _ _ _ => (State.mvReject_keeps ..).trans h1
    have he : ∀ x, State.From { s1 with engScale := x } s := fun _ => (State.upd_engScale_keeps ..).trans h1
    clear_value s1 fail
    repeat' with_reducible first | assumption | exact hf _ h1 | exact hf _ (hs ..) | exact hm .. | exact hj .. | exact hg .. | exact hr .. | exact he .. | exact (State.job_keeps ..).trans (hg ..) | exact (State.job_keeps ..).trans (cond_keeps _ _ _ (fun s => State.upd_engScale_keeps ..) (hs ..)) | refine ite_keeps ?_ ?_ | exact (State.scrubLine_keeps ..).trans h1 | refine (State.energy_keeps ..).trans ?_ | split | dsimp only
theorem State.jobLeaves_keeps (s : State) (c : Nat) (j : MvJob) : (State.jobLeaves s c j).From s := by
  unfold State.jobLeaves
  repeat' with_reducible first | exact State.From.refl _ | assumption | refine ite_keeps ?_ ?_ | refine (State.drop_keeps ..).trans ?_ | refine (State.chan_keeps ..).trans ?_ | refine (State.dropChain_keeps ..).trans ?_ | refine (State.drainChan_keeps ..).trans ?_ | split | dsimp only
theorem State.recLanded_keeps (s : State) (c : Nat) : (State.recLanded s c).From s := by
  unfold State.recLanded
  split
  · exact State.From.refl _
  · extract_lets s1 s2
    have h : s2.From s := cond_keeps _ _ _ (fun s => State.irq_keeps ..) ((State.bump_keeps ..).trans (State.chan_keeps ..))
    split
    · exact cond_keeps _ _ _ (fun s => State.jobLeaves_keeps ..) h
    · exact h
theorem State.mvPull_keeps (s : State) (c : Nat) : (State.mvPull s c).From s := by
  unfold State.mvPull
  repeat' with_reducible first | exact State.From.refl _ | assumption | refine ite_keeps ?_ ?_ | refine each_keeps _ _ _ (fun s x => ?_) ?_ | refine (State.lnk_keeps ..).trans ?_ | refine (State.hubf_keeps ..).trans ?_ | refine (State.job_keeps ..).trans ?_ | refine (State.mvFail_keeps ..).trans ?_ | refine (State.addJob_keeps ..).trans ?_ | refine (State.mvAnswer_keeps ..).trans ?_ | refine (State.recLanded_keeps ..).trans ?_ | split | dsimp only
theorem State.recIssue_keeps (s : State) (c : Nat) : (State.recIssue s c).2.From s := by
  unfold State.recIssue
  repeat' with_reducible first | exact State.From.refl _ | assumption | refine (pair_keeps (State.accept_keeps ..) (by assumption)).trans ?_ | refine (pair_keeps (State.extAccess_keeps ..) (by assumption)).trans ?_ | refine (pair_keeps (State.mvSend_keeps ..) (by assumption)).trans ?_ | refine ite_keeps ?_ ?_ | refine ite_keeps_pair ?_ ?_ | refine cond_keeps _ _ _ (fun s => ?_) ?_ | refine (State.chan_keeps ..).trans ?_ | refine (State.reject_keeps ..).trans ?_ | refine (State.mvSend_keeps ..).trans ?_ | refine (State.extAccess_keeps ..).trans ?_ | refine (State.accept_keeps ..).trans ?_ | refine (State.recLanded_keeps ..).trans ?_ | split | dsimp only
theorem State.mvRun_keeps (s : State) (c : Nat) (n : Nat) : ((State.mvRun s c) n).From s := by
  induction n generalizing s with
  | zero => exact State.From.refl _
  | succ n ih =>
    unfold State.mvRun
    repeat' with_reducible first | exact State.From.refl _ | assumption | refine (pair_keeps (State.mvStep_keeps ..) (by assumption)).trans ?_ | refine ite_keeps ?_ ?_ | refine (ih ..).trans ?_ | refine (State.mvStep_keeps ..).trans ?_ | split | dsimp only
theorem execMoverIssue_keeps (e : Nat) (s : State) : (execMoverIssue e s).From s := by
  unfold execMoverIssue
  refine ite_keeps_res (next_keeps (State.From.refl _)) (next_keeps (foldl_keeps2 _ _ _ (fun q c => ?_)
    (each_keeps _ _ _ (fun s c => State.mvPull_keeps ..) (State.From.refl _))))
  obtain ⟨n, t⟩ := q
  refine ite_keeps_pair (State.From.refl _) (cond_keeps _ _ _ (fun s => State.upd_engRr_keeps ..) ?_)
  exact ite_keeps (State.recIssue_keeps ..) ((State.mvRun_keeps ..).trans (State.recIssue_keeps ..))
theorem execMoverChunkAdmission_keeps (c : Nat) (s : State) : (execMoverChunkAdmission c s).From s := by
  unfold execMoverChunkAdmission
  repeat' with_reducible first | exact State.From.refl _ | assumption | refine next_keeps ?_ | refine ite_keeps_res ?_ ?_ | refine ite_keeps ?_ ?_ | refine (State.mvChunk_keeps ..).trans ?_ | split | dsimp only
theorem State.sendToken_keeps (s : State) (c : Nat) (j : MvJob) (account : Nat) (ticket : Nat) (vector : Bool) : (State.sendToken s c j account ticket vector).From s := by
  unfold State.sendToken
  repeat' with_reducible first | exact State.From.refl _ | assumption | refine (pair_keeps (State.openTag_keeps ..) (by assumption)).trans ?_ | refine ite_keeps ?_ ?_ | refine each_keeps _ _ _ (fun s x => ?_) ?_ | refine (State.openTag_keeps ..).trans ?_ | refine (State.sendData_keeps ..).trans ?_ | split | dsimp only
theorem execRouterAppend_keeps (c : Nat) (s : State) : (execRouterAppend c s).From s := by
  unfold execRouterAppend
  repeat' with_reducible first | exact State.From.refl _ | assumption | refine (pair_keeps (State.takeCursor_keeps ..) (by assumption)).trans ?_ | refine next_keeps ?_ | refine ite_keeps_res ?_ ?_ | refine ite_keeps ?_ ?_ | refine getD_keeps (fun t h => ?_) ?_ | refine (State.drop_keeps ..).trans ?_ | refine (State.takeCursor_keeps ..).trans ?_ | refine (State.job_keeps ..).trans ?_ | refine (State.unfed_keeps ..).trans ?_ | refine (State.mvFail_keeps ..).trans ?_ | refine (State.appendFail_keeps ..).trans ?_ | refine (State.appended_keeps ..).trans ?_ | refine (State.sendToken_keeps ..).trans ?_ | split | dsimp only
theorem execCreditWaitTimeout_keeps (c : Nat) (s : State) : (execCreditWaitTimeout c s).From s := by
  unfold execCreditWaitTimeout
  repeat' with_reducible first | exact State.From.refl _ | assumption | refine next_keeps ?_ | refine ite_keeps_res ?_ ?_ | refine ite_keeps ?_ ?_ | refine getD_keeps (fun t h => ?_) ?_ | refine (State.mvFail_keeps ..).trans ?_ | split | dsimp only
theorem execCreditClear_keeps (m : Master) (a : Nat) (s : State) : (execCreditClear m a s).From s := by
  unfold execCreditClear
  repeat' with_reducible first | exact State.From.refl _ | assumption | refine next_keeps ?_ | refine ite_keeps_res ?_ ?_ | refine ite_keeps ?_ ?_ | refine cond_keeps _ _ _ (fun s => ?_) ?_ | refine (State.gate_keeps _ _ _ _ _ _  (fun  s => ?_)).trans ?_ | refine (State.put_keeps ..).trans ?_
theorem execMasterPortResponse_keeps (id : Nat) (err : Bool) (data : Nat) (s : State) : (execMasterPortResponse id err data s).From s := by
  unfold execMasterPortResponse
  split
  · exact next_keeps (State.From.refl _)
  · extract_lets drop answer
    have hd : (drop s).From s := cond_keeps _ _ _ (fun s => State.bumpSat_keeps ..) (State.upd_mport_keeps ..)
    have ha : ∀ src, (answer src (drop s)).From s := fun src => (State.hubf_keeps ..).trans hd
    split
    · exact next_keeps (State.From.refl _)
    all_goals refine next_keeps ?_
    · split
      · exact (State.cacheRun_keeps ..).trans ((State.lineLanded_keeps ..).trans hd)
      · exact hd
    · split
      · exact (State.cacheRun_keeps ..).trans ((State.lineLanded_keeps ..).trans hd)
      · exact hd
    · exact ha _
    · exact ha _
theorem State.scrubAdd_keeps (s : State) (j : MvJob) : (State.scrubAdd s j).From s := by
  unfold State.scrubAdd
  repeat' with_reducible first | exact State.From.refl _ | assumption | refine ite_keeps ?_ ?_ | refine each_keeps _ _ _ (fun s x => ?_) ?_ | refine getD_keeps (fun t h => ?_) ?_ | refine (State.wr_keeps ..).trans ?_ | refine (State.bumpSat_keeps ..).trans ?_ | split | refine (State.upd_integ_keeps ..).trans ?_ | dsimp only
theorem State.invAsk_keeps (s : State) (c : Nat) (j : MvJob) : (State.invAsk s c j).From s := by
  unfold State.invAsk
  repeat' with_reducible first | exact State.From.refl _ | assumption | refine ite_keeps ?_ ?_ | refine cond_keeps _ _ _ (fun s => ?_) ?_ | refine each_keeps _ _ _ (fun s x => ?_) ?_ | refine (State.cacheRun_keeps ..).trans ?_ | refine (State.copAsk_keeps ..).trans ?_ | refine (State.job_keeps ..).trans ?_ | split | dsimp only
theorem execDescriptorComplete_keeps (c : Nat) (s : State) : (execDescriptorComplete c s).From s := by
  unfold execDescriptorComplete
  repeat' with_reducible first | exact State.From.refl _ | assumption | refine next_keeps ?_ | refine ite_keeps_res ?_ ?_ | refine ite_keeps ?_ ?_ | refine cond_keeps _ _ _ (fun s => ?_) ?_ | refine getD_keeps (fun t h => ?_) ?_ | refine (State.wr_keeps ..).trans ?_ | refine (State.bump_keeps ..).trans ?_ | refine (State.bumpSat_keeps ..).trans ?_ | refine (State.irq_keeps ..).trans ?_ | refine (State.energy_keeps ..).trans ?_ | refine (State.mark_keeps ..).trans ?_ | refine (State.nrg_keeps ..).trans ?_ | refine (State.endChunk_keeps ..).trans ?_ | refine (State.ctrOp_keeps ..).trans ?_ | refine (State.record_keeps ..).trans ?_ | refine (State.job_keeps ..).trans ?_ | refine (State.sendNtfy_keeps ..).trans ?_ | refine (State.coreFill_keeps ..).trans ?_ | refine (State.jobLeaves_keeps ..).trans ?_ | refine (State.mvPull_keeps ..).trans ?_ | refine (State.scrubAdd_keeps ..).trans ?_ | refine (State.invAsk_keeps ..).trans ?_ | split | dsimp only

end Sys2Proof.Machine
end

