-- ==== Sys2Proof/Laws/KeepCache.lean ====
section
/-! SUPPORT. What no operation of Machine/Cache.lean changes: the configuration, the queue of waiting commands, the canonical form of memory. -/
namespace Sys2Proof.Machine

theorem execCacheFillComplete_keeps (id : Nat) (err : Bool) (data : Nat) (s : State) : (execCacheFillComplete id err data s).From s := by
  unfold execCacheFillComplete
  repeat' with_reducible first | exact State.From.refl _ | assumption | refine next_keeps ?_ | refine ite_keeps_res ?_ ?_ | refine ite_keeps ?_ ?_ | refine (State.bumpSat_keeps ..).trans ?_ | refine (State.lineDone_keeps ..).trans ?_ | refine (State.tellLine_keeps ..).trans ?_ | refine (State.cacheRun_keeps ..).trans ?_ | refine (State.lineArrives_keeps ..).trans ?_ | refine (State.stage_keeps ..).trans ?_ | refine (State.upd_mport_keeps ..).trans ?_ | (unfold State.From; exact ⟨rfl, rfl, id⟩) | split | dsimp only
theorem copWrite_keeps (m : Master) (w : Word32) (s : State) : (copWrite m w s).From s := by
  unfold copWrite
  repeat' with_reducible first | exact State.From.refl _ | assumption | refine ite_keeps ?_ ?_ | refine cond_keeps _ _ _ (fun s => ?_) ?_ | refine each_keeps _ _ _ (fun s x => ?_) ?_ | refine (State.wr_keeps ..).trans ?_ | refine (State.put_keeps ..).trans ?_ | refine (State.refused_keeps ..).trans ?_ | refine (State.gate_keeps _ _ _ _ _ _  (fun  s => ?_)).trans ?_ | refine (State.cach_keeps ..).trans ?_ | refine (State.cacheRun_keeps ..).trans ?_ | refine (State.copAsk_keeps ..).trans ?_ | split | dsimp only
theorem copStart_keeps (m : Master) (op : Nat) (w : Word32) (s : State) : (copStart m op w s).From s := by
  unfold copStart
  repeat' with_reducible first | exact State.From.refl _ | assumption | refine next_keeps ?_ | refine ite_keeps_res ?_ ?_ | refine ite_keeps ?_ ?_ | refine (copWrite_keeps ..).trans ?_
theorem execCopInv_keeps (m : Master) (w : Word32) (s : State) : (execCopInv m w s).From s := by
  unfold execCopInv
  repeat' with_reducible first | exact State.From.refl _ | assumption | refine next_keeps ?_ | refine ite_keeps_res ?_ ?_ | refine ite_keeps ?_ ?_ | refine (copStart_keeps ..).trans ?_
theorem execCopClean_keeps (m : Master) (w : Word32) (s : State) : (execCopClean m w s).From s := by
  unfold execCopClean
  repeat' with_reducible first | exact State.From.refl _ | assumption | refine next_keeps ?_ | refine ite_keeps_res ?_ ?_ | refine ite_keeps ?_ ?_ | refine (copStart_keeps ..).trans ?_
theorem execCopCleanInv_keeps (m : Master) (w : Word32) (s : State) : (execCopCleanInv m w s).From s := by
  unfold execCopCleanInv
  repeat' with_reducible first | exact State.From.refl _ | assumption | refine next_keeps ?_ | refine ite_keeps_res ?_ ?_ | refine ite_keeps ?_ ?_ | refine (copStart_keeps ..).trans ?_
theorem execCopDone_keeps (s : State) : (execCopDone s).From s := by
  unfold execCopDone
  repeat' with_reducible first | exact State.From.refl _ | assumption | refine next_keeps ?_ | refine ite_keeps_res ?_ ?_ | refine ite_keeps ?_ ?_ | refine cond_keeps _ _ _ (fun s => ?_) ?_ | refine (State.put_keeps ..).trans ?_ | refine (State.irq_keeps ..).trans ?_ | refine (State.ctrOp_keeps ..).trans ?_ | refine (State.cach_keeps ..).trans ?_ | refine (State.cacheRun_keeps ..).trans ?_ | split | dsimp only
theorem secWrite_keeps (m : Master) (w : Word32) (s : State) : (secWrite m w s).From s := by
  unfold secWrite
  repeat' with_reducible first | exact State.From.refl _ | assumption | refine ite_keeps ?_ ?_ | refine each_keeps _ _ _ (fun s x => ?_) ?_ | refine (State.put_keeps ..).trans ?_ | refine (State.refused_keeps ..).trans ?_ | refine (State.gate_keeps _ _ _ _ _ _  (fun  s => ?_)).trans ?_ | refine (State.setFields_keeps ..).trans ?_ | refine (State.cach_keeps ..).trans ?_ | refine (State.cacheRun_keeps ..).trans ?_ | refine (State.copAsk_keeps ..).trans ?_ | split | dsimp only
theorem execSectionSwitch_keeps (m : Master) (target : Nat) (s : State) : (execSectionSwitch m target s).From s := by
  unfold execSectionSwitch
  repeat' with_reducible first | exact State.From.refl _ | assumption | refine next_keeps ?_ | refine ite_keeps_res ?_ ?_ | refine ite_keeps ?_ ?_ | refine (secWrite_keeps ..).trans ?_
theorem State.wakeNear_keeps (s : State) : (State.wakeNear s).From s := by
  unfold State.wakeNear
  repeat' with_reducible first | exact State.From.refl _ | assumption | refine ite_keeps ?_ ?_ | refine each_keeps _ _ _ (fun s x => ?_) ?_ | refine (State.wakeRim_keeps ..).trans ?_ | split | dsimp only
theorem execSectionSwitchDone_keeps (s : State) : (execSectionSwitchDone s).From s := by
  unfold execSectionSwitchDone
  repeat' with_reducible first | exact State.From.refl _ | assumption | refine next_keeps ?_ | refine ite_keeps_res ?_ ?_ | refine ite_keeps ?_ ?_ | refine cond_keeps _ _ _ (fun s => ?_) ?_ | refine each_keeps _ _ _ (fun s x => ?_) ?_ | refine (State.put_keeps ..).trans ?_ | refine (State.arr_keeps _ _ (fun a h => ?_)).trans ?_ | refine (State.clearFrames_keeps ..).trans ?_ | refine (State.energy_keeps ..).trans ?_ | refine (State.settle_keeps ..).trans ?_ | refine (State.cach_keeps ..).trans ?_ | refine (State.cacheRun_keeps ..).trans ?_ | refine (State.copAsk_keeps ..).trans ?_ | refine (State.wakeNear_keeps ..).trans ?_ | split | dsimp only
theorem execXbaseWrite_keeps (m : Master) (hi : Bool) (v : Word32) (s : State) : (execXbaseWrite m hi v s).From s := by
  unfold execXbaseWrite
  repeat' with_reducible first | exact State.From.refl _ | assumption | refine next_keeps ?_ | refine ite_keeps_res ?_ ?_ | refine ite_keeps ?_ ?_ | refine (State.gate_keeps _ _ _ _ _ _  (fun  s => ?_)).trans ?_ | refine (State.put_keeps ..).trans ?_ | refine (State.refused_keeps ..).trans ?_ | split | dsimp only

end Sys2Proof.Machine
end

