-- ==== Sys2Proof/Laws/KeepLink.lean ====
section
/-! SUPPORT. What no operation of Machine/Link.lean changes: the configuration, the queue of waiting commands, the canonical form of memory. -/
namespace Sys2Proof.Machine

theorem State.lpSet_keeps (s : State) (p : Nat) (st : Nat) : (State.lpSet s p st).From s := by
  unfold State.lpSet
  repeat' with_reducible first | exact State.From.refl _ | assumption | refine ite_keeps ?_ ?_ | refine (State.put_keeps ..).trans ?_ | refine (State.irq_keeps ..).trans ?_ | split | dsimp only
theorem State.setLanes_keeps (s : State) (p : Nat) (tx : Nat) (rx : Nat) : (State.setLanes s p tx rx).From s := by
  unfold State.setLanes
  repeat' with_reducible first | exact State.From.refl _ | assumption | refine ite_keeps ?_ ?_ | refine (State.put_keeps ..).trans ?_
theorem State.refusePk_keeps (s : State) (p : Nat) (cause : Nat) (inp : Nat) (pk : Packet) : (State.refusePk s p cause inp pk).From s := by
  unfold State.refusePk
  repeat' with_reducible first | exact State.From.refl _ | assumption | refine ite_keeps ?_ ?_ | refine (State.bumpSat_keeps ..).trans ?_ | refine (State.countNak_keeps ..).trans ?_ | refine (State.nakTo_keeps ..).trans ?_ | refine (State.closeTag_keeps ..).trans ?_ | split | dsimp only
theorem State.dropQueue_keeps (s : State) (p : Nat) : (State.dropQueue s p).From s := by
  unfold State.dropQueue
  repeat' with_reducible first | exact State.From.refl _ | assumption | refine ite_keeps ?_ ?_ | refine cond_keeps _ _ _ (fun s => ?_) ?_ | refine each_keeps _ _ _ (fun s x => ?_) ?_ | refine (State.lport_keeps ..).trans ?_ | refine (State.freeLane_keeps ..).trans ?_ | refine (State.refusePk_keeps ..).trans ?_ | split | dsimp only
theorem State.dropRx_keeps (s : State) (p : Nat) : (State.dropRx s p).From s := by
  unfold State.dropRx
  repeat' with_reducible first | exact State.From.refl _ | assumption | refine ite_keeps ?_ ?_ | refine each_keeps _ _ _ (fun s x => ?_) ?_ | refine (State.arr_keeps _ _ (fun a h => ?_)).trans ?_ | refine (State.wnu_keeps ..).trans ?_ | refine (State.lport_keeps ..).trans ?_ | split | dsimp only
theorem State.lpFail_keeps (s : State) (p : Nat) : (State.lpFail s p).From s := by
  unfold State.lpFail
  repeat' with_reducible first | exact State.From.refl _ | assumption | refine ite_keeps ?_ ?_ | refine each_keeps _ _ _ (fun s x => ?_) ?_ | refine (State.lport_keeps ..).trans ?_ | refine (State.lpSet_keeps ..).trans ?_ | refine (State.setLanes_keeps ..).trans ?_ | refine (State.refusePk_keeps ..).trans ?_ | refine (State.dropQueue_keeps ..).trans ?_ | refine (State.dropRx_keeps ..).trans ?_ | split | dsimp only
theorem State.lpStart_keeps (s : State) (p : Nat) : (State.lpStart s p).From s := by
  unfold State.lpStart
  repeat' with_reducible first | exact State.From.refl _ | assumption | refine ite_keeps ?_ ?_ | refine cond_keeps _ _ _ (fun s => ?_) ?_ | refine (State.lpSet_keeps ..).trans ?_ | refine (State.setLanes_keeps ..).trans ?_ | split | dsimp only
theorem State.lpDown_keeps (s : State) (p : Nat) : (State.lpDown s p).From s := by
  unfold State.lpDown
  repeat' with_reducible first | exact State.From.refl _ | assumption | refine ite_keeps ?_ ?_ | refine (State.lport_keeps ..).trans ?_ | refine (State.lpSet_keeps ..).trans ?_ | refine (State.setLanes_keeps ..).trans ?_ | refine (State.dropQueue_keeps ..).trans ?_ | refine (State.lpStart_keeps ..).trans ?_
theorem linkCtlWrite_keeps (m : Master) (p : Nat) (w : Word32) (s : State) : (linkCtlWrite m p w s).From s := by
  unfold linkCtlWrite
  repeat' with_reducible first | exact State.From.refl _ | assumption | refine ite_keeps ?_ ?_ | refine cond_keeps _ _ _ (fun s => ?_) ?_ | refine (State.gate_keeps _ _ _ _ _ _  (fun  s => ?_)).trans ?_ | refine (State.setFields_keeps ..).trans ?_ | refine (State.lport_keeps ..).trans ?_ | refine (State.lpSet_keeps ..).trans ?_ | refine (State.setLanes_keeps ..).trans ?_ | refine (State.lpStart_keeps ..).trans ?_ | refine (State.lpDown_keeps ..).trans ?_ | split | dsimp only
theorem execLinkPortEnable_keeps (m : Master) (p : Nat) (w : Word32) (s : State) : (execLinkPortEnable m p w s).From s := by
  unfold execLinkPortEnable
  repeat' with_reducible first | exact State.From.refl _ | assumption | refine next_keeps ?_ | refine ite_keeps_res ?_ ?_ | refine ite_keeps ?_ ?_ | refine (linkCtlWrite_keeps ..).trans ?_
theorem execLinkPortDisable_keeps (m : Master) (p : Nat) (w : Word32) (s : State) : (execLinkPortDisable m p w s).From s := by
  unfold execLinkPortDisable
  repeat' with_reducible first | exact State.From.refl _ | assumption | refine next_keeps ?_ | refine ite_keeps_res ?_ ?_ | refine ite_keeps ?_ ?_ | refine (linkCtlWrite_keeps ..).trans ?_
theorem execRetrain_keeps (m : Master) (p : Nat) (s : State) : (execRetrain m p s).From s := by
  unfold execRetrain
  repeat' with_reducible first | exact State.From.refl _ | assumption | refine next_keeps ?_ | refine ite_keeps_res ?_ ?_ | refine ite_keeps ?_ ?_ | refine (linkCtlWrite_keeps ..).trans ?_
theorem execLinkDrainDone_keeps (p : Nat) (s : State) : (execLinkDrainDone p s).From s := by
  unfold execLinkDrainDone
  repeat' with_reducible first | exact State.From.refl _ | assumption | refine next_keeps ?_ | refine ite_keeps_res ?_ ?_ | refine ite_keeps ?_ ?_ | refine (State.lpDown_keeps ..).trans ?_ | split | dsimp only
theorem execLinkTrainDone_keeps (p : Nat) (tx : Nat) (rx : Nat) (s : State) : (execLinkTrainDone p tx rx s).From s := by
  unfold execLinkTrainDone
  repeat' with_reducible first | exact State.From.refl _ | assumption | refine next_keeps ?_ | refine ite_keeps_res ?_ ?_ | refine ite_keeps ?_ ?_ | refine (State.lpSet_keeps ..).trans ?_ | refine (State.setLanes_keeps ..).trans ?_ | refine (State.lpFail_keeps ..).trans ?_ | split | dsimp only
theorem execLinkAlignDone_keeps (p : Nat) (ok : Bool) (s : State) : (execLinkAlignDone p ok s).From s := by
  unfold execLinkAlignDone
  repeat' with_reducible first | exact State.From.refl _ | assumption | refine next_keeps ?_ | refine ite_keeps_res ?_ ?_ | refine ite_keeps ?_ ?_ | refine (State.lport_keeps ..).trans ?_ | refine (State.sendInit_keeps ..).trans ?_ | refine (State.held_keeps ..).trans ?_ | refine (State.lpSet_keeps ..).trans ?_ | refine (State.lpFail_keeps ..).trans ?_ | split | dsimp only
theorem onBlock_keeps (p : Nat) (kinds : List Nat) (s : State) (act : State → Nat → State) (hact : ∀ s x, (act s x).From s) : (onBlock p kinds s act).From s := by
  unfold onBlock
  repeat' with_reducible first | exact State.From.refl _ | assumption | refine next_keeps ?_ | refine ite_keeps_res ?_ ?_ | refine ite_keeps ?_ ?_ | refine (hact ..).trans ?_ | refine (State.lport_keeps ..).trans ?_ | split | dsimp only
theorem execCbIdle_keeps (p : Nat) (s : State) : (execCbIdle p s).From s := by
  unfold execCbIdle
  repeat' with_reducible first | exact State.From.refl _ | assumption | refine next_keeps ?_ | refine ite_keeps_res ?_ ?_ | refine ite_keeps ?_ ?_ | refine (onBlock_keeps _ _ _ _ (fun s _ => ?_)).trans ?_ | split | dsimp only
theorem execCbLink_keeps (p : Nat) (s : State) : (execCbLink p s).From s := by
  unfold execCbLink
  repeat' with_reducible first | exact State.From.refl _ | assumption | refine next_keeps ?_ | refine ite_keeps_res ?_ ?_ | refine ite_keeps ?_ ?_ | refine (State.drop_keeps ..).trans ?_ | refine (State.lport_keeps ..).trans ?_ | refine (State.pumpAll_keeps ..).trans ?_ | refine (onBlock_keeps _ _ _ _ (fun s _ => ?_)).trans ?_ | split | dsimp only
theorem execCbRetry_keeps (p : Nat) (s : State) : (execCbRetry p s).From s := by
  unfold execCbRetry
  repeat' with_reducible first | exact State.From.refl _ | assumption | refine next_keeps ?_ | refine ite_keeps_res ?_ ?_ | refine ite_keeps ?_ ?_ | refine cond_keeps _ _ _ (fun s => ?_) ?_ | refine each_keeps _ _ _ (fun s x => ?_) ?_ | refine (State.bumpSat_keeps ..).trans ?_ | refine (State.flitsSent_keeps ..).trans ?_ | refine (State.pumpAll_keeps ..).trans ?_ | refine (onBlock_keeps _ _ _ _ (fun s _ => ?_)).trans ?_ | split | dsimp only
theorem State.noteDrop_keeps (s : State) (p : Nat) (n : Nat) (dir : Nat) (lane : Nat) (cause : Nat) (dur : Nat) : (State.noteDrop s p n dir lane cause dur).From s := by
  unfold State.noteDrop
  repeat' with_reducible first | exact State.From.refl _ | assumption | refine ite_keeps ?_ ?_ | refine (State.put_keeps ..).trans ?_ | refine (State.bumpSat_keeps ..).trans ?_ | refine (State.irq_keeps ..).trans ?_
theorem execCbLaneDrop_keeps (p : Nat) (s : State) : (execCbLaneDrop p s).From s := by
  unfold execCbLaneDrop
  repeat' with_reducible first | exact State.From.refl _ | assumption | refine (pair_keeps (State.draw_keeps ..) (by assumption)).trans ?_ | refine next_keeps ?_ | refine ite_keeps_res ?_ ?_ | refine ite_keeps ?_ ?_ | refine foldl_keeps _ _ _ (fun s x => ?_) ?_ | refine foldl_keeps2 _ _ _ (fun s x => ?_) ?_ | refine foldl_keeps3 _ _ _ (fun s x => ?_) ?_ | refine (State.put_keeps ..).trans ?_ | refine (State.draw_keeps ..).trans ?_ | refine (State.lport_keeps ..).trans ?_ | refine (State.sendMarks_keeps ..).trans ?_ | refine (State.sendCb_keeps ..).trans ?_ | refine (State.lpFail_keeps ..).trans ?_ | refine (onBlock_keeps _ _ _ _ (fun s _ => ?_)).trans ?_ | refine (State.noteDrop_keeps ..).trans ?_ | split | dsimp only
theorem execCbLaneSwitch_keeps (p : Nat) (s : State) : (execCbLaneSwitch p s).From s := by
  unfold execCbLaneSwitch
  repeat' with_reducible first | exact State.From.refl _ | assumption | refine next_keeps ?_ | refine ite_keeps_res ?_ ?_ | refine ite_keeps ?_ ?_ | refine (State.put_keeps ..).trans ?_ | refine (State.lport_keeps ..).trans ?_ | refine (onBlock_keeps _ _ _ _ (fun s _ => ?_)).trans ?_ | split | dsimp only
theorem execCbInit_keeps (p : Nat) (s : State) : (execCbInit p s).From s := by
  unfold execCbInit
  repeat' with_reducible first | exact State.From.refl _ | assumption | refine next_keeps ?_ | refine ite_keeps_res ?_ ?_ | refine ite_keeps ?_ ?_ | refine cond_keeps _ _ _ (fun s => ?_) ?_ | refine (State.put_keeps ..).trans ?_ | refine (State.sendInit_keeps ..).trans ?_ | refine (State.pumpAll_keeps ..).trans ?_ | refine (State.lpSet_keeps ..).trans ?_ | refine (onBlock_keeps _ _ _ _ (fun s _ => ?_)).trans ?_ | split | dsimp only
theorem State.askRetry_keeps (s : State) (p : Nat) : (State.askRetry s p).From s := by
  unfold State.askRetry
  repeat' with_reducible first | exact State.From.refl _ | assumption | refine ite_keeps ?_ ?_ | refine (State.lport_keeps ..).trans ?_ | refine (State.sendRetry_keeps ..).trans ?_ | split | dsimp only
theorem State.takeBlocks_keeps (s : State) (p : Nat) (bad : Bool) (blocks : List Nat) : (State.takeBlocks s p bad blocks).From s := by
  unfold State.takeBlocks
  repeat' with_reducible first | exact State.From.refl _ | assumption | refine ite_keeps ?_ ?_ | refine cond_keeps _ _ _ (fun s => ?_) ?_ | refine (State.lport_keeps ..).trans ?_ | split | dsimp only
theorem State.checkFlits_keeps (s : State) (p : Nat) (blocks : List Nat) : (State.checkFlits s p blocks).From s := by
  unfold State.checkFlits
  repeat' with_reducible first | exact State.From.refl _ | assumption | refine ite_keeps ?_ ?_ | refine cond_keeps _ _ _ (fun s => ?_) ?_ | refine (State.bumpSat_keeps ..).trans ?_ | split | dsimp only
theorem execCodewordReceived_keeps (p : Nat) (marks : Bool) (lanes : List Nat) (s : State) : (execCodewordReceived p marks lanes s).From s := by
  unfold execCodewordReceived
  repeat' with_reducible first | exact State.From.refl _ | assumption | refine next_keeps ?_ | refine ite_keeps_res ?_ ?_ | refine ite_keeps ?_ ?_ | refine cond_keeps _ _ _ (fun s => ?_) ?_ | refine each_keeps _ _ _ (fun s x => ?_) ?_ | refine getD_keeps (fun t h => ?_) ?_ | refine (State.bumpSat_keeps ..).trans ?_ | refine (State.put64_keeps ..).trans ?_ | refine (State.lport_keeps ..).trans ?_ | refine (State.askRetry_keeps ..).trans ?_ | refine (State.takeBlocks_keeps ..).trans ?_ | refine (State.checkFlits_keeps ..).trans ?_ | split | dsimp only
theorem execRetryRepeat_keeps (p : Nat) (s : State) : (execRetryRepeat p s).From s := by
  unfold execRetryRepeat
  repeat' with_reducible first | exact State.From.refl _ | assumption | refine next_keeps ?_ | refine ite_keeps_res ?_ ?_ | refine ite_keeps ?_ ?_ | refine (State.lport_keeps ..).trans ?_ | refine (State.sendRetry_keeps ..).trans ?_ | refine (State.lpFail_keeps ..).trans ?_ | split | dsimp only
theorem execLinkSilenceTimeout_keeps (p : Nat) (s : State) : (execLinkSilenceTimeout p s).From s := by
  unfold execLinkSilenceTimeout
  repeat' with_reducible first | exact State.From.refl _ | assumption | refine next_keeps ?_ | refine ite_keeps_res ?_ ?_ | refine ite_keeps ?_ ?_ | refine (State.lpFail_keeps ..).trans ?_ | split | dsimp only
theorem State.loseLane_keeps (s : State) (p : Nat) (lane : Nat) (cause : Nat) : (State.loseLane s p lane cause).From s := by
  unfold State.loseLane
  repeat' with_reducible first | exact State.From.refl _ | assumption | refine ite_keeps ?_ ?_ | refine getD_keeps (fun t h => ?_) ?_ | refine (State.lport_keeps ..).trans ?_ | refine (State.sendCb_keeps ..).trans ?_ | refine (State.lpFail_keeps ..).trans ?_ | refine (State.noteDrop_keeps ..).trans ?_ | split | dsimp only
theorem execLaneLoss_keeps (p : Nat) (lane : Nat) (signal : Bool) (s : State) : (execLaneLoss p lane signal s).From s := by
  unfold execLaneLoss
  repeat' with_reducible first | exact State.From.refl _ | assumption | refine next_keeps ?_ | refine ite_keeps_res ?_ ?_ | refine ite_keeps ?_ ?_ | refine (State.loseLane_keeps ..).trans ?_ | split | dsimp only
theorem execSerInterval_keeps (p : Nat) (s : State) : (execSerInterval p s).From s := by
  unfold execSerInterval
  repeat' with_reducible first | exact State.From.refl _ | assumption | refine next_keeps ?_ | refine ite_keeps_res ?_ ?_ | refine ite_keeps ?_ ?_ | refine each_keeps _ _ _ (fun s x => ?_) ?_ | refine getD_keeps (fun t h => ?_) ?_ | refine (State.lport_keeps ..).trans ?_ | refine (State.loseLane_keeps ..).trans ?_ | split | dsimp only
theorem execLaneRelock_keeps (p : Nat) (s : State) : (execLaneRelock p s).From s := by
  unfold execLaneRelock
  repeat' with_reducible first | exact State.From.refl _ | assumption | refine next_keeps ?_ | refine ite_keeps_res ?_ ?_ | refine ite_keeps ?_ ?_ | refine (State.lport_keeps ..).trans ?_ | refine (State.sendRetry_keeps ..).trans ?_ | split | dsimp only
theorem State.linkTick_keeps (s : State) (p : Nat) : (State.linkTick s p).From s := by
  unfold State.linkTick
  repeat' with_reducible first | exact State.From.refl _ | assumption | refine ite_keeps ?_ ?_ | refine cond_keeps _ _ _ (fun s => ?_) ?_ | refine (State.lport_keeps ..).trans ?_ | refine (State.sendMarks_keeps ..).trans ?_ | refine (State.sendWord_keeps ..).trans ?_ | refine (State.sendBlocks_keeps ..).trans ?_ | refine (State.sendLink_keeps ..).trans ?_ | refine (State.sendInit_keeps ..).trans ?_ | refine (State.pumpAll_keeps ..).trans ?_ | split | dsimp only
theorem execFwdWrite_keeps (m : Master) (a : Nat) (w : Word32) (s : State) : (execFwdWrite m a w s).From s := by
  unfold execFwdWrite
  repeat' with_reducible first | exact State.From.refl _ | assumption | refine next_keeps ?_ | refine ite_keeps_res ?_ ?_ | refine ite_keeps ?_ ?_ | refine (State.gate_keeps _ _ _ _ _ _  (fun  s => ?_)).trans ?_ | refine (State.put_keeps ..).trans ?_ | refine foldl_keeps _ _ _ (fun s x => ?_) ?_ | refine foldl_keeps2 _ _ _ (fun s x => ?_) ?_ | refine foldl_keeps3 _ _ _ (fun s x => ?_) ?_
theorem State.chainSend_keeps (s : State) (op : Nat) (addr : Nat) (count : Nat) (wait : Bool) : (State.chainSend s op addr count wait).From s := by
  unfold State.chainSend
  repeat' with_reducible first | exact State.From.refl _ | assumption | refine ite_keeps ?_ ?_ | refine (State.lnk_keeps ..).trans ?_ | split | dsimp only
theorem State.enumPut_keeps (s : State) (f : Fld) (v : Nat) : (State.enumPut s f v).From s := by
  unfold State.enumPut
  repeat' with_reducible first | exact State.From.refl _ | assumption | refine ite_keeps ?_ ?_ | refine (State.put_keeps ..).trans ?_
theorem State.enumEnd_keeps (s : State) (st : Nat) : (State.enumEnd s st).From s := by
  unfold State.enumEnd
  repeat' with_reducible first | exact State.From.refl _ | assumption | refine ite_keeps ?_ ?_ | refine (State.irq_keeps ..).trans ?_ | refine (State.lnk_keeps ..).trans ?_ | refine (State.enumPut_keeps ..).trans ?_
theorem execEnumGo_keeps (m : Master) (s : State) : (execEnumGo m s).From s := by
  unfold execEnumGo
  repeat' with_reducible first | exact State.From.refl _ | assumption | refine next_keeps ?_ | refine ite_keeps_res ?_ ?_ | refine ite_keeps ?_ ?_ | refine cond_keeps _ _ _ (fun s => ?_) ?_ | refine (State.gate_keeps _ _ _ _ _ _  (fun  s => ?_)).trans ?_ | refine (State.sendInits_keeps ..).trans ?_ | refine (State.chainSend_keeps ..).trans ?_ | refine (State.enumPut_keeps ..).trans ?_ | split | dsimp only
theorem onFrame_keeps (op : Nat) (w : Nat) (s : State) (act : State → State) (hact : ∀  s, (act  s).From s) : (onFrame op w s act).From s := by
  unfold onFrame
  repeat' with_reducible first | exact State.From.refl _ | assumption | refine next_keeps ?_ | refine ite_keeps_res ?_ ?_ | refine ite_keeps ?_ ?_ | refine (hact ..).trans ?_ | refine (State.enumPut_keeps ..).trans ?_ | refine (State.lnk_keeps ..).trans ?_ | split | dsimp only
theorem execChainClear_keeps (w : Nat) (s : State) : (execChainClear w s).From s := by
  unfold execChainClear
  repeat' with_reducible first | exact State.From.refl _ | assumption | refine next_keeps ?_ | refine ite_keeps_res ?_ ?_ | refine ite_keeps ?_ ?_ | refine cond_keeps _ _ _ (fun s => ?_) ?_ | refine (State.sendInits_keeps ..).trans ?_ | refine (State.chainSend_keeps ..).trans ?_ | refine (State.enumPut_keeps ..).trans ?_ | refine (onFrame_keeps _ _ _ _ (fun s => ?_)).trans ?_ | split | dsimp only
theorem execChainEnum_keeps (w : Nat) (s : State) : (execChainEnum w s).From s := by
  unfold execChainEnum
  repeat' with_reducible first | exact State.From.refl _ | assumption | refine next_keeps ?_ | refine ite_keeps_res ?_ ?_ | refine ite_keeps ?_ ?_ | refine cond_keeps _ _ _ (fun s => ?_) ?_ | refine (State.sendInits_keeps ..).trans ?_ | refine (State.chainSend_keeps ..).trans ?_ | refine (State.enumPut_keeps ..).trans ?_ | refine (State.enumEnd_keeps ..).trans ?_ | refine (onFrame_keeps _ _ _ _ (fun s => ?_)).trans ?_ | split | dsimp only
theorem execChainDone_keeps (w : Nat) (s : State) : (execChainDone w s).From s := by
  unfold execChainDone
  repeat' with_reducible first | exact State.From.refl _ | assumption | refine next_keeps ?_ | refine ite_keeps_res ?_ ?_ | refine ite_keeps ?_ ?_ | refine cond_keeps _ _ _ (fun s => ?_) ?_ | refine (State.sendInits_keeps ..).trans ?_ | refine (State.chainSend_keeps ..).trans ?_ | refine (State.enumPut_keeps ..).trans ?_ | refine (State.enumEnd_keeps ..).trans ?_ | refine (onFrame_keeps _ _ _ _ (fun s => ?_)).trans ?_ | split | dsimp only
theorem execEnumTimeout_keeps (s : State) : (execEnumTimeout s).From s := by
  unfold execEnumTimeout
  repeat' with_reducible first | exact State.From.refl _ | assumption | refine next_keeps ?_ | refine ite_keeps_res ?_ ?_ | refine ite_keeps ?_ ?_ | refine (State.enumPut_keeps ..).trans ?_ | refine (State.enumEnd_keeps ..).trans ?_ | split | dsimp only
theorem State.tsStart_keeps (s : State) : (State.tsStart s).From s := by
  unfold State.tsStart
  repeat' with_reducible first | exact State.From.refl _ | assumption | refine ite_keeps ?_ ?_ | refine (State.lnk_keeps ..).trans ?_ | refine (State.sendResp_keeps ..).trans ?_ | split | dsimp only
theorem execTsGo_keeps (m : Master) (s : State) : (execTsGo m s).From s := by
  unfold execTsGo
  repeat' with_reducible first | exact State.From.refl _ | assumption | refine next_keeps ?_ | refine ite_keeps_res ?_ ?_ | refine ite_keeps ?_ ?_ | refine cond_keeps _ _ _ (fun s => ?_) ?_ | refine (State.gate_keeps _ _ _ _ _ _  (fun  s => ?_)).trans ?_ | refine (State.tsStart_keeps ..).trans ?_
theorem execTsPeriod_keeps (s : State) : (execTsPeriod s).From s := by
  unfold execTsPeriod
  repeat' with_reducible first | exact State.From.refl _ | assumption | refine next_keeps ?_ | refine ite_keeps_res ?_ ?_ | refine ite_keeps ?_ ?_ | refine (State.lnk_keeps ..).trans ?_ | refine (State.tsStart_keeps ..).trans ?_ | split | dsimp only
theorem execE2eTimeout_keeps (etag : Nat) (s : State) : (execE2eTimeout etag s).From s := by
  unfold execE2eTimeout
  repeat' with_reducible first | exact State.From.refl _ | assumption | refine next_keeps ?_ | refine ite_keeps_res ?_ ?_ | refine ite_keeps ?_ ?_ | refine (State.put_keeps ..).trans ?_ | refine (State.lnk_keeps ..).trans ?_ | refine (State.countNak_keeps ..).trans ?_ | refine (State.closeTag_keeps ..).trans ?_ | split | dsimp only

end Sys2Proof.Machine
end

