-- ==== Sys2Proof/Laws/KeepWinOps.lean ====
section
/-! SUPPORT. What no operation of Machine/WinOps.lean changes: the configuration, the queue of waiting commands, the canonical form of memory. -/
namespace Sys2Proof.Machine

theorem State.winPut_keeps (s : State) (w : Nat) (f : Fld) (v : Nat) : (State.winPut s w f v).From s := by
  unfold State.winPut
  repeat' with_reducible first | exact State.From.refl _ | assumption | refine ite_keeps ?_ ?_ | refine (State.put_keeps ..).trans ?_
theorem State.cchPut_keeps (s : State) (c : Nat) (f : Fld) (v : Nat) : (State.cchPut s c f v).From s := by
  unfold State.cchPut
  repeat' with_reducible first | exact State.From.refl _ | assumption | refine ite_keeps ?_ ?_ | refine (State.put_keeps ..).trans ?_
theorem State.settled_keeps (s : State) (w : Nat) (src : Nat) : (State.settled s w src).From s := by
  unfold State.settled
  repeat' with_reducible first | exact State.From.refl _ | assumption | refine ite_keeps ?_ ?_ | refine (State.wnu_keeps ..).trans ?_
theorem State.sendLack_keeps (s : State) (src : Nat) : (State.sendLack s src).From s := by
  unfold State.sendLack
  repeat' with_reducible first | exact State.From.refl _ | assumption | refine ite_keeps ?_ ?_ | refine cond_keeps _ _ _ (fun s => ?_) ?_ | refine getD_keeps (fun t h => ?_) ?_ | refine (State.lnk_keeps ..).trans ?_ | refine (State.sendResp_keeps ..).trans ?_ | split | dsimp only
theorem State.lack_keeps (s : State) (src : Nat) (etag : Nat) (tid : Option Nat) : (State.lack s src etag tid).From s := by
  unfold State.lack
  repeat' with_reducible first | exact State.From.refl _ | assumption | refine ite_keeps ?_ ?_ | refine cond_keeps _ _ _ (fun s => ?_) ?_ | refine (State.lnk_keeps ..).trans ?_ | refine (State.sendLack_keeps ..).trans ?_ | split | dsimp only
theorem State.sendPart_keeps (s : State) (a : Arrival) (part : Nat × Nat × Nat) : (State.sendPart s a part).2.From s := by
  unfold State.sendPart
  repeat' with_reducible first | exact State.From.refl _ | assumption | refine (pair_keeps (State.sendAccess_keeps ..) (by assumption)).trans ?_ | refine ite_keeps ?_ ?_ | refine ite_keeps_pair ?_ ?_ | refine (State.sendAccess_keeps ..).trans ?_ | refine (State.answerNow_keeps ..).trans ?_ | split | dsimp only
theorem State.setArr_keeps (s : State) (id : Nat) (f : Arrival → Option Arrival) : (State.setArr s id f).From s := by
  unfold State.setArr
  repeat' with_reducible first | exact State.From.refl _ | assumption | refine ite_keeps ?_ ?_ | refine (State.arr_keeps _ _ (fun a h => ?_)).trans ?_ | refine (State.wnu_keeps ..).trans ?_ | unfold id | split | dsimp only
theorem State.sendParts_keeps (s : State) (id : Nat) (n : Nat) : ((State.sendParts s id) n).From s := by
  induction n generalizing s with
  | zero => exact State.From.refl _
  | succ n ih =>
    unfold State.sendParts
    repeat' with_reducible first | exact State.From.refl _ | assumption | refine (pair_keeps (State.sendPart_keeps ..) (by assumption)).trans ?_ | refine ite_keeps ?_ ?_ | refine (ih ..).trans ?_ | refine cond_keeps _ _ _ (fun s => ?_) ?_ | refine (State.arr_keeps _ _ (fun a h => ?_)).trans ?_ | refine (State.freeRx_keeps ..).trans ?_ | refine (State.sendPart_keeps ..).trans ?_ | refine (State.setArr_keeps ..).trans ?_ | unfold id | split | dsimp only
theorem State.arrivalIn_keeps (s : State) (inp : Nat) (pk : Packet) (tid : Nat) (handle : Nat) (off : Nat) (n : Nat) (token : Option Nat) : (State.arrivalIn s inp pk tid handle off n token).From s := by
  unfold State.arrivalIn
  repeat' with_reducible first | exact State.From.refl _ | assumption | refine ite_keeps ?_ ?_ | refine getD_keeps (fun t h => ?_) ?_ | refine (State.arr_keeps _ _ (fun a h => ?_)).trans ?_ | refine (State.wnu_keeps ..).trans ?_ | refine (State.hubf_keeps ..).trans ?_ | refine (State.sendParts_keeps ..).trans ?_ | split | dsimp only
theorem State.arrDone_keeps (s : State) (a : Arrival) : (State.arrDone s a).From s := by
  unfold State.arrDone
  repeat' with_reducible first | exact State.From.refl _ | assumption | refine ite_keeps ?_ ?_ | refine cond_keeps _ _ _ (fun s => ?_) ?_ | refine (State.wnu_keeps ..).trans ?_ | refine (State.nakTo_keeps ..).trans ?_ | refine (State.settled_keeps ..).trans ?_ | refine (State.lack_keeps ..).trans ?_ | refine (State.setArr_keeps ..).trans ?_ | split | dsimp only
theorem State.pullParts_keeps (s : State) : (State.pullParts s).From s := by
  unfold State.pullParts
  repeat' with_reducible first | exact State.From.refl _ | assumption | refine ite_keeps ?_ ?_ | refine each_keeps _ _ _ (fun s x => ?_) ?_ | refine (State.arr_keeps _ _ (fun a h => ?_)).trans ?_ | refine (State.hubf_keeps ..).trans ?_ | refine (State.setArr_keeps ..).trans ?_ | refine (State.arrDone_keeps ..).trans ?_ | unfold id | split | dsimp only
theorem bwrTake_keeps (s : State) (inp : Nat) (pk : Packet) : ∀ t, (bwrTake s inp pk) = some t → t.From s := by
  unfold bwrTake
  intro t h
  repeat' with_reducible first | cases h | split at h | dsimp only at h
  all_goals  repeat' with_reducible first | exact State.From.refl _ | assumption | refine ite_keeps ?_ ?_ | refine cond_keeps _ _ _ (fun s => ?_) ?_ | refine (State.bumpSat_keeps ..).trans ?_ | refine (State.freeRx_keeps ..).trans ?_ | refine (State.nakTo_keeps ..).trans ?_ | refine (State.reject_keeps ..).trans ?_ | refine (State.settled_keeps ..).trans ?_ | refine (State.arrivalIn_keeps ..).trans ?_ | split | dsimp only
theorem State.grant_keeps (s : State) (c : Nat) (n : Nat) : (State.grant s c n).From s := by
  unfold State.grant
  repeat' with_reducible first | exact State.From.refl _ | assumption | refine ite_keeps ?_ ?_ | refine (State.sendResp_keeps ..).trans ?_ | split | dsimp only
theorem State.tokenRefused_keeps (s : State) (cause : Nat) (pk : Packet) : (State.tokenRefused s cause pk).From s := by
  unfold State.tokenRefused
  repeat' with_reducible first | exact State.From.refl _ | assumption | refine ite_keeps ?_ ?_ | refine cond_keeps _ _ _ (fun s => ?_) ?_ | refine (State.wnu_keeps ..).trans ?_ | refine (State.nakTo_keeps ..).trans ?_
theorem State.tokenFirst_keeps (s : State) (pk : Packet) : (State.tokenFirst s pk).From s := by
  unfold State.tokenFirst
  repeat' with_reducible first | exact State.From.refl _ | assumption | refine (pair_keeps (State.takeCursor_keeps ..) (by assumption)).trans ?_ | refine ite_keeps ?_ ?_ | refine (State.drop_keeps ..).trans ?_ | refine (State.wnu_keeps ..).trans ?_ | refine (State.takeCursor_keeps ..).trans ?_ | refine (State.grant_keeps ..).trans ?_ | refine (State.tokenRefused_keeps ..).trans ?_ | split | dsimp only
theorem State.setToken_keeps (s : State) (id : Nat) (f : Token → Token) : (State.setToken s id f).From s := by
  unfold State.setToken
  repeat' with_reducible first | exact State.From.refl _ | assumption | refine ite_keeps ?_ ?_ | refine (State.wnu_keeps ..).trans ?_ | unfold id | split | dsimp only
theorem twrTake_keeps (s : State) (inp : Nat) (pk : Packet) : ∀ t, (twrTake s inp pk) = some t → t.From s := by
  unfold twrTake
  intro t h
  repeat' with_reducible first | cases h | split at h | dsimp only at h
  all_goals  repeat' with_reducible first | exact State.From.refl _ | assumption | refine ite_keeps ?_ ?_ | refine cond_keeps _ _ _ (fun s => ?_) ?_ | refine (State.wnu_keeps ..).trans ?_ | refine (State.freeRx_keeps ..).trans ?_ | refine (State.reject_keeps ..).trans ?_ | refine (State.arrivalIn_keeps ..).trans ?_ | refine (State.tokenFirst_keeps ..).trans ?_ | refine (State.setToken_keeps ..).trans ?_ | split | dsimp only
theorem State.holdFence_keeps (s : State) (pk : Packet) : (State.holdFence s pk).From s := by
  unfold State.holdFence
  repeat' with_reducible first | exact State.From.refl _ | assumption | refine ite_keeps ?_ ?_ | refine (State.wnu_keeps ..).trans ?_ | split | dsimp only
theorem ntfyTake_keeps (s : State) (pk : Packet) : (ntfyTake s pk).From s := by
  unfold ntfyTake
  repeat' with_reducible first | exact State.From.refl _ | assumption | refine ite_keeps ?_ ?_ | refine (State.nakTo_keeps ..).trans ?_ | refine (State.holdFence_keeps ..).trans ?_ | split | dsimp only
theorem State.countBarr_keeps (s : State) (pk : Packet) : (State.countBarr s pk).From s := by
  unfold State.countBarr
  repeat' with_reducible first | exact State.From.refl _ | assumption | refine (pair_keeps (State.devArrive_keeps ..) (by assumption)).trans ?_ | refine ite_keeps ?_ ?_ | refine cond_keeps _ _ _ (fun s => ?_) ?_ | refine (State.devArrive_keeps ..).trans ?_ | refine (State.domRelease_keeps ..).trans ?_ | refine (State.barRun_keeps ..).trans ?_ | split | dsimp only
theorem barrTake_keeps (s : State) (pk : Packet) : ∀ t, (barrTake s pk) = some t → t.From s := by
  unfold barrTake
  intro t h
  repeat' with_reducible first | cases h | split at h | dsimp only at h
  all_goals repeat' with_reducible first | exact State.From.refl _ | assumption | refine ite_keeps ?_ ?_ | refine (State.bumpSat_keeps ..).trans ?_ | refine (State.holdFence_keeps ..).trans ?_ | refine (State.countBarr_keeps ..).trans ?_ | split | dsimp only
theorem State.takeResp_keeps (s : State) (pk : Packet) : (State.takeResp s pk).From s := by
  unfold State.takeResp
  repeat' with_reducible first | exact State.From.refl _ | assumption | refine ite_keeps ?_ ?_ | refine cond_keeps _ _ _ (fun s => ?_) ?_ | refine each_keeps _ _ _ (fun s x => ?_) ?_ | refine (State.bumpSat_keeps ..).trans ?_ | refine (State.put64_keeps ..).trans ?_ | refine (State.lnk_keeps ..).trans ?_ | refine (State.sendResp_keeps ..).trans ?_ | refine (State.closeTag_keeps ..).trans ?_ | refine (State.domRelease_keeps ..).trans ?_ | refine (State.barRun_keeps ..).trans ?_ | refine (State.barAbort_keeps ..).trans ?_ | split | dsimp only
theorem takeHead_keeps (s : State) (inp : Nat) (pk : Packet) : ∀ t, (takeHead s inp pk) = some t → t.From s := by
  unfold takeHead
  intro t h
  split at h
  · cases h
  · split at h
    · exact bwrTake_keeps _ _ _ _ h
    · exact twrTake_keeps _ _ _ _ h
    · cases h; exact (State.freeRx_keeps ..).trans (ntfyTake_keeps ..)
    · obtain ⟨u, hu, rfl⟩ := Option.map_eq_some_iff.mp h
      exact (State.freeRx_keeps ..).trans (barrTake_keeps _ _ _ hu)
    · cases h; exact (State.freeRx_keeps ..).trans (State.takeResp_keeps ..)
theorem State.rxRun_keeps (s : State) (p : Nat) (n : Nat) : ((State.rxRun s p) n).From s := by
  induction n generalizing s with
  | zero => exact State.From.refl _
  | succ n ih =>
    unfold State.rxRun
    split
    · exact State.From.refl _
    · rename_i pk t heq
      obtain ⟨pk', _, he⟩ := List.exists_of_findSome?_eq_some heq
      obtain ⟨u, hu, he⟩ := Option.map_eq_some_iff.mp he
      cases he
      exact (ih ..).trans ((State.lport_keeps ..).trans (takeHead_keeps _ _ _ _ hu))
theorem State.sendRecords_keeps (s : State) (n : Nat) : ((State.sendRecords s) n).From s := by
  induction n generalizing s with
  | zero => exact State.From.refl _
  | succ n ih =>
    unfold State.sendRecords
    repeat' with_reducible first | exact State.From.refl _ | assumption | refine ite_keeps ?_ ?_ | refine (ih ..).trans ?_ | refine (State.wnu_keeps ..).trans ?_ | refine (State.sendBwr_keeps ..).trans ?_ | split | dsimp only
theorem State.winRun_keeps (s : State) : (State.winRun s).From s := by
  unfold State.winRun
  repeat' with_reducible first | exact State.From.refl _ | assumption | refine ite_keeps ?_ ?_ | refine each_keeps _ _ _ (fun s x => ?_) ?_ | refine (State.arr_keeps _ _ (fun a h => ?_)).trans ?_ | refine (State.wnu_keeps ..).trans ?_ | refine (State.sendParts_keeps ..).trans ?_ | refine (State.pullParts_keeps ..).trans ?_ | refine (State.rxRun_keeps ..).trans ?_ | refine (State.sendRecords_keeps ..).trans ?_ | split | dsimp only

end Sys2Proof.Machine
end

