-- ==== Sys2Proof/Laws/KeepWindow.lean ====
section
/-! SUPPORT. What no operation of Machine/Window.lean changes: the configuration, the queue of waiting commands, the canonical form of memory. -/
namespace Sys2Proof.Machine

theorem State.acceptPk_keeps (s : State) (p : Nat) (pk : Packet) : (State.acceptPk s p pk).From s := by
  unfold State.acceptPk
  repeat' with_reducible first | exact State.From.refl _ | assumption | refine ite_keeps ?_ ?_ | refine (State.bumpSat_keeps ..).trans ?_ | refine (State.lport_keeps ..).trans ?_ | refine (State.freeRx_keeps ..).trans ?_ | refine (State.enqueue_keeps ..).trans ?_ | refine (State.refusePk_keeps ..).trans ?_ | split | dsimp only
theorem State.flitsIn_keeps (s : State) (p : Nat) (pk : Packet) : (State.flitsIn s p pk).From s := by
  unfold State.flitsIn
  repeat' with_reducible first | exact State.From.refl _ | assumption | refine ite_keeps ?_ ?_ | refine (State.bump_keeps ..).trans ?_ | refine (State.energy_keeps ..).trans ?_ | refine (State.energyNone_keeps ..).trans ?_ | refine (State.lport_keeps ..).trans ?_ | split | dsimp only
theorem State.inOrder_keeps (s : State) (p : Nat) (pk : Packet) : (State.inOrder s p pk).From s := by
  unfold State.inOrder
  repeat' with_reducible first | exact State.From.refl _ | assumption | refine ite_keeps ?_ ?_ | refine cond_keeps _ _ _ (fun s => ?_) ?_ | refine (State.put_keeps ..).trans ?_ | refine (State.lport_keeps ..).trans ?_ | refine (State.sendLink_keeps ..).trans ?_ | refine (State.acceptPk_keeps ..).trans ?_ | refine (State.flitsIn_keeps ..).trans ?_ | split | dsimp only
theorem pktIn_keeps (p : Nat) (types : List Nat) (s : State) : (pktIn p types s).From s := by
  unfold pktIn
  repeat' with_reducible first | exact State.From.refl _ | assumption | refine next_keeps ?_ | refine ite_keeps_res ?_ ?_ | refine ite_keeps ?_ ?_ | refine cond_keeps _ _ _ (fun s => ?_) ?_ | refine (State.bumpSat_keeps ..).trans ?_ | refine (State.drop_keeps ..).trans ?_ | refine (State.lnk_keeps ..).trans ?_ | refine (State.lport_keeps ..).trans ?_ | refine (State.askRetry_keeps ..).trans ?_ | refine (State.winRun_keeps ..).trans ?_ | refine (State.inOrder_keeps ..).trans ?_ | split | dsimp only
theorem execPktBwr_keeps (p : Nat) (s : State) : (execPktBwr p s).From s := by
  unfold execPktBwr
  repeat' with_reducible first | exact State.From.refl _ | assumption | refine next_keeps ?_ | refine ite_keeps_res ?_ ?_ | refine ite_keeps ?_ ?_ | refine (pktIn_keeps ..).trans ?_ | split | dsimp only
theorem execPktTwr_keeps (p : Nat) (s : State) : (execPktTwr p s).From s := by
  unfold execPktTwr
  repeat' with_reducible first | exact State.From.refl _ | assumption | refine next_keeps ?_ | refine ite_keeps_res ?_ ?_ | refine ite_keeps ?_ ?_ | refine (pktIn_keeps ..).trans ?_ | split | dsimp only
theorem execPktNtfy_keeps (p : Nat) (s : State) : (execPktNtfy p s).From s := by
  unfold execPktNtfy
  repeat' with_reducible first | exact State.From.refl _ | assumption | refine next_keeps ?_ | refine ite_keeps_res ?_ ?_ | refine ite_keeps ?_ ?_ | refine (pktIn_keeps ..).trans ?_ | split | dsimp only
theorem execPktBarr_keeps (p : Nat) (s : State) : (execPktBarr p s).From s := by
  unfold execPktBarr
  repeat' with_reducible first | exact State.From.refl _ | assumption | refine next_keeps ?_ | refine ite_keeps_res ?_ ?_ | refine ite_keeps ?_ ?_ | refine (pktIn_keeps ..).trans ?_ | split | dsimp only
theorem execPktBrel_keeps (p : Nat) (s : State) : (execPktBrel p s).From s := by
  unfold execPktBrel
  repeat' with_reducible first | exact State.From.refl _ | assumption | refine next_keeps ?_ | refine ite_keeps_res ?_ ?_ | refine ite_keeps ?_ ?_ | refine (pktIn_keeps ..).trans ?_ | split | dsimp only
theorem execPktBabt_keeps (p : Nat) (s : State) : (execPktBabt p s).From s := by
  unfold execPktBabt
  repeat' with_reducible first | exact State.From.refl _ | assumption | refine next_keeps ?_ | refine ite_keeps_res ?_ ?_ | refine ite_keeps ?_ ?_ | refine (pktIn_keeps ..).trans ?_ | split | dsimp only
theorem execPktLack_keeps (p : Nat) (s : State) : (execPktLack p s).From s := by
  unfold execPktLack
  repeat' with_reducible first | exact State.From.refl _ | assumption | refine next_keeps ?_ | refine ite_keeps_res ?_ ?_ | refine ite_keeps ?_ ?_ | refine (pktIn_keeps ..).trans ?_ | split | dsimp only
theorem execPktNak_keeps (p : Nat) (s : State) : (execPktNak p s).From s := by
  unfold execPktNak
  repeat' with_reducible first | exact State.From.refl _ | assumption | refine next_keeps ?_ | refine ite_keeps_res ?_ ?_ | refine ite_keeps ?_ ?_ | refine (pktIn_keeps ..).trans ?_ | split | dsimp only
theorem execPktCgrant_keeps (p : Nat) (s : State) : (execPktCgrant p s).From s := by
  unfold execPktCgrant
  repeat' with_reducible first | exact State.From.refl _ | assumption | refine next_keeps ?_ | refine ite_keeps_res ?_ ?_ | refine ite_keeps ?_ ?_ | refine (pktIn_keeps ..).trans ?_ | split | dsimp only
theorem execPktTsreq_keeps (p : Nat) (s : State) : (execPktTsreq p s).From s := by
  unfold execPktTsreq
  repeat' with_reducible first | exact State.From.refl _ | assumption | refine next_keeps ?_ | refine ite_keeps_res ?_ ?_ | refine ite_keeps ?_ ?_ | refine (pktIn_keeps ..).trans ?_ | split | dsimp only
theorem execPktTsrsp_keeps (p : Nat) (s : State) : (execPktTsrsp p s).From s := by
  unfold execPktTsrsp
  repeat' with_reducible first | exact State.From.refl _ | assumption | refine next_keeps ?_ | refine ite_keeps_res ?_ ?_ | refine ite_keeps ?_ ?_ | refine (pktIn_keeps ..).trans ?_ | split | dsimp only
theorem execLackSend_keeps (src : Nat) (s : State) : (execLackSend src s).From s := by
  unfold execLackSend
  repeat' with_reducible first | exact State.From.refl _ | assumption | refine next_keeps ?_ | refine ite_keeps_res ?_ ?_ | refine ite_keeps ?_ ?_ | refine (State.sendLack_keeps ..).trans ?_ | refine (State.winRun_keeps ..).trans ?_ | split | dsimp only
theorem execWindowUnitEnable_keeps (m : Master) (w : Word32) (s : State) : (execWindowUnitEnable m w s).From s := by
  unfold execWindowUnitEnable
  repeat' with_reducible first | exact State.From.refl _ | assumption | refine next_keeps ?_ | refine ite_keeps_res ?_ ?_ | refine ite_keeps ?_ ?_ | refine (State.gate_keeps _ _ _ _ _ _  (fun  s => ?_)).trans ?_ | refine (State.put_keeps ..).trans ?_ | refine (State.winRun_keeps ..).trans ?_
theorem State.winErr_keeps (s : State) (m : Master) (base : Nat) (reg : Nat) (kind : Nat) (num : Nat) (reason : Nat) : (State.winErr s m base reg kind num reason).From s := by
  unfold State.winErr
  repeat' with_reducible first | exact State.From.refl _ | assumption | refine ite_keeps ?_ ?_ | refine (State.put_keeps ..).trans ?_ | refine (State.refused_keeps ..).trans ?_
theorem State.winBusy_keeps (s : State) (m : Master) (base : Nat) (reg : Nat) : (State.winBusy s m base reg).From s := by
  unfold State.winBusy
  repeat' with_reducible first | exact State.From.refl _ | assumption | refine ite_keeps ?_ ?_ | refine (State.put_keeps ..).trans ?_ | refine (State.refused_keeps ..).trans ?_
theorem State.registry_keeps (s : State) (w : Nat) (on : Bool) : (State.registry s w on).From s := by
  unfold State.registry
  repeat' with_reducible first | exact State.From.refl _ | assumption | refine ite_keeps ?_ ?_ | refine (State.wnu_keeps ..).trans ?_ | refine (State.sendRecords_keeps ..).trans ?_ | split | dsimp only
theorem State.openWin_keeps (s : State) (m : Master) (w : Nat) : (State.openWin s m w).From s := by
  unfold State.openWin
  repeat' with_reducible first | exact State.From.refl _ | assumption | refine ite_keeps ?_ ?_ | refine (State.wnu_keeps ..).trans ?_ | refine (State.winPut_keeps ..).trans ?_ | refine (State.winErr_keeps ..).trans ?_ | refine (State.winBusy_keeps ..).trans ?_ | refine (State.registry_keeps ..).trans ?_ | split | dsimp only
theorem winCfg0Write_keeps (m : Master) (w : Nat) (v : Word32) (s : State) : (winCfg0Write m w v s).From s := by
  unfold winCfg0Write
  repeat' with_reducible first | exact State.From.refl _ | assumption | refine ite_keeps ?_ ?_ | refine cond_keeps _ _ _ (fun s => ?_) ?_ | refine (State.flagPage_keeps ..).trans ?_ | refine (State.fabStat_keeps ..).trans ?_ | refine (State.gate_keeps _ _ _ _ _ _  (fun  s => ?_)).trans ?_ | refine (State.setFields_keeps ..).trans ?_ | refine (State.winPut_keeps ..).trans ?_ | refine (State.winBusy_keeps ..).trans ?_ | refine (State.openWin_keeps ..).trans ?_ | split | dsimp only
theorem execWindowOpen_keeps (m : Master) (w : Nat) (s : State) : (execWindowOpen m w s).From s := by
  unfold execWindowOpen
  repeat' with_reducible first | exact State.From.refl _ | assumption | refine next_keeps ?_ | refine ite_keeps_res ?_ ?_ | refine ite_keeps ?_ ?_ | refine (State.gate_keeps _ _ _ _ _ _  (fun  s => ?_)).trans ?_ | refine (State.openWin_keeps ..).trans ?_
theorem execWindowClose_keeps (m : Master) (w : Nat) (s : State) : (execWindowClose m w s).From s := by
  unfold execWindowClose
  repeat' with_reducible first | exact State.From.refl _ | assumption | refine next_keeps ?_ | refine ite_keeps_res ?_ ?_ | refine ite_keeps ?_ ?_ | refine cond_keeps _ _ _ (fun s => ?_) ?_ | refine (State.gate_keeps _ _ _ _ _ _  (fun  s => ?_)).trans ?_ | refine (State.winPut_keeps ..).trans ?_
theorem execWindowCloseDone_keeps (w : Nat) (s : State) : (execWindowCloseDone w s).From s := by
  unfold execWindowCloseDone
  repeat' with_reducible first | exact State.From.refl _ | assumption | refine next_keeps ?_ | refine ite_keeps_res ?_ ?_ | refine ite_keeps ?_ ?_ | refine cond_keeps _ _ _ (fun s => ?_) ?_ | refine (State.arr_keeps _ _ (fun a h => ?_)).trans ?_ | refine (State.irq_keeps ..).trans ?_ | refine (State.ctrOp_keeps ..).trans ?_ | refine (State.winPut_keeps ..).trans ?_ | refine (State.winRun_keeps ..).trans ?_ | refine (State.registry_keeps ..).trans ?_ | split | dsimp only
theorem cchCfgWrite_keeps (m : Master) (c : Nat) (w : Word32) (s : State) : (cchCfgWrite m c w s).From s := by
  unfold cchCfgWrite
  repeat' with_reducible first | exact State.From.refl _ | assumption | refine ite_keeps ?_ ?_ | refine cond_keeps _ _ _ (fun s => ?_) ?_ | refine (State.gate_keeps _ _ _ _ _ _  (fun  s => ?_)).trans ?_ | refine (State.cchPut_keeps ..).trans ?_ | refine (State.grant_keeps ..).trans ?_ | refine (State.winErr_keeps ..).trans ?_ | refine foldl_keeps _ _ _ (fun s x => ?_) ?_ | refine foldl_keeps2 _ _ _ (fun s x => ?_) ?_ | refine foldl_keeps3 _ _ _ (fun s x => ?_) ?_ | split | dsimp only
theorem execCchEnable_keeps (m : Master) (c : Nat) (w : Word32) (s : State) : (execCchEnable m c w s).From s := by
  unfold execCchEnable
  repeat' with_reducible first | exact State.From.refl _ | assumption | refine next_keeps ?_ | refine ite_keeps_res ?_ ?_ | refine ite_keeps ?_ ?_ | refine (cchCfgWrite_keeps ..).trans ?_
theorem execCchDisable_keeps (m : Master) (c : Nat) (w : Word32) (s : State) : (execCchDisable m c w s).From s := by
  unfold execCchDisable
  repeat' with_reducible first | exact State.From.refl _ | assumption | refine next_keeps ?_ | refine ite_keeps_res ?_ ?_ | refine ite_keeps ?_ ?_ | refine (cchCfgWrite_keeps ..).trans ?_
theorem execCchDrainDone_keeps (c : Nat) (s : State) : (execCchDrainDone c s).From s := by
  unfold execCchDrainDone
  repeat' with_reducible first | exact State.From.refl _ | assumption | refine next_keeps ?_ | refine ite_keeps_res ?_ ?_ | refine ite_keeps ?_ ?_ | refine (State.syn_keeps ..).trans ?_ | refine (State.cchPut_keeps ..).trans ?_ | split | dsimp only
theorem execCreditReturn_keeps (c : Nat) (s : State) : (execCreditReturn c s).From s := by
  unfold execCreditReturn
  repeat' with_reducible first | exact State.From.refl _ | assumption | refine next_keeps ?_ | refine ite_keeps_res ?_ ?_ | refine ite_keeps ?_ ?_ | refine (State.syn_keeps ..).trans ?_ | refine (State.cchPut_keeps ..).trans ?_ | refine (State.grant_keeps ..).trans ?_ | split | dsimp only
theorem State.tokenMark_keeps (s : State) (t : Token) : (State.tokenMark s t).From s := by
  unfold State.tokenMark
  repeat' with_reducible first | exact State.From.refl _ | assumption | refine ite_keeps ?_ ?_ | refine cond_keeps _ _ _ (fun s => ?_) ?_ | refine (State.arrivalIn_keeps ..).trans ?_ | refine (State.setToken_keeps ..).trans ?_ | split | dsimp only
theorem execTokenLanded_keeps (id : Nat) (s : State) : (execTokenLanded id s).From s := by
  unfold execTokenLanded
  repeat' with_reducible first | exact State.From.refl _ | assumption | refine next_keeps ?_ | refine ite_keeps_res ?_ ?_ | refine ite_keeps ?_ ?_ | refine cond_keeps _ _ _ (fun s => ?_) ?_ | refine (State.bump_keeps ..).trans ?_ | refine (State.arr_keeps _ _ (fun a h => ?_)).trans ?_ | refine (State.wnu_keeps ..).trans ?_ | refine (State.nakTo_keeps ..).trans ?_ | refine (State.syn_keeps ..).trans ?_ | refine (State.fillSlot_keeps ..).trans ?_ | refine (State.lack_keeps ..).trans ?_ | refine (State.winRun_keeps ..).trans ?_ | refine (State.tokenMark_keeps ..).trans ?_ | split | dsimp only
theorem execNotifyEffect_keeps (k : Nat) (s : State) : (execNotifyEffect k s).From s := by
  unfold execNotifyEffect
  repeat' with_reducible first | exact State.From.refl _ | assumption | refine next_keeps ?_ | refine ite_keeps_res ?_ ?_ | refine ite_keeps ?_ ?_ | refine cond_keeps _ _ _ (fun s => ?_) ?_ | refine (State.arr_keeps _ _ (fun a h => ?_)).trans ?_ | refine (State.wnu_keeps ..).trans ?_ | refine (State.ctrOp_keeps ..).trans ?_ | refine (State.fillSlot_keeps ..).trans ?_ | refine (State.lack_keeps ..).trans ?_ | refine (State.countBarr_keeps ..).trans ?_ | refine (State.winRun_keeps ..).trans ?_ | unfold id | split | dsimp only
theorem execFenceTimeout_keeps (k : Nat) (s : State) : (execFenceTimeout k s).From s := by
  unfold execFenceTimeout
  repeat' with_reducible first | exact State.From.refl _ | assumption | refine next_keeps ?_ | refine ite_keeps_res ?_ ?_ | refine ite_keeps ?_ ?_ | refine (State.bumpSat_keeps ..).trans ?_ | refine (State.irq_keeps ..).trans ?_ | refine (State.wnu_keeps ..).trans ?_ | refine (State.nakTo_keeps ..).trans ?_ | refine (State.winRun_keeps ..).trans ?_ | split | dsimp only
theorem sentSelWrite_keeps (m : Master) (w : Word32) (s : State) : (sentSelWrite m w s).From s := by
  unfold sentSelWrite
  repeat' with_reducible first | exact State.From.refl _ | assumption | refine ite_keeps ?_ ?_ | refine cond_keeps _ _ _ (fun s => ?_) ?_ | refine (State.gate_keeps _ _ _ _ _ _  (fun  s => ?_)).trans ?_ | refine (State.setFields_keeps ..).trans ?_ | refine (State.wnu_keeps ..).trans ?_ | split | dsimp only
theorem execSentClr_keeps (m : Master) (dev : Nat) (w : Nat) (s : State) : (execSentClr m dev w s).From s := by
  unfold execSentClr
  repeat' with_reducible first | exact State.From.refl _ | assumption | refine next_keeps ?_ | refine ite_keeps_res ?_ ?_ | refine ite_keeps ?_ ?_ | refine (sentSelWrite_keeps ..).trans ?_
theorem execSentClrall_keeps (m : Master) (s : State) : (execSentClrall m s).From s := by
  unfold execSentClrall
  repeat' with_reducible first | exact State.From.refl _ | assumption | refine next_keeps ?_ | refine ite_keeps_res ?_ ?_ | refine ite_keeps ?_ ?_ | refine (sentSelWrite_keeps ..).trans ?_

end Sys2Proof.Machine
end

