-- ==== Sys2Proof/Laws/KeepHandle.lean ====
section
/-! SUPPORT. What no operation of Machine/Handle.lean changes: the configuration, the queue of waiting commands, the canonical form of memory. -/
namespace Sys2Proof.Machine

theorem State.hcmdEnd_keeps (s : State) (h : Nat) (result : Nat) : (State.hcmdEnd s h result).From s := by
  unfold State.hcmdEnd
  repeat' with_reducible first | exact State.From.refl _ | assumption | refine ite_keeps ?_ ?_ | refine (State.put_keeps ..).trans ?_ | refine (State.upd_hcmd_keeps ..).trans ?_
theorem State.hcmdStart_keeps (s : State) (op : Nat) (h : Nat) (iclear : Bool) (d : Desc) : (State.hcmdStart s op h iclear d).From s := by
  unfold State.hcmdStart
  repeat' with_reducible first | exact State.From.refl _ | assumption | refine ite_keeps ?_ ?_ | refine (State.put_keeps ..).trans ?_ | refine (State.upd_hcmd_keeps ..).trans ?_
theorem State.hcmdRead_keeps (s : State) (h : Nat) : (State.hcmdRead s h).From s := by
  unfold State.hcmdRead
  repeat' with_reducible first | exact State.From.refl _ | assumption | refine ite_keeps ?_ ?_ | refine each_keeps _ _ _ (fun s x => ?_) ?_ | refine getD_keeps (fun t h => ?_) ?_ | refine (State.wr_keeps ..).trans ?_ | refine (State.put_keeps ..).trans ?_ | refine (State.hcmdEnd_keeps ..).trans ?_
theorem State.hcmdFields_keeps (s : State) (w : Word32) : (State.hcmdFields s w).From s := by
  unfold State.hcmdFields
  repeat' with_reducible first | exact State.From.refl _ | assumption | refine ite_keeps ?_ ?_ | refine (State.put_keeps ..).trans ?_ | refine foldl_keeps _ _ _ (fun s x => ?_) ?_ | refine foldl_keeps2 _ _ _ (fun s x => ?_) ?_ | refine foldl_keeps3 _ _ _ (fun s x => ?_) ?_
theorem State.hcmdGo_keeps (s : State) (m : Master) (op : Nat) (h : Nat) (ovchk : Bool) (iclear : Bool) : (State.hcmdGo s m op h ovchk iclear).From s := by
  unfold State.hcmdGo
  repeat' with_reducible first | exact State.From.refl _ | assumption | refine ite_keeps ?_ ?_ | refine cond_keeps _ _ _ (fun s => ?_) ?_ | refine getD_keeps (fun t h => ?_) ?_ | refine (State.put_keeps ..).trans ?_ | refine (State.refused_keeps ..).trans ?_ | refine (State.dropScales_keeps ..).trans ?_ | refine (State.wakeUnpermitted_keeps ..).trans ?_ | refine (State.hcmdEnd_keeps ..).trans ?_ | refine (State.hcmdStart_keeps ..).trans ?_ | refine (State.hcmdRead_keeps ..).trans ?_ | split | refine (State.upd_handles_keeps ..).trans ?_ | dsimp only
theorem hcmdWrite_keeps (m : Master) (w : Word32) (s : State) : (hcmdWrite m w s).From s := by
  unfold hcmdWrite
  repeat' with_reducible first | exact State.From.refl _ | assumption | refine ite_keeps ?_ ?_ | refine (State.gate_keeps _ _ _ _ _ _  (fun  s => ?_)).trans ?_ | refine (State.put_keeps ..).trans ?_ | refine (State.refused_keeps ..).trans ?_ | refine (State.hcmdFields_keeps ..).trans ?_ | refine (State.hcmdGo_keeps ..).trans ?_ | split | dsimp only
theorem execHandleInstall_keeps (m : Master) (h : Nat) (ovchk : Bool) (iclear : Bool) (s : State) : (execHandleInstall m h ovchk iclear s).From s := by
  unfold execHandleInstall
  repeat' with_reducible first | exact State.From.refl _ | assumption | refine next_keeps ?_ | refine ite_keeps_res ?_ ?_ | refine ite_keeps ?_ ?_ | refine (hcmdWrite_keeps ..).trans ?_
theorem execHandleModify_keeps (m : Master) (h : Nat) (s : State) : (execHandleModify m h s).From s := by
  unfold execHandleModify
  repeat' with_reducible first | exact State.From.refl _ | assumption | refine next_keeps ?_ | refine ite_keeps_res ?_ ?_ | refine ite_keeps ?_ ?_ | refine (hcmdWrite_keeps ..).trans ?_
theorem execHandleRetire_keeps (m : Master) (h : Nat) (s : State) : (execHandleRetire m h s).From s := by
  unfold execHandleRetire
  repeat' with_reducible first | exact State.From.refl _ | assumption | refine next_keeps ?_ | refine ite_keeps_res ?_ ?_ | refine ite_keeps ?_ ?_ | refine (hcmdWrite_keeps ..).trans ?_
theorem execHandleClear_keeps (m : Master) (h : Nat) (s : State) : (execHandleClear m h s).From s := by
  unfold execHandleClear
  repeat' with_reducible first | exact State.From.refl _ | assumption | refine next_keeps ?_ | refine ite_keeps_res ?_ ?_ | refine ite_keeps ?_ ?_ | refine (hcmdWrite_keeps ..).trans ?_
theorem execHandleRead_keeps (m : Master) (h : Nat) (s : State) : (execHandleRead m h s).From s := by
  unfold execHandleRead
  repeat' with_reducible first | exact State.From.refl _ | assumption | refine next_keeps ?_ | refine ite_keeps_res ?_ ?_ | refine ite_keeps ?_ ?_ | refine (hcmdWrite_keeps ..).trans ?_
theorem execInstallClassMapDone_keeps (s : State) : (execInstallClassMapDone s).From s := by
  unfold execInstallClassMapDone
  repeat' with_reducible first | exact State.From.refl _ | assumption | refine next_keeps ?_ | refine ite_keeps_res ?_ ?_ | refine ite_keeps ?_ ?_ | refine (State.arr_keeps _ _ (fun a h => ?_)).trans ?_ | refine (State.stage_keeps ..).trans ?_ | split | refine (State.upd_hcmd_keeps ..).trans ?_ | dsimp only
theorem State.clearHandle_keeps (s : State) (d : Desc) (want : Nat → Nat → Bool) : (State.clearHandle s d want).From s := by
  unfold State.clearHandle
  repeat' with_reducible first | exact State.From.refl _ | assumption | refine ite_keeps ?_ ?_ | refine each_keeps _ _ _ (fun s x => ?_) ?_ | refine (State.clearFrames_keeps ..).trans ?_ | refine (State.energy_keeps ..).trans ?_ | refine (State.settle_keeps ..).trans ?_ | split | dsimp only
theorem execInstallDone_keeps (s : State) : (execInstallDone s).From s := by
  unfold execInstallDone
  repeat' with_reducible first | exact State.From.refl _ | assumption | refine next_keeps ?_ | refine ite_keeps_res ?_ ?_ | refine ite_keeps ?_ ?_ | refine (State.arr_keeps _ _ (fun a h => ?_)).trans ?_ | refine (State.put_keeps ..).trans ?_ | refine (State.bump_keeps ..).trans ?_ | refine (State.wakeUnpermitted_keeps ..).trans ?_ | refine (State.stage_keeps ..).trans ?_ | refine (State.hcmdEnd_keeps ..).trans ?_ | refine (State.clearHandle_keeps ..).trans ?_ | split | refine (State.upd_handles_keeps ..).trans ?_ | dsimp only
theorem execClearDone_keeps (s : State) : (execClearDone s).From s := by
  unfold execClearDone
  repeat' with_reducible first | exact State.From.refl _ | assumption | refine next_keeps ?_ | refine ite_keeps_res ?_ ?_ | refine ite_keeps ?_ ?_ | refine (State.hcmdEnd_keeps ..).trans ?_ | refine (State.clearHandle_keeps ..).trans ?_ | split | dsimp only
theorem execModifyDone_keeps (s : State) : (execModifyDone s).From s := by
  unfold execModifyDone
  repeat' with_reducible first | exact State.From.refl _ | assumption | refine next_keeps ?_ | refine ite_keeps_res ?_ ?_ | refine ite_keeps ?_ ?_ | refine (State.hcmdEnd_keeps ..).trans ?_ | split | dsimp only
theorem execHandleFreed_keeps (s : State) : (execHandleFreed s).From s := by
  unfold execHandleFreed
  repeat' with_reducible first | exact State.From.refl _ | assumption | refine next_keeps ?_ | refine ite_keeps_res ?_ ?_ | refine ite_keeps ?_ ?_ | refine (State.put_keeps ..).trans ?_ | refine (State.hcmdEnd_keeps ..).trans ?_ | split | refine (State.upd_handles_keeps ..).trans ?_ | dsimp only

end Sys2Proof.Machine
end

