-- ==== Sys2Proof/Laws/KeepInteg.lean ====
section
/-! SUPPORT. What no operation of Machine/Integ.lean changes: the configuration, the queue of waiting commands, the canonical form of memory. -/
namespace Sys2Proof.Machine

theorem execCorrectionWriteback_keeps (id : Nat) (s : State) : (execCorrectionWriteback id s).From s := by
  unfold execCorrectionWriteback
  repeat' with_reducible first | exact State.From.refl _ | assumption | refine next_keeps ?_ | refine ite_keeps_res ?_ ?_ | refine ite_keeps ?_ ?_ | refine each_keeps _ _ _ (fun s x => ?_) ?_ | refine (State.rim_keeps ..).trans ?_ | refine (rimArb_keeps ..).trans ?_ | refine (State.stepsLand_keeps ..).trans ?_ | split | dsimp only
theorem State.switchAtOnce_keeps (s : State) (layer : Nat) (i : Nat) (cause : Nat) : (State.switchAtOnce s layer i cause).From s := by
  unfold State.switchAtOnce
  repeat' with_reducible first | exact State.From.refl _ | assumption | refine ite_keeps ?_ ?_ | refine getD_keeps (fun t h => ?_) ?_ | refine (State.copyEnd_keeps ..).trans ?_ | refine (State.setMap_keeps ..).trans ?_ | refine (State.setRole_keeps ..).trans ?_ | refine (State.setRimUp_keeps ..).trans ?_ | refine (State.parkRim_keeps ..).trans ?_ | refine (State.loseFrom_keeps ..).trans ?_ | refine (State.loseRim_keeps ..).trans ?_ | split | dsimp only
theorem State.takeOver_keeps (s : State) (layer : Nat) (i : Nat) : (State.takeOver s layer i).From s := by
  unfold State.takeOver
  repeat' with_reducible first | exact State.From.refl _ | assumption | refine ite_keeps ?_ ?_ | refine (State.ig_keeps ..).trans ?_ | refine (State.setRole_keeps ..).trans ?_
theorem State.dropRim_keeps (s : State) (layer : Nat) (i : Nat) : (State.dropRim s layer i).From s := by
  unfold State.dropRim
  repeat' with_reducible first | exact State.From.refl _ | assumption | refine ite_keeps ?_ ?_ | refine (State.setMap_keeps ..).trans ?_ | refine (State.setRimUp_keeps ..).trans ?_ | refine (State.parkRim_keeps ..).trans ?_ | refine (State.loseRim_keeps ..).trans ?_ | split | dsimp only
theorem State.retireLost_keeps (s : State) (layer : Nat) : (State.retireLost s layer).From s := by
  unfold State.retireLost
  repeat' with_reducible first | exact State.From.refl _ | assumption | refine ite_keeps ?_ ?_ | refine cond_keeps _ _ _ (fun s => ?_) ?_ | refine (State.rim_keeps ..).trans ?_ | refine (State.rimCmdDone_keeps ..).trans ?_ | refine (State.dropRim_keeps ..).trans ?_ | split | dsimp only
theorem State.retireRim_keeps (s : State) (m : Master) (layer : Nat) (i : Nat) : (State.retireRim s m layer i).From s := by
  unfold State.retireRim
  repeat' with_reducible first | exact State.From.refl _ | assumption | refine ite_keeps ?_ ?_ | refine cond_keeps _ _ _ (fun s => ?_) ?_ | refine (State.put_keeps ..).trans ?_ | refine (State.refused_keeps ..).trans ?_ | refine (State.copyEnd_keeps ..).trans ?_ | refine (State.ig_keeps ..).trans ?_ | refine (State.setRimUp_keeps ..).trans ?_ | refine (State.loseRim_keeps ..).trans ?_ | refine (State.ftEnd_keeps ..).trans ?_ | refine (State.ftGiveUp_keeps ..).trans ?_ | refine (State.rimCmdAnswer_keeps ..).trans ?_ | refine (State.rimCmdDone_keeps ..).trans ?_ | refine (State.switchAtOnce_keeps ..).trans ?_ | refine (State.takeOver_keeps ..).trans ?_ | refine (State.dropRim_keeps ..).trans ?_ | split | dsimp only
theorem State.evacuate_keeps (s : State) (m : Master) (layer : Nat) (i : Nat) : (State.evacuate s m layer i).From s := by
  unfold State.evacuate
  repeat' with_reducible first | exact State.From.refl _ | assumption | refine ite_keeps ?_ ?_ | refine (State.put_keeps ..).trans ?_ | refine (State.refused_keeps ..).trans ?_ | refine (State.copyStart_keeps ..).trans ?_ | refine (State.ig_keeps ..).trans ?_ | refine (State.setRole_keeps ..).trans ?_ | refine (State.clearRim_keeps ..).trans ?_ | refine (State.rimCmdDone_keeps ..).trans ?_ | split | dsimp only
theorem State.abortEvac_keeps (s : State) : (State.abortEvac s).From s := by
  unfold State.abortEvac
  repeat' with_reducible first | exact State.From.refl _ | assumption | refine (pair_keeps (State.draw_keeps ..) (by assumption)).trans ?_ | refine ite_keeps ?_ ?_ | refine (State.draw_keeps ..).trans ?_ | refine (State.copyEnd_keeps ..).trans ?_ | refine (State.setRole_keeps ..).trans ?_ | refine (State.rimCmdDone_keeps ..).trans ?_ | split | dsimp only
theorem rimCmdWrite_keeps (m : Master) (w : Word32) (s : State) : (rimCmdWrite m w s).From s := by
  unfold rimCmdWrite
  repeat' with_reducible first | exact State.From.refl _ | assumption | refine ite_keeps ?_ ?_ | refine (State.put_keeps ..).trans ?_ | refine (State.refused_keeps ..).trans ?_ | refine (State.gate_keeps _ _ _ _ _ _  (fun  s => ?_)).trans ?_ | refine (State.setFields_keeps ..).trans ?_ | refine (State.rimCmdDone_keeps ..).trans ?_ | refine (State.retireRim_keeps ..).trans ?_ | refine (State.evacuate_keeps ..).trans ?_ | refine (State.abortEvac_keeps ..).trans ?_ | split | dsimp only
theorem execRimCmdRetire_keeps (m : Master) (layer : Nat) (rim : Nat) (s : State) : (execRimCmdRetire m layer rim s).From s := by
  unfold execRimCmdRetire
  repeat' with_reducible first | exact State.From.refl _ | assumption | refine next_keeps ?_ | refine ite_keeps_res ?_ ?_ | refine ite_keeps ?_ ?_ | refine (State.rim_keeps ..).trans ?_ | refine (rimCmdWrite_keeps ..).trans ?_ | split | dsimp only
theorem execRimCmdEvacuate_keeps (m : Master) (layer : Nat) (rim : Nat) (s : State) : (execRimCmdEvacuate m layer rim s).From s := by
  unfold execRimCmdEvacuate
  repeat' with_reducible first | exact State.From.refl _ | assumption | refine next_keeps ?_ | refine ite_keeps_res ?_ ?_ | refine ite_keeps ?_ ?_ | refine (State.rim_keeps ..).trans ?_ | refine (rimCmdWrite_keeps ..).trans ?_
theorem execRimCmdAbort_keeps (m : Master) (s : State) : (execRimCmdAbort m s).From s := by
  unfold execRimCmdAbort
  repeat' with_reducible first | exact State.From.refl _ | assumption | refine next_keeps ?_ | refine ite_keeps_res ?_ ?_ | refine ite_keeps ?_ ?_ | refine (rimCmdWrite_keeps ..).trans ?_
theorem execSpareTakeoverDone_keeps (s : State) : (execSpareTakeoverDone s).From s := by
  unfold execSpareTakeoverDone
  repeat' with_reducible first | exact State.From.refl _ | assumption | refine next_keeps ?_ | refine ite_keeps_res ?_ ?_ | refine ite_keeps ?_ ?_ | refine cond_keeps _ _ _ (fun s => ?_) ?_ | refine (State.rim_keeps ..).trans ?_ | refine (State.setMap_keeps ..).trans ?_ | refine (State.setRimUp_keeps ..).trans ?_ | refine (State.parkRim_keeps ..).trans ?_ | refine (State.clearRim_keeps ..).trans ?_ | refine (State.loseFrom_keeps ..).trans ?_ | refine (State.loseRim_keeps ..).trans ?_ | refine (State.rimCmdDone_keeps ..).trans ?_ | split | dsimp only
theorem execEvacuationDone_keeps (s : State) : (execEvacuationDone s).From s := by
  unfold execEvacuationDone
  repeat' with_reducible first | exact State.From.refl _ | assumption | refine next_keeps ?_ | refine ite_keeps_res ?_ ?_ | refine ite_keeps ?_ ?_ | refine (State.rim_keeps ..).trans ?_ | refine (State.copyEnd_keeps ..).trans ?_ | refine (State.setMap_keeps ..).trans ?_ | refine (State.setRole_keeps ..).trans ?_ | refine (State.parkRim_keeps ..).trans ?_ | refine (State.rimCmdDone_keeps ..).trans ?_ | split | dsimp only
theorem State.isolate_keeps (s : State) (layer : Nat) (p : Nat) (cause : Nat) : (State.isolate s layer p cause).From s := by
  unfold State.isolate
  repeat' with_reducible first | exact State.From.refl _ | assumption | refine ite_keeps ?_ ?_ | refine (State.put_keeps ..).trans ?_
theorem State.rimFault_keeps (s : State) (layer : Nat) (p : Nat) (cause : Nat) : (State.rimFault s layer p cause).From s := by
  unfold State.rimFault
  repeat' with_reducible first | exact State.From.refl _ | assumption | refine ite_keeps ?_ ?_ | refine (State.recordFault_keeps ..).trans ?_ | refine (State.setRole_keeps ..).trans ?_ | refine (State.setRimUp_keeps ..).trans ?_ | refine (State.parkRim_keeps ..).trans ?_ | refine (State.loseRim_keeps ..).trans ?_ | refine (State.ftEnd_keeps ..).trans ?_ | refine (State.rimCmdDone_keeps ..).trans ?_ | refine (State.switchAtOnce_keeps ..).trans ?_ | refine (State.retireLost_keeps ..).trans ?_ | refine (State.isolate_keeps ..).trans ?_ | split | dsimp only
theorem State.loseSlots_keeps (s : State) (layer : Nat) (i : Nat) (n : Nat) : (State.loseSlots s layer i n).From s := by
  unfold State.loseSlots
  repeat' with_reducible first | exact State.From.refl _ | assumption | refine ite_keeps ?_ ?_ | refine (State.clearFrames_keeps ..).trans ?_ | refine (State.loseFrom_keeps ..).trans ?_ | split | dsimp only
theorem State.redirectLost_keeps (s : State) (layer : Nat) (i : Nat) (n : Nat) (result : Nat) : (State.redirectLost s layer i n result).From s := by
  unfold State.redirectLost
  repeat' with_reducible first | exact State.From.refl _ | assumption | refine ite_keeps ?_ ?_ | refine (State.setMap_keeps ..).trans ?_ | refine (State.ftEnd_keeps ..).trans ?_ | refine (State.loseSlots_keeps ..).trans ?_ | split | dsimp only
theorem State.spareFault_keeps (s : State) (layer : Nat) (cause : Nat) : (State.spareFault s layer cause).From s := by
  unfold State.spareFault
  repeat' with_reducible first | exact State.From.refl _ | assumption | refine ite_keeps ?_ ?_ | refine cond_keeps _ _ _ (fun s => ?_) ?_ | refine getD_keeps (fun t h => ?_) ?_ | refine (State.copyEnd_keeps ..).trans ?_ | refine (State.recordFault_keeps ..).trans ?_ | refine (State.listRetired_keeps ..).trans ?_ | refine (State.setMap_keeps ..).trans ?_ | refine (State.setRole_keeps ..).trans ?_ | refine (State.setRimUp_keeps ..).trans ?_ | refine (State.loseRim_keeps ..).trans ?_ | refine (State.ftEnd_keeps ..).trans ?_ | refine (State.rimCmdDone_keeps ..).trans ?_ | refine (State.retireLost_keeps ..).trans ?_ | refine (State.isolate_keeps ..).trans ?_ | refine (State.redirectLost_keeps ..).trans ?_ | split | dsimp only
theorem execRimHardFault_keeps (layer : Nat) (p : Nat) (cause : Nat) (s : State) : (execRimHardFault layer p cause s).From s := by
  unfold execRimHardFault
  repeat' with_reducible first | exact State.From.refl _ | assumption | refine next_keeps ?_ | refine ite_keeps_res ?_ ?_ | refine ite_keeps ?_ ?_ | refine (State.rimFault_keeps ..).trans ?_ | refine (State.spareFault_keeps ..).trans ?_ | split | dsimp only
theorem State.isolateSector_keeps (s : State) (layer : Nat) (sector : Nat) (cause : Nat) : (State.isolateSector s layer sector cause).From s := by
  unfold State.isolateSector
  repeat' with_reducible first | exact State.From.refl _ | assumption | refine ite_keeps ?_ ?_ | refine cond_keeps _ _ _ (fun s => ?_) ?_ | refine each_keeps _ _ _ (fun s x => ?_) ?_ | refine (State.rim_keeps ..).trans ?_ | refine (State.copyEnd_keeps ..).trans ?_ | refine (State.ig_keeps ..).trans ?_ | refine (State.setMap_keeps ..).trans ?_ | refine (State.setRole_keeps ..).trans ?_ | refine (State.setRimUp_keeps ..).trans ?_ | refine (State.loseRim_keeps ..).trans ?_ | refine (State.ftEnd_keeps ..).trans ?_ | refine (State.rimCmdDone_keeps ..).trans ?_ | refine (State.retireLost_keeps ..).trans ?_ | refine (State.isolate_keeps ..).trans ?_ | split | dsimp only
theorem execSectorPeripheryFault_keeps (layer : Nat) (sector : Nat) (cause : Nat) (s : State) : (execSectorPeripheryFault layer sector cause s).From s := by
  unfold execSectorPeripheryFault
  repeat' with_reducible first | exact State.From.refl _ | assumption | refine next_keeps ?_ | refine ite_keeps_res ?_ ?_ | refine ite_keeps ?_ ?_ | refine (State.recordFault_keeps ..).trans ?_ | refine (State.isolateSector_keeps ..).trans ?_ | split | dsimp only
theorem execSyncPlaneFault_keeps (cause : Nat) (s : State) : (execSyncPlaneFault cause s).From s := by
  unfold execSyncPlaneFault
  repeat' with_reducible first | exact State.From.refl _ | assumption | refine next_keeps ?_ | refine ite_keeps_res ?_ ?_ | refine ite_keeps ?_ ?_ | refine (State.recordFault_keeps ..).trans ?_ | refine (State.park_keeps ..).trans ?_ | split | dsimp only
theorem execPortAdapterFault_keeps (x : Nat) (s : State) : (execPortAdapterFault x s).From s := by
  unfold execPortAdapterFault
  repeat' with_reducible first | exact State.From.refl _ | assumption | refine next_keeps ?_ | refine ite_keeps_res ?_ ?_ | refine ite_keeps ?_ ?_ | refine (State.port_keeps ..).trans ?_ | split | dsimp only
theorem execMoverEngineFault_keeps (e : Nat) (s : State) : (execMoverEngineFault e s).From s := by
  unfold execMoverEngineFault
  repeat' with_reducible first | exact State.From.refl _ | assumption | refine next_keeps ?_ | refine ite_keeps_res ?_ ?_ | refine ite_keeps ?_ ?_ | refine each_keeps _ _ _ (fun s x => ?_) ?_ | refine (State.port_keeps ..).trans ?_ | split | dsimp only
theorem execCeThresholdCrossed_keeps (layer : Nat) (p : Nat) (s : State) : (execCeThresholdCrossed layer p s).From s := by
  unfold execCeThresholdCrossed
  repeat' with_reducible first | exact State.From.refl _ | assumption | refine next_keeps ?_ | refine ite_keeps_res ?_ ?_ | refine ite_keeps ?_ ?_ | refine (State.irq_keeps ..).trans ?_ | refine (State.ig_keeps ..).trans ?_ | refine (rimCmdWrite_keeps ..).trans ?_ | split | dsimp only
theorem State.scrubPost_keeps (s : State) : (State.scrubPost s).From s := by
  unfold State.scrubPost
  repeat' with_reducible first | exact State.From.refl _ | assumption | refine ite_keeps ?_ ?_ | refine cond_keeps _ _ _ (fun s => ?_) ?_ | refine (State.ig_keeps ..).trans ?_ | refine (State.subTake_keeps ..).trans ?_ | split | dsimp only
theorem State.scrubGo_keeps (s : State) (m : Master) : (State.scrubGo s m).From s := by
  unfold State.scrubGo
  repeat' with_reducible first | exact State.From.refl _ | assumption | refine ite_keeps ?_ ?_ | refine each_keeps _ _ _ (fun s x => ?_) ?_ | refine (State.wr_keeps ..).trans ?_ | refine (State.put_keeps ..).trans ?_ | refine (State.refused_keeps ..).trans ?_ | refine (State.ig_keeps ..).trans ?_ | refine (State.scrubPost_keeps ..).trans ?_ | split | dsimp only
theorem State.scrubAbort_keeps (s : State) : (State.scrubAbort s).From s := by
  unfold State.scrubAbort
  repeat' with_reducible first | exact State.From.refl _ | assumption | refine ite_keeps ?_ ?_ | refine (State.ig_keeps ..).trans ?_ | split | dsimp only
theorem State.scrubEm1_keeps (s : State) : (State.scrubEm1 s).From s := by
  unfold State.scrubEm1
  repeat' with_reducible first | exact State.From.refl _ | assumption | refine ite_keeps ?_ ?_ | refine (State.ig_keeps ..).trans ?_
theorem scrubCmdWrite_keeps (m : Master) (w : Word32) (s : State) : (scrubCmdWrite m w s).From s := by
  unfold scrubCmdWrite
  repeat' with_reducible first | exact State.From.refl _ | assumption | refine ite_keeps ?_ ?_ | refine cond_keeps _ _ _ (fun s => ?_) ?_ | refine (State.gate_keeps _ _ _ _ _ _  (fun  s => ?_)).trans ?_ | refine (State.setFields_keeps ..).trans ?_ | refine (State.scrubGo_keeps ..).trans ?_ | refine (State.scrubAbort_keeps ..).trans ?_
theorem execScrubGo_keeps (m : Master) (pta : Bool) (tid : Nat) (chan : Nat) (s : State) : (execScrubGo m pta tid chan s).From s := by
  unfold execScrubGo
  repeat' with_reducible first | exact State.From.refl _ | assumption | refine next_keeps ?_ | refine ite_keeps_res ?_ ?_ | refine ite_keeps ?_ ?_ | refine (State.chan_keeps ..).trans ?_ | refine (scrubCmdWrite_keeps ..).trans ?_
theorem execScrubAbort_keeps (m : Master) (s : State) : (execScrubAbort m s).From s := by
  unfold execScrubAbort
  repeat' with_reducible first | exact State.From.refl _ | assumption | refine next_keeps ?_ | refine ite_keeps_res ?_ ?_ | refine ite_keeps ?_ ?_ | refine (scrubCmdWrite_keeps ..).trans ?_
theorem execScrubPassDone_keeps (s : State) : (execScrubPassDone s).From s := by
  unfold execScrubPassDone
  repeat' with_reducible first | exact State.From.refl _ | assumption | refine next_keeps ?_ | refine ite_keeps_res ?_ ?_ | refine ite_keeps ?_ ?_ | refine (State.wr_keeps ..).trans ?_ | refine (State.put_keeps ..).trans ?_ | refine (State.irq_keeps ..).trans ?_ | refine (State.ig_keeps ..).trans ?_ | split | dsimp only
theorem flipCtlWrite_keeps (m : Master) (w : Word32) (s : State) : (flipCtlWrite m w s).From s := by
  unfold flipCtlWrite
  repeat' with_reducible first | exact State.From.refl _ | assumption | refine ite_keeps ?_ ?_ | refine cond_keeps _ _ _ (fun s => ?_) ?_ | refine (State.gate_keeps _ _ _ _ _ _  (fun  s => ?_)).trans ?_ | refine (State.arr_keeps _ _ (fun a h => ?_)).trans ?_ | refine (State.put_keeps ..).trans ?_ | refine (State.rim_keeps ..).trans ?_ | refine (State.setFields_keeps ..).trans ?_
theorem execFlipArm_keeps (m : Master) (layer : Nat) (bank : Nat) (rim : Nat) (s : State) : (execFlipArm m layer bank rim s).From s := by
  unfold execFlipArm
  repeat' with_reducible first | exact State.From.refl _ | assumption | refine next_keeps ?_ | refine ite_keeps_res ?_ ?_ | refine ite_keeps ?_ ?_ | refine (State.rim_keeps ..).trans ?_ | refine (flipCtlWrite_keeps ..).trans ?_
theorem State.psnRead_keeps (s : State) : (State.psnRead s).2.From s := by
  unfold State.psnRead
  repeat' with_reducible first | exact State.From.refl _ | assumption | refine ite_keeps ?_ ?_ | refine ite_keeps_pair ?_ ?_ | refine (State.wr_keeps ..).trans ?_ | split | refine (State.upd_psnLog_keeps ..).trans ?_ | dsimp only
theorem execPsnLogRead_keeps (m : Master) (s : State) : (execPsnLogRead m s).From s := by
  unfold execPsnLogRead
  repeat' with_reducible first | exact State.From.refl _ | assumption | refine (pair_keeps (State.psnRead_keeps ..) (by assumption)).trans ?_ | refine next_keeps ?_ | refine ite_keeps_res ?_ ?_ | refine ite_keeps ?_ ?_ | refine (State.answerMaster_keeps ..).trans ?_ | refine (State.psnRead_keeps ..).trans ?_ | split | dsimp only
theorem State.unreachable_keeps (s : State) (layer : Nat) (sector : Nat) : (State.unreachable s layer sector).From s := by
  unfold State.unreachable
  repeat' with_reducible first | exact State.From.refl _ | assumption | refine ite_keeps ?_ ?_ | refine (State.put_keeps ..).trans ?_ | refine (State.recordFault_keeps ..).trans ?_ | refine (State.isolateSector_keeps ..).trans ?_
theorem execDrigarParityError_keeps (n : Nat) (layer : Nat) (sector : Nat) (group : Nat) (halvesA : Nat) (halvesB : Nat) (s : State) : (execDrigarParityError n layer sector group halvesA halvesB s).From s := by
  unfold execDrigarParityError
  repeat' with_reducible first | exact State.From.refl _ | assumption | refine next_keeps ?_ | refine ite_keeps_res ?_ ?_ | refine ite_keeps ?_ ?_ | refine (State.bump_keeps ..).trans ?_ | refine (State.bumpSat_keeps ..).trans ?_ | refine (State.mismatch_keeps ..).trans ?_ | refine (State.ig_keeps ..).trans ?_ | refine (State.unreachable_keeps ..).trans ?_ | refine (State.upd_spokeHeld_keeps ..).trans ?_ | (unfold State.From; exact ⟨rfl, rfl, id⟩) | split | dsimp only
theorem execSpokeResume_keeps (layer : Nat) (sector : Nat) (s : State) : (execSpokeResume layer sector s).From s := by
  unfold execSpokeResume
  repeat' with_reducible first | exact State.From.refl _ | assumption | refine next_keeps ?_ | refine ite_keeps_res ?_ ?_ | refine ite_keeps ?_ ?_ | refine (State.upd_spokeHeld_keeps ..).trans ?_

end Sys2Proof.Machine
end

