-- ==== Sys2Proof/Laws/KeepPower.lean ====
section
/-! SUPPORT. What no operation of Machine/Power.lean changes: the configuration, the queue of waiting commands, the canonical form of memory. -/
namespace Sys2Proof.Machine

theorem State.thStat_keeps (s : State) : (State.thStat s).From s := by
  unfold State.thStat
  repeat' with_reducible first | exact State.From.refl _ | assumption | refine ite_keeps ?_ ?_ | refine (State.put_keeps ..).trans ?_ | split | dsimp only
theorem State.otUpdate_keeps (s : State) : (State.otUpdate s).From s := by
  unfold State.otUpdate
  repeat' with_reducible first | exact State.From.refl _ | assumption | refine ite_keeps ?_ ?_ | refine (State.put_keeps ..).trans ?_ | refine (State.emgUpdate_keeps ..).trans ?_
theorem State.domOff_keeps (s : State) (n : Nat) : (State.domOff s n).From s := by
  unfold State.domOff
  repeat' with_reducible first | exact State.From.refl _ | assumption | refine ite_keeps ?_ ?_ | refine each_keeps _ _ _ (fun s x => ?_) ?_ | refine (State.put_keeps ..).trans ?_ | refine (State.nrg_keeps ..).trans ?_ | refine (State.setDom_keeps ..).trans ?_ | refine (State.paceDevice_keeps ..).trans ?_ | refine (State.lpSet_keeps ..).trans ?_ | refine (State.setLanes_keeps ..).trans ?_ | refine (State.thStat_keeps ..).trans ?_ | refine (State.otUpdate_keeps ..).trans ?_ | refine (State.upd_domUp_keeps ..).trans ?_ | refine (State.upd_recd_keeps ..).trans ?_ | (unfold State.From; exact ⟨rfl, rfl, id⟩) | split | dsimp only
theorem domCmdWrite_keeps (m : Master) (w : Word32) (s : State) : (domCmdWrite m w s).From s := by
  unfold domCmdWrite
  repeat' with_reducible first | exact State.From.refl _ | assumption | refine ite_keeps ?_ ?_ | refine cond_keeps _ _ _ (fun s => ?_) ?_ | refine (State.put_keeps ..).trans ?_ | refine (State.irq_keeps ..).trans ?_ | refine (State.refused_keeps ..).trans ?_ | refine (State.gate_keeps _ _ _ _ _ _  (fun  s => ?_)).trans ?_ | refine (State.setFields_keeps ..).trans ?_ | refine (State.domOff_keeps ..).trans ?_ | refine (State.upd_domUp_keeps ..).trans ?_ | (unfold State.From; exact ⟨rfl, rfl, id⟩) | split | dsimp only
theorem execDomCmdOn_keeps (m : Master) (n : Nat) (s : State) : (execDomCmdOn m n s).From s := by
  unfold execDomCmdOn
  repeat' with_reducible first | exact State.From.refl _ | assumption | refine next_keeps ?_ | refine ite_keeps_res ?_ ?_ | refine ite_keeps ?_ ?_ | refine (domCmdWrite_keeps ..).trans ?_
theorem execDomCmdOff_keeps (m : Master) (n : Nat) (s : State) : (execDomCmdOff m n s).From s := by
  unfold execDomCmdOff
  repeat' with_reducible first | exact State.From.refl _ | assumption | refine next_keeps ?_ | refine ite_keeps_res ?_ ?_ | refine ite_keeps ?_ ?_ | refine (domCmdWrite_keeps ..).trans ?_
theorem execDomainOnDone_keeps (n : Nat) (s : State) : (execDomainOnDone n s).From s := by
  unfold execDomainOnDone
  repeat' with_reducible first | exact State.From.refl _ | assumption | refine next_keeps ?_ | refine ite_keeps_res ?_ ?_ | refine ite_keeps ?_ ?_ | refine cond_keeps _ _ _ (fun s => ?_) ?_ | refine each_keeps _ _ _ (fun s x => ?_) ?_ | refine (State.put_keeps ..).trans ?_ | refine (State.setPlane_keeps ..).trans ?_ | refine (State.setDom_keeps ..).trans ?_ | refine (State.lpDown_keeps ..).trans ?_ | refine (State.upd_domUp_keeps ..).trans ?_ | (unfold State.From; exact ⟨rfl, rfl, id⟩) | split | dsimp only
theorem pwrCtlWrite_keeps (m : Master) (layer : Nat) (p : Nat) (w : Word32) (s : State) : (pwrCtlWrite m layer p w s).From s := by
  unfold pwrCtlWrite
  repeat' with_reducible first | exact State.From.refl _ | assumption | refine ite_keeps ?_ ?_ | refine (State.gate_keeps _ _ _ _ _ _  (fun  s => ?_)).trans ?_ | refine (State.put_keeps ..).trans ?_ | refine (State.writeTarget_keeps ..).trans ?_
theorem targetWrite_keeps (m : Master) (layer : Nat) (p : Nat) (idle : Nat) (t : Nat) (s : State) : (targetWrite m layer p idle t s).From s := by
  unfold targetWrite
  repeat' with_reducible first | exact State.From.refl _ | assumption | refine next_keeps ?_ | refine ite_keeps_res ?_ ?_ | refine ite_keeps ?_ ?_ | refine (pwrCtlWrite_keeps ..).trans ?_ | split | dsimp only
theorem execTargetOn_keeps (m : Master) (layer : Nat) (p : Nat) (idle : Nat) (s : State) : (execTargetOn m layer p idle s).From s := by
  unfold execTargetOn
  repeat' with_reducible first | exact State.From.refl _ | assumption | refine next_keeps ?_ | refine ite_keeps_res ?_ ?_ | refine ite_keeps ?_ ?_ | refine (targetWrite_keeps ..).trans ?_
theorem execTargetFreewheel_keeps (m : Master) (layer : Nat) (p : Nat) (idle : Nat) (s : State) : (execTargetFreewheel m layer p idle s).From s := by
  unfold execTargetFreewheel
  repeat' with_reducible first | exact State.From.refl _ | assumption | refine next_keeps ?_ | refine ite_keeps_res ?_ ?_ | refine ite_keeps ?_ ?_ | refine (targetWrite_keeps ..).trans ?_
theorem execTargetOff_keeps (m : Master) (layer : Nat) (p : Nat) (idle : Nat) (s : State) : (execTargetOff m layer p idle s).From s := by
  unfold execTargetOff
  repeat' with_reducible first | exact State.From.refl _ | assumption | refine next_keeps ?_ | refine ite_keeps_res ?_ ?_ | refine ite_keeps ?_ ?_ | refine (targetWrite_keeps ..).trans ?_
theorem State.drained_keeps (s : State) (layer : Nat) (p : Nat) : (State.drained s layer p).From s := by
  unfold State.drained
  repeat' with_reducible first | exact State.From.refl _ | assumption | refine ite_keeps ?_ ?_ | refine (State.rim_keeps ..).trans ?_ | split | dsimp only
theorem execRimDrainEnd_keeps (layer : Nat) (p : Nat) (s : State) : (execRimDrainEnd layer p s).From s := by
  unfold execRimDrainEnd
  repeat' with_reducible first | exact State.From.refl _ | assumption | refine next_keeps ?_ | refine ite_keeps_res ?_ ?_ | refine ite_keeps ?_ ?_ | refine (State.drained_keeps ..).trans ?_ | split | dsimp only
theorem execDrainLimitExpiry_keeps (layer : Nat) (p : Nat) (s : State) : (execDrainLimitExpiry layer p s).From s := by
  unfold execDrainLimitExpiry
  repeat' with_reducible first | exact State.From.refl _ | assumption | refine next_keeps ?_ | refine ite_keeps_res ?_ ?_ | refine ite_keeps ?_ ?_ | refine each_keeps _ _ _ (fun s x => ?_) ?_ | refine (State.put_keeps ..).trans ?_ | refine (State.failAccess_keeps ..).trans ?_ | refine (State.settle_keeps ..).trans ?_ | refine (State.dropSteps_keeps ..).trans ?_ | refine (State.drained_keeps ..).trans ?_ | split | dsimp only
theorem execRimStateReached_keeps (layer : Nat) (p : Nat) (s : State) : (execRimStateReached layer p s).From s := by
  unfold execRimStateReached
  repeat' with_reducible first | exact State.From.refl _ | assumption | refine next_keeps ?_ | refine ite_keeps_res ?_ ?_ | refine ite_keeps ?_ ?_ | refine cond_keeps _ _ _ (fun s => ?_) ?_ | refine (State.rim_keeps ..).trans ?_ | refine (State.setDom_keeps ..).trans ?_ | refine (State.setRimPower_keeps ..).trans ?_ | refine (State.applyHeld_keeps ..).trans ?_ | refine (State.clearRim_keeps ..).trans ?_ | split | dsimp only
theorem execRimWakeStart_keeps (s : State) : (execRimWakeStart s).From s := by
  unfold execRimWakeStart
  repeat' with_reducible first | exact State.From.refl _ | assumption | refine next_keeps ?_ | refine ite_keeps_res ?_ ?_ | refine ite_keeps ?_ ?_ | refine (State.bump_keeps ..).trans ?_ | refine (State.rim_keeps ..).trans ?_ | refine (State.nrg_keeps ..).trans ?_ | refine (State.setRimPower_keeps ..).trans ?_ | refine (State.upd_wakes_keeps ..).trans ?_ | (unfold State.From; exact ⟨rfl, rfl, id⟩) | split | dsimp only
theorem execRimIdleExpiry_keeps (layer : Nat) (p : Nat) (s : State) : (execRimIdleExpiry layer p s).From s := by
  unfold execRimIdleExpiry
  repeat' with_reducible first | exact State.From.refl _ | assumption | refine next_keeps ?_ | refine ite_keeps_res ?_ ?_ | refine ite_keeps ?_ ?_ | refine (State.startDrain_keeps ..).trans ?_ | split | dsimp only
theorem execCadenceBoundary_keeps (arrMv : Nat) (periMv : Nat) (s : State) : (execCadenceBoundary arrMv periMv s).From s := by
  unfold execCadenceBoundary
  repeat' with_reducible first | exact State.From.refl _ | assumption | refine next_keeps ?_ | refine ite_keeps_res ?_ ?_ | refine ite_keeps ?_ ?_ | refine cond_keeps _ _ _ (fun s => ?_) ?_ | refine each_keeps _ _ _ (fun s x => ?_) ?_ | refine foldl_keeps _ _ _ (fun s x => ?_) ?_ | refine foldl_keeps2 _ _ _ (fun s x => ?_) ?_ | refine foldl_keeps3 _ _ _ (fun s x => ?_) ?_ | refine getD_keeps (fun t h => ?_) ?_ | refine (State.wr_keeps ..).trans ?_ | refine (State.put_keeps ..).trans ?_ | refine (State.bumpSat_keeps ..).trans ?_ | refine (State.trigger_keeps ..).trans ?_ | refine (State.irq_keeps ..).trans ?_ | refine (State.nrg_keeps ..).trans ?_ | refine (State.retryChunks_keeps ..).trans ?_ | refine (State.em0Expire_keeps ..).trans ?_ | refine (State.grant_keeps ..).trans ?_ | split | dsimp only
theorem execEmAliveExpiry_keeps (s : State) : (execEmAliveExpiry s).From s := by
  unfold execEmAliveExpiry
  repeat' with_reducible first | exact State.From.refl _ | assumption | refine next_keeps ?_ | refine ite_keeps_res ?_ ?_ | refine ite_keeps ?_ ?_ | refine (State.em0Expire_keeps ..).trans ?_
theorem execRingMonitorReport_keeps (unit : Nat) (pace : Nat) (s : State) : (execRingMonitorReport unit pace s).From s := by
  unfold execRingMonitorReport
  repeat' with_reducible first | exact State.From.refl _ | assumption | refine next_keeps ?_ | refine ite_keeps_res ?_ ?_ | refine ite_keeps ?_ ?_ | refine (State.put_keeps ..).trans ?_ | refine (State.reading_keeps ..).trans ?_ | refine (State.paceDevice_keeps ..).trans ?_ | split | dsimp only
theorem execThermalReport_keeps (sector : Nat) (temp : Nat) (s : State) : (execThermalReport sector temp s).From s := by
  unfold execThermalReport
  repeat' with_reducible first | exact State.From.refl _ | assumption | refine next_keeps ?_ | refine ite_keeps_res ?_ ?_ | refine ite_keeps ?_ ?_ | refine cond_keeps _ _ _ (fun s => ?_) ?_ | refine (State.put_keeps ..).trans ?_ | refine (State.irq_keeps ..).trans ?_ | refine (State.reading_keeps ..).trans ?_ | refine (State.paceDevice_keeps ..).trans ?_ | refine (State.thStat_keeps ..).trans ?_ | refine (State.otUpdate_keeps ..).trans ?_ | split | dsimp only
theorem execPowerAlertChange_keeps (level : Bool) (s : State) : (execPowerAlertChange level s).From s := by
  unfold execPowerAlertChange
  repeat' with_reducible first | exact State.From.refl _ | assumption | refine next_keeps ?_ | refine ite_keeps_res ?_ ?_ | refine ite_keeps ?_ ?_ | refine (State.put_keeps ..).trans ?_ | refine (State.emgUpdate_keeps ..).trans ?_ | split | dsimp only
theorem execEmgForceWrite_keeps (m : Master) (force : Bool) (s : State) : (execEmgForceWrite m force s).From s := by
  unfold execEmgForceWrite
  repeat' with_reducible first | exact State.From.refl _ | assumption | refine next_keeps ?_ | refine ite_keeps_res ?_ ?_ | refine ite_keeps ?_ ?_ | refine (State.gate_keeps _ _ _ _ _ _  (fun  s => ?_)).trans ?_ | refine (State.put_keeps ..).trans ?_ | refine (State.emgUpdate_keeps ..).trans ?_
theorem execEmergencyExit_keeps (s : State) : (execEmergencyExit s).From s := by
  unfold execEmergencyExit
  repeat' with_reducible first | exact State.From.refl _ | assumption | refine next_keeps ?_ | refine ite_keeps_res ?_ ?_ | refine ite_keeps ?_ ?_ | refine (State.put_keeps ..).trans ?_ | refine (State.irq_keeps ..).trans ?_ | refine (State.nrg_keeps ..).trans ?_ | split | dsimp only
theorem execGovernorWindow_keeps (s : State) : (execGovernorWindow s).From s := by
  unfold execGovernorWindow
  repeat' with_reducible first | exact State.From.refl _ | assumption | refine next_keeps ?_ | refine ite_keeps_res ?_ ?_ | refine ite_keeps ?_ ?_ | refine (State.hubf_keeps ..).trans ?_ | split | dsimp only

end Sys2Proof.Machine
end

