-- ==== Sys2Proof/Laws/KeepMboxOps.lean ====
section
/-! SUPPORT. What no operation of Machine/MboxOps.lean changes: the configuration, the queue of waiting commands, the canonical form of memory. -/
namespace Sys2Proof.Machine

theorem State.mboxAuto_keeps (s : State) (r : Nat) (n : Nat) : ((State.mboxAuto s r) n).From s := by
  induction n generalizing s with
  | zero => exact State.From.refl _
  | succ n ih =>
    unfold State.mboxAuto
    repeat' with_reducible first | exact State.From.refl _ | assumption | refine ite_keeps ?_ ?_ | refine (ih ..).trans ?_ | refine (State.bumpSat_keeps ..).trans ?_ | refine (State.irq_keeps ..).trans ?_ | refine (State.respond_keeps ..).trans ?_ | refine (State.answer_keeps ..).trans ?_ | refine (State.placeOwed_keeps ..).trans ?_ | refine (State.takeReq_keeps ..).trans ?_ | split | dsimp only
theorem message_keeps (typ : Nat) (need : Nat) (r : Nat) (act : Nat → List Nat → State → Reply × State) (s : State) (hact : ∀ x0 x1 s, (act x0 x1 s).2.From s) : (message typ need r act s).From s := by
  unfold message
  repeat' with_reducible first | exact State.From.refl _ | assumption | refine (pair_keeps (hact ..) (by assumption)).trans ?_ | refine next_keeps ?_ | refine ite_keeps_res ?_ ?_ | refine ite_keeps ?_ ?_ | refine (hact ..).trans ?_ | refine (State.answer_keeps ..).trans ?_ | refine (State.takeReq_keeps ..).trans ?_ | refine (State.mboxAuto_keeps ..).trans ?_ | split | dsimp only
theorem State.newEpoch_keeps (s : State) : (State.newEpoch s).From s := by
  unfold State.newEpoch
  repeat' with_reducible first | exact State.From.refl _ | assumption | refine ite_keeps ?_ ?_ | refine each_keeps _ _ _ (fun s x => ?_) ?_ | refine (State.put_keeps ..).trans ?_ | refine (State.bump_keeps ..).trans ?_ | refine (State.bumpSat_keeps ..).trans ?_ | refine (State.irq_keeps ..).trans ?_ | refine (State.lif_keeps ..).trans ?_ | refine (State.tst_keeps ..).trans ?_ | refine (State.upd_fw_keeps ..).trans ?_ | refine (State.upd_reply_keeps ..).trans ?_
theorem State.fwm_keeps (s : State) (f : FwSt → FwSt) : (State.fwm s f).From s := by
  unfold State.fwm
  repeat' with_reducible first | exact State.From.refl _ | assumption | refine ite_keeps ?_ ?_ | refine (State.upd_fw_keeps ..).trans ?_
theorem State.coreStops_keeps (s : State) (n : Nat) (st : Nat) : (State.coreStops s n st).From s := by
  unfold State.coreStops
  repeat' with_reducible first | exact State.From.refl _ | assumption | refine ite_keeps ?_ ?_ | refine (State.put_keeps ..).trans ?_ | refine (State.lif_keeps ..).trans ?_ | refine (State.scrubEm1_keeps ..).trans ?_ | refine (State.fwm_keeps ..).trans ?_ | refine (State.upd_fab_keeps ..).trans ?_ | (unfold State.From; exact ⟨rfl, rfl, id⟩) | split | dsimp only
theorem State.restartCore_keeps (s : State) (n : Nat) (cause : Nat) : (State.restartCore s n cause).From s := by
  unfold State.restartCore
  repeat' with_reducible first | exact State.From.refl _ | assumption | refine ite_keeps ?_ ?_ | refine (State.put_keeps ..).trans ?_ | refine (State.bump_keeps ..).trans ?_ | refine (State.irq_keeps ..).trans ?_ | refine (State.newEpoch_keeps ..).trans ?_ | refine (State.fwm_keeps ..).trans ?_ | refine (State.coreStops_keeps ..).trans ?_ | split | dsimp only
theorem State.loadCore_keeps (s : State) (n : Nat) (cause : Nat) : (State.loadCore s n cause).From s := by
  unfold State.loadCore
  repeat' with_reducible first | exact State.From.refl _ | assumption | refine ite_keeps ?_ ?_ | refine cond_keeps _ _ _ (fun s => ?_) ?_ | refine (State.put_keeps ..).trans ?_ | refine (State.bump_keeps ..).trans ?_ | refine (State.irq_keeps ..).trans ?_ | refine (State.coreStops_keeps ..).trans ?_

end Sys2Proof.Machine
end

