-- ==== Sys2Proof/Laws/KeepFirmware.lean ====
section
/-! SUPPORT. What no operation of Machine/Firmware.lean changes: the configuration, the queue of waiting commands, the canonical form of memory. -/
namespace Sys2Proof.Machine

theorem State.fwResult_keeps (s : State) (r : Nat) : (State.fwResult s r).From s := by
  unfold State.fwResult
  repeat' with_reducible first | exact State.From.refl _ | assumption | refine ite_keeps ?_ ?_ | refine (State.put_keeps ..).trans ?_
theorem State.fwUnstage_keeps (s : State) : (State.fwUnstage s).From s := by
  unfold State.fwUnstage
  repeat' with_reducible first | exact State.From.refl _ | assumption | refine ite_keeps ?_ ?_ | refine (State.wr_keeps ..).trans ?_ | refine (State.put_keeps ..).trans ?_
theorem State.loader_keeps (s : State) (f : FwLoad → FwLoad) : (State.loader s f).From s := by
  unfold State.loader
  repeat' with_reducible first | exact State.From.refl _ | assumption | refine ite_keeps ?_ ?_ | refine (State.fwm_keeps ..).trans ?_
theorem State.loadTm8_keeps (s : State) (l : FwLoad) : (State.loadTm8 s l).From s := by
  unfold State.loadTm8
  repeat' with_reducible first | exact State.From.refl _ | assumption | refine (pair_keeps (State.sendAccess_keeps ..) (by assumption)).trans ?_ | refine ite_keeps ?_ ?_ | refine cond_keeps _ _ _ (fun s => ?_) ?_ | refine (State.hubf_keeps ..).trans ?_ | refine (State.sendAccess_keeps ..).trans ?_ | refine (State.reject_keeps ..).trans ?_ | refine (State.loader_keeps ..).trans ?_ | split | dsimp only
theorem State.loadExt_keeps (s : State) (l : FwLoad) : (State.loadExt s l).From s := by
  unfold State.loadExt
  repeat' with_reducible first | exact State.From.refl _ | assumption | refine ite_keeps ?_ ?_ | refine (State.energy_keeps ..).trans ?_ | refine (State.mpIssue_keeps ..).trans ?_ | refine (State.loader_keeps ..).trans ?_ | split | dsimp only
theorem State.loadRun_keeps (s : State) : (State.loadRun s).From s := by
  unfold State.loadRun
  repeat' with_reducible first | exact State.From.refl _ | assumption | refine ite_keeps ?_ ?_ | refine (State.hubf_keeps ..).trans ?_ | refine (State.loader_keeps ..).trans ?_ | refine (State.loadTm8_keeps ..).trans ?_ | refine (State.loadExt_keeps ..).trans ?_ | split | dsimp only
theorem State.activate_keeps (s : State) : (State.activate s).From s := by
  unfold State.activate
  repeat' with_reducible first | exact State.From.refl _ | assumption | refine ite_keeps ?_ ?_ | refine each_keeps _ _ _ (fun s x => ?_) ?_ | refine (State.put_keeps ..).trans ?_ | refine (State.newEpoch_keeps ..).trans ?_ | refine (State.fwm_keeps ..).trans ?_ | refine (State.loadCore_keeps ..).trans ?_ | refine (State.fwResult_keeps ..).trans ?_ | split | dsimp only
theorem State.fallBack_keeps (s : State) (a : FwAct) : (State.fallBack s a).From s := by
  unfold State.fallBack
  repeat' with_reducible first | exact State.From.refl _ | assumption | refine ite_keeps ?_ ?_ | refine each_keeps _ _ _ (fun s x => ?_) ?_ | refine (State.put_keeps ..).trans ?_ | refine (State.irq_keeps ..).trans ?_ | refine (State.newEpoch_keeps ..).trans ?_ | refine (State.fwm_keeps ..).trans ?_ | refine (State.coreStops_keeps ..).trans ?_ | refine (State.loadCore_keeps ..).trans ?_ | refine (State.fwResult_keeps ..).trans ?_ | refine (State.fwUnstage_keeps ..).trans ?_ | split | dsimp only
theorem fwCmdWrite_keeps (m : Master) (w : Word32) (s : State) : (fwCmdWrite m w s).From s := by
  unfold fwCmdWrite
  repeat' with_reducible first | exact State.From.refl _ | assumption | refine ite_keeps ?_ ?_ | refine (State.gate_keeps _ _ _ _ _ _  (fun  s => ?_)).trans ?_ | refine (State.put_keeps ..).trans ?_ | refine (State.refused_keeps ..).trans ?_ | refine (State.fwm_keeps ..).trans ?_ | refine (State.fwResult_keeps ..).trans ?_ | refine (State.fwUnstage_keeps ..).trans ?_ | refine (State.loadRun_keeps ..).trans ?_ | refine (State.activate_keeps ..).trans ?_ | split | dsimp only
theorem execFwStage_keeps (m : Master) (s : State) : (execFwStage m s).From s := by
  unfold execFwStage
  repeat' with_reducible first | exact State.From.refl _ | assumption | refine next_keeps ?_ | refine ite_keeps_res ?_ ?_ | refine ite_keeps ?_ ?_ | refine (fwCmdWrite_keeps ..).trans ?_
theorem execFwActivate_keeps (m : Master) (s : State) : (execFwActivate m s).From s := by
  unfold execFwActivate
  repeat' with_reducible first | exact State.From.refl _ | assumption | refine next_keeps ?_ | refine ite_keeps_res ?_ ?_ | refine ite_keeps ?_ ?_ | refine (fwCmdWrite_keeps ..).trans ?_
theorem execFwCancel_keeps (m : Master) (s : State) : (execFwCancel m s).From s := by
  unfold execFwCancel
  repeat' with_reducible first | exact State.From.refl _ | assumption | refine next_keeps ?_ | refine ite_keeps_res ?_ ?_ | refine ite_keeps ?_ ?_ | refine (fwCmdWrite_keeps ..).trans ?_
theorem execFwStageDone_keeps (s : State) : (execFwStageDone s).From s := by
  unfold execFwStageDone
  repeat' with_reducible first | exact State.From.refl _ | assumption | refine next_keeps ?_ | refine ite_keeps_res ?_ ?_ | refine ite_keeps ?_ ?_ | refine (State.wr_keeps ..).trans ?_ | refine (State.put_keeps ..).trans ?_ | refine (State.irq_keeps ..).trans ?_ | refine (State.fwm_keeps ..).trans ?_ | refine (State.fwResult_keeps ..).trans ?_ | refine (State.loadRun_keeps ..).trans ?_ | split | dsimp only
theorem execPendingActivationStart_keeps (s : State) : (execPendingActivationStart s).From s := by
  unfold execPendingActivationStart
  repeat' with_reducible first | exact State.From.refl _ | assumption | refine next_keeps ?_ | refine ite_keeps_res ?_ ?_ | refine ite_keeps ?_ ?_ | refine (State.put_keeps ..).trans ?_ | refine (State.fwm_keeps ..).trans ?_ | refine (State.activate_keeps ..).trans ?_ | split | dsimp only
theorem execActivationCommit_keeps (s : State) : (execActivationCommit s).From s := by
  unfold execActivationCommit
  repeat' with_reducible first | exact State.From.refl _ | assumption | refine next_keeps ?_ | refine ite_keeps_res ?_ ?_ | refine ite_keeps ?_ ?_ | refine (State.wr_keeps ..).trans ?_ | refine (State.put_keeps ..).trans ?_ | refine (State.bump_keeps ..).trans ?_ | refine (State.irq_keeps ..).trans ?_ | refine (State.fwm_keeps ..).trans ?_ | refine (State.fwResult_keeps ..).trans ?_ | refine (State.fwUnstage_keeps ..).trans ?_ | split | dsimp only
theorem execActivationKickTimeout_keeps (s : State) : (execActivationKickTimeout s).From s := by
  unfold execActivationKickTimeout
  repeat' with_reducible first | exact State.From.refl _ | assumption | refine next_keeps ?_ | refine ite_keeps_res ?_ ?_ | refine ite_keeps ?_ ?_ | refine (State.fallBack_keeps ..).trans ?_ | split | dsimp only
theorem execEmLoadDone_keeps (n : Nat) (s : State) : (execEmLoadDone n s).From s := by
  unfold execEmLoadDone
  repeat' with_reducible first | exact State.From.refl _ | assumption | refine next_keeps ?_ | refine ite_keeps_res ?_ ?_ | refine ite_keeps ?_ ?_ | refine cond_keeps _ _ _ (fun s => ?_) ?_ | refine (State.put_keeps ..).trans ?_ | refine (State.held_keeps ..).trans ?_ | refine (State.fwm_keeps ..).trans ?_ | refine (State.coreStops_keeps ..).trans ?_ | refine (State.activate_keeps ..).trans ?_ | refine (State.fallBack_keeps ..).trans ?_ | split | dsimp only
theorem execWdtKick_keeps (m : Master) (n : Nat) (s : State) : (execWdtKick m n s).From s := by
  unfold execWdtKick
  repeat' with_reducible first | exact State.From.refl _ | assumption | refine next_keeps ?_ | refine ite_keeps_res ?_ ?_ | refine ite_keeps ?_ ?_ | refine cond_keeps _ _ _ (fun s => ?_) ?_ | refine (State.gate_keeps _ _ _ _ _ _  (fun  s => ?_)).trans ?_ | refine (State.fwm_keeps ..).trans ?_ | split | dsimp only
theorem execWatchdogExpiry_keeps (n : Nat) (s : State) : (execWatchdogExpiry n s).From s := by
  unfold execWatchdogExpiry
  repeat' with_reducible first | exact State.From.refl _ | assumption | refine next_keeps ?_ | refine ite_keeps_res ?_ ?_ | refine ite_keeps ?_ ?_ | refine (State.restartCore_keeps ..).trans ?_ | split | dsimp only
theorem emCtlWrite_keeps (m : Master) (w : Word32) (s : State) : (emCtlWrite m w s).From s := by
  unfold emCtlWrite
  repeat' with_reducible first | exact State.From.refl _ | assumption | refine ite_keeps ?_ ?_ | refine cond_keeps _ _ _ (fun s => ?_) ?_ | refine each_keeps _ _ _ (fun s x => ?_) ?_ | refine (State.put_keeps ..).trans ?_ | refine (State.gate_keeps _ _ _ _ _ _  (fun  s => ?_)).trans ?_ | refine (State.restartCore_keeps ..).trans ?_ | split | dsimp only
theorem execEmRestart_keeps (m : Master) (n : Nat) (s : State) : (execEmRestart m n s).From s := by
  unfold execEmRestart
  repeat' with_reducible first | exact State.From.refl _ | assumption | refine next_keeps ?_ | refine ite_keeps_res ?_ ?_ | refine ite_keeps ?_ ?_ | refine (emCtlWrite_keeps ..).trans ?_
theorem execReqProdWrite_keeps (m : Master) (r : Nat) (prod : Nat) (s : State) : (execReqProdWrite m r prod s).From s := by
  unfold execReqProdWrite
  repeat' with_reducible first | exact State.From.refl _ | assumption | refine next_keeps ?_ | refine ite_keeps_res ?_ ?_ | refine ite_keeps ?_ ?_ | refine (State.gate_keeps _ _ _ _ _ _  (fun  s => ?_)).trans ?_ | refine (State.put_keeps ..).trans ?_ | refine (State.fabStat_keeps ..).trans ?_ | refine (State.refused_keeps ..).trans ?_ | refine (State.mboxAuto_keeps ..).trans ?_ | split | dsimp only
theorem execRspConsWrite_keeps (m : Master) (r : Nat) (cons : Nat) (s : State) : (execRspConsWrite m r cons s).From s := by
  unfold execRspConsWrite
  repeat' with_reducible first | exact State.From.refl _ | assumption | refine next_keeps ?_ | refine ite_keeps_res ?_ ?_ | refine ite_keeps ?_ ?_ | refine cond_keeps _ _ _ (fun s => ?_) ?_ | refine (State.gate_keeps _ _ _ _ _ _  (fun  s => ?_)).trans ?_ | refine (State.put_keeps ..).trans ?_ | refine (State.fabStat_keeps ..).trans ?_ | refine (State.refused_keeps ..).trans ?_ | refine (State.mboxAuto_keeps ..).trans ?_ | split | dsimp only
theorem echo_keeps (len : Nat) (words : List Nat) (s : State) : (echo len words s).2.From s := by
  unfold echo
  repeat' with_reducible first | exact State.From.refl _ | assumption | refine ite_keeps ?_ ?_ | refine ite_keeps_pair ?_ ?_
theorem info_keeps (n : Nat) (s : State) : (info n s).2.From s := by
  unfold info
  repeat' with_reducible first | exact State.From.refl _ | assumption | refine ite_keeps ?_ ?_ | refine ite_keeps_pair ?_ ?_ | split | dsimp only
theorem execEcho_keeps (r : Nat) (s : State) : (execEcho r s).From s := by
  unfold execEcho
  repeat' with_reducible first | exact State.From.refl _ | assumption | refine (pair_keeps (echo_keeps ..) (by assumption)).trans ?_ | refine next_keeps ?_ | refine ite_keeps_res ?_ ?_ | refine ite_keeps ?_ ?_ | refine (message_keeps _ _ _ _ _  (fun _ _ s => ?_)).trans ?_ | refine (echo_keeps ..).trans ?_
theorem execInfo_keeps (r : Nat) (s : State) : (execInfo r s).From s := by
  unfold execInfo
  repeat' with_reducible first | exact State.From.refl _ | assumption | refine (pair_keeps (info_keeps ..) (by assumption)).trans ?_ | refine next_keeps ?_ | refine ite_keeps_res ?_ ?_ | refine ite_keeps ?_ ?_ | refine (message_keeps _ _ _ _ _  (fun _ _ s => ?_)).trans ?_ | refine (info_keeps ..).trans ?_
theorem execEm1Echo_keeps (r : Nat) (s : State) : (execEm1Echo r s).From s := by
  unfold execEm1Echo
  repeat' with_reducible first | exact State.From.refl _ | assumption | refine (pair_keeps (echo_keeps ..) (by assumption)).trans ?_ | refine next_keeps ?_ | refine ite_keeps_res ?_ ?_ | refine ite_keeps ?_ ?_ | refine (message_keeps _ _ _ _ _  (fun _ _ s => ?_)).trans ?_ | refine (echo_keeps ..).trans ?_
theorem execEm1Info_keeps (r : Nat) (s : State) : (execEm1Info r s).From s := by
  unfold execEm1Info
  repeat' with_reducible first | exact State.From.refl _ | assumption | refine (pair_keeps (info_keeps ..) (by assumption)).trans ?_ | refine next_keeps ?_ | refine ite_keeps_res ?_ ?_ | refine ite_keeps ?_ ?_ | refine (message_keeps _ _ _ _ _  (fun _ _ s => ?_)).trans ?_ | refine (info_keeps ..).trans ?_

end Sys2Proof.Machine
end

