-- ==== Sys2Proof/Laws/KeepLife.lean ====
section
/-! SUPPORT. What no operation of Machine/Life.lean changes: the configuration, the queue of waiting commands, the canonical form of memory. -/
namespace Sys2Proof.Machine

theorem State.flushed_keeps (s : State) (m : List Host.Cell) : (State.flushed s m).From s := by
  unfold State.flushed
  repeat' with_reducible first | exact State.From.refl _ | assumption | refine ite_keeps ?_ ?_ | refine (State.wr_keeps ..).trans ?_ | refine (State.bump_keeps ..).trans ?_ | refine (State.put64_keeps ..).trans ?_ | refine (State.lif_keeps ..).trans ?_ | refine (State.lsWrite_keeps _ _ (fun s => ?_)).trans ?_ | split | dsimp only
theorem State.lsNext_keeps (s : State) (k : Nat) : (State.lsNext s k).From s := by
  unfold State.lsNext
  repeat' with_reducible first | exact State.From.refl _ | assumption | refine ite_keeps ?_ ?_ | refine (State.put_keeps ..).trans ?_ | refine (State.lif_keeps ..).trans ?_ | refine (State.lsWrite_keeps _ _ (fun s => ?_)).trans ?_ | split | dsimp only
theorem State.lsSet_keeps (s : State) (st : Nat) : (State.lsSet s st).From s := by
  unfold State.lsSet
  repeat' with_reducible first | exact State.From.refl _ | assumption | refine ite_keeps ?_ ?_ | refine (State.put_keeps ..).trans ?_ | refine (State.lif_keeps ..).trans ?_ | refine (State.lsWrite_keeps _ _ (fun s => ?_)).trans ?_ | split | dsimp only
theorem State.flush_keeps (s : State) (reply : Option (Nat × Nat)) : (State.flush s reply).From s := by
  unfold State.flush
  repeat' with_reducible first | exact State.From.refl _ | assumption | refine ite_keeps ?_ ?_ | refine (State.irq_keeps ..).trans ?_ | refine (State.lif_keeps ..).trans ?_ | refine (State.flushed_keeps ..).trans ?_ | split | dsimp only
theorem State.takeSamples_keeps (s : State) : (State.takeSamples s).From s := by
  unfold State.takeSamples
  repeat' with_reducible first | exact State.From.refl _ | assumption | refine ite_keeps ?_ ?_ | refine (State.lif_keeps ..).trans ?_ | refine foldl_keeps _ _ _ (fun s x => ?_) ?_ | refine foldl_keeps2 _ _ _ (fun s x => ?_) ?_ | refine foldl_keeps3 _ _ _ (fun s x => ?_) ?_
theorem execLifeSample_keeps (s : State) : (execLifeSample s).From s := by
  unfold execLifeSample
  repeat' with_reducible first | exact State.From.refl _ | assumption | refine next_keeps ?_ | refine ite_keeps_res ?_ ?_ | refine ite_keeps ?_ ?_ | refine (State.lif_keeps ..).trans ?_ | refine (State.takeSamples_keeps ..).trans ?_ | split | dsimp only
theorem execLifePeriodicFlush_keeps (s : State) : (execLifePeriodicFlush s).From s := by
  unfold execLifePeriodicFlush
  repeat' with_reducible first | exact State.From.refl _ | assumption | refine next_keeps ?_ | refine ite_keeps_res ?_ ?_ | refine ite_keeps ?_ ?_ | refine (State.lif_keeps ..).trans ?_ | refine (State.flush_keeps ..).trans ?_ | split | dsimp only
theorem execLifeFlushWritten_keeps (ok : Bool) (s : State) : (execLifeFlushWritten ok s).From s := by
  unfold execLifeFlushWritten
  repeat' with_reducible first | exact State.From.refl _ | assumption | refine next_keeps ?_ | refine ite_keeps_res ?_ ?_ | refine ite_keeps ?_ ?_ | refine getD_keeps (fun t h => ?_) ?_ | refine (State.put_keeps ..).trans ?_ | refine (State.irq_keeps ..).trans ?_ | refine (State.lif_keeps ..).trans ?_ | refine (State.lsWrite_keeps _ _ (fun s => ?_)).trans ?_ | refine (State.answer_keeps ..).trans ?_ | refine (State.flushed_keeps ..).trans ?_ | refine (State.lsNext_keeps ..).trans ?_ | refine (State.lsSet_keeps ..).trans ?_ | split | dsimp only
theorem State.mergeRetired_keeps (s : State) (m : List Host.Cell) : (State.mergeRetired s m).2.From s := by
  unfold State.mergeRetired
  repeat' with_reducible first | exact State.From.refl _ | assumption | refine ite_keeps ?_ ?_ | refine ite_keeps_pair ?_ ?_ | refine foldl_keeps _ _ _ (fun s x => ?_) ?_ | refine foldl_keeps2 _ _ _ (fun s x => ?_) ?_ | refine foldl_keeps3 _ _ _ (fun s x => ?_) ?_ | refine (State.bumpSat_keeps ..).trans ?_ | refine (State.lsWrite_keeps _ _ (fun s => ?_)).trans ?_ | split | dsimp only
theorem State.takeBase_keeps (s : State) (base : List Host.Cell) (m : List Host.Cell) (st : Nat) : (State.takeBase s base m st).From s := by
  unfold State.takeBase
  repeat' with_reducible first | exact State.From.refl _ | assumption | refine (pair_keeps (State.mergeRetired_keeps ..) (by assumption)).trans ?_ | refine ite_keeps ?_ ?_ | refine (State.put_keeps ..).trans ?_ | refine (State.lif_keeps ..).trans ?_ | refine (State.lsWrite_keeps _ _ (fun s => ?_)).trans ?_ | refine (State.lsSet_keeps ..).trans ?_ | refine (State.mergeRetired_keeps ..).trans ?_ | split | dsimp only
theorem execLifeBaseLoad_keeps (s : State) : (execLifeBaseLoad s).From s := by
  unfold execLifeBaseLoad
  repeat' with_reducible first | exact State.From.refl _ | assumption | refine next_keeps ?_ | refine ite_keeps_res ?_ ?_ | refine ite_keeps ?_ ?_ | refine getD_keeps (fun t h => ?_) ?_ | refine (State.lif_keeps ..).trans ?_ | refine (State.lsNext_keeps ..).trans ?_ | refine (State.takeSamples_keeps ..).trans ?_ | refine (State.takeBase_keeps ..).trans ?_ | split | dsimp only
theorem execLifeInfo_keeps (r : Nat) (s : State) : (execLifeInfo r s).From s := by
  unfold execLifeInfo
  repeat' with_reducible first | exact State.From.refl _ | assumption | refine next_keeps ?_ | refine ite_keeps_res ?_ ?_ | refine ite_keeps ?_ ?_ | refine (message_keeps _ _ _ _ _  (fun _ _ s => ?_)).trans ?_ | split | dsimp only
theorem execLifeFlush_keeps (r : Nat) (s : State) : (execLifeFlush r s).From s := by
  unfold execLifeFlush
  repeat' with_reducible first | exact State.From.refl _ | assumption | refine next_keeps ?_ | refine ite_keeps_res ?_ ?_ | refine ite_keeps ?_ ?_ | refine (State.mboxAuto_keeps ..).trans ?_ | refine (message_keeps _ _ _ _ _  (fun _ _ s => ?_)).trans ?_ | refine (State.flush_keeps ..).trans ?_ | split | dsimp only
theorem execLifeRead_keeps (r : Nat) (s : State) : (execLifeRead r s).From s := by
  unfold execLifeRead
  repeat' with_reducible first | exact State.From.refl _ | assumption | refine (pair_keeps (State.draw_keeps ..) (by assumption)).trans ?_ | refine next_keeps ?_ | refine ite_keeps_res ?_ ?_ | refine ite_keeps ?_ ?_ | refine getD_keeps (fun t h => ?_) ?_ | refine (message_keeps _ _ _ _ _  (fun _ _ s => ?_)).trans ?_ | refine (State.draw_keeps ..).trans ?_ | refine (State.flushed_keeps ..).trans ?_ | split | dsimp only
theorem execLifeLoad_keeps (r : Nat) (s : State) : (execLifeLoad r s).From s := by
  unfold execLifeLoad
  repeat' with_reducible first | exact State.From.refl _ | assumption | refine next_keeps ?_ | refine ite_keeps_res ?_ ?_ | refine ite_keeps ?_ ?_ | refine getD_keeps (fun t h => ?_) ?_ | refine (message_keeps _ _ _ _ _  (fun _ _ s => ?_)).trans ?_ | refine (State.lif_keeps ..).trans ?_ | refine foldl_keeps _ _ _ (fun s x => ?_) ?_ | refine foldl_keeps2 _ _ _ (fun s x => ?_) ?_ | refine foldl_keeps3 _ _ _ (fun s x => ?_) ?_ | split | dsimp only
theorem execLifeCommit_keeps (r : Nat) (s : State) : (execLifeCommit r s).From s := by
  unfold execLifeCommit
  repeat' with_reducible first | exact State.From.refl _ | assumption | refine next_keeps ?_ | refine ite_keeps_res ?_ ?_ | refine ite_keeps ?_ ?_ | refine (message_keeps _ _ _ _ _  (fun _ _ s => ?_)).trans ?_ | refine (State.lif_keeps ..).trans ?_ | refine (State.takeBase_keeps ..).trans ?_ | split | dsimp only

end Sys2Proof.Machine
end

