-- ==== Sys2Proof/Laws/KeepRegRead.lean ====
section
/-! SUPPORT. What no operation of Machine/RegRead.lean changes: the configuration, the queue of waiting commands, the canonical form of memory. -/
namespace Sys2Proof.Machine

theorem State.clearRc_keeps (s : State) (off : Nat) (r : RegRow) : (State.clearRc s off r).From s := by
  unfold State.clearRc
  repeat' with_reducible first | exact State.From.refl _ | assumption | refine ite_keeps ?_ ?_ | refine foldl_keeps _ _ _ (fun s x => ?_) ?_ | refine foldl_keeps2 _ _ _ (fun s x => ?_) ?_ | refine foldl_keeps3 _ _ _ (fun s x => ?_) ?_ | refine (State.wr_keeps ..).trans ?_ | split | dsimp only
theorem State.readDone_keeps (s : State) (m : Master) (off : Nat) : (State.readDone s m off).From s := by
  unfold State.readDone
  split
  · exact State.From.refl _
  · extract_lets
    refine ite_keeps (State.From.refl _) ?_
    split
    · exact State.upd_captured_keeps ..
    · exact State.From.refl _
    · refine ite_keeps (State.psnRead_keeps ..) ?_
      split
      · exact State.popCpl_keeps ..
      · split
        · exact State.From.refl _
        · exact cond_keeps _ _ _ (fun s => State.clearRc_keeps ..) (State.From.refl _)

end Sys2Proof.Machine
end

