-- ==== Sys2Proof/Laws/KeepTest.lean ====
section
/-! SUPPORT. What no operation of Machine/Test.lean changes: the configuration, the queue of waiting commands, the canonical form of memory. -/
namespace Sys2Proof.Machine

theorem State.ftBegin_keeps (s : State) (op : Nat) (layer : Nat) (unit : Nat) (depth : Nat) : (State.ftBegin s op layer unit depth).From s := by
  unfold State.ftBegin
  repeat' with_reducible first | exact State.From.refl _ | assumption | refine ite_keeps ?_ ?_ | refine (State.wr_keeps ..).trans ?_ | refine (State.put_keeps ..).trans ?_ | refine (State.copyStart_keeps ..).trans ?_ | refine (State.planeChange_keeps ..).trans ?_ | refine (State.setRole_keeps ..).trans ?_ | refine (State.clearRim_keeps ..).trans ?_ | refine (State.lpStart_keeps ..).trans ?_ | split | dsimp only
theorem State.ftStart_keeps (s : State) (m : Master) (op : Nat) (layer : Nat) (unit : Nat) (depth : Nat) (reply : Option (Nat × Nat)) : (State.ftStart s m op layer unit depth reply).From s := by
  unfold State.ftStart
  repeat' with_reducible first | exact State.From.refl _ | assumption | refine ite_keeps ?_ ?_ | refine (State.put_keeps ..).trans ?_ | refine (State.irq_keeps ..).trans ?_ | refine (State.refused_keeps ..).trans ?_ | refine (State.answer_keeps ..).trans ?_ | refine (State.tst_keeps ..).trans ?_ | refine (State.ftReply_keeps ..).trans ?_ | refine (State.ftBegin_keeps ..).trans ?_ | split | dsimp only
theorem State.ftAbort_keeps (s : State) : (State.ftAbort s).From s := by
  unfold State.ftAbort
  repeat' with_reducible first | exact State.From.refl _ | assumption | refine ite_keeps ?_ ?_ | refine (State.tst_keeps ..).trans ?_ | refine (State.setRole_keeps ..).trans ?_ | refine (State.ftEnd_keeps ..).trans ?_ | refine (State.ftGiveUp_keeps ..).trans ?_ | split | dsimp only
theorem ftCmdWrite_keeps (m : Master) (w : Word32) (s : State) : (ftCmdWrite m w s).From s := by
  unfold ftCmdWrite
  repeat' with_reducible first | exact State.From.refl _ | assumption | refine ite_keeps ?_ ?_ | refine (State.gate_keeps _ _ _ _ _ _  (fun  s => ?_)).trans ?_ | refine (State.fabStat_keeps ..).trans ?_ | refine (State.refused_keeps ..).trans ?_ | refine (State.ftStart_keeps ..).trans ?_ | refine (State.ftAbort_keeps ..).trans ?_ | split | dsimp only
theorem execFtCmdRim_keeps (m : Master) (layer : Nat) (rim : Nat) (s : State) : (execFtCmdRim m layer rim s).From s := by
  unfold execFtCmdRim
  repeat' with_reducible first | exact State.From.refl _ | assumption | refine next_keeps ?_ | refine ite_keeps_res ?_ ?_ | refine ite_keeps ?_ ?_ | refine (State.rim_keeps ..).trans ?_ | refine (ftCmdWrite_keeps ..).trans ?_
theorem execFtCmdPlane_keeps (m : Master) (plane : Nat) (s : State) : (execFtCmdPlane m plane s).From s := by
  unfold execFtCmdPlane
  repeat' with_reducible first | exact State.From.refl _ | assumption | refine next_keeps ?_ | refine ite_keeps_res ?_ ?_ | refine ite_keeps ?_ ?_ | refine (ftCmdWrite_keeps ..).trans ?_
theorem execFtCmdLink_keeps (m : Master) (p : Nat) (depth : Nat) (s : State) : (execFtCmdLink m p depth s).From s := by
  unfold execFtCmdLink
  repeat' with_reducible first | exact State.From.refl _ | assumption | refine next_keeps ?_ | refine ite_keeps_res ?_ ?_ | refine ite_keeps ?_ ?_ | refine (ftCmdWrite_keeps ..).trans ?_
theorem execFtCmdSync_keeps (m : Master) (s : State) : (execFtCmdSync m s).From s := by
  unfold execFtCmdSync
  repeat' with_reducible first | exact State.From.refl _ | assumption | refine next_keeps ?_ | refine ite_keeps_res ?_ ?_ | refine ite_keeps ?_ ?_ | refine (ftCmdWrite_keeps ..).trans ?_
theorem execFtCmdAbort_keeps (m : Master) (s : State) : (execFtCmdAbort m s).From s := by
  unfold execFtCmdAbort
  repeat' with_reducible first | exact State.From.refl _ | assumption | refine next_keeps ?_ | refine ite_keeps_res ?_ ?_ | refine ite_keeps ?_ ?_ | refine (ftCmdWrite_keeps ..).trans ?_
theorem execFtCopyDone_keeps (s : State) : (execFtCopyDone s).From s := by
  unfold execFtCopyDone
  repeat' with_reducible first | exact State.From.refl _ | assumption | refine next_keeps ?_ | refine ite_keeps_res ?_ ?_ | refine ite_keeps ?_ ?_ | refine (State.put_keeps ..).trans ?_ | refine (State.copyEnd_keeps ..).trans ?_ | refine (State.tst_keeps ..).trans ?_ | refine (State.setMap_keeps ..).trans ?_ | refine (State.setRole_keeps ..).trans ?_ | split | dsimp only
theorem State.patRun_keeps (s : State) (n : Nat) : (State.patRun s n).From s := by
  unfold State.patRun
  repeat' with_reducible first | exact State.From.refl _ | assumption | refine ite_keeps ?_ ?_ | refine getD_keeps (fun t h => ?_) ?_ | refine (State.bump_keeps ..).trans ?_ | refine (State.rim_keeps ..).trans ?_ | refine (State.tidCnt_keeps ..).trans ?_ | refine (State.energy_keeps ..).trans ?_ | refine (State.hubf_keeps ..).trans ?_ | refine (State.tst_keeps ..).trans ?_ | split | dsimp only
theorem execFtPatternsDone_keeps (ok : Bool) (elem : Nat) (bank : Nat) (row : Nat) (fbits : Nat) (s : State) : (execFtPatternsDone ok elem bank row fbits s).From s := by
  unfold execFtPatternsDone
  repeat' with_reducible first | exact State.From.refl _ | assumption | refine next_keeps ?_ | refine ite_keeps_res ?_ ?_ | refine ite_keeps ?_ ?_ | refine (State.wr_keeps ..).trans ?_ | refine (State.put_keeps ..).trans ?_ | refine (State.setRole_keeps ..).trans ?_ | refine (State.parkRim_keeps ..).trans ?_ | refine (State.ftEnd_keeps ..).trans ?_ | refine (State.ftBack_keeps ..).trans ?_ | split | dsimp only
theorem execFtBackDone_keeps (s : State) : (execFtBackDone s).From s := by
  unfold execFtBackDone
  repeat' with_reducible first | exact State.From.refl _ | assumption | refine next_keeps ?_ | refine ite_keeps_res ?_ ?_ | refine ite_keeps ?_ ?_ | refine cond_keeps _ _ _ (fun s => ?_) ?_ | refine (State.rim_keeps ..).trans ?_ | refine (State.copyEnd_keeps ..).trans ?_ | refine (State.setMap_keeps ..).trans ?_ | refine (State.setRole_keeps ..).trans ?_ | refine (State.ftEnd_keeps ..).trans ?_ | refine (State.takeOver_keeps ..).trans ?_ | split | dsimp only
theorem State.resetSync_keeps (s : State) : (State.resetSync s).From s := by
  unfold State.resetSync
  repeat' with_reducible first | exact State.From.refl _ | assumption | refine ite_keeps ?_ ?_ | refine (State.syn_keeps ..).trans ?_ | refine (State.upd_regs_keeps ..).trans ?_
theorem State.ftOpen_keeps (s : State) : (State.ftOpen s).From s := by
  unfold State.ftOpen
  repeat' with_reducible first | exact State.From.refl _ | assumption | refine (pair_keeps (State.draw_keeps ..) (by assumption)).trans ?_ | refine ite_keeps ?_ ?_ | refine (State.draw_keeps ..).trans ?_ | refine (State.ftEnd_keeps ..).trans ?_ | split | dsimp only
theorem State.planeTestDone_keeps (s : State) (f : FieldTest) (ok : Bool) : (State.planeTestDone s f ok).From s := by
  unfold State.planeTestDone
  repeat' with_reducible first | exact State.From.refl _ | assumption | refine ite_keeps ?_ ?_ | refine (State.put_keeps ..).trans ?_ | refine (State.setPlane_keeps ..).trans ?_ | refine (State.planeChange_keeps ..).trans ?_ | refine (State.setDom_keeps ..).trans ?_ | refine (State.ftEnd_keeps ..).trans ?_ | refine (State.ftOpen_keeps ..).trans ?_ | split | dsimp only
theorem State.linkTestDone_keeps (s : State) (f : FieldTest) (ok : Bool) (errs : Nat) : (State.linkTestDone s f ok errs).From s := by
  unfold State.linkTestDone
  repeat' with_reducible first | exact State.From.refl _ | assumption | refine ite_keeps ?_ ?_ | refine (State.wr_keeps ..).trans ?_ | refine (State.put_keeps ..).trans ?_ | refine (State.ftEnd_keeps ..).trans ?_ | refine (State.lpFail_keeps ..).trans ?_ | refine (State.lpDown_keeps ..).trans ?_ | refine (State.ftOpen_keeps ..).trans ?_ | split | dsimp only
theorem State.syncTestDone_keeps (s : State) (f : FieldTest) (ok : Bool) : (State.syncTestDone s f ok).From s := by
  unfold State.syncTestDone
  repeat' with_reducible first | exact State.From.refl _ | assumption | refine ite_keeps ?_ ?_ | refine (State.park_keeps ..).trans ?_ | refine (State.ftEnd_keeps ..).trans ?_ | refine (State.resetSync_keeps ..).trans ?_ | split | dsimp only
theorem execFieldTestDone_keeps (ok : Bool) (errs : Nat) (s : State) : (execFieldTestDone ok errs s).From s := by
  unfold execFieldTestDone
  repeat' with_reducible first | exact State.From.refl _ | assumption | refine next_keeps ?_ | refine ite_keeps_res ?_ ?_ | refine ite_keeps ?_ ?_ | refine (State.planeTestDone_keeps ..).trans ?_ | refine (State.linkTestDone_keeps ..).trans ?_ | refine (State.syncTestDone_keeps ..).trans ?_ | split | dsimp only
theorem ftMessage_keeps (typ : Nat) (need : Nat) (r : Nat) (act : List Nat → State → Reply × State) (s : State) (hact : ∀ x0 s, (act x0 s).2.From s) : (ftMessage typ need r act s).From s := by
  unfold ftMessage
  repeat' with_reducible first | exact State.From.refl _ | assumption | refine (pair_keeps (hact ..) (by assumption)).trans ?_ | refine next_keeps ?_ | refine ite_keeps_res ?_ ?_ | refine ite_keeps ?_ ?_ | refine (message_keeps _ _ _ _ _  (fun _ _ s => ?_)).trans ?_ | refine (hact ..).trans ?_ | split | dsimp only
theorem execFtRim_keeps (r : Nat) (s : State) : (execFtRim r s).From s := by
  unfold execFtRim
  repeat' with_reducible first | exact State.From.refl _ | assumption | refine next_keeps ?_ | refine ite_keeps_res ?_ ?_ | refine ite_keeps ?_ ?_ | refine getD_keeps (fun t h => ?_) ?_ | refine (ftMessage_keeps _ _ _ _ _  (fun _ s => ?_)).trans ?_ | refine (State.ftStart_keeps ..).trans ?_
theorem execFtPlane_keeps (r : Nat) (s : State) : (execFtPlane r s).From s := by
  unfold execFtPlane
  repeat' with_reducible first | exact State.From.refl _ | assumption | refine next_keeps ?_ | refine ite_keeps_res ?_ ?_ | refine ite_keeps ?_ ?_ | refine getD_keeps (fun t h => ?_) ?_ | refine (ftMessage_keeps _ _ _ _ _  (fun _ s => ?_)).trans ?_ | refine (State.ftStart_keeps ..).trans ?_
theorem execFtLink_keeps (r : Nat) (s : State) : (execFtLink r s).From s := by
  unfold execFtLink
  repeat' with_reducible first | exact State.From.refl _ | assumption | refine next_keeps ?_ | refine ite_keeps_res ?_ ?_ | refine ite_keeps ?_ ?_ | refine getD_keeps (fun t h => ?_) ?_ | refine (ftMessage_keeps _ _ _ _ _  (fun _ s => ?_)).trans ?_ | refine (State.ftStart_keeps ..).trans ?_
theorem execFtSync_keeps (r : Nat) (s : State) : (execFtSync r s).From s := by
  unfold execFtSync
  repeat' with_reducible first | exact State.From.refl _ | assumption | refine next_keeps ?_ | refine ite_keeps_res ?_ ?_ | refine ite_keeps ?_ ?_ | refine (ftMessage_keeps _ _ _ _ _  (fun _ s => ?_)).trans ?_ | refine (State.ftStart_keeps ..).trans ?_
theorem execFtAbort_keeps (r : Nat) (s : State) : (execFtAbort r s).From s := by
  unfold execFtAbort
  repeat' with_reducible first | exact State.From.refl _ | assumption | refine next_keeps ?_ | refine ite_keeps_res ?_ ?_ | refine ite_keeps ?_ ?_ | refine (ftMessage_keeps _ _ _ _ _  (fun _ s => ?_)).trans ?_ | refine (State.ftAbort_keeps ..).trans ?_
theorem execFtResult_keeps (r : Nat) (s : State) : (execFtResult r s).From s := by
  unfold execFtResult
  repeat' with_reducible first | exact State.From.refl _ | assumption | refine next_keeps ?_ | refine ite_keeps_res ?_ ?_ | refine ite_keeps ?_ ?_ | refine (ftMessage_keeps _ _ _ _ _  (fun _ s => ?_)).trans ?_

end Sys2Proof.Machine
end

