-- ==== Sys2Proof/Laws/KeepRecorder.lean ====
section
/-! SUPPORT. What no operation of Machine/Recorder.lean changes: the configuration, the queue of waiting commands, the canonical form of memory. -/
namespace Sys2Proof.Machine

theorem State.rec__keeps (s : State) (f : RecSt → RecSt) : (State.rec_ s f).From s := by
  unfold State.rec_
  repeat' with_reducible first | exact State.From.refl _ | assumption | refine ite_keeps ?_ ?_ | refine (State.upd_recd_keeps ..).trans ?_
theorem State.rcSet_keeps (s : State) (st : Nat) : (State.rcSet s st).From s := by
  unfold State.rcSet
  repeat' with_reducible first | exact State.From.refl _ | assumption | refine ite_keeps ?_ ?_ | refine (State.put_keeps ..).trans ?_
theorem State.rcDrain_keeps (s : State) : (State.rcDrain s).From s := by
  unfold State.rcDrain
  repeat' with_reducible first | exact State.From.refl _ | assumption | refine ite_keeps ?_ ?_ | refine (State.rec__keeps ..).trans ?_ | refine (State.rcSet_keeps ..).trans ?_ | split | dsimp only
theorem State.rcArm_keeps (s : State) : (State.rcArm s).From s := by
  unfold State.rcArm
  repeat' with_reducible first | exact State.From.refl _ | assumption | refine ite_keeps ?_ ?_ | refine (State.wr_keeps ..).trans ?_ | refine (State.rec__keeps ..).trans ?_ | refine (State.rcSet_keeps ..).trans ?_
theorem rcCtlWrite_keeps (m : Master) (w : Word32) (s : State) : (rcCtlWrite m w s).From s := by
  unfold rcCtlWrite
  repeat' with_reducible first | exact State.From.refl _ | assumption | refine ite_keeps ?_ ?_ | refine cond_keeps _ _ _ (fun s => ?_) ?_ | refine (State.gate_keeps _ _ _ _ _ _  (fun  s => ?_)).trans ?_ | refine (State.put_keeps ..).trans ?_ | refine (State.setFields_keeps ..).trans ?_ | refine (State.rcDrain_keeps ..).trans ?_ | refine (State.rcArm_keeps ..).trans ?_ | split | dsimp only
theorem execRcEnable_keeps (m : Master) (w : Word32) (s : State) : (execRcEnable m w s).From s := by
  unfold execRcEnable
  repeat' with_reducible first | exact State.From.refl _ | assumption | refine next_keeps ?_ | refine ite_keeps_res ?_ ?_ | refine ite_keeps ?_ ?_ | refine (rcCtlWrite_keeps ..).trans ?_
theorem execRcDisable_keeps (m : Master) (w : Word32) (s : State) : (execRcDisable m w s).From s := by
  unfold execRcDisable
  repeat' with_reducible first | exact State.From.refl _ | assumption | refine next_keeps ?_ | refine ite_keeps_res ?_ ?_ | refine ite_keeps ?_ ?_ | refine (rcCtlWrite_keeps ..).trans ?_
theorem execRcArm_keeps (m : Master) (s : State) : (execRcArm m s).From s := by
  unfold execRcArm
  repeat' with_reducible first | exact State.From.refl _ | assumption | refine next_keeps ?_ | refine ite_keeps_res ?_ ?_ | refine ite_keeps ?_ ?_ | refine (rcCtlWrite_keeps ..).trans ?_
theorem execRcDrainDone_keeps (s : State) : (execRcDrainDone s).From s := by
  unfold execRcDrainDone
  repeat' with_reducible first | exact State.From.refl _ | assumption | refine next_keeps ?_ | refine ite_keeps_res ?_ ?_ | refine ite_keeps ?_ ?_ | refine (State.rcSet_keeps ..).trans ?_ | split | dsimp only
theorem execRcClearingDone_keeps (s : State) : (execRcClearingDone s).From s := by
  unfold execRcClearingDone
  repeat' with_reducible first | exact State.From.refl _ | assumption | refine next_keeps ?_ | refine ite_keeps_res ?_ ?_ | refine ite_keeps ?_ ?_ | refine (State.rec__keeps ..).trans ?_ | refine (State.rcSet_keeps ..).trans ?_ | split | dsimp only
theorem State.sampleTrg_keeps (s : State) (n : Nat) : (State.sampleTrg s n).From s := by
  unfold State.sampleTrg
  repeat' with_reducible first | exact State.From.refl _ | assumption | refine ite_keeps ?_ ?_ | refine cond_keeps _ _ _ (fun s => ?_) ?_ | refine (State.trigger_keeps ..).trans ?_ | refine (State.rec__keeps ..).trans ?_ | split | dsimp only
theorem execTriggerSample_keeps (s : State) : (execTriggerSample s).From s := by
  unfold execTriggerSample
  repeat' with_reducible first | exact State.From.refl _ | assumption | refine next_keeps ?_ | refine ite_keeps_res ?_ ?_ | refine ite_keeps ?_ ?_ | refine each_keeps _ _ _ (fun s x => ?_) ?_ | refine (State.rec__keeps ..).trans ?_ | refine (State.sampleTrg_keeps ..).trans ?_ | split | dsimp only
theorem execRcSwtrig_keeps (m : Master) (tag : Nat) (trig : Nat) (s : State) : (execRcSwtrig m tag trig s).From s := by
  unfold execRcSwtrig
  repeat' with_reducible first | exact State.From.refl _ | assumption | refine next_keeps ?_ | refine ite_keeps_res ?_ ?_ | refine ite_keeps ?_ ?_ | refine cond_keeps _ _ _ (fun s => ?_) ?_ | refine (State.gate_keeps _ _ _ _ _ _  (fun  s => ?_)).trans ?_ | refine (State.trigger_keeps ..).trans ?_
theorem trgCfgWrite_keeps (m : Master) (n : Nat) (w : Word32) (s : State) : (trgCfgWrite m n w s).From s := by
  unfold trgCfgWrite
  repeat' with_reducible first | exact State.From.refl _ | assumption | refine ite_keeps ?_ ?_ | refine cond_keeps _ _ _ (fun s => ?_) ?_ | refine (State.gate_keeps _ _ _ _ _ _  (fun  s => ?_)).trans ?_ | refine (State.setFields_keeps ..).trans ?_ | refine (State.rec__keeps ..).trans ?_ | split | dsimp only
theorem State.recordPut_keeps (s : State) (slot : Nat) (k : Nat) (ws : List Nat) : (State.recordPut s slot k ws).From s := by
  unfold State.recordPut
  repeat' with_reducible first | exact State.From.refl _ | assumption | refine ite_keeps ?_ ?_ | refine (State.drop_keeps ..).trans ?_ | refine (State.rec__keeps ..).trans ?_ | split | dsimp only
theorem State.recordTake_keeps (s : State) (f : Fired) : (State.recordTake s f).From s := by
  unfold State.recordTake
  exact (State.put_keeps ..).trans ((State.recordPut_keeps ..).trans ((State.rec__keeps ..).trans
    (cond_keeps _ _ _ (fun s => State.recordPut_keeps ..) (State.recordPut_keeps ..))))
theorem State.recordGo_keeps (s : State) (j : RecJob) : (State.recordGo s j).From s := by
  unfold State.recordGo
  split
  · exact (State.rec__keeps ..).trans (State.recordPut_keeps ..)
  · exact cond_keeps _ _ _ (fun s => (State.irq_keeps ..).trans (State.rcSet_keeps ..))
      (cond_keeps _ _ _ (fun s => State.irq_keeps ..) (cond_keeps _ _ _ (fun s => State.put_keeps ..)
        ((State.rec__keeps ..).trans (State.recordPut_keeps ..))))
theorem State.recordStep_keeps (s : State) : (State.recordStep s).From s := by
  unfold State.recordStep
  repeat' with_reducible first | exact State.From.refl _ | assumption | refine ite_keeps ?_ ?_ | refine (State.recordTake_keeps ..).trans ?_ | refine (State.recordGo_keeps ..).trans ?_ | split | dsimp only
theorem execRecordWrite_keeps (s : State) : (execRecordWrite s).From s := by
  unfold execRecordWrite
  repeat' with_reducible first | exact State.From.refl _ | assumption | refine next_keeps ?_ | refine ite_keeps_res ?_ ?_ | refine ite_keeps ?_ ?_ | refine (State.recordStep_keeps ..).trans ?_ | split | dsimp only

end Sys2Proof.Machine
end

