-- ==== Sys2Proof/Laws/KeepLifecycle.lean ====
section
/-! SUPPORT. What no operation of Machine/Lifecycle.lean changes: the configuration, the queue of waiting commands, the canonical form of memory. -/
namespace Sys2Proof.Machine

theorem lcCmdWrite_keeps (m : Master) (w : Word32) (s : State) : (lcCmdWrite m w s).From s := by
  unfold lcCmdWrite
  repeat' with_reducible first | exact State.From.refl _ | assumption | refine ite_keeps ?_ ?_ | refine (State.gate_keeps _ _ _ _ _ _  (fun  s => ?_)).trans ?_ | refine (State.put_keeps ..).trans ?_ | refine (State.refused_keeps ..).trans ?_ | refine (State.park_keeps ..).trans ?_ | split | refine (State.upd_fused_keeps ..).trans ?_ | dsimp only
theorem execLcAdvance_keeps (m : Master) (confirm : Nat) (s : State) : (execLcAdvance m confirm s).From s := by
  unfold execLcAdvance
  repeat' with_reducible first | exact State.From.refl _ | assumption | refine next_keeps ?_ | refine ite_keeps_res ?_ ?_ | refine ite_keeps ?_ ?_ | refine (lcCmdWrite_keeps ..).trans ?_
theorem execLcRetireDevice_keeps (m : Master) (confirm : Nat) (s : State) : (execLcRetireDevice m confirm s).From s := by
  unfold execLcRetireDevice
  repeat' with_reducible first | exact State.From.refl _ | assumption | refine next_keeps ?_ | refine ite_keeps_res ?_ ?_ | refine ite_keeps ?_ ?_ | refine (lcCmdWrite_keeps ..).trans ?_
theorem State.newNonce_keeps (s : State) : (State.newNonce s).From s := by
  unfold State.newNonce
  repeat' with_reducible first | exact State.From.refl _ | assumption | refine (pair_keeps (State.draw_keeps ..) (by assumption)).trans ?_ | refine ite_keeps ?_ ?_ | refine (State.draw_keeps ..).trans ?_ | refine (State.put64_keeps ..).trans ?_ | split | dsimp only
theorem svcCtlWrite_keeps (m : Master) (w : Word32) (s : State) : (svcCtlWrite m w s).From s := by
  unfold svcCtlWrite
  repeat' with_reducible first | exact State.From.refl _ | assumption | refine ite_keeps ?_ ?_ | refine cond_keeps _ _ _ (fun s => ?_) ?_ | refine (State.gate_keeps _ _ _ _ _ _  (fun  s => ?_)).trans ?_ | refine (State.put_keeps ..).trans ?_ | refine (State.irq_keeps ..).trans ?_ | refine (State.refused_keeps ..).trans ?_ | refine (State.setFields_keeps ..).trans ?_ | refine (State.newNonce_keeps ..).trans ?_ | split | dsimp only
theorem execSvcEnter_keeps (m : Master) (s : State) : (execSvcEnter m s).From s := by
  unfold execSvcEnter
  repeat' with_reducible first | exact State.From.refl _ | assumption | refine next_keeps ?_ | refine ite_keeps_res ?_ ?_ | refine ite_keeps ?_ ?_ | refine (svcCtlWrite_keeps ..).trans ?_
theorem State.powerReset_keeps (s : State) : (State.powerReset s).From s := by
  unfold State.powerReset
  refine cond_keeps _ _ _ (fun s => State.park_keeps s) ?_
  exact (State.newNonce_keeps ..).trans ((State.put_keeps ..).trans ⟨rfl, rfl, fun _ => rfl⟩)
theorem State.keepImages_keeps (r : State) (s : State) : (State.keepImages r s).From r := by
  unfold State.keepImages
  repeat' with_reducible first | exact State.From.refl _ | assumption | refine ite_keeps ?_ ?_ | refine cond_keeps _ _ _ (fun s => ?_) ?_ | refine (State.wr_keeps ..).trans ?_ | refine (State.put_keeps ..).trans ?_ | refine (State.fwm_keeps ..).trans ?_ | split | dsimp only
theorem State.softReset_keeps (s : State) : (State.softReset s).From s := by
  unfold State.softReset
  refine (State.keepImages_keeps ..).trans ((State.put_keeps ..).trans ((State.wr_keeps ..).trans ?_))
  exact State.From.trans ⟨rfl, rfl, id⟩ (State.powerReset_keeps s)
theorem execPorstAssert_keeps (s : State) : (execPorstAssert s).From s := by
  unfold execPorstAssert
  repeat' with_reducible first | exact State.From.refl _ | assumption | refine next_keeps ?_ | refine ite_keeps_res ?_ ?_ | refine ite_keeps ?_ ?_ | refine (State.powerReset_keeps ..).trans ?_ | refine (State.upd_porstLow_keeps ..).trans ?_
theorem execPorstRelease_keeps (mgr : Bool) (s : State) : (execPorstRelease mgr s).From s := by
  unfold execPorstRelease
  refine ite_keeps_res (next_keeps (State.From.refl _)) ?_
  exact next_keeps ((State.put_keeps ..).trans ⟨rfl, rfl, id⟩)
theorem execSrstAssert_keeps (s : State) : (execSrstAssert s).From s := by
  unfold execSrstAssert
  repeat' with_reducible first | exact State.From.refl _ | assumption | refine next_keeps ?_ | refine ite_keeps_res ?_ ?_ | refine ite_keeps ?_ ?_ | refine (State.softReset_keeps ..).trans ?_ | split | refine (State.upd_srstLow_keeps ..).trans ?_ | dsimp only
theorem execSrstRelease_keeps (s : State) : (execSrstRelease s).From s := by
  unfold execSrstRelease
  exact ite_keeps_res (next_keeps (State.From.refl _)) (next_keeps ⟨rfl, rfl, id⟩)
theorem execRailOutOfRange_keeps (s : State) : (execRailOutOfRange s).From s := by
  unfold execRailOutOfRange
  exact ite_keeps_res (next_keeps (State.From.refl _)) (next_keeps ⟨rfl, rfl, fun _ => Mem.wf_norm _⟩)
theorem execTimerefStop_keeps (s : State) : (execTimerefStop s).From s := by
  unfold execTimerefStop
  repeat' with_reducible first | exact State.From.refl _ | assumption | refine next_keeps ?_ | refine ite_keeps_res ?_ ?_ | refine ite_keeps ?_ ?_ | refine (State.upd_clockOn_keeps ..).trans ?_
theorem execFuseShadowLoaded_keeps (s : State) : (execFuseShadowLoaded s).From s := by
  unfold execFuseShadowLoaded
  repeat' with_reducible first | exact State.From.refl _ | assumption | refine next_keeps ?_ | refine ite_keeps_res ?_ ?_ | refine ite_keeps ?_ ?_ | refine (State.upd_fuseLoaded_keeps ..).trans ?_ | (unfold State.From; exact ⟨rfl, rfl, id⟩) | split | dsimp only
theorem State.repairLanes_keeps (s : State) (n : Nat) (f : LaneFaults) : (State.repairLanes s n f).From s := by
  unfold State.repairLanes
  repeat' with_reducible first | exact State.From.refl _ | assumption | refine ite_keeps ?_ ?_ | refine cond_keeps _ _ _ (fun s => ?_) ?_ | refine (State.bump_keeps ..).trans ?_ | refine (State.bumpSat_keeps ..).trans ?_ | refine (State.ig_keeps ..).trans ?_ | refine (State.unreachable_keeps ..).trans ?_ | split | dsimp only
theorem execCrossingBringup_keeps (n : Nat) (present : Bool) (faults : List LaneFaults) (s : State) : (execCrossingBringup n present faults s).From s := by
  unfold execCrossingBringup
  repeat' with_reducible first | exact State.From.refl _ | assumption | refine next_keeps ?_ | refine ite_keeps_res ?_ ?_ | refine ite_keeps ?_ ?_ | refine cond_keeps _ _ _ (fun s => ?_) ?_ | refine each_keeps _ _ _ (fun s x => ?_) ?_ | refine (State.wr_keeps ..).trans ?_ | refine (State.put_keeps ..).trans ?_ | refine (State.ig_keeps ..).trans ?_ | refine (State.unreachable_keeps ..).trans ?_ | refine (State.repairLanes_keeps ..).trans ?_ | refine foldl_keeps _ _ _ (fun s x => ?_) ?_ | refine foldl_keeps2 _ _ _ (fun s x => ?_) ?_ | refine foldl_keeps3 _ _ _ (fun s x => ?_) ?_ | split | dsimp only
theorem State.bstLayer_keeps (s : State) (rims : List (Nat × Nat)) (layer : Nat) : (State.bstLayer s rims layer).From s := by
  unfold State.bstLayer
  repeat' with_reducible first | exact State.From.refl _ | assumption | refine ite_keeps ?_ ?_ | refine cond_keeps _ _ _ (fun s => ?_) ?_ | refine each_keeps _ _ _ (fun s x => ?_) ?_ | refine (State.put_keeps ..).trans ?_ | refine (State.setMap_keeps ..).trans ?_ | refine (State.setRole_keeps ..).trans ?_ | refine (State.setRimUp_keeps ..).trans ?_ | refine (State.parkRim_keeps ..).trans ?_ | split | dsimp only
theorem State.bstPlanes_keeps (s : State) (planes : List Nat) : (State.bstPlanes s planes).From s := by
  unfold State.bstPlanes
  repeat' with_reducible first | exact State.From.refl _ | assumption | refine ite_keeps ?_ ?_ | refine cond_keeps _ _ _ (fun s => ?_) ?_ | refine (State.put_keeps ..).trans ?_ | refine (State.setPlane_keeps ..).trans ?_ | refine (State.park_keeps ..).trans ?_ | refine (State.setDom_keeps ..).trans ?_ | split | dsimp only
theorem State.bstPorts_keeps (s : State) (ports : List Nat) : (State.bstPorts s ports).From s := by
  unfold State.bstPorts
  repeat' with_reducible first | exact State.From.refl _ | assumption | refine ite_keeps ?_ ?_ | refine each_keeps _ _ _ (fun s x => ?_) ?_ | refine (State.put_keeps ..).trans ?_ | refine (State.port_keeps ..).trans ?_ | refine (State.domOff_keeps ..).trans ?_ | refine (State.upd_domDead_keeps ..).trans ?_
theorem execBootSelfTest_keeps (fails : BstFail) (s : State) : (execBootSelfTest fails s).From s := by
  unfold execBootSelfTest
  repeat' with_reducible first | exact State.From.refl _ | assumption | refine next_keeps ?_ | refine ite_keeps_res ?_ ?_ | refine ite_keeps ?_ ?_ | refine cond_keeps _ _ _ (fun s => ?_) ?_ | refine each_keeps _ _ _ (fun s x => ?_) ?_ | refine (State.put_keeps ..).trans ?_ | refine (State.park_keeps ..).trans ?_ | refine (State.tst_keeps ..).trans ?_ | refine (State.lpFail_keeps ..).trans ?_ | refine (State.bstLayer_keeps ..).trans ?_ | refine (State.bstPlanes_keeps ..).trans ?_ | refine (State.bstPorts_keeps ..).trans ?_ | refine foldl_keeps _ _ _ (fun s x => ?_) ?_ | refine foldl_keeps2 _ _ _ (fun s x => ?_) ?_ | refine foldl_keeps3 _ _ _ (fun s x => ?_) ?_ | split | dsimp only
theorem execBootSelfTestDone_keeps (s : State) : (execBootSelfTestDone s).From s := by
  unfold execBootSelfTestDone
  repeat' with_reducible first | exact State.From.refl _ | assumption | refine next_keeps ?_ | refine ite_keeps_res ?_ ?_ | refine ite_keeps ?_ ?_ | refine (State.arr_keeps _ _ (fun a h => ?_)).trans ?_ | refine (State.put_keeps ..).trans ?_ | refine (State.irq_keeps ..).trans ?_ | split | dsimp only
theorem execRetirementsReapplied_keeps (s : State) : (execRetirementsReapplied s).From s := by
  unfold execRetirementsReapplied
  repeat' with_reducible first | exact State.From.refl _ | assumption | refine next_keeps ?_ | refine ite_keeps_res ?_ ?_ | refine ite_keeps ?_ ?_ | refine (State.put_keeps ..).trans ?_ | refine (State.drop_keeps ..).trans ?_ | refine (State.tst_keeps ..).trans ?_ | refine (rimCmdWrite_keeps ..).trans ?_ | split | dsimp only

end Sys2Proof.Machine
end

