-- ==== Sys2Proof/Laws/KeepFabric.lean ====
section
/-! SUPPORT. What no operation of Machine/Fabric.lean changes: the configuration, the queue of waiting commands, the canonical form of memory. -/
namespace Sys2Proof.Machine

theorem semOp_keeps (m : Master) (w : Word32) (s : State) : (semOp m w s).From s := by
  unfold semOp
  repeat' with_reducible first | exact State.From.refl _ | assumption | refine ite_keeps ?_ ?_ | refine (State.gate_keeps _ _ _ _ _ _  (fun  s => ?_)).trans ?_ | refine (State.wr_keeps ..).trans ?_ | refine (State.irq_keeps ..).trans ?_ | refine (State.setOwner_keeps ..).trans ?_ | refine (State.fabStat_keeps ..).trans ?_ | refine (State.refused_keeps ..).trans ?_ | split | refine (State.upd_captured_keeps ..).trans ?_ | dsimp only
theorem execSemaClaim_keeps (m : Master) (g : Nat) (s : State) : (execSemaClaim m g s).From s := by
  unfold execSemaClaim
  repeat' with_reducible first | exact State.From.refl _ | assumption | refine next_keeps ?_ | refine ite_keeps_res ?_ ?_ | refine ite_keeps ?_ ?_ | refine (semOp_keeps ..).trans ?_
theorem execSemaRelease_keeps (m : Master) (g : Nat) (s : State) : (execSemaRelease m g s).From s := by
  unfold execSemaRelease
  repeat' with_reducible first | exact State.From.refl _ | assumption | refine next_keeps ?_ | refine ite_keeps_res ?_ ?_ | refine ite_keeps ?_ ?_ | refine (semOp_keeps ..).trans ?_
theorem execSemaForce_keeps (m : Master) (g : Nat) (s : State) : (execSemaForce m g s).From s := by
  unfold execSemaForce
  repeat' with_reducible first | exact State.From.refl _ | assumption | refine next_keeps ?_ | refine ite_keeps_res ?_ ?_ | refine ite_keeps ?_ ?_ | refine (semOp_keeps ..).trans ?_
theorem irqForce_keeps (m : Master) (p : PageAt) (w : Word32) (s : State) : (irqForce m p w s).From s := by
  unfold irqForce
  repeat' with_reducible first | exact State.From.refl _ | assumption | refine ite_keeps ?_ ?_ | refine each_keeps _ _ _ (fun s x => ?_) ?_ | refine (State.gate_keeps _ _ _ _ _ _  (fun  s => ?_)).trans ?_ | refine (State.irq_keeps ..).trans ?_
theorem execIrqForce_keeps (m : Master) (off : Nat) (set : Nat) (s : State) : (execIrqForce m off set s).From s := by
  unfold execIrqForce
  repeat' with_reducible first | exact State.From.refl _ | assumption | refine next_keeps ?_ | refine ite_keeps_res ?_ ?_ | refine ite_keeps ?_ ?_ | refine (irqForce_keeps ..).trans ?_ | split | dsimp only
theorem after_keeps (r : Res) (s : State) (hr : r.From s) : (after r s).From s := by
  obtain ⟨t, rfl, h⟩ := hr
  exact h
theorem plainWrite_keeps (m : Master) (p : PageAt) (o : Nat) (w : Word32) (s : State) : (plainWrite m p o w s).From s := by
  unfold plainWrite
  repeat' with_reducible first | exact State.From.refl _ | assumption | refine ite_keeps ?_ ?_ | refine (State.gate_keeps _ _ _ _ _ _  (fun  s => ?_)).trans ?_ | refine (State.setFields_keeps ..).trans ?_
theorem idleWrite_keeps (m : Master) (p : PageAt) (o : Nat) (s : State) : (idleWrite m p o s).From s := by
  unfold idleWrite
  repeat' with_reducible first | exact State.From.refl _ | assumption | refine ite_keeps ?_ ?_ | refine (State.gate_keeps _ _ _ _ _ _  (fun  s => ?_)).trans ?_ | unfold id
theorem pctlWrite_keeps (m : Master) (x : Nat) (w : Word32) (s : State) : (pctlWrite m x w s).From s := by
  unfold pctlWrite
  repeat' with_reducible first | exact State.From.refl _ | assumption | refine ite_keeps ?_ ?_ | refine cond_keeps _ _ _ (fun s => ?_) ?_ | refine (State.gate_keeps _ _ _ _ _ _  (fun  s => ?_)).trans ?_ | refine (after_keeps _ _  ?_).trans ?_ | refine (State.put_keeps ..).trans ?_ | refine (execUrgCapWrite_keeps ..).trans ?_ | refine (execPortEnable_keeps ..).trans ?_ | refine (execPortDisable_keeps ..).trans ?_ | refine (execLoopWrite_keeps ..).trans ?_ | split | dsimp only
theorem ctlWrite_keeps (m : Master) (p : PageAt) (w : Word32) (s : State) : (ctlWrite m p w s).From s := by
  unfold ctlWrite
  repeat' with_reducible first | exact State.From.refl _ | assumption | refine ite_keeps ?_ ?_ | refine (State.gate_keeps _ _ _ _ _ _  (fun  s => ?_)).trans ?_ | refine (after_keeps _ _  ?_).trans ?_ | refine (State.port_keeps ..).trans ?_ | refine (execPortEnable_keeps ..).trans ?_ | refine (execPortDisable_keeps ..).trans ?_ | refine (execWindowUnitEnable_keeps ..).trans ?_ | refine (rcCtlWrite_keeps ..).trans ?_ | refine (idleWrite_keeps ..).trans ?_ | split | dsimp only
theorem planeCtlWrite_keeps (m : Master) (w : Word32) (s : State) : (planeCtlWrite m w s).From s := by
  unfold planeCtlWrite
  repeat' with_reducible first | exact State.From.refl _ | assumption | refine ite_keeps ?_ ?_ | refine (State.gate_keeps _ _ _ _ _ _  (fun  s => ?_)).trans ?_ | refine (after_keeps _ _  ?_).trans ?_ | refine (State.planeRefused_keeps ..).trans ?_ | refine (execPlaneTakeOut_keeps ..).trans ?_ | refine (execPlaneReturn_keeps ..).trans ?_ | split | dsimp only
theorem regulCtlWrite_keeps (m : Master) (p : PageAt) (w : Word32) (s : State) : (regulCtlWrite m p w s).From s := by
  unfold regulCtlWrite
  repeat' with_reducible first | exact State.From.refl _ | assumption | refine ite_keeps ?_ ?_ | refine cond_keeps _ _ _ (fun s => ?_) ?_ | refine (State.gate_keeps _ _ _ _ _ _  (fun  s => ?_)).trans ?_ | refine (after_keeps _ _  ?_).trans ?_ | refine (State.setFields_keeps ..).trans ?_ | refine (execHapply_keeps ..).trans ?_ | refine (execLock_keeps ..).trans ?_
theorem regulWrite_keeps (m : Master) (p : PageAt) (o : Nat) (w : Word32) (s : State) : (regulWrite m p o w s).From s := by
  unfold regulWrite
  repeat' with_reducible first | exact State.From.refl _ | assumption | refine ite_keeps ?_ ?_ | refine cond_keeps _ _ _ (fun s => ?_) ?_ | refine (State.gate_keeps _ _ _ _ _ _  (fun  s => ?_)).trans ?_ | refine (after_keeps _ _  ?_).trans ?_ | refine (State.setFields_keeps ..).trans ?_ | refine (State.lockViol_keeps ..).trans ?_ | refine (execTidConfigWrite_keeps ..).trans ?_ | refine (execStepWrite_keeps ..).trans ?_ | refine (execPreemptWrite_keeps ..).trans ?_ | refine (execSnapshotGo_keeps ..).trans ?_ | refine (plainWrite_keeps ..).trans ?_ | refine (regulCtlWrite_keeps ..).trans ?_ | split | dsimp only
theorem ringWrite_keeps (m : Master) (p : PageAt) (o : Nat) (w : Word32) (s : State) : (ringWrite m p o w s).From s := by
  unfold ringWrite
  repeat' with_reducible first | exact State.From.refl _ | assumption | refine ite_keeps ?_ ?_ | refine (State.gate_keeps _ _ _ _ _ _  (fun  s => ?_)).trans ?_ | refine (after_keeps _ _  ?_).trans ?_ | refine (State.ringLocked_keeps ..).trans ?_ | refine (execRingEnable_keeps ..).trans ?_ | refine (execRingDisable_keeps ..).trans ?_ | refine (plainWrite_keeps ..).trans ?_ | split | dsimp only
theorem tagWrite_keeps (m : Master) (p : PageAt) (o : Nat) (w : Word32) (s : State) : (tagWrite m p o w s).From s := by
  unfold tagWrite
  repeat' with_reducible first | exact State.From.refl _ | assumption | refine ite_keeps ?_ ?_ | refine cond_keeps _ _ _ (fun s => ?_) ?_ | refine (State.gate_keeps _ _ _ _ _ _  (fun  s => ?_)).trans ?_ | refine (after_keeps _ _  ?_).trans ?_ | refine (State.setFields_keeps ..).trans ?_ | refine (State.syncRefused_keeps ..).trans ?_ | refine (tagCmd_keeps ..).trans ?_ | refine (plainWrite_keeps ..).trans ?_ | split | dsimp only
theorem ctrWrite_keeps (m : Master) (p : PageAt) (o : Nat) (w : Word32) (s : State) : (ctrWrite m p o w s).From s := by
  unfold ctrWrite
  repeat' with_reducible first | exact State.From.refl _ | assumption | refine ite_keeps ?_ ?_ | refine (State.gate_keeps _ _ _ _ _ _  (fun  s => ?_)).trans ?_ | refine (after_keeps _ _  ?_).trans ?_ | refine (State.setFields_keeps ..).trans ?_ | refine (State.syncRefused_keeps ..).trans ?_ | refine (ctrCmd_keeps ..).trans ?_ | refine (plainWrite_keeps ..).trans ?_ | split | dsimp only
theorem barWrite_keeps (m : Master) (p : PageAt) (o : Nat) (w : Word32) (s : State) : (barWrite m p o w s).From s := by
  unfold barWrite
  repeat' with_reducible first | exact State.From.refl _ | assumption | refine ite_keeps ?_ ?_ | refine cond_keeps _ _ _ (fun s => ?_) ?_ | refine (State.gate_keeps _ _ _ _ _ _  (fun  s => ?_)).trans ?_ | refine (after_keeps _ _  ?_).trans ?_ | refine (execBarrive_keeps ..).trans ?_ | refine (execBarrierEnable_keeps ..).trans ?_ | refine (execBarrierDisable_keeps ..).trans ?_ | refine (execBarrierReset_keeps ..).trans ?_ | refine (plainWrite_keeps ..).trans ?_ | split | dsimp only
theorem moverWrite_keeps (m : Master) (p : PageAt) (o : Nat) (w : Word32) (s : State) : (moverWrite m p o w s).From s := by
  unfold moverWrite
  repeat' with_reducible first | exact State.From.refl _ | assumption | refine ite_keeps ?_ ?_ | refine cond_keeps _ _ _ (fun s => ?_) ?_ | refine (State.gate_keeps _ _ _ _ _ _  (fun  s => ?_)).trans ?_ | refine (State.setFields_keeps ..).trans ?_ | refine (execEngineSflush_keeps ..).trans ?_ | refine (execChannelPostWrite_keeps ..).trans ?_ | refine (execCridxConsWrite_keeps ..).trans ?_ | refine (execCreditClear_keeps ..).trans ?_ | refine (after_keeps _ _  ?_).trans ?_ | refine (plainWrite_keeps ..).trans ?_ | refine (idleWrite_keeps ..).trans ?_ | split | dsimp only
theorem rimaluWrite_keeps (m : Master) (p : PageAt) (o : Nat) (w : Word32) (s : State) : (rimaluWrite m p o w s).From s := by
  unfold rimaluWrite
  repeat' with_reducible first | exact State.From.refl _ | assumption | refine ite_keeps ?_ ?_ | refine each_keeps _ _ _ (fun s x => ?_) ?_ | refine (State.gate_keeps _ _ _ _ _ _  (fun  s => ?_)).trans ?_ | refine (after_keeps _ _  ?_).trans ?_ | refine (execRaPush_keeps ..).trans ?_ | refine (execQueueEnable_keeps ..).trans ?_ | refine (execQueueDisable_keeps ..).trans ?_ | refine (execKernelLoad_keeps ..).trans ?_ | refine (plainWrite_keeps ..).trans ?_ | refine (idleWrite_keeps ..).trans ?_ | split | dsimp only
theorem cacheWrite_keeps (m : Master) (p : PageAt) (o : Nat) (w : Word32) (s : State) : (cacheWrite m p o w s).From s := by
  unfold cacheWrite
  repeat' with_reducible first | exact State.From.refl _ | assumption | refine ite_keeps ?_ ?_ | refine (after_keeps _ _  ?_).trans ?_ | refine (copWrite_keeps ..).trans ?_ | refine (secWrite_keeps ..).trans ?_ | refine (execXbaseWrite_keeps ..).trans ?_ | refine (plainWrite_keeps ..).trans ?_ | split | dsimp only
theorem linkWrite_keeps (m : Master) (p : PageAt) (o : Nat) (w : Word32) (s : State) : (linkWrite m p o w s).From s := by
  unfold linkWrite
  repeat' with_reducible first | exact State.From.refl _ | assumption | refine ite_keeps ?_ ?_ | refine cond_keeps _ _ _ (fun s => ?_) ?_ | refine (State.gate_keeps _ _ _ _ _ _  (fun  s => ?_)).trans ?_ | refine (after_keeps _ _  ?_).trans ?_ | refine (State.setFields_keeps ..).trans ?_ | refine (linkCtlWrite_keeps ..).trans ?_ | refine (execFwdWrite_keeps ..).trans ?_ | refine (execEnumGo_keeps ..).trans ?_ | refine (execTsGo_keeps ..).trans ?_ | refine (plainWrite_keeps ..).trans ?_ | refine (idleWrite_keeps ..).trans ?_ | split | dsimp only
theorem windowWrite_keeps (m : Master) (p : PageAt) (o : Nat) (w : Word32) (s : State) : (windowWrite m p o w s).From s := by
  unfold windowWrite
  repeat' with_reducible first | exact State.From.refl _ | assumption | refine ite_keeps ?_ ?_ | refine (State.gate_keeps _ _ _ _ _ _  (fun  s => ?_)).trans ?_ | refine (after_keeps _ _  ?_).trans ?_ | refine (execWindowUnitEnable_keeps ..).trans ?_ | refine (State.winBusy_keeps ..).trans ?_ | refine (winCfg0Write_keeps ..).trans ?_ | refine (cchCfgWrite_keeps ..).trans ?_ | refine (sentSelWrite_keeps ..).trans ?_ | refine (plainWrite_keeps ..).trans ?_ | split | dsimp only
theorem integWrite_keeps (m : Master) (p : PageAt) (o : Nat) (w : Word32) (s : State) : (integWrite m p o w s).From s := by
  unfold integWrite
  repeat' with_reducible first | exact State.From.refl _ | assumption | refine ite_keeps ?_ ?_ | refine cond_keeps _ _ _ (fun s => ?_) ?_ | refine (State.gate_keeps _ _ _ _ _ _  (fun  s => ?_)).trans ?_ | refine (State.wr_keeps ..).trans ?_ | refine (rimCmdWrite_keeps ..).trans ?_ | refine (scrubCmdWrite_keeps ..).trans ?_ | refine (flipCtlWrite_keeps ..).trans ?_ | refine (plainWrite_keeps ..).trans ?_ | split | dsimp only
theorem powerWrite_keeps (m : Master) (p : PageAt) (o : Nat) (w : Word32) (s : State) : (powerWrite m p o w s).From s := by
  unfold powerWrite
  repeat' with_reducible first | exact State.From.refl _ | assumption | refine ite_keeps ?_ ?_ | refine (State.gate_keeps _ _ _ _ _ _  (fun  s => ?_)).trans ?_ | refine (after_keeps _ _  ?_).trans ?_ | refine (State.em0Write_keeps ..).trans ?_ | refine (domCmdWrite_keeps ..).trans ?_ | refine (execEmgForceWrite_keeps ..).trans ?_ | refine (plainWrite_keeps ..).trans ?_ | split | dsimp only
theorem recorderWrite_keeps (m : Master) (p : PageAt) (o : Nat) (w : Word32) (s : State) : (recorderWrite m p o w s).From s := by
  unfold recorderWrite
  repeat' with_reducible first | exact State.From.refl _ | assumption | refine ite_keeps ?_ ?_ | refine each_keeps _ _ _ (fun s x => ?_) ?_ | refine (State.put_keeps ..).trans ?_ | refine (State.gate_keeps _ _ _ _ _ _  (fun  s => ?_)).trans ?_ | refine (rcCtlWrite_keeps ..).trans ?_ | refine (execRcSwtrig_keeps ..).trans ?_ | refine (trgCfgWrite_keeps ..).trans ?_ | refine (after_keeps _ _  ?_).trans ?_ | refine (plainWrite_keeps ..).trans ?_ | refine (idleWrite_keeps ..).trans ?_ | split | dsimp only
theorem mailboxWrite_keeps (m : Master) (p : PageAt) (o : Nat) (w : Word32) (s : State) : (mailboxWrite m p o w s).From s := by
  unfold mailboxWrite
  repeat' with_reducible first | exact State.From.refl _ | assumption | refine ite_keeps ?_ ?_ | refine (after_keeps _ _  ?_).trans ?_ | refine (fwCmdWrite_keeps ..).trans ?_ | refine (execWdtKick_keeps ..).trans ?_ | refine (emCtlWrite_keeps ..).trans ?_ | refine (plainWrite_keeps ..).trans ?_ | split | dsimp only
theorem mboxWrite_keeps (m : Master) (p : PageAt) (o : Nat) (w : Word32) (s : State) : (mboxWrite m p o w s).From s := by
  unfold mboxWrite
  repeat' with_reducible first | exact State.From.refl _ | assumption | refine ite_keeps ?_ ?_ | refine (State.wr_keeps ..).trans ?_ | refine (State.gate_keeps _ _ _ _ _ _  (fun  s => ?_)).trans ?_ | refine (execReqProdWrite_keeps ..).trans ?_ | refine (execRspConsWrite_keeps ..).trans ?_ | refine (after_keeps _ _  ?_).trans ?_ | refine (plainWrite_keeps ..).trans ?_ | split | dsimp only
theorem headerWrite_keeps (m : Master) (p : PageAt) (o : Nat) (w : Word32) (s : State) : (headerWrite m p o w s).From s := by
  unfold headerWrite
  repeat' with_reducible first | exact State.From.refl _ | assumption | refine ite_keeps ?_ ?_ | refine cond_keeps _ _ _ (fun s => ?_) ?_ | refine (State.put_keeps ..).trans ?_ | refine (plainWrite_keeps ..).trans ?_ | split | dsimp only
theorem writeReg_keeps (m : Master) (off : Nat) (w : Word32) (s : State) : (writeReg m off w s).From s := by
  unfold writeReg
  repeat' with_reducible first | exact State.From.refl _ | assumption | refine ite_keeps ?_ ?_ | refine (State.port_keeps ..).trans ?_ | refine (State.rim_keeps ..).trans ?_ | refine (execSflush_keeps ..).trans ?_ | refine (hcmdWrite_keeps ..).trans ?_ | refine (pwrCtlWrite_keeps ..).trans ?_ | refine (ftCmdWrite_keeps ..).trans ?_ | refine (lcCmdWrite_keeps ..).trans ?_ | refine (svcCtlWrite_keeps ..).trans ?_ | refine (semOp_keeps ..).trans ?_ | refine (irqForce_keeps ..).trans ?_ | refine (after_keeps _ _  ?_).trans ?_ | refine (plainWrite_keeps ..).trans ?_ | refine (idleWrite_keeps ..).trans ?_ | refine (pctlWrite_keeps ..).trans ?_ | refine (ctlWrite_keeps ..).trans ?_ | refine (planeCtlWrite_keeps ..).trans ?_ | refine (regulWrite_keeps ..).trans ?_ | refine (ringWrite_keeps ..).trans ?_ | refine (tagWrite_keeps ..).trans ?_ | refine (ctrWrite_keeps ..).trans ?_ | refine (barWrite_keeps ..).trans ?_ | refine (moverWrite_keeps ..).trans ?_ | refine (rimaluWrite_keeps ..).trans ?_ | refine (cacheWrite_keeps ..).trans ?_ | refine (linkWrite_keeps ..).trans ?_ | refine (windowWrite_keeps ..).trans ?_ | refine (integWrite_keeps ..).trans ?_ | refine (powerWrite_keeps ..).trans ?_ | refine (recorderWrite_keeps ..).trans ?_ | refine (mailboxWrite_keeps ..).trans ?_ | refine (mboxWrite_keeps ..).trans ?_ | refine (headerWrite_keeps ..).trans ?_ | split | dsimp only
theorem execRegisterWrite_keeps (m : Master) (off : Nat) (w : Word32) (s : State) : (execRegisterWrite m off w s).From s := by
  unfold execRegisterWrite
  repeat' with_reducible first | exact State.From.refl _ | assumption | refine next_keeps ?_ | refine ite_keeps_res ?_ ?_ | refine ite_keeps ?_ ?_ | refine (writeReg_keeps ..).trans ?_
theorem State.fabGrant_keeps (s : State) (g : Nat) (cands : List FabPiece) (c : FabPiece) : (State.fabGrant s g cands c).From s := by
  unfold State.fabGrant
  repeat' with_reducible first | exact State.From.refl _ | assumption | refine ite_keeps ?_ ?_ | refine foldl_keeps _ _ _ (fun s x => ?_) ?_ | refine foldl_keeps2 _ _ _ (fun s x => ?_) ?_ | refine foldl_keeps3 _ _ _ (fun s x => ?_) ?_ | split | refine (State.upd_fab_keeps ..).trans ?_ | dsimp only
theorem readBeat_keeps (f : FabPiece) (off : Nat) (s : State) : (readBeat f off s).2.From s := by
  unfold readBeat
  repeat' with_reducible first | exact State.From.refl _ | assumption | refine ite_keeps ?_ ?_ | refine ite_keeps_pair ?_ ?_ | refine (State.fabStat_keeps ..).trans ?_ | refine (State.readDone_keeps ..).trans ?_ | split | dsimp only
theorem writeBeat_keeps (f : FabPiece) (off : Nat) (w : Nat) (s : State) : (writeBeat f off w s).2.From s := by
  unfold writeBeat
  repeat' with_reducible first | exact State.From.refl _ | assumption | refine ite_keeps ?_ ?_ | refine ite_keeps_pair ?_ ?_ | refine (writeReg_keeps ..).trans ?_ | split | dsimp only
theorem State.fabAnswer_keeps (s : State) (f : FabPiece) (resp : Nat) (l : List (Nat × Nat)) : (State.fabAnswer s f resp l).From s := by
  unfold State.fabAnswer
  repeat' with_reducible first | exact State.From.refl _ | assumption | refine ite_keeps ?_ ?_ | refine (State.wr_keeps ..).trans ?_ | refine (State.answerMaster_keeps ..).trans ?_ | refine (State.upd_fab_keeps ..).trans ?_ | (unfold State.From; exact ⟨rfl, rfl, id⟩) | split | dsimp only
theorem State.fabPerform_keeps (s : State) (f : FabPiece) : (State.fabPerform s f).From s := by
  unfold State.fabPerform
  repeat' with_reducible first | exact State.From.refl _ | assumption | refine (pair_keeps (writeBeat_keeps ..) (by assumption)).trans ?_ | refine (pair_keeps (readBeat_keeps ..) (by assumption)).trans ?_ | refine ite_keeps ?_ ?_ | refine foldl_keeps _ _ _ (fun s x => ?_) ?_ | refine foldl_keeps2 _ _ _ (fun s x => ?_) ?_ | refine foldl_keeps3 _ _ _ (fun s x => ?_) ?_ | refine getD_keeps (fun t h => ?_) ?_ | refine (State.wr_keeps ..).trans ?_ | refine (readBeat_keeps ..).trans ?_ | refine (writeBeat_keeps ..).trans ?_ | refine (State.fabAnswer_keeps ..).trans ?_ | refine (State.upd_fab_keeps ..).trans ?_ | (unfold State.From; exact ⟨rfl, rfl, id⟩) | split | dsimp only
theorem execFabricPiece_keeps (cands : List FabPiece) (s : State) : (execFabricPiece cands s).From s := by
  unfold execFabricPiece
  repeat' with_reducible first | exact State.From.refl _ | assumption | refine next_keeps ?_ | refine ite_keeps_res ?_ ?_ | refine ite_keeps ?_ ?_ | refine foldl_keeps _ _ _ (fun s x => ?_) ?_ | refine foldl_keeps2 _ _ _ (fun s x => ?_) ?_ | refine foldl_keeps3 _ _ _ (fun s x => ?_) ?_ | refine (State.fabGrant_keeps ..).trans ?_ | refine (State.fabPerform_keeps ..).trans ?_ | split | dsimp only

end Sys2Proof.Machine
end

