-- ==== Sys2Proof/Laws/KeepTick.lean ====
section
/-! SUPPORT. What no operation of Machine/Tick.lean changes: the configuration, the queue of waiting commands, the canonical form of memory. -/
namespace Sys2Proof.Machine

theorem State.countPace_keeps (s : State) : (State.countPace s).From s := by
  exact ⟨rfl, rfl, id⟩
theorem State.coreTick_keeps (s : State) (n : Nat) : (State.coreTick s n).From s := by
  unfold State.coreTick
  repeat' with_reducible first | exact State.From.refl _ | assumption | refine ite_keeps ?_ ?_ | refine cond_keeps _ _ _ (fun s => ?_) ?_ | refine (State.put_keeps ..).trans ?_
theorem State.brakeTick_keeps (s : State) : (State.brakeTick s).From s := by
  unfold State.brakeTick
  repeat' with_reducible first | exact State.From.refl _ | assumption | refine ite_keeps ?_ ?_ | refine cond_keeps _ _ _ (fun s => ?_) ?_ | refine each_keeps _ _ _ (fun s x => ?_) ?_ | refine (State.tidCnt_keeps ..).trans ?_ | split | dsimp only
theorem State.tick_keeps (s : State) : (State.tick s).From s := by
  unfold State.tick
  repeat' with_reducible first | exact State.From.refl _ | assumption | refine ite_keeps ?_ ?_ | refine cond_keeps _ _ _ (fun s => ?_) ?_ | refine each_keeps _ _ _ (fun s x => ?_) ?_ | refine (State.linkTick_keeps ..).trans ?_ | refine (State.winRun_keeps ..).trans ?_ | refine (State.scrubPost_keeps ..).trans ?_ | refine (State.mboxAuto_keeps ..).trans ?_ | refine (State.loadRun_keeps ..).trans ?_ | refine (State.patRun_keeps ..).trans ?_ | refine (State.recordStep_keeps ..).trans ?_ | refine (State.countPace_keeps ..).trans ?_ | refine (State.coreTick_keeps ..).trans ?_ | refine (State.brakeTick_keeps ..).trans ?_ | refine (State.upd_now_keeps ..).trans ?_ | (unfold State.From; exact ⟨rfl, rfl, id⟩) | split | dsimp only

end Sys2Proof.Machine
end

