-- ==== Sys2Proof/Laws/Exec.lean ====
section
/-! SUPPORT. What every command and every step keeps: the configuration, the queue of waiting commands, the canonical form of
memory; and that every command answers a next state. -/
namespace Sys2Proof.Machine

set_option maxRecDepth 1024 in
/-- Every command answers a next state of the same configuration and queue, and keeps the canonical form of memory. -/
theorem exec_keeps (i : Instr) (s : State) : Res.From (exec i s) s :=
  match i with
  | .readRequest .. => execReadRequest_keeps ..
  | .writeRequest .. => execWriteRequest_keeps ..
  | .fillRequest .. => execFillRequest_keeps ..
  | .accRequest .. => execAccRequest_keeps ..
  | .saccRequest .. => execSaccRequest_keeps ..
  | .atomicAdd .. => execAtomicAdd_keeps ..
  | .atomicSmin .. => execAtomicSmin_keeps ..
  | .atomicSmax .. => execAtomicSmax_keeps ..
  | .atomicUmin .. => execAtomicUmin_keeps ..
  | .atomicUmax .. => execAtomicUmax_keeps ..
  | .atomicSwap .. => execAtomicSwap_keeps ..
  | .atomicCas .. => execAtomicCas_keeps ..
  | .atomicAnd .. => execAtomicAnd_keeps ..
  | .atomicOr .. => execAtomicOr_keeps ..
  | .atomicXor .. => execAtomicXor_keeps ..
  | .requestReachesHub .. => execRequestReachesHub_keeps ..
  | .splitRelease .. => execSplitRelease_keeps ..
  | .upwardArbitration .. => execUpwardArbitration_keeps ..
  | .rimArbitration .. => execRimArbitration_keeps ..
  | .downwardArbitration .. => execDownwardArbitration_keeps ..
  | .planeMerge .. => execPlaneMerge_keeps ..
  | .response .. => execResponse_keeps ..
  | .mcHoldExpiry .. => execMcHoldExpiry_keeps ..
  | .lensConvert .. => execLensConvert_keeps ..
  | .sflush .. => execSflush_keeps ..
  | .engineSflush .. => execEngineSflush_keeps ..
  | .urgChange .. => execUrgChange_keeps ..
  | .urgCapWrite .. => execUrgCapWrite_keeps ..
  | .portEnable .. => execPortEnable_keeps ..
  | .portDisable .. => execPortDisable_keeps ..
  | .portDrainDone .. => execPortDrainDone_keeps ..
  | .loopWrite .. => execLoopWrite_keeps ..
  | .planeFault .. => execPlaneFault_keeps ..
  | .failoverResume => execFailoverResume_keeps ..
  | .planeTakeOut .. => execPlaneTakeOut_keeps ..
  | .planeReturn .. => execPlaneReturn_keeps ..
  | .planeChangeDone => execPlaneChangeDone_keeps ..
  | .regulationWindowBoundary .. => execRegulationWindowBoundary_keeps ..
  | .brakeStateArrival .. => execBrakeStateArrival_keeps ..
  | .tidConfigWrite .. => execTidConfigWrite_keeps ..
  | .tableSigUpdate => execTableSigUpdate_keeps ..
  | .stepWrite .. => execStepWrite_keeps ..
  | .preemptWrite .. => execPreemptWrite_keeps ..
  | .snapshotGo .. => execSnapshotGo_keeps ..
  | .snapshotDone => execSnapshotDone_keeps ..
  | .happly .. => execHapply_keeps ..
  | .lock .. => execLock_keeps ..
  | .handleInstall .. => execHandleInstall_keeps ..
  | .installClassMapDone => execInstallClassMapDone_keeps ..
  | .installDone => execInstallDone_keeps ..
  | .handleModify .. => execHandleModify_keeps ..
  | .modifyDone => execModifyDone_keeps ..
  | .handleRetire .. => execHandleRetire_keeps ..
  | .handleFreed => execHandleFreed_keeps ..
  | .handleClear .. => execHandleClear_keeps ..
  | .clearDone => execClearDone_keeps ..
  | .handleRead .. => execHandleRead_keeps ..
  | .raPush .. => execRaPush_keeps ..
  | .oprecNop .. => execOprecNop_keeps ..
  | .oprecZero .. => execOprecZero_keeps ..
  | .oprecFill .. => execOprecFill_keeps ..
  | .oprecCopy .. => execOprecCopy_keeps ..
  | .oprecKernel .. => execOprecKernel_keeps ..
  | .recordChunkAdmission .. => execRecordChunkAdmission_keeps ..
  | .reduceSegmentWrite .. => execReduceSegmentWrite_keeps ..
  | .recordComplete .. => execRecordComplete_keeps ..
  | .queueEnable .. => execQueueEnable_keeps ..
  | .queueDisable .. => execQueueDisable_keeps ..
  | .queueDrainDone .. => execQueueDrainDone_keeps ..
  | .qcplRead .. => execQcplRead_keeps ..
  | .kernelLoad .. => execKernelLoad_keeps ..
  | .kiNop .. => execKiNop_keeps ..
  | .kiLda .. => execKiLda_keeps ..
  | .kiLdb .. => execKiLdb_keeps ..
  | .kiSt .. => execKiSt_keeps ..
  | .kiAdd .. => execKiAdd_keeps ..
  | .kiMul .. => execKiMul_keeps ..
  | .kiFma .. => execKiFma_keeps ..
  | .kiMin .. => execKiMin_keeps ..
  | .kiMax .. => execKiMax_keeps ..
  | .kiClip .. => execKiClip_keeps ..
  | .kiCvt .. => execKiCvt_keeps ..
  | .kiRsum .. => execKiRsum_keeps ..
  | .kiRmax .. => execKiRmax_keeps ..
  | .subNop .. => execSubNop_keeps ..
  | .subPost .. => execSubPost_keeps ..
  | .subCplack .. => execSubCplack_keeps ..
  | .subScrub .. => execSubScrub_keeps ..
  | .channelPostWrite .. => execChannelPostWrite_keeps ..
  | .cridxConsWrite .. => execCridxConsWrite_keeps ..
  | .descriptorFetch .. => execDescriptorFetch_keeps ..
  | .descNop .. => execDescNop_keeps ..
  | .descCopy .. => execDescCopy_keeps ..
  | .descFill .. => execDescFill_keeps ..
  | .descReduce .. => execDescReduce_keeps ..
  | .descGather .. => execDescGather_keeps ..
  | .descScatter .. => execDescScatter_keeps ..
  | .descScrub .. => execDescScrub_keeps ..
  | .descPostrec .. => execDescPostrec_keeps ..
  | .descDispatch .. => execDescDispatch_keeps ..
  | .descReturn .. => execDescReturn_keeps ..
  | .descCombine .. => execDescCombine_keeps ..
  | .moverIssue .. => execMoverIssue_keeps ..
  | .moverChunkAdmission .. => execMoverChunkAdmission_keeps ..
  | .routerAppend .. => execRouterAppend_keeps ..
  | .creditWaitTimeout .. => execCreditWaitTimeout_keeps ..
  | .masterPortResponse .. => execMasterPortResponse_keeps ..
  | .descriptorComplete .. => execDescriptorComplete_keeps ..
  | .creditClear .. => execCreditClear_keeps ..
  | .sqNop .. => execSqNop_keeps ..
  | .sqAdd .. => execSqAdd_keeps ..
  | .sqSub .. => execSqSub_keeps ..
  | .sqSet .. => execSqSet_keeps ..
  | .sqWatch .. => execSqWatch_keeps ..
  | .sqUnwatch .. => execSqUnwatch_keeps ..
  | .sqRead .. => execSqRead_keeps ..
  | .sqArrive .. => execSqArrive_keeps ..
  | .sqReleaseEffect .. => execSqReleaseEffect_keeps ..
  | .swTransfer .. => execSwTransfer_keeps ..
  | .ctrCmdAdd .. => execCtrCmdAdd_keeps ..
  | .ctrCmdSub .. => execCtrCmdSub_keeps ..
  | .ctrCmdSet .. => execCtrCmdSet_keeps ..
  | .tagCmdSetFull .. => execTagCmdSetFull_keeps ..
  | .tagCmdSetEmpty .. => execTagCmdSetEmpty_keeps ..
  | .barrive .. => execBarrive_keeps ..
  | .barrierEnable .. => execBarrierEnable_keeps ..
  | .barrierDisable .. => execBarrierDisable_keeps ..
  | .barrierReset .. => execBarrierReset_keeps ..
  | .ringEnable .. => execRingEnable_keeps ..
  | .ringDisable .. => execRingDisable_keeps ..
  | .slotFill .. => execSlotFill_keeps ..
  | .slotEmpty .. => execSlotEmpty_keeps ..
  | .slotTimeout .. => execSlotTimeout_keeps ..
  | .parkRetryProbe .. => execParkRetryProbe_keeps ..
  | .cacheFillComplete .. => execCacheFillComplete_keeps ..
  | .copInv .. => execCopInv_keeps ..
  | .copClean .. => execCopClean_keeps ..
  | .copCleanInv .. => execCopCleanInv_keeps ..
  | .copDone => execCopDone_keeps ..
  | .sectionSwitch .. => execSectionSwitch_keeps ..
  | .sectionSwitchDone => execSectionSwitchDone_keeps ..
  | .xbaseWrite .. => execXbaseWrite_keeps ..
  | .cbIdle .. => execCbIdle_keeps ..
  | .cbLink .. => execCbLink_keeps ..
  | .cbRetry .. => execCbRetry_keeps ..
  | .cbLaneDrop .. => execCbLaneDrop_keeps ..
  | .cbLaneSwitch .. => execCbLaneSwitch_keeps ..
  | .cbInit .. => execCbInit_keeps ..
  | .codewordReceived .. => execCodewordReceived_keeps ..
  | .pktBwr .. => execPktBwr_keeps ..
  | .pktTwr .. => execPktTwr_keeps ..
  | .pktNtfy .. => execPktNtfy_keeps ..
  | .pktBarr .. => execPktBarr_keeps ..
  | .pktBrel .. => execPktBrel_keeps ..
  | .pktBabt .. => execPktBabt_keeps ..
  | .pktLack .. => execPktLack_keeps ..
  | .pktNak .. => execPktNak_keeps ..
  | .pktCgrant .. => execPktCgrant_keeps ..
  | .pktTsreq .. => execPktTsreq_keeps ..
  | .pktTsrsp .. => execPktTsrsp_keeps ..
  | .retryRepeat .. => execRetryRepeat_keeps ..
  | .linkSilenceTimeout .. => execLinkSilenceTimeout_keeps ..
  | .laneLoss .. => execLaneLoss_keeps ..
  | .serInterval .. => execSerInterval_keeps ..
  | .laneRelock .. => execLaneRelock_keeps ..
  | .linkPortEnable .. => execLinkPortEnable_keeps ..
  | .linkPortDisable .. => execLinkPortDisable_keeps ..
  | .linkDrainDone .. => execLinkDrainDone_keeps ..
  | .linkTrainDone .. => execLinkTrainDone_keeps ..
  | .linkAlignDone .. => execLinkAlignDone_keeps ..
  | .retrain .. => execRetrain_keeps ..
  | .fwdWrite .. => execFwdWrite_keeps ..
  | .enumGo .. => execEnumGo_keeps ..
  | .chainClear .. => execChainClear_keeps ..
  | .chainEnum .. => execChainEnum_keeps ..
  | .chainDone .. => execChainDone_keeps ..
  | .enumTimeout => execEnumTimeout_keeps ..
  | .tsGo .. => execTsGo_keeps ..
  | .tsPeriod => execTsPeriod_keeps ..
  | .e2eTimeout .. => execE2eTimeout_keeps ..
  | .lackSend .. => execLackSend_keeps ..
  | .windowUnitEnable .. => execWindowUnitEnable_keeps ..
  | .windowOpen .. => execWindowOpen_keeps ..
  | .windowClose .. => execWindowClose_keeps ..
  | .windowCloseDone .. => execWindowCloseDone_keeps ..
  | .cchEnable .. => execCchEnable_keeps ..
  | .cchDisable .. => execCchDisable_keeps ..
  | .cchDrainDone .. => execCchDrainDone_keeps ..
  | .creditReturn .. => execCreditReturn_keeps ..
  | .tokenLanded .. => execTokenLanded_keeps ..
  | .notifyEffect .. => execNotifyEffect_keeps ..
  | .fenceTimeout .. => execFenceTimeout_keeps ..
  | .sentClr .. => execSentClr_keeps ..
  | .sentClrall .. => execSentClrall_keeps ..
  | .correctionWriteback .. => execCorrectionWriteback_keeps ..
  | .rimHardFault .. => execRimHardFault_keeps ..
  | .rimCmdRetire .. => execRimCmdRetire_keeps ..
  | .spareTakeoverDone => execSpareTakeoverDone_keeps ..
  | .rimCmdEvacuate .. => execRimCmdEvacuate_keeps ..
  | .evacuationDone => execEvacuationDone_keeps ..
  | .rimCmdAbort .. => execRimCmdAbort_keeps ..
  | .scrubGo .. => execScrubGo_keeps ..
  | .scrubAbort .. => execScrubAbort_keeps ..
  | .scrubPassDone => execScrubPassDone_keeps ..
  | .flipArm .. => execFlipArm_keeps ..
  | .psnLogRead .. => execPsnLogRead_keeps ..
  | .drigarParityError .. => execDrigarParityError_keeps ..
  | .spokeResume .. => execSpokeResume_keeps ..
  | .domCmdOn .. => execDomCmdOn_keeps ..
  | .domCmdOff .. => execDomCmdOff_keeps ..
  | .domainOnDone .. => execDomainOnDone_keeps ..
  | .targetOn .. => execTargetOn_keeps ..
  | .targetFreewheel .. => execTargetFreewheel_keeps ..
  | .targetOff .. => execTargetOff_keeps ..
  | .rimDrainEnd .. => execRimDrainEnd_keeps ..
  | .drainLimitExpiry .. => execDrainLimitExpiry_keeps ..
  | .rimStateReached .. => execRimStateReached_keeps ..
  | .rimWakeStart => execRimWakeStart_keeps ..
  | .rimIdleExpiry .. => execRimIdleExpiry_keeps ..
  | .cadenceBoundary .. => execCadenceBoundary_keeps ..
  | .emAliveExpiry => execEmAliveExpiry_keeps ..
  | .ringMonitorReport .. => execRingMonitorReport_keeps ..
  | .thermalReport .. => execThermalReport_keeps ..
  | .powerAlertChange .. => execPowerAlertChange_keeps ..
  | .emgForceWrite .. => execEmgForceWrite_keeps ..
  | .emergencyExit => execEmergencyExit_keeps ..
  | .governorWindow => execGovernorWindow_keeps ..
  | .fabricPiece .. => execFabricPiece_keeps ..
  | .registerWrite .. => execRegisterWrite_keeps ..
  | .irqForce .. => execIrqForce_keeps ..
  | .semaClaim .. => execSemaClaim_keeps ..
  | .semaRelease .. => execSemaRelease_keeps ..
  | .semaForce .. => execSemaForce_keeps ..
  | .fwStage .. => execFwStage_keeps ..
  | .fwStageDone => execFwStageDone_keeps ..
  | .fwActivate .. => execFwActivate_keeps ..
  | .fwCancel .. => execFwCancel_keeps ..
  | .pendingActivationStart => execPendingActivationStart_keeps ..
  | .activationCommit => execActivationCommit_keeps ..
  | .emLoadDone .. => execEmLoadDone_keeps ..
  | .wdtKick .. => execWdtKick_keeps ..
  | .watchdogExpiry .. => execWatchdogExpiry_keeps ..
  | .emRestart .. => execEmRestart_keeps ..
  | .reqProdWrite .. => execReqProdWrite_keeps ..
  | .rspConsWrite .. => execRspConsWrite_keeps ..
  | .echo .. => execEcho_keeps ..
  | .info .. => execInfo_keeps ..
  | .em1Echo .. => execEm1Echo_keeps ..
  | .em1Info .. => execEm1Info_keeps ..
  | .lifeInfo .. => execLifeInfo_keeps ..
  | .lifeFlush .. => execLifeFlush_keeps ..
  | .lifeRead .. => execLifeRead_keeps ..
  | .lifeLoad .. => execLifeLoad_keeps ..
  | .lifeCommit .. => execLifeCommit_keeps ..
  | .ftRim .. => execFtRim_keeps ..
  | .ftPlane .. => execFtPlane_keeps ..
  | .ftLink .. => execFtLink_keeps ..
  | .ftSync .. => execFtSync_keeps ..
  | .ftAbort .. => execFtAbort_keeps ..
  | .ftResult .. => execFtResult_keeps ..
  | .ftCmdRim .. => execFtCmdRim_keeps ..
  | .ftCmdPlane .. => execFtCmdPlane_keeps ..
  | .ftCmdLink .. => execFtCmdLink_keeps ..
  | .ftCmdSync .. => execFtCmdSync_keeps ..
  | .ftCmdAbort .. => execFtCmdAbort_keeps ..
  | .ftCopyDone => execFtCopyDone_keeps ..
  | .ftPatternsDone .. => execFtPatternsDone_keeps ..
  | .ftBackDone => execFtBackDone_keeps ..
  | .fieldTestDone .. => execFieldTestDone_keeps ..
  | .rcEnable .. => execRcEnable_keeps ..
  | .rcDisable .. => execRcDisable_keeps ..
  | .rcDrainDone => execRcDrainDone_keeps ..
  | .rcArm .. => execRcArm_keeps ..
  | .rcClearingDone => execRcClearingDone_keeps ..
  | .triggerSample => execTriggerSample_keeps ..
  | .rcSwtrig .. => execRcSwtrig_keeps ..
  | .recordWrite => execRecordWrite_keeps ..
  | .lifeSample => execLifeSample_keeps ..
  | .lifePeriodicFlush => execLifePeriodicFlush_keeps ..
  | .lifeBaseLoad => execLifeBaseLoad_keeps ..
  | .lcAdvance .. => execLcAdvance_keeps ..
  | .lcRetireDevice .. => execLcRetireDevice_keeps ..
  | .svcEnter .. => execSvcEnter_keeps ..
  | .porstRelease .. => execPorstRelease_keeps ..
  | .porstAssert => execPorstAssert_keeps ..
  | .srstAssert => execSrstAssert_keeps ..
  | .railOutOfRange => execRailOutOfRange_keeps ..
  | .timerefStop => execTimerefStop_keeps ..
  | .fuseShadowLoaded => execFuseShadowLoaded_keeps ..
  | .crossingBringup .. => execCrossingBringup_keeps ..
  | .bootSelfTest .. => execBootSelfTest_keeps ..
  | .bootSelfTestDone => execBootSelfTestDone_keeps ..
  | .retirementsReapplied => execRetirementsReapplied_keeps ..
  | .srstRelease => execSrstRelease_keeps ..
  | .sectorPeripheryFault .. => execSectorPeripheryFault_keeps ..
  | .syncPlaneFault .. => execSyncPlaneFault_keeps ..
  | .portAdapterFault .. => execPortAdapterFault_keeps ..
  | .moverEngineFault .. => execMoverEngineFault_keeps ..
  | .ceThresholdCrossed .. => execCeThresholdCrossed_keeps ..
  | .activationKickTimeout => execActivationKickTimeout_keeps ..
  | .lifeFlushWritten .. => execLifeFlushWritten_keeps ..
/-- A step with a command at the front of the queue is that command with the queue's rest. -/
theorem step_cons (s : State) (c : Instr) (rest : List Instr) (h : s.pending = c :: rest) :
    step s = exec c { s with pending := rest } := by
  unfold step; rw [h]
/-- A step on an empty queue lets a period of TIMEREF pass. -/
theorem step_nil (s : State) (h : s.pending = []) : step s = .next s.tick := by
  unfold step; rw [h]
end Sys2Proof.Machine
end

