-- ==== Sys2Proof/Laws/Gate.lean ====
section
/-! SUPPORT. The gate of a register write: a write that the fabric lets through has its effect. -/
namespace Sys2Proof.Machine

/-- A write that may take its effect does. -/
theorem State.gate_open (s : State) (m : Master) (base reg : Nat) (owned : Bool) (act : State → State)
    (h : mayWrite s m base reg owned = true) : s.gate m base reg owned act = act s := by
  unfold mayWrite at h
  unfold State.gate
  split at h
  · cases h
  · rename_i p hp
    simp only [Bool.and_eq_true] at h
    obtain ⟨⟨⟨h1, h2⟩, h3⟩, h4⟩ := h
    simp only [hp, h1, h2, h3, Bool.not_true, Bool.false_eq_true, if_false]
    split
    · rename_i g hg
      rw [hg] at h4
      simp only [Bool.or_eq_true, Bool.not_eq_true', beq_iff_eq] at h4
      split
      · rename_i c
        simp only [Bool.and_eq_true, Bool.not_eq_true', bne_iff_ne] at c
        rcases h4 with (h4 | h4) | h4 <;> simp_all
      · rfl
    · rfl
end Sys2Proof.Machine
end

