-- ==== Sys2Proof/Laws/Regs.lean ====
section
/-! SUPPORT. Register fields: what a field reads after a field has been written. -/
namespace Sys2Proof.Machine

/-- The bits of a field lie within a word. -/
abbrev Fld.fits (f : Fld) : Prop := f.lo ≤ f.hi ∧ f.hi < 32
/-- Two fields lie in different registers, or on different bits. -/
abbrev Fld.apart (a : Nat) (f : Fld) (b : Nat) (g : Fld) : Prop := a + f.off ≠ b + g.off ∨ g.hi < f.lo ∨ f.hi < g.lo

theorem bits_testBit (x hi lo i : Nat) : (bits x hi lo).testBit i = (decide (i < hi + 1 - lo) && x.testBit (lo + i)) := by
  unfold bits; rw [Nat.testBit_mod_two_pow, Nat.testBit_shiftRight]
theorem Fld.into_testBit (f : Fld) (h : f.fits) (w : Word32) (v i : Nat) :
    (f.into w v).toNat.testBit i = if f.lo ≤ i ∧ i ≤ f.hi then v.testBit (i - f.lo) else w.toNat.testBit i := by
  obtain ⟨h1, h2⟩ := h
  have hw : w.toNat < 2 ^ 32 := w.isLt
  have e : f.hi + 1 = f.lo + (f.hi + 1 - f.lo) := by omega
  generalize hn : f.hi + 1 - f.lo = n at e
  have d1 : w.toNat = 2 ^ f.lo * (2 ^ n * (w.toNat / 2 ^ f.lo / 2 ^ n) + w.toNat / 2 ^ f.lo % 2 ^ n) + w.toNat % 2 ^ f.lo := by
    rw [Nat.div_add_mod, Nat.div_add_mod]
  have hb : bits w.toNat f.hi f.lo = w.toNat / 2 ^ f.lo % 2 ^ n := by
    unfold bits; rw [Nat.shiftRight_eq_div_pow, hn]
  have hr : w.toNat % 2 ^ f.lo < 2 ^ f.lo := Nat.mod_lt _ (Nat.two_pow_pos _)
  have hv : v % 2 ^ n < 2 ^ n := Nat.mod_lt _ (Nat.two_pow_pos _)
  have hc : w.toNat / 2 ^ f.lo % 2 ^ n < 2 ^ n := Nat.mod_lt _ (Nat.two_pow_pos _)
  generalize hq : w.toNat / 2 ^ f.lo / 2 ^ n = q at d1
  generalize hp : w.toNat / 2 ^ f.lo % 2 ^ n = b at d1 hb hc
  generalize hs : w.toNat % 2 ^ f.lo = r at d1 hr
  have hx : w.toNat - b * 2 ^ f.lo + v % 2 ^ n * 2 ^ f.lo = 2 ^ f.lo * (2 ^ n * q + v % 2 ^ n) + r := by
    rw [d1]
    have : b * 2 ^ f.lo = 2 ^ f.lo * b := Nat.mul_comm _ _
    rw [this, Nat.mul_comm (v % 2 ^ n), Nat.mul_add, Nat.mul_add]; omega
  have hl : 2 ^ f.lo * (2 ^ n * q + v % 2 ^ n) + r < 2 ^ 32 := by
    have k : 2 ^ (f.lo + n) * (q + 1) ≤ 2 ^ 32 := by
      have : 2 ^ f.lo * (2 ^ n * q) ≤ w.toNat := by rw [d1, Nat.mul_add]; omega
      have hq2 : q < 2 ^ (32 - (f.lo + n)) := by
        rw [← hq, Nat.div_div_eq_div_mul, ← Nat.pow_add, Nat.div_lt_iff_lt_mul (Nat.two_pow_pos _), ← Nat.pow_add]
        have : 32 - (f.lo + n) + (f.lo + n) = 32 := by omega
        rw [this]; exact hw
      calc 2 ^ (f.lo + n) * (q + 1) ≤ 2 ^ (f.lo + n) * 2 ^ (32 - (f.lo + n)) := Nat.mul_le_mul_left _ hq2
        _ = 2 ^ 32 := by rw [← Nat.pow_add]; congr 1; omega
    have k2 : 2 ^ n * q + v % 2 ^ n + 1 ≤ 2 ^ n * (q + 1) := by rw [Nat.mul_add]; omega
    have k3 := Nat.mul_le_mul_left (2 ^ f.lo) k2
    rw [Nat.mul_add] at k3
    have k4 : 2 ^ f.lo * (2 ^ n * (q + 1)) = 2 ^ (f.lo + n) * (q + 1) := by rw [Nat.pow_add, Nat.mul_assoc]
    omega
  unfold Fld.into
  simp only [hn, hb, BitVec.toNat_ofNat]
  rw [hx, Nat.mod_eq_of_lt hl, d1, Nat.testBit_two_pow_mul_add _ hr, Nat.testBit_two_pow_mul_add _ hr,
    Nat.testBit_two_pow_mul_add _ hv, Nat.testBit_two_pow_mul_add _ hc, Nat.testBit_mod_two_pow]
  by_cases c1 : i < f.lo
  · have : ¬ (f.lo ≤ i ∧ i ≤ f.hi) := by omega
    simp [c1, this]
  · by_cases c2 : i ≤ f.hi
    · have c3 : i - f.lo < n := by omega
      have : f.lo ≤ i ∧ i ≤ f.hi := by omega
      simp [c1, c3, this]
    · have c3 : ¬ i - f.lo < n := by omega
      have : ¬ (f.lo ≤ i ∧ i ≤ f.hi) := by omega
      simp [c1, c3, this]
/-- A field reads back the value written to it, cut to its width. -/
theorem Fld.of_into_self (f : Fld) (h : f.fits) (w : Word32) (v : Nat) : f.of (f.into w v) = v % 2 ^ (f.hi + 1 - f.lo) := by
  apply Nat.eq_of_testBit_eq
  intro i
  unfold Fld.of
  rw [bits_testBit, Fld.into_testBit f h, Nat.testBit_mod_two_pow]
  by_cases c : i < f.hi + 1 - f.lo
  · have : f.lo ≤ f.lo + i ∧ f.lo + i ≤ f.hi := by omega
    simp [c, this]
  · simp [c]
/-- A field of other bits keeps its value. -/
theorem Fld.of_into_apart (f g : Fld) (h : f.fits) (d : g.hi < f.lo ∨ f.hi < g.lo) (w : Word32) (v : Nat) :
    g.of (f.into w v) = g.of w := by
  apply Nat.eq_of_testBit_eq
  intro i
  unfold Fld.of
  rw [bits_testBit, bits_testBit, Fld.into_testBit f h]
  by_cases c : i < g.hi + 1 - g.lo
  · have : ¬ (f.lo ≤ g.lo + i ∧ g.lo + i ≤ f.hi) := by omega
    simp [this]
  · simp [c]

@[simp] theorem State.rd_wr_self (s : State) (a : Nat) (w : Word32) : (s.wr a w).rd a = w := by
  unfold State.rd State.wr; exact Sp.get_set_self ..
theorem State.rd_wr_of_ne (s : State) {a b : Nat} (w : Word32) (h : b ≠ a) : (s.wr a w).rd b = s.rd b := by
  unfold State.rd State.wr; exact Sp.get_set_of_ne _ _ _ h
theorem State.get_put_self (s : State) (a : Nat) (f : Fld) (v : Nat) (h : f.fits) :
    (s.put a f v).get a f = v % 2 ^ (f.hi + 1 - f.lo) := by
  unfold State.get State.put; rw [State.rd_wr_self, Fld.of_into_self f h]
theorem State.get_put_apart (s : State) {a b : Nat} {f g : Fld} (v : Nat) (h : f.fits) (d : Fld.apart a f b g) :
    (s.put a f v).get b g = s.get b g := by
  unfold State.get State.put
  by_cases e : b + g.off = a + f.off
  · rw [e, State.rd_wr_self, Fld.of_into_apart f g h (by rcases d with d | d | d <;> omega)]
  · rw [State.rd_wr_of_ne _ _ e]
/-- Another field of the same page keeps its value. -/
theorem State.get_put_page (s : State) (a : Nat) (f g : Fld) (v : Nat) (h : f.fits)
    (d : f.off ≠ g.off ∨ g.hi < f.lo ∨ f.hi < g.lo) : (s.put a f v).get a g = s.get a g :=
  State.get_put_apart s v h (d.imp (by omega) id)
theorem State.rd_put_of_ne (s : State) {a b : Nat} {f : Fld} (v : Nat) (h : b ≠ a + f.off) : (s.put a f v).rd b = s.rd b := by
  unfold State.put; exact State.rd_wr_of_ne _ _ h
end Sys2Proof.Machine
end

