-- ==== Sys2Proof/Laws/State.lean ====
section
/-! SUPPORT. The fields of State under each update: one lemma per field and update, each true by rfl. -/
namespace Sys2Proof.Machine

@[simp] theorem State.wr_cfg (s : State) (a : Nat) (w : Word32) : (s.wr a w).cfg = s.cfg := rfl
@[simp] theorem State.wr_now (s : State) (a : Nat) (w : Word32) : (s.wr a w).now = s.now := rfl
@[simp] theorem State.wr_pcNow (s : State) (a : Nat) (w : Word32) : (s.wr a w).pcNow = s.pcNow := rfl
@[simp] theorem State.wr_pcRem (s : State) (a : Nat) (w : Word32) : (s.wr a w).pcRem = s.pcRem := rfl
@[simp] theorem State.wr_pcDev (s : State) (a : Nat) (w : Word32) : (s.wr a w).pcDev = s.pcDev := rfl
@[simp] theorem State.wr_pcDevRem (s : State) (a : Nat) (w : Word32) : (s.wr a w).pcDevRem = s.pcDevRem := rfl
@[simp] theorem State.wr_clockOn (s : State) (a : Nat) (w : Word32) : (s.wr a w).clockOn = s.clockOn := rfl
@[simp] theorem State.wr_fuseLoaded (s : State) (a : Nat) (w : Word32) : (s.wr a w).fuseLoaded = s.fuseLoaded := rfl
@[simp] theorem State.wr_porstLow (s : State) (a : Nat) (w : Word32) : (s.wr a w).porstLow = s.porstLow := rfl
@[simp] theorem State.wr_srstLow (s : State) (a : Nat) (w : Word32) : (s.wr a w).srstLow = s.srstLow := rfl
@[simp] theorem State.wr_railLost (s : State) (a : Nat) (w : Word32) : (s.wr a w).railLost = s.railLost := rfl
@[simp] theorem State.wr_fused (s : State) (a : Nat) (w : Word32) : (s.wr a w).fused = s.fused := rfl
@[simp] theorem State.wr_freeCtr (s : State) (a : Nat) (w : Word32) : (s.wr a w).freeCtr = s.freeCtr := rfl
@[simp] theorem State.wr_array (s : State) (a : Nat) (w : Word32) : (s.wr a w).array = s.array := rfl
@[simp] theorem State.wr_rims (s : State) (a : Nat) (w : Word32) : (s.wr a w).rims = s.rims := rfl
@[simp] theorem State.wr_hub (s : State) (a : Nat) (w : Word32) : (s.wr a w).hub = s.hub := rfl
@[simp] theorem State.wr_ports (s : State) (a : Nat) (w : Word32) : (s.wr a w).ports = s.ports := rfl
@[simp] theorem State.wr_handles (s : State) (a : Nat) (w : Word32) : (s.wr a w).handles = s.handles := rfl
@[simp] theorem State.wr_hcmd (s : State) (a : Nat) (w : Word32) : (s.wr a w).hcmd = s.hcmd := rfl
@[simp] theorem State.wr_regul (s : State) (a : Nat) (w : Word32) : (s.wr a w).regul = s.regul := rfl
@[simp] theorem State.wr_psnLog (s : State) (a : Nat) (w : Word32) : (s.wr a w).psnLog = s.psnLog := rfl
@[simp] theorem State.wr_captured (s : State) (a : Nat) (w : Word32) : (s.wr a w).captured = s.captured := rfl
@[simp] theorem State.wr_reply (s : State) (a : Nat) (w : Word32) : (s.wr a w).reply = s.reply := rfl
@[simp] theorem State.wr_energyAcc (s : State) (a : Nat) (w : Word32) : (s.wr a w).energyAcc = s.energyAcc := rfl
@[simp] theorem State.wr_shareHeld (s : State) (a : Nat) (w : Word32) : (s.wr a w).shareHeld = s.shareHeld := rfl
@[simp] theorem State.wr_domUp (s : State) (a : Nat) (w : Word32) : (s.wr a w).domUp = s.domUp := rfl
@[simp] theorem State.wr_domDead (s : State) (a : Nat) (w : Word32) : (s.wr a w).domDead = s.domDead := rfl
@[simp] theorem State.wr_wakes (s : State) (a : Nat) (w : Word32) : (s.wr a w).wakes = s.wakes := rfl
@[simp] theorem State.wr_sync (s : State) (a : Nat) (w : Word32) : (s.wr a w).sync = s.sync := rfl
@[simp] theorem State.wr_cache (s : State) (a : Nat) (w : Word32) : (s.wr a w).cache = s.cache := rfl
@[simp] theorem State.wr_mport (s : State) (a : Nat) (w : Word32) : (s.wr a w).mport = s.mport := rfl
@[simp] theorem State.wr_mpCtr (s : State) (a : Nat) (w : Word32) : (s.wr a w).mpCtr = s.mpCtr := rfl
@[simp] theorem State.wr_mpRr (s : State) (a : Nat) (w : Word32) : (s.wr a w).mpRr = s.mpRr := rfl
@[simp] theorem State.wr_engScale (s : State) (a : Nat) (w : Word32) : (s.wr a w).engScale = s.engScale := rfl
@[simp] theorem State.wr_spokeHeld (s : State) (a : Nat) (w : Word32) : (s.wr a w).spokeHeld = s.spokeHeld := rfl
@[simp] theorem State.wr_chans (s : State) (a : Nat) (w : Word32) : (s.wr a w).chans = s.chans := rfl
@[simp] theorem State.wr_engRr (s : State) (a : Nat) (w : Word32) : (s.wr a w).engRr = s.engRr := rfl
@[simp] theorem State.wr_recd (s : State) (a : Nat) (w : Word32) : (s.wr a w).recd = s.recd := rfl
@[simp] theorem State.wr_integ (s : State) (a : Nat) (w : Word32) : (s.wr a w).integ = s.integ := rfl
@[simp] theorem State.wr_test (s : State) (a : Nat) (w : Word32) : (s.wr a w).test = s.test := rfl
@[simp] theorem State.wr_life (s : State) (a : Nat) (w : Word32) : (s.wr a w).life = s.life := rfl
@[simp] theorem State.wr_raq (s : State) (a : Nat) (w : Word32) : (s.wr a w).raq = s.raq := rfl
@[simp] theorem State.wr_klen (s : State) (a : Nat) (w : Word32) : (s.wr a w).klen = s.klen := rfl
@[simp] theorem State.wr_link (s : State) (a : Nat) (w : Word32) : (s.wr a w).link = s.link := rfl
@[simp] theorem State.wr_win (s : State) (a : Nat) (w : Word32) : (s.wr a w).win = s.win := rfl
@[simp] theorem State.wr_fw (s : State) (a : Nat) (w : Word32) : (s.wr a w).fw = s.fw := rfl
@[simp] theorem State.wr_fab (s : State) (a : Nat) (w : Word32) : (s.wr a w).fab = s.fab := rfl
@[simp] theorem State.wr_pending (s : State) (a : Nat) (w : Word32) : (s.wr a w).pending = s.pending := rfl
@[simp] theorem State.put_cfg (s : State) (a : Nat) (g : Fld) (v : Nat) : (s.put a g v).cfg = s.cfg := rfl
@[simp] theorem State.put_now (s : State) (a : Nat) (g : Fld) (v : Nat) : (s.put a g v).now = s.now := rfl
@[simp] theorem State.put_pcNow (s : State) (a : Nat) (g : Fld) (v : Nat) : (s.put a g v).pcNow = s.pcNow := rfl
@[simp] theorem State.put_pcRem (s : State) (a : Nat) (g : Fld) (v : Nat) : (s.put a g v).pcRem = s.pcRem := rfl
@[simp] theorem State.put_pcDev (s : State) (a : Nat) (g : Fld) (v : Nat) : (s.put a g v).pcDev = s.pcDev := rfl
@[simp] theorem State.put_pcDevRem (s : State) (a : Nat) (g : Fld) (v : Nat) : (s.put a g v).pcDevRem = s.pcDevRem := rfl
@[simp] theorem State.put_clockOn (s : State) (a : Nat) (g : Fld) (v : Nat) : (s.put a g v).clockOn = s.clockOn := rfl
@[simp] theorem State.put_fuseLoaded (s : State) (a : Nat) (g : Fld) (v : Nat) : (s.put a g v).fuseLoaded = s.fuseLoaded := rfl
@[simp] theorem State.put_porstLow (s : State) (a : Nat) (g : Fld) (v : Nat) : (s.put a g v).porstLow = s.porstLow := rfl
@[simp] theorem State.put_srstLow (s : State) (a : Nat) (g : Fld) (v : Nat) : (s.put a g v).srstLow = s.srstLow := rfl
@[simp] theorem State.put_railLost (s : State) (a : Nat) (g : Fld) (v : Nat) : (s.put a g v).railLost = s.railLost := rfl
@[simp] theorem State.put_fused (s : State) (a : Nat) (g : Fld) (v : Nat) : (s.put a g v).fused = s.fused := rfl
@[simp] theorem State.put_freeCtr (s : State) (a : Nat) (g : Fld) (v : Nat) : (s.put a g v).freeCtr = s.freeCtr := rfl
@[simp] theorem State.put_array (s : State) (a : Nat) (g : Fld) (v : Nat) : (s.put a g v).array = s.array := rfl
@[simp] theorem State.put_rims (s : State) (a : Nat) (g : Fld) (v : Nat) : (s.put a g v).rims = s.rims := rfl
@[simp] theorem State.put_hub (s : State) (a : Nat) (g : Fld) (v : Nat) : (s.put a g v).hub = s.hub := rfl
@[simp] theorem State.put_ports (s : State) (a : Nat) (g : Fld) (v : Nat) : (s.put a g v).ports = s.ports := rfl
@[simp] theorem State.put_handles (s : State) (a : Nat) (g : Fld) (v : Nat) : (s.put a g v).handles = s.handles := rfl
@[simp] theorem State.put_hcmd (s : State) (a : Nat) (g : Fld) (v : Nat) : (s.put a g v).hcmd = s.hcmd := rfl
@[simp] theorem State.put_regul (s : State) (a : Nat) (g : Fld) (v : Nat) : (s.put a g v).regul = s.regul := rfl
@[simp] theorem State.put_psnLog (s : State) (a : Nat) (g : Fld) (v : Nat) : (s.put a g v).psnLog = s.psnLog := rfl
@[simp] theorem State.put_captured (s : State) (a : Nat) (g : Fld) (v : Nat) : (s.put a g v).captured = s.captured := rfl
@[simp] theorem State.put_reply (s : State) (a : Nat) (g : Fld) (v : Nat) : (s.put a g v).reply = s.reply := rfl
@[simp] theorem State.put_energyAcc (s : State) (a : Nat) (g : Fld) (v : Nat) : (s.put a g v).energyAcc = s.energyAcc := rfl
@[simp] theorem State.put_shareHeld (s : State) (a : Nat) (g : Fld) (v : Nat) : (s.put a g v).shareHeld = s.shareHeld := rfl
@[simp] theorem State.put_domUp (s : State) (a : Nat) (g : Fld) (v : Nat) : (s.put a g v).domUp = s.domUp := rfl
@[simp] theorem State.put_domDead (s : State) (a : Nat) (g : Fld) (v : Nat) : (s.put a g v).domDead = s.domDead := rfl
@[simp] theorem State.put_wakes (s : State) (a : Nat) (g : Fld) (v : Nat) : (s.put a g v).wakes = s.wakes := rfl
@[simp] theorem State.put_sync (s : State) (a : Nat) (g : Fld) (v : Nat) : (s.put a g v).sync = s.sync := rfl
@[simp] theorem State.put_cache (s : State) (a : Nat) (g : Fld) (v : Nat) : (s.put a g v).cache = s.cache := rfl
@[simp] theorem State.put_mport (s : State) (a : Nat) (g : Fld) (v : Nat) : (s.put a g v).mport = s.mport := rfl
@[simp] theorem State.put_mpCtr (s : State) (a : Nat) (g : Fld) (v : Nat) : (s.put a g v).mpCtr = s.mpCtr := rfl
@[simp] theorem State.put_mpRr (s : State) (a : Nat) (g : Fld) (v : Nat) : (s.put a g v).mpRr = s.mpRr := rfl
@[simp] theorem State.put_engScale (s : State) (a : Nat) (g : Fld) (v : Nat) : (s.put a g v).engScale = s.engScale := rfl
@[simp] theorem State.put_spokeHeld (s : State) (a : Nat) (g : Fld) (v : Nat) : (s.put a g v).spokeHeld = s.spokeHeld := rfl
@[simp] theorem State.put_chans (s : State) (a : Nat) (g : Fld) (v : Nat) : (s.put a g v).chans = s.chans := rfl
@[simp] theorem State.put_engRr (s : State) (a : Nat) (g : Fld) (v : Nat) : (s.put a g v).engRr = s.engRr := rfl
@[simp] theorem State.put_recd (s : State) (a : Nat) (g : Fld) (v : Nat) : (s.put a g v).recd = s.recd := rfl
@[simp] theorem State.put_integ (s : State) (a : Nat) (g : Fld) (v : Nat) : (s.put a g v).integ = s.integ := rfl
@[simp] theorem State.put_test (s : State) (a : Nat) (g : Fld) (v : Nat) : (s.put a g v).test = s.test := rfl
@[simp] theorem State.put_life (s : State) (a : Nat) (g : Fld) (v : Nat) : (s.put a g v).life = s.life := rfl
@[simp] theorem State.put_raq (s : State) (a : Nat) (g : Fld) (v : Nat) : (s.put a g v).raq = s.raq := rfl
@[simp] theorem State.put_klen (s : State) (a : Nat) (g : Fld) (v : Nat) : (s.put a g v).klen = s.klen := rfl
@[simp] theorem State.put_link (s : State) (a : Nat) (g : Fld) (v : Nat) : (s.put a g v).link = s.link := rfl
@[simp] theorem State.put_win (s : State) (a : Nat) (g : Fld) (v : Nat) : (s.put a g v).win = s.win := rfl
@[simp] theorem State.put_fw (s : State) (a : Nat) (g : Fld) (v : Nat) : (s.put a g v).fw = s.fw := rfl
@[simp] theorem State.put_fab (s : State) (a : Nat) (g : Fld) (v : Nat) : (s.put a g v).fab = s.fab := rfl
@[simp] theorem State.put_pending (s : State) (a : Nat) (g : Fld) (v : Nat) : (s.put a g v).pending = s.pending := rfl
@[simp] theorem State.bump_cfg (s : State) (a : Nat) (g : Fld) (n : Nat) : (s.bump a g n).cfg = s.cfg := rfl
@[simp] theorem State.bump_now (s : State) (a : Nat) (g : Fld) (n : Nat) : (s.bump a g n).now = s.now := rfl
@[simp] theorem State.bump_pcNow (s : State) (a : Nat) (g : Fld) (n : Nat) : (s.bump a g n).pcNow = s.pcNow := rfl
@[simp] theorem State.bump_pcRem (s : State) (a : Nat) (g : Fld) (n : Nat) : (s.bump a g n).pcRem = s.pcRem := rfl
@[simp] theorem State.bump_pcDev (s : State) (a : Nat) (g : Fld) (n : Nat) : (s.bump a g n).pcDev = s.pcDev := rfl
@[simp] theorem State.bump_pcDevRem (s : State) (a : Nat) (g : Fld) (n : Nat) : (s.bump a g n).pcDevRem = s.pcDevRem := rfl
@[simp] theorem State.bump_clockOn (s : State) (a : Nat) (g : Fld) (n : Nat) : (s.bump a g n).clockOn = s.clockOn := rfl
@[simp] theorem State.bump_fuseLoaded (s : State) (a : Nat) (g : Fld) (n : Nat) : (s.bump a g n).fuseLoaded = s.fuseLoaded := rfl
@[simp] theorem State.bump_porstLow (s : State) (a : Nat) (g : Fld) (n : Nat) : (s.bump a g n).porstLow = s.porstLow := rfl
@[simp] theorem State.bump_srstLow (s : State) (a : Nat) (g : Fld) (n : Nat) : (s.bump a g n).srstLow = s.srstLow := rfl
@[simp] theorem State.bump_railLost (s : State) (a : Nat) (g : Fld) (n : Nat) : (s.bump a g n).railLost = s.railLost := rfl
@[simp] theorem State.bump_fused (s : State) (a : Nat) (g : Fld) (n : Nat) : (s.bump a g n).fused = s.fused := rfl
@[simp] theorem State.bump_freeCtr (s : State) (a : Nat) (g : Fld) (n : Nat) : (s.bump a g n).freeCtr = s.freeCtr := rfl
@[simp] theorem State.bump_array (s : State) (a : Nat) (g : Fld) (n : Nat) : (s.bump a g n).array = s.array := rfl
@[simp] theorem State.bump_rims (s : State) (a : Nat) (g : Fld) (n : Nat) : (s.bump a g n).rims = s.rims := rfl
@[simp] theorem State.bump_hub (s : State) (a : Nat) (g : Fld) (n : Nat) : (s.bump a g n).hub = s.hub := rfl
@[simp] theorem State.bump_ports (s : State) (a : Nat) (g : Fld) (n : Nat) : (s.bump a g n).ports = s.ports := rfl
@[simp] theorem State.bump_handles (s : State) (a : Nat) (g : Fld) (n : Nat) : (s.bump a g n).handles = s.handles := rfl
@[simp] theorem State.bump_hcmd (s : State) (a : Nat) (g : Fld) (n : Nat) : (s.bump a g n).hcmd = s.hcmd := rfl
@[simp] theorem State.bump_regul (s : State) (a : Nat) (g : Fld) (n : Nat) : (s.bump a g n).regul = s.regul := rfl
@[simp] theorem State.bump_psnLog (s : State) (a : Nat) (g : Fld) (n : Nat) : (s.bump a g n).psnLog = s.psnLog := rfl
@[simp] theorem State.bump_captured (s : State) (a : Nat) (g : Fld) (n : Nat) : (s.bump a g n).captured = s.captured := rfl
@[simp] theorem State.bump_reply (s : State) (a : Nat) (g : Fld) (n : Nat) : (s.bump a g n).reply = s.reply := rfl
@[simp] theorem State.bump_energyAcc (s : State) (a : Nat) (g : Fld) (n : Nat) : (s.bump a g n).energyAcc = s.energyAcc := rfl
@[simp] theorem State.bump_shareHeld (s : State) (a : Nat) (g : Fld) (n : Nat) : (s.bump a g n).shareHeld = s.shareHeld := rfl
@[simp] theorem State.bump_domUp (s : State) (a : Nat) (g : Fld) (n : Nat) : (s.bump a g n).domUp = s.domUp := rfl
@[simp] theorem State.bump_domDead (s : State) (a : Nat) (g : Fld) (n : Nat) : (s.bump a g n).domDead = s.domDead := rfl
@[simp] theorem State.bump_wakes (s : State) (a : Nat) (g : Fld) (n : Nat) : (s.bump a g n).wakes = s.wakes := rfl
@[simp] theorem State.bump_sync (s : State) (a : Nat) (g : Fld) (n : Nat) : (s.bump a g n).sync = s.sync := rfl
@[simp] theorem State.bump_cache (s : State) (a : Nat) (g : Fld) (n : Nat) : (s.bump a g n).cache = s.cache := rfl
@[simp] theorem State.bump_mport (s : State) (a : Nat) (g : Fld) (n : Nat) : (s.bump a g n).mport = s.mport := rfl
@[simp] theorem State.bump_mpCtr (s : State) (a : Nat) (g : Fld) (n : Nat) : (s.bump a g n).mpCtr = s.mpCtr := rfl
@[simp] theorem State.bump_mpRr (s : State) (a : Nat) (g : Fld) (n : Nat) : (s.bump a g n).mpRr = s.mpRr := rfl
@[simp] theorem State.bump_engScale (s : State) (a : Nat) (g : Fld) (n : Nat) : (s.bump a g n).engScale = s.engScale := rfl
@[simp] theorem State.bump_spokeHeld (s : State) (a : Nat) (g : Fld) (n : Nat) : (s.bump a g n).spokeHeld = s.spokeHeld := rfl
@[simp] theorem State.bump_chans (s : State) (a : Nat) (g : Fld) (n : Nat) : (s.bump a g n).chans = s.chans := rfl
@[simp] theorem State.bump_engRr (s : State) (a : Nat) (g : Fld) (n : Nat) : (s.bump a g n).engRr = s.engRr := rfl
@[simp] theorem State.bump_recd (s : State) (a : Nat) (g : Fld) (n : Nat) : (s.bump a g n).recd = s.recd := rfl
@[simp] theorem State.bump_integ (s : State) (a : Nat) (g : Fld) (n : Nat) : (s.bump a g n).integ = s.integ := rfl
@[simp] theorem State.bump_test (s : State) (a : Nat) (g : Fld) (n : Nat) : (s.bump a g n).test = s.test := rfl
@[simp] theorem State.bump_life (s : State) (a : Nat) (g : Fld) (n : Nat) : (s.bump a g n).life = s.life := rfl
@[simp] theorem State.bump_raq (s : State) (a : Nat) (g : Fld) (n : Nat) : (s.bump a g n).raq = s.raq := rfl
@[simp] theorem State.bump_klen (s : State) (a : Nat) (g : Fld) (n : Nat) : (s.bump a g n).klen = s.klen := rfl
@[simp] theorem State.bump_link (s : State) (a : Nat) (g : Fld) (n : Nat) : (s.bump a g n).link = s.link := rfl
@[simp] theorem State.bump_win (s : State) (a : Nat) (g : Fld) (n : Nat) : (s.bump a g n).win = s.win := rfl
@[simp] theorem State.bump_fw (s : State) (a : Nat) (g : Fld) (n : Nat) : (s.bump a g n).fw = s.fw := rfl
@[simp] theorem State.bump_fab (s : State) (a : Nat) (g : Fld) (n : Nat) : (s.bump a g n).fab = s.fab := rfl
@[simp] theorem State.bump_pending (s : State) (a : Nat) (g : Fld) (n : Nat) : (s.bump a g n).pending = s.pending := rfl
@[simp] theorem State.bumpSat_cfg (s : State) (a : Nat) (g : Fld) (n : Nat) : (s.bumpSat a g n).cfg = s.cfg := rfl
@[simp] theorem State.bumpSat_now (s : State) (a : Nat) (g : Fld) (n : Nat) : (s.bumpSat a g n).now = s.now := rfl
@[simp] theorem State.bumpSat_pcNow (s : State) (a : Nat) (g : Fld) (n : Nat) : (s.bumpSat a g n).pcNow = s.pcNow := rfl
@[simp] theorem State.bumpSat_pcRem (s : State) (a : Nat) (g : Fld) (n : Nat) : (s.bumpSat a g n).pcRem = s.pcRem := rfl
@[simp] theorem State.bumpSat_pcDev (s : State) (a : Nat) (g : Fld) (n : Nat) : (s.bumpSat a g n).pcDev = s.pcDev := rfl
@[simp] theorem State.bumpSat_pcDevRem (s : State) (a : Nat) (g : Fld) (n : Nat) : (s.bumpSat a g n).pcDevRem = s.pcDevRem := rfl
@[simp] theorem State.bumpSat_clockOn (s : State) (a : Nat) (g : Fld) (n : Nat) : (s.bumpSat a g n).clockOn = s.clockOn := rfl
@[simp] theorem State.bumpSat_fuseLoaded (s : State) (a : Nat) (g : Fld) (n : Nat) : (s.bumpSat a g n).fuseLoaded = s.fuseLoaded := rfl
@[simp] theorem State.bumpSat_porstLow (s : State) (a : Nat) (g : Fld) (n : Nat) : (s.bumpSat a g n).porstLow = s.porstLow := rfl
@[simp] theorem State.bumpSat_srstLow (s : State) (a : Nat) (g : Fld) (n : Nat) : (s.bumpSat a g n).srstLow = s.srstLow := rfl
@[simp] theorem State.bumpSat_railLost (s : State) (a : Nat) (g : Fld) (n : Nat) : (s.bumpSat a g n).railLost = s.railLost := rfl
@[simp] theorem State.bumpSat_fused (s : State) (a : Nat) (g : Fld) (n : Nat) : (s.bumpSat a g n).fused = s.fused := rfl
@[simp] theorem State.bumpSat_freeCtr (s : State) (a : Nat) (g : Fld) (n : Nat) : (s.bumpSat a g n).freeCtr = s.freeCtr := rfl
@[simp] theorem State.bumpSat_array (s : State) (a : Nat) (g : Fld) (n : Nat) : (s.bumpSat a g n).array = s.array := rfl
@[simp] theorem State.bumpSat_rims (s : State) (a : Nat) (g : Fld) (n : Nat) : (s.bumpSat a g n).rims = s.rims := rfl
@[simp] theorem State.bumpSat_hub (s : State) (a : Nat) (g : Fld) (n : Nat) : (s.bumpSat a g n).hub = s.hub := rfl
@[simp] theorem State.bumpSat_ports (s : State) (a : Nat) (g : Fld) (n : Nat) : (s.bumpSat a g n).ports = s.ports := rfl
@[simp] theorem State.bumpSat_handles (s : State) (a : Nat) (g : Fld) (n : Nat) : (s.bumpSat a g n).handles = s.handles := rfl
@[simp] theorem State.bumpSat_hcmd (s : State) (a : Nat) (g : Fld) (n : Nat) : (s.bumpSat a g n).hcmd = s.hcmd := rfl
@[simp] theorem State.bumpSat_regul (s : State) (a : Nat) (g : Fld) (n : Nat) : (s.bumpSat a g n).regul = s.regul := rfl
@[simp] theorem State.bumpSat_psnLog (s : State) (a : Nat) (g : Fld) (n : Nat) : (s.bumpSat a g n).psnLog = s.psnLog := rfl
@[simp] theorem State.bumpSat_captured (s : State) (a : Nat) (g : Fld) (n : Nat) : (s.bumpSat a g n).captured = s.captured := rfl
@[simp] theorem State.bumpSat_reply (s : State) (a : Nat) (g : Fld) (n : Nat) : (s.bumpSat a g n).reply = s.reply := rfl
@[simp] theorem State.bumpSat_energyAcc (s : State) (a : Nat) (g : Fld) (n : Nat) : (s.bumpSat a g n).energyAcc = s.energyAcc := rfl
@[simp] theorem State.bumpSat_shareHeld (s : State) (a : Nat) (g : Fld) (n : Nat) : (s.bumpSat a g n).shareHeld = s.shareHeld := rfl
@[simp] theorem State.bumpSat_domUp (s : State) (a : Nat) (g : Fld) (n : Nat) : (s.bumpSat a g n).domUp = s.domUp := rfl
@[simp] theorem State.bumpSat_domDead (s : State) (a : Nat) (g : Fld) (n : Nat) : (s.bumpSat a g n).domDead = s.domDead := rfl
@[simp] theorem State.bumpSat_wakes (s : State) (a : Nat) (g : Fld) (n : Nat) : (s.bumpSat a g n).wakes = s.wakes := rfl
@[simp] theorem State.bumpSat_sync (s : State) (a : Nat) (g : Fld) (n : Nat) : (s.bumpSat a g n).sync = s.sync := rfl
@[simp] theorem State.bumpSat_cache (s : State) (a : Nat) (g : Fld) (n : Nat) : (s.bumpSat a g n).cache = s.cache := rfl
@[simp] theorem State.bumpSat_mport (s : State) (a : Nat) (g : Fld) (n : Nat) : (s.bumpSat a g n).mport = s.mport := rfl
@[simp] theorem State.bumpSat_mpCtr (s : State) (a : Nat) (g : Fld) (n : Nat) : (s.bumpSat a g n).mpCtr = s.mpCtr := rfl
@[simp] theorem State.bumpSat_mpRr (s : State) (a : Nat) (g : Fld) (n : Nat) : (s.bumpSat a g n).mpRr = s.mpRr := rfl
@[simp] theorem State.bumpSat_engScale (s : State) (a : Nat) (g : Fld) (n : Nat) : (s.bumpSat a g n).engScale = s.engScale := rfl
@[simp] theorem State.bumpSat_spokeHeld (s : State) (a : Nat) (g : Fld) (n : Nat) : (s.bumpSat a g n).spokeHeld = s.spokeHeld := rfl
@[simp] theorem State.bumpSat_chans (s : State) (a : Nat) (g : Fld) (n : Nat) : (s.bumpSat a g n).chans = s.chans := rfl
@[simp] theorem State.bumpSat_engRr (s : State) (a : Nat) (g : Fld) (n : Nat) : (s.bumpSat a g n).engRr = s.engRr := rfl
@[simp] theorem State.bumpSat_recd (s : State) (a : Nat) (g : Fld) (n : Nat) : (s.bumpSat a g n).recd = s.recd := rfl
@[simp] theorem State.bumpSat_integ (s : State) (a : Nat) (g : Fld) (n : Nat) : (s.bumpSat a g n).integ = s.integ := rfl
@[simp] theorem State.bumpSat_test (s : State) (a : Nat) (g : Fld) (n : Nat) : (s.bumpSat a g n).test = s.test := rfl
@[simp] theorem State.bumpSat_life (s : State) (a : Nat) (g : Fld) (n : Nat) : (s.bumpSat a g n).life = s.life := rfl
@[simp] theorem State.bumpSat_raq (s : State) (a : Nat) (g : Fld) (n : Nat) : (s.bumpSat a g n).raq = s.raq := rfl
@[simp] theorem State.bumpSat_klen (s : State) (a : Nat) (g : Fld) (n : Nat) : (s.bumpSat a g n).klen = s.klen := rfl
@[simp] theorem State.bumpSat_link (s : State) (a : Nat) (g : Fld) (n : Nat) : (s.bumpSat a g n).link = s.link := rfl
@[simp] theorem State.bumpSat_win (s : State) (a : Nat) (g : Fld) (n : Nat) : (s.bumpSat a g n).win = s.win := rfl
@[simp] theorem State.bumpSat_fw (s : State) (a : Nat) (g : Fld) (n : Nat) : (s.bumpSat a g n).fw = s.fw := rfl
@[simp] theorem State.bumpSat_fab (s : State) (a : Nat) (g : Fld) (n : Nat) : (s.bumpSat a g n).fab = s.fab := rfl
@[simp] theorem State.bumpSat_pending (s : State) (a : Nat) (g : Fld) (n : Nat) : (s.bumpSat a g n).pending = s.pending := rfl
@[simp] theorem State.drop_cfg (s : State) (a : Nat) (g : Fld) (n : Nat) : (s.drop a g n).cfg = s.cfg := rfl
@[simp] theorem State.drop_now (s : State) (a : Nat) (g : Fld) (n : Nat) : (s.drop a g n).now = s.now := rfl
@[simp] theorem State.drop_pcNow (s : State) (a : Nat) (g : Fld) (n : Nat) : (s.drop a g n).pcNow = s.pcNow := rfl
@[simp] theorem State.drop_pcRem (s : State) (a : Nat) (g : Fld) (n : Nat) : (s.drop a g n).pcRem = s.pcRem := rfl
@[simp] theorem State.drop_pcDev (s : State) (a : Nat) (g : Fld) (n : Nat) : (s.drop a g n).pcDev = s.pcDev := rfl
@[simp] theorem State.drop_pcDevRem (s : State) (a : Nat) (g : Fld) (n : Nat) : (s.drop a g n).pcDevRem = s.pcDevRem := rfl
@[simp] theorem State.drop_clockOn (s : State) (a : Nat) (g : Fld) (n : Nat) : (s.drop a g n).clockOn = s.clockOn := rfl
@[simp] theorem State.drop_fuseLoaded (s : State) (a : Nat) (g : Fld) (n : Nat) : (s.drop a g n).fuseLoaded = s.fuseLoaded := rfl
@[simp] theorem State.drop_porstLow (s : State) (a : Nat) (g : Fld) (n : Nat) : (s.drop a g n).porstLow = s.porstLow := rfl
@[simp] theorem State.drop_srstLow (s : State) (a : Nat) (g : Fld) (n : Nat) : (s.drop a g n).srstLow = s.srstLow := rfl
@[simp] theorem State.drop_railLost (s : State) (a : Nat) (g : Fld) (n : Nat) : (s.drop a g n).railLost = s.railLost := rfl
@[simp] theorem State.drop_fused (s : State) (a : Nat) (g : Fld) (n : Nat) : (s.drop a g n).fused = s.fused := rfl
@[simp] theorem State.drop_freeCtr (s : State) (a : Nat) (g : Fld) (n : Nat) : (s.drop a g n).freeCtr = s.freeCtr := rfl
@[simp] theorem State.drop_array (s : State) (a : Nat) (g : Fld) (n : Nat) : (s.drop a g n).array = s.array := rfl
@[simp] theorem State.drop_rims (s : State) (a : Nat) (g : Fld) (n : Nat) : (s.drop a g n).rims = s.rims := rfl
@[simp] theorem State.drop_hub (s : State) (a : Nat) (g : Fld) (n : Nat) : (s.drop a g n).hub = s.hub := rfl
@[simp] theorem State.drop_ports (s : State) (a : Nat) (g : Fld) (n : Nat) : (s.drop a g n).ports = s.ports := rfl
@[simp] theorem State.drop_handles (s : State) (a : Nat) (g : Fld) (n : Nat) : (s.drop a g n).handles = s.handles := rfl
@[simp] theorem State.drop_hcmd (s : State) (a : Nat) (g : Fld) (n : Nat) : (s.drop a g n).hcmd = s.hcmd := rfl
@[simp] theorem State.drop_regul (s : State) (a : Nat) (g : Fld) (n : Nat) : (s.drop a g n).regul = s.regul := rfl
@[simp] theorem State.drop_psnLog (s : State) (a : Nat) (g : Fld) (n : Nat) : (s.drop a g n).psnLog = s.psnLog := rfl
@[simp] theorem State.drop_captured (s : State) (a : Nat) (g : Fld) (n : Nat) : (s.drop a g n).captured = s.captured := rfl
@[simp] theorem State.drop_reply (s : State) (a : Nat) (g : Fld) (n : Nat) : (s.drop a g n).reply = s.reply := rfl
@[simp] theorem State.drop_energyAcc (s : State) (a : Nat) (g : Fld) (n : Nat) : (s.drop a g n).energyAcc = s.energyAcc := rfl
@[simp] theorem State.drop_shareHeld (s : State) (a : Nat) (g : Fld) (n : Nat) : (s.drop a g n).shareHeld = s.shareHeld := rfl
@[simp] theorem State.drop_domUp (s : State) (a : Nat) (g : Fld) (n : Nat) : (s.drop a g n).domUp = s.domUp := rfl
@[simp] theorem State.drop_domDead (s : State) (a : Nat) (g : Fld) (n : Nat) : (s.drop a g n).domDead = s.domDead := rfl
@[simp] theorem State.drop_wakes (s : State) (a : Nat) (g : Fld) (n : Nat) : (s.drop a g n).wakes = s.wakes := rfl
@[simp] theorem State.drop_sync (s : State) (a : Nat) (g : Fld) (n : Nat) : (s.drop a g n).sync = s.sync := rfl
@[simp] theorem State.drop_cache (s : State) (a : Nat) (g : Fld) (n : Nat) : (s.drop a g n).cache = s.cache := rfl
@[simp] theorem State.drop_mport (s : State) (a : Nat) (g : Fld) (n : Nat) : (s.drop a g n).mport = s.mport := rfl
@[simp] theorem State.drop_mpCtr (s : State) (a : Nat) (g : Fld) (n : Nat) : (s.drop a g n).mpCtr = s.mpCtr := rfl
@[simp] theorem State.drop_mpRr (s : State) (a : Nat) (g : Fld) (n : Nat) : (s.drop a g n).mpRr = s.mpRr := rfl
@[simp] theorem State.drop_engScale (s : State) (a : Nat) (g : Fld) (n : Nat) : (s.drop a g n).engScale = s.engScale := rfl
@[simp] theorem State.drop_spokeHeld (s : State) (a : Nat) (g : Fld) (n : Nat) : (s.drop a g n).spokeHeld = s.spokeHeld := rfl
@[simp] theorem State.drop_chans (s : State) (a : Nat) (g : Fld) (n : Nat) : (s.drop a g n).chans = s.chans := rfl
@[simp] theorem State.drop_engRr (s : State) (a : Nat) (g : Fld) (n : Nat) : (s.drop a g n).engRr = s.engRr := rfl
@[simp] theorem State.drop_recd (s : State) (a : Nat) (g : Fld) (n : Nat) : (s.drop a g n).recd = s.recd := rfl
@[simp] theorem State.drop_integ (s : State) (a : Nat) (g : Fld) (n : Nat) : (s.drop a g n).integ = s.integ := rfl
@[simp] theorem State.drop_test (s : State) (a : Nat) (g : Fld) (n : Nat) : (s.drop a g n).test = s.test := rfl
@[simp] theorem State.drop_life (s : State) (a : Nat) (g : Fld) (n : Nat) : (s.drop a g n).life = s.life := rfl
@[simp] theorem State.drop_raq (s : State) (a : Nat) (g : Fld) (n : Nat) : (s.drop a g n).raq = s.raq := rfl
@[simp] theorem State.drop_klen (s : State) (a : Nat) (g : Fld) (n : Nat) : (s.drop a g n).klen = s.klen := rfl
@[simp] theorem State.drop_link (s : State) (a : Nat) (g : Fld) (n : Nat) : (s.drop a g n).link = s.link := rfl
@[simp] theorem State.drop_win (s : State) (a : Nat) (g : Fld) (n : Nat) : (s.drop a g n).win = s.win := rfl
@[simp] theorem State.drop_fw (s : State) (a : Nat) (g : Fld) (n : Nat) : (s.drop a g n).fw = s.fw := rfl
@[simp] theorem State.drop_fab (s : State) (a : Nat) (g : Fld) (n : Nat) : (s.drop a g n).fab = s.fab := rfl
@[simp] theorem State.drop_pending (s : State) (a : Nat) (g : Fld) (n : Nat) : (s.drop a g n).pending = s.pending := rfl
@[simp] theorem State.arr_cfg (s : State) (f : ArraySt → ArraySt) : (s.arr f).cfg = s.cfg := rfl
@[simp] theorem State.arr_regs (s : State) (f : ArraySt → ArraySt) : (s.arr f).regs = s.regs := rfl
@[simp] theorem State.arr_now (s : State) (f : ArraySt → ArraySt) : (s.arr f).now = s.now := rfl
@[simp] theorem State.arr_pcNow (s : State) (f : ArraySt → ArraySt) : (s.arr f).pcNow = s.pcNow := rfl
@[simp] theorem State.arr_pcRem (s : State) (f : ArraySt → ArraySt) : (s.arr f).pcRem = s.pcRem := rfl
@[simp] theorem State.arr_pcDev (s : State) (f : ArraySt → ArraySt) : (s.arr f).pcDev = s.pcDev := rfl
@[simp] theorem State.arr_pcDevRem (s : State) (f : ArraySt → ArraySt) : (s.arr f).pcDevRem = s.pcDevRem := rfl
@[simp] theorem State.arr_clockOn (s : State) (f : ArraySt → ArraySt) : (s.arr f).clockOn = s.clockOn := rfl
@[simp] theorem State.arr_fuseLoaded (s : State) (f : ArraySt → ArraySt) : (s.arr f).fuseLoaded = s.fuseLoaded := rfl
@[simp] theorem State.arr_porstLow (s : State) (f : ArraySt → ArraySt) : (s.arr f).porstLow = s.porstLow := rfl
@[simp] theorem State.arr_srstLow (s : State) (f : ArraySt → ArraySt) : (s.arr f).srstLow = s.srstLow := rfl
@[simp] theorem State.arr_railLost (s : State) (f : ArraySt → ArraySt) : (s.arr f).railLost = s.railLost := rfl
@[simp] theorem State.arr_fused (s : State) (f : ArraySt → ArraySt) : (s.arr f).fused = s.fused := rfl
@[simp] theorem State.arr_freeCtr (s : State) (f : ArraySt → ArraySt) : (s.arr f).freeCtr = s.freeCtr := rfl
@[simp] theorem State.arr_rims (s : State) (f : ArraySt → ArraySt) : (s.arr f).rims = s.rims := rfl
@[simp] theorem State.arr_hub (s : State) (f : ArraySt → ArraySt) : (s.arr f).hub = s.hub := rfl
@[simp] theorem State.arr_ports (s : State) (f : ArraySt → ArraySt) : (s.arr f).ports = s.ports := rfl
@[simp] theorem State.arr_handles (s : State) (f : ArraySt → ArraySt) : (s.arr f).handles = s.handles := rfl
@[simp] theorem State.arr_hcmd (s : State) (f : ArraySt → ArraySt) : (s.arr f).hcmd = s.hcmd := rfl
@[simp] theorem State.arr_regul (s : State) (f : ArraySt → ArraySt) : (s.arr f).regul = s.regul := rfl
@[simp] theorem State.arr_psnLog (s : State) (f : ArraySt → ArraySt) : (s.arr f).psnLog = s.psnLog := rfl
@[simp] theorem State.arr_captured (s : State) (f : ArraySt → ArraySt) : (s.arr f).captured = s.captured := rfl
@[simp] theorem State.arr_reply (s : State) (f : ArraySt → ArraySt) : (s.arr f).reply = s.reply := rfl
@[simp] theorem State.arr_energyAcc (s : State) (f : ArraySt → ArraySt) : (s.arr f).energyAcc = s.energyAcc := rfl
@[simp] theorem State.arr_shareHeld (s : State) (f : ArraySt → ArraySt) : (s.arr f).shareHeld = s.shareHeld := rfl
@[simp] theorem State.arr_domUp (s : State) (f : ArraySt → ArraySt) : (s.arr f).domUp = s.domUp := rfl
@[simp] theorem State.arr_domDead (s : State) (f : ArraySt → ArraySt) : (s.arr f).domDead = s.domDead := rfl
@[simp] theorem State.arr_wakes (s : State) (f : ArraySt → ArraySt) : (s.arr f).wakes = s.wakes := rfl
@[simp] theorem State.arr_sync (s : State) (f : ArraySt → ArraySt) : (s.arr f).sync = s.sync := rfl
@[simp] theorem State.arr_cache (s : State) (f : ArraySt → ArraySt) : (s.arr f).cache = s.cache := rfl
@[simp] theorem State.arr_mport (s : State) (f : ArraySt → ArraySt) : (s.arr f).mport = s.mport := rfl
@[simp] theorem State.arr_mpCtr (s : State) (f : ArraySt → ArraySt) : (s.arr f).mpCtr = s.mpCtr := rfl
@[simp] theorem State.arr_mpRr (s : State) (f : ArraySt → ArraySt) : (s.arr f).mpRr = s.mpRr := rfl
@[simp] theorem State.arr_engScale (s : State) (f : ArraySt → ArraySt) : (s.arr f).engScale = s.engScale := rfl
@[simp] theorem State.arr_spokeHeld (s : State) (f : ArraySt → ArraySt) : (s.arr f).spokeHeld = s.spokeHeld := rfl
@[simp] theorem State.arr_chans (s : State) (f : ArraySt → ArraySt) : (s.arr f).chans = s.chans := rfl
@[simp] theorem State.arr_engRr (s : State) (f : ArraySt → ArraySt) : (s.arr f).engRr = s.engRr := rfl
@[simp] theorem State.arr_recd (s : State) (f : ArraySt → ArraySt) : (s.arr f).recd = s.recd := rfl
@[simp] theorem State.arr_integ (s : State) (f : ArraySt → ArraySt) : (s.arr f).integ = s.integ := rfl
@[simp] theorem State.arr_test (s : State) (f : ArraySt → ArraySt) : (s.arr f).test = s.test := rfl
@[simp] theorem State.arr_life (s : State) (f : ArraySt → ArraySt) : (s.arr f).life = s.life := rfl
@[simp] theorem State.arr_raq (s : State) (f : ArraySt → ArraySt) : (s.arr f).raq = s.raq := rfl
@[simp] theorem State.arr_klen (s : State) (f : ArraySt → ArraySt) : (s.arr f).klen = s.klen := rfl
@[simp] theorem State.arr_link (s : State) (f : ArraySt → ArraySt) : (s.arr f).link = s.link := rfl
@[simp] theorem State.arr_win (s : State) (f : ArraySt → ArraySt) : (s.arr f).win = s.win := rfl
@[simp] theorem State.arr_fw (s : State) (f : ArraySt → ArraySt) : (s.arr f).fw = s.fw := rfl
@[simp] theorem State.arr_fab (s : State) (f : ArraySt → ArraySt) : (s.arr f).fab = s.fab := rfl
@[simp] theorem State.arr_pending (s : State) (f : ArraySt → ArraySt) : (s.arr f).pending = s.pending := rfl
@[simp] theorem State.arr_rd (s : State) (f : ArraySt → ArraySt) (o : Nat) : (s.arr f).rd o = s.rd o := rfl
@[simp] theorem State.arr_get (s : State) (f : ArraySt → ArraySt) (o : Nat) (g : Fld) : (s.arr f).get o g = s.get o g := rfl
@[simp] theorem State.arr_array (s : State) (f : ArraySt → ArraySt) : (s.arr f).array = f s.array := rfl
@[simp] theorem State.cach_cfg (s : State) (f : CacheSt → CacheSt) : (s.cach f).cfg = s.cfg := rfl
@[simp] theorem State.cach_regs (s : State) (f : CacheSt → CacheSt) : (s.cach f).regs = s.regs := rfl
@[simp] theorem State.cach_now (s : State) (f : CacheSt → CacheSt) : (s.cach f).now = s.now := rfl
@[simp] theorem State.cach_pcNow (s : State) (f : CacheSt → CacheSt) : (s.cach f).pcNow = s.pcNow := rfl
@[simp] theorem State.cach_pcRem (s : State) (f : CacheSt → CacheSt) : (s.cach f).pcRem = s.pcRem := rfl
@[simp] theorem State.cach_pcDev (s : State) (f : CacheSt → CacheSt) : (s.cach f).pcDev = s.pcDev := rfl
@[simp] theorem State.cach_pcDevRem (s : State) (f : CacheSt → CacheSt) : (s.cach f).pcDevRem = s.pcDevRem := rfl
@[simp] theorem State.cach_clockOn (s : State) (f : CacheSt → CacheSt) : (s.cach f).clockOn = s.clockOn := rfl
@[simp] theorem State.cach_fuseLoaded (s : State) (f : CacheSt → CacheSt) : (s.cach f).fuseLoaded = s.fuseLoaded := rfl
@[simp] theorem State.cach_porstLow (s : State) (f : CacheSt → CacheSt) : (s.cach f).porstLow = s.porstLow := rfl
@[simp] theorem State.cach_srstLow (s : State) (f : CacheSt → CacheSt) : (s.cach f).srstLow = s.srstLow := rfl
@[simp] theorem State.cach_railLost (s : State) (f : CacheSt → CacheSt) : (s.cach f).railLost = s.railLost := rfl
@[simp] theorem State.cach_fused (s : State) (f : CacheSt → CacheSt) : (s.cach f).fused = s.fused := rfl
@[simp] theorem State.cach_freeCtr (s : State) (f : CacheSt → CacheSt) : (s.cach f).freeCtr = s.freeCtr := rfl
@[simp] theorem State.cach_array (s : State) (f : CacheSt → CacheSt) : (s.cach f).array = s.array := rfl
@[simp] theorem State.cach_rims (s : State) (f : CacheSt → CacheSt) : (s.cach f).rims = s.rims := rfl
@[simp] theorem State.cach_hub (s : State) (f : CacheSt → CacheSt) : (s.cach f).hub = s.hub := rfl
@[simp] theorem State.cach_ports (s : State) (f : CacheSt → CacheSt) : (s.cach f).ports = s.ports := rfl
@[simp] theorem State.cach_handles (s : State) (f : CacheSt → CacheSt) : (s.cach f).handles = s.handles := rfl
@[simp] theorem State.cach_hcmd (s : State) (f : CacheSt → CacheSt) : (s.cach f).hcmd = s.hcmd := rfl
@[simp] theorem State.cach_regul (s : State) (f : CacheSt → CacheSt) : (s.cach f).regul = s.regul := rfl
@[simp] theorem State.cach_psnLog (s : State) (f : CacheSt → CacheSt) : (s.cach f).psnLog = s.psnLog := rfl
@[simp] theorem State.cach_captured (s : State) (f : CacheSt → CacheSt) : (s.cach f).captured = s.captured := rfl
@[simp] theorem State.cach_reply (s : State) (f : CacheSt → CacheSt) : (s.cach f).reply = s.reply := rfl
@[simp] theorem State.cach_energyAcc (s : State) (f : CacheSt → CacheSt) : (s.cach f).energyAcc = s.energyAcc := rfl
@[simp] theorem State.cach_shareHeld (s : State) (f : CacheSt → CacheSt) : (s.cach f).shareHeld = s.shareHeld := rfl
@[simp] theorem State.cach_domUp (s : State) (f : CacheSt → CacheSt) : (s.cach f).domUp = s.domUp := rfl
@[simp] theorem State.cach_domDead (s : State) (f : CacheSt → CacheSt) : (s.cach f).domDead = s.domDead := rfl
@[simp] theorem State.cach_wakes (s : State) (f : CacheSt → CacheSt) : (s.cach f).wakes = s.wakes := rfl
@[simp] theorem State.cach_sync (s : State) (f : CacheSt → CacheSt) : (s.cach f).sync = s.sync := rfl
@[simp] theorem State.cach_mport (s : State) (f : CacheSt → CacheSt) : (s.cach f).mport = s.mport := rfl
@[simp] theorem State.cach_mpCtr (s : State) (f : CacheSt → CacheSt) : (s.cach f).mpCtr = s.mpCtr := rfl
@[simp] theorem State.cach_mpRr (s : State) (f : CacheSt → CacheSt) : (s.cach f).mpRr = s.mpRr := rfl
@[simp] theorem State.cach_engScale (s : State) (f : CacheSt → CacheSt) : (s.cach f).engScale = s.engScale := rfl
@[simp] theorem State.cach_spokeHeld (s : State) (f : CacheSt → CacheSt) : (s.cach f).spokeHeld = s.spokeHeld := rfl
@[simp] theorem State.cach_chans (s : State) (f : CacheSt → CacheSt) : (s.cach f).chans = s.chans := rfl
@[simp] theorem State.cach_engRr (s : State) (f : CacheSt → CacheSt) : (s.cach f).engRr = s.engRr := rfl
@[simp] theorem State.cach_recd (s : State) (f : CacheSt → CacheSt) : (s.cach f).recd = s.recd := rfl
@[simp] theorem State.cach_integ (s : State) (f : CacheSt → CacheSt) : (s.cach f).integ = s.integ := rfl
@[simp] theorem State.cach_test (s : State) (f : CacheSt → CacheSt) : (s.cach f).test = s.test := rfl
@[simp] theorem State.cach_life (s : State) (f : CacheSt → CacheSt) : (s.cach f).life = s.life := rfl
@[simp] theorem State.cach_raq (s : State) (f : CacheSt → CacheSt) : (s.cach f).raq = s.raq := rfl
@[simp] theorem State.cach_klen (s : State) (f : CacheSt → CacheSt) : (s.cach f).klen = s.klen := rfl
@[simp] theorem State.cach_link (s : State) (f : CacheSt → CacheSt) : (s.cach f).link = s.link := rfl
@[simp] theorem State.cach_win (s : State) (f : CacheSt → CacheSt) : (s.cach f).win = s.win := rfl
@[simp] theorem State.cach_fw (s : State) (f : CacheSt → CacheSt) : (s.cach f).fw = s.fw := rfl
@[simp] theorem State.cach_fab (s : State) (f : CacheSt → CacheSt) : (s.cach f).fab = s.fab := rfl
@[simp] theorem State.cach_pending (s : State) (f : CacheSt → CacheSt) : (s.cach f).pending = s.pending := rfl
@[simp] theorem State.cach_rd (s : State) (f : CacheSt → CacheSt) (o : Nat) : (s.cach f).rd o = s.rd o := rfl
@[simp] theorem State.cach_get (s : State) (f : CacheSt → CacheSt) (o : Nat) (g : Fld) : (s.cach f).get o g = s.get o g := rfl
@[simp] theorem State.cach_cache (s : State) (f : CacheSt → CacheSt) : (s.cach f).cache = f s.cache := rfl
@[simp] theorem State.nrg_cfg (s : State) (f : EnergySt → EnergySt) : (s.nrg f).cfg = s.cfg := rfl
@[simp] theorem State.nrg_regs (s : State) (f : EnergySt → EnergySt) : (s.nrg f).regs = s.regs := rfl
@[simp] theorem State.nrg_now (s : State) (f : EnergySt → EnergySt) : (s.nrg f).now = s.now := rfl
@[simp] theorem State.nrg_pcNow (s : State) (f : EnergySt → EnergySt) : (s.nrg f).pcNow = s.pcNow := rfl
@[simp] theorem State.nrg_pcRem (s : State) (f : EnergySt → EnergySt) : (s.nrg f).pcRem = s.pcRem := rfl
@[simp] theorem State.nrg_pcDev (s : State) (f : EnergySt → EnergySt) : (s.nrg f).pcDev = s.pcDev := rfl
@[simp] theorem State.nrg_pcDevRem (s : State) (f : EnergySt → EnergySt) : (s.nrg f).pcDevRem = s.pcDevRem := rfl
@[simp] theorem State.nrg_clockOn (s : State) (f : EnergySt → EnergySt) : (s.nrg f).clockOn = s.clockOn := rfl
@[simp] theorem State.nrg_fuseLoaded (s : State) (f : EnergySt → EnergySt) : (s.nrg f).fuseLoaded = s.fuseLoaded := rfl
@[simp] theorem State.nrg_porstLow (s : State) (f : EnergySt → EnergySt) : (s.nrg f).porstLow = s.porstLow := rfl
@[simp] theorem State.nrg_srstLow (s : State) (f : EnergySt → EnergySt) : (s.nrg f).srstLow = s.srstLow := rfl
@[simp] theorem State.nrg_railLost (s : State) (f : EnergySt → EnergySt) : (s.nrg f).railLost = s.railLost := rfl
@[simp] theorem State.nrg_fused (s : State) (f : EnergySt → EnergySt) : (s.nrg f).fused = s.fused := rfl
@[simp] theorem State.nrg_freeCtr (s : State) (f : EnergySt → EnergySt) : (s.nrg f).freeCtr = s.freeCtr := rfl
@[simp] theorem State.nrg_array (s : State) (f : EnergySt → EnergySt) : (s.nrg f).array = s.array := rfl
@[simp] theorem State.nrg_rims (s : State) (f : EnergySt → EnergySt) : (s.nrg f).rims = s.rims := rfl
@[simp] theorem State.nrg_hub (s : State) (f : EnergySt → EnergySt) : (s.nrg f).hub = s.hub := rfl
@[simp] theorem State.nrg_ports (s : State) (f : EnergySt → EnergySt) : (s.nrg f).ports = s.ports := rfl
@[simp] theorem State.nrg_handles (s : State) (f : EnergySt → EnergySt) : (s.nrg f).handles = s.handles := rfl
@[simp] theorem State.nrg_hcmd (s : State) (f : EnergySt → EnergySt) : (s.nrg f).hcmd = s.hcmd := rfl
@[simp] theorem State.nrg_regul (s : State) (f : EnergySt → EnergySt) : (s.nrg f).regul = s.regul := rfl
@[simp] theorem State.nrg_psnLog (s : State) (f : EnergySt → EnergySt) : (s.nrg f).psnLog = s.psnLog := rfl
@[simp] theorem State.nrg_captured (s : State) (f : EnergySt → EnergySt) : (s.nrg f).captured = s.captured := rfl
@[simp] theorem State.nrg_reply (s : State) (f : EnergySt → EnergySt) : (s.nrg f).reply = s.reply := rfl
@[simp] theorem State.nrg_shareHeld (s : State) (f : EnergySt → EnergySt) : (s.nrg f).shareHeld = s.shareHeld := rfl
@[simp] theorem State.nrg_domUp (s : State) (f : EnergySt → EnergySt) : (s.nrg f).domUp = s.domUp := rfl
@[simp] theorem State.nrg_domDead (s : State) (f : EnergySt → EnergySt) : (s.nrg f).domDead = s.domDead := rfl
@[simp] theorem State.nrg_wakes (s : State) (f : EnergySt → EnergySt) : (s.nrg f).wakes = s.wakes := rfl
@[simp] theorem State.nrg_sync (s : State) (f : EnergySt → EnergySt) : (s.nrg f).sync = s.sync := rfl
@[simp] theorem State.nrg_cache (s : State) (f : EnergySt → EnergySt) : (s.nrg f).cache = s.cache := rfl
@[simp] theorem State.nrg_mport (s : State) (f : EnergySt → EnergySt) : (s.nrg f).mport = s.mport := rfl
@[simp] theorem State.nrg_mpCtr (s : State) (f : EnergySt → EnergySt) : (s.nrg f).mpCtr = s.mpCtr := rfl
@[simp] theorem State.nrg_mpRr (s : State) (f : EnergySt → EnergySt) : (s.nrg f).mpRr = s.mpRr := rfl
@[simp] theorem State.nrg_engScale (s : State) (f : EnergySt → EnergySt) : (s.nrg f).engScale = s.engScale := rfl
@[simp] theorem State.nrg_spokeHeld (s : State) (f : EnergySt → EnergySt) : (s.nrg f).spokeHeld = s.spokeHeld := rfl
@[simp] theorem State.nrg_chans (s : State) (f : EnergySt → EnergySt) : (s.nrg f).chans = s.chans := rfl
@[simp] theorem State.nrg_engRr (s : State) (f : EnergySt → EnergySt) : (s.nrg f).engRr = s.engRr := rfl
@[simp] theorem State.nrg_recd (s : State) (f : EnergySt → EnergySt) : (s.nrg f).recd = s.recd := rfl
@[simp] theorem State.nrg_integ (s : State) (f : EnergySt → EnergySt) : (s.nrg f).integ = s.integ := rfl
@[simp] theorem State.nrg_test (s : State) (f : EnergySt → EnergySt) : (s.nrg f).test = s.test := rfl
@[simp] theorem State.nrg_life (s : State) (f : EnergySt → EnergySt) : (s.nrg f).life = s.life := rfl
@[simp] theorem State.nrg_raq (s : State) (f : EnergySt → EnergySt) : (s.nrg f).raq = s.raq := rfl
@[simp] theorem State.nrg_klen (s : State) (f : EnergySt → EnergySt) : (s.nrg f).klen = s.klen := rfl
@[simp] theorem State.nrg_link (s : State) (f : EnergySt → EnergySt) : (s.nrg f).link = s.link := rfl
@[simp] theorem State.nrg_win (s : State) (f : EnergySt → EnergySt) : (s.nrg f).win = s.win := rfl
@[simp] theorem State.nrg_fw (s : State) (f : EnergySt → EnergySt) : (s.nrg f).fw = s.fw := rfl
@[simp] theorem State.nrg_fab (s : State) (f : EnergySt → EnergySt) : (s.nrg f).fab = s.fab := rfl
@[simp] theorem State.nrg_pending (s : State) (f : EnergySt → EnergySt) : (s.nrg f).pending = s.pending := rfl
@[simp] theorem State.nrg_rd (s : State) (f : EnergySt → EnergySt) (o : Nat) : (s.nrg f).rd o = s.rd o := rfl
@[simp] theorem State.nrg_get (s : State) (f : EnergySt → EnergySt) (o : Nat) (g : Fld) : (s.nrg f).get o g = s.get o g := rfl
@[simp] theorem State.nrg_energyAcc (s : State) (f : EnergySt → EnergySt) : (s.nrg f).energyAcc = f s.energyAcc := rfl
@[simp] theorem State.hubf_cfg (s : State) (f : HubSt → HubSt) : (s.hubf f).cfg = s.cfg := rfl
@[simp] theorem State.hubf_regs (s : State) (f : HubSt → HubSt) : (s.hubf f).regs = s.regs := rfl
@[simp] theorem State.hubf_now (s : State) (f : HubSt → HubSt) : (s.hubf f).now = s.now := rfl
@[simp] theorem State.hubf_pcNow (s : State) (f : HubSt → HubSt) : (s.hubf f).pcNow = s.pcNow := rfl
@[simp] theorem State.hubf_pcRem (s : State) (f : HubSt → HubSt) : (s.hubf f).pcRem = s.pcRem := rfl
@[simp] theorem State.hubf_pcDev (s : State) (f : HubSt → HubSt) : (s.hubf f).pcDev = s.pcDev := rfl
@[simp] theorem State.hubf_pcDevRem (s : State) (f : HubSt → HubSt) : (s.hubf f).pcDevRem = s.pcDevRem := rfl
@[simp] theorem State.hubf_clockOn (s : State) (f : HubSt → HubSt) : (s.hubf f).clockOn = s.clockOn := rfl
@[simp] theorem State.hubf_fuseLoaded (s : State) (f : HubSt → HubSt) : (s.hubf f).fuseLoaded = s.fuseLoaded := rfl
@[simp] theorem State.hubf_porstLow (s : State) (f : HubSt → HubSt) : (s.hubf f).porstLow = s.porstLow := rfl
@[simp] theorem State.hubf_srstLow (s : State) (f : HubSt → HubSt) : (s.hubf f).srstLow = s.srstLow := rfl
@[simp] theorem State.hubf_railLost (s : State) (f : HubSt → HubSt) : (s.hubf f).railLost = s.railLost := rfl
@[simp] theorem State.hubf_fused (s : State) (f : HubSt → HubSt) : (s.hubf f).fused = s.fused := rfl
@[simp] theorem State.hubf_freeCtr (s : State) (f : HubSt → HubSt) : (s.hubf f).freeCtr = s.freeCtr := rfl
@[simp] theorem State.hubf_array (s : State) (f : HubSt → HubSt) : (s.hubf f).array = s.array := rfl
@[simp] theorem State.hubf_rims (s : State) (f : HubSt → HubSt) : (s.hubf f).rims = s.rims := rfl
@[simp] theorem State.hubf_ports (s : State) (f : HubSt → HubSt) : (s.hubf f).ports = s.ports := rfl
@[simp] theorem State.hubf_handles (s : State) (f : HubSt → HubSt) : (s.hubf f).handles = s.handles := rfl
@[simp] theorem State.hubf_hcmd (s : State) (f : HubSt → HubSt) : (s.hubf f).hcmd = s.hcmd := rfl
@[simp] theorem State.hubf_regul (s : State) (f : HubSt → HubSt) : (s.hubf f).regul = s.regul := rfl
@[simp] theorem State.hubf_psnLog (s : State) (f : HubSt → HubSt) : (s.hubf f).psnLog = s.psnLog := rfl
@[simp] theorem State.hubf_captured (s : State) (f : HubSt → HubSt) : (s.hubf f).captured = s.captured := rfl
@[simp] theorem State.hubf_reply (s : State) (f : HubSt → HubSt) : (s.hubf f).reply = s.reply := rfl
@[simp] theorem State.hubf_energyAcc (s : State) (f : HubSt → HubSt) : (s.hubf f).energyAcc = s.energyAcc := rfl
@[simp] theorem State.hubf_shareHeld (s : State) (f : HubSt → HubSt) : (s.hubf f).shareHeld = s.shareHeld := rfl
@[simp] theorem State.hubf_domUp (s : State) (f : HubSt → HubSt) : (s.hubf f).domUp = s.domUp := rfl
@[simp] theorem State.hubf_domDead (s : State) (f : HubSt → HubSt) : (s.hubf f).domDead = s.domDead := rfl
@[simp] theorem State.hubf_wakes (s : State) (f : HubSt → HubSt) : (s.hubf f).wakes = s.wakes := rfl
@[simp] theorem State.hubf_sync (s : State) (f : HubSt → HubSt) : (s.hubf f).sync = s.sync := rfl
@[simp] theorem State.hubf_cache (s : State) (f : HubSt → HubSt) : (s.hubf f).cache = s.cache := rfl
@[simp] theorem State.hubf_mport (s : State) (f : HubSt → HubSt) : (s.hubf f).mport = s.mport := rfl
@[simp] theorem State.hubf_mpCtr (s : State) (f : HubSt → HubSt) : (s.hubf f).mpCtr = s.mpCtr := rfl
@[simp] theorem State.hubf_mpRr (s : State) (f : HubSt → HubSt) : (s.hubf f).mpRr = s.mpRr := rfl
@[simp] theorem State.hubf_engScale (s : State) (f : HubSt → HubSt) : (s.hubf f).engScale = s.engScale := rfl
@[simp] theorem State.hubf_spokeHeld (s : State) (f : HubSt → HubSt) : (s.hubf f).spokeHeld = s.spokeHeld := rfl
@[simp] theorem State.hubf_chans (s : State) (f : HubSt → HubSt) : (s.hubf f).chans = s.chans := rfl
@[simp] theorem State.hubf_engRr (s : State) (f : HubSt → HubSt) : (s.hubf f).engRr = s.engRr := rfl
@[simp] theorem State.hubf_recd (s : State) (f : HubSt → HubSt) : (s.hubf f).recd = s.recd := rfl
@[simp] theorem State.hubf_integ (s : State) (f : HubSt → HubSt) : (s.hubf f).integ = s.integ := rfl
@[simp] theorem State.hubf_test (s : State) (f : HubSt → HubSt) : (s.hubf f).test = s.test := rfl
@[simp] theorem State.hubf_life (s : State) (f : HubSt → HubSt) : (s.hubf f).life = s.life := rfl
@[simp] theorem State.hubf_raq (s : State) (f : HubSt → HubSt) : (s.hubf f).raq = s.raq := rfl
@[simp] theorem State.hubf_klen (s : State) (f : HubSt → HubSt) : (s.hubf f).klen = s.klen := rfl
@[simp] theorem State.hubf_link (s : State) (f : HubSt → HubSt) : (s.hubf f).link = s.link := rfl
@[simp] theorem State.hubf_win (s : State) (f : HubSt → HubSt) : (s.hubf f).win = s.win := rfl
@[simp] theorem State.hubf_fw (s : State) (f : HubSt → HubSt) : (s.hubf f).fw = s.fw := rfl
@[simp] theorem State.hubf_fab (s : State) (f : HubSt → HubSt) : (s.hubf f).fab = s.fab := rfl
@[simp] theorem State.hubf_pending (s : State) (f : HubSt → HubSt) : (s.hubf f).pending = s.pending := rfl
@[simp] theorem State.hubf_rd (s : State) (f : HubSt → HubSt) (o : Nat) : (s.hubf f).rd o = s.rd o := rfl
@[simp] theorem State.hubf_get (s : State) (f : HubSt → HubSt) (o : Nat) (g : Fld) : (s.hubf f).get o g = s.get o g := rfl
@[simp] theorem State.hubf_hub (s : State) (f : HubSt → HubSt) : (s.hubf f).hub = f s.hub := rfl
@[simp] theorem State.syn_cfg (s : State) (f : SyncSt → SyncSt) : (s.syn f).cfg = s.cfg := rfl
@[simp] theorem State.syn_regs (s : State) (f : SyncSt → SyncSt) : (s.syn f).regs = s.regs := rfl
@[simp] theorem State.syn_now (s : State) (f : SyncSt → SyncSt) : (s.syn f).now = s.now := rfl
@[simp] theorem State.syn_pcNow (s : State) (f : SyncSt → SyncSt) : (s.syn f).pcNow = s.pcNow := rfl
@[simp] theorem State.syn_pcRem (s : State) (f : SyncSt → SyncSt) : (s.syn f).pcRem = s.pcRem := rfl
@[simp] theorem State.syn_pcDev (s : State) (f : SyncSt → SyncSt) : (s.syn f).pcDev = s.pcDev := rfl
@[simp] theorem State.syn_pcDevRem (s : State) (f : SyncSt → SyncSt) : (s.syn f).pcDevRem = s.pcDevRem := rfl
@[simp] theorem State.syn_clockOn (s : State) (f : SyncSt → SyncSt) : (s.syn f).clockOn = s.clockOn := rfl
@[simp] theorem State.syn_fuseLoaded (s : State) (f : SyncSt → SyncSt) : (s.syn f).fuseLoaded = s.fuseLoaded := rfl
@[simp] theorem State.syn_porstLow (s : State) (f : SyncSt → SyncSt) : (s.syn f).porstLow = s.porstLow := rfl
@[simp] theorem State.syn_srstLow (s : State) (f : SyncSt → SyncSt) : (s.syn f).srstLow = s.srstLow := rfl
@[simp] theorem State.syn_railLost (s : State) (f : SyncSt → SyncSt) : (s.syn f).railLost = s.railLost := rfl
@[simp] theorem State.syn_fused (s : State) (f : SyncSt → SyncSt) : (s.syn f).fused = s.fused := rfl
@[simp] theorem State.syn_freeCtr (s : State) (f : SyncSt → SyncSt) : (s.syn f).freeCtr = s.freeCtr := rfl
@[simp] theorem State.syn_array (s : State) (f : SyncSt → SyncSt) : (s.syn f).array = s.array := rfl
@[simp] theorem State.syn_rims (s : State) (f : SyncSt → SyncSt) : (s.syn f).rims = s.rims := rfl
@[simp] theorem State.syn_hub (s : State) (f : SyncSt → SyncSt) : (s.syn f).hub = s.hub := rfl
@[simp] theorem State.syn_ports (s : State) (f : SyncSt → SyncSt) : (s.syn f).ports = s.ports := rfl
@[simp] theorem State.syn_handles (s : State) (f : SyncSt → SyncSt) : (s.syn f).handles = s.handles := rfl
@[simp] theorem State.syn_hcmd (s : State) (f : SyncSt → SyncSt) : (s.syn f).hcmd = s.hcmd := rfl
@[simp] theorem State.syn_regul (s : State) (f : SyncSt → SyncSt) : (s.syn f).regul = s.regul := rfl
@[simp] theorem State.syn_psnLog (s : State) (f : SyncSt → SyncSt) : (s.syn f).psnLog = s.psnLog := rfl
@[simp] theorem State.syn_captured (s : State) (f : SyncSt → SyncSt) : (s.syn f).captured = s.captured := rfl
@[simp] theorem State.syn_reply (s : State) (f : SyncSt → SyncSt) : (s.syn f).reply = s.reply := rfl
@[simp] theorem State.syn_energyAcc (s : State) (f : SyncSt → SyncSt) : (s.syn f).energyAcc = s.energyAcc := rfl
@[simp] theorem State.syn_shareHeld (s : State) (f : SyncSt → SyncSt) : (s.syn f).shareHeld = s.shareHeld := rfl
@[simp] theorem State.syn_domUp (s : State) (f : SyncSt → SyncSt) : (s.syn f).domUp = s.domUp := rfl
@[simp] theorem State.syn_domDead (s : State) (f : SyncSt → SyncSt) : (s.syn f).domDead = s.domDead := rfl
@[simp] theorem State.syn_wakes (s : State) (f : SyncSt → SyncSt) : (s.syn f).wakes = s.wakes := rfl
@[simp] theorem State.syn_cache (s : State) (f : SyncSt → SyncSt) : (s.syn f).cache = s.cache := rfl
@[simp] theorem State.syn_mport (s : State) (f : SyncSt → SyncSt) : (s.syn f).mport = s.mport := rfl
@[simp] theorem State.syn_mpCtr (s : State) (f : SyncSt → SyncSt) : (s.syn f).mpCtr = s.mpCtr := rfl
@[simp] theorem State.syn_mpRr (s : State) (f : SyncSt → SyncSt) : (s.syn f).mpRr = s.mpRr := rfl
@[simp] theorem State.syn_engScale (s : State) (f : SyncSt → SyncSt) : (s.syn f).engScale = s.engScale := rfl
@[simp] theorem State.syn_spokeHeld (s : State) (f : SyncSt → SyncSt) : (s.syn f).spokeHeld = s.spokeHeld := rfl
@[simp] theorem State.syn_chans (s : State) (f : SyncSt → SyncSt) : (s.syn f).chans = s.chans := rfl
@[simp] theorem State.syn_engRr (s : State) (f : SyncSt → SyncSt) : (s.syn f).engRr = s.engRr := rfl
@[simp] theorem State.syn_recd (s : State) (f : SyncSt → SyncSt) : (s.syn f).recd = s.recd := rfl
@[simp] theorem State.syn_integ (s : State) (f : SyncSt → SyncSt) : (s.syn f).integ = s.integ := rfl
@[simp] theorem State.syn_test (s : State) (f : SyncSt → SyncSt) : (s.syn f).test = s.test := rfl
@[simp] theorem State.syn_life (s : State) (f : SyncSt → SyncSt) : (s.syn f).life = s.life := rfl
@[simp] theorem State.syn_raq (s : State) (f : SyncSt → SyncSt) : (s.syn f).raq = s.raq := rfl
@[simp] theorem State.syn_klen (s : State) (f : SyncSt → SyncSt) : (s.syn f).klen = s.klen := rfl
@[simp] theorem State.syn_link (s : State) (f : SyncSt → SyncSt) : (s.syn f).link = s.link := rfl
@[simp] theorem State.syn_win (s : State) (f : SyncSt → SyncSt) : (s.syn f).win = s.win := rfl
@[simp] theorem State.syn_fw (s : State) (f : SyncSt → SyncSt) : (s.syn f).fw = s.fw := rfl
@[simp] theorem State.syn_fab (s : State) (f : SyncSt → SyncSt) : (s.syn f).fab = s.fab := rfl
@[simp] theorem State.syn_pending (s : State) (f : SyncSt → SyncSt) : (s.syn f).pending = s.pending := rfl
@[simp] theorem State.syn_rd (s : State) (f : SyncSt → SyncSt) (o : Nat) : (s.syn f).rd o = s.rd o := rfl
@[simp] theorem State.syn_get (s : State) (f : SyncSt → SyncSt) (o : Nat) (g : Fld) : (s.syn f).get o g = s.get o g := rfl
@[simp] theorem State.syn_sync (s : State) (f : SyncSt → SyncSt) : (s.syn f).sync = f s.sync := rfl
@[simp] theorem State.lif_cfg (s : State) (f : LifeSt → LifeSt) : (s.lif f).cfg = s.cfg := rfl
@[simp] theorem State.lif_regs (s : State) (f : LifeSt → LifeSt) : (s.lif f).regs = s.regs := rfl
@[simp] theorem State.lif_now (s : State) (f : LifeSt → LifeSt) : (s.lif f).now = s.now := rfl
@[simp] theorem State.lif_pcNow (s : State) (f : LifeSt → LifeSt) : (s.lif f).pcNow = s.pcNow := rfl
@[simp] theorem State.lif_pcRem (s : State) (f : LifeSt → LifeSt) : (s.lif f).pcRem = s.pcRem := rfl
@[simp] theorem State.lif_pcDev (s : State) (f : LifeSt → LifeSt) : (s.lif f).pcDev = s.pcDev := rfl
@[simp] theorem State.lif_pcDevRem (s : State) (f : LifeSt → LifeSt) : (s.lif f).pcDevRem = s.pcDevRem := rfl
@[simp] theorem State.lif_clockOn (s : State) (f : LifeSt → LifeSt) : (s.lif f).clockOn = s.clockOn := rfl
@[simp] theorem State.lif_fuseLoaded (s : State) (f : LifeSt → LifeSt) : (s.lif f).fuseLoaded = s.fuseLoaded := rfl
@[simp] theorem State.lif_porstLow (s : State) (f : LifeSt → LifeSt) : (s.lif f).porstLow = s.porstLow := rfl
@[simp] theorem State.lif_srstLow (s : State) (f : LifeSt → LifeSt) : (s.lif f).srstLow = s.srstLow := rfl
@[simp] theorem State.lif_railLost (s : State) (f : LifeSt → LifeSt) : (s.lif f).railLost = s.railLost := rfl
@[simp] theorem State.lif_fused (s : State) (f : LifeSt → LifeSt) : (s.lif f).fused = s.fused := rfl
@[simp] theorem State.lif_freeCtr (s : State) (f : LifeSt → LifeSt) : (s.lif f).freeCtr = s.freeCtr := rfl
@[simp] theorem State.lif_array (s : State) (f : LifeSt → LifeSt) : (s.lif f).array = s.array := rfl
@[simp] theorem State.lif_rims (s : State) (f : LifeSt → LifeSt) : (s.lif f).rims = s.rims := rfl
@[simp] theorem State.lif_hub (s : State) (f : LifeSt → LifeSt) : (s.lif f).hub = s.hub := rfl
@[simp] theorem State.lif_ports (s : State) (f : LifeSt → LifeSt) : (s.lif f).ports = s.ports := rfl
@[simp] theorem State.lif_handles (s : State) (f : LifeSt → LifeSt) : (s.lif f).handles = s.handles := rfl
@[simp] theorem State.lif_hcmd (s : State) (f : LifeSt → LifeSt) : (s.lif f).hcmd = s.hcmd := rfl
@[simp] theorem State.lif_regul (s : State) (f : LifeSt → LifeSt) : (s.lif f).regul = s.regul := rfl
@[simp] theorem State.lif_psnLog (s : State) (f : LifeSt → LifeSt) : (s.lif f).psnLog = s.psnLog := rfl
@[simp] theorem State.lif_captured (s : State) (f : LifeSt → LifeSt) : (s.lif f).captured = s.captured := rfl
@[simp] theorem State.lif_reply (s : State) (f : LifeSt → LifeSt) : (s.lif f).reply = s.reply := rfl
@[simp] theorem State.lif_energyAcc (s : State) (f : LifeSt → LifeSt) : (s.lif f).energyAcc = s.energyAcc := rfl
@[simp] theorem State.lif_shareHeld (s : State) (f : LifeSt → LifeSt) : (s.lif f).shareHeld = s.shareHeld := rfl
@[simp] theorem State.lif_domUp (s : State) (f : LifeSt → LifeSt) : (s.lif f).domUp = s.domUp := rfl
@[simp] theorem State.lif_domDead (s : State) (f : LifeSt → LifeSt) : (s.lif f).domDead = s.domDead := rfl
@[simp] theorem State.lif_wakes (s : State) (f : LifeSt → LifeSt) : (s.lif f).wakes = s.wakes := rfl
@[simp] theorem State.lif_sync (s : State) (f : LifeSt → LifeSt) : (s.lif f).sync = s.sync := rfl
@[simp] theorem State.lif_cache (s : State) (f : LifeSt → LifeSt) : (s.lif f).cache = s.cache := rfl
@[simp] theorem State.lif_mport (s : State) (f : LifeSt → LifeSt) : (s.lif f).mport = s.mport := rfl
@[simp] theorem State.lif_mpCtr (s : State) (f : LifeSt → LifeSt) : (s.lif f).mpCtr = s.mpCtr := rfl
@[simp] theorem State.lif_mpRr (s : State) (f : LifeSt → LifeSt) : (s.lif f).mpRr = s.mpRr := rfl
@[simp] theorem State.lif_engScale (s : State) (f : LifeSt → LifeSt) : (s.lif f).engScale = s.engScale := rfl
@[simp] theorem State.lif_spokeHeld (s : State) (f : LifeSt → LifeSt) : (s.lif f).spokeHeld = s.spokeHeld := rfl
@[simp] theorem State.lif_chans (s : State) (f : LifeSt → LifeSt) : (s.lif f).chans = s.chans := rfl
@[simp] theorem State.lif_engRr (s : State) (f : LifeSt → LifeSt) : (s.lif f).engRr = s.engRr := rfl
@[simp] theorem State.lif_recd (s : State) (f : LifeSt → LifeSt) : (s.lif f).recd = s.recd := rfl
@[simp] theorem State.lif_integ (s : State) (f : LifeSt → LifeSt) : (s.lif f).integ = s.integ := rfl
@[simp] theorem State.lif_test (s : State) (f : LifeSt → LifeSt) : (s.lif f).test = s.test := rfl
@[simp] theorem State.lif_raq (s : State) (f : LifeSt → LifeSt) : (s.lif f).raq = s.raq := rfl
@[simp] theorem State.lif_klen (s : State) (f : LifeSt → LifeSt) : (s.lif f).klen = s.klen := rfl
@[simp] theorem State.lif_link (s : State) (f : LifeSt → LifeSt) : (s.lif f).link = s.link := rfl
@[simp] theorem State.lif_win (s : State) (f : LifeSt → LifeSt) : (s.lif f).win = s.win := rfl
@[simp] theorem State.lif_fw (s : State) (f : LifeSt → LifeSt) : (s.lif f).fw = s.fw := rfl
@[simp] theorem State.lif_fab (s : State) (f : LifeSt → LifeSt) : (s.lif f).fab = s.fab := rfl
@[simp] theorem State.lif_pending (s : State) (f : LifeSt → LifeSt) : (s.lif f).pending = s.pending := rfl
@[simp] theorem State.lif_rd (s : State) (f : LifeSt → LifeSt) (o : Nat) : (s.lif f).rd o = s.rd o := rfl
@[simp] theorem State.lif_get (s : State) (f : LifeSt → LifeSt) (o : Nat) (g : Fld) : (s.lif f).get o g = s.get o g := rfl
@[simp] theorem State.lif_life (s : State) (f : LifeSt → LifeSt) : (s.lif f).life = f s.life := rfl
@[simp] theorem State.lnk_cfg (s : State) (f : LinkSt → LinkSt) : (s.lnk f).cfg = s.cfg := rfl
@[simp] theorem State.lnk_regs (s : State) (f : LinkSt → LinkSt) : (s.lnk f).regs = s.regs := rfl
@[simp] theorem State.lnk_now (s : State) (f : LinkSt → LinkSt) : (s.lnk f).now = s.now := rfl
@[simp] theorem State.lnk_pcNow (s : State) (f : LinkSt → LinkSt) : (s.lnk f).pcNow = s.pcNow := rfl
@[simp] theorem State.lnk_pcRem (s : State) (f : LinkSt → LinkSt) : (s.lnk f).pcRem = s.pcRem := rfl
@[simp] theorem State.lnk_pcDev (s : State) (f : LinkSt → LinkSt) : (s.lnk f).pcDev = s.pcDev := rfl
@[simp] theorem State.lnk_pcDevRem (s : State) (f : LinkSt → LinkSt) : (s.lnk f).pcDevRem = s.pcDevRem := rfl
@[simp] theorem State.lnk_clockOn (s : State) (f : LinkSt → LinkSt) : (s.lnk f).clockOn = s.clockOn := rfl
@[simp] theorem State.lnk_fuseLoaded (s : State) (f : LinkSt → LinkSt) : (s.lnk f).fuseLoaded = s.fuseLoaded := rfl
@[simp] theorem State.lnk_porstLow (s : State) (f : LinkSt → LinkSt) : (s.lnk f).porstLow = s.porstLow := rfl
@[simp] theorem State.lnk_srstLow (s : State) (f : LinkSt → LinkSt) : (s.lnk f).srstLow = s.srstLow := rfl
@[simp] theorem State.lnk_railLost (s : State) (f : LinkSt → LinkSt) : (s.lnk f).railLost = s.railLost := rfl
@[simp] theorem State.lnk_fused (s : State) (f : LinkSt → LinkSt) : (s.lnk f).fused = s.fused := rfl
@[simp] theorem State.lnk_freeCtr (s : State) (f : LinkSt → LinkSt) : (s.lnk f).freeCtr = s.freeCtr := rfl
@[simp] theorem State.lnk_array (s : State) (f : LinkSt → LinkSt) : (s.lnk f).array = s.array := rfl
@[simp] theorem State.lnk_rims (s : State) (f : LinkSt → LinkSt) : (s.lnk f).rims = s.rims := rfl
@[simp] theorem State.lnk_hub (s : State) (f : LinkSt → LinkSt) : (s.lnk f).hub = s.hub := rfl
@[simp] theorem State.lnk_ports (s : State) (f : LinkSt → LinkSt) : (s.lnk f).ports = s.ports := rfl
@[simp] theorem State.lnk_handles (s : State) (f : LinkSt → LinkSt) : (s.lnk f).handles = s.handles := rfl
@[simp] theorem State.lnk_hcmd (s : State) (f : LinkSt → LinkSt) : (s.lnk f).hcmd = s.hcmd := rfl
@[simp] theorem State.lnk_regul (s : State) (f : LinkSt → LinkSt) : (s.lnk f).regul = s.regul := rfl
@[simp] theorem State.lnk_psnLog (s : State) (f : LinkSt → LinkSt) : (s.lnk f).psnLog = s.psnLog := rfl
@[simp] theorem State.lnk_captured (s : State) (f : LinkSt → LinkSt) : (s.lnk f).captured = s.captured := rfl
@[simp] theorem State.lnk_reply (s : State) (f : LinkSt → LinkSt) : (s.lnk f).reply = s.reply := rfl
@[simp] theorem State.lnk_energyAcc (s : State) (f : LinkSt → LinkSt) : (s.lnk f).energyAcc = s.energyAcc := rfl
@[simp] theorem State.lnk_shareHeld (s : State) (f : LinkSt → LinkSt) : (s.lnk f).shareHeld = s.shareHeld := rfl
@[simp] theorem State.lnk_domUp (s : State) (f : LinkSt → LinkSt) : (s.lnk f).domUp = s.domUp := rfl
@[simp] theorem State.lnk_domDead (s : State) (f : LinkSt → LinkSt) : (s.lnk f).domDead = s.domDead := rfl
@[simp] theorem State.lnk_wakes (s : State) (f : LinkSt → LinkSt) : (s.lnk f).wakes = s.wakes := rfl
@[simp] theorem State.lnk_sync (s : State) (f : LinkSt → LinkSt) : (s.lnk f).sync = s.sync := rfl
@[simp] theorem State.lnk_cache (s : State) (f : LinkSt → LinkSt) : (s.lnk f).cache = s.cache := rfl
@[simp] theorem State.lnk_mport (s : State) (f : LinkSt → LinkSt) : (s.lnk f).mport = s.mport := rfl
@[simp] theorem State.lnk_mpCtr (s : State) (f : LinkSt → LinkSt) : (s.lnk f).mpCtr = s.mpCtr := rfl
@[simp] theorem State.lnk_mpRr (s : State) (f : LinkSt → LinkSt) : (s.lnk f).mpRr = s.mpRr := rfl
@[simp] theorem State.lnk_engScale (s : State) (f : LinkSt → LinkSt) : (s.lnk f).engScale = s.engScale := rfl
@[simp] theorem State.lnk_spokeHeld (s : State) (f : LinkSt → LinkSt) : (s.lnk f).spokeHeld = s.spokeHeld := rfl
@[simp] theorem State.lnk_chans (s : State) (f : LinkSt → LinkSt) : (s.lnk f).chans = s.chans := rfl
@[simp] theorem State.lnk_engRr (s : State) (f : LinkSt → LinkSt) : (s.lnk f).engRr = s.engRr := rfl
@[simp] theorem State.lnk_recd (s : State) (f : LinkSt → LinkSt) : (s.lnk f).recd = s.recd := rfl
@[simp] theorem State.lnk_integ (s : State) (f : LinkSt → LinkSt) : (s.lnk f).integ = s.integ := rfl
@[simp] theorem State.lnk_test (s : State) (f : LinkSt → LinkSt) : (s.lnk f).test = s.test := rfl
@[simp] theorem State.lnk_life (s : State) (f : LinkSt → LinkSt) : (s.lnk f).life = s.life := rfl
@[simp] theorem State.lnk_raq (s : State) (f : LinkSt → LinkSt) : (s.lnk f).raq = s.raq := rfl
@[simp] theorem State.lnk_klen (s : State) (f : LinkSt → LinkSt) : (s.lnk f).klen = s.klen := rfl
@[simp] theorem State.lnk_win (s : State) (f : LinkSt → LinkSt) : (s.lnk f).win = s.win := rfl
@[simp] theorem State.lnk_fw (s : State) (f : LinkSt → LinkSt) : (s.lnk f).fw = s.fw := rfl
@[simp] theorem State.lnk_fab (s : State) (f : LinkSt → LinkSt) : (s.lnk f).fab = s.fab := rfl
@[simp] theorem State.lnk_pending (s : State) (f : LinkSt → LinkSt) : (s.lnk f).pending = s.pending := rfl
@[simp] theorem State.lnk_rd (s : State) (f : LinkSt → LinkSt) (o : Nat) : (s.lnk f).rd o = s.rd o := rfl
@[simp] theorem State.lnk_get (s : State) (f : LinkSt → LinkSt) (o : Nat) (g : Fld) : (s.lnk f).get o g = s.get o g := rfl
@[simp] theorem State.lnk_link (s : State) (f : LinkSt → LinkSt) : (s.lnk f).link = f s.link := rfl
@[simp] theorem State.wnu_cfg (s : State) (f : WinSt → WinSt) : (s.wnu f).cfg = s.cfg := rfl
@[simp] theorem State.wnu_regs (s : State) (f : WinSt → WinSt) : (s.wnu f).regs = s.regs := rfl
@[simp] theorem State.wnu_now (s : State) (f : WinSt → WinSt) : (s.wnu f).now = s.now := rfl
@[simp] theorem State.wnu_pcNow (s : State) (f : WinSt → WinSt) : (s.wnu f).pcNow = s.pcNow := rfl
@[simp] theorem State.wnu_pcRem (s : State) (f : WinSt → WinSt) : (s.wnu f).pcRem = s.pcRem := rfl
@[simp] theorem State.wnu_pcDev (s : State) (f : WinSt → WinSt) : (s.wnu f).pcDev = s.pcDev := rfl
@[simp] theorem State.wnu_pcDevRem (s : State) (f : WinSt → WinSt) : (s.wnu f).pcDevRem = s.pcDevRem := rfl
@[simp] theorem State.wnu_clockOn (s : State) (f : WinSt → WinSt) : (s.wnu f).clockOn = s.clockOn := rfl
@[simp] theorem State.wnu_fuseLoaded (s : State) (f : WinSt → WinSt) : (s.wnu f).fuseLoaded = s.fuseLoaded := rfl
@[simp] theorem State.wnu_porstLow (s : State) (f : WinSt → WinSt) : (s.wnu f).porstLow = s.porstLow := rfl
@[simp] theorem State.wnu_srstLow (s : State) (f : WinSt → WinSt) : (s.wnu f).srstLow = s.srstLow := rfl
@[simp] theorem State.wnu_railLost (s : State) (f : WinSt → WinSt) : (s.wnu f).railLost = s.railLost := rfl
@[simp] theorem State.wnu_fused (s : State) (f : WinSt → WinSt) : (s.wnu f).fused = s.fused := rfl
@[simp] theorem State.wnu_freeCtr (s : State) (f : WinSt → WinSt) : (s.wnu f).freeCtr = s.freeCtr := rfl
@[simp] theorem State.wnu_array (s : State) (f : WinSt → WinSt) : (s.wnu f).array = s.array := rfl
@[simp] theorem State.wnu_rims (s : State) (f : WinSt → WinSt) : (s.wnu f).rims = s.rims := rfl
@[simp] theorem State.wnu_hub (s : State) (f : WinSt → WinSt) : (s.wnu f).hub = s.hub := rfl
@[simp] theorem State.wnu_ports (s : State) (f : WinSt → WinSt) : (s.wnu f).ports = s.ports := rfl
@[simp] theorem State.wnu_handles (s : State) (f : WinSt → WinSt) : (s.wnu f).handles = s.handles := rfl
@[simp] theorem State.wnu_hcmd (s : State) (f : WinSt → WinSt) : (s.wnu f).hcmd = s.hcmd := rfl
@[simp] theorem State.wnu_regul (s : State) (f : WinSt → WinSt) : (s.wnu f).regul = s.regul := rfl
@[simp] theorem State.wnu_psnLog (s : State) (f : WinSt → WinSt) : (s.wnu f).psnLog = s.psnLog := rfl
@[simp] theorem State.wnu_captured (s : State) (f : WinSt → WinSt) : (s.wnu f).captured = s.captured := rfl
@[simp] theorem State.wnu_reply (s : State) (f : WinSt → WinSt) : (s.wnu f).reply = s.reply := rfl
@[simp] theorem State.wnu_energyAcc (s : State) (f : WinSt → WinSt) : (s.wnu f).energyAcc = s.energyAcc := rfl
@[simp] theorem State.wnu_shareHeld (s : State) (f : WinSt → WinSt) : (s.wnu f).shareHeld = s.shareHeld := rfl
@[simp] theorem State.wnu_domUp (s : State) (f : WinSt → WinSt) : (s.wnu f).domUp = s.domUp := rfl
@[simp] theorem State.wnu_domDead (s : State) (f : WinSt → WinSt) : (s.wnu f).domDead = s.domDead := rfl
@[simp] theorem State.wnu_wakes (s : State) (f : WinSt → WinSt) : (s.wnu f).wakes = s.wakes := rfl
@[simp] theorem State.wnu_sync (s : State) (f : WinSt → WinSt) : (s.wnu f).sync = s.sync := rfl
@[simp] theorem State.wnu_cache (s : State) (f : WinSt → WinSt) : (s.wnu f).cache = s.cache := rfl
@[simp] theorem State.wnu_mport (s : State) (f : WinSt → WinSt) : (s.wnu f).mport = s.mport := rfl
@[simp] theorem State.wnu_mpCtr (s : State) (f : WinSt → WinSt) : (s.wnu f).mpCtr = s.mpCtr := rfl
@[simp] theorem State.wnu_mpRr (s : State) (f : WinSt → WinSt) : (s.wnu f).mpRr = s.mpRr := rfl
@[simp] theorem State.wnu_engScale (s : State) (f : WinSt → WinSt) : (s.wnu f).engScale = s.engScale := rfl
@[simp] theorem State.wnu_spokeHeld (s : State) (f : WinSt → WinSt) : (s.wnu f).spokeHeld = s.spokeHeld := rfl
@[simp] theorem State.wnu_chans (s : State) (f : WinSt → WinSt) : (s.wnu f).chans = s.chans := rfl
@[simp] theorem State.wnu_engRr (s : State) (f : WinSt → WinSt) : (s.wnu f).engRr = s.engRr := rfl
@[simp] theorem State.wnu_recd (s : State) (f : WinSt → WinSt) : (s.wnu f).recd = s.recd := rfl
@[simp] theorem State.wnu_integ (s : State) (f : WinSt → WinSt) : (s.wnu f).integ = s.integ := rfl
@[simp] theorem State.wnu_test (s : State) (f : WinSt → WinSt) : (s.wnu f).test = s.test := rfl
@[simp] theorem State.wnu_life (s : State) (f : WinSt → WinSt) : (s.wnu f).life = s.life := rfl
@[simp] theorem State.wnu_raq (s : State) (f : WinSt → WinSt) : (s.wnu f).raq = s.raq := rfl
@[simp] theorem State.wnu_klen (s : State) (f : WinSt → WinSt) : (s.wnu f).klen = s.klen := rfl
@[simp] theorem State.wnu_link (s : State) (f : WinSt → WinSt) : (s.wnu f).link = s.link := rfl
@[simp] theorem State.wnu_fw (s : State) (f : WinSt → WinSt) : (s.wnu f).fw = s.fw := rfl
@[simp] theorem State.wnu_fab (s : State) (f : WinSt → WinSt) : (s.wnu f).fab = s.fab := rfl
@[simp] theorem State.wnu_pending (s : State) (f : WinSt → WinSt) : (s.wnu f).pending = s.pending := rfl
@[simp] theorem State.wnu_rd (s : State) (f : WinSt → WinSt) (o : Nat) : (s.wnu f).rd o = s.rd o := rfl
@[simp] theorem State.wnu_get (s : State) (f : WinSt → WinSt) (o : Nat) (g : Fld) : (s.wnu f).get o g = s.get o g := rfl
@[simp] theorem State.wnu_win (s : State) (f : WinSt → WinSt) : (s.wnu f).win = f s.win := rfl
@[simp] theorem State.fwm_cfg (s : State) (f : FwSt → FwSt) : (s.fwm f).cfg = s.cfg := rfl
@[simp] theorem State.fwm_regs (s : State) (f : FwSt → FwSt) : (s.fwm f).regs = s.regs := rfl
@[simp] theorem State.fwm_now (s : State) (f : FwSt → FwSt) : (s.fwm f).now = s.now := rfl
@[simp] theorem State.fwm_pcNow (s : State) (f : FwSt → FwSt) : (s.fwm f).pcNow = s.pcNow := rfl
@[simp] theorem State.fwm_pcRem (s : State) (f : FwSt → FwSt) : (s.fwm f).pcRem = s.pcRem := rfl
@[simp] theorem State.fwm_pcDev (s : State) (f : FwSt → FwSt) : (s.fwm f).pcDev = s.pcDev := rfl
@[simp] theorem State.fwm_pcDevRem (s : State) (f : FwSt → FwSt) : (s.fwm f).pcDevRem = s.pcDevRem := rfl
@[simp] theorem State.fwm_clockOn (s : State) (f : FwSt → FwSt) : (s.fwm f).clockOn = s.clockOn := rfl
@[simp] theorem State.fwm_fuseLoaded (s : State) (f : FwSt → FwSt) : (s.fwm f).fuseLoaded = s.fuseLoaded := rfl
@[simp] theorem State.fwm_porstLow (s : State) (f : FwSt → FwSt) : (s.fwm f).porstLow = s.porstLow := rfl
@[simp] theorem State.fwm_srstLow (s : State) (f : FwSt → FwSt) : (s.fwm f).srstLow = s.srstLow := rfl
@[simp] theorem State.fwm_railLost (s : State) (f : FwSt → FwSt) : (s.fwm f).railLost = s.railLost := rfl
@[simp] theorem State.fwm_fused (s : State) (f : FwSt → FwSt) : (s.fwm f).fused = s.fused := rfl
@[simp] theorem State.fwm_freeCtr (s : State) (f : FwSt → FwSt) : (s.fwm f).freeCtr = s.freeCtr := rfl
@[simp] theorem State.fwm_array (s : State) (f : FwSt → FwSt) : (s.fwm f).array = s.array := rfl
@[simp] theorem State.fwm_rims (s : State) (f : FwSt → FwSt) : (s.fwm f).rims = s.rims := rfl
@[simp] theorem State.fwm_hub (s : State) (f : FwSt → FwSt) : (s.fwm f).hub = s.hub := rfl
@[simp] theorem State.fwm_ports (s : State) (f : FwSt → FwSt) : (s.fwm f).ports = s.ports := rfl
@[simp] theorem State.fwm_handles (s : State) (f : FwSt → FwSt) : (s.fwm f).handles = s.handles := rfl
@[simp] theorem State.fwm_hcmd (s : State) (f : FwSt → FwSt) : (s.fwm f).hcmd = s.hcmd := rfl
@[simp] theorem State.fwm_regul (s : State) (f : FwSt → FwSt) : (s.fwm f).regul = s.regul := rfl
@[simp] theorem State.fwm_psnLog (s : State) (f : FwSt → FwSt) : (s.fwm f).psnLog = s.psnLog := rfl
@[simp] theorem State.fwm_captured (s : State) (f : FwSt → FwSt) : (s.fwm f).captured = s.captured := rfl
@[simp] theorem State.fwm_reply (s : State) (f : FwSt → FwSt) : (s.fwm f).reply = s.reply := rfl
@[simp] theorem State.fwm_energyAcc (s : State) (f : FwSt → FwSt) : (s.fwm f).energyAcc = s.energyAcc := rfl
@[simp] theorem State.fwm_shareHeld (s : State) (f : FwSt → FwSt) : (s.fwm f).shareHeld = s.shareHeld := rfl
@[simp] theorem State.fwm_domUp (s : State) (f : FwSt → FwSt) : (s.fwm f).domUp = s.domUp := rfl
@[simp] theorem State.fwm_domDead (s : State) (f : FwSt → FwSt) : (s.fwm f).domDead = s.domDead := rfl
@[simp] theorem State.fwm_wakes (s : State) (f : FwSt → FwSt) : (s.fwm f).wakes = s.wakes := rfl
@[simp] theorem State.fwm_sync (s : State) (f : FwSt → FwSt) : (s.fwm f).sync = s.sync := rfl
@[simp] theorem State.fwm_cache (s : State) (f : FwSt → FwSt) : (s.fwm f).cache = s.cache := rfl
@[simp] theorem State.fwm_mport (s : State) (f : FwSt → FwSt) : (s.fwm f).mport = s.mport := rfl
@[simp] theorem State.fwm_mpCtr (s : State) (f : FwSt → FwSt) : (s.fwm f).mpCtr = s.mpCtr := rfl
@[simp] theorem State.fwm_mpRr (s : State) (f : FwSt → FwSt) : (s.fwm f).mpRr = s.mpRr := rfl
@[simp] theorem State.fwm_engScale (s : State) (f : FwSt → FwSt) : (s.fwm f).engScale = s.engScale := rfl
@[simp] theorem State.fwm_spokeHeld (s : State) (f : FwSt → FwSt) : (s.fwm f).spokeHeld = s.spokeHeld := rfl
@[simp] theorem State.fwm_chans (s : State) (f : FwSt → FwSt) : (s.fwm f).chans = s.chans := rfl
@[simp] theorem State.fwm_engRr (s : State) (f : FwSt → FwSt) : (s.fwm f).engRr = s.engRr := rfl
@[simp] theorem State.fwm_recd (s : State) (f : FwSt → FwSt) : (s.fwm f).recd = s.recd := rfl
@[simp] theorem State.fwm_integ (s : State) (f : FwSt → FwSt) : (s.fwm f).integ = s.integ := rfl
@[simp] theorem State.fwm_test (s : State) (f : FwSt → FwSt) : (s.fwm f).test = s.test := rfl
@[simp] theorem State.fwm_life (s : State) (f : FwSt → FwSt) : (s.fwm f).life = s.life := rfl
@[simp] theorem State.fwm_raq (s : State) (f : FwSt → FwSt) : (s.fwm f).raq = s.raq := rfl
@[simp] theorem State.fwm_klen (s : State) (f : FwSt → FwSt) : (s.fwm f).klen = s.klen := rfl
@[simp] theorem State.fwm_link (s : State) (f : FwSt → FwSt) : (s.fwm f).link = s.link := rfl
@[simp] theorem State.fwm_win (s : State) (f : FwSt → FwSt) : (s.fwm f).win = s.win := rfl
@[simp] theorem State.fwm_fab (s : State) (f : FwSt → FwSt) : (s.fwm f).fab = s.fab := rfl
@[simp] theorem State.fwm_pending (s : State) (f : FwSt → FwSt) : (s.fwm f).pending = s.pending := rfl
@[simp] theorem State.fwm_rd (s : State) (f : FwSt → FwSt) (o : Nat) : (s.fwm f).rd o = s.rd o := rfl
@[simp] theorem State.fwm_get (s : State) (f : FwSt → FwSt) (o : Nat) (g : Fld) : (s.fwm f).get o g = s.get o g := rfl
@[simp] theorem State.fwm_fw (s : State) (f : FwSt → FwSt) : (s.fwm f).fw = f s.fw := rfl
@[simp] theorem State.rec_cfg (s : State) (f : RecSt → RecSt) : (s.rec_ f).cfg = s.cfg := rfl
@[simp] theorem State.rec_regs (s : State) (f : RecSt → RecSt) : (s.rec_ f).regs = s.regs := rfl
@[simp] theorem State.rec_now (s : State) (f : RecSt → RecSt) : (s.rec_ f).now = s.now := rfl
@[simp] theorem State.rec_pcNow (s : State) (f : RecSt → RecSt) : (s.rec_ f).pcNow = s.pcNow := rfl
@[simp] theorem State.rec_pcRem (s : State) (f : RecSt → RecSt) : (s.rec_ f).pcRem = s.pcRem := rfl
@[simp] theorem State.rec_pcDev (s : State) (f : RecSt → RecSt) : (s.rec_ f).pcDev = s.pcDev := rfl
@[simp] theorem State.rec_pcDevRem (s : State) (f : RecSt → RecSt) : (s.rec_ f).pcDevRem = s.pcDevRem := rfl
@[simp] theorem State.rec_clockOn (s : State) (f : RecSt → RecSt) : (s.rec_ f).clockOn = s.clockOn := rfl
@[simp] theorem State.rec_fuseLoaded (s : State) (f : RecSt → RecSt) : (s.rec_ f).fuseLoaded = s.fuseLoaded := rfl
@[simp] theorem State.rec_porstLow (s : State) (f : RecSt → RecSt) : (s.rec_ f).porstLow = s.porstLow := rfl
@[simp] theorem State.rec_srstLow (s : State) (f : RecSt → RecSt) : (s.rec_ f).srstLow = s.srstLow := rfl
@[simp] theorem State.rec_railLost (s : State) (f : RecSt → RecSt) : (s.rec_ f).railLost = s.railLost := rfl
@[simp] theorem State.rec_fused (s : State) (f : RecSt → RecSt) : (s.rec_ f).fused = s.fused := rfl
@[simp] theorem State.rec_freeCtr (s : State) (f : RecSt → RecSt) : (s.rec_ f).freeCtr = s.freeCtr := rfl
@[simp] theorem State.rec_array (s : State) (f : RecSt → RecSt) : (s.rec_ f).array = s.array := rfl
@[simp] theorem State.rec_rims (s : State) (f : RecSt → RecSt) : (s.rec_ f).rims = s.rims := rfl
@[simp] theorem State.rec_hub (s : State) (f : RecSt → RecSt) : (s.rec_ f).hub = s.hub := rfl
@[simp] theorem State.rec_ports (s : State) (f : RecSt → RecSt) : (s.rec_ f).ports = s.ports := rfl
@[simp] theorem State.rec_handles (s : State) (f : RecSt → RecSt) : (s.rec_ f).handles = s.handles := rfl
@[simp] theorem State.rec_hcmd (s : State) (f : RecSt → RecSt) : (s.rec_ f).hcmd = s.hcmd := rfl
@[simp] theorem State.rec_regul (s : State) (f : RecSt → RecSt) : (s.rec_ f).regul = s.regul := rfl
@[simp] theorem State.rec_psnLog (s : State) (f : RecSt → RecSt) : (s.rec_ f).psnLog = s.psnLog := rfl
@[simp] theorem State.rec_captured (s : State) (f : RecSt → RecSt) : (s.rec_ f).captured = s.captured := rfl
@[simp] theorem State.rec_reply (s : State) (f : RecSt → RecSt) : (s.rec_ f).reply = s.reply := rfl
@[simp] theorem State.rec_energyAcc (s : State) (f : RecSt → RecSt) : (s.rec_ f).energyAcc = s.energyAcc := rfl
@[simp] theorem State.rec_shareHeld (s : State) (f : RecSt → RecSt) : (s.rec_ f).shareHeld = s.shareHeld := rfl
@[simp] theorem State.rec_domUp (s : State) (f : RecSt → RecSt) : (s.rec_ f).domUp = s.domUp := rfl
@[simp] theorem State.rec_domDead (s : State) (f : RecSt → RecSt) : (s.rec_ f).domDead = s.domDead := rfl
@[simp] theorem State.rec_wakes (s : State) (f : RecSt → RecSt) : (s.rec_ f).wakes = s.wakes := rfl
@[simp] theorem State.rec_sync (s : State) (f : RecSt → RecSt) : (s.rec_ f).sync = s.sync := rfl
@[simp] theorem State.rec_cache (s : State) (f : RecSt → RecSt) : (s.rec_ f).cache = s.cache := rfl
@[simp] theorem State.rec_mport (s : State) (f : RecSt → RecSt) : (s.rec_ f).mport = s.mport := rfl
@[simp] theorem State.rec_mpCtr (s : State) (f : RecSt → RecSt) : (s.rec_ f).mpCtr = s.mpCtr := rfl
@[simp] theorem State.rec_mpRr (s : State) (f : RecSt → RecSt) : (s.rec_ f).mpRr = s.mpRr := rfl
@[simp] theorem State.rec_engScale (s : State) (f : RecSt → RecSt) : (s.rec_ f).engScale = s.engScale := rfl
@[simp] theorem State.rec_spokeHeld (s : State) (f : RecSt → RecSt) : (s.rec_ f).spokeHeld = s.spokeHeld := rfl
@[simp] theorem State.rec_chans (s : State) (f : RecSt → RecSt) : (s.rec_ f).chans = s.chans := rfl
@[simp] theorem State.rec_engRr (s : State) (f : RecSt → RecSt) : (s.rec_ f).engRr = s.engRr := rfl
@[simp] theorem State.rec_integ (s : State) (f : RecSt → RecSt) : (s.rec_ f).integ = s.integ := rfl
@[simp] theorem State.rec_test (s : State) (f : RecSt → RecSt) : (s.rec_ f).test = s.test := rfl
@[simp] theorem State.rec_life (s : State) (f : RecSt → RecSt) : (s.rec_ f).life = s.life := rfl
@[simp] theorem State.rec_raq (s : State) (f : RecSt → RecSt) : (s.rec_ f).raq = s.raq := rfl
@[simp] theorem State.rec_klen (s : State) (f : RecSt → RecSt) : (s.rec_ f).klen = s.klen := rfl
@[simp] theorem State.rec_link (s : State) (f : RecSt → RecSt) : (s.rec_ f).link = s.link := rfl
@[simp] theorem State.rec_win (s : State) (f : RecSt → RecSt) : (s.rec_ f).win = s.win := rfl
@[simp] theorem State.rec_fw (s : State) (f : RecSt → RecSt) : (s.rec_ f).fw = s.fw := rfl
@[simp] theorem State.rec_fab (s : State) (f : RecSt → RecSt) : (s.rec_ f).fab = s.fab := rfl
@[simp] theorem State.rec_pending (s : State) (f : RecSt → RecSt) : (s.rec_ f).pending = s.pending := rfl
@[simp] theorem State.rec_rd (s : State) (f : RecSt → RecSt) (o : Nat) : (s.rec_ f).rd o = s.rd o := rfl
@[simp] theorem State.rec_get (s : State) (f : RecSt → RecSt) (o : Nat) (g : Fld) : (s.rec_ f).get o g = s.get o g := rfl
@[simp] theorem State.rec_recd (s : State) (f : RecSt → RecSt) : (s.rec_ f).recd = f s.recd := rfl
@[simp] theorem State.ig_cfg (s : State) (f : IntegSt → IntegSt) : (s.ig f).cfg = s.cfg := rfl
@[simp] theorem State.ig_regs (s : State) (f : IntegSt → IntegSt) : (s.ig f).regs = s.regs := rfl
@[simp] theorem State.ig_now (s : State) (f : IntegSt → IntegSt) : (s.ig f).now = s.now := rfl
@[simp] theorem State.ig_pcNow (s : State) (f : IntegSt → IntegSt) : (s.ig f).pcNow = s.pcNow := rfl
@[simp] theorem State.ig_pcRem (s : State) (f : IntegSt → IntegSt) : (s.ig f).pcRem = s.pcRem := rfl
@[simp] theorem State.ig_pcDev (s : State) (f : IntegSt → IntegSt) : (s.ig f).pcDev = s.pcDev := rfl
@[simp] theorem State.ig_pcDevRem (s : State) (f : IntegSt → IntegSt) : (s.ig f).pcDevRem = s.pcDevRem := rfl
@[simp] theorem State.ig_clockOn (s : State) (f : IntegSt → IntegSt) : (s.ig f).clockOn = s.clockOn := rfl
@[simp] theorem State.ig_fuseLoaded (s : State) (f : IntegSt → IntegSt) : (s.ig f).fuseLoaded = s.fuseLoaded := rfl
@[simp] theorem State.ig_porstLow (s : State) (f : IntegSt → IntegSt) : (s.ig f).porstLow = s.porstLow := rfl
@[simp] theorem State.ig_srstLow (s : State) (f : IntegSt → IntegSt) : (s.ig f).srstLow = s.srstLow := rfl
@[simp] theorem State.ig_railLost (s : State) (f : IntegSt → IntegSt) : (s.ig f).railLost = s.railLost := rfl
@[simp] theorem State.ig_fused (s : State) (f : IntegSt → IntegSt) : (s.ig f).fused = s.fused := rfl
@[simp] theorem State.ig_freeCtr (s : State) (f : IntegSt → IntegSt) : (s.ig f).freeCtr = s.freeCtr := rfl
@[simp] theorem State.ig_array (s : State) (f : IntegSt → IntegSt) : (s.ig f).array = s.array := rfl
@[simp] theorem State.ig_rims (s : State) (f : IntegSt → IntegSt) : (s.ig f).rims = s.rims := rfl
@[simp] theorem State.ig_hub (s : State) (f : IntegSt → IntegSt) : (s.ig f).hub = s.hub := rfl
@[simp] theorem State.ig_ports (s : State) (f : IntegSt → IntegSt) : (s.ig f).ports = s.ports := rfl
@[simp] theorem State.ig_handles (s : State) (f : IntegSt → IntegSt) : (s.ig f).handles = s.handles := rfl
@[simp] theorem State.ig_hcmd (s : State) (f : IntegSt → IntegSt) : (s.ig f).hcmd = s.hcmd := rfl
@[simp] theorem State.ig_regul (s : State) (f : IntegSt → IntegSt) : (s.ig f).regul = s.regul := rfl
@[simp] theorem State.ig_psnLog (s : State) (f : IntegSt → IntegSt) : (s.ig f).psnLog = s.psnLog := rfl
@[simp] theorem State.ig_captured (s : State) (f : IntegSt → IntegSt) : (s.ig f).captured = s.captured := rfl
@[simp] theorem State.ig_reply (s : State) (f : IntegSt → IntegSt) : (s.ig f).reply = s.reply := rfl
@[simp] theorem State.ig_energyAcc (s : State) (f : IntegSt → IntegSt) : (s.ig f).energyAcc = s.energyAcc := rfl
@[simp] theorem State.ig_shareHeld (s : State) (f : IntegSt → IntegSt) : (s.ig f).shareHeld = s.shareHeld := rfl
@[simp] theorem State.ig_domUp (s : State) (f : IntegSt → IntegSt) : (s.ig f).domUp = s.domUp := rfl
@[simp] theorem State.ig_domDead (s : State) (f : IntegSt → IntegSt) : (s.ig f).domDead = s.domDead := rfl
@[simp] theorem State.ig_wakes (s : State) (f : IntegSt → IntegSt) : (s.ig f).wakes = s.wakes := rfl
@[simp] theorem State.ig_sync (s : State) (f : IntegSt → IntegSt) : (s.ig f).sync = s.sync := rfl
@[simp] theorem State.ig_cache (s : State) (f : IntegSt → IntegSt) : (s.ig f).cache = s.cache := rfl
@[simp] theorem State.ig_mport (s : State) (f : IntegSt → IntegSt) : (s.ig f).mport = s.mport := rfl
@[simp] theorem State.ig_mpCtr (s : State) (f : IntegSt → IntegSt) : (s.ig f).mpCtr = s.mpCtr := rfl
@[simp] theorem State.ig_mpRr (s : State) (f : IntegSt → IntegSt) : (s.ig f).mpRr = s.mpRr := rfl
@[simp] theorem State.ig_engScale (s : State) (f : IntegSt → IntegSt) : (s.ig f).engScale = s.engScale := rfl
@[simp] theorem State.ig_spokeHeld (s : State) (f : IntegSt → IntegSt) : (s.ig f).spokeHeld = s.spokeHeld := rfl
@[simp] theorem State.ig_chans (s : State) (f : IntegSt → IntegSt) : (s.ig f).chans = s.chans := rfl
@[simp] theorem State.ig_engRr (s : State) (f : IntegSt → IntegSt) : (s.ig f).engRr = s.engRr := rfl
@[simp] theorem State.ig_recd (s : State) (f : IntegSt → IntegSt) : (s.ig f).recd = s.recd := rfl
@[simp] theorem State.ig_test (s : State) (f : IntegSt → IntegSt) : (s.ig f).test = s.test := rfl
@[simp] theorem State.ig_life (s : State) (f : IntegSt → IntegSt) : (s.ig f).life = s.life := rfl
@[simp] theorem State.ig_raq (s : State) (f : IntegSt → IntegSt) : (s.ig f).raq = s.raq := rfl
@[simp] theorem State.ig_klen (s : State) (f : IntegSt → IntegSt) : (s.ig f).klen = s.klen := rfl
@[simp] theorem State.ig_link (s : State) (f : IntegSt → IntegSt) : (s.ig f).link = s.link := rfl
@[simp] theorem State.ig_win (s : State) (f : IntegSt → IntegSt) : (s.ig f).win = s.win := rfl
@[simp] theorem State.ig_fw (s : State) (f : IntegSt → IntegSt) : (s.ig f).fw = s.fw := rfl
@[simp] theorem State.ig_fab (s : State) (f : IntegSt → IntegSt) : (s.ig f).fab = s.fab := rfl
@[simp] theorem State.ig_pending (s : State) (f : IntegSt → IntegSt) : (s.ig f).pending = s.pending := rfl
@[simp] theorem State.ig_rd (s : State) (f : IntegSt → IntegSt) (o : Nat) : (s.ig f).rd o = s.rd o := rfl
@[simp] theorem State.ig_get (s : State) (f : IntegSt → IntegSt) (o : Nat) (g : Fld) : (s.ig f).get o g = s.get o g := rfl
@[simp] theorem State.ig_integ (s : State) (f : IntegSt → IntegSt) : (s.ig f).integ = f s.integ := rfl
@[simp] theorem State.tst_cfg (s : State) (f : TestSt → TestSt) : (s.tst f).cfg = s.cfg := rfl
@[simp] theorem State.tst_regs (s : State) (f : TestSt → TestSt) : (s.tst f).regs = s.regs := rfl
@[simp] theorem State.tst_now (s : State) (f : TestSt → TestSt) : (s.tst f).now = s.now := rfl
@[simp] theorem State.tst_pcNow (s : State) (f : TestSt → TestSt) : (s.tst f).pcNow = s.pcNow := rfl
@[simp] theorem State.tst_pcRem (s : State) (f : TestSt → TestSt) : (s.tst f).pcRem = s.pcRem := rfl
@[simp] theorem State.tst_pcDev (s : State) (f : TestSt → TestSt) : (s.tst f).pcDev = s.pcDev := rfl
@[simp] theorem State.tst_pcDevRem (s : State) (f : TestSt → TestSt) : (s.tst f).pcDevRem = s.pcDevRem := rfl
@[simp] theorem State.tst_clockOn (s : State) (f : TestSt → TestSt) : (s.tst f).clockOn = s.clockOn := rfl
@[simp] theorem State.tst_fuseLoaded (s : State) (f : TestSt → TestSt) : (s.tst f).fuseLoaded = s.fuseLoaded := rfl
@[simp] theorem State.tst_porstLow (s : State) (f : TestSt → TestSt) : (s.tst f).porstLow = s.porstLow := rfl
@[simp] theorem State.tst_srstLow (s : State) (f : TestSt → TestSt) : (s.tst f).srstLow = s.srstLow := rfl
@[simp] theorem State.tst_railLost (s : State) (f : TestSt → TestSt) : (s.tst f).railLost = s.railLost := rfl
@[simp] theorem State.tst_fused (s : State) (f : TestSt → TestSt) : (s.tst f).fused = s.fused := rfl
@[simp] theorem State.tst_freeCtr (s : State) (f : TestSt → TestSt) : (s.tst f).freeCtr = s.freeCtr := rfl
@[simp] theorem State.tst_array (s : State) (f : TestSt → TestSt) : (s.tst f).array = s.array := rfl
@[simp] theorem State.tst_rims (s : State) (f : TestSt → TestSt) : (s.tst f).rims = s.rims := rfl
@[simp] theorem State.tst_hub (s : State) (f : TestSt → TestSt) : (s.tst f).hub = s.hub := rfl
@[simp] theorem State.tst_ports (s : State) (f : TestSt → TestSt) : (s.tst f).ports = s.ports := rfl
@[simp] theorem State.tst_handles (s : State) (f : TestSt → TestSt) : (s.tst f).handles = s.handles := rfl
@[simp] theorem State.tst_hcmd (s : State) (f : TestSt → TestSt) : (s.tst f).hcmd = s.hcmd := rfl
@[simp] theorem State.tst_regul (s : State) (f : TestSt → TestSt) : (s.tst f).regul = s.regul := rfl
@[simp] theorem State.tst_psnLog (s : State) (f : TestSt → TestSt) : (s.tst f).psnLog = s.psnLog := rfl
@[simp] theorem State.tst_captured (s : State) (f : TestSt → TestSt) : (s.tst f).captured = s.captured := rfl
@[simp] theorem State.tst_reply (s : State) (f : TestSt → TestSt) : (s.tst f).reply = s.reply := rfl
@[simp] theorem State.tst_energyAcc (s : State) (f : TestSt → TestSt) : (s.tst f).energyAcc = s.energyAcc := rfl
@[simp] theorem State.tst_shareHeld (s : State) (f : TestSt → TestSt) : (s.tst f).shareHeld = s.shareHeld := rfl
@[simp] theorem State.tst_domUp (s : State) (f : TestSt → TestSt) : (s.tst f).domUp = s.domUp := rfl
@[simp] theorem State.tst_domDead (s : State) (f : TestSt → TestSt) : (s.tst f).domDead = s.domDead := rfl
@[simp] theorem State.tst_wakes (s : State) (f : TestSt → TestSt) : (s.tst f).wakes = s.wakes := rfl
@[simp] theorem State.tst_sync (s : State) (f : TestSt → TestSt) : (s.tst f).sync = s.sync := rfl
@[simp] theorem State.tst_cache (s : State) (f : TestSt → TestSt) : (s.tst f).cache = s.cache := rfl
@[simp] theorem State.tst_mport (s : State) (f : TestSt → TestSt) : (s.tst f).mport = s.mport := rfl
@[simp] theorem State.tst_mpCtr (s : State) (f : TestSt → TestSt) : (s.tst f).mpCtr = s.mpCtr := rfl
@[simp] theorem State.tst_mpRr (s : State) (f : TestSt → TestSt) : (s.tst f).mpRr = s.mpRr := rfl
@[simp] theorem State.tst_engScale (s : State) (f : TestSt → TestSt) : (s.tst f).engScale = s.engScale := rfl
@[simp] theorem State.tst_spokeHeld (s : State) (f : TestSt → TestSt) : (s.tst f).spokeHeld = s.spokeHeld := rfl
@[simp] theorem State.tst_chans (s : State) (f : TestSt → TestSt) : (s.tst f).chans = s.chans := rfl
@[simp] theorem State.tst_engRr (s : State) (f : TestSt → TestSt) : (s.tst f).engRr = s.engRr := rfl
@[simp] theorem State.tst_recd (s : State) (f : TestSt → TestSt) : (s.tst f).recd = s.recd := rfl
@[simp] theorem State.tst_integ (s : State) (f : TestSt → TestSt) : (s.tst f).integ = s.integ := rfl
@[simp] theorem State.tst_life (s : State) (f : TestSt → TestSt) : (s.tst f).life = s.life := rfl
@[simp] theorem State.tst_raq (s : State) (f : TestSt → TestSt) : (s.tst f).raq = s.raq := rfl
@[simp] theorem State.tst_klen (s : State) (f : TestSt → TestSt) : (s.tst f).klen = s.klen := rfl
@[simp] theorem State.tst_link (s : State) (f : TestSt → TestSt) : (s.tst f).link = s.link := rfl
@[simp] theorem State.tst_win (s : State) (f : TestSt → TestSt) : (s.tst f).win = s.win := rfl
@[simp] theorem State.tst_fw (s : State) (f : TestSt → TestSt) : (s.tst f).fw = s.fw := rfl
@[simp] theorem State.tst_fab (s : State) (f : TestSt → TestSt) : (s.tst f).fab = s.fab := rfl
@[simp] theorem State.tst_pending (s : State) (f : TestSt → TestSt) : (s.tst f).pending = s.pending := rfl
@[simp] theorem State.tst_rd (s : State) (f : TestSt → TestSt) (o : Nat) : (s.tst f).rd o = s.rd o := rfl
@[simp] theorem State.tst_get (s : State) (f : TestSt → TestSt) (o : Nat) (g : Fld) : (s.tst f).get o g = s.get o g := rfl
@[simp] theorem State.tst_test (s : State) (f : TestSt → TestSt) : (s.tst f).test = f s.test := rfl
@[simp] theorem State.chan_cfg (s : State) (c : Nat) (f : MvChan → MvChan) : (s.chan c f).cfg = s.cfg := rfl
@[simp] theorem State.chan_regs (s : State) (c : Nat) (f : MvChan → MvChan) : (s.chan c f).regs = s.regs := rfl
@[simp] theorem State.chan_now (s : State) (c : Nat) (f : MvChan → MvChan) : (s.chan c f).now = s.now := rfl
@[simp] theorem State.chan_pcNow (s : State) (c : Nat) (f : MvChan → MvChan) : (s.chan c f).pcNow = s.pcNow := rfl
@[simp] theorem State.chan_pcRem (s : State) (c : Nat) (f : MvChan → MvChan) : (s.chan c f).pcRem = s.pcRem := rfl
@[simp] theorem State.chan_pcDev (s : State) (c : Nat) (f : MvChan → MvChan) : (s.chan c f).pcDev = s.pcDev := rfl
@[simp] theorem State.chan_pcDevRem (s : State) (c : Nat) (f : MvChan → MvChan) : (s.chan c f).pcDevRem = s.pcDevRem := rfl
@[simp] theorem State.chan_clockOn (s : State) (c : Nat) (f : MvChan → MvChan) : (s.chan c f).clockOn = s.clockOn := rfl
@[simp] theorem State.chan_fuseLoaded (s : State) (c : Nat) (f : MvChan → MvChan) : (s.chan c f).fuseLoaded = s.fuseLoaded := rfl
@[simp] theorem State.chan_porstLow (s : State) (c : Nat) (f : MvChan → MvChan) : (s.chan c f).porstLow = s.porstLow := rfl
@[simp] theorem State.chan_srstLow (s : State) (c : Nat) (f : MvChan → MvChan) : (s.chan c f).srstLow = s.srstLow := rfl
@[simp] theorem State.chan_railLost (s : State) (c : Nat) (f : MvChan → MvChan) : (s.chan c f).railLost = s.railLost := rfl
@[simp] theorem State.chan_fused (s : State) (c : Nat) (f : MvChan → MvChan) : (s.chan c f).fused = s.fused := rfl
@[simp] theorem State.chan_freeCtr (s : State) (c : Nat) (f : MvChan → MvChan) : (s.chan c f).freeCtr = s.freeCtr := rfl
@[simp] theorem State.chan_array (s : State) (c : Nat) (f : MvChan → MvChan) : (s.chan c f).array = s.array := rfl
@[simp] theorem State.chan_rims (s : State) (c : Nat) (f : MvChan → MvChan) : (s.chan c f).rims = s.rims := rfl
@[simp] theorem State.chan_hub (s : State) (c : Nat) (f : MvChan → MvChan) : (s.chan c f).hub = s.hub := rfl
@[simp] theorem State.chan_ports (s : State) (c : Nat) (f : MvChan → MvChan) : (s.chan c f).ports = s.ports := rfl
@[simp] theorem State.chan_handles (s : State) (c : Nat) (f : MvChan → MvChan) : (s.chan c f).handles = s.handles := rfl
@[simp] theorem State.chan_hcmd (s : State) (c : Nat) (f : MvChan → MvChan) : (s.chan c f).hcmd = s.hcmd := rfl
@[simp] theorem State.chan_regul (s : State) (c : Nat) (f : MvChan → MvChan) : (s.chan c f).regul = s.regul := rfl
@[simp] theorem State.chan_psnLog (s : State) (c : Nat) (f : MvChan → MvChan) : (s.chan c f).psnLog = s.psnLog := rfl
@[simp] theorem State.chan_captured (s : State) (c : Nat) (f : MvChan → MvChan) : (s.chan c f).captured = s.captured := rfl
@[simp] theorem State.chan_reply (s : State) (c : Nat) (f : MvChan → MvChan) : (s.chan c f).reply = s.reply := rfl
@[simp] theorem State.chan_energyAcc (s : State) (c : Nat) (f : MvChan → MvChan) : (s.chan c f).energyAcc = s.energyAcc := rfl
@[simp] theorem State.chan_shareHeld (s : State) (c : Nat) (f : MvChan → MvChan) : (s.chan c f).shareHeld = s.shareHeld := rfl
@[simp] theorem State.chan_domUp (s : State) (c : Nat) (f : MvChan → MvChan) : (s.chan c f).domUp = s.domUp := rfl
@[simp] theorem State.chan_domDead (s : State) (c : Nat) (f : MvChan → MvChan) : (s.chan c f).domDead = s.domDead := rfl
@[simp] theorem State.chan_wakes (s : State) (c : Nat) (f : MvChan → MvChan) : (s.chan c f).wakes = s.wakes := rfl
@[simp] theorem State.chan_sync (s : State) (c : Nat) (f : MvChan → MvChan) : (s.chan c f).sync = s.sync := rfl
@[simp] theorem State.chan_cache (s : State) (c : Nat) (f : MvChan → MvChan) : (s.chan c f).cache = s.cache := rfl
@[simp] theorem State.chan_mport (s : State) (c : Nat) (f : MvChan → MvChan) : (s.chan c f).mport = s.mport := rfl
@[simp] theorem State.chan_mpCtr (s : State) (c : Nat) (f : MvChan → MvChan) : (s.chan c f).mpCtr = s.mpCtr := rfl
@[simp] theorem State.chan_mpRr (s : State) (c : Nat) (f : MvChan → MvChan) : (s.chan c f).mpRr = s.mpRr := rfl
@[simp] theorem State.chan_engScale (s : State) (c : Nat) (f : MvChan → MvChan) : (s.chan c f).engScale = s.engScale := rfl
@[simp] theorem State.chan_spokeHeld (s : State) (c : Nat) (f : MvChan → MvChan) : (s.chan c f).spokeHeld = s.spokeHeld := rfl
@[simp] theorem State.chan_engRr (s : State) (c : Nat) (f : MvChan → MvChan) : (s.chan c f).engRr = s.engRr := rfl
@[simp] theorem State.chan_recd (s : State) (c : Nat) (f : MvChan → MvChan) : (s.chan c f).recd = s.recd := rfl
@[simp] theorem State.chan_integ (s : State) (c : Nat) (f : MvChan → MvChan) : (s.chan c f).integ = s.integ := rfl
@[simp] theorem State.chan_test (s : State) (c : Nat) (f : MvChan → MvChan) : (s.chan c f).test = s.test := rfl
@[simp] theorem State.chan_life (s : State) (c : Nat) (f : MvChan → MvChan) : (s.chan c f).life = s.life := rfl
@[simp] theorem State.chan_raq (s : State) (c : Nat) (f : MvChan → MvChan) : (s.chan c f).raq = s.raq := rfl
@[simp] theorem State.chan_klen (s : State) (c : Nat) (f : MvChan → MvChan) : (s.chan c f).klen = s.klen := rfl
@[simp] theorem State.chan_link (s : State) (c : Nat) (f : MvChan → MvChan) : (s.chan c f).link = s.link := rfl
@[simp] theorem State.chan_win (s : State) (c : Nat) (f : MvChan → MvChan) : (s.chan c f).win = s.win := rfl
@[simp] theorem State.chan_fw (s : State) (c : Nat) (f : MvChan → MvChan) : (s.chan c f).fw = s.fw := rfl
@[simp] theorem State.chan_fab (s : State) (c : Nat) (f : MvChan → MvChan) : (s.chan c f).fab = s.fab := rfl
@[simp] theorem State.chan_pending (s : State) (c : Nat) (f : MvChan → MvChan) : (s.chan c f).pending = s.pending := rfl
@[simp] theorem State.chan_rd (s : State) (c : Nat) (f : MvChan → MvChan) (o : Nat) : (s.chan c f).rd o = s.rd o := rfl
@[simp] theorem State.chan_get (s : State) (c : Nat) (f : MvChan → MvChan) (o : Nat) (g : Fld) : (s.chan c f).get o g = s.get o g := rfl
@[simp] theorem State.setRaq_cfg (s : State) (q : Nat) (f : RaQueue → RaQueue) : (s.setRaq q f).cfg = s.cfg := rfl
@[simp] theorem State.setRaq_regs (s : State) (q : Nat) (f : RaQueue → RaQueue) : (s.setRaq q f).regs = s.regs := rfl
@[simp] theorem State.setRaq_now (s : State) (q : Nat) (f : RaQueue → RaQueue) : (s.setRaq q f).now = s.now := rfl
@[simp] theorem State.setRaq_pcNow (s : State) (q : Nat) (f : RaQueue → RaQueue) : (s.setRaq q f).pcNow = s.pcNow := rfl
@[simp] theorem State.setRaq_pcRem (s : State) (q : Nat) (f : RaQueue → RaQueue) : (s.setRaq q f).pcRem = s.pcRem := rfl
@[simp] theorem State.setRaq_pcDev (s : State) (q : Nat) (f : RaQueue → RaQueue) : (s.setRaq q f).pcDev = s.pcDev := rfl
@[simp] theorem State.setRaq_pcDevRem (s : State) (q : Nat) (f : RaQueue → RaQueue) : (s.setRaq q f).pcDevRem = s.pcDevRem := rfl
@[simp] theorem State.setRaq_clockOn (s : State) (q : Nat) (f : RaQueue → RaQueue) : (s.setRaq q f).clockOn = s.clockOn := rfl
@[simp] theorem State.setRaq_fuseLoaded (s : State) (q : Nat) (f : RaQueue → RaQueue) : (s.setRaq q f).fuseLoaded = s.fuseLoaded := rfl
@[simp] theorem State.setRaq_porstLow (s : State) (q : Nat) (f : RaQueue → RaQueue) : (s.setRaq q f).porstLow = s.porstLow := rfl
@[simp] theorem State.setRaq_srstLow (s : State) (q : Nat) (f : RaQueue → RaQueue) : (s.setRaq q f).srstLow = s.srstLow := rfl
@[simp] theorem State.setRaq_railLost (s : State) (q : Nat) (f : RaQueue → RaQueue) : (s.setRaq q f).railLost = s.railLost := rfl
@[simp] theorem State.setRaq_fused (s : State) (q : Nat) (f : RaQueue → RaQueue) : (s.setRaq q f).fused = s.fused := rfl
@[simp] theorem State.setRaq_freeCtr (s : State) (q : Nat) (f : RaQueue → RaQueue) : (s.setRaq q f).freeCtr = s.freeCtr := rfl
@[simp] theorem State.setRaq_array (s : State) (q : Nat) (f : RaQueue → RaQueue) : (s.setRaq q f).array = s.array := rfl
@[simp] theorem State.setRaq_rims (s : State) (q : Nat) (f : RaQueue → RaQueue) : (s.setRaq q f).rims = s.rims := rfl
@[simp] theorem State.setRaq_hub (s : State) (q : Nat) (f : RaQueue → RaQueue) : (s.setRaq q f).hub = s.hub := rfl
@[simp] theorem State.setRaq_ports (s : State) (q : Nat) (f : RaQueue → RaQueue) : (s.setRaq q f).ports = s.ports := rfl
@[simp] theorem State.setRaq_handles (s : State) (q : Nat) (f : RaQueue → RaQueue) : (s.setRaq q f).handles = s.handles := rfl
@[simp] theorem State.setRaq_hcmd (s : State) (q : Nat) (f : RaQueue → RaQueue) : (s.setRaq q f).hcmd = s.hcmd := rfl
@[simp] theorem State.setRaq_regul (s : State) (q : Nat) (f : RaQueue → RaQueue) : (s.setRaq q f).regul = s.regul := rfl
@[simp] theorem State.setRaq_psnLog (s : State) (q : Nat) (f : RaQueue → RaQueue) : (s.setRaq q f).psnLog = s.psnLog := rfl
@[simp] theorem State.setRaq_captured (s : State) (q : Nat) (f : RaQueue → RaQueue) : (s.setRaq q f).captured = s.captured := rfl
@[simp] theorem State.setRaq_reply (s : State) (q : Nat) (f : RaQueue → RaQueue) : (s.setRaq q f).reply = s.reply := rfl
@[simp] theorem State.setRaq_energyAcc (s : State) (q : Nat) (f : RaQueue → RaQueue) : (s.setRaq q f).energyAcc = s.energyAcc := rfl
@[simp] theorem State.setRaq_shareHeld (s : State) (q : Nat) (f : RaQueue → RaQueue) : (s.setRaq q f).shareHeld = s.shareHeld := rfl
@[simp] theorem State.setRaq_domUp (s : State) (q : Nat) (f : RaQueue → RaQueue) : (s.setRaq q f).domUp = s.domUp := rfl
@[simp] theorem State.setRaq_domDead (s : State) (q : Nat) (f : RaQueue → RaQueue) : (s.setRaq q f).domDead = s.domDead := rfl
@[simp] theorem State.setRaq_wakes (s : State) (q : Nat) (f : RaQueue → RaQueue) : (s.setRaq q f).wakes = s.wakes := rfl
@[simp] theorem State.setRaq_sync (s : State) (q : Nat) (f : RaQueue → RaQueue) : (s.setRaq q f).sync = s.sync := rfl
@[simp] theorem State.setRaq_cache (s : State) (q : Nat) (f : RaQueue → RaQueue) : (s.setRaq q f).cache = s.cache := rfl
@[simp] theorem State.setRaq_mport (s : State) (q : Nat) (f : RaQueue → RaQueue) : (s.setRaq q f).mport = s.mport := rfl
@[simp] theorem State.setRaq_mpCtr (s : State) (q : Nat) (f : RaQueue → RaQueue) : (s.setRaq q f).mpCtr = s.mpCtr := rfl
@[simp] theorem State.setRaq_mpRr (s : State) (q : Nat) (f : RaQueue → RaQueue) : (s.setRaq q f).mpRr = s.mpRr := rfl
@[simp] theorem State.setRaq_engScale (s : State) (q : Nat) (f : RaQueue → RaQueue) : (s.setRaq q f).engScale = s.engScale := rfl
@[simp] theorem State.setRaq_spokeHeld (s : State) (q : Nat) (f : RaQueue → RaQueue) : (s.setRaq q f).spokeHeld = s.spokeHeld := rfl
@[simp] theorem State.setRaq_chans (s : State) (q : Nat) (f : RaQueue → RaQueue) : (s.setRaq q f).chans = s.chans := rfl
@[simp] theorem State.setRaq_engRr (s : State) (q : Nat) (f : RaQueue → RaQueue) : (s.setRaq q f).engRr = s.engRr := rfl
@[simp] theorem State.setRaq_recd (s : State) (q : Nat) (f : RaQueue → RaQueue) : (s.setRaq q f).recd = s.recd := rfl
@[simp] theorem State.setRaq_integ (s : State) (q : Nat) (f : RaQueue → RaQueue) : (s.setRaq q f).integ = s.integ := rfl
@[simp] theorem State.setRaq_test (s : State) (q : Nat) (f : RaQueue → RaQueue) : (s.setRaq q f).test = s.test := rfl
@[simp] theorem State.setRaq_life (s : State) (q : Nat) (f : RaQueue → RaQueue) : (s.setRaq q f).life = s.life := rfl
@[simp] theorem State.setRaq_klen (s : State) (q : Nat) (f : RaQueue → RaQueue) : (s.setRaq q f).klen = s.klen := rfl
@[simp] theorem State.setRaq_link (s : State) (q : Nat) (f : RaQueue → RaQueue) : (s.setRaq q f).link = s.link := rfl
@[simp] theorem State.setRaq_win (s : State) (q : Nat) (f : RaQueue → RaQueue) : (s.setRaq q f).win = s.win := rfl
@[simp] theorem State.setRaq_fw (s : State) (q : Nat) (f : RaQueue → RaQueue) : (s.setRaq q f).fw = s.fw := rfl
@[simp] theorem State.setRaq_fab (s : State) (q : Nat) (f : RaQueue → RaQueue) : (s.setRaq q f).fab = s.fab := rfl
@[simp] theorem State.setRaq_pending (s : State) (q : Nat) (f : RaQueue → RaQueue) : (s.setRaq q f).pending = s.pending := rfl
@[simp] theorem State.setRaq_rd (s : State) (q : Nat) (f : RaQueue → RaQueue) (o : Nat) : (s.setRaq q f).rd o = s.rd o := rfl
@[simp] theorem State.setRaq_get (s : State) (q : Nat) (f : RaQueue → RaQueue) (o : Nat) (g : Fld) : (s.setRaq q f).get o g = s.get o g := rfl
@[simp] theorem State.port_cfg (s : State) (x : Nat) (f : PortSt → PortSt) : (s.port x f).cfg = s.cfg := rfl
@[simp] theorem State.port_regs (s : State) (x : Nat) (f : PortSt → PortSt) : (s.port x f).regs = s.regs := rfl
@[simp] theorem State.port_now (s : State) (x : Nat) (f : PortSt → PortSt) : (s.port x f).now = s.now := rfl
@[simp] theorem State.port_pcNow (s : State) (x : Nat) (f : PortSt → PortSt) : (s.port x f).pcNow = s.pcNow := rfl
@[simp] theorem State.port_pcRem (s : State) (x : Nat) (f : PortSt → PortSt) : (s.port x f).pcRem = s.pcRem := rfl
@[simp] theorem State.port_pcDev (s : State) (x : Nat) (f : PortSt → PortSt) : (s.port x f).pcDev = s.pcDev := rfl
@[simp] theorem State.port_pcDevRem (s : State) (x : Nat) (f : PortSt → PortSt) : (s.port x f).pcDevRem = s.pcDevRem := rfl
@[simp] theorem State.port_clockOn (s : State) (x : Nat) (f : PortSt → PortSt) : (s.port x f).clockOn = s.clockOn := rfl
@[simp] theorem State.port_fuseLoaded (s : State) (x : Nat) (f : PortSt → PortSt) : (s.port x f).fuseLoaded = s.fuseLoaded := rfl
@[simp] theorem State.port_porstLow (s : State) (x : Nat) (f : PortSt → PortSt) : (s.port x f).porstLow = s.porstLow := rfl
@[simp] theorem State.port_srstLow (s : State) (x : Nat) (f : PortSt → PortSt) : (s.port x f).srstLow = s.srstLow := rfl
@[simp] theorem State.port_railLost (s : State) (x : Nat) (f : PortSt → PortSt) : (s.port x f).railLost = s.railLost := rfl
@[simp] theorem State.port_fused (s : State) (x : Nat) (f : PortSt → PortSt) : (s.port x f).fused = s.fused := rfl
@[simp] theorem State.port_freeCtr (s : State) (x : Nat) (f : PortSt → PortSt) : (s.port x f).freeCtr = s.freeCtr := rfl
@[simp] theorem State.port_array (s : State) (x : Nat) (f : PortSt → PortSt) : (s.port x f).array = s.array := rfl
@[simp] theorem State.port_rims (s : State) (x : Nat) (f : PortSt → PortSt) : (s.port x f).rims = s.rims := rfl
@[simp] theorem State.port_hub (s : State) (x : Nat) (f : PortSt → PortSt) : (s.port x f).hub = s.hub := rfl
@[simp] theorem State.port_handles (s : State) (x : Nat) (f : PortSt → PortSt) : (s.port x f).handles = s.handles := rfl
@[simp] theorem State.port_hcmd (s : State) (x : Nat) (f : PortSt → PortSt) : (s.port x f).hcmd = s.hcmd := rfl
@[simp] theorem State.port_regul (s : State) (x : Nat) (f : PortSt → PortSt) : (s.port x f).regul = s.regul := rfl
@[simp] theorem State.port_psnLog (s : State) (x : Nat) (f : PortSt → PortSt) : (s.port x f).psnLog = s.psnLog := rfl
@[simp] theorem State.port_captured (s : State) (x : Nat) (f : PortSt → PortSt) : (s.port x f).captured = s.captured := rfl
@[simp] theorem State.port_reply (s : State) (x : Nat) (f : PortSt → PortSt) : (s.port x f).reply = s.reply := rfl
@[simp] theorem State.port_energyAcc (s : State) (x : Nat) (f : PortSt → PortSt) : (s.port x f).energyAcc = s.energyAcc := rfl
@[simp] theorem State.port_shareHeld (s : State) (x : Nat) (f : PortSt → PortSt) : (s.port x f).shareHeld = s.shareHeld := rfl
@[simp] theorem State.port_domUp (s : State) (x : Nat) (f : PortSt → PortSt) : (s.port x f).domUp = s.domUp := rfl
@[simp] theorem State.port_domDead (s : State) (x : Nat) (f : PortSt → PortSt) : (s.port x f).domDead = s.domDead := rfl
@[simp] theorem State.port_wakes (s : State) (x : Nat) (f : PortSt → PortSt) : (s.port x f).wakes = s.wakes := rfl
@[simp] theorem State.port_sync (s : State) (x : Nat) (f : PortSt → PortSt) : (s.port x f).sync = s.sync := rfl
@[simp] theorem State.port_cache (s : State) (x : Nat) (f : PortSt → PortSt) : (s.port x f).cache = s.cache := rfl
@[simp] theorem State.port_mport (s : State) (x : Nat) (f : PortSt → PortSt) : (s.port x f).mport = s.mport := rfl
@[simp] theorem State.port_mpCtr (s : State) (x : Nat) (f : PortSt → PortSt) : (s.port x f).mpCtr = s.mpCtr := rfl
@[simp] theorem State.port_mpRr (s : State) (x : Nat) (f : PortSt → PortSt) : (s.port x f).mpRr = s.mpRr := rfl
@[simp] theorem State.port_engScale (s : State) (x : Nat) (f : PortSt → PortSt) : (s.port x f).engScale = s.engScale := rfl
@[simp] theorem State.port_spokeHeld (s : State) (x : Nat) (f : PortSt → PortSt) : (s.port x f).spokeHeld = s.spokeHeld := rfl
@[simp] theorem State.port_chans (s : State) (x : Nat) (f : PortSt → PortSt) : (s.port x f).chans = s.chans := rfl
@[simp] theorem State.port_engRr (s : State) (x : Nat) (f : PortSt → PortSt) : (s.port x f).engRr = s.engRr := rfl
@[simp] theorem State.port_recd (s : State) (x : Nat) (f : PortSt → PortSt) : (s.port x f).recd = s.recd := rfl
@[simp] theorem State.port_integ (s : State) (x : Nat) (f : PortSt → PortSt) : (s.port x f).integ = s.integ := rfl
@[simp] theorem State.port_test (s : State) (x : Nat) (f : PortSt → PortSt) : (s.port x f).test = s.test := rfl
@[simp] theorem State.port_life (s : State) (x : Nat) (f : PortSt → PortSt) : (s.port x f).life = s.life := rfl
@[simp] theorem State.port_raq (s : State) (x : Nat) (f : PortSt → PortSt) : (s.port x f).raq = s.raq := rfl
@[simp] theorem State.port_klen (s : State) (x : Nat) (f : PortSt → PortSt) : (s.port x f).klen = s.klen := rfl
@[simp] theorem State.port_link (s : State) (x : Nat) (f : PortSt → PortSt) : (s.port x f).link = s.link := rfl
@[simp] theorem State.port_win (s : State) (x : Nat) (f : PortSt → PortSt) : (s.port x f).win = s.win := rfl
@[simp] theorem State.port_fw (s : State) (x : Nat) (f : PortSt → PortSt) : (s.port x f).fw = s.fw := rfl
@[simp] theorem State.port_fab (s : State) (x : Nat) (f : PortSt → PortSt) : (s.port x f).fab = s.fab := rfl
@[simp] theorem State.port_pending (s : State) (x : Nat) (f : PortSt → PortSt) : (s.port x f).pending = s.pending := rfl
@[simp] theorem State.port_rd (s : State) (x : Nat) (f : PortSt → PortSt) (o : Nat) : (s.port x f).rd o = s.rd o := rfl
@[simp] theorem State.port_get (s : State) (x : Nat) (f : PortSt → PortSt) (o : Nat) (g : Fld) : (s.port x f).get o g = s.get o g := rfl
@[simp] theorem State.rim_cfg (s : State) (n p : Nat) (f : RimSt → RimSt) : (s.rim n p f).cfg = s.cfg := rfl
@[simp] theorem State.rim_regs (s : State) (n p : Nat) (f : RimSt → RimSt) : (s.rim n p f).regs = s.regs := rfl
@[simp] theorem State.rim_now (s : State) (n p : Nat) (f : RimSt → RimSt) : (s.rim n p f).now = s.now := rfl
@[simp] theorem State.rim_pcNow (s : State) (n p : Nat) (f : RimSt → RimSt) : (s.rim n p f).pcNow = s.pcNow := rfl
@[simp] theorem State.rim_pcRem (s : State) (n p : Nat) (f : RimSt → RimSt) : (s.rim n p f).pcRem = s.pcRem := rfl
@[simp] theorem State.rim_pcDev (s : State) (n p : Nat) (f : RimSt → RimSt) : (s.rim n p f).pcDev = s.pcDev := rfl
@[simp] theorem State.rim_pcDevRem (s : State) (n p : Nat) (f : RimSt → RimSt) : (s.rim n p f).pcDevRem = s.pcDevRem := rfl
@[simp] theorem State.rim_clockOn (s : State) (n p : Nat) (f : RimSt → RimSt) : (s.rim n p f).clockOn = s.clockOn := rfl
@[simp] theorem State.rim_fuseLoaded (s : State) (n p : Nat) (f : RimSt → RimSt) : (s.rim n p f).fuseLoaded = s.fuseLoaded := rfl
@[simp] theorem State.rim_porstLow (s : State) (n p : Nat) (f : RimSt → RimSt) : (s.rim n p f).porstLow = s.porstLow := rfl
@[simp] theorem State.rim_srstLow (s : State) (n p : Nat) (f : RimSt → RimSt) : (s.rim n p f).srstLow = s.srstLow := rfl
@[simp] theorem State.rim_railLost (s : State) (n p : Nat) (f : RimSt → RimSt) : (s.rim n p f).railLost = s.railLost := rfl
@[simp] theorem State.rim_fused (s : State) (n p : Nat) (f : RimSt → RimSt) : (s.rim n p f).fused = s.fused := rfl
@[simp] theorem State.rim_freeCtr (s : State) (n p : Nat) (f : RimSt → RimSt) : (s.rim n p f).freeCtr = s.freeCtr := rfl
@[simp] theorem State.rim_array (s : State) (n p : Nat) (f : RimSt → RimSt) : (s.rim n p f).array = s.array := rfl
@[simp] theorem State.rim_hub (s : State) (n p : Nat) (f : RimSt → RimSt) : (s.rim n p f).hub = s.hub := rfl
@[simp] theorem State.rim_ports (s : State) (n p : Nat) (f : RimSt → RimSt) : (s.rim n p f).ports = s.ports := rfl
@[simp] theorem State.rim_handles (s : State) (n p : Nat) (f : RimSt → RimSt) : (s.rim n p f).handles = s.handles := rfl
@[simp] theorem State.rim_hcmd (s : State) (n p : Nat) (f : RimSt → RimSt) : (s.rim n p f).hcmd = s.hcmd := rfl
@[simp] theorem State.rim_regul (s : State) (n p : Nat) (f : RimSt → RimSt) : (s.rim n p f).regul = s.regul := rfl
@[simp] theorem State.rim_psnLog (s : State) (n p : Nat) (f : RimSt → RimSt) : (s.rim n p f).psnLog = s.psnLog := rfl
@[simp] theorem State.rim_captured (s : State) (n p : Nat) (f : RimSt → RimSt) : (s.rim n p f).captured = s.captured := rfl
@[simp] theorem State.rim_reply (s : State) (n p : Nat) (f : RimSt → RimSt) : (s.rim n p f).reply = s.reply := rfl
@[simp] theorem State.rim_energyAcc (s : State) (n p : Nat) (f : RimSt → RimSt) : (s.rim n p f).energyAcc = s.energyAcc := rfl
@[simp] theorem State.rim_shareHeld (s : State) (n p : Nat) (f : RimSt → RimSt) : (s.rim n p f).shareHeld = s.shareHeld := rfl
@[simp] theorem State.rim_domUp (s : State) (n p : Nat) (f : RimSt → RimSt) : (s.rim n p f).domUp = s.domUp := rfl
@[simp] theorem State.rim_domDead (s : State) (n p : Nat) (f : RimSt → RimSt) : (s.rim n p f).domDead = s.domDead := rfl
@[simp] theorem State.rim_wakes (s : State) (n p : Nat) (f : RimSt → RimSt) : (s.rim n p f).wakes = s.wakes := rfl
@[simp] theorem State.rim_sync (s : State) (n p : Nat) (f : RimSt → RimSt) : (s.rim n p f).sync = s.sync := rfl
@[simp] theorem State.rim_cache (s : State) (n p : Nat) (f : RimSt → RimSt) : (s.rim n p f).cache = s.cache := rfl
@[simp] theorem State.rim_mport (s : State) (n p : Nat) (f : RimSt → RimSt) : (s.rim n p f).mport = s.mport := rfl
@[simp] theorem State.rim_mpCtr (s : State) (n p : Nat) (f : RimSt → RimSt) : (s.rim n p f).mpCtr = s.mpCtr := rfl
@[simp] theorem State.rim_mpRr (s : State) (n p : Nat) (f : RimSt → RimSt) : (s.rim n p f).mpRr = s.mpRr := rfl
@[simp] theorem State.rim_engScale (s : State) (n p : Nat) (f : RimSt → RimSt) : (s.rim n p f).engScale = s.engScale := rfl
@[simp] theorem State.rim_spokeHeld (s : State) (n p : Nat) (f : RimSt → RimSt) : (s.rim n p f).spokeHeld = s.spokeHeld := rfl
@[simp] theorem State.rim_chans (s : State) (n p : Nat) (f : RimSt → RimSt) : (s.rim n p f).chans = s.chans := rfl
@[simp] theorem State.rim_engRr (s : State) (n p : Nat) (f : RimSt → RimSt) : (s.rim n p f).engRr = s.engRr := rfl
@[simp] theorem State.rim_recd (s : State) (n p : Nat) (f : RimSt → RimSt) : (s.rim n p f).recd = s.recd := rfl
@[simp] theorem State.rim_integ (s : State) (n p : Nat) (f : RimSt → RimSt) : (s.rim n p f).integ = s.integ := rfl
@[simp] theorem State.rim_test (s : State) (n p : Nat) (f : RimSt → RimSt) : (s.rim n p f).test = s.test := rfl
@[simp] theorem State.rim_life (s : State) (n p : Nat) (f : RimSt → RimSt) : (s.rim n p f).life = s.life := rfl
@[simp] theorem State.rim_raq (s : State) (n p : Nat) (f : RimSt → RimSt) : (s.rim n p f).raq = s.raq := rfl
@[simp] theorem State.rim_klen (s : State) (n p : Nat) (f : RimSt → RimSt) : (s.rim n p f).klen = s.klen := rfl
@[simp] theorem State.rim_link (s : State) (n p : Nat) (f : RimSt → RimSt) : (s.rim n p f).link = s.link := rfl
@[simp] theorem State.rim_win (s : State) (n p : Nat) (f : RimSt → RimSt) : (s.rim n p f).win = s.win := rfl
@[simp] theorem State.rim_fw (s : State) (n p : Nat) (f : RimSt → RimSt) : (s.rim n p f).fw = s.fw := rfl
@[simp] theorem State.rim_fab (s : State) (n p : Nat) (f : RimSt → RimSt) : (s.rim n p f).fab = s.fab := rfl
@[simp] theorem State.rim_pending (s : State) (n p : Nat) (f : RimSt → RimSt) : (s.rim n p f).pending = s.pending := rfl
@[simp] theorem State.rim_rd (s : State) (n p : Nat) (f : RimSt → RimSt) (o : Nat) : (s.rim n p f).rd o = s.rd o := rfl
@[simp] theorem State.rim_get (s : State) (n p : Nat) (f : RimSt → RimSt) (o : Nat) (g : Fld) : (s.rim n p f).get o g = s.get o g := rfl
@[simp] theorem State.energy_cfg (s : State) (k n t : Nat) (ow : Option Nat) : (s.energy k n t ow).cfg = s.cfg := rfl
@[simp] theorem State.energy_regs (s : State) (k n t : Nat) (ow : Option Nat) : (s.energy k n t ow).regs = s.regs := rfl
@[simp] theorem State.energy_now (s : State) (k n t : Nat) (ow : Option Nat) : (s.energy k n t ow).now = s.now := rfl
@[simp] theorem State.energy_pcNow (s : State) (k n t : Nat) (ow : Option Nat) : (s.energy k n t ow).pcNow = s.pcNow := rfl
@[simp] theorem State.energy_pcRem (s : State) (k n t : Nat) (ow : Option Nat) : (s.energy k n t ow).pcRem = s.pcRem := rfl
@[simp] theorem State.energy_pcDev (s : State) (k n t : Nat) (ow : Option Nat) : (s.energy k n t ow).pcDev = s.pcDev := rfl
@[simp] theorem State.energy_pcDevRem (s : State) (k n t : Nat) (ow : Option Nat) : (s.energy k n t ow).pcDevRem = s.pcDevRem := rfl
@[simp] theorem State.energy_clockOn (s : State) (k n t : Nat) (ow : Option Nat) : (s.energy k n t ow).clockOn = s.clockOn := rfl
@[simp] theorem State.energy_fuseLoaded (s : State) (k n t : Nat) (ow : Option Nat) : (s.energy k n t ow).fuseLoaded = s.fuseLoaded := rfl
@[simp] theorem State.energy_porstLow (s : State) (k n t : Nat) (ow : Option Nat) : (s.energy k n t ow).porstLow = s.porstLow := rfl
@[simp] theorem State.energy_srstLow (s : State) (k n t : Nat) (ow : Option Nat) : (s.energy k n t ow).srstLow = s.srstLow := rfl
@[simp] theorem State.energy_railLost (s : State) (k n t : Nat) (ow : Option Nat) : (s.energy k n t ow).railLost = s.railLost := rfl
@[simp] theorem State.energy_fused (s : State) (k n t : Nat) (ow : Option Nat) : (s.energy k n t ow).fused = s.fused := rfl
@[simp] theorem State.energy_freeCtr (s : State) (k n t : Nat) (ow : Option Nat) : (s.energy k n t ow).freeCtr = s.freeCtr := rfl
@[simp] theorem State.energy_array (s : State) (k n t : Nat) (ow : Option Nat) : (s.energy k n t ow).array = s.array := rfl
@[simp] theorem State.energy_rims (s : State) (k n t : Nat) (ow : Option Nat) : (s.energy k n t ow).rims = s.rims := rfl
@[simp] theorem State.energy_hub (s : State) (k n t : Nat) (ow : Option Nat) : (s.energy k n t ow).hub = s.hub := rfl
@[simp] theorem State.energy_ports (s : State) (k n t : Nat) (ow : Option Nat) : (s.energy k n t ow).ports = s.ports := rfl
@[simp] theorem State.energy_handles (s : State) (k n t : Nat) (ow : Option Nat) : (s.energy k n t ow).handles = s.handles := rfl
@[simp] theorem State.energy_hcmd (s : State) (k n t : Nat) (ow : Option Nat) : (s.energy k n t ow).hcmd = s.hcmd := rfl
@[simp] theorem State.energy_regul (s : State) (k n t : Nat) (ow : Option Nat) : (s.energy k n t ow).regul = s.regul := rfl
@[simp] theorem State.energy_psnLog (s : State) (k n t : Nat) (ow : Option Nat) : (s.energy k n t ow).psnLog = s.psnLog := rfl
@[simp] theorem State.energy_captured (s : State) (k n t : Nat) (ow : Option Nat) : (s.energy k n t ow).captured = s.captured := rfl
@[simp] theorem State.energy_reply (s : State) (k n t : Nat) (ow : Option Nat) : (s.energy k n t ow).reply = s.reply := rfl
@[simp] theorem State.energy_shareHeld (s : State) (k n t : Nat) (ow : Option Nat) : (s.energy k n t ow).shareHeld = s.shareHeld := rfl
@[simp] theorem State.energy_domUp (s : State) (k n t : Nat) (ow : Option Nat) : (s.energy k n t ow).domUp = s.domUp := rfl
@[simp] theorem State.energy_domDead (s : State) (k n t : Nat) (ow : Option Nat) : (s.energy k n t ow).domDead = s.domDead := rfl
@[simp] theorem State.energy_wakes (s : State) (k n t : Nat) (ow : Option Nat) : (s.energy k n t ow).wakes = s.wakes := rfl
@[simp] theorem State.energy_sync (s : State) (k n t : Nat) (ow : Option Nat) : (s.energy k n t ow).sync = s.sync := rfl
@[simp] theorem State.energy_cache (s : State) (k n t : Nat) (ow : Option Nat) : (s.energy k n t ow).cache = s.cache := rfl
@[simp] theorem State.energy_mport (s : State) (k n t : Nat) (ow : Option Nat) : (s.energy k n t ow).mport = s.mport := rfl
@[simp] theorem State.energy_mpCtr (s : State) (k n t : Nat) (ow : Option Nat) : (s.energy k n t ow).mpCtr = s.mpCtr := rfl
@[simp] theorem State.energy_mpRr (s : State) (k n t : Nat) (ow : Option Nat) : (s.energy k n t ow).mpRr = s.mpRr := rfl
@[simp] theorem State.energy_engScale (s : State) (k n t : Nat) (ow : Option Nat) : (s.energy k n t ow).engScale = s.engScale := rfl
@[simp] theorem State.energy_spokeHeld (s : State) (k n t : Nat) (ow : Option Nat) : (s.energy k n t ow).spokeHeld = s.spokeHeld := rfl
@[simp] theorem State.energy_chans (s : State) (k n t : Nat) (ow : Option Nat) : (s.energy k n t ow).chans = s.chans := rfl
@[simp] theorem State.energy_engRr (s : State) (k n t : Nat) (ow : Option Nat) : (s.energy k n t ow).engRr = s.engRr := rfl
@[simp] theorem State.energy_recd (s : State) (k n t : Nat) (ow : Option Nat) : (s.energy k n t ow).recd = s.recd := rfl
@[simp] theorem State.energy_integ (s : State) (k n t : Nat) (ow : Option Nat) : (s.energy k n t ow).integ = s.integ := rfl
@[simp] theorem State.energy_test (s : State) (k n t : Nat) (ow : Option Nat) : (s.energy k n t ow).test = s.test := rfl
@[simp] theorem State.energy_life (s : State) (k n t : Nat) (ow : Option Nat) : (s.energy k n t ow).life = s.life := rfl
@[simp] theorem State.energy_raq (s : State) (k n t : Nat) (ow : Option Nat) : (s.energy k n t ow).raq = s.raq := rfl
@[simp] theorem State.energy_klen (s : State) (k n t : Nat) (ow : Option Nat) : (s.energy k n t ow).klen = s.klen := rfl
@[simp] theorem State.energy_link (s : State) (k n t : Nat) (ow : Option Nat) : (s.energy k n t ow).link = s.link := rfl
@[simp] theorem State.energy_win (s : State) (k n t : Nat) (ow : Option Nat) : (s.energy k n t ow).win = s.win := rfl
@[simp] theorem State.energy_fw (s : State) (k n t : Nat) (ow : Option Nat) : (s.energy k n t ow).fw = s.fw := rfl
@[simp] theorem State.energy_fab (s : State) (k n t : Nat) (ow : Option Nat) : (s.energy k n t ow).fab = s.fab := rfl
@[simp] theorem State.energy_pending (s : State) (k n t : Nat) (ow : Option Nat) : (s.energy k n t ow).pending = s.pending := rfl
@[simp] theorem State.energy_rd (s : State) (k n t : Nat) (ow : Option Nat) (o : Nat) : (s.energy k n t ow).rd o = s.rd o := rfl
@[simp] theorem State.energy_get (s : State) (k n t : Nat) (ow : Option Nat) (o : Nat) (g : Fld) : (s.energy k n t ow).get o g = s.get o g := rfl
@[simp] theorem State.energyNone_cfg (s : State) (k n : Nat) : (s.energyNone k n).cfg = s.cfg := rfl
@[simp] theorem State.energyNone_regs (s : State) (k n : Nat) : (s.energyNone k n).regs = s.regs := rfl
@[simp] theorem State.energyNone_now (s : State) (k n : Nat) : (s.energyNone k n).now = s.now := rfl
@[simp] theorem State.energyNone_pcNow (s : State) (k n : Nat) : (s.energyNone k n).pcNow = s.pcNow := rfl
@[simp] theorem State.energyNone_pcRem (s : State) (k n : Nat) : (s.energyNone k n).pcRem = s.pcRem := rfl
@[simp] theorem State.energyNone_pcDev (s : State) (k n : Nat) : (s.energyNone k n).pcDev = s.pcDev := rfl
@[simp] theorem State.energyNone_pcDevRem (s : State) (k n : Nat) : (s.energyNone k n).pcDevRem = s.pcDevRem := rfl
@[simp] theorem State.energyNone_clockOn (s : State) (k n : Nat) : (s.energyNone k n).clockOn = s.clockOn := rfl
@[simp] theorem State.energyNone_fuseLoaded (s : State) (k n : Nat) : (s.energyNone k n).fuseLoaded = s.fuseLoaded := rfl
@[simp] theorem State.energyNone_porstLow (s : State) (k n : Nat) : (s.energyNone k n).porstLow = s.porstLow := rfl
@[simp] theorem State.energyNone_srstLow (s : State) (k n : Nat) : (s.energyNone k n).srstLow = s.srstLow := rfl
@[simp] theorem State.energyNone_railLost (s : State) (k n : Nat) : (s.energyNone k n).railLost = s.railLost := rfl
@[simp] theorem State.energyNone_fused (s : State) (k n : Nat) : (s.energyNone k n).fused = s.fused := rfl
@[simp] theorem State.energyNone_freeCtr (s : State) (k n : Nat) : (s.energyNone k n).freeCtr = s.freeCtr := rfl
@[simp] theorem State.energyNone_array (s : State) (k n : Nat) : (s.energyNone k n).array = s.array := rfl
@[simp] theorem State.energyNone_rims (s : State) (k n : Nat) : (s.energyNone k n).rims = s.rims := rfl
@[simp] theorem State.energyNone_hub (s : State) (k n : Nat) : (s.energyNone k n).hub = s.hub := rfl
@[simp] theorem State.energyNone_ports (s : State) (k n : Nat) : (s.energyNone k n).ports = s.ports := rfl
@[simp] theorem State.energyNone_handles (s : State) (k n : Nat) : (s.energyNone k n).handles = s.handles := rfl
@[simp] theorem State.energyNone_hcmd (s : State) (k n : Nat) : (s.energyNone k n).hcmd = s.hcmd := rfl
@[simp] theorem State.energyNone_regul (s : State) (k n : Nat) : (s.energyNone k n).regul = s.regul := rfl
@[simp] theorem State.energyNone_psnLog (s : State) (k n : Nat) : (s.energyNone k n).psnLog = s.psnLog := rfl
@[simp] theorem State.energyNone_captured (s : State) (k n : Nat) : (s.energyNone k n).captured = s.captured := rfl
@[simp] theorem State.energyNone_reply (s : State) (k n : Nat) : (s.energyNone k n).reply = s.reply := rfl
@[simp] theorem State.energyNone_shareHeld (s : State) (k n : Nat) : (s.energyNone k n).shareHeld = s.shareHeld := rfl
@[simp] theorem State.energyNone_domUp (s : State) (k n : Nat) : (s.energyNone k n).domUp = s.domUp := rfl
@[simp] theorem State.energyNone_domDead (s : State) (k n : Nat) : (s.energyNone k n).domDead = s.domDead := rfl
@[simp] theorem State.energyNone_wakes (s : State) (k n : Nat) : (s.energyNone k n).wakes = s.wakes := rfl
@[simp] theorem State.energyNone_sync (s : State) (k n : Nat) : (s.energyNone k n).sync = s.sync := rfl
@[simp] theorem State.energyNone_cache (s : State) (k n : Nat) : (s.energyNone k n).cache = s.cache := rfl
@[simp] theorem State.energyNone_mport (s : State) (k n : Nat) : (s.energyNone k n).mport = s.mport := rfl
@[simp] theorem State.energyNone_mpCtr (s : State) (k n : Nat) : (s.energyNone k n).mpCtr = s.mpCtr := rfl
@[simp] theorem State.energyNone_mpRr (s : State) (k n : Nat) : (s.energyNone k n).mpRr = s.mpRr := rfl
@[simp] theorem State.energyNone_engScale (s : State) (k n : Nat) : (s.energyNone k n).engScale = s.engScale := rfl
@[simp] theorem State.energyNone_spokeHeld (s : State) (k n : Nat) : (s.energyNone k n).spokeHeld = s.spokeHeld := rfl
@[simp] theorem State.energyNone_chans (s : State) (k n : Nat) : (s.energyNone k n).chans = s.chans := rfl
@[simp] theorem State.energyNone_engRr (s : State) (k n : Nat) : (s.energyNone k n).engRr = s.engRr := rfl
@[simp] theorem State.energyNone_recd (s : State) (k n : Nat) : (s.energyNone k n).recd = s.recd := rfl
@[simp] theorem State.energyNone_integ (s : State) (k n : Nat) : (s.energyNone k n).integ = s.integ := rfl
@[simp] theorem State.energyNone_test (s : State) (k n : Nat) : (s.energyNone k n).test = s.test := rfl
@[simp] theorem State.energyNone_life (s : State) (k n : Nat) : (s.energyNone k n).life = s.life := rfl
@[simp] theorem State.energyNone_raq (s : State) (k n : Nat) : (s.energyNone k n).raq = s.raq := rfl
@[simp] theorem State.energyNone_klen (s : State) (k n : Nat) : (s.energyNone k n).klen = s.klen := rfl
@[simp] theorem State.energyNone_link (s : State) (k n : Nat) : (s.energyNone k n).link = s.link := rfl
@[simp] theorem State.energyNone_win (s : State) (k n : Nat) : (s.energyNone k n).win = s.win := rfl
@[simp] theorem State.energyNone_fw (s : State) (k n : Nat) : (s.energyNone k n).fw = s.fw := rfl
@[simp] theorem State.energyNone_fab (s : State) (k n : Nat) : (s.energyNone k n).fab = s.fab := rfl
@[simp] theorem State.energyNone_pending (s : State) (k n : Nat) : (s.energyNone k n).pending = s.pending := rfl
@[simp] theorem State.energyNone_rd (s : State) (k n : Nat) (o : Nat) : (s.energyNone k n).rd o = s.rd o := rfl
@[simp] theorem State.energyNone_get (s : State) (k n : Nat) (o : Nat) (g : Fld) : (s.energyNone k n).get o g = s.get o g := rfl
@[simp] theorem State.latency_cfg (s : State) (t l : Nat) : (s.latency t l).cfg = s.cfg := rfl
@[simp] theorem State.latency_regs (s : State) (t l : Nat) : (s.latency t l).regs = s.regs := rfl
@[simp] theorem State.latency_now (s : State) (t l : Nat) : (s.latency t l).now = s.now := rfl
@[simp] theorem State.latency_pcNow (s : State) (t l : Nat) : (s.latency t l).pcNow = s.pcNow := rfl
@[simp] theorem State.latency_pcRem (s : State) (t l : Nat) : (s.latency t l).pcRem = s.pcRem := rfl
@[simp] theorem State.latency_pcDev (s : State) (t l : Nat) : (s.latency t l).pcDev = s.pcDev := rfl
@[simp] theorem State.latency_pcDevRem (s : State) (t l : Nat) : (s.latency t l).pcDevRem = s.pcDevRem := rfl
@[simp] theorem State.latency_clockOn (s : State) (t l : Nat) : (s.latency t l).clockOn = s.clockOn := rfl
@[simp] theorem State.latency_fuseLoaded (s : State) (t l : Nat) : (s.latency t l).fuseLoaded = s.fuseLoaded := rfl
@[simp] theorem State.latency_porstLow (s : State) (t l : Nat) : (s.latency t l).porstLow = s.porstLow := rfl
@[simp] theorem State.latency_srstLow (s : State) (t l : Nat) : (s.latency t l).srstLow = s.srstLow := rfl
@[simp] theorem State.latency_railLost (s : State) (t l : Nat) : (s.latency t l).railLost = s.railLost := rfl
@[simp] theorem State.latency_fused (s : State) (t l : Nat) : (s.latency t l).fused = s.fused := rfl
@[simp] theorem State.latency_freeCtr (s : State) (t l : Nat) : (s.latency t l).freeCtr = s.freeCtr := rfl
@[simp] theorem State.latency_array (s : State) (t l : Nat) : (s.latency t l).array = s.array := rfl
@[simp] theorem State.latency_rims (s : State) (t l : Nat) : (s.latency t l).rims = s.rims := rfl
@[simp] theorem State.latency_hub (s : State) (t l : Nat) : (s.latency t l).hub = s.hub := rfl
@[simp] theorem State.latency_ports (s : State) (t l : Nat) : (s.latency t l).ports = s.ports := rfl
@[simp] theorem State.latency_handles (s : State) (t l : Nat) : (s.latency t l).handles = s.handles := rfl
@[simp] theorem State.latency_hcmd (s : State) (t l : Nat) : (s.latency t l).hcmd = s.hcmd := rfl
@[simp] theorem State.latency_psnLog (s : State) (t l : Nat) : (s.latency t l).psnLog = s.psnLog := rfl
@[simp] theorem State.latency_captured (s : State) (t l : Nat) : (s.latency t l).captured = s.captured := rfl
@[simp] theorem State.latency_reply (s : State) (t l : Nat) : (s.latency t l).reply = s.reply := rfl
@[simp] theorem State.latency_energyAcc (s : State) (t l : Nat) : (s.latency t l).energyAcc = s.energyAcc := rfl
@[simp] theorem State.latency_shareHeld (s : State) (t l : Nat) : (s.latency t l).shareHeld = s.shareHeld := rfl
@[simp] theorem State.latency_domUp (s : State) (t l : Nat) : (s.latency t l).domUp = s.domUp := rfl
@[simp] theorem State.latency_domDead (s : State) (t l : Nat) : (s.latency t l).domDead = s.domDead := rfl
@[simp] theorem State.latency_wakes (s : State) (t l : Nat) : (s.latency t l).wakes = s.wakes := rfl
@[simp] theorem State.latency_sync (s : State) (t l : Nat) : (s.latency t l).sync = s.sync := rfl
@[simp] theorem State.latency_cache (s : State) (t l : Nat) : (s.latency t l).cache = s.cache := rfl
@[simp] theorem State.latency_mport (s : State) (t l : Nat) : (s.latency t l).mport = s.mport := rfl
@[simp] theorem State.latency_mpCtr (s : State) (t l : Nat) : (s.latency t l).mpCtr = s.mpCtr := rfl
@[simp] theorem State.latency_mpRr (s : State) (t l : Nat) : (s.latency t l).mpRr = s.mpRr := rfl
@[simp] theorem State.latency_engScale (s : State) (t l : Nat) : (s.latency t l).engScale = s.engScale := rfl
@[simp] theorem State.latency_spokeHeld (s : State) (t l : Nat) : (s.latency t l).spokeHeld = s.spokeHeld := rfl
@[simp] theorem State.latency_chans (s : State) (t l : Nat) : (s.latency t l).chans = s.chans := rfl
@[simp] theorem State.latency_engRr (s : State) (t l : Nat) : (s.latency t l).engRr = s.engRr := rfl
@[simp] theorem State.latency_recd (s : State) (t l : Nat) : (s.latency t l).recd = s.recd := rfl
@[simp] theorem State.latency_integ (s : State) (t l : Nat) : (s.latency t l).integ = s.integ := rfl
@[simp] theorem State.latency_test (s : State) (t l : Nat) : (s.latency t l).test = s.test := rfl
@[simp] theorem State.latency_life (s : State) (t l : Nat) : (s.latency t l).life = s.life := rfl
@[simp] theorem State.latency_raq (s : State) (t l : Nat) : (s.latency t l).raq = s.raq := rfl
@[simp] theorem State.latency_klen (s : State) (t l : Nat) : (s.latency t l).klen = s.klen := rfl
@[simp] theorem State.latency_link (s : State) (t l : Nat) : (s.latency t l).link = s.link := rfl
@[simp] theorem State.latency_win (s : State) (t l : Nat) : (s.latency t l).win = s.win := rfl
@[simp] theorem State.latency_fw (s : State) (t l : Nat) : (s.latency t l).fw = s.fw := rfl
@[simp] theorem State.latency_fab (s : State) (t l : Nat) : (s.latency t l).fab = s.fab := rfl
@[simp] theorem State.latency_pending (s : State) (t l : Nat) : (s.latency t l).pending = s.pending := rfl
@[simp] theorem State.latency_rd (s : State) (t l : Nat) (o : Nat) : (s.latency t l).rd o = s.rd o := rfl
@[simp] theorem State.latency_get (s : State) (t l : Nat) (o : Nat) (g : Fld) : (s.latency t l).get o g = s.get o g := rfl
@[simp] theorem State.answerMaster_cfg (s : State) (m : Master) (l : List (Nat × Nat)) : (s.answerMaster m l).cfg = s.cfg := rfl
@[simp] theorem State.answerMaster_regs (s : State) (m : Master) (l : List (Nat × Nat)) : (s.answerMaster m l).regs = s.regs := rfl
@[simp] theorem State.answerMaster_now (s : State) (m : Master) (l : List (Nat × Nat)) : (s.answerMaster m l).now = s.now := rfl
@[simp] theorem State.answerMaster_pcNow (s : State) (m : Master) (l : List (Nat × Nat)) : (s.answerMaster m l).pcNow = s.pcNow := rfl
@[simp] theorem State.answerMaster_pcRem (s : State) (m : Master) (l : List (Nat × Nat)) : (s.answerMaster m l).pcRem = s.pcRem := rfl
@[simp] theorem State.answerMaster_pcDev (s : State) (m : Master) (l : List (Nat × Nat)) : (s.answerMaster m l).pcDev = s.pcDev := rfl
@[simp] theorem State.answerMaster_pcDevRem (s : State) (m : Master) (l : List (Nat × Nat)) : (s.answerMaster m l).pcDevRem = s.pcDevRem := rfl
@[simp] theorem State.answerMaster_clockOn (s : State) (m : Master) (l : List (Nat × Nat)) : (s.answerMaster m l).clockOn = s.clockOn := rfl
@[simp] theorem State.answerMaster_fuseLoaded (s : State) (m : Master) (l : List (Nat × Nat)) : (s.answerMaster m l).fuseLoaded = s.fuseLoaded := rfl
@[simp] theorem State.answerMaster_porstLow (s : State) (m : Master) (l : List (Nat × Nat)) : (s.answerMaster m l).porstLow = s.porstLow := rfl
@[simp] theorem State.answerMaster_srstLow (s : State) (m : Master) (l : List (Nat × Nat)) : (s.answerMaster m l).srstLow = s.srstLow := rfl
@[simp] theorem State.answerMaster_railLost (s : State) (m : Master) (l : List (Nat × Nat)) : (s.answerMaster m l).railLost = s.railLost := rfl
@[simp] theorem State.answerMaster_fused (s : State) (m : Master) (l : List (Nat × Nat)) : (s.answerMaster m l).fused = s.fused := rfl
@[simp] theorem State.answerMaster_freeCtr (s : State) (m : Master) (l : List (Nat × Nat)) : (s.answerMaster m l).freeCtr = s.freeCtr := rfl
@[simp] theorem State.answerMaster_array (s : State) (m : Master) (l : List (Nat × Nat)) : (s.answerMaster m l).array = s.array := rfl
@[simp] theorem State.answerMaster_rims (s : State) (m : Master) (l : List (Nat × Nat)) : (s.answerMaster m l).rims = s.rims := rfl
@[simp] theorem State.answerMaster_hub (s : State) (m : Master) (l : List (Nat × Nat)) : (s.answerMaster m l).hub = s.hub := rfl
@[simp] theorem State.answerMaster_ports (s : State) (m : Master) (l : List (Nat × Nat)) : (s.answerMaster m l).ports = s.ports := rfl
@[simp] theorem State.answerMaster_handles (s : State) (m : Master) (l : List (Nat × Nat)) : (s.answerMaster m l).handles = s.handles := rfl
@[simp] theorem State.answerMaster_hcmd (s : State) (m : Master) (l : List (Nat × Nat)) : (s.answerMaster m l).hcmd = s.hcmd := rfl
@[simp] theorem State.answerMaster_regul (s : State) (m : Master) (l : List (Nat × Nat)) : (s.answerMaster m l).regul = s.regul := rfl
@[simp] theorem State.answerMaster_psnLog (s : State) (m : Master) (l : List (Nat × Nat)) : (s.answerMaster m l).psnLog = s.psnLog := rfl
@[simp] theorem State.answerMaster_captured (s : State) (m : Master) (l : List (Nat × Nat)) : (s.answerMaster m l).captured = s.captured := rfl
@[simp] theorem State.answerMaster_energyAcc (s : State) (m : Master) (l : List (Nat × Nat)) : (s.answerMaster m l).energyAcc = s.energyAcc := rfl
@[simp] theorem State.answerMaster_shareHeld (s : State) (m : Master) (l : List (Nat × Nat)) : (s.answerMaster m l).shareHeld = s.shareHeld := rfl
@[simp] theorem State.answerMaster_domUp (s : State) (m : Master) (l : List (Nat × Nat)) : (s.answerMaster m l).domUp = s.domUp := rfl
@[simp] theorem State.answerMaster_domDead (s : State) (m : Master) (l : List (Nat × Nat)) : (s.answerMaster m l).domDead = s.domDead := rfl
@[simp] theorem State.answerMaster_wakes (s : State) (m : Master) (l : List (Nat × Nat)) : (s.answerMaster m l).wakes = s.wakes := rfl
@[simp] theorem State.answerMaster_sync (s : State) (m : Master) (l : List (Nat × Nat)) : (s.answerMaster m l).sync = s.sync := rfl
@[simp] theorem State.answerMaster_cache (s : State) (m : Master) (l : List (Nat × Nat)) : (s.answerMaster m l).cache = s.cache := rfl
@[simp] theorem State.answerMaster_mport (s : State) (m : Master) (l : List (Nat × Nat)) : (s.answerMaster m l).mport = s.mport := rfl
@[simp] theorem State.answerMaster_mpCtr (s : State) (m : Master) (l : List (Nat × Nat)) : (s.answerMaster m l).mpCtr = s.mpCtr := rfl
@[simp] theorem State.answerMaster_mpRr (s : State) (m : Master) (l : List (Nat × Nat)) : (s.answerMaster m l).mpRr = s.mpRr := rfl
@[simp] theorem State.answerMaster_engScale (s : State) (m : Master) (l : List (Nat × Nat)) : (s.answerMaster m l).engScale = s.engScale := rfl
@[simp] theorem State.answerMaster_spokeHeld (s : State) (m : Master) (l : List (Nat × Nat)) : (s.answerMaster m l).spokeHeld = s.spokeHeld := rfl
@[simp] theorem State.answerMaster_chans (s : State) (m : Master) (l : List (Nat × Nat)) : (s.answerMaster m l).chans = s.chans := rfl
@[simp] theorem State.answerMaster_engRr (s : State) (m : Master) (l : List (Nat × Nat)) : (s.answerMaster m l).engRr = s.engRr := rfl
@[simp] theorem State.answerMaster_recd (s : State) (m : Master) (l : List (Nat × Nat)) : (s.answerMaster m l).recd = s.recd := rfl
@[simp] theorem State.answerMaster_integ (s : State) (m : Master) (l : List (Nat × Nat)) : (s.answerMaster m l).integ = s.integ := rfl
@[simp] theorem State.answerMaster_test (s : State) (m : Master) (l : List (Nat × Nat)) : (s.answerMaster m l).test = s.test := rfl
@[simp] theorem State.answerMaster_life (s : State) (m : Master) (l : List (Nat × Nat)) : (s.answerMaster m l).life = s.life := rfl
@[simp] theorem State.answerMaster_raq (s : State) (m : Master) (l : List (Nat × Nat)) : (s.answerMaster m l).raq = s.raq := rfl
@[simp] theorem State.answerMaster_klen (s : State) (m : Master) (l : List (Nat × Nat)) : (s.answerMaster m l).klen = s.klen := rfl
@[simp] theorem State.answerMaster_link (s : State) (m : Master) (l : List (Nat × Nat)) : (s.answerMaster m l).link = s.link := rfl
@[simp] theorem State.answerMaster_win (s : State) (m : Master) (l : List (Nat × Nat)) : (s.answerMaster m l).win = s.win := rfl
@[simp] theorem State.answerMaster_fw (s : State) (m : Master) (l : List (Nat × Nat)) : (s.answerMaster m l).fw = s.fw := rfl
@[simp] theorem State.answerMaster_fab (s : State) (m : Master) (l : List (Nat × Nat)) : (s.answerMaster m l).fab = s.fab := rfl
@[simp] theorem State.answerMaster_pending (s : State) (m : Master) (l : List (Nat × Nat)) : (s.answerMaster m l).pending = s.pending := rfl
@[simp] theorem State.answerMaster_rd (s : State) (m : Master) (l : List (Nat × Nat)) (o : Nat) : (s.answerMaster m l).rd o = s.rd o := rfl
@[simp] theorem State.answerMaster_get (s : State) (m : Master) (l : List (Nat × Nat)) (o : Nat) (g : Fld) : (s.answerMaster m l).get o g = s.get o g := rfl
@[simp] theorem State.tidCnt_cfg (s : State) (t : Nat) (f : TidCnt → TidCnt) : (s.tidCnt t f).cfg = s.cfg := rfl
@[simp] theorem State.tidCnt_regs (s : State) (t : Nat) (f : TidCnt → TidCnt) : (s.tidCnt t f).regs = s.regs := rfl
@[simp] theorem State.tidCnt_now (s : State) (t : Nat) (f : TidCnt → TidCnt) : (s.tidCnt t f).now = s.now := rfl
@[simp] theorem State.tidCnt_pcNow (s : State) (t : Nat) (f : TidCnt → TidCnt) : (s.tidCnt t f).pcNow = s.pcNow := rfl
@[simp] theorem State.tidCnt_pcRem (s : State) (t : Nat) (f : TidCnt → TidCnt) : (s.tidCnt t f).pcRem = s.pcRem := rfl
@[simp] theorem State.tidCnt_pcDev (s : State) (t : Nat) (f : TidCnt → TidCnt) : (s.tidCnt t f).pcDev = s.pcDev := rfl
@[simp] theorem State.tidCnt_pcDevRem (s : State) (t : Nat) (f : TidCnt → TidCnt) : (s.tidCnt t f).pcDevRem = s.pcDevRem := rfl
@[simp] theorem State.tidCnt_clockOn (s : State) (t : Nat) (f : TidCnt → TidCnt) : (s.tidCnt t f).clockOn = s.clockOn := rfl
@[simp] theorem State.tidCnt_fuseLoaded (s : State) (t : Nat) (f : TidCnt → TidCnt) : (s.tidCnt t f).fuseLoaded = s.fuseLoaded := rfl
@[simp] theorem State.tidCnt_porstLow (s : State) (t : Nat) (f : TidCnt → TidCnt) : (s.tidCnt t f).porstLow = s.porstLow := rfl
@[simp] theorem State.tidCnt_srstLow (s : State) (t : Nat) (f : TidCnt → TidCnt) : (s.tidCnt t f).srstLow = s.srstLow := rfl
@[simp] theorem State.tidCnt_railLost (s : State) (t : Nat) (f : TidCnt → TidCnt) : (s.tidCnt t f).railLost = s.railLost := rfl
@[simp] theorem State.tidCnt_fused (s : State) (t : Nat) (f : TidCnt → TidCnt) : (s.tidCnt t f).fused = s.fused := rfl
@[simp] theorem State.tidCnt_freeCtr (s : State) (t : Nat) (f : TidCnt → TidCnt) : (s.tidCnt t f).freeCtr = s.freeCtr := rfl
@[simp] theorem State.tidCnt_array (s : State) (t : Nat) (f : TidCnt → TidCnt) : (s.tidCnt t f).array = s.array := rfl
@[simp] theorem State.tidCnt_rims (s : State) (t : Nat) (f : TidCnt → TidCnt) : (s.tidCnt t f).rims = s.rims := rfl
@[simp] theorem State.tidCnt_hub (s : State) (t : Nat) (f : TidCnt → TidCnt) : (s.tidCnt t f).hub = s.hub := rfl
@[simp] theorem State.tidCnt_ports (s : State) (t : Nat) (f : TidCnt → TidCnt) : (s.tidCnt t f).ports = s.ports := rfl
@[simp] theorem State.tidCnt_handles (s : State) (t : Nat) (f : TidCnt → TidCnt) : (s.tidCnt t f).handles = s.handles := rfl
@[simp] theorem State.tidCnt_hcmd (s : State) (t : Nat) (f : TidCnt → TidCnt) : (s.tidCnt t f).hcmd = s.hcmd := rfl
@[simp] theorem State.tidCnt_psnLog (s : State) (t : Nat) (f : TidCnt → TidCnt) : (s.tidCnt t f).psnLog = s.psnLog := rfl
@[simp] theorem State.tidCnt_captured (s : State) (t : Nat) (f : TidCnt → TidCnt) : (s.tidCnt t f).captured = s.captured := rfl
@[simp] theorem State.tidCnt_reply (s : State) (t : Nat) (f : TidCnt → TidCnt) : (s.tidCnt t f).reply = s.reply := rfl
@[simp] theorem State.tidCnt_energyAcc (s : State) (t : Nat) (f : TidCnt → TidCnt) : (s.tidCnt t f).energyAcc = s.energyAcc := rfl
@[simp] theorem State.tidCnt_shareHeld (s : State) (t : Nat) (f : TidCnt → TidCnt) : (s.tidCnt t f).shareHeld = s.shareHeld := rfl
@[simp] theorem State.tidCnt_domUp (s : State) (t : Nat) (f : TidCnt → TidCnt) : (s.tidCnt t f).domUp = s.domUp := rfl
@[simp] theorem State.tidCnt_domDead (s : State) (t : Nat) (f : TidCnt → TidCnt) : (s.tidCnt t f).domDead = s.domDead := rfl
@[simp] theorem State.tidCnt_wakes (s : State) (t : Nat) (f : TidCnt → TidCnt) : (s.tidCnt t f).wakes = s.wakes := rfl
@[simp] theorem State.tidCnt_sync (s : State) (t : Nat) (f : TidCnt → TidCnt) : (s.tidCnt t f).sync = s.sync := rfl
@[simp] theorem State.tidCnt_cache (s : State) (t : Nat) (f : TidCnt → TidCnt) : (s.tidCnt t f).cache = s.cache := rfl
@[simp] theorem State.tidCnt_mport (s : State) (t : Nat) (f : TidCnt → TidCnt) : (s.tidCnt t f).mport = s.mport := rfl
@[simp] theorem State.tidCnt_mpCtr (s : State) (t : Nat) (f : TidCnt → TidCnt) : (s.tidCnt t f).mpCtr = s.mpCtr := rfl
@[simp] theorem State.tidCnt_mpRr (s : State) (t : Nat) (f : TidCnt → TidCnt) : (s.tidCnt t f).mpRr = s.mpRr := rfl
@[simp] theorem State.tidCnt_engScale (s : State) (t : Nat) (f : TidCnt → TidCnt) : (s.tidCnt t f).engScale = s.engScale := rfl
@[simp] theorem State.tidCnt_spokeHeld (s : State) (t : Nat) (f : TidCnt → TidCnt) : (s.tidCnt t f).spokeHeld = s.spokeHeld := rfl
@[simp] theorem State.tidCnt_chans (s : State) (t : Nat) (f : TidCnt → TidCnt) : (s.tidCnt t f).chans = s.chans := rfl
@[simp] theorem State.tidCnt_engRr (s : State) (t : Nat) (f : TidCnt → TidCnt) : (s.tidCnt t f).engRr = s.engRr := rfl
@[simp] theorem State.tidCnt_recd (s : State) (t : Nat) (f : TidCnt → TidCnt) : (s.tidCnt t f).recd = s.recd := rfl
@[simp] theorem State.tidCnt_integ (s : State) (t : Nat) (f : TidCnt → TidCnt) : (s.tidCnt t f).integ = s.integ := rfl
@[simp] theorem State.tidCnt_test (s : State) (t : Nat) (f : TidCnt → TidCnt) : (s.tidCnt t f).test = s.test := rfl
@[simp] theorem State.tidCnt_life (s : State) (t : Nat) (f : TidCnt → TidCnt) : (s.tidCnt t f).life = s.life := rfl
@[simp] theorem State.tidCnt_raq (s : State) (t : Nat) (f : TidCnt → TidCnt) : (s.tidCnt t f).raq = s.raq := rfl
@[simp] theorem State.tidCnt_klen (s : State) (t : Nat) (f : TidCnt → TidCnt) : (s.tidCnt t f).klen = s.klen := rfl
@[simp] theorem State.tidCnt_link (s : State) (t : Nat) (f : TidCnt → TidCnt) : (s.tidCnt t f).link = s.link := rfl
@[simp] theorem State.tidCnt_win (s : State) (t : Nat) (f : TidCnt → TidCnt) : (s.tidCnt t f).win = s.win := rfl
@[simp] theorem State.tidCnt_fw (s : State) (t : Nat) (f : TidCnt → TidCnt) : (s.tidCnt t f).fw = s.fw := rfl
@[simp] theorem State.tidCnt_fab (s : State) (t : Nat) (f : TidCnt → TidCnt) : (s.tidCnt t f).fab = s.fab := rfl
@[simp] theorem State.tidCnt_pending (s : State) (t : Nat) (f : TidCnt → TidCnt) : (s.tidCnt t f).pending = s.pending := rfl
@[simp] theorem State.tidCnt_rd (s : State) (t : Nat) (f : TidCnt → TidCnt) (o : Nat) : (s.tidCnt t f).rd o = s.rd o := rfl
@[simp] theorem State.tidCnt_get (s : State) (t : Nat) (f : TidCnt → TidCnt) (o : Nat) (g : Fld) : (s.tidCnt t f).get o g = s.get o g := rfl
@[simp] theorem State.cond_cfg (s : State) (c : Bool) (f : State → State) : (s.cond c f).cfg = if c then (f s).cfg else s.cfg := by
  unfold State.cond; split <;> rfl
@[simp] theorem State.cond_regs (s : State) (c : Bool) (f : State → State) : (s.cond c f).regs = if c then (f s).regs else s.regs := by
  unfold State.cond; split <;> rfl
@[simp] theorem State.cond_now (s : State) (c : Bool) (f : State → State) : (s.cond c f).now = if c then (f s).now else s.now := by
  unfold State.cond; split <;> rfl
@[simp] theorem State.cond_pcNow (s : State) (c : Bool) (f : State → State) : (s.cond c f).pcNow = if c then (f s).pcNow else s.pcNow := by
  unfold State.cond; split <;> rfl
@[simp] theorem State.cond_pcRem (s : State) (c : Bool) (f : State → State) : (s.cond c f).pcRem = if c then (f s).pcRem else s.pcRem := by
  unfold State.cond; split <;> rfl
@[simp] theorem State.cond_pcDev (s : State) (c : Bool) (f : State → State) : (s.cond c f).pcDev = if c then (f s).pcDev else s.pcDev := by
  unfold State.cond; split <;> rfl
@[simp] theorem State.cond_pcDevRem (s : State) (c : Bool) (f : State → State) : (s.cond c f).pcDevRem = if c then (f s).pcDevRem else s.pcDevRem := by
  unfold State.cond; split <;> rfl
@[simp] theorem State.cond_clockOn (s : State) (c : Bool) (f : State → State) : (s.cond c f).clockOn = if c then (f s).clockOn else s.clockOn := by
  unfold State.cond; split <;> rfl
@[simp] theorem State.cond_fuseLoaded (s : State) (c : Bool) (f : State → State) : (s.cond c f).fuseLoaded = if c then (f s).fuseLoaded else s.fuseLoaded := by
  unfold State.cond; split <;> rfl
@[simp] theorem State.cond_porstLow (s : State) (c : Bool) (f : State → State) : (s.cond c f).porstLow = if c then (f s).porstLow else s.porstLow := by
  unfold State.cond; split <;> rfl
@[simp] theorem State.cond_srstLow (s : State) (c : Bool) (f : State → State) : (s.cond c f).srstLow = if c then (f s).srstLow else s.srstLow := by
  unfold State.cond; split <;> rfl
@[simp] theorem State.cond_railLost (s : State) (c : Bool) (f : State → State) : (s.cond c f).railLost = if c then (f s).railLost else s.railLost := by
  unfold State.cond; split <;> rfl
@[simp] theorem State.cond_fused (s : State) (c : Bool) (f : State → State) : (s.cond c f).fused = if c then (f s).fused else s.fused := by
  unfold State.cond; split <;> rfl
@[simp] theorem State.cond_freeCtr (s : State) (c : Bool) (f : State → State) : (s.cond c f).freeCtr = if c then (f s).freeCtr else s.freeCtr := by
  unfold State.cond; split <;> rfl
@[simp] theorem State.cond_array (s : State) (c : Bool) (f : State → State) : (s.cond c f).array = if c then (f s).array else s.array := by
  unfold State.cond; split <;> rfl
@[simp] theorem State.cond_rims (s : State) (c : Bool) (f : State → State) : (s.cond c f).rims = if c then (f s).rims else s.rims := by
  unfold State.cond; split <;> rfl
@[simp] theorem State.cond_hub (s : State) (c : Bool) (f : State → State) : (s.cond c f).hub = if c then (f s).hub else s.hub := by
  unfold State.cond; split <;> rfl
@[simp] theorem State.cond_ports (s : State) (c : Bool) (f : State → State) : (s.cond c f).ports = if c then (f s).ports else s.ports := by
  unfold State.cond; split <;> rfl
@[simp] theorem State.cond_handles (s : State) (c : Bool) (f : State → State) : (s.cond c f).handles = if c then (f s).handles else s.handles := by
  unfold State.cond; split <;> rfl
@[simp] theorem State.cond_hcmd (s : State) (c : Bool) (f : State → State) : (s.cond c f).hcmd = if c then (f s).hcmd else s.hcmd := by
  unfold State.cond; split <;> rfl
@[simp] theorem State.cond_regul (s : State) (c : Bool) (f : State → State) : (s.cond c f).regul = if c then (f s).regul else s.regul := by
  unfold State.cond; split <;> rfl
@[simp] theorem State.cond_psnLog (s : State) (c : Bool) (f : State → State) : (s.cond c f).psnLog = if c then (f s).psnLog else s.psnLog := by
  unfold State.cond; split <;> rfl
@[simp] theorem State.cond_captured (s : State) (c : Bool) (f : State → State) : (s.cond c f).captured = if c then (f s).captured else s.captured := by
  unfold State.cond; split <;> rfl
@[simp] theorem State.cond_reply (s : State) (c : Bool) (f : State → State) : (s.cond c f).reply = if c then (f s).reply else s.reply := by
  unfold State.cond; split <;> rfl
@[simp] theorem State.cond_energyAcc (s : State) (c : Bool) (f : State → State) : (s.cond c f).energyAcc = if c then (f s).energyAcc else s.energyAcc := by
  unfold State.cond; split <;> rfl
@[simp] theorem State.cond_shareHeld (s : State) (c : Bool) (f : State → State) : (s.cond c f).shareHeld = if c then (f s).shareHeld else s.shareHeld := by
  unfold State.cond; split <;> rfl
@[simp] theorem State.cond_domUp (s : State) (c : Bool) (f : State → State) : (s.cond c f).domUp = if c then (f s).domUp else s.domUp := by
  unfold State.cond; split <;> rfl
@[simp] theorem State.cond_domDead (s : State) (c : Bool) (f : State → State) : (s.cond c f).domDead = if c then (f s).domDead else s.domDead := by
  unfold State.cond; split <;> rfl
@[simp] theorem State.cond_wakes (s : State) (c : Bool) (f : State → State) : (s.cond c f).wakes = if c then (f s).wakes else s.wakes := by
  unfold State.cond; split <;> rfl
@[simp] theorem State.cond_sync (s : State) (c : Bool) (f : State → State) : (s.cond c f).sync = if c then (f s).sync else s.sync := by
  unfold State.cond; split <;> rfl
@[simp] theorem State.cond_cache (s : State) (c : Bool) (f : State → State) : (s.cond c f).cache = if c then (f s).cache else s.cache := by
  unfold State.cond; split <;> rfl
@[simp] theorem State.cond_mport (s : State) (c : Bool) (f : State → State) : (s.cond c f).mport = if c then (f s).mport else s.mport := by
  unfold State.cond; split <;> rfl
@[simp] theorem State.cond_mpCtr (s : State) (c : Bool) (f : State → State) : (s.cond c f).mpCtr = if c then (f s).mpCtr else s.mpCtr := by
  unfold State.cond; split <;> rfl
@[simp] theorem State.cond_mpRr (s : State) (c : Bool) (f : State → State) : (s.cond c f).mpRr = if c then (f s).mpRr else s.mpRr := by
  unfold State.cond; split <;> rfl
@[simp] theorem State.cond_engScale (s : State) (c : Bool) (f : State → State) : (s.cond c f).engScale = if c then (f s).engScale else s.engScale := by
  unfold State.cond; split <;> rfl
@[simp] theorem State.cond_spokeHeld (s : State) (c : Bool) (f : State → State) : (s.cond c f).spokeHeld = if c then (f s).spokeHeld else s.spokeHeld := by
  unfold State.cond; split <;> rfl
@[simp] theorem State.cond_chans (s : State) (c : Bool) (f : State → State) : (s.cond c f).chans = if c then (f s).chans else s.chans := by
  unfold State.cond; split <;> rfl
@[simp] theorem State.cond_engRr (s : State) (c : Bool) (f : State → State) : (s.cond c f).engRr = if c then (f s).engRr else s.engRr := by
  unfold State.cond; split <;> rfl
@[simp] theorem State.cond_recd (s : State) (c : Bool) (f : State → State) : (s.cond c f).recd = if c then (f s).recd else s.recd := by
  unfold State.cond; split <;> rfl
@[simp] theorem State.cond_integ (s : State) (c : Bool) (f : State → State) : (s.cond c f).integ = if c then (f s).integ else s.integ := by
  unfold State.cond; split <;> rfl
@[simp] theorem State.cond_test (s : State) (c : Bool) (f : State → State) : (s.cond c f).test = if c then (f s).test else s.test := by
  unfold State.cond; split <;> rfl
@[simp] theorem State.cond_life (s : State) (c : Bool) (f : State → State) : (s.cond c f).life = if c then (f s).life else s.life := by
  unfold State.cond; split <;> rfl
@[simp] theorem State.cond_raq (s : State) (c : Bool) (f : State → State) : (s.cond c f).raq = if c then (f s).raq else s.raq := by
  unfold State.cond; split <;> rfl
@[simp] theorem State.cond_klen (s : State) (c : Bool) (f : State → State) : (s.cond c f).klen = if c then (f s).klen else s.klen := by
  unfold State.cond; split <;> rfl
@[simp] theorem State.cond_link (s : State) (c : Bool) (f : State → State) : (s.cond c f).link = if c then (f s).link else s.link := by
  unfold State.cond; split <;> rfl
@[simp] theorem State.cond_win (s : State) (c : Bool) (f : State → State) : (s.cond c f).win = if c then (f s).win else s.win := by
  unfold State.cond; split <;> rfl
@[simp] theorem State.cond_fw (s : State) (c : Bool) (f : State → State) : (s.cond c f).fw = if c then (f s).fw else s.fw := by
  unfold State.cond; split <;> rfl
@[simp] theorem State.cond_fab (s : State) (c : Bool) (f : State → State) : (s.cond c f).fab = if c then (f s).fab else s.fab := by
  unfold State.cond; split <;> rfl
@[simp] theorem State.cond_pending (s : State) (c : Bool) (f : State → State) : (s.cond c f).pending = if c then (f s).pending else s.pending := by
  unfold State.cond; split <;> rfl
@[simp] theorem State.cond_rd (s : State) (c : Bool) (f : State → State) (o : Nat) :
    (s.cond c f).rd o = if c then (f s).rd o else s.rd o := by
  unfold State.cond; split <;> rfl
@[simp] theorem State.cond_get (s : State) (c : Bool) (f : State → State) (o : Nat) (g : Fld) :
    (s.cond c f).get o g = if c then (f s).get o g else s.get o g := by
  unfold State.cond; split <;> rfl
@[simp] theorem State.draw_cfg (s : State) : s.draw.2.cfg = s.cfg := rfl
@[simp] theorem State.draw_regs (s : State) : s.draw.2.regs = s.regs := rfl
@[simp] theorem State.draw_now (s : State) : s.draw.2.now = s.now := rfl
@[simp] theorem State.draw_pcNow (s : State) : s.draw.2.pcNow = s.pcNow := rfl
@[simp] theorem State.draw_pcRem (s : State) : s.draw.2.pcRem = s.pcRem := rfl
@[simp] theorem State.draw_pcDev (s : State) : s.draw.2.pcDev = s.pcDev := rfl
@[simp] theorem State.draw_pcDevRem (s : State) : s.draw.2.pcDevRem = s.pcDevRem := rfl
@[simp] theorem State.draw_clockOn (s : State) : s.draw.2.clockOn = s.clockOn := rfl
@[simp] theorem State.draw_fuseLoaded (s : State) : s.draw.2.fuseLoaded = s.fuseLoaded := rfl
@[simp] theorem State.draw_porstLow (s : State) : s.draw.2.porstLow = s.porstLow := rfl
@[simp] theorem State.draw_srstLow (s : State) : s.draw.2.srstLow = s.srstLow := rfl
@[simp] theorem State.draw_railLost (s : State) : s.draw.2.railLost = s.railLost := rfl
@[simp] theorem State.draw_fused (s : State) : s.draw.2.fused = s.fused := rfl
@[simp] theorem State.draw_array (s : State) : s.draw.2.array = s.array := rfl
@[simp] theorem State.draw_rims (s : State) : s.draw.2.rims = s.rims := rfl
@[simp] theorem State.draw_hub (s : State) : s.draw.2.hub = s.hub := rfl
@[simp] theorem State.draw_ports (s : State) : s.draw.2.ports = s.ports := rfl
@[simp] theorem State.draw_handles (s : State) : s.draw.2.handles = s.handles := rfl
@[simp] theorem State.draw_hcmd (s : State) : s.draw.2.hcmd = s.hcmd := rfl
@[simp] theorem State.draw_regul (s : State) : s.draw.2.regul = s.regul := rfl
@[simp] theorem State.draw_psnLog (s : State) : s.draw.2.psnLog = s.psnLog := rfl
@[simp] theorem State.draw_captured (s : State) : s.draw.2.captured = s.captured := rfl
@[simp] theorem State.draw_reply (s : State) : s.draw.2.reply = s.reply := rfl
@[simp] theorem State.draw_energyAcc (s : State) : s.draw.2.energyAcc = s.energyAcc := rfl
@[simp] theorem State.draw_shareHeld (s : State) : s.draw.2.shareHeld = s.shareHeld := rfl
@[simp] theorem State.draw_domUp (s : State) : s.draw.2.domUp = s.domUp := rfl
@[simp] theorem State.draw_domDead (s : State) : s.draw.2.domDead = s.domDead := rfl
@[simp] theorem State.draw_wakes (s : State) : s.draw.2.wakes = s.wakes := rfl
@[simp] theorem State.draw_sync (s : State) : s.draw.2.sync = s.sync := rfl
@[simp] theorem State.draw_cache (s : State) : s.draw.2.cache = s.cache := rfl
@[simp] theorem State.draw_mport (s : State) : s.draw.2.mport = s.mport := rfl
@[simp] theorem State.draw_mpCtr (s : State) : s.draw.2.mpCtr = s.mpCtr := rfl
@[simp] theorem State.draw_mpRr (s : State) : s.draw.2.mpRr = s.mpRr := rfl
@[simp] theorem State.draw_engScale (s : State) : s.draw.2.engScale = s.engScale := rfl
@[simp] theorem State.draw_spokeHeld (s : State) : s.draw.2.spokeHeld = s.spokeHeld := rfl
@[simp] theorem State.draw_chans (s : State) : s.draw.2.chans = s.chans := rfl
@[simp] theorem State.draw_engRr (s : State) : s.draw.2.engRr = s.engRr := rfl
@[simp] theorem State.draw_recd (s : State) : s.draw.2.recd = s.recd := rfl
@[simp] theorem State.draw_integ (s : State) : s.draw.2.integ = s.integ := rfl
@[simp] theorem State.draw_test (s : State) : s.draw.2.test = s.test := rfl
@[simp] theorem State.draw_life (s : State) : s.draw.2.life = s.life := rfl
@[simp] theorem State.draw_raq (s : State) : s.draw.2.raq = s.raq := rfl
@[simp] theorem State.draw_klen (s : State) : s.draw.2.klen = s.klen := rfl
@[simp] theorem State.draw_link (s : State) : s.draw.2.link = s.link := rfl
@[simp] theorem State.draw_win (s : State) : s.draw.2.win = s.win := rfl
@[simp] theorem State.draw_fw (s : State) : s.draw.2.fw = s.fw := rfl
@[simp] theorem State.draw_fab (s : State) : s.draw.2.fab = s.fab := rfl
@[simp] theorem State.draw_pending (s : State) : s.draw.2.pending = s.pending := rfl

@[simp] theorem State.portOf_port_self (s : State) (x : Nat) (f : PortSt → PortSt) : portOf (s.port x f) x = f (portOf s x) := by
  unfold portOf State.port; exact Sp.get_set_self ..
theorem State.portOf_port_of_ne (s : State) {x y : Nat} (f : PortSt → PortSt) (h : y ≠ x) : portOf (s.port x f) y = portOf s y := by
  unfold portOf State.port; exact Sp.get_set_of_ne _ _ _ h
@[simp] theorem State.rimOf_rim_self (s : State) (n p : Nat) (f : RimSt → RimSt) : rimOf (s.rim n p f) n p = f (rimOf s n p) := by
  unfold rimOf State.rim; exact Sp.get_set_self ..
@[simp] theorem State.chanOf_chan_self (s : State) (c : Nat) (f : MvChan → MvChan) : chanOf (s.chan c f) c = f (chanOf s c) := by
  unfold chanOf State.chan; exact Sp.get_set_self ..
@[simp] theorem State.raqOf_setRaq_self (s : State) (q : Nat) (f : RaQueue → RaQueue) : raqOf (s.setRaq q f) q = f (raqOf s q) := by
  unfold raqOf State.setRaq; exact Sp.get_set_self ..
@[simp] theorem State.tidOf_tidCnt_self (s : State) (t : Nat) (f : TidCnt → TidCnt) : tidOf (s.tidCnt t f) t = f (tidOf s t) := by
  unfold tidOf State.tidCnt; exact Sp.get_set_self ..
/-- A counter reads one more, within its width. -/
theorem State.get_bump_self (s : State) (a : Nat) (f : Fld) (n : Nat) (h : f.fits) :
    (s.bump a f n).get a f = (s.get a f + n) % 2 ^ (f.hi + 1 - f.lo) := by
  unfold State.bump; exact State.get_put_self s a f _ h
theorem State.get_bump_apart (s : State) {a b : Nat} {f g : Fld} (n : Nat) (h : f.fits) (d : Fld.apart a f b g) :
    (s.bump a f n).get b g = s.get b g := by
  unfold State.bump; exact State.get_put_apart s _ h d

/-- Everything but the registers and the recorder. -/
def State.sansRec (s : State) : State := { s with regs := [], recd := {} }
theorem State.fire_sansRec (s : State) (n info aux : Nat) : (s.fire n info aux).2.sansRec = s.sansRec := by
  unfold State.fire
  dsimp only
  split
  · rfl
  · split <;> rfl
theorem State.fireErrors_sansRec (s : State) (base k : Nat) : (s.fireErrors base k).2.sansRec = s.sansRec := by
  unfold State.fireErrors
  dsimp only
  generalize List.filter _ _ = l
  generalize hp : (false, s) = p
  have e : s.sansRec = p.2.sansRec := by rw [← hp]
  rw [e]
  clear hp e
  induction l generalizing p with
  | nil => rfl
  | cons a l ih => exact (ih _).trans (State.fire_sansRec ..)
theorem State.missed_sansRec (s : State) : s.missed.sansRec = s.sansRec := by
  unfold State.missed
  split
  · rfl
  · exact (State.fireErrors_sansRec ..).trans rfl
/-- An interrupt bit set: only registers and the recorder can change. -/
theorem State.irq_sansRec (s : State) (base k : Nat) : (s.irq base k).sansRec = s.sansRec := by
  unfold State.irq
  split
  · rfl
  · dsimp only
    unfold State.cond
    split
    · exact (State.missed_sansRec _).trans ((State.fireErrors_sansRec ..).trans rfl)
    · exact (State.fireErrors_sansRec ..).trans rfl
@[simp] theorem State.irq_cfg (s : State) (b k : Nat) : (s.irq b k).cfg = s.cfg :=
  (congrArg State.cfg (State.irq_sansRec s b k) :)
@[simp] theorem State.irq_now (s : State) (b k : Nat) : (s.irq b k).now = s.now :=
  (congrArg State.now (State.irq_sansRec s b k) :)
@[simp] theorem State.irq_pcNow (s : State) (b k : Nat) : (s.irq b k).pcNow = s.pcNow :=
  (congrArg State.pcNow (State.irq_sansRec s b k) :)
@[simp] theorem State.irq_pcRem (s : State) (b k : Nat) : (s.irq b k).pcRem = s.pcRem :=
  (congrArg State.pcRem (State.irq_sansRec s b k) :)
@[simp] theorem State.irq_pcDev (s : State) (b k : Nat) : (s.irq b k).pcDev = s.pcDev :=
  (congrArg State.pcDev (State.irq_sansRec s b k) :)
@[simp] theorem State.irq_pcDevRem (s : State) (b k : Nat) : (s.irq b k).pcDevRem = s.pcDevRem :=
  (congrArg State.pcDevRem (State.irq_sansRec s b k) :)
@[simp] theorem State.irq_clockOn (s : State) (b k : Nat) : (s.irq b k).clockOn = s.clockOn :=
  (congrArg State.clockOn (State.irq_sansRec s b k) :)
@[simp] theorem State.irq_fuseLoaded (s : State) (b k : Nat) : (s.irq b k).fuseLoaded = s.fuseLoaded :=
  (congrArg State.fuseLoaded (State.irq_sansRec s b k) :)
@[simp] theorem State.irq_porstLow (s : State) (b k : Nat) : (s.irq b k).porstLow = s.porstLow :=
  (congrArg State.porstLow (State.irq_sansRec s b k) :)
@[simp] theorem State.irq_srstLow (s : State) (b k : Nat) : (s.irq b k).srstLow = s.srstLow :=
  (congrArg State.srstLow (State.irq_sansRec s b k) :)
@[simp] theorem State.irq_railLost (s : State) (b k : Nat) : (s.irq b k).railLost = s.railLost :=
  (congrArg State.railLost (State.irq_sansRec s b k) :)
@[simp] theorem State.irq_fused (s : State) (b k : Nat) : (s.irq b k).fused = s.fused :=
  (congrArg State.fused (State.irq_sansRec s b k) :)
@[simp] theorem State.irq_freeCtr (s : State) (b k : Nat) : (s.irq b k).freeCtr = s.freeCtr :=
  (congrArg State.freeCtr (State.irq_sansRec s b k) :)
@[simp] theorem State.irq_array (s : State) (b k : Nat) : (s.irq b k).array = s.array :=
  (congrArg State.array (State.irq_sansRec s b k) :)
@[simp] theorem State.irq_rims (s : State) (b k : Nat) : (s.irq b k).rims = s.rims :=
  (congrArg State.rims (State.irq_sansRec s b k) :)
@[simp] theorem State.irq_hub (s : State) (b k : Nat) : (s.irq b k).hub = s.hub :=
  (congrArg State.hub (State.irq_sansRec s b k) :)
@[simp] theorem State.irq_ports (s : State) (b k : Nat) : (s.irq b k).ports = s.ports :=
  (congrArg State.ports (State.irq_sansRec s b k) :)
@[simp] theorem State.irq_handles (s : State) (b k : Nat) : (s.irq b k).handles = s.handles :=
  (congrArg State.handles (State.irq_sansRec s b k) :)
@[simp] theorem State.irq_hcmd (s : State) (b k : Nat) : (s.irq b k).hcmd = s.hcmd :=
  (congrArg State.hcmd (State.irq_sansRec s b k) :)
@[simp] theorem State.irq_regul (s : State) (b k : Nat) : (s.irq b k).regul = s.regul :=
  (congrArg State.regul (State.irq_sansRec s b k) :)
@[simp] theorem State.irq_psnLog (s : State) (b k : Nat) : (s.irq b k).psnLog = s.psnLog :=
  (congrArg State.psnLog (State.irq_sansRec s b k) :)
@[simp] theorem State.irq_captured (s : State) (b k : Nat) : (s.irq b k).captured = s.captured :=
  (congrArg State.captured (State.irq_sansRec s b k) :)
@[simp] theorem State.irq_reply (s : State) (b k : Nat) : (s.irq b k).reply = s.reply :=
  (congrArg State.reply (State.irq_sansRec s b k) :)
@[simp] theorem State.irq_energyAcc (s : State) (b k : Nat) : (s.irq b k).energyAcc = s.energyAcc :=
  (congrArg State.energyAcc (State.irq_sansRec s b k) :)
@[simp] theorem State.irq_shareHeld (s : State) (b k : Nat) : (s.irq b k).shareHeld = s.shareHeld :=
  (congrArg State.shareHeld (State.irq_sansRec s b k) :)
@[simp] theorem State.irq_domUp (s : State) (b k : Nat) : (s.irq b k).domUp = s.domUp :=
  (congrArg State.domUp (State.irq_sansRec s b k) :)
@[simp] theorem State.irq_domDead (s : State) (b k : Nat) : (s.irq b k).domDead = s.domDead :=
  (congrArg State.domDead (State.irq_sansRec s b k) :)
@[simp] theorem State.irq_wakes (s : State) (b k : Nat) : (s.irq b k).wakes = s.wakes :=
  (congrArg State.wakes (State.irq_sansRec s b k) :)
@[simp] theorem State.irq_sync (s : State) (b k : Nat) : (s.irq b k).sync = s.sync :=
  (congrArg State.sync (State.irq_sansRec s b k) :)
@[simp] theorem State.irq_cache (s : State) (b k : Nat) : (s.irq b k).cache = s.cache :=
  (congrArg State.cache (State.irq_sansRec s b k) :)
@[simp] theorem State.irq_mport (s : State) (b k : Nat) : (s.irq b k).mport = s.mport :=
  (congrArg State.mport (State.irq_sansRec s b k) :)
@[simp] theorem State.irq_mpCtr (s : State) (b k : Nat) : (s.irq b k).mpCtr = s.mpCtr :=
  (congrArg State.mpCtr (State.irq_sansRec s b k) :)
@[simp] theorem State.irq_mpRr (s : State) (b k : Nat) : (s.irq b k).mpRr = s.mpRr :=
  (congrArg State.mpRr (State.irq_sansRec s b k) :)
@[simp] theorem State.irq_engScale (s : State) (b k : Nat) : (s.irq b k).engScale = s.engScale :=
  (congrArg State.engScale (State.irq_sansRec s b k) :)
@[simp] theorem State.irq_spokeHeld (s : State) (b k : Nat) : (s.irq b k).spokeHeld = s.spokeHeld :=
  (congrArg State.spokeHeld (State.irq_sansRec s b k) :)
@[simp] theorem State.irq_chans (s : State) (b k : Nat) : (s.irq b k).chans = s.chans :=
  (congrArg State.chans (State.irq_sansRec s b k) :)
@[simp] theorem State.irq_engRr (s : State) (b k : Nat) : (s.irq b k).engRr = s.engRr :=
  (congrArg State.engRr (State.irq_sansRec s b k) :)
@[simp] theorem State.irq_integ (s : State) (b k : Nat) : (s.irq b k).integ = s.integ :=
  (congrArg State.integ (State.irq_sansRec s b k) :)
@[simp] theorem State.irq_test (s : State) (b k : Nat) : (s.irq b k).test = s.test :=
  (congrArg State.test (State.irq_sansRec s b k) :)
@[simp] theorem State.irq_life (s : State) (b k : Nat) : (s.irq b k).life = s.life :=
  (congrArg State.life (State.irq_sansRec s b k) :)
@[simp] theorem State.irq_raq (s : State) (b k : Nat) : (s.irq b k).raq = s.raq :=
  (congrArg State.raq (State.irq_sansRec s b k) :)
@[simp] theorem State.irq_klen (s : State) (b k : Nat) : (s.irq b k).klen = s.klen :=
  (congrArg State.klen (State.irq_sansRec s b k) :)
@[simp] theorem State.irq_link (s : State) (b k : Nat) : (s.irq b k).link = s.link :=
  (congrArg State.link (State.irq_sansRec s b k) :)
@[simp] theorem State.irq_win (s : State) (b k : Nat) : (s.irq b k).win = s.win :=
  (congrArg State.win (State.irq_sansRec s b k) :)
@[simp] theorem State.irq_fw (s : State) (b k : Nat) : (s.irq b k).fw = s.fw :=
  (congrArg State.fw (State.irq_sansRec s b k) :)
@[simp] theorem State.irq_fab (s : State) (b k : Nat) : (s.irq b k).fab = s.fab :=
  (congrArg State.fab (State.irq_sansRec s b k) :)
@[simp] theorem State.irq_pending (s : State) (b k : Nat) : (s.irq b k).pending = s.pending :=
  (congrArg State.pending (State.irq_sansRec s b k) :)

/-- The registers that setting an interrupt bit leaves: all but the page's IRQ_STAT, outside the recorder page. -/
theorem State.fire_rd (s : State) (n info aux o : Nat) (hn : n < 32) (h : o < pgREC ∨ pgREC + 4096 ≤ o) :
    (s.fire n info aux).2.rd o = s.rd o := by
  have e1 : o ≠ pgREC + (RECORDER_TRG_HITS_COUNT.at 16 n).off := by
    simp only [RECORDER_TRG_HITS_COUNT, pgREC] at *; omega
  have e2 : o ≠ pgREC + RECORDER_RC_MISSED_COUNT.off := by
    simp only [RECORDER_RC_MISSED_COUNT, pgREC] at *; omega
  unfold State.fire
  dsimp only
  split
  · rfl
  · split
    · exact (State.rd_put_of_ne _ _ e2).trans (State.rd_put_of_ne _ _ e1)
    · exact (State.rd_put_of_ne s _ e1 : (s.bump pgREC (RECORDER_TRG_HITS_COUNT.at 16 n)).rd o = s.rd o)
theorem State.fireErrors_rd (s : State) (base k o : Nat) (h : o < pgREC ∨ pgREC + 4096 ≤ o) :
    (s.fireErrors base k).2.rd o = s.rd o := by
  unfold State.fireErrors
  dsimp only
  have hl : ∀ n ∈ (triggers s 1).filter fun n =>
      bits (trgCfg s n) 8 0 == (base + HDR_IRQ_STAT) / 4096 && bit (trgArg0 s n) k, n < 32 := by
    intro n hn
    have := (List.mem_filter.mp hn).1
    unfold triggers at this
    exact List.mem_range.mp (List.mem_filter.mp this).1
  generalize List.filter _ _ = l at hl
  generalize hp : (false, s) = p
  have e : s.rd o = p.2.rd o := by rw [← hp]
  rw [e]
  clear hp e
  induction l generalizing p with
  | nil => rfl
  | cons a l ih =>
    exact (ih (fun n hn => hl n (List.mem_cons_of_mem _ hn)) _).trans
      (State.fire_rd _ _ _ _ _ (hl a List.mem_cons_self) h)
theorem State.irq_rd (s : State) (base k o : Nat) (hb : o ≠ base + HDR_IRQ_STAT) (h : o < pgREC ∨ pgREC + 4096 ≤ o) :
    (s.irq base k).rd o = s.rd o := by
  have h3 : o ≠ pgREC + HDR_IRQ_STAT := by
    simp only [HDR_IRQ_STAT, pgREC] at *; omega
  unfold State.irq
  split
  · rfl
  · dsimp only
    have h1 : ((s.irqBit base k).fireErrors base k).2.rd o = s.rd o :=
      (State.fireErrors_rd _ _ _ _ h).trans (State.rd_wr_of_ne _ _ hb)
    unfold State.cond
    split
    · unfold State.missed
      split
      · exact h1
      · exact (State.fireErrors_rd _ _ _ _ h).trans ((State.rd_wr_of_ne _ _ h3).trans h1)
    · exact h1
/-- A field outside the recorder page and outside the page's IRQ_STAT keeps its value. -/
theorem State.irq_get (s : State) (base k a : Nat) (f : Fld) (hb : a + f.off ≠ base + HDR_IRQ_STAT)
    (h : a + f.off < pgREC ∨ pgREC + 4096 ≤ a + f.off) : (s.irq base k).get a f = s.get a f := by
  unfold State.get; rw [State.irq_rd s base k _ hb h]
end Sys2Proof.Machine
end

