-- ==== Sys2Proof/Laws/Frames.lean ====
section
/-! SUPPORT. What the shared operations leave, and what the fields they change read afterwards. -/
namespace Sys2Proof.Machine

/-- The state without its registers, its recorder and its array. -/
def State.bare (s : State) : State := { s.sansRec with array := {} }
theorem bare_eq {s t : State} (h : t.sansRec = s.sansRec) : t.bare = s.bare := by unfold State.bare; rw [h]
@[simp] theorem State.wr_bare (s : State) (a : Nat) (w : Word32) : (s.wr a w).bare = s.bare := rfl
@[simp] theorem State.put_bare (s : State) (a : Nat) (f : Fld) (v : Nat) : (s.put a f v).bare = s.bare := rfl
@[simp] theorem State.bump_bare (s : State) (a : Nat) (f : Fld) (v : Nat) : (s.bump a f v).bare = s.bare := rfl
@[simp] theorem State.bumpSat_bare (s : State) (a : Nat) (f : Fld) (v : Nat) : (s.bumpSat a f v).bare = s.bare := rfl
@[simp] theorem State.drop_bare (s : State) (a : Nat) (f : Fld) (v : Nat) : (s.drop a f v).bare = s.bare := rfl
@[simp] theorem State.arr_bare (s : State) (f : ArraySt → ArraySt) : (s.arr f).bare = s.bare := rfl
@[simp] theorem State.irq_bare (s : State) (b k : Nat) : (s.irq b k).bare = s.bare := bare_eq (State.irq_sansRec s b k)
@[simp] theorem State.cond_bare (s : State) (c : Bool) (f : State → State) :
    (s.cond c f).bare = if c then (f s).bare else s.bare := by unfold State.cond; split <;> rfl
@[simp] theorem storeAt_bare (s : State) (layer p frame r c : Nat) (w : Stored) (fl : Bool) : (storeAt s layer p frame r c w fl).bare = s.bare := by
  simp [storeAt, State.setWord, State.setValid]
@[simp] theorem storeWord_bare (s : State) (layer frame r c : Nat) (w : Stored) (fl : Bool) : (storeWord s layer frame r c w fl).bare = s.bare := by
  unfold storeWord
  dsimp only
  split <;> simp
@[simp] theorem writeSeg_bare (s : State) (layer frame r c : Nat) (d : Seg) : (writeSeg s layer frame r c d).bare = s.bare := by simp [writeSeg]
@[simp] theorem writeMasked_bare (s : State) (layer frame r c : Nat) (x : SegOp) : (writeMasked s layer frame r c x).bare = s.bare := by
  unfold writeMasked
  dsimp only
  split
  · simp
  · split <;> simp
theorem hub_of_bare {s t : State} (h : t.bare = s.bare) : t.hub = s.hub := (congrArg State.hub h :)
theorem ports_of_bare {s t : State} (h : t.bare = s.bare) : t.ports = s.ports := (congrArg State.ports h :)
theorem rims_of_bare {s t : State} (h : t.bare = s.bare) : t.rims = s.rims := (congrArg State.rims h :)
theorem cfg_of_bare {s t : State} (h : t.bare = s.bare) : t.cfg = s.cfg := (congrArg State.cfg h :)
theorem each_nil {α : Type} (s : State) (f : State → α → State) : s.each [] f = s := rfl
theorem State.each_of {α β : Type} (g : State → β) (f : State → α → State) (h : ∀ s a, g (f s a) = g s) :
    ∀ (l : List α) (s : State), g (s.each l f) = g s
  | [], _ => rfl
  | a :: l, s => (State.each_of g f h l (f s a)).trans (h s a)
theorem State.bumpSat_rd (s : State) {a b : Nat} {f : Fld} (v : Nat) (h : b ≠ a + f.off) : (s.bumpSat a f v).rd b = s.rd b := State.rd_put_of_ne _ _ h
theorem State.bump_rd (s : State) {a b : Nat} {f : Fld} (v : Nat) (h : b ≠ a + f.off) : (s.bump a f v).rd b = s.rd b := State.rd_put_of_ne _ _ h
theorem State.drop_rd (s : State) {a b : Nat} {f : Fld} (v : Nat) (h : b ≠ a + f.off) : (s.drop a f v).rd b = s.rd b := State.rd_put_of_ne _ _ h
/-- A write of the array leaves the registers below the INTEG page. -/
theorem storeAt_rd (s : State) (layer p frame r c : Nat) (w : Stored) (fl : Bool) (o : Nat) (h : o < pgINTEG) :
    (storeAt s layer p frame r c w fl).rd o = s.rd o := by
  have hi : pgINTEG = 720896 := rfl
  have hr : pgREC = 917504 := rfl
  unfold storeAt
  dsimp only
  rw [State.cond_rd, State.irq_rd _ _ _ _ (by simp only [HDR_IRQ_STAT]; omega) (.inl (by omega)), State.rd_put_of_ne _ _ (by omega),
    State.rd_put_of_ne _ _ (by omega), State.rd_put_of_ne _ _ (by omega)]
  exact ite_self _
theorem storeWord_rd (s : State) (layer frame r c : Nat) (w : Stored) (fl : Bool) (o : Nat) (h : o < pgINTEG) :
    (storeWord s layer frame r c w fl).rd o = s.rd o := by
  unfold storeWord
  dsimp only
  rw [State.arr_rd, State.cond_rd, State.bumpSat_rd _ _ (by omega), ite_self]
  split
  · rw [storeAt_rd _ _ _ _ _ _ _ _ _ h, storeAt_rd _ _ _ _ _ _ _ _ _ h]
  · rw [storeAt_rd _ _ _ _ _ _ _ _ _ h]
theorem writeSeg_rd (s : State) (layer frame r c : Nat) (d : Seg) (o : Nat) (h : o < pgINTEG) : (writeSeg s layer frame r c d).rd o = s.rd o :=
  storeWord_rd _ _ _ _ _ _ _ _ h
theorem State.get_congr {s t : State} (h : t.regs = s.regs) (hc : t.cfg = s.cfg) (a : Nat) (f : Fld) : t.get a f = s.get a f := by
  unfold State.get State.rd; rw [h, hc]
theorem State.rd_congr {s t : State} (h : t.regs = s.regs) (hc : t.cfg = s.cfg) (o : Nat) : t.rd o = s.rd o := by
  unfold State.rd; rw [h, hc]
theorem State.get_wr_of_ne (s : State) {a b : Nat} (f : Fld) (w : Word32) (h : b + f.off ≠ a) : (s.wr a w).get b f = s.get b f := by
  unfold State.get; rw [State.rd_wr_of_ne _ _ h]
theorem State.get_lt (s : State) (a : Nat) (f : Fld) : s.get a f < 2 ^ (f.hi + 1 - f.lo) := by
  unfold State.get Fld.of bits; exact Nat.mod_lt _ (Nat.two_pow_pos _)
theorem Fld.of_lt (f : Fld) (w : Word32) : f.of w < 2 ^ (f.hi + 1 - f.lo) := by
  unfold Fld.of bits; exact Nat.mod_lt _ (Nat.two_pow_pos _)
/-- A refused write leaves every register outside the error fields of its page's header. -/
theorem State.refused_rd (s : State) (m : Master) (b r o : Nat) (h0 : o ≠ b + HDR_ERR_INFO) (h1 : o ≠ b + HDR_ERR_ADDR) (h2 : o ≠ b + HDR_VIOL_CNT) :
    (s.refused m b r).rd o = s.rd o := by
  unfold State.refused State.flagPage
  rw [State.bumpSat_rd _ _ h2, State.rd_wr_of_ne _ _ h1, State.rd_wr_of_ne _ _ h0]
theorem State.refused_get (s : State) (m : Master) (b r : Nat) (f : Fld) (h : 0x40 ≤ f.off) : (s.refused m b r).get b f = s.get b f := by
  unfold State.get
  rw [State.refused_rd] <;> simp only [HDR_ERR_INFO, HDR_ERR_ADDR, HDR_VIOL_CNT] <;> omega
theorem Fld.at_fits {f : Fld} (n k : Nat) (h : f.fits) : (f.at n k).fits := h
theorem Fld.at_apart {f g : Fld} (n k : Nat) (h : g.hi < f.lo ∨ f.hi < g.lo) : (g.at n k).hi < (f.at n k).lo ∨ (f.at n k).hi < (g.at n k).lo := h
/-- The state without what an access of the storage array can change: the registers, the recorder, the array, the Hub, the rims, the
synchronisation plane's pending effects, the regulation counters, the energy ledger, the wakes, the poison log and the counter of
free values. -/
def State.stem (s : State) : State :=
  { s with regs := [], recd := {}, array := {}, hub := {}, rims := [], sync := {}, regul := {}, energyAcc := {}, wakes := [],
           psnLog := [], freeCtr := 0 }
theorem stem_of_bare {s t : State} (h : t.bare = s.bare) : t.stem = s.stem := (congrArg State.stem h :)
@[simp] theorem State.wr_stem (s : State) (a : Nat) (w : Word32) : (s.wr a w).stem = s.stem := rfl
@[simp] theorem State.put_stem (s : State) (a : Nat) (f : Fld) (v : Nat) : (s.put a f v).stem = s.stem := rfl
@[simp] theorem State.bump_stem (s : State) (a : Nat) (f : Fld) (v : Nat) : (s.bump a f v).stem = s.stem := rfl
@[simp] theorem State.bumpSat_stem (s : State) (a : Nat) (f : Fld) (v : Nat) : (s.bumpSat a f v).stem = s.stem := rfl
@[simp] theorem State.drop_stem (s : State) (a : Nat) (f : Fld) (v : Nat) : (s.drop a f v).stem = s.stem := rfl
@[simp] theorem State.put64_stem (s : State) (a b v : Nat) : (s.put64 a b v).stem = s.stem := rfl
@[simp] theorem State.arr_stem (s : State) (f : ArraySt → ArraySt) : (s.arr f).stem = s.stem := rfl
@[simp] theorem State.hubf_stem (s : State) (f : HubSt → HubSt) : (s.hubf f).stem = s.stem := rfl
@[simp] theorem State.syn_stem (s : State) (f : SyncSt → SyncSt) : (s.syn f).stem = s.stem := rfl
@[simp] theorem State.rim_stem (s : State) (n p : Nat) (f : RimSt → RimSt) : (s.rim n p f).stem = s.stem := rfl
@[simp] theorem State.tidCnt_stem (s : State) (t : Nat) (f : TidCnt → TidCnt) : (s.tidCnt t f).stem = s.stem := rfl
@[simp] theorem State.energy_stem (s : State) (k n t : Nat) (o : Option Nat) : (s.energy k n t o).stem = s.stem := rfl
@[simp] theorem State.charge_stem (s : State) (t a b : Nat) : (s.charge t a b).stem = s.stem := rfl
@[simp] theorem State.latency_stem (s : State) (t l : Nat) : (s.latency t l).stem = s.stem := rfl
@[simp] theorem State.upd_stem (s : State) (a : Access) : (s.upd a).stem = s.stem := rfl
@[simp] theorem State.leave_stem (s : State) (a : Access) : (s.leave a).stem = s.stem := rfl
@[simp] theorem State.setFlight_stem (s : State) (l : List Access) : (s.setFlight l).stem = s.stem := rfl
@[simp] theorem State.draw_stem (s : State) : s.draw.2.stem = s.stem := rfl
@[simp] theorem State.settleLine_stem (s : State) (x g l st : Nat) : (s.settleLine x g l st).stem = s.stem := rfl
@[simp] theorem State.setValid_stem (s : State) (w : Nat) (b : Bool) : (s.setValid w b).stem = s.stem := rfl
@[simp] theorem State.irq_stem (s : State) (b k : Nat) : (s.irq b k).stem = s.stem := stem_of_bare (State.irq_bare s b k)
@[simp] theorem State.cond_stem (s : State) (c : Bool) (f : State → State) : (s.cond c f).stem = if c then (f s).stem else s.stem := by
  unfold State.cond; split <;> rfl
theorem State.each_stem {α : Type} (f : State → α → State) (h : ∀ s a, (f s a).stem = s.stem) (l : List α) (s : State) :
    (s.each l f).stem = s.stem := State.each_of State.stem f h l s
@[simp] theorem State.settleAcc_stem (s : State) (a : Access) (st : Nat) : (s.settleAcc a st).stem = s.stem := by
  unfold State.settleAcc; split <;> rfl
@[simp] theorem writeSeg_stem (s : State) (n f r c : Nat) (d : Seg) : (writeSeg s n f r c d).stem = s.stem := stem_of_bare (writeSeg_bare ..)
@[simp] theorem writeMasked_stem (s : State) (n f r c : Nat) (x : SegOp) : (writeMasked s n f r c x).stem = s.stem := stem_of_bare (writeMasked_bare ..)
@[simp] theorem readSeg_stem (s : State) (n p f r c : Nat) : (readSeg s n p f r c).2.stem = s.stem := by
  unfold readSeg
  dsimp only
  split
  · rfl
  · split
    · split <;> rfl
    · split <;> rfl
@[simp] theorem countCheck_stem (s : State) (n p : Nat) (x : SegRead) : (countCheck s n p x).stem = s.stem := by
  unfold countCheck; simp
@[simp] theorem State.queueWb_stem (s : State) (a : Access) (r c : Nat) (d : Seg) : (s.queueWb a r c d).stem = s.stem := by
  unfold State.queueWb
  dsimp only
  split
  · rfl
  · split <;> rfl
@[simp] theorem State.noteWrite_stem (s o : State) (a : Access) : (s.noteWrite o a).stem = s.stem := rfl
@[simp] theorem State.observed_stem (s : State) (n f : Nat) (l : List (Nat × Nat)) : (s.observed n f l).stem = s.stem := rfl
@[simp] theorem State.writeHalf_stem (s : State) (n p : Nat) : (s.writeHalf n p).stem = s.stem := by
  unfold State.writeHalf
  split
  · rfl
  · rename_i h _
    have e : (s.each h.writes fun s w => writeSeg s n h.frame w.1 w.2.1 w.2.2).stem = s.stem :=
      State.each_stem _ (fun s w => writeSeg_stem ..) _ _
    dsimp only
    split
    · rw [State.noteWrite_stem, State.upd_stem, State.settleAcc_stem, State.rim_stem, e]
    · rw [State.rim_stem, e]
@[simp] theorem State.oneAcc_stem (s : State) (n p : Nat) (l : List Nat) (o : Option Nat) : (s.oneAcc n p l o).stem = s.stem := by
  unfold State.oneAcc
  dsimp only
  rw [State.each_stem _ (fun s t => State.tidCnt_stem ..), State.energy_stem, State.hubf_stem, State.bump_stem]
@[simp] theorem State.countAcc_stem (s : State) (n i : Nat) (l w : List Nat) (o : Option Nat) : (s.countAcc n i l w o).stem = s.stem := by
  unfold State.countAcc
  rw [State.cond_stem]
  split
  · dsimp only
    split
    · rw [State.cond_stem, State.oneAcc_stem, ite_self, State.oneAcc_stem]
    · rw [State.oneAcc_stem]
  · rfl
@[simp] theorem State.settle_stem (s : State) (n i : Nat) : (s.settle n i).stem = s.stem := by
  unfold State.settle
  dsimp only
  split
  · rfl
  · rw [State.countAcc_stem, State.writeHalf_stem]
@[simp] theorem State.takeClaim_stem (s : State) (a : Access) : (s.takeClaim a).2.stem = s.stem := by
  unfold State.takeClaim; split <;> rfl
@[simp] theorem State.countGrant_stem (s : State) (b : Nat) (a : Access) : (s.countGrant b a).stem = s.stem := by
  unfold State.countGrant
  dsimp only
  rw [State.cond_stem, State.bump_stem, ite_self, State.tidCnt_stem]
@[simp] theorem State.underClaim_stem (s : State) (a : Access) : (s.underClaim a).2.stem = s.stem := by
  unfold State.underClaim
  have h := State.takeClaim_stem s a
  split
  · rename_i e; rw [e] at h; exact (State.latency_stem ..).trans h
  · rename_i e; rw [e] at h; dsimp only; rw [State.latency_stem, State.countGrant_stem, State.countAcc_stem]; exact h
theorem readSegs_go_stem (a : Access) (p : Nat) : ∀ (l : List SegOp) (s : State) (k pm : Nat), (readSegs.go a p s k pm l).2.2.2.stem = s.stem
  | [], _, _, _ => rfl
  | x :: xs, s, k, pm => by
    unfold readSegs.go
    dsimp only
    rw [readSegs_go_stem a p xs, State.cond_stem, State.queueWb_stem, ite_self, countCheck_stem, readSeg_stem]
@[simp] theorem readSegs_stem (s : State) (a : Access) : (readSegs s a).stem = s.stem := by
  unfold readSegs
  dsimp only
  rw [State.upd_stem, readSegs_go_stem, State.observed_stem]
@[simp] theorem State.mark_stem (s : State) (t st : Nat) : (s.mark t st).stem = s.stem := by
  unfold State.mark; split <;> simp
@[simp] theorem State.logPoison_stem (s : State) (e : PsnEntry) : (s.logPoison e).stem = s.stem := by
  unfold State.logPoison; split
  · rw [State.irq_stem]; rfl
  · simp
@[simp] theorem State.poison_stem (s : State) (k n f r c t st so : Nat) : (s.poison k n f r c t st so).stem = s.stem := by
  unfold State.poison; simp
@[simp] theorem State.poisonAcc_stem (s : State) (a : Access) (k : Nat) : (s.poisonAcc a k).stem = s.stem :=
  State.each_stem _ (fun s k => State.poison_stem ..) _ _
@[simp] theorem directRead_stem (s : State) (n f : Nat) (l : List (Nat × Nat)) (t : Nat) : (directRead s n f l t).2.2.stem = s.stem := by
  unfold directRead
  dsimp only
  split
  · rw [readSegs_stem, State.setFlight_stem, State.hubf_stem, State.underClaim_stem, State.settle_stem]
  · rw [State.leave_stem, State.poisonAcc_stem, readSegs_stem, State.setFlight_stem, State.hubf_stem, State.underClaim_stem, State.settle_stem]
theorem directWrite_go_stem (n f p : Nat) : ∀ (l : List SegOp) (s : State) (k pm : Nat), (directWrite.go n f p s k pm l).2.2.stem = s.stem
  | [], _, _, _ => rfl
  | x :: xs, s, k, pm => by
    unfold directWrite.go
    split
    · dsimp only
      rw [directWrite_go_stem n f p xs, countCheck_stem, readSeg_stem]
    · rw [directWrite_go_stem n f p xs, writeMasked_stem]
@[simp] theorem directWrite_stem (s : State) (n f : Nat) (l : List SegOp) (t : Nat) : (directWrite s n f l t).2.stem = s.stem := by
  unfold directWrite
  dsimp only
  rw [State.poisonAcc_stem, State.cond_stem, State.bump_stem, State.rim_stem, ite_self, directWrite_go_stem, State.observed_stem,
    State.underClaim_stem, State.settle_stem]
@[simp] theorem State.askWake_stem (s : State) (n p : Nat) : (s.askWake n p).stem = s.stem := by
  unfold State.askWake State.cond; dsimp only; split <;> rfl
@[simp] theorem State.tryRim_stem (s : State) (t n f pol : Nat) : (s.tryRim t n f pol).2.stem = s.stem := by
  unfold State.tryRim
  dsimp only
  split
  · rfl
  · split
    · rfl
    · split
      · simp
      · split <;> rfl
@[simp] theorem State.clearFrames_stem (s : State) (h : Nat → Nat → Nat → Bool) : (s.clearFrames h).stem = s.stem := rfl
@[simp] theorem State.clearLine_stem (s : State) (l : LineAt) : (s.clearLine l).stem = s.stem := rfl
@[simp] theorem State.missed_stem (s : State) : s.missed.stem = s.stem := (congrArg (fun s : State => { s with array := {}, hub := {}, rims := [], sync := {}, regul := {}, energyAcc := {}, wakes := [], psnLog := [], freeCtr := 0 }) (State.missed_sansRec s) :)
@[simp] theorem State.fire_stem (s : State) (n i a : Nat) : (s.fire n i a).2.stem = s.stem := (congrArg (fun s : State => { s with array := {}, hub := {}, rims := [], sync := {}, regul := {}, energyAcc := {}, wakes := [], psnLog := [], freeCtr := 0 }) (State.fire_sansRec s n i a) :)
@[simp] theorem State.trigger_stem (s : State) (n i a : Nat) : (s.trigger n i a).stem = s.stem := by
  unfold State.trigger; dsimp only; rw [State.cond_stem, State.missed_stem, ite_self, State.fire_stem]
/-- The stem without the ports, to which the synchronisation plane also answers. -/
def State.trunk (s : State) : State := { s.stem with ports := [] }
theorem trunk_of_stem {s t : State} (h : t.stem = s.stem) : t.trunk = s.trunk := by unfold State.trunk; rw [h]
theorem raq_of_trunk {s t : State} (h : t.trunk = s.trunk) : t.raq = s.raq := (congrArg State.raq h :)
@[simp] theorem State.port_trunk (s : State) (x : Nat) (f : PortSt → PortSt) : (s.port x f).trunk = s.trunk := rfl
@[simp] theorem State.put_trunk (s : State) (a : Nat) (f : Fld) (v : Nat) : (s.put a f v).trunk = s.trunk := rfl
@[simp] theorem State.bump_trunk (s : State) (a : Nat) (f : Fld) (v : Nat) : (s.bump a f v).trunk = s.trunk := rfl
@[simp] theorem State.bumpSat_trunk (s : State) (a : Nat) (f : Fld) (v : Nat) : (s.bumpSat a f v).trunk = s.trunk := rfl
@[simp] theorem State.syn_trunk (s : State) (f : SyncSt → SyncSt) : (s.syn f).trunk = s.trunk := rfl
@[simp] theorem State.irq_trunk (s : State) (b k : Nat) : (s.irq b k).trunk = s.trunk := trunk_of_stem (State.irq_stem ..)
@[simp] theorem State.trigger_trunk (s : State) (n i a : Nat) : (s.trigger n i a).trunk = s.trunk := trunk_of_stem (State.trigger_stem ..)
@[simp] theorem State.cond_trunk (s : State) (c : Bool) (f : State → State) : (s.cond c f).trunk = if c then (f s).trunk else s.trunk := by
  unfold State.cond; split <;> rfl
@[simp] theorem State.sw_trunk (s : State) (x : Nat) (m : SwMsg) : (s.sw x m).trunk = s.trunk := by
  unfold State.sw; simp
@[simp] theorem State.freeWatch_trunk (s : State) (w : Nat) : (s.freeWatch w).trunk = s.trunk := rfl
@[simp] theorem State.watchTriggers_trunk (s : State) (c old : Nat) : (s.watchTriggers c old).trunk = s.trunk := by
  unfold State.watchTriggers
  exact State.each_of State.trunk _ (fun s a => by rw [State.cond_trunk, State.trigger_trunk, ite_self]) _ _
@[simp] theorem State.tryWatch_trunk (s : State) (w : Nat) : (s.tryWatch w).trunk = s.trunk := by
  unfold State.tryWatch
  dsimp only
  repeat' split
  all_goals first
    | rfl
    | (rw [State.sw_trunk, State.freeWatch_trunk, State.cond_trunk, State.watchTriggers_trunk]; split <;> rfl)
@[simp] theorem State.ctrOp_trunk (s : State) (c op v : Nat) : (s.ctrOp c op v).trunk = s.trunk := by
  unfold State.ctrOp
  split
  · rfl
  · dsimp only
    rw [State.each_of State.trunk _ (fun s a => State.tryWatch_trunk s a), State.watchTriggers_trunk]
    rw [State.cond_trunk, State.put_trunk, ite_self, State.cond_trunk, State.put_trunk, ite_self, State.put_trunk]
@[simp] theorem State.cond_false (s : State) (f : State → State) : s.cond false f = s := rfl
@[simp] theorem State.cond_true (s : State) (f : State → State) : s.cond true f = f s := rfl
theorem countStatus_ports (s : State) (x st : Nat) : (s.countStatus x st).ports = s.ports := by
  unfold State.countStatus; rw [State.cond_ports, State.bumpSat_ports, ite_self]
theorem txnOf_txn (s : State) (x tag : Nat) (f : Txn → Txn) (hf : ∀ t, t.req.tag = tag → (f t).req.tag = tag) :
    txnOf (s.txn x tag f) x tag = (txnOf s x tag).map f := by
  unfold txnOf State.txn
  rw [State.portOf_port_self]
  simp only
  induction (portOf s x).txns with
  | nil => rfl
  | cons a l ih =>
    simp only [List.map_cons, List.find?_cons]
    by_cases h : a.req.tag = tag
    · simp [h, hf a h]
    · have : (a.req.tag == tag) = false := by simp [h]
      simp only [if_neg h, this, ih]
theorem txnOf_congr (s t : State) (x tag : Nat) (h : t.ports = s.ports) : txnOf t x tag = txnOf s x tag := by
  unfold txnOf portOf; rw [h]
theorem txnOf_port (s : State) (x tag : Nat) (f : PortSt → PortSt) (h : (f (portOf s x)).txns = (portOf s x).txns) :
    txnOf (s.port x f) x tag = txnOf s x tag := by
  unfold txnOf; rw [State.portOf_port_self, h]
theorem portOf_congr (s t : State) (x : Nat) (h : t.ports = s.ports) : portOf t x = portOf s x := by
  unfold portOf; rw [h]
theorem answerReq_txnOf (s : State) (x tag st : Nat) (u : Txn) (h : txnOf s x tag = some u) :
    txnOf (s.answerReq x tag st) x tag = some { u with toGo := [], scaleGo := [], short := u.recv } := by
  unfold State.answerReq
  rw [h]
  dsimp only
  rw [txnOf_congr _ _ _ _ (countStatus_ports ..)]
  rw [txnOf_port, txnOf_congr _ _ _ _ (State.syn_ports ..), txnOf_txn, h]
  · rfl
  · exact fun t h => h
  · rfl
theorem reject_ports (s : State) (a h g st : Nat) : (s.reject a h g st).ports = s.ports := by
  unfold State.reject; split <;> rfl
theorem answerReq_queue (s : State) (x tag st : Nat) (u : Txn) (h : txnOf s x tag = some u) :
    (portOf (s.answerReq x tag st) x).queue = (portOf s x).queue.filter (· != tag) := by
  unfold State.answerReq
  rw [h]
  dsimp only
  rw [portOf_congr _ _ _ (countStatus_ports ..)]
  rw [State.portOf_port_self]
  simp only
  rw [portOf_congr _ _ _ (State.syn_ports ..)]
  unfold State.txn
  rw [State.portOf_port_self]
theorem countStatus_array (s : State) (x st : Nat) : (s.countStatus x st).array = s.array := by
  unfold State.countStatus; rw [State.cond_array, State.bumpSat_array, ite_self]
theorem answerReq_array (s : State) (x tag st : Nat) : (s.answerReq x tag st).array = s.array := by
  unfold State.answerReq; split
  · rfl
  · dsimp only; rw [countStatus_array]; rfl
theorem answerReq_ready (s : State) (x tag st : Nat) (u : Txn) (h : txnOf s x tag = some u) :
    (portOf (s.answerReq x tag st) x).ready = (portOf s x).ready ++ [⟨laneWr u.req, tag, 0, 0, st, 0, false, 0, false, 0, none, s.pcNow⟩] := by
  unfold State.answerReq
  rw [h]
  dsimp only
  rw [portOf_congr _ _ _ (countStatus_ports ..)]
  rw [State.portOf_port_self]
  simp only
  rw [portOf_congr _ _ _ (State.syn_ports ..)]
  unfold State.txn
  rw [State.portOf_port_self]
  rfl
theorem installFetch_back (s : State) (x id st y : Nat) (row : List Seg) : (portOf (s.installFetch x id st row) y).back = (portOf s y).back := by
  have e : ∀ (s' : State) (f : PortSt → PortSt), (∀ p, (f p).back = p.back) → (portOf (s'.port x f) y).back = (portOf s' y).back := by
    intro s' f hf
    by_cases h : y = x
    · subst h; rw [State.portOf_port_self, hf]
    · rw [State.portOf_port_of_ne _ _ h]
  unfold State.installFetch
  rw [e]
  intro p
  dsimp only
  split
  · split <;> rfl
  · rfl
theorem answerLine_back (s : State) (x tag k st pm : Nat) (d : Option (Nat × Nat)) (y : Nat) :
    (portOf (s.answerLine x tag k st pm d) y).back = (portOf s y).back := by
  unfold State.answerLine
  split
  · rfl
  · rename_i u hu
    dsimp only
    have e : ∀ s' : State, (portOf (s'.countStatus x st) y).back = (portOf s' y).back := by
      intro s'; rw [portOf_congr _ _ _ (countStatus_ports ..)]
    have e2 : ∀ (s' : State) (f : Txn → Txn), (portOf (s'.txn x tag f) y).back = (portOf s' y).back := by
      intro s' f; unfold State.txn
      by_cases h : y = x
      · subst h; rw [State.portOf_port_self]
      · rw [State.portOf_port_of_ne _ _ h]
    have e3 : ∀ (s' : State) (l : List Lane), (portOf (s'.port x fun p => { p with ready := p.ready ++ l }) y).back = (portOf s' y).back := by
      intro s' l
      by_cases h : y = x
      · subst h; rw [State.portOf_port_self]
      · rw [State.portOf_port_of_ne _ _ h]
    split
    · rw [portOf_congr _ _ _ (State.energy_ports ..), e, e2, e3]
    · rw [e, e2, e3]
theorem answerLine_ready (s : State) (x tag k st pm : Nat) (d : Option (Nat × Nat)) (u : Txn) (h : txnOf s x tag = some u) :
    (portOf (s.answerLine x tag k st pm d) x).ready =
      (portOf s x).ready ++ cutLanes x ⟨laneWr u.req, tag, k, 0, st, pm, false, 0, false, 0, none, s.pcNow⟩ d := by
  unfold State.answerLine
  rw [h]
  dsimp only
  have e : ∀ s' : State, portOf (s'.countStatus x st) x = portOf s' x := by
    intro s'; exact portOf_congr _ _ _ (countStatus_ports ..)
  split
  · rw [portOf_congr _ _ _ (State.energy_ports ..), e]; unfold State.txn; rw [State.portOf_port_self, State.portOf_port_self]
  · rw [e]; unfold State.txn; rw [State.portOf_port_self, State.portOf_port_self]
theorem countDispl_hub (s : State) (arb : Nat) (c : List Access → List Access) (l g : List Access) : (s.countDispl arb c l g).hub = s.hub := by
  unfold State.countDispl
  refine State.each_of State.hub _ ?_ _ _
  intro s a; split <;> rfl
theorem poolRoom_enter_flight (s : State) (a : Access) : (s.enterPool a).hub.flight = s.hub.flight ++ [{ a with seq := s.hub.seqCtr, loc := .pool, pooled := true }] := by
  unfold State.enterPool
  simp only [State.cond_hub, State.irq_hub, State.bumpSat_hub, State.put_hub, State.bump_hub, ite_self]
  rfl
theorem hcmdWord_op (op h : Nat) (ov ic : Bool) (ho : op < 8) : HANDLE_CMD_HCMD_OP.of (hcmdWord op h ov ic) = op := by
  unfold Fld.of bits hcmdWord HANDLE_CMD_HCMD_OP
  rw [BitVec.toNat_ofNat, Nat.shiftRight_eq_div_pow]
  cases ov <;> cases ic <;> simp only [b2n, Bool.false_eq_true, if_true, if_false] <;> omega
theorem hcmdWord_handle (op h : Nat) (ov ic : Bool) (hh : h < 512) : HANDLE_CMD_HCMD_HANDLE.of (hcmdWord op h ov ic) = h := by
  unfold Fld.of bits hcmdWord HANDLE_CMD_HCMD_HANDLE
  rw [BitVec.toNat_ofNat, Nat.shiftRight_eq_div_pow]
  cases ov <;> cases ic <;> simp only [b2n, Bool.false_eq_true, if_true, if_false] <;> omega
theorem hcmdWord_iclear (op h : Nat) (ov ic : Bool) : (HANDLE_CMD_HCMD_ICLEAR.of (hcmdWord op h ov ic) == 1) = ic := by
  have : HANDLE_CMD_HCMD_ICLEAR.of (hcmdWord op h ov ic) = b2n ic := by
    unfold Fld.of bits hcmdWord HANDLE_CMD_HCMD_ICLEAR
    rw [BitVec.toNat_ofNat, Nat.shiftRight_eq_div_pow]
    cases ov <;> cases ic <;> simp only [b2n, Bool.false_eq_true, if_true, if_false] <;> omega
  rw [this]; cases ic <;> rfl
theorem hcmdWord_ovchk (op h : Nat) (ov ic : Bool) : (HANDLE_CMD_HCMD_OVCHK.of (hcmdWord op h ov ic) == 1) = ov := by
  have : HANDLE_CMD_HCMD_OVCHK.of (hcmdWord op h ov ic) = b2n ov := by
    unfold Fld.of bits hcmdWord HANDLE_CMD_HCMD_OVCHK
    rw [BitVec.toNat_ofNat, Nat.shiftRight_eq_div_pow]
    cases ov <;> cases ic <;> simp only [b2n, Bool.false_eq_true, if_true, if_false] <;> omega
  rw [this]; cases ov <;> rfl
theorem hcmdWrite_eq (s : State) (m : Master) (op h : Nat) (ov ic : Bool) (hm : mayWrite s m pgHCMD HANDLE_CMD_HCMD true = true)
    (hb : s.hcmd = none) (ho : op < 8) (ho0 : op ≠ 0) (hh : h < 512) :
    hcmdWrite m (hcmdWord op h ov ic) s = (s.hcmdFields (hcmdWord op h ov ic)).hcmdGo m op h ov ic := by
  unfold hcmdWrite
  rw [State.gate_open _ _ _ _ _ _ hm, hb]
  simp only [Option.isSome_none, Bool.false_eq_true, if_false, hcmdWord_op _ _ _ _ ho, hcmdWord_handle _ _ _ _ hh, hcmdWord_iclear, hcmdWord_ovchk, if_neg ho0]
/-- A wake that is asked for changes the list of wakes alone. -/
theorem askWake_eq (s : State) (n p : Nat) : s.askWake n p = { s with wakes := (s.askWake n p).wakes } := by
  unfold State.askWake State.cond
  dsimp only
  split <;> rfl
theorem hcmdFields_frame (s : State) (w : Word32) : (s.hcmdFields w).handles = s.handles ∧ (s.hcmdFields w).hub = s.hub := ⟨rfl, rfl⟩
/-- HCMD's own page under the words of the handle states. -/
theorem hstate_apart (s : State) (g : Fld) (h v : Nat) (f : Fld) (hf : f.off < 0x1000) (hg : g.fits) (n : Nat) :
    (s.put pgHSTATE (g.at n h) v).get pgHCMD f = s.get pgHCMD f := by
  refine State.get_put_apart _ _ (Fld.at_fits _ _ hg) (.inl ?_)
  simp only [pgHSTATE, pgHCMD, Fld.at]
  omega
theorem hcmdStart_busy (s : State) (op h : Nat) (ic : Bool) (d : Desc) : (s.hcmdStart op h ic d).flag pgHCMD HANDLE_CMD_HCMD_STAT_BUSY = true := by
  have e : ∀ (S : State) (c : Option HandleCmd), ({ S with hcmd := c } : State).flag pgHCMD HANDLE_CMD_HCMD_STAT_BUSY = S.flag pgHCMD HANDLE_CMD_HCMD_STAT_BUSY := fun _ _ => rfl
  unfold State.hcmdStart
  dsimp only
  rw [e]
  unfold State.flag
  rw [hstate_apart _ _ _ _ _ (by decide) (by decide), State.get_put_self _ _ _ _ (by decide)]; rfl
theorem hcmdEnd_stat (s : State) (h r : Nat) : (s.hcmdEnd h r).flag pgHCMD HANDLE_CMD_HCMD_STAT_BUSY = false ∧
    (s.hcmdEnd h r).get pgHCMD HANDLE_CMD_HCMD_STAT_RESULT = r % 16 := by
  have e : ∀ (S : State) (c : Option HandleCmd) (f : Fld), ({ S with hcmd := c } : State).get pgHCMD f = S.get pgHCMD f := fun _ _ _ => rfl
  have k : ∀ f : Fld, f.off < 0x1000 → (s.hcmdEnd h r).get pgHCMD f =
      (((s.put pgHCMD HANDLE_CMD_HCMD_STAT_BUSY 0).put pgHCMD HANDLE_CMD_HCMD_STAT_RESULT r).put pgHCMD HANDLE_CMD_HCMD_STAT_GEN
        (handleGen ((s.put pgHCMD HANDLE_CMD_HCMD_STAT_BUSY 0).put pgHCMD HANDLE_CMD_HCMD_STAT_RESULT r) h)).get pgHCMD f := by
    intro f hf
    unfold State.hcmdEnd
    dsimp only
    rw [e, hstate_apart _ _ _ _ _ hf (by decide)]
  unfold State.flag
  rw [k _ (by decide), k _ (by decide)]
  simp (disch := decide) only [State.get_put_self, State.get_put_page]
  exact ⟨rfl, rfl⟩
theorem hcmdGo_modify (S : State) (m : Master) (h : Nat) (ov ic : Bool) (hc : hcmdCheck S 2 h ov = hrOK) :
    S.hcmdGo m 2 h ov ic = ({ S.hcmdStart 2 h ic (stagedDesc S) with
      handles := Sp.set (S.hcmdStart 2 h ic (stagedDesc S)).handles h (stagedDesc S) } : State).wakeUnpermitted (stagedDesc S) := by
  unfold State.hcmdGo
  dsimp only
  rw [hc]
  rfl
theorem raq_of_stem {s t : State} (h : t.stem = s.stem) : t.raq = s.raq := (congrArg State.raq h :)
theorem klen_of_stem {s t : State} (h : t.stem = s.stem) : t.klen = s.klen := (congrArg State.klen h :)
@[simp] theorem State.nrg_stem (s : State) (f : EnergySt → EnergySt) : (s.nrg f).stem = s.stem := rfl
@[simp] theorem State.admitFrom_stem (s : State) (h : Chunk) (p : Nat) : (s.admitFrom h p).stem = s.stem := by
  unfold State.admitFrom State.commit; rfl
@[simp] theorem State.askChunk_stem (s : State) (o t n e : Nat) : (s.askChunk o t n e).2.stem = s.stem := by
  unfold State.askChunk
  dsimp only
  split <;> simp
@[simp] theorem State.retryChunks_stem (s : State) (b : Bool) : (s.retryChunks b).stem = s.stem := by
  unfold State.retryChunks
  generalize List.filter _ _ = l
  suffices h : ∀ (l : List Chunk) (acc : Bool × State), (l.foldl (fun (acc : Bool × State) h =>
      let (ahead, s) := acc
      match admitPool s h.tid h.est ahead (b && !ahead) with
      | some pool => (ahead, s.admitFrom h pool)
      | none => (true, s)) acc).2.stem = acc.2.stem from h l (false, s)
  intro l
  induction l with
  | nil => intro _; rfl
  | cons c l ih =>
    intro acc
    rw [List.foldl_cons, ih]
    dsimp only
    split <;> simp
@[simp] theorem State.endChunk_stem (s : State) (o : Nat) : (s.endChunk o).stem = s.stem := by
  unfold State.endChunk
  split
  · rfl
  · dsimp only
    split
    · rw [State.cond_stem]; split <;> simp
    · rfl
@[simp] theorem State.stepsDone_stem (s : State) (n : Nat) : (s.stepsDone n).stem = s.stem := rfl
@[simp] theorem State.raWrite_stem (s : State) (r : RaRec) (l : LineAt) (d : Nat) : (s.raWrite r l d).stem = s.stem := directWrite_stem ..
@[simp] theorem State.raRead_stem (s : State) (r : RaRec) (l : LineAt) : (s.raRead r l).2.2.stem = s.stem := by
  unfold State.raRead; dsimp only; rw [directRead_stem]
/-- What stays of the record at the head of a queue while its steps run. -/
def headId (s : State) (q : Nat) : Option (List Nat × Bool × Option Nat) := (raHead s q).map fun r => (r.words, r.started, r.chan)
theorem headId_of_stem {s t : State} (h : t.stem = s.stem) (q : Nat) : headId t q = headId s q := by
  unfold headId raHead raqOf; rw [raq_of_stem h]
theorem headId_headRec (s : State) (q : Nat) (f : RaRec → RaRec) (h : ∀ r, (f r).words = r.words ∧ (f r).started = r.started ∧ (f r).chan = r.chan) :
    headId (s.headRec q f) q = headId s q := by
  unfold headId raHead State.headRec
  rw [State.raqOf_setRaq_self]
  cases (raqOf s q).recs with
  | nil => rfl
  | cons r l => simp [h r]
@[simp] theorem headId_failStep (s : State) (q a b : Nat) : headId (s.failStep q a b) q = headId s q :=
  headId_headRec _ _ _ (fun _ => ⟨rfl, rfl, rfl⟩)
theorem headId_next (s : State) (q n : Nat) : headId (s.headRec q fun r => { r with next := r.next + n }) q = headId s q :=
  headId_headRec _ _ _ (fun _ => ⟨rfl, rfl, rfl⟩)
theorem headId_nextChunk (s : State) (q : Nat) : headId (s.nextChunk q) q = headId s q := by
  unfold State.nextChunk
  split
  · rfl
  · dsimp only
    generalize min 4096 _ = n
    generalize chunkEstimate _ _ _ = e
    have h1 := headId_of_stem (State.endChunk_stem s (raOwner q)) q
    generalize s.endChunk (raOwner q) = S at h1
    have h2 : headId (S.headRec q fun r => { r with upTo := r.next + n }) q = headId S q := headId_headRec _ _ _ (fun _ => ⟨rfl, rfl, rfl⟩)
    generalize (S.headRec q fun r => { r with upTo := r.next + n }) = U at h2
    refine (headId_of_stem (s := U) ?_ q).trans (h2.trans h1)
    rw [State.cond_stem, State.bumpSat_stem, ite_self, State.askChunk_stem]
theorem raqOf_of_stem {s t : State} (h : t.stem = s.stem) (q : Nat) : raqOf t q = raqOf s q := by unfold raqOf; rw [raq_of_stem h]
theorem raHead_of_stem {s t : State} (h : t.stem = s.stem) (q : Nat) : raHead t q = raHead s q := by unfold raHead; rw [raqOf_of_stem h]
theorem raHead_headRec (s : State) (q : Nat) (f : RaRec → RaRec) : raHead (s.headRec q f) q = (raHead s q).map f := by
  unfold raHead State.headRec
  rw [State.raqOf_setRaq_self]
  cases (raqOf s q).recs <;> rfl
/-- A queue with no record that waits has none to complete with DISABLED. -/
theorem flush_none (s : State) (q n : Nat) (h : (raqOf s q).recs.all (·.started) = true) : s.flushDisabled q n = s := by
  cases n with
  | zero => rfl
  | succ n =>
    unfold State.flushDisabled
    split
    · rfl
    · split
      · rfl
      · rename_i r hr
        have := List.find?_some hr
        have hm := List.mem_of_find?_eq_some hr
        rw [List.all_eq_true] at h
        simp [h r hm] at this
theorem flush_enabled (s : State) (q n : Nat) (h : raState s q = 1) : s.flushDisabled q n = s := by
  cases n with
  | zero => rfl
  | succ n => unfold State.flushDisabled; rw [if_pos (.inl h)]
theorem raHead_nextChunk (s : State) (q : Nat) : raHead (s.nextChunk q) q =
    (raHead s q).map fun r => { r with upTo := r.next + min 4096 (r.steps - r.next) } := by
  unfold State.nextChunk
  split
  · rename_i h; rw [h]; rfl
  · rename_i r hr
    dsimp only
    rw [hr]
    generalize hn : min 4096 _ = n
    generalize chunkEstimate _ _ _ = e
    have h1 := raHead_of_stem (State.endChunk_stem s (raOwner q)) q
    generalize s.endChunk (raOwner q) = S at h1
    have h2 : raHead (S.headRec q fun r => { r with upTo := r.next + n }) q = (raHead S q).map _ := raHead_headRec ..
    generalize (S.headRec q fun r => { r with upTo := r.next + n }) = U at h2
    refine (raHead_of_stem (s := U) ?_ q).trans (h2.trans ?_)
    · rw [State.cond_stem, State.bumpSat_stem, ite_self, State.askChunk_stem]
    · rw [h1, hr]; dsimp only [Option.map]; rw [hn]
theorem raqOf_of_trunk {s t : State} (h : t.trunk = s.trunk) (q : Nat) : raqOf t q = raqOf s q := by unfold raqOf; rw [raq_of_trunk h]
/-- Words written one after another from an address up. -/
theorem each_wr_rd (f : Nat → Nat) (w : Nat → Word32) (hf : ∀ i j, f i = f j → i = j) (s : State) (n : Nat) :
    (∀ i < n, (s.each (List.range n) fun s i => s.wr (f i) (w i)).rd (f i) = w i) ∧
    (∀ a, (∀ i < n, a ≠ f i) → (s.each (List.range n) fun s i => s.wr (f i) (w i)).rd a = s.rd a) := by
  induction n with
  | zero => exact ⟨fun _ h => absurd h (Nat.not_lt_zero _), fun _ _ => rfl⟩
  | succ n ih =>
    have e : (s.each (List.range (n + 1)) fun s i => s.wr (f i) (w i)) = (s.each (List.range n) fun s i => s.wr (f i) (w i)).wr (f n) (w n) := by
      unfold State.each; rw [List.range_succ, List.foldl_append]; rfl
    rw [e]
    refine ⟨fun i hi => ?_, fun a h => ?_⟩
    · by_cases hin : i = n
      · subst hin; exact State.rd_wr_self _ _ _
      · rw [State.rd_wr_of_ne _ _ (fun h => hin (hf i n h))]; exact ih.1 i (by omega)
    · rw [State.rd_wr_of_ne _ _ (h n (by omega))]; exact ih.2 a fun i hi => h i (by omega)
theorem kernelIssue_run (s t : State) (c : KCtx) (ins opc : Nat) (act : KCtx → Nat → State → Bool × State) (h : kernelAt s c ins)
    (ho : kiOpc ins = opc) (hl : notLast s c) (ha : act c ins s = (true, t)) :
    kernelIssue c.layer c.i opc act s = .next ((t.energy 2 1 c.r.tid (some (raOwner c.q))).rim c.layer c.p fun r =>
      { r with kpc := (rimOf s c.layer c.p).kpc + 1 }) := by
  obtain ⟨h1, h2, h3, h4, h5, h6, h7, h8, h9⟩ := h
  obtain ⟨layer, i, p, q, r, step⟩ := c
  dsimp only at *
  have hc : s.kClaim layer i = (some ⟨layer, i, p, q, r, step⟩, s) := by
    unfold State.kClaim
    dsimp only
    rw [h3, h5, h6]
    dsimp only
    rw [h7, h8]
  unfold kernelIssue
  rw [if_neg (by omega), hc]
  dsimp only
  have hg : (kBody s r.kslot).getD (rimOf s layer p).kpc 0 = ins := by rw [List.getD_eq_getElem?_getD, h9]; rfl
  have hlt : (rimOf s layer p).kpc < (kBody s r.kslot).length := by
    rcases List.getElem?_eq_some_iff.mp h9 with ⟨h, _⟩; exact h
  rw [hg, if_neg (by rintro (h | h) <;> omega), ha]
  dsimp only
  exact if_pos hl
theorem kernelIssue_rim (s t : State) (c : KCtx) (k : Nat) (n : Nat) (o : Option Nat) :
    rimOf ((t.energy 2 n k o).rim c.layer c.p fun r => { r with kpc := (rimOf s c.layer c.p).kpc + 1 }) c.layer c.p =
      { rimOf t c.layer c.p with kpc := (rimOf s c.layer c.p).kpc + 1 } := by
  rw [State.rimOf_rim_self]; rfl
theorem setAlu_reg (s : State) (c : KCtx) (y : Bool) (v : Nat) (b : Bool) :
    aluReg (rimOf (s.setAlu c y v b) c.layer c.p) y = v ∧ aluReg (rimOf (s.setAlu c y v b) c.layer c.p) (!y) = aluReg (rimOf s c.layer c.p) (!y) := by
  unfold State.setAlu
  rw [State.rimOf_rim_self]
  cases y <;> exact ⟨rfl, rfl⟩
theorem rimOf_congr {s t : State} (h : t.rims = s.rims) (n p : Nat) : rimOf t n p = rimOf s n p := by unfold rimOf; rw [h]
theorem sendSteps_frame (s : State) (q : Nat) : (s.sendSteps q).rims = s.rims ∧ (s.sendSteps q).regs = s.regs ∧ (s.sendSteps q).cfg = s.cfg := by
  unfold State.sendSteps
  split
  · exact ⟨rfl, rfl, rfl⟩
  · exact ⟨rfl, rfl, rfl⟩
theorem stepEnd_ok (s : State) (q step : Nat) : s.stepEnd q step 0 none =
    ((s.headRec q fun r => { r with fly := r.fly.filter (· != step) }).stepsDone 1).sendSteps q := by
  unfold State.stepEnd
  dsimp only
  rw [if_pos rfl]
  split
  · rename_i h; exact absurd h (by simp)
  · rfl
theorem kernelIssue_last (s t : State) (c : KCtx) (ins opc : Nat) (act : KCtx → Nat → State → Bool × State) (h : kernelAt s c ins)
    (ho : kiOpc ins = opc) (hl : (rimOf s c.layer c.p).kpc + 1 = (kBody s c.r.kslot).length) (ha : act c ins s = (true, t)) :
    kernelIssue c.layer c.i opc act s = .next ((((t.energy 2 1 c.r.tid (some (raOwner c.q))).rim c.layer c.p fun r =>
      { r with kpc := (rimOf s c.layer c.p).kpc + 1 }).stepIssued c.q c.step (rimOf t c.layer c.p).kfail
        (if (rimOf t c.layer c.p).kfail = 0 then (rimOf t c.layer c.p).kword else none)).aluFree c.layer c.i c.q) := by
  obtain ⟨h1, h2, h3, h4, h5, h6, h7, h8, h9⟩ := h
  obtain ⟨layer, i, p, q, r, step⟩ := c
  dsimp only at *
  have hc : s.kClaim layer i = (some ⟨layer, i, p, q, r, step⟩, s) := by
    unfold State.kClaim
    dsimp only
    rw [h3, h5, h6]
    dsimp only
    rw [h7, h8]
  unfold kernelIssue
  rw [if_neg (by omega), hc]
  dsimp only
  have hg : (kBody s r.kslot).getD (rimOf s layer p).kpc 0 = ins := by rw [List.getD_eq_getElem?_getD, h9]; rfl
  rw [hg, if_neg (by rintro (h | h) <;> omega), ha]
  dsimp only
  rw [if_neg (by omega), State.rimOf_rim_self]
  rfl
theorem State.missed_rd (s : State) (o : Nat) (h : o < pgREC ∨ pgREC + 4096 ≤ o) : s.missed.rd o = s.rd o := by
  have h3 : o ≠ pgREC + HDR_IRQ_STAT := by simp only [HDR_IRQ_STAT, pgREC] at *; omega
  unfold State.missed
  split
  · rfl
  · exact (State.fireErrors_rd _ _ _ _ h).trans (State.rd_wr_of_ne _ _ h3)
theorem State.trigger_rd (s : State) (n i a o : Nat) (hn : n < 32) (h : o < pgREC ∨ pgREC + 4096 ≤ o) : (s.trigger n i a).rd o = s.rd o := by
  unfold State.trigger
  dsimp only
  rw [State.cond_rd, State.missed_rd _ _ h, ite_self, State.fire_rd _ _ _ _ _ hn h]
theorem State.trigger_bare (s : State) (n i a : Nat) : (s.trigger n i a).bare = s.bare := by
  unfold State.trigger
  dsimp only
  rw [State.cond_bare, bare_eq (State.missed_sansRec _), ite_self, bare_eq (State.fire_sansRec ..)]
theorem State.each_mem {α β : Type} (g : State → β) (f : State → α → State) :
    ∀ (l : List α), (∀ s, ∀ a ∈ l, g (f s a) = g s) → ∀ (s : State), g (s.each l f) = g s
  | [], _, _ => rfl
  | a :: l, h, s => (State.each_mem g f l (fun s b hb => h s b (List.mem_cons_of_mem _ hb)) (f s a)).trans (h s a List.mem_cons_self)
theorem sync_of_bare {s t : State} (h : t.bare = s.bare) : t.sync = s.sync := (congrArg State.sync h :)
theorem State.watchTriggers_rd (s : State) (c old o : Nat) (h : o < pgREC ∨ pgREC + 4096 ≤ o) : (s.watchTriggers c old).rd o = s.rd o := by
  unfold State.watchTriggers
  dsimp only
  refine State.each_mem (fun s => s.rd o) _ _ ?_ s
  intro t g hg
  rw [State.cond_rd, State.trigger_rd _ _ _ _ _ (List.mem_range.mp (List.mem_filter.mp hg).1) h, ite_self]
theorem State.watchTriggers_bare (s : State) (c old : Nat) : (s.watchTriggers c old).bare = s.bare := by
  unfold State.watchTriggers
  refine State.each_of State.bare _ ?_ _ _
  intro s g
  rw [State.cond_bare, State.trigger_bare, ite_self]
/-- A counter operation on a counter that no watch is on leaves every word outside the recorder but those of the SYNC_CTR page's overflow
bits and of the counter, and everything but registers and the recorder; the counter holds the result. -/
theorem ctrOp_frame (s : State) (c op v : Nat) (hw : noWatch s c) (hc : c < 384) (hp : parked s = false) :
    (∀ o, (o < pgSYNCCTR ∨ pgSYNCCTR + SYNC_CTR_CTR ≤ o) → (o < pgREC ∨ pgREC + 4096 ≤ o) → o ≠ pgSYNCCTR + SYNC_CTR_CTR + 4 * c →
      (s.ctrOp c op v).rd o = s.rd o) ∧
    (counter (s.ctrOp c op v) c = (if op = 0 then min (counter s c + v) 0xFFFF else if op = 1 then counter s c - v else v % 2 ^ 16) % 65536) ∧
    (s.ctrOp c op v).bare = s.bare := by
  unfold State.ctrOp
  rw [if_neg (by simp [hp])]
  dsimp only
  generalize hnew : (if op = 0 then min (counter s c + v) 0xFFFF else if op = 1 then counter s c - v else v % 2 ^ 16) = new
  generalize hU : (State.cond _ _ _ : State) = U
  have hUrd : ∀ o, (o < pgSYNCCTR ∨ pgSYNCCTR + SYNC_CTR_CTR ≤ o) → U.rd o = (s.put pgSYNCCTR (SYNC_CTR_CTR_VALUE.at 4 c) new).rd o := by
    intro o ho
    rw [← hU, State.cond_rd, State.rd_put_of_ne _ _ (by simp only [SYNC_CTR_CTR, SYNC_CTR_UNF, pgSYNCCTR] at *; omega), ite_self, State.cond_rd,
      State.rd_put_of_ne _ _ (by simp only [SYNC_CTR_CTR, SYNC_CTR_OVF, pgSYNCCTR] at *; omega), ite_self]
  have hUb : U.bare = s.bare := by
    rw [← hU]; simp
  clear hU
  have hTrd := State.watchTriggers_rd U c (counter s c)
  have hTb : (U.watchTriggers c (counter s c)).bare = s.bare := (State.watchTriggers_bare ..).trans hUb
  generalize U.watchTriggers c (counter s c) = T at hTrd hTb
  have hemp : (T.sync.watchOrd.filter fun w => 48 * (w / 16) + T.get pgSYNCCTR (SYNC_CTR_WATCH_CTR.at 4 w) == c) = [] := by
    rw [List.filter_eq_nil_iff, sync_of_bare hTb]
    intro w hm
    obtain ⟨h1, h2⟩ := hw w hm
    have e : T.get pgSYNCCTR (SYNC_CTR_WATCH_CTR.at 4 w) = s.get pgSYNCCTR (SYNC_CTR_WATCH_CTR.at 4 w) := by
      unfold State.get
      rw [hTrd _ (.inl (by simp only [pgSYNCCTR, pgREC, Fld.at, SYNC_CTR_WATCH_CTR]; omega)),
        hUrd _ (.inr (by simp only [pgSYNCCTR, SYNC_CTR_CTR, Fld.at, SYNC_CTR_WATCH_CTR]; omega)),
        State.rd_put_of_ne _ _ (by simp only [pgSYNCCTR, SYNC_CTR_CTR_VALUE, Fld.at, SYNC_CTR_WATCH_CTR]; omega)]
    rw [e]
    simpa using h2
  rw [hemp]
  refine ⟨?_, ?_, hTb⟩
  · intro o h1 h2 h3
    show T.rd o = s.rd o
    rw [hTrd _ h2, hUrd _ h1,
      State.rd_put_of_ne _ _ (by rw [show (SYNC_CTR_CTR_VALUE.at 4 c).off = SYNC_CTR_CTR + 4 * c from rfl, ← Nat.add_assoc]; exact h3)]
  · show counter T c = _
    unfold counter State.get
    rw [hTrd _ (.inl (by simp only [pgSYNCCTR, pgREC, Fld.at, SYNC_CTR_CTR_VALUE]; omega)),
      hUrd _ (.inr (by simp only [pgSYNCCTR, SYNC_CTR_CTR, Fld.at, SYNC_CTR_CTR_VALUE]; omega))]
    exact State.get_put_self s pgSYNCCTR (SYNC_CTR_CTR_VALUE.at 4 c) new (Fld.at_fits _ _ (by decide))

theorem ctr_eq {s t : State} (c : Nat) (h : t.rd (pgSYNCCTR + SYNC_CTR_CTR + 4 * c) = s.rd (pgSYNCCTR + SYNC_CTR_CTR + 4 * c)) : counter t c = counter s c := by
  unfold counter State.get
  rw [show (SYNC_CTR_CTR_VALUE.at 4 c).off = SYNC_CTR_CTR + 4 * c from rfl, ← Nat.add_assoc, h]
/-- A message of port x counted and holding its entry. -/
theorem sqTake_ready (s : State) (x : Nat) (w : SqWord) (h : sqReady s x = true) (hp : sqPlain w) (ho : w.op < 7 ∨ (w.op = 7 ∧ w.value % 4096 ≠ 0 ∧ w.value < 4096)) :
    sqTake s x w = .next (((s.port x fun p => { p with sqUsed := p.sqUsed + 1 }).bump pgSYNCCTR SYNC_CTR_SY_SQ_CNT_COUNT).sqRun x ⟨w, s.hub.accCtr, 0⟩) := by
  simp only [sqReady, Bool.and_eq_true, decide_eq_true_eq, bne_iff_ne, Bool.not_eq_true', beq_iff_eq] at h
  obtain ⟨⟨⟨⟨⟨⟨⟨h1, h2⟩, h3⟩, h4⟩, h5⟩, h6⟩, h7⟩, h10⟩ := h
  obtain ⟨h8, h9⟩ := hp
  have hr : sqRefuse s x w = 0 := by
    unfold sqRefuse
    dsimp only
    rw [h7, h4, h8, h9]
    simp only [bne_self_eq_false, Bool.false_and, Bool.or_false, Bool.false_eq_true, if_false]
    rw [if_neg]
    simp only [Bool.or_eq_true, decide_eq_true_eq, Bool.and_eq_true, beq_iff_eq, bne_iff_ne]
    rcases ho with ho | ⟨ho, ha, hb⟩
    · omega
    · have : w.value / 4096 = 0 := by omega
      rw [this]; simp [ha]; omega
  unfold sqTake
  rw [if_neg (by simp only [h3, h4, h5]; simp; exact ⟨h2, by omega, by omega⟩), hr]
  dsimp only
  have hheld : (portOf ((s.port x fun p => { p with sqUsed := p.sqUsed + 1 }).bump pgSYNCCTR SYNC_CTR_SY_SQ_CNT_COUNT) x).sqHeld = [] := by
    have e : ∀ S : State, portOf (S.bump pgSYNCCTR SYNC_CTR_SY_SQ_CNT_COUNT) x = portOf S x := fun _ => rfl
    rw [e, State.portOf_port_self]; exact h10
  rw [hheld]
  simp only [sqWaits, h9, Bool.and_false, Bool.false_and, bne_self_eq_false, Bool.or_self, Bool.false_eq_true, if_false]
/-- The state in which a message of port x takes effect: counted, and holding its entry. -/
def sqIn (s : State) (x : Nat) : State := (s.port x fun p => { p with sqUsed := p.sqUsed + 1 }).bump pgSYNCCTR SYNC_CTR_SY_SQ_CNT_COUNT
theorem sqIn_rd (s : State) (x o : Nat) (h : o ≠ pgSYNCCTR + SYNC_CTR_SY_SQ_CNT) : (sqIn s x).rd o = s.rd o :=
  (State.bump_rd _ _ h).trans rfl
theorem sqIn_sw (s : State) (x : Nat) : (portOf (sqIn s x) x).sw = (portOf s x).sw := by
  have e : ∀ S : State, portOf (S.bump pgSYNCCTR SYNC_CTR_SY_SQ_CNT_COUNT) x = portOf S x := fun _ => rfl
  unfold sqIn
  rw [e, State.portOf_port_self]
theorem sqFree_rd (s : State) (x o : Nat) : (s.sqFree x).rd o = s.rd o := rfl
theorem portOf_sw (s : State) (x : Nat) (m : SwMsg) : (portOf (s.sw x m) x).sw = (portOf s x).sw ++ [m] := by
  unfold State.sw
  dsimp only
  rw [portOf_congr (s.port x fun p => { p with sw := p.sw ++ [m] }) _ x (by rw [State.cond_ports, State.bumpSat_ports, ite_self, State.cond_ports, State.bump_ports, ite_self]), State.portOf_port_self]
theorem answerReq_sync_parks (s : State) (x tag st : Nat) : (s.answerReq x tag st).sync.parks = s.sync.parks := by
  unfold State.answerReq
  split
  · rfl
  · dsimp only
    unfold State.countStatus
    rw [State.cond_sync, State.bumpSat_sync, ite_self]; rfl
theorem answerReq_rd (s : State) (x tag st o : Nat) (hx : x < 72) (ho : 0x019000 ≤ o) : (s.answerReq x tag st).rd o = s.rd o := by
  unfold State.answerReq
  split
  · rfl
  · dsimp only
    unfold State.countStatus
    rw [State.cond_rd]
    split
    · rename_i h
      simp only [decide_eq_true_eq] at h
      rw [State.bumpSat_rd _ _ (by simp only [portBase, Fld.word, Fld.at, PORT_STS_CNT]; omega), State.port_rd, State.syn_rd]
      unfold State.txn
      rw [State.port_rd]
    · rw [State.port_rd, State.syn_rd]
      unfold State.txn
      rw [State.port_rd]
theorem cache_of_stem {s t : State} (h : t.stem = s.stem) : t.cache = s.cache := (congrArg State.cache h :)
theorem ports_of_stem {s t : State} (h : t.stem = s.stem) : t.ports = s.ports := (congrArg State.ports h :)
theorem pcNow_of_stem {s t : State} (h : t.stem = s.stem) : t.pcNow = s.pcNow := (congrArg State.pcNow h :)
theorem mport_of_stem {s t : State} (h : t.stem = s.stem) : t.mport = s.mport ∧ t.mpCtr = s.mpCtr :=
  ⟨(congrArg State.mport h :), (congrArg State.mpCtr h :)⟩
theorem answerLine_cache (s : State) (x tag k st pm : Nat) (d : Option (Nat × Nat)) : (s.answerLine x tag k st pm d).cache = s.cache := by
  unfold State.answerLine
  split
  · rfl
  · dsimp only
    have e : ∀ S : State, (S.countStatus x st).cache = S.cache := by
      intro S; unfold State.countStatus; rw [State.cond_cache, State.bumpSat_cache, ite_self]
    split
    · rw [State.energy_cache, e]; rfl
    · rw [e]; rfl
@[simp] theorem chanOf_chan_self (s : State) (c : Nat) (f : MvChan → MvChan) : chanOf (s.chan c f) c = f (chanOf s c) := by
  unfold chanOf State.chan; rw [Sp.get_set_self]; rfl
theorem chanOf_chan_of_ne (s : State) {c d : Nat} (f : MvChan → MvChan) (h : d ≠ c) : chanOf (s.chan c f) d = chanOf s d := by
  unfold chanOf State.chan; rw [Sp.get_set_of_ne _ _ _ h]
theorem chanOf_job_self (s : State) (c : Nat) (f : MvJob → MvJob) (j : MvJob) (l : List MvJob) (h : (chanOf s c).jobs = j :: l) :
    (chanOf (s.job c f) c) = { chanOf s c with jobs := f j :: l } := by
  unfold State.job; rw [chanOf_chan_self, h]
theorem chanOf_congr {s t : State} (h : t.chans = s.chans) (c : Nat) : chanOf t c = chanOf s c := by unfold chanOf; rw [h]
theorem State.get_irq (s : State) (b b' k : Nat) (f : Fld) (h : b + f.off ≠ b' + HDR_IRQ_STAT) (h2 : b + f.off < pgREC) :
    (s.irq b' k).get b f = s.get b f := by
  unfold State.get; rw [State.irq_rd _ _ _ _ h (.inl h2)]
/-- The state without the energy ledger. -/
def State.sansE (s : State) : State := { s with energyAcc := {} }
@[simp] theorem State.nrg_sansE (s : State) (f : EnergySt → EnergySt) : (s.nrg f).sansE = s.sansE := rfl
theorem State.admitFrom_sansE (s : State) (h : Chunk) (p : Nat) : (s.admitFrom h p).sansE = s.sansE := by
  unfold State.admitFrom State.commit; rfl
theorem State.askChunk_sansE (s : State) (o t n e : Nat) : (s.askChunk o t n e).2.sansE = s.sansE := by
  unfold State.askChunk
  dsimp only
  split
  · exact (State.admitFrom_sansE ..).trans rfl
  · rfl
theorem State.retryChunks_sansE (s : State) (b : Bool) : (s.retryChunks b).sansE = s.sansE := by
  unfold State.retryChunks
  generalize List.filter _ _ = l
  suffices h : ∀ (l : List Chunk) (acc : Bool × State), (l.foldl (fun (acc : Bool × State) h =>
      let (ahead, s) := acc
      match admitPool s h.tid h.est ahead (b && !ahead) with
      | some pool => (ahead, s.admitFrom h pool)
      | none => (true, s)) acc).2.sansE = acc.2.sansE from h l (false, s)
  intro l
  induction l with
  | nil => intro _; rfl
  | cons c l ih =>
    intro acc
    rw [List.foldl_cons, ih]
    dsimp only
    split
    · exact State.admitFrom_sansE ..
    · rfl
theorem State.endChunk_sansE (s : State) (o : Nat) : (s.endChunk o).sansE = s.sansE := by
  unfold State.endChunk
  split
  · rfl
  · dsimp only
    split
    · unfold State.cond
      split
      · exact (State.retryChunks_sansE ..).trans rfl
      · rfl
    · rfl
theorem State.admitFrom_chunks (s : State) (h : Chunk) (p : Nat) : (s.admitFrom h p).energyAcc.chunks =
    s.energyAcc.chunks.map fun c => if c.owner = h.owner then { c with adm := true, live := true, pool := p } else c := by
  unfold State.admitFrom State.commit State.nrg
  dsimp only
  congr 1
  split <;> rfl
theorem sansE_frame {s t : State} (h : t.sansE = s.sansE) : t.regs = s.regs ∧ t.cfg = s.cfg ∧ t.chans = s.chans ∧ t.hub = s.hub ∧ t.now = s.now ∧ t.integ = s.integ ∧ t.sync = s.sync :=
  ⟨(congrArg State.regs h :), (congrArg State.cfg h :), (congrArg State.chans h :), (congrArg State.hub h :), (congrArg State.now h :), (congrArg State.integ h :), (congrArg State.sync h :)⟩
@[simp] theorem lkPort_lport_self (s : State) (p : Nat) (f : LinkPort → LinkPort) : lkPort (s.lport p f) p = f (lkPort s p) := by
  unfold lkPort State.lport State.lnk; rw [Sp.get_set_self]; rfl
theorem lkPort_lport_of_ne (s : State) {p q : Nat} (f : LinkPort → LinkPort) (h : q ≠ p) : lkPort (s.lport p f) q = lkPort s q := by
  unfold lkPort State.lport State.lnk; rw [Sp.get_set_of_ne _ _ _ h]
theorem lkPort_congr {s t : State} (h : t.link = s.link) (p : Nat) : lkPort t p = lkPort s p := by unfold lkPort; rw [h]
@[simp] theorem State.lpSet_link (s : State) (p st : Nat) : (s.lpSet p st).link = s.link := by
  unfold State.lpSet; split
  · rfl
  · rw [State.irq_link]; rfl
theorem State.lpSet_state (s : State) (p st : Nat) (h : st < 16) (hp : p < 4) : lpState (s.lpSet p st) p = st := by
  unfold State.lpSet
  split
  · assumption
  · unfold lpState
    rw [State.get_irq _ _ _ _ _ (by simp only [pgLINK, Fld.at, LINK_P_STAT_STATE, HDR_IRQ_STAT]; omega) (by simp only [pgLINK, Fld.at, LINK_P_STAT_STATE, pgREC]; omega),
      State.get_put_self _ _ _ _ (Fld.at_fits _ _ (by decide))]
    exact Nat.mod_eq_of_lt h
theorem State.lpSet_get (s : State) (p st : Nat) (g : Fld) (h1 : 0x40 ≤ g.off) (h2 : g.off < 0x10000)
    (h : g.off ≠ LINK_P_STAT + 256 * p ∨ g.hi < 28) : (s.lpSet p st).get pgLINK g = s.get pgLINK g := by
  unfold State.lpSet
  split
  · rfl
  · rw [State.get_irq _ _ _ _ _ (by simp only [pgLINK, HDR_IRQ_STAT]; omega) (by simp only [pgLINK, pgREC]; omega),
      State.get_put_apart _ _ (Fld.at_fits _ _ (by decide)) (by
        rcases h with h | h
        · left; simp only [LINK_P_STAT, LINK_P_STAT_STATE, Fld.at] at *; omega
        · right; left; exact h)]
/-- The words of a port's block but its states and lanes, and the rest of the LINK page above its header. -/
theorem setLanes_get (s : State) (p a b : Nat) (g : Fld) (h : g.off ≠ LINK_P_STAT + 256 * p ∨ 16 ≤ g.lo) :
    (s.setLanes p a b).get pgLINK g = s.get pgLINK g := by
  unfold State.setLanes
  rw [State.get_put_apart _ _ (Fld.at_fits _ _ (by decide)) (by
      rcases h with h | h
      · left; simp only [LINK_P_STAT, LINK_P_STAT_RX_LANES, Fld.at] at *; omega
      · right; right; exact h),
    State.get_put_apart _ _ (Fld.at_fits _ _ (by decide)) (by
      rcases h with h | h
      · left; simp only [LINK_P_STAT, LINK_P_STAT_TX_LANES, Fld.at] at *; omega
      · right; right; simp only [Fld.at, LINK_P_STAT_TX_LANES]; omega)]
theorem setLanes_lanes (s : State) (p a b : Nat) : lpGet (s.setLanes p a b) p LINK_P_STAT_TX_LANES = a % 256 ∧
    lpGet (s.setLanes p a b) p LINK_P_STAT_RX_LANES = b % 256 := by
  unfold State.setLanes lpGet
  constructor
  · rw [State.get_put_page _ _ _ _ _ (Fld.at_fits _ _ (by decide)) (.inr (Fld.at_apart _ _ (by decide))), State.get_put_self _ _ _ _ (Fld.at_fits _ _ (by decide))]; rfl
  · rw [State.get_put_self _ _ _ _ (Fld.at_fits _ _ (by decide))]; rfl
theorem pumpAll_none (s : State) (p : Nat) (h : (lkPort s p).txq = []) : s.pumpAll p = s := by unfold State.pumpAll; rw [h]; rfl

@[simp] theorem State.lport_get (s : State) (q b : Nat) (f : LinkPort → LinkPort) (g : Fld) : (s.lport q f).get b g = s.get b g := rfl
@[simp] theorem lpState_lport (s : State) (p q : Nat) (f : LinkPort → LinkPort) : lpState (s.lport q f) p = lpState s p := rfl
@[simp] theorem lpGet_lport (s : State) (p q : Nat) (f : LinkPort → LinkPort) (g : Fld) : lpGet (s.lport q f) p g = lpGet s p g := rfl
theorem dropQueue_none (s : State) (p : Nat) (h : (lkPort s p).txq = []) : s.dropQueue p = s.lport p fun l => { l with txq := [] } := by
  unfold State.dropQueue
  dsimp only
  rw [h, each_nil]
theorem State.get_bumpSat_self (s : State) (a : Nat) (f : Fld) (n : Nat) (h : f.fits) :
    (s.bumpSat a f n).get a f = min (s.get a f + n) (2 ^ (f.hi + 1 - f.lo) - 1) := by
  unfold State.bumpSat
  rw [State.get_put_self _ _ _ _ h]
  exact Nat.mod_eq_of_lt (Nat.lt_of_le_of_lt (Nat.min_le_right _ _) (Nat.sub_lt (Nat.two_pow_pos _) (by decide)))
theorem pull_id (u : State) (h : u.hub.answers = []) (ha : u.win.arr.all (fun a => a.parts == [] && a.go != 0) = true) : u.pullParts = u := by
  unfold State.pullParts
  have k1 : ∀ (h : HubSt) p, h.answers = [] → { h with answers := h.answers.filter p } = h := by intro h p e; cases h; cases e; rfl
  have e1 : ∀ p, (u.hubf fun h => { h with answers := h.answers.filter p }) = u := by
    intro p
    calc (u.hubf fun h => { h with answers := h.answers.filter p }) = { u with hub := { u.hub with answers := u.hub.answers.filter p } } := rfl
      _ = { u with hub := u.hub } := by rw [k1 _ _ h]
      _ = u := rfl
  simp only [h, List.filter_nil, each_nil]
  have e2 : (u.win.arr.filter fun a => a.parts == [] && a.go == 0) = [] := by
    rw [List.filter_eq_nil_iff]
    intro a hm
    rw [List.all_eq_true] at ha
    have := ha a hm
    simp only [Bool.and_eq_true, bne_iff_ne, beq_iff_eq] at this ⊢
    exact fun h => this.2 h.2
  rw [e1]
  show State.each u (List.filter (fun a => a.parts == [] && a.go == 0) u.win.arr) State.arrDone = u
  rw [e2, each_nil]

end Sys2Proof.Machine
end

