-- ==== Sys2Proof/WellFormed.lean ====
section
/-! DEFINITION. Well-formed commands: every operand within the range that its field, its unit or its encoding has in the spec. The
meanings answer on every operand, well-formed or not. -/
namespace Sys2Proof

/-- A number below a bound. -/
def below (b n : Nat) : Bool := decide (n < b)
/-- A REQ transfer whose fields fit their bits (R139). -/
def Request.wf (r : Request) : Bool :=
  below 16 r.op && below 4 r.form && below 512 r.handle && below 256 r.gen && below (2 ^ 36) r.addr && below 64 r.lenM1 &&
  below 64 r.tid && below 64 r.tag && below 256 r.mcast && below 16 r.lens && below 16 r.aop && below 4 r.accf && below (2 ^ 32) r.gate
/-- An SQ message whose fields fit their bits (R307). -/
def SqWord.wf (w : SqWord) : Bool :=
  below 16 w.op && below 4 w.widx && below (2 ^ 33) w.resv && below 64 w.id && below 65536 w.value
/-- A group of a Spoke that a crossing carries (R602, R603). -/
def LaneFaults.wf (f : LaneFaults) : Bool := below 32 f.spoke && below 48 f.group
/-- Units that exist in some configuration (R559). -/
def BstFail.wf (f : BstFail) : Bool :=
  f.planes.all (below 2) && f.rims.all (fun r => below 8 r.1 && below 17 r.2) && f.ports.all (below 72) && f.links.all (below 4)
/-- A piece of one to four beats at a register, of a burst of at most 16 (R499, R504). -/
def FabPiece.wf (f : FabPiece) : Bool :=
  below (2 ^ 21) f.off && below (2 ^ 21) f.page && below 5 f.n && below 5 f.data.length && f.data.all (below (2 ^ 32)) && below 16 f.left

/-- A well-formed command. -/
def Instr.wf (i : Instr) : Bool :=
  match i with
  | .readRequest x r => below 72 x && r.wf
  | .writeRequest x r => below 72 x && r.wf
  | .fillRequest x r => below 72 x && r.wf
  | .accRequest x r => below 72 x && r.wf
  | .saccRequest x r => below 72 x && r.wf
  | .atomicAdd x r => below 72 x && r.wf
  | .atomicSmin x r => below 72 x && r.wf
  | .atomicSmax x r => below 72 x && r.wf
  | .atomicUmin x r => below 72 x && r.wf
  | .atomicUmax x r => below 72 x && r.wf
  | .atomicSwap x r => below 72 x && r.wf
  | .atomicCas x r => below 72 x && r.wf
  | .atomicAnd x r => below 72 x && r.wf
  | .atomicOr x r => below 72 x && r.wf
  | .atomicXor x r => below 72 x && r.wf
  | .requestReachesHub x => below 72 x
  | .splitRelease x => below 72 x
  | .upwardArbitration layer sector => below 8 layer && below 4 sector
  | .rimArbitration layer rim => below 8 layer && below 16 rim
  | .downwardArbitration layer sector => below 8 layer && below 4 sector
  | .planeMerge _ => true
  | .response x => below 72 x
  | .mcHoldExpiry x => below 72 x
  | .lensConvert x => below 72 x
  | .sflush _ x => below 72 x
  | .engineSflush _ e => below 4 e
  | .urgChange x urg => below 72 x && below 8 urg
  | .urgCapWrite _ x cap => below 72 x && below 8 cap
  | .portEnable _ x => below 72 x
  | .portDisable _ x => below 72 x
  | .portDrainDone x => below 72 x
  | .loopWrite _ x depth => below 72 x && below 4 depth
  | .planeFault p cause mismatches => below 2 p && below 16 cause && below 18 mismatches
  | .failoverResume => true
  | .planeTakeOut _ p => below 2 p
  | .planeReturn _ p => below 2 p
  | .planeChangeDone => true
  | .regulationWindowBoundary t => below 64 t
  | .brakeStateArrival t arb => below 64 t && below 192 arb
  | .tidConfigWrite _ t _ _ => below 64 t
  | .tableSigUpdate => true
  | .stepWrite _ t step => below 64 t && below 65536 step
  | .preemptWrite _ t => below 64 t
  | .snapshotGo _ t _ => below 64 t
  | .snapshotDone => true
  | .happly _ => true
  | .lock _ => true
  | .handleInstall _ h _ _ => below 512 h
  | .installClassMapDone => true
  | .installDone => true
  | .handleModify _ h => below 512 h
  | .modifyDone => true
  | .handleRetire _ h => below 512 h
  | .handleFreed => true
  | .handleClear _ h => below 512 h
  | .clearDone => true
  | .handleRead _ h => below 512 h
  | .raPush _ q => below 4 q
  | .oprecNop q => below 4 q
  | .oprecZero q => below 4 q
  | .oprecFill q => below 4 q
  | .oprecCopy q => below 4 q
  | .oprecKernel q => below 4 q
  | .recordChunkAdmission q => below 4 q
  | .reduceSegmentWrite q => below 4 q
  | .recordComplete q => below 4 q
  | .queueEnable _ q => below 4 q
  | .queueDisable _ q => below 4 q
  | .queueDrainDone q => below 4 q
  | .qcplRead _ q => below 4 q
  | .kernelLoad _ slot len => below 8 slot && below 16 len
  | .kiNop layer rim => below 8 layer && below 16 rim
  | .kiLda layer rim => below 8 layer && below 16 rim
  | .kiLdb layer rim => below 8 layer && below 16 rim
  | .kiSt layer rim => below 8 layer && below 16 rim
  | .kiAdd layer rim => below 8 layer && below 16 rim
  | .kiMul layer rim => below 8 layer && below 16 rim
  | .kiFma layer rim => below 8 layer && below 16 rim
  | .kiMin layer rim => below 8 layer && below 16 rim
  | .kiMax layer rim => below 8 layer && below 16 rim
  | .kiClip layer rim => below 8 layer && below 16 rim
  | .kiCvt layer rim => below 8 layer && below 16 rim
  | .kiRsum layer rim => below 8 layer && below 16 rim
  | .kiRmax layer rim => below 8 layer && below 16 rim
  | .subNop c w0 w1 w2 w3 => below 16 c && below (2 ^ 32) w0 && below (2 ^ 32) w1 && below (2 ^ 32) w2 && below (2 ^ 32) w3
  | .subPost c w0 w1 w2 w3 => below 16 c && below (2 ^ 32) w0 && below (2 ^ 32) w1 && below (2 ^ 32) w2 && below (2 ^ 32) w3
  | .subCplack c w0 w1 w2 w3 => below 16 c && below (2 ^ 32) w0 && below (2 ^ 32) w1 && below (2 ^ 32) w2 && below (2 ^ 32) w3
  | .subScrub _ c w0 w1 w2 w3 => below 16 c && below (2 ^ 32) w0 && below (2 ^ 32) w1 && below (2 ^ 32) w2 && below (2 ^ 32) w3
  | .channelPostWrite _ c _ => below 16 c
  | .cridxConsWrite _ c cons => below 16 c && below 65536 cons
  | .descriptorFetch c => below 16 c
  | .descNop c => below 16 c
  | .descCopy c => below 16 c
  | .descFill c => below 16 c
  | .descReduce c => below 16 c
  | .descGather c => below 16 c
  | .descScatter c => below 16 c
  | .descScrub c => below 16 c
  | .descPostrec c => below 16 c
  | .descDispatch c => below 16 c
  | .descReturn c => below 16 c
  | .descCombine c => below 16 c
  | .moverIssue e => below 4 e
  | .moverChunkAdmission c => below 16 c
  | .routerAppend c => below 16 c
  | .creditWaitTimeout c => below 16 c
  | .masterPortResponse _ _ _ => true
  | .descriptorComplete c => below 16 c
  | .creditClear _ a => below 64 a
  | .sqNop x w => below 72 x && w.wf
  | .sqAdd x w => below 72 x && w.wf
  | .sqSub x w => below 72 x && w.wf
  | .sqSet x w => below 72 x && w.wf
  | .sqWatch x w => below 72 x && w.wf
  | .sqUnwatch x w => below 72 x && w.wf
  | .sqRead x w => below 72 x && w.wf
  | .sqArrive x w => below 72 x && w.wf
  | .sqReleaseEffect x => below 72 x
  | .swTransfer x => below 72 x
  | .ctrCmdAdd _ c v => below 384 c && below 65536 v
  | .ctrCmdSub _ c v => below 384 c && below 65536 v
  | .ctrCmdSet _ c v => below 384 c && below 65536 v
  | .tagCmdSetFull _ ring slot => below 256 ring && below 16384 slot
  | .tagCmdSetEmpty _ ring slot => below 256 ring && below 16384 slot
  | .barrive _ bar n => below 64 bar && below 4096 n
  | .barrierEnable _ bar _ => below 64 bar
  | .barrierDisable _ bar _ => below 64 bar
  | .barrierReset _ bar => below 64 bar
  | .ringEnable _ ring _ => below 256 ring
  | .ringDisable _ ring _ => below 256 ring
  | .slotFill x tag => below 72 x && below 64 tag
  | .slotEmpty x tag => below 72 x && below 64 tag
  | .slotTimeout x tag => below 72 x && below 64 tag
  | .parkRetryProbe x tag => below 72 x && below 64 tag
  | .cacheFillComplete _ _ _ => true
  | .copInv _ _ => true
  | .copClean _ _ => true
  | .copCleanInv _ _ => true
  | .copDone => true
  | .sectionSwitch _ target => below 256 target
  | .sectionSwitchDone => true
  | .xbaseWrite _ _ _ => true
  | .cbIdle p => below 4 p
  | .cbLink p => below 4 p
  | .cbRetry p => below 4 p
  | .cbLaneDrop p => below 4 p
  | .cbLaneSwitch p => below 4 p
  | .cbInit p => below 4 p
  | .codewordReceived p _ lanes => below 4 p && decide (lanes.length ≤ 8) && lanes.all (below (2 ^ 5440))
  | .pktBwr p => below 5 p
  | .pktTwr p => below 5 p
  | .pktNtfy p => below 5 p
  | .pktBarr p => below 5 p
  | .pktBrel p => below 5 p
  | .pktBabt p => below 5 p
  | .pktLack p => below 5 p
  | .pktNak p => below 5 p
  | .pktCgrant p => below 5 p
  | .pktTsreq p => below 5 p
  | .pktTsrsp p => below 5 p
  | .retryRepeat p => below 4 p
  | .linkSilenceTimeout p => below 4 p
  | .laneLoss p lane _ => below 4 p && below 8 lane
  | .serInterval p => below 4 p
  | .laneRelock p => below 4 p
  | .linkPortEnable _ p _ => below 4 p
  | .linkPortDisable _ p _ => below 4 p
  | .linkDrainDone p => below 4 p
  | .linkTrainDone p tx rx => below 4 p && below 256 tx && below 256 rx
  | .linkAlignDone p _ => below 4 p
  | .retrain _ p => below 4 p
  | .fwdWrite _ a _ => below 64 a
  | .enumGo _ => true
  | .chainClear w => below (2 ^ 32) w
  | .chainEnum w => below (2 ^ 32) w
  | .chainDone w => below (2 ^ 32) w
  | .enumTimeout => true
  | .tsGo _ => true
  | .tsPeriod => true
  | .e2eTimeout _ => true
  | .lackSend src => below 64 src
  | .windowUnitEnable _ _ => true
  | .windowOpen _ w => below 256 w
  | .windowClose _ w => below 256 w
  | .windowCloseDone w => below 256 w
  | .cchEnable _ c _ => below 64 c
  | .cchDisable _ c _ => below 64 c
  | .cchDrainDone c => below 64 c
  | .creditReturn c => below 64 c
  | .tokenLanded _ => true
  | .notifyEffect k => below 64 k
  | .fenceTimeout k => below 64 k
  | .sentClr _ dev w => below 64 dev && below 256 w
  | .sentClrall _ => true
  | .correctionWriteback _ => true
  | .rimHardFault layer p cause => below 8 layer && below 17 p && below 16 cause
  | .rimCmdRetire _ layer rim => below 8 layer && below 16 rim
  | .spareTakeoverDone => true
  | .rimCmdEvacuate _ layer rim => below 8 layer && below 16 rim
  | .evacuationDone => true
  | .rimCmdAbort _ => true
  | .scrubGo _ _ tid chan => below 64 tid && below 16 chan
  | .scrubAbort _ => true
  | .scrubPassDone => true
  | .flipArm _ layer bank rim => below 8 layer && below 16 bank && below 16 rim
  | .psnLogRead _ => true
  | .drigarParityError n layer sector group halvesA halvesB =>
    below 8 n && below 8 layer && below 4 sector && below 48 group && below 5 (halvesA + halvesB)
  | .spokeResume layer sector => below 8 layer && below 4 sector
  | .domCmdOn _ n => below 256 n
  | .domCmdOff _ n => below 256 n
  | .domainOnDone n => below 256 n
  | .targetOn _ layer p idle => below 8 layer && below 17 p && below 256 idle
  | .targetFreewheel _ layer p idle => below 8 layer && below 17 p && below 256 idle
  | .targetOff _ layer p idle => below 8 layer && below 17 p && below 256 idle
  | .rimDrainEnd layer p => below 8 layer && below 17 p
  | .drainLimitExpiry layer p => below 8 layer && below 17 p
  | .rimStateReached layer p => below 8 layer && below 17 p
  | .rimWakeStart => true
  | .rimIdleExpiry layer p => below 8 layer && below 17 p
  | .cadenceBoundary arrMv periMv => below 65536 arrMv && below 65536 periMv
  | .emAliveExpiry => true
  | .ringMonitorReport unit pace => below 33 unit && below 65536 pace
  | .thermalReport sector temp => below 32 sector && below 4096 temp
  | .powerAlertChange _ => true
  | .emgForceWrite _ _ => true
  | .emergencyExit => true
  | .governorWindow => true
  | .fabricPiece cands => cands.all FabPiece.wf
  | .registerWrite _ off _ => below (2 ^ 21) off
  | .irqForce _ off set => below (2 ^ 21) off && below (2 ^ 32) set
  | .semaClaim _ g => below 32 g
  | .semaRelease _ g => below 32 g
  | .semaForce _ g => below 32 g
  | .fwStage _ => true
  | .fwStageDone => true
  | .fwActivate _ => true
  | .fwCancel _ => true
  | .pendingActivationStart => true
  | .activationCommit => true
  | .emLoadDone n => below 2 n
  | .wdtKick _ n => below 2 n
  | .watchdogExpiry n => below 2 n
  | .emRestart _ n => below 2 n
  | .reqProdWrite _ r prod => below 2 r && below 256 prod
  | .rspConsWrite _ r cons => below 2 r && below 256 cons
  | .echo r => below 2 r
  | .info r => below 2 r
  | .em1Echo r => below 2 r
  | .em1Info r => below 2 r
  | .lifeInfo r => below 2 r
  | .lifeFlush r => below 2 r
  | .lifeRead r => below 2 r
  | .lifeLoad r => below 2 r
  | .lifeCommit r => below 2 r
  | .ftRim r => below 2 r
  | .ftPlane r => below 2 r
  | .ftLink r => below 2 r
  | .ftSync r => below 2 r
  | .ftAbort r => below 2 r
  | .ftResult r => below 2 r
  | .ftCmdRim _ layer rim => below 8 layer && below 16 rim
  | .ftCmdPlane _ plane => below 2 plane
  | .ftCmdLink _ p depth => below 4 p && below 4 depth
  | .ftCmdSync _ => true
  | .ftCmdAbort _ => true
  | .ftCopyDone => true
  | .ftPatternsDone _ elem bank row fbits => below 16 elem && below 16 bank && below 16384 row && below (2 ^ 32) fbits
  | .ftBackDone => true
  | .fieldTestDone _ errs => below (2 ^ 32) errs
  | .rcEnable _ _ => true
  | .rcDisable _ _ => true
  | .rcDrainDone => true
  | .rcArm _ => true
  | .rcClearingDone => true
  | .triggerSample => true
  | .rcSwtrig _ tag trig => below 65536 tag && below 32 trig
  | .recordWrite => true
  | .lifeSample => true
  | .lifePeriodicFlush => true
  | .lifeBaseLoad => true
  | .lcAdvance _ confirm => below 65536 confirm
  | .lcRetireDevice _ confirm => below 65536 confirm
  | .svcEnter _ => true
  | .porstRelease _ => true
  | .porstAssert => true
  | .srstAssert => true
  | .railOutOfRange => true
  | .timerefStop => true
  | .fuseShadowLoaded => true
  | .crossingBringup n _ faults => below 8 n && faults.all LaneFaults.wf
  | .bootSelfTest fails => fails.wf
  | .bootSelfTestDone => true
  | .retirementsReapplied => true
  | .srstRelease => true
  | .sectorPeripheryFault layer sector cause => below 8 layer && below 4 sector && below 16 cause
  | .syncPlaneFault cause => below 16 cause
  | .portAdapterFault x => below 72 x
  | .moverEngineFault e => below 4 e
  | .ceThresholdCrossed layer p => below 8 layer && below 17 p
  | .activationKickTimeout => true
  | .lifeFlushWritten _ => true

end Sys2Proof
end

