-- ==== Sys2Proof/Tests/Slice0.lean ====
section
/-! SUPPORT. The model's own tests: ill-formed operands refused, and for each clause of each statement a state and operands that meet
its hypotheses together. -/
open Sys2Proof Sys2Proof.Machine
namespace Sys2Proof.Tests
set_option Elab.async false

/-! ### States -/

/-- Reset, with the boot over: the fuse shadow loaded and the boot self-test done. -/
def up : State := State.put { State.reset with fuseLoaded := true } pgTEST TEST_BST_STAT_DONE 1
/-- The same with the semaphore of a page group held by CPA. -/
def own (g : Nat) : State := up.setOwner g 1
/-- A request of one byte at PTA 0. -/
def rq (op : Nat) : Request := ⟨op, true, 2, false, 0, 0, 0, 0, 0, 0, 0, 0, false, 0, false, 0, 0, 0, 0⟩
/-- A state with port x ENABLED. -/
def en (s : State) (x : Nat) : State := (s.put (portBase x) PORT_PCTL_EN 1).put (portBase x) PORT_PSTAT_STATE 2
/-- A transaction of `rq 0`. -/
def tx : Txn := ⟨rq 0, 0, false, 0, [], false, 0, 4, [], [0], [], [], [], [], none, 0, [], [], false⟩
/-- A lane of tag 0. -/
def ln : Lane := ⟨false, 0, 0, 0, 0, 0, false, 0, false, 0, some 1, 0⟩
/-- A read line of tag 0 that has come back to port 0. -/
def bk : BackLine := ⟨0, 0, 0, 0, [⟨0, 0, 0, 0⟩], 0, 1, 0, 0, 0, 0⟩
/-- A write access of mover channel 0 to a whole segment, in a place. -/
def ac (l : Loc) : Access :=
  { seq := 0, src := .mover 0 0, op := .write, line := false, layer := 0, frame := 0, segs := [⟨0, 0, 0, fullMask⟩], tid := 0, step := 0,
    obs := 0, wide := 4, stream := none, born := 0, bornD := 0, policy := 4, loc := l, status := 0, pmask := 0, pk := 0, source := 0, mcast := 0 }
/-- A state with one access in flight. -/
def fl (a : Access) : State := up.setFlight [a]
/-- Mover channel 0 ENABLED, the MOVER group owned by CPA. -/
def mvOn : State := en (own 11) 56
/-- A state in which handle 1 is LIVE, of one frame of layer 0, with every right. -/
def live1 (s : State) : State :=
  ({ s with handles := [(1, ⟨4, 0, 0, 0, 0, 0, 0, false, false, false, true, true, false, 0, 255, 0xFFFFFF, 0⟩)] } : State).put pgHSTATE (HANDLE_STATE_HSTATE_STATE.at 4 1) 1
/-- A mover channel with a NOP descriptor whose endpoints are none, or one that fails its check. -/
def job0 (w : List Nat) : MvJob := { words := w, chain := 0 }
def nopW (op : Nat) : List Nat := [op * 2 ^ 28, 0, 0, 0, 3 * 2 ^ 30, 0, 0, 0, 3 * 2 ^ 30, 0, 0, 0, 0, 0, 0, 0]
def ch0 (s : State) (j : MvJob) (h : List Chain) : State := { s with chans := [(0, { ({} : MvChan) with jobs := [j], chains := h })] }
/-- A device with two link ports, the LINK group owned by CPA, port p in a state, with EN 1. -/
def lkUp (p st : Nat) : State :=
  let s : State := { own 14 with cfg := { Dev.kiln16 with links := 2 } }
  (s.put pgLINK (LINK_P_STAT_STATE.at 256 p) st).put pgLINK (LINK_P_CTL_EN.at 256 p) 1
/-- A record of a kind with one step, and a state with it at the head of queue 3. -/
def rec1 (k : Nat) : RaRec := { words := [k * 2 ^ 28, 0, 0, 0, 0, 0, 0, 0], chan := none }
def inQ (s : State) (l : List RaRec) : State := { s.put pgRIMALU (RIMALU_Q_STAT_STATE.at 32 3) 1 with raq := [(3, { ({} : RaQueue) with recs := l })] }
/-- A record that runs kernel slot 0, which holds one instruction. -/
def krec : RaRec := { words := [4 * 2 ^ 28, 0, 0, 0, 0, 0, 0, 0], chan := none }
/-- A state in which CPA holds the HANDLE group and a descriptor of one frame is staged. -/
def staged : State := (own 7).put pgHCMD HANDLE_CMD_SDESC1_TROW 1
/-- A handle command of one frame. -/
def hc (op stage : Nat) : HandleCmd := ⟨op, 5, stage, false, stagedDesc staged, 0⟩
/-- Queue 3 ENABLED with one record of one step at handle 0, whose TID has class RT. -/
def rtRec (k : Nat) : State := (inQ up [rec1 k]).put pgREGUL (REGUL_TCFG_CLASS.at 16 0) 0
/-- A running record of queue 3, and the state that holds it. -/
def run1 (k w5 : Nat) (n u : Nat) : RaRec := { words := [k * 2 ^ 28, 0, 0, 0, 0, w5, 0, 0], chan := none, started := true, next := n, upTo := u }
/-- A step of queue 3 runs a body of two instructions at logical rim 0 of layer 0. -/
def kst (ins : Nat) : State := { (((inQ up [krec]).put pgRIMALU RIMALU_KSLOT_STAT_VALID 1).wr (pgRIMALU + RIMALU_KSLOT) (BitVec.ofNat 32 ins)) with
  klen := [(0, 2)], rims := [(0, { ({} : RimSt) with krun := true, kq := some 3, aluX := 1, aluY := 2 })] }
def kcx : KCtx := ⟨0, 0, 0, 3, krec, 0⟩
/-- A message of a port. -/
def sqw (op id v : Nat) : SqWord := ⟨op, false, true, false, 3, 0, id, v⟩
/-- Ring 255 enabled, its group owned by CPA. -/
def ringUp : State := (((own 9).ringPut 255 SYNC_RING_RCFG0_EN 1).ringPut 255 SYNC_RING_RCFG2_NSLOTS_M1 16383)
/-- A message held for release at a port. -/
def heldAdd : SqHeld := ⟨⟨1, true, false, false, 0, 0, 47, 65535⟩, 0, 0⟩
/-- Ring 255 enabled with a fill or an empty of its last slot under way. -/
def slotWait (b : Bool) (tag : Bool) : State := (ringUp.setTag 16383 tag).syn fun y => { y with changes := [⟨255, 16383, b, 0, 0, 0, [], false⟩] }
/-- A request of port 0 parked for slot 16,383 of ring 255. -/
def parkedAt (full table : Bool) : State := (ringUp.port 0 fun p => { p with txns := [tx] }).syn fun y => { y with parks := [⟨0, 0, 0, 0, 255, 16383, full, some 0, table⟩] }
/-- An operation of port 0 at the cache controller, on a byte of line 5. -/
def cj (wr : Bool) (st : CacheStage) : CacheJob := { id := 3, line := 5, op := .ext 0 0, tid := 0, b := 127, n := 1, wr := wr, data := 9, stage := st }
/-- Section 0 in cache mode with a missed line of port 0 outstanding; no line is held. -/
def missed (wr : Bool) : State := { ((up.put pgCACHE CACHE_SEC_STAT_CUR 1).port 0 fun p => { p with txns := [{ tx with req := rq (b2n wr) }] }) with
  cache := { ({} : CacheSt) with jobs := [cj wr .fetch], next := 4 }, mport := [⟨7, .fill 3, false, 640, 128, 0, 128, 0, 0⟩] }
/-- The same with the fill write at the merge. -/
def filling (wr : Bool) (op : CacheOp) : State := { missed wr with
  cache := { ({} : CacheSt) with jobs := [{ cj wr .fill with op := op, key := 40, sent := true }], next := 4 }, mport := [],
  hub := { (missed wr).hub with flight := [{ (cj wr .fill).access (missed wr) with seq := 6, loc := .merge }] } }
/-- A cache in mode for section 0 that holds one line, its group owned by CPA. -/
def held1 (d : Bool) : State := { ((own 13).put pgCACHE CACHE_SEC_STAT_CUR 1) with cache := { ({} : CacheSt) with lines := [(7, ⟨0, d⟩)] } }
/-- The words of a descriptor of each operation that passes its checks, its endpoints by PTA or outside. -/
def okW (op : Nat) : List Nat :=
  let tm8 := 2 ^ 29
  let ext := 2 ^ 30
  let no := 3 * 2 ^ 30
  let a := match op with | 0 | 2 | 9 | 10 => no | 6 | 8 => tm8 | _ => ext
  let b := match op with | 0 | 7 | 9 => no | 10 => no | 1 | 2 | 4 | 5 => ext | _ => tm8
  [op * 2 ^ 28, 511, 0, 0, a, 0, 0, 0, b, 0, 0, 0, 0, 0, 0, 0]
/-- A channel that has one chain to read. -/
def chn (w : List Nat) (b : Bool) : Chain := ⟨0, b, w, 0⟩
def toRead (s : State) (h : Chain) : State := { s with chans := [(0, { ({} : MvChan) with chains := [h] })] }
/-- A state in which nothing but channel 0 holds anything, which runs descriptor j, its chunk admitted. -/
def alone (j : MvJob) : State :=
  { ch0 mvOn j [] with energyAcc := { ({} : EnergySt) with chunks := [⟨0, 0, 1, 0, true, 2, true, 0⟩] } }
/-- A RETURN descriptor at its append, and a state with ring 0 enabled for lines of two. -/
def app0 : MvJob := { job0 (nopW 9) with started := true, chunk := 1, sub := 3, slot2 := some (0, 0) }
def rings (s : State) : State := (s.put (ringBase 0) (SYNC_RING_RCFG0_EN.at 4 0) 1).put (ringBase 0) (SYNC_RING_RCFG0_SLINES_M1.at 4 0) 1
/-- A state in which link port p holds one control block. -/
def lkB (st b : Nat) : State := (lkUp 0 st).lport 0 fun l => { l with rxCtl := [b] }
/-- A packet of an LSEQ that waits for its acknowledgement. -/
def waitTx (n : Nat) : LinkTx := { pk := { ptype := 1, cls := 0, vl := 0, dst := 1, src := 0, ndata := 1, lseq := n, hops := 0, etag := 0, h2 := 0, h3 := 0, h4 := 0, h5 := 0, h6 := 0, data := 1, pcrc := 0 }, inp := 4, laneIn := 0, tid := none }
/-- A packet from device 9 to device 0, and a state in which its flits are those first in the buffer of link port 0. -/
def pkt (ty cls n h2 : Nat) : Packet :=
  sealPacket { ptype := ty, cls := cls, vl := 0, dst := 0, src := 9, ndata := n, lseq := 0, hops := 0, etag := 5, h2 := h2, h3 := 0, h4 := 0, h5 := 0, h6 := 1, data := if n = 0 then 0 else 7, pcrc := 0 }
def inbound (s : State) (pk : Packet) : State :=
  ((((s.put pgLINK LINK_ENUM_STAT_ADDR_V 1).put pgLINK (LINK_P_STAT_STATE.at 256 0) 4).put pgWINCTL WINDOW_CTL_WCTL_EN 1).lport 0 fun l =>
    { l with rxFlits := (packetBlocks pk).map (· / 2) })
/-- Window 255 OPEN under handle 1, for every source. -/
def winUp (st : Nat) : State :=
  (((live1 (own 15)).winPut 255 WINDOW_TAB_WIN_CFG0_STATE st).winPut 255 WINDOW_TAB_WIN_CFG0_HANDLE 1).put pgWINCTL ⟨WINDOW_CTL_SMASK, 31, 0⟩ (2 ^ 32 - 1)
/-- The device enumerated, of a domain of two, a way to device 1 over port 0. -/
def domain2 (s : State) : State :=
  ((((((s.put pgLINK (LINK_P_STAT_STATE.at 256 0) 4).put pgLINK LINK_ENUM_STAT_STATE 2).put pgLINK LINK_ENUM_STAT_DEVICES 2).put pgLINK (LINK_FWD_VALID.at 4 1) 1)).put
    pgLINK (LINK_FWD_VALID.at 4 0) 1)
/-- A credit channel 63 with its ring 255 under handle 1. -/
def cchUp : State := ((((live1 (own 15)).ringPut 255 SYNC_RING_RCFG0_EN 1).ringPut 255 SYNC_RING_RCFG0_HANDLE 1).ringPut 255 SYNC_RING_RCFG2_NSLOTS_M1 16383).cchPut 63 WINDOW_CCH_CCH_LIM_LIMIT 16383
def tok (bad : Option Nat) : Token := ⟨3, 63, 0, 0, 9, 5, 255, 16383, true, bad, [], bad.isSome⟩
/-- A device whose two Emlar cores run, with a message of a TYPE alone in a mailbox ring, of n payload bytes, w in the first two words. -/
def msg (s : State) (r typ n w0 w1 : Nat) : State :=
  let s := ((s.put pgMBCTL (emFld 0 MAILBOX_CTL_EM_STAT_STATE) 2).put pgMBCTL (emFld 1 MAILBOX_CTL_EM_STAT_STATE) 2).put (mboxBase r) MBOX_REQ_PROD_INDEX 1
  let e := mboxBase r + MBOX_REQ_ENTRY
  (((s.wr e (BitVec.ofNat 32 typ)).wr (e + 4) (BitVec.ofNat 32 (0xABCD * 2 ^ 16 + n * 2 ^ 8))).wr (e + 16) (BitVec.ofNat 32 w0)).wr (e + 20) (BitVec.ofNat 32 w1)
/-- The same with the retirements applied again and group 20 held by CPB. -/
def tmsg (typ n w0 : Nat) : State := msg ((up.setOwner 20 2).put pgTEST TEST_BST_STAT_REAPPLIED 1) 1 typ n w0 0
/-- A device with no life store, its RECORDER group held by CPB. -/
def lmsg (typ n w0 w1 : Nat) : State := { msg (up.setOwner 19 2) 1 typ n w0 w1 with cfg := { Dev.kiln16 with optN := false } }
/-- A field test that runs. -/
def test1 (op unit : Nat) (ab : Bool) : FieldTest := { op, layer := 0, unit, depth := 0, start := 0, since := 0, abort := ab, reply := none }
def inTest (f : FieldTest) (ph : Nat) : State :=
  { (((up.setOwner 20 1).put pgTEST TEST_LC_STAT_STATE 1).put pgTEST TEST_FT_STAT_PHASE ph).put pgTEST TEST_FT_STAT_BUSY 1 with test := { up.test with ft := some f } }
/-- The recorder's group owned by CPA, the recorder in a state with EN 1. -/
def rec0 (st : Nat) : State := ((own 19).put pgREC RECORDER_RC_CTL_EN 1).put pgREC RECORDER_RC_STAT_STATE st
/-- EM0 and EM1 run. -/
def ems (s : State) : State := (s.put pgMBCTL (emFld 0 MAILBOX_CTL_EM_STAT_STATE) 2).put pgMBCTL (emFld 1 MAILBOX_CTL_EM_STAT_STATE) 2
/-- Trigger 31 enabled with a KIND and its arguments; the recorder ARMED. -/
def trigs (k a0 a1 : Nat) : State :=
  (((rec0 2).wr (pgREC + RECORDER_TRG_CFG + 16 * 31) (BitVec.ofNat 32 (2 ^ 31 + k * 2 ^ 23))).wr (pgREC + RECORDER_TRG_ARG0 + 16 * 31) (BitVec.ofNat 32 a0)).wr
    (pgREC + RECORDER_TRG_ARG1 + 16 * 31) (BitVec.ofNat 32 a1)
/-- The TEST group held by CPA, in lifecycle state v. -/
def lcs (v : Nat) : State := (own 20).put pgTEST TEST_LC_STAT_STATE v
/-- The last symbols of a word with more errors than the code corrects. -/
def badTail : List Nat := [1, 0, 1, 1, 0, 0, 1, 1, 1, 0, 1, 0, 1, 0, 1, 1, 0, 1, 1, 0, 1, 0, 0, 1, 1, 1, 0, 1, 0, 1]
/-- An image of zeros with its MAGIC, VER, CRC and, where e is not 0, an entry of the retired-rim list; EM1 may reapply the list of it. -/
@[irreducible] def img0 : List Host.Cell := imgPut imgEmpty 0x3C 4 (crc32c 0 (imgSize - 0x40))
def again (e : Nat) : State :=
  { ems up with life := { up.life with loaded := true, state := 1, img := imgPut [] 0x240 8 e } }
/-- A bank whose two sections are empty, with their digests and the entry 0x1234 of EM1. -/
def img1 : List Host.Cell := Mem.writeN (Mem.writeN (Mem.writeN [] 0x1C 0x1234 4) 0x40 0x55b852781b9995a44c939b64e441ae2724b96f99c8f4fb9a141cfc9842c4b0e3 32) 0x60 0x55b852781b9995a44c939b64e441ae2724b96f99c8f4fb9a141cfc9842c4b0e3 32

/-! ### Well-formed operands: every check refuses a value past its bound, and takes the last value within it -/

/-- Operands of zeros. -/
def sqw0 : SqWord := ⟨0, false, false, false, 0, 0, 0, 0⟩
def lf0 : LaneFaults := ⟨0, 0, 0, 0⟩
def bf0 : BstFail := ⟨false, false, false, [], [], [], []⟩
def fp0 : FabPiece := ⟨.cpa, false, 0, 0, [], 0, 0⟩
theorem test_operands_refused_1 : ([
    .readRequest 72 (rq 0), .readRequest 0 { rq 0 with op := 16 }, .writeRequest 72 (rq 0), .writeRequest 0 { rq 0 with op := 16 },
    .fillRequest 72 (rq 0), .fillRequest 0 { rq 0 with op := 16 }, .accRequest 72 (rq 0), .accRequest 0 { rq 0 with op := 16 }, .saccRequest 72 (rq 0),
    .saccRequest 0 { rq 0 with op := 16 }, .atomicAdd 72 (rq 0), .atomicAdd 0 { rq 0 with op := 16 }, .atomicSmin 72 (rq 0),
    .atomicSmin 0 { rq 0 with op := 16 }, .atomicSmax 72 (rq 0), .atomicSmax 0 { rq 0 with op := 16 }, .atomicUmin 72 (rq 0),
    .atomicUmin 0 { rq 0 with op := 16 }, .atomicUmax 72 (rq 0), .atomicUmax 0 { rq 0 with op := 16 }, .atomicSwap 72 (rq 0),
    .atomicSwap 0 { rq 0 with op := 16 }, .atomicCas 72 (rq 0), .atomicCas 0 { rq 0 with op := 16 }, .atomicAnd 72 (rq 0),
    .atomicAnd 0 { rq 0 with op := 16 }, .atomicOr 72 (rq 0), .atomicOr 0 { rq 0 with op := 16 }, .atomicXor 72 (rq 0),
    .atomicXor 0 { rq 0 with op := 16 }, .requestReachesHub 72, .splitRelease 72, .upwardArbitration 8 0, .upwardArbitration 0 4, .rimArbitration 8 0,
    .rimArbitration 0 16, .downwardArbitration 8 0, .downwardArbitration 0 4, .response 72, .mcHoldExpiry 72, .lensConvert 72, .sflush .cpa 72,
    .engineSflush .cpa 4, .urgChange 72 0, .urgChange 0 8, .urgCapWrite .cpa 72 0, .urgCapWrite .cpa 0 8, .portEnable .cpa 72, .portDisable .cpa 72,
    .portDrainDone 72, .loopWrite .cpa 72 0, .loopWrite .cpa 0 4, .planeFault 2 0 0, .planeFault 0 16 0, .planeFault 0 0 18, .planeTakeOut .cpa 2,
    .planeReturn .cpa 2, .regulationWindowBoundary 64, .brakeStateArrival 64 0, .brakeStateArrival 0 192] : List Instr).all (fun i => !i.wf) = true := by decide +kernel
theorem test_operands_refused_2 : ([
    .tidConfigWrite .cpa 64 false 0, .stepWrite .cpa 64 0, .stepWrite .cpa 0 65536, .preemptWrite .cpa 64, .snapshotGo .cpa 64 false,
    .handleInstall .cpa 512 false false, .handleModify .cpa 512, .handleRetire .cpa 512, .handleClear .cpa 512, .handleRead .cpa 512, .raPush .cpa 4,
    .oprecNop 4, .oprecZero 4, .oprecFill 4, .oprecCopy 4, .oprecKernel 4, .recordChunkAdmission 4, .reduceSegmentWrite 4, .recordComplete 4,
    .queueEnable .cpa 4, .queueDisable .cpa 4, .queueDrainDone 4, .qcplRead .cpa 4, .kernelLoad .cpa 8 0, .kernelLoad .cpa 0 16, .kiNop 8 0, .kiNop 0 16,
    .kiLda 8 0, .kiLda 0 16, .kiLdb 8 0, .kiLdb 0 16, .kiSt 8 0, .kiSt 0 16, .kiAdd 8 0, .kiAdd 0 16, .kiMul 8 0, .kiMul 0 16, .kiFma 8 0, .kiFma 0 16,
    .kiMin 8 0, .kiMin 0 16, .kiMax 8 0, .kiMax 0 16, .kiClip 8 0, .kiClip 0 16, .kiCvt 8 0, .kiCvt 0 16, .kiRsum 8 0, .kiRsum 0 16, .kiRmax 8 0,
    .kiRmax 0 16, .subNop 16 0 0 0 0, .subNop 0 4294967296 0 0 0, .subNop 0 0 4294967296 0 0, .subNop 0 0 0 4294967296 0, .subNop 0 0 0 0 4294967296,
    .subPost 16 0 0 0 0, .subPost 0 4294967296 0 0 0, .subPost 0 0 4294967296 0 0, .subPost 0 0 0 4294967296 0] : List Instr).all (fun i => !i.wf) = true := by decide +kernel
theorem test_operands_refused_3 : ([
    .subPost 0 0 0 0 4294967296, .subCplack 16 0 0 0 0, .subCplack 0 4294967296 0 0 0, .subCplack 0 0 4294967296 0 0, .subCplack 0 0 0 4294967296 0,
    .subCplack 0 0 0 0 4294967296, .subScrub .cpa 16 0 0 0 0, .subScrub .cpa 0 4294967296 0 0 0, .subScrub .cpa 0 0 4294967296 0 0,
    .subScrub .cpa 0 0 0 4294967296 0, .subScrub .cpa 0 0 0 0 4294967296, .channelPostWrite .cpa 16 0, .cridxConsWrite .cpa 16 0,
    .cridxConsWrite .cpa 0 65536, .descriptorFetch 16, .descNop 16, .descCopy 16, .descFill 16, .descReduce 16, .descGather 16, .descScatter 16,
    .descScrub 16, .descPostrec 16, .descDispatch 16, .descReturn 16, .descCombine 16, .moverIssue 4, .moverChunkAdmission 16, .routerAppend 16,
    .creditWaitTimeout 16, .descriptorComplete 16, .creditClear .cpa 64, .sqNop 72 sqw0, .sqNop 0 { sqw0 with op := 16 }, .sqAdd 72 sqw0,
    .sqAdd 0 { sqw0 with op := 16 }, .sqSub 72 sqw0, .sqSub 0 { sqw0 with op := 16 }, .sqSet 72 sqw0, .sqSet 0 { sqw0 with op := 16 }, .sqWatch 72 sqw0,
    .sqWatch 0 { sqw0 with op := 16 }, .sqUnwatch 72 sqw0, .sqUnwatch 0 { sqw0 with op := 16 }, .sqRead 72 sqw0, .sqRead 0 { sqw0 with op := 16 },
    .sqArrive 72 sqw0, .sqArrive 0 { sqw0 with op := 16 }, .sqReleaseEffect 72, .swTransfer 72, .ctrCmdAdd .cpa 384 0, .ctrCmdAdd .cpa 0 65536,
    .ctrCmdSub .cpa 384 0, .ctrCmdSub .cpa 0 65536, .ctrCmdSet .cpa 384 0, .ctrCmdSet .cpa 0 65536, .tagCmdSetFull .cpa 256 0,
    .tagCmdSetFull .cpa 0 16384, .tagCmdSetEmpty .cpa 256 0, .tagCmdSetEmpty .cpa 0 16384] : List Instr).all (fun i => !i.wf) = true := by decide +kernel
theorem test_operands_refused_4 : ([
    .barrive .cpa 64 0, .barrive .cpa 0 4096, .barrierEnable .cpa 64 0, .barrierDisable .cpa 64 0, .barrierReset .cpa 64, .ringEnable .cpa 256 0,
    .ringDisable .cpa 256 0, .slotFill 72 0, .slotFill 0 64, .slotEmpty 72 0, .slotEmpty 0 64, .slotTimeout 72 0, .slotTimeout 0 64,
    .parkRetryProbe 72 0, .parkRetryProbe 0 64, .sectionSwitch .cpa 256, .cbIdle 4, .cbLink 4, .cbRetry 4, .cbLaneDrop 4, .cbLaneSwitch 4, .cbInit 4,
    .codewordReceived 4 false [], .pktBwr 5, .pktTwr 5, .pktNtfy 5, .pktBarr 5, .pktBrel 5, .pktBabt 5, .pktLack 5, .pktNak 5, .pktCgrant 5, .pktTsreq 5,
    .pktTsrsp 5, .retryRepeat 4, .linkSilenceTimeout 4, .laneLoss 4 0 false, .laneLoss 0 8 false, .serInterval 4, .laneRelock 4,
    .linkPortEnable .cpa 4 0, .linkPortDisable .cpa 4 0, .linkDrainDone 4, .linkTrainDone 4 0 0, .linkTrainDone 0 256 0, .linkTrainDone 0 0 256,
    .linkAlignDone 4 false, .retrain .cpa 4, .fwdWrite .cpa 64 0, .chainClear 4294967296, .chainEnum 4294967296, .chainDone 4294967296, .lackSend 64,
    .windowOpen .cpa 256, .windowClose .cpa 256, .windowCloseDone 256, .cchEnable .cpa 64 0, .cchDisable .cpa 64 0, .cchDrainDone 64, .creditReturn 64] : List Instr).all (fun i => !i.wf) = true := by decide +kernel
theorem test_operands_refused_5 : ([
    .notifyEffect 64, .fenceTimeout 64, .sentClr .cpa 64 0, .sentClr .cpa 0 256, .rimHardFault 8 0 0, .rimHardFault 0 17 0, .rimHardFault 0 0 16,
    .rimCmdRetire .cpa 8 0, .rimCmdRetire .cpa 0 16, .rimCmdEvacuate .cpa 8 0, .rimCmdEvacuate .cpa 0 16, .scrubGo .cpa false 64 0,
    .scrubGo .cpa false 0 16, .flipArm .cpa 8 0 0, .flipArm .cpa 0 16 0, .flipArm .cpa 0 0 16, .spokeResume 8 0, .spokeResume 0 4, .domCmdOn .cpa 256,
    .domCmdOff .cpa 256, .domainOnDone 256, .targetOn .cpa 8 0 0, .targetOn .cpa 0 17 0, .targetOn .cpa 0 0 256, .targetFreewheel .cpa 8 0 0,
    .targetFreewheel .cpa 0 17 0, .targetFreewheel .cpa 0 0 256, .targetOff .cpa 8 0 0, .targetOff .cpa 0 17 0, .targetOff .cpa 0 0 256,
    .rimDrainEnd 8 0, .rimDrainEnd 0 17, .drainLimitExpiry 8 0, .drainLimitExpiry 0 17, .rimStateReached 8 0, .rimStateReached 0 17, .rimIdleExpiry 8 0,
    .rimIdleExpiry 0 17, .cadenceBoundary 65536 0, .cadenceBoundary 0 65536, .ringMonitorReport 33 0, .ringMonitorReport 0 65536, .thermalReport 32 0,
    .thermalReport 0 4096, .registerWrite .cpa 2097152 0, .irqForce .cpa 2097152 0, .irqForce .cpa 0 4294967296, .semaClaim .cpa 32,
    .semaRelease .cpa 32, .semaForce .cpa 32, .emLoadDone 2, .wdtKick .cpa 2, .watchdogExpiry 2, .emRestart .cpa 2, .reqProdWrite .cpa 2 0,
    .reqProdWrite .cpa 0 256, .rspConsWrite .cpa 2 0, .rspConsWrite .cpa 0 256, .echo 2, .info 2] : List Instr).all (fun i => !i.wf) = true := by decide +kernel
theorem test_operands_refused_6 : ([
    .em1Echo 2, .em1Info 2, .lifeInfo 2, .lifeFlush 2, .lifeRead 2, .lifeLoad 2, .lifeCommit 2, .ftRim 2, .ftPlane 2, .ftLink 2, .ftSync 2, .ftAbort 2,
    .ftResult 2, .ftCmdRim .cpa 8 0, .ftCmdRim .cpa 0 16, .ftCmdPlane .cpa 2, .ftCmdLink .cpa 4 0, .ftCmdLink .cpa 0 4, .ftPatternsDone false 16 0 0 0,
    .ftPatternsDone false 0 16 0 0, .ftPatternsDone false 0 0 16384 0, .ftPatternsDone false 0 0 0 4294967296, .fieldTestDone false 4294967296,
    .rcSwtrig .cpa 65536 0, .rcSwtrig .cpa 0 32, .lcAdvance .cpa 65536, .lcRetireDevice .cpa 65536, .crossingBringup 8 false [],
    .sectorPeripheryFault 8 0 0, .sectorPeripheryFault 0 4 0, .sectorPeripheryFault 0 0 16, .syncPlaneFault 16, .portAdapterFault 72,
    .moverEngineFault 4, .ceThresholdCrossed 8 0, .ceThresholdCrossed 0 17, .readRequest 0 { rq 0 with form := 4 },
    .readRequest 0 { rq 0 with handle := 512 }, .readRequest 0 { rq 0 with gen := 256 }, .readRequest 0 { rq 0 with addr := 2 ^ 36 },
    .readRequest 0 { rq 0 with lenM1 := 64 }, .readRequest 0 { rq 0 with tid := 64 }, .readRequest 0 { rq 0 with tag := 64 },
    .readRequest 0 { rq 0 with mcast := 256 }, .readRequest 0 { rq 0 with lens := 16 }, .readRequest 0 { rq 0 with aop := 16 },
    .readRequest 0 { rq 0 with accf := 4 }, .readRequest 0 { rq 0 with gate := 2 ^ 32 }, .sqNop 0 { sqw0 with widx := 4 },
    .sqNop 0 { sqw0 with resv := 2 ^ 33 }, .sqNop 0 { sqw0 with id := 64 }, .sqNop 0 { sqw0 with value := 65536 },
    .bootSelfTest { bf0 with planes := [2] }, .bootSelfTest { bf0 with rims := [(8, 0)] }, .bootSelfTest { bf0 with ports := [72] },
    .bootSelfTest { bf0 with links := [4] }, .bootSelfTest { bf0 with rims := [(0, 17)] }, .crossingBringup 0 false [{ lf0 with spoke := 32 }],
    .crossingBringup 0 false [{ lf0 with group := 48 }], .fabricPiece [{ fp0 with off := 2 ^ 21 }]] : List Instr).all (fun i => !i.wf) = true := by decide +kernel
theorem test_operands_refused_7 : ([
    .fabricPiece [{ fp0 with page := 2 ^ 21 }], .fabricPiece [{ fp0 with n := 5 }], .fabricPiece [{ fp0 with data := [0, 0, 0, 0, 0] }],
    .fabricPiece [{ fp0 with left := 16 }], .fabricPiece [{ fp0 with data := [2 ^ 32] }], .codewordReceived 0 false (List.replicate 9 0),
    .codewordReceived 0 false [2 ^ 5440]] : List Instr).all (fun i => !i.wf) = true := by decide +kernel
theorem test_operands_taken_8 : ([
    .readRequest 71 (rq 0), .writeRequest 71 (rq 0), .fillRequest 71 (rq 0), .accRequest 71 (rq 0), .saccRequest 71 (rq 0), .atomicAdd 71 (rq 0),
    .atomicSmin 71 (rq 0), .atomicSmax 71 (rq 0), .atomicUmin 71 (rq 0), .atomicUmax 71 (rq 0), .atomicSwap 71 (rq 0), .atomicCas 71 (rq 0),
    .atomicAnd 71 (rq 0), .atomicOr 71 (rq 0), .atomicXor 71 (rq 0), .requestReachesHub 71, .splitRelease 71, .upwardArbitration 7 3,
    .rimArbitration 7 15, .downwardArbitration 7 3, .response 71, .mcHoldExpiry 71, .lensConvert 71, .sflush .cpa 71, .engineSflush .cpa 3,
    .urgChange 71 7, .urgCapWrite .cpa 71 7, .portEnable .cpa 71, .portDisable .cpa 71, .portDrainDone 71, .loopWrite .cpa 71 3, .planeFault 1 15 17,
    .planeTakeOut .cpa 1, .planeReturn .cpa 1, .regulationWindowBoundary 63, .brakeStateArrival 63 191, .tidConfigWrite .cpa 63 false 0,
    .stepWrite .cpa 63 65535, .preemptWrite .cpa 63, .snapshotGo .cpa 63 false, .handleInstall .cpa 511 false false, .handleModify .cpa 511,
    .handleRetire .cpa 511, .handleClear .cpa 511, .handleRead .cpa 511, .raPush .cpa 3, .oprecNop 3, .oprecZero 3, .oprecFill 3, .oprecCopy 3,
    .oprecKernel 3, .recordChunkAdmission 3, .reduceSegmentWrite 3, .recordComplete 3, .queueEnable .cpa 3, .queueDisable .cpa 3, .queueDrainDone 3,
    .qcplRead .cpa 3, .kernelLoad .cpa 7 15, .kiNop 7 15] : List Instr).all (fun i => i.wf) = true := by decide +kernel
theorem test_operands_taken_9 : ([
    .kiLda 7 15, .kiLdb 7 15, .kiSt 7 15, .kiAdd 7 15, .kiMul 7 15, .kiFma 7 15, .kiMin 7 15, .kiMax 7 15, .kiClip 7 15, .kiCvt 7 15, .kiRsum 7 15,
    .kiRmax 7 15, .subNop 15 4294967295 4294967295 4294967295 4294967295, .subPost 15 4294967295 4294967295 4294967295 4294967295,
    .subCplack 15 4294967295 4294967295 4294967295 4294967295, .subScrub .cpa 15 4294967295 4294967295 4294967295 4294967295,
    .channelPostWrite .cpa 15 0, .cridxConsWrite .cpa 15 65535, .descriptorFetch 15, .descNop 15, .descCopy 15, .descFill 15, .descReduce 15,
    .descGather 15, .descScatter 15, .descScrub 15, .descPostrec 15, .descDispatch 15, .descReturn 15, .descCombine 15, .moverIssue 3,
    .moverChunkAdmission 15, .routerAppend 15, .creditWaitTimeout 15, .descriptorComplete 15, .creditClear .cpa 63, .sqNop 71 sqw0, .sqAdd 71 sqw0,
    .sqSub 71 sqw0, .sqSet 71 sqw0, .sqWatch 71 sqw0, .sqUnwatch 71 sqw0, .sqRead 71 sqw0, .sqArrive 71 sqw0, .sqReleaseEffect 71, .swTransfer 71,
    .ctrCmdAdd .cpa 383 65535, .ctrCmdSub .cpa 383 65535, .ctrCmdSet .cpa 383 65535, .tagCmdSetFull .cpa 255 16383, .tagCmdSetEmpty .cpa 255 16383,
    .barrive .cpa 63 4095, .barrierEnable .cpa 63 0, .barrierDisable .cpa 63 0, .barrierReset .cpa 63, .ringEnable .cpa 255 0, .ringDisable .cpa 255 0,
    .slotFill 71 63, .slotEmpty 71 63, .slotTimeout 71 63] : List Instr).all (fun i => i.wf) = true := by decide +kernel
theorem test_operands_taken_10 : ([
    .parkRetryProbe 71 63, .sectionSwitch .cpa 255, .cbIdle 3, .cbLink 3, .cbRetry 3, .cbLaneDrop 3, .cbLaneSwitch 3, .cbInit 3,
    .codewordReceived 3 false [], .pktBwr 4, .pktTwr 4, .pktNtfy 4, .pktBarr 4, .pktBrel 4, .pktBabt 4, .pktLack 4, .pktNak 4, .pktCgrant 4, .pktTsreq 4,
    .pktTsrsp 4, .retryRepeat 3, .linkSilenceTimeout 3, .laneLoss 3 7 false, .serInterval 3, .laneRelock 3, .linkPortEnable .cpa 3 0,
    .linkPortDisable .cpa 3 0, .linkDrainDone 3, .linkTrainDone 3 255 255, .linkAlignDone 3 false, .retrain .cpa 3, .fwdWrite .cpa 63 0,
    .chainClear 4294967295, .chainEnum 4294967295, .chainDone 4294967295, .lackSend 63, .windowOpen .cpa 255, .windowClose .cpa 255,
    .windowCloseDone 255, .cchEnable .cpa 63 0, .cchDisable .cpa 63 0, .cchDrainDone 63, .creditReturn 63, .notifyEffect 63, .fenceTimeout 63,
    .sentClr .cpa 63 255, .rimHardFault 7 16 15, .rimCmdRetire .cpa 7 15, .rimCmdEvacuate .cpa 7 15, .scrubGo .cpa false 63 15, .flipArm .cpa 7 15 15,
    .spokeResume 7 3, .domCmdOn .cpa 255, .domCmdOff .cpa 255, .domainOnDone 255, .targetOn .cpa 7 16 255, .targetFreewheel .cpa 7 16 255,
    .targetOff .cpa 7 16 255, .rimDrainEnd 7 16, .drainLimitExpiry 7 16] : List Instr).all (fun i => i.wf) = true := by decide +kernel
theorem test_operands_taken_11 : ([
    .rimStateReached 7 16, .rimIdleExpiry 7 16, .cadenceBoundary 65535 65535, .ringMonitorReport 32 65535, .thermalReport 31 4095, .fabricPiece [fp0],
    .registerWrite .cpa 2097151 0, .irqForce .cpa 2097151 4294967295, .semaClaim .cpa 31, .semaRelease .cpa 31, .semaForce .cpa 31, .emLoadDone 1,
    .wdtKick .cpa 1, .watchdogExpiry 1, .emRestart .cpa 1, .reqProdWrite .cpa 1 255, .rspConsWrite .cpa 1 255, .echo 1, .info 1, .em1Echo 1, .em1Info 1,
    .lifeInfo 1, .lifeFlush 1, .lifeRead 1, .lifeLoad 1, .lifeCommit 1, .ftRim 1, .ftPlane 1, .ftLink 1, .ftSync 1, .ftAbort 1, .ftResult 1,
    .ftCmdRim .cpa 7 15, .ftCmdPlane .cpa 1, .ftCmdLink .cpa 3 3, .ftPatternsDone false 15 15 16383 4294967295, .fieldTestDone false 4294967295,
    .rcSwtrig .cpa 65535 31, .lcAdvance .cpa 65535, .lcRetireDevice .cpa 65535, .crossingBringup 7 false [], .bootSelfTest bf0,
    .sectorPeripheryFault 7 3 15, .syncPlaneFault 15, .portAdapterFault 71, .moverEngineFault 3, .ceThresholdCrossed 7 16,
    .readRequest 71 { rq 15 with form := 3, handle := 511, gen := 255, addr := 2 ^ 36 - 1, lenM1 := 63, tid := 63, tag := 63, mcast := 255, lens := 15, aop := 15, accf := 3, gate := 2 ^ 32 - 1 },
    .sqNop 71 { sqw0 with op := 15, widx := 3, resv := 2 ^ 33 - 1, id := 63, value := 65535 },
    .bootSelfTest { bf0 with planes := [1], rims := [(7, 16)], ports := [71], links := [3] },
    .crossingBringup 7 false [{ lf0 with spoke := 31, group := 47 }],
    .fabricPiece [{ fp0 with off := 2 ^ 21 - 1, page := 2 ^ 21 - 1, n := 4, data := [0, 0, 0, 2 ^ 32 - 1], left := 15 }],
    .codewordReceived 3 true (List.replicate 8 (2 ^ 5440 - 1))] : List Instr).all (fun i => i.wf) = true := by decide +kernel

/-! ### What the witnesses lean on -/

/-- A pair whose first component is known, an option that is not none, an element of a list, and a claim about none. -/
theorem pair_eq {α β : Type} (p : α × β) (a : α) (h : p.1 = a) : p = (a, p.2) := by subst h; rfl
theorem some_getD {α : Type} (o : Option α) (d : α) (h : o.isSome = true) : o = some (o.getD d) := by
  cases o <;> simp_all
theorem mem_getD {α : Type} (l : List α) (k : Nat) (d : α) (h : k < l.length) : l.getD k d ∈ l := by
  simp [List.getD, List.getElem?_eq_getElem h]
theorem all_nil {α : Type} {P : α → Prop} {l : List α} (h : l.isEmpty = true) : ∀ a ∈ l, P a := by
  cases l <;> simp_all
/-- Of a word of zeros the sums of the decoder are 0, and it is a codeword. -/
theorem gfMul_zero (a : Nat) : gfMul 0 a = 0 := by
  have h : ∀ l : List Nat, l.foldl (fun c k => gfX c ^^^ if bit a (9 - k) then 0 else 0) 0 = 0 := by
    intro l; induction l with
    | nil => rfl
    | cons k l ih => simpa [gfX] using ih
  exact h _
theorem fold_zeros (a n : Nat) (t : List Nat) :
    (List.replicate n 0 ++ t).foldl (fun v c => gfMul v a ^^^ c) 0 = t.foldl (fun v c => gfMul v a ^^^ c) 0 := by
  induction n with
  | zero => rfl
  | succ n ih => simpa [List.replicate_succ, gfMul_zero] using ih
theorem syndromes_zeros (n : Nat) (t : List Nat) : rsSyndromes (List.replicate n 0 ++ t) = rsSyndromes t := by
  simp only [rsSyndromes, fold_zeros]
theorem decode_zeros (n : Nat) : rsDecode (List.replicate n 0) = some (List.replicate n 0, []) := by
  have h : rsSyndromes (List.replicate n 0) = rsSyndromes [] := by simpa only [List.append_nil] using syndromes_zeros n []
  have z : (rsSyndromes []).all (· == 0) = true := by decide +kernel
  simp only [rsDecode, h, z, if_true]
theorem word_zeros (s : State) (p : Nat) : wordIn s p [] = List.replicate 544 0 := by
  have z : ∀ n i, ((List.range n).map fun j => ([] : List Nat).getD j 0).getD i 0 = 0 := by
    intro n i; simp [List.getD, List.getElem?_map] <;> (cases (List.range n)[i]? <;> rfl)
  have g : ∀ (l : List Nat) m, (∀ i, l.getD i 0 = 0) →
      (List.range m).map (fun i => l.getD (i % l.length) 0 / 1024 ^ (i / l.length) % 1024) = List.replicate m 0 := by
    intro l m h; simp only [h, Nat.zero_div, Nat.zero_mod, List.map_const', List.length_range]
  rw [wordIn, gather, g _ _ (z _)]
theorem decode_uncorrectable (n : Nat) (t : List Nat) (h : (rsSyndromes t).all (· == 0) = false) (l : 15 < (rsLocator (rsSyndromes t)).2) :
    rsDecode (List.replicate n 0 ++ t) = none := by
  simp only [rsDecode, syndromes_zeros, h, l, true_or, if_true, Bool.false_eq_true, if_false]
/-- The image img0 is valid: its CRC is that of its zeros. -/
theorem crc_lt (x n : Nat) : crc32c x n < 2 ^ 32 := by
  have f : ∀ (l : List Nat) c, c < 2 ^ 32 → l.foldl (fun c _ => if c % 2 = 1 then (c >>> 1) ^^^ 0x82F63B78 else c >>> 1) c < 2 ^ 32 := by
    intro l; induction l with
    | nil => exact fun c h => h
    | cons a l ih =>
      intro c h
      refine ih _ ?_
      have : c >>> 1 < 2 ^ 32 := by rw [Nat.shiftRight_eq_div_pow]; omega
      dsimp only
      split
      · exact Nat.xor_lt_two_pow this (by decide)
      · exact this
  have g : ∀ (n x c : Nat), c < 2 ^ 32 → crcBytes c x n < 2 ^ 32 := by
    intro n; induction n with
    | zero => exact fun x c h => h
    | succ n ih => exact fun x c h => ih _ _ (f _ _ (Nat.xor_lt_two_pow h (by omega)))
  exact Nat.xor_lt_two_pow (g _ _ _ (by decide)) (by decide)
theorem readN_zeros (m : List Host.Cell) (n : Nat) : ∀ a, (∀ b, a ≤ b → Mem.read m b = 0) → Mem.readN m a n = 0 := by
  induction n with
  | zero => intro a _; rfl
  | succ n ih => intro a h; simp [Mem.readN, h a (Nat.le_refl a), ih (a + 1) fun b e => h b (by omega)]
theorem img_crc (k : Nat) (h : k < 2 ^ 32) : imgGet (imgPut imgEmpty 0x3C 4 k) 0x3C 4 = k ∧ (∀ n, imgGet (imgPut imgEmpty 0x3C 4 k) 0x40 n = 0) ∧
    (imgGet (imgPut imgEmpty 0x3C 4 k) 0 4 == 0x4546494C && imgGet (imgPut imgEmpty 0x3C 4 k) 6 2 == 1) = true := by
  have w : Mem.wf imgEmpty = true := by decide +kernel
  have out : ∀ b, b < 0x3C ∨ 0x40 ≤ b → Mem.read (imgPut imgEmpty 0x3C 4 k) b = Mem.read imgEmpty b := fun b e => by
    rw [imgPut, Mem.read_writeN_outside _ _ _ _ _ w (by omega)]
  have o : ∀ n a, a + n ≤ 0x3C → imgGet (imgPut imgEmpty 0x3C 4 k) a n = imgGet imgEmpty a n := by
    intro n; induction n with
    | zero => exact fun a _ => rfl
    | succ n ih =>
      intro a h
      have q := ih (a + 1) (by omega)
      rw [imgGet, imgGet] at q
      rw [imgGet, imgGet, Mem.readN, Mem.readN, q, out a (by omega)]
  refine ⟨?_, fun n => readN_zeros _ _ _ fun b e => ?_, ?_⟩
  · rw [imgGet, imgPut, Mem.readN_writeN _ _ _ _ w]
    exact Nat.mod_eq_of_lt h
  · have e' : ∀ k : Nat, k < 64 → ¬ b = k ∧ ¬ b < k := fun k _ => by omega
    rw [out b (by omega), show imgEmpty = [(0, 0x4c), (1, 0x49), (2, 0x46), (3, 0x45), (6, 1)] by decide +kernel]
    simp [Mem.read, Sp.get, e']
  · rw [o 4 0 (by decide), o 2 6 (by decide)]
    decide +kernel
theorem img0_valid : imgValid img0 = true := by
  obtain ⟨c, r, z⟩ := img_crc _ (crc_lt 0 (imgSize - 0x40))
  have e : img0 = imgPut imgEmpty 0x3C 4 (crc32c 0 (imgSize - 0x40)) := by unfold img0; rfl
  rw [← e] at c r z
  rw [imgValid, r, c, z, beq_self_eq_true, Bool.and_self]
theorem best_of (s : State) (h : s.life.store = [(2, []), (5, img0)]) : bestSlot s = some (5, img0) := by
  have z : imgValid [] = false := by decide +kernel
  simp [bestSlot, h, img0_valid, z]
theorem valid_of (m : List Host.Cell) (h : m = img0) : imgValid m = true := h ▸ img0_valid

/-! ### Checks -/

/-- The published check values, each over the bytes of "123456789": CRC-32C (R219, R443), the CRC-16 of R388, the CRC-8 of R406. -/
theorem test_crcs : crc32c 0x393837363534333231 9 = 0xE3069283 ∧ crcHigh 16 0x1021 0xFFFF 0x313233343536373839 72 = 0x29B1 ∧
    crcHigh 8 0x07 0 0x313233343536373839 72 = 0xF4 := by decide +kernel

/-! ### Witnesses: `wit_<statement>` holds the hypotheses of its clauses, in order, each at one or two states

Where a clause ranges over the rows of a table of commands, the row is taken from the table by its number, which is shown to lie in it;
`wit_rows` shows the rows that are written out. -/

theorem wit_rows :
    (let k := 0; let c := Instr.oprecNop; (k, c) ∈ recordKinds) ∧
    (let k := 1; let c := Instr.oprecZero; (k, c) ∈ recordKinds) ∧
    (let opc := 4; let cmd := (laneOps[0]).2.1; let f := (laneOps[0]).2.2; (opc, cmd, f) ∈ laneOps) ∧
    (let opc := 9; let cmd := (laneOps[5]).2.1; let f := (laneOps[5]).2.2; (opc, cmd, f) ∈ laneOps) ∧
    (let o := RaRec.opA; let cmd := Instr.kiLda; let opc := 1; (cmd, opc, o) ∈ [(Instr.kiLda, 1, RaRec.opA), (Instr.kiLdb, 2, RaRec.opB)]) ∧
    (let o := RaRec.opB; let cmd := Instr.kiLdb; let opc := 2; (cmd, opc, o) ∈ [(Instr.kiLda, 1, RaRec.opA), (Instr.kiLdb, 2, RaRec.opB)]) ∧
    (let c := Instr.copClean; let op := 2; (c, op) ∈ [(Instr.copClean, 2), (.copCleanInv, 3)]) ∧
    (let c := Instr.copCleanInv; let op := 3; (c, op) ∈ [(Instr.copClean, 2), (.copCleanInv, 3)]) ∧
    (let op := 2; let after := ((fun l => [{ l with dirty := false }]) : CLine → List CLine); let l : CLine := ⟨0,true⟩; (op, after) ∈ [(2, fun (l : CLine) => [{ l with dirty := false }]), (3, fun _ => [])]) ∧
    (let op := 3; let after := ((fun _ => []) : CLine → List CLine); let l : CLine := ⟨0,true⟩; (op, after) ∈ [(2, fun (l : CLine) => [{ l with dirty := false }]), (3, fun _ => [])]) ∧
    (let c := Instr.copInv; c ∈ [Instr.copInv, .copClean, .copCleanInv]) ∧
    (let c := Instr.copCleanInv; c ∈ [Instr.copInv, .copClean, .copCleanInv]) ∧
    (let op := 0; let f := Instr.descNop; (op, f) ∈ descStarts) ∧
    (let k := 0; let f := Instr.cbIdle; (k, f) ∈ cbCommands) ∧
    (let k := 5; let f := Instr.cbInit; (k, f) ∈ cbCommands) ∧
    (let ty := 1; let f := Instr.pktBwr; (ty, f) ∈ packetKinds) ∧
    (let ty := 13; let f := Instr.pktTsrsp; (ty, f) ∈ packetKinds) ∧
    (let ty := 3; let f := Instr.pktNtfy; (ty, f) ∈ packetKinds) := by
  simp [cbCommands, descStarts, laneOps, packetKinds, recordKinds]

theorem wit_RequestIsQueued :
    (let f := (portRequests.getD 0 (Instr.readRequest, id)).2
     let s : State := live1 (en up 0)
     let x : Nat := 0
     let r : Request := { rq 0 with lenM1 := 3, beats := 1, tag := 31 }
     0 < portRequests.length ∧ reqTaken s x (f r) = true ∧ portState s x = 2 ∧ parked s = false ∧ dataFits s x (f r) = true) ∧
    (let f := (portRequests.getD 14 (Instr.readRequest, id)).2
     let s : State := live1 (en up 8)
     let x : Nat := 8
     let r : Request := { rq 5 with tid := 63, form := 0, handle := 1, gen := 1, lenM1 := 3, beats := 1, tag := 31, data := 5 }
     14 < portRequests.length ∧ reqTaken s x (f r) = true ∧ portState s x = 2 ∧ parked s = false ∧ dataFits s x (f r) = true) := by
  refine ⟨?_, ?_⟩ <;> decide +kernel

theorem wit_PortControlWrites :
    (let s : State := (own 4).put (portBase 71) PORT_PSTAT_STATE 1
     let m : Master := .cpa
     let x : Nat := 71
     mayWrite s m (portBase x) PORT_PCTL true = true ∧ portState s x = 1) ∧
    (let s : State := ((own 1).put (portBase 0) PORT_PSTAT_STATE 1).put (portBase 0) PORT_PCTL_LOOP 2
     let m : Master := .cpa
     let x : Nat := 0
     mayWrite s m (portBase x) PORT_PCTL true = true ∧ portState s x = 1) ∧
    (let s : State := en (own 3) 55
     let m : Master := .cpa
     let x : Nat := 55
     x < 56 ∧ mayWrite s m (portBase x) PORT_PCTL true = true ∧ (portState s x = 2 ∨ portState s x = 4)) ∧
    (let s : State := (own 3).put (portBase 55) PORT_PSTAT_STATE 1
     let m : Master := .cpa
     let x : Nat := 55
     x < 56 ∧ mayWrite s m (portBase x) PORT_PCTL true = true ∧ portState s x = 1) ∧
    (let s : State := en (own 3) 55
     let m : Master := .cpa
     let x : Nat := 55
     x < 56 ∧ mayWrite s m (portBase x) PORT_PCTL true = true ∧ portState s x ≠ 1) ∧
    (let s : State := en (own 4) 71
     let m : Master := .cpa
     let x : Nat := 71
     56 ≤ x ∧ mayWrite s m (portBase x) PORT_PCTL true = true) ∧
    (let s : State := en (own 3) 55
     let m : Master := .cpa
     let x : Nat := 55
     mayWrite s m (portBase x) PORT_PCTL true = true ∧ portKind x = 2 ∧ (portOf s x).urgIn < 8) ∧
    (let s : State := ((own 3).port 24 fun p => { p with urgIn := 7 })
     let m : Master := .cpa
     let x : Nat := 24
     mayWrite s m (portBase x) PORT_PCTL true = true ∧ portKind x = 2 ∧ (portOf s x).urgIn < 8) ∧
    (let s : State := ((own 1).port 23 fun p => { p with scale := [⟨1,1,1,[]⟩] })
     let m : Master := .cpb
     let x : Nat := 23
     mayWrite s m (portBase x) PORT_LENS_CTL false = true ∧ portKind x < 2) ∧
    (let s : State := { own 11 with engScale := [(3, [⟨1,1,1,[]⟩])] }
     let m : Master := .cpb
     let e : Nat := 3
     mayWrite s m pgMOVER (MOVER_ENG_CTL + 32 * e) false = true) := by
  refine ⟨?_, ?_, ?_, ?_, ?_, ?_, ?_, ?_, ?_, ?_⟩ <;> decide +kernel

theorem wit_PortPipelineSteps :
    (let s : State := (live1 (en up 0)).port 0 fun p => { p with queue := [0], txns := [tx] }
     let x : Nat := 0
     let tag : Nat := 0
     let rest : List Nat := []
     let u : Txn := tx
     (portOf s x).queue = tag :: rest ∧ tag ∉ rest ∧ txnOf s x tag = some u ∧ (portOf s x).split = none ∧ (portOf s x).await = [] ∧ u.req.slot = false) ∧
    (let r : Request := { rq 0 with form := 0, handle := 1, seg := false }
     let s : State := (live1 (en up 23)).port 23 fun p => { p with queue := [0,1], txns := [{ tx with req := r }] }
     let x : Nat := 23
     let tag : Nat := 0
     let rest : List Nat := [1]
     let u : Txn := { tx with req := r }
     (portOf s x).queue = tag :: rest ∧ tag ∉ rest ∧ txnOf s x tag = some u ∧ (portOf s x).split = none ∧ (portOf s x).await = [] ∧ u.req.slot = false) ∧
    (let s : State := (en up 0).port 0 fun p => { p with ready := [ln], txns := [tx] }
     let x : Nat := 0
     let l : Lane := ln
     portState s x ≠ 0 ∧ (portOf s x).broken = false ∧ (portOf s x).hold = [] ∧ (portOf s x).ready.find? (sendable s x) = some l ∧ l.mc = false) ∧
    (let s : State := { ((en up 0).port 0 fun p => { p with hold := [bk] }) with pcNow := 10^6 }
     let x : Nat := 0
     let b : BackLine := bk
     let rest : List BackLine := []
     (portOf s x).hold = b :: rest ∧ b.since + 4 * s.get (portBase x) PORT_PCTL_MC_HOLD ≤ s.pcNow) ∧
    (let s : State := { (((en up 7).port 7 fun p => { p with hold := [bk,bk] }).put (portBase 7) PORT_MC_DROP_COUNT (2^32-1)) with pcNow := 10^6 }
     let x : Nat := 7
     let b : BackLine := bk
     let rest : List BackLine := [bk]
     (portOf s x).hold = b :: rest ∧ b.since + 4 * s.get (portBase x) PORT_PCTL_MC_HOLD ≤ s.pcNow) ∧
    (let s := (en up 0).port 0 fun p => { p with back := [bk], txns := [tx] }
     let q := (convertBack s bk).getD (0,0,none,0,0)
     let x : Nat := 0
     let st : Nat := q.1
     let pm : Nat := q.2.1
     let sat : Nat := q.2.2.2.1
     let nan : Nat := q.2.2.2.2
     let data : Option (Nat × Nat) := q.2.2.1
     let b : BackLine := bk
     let u : Txn := tx
     (portOf s x).back.find? (fun b => (convertBack s b).isSome) = some b ∧ txnOf s x b.tag = some u ∧ convertBack s b = some (st, pm, data, sat, nan)) ∧
    (let x : Nat := 55
     let urg : Nat := 7
     portKind x = 2 ∧ urg ≤ 7) ∧
    (let s : State := (en up 0).put (portBase 0) PORT_PSTAT_STATE 3
     let x : Nat := 0
     portState s x = 3 ∧ (portOf s x).txns.any (fun u => decide (u.acc < (portOf s x).drainMark)) = false ∧ moverQuiet s x = true ∧
     (portOf s x).held = false ∧ (portOf s x).sqHeld = [] ∧ s.sync.watchOrd = [] ∧ s.sync.waiters = []) ∧
    (let s : State := (en up 71).put (portBase 71) PORT_PSTAT_STATE 3
     let x : Nat := 71
     portState s x = 3 ∧ (portOf s x).txns.any (fun u => decide (u.acc < (portOf s x).drainMark)) = false ∧ moverQuiet s x = true ∧
     (portOf s x).held = false ∧ (portOf s x).sqHeld = [] ∧ s.sync.watchOrd = [] ∧ s.sync.waiters = []) := by
  refine ⟨?_, ?_, ?_, ?_, ?_, ?_, ?_, ?_, ?_⟩ <;> decide +kernel

theorem wit_AdapterRefuses :
    (let f := (portRequests.getD 0 (Instr.readRequest, id)).2
     let s : State := (up.put (portBase 0) PORT_PSTAT_STATE 1)
     let x : Nat := 0
     let r : Request := { rq 0 with lenM1 := 3, beats := 1, tag := 31 }
     0 < portRequests.length ∧ reqTaken s x (f r) = true ∧ (parked s = true ∨ portState s x ≠ 2 ∧ portState s x ≠ 4)) ∧
    (let f := (portRequests.getD 14 (Instr.readRequest, id)).2
     let s : State := (en up 8).put pgHUB HUB_PLANE_STAT_MODE 3
     let x : Nat := 8
     let r : Request := { rq 0 with lenM1 := 3, beats := 1, tag := 31 }
     14 < portRequests.length ∧ reqTaken s x (f r) = true ∧ (parked s = true ∨ portState s x ≠ 2 ∧ portState s x ≠ 4)) := by
  refine ⟨?_, ?_⟩ <;> decide +kernel

theorem wit_HubPipelineSteps :
    (let s : State := (en up 0).port 0 fun p => { p with split := some ⟨0, 0, false⟩, txns := [{ tx with atHub := true }] }
     let x : Nat := 0
     let k : Nat := 0
     let tag : Nat := 0
     let u : Txn := { tx with atHub := true }
     s.cache.jobs = [] ∧ (portOf s x).fetches.find? (fun f => !f.sent) = none ∧ (portOf s x).split = some ⟨tag, k, false⟩ ∧ txnOf s x tag = some u ∧
     loopDepth s x ≠ 2 ∧ rimRefusal s (lineAccess s x u k).layer (lineAccess s x u k).rim (lineAccess s x u k).policy = none ∧ u.req.form ≠ 3 ∧
     (u.req.op ≠ 0 ∨ returnUsed s x + readBytes u ≤ returnSize x) ∧ poolRoom s (lineAccess s x u k) = true) ∧
    (let u : Txn := { tx with atHub := true, req := { rq 1 with seg := false, lenM1 := 3, tag := 63 }, toGo := [0,1,2,3] }
     let s : State := (en up 0).port 0 fun p => { p with split := some ⟨63, 2, false⟩, txns := [u] }
     let x : Nat := 0
     let k : Nat := 2
     let tag : Nat := 63
     s.cache.jobs = [] ∧ (portOf s x).fetches.find? (fun f => !f.sent) = none ∧ (portOf s x).split = some ⟨tag, k, false⟩ ∧ txnOf s x tag = some u ∧
     loopDepth s x ≠ 2 ∧ rimRefusal s (lineAccess s x u k).layer (lineAccess s x u k).rim (lineAccess s x u k).policy = none ∧ u.req.form ≠ 3 ∧
     (u.req.op ≠ 0 ∨ returnUsed s x + readBytes u ≤ returnSize x) ∧ poolRoom s (lineAccess s x u k) = true) ∧
    (let s : State := fl (ac .pool)
     let layer : Nat := 0
     let sector : Nat := 0
     let a : Access := ac .pool
     sector < 4 ∧ poolOf s (4 * layer + sector) = [a] ∧ rimRefusal s a.layer a.rim a.policy = none ∧ rimWaits s a.layer a.rim = false ∧
     s.hub.paused = false ∧ spokeUp s (4 * layer + sector) = true ∧ heldBack s a = false ∧ stopped s (arbUp (4 * layer + sector)) a = false ∧
     roomIn s (arbRim a.layer a.rim) 48 32 (rimPlaces s a.layer a.rim) a = true) ∧
    (let s : State := fl (ac .out)
     let layer : Nat := 0
     let sector : Nat := 0
     let a : Access := ac .out
     sector < 4 ∧ spokeUp s (4 * layer + sector) = true ∧ (inLoc s .out).filter (fun b => b.sector == 4 * layer + sector) = [a] ∧
     stopped s (arbDown (4 * layer + sector)) a = false) ∧
    (let s : State := fl (ac .merge)
     let a : Access := ac .merge
     s.hub.flight.find? (fun b => b.seq == a.seq && b.loc == .merge) = some a ∧
     (s.hub.flight.any fun b => b.obs == a.obs && decide (b.seq < a.seq) && common a b) = false ∧ a.unitSrc = true) ∧
    (let a : Access := { ac .merge with op := .read, seq := 9 }
     let b : Access := { ac .rim with seq := 11 }
     let s : State := up.setFlight [b,a]
     s.hub.flight.find? (fun b => b.seq == a.seq && b.loc == .merge) = some a ∧
     (s.hub.flight.any fun b => b.obs == a.obs && decide (b.seq < a.seq) && common a b) = false ∧ a.unitSrc = true) := by
  refine ⟨?_, ?_, ?_, ?_, ?_, ?_⟩ <;> decide +kernel

theorem wit_RimGrantsOneWrite :
    (let s : State := fl (ac .rim)
     let layer : Nat := 0
     let rim : Nat := 0
     let a : Access := ac .rim
     onlyAt s layer rim a ∧ (rimOf s layer (physOf s layer rim)).half = none ∧ a.op = .write ∧ a.pmask = 0 ∧ (∀ x ∈ a.segs, x.mask = fullMask)) ∧
    (let b : Access := { ac .rim with seq := 3, frame := 5 }
     let a : Access := { ac .rim with frame := 15, seq := 1 }
     let s : State := up.setFlight [b,a]
     let layer : Nat := 0
     let rim : Nat := 15
     onlyAt s layer rim a ∧ (rimOf s layer (physOf s layer rim)).half = none ∧ a.op = .write ∧ a.pmask = 0 ∧ (∀ x ∈ a.segs, x.mask = fullMask)) ∧
    (let a : Access := { ac .rim with op := .read }
     let s : State := fl a
     let layer : Nat := 0
     let rim : Nat := 0
     onlyAt s layer rim a ∧ (rimOf s layer (physOf s layer rim)).half = none ∧ a.op = .read ∧
     roomIn s (arbRim layer rim) 8 4 (outStage s layer rim) a = true) ∧
    (let a : Access := { ac .rim with op := .acc 0 }
     let s : State := fl a
     let layer : Nat := 0
     let rim : Nat := 0
     onlyAt s layer rim a ∧ (rimOf s layer (physOf s layer rim)).half = none ∧ a.rmw s = true ∧ (rimOf s layer (physOf s layer rim)).norm = false) ∧
    (let a : Access := { ac .rim with op := .atomic 6 false 0 1 2 }
     let s : State := fl a
     let layer : Nat := 0
     let rim : Nat := 0
     onlyAt s layer rim a ∧ (rimOf s layer (physOf s layer rim)).half = none ∧ a.rmw s = true ∧ (rimOf s layer (physOf s layer rim)).norm = false) ∧
    (let a : Access := { ac .half with op := .acc 0 }
     let h : RmwHalf := ⟨0, 0, [(0, 0, 5)], [0], 0, .mover 0 0⟩
     let s : State := (fl a).rim 0 0 fun r => { r with half := some h }
     let layer : Nat := 0
     let rim : Nat := 0
     rimReady s layer rim ∧ rimEntries s layer rim = [] ∧ (rimOf s layer (physOf s layer rim)).half = some h ∧
     s.hub.flight.find? (fun b => b.seq == h.seq) = some a) := by
  unfold onlyAt rimReady
  refine ⟨?_, ?_, ?_, ?_, ?_, ?_⟩ <;> decide +kernel

theorem wit_PlaneChanges :
    (let s : State := fl { ac .rim with sent := true }
     let p : Nat := 1
     p < 2 ∧ planeState s p ≠ 3 ∧ planeState s p ≠ 2 ∧ planeState s (1 - p) < 2 ∧ parked s = false) ∧
    (let s : State := ((fl { ac .half with sent := true, op := .acc 0 }).put pgHUB HUB_PLANE_STAT_FO_CNT 255)
     let p : Nat := 0
     p < 2 ∧ planeState s p ≠ 3 ∧ planeState s p ≠ 2 ∧ planeState s (1 - p) < 2 ∧ parked s = false) ∧
    (let s : State := ((fl (ac .pool)).put pgHUB HUB_PLANE_STAT_A_STATE 3).hubf fun h => { h with paused := true }
     let p : Nat := 0
     p < 2 ∧ planeState s p = 3 ∧ planeState s (1 - p) ≠ 3 ∧ s.hub.paused = true ∧ s.hub.change = none ∧ parked s = false) ∧
    (let s : State := (own 5)
     let m : Master := .cpa
     let p : Nat := 1
     mayWrite s m pgHUB HUB_PLANE_CTL true = true ∧ p < 2 ∧ planeState s p = 0 ∧ planeState s (1 - p) = 0 ∧ s.hub.change = none ∧ s.hub.paused = false) ∧
    (let s : State := (own 5).put pgHUB HUB_PLANE_STAT_B_STATE 2
     let m : Master := .cpa
     let p : Nat := 1
     mayWrite s m pgHUB HUB_PLANE_CTL true = true ∧ p < 2 ∧ planeState s p = 2 ∧ s.hub.change = none ∧ s.hub.paused = false) ∧
    (let s : State := (own 5).hubf fun h => { h with change := some (0, true) }
     let m : Master := .cpa
     let p : Nat := 1
     mayWrite s m pgHUB HUB_PLANE_CTL true = true ∧ p < 2 ∧ planeState s p = 0 ∧ s.hub.change.isSome = true) ∧
    (let s : State := (fl (ac .pool)).hubf fun h => { h with change := some (1, true), paused := true }
     let p : Nat := 1
     let out : Bool := true
     s.hub.change = some (p, out) ∧ (∀ a ∈ s.hub.flight, a.sent = false)) ∧
    (let s : State := (fl (ac .pool)).hubf fun h => { h with change := some (0, false), paused := true }
     let p : Nat := 0
     let out : Bool := false
     s.hub.change = some (p, out) ∧ (∀ a ∈ s.hub.flight, a.sent = false)) := by
  refine ⟨?_, ?_, ?_, ?_, ?_, ?_, ?_, ?_⟩ <;> decide +kernel

theorem wit_RegulationCommands_1 :
    (let s : State := { ((up.put pgREGUL (REGUL_TSPENT_SPENT.at 16 63) 7).put pgREGUL (REGUL_TBUD_BUDGET.at 16 63) 5) with now := 10^9 }
     let t : Nat := 63
     t < 64 ∧ Sp.get 0 s.regul.lastWin t / windowTicks s t < s.now / windowTicks s t) ∧
    (let t : Nat := 63
     let arb : Nat := arbCount - 1
     t < 64 ∧ arb < arbCount) ∧
    (let s : State := own 6
     let m : Master := .cpa
     let t : Nat := 63
     mayWrite s m pgREGUL (REGUL_TBUD + 16 * (t % 64)) true = true ∧ regLocked s = false) ∧
    (let s : State := own 6
     let m : Master := .cpa
     let t : Nat := 0
     mayWrite s m pgREGUL (REGUL_TCFG + 16 * (t % 64)) true = true ∧ regLocked s = false) ∧
    (let s : State := own 6
     let m : Master := .cpa
     let t : Nat := 127
     mayWrite s m pgREGUL (REGUL_TCFG + 16 * (t % 64)) true = true ∧ regLocked s = false) ∧
    (let s : State := (own 6).put pgREGUL REGUL_REGUL_CTL_LOCKED 1
     let m : Master := .cpa
     let t : Nat := 0
     mayWrite s m pgREGUL (REGUL_TCFG + 16 * (t % 64)) true = true ∧ regLocked s = true) ∧
    (let s : State := own 6
     let m : Master := .cpa
     let t : Nat := 63
     mayWrite s m pgREGUL (REGUL_TSTEP + 16 * (t % 64)) true = true) := by
  refine ⟨?_, ?_, ?_, ?_, ?_, ?_, ?_⟩ <;> decide +kernel

theorem wit_RegulationCommands_2 :
    (let s : State := own 6
     let m : Master := .cpa
     mayWrite s m pgREGUL REGUL_PREEMPT true = true) ∧
    (let s : State := own 6
     let m : Master := .cpa
     mayWrite s m pgREGUL REGUL_SNAP_CTL false = true ∧ s.regul.snap = none) ∧
    (let s : State := { own 6 with regul := { ({} : RegulSt) with snap := some (0,0,0,{}) } }
     let m : Master := .cpa
     mayWrite s m pgREGUL REGUL_SNAP_CTL false = true ∧ s.regul.snap.isSome = true) ∧
    (let s : State := { (own 6).put pgREGUL REGUL_SNAP_CTL_BUSY 1 with regul := { ({} : RegulSt) with snap := some (0,0,0,{}) } }
     s.regul.snap.isSome = true) ∧
    (let s : State := { own 6 with regul := { ({} : RegulSt) with cnt := [(3, { ({} : TidCnt) with hist := [1] })] } }
     let m : Master := .cpa
     mayWrite s m pgREGUL REGUL_REGUL_CTL false = true ∧ regLocked s = false ∧ risingList (stagedEdges s) = true) ∧
    (let s : State := (own 6).put pgREGUL REGUL_HEDGE_EDGELO 0xFFFF
     let m : Master := .cpa
     mayWrite s m pgREGUL REGUL_REGUL_CTL false = true ∧ regLocked s = false ∧ risingList (stagedEdges s) = false) ∧
    (let s : State := own 6
     let m : Master := .cpa
     mayWrite s m pgREGUL REGUL_REGUL_CTL false = true) := by
  refine ⟨?_, ?_, ?_, ?_, ?_, ?_, ?_⟩ <;> decide +kernel

theorem wit_HandleCommandsStart_1 :
    (let s : State := staged
     let m : Master := .cpa
     let h : Nat := 511
     let ov : Bool := true
     let ic : Bool := true
     mayWrite s m pgHCMD HANDLE_CMD_HCMD true = true ∧ s.hcmd = none ∧ h < 512 ∧ hcmdCheck (s.hcmdFields (hcmdWord 1 h ov ic)) 1 h ov = hrOK) ∧
    (let s : State := staged
     let m : Master := .cpa
     let h : Nat := 1
     let ov : Bool := false
     let ic : Bool := false
     mayWrite s m pgHCMD HANDLE_CMD_HCMD true = true ∧ s.hcmd = none ∧ h < 512 ∧ hcmdCheck (s.hcmdFields (hcmdWord 1 h ov ic)) 1 h ov = hrOK) ∧
    (let s : State := ({ staged with handles := [(1, stagedDesc staged)] } : State).put pgHSTATE (HANDLE_STATE_HSTATE_STATE.at 4 1) 1
     let m : Master := .cpa
     let h : Nat := 1
     mayWrite s m pgHCMD HANDLE_CMD_HCMD true = true ∧ s.hcmd = none ∧ h < 512 ∧ hcmdCheck (s.hcmdFields (hcmdWord 2 h false false)) 2 h false = hrOK) ∧
    (let s : State := ((({ staged with handles := [(1, stagedDesc staged)] } : State).put pgHSTATE (HANDLE_STATE_HSTATE_STATE.at 4 1) 1).put pgHCMD HANDLE_CMD_SDESC0_POWER 1)
     let m : Master := .cpa
     let h : Nat := 1
     mayWrite s m pgHCMD HANDLE_CMD_HCMD true = true ∧ s.hcmd = none ∧ h < 512 ∧ hcmdCheck (s.hcmdFields (hcmdWord 2 h false false)) 2 h false = hrOK) ∧
    (let s : State := ({ staged with handles := [(1, stagedDesc staged)] } : State).put pgHSTATE (HANDLE_STATE_HSTATE_STATE.at 4 1) 1
     let m : Master := .cpa
     let h : Nat := 1
     mayWrite s m pgHCMD HANDLE_CMD_HCMD true = true ∧ s.hcmd = none ∧ h < 512 ∧ hcmdCheck (s.hcmdFields (hcmdWord 3 h false false)) 3 h false = hrOK) ∧
    (let s : State := ({ staged with handles := [(1, stagedDesc staged)] } : State).put pgHSTATE (HANDLE_STATE_HSTATE_STATE.at 4 1) 1
     let m : Master := .cpa
     let h : Nat := 1
     mayWrite s m pgHCMD HANDLE_CMD_HCMD true = true ∧ s.hcmd = none ∧ h < 512 ∧ hcmdCheck (s.hcmdFields (hcmdWord 4 h false false)) 4 h false = hrOK) := by
  refine ⟨?_, ?_, ?_, ?_, ?_, ?_⟩ <;> decide +kernel

theorem wit_HandleCommandsStart_2 :
    (let s : State := ({ staged with handles := [(1, stagedDesc staged)] } : State).put pgHSTATE (HANDLE_STATE_HSTATE_STATE.at 4 1) 1
     let m : Master := .cpa
     let h : Nat := 1
     mayWrite s m pgHCMD HANDLE_CMD_HCMD true = true ∧ s.hcmd = none ∧ h < 512) ∧
    (let s : State := ({ staged with handles := [(1, stagedDesc staged)] } : State).put pgHSTATE (HANDLE_STATE_HSTATE_STATE.at 4 1) 1
     let m : Master := .cpa
     let h : Nat := 511
     mayWrite s m pgHCMD HANDLE_CMD_HCMD true = true ∧ s.hcmd = none ∧ h < 512) ∧
    (let s : State := staged
     let m : Master := .cpa
     let h : Nat := 0
     let ov : Bool := false
     let ic : Bool := true
     mayWrite s m pgHCMD HANDLE_CMD_HCMD true = true ∧ s.hcmd = none ∧ h < 512 ∧ hcmdCheck (s.hcmdFields (hcmdWord 1 h ov ic)) 1 h ov ≠ hrOK) ∧
    (let s : State := ({ staged with handles := [(1, stagedDesc staged)] } : State).put pgHSTATE (HANDLE_STATE_HSTATE_STATE.at 4 1) 1
     let m : Master := .cpa
     let h : Nat := 2
     let ov : Bool := true
     let ic : Bool := true
     mayWrite s m pgHCMD HANDLE_CMD_HCMD true = true ∧ s.hcmd = none ∧ h < 512 ∧ hcmdCheck (s.hcmdFields (hcmdWord 1 h ov ic)) 1 h ov ≠ hrOK) ∧
    (let s : State := { staged with hcmd := some (hc 4 0) }
     let m : Master := .cpa
     mayWrite s m pgHCMD HANDLE_CMD_HCMD true = true ∧ s.hcmd.isSome = true) := by
  refine ⟨?_, ?_, ?_, ?_, ?_⟩ <;> decide +kernel

theorem wit_HandleCommandsEnd :
    (let s : State := { staged with hcmd := some (hc 1 0) }
     let c : HandleCmd := hc 1 0
     s.hcmd = some c ∧ c.op = 1 ∧ c.stage = 0) ∧
    (let s : State := { staged with hcmd := some (hc 1 1), array := { staged.array with clear := some ⟨(hc 1 1).desc.span, true, true, []⟩, validA := [0,40], validB := [0] } }
     let c : HandleCmd := hc 1 1
     let j : ClearJob := ⟨(hc 1 1).desc.span, true, true, []⟩
     s.hcmd = some c ∧ s.array.clear = some j ∧ c.op = 1 ∧ c.stage = 1 ∧ c.handle < 512) ∧
    (let s : State := ({ staged with hcmd := some (hc 1 1), array := { staged.array with clear := some ⟨(hc 1 1).desc.span, true, true, []⟩, validA := [0,40], validB := [0] } }).put pgHSTATE (HANDLE_STATE_HSTATE_GEN.at 4 5) 255
     let c : HandleCmd := hc 1 1
     let j : ClearJob := ⟨(hc 1 1).desc.span, true, true, []⟩
     s.hcmd = some c ∧ s.array.clear = some j ∧ c.op = 1 ∧ c.stage = 1 ∧ c.handle < 512) ∧
    (let s : State := { staged with hcmd := some (hc 4 0), handles := [(5, stagedDesc staged)], array := { staged.array with validA := [0,40,600], validB := [0] } }
     let c : HandleCmd := hc 4 0
     let d : Desc := stagedDesc staged
     s.hcmd = some c ∧ c.op = 4 ∧ descOf s c.handle = some d ∧ (∀ x ∈ d.rims, (rimOf s x.1 (physOf s x.1 x.2)).half = none)) ∧
    (let s : State := { staged with hcmd := some (hc 2 0), handles := [(5, stagedDesc staged)] }
     let c : HandleCmd := hc 2 0
     s.hcmd = some c ∧ c.op = 2 ∧ underHandle s c.handle c.before = false ∧ rimsSettled s c.desc = true) ∧
    (let s : State := { staged with hcmd := some (hc 3 0), handles := [(5, stagedDesc staged)] }
     let c : HandleCmd := hc 3 0
     s.hcmd = some c ∧ c.op = 3 ∧ underHandle s c.handle s.hub.accCtr = false ∧ c.handle < 512) := by
  refine ⟨?_, ?_, ?_, ?_, ?_, ?_⟩ <;> decide +kernel

theorem wit_OperationQueues :
    (let s : State := inQ up []
     let m : Master := .cpa
     let q : Nat := 3
     mayWrite s m pgRIMALU RIMALU_RA_PUSH false = true ∧ q < 4 ∧ raState s q = 1 ∧ (raqOf s q).recs.length < 16) ∧
    (let s : State := inQ up (List.replicate 15 (rec1 0))
     let m : Master := .cpa
     let q : Nat := 3
     mayWrite s m pgRIMALU RIMALU_RA_PUSH false = true ∧ q < 4 ∧ raState s q = 1 ∧ (raqOf s q).recs.length < 16) ∧
    (let s : State := inQ up (List.replicate 16 (rec1 0))
     let m : Master := .cpa
     let q : Nat := 3
     mayWrite s m pgRIMALU RIMALU_RA_PUSH false = true ∧ q < 4 ∧ 16 ≤ (raqOf s q).recs.length) ∧
    (let s : State := own 12
     let m : Master := .cpa
     let q : Nat := 3
     mayWrite s m pgRIMALU RIMALU_RA_CTL true = true ∧ q < 4 ∧ raState s q = 0) ∧
    (let s : State := { (own 12).put pgRIMALU (RIMALU_Q_STAT_STATE.at 32 3) 1 with raq := [(3,{ ({} : RaQueue) with recs := [{ rec1 1 with started := true }] })] }
     let m : Master := .cpa
     let q : Nat := 3
     mayWrite s m pgRIMALU RIMALU_RA_CTL true = true ∧ q < 4 ∧ raState s q = 1 ∧ (raqOf s q).recs.all (·.started) = true) ∧
    (let s : State := ((own 12).put pgRIMALU (RIMALU_Q_STAT_STATE.at 32 3) 2)
     let q : Nat := 3
     q < 4 ∧ raState s q = 2 ∧ (raqOf s q).recs.isEmpty = true) ∧
    (let s : State := ((own 12).put pgRIMALU (RIMALU_Q_STAT_STATE.at 32 0) 2).put pgRIMALU RIMALU_RA_CTL_QEN 1
     let q : Nat := 0
     q < 4 ∧ raState s q = 2 ∧ (raqOf s q).recs.isEmpty = true) ∧
    (let s : State := { inQ up [] with raq := [(3, { ({} : RaQueue) with cpl := [(10, 65535, some 7), (1,2,none)] })] }
     let m : Master := .cpb
     let q : Nat := 3
     let r : Nat := 10
     let k : Nat := 65535
     let f : Option Nat := some 7
     let l : List (Nat × Nat × Option Nat) := [(1,2,none)]
     q < 4 ∧ fabricOpen s m ⟨.rimalu, 0, pgRIMALU⟩ = true ∧ readPath s m ⟨.rimalu, 0, pgRIMALU⟩ = true ∧ raState s q = 1 ∧ (raqOf s q).cpl = (r, k, f) :: l) := by
  refine ⟨?_, ?_, ?_, ?_, ?_, ?_, ?_, ?_⟩ <;> decide +kernel

theorem wit_RecordsStart :
    (let k := 0
     let s : State := inQ up [{ rec1 0 with words := [0 * 2 ^ 28 + 2^23 + 48 * 2^14, 0, 0, 0, 0, 0, 0, 0] }]
     let q : Nat := 3
     let r : RaRec := { rec1 0 with words := [0 * 2 ^ 28 + 2^23 + 48 * 2^14, 0, 0, 0, 0, 0, 0, 0] }
     0 < recordKinds.length ∧ canStart s q k r ∧ recordCheck s r ≠ 0) ∧
    (let k := 0
     let s : State := inQ up [rec1 15]
     let q : Nat := 3
     let r : RaRec := rec1 15
     canStart s q k r ∧ recordCheck s r ≠ 0) ∧
    (let s : State := rtRec 0
     let q : Nat := 3
     let r : RaRec := rec1 0
     canStart s q 0 r ∧ recordCheck s r = 0 ∧ r.kind = 0) ∧
    (let k := 1
     let s : State := ((rtRec 1).put pgREGUL (REGUL_TCFG_CLASS.at 16 0) 3).put pgPOWER POWER_EMG_STAT_ACTIVE 1
     let q : Nat := 3
     let r : RaRec := rec1 1
     1 ≤ k ∧ canStart s q k r ∧ recordCheck s r = 0 ∧ firstAdmitted s q = false) ∧
    (let r := rec1 4
     let s : State := { (rtRec 4).put pgRIMALU RIMALU_KSLOT_STAT_VALID 1 with klen := [(0,1)] }
     let q : Nat := 3
     canStart s q 4 r ∧ recordCheck s r = 0 ∧ firstAdmitted s q = true ∧ r.stop = false ∧ r.fly = [] ∧ r.next = 0) ∧
    (let r := { rec1 4 with words := [4*2^28+0,0,0,0,0,999*4096,0,0] }
     let s : State := { (rtRec 4).put pgRIMALU RIMALU_KSLOT_STAT_VALID 1 with klen := [(0,1)], raq := [(3, { ({} : RaQueue) with recs := [r] })] }
     let q : Nat := 3
     canStart s q 4 r ∧ recordCheck s r = 0 ∧ firstAdmitted s q = true ∧ r.stop = false ∧ r.fly = [] ∧ r.next = 0) ∧
    (let S := recordSent (rtRec 1) 3
     let s : State := rtRec 1
     let q : Nat := 3
     let r : RaRec := rec1 1
     let u : RaRec := (raHead S 3).getD (rec1 1)
     let d : LineAt := walkLine S (rec1 1).opD 0
     canStart s q 1 r ∧ recordCheck s r = 0 ∧ firstAdmitted s q = true ∧ r.stop = false ∧ r.fly = [] ∧ r.steps = 1 ∧ r.next = 0 ∧ S = recordSent s q ∧
     raHead S q = some u ∧ d = walkLine S u.opD 0 ∧ (S.tryNew u.tid d.layer d.frame (u.pol S u.opD.handle)).1 = .go) ∧
    (let S := recordSent (rtRec 2) 3
     let u := (raHead S 3).getD (rec1 1)
     let d := walkLine S (rec1 1).opD 0
     let s : State := rtRec 2
     let v : State := (S.tryAcc (lineClaim S 3 0 u d .write (u.pol S u.opD.handle))).2
     let q : Nat := 3
     let r : RaRec := rec1 2
     canStart s q 2 r ∧ recordCheck s r = 0 ∧ firstAdmitted s q = true ∧ r.stop = false ∧ r.fly = [] ∧ r.steps = 1 ∧ r.next = 0 ∧ S = recordSent s q ∧
     raHead S q = some u ∧ d = walkLine S u.opD 0 ∧ S.tryAcc (lineClaim S q 0 u d .write (u.pol S u.opD.handle)) = (.go, v)) ∧
    (let r := { rec1 3 with words := [3*2^28, 0, 0, 16, 0, 0, 0, 0] }
     let s := { rtRec 3 with raq := [(3, { ({} : RaQueue) with recs := [r] })] }
     let S := recordSent s 3
     let u := (raHead S 3).getD (rec1 1)
     let d := walkLine S u.opD 0
     let v := (S.tryAcc (lineClaim S 3 0 u d .write (u.pol S u.opD.handle))).2
     let a := walkLine v u.opA 0
     let w := (v.tryAcc (lineClaim v 3 0 u a .read (u.pol v u.opA.handle))).2
     let z : State := (w.raRead u a).2.2
     let q : Nat := 3
     let data : Nat := (w.raRead u a).2.1
     canStart s q 3 r ∧ recordCheck s r = 0 ∧ firstAdmitted s q = true ∧ r.stop = false ∧ r.fly = [] ∧ r.steps = 1 ∧ r.next = 0 ∧ S = recordSent s q ∧
     raHead S q = some u ∧ d = walkLine S u.opD 0 ∧ S.tryAcc (lineClaim S q 0 u d .write (u.pol S u.opD.handle)) = (.go, v) ∧ a = walkLine S u.opA 0 ∧
     a.sector = d.sector ∧ v.tryAcc (lineClaim v q 0 u a .read (u.pol v u.opA.handle)) = (.go, w) ∧ w.raRead u a = (stOK, data, z)) := by
  unfold canStart
  refine ⟨?_, ?_, ?_, ?_, ?_, ?_, ?_, ?_, ?_⟩
  · decide +kernel
  · decide +kernel
  · decide +kernel
  · decide +kernel
  · decide +kernel
  · decide +kernel
  · exact ⟨by decide +kernel, by decide +kernel, by decide +kernel, by decide +kernel, by decide +kernel, by decide +kernel, by decide +kernel, by rfl, by decide +kernel, by decide +kernel, by decide +kernel⟩
  · exact ⟨by decide +kernel, by decide +kernel, by decide +kernel, by decide +kernel, by decide +kernel, by decide +kernel, by decide +kernel, by rfl, by decide +kernel, by decide +kernel, by exact pair_eq _ _ (by decide +kernel)⟩
  · exact ⟨by decide +kernel, by decide +kernel, by decide +kernel, by decide +kernel, by decide +kernel, by decide +kernel, by decide +kernel, by rfl, by decide +kernel, by decide +kernel, by exact pair_eq _ _ (by decide +kernel), by decide +kernel, by decide +kernel, by exact pair_eq _ _ (by decide +kernel), by exact pair_eq _ _ (by decide +kernel)⟩

theorem wit_RecordsRun :
    (let r := run1 1 (9999 * 4096) 4096 4096
     let s : State := ((inQ up [r]).put pgREGUL (REGUL_TCFG_CLASS.at 16 0) 3).put pgPOWER POWER_EMG_STAT_ACTIVE 1
     let q : Nat := 3
     q < 4 ∧ raHead s q = some r ∧ r.started = true ∧ r.stop = false ∧ r.upTo ≤ r.next ∧ r.next < r.steps ∧ r.fly = [] ∧
     (chunkOf (s.nextChunk q) (raOwner q)).any (·.adm) = false) ∧
    (let r := run1 4 (9999 * 4096) 4096 8192
     let s : State := { inQ up [r] with energyAcc := { ({} : EnergySt) with chunks := [⟨19, 0, 4096, 0, true, 2, true, 0⟩] } }
     let q : Nat := 3
     q < 4 ∧ raHead s q = some r ∧ r.started = true ∧ r.stop = false ∧ r.next < r.upTo ∧ r.kind = 4 ∧ (chunkOf s (raOwner q)).any (·.adm) = true) ∧
    (let r := { run1 4 (9999 * 4096) 4096 8192 with fly := List.range 60 }
     let s : State := { inQ up [r] with energyAcc := { ({} : EnergySt) with chunks := [⟨19, 0, 4096, 0, true, 2, true, 0⟩] } }
     let q : Nat := 3
     q < 4 ∧ raHead s q = some r ∧ r.started = true ∧ r.stop = false ∧ r.next < r.upTo ∧ r.kind = 4 ∧ (chunkOf s (raOwner q)).any (·.adm) = true) ∧
    (let r := { run1 4 0 1 1 with red := [(0, 7)] }
     let s := inQ up [r]
     let q := 3
     let g := 0
     let l := (wordLine s r.opB 0).1
     let row := (wordLine s r.opB 0).2.1
     let col := (wordLine s r.opB 0).2.2
     let u := (s.tryAcc (segClaim s (raUnit q (((r.red.filter fun e => e.1 / 8 == g).map (·.1)).headD 0)) r l.layer l.frame row col .write (BitVec.ofNat 32 ((r.red.filter fun e => e.1 / 8 == g).foldl (fun a e => a + 15 * 2 ^ (4 * (e.1 % 8))) 0)) (r.pol s r.opB.handle))).2
     let w := (directWrite u l.layer l.frame [⟨row, col, BitVec.ofNat 256 ((r.red.filter fun e => e.1 / 8 == g).foldl (fun a e => a + e.2 * 2 ^ (32 * (e.1 % 8))) 0), BitVec.ofNat 32 ((r.red.filter fun e => e.1 / 8 == g).foldl (fun a e => a + 15 * 2 ^ (4 * (e.1 % 8))) 0)⟩] r.tid).2
     q < 4 ∧ raHead s q = some r ∧ reduceReady r = some g ∧ wordLine s r.opB (8 * g) = (l, row, col) ∧
     s.tryAcc (segClaim s (raUnit q (((r.red.filter fun e => e.1 / 8 == g).map (·.1)).headD 0)) r l.layer l.frame row col .write (BitVec.ofNat 32 ((r.red.filter fun e => e.1 / 8 == g).foldl (fun a e => a + 15 * 2 ^ (4 * (e.1 % 8))) 0)) (r.pol s r.opB.handle)) = (.go, u) ∧
     directWrite u l.layer l.frame [⟨row, col, BitVec.ofNat 256 ((r.red.filter fun e => e.1 / 8 == g).foldl (fun a e => a + e.2 * 2 ^ (32 * (e.1 % 8))) 0), BitVec.ofNat 32 ((r.red.filter fun e => e.1 / 8 == g).foldl (fun a e => a + 15 * 2 ^ (4 * (e.1 % 8))) 0)⟩] r.tid = (0, w)) ∧
    (let r := { run1 4 0 1 1 with red := [(0,1),(1,2),(2,3),(3,4),(4,5),(5,6),(6,7),(7,8)] }
     let s := inQ up [r]
     let q := 3
     let g := 0
     let l := (wordLine s r.opB 0).1
     let row := (wordLine s r.opB 0).2.1
     let col := (wordLine s r.opB 0).2.2
     let u := (s.tryAcc (segClaim s (raUnit q (((r.red.filter fun e => e.1 / 8 == g).map (·.1)).headD 0)) r l.layer l.frame row col .write (BitVec.ofNat 32 ((r.red.filter fun e => e.1 / 8 == g).foldl (fun a e => a + 15 * 2 ^ (4 * (e.1 % 8))) 0)) (r.pol s r.opB.handle))).2
     let w := (directWrite u l.layer l.frame [⟨row, col, BitVec.ofNat 256 ((r.red.filter fun e => e.1 / 8 == g).foldl (fun a e => a + e.2 * 2 ^ (32 * (e.1 % 8))) 0), BitVec.ofNat 32 ((r.red.filter fun e => e.1 / 8 == g).foldl (fun a e => a + 15 * 2 ^ (4 * (e.1 % 8))) 0)⟩] r.tid).2
     q < 4 ∧ raHead s q = some r ∧ reduceReady r = some g ∧ wordLine s r.opB (8 * g) = (l, row, col) ∧
     s.tryAcc (segClaim s (raUnit q (((r.red.filter fun e => e.1 / 8 == g).map (·.1)).headD 0)) r l.layer l.frame row col .write (BitVec.ofNat 32 ((r.red.filter fun e => e.1 / 8 == g).foldl (fun a e => a + 15 * 2 ^ (4 * (e.1 % 8))) 0)) (r.pol s r.opB.handle)) = (.go, u) ∧
     directWrite u l.layer l.frame [⟨row, col, BitVec.ofNat 256 ((r.red.filter fun e => e.1 / 8 == g).foldl (fun a e => a + e.2 * 2 ^ (32 * (e.1 % 8))) 0), BitVec.ofNat 32 ((r.red.filter fun e => e.1 / 8 == g).foldl (fun a e => a + 15 * 2 ^ (4 * (e.1 % 8))) 0)⟩] r.tid = (0, w)) ∧
    (let r := run1 1 0 1 1
     let s : State := inQ up [r]
     let q : Nat := 3
     q < 4 ∧ raHead s q = some r ∧ r.quiet = true ∧ r.red = [] ∧ (raqOf s q).cpl.length < 16 ∧ writing s q = false) ∧
    (let r := { run1 1 0 1 1 with stop := true, status := 9, fail := some 5 }
     let s : State := inQ up [r]
     let q : Nat := 3
     q < 4 ∧ raHead s q = some r ∧ r.quiet = true ∧ r.red = [] ∧ (raqOf s q).cpl.length < 16 ∧ writing s q = false) ∧
    (let s : State := own 12
     let m : Master := .cpa
     let k : Nat := 7
     let n : Nat := 0
     mayWrite s m pgRIMALU RIMALU_KCTL true = true ∧ s.cfg.optA = true ∧ k < 8 ∧ n < 16 ∧ slotInUse s k = false ∧
     kernelErr ((List.range (n + 1)).map fun i => (s.rd (pgRIMALU + RIMALU_KSTAGE + 4 * i)).toNat) = 0) ∧
    (let s : State := own 12
     let m : Master := .cpa
     let k : Nat := 0
     let n : Nat := 15
     mayWrite s m pgRIMALU RIMALU_KCTL true = true ∧ s.cfg.optA = true ∧ k < 8 ∧ n < 16 ∧ slotInUse s k = false ∧
     kernelErr ((List.range (n + 1)).map fun i => (s.rd (pgRIMALU + RIMALU_KSTAGE + 4 * i)).toNat) = 0) ∧
    (let s : State := (own 12).wr (pgRIMALU + RIMALU_KSTAGE) 1
     let m : Master := .cpa
     let k : Nat := 7
     let n : Nat := 15
     mayWrite s m pgRIMALU RIMALU_KCTL true = true ∧ s.cfg.optA = true ∧ k < 8 ∧ n < 16 ∧ slotInUse s k = false ∧
     kernelErr ((List.range (n + 1)).map fun i => (s.rd (pgRIMALU + RIMALU_KSTAGE + 4 * i)).toNat) ≠ 0) := by
  refine ⟨?_, ?_, ?_, ?_, ?_, ?_, ?_, ?_, ?_, ?_⟩
  · decide +kernel
  · decide +kernel
  · decide +kernel
  · exact ⟨by decide +kernel, by decide +kernel, by decide +kernel, by decide +kernel, by exact pair_eq _ _ (by decide +kernel), by exact pair_eq _ _ (by decide +kernel)⟩
  · exact ⟨by decide +kernel, by decide +kernel, by decide +kernel, by decide +kernel, by exact pair_eq _ _ (by decide +kernel), by exact pair_eq _ _ (by decide +kernel)⟩
  · decide +kernel
  · decide +kernel
  · decide +kernel
  · decide +kernel
  · decide +kernel

theorem wit_KernelInstructions_1 :
    (let s : State := kst (0 * 2 ^ 27 + 2 * 2 ^ 23 + 2 ^ 18)
     let c : KCtx := kcx
     let ins : Nat := (0 * 2 ^ 27 + 2 * 2 ^ 23 + 2 ^ 18)
     kernelAt s c ins ∧ notLast s c ∧ kiOpc ins = 0) ∧
    (let opc := 4
     let s : State := kst (4 * 2 ^ 27 + 2 * 2 ^ 23 + 2 ^ 18)
     let c : KCtx := kcx
     let ins : Nat := (4 * 2 ^ 27 + 2 * 2 ^ 23 + 2 ^ 18)
     kernelAt s c ins ∧ notLast s c ∧ kiOpc ins = opc) ∧
    (let opc := 9
     let s : State := kst (9 * 2 ^ 27 + 2 * 2 ^ 23 + 2 ^ 18)
     let c : KCtx := kcx
     let ins : Nat := (9 * 2 ^ 27 + 2 * 2 ^ 23 + 2 ^ 18)
     kernelAt s c ins ∧ notLast s c ∧ kiOpc ins = opc) ∧
    (let s : State := kst (10 * 2 ^ 27 + 2 * 2 ^ 23 + 2 ^ 18)
     let c : KCtx := kcx
     let ins : Nat := (10 * 2 ^ 27 + 2 * 2 ^ 23 + 2 ^ 18)
     kernelAt s c ins ∧ notLast s c ∧ kiOpc ins = 10) ∧
    (let s : State := kst (11 * 2 ^ 27 + 2 * 2 ^ 23 + 2 ^ 18)
     let c : KCtx := kcx
     let ins : Nat := (11 * 2 ^ 27 + 2 * 2 ^ 23 + 2 ^ 18)
     kernelAt s c ins ∧ notLast s c ∧ kiOpc ins = 11 ∧ aluBad s c (kiSa ins) = false) ∧
    (let s : State := kst (12 * 2 ^ 27 + 2 * 2 ^ 23 + 2 ^ 18)
     let c : KCtx := kcx
     let ins : Nat := (12 * 2 ^ 27 + 2 * 2 ^ 23 + 2 ^ 18)
     kernelAt s c ins ∧ notLast s c ∧ kiOpc ins = 12 ∧ aluBad s c (kiSa ins) = false) := by
  unfold notLast kernelAt
  refine ⟨?_, ?_, ?_, ?_, ?_, ?_⟩ <;> decide +kernel

theorem wit_KernelInstructions_2 :
    (let ins := (1 * 2 ^ 27 + 2 * 2 ^ 23 + 2 ^ 18)
     let s := kst ins
     let c := kcx
     let o := RaRec.opA
     let l := walkLine s (o c.r) (2 ^ (o c.r).mul * c.step + kiJ ins)
     let u := (s.tryAcc (lineClaim s c.q c.step c.r l .read (c.r.pol s (o c.r).handle))).2
     let v := (u.raRead c.r l).2.1
     let w := (u.raRead c.r l).2.2
     let opc := 1
     kernelAt s c ins ∧ notLast s c ∧ kiOpc ins = opc ∧ plainOp s (o c.r) ∧ l = walkLine s (o c.r) (2 ^ (o c.r).mul * c.step + kiJ ins) ∧
     crossHeld s l (walkLine s c.r.opD (2 ^ c.r.opD.mul * c.step)) = false ∧
     s.tryAcc (lineClaim s c.q c.step c.r l .read (c.r.pol s (o c.r).handle)) = (.go, u) ∧ u.raRead c.r l = (stOK, v, w)) ∧
    (let ins := (2 * 2 ^ 27 + 2 * 2 ^ 23 + 2 ^ 18)
     let s := kst ins
     let c := kcx
     let o := RaRec.opB
     let l := walkLine s (o c.r) (2 ^ (o c.r).mul * c.step + kiJ ins)
     let u := (s.tryAcc (lineClaim s c.q c.step c.r l .read (c.r.pol s (o c.r).handle))).2
     let v := (u.raRead c.r l).2.1
     let w := (u.raRead c.r l).2.2
     let opc := 2
     kernelAt s c ins ∧ notLast s c ∧ kiOpc ins = opc ∧ plainOp s (o c.r) ∧ l = walkLine s (o c.r) (2 ^ (o c.r).mul * c.step + kiJ ins) ∧
     crossHeld s l (walkLine s c.r.opD (2 ^ c.r.opD.mul * c.step)) = false ∧
     s.tryAcc (lineClaim s c.q c.step c.r l .read (c.r.pol s (o c.r).handle)) = (.go, u) ∧ u.raRead c.r l = (stOK, v, w)) ∧
    (let ins := (3 * 2 ^ 27 + 2 * 2 ^ 23 + 2 ^ 18)
     let s := kst ins
     let c := kcx
     let l := walkLine s c.r.opD (2 ^ c.r.opD.mul * c.step + kiJ ins)
     let u := inBuffer s c ins l
     kernelAt s c ins ∧ notLast s c ∧ kiOpc ins = 3 ∧ plainOp s c.r.opD ∧ aluBad s c (kiSa ins) = false ∧ buffered s c < 2 ∧
     l = walkLine s c.r.opD (2 ^ c.r.opD.mul * c.step + kiJ ins) ∧ (s.tryRim c.r.tid l.layer l.frame (c.r.pol s c.r.opD.handle)).1 = .go ∧
     u = inBuffer s c ins l ∧ wins u l.layer l.rim s.hub.seqCtr = true) ∧
    (let ins := (3 * 2 ^ 27 + 2 * 2 ^ 23 + 2 ^ 18)
     let s := (kst ins).put (rimBase 0 0) RIM_PWR_STAT_STATE 4
     let c := kcx
     let l := walkLine s c.r.opD (2 ^ c.r.opD.mul * c.step + kiJ ins)
     let u := (s.tryRim c.r.tid l.layer l.frame (c.r.pol s c.r.opD.handle)).2
     kernelAt s c ins ∧ notLast s c ∧ kiOpc ins = 3 ∧ plainOp s c.r.opD ∧ aluBad s c (kiSa ins) = false ∧ buffered s c < 2 ∧
     l = walkLine s c.r.opD (2 ^ c.r.opD.mul * c.step + kiJ ins) ∧
     (s.tryRim c.r.tid l.layer l.frame (c.r.pol s c.r.opD.handle) = (.wait, u) ∨ (s.tryRim c.r.tid l.layer l.frame (c.r.pol s c.r.opD.handle) = (.go, u) ∧ wins (inBuffer s c ins l) l.layer l.rim s.hub.seqCtr = false))) ∧
    (let ins := (3 * 2 ^ 27 + 2 * 2 ^ 23 + 2 ^ 18)
     let s := ((kst ins).setFlight [{ ac .rim with seq := 5, born := 0 }]).hubf fun h => { h with seqCtr := 9 }
     let c := kcx
     let l := walkLine s c.r.opD (2 ^ c.r.opD.mul * c.step + kiJ ins)
     let u := (s.tryRim c.r.tid l.layer l.frame (c.r.pol s c.r.opD.handle)).2
     kernelAt s c ins ∧ notLast s c ∧ kiOpc ins = 3 ∧ plainOp s c.r.opD ∧ aluBad s c (kiSa ins) = false ∧ buffered s c < 2 ∧
     l = walkLine s c.r.opD (2 ^ c.r.opD.mul * c.step + kiJ ins) ∧
     (s.tryRim c.r.tid l.layer l.frame (c.r.pol s c.r.opD.handle) = (.wait, u) ∨ (s.tryRim c.r.tid l.layer l.frame (c.r.pol s c.r.opD.handle) = (.go, u) ∧ wins (inBuffer s c ins l) l.layer l.rim s.hub.seqCtr = false))) ∧
    (let s : State := { kst 0 with klen := [(0, 1)] }
     let c : KCtx := kcx
     let ins : Nat := 0
     kernelAt s c ins ∧ kiOpc ins = 0 ∧ (rimOf s c.layer c.p).kpc + 1 = (kBody s c.r.kslot).length ∧ (rimOf s c.layer c.p).kfail = 0 ∧
     (rimOf s c.layer c.p).kword = none) := by
  unfold plainOp notLast kernelAt
  refine ⟨?_, ?_, ?_, ?_, ?_, ?_⟩
  · exact ⟨by decide +kernel, by decide +kernel, by decide +kernel, by decide +kernel, by decide +kernel, by decide +kernel, by exact pair_eq _ _ (by decide +kernel), by exact pair_eq _ _ (by decide +kernel)⟩
  · exact ⟨by decide +kernel, by decide +kernel, by decide +kernel, by decide +kernel, by decide +kernel, by decide +kernel, by exact pair_eq _ _ (by decide +kernel), by exact pair_eq _ _ (by decide +kernel)⟩
  · decide +kernel
  · decide +kernel
  · decide +kernel
  · decide +kernel

theorem wit_SqMessages_1 :
    (let s : State := en up 8
     let x : Nat := 8
     let w : SqWord := sqw 0 63 65535
     sqReady s x = true ∧ sqPlain w ∧ w.op = 0) ∧
    (let s : State := en up 71
     let x : Nat := 71
     let w : SqWord := sqw 0 63 65535
     sqReady s x = true ∧ sqPlain w ∧ w.op = 0) ∧
    (let s : State := (en up 8).put pgSYNCCTR (SYNC_CTR_CTR_VALUE.at 4 (sqCounter 8 (sqw 1 47 0))) 30
     let x : Nat := 8
     let w : SqWord := sqw 1 47 0
     0 < counterOps.length ∧ sqReady s x = true ∧ sqPlain w ∧ w.id < 48 ∧ w.value < 65536 ∧ noWatch s (sqCounter x w)) ∧
    (let s : State := (en up 71).put pgSYNCCTR (SYNC_CTR_CTR_VALUE.at 4 (sqCounter 71 (sqw 1 47 0))) 30
     let x : Nat := 71
     let w : SqWord := sqw 3 47 65535
     2 < counterOps.length ∧ sqReady s x = true ∧ sqPlain w ∧ w.id < 48 ∧ w.value < 65536 ∧ noWatch s (sqCounter x w)) ∧
    (let s : State := en up 8
     let x : Nat := 8
     let w : SqWord := sqw 4 47 65535
     sqReady s x = true ∧ sqPlain w ∧ w.id < 48 ∧ w.value < 65536 ∧ w.widx < 4 ∧ armed s (sqWatch x w) = false ∧
     (if w.cond then counter s (sqCounter x w) ≠ w.value else counter s (sqCounter x w) < w.value)) ∧
    (let s : State := en up 71
     let x : Nat := 71
     let w : SqWord := { sqw 4 47 65535 with cond := true, rel := false }
     sqReady s x = true ∧ sqPlain w ∧ w.id < 48 ∧ w.value < 65536 ∧ w.widx < 4 ∧ armed s (sqWatch x w) = false ∧
     (if w.cond then counter s (sqCounter x w) ≠ w.value else counter s (sqCounter x w) < w.value)) ∧
    (let s : State := en up 71
     let x : Nat := 71
     let w : SqWord := sqw 5 47 65535
     sqReady s x = true ∧ sqPlain w ∧ w.widx < 4 ∧ armed s (sqWatch x w) = false) := by
  unfold sqPlain noWatch
  refine ⟨?_, ?_, ?_, ?_, ?_, ?_, ?_⟩ <;> decide +kernel

theorem wit_SqMessages_2 :
    (let s : State := match exec (.sqWatch 8 (sqw 4 47 65535)) (en up 8) with | .next t => t | _ => up
     let x : Nat := 8
     let w : SqWord := sqw 5 11 0
     sqReady s x = true ∧ sqPlain w ∧ w.widx < 4 ∧ armed s (sqWatch x w) = true) ∧
    (let s : State := match exec (.sqWatch 71 (sqw 4 47 65535)) (en (en up 71) 70) with | .next t => t | _ => up
     let x : Nat := 70
     let w : SqWord := sqw 5 11 0
     sqReady s x = true ∧ sqPlain w ∧ w.widx < 4 ∧ armed s (sqWatch x w) = true) ∧
    (let s : State := en up 71
     let x : Nat := 71
     let w : SqWord := sqw 6 47 0
     sqReady s x = true ∧ sqPlain w ∧ w.id < 48) ∧
    (let s : State := ((en up 8).barPut 63 SYNC_BAR_BCFG_EN 1).barPut 63 SYNC_BAR_BCFG_EXPECT 4095
     let x : Nat := 8
     let w : SqWord := sqw 7 63 4094
     sqReady s x = true ∧ sqPlain w ∧ w.cons = true ∧ w.id < 64 ∧ 0 < w.value ∧ w.value < 4096 ∧ barOn s w.id = true ∧
     barGet s w.id SYNC_BAR_BSTAT_COUNT + w.value < barGet s w.id SYNC_BAR_BCFG_EXPECT) ∧
    (let s : State := ((en up 8).barPut 63 SYNC_BAR_BCFG_EN 1).barPut 63 SYNC_BAR_BCFG_EXPECT 4095
     let x : Nat := 8
     let w : SqWord := sqw 7 63 1
     sqReady s x = true ∧ sqPlain w ∧ w.cons = true ∧ w.id < 64 ∧ 0 < w.value ∧ w.value < 4096 ∧ barOn s w.id = true ∧
     barGet s w.id SYNC_BAR_BSTAT_COUNT + w.value < barGet s w.id SYNC_BAR_BCFG_EXPECT) ∧
    (let s : State := en up 8
     let x : Nat := 8
     let w : SqWord := sqw 1 48 3
     0 < counterOps.length ∧ sqReady s x = true ∧ sqPlain w ∧ 48 ≤ w.id) ∧
    (let s : State := en up 8
     let x : Nat := 8
     let w : SqWord := sqw 3 63 3
     2 < counterOps.length ∧ sqReady s x = true ∧ sqPlain w ∧ 48 ≤ w.id) := by
  unfold sqPlain
  refine ⟨?_, ?_, ?_, ?_, ?_, ?_, ?_⟩ <;> decide +kernel

theorem wit_SyncCommands_1 :
    (let s : State := own 8
     let m : Master := .cpa
     let c : Nat := 383
     let v : Nat := 65535
     0 < counterOps.length ∧ mayWrite s m pgSYNCCTR SYNC_CTR_CTR_CMD true = true ∧ c < 384 ∧ v < 65536 ∧ noWatch s c ∧ parked s = false) ∧
    (let s : State := own 8
     let m : Master := .cpa
     let c : Nat := 383
     let v : Nat := 65535
     2 < counterOps.length ∧ mayWrite s m pgSYNCCTR SYNC_CTR_CTR_CMD true = true ∧ c < 384 ∧ v < 65536 ∧ noWatch s c ∧ parked s = false) ∧
    (let s : State := (own 8).park
     let m : Master := .cpa
     let c : Nat := 383
     let v : Nat := 65535
     0 < counterOps.length ∧ mayWrite s m pgSYNCCTR SYNC_CTR_CTR_CMD true = true ∧ c < 384 ∧ v < 65536 ∧ noWatch s c ∧ parked s = true) ∧
    (let s : State := (own 8).park
     let m : Master := .cpa
     let c : Nat := 383
     let v : Nat := 65535
     2 < counterOps.length ∧ mayWrite s m pgSYNCCTR SYNC_CTR_CTR_CMD true = true ∧ c < 384 ∧ v < 65536 ∧ noWatch s c ∧ parked s = true) ∧
    (let s : State := own 8
     let m : Master := .cpa
     let c : Nat := 384
     0 < counterOps.length ∧ mayWrite s m pgSYNCCTR SYNC_CTR_CTR_CMD true = true ∧ 384 ≤ c ∧ c < 512) ∧
    (let s : State := own 8
     let m : Master := .cpa
     let c : Nat := 511
     2 < counterOps.length ∧ mayWrite s m pgSYNCCTR SYNC_CTR_CTR_CMD true = true ∧ 384 ≤ c ∧ c < 512) ∧
    (let s : State := ringUp
     let m : Master := .cpa
     let r : Nat := 255
     let k : Nat := 16383
     mayWrite s m pgSYNCTAG SYNC_TAG_TAG_CMD true = true ∧ r < 256 ∧ k < 16384 ∧ ringOn s r = true ∧ k < ringSlots s r ∧ tagFull s r k = false ∧
     s.sync.parks = []) ∧
    (let s : State := ringUp.setTag 16383 true
     let m : Master := .cpa
     let r : Nat := 255
     let k : Nat := 16383
     mayWrite s m pgSYNCTAG SYNC_TAG_TAG_CMD true = true ∧ r < 256 ∧ k < 16384 ∧ ringOn s r = true ∧ k < ringSlots s r ∧ tagFull s r k = true ∧
     s.sync.parks = [] ∧ s.sync.filler = []) ∧
    (let s : State := ((own 10).barPut 63 SYNC_BAR_BCFG_EN 1).barPut 63 SYNC_BAR_BCFG_EXPECT 4095
     let m : Master := .cpa
     let b : Nat := 63
     let n : Nat := 4094
     mayWrite s m pgSYNCBAR SYNC_BAR_BARRIVE true = true ∧ b < 64 ∧ 0 < n ∧ n < 4096 ∧ barOn s b = true ∧
     barGet s b SYNC_BAR_BSTAT_COUNT + n < barGet s b SYNC_BAR_BCFG_EXPECT) := by
  unfold noWatch
  refine ⟨?_, ?_, ?_, ?_, ?_, ?_, ?_, ?_, ?_⟩ <;> decide +kernel

theorem wit_SyncCommands_2 :
    (let s : State := own 10
     let m : Master := .cpa
     let b : Nat := 63
     let w : Word32 := 1
     mayWrite s m pgSYNCBAR (SYNC_BAR_BCFG + 16 * b) true = true ∧ b < 64 ∧ barOn s b = false ∧ SYNC_BAR_BCFG_EXPECT.of w ≠ 0 ∧
     SYNC_BAR_BCFG_DOMAIN.of w = 0) ∧
    (let s : State := own 10
     let m : Master := .cpa
     let b : Nat := 0
     let w : Word32 := 0x00000FFF
     mayWrite s m pgSYNCBAR (SYNC_BAR_BCFG + 16 * b) true = true ∧ b < 64 ∧ barOn s b = false ∧ SYNC_BAR_BCFG_EXPECT.of w ≠ 0 ∧
     SYNC_BAR_BCFG_DOMAIN.of w = 0) ∧
    (let s : State := own 10
     let m : Master := .cpa
     let b : Nat := 63
     let w : Word32 := 0
     mayWrite s m pgSYNCBAR (SYNC_BAR_BCFG + 16 * b) true = true ∧ b < 64 ∧ barOn s b = false ∧ SYNC_BAR_BCFG_EXPECT.of w = 0) ∧
    (let s : State := ((own 10).barPut 63 SYNC_BAR_BCFG_EN 1).barPut 63 SYNC_BAR_BCFG_EXPECT 4095
     let m : Master := .cpa
     let b : Nat := 63
     mayWrite s m pgSYNCBAR (SYNC_BAR_BCFG + 16 * b) true = true ∧ b < 64 ∧ barOn s b = true) ∧
    (let s : State := ((own 10).barPut 63 SYNC_BAR_BCFG_EN 1).barPut 63 SYNC_BAR_BCFG_EXPECT 4095
     let m : Master := .cpb
     let b : Nat := 63
     mayWrite s m pgSYNCBAR (SYNC_BAR_BCFG + 16 * b) false = true ∧ b < 64 ∧ s.sync.waiters = [] ∧ s.sync.arrived = []) ∧
    (let s : State := ({ own 9 with handles := [(5, stagedDesc up)] } : State).put pgHSTATE (HANDLE_STATE_HSTATE_STATE.at 4 5) 1
     let m : Master := .cpa
     let i : Nat := 255
     let w : Word32 := 5
     mayWrite s m (ringBase i) (rcfgOff i) true = true ∧ i < 256 ∧ ringOn s i = false ∧
     ringReason (s.wr (ringBase i + rcfgOff i) (BitVec.ofNat 32 (rcfgFields w))) i = 0) ∧
    (let s : State := ringUp
     let m : Master := .cpa
     let i : Nat := 255
     mayWrite s m (ringBase i) (rcfgOff i) true = true ∧ i < 256 ∧ ringOn s i = true ∧ (∀ k ∈ s.sync.parks, k.x < 72)) ∧
    (let s : State := parkedAt true true
     let m : Master := .cpa
     let i : Nat := 255
     mayWrite s m (ringBase i) (rcfgOff i) true = true ∧ i < 256 ∧ ringOn s i = true ∧ (∀ k ∈ s.sync.parks, k.x < 72)) := by
  refine ⟨?_, ?_, ?_, ?_, ?_, ?_, ?_, ?_⟩ <;> decide +kernel

theorem wit_SyncEvents :
    (let s : State := (en up 0).port 0 fun p => { p with sqHeld := [heldAdd], sqUsed := 3 }
     let x : Nat := 0
     let h : SqHeld := heldAdd
     x < 72 ∧ (portOf s x).sqHeld = [h] ∧ h.err = 0 ∧ h.w.op = 1 ∧ h.w.id < 48 ∧ h.w.value < 65536 ∧ (h.w.rel = true → released s x h.mark = true) ∧
     noWatch s (sqCounter x h.w) ∧ parked s = false) ∧
    (let s : State := (en up 71).port 71 fun p => { p with sw := [⟨3, 0, 63, 0, 15, 0, 1, none⟩, ⟨2, 0, 63, 0, 15, 0, 1, none⟩], sqUsed := 4 }
     let x : Nat := 71
     let m : SwMsg := ⟨3, 0, 63, 0, 15, 0, 1, none⟩
     let l : List SwMsg := [⟨2, 0, 63, 0, 15, 0, 1, none⟩]
     (portOf s x).sw = m :: l ∧ portState s x ≠ 0 ∧ (portOf s x).broken = false) ∧
    (let s : State := (en (en up 71) 70).port 71 fun p => { p with sw := [⟨5, 0, 63, 0, 15, 0, 1, some 70⟩], sqUsed := 4 }
     let x : Nat := 71
     let m : SwMsg := ⟨5, 0, 63, 0, 15, 0, 1, some 70⟩
     let l : List SwMsg := []
     (portOf s x).sw = m :: l ∧ portState s x ≠ 0 ∧ (portOf s x).broken = false) ∧
    (let s : State := slotWait true false
     let x : Nat := 0
     let tag : Nat := 0
     let c : SlotChange := ⟨255, 16383, true, 0, 0, 0, [], false⟩
     (s.sync.changes.find? fun c => c.x == x && c.tag == tag && c.fill) = some c ∧ c.go = [] ∧ writesSettled s x c.acc true = true ∧ c.bad = false ∧
     tagFull s c.ring c.slot = false ∧ s.sync.parks = []) ∧
    (let s : State := slotWait false true
     let x : Nat := 0
     let tag : Nat := 0
     let c : SlotChange := ⟨255, 16383, false, 0, 0, 0, [], false⟩
     (s.sync.changes.find? fun c => c.x == x && c.tag == tag && !c.fill) = some c ∧ c.go = [] ∧
     ((portOf s x).txns.all fun t => !(t.slotAt == some (c.ring * 16384 + c.slot) && t.req.op == 0 && decide (t.acc < c.acc)) || txnSettled s x t true) = true ∧
     c.bad = false ∧ tagFull s c.ring c.slot = true ∧ s.sync.parks = [] ∧ s.sync.filler = []) ∧
    (let s : State := parkedAt true true
     let x : Nat := 0
     let tag : Nat := 0
     let d : Nat := 0
     let k : Park := ⟨0, 0, 0, 0, 255, 16383, true, some 0, true⟩
     let u : Txn := tx
     (s.sync.parks.find? fun k => k.x == x && k.tag == tag) = some k ∧ k.deadline = some d ∧ d ≤ s.now ∧ txnOf s x tag = some u) ∧
    (let s : State := parkedAt true false
     let x : Nat := 0
     let tag : Nat := 0
     let d : Nat := 0
     let k : Park := ⟨0, 0, 0, 0, 255, 16383, true, some 0, false⟩
     let u : Txn := tx
     (s.sync.parks.find? fun k => k.x == x && k.tag == tag) = some k ∧ k.deadline = some d ∧ d ≤ s.now ∧ txnOf s x tag = some u) ∧
    (let s : State := parkedAt true false
     let x : Nat := 0
     let tag : Nat := 0
     let k : Park := ⟨0, 0, 0, 0, 255, 16383, true, some 0, false⟩
     let u : Txn := tx
     (s.sync.parks.find? fun k => k.x == x && k.tag == tag && !k.table) = some k ∧ txnOf s x tag = some u ∧ k.deadline.isSome = true ∧
     tagFull s k.ring k.slot ≠ k.full ∧
     ((s.sync.parks.filter fun j => !(j.x == k.x && j.tag == k.tag)).filter fun j => j.table && j.home == k.home).length < 32) ∧
    (let s : State := parkedAt false false
     let x : Nat := 0
     let tag : Nat := 0
     let k : Park := ⟨0, 0, 0, 0, 255, 16383, false, some 0, false⟩
     let u : Txn := tx
     (s.sync.parks.find? fun k => k.x == x && k.tag == tag && !k.table) = some k ∧ txnOf s x tag = some u ∧ k.deadline.isSome = true ∧
     tagFull s k.ring k.slot = k.full) := by
  unfold noWatch
  refine ⟨?_, ?_, ?_, ?_, ?_, ?_, ?_, ?_, ?_⟩ <;> decide +kernel

theorem wit_CacheFill :
    (let s : State := missed false
     let id : Nat := 7
     let x : Nat := 0
     let tag : Nat := 0
     let w : Nat := 0
     let pl : Nat × Nat := (0,5)
     let r : MpReq := ⟨7, .fill 3, false, 640, 128, 0, 128, 0, 0⟩
     let j : CacheJob := cj false .fetch
     let u : Txn := { tx with req := rq 0 }
     missOut s id x tag r j ∧ txnOf s x tag = some u ∧ j.wr = false ∧ cachePlace s j.line = some pl ∧
     ((List.range 8).find? fun w => !(s.cache.lines.any fun e => e.1 == slotKey pl w)) = some w) ∧
    (let s : State := missed true
     let id : Nat := 7
     let x : Nat := 0
     let tag : Nat := 0
     let w : Nat := 0
     let data : Nat := 2^1024+2^1023+5
     let D : Nat := 2^1023+5
     let pl : Nat × Nat := (0,5)
     let r : MpReq := ⟨7, .fill 3, false, 640, 128, 0, 128, 0, 0⟩
     let j : CacheJob := cj true .fetch
     missOut s id x tag r j ∧ j.wr = true ∧ cachePlace s j.line = some pl ∧ D = data % 2 ^ 1024 ∧
     ((List.range 8).find? fun w => !(s.cache.lines.any fun e => e.1 == slotKey pl w)) = some w) ∧
    (let a := { (cj true .fill).access (missed true) with seq := 6, loc := .merge }
     let s : State := filling true (.ext 0 0)
     let x : Nat := 0
     let tag : Nat := 0
     let j : CacheJob := { cj true .fill with key := 40, sent := true }
     let u : Txn := { tx with req := rq 1 }
     parked s = false ∧ s.hub.flight.find? (fun b => b.seq == a.seq && b.loc == .merge) = some a ∧
     (s.hub.flight.any fun b => b.obs == a.obs && decide (b.seq < a.seq) && common a b) = false ∧ a.src = .cache j.id ∧ a.status = stOK ∧
     s.cache.jobs = [j] ∧ j.stage = .fill ∧ j.op = .ext x tag ∧ j.wr = true ∧ txnOf s x tag = some u) ∧
    (let a := { (cj true .fill).access (missed true) with seq := 6, loc := .merge }
     let s : State := filling true .alloc
     let j : CacheJob := { cj true .fill with op := .alloc, key := 40, sent := true }
     parked s = false ∧ s.hub.flight.find? (fun b => b.seq == a.seq && b.loc == .merge) = some a ∧
     (s.hub.flight.any fun b => b.obs == a.obs && decide (b.seq < a.seq) && common a b) = false ∧ a.src = .cache j.id ∧ a.status = stOK ∧
     s.cache.jobs = [j] ∧ j.stage = .fill ∧ j.op = .alloc) ∧
    (let a := { (cj false .fill).access (missed false) with seq := 6, loc := .merge }
     let s : State := filling false .alloc
     let j : CacheJob := { cj false .fill with op := .alloc, key := 40, sent := true }
     parked s = false ∧ s.hub.flight.find? (fun b => b.seq == a.seq && b.loc == .merge) = some a ∧
     (s.hub.flight.any fun b => b.obs == a.obs && decide (b.seq < a.seq) && common a b) = false ∧ a.src = .cache j.id ∧ a.status = stOK ∧
     s.cache.jobs = [j] ∧ j.stage = .fill ∧ j.op = .alloc) ∧
    (let s : State := missed true
     let id : Nat := 7
     let x : Nat := 0
     let tag : Nat := 0
     let r : MpReq := ⟨7, .fill 3, false, 640, 128, 0, 128, 0, 0⟩
     let j : CacheJob := cj true .fetch
     let u : Txn := { tx with req := rq 1 }
     missOut s id x tag r j ∧ txnOf s x tag = some u) ∧
    (let s : State := missed false
     let id : Nat := 7
     let x : Nat := 0
     let tag : Nat := 0
     let r : MpReq := ⟨7, .fill 3, false, 640, 128, 0, 128, 0, 0⟩
     let j : CacheJob := cj false .fetch
     let u : Txn := { tx with req := rq 0 }
     missOut s id x tag r j ∧ txnOf s x tag = some u) := by
  unfold missOut
  refine ⟨?_, ?_, ?_, ?_, ?_, ?_, ?_⟩ <;> decide +kernel

theorem wit_CacheCommands_1 :
    (let s : State := held1 true
     let m : Master := .cpa
     let w : Word32 := (BitVec.ofNat 32 (2 ^ 29))
     let key : Nat := 7
     let l : CLine := ⟨0, true⟩
     copOne s m w key l) ∧
    (let s : State := held1 false
     let m : Master := .cpa
     let w : Word32 := (BitVec.ofNat 32 (2 ^ 29))
     let key : Nat := 7
     let l : CLine := ⟨0, false⟩
     copOne s m w key l) ∧
    (let s : State := held1 false
     let m : Master := .cpa
     let w : Word32 := (BitVec.ofNat 32 (2 ^ 29))
     let key : Nat := 7
     let l : CLine := ⟨0, false⟩
     copOne s m w key l ∧ l.dirty = false) ∧
    (let s : State := held1 true
     let m : Master := .cpa
     let w : Word32 := (BitVec.ofNat 32 (2 ^ 29))
     let key : Nat := 7
     let l : CLine := ⟨0, true⟩
     copOne s m w key l ∧ l.dirty = true) ∧
    (let op := 2
     let s : State := { held1 true with mport := [⟨7, .wback 3, true, 0, 128, 0, 128, 0, 0⟩], cache := { (held1 true).cache with jobs := [{ cj false .land with line := 0, op := .cop 2, key := 7 }] } }
     let id : Nat := 7
     let key : Nat := 7
     let r : MpReq := ⟨7, .wback 3, true, 0, 128, 0, 128, 0, 0⟩
     let j : CacheJob := { cj false .land with line := 0, op := .cop 2, key := 7 }
     let l : CLine := ⟨0,true⟩
     (s.mport.find? fun r => r.id == id) = some r ∧ r.src = .wback j.id ∧ s.cache.jobs = [j] ∧ j.stage = .land ∧ j.op = .cop op ∧ j.key = key ∧
     s.cache.lines = [(key, l)]) ∧
    (let op := 3
     let s : State := { held1 true with mport := [⟨7, .wback 3, true, 0, 128, 0, 128, 0, 0⟩], cache := { (held1 true).cache with jobs := [{ cj false .land with line := 0, op := .cop 3, key := 7 }] } }
     let id : Nat := 7
     let key : Nat := 7
     let r : MpReq := ⟨7, .wback 3, true, 0, 128, 0, 128, 0, 0⟩
     let j : CacheJob := { cj false .land with line := 0, op := .cop 3, key := 7 }
     let l : CLine := ⟨0,true⟩
     (s.mport.find? fun r => r.id == id) = some r ∧ r.src = .wback j.id ∧ s.cache.jobs = [j] ∧ j.stage = .land ∧ j.op = .cop op ∧ j.key = key ∧
     s.cache.lines = [(key, l)]) ∧
    (let s : State := (held1 true).put pgCACHE CACHE_COP_STAT_BUSY 1
     let m : Master := .cpa
     mayWrite s m pgCACHE CACHE_COP_CMD true = true ∧ s.flag pgCACHE CACHE_COP_STAT_BUSY = true) ∧
    (let s : State := ({ held1 false with cache := { ({} : CacheSt) with cop := some (0, 1) } } : State)
     let u : State := ({ held1 false with cache := { ({} : CacheSt) with cop := some (0, 1) } } : State).cacheRun
     let lo : Nat := 0
     let n : Nat := 1
     u = s.cacheRun ∧ u.cache.cop = some (lo, n) ∧ copWaits u lo n = false ∧ u.get pgCACHE CACHE_COP_CMD_CNT = 0) := by
  unfold copOne
  refine ⟨?_, ?_, ?_, ?_, ?_, ?_, ?_, ?_⟩ <;> decide +kernel

theorem wit_CacheCommands_2 :
    (let s : State := ((({ held1 false with cache := { ({} : CacheSt) with cop := some (0, 1) } } : State).put pgCACHE CACHE_COP_CMD_CNT 1).put pgCACHE CACHE_COP_CMD_CORE 7).put pgCACHE CACHE_COP_CMD_COUNTER 47
     let u : State := (((({ held1 false with cache := { ({} : CacheSt) with cop := some (0, 1) } } : State).put pgCACHE CACHE_COP_CMD_CNT 1).put pgCACHE CACHE_COP_CMD_CORE 7).put pgCACHE CACHE_COP_CMD_COUNTER 47).cacheRun
     let lo : Nat := 0
     let n : Nat := 1
     let c : Nat := 383
     u = s.cacheRun ∧ u.cache.cop = some (lo, n) ∧ copWaits u lo n = false ∧ u.get pgCACHE CACHE_COP_CMD_CNT = 1 ∧
     u.get pgCACHE CACHE_COP_CMD_COUNTER < 48 ∧ c = 48 * u.get pgCACHE CACHE_COP_CMD_CORE + u.get pgCACHE CACHE_COP_CMD_COUNTER ∧ noWatch u c ∧
     parked u = false) ∧
    (let s : State := own 13
     let m : Master := .cpa
     let k : Nat := 255
     mayWrite s m pgCACHE CACHE_SEC_CMD true = true ∧ k < 256 ∧ s.handles = [] ∧ s.cache.lines = [] ∧ s.cache.jobs = [] ∧
     s.flag pgCACHE CACHE_COP_STAT_BUSY = false ∧ s.cache.switch = none ∧ ((List.range 16).any fun i => !rimUp s 0 i) = false) ∧
    (let s : State := (own 13).put pgCACHE CACHE_COP_STAT_BUSY 1
     let m : Master := .cpa
     let k : Nat := 255
     mayWrite s m pgCACHE CACHE_SEC_CMD true = true ∧ k < 256 ∧ s.handles = [] ∧ s.flag pgCACHE CACHE_COP_STAT_BUSY = true) ∧
    (let s : State := { (own 13).put pgCACHE CACHE_SEC_STAT_CUR 1 with cache := { ({} : CacheSt) with switch := some 254 } }
     let k : Nat := 254
     k < 256 ∧ s.cache.switch = some k ∧ s.cache.jobs = [] ∧ s.cache.lines = []) ∧
    (let s : State := own 13
     let m : Master := .cpa
     mayWrite s m pgCACHE CACHE_XBASE_LO true = true ∧ s.get pgCACHE CACHE_SEC_STAT_CUR = 0) ∧
    (let s : State := own 13
     let m : Master := .cpa
     mayWrite s m pgCACHE CACHE_XBASE_HI true = true ∧ s.get pgCACHE CACHE_SEC_STAT_CUR = 0) ∧
    (let s : State := held1 true
     let m : Master := .cpa
     let hi : Bool := true
     (mayWrite s m pgCACHE (if hi then CACHE_XBASE_HI else CACHE_XBASE_LO) true = true) ∧ s.get pgCACHE CACHE_SEC_STAT_CUR ≠ 0) ∧
    (let s : State := held1 true
     let m : Master := .cpa
     let hi : Bool := false
     (mayWrite s m pgCACHE (if hi then CACHE_XBASE_HI else CACHE_XBASE_LO) true = true) ∧ s.get pgCACHE CACHE_SEC_STAT_CUR ≠ 0) := by
  unfold noWatch
  refine ⟨?_, ?_, ?_, ?_, ?_, ?_, ?_, ?_⟩ <;> decide +kernel

theorem wit_MoverSubmission_1 :
    (let s : State := mvOn
     let c : Nat := 0
     let w0 : Nat := 5
     c < 16 ∧ subReady s c = true ∧ bits w0 31 28 = 0 ∧ w0 < 2 ^ 32) ∧
    (let s : State := mvOn
     let c : Nat := 0
     let w0 : Nat := 3*2^28
     c < 16 ∧ subReady s c = true ∧ 3 ≤ bits w0 31 28 ∧ w0 < 2 ^ 32) ∧
    (let s : State := mvOn
     let c : Nat := 0
     let w0 : Nat := 2^32-1
     c < 16 ∧ subReady s c = true ∧ 3 ≤ bits w0 31 28 ∧ w0 < 2 ^ 32) ∧
    (let s : State := mvOn
     let c : Nat := 0
     let w0 : Nat := 2^28
     c < 16 ∧ subReady s c = true ∧ bits w0 31 28 = 1 ∧ w0 < 2 ^ 32 ∧ chanState s c = 2) ∧
    (let s : State := (mvOn.put (portBase 56) PORT_PSTAT_STATE 1).put pgMOVER (MOVER_CH_CFG_CR_LOG2.at 64 0) 4
     let c : Nat := 0
     let w0 : Nat := 2^28
     let w3 : Nat := 9
     c < 16 ∧ subReady s c = true ∧ bits w0 31 28 = 1 ∧ w0 < 2 ^ 32 ∧ chanState s c ≠ 2 ∧ ringSize s c ≠ 0 ∧ w3 < 2 ^ 32) ∧
    (let s : State := (mvOn.put (portBase 56) PORT_PSTAT_STATE 5).put pgMOVER (MOVER_CH_CFG_CR_LOG2.at 64 0) 4
     let c : Nat := 0
     let w0 : Nat := 2^28
     let w3 : Nat := 9
     c < 16 ∧ subReady s c = true ∧ bits w0 31 28 = 1 ∧ w0 < 2 ^ 32 ∧ chanState s c ≠ 2 ∧ ringSize s c ≠ 0 ∧ w3 < 2 ^ 32) ∧
    (let s : State := mvOn.put pgMOVER (MOVER_CH_CFG_CR_LOG2.at 64 0) 4
     let c : Nat := 0
     let w0 : Nat := 2^29
     let w1 : Nat := 0
     c < 16 ∧ subReady s c = true ∧ bits w0 31 28 = 2 ∧ w0 < 2 ^ 32 ∧ w1 < 2 ^ 16) := by
  refine ⟨?_, ?_, ?_, ?_, ?_, ?_, ?_⟩ <;> decide +kernel

theorem wit_MoverSubmission_2 :
    (let s : State := mvOn.put pgMOVER (MOVER_CH_CFG_CR_LOG2.at 64 0) 4
     let c : Nat := 0
     let w0 : Nat := 2^29
     let w1 : Nat := 1
     c < 16 ∧ subReady s c = true ∧ bits w0 31 28 = 2 ∧ w0 < 2 ^ 32 ∧ w1 < 2 ^ 16) ∧
    (let s : State := mvOn
     let m : Master := .cpa
     let c : Nat := 0
     let w0 : Nat := 3*2^28
     c < 16 ∧ subReady s c = true ∧ bits w0 31 28 = 3 ∧ w0 < 2 ^ 32 ∧ mayWrite s m pgMOVER (MOVER_CH_POST3 + 64 * c) false = true ∧ chanState s c = 2) ∧
    (let s : State := (mvOn.put pgMBCTL (MAILBOX_CTL_EM_STAT_STATE.at 4 1) 2)
     let m : Master := .em1
     let c : Nat := 0
     let w0 : Nat := 3*2^28
     c < 16 ∧ subReady s c = true ∧ bits w0 31 28 = 3 ∧ w0 < 2 ^ 32 ∧ mayWrite s m pgMOVER (MOVER_CH_POST3 + 64 * c) false = true ∧ chanState s c = 2) ∧
    (let s : State := mvOn.put pgMOVER ⟨MOVER_CH_POST0, 31, 0⟩ (2 ^ 28)
     let m : Master := .cpa
     let c : Nat := 0
     c < 16 ∧ mayWrite s m pgMOVER (MOVER_CH_POST3 + 64 * c) false = true ∧ subReady s c = true ∧ chanState s c = 2 ∧
     bits (s.rd (pgMOVER + MOVER_CH_POST0 + 64 * c)).toNat 31 28 = 1) ∧
    (let s : State := mvOn.put (portBase 56) PORT_PSTAT_STATE 0
     let m : Master := .cpa
     let c : Nat := 0
     c < 16 ∧ mayWrite s m pgMOVER (MOVER_CH_POST3 + 64 * c) false = true ∧ subReady s c = false) ∧
    (let s : State := mvOn
     let m : Master := .cpa
     let c : Nat := 0
     let cons : Nat := 0
     c < 16 ∧ mayWrite s m pgMOVER (MOVER_CH_CRIDX + 64 * c) true = true ∧ cons < 2 ^ 16 ∧
     (chGet s c MOVER_CH_CRIDX_PROD + 2 ^ 16 - cons) % 2 ^ 16 ≤ ringSize s c) ∧
    (let s : State := mvOn
     let m : Master := .cpa
     let c : Nat := 0
     let cons : Nat := 1
     c < 16 ∧ mayWrite s m pgMOVER (MOVER_CH_CRIDX + 64 * c) true = true ∧ cons < 2 ^ 16 ∧
     ringSize s c < (chGet s c MOVER_CH_CRIDX_PROD + 2 ^ 16 - cons) % 2 ^ 16) := by
  refine ⟨?_, ?_, ?_, ?_, ?_, ?_, ?_⟩ <;> decide +kernel

theorem wit_DescriptorsStart :
    (let op := 0
     let s : State := (ch0 { mvOn.put pgHGUARD HANDLE_GUARD_PRIV_MASK_MV 1 with cfg := { Dev.kiln16 with optT := true } } (job0 (okW 0)) [])
     let c : Nat := 0
     let j : MvJob := job0 (okW 0)
     let l : List MvJob := []
     0 < descStarts.length ∧ mayStart s c op j l ∧ mvCheck s c j = stOK) ∧
    (let op := 9
     let s : State := (ch0 { mvOn.put pgHGUARD HANDLE_GUARD_PRIV_MASK_MV 1 with cfg := { Dev.kiln16 with optT := true } } (job0 (nopW 9)) [])
     let c : Nat := 0
     let j : MvJob := job0 (nopW 9)
     let l : List MvJob := []
     9 < descStarts.length ∧ mayStart s c op j l ∧ mvCheck s c j = stOK) ∧
    (let op := 1
     let s : State := (ch0 { mvOn.put pgHGUARD HANDLE_GUARD_PRIV_MASK_MV 1 with cfg := { Dev.kiln16 with optT := true } } (job0 (nopW 1)) [])
     let c : Nat := 0
     let j : MvJob := job0 (nopW 1)
     let l : List MvJob := []
     1 < descStarts.length ∧ mayStart s c op j l ∧ mvCheck s c j ≠ stOK) ∧
    (let op := 0
     let s : State := ch0 mvOn (job0 (nopW 15)) []
     let c : Nat := 0
     let j : MvJob := job0 (nopW 15)
     let l : List MvJob := []
     mayStart s c op j l ∧ mvCheck s c j ≠ stOK) ∧
    (let s : State := toRead mvOn (chn [0,0,0,0] true)
     let c : Nat := 0
     let h : Chain := chn [0,0,0,0] true
     mayFetch s c h ∧ h.scrub = true) ∧
    (let s : State := toRead mvOn (chn [2 ^ 27 + 2 ^ 26, 64, 1, 0] false)
     let c : Nat := 0
     let h : Chain := chn [2 ^ 27 + 2 ^ 26, 64, 1, 0] false
     mayFetch s c h ∧ h.scrub = false ∧ bit (h.words.getD 0 0) 27 = true ∧ bit (h.words.getD 0 0) 26 = true ∧ mpRoom s = true ∧ mpTurn s (c / 4) = true) ∧
    (let s : State := toRead mvOn (chn [2 ^ 18, 0, 0, 0] false)
     let c : Nat := 0
     let h : Chain := chn [2 ^ 18, 0, 0, 0] false
     mayFetch s c h ∧ h.scrub = false ∧ bit (h.words.getD 0 0) 27 = false ∧ (fetchEp h).handle ≠ 0 ∧ liveDesc s (fetchEp h).handle (fetchEp h).gen = none) ∧
    (let h := chn [2 ^ 18, 0, 0, 0] false
     let s := toRead (live1 mvOn) h
     let tid := chGet s 0 MOVER_CH_CFG_DTID
     let u := (s.mvSend 0 (.mover 0 1) .read false (epPiece s (fetchEp h) 0 64).layer (epPiece s (fetchEp h) 0 64).frame (cutSegs (epPiece s (fetchEp h) 0 64).byte 64 0) tid (hPolicy s (fetchEp h).handle) 2).2
     let c : Nat := 0
     mayFetch s c h ∧ h.scrub = false ∧ bit (h.words.getD 0 0) 27 = false ∧ (fetchEp h).handle ≠ 0 ∧ epFits s (fetchEp h) 64 = true ∧
     tid = chGet s c MOVER_CH_CFG_DTID ∧ handleCheck s c { words := [tid * 2 ^ 22], chain := h.acc } (fetchEp h).handle (fetchEp h).gen 0 = stOK ∧
     s.mvSend c (.mover c 1) .read false (epPiece s (fetchEp h) 0 64).layer (epPiece s (fetchEp h) 0 64).frame (cutSegs (epPiece s (fetchEp h) 0 64).byte 64 0) tid (hPolicy s (fetchEp h).handle) 2 = (true, u)) := by
  unfold mayFetch mayStart
  refine ⟨?_, ?_, ?_, ?_, ?_, ?_, ?_, ?_⟩
  · decide +kernel
  · decide +kernel
  · decide +kernel
  · decide +kernel
  · decide +kernel
  · decide +kernel
  · decide +kernel
  · exact ⟨by decide +kernel, by decide +kernel, by decide +kernel, by decide +kernel, by decide +kernel, by decide +kernel, by decide +kernel, by exact pair_eq _ _ (by decide +kernel)⟩

theorem wit_MoverRuns_1 :
    (let j : MvJob := { job0 (nopW 0) with started := true, chunk := 1 }
     let s : State := alone j
     let e : Nat := 0
     let c : Nat := 0
     let k : MvChan := { ({} : MvChan) with jobs := [j] }
     let l : List MvJob := []
     e < 4 ∧ c / 4 = e ∧ aloneIn s c k ∧ k.jobs = j :: l ∧ k.recs = [] ∧ (portOf s (56 + c)).broken = false ∧ mvReady s c j = true ∧ j.op = 0 ∧
     bit (j.d 12) 29 = false) ∧
    (let j : MvJob := { job0 (nopW 0) with started := true, need := true }
     let s : State := (ch0 mvOn j []).put pgREGUL (REGUL_TCFG_CLASS.at 16 0) 0
     let c : Nat := 0
     let l : List MvJob := []
     c < 16 ∧ (chanOf s c).jobs = j :: l ∧ j.started = true ∧ j.ended = false ∧ j.out = false ∧ j.need = true ∧ j.chunk = 0 ∧
     (portOf s (56 + c)).broken = false ∧ chunkOf s c = none ∧ tidClass s j.tid = 0) ∧
    (let s : State := alone { app0 with slot2 := none }
     let c : Nat := 0
     let j : MvJob := { app0 with slot2 := none }
     let l : List MvJob := []
     atAppend s c j l ∧ (appendOf s j).1 = none ∧ j.slot2 = none) ∧
    (let s : State := ((rings (alone app0)).put pgMOVER ⟨MOVER_RETMAP, 31, 31⟩ 1)
     let c : Nat := 0
     let ring : Nat := 0
     let k : Nat := 0
     let j : MvJob := app0
     let l : List MvJob := []
     atAppend s c j l ∧ (appendOf s j).1 = some (.inl ring) ∧ ringOn s ring = true ∧ j.vlines < slotLines s ring ∧ j.slot2 = some (ring, k) ∧
     tagFull s ring k = false) ∧
    (let s : State := ((rings (alone ({ app0 with slot2 := none }))).put pgMOVER ⟨MOVER_RETMAP, 31, 31⟩ 1)
     let u : State := (((rings (alone ({ app0 with slot2 := none }))).put pgMOVER ⟨MOVER_RETMAP, 31, 31⟩ 1).takeCursor 0 true).2
     let c : Nat := 0
     let ring : Nat := 0
     let k : Nat := 0
     let j : MvJob := { app0 with slot2 := none }
     let l : List MvJob := []
     atAppend s c j l ∧ (appendOf s j).1 = some (.inl ring) ∧ ringOn s ring = true ∧ j.vlines < slotLines s ring ∧ j.slot2 = none ∧
     s.takeCursor ring true = (k, u) ∧ tagFull u ring k = false) ∧
    (let s : State := (((rings (alone app0)).put pgMOVER ⟨MOVER_RETMAP, 31, 31⟩ 1)).setTag 0 true
     let c : Nat := 0
     let ring : Nat := 0
     let k : Nat := 0
     let j : MvJob := app0
     let l : List MvJob := []
     atAppend s c j l ∧ (appendOf s j).1 = some (.inl ring) ∧ ringOn s ring = true ∧ j.vlines < slotLines s ring ∧ j.slot2 = some (ring, k) ∧
     tagFull s ring k = true ∧ j.deadline = none ∧ s.now < slotDeadline s ring) ∧
    (let s : State := { ((((alone app0).put pgMOVER ⟨MOVER_RETMAP, 31, 30⟩ 3).put pgMOVER MOVER_CRED_TMO_TICKS 5) : State) with cfg := { Dev.kiln16 with links := 2 } }
     let c : Nat := 0
     let a : Nat := 0
     let j : MvJob := app0
     let l : List MvJob := []
     atAppend s c j l ∧ (appendOf s j).1 = some (.inr a) ∧ s.get pgMOVER (MOVER_CA_CRED_CREDITS.at 8 a) = 0 ∧ j.deadline = none ∧
     s.get pgMOVER MOVER_CRED_TMO_TICKS ≠ 0) := by
  unfold atAppend aloneIn
  refine ⟨?_, ?_, ?_, ?_, ?_, ?_, ?_⟩ <;> decide +kernel

theorem wit_MoverRuns_2 :
    (let s : State := { ((((alone { app0 with deadline := some 0, slot2 := none }).put pgMOVER ⟨MOVER_RETMAP, 31, 30⟩ 3).put pgMOVER MOVER_CRED_TMO_TICKS 5) : State) with cfg := { Dev.kiln16 with links := 2 } }
     let c : Nat := 0
     let a : Nat := 0
     let d : Nat := 0
     let j : MvJob := { app0 with deadline := some 0, slot2 := none }
     let l : List MvJob := []
     (chanOf s c).jobs = j :: l ∧ j.started = true ∧ j.ended = false ∧ 8 ≤ j.op ∧ j.sub = 3 ∧ j.status = 0 ∧ (appendOf s j).1 = some (.inr a) ∧
     j.slot2 = none ∧ j.deadline = some d ∧ d ≤ s.now) ∧
    (let r : MpReq := ⟨5, .image, false, 0, 64, 0, 64, 0, 0⟩
     let s : State := { up with mport := [r] }
     let id : Nat := 5
     (s.mport.find? fun r => r.id == id) = some r ∧ (r.src = .image ∨ (∃ c u, r.src = .chan c u))) ∧
    (let r : MpReq := ⟨5, (.chan 15 1), false, 0, 64, 0, 64, 0, 0⟩
     let s : State := { up with mport := [r] }
     let id : Nat := 5
     (s.mport.find? fun r => r.id == id) = some r ∧ (r.src = .image ∨ (∃ c u, r.src = .chan c u))) ∧
    (let j : MvJob := { job0 [0, 0, 0, 0, 3 * 2 ^ 30, 0, 0, 0, 3 * 2 ^ 30, 0, 0, 0, 0, 0, 0, 0] with started := true, ended := true }
     let s : State := alone j
     let c : Nat := 0
     let k : MvChan := { ({} : MvChan) with jobs := [j] }
     let l : List MvJob := []
     c < 16 ∧ aloneIn s c k ∧ k.jobs = j :: l ∧ chanState s c = 2 ∧ (portOf s (56 + c)).broken = false ∧ recWait s c = false ∧ j.words ≠ [] ∧
     j.scrub = false ∧ j.started = true ∧ j.ended = true ∧ j.out = false ∧ j.rem = 0 ∧ j.acted = 0 ∧ j.status = 0 ∧ j.energy = 0 ∧
     bits (j.d 12) 31 29 = 0 ∧ bits (j.d 12) 26 24 = 0) ∧
    (let j : MvJob := { job0 [0, 0, 0, 0, 3 * 2 ^ 30, 0, 0, 0, 3 * 2 ^ 30, 0, 0, 0, 2^31 + 47 * 2^18, 0, 0, 0] with started := true, ended := true }
     let s : State := alone j
     let c : Nat := 0
     let n : Nat := 47
     let k : MvChan := { ({} : MvChan) with jobs := [j] }
     let l : List MvJob := []
     c < 16 ∧ aloneIn s c k ∧ k.jobs = j :: l ∧ chanState s c = 2 ∧ (portOf s (56 + c)).broken = false ∧ recWait s c = false ∧ j.words ≠ [] ∧
     j.scrub = false ∧ j.started = true ∧ j.ended = true ∧ j.out = false ∧ j.rem = 0 ∧ j.acted = 0 ∧ j.status = 0 ∧ j.energy = 0 ∧
     bits (j.d 12) 31 29 = 4 ∧ bits (j.d 12) 26 24 = 0 ∧ n = bits (j.d 12) 23 18 ∧ n < 48 ∧ noWatch s (48 * (c / 2) + n) ∧ parked s = false) ∧
    (let s : State := (mvOn.put pgMOVER (MOVER_CA_CRED_CREDITS.at 8 63) 7)
     let m : Master := .cpa
     let a : Nat := 63
     a < 64 ∧ mayWrite s m pgMOVER (MOVER_CA_CFG + 8 * a) false = true ∧ s.cfg.optT = true) := by
  unfold aloneIn noWatch
  refine ⟨?_, ?_, ?_, ?_, ?_, ?_⟩
  · decide +kernel
  · exact ⟨by decide +kernel, by first | exact Or.inl (by decide) | exact Or.inr ⟨_, _, rfl⟩⟩
  · exact ⟨by decide +kernel, by first | exact Or.inl (by decide) | exact Or.inr ⟨_, _, rfl⟩⟩
  · decide +kernel
  · decide +kernel
  · decide +kernel

theorem wit_LinkBlocks_1 :
    (let s : State := lkB 3 (controlBlock 0 (0))
     let p : Nat := 0
     let b : Nat := (controlBlock 0 (0))
     let rest : List Nat := []
     cbFirst s p 0 b rest ∧ cbSound b = true) ∧
    (let s : State := lkB 4 (controlBlock 15 (7))
     let p : Nat := 0
     let b : Nat := (controlBlock 15 (7))
     let rest : List Nat := []
     cbFirst s p 0 b rest ∧ cbSound b = true) ∧
    (let q : List LinkTx := [waitTx 5]
     let s : State := (lkB 4 (controlBlock 1 (5 + 4096*77))).lport 0 fun l => { l with replay := q }
     let p : Nat := 0
     let b : Nat := (controlBlock 1 (5 + 4096*77))
     let ack : Nat := 5
     let rest : List Nat := []
     let x : LinkTx := q.headD (waitTx 0)
     let l : List LinkTx := q.drop 1
     cbFirst s p 1 b rest ∧ cbSound b = true ∧ (lkPort s p).txq = [] ∧ (lkPort s p).replay = x :: l ∧ ack = cbData b % 4096 ∧
     (ack + 4097 - x.pk.lseq) % 4096 ≤ l.length + 1) ∧
    (let q : List LinkTx := [waitTx 4095, waitTx 0]
     let s : State := (lkB 4 (controlBlock 1 (4095 + 4096*77))).lport 0 fun l => { l with replay := q }
     let p : Nat := 0
     let b : Nat := (controlBlock 1 (4095 + 4096*77))
     let ack : Nat := 4095
     let rest : List Nat := []
     let x : LinkTx := q.headD (waitTx 0)
     let l : List LinkTx := q.drop 1
     cbFirst s p 1 b rest ∧ cbSound b = true ∧ (lkPort s p).txq = [] ∧ (lkPort s p).replay = x :: l ∧ ack = cbData b % 4096 ∧
     (ack + 4097 - x.pk.lseq) % 4096 ≤ l.length + 1) ∧
    (let s : State := (lkB 4 (controlBlock 2 (5))).lport 0 fun l => { l with replay := [waitTx 4, waitTx 5, waitTx 6] }
     let p : Nat := 0
     let b : Nat := (controlBlock 2 (5))
     let rest : List Nat := []
     cbFirst s p 2 b rest ∧ cbSound b = true ∧ (lkPort s p).txq = []) ∧
    (let s : State := (lkB 3 (controlBlock 2 (5))).lport 0 fun l => { l with replay := [waitTx 4, waitTx 5, waitTx 6] }
     let p : Nat := 0
     let b : Nat := (controlBlock 2 (5))
     let rest : List Nat := []
     cbFirst s p 2 b rest ∧ cbSound b = true ∧ (lkPort s p).txq = []) ∧
    (let s : State := (((lkB 4 (controlBlock 3 (1))).setLanes 0 3 0).put pgLINK (LINK_P_CTL_MIN_LANES.at 256 0) 1)
     let p : Nat := 0
     let b : Nat := (controlBlock 3 (1))
     let j : Nat := 1
     let keep : Nat := 1
     let l : List Nat := []
     let rest : List Nat := []
     cbFirst s p 3 b rest ∧ cbSound b = true ∧
     (List.range 8).filter (fun j => bit (lpGet s p LINK_P_STAT_TX_LANES) j && !bit (cbData b % 256) j) = j :: l ∧
     keep = (j :: l).foldl (fun m k => m - 2 ^ k) (lpGet s p LINK_P_STAT_TX_LANES) ∧ keep < 256 ∧ (lkPort s p).txq = [] ∧ (lkPort s p).replay = []) ∧
    (let s : State := (((lkB 4 (controlBlock 3 (2))).setLanes 0 3 0).put pgLINK (LINK_P_CTL_MIN_LANES.at 256 0) 1)
     let p : Nat := 0
     let b : Nat := (controlBlock 3 (2))
     let j : Nat := 0
     let keep : Nat := 2
     let l : List Nat := []
     let rest : List Nat := []
     cbFirst s p 3 b rest ∧ cbSound b = true ∧
     (List.range 8).filter (fun j => bit (lpGet s p LINK_P_STAT_TX_LANES) j && !bit (cbData b % 256) j) = j :: l ∧
     keep = (j :: l).foldl (fun m k => m - 2 ^ k) (lpGet s p LINK_P_STAT_TX_LANES) ∧ keep < 256 ∧ (lkPort s p).txq = [] ∧ (lkPort s p).replay = []) ∧
    (let s : State := lkB 4 (controlBlock 4 (255))
     let p : Nat := 0
     let b : Nat := (controlBlock 4 (255))
     let rest : List Nat := []
     cbFirst s p 4 b rest ∧ cbSound b = true) := by
  unfold cbFirst
  refine ⟨?_, ?_, ?_, ?_, ?_, ?_, ?_, ?_, ?_⟩ <;> decide +kernel

theorem wit_LinkBlocks_2 :
    (let s : State := lkB 3 (controlBlock 5 (0x1FF))
     let p : Nat := 0
     let b : Nat := (controlBlock 5 (0x1FF))
     let rest : List Nat := []
     cbFirst s p 5 b rest ∧ cbSound b = true ∧ (lkPort s p).txq = []) ∧
    (let s : State := lkB 5 (controlBlock 5 (0x1FF))
     let p : Nat := 0
     let b : Nat := (controlBlock 5 (0x1FF))
     let rest : List Nat := []
     cbFirst s p 5 b rest ∧ cbSound b = true ∧ (lkPort s p).txq = []) ∧
    (let k := 0
     let s : State := lkB 4 ((controlBlock 0 (5))+2)
     let p : Nat := 0
     let b : Nat := ((controlBlock 0 (5))+2)
     let rest : List Nat := []
     cbFirst s p k b rest ∧ cbSound b = false) ∧
    (let k := 5
     let s : State := lkB 4 ((controlBlock 5 (5))+2)
     let p : Nat := 0
     let b : Nat := ((controlBlock 5 (5))+2)
     let rest : List Nat := []
     cbFirst s p k b rest ∧ cbSound b = false) ∧
    (let s : State := ((lkUp 0 4).setLanes 0 255 1)
     let p : Nat := 0
     let lanes : List Nat := [1024 ^ 514 * packElems 10 badTail]
     p < 4 ∧ lpState s p = 4 ∧ (lkPort s p).waitL = false ∧ rsDecode (wordIn s p lanes) = none) ∧
    (let s : State := lkUp 0 3
     let p : Nat := 0
     let lanes : List Nat := []
     let word : List Nat := List.replicate 544 0
     let blocks : List Nat := (scrambleAll true (lkPort s 0).descr (symsToBlocks word)).2
     let at_ : List Nat := []
     hears s p = true ∧ (lkPort s p).lock = true ∧ rsDecode (wordIn s p lanes) = some (word, at_) ∧
     blocks = (scrambleAll true (lkPort s p).descr (symsToBlocks word)).2) ∧
    (let s : State := ((lkUp 0 4).setLanes 0 255 10)
     let p : Nat := 0
     let lane : Nat := 3
     let lanes : List Nat := []
     let word : List Nat := List.replicate 544 0
     let at_ : List Nat := []
     hears s p = true ∧ rsDecode (wordIn s p lanes) = some (word, at_) ∧ lane ∈ activeLanes s p lanes) ∧
    (let s : State := lkUp 0 3
     let p : Nat := 0
     let lanes : List Nat := []
     let word : List Nat := List.replicate 544 0
     hears s p = true ∧ rsDecode (wordIn s p lanes) = some (word, [])) := by
  unfold cbFirst
  refine ⟨?_, ?_, ?_, ?_, ?_, ?_, ?_, ?_⟩
  · decide +kernel
  · decide +kernel
  · decide +kernel
  · decide +kernel
  · exact ⟨by decide +kernel, by decide +kernel, by decide +kernel, by exact (congrArg rsDecode (by decide +kernel)).trans (decode_uncorrectable 514 badTail (by decide +kernel) (by decide +kernel))⟩
  · exact ⟨by decide +kernel, by decide +kernel, by exact (congrArg rsDecode (word_zeros _ _)).trans (decode_zeros _), by rfl⟩
  · exact ⟨by decide +kernel, by exact (congrArg rsDecode (word_zeros _ _)).trans (decode_zeros _), by decide +kernel⟩
  · exact ⟨by decide +kernel, by exact (congrArg rsDecode (word_zeros _ _)).trans (decode_zeros _)⟩

theorem wit_LinkPortStates_1 :
    (let s : State := (lkUp 0 0)
     let m : Master := .cpa
     let p : Nat := 0
     p < 4 ∧ p < s.cfg.links ∧ mayWrite s m pgLINK (LINK_P_CTL + 256 * p) true = true ∧ lpState s p = 0) ∧
    (let s : State := lkUp 1 1
     let m : Master := .cpa
     let p : Nat := 1
     p < 4 ∧ p < s.cfg.links ∧ mayWrite s m pgLINK (LINK_P_CTL + 256 * p) true = true ∧ 1 ≤ lpState s p ∧ lpState s p ≤ 4 ∧ lpGet s p LINK_P_CTL_EN = 1) ∧
    (let s : State := lkUp 1 4
     let m : Master := .cpa
     let p : Nat := 1
     p < 4 ∧ p < s.cfg.links ∧ mayWrite s m pgLINK (LINK_P_CTL + 256 * p) true = true ∧ 1 ≤ lpState s p ∧ lpState s p ≤ 4 ∧ lpGet s p LINK_P_CTL_EN = 1) ∧
    (let s : State := (lkUp 1 4).setLanes 1 3 3
     let m : Master := .cpa
     let p : Nat := 1
     p < 4 ∧ p < s.cfg.links ∧ mayWrite s m pgLINK (LINK_P_CTL + 256 * p) false = true ∧ (lpState s p = 4 ∨ lpState s p = 6) ∧ lpGet s p LINK_P_CTL_EN = 1) ∧
    (let s : State := (lkUp 1 6).setLanes 1 3 3
     let m : Master := .cpa
     let p : Nat := 1
     p < 4 ∧ p < s.cfg.links ∧ mayWrite s m pgLINK (LINK_P_CTL + 256 * p) false = true ∧ (lpState s p = 4 ∨ lpState s p = 6) ∧ lpGet s p LINK_P_CTL_EN = 1) ∧
    (let s : State := (lkUp 0 5).put pgLINK (LINK_P_CTL_EN.at 256 0) 0
     let p : Nat := 0
     p < 4 ∧ lpState s p = 5 ∧ (lkPort s p).replay = [] ∨ (lkPort s p).drainAt + hundredUs ≤ s.now ∧ (lkPort s p).txq = [] ∧ lpGet s p LINK_P_CTL_EN = 0) ∧
    (let s : State := { (((lkUp 0 5).put pgLINK (LINK_P_CTL_EN.at 256 0) 0).lport 0 fun l => { l with replay := [waitTx 1] }) with now := 10^9 }
     let p : Nat := 0
     p < 4 ∧ lpState s p = 5 ∧ (lkPort s p).replay = [] ∨ (lkPort s p).drainAt + hundredUs ≤ s.now ∧ (lkPort s p).txq = [] ∧ lpGet s p LINK_P_CTL_EN = 0) ∧
    (let s : State := lkUp 0 1
     let p : Nat := 0
     let tx : Nat := 255
     let rx : Nat := 255
     p < 4 ∧ lpState s p = 1 ∧ tx < 256 ∧ rx < 256 ∧ minLanes s p ≤ laneCount tx ∧ minLanes s p ≤ laneCount rx) ∧
    (let s : State := (lkUp 0 1).put pgLINK (LINK_P_CTL_MIN_LANES.at 256 0) 1
     let p : Nat := 0
     let tx : Nat := 128
     let rx : Nat := 1
     p < 4 ∧ lpState s p = 1 ∧ tx < 256 ∧ rx < 256 ∧ minLanes s p ≤ laneCount tx ∧ minLanes s p ≤ laneCount rx) ∧
    (let s : State := lkUp 0 1
     let p : Nat := 0
     let tx : Nat := 0
     let rx : Nat := 255
     p < 4 ∧ lpState s p = 1 ∧ tx < 256 ∧ rx < 256 ∧ (laneCount tx < minLanes s p ∨ laneCount rx < minLanes s p) ∧ (lkPort s p).txq = [] ∧
     (lkPort s p).replay = []) := by
  refine ⟨?_, ?_, ?_, ?_, ?_, ?_, ?_, ?_, ?_, ?_⟩ <;> decide +kernel

theorem wit_LinkPortStates_2 :
    (let s : State := lkUp 0 2
     let p : Nat := 0
     p < 4 ∧ lpState s p = 2) ∧
    (let s : State := (lkUp 0 2).lport 0 fun l => { l with replay := [waitTx 3] }
     let p : Nat := 0
     p < 4 ∧ lpState s p = 2) ∧
    (let s : State := lkUp 0 2
     let p : Nat := 0
     let i := Instr.linkAlignDone 0 false
     p < 4 ∧ (lkPort s p).txq = [] ∧ (lkPort s p).replay = [] ∧
     (i = .linkAlignDone p false ∧ lpState s p = 2) ∨ (i = .linkSilenceTimeout p ∧ lpState s p = 4 ∧ (lkPort s p).heard + hundredUs ≤ s.now) ∨ (i = .retryRepeat p ∧ lpState s p = 4 ∧ (lkPort s p).waitL = true ∧ (lkPort s p).lock = true ∧ (lkPort s p).retryAt + usTicks ≤ s.now ∧ max 1 (s.get pgLINK LINK_LK_CFG_RETRY_MAX) ≤ (lkPort s p).retries)) ∧
    (let s : State := { ((lkUp 0 4).lport 0 fun l => { l with waitL := true, retries := 20 }) with now := 10^9 }
     let p : Nat := 0
     let i := Instr.retryRepeat 0
     p < 4 ∧ (lkPort s p).txq = [] ∧ (lkPort s p).replay = [] ∧
     (i = .linkAlignDone p false ∧ lpState s p = 2) ∨ (i = .linkSilenceTimeout p ∧ lpState s p = 4 ∧ (lkPort s p).heard + hundredUs ≤ s.now) ∨ (i = .retryRepeat p ∧ lpState s p = 4 ∧ (lkPort s p).waitL = true ∧ (lkPort s p).lock = true ∧ (lkPort s p).retryAt + usTicks ≤ s.now ∧ max 1 (s.get pgLINK LINK_LK_CFG_RETRY_MAX) ≤ (lkPort s p).retries)) ∧
    (let s : State := { ((lkUp 0 4).lport 0 fun l => { l with waitL := true }) with now := 10^5 }
     let p : Nat := 0
     p < 4 ∧ lpState s p = 4 ∧ (lkPort s p).waitL = true ∧ (lkPort s p).lock = true ∧ (lkPort s p).retryAt + usTicks ≤ s.now ∧
     (lkPort s p).retries < max 1 (s.get pgLINK LINK_LK_CFG_RETRY_MAX)) ∧
    (let s : State := ((lkUp 0 4).setLanes 0 3 3).put pgLINK (LINK_P_CTL_MIN_LANES.at 256 0) 1
     let p : Nat := 0
     let lane : Nat := 1
     p < 4 ∧ lane < 8 ∧ lpState s p = 4 ∧ (lkPort s p).dropMask = none ∧ bit (lpGet s p LINK_P_STAT_RX_LANES) lane = true ∧
     minLanes s p ≤ laneCount (lpGet s p LINK_P_STAT_RX_LANES - 2 ^ lane)) ∧
    (let s : State := (lkUp 0 4).put pgLINK (LINK_P_SERTH_THRESH.at 256 0) 5
     let p : Nat := 0
     p < 4 ∧ lpState s p = 4 ∧ (∀ j < 8, laneAbove s p j = true → (lkPort s p).serHigh.getD j 0 < 2)) ∧
    (let s : State := ((lkUp 0 4).put pgLINK (LINK_P_SERTH_THRESH.at 256 0) 5).lport 0 fun l => { l with serMark := [6,0,0,5,7], serHigh := [1,1,2,1,0] }
     let p : Nat := 0
     p < 4 ∧ lpState s p = 4 ∧ (∀ j < 8, laneAbove s p j = true → (lkPort s p).serHigh.getD j 0 < 2)) ∧
    (let s : State := ((((lkUp 0 4).setLanes 0 3 3).put pgLINK (LINK_P_CTL_MIN_LANES.at 256 0) 1).put pgLINK (LINK_P_SERTH_THRESH.at 256 0) 5).lport 0 fun l => { l with serMark := [0,6], serHigh := [0,2] }
     let p : Nat := 0
     let lane : Nat := 1
     p < 4 ∧ lpState s p = 4 ∧ lane < 8 ∧ laneAbove s p lane = true ∧ 2 ≤ (lkPort s p).serHigh.getD lane 0 ∧
     (∀ j < 8, j ≠ lane → laneAbove s p j = false) ∧ (lkPort s p).dropMask = none ∧ bit (lpGet s p LINK_P_STAT_RX_LANES) lane = true ∧
     minLanes s p ≤ laneCount (lpGet s p LINK_P_STAT_RX_LANES - 2 ^ lane)) ∧
    (let s : State := (lkUp 0 4).lport 0 fun l => { l with lock := false }
     let p : Nat := 0
     p < 4 ∧ lpState s p = 4 ∧ (lkPort s p).lock = false ∧ (lkPort s p).dropMask = none) := by
  refine ⟨?_, ?_, ?_, ?_, ?_, ?_, ?_, ?_, ?_, ?_⟩ <;> decide +kernel

theorem wit_LinkChainAndTime_1 :
    (let s : State := lkUp 0 4
     let m : Master := .cpa
     let a : Nat := 63
     a < 64 ∧ mayWrite s m pgLINK (LINK_FWD + 4 * a) true = true) ∧
    (let s : State := ((lkUp 0 4).put pgLINK LINK_LK_ID_MGR 1)
     let m : Master := .cpa
     mayWrite s m pgLINK LINK_ENUM_CTL false = true ∧ isManager s = true) ∧
    (let s : State := ((lkUp 0 4).put pgLINK LINK_LK_ID_MGR 1).lnk fun l => { l with chainAt := some (3, 0) }
     let w : Nat := (chainFrame 3 0 0)
     frameIn s 3 w ∧ isManager s = true ∧ chainWaits s 3 = true) ∧
    (let s : State := lkUp 0 4
     let w : Nat := (chainFrame 3 0 0)
     frameIn s 3 w ∧ isManager s = false) ∧
    (let s : State := ((lkUp 0 4).put pgLINK LINK_LK_ID_MGR 1).lnk fun l => { l with chainAt := some (1, 0) }
     let w : Nat := (chainFrame 1 64 0)
     frameIn s 1 w ∧ isManager s = true ∧ chainWaits s 1 = true ∧ frameAddr w < 65) ∧
    (let s : State := ((lkUp 0 4).put pgLINK LINK_LK_ID_MGR 1).lnk fun l => { l with chainAt := some (1, 0) }
     let w : Nat := (chainFrame 1 65 0)
     frameIn s 1 w ∧ isManager s = true ∧ chainWaits s 1 = true ∧ 65 ≤ frameAddr w) ∧
    (let s : State := lkUp 0 4
     let w : Nat := (chainFrame 1 63 0)
     frameIn s 1 w ∧ isManager s = false ∧ frameAddr w < 64) ∧
    (let s : State := lkUp 0 4
     let w : Nat := (chainFrame 1 64 0)
     frameIn s 1 w ∧ isManager s = false ∧ 64 ≤ frameAddr w) ∧
    (let s : State := ((lkUp 0 4).put pgLINK LINK_LK_ID_MGR 1).lnk fun l => { l with chainAt := some (2, 0) }
     let w : Nat := (chainFrame 2 0 64)
     frameIn s 2 w ∧ isManager s = true ∧ chainWaits s 2 = true) ∧
    (let s : State := lkUp 0 4
     let w : Nat := (chainFrame 2 0 64)
     frameIn s 2 w ∧ isManager s = false) := by
  unfold frameIn
  refine ⟨?_, ?_, ?_, ?_, ?_, ?_, ?_, ?_, ?_, ?_⟩ <;> decide +kernel

theorem wit_LinkChainAndTime_2 :
    (let s : State := lkUp 0 4
     let w : Nat := ((chainFrame 3 1 1) ^^^ 1)
     let i := .chainClear ((chainFrame 3 1 1) ^^^ 1)
     s.cfg.links ≠ 0 ∧ frameSound w = false ∧ i ∈ [Instr.chainClear w, .chainEnum w, .chainDone w]) ∧
    (let s : State := lkUp 0 4
     let w : Nat := ((chainFrame 2 1 1) ^^^ 1)
     let i := .chainDone ((chainFrame 2 1 1) ^^^ 1)
     s.cfg.links ≠ 0 ∧ frameSound w = false ∧ i ∈ [Instr.chainClear w, .chainEnum w, .chainDone w]) ∧
    (let s : State := lkUp 0 4
     let w : Nat := ((chainFrame 7 1 1))
     let i := .chainClear ((chainFrame 7 1 1))
     s.cfg.links ≠ 0 ∧ frameSound w = true ∧ frameOp w ∉ [1, 2, 3] ∧ i ∈ [Instr.chainClear w, .chainEnum w, .chainDone w]) ∧
    (let s : State := lkUp 0 4
     let w : Nat := ((chainFrame 7 1 1))
     let i := .chainDone ((chainFrame 7 1 1))
     s.cfg.links ≠ 0 ∧ frameSound w = true ∧ frameOp w ∉ [1, 2, 3] ∧ i ∈ [Instr.chainClear w, .chainEnum w, .chainDone w]) ∧
    (let s : State := { ((lkUp 0 4).put pgLINK LINK_LK_ID_MGR 1).lnk fun l => { l with chainAt := some (1, 0) } with now := 10^9 }
     let op : Nat := 1
     let tm : Nat := 0
     s.link.chainAt = some (op, tm) ∧ tm + hundredUs * s.get pgLINK LINK_ENUM_CTL_TMO ≤ s.now) ∧
    (let s : State := lkUp 0 4
     let m : Master := .cpa
     mayWrite s m pgLINK LINK_TS_CTL false = true ∧ isManager s = false) ∧
    (let s : State := { (domain2 (lkUp 0 4)).put pgLINK LINK_ENUM_STAT_ADDR 1 with now := 2^33+5 }
     let m : Master := .cpa
     let p : Nat := 0
     mayWrite s m pgLINK LINK_TS_CTL false = true ∧ isManager s = false ∧ wayTo s 0 p) ∧
    (let s : State := { (lkUp 0 4).put pgLINK LINK_TS_CTL_PERIOD 1 with now := 10^6 }
     s.cfg.links ≠ 0 ∧ s.get pgLINK LINK_TS_CTL_PERIOD ≠ 0 ∧ isManager s = false ∧ s.link.tsAt + s.get pgLINK LINK_TS_CTL_PERIOD * msTicks ≤ s.now) ∧
    (let s : State := { (((lkUp 0 4).put pgLINK LINK_E2E_TMO_TICKS 5).lnk fun l => { l with ts := some (0,0) }) with now := 5 }
     let t1 : Nat := 0
     let tm : Nat := 0
     s.get pgLINK LINK_E2E_TMO_TICKS ≠ 0 ∧ s.link.ts = some (t1, tm) ∧ tm + s.get pgLINK LINK_E2E_TMO_TICKS ≤ s.now) ∧
    (let s : State := { (((lkUp 0 4).put pgLINK LINK_E2E_TMO_TICKS 5).lnk fun l => { l with sent := [⟨7, .data 0 0, 1, 1, 0, none, 1⟩] }) with now := 5 }
     let etag : Nat := 7
     let e : SentPk := ⟨7, .data 0 0, 1, 1, 0, none, 1⟩
     s.get pgLINK LINK_E2E_TMO_TICKS ≠ 0 ∧ etag ≠ 0 ∧ (s.link.sent.find? fun e => e.etag == etag) = some e ∧
     e.time + s.get pgLINK LINK_E2E_TMO_TICKS ≤ s.now ∧ e.who ≠ .other) := by
  unfold wayTo
  refine ⟨?_, ?_, ?_, ?_, ?_, ?_, ?_, ?_, ?_, ?_⟩ <;> decide +kernel

theorem wit_PacketsTaken :
    (let pk : Packet := pkt 1 0 1 255
     let s := inbound (own 15) pk
     let rest : List Nat := []
     let u := (takeHead (taken s 0 pk rest) 0 (stampIn s pk)).getD up
     let ty := 1
     let p : Nat := 0
     pk.ptype = ty ∧ comesIn s p pk rest ∧ takeHead (taken s p pk rest) p (stampIn s pk) = some u ∧ restful u ∧ u.cfg.links ≠ 0 ∧
     (∀ q < 5, q ≠ p → (lkPort u q).rxq = []) ∧ (lkPort u p).rxq = [stampIn s pk]) ∧
    (let pk : Packet := pkt 13 3 0 255
     let s := inbound (own 15) pk
     let rest : List Nat := []
     let u := (takeHead (taken s 0 pk rest) 0 (stampIn s pk)).getD up
     let ty := 13
     let p : Nat := 0
     pk.ptype = ty ∧ comesIn s p pk rest ∧ takeHead (taken s p pk rest) p (stampIn s pk) = some u ∧ restful u ∧ u.cfg.links ≠ 0 ∧
     (∀ q < 5, q ≠ p → (lkPort u q).rxq = []) ∧ (lkPort u p).rxq = [stampIn s pk]) ∧
    (let pk : Packet := pkt 3 0 0 255
     let s := (own 15).lnk fun l => { l with here := [pk] }
     let rest : List Packet := []
     let S := (s.lnk fun l => { l with here := rest }).lport 4 (fun l => { l with rxq := [stampIn s pk] })
     let u := (takeHead S 4 (stampIn s pk)).getD up
     let ty := 3
     pk.ptype = ty ∧ s.link.here = pk :: rest ∧ s.cfg.links ≠ 0 ∧ idleWin s ∧
     S = (s.lnk fun l => { l with here := rest }).lport 4 (fun l => { l with rxq := [stampIn s pk] }) ∧ takeHead S 4 (stampIn s pk) = some u ∧ restful u ∧
     u.cfg.links ≠ 0 ∧ (∀ q < 4, (lkPort u q).rxq = []) ∧ (lkPort u 4).rxq = [stampIn s pk]) ∧
    (let pk : Packet := pkt 1 0 1 255
     let s := inbound (winUp 1) pk
     let rest : List Nat := []
     let p := 0
     let S := taken s p pk rest
     let part := (cutParts (512 * winGet S (pk.h2 % 256) WINDOW_TAB_WIN_CFG1_BASE + pk.h3 % 2 ^ 29) (pk.h4 % 512 + 1) (pk.data / 256 ^ ((512 * winGet S (pk.h2 % 256) WINDOW_TAB_WIN_CFG1_BASE + pk.h3 % 2 ^ 29) % 32))).headD (0,0,0)
     let tid := winGet S (pk.h2 % 256) WINDOW_TAB_WIN_CFG0_TID
     let a : Arrival := arrivalOf S p pk tid (winGet S (pk.h2 % 256) WINDOW_TAB_WIN_CFG0_HANDLE) part none
     let u := ((arrives S a).sendPart a part).2
     pk.ptype = 1 ∧ comesIn s p pk rest ∧ S = taken s p pk rest ∧ bwrCheck S pk = none ∧ tid = winGet S (pk.h2 % 256) WINDOW_TAB_WIN_CFG0_TID ∧
     shareFull S tid = false ∧ tidStopped S tid = false ∧ a = arrivalOf S p pk tid (winGet S (pk.h2 % 256) WINDOW_TAB_WIN_CFG0_HANDLE) part none ∧
     cutParts (512 * winGet S (pk.h2 % 256) WINDOW_TAB_WIN_CFG1_BASE + pk.h3 % 2 ^ 29) (pk.h4 % 512 + 1) (pk.data / 256 ^ ((512 * winGet S (pk.h2 % 256) WINDOW_TAB_WIN_CFG1_BASE + pk.h3 % 2 ^ 29) % 32)) = [part] ∧
     (arrives S a).sendPart a part = (true, u) ∧ u.hub.answers = []) ∧
    (let pk : Packet := pkt 3 0 0 0
     let s : State := (inbound (own 15) pk).put pgWINCTL ⟨WINDOW_CTL_NTFY_MASK, 31, 0⟩ (2^32-1)
     let p : Nat := 0
     let rest : List Nat := []
     pk.ptype = 3 ∧ comesIn s p pk rest ∧ ntfyCheck (taken s p pk rest) pk = none) ∧
    (let pk : Packet := pkt 4 3 0 63
     let s : State := (((((inbound (own 15) pk).put pgLINK LINK_LK_ID_MGR 1).barPut 63 SYNC_BAR_BCFG_EN 1).barPut 63 SYNC_BAR_BCFG_DOMAIN 1).barPut 63 SYNC_BAR_BCFG_DEVS 3)
     let p : Nat := 0
     let n : Nat := 63
     let rest : List Nat := []
     pk.ptype = 4 ∧ comesIn s p pk rest ∧ barrGood (taken s p pk rest) pk = true ∧ fenceMet s pk = true ∧ n = pk.h2 % 64 ∧
     barGet s n SYNC_BAR_BSTAT_DEVCNT + 1 < barGet s n SYNC_BAR_BCFG_DEVS) ∧
    (let pk : Packet := pkt 8 2 0 7
     let s : State := (inbound (own 15) pk).lnk fun l => { l with sent := [⟨7, .data 0 0, 1, 1, 0, none, 1⟩] }
     let p : Nat := 0
     let rest : List Nat := []
     let tag : Nat := 7
     let e : SentPk := ⟨7, .data 0 0, 1, 1, 0, none, 1⟩
     pk.ptype = 8 ∧ comesIn s p pk rest ∧ pk.h6 = 1 ∧ pk.h2 = tag ∧ tag < 2 ^ 16 ∧ (s.link.sent.find? fun e => e.etag == tag) = some e ∧ e.who ≠ .other) ∧
    (let pk : Packet := pkt 9 2 0 0x107
     let s : State := (inbound (own 15) pk).lnk fun l => { l with sent := [⟨5, .data 0 0, 1, 1, 0, none, 1⟩] }
     let p : Nat := 0
     let rest : List Nat := []
     let e : SentPk := ⟨5, .data 0 0, 1, 1, 0, none, 1⟩
     pk.ptype = 9 ∧ comesIn s p pk rest ∧ (s.link.sent.find? fun e => e.etag == pk.etag) = some e ∧ e.who ≠ .other) ∧
    (let pk : Packet := pkt 10 2 0 (63 * 2^26 + 65535)
     let s : State := (((inbound (own 15) pk).put pgMOVER (MOVER_CA_CFG_VALID.at 8 63) 1).put pgMOVER (MOVER_CA_CFG_DEV.at 8 63) 9).put pgMOVER (MOVER_CA_CRED_CREDITS.at 8 63) 2
     let p : Nat := 0
     let a : Nat := 63
     let rest : List Nat := []
     pk.ptype = 10 ∧ comesIn s p pk rest ∧ a = bits pk.h2 31 26 ∧ s.flag pgMOVER (MOVER_CA_CFG_VALID.at 8 a) = true ∧
     s.get pgMOVER (MOVER_CA_CFG_DEV.at 8 a) = pk.src) ∧
    (let pk : Packet := pkt 13 3 0 77
     let s : State := { ((inbound (own 15) pk).lnk fun l => { l with ts := some (7,7) }) with now := 100 }
     let p : Nat := 0
     let t1 : Nat := 7
     let tm : Nat := 7
     let rest : List Nat := []
     pk.ptype = 13 ∧ comesIn s p pk rest ∧ s.link.ts = some (t1, tm)) := by
  unfold restful comesIn idleWin
  refine ⟨?_, ?_, ?_, ?_, ?_, ?_, ?_, ?_, ?_, ?_⟩
  · exact ⟨by decide +kernel, by decide +kernel, by exact some_getD _ _ (by decide +kernel), by decide +kernel, by decide +kernel, by decide +kernel, by decide +kernel⟩
  · exact ⟨by decide +kernel, by decide +kernel, by exact some_getD _ _ (by decide +kernel), by decide +kernel, by decide +kernel, by decide +kernel, by decide +kernel⟩
  · exact ⟨by decide +kernel, by decide +kernel, by decide +kernel, by decide +kernel, by decide +kernel, by exact some_getD _ _ (by decide +kernel), by decide +kernel, by decide +kernel, by decide +kernel, by decide +kernel⟩
  · exact ⟨by decide +kernel, by decide +kernel, by rfl, by decide +kernel, by decide +kernel, by decide +kernel, by decide +kernel, by decide +kernel, by decide +kernel, by exact pair_eq _ _ (by decide +kernel), by decide +kernel⟩
  · decide +kernel
  · decide +kernel
  · decide +kernel
  · decide +kernel
  · decide +kernel
  · decide +kernel

theorem wit_PacketsAct :
    (let pk : Packet := pkt 2 1 1 (1*2^19 + 1*2^18)
     let s := (inbound ((((cchUp.cchPut 63 WINDOW_CCH_CCH_STAT_STATE 1).cchPut 63 WINDOW_CCH_CCH_CFG_RING 255).cchPut 63 WINDOW_CCH_CCH_CFG_SDEV 9).cchPut 63 WINDOW_CCH_CCH_STAT_OUTST 2) pk)
     let rest : List Nat := []
     let p := 0
     let S := taken s p pk rest
     let F := tokenBegun S pk
     let k : Token := (tokenOf F pk).getD (tok none)
     let part := (cutParts (tokenAt F pk k) (pk.h4 % 512 + 1) (pk.data / 256 ^ (tokenAt F pk k % 32))).headD (0,0,0)
     let a : Arrival := arrivalOf F p pk k.tid (ringGet F k.ring SYNC_RING_RCFG0_HANDLE) part (some k.id)
     let u := ((arrives F a).sendPart a part).2
     pk.ptype = 2 ∧ comesIn s p pk rest ∧ S = taken s p pk rest ∧ tokenWrites S F pk k ∧
     a = arrivalOf F p pk k.tid (ringGet F k.ring SYNC_RING_RCFG0_HANDLE) part (some k.id) ∧
     cutParts (tokenAt F pk k) (pk.h4 % 512 + 1) (pk.data / 256 ^ (tokenAt F pk k % 32)) = [part] ∧ (arrives F a).sendPart a part = (true, u) ∧
     u.hub.answers = []) ∧
    (let pk : Packet := pkt 2 1 1 (0*2^19 + 1*2^18)
     let s := (inbound ((((cchUp.cchPut 63 WINDOW_CCH_CCH_STAT_STATE 1).cchPut 63 WINDOW_CCH_CCH_CFG_RING 255).cchPut 63 WINDOW_CCH_CCH_CFG_SDEV 9).cchPut 63 WINDOW_CCH_CCH_STAT_OUTST 2) pk).wnu fun u => { u with next := 9, tokens := [{ tok none with last := false }] }
     let rest : List Nat := []
     let p := 0
     let S := taken s p pk rest
     let F := tokenBegun S pk
     let k : Token := (tokenOf F pk).getD (tok none)
     let part := (cutParts (tokenAt F pk k) (pk.h4 % 512 + 1) (pk.data / 256 ^ (tokenAt F pk k % 32))).headD (0,0,0)
     let a : Arrival := arrivalOf F p pk k.tid (ringGet F k.ring SYNC_RING_RCFG0_HANDLE) part (some k.id)
     let u := ((arrives F a).sendPart a part).2
     pk.ptype = 2 ∧ comesIn s p pk rest ∧ S = taken s p pk rest ∧ tokenWrites S F pk k ∧
     a = arrivalOf F p pk k.tid (ringGet F k.ring SYNC_RING_RCFG0_HANDLE) part (some k.id) ∧
     cutParts (tokenAt F pk k) (pk.h4 % 512 + 1) (pk.data / 256 ^ (tokenAt F pk k % 32)) = [part] ∧ (arrives F a).sendPart a part = (true, u) ∧
     u.hub.answers = []) ∧
    (let pk : Packet := pkt 5 3 0 (15*2^8+63)
     let s : State := ((((inbound (own 15) pk).barPut 63 SYNC_BAR_BCFG_EN 1).barPut 63 SYNC_BAR_BSTAT_PHASE 15).barPut 63 SYNC_BAR_BCFG_EXPECT 2).syn fun y => { y with sent := [63], waiters := [(63, 8), (5, 8)] }
     let p : Nat := 0
     let n : Nat := 63
     let rest : List Nat := []
     pk.ptype = 5 ∧ comesIn s p pk rest ∧ n = pk.h2 % 64 ∧ awaitsRelease s n = true ∧ barGet s n SYNC_BAR_BSTAT_PHASE = bits pk.h2 11 8 ∧
     barGet s n SYNC_BAR_BSTAT_COUNT < barGet s n SYNC_BAR_BCFG_EXPECT) ∧
    (let pk : Packet := pkt 6 3 0 63
     let s : State := ((((inbound (own 15) pk).barPut 63 SYNC_BAR_BCFG_EN 1).barPut 63 SYNC_BAR_BSTAT_COUNT 7).barPut 63 SYNC_BAR_BCFG_EXPECT 9).syn fun y => { y with sent := [63], waiters := [(63, 8), (5, 8)] }
     let p : Nat := 0
     let n : Nat := 63
     let rest : List Nat := []
     pk.ptype = 6 ∧ comesIn s p pk rest ∧ n = pk.h2 % 64) ∧
    (let pk : Packet := sealPacket { pkt 12 3 0 0 with src := 1 }
     let s : State := { ((domain2 (inbound (own 15) pk)).put pgLINK LINK_LK_ID_MGR 1) with now := 2^33+5 }
     let p : Nat := 0
     let q : Nat := 0
     let rest : List Nat := []
     pk.ptype = 12 ∧ comesIn s p pk rest ∧ isManager s = true ∧ wayTo s pk.src q) ∧
    (let pk : Packet := pkt 12 3 0 0
     let s : State := inbound (own 15) pk
     let p : Nat := 0
     let rest : List Nat := []
     pk.ptype = 12 ∧ comesIn s p pk rest ∧ isManager s = false) := by
  unfold tokenWrites comesIn idleWin wayTo
  refine ⟨?_, ?_, ?_, ?_, ?_, ?_⟩
  · exact ⟨by decide +kernel, by decide +kernel, by rfl, by exact ⟨by decide +kernel, rfl, some_getD _ _ (by decide +kernel), by decide +kernel, by decide +kernel, by decide +kernel, by decide +kernel, by decide +kernel⟩, by decide +kernel, by decide +kernel, by exact pair_eq _ _ (by decide +kernel), by decide +kernel⟩
  · exact ⟨by decide +kernel, by decide +kernel, by rfl, by exact ⟨by decide +kernel, rfl, some_getD _ _ (by decide +kernel), by decide +kernel, by decide +kernel, by decide +kernel, by decide +kernel, by decide +kernel⟩, by decide +kernel, by decide +kernel, by exact pair_eq _ _ (by decide +kernel), by decide +kernel⟩
  · decide +kernel
  · decide +kernel
  · decide +kernel
  · decide +kernel

theorem wit_WindowCommands :
    (let s : State := own 15
     let m : Master := .cpa
     mayWrite s m pgWINCTL WINDOW_CTL_WCTL true = true ∧ idleWin s) ∧
    (let s : State := (((live1 (own 15)).winPut 255 WINDOW_TAB_WIN_CFG0_HANDLE 1)).wnu fun u => { u with landed := [(5,6),(64*255+9,3)] }
     let m : Master := .cpa
     let w : Nat := 255
     mayWrite s m (winBase w) (WINDOW_TAB_WIN_CFG0 + 16 * (w % 128)) false = true ∧ w < 256 ∧ winState s w = 0 ∧ openReason s w = 0 ∧
     s.flag pgWINCTL WINDOW_CTL_WCTL_REG = false) ∧
    (let s : State := (((live1 (own 15)).winPut 255 WINDOW_TAB_WIN_CFG0_HANDLE 1).put pgWINCTL WINDOW_CTL_WCTL_REG 1).lnk fun l => { l with sent := List.replicate 16384 ⟨1, .other, 0, 1, 0, none, 1⟩ }
     let m : Master := .cpa
     let w : Nat := 255
     mayWrite s m (winBase w) (WINDOW_TAB_WIN_CFG0 + 16 * (w % 128)) false = true ∧ w < 256 ∧ winState s w = 0 ∧ openReason s w = 0 ∧
     s.flag pgWINCTL WINDOW_CTL_WCTL_REG = true ∧ tagRoom s = false) ∧
    (let s : State := own 15
     let m : Master := .cpa
     let w : Nat := 255
     mayWrite s m (winBase w) (WINDOW_TAB_WIN_CFG0 + 16 * (w % 128)) false = true ∧ w < 256 ∧ winState s w = 0 ∧ openReason s w ≠ 0) ∧
    (let s : State := winUp 1
     let m : Master := .cpa
     let w : Nat := 255
     mayWrite s m (winBase w) (WINDOW_TAB_WIN_CFG0 + 16 * (w % 128)) false = true ∧ w < 256 ∧ winState s w ≠ 0) ∧
    (let s : State := winUp 2
     let m : Master := .cpa
     let w : Nat := 255
     mayWrite s m (winBase w) (WINDOW_TAB_WIN_CFG0 + 16 * (w % 128)) false = true ∧ w < 256 ∧ winState s w ≠ 0) ∧
    (let s : State := winUp 1
     let m : Master := .cpa
     let w : Nat := 255
     mayWrite s m (winBase w) (WINDOW_TAB_WIN_CFG0 + 16 * (w % 128)) false = true ∧ w < 256 ∧ winState s w = 1) ∧
    (let s : State := (winUp 2).winPut 255 WINDOW_TAB_WIN_CFG0_DIRQ 1
     let w : Nat := 255
     idleWin s ∧ s.cfg.links ≠ 0 ∧ w < 256 ∧ winState s w = 2 ∧ s.flag pgWINCTL WINDOW_CTL_WCTL_REG = false ∧ winGet s w WINDOW_TAB_WIN_CFG0_DCNT = 0) ∧
    (let s : State := winUp 2
     let w : Nat := 255
     idleWin s ∧ s.cfg.links ≠ 0 ∧ w < 256 ∧ winState s w = 2 ∧ s.flag pgWINCTL WINDOW_CTL_WCTL_REG = false ∧ winGet s w WINDOW_TAB_WIN_CFG0_DCNT = 0) ∧
    (let s : State := (((winUp 2).winPut 255 WINDOW_TAB_WIN_CFG0_DCNT 1).winPut 255 WINDOW_TAB_WIN_CFG2_CORE 7).winPut 255 WINDOW_TAB_WIN_CFG2_COUNTER 47
     let w : Nat := 255
     let c : Nat := 383
     idleWin s ∧ s.cfg.links ≠ 0 ∧ w < 256 ∧ winState s w = 2 ∧ s.flag pgWINCTL WINDOW_CTL_WCTL_REG = false ∧ winGet s w WINDOW_TAB_WIN_CFG0_DCNT = 1 ∧
     winGet s w WINDOW_TAB_WIN_CFG2_COUNTER ≤ 47 ∧ c = 48 * winGet s w WINDOW_TAB_WIN_CFG2_CORE + winGet s w WINDOW_TAB_WIN_CFG2_COUNTER ∧ noWatch s c ∧
     parked s = false) := by
  unfold idleWin noWatch
  refine ⟨?_, ?_, ?_, ?_, ?_, ?_, ?_, ?_, ?_, ?_⟩ <;> decide +kernel

theorem wit_CreditChannels :
    (let s : State := cchUp
     let m : Master := .cpa
     let c : Nat := 63
     let w : Word32 := (BitVec.ofNat 32 (2^31 + 9 * 2^24 + 3 * 2^18 + 255 * 2^8 + 5))
     mayWrite s m pgWINCCH (WINDOW_CCH_CCH_CFG + 16 * c) true = true ∧ c < 64 ∧ cchState s c = 0 ∧ cchReason (cchFields s c w) c = 0) ∧
    (let s : State := cchUp
     let m : Master := .cpa
     let c : Nat := 0
     let w : Word32 := (BitVec.ofNat 32 (2^31 + 9 * 2^24 + 3 * 2^18 + 255 * 2^8 + 5))
     mayWrite s m pgWINCCH (WINDOW_CCH_CCH_CFG + 16 * c) true = true ∧ c < 64 ∧ cchState s c = 0 ∧ cchReason (cchFields s c w) c ≠ 0) ∧
    (let s : State := own 15
     let m : Master := .cpa
     let c : Nat := 63
     let w : Word32 := (BitVec.ofNat 32 (2^31 + 9 * 2^24 + 3 * 2^18 + 255 * 2^8 + 5))
     mayWrite s m pgWINCCH (WINDOW_CCH_CCH_CFG + 16 * c) true = true ∧ c < 64 ∧ cchState s c = 0 ∧ cchReason (cchFields s c w) c ≠ 0) ∧
    (let s : State := cchUp.cchPut 63 WINDOW_CCH_CCH_STAT_STATE 0
     let m : Master := .cpa
     let c : Nat := 63
     mayWrite s m pgWINCCH (WINDOW_CCH_CCH_CFG + 16 * c) true = true ∧ c < 64) ∧
    (let s : State := cchUp.cchPut 63 WINDOW_CCH_CCH_STAT_STATE 2
     let m : Master := .cpa
     let c : Nat := 63
     mayWrite s m pgWINCCH (WINDOW_CCH_CCH_CFG + 16 * c) true = true ∧ c < 64) ∧
    (let s : State := (cchUp.cchPut 63 WINDOW_CCH_CCH_STAT_STATE 2).syn fun y => { y with owed := [(63,(2,0))], filler := [(5,63),(7,1)] }
     let c : Nat := 63
     c < 64 ∧ cchState s c = 2 ∧ (∀ t ∈ s.win.tokens, t.cch ≠ c)) ∧
    (let s : State := (((cchUp.cchPut 63 WINDOW_CCH_CCH_STAT_STATE 1).syn fun y => { y with owed := [(63,(1,0))] }))
     let c : Nat := 63
     let n : Nat := 1
     let since : Nat := 0
     c < 64 ∧ cchState s c = 1 ∧ Sp.get (0, 0) s.sync.owed c = (n, since) ∧ n ≠ 0 ∧
     (max 1 (cchGet s c WINDOW_CCH_CCH_LIM_GRAN) ≤ n ∨ since + usTicks ≤ s.now)) ∧
    (let s : State := cchUp.wnu fun u => { u with tokens := [tok none] }
     let id : Nat := 3
     let k : Token := tok none
     idleWin s ∧ s.cfg.links ≠ 0 ∧ (s.win.tokens.find? fun t => t.id == id) = some k ∧ k.last = true ∧ k.bad = none ∧ k.cch < 64 ∧ k.slot < 16384 ∧
     tagFull s k.ring k.slot = false ∧ s.sync.parks = []) ∧
    (let s : State := cchUp.wnu fun u => { u with tokens := [tok (some 0x10)] }
     let id : Nat := 3
     let c : Nat := 0x10
     let k : Token := tok (some 0x10)
     idleWin s ∧ s.cfg.links ≠ 0 ∧ (s.win.tokens.find? fun t => t.id == id) = some k ∧ k.bad = some c ∧ k.marked = true ∧ k.cch < 64 ∧ k.slot < 16384 ∧
     tagFull s k.ring k.slot = false ∧ s.sync.parks = []) := by
  unfold idleWin
  refine ⟨?_, ?_, ?_, ?_, ?_, ?_, ?_, ?_, ?_⟩ <;> decide +kernel

theorem wit_FencesAndAcks :
    (let tags : List Nat := [7]
     let s : State := { (domain2 (own 15)).lnk fun l => { l with lacks := [(1, (tags, 0))] } with now := 26 }
     let src : Nat := 1
     let since : Nat := 0
     let p : Nat := 0
     idleWin s ∧ s.cfg.links ≠ 0 ∧ Sp.get ([], 0) s.link.lacks src = (tags, since) ∧ tags ≠ [] ∧ (8 ≤ tags.length ∨ since + 26 ≤ s.now) ∧ wayTo s src p) ∧
    (let tags : List Nat := [1,2,3,4,5,6,7,8]
     let s : State := { (domain2 (own 15)).lnk fun l => { l with lacks := [(1, (tags, 0))] } with now := 26 }
     let src : Nat := 1
     let since : Nat := 0
     let p : Nat := 0
     idleWin s ∧ s.cfg.links ≠ 0 ∧ Sp.get ([], 0) s.link.lacks src = (tags, since) ∧ tags ≠ [] ∧ (8 ≤ tags.length ∨ since + 26 ≤ s.now) ∧ wayTo s src p) ∧
    (let s : State := (own 15).wnu fun u => { u with fences := [(⟨{ pkt 3 0 0 (7*2^28+47*2^22) with h3 := 0 }, 0, []⟩ : Held)] }
     let k : Nat := 0
     let c : Nat := 383
     let h : Held := (⟨{ pkt 3 0 0 (7*2^28+47*2^22) with h3 := 0 }, 0, []⟩ : Held)
     idleWin s ∧ s.cfg.links ≠ 0 ∧ s.win.fences[k]? = some h ∧ h.pk.ptype = 3 ∧ fenceMet s h.pk = true ∧ bit h.pk.h2 31 = false ∧ bits h.pk.h2 27 22 ≤ 47 ∧
     c = 48 * bits h.pk.h2 30 28 + bits h.pk.h2 27 22 ∧ noWatch s c ∧ parked s = false) ∧
    (let s : State := cchUp.wnu fun u => { u with fences := [(⟨{ pkt 3 0 0 (2^31) with h3 := 255*2^24+16383*2^10 }, 0, []⟩ : Held)] }
     let k : Nat := 0
     let h : Held := (⟨{ pkt 3 0 0 (2^31) with h3 := 255*2^24+16383*2^10 }, 0, []⟩ : Held)
     idleWin s ∧ s.cfg.links ≠ 0 ∧ s.win.fences[k]? = some h ∧ h.pk.ptype = 3 ∧ fenceMet s h.pk = true ∧ bit h.pk.h2 31 = true ∧
     ringOn s (bits h.pk.h3 31 24) = true ∧ tagFull s (bits h.pk.h3 31 24) (bits h.pk.h3 23 10) = false ∧ s.sync.parks = []) ∧
    (let s : State := ((((own 15).barPut 63 SYNC_BAR_BCFG_EN 1).barPut 63 SYNC_BAR_BCFG_DOMAIN 1).barPut 63 SYNC_BAR_BCFG_DEVS 3).wnu fun u => { u with fences := [(⟨{ pkt 4 0 0 (63) with h3 := 0 }, 0, []⟩ : Held)] }
     let k : Nat := 0
     let n : Nat := 63
     let h : Held := (⟨{ pkt 4 0 0 (63) with h3 := 0 }, 0, []⟩ : Held)
     idleWin s ∧ s.cfg.links ≠ 0 ∧ s.win.fences[k]? = some h ∧ h.pk.ptype = 4 ∧ h.before = [] ∧ fenceMet s h.pk = true ∧ n = h.pk.h2 % 64 ∧
     barOn s n = true ∧ barGet s n SYNC_BAR_BCFG_DOMAIN = 1 ∧ barGet s n SYNC_BAR_BSTAT_PHASE % 16 = bits h.pk.h2 11 8 ∧
     barGet s n SYNC_BAR_BSTAT_DEVCNT + 1 < barGet s n SYNC_BAR_BCFG_DEVS) ∧
    (let s : State := { (((own 15).wnu fun u => { u with fences := [(⟨{ pkt 3 0 0 (63) with h3 := 0 }, 0, []⟩ : Held)] }).put pgWINCTL WINDOW_CTL_FENCE_TMO_TICKS 5) with now := 5 }
     let k : Nat := 0
     let h : Held := (⟨{ pkt 3 0 0 (63) with h3 := 0 }, 0, []⟩ : Held)
     idleWin s ∧ s.cfg.links ≠ 0 ∧ s.win.fences[k]? = some h ∧ s.get pgWINCTL WINDOW_CTL_FENCE_TMO_TICKS ≠ 0 ∧
     h.at_ + s.get pgWINCTL WINDOW_CTL_FENCE_TMO_TICKS ≤ s.now) ∧
    (let s : State := { (((own 15).wnu fun u => { u with fences := [(⟨{ pkt 4 0 0 (63) with h3 := 0 }, 0, []⟩ : Held)] }).put pgWINCTL WINDOW_CTL_FENCE_TMO_TICKS 5) with now := 5 }
     let k : Nat := 0
     let h : Held := (⟨{ pkt 4 0 0 (63) with h3 := 0 }, 0, []⟩ : Held)
     idleWin s ∧ s.cfg.links ≠ 0 ∧ s.win.fences[k]? = some h ∧ s.get pgWINCTL WINDOW_CTL_FENCE_TMO_TICKS ≠ 0 ∧
     h.at_ + s.get pgWINCTL WINDOW_CTL_FENCE_TMO_TICKS ≤ s.now) ∧
    (let s : State := (own 15).wnu fun u => { u with sentN := [(256*63+255,7),(3,1)] }
     let m : Master := .cpa
     let dev : Nat := 63
     let w : Nat := 255
     mayWrite s m pgWINCTL WINDOW_CTL_SENT_SEL true = true ∧ dev < 64 ∧ w < 256) ∧
    (let s : State := (own 15).wnu fun u => { u with sentN := [(256*63+255,7),(3,1)] }
     let m : Master := .cpb
     mayWrite s m pgWINCTL WINDOW_CTL_SENT_SEL false = true) := by
  unfold wayTo idleWin noWatch
  refine ⟨?_, ?_, ?_, ?_, ?_, ?_, ?_, ?_, ?_⟩ <;> decide +kernel

theorem wit_RimRetirement_1 :
    (let s : State := own 16
     let m : Master := .cpa
     let layer : Nat := 7
     let i : Nat := 15
     mayWrite s m pgINTEG INTEG_RIM_CMD true = true ∧ (m ≠ .em1 ∨ s.flag pgINTEG INTEG_IG_CTL_AUTO_RETIRE = true) ∧ layer < s.cfg.dies ∧ layer < 8 ∧
     i < 16 ∧ s.integ.cmd = none ∧ s.integ.sectors.contains (4 * layer + i / 4) = false ∧ spareRole s layer = 0) ∧
    (let s : State := ((up.put pgMBCTL (MAILBOX_CTL_EM_STAT_STATE.at 4 1) 2).put pgINTEG INTEG_IG_CTL_AUTO_RETIRE 1)
     let m : Master := .em1
     let layer : Nat := 0
     let i : Nat := 0
     mayWrite s m pgINTEG INTEG_RIM_CMD true = true ∧ (m ≠ .em1 ∨ s.flag pgINTEG INTEG_IG_CTL_AUTO_RETIRE = true) ∧ layer < s.cfg.dies ∧ layer < 8 ∧
     i < 16 ∧ s.integ.cmd = none ∧ s.integ.sectors.contains (4 * layer + i / 4) = false ∧ spareRole s layer = 0) ∧
    (let s : State := (own 16).put (layerBase 7) LAYER_SPARE_STAT_SPARE_ROLE 4
     let m : Master := .cpa
     let layer : Nat := 7
     let i : Nat := 15
     mayWrite s m pgINTEG INTEG_RIM_CMD true = true ∧ (m ≠ .em1 ∨ s.flag pgINTEG INTEG_IG_CTL_AUTO_RETIRE = true) ∧ layer < s.cfg.dies ∧ layer < 8 ∧
     i < 16 ∧ s.integ.cmd = none ∧ s.integ.sectors.contains (4 * layer + i / 4) = false ∧ 4 ≤ spareRole s layer ∧ nothingAt s layer i) ∧
    (let s : State := { (own 16).setRole 7 4 15 with integ := { ({} : IntegSt) with cmd := some ⟨false, 7, 15, 0⟩ }, array := { (own 16).array with validA := [0] } }
     let c : RimCmd := ⟨false, 7, 15, 0⟩
     s.integ.cmd = some c ∧ c.evac = false ∧ c.layer < 8 ∧ c.rim < 16 ∧ spareRole s c.layer = 4 ∧ spareFor s c.layer = c.rim ∧ nothingAt s c.layer c.rim) ∧
    (let s : State := own 16
     let m : Master := .cpa
     let layer : Nat := 7
     let i : Nat := 15
     mayWrite s m pgINTEG INTEG_RIM_CMD true = true ∧ layer < s.cfg.dies ∧ layer < 8 ∧ i < 16 ∧ s.integ.cmd = none ∧ spareRole s layer = 0 ∧
     physOf s layer i ≠ 31 ∧ rimUp s layer i = true) ∧
    (let s : State := (own 16).put (layerBase 7) LAYER_SPARE_STAT_SPARE_ROLE 1
     let m : Master := .cpa
     let layer : Nat := 7
     let i : Nat := 15
     mayWrite s m pgINTEG INTEG_RIM_CMD true = true ∧ layer < s.cfg.dies ∧ layer < 8 ∧ i < 16 ∧ s.integ.cmd = none ∧ spareRole s layer ≠ 0) ∧
    (let s : State := (own 16).put (layerBase 7) LAYER_SPARE_STAT_SPARE_ROLE 5
     let m : Master := .cpa
     let layer : Nat := 7
     let i : Nat := 15
     mayWrite s m pgINTEG INTEG_RIM_CMD true = true ∧ layer < s.cfg.dies ∧ layer < 8 ∧ i < 16 ∧ s.integ.cmd = none ∧ spareRole s layer ≠ 0) := by
  unfold nothingAt
  refine ⟨?_, ?_, ?_, ?_, ?_, ?_, ?_⟩ <;> decide +kernel

theorem wit_RimRetirement_2 :
    (let s : State := { ((own 16).put (layerBase 0) LAYER_SPARE_STAT_SPARE_ROLE 3).put (layerBase 0) LAYER_SPARE_STAT_SPARE_FOR 15 with integ := { ({} : IntegSt) with copies := [(0, ⟨15, 15, 16, 0, 65536, 0, 0, 0, 0⟩)], cmd := some ⟨true, 0, 15, 0⟩ } }
     let c : RimCmd := ⟨true, 0, 15, 0⟩
     s.integ.cmd = some c ∧ c.evac = true ∧ c.layer < 8 ∧ c.rim < 16 ∧ physOf s c.layer c.rim < 16 ∧ copied s c.layer c.rim = true) ∧
    (let j : CopyJob := ⟨15, 15, 16, 63, 0, 0, 0, 0, 0⟩
     let s : State := { ((own 16).put (layerBase 0) LAYER_SPARE_STAT_SPARE_ROLE 3).put (layerBase 0) LAYER_SPARE_STAT_SPARE_FOR 15 with integ := { ({} : IntegSt) with copies := [(0, ⟨15, 15, 16, 63, 0, 0, 0, 0, 0⟩)], cmd := some ⟨true, 0, 15, 0⟩ } }
     let layer : Nat := 0
     let i : Nat := 15
     rimReady s layer i ∧ rimQueue s layer i = [] ∧ claimsAt s layer i = [] ∧ wbEntries s layer i = [] ∧ (rimOf s layer (physOf s layer i)).half = none ∧
     copyOf s layer = some j ∧ j.rim = i ∧ j.more layer = true ∧ spareRole s layer = 3 ∧ heldBack s (j.access layer) = false ∧
     awaitsClear s layer (j.access layer).frame = false ∧ stopped s (arbRim layer i) (j.access layer) = false ∧
     govHolds s (arbRim layer i) (j.access layer) = false) ∧
    (let j : CopyJob := ⟨15, 15, 16, 63, 15, 0, 0, 0, 0⟩
     let s : State := { ((own 16).put (layerBase 0) LAYER_SPARE_STAT_SPARE_ROLE 3).put (layerBase 0) LAYER_SPARE_STAT_SPARE_FOR 15 with integ := { ({} : IntegSt) with copies := [(0, ⟨15, 15, 16, 63, 15, 0, 0, 0, 0⟩)], cmd := some ⟨true, 0, 15, 0⟩ } }
     let layer : Nat := 0
     let i : Nat := 15
     rimReady s layer i ∧ rimQueue s layer i = [] ∧ claimsAt s layer i = [] ∧ wbEntries s layer i = [] ∧ (rimOf s layer (physOf s layer i)).half = none ∧
     copyOf s layer = some j ∧ j.rim = i ∧ j.more layer = true ∧ spareRole s layer = 3 ∧ heldBack s (j.access layer) = false ∧
     awaitsClear s layer (j.access layer).frame = false ∧ stopped s (arbRim layer i) (j.access layer) = false ∧
     govHolds s (arbRim layer i) (j.access layer) = false) ∧
    (let s : State := { ((own 16).put (layerBase 0) LAYER_SPARE_STAT_SPARE_ROLE 3).put (layerBase 0) LAYER_SPARE_STAT_SPARE_FOR 15 with integ := { ({} : IntegSt) with cmd := some ⟨true, 0, 15, 0⟩ } }
     let m : Master := .cpa
     let c : RimCmd := ⟨true, 0, 15, 0⟩
     mayWrite s m pgINTEG INTEG_RIM_CMD true = true ∧ s.integ.cmd = some c ∧ c.evac = true ∧ c.layer < 8) ∧
    (let s : State := { own 16 with integ := { ({} : IntegSt) with cmd := some ⟨false, 7, 15, 0⟩ } }
     let m : Master := .cpa
     let c : RimCmd := ⟨false, 7, 15, 0⟩
     let layer : Nat := 7
     let i : Nat := 15
     let k := .rimCmdRetire .cpa 7 15
     mayWrite s m pgINTEG INTEG_RIM_CMD true = true ∧ s.integ.cmd = some c ∧ c.evac = false ∧
     k ∈ [Instr.rimCmdRetire m layer i, .rimCmdEvacuate m layer i, .rimCmdAbort m]) ∧
    (let s : State := { own 16 with integ := { ({} : IntegSt) with cmd := some ⟨false, 7, 15, 0⟩ } }
     let m : Master := .cpa
     let c : RimCmd := ⟨false, 7, 15, 0⟩
     let layer : Nat := 7
     let i : Nat := 15
     let k := .rimCmdAbort .cpa
     mayWrite s m pgINTEG INTEG_RIM_CMD true = true ∧ s.integ.cmd = some c ∧ c.evac = false ∧
     k ∈ [Instr.rimCmdRetire m layer i, .rimCmdEvacuate m layer i, .rimCmdAbort m]) := by
  unfold rimReady
  refine ⟨?_, ?_, ?_, ?_, ?_, ?_⟩ <;> decide +kernel

theorem wit_HardFaults_1 :
    (let s : State := fl { ac .rim with frame := 15, layer := 7 }
     let layer : Nat := 7
     let p : Nat := 15
     layer < s.cfg.dies ∧ layer < 8 ∧ p < 16 ∧ s.get (rimBase layer p) RIM_RIM_FSTAT_HEALTH = 0 ∧ rimPower s layer p ≠ 5 ∧ s.test.ft = none ∧
     physOf s layer p = p ∧ ¬ (spareRole s layer = 3 ∧ spareFor s layer = p) ∧ s.hub.claims = [] ∧ (rimOf s layer p).kq = none ∧
     (∀ a ∈ s.hub.flight, a.tid < 64)) ∧
    (let s : State := up.setFlight [{ ac .out with op := .read, frame := 3 }, { ac .rim with seq := 2, frame := 3 }, { ac .rim with seq := 4, frame := 4 }]
     let layer : Nat := 0
     let p : Nat := 3
     layer < s.cfg.dies ∧ layer < 8 ∧ p < 16 ∧ s.get (rimBase layer p) RIM_RIM_FSTAT_HEALTH = 0 ∧ rimPower s layer p ≠ 5 ∧ s.test.ft = none ∧
     physOf s layer p = p ∧ ¬ (spareRole s layer = 3 ∧ spareFor s layer = p) ∧ s.hub.claims = [] ∧ (rimOf s layer p).kq = none ∧
     (∀ a ∈ s.hub.flight, a.tid < 64)) ∧
    (let s : State := up.put (layerBase 7) LAYER_SPARE_STAT_SPARE_FOR 3
     let layer : Nat := 7
     layer < s.cfg.dies ∧ layer < 8 ∧ s.get (rimBase layer 16) RIM_RIM_FSTAT_HEALTH = 0 ∧ rimPower s layer 16 ≠ 5 ∧ spareRole s layer = 0 ∧
     s.integ.cmd = none ∧ physOf s layer (spareFor s layer) ≠ 16) ∧
    (let s : State := up
     let layer : Nat := 7
     let sector : Nat := 3
     layer < s.cfg.dies ∧ layer < 8 ∧ sector < 4 ∧ s.integ.sectors.contains (4 * layer + sector) = false ∧ s.test.ft = none ∧ s.integ.cmd = none ∧
     (∀ k < 4, nothingAt s layer (4 * sector + k))) ∧
    (let s : State := up
     parked s = false ∧ s.hub.flight = [] ∧ s.ports = [] ∧ s.cache.jobs = [] ∧ s.raq = []) ∧
    (let x : Nat := 0
     x < 72) ∧
    (let x : Nat := 71
     x < 72) ∧
    (let e : Nat := 3
     e < 4) := by
  unfold nothingAt
  refine ⟨?_, ?_, ?_, ?_, ?_, ?_, ?_, ?_⟩ <;> decide +kernel

theorem wit_HardFaults_2 :
    (let e : Nat := 0
     e < 4) ∧
    (let s : State := (up.put pgMBCTL (MAILBOX_CTL_EM_STAT_STATE.at 4 1) 2).put (rimBase 7 16) RIM_UE_CNT_COUNT 1
     let layer : Nat := 7
     let p : Nat := 16
     let ce0 : Nat := 0
     let t0 : Nat := 0
     let ue0 : Nat := 0
     layer < s.cfg.dies ∧ p ≤ 16 ∧ emRuns s 1 = true ∧ Sp.get (0, 0, 0) s.integ.ceMark (17 * layer + p) = (ce0, t0, ue0) ∧
     ue0 < s.get (rimBase layer p) RIM_UE_CNT_COUNT ∧ s.flag pgINTEG INTEG_IG_CTL_AUTO_EVAC = false) ∧
    (let s : State := ((up.put pgMBCTL (MAILBOX_CTL_EM_STAT_STATE.at 4 1) 2).put (rimBase 7 15) RIM_UE_CNT_COUNT 1).put pgINTEG INTEG_IG_CTL_AUTO_EVAC 1
     let layer : Nat := 7
     let p : Nat := 15
     let ce0 : Nat := 0
     let t0 : Nat := 0
     let ue0 : Nat := 0
     layer < s.cfg.dies ∧ layer < 8 ∧ p < 16 ∧ emRuns s 1 = true ∧ Sp.get (0, 0, 0) s.integ.ceMark (17 * layer + p) = (ce0, t0, ue0) ∧
     ue0 < s.get (rimBase layer p) RIM_UE_CNT_COUNT ∧ s.flag pgINTEG INTEG_IG_CTL_AUTO_EVAC = true ∧ spareRole s layer = 0 ∧ physOf s layer p = p ∧
     rimUp s layer p = true ∧ s.integ.cmd = none ∧ mayWrite s .em1 pgINTEG INTEG_RIM_CMD true = true) ∧
    (let s : State := up.put pgINTEG INTEG_CE_THRESH_WIN 1
     let layer : Nat := 7
     let p : Nat := 16
     let ce0 : Nat := 0
     let t0 : Nat := 0
     let ue0 : Nat := 0
     Sp.get (0, 0, 0) s.integ.ceMark (17 * layer + p) = (ce0, t0, ue0) ∧ s.get pgINTEG INTEG_CE_THRESH_WIN ≠ 0 ∧
     s.now - t0 ≤ s.get pgINTEG INTEG_CE_THRESH_WIN * 100000000 ∧ s.get (rimBase layer p) RIM_CE_CNT_COUNT - ce0 ≤ s.get pgINTEG INTEG_CE_THRESH_MAX ∧
     s.get (rimBase layer p) RIM_UE_CNT_COUNT ≤ ue0) ∧
    (let s : State := up
     let n : Nat := 1
     let layer : Nat := 7
     let sector : Nat := 3
     let group : Nat := 47
     1 ≤ n ∧ n ≤ layer ∧ layer < s.cfg.dies ∧ layer < 8 ∧ sector < 4 ∧ group < 48 ∧ s.integ.sectors.contains (4 * layer + sector) = false ∧
     Sp.get 0 s.integ.lanes (laneKey n (4 * layer + sector) group) < 2) ∧
    (let s : State := { up with integ := { ({} : IntegSt) with lanes := [(laneKey 7 31 47, 1)] } }
     let n : Nat := 7
     let layer : Nat := 7
     let sector : Nat := 3
     let group : Nat := 47
     1 ≤ n ∧ n ≤ layer ∧ layer < s.cfg.dies ∧ layer < 8 ∧ sector < 4 ∧ group < 48 ∧ s.integ.sectors.contains (4 * layer + sector) = false ∧
     Sp.get 0 s.integ.lanes (laneKey n (4 * layer + sector) group) < 2) ∧
    (let s : State := { up with integ := { ({} : IntegSt) with lanes := [(laneKey 7 31 47, 2)] } }
     let n : Nat := 7
     let layer : Nat := 7
     let sector : Nat := 3
     let group : Nat := 47
     1 ≤ n ∧ n ≤ layer ∧ layer < s.cfg.dies ∧ layer < 8 ∧ sector < 4 ∧ group < 48 ∧ s.integ.sectors.contains (4 * layer + sector) = false ∧
     2 ≤ Sp.get 0 s.integ.lanes (laneKey n (4 * layer + sector) group) ∧ s.test.ft = none ∧ s.integ.cmd = none ∧
     (∀ k < 4, nothingAt s layer (4 * sector + k))) := by
  unfold nothingAt
  refine ⟨?_, ?_, ?_, ?_, ?_, ?_, ?_⟩ <;> decide +kernel

theorem wit_IntegrityCommands_1 :
    (let s : State := ({ up with array := { up.array with wbs := [(⟨7, 15, 15, 3, 4, 9, 5, 0, 6, 0⟩ : WriteBack)] } } : State)
     let id : Nat := 6
     let b : WriteBack := (⟨7, 15, 15, 3, 4, 9, 5, 0, 6, 0⟩ : WriteBack)
     (s.array.wbs.find? fun b => b.id == id) = some b ∧ onlyWbs s b ∧ wins s b.layer b.rim id = true ∧ b.layer < 8 ∧ b.tid < 64) ∧
    (let s : State := ({ up with array := { up.array with wbs := [(⟨7, 15, 15, 3, 4, 9, 5, 0, 6, 0⟩ : WriteBack)] } } : State)
     let id : Nat := 6
     let b : WriteBack := (⟨7, 15, 15, 3, 4, 9, 5, 0, 6, 0⟩ : WriteBack)
     (s.array.wbs.filter fun b => b.id == id) = [b] ∧ onlyWbs s b ∧ wins s b.layer b.rim id = true ∧ Mem.wf s.array.mem = true) ∧
    (let s : State := (en ((own 16).put pgMBCTL (MAILBOX_CTL_EM_STAT_STATE.at 4 1) 2) 71)
     let m : Master := .cpa
     let tid : Nat := 63
     let c : Nat := 15
     mayWrite s m pgINTEG INTEG_SCRUB_CMD true = true ∧ s.integ.scrub = none ∧ tid < 64 ∧ c < 16 ∧ chanState s c = 2 ∧ (chanOf s c).chains.length < 16 ∧
     emRuns s 1 = true) ∧
    (let s : State := (live1 (en ((own 16).put pgMBCTL (MAILBOX_CTL_EM_STAT_STATE.at 4 1) 2) 71)).put pgINTEG INTEG_SCRUB_ARG0_HANDLE 1
     let m : Master := .cpa
     let tid : Nat := 63
     let c : Nat := 15
     let h : Nat := 1
     let g : Nat := 0
     let d : Desc := ((descOf (live1 up) 1).getD (stagedDesc up))
     mayWrite s m pgINTEG INTEG_SCRUB_CMD true = true ∧ s.integ.scrub = none ∧ tid < 64 ∧ c < 16 ∧ chanState s c = 2 ∧ (chanOf s c).chains.length < 16 ∧
     emRuns s 1 = true ∧ h = s.get pgINTEG INTEG_SCRUB_ARG0_HANDLE ∧ g = s.get pgINTEG INTEG_SCRUB_ARG0_GEN ∧ liveDesc s h g = some d) ∧
    (let s : State := { (en ((own 16).put pgMBCTL (MAILBOX_CTL_EM_STAT_STATE.at 4 1) 2) 71) with chans := [(15, { ({} : MvChan) with chains := List.replicate 16 (chn [0] false) })] }
     let m : Master := .cpa
     let tid : Nat := 63
     let c : Nat := 15
     mayWrite s m pgINTEG INTEG_SCRUB_CMD true = true ∧ s.integ.scrub = none ∧ tid < 64 ∧ c < 16 ∧ chanState s c = 2 ∧ 16 ≤ (chanOf s c).chains.length ∧
     emRuns s 1 = true) ∧
    (let s : State := en (own 16) 71
     let m : Master := .cpa
     let tid : Nat := 63
     let c : Nat := 15
     mayWrite s m pgINTEG INTEG_SCRUB_CMD true = true ∧ s.integ.scrub = none ∧ tid < 64 ∧ c < 16 ∧ chanState s c = 2 ∧ emRuns s 1 = false) ∧
    (let s : State := { (en ((own 16).put pgMBCTL (MAILBOX_CTL_EM_STAT_STATE.at 4 1) 2) 71) with integ := { ({} : IntegSt) with scrub := some {} } }
     let m : Master := .cpa
     let pta : Bool := true
     let tid : Nat := 63
     let c : Nat := 15
     mayWrite s m pgINTEG INTEG_SCRUB_CMD true = true ∧ tid < 64 ∧ c < 16 ∧
     (s.integ.scrub.isSome = true ∨ chanState s c ≠ 2 ∨ pta = false ∧ liveDesc s (s.get pgINTEG INTEG_SCRUB_ARG0_HANDLE) (s.get pgINTEG INTEG_SCRUB_ARG0_GEN) = none)) := by
  unfold onlyWbs
  refine ⟨?_, ?_, ?_, ?_, ?_, ?_, ?_⟩ <;> decide +kernel

theorem wit_IntegrityCommands_2 :
    (let s : State := (en ((own 16).put pgMBCTL (MAILBOX_CTL_EM_STAT_STATE.at 4 1) 2) 71).put pgINTEG INTEG_SCRUB_ARG0_HANDLE 5
     let m : Master := .cpa
     let pta : Bool := false
     let tid : Nat := 63
     let c : Nat := 15
     mayWrite s m pgINTEG INTEG_SCRUB_CMD true = true ∧ tid < 64 ∧ c < 16 ∧
     (s.integ.scrub.isSome = true ∨ chanState s c ≠ 2 ∨ pta = false ∧ liveDesc s (s.get pgINTEG INTEG_SCRUB_ARG0_HANDLE) (s.get pgINTEG INTEG_SCRUB_ARG0_GEN) = none)) ∧
    (let s : State := { (en ((own 16).put pgMBCTL (MAILBOX_CTL_EM_STAT_STATE.at 4 1) 2) 71) with integ := { ({} : IntegSt) with scrub := some { post := 4 } } }
     let m : Master := .cpa
     let p : ScrubPass := { post := 4 }
     mayWrite s m pgINTEG INTEG_SCRUB_CMD false = true ∧ s.integ.scrub = some p) ∧
    (let s : State := { (en ((own 16).put pgMBCTL (MAILBOX_CTL_EM_STAT_STATE.at 4 1) 2) 71) with integ := { ({} : IntegSt) with scrub := some { wait := some (15, [0]) } } }
     let m : Master := .cpa
     let p : ScrubPass := { wait := some (15, [0]) }
     mayWrite s m pgINTEG INTEG_SCRUB_CMD false = true ∧ s.integ.scrub = some p) ∧
    (let s : State := { (en ((own 16).put pgMBCTL (MAILBOX_CTL_EM_STAT_STATE.at 4 1) 2) 71) with integ := { ({} : IntegSt) with scrub := some { post := 4, ended := true, part := true, aborted := true } } }
     let p : ScrubPass := { post := 4, ended := true, part := true, aborted := true }
     s.integ.scrub = some p ∧ p.ended = true ∧ emRuns s 1 = true) ∧
    (let s : State := { (en ((own 16).put pgMBCTL (MAILBOX_CTL_EM_STAT_STATE.at 4 1) 2) 71) with integ := { ({} : IntegSt) with scrub := some { post := 4, ended := true, part := false, aborted := false } } }
     let p : ScrubPass := { post := 4, ended := true, part := false, aborted := false }
     s.integ.scrub = some p ∧ p.ended = true ∧ emRuns s 1 = true) ∧
    (let s : State := own 16
     let m : Master := .cpa
     let layer : Nat := 7
     let bank : Nat := 15
     let rim : Nat := 15
     mayWrite s m pgINTEG INTEG_FLIP_CTL true = true ∧ layer < 8 ∧ bank < 16 ∧ rim < 16) ∧
    (let s : State := { up with psnLog := [(⟨5, true, 63, 65535, 2^30-1, 127, 2^40⟩ : PsnEntry)] }
     let m : Master := .cpb
     let e : PsnEntry := (⟨5, true, 63, 65535, 2^30-1, 127, 2^40⟩ : PsnEntry)
     let l : List PsnEntry := []
     fabricOpen s m ⟨.integ, 0, pgINTEG⟩ = true ∧ readPath s m ⟨.integ, 0, pgINTEG⟩ = true ∧ s.psnLog = e :: l) := by
  refine ⟨?_, ?_, ?_, ?_, ?_, ?_, ?_⟩ <;> decide +kernel

theorem wit_PowerDomains :
    (let s : State := (own 17).setDom 136 false
     let m : Master := .cpa
     let n : Nat := 136
     mayWrite s m pgPOWER POWER_DOM_CMD true = true ∧ 136 ≤ n ∧ n ≤ 194 ∧ ¬ (190 ≤ n ∧ n ≤ 192) ∧ domPresent s.cfg n = true ∧
     s.domDead.contains n = false ∧ domOn s n = false ∧ rising s n = false) ∧
    (let s : State := (own 17).setDom 194 false
     let m : Master := .cpa
     let n : Nat := 194
     mayWrite s m pgPOWER POWER_DOM_CMD true = true ∧ 136 ≤ n ∧ n ≤ 194 ∧ ¬ (190 ≤ n ∧ n ≤ 192) ∧ domPresent s.cfg n = true ∧
     s.domDead.contains n = false ∧ domOn s n = false ∧ rising s n = false) ∧
    (let s : State := (((((own 17).setRimPower 7 12 3).setRimPower 7 13 3).setRimPower 7 14 5).setRimPower 7 15 3)
     let m : Master := .cpa
     let n : Nat := 167
     mayWrite s m pgPOWER POWER_DOM_CMD true = true ∧ 136 ≤ n ∧ n ≤ 194 ∧ ¬ (190 ≤ n ∧ n ≤ 192) ∧ domPresent s.cfg n = true ∧ domOn s n = true ∧
     domMayOff s n = true) ∧
    (let s : State := own 17
     let m : Master := .cpa
     let n : Nat := 189
     mayWrite s m pgPOWER POWER_DOM_CMD true = true ∧ 136 ≤ n ∧ n ≤ 194 ∧ ¬ (190 ≤ n ∧ n ≤ 192) ∧ domPresent s.cfg n = true ∧ domOn s n = true ∧
     domMayOff s n = true) ∧
    (let s : State := own 17
     let m : Master := .cpa
     let n : Nat := 255
     let reason : Nat := 1
     mayWrite s m pgPOWER POWER_DOM_CMD true = true ∧ n < 256 ∧
     (reason = 1 ∧ (194 < n ∨ domPresent s.cfg n = false)) ∨ (domPresent s.cfg n = true ∧ ((reason = 2 ∧ n < 136) ∨ (reason = 4 ∧ 190 ≤ n ∧ n ≤ 192) ∨ (reason = 3 ∧ 136 ≤ n ∧ n ≤ 194 ∧ ¬ (190 ≤ n ∧ n ≤ 192) ∧ domOn s n = true ∧ domMayOff s n = false)))) ∧
    (let s : State := own 17
     let m : Master := .cpa
     let n : Nat := 168
     let reason : Nat := 3
     mayWrite s m pgPOWER POWER_DOM_CMD true = true ∧ n < 256 ∧
     (reason = 1 ∧ (194 < n ∨ domPresent s.cfg n = false)) ∨ (domPresent s.cfg n = true ∧ ((reason = 2 ∧ n < 136) ∨ (reason = 4 ∧ 190 ≤ n ∧ n ≤ 192) ∨ (reason = 3 ∧ 136 ≤ n ∧ n ≤ 194 ∧ ¬ (190 ≤ n ∧ n ≤ 192) ∧ domOn s n = true ∧ domMayOff s n = false)))) ∧
    (let s : State := { (own 17).setDom 136 false with domUp := [(136, 0)], now := 1000 }
     let n : Nat := 136
     rising s n = true ∧ Sp.get 0 s.domUp n + domTime n ≤ s.now ∧ 136 ≤ n ∧ n ≤ 194) ∧
    (let s : State := { (own 17).setDom 194 false with domUp := [(194, 0)], now := 1000 }
     let n : Nat := 194
     rising s n = true ∧ Sp.get 0 s.domUp n + domTime n ≤ s.now ∧ 136 ≤ n ∧ n ≤ 194) := by
  refine ⟨?_, ?_, ?_, ?_, ?_, ?_, ?_, ?_⟩ <;> decide +kernel

theorem wit_RimPowerStates_1 :
    (let s : State := own 28
     let m : Master := .cpa
     let layer : Nat := 7
     let p : Nat := 15
     mayWrite s m (rimBase layer p) RIM_PWR_CTL true = true ∧ layer < 8 ∧ p < 16 ∧ rimPower s layer p = 0 ∧ inTransition s layer p = false ∧
     underTest s layer p = false ∧ rimPermits s layer p 2 = true) ∧
    (let s : State := own 28
     let m : Master := .cpa
     let layer : Nat := 7
     let p : Nat := 15
     mayWrite s m (rimBase layer p) RIM_PWR_CTL true = true ∧ layer < 8 ∧ p < 16 ∧ rimPower s layer p = 0 ∧ inTransition s layer p = false ∧
     underTest s layer p = false ∧ rimPermits s layer p 3 = true) ∧
    (let s : State := (own 21).put pgCACHE CACHE_SEC_STAT_CUR 0xFF
     let m : Master := .cpa
     let layer : Nat := 0
     let p : Nat := 15
     mayWrite s m (rimBase layer p) RIM_PWR_CTL true = true ∧ layer < 8 ∧ p < 16 ∧ rimPower s layer p = 0 ∧ inTransition s layer p = false ∧
     underTest s layer p = false ∧ rimPermits s layer p 3 = false) ∧
    (let s : State := (own 28).setRimPower 7 15 2
     let m : Master := .cpa
     let layer : Nat := 7
     let p : Nat := 15
     mayWrite s m (rimBase layer p) RIM_PWR_CTL true = true ∧ layer < 8 ∧ p < 16 ∧ (rimPower s layer p = 2 ∨ rimPower s layer p = 3) ∧
     inTransition s layer p = false ∧ underTest s layer p = false ∧ s.wakes = []) ∧
    (let s : State := (own 28).setRimPower 7 15 3
     let m : Master := .cpa
     let layer : Nat := 7
     let p : Nat := 15
     mayWrite s m (rimBase layer p) RIM_PWR_CTL true = true ∧ layer < 8 ∧ p < 16 ∧ (rimPower s layer p = 2 ∨ rimPower s layer p = 3) ∧
     inTransition s layer p = false ∧ underTest s layer p = false ∧ s.wakes = []) ∧
    (let s : State := (up.startDrain 7 15 2)
     let layer : Nat := 7
     let p : Nat := 15
     draining s layer p = true ∧ rimQueue s layer p = [] ∧ claimsAt s layer p = [] ∧ (rimOf s layer p).half = none ∧ (rimOf s layer p).krun = false) ∧
    (let s : State := { (up.startDrain 7 15 2).setFlight [{ ac .rim with layer := 7, frame := 15 }] with now := 10^9 }
     let layer : Nat := 7
     let p : Nat := 15
     layer < 8 ∧ draining s layer p = true ∧ (rimOf s layer p).half = none ∧ (rimOf s layer p).startedAt + 100 * s.get pgPOWER POWER_DRAIN_LIM_US ≤ s.now) := by
  refine ⟨?_, ?_, ?_, ?_, ?_, ?_, ?_⟩ <;> decide +kernel

theorem wit_RimPowerStates_2 :
    (let s : State := { ((up.setRimPower 7 15 4).rim 7 15 fun r => { r with goal := some 0 }) with now := 2000 }
     let layer : Nat := 7
     let p : Nat := 15
     let g : Nat := 0
     layer < 8 ∧ p < 17 ∧ (rimOf s layer p).goal = some g ∧ (g = 0 ∨ g = 2 ∨ g = 3) ∧ s.test.target = [] ∧
     (rimOf s layer p).startedAt + rimTime s layer p g ≤ s.now ∧ rimPower s layer p ≠ 5 ∧ (rimPower s layer p ≠ 1 ∨ (rimOf s layer p).moving = true)) ∧
    (let s : State := { ((up.setRimPower 7 16 4).rim 7 16 fun r => { r with goal := some 3 }) with now := 2000 }
     let layer : Nat := 7
     let p : Nat := 16
     let g : Nat := 3
     layer < 8 ∧ p < 17 ∧ (rimOf s layer p).goal = some g ∧ (g = 0 ∨ g = 2 ∨ g = 3) ∧ s.test.target = [] ∧
     (rimOf s layer p).startedAt + rimTime s layer p g ≤ s.now ∧ rimPower s layer p ≠ 5 ∧ (rimPower s layer p ≠ 1 ∨ (rimOf s layer p).moving = true)) ∧
    (let s : State := { up.setRimPower 7 15 3 with wakes := [17*7+15] }
     let layer : Nat := 7
     let p : Nat := 15
     layer < 8 ∧ p < 17 ∧ s.wakes = [17 * layer + p] ∧ (rimPower s layer p = 2 ∨ rimPower s layer p = 3) ∧ (rimOf s layer p).goal = none ∧
     (s.energyAcc.wakeStarts.filter fun t => decide (s.now < t + 100)).length < 16) ∧
    (let s : State := { up.setRimPower 7 16 3 with wakes := [17*7+16] }
     let layer : Nat := 7
     let p : Nat := 16
     layer < 8 ∧ p < 17 ∧ s.wakes = [17 * layer + p] ∧ (rimPower s layer p = 2 ∨ rimPower s layer p = 3) ∧ (rimOf s layer p).goal = none ∧
     (s.energyAcc.wakeStarts.filter fun t => decide (s.now < t + 100)).length < 16) ∧
    (let s : State := { up.setRimPower 7 15 3 with wakes := [17*7+15], energyAcc := { ({} : EnergySt) with wakeStarts := List.replicate 16 0 } }
     let layer : Nat := 7
     let p : Nat := 15
     layer < 8 ∧ p < 17 ∧ s.wakes = [17 * layer + p] ∧ (rimPower s layer p = 2 ∨ rimPower s layer p = 3) ∧ (rimOf s layer p).goal = none ∧
     16 ≤ (s.energyAcc.wakeStarts.filter fun t => decide (s.now < t + 100)).length) ∧
    (let s : State := { up.put (rimBase 7 15) RIM_PWR_CTL_IDLE_US 1 with now := 100 }
     let layer : Nat := 7
     let p : Nat := 15
     layer < s.cfg.dies ∧ layer < 8 ∧ p < 16 ∧ s.get (rimBase layer p) RIM_PWR_CTL_IDLE_US ≠ 0 ∧ s.get (rimBase layer p) RIM_PWR_CTL_TARGET = 0 ∧
     rimPower s layer p = 0 ∧ rimPermits s layer p 2 = true ∧ underTest s layer p = false ∧
     (rimOf s layer p).idleFrom + 100 * s.get (rimBase layer p) RIM_PWR_CTL_IDLE_US ≤ s.now) := by
  refine ⟨?_, ?_, ?_, ?_, ?_, ?_⟩ <;> decide +kernel

theorem wit_CadenceAndBudget :
    (let s : State := { up with now := 10000 }
     let a : Nat := 1999
     let p : Nat := 900
     s.clockOn = true ∧ 10000 * (s.energyAcc.cad + 1) ≤ s.now ∧ a < 2000 ∧ p < 2000) ∧
    (let s : State := { up with now := 10000 }
     let a : Nat := 0
     let p : Nat := 0
     s.clockOn = true ∧ 10000 * (s.energyAcc.cad + 1) ≤ s.now ∧ a < 2000 ∧ p < 2000) ∧
    (let s : State := { up with now := 10000 }
     s.clockOn = true ∧ 10000 * (s.energyAcc.cad + 1) ≤ s.now ∧ s.energyAcc.em0Down = false ∧ s.energyAcc.cad + 1 ≤ s.energyAcc.aliveAt + 2 ∧
     s.energyAcc.chunks = []) ∧
    (let s : State := { up.put pgPOWER POWER_EMG_STAT_ACTIVE 1 with now := 10000 }
     s.clockOn = true ∧ 10000 * (s.energyAcc.cad + 1) ≤ s.now ∧ s.energyAcc.em0Down = false ∧ s.energyAcc.cad + 1 ≤ s.energyAcc.aliveAt + 2 ∧
     s.energyAcc.chunks = []) ∧
    (let s : State := { up with now := 10000, energyAcc := { ({} : EnergySt) with budget := 1, stat := 5000 } }
     s.clockOn = true ∧ 10000 * (s.energyAcc.cad + 1) ≤ s.now ∧ s.energyAcc.budget ≠ 0) ∧
    (let s : State := { up with now := 10000, energyAcc := { ({} : EnergySt) with budget := 9, stat := 500 } }
     s.clockOn = true ∧ 10000 * (s.energyAcc.cad + 1) ≤ s.now ∧ s.energyAcc.budget ≠ 0) ∧
    (let s : State := { up with energyAcc := { ({} : EnergySt) with cad := 9 } }
     s.energyAcc.em0Down = false ∧ em0Alive s = false ∧ s.flag pgPOWER POWER_ARB_STAT_FLOOR_ACT = false) := by
  refine ⟨?_, ?_, ?_, ?_, ?_, ?_, ?_⟩ <;> decide +kernel

theorem wit_HeatAndEmergency_1 :
    (let s : State := (up.put pgPOWER (POWER_SEC_PACE.at 4 3) 77).put pgPOWER (POWER_SEC_VALID.at 4 3) 1
     let q : Nat := 31
     let pace : Nat := 65535
     q < 32 ∧ sectorOn s q = true ∧ pace < 2 ^ 16) ∧
    (let s : State := up
     let q : Nat := 0
     let pace : Nat := 0
     q < 32 ∧ sectorOn s q = true ∧ pace < 2 ^ 16) ∧
    (let pace : Nat := 65535
     pace < 2 ^ 16) ∧
    (let pace : Nat := 0
     pace < 2 ^ 16) ∧
    (let s : State := up
     let q : Nat := 31
     let temp : Nat := 0
     q < 32 ∧ sectorOn s q = true ∧ temp < 4096) ∧
    (let s : State := up.put pgPOWER (POWER_SEC_OT.at 4 31) 1
     let q : Nat := 31
     let temp : Nat := 1500
     q < 32 ∧ sectorOn s q = true ∧ temp < 4096) ∧
    (let s : State := { up with energyAcc := { ({} : EnergySt) with current := [(31,1)] } }
     let q : Nat := 31
     let temp : Nat := 2047
     q < 32 ∧ sectorOn s q = true ∧ temp < 4096 ∧ otLevel s ≤ signed 12 temp ∧ (Sp.get 0 s.energyAcc.current q = 1 ∨ Sp.get 0 s.energyAcc.current q = 3)) := by
  refine ⟨?_, ?_, ?_, ?_, ?_, ?_, ?_⟩ <;> decide +kernel

theorem wit_HeatAndEmergency_2 :
    (let s : State := up
     s.clockOn = true ∧ emergency s = false) ∧
    (let s : State := own 17
     let m : Master := .cpa
     mayWrite s m pgPOWER POWER_EMG_CTL true = true) ∧
    (let s : State := up.put pgPOWER POWER_EMG_STAT_ACTIVE 1
     s.clockOn = true ∧ emergency s = true ∧ s.flag pgPOWER POWER_EMG_STAT_OT = false ∧ s.flag pgPOWER POWER_EMG_STAT_FORCED = false ∧
     s.flag pgPOWER POWER_EMG_STAT_CLEARING = false) ∧
    (let s : State := (up.put pgPOWER POWER_EMG_STAT_ACTIVE 1).put pgPOWER POWER_EMG_STAT_CLEARING 1
     emergency s = true ∧ s.flag pgPOWER POWER_EMG_STAT_CLEARING = true ∧ s.energyAcc.clearAt ≤ s.now) ∧
    (let s : State := { up with now := 1, hub := { up.hub with govStarts := 9 } }
     s.hub.govWin < (10 * s.now + 9) / 16) ∧
    (let s : State := { up with now := 8, hub := { up.hub with govStarts := 9, govWin := 4 } }
     s.hub.govWin < (10 * s.now + 9) / 16) := by
  refine ⟨?_, ?_, ?_, ?_, ?_, ?_⟩ <;> decide +kernel

theorem wit_RegisterWrites_1 :
    (let s : State := up
     let m : Master := .cpb
     let g : Nat := 28
     mayWrite s m pgSEMA SEMA_SEM_OP false = true ∧ 1 ≤ g ∧ g ≤ 28 ∧ semOwner s g = 0) ∧
    (let s : State := up
     let m : Master := .cpa
     let g : Nat := 1
     mayWrite s m pgSEMA SEMA_SEM_OP false = true ∧ 1 ≤ g ∧ g ≤ 28 ∧ semOwner s g = 0) ∧
    (let s : State := own 28
     let m : Master := .cpb
     let g : Nat := 28
     mayWrite s m pgSEMA SEMA_SEM_OP false = true ∧ 1 ≤ g ∧ g ≤ 28 ∧ semOwner s g ≠ 0 ∧ semOwner s g ≠ m.holder) ∧
    (let s : State := own 28
     let m : Master := .cpa
     let g : Nat := 28
     mayWrite s m pgSEMA SEMA_SEM_OP false = true ∧ 1 ≤ g ∧ g ≤ 28 ∧ semOwner s g ≠ 0 ∧ semOwner s g = m.holder) ∧
    (let s : State := own 1
     let m : Master := .cpb
     let g : Nat := 1
     mayWrite s m pgSEMA SEMA_SEM_OP false = true ∧ 1 ≤ g ∧ g ≤ 28 ∧ semOwner s g ≠ 0 ∧ semOwner s g ≠ m.holder ∧ m ≠ .dbg) ∧
    (let s : State := own 11
     let m : Master := .cpa
     let off : Nat := pgMOVER+HDR_IRQ_FORCE
     let set : Nat := 1
     let k : Nat := 0
     let p : PageAt := ⟨.mover,0,pgMOVER⟩
     pageAt off = some p ∧ mayWrite s m p.base HDR_IRQ_FORCE false = true ∧ set < 2 ^ 32 ∧ k < irqN p.page ∧ set.testBit k = true) := by
  refine ⟨?_, ?_, ?_, ?_, ?_, ?_⟩ <;> decide +kernel

theorem wit_RegisterWrites_2 :
    (let s : State := own 16
     let m : Master := .cpa
     let off : Nat := pgINTEG+HDR_IRQ_FORCE
     let set : Nat := 0x40
     let k : Nat := 6
     let p : PageAt := ⟨.integ,0,pgINTEG⟩
     pageAt off = some p ∧ mayWrite s m p.base HDR_IRQ_FORCE false = true ∧ set < 2 ^ 32 ∧ k < irqN p.page ∧ set.testBit k = true) ∧
    (let p : PageAt := ⟨.hub, 0, pgHUB⟩
     let o := HUB_PLANE_STAT
     let rr := rowAt p.page o
     let r := rr.getD ⟨0, 0, 0, 0, 0, []⟩
     let s : State := own 5
     let m : Master := .cpa
     pageAt (p.base + o) = some p ∧ o % 4 = 0 ∧ plainReg p o = true ∧ mayWrite s m p.base o true = true ∧ rowAt p.page o = some r) ∧
    (let p : PageAt := ⟨.layer, 7, layerBase 7⟩
     let o := 0x40
     let r := (rowAt p.page o).getD ⟨0, 0, 0, 0, 0, []⟩
     let s : State := own 28
     let m : Master := .cpa
     pageAt (p.base + o) = some p ∧ o % 4 = 0 ∧ plainReg p o = true ∧ mayWrite s m p.base o true = true ∧ rowAt p.page o = some r) ∧
    (let p : PageAt := ⟨.handleCmd, 0, pgHCMD⟩
     let o := HANDLE_CMD_SDESC0
     let r := (rowAt p.page o).getD ⟨0, 0, 0, 0, 0, []⟩
     let f := (r.fields.find? fun f => decide (f.acc = .rwo)).getD ⟨0, 0, .ro, 0⟩
     let s : State := up
     let m : Master := .cpa
     pageAt (p.base + o) = some p ∧ o % 4 = 0 ∧ plainReg p o = true ∧ mayWrite s m p.base o false = true ∧ mayWrite s m p.base o true = false ∧
     rowAt p.page o = some r ∧ f ∈ r.fields ∧ f.acc = .rwo) ∧
    (let p : PageAt := ⟨.hub, 0, pgHUB⟩
     let o := HUB_PLANE_STAT
     let s : State := up
     let m : Master := .dbg
     pageAt (p.base + o) = some p ∧ o % 4 = 0 ∧ 0x40 ≤ o ∧ plainReg p o = true ∧ fabricOpen s m p = true ∧ pagePresent s.cfg p = true ∧
     writePath s m p = false) := by
  refine ⟨?_, ?_, ?_, ?_, ?_⟩ <;> decide +kernel

theorem wit_FabricGrants :
    (let s : State := up
     let f : FabPiece := (⟨.cpb, false, pgHUB + 0x40, 1, [], pgHUB + 0x40, 0⟩ : FabPiece)
     let p : PageAt := ⟨.hub,0,pgHUB⟩
     pieceOpen s f = true ∧ pieceNext s f = true ∧ f.wr = false ∧ f.n = 1 ∧ beatPage f (f.off / 4 * 4) = some p ∧ pagePresent s.cfg p = true ∧
     readPath s f.m p = true) ∧
    (let s : State := own 5
     let f : FabPiece := (⟨.cpa, true, pgHUB + 0x40, 1, [0x1000], pgHUB + 0x40, 0⟩ : FabPiece)
     let p : PageAt := ⟨.hub,0,pgHUB⟩
     let w : Nat := 0x1000
     pieceOpen s f = true ∧ pieceNext s f = true ∧ f.wr = true ∧ f.data = [w] ∧ beatPage f (f.off / 4 * 4) = some p) ∧
    (let s : State := { own 5 with fab := { up.fab with bursts := [(0, ⟨true, pgHUB + 0x40, pgHUB + 0x40, 1, 1⟩)] } }
     let f : FabPiece := (⟨.cpa, true, pgHUB + 0x40, 1, [0x1000], pgHUB + 0x40, 0⟩ : FabPiece)
     let p : PageAt := ⟨.hub,0,pgHUB⟩
     let w : Nat := 0x1000
     pieceOpen s f = true ∧ pieceNext s f = true ∧ f.wr = true ∧ f.data = [w] ∧ beatPage f (f.off / 4 * 4) = some p) ∧
    (let s : State := (ems up).wr (pgMBCTL + MAILBOX_CTL_FAB_PRIO_LO + 8) 0xFFFFFFFF
     let f : FabPiece := (⟨.em0, false, pgHUB + 0x40, 1, [], pgHUB + 0x40, 0⟩ : FabPiece)
     let h : FabPiece := (⟨.cpb, false, pgHUB + 0x40, 1, [], pgHUB + 0x40, 0⟩ : FabPiece)
     pieceOpen s f = true ∧ pieceNext s f = true ∧ pieceOpen s h = true ∧ pieceNext s h = true ∧ f.m ≠ h.m ∧ pieceGroup f = pieceGroup h ∧
     passedOf s (pieceGroup f) f.m < 8 ∧ passedOf s (pieceGroup f) h.m < 8 ∧ fabPrio s f.m (pieceGroup f) < fabPrio s h.m (pieceGroup f)) ∧
    (let s : State := up.wr (pgMBCTL + MAILBOX_CTL_FAB_PRIO_LO + 8) 0xFFFFFFFF
     let f : FabPiece := (⟨.cpa, false, pgHUB + 0x40, 1, [], pgHUB + 0x40, 0⟩ : FabPiece)
     let h : FabPiece := (⟨.cpb, false, pgHUB + 0x40, 1, [], pgHUB + 0x40, 0⟩ : FabPiece)
     pieceOpen s f = true ∧ pieceNext s f = true ∧ pieceOpen s h = true ∧ pieceNext s h = true ∧ f.m ≠ h.m ∧ pieceGroup f = pieceGroup h ∧
     passedOf s (pieceGroup f) f.m < 8 ∧ passedOf s (pieceGroup f) h.m < 8 ∧ fabPrio s f.m (pieceGroup f) < fabPrio s h.m (pieceGroup f)) ∧
    (let s : State := { ems up with fab := { up.fab with passed := [(8 * pieceGroup (⟨.cpb, false, pgHUB + 0x40, 1, [], pgHUB + 0x40, 0⟩ : FabPiece) + Master.cpb.code, 8)] } }
     let f : FabPiece := (⟨.em0, false, pgHUB + 0x40, 1, [], pgHUB + 0x40, 0⟩ : FabPiece)
     let h : FabPiece := (⟨.cpb, false, pgHUB + 0x40, 1, [], pgHUB + 0x40, 0⟩ : FabPiece)
     pieceOpen s f = true ∧ pieceNext s f = true ∧ pieceOpen s h = true ∧ pieceNext s h = true ∧ f.m ≠ h.m ∧ pieceGroup f = pieceGroup h ∧
     passedOf s (pieceGroup f) f.m < 8 ∧ 8 ≤ passedOf s (pieceGroup f) h.m) ∧
    (let s : State := { up with fab := { up.fab with passed := [(8 * pieceGroup (⟨.cpb, false, pgHUB + 0x40, 1, [], pgHUB + 0x40, 0⟩ : FabPiece) + Master.cpb.code, 8)] } }
     let f : FabPiece := (⟨.cpa, false, pgHUB + 0x40, 1, [], pgHUB + 0x40, 0⟩ : FabPiece)
     let h : FabPiece := (⟨.cpb, false, pgHUB + 0x40, 1, [], pgHUB + 0x40, 0⟩ : FabPiece)
     pieceOpen s f = true ∧ pieceNext s f = true ∧ pieceOpen s h = true ∧ pieceNext s h = true ∧ f.m ≠ h.m ∧ pieceGroup f = pieceGroup h ∧
     passedOf s (pieceGroup f) f.m < 8 ∧ 8 ≤ passedOf s (pieceGroup f) h.m) := by
  refine ⟨?_, ?_, ?_, ?_, ?_, ?_, ?_⟩ <;> decide +kernel

theorem wit_FirmwareCommands_1 :
    (let s : State := (own 18)
     let m : Master := .cpa
     mayWrite s m pgMBCTL MAILBOX_CTL_FW_CMD true = true ∧ s.flag pgMBCTL MAILBOX_CTL_FW_STAT_BUSY = false ∧
     s.flag pgMBCTL MAILBOX_CTL_FW_STAT_PENDING = false) ∧
    (let s : State := { up with fw := { up.fw with load := some ({ got := 256, data := 5 } : FwLoad) } }
     let l : FwLoad := ({ got := 256, data := 5 } : FwLoad)
     s.fw.load = some l ∧ loadOver l = true ∧ s.hub.answers = [] ∧ l.bad = false) ∧
    (let s : State := { up with fw := { up.fw with load := some ({ bad := true } : FwLoad) } }
     let l : FwLoad := ({ bad := true } : FwLoad)
     s.fw.load = some l ∧ loadOver l = true ∧ s.hub.answers = [] ∧ l.bad = true) ∧
    (let s : State := ((own 18).put pgMBCTL MAILBOX_CTL_FW_STAT_STAGED 1)
     let m : Master := .cpa
     mayWrite s m pgMBCTL MAILBOX_CTL_FW_CMD true = true ∧ s.flag pgMBCTL MAILBOX_CTL_FW_STAT_BUSY = false ∧
     s.flag pgMBCTL MAILBOX_CTL_FW_STAT_PENDING = false ∧ emergency s = false ∧ s.flag pgMBCTL MAILBOX_CTL_FW_STAT_STAGED = true ∧ coreRestarting s = false) ∧
    (let s : State := (own 18).put pgPOWER POWER_EMG_STAT_ACTIVE 1
     let m : Master := .cpa
     mayWrite s m pgMBCTL MAILBOX_CTL_FW_CMD true = true ∧ s.flag pgMBCTL MAILBOX_CTL_FW_STAT_BUSY = false ∧
     s.flag pgMBCTL MAILBOX_CTL_FW_STAT_PENDING = false ∧ emergency s = true) ∧
    (let s : State := (own 18)
     let m : Master := .cpa
     mayWrite s m pgMBCTL MAILBOX_CTL_FW_CMD true = true ∧ s.flag pgMBCTL MAILBOX_CTL_FW_STAT_BUSY = false ∧
     s.flag pgMBCTL MAILBOX_CTL_FW_STAT_PENDING = false ∧ emergency s = false ∧ s.flag pgMBCTL MAILBOX_CTL_FW_STAT_STAGED = false) := by
  refine ⟨?_, ?_, ?_, ?_, ?_, ?_⟩ <;> decide +kernel

theorem wit_FirmwareCommands_2 :
    (let s : State := (own 18).put pgMBCTL MAILBOX_CTL_FW_STAT_PENDING 0
     let m : Master := .cpa
     mayWrite s m pgMBCTL MAILBOX_CTL_FW_CMD true = true ∧ s.flag pgMBCTL MAILBOX_CTL_FW_STAT_BUSY = false) ∧
    (let s : State := (own 18).put pgMBCTL MAILBOX_CTL_FW_STAT_PENDING 1
     let m : Master := .cpa
     mayWrite s m pgMBCTL MAILBOX_CTL_FW_CMD true = true ∧ s.flag pgMBCTL MAILBOX_CTL_FW_STAT_BUSY = false) ∧
    (let s : State := { ((own 18).put pgMBCTL MAILBOX_CTL_FW_STAT_STAGED 1).put pgMBCTL MAILBOX_CTL_FW_STAT_PENDING 1 with now := 1000000 }
     s.flag pgMBCTL MAILBOX_CTL_FW_STAT_PENDING = true ∧ emergency s = false ∧ s.clockOn = true ∧ s.energyAcc.fellAt + 1000000 ≤ s.now ∧
     s.flag pgMBCTL MAILBOX_CTL_FW_STAT_STAGED = true ∧ coreRestarting s = false) ∧
    (let s : State := { (ems ((own 18).put pgMBCTL MAILBOX_CTL_FW_STAT_STAGED 1)).put pgMBCTL MAILBOX_CTL_FW_STAT_COMMITS 255 with fw := { up.fw with act := some ({ start := 0, cores := [0,1], kicked := [1,0] } : FwAct) } }
     let a : FwAct := ({ start := 0, cores := [0,1], kicked := [1,0] } : FwAct)
     s.fw.act = some a ∧ (∀ n ∈ a.cores, emRuns s n = true ∧ a.kicked.contains n = true ∧ a.spoiled.contains n = false)) ∧
    (let s : State := { (ems ((own 18).put pgMBCTL MAILBOX_CTL_FW_STAT_STAGED 1)) with now := 5000000, fw := { up.fw with act := some ({ start := 0, cores := [0,1], kicked := [1,0], spoiled := [0] } : FwAct) } }
     let a : FwAct := ({ start := 0, cores := [0,1], kicked := [1,0], spoiled := [0] } : FwAct)
     s.fw.act = some a ∧ s.clockOn = true ∧ a.start + 5000000 ≤ s.now ∧ (∃ n ∈ a.cores, a.kicked.contains n = false ∨ a.spoiled.contains n = true)) ∧
    (let s : State := { (ems ((own 18).put pgMBCTL MAILBOX_CTL_FW_STAT_STAGED 1)) with now := 5000000, fw := { up.fw with act := some ({ start := 0, cores := [0,1], kicked := [1] } : FwAct), active := false } }
     let a : FwAct := ({ start := 0, cores := [0,1], kicked := [1] } : FwAct)
     s.fw.act = some a ∧ s.clockOn = true ∧ a.start + 5000000 ≤ s.now ∧ (∃ n ∈ a.cores, a.kicked.contains n = false ∨ a.spoiled.contains n = true)) := by
  refine ⟨?_, ?_, ?_, ?_, ?_, ?_⟩ <;> decide +kernel

theorem wit_CoresAndRings_1 :
    (let s : State := { (up.put pgMBCTL (emFld 1 MAILBOX_CTL_EM_STAT_STATE) 1) with fw := { up.fw with banks := [(0, img1)] } }
     let n : Nat := 1
     n < 2 ∧ (emState s n = 1 ∨ emState s n = 3) ∧ s.fw.held = false ∧ sectionGood s (loadBank s n) n = true) ∧
    (let s : State := { (up.put pgMBCTL (emFld 1 MAILBOX_CTL_EM_STAT_STATE) 3) with fw := { up.fw with banks := [(1, img1)], active := true, act := some ({ start := 0, cores := [0,1], kicked := [1] } : FwAct) } }
     let n : Nat := 1
     n < 2 ∧ (emState s n = 1 ∨ emState s n = 3) ∧ s.fw.held = false ∧ sectionGood s (loadBank s n) n = true) ∧
    (let s : State := (up.put pgMBCTL (emFld 1 MAILBOX_CTL_EM_STAT_STATE) 1)
     let n : Nat := 1
     n < 2 ∧ (emState s n = 1 ∨ emState s n = 3) ∧ s.fw.held = false ∧ sectionGood s (loadBank s n) n = false ∧ s.fw.act = none) ∧
    (let s : State := (up.put pgMBCTL (emFld 1 MAILBOX_CTL_EM_STAT_STATE) 3)
     let n : Nat := 1
     n < 2 ∧ (emState s n = 1 ∨ emState s n = 3) ∧ s.fw.held = false ∧ sectionGood s (loadBank s n) n = false ∧ s.fw.act = none) ∧
    (let s : State := { (up.put pgMBCTL (emFld 1 MAILBOX_CTL_EM_STAT_STATE) 1) with fw := { up.fw with act := some ({ start := 0, cores := [0,1], kicked := [1] } : FwAct), active := true } }
     let n : Nat := 1
     let a := ({ start := 0, cores := [0,1], kicked := [1] } : FwAct)
     n < 2 ∧ (emState s n = 1 ∨ emState s n = 3) ∧ s.fw.held = false ∧ sectionGood s (loadBank s n) n = false ∧ s.fw.act = some a) ∧
    (let s : State := { (up.put pgMBCTL (emFld 1 MAILBOX_CTL_EM_STAT_STATE) 3) with fw := { up.fw with act := some ({ start := 0, cores := [0,1], kicked := [1] } : FwAct), active := false } }
     let n : Nat := 1
     let a := ({ start := 0, cores := [0,1], kicked := [1] } : FwAct)
     n < 2 ∧ (emState s n = 1 ∨ emState s n = 3) ∧ s.fw.held = false ∧ sectionGood s (loadBank s n) n = false ∧ s.fw.act = some a) ∧
    (let s : State := ems up
     let m : Master := .em1
     let n : Nat := 1
     n < 2 ∧ mayWrite s m pgMBCTL (MAILBOX_CTL_WDT_KICK + 4 * n) false = true ∧ emRuns s n = true ∧ (m = (if n = 0 then .em0 else .em1))) ∧
    (let s : State := { ems up with fw := { up.fw with act := some ({ start := 0, cores := [0,1], kicked := [1] } : FwAct) } }
     let m : Master := .em0
     let n : Nat := 0
     n < 2 ∧ mayWrite s m pgMBCTL (MAILBOX_CTL_WDT_KICK + 4 * n) false = true ∧ emRuns s n = true ∧ (m = (if n = 0 then .em0 else .em1))) := by
  refine ⟨?_, ?_, ?_, ?_, ?_, ?_, ?_, ?_⟩ <;> decide +kernel

theorem wit_CoresAndRings_2 :
    (let s : State := { ems up with now := 1000000 }
     let n : Nat := 1
     n < 2 ∧ emRuns s n = true ∧ s.clockOn = true ∧ Sp.get 0 s.fw.kickAt n + 1000000 ≤ s.now) ∧
    (let s : State := { ems up with now := 1000000, fw := { up.fw with act := some ({ start := 0, cores := [0,1], kicked := [1] } : FwAct) } }
     let n : Nat := 0
     n < 2 ∧ emRuns s n = true ∧ s.clockOn = true ∧ Sp.get 0 s.fw.kickAt n + 1000000 ≤ s.now) ∧
    (let s : State := { own 18 with fw := { up.fw with active := true } }
     let m : Master := .cpa
     let n : Nat := 1
     n < 2 ∧ mayWrite s m pgMBCTL MAILBOX_CTL_EM_CTL true = true ∧ (s.fw.active = true ∨ emState s n ≠ 0) ∧ emDead s n = false) ∧
    (let s : State := { ems (own 18) with fw := { up.fw with act := some ({ start := 0, cores := [0,1], kicked := [1] } : FwAct) } }
     let m : Master := .cpa
     let n : Nat := 1
     n < 2 ∧ mayWrite s m pgMBCTL MAILBOX_CTL_EM_CTL true = true ∧ (s.fw.active = true ∨ emState s n ≠ 0) ∧ emDead s n = false) ∧
    (let s : State := up
     let m : Master := .cpb
     let r : Nat := 1
     let v : Nat := 0
     r < 2 ∧ v < 256 ∧ mayWrite s m (mboxBase r) MBOX_REQ_PROD false = true ∧ m.isEm = false) ∧
    (let s : State := up
     let m : Master := .cpb
     let r : Nat := 1
     let v : Nat := 255
     r < 2 ∧ v < 256 ∧ mayWrite s m (mboxBase r) MBOX_REQ_PROD false = true ∧ m.isEm = false) ∧
    (let s : State := up
     let m : Master := .cpa
     let r : Nat := 0
     let v : Nat := 0
     r < 2 ∧ v < 256 ∧ mayWrite s m (mboxBase r) MBOX_RSP_CONS false = true ∧ m.isEm = false) ∧
    (let s : State := up.put (mboxBase 0) MBOX_MB_STAT_RSP_PROD 3
     let m : Master := .cpa
     let r : Nat := 0
     let v : Nat := 3
     r < 2 ∧ v < 256 ∧ mayWrite s m (mboxBase r) MBOX_RSP_CONS false = true ∧ m.isEm = false) := by
  refine ⟨?_, ?_, ?_, ?_, ?_, ?_, ?_, ?_⟩ <;> decide +kernel

theorem wit_CoresAndRings_3 :
    (let s : State := msg up 1 0x0001 0 77 88
     let r : Nat := 1
     msgAt s r 0x0001) ∧
    (let s : State := msg up 1 0x0001 48 77 88
     let r : Nat := 1
     msgAt s r 0x0001) ∧
    (let s : State := msg up 1 0x8001 0 77 88
     let r : Nat := 1
     msgAt s r 0x8001) ∧
    (let s : State := msg up 1 0x8001 48 77 88
     let r : Nat := 1
     msgAt s r 0x8001) ∧
    (let s : State := { msg up 1 0x0002 0 0 0 with now := 2^40+9, fw := { up.fw with vers := [(0,(3,4)),(1,(5,6))], runAt := [(0,7),(1,8)] } }
     let r : Nat := 1
     msgAt s r 0x0002) ∧
    (let s : State := { msg up 0 0x8002 0 0 0 with now := 2^40+9, fw := { up.fw with vers := [(0,(3,4)),(1,(5,6))], runAt := [(0,7),(1,8)] } }
     let r : Nat := 0
     msgAt s r 0x8002) := by
  unfold msgAt
  refine ⟨?_, ?_, ?_, ?_, ?_, ?_⟩ <;> decide +kernel

theorem wit_LifeMessages_1 :
    (let s : State := msg up 1 0x0200 0 0 0
     let r : Nat := 1
     msgAt s r 0x0200) ∧
    (let s : State := lmsg 0x0200 0 0 0
     let r : Nat := 1
     msgAt s r 0x0200) ∧
    (let s : State := { lmsg 0x0201 0 0 0 with life := { up.life with loaded := true } }
     let r : Nat := 1
     msgAt s r 0x0201 ∧ s.life.writing = none ∧ s.life.loaded = true ∧ s.cfg.optN = false) ∧
    (let s : State := { msg up 1 0x0201 0 0 0 with life := { up.life with loaded := true, bad := 255 } }
     let r : Nat := 1
     msgAt s r 0x0201 ∧ s.life.writing = none ∧ s.life.loaded = true ∧ s.cfg.optN = true ∧ nextGood s 0 = none) ∧
    (let s : State := { msg up 1 0x0201 0 0 0 with life := { up.life with loaded := true } }
     let r : Nat := 1
     let j := 0
     let k := (nextGood up up.life.slot).getD 9
     msgAt s r 0x0201 ∧ s.life.writing = none ∧ s.life.loaded = true ∧ s.cfg.optN = true ∧ nextGood s 0 = some j ∧ nextGood s s.life.slot = some k) ∧
    (let s : State := msg up 1 0x0202 3 0 0
     let r : Nat := 1
     msgAt s r 0x0202 ∧ headLen s r < 4) ∧
    (let s : State := msg up 1 0x0202 4 3 0
     let r : Nat := 1
     msgAt s r 0x0202 ∧ 4 ≤ headLen s r ∧ (reqWord s r 4 % 4 ≠ 0 ∨ imgSize ≤ reqWord s r 4)) ∧
    (let s : State := msg up 1 0x0202 4 8192 0
     let r : Nat := 1
     msgAt s r 0x0202 ∧ 4 ≤ headLen s r ∧ (reqWord s r 4 % 4 ≠ 0 ∨ imgSize ≤ reqWord s r 4)) ∧
    (let s : State := { msg up 1 0x0202 4 8188 0 with life := { up.life with ready := true, flushed := [(8189,7)] } }
     let r : Nat := 1
     msgAt s r 0x0202 ∧ 4 ≤ headLen s r ∧ reqWord s r 4 % 4 = 0 ∧ reqWord s r 4 < imgSize ∧ s.life.ready = true) := by
  unfold msgAt
  refine ⟨?_, ?_, ?_, ?_, ?_, ?_, ?_, ?_, ?_⟩ <;> decide +kernel

theorem wit_LifeMessages_2 :
    (let s : State := { msg up 1 0x0202 4 0 0 with life := { up.life with ready := true, flushed := [(9,7),(47,3),(48,5)] } }
     let r : Nat := 1
     msgAt s r 0x0202 ∧ 4 ≤ headLen s r ∧ reqWord s r 4 % 4 = 0 ∧ reqWord s r 4 < imgSize ∧ s.life.ready = true) ∧
    (let s : State := msg up 1 0x0202 4 8188 0
     let r : Nat := 1
     msgAt s r 0x0202 ∧ 4 ≤ headLen s r ∧ reqWord s r 4 % 4 = 0 ∧ reqWord s r 4 < imgSize ∧ s.life.ready = false) ∧
    (let s : State := msg up 1 0x0203 8 0 0
     let r : Nat := 1
     msgAt s r 0x0203 ∧ s.cfg.optN = true) ∧
    (let s : State := { msg up 1 0x0203 8 0 0 with cfg := { Dev.kiln16 with optN := false } }
     let r : Nat := 1
     msgAt s r 0x0203 ∧ s.cfg.optN = false ∧ ringOwns s r 19 = false) ∧
    (let s : State := lmsg 0x0203 8 8188 0x12345678
     let r : Nat := 1
     msgAt s r 0x0203 ∧ s.cfg.optN = false ∧ ringOwns s r 19 = true ∧ headLen s r = 8 ∧ reqWord s r 4 % 4 = 0 ∧ reqWord s r 4 + 4 ≤ imgSize ∧
     Mem.wf s.life.buf = true) ∧
    (let s : State := msg up 1 0x0204 0 0 0
     let r : Nat := 1
     msgAt s r 0x0204 ∧ s.cfg.optN = true) ∧
    (let s : State := { msg up 1 0x0204 0 0 0 with cfg := { Dev.kiln16 with optN := false } }
     let r : Nat := 1
     msgAt s r 0x0204 ∧ s.cfg.optN = false ∧ ringOwns s r 19 = false) ∧
    (let s : State := { lmsg 0x0204 0 0 0 with life := { up.life with committed := true } }
     let r : Nat := 1
     msgAt s r 0x0204 ∧ s.cfg.optN = false ∧ ringOwns s r 19 = true ∧ s.life.committed = true) ∧
    (let s : State := { lmsg 0x0204 0 0 0 with life := { up.life with loaded := true, buf := img0 } }
     let r : Nat := 1
     msgAt s r 0x0204 ∧ s.cfg.optN = false ∧ ringOwns s r 19 = true ∧ s.life.committed = false ∧ s.life.loaded = true ∧ imgValid s.life.buf = true) := by
  unfold msgAt
  refine ⟨?_, ?_, ?_, ?_, ?_, ?_, ?_, ?_, ?_⟩
  · decide +kernel
  · decide +kernel
  · decide +kernel
  · decide +kernel
  · decide +kernel
  · decide +kernel
  · decide +kernel
  · decide +kernel
  · exact ⟨by decide +kernel, by decide +kernel, by decide +kernel, by decide +kernel, by decide +kernel, by exact valid_of _ rfl⟩

theorem wit_FieldTests_1 :
    (let s : State := (lcs 1)
     let m : Master := .cpa
     let layer := 0
     let i := 15
     mayWrite s m pgTEST TEST_FT_CMD false = true ∧ (lcState s ≠ 2 ∧ lcState s ≠ 4 ∨ m.isEm = true) ∧ s.test.ft = none ∧ layer < 8 ∧ i < 16 ∧
     rimTestBar s layer i = none) ∧
    (let s : State := lcs 3
     let m : Master := .cpa
     let layer := 1
     let i := 0
     mayWrite s m pgTEST TEST_FT_CMD false = true ∧ (lcState s ≠ 2 ∧ lcState s ≠ 4 ∨ m.isEm = true) ∧ s.test.ft = none ∧ layer < 8 ∧ i < 16 ∧
     rimTestBar s layer i = none) ∧
    (let s : State := (lcs 1).put (rimBase 7 15) RIM_PWR_STAT_STATE 5
     let m : Master := .cpa
     let layer := 7
     let i := 15
     let res := (rimTestBar ((lcs 1).put (rimBase 7 15) RIM_PWR_STAT_STATE 5) 7 15).getD 99
     mayWrite s m pgTEST TEST_FT_CMD false = true ∧ (lcState s ≠ 2 ∧ lcState s ≠ 4 ∨ m.isEm = true) ∧ s.test.ft = none ∧ layer < 8 ∧ i < 16 ∧
     rimTestBar s layer i = some res) ∧
    (let s : State := (lcs 1).setRole 7 4 0
     let m : Master := .cpa
     let layer := 7
     let i := 15
     let res := (rimTestBar ((lcs 1).setRole 7 4 0) 7 15).getD 99
     mayWrite s m pgTEST TEST_FT_CMD false = true ∧ (lcState s ≠ 2 ∧ lcState s ≠ 4 ∨ m.isEm = true) ∧ s.test.ft = none ∧ layer < 8 ∧ i < 16 ∧
     rimTestBar s layer i = some res) ∧
    (let s : State := (lcs 1)
     let m : Master := .cpa
     let p := 1
     mayWrite s m pgTEST TEST_FT_CMD false = true ∧ (lcState s ≠ 2 ∧ lcState s ≠ 4 ∨ m.isEm = true) ∧ s.test.ft = none ∧ p < 2 ∧ planeTestBar s p = none) ∧
    (let s : State := { lcs 1 with cfg := { Dev.kiln16 with links := 2 } }
     let m : Master := .cpa
     let p := 1
     let depth := 1
     mayWrite s m pgTEST TEST_FT_CMD false = true ∧ (lcState s ≠ 2 ∧ lcState s ≠ 4 ∨ m.isEm = true) ∧ s.test.ft = none ∧ p < 4 ∧
     linkTestBar s p depth = none) ∧
    (let s : State := (lcs 1)
     let m : Master := .cpa
     mayWrite s m pgTEST TEST_FT_CMD false = true ∧ (lcState s ≠ 2 ∧ lcState s ≠ 4 ∨ m.isEm = true) ∧ s.test.ft = none ∧ syncTestBar s = none) ∧
    (let s : State := lcs 4
     let m : Master := .cpa
     mayWrite s m pgTEST TEST_FT_CMD false = true ∧ (lcState s = 2 ∨ lcState s = 4) ∧ m.isEm = false) ∧
    (let s : State := inTest (test1 1 15 false) 1
     let m : Master := .cpa
     let f : FieldTest := test1 1 15 false
     mayWrite s m pgTEST TEST_FT_CMD false = true ∧ (lcState s ≠ 2 ∧ lcState s ≠ 4 ∨ m.isEm = true) ∧ s.test.ft = some f ∧ f.op = 1 ∧ f.layer < 8 ∧
     f.reply = none ∧ s.get pgTEST TEST_FT_STAT_PHASE = 1) ∧
    (let s : State := inTest (test1 2 1 false) 1
     let m : Master := .cpa
     let f : FieldTest := test1 2 1 false
     mayWrite s m pgTEST TEST_FT_CMD false = true ∧ (lcState s ≠ 2 ∧ lcState s ≠ 4 ∨ m.isEm = true) ∧ s.test.ft = some f ∧ f.op ≠ 1) := by
  refine ⟨?_, ?_, ?_, ?_, ?_, ?_, ?_, ?_, ?_, ?_⟩ <;> decide +kernel

theorem wit_FieldTests_2 :
    (let s : State := { inTest (test1 1 15 false) 1 with integ := { up.integ with copies := [(0, ⟨15, 15, 16, 0, 65536, 0, 0, 0, 0⟩)] } }
     let f : FieldTest := test1 1 15 false
     inPhase s 1 = some f ∧ f.layer < 8 ∧ f.unit < 16 ∧ copied s f.layer f.unit = true) ∧
    (let s : State := inTest ({ test1 1 15 false with pat := 2 ^ 30 }) 2
     let f : FieldTest := { test1 1 15 false with pat := 2 ^ 30 }
     inPhase s 2 = some f ∧ f.layer < 8 ∧ f.unit < 16 ∧ emergency s = false ∧ f.reply = none ∧ patAll f.layer ≤ f.pat) ∧
    (let s : State := inTest (test1 1 15 false) 2
     let f : FieldTest := test1 1 15 false
     let elem : Nat := 15
     let bank : Nat := 15
     let row : Nat := 16383
     inPhase s 2 = some f ∧ f.layer < 8 ∧ f.unit < 16 ∧ emergency s = false ∧ f.reply = none ∧ elem < 16 ∧ bank < 16 ∧ row < 2 ^ 14) ∧
    (let s : State := { inTest (test1 1 15 true) 3 with integ := { up.integ with copies := [(0, ⟨15, 15, 16, 0, 65536, 0, 0, 0, 0⟩)] } }
     let f : FieldTest := test1 1 15 true
     inPhase s 3 = some f ∧ f.layer < 8 ∧ f.unit < 16 ∧ f.reply = none ∧ copied s f.layer f.unit = true ∧ s.integ.cmd = none) ∧
    (let s : State := { inTest (test1 1 15 false) 3 with integ := { up.integ with copies := [(0, ⟨15, 15, 16, 0, 65536, 0, 0, 0, 0⟩)] } }
     let f : FieldTest := test1 1 15 false
     inPhase s 3 = some f ∧ f.layer < 8 ∧ f.unit < 16 ∧ f.reply = none ∧ copied s f.layer f.unit = true ∧ s.integ.cmd = none) ∧
    (let s : State := { (inTest (test1 2 1 false) 2).put pgHUB HUB_PLANE_STAT_B_STATE 2 with now := 40000 }
     let f : FieldTest := test1 2 1 false
     s.test.ft = some f ∧ emergency s = false ∧ f.reply = none ∧ f.abort = false ∧ f.start + ftTicks f.op ≤ s.now ∧ f.op = 2 ∧ f.unit < 2 ∧
     parked s = false ∧ s.hub.change = none ∧ planeState s f.unit = 2 ∧ s.get pgTEST TEST_FT_STAT_PHASE = 2) ∧
    (let s : State := { inTest (test1 2 1 false) 3 with now := 40000 }
     let f : FieldTest := test1 2 1 false
     s.test.ft = some f ∧ emergency s = false ∧ f.reply = none ∧ f.abort = false ∧ f.start + ftTicks f.op ≤ s.now ∧ f.op = 2 ∧ parked s = false ∧
     s.hub.change = none ∧ planeState s f.unit = 0 ∧ s.get pgTEST TEST_FT_STAT_PHASE = 3) ∧
    (let s : State := ({ inTest (test1 3 1 false) 2 with now := 100000, cfg := { Dev.kiln16 with links := 2 } }).put pgLINK (LINK_P_STAT_STATE.at 256 1) 7
     let f : FieldTest := test1 3 1 false
     s.test.ft = some f ∧ emergency s = false ∧ f.reply = none ∧ f.abort = false ∧ f.start + ftTicks f.op ≤ s.now ∧ f.op = 3 ∧ f.unit < 4 ∧
     lpState s f.unit = 7 ∧ (lkPort s f.unit).txq = [] ∧ (lkPort s f.unit).replay = []) ∧
    (let s : State := ({ inTest (test1 3 1 false) 2 with now := 100000, cfg := { Dev.kiln16 with links := 2 } }).put pgLINK (LINK_P_STAT_STATE.at 256 1) 7
     let f : FieldTest := test1 3 1 false
     let errs : Nat := 2^32-1
     s.test.ft = some f ∧ emergency s = false ∧ f.reply = none ∧ f.abort = false ∧ f.start + ftTicks f.op ≤ s.now ∧ f.op = 3 ∧ f.unit < 4 ∧
     lpState s f.unit = 7 ∧ (lkPort s f.unit).txq = [] ∧ (lkPort s f.unit).replay = [] ∧ errs ≠ 0 ∧ errs < 2 ^ 32) ∧
    (let s : State := { (inTest (test1 4 0 false) 2).put pgSYNCCTR (SYNC_CTR_CTR_VALUE.at 4 47) 9 with now := 50000 }
     let f : FieldTest := test1 4 0 false
     s.test.ft = some f ∧ emergency s = false ∧ f.reply = none ∧ f.abort = false ∧ f.start + ftTicks f.op ≤ s.now ∧ f.op = 4) := by
  refine ⟨?_, ?_, ?_, ?_, ?_, ?_, ?_, ?_, ?_, ?_⟩ <;> decide +kernel

theorem wit_TestMessages :
    (let s : State := tmsg 0x8100 4 15
     let r : Nat := 1
     s.test.ft = none ∧ testMsgAt s r 0x8100 ∧ 4 ≤ headLen s r ∧ rimTestBar s (bits (reqWord s r 4) 6 4) (bits (reqWord s r 4) 3 0) = none) ∧
    (let s : State := tmsg 0x8101 4 1
     let r : Nat := 1
     s.test.ft = none ∧ testMsgAt s r 0x8101 ∧ 4 ≤ headLen s r ∧ planeTestBar s (reqWord s r 4 % 2) = none) ∧
    (let s : State := { tmsg 0x8102 4 0x11 with cfg := { Dev.kiln16 with links := 2 } }
     let r : Nat := 1
     s.test.ft = none ∧ testMsgAt s r 0x8102 ∧ 4 ≤ headLen s r ∧ linkTestBar s (bits (reqWord s r 4) 1 0) (bits (reqWord s r 4) 5 4) = none) ∧
    (let s : State := (tmsg 0x8103 0 0).put pgTEST TEST_LC_STAT_STATE 1
     let r : Nat := 1
     s.test.ft = none ∧ testMsgAt s r 0x8103 ∧ syncTestBar s = none) ∧
    (let s : State := (tmsg 0x8105 0 0).setOwner 20 1
     let r : Nat := 1
     msgAt s r 0x8105 ∧ s.flag pgTEST TEST_BST_STAT_REAPPLIED = true ∧ ringOwns s r 20 = false) ∧
    (let s : State := tmsg 0x8105 0 0
     let r : Nat := 1
     testMsgAt s r 0x8105) ∧
    (let s : State := { tmsg 0x8105 0 0 with test := { up.test with ft := some (test1 2 1 false) } }
     let r : Nat := 1
     testMsgAt s r 0x8105) ∧
    (let s : State := { tmsg 0x8104 0 0 with test := { up.test with ft := some (test1 2 1 false) } }
     let r : Nat := 1
     testMsgAt s r 0x8104 ∧ (s.test.ft.all fun f => f.op != 1) = true) ∧
    (let s : State := tmsg 0x8104 0 0
     let r : Nat := 1
     testMsgAt s r 0x8104 ∧ (s.test.ft.all fun f => f.op != 1) = true) := by
  unfold testMsgAt msgAt
  refine ⟨?_, ?_, ?_, ?_, ?_, ?_, ?_, ?_, ?_⟩ <;> decide +kernel

theorem wit_RecorderCommands_1 :
    (let s : State := rec0 0
     let m : Master := .cpa
     mayWrite s m pgREC RECORDER_RC_CTL true = true ∧ domOn s 194 = true ∧ rcState s = 0) ∧
    (let s : State := rec0 1
     let m : Master := .cpa
     mayWrite s m pgREC RECORDER_RC_CTL true = true ∧ domOn s 194 = true ∧ 1 ≤ rcState s ∧ rcState s ≤ 3) ∧
    (let s : State := rec0 3
     let m : Master := .cpa
     mayWrite s m pgREC RECORDER_RC_CTL true = true ∧ domOn s 194 = true ∧ 1 ≤ rcState s ∧ rcState s ≤ 3) ∧
    (let s : State := rec0 2
     let m : Master := .cpa
     mayWrite s m pgREC RECORDER_RC_CTL true = true ∧ domOn s 194 = true ∧ s.get pgREC RECORDER_RC_CTL_EN = 1 ∧ (rcState s = 2 ∨ rcState s = 3)) ∧
    (let s : State := rec0 3
     let m : Master := .cpa
     mayWrite s m pgREC RECORDER_RC_CTL true = true ∧ domOn s 194 = true ∧ s.get pgREC RECORDER_RC_CTL_EN = 1 ∧ (rcState s = 2 ∨ rcState s = 3)) ∧
    (let s : State := rec0 4
     rcState s = 4 ∧ s.recd.writing = none) ∧
    (let s : State := { (rec0 1).put pgREC RECORDER_RC_CTL_MODE 0 with pcNow := 2048, recd := { up.recd with taken := 5, slots := [(3, [])] } }
     rcState s = 1 ∧ s.recd.writing = none ∧ (s.get pgREC RECORDER_RC_CTL_MODE = 0 → s.recd.clearAt + 2048 ≤ s.pcNow)) := by
  refine ⟨?_, ?_, ?_, ?_, ?_, ?_, ?_⟩ <;> decide +kernel

theorem wit_RecorderCommands_2 :
    (let s : State := { (rec0 1).put pgREC RECORDER_RC_CTL_MODE 1 with pcNow := 2048, recd := { up.recd with taken := 5, slots := [(3, [])] } }
     rcState s = 1 ∧ s.recd.writing = none ∧ (s.get pgREC RECORDER_RC_CTL_MODE = 0 → s.recd.clearAt + 2048 ≤ s.pcNow)) ∧
    (let s : State := { (trigs 2 (pgHUB + HUB_PLANE_STAT) 1).put pgHUB HUB_PLANE_STAT_FO_CNT 255 with now := 500, recd := { up.recd with prev := [(31, 0)], sampled := 100 } }
     let n : Nat := 31
     let u : Nat := 0
     let arg : Nat := 1
     let p : PageAt := ⟨.hub, 0, pgHUB⟩
     s.clockOn = true ∧ s.recd.sampled / 100 < s.now / 100 ∧ domOn s 194 = true ∧ triggers s 2 = [n] ∧ triggers s 3 = [] ∧
     pageAt (bits (trgArg0 s n) 20 2 * 4) = some p ∧ pagePresent s.cfg p = true ∧ (s.recd.prev.find? fun e => e.1 == n) = some (n, u) ∧
     arg = (s.rd (pgREC + RECORDER_TRG_ARG1 + 16 * n)).toNat ∧ arg ≤ peek s none (bits (trgArg0 s n) 20 2 * 4) ∧ u < arg ∧ rcState s = 2 ∧
     s.recd.waiting.length < 16) ∧
    (let s : State := trigs 5 0 0
     let m : Master := .cpa
     let n : Nat := 31
     let tag : Nat := 65535
     mayWrite s m pgREC RECORDER_RC_SWTRIG false = true ∧ domOn s 194 = true ∧ tag < 2 ^ 16 ∧ n ∈ triggers s 5 ∧ rcState s = 2 ∧ s.recd.waiting.length < 16) ∧
    (let s : State := { rec0 2 with recd := { up.recd with waiting := [⟨30, 5, 6, 7, 8⟩, ⟨31, 4, 6, 7, 8⟩], taken := 3 } }
     let f : Fired := (⟨31, 4, 6, 7, 8⟩ : Fired)
     s.recd.writing = none ∧ rcState s = 2 ∧ nextFired s.recd.waiting = some f ∧ f.trig < 32) ∧
    (let s : State := { (rec0 2).put pgREC RECORDER_RC_SEQ_NEXT (2^32-1) with recd := { up.recd with waiting := [(⟨31, 5, 6, 7, 8⟩ : Fired)], taken := 3 } }
     let f : Fired := (⟨31, 5, 6, 7, 8⟩ : Fired)
     s.recd.writing = none ∧ rcState s = 2 ∧ nextFired s.recd.waiting = some f ∧ f.trig < 32) ∧
    (let s : State := { rec0 2 with recd := { up.recd with writing := some (⟨3, 9, (⟨31, 5, 6, 7, 8⟩ : Fired), 0, [(23, pgHUB + HUB_PLANE_STAT)], [1,2], 0, 7⟩ : RecJob) } }
     let j : RecJob := (⟨3, 9, (⟨31, 5, 6, 7, 8⟩ : Fired), 0, [(23, pgHUB + HUB_PLANE_STAT)], [1,2], 0, 7⟩ : RecJob)
     let k : Nat := 23
     let o : Nat := pgHUB + HUB_PLANE_STAT
     let rest : List (Nat × Nat) := []
     s.recd.writing = some j ∧ j.left = (k, o) :: rest ∧ pairAt s o = none ∧ j.snap.length < 24) ∧
    (let s : State := { rec0 2 with pcNow := 1000, recd := { up.recd with writing := some (⟨3, 9, (⟨31, 5, 6, 7, 8⟩ : Fired), 0, [], List.range 24, 8, 900⟩ : RecJob) } }
     let j : RecJob := (⟨3, 9, (⟨31, 5, 6, 7, 8⟩ : Fired), 0, [], List.range 24, 8, 900⟩ : RecJob)
     s.recd.writing = some j ∧ j.left = [] ∧ j.snap.length ≤ 24) := by
  refine ⟨?_, ?_, ?_, ?_, ?_, ?_, ?_⟩ <;> decide +kernel

theorem wit_LifeRecords :
    (let s : State := { ems up with now := 100000001, life := { up.life with loaded := true, img := [] } }
     s.clockOn = true ∧ emRuns s 0 = true ∧ s.life.loaded = true ∧ s.life.sampled / 100000000 < s.now / 100000000 ∧ Mem.wf s.life.img = true ∧
     lifeCtr s.life.img 0 + 1 < 2 ^ 64) ∧
    (let s : State := { ems up with now := 6000000001, life := { up.life with loaded := true } }
     let k := (nextGood up up.life.slot).getD 99
     s.clockOn = true ∧ emRuns s 0 = true ∧ s.life.loaded = true ∧ s.life.flushAt / 6000000000 < s.now / 6000000000 ∧ s.life.writing = none ∧
     s.cfg.optN = true ∧ nextGood s s.life.slot = some k) ∧
    (let s : State := { ems up with cfg := { Dev.kiln16 with optN := false }, now := 6000000001, life := { up.life with loaded := true } }
     s.clockOn = true ∧ emRuns s 0 = true ∧ s.life.loaded = true ∧ s.life.flushAt / 6000000000 < s.now / 6000000000 ∧ s.life.writing = none ∧
     s.cfg.optN = false) ∧
    (let s : State := { ems up with life := { up.life with loaded := true, writing := some 0, next := [(4, 7)] } }
     let k : Nat := 0
     s.life.writing = some k ∧ s.life.reply = none) ∧
    (let s : State := { ems up with life := { up.life with loaded := true, writing := some 7, next := [(4, 7)] } }
     let k : Nat := 7
     s.life.writing = some k ∧ s.life.reply = none) ∧
    (let s : State := { ems up with life := { up.life with loaded := true, writing := some 0, next := [(4, 7)] } }
     let k : Nat := 0
     s.life.writing = some k ∧ s.life.reply = none ∧ k < 8) ∧
    (let s : State := { ems up with life := { up.life with loaded := true, writing := some 7, next := [(4, 7)] } }
     let k : Nat := 7
     s.life.writing = some k ∧ s.life.reply = none ∧ k < 8) ∧
    (let s : State := { ems up with cfg := { Dev.kiln16 with optN := false } }
     emRuns s 0 = true ∧ s.life.loaded = false ∧ s.cfg.optN = false) ∧
    (let s : State := ems up
     let j := 0
     emRuns s 0 = true ∧ s.life.loaded = false ∧ s.cfg.optN = true ∧ nextGood s 0 = some j ∧ bestSlot s = none) ∧
    (let s : State := { ems up with life := { up.life with store := [(2, []), (5, img0)] } }
     let j := 0
     let k := 5
     let m := img0
     emRuns s 0 = true ∧ s.life.loaded = false ∧ s.cfg.optN = true ∧ nextGood s 0 = some j ∧ bestSlot s = some (k, m)) := by
  refine ⟨?_, ?_, ?_, ?_, ?_, ?_, ?_, ?_, ?_, ?_⟩
  · decide +kernel
  · decide +kernel
  · decide +kernel
  · decide +kernel
  · decide +kernel
  · decide +kernel
  · decide +kernel
  · decide +kernel
  · decide +kernel
  · exact ⟨by decide +kernel, by decide +kernel, by decide +kernel, by decide +kernel, by exact best_of _ rfl⟩

theorem wit_LifecycleCommands :
    (let s : State := lcs 0
     let m : Master := .cpa
     mayWrite s m pgTEST TEST_LC_CMD false = true ∧ m.isEm = false ∧ lcState s ≤ 1) ∧
    (let s : State := lcs 1
     let m : Master := .cpa
     mayWrite s m pgTEST TEST_LC_CMD false = true ∧ m.isEm = false ∧ lcState s ≤ 1) ∧
    (let c : Nat := 0
     c < 2 ^ 16 ∧ c ≠ 0x4C43) ∧
    (let c : Nat := 65535
     c < 2 ^ 16 ∧ c ≠ 0x4C43) ∧
    (let s : State := lcs 1
     let m : Master := .cpa
     mayWrite s m pgTEST TEST_LC_CMD false = true ∧ (lcState s = 1 ∨ lcState s = 3)) ∧
    (let s : State := lcs 3
     let m : Master := .cpa
     mayWrite s m pgTEST TEST_LC_CMD false = true ∧ (lcState s = 1 ∨ lcState s = 3)) ∧
    (let s : State := lcs 2
     let m : Master := .cpa
     mayWrite s m pgTEST TEST_SVC_CTL true = true ∧ lcState s = 2) := by
  refine ⟨?_, ?_, ?_, ?_, ?_, ?_, ?_⟩ <;> decide +kernel

theorem wit_ResetAndStart_1 :
    (let s : State := own 20
     s.fused < 4) ∧
    (let s : State := { own 20 with fused := 3 }
     s.fused < 4) ∧
    (let s : State := { own 20 with porstLow := true, cfg := { Dev.kiln16 with links := 2 } }
     s.porstLow = true ∧ s.cfg.links ≠ 0) ∧
    (let s : State := { own 20 with now := 77 }
     s.fused < 4 ∧ s.railLost = false ∧ s.porstLow = false) ∧
    (let s : State := { own 20 with srstLow := true, clockOn := false }
     s.railLost = false ∧ s.srstLow = true) ∧
    (let s : State := own 20
     s.porstLow = false) ∧
    (let s : State := { State.reset with now := 2000 }
     inReset s = false ∧ 2000 ≤ s.now) ∧
    (let s : State := { State.reset with fuseLoaded := true, integ := { State.reset.integ with crossings := 0 } }
     let n : Nat := 1
     s.fuseLoaded = true ∧ inReset s = false ∧ n = s.integ.crossings + 1 ∧ n < s.cfg.dies ∧ n < 8 ∧ (∀ q < 4, s.integ.sectors.contains (4 * n + q) = false)) := by
  refine ⟨?_, ?_, ?_, ?_, ?_, ?_, ?_, ?_⟩ <;> decide +kernel

theorem wit_ResetAndStart_2 :
    (let s : State := { State.reset with fuseLoaded := true, integ := { State.reset.integ with crossings := 6 } }
     let n : Nat := 7
     s.fuseLoaded = true ∧ inReset s = false ∧ n = s.integ.crossings + 1 ∧ n < s.cfg.dies ∧ n < 8 ∧ (∀ q < 4, s.integ.sectors.contains (4 * n + q) = false)) ∧
    (let s : State := { State.reset with fuseLoaded := true, integ := { State.reset.integ with crossings := 7 } }
     let layer : Nat := 7
     let p : Nat := 15
     s.fuseLoaded = true ∧ inReset s = false ∧ s.integ.crossings + 1 = s.cfg.dies ∧ s.cfg.dies ≤ 8 ∧ lcState s ≠ 4 ∧ s.test.bst = false ∧
     layer < s.cfg.dies ∧ p < 16 ∧ s.integ.sectors.contains (4 * layer + p / 4) = false ∧ spareRole s layer = 0) ∧
    (let s : State := { State.reset with fuseLoaded := true, integ := { State.reset.integ with crossings := 7 } }
     let layer : Nat := 0
     let p : Nat := 0
     s.fuseLoaded = true ∧ inReset s = false ∧ s.integ.crossings + 1 = s.cfg.dies ∧ s.cfg.dies ≤ 8 ∧ lcState s ≠ 4 ∧ s.test.bst = false ∧
     layer < s.cfg.dies ∧ p < 16 ∧ s.integ.sectors.contains (4 * layer + p / 4) = false ∧ spareRole s layer = 0) ∧
    (let s : State := { State.reset with fuseLoaded := true, test := { State.reset.test with bst := true } }
     s.test.bst = true ∧ bootDone s = false) ∧
    (let s : State := again 0
     emRuns s 1 = true ∧ bootDone s = true ∧ s.life.loaded = true ∧ s.life.state ≠ 4 ∧ s.flag pgTEST TEST_BST_STAT_REAPPLIED = false ∧ s.integ.cmd = none ∧
     (reapplyOrder s).drop s.test.reapply = []) ∧
    (let s : State := (again (retireEntry 99 3 7 15)).put (rimBase 7 15) RIM_PWR_STAT_STATE 5
     let layer := 7
     let p := 15
     let rest := []
     emRuns s 1 = true ∧ bootDone s = true ∧ s.life.loaded = true ∧ s.life.state ≠ 4 ∧ s.flag pgTEST TEST_BST_STAT_REAPPLIED = false ∧ s.integ.cmd = none ∧
     (reapplyOrder s).drop s.test.reapply = (layer, p) :: rest ∧ p < 16 ∧ layer < s.cfg.dies ∧ rimPower s layer p = 5) ∧
    (let s : State := (again (retireEntry 99 3 7 15)).setOwner 16 0
     let layer := 7
     let p := 15
     let rest := []
     emRuns s 1 = true ∧ bootDone s = true ∧ s.life.loaded = true ∧ s.life.state ≠ 4 ∧ s.flag pgTEST TEST_BST_STAT_REAPPLIED = false ∧ s.integ.cmd = none ∧
     (reapplyOrder s).drop s.test.reapply = (layer, p) :: rest ∧ p < 16 ∧ layer < s.cfg.dies ∧ layer < 8 ∧ rimPower s layer p ≠ 5 ∧
     mayWrite s .em1 pgINTEG INTEG_RIM_CMD true = true ∧ s.integ.sectors.contains (4 * layer + p / 4) = false ∧ spareRole s layer = 0) := by
  refine ⟨?_, ?_, ?_, ?_, ?_, ?_, ?_⟩ <;> decide +kernel

/-- The statements over every command and state: a queue with a command at its front and an empty one, a step from reset, a frame. -/
theorem wit_StepRunsTheFrontCommand : ({ State.reset with pending := [.echo 0] } : State).pending = [.echo 0] ∧ State.reset.pending = [] := ⟨rfl, rfl⟩
theorem wit_StepKeepsInvariant : State.reset.Inv ∧ ∃ t, step State.reset = .next t := ⟨⟨by decide, by decide⟩, _, rfl⟩
theorem wit_FrameLies : ∃ rim slot : Nat, rim < 16 ∧ slot < 1024 ∧ rimOfFrame (frameAt rim slot) = rim := ⟨15, 1023, by decide⟩

end Sys2Proof.Tests
end

/-! PROOFS. Scope (spec/00_scope.md R3): what every step keeps, from what every command keeps (`exec_keeps`) and what the passing of a
period of TIMEREF keeps (`State.tick_keeps`); and that reset satisfies the invariant. -/
namespace Sys2Proof.Machine

/-! ### What a step keeps -/

/-- The invariant goes over to a state that keeps configuration and canonical memory. -/
theorem State.From.inv {t s : State} (h : t.From s) (hs : s.Inv) : t.Inv := by
  obtain ⟨hcfg, -, hmem⟩ := h
  obtain ⟨hvalid, hwf⟩ := hs
  exact ⟨hcfg ▸ hvalid, hmem hwf⟩
/-- A step takes at most its command off the queue, and keeps the rest of what every command keeps. -/
theorem step_keeps {s t : State} (h : step s = .next t) : t.From { s with pending := s.pending.tail } := by
  cases hp : s.pending with
  | nil =>
    rw [step_nil s hp] at h
    cases h
    obtain ⟨hcfg, hpend, hmem⟩ := State.tick_keeps s
    exact ⟨hcfg, hpend.trans hp, hmem⟩
  | cons c rest =>
    rw [step_cons s c rest hp] at h
    obtain ⟨u, hu, hfrom⟩ := exec_keeps c { s with pending := rest }
    rw [hu] at h
    cases h
    exact hfrom
/-- Settles O30: a step keeps what `State.From` names from the state with the queue's rest, and neither the invariant nor the
configuration reads the queue. -/
theorem stepKeepsInvariant : Obligations.StepKeepsInvariant := by
  intro s t hs h
  have hfrom := step_keeps h
  exact ⟨hfrom.inv (s := { s with pending := s.pending.tail }) hs, hfrom.1⟩

/-! ### Reset -/

/-- The ordering code that the device has at reset (log entry 1) exists (R1, R2). -/
theorem reset_cfg_valid : State.reset.cfg.valid = true := by decide
/-- At reset no byte of the array memory is listed, which is the canonical form (log entry 3). -/
theorem reset_mem_wf : Mem.wf State.reset.array.mem = true := rfl
/-- Settles O31: the two parts of the invariant, at reset. -/
theorem resetInv : Obligations.ResetInv := ⟨reset_cfg_valid, reset_mem_wf⟩

end Sys2Proof.Machine

/-! PROOFS. Link ports (spec/13_amiys_link.md): the rules about what a port's commands read and change. What is sent changes the port's
coder and the blocks it hands over; a change of state or of lanes changes the registers of P_STAT; a write of P_CTL changes that
register's own fields. -/
namespace Sys2Proof.Machine

/-! ### Registers of a port's block -/

/-- A field of a port's block of the LINK page. -/
abbrev Fld.ofPort (f : Fld) : Prop := 0x400 ≤ f.off ∧ f.off < 0x500 ∧ f.fits

theorem lpState_eq (s : State) (p : Nat) : lpState s p = lpGet s p LINK_P_STAT_STATE := rfl
theorem minLanes_eq (s : State) (p : Nat) : minLanes s p = min 8 (max 1 (lpGet s p LINK_P_CTL_MIN_LANES)) := rfl
theorem lpGet_congr {s t : State} (hr : t.regs = s.regs) (hc : t.cfg = s.cfg) (p : Nat) (f : Fld) : lpGet t p f = lpGet s p f :=
  State.get_congr hr hc ..
theorem lpGet_put_self (s : State) (p : Nat) (f : Fld) (v : Nat) (h : f.fits) :
    lpGet (s.put pgLINK (f.at 256 p) v) p f = v % 2 ^ (f.hi + 1 - f.lo) := State.get_put_self _ _ _ _ (Fld.at_fits _ _ h)
/-- Another field of the port's block keeps its value. -/
theorem lpGet_put_apart (s : State) (p : Nat) {f g : Fld} (v : Nat) (h : f.fits) (d : f.off ≠ g.off ∨ g.hi < f.lo ∨ f.hi < g.lo) :
    lpGet (s.put pgLINK (f.at 256 p) v) p g = lpGet s p g :=
  State.get_put_page _ _ _ _ _ (Fld.at_fits _ _ h) (d.imp (fun h => by dsimp only; omega) (Fld.at_apart _ _))
theorem lpGet_bumpSat_apart (s : State) (p : Nat) {f g : Fld} (n : Nat) (h : f.fits) (d : f.off ≠ g.off ∨ g.hi < f.lo ∨ f.hi < g.lo) :
    lpGet (s.bumpSat pgLINK (f.at 256 p) n) p g = lpGet s p g := lpGet_put_apart s p _ h d
/-- An interrupt bit lies in the header of its page, outside every port's block. -/
theorem lpGet_irq (s : State) (k p : Nat) (f : Fld) (hp : p < 4) (h : f.ofPort) : lpGet (s.irq pgLINK k) p f = lpGet s p f := by
  obtain ⟨hlo, hhi, -⟩ := h
  exact State.get_irq _ _ _ _ _ (by simp only [pgLINK, HDR_IRQ_STAT]; omega) (by simp only [pgLINK, pgREC]; omega)

/-! ### States and lanes (R403) -/

@[simp] theorem State.lport_regs (s : State) (p : Nat) (f : LinkPort → LinkPort) : (s.lport p f).regs = s.regs := rfl
@[simp] theorem State.lport_cfg (s : State) (p : Nat) (f : LinkPort → LinkPort) : (s.lport p f).cfg = s.cfg := rfl
@[simp] theorem State.lport_now (s : State) (p : Nat) (f : LinkPort → LinkPort) : (s.lport p f).now = s.now := rfl
@[simp] theorem lkPort_lpSet (s : State) (p q st : Nat) : lkPort (s.lpSet p st) q = lkPort s q := lkPort_congr (State.lpSet_link ..) q
@[simp] theorem lkPort_setLanes (s : State) (p q a b : Nat) : lkPort (s.setLanes p a b) q = lkPort s q := rfl
@[simp] theorem State.lpSet_cfg (s : State) (p st : Nat) : (s.lpSet p st).cfg = s.cfg := by
  unfold State.lpSet
  split
  · rfl
  · rw [State.irq_cfg, State.put_cfg]
/-- A port that enters a state keeps every field of its block but the state itself. -/
theorem lpGet_lpSet (s : State) (p st : Nat) (f : Fld) (hp : p < 4) (h : f.ofPort) (d : f.off ≠ LINK_P_STAT ∨ f.hi < 28) :
    lpGet (s.lpSet p st) p f = lpGet s p f := by
  obtain ⟨hlo, hhi, -⟩ := h
  exact State.lpSet_get _ _ _ _ (by dsimp only; omega) (by dsimp only; omega)
    (d.imp (fun h => by dsimp only; omega) id)
/-- Lanes taken into use leave every field of the port's block but the lanes. -/
theorem lpGet_setLanes (s : State) (p a b : Nat) (f : Fld) (d : f.off ≠ LINK_P_STAT ∨ 16 ≤ f.lo) :
    lpGet (s.setLanes p a b) p f = lpGet s p f :=
  setLanes_get _ _ _ _ _ (d.imp (fun h => by dsimp only; omega) id)
theorem lpState_setLanes (s : State) (p a b : Nat) : lpState (s.setLanes p a b) p = lpState s p :=
  lpGet_setLanes s p a b LINK_P_STAT_STATE (.inr (by decide))

/-! ### What is sent (R385 to R388) -/

/-- A port without what sending a control block changes: its coder, and the blocks handed over or waiting. -/
def LinkPort.sansOut (l : LinkPort) : LinkPort :=
  { l with scr := 0, cwN := 0, cwOut := [], marks := [], linkCw := 0, cbOut := [], cbWait := [] }
/-- The state without what sending changes: the link block, and the free values drawn for markers. -/
def State.sansLink (s : State) : State := { s with link := {}, freeCtr := 0 }
/-- A step of the coder of port p: it keeps the rest of the port, the blocks handed over, and everything outside the link block. -/
def coderStep (p : Nat) (s t : State) : Prop :=
  t.sansLink = s.sansLink ∧ (lkPort t p).sansOut = (lkPort s p).sansOut ∧ (lkPort t p).cbOut = (lkPort s p).cbOut

theorem coderStep.refl (p : Nat) (s : State) : coderStep p s s := ⟨rfl, rfl, rfl⟩
theorem coderStep.trans {p : Nat} {s t u : State} (h : coderStep p s t) (k : coderStep p t u) : coderStep p s u := by
  obtain ⟨h1, h2, h3⟩ := h
  obtain ⟨k1, k2, k3⟩ := k
  exact ⟨k1.trans h1, k2.trans h2, k3.trans h3⟩
theorem coderStep_lport (s : State) (p : Nat) (f : LinkPort → LinkPort) (h : ∀ l, (f l).sansOut = l.sansOut ∧ (f l).cbOut = l.cbOut) :
    coderStep p s (s.lport p f) := by
  refine ⟨rfl, ?_, ?_⟩ <;> rw [lkPort_lport_self]
  · exact (h _).1
  · exact (h _).2
theorem coderStep_cond (s : State) (p : Nat) (c : Bool) (f : State → State) (h : coderStep p s (f s)) : coderStep p s (s.cond c f) := by
  cases c
  · exact .refl p s
  · exact h
theorem coderStep_sendMarks (s : State) (p : Nat) : coderStep p s (s.sendMarks p) := by
  unfold State.sendMarks
  exact coderStep.trans ⟨rfl, rfl, rfl⟩ (coderStep_lport _ p _ fun _ => ⟨rfl, rfl⟩)
theorem coderStep_sendWord (s : State) (p : Nat) (blocks : List Nat) : coderStep p s (s.sendWord p blocks) := by
  unfold State.sendWord
  exact (coderStep_cond s p _ _ (coderStep_sendMarks s p)).trans (coderStep_lport _ p _ fun _ => ⟨rfl, rfl⟩)
theorem coderStep_sendBlocks (p n : Nat) (blocks : List Nat) (s : State) : coderStep p s (s.sendBlocks p n blocks) := by
  induction n generalizing s blocks with
  | zero => exact .refl p s
  | succ n ih =>
    cases blocks with
    | nil => exact .refl p s
    | cons b l => exact (coderStep_sendWord s p _).trans (ih _ _)

/-- A control block sent on a port that takes them: it is the last of its kind handed over, and nothing else of the port, but its coder
and the blocks that wait, has changed. -/
theorem sendCb_sends (s : State) (p k v : Nat) (h : hears s p = true) :
    (s.sendCb p k v).sansLink = s.sansLink ∧ (lkPort (s.sendCb p k v) p).sansOut = (lkPort s p).sansOut ∧
      Sp.get 0 (lkPort (s.sendCb p k v) p).cbOut k = controlBlock k v := by
  have handed (f : LinkPort → LinkPort) (hf : ∀ l, f l = { l with cbOut := Sp.set l.cbOut k (controlBlock k v) }) (t : State)
      (ht : coderStep p (s.lport p f) t) :
      t.sansLink = s.sansLink ∧ (lkPort t p).sansOut = (lkPort s p).sansOut ∧ Sp.get 0 (lkPort t p).cbOut k = controlBlock k v := by
    obtain ⟨h1, h2, h3⟩ := ht
    rw [lkPort_lport_self, hf] at h2 h3
    exact ⟨h1, h2, by rw [h3, Sp.get_set_self]⟩
  unfold State.sendCb
  rw [h, State.cond_true]
  dsimp only
  split
  · exact handed _ (fun _ => rfl) _ (coderStep_sendBlocks ..)
  · exact handed _ (fun _ => rfl) _ (coderStep_lport _ p _ fun _ => ⟨rfl, rfl⟩)

theorem hears_of_state (s : State) (p : Nat) (hp : p < 4) (h : lpState s p = 3 ∨ lpState s p = 4 ∨ lpState s p = 5) : hears s p = true := by
  unfold hears
  rcases h with h | h | h <;> simp [hp, h]
/-- The INIT block reads nothing that a change of a port's state or of the link block changes. -/
theorem initBlock_congr {s t : State} (hc : t.cfg = s.cfg) (hg : ∀ f : Fld, 0x40 ≤ f.off → f.off < 0x100 → t.get pgLINK f = s.get pgLINK f)
    (p : Nat) : initBlock t p = initBlock s p := by
  unfold initBlock devAddr State.flag
  rw [hg _ (by decide) (by decide), hg _ (by decide) (by decide), hg _ (by decide) (by decide), hc]
theorem initBlock_lpSet (s : State) (p q st : Nat) : initBlock (s.lpSet p st) q = initBlock s q := by
  refine initBlock_congr (State.lpSet_cfg ..) (fun f hlo hhi => State.lpSet_get _ _ _ _ hlo (by omega) (.inl ?_)) q
  simp only [LINK_P_STAT]
  omega
/-- INIT sent on a port that takes control blocks is the port's INIT block. -/
theorem sendInit_sends (s : State) (p : Nat) (h : hears s p = true) :
    (s.sendInit p).sansLink = s.sansLink ∧ (lkPort (s.sendInit p) p).sansOut = (lkPort s p).sansOut ∧
      Sp.get 0 (lkPort (s.sendInit p) p).cbOut 5 = initBlock s p := sendCb_sends s p 5 _ h
/-- RETRY sent on a port that takes control blocks names the LSEQ expected. -/
theorem sendRetry_sends (s : State) (p : Nat) (h : hears s p = true) :
    (s.sendRetry p).sansLink = s.sansLink ∧ (lkPort (s.sendRetry p) p).sansOut = (lkPort s p).sansOut ∧
      Sp.get 0 (lkPort (s.sendRetry p) p).cbOut 2 = controlBlock 2 (lkPort s p).expL := sendCb_sends s p 2 _ h
theorem sansLink_regs {s t : State} (h : t.sansLink = s.sansLink) : t.regs = s.regs := (congrArg State.regs h :)
theorem sansLink_cfg {s t : State} (h : t.sansLink = s.sansLink) : t.cfg = s.cfg := (congrArg State.cfg h :)
theorem lpGet_of_sansLink {s t : State} (h : t.sansLink = s.sansLink) (p : Nat) (f : Fld) : lpGet t p f = lpGet s p f :=
  lpGet_congr (sansLink_regs h) (sansLink_cfg h) p f

/-! ### Starting, stopping and failing (R398, R403) -/

/-- A port that is not DOWN, or not enabled, does not start. -/
theorem lpStart_idle (s : State) (p : Nat) (h : lpState s p ≠ 0 ∨ lpGet s p LINK_P_CTL_EN ≠ 1) : s.lpStart p = s := by
  unfold State.lpStart State.cond
  rw [if_neg]
  simp only [Bool.and_eq_true, beq_iff_eq]
  rintro ⟨⟨hdown, hen⟩, -⟩
  exact h.elim (fun hs => hs hdown) (fun he => he hen)
/-- A DOWN port that is enabled goes where PMD and LOOP say. -/
theorem lpStart_state (s : State) (p : Nat) (hp : p < 4) (hs : lpState s p = 0) (he : lpGet s p LINK_P_CTL_EN = 1) :
    lpState (s.lpStart p) p =
      if lpGet s p LINK_P_CTL_PMD = 3 then 0 else if lpGet s p LINK_P_CTL_LOOP = 0 then 1 else 7 := by
  unfold State.lpStart
  by_cases hpmd : lpGet s p LINK_P_CTL_PMD = 3
  · simp [hpmd, hs]
  · simp only [hs, he, hpmd, beq_self_eq_true, bne_iff_ne, ne_eq, not_false_eq_true, Bool.and_self, Bool.true_and, State.cond,
      if_true, if_false]
    split
    · exact State.lpSet_state _ _ _ (by decide) hp
    · exact State.lpSet_state _ _ _ (by decide) hp
/-- A port that starts keeps its control register. -/
theorem lpStart_ctl (s : State) (p : Nat) (f : Fld) (hp : p < 4) (h : f.ofPort) (d : f.off ≠ LINK_P_STAT) :
    lpGet (s.lpStart p) p f = lpGet s p f := by
  unfold State.lpStart State.cond
  split
  · dsimp only
    split
    · exact lpGet_lpSet _ _ _ _ hp h (.inl d)
    · rw [lpGet_lpSet _ _ _ _ hp h (.inl d), lpGet_setLanes _ _ _ _ _ (.inl d)]
  · rfl
/-- A port that ends its draining with EN 0 and nothing queued is DOWN, its replay buffer empty. -/
theorem lpDown_disabled (s : State) (p : Nat) (hp : p < 4) (ht : (lkPort s p).txq = []) (he : lpGet s p LINK_P_CTL_EN = 0) :
    lpState (s.lpDown p) p = 0 ∧ (lkPort (s.lpDown p) p).replay = [] := by
  unfold State.lpDown
  dsimp only
  rw [dropQueue_none _ _ (by rw [lkPort_lport_self]; exact ht), lpStart_idle]
  · refine ⟨State.lpSet_state _ _ _ (by decide) hp, ?_⟩
    rw [lkPort_lpSet, lkPort_lport_self, lkPort_lport_self]
  · right
    rw [lpGet_lpSet _ _ _ _ hp (by decide) (.inl (by decide)), lpGet_lport, lpGet_lport, lpGet_setLanes _ _ _ _ _ (.inl (by decide)), he]
    decide
/-- A receive buffer that is discarded changes no register, and at its port nothing that is to be sent. -/
theorem dropRx_frame (s : State) (p : Nat) :
    (s.dropRx p).regs = s.regs ∧ (s.dropRx p).cfg = s.cfg ∧ (lkPort (s.dropRx p) p).txq = (lkPort s p).txq := by
  unfold State.dropRx
  dsimp only
  rw [State.lport_regs, State.lport_cfg, lkPort_lport_self, State.wnu_regs, State.wnu_cfg, lkPort_congr (State.wnu_link ..)]
  refine ⟨State.each_of State.regs _ ?_ _ s, State.each_of State.cfg _ ?_ _ s, State.each_mem (fun s => (lkPort s p).txq) _ _ ?_ s⟩
  · exact fun _ _ => rfl
  · exact fun _ _ => rfl
  · intro t q hq
    have hne : q ≠ p := by simpa using (List.mem_filter.mp hq).2
    rw [lkPort_lport_of_ne _ _ hne.symm]
/-- A port that fails with nothing queued or unacknowledged is FAILED, its lanes idle. -/
theorem lpFail_quiet (s : State) (p : Nat) (hp : p < 4) (ht : (lkPort s p).txq = []) (hr : (lkPort s p).replay = []) :
    lpState (s.lpFail p) p = 6 ∧ lpGet (s.lpFail p) p LINK_P_STAT_TX_LANES = 0 := by
  obtain ⟨hregs, hcfg, htxq⟩ := dropRx_frame ((s.setLanes p 0 0).lpSet p 6) p
  unfold State.lpFail
  dsimp only
  rw [hr, List.filter_nil, each_nil, dropQueue_none _ _ (by rw [lkPort_lport_self, htxq, lkPort_lpSet]; exact ht)]
  simp only [lpState_eq, lpGet_lport, lpGet_congr hregs hcfg]
  refine ⟨State.lpSet_state _ _ _ (by decide) hp, ?_⟩
  rw [lpGet_lpSet _ _ _ _ hp (by decide) (.inr (by decide))]
  exact (setLanes_lanes ..).1

/-! ### Losing a lane (R405) -/

/-- A lane drop noted keeps everything of the link block and every field of the port's block but those of LDROP. -/
theorem noteDrop_frame (s : State) (p n dir lane cause dur : Nat) (hp : p < 4) :
    (s.noteDrop p n dir lane cause dur).link = s.link ∧
      ∀ f : Fld, f.ofPort → f.off ≠ LINK_P_LDROP → lpGet (s.noteDrop p n dir lane cause dur) p f = lpGet s p f := by
  unfold State.noteDrop
  dsimp only
  refine ⟨by simp, fun f hf d => ?_⟩
  rw [lpGet_irq _ _ _ _ hp hf, lpGet_put_apart _ _ _ (by decide) (.inl d.symm), lpGet_put_apart _ _ _ (by decide) (.inl d.symm),
    lpGet_put_apart _ _ _ (by decide) (.inl d.symm), lpGet_put_apart _ _ _ (by decide) (.inl d.symm),
    lpGet_bumpSat_apart _ _ _ (by decide) (.inl d.symm)]
/-- A lane drop noted shows its lane and its cause. -/
theorem noteDrop_shows (s : State) (p n dir lane cause dur : Nat) (hp : p < 4) :
    lpGet (s.noteDrop p n dir lane cause dur) p LINK_P_LDROP_LANE = lane % 8 ∧
      lpGet (s.noteDrop p n dir lane cause dur) p LINK_P_LDROP_CAUSE = cause % 4 := by
  unfold State.noteDrop
  dsimp only
  rw [lpGet_irq _ _ _ _ hp (by decide), lpGet_irq _ _ _ _ hp (by decide)]
  constructor
  · rw [lpGet_put_apart _ _ _ (by decide) (by decide), lpGet_put_apart _ _ _ (by decide) (by decide), lpGet_put_self _ _ _ _ (by decide)]
    rfl
  · rw [lpGet_put_apart _ _ _ (by decide) (by decide), lpGet_put_self _ _ _ _ (by decide)]
    rfl
/-- What losing a lane leaves of an UP port that keeps enough of its lanes: the lane and its cause are shown, and the far side is asked
to drop it. -/
structure LaneLost (s t : State) (p lane cause : Nat) : Prop where
  mask : (lkPort t p).dropMask = some (lpGet s p LINK_P_STAT_RX_LANES - 2 ^ lane)
  asks : Sp.get 0 (lkPort t p).cbOut 3 = controlBlock 3 (lpGet s p LINK_P_STAT_RX_LANES - 2 ^ lane)
  lock : (lkPort t p).lock = ((lkPort s p).lock && cause == 3)
  wait : (lkPort t p).waitL = ((lkPort s p).waitL || cause != 3)
  showsLane : lpGet t p LINK_P_LDROP_LANE = lane % 8
  showsCause : lpGet t p LINK_P_LDROP_CAUSE = cause % 4
/-- An UP port that has given up no lane, and keeps enough of them, loses the lane. -/
theorem loseLane_lost (s : State) (p lane cause : Nat) (hp : p < 4) (hs : lpState s p = 4) (hd : (lkPort s p).dropMask = none)
    (hb : bit (lpGet s p LINK_P_STAT_RX_LANES) lane = true)
    (hm : minLanes s p ≤ laneCount (lpGet s p LINK_P_STAT_RX_LANES - 2 ^ lane)) : LaneLost s (s.loseLane p lane cause) p lane cause := by
  unfold State.loseLane
  dsimp only
  rw [hd, Option.getD_none, hb]
  obtain ⟨hlink, hget⟩ := noteDrop_frame s p 1 0 lane cause 0 hp
  obtain ⟨hlane, hcause⟩ := noteDrop_shows s p 1 0 lane cause 0 hp
  generalize s.noteDrop p 1 0 lane cause 0 = u at *
  have hmin : minLanes u p = minLanes s p := by rw [minLanes_eq, minLanes_eq, hget _ (by decide) (by decide)]
  have hup : lpState u p = 4 := (hget _ (by decide) (by decide)).trans hs
  rw [if_neg (by decide), if_neg (by omega)]
  obtain ⟨hsans, hport, hout⟩ := sendCb_sends (u.lport p fun l => { l with
    dropMask := some (lpGet s p LINK_P_STAT_RX_LANES - 2 ^ lane), lossAt := some (l.lossAt.getD u.now), lock := l.lock && cause == 3,
    waitL := l.waitL || cause != 3 }) p 3 (lpGet s p LINK_P_STAT_RX_LANES - 2 ^ lane) (hears_of_state _ _ hp (.inr (.inl hup)))
  rw [lkPort_lport_self, lkPort_congr hlink] at hport
  exact {
    mask := (congrArg LinkPort.dropMask hport :)
    asks := hout
    lock := (congrArg LinkPort.lock hport :)
    wait := (congrArg LinkPort.waitL hport :)
    showsLane := (lpGet_of_sansLink hsans ..).trans hlane
    showsCause := (lpGet_of_sansLink hsans ..).trans hcause }

/-- Intervals in a row with a lane above the threshold, once the running one has ended (R405). -/
def serRow (s : State) (p j : Nat) : Nat := if laneAbove s p j then (lkPort s p).serHigh.getD j 0 + 1 else 0
/-- The end of an interval on an UP port: each lane's row is counted, and a lane with a row of three is lost. -/
theorem exec_serInterval (s : State) (p : Nat) (hp : p < 4) (hs : lpState s p = 4) :
    exec (.serInterval p) s = .next ((s.lport p fun l => { l with
      serMark := [], serHigh := (List.range 8).map fun j => if 3 ≤ serRow s p j then 0 else serRow s p j }).each
        ((List.range 8).filter fun j => decide (3 ≤ serRow s p j)) fun s j => s.loseLane p j 3) := by
  show execSerInterval p s = _
  unfold execSerInterval
  rw [if_pos ⟨hp, .inl hs⟩]
  rfl

/-! ### A write of P_CTL (R11, R404) -/

/-- The LINK page. -/
def linkPage : PageAt := ⟨.link, 0, pgLINK⟩
/-- The row of P_CTL. -/
def ctlRow : RegRow :=
  ⟨0x400, 4, 256, 1, 0, [⟨27, 24, .rwo, 4⟩, ⟨21, 20, .rwo, 0⟩, ⟨17, 16, .rwo, 0⟩, ⟨13, 12, .rwo, 0⟩, ⟨8, 8, .w1s, 0⟩, ⟨0, 0, .rwo, 0⟩]⟩
theorem pageAt_ctl : ∀ p < 4, pageAt (pgLINK + (LINK_P_CTL + 256 * p)) = some linkPage := by decide
theorem rowAt_ctl : ∀ p < 4, rowAt .link (LINK_P_CTL + 256 * p) = some ctlRow := by decide
/-- A write that needs the owner may also take effect as one that does not. -/
theorem mayWrite_any {s : State} {m : Master} {base reg : Nat} (h : mayWrite s m base reg true = true) :
    mayWrite s m base reg false = true := by
  unfold mayWrite at h ⊢
  split at h
  · exact h
  · simp only [Bool.and_eq_true] at h ⊢
    obtain ⟨hpath, -⟩ := h
    refine ⟨hpath, ?_⟩
    split <;> simp
/-- A master whose write of P_CTL may take effect as an owner's owns the LINK page. -/
theorem mayWrite_owns {s : State} {m : Master} {p : Nat} (hp : p < 4) (h : mayWrite s m pgLINK (LINK_P_CTL + 256 * p) true = true) :
    ownsPage s m linkPage = true := by
  unfold mayWrite at h
  rw [pageAt_ctl p hp] at h
  simp only [Bool.and_eq_true] at h
  obtain ⟨-, hown⟩ := h
  exact hown
/-- The fields of P_CTL written: the owner's write sets them in the order of the row; that of another master is flagged, at the page and
in FAB_STAT, and sets none (R509). -/
theorem setFields_ctl (s : State) (m : Master) (p : Nat) (w : Word32) (hp : p < 4) :
    s.setFields m pgLINK (LINK_P_CTL + 256 * p) w =
      if ownsPage s m linkPage then
        [LINK_P_CTL_MIN_LANES, LINK_P_CTL_PMD, LINK_P_CTL_DIM, LINK_P_CTL_LOOP, LINK_P_CTL_EN].foldl
          (fun s f => s.put pgLINK (f.at 256 p) (f.of w)) s
      else (s.flagPage m pgLINK (pgLINK + (LINK_P_CTL + 256 * p)) 1).fabStat m (pgLINK + (LINK_P_CTL + 256 * p)) := by
  unfold State.setFields
  rw [pageAt_ctl p hp]
  dsimp only
  rw [show linkPage.page = .link from rfl, rowAt_ctl p hp]
  dsimp only
  cases ownsPage s m linkPage <;> rfl
/-- The flag of a write of the LINK page keeps the link block, the time and the configuration, and every field of a port's block. -/
theorem flagged_frame (s : State) (m : Master) (off cause : Nat) :
    ((s.flagPage m pgLINK off cause).fabStat m off).link = s.link ∧ ((s.flagPage m pgLINK off cause).fabStat m off).now = s.now ∧
      ∀ p < 4, ∀ f : Fld, f.ofPort → lpGet ((s.flagPage m pgLINK off cause).fabStat m off) p f = lpGet s p f := by
  unfold State.fabStat State.flagPage
  dsimp only
  refine ⟨by simp, by simp, fun p hp f hf => ?_⟩
  obtain ⟨hlo, hhi, -⟩ := hf
  have hoff : pgLINK + (f.at 256 p).off = 589824 + (f.off + 256 * p) := rfl
  unfold lpGet State.get
  simp only [hoff, State.cond_rd]
  rw [State.irq_rd _ _ _ _ (by simp only [pgMBCTL, HDR_IRQ_STAT]; omega) (.inl (by simp only [pgREC]; omega)),
    State.bumpSat_rd _ _ (by simp only [pgMBCTL, MAILBOX_CTL_FAB_VIOL_CNT_COUNT]; omega),
    State.rd_wr_of_ne _ _ (by simp only [pgMBCTL, MAILBOX_CTL_FAB_STAT]; omega), ite_self,
    State.bumpSat_rd _ _ (by simp only [pgLINK, HDR_VIOL_CNT_COUNT]; omega),
    State.rd_wr_of_ne _ _ (by simp only [pgLINK, HDR_ERR_ADDR]; omega), State.rd_wr_of_ne _ _ (by simp only [pgLINK, HDR_ERR_INFO]; omega)]
/-- The fields of P_CTL written by whichever master keep the link block, the time, and every field of the port's block outside P_CTL. -/
theorem setFields_ctl_frame (s : State) (m : Master) (p : Nat) (w : Word32) (hp : p < 4) :
    (s.setFields m pgLINK (LINK_P_CTL + 256 * p) w).link = s.link ∧ (s.setFields m pgLINK (LINK_P_CTL + 256 * p) w).now = s.now ∧
      ∀ f : Fld, f.ofPort → f.off ≠ LINK_P_CTL → lpGet (s.setFields m pgLINK (LINK_P_CTL + 256 * p) w) p f = lpGet s p f := by
  cases h : ownsPage s m linkPage
  · rw [setFields_ctl s m p w hp, h, if_neg (by decide)]
    obtain ⟨hlink, hnow, hget⟩ := flagged_frame s m (pgLINK + (LINK_P_CTL + 256 * p)) 1
    exact ⟨hlink, hnow, fun f hf _ => hget p hp f hf⟩
  · rw [setFields_ctl s m p w hp, if_pos h]
    refine ⟨rfl, rfl, fun f _ d => ?_⟩
    simp only [List.foldl_cons, List.foldl_nil]
    rw [lpGet_put_apart _ _ _ (by decide) (.inl d.symm), lpGet_put_apart _ _ _ (by decide) (.inl d.symm),
      lpGet_put_apart _ _ _ (by decide) (.inl d.symm), lpGet_put_apart _ _ _ (by decide) (.inl d.symm),
      lpGet_put_apart _ _ _ (by decide) (.inl d.symm)]
/-- What the owner writes to EN, PMD and LOOP they read. -/
theorem setFields_ctl_reads (s : State) (m : Master) (p : Nat) (w : Word32) (hp : p < 4) (h : ownsPage s m linkPage = true) :
    lpGet (s.setFields m pgLINK (LINK_P_CTL + 256 * p) w) p LINK_P_CTL_EN = LINK_P_CTL_EN.of w ∧
      lpGet (s.setFields m pgLINK (LINK_P_CTL + 256 * p) w) p LINK_P_CTL_PMD = LINK_P_CTL_PMD.of w ∧
      lpGet (s.setFields m pgLINK (LINK_P_CTL + 256 * p) w) p LINK_P_CTL_LOOP = LINK_P_CTL_LOOP.of w := by
  rw [setFields_ctl s m p w hp, if_pos h]
  simp only [List.foldl_cons, List.foldl_nil]
  refine ⟨?_, ?_, ?_⟩
  · rw [lpGet_put_self _ _ _ _ (by decide)]
    exact Nat.mod_eq_of_lt (Fld.of_lt ..)
  · rw [lpGet_put_apart _ _ _ (by decide) (by decide), lpGet_put_apart _ _ _ (by decide) (by decide),
      lpGet_put_apart _ _ _ (by decide) (by decide), lpGet_put_self _ _ _ _ (by decide)]
    exact Nat.mod_eq_of_lt (Fld.of_lt ..)
  · rw [lpGet_put_apart _ _ _ (by decide) (by decide), lpGet_put_self _ _ _ _ (by decide)]
    exact Nat.mod_eq_of_lt (Fld.of_lt ..)
/-- A write of P_CTL with EN as it stands keeps EN, whoever makes it. -/
theorem setFields_ctl_keeps_en (s : State) (m : Master) (p : Nat) (w : Word32) (hp : p < 4)
    (h : LINK_P_CTL_EN.of w = lpGet s p LINK_P_CTL_EN) :
    lpGet (s.setFields m pgLINK (LINK_P_CTL + 256 * p) w) p LINK_P_CTL_EN = lpGet s p LINK_P_CTL_EN := by
  cases ho : ownsPage s m linkPage
  · rw [setFields_ctl s m p w hp, ho, if_neg (by decide)]
    obtain ⟨-, -, hget⟩ := flagged_frame s m (pgLINK + (LINK_P_CTL + 256 * p)) 1
    exact hget p hp _ (by decide)
  · obtain ⟨hen, -, -⟩ := setFields_ctl_reads s m p w hp ho
    rw [hen, h]

/-- The word that a write of P_CTL sets: PMD and LOOP are taken by a DOWN port alone (R404). -/
def ctlWord (s : State) (p : Nat) (w : Word32) : Word32 :=
  if lpState s p = 0 then w
  else LINK_P_CTL_PMD.into (LINK_P_CTL_LOOP.into w (lpGet s p LINK_P_CTL_LOOP)) (lpGet s p LINK_P_CTL_PMD)
/-- A field of the word other than PMD and LOOP is as written. -/
theorem ctlWord_of (s : State) (p : Nat) (w : Word32) (f : Fld) (h : 21 < f.lo ∨ f.hi < 12) : f.of (ctlWord s p w) = f.of w := by
  unfold ctlWord
  split
  · rfl
  · rw [Fld.of_into_apart _ _ (by decide) (h.symm.imp (fun h => Nat.lt_trans h (by decide)) id),
      Fld.of_into_apart _ _ (by decide) (h.symm.imp id (fun h => Nat.lt_trans (by decide) h))]
/-- The state with the fields of P_CTL written. -/
def State.ctlSet (s : State) (m : Master) (p : Nat) (w : Word32) : State := s.setFields m pgLINK (LINK_P_CTL + 256 * p) (ctlWord s p w)
/-- A write of P_CTL that leaves EN 1 starts the port, where it is DOWN, and trains it anew, where RETRAIN says so. -/
theorem linkCtlWrite_enabled (s : State) (m : Master) (p : Nat) (w : Word32) (hl : p < s.cfg.links)
    (hm : mayWrite s m pgLINK (LINK_P_CTL + 256 * p) false = true) (he : lpGet (s.ctlSet m p w) p LINK_P_CTL_EN ≠ 0) :
    linkCtlWrite m p w s = ((s.ctlSet m p w).lpStart p).cond
      (LINK_P_CTL_RETRAIN.of (ctlWord s p w) == 1 && (lpState (s.ctlSet m p w) p == 4 || lpState (s.ctlSet m p w) p == 6))
      fun s => (s.setLanes p 0 0).lpSet p 1 := by
  unfold linkCtlWrite
  dsimp only
  rw [State.gate_open _ _ _ _ _ _ hm, if_neg (by omega)]
  exact if_neg he
/-- A write of P_CTL that leaves EN 0 drains a port that was enabled and is UP or on its way. -/
theorem linkCtlWrite_disabled (s : State) (m : Master) (p : Nat) (w : Word32) (hl : p < s.cfg.links)
    (hm : mayWrite s m pgLINK (LINK_P_CTL + 256 * p) false = true) (he : lpGet (s.ctlSet m p w) p LINK_P_CTL_EN = 0)
    (hs : lpState (s.ctlSet m p w) p < 6) :
    linkCtlWrite m p w s = (s.ctlSet m p w).cond
      (lpGet s p LINK_P_CTL_EN == 1 && (1 ≤ lpState (s.ctlSet m p w) p && lpState (s.ctlSet m p w) p ≤ 4))
      fun s => (s.lport p fun l => { l with drainAt := s.now }).lpSet p 5 := by
  unfold linkCtlWrite
  dsimp only
  rw [State.gate_open _ _ _ _ _ _ hm, if_neg (by omega)]
  exact (if_pos he).trans (if_neg (fun h : lpState (s.ctlSet m p w) p = 6 ∨ lpState (s.ctlSet m p w) p = 7 => by omega))
/-- The fields of P_CTL written leave the port's state. -/
theorem ctlSet_state (s : State) (m : Master) (p : Nat) (w : Word32) (hp : p < 4) : lpState (s.ctlSet m p w) p = lpState s p := by
  obtain ⟨-, -, hget⟩ := setFields_ctl_frame s m p (ctlWord s p w) hp
  exact hget _ (by decide) (by decide)
theorem ctlSet_en (s : State) (m : Master) (p : Nat) (w : Word32) (hp : p < 4) (h : ownsPage s m linkPage = true) :
    lpGet (s.ctlSet m p w) p LINK_P_CTL_EN = LINK_P_CTL_EN.of w := by
  obtain ⟨hen, -, -⟩ := setFields_ctl_reads s m p (ctlWord s p w) hp h
  exact hen.trans (ctlWord_of _ _ _ _ (.inr (by decide)))

/-! ### The commands that move a port between its states (R403 to R405) -/

/-- A DOWN port that is enabled goes where PMD and LOOP of the word say. -/
theorem enable_starts (s : State) (m : Master) (p : Nat) (w : Word32) (hp : p < 4) (hl : p < s.cfg.links)
    (hm : mayWrite s m pgLINK (LINK_P_CTL + 256 * p) true = true) (hs : lpState s p = 0) :
    ∃ t, exec (.linkPortEnable m p w) s = .next t ∧ lpGet t p LINK_P_CTL_EN = 1 ∧
      lpState t p = if LINK_P_CTL_PMD.of w = 3 then 0 else if LINK_P_CTL_LOOP.of w = 0 then 1 else 7 := by
  refine ⟨linkCtlWrite m (p % 4) (LINK_P_CTL_EN.into w 1) s, rfl, ?_⟩
  rw [Nat.mod_eq_of_lt hp]
  have hword : ctlWord s p (LINK_P_CTL_EN.into w 1) = LINK_P_CTL_EN.into w 1 := if_pos hs
  have hstate : lpState (s.ctlSet m p (LINK_P_CTL_EN.into w 1)) p = 0 := (ctlSet_state s m p _ hp).trans hs
  obtain ⟨hen, hpmd, hloop⟩ := setFields_ctl_reads s m p (ctlWord s p (LINK_P_CTL_EN.into w 1)) hp (mayWrite_owns hp hm)
  rw [hword, Fld.of_into_self _ (by decide)] at hen
  rw [hword, Fld.of_into_apart _ _ (by decide) (by decide)] at hpmd hloop
  replace hen : lpGet (s.ctlSet m p (LINK_P_CTL_EN.into w 1)) p LINK_P_CTL_EN = 1 := by rw [State.ctlSet, hword]; exact hen
  rw [linkCtlWrite_enabled s m p _ hl (mayWrite_any hm) (by omega), hstate]
  simp only [Nat.reduceBEq, Bool.or_self, Bool.and_false, State.cond_false]
  refine ⟨(lpStart_ctl _ _ _ hp (by decide) (by decide)).trans hen, ?_⟩
  rw [lpStart_state _ _ hp hstate hen, State.ctlSet, hword, hpmd, hloop]
/-- A port UP, or on its way, that is disabled drains from now on. -/
theorem disable_drains (s : State) (m : Master) (p : Nat) (w : Word32) (hp : p < 4) (hl : p < s.cfg.links)
    (hm : mayWrite s m pgLINK (LINK_P_CTL + 256 * p) true = true) (h1 : 1 ≤ lpState s p) (h4 : lpState s p ≤ 4)
    (he : lpGet s p LINK_P_CTL_EN = 1) :
    ∃ t, exec (.linkPortDisable m p w) s = .next t ∧ lpGet t p LINK_P_CTL_EN = 0 ∧ lpState t p = 5 ∧ (lkPort t p).drainAt = s.now := by
  refine ⟨linkCtlWrite m (p % 4) (LINK_P_CTL_EN.into w 0) s, rfl, ?_⟩
  rw [Nat.mod_eq_of_lt hp]
  have hen : lpGet (s.ctlSet m p (LINK_P_CTL_EN.into w 0)) p LINK_P_CTL_EN = 0 :=
    (ctlSet_en s m p _ hp (mayWrite_owns hp hm)).trans (Fld.of_into_self _ (by decide) ..)
  obtain ⟨-, hnow, -⟩ := setFields_ctl_frame s m p (ctlWord s p (LINK_P_CTL_EN.into w 0)) hp
  rw [linkCtlWrite_disabled s m p _ hl (mayWrite_any hm) hen (by rw [ctlSet_state _ _ _ _ hp]; omega), ctlSet_state _ _ _ _ hp, he]
  simp only [h1, h4, beq_self_eq_true, decide_true, Bool.and_self, State.cond_true]
  refine ⟨?_, State.lpSet_state _ _ _ (by decide) hp, ?_⟩
  · rw [lpGet_lpSet _ _ _ _ hp (by decide) (.inl (by decide)), lpGet_lport, hen]
  · rw [lkPort_lpSet, lkPort_lport_self]
    exact hnow
/-- RETRAIN trains a port anew that is UP or FAILED. -/
theorem retrain_trains (s : State) (m : Master) (p : Nat) (hp : p < 4) (hl : p < s.cfg.links)
    (hm : mayWrite s m pgLINK (LINK_P_CTL + 256 * p) false = true) (hs : lpState s p = 4 ∨ lpState s p = 6)
    (he : lpGet s p LINK_P_CTL_EN = 1) :
    ∃ t, exec (.retrain m p) s = .next t ∧ lpState t p = 1 ∧ lpGet t p LINK_P_STAT_TX_LANES = 0 ∧ lpGet t p LINK_P_STAT_RX_LANES = 0 := by
  refine ⟨linkCtlWrite m (p % 4) (LINK_P_CTL_RETRAIN.into (s.rd (pgLINK + LINK_P_CTL + 256 * (p % 4))) 1) s, rfl, ?_⟩
  rw [Nat.mod_eq_of_lt hp]
  generalize hw : LINK_P_CTL_RETRAIN.into (s.rd (pgLINK + LINK_P_CTL + 256 * p)) 1 = w
  have hretrain : LINK_P_CTL_RETRAIN.of (ctlWord s p w) = 1 := by
    rw [ctlWord_of _ _ _ _ (.inr (by decide)), ← hw, Fld.of_into_self _ (by decide)]
    rfl
  have hword : LINK_P_CTL_EN.of (ctlWord s p w) = lpGet s p LINK_P_CTL_EN := by
    rw [ctlWord_of _ _ _ _ (.inr (by decide)), ← hw, Fld.of_into_apart _ _ (by decide) (by decide), Nat.add_assoc]
    rfl
  have hen : lpGet (s.ctlSet m p w) p LINK_P_CTL_EN = 1 := (setFields_ctl_keeps_en s m p _ hp hword).trans he
  have hstate := ctlSet_state s m p w hp
  have hgo : (lpState s p == 4 || lpState s p == 6) = true := by simpa using hs
  rw [linkCtlWrite_enabled s m p w hl hm (by omega), hretrain, hstate, hgo, lpStart_idle _ _ (.inl (by omega))]
  simp only [beq_self_eq_true, Bool.and_self, State.cond_true]
  refine ⟨State.lpSet_state _ _ _ (by decide) hp, ?_⟩
  rw [lpGet_lpSet _ _ _ _ hp (by decide) (.inr (by decide)), lpGet_lpSet _ _ _ _ hp (by decide) (.inr (by decide))]
  exact setLanes_lanes ..
/-- A disabled port that has drained is DOWN. -/
theorem drain_ends (s : State) (p : Nat) (hp : p < 4) (hs : lpState s p = 5)
    (hd : (lkPort s p).replay = [] ∨ (lkPort s p).drainAt + hundredUs ≤ s.now) (ht : (lkPort s p).txq = [])
    (he : lpGet s p LINK_P_CTL_EN = 0) :
    ∃ t, exec (.linkDrainDone p) s = .next t ∧ lpState t p = 0 ∧ (lkPort t p).replay = [] :=
  ⟨s.lpDown p, if_pos ⟨hp, hs, hd⟩, lpDown_disabled s p hp ht he⟩
/-- Training with enough lanes in both directions leads to ALIGN, with those lanes. -/
theorem training_aligns (s : State) (p tx rx : Nat) (hp : p < 4) (hs : lpState s p = 1) (htx : tx < 256) (hrx : rx < 256)
    (hmt : minLanes s p ≤ laneCount tx) (hmr : minLanes s p ≤ laneCount rx) :
    ∃ t, exec (.linkTrainDone p tx rx) s = .next t ∧ lpState t p = 2 ∧ lpGet t p LINK_P_STAT_TX_LANES = tx ∧
      lpGet t p LINK_P_STAT_RX_LANES = rx := by
  have hexec : exec (.linkTrainDone p tx rx) s = .next ((s.setLanes p (tx % 256) (rx % 256)).lpSet p 2) :=
    (if_pos ⟨hp, hs⟩).trans (if_pos (by rw [Nat.mod_eq_of_lt htx, Nat.mod_eq_of_lt hrx]; exact ⟨hmt, hmr⟩))
  refine ⟨_, hexec, State.lpSet_state _ _ _ (by decide) hp, ?_⟩
  rw [lpGet_lpSet _ _ _ _ hp (by decide) (.inr (by decide)), lpGet_lpSet _ _ _ _ hp (by decide) (.inr (by decide)),
    Nat.mod_eq_of_lt htx, Nat.mod_eq_of_lt hrx]
  obtain ⟨htxl, hrxl⟩ := setLanes_lanes s p tx rx
  exact ⟨htxl.trans (Nat.mod_eq_of_lt htx), hrxl.trans (Nat.mod_eq_of_lt hrx)⟩
/-- Training with too few lanes in a direction fails the port. -/
theorem training_fails (s : State) (p tx rx : Nat) (hp : p < 4) (hs : lpState s p = 1) (htx : tx < 256) (hrx : rx < 256)
    (hm : laneCount tx < minLanes s p ∨ laneCount rx < minLanes s p) (ht : (lkPort s p).txq = []) (hr : (lkPort s p).replay = []) :
    ∃ t, exec (.linkTrainDone p tx rx) s = .next t ∧ lpState t p = 6 := by
  have hexec : exec (.linkTrainDone p tx rx) s = .next (s.lpFail p) :=
    (if_pos ⟨hp, hs⟩).trans (if_neg (by rw [Nat.mod_eq_of_lt htx, Nat.mod_eq_of_lt hrx]; omega))
  obtain ⟨hfailed, -⟩ := lpFail_quiet s p hp ht hr
  exact ⟨_, hexec, hfailed⟩
/-- A port that INIT starts (R395, R397): numbers, credits and what was received begin anew, and the replay buffer is sent again first. -/
def LinkPort.atInit (l : LinkPort) (now : Nat) : LinkPort :=
  { l with
    txq := l.replay ++ l.txq, replay := [], nextL := 0, sentC := [], farC := [], expL := 0, freed := [], waitL := false,
    retries := 0, heard := now, dropMask := none, lossAt := none, lock := true, serMark := [], serHigh := [],
    rxCtl := [], rxFlits := [], stale := l.held, marksTo := 0, cbWait := [], linkDue := false }
/-- Alignment leads to INIT, with an INIT block sent. -/
theorem alignment_inits (s : State) (p : Nat) (hp : p < 4) (hs : lpState s p = 2) :
    ∃ t, exec (.linkAlignDone p true) s = .next t ∧ lpState t p = 3 ∧ (lkPort t p).nextL = 0 ∧ (lkPort t p).expL = 0 ∧
      (lkPort t p).sentC = [] ∧ (lkPort t p).farC = [] ∧ (lkPort t p).txq = (lkPort s p).replay ++ (lkPort s p).txq ∧
      Sp.get 0 (lkPort t p).cbOut 5 = initBlock s p := by
  have hexec : exec (.linkAlignDone p true) s = .next (((s.lport p fun l => l.atInit s.now).lpSet p 3).sendInit p) := if_pos ⟨hp, hs⟩
  have hinit : lpState ((s.lport p fun l => l.atInit s.now).lpSet p 3) p = 3 := State.lpSet_state _ _ _ (by decide) hp
  obtain ⟨hsans, hport, hout⟩ := sendInit_sends _ p (hears_of_state _ p hp (.inl hinit))
  rw [lkPort_lpSet, lkPort_lport_self] at hport
  rw [initBlock_lpSet] at hout
  exact ⟨_, hexec, (lpGet_of_sansLink hsans ..).trans hinit, (congrArg LinkPort.nextL hport :), (congrArg LinkPort.expL hport :),
    (congrArg LinkPort.sentC hport :), (congrArg LinkPort.farC hport :), (congrArg LinkPort.txq hport :), hout⟩
/-- Alignment that does not succeed, silence for 100 µs and the last RETRY without progress fail the port. -/
theorem exec_fails (s : State) (p : Nat) (i : Instr) (hp : p < 4)
    (h : (i = .linkAlignDone p false ∧ lpState s p = 2) ∨
      (i = .linkSilenceTimeout p ∧ lpState s p = 4 ∧ (lkPort s p).heard + hundredUs ≤ s.now) ∨
      (i = .retryRepeat p ∧ lpState s p = 4 ∧ (lkPort s p).waitL = true ∧ (lkPort s p).lock = true ∧ (lkPort s p).retryAt + usTicks ≤ s.now ∧
        max 1 (s.get pgLINK LINK_LK_CFG_RETRY_MAX) ≤ (lkPort s p).retries)) : exec i s = .next (s.lpFail p) := by
  rcases h with ⟨rfl, hs⟩ | ⟨rfl, hs, hquiet⟩ | ⟨rfl, hs, hwait, hlock, hdue, hlast⟩
  · exact if_pos ⟨hp, hs⟩
  · exact if_pos ⟨hp, .inl hs, hquiet⟩
  · exact (if_pos ⟨hp, .inl hs, hwait, hlock, hdue⟩).trans (if_pos hlast)
/-- A RETRY that has made no progress, and is not the last, is sent again. -/
theorem retry_repeats (s : State) (p : Nat) (hp : p < 4) (hs : lpState s p = 4) (hwait : (lkPort s p).waitL = true)
    (hlock : (lkPort s p).lock = true) (hdue : (lkPort s p).retryAt + usTicks ≤ s.now)
    (hmore : (lkPort s p).retries < max 1 (s.get pgLINK LINK_LK_CFG_RETRY_MAX)) :
    ∃ t, exec (.retryRepeat p) s = .next t ∧ (lkPort t p).retries = (lkPort s p).retries + 1 ∧ (lkPort t p).retryAt = s.now ∧
      Sp.get 0 (lkPort t p).cbOut 2 = controlBlock 2 (lkPort s p).expL ∧ t.regs = s.regs := by
  have hexec : exec (.retryRepeat p) s =
      .next ((s.lport p fun l => { l with retries := (lkPort s p).retries + 1, retryAt := s.now }).sendRetry p) :=
    (if_pos ⟨hp, .inl hs, hwait, hlock, hdue⟩).trans (if_neg (Nat.not_le.mpr hmore))
  obtain ⟨hsans, hport, hout⟩ := sendRetry_sends (s.lport p fun l => { l with retries := (lkPort s p).retries + 1, retryAt := s.now }) p
    (hears_of_state _ p hp (.inr (.inl hs)))
  rw [lkPort_lport_self] at hport hout
  exact ⟨_, hexec, (congrArg LinkPort.retries hport :), (congrArg LinkPort.retryAt hport :), hout, sansLink_regs hsans⟩
/-- A lane that loses signal, or lock, asks the far side to drop it. -/
theorem laneLoss_asks (s : State) (p lane : Nat) (signal : Bool) (hp : p < 4) (hlane : lane < 8) (hs : lpState s p = 4)
    (hd : (lkPort s p).dropMask = none) (hb : bit (lpGet s p LINK_P_STAT_RX_LANES) lane = true)
    (hm : minLanes s p ≤ laneCount (lpGet s p LINK_P_STAT_RX_LANES - 2 ^ lane)) :
    ∃ t, exec (.laneLoss p lane signal) s = .next t ∧ (lkPort t p).dropMask = some (lpGet s p LINK_P_STAT_RX_LANES - 2 ^ lane) ∧
      Sp.get 0 (lkPort t p).cbOut 3 = controlBlock 3 (lpGet s p LINK_P_STAT_RX_LANES - 2 ^ lane) ∧
      (lkPort t p).lock = false ∧ (lkPort t p).waitL = true ∧ lpGet t p LINK_P_LDROP_LANE = lane ∧
      lpGet t p LINK_P_LDROP_CAUSE = if signal then 1 else 2 := by
  have hlost := loseLane_lost s p lane (if signal then 1 else 2) hp hs hd hb hm
  have hcause : (if signal then 1 else 2) = 1 ∨ (if signal then 1 else 2) = 2 := by cases signal <;> simp
  refine ⟨_, if_pos ⟨hp, hlane, .inl hs⟩, hlost.mask, hlost.asks, ?_, ?_, hlost.showsLane.trans (Nat.mod_eq_of_lt hlane),
    hlost.showsCause.trans (Nat.mod_eq_of_lt (by omega))⟩
  · rw [hlost.lock]
    rcases hcause with h | h <;> simp [h]
  · rw [hlost.wait]
    rcases hcause with h | h <;> simp [h]
/-- Fewer than two earlier intervals above the threshold make a row shorter than three. -/
theorem serRow_lt (s : State) (p j : Nat) (h : laneAbove s p j = true → (lkPort s p).serHigh.getD j 0 < 2) : serRow s p j < 3 := by
  unfold serRow
  split
  · rename_i ha
    have := h ha
    omega
  · omega
/-- An interval that makes no row of three is only counted. -/
theorem interval_counts (s : State) (p : Nat) (hp : p < 4) (hs : lpState s p = 4)
    (h : ∀ j < 8, laneAbove s p j = true → (lkPort s p).serHigh.getD j 0 < 2) :
    ∃ t, exec (.serInterval p) s = .next t ∧ lkPort t p = { lkPort s p with
      serMark := [], serHigh := (List.range 8).map (fun j => if laneAbove s p j then (lkPort s p).serHigh.getD j 0 + 1 else 0) } ∧
      t.regs = s.regs := by
  have hrow : ∀ j ∈ List.range 8, serRow s p j < 3 := fun j hj => serRow_lt s p j (h j (List.mem_range.mp hj))
  have hnone : (List.range 8).filter (fun j => decide (3 ≤ serRow s p j)) = [] :=
    List.filter_eq_nil_iff.mpr fun j hj => by simpa using hrow j hj
  have hmap : (List.range 8).map (fun j => if 3 ≤ serRow s p j then 0 else serRow s p j) = (List.range 8).map (serRow s p) :=
    List.map_congr_left fun j hj => if_neg (Nat.not_le.mpr (hrow j hj))
  rw [exec_serInterval s p hp hs, hnone, each_nil, hmap]
  exact ⟨_, rfl, lkPort_lport_self .., rfl⟩
/-- One lane picked out of the eight. -/
theorem filter_lane : ∀ lane < 8, (List.range 8).filter (fun j => decide (j = lane)) = [lane] := by decide
/-- The third interval in a row above the threshold, of one lane alone, loses the lane. -/
theorem interval_loses (s : State) (p lane : Nat) (hp : p < 4) (hs : lpState s p = 4) (hlane : lane < 8)
    (ha : laneAbove s p lane = true) (h2 : 2 ≤ (lkPort s p).serHigh.getD lane 0) (hother : ∀ j < 8, j ≠ lane → laneAbove s p j = false)
    (hd : (lkPort s p).dropMask = none) (hb : bit (lpGet s p LINK_P_STAT_RX_LANES) lane = true)
    (hm : minLanes s p ≤ laneCount (lpGet s p LINK_P_STAT_RX_LANES - 2 ^ lane)) :
    ∃ t, exec (.serInterval p) s = .next t ∧ (lkPort t p).dropMask = some (lpGet s p LINK_P_STAT_RX_LANES - 2 ^ lane) ∧
      lpGet t p LINK_P_LDROP_LANE = lane ∧ lpGet t p LINK_P_LDROP_CAUSE = 3 := by
  have hrow : ∀ j ∈ List.range 8, decide (3 ≤ serRow s p j) = decide (j = lane) := by
    intro j hj
    unfold serRow
    by_cases hjl : j = lane
    · subst hjl
      rw [if_pos ha]
      simpa using h2
    · rw [hother j (List.mem_range.mp hj) hjl]
      simp [hjl]
  have honly : (List.range 8).filter (fun j => decide (3 ≤ serRow s p j)) = [lane] := by
    rw [List.filter_congr hrow]
    exact filter_lane lane hlane
  rw [exec_serInterval s p hp hs, honly]
  have hlost := loseLane_lost (s.lport p fun l => { l with
    serMark := [], serHigh := (List.range 8).map fun j => if 3 ≤ serRow s p j then 0 else serRow s p j }) p lane 3 hp hs
    (by rw [lkPort_lport_self]; exact hd) hb hm
  exact ⟨_, rfl, hlost.mask, hlost.showsLane.trans (Nat.mod_eq_of_lt hlane), hlost.showsCause⟩
/-- A receiver that has locked again on its lanes asks for a retry. -/
theorem relock_asks (s : State) (p : Nat) (hp : p < 4) (hs : lpState s p = 4) (hlock : (lkPort s p).lock = false)
    (hd : (lkPort s p).dropMask = none) :
    ∃ t, exec (.laneRelock p) s = .next t ∧ (lkPort t p).lock = true ∧ (lkPort t p).waitL = true ∧ (lkPort t p).retryAt = s.now ∧
      (lkPort t p).retries = 1 ∧ Sp.get 0 (lkPort t p).cbOut 2 = controlBlock 2 (lkPort s p).expL ∧ t.regs = s.regs := by
  have hexec : exec (.laneRelock p) s =
      .next ((s.lport p fun l => { l with lock := true, waitL := true, retryAt := s.now, retries := 1 }).sendRetry p) :=
    if_pos ⟨hp, .inl hs, by rw [hlock]; rfl, hd⟩
  obtain ⟨hsans, hport, hout⟩ := sendRetry_sends (s.lport p fun l => { l with lock := true, waitL := true, retryAt := s.now, retries := 1 }) p
    (hears_of_state _ p hp (.inr (.inl hs)))
  rw [lkPort_lport_self] at hport hout
  exact ⟨_, hexec, (congrArg LinkPort.lock hport :), (congrArg LinkPort.waitL hport :), (congrArg LinkPort.retryAt hport :),
    (congrArg LinkPort.retries hport :), hout, sansLink_regs hsans⟩

/-- Settles O25, clause by clause. -/
theorem linkPortStates : Obligations.LinkPortStates :=
  ⟨enable_starts, disable_drains, retrain_trains, drain_ends, training_aligns, training_fails, alignment_inits,
    fun s p hp ht hr i h => ⟨s.lpFail p, exec_fails s p i hp h, lpFail_quiet s p hp ht hr⟩,
    retry_repeats, laneLoss_asks, interval_counts, interval_loses, relock_asks⟩

end Sys2Proof.Machine

/-! PROOFS. Pace, heat and EMERGENCY (spec/16_power_and_energy.md R481 to R496): which fields of the POWER page each of the shared operations
leaves, what the slowest pace and the hottest sector are, and what comes and goes with the causes of EMERGENCY. -/
namespace Sys2Proof.Machine

/-! ### Flags and interrupts of a page -/

theorem State.flag_congr {s t : State} {b : Nat} {f : Fld} (h : t.get b f = s.get b f) : t.flag b f = s.flag b f := by
  unfold State.flag
  rw [h]
theorem nrg_flag (s : State) (f : EnergySt → EnergySt) (b : Nat) (g : Fld) : (s.nrg f).flag b g = s.flag b g := rfl
/-- A one-bit field reads back the Bool written to it. -/
theorem State.flag_put_self (s : State) (a : Nat) (f : Fld) (v : Bool) (h : f.fits) (hone : f.hi = f.lo) :
    (s.put a f (b2n v)).flag a f = v := by
  unfold State.flag
  rw [State.get_put_self _ _ _ _ h, hone, Nat.add_sub_cancel_left]
  cases v <;> rfl
theorem State.irqBit_sets (s : State) (base k : Nat) (hk : k < 32) :
    ((s.irqBit base k).rd (base + HDR_IRQ_STAT)).toNat.testBit k = true := by
  unfold State.irqBit
  rw [State.rd_wr_self, BitVec.toNat_or, Nat.testBit_or, BitVec.toNat_ofNat, Nat.testBit_mod_two_pow, Nat.testBit_two_pow_self]
  simp [hk]
/-- The event of an interrupt bit sets it, in the pages below the recorder's (R512). -/
theorem State.irq_sets (s : State) (base k : Nat) (hk : k < 32) (hb : base + HDR_IRQ_STAT < pgREC) :
    ((s.irq base k).rd (base + HDR_IRQ_STAT)).toNat.testBit k = true := by
  unfold State.irq
  split
  · assumption
  · dsimp only
    rw [State.cond_rd, State.missed_rd _ _ (.inl hb), ite_self, State.fireErrors_rd _ _ _ _ (.inl hb)]
    exact State.irqBit_sets s base k hk

/-! ### Fields of the POWER page -/

/-- A field of the POWER page, above the page's header. -/
abbrev Fld.ofPower (f : Fld) : Prop := 0x40 ≤ f.off ∧ f.off < 0x1000
/-- A field of the sectors' words. -/
abbrev Fld.ofSec (f : Fld) : Prop := 0x200 ≤ f.off ∧ f.off < 0x280
theorem Fld.ofSec.ofPower {f : Fld} (h : f.ofSec) : f.ofPower := ⟨by omega, by omega⟩
theorem Fld.ofSec.ne {f : Fld} (h : f.ofSec) {off : Nat} (hoff : off < 0x200) : f.off ≠ off := by omega
theorem Fld.at_ofSec (f : Fld) (k : Nat) (hk : k < 32) (h : f.off = 0x200) : (f.at 4 k).ofSec := by
  constructor <;> dsimp only <;> omega

theorem powerIrq_get (s : State) (k : Nat) (f : Fld) (h : f.ofPower) : (s.irq pgPOWER k).get pgPOWER f = s.get pgPOWER f := by
  obtain ⟨hlo, hhi⟩ := h
  exact State.get_irq _ _ _ _ _ (by simp only [HDR_IRQ_STAT]; omega) (by simp only [pgPOWER, pgREC]; omega)
/-- A reading of a sector changes SEC.VALID alone. -/
theorem reading_get (s : State) (q k : Nat) (f : Fld) (d : f.off ≠ 0x200 + 4 * q ∨ f.hi < 31) :
    (s.reading q k).get pgPOWER f = s.get pgPOWER f :=
  State.get_put_page _ _ _ _ _ (Fld.at_fits _ _ (by decide)) (d.imp Ne.symm .inl)
theorem reading_valid (s : State) (q k : Nat) :
    (s.reading q k).flag pgPOWER (POWER_SEC_VALID.at 4 q) = (Sp.get 0 s.energyAcc.current q ||| k == 3) :=
  State.flag_put_self _ _ _ _ (Fld.at_fits _ _ (by decide)) rfl
/-- The device's pace changes PACE_DEV.DEV and PACE_MM alone. -/
theorem paceDevice_get (s : State) (f : Fld) (h : f.off ≠ POWER_PACE_MM) (d : f.off ≠ POWER_PACE_DEV ∨ 15 < f.lo) :
    s.paceDevice.get pgPOWER f = s.get pgPOWER f := by
  unfold State.paceDevice
  dsimp only
  rw [State.cond_get, State.get_put_page _ _ _ _ _ (by decide) (.inl h.symm), State.get_put_page _ _ _ _ _ (by decide) (.inl h.symm),
    ite_self, State.get_put_page _ _ _ _ _ (by decide) (d.imp Ne.symm .inr)]
theorem thStat_get (s : State) (f : Fld) (h : f.off ≠ POWER_TH_STAT) : s.thStat.get pgPOWER f = s.get pgPOWER f := by
  unfold State.thStat
  split
  · rw [State.get_put_page _ _ _ _ _ (by decide) (.inl h.symm), State.get_put_page _ _ _ _ _ (by decide) (.inl h.symm)]
  · rfl
theorem setBudget_get (s : State) (b : Nat) (floor lc : Bool) (f : Fld) (h : f.off ≠ POWER_ARB_STAT) :
    (s.setBudget b floor lc).get pgPOWER f = s.get pgPOWER f := by
  unfold State.setBudget
  dsimp only
  rw [State.nrg_get, State.get_put_page _ _ _ _ _ (by decide) (.inl h.symm)]

/-! ### The slowest pace (R27, R482) -/

/-- The largest pace of the host die and of the valid ones among the first n sectors. -/
def slowest (s : State) (n : Nat) : Nat :=
  (List.range n).foldl (fun a q => if s.flag pgPOWER (POWER_SEC_VALID.at 4 q) then max a (s.get pgPOWER (POWER_SEC_PACE.at 4 q)) else a)
    (s.get pgPOWER POWER_PACE_DEV_PERI)
theorem slowest_succ (s : State) (n : Nat) : slowest s (n + 1) =
    if s.flag pgPOWER (POWER_SEC_VALID.at 4 n) then max (slowest s n) (s.get pgPOWER (POWER_SEC_PACE.at 4 n)) else slowest s n := by
  unfold slowest
  rw [List.range_succ, List.foldl_append, List.foldl_cons, List.foldl_nil]
theorem slowest_le_succ (s : State) (n : Nat) : slowest s n ≤ slowest s (n + 1) := by
  rw [slowest_succ]
  split
  · exact Nat.le_max_left ..
  · exact Nat.le_refl _
theorem peri_le_slowest (s : State) (n : Nat) : s.get pgPOWER POWER_PACE_DEV_PERI ≤ slowest s n := by
  induction n with
  | zero => exact Nat.le_refl _
  | succ n ih => exact Nat.le_trans ih (slowest_le_succ s n)
theorem sector_le_slowest (s : State) (n k : Nat) (hk : k < n) (hv : s.flag pgPOWER (POWER_SEC_VALID.at 4 k) = true) :
    s.get pgPOWER (POWER_SEC_PACE.at 4 k) ≤ slowest s n := by
  induction n with
  | zero => omega
  | succ n ih =>
    rcases Nat.lt_succ_iff_lt_or_eq.mp hk with h | rfl
    · exact Nat.le_trans (ih h) (slowest_le_succ s n)
    · rw [slowest_succ, if_pos hv]
      exact Nat.le_max_right ..
theorem slowest_attained (s : State) (n : Nat) : slowest s n = s.get pgPOWER POWER_PACE_DEV_PERI ∨
    ∃ k < n, s.flag pgPOWER (POWER_SEC_VALID.at 4 k) = true ∧ slowest s n = s.get pgPOWER (POWER_SEC_PACE.at 4 k) := by
  induction n with
  | zero => exact .inl rfl
  | succ n ih =>
    have hkeep (h : slowest s (n + 1) = slowest s n) : slowest s (n + 1) = s.get pgPOWER POWER_PACE_DEV_PERI ∨
        ∃ k < n + 1, s.flag pgPOWER (POWER_SEC_VALID.at 4 k) = true ∧ slowest s (n + 1) = s.get pgPOWER (POWER_SEC_PACE.at 4 k) := by
      rw [h]
      exact ih.imp_right fun ⟨k, hk, hv⟩ => ⟨k, Nat.lt_succ_of_lt hk, hv⟩
    by_cases hv : s.flag pgPOWER (POWER_SEC_VALID.at 4 n) = true
    · rcases Nat.le_total (slowest s n) (s.get pgPOWER (POWER_SEC_PACE.at 4 n)) with h | h
      · exact .inr ⟨n, Nat.lt_succ_self n, hv, by rw [slowest_succ, if_pos hv, Nat.max_eq_right h]⟩
      · exact hkeep (by rw [slowest_succ, if_pos hv, Nat.max_eq_left h])
    · exact hkeep (by rw [slowest_succ, if_neg hv])
/-- A pace has 16 bits, so the largest fits DEV. -/
theorem slowest_lt (s : State) (n : Nat) : slowest s n < 2 ^ 16 := by
  rcases slowest_attained s n with h | ⟨k, -, -, h⟩ <;> rw [h] <;> exact State.get_lt ..
theorem paceDevice_dev (s : State) : s.paceDevice.get pgPOWER POWER_PACE_DEV_DEV = slowest s 32 := by
  unfold State.paceDevice
  dsimp only
  rw [State.cond_get, State.get_put_page _ _ _ _ _ (by decide) (by decide), State.get_put_page _ _ _ _ _ (by decide) (by decide),
    ite_self, State.get_put_self _ _ _ _ (by decide)]
  exact Nat.mod_eq_of_lt (slowest_lt s 32)
/-- PACE_DEV.DEV is the largest of the host die's pace and of those of the valid sectors. -/
structure DevSlowest (t : State) : Prop where
  peri : t.get pgPOWER POWER_PACE_DEV_PERI ≤ t.get pgPOWER POWER_PACE_DEV_DEV
  sector : ∀ k < 32, t.flag pgPOWER (POWER_SEC_VALID.at 4 k) = true →
    t.get pgPOWER (POWER_SEC_PACE.at 4 k) ≤ t.get pgPOWER POWER_PACE_DEV_DEV
  attained : t.get pgPOWER POWER_PACE_DEV_DEV = t.get pgPOWER POWER_PACE_DEV_PERI ∨
    ∃ k < 32, t.flag pgPOWER (POWER_SEC_VALID.at 4 k) = true ∧ t.get pgPOWER POWER_PACE_DEV_DEV = t.get pgPOWER (POWER_SEC_PACE.at 4 k)
theorem paceDevice_sec (s : State) (f : Fld) (h : f.ofSec) : s.paceDevice.get pgPOWER f = s.get pgPOWER f :=
  paceDevice_get s f (h.ne (by decide)) (.inl (h.ne (by decide)))
theorem paceDevice_slowest (s : State) : DevSlowest s.paceDevice := by
  have hperi : s.paceDevice.get pgPOWER POWER_PACE_DEV_PERI = s.get pgPOWER POWER_PACE_DEV_PERI :=
    paceDevice_get s _ (by decide) (.inr (by decide))
  have hpace (k : Nat) (hk : k < 32) : s.paceDevice.get pgPOWER (POWER_SEC_PACE.at 4 k) = s.get pgPOWER (POWER_SEC_PACE.at 4 k) :=
    paceDevice_sec s _ (Fld.at_ofSec _ k hk rfl)
  have hvalid (k : Nat) (hk : k < 32) : s.paceDevice.flag pgPOWER (POWER_SEC_VALID.at 4 k) = s.flag pgPOWER (POWER_SEC_VALID.at 4 k) :=
    State.flag_congr (paceDevice_sec s _ (Fld.at_ofSec _ k hk rfl))
  refine ⟨?_, fun k hk hv => ?_, ?_⟩ <;> rw [paceDevice_dev]
  · rw [hperi]
    exact peri_le_slowest s 32
  · rw [hpace k hk]
    exact sector_le_slowest s 32 k hk ((hvalid k hk).symm.trans hv)
  · rw [hperi]
    refine (slowest_attained s 32).imp_right fun ⟨k, hk, hv, he⟩ => ⟨k, hk, (hvalid k hk).trans hv, ?_⟩
    rw [he, hpace k hk]

/-- A pace report of a sector that is on (R482). -/
theorem paceReport_sector (s : State) (q pace : Nat) (hq : q < 32) (hon : sectorOn s q = true) (hp : pace < 2 ^ 16) :
    ∃ t, exec (.ringMonitorReport q pace) s = .next t ∧ t.get pgPOWER (POWER_SEC_PACE.at 4 q) = pace ∧ DevSlowest t := by
  refine ⟨((s.put pgPOWER (POWER_SEC_PACE.at 4 q) pace).reading q 1).paceDevice, ?_, ?_, paceDevice_slowest _⟩
  · show execRingMonitorReport q pace s = _
    unfold execRingMonitorReport
    rw [if_neg (by simp only [hon, Bool.not_true, Bool.false_eq_true, and_false, or_false]; omega), if_neg (by omega)]
  · rw [paceDevice_sec _ _ (Fld.at_ofSec _ q hq rfl), reading_get _ _ _ _ (.inr (by decide : 15 < 31)),
      State.get_put_self _ _ _ _ (Fld.at_fits _ _ (by decide))]
    exact Nat.mod_eq_of_lt hp
/-- A pace report of the host die's periphery (R482). -/
theorem paceReport_host (s : State) (pace : Nat) (hp : pace < 2 ^ 16) :
    ∃ t, exec (.ringMonitorReport 32 pace) s = .next t ∧ t.get pgPOWER POWER_PACE_DEV_PERI = pace ∧
      pace ≤ t.get pgPOWER POWER_PACE_DEV_DEV := by
  have hperi : (s.put pgPOWER POWER_PACE_DEV_PERI pace).paceDevice.get pgPOWER POWER_PACE_DEV_PERI = pace := by
    rw [paceDevice_get _ _ (by decide) (.inr (by decide)), State.get_put_self _ _ _ _ (by decide)]
    exact Nat.mod_eq_of_lt hp
  have hdev := (paceDevice_slowest (s.put pgPOWER POWER_PACE_DEV_PERI pace)).peri
  rw [hperi] at hdev
  exact ⟨_, rfl, hperi, hdev⟩

/-! ### The hottest sector (R483) -/

/-- A valid sector with the highest temperature of the valid ones below n. -/
structure HottestBelow (s : State) (n h : Nat) : Prop where
  lt : h < n
  valid : s.flag pgPOWER (POWER_SEC_VALID.at 4 h) = true
  hot : ∀ k < n, s.flag pgPOWER (POWER_SEC_VALID.at 4 k) = true → tempOf s k ≤ tempOf s h
/-- The hotter of a sector found so far and of sector q, where q is valid. -/
def hotter (s : State) (a : Option Nat) (q : Nat) : Option Nat :=
  if !s.flag pgPOWER (POWER_SEC_VALID.at 4 q) then a
  else match a with
    | some b => if tempOf s b < tempOf s q then some q else a
    | none => some q
theorem hottest_eq (s : State) : hottest s = (List.range 32).foldl (hotter s) none := rfl
theorem hotter_invalid (s : State) (a : Option Nat) (q : Nat) (h : s.flag pgPOWER (POWER_SEC_VALID.at 4 q) = false) : hotter s a q = a := by
  unfold hotter
  rw [h]
  rfl
theorem hotter_none (s : State) (q : Nat) (h : s.flag pgPOWER (POWER_SEC_VALID.at 4 q) = true) : hotter s none q = some q := by
  unfold hotter
  rw [h]
  rfl
theorem hotter_some (s : State) (b q : Nat) (h : s.flag pgPOWER (POWER_SEC_VALID.at 4 q) = true) :
    hotter s (some b) q = if tempOf s b < tempOf s q then some q else some b := by
  unfold hotter
  rw [h]
  rfl
/-- A hottest sector stays one where the next is not hotter. -/
theorem HottestBelow.keep {s : State} {n h : Nat} (hh : HottestBelow s n h)
    (hn : s.flag pgPOWER (POWER_SEC_VALID.at 4 n) = true → tempOf s n ≤ tempOf s h) : HottestBelow s (n + 1) h :=
  ⟨Nat.lt_succ_of_lt hh.lt, hh.valid, Nat.forall_lt_succ_right.mpr ⟨hh.hot, hn⟩⟩
/-- The next sector is a hottest one where none before it is hotter. -/
theorem HottestBelow.next {s : State} {n : Nat} (hv : s.flag pgPOWER (POWER_SEC_VALID.at 4 n) = true)
    (hn : ∀ k < n, s.flag pgPOWER (POWER_SEC_VALID.at 4 k) = true → tempOf s k ≤ tempOf s n) : HottestBelow s (n + 1) n :=
  ⟨Nat.lt_succ_self n, hv, Nat.forall_lt_succ_right.mpr ⟨hn, fun _ => Int.le_refl _⟩⟩
/-- The sectors below n in order: no valid one gives none, and otherwise a hottest one is found. -/
theorem hotter_finds (s : State) (n : Nat) :
    ((List.range n).foldl (hotter s) none = none ∧ ∀ k < n, s.flag pgPOWER (POWER_SEC_VALID.at 4 k) = false) ∨
      ∃ h, (List.range n).foldl (hotter s) none = some h ∧ HottestBelow s n h := by
  induction n with
  | zero => exact .inl ⟨rfl, fun k hk => absurd hk (Nat.not_lt_zero k)⟩
  | succ n ih =>
    rw [List.range_succ, List.foldl_append, List.foldl_cons, List.foldl_nil]
    cases hv : s.flag pgPOWER (POWER_SEC_VALID.at 4 n) with
    | false =>
      rw [hotter_invalid _ _ _ hv]
      rcases ih with ⟨hnone, hall⟩ | ⟨h, hsome, hh⟩
      · exact .inl ⟨hnone, Nat.forall_lt_succ_right.mpr ⟨hall, hv⟩⟩
      · exact .inr ⟨h, hsome, hh.keep fun hvalid => absurd (hv.symm.trans hvalid) Bool.false_ne_true⟩
    | true =>
      right
      rcases ih with ⟨hnone, hall⟩ | ⟨h, hsome, hh⟩
      · rw [hnone, hotter_none _ _ hv]
        exact ⟨n, rfl, .next hv fun k hk hvalid => absurd ((hall k hk).symm.trans hvalid) Bool.false_ne_true⟩
      · rw [hsome, hotter_some _ _ _ hv]
        split
        next hlater => exact ⟨n, rfl, .next hv fun k hk hvalid => Int.le_trans (hh.hot k hk hvalid) (Int.le_of_lt hlater)⟩
        next hlater => exact ⟨h, rfl, hh.keep fun _ => Int.not_lt.mp hlater⟩
/-- Where a sector is valid, there is a hottest one. -/
theorem hottest_finds (s : State) (q : Nat) (hq : q < 32) (hv : s.flag pgPOWER (POWER_SEC_VALID.at 4 q) = true) :
    ∃ h, hottest s = some h ∧ HottestBelow s 32 h := by
  rw [hottest_eq]
  rcases hotter_finds s 32 with ⟨-, hall⟩ | hfound
  · exact absurd ((hall q hq).symm.trans hv) Bool.false_ne_true
  · exact hfound
/-- Which sector is hottest is read from the sectors' words. -/
theorem HottestBelow.congr {s t : State} {h : Nat} (hs : ∀ f : Fld, f.ofSec → t.get pgPOWER f = s.get pgPOWER f)
    (hh : HottestBelow s 32 h) : HottestBelow t 32 h := by
  obtain ⟨hlt, hvalid, hhot⟩ := hh
  have hflag (k : Nat) (hk : k < 32) : t.flag pgPOWER (POWER_SEC_VALID.at 4 k) = s.flag pgPOWER (POWER_SEC_VALID.at 4 k) :=
    State.flag_congr (hs _ (Fld.at_ofSec _ k hk rfl))
  have htemp (k : Nat) (hk : k < 32) : tempOf t k = tempOf s k := congrArg (signed 12) (hs _ (Fld.at_ofSec _ k hk rfl))
  refine ⟨hlt, (hflag h hlt).trans hvalid, fun k hk hv => ?_⟩
  rw [htemp k hk, htemp h hlt]
  exact hhot k hk ((hflag k hk).symm.trans hv)
/-- TH_STAT names the hottest sector, with its temperature. -/
theorem thStat_names (s : State) (h : Nat) (hh : hottest s = some h) (hlt : h < 32) : s.thStat.get pgPOWER POWER_TH_STAT_SECTOR = h ∧
    s.thStat.get pgPOWER POWER_TH_STAT_TEMP = s.get pgPOWER (POWER_SEC_TEMP.at 4 h) := by
  unfold State.thStat
  rw [hh]
  constructor
  · dsimp only
    rw [State.get_put_page _ _ _ _ _ (by decide) (by decide), State.get_put_self _ _ _ _ (by decide)]
    exact Nat.mod_eq_of_lt hlt
  · dsimp only
    rw [State.get_put_self _ _ _ _ (by decide)]
    exact Nat.mod_eq_of_lt (State.get_lt ..)

/-! ### The causes of EMERGENCY (R495, R496) -/

/-- A cause of EMERGENCY holds. -/
def emgCause (s : State) : Bool :=
  s.flag pgPOWER POWER_EMG_STAT_ALERT || s.flag pgPOWER POWER_EMG_STAT_OT || s.flag pgPOWER POWER_EMG_STAT_FORCED
theorem emergency_putStat (s : State) (f : Fld) (v : Nat) (h : f.fits) (d : f.hi < 31) : emergency (s.put pgPOWER f v) = emergency s :=
  State.flag_congr (State.get_put_page _ _ _ _ _ h (.inr (.inr d)))
/-- The state with EMERGENCY shown and counted, before the budget follows. -/
def State.emgShown (s : State) : State :=
  (((s.put pgPOWER POWER_EMG_STAT_CLEARING 0).put pgPOWER POWER_EMG_STAT_ACTIVE 1).bumpSat pgPOWER POWER_EMG_CNT_COUNT).nrg
    fun e => { e with emgs := e.emgs + 1 }
/-- EMERGENCY follows its causes: it starts with the first, a new one ends its clearing, and the last one gone starts it. -/
theorem emgUpdate_eq (s : State) : s.emgUpdate =
    if emgCause s then
      if emergency s then s.put pgPOWER POWER_EMG_STAT_CLEARING 0
      else (s.emgShown.setBudget (s.emgShown.get pgPOWER POWER_FLOOR_UJ) true true).irq pgPOWER 0
    else if emergency s && !s.flag pgPOWER POWER_EMG_STAT_CLEARING then
      (s.put pgPOWER POWER_EMG_STAT_CLEARING 1).nrg fun e => { e with clearAt := s.now + tenMs }
    else s := by
  unfold State.emgUpdate
  dsimp only
  rw [emergency_putStat _ _ _ (by decide) (by decide)]
  rfl
/-- An update of EMERGENCY leaves its causes, and every field but those of EMG_STAT, EMG_CNT and ARB_STAT. -/
theorem emgUpdate_get (s : State) (f : Fld) (h : f.ofPower) (hcnt : f.off ≠ POWER_EMG_CNT) (harb : f.off ≠ POWER_ARB_STAT)
    (d : f.off ≠ POWER_EMG_STAT ∨ 27 < f.lo ∧ f.hi < 31) : s.emgUpdate.get pgPOWER f = s.get pgPOWER f := by
  have hclearing (u : State) (v : Nat) : (u.put pgPOWER POWER_EMG_STAT_CLEARING v).get pgPOWER f = u.get pgPOWER f :=
    State.get_put_page _ _ _ _ _ (by decide) (d.imp Ne.symm fun h => .inr h.1)
  have hactive (u : State) (v : Nat) : (u.put pgPOWER POWER_EMG_STAT_ACTIVE v).get pgPOWER f = u.get pgPOWER f :=
    State.get_put_page _ _ _ _ _ (by decide) (d.imp Ne.symm fun h => .inl h.2)
  rw [emgUpdate_eq]
  split
  · split
    · exact hclearing _ _
    · rw [powerIrq_get _ _ _ h, setBudget_get _ _ _ _ _ harb, State.emgShown, State.nrg_get, State.bumpSat,
        State.get_put_page _ _ _ _ _ (by decide) (.inl hcnt.symm), hactive, hclearing]
  · split
    · rw [State.nrg_get, hclearing]
    · rfl
theorem otUpdate_get (s : State) (f : Fld) (h : f.ofPower) (hcnt : f.off ≠ POWER_EMG_CNT) (harb : f.off ≠ POWER_ARB_STAT)
    (hstat : f.off ≠ POWER_EMG_STAT) : s.otUpdate.get pgPOWER f = s.get pgPOWER f :=
  (emgUpdate_get _ _ h hcnt harb (.inl hstat)).trans (State.get_put_page _ _ _ _ _ (by decide) (.inl hstat.symm))
/-- A cause while EMERGENCY holds ends its clearing. -/
theorem emgUpdate_stays (s : State) (hc : emgCause s = true) (he : emergency s = true) :
    s.emgUpdate = s.put pgPOWER POWER_EMG_STAT_CLEARING 0 := by
  rw [emgUpdate_eq, if_pos hc, if_pos he]
/-- The last cause gone, the clearing starts. -/
theorem emgUpdate_clears (s : State) (hc : emgCause s = false) (he : emergency s = true)
    (hn : s.flag pgPOWER POWER_EMG_STAT_CLEARING = false) :
    s.emgUpdate = (s.put pgPOWER POWER_EMG_STAT_CLEARING 1).nrg fun e => { e with clearAt := s.now + tenMs } := by
  rw [emgUpdate_eq, hc, he, hn]
  rfl
theorem emgShown_active (s : State) : s.emgShown.flag pgPOWER POWER_EMG_STAT_ACTIVE = true := by
  unfold State.emgShown State.bumpSat
  rw [nrg_flag, State.flag_congr (State.get_put_page _ _ _ _ _ (by decide) (by decide))]
  exact State.flag_put_self _ _ _ true (by decide) rfl
theorem emgShown_count (s : State) :
    s.emgShown.get pgPOWER POWER_EMG_CNT_COUNT = min (s.get pgPOWER POWER_EMG_CNT_COUNT + 1) (2 ^ 32 - 1) := by
  unfold State.emgShown
  rw [State.nrg_get, State.get_bumpSat_self _ _ _ _ (by decide), State.get_put_page _ _ _ _ _ (by decide) (by decide),
    State.get_put_page _ _ _ _ _ (by decide) (by decide)]
  rfl
theorem emgShown_floor (s : State) : s.emgShown.get pgPOWER POWER_FLOOR_UJ = s.get pgPOWER POWER_FLOOR_UJ := by
  unfold State.emgShown State.bumpSat
  rw [State.nrg_get, State.get_put_page _ _ _ _ _ (by decide) (by decide), State.get_put_page _ _ _ _ _ (by decide) (by decide),
    State.get_put_page _ _ _ _ _ (by decide) (by decide)]
/-- What the start of EMERGENCY does: it holds, is counted and interrupts, B is FLOOR, and the LC pool has gone to POOL. -/
structure EmgEntered (s t : State) : Prop where
  active : emergency t = true
  count : t.get pgPOWER POWER_EMG_CNT_COUNT = min (s.get pgPOWER POWER_EMG_CNT_COUNT + 1) (2 ^ 32 - 1)
  budget : t.energyAcc.budget = s.get pgPOWER POWER_FLOOR_UJ
  lcPool : t.energyAcc.lcPool = 0
  pool : t.energyAcc.pool = s.energyAcc.pool +
    (njInt (1000 * s.get pgPOWER POWER_FLOOR_UJ) - njInt (1000 * s.energyAcc.budget)) + s.energyAcc.lcPool
  irq : (t.rd (pgPOWER + HDR_IRQ_STAT)).toNat.testBit 0 = true
/-- The first cause starts EMERGENCY. -/
theorem emgUpdate_enters (s : State) (hc : emgCause s = true) (he : emergency s = false) : EmgEntered s s.emgUpdate := by
  rw [emgUpdate_eq, if_pos hc, he, if_neg Bool.false_ne_true, emgShown_floor]
  refine ⟨?_, ?_, ?_, ?_, ?_, State.irq_sets _ _ _ (by decide) (by decide)⟩
  · unfold emergency
    rw [State.flag_congr (powerIrq_get _ _ _ (by decide)), State.flag_congr (setBudget_get _ _ _ _ _ (by decide)), emgShown_active]
  · rw [powerIrq_get _ _ _ (by decide), setBudget_get _ _ _ _ _ (by decide), emgShown_count]
  · exact congrArg EnergySt.budget (State.irq_energyAcc ..)
  · exact congrArg EnergySt.lcPool (State.irq_energyAcc ..)
  · exact congrArg EnergySt.pool (State.irq_energyAcc ..)
/-- With a cause the device is in EMERGENCY. -/
theorem emgUpdate_active (s : State) (hc : emgCause s = true) : emergency s.emgUpdate = true := by
  cases he : emergency s with
  | true => rw [emgUpdate_stays s hc he, emergency_putStat _ _ _ (by decide) (by decide), he]
  | false => exact (emgUpdate_enters s hc he).active

/-! ### Temperature (R483) -/

/-- A sector is over temperature with a reading of temp: from the level on, and down to 3 °C below it where it was before. -/
def overTemp (s : State) (q temp : Nat) : Bool :=
  decide (otLevel s ≤ signed 12 temp) ||
    (s.flag pgPOWER (POWER_SEC_OT.at 4 q) && decide (otLevel s - 24 ≤ signed 12 temp))
theorem overTemp_eq (s : State) (q temp : Nat) : overTemp s q temp = if otLevel s ≤ signed 12 temp then true else
    if otLevel s - 24 ≤ signed 12 temp then s.flag pgPOWER (POWER_SEC_OT.at 4 q) else false := by
  unfold overTemp
  by_cases hhot : otLevel s ≤ signed 12 temp
  · simp [hhot]
  · by_cases hwarm : otLevel s - 24 ≤ signed 12 temp <;> simp [hhot, hwarm]
/-- The state with a sector's temperature taken, before what follows from it. -/
def State.heated (s : State) (q temp : Nat) : State :=
  ((s.put pgPOWER (POWER_SEC_TEMP.at 4 q) temp).put pgPOWER (POWER_SEC_OT.at 4 q) (b2n (overTemp s q temp))).reading q 2
/-- What follows from a temperature: the device's pace, the hottest sector and the warning are shown. -/
def State.heatShown (s : State) (temp : Nat) : State :=
  s.paceDevice.thStat.cond (decide (signed 12 (s.paceDevice.thStat.get pgPOWER POWER_TH_CFG_WARN) ≤ signed 12 temp))
    fun s => s.irq pgPOWER 2
theorem exec_thermalReport (s : State) (q temp : Nat) (hon : sectorOn s q = true) :
    exec (.thermalReport q temp) s = .next ((s.heated q temp).heatShown temp).otUpdate := by
  show execThermalReport q temp s = _
  unfold execThermalReport
  rw [hon]
  rfl
theorem heated_temp (s : State) (q temp : Nat) (ht : temp < 4096) : (s.heated q temp).get pgPOWER (POWER_SEC_TEMP.at 4 q) = temp := by
  unfold State.heated
  rw [reading_get _ _ _ _ (.inr (by decide : 27 < 31)),
    State.get_put_page _ _ _ _ _ (Fld.at_fits _ _ (by decide)) (.inr (Fld.at_apart _ _ (by decide))),
    State.get_put_self _ _ _ _ (Fld.at_fits _ _ (by decide))]
  exact Nat.mod_eq_of_lt ht
theorem heated_ot (s : State) (q temp : Nat) : (s.heated q temp).flag pgPOWER (POWER_SEC_OT.at 4 q) = overTemp s q temp :=
  (State.flag_congr (reading_get _ _ _ _ (.inr (by decide : 30 < 31)))).trans (State.flag_put_self _ _ _ _ (Fld.at_fits _ _ (by decide)) rfl)
/-- A temperature makes a sector valid that has a pace reading. -/
theorem heated_valid (s : State) (q temp : Nat) (hc : Sp.get 0 s.energyAcc.current q = 1 ∨ Sp.get 0 s.energyAcc.current q = 3) :
    (s.heated q temp).flag pgPOWER (POWER_SEC_VALID.at 4 q) = true := by
  refine (reading_valid ..).trans ?_
  rw [State.put_energyAcc, State.put_energyAcc]
  rcases hc with hc | hc <;> rw [hc] <;> rfl
theorem heatShown_get (s : State) (temp : Nat) (f : Fld) (h : f.ofPower) : (s.heatShown temp).get pgPOWER f = s.paceDevice.thStat.get pgPOWER f := by
  unfold State.heatShown
  rw [State.cond_get, powerIrq_get _ _ _ h, ite_self]
theorem heatShown_sec (s : State) (temp : Nat) (f : Fld) (h : f.ofSec) : (s.heatShown temp).get pgPOWER f = s.get pgPOWER f := by
  rw [heatShown_get _ _ _ h.ofPower, thStat_get _ _ (h.ne (by decide)), paceDevice_sec _ _ h]
theorem otUpdate_sec (s : State) (f : Fld) (h : f.ofSec) : s.otUpdate.get pgPOWER f = s.get pgPOWER f :=
  otUpdate_get _ _ h.ofPower (h.ne (by decide)) (h.ne (by decide)) (h.ne (by decide))
/-- A valid sector over temperature is a cause of EMERGENCY. -/
theorem otUpdate_active (s : State) (q : Nat) (hq : q < 32) (hv : s.flag pgPOWER (POWER_SEC_VALID.at 4 q) = true)
    (ho : s.flag pgPOWER (POWER_SEC_OT.at 4 q) = true) : emergency s.otUpdate = true := by
  have hany : ((List.range 32).any fun q =>
      s.flag pgPOWER (POWER_SEC_VALID.at 4 q) && s.flag pgPOWER (POWER_SEC_OT.at 4 q)) = true :=
    List.any_eq_true.mpr ⟨q, List.mem_range.mpr hq, by rw [hv, ho]; rfl⟩
  unfold State.otUpdate
  dsimp only
  rw [hany]
  refine emgUpdate_active _ ?_
  unfold emgCause
  rw [State.flag_put_self _ _ _ true (by decide) rfl, Bool.or_true, Bool.true_or]

/-- A temperature of a sector that is on is shown, with OT as the levels say (R483). -/
theorem thermalReport_shows (s : State) (q temp : Nat) (hq : q < 32) (hon : sectorOn s q = true) (ht : temp < 4096) :
    ∃ t, exec (.thermalReport q temp) s = .next t ∧ t.get pgPOWER (POWER_SEC_TEMP.at 4 q) = temp ∧
      t.flag pgPOWER (POWER_SEC_OT.at 4 q) = (if otLevel s ≤ signed 12 temp then true else
        if otLevel s - 24 ≤ signed 12 temp then s.flag pgPOWER (POWER_SEC_OT.at 4 q) else false) := by
  refine ⟨_, exec_thermalReport s q temp hon, ?_, ?_⟩
  · rw [otUpdate_sec _ _ (Fld.at_ofSec _ q hq rfl), heatShown_sec _ _ _ (Fld.at_ofSec _ q hq rfl), heated_temp s q temp ht]
  · rw [State.flag_congr (otUpdate_sec _ _ (Fld.at_ofSec _ q hq rfl)), State.flag_congr (heatShown_sec _ _ _ (Fld.at_ofSec _ q hq rfl)),
      heated_ot, overTemp_eq]
/-- A temperature at the level, of a sector with a pace reading, brings EMERGENCY, and TH_STAT names a hottest sector (R483, R495). -/
theorem thermalReport_emergency (s : State) (q temp : Nat) (hq : q < 32) (hon : sectorOn s q = true)
    (hot : otLevel s ≤ signed 12 temp) (hc : Sp.get 0 s.energyAcc.current q = 1 ∨ Sp.get 0 s.energyAcc.current q = 3) :
    ∃ t, exec (.thermalReport q temp) s = .next t ∧ emergency t = true ∧ ∃ h < 32, t.get pgPOWER POWER_TH_STAT_SECTOR = h ∧
      t.flag pgPOWER (POWER_SEC_VALID.at 4 h) = true ∧ t.get pgPOWER POWER_TH_STAT_TEMP = t.get pgPOWER (POWER_SEC_TEMP.at 4 h) ∧
      ∀ k < 32, t.flag pgPOWER (POWER_SEC_VALID.at 4 k) = true → tempOf t k ≤ tempOf t h := by
  have hvalid := heated_valid s q temp hc
  have hotFlag : (s.heated q temp).flag pgPOWER (POWER_SEC_OT.at 4 q) = true := by
    rw [heated_ot, overTemp_eq, if_pos hot]
  refine ⟨_, exec_thermalReport s q temp hon, otUpdate_active _ q hq
    ((State.flag_congr (heatShown_sec _ _ _ (Fld.at_ofSec _ q hq rfl))).trans hvalid)
    ((State.flag_congr (heatShown_sec _ _ _ (Fld.at_ofSec _ q hq rfl))).trans hotFlag), ?_⟩
  generalize s.heated q temp = u at hvalid
  obtain ⟨h, hnames, hhot⟩ := hottest_finds u.paceDevice q hq ((State.flag_congr (paceDevice_sec _ _ (Fld.at_ofSec _ q hq rfl))).trans hvalid)
  have hlt := hhot.lt
  obtain ⟨hsector, htemp⟩ := thStat_names _ h hnames hlt
  have hsec (f : Fld) (hf : f.ofSec) : (u.heatShown temp).otUpdate.get pgPOWER f = u.paceDevice.get pgPOWER f := by
    rw [otUpdate_sec _ _ hf, heatShown_sec _ _ _ hf, paceDevice_sec _ _ hf]
  have hstat (f : Fld) (hf : f.off = POWER_TH_STAT) : (u.heatShown temp).otUpdate.get pgPOWER f = u.paceDevice.thStat.get pgPOWER f := by
    have hpower : f.ofPower := by rw [Fld.ofPower, hf]; decide
    rw [otUpdate_get _ _ hpower (by rw [hf]; decide) (by rw [hf]; decide) (by rw [hf]; decide), heatShown_get _ _ _ hpower]
  obtain ⟨-, hvalidT, hhotT⟩ := hhot.congr hsec
  refine ⟨h, hlt, (hstat _ rfl).trans hsector, hvalidT, ?_, hhotT⟩
  rw [hstat _ rfl, htemp, hsec _ (Fld.at_ofSec _ h hlt rfl)]

/-! ### POWER_ALERT, FORCE and the end of EMERGENCY (R495, R496) -/

/-- A change of POWER_ALERT sets its flag, and EMERGENCY follows. -/
theorem exec_powerAlertChange (s : State) (level : Bool) (hclk : s.clockOn = true) :
    exec (.powerAlertChange level) s = .next (s.put pgPOWER POWER_EMG_STAT_ALERT (b2n level)).emgUpdate := by
  show execPowerAlertChange level s = _
  unfold execPowerAlertChange
  rw [hclk]
  rfl
/-- Setting the alert changes EMG_STAT.ALERT alone. -/
theorem alert_get (s : State) (v : Nat) (f : Fld) (d : f.off ≠ POWER_EMG_STAT ∨ f.hi < 30 ∨ 30 < f.lo) :
    (s.put pgPOWER POWER_EMG_STAT_ALERT v).get pgPOWER f = s.get pgPOWER f :=
  State.get_put_page _ _ _ _ _ (by decide) (d.imp_left Ne.symm)
/-- POWER_ALERT as the first cause brings EMERGENCY. -/
theorem powerAlert_enters (s : State) (hclk : s.clockOn = true) (he : emergency s = false) :
    ∃ t, exec (.powerAlertChange true) s = .next t ∧ EmgEntered s t ∧ t.flag pgPOWER POWER_EMG_STAT_ALERT = true := by
  have halert : (s.put pgPOWER POWER_EMG_STAT_ALERT (b2n true)).flag pgPOWER POWER_EMG_STAT_ALERT = true :=
    State.flag_put_self _ _ _ true (by decide) rfl
  obtain ⟨hactive, hcount, hbudget, hlc, hpool, hirq⟩ := emgUpdate_enters (s.put pgPOWER POWER_EMG_STAT_ALERT (b2n true))
    (by unfold emgCause; rw [halert]; rfl) ((State.flag_congr (alert_get _ _ _ (by decide))).trans he)
  rw [alert_get _ _ _ (by decide)] at hcount hbudget hpool
  exact ⟨_, exec_powerAlertChange s true hclk, ⟨hactive, hcount, hbudget, hlc, hpool, hirq⟩,
    (State.flag_congr (emgUpdate_get _ _ (by decide) (by decide) (by decide) (.inr (by decide)))).trans halert⟩
/-- FORCE written 1 by a master that may is shown in EMG_STAT. -/
def State.emgForced (s : State) : State := (s.put pgPOWER POWER_EMG_CTL_FORCE 1).put pgPOWER POWER_EMG_STAT_FORCED 1
theorem exec_emgForceWrite (s : State) (m : Master) (hm : mayWrite s m pgPOWER POWER_EMG_CTL true = true) :
    exec (.emgForceWrite m true) s = .next s.emgForced.emgUpdate := by
  show execEmgForceWrite m true s = _
  unfold execEmgForceWrite
  rw [State.gate_open _ _ _ _ _ _ hm]
  rfl
/-- FORCE is a cause of EMERGENCY. -/
theorem emgForce_enters (s : State) (m : Master) (hm : mayWrite s m pgPOWER POWER_EMG_CTL true = true) :
    ∃ t, exec (.emgForceWrite m true) s = .next t ∧ emergency t = true ∧ t.flag pgPOWER POWER_EMG_STAT_FORCED = true := by
  have hforced : s.emgForced.flag pgPOWER POWER_EMG_STAT_FORCED = true := State.flag_put_self _ _ _ true (by decide) rfl
  refine ⟨_, exec_emgForceWrite s m hm, emgUpdate_active _ ?_,
    (State.flag_congr (emgUpdate_get _ _ (by decide) (by decide) (by decide) (.inr (by decide)))).trans hforced⟩
  unfold emgCause
  rw [hforced, Bool.or_true]
/-- The end of POWER_ALERT, the last cause, starts the 10 ms of clearing. -/
theorem powerAlert_clears (s : State) (hclk : s.clockOn = true) (he : emergency s = true)
    (hot : s.flag pgPOWER POWER_EMG_STAT_OT = false) (hforced : s.flag pgPOWER POWER_EMG_STAT_FORCED = false)
    (hclear : s.flag pgPOWER POWER_EMG_STAT_CLEARING = false) :
    ∃ t, exec (.powerAlertChange false) s = .next t ∧ emergency t = true ∧ t.flag pgPOWER POWER_EMG_STAT_CLEARING = true ∧
      t.energyAcc.clearAt = s.now + tenMs := by
  have hnone : emgCause (s.put pgPOWER POWER_EMG_STAT_ALERT (b2n false)) = false := by
    unfold emgCause
    rw [State.flag_put_self _ _ _ false (by decide) rfl, State.flag_congr (alert_get _ _ _ (by decide)), hot,
      State.flag_congr (alert_get _ _ _ (by decide)), hforced]
    rfl
  have hactive : emergency (s.put pgPOWER POWER_EMG_STAT_ALERT (b2n false)) = true :=
    (State.flag_congr (alert_get _ _ _ (by decide))).trans he
  refine ⟨_, exec_powerAlertChange s false hclk, ?_⟩
  rw [emgUpdate_clears _ hnone hactive ((State.flag_congr (alert_get _ _ _ (by decide))).trans hclear)]
  refine ⟨(nrg_flag ..).trans ?_, (nrg_flag ..).trans (State.flag_put_self _ _ _ true (by decide) rfl), rfl⟩
  exact (emergency_putStat _ _ _ (by decide) (by decide)).trans hactive
/-- The clearing over, EMERGENCY ends. -/
theorem emergency_ends (s : State) (he : emergency s = true) (hclear : s.flag pgPOWER POWER_EMG_STAT_CLEARING = true)
    (hnow : s.energyAcc.clearAt ≤ s.now) :
    ∃ t, exec .emergencyExit s = .next t ∧ emergency t = false ∧ t.flag pgPOWER POWER_EMG_STAT_CLEARING = false ∧
      t.energyAcc.fellAt = s.now ∧ (t.rd (pgPOWER + HDR_IRQ_STAT)).toNat.testBit 1 = true := by
  refine ⟨(((s.put pgPOWER POWER_EMG_STAT_ACTIVE 0).put pgPOWER POWER_EMG_STAT_CLEARING 0).nrg fun e => { e with fellAt := s.now }).irq
    pgPOWER 1, ?_, ?_, ?_, ?_, State.irq_sets _ _ _ (by decide) (by decide)⟩
  · show execEmergencyExit s = _
    unfold execEmergencyExit
    rw [he, hclear, if_neg (by simp only [Bool.not_true, Bool.false_eq_true, false_or]; omega)]
    rfl
  · refine (State.flag_congr (powerIrq_get _ _ _ (by decide))).trans ((nrg_flag ..).trans ?_)
    exact (emergency_putStat _ _ _ (by decide) (by decide)).trans (State.flag_put_self _ _ _ false (by decide) rfl)
  · rw [State.flag_congr (powerIrq_get _ _ _ (by decide)), nrg_flag]
    exact State.flag_put_self _ _ _ false (by decide) rfl
  · exact congrArg EnergySt.fellAt (State.irq_energyAcc ..)

/-! ### The governor's window (R494; log entry 8) -/

/-- A window that may begin counts from none. -/
theorem governorWindow_begins (s : State) (h : s.hub.govWin < (10 * s.now + 9) / 16) : exec .governorWindow s =
    .next { s with hub := { s.hub with govStarts := 0, govWin := max (s.hub.govWin + 1) (10 * s.now / 16) } } :=
  if_neg (Nat.not_le.mpr h)

/-- Settles O43, clause by clause. -/
theorem heatAndEmergency : Obligations.HeatAndEmergency := by
  refine ⟨fun s q pace hq hon hp => ?_, paceReport_host, thermalReport_shows,
    fun s q temp hq hon _ hot hc => thermalReport_emergency s q temp hq hon hot hc, fun s hclk he => ?_, emgForce_enters,
    powerAlert_clears, emergency_ends, governorWindow_begins⟩
  · obtain ⟨t, hexec, hpace, hperi, hsector, hattained⟩ := paceReport_sector s q pace hq hon hp
    exact ⟨t, hexec, hpace, hperi, hsector, hattained⟩
  · obtain ⟨t, hexec, ⟨hactive, hcount, hbudget, hlc, hpool, hirq⟩, halert⟩ := powerAlert_enters s hclk he
    exact ⟨t, hexec, hactive, halert, hcount, hbudget, hlc, hpool, hirq⟩

end Sys2Proof.Machine

/-! PROOFS. Where a frame lies (spec/02_storage_array.md R46, R49). The four rim bits are the frame index's own low bits, exclusive or a
fold of its slot alone; so the map between frame indices and linear frame numbers keeps the slot and is its own inverse, and a frame's
rim and slot are the two parts of its linear frame number. -/
namespace Sys2Proof.Machine

/-! ### The fold and the linear frame number -/

theorem foldFrame_lt (f : Nat) : foldFrame f < 16 := Nat.mod_lt _ (by decide)
/-- The fold, one nibble at a time (R46). -/
theorem foldFrame_nibbles (f : Nat) :
    foldFrame f = f % 16 ^^^ (f >>> 4) % 16 ^^^ (f >>> 8) % 16 ^^^ (f >>> 12) % 16 := by
  simp only [foldFrame, show 16 = 2 ^ 4 from rfl, Nat.xor_mod_two_pow]
/-- The fold is the low nibble, exclusive or what the bits above it fold to alone. -/
theorem foldFrame_low_nibble (f : Nat) : foldFrame f = f % 16 ^^^ foldFrame (f / 16 * 16) := by
  have above (k : Nat) : (f / 16 * 16) >>> (4 + k) = f >>> (4 + k) := by
    rw [Nat.shiftRight_add, Nat.shiftRight_add, Nat.shiftRight_eq_div_pow _ 4, Nat.shiftRight_eq_div_pow _ 4,
      Nat.mul_div_cancel _ (by decide)]
  rw [foldFrame_nibbles f, foldFrame_nibbles (f / 16 * 16), above 0, above 4, above 8, Nat.mul_mod_left, Nat.zero_xor,
    Nat.xor_assoc, Nat.xor_assoc, Nat.xor_assoc]
theorem linearFrame_div (p : Nat) : linearFrame p / 16 = p / 16 := by
  have := foldFrame_lt p
  unfold linearFrame; omega
theorem linearFrame_mod (p : Nat) : linearFrame p % 16 = foldFrame p := by
  have := foldFrame_lt p
  unfold linearFrame; omega
/-- The fold undoes itself: both sides fold the same slot, which cancels. -/
theorem foldFrame_linearFrame (p : Nat) : foldFrame (linearFrame p) = p % 16 := by
  rw [foldFrame_low_nibble, linearFrame_mod, linearFrame_div, foldFrame_low_nibble p, Nat.xor_assoc, Nat.xor_self, Nat.xor_zero]
/-- The map of R49 is its own inverse. -/
theorem linearFrame_linearFrame (p : Nat) : linearFrame (linearFrame p) = p := by
  rw [linearFrame, linearFrame_div, foldFrame_linearFrame, Nat.div_add_mod']

/-! ### Rim and slot (R46) -/

theorem rimOfFrame_of_lt (f : Nat) (h : f < 16384) : rimOfFrame f = foldFrame f := by
  unfold rimOfFrame; rw [Nat.mod_eq_of_lt h]
theorem slotOfFrame_of_lt (f : Nat) (h : f < 16384) : slotOfFrame f = f / 16 := by
  unfold slotOfFrame bits
  rw [Nat.shiftRight_eq_div_pow]; omega
/-- The frame at a frame's rim and slot is that frame. -/
theorem frameAt_rim_slot (f : Nat) (h : f < 16384) : frameAt (rimOfFrame f) (slotOfFrame f) = f := by
  rw [rimOfFrame_of_lt f h, slotOfFrame_of_lt f h]
  exact linearFrame_linearFrame f
theorem frameAt_lt (rim slot : Nat) (hr : rim < 16) (hs : slot < 1024) : frameAt rim slot < 16384 := by
  have := linearFrame_div (slot * 16 + rim)
  unfold frameAt; omega
theorem rimOfFrame_frameAt (rim slot : Nat) (hr : rim < 16) (hs : slot < 1024) : rimOfFrame (frameAt rim slot) = rim := by
  rw [rimOfFrame_of_lt _ (frameAt_lt rim slot hr hs), frameAt, foldFrame_linearFrame]; omega
theorem slotOfFrame_frameAt (rim slot : Nat) (hr : rim < 16) (hs : slot < 1024) : slotOfFrame (frameAt rim slot) = slot := by
  rw [slotOfFrame_of_lt _ (frameAt_lt rim slot hr hs), frameAt, linearFrame_div]; omega
/-- The rim of a 14-bit frame index, in the bit fields that R46 writes. -/
theorem rimOfFrame_fields (f : BitVec 14) : rimOfFrame f.toNat =
    (f.extractLsb' 0 4 ^^^ f.extractLsb' 4 4 ^^^ f.extractLsb' 8 4 ^^^ (f.extractLsb' 12 2).zeroExtend 4).toNat := by
  have top : f.toNat >>> 12 < 2 ^ 2 := by rw [Nat.shiftRight_eq_div_pow]; omega
  rw [rimOfFrame_of_lt _ f.isLt, foldFrame_nibbles]
  simp only [BitVec.toNat_xor, BitVec.extractLsb'_toNat, BitVec.zeroExtend_eq_setWidth, BitVec.toNat_setWidth, Nat.shiftRight_zero,
    Nat.mod_eq_of_lt top]
theorem slotOfFrame_field (f : BitVec 14) : slotOfFrame f.toNat = (f.extractLsb' 4 10).toNat := (BitVec.extractLsb'_toNat ..).symm

/-- Settles O32: the bit fields of R46, and the inverse in either direction from `linearFrame_linearFrame`. -/
theorem frameLies : Obligations.FrameLies :=
  ⟨fun f => ⟨rimOfFrame_fields f, slotOfFrame_field f, frameAt_rim_slot _ f.isLt⟩, fun _ => rfl,
    fun rim slot hr hs => ⟨rimOfFrame_frameAt rim slot hr hs, slotOfFrame_frameAt rim slot hr hs⟩⟩

end Sys2Proof.Machine

/-! PROOFS. The end of an INSTALL (spec/03_handles.md R66, R68, R92). What its clear and its wakes write lies on the INTEG page and above,
with the RIM pages; so the handle's word in HANDLE_STATE is changed by the INSTALL's own last stage alone. -/
namespace Sys2Proof.Machine

/-! ### The registers below the INTEG page -/

/-- The RIM pages lie above the INTEG page. -/
theorem integ_lt_rimBase (n p : Nat) : pgINTEG < rimBase n p := by
  simp only [pgINTEG, rimBase, layerBase]; omega
theorem ne_rimBase_add {o : Nat} (n p k : Nat) (h : o < pgINTEG) : o ≠ rimBase n p + k := by
  have := integ_lt_rimBase n p
  omega
theorem oneAcc_rd (s : State) (n p : Nat) (tids : List Nat) (w : Option Nat) (o : Nat) (h : o < pgINTEG) :
    (s.oneAcc n p tids w).rd o = s.rd o := by
  unfold State.oneAcc
  dsimp only
  rw [State.each_of (fun s => s.rd o) _ (fun _ _ => State.tidCnt_rd ..), State.energy_rd, State.hubf_rd,
    State.bump_rd _ _ (ne_rimBase_add _ _ _ h)]
theorem countAcc_rd (s : State) (n i : Nat) (tids writers : List Nat) (w : Option Nat) (o : Nat) (h : o < pgINTEG) :
    (s.countAcc n i tids writers w).rd o = s.rd o := by
  unfold State.countAcc State.cond
  split
  · dsimp only
    split
    · split
      · rw [oneAcc_rd _ _ _ _ _ _ h, oneAcc_rd _ _ _ _ _ _ h]
      · exact oneAcc_rd _ _ _ _ _ _ h
    · exact oneAcc_rd _ _ _ _ _ _ h
  · rfl
theorem settleAcc_rd (s : State) (a : Access) (st o : Nat) : (s.settleAcc a st).rd o = s.rd o := by
  unfold State.settleAcc
  split <;> rfl
theorem writeHalf_rd (s : State) (n p o : Nat) (h : o < pgINTEG) : (s.writeHalf n p).rd o = s.rd o := by
  unfold State.writeHalf
  split
  · rfl
  · rename_i half _
    have hwrites : (s.each half.writes fun s w => writeSeg s n half.frame w.1 w.2.1 w.2.2).rd o = s.rd o :=
      State.each_of (fun s => s.rd o) _ (fun s w => writeSeg_rd _ _ _ _ _ _ _ h) _ _
    dsimp only
    split
    · exact (settleAcc_rd ..).trans hwrites
    · exact hwrites
/-- A reservation settled writes the array and counters of its rims. -/
theorem settle_rd (s : State) (n i o : Nat) (h : o < pgINTEG) : (s.settle n i).rd o = s.rd o := by
  unfold State.settle
  dsimp only
  split
  · rfl
  · rw [countAcc_rd _ _ _ _ _ _ _ h, writeHalf_rd _ _ _ _ h]
theorem clearFrames_rd (s : State) (hit : Nat → Nat → Nat → Bool) (o : Nat) (h : o < pgINTEG) : (s.clearFrames hit).rd o = s.rd o := by
  unfold State.clearFrames
  dsimp only
  rw [State.bumpSat_rd _ _ (by omega), State.arr_rd]
theorem clearHandle_rd (s : State) (d : Desc) (want : Nat → Nat → Bool) (o : Nat) (h : o < pgINTEG) :
    (s.clearHandle d want).rd o = s.rd o := by
  unfold State.clearHandle
  dsimp only
  rw [State.energy_rd, clearFrames_rd _ _ _ h, State.each_of (fun s => s.rd o) _ (fun _ _ => settle_rd _ _ _ _ h)]
/-- A wake asked for changes no register; a drain that ends changes its rim's. -/
theorem wakeRim_rd (s : State) (n i o : Nat) (h : o < pgINTEG) : (s.wakeRim n i).rd o = s.rd o := by
  unfold State.wakeRim
  dsimp only
  split
  · rfl
  · split
    · unfold State.endDrain State.setRimPower
      rw [State.rim_rd, State.rd_put_of_ne _ _ (ne_rimBase_add _ _ _ h)]
    · rw [askWake_eq]; rfl
theorem wakeUnpermitted_rd (s : State) (d : Desc) (o : Nat) (h : o < pgINTEG) : (s.wakeUnpermitted d).rd o = s.rd o :=
  State.each_of (fun s => s.rd o) _ (fun _ _ => wakeRim_rd _ _ _ _ h) _ _

/-! ### State and generation of a handle (R66, R68) -/

/-- The word of HANDLE_STATE that holds a handle's state and generation. -/
def hstateWord (h : Nat) : Nat := pgHSTATE + (HANDLE_STATE_HSTATE + 4 * h)
theorem hstateWord_lt (h : Nat) (hh : h < 512) : hstateWord h < pgINTEG := by
  simp only [hstateWord, pgHSTATE, HANDLE_STATE_HSTATE, pgINTEG]; omega
theorem handleState_of_rd {s t : State} {h : Nat} (e : t.rd (hstateWord h) = s.rd (hstateWord h)) : handleState t h = handleState s h :=
  congrArg HANDLE_STATE_HSTATE_STATE.of e
theorem handleGen_of_rd {s t : State} {h : Nat} (e : t.rd (hstateWord h) = s.rd (hstateWord h)) : handleGen t h = handleGen s h :=
  congrArg HANDLE_STATE_HSTATE_GEN.of e
/-- The end of a command writes HCMD_STAT and the CMD bit of its handle, which are none of a handle's state and generation. -/
theorem hcmdEnd_get (s : State) (h r k : Nat) (f : Fld) (hf : f.hi < 16) : (s.hcmdEnd h r).get pgHSTATE (f.at 4 k) = s.get pgHSTATE (f.at 4 k) := by
  have hstat (u : State) (g : Fld) (hg : g.fits) (ho : g.off < 0x1000) (v : Nat) :
      (u.put pgHCMD g v).get pgHSTATE (f.at 4 k) = u.get pgHSTATE (f.at 4 k) :=
    State.get_put_apart _ _ hg (.inl (by simp only [pgHCMD, pgHSTATE]; omega))
  have hbit (u : State) : (u.put pgHSTATE (HANDLE_STATE_HSTATE_CMD.at 4 h) 0).get pgHSTATE (f.at 4 k) = u.get pgHSTATE (f.at 4 k) :=
    State.get_put_apart _ _ (Fld.at_fits _ _ (by decide)) (.inr (.inl hf))
  have hframe (u : State) (c : Option HandleCmd) : ({ u with hcmd := c } : State).get pgHSTATE (f.at 4 k) = u.get pgHSTATE (f.at 4 k) := rfl
  unfold State.hcmdEnd
  dsimp only
  rw [hframe, hbit, hstat _ _ (by decide) (by decide), hstat _ _ (by decide) (by decide), hstat _ _ (by decide) (by decide)]
theorem hcmdEnd_handleState (s : State) (h r k : Nat) : handleState (s.hcmdEnd h r) k = handleState s k := hcmdEnd_get _ _ _ _ _ (by decide)
theorem hcmdEnd_handleGen (s : State) (h r k : Nat) : handleGen (s.hcmdEnd h r) k = handleGen s k := hcmdEnd_get _ _ _ _ _ (by decide)

/-- A handle becomes LIVE: its generation is one up, and its state is 1. -/
def State.raiseGen (s : State) (h : Nat) : State :=
  (s.bump pgHSTATE (HANDLE_STATE_HSTATE_GEN.at 4 h)).put pgHSTATE (HANDLE_STATE_HSTATE_STATE.at 4 h) 1
theorem raiseGen_handleState (s : State) (h : Nat) : handleState (s.raiseGen h) h = 1 :=
  State.get_put_self _ _ _ _ (Fld.at_fits _ _ (by decide))
theorem raiseGen_handleGen (s : State) (h : Nat) : handleGen (s.raiseGen h) h = (handleGen s h + 1) % 256 :=
  (State.get_put_page _ _ _ _ _ (Fld.at_fits _ _ (by decide)) (.inr (Fld.at_apart _ _ (by decide)))).trans
    (State.get_bump_self _ _ _ _ (Fld.at_fits _ _ (by decide)))

/-! ### The end of an INSTALL -/

/-- The state in which an INSTALL has cleared the frames that its handle is to have (R92). -/
def State.installCleared (s : State) (c : HandleCmd) (j : ClearJob) : State :=
  (s.clearHandle c.desc fun layer f => j.span.has layer f && (j.all || classOf j.old layer f != j.cls)).arr fun a => { a with clear := none }
/-- The handle made LIVE under the INSTALL's descriptor, and the rims woken that its policy no longer lets sleep. -/
def State.installLive (s : State) (c : HandleCmd) : State :=
  ({ s.raiseGen c.handle with handles := Sp.set (s.raiseGen c.handle).handles c.handle c.desc } : State).wakeUnpermitted c.desc
theorem exec_installDone (s : State) (c : HandleCmd) (j : ClearJob) (hc : s.hcmd = some c) (hj : s.array.clear = some j)
    (hop : c.op = 1) (hst : c.stage = 1) :
    exec .installDone s = .next (((s.installCleared c j).installLive c).hcmdEnd c.handle hrOK) := by
  show execInstallDone s = _
  unfold execInstallDone
  rw [hc, hj]
  dsimp only
  rw [if_neg (by rw [hop, hst]; decide)]
  rfl
theorem installCleared_rd (s : State) (c : HandleCmd) (j : ClearJob) (o : Nat) (h : o < pgINTEG) : (s.installCleared c j).rd o = s.rd o :=
  (State.arr_rd ..).trans (clearHandle_rd _ _ _ _ h)
theorem installLive_rd (s : State) (c : HandleCmd) (o : Nat) (h : o < pgINTEG) : (s.installLive c).rd o = (s.raiseGen c.handle).rd o :=
  wakeUnpermitted_rd _ _ _ h
/-- The handle is LIVE, one generation on from that before the INSTALL. -/
theorem installDone_raises (s : State) (c : HandleCmd) (j : ClearJob) (hc : s.hcmd = some c) (hj : s.array.clear = some j)
    (hop : c.op = 1) (hst : c.stage = 1) (hh : c.handle < 512) :
    ∃ t, exec .installDone s = .next t ∧ handleState t c.handle = 1 ∧ handleGen t c.handle = (handleGen s c.handle + 1) % 256 := by
  have hlt := hstateWord_lt _ hh
  refine ⟨_, exec_installDone s c j hc hj hop hst, ?_, ?_⟩
  · rw [hcmdEnd_handleState, handleState_of_rd (installLive_rd _ _ _ hlt), raiseGen_handleState]
  · rw [hcmdEnd_handleGen, handleGen_of_rd (installLive_rd _ _ _ hlt), raiseGen_handleGen,
      handleGen_of_rd (installCleared_rd s c j _ hlt)]

/-! ### Handles at reset -/

/-- The HANDLE_STATE page, and its only row: 512 words of a handle each. -/
def hstatePage : PageAt := ⟨.handleState, 0, pgHSTATE⟩
def hstateRow : RegRow := ⟨HANDLE_STATE_HSTATE, 512, 4, 1, 0, [⟨16, 16, .ro, 0⟩, ⟨15, 8, .ro, 0⟩, ⟨1, 0, .ro, 0⟩]⟩
/-- The pages listed before HANDLE_STATE end where it begins, or below. -/
theorem pages_below_hstate : ∀ p ∈ fixedPages.take 6, p.base + 0x1000 ≤ pgHSTATE := by decide
theorem pageAt_hstate (h : Nat) (hh : h < 512) : pageAt (hstateWord h) = some hstatePage := by
  have hlo : pgHSTATE ≤ hstateWord h := Nat.le_add_right ..
  have hhi : hstateWord h < pgHSTATE + 0x1000 := by simp only [hstateWord, pgHSTATE, HANDLE_STATE_HSTATE]; omega
  have hpg : pgHSTATE = 0x041000 := rfl
  unfold pageAt
  rw [if_neg (by omega), if_neg (by omega), List.find?_eq_some_iff_append]
  refine ⟨decide_eq_true ⟨hlo, hhi⟩, fixedPages.take 6, fixedPages.drop 7, rfl, fun p hp => ?_⟩
  have := pages_below_hstate p hp
  simp only [Bool.not_eq_true', decide_eq_false_iff_not]
  omega
theorem rowAt_hstate (h : Nat) (hh : h < 512) : rowAt .handleState (HANDLE_STATE_HSTATE + 4 * h) = some hstateRow := by
  have hholds : hstateRow.holds (HANDLE_STATE_HSTATE + 4 * h) = true := by
    simp [RegRow.holds, hstateRow, hh]
  unfold rowAt
  rw [if_neg (by simp only [HANDLE_STATE_HSTATE]; omega)]
  show List.find? _ [hstateRow] = _
  simp [hholds]
theorem resetWord_hstate (d : Dev) (h : Nat) (hh : h < 512) : resetWord d (hstateWord h) = 0 := by
  have hoff : hstateWord h - hstatePage.base = HANDLE_STATE_HSTATE + 4 * h := Nat.add_sub_cancel_left ..
  unfold resetWord
  rw [pageAt_hstate h hh]
  dsimp only
  rw [hoff, show resetSpecial d hstatePage _ = none from rfl, show hstatePage.page = .handleState from rfl, rowAt_hstate h hh]
  split <;> rfl
theorem handle_reset (h : Nat) (hh : h < 512) : handleState State.reset h = 0 ∧ handleGen State.reset h = 0 := by
  have hword : State.reset.rd (hstateWord h) = 0 := resetWord_hstate _ h hh
  exact ⟨congrArg HANDLE_STATE_HSTATE_STATE.of hword, congrArg HANDLE_STATE_HSTATE_GEN.of hword⟩

/-- Settles O11: the INSTALL's last stage raises the generation once (`installDone_raises`), 255 wraps to 0, and at reset every word of
HANDLE_STATE is 0. -/
theorem installGeneration : Obligations.InstallGeneration := by
  refine ⟨fun s c j hc hj hop hst hh => ?_, fun h _ hh => handle_reset h hh⟩
  obtain ⟨t, hexec, hlive, hgen⟩ := installDone_raises s c j hc hj hop hst hh
  exact ⟨t, hexec, hlive, hgen, fun hmax => by rw [hgen, hmax]⟩

end Sys2Proof.Machine

/-! PROOFS. The drain limit of a rim (spec/16_power_and_energy.md R477). A drain that DRAIN_LIM ends first settles the reservation of the
physical rim that serves the logical rim, and then fails what stands in the queue. The fourth clause of O41 excludes a reservation at the
physical rim of the same number only, which is another rim while the spare serves; and it speaks of every state, so also of one in which
the reservation there has the number of an access that still stands in the queue. -/
namespace Sys2Proof.Machine

/-- A draining rim as DRAIN_LIM ends it: reservation settled, queue failed with DISABLED, steps dropped, transition started. -/
def State.drainForced (s : State) (layer p : Nat) : State :=
  let u := s.settle layer p
  let u := (u.each (rimQueue u layer p) fun u a => u.failAccess a stDISABLED).dropSteps layer p
  (u.put (rimBase layer p) RIM_PWR_STAT_FORCED 1).drained layer p
theorem exec_drainLimitExpiry (s : State) (layer p : Nat) (hd : draining s layer p = true)
    (ht : (rimOf s layer p).startedAt + 100 * s.get pgPOWER POWER_DRAIN_LIM_US ≤ s.now) :
    exec (.drainLimitExpiry layer p) s = .next (s.drainForced layer p) := by
  show execDrainLimitExpiry layer p s = _
  unfold execDrainLimitExpiry
  rw [if_neg (by rw [hd]; simpa using ht)]
  rfl

/-- A write of mover channel 0 that stands in the queue of rim 0 of layer 0, with number 0. -/
def queuedWrite : Access :=
  { seq := 0, src := .mover 0 0, op := .write, line := false, layer := 0, frame := 0, segs := [⟨0, 0, 0, fullMask⟩], tid := 0, step := 0,
    obs := 0, wide := 4, stream := none, born := 0, bornD := 0, policy := 4, loc := .rim, status := stOK, pmask := 0, pk := 0,
    source := 0, mcast := 0 }
/-- A reservation of the spare with the same number, as `directWrite` leaves one where nothing was claimed. -/
def spareHalf : RmwHalf := ⟨0, 0, [], [], 0, .inplace 0⟩
/-- Logical rim 0 of layer 0 served by the spare, its physical rim draining since time 0 and past DRAIN_LIM. -/
def servedBySpare : State :=
  let s : State := { State.reset with now := 10 ^ 5 }
  let s := (s.put (layerBase 0) ⟨LAYER_RIM_MAP, 7, 0⟩ 16).setRimPower 0 0 1
  (s.setFlight [queuedWrite]).rim 0 16 fun r => { r with half := some spareHalf }

theorem servedBySpare_draining : draining servedBySpare 0 0 = true ∧ (rimOf servedBySpare 0 0).half = none ∧
    (rimOf servedBySpare 0 0).startedAt + 100 * servedBySpare.get pgPOWER POWER_DRAIN_LIM_US ≤ servedBySpare.now := by decide
theorem servedBySpare_queue : rimQueue servedBySpare 0 0 = [queuedWrite] := by decide
/-- The reservation, settled first, takes the write of its number to the merge as it is; the queue that is then failed is empty. -/
theorem servedBySpare_forced : ∃ b ∈ (servedBySpare.drainForced 0 0).hub.flight, b.seq = queuedWrite.seq ∧ b.status = stOK := by decide

/-- Refutes O41: in `servedBySpare` the write in the queue goes to the merge with the reservation of its number, and completes with OK, not
with DISABLED. -/
theorem not_rimPowerStates : ¬ Obligations.RimPowerStates := by
  rintro ⟨-, -, -, hlimit, -⟩
  obtain ⟨hdrain, hhalf, htime⟩ := servedBySpare_draining
  obtain ⟨t, hexec, -, -, hdisabled⟩ := hlimit servedBySpare 0 0 (by decide) hdrain hhalf htime
  rw [exec_drainLimitExpiry _ _ _ hdrain htime] at hexec
  cases hexec
  obtain ⟨b, hflight, hseq, hok⟩ := servedBySpare_forced
  rw [servedBySpare_queue] at hdisabled
  obtain ⟨-, hstatus⟩ := hdisabled _ (List.mem_singleton_self _) b hflight hseq
  rw [hok] at hstatus
  exact absurd hstatus (by decide)

end Sys2Proof.Machine

/-! PROOFS. The start of an operation record (spec/08_inplace_work.md R236 to R261). A grant at a rim changes no operation queue, so while
a record's first step runs its queue keeps the record as it was sent; a record of one line then has nothing more to send. -/
namespace Sys2Proof.Machine

/-! ### A grant at a rim keeps the operation queues -/

@[simp] theorem occDown_stem (s : State) (t : Nat) : (s.occDown t).stem = s.stem := by
  unfold State.occDown
  rw [State.cond_stem]
  exact ite_self _
theorem rmwRead_go_stem (a : Access) (p : Nat) : ∀ (l : List SegOp) (s : State) (k pm : Nat), (rmwRead.go a p s k pm l).2.2.2.stem = s.stem
  | [], _, _, _ => rfl
  | x :: xs, s, k, pm => by
    unfold rmwRead.go
    simp only [apply_ite Prod.snd, apply_ite State.stem]
    rw [rmwRead_go_stem a p xs, rmwRead_go_stem a p xs, writeMasked_stem, State.cond_stem, State.queueWb_stem, ite_self, countCheck_stem,
      readSeg_stem, ite_self]
@[simp] theorem rmwRead_stem (s : State) (a : Access) : (rmwRead s a).stem = s.stem := by
  unfold rmwRead
  dsimp only
  rw [State.upd_stem, State.bump_stem, State.rim_stem, rmwRead_go_stem, State.observed_stem]
@[simp] theorem performAt_stem (s : State) (arb : Nat) (a : Access) : (performAt s arb a).stem = s.stem := by
  unfold performAt
  extract_lets s1 a kind s2 old w s3 s4 s5
  have h2 : s2.stem = s.stem := by rw [State.upd_stem, State.countGrant_stem]
  have h3 : s3.stem = s2.stem := by
    unfold s3
    split
    · exact rmwRead_stem ..
    · split
      · exact readSegs_stem ..
      · rw [State.upd_stem, State.observed_stem, State.each_stem _ (fun s x => writeMasked_stem ..)]
      · rfl
  have h4 : s4.stem = s3.stem := by rw [State.cond_stem, State.noteWrite_stem, ite_self]
  have h5 : s5.stem = s.stem := by rw [occDown_stem, h4, h3, h2]
  split
  · exact h5
  · dsimp only
    split
    · rw [State.cond_stem, State.settleAcc_stem, ite_self, h5]
    · rw [State.poisonAcc_stem, State.cond_stem, State.settleAcc_stem, ite_self, h5]
@[simp] theorem copySeg_stem (s : State) (n : Nat) (j : CopyJob) (a : Access) (x : SegOp) : (s.copySeg n j a x).stem = s.stem := by
  unfold State.copySeg
  dsimp only
  rw [State.arr_stem, State.cond_stem, State.setWord, State.arr_stem, ite_self, State.cond_stem, State.poison_stem, ite_self,
    countCheck_stem, readSeg_stem]
@[simp] theorem copyLost_stem (s : State) (n : Nat) (j : CopyJob) : (s.copyLost n j).stem = s.stem := by
  unfold State.copyLost
  dsimp only
  rw [State.cond_stem, State.arr_stem, ite_self]
/-- The next line of a copy is queued with the copies of INTEG. -/
@[simp] theorem copyQueue_raq (s : State) (n : Nat) (j : CopyJob) : (s.copyQueue n j).raq = s.raq := by
  unfold State.copyQueue
  dsimp only
  rw [State.cond_raq, State.charge, State.tidCnt_raq, State.bumpSat_raq]
  exact ite_self _
@[simp] theorem copyRow_raq (s : State) (arb n : Nat) (j : CopyJob) : (s.copyRow arb n j).raq = s.raq := by
  unfold State.copyRow
  dsimp only
  rw [copyQueue_raq]
  refine raq_of_stem ?_
  rw [State.cond_stem, State.put_stem, ite_self, State.rim_stem, State.each_stem _ (fun s _ => State.latency_stem ..), State.oneAcc_stem,
    State.countGrant_stem, copyLost_stem, State.each_stem _ (fun s x => copySeg_stem ..), State.observed_stem]
@[simp] theorem doWriteback_stem (s : State) (a : Access) (id : Nat) : (s.doWriteback a id).stem = s.stem := by
  unfold State.doWriteback
  dsimp only
  rw [State.bumpSat_stem, State.latency_stem, State.each_stem _ (fun s w => stem_of_bare (storeWord_bare ..)), State.arr_stem]
@[simp] theorem setClaim_stem (s : State) (seq : Nat) (f : Access → Access) : (s.setClaim seq f).stem = s.stem := rfl
@[simp] theorem grantAt_raq (s : State) (arb : Nat) (a : Access) : (s.grantAt arb a).raq = s.raq := by
  unfold State.grantAt
  dsimp only
  split
  · exact raq_of_stem (by rw [State.countGrant_stem, setClaim_stem])
  · exact raq_of_stem (by rw [directWrite_stem, State.countGrant_stem, setClaim_stem])
  · exact raq_of_stem (by rw [doWriteback_stem, State.countGrant_stem])
  · split
    · rw [copyRow_raq, raq_of_stem (State.countGrant_stem ..)]
    · rfl
  · exact raq_of_stem (performAt_stem ..)
@[simp] theorem countDispl_stem (s : State) (arb : Nat) (c : List Access → List Access) (l g : List Access) : (s.countDispl arb c l g).stem = s.stem := by
  unfold State.countDispl
  refine State.each_stem _ (fun s a => ?_) _ _
  split <;> rfl
@[simp] theorem rimArb_raq (s : State) (n i : Nat) : (rimArb s n i).raq = s.raq := by
  unfold rimArb
  dsimp only
  split
  · rfl
  · rw [raq_of_stem (State.countAcc_stem ..), State.cond_raq, State.bump_raq, ite_self, State.cond_raq, State.bump_raq, ite_self,
      State.rim_raq, State.each_of State.raq _ (fun s a => grantAt_raq ..), State.hubf_raq, raq_of_stem (countDispl_stem ..),
      raq_of_stem (State.writeHalf_stem ..)]

/-! ### An access that a unit performs where it stands keeps the operation queues -/

@[simp] theorem dropClaim_raq (s : State) (seq : Nat) : (s.dropClaim seq).raq = s.raq := rfl
@[simp] theorem tryNew_stem (s : State) (tid n f pol : Nat) : (s.tryNew tid n f pol).2.stem = s.stem := by
  have h := State.tryRim_stem s tid n f pol
  unfold State.tryNew
  dsimp only
  split
  · rename_i e; rw [e] at h; exact h
  · exact h
@[simp] theorem askRim_raq (s : State) (a : Access) : (s.askRim a).2.raq = s.raq := by
  have h := raq_of_stem (State.tryRim_stem s a.tid a.layer a.frame a.policy)
  unfold State.askRim
  split
  · rename_i e; rw [e] at h; exact h
  · rename_i e; rw [e] at h; exact h
  · rename_i u e
    rw [e] at h
    split
    · exact h
    · split
      · exact h
      · split
        · exact (rimArb_raq ..).trans h
        · rw [State.cond_raq, State.bump_raq, ite_self]; exact h
@[simp] theorem tryAcc_raq (s : State) (a : Access) : (s.tryAcc a).2.raq = s.raq := by
  have h := raq_of_stem (tryNew_stem s a.tid a.layer a.frame a.policy)
  unfold State.tryAcc
  split
  · split
    · exact dropClaim_raq ..
    · exact askRim_raq ..
  · split
    · rename_i e; rw [e] at h; exact h
    · rename_i e; rw [e] at h; exact h
    · rename_i u e
      rw [e] at h
      split
      · exact h
      · exact (askRim_raq ..).trans h
/-- Work that goes on at once leaves the state as it is. -/
theorem tryRim_go {s u : State} {tid n f pol : Nat} (h : s.tryRim tid n f pol = (.go, u)) : u = s := by
  unfold State.tryRim at h
  dsimp only at h
  split at h
  · cases h
  · split at h
    · cases h
    · split at h
      · cases h
      · split at h
        · cases h
        · cases h; rfl
theorem tryNew_go {s : State} {tid n f pol : Nat} (h : (s.tryNew tid n f pol).1 = .go) : s.tryNew tid n f pol = (.go, s) := by
  refine Prod.ext h ?_
  unfold State.tryNew at h ⊢
  dsimp only at h ⊢
  split at h
  · rename_i u hu
    exact tryRim_go hu
  · rename_i hne
    exact (hne _ (Prod.ext h rfl)).elim

/-! ### The start of a record (R236, R240, R259) -/

@[simp] theorem headRec_array (s : State) (q : Nat) (f : RaRec → RaRec) : (s.headRec q f).array = s.array := rfl
@[simp] theorem endChunk_array (s : State) (o : Nat) : (s.endChunk o).array = s.array := (congrArg State.array (State.endChunk_sansE s o) :)
@[simp] theorem askChunk_array (s : State) (o tid n est : Nat) : (s.askChunk o tid n est).2.array = s.array :=
  (congrArg State.array (State.askChunk_sansE s o tid n est) :)
@[simp] theorem nextChunk_array (s : State) (q : Nat) : (s.nextChunk q).array = s.array := by
  unfold State.nextChunk
  split
  · rfl
  · dsimp only
    rw [State.cond_array, State.bumpSat_array, ite_self, askChunk_array, headRec_array, endChunk_array]
@[simp] theorem recordBegun_array (s : State) (q : Nat) : (recordBegun s q).array = s.array := nextChunk_array ..
theorem raHead_of_raq {s t : State} (h : t.raq = s.raq) (q : Nat) : raHead t q = raHead s q := by
  unfold raHead raqOf; rw [h]
theorem raHead_beginRec (s : State) (q : Nat) : raHead (s.beginRec q) q = (raHead s q).map (begun s) := raHead_headRec s q (begun s)
theorem raHead_recordBegun {s : State} {q : Nat} {r : RaRec} (h : raHead s q = some r) :
    raHead (recordBegun s q) q = some { begun s r with upTo := r.next + min 4096 (r.steps - r.next) } := by
  unfold recordBegun
  rw [raHead_nextChunk, raHead_beginRec, h]
  rfl
/-- The bookkeeping of a record refused is that of R100, in HANDLE_GUARD. -/
theorem reject_frame (s : State) (a h g st : Nat) : (s.reject a h g st).raq = s.raq ∧ (s.reject a h g st).array = s.array := by
  unfold State.reject
  split <;> exact ⟨rfl, rfl⟩
theorem rejectRec_frame (s : State) (r : RaRec) : (s.rejectRec r).raq = s.raq ∧ (s.rejectRec r).array = s.array := by
  unfold State.rejectRec
  split
  · rename_i o st _
    obtain ⟨hraq, harray⟩ := reject_frame s r.source o.handle o.gen st
    rw [State.cond_raq, State.cond_array, hraq, harray, ite_self, ite_self]
    exact ⟨rfl, rfl⟩
  · exact ⟨rfl, rfl⟩
/-- The command of a kind starts the record at the head of its queue. -/
theorem exec_record {k : Nat} {c : Nat → Instr} (hk : (k, c) ∈ recordKinds) (s : State) (q : Nat) (hq : q < 4) :
    exec (c q) s = .next (startRecord q k s) := by
  have hmod : q % 4 = q := Nat.mod_eq_of_lt hq
  simp only [recordKinds, List.mem_cons, Prod.mk.injEq, List.not_mem_nil, or_false] at hk
  rcases hk with ⟨rfl, rfl⟩ | ⟨rfl, rfl⟩ | ⟨rfl, rfl⟩ | ⟨rfl, rfl⟩ | ⟨rfl, rfl⟩ <;>
    exact congrArg (fun q => (.next (startRecord q _ s) : Res)) hmod
/-- A record that can start is checked; it stops, has nothing to do, or runs its first chunk. -/
theorem startRecord_cases {s : State} {q k : Nat} {r : RaRec} (h : canStart s q k r) : startRecord q k s =
    if recordCheck s r ≠ 0 then ((s.beginRec q).rejectRec r).headRec q fun r' => { r' with stop := true, status := recordCheck s r }
    else if r.kind = 0 then (s.beginRec q).headRec q fun r' => { r' with next := r'.steps, upTo := r'.steps }
    else (recordBegun s q).runChunk q := by
  obtain ⟨-, hhead, hstarted, hstate, hroom, hkind⟩ := h
  unfold startRecord
  rw [hhead]
  dsimp only
  rw [if_neg (by rw [hstarted, hstate, hkind]; simpa using hroom)]
  rfl
theorem canStart.queue_lt {s : State} {q k : Nat} {r : RaRec} (h : canStart s q k r) : q < 4 := by
  obtain ⟨hq, -⟩ := h
  exact hq
theorem canStart.head {s : State} {q k : Nat} {r : RaRec} (h : canStart s q k r) : raHead s q = some r := by
  obtain ⟨-, hhead, -⟩ := h
  exact hhead
theorem canStart.kind_eq {s : State} {q k : Nat} {r : RaRec} (h : canStart s q k r) (hk : 1 ≤ k) : r.kind = k := by
  obtain ⟨-, -, -, -, -, hkind⟩ := h
  split at hkind
  · exact hkind
  · omega
/-- A failing check stops the record with its RESULT. -/
theorem record_fails {k : Nat} {c : Nat → Instr} (hk : (k, c) ∈ recordKinds) {s : State} {q : Nat} {r : RaRec} (h : canStart s q k r)
    (hc : recordCheck s r ≠ 0) :
    ∃ t, exec (c q) s = .next t ∧ t.array = s.array ∧ raHead t q = some { begun s r with stop := true, status := recordCheck s r } := by
  obtain ⟨hraq, harray⟩ := rejectRec_frame (s.beginRec q) r
  refine ⟨_, exec_record hk s q h.queue_lt, ?_⟩
  rw [startRecord_cases h, if_pos hc, headRec_array, harray, raHead_headRec, raHead_of_raq hraq, raHead_beginRec, h.head]
  exact ⟨rfl, rfl⟩
/-- A NOP has its steps behind it as it starts. -/
theorem record_nop {s : State} {q : Nat} {r : RaRec} (h : canStart s q 0 r) (hc : recordCheck s r = 0) (hkind : r.kind = 0) :
    ∃ t, exec (.oprecNop q) s = .next t ∧ t.array = s.array ∧ raHead t q = some { begun s r with next := r.steps, upTo := r.steps } := by
  refine ⟨_, exec_record (List.mem_cons_self ..) s q h.queue_lt, ?_⟩
  rw [startRecord_cases h, if_neg (fun h => h hc), if_pos hkind, headRec_array, raHead_headRec, raHead_beginRec, h.head]
  exact ⟨rfl, rfl⟩
/-- Any other record that passes its checks runs its first chunk. -/
theorem exec_record_runs {k : Nat} {c : Nat → Instr} (hk : (k, c) ∈ recordKinds) (hk1 : 1 ≤ k) {s : State} {q : Nat} {r : RaRec}
    (h : canStart s q k r) (hc : recordCheck s r = 0) : exec (c q) s = .next ((recordBegun s q).runChunk q) := by
  have hkind := h.kind_eq hk1
  rw [exec_record hk s q h.queue_lt, startRecord_cases h, if_neg (fun h => h hc), if_neg (by omega)]
/-- A chunk that is not admitted sends no step. -/
theorem runChunk_deferred {s : State} {q : Nat} (h : (chunkOf s (raOwner q)).any (·.adm) = false) : s.runChunk q = s := by
  unfold State.runChunk
  split
  · rfl
  · rw [h, Bool.and_false]
    rfl
theorem record_waits {k : Nat} {c : Nat → Instr} (hk : (k, c) ∈ recordKinds) (hk1 : 1 ≤ k) {s : State} {q : Nat} {r : RaRec}
    (h : canStart s q k r) (hc : recordCheck s r = 0) (hadm : firstAdmitted s q = false) :
    ∃ t, exec (c q) s = .next t ∧ t.array = s.array ∧
      raHead t q = some { begun s r with upTo := r.next + min 4096 (r.steps - r.next) } :=
  ⟨_, (exec_record_runs hk hk1 h hc).trans (congrArg _ (runChunk_deferred hadm)), recordBegun_array .., raHead_recordBegun h.head⟩

/-! ### Steps sent (R242) -/

/-- A record with its next steps sent, up to the 64 that may be in flight and to the end of its chunk. -/
def RaRec.sent (r : RaRec) : RaRec :=
  let n := if r.stop then 0 else min (64 - r.fly.length) (r.upTo - r.next)
  { r with fly := r.fly ++ (List.range n).map (r.next + ·), next := r.next + n }
theorem raHead_sendSteps {s : State} {q : Nat} {r : RaRec} (h : raHead s q = some r) : raHead (s.sendSteps q) q = some r.sent := by
  unfold State.sendSteps
  rw [h]
  dsimp only
  rw [raHead_headRec, h]
  rfl
@[simp] theorem sendSteps_array (s : State) (q : Nat) : (s.sendSteps q).array = s.array := by
  unfold State.sendSteps
  split <;> rfl
/-- A record with no step in flight that has sent its chunk sends nothing. -/
theorem RaRec.sent_fly_spent {r : RaRec} (hfly : r.fly = []) (hsent : r.upTo ≤ r.next) : r.sent.fly = [] := by
  unfold RaRec.sent
  simp [hfly, Nat.sub_eq_zero_of_le hsent]
/-- The first steps of a record as they are sent. -/
theorem raHead_recordSent {s : State} {q : Nat} {r : RaRec} (h : raHead s q = some r) (hstop : r.stop = false) (hfly : r.fly = [])
    (hnext : r.next = 0) :
    raHead (recordSent s q) q = some { begun s r with
      upTo := min 4096 r.steps, next := min 64 (min 4096 r.steps), fly := List.range (min 64 (min 4096 r.steps)) } := by
  unfold recordSent
  rw [raHead_sendSteps (raHead_recordBegun h)]
  simp [RaRec.sent, begun, hstop, hfly, hnext]
theorem runChunk_admitted {s : State} {q : Nat} {r : RaRec} (h : raHead s q = some r) (hadm : firstAdmitted s q = true) :
    (recordBegun s q).runChunk q = if r.kind = 4 then recordSent s q else (recordBegun s q).plainRun q 4097 := by
  unfold State.runChunk
  rw [raHead_recordBegun h]
  dsimp only
  rw [if_pos (by rw [Bool.and_eq_true]; exact ⟨rfl, hadm⟩)]
  rfl
theorem record_kernel {s : State} {q : Nat} {r : RaRec} (h : canStart s q 4 r) (hc : recordCheck s r = 0) (hadm : firstAdmitted s q = true)
    (hstop : r.stop = false) (hfly : r.fly = []) (hnext : r.next = 0) :
    ∃ t, exec (.oprecKernel q) s = .next t ∧ (raHead t q).map (·.fly) = some (List.range (min 64 (min 4096 r.steps))) := by
  refine ⟨_, exec_record_runs (k := 4) (by simp [recordKinds]) (by decide) h hc, ?_⟩
  rw [runChunk_admitted h.head hadm, if_pos (h.kind_eq (by decide)), raHead_recordSent h.head hstop hfly hnext]
  rfl

/-! ### A record of one line (R223, R224, R244) -/

/-- With no step in flight and none to send, the steps of a chunk leave the array. -/
theorem plainRun_spent {s : State} {q : Nat} {r : RaRec} (h : raHead s q = some r) (hfly : r.fly = []) (hsent : r.upTo ≤ r.next) (n : Nat) :
    (s.plainRun q n).array = s.array := by
  cases n with
  | zero => rfl
  | succ n =>
    unfold State.plainRun
    dsimp only
    rw [raHead_sendSteps h]
    dsimp only
    rw [RaRec.sent_fly_spent hfly hsent]
    exact sendSteps_array s q
/-- The only step in flight, which goes on. -/
theorem plainPass_one {s t : State} {q : Nat} {r : RaRec} (h : raHead s q = some r) (hfly : r.fly = [0]) (hstep : s.plainStep q r 0 = (true, t)) :
    s.plainPass q r [] r.fly = (true, t) := by
  rw [hfly]
  unfold State.plainPass
  dsimp only
  rw [if_neg (by simp [h, hfly]), hstep]
  rfl
/-- The step of one line done: the record has no step in flight. -/
theorem raHead_stepDone {s : State} {q : Nat} {r : RaRec} (h : raHead s q = some r) (hfly : r.fly = [0]) :
    raHead ((s.stepsDone 1).stepsOff q 0 1) q = some { r with fly := [], next := max r.next 1 } := by
  unfold State.stepsOff
  rw [raHead_headRec, raHead_of_stem (State.stepsDone_stem ..), h]
  simp [hfly]
/-- A record whose only step goes on, as `X` with the step done, leaves the array of `X`. -/
theorem plainRun_one {s X : State} {q : Nat} {r : RaRec} (h : raHead (s.sendSteps q) q = some r) (hfly : r.fly = [0]) (hsent : r.upTo ≤ 1)
    (hX : raHead X q = some r) (hstep : (s.sendSteps q).plainStep q r 0 = (true, (X.stepsDone 1).stepsOff q 0 1)) (n : Nat) :
    (s.plainRun q (n + 1)).array = X.array := by
  unfold State.plainRun
  dsimp only
  rw [h]
  dsimp only
  rw [plainPass_one h hfly hstep]
  exact plainRun_spent (raHead_stepDone hX hfly) rfl (Nat.le_trans hsent (Nat.le_max_right ..)) n

/-- The record at the head of a queue has one line to do, and its chunk is admitted as it starts. -/
def OneLine (s : State) (q k : Nat) (r : RaRec) : Prop :=
  canStart s q k r ∧ recordCheck s r = 0 ∧ firstAdmitted s q = true ∧ r.stop = false ∧ r.fly = [] ∧ r.steps = 1 ∧ r.next = 0
/-- Such a record as its step is sent. -/
theorem OneLine.sent {s : State} {q k : Nat} {r u : RaRec} (h : OneLine s q k r) (hk : 1 ≤ k) (hu : raHead (recordSent s q) q = some u) :
    u.kind = k ∧ u.steps = 1 ∧ u.fly = [0] ∧ u.upTo = 1 := by
  obtain ⟨hstart, -, -, hstop, hfly, hsteps, hnext⟩ := h
  rw [raHead_recordSent hstart.head hstop hfly hnext, hsteps] at hu
  cases hu
  exact ⟨hstart.kind_eq hk, hsteps, rfl, rfl⟩
/-- What its step leaves in the array is what the record leaves. -/
theorem OneLine.exec_array {k : Nat} {c : Nat → Instr} (hk : (k, c) ∈ recordKinds) (hk1 : 1 ≤ k) (hk4 : k ≠ 4) {s X : State} {q : Nat} {r u : RaRec}
    (h : OneLine s q k r) (hu : raHead (recordSent s q) q = some u) (hX : raHead X q = raHead (recordSent s q) q)
    (hstep : (recordSent s q).plainStep q u 0 = (true, (X.stepsDone 1).stepsOff q 0 1)) :
    ∃ t, exec (c q) s = .next t ∧ t.array = X.array := by
  obtain ⟨-, -, hfly, hupTo⟩ := h.sent hk1 hu
  obtain ⟨hstart, hc, hadm, -⟩ := h
  refine ⟨_, exec_record_runs hk hk1 hstart hc, ?_⟩
  rw [runChunk_admitted hstart.head hadm, if_neg (by rw [hstart.kind_eq hk1]; exact hk4)]
  exact plainRun_one hu hfly (Nat.le_of_eq hupTo) (hX.trans hu) hstep 4096

/-- The step of a ZERO of one line. -/
theorem plainStep_zero {s : State} {q : Nat} {r : RaRec} {d : LineAt} (hd : d = walkLine s r.opD 0) (hkind : r.kind = 1) (hsteps : r.steps = 1)
    (hgo : (s.tryNew r.tid d.layer d.frame (r.pol s r.opD.handle)).1 = .go) :
    s.plainStep q r 0 =
      (true, ((((s.settle d.layer d.rim).clearLine d).energy 1 1 r.tid (some (raOwner q))).stepsDone 1).stepsOff q 0 1) := by
  have hpart : wholeFrame r d 0 = false := by simp [wholeFrame, hsteps]
  unfold State.plainStep
  dsimp only
  rw [← hd, if_neg (by omega), if_pos hkind, tryNew_go hgo]
  dsimp only
  rw [if_pos hkind]
  unfold State.zeroStep
  rw [hpart]
  rfl
/-- The step of a FILL, its access granted at once. -/
theorem plainStep_fill {s v : State} {q : Nat} {r : RaRec} {d : LineAt} (hd : d = walkLine s r.opD 0) (hkind : r.kind = 2)
    (hgo : s.tryAcc (lineClaim s q 0 r d .write (r.pol s r.opD.handle)) = (.go, v)) :
    s.plainStep q r 0 = (true, ((v.raWrite r d r.fill).stepsDone 1).stepsOff q 0 1) := by
  unfold State.plainStep
  dsimp only
  rw [← hd, if_neg (by omega), if_neg (by omega), hgo]
  dsimp only
  rw [if_neg (by omega), if_pos hkind]
/-- The step of a COPY within a sector, its accesses granted at once and its line read well. -/
theorem plainStep_copy {s v w z : State} {q data : Nat} {r : RaRec} {d a : LineAt} (hd : d = walkLine s r.opD 0) (ha : a = walkLine s r.opA 0)
    (hkind : r.kind = 3) (hsector : a.sector = d.sector)
    (hgo : s.tryAcc (lineClaim s q 0 r d .write (r.pol s r.opD.handle)) = (.go, v))
    (hread : v.tryAcc (lineClaim v q 0 r a .read (r.pol v r.opA.handle)) = (.go, w)) (hdata : w.raRead r a = (stOK, data, z)) :
    s.plainStep q r 0 = (true, ((z.raWrite r d data).stepsDone 1).stepsOff q 0 1) := by
  unfold State.plainStep
  dsimp only
  rw [← hd, ← ha, if_neg (fun h => h.2 hsector), if_neg (by omega), hgo]
  dsimp only
  rw [if_neg (by omega), if_neg (by omega), hread]
  dsimp only
  unfold State.copyStep
  rw [hdata]
  rfl
theorem raHead_tryAcc {s v : State} {a : Access} {g : Go} (h : s.tryAcc a = (g, v)) (q : Nat) : raHead v q = raHead s q :=
  raHead_of_raq (by have := tryAcc_raq s a; rwa [h] at this) q
theorem raHead_raRead {s z : State} {r : RaRec} {l : LineAt} {st data : Nat} (h : s.raRead r l = (st, data, z)) (q : Nat) :
    raHead z q = raHead s q := raHead_of_stem (by have := State.raRead_stem s r l; rwa [h] at this) q

/-- Settles O13: the start of a record by what `startRecord_cases` says of it, and the records of one line by what their step leaves
(`OneLine.exec_array`). -/
theorem recordsStart : Obligations.RecordsStart := by
  refine ⟨fun k c hk s q r => record_fails hk, fun s q r => record_nop, fun k c hk hk1 s q r => record_waits hk hk1,
    fun s q r => record_kernel, ?zero, ?fill, ?copy⟩
  case zero =>
    intro s S q r u d hstart hc hadm hstop hfly hsteps hnext hS hu hd hgo
    subst hS
    have hone : OneLine s q 1 r := ⟨hstart, hc, hadm, hstop, hfly, hsteps, hnext⟩
    obtain ⟨hkind, hsteps, -⟩ := hone.sent (by decide) hu
    obtain ⟨t, hexec, harray⟩ := hone.exec_array (c := .oprecZero) (by simp [recordKinds]) (by decide) (by decide) hu
      (raHead_of_stem (by rw [State.energy_stem, State.clearLine_stem, State.settle_stem]) q) (plainStep_zero hd hkind hsteps hgo)
    exact ⟨t, hexec, harray.trans (State.energy_array ..)⟩
  case fill =>
    intro s S v q r u d hstart hc hadm hstop hfly hsteps hnext hS hu hd hgo
    subst hS
    have hone : OneLine s q 2 r := ⟨hstart, hc, hadm, hstop, hfly, hsteps, hnext⟩
    obtain ⟨hkind, -⟩ := hone.sent (by decide) hu
    exact hone.exec_array (by simp [recordKinds]) (by decide) (by decide) hu
      ((raHead_of_stem (State.raWrite_stem ..) q).trans (raHead_tryAcc hgo q)) (plainStep_fill hd hkind hgo)
  case copy =>
    intro s S v w z q data r u d a hstart hc hadm hstop hfly hsteps hnext hS hu hd hgo ha hsector hread hdata
    subst hS
    have hone : OneLine s q 3 r := ⟨hstart, hc, hadm, hstop, hfly, hsteps, hnext⟩
    obtain ⟨hkind, -⟩ := hone.sent (by decide) hu
    have hhead : raHead z q = raHead (recordSent s q) q :=
      (raHead_raRead hdata q).trans ((raHead_tryAcc hread q).trans (raHead_tryAcc hgo q))
    exact hone.exec_array (by simp [recordKinds]) (by decide) (by decide) hu
      ((raHead_of_stem (State.raWrite_stem ..) q).trans hhead) (plainStep_copy hd ha hkind hsector hgo hread hdata)

end Sys2Proof.Machine

/-! PROOFS. The control writes of a port (spec/05_port_protocol.md R161, R164, R169). Each is its own meaning once the gate is open, and the
fields of PCTL and PSTAT lie apart, so each field reads what was last written to it. -/
namespace Sys2Proof.Machine

/-! ### Fields of PCTL and PSTAT -/

/-- EN is no field of PSTAT. -/
theorem portState_putEn (s : State) (x v : Nat) : portState (s.put (portBase x) PORT_PCTL_EN v) x = portState s x :=
  State.get_put_page _ _ _ _ _ (by decide) (by decide)
/-- The state of a port reads back as it is put. -/
theorem portState_putState (s : State) (x : Nat) {v : Nat} (h : v < 8) : portState (s.put (portBase x) PORT_PSTAT_STATE v) x = v :=
  (State.get_put_self _ _ _ _ (by decide)).trans (Nat.mod_eq_of_lt h)
theorem enablePort_en (s : State) (x : Nat) : (s.enablePort x).get (portBase x) PORT_PCTL_EN = 1 := by
  unfold State.enablePort
  rw [State.get_put_page _ _ _ _ _ (by decide) (by decide), State.get_put_self _ _ _ _ (by decide)]
  rfl
theorem portState_port (s : State) (x y : Nat) (f : PortSt → PortSt) : portState (s.port y f) x = portState s x := rfl
/-- A port that is enabled is in LOOPBACK exactly where a depth is set. -/
theorem enablePort_portState (s : State) (x : Nat) :
    portState (s.enablePort x) x = if s.get (portBase x) PORT_PCTL_LOOP = 0 then 2 else 4 := by
  unfold State.enablePort
  dsimp only
  rw [State.get_put_page _ _ _ _ _ (by decide) (by decide), portState_putState _ _ (by split <;> decide)]
/-- The urgency in use is the lower of URG and its cap (R161). -/
theorem applyUrg_urg (s : State) (x : Nat) :
    (s.applyUrg x).get (portBase x) PORT_PSTAT_URG = min (portOf s x).urgIn (s.get (portBase x) PORT_PCTL_URG_CAP) := by
  have hcap : s.get (portBase x) PORT_PCTL_URG_CAP < 8 := State.get_lt s (portBase x) PORT_PCTL_URG_CAP
  exact (State.get_put_self _ _ _ _ (by decide)).trans (Nat.mod_eq_of_lt (Nat.lt_of_le_of_lt (Nat.min_le_right ..) hcap))
theorem applyUrg_cap (s : State) (x : Nat) :
    (s.applyUrg x).get (portBase x) PORT_PCTL_URG_CAP = s.get (portBase x) PORT_PCTL_URG_CAP :=
  State.get_put_page _ _ _ _ _ (by decide) (by decide)

/-! ### The writes -/

section
variable {s : State} {m : Master} {x : Nat}

theorem exec_portEnable_disabled (hw : mayWrite s m (portBase x) PORT_PCTL true = true) (hs : portState s x = 1) :
    exec (.portEnable m x) s = .next (s.enablePort x) := by
  show execPortEnable m x s = _
  unfold execPortEnable
  rw [State.gate_open _ _ _ _ _ _ hw, hs]
  rfl
/-- A port that drains takes the acceptance number as its mark (R164). -/
theorem exec_portDisable_enabled (hx : x < 56) (hw : mayWrite s m (portBase x) PORT_PCTL true = true)
    (hs : portState s x = 2 ∨ portState s x = 4) :
    exec (.portDisable m x) s = .next (((s.put (portBase x) PORT_PCTL_EN 0).put (portBase x) PORT_PSTAT_STATE 3).port x
      fun p => { p with drainMark := s.hub.accCtr }) := by
  have hchan : decide (56 ≤ x) = false := decide_eq_false (by omega)
  show execPortDisable m x s = _
  unfold execPortDisable
  rw [State.gate_open _ _ _ _ _ _ hw]
  dsimp only
  rw [portState_putEn, hchan]
  rcases hs with hs | hs <;> rw [hs] <;> rfl
theorem exec_loopWrite (hx : x < 56) (depth : Nat) (hw : mayWrite s m (portBase x) PORT_PCTL true = true) :
    exec (.loopWrite m x depth) s = .next (if portState s x = 1 then s.put (portBase x) PORT_PCTL_LOOP depth
      else (s.put (portBase x) PORT_PSTAT_LOOP_REJ 1).refused m (portBase x) PORT_PCTL) := by
  show execLoopWrite m x depth s = _
  unfold execLoopWrite
  rw [State.gate_open _ _ _ _ _ _ hw, if_neg (by omega)]
theorem exec_loopWrite_channel (hx : 56 ≤ x) (depth : Nat) (hw : mayWrite s m (portBase x) PORT_PCTL true = true) :
    exec (.loopWrite m x depth) s = .next s := by
  show execLoopWrite m x depth s = _
  unfold execLoopWrite
  rw [State.gate_open _ _ _ _ _ _ hw, if_pos hx]
theorem exec_urgCapWrite_stream (hk : portKind x = 2) (cap : Nat) (hw : mayWrite s m (portBase x) PORT_PCTL true = true) :
    exec (.urgCapWrite m x cap) s = .next ((s.put (portBase x) PORT_PCTL_URG_CAP cap).applyUrg x) := by
  show execUrgCapWrite m x cap s = _
  unfold execUrgCapWrite
  rw [State.gate_open _ _ _ _ _ _ hw, hk]
  rfl
theorem exec_sflush_lens (hk : portKind x < 2) (hw : mayWrite s m (portBase x) PORT_LENS_CTL false = true) :
    exec (.sflush m x) s = .next (s.port x fun p =>
      { p with scale := [], fetches := p.fetches.map fun f => { f with keep := false } }) := by
  show execSflush m x s = _
  unfold execSflush
  rw [State.gate_open _ _ _ _ _ _ hw, decide_eq_true hk, State.cond_true]
theorem exec_engineSflush_open {e : Nat} (hw : mayWrite s m pgMOVER (MOVER_ENG_CTL + 32 * e) false = true) :
    exec (.engineSflush m e) s = .next { s with
      engScale := Sp.set s.engScale e [], chans := s.chans.map fun k => (k.1, if k.1 / 4 = e then k.2.dropRows none else k.2) } :=
  congrArg Host.Outcome.next (State.gate_open _ _ _ _ _ _ hw)
end

/-- Settles O2: what each write leaves (`exec_portEnable_disabled` and its like), read back field by field. -/
theorem portControlWrites : Obligations.PortControlWrites := by
  refine ⟨?enable, ?disable, ?loop, ?loopRejected, ?loopChannel, ?urgCap, ?sflush, ?engineSflush⟩
  case enable =>
    intro s m x hw hs
    exact ⟨_, exec_portEnable_disabled hw hs, enablePort_en s x, enablePort_portState s x⟩
  case disable =>
    intro s m x hx hw hs
    refine ⟨_, exec_portDisable_enabled hx hw hs, ?_, (portState_port ..).trans (portState_putState _ x (by decide))⟩
    rw [State.port_get, State.get_put_page _ _ _ _ _ (by decide) (by decide), State.get_put_self _ _ _ _ (by decide)]
    rfl
  case loop =>
    intro s m x depth hx hw hs
    refine ⟨_, exec_loopWrite hx depth hw, ?_⟩
    rw [if_pos hs]
    exact State.get_put_self _ _ _ _ (by decide)
  case loopRejected =>
    intro s m x depth hx hw hs
    refine ⟨_, exec_loopWrite hx depth hw, ?_⟩
    rw [if_neg hs, State.refused_get _ _ _ _ _ (by decide), State.refused_get _ _ _ _ _ (by decide)]
    exact ⟨State.get_put_self _ _ _ _ (by decide), State.get_put_page _ _ _ _ _ (by decide) (by decide)⟩
  case loopChannel =>
    intro s m x depth hx hw
    exact exec_loopWrite_channel hx depth hw
  case urgCap =>
    intro s m x cap hw hk hu
    refine ⟨_, exec_urgCapWrite_stream hk cap hw, ?_, ?_⟩
    · rw [applyUrg_cap]
      exact State.get_put_self _ _ _ _ (by decide)
    · rw [applyUrg_urg, State.get_put_self _ _ _ _ (by decide)]
      rfl
  case sflush =>
    intro s m x hw hk
    refine ⟨_, exec_sflush_lens hk hw, ?_⟩
    rw [State.portOf_port_self]
  case engineSflush =>
    intro s m e hw
    exact ⟨_, exec_engineSflush_open hw, Sp.get_set_self ..⟩

end Sys2Proof.Machine

/-! PROOFS. REQ transfers (spec/05_port_protocol.md R139, R147 to R149). All fifteen are `takeRequest` of the request that their command
takes; what it does to a port that can take the request is said once (`takeRequest_joins`): its transaction joins the
port's, and the adapter answers it or queues its tag. -/
namespace Sys2Proof.Machine

/-! ### The adapter's decision -/

theorem exec_readRequest (s : State) (x : Nat) (r : Request) :
    exec (.readRequest x r) s = takeRequest s x { r with op := if 6 ≤ r.op then r.op else 0 } := by
  show takeRequest s x { r with op := if 0 = 0 ∧ 6 ≤ r.op then r.op else 0 } = _
  simp only [true_and]
theorem exec_atomicAdd (s : State) (x : Nat) (r : Request) :
    exec (.atomicAdd x r) s = takeRequest s x { r with op := 5, aop := if 10 ≤ r.aop then r.aop else 0 } := by
  show takeRequest s x { r with op := 5, aop := if 0 = 0 ∧ 10 ≤ r.aop then r.aop else 0 } = _
  simp only [true_and]
/-- Every REQ transfer is `takeRequest` of the request that its command takes; READ and ATOMIC ADD carry the reserved codes. -/
theorem exec_portRequest (s : State) (x : Nat) (r : Request) : ∀ e ∈ portRequests, exec (e.1 x r) s = takeRequest s x (e.2 r) := by
  simp only [portRequests, List.cons_append, List.nil_append, List.forall_mem_cons]
  refine ⟨exec_readRequest s x r, rfl, rfl, rfl, rfl, exec_atomicAdd s x r, rfl, rfl, rfl, rfl, rfl, rfl, rfl, rfl, rfl, ?_⟩
  exact List.forall_mem_nil _

/-- The status with which the adapter answers a request itself, in the order of R153; none where it takes the request (R149, R164, R167). -/
def adapterStatus (s : State) (x : Nat) (r : Request) : Option Nat :=
  let d := liveDesc s r.handle r.gen
  let need := wdNeed x r (d.map (·.format))
  let unsure := r.handle != 0 && d.isNone && (r.op == 1 || r.op == 3 || r.op == 4)
  let wrong := if unsure then decide (writeBuffer x < r.beats * laneSize x) else r.beats != need.2
  if parked s then some stPARKED
  else if portState s x != 2 && portState s x != 4 then some stDISABLED
  else if loopDepth s x = 1 then none
  else if hasData r && ((!unsure && decide (writeBuffer x < need.1)) || wrong) then some stBOUNDS
  else none
theorem adapterStatus_refuses {s : State} {x : Nat} (r : Request) (h : parked s = true ∨ portState s x ≠ 2 ∧ portState s x ≠ 4) :
    adapterStatus s x r = some (if parked s then stPARKED else stDISABLED) := by
  unfold adapterStatus
  dsimp only
  cases hp : parked s with
  | true => rfl
  | false =>
    obtain ⟨h2, h4⟩ := h.resolve_left (by simp [hp])
    simp [h2, h4]
theorem adapterStatus_fits {s : State} {x : Nat} {r : Request} (hs : portState s x = 2) (hp : parked s = false) (hf : dataFits s x r = true) :
    adapterStatus s x r = none := by
  have hdepth : loopDepth s x = 0 := by simp [loopDepth, hs]
  have hne : (r.handle != 0) = decide (r.handle ≠ 0) := by rw [decide_not]; rfl
  unfold dataFits at hf
  unfold adapterStatus
  dsimp only at hf ⊢
  rw [hp, hs, hdepth, hne]
  generalize (decide (r.handle ≠ 0) && (liveDesc s r.handle r.gen).isNone && _) = unsure at hf ⊢
  cases hdata : hasData r with
  | false => rfl
  | true => cases unsure <;> simpa [hdata] using hf

/-! ### The transaction of a request taken -/

/-- In state t, transaction u of request r has joined those of port x as state s has them; the storage array is that of s. -/
structure Joined (s t : State) (x : Nat) (r : Request) (u : Txn) : Prop where
  ports : t.ports = (s.port x fun p => { p with txns := p.txns ++ [u] }).ports
  array : t.array = s.array
  req : u.req = { r with data := 0 }

theorem lensCount_ports (s : State) (x a b : Nat) : (s.lensCount x a b).ports = s.ports := rfl
theorem lensCount_array (s : State) (x a b : Nat) : (s.lensCount x a b).array = s.array := rfl
theorem State.port_ports_congr {s t : State} (h : t.ports = s.ports) (x : Nat) (f : PortSt → PortSt) : (t.port x f).ports = (s.port x f).ports := by
  unfold State.port portOf
  rw [h]

/-- A request that a port can take joins its transactions; the adapter answers it where `adapterStatus` says so, and else queues its tag,
where the port is not in loopback at depth 1. -/
theorem takeRequest_joins {s : State} {x : Nat} {r : Request} (h : reqTaken s x r = true) (hd : adapterStatus s x r = none → loopDepth s x ≠ 1) :
    ∃ t u, Joined s t x r u ∧ u.atHub = (adapterStatus s x r).isSome ∧ takeRequest s x r = .next (match adapterStatus s x r with
      | some code => (t.cond (code == stBOUNDS) fun t => t.reject x r.handle r.gen stBOUNDS).answerReq x r.tag code
      | none => t.port x fun p => { p with queue := p.queue ++ [r.tag] }) := by
  simp only [reqTaken, Bool.and_eq_true, decide_eq_true_eq] at h
  obtain ⟨⟨⟨hx, hpres⟩, htag⟩, hready⟩ := h
  unfold takeRequest
  rw [if_neg (by simp [hpres]; omega), if_neg (by simp [hready])]
  dsimp only
  generalize hrefuse : (if parked s = true then some stPARKED else _ : Option Nat) = refuse
  have hstatus : adapterStatus s x r = refuse := hrefuse
  rw [hstatus] at hd ⊢
  clear hrefuse
  have hhub : (refuse.isSome || loopDepth s x == 1) = refuse.isSome := by
    cases refuse with
    | some code => rfl
    | none => simpa using hd rfl
  rw [hhub]
  generalize hT : State.cond (State.port _ _ _) (_ && _ && _) _ = T
  refine ⟨T, ?u, ⟨?ports, ?array, ?req⟩, ?hub, ?next⟩
  case next =>
    clear hT hhub hstatus
    cases refuse with
    | some code => rfl
    | none => exact if_neg (hd rfl)
  case ports =>
    rw [← hT, State.cond_ports, State.energy_ports, ite_self]
    refine State.port_ports_congr ?_ x _
    simp [lensCount_ports]
  case array => simp [← hT, lensCount_array]
  case req => rfl
  case hub => rfl
theorem Joined.portOf_self {s t : State} {x : Nat} {r : Request} {u : Txn} (j : Joined s t x r u) :
    portOf t x = { portOf s x with txns := (portOf s x).txns ++ [u] } := by
  rw [portOf_congr _ _ _ j.ports, State.portOf_port_self]
theorem Joined.portOf_of_ne {s t : State} {x y : Nat} {r : Request} {u : Txn} (j : Joined s t x r u) (h : y ≠ x) : portOf t y = portOf s y := by
  rw [portOf_congr _ _ _ j.ports, State.portOf_port_of_ne _ _ h]
/-- The tag of a request that a port can take is free (R147), so it names the transaction that has joined. -/
theorem Joined.txnOf_tag {s t : State} {x : Nat} {r : Request} {u : Txn} (j : Joined s t x r u) (h : reqTaken s x r = true) :
    txnOf t x r.tag = some u := by
  simp only [reqTaken, reqReady, Bool.and_eq_true, Bool.not_eq_true'] at h
  obtain ⟨-, ⟨⟨-, hfree⟩, -⟩, -⟩ := h
  have hnone : (portOf s x).txns.find? (fun v => v.req.tag == r.tag) = none := by
    rw [List.find?_eq_none]
    exact List.any_eq_false.mp hfree
  unfold txnOf
  rw [j.portOf_self]
  simp [List.find?_append, hnone, j.req]

/-- Settles O1: the request joins, and the adapter has no status for it, so its tag is queued. -/
theorem requestIsQueued : Obligations.RequestIsQueued := by
  intro c f hc s x r htaken hs hp hf
  have hstatus := adapterStatus_fits hs hp hf
  obtain ⟨t, u, j, hhub, hnext⟩ := takeRequest_joins htaken (fun _ => by simp [loopDepth, hs])
  rw [hstatus] at hhub hnext
  dsimp only at hnext
  refine ⟨_, (exec_portRequest s x r _ hc).trans hnext, ?_, ⟨u, ?_, j.req, hhub⟩, fun y hy => ?_⟩
  · rw [State.portOf_port_self, j.portOf_self]
  · rw [State.portOf_port_self, j.portOf_self]
    exact List.mem_append_right _ (List.mem_singleton.mpr rfl)
  · rw [State.portOf_port_of_ne _ _ hy, j.portOf_of_ne hy]

/-- Settles O4: the request joins, and is answered with the adapter's status, which is not BOUNDS. -/
theorem adapterRefuses : Obligations.AdapterRefuses := by
  intro c f hc s x r htaken hrefuse
  have hstatus := adapterStatus_refuses (f r) hrefuse
  obtain ⟨t, u, j, -, hnext⟩ := takeRequest_joins htaken (fun h => by rw [hstatus] at h; cases h)
  rw [hstatus] at hnext
  have hbounds : ((if parked s then stPARKED else stDISABLED) == stBOUNDS) = false := by split <;> rfl
  dsimp only at hnext
  rw [hbounds, State.cond_false] at hnext
  have hu := j.txnOf_tag htaken
  have hready := answerReq_ready t x (f r).tag (if parked s then stPARKED else stDISABLED) u hu
  rw [j.portOf_self] at hready
  refine ⟨_, _, (exec_portRequest s x r _ hc).trans hnext, hready, rfl, rfl, rfl, rfl, ?_, ?_⟩
  · rw [answerReq_queue _ _ _ _ u hu, j.portOf_self]
  · rw [answerReq_array, j.array]

end Sys2Proof.Machine

/-! PROOFS. The steps of a port's own pipeline (spec/05_port_protocol.md R138, R150, R151, R155, R161, R164; spec/04_formats_and_lens.md
R125). What the Hub does with a request that reaches it changes neither the adapter queue nor the request itself (`hubView`). -/
namespace Sys2Proof.Machine

/-! ### A request at the Hub (R138) -/

/-- A port's adapter queue, and of a transaction whether it has reached the Hub, with its request. -/
def hubView (s : State) (x tag : Nat) : List Nat × Option (Bool × Request) :=
  ((portOf s x).queue, (txnOf s x tag).map fun u => (u.atHub, u.req))
theorem hubView_congr {s t : State} (h : t.ports = s.ports) (x tag : Nat) : hubView t x tag = hubView s x tag := by
  unfold hubView
  rw [portOf_congr _ _ _ h, txnOf_congr _ _ _ _ h]
theorem hubView_port (s : State) (x tag : Nat) (f : PortSt → PortSt) (hq : (f (portOf s x)).queue = (portOf s x).queue)
    (ht : (f (portOf s x)).txns = (portOf s x).txns) : hubView (s.port x f) x tag = hubView s x tag := by
  unfold hubView
  rw [txnOf_port _ _ _ _ ht, State.portOf_port_self, hq]
/-- Scale rows noted in the transaction. -/
theorem hubView_refs (s : State) (x tag : Nat) (l : List (Nat × ScaleRef)) :
    hubView (s.txn x tag fun t => { t with refs := t.refs ++ l }) x tag = hubView s x tag := by
  unfold hubView
  rw [txnOf_txn, Option.map_map]
  · unfold State.txn
    rw [State.portOf_port_self]
    rfl
  · exact fun _ h => h
theorem lookupRows_hubView (s : State) (x tag : Nat) (d : Desc) : hubView (s.lookupRows x tag d) x tag = hubView s x tag := by
  unfold State.lookupRows
  split
  · rfl
  · refine State.each_of (hubView · x tag) _ (fun s j => ?_) _ _
    dsimp only
    split
    · rw [hubView_refs, hubView_congr (State.bump_ports ..), hubView_port] <;> rfl
    · split
      · rw [hubView_refs, hubView_congr (State.bump_ports ..)]
      · rw [hubView_refs, hubView_congr (State.bump_ports ..), hubView_port, hubView_congr (State.hubf_ports ..)] <;> rfl
theorem freeRows_hubView (s : State) (x tag : Nat) (d : Desc) : hubView (s.freeRows x tag d) x tag = hubView s x tag := by
  unfold State.freeRows
  split
  · rfl
  · refine State.each_of (hubView · x tag) _ (fun s j => ?_) _ _
    exact (hubView_refs ..).trans (hubView_congr (State.draw_ports s) x tag)
theorem rows_hubView (s : State) (x tag : Nat) (d : Desc) (c : Bool) :
    hubView (s.cond c fun s => if loopDepth s x = 0 then s.lookupRows x tag d else s.freeRows x tag d) x tag = hubView s x tag := by
  cases c with
  | false => rfl
  | true =>
    rw [State.cond_true]
    split
    · exact lookupRows_hubView s x tag d
    · exact freeRows_hubView s x tag d
theorem urgArrive_ports (s : State) (x : Nat) (t : Txn) : (s.urgArrive x t).ports = s.ports := by
  unfold State.urgArrive
  split
  · rfl
  · refine State.each_of State.ports _ (fun s y => ?_) _ _
    rw [State.cond_ports, State.irq_ports, State.bumpSat_ports, State.put_ports, State.put_ports, ite_self]
/-- A request that fails at the Hub is answered: it is in the queue no longer, and stays as it is (R86). -/
theorem answerReq_hubView {s : State} {x tag : Nat} {q : List Nat} {b : Bool} {r : Request} (st : Nat) (hq : tag ∉ q)
    (h : hubView s x tag = (q, some (b, r))) : hubView (s.answerReq x tag st) x tag = (q, some (b, r)) := by
  simp only [hubView, Prod.mk.injEq, Option.map_eq_some_iff] at h
  obtain ⟨hqueue, u, hu, hb, hr⟩ := h
  have hfilter : q.filter (· != tag) = q := List.filter_eq_self.mpr fun a ha => bne_iff_ne.mpr fun e => hq (e ▸ ha)
  unfold hubView
  rw [answerReq_queue _ _ _ _ u hu, answerReq_txnOf _ _ _ _ u hu, hqueue, hfilter]
  simp [hb, hr]
/-- The request leaves the queue with its transaction at the Hub. -/
theorem dequeued_hubView {s : State} {x tag : Nat} {u v : Txn} (rest : List Nat) (hu : txnOf s x tag = some u) (hv : v.req.tag = tag) :
    hubView ((s.port x fun p => { p with queue := rest }).txn x tag fun _ => v) x tag = (rest, some (v.atHub, v.req)) := by
  unfold hubView
  rw [txnOf_txn _ _ _ _ fun _ _ => hv, txnOf_port _ _ _ _ rfl, hu]
  unfold State.txn
  rw [State.portOf_port_self, State.portOf_port_self]
  rfl
/-- The request as the Hub takes it: that of a stream port runs under the port's TID (R146). -/
def hubRequest (s : State) (x : Nat) (r : Request) : Request :=
  { r with tid := if portKind x = 2 then s.get (portBase x) PORT_PCTL_STREAM_TID else r.tid }
theorem next_of_ite {c : Prop} [Decidable c] {a b : Res} {P : State → Prop} (ha : ∃ t, a = .next t ∧ P t) (hb : ∃ t, b = .next t ∧ P t) :
    ∃ t, (if c then a else b) = .next t ∧ P t := by
  split <;> assumption
/-- The oldest request of a port comes to the Hub and leaves the queue. -/
theorem requestReachesHub_moves {s : State} {x tag : Nat} {rest : List Nat} {u : Txn} (hq : (portOf s x).queue = tag :: rest)
    (hrest : tag ∉ rest) (hu : txnOf s x tag = some u) (hsplit : (portOf s x).split = none) (hawait : (portOf s x).await = [])
    (hslot : u.req.slot = false) :
    ∃ t, exec (.requestReachesHub x) s = .next t ∧ hubView t x tag = (rest, some (true, hubRequest s x u.req)) := by
  have htag : u.req.tag = tag := by
    have := List.find?_some hu
    simpa using this
  show ∃ t, execRequestReachesHub x s = _ ∧ _
  unfold execRequestReachesHub
  dsimp only
  rw [hq]
  dsimp only
  rw [hu]
  dsimp only
  rw [hsplit, hawait, if_neg (by simp)]
  generalize hS : State.txn (State.port s x _) x tag _ = S
  have hview : hubView S x tag = (rest, some (true, hubRequest s x u.req)) := by
    rw [← hS]
    exact dequeued_hubView rest hu htag
  clear hS
  refine next_of_ite ⟨_, rfl, answerReq_hubView _ hrest ((hubView_congr (reject_ports ..) x tag).trans hview)⟩ ?_
  split
  · rename_i hring _
    simp [hslot] at hring
  · refine ⟨_, rfl, (hubView_port _ x tag _ rfl rfl).trans ((hubView_congr (urgArrive_ports ..) x tag).trans (Eq.trans ?_ hview))⟩
    split
    · exact rows_hubView S x tag _ _
    · rfl

/-! ### Lanes, copies and lines (R125, R150, R151, R155) -/

section
variable {s : State} {x : Nat}

/-- The end of a transaction leaves the lanes that wait, and the one on RSP. -/
theorem cond_endTxn_lanes (c : Bool) (tag : Nat) : (portOf (s.cond c fun s => s.endTxn x tag) x).ready = (portOf s x).ready ∧
    (portOf (s.cond c fun s => s.endTxn x tag) x).rsp = (portOf s x).rsp := by
  cases c with
  | false => exact ⟨rfl, rfl⟩
  | true =>
    rw [State.cond_true]
    unfold State.endTxn
    rw [portOf_congr _ _ _ (State.drop_ports ..), State.portOf_port_self]
    exact ⟨rfl, rfl⟩
/-- A port that holds no copy sends the oldest of its own lanes that can be sent. -/
theorem response_sends {l : Lane} (hs : portState s x ≠ 0) (hb : (portOf s x).broken = false) (hh : (portOf s x).hold = [])
    (hl : (portOf s x).ready.find? (sendable s x) = some l) (hmc : l.mc = false) :
    ∃ t, exec (.response x) s = .next t ∧ (portOf t x).ready = (portOf s x).ready.erase l ∧
      (portOf t x).rsp.map (fun q => (q.tag, q.line, q.status, q.data, q.done)) =
        some (l.tag, l.line, l.status, l.data, lastLane s x l) := by
  show ∃ t, execResponse x s = _ ∧ _
  unfold execResponse
  rw [if_neg (by simp [hs, hb])]
  dsimp only
  rw [hh, hl]
  dsimp only [List.find?_nil]
  rw [hl]
  dsimp only
  rw [if_neg (by simp [hmc])]
  refine ⟨_, rfl, ?_⟩
  rw [(cond_endTxn_lanes ..).1, (cond_endTxn_lanes ..).2, State.portOf_port_self]
  exact ⟨rfl, rfl⟩
theorem txn_hold (y tag : Nat) (f : Txn → Txn) : (portOf (s.txn y tag f) x).hold = (portOf s x).hold := by
  unfold State.txn
  by_cases h : x = y
  · subst h
    rw [State.portOf_port_self]
  · rw [State.portOf_port_of_ne _ _ h]
theorem mcHoldExpiry_drops {b : BackLine} {rest : List BackLine} (hh : (portOf s x).hold = b :: rest)
    (ht : b.since + 4 * s.get (portBase x) PORT_PCTL_MC_HOLD ≤ s.pcNow) :
    ∃ t, exec (.mcHoldExpiry x) s = .next t ∧ (portOf t x).hold = rest ∧
      t.get (portBase x) PORT_MC_DROP_COUNT = min (s.get (portBase x) PORT_MC_DROP_COUNT + 1) (2 ^ 32 - 1) := by
  show ∃ t, execMcHoldExpiry x s = _ ∧ _
  unfold execMcHoldExpiry
  rw [hh]
  dsimp only
  rw [if_neg (Nat.not_lt.mpr ht)]
  refine ⟨_, rfl, ?_, ?_⟩
  · rw [txn_hold, portOf_congr _ _ _ (State.bumpSat_ports ..), State.portOf_port_self]
  · exact State.get_bumpSat_self (s.port x fun p => { p with hold := rest }) _ _ _ (by decide)
/-- A line that has left the return buffer, whatever its conversion has counted and charged, is answered behind the lanes that wait. -/
theorem answerLine_converted {S : State} {st pm : Nat} {data : Option (Nat × Nat)} (b : BackLine) {u : Txn} (hu : txnOf s x b.tag = some u)
    (hports : S.ports = (s.port x fun p => { p with back := p.back.erase b }).ports) (hpc : S.pcNow = s.pcNow) :
    (portOf (S.answerLine x b.tag b.line st pm data) x).back = (portOf s x).back.erase b ∧
      (portOf (S.answerLine x b.tag b.line st pm data) x).ready = (portOf s x).ready ++
        cutLanes x ⟨laneWr u.req, b.tag, b.line, 0, st, pm, false, 0, false, 0, none, s.pcNow⟩ data := by
  have htxn : txnOf S x b.tag = some u := by
    rw [txnOf_congr _ _ _ _ hports, txnOf_port _ _ _ _ rfl, hu]
  rw [answerLine_back, answerLine_ready _ _ _ _ _ _ _ u htxn, portOf_congr _ _ _ hports, State.portOf_port_self, hpc]
  exact ⟨rfl, rfl⟩
theorem lensConvert_answers {st pm sat nan : Nat} {data : Option (Nat × Nat)} {b : BackLine} {u : Txn}
    (hb : (portOf s x).back.find? (fun b => (convertBack s b).isSome) = some b) (hu : txnOf s x b.tag = some u)
    (hc : convertBack s b = some (st, pm, data, sat, nan)) :
    ∃ t, exec (.lensConvert x) s = .next t ∧ (portOf t x).back = (portOf s x).back.erase b ∧
      (portOf t x).ready = (portOf s x).ready ++
        cutLanes x ⟨laneWr u.req, b.tag, b.line, 0, st, pm, false, 0, false, 0, none, s.pcNow⟩ data := by
  show ∃ t, execLensConvert x s = _ ∧ _
  unfold execLensConvert
  rw [hb]
  dsimp only
  rw [hc, hu]
  dsimp only
  cases data with
  | none => exact ⟨_, rfl, answerLine_converted b hu rfl rfl⟩
  | some d => exact ⟨_, rfl, answerLine_converted b hu rfl rfl⟩

/-! ### Urgency (R161) -/

theorem applyUrg_ports (s : State) (x : Nat) : (s.applyUrg x).ports = s.ports := rfl
theorem urgChange_takes {urg : Nat} (hk : portKind x = 2) (hu : urg ≤ 7) :
    exec (.urgChange x urg) s = .next ((s.port x fun p => { p with urgIn := urg }).applyUrg x) := by
  show execUrgChange x urg s = _
  unfold execUrgChange
  rw [hk, if_neg (by simpa using hu)]

/-! ### The end of a drain (R164) -/

theorem sqDrain_none (n : Nat) (h : (portOf s x).sqHeld = []) : s.sqDrain x n = s := by
  cases n with
  | zero => rfl
  | succ n =>
    unfold State.sqDrain
    rw [h]
theorem sqStop_none (err : Nat) (h : (portOf s x).sqHeld = []) : s.sqStop x err = s.port x fun p => { p with sqHeld := [] } := by
  unfold State.sqStop
  rw [h]
  rfl
theorem dropEngine_none (hw : s.sync.watchOrd = []) (hb : s.sync.waiters = []) : (s.dropEngine x).regs = s.regs ∧ (s.dropEngine x).cfg = s.cfg := by
  unfold State.dropEngine
  rw [hw, hb]
  exact ⟨rfl, rfl⟩
theorem portDown_disabled (hq : (portOf s x).sqHeld = []) (hw : s.sync.watchOrd = []) (hb : s.sync.waiters = []) :
    portState (s.portDown x) x = 1 := by
  unfold State.portDown
  cases hk : portKind x != 2 with
  | false => exact portState_putState s x (by decide)
  | true =>
    have hheld : (portOf (s.put (portBase x) PORT_PSTAT_STATE 1) x).sqHeld = [] := hq
    rw [State.cond_true, sqDrain_none _ hheld, sqStop_none _ hheld]
    obtain ⟨hregs, hcfg⟩ := dropEngine_none
      (s := (s.put (portBase x) PORT_PSTAT_STATE 1).port x fun p => { p with sqHeld := [] }) (x := x) hw hb
    exact (State.get_congr hregs hcfg _ _).trans (portState_putState s x (by decide))
/-- A port with no enable held stays as its drain has left it. -/
theorem exec_portDrainDone (hs : portState s x = 3) (ht : (portOf s x).txns.any (fun u => decide (u.acc < (portOf s x).drainMark)) = false)
    (hm : moverQuiet s x = true) (hh : (portOf s x).held = false) : exec (.portDrainDone x) s = .next (s.portDown x) := by
  show execPortDrainDone x s = _
  unfold execPortDrainDone
  dsimp only
  rw [if_neg (by simp only [hs, ht, hm]; decide), hh]
  rfl
end

/-- Settles O3: each step by what it leaves of its port. -/
theorem portPipelineSteps : Obligations.PortPipelineSteps := by
  refine ⟨?hub, fun s x l => response_sends, fun s x b rest => mcHoldExpiry_drops,
    fun s x st pm sat nan data b u => lensConvert_answers, ?urg, ?drain⟩
  case hub =>
    intro s x tag rest u hq hrest hu hsplit hawait hslot
    obtain ⟨t, hexec, hview⟩ := requestReachesHub_moves hq hrest hu hsplit hawait hslot
    simp only [hubView, Prod.mk.injEq, Option.map_eq_some_iff] at hview
    obtain ⟨hqueue, v, hv, hhub, hreq⟩ := hview
    refine ⟨t, hexec, ?_, v, hv, hhub, ?_⟩
    · rwa [hqueue]
    · rw [hreq]
      rfl
  case urg =>
    intro s x urg hk hu
    refine ⟨_, urgChange_takes hk hu, ?_, ?_⟩
    · rw [portOf_congr _ _ _ (applyUrg_ports ..), State.portOf_port_self]
    · rw [applyUrg_urg, State.portOf_port_self]
      rfl
  case drain =>
    intro s x hs ht hm hh hq hw hb
    exact ⟨_, exec_portDrainDone hs ht hm hh, portDown_disabled hq hw hb⟩

end Sys2Proof.Machine

/-! PROOFS. One access through the stages of the Hub (spec/06_hub.md R172 to R183). Where a pool or a stage holds one access alone, its
arbiter's choice is that access, and no other is displaced; so each stage's command leaves the flight with that one access moved. -/
namespace Sys2Proof.Machine

/-! ### The split stage (R174, R178) -/

/-- With no operation at the cache controller, its run changes the list of accesses held for a queue share alone. -/
theorem cacheRun_idle {s : State} (h : s.cache.jobs = []) : ∃ l, s.cacheRun = { s with shareHeld := l } := by
  have hrun : s.lineRun (16 * s.cache.jobs.length + 16) = s := by
    unfold State.lineRun
    rw [h]
    rfl
  unfold State.cacheRun State.cond
  split
  · exact ⟨_, congrArg State.cacheHeld hrun⟩
  · exact ⟨s.shareHeld, rfl⟩

/-- Line k of its request released into the sector pool: the split stage goes on at the line's scale entry, where it has one, or at the
next line. -/
def State.released (s : State) (x k : Nat) (u : Txn) (sp : Splitting) : State :=
  let s := (s.enterPool (lineAccess s x u k)).bump (portBase x) PORT_LINE_CNT_COUNT
  if u.scaleGo.contains k then s.port x fun p => { p with split := some { sp with scaleNext := true } } else s.splitNext x u k
theorem released_flight (s : State) (x k : Nat) (u : Txn) (sp : Splitting) : (s.released x k u sp).hub.flight =
    s.hub.flight ++ [{ lineAccess s x u k with seq := s.hub.seqCtr, loc := .pool, pooled := true }] := by
  rw [← poolRoom_enter_flight]
  unfold State.released
  dsimp only
  split <;> rfl
theorem released_split {s : State} {x k : Nat} {u : Txn} {sp sp' : Splitting} (h : (portOf (s.released x k u sp) x).split = some sp') :
    k < sp'.next ∨ sp'.scaleNext = true := by
  unfold State.released at h
  dsimp only at h
  split at h
  · rw [State.portOf_port_self] at h
    cases h
    exact .inr rfl
  · unfold State.splitNext at h
    rw [State.portOf_port_self, Option.ite_none_right_eq_some] at h
    obtain ⟨-, ⟨⟩⟩ := h
    exact .inl (Nat.lt_succ_self k)

/-- A line that finds its rim, the return buffer and the pool ready is released, from the state in which the cache controller has run. -/
theorem exec_splitRelease {s S : State} {x k tag : Nat} {u : Txn} (hrun : s.cacheRun = S)
    (hfetch : (portOf S x).fetches.find? (fun f => !f.sent) = none) (hsplit : (portOf S x).split = some ⟨tag, k, false⟩)
    (hu : txnOf S x tag = some u) (hloop : loopDepth S x ≠ 2)
    (hrim : rimRefusal S (lineAccess S x u k).layer (lineAccess S x u k).rim (lineAccess S x u k).policy = none)
    (hform : u.req.form ≠ 3) (hback : u.req.op ≠ 0 ∨ returnUsed S x + readBytes u ≤ returnSize x)
    (hroom : poolRoom S (lineAccess S x u k) = true) : exec (.splitRelease x) s = .next (S.released x k u ⟨tag, k, false⟩) := by
  have hfull : (u.req.op == 0 && decide (returnSize x < returnUsed S x + readBytes u)) = false := by
    rw [Bool.and_eq_false_iff, beq_eq_false_iff_ne, decide_eq_false_iff_not, Nat.not_lt]
    exact hback
  show execSplitRelease x s = _
  unfold execSplitRelease
  rw [hrun]
  dsimp only
  rw [hfetch]
  dsimp only
  rw [hsplit]
  dsimp only
  rw [hsplit]
  dsimp only
  rw [hu]
  dsimp only
  rw [if_neg (not_or_intro hloop hform), if_neg (by decide), hrim]
  dsimp only
  rw [hfull, hroom, if_neg (by decide)]
  unfold State.released
  exact (apply_ite Host.Outcome.next _ _ _).symm

/-! ### The arbiters of a sector (R173, R183) -/

/-- An arbiter with one access before it displaces none. -/
theorem countDispl_single (s : State) (arb : Nat) (choice : List Access → List Access) (a : Access) (h : choice [] = []) :
    s.countDispl arb choice [a] [a] = s := by
  unfold State.countDispl displaced State.each
  cases hl : level s arb a == 1 <;> simp [hl, h]
theorem spokeSlots_pos (s : State) : 0 < spokeSlots s := by
  unfold spokeSlots
  split <;> decide
theorem each_single {α : Type} (s : State) (f : State → α → State) (a : α) : s.each [a] f = f s a := rfl

section
variable {s : State} {layer sector : Nat} {a : Access}

/-- The only access of a pool, whose rim is ready, goes up where it finds a place in the rim's queue. -/
theorem upwardArbitration_grants (hsector : sector < 4) (hpool : poolOf s (4 * layer + sector) = [a])
    (hrim : rimRefusal s a.layer a.rim a.policy = none) (hwaits : rimWaits s a.layer a.rim = false) (hpaused : s.hub.paused = false)
    (hspoke : spokeUp s (4 * layer + sector) = true) (hheld : heldBack s a = false) (hstop : stopped s (arbUp (4 * layer + sector)) a = false)
    (hroom : roomIn s (arbRim a.layer a.rim) 48 32 (rimPlaces s a.layer a.rim) a = true) :
    ∃ t, exec (.upwardArbitration layer sector) s = .next t ∧ t.hub = (s.upd { a with loc := .rim, sent := true }).hub := by
  have hon : rimPower s a.layer (physOf s a.layer a.rim) = 0 := bne_eq_false_iff_eq.mp hwaits
  show ∃ t, execUpwardArbitration layer sector s = _ ∧ _
  unfold execUpwardArbitration
  extract_lets sec arb awake pick pool won displ
  rw [if_neg (by omega)]
  have hawake : awake = s := by
    unfold awake
    rw [hpool, each_single]
    dsimp only
    rw [hrim]
    dsimp only
    rw [hon]
    rfl
  have hpool : pool = [a] := by
    unfold pool
    rw [hawake, hpool]
  have hwon : won = [a] := by
    unfold won pick
    rw [hawake, hpool, List.filter_cons_of_pos (by rw [hheld, hstop, hwaits]; rfl), List.filter_nil]
    dsimp only [served, insertBy, List.foldl]
    rw [List.filter_nil, List.append_nil, if_pos ⟨spokeSlots_pos s, hroom⟩, List.nil_append]
  have hdispl : displ = s := by
    unfold displ
    rw [hwon, hpool, hawake, countDispl_single _ _ _ _ rfl]
  rw [hdispl, hwon, hawake, hpaused, hspoke, if_neg (by decide), each_single]
  exact ⟨_, rfl, by simp⟩

/-- The only access of a sector's output stages goes down. -/
theorem downwardArbitration_sends (hsector : sector < 4) (hspoke : spokeUp s (4 * layer + sector) = true)
    (hout : (inLoc s .out).filter (fun b => b.sector == 4 * layer + sector) = [a])
    (hstop : stopped s (arbDown (4 * layer + sector)) a = false) :
    ∃ t, exec (.downwardArbitration layer sector) s = .next t ∧ t.hub = (s.upd { a with loc := .merge, sent := true }).hub := by
  have hgo : (inLoc s .out).filter (fun b => b.sector == 4 * layer + sector && !stopped s (arbDown (4 * layer + sector)) b) = [a] := by
    simp only [Bool.and_comm (_ == _)]
    rw [← List.filter_filter, hout]
    exact List.filter_cons_of_pos (by rw [hstop]; rfl)
  show ∃ t, execDownwardArbitration layer sector s = _ ∧ _
  unfold execDownwardArbitration
  extract_lets sec arb out pick won displ
  rw [if_neg (by rw [hspoke]; simpa using hsector)]
  have hwon : won = [a] := by
    unfold won pick out
    rw [hgo]
    exact List.take_of_length_le (spokeSlots_pos s)
  have hdispl : displ = s := by
    unfold displ out
    rw [hgo, hwon]
    exact countDispl_single _ _ _ _ List.take_nil
  rw [hdispl, hwon, each_single]
  exact ⟨_, rfl, by simp⟩
end

/-! ### The merge (R172) -/

section
variable {s : State} {a : Access}

/-- Only accesses of ports are answered in the order of their requests (R156). -/
theorem answersAfter_unit (h : a.unitSrc = true) : answersAfter s a = false := by
  unfold Access.unitSrc at h
  unfold answersAfter
  split at h
  case h_5 => cases h
  all_goals
    rename_i hsrc
    rw [hsrc]

/-- The oldest access of its observer to its segments comes back to its unit. -/
theorem planeMerge_answers (hfind : s.hub.flight.find? (fun b => b.seq == a.seq && b.loc == .merge) = some a)
    (hfirst : (s.hub.flight.any fun b => b.obs == a.obs && decide (b.seq < a.seq) && common a b) = false) (hunit : a.unitSrc = true) :
    ∃ t, exec (.planeMerge a.seq) s = .next t ∧ t.hub.flight = s.hub.flight.filter (fun b => b.seq != a.seq) ∧
      t.hub.answers = s.hub.answers ++ [a.answer] := by
  show ∃ t, execPlaneMerge a.seq s = _ ∧ _
  unfold execPlaneMerge
  rw [hfind]
  dsimp only
  rw [hfirst, answersAfter_unit hunit]
  unfold Access.unitSrc at hunit
  split at hunit
  case h_5 => cases hunit
  all_goals
    rename_i hsrc
    rw [hsrc]
    refine ⟨_, if_neg (by simp), ?_⟩
    simp only [State.hubf_hub, State.latency_hub, State.cond_hub, State.put_hub, ite_self]
    exact ⟨rfl, rfl⟩
end

/-- Settles O5: the state that each stage's command leaves, by what it does to the flight. -/
theorem hubPipelineSteps : Obligations.HubPipelineSteps := by
  refine ⟨?split, ?up, ?down, fun s a hfind hfirst hunit => planeMerge_answers hfind hfirst hunit⟩
  case split =>
    intro s x k tag u hjobs hfetch hsplit hu hloop hrim hform hback hroom
    obtain ⟨l, hrun⟩ := cacheRun_idle hjobs
    exact ⟨_, exec_splitRelease hrun hfetch hsplit hu hloop hrim hform hback hroom, released_flight .., fun _ => released_split⟩
  case up =>
    intro s layer sector a hsector hpool hrim hwaits hpaused hspoke hheld hstop hroom
    obtain ⟨t, hexec, hhub⟩ := upwardArbitration_grants hsector hpool hrim hwaits hpaused hspoke hheld hstop hroom
    exact ⟨t, hexec, congrArg HubSt.flight hhub⟩
  case down =>
    intro s layer sector a hsector hspoke hout hstop
    obtain ⟨t, hexec, hhub⟩ := downwardArbitration_sends hsector hspoke hout hstop
    exact ⟨t, hexec, congrArg HubSt.flight hhub⟩

end Sys2Proof.Machine

/-! PROOFS. The planes of the Hub (spec/06_hub.md R189 to R191). The planes' states, the mode and FO_CNT are fields of one register,
PLANE_STAT, which the loss of accesses leaves, as it leaves whether the Hub sends; so a fault reads back what the take-over has put. -/
namespace Sys2Proof.Machine

/-! ### The fields of PLANE_STAT -/

/-- The field of PLANE_STAT that holds the state of plane p. -/
def planeFld (p : Nat) : Fld := if p = 0 then HUB_PLANE_STAT_A_STATE else HUB_PLANE_STAT_B_STATE
theorem planeFld_bits (p : Nat) : (planeFld p).fits ∧ (planeFld p).off = HUB_PLANE_STAT ∧ 4 ≤ (planeFld p).lo ∧ (planeFld p).hi ≤ 11 ∧
    (planeFld p).hi + 1 - (planeFld p).lo = 4 := by
  unfold planeFld
  split <;> decide
theorem planeState_setPlane_self (s : State) (p : Nat) {v : Nat} (hv : v < 16) : planeState (s.setPlane p v) p = v := by
  obtain ⟨hfits, -, -, -, hwidth⟩ := planeFld_bits p
  refine (State.get_put_self _ _ _ _ hfits).trans ?_
  rw [show _ + 1 - _ = 4 from hwidth]
  exact Nat.mod_eq_of_lt hv
theorem planeState_setPlane_other (s : State) {p : Nat} (hp : p < 2) (v : Nat) : planeState (s.setPlane (1 - p) v) p = planeState s p := by
  obtain rfl | rfl : p = 0 ∨ p = 1 := by omega
  · exact State.get_put_page _ _ _ _ _ (by decide) (by decide)
  · exact State.get_put_page _ _ _ _ _ (by decide) (by decide)
/-- The planes' states lie in bits 4 to 11 of PLANE_STAT. -/
theorem setPlane_get (s : State) (p v : Nat) (g : Fld) (hg : g.hi < 4 ∨ 11 < g.lo) : (s.setPlane p v).get pgHUB g = s.get pgHUB g := by
  obtain ⟨hfits, -, hlo, hhi, -⟩ := planeFld_bits p
  exact State.get_put_page _ _ (planeFld p) _ _ hfits (by omega)
theorem planeState_put (s : State) (p v : Nat) (g : Fld) (hf : g.fits) (hg : g.hi < 4 ∨ 11 < g.lo) :
    planeState (s.put pgHUB g v) p = planeState s p := by
  obtain ⟨-, -, hlo, hhi, -⟩ := planeFld_bits p
  exact State.get_put_page _ _ _ (planeFld p) _ hf (by omega)
/-- What leaves PLANE_STAT leaves its fields. -/
theorem planeStat_get {s t : State} (h : t.rd (pgHUB + HUB_PLANE_STAT) = s.rd (pgHUB + HUB_PLANE_STAT)) (f : Fld)
    (hf : f.off = HUB_PLANE_STAT) : t.get pgHUB f = s.get pgHUB f := by
  unfold State.get
  rw [hf, h]
theorem planeState_of_rd {s t : State} (h : t.rd (pgHUB + HUB_PLANE_STAT) = s.rd (pgHUB + HUB_PLANE_STAT)) (p : Nat) :
    planeState t p = planeState s p := by
  obtain ⟨-, hoff, -⟩ := planeFld_bits p
  exact planeStat_get h (planeFld p) hoff

/-! ### Changes of the planes (R191) -/
section
variable {s : State} {m : Master} {p : Nat}

/-- PLANE_STAT under an interrupt of a page. -/
theorem irq_planeStat (s : State) (b k : Nat) (hb : pgHUB + HUB_PLANE_STAT ≠ b + HDR_IRQ_STAT) :
    (s.irq b k).rd (pgHUB + HUB_PLANE_STAT) = s.rd (pgHUB + HUB_PLANE_STAT) := State.irq_rd _ _ _ _ hb (.inl (by decide))

theorem planeState_planeChange (s : State) (p : Nat) (out : Bool) : planeState (s.planeChange p out) p = if out then 1 else 4 := by
  have hsmall : (if out then 1 else 4) < 16 := by split <;> decide
  exact (planeState_of_rd (State.hubf_rd ..) p).trans (planeState_setPlane_self _ p hsmall)

theorem exec_planeTakeOut (hw : mayWrite s m pgHUB HUB_PLANE_CTL true = true) (hp : p < 2) (hs : planeState s p = 0) :
    exec (.planeTakeOut m p) s =
      .next (if s.hub.change.isSome || s.hub.paused || planeState s (1 - p) != 0 then s.planeRefused m else s.planeChange p true) := by
  show execPlaneTakeOut m p s = _
  unfold execPlaneTakeOut
  rw [State.gate_open _ _ _ _ _ _ hw, hs, if_neg (by omega)]
theorem exec_planeReturn (hw : mayWrite s m pgHUB HUB_PLANE_CTL true = true) (hp : p < 2) (hs : planeState s p = 2) :
    exec (.planeReturn m p) s = .next (if s.hub.change.isSome || s.hub.paused then s.planeRefused m else s.planeChange p false) := by
  show execPlaneReturn m p s = _
  unfold execPlaneReturn
  rw [State.gate_open _ _ _ _ _ _ hw, hs, if_neg (by omega)]
theorem planeRefused_hub (s : State) (m : Master) : (s.planeRefused m).hub = s.hub :=
  State.irq_hub ..
theorem planeRefused_flag (s : State) (m : Master) : (s.planeRefused m).get pgHUB HUB_PLANE_STAT_REFUSED = 1 := by
  unfold State.planeRefused
  rw [State.refused_get _ _ _ _ _ (by decide), State.get_irq _ _ _ _ _ (by decide) (by decide), State.get_put_self _ _ _ _ (by decide)]
  rfl
theorem planeState_planeRefused (s : State) (m : Master) (p : Nat) : planeState (s.planeRefused m) p = planeState s p := by
  unfold State.planeRefused
  rw [planeState_of_rd (State.refused_rd _ _ _ _ _ (by decide) (by decide) (by decide)), planeState_of_rd (irq_planeStat _ _ _ (by decide)),
    planeState_put _ _ _ _ (by decide) (by decide)]

/-- The state after a change of plane p that has completed. -/
def State.planeChanged (s : State) (p : Nat) (out : Bool) : State :=
  let s := (s.setPlane p (if out then 2 else 0)).put pgHUB HUB_PLANE_STAT_MODE (if out then (if p = 0 then 2 else 1) else 0)
  let s := s.wr (pgHUB + HUB_FO_LAST)
    (BitVec.ofNat 32 (p * 2 ^ 31 + (if out then 2 else 3) * 2 ^ 28 + min (s.now - s.hub.changeAt) 0xFFFF))
  (s.hubf fun h => { h with paused := false, change := none }).irq pgHUB 1
theorem exec_planeChangeDone {out : Bool} (hc : s.hub.change = some (p, out)) (hsent : ∀ a ∈ s.hub.flight, a.sent = false) :
    exec .planeChangeDone s = .next (s.planeChanged p out) := by
  show execPlaneChangeDone s = _
  unfold execPlaneChangeDone
  rw [hc]
  dsimp only
  rw [if_neg (by simpa using hsent)]
  rfl
theorem planeChanged_hub (s : State) (p : Nat) (out : Bool) : (s.planeChanged p out).hub = { s.hub with paused := false, change := none } :=
  State.irq_hub ..
theorem planeChanged_rd (s : State) (p : Nat) (out : Bool) : (s.planeChanged p out).rd (pgHUB + HUB_PLANE_STAT) =
    ((s.setPlane p (if out then 2 else 0)).put pgHUB HUB_PLANE_STAT_MODE (if out then (if p = 0 then 2 else 1) else 0)).rd
      (pgHUB + HUB_PLANE_STAT) := by
  unfold State.planeChanged
  dsimp only
  rw [irq_planeStat _ _ _ (by decide), State.hubf_rd, State.rd_wr_of_ne _ _ (by decide)]
theorem planeState_planeChanged (s : State) (p : Nat) (out : Bool) : planeState (s.planeChanged p out) p = if out then 2 else 0 := by
  rw [planeState_of_rd (planeChanged_rd ..), planeState_put _ _ _ _ (by decide) (by decide), planeState_setPlane_self _ _ (by split <;> decide)]
theorem planeChanged_mode (s : State) (p : Nat) (out : Bool) :
    (s.planeChanged p out).get pgHUB HUB_PLANE_STAT_MODE = if out then (if p = 0 then 2 else 1) else 0 := by
  have hsmall : (if out then (if p = 0 then 2 else 1) else 0) < 4 := by
    split
    · split <;> decide
    · decide
  rw [planeStat_get (planeChanged_rd ..) _ rfl, State.get_put_self _ _ _ _ (by decide)]
  exact Nat.mod_eq_of_lt hsmall

/-! ### Sending resumes after a fault (R189) -/

/-- One plane is FAILED: the mode names the other. -/
theorem failoverResume_resumes (hp : p < 2) (hs : planeState s p = 3) (hq : planeState s (1 - p) ≠ 3) (hpaused : s.hub.paused = true)
    (hc : s.hub.change = none) (hpark : parked s = false) :
    ∃ t, exec .failoverResume s = .next t ∧ t.hub.paused = false ∧ t.get pgHUB HUB_PLANE_STAT_MODE = 2 - p := by
  have hname : (if planeState s 0 = 3 then some 0 else if planeState s 1 = 3 then some 1 else none) = some p := by
    obtain rfl | rfl : p = 0 ∨ p = 1 := by omega
    · exact if_pos hs
    · rw [if_neg hq, if_pos hs]
  have hmode : (if p = 0 then 2 else 1) = 2 - p := by split <;> omega
  show ∃ t, execFailoverResume s = _ ∧ _
  unfold execFailoverResume
  rw [hname]
  dsimp only
  rw [hpaused, hc, hpark, if_neg (by decide), hmode]
  refine ⟨_, rfl, by rw [State.irq_hub]; rfl, ?_⟩
  rw [State.get_irq _ _ _ _ _ (by decide) (by decide)]
  rw [State.hubf_get, State.get_put_page _ _ _ _ _ (by decide) (by decide), State.get_put_self _ _ _ _ (by decide)]
  exact Nat.mod_eq_of_lt (by show 2 - p < 4; omega)
end

/-! ### Accesses lost with a plane (R190)

What is lost goes to the merge with FAULT. The loss of one access leaves another that is lost so, even where both stand at one rim and the
first's settled reservation takes the other to the merge again. -/

/-- Every access of a number that is in flight is at the merge with FAULT. -/
def Lost (s : State) (q : Nat) : Prop := ∀ b ∈ s.hub.flight, b.seq = q → b.loc = .merge ∧ b.status = stFAULT

section
variable {s t : State} {q : Nat} {a : Access}

theorem Lost.of_hub (h : Lost s q) (e : t.hub.flight = s.hub.flight) : Lost t q := by
  unfold Lost
  rw [e]
  exact h
theorem mem_upd {b : Access} (h : b ∈ (s.upd a).hub.flight) : b = a ∨ b ∈ s.hub.flight ∧ b.seq ≠ a.seq := by
  obtain ⟨c, hc, hcb⟩ := List.mem_map.mp h
  split at hcb
  · exact .inl hcb.symm
  · rename_i hne
    subst hcb
    exact .inr ⟨hc, hne⟩
theorem lost_upd_self (hloc : a.loc = .merge) (hst : a.status = stFAULT) : Lost (s.upd a) a.seq := by
  intro b hb hseq
  obtain rfl | ⟨-, hne⟩ := mem_upd hb
  · exact ⟨hloc, hst⟩
  · exact (hne hseq).elim
theorem Lost.upd (h : Lost s q) (ha : a.seq = q → a.loc = .merge ∧ a.status = stFAULT) : Lost (s.upd a) q := by
  intro b hb hseq
  obtain rfl | ⟨hmem, -⟩ := mem_upd hb
  · exact ha hseq
  · exact h b hmem hseq
theorem Lost.noteWrite (h : Lost s q) (old : State) (a : Access) : Lost (s.noteWrite old a) q := by
  intro b hb
  obtain ⟨c, hc, rfl⟩ := List.mem_map.mp hb
  split <;> exact h c hc
end

/-- A state keeps what the loss of an access keeps: the registers below the INTEG page, whether the Hub sends and which change runs, and
every access that is lost. -/
structure Spares (s t : State) : Prop where
  regs : ∀ o, o < pgINTEG → t.rd o = s.rd o
  sends : t.hub.paused = s.hub.paused ∧ t.hub.change = s.hub.change
  lost : ∀ q, Lost s q → Lost t q

theorem Spares.refl (s : State) : Spares s s := ⟨fun _ _ => rfl, ⟨rfl, rfl⟩, fun _ h => h⟩
theorem Spares.trans {s t u : State} (h : Spares s t) (k : Spares t u) : Spares s u :=
  ⟨fun o ho => (k.regs o ho).trans (h.regs o ho), ⟨k.sends.1.trans h.sends.1, k.sends.2.trans h.sends.2⟩, fun q hq => k.lost q (h.lost q hq)⟩
theorem Spares.of_hub {s t : State} (hregs : ∀ o, o < pgINTEG → t.rd o = s.rd o) (hhub : t.hub = s.hub) : Spares s t :=
  ⟨hregs, by rw [hhub]; exact ⟨rfl, rfl⟩, fun _ h => h.of_hub (congrArg HubSt.flight hhub)⟩
theorem cond_spares {s : State} (c : Bool) (f : State → State) (h : Spares s (f s)) : Spares s (s.cond c f) := by
  unfold State.cond
  split
  · exact h
  · exact .refl s
theorem Spares.each {α : Type} {f : State → α → State} (h : ∀ s a, Spares s (f s a)) : ∀ (l : List α) (s : State), Spares s (s.each l f)
  | [], s => .refl s
  | a :: l, s => (h s a).trans (Spares.each h l (f s a))

section
variable (s : State) (a : Access)

theorem upd_spares (h : ∀ q, Lost s q → a.seq = q → a.loc = .merge ∧ a.status = stFAULT) : Spares s (s.upd a) :=
  ⟨fun _ _ => rfl, ⟨rfl, rfl⟩, fun q hq => hq.upd (h q hq)⟩
theorem noteWrite_spares (old : State) : Spares s (s.noteWrite old a) :=
  ⟨fun _ _ => rfl, ⟨rfl, rfl⟩, fun _ hq => hq.noteWrite old a⟩
theorem settleAcc_hub (st : Nat) : (s.settleAcc a st).hub = s.hub := by
  unfold State.settleAcc
  split <;> rfl
theorem settleAcc_spares (st : Nat) : Spares s (s.settleAcc a st) := .of_hub (fun _ _ => settleAcc_rd ..) (settleAcc_hub ..)
/-- A reservation takes its access to the merge as it stands, so a lost one with FAULT. -/
theorem writeHalf_spares (n p : Nat) : Spares s (s.writeHalf n p) := by
  unfold State.writeHalf
  split
  · exact .refl s
  · rename_i half _
    extract_lets old written freed
    have hfreed : Spares s freed := .of_hub
      (fun o ho => State.each_of (fun s => s.rd o) _ (fun s w => writeSeg_rd _ _ _ _ _ _ _ ho) _ _)
      (State.each_of State.hub _ (fun s w => hub_of_bare (writeSeg_bare ..)) _ _)
    split
    · rename_i a hfind
      have hmem : a ∈ freed.hub.flight := List.mem_of_find?_eq_some hfind
      refine ((hfreed.trans (settleAcc_spares ..)).trans (upd_spares _ _ fun q hq hseq => ⟨rfl, ?_⟩)).trans (noteWrite_spares ..)
      exact (hq a (by rwa [settleAcc_hub]) hseq).2
    · exact hfreed
theorem oneAcc_hub (n p : Nat) (tids : List Nat) (w : Option Nat) :
    (s.oneAcc n p tids w).hub = { s.hub with govStarts := s.hub.govStarts + 1 } := by
  unfold State.oneAcc
  dsimp only
  rw [State.each_of State.hub _ (fun s t => State.tidCnt_hub s t _)]
  rfl
theorem oneAcc_spares (n p : Nat) (tids : List Nat) (w : Option Nat) : Spares s (s.oneAcc n p tids w) := by
  have hhub := oneAcc_hub s n p tids w
  exact ⟨fun o ho => oneAcc_rd _ _ _ _ _ _ ho, by rw [hhub]; exact ⟨rfl, rfl⟩, fun _ h => h.of_hub (by rw [hhub])⟩
theorem countAcc_spares (n i : Nat) (tids writers : List Nat) (w : Option Nat) : Spares s (s.countAcc n i tids writers w) := by
  unfold State.countAcc
  refine cond_spares _ _ ?_
  dsimp only
  split
  · exact (oneAcc_spares ..).trans (cond_spares _ _ (oneAcc_spares ..))
  · exact oneAcc_spares ..
theorem settle_spares (n i : Nat) : Spares s (s.settle n i) := by
  unfold State.settle
  dsimp only
  split
  · exact .refl s
  · exact (writeHalf_spares ..).trans (countAcc_spares ..)
theorem loseHalf_spares : Spares s (s.loseHalf a) := by
  have hdraw : Spares s s.draw.2 := .of_hub (fun _ _ => rfl) rfl
  unfold State.loseHalf
  dsimp only
  split
  · exact hdraw.trans (settle_spares ..)
  · refine Spares.trans ?_ (settleAcc_spares ..)
    exact hdraw.trans (.of_hub (fun _ _ => State.rim_rd ..) (State.rim_hub ..))
theorem takeBack_spares (u : Undo) : Spares s (s.takeBack u) := by
  unfold State.takeBack
  split
  · exact .of_hub (fun _ _ => rfl) rfl
  · exact .refl s
theorem unknownWrite_spares : Spares s (s.unknownWrite a) := by
  have hdraw : Spares s s.draw.2 := .of_hub (fun _ _ => rfl) rfl
  unfold State.unknownWrite
  split
  · exact .refl s
  · dsimp only
    refine hdraw.trans (Spares.each (fun s u => ?_) _ _)
    exact cond_spares _ _ (takeBack_spares s u)
theorem occDown_spares (t : Nat) : Spares s (s.occDown t) := cond_spares _ _ (.of_hub (fun _ _ => rfl) rfl)

/-- An access as it is lost: at the merge, with FAULT and no data. -/
def Access.lost (a : Access) : Access :=
  { a with loc := .merge, status := stFAULT, pmask := 0, segs := a.segs.map (fun x => { x with data := 0 }), undo := [], sent := false }
theorem loseAccess_last : ∃ u, Spares s u ∧ s.loseAccess a = (u.upd a.lost).occDown a.tid := by
  refine ⟨_, ?_, rfl⟩
  split
  · exact loseHalf_spares ..
  · exact (cond_spares _ _ (unknownWrite_spares ..)).trans (settleAcc_spares ..)
theorem loseAccess_spares : Spares s (s.loseAccess a) := by
  obtain ⟨u, hu, hlose⟩ := loseAccess_last s a
  rw [hlose]
  exact (hu.trans (upd_spares _ _ fun _ _ _ => ⟨rfl, rfl⟩)).trans (occDown_spares ..)
theorem loseAccess_lost : Lost (s.loseAccess a) a.seq := by
  obtain ⟨u, -, hlose⟩ := loseAccess_last s a
  rw [hlose]
  exact (occDown_spares ..).lost _ (lost_upd_self (a := a.lost) rfl rfl)
end
/-- The loss of each access of a list: none of them is taken back by the loss of those after it. -/
theorem each_lost (l : List Access) (s : State) {a : Access} (hmem : a ∈ l) : Lost (s.each l State.loseAccess) a.seq := by
  induction l generalizing s with
  | nil => cases hmem
  | cons c l ih =>
    show Lost ((s.loseAccess c).each l State.loseAccess) a.seq
    obtain rfl | htail := List.mem_cons.mp hmem
    · exact (Spares.each loseAccess_spares l (s.loseAccess a)).lost _ (loseAccess_lost s a)
    · exact ih (s.loseAccess c) htail

/-! ### A hard fault of a plane (R189) -/

theorem recordFault_hub (s : State) (kind cause layer unit : Nat) : (s.recordFault kind cause layer unit).hub = s.hub := State.irq_hub ..
/-- A fault is recorded on the INTEG page. -/
theorem recordFault_rd (s : State) (kind cause layer unit : Nat) {o : Nat} (h : o < pgINTEG) :
    (s.recordFault kind cause layer unit).rd o = s.rd o := by
  have hne (k : Nat) : o ≠ pgINTEG + k := by omega
  unfold State.recordFault State.put64
  dsimp only
  rw [State.irq_rd _ _ _ _ (hne _) (.inl (Nat.lt_trans h (by decide))), State.bumpSat_rd _ _ (hne _), State.rd_wr_of_ne _ _ (hne _),
    State.rd_wr_of_ne _ _ (hne _), State.rd_wr_of_ne _ _ (hne _)]
theorem onPlane_congr {s t : State} (h : t.get pgHUB HUB_PLANE_STAT_MODE = s.get pgHUB HUB_PLANE_STAT_MODE) (p : Nat) :
    onPlane t p = onPlane s p := by
  unfold onPlane
  rw [h]

/-- Plane p is in service, and the other one works. -/
structure BothWork (s : State) (p : Nat) : Prop where
  index : p < 2
  notFailed : planeState s p ≠ 3
  notOffline : planeState s p ≠ 2
  other : planeState s (1 - p) < 2
  running : parked s = false

/-- Plane p has failed over to the other one: as R189 gives, with what was lost at the merge. -/
structure HasFailed (s : State) (p : Nat) (t : State) : Prop where
  failed : planeState t p = 3
  active : planeState t (1 - p) = 0
  paused : t.hub.paused = true
  change : t.hub.change = none
  count : t.get pgHUB HUB_PLANE_STAT_FO_CNT = min (s.get pgHUB HUB_PLANE_STAT_FO_CNT + 1) 255
  lost : ∀ a ∈ s.hub.flight, onPlane s p a = true → Lost t a.seq

/-- A fault of plane p with a cause recorded and its state put, before the other plane takes over. -/
def State.planeFailed (s : State) (p cause : Nat) : State := (s.recordFault 4 cause 0 p).setPlane p 3
/-- Plane p failed and the other one ACTIVE, before the accesses of a list are lost. -/
def State.takenOver (s : State) (p cause : Nat) (lost : List Access) : State :=
  let s := (s.planeFailed p cause).wr (pgHUB + HUB_FO_LAST) (BitVec.ofNat 32 (p * 2 ^ 31 + 2 ^ 28))
  let s := (s.setPlane (1 - p) 0).bumpSat pgHUB HUB_PLANE_STAT_FO_CNT
  (s.hubf fun h => { h with paused := true, change := none, changeAt := s.now }).bumpSat pgHUB HUB_FO_LOST_COUNT lost.length

section
variable {s : State} {p : Nat} (cause : Nat)

theorem planeFailed_hub : (s.planeFailed p cause).hub = s.hub := recordFault_hub ..
theorem planeState_planeFailed_self : planeState (s.planeFailed p cause) p = 3 := planeState_setPlane_self _ p (by decide)
theorem planeState_planeFailed_other (hp : p < 2) : planeState (s.planeFailed p cause) (1 - p) = planeState s (1 - p) := by
  have hother := planeState_setPlane_other (s.recordFault 4 cause 0 p) (p := 1 - p) (by omega) 3
  rw [show 1 - (1 - p) = p by omega] at hother
  exact hother.trans (planeState_of_rd (recordFault_rd _ _ _ _ _ (by decide)) _)
theorem planeFailed_get {f : Fld} (hoff : f.off = HUB_PLANE_STAT) (hbits : f.hi < 4 ∨ 11 < f.lo) :
    (s.planeFailed p cause).get pgHUB f = s.get pgHUB f :=
  (setPlane_get _ _ _ _ hbits).trans (planeStat_get (recordFault_rd _ _ _ _ _ (by decide)) f hoff)
theorem planeDown_takesOver (h : BothWork s p) : s.planeDown p cause =
    (s.takenOver p cause (s.hub.flight.filter (onPlane s p))).each (s.hub.flight.filter (onPlane s p)) State.loseAccess := by
  have hlost : (s.planeFailed p cause).hub.flight.filter (onPlane (s.planeFailed p cause) p) = s.hub.flight.filter (onPlane s p) := by
    rw [planeFailed_hub, onPlane_congr (planeFailed_get cause rfl (by decide))]
  have hother := planeState_planeFailed_other (s := s) cause h.index
  have hindex := h.index
  have hworks := h.other
  unfold State.planeDown
  extract_lets q st down last lost taken paused counted
  rw [if_neg (by rw [h.running]; simpa [st] using ⟨by omega, h.notFailed⟩), if_neg h.notOffline,
    if_neg (by show ¬ 1 < planeState (s.planeFailed p cause) (1 - p); omega)]
  unfold counted paused taken lost
  rw [show down = s.planeFailed p cause from rfl, hlost]
  rfl
/-- A plane that is FAILED fails no second time. -/
theorem planeDown_failed (h : planeState s p = 3) : s.planeDown p cause = s := by
  unfold State.planeDown
  exact if_pos (.inr (.inl h))

variable (lost : List Access)

theorem takenOver_sends : (s.takenOver p cause lost).hub.paused = true ∧ (s.takenOver p cause lost).hub.change = none := by
  unfold State.takenOver
  exact ⟨rfl, rfl⟩
/-- PLANE_STAT as plane p fails and the other one takes over: the two states and FO_CNT change. -/
theorem takenOver_planeStat : (s.takenOver p cause lost).rd (pgHUB + HUB_PLANE_STAT) =
    ((((s.planeFailed p cause).wr (pgHUB + HUB_FO_LAST) (BitVec.ofNat 32 (p * 2 ^ 31 + 2 ^ 28))).setPlane (1 - p) 0).bumpSat pgHUB
      HUB_PLANE_STAT_FO_CNT).rd (pgHUB + HUB_PLANE_STAT) := by
  unfold State.takenOver
  dsimp only
  rw [State.bumpSat_rd _ _ (by decide), State.hubf_rd]
theorem last_planeStat (s : State) (w : Word32) : (s.wr (pgHUB + HUB_FO_LAST) w).rd (pgHUB + HUB_PLANE_STAT) = s.rd (pgHUB + HUB_PLANE_STAT) :=
  State.rd_wr_of_ne _ _ (by decide)
theorem takenOver_failed (hp : p < 2) : planeState (s.takenOver p cause lost) p = 3 := by
  rw [planeState_of_rd (takenOver_planeStat ..), State.bumpSat, planeState_put _ _ _ _ (by decide) (by decide),
    planeState_setPlane_other _ hp, planeState_of_rd (last_planeStat ..)]
  exact planeState_planeFailed_self cause
theorem takenOver_active : planeState (s.takenOver p cause lost) (1 - p) = 0 := by
  rw [planeState_of_rd (takenOver_planeStat ..), State.bumpSat, planeState_put _ _ _ _ (by decide) (by decide),
    planeState_setPlane_self _ _ (by decide)]
theorem takenOver_count : (s.takenOver p cause lost).get pgHUB HUB_PLANE_STAT_FO_CNT =
    min (s.get pgHUB HUB_PLANE_STAT_FO_CNT + 1) 255 := by
  rw [planeStat_get (takenOver_planeStat ..) _ rfl, State.get_bumpSat_self _ _ _ _ (by decide), setPlane_get _ _ _ _ (by decide),
    planeStat_get (last_planeStat ..) _ rfl, planeFailed_get cause rfl (by decide)]
  rfl

/-- A plane in service fails over to the other one, whatever the cause. -/
theorem planeDown_hasFailed (h : BothWork s p) : HasFailed s p (s.planeDown p cause) := by
  rw [planeDown_takesOver cause h]
  generalize hl : s.hub.flight.filter (onPlane s p) = lost
  have hspares : Spares (s.takenOver p cause lost) ((s.takenOver p cause lost).each lost State.loseAccess) := .each loseAccess_spares _ _
  have hstat := hspares.regs (pgHUB + HUB_PLANE_STAT) (by decide)
  obtain ⟨hpaused, hchange⟩ := hspares.sends
  obtain ⟨hsending, hended⟩ := takenOver_sends (s := s) (p := p) cause lost
  exact {
    failed := (planeState_of_rd hstat p).trans (takenOver_failed cause lost h.index)
    active := (planeState_of_rd hstat (1 - p)).trans (takenOver_active cause lost)
    paused := hpaused.trans hsending
    change := hchange.trans hended
    count := (planeStat_get hstat _ rfl).trans (takenOver_count cause lost)
    lost := fun a ha hon => each_lost lost _ (by rw [← hl]; exact List.mem_filter.mpr ⟨ha, hon⟩) }
end

/-! ### The fault command (R189, R466) -/

/-- The mismatches of a plane noted, and counted in XPORT_CNT. -/
def State.mismatchNoted (s : State) (p n : Nat) : State :=
  let l := (Sp.get [] s.integ.mism p).filter (fun t => decide (s.now < t + 100000)) ++ List.replicate n s.now
  ({ s with integ := { s.integ with mism := Sp.set s.integ.mism p l } } : State).bumpSat pgINTEG (.word INTEG_XPORT_CNT) n
theorem mismatchNoted_rd (s : State) (p n : Nat) {o : Nat} (h : o ≠ pgINTEG + INTEG_XPORT_CNT) : (s.mismatchNoted p n).rd o = s.rd o :=
  State.bumpSat_rd _ _ h
/-- A mismatch of the CRC is counted, and too many are a fault of the plane with cause 4. -/
theorem mismatch_cases (s : State) (p n : Nat) :
    s.mismatch p n = s.mismatchNoted p n ∨ s.mismatch p n = (s.mismatchNoted p n).planeDown p 4 := by
  unfold State.mismatch
  extract_lets l noted
  unfold State.cond
  split
  · exact .inr rfl
  · exact .inl rfl
theorem BothWork.noted {s : State} {p : Nat} (h : BothWork s p) (n : Nat) : BothWork (s.mismatchNoted p n) p := by
  have hstate (q : Nat) : planeState (s.mismatchNoted p n) q = planeState s q := planeState_of_rd (mismatchNoted_rd _ _ _ (by decide)) q
  have hmode : (s.mismatchNoted p n).get pgHUB HUB_PLANE_STAT_MODE = s.get pgHUB HUB_PLANE_STAT_MODE :=
    planeStat_get (mismatchNoted_rd _ _ _ (by decide)) _ rfl
  have hlife : lcState (s.mismatchNoted p n) = lcState s := congrArg TEST_LC_STAT_STATE.of (mismatchNoted_rd _ _ _ (by decide))
  refine ⟨h.index, ?_, ?_, ?_, ?_⟩
  · rw [hstate]; exact h.notFailed
  · rw [hstate]; exact h.notOffline
  · rw [hstate]; exact h.other
  · unfold parked
    rw [hmode, hlife]
    exact h.running
theorem HasFailed.of_noted {s t : State} {p n : Nat} (h : HasFailed (s.mismatchNoted p n) p t) : HasFailed s p t := by
  have hstat : (s.mismatchNoted p n).rd (pgHUB + HUB_PLANE_STAT) = s.rd (pgHUB + HUB_PLANE_STAT) := mismatchNoted_rd _ _ _ (by decide)
  exact { h with
    count := by rw [h.count, planeStat_get hstat _ rfl]
    lost := fun a ha hon => h.lost a ha (by rwa [onPlane_congr (planeStat_get hstat _ rfl)]) }
theorem planeFault_hasFailed {s : State} {p : Nat} (cause m : Nat) (h : BothWork s p) :
    ∃ t, exec (.planeFault p cause m) s = .next t ∧ HasFailed s p t := by
  have hindex := h.index
  refine ⟨(s.mismatch p (min m 17)).planeDown p cause, if_neg (by omega), ?_⟩
  have hnoted := h.noted (min m 17)
  obtain hm | hm := mismatch_cases s p (min m 17)
  · rw [hm]
    exact (planeDown_hasFailed cause hnoted).of_noted
  · have hfailed := planeDown_hasFailed 4 hnoted
    rw [hm, planeDown_failed cause hfailed.failed]
    exact hfailed.of_noted

/-- Settles O7: what a fault leaves, and the change that each write of PLANE_CTL begins, refuses or ends. -/
theorem planeChanges : Obligations.PlaneChanges := by
  refine ⟨?fault, fun s p hp hs hq hpaused hc hpark => failoverResume_resumes hp hs hq hpaused hc hpark, ?takeOut, ?comeBack, ?refused, ?done⟩
  case fault =>
    intro s p cause m hp h3 h2 hq hpark
    obtain ⟨t, hexec, h⟩ := planeFault_hasFailed cause m ⟨hp, h3, h2, hq, hpark⟩
    exact ⟨t, hexec, h.failed, h.active, h.paused, h.change, h.count, h.lost⟩
  case takeOut =>
    intro s m p hw hp hs hq hc hpaused
    refine ⟨s.planeChange p true, ?_, planeState_planeChange s p true, rfl, rfl⟩
    rw [exec_planeTakeOut hw hp hs, hc, hpaused, hq]
    rfl
  case comeBack =>
    intro s m p hw hp hs hc hpaused
    refine ⟨s.planeChange p false, ?_, planeState_planeChange s p false, rfl, rfl⟩
    rw [exec_planeReturn hw hp hs, hc, hpaused]
    rfl
  case refused =>
    intro s m p hw hp hs hc
    refine ⟨s.planeRefused m, ?_, (planeState_planeRefused s m p).trans hs, planeRefused_hub s m, planeRefused_flag s m⟩
    rw [exec_planeTakeOut hw hp hs, hc]
    rfl
  case done =>
    intro s p out hc hsent
    have hhub := planeChanged_hub s p out
    exact ⟨_, exec_planeChangeDone hc hsent, planeState_planeChanged s p out, by rw [hhub], by rw [hhub], planeChanged_mode s p out⟩

end Sys2Proof.Machine

/-! PROOFS. The commands of regulation (spec/07_regulation.md R200 to R221). Each write is its own meaning once the gate is open; the fields of
the REGUL page that it puts lie apart, and those of the TID table and of the snapshot window lie above the page's controls. -/
namespace Sys2Proof.Machine

/-! ### Fields put and lowered -/

/-- A field reads back a value that fits it. -/
theorem State.get_put_of_lt (s : State) (a : Nat) {f : Fld} {v : Nat} (h : f.fits) (hv : v < 2 ^ (f.hi + 1 - f.lo)) :
    (s.put a f v).get a f = v := (State.get_put_self s a f v h).trans (Nat.mod_eq_of_lt hv)
/-- A field of an entry reads back the same field of the word written. -/
theorem State.get_put_of (s : State) (a : Nat) (f : Fld) (n k : Nat) (w : Word32) (h : f.fits) :
    (s.put a (f.at n k) (f.of w)).get a (f.at n k) = f.of w := State.get_put_of_lt s a (Fld.at_fits n k h) (Fld.of_lt f w)
/-- Another field of the same word of a table keeps its value. -/
theorem State.get_put_bits (s : State) (a n k v : Nat) {f g : Fld} (h : f.fits) (d : g.hi < f.lo ∨ f.hi < g.lo) :
    (s.put a (f.at n k) v).get a (g.at n k) = s.get a (g.at n k) :=
  State.get_put_page _ _ _ _ _ (Fld.at_fits n k h) (.inr (Fld.at_apart n k d))
theorem State.get_drop_self (s : State) (a : Nat) {f : Fld} (n : Nat) (h : f.fits) : (s.drop a f n).get a f = s.get a f - n :=
  State.get_put_of_lt s a h (Nat.lt_of_le_of_lt (Nat.sub_le ..) (State.get_lt s a f))
/-- The entries of a sparse map changed alike, its default with them. -/
theorem Sp.get_map {α : Type} (f : α → α) (d : α) (a : Nat) : ∀ m : Sp α,
    Sp.get (f d) (m.map fun e => (e.1, f e.2)) a = f (Sp.get d m a)
  | [] => rfl
  | (k, v) :: m => by
    simp only [List.map_cons, Sp.get, Sp.get_map f d a m]
    split
    · rfl
    · split <;> rfl

theorem State.withRegul_get (s : State) (r : RegulSt) (b : Nat) (f : Fld) : ({ s with regul := r } : State).get b f = s.get b f := rfl
theorem State.put64_regul (s : State) (lo hi v : Nat) : (s.put64 lo hi v).regul = s.regul := rfl

/-! ### Window boundaries and arbiters (R200, R201, R206) -/
section
variable {s : State} {m : Master} {t : Nat}

theorem exec_regulationWindowBoundary (ht : t < 64) (hb : Sp.get 0 s.regul.lastWin t / windowTicks s t < s.now / windowTicks s t) :
    exec (.regulationWindowBoundary t) s = .next
      ((s.drop pgREGUL (REGUL_TSPENT_SPENT.at 16 t) (s.get pgREGUL (REGUL_TBUD_BUDGET.at 16 t))).winFrom t) := by
  have hdue : ¬ (64 ≤ t ∨ s.now / windowTicks s t ≤ Sp.get 0 s.regul.lastWin t / windowTicks s t) := by omega
  exact if_neg hdue
theorem winFrom_get (s : State) (t b : Nat) (f : Fld) : (s.winFrom t).get b f = s.get b f := rfl
theorem exec_brakeStateArrival {arb : Nat} (ht : t < 64) (ha : arb < arbCount) : exec (.brakeStateArrival t arb) s = .next
    { s with regul := { s.regul with seen := Sp.set s.regul.seen (arb * 64 + t) (braked s t, tidClass s t) } } :=
  if_neg (by omega)

/-! ### The TID table (R209, R218) -/

theorem exec_tidConfigWrite {bud : Bool} (v : Word32)
    (hw : mayWrite s m pgREGUL ((if bud then REGUL_TBUD else REGUL_TCFG) + 16 * (t % 64)) true = true) :
    exec (.tidConfigWrite m t bud v) s = .next (
      if regLocked s then s.lockViol m ((if bud then REGUL_TBUD else REGUL_TCFG) + 16 * (t % 64))
      else if bud then s.wr (pgREGUL + ((if bud then REGUL_TBUD else REGUL_TCFG) + 16 * (t % 64))) v
      else s.tcfgWrite (t % 64) v) := congrArg Host.Outcome.next (State.gate_open _ _ _ _ _ _ hw)
theorem exec_tidConfigWrite_budget (v : Word32) (hw : mayWrite s m pgREGUL (REGUL_TBUD + 16 * (t % 64)) true = true)
    (hfree : regLocked s = false) :
    exec (.tidConfigWrite m t true v) s = .next (s.wr (pgREGUL + (REGUL_TBUD + 16 * (t % 64))) v) := by
  rw [exec_tidConfigWrite v hw, hfree]
  rfl
theorem exec_tidConfigWrite_config (v : Word32) (hw : mayWrite s m pgREGUL (REGUL_TCFG + 16 * (t % 64)) true = true)
    (hfree : regLocked s = false) : exec (.tidConfigWrite m t false v) s = .next (s.tcfgWrite (t % 64) v) := by
  rw [exec_tidConfigWrite v hw, hfree]
  rfl
theorem exec_tidConfigWrite_locked (v : Word32) (hw : mayWrite s m pgREGUL (REGUL_TCFG + 16 * (t % 64)) true = true)
    (hlock : regLocked s = true) :
    exec (.tidConfigWrite m t false v) s = .next (s.lockViol m (REGUL_TCFG + 16 * (t % 64))) := by
  rw [exec_tidConfigWrite v hw, hlock]
  rfl
/-- A budget is its whole word. -/
theorem budget_wr (s : State) (t : Nat) (v : Word32) :
    (s.wr (pgREGUL + (REGUL_TBUD + 16 * t)) v).get pgREGUL (REGUL_TBUD_BUDGET.at 16 t) = v.toNat := by
  show Fld.of _ (State.rd _ (pgREGUL + (REGUL_TBUD + 16 * t))) = _
  rw [State.rd_wr_self]
  exact Nat.mod_eq_of_lt v.isLt
/-- The fields that a write of TCFGt puts whatever it holds. -/
def State.tcfgPut (s : State) (t : Nat) (v : Word32) : State :=
  ((s.put pgREGUL (REGUL_TCFG_FORCE.at 16 t) (REGUL_TCFG_FORCE.of v)).put pgREGUL (REGUL_TCFG_SHARE.at 16 t) (REGUL_TCFG_SHARE.of v)).put
    pgREGUL (REGUL_TCFG_CLASS.at 16 t) (REGUL_TCFG_CLASS.of v)
/-- Only the window of the entry is written after them. -/
theorem tcfgWrite_get (s : State) (t : Nat) (v : Word32) {f : Fld} (hwin : REGUL_TCFG_WIN_M1.hi < f.lo) :
    (s.tcfgWrite t v).get pgREGUL (f.at 16 t) = (s.tcfgPut t v).get pgREGUL (f.at 16 t) := by
  unfold State.tcfgWrite
  extract_lets forced shared classed below regul noted
  have hnoted : noted.get pgREGUL (f.at 16 t) = classed.get pgREGUL (f.at 16 t) := State.withRegul_get classed ..
  split
  · exact hnoted
  · rw [winFrom_get, State.get_put_bits _ _ _ _ _ (f := REGUL_TCFG_WIN_M1) (by decide) (.inr hwin)]
    exact hnoted
theorem tcfgWrite_class (s : State) (t : Nat) (v : Word32) :
    (s.tcfgWrite t v).get pgREGUL (REGUL_TCFG_CLASS.at 16 t) = REGUL_TCFG_CLASS.of v := by
  rw [tcfgWrite_get s t v (by decide)]
  exact State.get_put_of _ _ REGUL_TCFG_CLASS _ _ _ (by decide)
theorem tcfgWrite_share (s : State) (t : Nat) (v : Word32) :
    (s.tcfgWrite t v).get pgREGUL (REGUL_TCFG_SHARE.at 16 t) = REGUL_TCFG_SHARE.of v := by
  rw [tcfgWrite_get s t v (by decide), State.tcfgPut, State.get_put_bits _ _ _ _ _ (f := REGUL_TCFG_CLASS) (by decide) (by decide)]
  exact State.get_put_of _ _ REGUL_TCFG_SHARE _ _ _ (by decide)
theorem tcfgWrite_force (s : State) (t : Nat) (v : Word32) :
    (s.tcfgWrite t v).get pgREGUL (REGUL_TCFG_FORCE.at 16 t) = REGUL_TCFG_FORCE.of v := by
  rw [tcfgWrite_get s t v (by decide), State.tcfgPut, State.get_put_bits _ _ _ _ _ (f := REGUL_TCFG_CLASS) (by decide) (by decide),
    State.get_put_bits _ _ _ _ _ (f := REGUL_TCFG_SHARE) (by decide) (by decide)]
  exact State.get_put_of _ _ REGUL_TCFG_FORCE _ _ _ (by decide)
/-- A control of the REGUL page that a refused write sets, such as LOCK_VIOL, reads 1. -/
theorem refused_put_flag (s : State) (m : Master) (reg : Nat) {f : Fld} (hf : f.fits) (hone : f.hi = f.lo) (hoff : 0x40 ≤ f.off) :
    ((s.put pgREGUL f 1).refused m pgREGUL reg).flag pgREGUL f = true :=
  (State.flag_congr (State.refused_get _ _ _ _ _ hoff)).trans (State.flag_put_self s _ _ true hf hone)
theorem lockViol_flag (s : State) (m : Master) (reg : Nat) : (s.lockViol m reg).flag pgREGUL REGUL_REGUL_CTL_LOCK_VIOL = true :=
  refused_put_flag s m reg (by decide) rfl (by decide)
/-- What LOCK protects: the words above REGUL_CTL. -/
theorem lockViol_rd (s : State) (m : Master) (reg : Nat) {o : Nat} (ho : REGUL_REGUL_CTL < o) :
    (s.lockViol m reg).rd (pgREGUL + o) = s.rd (pgREGUL + o) := by
  simp only [REGUL_REGUL_CTL] at ho
  unfold State.lockViol
  rw [State.refused_rd _ _ _ _ _ (by simp only [HDR_ERR_INFO]; omega) (by simp only [HDR_ERR_ADDR]; omega)
      (by simp only [HDR_VIOL_CNT]; omega),
    State.rd_put_of_ne _ _ (by simp only [REGUL_REGUL_CTL_LOCK_VIOL]; omega)]

/-! ### Steps and preemptions (R211, R212) -/

theorem exec_stepWrite (step : Nat) (hw : mayWrite s m pgREGUL (REGUL_TSTEP + 16 * (t % 64)) true = true) :
    exec (.stepWrite m t step) s = .next (s.put pgREGUL (REGUL_TSTEP_STEP.at 16 (t % 64)) step) :=
  congrArg Host.Outcome.next (State.gate_open _ _ _ _ _ _ hw)
/-- STEP of every TID lies above the page's controls. -/
theorem tidStep_put (s : State) (t : Nat) {f : Fld} (v : Nat) (hf : f.fits) (hoff : f.off < REGUL_TCFG) :
    tidStep (s.put pgREGUL f v) t = tidStep s t := by
  refine State.get_put_page _ _ _ _ _ hf (.inl ?_)
  simp only [REGUL_TCFG, REGUL_TSTEP_STEP] at *
  omega
theorem exec_preemptWrite (hw : mayWrite s m pgREGUL REGUL_PREEMPT true = true) :
    exec (.preemptWrite m t) s = .next ((s.wr (pgREGUL + REGUL_PREEMPT) (BitVec.ofNat 32 (t % 64))).tidCnt (t % 64)
      fun c => { c with preempt := sat32 (c.preempt + 1) }) := congrArg Host.Outcome.next (State.gate_open _ _ _ _ _ _ hw)

/-! ### The snapshot (R216, R221) -/

/-- SNAP_CTL as a snapshot of TID t begins. -/
def State.snapCtl (s : State) (t : Nat) (clrh : Bool) : State :=
  ((s.put pgREGUL REGUL_SNAP_CTL_TID t).put pgREGUL REGUL_SNAP_CTL_CLRH (b2n clrh)).put pgREGUL REGUL_SNAP_CTL_BUSY 1
/-- The state in which the counters of TID t are frozen. -/
def State.snapFrozen (s : State) (t : Nat) (clrh : Bool) : State :=
  let s := s.snapCtl t clrh
  let s := { s with regul := { s.regul with snap := some (t, tidStep s t, s.now, tidOf s t) } }
  s.cond clrh fun s => s.tidCnt t fun c => { c with hist := [] }
theorem exec_snapshotGo_idle (clrh : Bool) (hw : mayWrite s m pgREGUL REGUL_SNAP_CTL false = true) (hidle : s.regul.snap = none) :
    exec (.snapshotGo m t clrh) s = .next (s.snapFrozen (t % 64) clrh) := by
  show execSnapshotGo m t clrh s = _
  unfold execSnapshotGo
  rw [State.gate_open _ _ _ _ _ _ hw, hidle]
  rfl
theorem exec_snapshotGo_busy (clrh : Bool) (hw : mayWrite s m pgREGUL REGUL_SNAP_CTL false = true) (hbusy : s.regul.snap.isSome = true) :
    exec (.snapshotGo m t clrh) s = .next ((s.put pgREGUL REGUL_SNAP_CTL_SNAP_OVR 1).refused m pgREGUL REGUL_SNAP_CTL) := by
  show execSnapshotGo m t clrh s = _
  unfold execSnapshotGo
  rw [State.gate_open _ _ _ _ _ _ hw, hbusy]
  rfl
theorem snapFrozen_get (s : State) (t : Nat) (clrh : Bool) (b : Nat) (f : Fld) :
    (s.snapFrozen t clrh).get b f = (s.snapCtl t clrh).get b f := by
  unfold State.snapFrozen
  rw [State.cond_get, State.tidCnt_get, ite_self]
  exact State.withRegul_get (s.snapCtl t clrh) ..
theorem snapFrozen_busy (s : State) (t : Nat) (clrh : Bool) : (s.snapFrozen t clrh).flag pgREGUL REGUL_SNAP_CTL_BUSY = true :=
  (State.flag_congr (snapFrozen_get ..)).trans (State.flag_put_self _ _ _ true (by decide) rfl)
theorem tidStep_snapCtl (s : State) (t : Nat) (clrh : Bool) (k : Nat) : tidStep (s.snapCtl t clrh) k = tidStep s k := by
  unfold State.snapCtl
  rw [tidStep_put _ _ _ (by decide) (by decide), tidStep_put _ _ _ (by decide) (by decide), tidStep_put _ _ _ (by decide) (by decide)]
/-- CLRH clears the histogram after its counts are frozen. -/
theorem snapFrozen_snap (s : State) (t : Nat) (clrh : Bool) :
    (s.snapFrozen t clrh).regul.snap = some (t, tidStep s t, s.now, tidOf s t) := by
  rw [← tidStep_snapCtl s t clrh]
  cases clrh <;> rfl

/-- The words of the snapshot window that hold the time and the 64-bit counters. -/
def snapCounters (time : Nat) (c : TidCnt) : List (Nat × Nat) :=
  [(REGUL_SNAP_TIME, time), (REGUL_SNAP_SEGRD, c.segRd), (REGUL_SNAP_SEGWR, c.segWr), (REGUL_SNAP_RIMACC, c.rimAcc),
    (REGUL_SNAP_GRANTS, c.grants), (REGUL_SNAP_WAIT, c.waitSum), (REGUL_SNAP_BRAKE, c.brakeT), (REGUL_SNAP_DISPL, c.displ)]
/-- The snapshot copied into its window. -/
def State.snapWindow (s : State) (t step time : Nat) (c : TidCnt) : State :=
  let s := s.wr (pgREGUL + REGUL_SNAP_HDR) (BitVec.ofNat 32 (2 ^ 31 + step % 2 ^ 16 * 2 ^ 8 + t))
  let s := s.wr (pgREGUL + REGUL_SNAP_PRE) (BitVec.ofNat 32 c.preempt)
  let s := s.each (snapCounters time c) fun s e => s.put64 (pgREGUL + e.1) (pgREGUL + e.1 + 4) e.2
  s.each (List.range 16) fun s b => s.wr (pgREGUL + REGUL_SNAP_HIST + 4 * b) (BitVec.ofNat 32 (c.hist.getD b 0))
theorem exec_snapshotDone {step time : Nat} {c : TidCnt} (h : s.regul.snap = some (t, step, time, c)) : exec .snapshotDone s =
    .next ((({ s with regul := { s.regul with snap := none } } : State).put pgREGUL REGUL_SNAP_CTL_BUSY 0).snapWindow t step time c) := by
  show execSnapshotDone s = _
  unfold execSnapshotDone
  rw [h]
  rfl
end
theorem snapCounters_above (time : Nat) (c : TidCnt) : ∀ e ∈ snapCounters time c, REGUL_SNAP_HDR ≤ e.1 := by
  have hall : (snapCounters time c).all (fun e => decide (REGUL_SNAP_HDR ≤ e.1)) = true := rfl
  exact fun e he => of_decide_eq_true (List.all_eq_true.mp hall e he)
/-- The window begins at SNAP_HDR. -/
theorem snapWindow_rd (s : State) (t step time : Nat) (c : TidCnt) {o : Nat} (ho : o < pgREGUL + REGUL_SNAP_HDR) :
    (s.snapWindow t step time c).rd o = s.rd o := by
  have hout {reg : Nat} (h : REGUL_SNAP_HDR ≤ reg) : o ≠ pgREGUL + reg := by omega
  unfold State.snapWindow
  refine (State.each_of (State.rd · o) _ (fun s b => State.rd_wr_of_ne _ _ ?_) _ _).trans
    ((State.each_mem (State.rd · o) _ _ (fun s e he => ?_) _).trans ?_)
  · rw [Nat.add_assoc]
    exact hout (by simp only [REGUL_SNAP_HDR, REGUL_SNAP_HIST]; omega)
  · have hreg := snapCounters_above time c e he
    exact (State.rd_wr_of_ne _ _ (by rw [Nat.add_assoc]; exact hout (by omega))).trans (State.rd_wr_of_ne _ _ (hout hreg))
  · rw [State.rd_wr_of_ne _ _ (hout (by decide)), State.rd_wr_of_ne _ _ (hout (by decide))]
theorem snapWindow_regul (s : State) (t step time : Nat) (c : TidCnt) : (s.snapWindow t step time c).regul = s.regul := by
  unfold State.snapWindow
  rw [State.each_of State.regul _ (fun s b => State.wr_regul s _ _), State.each_of State.regul _ (fun s e => State.put64_regul s _ _ _),
    State.wr_regul, State.wr_regul]
theorem snapWindow_flag (s : State) (t step time : Nat) (c : TidCnt) {f : Fld} (hoff : f.off < REGUL_SNAP_HDR) :
    (s.snapWindow t step time c).flag pgREGUL f = s.flag pgREGUL f :=
  State.flag_congr (congrArg f.of (snapWindow_rd _ _ _ _ _ (by omega)))

/-! ### Edges and the lock (R214, R218) -/
section
variable {s : State} {m : Master}

/-- The staged edges in force, and every bin cleared. -/
def State.edgesApplied (s : State) : State :=
  { s with regul := { s.regul with edges := stagedEdges s, cnt := s.regul.cnt.map fun e => (e.1, { e.2 with hist := [] }) } }
theorem exec_happly (hw : mayWrite s m pgREGUL REGUL_REGUL_CTL false = true) (hfree : regLocked s = false) :
    exec (.happly m) s = .next (if risingList (stagedEdges s) then s.edgesApplied
      else (s.put pgREGUL REGUL_REGUL_CTL_HIST_ERR 1).refused m pgREGUL REGUL_REGUL_CTL) := by
  show execHapply m s = _
  unfold execHapply
  rw [State.gate_open _ _ _ _ _ _ hw, hfree]
  rfl
theorem edgesApplied_hist (s : State) (t : Nat) : (tidOf s.edgesApplied t).hist = [] :=
  congrArg TidCnt.hist (Sp.get_map (fun c : TidCnt => { c with hist := [] }) {} t s.regul.cnt)
theorem exec_lock (hw : mayWrite s m pgREGUL REGUL_REGUL_CTL false = true) :
    exec (.lock m) s = .next (s.put pgREGUL REGUL_REGUL_CTL_LOCKED 1) := congrArg Host.Outcome.next (State.gate_open _ _ _ _ _ _ hw)
end

/-- Settles O8: what each command leaves (`exec_regulationWindowBoundary` and its like), read back field by field. -/
theorem regulationCommands : Obligations.RegulationCommands := by
  refine ⟨?window, ?arrival, ?budget, ?config, ?configLocked, ?signature, ?step, ?preempt, ?freeze, ?overrun, ?snapEnd, ?edges, ?edgesRefused, ?lock⟩
  case window =>
    intro s t ht hb
    exact ⟨_, exec_regulationWindowBoundary ht hb, State.get_drop_self s _ _ (Fld.at_fits _ _ (by decide))⟩
  case arrival =>
    intro s t arb ht ha
    exact ⟨_, exec_brakeStateArrival ht ha, Sp.get_set_self .., rfl⟩
  case budget =>
    intro s m t v hw hfree
    exact ⟨_, exec_tidConfigWrite_budget v hw hfree, budget_wr s _ v⟩
  case config =>
    intro s m t v hw hfree
    exact ⟨_, exec_tidConfigWrite_config v hw hfree, tcfgWrite_class s _ v, tcfgWrite_share s _ v, tcfgWrite_force s _ v⟩
  case configLocked =>
    intro s m t v hw hlock
    have habove : REGUL_REGUL_CTL < REGUL_TCFG + 16 * (t % 64) := Nat.lt_add_right _ (by decide)
    refine ⟨_, exec_tidConfigWrite_locked v hw hlock, lockViol_flag .., ?_⟩
    rw [Nat.add_assoc]
    exact lockViol_rd s m _ habove
  case signature =>
    intro s
    exact ⟨_, rfl, State.rd_wr_self ..⟩
  case step =>
    intro s m t step hw
    exact ⟨_, exec_stepWrite step hw, State.get_put_self _ _ _ _ (Fld.at_fits _ _ (by decide))⟩
  case preempt =>
    intro s m t hw
    refine ⟨_, exec_preemptWrite hw, ?_⟩
    rw [State.tidOf_tidCnt_self]
    rfl
  case freeze =>
    intro s m t c hw hidle
    exact ⟨_, exec_snapshotGo_idle c hw hidle, snapFrozen_busy .., snapFrozen_snap ..⟩
  case overrun =>
    intro s m t c hw hbusy
    exact ⟨_, exec_snapshotGo_busy c hw hbusy, refused_put_flag s m _ (by decide) rfl (by decide), rfl⟩
  case snapEnd =>
    intro s hbusy
    obtain ⟨⟨t, step, time, c⟩, hsnap⟩ := Option.isSome_iff_exists.mp hbusy
    refine ⟨_, exec_snapshotDone hsnap, ?_, snapWindow_regul ..⟩
    rw [snapWindow_flag _ _ _ _ _ (by decide)]
    exact State.flag_put_self _ _ _ false (by decide) rfl
  case edges =>
    intro s m hw hfree hrising
    exact ⟨_, (exec_happly hw hfree).trans (by rw [hrising]; rfl), rfl, edgesApplied_hist s⟩
  case edgesRefused =>
    intro s m hw hfree hrising
    exact ⟨_, (exec_happly hw hfree).trans (by rw [hrising]; rfl), refused_put_flag s m _ (by decide) rfl (by decide), rfl⟩
  case lock =>
    intro s m hw
    exact ⟨_, exec_lock hw, State.flag_put_self s _ _ true (by decide) rfl⟩

end Sys2Proof.Machine

/-! PROOFS. The operation queues (spec/08_inplace_work.md R236, R262, R264). The commands of a queue write its own words of the RIMALU page,
and those of RA_CTL; none of them flushes a record of an ENABLED queue, or one that has started. -/
namespace Sys2Proof.Machine

/-! ### STATE of a queue -/

theorem raState_put_apart (s : State) (q v : Nat) {f : Fld} (hf : f.fits) (d : f.off ≠ RIMALU_Q_STAT + 32 * q) :
    raState (s.put pgRIMALU f v) q = raState s q := State.get_put_page _ _ _ _ _ hf (.inl d)
theorem raState_putState (s : State) (q : Nat) {v : Nat} (hv : v < 4) : raState (s.put pgRIMALU (RIMALU_Q_STAT_STATE.at 32 q) v) q = v :=
  State.get_put_of_lt _ _ (Fld.at_fits _ _ (by decide)) hv
/-- QEN of a queue, a bit of RA_CTL. -/
theorem raState_putQen (s : State) {q : Nat} (hq : q < 4) (v k : Nat) : raState (s.put pgRIMALU ⟨RIMALU_RA_CTL, q, q⟩ v) k = raState s k :=
  raState_put_apart s k v ⟨Nat.le_refl q, Nat.lt_trans hq (by decide)⟩ (by simp only [RIMALU_RA_CTL, RIMALU_Q_STAT]; omega)

section
variable {s : State} {m : Master} {q : Nat}

/-! ### Records pushed (R236, R262) -/

/-- The words staged in OPREC0 to OPREC15. -/
def opWords (s : State) : List Nat := (List.range 16).map fun n => (s.rd (pgRIMALU + RIMALU_OPREC0 + 4 * n)).toNat
theorem exec_raPush (hw : mayWrite s m pgRIMALU RIMALU_RA_PUSH false = true) (hq : q < 4) :
    exec (.raPush m q) s = .next (match s.pushRec q (opWords s) none with
      | (true, t) => t
      | (false, t) => t.refused m pgRIMALU RIMALU_RA_PUSH) := by
  show execRaPush m q s = _
  unfold execRaPush
  rw [State.gate_open _ _ _ _ _ _ hw, Nat.mod_eq_of_lt hq]
  rfl
/-- An ENABLED queue that has room takes the record, and keeps it. -/
theorem pushRec_room (words : List Nat) (chan : Option Nat) (hs : raState s q = 1) (hroom : (raqOf s q).recs.length < 16) :
    s.pushRec q words chan = (true, s.setRaq q fun y => { y with recs := y.recs ++ [{ words := words, chan := chan }] }) := by
  unfold State.pushRec
  rw [if_neg (Nat.not_le.mpr hroom)]
  exact congrArg (Prod.mk true) (flush_enabled _ _ _ hs)
theorem pushRec_full (words : List Nat) (chan : Option Nat) (hfull : 16 ≤ (raqOf s q).recs.length) :
    s.pushRec q words chan = (false, (s.put pgRIMALU (RIMALU_Q_STAT_REJ.at 32 q) 1).irq pgRIMALU (4 + q)) := if_pos hfull
theorem raPush_appends (hw : mayWrite s m pgRIMALU RIMALU_RA_PUSH false = true) (hq : q < 4) (hs : raState s q = 1)
    (hroom : (raqOf s q).recs.length < 16) :
    ∃ t, exec (.raPush m q) s = .next t ∧ (raqOf t q).recs = (raqOf s q).recs ++ [{ words := opWords s, chan := none }] := by
  refine ⟨_, exec_raPush hw hq, ?_⟩
  rw [pushRec_room _ _ hs hroom]
  dsimp only
  rw [State.raqOf_setRaq_self]
theorem raPush_refused (hw : mayWrite s m pgRIMALU RIMALU_RA_PUSH false = true) (hq : q < 4) (hfull : 16 ≤ (raqOf s q).recs.length) :
    ∃ t, exec (.raPush m q) s = .next t ∧ t.raq = s.raq ∧ t.flag pgRIMALU (RIMALU_Q_STAT_REJ.at 32 q) = true := by
  refine ⟨_, exec_raPush hw hq, ?_⟩
  rw [pushRec_full _ _ hfull]
  dsimp only
  refine ⟨State.irq_raq .., ?_⟩
  have hirq := State.get_irq (s.put pgRIMALU (RIMALU_Q_STAT_REJ.at 32 q) 1) pgRIMALU pgRIMALU (4 + q) (RIMALU_Q_STAT_REJ.at 32 q)
    (by simp only [RIMALU_Q_STAT_REJ, HDR_IRQ_STAT]; omega) (by simp only [RIMALU_Q_STAT_REJ, pgRIMALU, pgREC]; omega)
  rw [State.flag_congr (State.refused_get _ _ _ _ _ (by simp only [RIMALU_Q_STAT_REJ]; omega)), State.flag_congr hirq]
  exact State.flag_put_self _ _ _ true (Fld.at_fits _ _ (by decide)) rfl

/-! ### QEN and the end of a drain (R262) -/

theorem exec_queueEnable (hw : mayWrite s m pgRIMALU RIMALU_RA_CTL true = true) (hq : q < 4) (hs : raState s q = 0) :
    exec (.queueEnable m q) s =
      .next ((s.put pgRIMALU ⟨RIMALU_RA_CTL, q, q⟩ 1).put pgRIMALU (RIMALU_Q_STAT_STATE.at 32 q) 1) := by
  show execQueueEnable m q s = _
  unfold execQueueEnable
  dsimp only
  rw [State.gate_open _ _ _ _ _ _ hw, Nat.mod_eq_of_lt hq, raState_putQen s hq, hs]
  rfl
theorem exec_queueDisable (hw : mayWrite s m pgRIMALU RIMALU_RA_CTL true = true) (hq : q < 4) (hs : raState s q = 1)
    (hrun : (raqOf s q).recs.all (·.started) = true) :
    exec (.queueDisable m q) s =
      .next ((s.put pgRIMALU ⟨RIMALU_RA_CTL, q, q⟩ 0).put pgRIMALU (RIMALU_Q_STAT_STATE.at 32 q) 2) := by
  show execQueueDisable m q s = _
  unfold execQueueDisable
  dsimp only
  rw [State.gate_open _ _ _ _ _ _ hw, Nat.mod_eq_of_lt hq, raState_putQen s hq, hs]
  exact congrArg Host.Outcome.next (flush_none _ _ _ hrun)
theorem exec_queueDrainDone (hq : q < 4) (hs : raState s q = 2) (hempty : (raqOf s q).recs.isEmpty = true) :
    exec (.queueDrainDone q) s =
      .next (s.put pgRIMALU (RIMALU_Q_STAT_STATE.at 32 q) (b2n (bit (s.get pgRIMALU RIMALU_RA_CTL_QEN) q))) := by
  show execQueueDrainDone q s = _
  unfold execQueueDrainDone
  dsimp only
  rw [Nat.mod_eq_of_lt hq]
  exact if_pos ⟨hs, hempty⟩
theorem b2n_lt_two (b : Bool) : b2n b < 2 := by cases b <;> decide

/-! ### Completions read (R264) -/

/-- The oldest completion entry is removed; no record is flushed from an ENABLED queue. -/
theorem popCpl_raqOf {r k : Nat} {f : Option Nat} {l : List (Nat × Nat × Option Nat)} (hs : raState s q = 1)
    (hc : (raqOf s q).cpl = (r, k, f) :: l) : raqOf (s.popCpl q) q = { raqOf s q with cpl := l } := by
  unfold State.popCpl
  rw [hc]
  dsimp only
  rw [flush_enabled]
  · exact State.raqOf_setRaq_self s q fun y => { y with cpl := l }
  · rw [raState_put_apart _ _ _ (Fld.at_fits _ _ (by decide)) (by simp only [RIMALU_Q_CPL_STEP_FAIL_STEP, RIMALU_Q_STAT]; omega),
      raState_put_apart _ _ _ (Fld.at_fits _ _ (by decide)) (by simp only [RIMALU_Q_CPL_STEP_FAILED, RIMALU_Q_STAT]; omega)]
    exact hs
theorem exec_qcplRead (hq : q < 4) (hopen : fabricOpen s m ⟨.rimalu, 0, pgRIMALU⟩ = true)
    (hpath : readPath s m ⟨.rimalu, 0, pgRIMALU⟩ = true) :
    exec (.qcplRead m q) s = .next ((s.popCpl q).answerMaster m [(qCplWord s q, 0)]) := by
  show execQcplRead m q s = _
  unfold execQcplRead
  dsimp only
  rw [hopen, hpath, Nat.mod_eq_of_lt hq]
  rfl
theorem qcplRead_answers {r k : Nat} {f : Option Nat} {l : List (Nat × Nat × Option Nat)} (hq : q < 4)
    (hopen : fabricOpen s m ⟨.rimalu, 0, pgRIMALU⟩ = true) (hpath : readPath s m ⟨.rimalu, 0, pgRIMALU⟩ = true) (hs : raState s q = 1)
    (hc : (raqOf s q).cpl = (r, k, f) :: l) :
    ∃ t, exec (.qcplRead m q) s = .next t ∧ (raqOf t q).cpl = l ∧
      Sp.get [] t.reply m.code = [(2 ^ 31 + r % 16 * 2 ^ 20 + k % 2 ^ 16, 0)] := by
  refine ⟨_, exec_qcplRead hq hopen hpath, congrArg RaQueue.cpl (popCpl_raqOf hs hc), ?_⟩
  have hword : qCplWord s q = 2 ^ 31 + r % 16 * 2 ^ 20 + k % 2 ^ 16 := by
    unfold qCplWord
    rw [hc]
  rw [← hword]
  exact Sp.get_set_self ..
end

/-- Settles O12: each command by its own equation; the state of a queue lies apart from QEN and from CPL_STEP. -/
theorem operationQueues : Obligations.OperationQueues := by
  refine ⟨fun _ _ _ => raPush_appends, fun _ _ _ => raPush_refused, ?enable, ?disable, ?drained, fun _ _ _ _ _ _ _ => qcplRead_answers⟩
  case enable =>
    intro s m q hw hq hs
    exact ⟨_, exec_queueEnable hw hq hs, raState_putState _ _ (by decide), rfl⟩
  case disable =>
    intro s m q hw hq hs hrun
    exact ⟨_, exec_queueDisable hw hq hs hrun, raState_putState _ _ (by decide), rfl⟩
  case drained =>
    intro s q hq hs hempty
    exact ⟨_, exec_queueDrainDone hq hs hempty, raState_putState _ _ (Nat.lt_trans (b2n_lt_two _) (by decide)), rfl⟩

end Sys2Proof.Machine

/-! PROOFS. An operation record as it runs and completes, and the load of a kernel slot (spec/08_inplace_work.md R242, R247, R253, R259). Nothing
that the storage array does for a record changes its queue, so its head stays the record that the command found there. -/
namespace Sys2Proof.Machine

section
variable {s : State} {q : Nat} {r : RaRec}

/-! ### Chunks and steps of a started record (R242, R259) -/

theorem exec_recordChunkAdmission (hq : q < 4) (hhead : raHead s q = some r) (hstarted : r.started = true) :
    exec (.recordChunkAdmission q) s = .next (if !r.stop ∧ r.upTo ≤ r.next ∧ r.next < r.steps ∧ r.fly.isEmpty then
      (s.nextChunk q).runChunk q else s.runChunk q) := by
  show execRecordChunkAdmission q s = _
  unfold execRecordChunkAdmission
  dsimp only
  rw [Nat.mod_eq_of_lt hq, hhead]
  dsimp only
  rw [hstarted]
  exact (apply_ite Host.Outcome.next ..).symm
/-- The next chunk asks for energy once the last one has finished, and no step of it is sent while it is not admitted. -/
theorem chunk_deferred (hq : q < 4) (hhead : raHead s q = some r) (hstarted : r.started = true) (hstop : r.stop = false)
    (hspent : r.upTo ≤ r.next) (hmore : r.next < r.steps) (hfly : r.fly = [])
    (hdeferred : (chunkOf (s.nextChunk q) (raOwner q)).any (·.adm) = false) :
    ∃ t, exec (.recordChunkAdmission q) s = .next t ∧ raHead t q = some { r with upTo := r.next + min 4096 (r.steps - r.next) } := by
  refine ⟨_, exec_recordChunkAdmission hq hhead hstarted, ?_⟩
  rw [if_pos ⟨by rw [hstop]; rfl, hspent, hmore, by rw [hfly]; rfl⟩, runChunk_deferred hdeferred, raHead_nextChunk, hhead]
  rfl
/-- A KERNEL record with an admitted chunk sends its next steps. -/
theorem chunk_sends (hq : q < 4) (hhead : raHead s q = some r) (hstarted : r.started = true) (hstop : r.stop = false)
    (hmore : r.next < r.upTo) (hkind : r.kind = 4) (hadm : (chunkOf s (raOwner q)).any (·.adm) = true) :
    ∃ t, exec (.recordChunkAdmission q) s = .next t ∧
      raHead t q = some { r with
        fly := r.fly ++ (List.range (min (64 - r.fly.length) (r.upTo - r.next))).map (r.next + ·),
        next := r.next + min (64 - r.fly.length) (r.upTo - r.next) } := by
  have hrun : s.runChunk q = s.sendSteps q := by
    unfold State.runChunk
    rw [hhead]
    dsimp only
    rw [hstarted, hadm, if_pos (by rfl), if_pos hkind]
  refine ⟨_, exec_recordChunkAdmission hq hhead hstarted, ?_⟩
  rw [if_neg (by omega), hrun, raHead_sendSteps hhead]
  simp [RaRec.sent, hstop]

/-! ### Reduce words (R253) -/

/-- The reduce words of a segment of operand B, the segment that they fill, and the mask of their bytes. -/
def RaRec.segWords (r : RaRec) (g : Nat) : List (Nat × Nat) := r.red.filter fun e => e.1 / 8 == g
def wordsData (l : List (Nat × Nat)) : BitVec 256 := BitVec.ofNat 256 (l.foldl (fun a e => a + e.2 * 2 ^ (32 * (e.1 % 8))) 0)
def wordsMask (l : List (Nat × Nat)) : BitVec 32 := BitVec.ofNat 32 (l.foldl (fun a e => a + 15 * 2 ^ (4 * (e.1 % 8))) 0)
/-- A segment that is written where its rim grants it, and meets no poison, leaves the queue of reduce words. -/
theorem exec_reduceSegmentWrite {u w : State} {g row col : Nat} {l : LineAt} (hq : q < 4) (hhead : raHead s q = some r)
    (hready : reduceReady r = some g) (hline : wordLine s r.opB (8 * g) = (l, row, col))
    (hgo : s.tryAcc (segClaim s (raUnit q (((r.segWords g).map (·.1)).headD 0)) r l.layer l.frame row col .write (wordsMask (r.segWords g))
      (r.pol s r.opB.handle)) = (.go, u))
    (hwrite : directWrite u l.layer l.frame [⟨row, col, wordsData (r.segWords g), wordsMask (r.segWords g)⟩] r.tid = (0, w)) :
    exec (.reduceSegmentWrite q) s = .next (w.headRec q fun r => { r with red := r.red.filter fun e => e.1 / 8 != g }) := by
  show execReduceSegmentWrite q s = _
  unfold execReduceSegmentWrite
  dsimp only
  rw [Nat.mod_eq_of_lt hq, hhead]
  dsimp only
  rw [hready]
  dsimp only
  rw [hline]
  unfold RaRec.segWords wordsMask at hgo
  unfold RaRec.segWords wordsData wordsMask at hwrite
  dsimp only
  rw [hgo]
  dsimp only
  rw [hwrite]
  rfl
theorem reduceSegment_leaves {u w : State} {g row col : Nat} {l : LineAt} (hq : q < 4) (hhead : raHead s q = some r)
    (hready : reduceReady r = some g) (hline : wordLine s r.opB (8 * g) = (l, row, col))
    (hgo : s.tryAcc (segClaim s (raUnit q (((r.segWords g).map (·.1)).headD 0)) r l.layer l.frame row col .write (wordsMask (r.segWords g))
      (r.pol s r.opB.handle)) = (.go, u))
    (hwrite : directWrite u l.layer l.frame [⟨row, col, wordsData (r.segWords g), wordsMask (r.segWords g)⟩] r.tid = (0, w)) :
    ∃ t, exec (.reduceSegmentWrite q) s = .next t ∧ t.array = w.array ∧
      raHead t q = some { r with red := r.red.filter fun e => e.1 / 8 != g } := by
  refine ⟨_, exec_reduceSegmentWrite hq hhead hready hline hgo hwrite, headRec_array .., ?_⟩
  have hstem := directWrite_stem u l.layer l.frame [⟨row, col, wordsData (r.segWords g), wordsMask (r.segWords g)⟩] r.tid
  rw [hwrite] at hstem
  rw [raHead_headRec, raHead_of_stem hstem, raHead_tryAcc hgo, hhead]
  rfl

/-! ### Completion (R242) -/

/-- The completion actions of a record change its queue by one completion entry. -/
theorem raqOf_completeRec (s : State) (q : Nat) (r : RaRec) :
    raqOf (s.completeRec q r) q = ⟨(raqOf s q).recs, (raqOf s q).cpl ++ [(r.status, r.seq, r.fail)]⟩ := by
  unfold State.completeRec
  extract_lets u v w
  have hu : raqOf u q = raqOf s q := raqOf_of_trunk (by rw [State.cond_trunk, State.ctrOp_trunk, ite_self]) q
  have hv : raqOf v q = ⟨(raqOf u q).recs, (raqOf u q).cpl ++ [(r.status, r.seq, r.fail)]⟩ := State.raqOf_setRaq_self ..
  rw [raqOf_of_stem (t := w.cond _ _) (s := w) (by rw [State.cond_stem, State.irq_stem, ite_self])]
  rw [hu] at hv
  exact hv
theorem recordComplete_leaves (hq : q < 4) (hhead : raHead s q = some r) (hquiet : r.quiet = true) (hred : r.red = [])
    (hroom : (raqOf s q).cpl.length < 16) (hwriting : writing s q = false) :
    ∃ t, exec (.recordComplete q) s = .next t ∧ (raqOf t q).recs = (raqOf s q).recs.tail ∧
      (raqOf t q).cpl = (raqOf s q).cpl ++ [(r.status, r.seq, r.fail)] := by
  have hexec : exec (.recordComplete q) s =
      .next ((((s.endChunk (raOwner q)).nrg fun e => { e with meter := Sp.del e.meter (raOwner q) }).setRaq q
        fun y => { y with recs := y.recs.drop 1 }).completeRec q r) := by
    show execRecordComplete q s = _
    unfold execRecordComplete
    dsimp only
    rw [Nat.mod_eq_of_lt hq, hhead]
    exact if_pos (by simp [hquiet, hred, hwriting, hroom])
  refine ⟨_, hexec, ?_⟩
  rw [raqOf_completeRec, State.raqOf_setRaq_self, raqOf_of_stem ((State.nrg_stem ..).trans (State.endChunk_stem ..))]
  exact ⟨List.drop_one, rfl⟩
end

/-! ### KCTL.LOAD (R247) -/

/-- The RIMALU page, and the row of KCTL. -/
def rimaluPage : PageAt := ⟨.rimalu, 0, pgRIMALU⟩
def kctlRow : RegRow := ⟨RIMALU_KCTL, 1, 0, 1, 0, [⟨15, 12, .ro, 0⟩, ⟨11, 8, .rwo, 0⟩, ⟨6, 4, .rwo, 0⟩, ⟨0, 0, .w1s, 0⟩]⟩
theorem pageAt_kctl : pageAt (pgRIMALU + RIMALU_KCTL) = some rimaluPage := by decide
theorem rowAt_kctl : rowAt .rimalu RIMALU_KCTL = some kctlRow := by decide
theorem mayWrite_ownsRimalu {s : State} {m : Master} (h : mayWrite s m pgRIMALU RIMALU_KCTL true = true) : ownsPage s m rimaluPage = true := by
  unfold mayWrite at h
  rw [pageAt_kctl] at h
  simp only [Bool.and_eq_true] at h
  obtain ⟨-, hown⟩ := h
  exact hown
/-- LEN_M1 and SLOT of KCTL set. -/
def State.kctlSet (s : State) (k n : Nat) : State := (s.put pgRIMALU RIMALU_KCTL_LEN_M1 n).put pgRIMALU RIMALU_KCTL_SLOT k
/-- The owner's write of KCTL sets LEN_M1 and SLOT. -/
theorem setFields_kctl {s : State} {m : Master} {k n : Nat} (hown : ownsPage s m rimaluPage = true) (hk : k < 8) (hn : n < 16) (w : Word32) :
    s.setFields m pgRIMALU RIMALU_KCTL (RIMALU_KCTL_LEN_M1.into (RIMALU_KCTL_SLOT.into w k) n) = s.kctlSet k n := by
  have hlen : RIMALU_KCTL_LEN_M1.of (RIMALU_KCTL_LEN_M1.into (RIMALU_KCTL_SLOT.into w k) n) = n :=
    (Fld.of_into_self _ (by decide) _ _).trans (Nat.mod_eq_of_lt hn)
  have hslot : RIMALU_KCTL_SLOT.of (RIMALU_KCTL_LEN_M1.into (RIMALU_KCTL_SLOT.into w k) n) = k := by
    rw [Fld.of_into_apart _ _ (by decide) (by decide), Fld.of_into_self _ (by decide)]
    exact Nat.mod_eq_of_lt hk
  have hput : ∀ v : Word32, s.setFields m pgRIMALU RIMALU_KCTL v =
      (s.put pgRIMALU RIMALU_KCTL_LEN_M1 (RIMALU_KCTL_LEN_M1.of v)).put pgRIMALU RIMALU_KCTL_SLOT (RIMALU_KCTL_SLOT.of v) := by
    intro v
    unfold State.setFields
    rw [pageAt_kctl]
    dsimp only
    rw [show rimaluPage.page = .rimalu from rfl, rowAt_kctl]
    dsimp only
    rw [hown]
    rfl
  rw [hput, hlen, hslot]
  rfl
theorem kctlSet_slot (s : State) {k n : Nat} (hk : k < 8) : (s.kctlSet k n).get pgRIMALU RIMALU_KCTL_SLOT = k :=
  State.get_put_of_lt _ _ (by decide) hk
theorem kctlSet_len (s : State) {k n : Nat} (hn : n < 16) : (s.kctlSet k n).get pgRIMALU RIMALU_KCTL_LEN_M1 = n :=
  (State.get_put_page _ _ _ _ _ (by decide) (by decide)).trans (State.get_put_of_lt _ _ (by decide) hn)
/-- The words above KCTL keep what they hold. -/
theorem kctlSet_rd (s : State) (k n : Nat) {o : Nat} (h : pgRIMALU + RIMALU_KCTL < o) : (s.kctlSet k n).rd o = s.rd o :=
  (State.rd_put_of_ne _ _ (Nat.ne_of_gt h)).trans (State.rd_put_of_ne _ _ (Nat.ne_of_gt h))

/-- The first instructions that stand in KSTAGE. -/
def stagedBody (s : State) (n : Nat) : List Nat := (List.range n).map fun i => (s.rd (pgRIMALU + RIMALU_KSTAGE + 4 * i)).toNat
theorem stagedBody_kctlSet (s : State) (k n j : Nat) : stagedBody (s.kctlSet k n) j = stagedBody s j := by
  refine List.map_congr_left fun i _ => congrArg BitVec.toNat (kctlSet_rd _ _ _ ?_)
  simp only [RIMALU_KCTL, RIMALU_KSTAGE]
  omega
/-- The word of instruction i of kernel slot k. -/
def kslotAt (k i : Nat) : Nat := pgRIMALU + RIMALU_KSLOT + 64 * k + 4 * i
/-- A body put into a kernel slot, and the slot made VALID. -/
def State.loadSlot (s : State) (k : Nat) (body : List Nat) : State :=
  let s := s.each (List.range body.length) fun s i => s.wr (kslotAt k i) (BitVec.ofNat 32 (body.getD i 0))
  { s.put pgRIMALU ⟨RIMALU_KSLOT_STAT, k, k⟩ 1 with klen := Sp.set s.klen k body.length }
/-- What a load of a body does: it is checked, and KERR tells how; the body then goes to the slot, or the write is refused. -/
theorem exec_kernelLoad {s : State} {m : Master} {k n : Nat} (hw : mayWrite s m pgRIMALU RIMALU_KCTL true = true) (hopt : s.cfg.optA = true)
    (hk : k < 8) (hn : n < 16) (hfree : slotInUse s k = false) : exec (.kernelLoad m k n) s =
      .next (if kernelErr (stagedBody s (n + 1)) ≠ 0 then
        ((((s.kctlSet k n).put pgRIMALU RIMALU_KCTL_KERR (kernelErr (stagedBody s (n + 1)))).irq pgRIMALU 8).refused m pgRIMALU RIMALU_KCTL)
      else ((s.kctlSet k n).put pgRIMALU RIMALU_KCTL_KERR (kernelErr (stagedBody s (n + 1)))).loadSlot k (stagedBody s (n + 1))) := by
  have hlength : (stagedBody s (n + 1)).length = n + 1 := by simp [stagedBody]
  have hset := setFields_kctl (mayWrite_ownsRimalu hw) hk hn (s.rd (pgRIMALU + RIMALU_KCTL))
  show execKernelLoad m k n s = _
  unfold execKernelLoad
  rw [State.gate_open _ _ _ _ _ _ (mayWrite_any hw)]
  dsimp only
  rw [hopt, Nat.mod_eq_of_lt hk, Nat.mod_eq_of_lt hn, hset, kctlSet_slot s hk, kctlSet_len s hn]
  have hstage := stagedBody_kctlSet s k n (n + 1)
  have hfree' : slotInUse (s.kctlSet k n) k = false := hfree
  unfold stagedBody at hstage
  rw [hstage, hfree']
  unfold State.loadSlot
  rw [hlength]
  rfl
theorem loadSlot_klen (s : State) (k : Nat) (body : List Nat) : Sp.get 0 (s.loadSlot k body).klen k = body.length := Sp.get_set_self ..
theorem loadSlot_valid (s : State) {k : Nat} (hk : k < 8) (body : List Nat) : (s.loadSlot k body).get pgRIMALU ⟨RIMALU_KSLOT_STAT, k, k⟩ = 1 := by
  have hput := State.get_put_of_lt (s.each (List.range body.length) fun s i => s.wr (kslotAt k i) (BitVec.ofNat 32 (body.getD i 0))) pgRIMALU
    (f := ⟨RIMALU_KSLOT_STAT, k, k⟩) (v := 1) ⟨Nat.le_refl k, Nat.lt_trans hk (by decide)⟩ (by rw [Nat.add_sub_cancel_left]; decide)
  exact hput
theorem loadSlot_kInstr (s : State) (k : Nat) (body : List Nat) {i : Nat} (hi : i < body.length) :
    kInstr (s.loadSlot k body) k i = (BitVec.ofNat 32 (body.getD i 0)).toNat := by
  obtain ⟨hwritten, -⟩ := each_wr_rd (kslotAt k) (fun i => BitVec.ofNat 32 (body.getD i 0))
    (fun i j h => by simp only [kslotAt] at h; omega) s body.length
  have hstat : kslotAt k i ≠ pgRIMALU + RIMALU_KSLOT_STAT := by simp only [kslotAt, RIMALU_KSLOT, RIMALU_KSLOT_STAT]; omega
  exact congrArg BitVec.toNat ((State.rd_put_of_ne _ _ hstat).trans (hwritten i hi))
theorem kernelErr_le (body : List Nat) : kernelErr body ≤ 4 := by
  unfold kernelErr
  extract_lets
  repeat' split
  all_goals decide
/-- A refused load keeps the words above KCTL, below the recorder's page: the slots among them. -/
theorem loadRefused_rd (s : State) (m : Master) (e k n : Nat) {o : Nat} (hlo : pgRIMALU + RIMALU_KCTL < o) (hhi : o < pgREC) :
    ((((s.kctlSet k n).put pgRIMALU RIMALU_KCTL_KERR e).irq pgRIMALU 8).refused m pgRIMALU RIMALU_KCTL).rd o = s.rd o := by
  simp only [pgRIMALU, RIMALU_KCTL] at hlo
  rw [State.refused_rd _ _ _ _ _ (by simp only [pgRIMALU, HDR_ERR_INFO]; omega) (by simp only [pgRIMALU, HDR_ERR_ADDR]; omega)
      (by simp only [pgRIMALU, HDR_VIOL_CNT]; omega),
    State.irq_rd _ _ _ _ (by simp only [pgRIMALU, HDR_IRQ_STAT]; omega) (.inl hhi),
    State.rd_put_of_ne _ _ (by simp only [pgRIMALU, RIMALU_KCTL_KERR]; omega), kctlSet_rd _ _ _ hlo]

section
variable {s : State} {m : Master} {k n : Nat}

/-- A body without an error goes to its slot as it is staged. -/
theorem kernelLoad_loads (hw : mayWrite s m pgRIMALU RIMALU_KCTL true = true) (hopt : s.cfg.optA = true) (hk : k < 8) (hn : n < 16)
    (hfree : slotInUse s k = false) (herr : kernelErr (stagedBody s (n + 1)) = 0) :
    ∃ t, exec (.kernelLoad m k n) s = .next t ∧ Sp.get 0 t.klen k = n + 1 ∧ t.get pgRIMALU ⟨RIMALU_KSLOT_STAT, k, k⟩ = 1 ∧
      ∀ i ≤ n, kInstr t k i = (s.rd (pgRIMALU + RIMALU_KSTAGE + 4 * i)).toNat := by
  have hlength : (stagedBody s (n + 1)).length = n + 1 := by simp [stagedBody]
  refine ⟨_, exec_kernelLoad hw hopt hk hn hfree, ?_⟩
  rw [if_neg (fun h => h herr)]
  refine ⟨(loadSlot_klen ..).trans hlength, loadSlot_valid _ hk _, fun i hi => ?_⟩
  rw [loadSlot_kInstr _ _ _ (by omega)]
  have hget : (stagedBody s (n + 1)).getD i 0 = (s.rd (pgRIMALU + RIMALU_KSTAGE + 4 * i)).toNat := by
    simp [stagedBody, List.getElem?_range (Nat.lt_succ_of_le hi)]
  rw [hget, BitVec.ofNat_toNat]
  rfl
/-- A body with an error sets KERR, and changes no slot. -/
theorem kernelLoad_refused (hw : mayWrite s m pgRIMALU RIMALU_KCTL true = true) (hopt : s.cfg.optA = true) (hk : k < 8) (hn : n < 16)
    (hfree : slotInUse s k = false) (herr : kernelErr (stagedBody s (n + 1)) ≠ 0) :
    ∃ t, exec (.kernelLoad m k n) s = .next t ∧ t.klen = s.klen ∧
      t.get pgRIMALU RIMALU_KCTL_KERR = kernelErr (stagedBody s (n + 1)) ∧ ∀ i < 16, kInstr t k i = kInstr s k i := by
  refine ⟨_, exec_kernelLoad hw hopt hk hn hfree, ?_⟩
  rw [if_pos herr]
  refine ⟨State.irq_klen .., ?_, fun i hi => congrArg BitVec.toNat (loadRefused_rd _ _ _ _ _ ?_ ?_)⟩
  · rw [State.refused_get _ _ _ _ _ (by decide), State.get_irq _ _ _ _ _ (by decide) (by decide)]
    exact State.get_put_of_lt _ _ (by decide) (Nat.lt_of_le_of_lt (kernelErr_le _) (by decide))
  · simp only [RIMALU_KCTL, RIMALU_KSLOT]
    omega
  · simp only [pgRIMALU, RIMALU_KSLOT, pgREC]
    omega
end

/-- Settles O14: the chunks of a record by what asks for them, its end by what `completeRec` adds to its queue, and a load by its check. -/
theorem recordsRun : Obligations.RecordsRun :=
  ⟨fun _ _ _ => chunk_deferred, fun _ _ _ => chunk_sends, fun _ _ _ _ _ _ _ _ _ => reduceSegment_leaves,
    fun _ _ _ => recordComplete_leaves, fun _ _ _ _ => kernelLoad_loads, fun _ _ _ _ => kernelLoad_refused⟩

end Sys2Proof.Machine

/-! PROOFS. The kernel instructions at a rim's ALU (spec/08_inplace_work.md R246 to R256). Each is the effect of its opcode, by `kernelIssue_run`; an
effect is said by what it leaves in the two registers and in the array. A line stored goes on with the handles as they were, whatever
the rim grants, so the format of D is the one that the instruction was issued under. -/
namespace Sys2Proof.Machine

/-! ### A grant at a rim keeps the handles -/

/-- The stem without the copies of INTEG, which a grant at a rim also changes. -/
def State.root (s : State) : State := { s.stem with integ := {} }
theorem root_of_stem {s t : State} (h : t.stem = s.stem) : t.root = s.root := by
  unfold State.root
  rw [h]
theorem handles_of_root {s t : State} (h : t.root = s.root) : t.handles = s.handles := (congrArg State.handles h :)
theorem descOf_of_root {s t : State} (h : t.root = s.root) (n : Nat) : descOf t n = descOf s n := by
  unfold descOf
  rw [handles_of_root h]
theorem cond_root (s : State) (c : Bool) (f : State → State) : (s.cond c f).root = if c then (f s).root else s.root := by
  unfold State.cond
  split <;> rfl
theorem copyQueue_root (s : State) (n : Nat) (j : CopyJob) : (s.copyQueue n j).root = s.root := by
  unfold State.copyQueue
  dsimp only
  rw [cond_root]
  exact ite_self _
theorem copyRow_root (s : State) (arb n : Nat) (j : CopyJob) : (s.copyRow arb n j).root = s.root := by
  unfold State.copyRow
  dsimp only
  rw [copyQueue_root]
  refine root_of_stem ?_
  rw [State.cond_stem, State.put_stem, ite_self, State.rim_stem, State.each_stem _ (fun s _ => State.latency_stem ..), State.oneAcc_stem,
    State.countGrant_stem, copyLost_stem, State.each_stem _ (fun s x => copySeg_stem ..), State.observed_stem]
theorem grantAt_root (s : State) (arb : Nat) (a : Access) : (s.grantAt arb a).root = s.root := by
  unfold State.grantAt
  dsimp only
  split
  · exact root_of_stem (by rw [State.countGrant_stem, setClaim_stem])
  · exact root_of_stem (by rw [directWrite_stem, State.countGrant_stem, setClaim_stem])
  · exact root_of_stem (by rw [doWriteback_stem, State.countGrant_stem])
  · split
    · exact (copyRow_root ..).trans (root_of_stem (State.countGrant_stem ..))
    · rfl
  · exact root_of_stem (performAt_stem ..)
theorem rimArb_root (s : State) (n i : Nat) : (rimArb s n i).root = s.root := by
  unfold rimArb
  dsimp only
  split
  · rfl
  · rw [root_of_stem (State.countAcc_stem ..), cond_root, root_of_stem (State.bump_stem ..), ite_self, cond_root,
      root_of_stem (State.bump_stem ..), ite_self, root_of_stem (State.rim_stem ..), State.each_of State.root _ (fun s a => grantAt_root ..),
      root_of_stem (State.hubf_stem ..), root_of_stem (countDispl_stem ..), root_of_stem (State.writeHalf_stem ..)]

section
variable {s : State} {c : KCtx} {ins : Nat}

/-! ### An instruction that goes on (R246, R255) -/

/-- An instruction that is not the last of its body has its effect, and the next one follows it. -/
theorem instruction_issues {cmd : Nat → Nat → Instr} {opc : Nat} {act : KCtx → Nat → State → Bool × State} {t : State}
    (hcmd : exec (cmd c.layer c.i) s = kernelIssue c.layer c.i opc act s) (hat : kernelAt s c ins) (hlast : notLast s c) (hopc : kiOpc ins = opc)
    (hact : act c ins s = (true, t)) :
    ∃ u, exec (cmd c.layer c.i) s = .next u ∧ u.array = t.array ∧ u.hub = t.hub ∧
      rimOf u c.layer c.p = { rimOf t c.layer c.p with kpc := (rimOf s c.layer c.p).kpc + 1 } :=
  ⟨_, hcmd.trans (kernelIssue_run s t c ins opc act hat hopc hlast hact), rfl, rfl, kernelIssue_rim ..⟩
theorem nop_issues (hat : kernelAt s c ins) (hlast : notLast s c) (hopc : kiOpc ins = 0) :
    ∃ t, exec (.kiNop c.layer c.i) s = .next t ∧ t.array = s.array ∧
      rimOf t c.layer c.p = { rimOf s c.layer c.p with kpc := (rimOf s c.layer c.p).kpc + 1 } := by
  obtain ⟨u, hexec, harray, -, hrim⟩ := instruction_issues (cmd := .kiNop) (act := fun _ _ s => (true, s)) rfl hat hlast hopc rfl
  exact ⟨u, hexec, harray, hrim⟩

/-! ### Registers of the ALU (R249 to R251) -/

/-- The scale field is no part of a register's 512 bytes. -/
theorem setAluScale_reg (s : State) (c : KCtx) (y z : Bool) (v : Nat) :
    aluReg (rimOf (s.setAluScale c y v) c.layer c.p) z = aluReg (rimOf s c.layer c.p) z := by
  unfold State.setAluScale
  rw [State.rimOf_rim_self]
  cases y <;> rfl
theorem countLanes_rimOf (s : State) (l : List Conv) (n p : Nat) : rimOf (s.countLanes l) n p = rimOf s n p := rfl
/-- What an instruction does that gives DST a value and leaves the other register and the array. -/
def givesDst (s : State) (c : KCtx) (ins v : Nat) (t : State) : Prop :=
  t.array = s.array ∧ aluReg (rimOf t c.layer c.p) (kiDst ins) = v ∧
    aluReg (rimOf t c.layer c.p) (!kiDst ins) = aluReg (rimOf s c.layer c.p) (!kiDst ins)
/-- An instruction that gives DST a value, issued. -/
theorem givesDst_issues {cmd : Nat → Nat → Instr} {opc v : Nat} {act : KCtx → Nat → State → Bool × State} {t : State}
    (hcmd : exec (cmd c.layer c.i) s = kernelIssue c.layer c.i opc act s) (hat : kernelAt s c ins) (hlast : notLast s c) (hopc : kiOpc ins = opc)
    (hact : act c ins s = (true, t)) (hdst : givesDst s c ins v t) :
    ∃ u, exec (cmd c.layer c.i) s = .next u ∧ u.array = s.array ∧ (rimOf u c.layer c.p).kpc = (rimOf s c.layer c.p).kpc + 1 ∧
      aluReg (rimOf u c.layer c.p) (kiDst ins) = v ∧ aluReg (rimOf u c.layer c.p) (!kiDst ins) = aluReg (rimOf s c.layer c.p) (!kiDst ins) := by
  obtain ⟨u, hexec, harray, -, hrim⟩ := instruction_issues hcmd hat hlast hopc hact
  obtain ⟨hkeep, hval, hother⟩ := hdst
  exact ⟨u, hexec, harray.trans hkeep, congrArg RimSt.kpc hrim, (congrArg (aluReg · (kiDst ins)) hrim).trans hval,
    (congrArg (aluReg · (!kiDst ins)) hrim).trans hother⟩
/-- A lane-wise instruction gives DST the results of its lanes. -/
theorem kLanes_givesDst (f : Nat → Nat → Nat → Nat → Conv) (usesDst : Bool) (c : KCtx) (ins : Nat) (s : State) :
    ∃ t, kLanes f usesDst c ins s = (true, t) ∧ givesDst s c ins (lanesOut s c ins f) t := by
  refine ⟨_, rfl, rfl, ?_, ?_⟩
  · rw [countLanes_rimOf]
    refine (setAlu_reg ..).1.trans ?_
    rw [List.map_map]
    rfl
  · rw [countLanes_rimOf]
    exact (setAlu_reg ..).2
/-- Each command of a lane-wise instruction, with whether its lanes read DST. -/
theorem exec_laneOp {opc : Nat} {cmd : Nat → Nat → Instr} {f : KCtx → Nat → Nat → Nat → Nat → Nat → Conv} (h : (opc, cmd, f) ∈ laneOps) :
    ∃ usesDst, ∀ n i s, exec (cmd n i) s = kernelIssue n i opc (fun c ins s => kLanes (f c ins) usesDst c ins s) s := by
  simp only [laneOps, List.mem_cons, Prod.mk.injEq, List.not_mem_nil, or_false] at h
  rcases h with ⟨rfl, rfl, rfl⟩ | ⟨rfl, rfl, rfl⟩ | ⟨rfl, rfl, rfl⟩ | ⟨rfl, rfl, rfl⟩ | ⟨rfl, rfl, rfl⟩ | ⟨rfl, rfl, rfl⟩
  · exact ⟨false, fun _ _ _ => rfl⟩
  · exact ⟨false, fun _ _ _ => rfl⟩
  · exact ⟨true, fun _ _ _ => rfl⟩
  · exact ⟨false, fun _ _ _ => rfl⟩
  · exact ⟨false, fun _ _ _ => rfl⟩
  · exact ⟨false, fun _ _ _ => rfl⟩
theorem laneOp_issues {opc : Nat} {cmd : Nat → Nat → Instr} {f : KCtx → Nat → Nat → Nat → Nat → Nat → Conv} (h : (opc, cmd, f) ∈ laneOps)
    (hat : kernelAt s c ins) (hlast : notLast s c) (hopc : kiOpc ins = opc) :
    ∃ t, exec (cmd c.layer c.i) s = .next t ∧ t.array = s.array ∧ (rimOf t c.layer c.p).kpc = (rimOf s c.layer c.p).kpc + 1 ∧
      aluReg (rimOf t c.layer c.p) (kiDst ins) = lanesOut s c ins (f c ins) ∧
      aluReg (rimOf t c.layer c.p) (!kiDst ins) = aluReg (rimOf s c.layer c.p) (!kiDst ins) := by
  obtain ⟨usesDst, hcmd⟩ := exec_laneOp h
  obtain ⟨t, hact, hdst⟩ := kLanes_givesDst (f c ins) usesDst c ins s
  exact givesDst_issues (hcmd _ _ _) hat hlast hopc hact hdst
/-- What a CVT converts SA into, with D's OVF and SROUND (R251, R252). -/
def cvtOut (s : State) (c : KCtx) (ins : Nat) : Nat × Nat × List Conv × Nat :=
  cvtReg ins (aluReg (rimOf s c.layer c.p) (kiSa ins)) (aluScale (rimOf s c.layer c.p) (kiSa ins)) (aluReg (rimOf s c.layer c.p) (kiDst ins))
    (aluScale (rimOf s c.layer c.p) (kiDst ins)) (c.r.cap s c.r.opD.handle).2.1 (c.r.cap s c.r.opD.handle).2.2 (rimOf s c.layer c.p).kseed
/-- A CVT gives DST the converted elements; its scale field and the generator are apart from the registers. -/
theorem kConvert_givesDst (c : KCtx) (ins : Nat) (s : State) :
    ∃ t, kConvert c ins s = (true, t) ∧ givesDst s c ins (cvtOut s c ins).1 t := by
  have hreg : ∀ (u : State) (y : Bool) (g : Nat),
      aluReg (rimOf (u.rim c.layer c.p fun r => { r with kseed := g }) c.layer c.p) y = aluReg (rimOf u c.layer c.p) y := by
    intro u y g
    rw [State.rimOf_rim_self]
    rfl
  refine ⟨_, rfl, rfl, ?_, ?_⟩
  · rw [hreg, countLanes_rimOf, setAluScale_reg]
    exact (setAlu_reg ..).1
  · rw [hreg, countLanes_rimOf, setAluScale_reg]
    exact (setAlu_reg ..).2
theorem cvt_issues (hat : kernelAt s c ins) (hlast : notLast s c) (hopc : kiOpc ins = 10) :
    ∃ t, exec (.kiCvt c.layer c.i) s = .next t ∧ t.array = s.array ∧ (rimOf t c.layer c.p).kpc = (rimOf s c.layer c.p).kpc + 1 ∧
      aluReg (rimOf t c.layer c.p) (kiDst ins) = (cvtOut s c ins).1 ∧
      aluReg (rimOf t c.layer c.p) (!kiDst ins) = aluReg (rimOf s c.layer c.p) (!kiDst ins) := by
  obtain ⟨t, hact, hdst⟩ := kConvert_givesDst c ins s
  exact givesDst_issues (cmd := .kiCvt) rfl hat hlast hopc hact hdst

/-! ### The step's reduce word (R250) -/

/-- The values of the lanes of SA. -/
def saVals (s : State) (c : KCtx) (ins : Nat) : List FVal :=
  (elems (fmtWidth (kiFmt ins)) (4096 / fmtWidth (kiFmt ins)) (aluReg (rimOf s c.layer c.p) (kiSa ins))).map (elemValue (kiFmt ins))
/-- A reduction of a register without a failed load makes the step's word, in the accumulating format, and changes no register. -/
theorem reduce_issues {cmd : Nat → Nat → Instr} {opc : Nat} (f : Nat → List FVal → Conv)
    (hcmd : exec (cmd c.layer c.i) s = kernelIssue c.layer c.i opc (kReduce f) s) (hat : kernelAt s c ins) (hlast : notLast s c)
    (hopc : kiOpc ins = opc) (hgood : aluBad s c (kiSa ins) = false) :
    ∃ t, exec (cmd c.layer c.i) s = .next t ∧ t.array = s.array ∧
      rimOf t c.layer c.p = { rimOf s c.layer c.p with
        kpc := (rimOf s c.layer c.p).kpc + 1, kword := some (f (if laneFloat (kiFmt ins) then 8 else 3) (saVals s c ins)).code } := by
  have hact : kReduce f c ins s = (true, s.rim c.layer c.p fun r =>
      { r with kword := some (f (if laneFloat (kiFmt ins) then 8 else 3) (saVals s c ins)).code }) := by
    unfold kReduce
    dsimp only
    rw [hgood]
    rfl
  obtain ⟨u, hexec, harray, -, hrim⟩ := instruction_issues hcmd hat hlast hopc hact
  refine ⟨u, hexec, harray, hrim.trans ?_⟩
  rw [State.rimOf_rim_self]

/-! ### Lines loaded (R249, R252) -/

/-- A line of an operand that is not MX, granted at once and read well, goes to DST. -/
theorem kLoad_plain {u w : State} {o : RaOp} {v : Nat} {l : LineAt} (hplain : plainOp s o) (hl : l = walkLine s o (2 ^ o.mul * c.step + kiJ ins))
    (hcross : crossHeld s l (walkLine s c.r.opD (2 ^ c.r.opD.mul * c.step)) = false)
    (hgo : s.tryAcc (lineClaim s c.q c.step c.r l .read (c.r.pol s o.handle)) = (.go, u)) (hread : u.raRead c.r l = (stOK, v, w)) :
    kLoad o c ins s = (true, w.setAlu c (kiDst ins) v false) := by
  unfold kLoad
  extract_lets l' y pol home scale load
  have hline : l' = l := hl.symm
  have hscale : scale = none := by
    unfold scale
    split
    · rename_i d hd
      rw [hplain d hd]
      rfl
    · rfl
  rw [hscale, hline, if_neg (by rw [show crossHeld s l home = false from hcross]; decide),
    show s.tryAcc (lineClaim s c.q c.step c.r l .read pol) = (.go, u) from hgo]
  show (true, load u) = _
  unfold load
  rw [hline, hread]
  rfl
theorem load_issues {cmd : Nat → Nat → Instr} {opc : Nat} {o : RaRec → RaOp} (hcmds : (cmd, opc, o) ∈ [(Instr.kiLda, 1, RaRec.opA), (Instr.kiLdb, 2, RaRec.opB)])
    {u w : State} {v : Nat} {l : LineAt} (hat : kernelAt s c ins) (hlast : notLast s c) (hopc : kiOpc ins = opc) (hplain : plainOp s (o c.r))
    (hl : l = walkLine s (o c.r) (2 ^ (o c.r).mul * c.step + kiJ ins))
    (hcross : crossHeld s l (walkLine s c.r.opD (2 ^ c.r.opD.mul * c.step)) = false)
    (hgo : s.tryAcc (lineClaim s c.q c.step c.r l .read (c.r.pol s (o c.r).handle)) = (.go, u)) (hread : u.raRead c.r l = (stOK, v, w)) :
    ∃ t, exec (cmd c.layer c.i) s = .next t ∧ t.array = w.array ∧ (rimOf t c.layer c.p).kpc = (rimOf s c.layer c.p).kpc + 1 ∧
      aluReg (rimOf t c.layer c.p) (kiDst ins) = v := by
  have hcmd : exec (cmd c.layer c.i) s = kernelIssue c.layer c.i opc (fun c ins s => kLoad (o c.r) c ins s) s := by
    simp only [List.mem_cons, Prod.mk.injEq, List.not_mem_nil, or_false] at hcmds
    rcases hcmds with ⟨rfl, rfl, rfl⟩ | ⟨rfl, rfl, rfl⟩
    · rfl
    · rfl
  obtain ⟨t, hexec, harray, -, hrim⟩ := instruction_issues hcmd hat hlast hopc (kLoad_plain hplain hl hcross hgo hread)
  exact ⟨t, hexec, harray, congrArg RimSt.kpc hrim, (congrArg (aluReg · (kiDst ins)) hrim).trans (setAlu_reg ..).1⟩

/-! ### Lines stored (R249, R255) -/

/-- The write of an ST: SA's line for D's walk line. -/
def storeLine (s : State) (c : KCtx) (ins : Nat) (l : LineAt) : Nat × State :=
  s.kWrite c (lineClaim s c.q c.step c.r l .write (c.r.pol s c.r.opD.handle)) (cutLine l.col l.num (aluReg (rimOf s c.layer c.p) (kiSa ins)))
/-- Work asked for at a rim may ask for its wake, and changes nothing else. -/
theorem tryRim_wakes (s : State) (tid n f pol : Nat) : ∃ l, (s.tryRim tid n f pol).2 = { s with wakes := l } := by
  unfold State.tryRim
  dsimp only
  split
  · exact ⟨s.wakes, rfl⟩
  · split
    · exact ⟨s.wakes, rfl⟩
    · split
      · exact ⟨_, askWake_eq ..⟩
      · split
        · exact ⟨s.wakes, rfl⟩
        · exact ⟨s.wakes, rfl⟩
/-- A write that its rim may take enters a write buffer, and is served at once where the rim would choose it now. -/
theorem storeLine_go {u : State} {l : LineAt} (h : s.tryRim c.r.tid l.layer l.frame (c.r.pol s c.r.opD.handle) = (.go, u)) :
    storeLine s c ins l = (stOK, (inBuffer s c ins l).cond (wins (inBuffer s c ins l) l.layer l.rim s.hub.seqCtr)
      fun t => rimArb t l.layer l.rim) := by
  unfold storeLine State.kWrite lineClaim inAccess
  dsimp only
  rw [h, tryRim_go h]
  rfl
/-- A write that its rim cannot take now stays in its write buffer. -/
theorem storeLine_wait {u : State} {l : LineAt} (h : s.tryRim c.r.tid l.layer l.frame (c.r.pol s c.r.opD.handle) = (.wait, u)) :
    ∃ w, storeLine s c ins l = (stOK, inBuffer { s with wakes := w } c ins l) := by
  obtain ⟨w, hw⟩ := tryRim_wakes s c.r.tid l.layer l.frame (c.r.pol s c.r.opD.handle)
  refine ⟨w, ?_⟩
  unfold storeLine State.kWrite lineClaim inAccess
  dsimp only
  rw [h] at hw ⊢
  dsimp only at hw ⊢
  rw [hw]
  rfl
/-- An ST of a good register to an operand that is not MX, with a write buffer free, is the write of its line. -/
theorem kStore_plain {t : State} {l : LineAt} (hplain : plainOp s c.r.opD) (hgood : aluBad s c (kiSa ins) = false) (hroom : buffered s c < 2)
    (hl : l = walkLine s c.r.opD (2 ^ c.r.opD.mul * c.step + kiJ ins))
    (hwrite : storeLine s c ins l = (stOK, t)) (hroot : t.root = s.root) :
    kStore c ins s = (true, t) := by
  unfold storeLine at hwrite
  unfold kStore
  dsimp only
  rw [← hl, hgood, if_neg (by decide), if_neg (by omega), hwrite]
  dsimp only
  rw [if_neg (by decide), descOf_of_root hroot]
  split
  · rfl
  · rename_i d hd
    rw [hplain d hd]
    rfl
/-- A write that its rim would choose now is served by its arbitration at once. -/
theorem store_serves {u : State} {l : LineAt} (hat : kernelAt s c ins) (hlast : notLast s c) (hopc : kiOpc ins = 3) (hplain : plainOp s c.r.opD)
    (hgood : aluBad s c (kiSa ins) = false) (hroom : buffered s c < 2) (hl : l = walkLine s c.r.opD (2 ^ c.r.opD.mul * c.step + kiJ ins))
    (hgo : (s.tryRim c.r.tid l.layer l.frame (c.r.pol s c.r.opD.handle)).1 = .go) (hu : u = inBuffer s c ins l)
    (hwins : wins u l.layer l.rim s.hub.seqCtr = true) :
    ∃ t, exec (.kiSt c.layer c.i) s = .next t ∧ (rimOf t c.layer c.p).kpc = (rimOf s c.layer c.p).kpc + 1 ∧
      t.array = (rimArb u l.layer l.rim).array := by
  have hwrite := storeLine_go (ins := ins) (Prod.ext hgo rfl)
  rw [← hu, hwins] at hwrite
  have hroot : (rimArb u l.layer l.rim).root = s.root := by
    rw [rimArb_root, hu]
    rfl
  obtain ⟨t, hexec, harray, -, hrim⟩ := instruction_issues (cmd := .kiSt) rfl hat hlast hopc
    (kStore_plain hplain hgood hroom hl hwrite hroot)
  exact ⟨t, hexec, congrArg RimSt.kpc hrim, harray⟩
/-- The line in its write buffer is the newest of the claims. -/
theorem inBuffer_claims (s : State) (c : KCtx) (ins : Nat) (l : LineAt) :
    (inBuffer s c ins l).hub.claims.map (fun a => (a.src, a.segs)) = s.hub.claims.map (fun a => (a.src, a.segs)) ++
      [(.kstore c.q c.step, cutLine l.col l.num (aluReg (rimOf s c.layer c.p) (kiSa ins)))] := by
  unfold inBuffer State.charge
  rw [State.tidCnt_hub, State.bumpSat_hub]
  generalize cutLine l.col l.num _ = segs
  exact List.map_append
/-- A write that its rim cannot take, or would not choose, now stays in its buffer. -/
theorem store_buffers {u : State} {l : LineAt} (hat : kernelAt s c ins) (hlast : notLast s c) (hopc : kiOpc ins = 3) (hplain : plainOp s c.r.opD)
    (hgood : aluBad s c (kiSa ins) = false) (hroom : buffered s c < 2) (hl : l = walkLine s c.r.opD (2 ^ c.r.opD.mul * c.step + kiJ ins))
    (hwaits : s.tryRim c.r.tid l.layer l.frame (c.r.pol s c.r.opD.handle) = (.wait, u) ∨
      (s.tryRim c.r.tid l.layer l.frame (c.r.pol s c.r.opD.handle) = (.go, u) ∧ wins (inBuffer s c ins l) l.layer l.rim s.hub.seqCtr = false)) :
    ∃ t, exec (.kiSt c.layer c.i) s = .next t ∧ (rimOf t c.layer c.p).kpc = (rimOf s c.layer c.p).kpc + 1 ∧ t.array = s.array ∧
      t.hub.claims.map (fun a => (a.src, a.segs)) = s.hub.claims.map (fun a => (a.src, a.segs)) ++
        [(.kstore c.q c.step, cutLine l.col l.num (aluReg (rimOf s c.layer c.p) (kiSa ins)))] := by
  have hstays : ∃ w, storeLine s c ins l = (stOK, inBuffer { s with wakes := w } c ins l) := by
    rcases hwaits with hwait | ⟨hgo, hlose⟩
    · exact storeLine_wait hwait
    · refine ⟨s.wakes, (storeLine_go hgo).trans ?_⟩
      rw [hlose]
      rfl
  obtain ⟨w, hwrite⟩ := hstays
  obtain ⟨t, hexec, harray, hhub, hrim⟩ := instruction_issues (cmd := .kiSt) rfl hat hlast hopc (kStore_plain hplain hgood hroom hl hwrite rfl)
  refine ⟨t, hexec, congrArg RimSt.kpc hrim, harray, ?_⟩
  rw [hhub]
  exact inBuffer_claims { s with wakes := w } c ins l

/-! ### The last instruction of a body (R246, R252) -/

theorem physOf_of_regs {t : State} (hregs : t.regs = s.regs) (hcfg : t.cfg = s.cfg) (n i : Nat) : physOf t n i = physOf s n i := by
  unfold physOf
  rw [State.rd_congr hregs hcfg]
/-- The count of steps lies apart from the rims' map. -/
theorem physOf_stepsDone (s : State) (k n i : Nat) : physOf (s.stepsDone k) n i = physOf s n i := by
  unfold physOf State.stepsDone
  rw [State.bump_rd _ _ (by simp only [layerBase, LAYER_RIM_MAP, pgRIMALU, RIMALU_RA_STEPS_COUNT]; omega)]
/-- A step whose instructions have issued well finishes, or waits for the lines that it stored; neither changes the array or moves a
rim. -/
theorem stepIssued_cases (s : State) (q step : Nat) :
    (s.stepIssued q step 0 none).array = s.array ∧ (∀ n i, physOf (s.stepIssued q step 0 none) n i = physOf s n i) ∧
      (storing s q step = true → raHead (s.stepIssued q step 0 none) q = (raHead s q).map fun r => { r with ended := r.ended ++ [(step, 0, none)] }) := by
  unfold State.stepIssued
  split
  · exact ⟨rfl, fun _ _ => rfl, fun _ => raHead_headRec ..⟩
  · rename_i hdone
    rw [stepEnd_ok]
    obtain ⟨-, hregs, hcfg⟩ := sendSteps_frame ((s.headRec q fun r => { r with fly := r.fly.filter (· != step) }).stepsDone 1) q
    exact ⟨sendSteps_array .., fun n i => (physOf_of_regs hregs hcfg n i).trans (physOf_stepsDone ..), fun h => absurd h hdone⟩
theorem aluFree_krun {n i p : Nat} (s : State) (q : Nat) (h : physOf s n i = p) : (rimOf (s.aluFree n i q) n p).krun = false := by
  rw [← h]
  unfold State.aluFree
  rw [State.rimOf_rim_self]
/-- The last NOP of a body ends the step of its rim's ALU. -/
theorem nop_ends (hat : kernelAt s c ins) (hopc : kiOpc ins = 0) (hend : (rimOf s c.layer c.p).kpc + 1 = (kBody s c.r.kslot).length)
    (hfail : (rimOf s c.layer c.p).kfail = 0) (hword : (rimOf s c.layer c.p).kword = none) :
    ∃ t, exec (.kiNop c.layer c.i) s = .next t ∧ t.array = s.array ∧ (rimOf t c.layer c.p).krun = false ∧
      (storing s c.q c.step = true → raHead t c.q = some { c.r with ended := c.r.ended ++ [(c.step, 0, none)] }) := by
  have hexec := kernelIssue_last s s c ins 0 (fun _ _ s => (true, s)) hat hopc hend rfl
  rw [hfail, hword, ite_self] at hexec
  obtain ⟨-, -, hphys, -, -, -, hhead, -⟩ := hat
  obtain ⟨harray, hplace, hstores⟩ := stepIssued_cases ((s.energy 2 1 c.r.tid (some (raOwner c.q))).rim c.layer c.p
    fun r => { r with kpc := (rimOf s c.layer c.p).kpc + 1 }) c.q c.step
  exact ⟨_, hexec, harray, aluFree_krun _ _ ((hplace ..).trans hphys), fun hst => (hstores hst).trans (congrArg _ hhead)⟩
end

/-- Settles O15: each instruction by its effect (`instruction_issues`), and the last one by the end of its step. -/
theorem kernelInstructions : Obligations.KernelInstructions :=
  ⟨fun _ _ _ => nop_issues, fun _ _ _ h _ _ _ => laneOp_issues h, fun _ _ _ => cvt_issues,
    fun _ _ _ => reduce_issues (cmd := .kiRsum) (fun f vs => laneOf f (sumVals vs)) rfl,
    fun _ _ _ => reduce_issues (cmd := .kiRmax) (fun f vs => laneOf f (maxVals vs)) rfl,
    fun _ _ _ h _ _ _ _ _ _ _ => load_issues h, fun _ _ _ _ _ => store_serves, fun _ _ _ _ _ => store_buffers, fun _ _ _ => nop_ends⟩

end Sys2Proof.Machine

/-! PROOFS. Submission words of a mover channel (spec/09_movers_and_tokens.md R268 to R270, R292, R294). SUB, CHc_POST3 and CHc_CRIDX end in
the same operations, `subTake` by the word's TYPE and `ackCons`; each says here once what it leaves of the channels and of the channel's block. -/
namespace Sys2Proof.Machine

section
variable {s : State} {c : Nat}

/-! ### The fields of a channel's block -/

theorem chGet_put_self (s : State) (c : Nat) (f : Fld) (v : Nat) (h : f.fits) :
    chGet (s.put pgMOVER (f.at 64 c) v) c f = v % 2 ^ (f.hi + 1 - f.lo) := State.get_put_self _ _ _ _ h
theorem chGet_put_apart (s : State) (c : Nat) {f g : Fld} (v : Nat) (h : f.fits) (d : f.off ≠ g.off ∨ g.hi < f.lo ∨ f.hi < g.lo) :
    chGet (s.put pgMOVER (f.at 64 c) v) c g = chGet s c g :=
  State.get_put_page _ _ _ _ _ h (d.imp_left fun hne => by dsimp only [Fld.at]; omega)
/-- An interrupt sets the page's header, not a channel's block. -/
theorem chGet_irq (s : State) (k : Nat) (f : Fld) (hc : c < 16) (hlo : 0x40 ≤ f.off) (hhi : f.off < 0x1000) :
    chGet (s.irq pgMOVER k) c f = chGet s c f :=
  State.get_irq _ _ _ _ _ (by dsimp only [Fld.at, pgMOVER, HDR_IRQ_STAT]; omega) (by dsimp only [Fld.at, pgMOVER, pgREC]; omega)
theorem chGet_refused (s : State) (m : Master) (reg : Nat) (f : Fld) (hlo : 0x40 ≤ f.off) :
    chGet (s.refused m pgMOVER reg) c f = chGet s c f := State.refused_get _ _ _ _ _ (Nat.le_add_right_of_le hlo)
theorem chFlag_eq (s : State) (c : Nat) (f : Fld) : s.flag pgMOVER (f.at 64 c) = (chGet s c f == 1) := rfl
theorem refused_chans (s : State) (m : Master) (b reg : Nat) : (s.refused m b reg).chans = s.chans := rfl
/-- A refused write is named in its page's header. -/
theorem refused_errAddr (s : State) (m : Master) (b reg : Nat) (h : b + reg < 2 ^ 32) :
    ((s.refused m b reg).rd (b + HDR_ERR_ADDR)).toNat = b + reg := by
  unfold State.refused State.flagPage
  rw [State.bumpSat_rd _ _ (by simp only [HDR_ERR_ADDR, HDR_VIOL_CNT_COUNT]; omega), State.rd_wr_self, BitVec.toNat_ofNat, Nat.mod_eq_of_lt h]

theorem chanOf_hubf (s : State) (f : HubSt → HubSt) (d : Nat) : chanOf (s.hubf f) d = chanOf s d := rfl

/-! ### A chain posted (R269, R294) -/

/-- An ENABLED channel holds a posted chain behind its own, under the next acceptance number. -/
theorem postChain_enabled (words : List Nat) (scrub : Bool) (hs : chanState s c = 2) : (s.postChain c words scrub).regs = s.regs ∧
    (∀ d, d ≠ c → chanOf (s.postChain c words scrub) d = chanOf s d) ∧
    chanOf (s.postChain c words scrub) c = { chanOf s c with chains := (chanOf s c).chains ++ [⟨s.hub.accCtr, scrub, words, 0⟩] } := by
  have hpost : s.postChain c words scrub = (s.chan c fun h => { h with chains := h.chains ++ [⟨s.hub.accCtr, scrub, words, 0⟩] }).hubf
      fun h => { h with accCtr := h.accCtr + 1 } := if_pos hs
  rw [hpost]
  exact ⟨rfl, fun d hd => (chanOf_hubf ..).trans (chanOf_chan_of_ne _ _ hd), (chanOf_hubf ..).trans (chanOf_chan_self ..)⟩
/-- A record joins those of a channel with a completion ring. -/
theorem record_joins (words : List Nat) (irq head : Bool) (hring : ringSize s c ≠ 0) :
    chanOf (s.record c words irq head) c = { chanOf s c with recs := (chanOf s c).recs ++ [⟨words, irq, head⟩] } := by
  unfold State.record
  rw [if_neg hring, chanOf_chan_self]
/-- A channel that is not ENABLED owes a post-level record for a chain, and holds it not. -/
theorem postChain_rejected (words : List Nat) (hs : chanState s c ≠ 2) (hring : ringSize s c ≠ 0) :
    chanOf (s.postChain c words false) c = { chanOf s c with recs := (chanOf s c).recs ++
      [⟨[2 ^ 30 + (if chanState s c = 5 then stPARKED else stDISABLED) * 2 ^ 24 + words.getD 3 0 % 2 ^ 16, bits (words.getD 3 0) 31 20 + 1,
        s.now % 2 ^ 32, 0], false, false⟩] } := by
  unfold State.postChain
  rw [if_neg hs, if_neg Bool.false_ne_true]
  unfold State.postRecord
  rw [record_joins _ _ _ hring, Nat.zero_mul, Nat.add_zero, Nat.add_zero]
  rfl

/-! ### A new CONS (R292) -/

theorem ackCons_within {cons : Nat} (hcons : cons < 2 ^ 16) (h : (chGet s c MOVER_CH_CRIDX_PROD + 2 ^ 16 - cons) % 2 ^ 16 ≤ ringSize s c) :
    s.ackCons c cons = (true, s.put pgMOVER (MOVER_CH_CRIDX_CONS.at 64 c) cons) := by
  unfold State.ackCons
  rw [Nat.mod_eq_of_lt hcons]
  exact if_neg (Nat.not_lt.mpr h)
theorem ackCons_past {cons : Nat} (hcons : cons < 2 ^ 16) (h : ringSize s c < (chGet s c MOVER_CH_CRIDX_PROD + 2 ^ 16 - cons) % 2 ^ 16) :
    s.ackCons c cons = (false, (s.put pgMOVER (MOVER_CH_STAT_CONS_ERR.at 64 c) 1).irq pgMOVER (16 + c)) := by
  unfold State.ackCons
  rw [Nat.mod_eq_of_lt hcons]
  exact if_pos h
theorem consTaken_reads {cons : Nat} (hcons : cons < 2 ^ 16) :
    chGet (s.put pgMOVER (MOVER_CH_CRIDX_CONS.at 64 c) cons) c MOVER_CH_CRIDX_CONS = cons :=
  (chGet_put_self s c MOVER_CH_CRIDX_CONS cons (by decide)).trans (Nat.mod_eq_of_lt hcons)
/-- An ignored CONS leaves the register, and CONS_ERR is set. -/
theorem consIgnored_reads (hc : c < 16) :
    chGet ((s.put pgMOVER (MOVER_CH_STAT_CONS_ERR.at 64 c) 1).irq pgMOVER (16 + c)) c MOVER_CH_CRIDX_CONS = chGet s c MOVER_CH_CRIDX_CONS ∧
    chGet ((s.put pgMOVER (MOVER_CH_STAT_CONS_ERR.at 64 c) 1).irq pgMOVER (16 + c)) c MOVER_CH_STAT_CONS_ERR = 1 := by
  constructor
  · rw [chGet_irq _ _ _ hc (by decide) (by decide), chGet_put_apart _ _ _ (by decide) (by decide)]
  · rw [chGet_irq _ _ _ hc (by decide) (by decide), chGet_put_self _ _ _ _ (by decide)]
    rfl

/-! ### The word by its TYPE (R268) -/

section
variable {words : List Nat} {em1 : Bool}

theorem subTake_nop (h : bits (words.getD 0 0) 31 28 = 0) : s.subTake c words em1 = s := by
  unfold State.subTake
  rw [h]
  rfl
theorem subTake_post (h : bits (words.getD 0 0) 31 28 = 1) : s.subTake c words em1 = s.postChain c words false := by
  unfold State.subTake
  rw [h]
  rfl
theorem subTake_cplack (h : bits (words.getD 0 0) 31 28 = 2) : s.subTake c words em1 = (s.ackCons c (words.getD 1 0 % 2 ^ 16)).2 := by
  unfold State.subTake
  rw [h]
  rfl
theorem subTake_scrub (h : bits (words.getD 0 0) 31 28 = 3) :
    s.subTake c words em1 = if em1 then s.postChain c words true else s.put pgMOVER (MOVER_CH_STAT_BADSUB.at 64 c) 1 := by
  unfold State.subTake
  rw [h]
  rfl
/-- A word of a reserved TYPE, and a scrub post that EM1 did not write, set BADSUB. -/
theorem subTake_reserved (h : 3 ≤ bits (words.getD 0 0) 31 28) :
    s.subTake c words false = s.put pgMOVER (MOVER_CH_STAT_BADSUB.at 64 c) 1 := by
  unfold State.subTake
  split
  · omega
  · omega
  · omega
  · rfl
  · rfl
end

theorem badSub_reads (s : State) (c : Nat) :
    (s.put pgMOVER (MOVER_CH_STAT_BADSUB.at 64 c) 1).flag pgMOVER (MOVER_CH_STAT_BADSUB.at 64 c) = true := by
  rw [chFlag_eq, chGet_put_self _ _ _ _ (by decide)]
  rfl

/-! ### The commands -/

section
variable {w0 w1 w2 w3 : Nat}

/-- The words that a submission takes are 32 bits wide. -/
theorem subWords_eq (h : w0 < 2 ^ 32) : [w0, w1, w2, w3].map (· % 2 ^ 32) = [w0, w1 % 2 ^ 32, w2 % 2 ^ 32, w3 % 2 ^ 32] := by
  simp only [List.map_cons, List.map_nil, Nat.mod_eq_of_lt h]
/-- A word offered on SUB, of a TYPE of its command, is taken. -/
theorem subWord_taken {types : List Nat} (hc : c < 16) (hr : subReady s c = true) (hty : bits w0 31 28 ∈ types) (hw : w0 < 2 ^ 32) :
    subWord types c w0 w1 w2 w3 s = .next (s.subTake c [w0, w1 % 2 ^ 32, w2 % 2 ^ 32, w3 % 2 ^ 32] false) := by
  unfold subWord
  rw [if_pos ⟨hc, hr, List.contains_iff_mem.mpr hty⟩, subWords_eq hw]
theorem exec_subPost (hc : c < 16) (hr : subReady s c = true) (hty : bits w0 31 28 = 1) (hw : w0 < 2 ^ 32) :
    exec (.subPost c w0 w1 w2 w3) s = .next (s.postChain c [w0, w1 % 2 ^ 32, w2 % 2 ^ 32, w3 % 2 ^ 32] false) :=
  (subWord_taken (types := [1]) hc hr (by simp only [hty, List.mem_singleton]) hw).trans (congrArg Host.Outcome.next (subTake_post hty))
theorem exec_subCplack (hc : c < 16) (hr : subReady s c = true) (hty : bits w0 31 28 = 2) (hw : w0 < 2 ^ 32) (hw1 : w1 < 2 ^ 16) :
    exec (.subCplack c w0 w1 w2 w3) s = .next (s.ackCons c w1).2 := by
  refine (subWord_taken (types := [2]) hc hr (by simp only [hty, List.mem_singleton]) hw).trans (congrArg Host.Outcome.next ?_)
  refine (subTake_cplack (words := [w0, w1 % 2 ^ 32, w2 % 2 ^ 32, w3 % 2 ^ 32]) hty).trans ?_
  show (s.ackCons c (w1 % 2 ^ 32 % 2 ^ 16)).2 = _
  rw [show w1 % 2 ^ 32 % 2 ^ 16 = w1 by omega]
theorem exec_subScrub {m : Master} (hc : c < 16) (hr : subReady s c = true) (hty : bits w0 31 28 = 3) (hw : w0 < 2 ^ 32)
    (hm : mayWrite s m pgMOVER (MOVER_CH_POST3 + 64 * c) false = true) :
    exec (.subScrub m c w0 w1 w2 w3) s = .next (if m == .em1 then s.postChain c [w0, w1 % 2 ^ 32, w2 % 2 ^ 32, w3 % 2 ^ 32] true
      else s.put pgMOVER (MOVER_CH_STAT_BADSUB.at 64 c) 1) := by
  show execSubScrub m c w0 w1 w2 w3 s = _
  unfold execSubScrub
  rw [Nat.mod_eq_of_lt hc, if_neg (not_not_intro hty), State.gate_open _ _ _ _ _ _ hm, hr, State.cond_true, subWords_eq hw]
  exact congrArg Host.Outcome.next (subTake_scrub hty)
end

section
variable {m : Master}

/-- The words that CHc_POST0 to CHc_POST2 hold, with the last one. -/
def stagedWords (s : State) (c : Nat) (w3 : Word32) : List Nat :=
  [(s.rd (pgMOVER + MOVER_CH_POST0 + 64 * c)).toNat, (s.rd (pgMOVER + MOVER_CH_POST1 + 64 * c)).toNat,
    (s.rd (pgMOVER + MOVER_CH_POST2 + 64 * c)).toNat, w3.toNat]
theorem exec_channelPostWrite (w3 : Word32) (hc : c < 16) (hm : mayWrite s m pgMOVER (MOVER_CH_POST3 + 64 * c) false = true) :
    exec (.channelPostWrite m c w3) s = .next (if subReady s c then s.subTake c (stagedWords s c w3) (m == .em1)
      else s.refused m pgMOVER (MOVER_CH_POST3 + 64 * c)) := by
  have hgate := State.gate_open s m pgMOVER (MOVER_CH_POST3 + 64 * c) false (fun s => if subReady s c then
    s.subTake c (stagedWords s c w3) (m == .em1) else s.refused m pgMOVER (MOVER_CH_POST3 + 64 * c)) hm
  show execChannelPostWrite m c w3 s = _
  unfold execChannelPostWrite
  rw [Nat.mod_eq_of_lt hc]
  exact congrArg Host.Outcome.next hgate
theorem exec_cridxConsWrite (cons : Nat) (hc : c < 16) (hm : mayWrite s m pgMOVER (MOVER_CH_CRIDX + 64 * c) true = true) :
    exec (.cridxConsWrite m c cons) s = .next (if (s.ackCons c cons).1 then (s.ackCons c cons).2
      else (s.ackCons c cons).2.refused m pgMOVER (MOVER_CH_CRIDX + 64 * c)) := by
  show execCridxConsWrite m c cons s = _
  unfold execCridxConsWrite
  rw [Nat.mod_eq_of_lt hc]
  dsimp only
  rw [State.gate_open _ _ _ _ _ _ hm]
  rcases s.ackCons c cons with ⟨_ | _, t⟩ <;> rfl
end

/-- A CPLACK moves CONS, or leaves it and sets CONS_ERR. -/
theorem ackCons_leaves {cons : Nat} (hc : c < 16) (hcons : cons < 2 ^ 16) : (s.ackCons c cons).2.chans = s.chans ∧
    if (chGet s c MOVER_CH_CRIDX_PROD + 2 ^ 16 - cons) % 2 ^ 16 ≤ ringSize s c then chGet (s.ackCons c cons).2 c MOVER_CH_CRIDX_CONS = cons
    else chGet (s.ackCons c cons).2 c MOVER_CH_CRIDX_CONS = chGet s c MOVER_CH_CRIDX_CONS ∧
      (s.ackCons c cons).2.flag pgMOVER (MOVER_CH_STAT_CONS_ERR.at 64 c) = true := by
  split
  · rename_i hin
    rw [ackCons_within hcons hin]
    exact ⟨rfl, consTaken_reads hcons⟩
  · rename_i hout
    rw [ackCons_past hcons (Nat.not_le.mp hout), chFlag_eq, (consIgnored_reads hc).2]
    exact ⟨State.irq_chans .., (consIgnored_reads hc).1, rfl⟩
end

/-- Settles O21: each command by its own equation, a chain posted by `postChain_enabled` or `postChain_rejected`, a CONS by `ackCons`. -/
theorem moverSubmission : Obligations.MoverSubmission := by
  refine ⟨?nop, ?reserved, ?posted, ?rejected, ?cplack, ?scrub, ?staged, ?refused, ?within, ?past⟩
  case nop =>
    intro s c w0 w1 w2 w3 hc hr hty hw
    exact (subWord_taken hc hr (by rw [hty]; decide) hw).trans (congrArg Host.Outcome.next (subTake_nop hty))
  case reserved =>
    intro s c w0 w1 w2 w3 hc hr hty hw
    have hlt : bits w0 31 28 < 16 := Nat.mod_lt _ (by decide)
    refine ⟨_, (subWord_taken hc hr ?_ hw).trans (congrArg Host.Outcome.next (subTake_reserved hty)), badSub_reads s c, rfl⟩
    simp only [List.mem_cons, List.not_mem_nil, or_false]
    omega
  case posted =>
    intro s c w0 w1 w2 w3 hc hr hty hw hs
    exact ⟨_, exec_subPost hc hr hty hw, postChain_enabled _ _ hs⟩
  case rejected =>
    intro s c w0 w1 w2 w3 hc hr hty hw hs hring hw3
    have hpost := postChain_rejected [w0, w1 % 2 ^ 32, w2 % 2 ^ 32, w3 % 2 ^ 32] hs hring
    refine ⟨_, exec_subPost hc hr hty hw, (congrArg MvChan.chains hpost :), (congrArg MvChan.recs hpost).trans ?_⟩
    simp only [List.getD_cons_succ, List.getD_cons_zero, Nat.mod_eq_of_lt hw3]
  case cplack =>
    intro s c w0 w1 w2 w3 hc hr hty hw hw1
    exact ⟨_, exec_subCplack hc hr hty hw hw1, ackCons_leaves hc hw1⟩
  case scrub =>
    intro s m c w0 w1 w2 w3 hc hr hty hw hm hs
    refine ⟨_, exec_subScrub hc hr hty hw hm, ?_⟩
    by_cases hem : m = .em1
    · subst hem
      exact congrArg MvChan.chains (postChain_enabled _ _ hs).2.2
    · rw [if_neg hem, if_neg (by simpa using hem)]
      exact ⟨rfl, badSub_reads s c⟩
  case staged =>
    intro s m c w3 hc hm hr hs hty
    obtain ⟨hregs, -, hself⟩ := postChain_enabled (stagedWords s c w3) false hs
    exact ⟨_, (exec_channelPostWrite w3 hc hm).trans (congrArg Host.Outcome.next ((if_pos hr).trans (subTake_post hty))), hregs, hself⟩
  case refused =>
    intro s m c w3 hc hm hr
    refine ⟨_, (exec_channelPostWrite w3 hc hm).trans (congrArg Host.Outcome.next (if_neg (ne_true_of_eq_false hr))), rfl, ?_⟩
    exact (refused_errAddr s m pgMOVER (MOVER_CH_POST3 + 64 * c) (by simp only [pgMOVER, MOVER_CH_POST3]; omega)).trans (Nat.add_assoc ..).symm
  case within =>
    intro s m c cons hc hm hcons hin
    refine ⟨_, exec_cridxConsWrite cons hc hm, ?_⟩
    rw [ackCons_within hcons hin]
    exact ⟨rfl, consTaken_reads hcons⟩
  case past =>
    intro s m c cons hc hm hcons hout
    refine ⟨_, exec_cridxConsWrite cons hc hm, ?_⟩
    rw [ackCons_past hcons hout]
    refine ⟨(refused_chans ..).trans (State.irq_chans ..), ?_, ?_⟩
    · exact (chGet_refused _ _ _ _ (by decide)).trans (consIgnored_reads hc).1
    · rw [chFlag_eq]
      exact congrArg (· == 1) ((chGet_refused _ _ _ _ (by decide)).trans (consIgnored_reads hc).2)

end Sys2Proof.Machine

/-! PROOFS. Descriptors read and started (spec/09_movers_and_tokens.md R269, R274, R276, R293). The eleven commands of `descStarts` are one
operation, `startDesc`: what its checks count leaves the channels, and what it notes in the descriptor is said once. A read goes by its route. -/
namespace Sys2Proof.Machine

/-! ### What the channels' operations leave -/

section
variable {s : State} {c : Nat}

theorem jobs_job (f : MvJob → MvJob) {j : MvJob} {l : List MvJob} (h : (chanOf s c).jobs = j :: l) : (chanOf (s.job c f) c).jobs = f j :: l :=
  congrArg MvChan.jobs (chanOf_job_self s c f j l h)
theorem chanOf_job_of_ne (f : MvJob → MvJob) {d : Nat} (h : d ≠ c) : chanOf (s.job c f) d = chanOf s d := chanOf_chan_of_ne _ _ h
theorem reject_chans (source h gen st : Nat) : (s.reject source h gen st).chans = s.chans := by
  unfold State.reject
  split <;> rfl
theorem reject_hub (source h gen st : Nat) : (s.reject source h gen st).hub = s.hub := by
  unfold State.reject
  split <;> rfl
/-- R100 counts no request that passes its checks. -/
theorem reject_ok (source h gen : Nat) : s.reject source h gen stOK = s := if_neg (by decide)

/-! ### A start (R88, R274) -/

/-- Each command of a descriptor starts one of its operation. -/
theorem exec_descStart (s : State) (c : Nat) : ∀ e ∈ descStarts, exec (e.2 c) s = startDesc c e.1 s := by
  simp only [descStarts, List.forall_mem_cons]
  exact ⟨rfl, rfl, rfl, rfl, rfl, rfl, rfl, rfl, rfl, rfl, rfl, List.forall_mem_nil _⟩

/-- The state in which the check that refuses a descriptor has been counted (R100). -/
def State.mvChecked (s : State) (c : Nat) (j : MvJob) : State :=
  match mvRefused s c j with
  | some (e, st) => s.cond (mvForm s j == stOK) fun s => s.reject (j.source c) e.handle e.gen st
  | none => s
/-- What the start of descriptor j, of which state s is read, notes at the head of its channel. -/
def MvJob.begin (s : State) (j k : MvJob) : MvJob :=
  { k with started := true, acc := s.hub.accCtr, caps := s.mvCaps j, step := tidStep s k.tid, rend := (walkBytes s k).1,
           wend := if 4 ≤ k.op then 0 else dstBytes s k }
/-- The state in which descriptor j has started. -/
def State.mvBegun (s : State) (c : Nat) (j : MvJob) : State :=
  (((s.accept.2.job c (MvJob.begin s j)).job c fun k => { k with rend := if k.op = 4 ∨ k.op = 5 ∨ k.op = 8 then 0 else k.rend }).nrg
    fun e => { e with meter := Sp.del e.meter c })

theorem mvChecked_frame (s : State) (c : Nat) (j : MvJob) : (s.mvChecked c j).chans = s.chans ∧ (s.mvChecked c j).hub = s.hub := by
  unfold State.mvChecked
  split
  · rw [State.cond_chans, State.cond_hub, reject_chans, reject_hub, ite_self, ite_self]
    exact ⟨rfl, rfl⟩
  · exact ⟨rfl, rfl⟩
/-- A descriptor that passes its checks has none counted. -/
theorem mvChecked_ok {j : MvJob} (hok : mvCheck s c j = stOK) : s.mvChecked c j = s := by
  unfold State.mvChecked
  split
  · rename_i e st hrefused
    by_cases hform : mvForm s j = stOK
    · have hst : mvCheck s c j = st := by
        unfold mvCheck
        rw [if_neg (not_not_intro hform), hrefused]
      rw [← hst, hok, hform, beq_self_eq_true, State.cond_true]
      exact reject_ok ..
    · rw [beq_false_of_ne hform, State.cond_false]
  · rfl
/-- A descriptor that may start is checked and begins; where a check fails, it has ended. -/
theorem startDesc_begins {op : Nat} {j : MvJob} {l : List MvJob} (h : mayStart s c op j l) : startDesc c op s = .next
    (if mvCheck s c j = stOK then (s.mvChecked c j).mvBegun c j
      else ((s.mvChecked c j).mvBegun c j).job c fun k => { k with ended := true, status := mvCheck s c j }) := by
  obtain ⟨hc, hjobs, hstarted, hwords, hstate, hbroken, hrec, hop⟩ := h
  have hgo : ¬ (16 ≤ c ∨ j.started ∨ j.words = [] ∨ (chanState s c ≠ 2 ∧ chanState s c ≠ 5) ∨ (portOf s (56 + c)).broken ∨ recWait s c ∨
      (if j.op ≤ 10 then j.op else 0) ≠ op) := by
    rw [hstarted, hbroken, hrec, hop]
    simp only [hwords, ne_eq, not_true_eq_false, Bool.false_eq_true, or_false, false_or]
    omega
  unfold startDesc
  rw [hjobs]
  dsimp only
  rw [if_neg hgo]
  rfl
/-- The head of the channel once it has begun, with what lies behind it, the other channels, and the registers. -/
theorem mvBegun_leaves {j : MvJob} {l : List MvJob} (hjobs : (chanOf s c).jobs = j :: l) :
    (∃ k, (chanOf (s.mvBegun c j) c).jobs = k :: l ∧ k.words = j.words ∧ k.started = true ∧ k.ended = j.ended ∧ k.status = j.status ∧
      k.acc = s.hub.accCtr ∧ k.step = tidStep s j.tid) ∧
    (s.mvBegun c j).regs = s.regs ∧ (s.mvBegun c j).hub.flight = s.hub.flight ∧ ∀ d, d ≠ c → chanOf (s.mvBegun c j) d = chanOf s d := by
  have haccept : (chanOf s.accept.2 c).jobs = j :: l := hjobs
  refine ⟨⟨_, jobs_job _ (jobs_job _ haccept), rfl, rfl, rfl, rfl, rfl, rfl⟩, rfl, rfl, fun d hd => ?_⟩
  exact (chanOf_job_of_ne _ hd).trans (chanOf_job_of_ne _ hd)
/-- A descriptor that passes its checks starts. -/
theorem startDesc_starts {op : Nat} {j : MvJob} {l : List MvJob} (h : mayStart s c op j l) (hok : mvCheck s c j = stOK) :
    ∃ t, startDesc c op s = .next t ∧ ∃ k, (chanOf t c).jobs = k :: l ∧ k.words = j.words ∧ k.started = true ∧ k.ended = j.ended ∧
      k.status = j.status ∧ k.acc = s.hub.accCtr ∧ k.step = tidStep s j.tid ∧ t.regs = s.regs ∧ ∀ d, d ≠ c → chanOf t d = chanOf s d := by
  have hbegins := startDesc_begins h
  rw [if_pos hok, mvChecked_ok hok] at hbegins
  obtain ⟨-, hjobs, -⟩ := h
  obtain ⟨⟨k, hhead, hwords, hstarted, hended, hstatus, hacc, hstep⟩, hregs, -, hothers⟩ := mvBegun_leaves hjobs
  exact ⟨_, hbegins, k, hhead, hwords, hstarted, hended, hstatus, hacc, hstep, hregs, hothers⟩
/-- One that fails a check has started and ended with its status, without an access. -/
theorem startDesc_fails {op : Nat} {j : MvJob} {l : List MvJob} (h : mayStart s c op j l) (hbad : mvCheck s c j ≠ stOK) :
    ∃ t, startDesc c op s = .next t ∧ ∃ k, (chanOf t c).jobs = k :: l ∧ k.words = j.words ∧ k.started = true ∧ k.ended = true ∧
      k.status = mvCheck s c j ∧ t.hub.flight = s.hub.flight ∧ ∀ d, d ≠ c → chanOf t d = chanOf s d := by
  have hbegins := startDesc_begins h
  rw [if_neg hbad] at hbegins
  obtain ⟨-, hjobs, -⟩ := h
  obtain ⟨hchans, hhub⟩ := mvChecked_frame s c j
  obtain ⟨⟨k, hhead, hwords, hstarted, -⟩, -, hflight, hothers⟩ :=
    mvBegun_leaves (s := s.mvChecked c j) ((congrArg MvChan.jobs (chanOf_congr hchans c)).trans hjobs)
  refine ⟨_, hbegins, _, jobs_job _ hhead, hwords, hstarted, rfl, rfl, hflight.trans (congrArg HubSt.flight hhub), fun d hd => ?_⟩
  exact (chanOf_job_of_ne _ hd).trans ((hothers d hd).trans (chanOf_congr hchans d))

/-! ### A descriptor read (R269, R276) -/

section
variable {h : Chain}

/-- The descriptor that stands for DTID in the checks of a channel's own reads. -/
def dtidJob (s : State) (c : Nat) (h : Chain) : MvJob := { words := [chGet s c MOVER_CH_CFG_DTID * 2 ^ 22], chain := h.acc }
/-- The bytes of the next descriptor of a chain in external memory. -/
def fetchExtAddr (h : Chain) : Nat := (h.words.getD 1 0 / 64 * 64 + bits (h.words.getD 2 0) 15 0 * 2 ^ 32 + 64 * h.next) % 2 ^ 48
/-- The status of the next read of a chain in TM8 storage, before an access of it. -/
def fetchCheck (s : State) (c : Nat) (h : Chain) : Nat :=
  let st := handleCheck s c (dtidJob s c h) (fetchEp h).handle (fetchEp h).gen 0
  if st = stOK ∧ ((fetchEp h).handle = 0 ∨ !epFits s (fetchEp h) 64) then stBOUNDS else st
/-- The access by which it is read. -/
def State.fetchAccess (s : State) (c : Nat) (h : Chain) : Bool × State :=
  s.mvSend c (.mover c 1) .read false (epPiece s (fetchEp h) 0 64).layer (epPiece s (fetchEp h) 0 64).frame
    (cutSegs (epPiece s (fetchEp h) 0 64).byte 64 0) (chGet s c MOVER_CH_CFG_DTID) (hPolicy s (fetchEp h).handle) 2
/-- The state in which the next descriptor of a chain in external memory, or in TM8 storage, has been asked for. -/
def State.fetchExt (s : State) (c : Nat) (h : Chain) : State :=
  let r := s.extAccess c 1 (chGet s c MOVER_CH_CFG_DTID) false (bit (h.words.getD 0 0) 26) (fetchExtAddr h) 64 0
  r.2.cond r.1 fun s => s.fetching c h.acc 0
def State.fetchArray (s : State) (c : Nat) (h : Chain) : State :=
  if fetchCheck s c h ≠ stOK then
    ((s.reject (56 + c) (fetchEp h).handle (fetchEp h).gen (fetchCheck s c h)).fetching c h.acc 0).answerNow (.mover c 1) (fetchCheck s c h)
  else (s.fetchAccess c h).2.cond (s.fetchAccess c h).1 fun s => s.fetching c h.acc (fetchEp h).handle

/-- A channel that may read its chain's next descriptor takes a scrub post's own words, or asks for it by its location. -/
theorem exec_descriptorFetch (hf : mayFetch s c h) : exec (.descriptorFetch c) s = .next
    (if h.scrub then s.addJob c h.acc (some h.words) true 0 else if bit (h.words.getD 0 0) 27 then s.fetchExt c h else s.fetchArray c h) := by
  obtain ⟨hc, hstate, hbroken, hfetch, hahead, hnext⟩ := hf
  have hgo : ¬ (16 ≤ c ∨ chanState s c ≠ 2 ∨ (portOf s (56 + c)).broken ∨ (chanOf s c).fetch.isSome ∨ 5 ≤ (chanOf s c).jobs.length) := by
    rw [hstate, hbroken, hfetch]
    simp only [ne_eq, not_true_eq_false, Bool.false_eq_true, Option.isSome_none, false_or]
    omega
  show execDescriptorFetch c s = _
  unfold execDescriptorFetch
  dsimp only
  rw [if_neg hgo, hnext]
  dsimp only
  by_cases hscrub : h.scrub = true
  · rw [if_pos hscrub, if_pos hscrub]
  · rw [if_neg hscrub, if_neg hscrub]
    by_cases hext : bit (h.words.getD 0 0) 27 = true
    · rw [if_pos hext, if_pos hext]
      rfl
    · rw [if_neg hext, if_neg hext]
      unfold State.fetchArray
      by_cases hst : fetchCheck s c h ≠ stOK
      · rw [if_pos hst]
        exact if_pos hst
      · rw [if_neg hst]
        exact if_neg hst
/-- A read in flight is noted with its chain, and changes neither register nor access. -/
theorem fetching_notes (s : State) (c acc n : Nat) : (chanOf (s.fetching c acc n) c).fetch = some acc ∧ (s.fetching c acc n).regs = s.regs ∧
    (s.fetching c acc n).hub.flight = s.hub.flight ∧ (s.fetching c acc n).hub.answers = s.hub.answers ∧ (s.fetching c acc n).mport = s.mport :=
  ⟨congrArg MvChan.fetch (chanOf_chan_self ..), rfl, rfl, rfl, rfl⟩
/-- The chain whose descriptor is read next is one of the channel's. -/
theorem chain_of_nextChain (hnext : nextChain s c = some h) : ∃ g, ((chanOf s c).chains.find? fun k => k.acc == h.acc) = some g := by
  rw [← Option.isSome_iff_exists, List.find?_isSome]
  exact ⟨h, List.mem_of_find?_eq_some hnext, beq_self_eq_true _⟩
/-- A descriptor that has been read joins those of its channel. -/
theorem addJob_joins (words : List Nat) (scrub : Bool) (st : Nat) (hnext : nextChain s c = some h) :
    (chanOf (s.addJob c h.acc (some words) scrub st) c).jobs =
      (chanOf s c).jobs ++ [{ words := words, chain := h.acc, scrub := scrub, status := st }] := by
  obtain ⟨g, hg⟩ := chain_of_nextChain hnext
  unfold State.addJob
  rw [hg]
  exact congrArg MvChan.jobs (chanOf_chan_self ..)
theorem fetchExtAddr_aligned (h : Chain) : fetchExtAddr h % 64 = 0 := by
  unfold fetchExtAddr
  omega
/-- With room and its engine's turn, an access whose route is direct is a transaction on the master port. -/
theorem extAccess_direct {unit tid a n data : Nat} {wr : Bool} (hroom : mpRoom s = true) (hturn : mpTurn s (c / 4) = true) :
    ∃ t, s.extAccess c unit tid wr true a n data = (true, t) ∧
      t.mport = s.mport ++ [⟨s.mpCtr, .chan c unit, wr, a / 64 * 64, mpLen a n, a % 64, n, data, 0⟩] := by
  unfold State.extAccess
  rw [if_neg (by simp only [Bool.not_true, Bool.false_eq_true, false_and, not_false_eq_true]), hroom, hturn]
  exact ⟨_, rfl, rfl⟩
/-- One in external memory is read over the master port, 64 bytes. -/
theorem fetchExt_reads (hdirect : bit (h.words.getD 0 0) 26 = true) (hroom : mpRoom s = true) (hturn : mpTurn s (c / 4) = true) :
    (chanOf (s.fetchExt c h) c).fetch = some h.acc ∧ (s.fetchExt c h).mport = s.mport ++
      [⟨s.mpCtr, .chan c 1, false, fetchExtAddr h, 64, 0, 64, 0, 0⟩] := by
  obtain ⟨t, hacc, hport⟩ := extAccess_direct (s := s) (c := c) (unit := 1) (tid := chGet s c MOVER_CH_CFG_DTID) (a := fetchExtAddr h) (n := 64)
    (data := 0) (wr := false) hroom hturn
  have halign := fetchExtAddr_aligned h
  unfold State.fetchExt
  rw [hdirect, hacc]
  refine ⟨(fetching_notes ..).1, ((fetching_notes t c h.acc 0).2.2.2.2.trans hport).trans ?_⟩
  rw [show mpLen (fetchExtAddr h) 64 = 64 by unfold mpLen; omega, show fetchExtAddr h / 64 * 64 = fetchExtAddr h by omega, halign]
/-- One whose handle is stale is answered at once. -/
theorem fetchArray_stale (hhandle : (fetchEp h).handle ≠ 0) (hlive : liveDesc s (fetchEp h).handle (fetchEp h).gen = none) :
    (chanOf (s.fetchArray c h) c).fetch = some h.acc ∧
      (s.fetchArray c h).hub.answers = s.hub.answers ++ [⟨.mover c 1, stSTALE, 0, [], 0, 0, 0, 0⟩] := by
  have hcheck : fetchCheck s c h = stSTALE := by
    have hst : handleCheck s c (dtidJob s c h) (fetchEp h).handle (fetchEp h).gen 0 = stSTALE := by
      unfold handleCheck
      rw [if_neg hhandle, hlive]
    unfold fetchCheck
    rw [hst]
    rfl
  unfold State.fetchArray
  rw [hcheck, if_pos (by decide)]
  refine ⟨(fetching_notes ..).1, ?_⟩
  exact congrArg (· ++ [_]) (((fetching_notes ..).2.2.2.1).trans (congrArg HubSt.answers (reject_hub ..)))
/-- One that passes its checks is read by an access of the channel. -/
theorem fetchArray_reads {u : State} (hhandle : (fetchEp h).handle ≠ 0) (hfits : epFits s (fetchEp h) 64 = true)
    (hcheck : handleCheck s c (dtidJob s c h) (fetchEp h).handle (fetchEp h).gen 0 = stOK) (hsent : s.fetchAccess c h = (true, u)) :
    (chanOf (s.fetchArray c h) c).fetch = some h.acc ∧ (s.fetchArray c h).hub.flight = u.hub.flight ∧ (s.fetchArray c h).regs = u.regs := by
  have hok : fetchCheck s c h = stOK := by
    unfold fetchCheck
    rw [hcheck, hfits]
    exact if_neg (by simp only [hhandle, Bool.not_true, Bool.false_eq_true, or_self, and_false, not_false_eq_true])
  have hread : s.fetchArray c h = u.fetching c h.acc (fetchEp h).handle := by
    unfold State.fetchArray
    rw [if_neg (not_not_intro hok), hsent]
    rfl
  rw [hread]
  obtain ⟨hfetch, hregs, hflight, -⟩ := fetching_notes u c h.acc (fetchEp h).handle
  exact ⟨hfetch, hflight, hregs⟩
theorem exec_fetchArray (hf : mayFetch s c h) (hscrub : h.scrub = false) (hloc : bit (h.words.getD 0 0) 27 = false) :
    exec (.descriptorFetch c) s = .next (s.fetchArray c h) :=
  (exec_descriptorFetch hf).trans (congrArg Host.Outcome.next
    ((if_neg (ne_true_of_eq_false hscrub)).trans (if_neg (ne_true_of_eq_false hloc))))
end
end

/-- Settles O22: the eleven starts by `startDesc`, and a read by its location. -/
theorem descriptorsStart : Obligations.DescriptorsStart := by
  refine ⟨?starts, ?fails, ?scrub, ?external, ?stale, ?storage⟩
  case starts =>
    intro op f hmem s c j l hstart hok
    rw [exec_descStart s c _ hmem]
    exact startDesc_starts hstart hok
  case fails =>
    intro op f hmem s c j l hstart hbad
    rw [exec_descStart s c _ hmem]
    exact startDesc_fails hstart hbad
  case scrub =>
    intro s c h hf hscrub
    have ⟨_, _, _, _, _, hnext⟩ := hf
    exact ⟨_, (exec_descriptorFetch hf).trans (congrArg Host.Outcome.next (if_pos hscrub)), addJob_joins _ _ _ hnext⟩
  case external =>
    intro s c h hf hscrub hext hdirect hroom hturn
    exact ⟨_, (exec_descriptorFetch hf).trans (congrArg Host.Outcome.next ((if_neg (ne_true_of_eq_false hscrub)).trans (if_pos hext))),
      fetchExt_reads hdirect hroom hturn⟩
  case stale =>
    intro s c h hf hscrub hloc hhandle hlive
    exact ⟨_, exec_fetchArray hf hscrub hloc, fetchArray_stale hhandle hlive⟩
  case storage =>
    rintro s u c _ h hf hscrub hloc hhandle hfits rfl hcheck hsent
    exact ⟨_, exec_fetchArray hf hscrub hloc, fetchArray_reads hhandle hfits hcheck hsent⟩

end Sys2Proof.Machine

/-! PROOFS. What a mover engine does beside its accesses (spec/09_movers_and_tokens.md R265, R276, R289, R293, R295, R299, R304;
spec/16_power_and_energy.md R491). A channel that holds nothing is passed over, so an engine with one busy channel does what that channel does. An
append and a completion change their own descriptor; the energy ledger and the counter operation are apart from the channels. -/
namespace Sys2Proof.Machine

section
variable {s : State} {c : Nat}

/-! ### A descriptor fails (R293) -/

/-- A channel that gives up its wait keeps its descriptors. -/
theorem mvGiveUp_jobs (s : State) (c : Nat) : (chanOf (s.mvGiveUp c) c).jobs = (chanOf s c).jobs := by
  unfold State.mvGiveUp
  rw [chanOf_chan_self]
  rfl
/-- A descriptor that has not failed before, and has taken no slot for an append, ends with its status and item. -/
theorem mvFail_ends {j : MvJob} {l : List MvJob} (st item nak : Nat) (hjobs : (chanOf s c).jobs = j :: l) (hgood : j.status = 0)
    (hslot : j.slot2 = none) :
    (chanOf (s.mvFail c st item nak) c).jobs = { j with ended := true, status := st, fail := item, nak := nak } :: l := by
  unfold State.mvFail
  rw [jobs_job _ ((mvGiveUp_jobs s c).trans hjobs)]
  dsimp only
  rw [if_pos (show j.status = 0 ∨ item < j.fail from .inl hgood), if_neg]
  rw [hslot]
  exact fun h => absurd h.1 Bool.false_ne_true

/-! ### An append (R299) -/

section
variable {j : MvJob} {l : List MvJob}

/-- A descriptor at its append is let through to it. -/
theorem atAppend_goes (h : atAppend s c j l) : ¬ (16 ≤ c ∨ !mvReady s c j ∨ j.op < 8 ∨ j.sub ≠ 3 ∨ (portOf s (56 + c)).broken) := by
  obtain ⟨hc, -, hready, hbroken, hop, hsub, -⟩ := h
  rw [hready, hbroken, hsub]
  simp only [Bool.not_true, Bool.false_eq_true, ne_eq, not_true_eq_false, or_false, false_or]
  omega
theorem append_unmapped (h : atAppend s c j l) (hentry : (appendOf s j).1 = none) :
    exec (.routerAppend c) s = .next (s.mvFail c stBOUNDS j.item 0) := by
  have hgo := atAppend_goes h
  obtain ⟨-, hjobs, -⟩ := h
  show execRouterAppend c s = _
  unfold execRouterAppend
  rw [hjobs]
  dsimp only
  rw [if_neg hgo, hentry]
theorem next_of_ites {a b : Prop} [Decidable a] [Decidable b] (x y z : State) :
    (if a then .next x else if b then .next y else .next z : Res) = .next (if a then x else if b then y else z) := by
  rw [apply_ite Host.Outcome.next, apply_ite Host.Outcome.next]
/-- The state in which an append to a slot has noted the slot and its ring's deadline, and goes on where the slot is EMPTY. -/
def State.appendAt (s : State) (c : Nat) (j : MvJob) (ring k : Nat) : State :=
  let dl := j.deadline.getD (slotDeadline s ring)
  let t := s.job c fun j => { j with slot2 := some (ring, k), deadline := some dl }
  if !tagFull s ring k then t.job c fun j => { j with sub := 4, deadline := none, wait := 0, stg := 0, stgN := 0 }
  else if dl ≤ s.now then t.appendFail c stTIMEOUT j.item
  else t.job c fun j => { j with wait := 4 }
/-- An append to a ring whose slots hold its vector has the slot that it took before, or takes the one at the ring's cursor. -/
theorem append_local {ring k : Nat} {u : State} (h : atAppend s c j l) (hentry : (appendOf s j).1 = some (.inl ring)) (hring : ringOn s ring = true)
    (hlines : j.vlines < slotLines s ring)
    (hslot : j.slot2 = some (ring, k) ∧ u = s ∨ j.slot2 = none ∧ s.takeCursor ring true = (k, u)) :
    exec (.routerAppend c) s = .next (u.appendAt c j ring k) := by
  have hgo := atAppend_goes h
  obtain ⟨-, hjobs, -⟩ := h
  have hfits : ¬ (!ringOn s ring ∨ slotLines s ring < j.vlines + 1) := by
    rw [hring]
    simp only [Bool.not_true, Bool.false_eq_true, false_or]
    omega
  show execRouterAppend c s = _
  unfold execRouterAppend
  rw [hjobs]
  dsimp only
  rw [if_neg hgo, hentry]
  dsimp only
  rw [if_neg hfits]
  rcases hslot with ⟨hslot, rfl⟩ | ⟨hslot, htake⟩
  · rw [hslot]
    exact next_of_ites ..
  · rw [hslot]
    dsimp only
    rw [htake]
    exact next_of_ites ..
/-- It goes on where its slot is EMPTY. -/
theorem appendAt_goes {ring k : Nat} (hjobs : (chanOf s c).jobs = j :: l) (htag : tagFull s ring k = false) :
    (s.appendAt c j ring k).regs = s.regs ∧ (chanOf (s.appendAt c j ring k) c).jobs =
      { j with slot2 := some (ring, k), sub := 4, deadline := none, wait := 0, stg := 0, stgN := 0 } :: l := by
  unfold State.appendAt
  rw [htag]
  exact ⟨rfl, jobs_job _ (jobs_job _ hjobs)⟩
/-- It waits for a full one until the deadline. -/
theorem appendAt_waits {ring k : Nat} (hjobs : (chanOf s c).jobs = j :: l) (htag : tagFull s ring k = true) (hfresh : j.deadline = none)
    (htime : s.now < slotDeadline s ring) : (chanOf (s.appendAt c j ring k) c).jobs =
      { j with slot2 := some (ring, k), deadline := some (slotDeadline s ring), wait := 4 } :: l := by
  unfold State.appendAt
  rw [htag, hfresh]
  dsimp only [Option.getD_none]
  rw [if_neg (by decide), if_neg (Nat.not_le.mpr htime)]
  exact jobs_job _ (jobs_job _ hjobs)
/-- A remote append without a credit waits for one until CRED_TMO. -/
theorem append_creditless {a : Nat} (h : atAppend s c j l) (hentry : (appendOf s j).1 = some (.inr a))
    (hcred : s.get pgMOVER (MOVER_CA_CRED_CREDITS.at 8 a) = 0) (hfresh : j.deadline = none) (htmo : s.get pgMOVER MOVER_CRED_TMO_TICKS ≠ 0) :
    ∃ t, exec (.routerAppend c) s = .next t ∧ (chanOf t c).jobs =
      { j with wait := 3, deadline := some (s.now + s.get pgMOVER MOVER_CRED_TMO_TICKS) } :: l := by
  have hgo := atAppend_goes h
  obtain ⟨-, hjobs, -⟩ := h
  refine ⟨s.job c fun j => { j with wait := 3, deadline := some (j.deadline.getD (s.now + s.get pgMOVER MOVER_CRED_TMO_TICKS)) }, ?_, ?_⟩
  · show execRouterAppend c s = _
    unfold execRouterAppend
    rw [hjobs]
    dsimp only
    rw [if_neg hgo, hentry]
    dsimp only
    rw [hcred, bne_self_eq_false, Bool.and_false, if_neg Bool.false_ne_true]
    simp only [if_neg htmo]
  · rw [jobs_job _ hjobs, hfresh]
    rfl
/-- The wait of a remote append for a credit ends at its deadline. -/
theorem creditWait_ends {a d : Nat} (hjobs : (chanOf s c).jobs = j :: l) (hstarted : j.started = true) (hended : j.ended = false) (hop : 8 ≤ j.op)
    (hsub : j.sub = 3) (hentry : (appendOf s j).1 = some (.inr a)) (hdl : j.deadline = some d) (hpast : d ≤ s.now) :
    exec (.creditWaitTimeout c) s = .next (s.mvFail c stTIMEOUT j.item 0) := by
  show execCreditWaitTimeout c s = _
  unfold execCreditWaitTimeout
  rw [hjobs]
  dsimp only
  rw [hentry, hstarted, hended, hsub, hdl]
  exact if_pos (by simp only [hop, hpast, decide_true, Option.map_some, Option.getD_some, Bool.not_false, BEq.rfl, Bool.and_self])
end

/-! ### The master port, and a credit account (R276, R304) -/

/-- The answer of the master port to a channel, or to the firmware. -/
def mportAnswer (r : MpReq) (err : Bool) (data : Nat) : Answer :=
  ⟨(match r.src with | .chan c u => .mover c u | _ => .firmware r.n), if err then 10 else stOK, 0, [], r.value data, 0, 0, 0⟩
theorem masterPortResponse_answers {id : Nat} {r : MpReq} (err : Bool) (data : Nat) (hfind : (s.mport.find? fun r => r.id == id) = some r)
    (hsrc : r.src = .image ∨ ∃ c u, r.src = .chan c u) :
    ∃ t, exec (.masterPortResponse id err data) s = .next t ∧ t.mport = s.mport.filter (fun q => q.id != id) ∧
      t.hub.answers = s.hub.answers ++ [mportAnswer r err data] := by
  show ∃ t, execMasterPortResponse id err data s = .next t ∧ _
  unfold execMasterPortResponse mportAnswer
  rw [hfind]
  rcases hsrc with hsrc | ⟨c, u, hsrc⟩
  · dsimp only
    rw [hsrc]
    cases err <;> exact ⟨_, rfl, rfl, rfl⟩
  · dsimp only
    rw [hsrc]
    cases err <;> exact ⟨_, rfl, rfl, rfl⟩
theorem creditClear_clears {m : Master} {a : Nat} (ha : a < 64) (hm : mayWrite s m pgMOVER (MOVER_CA_CFG + 8 * a) false = true)
    (ht : s.cfg.optT = true) :
    ∃ t, exec (.creditClear m a) s = .next t ∧ t.get pgMOVER (MOVER_CA_CRED_CREDITS.at 8 a) = 0 := by
  refine ⟨s.put pgMOVER (MOVER_CA_CRED_CREDITS.at 8 a) 0, ?_, State.get_put_self _ _ _ _ (Fld.at_fits (f := MOVER_CA_CRED_CREDITS) 8 a (by decide))⟩
  show execCreditClear m a s = _
  unfold execCreditClear
  rw [Nat.mod_eq_of_lt ha]
  dsimp only
  rw [State.gate_open _ _ _ _ _ _ hm, ht, State.cond_true]

/-! ### The next chunk of a descriptor (R295, R491) -/

theorem chunkOf_admitFrom (s : State) (h : Chunk) (pool : Nat) :
    chunkOf (s.admitFrom h pool) h.owner = (chunkOf s h.owner).map fun k => { k with adm := true, live := true, pool := pool } := by
  unfold chunkOf
  rw [State.admitFrom_chunks]
  induction s.energyAcc.chunks with
  | nil => rfl
  | cons k ks ih =>
    rw [List.map_cons, List.find?_cons, List.find?_cons, ih]
    by_cases hk : k.owner = h.owner
    · have hb : (k.owner == h.owner) = true := beq_iff_eq.mpr hk
      rw [if_pos hk]
      dsimp only
      rw [hb]
      rfl
    · rw [if_neg hk, beq_false_of_ne hk]
/-- A chunk of an RT TID is admitted as it asks. -/
theorem askChunk_rt {o tid : Nat} (n est : Nat) (hnone : chunkOf s o = none) (hrt : tidClass s tid = 0) :
    (s.askChunk o tid n est).1 = false ∧ (chunkOf (s.askChunk o tid n est).2 o).any (·.adm) = true := by
  have hpool : ∀ (t : State) (ahead : Bool), tidClass t tid = 0 → ∃ p, admitPool t tid est ahead false = some p :=
    fun _ _ ht => ⟨_, if_pos ht⟩
  obtain ⟨p, hp⟩ := hpool (s.nrg fun e => { e with chunks := e.chunks ++ [⟨o, tid, n, est, false, 2, false, 0⟩] }) (anyDeferred s) hrt
  have hasked : (chunkOf (s.nrg fun e => { e with chunks := e.chunks ++ [⟨o, tid, n, est, false, 2, false, 0⟩] }) o) =
      some ⟨o, tid, n, est, false, 2, false, 0⟩ := by
    show (s.energyAcc.chunks ++ [_]).find? _ = _
    rw [List.find?_append, show s.energyAcc.chunks.find? (fun h => h.owner == o) = none from hnone]
    simp only [Option.none_or, List.find?_cons, beq_self_eq_true]
  unfold State.askChunk
  dsimp only
  rw [hp]
  refine ⟨rfl, ?_⟩
  have hadmitted := chunkOf_admitFrom (s.nrg fun e => { e with chunks := e.chunks ++ [⟨o, tid, n, est, false, 2, false, 0⟩] })
    ⟨o, tid, n, est, false, 2, false, 0⟩ p
  rw [hasked] at hadmitted
  exact congrArg (Option.any (·.adm)) hadmitted
theorem endChunk_none (h : chunkOf s c = none) : s.endChunk c = s := by
  unfold State.endChunk
  rw [h]
/-- The chunk that the running descriptor of an RT TID asks for, where its channel has none. -/
theorem mvChunk_rt {j : MvJob} {l : List MvJob} (hjobs : (chanOf s c).jobs = j :: l) (hnone : chunkOf s c = none) (hrt : tidClass s j.tid = 0) :
    (chunkOf (s.mvChunk c j) c).any (·.adm) = true ∧ (chanOf (s.mvChunk c j) c).jobs =
      { j with chunk := min 4096 (max (accessTotal s j) (j.accs + 1) - j.accs), need := false, wait := 0 } :: l := by
  unfold State.mvChunk
  dsimp only
  rw [endChunk_none hnone]
  generalize min 4096 (max (accessTotal s j) (j.accs + 1) - j.accs) = n
  generalize (_ / _ : Nat) = est
  obtain ⟨hadm, hchunk⟩ := askChunk_rt n est hnone hrt
  obtain ⟨-, -, hchans, -⟩ := sansE_frame (State.askChunk_sansE s c j.tid n est)
  rw [hadm, State.cond_false]
  refine ⟨hchunk, ?_⟩
  rw [chanOf_chan_self, chanOf_congr hchans, hjobs]
  rfl
theorem chunkAdmission_admits {j : MvJob} {l : List MvJob} (hc : c < 16) (hjobs : (chanOf s c).jobs = j :: l) (hstarted : j.started = true)
    (hended : j.ended = false) (hout : j.out = false) (hneed : j.need = true) (hchunk : j.chunk = 0) (hbroken : (portOf s (56 + c)).broken = false)
    (hnone : chunkOf s c = none) : exec (.moverChunkAdmission c) s = .next (s.mvChunk c j) := by
  show execMoverChunkAdmission c s = _
  unfold execMoverChunkAdmission
  rw [hjobs]
  refine if_neg ?_
  rw [hneed, hstarted, hended, hout, hchunk, hbroken, hnone]
  simp only [Bool.not_true, Bool.false_eq_true, ne_eq, not_true_eq_false, Option.any_none, or_self, or_false]
  omega

/-! ### A pc of an engine (R265) -/

theorem hubf_id {f : HubSt → HubSt} (h : f s.hub = s.hub) : s.hubf f = s := by
  unfold State.hubf
  rw [h]
theorem lnk_id {f : LinkSt → LinkSt} (h : f s.link = s.link) : s.lnk f = s := by
  unfold State.lnk
  rw [h]
theorem each_id {α : Type} {f : State → α → State} (h : ∀ a, f s a = s) : ∀ l : List α, s.each l f = s
  | [] => rfl
  | a :: l => (congrArg (fun t => State.each t l f) (h a)).trans (each_id h l)
/-- Where nothing has come back, there is nothing for a channel to take. -/
theorem mvPull_idle (ha : s.hub.answers = []) (hr : s.link.results = []) (c : Nat) : s.mvPull c = s := by
  have hhub : ∀ p, (s.hubf fun h => { h with answers := h.answers.filter p }) = s := fun p => hubf_id (by rw [ha, List.filter_nil, ← ha])
  have hlnk : ∀ p, (s.lnk fun l => { l with results := l.results.filter p }) = s := fun p => lnk_id (by rw [hr, List.filter_nil, ← hr])
  unfold State.mvPull
  dsimp only
  rw [hhub, ha, List.filter_nil, each_nil, hlnk, hr, List.filter_nil, each_nil]

/-- An engine comes to channel c in its order: `acc` holds the accesses that it has issued in this pc, and the state. -/
def engServe (e : Nat) (acc : Nat × State) (c : Nat) : Nat × State :=
  let (n, s) := acc
  if 2 ≤ n then (n, s)
  else
    let (rec, s) := s.recIssue c
    let n := n + b2n rec
    let before := mvOut s c || decide (2 ≤ n)
    let s := if before then s else s.mvRun c 600
    let n := n + b2n (!before && mvOut s c)
    (n, s.cond (!before && mvOut s c) fun s => { s with engRr := Sp.set s.engRr e (c % 4) })
/-- An engine to whose channels nothing has come back serves those that work, in its order. -/
theorem exec_moverIssue {e : Nat} (he : e < 4) (ha : s.hub.answers = []) (hr : s.link.results = []) : exec (.moverIssue e) s =
    .next (((engOrder s e).filter fun c => !(portOf s (56 + c)).broken).foldl (engServe e) (0, s)).2 := by
  show execMoverIssue e s = _
  unfold execMoverIssue
  rw [if_neg (Nat.not_le.mpr he)]
  dsimp only
  rw [each_id (mvPull_idle ha hr)]
  rfl
theorem mvRun_idle (h : ∀ j l, (chanOf s c).jobs = j :: l → mvReady s c j = false) : ∀ n, s.mvRun c n = s
  | 0 => rfl
  | n + 1 => by
    unfold State.mvRun
    split
    · rfl
    · rename_i j l hjobs
      exact if_neg (ne_true_of_eq_false (h j l hjobs))
theorem mvRun_stops {j : MvJob} {l : List MvJob} {t : State} (n : Nat) (hjobs : (chanOf s c).jobs = j :: l) (hready : mvReady s c j = true)
    (hstep : s.mvStep c j = (false, t)) : s.mvRun c (n + 1) = t := by
  unfold State.mvRun
  rw [hjobs]
  dsimp only
  rw [if_pos hready, hstep]
theorem mvOut_head {j : MvJob} {l : List MvJob} (hjobs : (chanOf s c).jobs = j :: l) : mvOut s c = j.out := by
  unfold mvOut
  rw [hjobs]
  rfl
/-- A channel without a record to write that issues no access leaves its engine what it has run. -/
theorem engServe_runs {t : State} (e : Nat) (hrecs : (chanOf s c).recs = []) (hout : mvOut s c = false) (hrun : s.mvRun c 600 = t)
    (hafter : mvOut t c = false) : engServe e (0, s) c = (0, t) := by
  have hrec : s.recIssue c = (false, s) := by
    unfold State.recIssue
    dsimp only
    rw [hrecs]
  unfold engServe
  dsimp only
  rw [if_neg (by decide), hrec]
  dsimp only
  rw [hout, show (false || decide (2 ≤ 0 + b2n false)) = false from rfl, if_neg Bool.false_ne_true, hrun, hafter]
  rfl
/-- A channel that holds nothing to run is passed over. -/
theorem engServe_passes (e : Nat) (hrecs : (chanOf s c).recs = []) (hidle : ∀ j l, (chanOf s c).jobs = j :: l → j.ended = true ∧ j.out = false) :
    engServe e (0, s) c = (0, s) := by
  have hout : mvOut s c = false := by
    cases hjobs : (chanOf s c).jobs with
    | nil =>
      unfold mvOut
      rw [hjobs]
      rfl
    | cons j l => exact (mvOut_head hjobs).trans (hidle j l hjobs).2
  refine engServe_runs e hrecs hout (mvRun_idle (fun j l hjobs => ?_) 600) hout
  unfold mvReady
  rw [(hidle j l hjobs).1, Bool.not_true, Bool.and_false, Bool.false_and, Bool.false_and]
theorem engServe_empty (e : Nat) (h : chanOf s c = {}) : engServe e (0, s) c = (0, s) :=
  engServe_passes e (congrArg MvChan.recs h) fun _ _ hjobs => absurd (hjobs.symm.trans (congrArg MvChan.jobs h)) (List.cons_ne_nil _ _)
/-- A descriptor that asks for no notify is over at once. -/
theorem mvOver_ends {j : MvJob} (hntfy : bit (j.d 12) 29 = false) : s.mvOver c j = s.job c fun j => { j with ended := true } := by
  unfold State.mvOver
  dsimp only
  rw [hntfy, Bool.and_false, Bool.false_and, Bool.false_and, Bool.false_and, if_neg Bool.false_ne_true, State.cond_false]
theorem mvStep_nop {j : MvJob} (hop : j.op = 0) (hntfy : bit (j.d 12) 29 = false) :
    s.mvStep c j = (false, s.job c fun j => { j with ended := true }) := by
  unfold State.mvStep
  rw [hop]
  exact congrArg (Prod.mk false) (mvOver_ends hntfy)
/-- Each channel of an engine has its place in the engine's order. -/
theorem mem_engOrder (s : State) (c : Nat) : c ∈ engOrder s (c / 4) := by
  unfold engOrder
  dsimp only
  generalize Sp.get 3 s.engRr (c / 4) = last
  exact List.mem_map.mpr ⟨(c + 3 * (last + 1)) % 4, List.mem_range.mpr (Nat.mod_lt _ (by decide)), by omega⟩
/-- A pass over a list that changes the state at one of its elements alone, once. -/
theorem foldl_once {α β : Type} {f : β → α → β} {x y : β} {a : α} (hself : f x a = y) (hother : ∀ b, b ≠ a → f x b = x)
    (hdone : ∀ b, f y b = y) : ∀ l : List α, a ∈ l → l.foldl f x = y
  | [], h => absurd h List.not_mem_nil
  | b :: l, h => by
    rw [List.foldl_cons]
    by_cases hb : b = a
    · rw [hb, hself]
      exact List.foldlRecOn l f (motive := (· = y)) rfl fun _ hz b _ => hz ▸ hdone b
    · rw [hother b hb]
      exact foldl_once hself hother hdone l ((List.mem_cons.mp h).resolve_left fun hab => hb hab.symm)
theorem chanOf_alone {k : MvChan} (h : s.chans = [(c, k)]) : chanOf s c = k := by
  unfold chanOf
  rw [h]
  exact if_pos rfl
theorem chanOf_empty {k : MvChan} {d : Nat} (h : s.chans = [(c, k)]) (hd : d ≠ c) : chanOf s d = {} := by
  unfold chanOf
  rw [h]
  exact (if_neg hd).trans (ite_self _)
/-- An engine runs the NOP of its one busy channel to its end. -/
theorem moverIssue_nop {e : Nat} {k : MvChan} {j : MvJob} {l : List MvJob} (he : e < 4) (hc : c / 4 = e) (halone : aloneIn s c k)
    (hjobs : k.jobs = j :: l) (hrecs : k.recs = []) (hbroken : (portOf s (56 + c)).broken = false) (hready : mvReady s c j = true)
    (hop : j.op = 0) (hntfy : bit (j.d 12) 29 = false) :
    exec (.moverIssue e) s = .next (s.job c fun j => { j with ended := true }) := by
  obtain ⟨ha, hr, hchans⟩ := halone
  have hself := chanOf_alone hchans
  have hhead : (chanOf s c).jobs = j :: l := hself ▸ hjobs
  have hnone : (chanOf s c).recs = [] := hself ▸ hrecs
  have hout : j.out = false := by
    unfold mvReady at hready
    simp only [Bool.and_eq_true, Bool.not_eq_true'] at hready
    exact hready.1.2
  have hafter := chanOf_job_self s c (fun j => { j with ended := true }) j l hhead
  rw [exec_moverIssue he ha hr, ← hc]
  refine congrArg (fun x : Nat × State => Host.Outcome.next x.2) (foldl_once (y := (0, s.job c fun j => { j with ended := true })) ?runs ?empty ?done
    _ (List.mem_filter.mpr ⟨mem_engOrder s c, by rw [hbroken]; rfl⟩))
  case runs =>
    exact engServe_runs _ hnone ((mvOut_head hhead).trans hout) (mvRun_stops 599 hhead hready (mvStep_nop hop hntfy))
      ((mvOut_head (jobs_job _ hhead)).trans hout)
  case empty =>
    exact fun d hd => engServe_empty _ (chanOf_empty hchans hd)
  case done =>
    intro d
    by_cases hd : d = c
    · subst hd
      refine engServe_passes _ ((congrArg MvChan.recs hafter).trans hnone) fun g m h => ?_
      have hg := (List.cons.inj ((jobs_job _ hhead).symm.trans h)).1
      rw [← hg]
      exact ⟨rfl, hout⟩
    · exact engServe_empty _ ((chanOf_job_of_ne _ hd).trans (chanOf_empty hchans hd))

/-! ### Completion (R289, R293) -/

/-- A channel that is not DRAINING discards nothing. -/
theorem drainChan_stays (h : chanState s c ≠ 3) : s.drainChan c = s := if_neg fun hdrain => h hdrain.1
/-- A descriptor that ended well leaves its channel, which is not DRAINING, and changes no register. -/
theorem jobLeaves_leaves {j : MvJob} {l : List MvJob} (hjobs : (chanOf s c).jobs = j :: l) (hwords : j.words ≠ []) (hgood : j.status = 0)
    (hstate : chanState s c ≠ 3) :
    (chanOf (s.jobLeaves c j) c).jobs = l ∧ (s.jobLeaves c j).regs = s.regs ∧ (s.jobLeaves c j).cfg = s.cfg := by
  have hdrop : (chanOf (s.chan c fun k => { k with jobs := k.jobs.drop 1 }) c).jobs = l :=
    (congrArg MvChan.jobs (chanOf_chan_self ..)).trans (congrArg (List.drop 1) hjobs)
  have hdrain : ∀ u : State, (chanOf u c).jobs = l → u.regs = s.regs → u.cfg = s.cfg →
      (chanOf (u.drainChan c) c).jobs = l ∧ (u.drainChan c).regs = s.regs ∧ (u.drainChan c).cfg = s.cfg := by
    intro u hu hregs hcfg
    rw [drainChan_stays (fun h => hstate ((State.get_congr hregs hcfg _ _).symm.trans h))]
    exact ⟨hu, hregs, hcfg⟩
  unfold State.jobLeaves
  dsimp only
  split
  · exact hdrain _ hdrop rfl rfl
  · rw [if_neg hwords, if_neg (not_not_intro hgood)]
    split
    · exact hdrain _ ((congrArg MvChan.jobs (chanOf_chan_self ..)).trans hdrop) rfl rfl
    · exact hdrain _ hdrop rfl rfl

/-- The bits of a field of three. -/
theorem bits_three (x : Nat) {hi mid lo : Nat} (hmid : mid = lo + 1) (hhi : hi = lo + 2) :
    bits x hi hi = bits x hi lo / 4 ∧ bits x mid mid = bits x hi lo / 2 % 2 ∧ bits x lo lo = bits x hi lo % 2 := by
  subst hmid hhi
  have hw : lo + 2 + 1 - lo = 3 := by omega
  unfold bits
  rw [Nat.shiftRight_add, Nat.shiftRight_add, hw, Nat.add_sub_cancel_left, Nat.add_sub_cancel_left, Nat.add_sub_cancel_left]
  generalize x >>> lo = y
  simp only [Nat.shiftRight_eq_div_pow]
  omega
/-- The head descriptor of channel c can complete: it has ended well, its packets are answered, and it is bound to no energy of its own and asks
for no slot, notify, record, interrupt or invalidation (R272, R289). -/
structure EndsPlain (s : State) (c : Nat) (j : MvJob) (l : List MvJob) : Prop where
  channel : c < 16
  head : (chanOf s c).jobs = j :: l
  pull : s.mvPull c = s
  noWait : recWait s c = false
  works : (portOf s (56 + c)).broken = false
  read : j.words ≠ []
  posted : j.scrub = false
  started : j.started = true
  ended : j.ended = true
  noAccess : j.out = false
  noPacket : j.rem = 0
  noStage : j.acted = 0
  good : j.status = 0
  noEnergy : j.energy = 0
  noAction : bits (j.d 12) 31 29 % 4 = 0
  noRecord : bits (j.d 12) 26 24 = 0
/-- The state with the counter of a descriptor raised that names one (R289). -/
def State.counted (s : State) (c : Nat) (j : MvJob) : State :=
  s.cond (bits (j.d 12) 31 31 == 1 && decide (bits (j.d 12) 23 18 ≤ 47)) fun s => s.ctrOp (48 * (c / 2) + bits (j.d 12) 23 18) 0 1
/-- The state in which the energy of a descriptor has been settled and the descriptor counted. -/
def State.mvSettled (s : State) (c : Nat) : State :=
  ((s.endChunk c).nrg fun e => { e with meter := Sp.del e.meter c }).bump pgMOVER (MOVER_CH_DONE_COUNT.at 64 c)
theorem exec_descriptorComplete {j : MvJob} {l : List MvJob} (h : EndsPlain s c j l) :
    exec (.descriptorComplete c) s = .next (((s.counted c j).mvSettled c).jobLeaves c j) := by
  have hended : ¬ (!j.started ∨ !j.ended ∨ j.out ∨ j.rem ≠ 0 ∨ j.acted = 4) := by
    rw [h.started, h.ended, h.noAccess, h.noPacket, h.noStage]
    decide
  have hwaits : ¬ (recWait s c ∨ (portOf s (56 + c)).broken) := by
    rw [h.noWait, h.works]
    decide
  obtain ⟨-, h30, h29⟩ := bits_three (j.d 12) (show 30 = 29 + 1 from rfl) (show 31 = 29 + 2 from rfl)
  obtain ⟨h26, h25, h24⟩ := bits_three (j.d 12) (show 25 = 24 + 1 from rfl) (show 26 = 24 + 2 from rfl)
  have hslot : bits (j.d 12) 30 30 = 0 := by have := h.noAction; omega
  have hnotify : bits (j.d 12) 29 29 = 0 := by have := h.noAction; omega
  rw [h.noRecord] at h26 h25 h24
  show execDescriptorComplete c s = _
  unfold execDescriptorComplete
  rw [if_neg (Nat.not_le.mpr h.channel)]
  dsimp only
  rw [h.pull, h.head]
  dsimp only
  rw [if_neg hwaits, if_neg h.read, if_neg hended, h.posted, if_neg Bool.false_ne_true]
  simp only [h.noStage, hslot, hnotify, h26, h25, h24, h.noEnergy, h.good]
  rfl
theorem mvSettled_leaves (s : State) (c : Nat) : (s.mvSettled c).chans = s.chans ∧ (s.mvSettled c).cfg = s.cfg ∧
    chGet (s.mvSettled c) c MOVER_CH_DONE_COUNT = (chGet s c MOVER_CH_DONE_COUNT + 1) % 2 ^ 32 ∧
    ∀ o, o ≠ pgMOVER + MOVER_CH_DONE + 64 * c → (s.mvSettled c).rd o = s.rd o := by
  obtain ⟨hregs, hcfg, hchans, -⟩ := sansE_frame (State.endChunk_sansE s c)
  refine ⟨hchans, hcfg, ?_, fun o ho => ?_⟩
  · refine (State.get_bump_self _ _ _ _ (Fld.at_fits (f := MOVER_CH_DONE_COUNT) 64 c (by decide))).trans ?_
    exact congrArg (fun n => (n + 1) % 2 ^ 32) (State.get_congr hregs hcfg _ _)
  · exact (State.bump_rd _ _ (by rwa [← Nat.add_assoc])).trans (State.rd_congr hregs hcfg o)
/-- A plain end takes its descriptor from the channel and counts it; no register else changes after its counter. -/
theorem endsPlain_leaves {j : MvJob} {l : List MvJob} (h : EndsPlain s c j l) (hchans : (s.counted c j).chans = s.chans)
    (hstate : chanState (s.counted c j) c = 2) : ∃ t, exec (.descriptorComplete c) s = .next t ∧ (chanOf t c).jobs = l ∧
      chGet t c MOVER_CH_DONE_COUNT = (chGet (s.counted c j) c MOVER_CH_DONE_COUNT + 1) % 2 ^ 32 ∧
      ∀ o, o ≠ pgMOVER + MOVER_CH_DONE + 64 * c → t.rd o = (s.counted c j).rd o := by
  obtain ⟨hkept, -, hdone, hrd⟩ := mvSettled_leaves (s.counted c j) c
  have hstill : chanState ((s.counted c j).mvSettled c) c = 2 := by
    refine (congrArg PORT_PSTAT_STATE.of (hrd _ ?_)).trans hstate
    have hc := h.channel
    simp only [portBase, PORT_PSTAT_STATE, pgMOVER, MOVER_CH_DONE]
    omega
  obtain ⟨hjobs, hregs, hcfg⟩ := jobLeaves_leaves (s := (s.counted c j).mvSettled c)
    ((congrArg MvChan.jobs (chanOf_congr (hkept.trans hchans) c)).trans h.head) h.read h.good (by rw [hstill]; decide)
  exact ⟨_, exec_descriptorComplete h, hjobs, (State.get_congr hregs hcfg _ _).trans hdone,
    fun o ho => (State.rd_congr hregs hcfg o).trans (hrd o ho)⟩
/-- One that names no counter leaves the counters. -/
theorem counted_none {j : MvJob} (h : bits (j.d 12) 31 31 = 0) : s.counted c j = s := by
  unfold State.counted
  rw [h]
  rfl
/-- One that names a counter of its core adds 1 to it. -/
theorem counted_one {j : MvJob} {n : Nat} (h : bits (j.d 12) 31 31 = 1) (hn : n = bits (j.d 12) 23 18) (hlt : n < 48) :
    s.counted c j = s.ctrOp (48 * (c / 2) + n) 0 1 := by
  unfold State.counted
  rw [h, ← hn, decide_eq_true (Nat.le_of_lt_succ hlt)]
  rfl
end

/-- Settles O23: an engine by `moverIssue_nop`, a chunk by `mvChunk_rt`, an append by where its map entry sends it, the master port by its
answer, and a completion by `endsPlain_leaves`. -/
theorem moverRuns : Obligations.MoverRuns := by
  refine ⟨?nop, ?chunk, ?unmapped, ?empty, ?cursor, ?full, ?creditless, ?timeout, ?response, ?complete, ?counter, ?clear⟩
  case nop =>
    intro s e c k j l he hc halone hjobs hrecs hbroken hready hop hntfy
    have hself := chanOf_alone halone.2.2
    refine ⟨_, moverIssue_nop he hc halone hjobs hrecs hbroken hready hop hntfy, ?_, rfl⟩
    rw [chanOf_job_self s c _ j l (hself ▸ hjobs), hself]
  case chunk =>
    intro s c j l hc hjobs hstarted hended hout hneed hchunk hbroken hnone hrt
    exact ⟨_, chunkAdmission_admits hc hjobs hstarted hended hout hneed hchunk hbroken hnone, mvChunk_rt hjobs hnone hrt⟩
  case unmapped =>
    intro s c j l hat hentry hslot
    have ⟨_, hjobs, _, _, _, _, hgood⟩ := hat
    exact ⟨_, append_unmapped hat hentry, mvFail_ends _ _ _ hjobs hgood hslot⟩
  case empty =>
    intro s c ring k j l hat hentry hring hlines hslot htag
    have ⟨_, hjobs, _⟩ := hat
    obtain ⟨hregs, hhead⟩ := appendAt_goes hjobs htag
    refine ⟨_, append_local hat hentry hring hlines (.inl ⟨hslot, rfl⟩), hregs, hhead.trans ?_⟩
    rw [← hslot]
  case cursor =>
    intro s u c ring k j l hat hentry hring hlines hslot htake htag
    have ⟨_, hjobs, _⟩ := hat
    have hkept : chanOf u c = chanOf s c := chanOf_congr (congrArg (fun r => r.2.chans) htake).symm c
    exact ⟨_, append_local hat hentry hring hlines (.inr ⟨hslot, htake⟩), appendAt_goes (hkept ▸ hjobs) htag⟩
  case full =>
    intro s c ring k j l hat hentry hring hlines hslot htag hfresh htime
    have ⟨_, hjobs, _⟩ := hat
    refine ⟨_, append_local hat hentry hring hlines (.inl ⟨hslot, rfl⟩), (appendAt_waits hjobs htag hfresh htime).trans ?_⟩
    rw [← hslot]
  case creditless =>
    intro s c a j l hat hentry hcred hfresh htmo
    exact append_creditless hat hentry hcred hfresh htmo
  case timeout =>
    intro s c a d j l hjobs hstarted hended hop hsub hgood hentry hslot hdl hpast
    exact ⟨_, creditWait_ends hjobs hstarted hended hop hsub hentry hdl hpast, mvFail_ends _ _ _ hjobs hgood hslot⟩
  case response =>
    intro s id data err r hfind hsrc
    exact masterPortResponse_answers err data hfind hsrc
  case complete =>
    intro s c k j l hc halone hjobs hstate hbroken hrec hwords hscrub hstarted hended hout hrem hacted hgood henergy hact hnorec
    obtain ⟨ha, hr, hchans⟩ := halone
    have hplain : EndsPlain s c j l := ⟨hc, chanOf_alone hchans ▸ hjobs, mvPull_idle ha hr c, hrec, hbroken, hwords, hscrub, hstarted, hended,
      hout, hrem, hacted, hgood, henergy, by rw [hact], hnorec⟩
    have hnone : s.counted c j = s := counted_none ((bits_three _ (show 30 = 29 + 1 from rfl) rfl).1.trans (by rw [hact]))
    obtain ⟨t, hexec, hleft, hdone, -⟩ := endsPlain_leaves hplain (congrArg State.chans hnone) (hnone.symm ▸ hstate)
    exact ⟨t, hexec, hleft, hnone ▸ hdone⟩
  case counter =>
    intro s c n k j l hc halone hjobs hstate hbroken hrec hwords hscrub hstarted hended hout hrem hacted hgood henergy hact hnorec hn hlt hwatch
      hparked
    obtain ⟨ha, hr, hchans⟩ := halone
    have hplain : EndsPlain s c j l := ⟨hc, chanOf_alone hchans ▸ hjobs, mvPull_idle ha hr c, hrec, hbroken, hwords, hscrub, hstarted, hended,
      hout, hrem, hacted, hgood, henergy, by rw [hact], hnorec⟩
    have hone : s.counted c j = s.ctrOp (48 * (c / 2) + n) 0 1 :=
      counted_one ((bits_three _ (show 30 = 29 + 1 from rfl) rfl).1.trans (by rw [hact])) hn hlt
    obtain ⟨hrd, hcount, hbare⟩ := ctrOp_frame s (48 * (c / 2) + n) 0 1 hwatch (by omega) hparked
    have hstill : chanState (s.ctrOp (48 * (c / 2) + n) 0 1) c = 2 := by
      refine (congrArg PORT_PSTAT_STATE.of (hrd _ (.inl ?_) (.inl ?_) ?_)).trans hstate
      all_goals
        simp only [portBase, PORT_PSTAT_STATE, pgSYNCCTR, pgREC, SYNC_CTR_CTR]
        omega
    obtain ⟨t, hexec, hleft, -, hkept⟩ := endsPlain_leaves hplain (hone ▸ (congrArg State.chans hbare :)) (hone.symm ▸ hstill)
    have hreads : t.rd (pgSYNCCTR + SYNC_CTR_CTR + 4 * (48 * (c / 2) + n)) =
        (s.ctrOp (48 * (c / 2) + n) 0 1).rd (pgSYNCCTR + SYNC_CTR_CTR + 4 * (48 * (c / 2) + n)) := by
      rw [← hone]
      refine hkept _ ?_
      simp only [pgSYNCCTR, SYNC_CTR_CTR, pgMOVER, MOVER_CH_DONE]
      omega
    refine ⟨t, hexec, hleft, (ctr_eq _ hreads).trans (hcount.trans ?_)⟩
    rw [if_pos rfl]
    exact Nat.mod_eq_of_lt (Nat.lt_of_le_of_lt (Nat.min_le_right ..) (by decide))
  case clear =>
    intro s m a ha hm ht
    exact creditClear_clears ha hm ht

end Sys2Proof.Machine

/-! PROOFS. The messages of a port's SQ channel (spec/10_synchronisation.md R307 to R318, R335). A message that acts at once does so in a state
that differs from the one it is taken in by an entry of its port and by the count of messages, below the counters of the SYNC_CTR page. What an
effect leaves of the counters, watches and barriers is said once, by the words it leaves from the counters up to the recorder's page. -/
namespace Sys2Proof.Machine

/-! ### The words of the synchronisation pages -/

/-- The registers of counters, watches, rings, tags and barriers, from the counters of the SYNC_CTR page up to the recorder's page, are those of
another state. -/
def syncSame (s t : State) : Prop := ∀ o, pgSYNCCTR + SYNC_CTR_CTR ≤ o → o < pgREC → t.rd o = s.rd o

section
variable {s t : State}

theorem syncSame_trans {u : State} (h : syncSame s t) (k : syncSame t u) : syncSame s u := fun o hlo hhi => (k o hlo hhi).trans (h o hlo hhi)
theorem syncSame_get (h : syncSame s t) {b : Nat} {f : Fld} (hlo : pgSYNCCTR + SYNC_CTR_CTR ≤ b + f.off) (hhi : b + f.off < pgREC) :
    t.get b f = s.get b f := congrArg f.of (h _ hlo hhi)
theorem syncSame_counter (h : syncSame s t) {c : Nat} (hc : c < 384) : counter t c = counter s c := by
  refine syncSame_get h ?_ ?_ <;> simp only [pgSYNCCTR, pgREC, SYNC_CTR_CTR, SYNC_CTR_CTR_VALUE] <;> omega
/-- A field of a watch. -/
theorem syncSame_watch (h : syncSame s t) {n : Nat} (hn : n < 128) {f : Fld} (hf : f.off = SYNC_CTR_WATCH) :
    t.get pgSYNCCTR (f.at 4 n) = s.get pgSYNCCTR (f.at 4 n) := by
  refine syncSame_get h ?_ ?_ <;> simp only [pgSYNCCTR, pgREC, SYNC_CTR_CTR, SYNC_CTR_WATCH, hf] <;> omega
theorem State.flag_eq_true {a : Nat} {f : Fld} (h : s.get a f = 1) : s.flag a f = true := beq_iff_eq.mpr h
theorem syncSame_armed (h : syncSame s t) {n : Nat} (hn : n < 128) : armed t n = armed s n :=
  State.flag_congr (syncSame_watch h hn rfl)
theorem syncSame_watchPort (h : syncSame s t) {n : Nat} (hn : n < 128) : watchPort t n = watchPort s n := by
  unfold watchPort
  rw [syncSame_watch h hn (f := SYNC_CTR_WATCH_CHAN) rfl]
theorem syncSame_bar (h : syncSame s t) {n : Nat} (hn : n < 64) {f : Fld} (hf : f.off < 0x1000) : barGet t n f = barGet s n f := by
  refine syncSame_get h ?_ ?_ <;> simp only [pgSYNCCTR, pgREC, SYNC_CTR_CTR, pgSYNCBAR] <;> omega
theorem syncSame_noWatch (h : syncSame s t) (hsync : t.sync = s.sync) {c : Nat} (hw : noWatch s c) : noWatch t c := by
  intro n hn
  obtain ⟨hlt, hne⟩ := hw n (hsync ▸ hn)
  exact ⟨hlt, (syncSame_watch h hlt (f := SYNC_CTR_WATCH_CTR) rfl).symm ▸ hne⟩
theorem sqIn_same (s : State) (x : Nat) : syncSame s (sqIn s x) := by
  intro o hlo _
  refine sqIn_rd s x o ?_
  simp only [SYNC_CTR_CTR, SYNC_CTR_SY_SQ_CNT] at *
  omega
theorem sw_same (s : State) (x : Nat) (m : SwMsg) : syncSame s (s.sw x m) := by
  intro o hlo _
  simp only [pgSYNCCTR, SYNC_CTR_CTR] at hlo
  unfold State.sw
  dsimp only
  rw [State.cond_rd, State.bumpSat_rd _ _ (by simp only [pgSYNCCTR, SYNC_CTR_SY_ERR_CNT_COUNT]; omega), ite_self, State.cond_rd,
    State.bump_rd _ _ (by simp only [pgSYNCCTR, SYNC_CTR_SY_WAKE_CNT_COUNT]; omega), ite_self]
  rfl
theorem sw_sync (s : State) (x : Nat) (m : SwMsg) : (s.sw x m).sync = s.sync := by
  unfold State.sw
  dsimp only
  rw [State.cond_sync, State.bumpSat_sync, ite_self, State.cond_sync, State.bump_sync, ite_self]
  rfl
end

/-! ### A message taken (R307, R309, R312) -/

section
variable {s : State} {x : Nat} {w : SqWord}

theorem engineOf_lt (h : x < 72) : engineOf x < 32 := by
  unfold engineOf
  split
  · omega
  · split <;> omega
theorem sqCounter_lt (hx : x < 72) (hid : w.id < 48) : sqCounter x w < 384 := by
  have := engineOf_lt hx
  unfold sqCounter
  omega
theorem sqWatch_lt (hx : x < 72) (hi : w.widx < 4) : sqWatch x w < 128 := by
  have := engineOf_lt hx
  unfold sqWatch
  omega
/-- The core of a port's watch is that of the counters it names (R306, R316). -/
theorem sqWatch_core (hi : w.widx < 4) : 48 * (sqWatch x w / 16) + w.id = sqCounter x w := by
  unfold sqWatch sqCounter
  omega
theorem sqReady_lt (h : sqReady s x = true) : x < 72 := by
  simp only [sqReady, Bool.and_eq_true, decide_eq_true_eq] at h
  omega
theorem sqReady_parked (h : sqReady s x = true) : parked s = false := by
  simp only [sqReady, Bool.and_eq_true, Bool.not_eq_true'] at h
  exact h.1.2
theorem sqIn_parked (s : State) (x : Nat) : parked (sqIn s x) = parked s := by
  unfold parked lcState State.get
  rw [sqIn_rd _ _ _ (by decide), sqIn_rd _ _ _ (by decide)]
/-- An answer to a message taken, from a state that has kept the ports, is the port's last. -/
theorem sqIn_answers (s : State) (x : Nat) {u : State} (m : SwMsg) (h : u.ports = (sqIn s x).ports) :
    (portOf (u.sw x m) x).sw = (portOf s x).sw ++ [m] := by
  rw [portOf_sw, portOf_congr _ _ _ h, sqIn_sw]
theorem sqIn_sync (s : State) (x : Nat) : (sqIn s x).sync = s.sync := rfl

/-- A message with the operation of the command that brings it. -/
def asOp (w : SqWord) (op : Nat) : SqWord := { w with op := op }
@[simp] theorem asOp_op (w : SqWord) (op : Nat) : (asOp w op).op = op := rfl
/-- A message is not refused as it takes effect: it names a counter of its core where it names one, a WATCH finds its watch free, and an ARRIVE
registers no waiter and finds its barrier enabled (R312). -/
structure SqFits (s : State) (x : Nat) (w : SqWord) : Prop where
  counter : 1 ≤ w.op ∧ w.op ≤ 4 ∨ w.op = 6 → w.id < 48
  watch : w.op = 4 → armed s (sqWatch x w) = false
  barrier : w.op = 7 → barOn s w.id = true ∧ w.cons = true
theorem sqReject_fits (h : SqFits s x w) : sqReject s x w = 0 := by
  have hctr : ((decide (1 ≤ w.op) && decide (w.op ≤ 4) || w.op == 6) && decide (47 < w.id)) = false := by
    have := h.counter
    simp only [Bool.and_eq_false_iff, Bool.or_eq_false_iff, decide_eq_false_iff_not, beq_eq_false_iff_ne]
    omega
  have hoff : (w.op == 7 && !barOn s w.id) = false := by
    by_cases h7 : w.op = 7
    · rw [(h.barrier h7).1, Bool.not_true, Bool.and_false]
    · rw [beq_false_of_ne h7, Bool.false_and]
  have hbusy : (w.op == 4 && armed s (sqWatch x w)) = false := by
    by_cases h4 : w.op = 4
    · rw [h.watch h4, Bool.and_false]
    · rw [beq_false_of_ne h4, Bool.false_and]
  have hwaiter : (w.op == 7 && !w.cons) = false := by
    by_cases h7 : w.op = 7
    · rw [(h.barrier h7).2, Bool.not_true, Bool.and_false]
    · rw [beq_false_of_ne h7, Bool.false_and]
  unfold sqReject
  unfold sqWatch at hbusy
  simp only [hctr, hoff, hbusy, hwaiter, Bool.false_and, Bool.false_eq_true, if_false]
/-- A message that fits has its effect. -/
theorem sqTake_effect {t : State} (hr : sqReady s x = true) (hp : sqPlain w) (hop : w.op < 7 ∨ w.op = 7 ∧ w.value % 4096 ≠ 0 ∧ w.value < 4096)
    (hfits : SqFits (sqIn s x) x w) (heffect : (sqIn s x).sqEffect x w = t) : sqTake s x w = .next t := by
  rw [sqTake_ready s x w hr hp hop, ← heffect]
  change Host.Outcome.next ((sqIn s x).sqRun x _) = _
  unfold State.sqRun
  simp only [sqReject_fits hfits, hp.2]
  rfl
/-- A counter message with an identifier above 47 is answered with BADID. -/
theorem sqTake_badId (hr : sqReady s x = true) (hp : sqPlain w) (hop : 1 ≤ w.op ∧ w.op ≤ 4) (hid : 48 ≤ w.id) :
    sqTake s x w = .next ((sqIn s x).sw x ⟨4, 0, w.id, 1, 0, 0, 1, none⟩) := by
  rw [sqTake_ready s x w hr hp (.inl (by omega))]
  change Host.Outcome.next ((sqIn s x).sqRun x _) = _
  have hbad : sqReject (sqIn s x) x w = 1 := by
    unfold sqReject
    exact if_pos (by simp only [decide_eq_true hop.1, decide_eq_true hop.2, decide_eq_true (show 47 < w.id from hid)]; rfl)
  unfold State.sqRun
  simp only [hbad]
  rfl

/-! ### NOP and the counters (R307, R313) -/

/-- A NOP gives back the entry it was taken into. -/
theorem sqFree_sqIn (s : State) (x : Nat) : portOf ((sqIn s x).sqFree x) x = portOf s x :=
  (State.portOf_port_self (sqIn s x) x _).trans
    (congrArg (fun p : PortSt => { p with sqUsed := p.sqUsed - 1 }) (State.portOf_port_self s x fun p => { p with sqUsed := p.sqUsed + 1 }))
theorem sqEffect_nop (h : w.op = 0) : s.sqEffect x w = s.sqFree x := by
  unfold State.sqEffect
  rw [h]
  rfl
theorem sqEffect_counter {op : Nat} (hop : op < 3) (h : w.op = op + 1) :
    s.sqEffect x w = (s.ctrOp (sqCounter x w) op w.value).sqFree x := by
  unfold State.sqEffect
  rw [h]
  match op, hop with
  | 0, _ | 1, _ | 2, _ => rfl
/-- A counter operation's message is the command of its code, and its count that of R313. -/
theorem counterOps_code {e : (Nat → SqWord → Instr) × (Master → Nat → Nat → Instr) × (Nat → Nat → Nat)} (h : e ∈ counterOps) :
    ∃ op < 3, (∀ x w s, exec (e.1 x w) s = sqTake s x (asOp w (op + 1))) ∧
      ∀ n v, n < 65536 → v < 65536 → (if op = 0 then min (n + v) 0xFFFF else if op = 1 then n - v else v % 2 ^ 16) % 65536 = e.2.2 n v := by
  simp only [counterOps, List.mem_cons, List.not_mem_nil, or_false] at h
  rcases h with rfl | rfl | rfl
  · refine ⟨0, by decide, fun _ _ _ => rfl, fun n v _ _ => ?_⟩
    rw [if_pos rfl]
    exact Nat.mod_eq_of_lt (by omega)
  · refine ⟨1, by decide, fun _ _ _ => rfl, fun n v _ _ => ?_⟩
    rw [if_neg (by decide), if_pos rfl]
    exact Nat.mod_eq_of_lt (by omega)
  · refine ⟨2, by decide, fun _ _ _ => rfl, fun n v _ hv => ?_⟩
    rw [if_neg (by decide), if_neg (by decide)]
    exact (Nat.mod_mod v 65536).trans (Nat.mod_eq_of_lt hv)
theorem counter_lt (s : State) (c : Nat) : counter s c < 65536 := State.get_lt ..
theorem ctrOp_others {c d : Nat} (op v : Nat) (hw : noWatch s c) (hc : c < 384) (hp : parked s = false) (hd : d < 384) (hne : d ≠ c) :
    counter (s.ctrOp c op v) d = counter s d := by
  refine ctr_eq d ((ctrOp_frame s c op v hw hc hp).1 _ (.inr ?_) (.inl ?_) ?_)
  all_goals
    simp only [pgSYNCCTR, pgREC, SYNC_CTR_CTR]
    omega

/-! ### Watches (R316, R318) -/

/-- The word of the watch that a WATCH arms (R316, R342). -/
def watchWord (x : Nat) (w : SqWord) : Word32 := BitVec.ofNat 32
  (2 ^ 31 + b2n w.cond * 2 ^ 30 + b2n w.cons * 2 ^ 29 + (if 56 ≤ x then x % 2 else 0) * 2 ^ 28 + w.id * 2 ^ 16 + w.value)
/-- The state with the watch armed that a WATCH names, last in order, before it is evaluated. -/
def State.armWatch (s : State) (x : Nat) (w : SqWord) : State :=
  (s.wr (pgSYNCCTR + SYNC_CTR_WATCH + 4 * sqWatch x w) (watchWord x w)).syn fun y => { y with watchOrd := y.watchOrd ++ [sqWatch x w] }
theorem sqEffect_watch (h : w.op = 4) : s.sqEffect x w = (s.armWatch x w).tryWatch (sqWatch x w) := by
  unfold State.sqEffect
  rw [h]
  rfl
theorem watchWord_fields (hid : w.id < 48) (hv : w.value < 65536) :
    SYNC_CTR_WATCH_ARMED.of (watchWord x w) = 1 ∧ SYNC_CTR_WATCH_COND.of (watchWord x w) = b2n w.cond ∧
    SYNC_CTR_WATCH_CTR.of (watchWord x w) = w.id ∧ SYNC_CTR_WATCH_VALUE.of (watchWord x w) = w.value := by
  have hcond : b2n w.cond < 2 := by cases w.cond <;> decide
  have hcons : b2n w.cons < 2 := by cases w.cons <;> decide
  have hchan : (if 56 ≤ x then x % 2 else 0) < 2 := by split <;> omega
  unfold watchWord
  generalize b2n w.cond = a at *
  generalize b2n w.cons = b at *
  generalize (if 56 ≤ x then x % 2 else 0) = c at *
  simp only [Fld.of, bits, SYNC_CTR_WATCH_ARMED, SYNC_CTR_WATCH_COND, SYNC_CTR_WATCH_CTR, SYNC_CTR_WATCH_VALUE, BitVec.toNat_ofNat,
    Nat.shiftRight_eq_div_pow]
  omega
/-- A field of the watch armed. -/
theorem armWatch_get (s : State) (x : Nat) (w : SqWord) {f : Fld} (hf : f.off = SYNC_CTR_WATCH) :
    (s.armWatch x w).get pgSYNCCTR (f.at 4 (sqWatch x w)) = f.of (watchWord x w) := by
  have ha : pgSYNCCTR + (f.at 4 (sqWatch x w)).off = pgSYNCCTR + SYNC_CTR_WATCH + 4 * sqWatch x w := by
    simp only [hf]
    omega
  unfold State.get
  rw [ha]
  exact congrArg f.of (State.rd_wr_self s _ _)
theorem armWatch_counter (s : State) (x : Nat) (w : SqWord) {c : Nat} (hc : c < 384) : counter (s.armWatch x w) c = counter s c := by
  refine ctr_eq c (State.rd_wr_of_ne s _ ?_)
  simp only [SYNC_CTR_CTR, SYNC_CTR_WATCH]
  omega
/-- A watch whose condition does not hold stays as it is (R316). -/
theorem tryWatch_waits {n c i v : Nat} {eq : Bool} (hctr : s.get pgSYNCCTR (SYNC_CTR_WATCH_CTR.at 4 n) = i) (hc : 48 * (n / 16) + i = c)
    (hval : s.get pgSYNCCTR (SYNC_CTR_WATCH_VALUE.at 4 n) = v) (heq : s.flag pgSYNCCTR (SYNC_CTR_WATCH_COND.at 4 n) = eq)
    (h : if eq then counter s c ≠ v else counter s c < v) : s.tryWatch n = s := by
  unfold State.tryWatch
  dsimp only
  rw [hctr, hc, hval, heq]
  refine if_neg ?_
  cases eq <;> simpa using h
/-- A WATCH whose condition does not hold leaves its watch armed. -/
theorem watch_arms (hid : w.id < 48) (hv : w.value < 65536) (hi : w.widx < 4) (hx : x < 72)
    (h : if w.cond then counter s (sqCounter x w) ≠ w.value else counter s (sqCounter x w) < w.value) :
    (s.armWatch x w).tryWatch (sqWatch x w) = s.armWatch x w := by
  obtain ⟨-, hcond, hctr, hval⟩ := watchWord_fields (x := x) hid hv
  refine tryWatch_waits ((armWatch_get s x w rfl).trans hctr) (sqWatch_core hi) ((armWatch_get s x w rfl).trans hval) (eq := w.cond) ?_ ?_
  · unfold State.flag
    rw [armWatch_get s x w rfl, hcond]
    cases w.cond <;> rfl
  · rwa [armWatch_counter s x w (sqCounter_lt hx hid)]
theorem sqEffect_unwatch_free (h : w.op = 5) (ha : armed s (sqWatch x w) = false) :
    s.sqEffect x w = s.sw x ⟨5, w.widx, w.id, 0, 0, 0, 1, none⟩ := by
  unfold State.sqEffect
  rw [h]
  exact if_neg (ne_true_of_eq_false ha)
theorem sqEffect_unwatch_armed (h : w.op = 5) (ha : armed s (sqWatch x w) = true) :
    s.sqEffect x w = (s.freeWatch (sqWatch x w)).sw x ⟨5, w.widx, s.get pgSYNCCTR (SYNC_CTR_WATCH_CTR.at 4 (sqWatch x w)), 0, 0, 0, 1,
      some (watchPort s (sqWatch x w))⟩ := by
  unfold State.sqEffect
  rw [h]
  exact if_pos ha
theorem freeWatch_armed (s : State) (n : Nat) : armed (s.freeWatch n) n = false :=
  State.flag_put_self s pgSYNCCTR (SYNC_CTR_WATCH_ARMED.at 4 n) false (Fld.at_fits _ _ (by decide)) rfl

/-! ### READ and ARRIVE (R313, R335) -/

theorem sqEffect_read (h : w.op = 6) : s.sqEffect x w =
    (s.watchTriggers (sqCounter x w) (counter s (sqCounter x w))).sw x ⟨2, 0, w.id, 0, 0, counter s (sqCounter x w), 1, none⟩ := by
  unfold State.sqEffect
  rw [h]
  rfl
theorem sqEffect_arrive (h : w.op = 7) (hc : w.cons = true) : s.sqEffect x w = (s.sqFree x).arrive w.id (w.value % 4096) := by
  unfold State.sqEffect
  rw [h]
  dsimp only
  rw [if_pos hc]
  rfl
theorem barGet_barPut_self {n : Nat} {f : Fld} {v : Nat} (h : f.fits) (hv : v < 2 ^ (f.hi + 1 - f.lo)) : barGet (s.barPut n f v) n f = v :=
  State.get_put_of_lt s pgSYNCBAR (Fld.at_fits _ _ h) hv
theorem barGet_barPut_apart (s : State) (n v : Nat) {f g : Fld} (h : f.fits) (d : f.off ≠ g.off ∨ g.hi < f.lo ∨ f.hi < g.lo) :
    barGet (s.barPut n f v) n g = barGet s n g :=
  State.get_put_page s _ _ _ v (Fld.at_fits _ _ h) (d.imp (fun hne heq => hne (Nat.add_right_cancel heq)) id)
/-- No round follows a count below EXPECT. -/
theorem barRun_waits {n : Nat} (k : Nat) (h : barGet s n SYNC_BAR_BSTAT_COUNT < barGet s n SYNC_BAR_BCFG_EXPECT) : s.barRun n k = s := by
  cases k with
  | zero => rfl
  | succ k =>
    have hround : s.barRound n = (false, s) := if_pos (by simp [h])
    unfold State.barRun
    rw [hround]
/-- Arrivals that leave the count below EXPECT raise it and end no phase. -/
theorem arrive_counts {n k : Nat} (h : barGet s n SYNC_BAR_BSTAT_COUNT + k < barGet s n SYNC_BAR_BCFG_EXPECT) :
    barGet (s.arrive n k) n SYNC_BAR_BSTAT_COUNT = barGet s n SYNC_BAR_BSTAT_COUNT + k ∧
    barGet (s.arrive n k) n SYNC_BAR_BSTAT_PHASE = barGet s n SYNC_BAR_BSTAT_PHASE ∧ (s.arrive n k).sync = s.sync := by
  have hwidth : barGet s n SYNC_BAR_BCFG_EXPECT < 4096 := State.get_lt ..
  have hput : ∀ u : State, barGet u n SYNC_BAR_BCFG_EXPECT = barGet s n SYNC_BAR_BCFG_EXPECT →
      barGet (u.barPut n SYNC_BAR_BSTAT_COUNT (barGet s n SYNC_BAR_BSTAT_COUNT + k)) n SYNC_BAR_BSTAT_COUNT =
        barGet s n SYNC_BAR_BSTAT_COUNT + k ∧
      barGet (u.barPut n SYNC_BAR_BSTAT_COUNT (barGet s n SYNC_BAR_BSTAT_COUNT + k)) n SYNC_BAR_BCFG_EXPECT =
        barGet s n SYNC_BAR_BCFG_EXPECT := fun u hu =>
    ⟨barGet_barPut_self (by decide) (Nat.lt_trans h hwidth), (barGet_barPut_apart u n _ (by decide) (by decide)).trans hu⟩
  obtain ⟨hcount, hexpect⟩ := hput s rfl
  obtain ⟨hcount', hexpect'⟩ := hput _ hexpect
  have hfirst := barRun_waits 4096 (by rw [hcount, hexpect]; exact h)
  have hsecond := barRun_waits 4096 (by rw [hcount', hexpect']; exact h)
  have harrive : s.arrive n k = (s.barPut n SYNC_BAR_BSTAT_COUNT (barGet s n SYNC_BAR_BSTAT_COUNT + k)).barPut n SYNC_BAR_BSTAT_COUNT
      (barGet s n SYNC_BAR_BSTAT_COUNT + k) := by
    unfold State.arrive
    dsimp only
    rw [Nat.min_eq_left (by omega), hfirst, hcount, Nat.sub_self, Nat.add_zero, hsecond]
  rw [harrive]
  refine ⟨hcount', ?_, rfl⟩
  rw [barGet_barPut_apart _ _ _ (by decide) (by decide), barGet_barPut_apart _ _ _ (by decide) (by decide)]
end

/-- Settles O16: each message by its effect in the state it is taken into (`sqTake_effect`), or its error (`sqTake_badId`). -/
theorem sqMessages : Obligations.SqMessages := by
  refine ⟨?nop, ?count, ?watch, ?unwatchFree, ?unwatchArmed, ?read, ?arrive, ?badId⟩
  case nop =>
    intro s x w hr hp hop
    have hcode : (if 8 ≤ w.op then w.op else 0) = 0 := by rw [hop]; rfl
    have htake : sqTake s x (asOp w 0) = .next ((sqIn s x).sqFree x) :=
      sqTake_effect hr hp (.inl (by simp)) ⟨by simp, by simp, by simp⟩ (sqEffect_nop rfl)
    exact ⟨_, (congrArg (fun n => sqTake s x (asOp w n)) hcode).trans htake, rfl, sqFree_sqIn s x,
      fun c hc => syncSame_counter (sqIn_same s x) hc⟩
  case count =>
    intro e he s x w hr hp hid hv hw
    obtain ⟨op, hop, hexec, hcount⟩ := counterOps_code he
    have hc := sqCounter_lt (sqReady_lt hr) hid
    have hin := syncSame_noWatch (sqIn_same s x) rfl hw
    have hrun : parked (sqIn s x) = false := (sqIn_parked s x).trans (sqReady_parked hr)
    obtain ⟨-, hnew, hbare⟩ := ctrOp_frame (sqIn s x) (sqCounter x w) op w.value hin hc hrun
    have heffect : (sqIn s x).sqEffect x (asOp w (op + 1)) = ((sqIn s x).ctrOp (sqCounter x w) op w.value).sqFree x := sqEffect_counter hop rfl
    have htake := sqTake_effect (w := asOp w (op + 1)) hr hp (.inl (by rw [asOp_op]; omega))
      ⟨fun _ => hid, by rw [asOp_op]; omega, by rw [asOp_op]; omega⟩ heffect
    refine ⟨_, (hexec x w s).trans htake, hnew.trans ?_, (sync_of_bare hbare).trans (sqIn_sync s x), fun c hlt hne => ?_⟩
    · rw [syncSame_counter (sqIn_same s x) hc, hcount _ _ (counter_lt ..) hv]
    · exact (ctrOp_others op w.value hin hc hrun hlt hne).trans (syncSame_counter (sqIn_same s x) hlt)
  case watch =>
    intro s x w hr hp hid hv hi hfree hcond
    have hx := sqReady_lt hr
    have hfree' := (syncSame_armed (sqIn_same s x) (sqWatch_lt hx hi)).trans hfree
    rw [← syncSame_counter (sqIn_same s x) (sqCounter_lt hx hid)] at hcond
    obtain ⟨harmed, -, hctr, hval⟩ := watchWord_fields (x := x) hid hv
    have heffect : (sqIn s x).sqEffect x (asOp w 4) = (sqIn s x).armWatch x w := (sqEffect_watch rfl).trans (watch_arms hid hv hi hx hcond)
    have htake := sqTake_effect (w := asOp w 4) hr hp (.inl (by simp)) ⟨fun _ => hid, fun _ => hfree', by simp⟩ heffect
    refine ⟨_, htake, State.flag_eq_true ((armWatch_get _ x w rfl).trans harmed), rfl, (armWatch_get _ x w rfl).trans hctr,
      (armWatch_get _ x w rfl).trans hval, fun c hc => (armWatch_counter _ x w hc).trans (syncSame_counter (sqIn_same s x) hc)⟩
  case unwatchFree =>
    intro s x w hr hp hi hfree
    have hfree' := (syncSame_armed (sqIn_same s x) (sqWatch_lt (sqReady_lt hr) hi)).trans hfree
    have heffect : (sqIn s x).sqEffect x (asOp w 5) = (sqIn s x).sw x ⟨5, w.widx, w.id, 0, 0, 0, 1, none⟩ := sqEffect_unwatch_free rfl hfree'
    exact ⟨_, sqTake_effect hr hp (.inl (by simp)) ⟨by simp, by simp, by simp⟩ heffect, sw_sync .., sqIn_answers s x _ rfl⟩
  case unwatchArmed =>
    intro s x w hr hp hi harmed
    have hlt := sqWatch_lt (sqReady_lt hr) hi
    have harmed' := (syncSame_armed (sqIn_same s x) hlt).trans harmed
    have heffect : (sqIn s x).sqEffect x (asOp w 5) = ((sqIn s x).freeWatch (sqWatch x w)).sw x ⟨5, w.widx,
        (sqIn s x).get pgSYNCCTR (SYNC_CTR_WATCH_CTR.at 4 (sqWatch x w)), 0, 0, 0, 1, some (watchPort (sqIn s x) (sqWatch x w))⟩ :=
      sqEffect_unwatch_armed rfl harmed'
    rw [syncSame_watch (sqIn_same s x) hlt (f := SYNC_CTR_WATCH_CTR) rfl, syncSame_watchPort (sqIn_same s x) hlt] at heffect
    exact ⟨_, sqTake_effect hr hp (.inl (by simp)) ⟨by simp, by simp, by simp⟩ heffect,
      (syncSame_armed (sw_same _ _ _) hlt).trans (freeWatch_armed ..), congrArg SyncSt.watchOrd (sw_sync ..), sqIn_answers s x _ rfl⟩
  case read =>
    intro s x w hr hp hid
    have heffect : (sqIn s x).sqEffect x (asOp w 6) = _ := sqEffect_read rfl
    rw [show sqCounter x (asOp w 6) = sqCounter x w from rfl, syncSame_counter (sqIn_same s x) (sqCounter_lt (sqReady_lt hr) hid)] at heffect
    have hbare := State.watchTriggers_bare (sqIn s x) (sqCounter x w) (counter s (sqCounter x w))
    exact ⟨_, sqTake_effect hr hp (.inl (by simp)) ⟨fun _ => hid, by simp, by simp⟩ heffect,
      (sw_sync ..).trans ((sync_of_bare hbare).trans (sqIn_sync s x)), sqIn_answers s x _ (ports_of_bare hbare)⟩
  case arrive =>
    intro s x w hr hp hcons hid hpos hlt hon hbelow
    have hbar : ∀ f : Fld, f.off < 0x1000 → barGet ((sqIn s x).sqFree x) w.id f = barGet s w.id f := fun f hf =>
      syncSame_bar (sqIn_same s x) hid hf
    have hmod : w.value % 4096 = w.value := Nat.mod_eq_of_lt hlt
    have hon' : barOn (sqIn s x) w.id = true := (congrArg (· == 1) (hbar SYNC_BAR_BCFG_EN (by decide))).trans hon
    rw [← hbar SYNC_BAR_BSTAT_COUNT (by decide), ← hbar SYNC_BAR_BCFG_EXPECT (by decide)] at hbelow
    obtain ⟨hcount, hphase, hsync⟩ := arrive_counts hbelow
    have heffect : (sqIn s x).sqEffect x (asOp w 7) = ((sqIn s x).sqFree x).arrive w.id (w.value % 4096) := sqEffect_arrive rfl hcons
    rw [hmod] at heffect
    exact ⟨_, sqTake_effect hr hp (.inr ⟨rfl, fun h0 => absurd (hmod.symm.trans h0) (by omega), hlt⟩) ⟨by simp, by simp, fun _ => ⟨hon', hcons⟩⟩ heffect,
      hcount.trans (congrArg (· + _) (hbar _ (by decide))), hphase.trans (hbar _ (by decide)), hsync⟩
  case badId =>
    intro e he s x w hr hp hid
    obtain ⟨op, hop, hexec, -⟩ := counterOps_code he
    exact ⟨_, (hexec x w s).trans (sqTake_badId hr hp ⟨by simp, by simp; omega⟩ hid), sw_sync .., sqIn_answers s x _ rfl,
      fun c hc => syncSame_counter (syncSame_trans (sqIn_same s x) (sw_same (sqIn s x) _ _)) hc⟩

end Sys2Proof.Machine

/-! PROOFS. Held messages, slots and parked requests (spec/10_synchronisation.md R309, R310, R323 to R330). The word of a tag lies above every
ring's page, so a tag set leaves the ring that names it; where no request is parked, a slot that fills or empties admits none. -/
namespace Sys2Proof.Machine

section
variable {s : State} {x tag : Nat}

/-! ### Held messages and SW (R309, R310, R314) -/

/-- A message that nothing holds back any more takes effect, and with none behind it the port holds none. -/
theorem sqDrain_one {h : SqHeld} {t : State} (n : Nat) (hheld : (portOf s x).sqHeld = [h]) (hgo : sqWaits s x h = false)
    (hrun : (s.port x fun p => { p with sqHeld := [] }).sqRun x h = t) (hnone : (portOf t x).sqHeld = []) : s.sqDrain x (n + 1) = t := by
  unfold State.sqDrain
  rw [hheld]
  dsimp only
  rw [hgo, if_neg Bool.false_ne_true, hrun]
  exact sqDrain_none n hnone
theorem sqWaits_none {h : SqHeld} (hrel : h.w.rel = true → released s x h.mark = true) : sqWaits s x h = false := by
  unfold sqWaits
  cases hr : h.w.rel with
  | false => rw [Bool.and_false, Bool.false_and, Bool.false_and]
  | true => rw [hrel hr, Bool.not_true, Bool.and_false]
/-- The state in which a held message takes effect: the writes it waited for are landed (R315). -/
def State.sqLanded (s : State) (x : Nat) (h : SqHeld) : State := s.cond h.w.rel fun s => s.landed (writeOf s x h.mark)
theorem sqRun_effect {h : SqHeld} (hok : h.err = 0) (hfits : SqFits s x h.w) : s.sqRun x h = (s.sqLanded x h).sqEffect x h.w := by
  unfold State.sqRun
  simp only [hok, sqReject_fits hfits]
  rfl
theorem sqLanded_leaves (s : State) (x : Nat) (h : SqHeld) : (s.sqLanded x h).regs = s.regs ∧ (s.sqLanded x h).cfg = s.cfg ∧
    (s.sqLanded x h).ports = s.ports ∧ (s.sqLanded x h).sync = s.sync := by
  unfold State.sqLanded
  cases h.w.rel <;> exact ⟨rfl, rfl, rfl, rfl⟩
theorem syncSame_of_regs {t : State} (hregs : t.regs = s.regs) (hcfg : t.cfg = s.cfg) : syncSame s t := fun o _ _ => State.rd_congr hregs hcfg o
theorem parked_congr {t : State} (hregs : t.regs = s.regs) (hcfg : t.cfg = s.cfg) : parked t = parked s := by
  unfold parked lcState
  rw [State.get_congr hregs hcfg, State.get_congr hregs hcfg]
/-- A held ADD on a counter that no watch is on takes effect. -/
theorem add_released {h : SqHeld} (hx : x < 72) (hheld : (portOf s x).sqHeld = [h]) (hok : h.err = 0) (hop : h.w.op = 1) (hid : h.w.id < 48)
    (hrel : h.w.rel = true → released s x h.mark = true) (hw : noWatch s (sqCounter x h.w)) (hrun : parked s = false) :
    ∃ t, exec (.sqReleaseEffect x) s = .next t ∧ (portOf t x).sqHeld = [] ∧
      counter t (sqCounter x h.w) = min (counter s (sqCounter x h.w) + h.w.value) 0xFFFF := by
  have hc := sqCounter_lt hx hid
  have hfits : SqFits (s.port x fun p => { p with sqHeld := [] }) x h.w := 
    ⟨fun _ => hid, fun h4 => absurd (hop.symm.trans h4) (by decide), fun h7 => absurd (hop.symm.trans h7) (by decide)⟩
  obtain ⟨hregs, hcfg, hports, hsync⟩ := sqLanded_leaves (s.port x fun p => { p with sqHeld := [] }) x h
  have heffect := (sqRun_effect hok hfits).trans (sqEffect_counter (op := 0) (by decide) hop)
  generalize (s.port x fun p => { p with sqHeld := [] }).sqLanded x h = u at *
  have hsame : syncSame s u := syncSame_of_regs hregs hcfg
  obtain ⟨-, hnew, hbare⟩ := ctrOp_frame u (sqCounter x h.w) 0 h.w.value (syncSame_noWatch hsame hsync hw) hc
    ((parked_congr hregs hcfg).trans hrun)
  have hnone : (portOf ((u.ctrOp (sqCounter x h.w) 0 h.w.value).sqFree x) x).sqHeld = [] := by
    unfold State.sqFree
    rw [State.portOf_port_self, portOf_congr _ _ _ ((ports_of_bare hbare).trans hports), State.portOf_port_self]
  refine ⟨_, congrArg Host.Outcome.next (sqDrain_one 15 hheld (sqWaits_none hrel) heffect hnone), hnone, hnew.trans ?_⟩
  rw [if_pos rfl, syncSame_counter hsame hc]
  exact Nat.mod_eq_of_lt (Nat.lt_of_le_of_lt (Nat.min_le_right ..) (by decide))

/-- The oldest message of a present port crosses on SW, with the entries of its port and of the port whose watch it withdrew. -/
theorem sw_crosses {m : SwMsg} {l : List SwMsg} (hsw : (portOf s x).sw = m :: l) (hon : portState s x ≠ 0) (hworks : (portOf s x).broken = false) :
    ∃ t, exec (.swTransfer x) s = .next t ∧ (portOf t x).sw = l ∧ (portOf t x).swLast = some m ∧
      (portOf t x).sqUsed = (portOf s x).sqUsed - m.frees - (if m.also = some x then 1 else 0) ∧ t.sync = s.sync := by
  have hgo : ¬ (portState s x = 0 ∨ (portOf s x).broken = true) := by
    rw [hworks]
    exact fun h => h.elim hon Bool.false_ne_true
  have hself := State.portOf_port_self s x fun p => { p with sw := l, swLast := some m, sqUsed := p.sqUsed - m.frees }
  show ∃ t, execSwTransfer x s = .next t ∧ _
  unfold execSwTransfer
  rw [hsw]
  dsimp only
  rw [if_neg hgo]
  cases halso : m.also with
  | none => exact ⟨_, rfl, by rw [hself], by rw [hself], by rw [hself]; rfl, rfl⟩
  | some y =>
    refine ⟨_, rfl, ?_⟩
    unfold State.sqFree
    by_cases hy : y = x
    · subst hy
      rw [State.portOf_port_self, hself]
      exact ⟨rfl, rfl, by rw [if_pos rfl], rfl⟩
    · rw [State.portOf_port_of_ne _ _ (Ne.symm hy), hself]
      exact ⟨rfl, rfl, by rw [if_neg (fun h => hy (Option.some.inj h))]; rfl, rfl⟩

/-! ### Tags (R323, R325, R326) -/

theorem ringBase_le (r : Nat) : ringBase r ≤ 0x052000 := by
  unfold ringBase
  split <;> omega
/-- A tag lies above every ring. -/
theorem ringTag_setTag (s : State) (t r : Nat) (full : Bool) : ringTag (s.setTag t full) r = ringTag s r := by
  have hr := ringBase_le r
  have hm := Nat.mod_lt r (show 128 > 0 by decide)
  refine congrArg (Fld.of _) (State.rd_put_of_ne s _ ?_)
  simp only [SYNC_RING_RCFG2_TBASE, pgSYNCTAG, SYNC_TAG_TAGBITS]
  omega
theorem tagFull_setTag (s : State) (r k : Nat) (full : Bool) : tagFull (s.setTag (ringTag s r + k) full) r k = full := by
  unfold tagFull
  rw [ringTag_setTag]
  exact State.flag_put_self s _ _ full ⟨Nat.le_refl _, Nat.mod_lt _ (by decide)⟩ rfl
theorem tagFull_congr {t : State} (hregs : t.regs = s.regs) (hcfg : t.cfg = s.cfg) (r k : Nat) : tagFull t r k = tagFull s r k := by
  unfold tagFull ringTag ringGet
  rw [State.get_congr hregs hcfg]
  exact State.flag_congr (State.get_congr hregs hcfg ..)
theorem syn_id {f : SyncSt → SyncSt} (h : f s.sync = s.sync) : s.syn f = s := by
  unfold State.syn
  rw [h]
/-- With no request parked, none is admitted. -/
theorem admitParked_none (r k : Nat) (full : Bool) (h : s.sync.parks = []) : s.admitParked r k full = s := by
  unfold State.admitParked
  dsimp only
  rw [h, List.filter_nil, each_nil]
  exact syn_id (congrArg (fun l => { s.sync with parks := l }) ((congrArg (List.filter _) h).trans h.symm))
/-- A slot that is EMPTY becomes FULL. -/
theorem fillSlot_none {r k : Nat} (htag : tagFull s r k = false) (h : s.sync.parks = []) : s.fillSlot r k = s.setTag (ringTag s r + k) true := by
  unfold State.fillSlot
  rw [htag, if_neg Bool.false_ne_true]
  exact admitParked_none r k true h
/-- A slot that is FULL becomes EMPTY; a slot that no token filled returns no credit. -/
theorem emptySlot_none {r k : Nat} (htag : tagFull s r k = true) (h : s.sync.parks = []) (hf : s.sync.filler = []) :
    s.emptySlot r k = s.setTag (ringTag s r + k) false := by
  have hkept : (s.setTag (ringTag s r + k) false).sync.filler = [] := hf
  unfold State.emptySlot
  rw [if_pos htag]
  dsimp only
  rw [hkept]
  exact admitParked_none r k false h
/-- The state with a pending fill or empty taken off. -/
def State.takeChange (s : State) (c : SlotChange) : State := s.syn fun y => { y with changes := y.changes.erase c }
theorem slotFill_fills {c : SlotChange} (hfind : (s.sync.changes.find? fun c => c.x == x && c.tag == tag && c.fill) = some c) (hgo : c.go = [])
    (hsettled : writesSettled s x c.acc true = true) (hgood : c.bad = false) (htag : tagFull s c.ring c.slot = false) (hparks : s.sync.parks = []) :
    ∃ t, exec (.slotFill x tag) s = .next t ∧ tagFull t c.ring c.slot = true ∧ t.sync.changes = s.sync.changes.erase c := by
  have hstill : tagFull ((s.takeChange c).landed (writeOf (s.takeChange c) x (c.acc + 1))) c.ring c.slot = false :=
    (tagFull_congr (s := s) rfl rfl ..).trans htag
  have hexec : exec (.slotFill x tag) s = .next (((s.takeChange c).landed (writeOf (s.takeChange c) x (c.acc + 1))).fillSlot c.ring c.slot) := by
    show execSlotFill x tag s = _
    unfold execSlotFill
    rw [hfind]
    dsimp only
    rw [hgo, hsettled, hgood]
    rfl
  rw [fillSlot_none hstill hparks] at hexec
  exact ⟨_, hexec, tagFull_setTag .., rfl⟩
theorem slotEmpty_empties {c : SlotChange} (hfind : (s.sync.changes.find? fun c => c.x == x && c.tag == tag && !c.fill) = some c) (hgo : c.go = [])
    (hread : ((portOf s x).txns.all fun t => !(t.slotAt == some (c.ring * 16384 + c.slot) && t.req.op == 0 && decide (t.acc < c.acc)) ||
      txnSettled s x t true) = true)
    (hgood : c.bad = false) (htag : tagFull s c.ring c.slot = true) (hparks : s.sync.parks = []) (hfiller : s.sync.filler = []) :
    ∃ t, exec (.slotEmpty x tag) s = .next t ∧ tagFull t c.ring c.slot = false ∧ t.sync.changes = s.sync.changes.erase c := by
  have hstill : tagFull (s.takeChange c) c.ring c.slot = true := (tagFull_congr (s := s) rfl rfl ..).trans htag
  have hexec : exec (.slotEmpty x tag) s = .next ((s.takeChange c).emptySlot c.ring c.slot) := by
    show execSlotEmpty x tag s = _
    unfold execSlotEmpty
    rw [hfind]
    dsimp only
    rw [hgo, hread, hgood]
    rfl
  rw [emptySlot_none hstill hparks hfiller] at hexec
  exact ⟨_, hexec, tagFull_setTag .., rfl⟩

/-! ### Parked requests (R329, R330) -/

theorem slotTimeout_answers {d : Nat} {k : Park} {u : Txn} (hfind : (s.sync.parks.find? fun k => k.x == x && k.tag == tag) = some k)
    (hdl : k.deadline = some d) (hpast : d ≤ s.now) (hu : txnOf s x tag = some u) :
    ∃ t, exec (.slotTimeout x tag) s = .next t ∧ t.sync.parks = s.sync.parks.filter (fun j => !(j.x == x && j.tag == tag)) ∧
      (portOf t x).ready = (portOf s x).ready ++ [⟨laneWr u.req, tag, 0, 0, stTIMEOUT, 0, false, 0, false, 0, none, s.pcNow⟩] := by
  refine ⟨((s.unpark x tag).bumpSat pgSYNCTAG SYNC_TAG_TMO_CNT_COUNT).answerReq x tag stTIMEOUT, ?_, answerReq_sync_parks .., ?_⟩
  · show execSlotTimeout x tag s = _
    unfold execSlotTimeout
    rw [hfind]
    dsimp only
    rw [hdl]
    exact if_neg (Nat.not_lt.mpr hpast)
  · exact answerReq_ready _ x tag stTIMEOUT u hu
/-- A request probes again once its bound runs (R330). -/
theorem parkRetryProbe_probes {k : Park} {u : Txn} (hfind : (s.sync.parks.find? fun k => k.x == x && k.tag == tag && !k.table) = some k)
    (hu : txnOf s x tag = some u) (hdl : k.deadline.isSome = true) : exec (.parkRetryProbe x tag) s = .next (s.probe k) := by
  have hbound : k.deadline.isNone = false := by rw [← Option.not_isSome, hdl]; rfl
  show execParkRetryProbe x tag s = _
  unfold execParkRetryProbe
  rw [hfind]
  dsimp only
  rw [hu, hbound]
  rfl
theorem admitSlot_parks (s : State) (x tag acc r k : Nat) : (s.admitSlot x tag acc r k).sync.parks = s.sync.parks := by
  unfold State.admitSlot
  split
  · rfl
  · dsimp only
    rw [State.port_sync, State.cond_sync]
    split <;> rfl
theorem probe_admits {k : Park} (h : tagFull s k.ring k.slot = k.full) :
    (s.probe k).sync.parks = s.sync.parks.filter fun j => !(j.x == k.x && j.tag == k.tag) := by
  have hprobe : s.probe k = (s.unpark k.x k.tag).admitSlot k.x k.tag k.acc k.ring k.slot :=
    if_pos ((tagFull_congr (s := s) (t := s.unpark k.x k.tag) rfl rfl ..).trans h)
  rw [hprobe]
  exact admitSlot_parks ..
theorem probe_parks {k : Park} (h : tagFull s k.ring k.slot ≠ k.full) (hdl : k.deadline.isSome = true)
    (hroom : ((s.sync.parks.filter fun j => !(j.x == k.x && j.tag == k.tag)).filter fun j => j.table && j.home == k.home).length < 32) :
    (s.probe k).sync.parks = (s.sync.parks.filter fun j => !(j.x == k.x && j.tag == k.tag)) ++ [{ k with table := true }] := by
  obtain ⟨d, hd⟩ := Option.isSome_iff_exists.mp hdl
  have htag : tagFull (s.unpark k.x k.tag) k.ring k.slot ≠ k.full := fun he =>
    h ((tagFull_congr (s := s) (t := s.unpark k.x k.tag) rfl rfl ..).symm.trans he)
  have hfree : decide (32 ≤ ((s.unpark k.x k.tag).sync.parks.filter fun j => j.table && j.home == k.home).length) = false :=
    decide_eq_false (Nat.not_le.mpr hroom)
  unfold State.unpark at htag hfree
  unfold State.probe
  dsimp only
  rw [if_neg htag, hfree, hd]
  rfl
end

/-- Settles O18: the held ADD by `add_released`, a message on SW by `sw_crosses`, a fill and an empty by the tag they set, and a parked request by
its answer or its probe. -/
theorem syncEvents : Obligations.SyncEvents := by
  refine ⟨?add, fun s x m l => sw_crosses, fun s x tag c => slotFill_fills, fun s x tag c => slotEmpty_empties,
    fun s x tag d k u => slotTimeout_answers, ?parks, ?admits⟩
  case add =>
    intro s x h hx hheld hok hop hid _ hrel hw hrun
    exact add_released hx hheld hok hop hid hrel hw hrun
  case parks =>
    intro s x tag k u hfind hu hdl htag hroom
    exact ⟨_, parkRetryProbe_probes hfind hu hdl, probe_parks htag hdl hroom⟩
  case admits =>
    intro s x tag k u hfind hu hdl htag
    exact ⟨_, parkRetryProbe_probes hfind hu hdl, probe_admits htag⟩

end Sys2Proof.Machine

/-! PROOFS. The arrival and the storing of a missed line (spec/12_cache_mode.md R364, R367, R368, R371). Where the cache controller has one
operation, its run takes that operation through its stages in turn, up to the sending of its rim access: of the controller the sending changes
that operation alone, and it leaves the ports, the master port and the registers from HANDLE_CMD up. -/
namespace Sys2Proof.Machine

/-! ### Sending a rim access (R175, R204) -/

/-- The stem without the accesses held for a queue share: the sending of an access changes nothing of it. -/
def State.stemSent (s : State) : State := { s.stem with shareHeld := [] }
theorem stemSent_of_stem {s t : State} (h : t.stem = s.stem) : t.stemSent = s.stemSent := by
  unfold State.stemSent
  rw [h]
theorem cache_of_stemSent {s t : State} (h : t.stemSent = s.stemSent) : t.cache = s.cache := (congrArg State.cache h :)
theorem ports_of_stemSent {s t : State} (h : t.stemSent = s.stemSent) : t.ports = s.ports := (congrArg State.ports h :)
theorem mport_of_stemSent {s t : State} (h : t.stemSent = s.stemSent) : t.mport = s.mport := (congrArg State.mport h :)
theorem enterRefused_stem (s : State) (a : Access) (st : Nat) : (s.enterRefused a st).stem = s.stem := by
  simp [State.enterRefused]
theorem enterPool_stem (s : State) (a : Access) : (s.enterPool a).stem = s.stem := by
  simp [State.enterPool]
theorem sendAccess_stemSent (s : State) (a : Access) : (s.sendAccess a).2.stemSent = s.stemSent := by
  unfold State.sendAccess
  dsimp only
  split
  · exact (stemSent_of_stem (enterRefused_stem ..)).trans rfl
  · split
    · exact (stemSent_of_stem (enterPool_stem ..)).trans rfl
    · unfold State.cond
      split <;> rfl

/-- A charge changes the REGUL page alone. -/
theorem charge_rd (s : State) {t : Nat} (a b : Nat) {o : Nat} (ht : t < 64) (ho : pgHCMD ≤ o) : (s.charge t a b).rd o = s.rd o := by
  unfold State.charge
  rw [State.tidCnt_rd, State.bumpSat_rd]
  simp only [pgHCMD, pgREGUL, REGUL_TSPENT_SPENT] at *
  omega
theorem enterRefused_rd (s : State) (a : Access) (st : Nat) {o : Nat} (ht : a.tid < 64) (ho : pgHCMD ≤ o) :
    (s.enterRefused a st).rd o = s.rd o := by
  unfold State.enterRefused
  dsimp only
  rw [charge_rd _ _ _ ht ho]
  exact settleAcc_rd ..
theorem enterPool_rd (s : State) (a : Access) {o : Nat} (ht : a.tid < 64) (hs : a.sector < 32) (ho : pgHCMD ≤ o) :
    (s.enterPool a).rd o = s.rd o := by
  have hhwm : o ≠ pgHUB + (HUB_SPOOL_HWM.at 4 a.sector).off := by
    simp only [pgHCMD, pgHUB, HUB_SPOOL_HWM] at *
    omega
  unfold State.enterPool
  dsimp only
  rw [State.cond_rd, State.rd_put_of_ne _ _ hhwm, ite_self, charge_rd _ _ _ ht ho]
  rfl
theorem sendAccess_rd (s : State) (a : Access) {o : Nat} (ht : a.tid < 64) (hs : a.sector < 32) (ho : pgHCMD ≤ o) :
    (s.sendAccess a).2.rd o = s.rd o := by
  unfold State.sendAccess
  dsimp only
  split
  · exact enterRefused_rd _ _ _ ht ho
  · split
    · exact enterPool_rd _ _ ht hs ho
    · rw [State.cond_rd]
      exact ite_self _

/-! ### The controller with one operation (R370) -/

section
variable {s t : State} {i j : CacheJob}

theorem cach_jobs_self {l : List CacheJob} (h : s.cache.jobs = l) : (s.cach fun c => { c with jobs := l }) = s := by
  rw [← h]
  rfl
theorem lineJob_eq (h : s.cache.jobs = [j]) (f : CacheJob → CacheJob) : s.lineJob j.id f = s.cach fun c => { c with jobs := [f j] } := by
  have hmap : (s.cache.jobs.map fun k => if k.id = j.id then f k else k) = [f j] := by rw [h, List.map_singleton, if_pos rfl]
  exact congrArg (fun l => s.cach fun c => { c with jobs := l }) hmap
theorem lineDone_eq (h : s.cache.jobs = [j]) : s.lineDone j.id = s.cach fun c => { c with jobs := [] } := by
  have hfilter : (s.cache.jobs.filter fun k => k.id != j.id) = [] := by rw [h, List.filter_cons_of_neg (by simp), List.filter_nil]
  exact congrArg (fun l => s.cach fun c => { c with jobs := l }) hfilter
theorem lineRun_stays (h : s.cache.jobs.findSome? (lineStep s) = none) (n : Nat) : s.lineRun n = s := by
  cases n with
  | zero => rfl
  | succ n =>
    unfold State.lineRun
    rw [h]
theorem lineRun_none (h : s.cache.jobs = []) (n : Nat) : s.lineRun n = s := lineRun_stays (by rw [h]; rfl) n
theorem lineRun_waits (hjobs : s.cache.jobs = [j]) (hstep : lineStep s j = none) (n : Nat) : s.lineRun n = s :=
  lineRun_stays (by rw [hjobs, List.findSome?_cons, hstep]; rfl) n
theorem lineRun_steps (hjobs : s.cache.jobs = [j]) (hstep : lineStep s j = some t) (n : Nat) : s.lineRun (n + 1) = t.lineRun n := by
  rw [State.lineRun, hjobs, List.findSome?_cons, hstep]
/-- The rim accesses of the controller go to layer 0. -/
theorem access_sector (s : State) (j : CacheJob) : (j.access s).sector < 32 := by
  have hrim : rimOfFrame (j.access s).frame < 16 := Nat.mod_lt _ (by decide)
  show 4 * 0 + rimOfFrame (j.access s).frame / 4 < 32
  omega
theorem lineSend_sends (hjobs : s.cache.jobs = [j]) (hstage : j.stage ≠ .hit) (hsend : s.lineSend j = some t) :
    ∃ (u : State) (p : Bool), t = (u.cach fun c => { c with jobs := [{ j with sent := true, paid := p }] }) ∧ u.stemSent = s.stemSent ∧
      (j.tid < 64 → ∀ o, pgHCMD ≤ o → u.rd o = s.rd o) := by
  have hstem := sendAccess_stemSent s (j.access s)
  have hread : j.tid < 64 → ∀ o, pgHCMD ≤ o → (s.sendAccess (j.access s)).2.rd o = s.rd o :=
    fun ht o ho => sendAccess_rd s (j.access s) ht (access_sector s j) ho
  unfold State.lineSend at hsend
  split at hsend
  next u hu =>
    rw [hu] at hstem hread
    have hu : u.cache.jobs = [j] := (congrArg CacheSt.jobs (cache_of_stemSent hstem)).trans hjobs
    dsimp only at hsend
    split at hsend
    · next hhit => exact absurd hhit hstage
    · rw [lineJob_eq hu] at hsend
      cases hsend
      exact ⟨u, _, rfl, hstem, hread⟩
  next => cases hsend
/-- An operation with a rim access to send sends it where it finds room, and then waits. -/
theorem lineRun_sends (hjobs : s.cache.jobs = [j]) (hstage : j.stage = .fill ∨ j.stage = .readOut) (hsent : j.sent = false) (n : Nat) :
    ∃ (u : State) (b p : Bool), s.lineRun (n + 1) = (u.cach fun c => { c with jobs := [{ j with sent := b, paid := p }] }) ∧
      u.stemSent = s.stemSent ∧ (j.tid < 64 → ∀ o, pgHCMD ≤ o → u.rd o = s.rd o) := by
  have hstep : ∀ (s : State) (j : CacheJob), j.stage = .fill ∨ j.stage = .readOut → lineStep s j = if j.sent then none else s.lineSend j := by
    intro s j h
    unfold lineStep
    rcases h with h | h <;> rw [h]
  have hsends : lineStep s j = s.lineSend j := (hstep s j hstage).trans (if_neg (by rw [hsent]; decide))
  cases hsend : s.lineSend j with
  | none =>
    refine ⟨s, j.sent, j.paid, ?_, rfl, fun _ _ _ => rfl⟩
    rw [lineRun_waits hjobs (hsends.trans hsend)]
    exact (cach_jobs_self hjobs).symm
  | some t =>
    have hnot : j.stage ≠ .hit := by rcases hstage with h | h <;> rw [h] <;> decide
    obtain ⟨u, p, rfl, hstem, hread⟩ := lineSend_sends hjobs hnot hsend
    refine ⟨u, true, p, ?_, hstem, hread⟩
    rw [lineRun_steps hjobs (hsends.trans hsend)]
    exact lineRun_waits rfl ((hstep _ { j with sent := true, paid := p } hstage).trans (if_pos rfl)) n
theorem cacheRun_eq (hpark : parked s = false) : ∃ l, s.cacheRun = { s.lineRun (16 * s.cache.jobs.length + 16) with shareHeld := l } := by
  unfold State.cacheRun
  rw [hpark]
  exact ⟨_, rfl⟩
/-- An operation whose next step is its last leaves the controller with none. -/
theorem cacheRun_ends (hpark : parked s = false) (hjobs : s.cache.jobs = [i]) (hstep : lineStep s i = some t) (hend : t.cache.jobs = []) :
    ∃ l, s.cacheRun = { t with shareHeld := l } := by
  obtain ⟨l, hrun⟩ := cacheRun_eq hpark
  rw [hjobs, List.length_singleton, lineRun_steps hjobs hstep, lineRun_none hend] at hrun
  exact ⟨l, hrun⟩
/-- An operation whose next step takes it to a rim access comes as far as that access. -/
theorem cacheRun_sends (hpark : parked s = false) (hjobs : s.cache.jobs = [i]) (hstep : lineStep s i = some t) (hthen : t.cache.jobs = [j])
    (hstage : j.stage = .fill ∨ j.stage = .readOut) (hsent : j.sent = false) :
    ∃ (u : State) (b p : Bool), s.cacheRun = (u.cach fun c => { c with jobs := [{ j with sent := b, paid := p }] }) ∧ u.stemSent = t.stemSent ∧
      (j.tid < 64 → ∀ o, pgHCMD ≤ o → u.rd o = t.rd o) := by
  obtain ⟨l, hrun⟩ := cacheRun_eq hpark
  obtain ⟨u, b, p, hsends, hstem, hread⟩ := lineRun_sends hthen hstage hsent 30
  rw [hjobs, List.length_singleton, lineRun_steps hjobs hstep, hsends] at hrun
  exact ⟨{ u with shareHeld := l }, b, p, hrun, hstem, hread⟩

/-! ### Answers (R151, R367) -/

theorem answerLine_pays (s : State) (x tag k pm : Nat) (d : Option (Nat × Nat)) :
    (s.answerLine x tag k stOK pm d).regs = s.regs ∧ (s.answerLine x tag k stOK pm d).cfg = s.cfg := by
  unfold State.answerLine
  split
  · exact ⟨rfl, rfl⟩
  · dsimp only
    split <;> exact ⟨rfl, rfl⟩
theorem tellLine_cache (s : State) (j : CacheJob) (st pm data : Nat) : (s.tellLine j st pm data).cache = s.cache := by
  unfold State.tellLine
  split
  · exact answerLine_cache ..
  · rfl
  · rfl
/-- A port's request is told its outcome: lanes with the data of a read, one lane without data otherwise. -/
theorem tellLine_ext {x tag : Nat} (h : j.op = .ext x tag) (st pm data : Nat) : s.tellLine j st pm data =
    s.answerLine x tag 0 st pm (if j.wr ∨ (st ≠ stOK ∧ st ≠ stPOISON) then none else some (j.n, data)) := by
  unfold State.tellLine
  rw [h]
theorem tellLine_alloc (h : j.op = .alloc) (st pm data : Nat) : s.tellLine j st pm data = s := by
  unfold State.tellLine
  rw [h]

/-! ### The arrival of a missed line (R364, R367, R368) -/

/-- A transaction taken off the master port. -/
def State.mpDone (s : State) (id : Nat) : State := { s with mport := s.mport.filter fun q => q.id != id }
/-- The answer given as a missed line arrives: a read is answered, a write is not (R367). -/
def State.arrivalTold (s : State) (j : CacheJob) (data : Nat) : State :=
  (s.energy 7 2 j.tid).cond (!j.wr) fun s => s.tellLine j stOK 0 (data / 256 ^ j.b % 256 ^ j.n)
/-- An operation once its line has arrived: a write has its bytes in the line, a read leaves the allocation (R367, R368). -/
def CacheJob.arrived (j : CacheJob) (data : Nat) : CacheJob :=
  { j with
    stage := .place, op := if j.wr then j.op else .alloc,
    data := if j.wr then data - data / 256 ^ j.b % 256 ^ j.n * 256 ^ j.b + j.data % 256 ^ j.n * 256 ^ j.b else data }
theorem arrivalTold_cache (s : State) (j : CacheJob) (data : Nat) : (s.arrivalTold j data).cache = s.cache := by
  unfold State.arrivalTold State.cond
  split
  · exact tellLine_cache ..
  · rfl
theorem arrivalTold_regs {x tag : Nat} (h : j.op = .ext x tag) (data : Nat) :
    (s.arrivalTold j data).regs = s.regs ∧ (s.arrivalTold j data).cfg = s.cfg := by
  unfold State.arrivalTold State.cond
  split
  · dsimp only
    rw [tellLine_ext h]
    exact answerLine_pays ..
  · exact ⟨rfl, rfl⟩
theorem lineArrives_eq (hjobs : s.cache.jobs = [j]) (data : Nat) :
    s.lineArrives j data = (s.arrivalTold j data).cach fun c => { c with jobs := [j.arrived data] } := by
  have htold : (s.arrivalTold j data).cache.jobs = [j] := (congrArg CacheSt.jobs (arrivalTold_cache s j data)).trans hjobs
  exact lineJob_eq htold _
theorem cachePlace_congr (hregs : t.regs = s.regs) (hcfg : t.cfg = s.cfg) (line : Nat) : cachePlace t line = cachePlace s line := by
  unfold cachePlace cacheSections
  rw [State.get_congr hregs hcfg]
/-- A line that has arrived, with no other operation at the controller, takes the lowest invalid way of its set, where there is one. -/
theorem lineStep_places {pl : Nat × Nat} {w : Nat} (hjobs : s.cache.jobs = [j]) (hstage : j.stage = .place)
    (hplace : cachePlace s j.line = some pl)
    (hway : ((List.range 8).find? fun w => !(s.cache.lines.any fun e => e.1 == slotKey pl w)) = some w) :
    lineStep s j = some (s.cach fun c => { c with jobs := [{ j with stage := .fill, key := slotKey pl w, sent := false }] }) := by
  have hfree : ((List.range 8).find? fun w => !(s.cache.lines.any fun e => e.1 == slotKey pl w) &&
      !(s.cache.jobs.any fun k => k.stage == .fill && k.key == slotKey pl w)) = some w := by
    rw [hjobs]
    simpa [hstage] using hway
  unfold lineStep
  rw [hstage]
  unfold State.linePlace
  rw [hplace]
  dsimp only
  rw [hfree]
  exact congrArg some (lineJob_eq hjobs _)
/-- The transaction of the only miss is answered: with its line, or with an error. -/
theorem exec_cacheFillComplete {id x tag : Nat} {r : MpReq} (err : Bool) (data : Nat) (hmiss : missOut s id x tag r j) :
    exec (.cacheFillComplete id err data) s = .next
      (if err then ((((s.mpDone id).bumpSat pgMOVER MOVER_MP_ERR_COUNT).tellLine j stFAULT 0 0).lineDone j.id).cacheRun
      else ((s.mpDone id).lineArrives j (data % 2 ^ 1024)).cacheRun) := by
  obtain ⟨hfind, hsrc, hjobs, hstage, -, -, -⟩ := hmiss
  have hjob : (s.cache.jobs.find? fun k => k.id == j.id && k.stage == .fetch) = some j := by
    rw [hjobs]
    simp [hstage]
  show execCacheFillComplete id err data s = _
  unfold execCacheFillComplete
  rw [hfind]
  dsimp only
  rw [hsrc]
  dsimp only
  rw [hjob]
  exact (apply_ite Host.Outcome.next _ _ _).symm
/-- The line of the only miss arrives, and goes on its way to the slot that takes it. -/
theorem cacheFill_places {id x tag w : Nat} {pl : Nat × Nat} {r : MpReq} (data : Nat) (hmiss : missOut s id x tag r j)
    (hplace : cachePlace s j.line = some pl)
    (hway : ((List.range 8).find? fun w => !(s.cache.lines.any fun e => e.1 == slotKey pl w)) = some w) :
    ∃ (t : State) (b p : Bool), exec (.cacheFillComplete id false data) s = .next t ∧ t.cache.lines = s.cache.lines ∧
      t.cache.jobs = [{ j.arrived (data % 2 ^ 1024) with stage := .fill, key := slotKey pl w, sent := b, paid := p }] ∧
      t.ports = ((s.mpDone id).arrivalTold j (data % 2 ^ 1024)).ports := by
  have hexec := exec_cacheFillComplete false data hmiss
  rw [if_neg (by decide)] at hexec
  obtain ⟨-, -, hjobs, -, hop, -, hpark⟩ := hmiss
  generalize data % 2 ^ 1024 = line at *
  have hcache := arrivalTold_cache (s.mpDone id) j line
  obtain ⟨hregs, hcfg⟩ := arrivalTold_regs (s := s.mpDone id) hop line
  rw [lineArrives_eq (s := s.mpDone id) hjobs] at hexec
  generalize (s.mpDone id).arrivalTold j line = u at *
  generalize hv : (u.cach fun c => { c with jobs := [j.arrived line] }) = v at hexec
  have hvlines : v.cache.lines = s.cache.lines := by
    rw [← hv]
    exact (congrArg CacheSt.lines hcache :)
  have hvpark : parked v = false := by
    rw [← hv]
    exact (parked_congr hregs hcfg).trans hpark
  have hvplace : cachePlace v j.line = some pl := by
    rw [← hv]
    exact (cachePlace_congr hregs hcfg j.line).trans hplace
  have hvjobs : v.cache.jobs = [j.arrived line] := by
    rw [← hv]
    rfl
  obtain ⟨z, b, p, hrun, hstem, -⟩ := cacheRun_sends hvpark hvjobs (lineStep_places hvjobs rfl hvplace (hvlines ▸ hway)) rfl (.inl rfl) rfl
  refine ⟨_, b, p, hexec.trans (congrArg _ hrun), ?_, rfl, ?_⟩
  · exact (congrArg CacheSt.lines (cache_of_stemSent hstem)).trans hvlines
  · exact (ports_of_stemSent hstem).trans (by rw [← hv]; rfl)
/-- An error in place of the line of the only miss: the request completes with FAULT. -/
theorem cacheFill_faults {id x tag : Nat} {r : MpReq} {u : Txn} (data : Nat) (hmiss : missOut s id x tag r j) (hu : txnOf s x tag = some u) :
    ∃ t, exec (.cacheFillComplete id true data) s = .next t ∧ t.cache.jobs = [] ∧ t.cache.lines = s.cache.lines ∧
      (portOf t x).ready = (portOf s x).ready ++ [⟨laneWr u.req, tag, 0, 0, stFAULT, 0, false, 0, false, 0, none, s.pcNow⟩] := by
  have hexec := exec_cacheFillComplete true data hmiss
  rw [if_pos rfl] at hexec
  obtain ⟨-, -, hjobs, -, hop, -, -⟩ := hmiss
  generalize hv : (s.mpDone id).bumpSat pgMOVER MOVER_MP_ERR_COUNT = v at hexec
  have hcache : (v.tellLine j stFAULT 0 0).cache = s.cache := (tellLine_cache ..).trans (by rw [← hv]; rfl)
  rw [lineDone_eq ((congrArg CacheSt.jobs hcache).trans hjobs)] at hexec
  obtain ⟨l, hrun⟩ := cacheRun_idle (s := (v.tellLine j stFAULT 0 0).cach fun c => { c with jobs := [] }) rfl
  refine ⟨_, hexec.trans (congrArg _ hrun), rfl, (congrArg CacheSt.lines hcache :), ?_⟩
  show (portOf (v.tellLine j stFAULT 0 0) x).ready = _
  rw [tellLine_ext hop, if_pos (.inr (by decide)), answerLine_ready _ _ _ _ _ _ _ u (by rw [← hv]; exact hu), ← hv]
  rfl

/-! ### The storing of a missed line (R367, R371) -/

/-- The oldest access of the controller to its segments comes back to it. -/
theorem planeMerge_cache {a : Access} {id : Nat} (hfind : s.hub.flight.find? (fun b => b.seq == a.seq && b.loc == .merge) = some a)
    (hfirst : (s.hub.flight.any fun b => b.obs == a.obs && decide (b.seq < a.seq) && common a b) = false) (hsrc : a.src = .cache id) :
    ∃ u : State, exec (.planeMerge a.seq) s = .next (u.lineAccBack id a).cacheRun ∧ u.stem = s.stem := by
  have hanswers : answersAfter s a = false := by
    unfold answersAfter
    rw [hsrc]
  show ∃ u, execPlaneMerge a.seq s = _ ∧ _
  unfold execPlaneMerge
  rw [hfind]
  dsimp only
  rw [hfirst, hanswers, hsrc]
  refine ⟨_, if_neg (by simp), ?_⟩
  rw [State.latency_stem, State.cond_stem, State.put_stem, State.leave_stem, ite_self]
theorem lineAccBack_stored {a : Access} (hjobs : s.cache.jobs = [j]) (hstage : j.stage = .fill) (hok : a.status = stOK) :
    s.lineAccBack j.id a =
      ((((s.setLine j.key (some ⟨j.line / 8192, j.wr⟩)).useSlot j.key).tellLine j stOK 0 0).cach fun c => { c with jobs := [] }) := by
  have hjob : (s.cache.jobs.find? fun k => k.id == j.id) = some j := by
    rw [hjobs]
    simp
  have htold : (((s.setLine j.key (some ⟨j.line / 8192, j.wr⟩)).useSlot j.key).tellLine j stOK 0 0).cache.jobs = [j] :=
    (congrArg CacheSt.jobs (tellLine_cache ..)).trans hjobs
  rw [← lineDone_eq htold]
  unfold State.lineAccBack
  rw [hjob]
  dsimp only
  rw [hstage, hok]
  rfl
/-- A fill that has come back well: the cache holds the line, and who asked for it is told. -/
theorem planeMerge_stores {a : Access} (hfind : s.hub.flight.find? (fun b => b.seq == a.seq && b.loc == .merge) = some a)
    (hfirst : (s.hub.flight.any fun b => b.obs == a.obs && decide (b.seq < a.seq) && common a b) = false) (hsrc : a.src = .cache j.id)
    (hok : a.status = stOK) (hjobs : s.cache.jobs = [j]) (hstage : j.stage = .fill) :
    ∃ t u : State, exec (.planeMerge a.seq) s = .next t ∧ t.cache.jobs = [] ∧
      t.cache.lines = Sp.set s.cache.lines j.key ⟨j.line / 8192, j.wr⟩ ∧ t.ports = (u.tellLine j stOK 0 0).ports ∧
      u.ports = s.ports ∧ u.pcNow = s.pcNow := by
  obtain ⟨u, hexec, hstem⟩ := planeMerge_cache hfind hfirst hsrc
  have hcache : u.cache = s.cache := cache_of_stem hstem
  rw [lineAccBack_stored ((congrArg CacheSt.jobs hcache).trans hjobs) hstage hok] at hexec
  generalize hv : (u.setLine j.key (some ⟨j.line / 8192, j.wr⟩)).useSlot j.key = v at hexec
  have hlines : (v.tellLine j stOK 0 0).cache.lines = Sp.set s.cache.lines j.key ⟨j.line / 8192, j.wr⟩ := by
    rw [tellLine_cache, ← hv, ← hcache]
    rfl
  obtain ⟨l, hrun⟩ := cacheRun_idle (s := (v.tellLine j stOK 0 0).cach fun c => { c with jobs := [] }) rfl
  refine ⟨_, v, hexec.trans (congrArg _ hrun), rfl, hlines, rfl, ?_, ?_⟩
  · rw [← hv]
    exact (ports_of_stem hstem :)
  · rw [← hv]
    exact (pcNow_of_stem hstem :)
end

/-- Settles O19: an arrival by `cacheFill_places` or `cacheFill_faults`, the storing of the line by `planeMerge_stores`. -/
theorem cacheFill : Obligations.CacheFill := by
  refine ⟨?read, ?write, ?stored, ?allocated, fun s id x tag data r j u hmiss hu => cacheFill_faults data hmiss hu⟩
  case read =>
    intro s id x tag w data pl r j u hmiss hu hread hplace hway
    obtain ⟨t, b, p, hexec, hlines, hjobs, hports⟩ := cacheFill_places data hmiss hplace hway
    obtain ⟨-, -, -, -, hop, -, -⟩ := hmiss
    generalize data % 2 ^ 1024 = line at *
    have htxn : txnOf ((s.mpDone id).energy 7 2 j.tid) x tag = some u := hu
    refine ⟨t, hexec, hlines, ?_, ?_⟩
    · rw [hjobs]
      simp [CacheJob.arrived, hread]
    · rw [portOf_congr _ _ _ hports]
      unfold State.arrivalTold
      rw [hread, Bool.not_false, State.cond_true, tellLine_ext hop, if_neg (by simp [hread]), answerLine_ready _ _ _ _ _ _ _ u htxn]
      rfl
  case write =>
    intro s id x tag w data line pl r j hmiss hwrite hplace hline hway
    obtain ⟨t, b, p, hexec, hlines, hjobs, hports⟩ := cacheFill_places data hmiss hplace hway
    rw [← hline] at hjobs hports
    refine ⟨t, hexec, hlines, ?_, ?_⟩
    · rw [hjobs]
      simp [CacheJob.arrived, hwrite]
    · rw [portOf_congr _ _ _ hports]
      unfold State.arrivalTold
      rw [hwrite]
      rfl
  case stored =>
    intro s a x tag j u _ hfind hfirst hsrc hok hjobs hstage hop hwrite hu
    obtain ⟨t, v, hexec, hdone, hlines, hports, hsame, hpc⟩ := planeMerge_stores hfind hfirst hsrc hok hjobs hstage
    refine ⟨t, hexec, hdone, hwrite ▸ hlines, ?_⟩
    rw [portOf_congr _ _ _ hports, tellLine_ext hop, if_pos (.inl hwrite),
      answerLine_ready _ _ _ _ _ _ _ u ((txnOf_congr _ _ _ _ hsame).trans hu), portOf_congr _ _ _ hsame, hpc]
    rfl
  case allocated =>
    intro s a j _ hfind hfirst hsrc hok hjobs hstage _
    obtain ⟨t, -, hexec, hdone, hlines, -⟩ := planeMerge_stores hfind hfirst hsrc hok hjobs hstage
    exact ⟨t, hexec, hdone, hlines⟩

end Sys2Proof.Machine

/-! PROOFS. The commands of the cache (spec/12_cache_mode.md R365, R371, R375 to R379). What they write lies on the CACHE page, apart from the
words that say whether the device is PARKED and which rims are up; so each command's checks and its controller find the state that it met. -/
namespace Sys2Proof.Machine

/-! ### A maintenance operation on the only line (R375, R376) -/

section
variable {s t v : State} {m : Master} {j : CacheJob} {key op : Nat} {l : CLine}

theorem parked_of_rd (hmode : t.rd (pgHUB + HUB_PLANE_STAT) = s.rd (pgHUB + HUB_PLANE_STAT))
    (hlife : t.rd (pgTEST + TEST_LC_STAT) = s.rd (pgTEST + TEST_LC_STAT)) : parked t = parked s := by
  have hm : t.get pgHUB HUB_PLANE_STAT_MODE = s.get pgHUB HUB_PLANE_STAT_MODE := congrArg HUB_PLANE_STAT_MODE.of hmode
  have hl : t.get pgTEST TEST_LC_STAT_STATE = s.get pgTEST TEST_LC_STAT_STATE := congrArg TEST_LC_STAT_STATE.of hlife
  unfold parked lcState
  rw [hm, hl]
theorem findLine_of_rd (hstat : t.rd (pgCACHE + CACHE_SEC_STAT) = s.rd (pgCACHE + CACHE_SEC_STAT)) (hlines : t.cache.lines = s.cache.lines)
    (line : Nat) : findLine t line = findLine s line := by
  have hcur : t.get pgCACHE CACHE_SEC_STAT_CUR = s.get pgCACHE CACHE_SEC_STAT_CUR := congrArg CACHE_SEC_STAT_CUR.of hstat
  unfold findLine cachePlace cacheSections
  rw [hcur, hlines]
/-- A maintenance operation begun over the whole of the cache: its fields kept, BUSY, and the lines that it examines counted. -/
def State.copBegun (s : State) (w : Word32) : State :=
  let s := s.wr (pgCACHE + CACHE_COP_CMD) (BitVec.ofNat 32 (bits w.toNat 31 27 * 2 ^ 27 + bits w.toNat 24 16 * 2 ^ 16))
  let s := (s.put pgCACHE CACHE_COP_STAT_BUSY 1).put pgCACHE CACHE_COP_STAT_DONE (copLines s true (2 ^ 41))
  s.cach fun c => { c with cop := some (0, 2 ^ 41) }
theorem copBegun_rd (s : State) (w : Word32) {o : Nat} (hcmd : o ≠ pgCACHE + CACHE_COP_CMD) (hstat : o ≠ pgCACHE + CACHE_COP_STAT) :
    (s.copBegun w).rd o = s.rd o := by
  unfold State.copBegun
  dsimp only
  rw [State.cach_rd, State.rd_put_of_ne _ _ hstat, State.rd_put_of_ne _ _ hstat, State.rd_wr_of_ne _ _ hcmd]
theorem copBegun_cache (s : State) (w : Word32) :
    (s.copBegun w).cache = { s.cache with cop := some (0, 2 ^ 41) } ∧ (s.copBegun w).mport = s.mport := by
  unfold State.copBegun
  dsimp only
  rw [State.cach_cache, State.put_cache, State.put_cache, State.wr_cache, State.cach_mport, State.put_mport, State.put_mport, State.wr_mport]
  exact ⟨rfl, rfl⟩
theorem copBegun_busy (s : State) (w : Word32) : (s.copBegun w).flag pgCACHE CACHE_COP_STAT_BUSY = true := by
  unfold State.copBegun
  refine State.flag_eq_true ?_
  dsimp only
  rw [State.cach_get, State.get_put_page _ _ _ _ _ (by decide) (by decide), State.get_put_self _ _ _ _ (by decide)]
  rfl
/-- Maintenance operation `op` on a line, as it joins those at the controller. -/
def copJob (id line op : Nat) : CacheJob := { id := id, line := line, op := .cop op, tid := 0, b := 0, n := 128, wr := false, data := 0 }
theorem copAsk_frame (s : State) (line op : Nat) : (s.copAsk line op).regs = s.regs ∧ (s.copAsk line op).cfg = s.cfg ∧
    (s.copAsk line op).mport = s.mport ∧ (s.copAsk line op).cache.lines = s.cache.lines := ⟨rfl, rfl, rfl, rfl⟩
/-- In state v, maintenance operation j of kind op stands before the only line of the cache of s, and is all that the controller has to do. -/
structure CopAsked (s v : State) (key : Nat) (l : CLine) (op : Nat) (j : CacheJob) : Prop where
  jobs : v.cache.jobs = [j]
  lines : v.cache.lines = [(key, l)]
  cop : v.cache.cop = some (0, 2 ^ 41)
  mport : v.mport = s.mport
  busy : v.flag pgCACHE CACHE_COP_STAT_BUSY = true
  running : parked v = false
  found : findLine v j.line = some (key, l)
  line : j.line = lineOfSlot key l
  op : j.op = .cop op
  stage : j.stage = .wait
  sent : j.sent = false
  tid : j.tid = 0
theorem linesIn_single (hlines : v.cache.lines = [(key, l)]) (hjobs : v.cache.jobs = []) (hl : lineOfSlot key l < 2 ^ 41) :
    linesIn v 0 (2 ^ 41) = [lineOfSlot key l] := by
  have hin : ([lineOfSlot key l].filter fun x => decide (0 ≤ x ∧ x < 0 + 2 ^ 41)) = [lineOfSlot key l] := by
    refine List.filter_eq_self.mpr fun x hx => ?_
    rw [List.mem_singleton.mp hx]
    exact decide_eq_true (by omega)
  unfold linesIn
  rw [hlines, hjobs, List.map_singleton, List.map_nil, List.append_nil, hin]
  rfl
/-- A write of COP_CMD that is free to start begins its operation, and asks for it on the only line. -/
theorem copWrite_begins {w : Word32} (h : copOne s m w key l) (hop : CACHE_COP_CMD_OP.of w ≠ 0) :
    copWrite m w s = ((s.copBegun w).copAsk (lineOfSlot key l) (CACHE_COP_CMD_OP.of w)).cacheRun := by
  obtain ⟨hmay, hbusy, hall, hlines, hjobs, hline, -, -⟩ := h
  obtain ⟨hcache, -⟩ := copBegun_cache s w
  have hin : linesIn (s.copBegun w) 0 (2 ^ 41) = [lineOfSlot key l] :=
    linesIn_single ((congrArg CacheSt.lines hcache :).trans hlines) ((congrArg CacheSt.jobs hcache :).trans hjobs) hline
  unfold State.copBegun at hin ⊢
  unfold copWrite
  rw [State.gate_open _ _ _ _ _ _ hmay, hbusy, if_neg (by decide)]
  dsimp only at hin ⊢
  rw [bne_iff_ne.mpr hop, State.cond_true, beq_iff_eq.mpr hall, if_pos rfl, if_pos rfl, hin, each_single]
theorem copOne_into {w : Word32} (h : copOne s m w key l) (op : Nat) : copOne s m (CACHE_COP_CMD_OP.into w op) key l := by
  obtain ⟨hmay, hbusy, hall, hrest⟩ := h
  exact ⟨hmay, hbusy, (Fld.of_into_apart _ _ (by decide) (by decide) w op).trans hall, hrest⟩
/-- The operation that it asks for is all that the controller has to do. -/
theorem copBegun_asked {w : Word32} (h : copOne s m w key l) (op : Nat) : CopAsked s ((s.copBegun w).copAsk (lineOfSlot key l) op) key l op
    (copJob (s.copBegun w).cache.next (lineOfSlot key l) op) := by
  obtain ⟨-, -, -, hlines, hjobs, -, hfound, hpark⟩ := h
  obtain ⟨hcache, hmport⟩ := copBegun_cache s w
  have hblines : (s.copBegun w).cache.lines = [(key, l)] := (congrArg CacheSt.lines hcache :).trans hlines
  have hbjobs : (s.copBegun w).cache.jobs = [] := (congrArg CacheSt.jobs hcache :).trans hjobs
  have hcop : (s.copBegun w).cache.cop = some (0, 2 ^ 41) := (congrArg CacheSt.cop hcache :)
  have hbusy := copBegun_busy s w
  have hrun : parked (s.copBegun w) = false :=
    (parked_of_rd (copBegun_rd s w (by decide) (by decide)) (copBegun_rd s w (by decide) (by decide))).trans hpark
  have hfind : findLine (s.copBegun w) (lineOfSlot key l) = some (key, l) :=
    (findLine_of_rd (copBegun_rd s w (by decide) (by decide)) (hblines.trans hlines.symm) _).trans hfound
  generalize s.copBegun w = u at *
  obtain ⟨hregs, hcfg, hports, hsame⟩ := copAsk_frame u (lineOfSlot key l) op
  have hasked : (u.copAsk (lineOfSlot key l) op).cache.jobs = [copJob u.cache.next (lineOfSlot key l) op] := by
    show u.cache.jobs ++ [copJob u.cache.next (lineOfSlot key l) op] = _
    rw [hbjobs, List.nil_append]
  exact {
    jobs := hasked
    lines := hblines
    cop := hcop
    mport := hports.trans hmport
    busy := (State.flag_congr (State.get_congr hregs hcfg ..)).trans hbusy
    running := (parked_congr hregs hcfg).trans hrun
    found := (findLine_of_rd (State.rd_congr hregs hcfg _) hsame _).trans hfind
    line := rfl
    op := rfl
    stage := rfl
    sent := rfl
    tid := rfl }
theorem copWrite_asks {w : Word32} (h : copOne s m w key l) (hop : 0 < op ∧ op < 4) :
    ∃ v j, copWrite m (CACHE_COP_CMD_OP.into w op) s = v.cacheRun ∧ CopAsked s v key l op j := by
  have hreads : CACHE_COP_CMD_OP.of (CACHE_COP_CMD_OP.into w op) = op :=
    (Fld.of_into_self _ (by decide) _ _).trans (Nat.mod_eq_of_lt hop.2)
  have hbegins := copWrite_begins (copOne_into h op) (by rw [hreads]; exact Nat.ne_of_gt hop.1)
  rw [hreads] at hbegins
  exact ⟨_, _, hbegins, copBegun_asked (copOne_into h op) op⟩
theorem lineStart_cop (hfound : findLine v j.line = some (key, l)) (hop : j.op = .cop op) : v.lineStart j =
    if op = 1 ∨ (op = 3 ∧ !l.dirty) then (v.setLine key none).lineDone j.id
    else if l.dirty then v.lineJob j.id fun j => { j with stage := .readOut, key := key } else v.lineDone j.id := by
  unfold State.lineStart
  rw [hfound, hop]
theorem CopAsked.step (h : CopAsked s v key l op j) : lineStep v j = some (v.lineStart j) := by
  unfold lineStep
  rw [h.stage, h.jobs]
  simp
/-- INV drops the line, and CLEAN_INV a clean one. -/
theorem CopAsked.drops (h : CopAsked s v key l op j) (hdrop : op = 1 ∨ (op = 3 ∧ !l.dirty)) :
    v.cacheRun.cache.lines = [] ∧ v.cacheRun.cache.jobs = [] ∧ v.cacheRun.cache.cop = some (0, 2 ^ 41) ∧
      v.cacheRun.flag pgCACHE CACHE_COP_STAT_BUSY = true ∧ v.cacheRun.mport = s.mport := by
  have hstart : v.lineStart j = (v.setLine key none).cach fun c => { c with jobs := [] } := by
    rw [lineStart_cop h.found h.op, if_pos hdrop]
    exact lineDone_eq (s := v.setLine key none) h.jobs
  have hdel : Sp.del v.cache.lines key = [] := by
    rw [h.lines]
    exact if_pos rfl
  obtain ⟨held, hrun⟩ := cacheRun_ends h.running h.jobs (h.step.trans (congrArg some hstart)) rfl
  rw [hrun]
  exact ⟨hdel, rfl, h.cop, h.busy, h.mport⟩
/-- CLEAN keeps a clean line. -/
theorem CopAsked.keeps (h : CopAsked s v key l 2 j) (hclean : l.dirty = false) :
    v.cacheRun.cache.lines = [(key, l)] ∧ v.cacheRun.cache.jobs = [] ∧ v.cacheRun.cache.cop = some (0, 2 ^ 41) ∧
      v.cacheRun.flag pgCACHE CACHE_COP_STAT_BUSY = true ∧ v.cacheRun.mport = s.mport := by
  have hstart : v.lineStart j = v.cach fun c => { c with jobs := [] } := by
    rw [lineStart_cop h.found h.op, if_neg (by simp), if_neg (by rw [hclean]; decide), lineDone_eq h.jobs]
  obtain ⟨held, hrun⟩ := cacheRun_ends h.running h.jobs (h.step.trans (congrArg some hstart)) rfl
  rw [hrun]
  exact ⟨h.lines, rfl, h.cop, h.busy, h.mport⟩
/-- CLEAN and CLEAN_INV read a dirty line out, and keep it meanwhile. -/
theorem CopAsked.reads (h : CopAsked s v key l op j) (hop : op ≠ 1) (hdirty : l.dirty = true) :
    v.cacheRun.cache.lines = [(key, l)] ∧
      (v.cacheRun.cache.jobs.map fun j => (j.line, j.op, j.stage, j.key)) = [(lineOfSlot key l, .cop op, .readOut, key)] ∧
      v.cacheRun.cache.cop = some (0, 2 ^ 41) ∧ v.cacheRun.flag pgCACHE CACHE_COP_STAT_BUSY = true ∧ v.cacheRun.mport = s.mport := by
  have hstart : v.lineStart j = v.cach fun c => { c with jobs := [{ j with stage := .readOut, key := key }] } := by
    rw [lineStart_cop h.found h.op, if_neg (by simp [hop, hdirty]), if_pos hdirty, lineJob_eq h.jobs]
  obtain ⟨u, b, p, hrun, hstem, hread⟩ :=
    cacheRun_sends h.running h.jobs (h.step.trans (congrArg some hstart)) rfl (.inr rfl) h.sent
  have hbusy : u.get pgCACHE CACHE_COP_STAT_BUSY = v.get pgCACHE CACHE_COP_STAT_BUSY :=
    congrArg CACHE_COP_STAT_BUSY.of (hread (by rw [h.tid]; decide) _ (by decide))
  have hcache := cache_of_stemSent hstem
  rw [hrun]
  refine ⟨(congrArg CacheSt.lines hcache :).trans h.lines, ?_, (congrArg CacheSt.cop hcache :).trans h.cop,
    (State.flag_congr hbusy).trans h.busy, (mport_of_stemSent hstem).trans h.mport⟩
  show [(j.line, j.op, CacheStage.readOut, key)] = _
  rw [h.line, h.op]

/-! ### A write-back that has landed (R371, R375) -/

/-- A write-back of a maintenance operation lands: its line is clean after a CLEAN, gone after a CLEAN_INV. -/
theorem lineLanded_cop (data : Nat) (hjobs : s.cache.jobs = [j]) (hop : j.op = .cop op) (hlines : s.cache.lines = [(j.key, l)]) :
    ∃ u, s.lineLanded j false data = State.setLine u j.key (if op = 2 then some { l with dirty := false } else none) ∧
      u.cache = { s.cache with jobs := [] } := by
  have hdone := lineDone_eq hjobs
  refine ⟨(s.cach fun c => { c with jobs := [] }).bump pgCACHE CACHE_WB_CNT_COUNT, ?_, rfl⟩
  have hline : (((s.cach fun c => { c with jobs := [] }).bump pgCACHE CACHE_WB_CNT_COUNT).cache.lines.find? fun e => e.1 == j.key) =
      some (j.key, l) := by
    show (s.cache.lines.find? fun e => e.1 == j.key) = _
    rw [hlines]
    simp
  unfold State.lineLanded
  rw [hdone, hop]
  dsimp only
  rw [if_neg (by decide), hline]
  simp only [CacheOp.cop.injEq]
theorem masterPortResponse_lands {id data : Nat} {r : MpReq} (hfind : (s.mport.find? fun r => r.id == id) = some r)
    (hsrc : r.src = .wback j.id) (hjobs : s.cache.jobs = [j]) (hstage : j.stage = .land) (hop : j.op = .cop op)
    (hlines : s.cache.lines = [(j.key, l)]) :
    ∃ t, exec (.masterPortResponse id false data) s = .next t ∧ t.cache.jobs = [] ∧
      t.cache.lines = if op = 2 then [(j.key, { l with dirty := false })] else [] := by
  have hjob : (s.cache.jobs.find? fun k => k.id == j.id && k.stage == .land) = some j := by
    rw [hjobs]
    simp [hstage]
  have hexec : exec (.masterPortResponse id false data) s = .next ((s.mpDone id).lineLanded j false (r.value data)).cacheRun := by
    show execMasterPortResponse id false data s = _
    unfold execMasterPortResponse
    rw [hfind]
    dsimp only
    rw [hsrc]
    dsimp only
    rw [hjob]
    rfl
  obtain ⟨u, hland, hcache⟩ := lineLanded_cop (s := s.mpDone id) (r.value data) hjobs hop hlines
  rw [hland] at hexec
  obtain ⟨held, hrun⟩ := cacheRun_idle (s := u.setLine j.key (if op = 2 then some { l with dirty := false } else none))
    ((congrArg CacheSt.jobs hcache).trans rfl)
  refine ⟨_, hexec.trans (congrArg _ hrun), (congrArg CacheSt.jobs hcache :), ?_⟩
  have hulines : u.cache.lines = [(j.key, l)] := (congrArg CacheSt.lines hcache :).trans hlines
  show (u.setLine j.key _).cache.lines = _
  unfold State.setLine
  rw [State.cach_cache, hulines]
  by_cases hclean : op = 2
  · rw [if_pos hclean, if_pos hclean]
    exact if_pos rfl
  · rw [if_neg hclean, if_neg hclean]
    exact if_pos rfl

/-! ### A write while BUSY, and the end of an operation (R375, R376) -/

theorem copWrite_overruns (w : Word32) (hmay : mayWrite s m pgCACHE CACHE_COP_CMD true = true)
    (hbusy : s.flag pgCACHE CACHE_COP_STAT_BUSY = true) :
    copWrite m w s = (s.put pgCACHE CACHE_COP_STAT_OVERRUN 1).refused m pgCACHE CACHE_COP_CMD := by
  unfold copWrite
  rw [State.gate_open _ _ _ _ _ _ hmay, hbusy]
  rfl
theorem copOverrun_flag (s : State) (m : Master) :
    ((s.put pgCACHE CACHE_COP_STAT_OVERRUN 1).refused m pgCACHE CACHE_COP_CMD).flag pgCACHE CACHE_COP_STAT_OVERRUN = true :=
  (State.flag_congr (State.refused_get _ _ _ _ _ (by decide))).trans (State.flag_put_self s _ _ true (by decide) rfl)
/-- A maintenance operation ended: BUSY reads 0. -/
def State.copEnded (s : State) : State := (s.put pgCACHE CACHE_COP_STAT_BUSY 0).cach fun c => { c with cop := none }
theorem copEnded_rd (s : State) {o : Nat} (h : o ≠ pgCACHE + CACHE_COP_STAT) : s.copEnded.rd o = s.rd o :=
  (State.rd_put_of_ne s (f := CACHE_COP_STAT_BUSY) 0 h :)
theorem copEnded_busy (s : State) : s.copEnded.flag pgCACHE CACHE_COP_STAT_BUSY = false := State.flag_put_self s _ _ false (by decide) rfl
/-- The operation that runs is done once nothing of its range is at the controller: its counter is raised, and its interrupt set, where its
write has named them. -/
theorem exec_copDone {u : State} {lo n : Nat} (hrun : u = s.cacheRun) (hcop : u.cache.cop = some (lo, n)) (hwaits : copWaits u lo n = false) :
    ∃ irq, exec .copDone s = .next ((u.copEnded.cond (u.get pgCACHE CACHE_COP_CMD_CNT == 1 && decide (u.get pgCACHE CACHE_COP_CMD_COUNTER < 48))
      fun s => s.ctrOp (48 * u.get pgCACHE CACHE_COP_CMD_CORE + u.get pgCACHE CACHE_COP_CMD_COUNTER) 0 1).cond irq
      fun s => s.irq pgCACHE 0) := by
  have hcmd : ∀ f : Fld, f.off = CACHE_COP_CMD → u.copEnded.get pgCACHE f = u.get pgCACHE f :=
    fun f hf => congrArg f.of (copEnded_rd u (by rw [hf]; decide))
  refine ⟨u.copEnded.get pgCACHE CACHE_COP_CMD_IRQ == 1, ?_⟩
  rw [← hcmd CACHE_COP_CMD_CNT rfl, ← hcmd CACHE_COP_CMD_COUNTER rfl, ← hcmd CACHE_COP_CMD_CORE rfl]
  show execCopDone s = _
  unfold execCopDone
  rw [← hrun]
  dsimp only
  rw [hcop]
  dsimp only
  rw [hwaits]
  rfl
theorem condIrq_cache (s : State) (c : Bool) (b k : Nat) : (s.cond c fun s => s.irq b k).cache = s.cache := by
  rw [State.cond_cache, State.irq_cache, ite_self]
theorem condIrq_rd (s : State) (c : Bool) (b k : Nat) {o : Nat} (hb : o ≠ b + HDR_IRQ_STAT) (ho : o < pgREC) :
    (s.cond c fun s => s.irq b k).rd o = s.rd o := by
  rw [State.cond_rd, State.irq_rd _ _ _ _ hb (.inl ho), ite_self]
theorem noWatch_copEnded {c : Nat} (h : noWatch s c) : noWatch s.copEnded c := by
  intro n hn
  obtain ⟨hlt, hne⟩ := h n hn
  have hwatch : s.copEnded.get pgSYNCCTR (SYNC_CTR_WATCH_CTR.at 4 n) = s.get pgSYNCCTR (SYNC_CTR_WATCH_CTR.at 4 n) := by
    refine congrArg (Fld.of _) (copEnded_rd s ?_)
    simp only [pgSYNCCTR, SYNC_CTR_WATCH_CTR, pgCACHE, CACHE_COP_STAT]
    omega
  exact ⟨hlt, hwatch.symm ▸ hne⟩
/-- The counter that an operation names, of a core's 48, is raised as it ends. -/
theorem copEnded_counts {c : Nat} (hc : c < 384) (hwatch : noWatch s c) (hpark : parked s = false) :
    (s.copEnded.ctrOp c 0 1).cache = { s.cache with cop := none } ∧ (s.copEnded.ctrOp c 0 1).flag pgCACHE CACHE_COP_STAT_BUSY = false ∧
      counter (s.copEnded.ctrOp c 0 1) c = min (counter s c + 1) 0xFFFF := by
  have hrun : parked s.copEnded = false := (parked_of_rd (copEnded_rd s (by decide)) (copEnded_rd s (by decide))).trans hpark
  obtain ⟨hread, hcount, hbare⟩ := ctrOp_frame s.copEnded c 0 1 (noWatch_copEnded hwatch) hc hrun
  refine ⟨(congrArg State.cache hbare :), ?_, ?_⟩
  · refine (State.flag_congr (congrArg CACHE_COP_STAT_BUSY.of (hread _ (.inr ?_) (.inl ?_) ?_))).trans (copEnded_busy s)
    all_goals
      simp only [pgCACHE, CACHE_COP_STAT_BUSY, pgSYNCCTR, SYNC_CTR_CTR, pgREC]
      omega
  · have hsame : counter s.copEnded c = counter s c := by
      refine ctr_eq c (copEnded_rd s ?_)
      simp only [pgSYNCCTR, SYNC_CTR_CTR, pgCACHE, CACHE_COP_STAT]
      omega
    rw [hcount, if_pos rfl, hsame]
    exact Nat.mod_eq_of_lt (Nat.lt_of_le_of_lt (Nat.min_le_right ..) (by decide))
end

/-! ### SEC_CMD.GO (R378) -/

/-- The CACHE page, and the row of SEC_CMD. -/
def cachePage : PageAt := ⟨.cache, 0, pgCACHE⟩
def secCmdRow : RegRow := ⟨CACHE_SEC_CMD, 1, 0, 1, 0, [⟨31, 31, .w1s, 0⟩, ⟨7, 0, .rwo, 0⟩]⟩
theorem pageAt_secCmd : pageAt (pgCACHE + CACHE_SEC_CMD) = some cachePage := by decide
theorem rowAt_secCmd : rowAt .cache CACHE_SEC_CMD = some secCmdRow := by decide

section
variable {s : State} {m : Master} {k : Nat}

theorem mayWrite_ownsCache (h : mayWrite s m pgCACHE CACHE_SEC_CMD true = true) : ownsPage s m cachePage = true := by
  unfold mayWrite at h
  rw [pageAt_secCmd] at h
  simp only [Bool.and_eq_true] at h
  obtain ⟨-, hown⟩ := h
  exact hown
/-- TARGET of SEC_CMD set. -/
def State.secAimed (s : State) (k : Nat) : State := s.put pgCACHE CACHE_SEC_CMD_TARGET k
/-- The owner's write of SEC_CMD sets TARGET. -/
theorem setFields_secCmd (hown : ownsPage s m cachePage = true) (w : Word32) :
    s.setFields m pgCACHE CACHE_SEC_CMD w = s.secAimed (CACHE_SEC_CMD_TARGET.of w) := by
  unfold State.setFields
  rw [pageAt_secCmd]
  dsimp only
  rw [show cachePage.page = .cache from rfl, rowAt_secCmd]
  dsimp only
  rw [hown]
  rfl
theorem secWord_go (k : Nat) : CACHE_SEC_CMD_GO.of (BitVec.ofNat 32 (2 ^ 31 + k % 256)) = 1 := by
  unfold Fld.of bits CACHE_SEC_CMD_GO
  rw [BitVec.toNat_ofNat, Nat.shiftRight_eq_div_pow]
  dsimp only
  omega
theorem secWord_target (hk : k < 256) : CACHE_SEC_CMD_TARGET.of (BitVec.ofNat 32 (2 ^ 31 + k % 256)) = k := by
  unfold Fld.of bits CACHE_SEC_CMD_TARGET
  rw [BitVec.toNat_ofNat, Nat.shiftRight_eq_div_pow]
  dsimp only
  omega
theorem secAimed_rd (s : State) (k : Nat) {o : Nat} (h : o ≠ pgCACHE + CACHE_SEC_CMD) : (s.secAimed k).rd o = s.rd o := State.rd_put_of_ne _ _ h
theorem secAimed_rimUp (s : State) (k i : Nat) : rimUp (s.secAimed k) 0 i = rimUp s 0 i := by
  have hup : (s.secAimed k).get (layerBase 0) LAYER_LAYER_STAT_RIM_UP = s.get (layerBase 0) LAYER_LAYER_STAT_RIM_UP :=
    congrArg (Fld.of _) (secAimed_rd s k (by decide))
  unfold rimUp
  rw [hup]
/-- A switch that has passed its checks. -/
def State.secChecked (s : State) (k : Nat) : State :=
  (((s.secAimed k).put pgCACHE CACHE_SEC_STAT_BUSY 1).put pgCACHE CACHE_SEC_STAT_RESULT 0).cach fun c => { c with switch := some k }
theorem secChecked_cache (s : State) (k : Nat) : (s.secChecked k).cache = { s.cache with switch := some k } := by
  unfold State.secChecked State.secAimed
  rw [State.cach_cache, State.put_cache, State.put_cache, State.put_cache]
theorem secChecked_busy (s : State) (k : Nat) : (s.secChecked k).flag pgCACHE CACHE_SEC_STAT_BUSY = true := by
  refine State.flag_eq_true ?_
  unfold State.secChecked
  rw [State.cach_get, State.get_put_page _ _ _ _ _ (by decide) (by decide), State.get_put_self _ _ _ _ (by decide)]
  rfl
theorem State.withShareHeld_flag (s : State) (l : List (Nat × Nat)) (b : Nat) (f : Fld) :
    ({ s with shareHeld := l } : State).flag b f = s.flag b f := rfl
/-- It begins: every line is to be cleaned and dropped. -/
def State.secBegun (s : State) (k : Nat) : State :=
  ((s.secChecked k).each (s.cache.lines.map fun e => lineOfSlot e.1 e.2) fun s l => s.copAsk l 3).cacheRun
/-- A GO with no handle laid over a section is refused by its other checks in turn, or begins its switch. -/
theorem exec_sectionSwitch (hmay : mayWrite s m pgCACHE CACHE_SEC_CMD true = true) (hk : k < 256) (hhandles : s.handles = []) :
    exec (.sectionSwitch m k) s = .next
      (if s.flag pgCACHE CACHE_COP_STAT_BUSY then ((s.secAimed k).put pgCACHE CACHE_SEC_STAT_RESULT 2).refused m pgCACHE CACHE_SEC_CMD
      else if s.cache.switch.isSome then ((s.secAimed k).put pgCACHE CACHE_SEC_STAT_RESULT 3).refused m pgCACHE CACHE_SEC_CMD
      else if (List.range 16).any fun i => !rimUp s 0 i then
        ((s.secAimed k).put pgCACHE CACHE_SEC_STAT_RESULT 4).refused m pgCACHE CACHE_SEC_CMD
      else s.secBegun k) := by
  have htarget : (s.secAimed k).get pgCACHE CACHE_SEC_CMD_TARGET = k := State.get_put_of_lt _ _ (by decide) hk
  have hbusy : (s.secAimed k).flag pgCACHE CACHE_COP_STAT_BUSY = s.flag pgCACHE CACHE_COP_STAT_BUSY :=
    State.flag_congr (congrArg (Fld.of _) (secAimed_rd s k (by decide)))
  have hlaid : ∀ p, (s.secAimed k).handles.find? p = none := by
    intro p
    show s.handles.find? p = none
    rw [hhandles]
    rfl
  simp only [← hbusy, ← secAimed_rimUp s k]
  show Host.Outcome.next (secWrite m _ s) = _
  unfold secWrite
  rw [State.gate_open _ _ _ _ _ _ (mayWrite_any hmay), setFields_secCmd (mayWrite_ownsCache hmay), secWord_go, secWord_target hk]
  dsimp only
  rw [htarget, hlaid]
  rfl
theorem secBegun_begins (hlines : s.cache.lines = []) (hjobs : s.cache.jobs = []) :
    (s.secBegun k).cache = { s.cache with switch := some k } ∧ (s.secBegun k).flag pgCACHE CACHE_SEC_STAT_BUSY = true := by
  have hcache := secChecked_cache s k
  obtain ⟨held, hrun⟩ := cacheRun_idle (s := s.secChecked k) ((congrArg CacheSt.jobs hcache :).trans hjobs)
  have hbegun : s.secBegun k = { s.secChecked k with shareHeld := held } := by
    unfold State.secBegun
    rw [hlines, List.map_nil, each_nil, hrun]
  rw [hbegun]
  have hbusy := secChecked_busy s k
  generalize s.secChecked k = v at *
  exact ⟨hcache, (State.withShareHeld_flag ..).trans hbusy⟩

/-! ### The end of a switch (R379) -/

theorem wakeRim_stem (s : State) (n i : Nat) : (s.wakeRim n i).stem = s.stem := by
  unfold State.wakeRim
  dsimp only
  split
  · rfl
  · split
    · rfl
    · exact State.askWake_stem ..
theorem wakeNear_cache (s : State) : s.wakeNear.cache = s.cache := cache_of_stem (State.each_stem _ (fun s i => wakeRim_stem s 0 i) _ _)
theorem wakeNear_rd (s : State) {o : Nat} (h : o < pgINTEG) : s.wakeNear.rd o = s.rd o :=
  State.each_of (fun s => s.rd o) _ (fun s i => wakeRim_rd s 0 i o h) _ _
/-- The target of a switch put in force. -/
def State.secSwitched (s : State) (k : Nat) : State :=
  (((s.put pgCACHE CACHE_SEC_STAT_CUR k).put pgCACHE CACHE_SEC_STAT_BUSY 0).cach fun c => { c with switch := none, plru := [] }).cond (k != 0)
    State.wakeNear
theorem secSwitched_get (s : State) (k : Nat) (f : Fld) (hf : f.off < 0x1000) : (s.secSwitched k).get pgCACHE f =
    ((s.put pgCACHE CACHE_SEC_STAT_CUR k).put pgCACHE CACHE_SEC_STAT_BUSY 0).get pgCACHE f := by
  have hlow : pgCACHE + f.off < pgINTEG := by
    simp only [pgCACHE, pgINTEG]
    omega
  unfold State.secSwitched State.get
  rw [State.cond_rd, wakeNear_rd _ hlow, ite_self, State.cach_rd]
/-- A switch with no line left to clean ends, whatever the clear of the frames that change has come to. -/
theorem exec_sectionSwitchDone (hswitch : s.cache.switch = some k) (hjobs : s.cache.jobs = []) (hlines : s.cache.lines = []) :
    ∃ v, exec .sectionSwitchDone s = .next (State.secSwitched v k) := by
  obtain ⟨held, hrun⟩ := cacheRun_idle hjobs
  have hnojobs : (s.cache.jobs != []) = false := by rw [hjobs]; rfl
  have hnolines : (s.cache.lines != []) = false := by rw [hlines]; rfl
  show ∃ v, execSectionSwitchDone s = _
  unfold execSectionSwitchDone
  rw [hrun]
  dsimp only
  rw [hswitch]
  dsimp only
  rw [hnojobs, hnolines]
  exact ⟨_, rfl⟩

/-! ### XBASE (R365) -/

theorem exec_xbaseWrite {hi : Bool} (v : Word32) (hmay : mayWrite s m pgCACHE (if hi then CACHE_XBASE_HI else CACHE_XBASE_LO) true = true) :
    exec (.xbaseWrite m hi v) s = .next
      (if s.get pgCACHE CACHE_SEC_STAT_CUR ≠ 0 then
        (s.put pgCACHE CACHE_SEC_STAT_XB_REJ 1).refused m pgCACHE (if hi then CACHE_XBASE_HI else CACHE_XBASE_LO)
      else if hi then s.put pgCACHE CACHE_XBASE_HI_BASE_HI (CACHE_XBASE_HI_BASE_HI.of v)
      else s.put pgCACHE CACHE_XBASE_LO_BASE (CACHE_XBASE_LO_BASE.of v)) := by
  show execXbaseWrite m hi v s = _
  unfold execXbaseWrite
  dsimp only
  rw [State.gate_open _ _ _ _ _ _ hmay]
end

/-- Settles O20: COP_CMD by what its operation does to the only line (`CopAsked`), its end by `exec_copDone`, and SEC_CMD, the end of a switch
and XBASE by the state that each leaves. -/
theorem cacheCommands : Obligations.CacheCommands := by
  refine ⟨?inv, ?cleanInv, ?clean, ?dirty, ?landed, ?overrun, ?done, ?counted, ?switch, ?refused, ?switched, ?low, ?high, ?rejected⟩
  case inv =>
    intro s m w key l h
    obtain ⟨v, j, hwrite, hasked⟩ := copWrite_asks (op := 1) h (by decide)
    exact ⟨_, congrArg Host.Outcome.next hwrite, hasked.drops (.inl rfl)⟩
  case cleanInv =>
    intro s m w key l h hclean
    obtain ⟨v, j, hwrite, hasked⟩ := copWrite_asks (op := 3) h (by decide)
    exact ⟨_, congrArg Host.Outcome.next hwrite, hasked.drops (.inr ⟨rfl, by rw [hclean]; rfl⟩)⟩
  case clean =>
    intro s m w key l h hclean
    obtain ⟨v, j, hwrite, hasked⟩ := copWrite_asks (op := 2) h (by decide)
    exact ⟨_, congrArg Host.Outcome.next hwrite, hasked.keeps hclean⟩
  case dirty =>
    intro c op hc s m w key l h hdirty
    simp only [List.mem_cons, Prod.mk.injEq, List.not_mem_nil, or_false] at hc
    rcases hc with ⟨rfl, rfl⟩ | ⟨rfl, rfl⟩
    · obtain ⟨v, j, hwrite, hasked⟩ := copWrite_asks (op := 2) h (by decide)
      exact ⟨_, congrArg Host.Outcome.next hwrite, hasked.reads (by decide) hdirty⟩
    · obtain ⟨v, j, hwrite, hasked⟩ := copWrite_asks (op := 3) h (by decide)
      exact ⟨_, congrArg Host.Outcome.next hwrite, hasked.reads (by decide) hdirty⟩
  case landed =>
    intro op after hafter s id data key r j l hfind hsrc hjobs hstage hop hkey hlines
    subst hkey
    obtain ⟨t, hexec, hdone, hleft⟩ := masterPortResponse_lands (data := data) hfind hsrc hjobs hstage hop hlines
    simp only [List.mem_cons, Prod.mk.injEq, List.not_mem_nil, or_false] at hafter
    rcases hafter with ⟨rfl, rfl⟩ | ⟨rfl, rfl⟩ <;> exact ⟨t, hexec, hdone, hleft⟩
  case overrun =>
    intro c hc s m w hmay hbusy
    simp only [List.mem_cons, List.not_mem_nil, or_false] at hc
    rcases hc with rfl | rfl | rfl <;>
      exact ⟨_, congrArg Host.Outcome.next (copWrite_overruns _ hmay hbusy), copOverrun_flag s m, rfl, rfl⟩
  case done =>
    intro s u lo n hrun hcop hwaits hcnt
    obtain ⟨irq, hexec⟩ := exec_copDone hrun hcop hwaits
    rw [hcnt] at hexec
    exact ⟨_, hexec, condIrq_cache ..,
      (State.flag_congr (congrArg (Fld.of _) (condIrq_rd _ _ _ _ (by decide) (by decide)))).trans (copEnded_busy u)⟩
  case counted =>
    intro s u lo n c hrun hcop hwaits hcnt hlt hc hwatch hpark
    obtain ⟨irq, hexec⟩ := exec_copDone hrun hcop hwaits
    have hcore : u.get pgCACHE CACHE_COP_CMD_CORE < 8 := State.get_lt ..
    have hc' : c < 384 := by omega
    rw [hcnt, decide_eq_true hlt, ← hc] at hexec
    obtain ⟨hcache, hbusy, hcount⟩ := copEnded_counts hc' hwatch hpark
    refine ⟨_, hexec, (condIrq_cache ..).trans hcache,
      (State.flag_congr (congrArg (Fld.of _) (condIrq_rd _ _ _ _ (by decide) (by decide)))).trans hbusy,
      (ctr_eq c (condIrq_rd _ _ _ _ ?_ ?_)).trans hcount⟩
    all_goals
      simp only [pgSYNCCTR, SYNC_CTR_CTR, pgCACHE, HDR_IRQ_STAT, pgREC]
      omega
  case switch =>
    intro s m k hmay hk hhandles hlines hjobs hbusy hswitch hup
    obtain ⟨hcache, hflag⟩ := secBegun_begins (k := k) hlines hjobs
    refine ⟨_, (exec_sectionSwitch hmay hk hhandles).trans (congrArg _ ?_), hcache, hflag⟩
    rw [hbusy, hswitch, hup]
    rfl
  case refused =>
    intro s m k hmay hk hhandles hbusy
    refine ⟨_, (exec_sectionSwitch hmay hk hhandles).trans (congrArg _ (if_pos hbusy)), rfl, ?_⟩
    exact (State.refused_get _ _ _ _ _ (by decide)).trans (State.get_put_of_lt _ _ (by decide) (by decide))
  case switched =>
    intro s k hk hswitch hjobs hlines
    obtain ⟨v, hexec⟩ := exec_sectionSwitchDone hswitch hjobs hlines
    refine ⟨_, hexec, ?_, ?_, ?_⟩
    · rw [secSwitched_get _ _ _ (by decide), State.get_put_page _ _ _ _ _ (by decide) (by decide)]
      exact State.get_put_of_lt _ _ (by decide) hk
    · exact (State.flag_congr (secSwitched_get _ _ _ (by decide))).trans (State.flag_put_self _ _ _ false (by decide) rfl)
    · unfold State.secSwitched
      rw [State.cond_cache, wakeNear_cache, ite_self]
      rfl
  case low =>
    intro s m v hmay hcur
    refine ⟨_, (exec_xbaseWrite (hi := false) v hmay).trans (congrArg _ (if_neg (not_not.mpr hcur))), ?_⟩
    exact State.get_put_of_lt _ _ (by decide) (Fld.of_lt ..)
  case high =>
    intro s m v hmay hcur
    refine ⟨_, (exec_xbaseWrite (hi := true) v hmay).trans (congrArg _ (if_neg (not_not.mpr hcur))), ?_⟩
    exact State.get_put_of_lt _ _ (by decide) (Fld.of_lt ..)
  case rejected =>
    intro s m hi v hmay hcur
    refine ⟨_, (exec_xbaseWrite v hmay).trans (congrArg _ (if_pos hcur)), ?_, ?_, ?_⟩
    · exact (State.flag_congr (State.refused_get _ _ _ _ _ (by decide))).trans (State.flag_put_self s _ _ true (by decide) rfl)
    · exact (State.refused_get _ _ _ _ _ (by decide)).trans (State.get_put_page _ _ _ _ _ (by decide) (by decide))
    · exact (State.refused_get _ _ _ _ _ (by decide)).trans (State.get_put_page _ _ _ _ _ (by decide) (by decide))

end Sys2Proof.Machine

/-! PROOFS. Every step and every command (spec/95_what_each_step_holds.md): from what every command keeps (`exec_keeps`) and what a period
of TIMEREF keeps (`State.tick_keeps`). -/
namespace Sys2Proof.Machine

/-- Settles O28: the two branches of a step, and what the passing of a period keeps. -/
theorem stepRunsTheFrontCommand : Obligations.StepRunsTheFrontCommand := by
  refine ⟨step_cons, fun s hs => ?_⟩
  obtain ⟨hcfg, hpending, -⟩ := State.tick_keeps s
  exact ⟨step_nil s hs, hpending.trans hs, hcfg⟩

/-- Settles O29: what every command keeps, without the part on the memory. -/
theorem noCommandStops : Obligations.NoCommandStops := by
  intro c s
  obtain ⟨t, ht, hcfg, hpending, -⟩ := exec_keeps c s
  exact ⟨t, ht, hcfg, hpending⟩

end Sys2Proof.Machine

/-! PROOFS. Rules of the control fabric that the proofs below share (spec/17_control_and_firmware.md R503, R509; spec/20_register_pages.md
R577, R581; spec/18_observability.md R532): what an interrupt leaves of the recorder's own page, what the record of a flagged write leaves,
and what the fields of a register read after a write by their access codes. -/
namespace Sys2Proof.Machine

/-! ### Interrupts and the recorder's page (R532, R581) -/

/-- No trigger of the recorder counts in a register: it is neither MISSED nor one of the HITS. -/
def Uncounted (o : Nat) : Prop := o ≠ pgREC + RECORDER_RC_MISSED ∧ ∀ n < 32, o ≠ pgREC + RECORDER_TRG_HITS + 16 * n
theorem uncounted_of_page {o : Nat} (h : o < pgREC + RECORDER_RC_MISSED ∨ pgREC + RECORDER_RC_MISSED < o ∧ o < pgREC + RECORDER_TRG_HITS ∨
    pgREC + 4096 ≤ o) : Uncounted o := by
  simp only [pgREC, RECORDER_RC_MISSED, RECORDER_TRG_HITS] at h
  refine ⟨?_, fun n hn => ?_⟩ <;> simp only [pgREC, RECORDER_RC_MISSED, RECORDER_TRG_HITS] <;> omega

section
variable {o : Nat}

theorem fire_rd_of_uncounted (s : State) (n info aux : Nat) (hn : n < 32) (h : Uncounted o) : (s.fire n info aux).2.rd o = s.rd o := by
  obtain ⟨hmissed, hhits⟩ := h
  have hne : o ≠ pgREC + (RECORDER_TRG_HITS_COUNT.at 16 n).off := by
    rw [show (RECORDER_TRG_HITS_COUNT.at 16 n).off = RECORDER_TRG_HITS + 16 * n from rfl, ← Nat.add_assoc]
    exact hhits n hn
  unfold State.fire
  dsimp only
  split
  · rfl
  · split
    · exact (State.rd_put_of_ne _ _ hmissed).trans (State.rd_put_of_ne _ _ hne)
    · exact (State.rd_put_of_ne s _ hne : (s.bump pgREC (RECORDER_TRG_HITS_COUNT.at 16 n)).rd o = s.rd o)
theorem fireErrors_rd_of_uncounted (s : State) (base k : Nat) (h : Uncounted o) : (s.fireErrors base k).2.rd o = s.rd o := by
  unfold State.fireErrors
  dsimp only
  have hmem : ∀ n ∈ (triggers s 1).filter fun n =>
      bits (trgCfg s n) 8 0 == (base + HDR_IRQ_STAT) / 4096 && bit (trgArg0 s n) k, n < 32 := fun n hn =>
    List.mem_range.mp (List.mem_of_mem_filter (List.mem_of_mem_filter hn))
  generalize List.filter _ _ = l at hmem
  have hfold : ∀ acc : Bool × State, (l.foldl (fun (acc : Bool × State) n =>
      (acc.1 || (acc.2.fire n (acc.2.rd (base + HDR_IRQ_STAT)).toNat ((base + HDR_IRQ_STAT) / 4096)).1,
        (acc.2.fire n (acc.2.rd (base + HDR_IRQ_STAT)).toNat ((base + HDR_IRQ_STAT) / 4096)).2)) acc).2.rd o = acc.2.rd o := by
    induction l with
    | nil => exact fun _ => rfl
    | cons a l ih =>
      intro acc
      exact (ih (fun n hn => hmem n (List.mem_cons_of_mem _ hn)) _).trans
        (fire_rd_of_uncounted _ _ _ _ (hmem a List.mem_cons_self) h)
  exact hfold (false, s)
theorem missed_rd_of_uncounted (s : State) (h : Uncounted o) (hr : o ≠ pgREC + HDR_IRQ_STAT) : s.missed.rd o = s.rd o := by
  unfold State.missed
  split
  · rfl
  · exact (fireErrors_rd_of_uncounted _ _ _ h).trans (State.rd_wr_of_ne _ _ hr)
/-- An interrupt leaves every register but the page's IRQ_STAT, and the recorder's IRQ_STAT, MISSED and HITS. -/
theorem irq_rd_of_uncounted (s : State) (base k : Nat) (h : Uncounted o) (hb : o ≠ base + HDR_IRQ_STAT) (hr : o ≠ pgREC + HDR_IRQ_STAT) :
    (s.irq base k).rd o = s.rd o := by
  unfold State.irq
  split
  · rfl
  · dsimp only
    rw [State.cond_rd, missed_rd_of_uncounted _ h hr, ite_self]
    exact (fireErrors_rd_of_uncounted _ _ _ h).trans (State.rd_wr_of_ne _ _ hb)

theorem irqBit_keeps_bits (s : State) (base k j : Nat) (hj : (s.rd o).toNat.testBit j = true) :
    ((s.irqBit base k).rd o).toNat.testBit j = true := by
  unfold State.irqBit
  by_cases he : o = base + HDR_IRQ_STAT
  · subst he
    rw [State.rd_wr_self, BitVec.toNat_or, Nat.testBit_or, hj, Bool.true_or]
  · rw [State.rd_wr_of_ne _ _ he]
    exact hj
theorem missed_keeps_bits (s : State) (j : Nat) (h : Uncounted o) (hj : (s.rd o).toNat.testBit j = true) :
    (s.missed.rd o).toNat.testBit j = true := by
  unfold State.missed
  split
  · exact hj
  · rw [fireErrors_rd_of_uncounted _ _ _ h]
    exact irqBit_keeps_bits _ _ _ _ hj
/-- An interrupt clears no bit of a register that no trigger counts in. -/
theorem irq_keeps_bits (s : State) (base k j : Nat) (h : Uncounted o) (hj : (s.rd o).toNat.testBit j = true) :
    ((s.irq base k).rd o).toNat.testBit j = true := by
  have herrors : (((s.irqBit base k).fireErrors base k).2.rd o).toNat.testBit j = true := by
    rw [fireErrors_rd_of_uncounted _ _ _ h]
    exact irqBit_keeps_bits _ _ _ _ hj
  unfold State.irq
  split
  · exact hj
  · dsimp only
    rw [State.cond_rd]
    split
    · exact missed_keeps_bits _ _ h herrors
    · exact herrors
/-- The event of an interrupt bit sets it, in whichever page. -/
theorem irq_sets_of_uncounted (s : State) (base k : Nat) (hk : k < 32) (h : Uncounted (base + HDR_IRQ_STAT)) :
    ((s.irq base k).rd (base + HDR_IRQ_STAT)).toNat.testBit k = true := by
  have herrors : (((s.irqBit base k).fireErrors base k).2.rd (base + HDR_IRQ_STAT)).toNat.testBit k = true := by
    rw [fireErrors_rd_of_uncounted _ _ _ h]
    exact State.irqBit_sets s base k hk
  unfold State.irq
  split
  · assumption
  · dsimp only
    rw [State.cond_rd]
    split
    · exact missed_keeps_bits _ _ h herrors
    · exact herrors
end

/-! ### The record of a flagged write (R503, R577) -/

theorem flagPage_sansRec (s : State) (m : Master) (base off cause : Nat) : (s.flagPage m base off cause).sansRec = s.sansRec := rfl
theorem fabStat_sansRec (s : State) (m : Master) (off : Nat) : (s.fabStat m off).sansRec = s.sansRec := by
  unfold State.fabStat State.cond
  split
  · exact State.irq_sansRec ..
  · rfl
/-- A flagged write is recorded in the page's ERR_INFO, ERR_ADDR and VIOL_CNT alone. -/
theorem flagPage_rd (s : State) (m : Master) (base off cause : Nat) {o : Nat} (h0 : o ≠ base + HDR_ERR_INFO) (h1 : o ≠ base + HDR_ERR_ADDR)
    (h2 : o ≠ base + HDR_VIOL_CNT) : (s.flagPage m base off cause).rd o = s.rd o := by
  unfold State.flagPage
  rw [State.bumpSat_rd _ _ h2, State.rd_wr_of_ne _ _ h1, State.rd_wr_of_ne _ _ h0]
theorem flagPage_errInfo (s : State) (m : Master) (base off cause : Nat) :
    (s.flagPage m base off cause).rd (base + HDR_ERR_INFO) = BitVec.ofNat 32 (2 ^ 31 + m.code * 2 ^ 28 + cause * 2 ^ 24) := by
  unfold State.flagPage
  rw [State.bumpSat_rd _ _ (by simp [HDR_ERR_INFO, HDR_VIOL_CNT_COUNT]), State.rd_wr_of_ne _ _ (by simp [HDR_ERR_INFO, HDR_ERR_ADDR]),
    State.rd_wr_self]
/-- FAB_STAT's record changes FAB_STAT, FAB_VIOL_CNT, and what its interrupt does. -/
theorem fabStat_rd (s : State) (m : Master) (off : Nat) {o : Nat} (h : Uncounted o) (hr : o ≠ pgREC + HDR_IRQ_STAT)
    (hb : o ≠ pgMBCTL + HDR_IRQ_STAT) (h0 : o ≠ pgMBCTL + MAILBOX_CTL_FAB_STAT) (h1 : o ≠ pgMBCTL + MAILBOX_CTL_FAB_VIOL_CNT) :
    (s.fabStat m off).rd o = s.rd o := by
  unfold State.fabStat
  rw [State.cond_rd, irq_rd_of_uncounted _ _ _ h hb hr, State.bumpSat_rd _ _ h1, State.rd_wr_of_ne _ _ h0, ite_self]
theorem fabStat_names (s : State) (m : Master) (off : Nat) (hm : m.isEm = false) :
    (s.fabStat m off).rd (pgMBCTL + MAILBOX_CTL_FAB_STAT) = BitVec.ofNat 32 (2 ^ 31 + m.code * 2 ^ 24 + off) := by
  unfold State.fabStat
  rw [hm, State.cond_rd, if_pos (by rfl), irq_rd_of_uncounted _ _ _ (uncounted_of_page (by decide)) (by decide) (by decide),
    State.bumpSat_rd _ _ (by decide), State.rd_wr_self]

/-! ### Fields written by their access codes (R11, R509) -/

/-- What a write sets of one field, by a master that owns the page's group or not. -/
def State.setField (s : State) (base reg : Nat) (own : Bool) (w : Word32) (f : FieldRow) : State :=
  let fl : Fld := ⟨reg, f.hi, f.lo⟩
  match f.acc with
  | .rw | .wo => s.put base fl (fl.of w)
  | .rwo => s.cond own fun s => s.put base fl (fl.of w)
  | .rw1c => let old := s.get base fl
    s.put base fl (old - (old &&& fl.of w))
  | _ => s
/-- The value that the write leaves in it. -/
def FieldRow.left (f : FieldRow) (own : Bool) (old new : Nat) : Nat := if f.acc = .rwo ∧ own = false then old else fieldAfter f old new
/-- The field of a row as a register field. -/
abbrev FieldRow.fld (f : FieldRow) (reg : Nat) : Fld := ⟨reg, f.hi, f.lo⟩
/-- Two fields of a row have no bit in common. -/
abbrev FieldRow.apart (f g : FieldRow) : Prop := g.hi < f.lo ∨ f.hi < g.lo
/-- The fields of a row lie within a word, on bits of their own. -/
abbrev tidy (l : List FieldRow) : Prop := (∀ f ∈ l, f.lo ≤ f.hi ∧ f.hi < 32) ∧ l.Pairwise FieldRow.apart

/-- The fields of a register set in the order of its row; a write that names RWO fields of another owner is flagged. -/
theorem setFields_eq {s : State} {m : Master} {base reg : Nat} {p : PageAt} {r : RegRow} (hp : pageAt (base + reg) = some p)
    (hr : rowAt p.page reg = some r) (w : Word32) : s.setFields m base reg w =
      (s.each r.fields fun u f => u.setField base reg (ownsPage s m p) w f).cond
        (!ownsPage s m p && r.fields.any fun f => f.acc == .rwo) fun s => (s.flagPage m base (base + reg) 1).fabStat m (base + reg) := by
  unfold State.setFields
  rw [hp]
  dsimp only
  rw [hr]
  rfl

section
variable {base reg : Nat} {own : Bool} {w : Word32} {f g : FieldRow}

/-- A field is left as it is, or put at the value that its access code gives. -/
theorem setField_cases (s : State) :
    s.setField base reg own w f = s ∧ f.left own (s.get base (f.fld reg)) (bits w.toNat f.hi f.lo) = s.get base (f.fld reg) ∨
    s.setField base reg own w f = s.put base (f.fld reg) (f.left own (s.get base (f.fld reg)) (bits w.toNat f.hi f.lo)) ∧
      f.left own (s.get base (f.fld reg)) (bits w.toNat f.hi f.lo) < 2 ^ (f.hi + 1 - f.lo) := by
  have hold := State.get_lt s base (f.fld reg)
  have hnew := Fld.of_lt (f.fld reg) w
  unfold State.setField FieldRow.left fieldAfter
  cases hacc : f.acc
  case rwo =>
    cases own
    · exact .inl ⟨rfl, rfl⟩
    · exact .inr ⟨rfl, hnew⟩
  case rw => exact .inr ⟨rfl, hnew⟩
  case wo => exact .inr ⟨rfl, hnew⟩
  case rw1c => exact .inr ⟨rfl, Nat.lt_of_le_of_lt (Nat.sub_le ..) hold⟩
  all_goals exact .inl ⟨rfl, rfl⟩
theorem setField_sansRegs (s : State) : { s.setField base reg own w f with regs := s.regs } = s := by
  obtain ⟨h, -⟩ | ⟨h, -⟩ := setField_cases (base := base) (own := own) (w := w) (f := f) (reg := reg) s
  · rw [h]
  · rw [h]
    rfl
theorem setField_rd (s : State) {o : Nat} (h : o ≠ base + reg) :
    (s.setField base reg own w f).rd o = s.rd o := by
  obtain ⟨h', -⟩ | ⟨h', -⟩ := setField_cases (base := base) (own := own) (w := w) (f := f) (reg := reg) s
  · rw [h']
  · rw [h', State.rd_put_of_ne _ _ h]
theorem setField_get_self (s : State) (hf : (f.fld reg).fits) : (s.setField base reg own w f).get base (f.fld reg) =
    f.left own (s.get base (f.fld reg)) (bits w.toNat f.hi f.lo) := by
  obtain ⟨h, hleft⟩ | ⟨h, hlt⟩ := setField_cases (base := base) (own := own) (w := w) (f := f) (reg := reg) s
  · rw [h, hleft]
  · rw [h, State.get_put_self _ _ _ _ hf]
    exact Nat.mod_eq_of_lt hlt
theorem setField_get_apart (s : State) (hf : (f.fld reg).fits) (hap : f.apart g) :
    (s.setField base reg own w f).get base (g.fld reg) = s.get base (g.fld reg) := by
  obtain ⟨h, -⟩ | ⟨h, -⟩ := setField_cases (base := base) (own := own) (w := w) (f := f) (reg := reg) s
  · rw [h]
  · rw [h, State.get_put_page _ _ _ _ _ hf (.inr hap)]

/-! The fields of a whole row: each reads what its own write leaves, since the others lie apart from it. -/

theorem each_setField_sansRegs : ∀ (l : List FieldRow) (s : State),
    { s.each l (fun u f => u.setField base reg own w f) with regs := s.regs } = s
  | [], _ => rfl
  | f :: l, s => by
    have htail := each_setField_sansRegs l (s.setField base reg own w f)
    have hhead := setField_sansRegs (base := base) (reg := reg) (own := own) (w := w) (f := f) s
    exact (congrArg (fun u : State => { u with regs := s.regs }) htail :).trans hhead
theorem each_setField_rd (l : List FieldRow) (s : State) {o : Nat} (h : o ≠ base + reg) :
    (s.each l fun u f => u.setField base reg own w f).rd o = s.rd o :=
  State.each_of (fun u => u.rd o) _ (fun u _ => setField_rd u h) l s
theorem each_setField_get_apart (l : List FieldRow) (s : State) (hfits : ∀ f ∈ l, f.lo ≤ f.hi ∧ f.hi < 32) (hap : ∀ f ∈ l, f.apart g) :
    (s.each l fun u f => u.setField base reg own w f).get base (g.fld reg) = s.get base (g.fld reg) := by
  induction l generalizing s with
  | nil => rfl
  | cons f l ih =>
    rw [List.forall_mem_cons] at hfits hap
    exact (ih _ hfits.2 hap.2).trans (setField_get_apart s hfits.1 hap.1)
theorem each_setField_get (l : List FieldRow) (s : State) (htidy : tidy l) (hf : f ∈ l) :
    (s.each l fun u f => u.setField base reg own w f).get base (f.fld reg) =
      f.left own (s.get base (f.fld reg)) (bits w.toNat f.hi f.lo) := by
  obtain ⟨hfits, hpair⟩ := htidy
  induction l generalizing s with
  | nil => cases hf
  | cons a l ih =>
    rw [List.forall_mem_cons] at hfits
    rw [List.pairwise_cons] at hpair
    obtain ⟨hafits, hfits⟩ := hfits
    obtain ⟨hapart, hpair⟩ := hpair
    obtain rfl | hmem := List.mem_cons.mp hf
    · exact (each_setField_get_apart l _ hfits fun b hb => (hapart b hb).symm).trans (setField_get_self s hafits)
    · refine (ih (s.setField base reg own w a) hmem hfits hpair).trans ?_
      rw [setField_get_apart s hafits (hapart f hmem)]
end

theorem rowAt_mem {p : Page} {o : Nat} {r : RegRow} (h : rowAt p o = some r) : r ∈ rowsAny ∨ r ∈ pageRows p := by
  unfold rowAt at h
  have hmem := List.mem_of_find?_eq_some h
  split at hmem
  · exact .inl hmem
  · exact .inr hmem
theorem pageRows_tidy (p : Page) : ∀ r ∈ pageRows p, tidy r.fields := by cases p <;> decide
/-- The rows of the register tables are tidy. -/
theorem rowAt_tidy {p : Page} {o : Nat} {r : RegRow} (h : rowAt p o = some r) : tidy r.fields := by
  obtain hmem | hmem := rowAt_mem h
  · exact pageRows_tidy .any r hmem
  · exact pageRows_tidy p r hmem

section
variable {s : State} {m : Master} {base reg : Nat} {p : PageAt} {r : RegRow} {f : FieldRow}

/-- A write by a master that owns the page's group, or of a register without RWO fields. -/
theorem setFields_unflagged (hp : pageAt (base + reg) = some p) (hr : rowAt p.page reg = some r)
    (h : ownsPage s m p = true ∨ (r.fields.any fun f => f.acc == .rwo) = false) (w : Word32) :
    s.setFields m base reg w = s.each r.fields fun u f => u.setField base reg (ownsPage s m p) w f := by
  rw [setFields_eq hp hr]
  unfold State.cond
  refine if_neg ?_
  obtain h | h := h <;> simp [h]
/-- Such a write changes the register alone. -/
theorem setFields_sansRegs (hp : pageAt (base + reg) = some p) (hr : rowAt p.page reg = some r)
    (h : ownsPage s m p = true ∨ (r.fields.any fun f => f.acc == .rwo) = false) (w : Word32) :
    { s.setFields m base reg w with regs := s.regs } = s := by
  rw [setFields_unflagged hp hr h]
  exact each_setField_sansRegs ..
theorem setFields_rd (hp : pageAt (base + reg) = some p) (hr : rowAt p.page reg = some r)
    (h : ownsPage s m p = true ∨ (r.fields.any fun f => f.acc == .rwo) = false) (w : Word32) {o : Nat} (ho : o ≠ base + reg) :
    (s.setFields m base reg w).rd o = s.rd o := by
  rw [setFields_unflagged hp hr h]
  exact each_setField_rd _ _ ho
/-- Each of its fields is left as its access code says. -/
theorem setFields_get (hp : pageAt (base + reg) = some p) (hr : rowAt p.page reg = some r)
    (h : ownsPage s m p = true ∨ (r.fields.any fun f => f.acc == .rwo) = false) (w : Word32) (hf : f ∈ r.fields) :
    (s.setFields m base reg w).get base ⟨reg, f.hi, f.lo⟩ = fieldAfter f (s.get base ⟨reg, f.hi, f.lo⟩) (bits w.toNat f.hi f.lo) := by
  rw [setFields_unflagged hp hr h, each_setField_get _ _ (rowAt_tidy hr) hf]
  unfold FieldRow.left
  refine if_neg ?_
  rintro ⟨hacc, hown⟩
  obtain h | h := h
  · rw [h] at hown
    cases hown
  · rw [List.any_eq_false] at h
    exact h f hf (by simp [hacc])
end

/-- A master whose write of an RWO field may take effect owns the page's group; one whose write of the register alone may does not. -/
theorem mayWrite_eq_owns {s : State} {m : Master} {base reg : Nat} {p : PageAt} (hp : pageAt (base + reg) = some p)
    (h : mayWrite s m base reg false = true) : mayWrite s m base reg true = ownsPage s m p := by
  unfold mayWrite at h ⊢
  rw [hp] at h ⊢
  simp only [Bool.and_eq_true] at h
  obtain ⟨⟨⟨hopen, hpres⟩, hpath⟩, -⟩ := h
  dsimp only
  rw [hopen, hpres, hpath]
  unfold ownsPage
  cases pageGroup p <;> simp
theorem owns_of_mayWrite {s : State} {m : Master} {base reg : Nat} {p : PageAt} (hp : pageAt (base + reg) = some p)
    (h : mayWrite s m base reg true = true) : ownsPage s m p = true := (mayWrite_eq_owns hp (mayWrite_any h)).symm.trans h

end Sys2Proof.Machine

/-! PROOFS. The grants of a page group (spec/17_control_and_firmware.md R499 to R505). The pieces that wait are those that are open and next;
a piece that waits alone is chosen, and of two the choice is `fabChoose_passed` or `fabChoose_higher`. -/
namespace Sys2Proof.Machine

section
variable {s : State} {f h : FabPiece}

/-! ### The piece that is chosen (R505) -/

/-- One piece that waits is granted and performed. -/
theorem exec_fabricPiece_one (hopen : pieceOpen s f = true) (hnext : pieceNext s f = true) :
    exec (.fabricPiece [f]) s = .next ((s.fabGrant (pieceGroup f) [f] f).fabPerform f) := by
  have hchoose : fabChoose s (pieceGroup f) [f] = some f := by
    unfold fabChoose
    cases hp : decide (8 ≤ passedOf s (pieceGroup f) f.m) <;> simp [hp]
  show execFabricPiece [f] s = _
  unfold execFabricPiece
  simp only [List.filter_cons, hopen, hnext, Bool.and_self, if_true, List.filter_nil, List.foldl_nil, hchoose]
/-- Two pieces of different masters that wait at one group: the one that is chosen is granted and performed. -/
theorem exec_fabricPiece_two {c : FabPiece} (hf : pieceOpen s f = true) (hfn : pieceNext s f = true) (hh : pieceOpen s h = true)
    (hhn : pieceNext s h = true) (hm : f.m ≠ h.m) (hg : pieceGroup f = pieceGroup h)
    (hc : fabChoose s (pieceGroup f) [f, h] = some c) :
    exec (.fabricPiece [f, h]) s = .next ((s.fabGrant (pieceGroup f) [f, h] c).fabPerform c) := by
  show execFabricPiece [f, h] s = _
  unfold execFabricPiece
  simp [hf, hfn, hh, hhn, hg.symm, hm, hc]
/-- A master that has been passed eight times goes first. -/
theorem fabChoose_passed {g : Nat} (hf : passedOf s g f.m < 8) (hh : 8 ≤ passedOf s g h.m) : fabChoose s g [f, h] = some h := by
  unfold fabChoose
  rw [List.find?_cons_of_neg (by simpa using hf), List.find?_cons_of_pos (by simpa using hh)]
/-- Where neither has been passed so often, the higher priority is chosen: the turn of the masters counts below it. -/
theorem fabChoose_higher {g : Nat} (hf : passedOf s g f.m < 8) (hh : passedOf s g h.m < 8) (hp : fabPrio s f.m g < fabPrio s h.m g) :
    fabChoose s g [f, h] = some h := by
  unfold fabChoose
  rw [List.find?_cons_of_neg (by simpa using hf), List.find?_cons_of_neg (by simpa using hh)]
  simp only [List.find?_nil, List.foldl_cons, List.foldl_nil]
  exact if_pos (by omega)

/-! ### A beat of the piece granted (R499, R503) -/

/-- The only beat of a read answers the word at its offset, with RESP 0. -/
theorem fabPerform_reads {p : PageAt} (hwr : f.wr = false) (hn : f.n = 1) (hpage : beatPage f (f.off / 4 * 4) = some p)
    (hpres : pagePresent s.cfg p = true) (hpath : readPath s f.m p = true) :
    Sp.get [] ((s.fabGrant (pieceGroup f) [f] f).fabPerform f).reply f.m.code = [(peek (granted s f) (some f.m) (f.off / 4 * 4), 0)] := by
  have hbeat : (readBeat f (f.off / 4 * 4) (granted s f)).1 = (peek (granted s f) (some f.m) (f.off / 4 * 4), 0) := by
    have hpres' : pagePresent (granted s f).cfg p = true := hpres
    have hpath' : readPath (granted s f) f.m p = true := hpath
    unfold readBeat
    rw [hpage]
    simp only [hpres', hpath', Bool.not_true, Bool.false_eq_true, if_false]
  rw [← hbeat]
  unfold State.fabPerform
  rw [if_neg (by simp [hwr]), hn]
  unfold State.fabAnswer State.answerMaster
  dsimp only
  rw [Sp.get_set_self, hwr]
  rfl
/-- The only beat of a write is the write of its register; the fabric's record and the beat's answer are apart from it. -/
theorem fabPerform_writes {p : PageAt} {w : Nat} (hwr : f.wr = true) (hdata : f.data = [w]) (hpage : beatPage f (f.off / 4 * 4) = some p) :
    ∃ fab reply, (s.fabGrant (pieceGroup f) [f] f).fabPerform f =
      { writeReg f.m (f.off / 4 * 4) (BitVec.ofNat 32 w) (granted s f) with fab := fab, reply := reply } := by
  have hbeat : (writeBeat f (f.off / 4 * 4) w (granted s f)).2 = writeReg f.m (f.off / 4 * 4) (BitVec.ofNat 32 w) (granted s f) := by
    unfold writeBeat
    rw [hpage]
  rw [← hbeat]
  unfold State.fabPerform
  rw [if_pos hwr, hdata]
  exact ⟨_, _, rfl⟩
end

/-- Settles O45: the piece by `exec_fabricPiece_one` or `exec_fabricPiece_two`, its beat by `fabPerform_reads` or `fabPerform_writes`. -/
theorem fabricGrants : Obligations.FabricGrants := by
  refine ⟨fun s f p ho hn hwr hone hpage hpres hpath => ?_, fun s f p w ho hn hwr hdata hpage => ?_, fun s f h hf hfn hh hhn hm hg hpf hph hp => ?_,
    fun s f h hf hfn hh hhn hm hg hpf hph => ?_⟩
  · exact ⟨_, exec_fabricPiece_one ho hn, fabPerform_reads hwr hone hpage hpres hpath⟩
  · obtain ⟨fab, reply, hperform⟩ := fabPerform_writes (s := s) hwr hdata hpage
    refine ⟨_, _, rfl, (exec_fabricPiece_one ho hn).trans (congrArg _ hperform), rfl⟩
  · exact exec_fabricPiece_two hf hfn hh hhn hm hg (fabChoose_higher hpf hph hp)
  · exact exec_fabricPiece_two hf hfn hh hhn hm hg (fabChoose_passed hpf hph)

end Sys2Proof.Machine

/-! PROOFS. Register writes (spec/17_control_and_firmware.md R500, R503, R508, R509; spec/20_register_pages.md R577, R581, R586 to R588). A
semaphore is a field of the SEMA page; a write of a register without an effect of its own is `setFields` at the open gate, or its record at
the closed one. -/
namespace Sys2Proof.Machine

/-! ### Semaphores (R508, R586 to R588) -/

/-- The owner of a semaphore, as a field of the SEMA page. -/
def semFld (g : Nat) : Fld := ⟨if g < 16 then SEMA_SEM_OWN0 else SEMA_SEM_OWN1, 2 * (g % 16) + 1, 2 * (g % 16)⟩
theorem semOwner_eq (s : State) (g : Nat) : semOwner s g = s.get pgSEMA (semFld g) := rfl
theorem setOwner_eq (s : State) (g v : Nat) : s.setOwner g v = s.put pgSEMA (semFld g) v := rfl
theorem semFld_fits (g : Nat) : (semFld g).fits := by
  constructor <;> (unfold semFld; dsimp only; omega)
theorem semFld_off (g : Nat) : (semFld g).off = SEMA_SEM_OWN0 ∨ (semFld g).off = SEMA_SEM_OWN1 := by
  unfold semFld
  dsimp only
  split
  · exact .inl rfl
  · exact .inr rfl
theorem semFld_apart {g h : Nat} (hg : g < 32) (hh : h < 32) (hne : h ≠ g) : Fld.apart pgSEMA (semFld g) pgSEMA (semFld h) := by
  unfold semFld Fld.apart SEMA_SEM_OWN0 SEMA_SEM_OWN1
  dsimp only
  split <;> split <;> omega
theorem holder_lt (m : Master) : m.holder < 4 := by cases m <;> decide
theorem semOwner_setOwner_self (s : State) (g v : Nat) (hv : v < 4) : semOwner (s.setOwner g v) g = v := by
  rw [semOwner_eq, setOwner_eq, State.get_put_self _ _ _ _ (semFld_fits g)]
  rw [show (semFld g).hi + 1 - (semFld g).lo = 2 by unfold semFld; dsimp only; omega]
  exact Nat.mod_eq_of_lt hv
theorem semOwner_setOwner_of_ne (s : State) {g h : Nat} (v : Nat) (hg : g < 32) (hh : h < 32) (hne : h ≠ g) :
    semOwner (s.setOwner g v) h = semOwner s h := by
  rw [semOwner_eq, setOwner_eq, State.get_put_apart _ _ (semFld_fits g) (semFld_apart hg hh hne), semOwner_eq]
theorem semOwner_congr {s t : State} (g : Nat) (h : ∀ o, o = pgSEMA + SEMA_SEM_OWN0 ∨ o = pgSEMA + SEMA_SEM_OWN1 → t.rd o = s.rd o) :
    semOwner t g = semOwner s g := by
  refine congrArg (semFld g).of (h _ ?_)
  exact (semFld_off g).imp (congrArg _) (congrArg _)

theorem semWord_op {op g : Nat} (hop : op < 4) : SEMA_SEM_OP_OP.of (semWord op g) = op := by
  unfold Fld.of bits SEMA_SEM_OP_OP semWord
  rw [BitVec.toNat_ofNat, Nat.shiftRight_eq_div_pow]
  dsimp only
  omega
theorem semWord_sem {op g : Nat} (hg : g < 32) : SEMA_SEM_OP_SEM.of (semWord op g) = g := by
  unfold Fld.of bits SEMA_SEM_OP_SEM semWord
  rw [BitVec.toNat_ofNat, Nat.shiftRight_eq_div_pow]
  dsimp only
  omega

/-- The result of an operation kept for its master (R588). -/
def State.semTell (s : State) (m : Master) (g result : Nat) : State :=
  { s with captured := Sp.set s.captured (capKey m (pgSEMA + SEMA_SEM_STAT)) (semOwner s g * 2 ^ 30 + result * 2 ^ 28 + g) }
theorem semTell_result (s : State) (m : Master) (g result : Nat) {own : Nat} (h : semOwner s g = own) :
    semResult (s.semTell m g result) m own result g := by
  subst h
  exact Sp.get_set_self ..
/-- The owner's semaphore taken by a master, and named in FORCE_LAST. -/
def State.semForced (s : State) (m : Master) (g : Nat) : State :=
  ((s.setOwner g m.holder).wr (pgSEMA + SEMA_FORCE_LAST) (BitVec.ofNat 32 (m.holder * 2 ^ 30 + semOwner s g * 2 ^ 28 + g))).irq pgSEMA 0

section
variable {s : State} {m : Master} {g : Nat}

/-- CLAIM gives a free semaphore to its master. -/
theorem exec_semaClaim (hmay : mayWrite s m pgSEMA SEMA_SEM_OP false = true) (h1 : 1 ≤ g) (h28 : g ≤ 28) :
    exec (.semaClaim m g) s = .next (if semOwner s g = 0 then (s.setOwner g m.holder).semTell m g 0
      else s.semTell m g (b2n (semOwner s g != m.holder))) := by
  show Host.Outcome.next (semOp m (semWord 1 g) s) = _
  unfold semOp
  rw [State.gate_open _ _ _ _ _ _ hmay, semWord_op (by decide), semWord_sem (by omega)]
  dsimp only
  rw [if_neg (show ¬ (g = 0 ∨ 28 < g ∨ 1 = 3 ∧ m = .dbg) by omega)]
  rfl
/-- RELEASE frees its master's. -/
theorem exec_semaRelease (hmay : mayWrite s m pgSEMA SEMA_SEM_OP false = true) (h1 : 1 ≤ g) (h28 : g ≤ 28) :
    exec (.semaRelease m g) s = .next (if semOwner s g = m.holder then (s.setOwner g 0).semTell m g 0
      else if semOwner s g = 0 then s.semTell m g 2
      else ((s.refused m pgSEMA SEMA_SEM_OP).fabStat m (pgSEMA + SEMA_SEM_OP)).semTell m g 2) := by
  show Host.Outcome.next (semOp m (semWord 2 g) s) = _
  unfold semOp
  rw [State.gate_open _ _ _ _ _ _ hmay, semWord_op (by decide), semWord_sem (by omega)]
  dsimp only
  rw [if_neg (show ¬ (g = 0 ∨ 28 < g ∨ 2 = 3 ∧ m = .dbg) by omega)]
  rfl
/-- FORCE takes it from another owner, but not for DBG. -/
theorem exec_semaForce (hmay : mayWrite s m pgSEMA SEMA_SEM_OP false = true) (h1 : 1 ≤ g) (h28 : g ≤ 28) (hdbg : m ≠ .dbg) :
    exec (.semaForce m g) s = .next (if semOwner s g = 0 ∨ semOwner s g = m.holder then s.semTell m g 2
      else (s.semForced m g).semTell m g 0) := by
  show Host.Outcome.next (semOp m (semWord 3 g) s) = _
  unfold semOp
  rw [State.gate_open _ _ _ _ _ _ hmay, semWord_op (by decide), semWord_sem (by omega)]
  dsimp only
  rw [if_neg (show ¬ (g = 0 ∨ 28 < g ∨ 3 = 3 ∧ m = .dbg) from fun h => by
    obtain h | h | ⟨-, h⟩ := h
    · omega
    · omega
    · exact hdbg h)]
  rfl

theorem claim_takes (hmay : mayWrite s m pgSEMA SEMA_SEM_OP false = true) (h1 : 1 ≤ g) (h28 : g ≤ 28) (hfree : semOwner s g = 0) :
    ∃ t, exec (.semaClaim m g) s = .next t ∧ semOwner t g = m.holder ∧ semResult t m m.holder 0 g ∧
      ∀ h ≤ 28, h ≠ g → semOwner t h = semOwner s h := by
  have hown := semOwner_setOwner_self s g m.holder (holder_lt m)
  refine ⟨_, (exec_semaClaim hmay h1 h28).trans (congrArg _ (if_pos hfree)), hown, semTell_result _ _ _ _ hown, fun h hh hne => ?_⟩
  exact semOwner_setOwner_of_ne s _ (by omega) (by omega) hne
theorem claim_fails (hmay : mayWrite s m pgSEMA SEMA_SEM_OP false = true) (h1 : 1 ≤ g) (h28 : g ≤ 28) (hheld : semOwner s g ≠ 0)
    (hother : semOwner s g ≠ m.holder) :
    ∃ t, exec (.semaClaim m g) s = .next t ∧ t.regs = s.regs ∧ semResult t m (semOwner s g) 1 g := by
  refine ⟨_, (exec_semaClaim hmay h1 h28).trans (congrArg _ (if_neg hheld)), rfl, ?_⟩
  rw [bne_iff_ne.mpr hother]
  exact semTell_result _ _ _ _ rfl
theorem release_frees (hmay : mayWrite s m pgSEMA SEMA_SEM_OP false = true) (h1 : 1 ≤ g) (h28 : g ≤ 28) (hown : semOwner s g = m.holder) :
    ∃ t, exec (.semaRelease m g) s = .next t ∧ semOwner t g = 0 ∧ semResult t m 0 0 g := by
  have hfreed := semOwner_setOwner_self s g 0 (by decide)
  exact ⟨_, (exec_semaRelease hmay h1 h28).trans (congrArg _ (if_pos hown)), hfreed, semTell_result _ _ _ _ hfreed⟩
theorem release_fails (hmay : mayWrite s m pgSEMA SEMA_SEM_OP false = true) (h1 : 1 ≤ g) (h28 : g ≤ 28) (hheld : semOwner s g ≠ 0)
    (hother : semOwner s g ≠ m.holder) :
    ∃ t, exec (.semaRelease m g) s = .next t ∧ semOwner t g = semOwner s g ∧ semResult t m (semOwner s g) 2 g := by
  have hkept : semOwner ((s.refused m pgSEMA SEMA_SEM_OP).fabStat m (pgSEMA + SEMA_SEM_OP)) g = semOwner s g := by
    refine semOwner_congr g fun o ho => ?_
    obtain rfl | rfl := ho <;>
      rw [fabStat_rd _ _ _ (uncounted_of_page (by decide)) (by decide) (by decide) (by decide) (by decide),
        State.refused_rd _ _ _ _ _ (by decide) (by decide) (by decide)]
  exact ⟨_, (exec_semaRelease hmay h1 h28).trans (congrArg _ ((if_neg hother).trans (if_neg hheld))), hkept, semTell_result _ _ _ _ hkept⟩
theorem force_takes (hmay : mayWrite s m pgSEMA SEMA_SEM_OP false = true) (h1 : 1 ≤ g) (h28 : g ≤ 28) (hheld : semOwner s g ≠ 0)
    (hother : semOwner s g ≠ m.holder) (hdbg : m ≠ .dbg) :
    ∃ t, exec (.semaForce m g) s = .next t ∧ semOwner t g = m.holder ∧ semResult t m m.holder 0 g ∧
      t.rd (pgSEMA + SEMA_FORCE_LAST) = BitVec.ofNat 32 (m.holder * 2 ^ 30 + semOwner s g * 2 ^ 28 + g) ∧
      (t.rd (pgSEMA + HDR_IRQ_STAT)).toNat.testBit 0 = true := by
  have hrd (o : Nat) (h : o < pgREC) (hirq : o ≠ pgSEMA + HDR_IRQ_STAT) (v : State) : (v.irq pgSEMA 0).rd o = v.rd o :=
    State.irq_rd v pgSEMA 0 o hirq (.inl h)
  have hforced : semOwner (s.semForced m g) g = m.holder := by
    refine (semOwner_congr g fun o ho => ?_).trans (semOwner_setOwner_self s g _ (holder_lt m))
    obtain rfl | rfl := ho <;> exact (hrd _ (by decide) (by decide) _).trans (State.rd_wr_of_ne _ _ (by decide))
  refine ⟨_, (exec_semaForce hmay h1 h28 hdbg).trans (congrArg _ (if_neg (not_or.mpr ⟨hheld, hother⟩))), hforced,
    semTell_result _ _ _ _ hforced, ?_, ?_⟩
  · exact (hrd _ (by decide) (by decide) _).trans (State.rd_wr_self ..)
  · exact State.irq_sets _ _ _ (by decide) (by decide)
end

/-! ### Pages -/

/-- The pages that an offset can lie in: their bases are aligned, and no other page begins within the recorder's or the mailbox page. -/
theorem pageAt_base {off : Nat} {p : PageAt} (h : pageAt off = some p) :
    p.base % 512 = 0 ∧ (p.base = pgREC ∨ p.base + 512 ≤ pgREC ∨ pgREC + 4096 ≤ p.base) ∧
      (p.base = pgMBCTL ∨ p.base + 512 ≤ pgMBCTL ∨ pgMBCTL + 4096 ≤ p.base) := by
  unfold pageAt at h
  split at h
  · cases h
    simp only [portBase, pgREC, pgMBCTL]
    omega
  · split at h
    · dsimp only at h
      split at h
      · cases h
        simp only [layerBase, pgREC, pgMBCTL]
        omega
      · split at h
        · cases h
          simp only [rimBase, layerBase, pgREC, pgMBCTL]
          omega
        · cases h
    · have hall : ∀ q ∈ fixedPages, q.base % 512 = 0 ∧ (q.base = pgREC ∨ q.base + 512 ≤ pgREC ∨ pgREC + 4096 ≤ q.base) ∧
          (q.base = pgMBCTL ∨ q.base + 512 ≤ pgMBCTL ∨ pgMBCTL + 4096 ≤ q.base) := by decide
      exact hall p (List.mem_of_find?_eq_some h)
/-- No trigger counts in the header of a page. -/
theorem header_uncounted {off : Nat} {p : PageAt} (h : pageAt off = some p) {o : Nat} (ho : o < 64) : Uncounted (p.base + o) := by
  obtain ⟨-, hrec, -⟩ := pageAt_base h
  refine uncounted_of_page ?_
  simp only [pgREC, RECORDER_RC_MISSED, RECORDER_TRG_HITS] at *
  omega

/-- A write of IRQ_FORCE sets each bit below IRQ_N (R581). -/
theorem irqForce_sets {s : State} {m : Master} {off set k : Nat} {p : PageAt} (hp : pageAt off = some p)
    (hmay : mayWrite s m p.base HDR_IRQ_FORCE false = true) (hset : set < 2 ^ 32) (hk : k < irqN p.page) (hbit : set.testBit k = true) :
    ∃ t, exec (.irqForce m off set) s = .next t ∧ (t.rd (p.base + HDR_IRQ_STAT)).toNat.testBit k = true := by
  have hun : Uncounted (p.base + HDR_IRQ_STAT) := header_uncounted hp (by decide)
  have hk32 : k < 32 := by
    refine Nat.lt_of_lt_of_le hk ?_
    cases p.page <;> decide
  have hmem : k ∈ (List.range (irqN p.page)).filter fun k => (BitVec.ofNat 32 set).toNat.testBit k := by
    rw [List.mem_filter, List.mem_range, BitVec.toNat_ofNat, Nat.mod_eq_of_lt hset]
    exact ⟨hk, hbit⟩
  have hset : ∀ (l : List Nat) (u : State), k ∈ l ∨ (u.rd (p.base + HDR_IRQ_STAT)).toNat.testBit k = true →
      ((u.each l fun s k => s.irq p.base k).rd (p.base + HDR_IRQ_STAT)).toNat.testBit k = true := by
    intro l
    induction l with
    | nil => exact fun u h => h.resolve_left (by simp)
    | cons a l ih =>
      intro u h
      refine ih (u.irq p.base a) ?_
      obtain h | h := h
      · obtain rfl | h := List.mem_cons.mp h
        · exact .inr (irq_sets_of_uncounted u p.base k hk32 hun)
        · exact .inl h
      · exact .inr (irq_keeps_bits u p.base a k hun h)
  refine ⟨irqForce m p (BitVec.ofNat 32 set) s, ?_, ?_⟩
  · show execIrqForce m off set s = _
    unfold execIrqForce
    rw [hp]
  · unfold irqForce
    rw [State.gate_open _ _ _ _ _ _ hmay]
    exact hset _ _ (.inl hmem)

/-! ### Plain registers (R11, R500, R503, R509) -/

section
variable {s : State} {m : Master} {p : PageAt} {o : Nat} {w : Word32} {r : RegRow}

/-- A write of a register without an effect of its own sets its fields by their access codes. -/
theorem registerWrite_plain (hp : pageAt (p.base + o) = some p) (ho : o % 4 = 0) (hplain : plainReg p o = true) :
    exec (.registerWrite m (p.base + o) w) s = .next (plainWrite m p o w s) := by
  obtain ⟨halign, -, -⟩ := pageAt_base hp
  show Host.Outcome.next (writeReg m ((p.base + o) / 4 * 4) w s) = _
  rw [show (p.base + o) / 4 * 4 = p.base + o by omega]
  unfold writeReg
  rw [hp]
  dsimp only
  rw [Nat.add_sub_cancel_left]
  unfold plainReg at hplain
  split at hplain
  · rename_i hlt
    simp only [Bool.and_eq_true, bne_iff_ne, Bool.not_eq_true'] at hplain
    obtain ⟨⟨hctl, hforce⟩, hmbox⟩ := hplain
    rw [if_neg hctl, if_neg hforce, if_pos hlt]
    unfold headerWrite
    dsimp only
    rw [hmbox]
    rfl
  · rename_i hge
    rw [if_neg (by simp only [HDR_CTL]; omega), if_neg (by simp only [HDR_IRQ_FORCE]; omega), if_neg hge]
    obtain ⟨page, inst, base⟩ := p
    cases page
    case hub | handleCmd | syncCtr => exact congrArg Host.Outcome.next (if_neg (bne_iff_ne.mp hplain))
    case ident | caps | handleState | handleRead | handleGuard | layer => rfl
    all_goals cases hplain
/-- The owner's write leaves each field as its access code says, and every other register. -/
theorem registerWrite_sets (hp : pageAt (p.base + o) = some p) (ho : o % 4 = 0) (hplain : plainReg p o = true)
    (hmay : mayWrite s m p.base o true = true) (hr : rowAt p.page o = some r) :
    ∃ t, exec (.registerWrite m (p.base + o) w) s = .next t ∧
      (∀ f ∈ r.fields, t.get p.base ⟨o, f.hi, f.lo⟩ = fieldAfter f (s.get p.base ⟨o, f.hi, f.lo⟩) (bits w.toNat f.hi f.lo)) ∧
      ∀ k, k ≠ p.base + o → t.rd k = s.rd k := by
  have hown := Or.inl (b := (r.fields.any fun f => f.acc == .rwo) = false) (owns_of_mayWrite hp hmay)
  refine ⟨_, registerWrite_plain hp ho hplain, ?_⟩
  unfold plainWrite
  rw [State.gate_open _ _ _ _ _ _ (mayWrite_any hmay)]
  exact ⟨fun f hf => setFields_get hp hr hown w hf, fun k hk => setFields_rd hp hr hown w hk⟩
/-- No RWO field stands in the header, so a plain register that has one lies on a page apart from the recorder's and the mailbox page. -/
theorem rwo_above_header {f : FieldRow} (hr : rowAt p.page o = some r) (hf : f ∈ r.fields) (hacc : f.acc = .rwo) : 64 ≤ o := by
  by_contra hlt
  unfold rowAt at hr
  rw [if_pos (by omega)] at hr
  have hnone : ∀ r ∈ rowsAny, ∀ f ∈ r.fields, f.acc ≠ .rwo := by decide
  exact hnone r (List.mem_of_find?_eq_some hr) f hf hacc
/-- The pages with plain registers above the header lie below the mailbox page, but for the LAYER pages. -/
theorem plainReg_place (hp : pageAt (p.base + o) = some p) (ho : 64 ≤ o) (hplain : plainReg p o = true) :
    p.base + o < pgMBCTL ∨ pgREC + 4096 ≤ p.base + o := by
  unfold plainReg at hplain
  rw [if_neg (by omega)] at hplain
  unfold pageAt at hp
  split at hp
  · have hpage : p.page = .port := congrArg PageAt.page (Option.some.inj hp).symm
    rw [hpage] at hplain
    cases hplain
  · split at hp
    · simp only [pgREC]
      omega
    · have hmem := List.mem_of_find?_eq_some hp
      have hwithin := List.find?_some hp
      simp only [decide_eq_true_eq] at hwithin
      have hbelow : ∀ q ∈ fixedPages, q.base + 4096 ≤ pgMBCTL ∨ q.page = .mailboxCtl ∨ q.page = .mbox ∨ q.page = .recorder ∨ q.page = .test := by
        decide
      obtain hlow | hpage | hpage | hpage | hpage := hbelow p hmem
      · omega
      all_goals
        rw [hpage] at hplain
        cases hplain
/-- The record of a flagged write of a plain register leaves it, and is in the page's ERR_INFO. -/
theorem flagged_keeps (hp : pageAt (p.base + o) = some p) (ho : 64 ≤ o) (hplain : plainReg p o = true) (cause : Nat) :
    ((s.flagPage m p.base (p.base + o) cause).fabStat m (p.base + o)).rd (p.base + o) = s.rd (p.base + o) ∧
      ((s.flagPage m p.base (p.base + o) cause).fabStat m (p.base + o)).rd (p.base + HDR_ERR_INFO) =
        BitVec.ofNat 32 (2 ^ 31 + m.code * 2 ^ 28 + cause * 2 ^ 24) := by
  have hplace := plainReg_place hp ho hplain
  obtain ⟨halign, hrec, hmb⟩ := pageAt_base hp
  constructor
  · rw [fabStat_rd, flagPage_rd]
    case h => exact uncounted_of_page (by simp only [pgMBCTL, pgREC, RECORDER_RC_MISSED, RECORDER_TRG_HITS] at *; omega)
    all_goals
      simp only [pgMBCTL, pgREC, HDR_IRQ_STAT, MAILBOX_CTL_FAB_STAT, MAILBOX_CTL_FAB_VIOL_CNT, HDR_ERR_INFO, HDR_ERR_ADDR, HDR_VIOL_CNT] at *
      omega
  · rw [fabStat_rd, flagPage_errInfo]
    case h => exact header_uncounted hp (by decide)
    all_goals
      simp only [pgMBCTL, pgREC, HDR_IRQ_STAT, MAILBOX_CTL_FAB_STAT, MAILBOX_CTL_FAB_VIOL_CNT, HDR_ERR_INFO] at *
      omega
/-- A write by a master that does not own the page's group leaves its RWO fields, and is recorded with NOT_OWNER. -/
theorem registerWrite_notOwner {f : FieldRow} (hp : pageAt (p.base + o) = some p) (ho : o % 4 = 0) (hplain : plainReg p o = true)
    (hmay : mayWrite s m p.base o false = true) (howner : mayWrite s m p.base o true = false) (hr : rowAt p.page o = some r)
    (hf : f ∈ r.fields) (hacc : f.acc = .rwo) :
    ∃ t, exec (.registerWrite m (p.base + o) w) s = .next t ∧ t.get p.base ⟨o, f.hi, f.lo⟩ = s.get p.base ⟨o, f.hi, f.lo⟩ ∧
      t.rd (p.base + HDR_ERR_INFO) = BitVec.ofNat 32 (2 ^ 31 + m.code * 2 ^ 28 + 2 ^ 24) := by
  have hown : ownsPage s m p = false := (mayWrite_eq_owns hp hmay).symm.trans howner
  have hany : (r.fields.any fun f => f.acc == .rwo) = true := List.any_eq_true.mpr ⟨f, hf, by rw [hacc]; rfl⟩
  refine ⟨_, registerWrite_plain hp ho hplain, ?_⟩
  unfold plainWrite
  rw [State.gate_open _ _ _ _ _ _ hmay, setFields_eq hp hr, hown, hany]
  obtain ⟨hkeep, hinfo⟩ := flagged_keeps (s := s.each r.fields fun u f => u.setField p.base o false w f) (m := m) hp
    (rwo_above_header hr hf hacc) hplain 1
  refine ⟨?_, hinfo⟩
  refine (congrArg (Fld.of _) hkeep : _).trans ((each_setField_get r.fields s (rowAt_tidy hr) hf).trans ?_)
  exact if_pos ⟨hacc, rfl⟩
/-- A write without a path changes no field, and is recorded with NO_PATH, at the fabric too where a control port or DBG made it. -/
theorem registerWrite_noPath (hp : pageAt (p.base + o) = some p) (ho : o % 4 = 0) (h64 : 64 ≤ o) (hplain : plainReg p o = true)
    (hopen : fabricOpen s m p = true) (hpres : pagePresent s.cfg p = true) (hpath : writePath s m p = false) :
    ∃ t, exec (.registerWrite m (p.base + o) w) s = .next t ∧ t.rd (p.base + o) = s.rd (p.base + o) ∧
      t.rd (p.base + HDR_ERR_INFO) = BitVec.ofNat 32 (2 ^ 31 + m.code * 2 ^ 28 + 2 * 2 ^ 24) ∧
      (m.isEm = false → t.rd (pgMBCTL + MAILBOX_CTL_FAB_STAT) = BitVec.ofNat 32 (2 ^ 31 + m.code * 2 ^ 24 + (p.base + o))) := by
  obtain ⟨hkeep, hinfo⟩ := flagged_keeps (s := s) (m := m) hp h64 hplain 2
  have hclosed : plainWrite m p o w s = (s.flagPage m p.base (p.base + o) 2).fabStat m (p.base + o) := by
    unfold plainWrite State.gate
    dsimp only
    rw [hp]
    dsimp only
    rw [hopen, hpres, hpath]
    rfl
  exact ⟨_, (registerWrite_plain hp ho hplain).trans (congrArg _ hclosed), hkeep, hinfo, fabStat_names _ _ _⟩
end

/-- Settles O44: SEM_OP by its operation and owner, IRQ_FORCE by `irqForce_sets`, a plain register by its owner and path. -/
theorem registerWrites : Obligations.RegisterWrites :=
  ⟨fun _ _ _ hmay h1 h28 => ⟨claim_takes hmay h1 h28, claim_fails hmay h1 h28, fun _ => release_frees hmay h1 h28, release_fails hmay h1 h28,
    force_takes hmay h1 h28⟩,
  fun _ _ _ _ _ _ => irqForce_sets,
  fun _ _ _ _ _ _ => registerWrite_sets,
  fun _ _ _ _ _ _ _ => registerWrite_notOwner,
  fun _ _ _ _ _ => registerWrite_noPath⟩

end Sys2Proof.Machine

/-! PROOFS. Messages of the mailbox rings (spec/17_control_and_firmware.md R522 to R526). A message that waits alone in its ring is taken, its
action runs on a state that keeps the ring, and what the action answers is the ring's next response. -/
namespace Sys2Proof.Machine

/-! ### The page of a ring -/

/-- A state has kept the page of ring r and the responses that wait for it. -/
def KeepsRing (r : Nat) (u v : State) : Prop :=
  v.fw.owed = u.fw.owed ∧ ∀ o, mboxBase r ≤ o → o < mboxBase r + 4096 → v.rd o = u.rd o
theorem KeepsRing.refl (r : Nat) (u : State) : KeepsRing r u u := ⟨rfl, fun _ _ _ => rfl⟩
theorem KeepsRing.trans {r : Nat} {u v w : State} (huv : KeepsRing r u v) (hvw : KeepsRing r v w) : KeepsRing r u w :=
  ⟨hvw.1.trans huv.1, fun o h h' => (hvw.2 o h h').trans (huv.2 o h h')⟩
/-- A state that differs neither in its registers nor in its firmware has kept every ring. -/
theorem keepsRing_of_eq {r : Nat} {u v : State} (hregs : v.regs = u.regs) (hcfg : v.cfg = u.cfg) (hfw : v.fw = u.fw) : KeepsRing r u v :=
  ⟨congrArg FwSt.owed hfw, fun o _ _ => State.rd_congr hregs hcfg o⟩
theorem KeepsRing.get {r : Nat} {u v : State} (h : KeepsRing r u v) {f : Fld} (hf : f.off < 4096) :
    v.get (mboxBase r) f = u.get (mboxBase r) f := by
  unfold State.get
  rw [h.2 _ (by omega) (by omega)]
theorem KeepsRing.reqProd {r : Nat} {u v : State} (h : KeepsRing r u v) : reqProd v r = reqProd u r := h.get (by decide)
theorem KeepsRing.reqCons {r : Nat} {u v : State} (h : KeepsRing r u v) : reqCons v r = reqCons u r := h.get (by decide)
theorem KeepsRing.rspProd {r : Nat} {u v : State} (h : KeepsRing r u v) : rspProd v r = rspProd u r := h.get (by decide)
theorem KeepsRing.rspCons {r : Nat} {u v : State} (h : KeepsRing r u v) : rspCons v r = rspCons u r := h.get (by decide)
theorem KeepsRing.mbEpoch {r : Nat} {u v : State} (h : KeepsRing r u v) : mbEpoch v r = mbEpoch u r := h.get (by decide)

/-! ### Requests taken -/

theorem takeReq_reqCons (s : State) (r : Nat) : reqCons (s.takeReq r) r = (reqCons s r + 1) % 256 :=
  State.get_bump_self s (mboxBase r) MBOX_MB_STAT_REQ_CONS 1 (by decide)
theorem takeReq_get (s : State) (r : Nat) (f : Fld) (h : MBOX_MB_STAT ≠ f.off ∨ 7 < f.lo) :
    (s.takeReq r).get (mboxBase r) f = s.get (mboxBase r) f :=
  State.get_put_page _ _ _ _ _ (by decide) (h.imp id .inr)
theorem takeReq_rd (s : State) (r : Nat) {o : Nat} (h : o ≠ mboxBase r + MBOX_MB_STAT) : (s.takeReq r).rd o = s.rd o := State.bump_rd s _ h

theorem takeReq_cfg (s : State) (r : Nat) : (s.takeReq r).cfg = s.cfg := rfl
theorem takeReq_life (s : State) (r : Nat) : (s.takeReq r).life = s.life := rfl
/-- The owner of a semaphore does not depend on the rings. -/
theorem takeReq_ringOwns (s : State) (r g : Nat) : ringOwns (s.takeReq r) r g = ringOwns s r g := by
  unfold ringOwns semOwner
  dsimp only
  rw [takeReq_rd _ _ (by simp only [mboxBase, MBOX_MB_STAT, pgSEMA, SEMA_SEM_OWN0, SEMA_SEM_OWN1]; split <;> omega)]

theorem placeOwed_none (s : State) (r : Nat) (h : s.fw.owed = []) : ∀ n, s.placeOwed r n = s
  | 0 => rfl
  | n + 1 => by
    unfold State.placeOwed
    rw [h]
    rfl
/-- With no request waiting and no response owed, nothing is done at a ring. -/
theorem mboxAuto_idle (s : State) (r : Nat) (howed : s.fw.owed = []) (hnone : reqProd s r = reqCons s r) : ∀ n, s.mboxAuto r n = s
  | 0 => rfl
  | n + 1 => by
    have hhead : headType s r = none := if_pos hnone
    unfold State.mboxAuto
    rw [placeOwed_none s r howed]
    dsimp only
    rw [hhead]
/-- A request of a defined TYPE, of the ring's epoch, waits for its own command. -/
theorem mboxAuto_waits {s : State} {r typ : Nat} (h : msgAt s r typ) (htyp : typ ∈ mbTypes) : ∀ n, s.mboxAuto r n = s
  | 0 => rfl
  | n + 1 => by
    obtain ⟨-, hhead, -, hepoch, hroom, hruns, hlen, howed⟩ := h
    unfold State.mboxAuto
    rw [placeOwed_none s r howed]
    dsimp only
    rw [hhead]
    dsimp only
    rw [hroom, if_neg (by decide), if_neg (not_not.mpr hepoch), hruns, if_neg (by decide), List.contains_iff_mem.mpr htyp, if_neg (by decide),
      if_neg (by omega)]
theorem takeReq_taken {s : State} {r typ : Nat} (h : msgAt s r typ) : reqCons (s.takeReq r) r = reqProd s r := by
  obtain ⟨-, -, halone, -⟩ := h
  rw [takeReq_reqCons, halone]

/-! ### Responses (R524) -/

theorem wr_sansRec (s : State) (a : Nat) (w : Word32) : (s.wr a w).sansRec = s.sansRec := rfl
theorem each_wr_sansRec {α : Type} (f : α → Nat) (w : α → Word32) : ∀ (l : List α) (s : State),
    (s.each l fun s k => s.wr (f k) (w k)).sansRec = s.sansRec
  | [], _ => rfl
  | k :: l, s => (each_wr_sansRec f w l (s.wr (f k) (w k))).trans (wr_sansRec s _ _)

section
variable (s : State) (r typ seq status : Nat) (words : List Nat) (n : Nat)

/-- The sixteen words of a response. -/
def rspWords (s : State) (r typ seq status : Nat) (words : List Nat) (n : Nat) (k : Nat) : Nat :=
  if k < 4 then
    [s.get pgMBCTL MAILBOX_CTL_MB_ID_IF_MAJ % 256 * 2 ^ 24 + s.get pgMBCTL MAILBOX_CTL_MB_ID_IF_MIN % 256 * 2 ^ 16 + typ,
      seq * 2 ^ 16 + n * 2 ^ 8 + status, mbEpoch s r * 2 ^ 16, 0].getD k 0
  else if 4 * (k - 4) < n then words.getD (k - 4) 0 else 0
/-- The state with the words of a response in its ring's next entry. -/
def rspPlaced (s : State) (r typ seq status : Nat) (words : List Nat) (n : Nat) : State :=
  s.each (List.range 16) fun s' k =>
    s'.wr (mboxBase r + MBOX_RSP_ENTRY + 64 * (rspProd s r % 16) + 4 * k) (BitVec.ofNat 32 (rspWords s r typ seq status words n k))
theorem respond_eq : s.respond r typ seq status words n =
    ((rspPlaced s r typ seq status words n).bump (mboxBase r) MBOX_MB_STAT_RSP_PROD).irq (mboxBase r) 0 := rfl

theorem ring_below {r : Nat} (hr : r < 2) : mboxBase r + 4096 ≤ pgREC := by
  simp only [mboxBase, pgREC]
  omega
/-- The words of a response read what they were written. -/
theorem respond_word (hr : r < 2) {k : Nat} (hk : k < 16) :
    ((s.respond r typ seq status words n).rd (mboxBase r + MBOX_RSP_ENTRY + 64 * (rspProd s r % 16) + 4 * k)).toNat =
      rspWords s r typ seq status words n k % 2 ^ 32 := by
  have hbelow := ring_below hr
  have hprod := Nat.mod_lt (rspProd s r) (show 0 < 16 by decide)
  rw [respond_eq, State.irq_rd _ _ _ _ (by simp only [MBOX_RSP_ENTRY, HDR_IRQ_STAT]; omega)
    (.inl (by simp only [MBOX_RSP_ENTRY, pgREC, mboxBase] at *; omega)),
    State.bump_rd _ _ (by simp only [MBOX_RSP_ENTRY, MBOX_MB_STAT_RSP_PROD]; omega)]
  unfold rspPlaced
  rw [(each_wr_rd (fun k => mboxBase r + MBOX_RSP_ENTRY + 64 * (rspProd s r % 16) + 4 * k) _ (fun i j h => by omega) s 16).1 k hk,
    BitVec.toNat_ofNat]
theorem rspPlaced_get (f : Fld) (h : f.off < MBOX_RSP_ENTRY) :
    (rspPlaced s r typ seq status words n).get (mboxBase r) f = s.get (mboxBase r) f := by
  unfold State.get
  rw [show (rspPlaced s r typ seq status words n).rd (mboxBase r + f.off) = s.rd (mboxBase r + f.off) from
    (each_wr_rd (fun k => mboxBase r + MBOX_RSP_ENTRY + 64 * (rspProd s r % 16) + 4 * k) _ (fun i j h => by omega) s 16).2 _
      fun i hi => by omega]
theorem respond_get (hr : r < 2) (f : Fld) (h : f.off < MBOX_RSP_ENTRY) (hirq : f.off ≠ HDR_IRQ_STAT)
    (hf : MBOX_MB_STAT ≠ f.off ∨ f.hi < 8 ∨ 15 < f.lo) : (s.respond r typ seq status words n).get (mboxBase r) f = s.get (mboxBase r) f := by
  have hrec := ring_below hr
  rw [respond_eq, State.irq_get _ _ _ _ _ (by omega) (.inl (by simp only [MBOX_RSP_ENTRY] at h; omega))]
  exact (State.get_put_page _ _ MBOX_MB_STAT_RSP_PROD f _ (by decide) hf).trans (rspPlaced_get s r typ seq status words n f h)
theorem respond_rspProd (hr : r < 2) : rspProd (s.respond r typ seq status words n) r = (rspProd s r + 1) % 256 := by
  have hrec := ring_below hr
  unfold rspProd
  rw [respond_eq, State.irq_get _ _ _ _ _ (by simp only [MBOX_MB_STAT_RSP_PROD, HDR_IRQ_STAT]; omega)
    (.inl (by simp only [MBOX_MB_STAT_RSP_PROD]; omega)), State.get_bump_self _ _ _ _ (by decide), rspPlaced_get _ _ _ _ _ _ _ _ (by decide)]
  rfl
theorem rspPlaced_sansRec : (rspPlaced s r typ seq status words n).sansRec = s.sansRec := each_wr_sansRec ..
/-- A response changes neither the firmware nor any structure but the registers and the recorder. -/
theorem respond_sansRec : (s.respond r typ seq status words n).sansRec = s.sansRec := by
  rw [respond_eq, State.irq_sansRec]
  exact (wr_sansRec ..).trans (rspPlaced_sansRec s r typ seq status words n)
theorem respond_fw : (s.respond r typ seq status words n).fw = s.fw := (congrArg State.fw (respond_sansRec s r typ seq status words n) :)
theorem respond_life : (s.respond r typ seq status words n).life = s.life := (congrArg State.life (respond_sansRec s r typ seq status words n) :)
theorem respond_test : (s.respond r typ seq status words n).test = s.test := (congrArg State.test (respond_sansRec s r typ seq status words n) :)
end

/-! ### A message taken and answered -/

/-- The payload words of the request at the head of a ring. -/
def reqWords (s : State) (r : Nat) : List Nat := (List.range 12).map fun k => reqWord s r (4 + k)
theorem reqWords_getD (s : State) (r : Nat) {k : Nat} (hk : k < 12) : (reqWords s r).getD k 0 = reqWord s r (4 + k) := by
  unfold reqWords
  rw [List.getD_eq_getElem _ _ (by simpa using hk)]
  simp

section
variable {s v : State} {r typ need : Nat} {act : Nat → List Nat → State → Reply × State}

/-- A message that waits alone is taken by its command. -/
theorem message_eq (h : msgAt s r typ) (htyp : typ ∈ mbTypes) : message typ need r act s = .next
    ((if headLen s r < need then (s.takeReq r).answer r typ (headSeq s r) 2 [] 0
      else match act (headLen s r) (reqWords s r) (s.takeReq r) with
        | (some (st, ws, n), u) => u.answer r typ (headSeq s r) st ws n
        | (none, u) => u).mboxAuto r 256) := by
  have hwaits := mboxAuto_waits h htyp 256
  obtain ⟨hr, hhead, -, hepoch, hroom, hruns, hlen, -⟩ := h
  unfold message
  rw [if_neg (by omega)]
  dsimp only
  rw [hwaits, hhead, hepoch, hroom, hruns, if_neg (by simp [hlen])]
  rfl
/-- After a state that has kept the ring, the answer is placed at once, and nothing more is done at the ring. -/
theorem answer_placed (h : msgAt s r typ) (hkeeps : KeepsRing r (s.takeReq r) v) (seq status : Nat) (ws : List Nat) (n : Nat) :
    (v.answer r typ seq status ws n).mboxAuto r 256 = v.respond r typ seq status ws n := by
  have htaken := takeReq_taken h
  obtain ⟨hr, -, -, -, hroom, -, -, howed⟩ := h
  have howed' : v.fw.owed = [] := hkeeps.1.trans howed
  have hroom' : rspRoom v r = true := by
    unfold rspRoom at hroom ⊢
    rw [hkeeps.rspProd, hkeeps.rspCons]
    unfold rspProd rspCons at hroom ⊢
    rw [takeReq_get _ _ _ (.inr (by decide)), takeReq_get _ _ _ (.inl (by decide))]
    exact hroom
  have hplaced : v.answer r typ seq status ws n = v.respond r typ seq status ws n := if_pos (by simp [hroom', howed'])
  rw [hplaced]
  refine mboxAuto_idle _ r ((congrArg FwSt.owed (respond_fw ..)).trans howed') ?_ 256
  unfold reqProd reqCons
  rw [respond_get _ _ _ _ _ _ _ hr _ (by decide) (by decide) (.inl (by decide)),
    respond_get _ _ _ _ _ _ _ hr _ (by decide) (by decide) (.inr (.inl (by decide)))]
  exact hkeeps.reqProd.trans ((takeReq_get s r _ (.inl (by decide))).trans (htaken.symm.trans hkeeps.reqCons.symm))
/-- The response to the message is what the statements say of an answered message. -/
theorem respond_answered (h : msgAt s r typ) (htyp : typ ∈ mbTypes) (hkeeps : KeepsRing r (s.takeReq r) v) {status n : Nat} {ws : List Nat}
    {w : Nat → Nat} (hstatus : status < 2 ^ 8) (hn : n ≤ 48) (hw : ∀ k, 4 * k < n → ws.getD k 0 % 2 ^ 32 = w k % 2 ^ 32) :
    answeredAs s (v.respond r typ (headSeq s r) status ws n) r typ status n w := by
  have htaken := takeReq_taken h
  obtain ⟨hr, -⟩ := h
  have htyp16 : typ < 2 ^ 16 := by revert typ; decide
  have hprod : rspProd v r = rspProd s r := hkeeps.rspProd.trans (takeReq_get s r _ (.inr (by decide)))
  have hepoch : mbEpoch v r = mbEpoch s r := hkeeps.mbEpoch.trans (takeReq_get s r _ (.inr (by decide)))
  have hseq : headSeq s r < 2 ^ 16 := Nat.mod_lt _ (by decide)
  have hep : mbEpoch s r < 2 ^ 16 := State.get_lt s _ MBOX_MB_STAT_EPOCH
  have hword : ∀ k < 16, rspWord s (v.respond r typ (headSeq s r) status ws n) r k =
      rspWords v r typ (headSeq s r) status ws n k % 2 ^ 32 := fun k hk => by
    unfold rspWord
    rw [← hprod]
    exact respond_word v r typ (headSeq s r) status ws n hr hk
  refine ⟨?_, ?_, ?_, ?_, ?_, ?_, ?_⟩
  · rw [← htaken, ← hkeeps.reqCons]
    exact respond_get _ _ _ _ _ _ _ hr _ (by decide) (by decide) (.inr (.inl (by decide)))
  · rw [respond_rspProd _ _ _ _ _ _ _ hr, hprod]
  · rw [hword 0 (by decide)]
    show (_ + _ + typ) % 2 ^ 32 % 2 ^ 16 = typ
    omega
  · rw [hword 1 (by decide)]
    show (headSeq s r * 2 ^ 16 + n * 2 ^ 8 + status) % 2 ^ 32 = _
    omega
  · rw [hword 2 (by decide)]
    show (mbEpoch v r * 2 ^ 16) % 2 ^ 32 = _
    omega
  · intro k hk
    rw [hword (4 + k) (by omega), ← hw k hk]
    unfold rspWords
    rw [if_neg (by omega), Nat.add_sub_cancel_left, if_pos hk]
  · exact State.irq_sets _ _ _ (by decide) (by have := ring_below hr; simp only [HDR_IRQ_STAT]; omega)

/-- A message whose action answers it, on a state that keeps its ring. -/
theorem message_answers (h : msgAt s r typ) (htyp : typ ∈ mbTypes) (hneed : need ≤ headLen s r) {status n : Nat} {ws : List Nat}
    (hact : act (headLen s r) (reqWords s r) (s.takeReq r) = (some (status, ws, n), v)) (hkeeps : KeepsRing r (s.takeReq r) v) :
    message typ need r act s = .next (v.respond r typ (headSeq s r) status ws n) := by
  rw [message_eq h htyp, if_neg (by omega), hact]
  exact congrArg Host.Outcome.next (answer_placed h hkeeps _ _ _ _)
/-- A message that changes nothing but is answered with a status alone. -/
theorem message_status (h : msgAt s r typ) (htyp : typ ∈ mbTypes) (hneed : need ≤ headLen s r) {status : Nat} (hstatus : status < 2 ^ 8)
    (hact : act (headLen s r) (reqWords s r) (s.takeReq r) = (some (status, [], 0), s.takeReq r)) :
    ∃ t, message typ need r act s = .next t ∧ answeredAs s t r typ status 0 fun _ => 0 :=
  ⟨_, message_answers h htyp hneed hact (.refl ..), respond_answered h htyp (.refl ..) hstatus (by decide) fun k hk => by omega⟩
/-- A message whose answer comes later: it has been taken, and nothing answered. -/
theorem message_taken (h : msgAt s r typ) (htyp : typ ∈ mbTypes) (hneed : need ≤ headLen s r)
    (hact : act (headLen s r) (reqWords s r) (s.takeReq r) = (none, v)) (hkeeps : KeepsRing r (s.takeReq r) v) :
    message typ need r act s = .next v ∧ takenOnly s v r := by
  have htaken := takeReq_taken h
  obtain ⟨-, -, -, -, -, -, -, howed⟩ := id h
  have hprod : reqProd v r = reqProd s r := hkeeps.reqProd.trans (takeReq_get s r _ (.inl (by decide)))
  have hcons : reqCons v r = reqProd s r := hkeeps.reqCons.trans htaken
  rw [message_eq h htyp, if_neg (by omega), hact]
  exact ⟨congrArg Host.Outcome.next (mboxAuto_idle v r (hkeeps.1.trans howed) (hprod.trans hcons.symm) 256), hcons,
    hkeeps.rspProd.trans (takeReq_get s r _ (.inr (by decide)))⟩
/-- A message of fewer bytes than its TYPE needs is answered with BAD_LEN. -/
theorem message_short (h : msgAt s r typ) (htyp : typ ∈ mbTypes) (hneed : headLen s r < need) :
    message typ need r act s = .next ((s.takeReq r).respond r typ (headSeq s r) 2 [] 0) := by
  rw [message_eq h htyp, if_pos hneed]
  exact congrArg Host.Outcome.next (answer_placed h (.refl ..) _ _ _ _)
end

end Sys2Proof.Machine

/-! PROOFS. Registers that operations leave (spec/20_register_pages.md): what the changes of a link port leave outside the LINK page, and what a copy
between physical rims and the clear of a rim leave of the pages above the Hub's. -/
namespace Sys2Proof.Machine

/-! ### Link ports -/

section
variable (s : State) (p : Nat) {o : Nat}

/-- A register outside the LINK page and the recorder's. -/
abbrev OffLink (o : Nat) : Prop := (o < pgLINK ∨ pgLINK + 4096 ≤ o) ∧ (o < pgREC ∨ pgREC + 4096 ≤ o)

theorem lpPut_rd (f : Fld) (v : Nat) (hp : p < 4) (hf : f.off < 0x500) (ho : OffLink o) : (s.put pgLINK (f.at 256 p) v).rd o = s.rd o :=
  State.rd_put_of_ne _ _ (by dsimp only; omega)
theorem setLanes_rd (a b : Nat) (hp : p < 4) (ho : OffLink o) : (s.setLanes p a b).rd o = s.rd o :=
  (lpPut_rd _ p _ _ hp (by decide) ho).trans (lpPut_rd s p _ _ hp (by decide) ho)
theorem lpSet_rd (st : Nat) (hp : p < 4) (ho : OffLink o) : (s.lpSet p st).rd o = s.rd o := by
  unfold State.lpSet
  split
  · rfl
  · rw [State.irq_rd _ _ _ _ (by simp only [HDR_IRQ_STAT]; omega) ho.2, lpPut_rd s p _ _ hp (by decide) ho]
theorem lpStart_rd (hp : p < 4) (ho : OffLink o) : (s.lpStart p).rd o = s.rd o := by
  unfold State.lpStart State.cond
  split
  · dsimp only
    split
    · exact lpSet_rd s p _ hp ho
    · rw [lpSet_rd _ p _ hp ho, setLanes_rd s p _ _ hp ho]
  · rfl
theorem lpSet_sansRec (st : Nat) : (s.lpSet p st).sansRec = s.sansRec := by
  unfold State.lpSet
  split
  · rfl
  · exact State.irq_sansRec ..
theorem lpStart_sansRec : (s.lpStart p).sansRec = s.sansRec := by
  unfold State.lpStart State.cond
  split
  · dsimp only
    split
    · exact lpSet_sansRec s p _
    · exact lpSet_sansRec (s.setLanes p 255 255) p _
  · rfl
end

/-! ### Copies and clears of rims -/

section
variable (s : State) {o : Nat}

theorem copyQueue_rd (layer : Nat) (j : CopyJob) (hj : j.tid < 64) (ho : pgHCMD ≤ o) : (s.copyQueue layer j).rd o = s.rd o := by
  unfold State.copyQueue
  dsimp only
  rw [State.cond_rd, charge_rd _ _ _ hj ho]
  exact ite_self _
theorem setRole_rd (layer role i : Nat) (ho : o ≠ layerBase layer + LAYER_SPARE_STAT) : (s.setRole layer role i).rd o = s.rd o :=
  (State.rd_put_of_ne _ _ ho).trans (State.rd_put_of_ne _ _ ho)
/-- The clear of a rim changes of the registers INTEG's WB_CANCEL alone. -/
theorem clearRim_rd (layer p tid : Nat) (ho : o ≠ pgINTEG + INTEG_WB_CANCEL) : (s.clearRim layer p tid).rd o = s.rd o := by
  unfold State.clearRim
  rw [State.energy_rd]
  exact State.bumpSat_rd _ _ ho
end

end Sys2Proof.Machine

/-! PROOFS. The lifetime records (spec/18_observability.md R542 to R550): what EM0's own record of the life store is after each of its operations,
and which registers they leave. -/
namespace Sys2Proof.Machine

/-! ### The LS registers (R531, R547) -/

section
variable (s : State)

/-- Writes of LS registers leave what no write of a register changes. -/
theorem lsWrite_of {β : Type} (g : State → β) (f : State → State) (h : g (f s) = g s) : g (s.lsWrite f) = g s := by
  unfold State.lsWrite State.cond
  split
  · exact h
  · rfl
theorem lsWrite_get (f : State → State) (a : Nat) (g : Fld) (hon : domOn s 194 = true) : (s.lsWrite f).get a g = (f s).get a g := by
  unfold State.lsWrite State.cond
  rw [if_pos hon]

theorem lsSet_life (st : Nat) : (s.lsSet st).life = { s.life with state := st } := lsWrite_of _ State.life _ rfl
theorem lsSet_rd (st : Nat) {o : Nat} (h : o ≠ pgREC + RECORDER_LS_STAT) : (s.lsSet st).rd o = s.rd o :=
  lsWrite_of _ (fun u => u.rd o) _ (State.rd_put_of_ne _ _ h)
theorem lsSet_fw (st : Nat) : (s.lsSet st).fw = s.fw := lsWrite_of _ State.fw _ rfl
theorem lsNext_life (k : Nat) : (s.lsNext k).life = { s.life with slot := k } := lsWrite_of _ State.life _ rfl
theorem lsNext_rd (k : Nat) {o : Nat} (h : o ≠ pgREC + RECORDER_LS_STAT) : (s.lsNext k).rd o = s.rd o :=
  (lsWrite_of (s.lif _) (fun u => u.rd o) _ (State.rd_put_of_ne _ _ h)).trans (State.lif_rd s _ o)
theorem lsNext_next {k : Nat} (hon : domOn s 194 = true) (hk : k < 256) : (s.lsNext k).get pgREC RECORDER_LS_STAT_NEXT = k := by
  unfold State.lsNext
  rw [lsWrite_get (s.lif _) _ _ _ hon]
  exact State.get_put_of_lt _ _ (by decide) hk

/-- A flush written, or an image prepared, leaves it as the one last flushed. -/
theorem flushed_life (m : List Host.Cell) : (s.flushed m).life =
    { s.life with flushed := m, ready := true, img := imgPut s.life.img 8 4 (imgGet m 8 4), lastAt := imgGet m 0x10 8 } :=
  lsWrite_of _ State.life _ rfl
theorem flushed_fw (m : List Host.Cell) : (s.flushed m).fw = s.fw := lsWrite_of _ State.fw _ rfl
theorem flushed_rd (m : List Host.Cell) {o : Nat} (h : o < pgREC) : (s.flushed m).rd o = s.rd o := by
  simp only [pgREC] at h
  refine lsWrite_of _ (fun u => u.rd o) _ ?_
  unfold State.put64
  rw [State.bump_rd _ _ (by simp only [pgREC]; omega), State.rd_wr_of_ne _ _ (by simp only [pgREC]; omega),
    State.rd_wr_of_ne _ _ (by simp only [pgREC]; omega), State.rd_wr_of_ne _ _ (by simp only [pgREC]; omega)]
theorem domOn_congr {s t : State} {n : Nat} (h : ∀ o < pgREC, t.rd o = s.rd o) (hn : n < 1024) : domOn t n = domOn s n := by
  unfold domOn
  rw [h _ (by simp only [pgPOWER, POWER_DOM_ON, pgREC]; omega)]
/-- FLUSHES counts a flush while the recorder's domain is on. -/
theorem flushed_flushes (m : List Host.Cell) : (s.flushed m).get pgREC RECORDER_LS_FLUSHES_COUNT =
    (s.get pgREC RECORDER_LS_FLUSHES_COUNT + b2n (domOn s 194)) % 2 ^ 32 := by
  have hlt := State.get_lt s pgREC RECORDER_LS_FLUSHES_COUNT
  unfold State.flushed State.lsWrite State.cond
  by_cases hon : domOn s 194 = true
  · rw [hon, if_pos (by exact hon), State.get_bump_self _ _ _ _ (by decide)]
    unfold State.put64
    rw [State.get_wr_of_ne _ _ _ (by decide), State.get_wr_of_ne _ _ _ (by decide), State.get_wr_of_ne _ _ _ (by decide)]
    rfl
  · rw [Bool.not_eq_true] at hon
    rw [hon, if_neg (by show ¬domOn s 194 = true; rw [hon]; decide)]
    exact (Nat.mod_eq_of_lt hlt).symm

/-! ### The base (R547 to R549) -/

theorem mergeRetired_life (m : List Host.Cell) : (s.mergeRetired m).2.life = s.life := lsWrite_of _ State.life _ rfl
theorem mergeRetired_fw (m : List Host.Cell) : (s.mergeRetired m).2.fw = s.fw := lsWrite_of _ State.fw _ rfl
theorem mergeRetired_rd (m : List Host.Cell) {o : Nat} (h : o ≠ pgREC + RECORDER_LS_STAT) : (s.mergeRetired m).2.rd o = s.rd o :=
  lsWrite_of _ (fun u => u.rd o) _ (State.bumpSat_rd _ _ h)
variable (base m : List Host.Cell) (st : Nat)
/-- The base adopted gives the image, its ISEQ and the STATE. -/
theorem takeBase_life : (s.takeBase base m st).life =
    { s.life with state := st, img := (s.mergeRetired m).1, baseSeq := imgGet base 8 4 } := by
  have hlife := (lsSet_life ((s.mergeRetired m).2.lsWrite fun s => s.put pgREC RECORDER_LS_STAT_FOREIGN
    (b2n (imgGet base 8 4 + imgGet base 0x18 8 != 0 && imgGet base 0x18 8 != deviceUid))) st)
  rw [lsWrite_of _ State.life _ rfl, mergeRetired_life] at hlife
  exact congrArg (fun l : LifeSt => { l with img := (s.mergeRetired m).1, baseSeq := imgGet base 8 4 }) hlife
theorem takeBase_fw : (s.takeBase base m st).fw = s.fw :=
  (lsSet_fw _ st).trans ((lsWrite_of _ State.fw _ rfl).trans (mergeRetired_fw s m))
theorem takeBase_rd {o : Nat} (h : o ≠ pgREC + RECORDER_LS_STAT) : (s.takeBase base m st).rd o = s.rd o :=
  (lsSet_rd _ st h).trans ((lsWrite_of _ (fun u => u.rd o) _ (State.rd_put_of_ne _ _ h)).trans (mergeRetired_rd s m h))
end

end Sys2Proof.Machine

/-! PROOFS. The messages about the lifetime records (spec/18_observability.md R549, R550): each is taken and answered by the rules of the rings
(`message_answers`), with what its action makes of the state that has taken it. -/
namespace Sys2Proof.Machine

/-- The low word of a sum of words at their places. -/
theorem foldl_words_low (w : Nat → Nat) (n : Nat) :
    (List.range (n + 1)).foldl (fun a k => a + w k * 2 ^ (32 * k)) 0 % 2 ^ 32 = w 0 % 2 ^ 32 := by
  induction n with
  | zero => simp
  | succ n ih =>
    rw [List.range_succ, List.foldl_append, ← ih]
    show (_ + w (n + 1) * 2 ^ (32 * (n + 1))) % 2 ^ 32 = _
    rw [show 32 * (n + 1) = 32 * n + 32 from rfl, Nat.pow_add, ← Nat.mul_assoc, Nat.add_mul_mod_self_right]
theorem reqWord_lt (s : State) (r k : Nat) : reqWord s r k < 2 ^ 32 := BitVec.isLt _

section
variable {s : State} {r : Nat}

theorem lifeInfo_answers (h : msgAt s r 0x0200) : ∃ t, exec (.lifeInfo r) s = .next t ∧ answeredAs s t r 0x0200 0 16 fun k =>
    [b2n s.cfg.optN + 2 * lsState s + 16 * (if s.cfg.optN then 255 - s.life.bad else 0), s.life.baseSeq, s.life.lastAt,
      s.life.lastAt / 2 ^ 32].getD k 0 := by
  show ∃ t, execLifeInfo r s = _ ∧ _
  unfold execLifeInfo
  refine ⟨_, message_answers h (by decide) (Nat.zero_le _) rfl (.refl ..), respond_answered h (by decide) (.refl ..) (by decide) (by decide) ?_⟩
  intro k hk
  obtain rfl | rfl | rfl | rfl : k = 0 ∨ k = 1 ∨ k = 2 ∨ k = 3 := by omega
  · rfl
  · rfl
  · exact Nat.mod_mod ..
  · rfl

/-! ### LIFE_FLUSH -/

variable (hw : s.life.writing = none) (hl : s.life.loaded = true)
include hw hl
theorem exec_lifeFlush (h : msgAt s r 0x0201) : exec (.lifeFlush r) s = message 0x0201 0 r (fun _ _ u =>
    if u.cfg.optN ∧ (nextGood u 0).isNone then (some (7, [], 0), u)
    else if u.cfg.optN then (none, u.flush (some (r, headSeq s r)))
    else (some (0, [], 0), u.flush none)) s := by
  show execLifeFlush r s = _
  unfold execLifeFlush
  rw [if_neg (by simp [hw, hl]), mboxAuto_waits h (by decide)]
theorem lifeFlush_prepares (h : msgAt s r 0x0201) (ho : s.cfg.optN = false) :
    ∃ t, exec (.lifeFlush r) s = .next t ∧ answeredAs s t r 0x0201 0 0 (fun _ => 0) ∧ t.life.ready = true := by
  have hflush : (s.takeReq r).flush none = ((s.takeReq r).flushed (flushImage (s.takeReq r))).irq pgREC 5 := if_pos (by simp [takeReq_cfg, ho])
  have hkeeps : KeepsRing r (s.takeReq r) ((s.takeReq r).flush none) := by
    have hrec := ring_below h.1
    rw [hflush]
    refine ⟨congrArg FwSt.owed ((State.irq_fw ..).trans (flushed_fw ..)), fun o _ ho => ?_⟩
    rw [State.irq_rd _ _ _ _ (by simp only [HDR_IRQ_STAT]; omega) (.inl (by omega)), flushed_rd _ _ (by omega)]
  rw [exec_lifeFlush hw hl h]
  refine ⟨_, message_answers (status := 0) (n := 0) (ws := []) h (by decide) (Nat.zero_le _) (by simp [takeReq_cfg, ho]) hkeeps,
    respond_answered h (by decide) hkeeps (by decide) (by decide) (fun k hk => by omega), ?_⟩
  rw [respond_life, hflush, State.irq_life, flushed_life]
theorem lifeFlush_noSlot (h : msgAt s r 0x0201) (ho : s.cfg.optN = true) (hnone : nextGood s 0 = none) :
    ∃ t, exec (.lifeFlush r) s = .next t ∧ answeredAs s t r 0x0201 7 0 (fun _ => 0) := by
  have hbar : (s.takeReq r).cfg.optN = true ∧ (nextGood (s.takeReq r) 0).isNone = true :=
    ⟨ho, by rw [show nextGood (s.takeReq r) 0 = nextGood s 0 from rfl, hnone]; rfl⟩
  rw [exec_lifeFlush hw hl h]
  exact message_status h (by decide) (Nat.zero_le _) (by decide) (if_pos hbar)
theorem lifeFlush_writes (h : msgAt s r 0x0201) {j k : Nat} (ho : s.cfg.optN = true) (hgood : nextGood s 0 = some j)
    (hslot : nextGood s s.life.slot = some k) : ∃ t, exec (.lifeFlush r) s = .next t ∧ takenOnly s t r ∧ t.life.writing = some k ∧
      t.life.reply = some (r, headSeq s r) := by
  have hflush : (s.takeReq r).flush (some (r, headSeq s r)) = (s.takeReq r).lif fun l => { l with
      next := flushImage (s.takeReq r), writing := some k, store := Sp.del l.store k, reply := some (r, headSeq s r) } := by
    unfold State.flush
    rw [if_neg (by simp [takeReq_cfg, ho]), show nextGood (s.takeReq r) (s.takeReq r).life.slot = some k from hslot]
  have hkeeps : KeepsRing r (s.takeReq r) ((s.takeReq r).flush (some (r, headSeq s r))) := by
    rw [hflush]
    exact keepsRing_of_eq rfl rfl rfl
  have hgood' : nextGood (s.takeReq r) 0 = some j := hgood
  rw [exec_lifeFlush hw hl h]
  obtain ⟨hnext, htaken⟩ := message_taken (need := 0) (act := fun _ _ u =>
    if u.cfg.optN ∧ (nextGood u 0).isNone then (some (7, [], 0), u)
    else if u.cfg.optN then (none, u.flush (some (r, headSeq s r)))
    else (some (0, [], 0), u.flush none)) h (by decide) (Nat.zero_le _) (by simp [takeReq_cfg, ho, hgood']) hkeeps
  refine ⟨_, hnext, htaken, ?_, ?_⟩ <;> rw [hflush] <;> rfl
end

/-! ### LIFE_READ -/

/-- The words of a reply that has as many of them as its payload. -/
theorem getD_map_range (w : Nat → Nat) {k n : Nat} (hk : 4 * k < n) (hn : n % 4 = 0) : ((List.range (n / 4)).map w).getD k 0 = w k := by
  rw [List.getD_eq_getElem _ _ (by simp; omega)]
  simp

section
variable {s : State} {r : Nat} (h : msgAt s r 0x0202)
include h

theorem lifeRead_short (hlen : headLen s r < 4) : ∃ t, exec (.lifeRead r) s = .next t ∧ answeredAs s t r 0x0202 2 0 fun _ => 0 := by
  show ∃ t, execLifeRead r s = _ ∧ _
  unfold execLifeRead
  exact ⟨_, message_short h (by decide) hlen, respond_answered h (by decide) (.refl ..) (by decide) (by decide) fun k hk => by omega⟩
theorem lifeRead_outside (hlen : 4 ≤ headLen s r) (hoff : reqWord s r 4 % 4 ≠ 0 ∨ imgSize ≤ reqWord s r 4) :
    ∃ t, exec (.lifeRead r) s = .next t ∧ answeredAs s t r 0x0202 3 0 fun _ => 0 := by
  have hword : (reqWords s r).getD 0 0 = reqWord s r 4 := reqWords_getD s r (show 0 < 12 by decide)
  show ∃ t, execLifeRead r s = _ ∧ _
  unfold execLifeRead
  refine message_status h (by decide) hlen (by decide) ?_
  dsimp only
  rw [hword, if_pos hoff]
theorem lifeRead_ready (hlen : 4 ≤ headLen s r) (halign : reqWord s r 4 % 4 = 0) (hin : reqWord s r 4 < imgSize)
    (hready : s.life.ready = true) : ∃ t, exec (.lifeRead r) s = .next t ∧
      answeredAs s t r 0x0202 0 (min 48 (imgSize - reqWord s r 4)) fun k => imgGet s.life.flushed (reqWord s r 4 + 4 * k) 4 := by
  have hword : (reqWords s r).getD 0 0 = reqWord s r 4 := reqWords_getD s r (show 0 < 12 by decide)
  have hready' : (s.takeReq r).life.ready = true := hready
  show ∃ t, execLifeRead r s = _ ∧ _
  unfold execLifeRead
  refine ⟨_, message_answers h (by decide) hlen (status := 0) (n := min 48 (imgSize - reqWord s r 4))
      (ws := (List.range (min 48 (imgSize - reqWord s r 4) / 4)).map fun k => imgGet s.life.flushed (reqWord s r 4 + 4 * k) 4) ?_ (.refl ..),
    respond_answered h (by decide) (.refl ..) (by decide) (Nat.min_le_left ..) fun k hk => ?_⟩
  · dsimp only
    rw [hword, if_neg (by omega), if_pos hready']
    rfl
  · rw [getD_map_range _ hk (by simp only [imgSize] at hin ⊢; omega)]
theorem lifeRead_free (hlen : 4 ≤ headLen s r) (halign : reqWord s r 4 % 4 = 0) (hin : reqWord s r 4 < imgSize)
    (hready : s.life.ready = false) : ∃ t w, exec (.lifeRead r) s = .next t ∧
      answeredAs s t r 0x0202 0 (min 48 (imgSize - reqWord s r 4)) w := by
  have hword : (reqWords s r).getD 0 0 = reqWord s r 4 := reqWords_getD s r (show 0 < 12 by decide)
  have hready' : (s.takeReq r).life.ready = false := hready
  have hkeeps : KeepsRing r (s.takeReq r) (s.takeReq r).draw.2.draw.2 := keepsRing_of_eq rfl rfl rfl
  show ∃ t w, execLifeRead r s = _ ∧ _
  unfold execLifeRead
  refine ⟨_, _, message_answers h (by decide) hlen (status := 0) (n := min 48 (imgSize - reqWord s r 4))
      (ws := (List.range (min 48 (imgSize - reqWord s r 4) / 4)).map fun k =>
        bits ((s.takeReq r).draw.1 + 2 ^ 256 * (s.takeReq r).draw.2.draw.1) (32 * k + 31) (32 * k)) ?_ hkeeps,
    respond_answered h (by decide) hkeeps (by decide) (Nat.min_le_left ..) fun k _ => rfl⟩
  dsimp only
  rw [hword, if_neg (by omega), hready', if_neg (by decide)]
end

/-! ### LIFE_LOAD and LIFE_COMMIT -/

section
variable {s : State} {r : Nat}

theorem lifeLoad_withStore (h : msgAt s r 0x0203) (ho : s.cfg.optN = true) :
    ∃ t, exec (.lifeLoad r) s = .next t ∧ answeredAs s t r 0x0203 1 0 fun _ => 0 := by
  show ∃ t, execLifeLoad r s = _ ∧ _
  unfold execLifeLoad
  exact message_status h (by decide) (Nat.zero_le _) (by decide) (if_pos ho)
theorem lifeLoad_denied (h : msgAt s r 0x0203) (ho : s.cfg.optN = false) (hown : ringOwns s r 19 = false) :
    ∃ t, exec (.lifeLoad r) s = .next t ∧ answeredAs s t r 0x0203 6 0 fun _ => 0 := by
  show ∃ t, execLifeLoad r s = _ ∧ _
  unfold execLifeLoad
  refine message_status h (by decide) (Nat.zero_le _) (by decide) ?_
  dsimp only
  rw [takeReq_cfg, ho, if_neg (by decide), takeReq_ringOwns, hown, if_pos (by decide)]
theorem lifeLoad_loads (h : msgAt s r 0x0203) (ho : s.cfg.optN = false) (hown : ringOwns s r 19 = true) (hlen : headLen s r = 8)
    (halign : reqWord s r 4 % 4 = 0) (hin : reqWord s r 4 + 4 ≤ imgSize) (hwf : Mem.wf s.life.buf = true) :
    ∃ t, exec (.lifeLoad r) s = .next t ∧ answeredAs s t r 0x0203 0 0 (fun _ => 0) ∧ imgGet t.life.buf (reqWord s r 4) 4 = reqWord s r 5 := by
  have hword : (reqWords s r).getD 0 0 = reqWord s r 4 := reqWords_getD s r (show 0 < 12 by decide)
  have hdata : (reqWords s r).getD 1 0 = reqWord s r 5 := reqWords_getD s r (show 1 < 12 by decide)
  have hact : ∀ x, KeepsRing r (s.takeReq r) ((s.takeReq r).lif fun l => { l with buf := imgPut l.buf (reqWord s r 4) 4 x }) := fun _ =>
    keepsRing_of_eq rfl rfl rfl
  show ∃ t, execLifeLoad r s = _ ∧ _
  unfold execLifeLoad
  refine ⟨_, message_answers (ws := []) h (by decide) (Nat.zero_le _) ?_ (hact ((List.range 11).foldl (fun a k =>
    a + (reqWords s r).getD (k + 1) 0 * 2 ^ (32 * k)) 0)), respond_answered h (by decide) (hact _) (by decide) (by decide) fun k hk => by omega, ?_⟩
  · dsimp only
    rw [takeReq_cfg, ho, if_neg (by decide), takeReq_ringOwns, hown, if_neg (by decide), hword, hlen, if_neg (by omega),
      if_neg (by omega)]
  · rw [respond_life]
    refine (Mem.readN_writeN 4 s.life.buf (reqWord s r 4) _ hwf).trans ?_
    show _ % 2 ^ 32 = _
    rw [foldl_words_low (fun k => (reqWords s r).getD (k + 1) 0) 10, hdata]
    exact Nat.mod_eq_of_lt (reqWord_lt ..)

theorem lifeCommit_withStore (h : msgAt s r 0x0204) (ho : s.cfg.optN = true) :
    ∃ t, exec (.lifeCommit r) s = .next t ∧ answeredAs s t r 0x0204 1 0 fun _ => 0 := by
  show ∃ t, execLifeCommit r s = _ ∧ _
  unfold execLifeCommit
  exact message_status h (by decide) (Nat.zero_le _) (by decide) (if_pos ho)
theorem lifeCommit_denied (h : msgAt s r 0x0204) (ho : s.cfg.optN = false) (hown : ringOwns s r 19 = false) :
    ∃ t, exec (.lifeCommit r) s = .next t ∧ answeredAs s t r 0x0204 6 0 fun _ => 0 := by
  show ∃ t, execLifeCommit r s = _ ∧ _
  unfold execLifeCommit
  refine message_status h (by decide) (Nat.zero_le _) (by decide) ?_
  dsimp only
  rw [takeReq_cfg, ho, if_neg (by decide), takeReq_ringOwns, hown, if_pos (by decide)]
theorem lifeCommit_again (h : msgAt s r 0x0204) (ho : s.cfg.optN = false) (hown : ringOwns s r 19 = true) (hc : s.life.committed = true) :
    ∃ t, exec (.lifeCommit r) s = .next t ∧ answeredAs s t r 0x0204 4 0 fun _ => 0 := by
  show ∃ t, execLifeCommit r s = _ ∧ _
  unfold execLifeCommit
  refine message_status h (by decide) (Nat.zero_le _) (by decide) ?_
  dsimp only
  rw [takeReq_cfg, ho, if_neg (by decide), takeReq_ringOwns, hown, if_neg (by decide), takeReq_life, if_pos hc]
theorem lifeCommit_adopts (h : msgAt s r 0x0204) (ho : s.cfg.optN = false) (hown : ringOwns s r 19 = true) (hc : s.life.committed = false)
    (hl : s.life.loaded = true) (hv : imgValid s.life.buf = true) :
    ∃ t, exec (.lifeCommit r) s = .next t ∧ answeredAs s t r 0x0204 0 0 (fun _ => 0) ∧ t.life.committed = true ∧ lsState t = 2 ∧
      t.life.baseSeq = imgGet s.life.buf 8 4 := by
  have hkeeps : KeepsRing r (s.takeReq r) (((s.takeReq r).takeBase s.life.buf (lifeAdd (mergeImage s.life.buf s.life.img) 1 1) 2).lif
      fun l => { l with committed := true }) := by
    have hrec := ring_below h.1
    exact ⟨congrArg FwSt.owed (takeBase_fw ..), fun o _ ho => takeBase_rd _ _ _ _ (by omega)⟩
  show ∃ t, execLifeCommit r s = _ ∧ _
  unfold execLifeCommit
  refine ⟨_, message_answers h (by decide) (Nat.zero_le _) (status := 0) (n := 0) (ws := []) ?_ hkeeps,
    respond_answered h (by decide) hkeeps (by decide) (by decide) (fun k hk => by omega), ?_, ?_, ?_⟩
  · dsimp only
    rw [takeReq_cfg, ho, if_neg (by decide), takeReq_ringOwns, hown, if_neg (by decide), takeReq_life, hc, if_neg (by decide), hl, hv,
      if_neg (by decide)]
  · rw [respond_life]
    rfl
  · unfold lsState
    rw [respond_life, State.lif_life, takeBase_life]
  · rw [respond_life, State.lif_life, takeBase_life]
end

/-- Settles O48: each message is taken, and answered with what its action leaves. -/
theorem lifeMessages : Obligations.LifeMessages := by
  refine ⟨fun s r h => lifeInfo_answers h, fun s r h hw hl =>
      ⟨lifeFlush_prepares hw hl h, lifeFlush_noSlot hw hl h, fun j k => lifeFlush_writes hw hl h⟩,
    fun s r h => ⟨lifeRead_short h, lifeRead_outside h, lifeRead_ready h, lifeRead_free h⟩,
    fun s r h => ⟨lifeLoad_withStore h, lifeLoad_denied h, lifeLoad_loads h⟩,
    fun s r h => ⟨lifeCommit_withStore h, lifeCommit_denied h, lifeCommit_again h, lifeCommit_adopts h⟩⟩

end Sys2Proof.Machine

/-! PROOFS. The field-test messages (spec/19_test.md R569): a ring that owns group 20 has its message acted on, and the test that it starts keeps
the rings, so the message is taken and its answer waits for the end. -/
namespace Sys2Proof.Machine

/-! ### A test that starts -/

/-- The state in which a test that may start is begun. -/
def ftBegun (s : State) (op : Nat) (f : FieldTest) : State :=
  ((((s.put pgTEST TEST_FT_STAT_OP op).put pgTEST TEST_FT_STAT_BUSY 1).put pgTEST TEST_FT_STAT_PHASE (if op = 1 then 1 else 2)).tst fun t =>
    { t with ft := some f })
/-- The RESULT of a test that may not start, by its operation. -/
def testBar (s : State) (op layer unit depth : Nat) : Option Nat := match op with
  | 1 => rimTestBar s layer unit
  | 2 => planeTestBar s unit
  | 3 => linkTestBar s unit depth
  | _ => syncTestBar s

section
variable {s : State} {r : Nat}

theorem ftStart_begins (m : Master) {op layer unit depth : Nat} (reply : Option (Nat × Nat)) (hft : s.test.ft = none)
    (hbar : testBar s op layer unit depth = none) : s.ftStart m op layer unit depth reply =
      (ftBegun s op { op, layer, unit, depth, start := s.now, since := s.pcNow, abort := false, reply }).ftBegin op layer unit depth := by
  unfold State.ftStart
  rw [hft, if_neg (by decide)]
  dsimp only
  change (match testBar s op layer unit depth with | some r => _ | none => _) = _
  rw [hbar]
  rfl
theorem ftBegun_rd (op : Nat) (f : FieldTest) {o : Nat} (ho : o ≠ pgTEST + TEST_FT_STAT) : (ftBegun s op f).rd o = s.rd o := by
  unfold ftBegun
  rw [State.tst_rd, State.rd_put_of_ne _ _ ho, State.rd_put_of_ne _ _ ho, State.rd_put_of_ne _ _ ho]
theorem ftBegin_root (s : State) (op layer unit depth : Nat) : (s.ftBegin op layer unit depth).root = s.root := by
  unfold State.ftBegin
  split
  · exact (copyQueue_root ..).trans rfl
  · rfl
  · exact (root_of_stem (stem_of_bare (bare_eq (lpStart_sansRec ..)))).trans rfl
  · rfl
theorem ftBegin_rd (s : State) (op layer unit depth : Nat) (hunit : op = 3 → unit < 4) {o : Nat} (hlo : pgMBCTL ≤ o) (hhi : o < pgREC) :
    (s.ftBegin op layer unit depth).rd o = s.rd o := by
  simp only [pgMBCTL, pgREC] at hlo hhi
  have hlink : OffLink o := ⟨.inr (by simp only [pgLINK]; omega), .inl hhi⟩
  unfold State.ftBegin
  split
  · rw [show State.copyStart _ layer unit unit 16 (ftTid s) = State.copyQueue _ layer _ from rfl,
      copyQueue_rd _ _ _ (State.get_lt s pgTEST TEST_FT_CFG_TID) (by simp only [pgHCMD]; omega),
      setRole_rd _ _ _ _ (by simp only [layerBase]; omega), clearRim_rd _ _ _ _ (by simp only [pgINTEG, INTEG_WB_CANCEL]; omega)]
  · unfold State.planeChange State.setPlane
    dsimp only
    rw [State.hubf_rd, State.rd_put_of_ne, State.rd_put_of_ne]
    · split <;> simp only [pgHUB, HUB_PLANE_CTL_OFF_A, HUB_PLANE_CTL_OFF_B] <;> omega
    · split <;> simp only [pgHUB, HUB_PLANE_STAT_A_STATE, HUB_PLANE_STAT_B_STATE] <;> omega
  · rw [lpStart_rd _ _ (hunit rfl) hlink, State.rd_wr_of_ne _ _ (by simp only [pgTEST, TEST_LB_ERR]; omega),
      lpPut_rd _ _ _ _ (hunit rfl) (by decide) hlink, lpPut_rd _ _ _ _ (hunit rfl) (by decide) hlink]
  · rfl
/-- A test that starts keeps every ring. -/
theorem ftStarted_keepsRing (op layer unit depth : Nat) (f : FieldTest) (hr : r < 2) (hunit : op = 3 → unit < 4) :
    KeepsRing r s ((ftBegun s op f).ftBegin op layer unit depth) := by
  refine ⟨(congrArg (fun u : State => u.fw.owed) (ftBegin_root (ftBegun s op f) op layer unit depth) :), fun o hlo hhi => ?_⟩
  have hrec := ring_below hr
  rw [ftBegin_rd _ _ _ _ _ hunit (by simp only [pgMBCTL, mboxBase] at *; omega) (by omega),
    ftBegun_rd _ _ (by simp only [pgTEST, TEST_FT_STAT, pgREC] at *; omega)]
theorem ftStarted_test (op layer unit depth : Nat) (f : FieldTest) :
    ((ftBegun s op f).ftBegin op layer unit depth).test.ft = some f :=
  (congrArg (fun u : State => u.test.ft) (ftBegin_root (ftBegun s op f) op layer unit depth) :)

/-! ### The bars do not depend on the rings -/

theorem takeReq_get_far (s : State) (r : Nat) {a : Nat} {f : Fld} (h : a + f.off < pgMBCTL ∨ pgREC ≤ a + f.off) (hr : r < 2) :
    (s.takeReq r).get a f = s.get a f := by
  have hrec := ring_below hr
  unfold State.get
  rw [takeReq_rd _ _ (by simp only [mboxBase, MBOX_MB_STAT, pgMBCTL] at *; omega)]
theorem takeReq_rimTestBar (s : State) (hr : r < 2) (layer i : Nat) : rimTestBar (s.takeReq r) layer i = rimTestBar s layer i := by
  have hrec := ring_below hr
  have hmap : physOf (s.takeReq r) layer i = physOf s layer i := by
    unfold physOf
    rw [takeReq_rd _ _ (by simp only [mboxBase, MBOX_MB_STAT, layerBase, pgREC] at *; omega)]
  unfold rimTestBar rimUp
  rw [hmap]
  unfold spareRole rimPower
  rw [takeReq_get_far s r (.inr (by simp only [layerBase, pgREC]; omega)) hr, takeReq_get_far s r (.inr (by simp only [layerBase, pgREC]; omega)) hr,
    takeReq_get_far s r (.inr (by simp only [rimBase, layerBase, pgREC]; omega)) hr]
  rfl
theorem takeReq_planeTestBar (s : State) (hr : r < 2) (p : Nat) : planeTestBar (s.takeReq r) p = planeTestBar s p := by
  have hplane : (s.takeReq r).rd (pgHUB + HUB_PLANE_STAT) = s.rd (pgHUB + HUB_PLANE_STAT) :=
    takeReq_rd _ _ (by simp only [mboxBase, MBOX_MB_STAT, pgHUB, HUB_PLANE_STAT]; omega)
  have hparked : parked (s.takeReq r) = parked s := by
    unfold parked lcState
    rw [takeReq_get_far s r (.inl (by decide)) hr, takeReq_get_far s r (.inr (by decide)) hr]
  unfold planeTestBar
  rw [planeState_of_rd hplane, planeState_of_rd hplane, hparked]
  rfl
theorem takeReq_linkTestBar (s : State) (hr : r < 2) {p : Nat} (hp : p < 4) (depth : Nat) :
    linkTestBar (s.takeReq r) p depth = linkTestBar s p depth := by
  unfold linkTestBar lpState
  rw [takeReq_get_far s r (.inl (by simp only [pgLINK, pgMBCTL, LINK_P_STAT_STATE]; omega)) hr]
  rfl
theorem takeReq_syncTestBar (s : State) (hr : r < 2) : syncTestBar (s.takeReq r) = syncTestBar s := by
  have hports : (List.range 72).all (fun x => decide (portState (s.takeReq r) x < 2)) =
      (List.range 72).all (fun x => decide (portState s x < 2)) := by
    rw [Bool.eq_iff_iff, List.all_eq_true, List.all_eq_true]
    refine forall₂_congr fun x hx => ?_
    rw [List.mem_range] at hx
    unfold portState
    rw [takeReq_get_far s r (.inl (by simp only [portBase, pgMBCTL, PORT_PSTAT_STATE]; omega)) hr]
  have hrings : ringsOn (s.takeReq r) = ringsOn s := by
    refine List.filter_congr fun n hn => ?_
    rw [List.mem_range] at hn
    unfold ringOn ringGet
    rw [takeReq_get_far s r (.inl (by simp only [ringBase, pgMBCTL, SYNC_RING_RCFG0_EN]; split <;> omega)) hr]
  have hbars : (List.range 64).all (fun n => !barOn (s.takeReq r) n) = (List.range 64).all (fun n => !barOn s n) := by
    rw [Bool.eq_iff_iff, List.all_eq_true, List.all_eq_true]
    refine forall₂_congr fun n hn => ?_
    rw [List.mem_range] at hn
    unfold barOn barGet
    rw [takeReq_get_far s r (.inl (by simp only [pgSYNCBAR, pgMBCTL, SYNC_BAR_BCFG_EN]; omega)) hr]
  unfold syncTestBar lcState
  rw [hports, hrings, hbars, takeReq_get_far s r (.inr (by decide)) hr]

/-! ### The messages -/

variable {typ need : Nat} {act : List Nat → State → Reply × State}

theorem ftFrom_eq (h : msgAt s r typ) (htyp : typ ∈ mbTypes) : ftFrom s r = some (r, headSeq s r) := by
  unfold ftFrom
  rw [mboxAuto_waits h htyp]
/-- What the message of a field test does with the state that has taken it. -/
def ftAct (typ r : Nat) (act : List Nat → State → Reply × State) (w : List Nat) (s : State) : Reply × State :=
  if !ringOwns s r 20 ∨ lcState s = 4 ∨ (typ = 0x8103 ∧ lcState s = 2) then (some (6, [], 0), s) else act w s
theorem ftMessage_eq (hre : s.flag pgTEST TEST_BST_STAT_REAPPLIED = true) :
    ftMessage typ need r act s = message typ need r (fun _ w u => ftAct typ r act w u) s := by
  unfold ftMessage
  rw [hre, if_neg (by decide)]
  rfl
/-- A message that the ring may send, in a state of the lifecycle that admits it, is acted on. -/
theorem ftAct_admitted (h : testMsgAt s r typ) (w : List Nat) : ftAct typ r act w (s.takeReq r) = act w (s.takeReq r) := by
  obtain ⟨hmsg, -, hown, hret, hsync⟩ := h
  refine if_neg ?_
  unfold lcState at hret hsync ⊢
  rw [takeReq_ringOwns, hown, takeReq_get_far s r (.inr (by decide)) hmsg.1]
  simpa [hret] using hsync
/-- A message that starts a test which may start is taken, and its answer waits for the end. -/
theorem ftMessage_starts (h : testMsgAt s r typ) (htyp : typ ∈ mbTypes) (hneed : need ≤ headLen s r) (hft : s.test.ft = none)
    {op layer unit depth : Nat} (hbar : testBar (s.takeReq r) op layer unit depth = none) (hunit : op = 3 → unit < 4)
    (hact : act (reqWords s r) (s.takeReq r) = (none, (s.takeReq r).ftStart .em1 op layer unit depth (some (r, headSeq s r)))) :
    ftMessage typ need r act s = .next ((s.takeReq r).ftStart .em1 op layer unit depth (some (r, headSeq s r))) ∧
      takenOnly s ((s.takeReq r).ftStart .em1 op layer unit depth (some (r, headSeq s r))) r ∧
      ((s.takeReq r).ftStart .em1 op layer unit depth (some (r, headSeq s r))).test.ft =
        some { op, layer, unit, depth, start := s.now, since := s.pcNow, abort := false, reply := some (r, headSeq s r) } := by
  have hstart := ftStart_begins .em1 (some (r, headSeq s r)) (s := s.takeReq r) hft hbar
  have hkeeps : KeepsRing r (s.takeReq r) ((s.takeReq r).ftStart .em1 op layer unit depth (some (r, headSeq s r))) := by
    rw [hstart]
    exact ftStarted_keepsRing _ _ _ _ _ h.1.1 hunit
  obtain ⟨hnext, htaken⟩ := message_taken (need := need) (act := fun _ w u => ftAct typ r act w u) h.1 htyp hneed
    ((ftAct_admitted h _).trans hact) hkeeps
  refine ⟨(ftMessage_eq h.2.1).trans hnext, htaken, ?_⟩
  rw [hstart]
  exact ftStarted_test ..

theorem ftRim_starts (h : testMsgAt s r 0x8100) (hft : s.test.ft = none) (hneed : 4 ≤ headLen s r)
    (hbar : rimTestBar s (bits (reqWord s r 4) 6 4) (bits (reqWord s r 4) 3 0) = none) :
    ∃ t, exec (.ftRim r) s = .next t ∧ takenOnly s t r ∧ t.test.ft = some
      { op := 1, layer := bits (reqWord s r 4) 6 4,
        unit := bits (reqWord s r 4) 3 0, depth := 0, start := s.now, since := s.pcNow, abort := false, reply := some (r, headSeq s r) } := by
  have hword : (reqWords s r).getD 0 0 = reqWord s r 4 := reqWords_getD s r (by decide)
  show ∃ t, execFtRim r s = _ ∧ _
  unfold execFtRim
  refine ⟨_, ftMessage_starts h (by decide) hneed hft (op := 1) ((takeReq_rimTestBar s h.1.1 _ _).trans hbar) nofun ?_⟩
  dsimp only
  rw [hword, ftFrom_eq h.1 (by decide)]
theorem ftPlane_starts (h : testMsgAt s r 0x8101) (hft : s.test.ft = none) (hneed : 4 ≤ headLen s r)
    (hbar : planeTestBar s (reqWord s r 4 % 2) = none) :
    ∃ t, exec (.ftPlane r) s = .next t ∧ takenOnly s t r ∧ t.hub.change = some (reqWord s r 4 % 2, true) ∧
      t.test.ft = some
      { op := 2, layer := 0, unit := reqWord s r 4 % 2, depth := 0, start := s.now,
        since := s.pcNow, abort := false, reply := some (r, headSeq s r) } := by
  have hword : (reqWords s r).getD 0 0 = reqWord s r 4 := reqWords_getD s r (by decide)
  have hbar' : testBar (s.takeReq r) 2 0 (reqWord s r 4 % 2) 0 = none := (takeReq_planeTestBar s h.1.1 _).trans hbar
  show ∃ t, execFtPlane r s = _ ∧ _
  unfold execFtPlane
  obtain ⟨hnext, htaken, htest⟩ := ftMessage_starts (need := 4) (act := fun w u =>
    (none, u.ftStart .em1 2 0 (w.getD 0 0 % 2) 0 (ftFrom s r))) h (by decide) hneed hft hbar' nofun
      (by rw [hword, ftFrom_eq h.1 (by decide)])
  refine ⟨_, hnext, htaken, ?_, htest⟩
  rw [ftStart_begins _ _ (s := s.takeReq r) hft hbar']
  rfl
theorem ftLink_starts (h : testMsgAt s r 0x8102) (hft : s.test.ft = none) (hneed : 4 ≤ headLen s r)
    (hbar : linkTestBar s (bits (reqWord s r 4) 1 0) (bits (reqWord s r 4) 5 4) = none) :
    ∃ t, exec (.ftLink r) s = .next t ∧ takenOnly s t r ∧ t.test.ft = some
      { op := 3, layer := 0, unit := bits (reqWord s r 4) 1 0,
        depth := bits (reqWord s r 4) 5 4, start := s.now, since := s.pcNow, abort := false, reply := some (r, headSeq s r) } := by
  have hword : (reqWords s r).getD 0 0 = reqWord s r 4 := reqWords_getD s r (by decide)
  have hunit : bits (reqWord s r 4) 1 0 < 4 := Nat.mod_lt _ (by decide)
  show ∃ t, execFtLink r s = _ ∧ _
  unfold execFtLink
  refine ⟨_, ftMessage_starts h (by decide) hneed hft (op := 3) ((takeReq_linkTestBar s h.1.1 hunit _).trans hbar) (fun _ => hunit) ?_⟩
  dsimp only
  rw [hword, ftFrom_eq h.1 (by decide)]
theorem ftSync_starts (h : testMsgAt s r 0x8103) (hft : s.test.ft = none) (hbar : syncTestBar s = none) :
    ∃ t, exec (.ftSync r) s = .next t ∧ takenOnly s t r ∧ t.test.ft =
      some { op := 4, layer := 0, unit := 0, depth := 0, start := s.now, since := s.pcNow, abort := false, reply := some (r, headSeq s r) } := by
  show ∃ t, execFtSync r s = _ ∧ _
  unfold execFtSync
  refine ⟨_, ftMessage_starts h (by decide) (Nat.zero_le _) hft (op := 4) ((takeReq_syncTestBar s h.1.1).trans hbar) nofun ?_⟩
  rw [ftFrom_eq h.1 (by decide)]
theorem ftResult_denied (h : msgAt s r 0x8105) (hre : s.flag pgTEST TEST_BST_STAT_REAPPLIED = true) (hown : ringOwns s r 20 = false) :
    ∃ t, exec (.ftResult r) s = .next t ∧ answeredAs s t r 0x8105 6 0 fun _ => 0 := by
  show ∃ t, execFtResult r s = _ ∧ _
  unfold execFtResult
  rw [ftMessage_eq hre]
  refine message_status h (by decide) (Nat.zero_le _) (by decide) (if_pos (.inl ?_))
  rw [takeReq_ringOwns, hown]
  rfl
theorem ftResult_answers (h : testMsgAt s r 0x8105) :
    ∃ t, exec (.ftResult r) s = .next t ∧ answeredAs s t r 0x8105 0 16 fun k => (ftWords s).getD k 0 := by
  have hrec := ring_below h.1.1
  have hwords : ftWords (s.takeReq r) = ftWords s := by
    refine List.map_congr_left fun o ho => ?_
    rw [takeReq_rd _ _ (by simp only [mboxBase, MBOX_MB_STAT, pgTEST, pgREC] at *; omega)]
  show ∃ t, execFtResult r s = _ ∧ _
  unfold execFtResult
  rw [ftMessage_eq h.2.1]
  refine ⟨_, message_answers (ws := ftWords s) h.1 (by decide) (Nat.zero_le _) ((ftAct_admitted h _).trans ?_) (.refl ..),
    respond_answered h.1 (by decide) (.refl ..) (by decide) (by decide) fun _ _ => rfl⟩
  rw [hwords]
/-- An abort only marks an isolation test, and does nothing where no test runs. -/
theorem ftAbort_isolation (s : State) (hop : (s.test.ft.all fun f => f.op != 1) = true) :
    s.ftAbort.test.ft = s.test.ft.map (fun f => { f with abort := true }) ∧ s.ftAbort.regs = s.regs ∧ s.ftAbort.cfg = s.cfg ∧
      s.ftAbort.fw = s.fw := by
  unfold State.ftAbort
  cases hft : s.test.ft with
  | none => exact ⟨hft, rfl, rfl, rfl⟩
  | some f =>
    rw [hft] at hop
    have hne : f.op ≠ 1 := by simpa using hop
    dsimp only
    rw [if_neg fun hb => hne hb.1, if_neg hne]
    exact ⟨congrArg (Option.map _) hft, rfl, rfl, rfl⟩
theorem ftAbort_marks (h : testMsgAt s r 0x8104) (hop : (s.test.ft.all fun f => f.op != 1) = true) :
    ∃ t, exec (.ftAbort r) s = .next t ∧ answeredAs s t r 0x8104 0 0 (fun _ => 0) ∧
      t.test.ft = s.test.ft.map fun f => { f with abort := true } := by
  obtain ⟨htest, hregs, hcfg, hfw⟩ := ftAbort_isolation (s.takeReq r) hop
  have hkeeps : KeepsRing r (s.takeReq r) (s.takeReq r).ftAbort := keepsRing_of_eq hregs hcfg hfw
  show ∃ t, execFtAbort r s = _ ∧ _
  unfold execFtAbort
  rw [ftMessage_eq h.2.1]
  refine ⟨_, message_answers (ws := []) h.1 (by decide) (Nat.zero_le _) (ftAct_admitted h _) hkeeps,
    respond_answered h.1 (by decide) hkeeps (by decide) (by decide) (fun k hk => by omega), ?_⟩
  rw [respond_test]
  exact htest
end

/-- Settles O50: the four starts (`ftMessage_starts`), the refusal of a ring without group 20, and what FT_RESULT and FT_ABORT answer. -/
theorem testMessages : Obligations.TestMessages := by
  refine ⟨fun s r hft => ⟨fun h hneed hbar => ftRim_starts h hft hneed hbar, fun h hneed hbar => ftPlane_starts h hft hneed hbar,
    fun h hneed hbar => ftLink_starts h hft hneed hbar, fun h hbar => ftSync_starts h hft hbar⟩, ?_, ?_, ?_⟩
  · exact fun s r h hre hown => ftResult_denied h hre hown
  · exact fun s r h => ftResult_answers h
  · exact fun s r h hop => ftAbort_marks h hop

end Sys2Proof.Machine

/-! PROOFS. The Emlar cores (spec/17_control_and_firmware.md R513 to R520, R525): what stopping, loading and restarting a core, and a new epoch of
the rings, make of the cores' own fields, and what they leave. -/
namespace Sys2Proof.Machine

/-! ### What stays -/

/-- Nothing of the firmware has changed but what the cores have in their SRAM. -/
def SameFw (s t : State) : Prop := { t.fw with sram := s.fw.sram } = s.fw
theorem SameFw.refl (s : State) : SameFw s s := rfl
theorem SameFw.trans {s t u : State} (hst : SameFw s t) (htu : SameFw t u) : SameFw s u := by
  have h := congrArg (fun w : FwSt => { w with sram := s.fw.sram }) (show _ = t.fw from htu)
  exact h.trans hst
theorem SameFw.act {s t : State} (h : SameFw s t) : t.fw.act = s.fw.act := (congrArg FwSt.act h :)
theorem SameFw.active {s t : State} (h : SameFw s t) : t.fw.active = s.fw.active := (congrArg FwSt.active h :)
theorem SameFw.held {s t : State} (h : SameFw s t) : t.fw.held = s.fw.held := (congrArg FwSt.held h :)
theorem SameFw.kickAt {s t : State} (h : SameFw s t) : t.fw.kickAt = s.fw.kickAt := (congrArg FwSt.kickAt h :)

/-- A field of the MAILBOX_CTL page outside the header, and the state of a core. -/
abbrev Fld.ofCtl (f : Fld) : Prop := 0x40 ≤ f.off ∧ f.off < 4096 ∧ f.fits
theorem irq_ctl (s : State) (base k : Nat) (f : Fld) (h : f.ofCtl) (hb : base = pgMBCTL ∨ base + HDR_IRQ_STAT < pgMBCTL ∨ pgMBCTL + 4096 ≤ base) :
    (s.irq base k).get pgMBCTL f = s.get pgMBCTL f :=
  State.irq_get _ _ _ _ _ (by simp only [pgMBCTL, HDR_IRQ_STAT] at *; omega) (by simp only [pgMBCTL, pgREC]; omega)

section
variable (s : State) {n : Nat}

theorem coreStops_regs (st : Nat) : (s.coreStops n st).regs = (s.put pgMBCTL (emFld n MAILBOX_CTL_EM_STAT_STATE) st).regs := by
  unfold State.coreStops
  dsimp only
  split <;> rfl
theorem coreStops_cfg (st : Nat) : (s.coreStops n st).cfg = s.cfg := by
  unfold State.coreStops
  dsimp only
  split <;> rfl
theorem coreStops_now (st : Nat) : (s.coreStops n st).now = s.now := by
  unfold State.coreStops
  dsimp only
  split <;> rfl
theorem coreStops_get (st a : Nat) (f : Fld) :
    (s.coreStops n st).get a f = (s.put pgMBCTL (emFld n MAILBOX_CTL_EM_STAT_STATE) st).get a f :=
  State.get_congr (coreStops_regs s st) (coreStops_cfg s st) a f
theorem coreStops_rd (st : Nat) {o : Nat} (h : o ≠ pgMBCTL + MAILBOX_CTL_EM_STAT + 4 * n) : (s.coreStops n st).rd o = s.rd o :=
  (State.rd_congr (coreStops_regs s st) (coreStops_cfg s st) o).trans
    (State.rd_put_of_ne _ _ (by show o ≠ pgMBCTL + (MAILBOX_CTL_EM_STAT + 4 * n); omega))
theorem coreStops_sameFw (st : Nat) : SameFw s (s.coreStops n st) := by
  unfold State.coreStops
  dsimp only
  split <;> rfl

end

/-- A field of the EM_STAT registers. -/
abbrev Fld.ofCore (f : Fld) : Prop := f.off = MAILBOX_CTL_EM_STAT ∧ f.fits
section
variable (s : State) {n k : Nat} {f g : Fld}

theorem emPut_self (v : Nat) (hf : f.ofCore) (hv : v < 2 ^ (f.hi + 1 - f.lo)) :
    (s.put pgMBCTL (emFld n f) v).get pgMBCTL (emFld n f) = v := State.get_put_of_lt _ _ (Fld.at_fits 4 n hf.2) hv
theorem emPut_apart (v : Nat) (hf : f.ofCore) (hg : g.ofCore) (h : k ≠ n ∨ g.hi < f.lo ∨ f.hi < g.lo) :
    (s.put pgMBCTL (emFld n f) v).get pgMBCTL (emFld k g) = s.get pgMBCTL (emFld k g) := by
  obtain ⟨hfoff, hfits⟩ := hf
  obtain ⟨hgoff, -⟩ := hg
  refine State.get_put_page _ _ _ _ _ (Fld.at_fits 4 n hfits) (h.imp (fun hne => ?_) id)
  show f.off + 4 * n ≠ g.off + 4 * k
  omega
theorem irq_core (b : Nat) (hg : g.ofCore) (hk : k < 2) (hb : b = pgMBCTL ∨ b + HDR_IRQ_STAT < pgMBCTL ∨ pgMBCTL + 4096 ≤ b) (j : Nat) :
    (s.irq b j).get pgMBCTL (emFld k g) = s.get pgMBCTL (emFld k g) := by
  obtain ⟨hoff, hfits⟩ := hg
  have hat : (emFld k g).off = MAILBOX_CTL_EM_STAT + 4 * k := congrArg (· + 4 * k) hoff
  simp only [MAILBOX_CTL_EM_STAT] at hat
  exact irq_ctl _ _ _ _ ⟨by omega, by omega, Fld.at_fits 4 k hfits⟩ hb

/-- A core that stops is in the state given; the other keeps its own. -/
theorem emState_coreStops {st : Nat} (hst : st < 16) (k : Nat) : emState (s.coreStops n st) k = if k = n then st else emState s k := by
  unfold emState
  rw [coreStops_get]
  split
  next h =>
    subst h
    exact emPut_self s st ⟨rfl, by decide⟩ hst
  next h => exact emPut_apart s st ⟨rfl, by decide⟩ ⟨rfl, by decide⟩ (.inl h)
/-- A field of a core's register other than the state is kept. -/
theorem coreStops_fld (st : Nat) (hg : g.ofCore) (h : g.hi < 28) : (s.coreStops n st).get pgMBCTL (emFld k g) = s.get pgMBCTL (emFld k g) := by
  rw [coreStops_get]
  exact emPut_apart s st ⟨rfl, by decide⟩ hg (.inr (.inl h))

/-! ### Loading (R513) -/

theorem loadCore_rd (cause : Nat) {o : Nat} (h : o ≠ pgMBCTL + MAILBOX_CTL_EM_STAT + 4 * n) (hirq : o ≠ pgMBCTL + HDR_IRQ_STAT)
    (hrec : o < pgREC ∨ pgREC + 4096 ≤ o) : (s.loadCore n cause).rd o = s.rd o := by
  have hoff : ∀ f : Fld, f.off = MAILBOX_CTL_EM_STAT → o ≠ pgMBCTL + (emFld n f).off := fun f hf => by
    show o ≠ pgMBCTL + (f.off + 4 * n)
    omega
  unfold State.loadCore
  dsimp only
  rw [State.cond_rd, State.irq_rd _ _ _ _ hirq hrec, State.bump_rd _ _ (hoff _ rfl), ite_self, State.rd_put_of_ne _ _ (hoff _ rfl),
    coreStops_rd _ _ h]
theorem loadCore_sameFw (cause : Nat) : SameFw s (s.loadCore n cause) := by
  have hstops := coreStops_sameFw s (n := n) 1
  unfold State.loadCore State.cond
  dsimp only
  split
  · unfold SameFw
    rw [State.irq_fw]
    exact hstops
  · exact hstops
theorem loadCore_now (cause : Nat) : (s.loadCore n cause).now = s.now := by
  unfold State.loadCore State.cond
  dsimp only
  split
  · exact (State.irq_now ..).trans (coreStops_now s 1)
  · exact coreStops_now s 1
/-- A core that begins to load is in LOAD; the other keeps its state. -/
theorem emState_loadCore (cause : Nat) (hk : k < 2) : emState (s.loadCore n cause) k = if k = n then 1 else emState s k := by
  have hstops := emState_coreStops s (n := n) (show 1 < 16 by decide) k
  have hcause : emState ((s.coreStops n 1).put pgMBCTL (emFld n MAILBOX_CTL_EM_STAT_CAUSE) cause) k = emState (s.coreStops n 1) k :=
    emPut_apart _ _ ⟨rfl, by decide⟩ ⟨rfl, by decide⟩ (.inr (.inr (by decide)))
  rw [← hstops, ← hcause]
  unfold State.loadCore State.cond
  dsimp only
  split
  · refine (irq_core _ _ ⟨rfl, by decide⟩ hk (.inl rfl) _).trans ?_
    exact emPut_apart _ _ ⟨rfl, by decide⟩ ⟨rfl, by decide⟩ (.inr (.inr (by decide)))
  · rfl

/-! Several cores loaded. -/

theorem each_loadCore_rd (cause : Nat) (l : List Nat) (hl : ∀ n ∈ l, n < 2) {o : Nat}
    (h : o < pgMBCTL + MAILBOX_CTL_EM_STAT ∨ pgMBCTL + MAILBOX_CTL_EM_STAT + 8 ≤ o)
    (hirq : o ≠ pgMBCTL + HDR_IRQ_STAT) (hrec : o < pgREC ∨ pgREC + 4096 ≤ o) :
    (s.each l fun s n => s.loadCore n cause).rd o = s.rd o := by
  induction l generalizing s with
  | nil => rfl
  | cons a l ih =>
    rw [List.forall_mem_cons] at hl
    exact (ih _ hl.2).trans (loadCore_rd s cause (by omega) hirq hrec)
theorem each_loadCore_now (cause : Nat) (l : List Nat) : (s.each l fun s n => s.loadCore n cause).now = s.now :=
  State.each_of (fun u => u.now) _ (fun u _ => loadCore_now u cause) l s
theorem each_loadCore_state (cause : Nat) (l : List Nat) (hk : k < 2) :
    emState (s.each l fun s n => s.loadCore n cause) k = if k ∈ l then 1 else emState s k := by
  induction l generalizing s with
  | nil => rfl
  | cons a l ih =>
    refine (ih _).trans ?_
    rw [emState_loadCore s cause hk]
    by_cases hka : k = a <;> by_cases hkl : k ∈ l <;> simp [hka, hkl]
end

/-! ### A new epoch (R515, R525) -/

/-- What a new epoch makes of one ring. -/
def ringEpoch (s : State) (r : Nat) : State :=
  (((s.bumpSat (mboxBase r) MBOX_MB_DISC_COUNT (idxDiff (reqProd s r) (reqCons s r))).put (mboxBase r) MBOX_MB_STAT_REQ_CONS
    (reqProd (s.bumpSat (mboxBase r) MBOX_MB_DISC_COUNT (idxDiff (reqProd s r) (reqCons s r))) r)).bump (mboxBase r) MBOX_MB_STAT_EPOCH).irq
      (mboxBase r) 1
section
variable (s : State) {r q : Nat}

theorem ringEpoch_rd {o : Nat} (h : o < mboxBase r ∨ mboxBase r + 4096 ≤ o) (hrec : o < pgREC ∨ pgREC + 4096 ≤ o) :
    (ringEpoch s r).rd o = s.rd o := by
  unfold ringEpoch
  rw [State.irq_rd _ _ _ _ (by simp only [HDR_IRQ_STAT]; omega) hrec, State.bump_rd _ _ (by simp only [MBOX_MB_STAT_EPOCH]; omega),
    State.rd_put_of_ne _ _ (by simp only [MBOX_MB_STAT_REQ_CONS]; omega), State.bumpSat_rd _ _ (by simp only [MBOX_MB_DISC_COUNT]; omega)]
/-- The indices and the epoch of a ring are read past the interrupt and the count of what is discarded. -/
theorem irq_mbox (u : State) (hr : r < 2) {f : Fld} (h : 0x40 ≤ f.off ∧ f.off < 4096) (k : Nat) :
    (u.irq (mboxBase r) k).get (mboxBase r) f = u.get (mboxBase r) f := by
  have hrec := ring_below hr
  exact State.irq_get _ _ _ _ _ (by simp only [HDR_IRQ_STAT]; omega) (.inl (by omega))
theorem disc_get (d : Nat) {f : Fld} (h : f.off ≠ MBOX_MB_DISC) :
    (s.bumpSat (mboxBase r) MBOX_MB_DISC_COUNT d).get (mboxBase r) f = s.get (mboxBase r) f :=
  State.get_put_page _ _ _ _ _ (by decide) (.inl (Ne.symm h))
theorem ringEpoch_reqCons (hr : r < 2) : reqCons (ringEpoch s r) r = reqProd s r := by
  have hlt : reqProd s r < 2 ^ 8 := State.get_lt s _ MBOX_REQ_PROD_INDEX
  have hprod : ∀ d, reqProd (s.bumpSat (mboxBase r) MBOX_MB_DISC_COUNT d) r = reqProd s r := fun d => disc_get s d (by decide)
  unfold ringEpoch
  rw [hprod]
  unfold reqCons
  rw [irq_mbox _ hr (by decide), State.get_bump_apart _ _ (by decide) (.inr (.inl (by decide))), State.get_put_of_lt _ _ (by decide) hlt]
theorem ringEpoch_mbEpoch (hr : r < 2) : mbEpoch (ringEpoch s r) r = (mbEpoch s r + 1) % 2 ^ 16 := by
  unfold ringEpoch mbEpoch
  rw [irq_mbox _ hr (by decide), State.get_bump_self _ _ _ _ (by decide), State.get_put_page _ _ _ _ _ (by decide) (.inr (.inr (by decide))),
    disc_get _ _ (by decide)]
  rfl
/-- The other ring is kept. -/
theorem ringEpoch_other (h : q ≠ r) (hq : q < 2) {f : Fld} (hf : f.off < 4096) : (ringEpoch s r).get (mboxBase q) f = s.get (mboxBase q) f := by
  have hrec := ring_below hq
  unfold State.get
  rw [ringEpoch_rd s (by simp only [mboxBase] at *; omega) (.inl (by omega))]
theorem ringEpoch_sansRec : (ringEpoch s r).sansRec = s.sansRec :=
  (State.irq_sansRec ..).trans ((wr_sansRec ..).trans ((wr_sansRec ..).trans (wr_sansRec ..)))

/-- The state once both rings have taken a new epoch. -/
def ringsEpoch (s : State) : State := ringEpoch (ringEpoch s 0) 1
theorem ringsEpoch_sansRec : (ringsEpoch s).sansRec = s.sansRec := (ringEpoch_sansRec _).trans (ringEpoch_sansRec s)
/-- Beyond the rings, a new epoch ends what waits for an answer. -/
theorem newEpoch_eq : s.newEpoch = ({ (ringsEpoch s).lif (fun l => { l with reply := none }) with
    fw := { (ringsEpoch s).fw with owed := [] } } : State).tst fun t => { t with ft := t.ft.map fun f => { f with reply := none } } := rfl
theorem newEpoch_cfg : s.newEpoch.cfg = s.cfg := by
  have hrings : (ringsEpoch s).cfg = s.cfg := (congrArg State.cfg (ringsEpoch_sansRec s) :)
  rw [newEpoch_eq]
  exact hrings
theorem newEpoch_now : s.newEpoch.now = s.now := by
  have hrings : (ringsEpoch s).now = s.now := (congrArg State.now (ringsEpoch_sansRec s) :)
  rw [newEpoch_eq]
  exact hrings
theorem newEpoch_regs : s.newEpoch.regs = (ringsEpoch s).regs := by rw [newEpoch_eq]; rfl
/-- A new epoch drops the responses that were not yet placed, and nothing else of the firmware. -/
theorem newEpoch_fw : s.newEpoch.fw = { s.fw with owed := [] } := by
  have hrings : (ringsEpoch s).fw = s.fw := (congrArg State.fw (ringsEpoch_sansRec s) :)
  rw [newEpoch_eq, ← hrings]
  rfl
theorem newEpoch_rd {o : Nat} (h : o < mboxBase 0 ∨ mboxBase 2 ≤ o) (hrec : o < pgREC ∨ pgREC + 4096 ≤ o) : s.newEpoch.rd o = s.rd o := by
  simp only [mboxBase] at h
  have hrings : s.newEpoch.rd o = (ringsEpoch s).rd o :=
    State.rd_congr (newEpoch_regs s) ((newEpoch_cfg s).trans (congrArg State.cfg (ringsEpoch_sansRec s).symm :)) o
  rw [hrings]
  exact (ringEpoch_rd _ (by simp only [mboxBase]; omega) hrec).trans (ringEpoch_rd s (by simp only [mboxBase]; omega) hrec)
theorem newEpoch_get_ring (hr : r < 2) {f : Fld} (hf : f.off < 4096) :
    s.newEpoch.get (mboxBase r) f = (ringEpoch (if r = 0 then s else ringEpoch s 0) r).get (mboxBase r) f := by
  have hcfg : s.newEpoch.cfg = (ringsEpoch s).cfg := (newEpoch_cfg s).trans (congrArg State.cfg (ringsEpoch_sansRec s).symm :)
  rw [State.get_congr (newEpoch_regs s) hcfg]
  obtain rfl | rfl : r = 0 ∨ r = 1 := by omega
  · exact ringEpoch_other _ (by decide) (by decide) hf
  · rfl
/-- Every request that waited is discarded. -/
theorem newEpoch_reqCons (hr : r < 2) : reqCons s.newEpoch r = reqProd s r := by
  refine (newEpoch_get_ring s hr (by decide)).trans ((ringEpoch_reqCons _ hr).trans ?_)
  split
  · rfl
  · exact ringEpoch_other s (by omega) hr (by decide)
theorem newEpoch_mbEpoch (hr : r < 2) : mbEpoch s.newEpoch r = (mbEpoch s r + 1) % 2 ^ 16 := by
  refine (newEpoch_get_ring s hr (by decide)).trans ((ringEpoch_mbEpoch _ hr).trans ?_)
  split
  · rfl
  · exact congrArg (fun n => (n + 1) % 2 ^ 16) (ringEpoch_other s (by omega) hr (by decide))
end

/-! ### Restarts (R514) and fall back (R520) -/

section
variable (s : State) {n k : Nat}

theorem newEpoch_ctl {f : Fld} (h : f.off < 4096) : s.newEpoch.get pgMBCTL f = s.get pgMBCTL f := by
  unfold State.get
  rw [newEpoch_rd s (.inl (by simp only [pgMBCTL, mboxBase]; omega)) (.inl (by simp only [pgMBCTL, pgREC]; omega))]
/-- The state in which a restarted core has stopped, before the rings take their new epoch. -/
def coreStopped (s : State) (n cause : Nat) : State :=
  (((s.fwm fun w => { w with act := w.act.map fun a => { a with spoiled := NSet.insert a.spoiled n } }).coreStops n 3).put pgMBCTL
    (emFld n MAILBOX_CTL_EM_STAT_CAUSE) cause).bump pgMBCTL (emFld n MAILBOX_CTL_EM_STAT_RESTARTS)
theorem restartCore_eq (cause : Nat) : s.restartCore n cause = (coreStopped s n cause).newEpoch.irq pgMBCTL 2 := rfl
theorem coreStopped_rd (cause : Nat) {o : Nat} (h : o ≠ pgMBCTL + MAILBOX_CTL_EM_STAT + 4 * n) : (coreStopped s n cause).rd o = s.rd o := by
  have hoff : ∀ f : Fld, f.off = MAILBOX_CTL_EM_STAT → o ≠ pgMBCTL + (emFld n f).off := fun f hf => by
    show o ≠ pgMBCTL + (f.off + 4 * n)
    omega
  unfold coreStopped
  rw [State.bump_rd _ _ (hoff _ rfl), State.rd_put_of_ne _ _ (hoff _ rfl), coreStops_rd _ _ h]
  rfl
theorem restartCore_fld (cause : Nat) (hn : n < 2) {f : Fld} (hf : f.ofCore) :
    (s.restartCore n cause).get pgMBCTL (emFld n f) = (coreStopped s n cause).get pgMBCTL (emFld n f) := by
  rw [restartCore_eq, irq_core _ _ hf hn (.inl rfl)]
  refine newEpoch_ctl _ ?_
  show f.off + 4 * n < 4096
  rw [hf.1]
  simp only [MAILBOX_CTL_EM_STAT]
  omega
theorem restartCore_state (cause : Nat) (hn : n < 2) : emState (s.restartCore n cause) n = 3 := by
  refine (restartCore_fld s cause hn ⟨rfl, by decide⟩).trans ?_
  unfold coreStopped
  refine (emPut_apart _ _ (f := MAILBOX_CTL_EM_STAT_RESTARTS) ⟨rfl, by decide⟩ ⟨rfl, by decide⟩ (.inr (.inr (by decide)))).trans ?_
  refine (emPut_apart _ _ ⟨rfl, by decide⟩ ⟨rfl, by decide⟩ (.inr (.inr (by decide)))).trans ?_
  exact (emState_coreStops _ (by decide) n).trans (if_pos rfl)
theorem restartCore_cause {cause : Nat} (hn : n < 2) (hc : cause < 16) :
    (s.restartCore n cause).get pgMBCTL (emFld n MAILBOX_CTL_EM_STAT_CAUSE) = cause := by
  rw [restartCore_fld s cause hn ⟨rfl, by decide⟩]
  unfold coreStopped
  refine (emPut_apart _ _ (f := MAILBOX_CTL_EM_STAT_RESTARTS) ⟨rfl, by decide⟩ ⟨rfl, by decide⟩ (.inr (.inr (by decide)))).trans ?_
  exact emPut_self _ _ ⟨rfl, by decide⟩ hc
theorem restartCore_restarts (cause : Nat) (hn : n < 2) : (s.restartCore n cause).get pgMBCTL (emFld n MAILBOX_CTL_EM_STAT_RESTARTS) =
    (s.get pgMBCTL (emFld n MAILBOX_CTL_EM_STAT_RESTARTS) + 1) % 2 ^ 16 := by
  rw [restartCore_fld s cause hn ⟨rfl, by decide⟩]
  unfold coreStopped
  refine (State.get_bump_self _ _ _ _ (Fld.at_fits 4 n (by decide))).trans ?_
  show (State.get _ pgMBCTL (emFld n MAILBOX_CTL_EM_STAT_RESTARTS) + 1) % 2 ^ 16 = _
  rw [emPut_apart _ _ ⟨rfl, by decide⟩ ⟨rfl, by decide⟩ (.inr (.inl (by decide))), coreStops_fld _ _ ⟨rfl, by decide⟩ (by decide)]
  rfl
/-- An activation notes the core that a restart has spoiled it for. -/
theorem restartCore_act (cause : Nat) :
    (s.restartCore n cause).fw.act = s.fw.act.map fun a => { a with spoiled := NSet.insert a.spoiled n } := by
  rw [restartCore_eq, State.irq_fw, newEpoch_fw]
  exact (coreStops_sameFw _ 3).act
theorem restartCore_mbEpoch (cause : Nat) {r : Nat} (hn : n < 2) (hr : r < 2) : mbEpoch (s.restartCore n cause) r = (mbEpoch s r + 1) % 2 ^ 16 := by
  have hirq : mbEpoch (s.restartCore n cause) r = mbEpoch (coreStopped s n cause).newEpoch r :=
    State.irq_get _ _ _ _ _ (by simp only [mboxBase, pgMBCTL, MBOX_MB_STAT_EPOCH, HDR_IRQ_STAT]; omega)
      (.inl (by simp only [mboxBase, pgREC, MBOX_MB_STAT_EPOCH]; omega))
  rw [hirq, newEpoch_mbEpoch _ hr]
  unfold mbEpoch State.get
  rw [coreStopped_rd s cause (by simp only [mboxBase, pgMBCTL, MAILBOX_CTL_EM_STAT, MBOX_MB_STAT_EPOCH]; omega)]

/-- The cores of an activation that falls back. -/
def coresBack (s : State) (l : List Nat) : State := s.each l fun s n => if s.fw.active then s.loadCore n 4 else s.coreStops n 0
theorem coresBack_step_sameFw : SameFw s (if s.fw.active then s.loadCore n 4 else s.coreStops n 0) := by
  split
  · exact loadCore_sameFw s 4
  · exact coreStops_sameFw s 0
theorem coresBack_sameFw (l : List Nat) : SameFw s (coresBack s l) := by
  induction l generalizing s with
  | nil => rfl
  | cons a l ih => exact (coresBack_step_sameFw s).trans (ih _)
theorem coresBack_stat (l : List Nat) : (coresBack s l).rd (pgMBCTL + MAILBOX_CTL_FW_STAT) = s.rd (pgMBCTL + MAILBOX_CTL_FW_STAT) := by
  refine State.each_of (fun u => u.rd (pgMBCTL + MAILBOX_CTL_FW_STAT)) _ (fun u n => ?_) l s
  have hne : pgMBCTL + MAILBOX_CTL_FW_STAT ≠ pgMBCTL + MAILBOX_CTL_EM_STAT + 4 * n := by
    simp only [MAILBOX_CTL_FW_STAT, MAILBOX_CTL_EM_STAT]
    omega
  split
  · exact loadCore_rd u 4 hne (by decide) (by decide)
  · exact coreStops_rd u 0 hne
end

/-! ### Fall back (R520) -/

/-- The state of the cores of an activation that falls back, with the activation over. -/
def fellBack (s : State) (a : FwAct) : State := coresBack (s.fwm fun w => { w with act := none }).newEpoch a.cores
section
variable (s : State) (a : FwAct)

theorem fellBack_fw : (fellBack s a).fw.act = none ∧ (fellBack s a).fw.active = s.fw.active := by
  have hsame := coresBack_sameFw (s.fwm fun w => { w with act := none }).newEpoch a.cores
  have hfw := newEpoch_fw (s.fwm fun w => { w with act := none })
  exact ⟨hsame.act.trans (by rw [hfw]; rfl), hsame.active.trans (by rw [hfw]; rfl)⟩
theorem fellBack_ctl {f : Fld} (hf : f.off = MAILBOX_CTL_FW_STAT) : (fellBack s a).get pgMBCTL f = s.get pgMBCTL f := by
  have hepoch := newEpoch_rd (s.fwm fun w => { w with act := none }) (o := pgMBCTL + MAILBOX_CTL_FW_STAT) (.inl (by decide)) (.inl (by decide))
  unfold State.get
  rw [hf, fellBack, coresBack_stat, hepoch]
  rfl
theorem fallBack_eq : s.fallBack a =
    (((fellBack s a).fwUnstage.put pgMBCTL MAILBOX_CTL_FW_STAT_BUSY 0).fwResult (if (fellBack s a).fw.active then 6 else 7)).irq pgMBCTL 1 := rfl
theorem fallBack_fw : (s.fallBack a).fw.act = none := by
  rw [fallBack_eq, State.irq_fw]
  exact (fellBack_fw s a).1
/-- The fields of FW_STAT after a fall back. -/
theorem fallBack_stat {f : Fld} (hf : f.off = MAILBOX_CTL_FW_STAT) (hfits : f.fits) : (s.fallBack a).get pgMBCTL f =
    ((((fellBack s a).fwUnstage.put pgMBCTL MAILBOX_CTL_FW_STAT_BUSY 0).put pgMBCTL MAILBOX_CTL_FW_STAT_RESULT
      (if s.fw.active then 6 else 7)).get pgMBCTL f) := by
  rw [fallBack_eq, (fellBack_fw s a).2]
  exact irq_ctl _ _ _ _ ⟨by rw [hf]; decide, by rw [hf]; decide, hfits⟩ (.inl rfl)
theorem fwUnstage_ctl (u : State) {f : Fld} (hf : f.off = MAILBOX_CTL_FW_STAT) (hne : f.hi < 29 ∨ 29 < f.lo) :
    u.fwUnstage.get pgMBCTL f = u.get pgMBCTL f := by
  unfold State.fwUnstage
  rw [State.get_wr_of_ne _ _ _ (by rw [hf]; decide), State.get_put_page _ _ _ _ _ (by decide) (.inr hne)]
theorem fwUnstage_staged (u : State) : u.fwUnstage.get pgMBCTL MAILBOX_CTL_FW_STAT_STAGED = 0 := by
  unfold State.fwUnstage
  rw [State.get_wr_of_ne _ _ _ (by decide), State.get_put_self _ _ _ _ (by decide)]
  rfl
theorem fallBack_busy : (s.fallBack a).flag pgMBCTL MAILBOX_CTL_FW_STAT_BUSY = false := by
  have hbusy : (s.fallBack a).get pgMBCTL MAILBOX_CTL_FW_STAT_BUSY = 0 := by
    rw [fallBack_stat s a rfl (by decide), State.get_put_page _ _ _ _ _ (by decide) (.inr (.inr (by decide))),
      State.get_put_self _ _ _ _ (by decide)]
    rfl
  unfold State.flag
  rw [hbusy]
  rfl
theorem fallBack_staged : (s.fallBack a).flag pgMBCTL MAILBOX_CTL_FW_STAT_STAGED = false := by
  have hstaged : (s.fallBack a).get pgMBCTL MAILBOX_CTL_FW_STAT_STAGED = 0 := by
    rw [fallBack_stat s a rfl (by decide), State.get_put_page _ _ _ _ _ (by decide) (.inr (.inr (by decide))),
      State.get_put_page _ _ _ _ _ (by decide) (.inr (.inl (by decide))), fwUnstage_staged]
  unfold State.flag
  rw [hstaged]
  rfl
theorem fallBack_result : (s.fallBack a).get pgMBCTL MAILBOX_CTL_FW_STAT_RESULT = if s.fw.active then 6 else 7 := by
  rw [fallBack_stat s a rfl (by decide), State.get_put_of_lt _ _ (by decide) (by split <;> decide)]
theorem fallBack_bank : fwBank (s.fallBack a) = fwBank s := by
  refine (fallBack_stat s a rfl (by decide)).trans ?_
  rw [State.get_put_page _ _ _ _ _ (by decide) (.inr (.inr (by decide))), State.get_put_page _ _ _ _ _ (by decide) (.inr (.inl (by decide))),
    fwUnstage_ctl _ rfl (.inl (by decide)), fellBack_ctl s a rfl]
  rfl
end

end Sys2Proof.Machine

/-! PROOFS. The cores, their watchdogs and the ring indices (spec/17_control_and_firmware.md R513, R514, R522, R525, R528, R530). -/
namespace Sys2Proof.Machine

/-! ### Loading (R513, R520) -/

section
variable {s : State} {n : Nat}

/-- The state of a core that enters RUN with the section of bank b. -/
def coreRuns (s : State) (n b : Nat) : State :=
  ((s.put pgMBCTL (emFld n MAILBOX_CTL_EM_STAT_STATE) 2).put pgMBCTL ⟨MAILBOX_CTL_EM_CTL, n, n⟩ 0).fwm fun w => { w with
    sram := Sp.set w.sram n (Mem.writeN [] 0 (sectionBytes s b n) (sectionOf s b n).2.1), entry := Sp.set w.entry n (sectionOf s b n).2.2.2,
    kickAt := Sp.set w.kickAt n s.now, runAt := Sp.set w.runAt n s.now,
    vers := Sp.set w.vers n (le32 (bankHeader s b) 8, le32 (bankHeader s b) 0xC) }
theorem exec_emLoadDone_good (hn : n < 2) (hst : emState s n = 1 ∨ emState s n = 3) (hheld : s.fw.held = false)
    (hgood : sectionGood s (loadBank s n) n = true) : exec (.emLoadDone n) s = .next (coreRuns s n (loadBank s n)) := by
  have hcond : ∀ c (f : State → State), (coreRuns s n (loadBank s n)).cond ((coreRuns s n (loadBank s n)).fw.held && c) f =
      coreRuns s n (loadBank s n) := fun c f => by
    rw [show (coreRuns s n (loadBank s n)).fw.held = s.fw.held from rfl, hheld]
    rfl
  show execEmLoadDone n s = _
  unfold execEmLoadDone
  rw [if_neg (by omega), if_pos hgood]
  exact congrArg Host.Outcome.next (hcond _ _)
theorem coreRuns_runs (hn : n < 2) (b : Nat) : emRuns (coreRuns s n b) n = true := by
  have hne : MAILBOX_CTL_EM_CTL ≠ MAILBOX_CTL_EM_STAT + 4 * n := by
    simp only [MAILBOX_CTL_EM_CTL, MAILBOX_CTL_EM_STAT]
    omega
  have hfits : (⟨MAILBOX_CTL_EM_CTL, n, n⟩ : Fld).fits := ⟨Nat.le_refl n, by show n < 32; omega⟩
  refine beq_iff_eq.mpr ?_
  unfold emState coreRuns
  rw [State.fwm_get, State.get_put_page _ _ _ (MAILBOX_CTL_EM_STAT_STATE.at 4 n) _ hfits (.inl hne)]
  exact emPut_self s 2 ⟨rfl, by decide⟩ (by decide)
theorem emLoadDone_good (hn : n < 2) (hst : emState s n = 1 ∨ emState s n = 3) (hheld : s.fw.held = false)
    (hgood : sectionGood s (loadBank s n) n = true) : ∃ t, exec (.emLoadDone n) s = .next t ∧ emRuns t n = true ∧ Sp.get 0 t.fw.kickAt n = s.now ∧
      t.fw.act = s.fw.act ∧ Sp.get 0 t.fw.entry n = (sectionOf s (loadBank s n) n).2.2.2 :=
  ⟨_, exec_emLoadDone_good hn hst hheld hgood, coreRuns_runs hn _, Sp.get_set_self .., rfl, Sp.get_set_self ..⟩
/-- The state of a core whose section is not good. -/
def coreHalted (s : State) (n : Nat) : State := (s.coreStops n 0).put pgMBCTL (emFld n MAILBOX_CTL_EM_STAT_CAUSE) 6
theorem coreHalted_sameFw : SameFw s (coreHalted s n) := coreStops_sameFw s 0
theorem emLoadDone_bad (hn : n < 2) (hst : emState s n = 1 ∨ emState s n = 3) (hbad : sectionGood s (loadBank s n) n = false) :
    exec (.emLoadDone n) s = match s.fw.act with
      | some a => .next ((coreHalted s n).fallBack a)
      | none => .next ((coreHalted s n).cond ((coreHalted s n).fw.held && !coreRestarting (coreHalted s n)) fun s =>
          (s.fwm fun w => { w with held := false }).activate) := by
  have hact : (coreHalted s n).fw.act = s.fw.act := coreHalted_sameFw.act
  show execEmLoadDone n s = _
  unfold execEmLoadDone
  rw [if_neg (by omega), if_neg (by rw [hbad]; decide), ← hact]
  rfl
theorem emLoadDone_halts (hn : n < 2) (hst : emState s n = 1 ∨ emState s n = 3) (hheld : s.fw.held = false)
    (hbad : sectionGood s (loadBank s n) n = false) (hact : s.fw.act = none) : ∃ t, exec (.emLoadDone n) s = .next t ∧ emState t n = 0 ∧
      t.get pgMBCTL (emFld n MAILBOX_CTL_EM_STAT_CAUSE) = 6 := by
  have hcond : ∀ c (f : State → State), (coreHalted s n).cond ((coreHalted s n).fw.held && c) f = coreHalted s n := fun c f => by
    rw [coreHalted_sameFw.held, hheld]
    rfl
  rw [emLoadDone_bad hn hst hbad, hact]
  dsimp only
  rw [hcond]
  refine ⟨_, rfl, ?_, emPut_self _ 6 ⟨rfl, by decide⟩ (by decide)⟩
  refine (emPut_apart _ _ ⟨rfl, by decide⟩ ⟨rfl, by decide⟩ (.inr (.inr (by decide)))).trans ?_
  exact (emState_coreStops s (by decide) n).trans (if_pos rfl)

theorem emLoadDone_fallsBack {a : FwAct} (hn : n < 2) (hst : emState s n = 1 ∨ emState s n = 3)
    (hbad : sectionGood s (loadBank s n) n = false) (hact : s.fw.act = some a) : ∃ t, exec (.emLoadDone n) s = .next t ∧ t.fw.act = none ∧
      t.flag pgMBCTL MAILBOX_CTL_FW_STAT_BUSY = false ∧ t.get pgMBCTL MAILBOX_CTL_FW_STAT_RESULT = if s.fw.active then 6 else 7 := by
  rw [emLoadDone_bad hn hst hbad, hact]
  exact ⟨_, rfl, fallBack_fw .., fallBack_busy .., (fallBack_result ..).trans (by rw [coreHalted_sameFw.active])⟩

/-! ### Watchdogs and restarts (R514) -/

theorem NSet.mem_insert (a : Nat) : ∀ m : List Nat, a ∈ NSet.insert m a
  | [] => List.mem_singleton_self a
  | k :: m => by
    unfold NSet.insert
    split
    next h => exact h ▸ List.mem_cons_self
    next =>
      split
      · exact List.mem_cons_self
      · exact List.mem_cons_of_mem _ (NSet.mem_insert a m)
theorem wdtKick_kicks {m : Master} (hn : n < 2) (hw : mayWrite s m pgMBCTL (MAILBOX_CTL_WDT_KICK + 4 * n) false = true) (hruns : emRuns s n = true)
    (hm : m = if n = 0 then .em0 else .em1) :
    ∃ t, exec (.wdtKick m n) s = .next t ∧ Sp.get 0 t.fw.kickAt n = s.now ∧ ∀ a, t.fw.act = some a → n ∈ a.kicked := by
  have hexec : exec (.wdtKick m n) s = .next (s.fwm fun w => { w with
      kickAt := Sp.set w.kickAt n s.now, act := w.act.map fun a => { a with kicked := NSet.insert a.kicked n } }) := by
    show execWdtKick m n s = _
    unfold execWdtKick
    rw [Nat.mod_eq_of_lt hn]
    dsimp only
    rw [State.gate_open _ _ _ _ _ _ hw, hruns, hm, beq_self_eq_true]
    rfl
  refine ⟨_, hexec, Sp.get_set_self .., fun a ha => ?_⟩
  obtain ⟨b, -, rfl⟩ := Option.map_eq_some_iff.mp ha
  exact NSet.mem_insert n b.kicked
theorem restartCore_spoils (s : State) (n cause : Nat) (a : FwAct) (ha : (s.restartCore n cause).fw.act = some a) :
    a.spoiled.contains n = true := by
  rw [restartCore_act] at ha
  obtain ⟨b, -, rfl⟩ := Option.map_eq_some_iff.mp ha
  exact List.contains_iff_mem.mpr (NSet.mem_insert n b.spoiled)
theorem watchdogExpiry_restarts (hn : n < 2) (hruns : emRuns s n = true) (hclock : s.clockOn = true)
    (hlate : Sp.get 0 s.fw.kickAt n + 1000000 ≤ s.now) : exec (.watchdogExpiry n) s = .next (s.restartCore n 1) := by
  show execWatchdogExpiry n s = _
  unfold execWatchdogExpiry
  rw [if_neg (by simp [hruns, hclock]; omega)]
/-- The state in which EM_CTL names the core that restarts. -/
theorem emRestart_restarts {m : Master} (hn : n < 2) (hw : mayWrite s m pgMBCTL MAILBOX_CTL_EM_CTL true = true)
    (hact : s.fw.active = true ∨ emState s n ≠ 0) (hdead : emDead s n = false) :
    exec (.emRestart m n) s = .next ((s.put pgMBCTL ⟨MAILBOX_CTL_EM_CTL, n, n⟩ 1).restartCore n 2) := by
  have hlist : ([0, 1].filter fun k => (BitVec.ofNat 32 (2 ^ (n % 2))).toNat.testBit k) = [n] := by
    obtain rfl | rfl : n = 0 ∨ n = 1 := by omega
    · decide
    · decide
  have hgo : (!emDead s n && (s.fw.active || emState s n != 0)) = true := by
    rw [hdead]
    simpa using hact
  show execEmRestart m n s = _
  unfold execEmRestart emCtlWrite
  rw [State.gate_open _ _ _ _ _ _ hw, hlist]
  exact congrArg Host.Outcome.next (if_pos hgo)
theorem emRestart_leaves {m : Master} (hn : n < 2) (hw : mayWrite s m pgMBCTL MAILBOX_CTL_EM_CTL true = true)
    (hact : s.fw.active = true ∨ emState s n ≠ 0) (hdead : emDead s n = false) :
    ∃ t, exec (.emRestart m n) s = .next t ∧ emState t n = 3 ∧ (∀ a, t.fw.act = some a → a.spoiled.contains n = true) ∧
      t.get pgMBCTL (emFld n MAILBOX_CTL_EM_STAT_CAUSE) = 2 ∧
      t.get pgMBCTL (emFld n MAILBOX_CTL_EM_STAT_RESTARTS) = (s.get pgMBCTL (emFld n MAILBOX_CTL_EM_STAT_RESTARTS) + 1) % 2 ^ 16 := by
  have hne : MAILBOX_CTL_EM_CTL ≠ MAILBOX_CTL_EM_STAT + 4 * n := by
    simp only [MAILBOX_CTL_EM_CTL, MAILBOX_CTL_EM_STAT]
    omega
  have hfits : (⟨MAILBOX_CTL_EM_CTL, n, n⟩ : Fld).fits := ⟨Nat.le_refl n, by show n < 32; omega⟩
  refine ⟨_, emRestart_restarts hn hw hact hdead, restartCore_state _ _ hn, restartCore_spoils _ _ _, restartCore_cause _ hn (by decide), ?_⟩
  rw [restartCore_restarts _ _ hn, State.get_put_page _ _ _ (emFld n MAILBOX_CTL_EM_STAT_RESTARTS) _ hfits (.inl hne)]
end

/-! ### Ring indices (R522, R530) -/

section
variable {s : State} {r : Nat}

/-- The two indices that a host writes. -/
abbrev Fld.ofHost (f : Fld) : Prop := f.off = MBOX_REQ_PROD ∨ f.off = MBOX_RSP_CONS
theorem respond_host (u : State) (hr : r < 2) {f : Fld} (hf : f.ofHost) (typ seq status : Nat) (ws : List Nat) (n : Nat) :
    (u.respond r typ seq status ws n).get (mboxBase r) f = u.get (mboxBase r) f := by
  simp only [Fld.ofHost, MBOX_REQ_PROD, MBOX_RSP_CONS] at hf
  exact respond_get _ _ _ _ _ _ _ hr f (by simp only [MBOX_RSP_ENTRY]; omega) (by simp only [HDR_IRQ_STAT]; omega)
    (.inl (by simp only [MBOX_MB_STAT]; omega))
theorem placeOwed_host (u : State) (hr : r < 2) {f : Fld} (hf : f.ofHost) (n : Nat) :
    (u.placeOwed r n).get (mboxBase r) f = u.get (mboxBase r) f := by
  induction n generalizing u with
  | zero => rfl
  | succ n ih =>
    unfold State.placeOwed
    split
    · split
      · rfl
      · exact (ih _).trans (respond_host _ hr hf _ _ _ _ _)
    · rfl
/-- What a ring does by itself leaves the indices that a host writes. -/
theorem mboxAuto_host (u : State) (hr : r < 2) {f : Fld} (hf : f.ofHost) (n : Nat) : (u.mboxAuto r n).get (mboxBase r) f = u.get (mboxBase r) f := by
  have htake : ∀ (v : State) (typ st : Nat), ((v.respond r typ (headSeq v r) st [] 0).takeReq r).get (mboxBase r) f = v.get (mboxBase r) f :=
    fun v typ st => (takeReq_get _ _ _ (.inl (by
      simp only [Fld.ofHost, MBOX_REQ_PROD, MBOX_RSP_CONS] at hf
      simp only [MBOX_MB_STAT]
      omega))).trans (respond_host _ hr hf _ _ _ _ _)
  induction n generalizing u with
  | zero => rfl
  | succ n ih =>
    have hplaced := placeOwed_host u hr hf 16
    unfold State.mboxAuto
    dsimp only
    generalize u.placeOwed r 16 = v at hplaced
    rw [← hplaced]
    split
    · rfl
    · split
      · rfl
      · split
        · refine (ih _).trans ((irq_mbox _ hr ?_ _).trans ((disc_get _ _ ?_).trans (htake v _ _)))
          · simp only [Fld.ofHost, MBOX_REQ_PROD, MBOX_RSP_CONS] at hf
            omega
          · simp only [Fld.ofHost, MBOX_REQ_PROD, MBOX_RSP_CONS] at hf
            simp only [MBOX_MB_DISC]
            omega
        · split
          · rfl
          · split
            · exact (ih _).trans (htake v _ _)
            · split
              · exact (ih _).trans (htake v _ _)
              · rfl
/-- A refused index leaves the ring's indices. -/
theorem refusedIndex_host (u : State) (m : Master) (reg : Nat) (hr : r < 2) {f : Fld} (hf : f.ofHost) :
    ((u.refused m (mboxBase r) reg).fabStat m (mboxBase r + reg)).get (mboxBase r) f = u.get (mboxBase r) f := by
  simp only [Fld.ofHost, MBOX_REQ_PROD, MBOX_RSP_CONS] at hf
  have hrec := ring_below hr
  have hfab : ((u.refused m (mboxBase r) reg).fabStat m (mboxBase r + reg)).rd (mboxBase r + f.off) =
      (u.refused m (mboxBase r) reg).rd (mboxBase r + f.off) := by
    refine fabStat_rd _ _ _ (uncounted_of_page ?_) ?_ ?_ ?_ ?_ <;>
      simp only [mboxBase, pgREC, RECORDER_RC_MISSED, HDR_IRQ_STAT, pgMBCTL, MAILBOX_CTL_FAB_STAT, MAILBOX_CTL_FAB_VIOL_CNT] at * <;> omega
  refine (congrArg f.of hfab).trans (State.refused_get _ _ _ _ _ (by omega))
theorem reqProdWrite_index {m : Master} {v : Nat} (hr : r < 2) (hv : v < 256) (hw : mayWrite s m (mboxBase r) MBOX_REQ_PROD false = true)
    (hm : m.isEm = false) : ∃ t, exec (.reqProdWrite m r v) s = .next t ∧ reqProd t r =
      if idxDiff (reqProd s r) (reqCons s r) ≤ idxDiff v (reqCons s r) ∧ idxDiff v (reqCons s r) ≤ 16 then v else reqProd s r := by
  show ∃ t, execReqProdWrite m r v s = _ ∧ _
  unfold execReqProdWrite
  rw [Nat.mod_eq_of_lt hr]
  dsimp only
  rw [State.gate_open _ _ _ _ _ _ hw]
  refine ⟨_, rfl, ?_⟩
  rw [hm, if_neg (by decide), Nat.mod_eq_of_lt hv]
  by_cases hok : idxDiff (reqProd s r) (reqCons s r) ≤ idxDiff v (reqCons s r) ∧ idxDiff v (reqCons s r) ≤ 16
  · rw [if_neg (by omega), if_pos hok]
    exact (mboxAuto_host _ hr (.inl rfl) _).trans (State.get_put_of_lt _ _ (by decide) hv)
  · rw [if_pos (by omega), if_neg hok]
    exact refusedIndex_host s m _ hr (.inl rfl)
theorem rspConsWrite_index {m : Master} {v : Nat} (hr : r < 2) (hv : v < 256) (hw : mayWrite s m (mboxBase r) MBOX_RSP_CONS false = true)
    (hm : m.isEm = false) : ∃ t, exec (.rspConsWrite m r v) s = .next t ∧ rspCons t r =
      if idxDiff v (rspCons s r) ≤ idxDiff (rspProd s r) (rspCons s r) then v else rspCons s r := by
  show ∃ t, execRspConsWrite m r v s = _ ∧ _
  unfold execRspConsWrite
  rw [Nat.mod_eq_of_lt hr]
  dsimp only
  rw [State.gate_open _ _ _ _ _ _ hw]
  refine ⟨_, rfl, ?_⟩
  rw [hm, if_neg (by decide), Nat.mod_eq_of_lt hv]
  by_cases hok : idxDiff v (rspCons s r) ≤ idxDiff (rspProd s r) (rspCons s r)
  · rw [if_neg (by omega), if_pos hok]
    refine (mboxAuto_host _ hr (.inr rfl) _).trans ?_
    rw [State.cond_get, State.get_put_page _ _ _ _ _ (by decide) (.inl (by decide)), ite_self]
    exact State.get_put_of_lt _ _ (by decide) hv
  · rw [if_pos (by omega), if_neg hok]
    exact refusedIndex_host s m _ hr (.inr rfl)

/-! ### ECHO and INFO (R528) -/

theorem echo_answers {typ : Nat} (h : msgAt s r typ) (htyp : typ ∈ mbTypes) :
    ∃ t, message typ 0 r (fun n w u => echo n w u) s = .next t ∧ answeredAs s t r typ 0 (headLen s r) fun k => reqWord s r (4 + k) := by
  have hlen : headLen s r ≤ 48 := h.2.2.2.2.2.2.1
  exact ⟨_, message_answers h htyp (Nat.zero_le _) rfl (.refl ..),
    respond_answered h htyp (.refl ..) (by decide) hlen fun k hk => congrArg (· % 2 ^ 32) (reqWords_getD s r (by omega))⟩
theorem info_answers {typ : Nat} (h : msgAt s r typ) (htyp : typ ∈ mbTypes) (n : Nat) :
    ∃ t, message typ 0 r (fun _ _ u => info n u) s = .next t ∧ answeredAs s t r typ 0 16 fun k =>
      [(Sp.get (0, 0) s.fw.vers n).1, (Sp.get (0, 0) s.fw.vers n).2, s.now - Sp.get 0 s.fw.runAt n,
        (s.now - Sp.get 0 s.fw.runAt n) / 2 ^ 32].getD k 0 := by
  refine ⟨_, message_answers h htyp (Nat.zero_le _) rfl (.refl ..), respond_answered h htyp (.refl ..) (by decide) (by decide) fun k hk => ?_⟩
  obtain rfl | rfl | rfl | rfl : k = 0 ∨ k = 1 ∨ k = 2 ∨ k = 3 := by omega
  · rfl
  · rfl
  · exact Nat.mod_mod ..
  · rfl
end

/-- Settles O47: loading by the section's digest, kicks, restarts (`restartCore`), the indices by what a ring does by itself (`mboxAuto_host`), and
ECHO and INFO as messages. -/
theorem coresAndRings : Obligations.CoresAndRings := by
  refine ⟨fun s n hn hst hheld => ⟨emLoadDone_good hn hst hheld, emLoadDone_halts hn hst hheld, fun a => emLoadDone_fallsBack hn hst⟩,
    fun s m n hn hw hruns hm => wdtKick_kicks hn hw hruns hm, fun s n hn hruns hclock hlate => ?_,
    fun s m n hn hw hact hdead => emRestart_leaves hn hw hact hdead, fun s m r v hr hv hw hm => reqProdWrite_index hr hv hw hm,
    fun s m r v hr hv hw hm => rspConsWrite_index hr hv hw hm, fun s r h => echo_answers h (by decide),
    fun s r h => echo_answers h (by decide), fun s r h => info_answers h (by decide) 0, fun s r h => info_answers h (by decide) 1⟩
  exact ⟨_, watchdogExpiry_restarts hn hruns hclock hlate, restartCore_state s 1 hn, restartCore_spoils s n 1, restartCore_cause s hn (by decide),
    restartCore_restarts s 1 hn, fun q hq => restartCore_mbEpoch s 1 hn hq⟩

end Sys2Proof.Machine

/-! PROOFS. Firmware (spec/17_control_and_firmware.md R517 to R520): the loader's reads leave what FW_STAT shows of a staging; an activation is the
two cores' loads after a new epoch, and ends by the flip of the bank or by the fall back. -/
namespace Sys2Proof.Machine

/-! ### Fields of FW_STAT -/

/-- A field of FW_STAT. -/
abbrev Fld.ofStat (f : Fld) : Prop := f.off = MAILBOX_CTL_FW_STAT ∧ f.fits
section
variable (s : State) {f g : Fld}

theorem statPut_self (v : Nat) (hf : f.ofStat) (hv : v < 2 ^ (f.hi + 1 - f.lo)) : (s.put pgMBCTL f v).get pgMBCTL f = v :=
  State.get_put_of_lt s _ hf.2 hv
theorem statPut_apart (v : Nat) (hf : f.ofStat) (h : g.hi < f.lo ∨ f.hi < g.lo) : (s.put pgMBCTL f v).get pgMBCTL g = s.get pgMBCTL g :=
  State.get_put_page _ _ _ _ _ hf.2 (.inr h)
theorem irq_stat (hf : f.ofStat) (k : Nat) : (s.irq pgMBCTL k).get pgMBCTL f = s.get pgMBCTL f :=
  irq_ctl _ _ _ _ ⟨by rw [hf.1]; decide, by rw [hf.1]; decide, hf.2⟩ (.inl rfl)
theorem flag_of_get_zero (h : s.get pgMBCTL f = 0) : s.flag pgMBCTL f = false := by
  unfold State.flag
  rw [h]
  rfl
theorem stat_ne_op (hf : f.ofStat) (v : Nat) : (s.put pgMBCTL MAILBOX_CTL_FW_CMD_OP v).get pgMBCTL f = s.get pgMBCTL f :=
  State.get_put_page _ _ _ _ _ (by decide) (.inl (by rw [hf.1]; decide))
theorem stat_flag_op (hf : f.ofStat) (v : Nat) : (s.put pgMBCTL MAILBOX_CTL_FW_CMD_OP v).flag pgMBCTL f = s.flag pgMBCTL f :=
  State.flag_congr (stat_ne_op s hf v)
end

/-! ### The loader (R518) -/

/-- The loader has gone on: it still loads, and FW_STAT shows the same but for the bits that a rim's count of high water can have. -/
def Loading (s t : State) : Prop :=
  t.fw.load.isSome = s.fw.load.isSome ∧ t.fw.act = s.fw.act ∧
    ∀ f : Fld, f.ofStat → f.hi < 16 ∨ 24 < f.lo → t.get pgMBCTL f = s.get pgMBCTL f
theorem Loading.refl (s : State) : Loading s s := ⟨rfl, rfl, fun _ _ _ => rfl⟩
theorem Loading.trans {s t u : State} (hst : Loading s t) (htu : Loading t u) : Loading s u := by
  obtain ⟨hload, hact, hstat⟩ := hst
  obtain ⟨hload', hact', hstat'⟩ := htu
  exact ⟨hload'.trans hload, hact'.trans hact, fun f hf h => (hstat' f hf h).trans (hstat f hf h)⟩
theorem loading_of_rd {s t : State} (hfw : t.fw = s.fw) (hrd : t.rd (pgMBCTL + MAILBOX_CTL_FW_STAT) = s.rd (pgMBCTL + MAILBOX_CTL_FW_STAT)) :
    Loading s t := by
  refine ⟨by rw [hfw], by rw [hfw], fun f hf _ => ?_⟩
  unfold State.get
  rw [hf.1, hrd]

section
variable (s : State)

theorem loader_loading (f : FwLoad → FwLoad) : Loading s (s.loader f) :=
  ⟨Option.isSome_map .., rfl, fun _ _ _ => rfl⟩
theorem reject_loading (source h gen st : Nat) : Loading s (s.reject source h gen st) := by
  unfold State.reject
  split
  · refine loading_of_rd rfl ?_
    dsimp only
    rw [State.rd_wr_of_ne _ _ (by decide), State.bumpSat_rd]
    split
    · decide
    · split <;> decide
  · exact .refl s
theorem sendAccess_loading (a : Access) (ha : a.tid < 64) : Loading s (s.sendAccess a).2 := by
  have hfw : (s.sendAccess a).2.fw = s.fw := (congrArg State.fw (sendAccess_stemSent s a) :)
  refine ⟨by rw [hfw], by rw [hfw], fun f hf h => ?_⟩
  have hoff : pgHCMD ≤ pgMBCTL + f.off := Nat.le_trans (by decide) (Nat.le_add_right ..)
  unfold State.sendAccess
  dsimp only
  split
  · exact congrArg f.of (enterRefused_rd _ _ _ ha hoff)
  · split
    · unfold State.enterPool
      dsimp only
      rw [State.cond_get, State.get_put_apart _ _ (Fld.at_fits 4 _ (by decide)) (.inr h), ite_self]
      exact congrArg f.of ((charge_rd _ _ _ ha hoff).trans rfl)
    · rw [State.cond_get]
      exact ite_self _
theorem loadTm8_loading (l : FwLoad) : Loading s (s.loadTm8 l) := by
  have htid : s.get pgMBCTL MAILBOX_CTL_FW_LOC_TID < 64 := State.get_lt s _ MAILBOX_CTL_FW_LOC_TID
  have hrefuse : ∀ h gen st, Loading s ((s.reject 77 h gen st).loader fun l => { l with bad := true }) := fun h gen st =>
    (reject_loading s 77 h gen st).trans (loader_loading ..)
  have hsent : ∀ (g : State → HubSt → HubSt) (a : Access), a.tid = s.get pgMBCTL MAILBOX_CTL_FW_LOC_TID →
      Loading s ((s.sendAccess a).2.cond (s.sendAccess a).1 fun u => (u.loader fun l => { l with
        out := true, under := some (s.get pgMBCTL MAILBOX_CTL_FW_LOC_HANDLE, u.hub.accCtr) }).hubf (g u)) := fun g a ha => by
    refine (sendAccess_loading s a (ha ▸ htid)).trans ?_
    unfold State.cond
    split
    · exact Loading.trans (loader_loading _ _) (loading_of_rd rfl rfl)
    · exact .refl _
  unfold State.loadTm8
  dsimp only
  split
  · exact hrefuse _ _ _
  · split
    · exact hrefuse _ _ _
    · split
      · exact hrefuse _ _ _
      · split
        · exact hrefuse _ _ _
        · split
          · exact loader_loading s _
          · exact hsent (fun _ h => { h with accCtr := h.accCtr + 1 }) _ rfl
theorem loadExt_loading (l : FwLoad) : Loading s (s.loadExt l) := by
  unfold State.loadExt
  split
  · exact .refl s
  · dsimp only
    refine Loading.trans (loading_of_rd ?_ ?_) (loader_loading _ _)
    · rfl
    · rfl
/-- The loader sends its next read, unless one is out or it needs none. -/
theorem loadAsks_loading (l : FwLoad) : Loading s (if l.out || loadOver l then s
    else if s.flag pgMBCTL MAILBOX_CTL_FW_LOC_LOC then s.loadExt l else s.loadTm8 l) := by
  split
  · exact .refl s
  · split
    · exact loadExt_loading s l
    · exact loadTm8_loading s l
/-- The loader that takes an answer, or sends a read, goes on. -/
theorem loadRun_loading : Loading s s.loadRun := by
  have htakes : ∀ (f : HubSt → HubSt) (g : FwLoad → FwLoad), Loading s ((s.hubf f).loader g) := fun f g =>
    Loading.trans (t := s.hubf f) (loading_of_rd rfl rfl) (loader_loading _ g)
  unfold State.loadRun
  split
  · exact .refl s
  · dsimp only
    split
    · split
      · exact .refl s
      · exact htakes _ _
    · refine Loading.trans ?_ (loadAsks_loading _ _)
      split
      · exact .refl s
      · exact htakes _ _
end

/-! ### FW_CMD (R518, R519) -/

section
variable {s : State} {m : Master}

/-- The state in which FW_CMD shows its OP. -/
abbrev cmdShown (s : State) (op : Nat) : State := s.put pgMBCTL MAILBOX_CTL_FW_CMD_OP op
theorem cmdShown_emergency (s : State) (op : Nat) : emergency (cmdShown s op) = emergency s :=
  State.flag_congr (State.get_put_apart _ _ (by decide) (.inl (by decide)))
theorem cmdShown_restarting (s : State) (op : Nat) : coreRestarting (cmdShown s op) = coreRestarting s := by
  have hstate : ∀ n, emState (cmdShown s op) n = emState s n := fun n =>
    State.get_put_page _ _ _ _ _ (by decide) (.inl (by simp only [MAILBOX_CTL_FW_CMD_OP, MAILBOX_CTL_EM_STAT_STATE]; omega))
  unfold coreRestarting
  simp only [hstate]

/-- The state in which FW_STAT shows a staging that begins, and in which its loader has nothing yet. -/
def stageShown (s : State) : State :=
  ((cmdShown s 1).fwUnstage.put pgMBCTL MAILBOX_CTL_FW_STAT_BUSY 1).put pgMBCTL MAILBOX_CTL_FW_STAT_CHECK 0
def stageBegun (s : State) : State :=
  (stageShown s).fwm fun w => { w with load := some {}, banks := Sp.del w.banks (1 - fwBank (stageShown s)) }

section
variable (hw : mayWrite s m pgMBCTL MAILBOX_CTL_FW_CMD true = true) (hbusy : s.flag pgMBCTL MAILBOX_CTL_FW_STAT_BUSY = false)
include hw hbusy

theorem fwStage_stages (hpend : s.flag pgMBCTL MAILBOX_CTL_FW_STAT_PENDING = false) :
    exec (.fwStage m) s = .next (stageBegun s).loadRun := by
  show execFwStage m s = _
  unfold execFwStage fwCmdWrite
  rw [State.gate_open _ _ _ _ _ _ hw, show MAILBOX_CTL_FW_CMD_OP.of (fwCmdWord 1) = 1 by decide]
  dsimp only
  rw [if_neg (by decide), stat_flag_op s ⟨rfl, by decide⟩, stat_flag_op s ⟨rfl, by decide⟩, hbusy, hpend, if_neg (by simp)]
  rfl
theorem fwActivate_acts (hpend : s.flag pgMBCTL MAILBOX_CTL_FW_STAT_PENDING = false) : exec (.fwActivate m) s = .next
    (if emergency s then ((cmdShown s 2).fwResult 1).put pgMBCTL MAILBOX_CTL_FW_STAT_PENDING 1
      else if !s.flag pgMBCTL MAILBOX_CTL_FW_STAT_STAGED then ((cmdShown s 2).fwResult 3).refused m pgMBCTL MAILBOX_CTL_FW_CMD
      else if coreRestarting s then ((cmdShown s 2).put pgMBCTL MAILBOX_CTL_FW_STAT_BUSY 1).fwm fun w => { w with held := true }
      else (cmdShown s 2).activate) := by
  show execFwActivate m s = _
  unfold execFwActivate fwCmdWrite
  rw [State.gate_open _ _ _ _ _ _ hw, show MAILBOX_CTL_FW_CMD_OP.of (fwCmdWord 2) = 2 by decide]
  dsimp only
  rw [if_neg (by decide), stat_flag_op s ⟨rfl, by decide⟩, stat_flag_op s ⟨rfl, by decide⟩, hbusy, hpend, if_neg (by simp),
    cmdShown_emergency, cmdShown_restarting, stat_flag_op s ⟨rfl, by decide⟩]
  rfl
theorem fwCancel_cancels : exec (.fwCancel m) s = .next (((cmdShown s 3).fwResult 8).put pgMBCTL MAILBOX_CTL_FW_STAT_PENDING 0) := by
  show execFwCancel m s = _
  unfold execFwCancel fwCmdWrite
  rw [State.gate_open _ _ _ _ _ _ hw, show MAILBOX_CTL_FW_CMD_OP.of (fwCmdWord 3) = 3 by decide]
  dsimp only
  rw [if_neg (by decide), stat_flag_op s ⟨rfl, by decide⟩, hbusy, if_neg (by simp)]
  rfl

theorem fwStage_leaves (hpend : s.flag pgMBCTL MAILBOX_CTL_FW_STAT_PENDING = false) :
    ∃ t, exec (.fwStage m) s = .next t ∧ t.flag pgMBCTL MAILBOX_CTL_FW_STAT_BUSY = true ∧ t.flag pgMBCTL MAILBOX_CTL_FW_STAT_STAGED = false ∧
      t.fw.load.isSome = true ∧ t.get pgMBCTL MAILBOX_CTL_FW_STAT_CHECK = 0 ∧ t.fw.act = s.fw.act := by
  refine ⟨_, fwStage_stages hw hbusy hpend, ?_⟩
  obtain ⟨hload, hact, hstat⟩ := loadRun_loading (stageBegun s)
  have hshown : ∀ f : Fld, (stageBegun s).get pgMBCTL f = (stageShown s).get pgMBCTL f := fun f => State.fwm_get _ _ _ f
  refine ⟨State.flag_eq_true ?_, flag_of_get_zero _ ?_, hload, ?_, hact⟩
  · rw [hstat _ ⟨rfl, by decide⟩ (.inr (by decide)), hshown, stageShown, statPut_apart _ _ ⟨rfl, by decide⟩ (.inr (by decide)),
      statPut_self _ _ ⟨rfl, by decide⟩ (by decide)]
  · rw [hstat _ ⟨rfl, by decide⟩ (.inr (by decide)), hshown, stageShown, statPut_apart _ _ ⟨rfl, by decide⟩ (.inr (by decide)),
      statPut_apart _ _ ⟨rfl, by decide⟩ (.inl (by decide)), fwUnstage_staged]
  · rw [hstat _ ⟨rfl, by decide⟩ (.inl (by decide)), hshown, stageShown, statPut_self _ _ ⟨rfl, by decide⟩ (by decide)]
theorem fwActivate_waits (hpend : s.flag pgMBCTL MAILBOX_CTL_FW_STAT_PENDING = false) (hemg : emergency s = true) :
    ∃ t, exec (.fwActivate m) s = .next t ∧ t.flag pgMBCTL MAILBOX_CTL_FW_STAT_PENDING = true ∧ t.fw = s.fw ∧
      t.get pgMBCTL MAILBOX_CTL_FW_STAT_RESULT = 1 := by
  refine ⟨_, (fwActivate_acts hw hbusy hpend).trans (congrArg Host.Outcome.next (if_pos hemg)), State.flag_eq_true ?_, rfl, ?_⟩
  · exact statPut_self _ _ ⟨rfl, by decide⟩ (by decide)
  · exact (statPut_apart _ _ ⟨rfl, by decide⟩ (.inl (by decide))).trans (statPut_self _ _ ⟨rfl, by decide⟩ (by decide))
theorem fwActivate_unstaged (hpend : s.flag pgMBCTL MAILBOX_CTL_FW_STAT_PENDING = false) (hemg : emergency s = false)
    (hstaged : s.flag pgMBCTL MAILBOX_CTL_FW_STAT_STAGED = false) :
    ∃ t, exec (.fwActivate m) s = .next t ∧ t.get pgMBCTL MAILBOX_CTL_FW_STAT_RESULT = 3 ∧ t.fw = s.fw := by
  rw [fwActivate_acts hw hbusy hpend, hemg, if_neg (by decide), hstaged, if_pos (by decide)]
  exact ⟨_, rfl, (State.refused_get _ _ _ _ _ (by decide)).trans (statPut_self _ _ ⟨rfl, by decide⟩ (by decide)), rfl⟩
theorem fwCancel_leaves : ∃ t, exec (.fwCancel m) s = .next t ∧ t.flag pgMBCTL MAILBOX_CTL_FW_STAT_PENDING = false ∧
    t.get pgMBCTL MAILBOX_CTL_FW_STAT_RESULT = 8 ∧ t.fw = s.fw := by
  refine ⟨_, fwCancel_cancels hw hbusy, flag_of_get_zero _ (statPut_self _ _ ⟨rfl, by decide⟩ (by decide)), ?_, rfl⟩
  exact (statPut_apart _ _ ⟨rfl, by decide⟩ (.inl (by decide))).trans (statPut_self _ _ ⟨rfl, by decide⟩ (by decide))
end

/-! ### Activation (R519, R520) -/

/-- The cores that an activation loads: those that passed the boot self-test. -/
def liveCores (s : State) : List Nat := [0, 1].filter fun n => !emDead s n
theorem liveCores_lt (s : State) : ∀ n ∈ liveCores s, n < 2 := fun n hn => by
  have hmem := List.mem_of_mem_filter hn
  rw [List.mem_cons, List.mem_singleton] at hmem
  omega
/-- The state in which the cores of an activation load, and that in which it has started. -/
def coresLoading (s : State) : State := s.newEpoch.each (liveCores s) fun s n => s.loadCore n 3
def activated (s : State) : State := ((coresLoading s).put pgMBCTL MAILBOX_CTL_FW_STAT_BUSY 1).fwm fun w =>
  { w with act := some { start := (coresLoading s).now, cores := liveCores s }, held := false }
theorem activate_eq (hstaged : s.flag pgMBCTL MAILBOX_CTL_FW_STAT_STAGED = true) : s.activate = activated s := by
  unfold State.activate
  rw [hstaged, if_neg (by decide)]
  rfl
theorem activated_act (s : State) : (activated s).fw.act = some { start := s.now, cores := liveCores s } := by
  have hnow : (coresLoading s).now = s.now :=
    (each_loadCore_now _ 3 _).trans (newEpoch_now s)
  unfold activated
  rw [hnow]
  rfl
theorem activated_stat (s : State) {f : Fld} (hf : f.ofStat) (h : f.hi < 31) : (activated s).get pgMBCTL f = s.get pgMBCTL f := by
  have hloaded := each_loadCore_rd s.newEpoch 3 (liveCores s) (liveCores_lt s) (o := pgMBCTL + MAILBOX_CTL_FW_STAT) (by decide) (by decide)
    (by decide)
  have hepoch := newEpoch_rd s (o := pgMBCTL + MAILBOX_CTL_FW_STAT) (by decide) (by decide)
  unfold activated
  rw [State.fwm_get, statPut_apart _ _ ⟨rfl, by decide⟩ (.inl h)]
  unfold State.get coresLoading
  rw [hf.1, hloaded, hepoch]
theorem activated_busy (s : State) : (activated s).flag pgMBCTL MAILBOX_CTL_FW_STAT_BUSY = true := by
  refine State.flag_eq_true ?_
  unfold activated
  rw [State.fwm_get]
  exact statPut_self _ _ ⟨rfl, by decide⟩ (by decide)
theorem activated_loads (s : State) {n : Nat} (hn : n < 2) (halive : emDead s n = false) : emState (activated s) n = 1 := by
  have hmem : n ∈ liveCores s := by
    refine List.mem_filter.mpr ⟨?_, by rw [halive]; rfl⟩
    rw [List.mem_cons, List.mem_singleton]
    omega
  have hloaded := each_loadCore_state s.newEpoch 3 (liveCores s) hn
  rw [if_pos hmem] at hloaded
  rw [← hloaded]
  unfold activated emState
  rw [State.fwm_get]
  refine State.get_put_page _ _ _ _ _ (by decide) (.inl ?_)
  simp only [MAILBOX_CTL_FW_STAT_BUSY, MAILBOX_CTL_EM_STAT_STATE]
  omega
/-- The rings of an activation are those of the new epoch. -/
theorem activated_ring (s : State) {r : Nat} (hr : r < 2) {f : Fld} (hf : f.off < 4096) :
    (activated s).get (mboxBase r) f = s.newEpoch.get (mboxBase r) f := by
  unfold activated State.get coresLoading
  rw [State.fwm_rd, State.rd_put_of_ne _ _ (by simp only [mboxBase, pgMBCTL, MAILBOX_CTL_FW_STAT_BUSY]; omega),
    each_loadCore_rd _ _ _ (liveCores_lt s)]
  all_goals
    simp only [mboxBase, pgMBCTL, MAILBOX_CTL_EM_STAT, HDR_IRQ_STAT, pgREC]
    omega
theorem fwActivate_starts (hw : mayWrite s m pgMBCTL MAILBOX_CTL_FW_CMD true = true) (hbusy : s.flag pgMBCTL MAILBOX_CTL_FW_STAT_BUSY = false)
    (hpend : s.flag pgMBCTL MAILBOX_CTL_FW_STAT_PENDING = false) (hemg : emergency s = false)
    (hstaged : s.flag pgMBCTL MAILBOX_CTL_FW_STAT_STAGED = true) (hre : coreRestarting s = false) :
    ∃ t, exec (.fwActivate m) s = .next t ∧ t.flag pgMBCTL MAILBOX_CTL_FW_STAT_BUSY = true ∧
      t.fw.act = some { start := s.now, cores := [0, 1].filter fun n => !emDead s n } ∧ (∀ n < 2, emDead s n = false → emState t n = 1) ∧
      ∀ r < 2, mbEpoch t r = (mbEpoch s r + 1) % 2 ^ 16 ∧ reqCons t r = reqProd s r := by
  have hdead : ∀ n, emDead (cmdShown s 2) n = emDead s n := fun n => State.flag_congr (State.get_put_apart _ _ (by decide) (.inl (by
    split <;> decide)))
  have hcores : liveCores (cmdShown s 2) = [0, 1].filter fun n => !emDead s n := List.filter_congr fun n _ => by rw [hdead]
  have hring : ∀ (r : Nat) (f : Fld), r < 2 → f.off < 4096 → (cmdShown s 2).get (mboxBase r) f = s.get (mboxBase r) f := fun r f hr hf =>
    State.get_put_apart _ _ (by decide) (.inl (by simp only [mboxBase, pgMBCTL, MAILBOX_CTL_FW_CMD_OP]; omega))
  rw [fwActivate_acts hw hbusy hpend, hemg, if_neg (by decide), hstaged, if_neg (by decide), hre, if_neg (by decide),
    activate_eq ((stat_flag_op s ⟨rfl, by decide⟩ 2).trans hstaged)]
  refine ⟨_, rfl, activated_busy _, ?_, fun n hn halive => activated_loads _ hn ((hdead n).trans halive), fun r hr => ⟨?_, ?_⟩⟩
  · rw [activated_act, hcores]
    rfl
  · refine (activated_ring _ hr (by decide)).trans ((newEpoch_mbEpoch _ hr).trans ?_)
    exact congrArg (fun n => (n + 1) % 2 ^ 16) (hring r MBOX_MB_STAT_EPOCH hr (by decide))
  · exact (activated_ring _ hr (by decide)).trans ((newEpoch_reqCons _ hr).trans (hring r MBOX_REQ_PROD_INDEX hr (by decide)))
theorem pendingActivation_starts (hpend : s.flag pgMBCTL MAILBOX_CTL_FW_STAT_PENDING = true) (hemg : emergency s = false) (hclock : s.clockOn = true)
    (hlate : s.energyAcc.fellAt + 1000000 ≤ s.now) (hstaged : s.flag pgMBCTL MAILBOX_CTL_FW_STAT_STAGED = true) (hre : coreRestarting s = false) :
    ∃ t, exec .pendingActivationStart s = .next t ∧ t.flag pgMBCTL MAILBOX_CTL_FW_STAT_PENDING = false ∧ t.fw.act.isSome = true := by
  have hre' : coreRestarting (s.put pgMBCTL MAILBOX_CTL_FW_STAT_PENDING 0) = false := by
    have hstate : ∀ n, emState (s.put pgMBCTL MAILBOX_CTL_FW_STAT_PENDING 0) n = emState s n := fun n =>
      State.get_put_page _ _ _ _ _ (by decide) (.inl (by simp only [MAILBOX_CTL_FW_STAT_PENDING, MAILBOX_CTL_EM_STAT_STATE]; omega))
    unfold coreRestarting at hre ⊢
    simp only [hstate]
    exact hre
  have hstaged' : (s.put pgMBCTL MAILBOX_CTL_FW_STAT_PENDING 0).flag pgMBCTL MAILBOX_CTL_FW_STAT_STAGED = true :=
    (State.flag_congr (statPut_apart _ _ ⟨rfl, by decide⟩ (.inl (by decide)))).trans hstaged
  show ∃ t, execPendingActivationStart s = _ ∧ _
  unfold execPendingActivationStart
  rw [if_neg (by simp [hpend, hemg, hclock]; omega)]
  dsimp only
  rw [hre', if_neg (by decide), activate_eq hstaged']
  refine ⟨_, rfl, flag_of_get_zero _ ?_, by rw [activated_act]; rfl⟩
  rw [activated_stat _ ⟨rfl, by decide⟩ (by decide), statPut_self _ _ ⟨rfl, by decide⟩ (by decide)]

/-! ### Commit (R520) -/

/-- The state of an activation that commits bank b. -/
def committed (s : State) (b : Nat) : State :=
  ((((((((s.fwm fun w => { w with act := none, active := true }).put pgMBCTL MAILBOX_CTL_FW_STAT_BANK b).wr (pgMBCTL + MAILBOX_CTL_FW_VER)
    (BitVec.ofNat 32 (le32 (bankHeader s b) 8))).wr (pgMBCTL + MAILBOX_CTL_MB_ID) (BitVec.ofNat 32 (le32 (bankHeader s b) 0xC))).fwUnstage.bump
      pgMBCTL MAILBOX_CTL_FW_STAT_COMMITS).put pgMBCTL MAILBOX_CTL_FW_STAT_BUSY 0).fwResult 0).irq pgMBCTL 1)
theorem activationCommit_commits {a : FwAct} (hact : s.fw.act = some a)
    (hall : ∀ n ∈ a.cores, emRuns s n = true ∧ a.kicked.contains n = true ∧ a.spoiled.contains n = false) :
    exec .activationCommit s = .next (committed s (1 - fwBank s)) := by
  have hready : (a.cores.all fun n => emRuns s n && a.kicked.contains n && !a.spoiled.contains n) = true := by
    rw [List.all_eq_true]
    intro n hn
    obtain ⟨hruns, hkicked, hclean⟩ := hall n hn
    rw [hruns, hkicked, hclean]
    rfl
  show execActivationCommit s = _
  unfold execActivationCommit
  rw [hact]
  dsimp only
  rw [hready, if_neg (by decide)]
  rfl
section
variable (s : State) (b : Nat) {f : Fld}

theorem committed_stat (hf : f.ofStat) : (committed s b).get pgMBCTL f = (((((((((s.fwm fun w => { w with act := none, active := true }).put pgMBCTL
    MAILBOX_CTL_FW_STAT_BANK b).wr (pgMBCTL + MAILBOX_CTL_FW_VER) (BitVec.ofNat 32 (le32 (bankHeader s b) 8))).wr (pgMBCTL + MAILBOX_CTL_MB_ID)
      (BitVec.ofNat 32 (le32 (bankHeader s b) 0xC))).fwUnstage.bump pgMBCTL MAILBOX_CTL_FW_STAT_COMMITS).put pgMBCTL MAILBOX_CTL_FW_STAT_BUSY 0).put
        pgMBCTL MAILBOX_CTL_FW_STAT_RESULT 0).get pgMBCTL f)) := irq_stat _ hf 1
theorem committed_bank (hb : b < 2) : fwBank (committed s b) = b := by
  unfold fwBank
  rw [committed_stat s b ⟨rfl, by decide⟩, statPut_apart _ _ ⟨rfl, by decide⟩ (.inr (by decide)),
    statPut_apart _ _ ⟨rfl, by decide⟩ (.inl (by decide)),
    State.get_bump_apart _ _ (by decide) (.inr (.inr (by decide))), fwUnstage_ctl _ rfl (.inl (by decide)),
    State.get_wr_of_ne _ _ _ (by decide), State.get_wr_of_ne _ _ _ (by decide), statPut_self _ _ ⟨rfl, by decide⟩ hb]
theorem committed_commits : (committed s b).get pgMBCTL MAILBOX_CTL_FW_STAT_COMMITS = (s.get pgMBCTL MAILBOX_CTL_FW_STAT_COMMITS + 1) % 256 := by
  rw [committed_stat s b ⟨rfl, by decide⟩, statPut_apart _ _ ⟨rfl, by decide⟩ (.inl (by decide)),
    statPut_apart _ _ ⟨rfl, by decide⟩ (.inl (by decide)),
    State.get_bump_self _ _ _ _ (by decide), fwUnstage_ctl _ rfl (.inl (by decide)), State.get_wr_of_ne _ _ _ (by decide),
    State.get_wr_of_ne _ _ _ (by decide), statPut_apart _ _ ⟨rfl, by decide⟩ (.inl (by decide))]
  rfl
theorem committed_staged : (committed s b).flag pgMBCTL MAILBOX_CTL_FW_STAT_STAGED = false := by
  refine flag_of_get_zero _ ?_
  rw [committed_stat s b ⟨rfl, by decide⟩, statPut_apart _ _ ⟨rfl, by decide⟩ (.inr (by decide)),
    statPut_apart _ _ ⟨rfl, by decide⟩ (.inl (by decide)),
    State.get_bump_apart _ _ (by decide) (.inr (.inr (by decide))), fwUnstage_staged]
theorem committed_busy : (committed s b).flag pgMBCTL MAILBOX_CTL_FW_STAT_BUSY = false := by
  refine flag_of_get_zero _ ?_
  rw [committed_stat s b ⟨rfl, by decide⟩, statPut_apart _ _ ⟨rfl, by decide⟩ (.inr (by decide)), statPut_self _ _ ⟨rfl, by decide⟩ (by decide)]
theorem committed_result : (committed s b).get pgMBCTL MAILBOX_CTL_FW_STAT_RESULT = 0 := by
  rw [committed_stat s b ⟨rfl, by decide⟩, statPut_self _ _ ⟨rfl, by decide⟩ (by decide)]
theorem le32_lt (x o : Nat) : le32 x o < 2 ^ 32 := by
  unfold le32 bits
  rw [show 8 * o + 31 + 1 - 8 * o = 32 by omega]
  exact Nat.mod_lt _ (by decide)
theorem committed_ver : (committed s b).get pgMBCTL MAILBOX_CTL_FW_VER_VER = le32 (bankHeader s b) 8 := by
  have hlt := le32_lt (bankHeader s b) 8
  have hword : (committed s b).rd (pgMBCTL + MAILBOX_CTL_FW_VER) = BitVec.ofNat 32 (le32 (bankHeader s b) 8) := by
    unfold committed State.fwResult State.fwUnstage
    rw [State.irq_rd _ _ _ _ (by decide) (by decide), State.rd_put_of_ne _ _ (by decide), State.rd_put_of_ne _ _ (by decide),
      State.bump_rd _ _ (by decide), State.rd_wr_of_ne _ _ (by decide), State.rd_put_of_ne _ _ (by decide), State.rd_wr_of_ne _ _ (by decide),
      State.rd_wr_self]
  show MAILBOX_CTL_FW_VER_VER.of ((committed s b).rd (pgMBCTL + MAILBOX_CTL_FW_VER)) = _
  rw [hword]
  unfold Fld.of bits
  rw [BitVec.toNat_ofNat, Nat.mod_eq_of_lt hlt]
  exact Nat.mod_eq_of_lt hlt
theorem committed_fw : (committed s b).fw = { s.fw with act := none, active := true } := State.irq_fw ..
end
theorem activationKickTimeout_fallsBack {a : FwAct} (hact : s.fw.act = some a) (hclock : s.clockOn = true) (hlate : a.start + 5000000 ≤ s.now)
    (hmissing : ∃ n ∈ a.cores, a.kicked.contains n = false ∨ a.spoiled.contains n = true) :
    exec .activationKickTimeout s = .next (s.fallBack a) := by
  have hnot : (a.cores.all fun n => a.kicked.contains n && !a.spoiled.contains n) = false := by
    rw [List.all_eq_false]
    obtain ⟨n, hn, h⟩ := hmissing
    refine ⟨n, hn, ?_⟩
    obtain h | h := h <;> simp only [h] <;> simp
  show execActivationKickTimeout s = _
  unfold execActivationKickTimeout
  rw [hact]
  dsimp only
  rw [hnot, hclock, if_neg (by simp; omega)]

/-! ### The image read (R517, R518) -/

section
variable {l : FwLoad} (hload : s.fw.load = some l) (hover : loadOver l = true) (hans : s.hub.answers = [])
include hload hover hans

theorem loadRun_over : s.loadRun = s := by
  unfold State.loadRun
  rw [hload, hans]
  dsimp only [List.find?]
  rw [hload]
  dsimp only
  rw [hover, Bool.or_true, if_pos rfl]
/-- The state in which the loader has ended, with the check that failed. -/
def loadEnded (s : State) (chk : Nat) : State :=
  ((s.fwm fun w => { w with load := none }).put pgMBCTL MAILBOX_CTL_FW_STAT_BUSY 0).put pgMBCTL MAILBOX_CTL_FW_STAT_CHECK chk
/-- The state in which the image read stands in bank b. -/
def imageStaged (s : State) (l : FwLoad) : State :=
  (((loadEnded s 0).fwm fun w => { w with banks := Sp.set w.banks (1 - fwBank (loadEnded s 0)) (Mem.writeN [] 0 l.data
    (imageLen l.data)) }).put pgMBCTL
    MAILBOX_CTL_FW_STAT_STAGED 1).wr (pgMBCTL + MAILBOX_CTL_FW_SVER) (BitVec.ofNat 32 (le32 l.data 8))
theorem fwStageDone_ends : exec .fwStageDone s = .next ((if l.bad then (loadEnded s 0).fwResult 5
    else if imageCheck l.data ≠ 0 then (loadEnded s (imageCheck l.data)).fwResult 4 else (imageStaged s l).fwResult 0).irq pgMBCTL 0) := by
  show execFwStageDone s = _
  unfold execFwStageDone
  rw [loadRun_over hload hover hans]
  dsimp only
  rw [hload]
  dsimp only
  rw [hover, if_neg (by decide)]
  unfold imageStaged loadEnded
  cases hbad : l.bad with
  | true => simp only [if_true]
  | false =>
    by_cases hchk : imageCheck l.data = 0
    · simp only [hchk, Bool.false_eq_true, if_false, ne_eq, not_true_eq_false]
    · simp only [hchk, Bool.false_eq_true, if_false, ne_eq, not_false_eq_true, if_true]
end

theorem loadEnded_busy (s : State) (chk : Nat) : (loadEnded s chk).get pgMBCTL MAILBOX_CTL_FW_STAT_BUSY = 0 := by
  unfold loadEnded
  rw [statPut_apart _ _ ⟨rfl, by decide⟩ (.inr (by decide)), statPut_self _ _ ⟨rfl, by decide⟩ (by decide)]
theorem loadEnded_other (s : State) (chk : Nat) {f : Fld} (hhi : f.hi < 31) (hlo : 15 < f.lo) :
    (loadEnded s chk).get pgMBCTL f = s.get pgMBCTL f := by
  unfold loadEnded
  rw [statPut_apart _ _ ⟨rfl, by decide⟩ (.inr hlo), statPut_apart _ _ ⟨rfl, by decide⟩ (.inl hhi), State.fwm_get]
/-- A loader that ends without an image staged shows its RESULT. -/
theorem loadEnded_result (s : State) (chk : Nat) {r : Nat} (hr : r < 16) :
    (((loadEnded s chk).fwResult r).irq pgMBCTL 0).get pgMBCTL MAILBOX_CTL_FW_STAT_RESULT = r ∧
      (((loadEnded s chk).fwResult r).irq pgMBCTL 0).flag pgMBCTL MAILBOX_CTL_FW_STAT_BUSY = false ∧
      (((loadEnded s chk).fwResult r).irq pgMBCTL 0).fw = { s.fw with load := none } := by
  refine ⟨?_, flag_of_get_zero _ ?_, State.irq_fw ..⟩
  · rw [irq_stat _ ⟨rfl, by decide⟩]
    exact statPut_self _ _ ⟨rfl, by decide⟩ hr
  · rw [irq_stat _ ⟨rfl, by decide⟩]
    exact (statPut_apart _ _ ⟨rfl, by decide⟩ (.inr (by decide))).trans (loadEnded_busy s chk)
theorem headerCheck_le (x : Nat) : headerCheck x ≤ 2 := by
  unfold headerCheck
  dsimp only
  split
  · decide
  · split <;> decide
theorem imageCheck_le (x : Nat) : imageCheck x ≤ 6 := by
  have hheader := headerCheck_le x
  unfold imageCheck
  dsimp only
  split
  · omega
  · split
    · decide
    · split
      · decide
      · split
        · decide
        · split <;> decide

section
variable {l : FwLoad} (hload : s.fw.load = some l) (hover : loadOver l = true) (hans : s.hub.answers = [])
include hload hover hans

theorem fwStageDone_unread (hbad : l.bad = true) : ∃ t, exec .fwStageDone s = .next t ∧ t.get pgMBCTL MAILBOX_CTL_FW_STAT_RESULT = 5 ∧
    t.flag pgMBCTL MAILBOX_CTL_FW_STAT_BUSY = false ∧ t.fw.load = none ∧ t.fw.banks = s.fw.banks := by
  obtain ⟨hresult, hbusy, hfw⟩ := loadEnded_result s 0 (r := 5) (by decide)
  rw [fwStageDone_ends hload hover hans, hbad, if_pos rfl]
  exact ⟨_, rfl, hresult, hbusy, by rw [hfw], by rw [hfw]⟩
theorem fwStageDone_refused (hbad : l.bad = false) (hchk : imageCheck l.data ≠ 0) : ∃ t, exec .fwStageDone s = .next t ∧
    t.flag pgMBCTL MAILBOX_CTL_FW_STAT_BUSY = false ∧ t.fw.load = none ∧ t.get pgMBCTL MAILBOX_CTL_FW_STAT_RESULT = 4 ∧
    t.get pgMBCTL MAILBOX_CTL_FW_STAT_CHECK = imageCheck l.data ∧
    t.flag pgMBCTL MAILBOX_CTL_FW_STAT_STAGED = s.flag pgMBCTL MAILBOX_CTL_FW_STAT_STAGED ∧ t.fw.banks = s.fw.banks := by
  have hsmall := imageCheck_le l.data
  have hends := fwStageDone_ends hload hover hans
  rw [hbad, if_neg (by decide), if_pos hchk] at hends
  generalize imageCheck l.data = chk at hends hsmall
  obtain ⟨hresult, hbusy, hfw⟩ := loadEnded_result s chk (r := 4) (by decide)
  refine ⟨_, hends, hbusy, by rw [hfw], hresult, ?_, State.flag_congr ?_, by rw [hfw]⟩
  · rw [irq_stat _ ⟨rfl, by decide⟩]
    refine (statPut_apart _ _ ⟨rfl, by decide⟩ (.inl (by decide))).trans ?_
    exact statPut_self _ _ ⟨rfl, by decide⟩ (Nat.lt_of_le_of_lt hsmall (by decide))
  · rw [irq_stat _ ⟨rfl, by decide⟩]
    exact (statPut_apart _ _ ⟨rfl, by decide⟩ (.inr (by decide))).trans (loadEnded_other s chk (by decide) (by decide))
omit hload hover hans in
theorem imageStaged_fw : (imageStaged s l).fw =
    { s.fw with load := none, banks := Sp.set s.fw.banks (1 - fwBank (loadEnded s 0)) (Mem.writeN [] 0 l.data (imageLen l.data)) } := by
  unfold imageStaged
  rw [State.wr_fw, State.put_fw, State.fwm_fw]
  rfl
theorem fwStageDone_staged (hbad : l.bad = false) (hchk : imageCheck l.data = 0) : ∃ t, exec .fwStageDone s = .next t ∧
    t.flag pgMBCTL MAILBOX_CTL_FW_STAT_BUSY = false ∧ t.fw.load = none ∧ t.flag pgMBCTL MAILBOX_CTL_FW_STAT_STAGED = true ∧
    t.get pgMBCTL MAILBOX_CTL_FW_STAT_RESULT = 0 ∧ t.get pgMBCTL MAILBOX_CTL_FW_SVER_VER = le32 l.data 8 ∧
    Sp.get [] t.fw.banks (1 - fwBank s) = Mem.writeN [] 0 l.data (imageLen l.data) := by
  have hends := fwStageDone_ends hload hover hans
  rw [hbad, if_neg (by decide), if_neg (by simp [hchk])] at hends
  have hbank : fwBank (loadEnded s 0) = fwBank s := loadEnded_other s 0 (by decide) (by decide)
  have hfw : (((imageStaged s l).fwResult 0).irq pgMBCTL 0).fw = (imageStaged s l).fw := (State.irq_fw ..).trans (State.put_fw ..)
  have hver := le32_lt l.data 8
  refine ⟨_, hends, flag_of_get_zero _ ?_, by rw [hfw, imageStaged_fw], State.flag_eq_true ?_, ?_, ?_, ?_⟩
  · rw [irq_stat _ ⟨rfl, by decide⟩]
    refine (statPut_apart _ _ ⟨rfl, by decide⟩ (.inr (by decide))).trans ?_
    unfold imageStaged
    rw [State.get_wr_of_ne _ _ _ (by decide), statPut_apart _ _ ⟨rfl, by decide⟩ (.inr (by decide)), State.fwm_get, loadEnded_busy]
  · rw [irq_stat _ ⟨rfl, by decide⟩]
    refine (statPut_apart _ _ ⟨rfl, by decide⟩ (.inr (by decide))).trans ?_
    unfold imageStaged
    rw [State.get_wr_of_ne _ _ _ (by decide), statPut_self _ _ ⟨rfl, by decide⟩ (by decide)]
  · rw [irq_stat _ ⟨rfl, by decide⟩]
    exact statPut_self _ _ ⟨rfl, by decide⟩ (by decide)
  · have hword : (((imageStaged s l).fwResult 0).irq pgMBCTL 0).rd (pgMBCTL + MAILBOX_CTL_FW_SVER) = BitVec.ofNat 32 (le32 l.data 8) := by
      rw [State.irq_rd _ _ _ _ (by decide) (by decide)]
      exact (State.rd_put_of_ne _ _ (by decide)).trans (State.rd_wr_self ..)
    show MAILBOX_CTL_FW_SVER_VER.of ((((imageStaged s l).fwResult 0).irq pgMBCTL 0).rd (pgMBCTL + MAILBOX_CTL_FW_SVER)) = _
    rw [hword]
    unfold Fld.of bits
    rw [BitVec.toNat_ofNat, Nat.mod_eq_of_lt hver]
    exact Nat.mod_eq_of_lt hver
  · rw [hfw, imageStaged_fw, hbank, Sp.get_set_self]
end
end

/-- Settles O46: FW_CMD by its operation, the loader's end by the check that its image passes, and an activation from its start (`activated`) to
its commit (`committed`) or its fall back. -/
theorem firmwareCommands : Obligations.FirmwareCommands := by
  refine ⟨fun s m hw hbusy hpend => fwStage_leaves hw hbusy hpend, fun s l hload hover hans => ⟨fun hbad => ?_, fwStageDone_unread hload hover hans⟩,
    fun s m hw hbusy hpend => ⟨fwActivate_starts hw hbusy hpend, fwActivate_waits hw hbusy hpend, fwActivate_unstaged hw hbusy hpend⟩,
    fun s m hw hbusy => fwCancel_leaves hw hbusy,
    fun s hpend hemg hclock hlate hstaged hre => pendingActivation_starts hpend hemg hclock hlate hstaged hre, fun s a hact hall => ?_,
    fun s a hact hclock hlate hmissing => ?_⟩
  · by_cases hchk : imageCheck l.data = 0
    · obtain ⟨t, hexec, hbusy, hnone, hstaged⟩ := fwStageDone_staged hload hover hans hbad hchk
      exact ⟨t, hexec, hbusy, hnone, by rw [if_pos hchk]; exact hstaged⟩
    · obtain ⟨t, hexec, hbusy, hnone, hrefused⟩ := fwStageDone_refused hload hover hans hbad hchk
      exact ⟨t, hexec, hbusy, hnone, by rw [if_neg hchk]; exact hrefused⟩
  · have hbank : 1 - fwBank s < 2 := Nat.lt_of_le_of_lt (Nat.sub_le ..) (by decide)
    have hfw := committed_fw s (1 - fwBank s)
    exact ⟨_, activationCommit_commits hact hall, committed_bank s _ hbank, by rw [hfw], by rw [hfw], committed_ver s _, committed_staged s _,
      committed_commits s _, committed_busy s _, committed_result s _⟩
  · exact ⟨_, activationKickTimeout_fallsBack hact hclock hlate hmissing, fallBack_fw s a, fallBack_busy s a, fallBack_bank s a,
      fallBack_staged s a, fallBack_result s a⟩

end Sys2Proof.Machine

/-! PROOFS. The lifetime records (spec/18_observability.md R542 to R549): the image's first counter apart from its other bytes, and the slot writes
and the base by what they make of EM0's own record of the life store. -/
namespace Sys2Proof.Machine

/-! ### The image and its first counter (R543, R544) -/

/-- An image written to another in canonical form, with the uptime counter as it was. -/
def KeepsUptime (m k : List Host.Cell) : Prop := Mem.wf m = true → Mem.wf k = true ∧ lifeCtr k 0 = lifeCtr m 0
theorem KeepsUptime.refl (m : List Host.Cell) : KeepsUptime m m := fun h => ⟨h, rfl⟩
theorem KeepsUptime.trans {m k l : List Host.Cell} (hmk : KeepsUptime m k) (hkl : KeepsUptime k l) : KeepsUptime m l := fun h => by
  obtain ⟨hk, huptime⟩ := hmk h
  obtain ⟨hl, huptime'⟩ := hkl hk
  exact ⟨hl, huptime'.trans huptime⟩
theorem KeepsUptime.foldl {α : Type} (f : List Host.Cell → α → List Host.Cell) (l : List α) (h : ∀ m, ∀ x ∈ l, KeepsUptime m (f m x)) :
    ∀ m, KeepsUptime m (l.foldl f m) := by
  induction l with
  | nil => exact fun m => .refl m
  | cons x l ih =>
    exact fun m => (h m x List.mem_cons_self).trans (ih (fun m y hy => h m y (List.mem_cons_of_mem _ hy)) _)
theorem readN_congr {m k : List Host.Cell} (n : Nat) : ∀ a, (∀ b, a ≤ b → b < a + n → Mem.read k b = Mem.read m b) →
    Mem.readN k a n = Mem.readN m a n := by
  induction n with
  | zero => exact fun _ _ => rfl
  | succ n ih =>
    intro a h
    unfold Mem.readN
    rw [h a (Nat.le_refl a) (by omega), ih (a + 1) fun b hlo hhi => h b (by omega) (by omega)]
/-- Bytes put above the uptime counter leave it. -/
theorem imgPut_keepsUptime (m : List Host.Cell) (off n v : Nat) (h : 0x48 ≤ off) : KeepsUptime m (imgPut m off n v) := fun hwf =>
  ⟨Mem.wf_writeN n m off v hwf, readN_congr 8 0x40 fun b _ hb => Mem.read_writeN_outside n m off v b hwf (.inl (by omega))⟩
theorem lifeAdd_keepsUptime (m : List Host.Cell) {n : Nat} (d : Nat) (h : 1 ≤ n) : KeepsUptime m (lifeAdd m n d) :=
  imgPut_keepsUptime _ _ _ _ (by omega)
theorem cellAdd_keepsUptime (m : List Host.Cell) {off : Nat} (d : Nat) (h : 0x48 ≤ off) : KeepsUptime m (cellAdd m off d) := by
  unfold cellAdd
  split
  · exact .refl m
  · exact imgPut_keepsUptime _ _ _ _ h
theorem lifeMax_keepsUptime (m : List Host.Cell) {n : Nat} (v : Int) (h : 1 ≤ n) : KeepsUptime m (lifeMax m n v) := by
  unfold lifeMax
  split
  · exact imgPut_keepsUptime _ _ _ _ (by omega)
  · exact .refl m
theorem histAdd_keepsUptime (m : List Host.Cell) {off : Nat} (b : Nat) (h : 0x48 ≤ off) : KeepsUptime m (histAdd m off b) :=
  cellAdd_keepsUptime _ _ (by omega)
/-- No counter that EM0 samples is added to the uptime. -/
theorem lifeSources_counter (s : State) : ∀ e ∈ lifeSources s, 1 ≤ e.2.1 := by
  intro e he
  unfold lifeSources at he
  simp only [List.mem_append, List.mem_map, List.mem_cons, List.not_mem_nil, or_false] at he
  obtain (h | ⟨p, -, rfl⟩) | ⟨p, -, rfl⟩ := he
  · obtain rfl | rfl | rfl | rfl | rfl | rfl | rfl | rfl | rfl | rfl := h <;> exact Nat.succ_le_succ (Nat.zero_le _)
  · exact Nat.succ_le_succ (Nat.zero_le _)
  · exact Nat.succ_le_succ (Nat.zero_le _)
theorem addDeltas_keepsUptime (s : State) (m : List Host.Cell) : KeepsUptime m (addDeltas s m) := by
  refine (KeepsUptime.foldl _ (lifeSources s) (fun m e he => ?_) m).trans (KeepsUptime.foldl _ _ (fun m q _ => ?_) _)
  · exact lifeAdd_keepsUptime m _ (lifeSources_counter s e he)
  · exact (cellAdd_keepsUptime m _ (by omega)).trans (cellAdd_keepsUptime _ _ (by omega))
theorem addHists_keepsUptime (s : State) (m : List Host.Cell) : KeepsUptime m (addHists s m) := by
  unfold addHists
  refine (((KeepsUptime.foldl _ _ (fun m q _ => ?_) m).trans (histAdd_keepsUptime _ _ (by decide))).trans
    (histAdd_keepsUptime _ _ (by decide))).trans ((histAdd_keepsUptime _ _ (by decide)).trans (histAdd_keepsUptime _ _ (by decide)))
  split
  · exact histAdd_keepsUptime m _ (by omega)
  · exact .refl m
/-- One second more of uptime. -/
theorem lifeAdd_uptime (m : List Host.Cell) (h : Mem.wf m = true) (hlt : lifeCtr m 0 + 1 < 2 ^ 64) :
    Mem.wf (lifeAdd m 0 1) = true ∧ lifeCtr (lifeAdd m 0 1) 0 = lifeCtr m 0 + 1 := by
  have hadd : lifeAdd m 0 1 = Mem.writeN m 0x40 (lifeCtr m 0 + 1) 8 := by
    unfold lifeAdd imgPut
    rw [show lifeWide 0 = true by decide]
    rfl
  have hread : ∀ k, lifeCtr k 0 = Mem.readN k 0x40 8 := fun _ => rfl
  rw [hadd, hread (Mem.writeN ..), Mem.readN_writeN _ _ _ _ h]
  exact ⟨Mem.wf_writeN 8 m _ _ h, Nat.mod_eq_of_lt hlt⟩

/-! ### Samples (R542, R544) -/

section
variable {s : State}

/-- The image that a sample leaves. -/
def sampledImage (s : State) : List Host.Cell :=
  addHists s (lifeMax (lifeMax (lifeAdd (lifeAdd (addDeltas s s.life.img) 0 1) 4 (b2n (emergency s))) 14
    (signed 12 (s.get pgPOWER POWER_TH_STAT_TEMP))) 15 (s.get pgPOWER POWER_PACE_DEV_DEV))
theorem sampledImage_uptime (hwf : Mem.wf s.life.img = true) (hlt : lifeCtr s.life.img 0 + 1 < 2 ^ 64) :
    lifeCtr (sampledImage s) 0 = lifeCtr s.life.img 0 + 1 := by
  obtain ⟨hdeltas, hctr⟩ := addDeltas_keepsUptime s s.life.img hwf
  obtain ⟨hup, hone⟩ := lifeAdd_uptime _ hdeltas (by rw [hctr]; exact hlt)
  have hrest := ((lifeAdd_keepsUptime (lifeAdd (addDeltas s s.life.img) 0 1) (n := 4) (b2n (emergency s)) (by decide)).trans
    ((lifeMax_keepsUptime _ (n := 14) (signed 12 (s.get pgPOWER POWER_TH_STAT_TEMP)) (by decide)).trans
      (lifeMax_keepsUptime _ (n := 15) (s.get pgPOWER POWER_PACE_DEV_DEV) (by decide)))).trans (addHists_keepsUptime s _)
  exact (hrest hup).2.trans (hone.trans (by rw [hctr]))
theorem lifeSample_samples (hclock : s.clockOn = true) (hruns : emRuns s 0 = true) (hl : s.life.loaded = true)
    (hdue : s.life.sampled / 100000000 < s.now / 100000000) (hwf : Mem.wf s.life.img = true) (hlt : lifeCtr s.life.img 0 + 1 < 2 ^ 64) :
    ∃ t, exec .lifeSample s = .next t ∧ t.life.sampled = s.now ∧ lifeCtr t.life.img 0 = lifeCtr s.life.img 0 + 1 ∧ t.regs = s.regs := by
  have hexec : exec .lifeSample s = .next (s.takeSamples.lif fun l => { l with img := sampledImage s, sampled := s.now }) := by
    show execLifeSample s = _
    unfold execLifeSample sampledImage
    rw [if_neg (by simp [hclock, hruns, hl]; omega)]
  refine ⟨_, hexec, ?_, ?_, ?_⟩
  · rw [State.lif_life]
  · rw [State.lif_life]
    exact sampledImage_uptime hwf hlt
  · rw [State.lif_regs, State.takeSamples, State.lif_regs]

/-! ### Flushes (R547, R549) -/

section
variable (hclock : s.clockOn = true) (hruns : emRuns s 0 = true) (hl : s.life.loaded = true)
  (hdue : s.life.flushAt / 6000000000 < s.now / 6000000000) (hw : s.life.writing = none)
include hclock hruns hl hdue hw

theorem exec_lifePeriodicFlush : exec .lifePeriodicFlush s = .next ((s.lif fun l => { l with flushAt := s.now }).flush none) := by
  show execLifePeriodicFlush s = _
  unfold execLifePeriodicFlush
  rw [if_neg (by simp [hclock, hruns, hl, hw]; omega)]
theorem periodicFlush_writes {k : Nat} (ho : s.cfg.optN = true) (hslot : nextGood s s.life.slot = some k) :
    ∃ t, exec .lifePeriodicFlush s = .next t ∧ t.life.writing = some k ∧ t.life.next = flushImage s ∧ t.life.flushAt = s.now := by
  have hslot' : nextGood (s.lif fun l => { l with flushAt := s.now }) (s.lif fun l => { l with flushAt := s.now }).life.slot = some k := hslot
  rw [exec_lifePeriodicFlush hclock hruns hl hdue hw]
  unfold State.flush
  rw [if_neg (by rw [State.lif_cfg, ho]; decide), hslot']
  exact ⟨_, rfl, rfl, rfl, rfl⟩
theorem periodicFlush_prepares (ho : s.cfg.optN = false) : ∃ t, exec .lifePeriodicFlush s = .next t ∧ t.life.ready = true ∧
    t.life.flushed = flushImage s ∧
    t.get pgREC RECORDER_LS_FLUSHES_COUNT = (s.get pgREC RECORDER_LS_FLUSHES_COUNT + b2n (domOn s 194)) % 2 ^ 32 := by
  have himage : flushImage (s.lif fun l => { l with flushAt := s.now }) = flushImage s := rfl
  have hcount : ∀ u : State, (u.irq pgREC 5).get pgREC RECORDER_LS_FLUSHES_COUNT = u.get pgREC RECORDER_LS_FLUSHES_COUNT := fun u =>
    congrArg RECORDER_LS_FLUSHES_COUNT.of (irq_rd_of_uncounted u pgREC 5 (uncounted_of_page (.inr (.inl (by decide)))) (by decide) (by decide))
  rw [exec_lifePeriodicFlush hclock hruns hl hdue hw]
  unfold State.flush
  rw [if_pos (by rw [State.lif_cfg, ho]; rfl), himage]
  refine ⟨_, rfl, ?_, ?_, ?_⟩
  · rw [State.irq_life, flushed_life]
  · rw [State.irq_life, flushed_life]
  · rw [hcount, flushed_flushes]
    rfl
end

/-! ### Slot writes (R547) -/

theorem nextGood_good {k j : Nat} (h : nextGood s k = some j) : slotGood s j = true ∧ j < 8 := by
  have hmem := List.mem_of_find?_eq_some h
  obtain ⟨i, -, rfl⟩ := List.mem_map.mp hmem
  exact ⟨List.find?_some h, Nat.mod_lt _ (by decide)⟩
theorem nextGood_congr {t : State} (h : t.life.bad = s.life.bad) (k : Nat) : nextGood t k = nextGood s k := by
  unfold nextGood
  rw [show slotGood t = slotGood s from funext fun j => by unfold slotGood; rw [h]]
theorem irq_rec_rd (u : State) (k : Nat) {o : Nat} (h : pgREC + RECORDER_RC_MISSED < o ∧ o < pgREC + RECORDER_TRG_HITS) :
    (u.irq pgREC k).rd o = u.rd o := by
  have hne : o ≠ pgREC + HDR_IRQ_STAT := by
    simp only [RECORDER_RC_MISSED, HDR_IRQ_STAT] at *
    omega
  exact irq_rd_of_uncounted u pgREC k (uncounted_of_page (.inr (.inl h))) hne hne
/-- A change of EM0's own record of the life store leaves the LS registers. -/
def lifeEnded (u : State) : State := u.lif fun l => { l with writing := none, next := [], reply := none }

section
variable {k : Nat}

/-- The state in which slot k holds the image that the flush wrote. -/
def slotWritten (s : State) (k : Nat) : State := (s.lif fun l => { l with store := Sp.set l.store k s.life.next }).flushed s.life.next
theorem slotWritten_life (s : State) (k : Nat) : (slotWritten s k).life = { s.life with
    store := Sp.set s.life.store k s.life.next, flushed := s.life.next, ready := true, img := imgPut s.life.img 8 4 (imgGet s.life.next 8 4),
    lastAt := imgGet s.life.next 0x10 8 } := (flushed_life ..).trans (by rw [State.lif_life])
theorem slotWritten_domOn (s : State) (k : Nat) : domOn (slotWritten s k) 194 = domOn s 194 :=
  domOn_congr (fun o ho => (flushed_rd _ _ ho).trans (State.lif_rd ..)) (by decide)
theorem exec_flushWritten (hw : s.life.writing = some k) (hr : s.life.reply = none) : exec (.lifeFlushWritten true) s =
    .next (lifeEnded (((slotWritten s k).lsNext ((nextGood (slotWritten s k) (k + 1)).getD 0)).irq pgREC 3)) := by
  have hreply : (((slotWritten s k).lsNext ((nextGood (slotWritten s k) (k + 1)).getD 0)).irq pgREC 3).life.reply = none := by
    rw [State.irq_life, lsNext_life, slotWritten_life]
    exact hr
  show execLifeFlushWritten true s = _
  unfold execLifeFlushWritten
  rw [hw]
  dsimp only
  rw [if_pos rfl]
  refine congrArg Host.Outcome.next ?_
  unfold slotWritten at hreply ⊢
  rw [hreply]
  rfl
theorem flushWritten_verifies (hw : s.life.writing = some k) (hr : s.life.reply = none) :
    ∃ t, exec (.lifeFlushWritten true) s = .next t ∧ Sp.get [] t.life.store k = s.life.next ∧ t.life.writing = none ∧
      t.life.flushed = s.life.next ∧
      t.get pgREC RECORDER_LS_FLUSHES_COUNT = (s.get pgREC RECORDER_LS_FLUSHES_COUNT + b2n (domOn s 194)) % 2 ^ 32 ∧
      ∀ j, nextGood s (k + 1) = some j → t.life.slot = j ∧ (domOn s 194 = true → t.get pgREC RECORDER_LS_STAT_NEXT = j) := by
  have hlife : ∀ (u : State) n, (lifeEnded ((u.lsNext n).irq pgREC 3)).life = { u.life with slot := n, writing := none, next := [], reply := none } :=
    fun u n => by rw [lifeEnded, State.lif_life, State.irq_life, lsNext_life]
  have hrd : ∀ (u : State) n o, pgREC + RECORDER_RC_MISSED < o ∧ o < pgREC + RECORDER_TRG_HITS →
      (lifeEnded ((u.lsNext n).irq pgREC 3)).rd o = (u.lsNext n).rd o := fun u n o ho => (State.lif_rd ..).trans (irq_rec_rd _ _ ho)
  refine ⟨_, exec_flushWritten hw hr, ?_, ?_, ?_, ?_, fun j hj => ⟨?_, fun hon => ?_⟩⟩
  · rw [hlife, slotWritten_life]
    exact Sp.get_set_self ..
  · rw [hlife]
  · rw [hlife, slotWritten_life]
  · unfold State.get
    rw [hrd _ _ _ (by decide), lsNext_rd _ _ (by decide)]
    refine (flushed_flushes _ _).trans ?_
    rfl
  · have hnext : nextGood (slotWritten s k) (k + 1) = some j := (nextGood_congr (by rw [slotWritten_life]) _).trans hj
    rw [hlife, hnext]
    rfl
  · have hnext : nextGood (slotWritten s k) (k + 1) = some j := (nextGood_congr (by rw [slotWritten_life]) _).trans hj
    have hsmall := (nextGood_good hj).2
    rw [hnext]
    unfold State.get
    rw [hrd _ _ _ (by decide)]
    exact lsNext_next _ ((slotWritten_domOn s k).trans hon) (Nat.lt_trans hsmall (by decide))

/-- The state in which slot k is marked bad. -/
def slotMarked (s : State) (k : Nat) : State :=
  ((s.lif fun l => { l with bad := l.bad ||| 2 ^ k }).lsWrite fun s => s.put pgREC ⟨RECORDER_LS_STAT, 8 + k, 8 + k⟩ 1).irq pgREC 4
theorem slotMarked_life (s : State) (k : Nat) : (slotMarked s k).life = { s.life with bad := s.life.bad ||| 2 ^ k } := by
  unfold slotMarked
  rw [State.irq_life]
  exact lsWrite_of (s.lif _) State.life _ rfl
theorem slotMarked_rd (s : State) (k : Nat) {o : Nat} (h : o < pgREC) : (slotMarked s k).rd o = s.rd o := by
  unfold slotMarked
  rw [State.irq_rd _ _ _ _ (by simp only [HDR_IRQ_STAT]; omega) (.inl h)]
  exact (lsWrite_of (s.lif _) (fun u => u.rd o) _ (State.rd_put_of_ne _ _ (by simp only [RECORDER_LS_STAT]; omega))).trans (State.lif_rd ..)
theorem slotMarked_irq (s : State) (k : Nat) : ((slotMarked s k).rd (pgREC + HDR_IRQ_STAT)).toNat.testBit 4 = true :=
  irq_sets_of_uncounted _ _ _ (by decide) (uncounted_of_page (.inl (by decide)))
theorem bit_marked (b k : Nat) : bit (b ||| 2 ^ k) k = true := by
  unfold bit
  rw [Nat.testBit_or, Nat.testBit_two_pow_self, Bool.or_true]
theorem exec_flushFailed (hw : s.life.writing = some k) (hr : s.life.reply = none) : exec (.lifeFlushWritten false) s =
    .next (match nextGood (slotMarked s k) (k + 1) with
      | some j => ((slotMarked s k).lsNext j).lif fun l => { l with writing := some j, store := Sp.del l.store j }
      | none => lifeEnded ((slotMarked s k).lsSet 3)) := by
  have hreply : ((slotMarked s k).lsSet 3).life.reply = none := by
    rw [lsSet_life, slotMarked_life]
    exact hr
  show execLifeFlushWritten false s = _
  unfold execLifeFlushWritten
  rw [hw]
  dsimp only
  rw [if_neg (by decide)]
  change (match nextGood (slotMarked s k) (k + 1) with
    | some j => Host.Outcome.next (((slotMarked s k).lsNext j).lif fun l => { l with writing := some j, store := Sp.del l.store j })
    | none => .next ((match ((slotMarked s k).lsSet 3).life.reply with
      | some (r, seq) => ((slotMarked s k).lsSet 3).answer r 0x0201 seq 7 [] 0
      | none => (slotMarked s k).lsSet 3).lif fun l => { l with writing := none, next := [], reply := none })) = _
  rw [hreply]
  cases nextGood (slotMarked s k) (k + 1) with
  | none => rfl
  | some j => rfl
theorem flushWritten_fails (hw : s.life.writing = some k) (hr : s.life.reply = none) (_hk : k < 8) :
    ∃ t, exec (.lifeFlushWritten false) s = .next t ∧ slotGood t k = false ∧ t.life.flushed = s.life.flushed ∧
      (t.rd (pgREC + HDR_IRQ_STAT)).toNat.testBit 4 = true ∧ ∀ j, t.life.writing = some j → slotGood t j = true ∧
        t.life.slot = j ∧ (domOn s 194 = true → t.get pgREC RECORDER_LS_STAT_NEXT = j) := by
  refine ⟨_, exec_flushFailed hw hr, ?_⟩
  have hbad : ∀ t : State, t.life.bad = s.life.bad ||| 2 ^ k → slotGood t k = false := fun t ht => by
    unfold slotGood
    rw [ht, bit_marked]
    rfl
  cases hnext : nextGood (slotMarked s k) (k + 1) with
  | none =>
    have hlife : (lifeEnded ((slotMarked s k).lsSet 3)).life =
        { s.life with bad := s.life.bad ||| 2 ^ k, state := 3, writing := none, next := [], reply := none } := by
      rw [lifeEnded, State.lif_life, lsSet_life, slotMarked_life]
    dsimp only
    refine ⟨hbad _ (by rw [hlife]), by rw [hlife], ?_, fun j hj => ?_⟩
    · rw [lifeEnded, State.lif_rd, lsSet_rd _ _ (by decide)]
      exact slotMarked_irq s k
    · rw [hlife] at hj
      cases hj
  | some j =>
    obtain ⟨hgood, hsmall⟩ := nextGood_good hnext
    have hlife : (((slotMarked s k).lsNext j).lif fun l => { l with writing := some j, store := Sp.del l.store j }).life =
        { s.life with bad := s.life.bad ||| 2 ^ k, slot := j, writing := some j, store := Sp.del s.life.store j } := by
      rw [State.lif_life, lsNext_life, slotMarked_life]
    dsimp only
    refine ⟨hbad _ (by rw [hlife]), by rw [hlife], ?_, fun i hi => ?_⟩
    · rw [State.lif_rd, lsNext_rd _ _ (by decide)]
      exact slotMarked_irq s k
    · rw [hlife] at hi
      obtain rfl : j = i := Option.some.inj hi
      refine ⟨?_, by rw [hlife], fun hon => ?_⟩
      · unfold slotGood at hgood ⊢
        rw [slotMarked_life] at hgood
        rw [hlife]
        exact hgood
      · rw [State.lif_get]
        exact lsNext_next _ ((domOn_congr (fun o ho => slotMarked_rd s k ho) (by decide)).trans hon) (by omega)
end

/-! ### The base at start-up (R548, R549) -/

section
variable (hruns : emRuns s 0 = true) (hl : s.life.loaded = false)
include hruns hl

/-- The state in which EM0 takes its base: its own restarts since its last sample are still to be counted. -/
def baseTaken (s : State) : State := s.takeSamples.lif fun l => { l with
  loaded := true, sampled := s.now, flushAt := s.now, prev := Sp.set l.prev 5 (Sp.get 0 s.life.prev 5) }
theorem exec_lifeBaseLoad : exec .lifeBaseLoad s = .next (if !s.cfg.optN then (baseTaken s).takeBase imgEmpty imgEmpty 4
    else match bestSlot s with
      | some (k, m) => ((baseTaken s).takeBase m (lifeAdd m 1 1) (baseState s 2)).lsNext
          ((nextGood (baseTaken s) (k + 1)).getD 0)
      | none => (baseTaken s).takeBase imgEmpty (lifeAdd imgEmpty 1 1) (baseState s 1)) := by
  have hstore : (baseTaken s).life.store = s.life.store := by
    rw [baseTaken, State.lif_life, State.takeSamples, State.lif_life]
  have hbest : bestSlot (baseTaken s) = bestSlot s := by
    unfold bestSlot
    rw [hstore]
  have hcfg : (baseTaken s).cfg = s.cfg := by
    rw [baseTaken, State.lif_cfg, State.takeSamples, State.lif_cfg]
  have hmarks : (baseTaken s).life.bad = s.life.bad := by
    rw [baseTaken, State.lif_life, State.takeSamples, State.lif_life]
  have hstate : ∀ st, baseState (baseTaken s) st = baseState s st := fun _ => by
    unfold baseState
    rw [nextGood_congr hmarks, hcfg]
  show execLifeBaseLoad s = _
  unfold execLifeBaseLoad
  rw [if_neg (by simp [hruns, hl])]
  dsimp only
  generalize hu : (s.takeSamples.lif fun l => { l with loaded := true, sampled := s.now, flushAt := s.now, prev := _ }) = u
  obtain rfl : baseTaken s = u := hu
  rw [hbest, hcfg]
  cases s.cfg.optN with
  | false => rfl
  | true =>
    rw [if_neg (by decide), if_neg (by decide)]
    cases bestSlot s with
    | none => exact congrArg (fun st => Host.Outcome.next ((baseTaken s).takeBase imgEmpty (lifeAdd imgEmpty 1 1) st)) (hstate 1)
    | some b =>
      dsimp only
      rw [hstate]
omit hruns hl in
theorem takeBase_loads (base m : List Host.Cell) (st : Nat) :
    ((baseTaken s).takeBase base m st).life.loaded = true ∧ lsState ((baseTaken s).takeBase base m st) = st ∧
      ((baseTaken s).takeBase base m st).life.baseSeq = imgGet base 8 4 := by
  unfold lsState
  rw [takeBase_life]
  exact ⟨rfl, rfl, rfl⟩
omit hruns hl in
theorem baseState_good {j : Nat} (hgood : nextGood s 0 = some j) (st : Nat) : baseState s st = st := by
  unfold baseState
  rw [hgood]
  exact if_neg (by simp)
theorem lifeBaseLoad_host (ho : s.cfg.optN = false) :
    ∃ t, exec .lifeBaseLoad s = .next t ∧ t.life.loaded = true ∧ lsState t = 4 := by
  obtain ⟨hloaded, hstate, -⟩ := takeBase_loads (s := s) imgEmpty imgEmpty 4
  rw [exec_lifeBaseLoad hruns hl, ho, if_pos (by decide)]
  exact ⟨_, rfl, hloaded, hstate⟩
theorem lifeBaseLoad_empty {j : Nat} (ho : s.cfg.optN = true) (hgood : nextGood s 0 = some j) (hbest : bestSlot s = none) :
    ∃ t, exec .lifeBaseLoad s = .next t ∧ t.life.loaded = true ∧ lsState t = 1 := by
  obtain ⟨hloaded, hstate, -⟩ := takeBase_loads (s := s) imgEmpty (lifeAdd imgEmpty 1 1) 1
  rw [exec_lifeBaseLoad hruns hl, ho, if_neg (by decide), hbest, baseState_good hgood 1]
  exact ⟨_, rfl, hloaded, hstate⟩
theorem lifeBaseLoad_newest {j k : Nat} {m : List Host.Cell} (ho : s.cfg.optN = true) (hgood : nextGood s 0 = some j)
    (hbest : bestSlot s = some (k, m)) :
    ∃ t, exec .lifeBaseLoad s = .next t ∧ t.life.loaded = true ∧ lsState t = 2 ∧ t.life.baseSeq = imgGet m 8 4 := by
  obtain ⟨hloaded, hstate, hseq⟩ := takeBase_loads (s := s) m (lifeAdd m 1 1) 2
  rw [exec_lifeBaseLoad hruns hl, ho, if_neg (by decide), hbest, baseState_good hgood]
  dsimp only
  refine ⟨_, rfl, ?_, ?_, ?_⟩
  · rw [lsNext_life]
    exact hloaded
  · unfold lsState at hstate ⊢
    rw [lsNext_life]
    exact hstate
  · rw [lsNext_life]
    exact hseq
end
end

/-- Settles O52: the sample by the image's bytes (`KeepsUptime`), a flush and its slot write by EM0's own record of the life store, and the base by
the newest valid slot. -/
theorem lifeRecords : Obligations.LifeRecords := by
  refine ⟨fun s hclock hruns hl hdue hwf hlt => lifeSample_samples hclock hruns hl hdue hwf hlt, fun s hclock hruns hl hdue hw => ⟨fun k => ?_, ?_⟩,
    fun s k hw hr => ⟨flushWritten_verifies hw hr, flushWritten_fails hw hr⟩, fun s hruns hl => ⟨?_, fun j => ?_, fun j k m => ?_⟩⟩
  · exact periodicFlush_writes hclock hruns hl hdue hw
  · exact periodicFlush_prepares hclock hruns hl hdue hw
  · exact lifeBaseLoad_host hruns hl
  · exact lifeBaseLoad_empty hruns hl
  · exact lifeBaseLoad_newest hruns hl

end Sys2Proof.Machine

/-! PROOFS. The recorder (spec/18_observability.md R531 to R541): RC_CTL and the recorder's states, the triggers that fire, and the words of a
record. -/
namespace Sys2Proof.Machine

/-! ### The recorder's state beside its page -/

section
variable (s : State) (f : RecSt → RecSt)
@[simp] theorem State.recd_rec : (s.rec_ f).recd = f s.recd := rfl
@[simp] theorem State.rd_rec (o : Nat) : (s.rec_ f).rd o = s.rd o := rfl
@[simp] theorem State.get_rec (a : Nat) (g : Fld) : (s.rec_ f).get a g = s.get a g := rfl
@[simp] theorem rcState_rec : rcState (s.rec_ f) = rcState s := rfl
@[simp] theorem State.recd_rcSet (st : Nat) : (s.rcSet st).recd = s.recd := rfl
theorem rcState_rcSet {st : Nat} (h : st < 8) : rcState (s.rcSet st) = st := State.get_put_of_lt s pgREC (by decide) h
end

/-- The recorder without the triggers that wait. -/
def RecSt.settled (r : RecSt) : RecSt := { r with waiting := [] }
theorem fire_settled (s : State) (n info aux : Nat) : (s.fire n info aux).2.recd.settled = s.recd.settled := by
  unfold State.fire
  dsimp only
  split
  · rfl
  · split <;> rfl
theorem fireErrors_settled (s : State) (base k : Nat) : (s.fireErrors base k).2.recd.settled = s.recd.settled := by
  unfold State.fireErrors
  dsimp only
  generalize List.filter _ _ = l
  generalize hp : (false, s) = p
  rw [show s = p.2 by rw [← hp]]
  clear hp
  induction l generalizing p with
  | nil => rfl
  | cons a l ih => exact (ih _).trans (fire_settled ..)
theorem missed_settled (s : State) : s.missed.recd.settled = s.recd.settled := by
  unfold State.missed
  split
  · rfl
  · exact fireErrors_settled ..
/-- An interrupt changes nothing of the recorder but the triggers that wait. -/
theorem irq_settled (s : State) (base k : Nat) : (s.irq base k).recd.settled = s.recd.settled := by
  unfold State.irq
  split
  · rfl
  · dsimp only
    rw [State.cond_recd]
    split
    · exact (missed_settled _).trans (fireErrors_settled ..)
    · exact fireErrors_settled ..

/-! ### RC_CTL (R531, R539, R540, R541) -/

section
variable {s : State} {m : Master} {w : Word32} (hmay : mayWrite s m pgREC RECORDER_RC_CTL true = true)
include hmay

/-- A write of RC_CTL by a master that owns the page's group leaves EN and MODE as it names them, and everything but RC_CTL. -/
theorem rcCtl_fields (w : Word32) :
    (s.setFields m pgREC RECORDER_RC_CTL w).get pgREC RECORDER_RC_CTL_EN = RECORDER_RC_CTL_EN.of w ∧
      (s.setFields m pgREC RECORDER_RC_CTL w).get pgREC RECORDER_RC_CTL_MODE = RECORDER_RC_CTL_MODE.of w ∧
      rcState (s.setFields m pgREC RECORDER_RC_CTL w) = rcState s ∧
      { s.setFields m pgREC RECORDER_RC_CTL w with regs := s.regs } = s := by
  have hp : pageAt (pgREC + RECORDER_RC_CTL) = some ⟨.recorder, 0, pgREC⟩ := by decide
  have hr : rowAt Page.recorder RECORDER_RC_CTL =
    some ⟨0x044, 1, 0, 1, 0, [⟨2, 2, .w1s, 0⟩, ⟨1, 1, .rwo, 0⟩, ⟨0, 0, .rwo, 0⟩]⟩ := rfl
  have hown := Or.inl (b := (List.any [(⟨2, 2, .w1s, 0⟩ : FieldRow), ⟨1, 1, .rwo, 0⟩, ⟨0, 0, .rwo, 0⟩] fun f => f.acc == .rwo) = false)
    (owns_of_mayWrite hp hmay)
  have hst : pgREC + RECORDER_RC_STAT_STATE.off ≠ pgREC + RECORDER_RC_CTL := by decide
  have hkeeps := setFields_rd hp hr hown w hst
  refine ⟨setFields_get (f := ⟨0, 0, .rwo, 0⟩) hp hr hown w (by simp), setFields_get (f := ⟨1, 1, .rwo, 0⟩) hp hr hown w (by simp), ?_,
    setFields_sansRegs hp hr hown w⟩
  unfold rcState State.get
  rw [hkeeps]

variable (hon : domOn s 194 = true)
include hon

/-- The write of RC_CTL at the open gate, with the recorder's domain on. -/
theorem rcCtlWrite_open (w : Word32) : rcCtlWrite m w s =
    let u := (s.setFields m pgREC RECORDER_RC_CTL w).cond (rcState s != 0) fun u =>
      u.put pgREC RECORDER_RC_CTL_MODE (s.get pgREC RECORDER_RC_CTL_MODE)
    if u.get pgREC RECORDER_RC_CTL_EN = 0 then u.cond (1 ≤ rcState s && rcState s ≤ 3) State.rcDrain
    else u.cond (RECORDER_RC_CTL_ARM.of w == 1 && rcState s != 1 && rcState s != 4) State.rcArm := by
  unfold rcCtlWrite
  rw [State.gate_open _ _ _ _ _ _ (mayWrite_any hmay)]
  dsimp only
  rw [hon, if_neg (by decide)]
omit hmay hon in
/-- ARM, written while the recorder is not clearing: CLEARING, from this pc on, with MISSED at 0. -/
theorem rcArm_clears (u : State) : rcState u.rcArm = 1 ∧ u.rcArm.get pgREC RECORDER_RC_MISSED_COUNT = 0 ∧ u.rcArm.recd.clearAt = u.pcNow ∧
    u.rcArm.get pgREC RECORDER_RC_CTL_EN = u.get pgREC RECORDER_RC_CTL_EN ∧
    u.rcArm.get pgREC RECORDER_RC_CTL_MODE = u.get pgREC RECORDER_RC_CTL_MODE := by
  have hstate := rcState_rcSet (u.rec_ fun r => { r with clearAt := u.pcNow }) (st := 1) (by decide)
  unfold rcState at hstate ⊢
  unfold State.rcArm
  refine ⟨?_, ?_, rfl, ?_, ?_⟩
  · rw [State.get_wr_of_ne _ _ _ (by decide), hstate]
  · unfold State.get
    rw [show pgREC + RECORDER_RC_MISSED_COUNT.off = pgREC + RECORDER_RC_MISSED from rfl, State.rd_wr_self]
    decide
  · rw [State.get_wr_of_ne _ _ _ (by decide), State.rcSet, State.get_put_page _ _ _ _ _ (by decide) (by decide), State.get_rec]
  · rw [State.get_wr_of_ne _ _ _ (by decide), State.rcSet, State.get_put_page _ _ _ _ _ (by decide) (by decide), State.get_rec]

theorem rcEnable_starts (hst : rcState s = 0) (w : Word32) : ∃ t, exec (.rcEnable m w) s = .next t ∧ t.get pgREC RECORDER_RC_CTL_EN = 1 ∧
    t.get pgREC RECORDER_RC_CTL_MODE = RECORDER_RC_CTL_MODE.of w ∧ rcState t = (if RECORDER_RC_CTL_ARM.of w = 1 then 1 else 0) ∧
    (RECORDER_RC_CTL_ARM.of w = 1 → t.get pgREC RECORDER_RC_MISSED_COUNT = 0 ∧ t.recd.clearAt = s.pcNow) := by
  obtain ⟨hen, hmode, hstate, hrest⟩ := rcCtl_fields hmay (RECORDER_RC_CTL_EN.into w 1)
  rw [Fld.of_into_self _ (by decide)] at hen
  rw [Fld.of_into_apart _ _ (by decide) (by decide)] at hmode
  have hpc := congrArg State.pcNow hrest
  have harm : RECORDER_RC_CTL_ARM.of (RECORDER_RC_CTL_EN.into w 1) = RECORDER_RC_CTL_ARM.of w :=
    Fld.of_into_apart _ _ (by decide) (by decide) _ _
  show ∃ t, Host.Outcome.next (rcCtlWrite m (RECORDER_RC_CTL_EN.into w 1) s) = .next t ∧ _
  rw [rcCtlWrite_open hmay hon, harm, hst]
  generalize s.setFields m pgREC RECORDER_RC_CTL (RECORDER_RC_CTL_EN.into w 1) = u at hen hmode hstate hpc
  rw [hst] at hstate
  refine ⟨_, rfl, ?_⟩
  show _ ∧ _
  rw [show (u.cond ((0 : Nat) != 0) fun u => u.put pgREC RECORDER_RC_CTL_MODE (s.get pgREC RECORDER_RC_CTL_MODE)) = u from rfl]
  dsimp only
  rw [if_neg (by rw [hen]; decide)]
  obtain ⟨harmed, hmissed, hclear, hen', hmode'⟩ := rcArm_clears u
  by_cases ha : RECORDER_RC_CTL_ARM.of w = 1
  · rw [ha, show (u.cond ((1 : Nat) == 1 && (0 : Nat) != 1 && (0 : Nat) != 4) State.rcArm) = u.rcArm from rfl, if_pos rfl]
    exact ⟨hen'.trans hen, hmode'.trans hmode, harmed, fun _ => ⟨hmissed, hclear.trans hpc⟩⟩
  · rw [show (RECORDER_RC_CTL_ARM.of w == 1) = false by simpa using ha,
      show (u.cond (false && (0 : Nat) != 1 && (0 : Nat) != 4) State.rcArm) = u from rfl, if_neg ha]
    exact ⟨hen, hmode, hstate, fun h => absurd h ha⟩
theorem rcDisable_drains (hlo : 1 ≤ rcState s) (hhi : rcState s ≤ 3) (w : Word32) : ∃ t, exec (.rcDisable m w) s = .next t ∧
    t.get pgREC RECORDER_RC_CTL_EN = 0 ∧ rcState t = 4 ∧ t.recd.waiting = [] ∧ t.recd.writing = s.recd.writing := by
  obtain ⟨hen, -, -, hrest⟩ := rcCtl_fields hmay (RECORDER_RC_CTL_EN.into w 0)
  rw [Fld.of_into_self _ (by decide)] at hen
  have hrec := congrArg State.recd hrest
  show ∃ t, Host.Outcome.next (rcCtlWrite m (RECORDER_RC_CTL_EN.into w 0) s) = .next t ∧ _
  rw [rcCtlWrite_open hmay hon]
  generalize s.setFields m pgREC RECORDER_RC_CTL (RECORDER_RC_CTL_EN.into w 0) = u at hen hrec
  refine ⟨_, rfl, ?_⟩
  dsimp only
  have hen' : ∀ c mode, (u.cond c fun u => u.put pgREC RECORDER_RC_CTL_MODE mode).get pgREC RECORDER_RC_CTL_EN = 0 := fun c mode => by
    rw [State.cond_get, State.get_put_page _ _ _ _ _ (by decide) (by decide), ite_self, hen]
    rfl
  have hrec' : ∀ c mode, (u.cond c fun u => u.put pgREC RECORDER_RC_CTL_MODE mode).recd = s.recd := fun c mode => by
    rw [State.cond_recd, State.put_recd, ite_self]
    exact hrec
  specialize hen' (rcState s != 0) (s.get pgREC RECORDER_RC_CTL_MODE)
  specialize hrec' (rcState s != 0) (s.get pgREC RECORDER_RC_CTL_MODE)
  generalize (u.cond _ fun u => u.put pgREC RECORDER_RC_CTL_MODE _) = v at hen' hrec'
  rw [if_pos hen', show (1 ≤ rcState s && rcState s ≤ 3 : Bool) = true by simp [hlo, hhi], State.cond, if_pos rfl]
  refine ⟨?_, rcState_rcSet _ (by decide), rfl, (show v.rcDrain.recd.writing = v.recd.writing from rfl).trans (congrArg RecSt.writing hrec')⟩
  rw [State.rcDrain, State.rcSet, State.get_put_page _ _ _ _ _ (by decide) (by decide), State.get_rec, hen']
theorem rcArm_arms (hen : s.get pgREC RECORDER_RC_CTL_EN = 1) (hst : rcState s = 2 ∨ rcState s = 3) :
    ∃ t, exec (.rcArm m) s = .next t ∧ rcState t = 1 ∧ t.get pgREC RECORDER_RC_MISSED_COUNT = 0 := by
  obtain ⟨hen', -⟩ := rcCtl_fields hmay (RECORDER_RC_CTL_ARM.into (s.rd (pgREC + RECORDER_RC_CTL)) 1)
  rw [Fld.of_into_apart _ _ (by decide) (by decide)] at hen'
  have hen' := hen'.trans hen
  show ∃ t, Host.Outcome.next (rcCtlWrite m (RECORDER_RC_CTL_ARM.into (s.rd (pgREC + RECORDER_RC_CTL)) 1) s) = .next t ∧ _
  rw [rcCtlWrite_open hmay hon, Fld.of_into_self _ (by decide)]
  generalize s.setFields m pgREC RECORDER_RC_CTL _ = u at hen'
  refine ⟨_, rfl, ?_⟩
  dsimp only
  rw [if_neg (by rw [State.cond_get, State.get_put_page _ _ _ _ _ (by decide) (by decide), ite_self, hen']; decide)]
  generalize (u.cond _ fun u => u.put pgREC RECORDER_RC_CTL_MODE _) = v
  rw [show ((1 % 2 ^ (RECORDER_RC_CTL_ARM.hi + 1 - RECORDER_RC_CTL_ARM.lo) == 1 && rcState s != 1 && rcState s != 4) : Bool) = true by
    obtain h | h := hst <;> rw [h] <;> rfl, State.cond, if_pos rfl]
  obtain ⟨harmed, hmissed, -⟩ := rcArm_clears v
  exact ⟨harmed, hmissed⟩
end

/-! ### The end of a drain and of a clear (R540, R541) -/

theorem rcDrainDone_disables {s : State} (hst : rcState s = 4) (hw : s.recd.writing = none) :
    ∃ t, exec .rcDrainDone s = .next t ∧ rcState t = 0 ∧ t.recd = s.recd := by
  show ∃ t, execRcDrainDone s = .next t ∧ _
  unfold execRcDrainDone
  rw [if_pos ⟨hst, hw⟩]
  exact ⟨_, rfl, rcState_rcSet s (by decide), rfl⟩
theorem rcClearingDone_arms {s : State} (hst : rcState s = 1) (hw : s.recd.writing = none)
    (hpc : s.get pgREC RECORDER_RC_CTL_MODE = 0 → s.recd.clearAt + 2048 ≤ s.pcNow) :
    ∃ t, exec .rcClearingDone s = .next t ∧ rcState t = 2 ∧ t.recd.taken = 0 ∧
      t.recd.slots = if s.get pgREC RECORDER_RC_CTL_MODE = 0 then [] else s.recd.slots := by
  show ∃ t, execRcClearingDone s = .next t ∧ _
  unfold execRcClearingDone
  dsimp only
  rw [if_neg]
  · refine ⟨_, rfl, rcState_rcSet _ (by decide), rfl, ?_⟩
    simp only [State.recd_rcSet, State.recd_rec, beq_iff_eq]
  · rintro (h | h | ⟨h, h'⟩)
    · exact h hst
    · rw [hw] at h
      cases h
    · have := hpc (by simpa using h)
      omega

/-! ### Triggers that fire (R532) -/

/-- A trigger that fires while the recorder is ARMED and fewer than sixteen wait. -/
theorem trigger_waits {s : State} (n info aux : Nat) (hst : rcState s = 2) (hw : s.recd.waiting.length < 16) :
    (s.trigger n info aux).recd = { s.recd with waiting := s.recd.waiting ++ [⟨n, s.now, s.pcNow, info, aux⟩] } := by
  unfold rcState at hst
  unfold State.trigger State.fire
  dsimp only
  rw [hst, if_neg (by decide), if_neg (by rw [State.bump_recd]; omega)]
  rfl
theorem mem_triggers {s : State} {n kind : Nat} (h : n ∈ triggers s kind) : n < 32 ∧ bits (trgCfg s n) 25 23 = kind := by
  unfold triggers at h
  simp only [List.mem_filter, List.mem_range, Bool.and_eq_true, beq_iff_eq] at h
  exact ⟨h.1, h.2.2⟩
/-- The triggers that sample are the LEVEL ones where no DELTA trigger is enabled. -/
theorem due_eq {s : State} (h : triggers s 3 = []) : ((List.range 32).filter fun n =>
    let c := trgCfg s n
    bit c 31 && (bits c 25 23 == 2 || bits c 25 23 == 3)) = triggers s 2 := by
  unfold triggers at h ⊢
  refine List.filter_congr fun n hn => ?_
  have hnone := List.filter_eq_nil_iff.mp h n hn
  dsimp only at hnone ⊢
  cases hb : bit (trgCfg s n) 31
  · rfl
  · rw [hb] at hnone
    simp only [Bool.true_and, Bool.not_eq_true] at hnone
    rw [hnone, Bool.or_false]
theorem triggerSample_fires {s : State} {n u arg : Nat} {p : PageAt} (hclock : s.clockOn = true)
    (hdue : s.recd.sampled / 100 < s.now / 100) (hon : domOn s 194 = true) (hlevel : triggers s 2 = [n]) (hdelta : triggers s 3 = [])
    (hp : pageAt (bits (trgArg0 s n) 20 2 * 4) = some p) (hpres : pagePresent s.cfg p = true)
    (hprev : (s.recd.prev.find? fun e => e.1 == n) = some (n, u)) (harg : arg = (s.rd (pgREC + RECORDER_TRG_ARG1 + 16 * n)).toNat)
    (hreach : arg ≤ peek s none (bits (trgArg0 s n) 20 2 * 4)) (hbelow : u < arg) (hst : rcState s = 2) (hw : s.recd.waiting.length < 16) :
    ∃ t, exec .triggerSample s = .next t ∧ t.recd.sampled = s.now ∧
      t.recd.waiting = s.recd.waiting ++ [⟨n, s.now, s.pcNow, peek s none (bits (trgArg0 s n) 20 2 * 4), u⟩] := by
  have hkind := (mem_triggers (s := s) (n := n) (kind := 2) (by rw [hlevel]; exact List.mem_singleton_self n)).2
  have hsample : s.sampleTrg n = (s.rec_ fun r => { r with prev := Sp.set r.prev n (peek s none (bits (trgArg0 s n) 20 2 * 4)) }).trigger n
      (peek s none (bits (trgArg0 s n) 20 2 * 4)) u := by
    unfold State.sampleTrg
    dsimp only
    rw [hp, if_neg (by simp [hpres]), hprev]
    dsimp only
    rw [← harg, hkind, if_pos rfl, State.cond, if_pos (by simp [hreach, hbelow])]
  show ∃ t, execTriggerSample s = .next t ∧ _
  unfold execTriggerSample
  rw [if_neg (by simp only [hclock, hon]; simp; omega)]
  dsimp only
  rw [due_eq hdelta, hlevel]
  refine ⟨_, rfl, rfl, ?_⟩
  show (s.sampleTrg n).recd.waiting = _
  rw [hsample]
  have hwaits := trigger_waits (s := s.rec_ fun r => { r with prev := Sp.set r.prev n (peek s none (bits (trgArg0 s n) 20 2 * 4)) }) n
    (peek s none (bits (trgArg0 s n) 20 2 * 4)) u hst hw
  exact congrArg RecSt.waiting hwaits
theorem rcSwtrig_fires {s : State} {m : Master} {n tag : Nat} (hmay : mayWrite s m pgREC RECORDER_RC_SWTRIG false = true)
    (hon : domOn s 194 = true) (htag : tag < 2 ^ 16) (hn : n ∈ triggers s 5) (hst : rcState s = 2) (hw : s.recd.waiting.length < 16) :
    ∃ t, exec (.rcSwtrig m tag n) s = .next t ∧ t.recd.waiting = s.recd.waiting ++ [⟨n, s.now, s.pcNow, tag, m.code⟩] := by
  show ∃ t, execRcSwtrig m tag n s = .next t ∧ _
  unfold execRcSwtrig
  rw [State.gate_open _ _ _ _ _ _ hmay]
  dsimp only
  rw [Nat.mod_eq_of_lt (mem_triggers hn).1, Nat.mod_eq_of_lt htag, hon, State.cond, if_pos (by simpa using hn)]
  exact ⟨_, rfl, congrArg RecSt.waiting (trigger_waits _ _ _ hst hw)⟩

/-! ### Records (R533 to R538) -/

section
variable (s : State) (slot k : Nat) (ws : List Nat)
@[simp] theorem recordPut_rd (o : Nat) : (s.recordPut slot k ws).rd o = s.rd o := rfl
theorem slotWords_length : (slotWords s slot).length = 32 := by simp [slotWords]
/-- The words of a slot are its list, zero past its end. -/
theorem slotWords_get {s : State} {slot i : Nat} (hi : i < 32) : (slotWords s slot)[i]? = some ((Sp.get [] s.recd.slots slot).getD i 0) := by
  simp [slotWords, hi]
/-- What a slot holds after words are written from word k up: those words, and its own elsewhere. -/
theorem recordPut_words {i : Nat} (hi : i < 32) (hk : k + ws.length ≤ 32) : (slotWords (s.recordPut slot k ws) slot)[i]? =
    if k ≤ i ∧ i < k + ws.length then ws[i - k]? else (slotWords s slot)[i]? := by
  have hlen := slotWords_length s slot
  have hget : (slotWords (s.recordPut slot k ws) slot)[i]? =
      some (((slotWords s slot).take k ++ ws ++ (slotWords s slot).drop (k + ws.length)).getD i 0) := by
    rw [slotWords_get hi, State.recordPut, State.recd_rec, Sp.get_set_self]
  rw [hget, List.getD_eq_getElem?_getD]
  by_cases hlo : i < k
  · rw [if_neg (by omega), List.append_assoc, List.getElem?_append_left (by simp; omega), List.getElem?_take_of_lt hlo,
      slotWords_get hi, Option.getD_some]
  · by_cases hmid : i < k + ws.length
    · rw [if_pos ⟨by omega, hmid⟩, List.append_assoc, List.getElem?_append_right (by simp; omega),
        List.getElem?_append_left (by simp; omega)]
      simp only [List.length_take, hlen, Nat.min_eq_left (show k ≤ 32 by omega)]
      rw [List.getElem?_eq_getElem (show i - k < ws.length by omega), Option.getD_some]
    · rw [if_neg (by omega), List.getElem?_append_right (by simp; omega), List.getElem?_drop]
      simp only [List.length_append, List.length_take, hlen, Nat.min_eq_left (show k ≤ 32 by omega)]
      rw [show k + ws.length + (i - (k + ws.length)) = i by omega, slotWords_get hi, Option.getD_some]
end
theorem slotWords_congr {s t : State} (slot : Nat) (h : t.recd.slots = s.recd.slots) : slotWords t slot = slotWords s slot := by
  unfold slotWords
  rw [h]

theorem slotWords_rec (s : State) (slot : Nat) {f : RecSt → RecSt} (h : (f s.recd).slots = s.recd.slots) :
    slotWords (s.rec_ f) slot = slotWords s slot := slotWords_congr slot h

/-- The next sequence number: 0 is left out (R536). -/
def seqAfter (seq : Nat) : Nat := if seq + 1 = 2 ^ 32 then 1 else seq + 1
/-- The state whose slot holds HSEQ, and in TM2-compatible mode TSEQ. -/
def seqPut (s : State) : State :=
  (s.recordPut s.recd.taken 0 [s.get pgREC RECORDER_RC_SEQ_NEXT]).cond (s.get pgREC RECORDER_RC_CTL_MODE == 1) fun u =>
    u.recordPut s.recd.taken 31 [s.get pgREC RECORDER_RC_SEQ_NEXT]
/-- The record that a fired trigger begins. -/
def jobOf (s : State) (f : Fired) : RecJob :=
  { slot := s.recd.taken, seq := s.get pgREC RECORDER_RC_SEQ_NEXT, fired := f, cfg := trgCfg s f.trig,
    left := listOf (seqPut s) (bits (trgCfg s f.trig) 28 26), snap := [], bad := 0, readPc := f.pc }
/-- The state in which that record is being written. -/
def jobBegun (s : State) (f : Fired) : State :=
  (seqPut s).rec_ fun r => { r with waiting := r.waiting.erase f, taken := r.taken + 1, writing := some (jobOf s f) }
theorem recordTake_eq (s : State) (f : Fired) : s.recordTake f =
    ((jobBegun s f).recordPut s.recd.taken 1 (recordHead f (trgCfg s f.trig) (jobOf s f).left.length)).put pgREC RECORDER_RC_SEQ_NEXT
      (seqAfter (s.get pgREC RECORDER_RC_SEQ_NEXT)) := rfl
/-- Writing HSEQ, and TSEQ with it, leaves the triggers that wait and the count of the slots. -/
theorem seqPut_keeps (s : State) : (seqPut s).recd.waiting = s.recd.waiting ∧ (seqPut s).recd.taken = s.recd.taken := by
  unfold seqPut State.cond
  split <;> exact ⟨rfl, rfl⟩
theorem seqPut_head (s : State) : (slotWords (seqPut s) s.recd.taken)[0]? = some (s.get pgREC RECORDER_RC_SEQ_NEXT) := by
  have hput : ∀ u : State, (slotWords (u.recordPut s.recd.taken 0 [s.get pgREC RECORDER_RC_SEQ_NEXT]) s.recd.taken)[0]? =
      some (s.get pgREC RECORDER_RC_SEQ_NEXT) := fun u => by
    rw [recordPut_words _ _ _ _ (by decide) (by simp), if_pos (by simp)]
    rfl
  unfold seqPut State.cond
  split
  · rw [recordPut_words _ _ _ _ (by decide) (by simp), if_neg (by simp)]
    exact hput s
  · exact hput s
/-- A fired trigger takes the next slot and the next sequence number, and its record begins with W0 to W5. -/
theorem recordTake_begins (s : State) (f : Fired) : (s.recordTake f).recd.waiting = s.recd.waiting.erase f ∧
    (s.recordTake f).recd.taken = s.recd.taken + 1 ∧
    (s.recordTake f).get pgREC RECORDER_RC_SEQ_NEXT = seqAfter (s.get pgREC RECORDER_RC_SEQ_NEXT) ∧
    (s.recordTake f).recd.writing = some (jobOf s f) ∧
    (slotWords (s.recordTake f) s.recd.taken)[0]? = some (s.get pgREC RECORDER_RC_SEQ_NEXT) ∧
    (slotWords (s.recordTake f) s.recd.taken)[2]? = some (f.time % 2 ^ 32) := by
  obtain ⟨hwaiting, htaken⟩ := seqPut_keeps s
  have hnext : seqAfter (s.get pgREC RECORDER_RC_SEQ_NEXT) < 2 ^ 32 := by
    have hseq : s.get pgREC RECORDER_RC_SEQ_NEXT < 2 ^ 32 := State.get_lt s pgREC RECORDER_RC_SEQ_NEXT
    unfold seqAfter
    by_cases h : s.get pgREC RECORDER_RC_SEQ_NEXT + 1 = 2 ^ 32
    · rw [if_pos h]
      decide
    · rw [if_neg h]
      omega
  rw [recordTake_eq]
  generalize hseq : seqAfter (s.get pgREC RECORDER_RC_SEQ_NEXT) = seq at hnext
  refine ⟨?_, ?_, State.get_put_of_lt _ _ (by decide) hnext, ?_, ?_, ?_⟩
  · rw [State.put_recd, State.recordPut, State.recd_rec, jobBegun, State.recd_rec, hwaiting]
  · rw [State.put_recd, State.recordPut, State.recd_rec, jobBegun, State.recd_rec, htaken]
  · rw [State.put_recd, State.recordPut, State.recd_rec, jobBegun, State.recd_rec]
  · rw [slotWords_congr _ (congrArg RecSt.slots (State.put_recd ..)), recordPut_words _ _ _ _ (by decide) (by simp [recordHead]),
      if_neg (by omega), jobBegun, slotWords_rec _ _ rfl, seqPut_head]
  · rw [slotWords_congr _ (congrArg RecSt.slots (State.put_recd ..)), recordPut_words _ _ _ _ (by decide) (by simp [recordHead]),
      if_pos (by simp [recordHead])]
    rfl
theorem recordWrite_takes {s : State} {f : Fired} (hw : s.recd.writing = none) (hst : rcState s = 2)
    (hf : nextFired s.recd.waiting = some f) : exec .recordWrite s = .next (s.recordTake f) := by
  show Host.Outcome.next s.recordStep = _
  unfold State.recordStep
  rw [hw]
  dsimp only
  rw [if_neg (by rw [hst]; decide), hf]
theorem recordWrite_goes {s : State} {j : RecJob} (hw : s.recd.writing = some j) : exec .recordWrite s = .next (s.recordGo j) := by
  show Host.Outcome.next s.recordStep = _
  unfold State.recordStep
  rw [hw]
/-- An entry that is no word of a 64-bit pair is read by itself. -/
theorem readTogether_one {s : State} {k o : Nat} {rest : List (Nat × Nat)} (h : pairAt s o = none) :
    readTogether s ((k, o) :: rest) = [(k, o)] := by
  cases rest with
  | nil => rfl
  | cons e rest =>
    unfold readTogether
    dsimp only
    rw [h]
theorem recordWrite_snaps {s : State} {j : RecJob} {k o : Nat} {rest : List (Nat × Nat)} (hw : s.recd.writing = some j)
    (hleft : j.left = (k, o) :: rest) (hpair : pairAt s o = none) (hlen : j.snap.length < 24) :
    ∃ t, exec .recordWrite s = .next t ∧ (t.recd.writing.map (·.snap)) = some (j.snap ++ [peek s none o]) ∧
      (slotWords t j.slot)[6 + j.snap.length]? = some (peek s none o) ∧ (t.recd.writing.map (·.left)) = some rest := by
  rw [recordWrite_goes hw]
  unfold State.recordGo
  rw [hleft]
  dsimp only
  rw [readTogether_one hpair]
  refine ⟨_, rfl, rfl, ?_, rfl⟩
  rw [slotWords_rec _ _ rfl, recordPut_words _ _ _ _ (by omega) (by simp; omega),
    if_pos (by simp), Nat.sub_self]
  rfl
/-- The state after the last words of a record: the rest of the snapshot zero, then W30 and TSEQ. -/
def recordEnded (s : State) (j : RecJob) : State :=
  (s.recordPut j.slot (6 + j.snap.length)
    (List.replicate (24 - j.snap.length) 0 ++ [min (j.readPc - j.fired.pc) 255 * 2 ^ 24 + j.bad, j.seq])).rec_ fun r =>
      { r with writing := none, clearAt := s.pcNow }
/-- The end of a record, but for its words, changes registers and the triggers that wait alone. -/
theorem recordGo_ends {s : State} {j : RecJob} (hleft : j.left = []) :
    (s.recordGo j).recd.settled = (recordEnded s j).recd.settled := by
  have hirq : ∀ (u : State) (c : Bool) (k : Nat), (u.cond c fun s => s.irq pgREC k).recd.settled = u.recd.settled := fun u c k => by
    unfold State.cond
    split
    · exact irq_settled ..
    · rfl
  unfold State.recordGo
  rw [hleft]
  dsimp only
  have hfull : ∀ (u : State) (c : Bool), (u.cond c fun s => (s.rcSet 3).irq pgREC 1).recd.settled = u.recd.settled := fun u c => by
    unfold State.cond
    split
    · exact irq_settled ..
    · rfl
  rw [hfull, hirq]
  unfold State.cond
  split <;> rfl
theorem recordWrite_ends {s : State} {j : RecJob} (hw : s.recd.writing = some j) (hleft : j.left = []) (hlen : j.snap.length ≤ 24) :
    ∃ t, exec .recordWrite s = .next t ∧ t.recd.writing = none ∧ (slotWords t j.slot)[31]? = some j.seq ∧
      (slotWords t j.slot)[30]? = some (min (j.readPc - j.fired.pc) 255 * 2 ^ 24 + j.bad) := by
  have hends := recordGo_ends (s := s) hleft
  have hslots : (s.recordGo j).recd.slots = (recordEnded s j).recd.slots := (congrArg RecSt.slots hends :)
  refine ⟨_, recordWrite_goes hw, (congrArg RecSt.writing hends :), ?_, ?_⟩
  all_goals
    rw [slotWords_congr _ hslots, recordEnded, slotWords_rec _ _ rfl, recordPut_words _ _ _ _ (by decide) (by simp; omega), if_pos (by simp; omega),
      List.getElem?_append_right (by simp; omega)]
    simp only [List.length_replicate]
  · rw [show 31 - (6 + j.snap.length) - (24 - j.snap.length) = 1 by omega]
    rfl
  · rw [show 30 - (6 + j.snap.length) - (24 - j.snap.length) = 0 by omega]
    rfl

/-- Settles O51: RC_CTL by the fields it writes, the triggers by `trigger_waits`, and the record by the words of its slot (`recordPut_words`). -/
theorem recorderCommands : Obligations.RecorderCommands := by
  refine ⟨fun s m w hmay hon hst => rcEnable_starts hmay hon hst w, fun s m w hmay hon hlo hhi => rcDisable_drains hmay hon hlo hhi w,
    fun s m => rcArm_arms, fun s => rcDrainDone_disables, fun s => rcClearingDone_arms, fun s n u arg p => triggerSample_fires,
    fun s m n tag => rcSwtrig_fires, fun s f hw hst hf _ => ?_, fun s j k o rest => recordWrite_snaps, fun s j => recordWrite_ends⟩
  obtain ⟨hwaiting, htaken, hseq, hwriting, hhead, htime⟩ := recordTake_begins s f
  refine ⟨_, recordWrite_takes hw hst hf, hwaiting, htaken, hseq, ?_, (List.head?_eq_getElem? ..).trans hhead, htime⟩
  rw [hwriting]
  rfl

end Sys2Proof.Machine

/-! PROOFS. What a parking device, and the loss of an access, leave (spec/05_hub.md R190, R192; spec/15_integrity.md R467; spec/19_test.md
R557): the fuses, the integrity and test structures, the registers of the HUB page but for its MODE, those of the TEST page, and those of the
layers but for what counts accesses. -/
namespace Sys2Proof.Machine

/-- An offset of the HUB page, of the TEST page, of XPORT_CNT, or of a LAYER or RIM page where ACC_CNT does not stand. -/
def Aside (o : Nat) : Prop :=
  0x20000 ≤ o ∧ o < 0x30000 ∨ 0xF0000 ≤ o ∧ o < 0x100000 ∨ o = 0xB0070 ∨ 0x100000 ≤ o ∧ o % 4096 ≠ 0x44
/-- A state keeps the fuses, the integrity and test structures and those registers, and a Hub and rims without work have none after. -/
structure Rests (s t : State) : Prop where
  fused : t.fused = s.fused
  integ : t.integ = s.integ
  test : t.test = s.test
  regs : ∀ o, Aside o → t.rd o = s.rd o
  flown : s.hub.flight = [] → t.hub.flight = []
  claims : s.hub.claims = [] → t.hub.claims = []
  kernels : ∀ n p, (rimOf s n p).kq = none → (rimOf t n p).kq = none

theorem Rests.refl (s : State) : Rests s s := ⟨rfl, rfl, rfl, fun _ _ => rfl, id, id, fun _ _ h => h⟩
theorem Rests.trans {s t u : State} (h : Rests s t) (k : Rests t u) : Rests s u :=
  ⟨k.fused.trans h.fused, k.integ.trans h.integ, k.test.trans h.test, fun o ho => (k.regs o ho).trans (h.regs o ho),
    fun e => k.flown (h.flown e), fun e => k.claims (h.claims e), fun n p e => k.kernels n p (h.kernels n p e)⟩
/-- A change of something else. -/
theorem Rests.of_same {s t : State} (hfused : t.fused = s.fused) (hinteg : t.integ = s.integ) (htest : t.test = s.test)
    (hhub : t.hub = s.hub) (hrims : t.rims = s.rims) (hregs : ∀ o, Aside o → t.rd o = s.rd o) : Rests s t :=
  ⟨hfused, hinteg, htest, hregs, fun h => by rw [hhub]; exact h, fun h => by rw [hhub]; exact h,
    fun n p h => by rw [rimOf_congr hrims]; exact h⟩
theorem cond_rests {s : State} (c : Bool) {f : State → State} (h : Rests s (f s)) : Rests s (s.cond c f) := by
  unfold State.cond
  split
  · exact h
  · exact .refl s
theorem Rests.each_mem {α : Type} {f : State → α → State} :
    ∀ (l : List α), (∀ s, ∀ a ∈ l, Rests s (f s a)) → ∀ s : State, Rests s (s.each l f)
  | [], _, s => .refl s
  | a :: l, h, s => (h s a List.mem_cons_self).trans (Rests.each_mem l (fun s b hb => h s b (List.mem_cons_of_mem _ hb)) (f s a))
theorem Rests.each {α : Type} {f : State → α → State} (h : ∀ s a, Rests s (f s a)) (l : List α) (s : State) : Rests s (s.each l f) :=
  .each_mem l (fun s a _ => h s a) s

section
variable (s : State)

theorem put_rests {a : Nat} {f : Fld} (v : Nat) (h : ¬ Aside (a + f.off)) : Rests s (s.put a f v) :=
  .of_same rfl rfl rfl rfl rfl fun _ ho => State.rd_put_of_ne s v fun e => h (e ▸ ho)
theorem irq_rests {b : Nat} (k : Nat) (h : ¬ Aside (b + HDR_IRQ_STAT)) : Rests s (s.irq b k) := by
  have hsans := State.irq_sansRec s b k
  refine .of_same (congrArg State.fused hsans :) (congrArg State.integ hsans :) (congrArg State.test hsans :) (congrArg State.hub hsans :)
    (congrArg State.rims hsans :) fun o ho => State.irq_rd s b k o (fun e => h (e ▸ ho)) ?_
  simp only [Aside, pgREC] at ho ⊢
  omega
theorem accCnt_not_aside (n p : Nat) : ¬ Aside (rimBase n p + RIM_ACC_CNT_COUNT.off) := by
  simp only [Aside, rimBase, layerBase, RIM_ACC_CNT_COUNT]
  omega
theorem port_not_aside {x k : Nat} (hx : x < 72) (hk : k < 0x200) : ¬ Aside (portBase x + k) := by
  simp only [Aside, portBase]
  omega

theorem arr_rests (f : ArraySt → ArraySt) : Rests s (s.arr f) := .of_same rfl rfl rfl rfl rfl fun _ _ => rfl
theorem hubf_rests (f : HubSt → HubSt) (hflown : s.hub.flight = [] → (f s.hub).flight = []) (hclaims : s.hub.claims = [] → (f s.hub).claims = []) :
    Rests s (s.hubf f) := ⟨rfl, rfl, rfl, fun _ _ => rfl, hflown, hclaims, fun _ _ h => h⟩
theorem port_rests (x : Nat) (f : PortSt → PortSt) : Rests s (s.port x f) := .of_same rfl rfl rfl rfl rfl fun _ _ => rfl
theorem syn_rests (f : SyncSt → SyncSt) : Rests s (s.syn f) := .of_same rfl rfl rfl rfl rfl fun _ _ => rfl
theorem rim_rests (n p : Nat) (f : RimSt → RimSt) (hk : ∀ r, r.kq = none → (f r).kq = none) : Rests s (s.rim n p f) := by
  refine ⟨rfl, rfl, rfl, fun _ _ => rfl, id, id, fun m q h => ?_⟩
  by_cases he : 17 * m + q = 17 * n + p
  · have hself : rimOf (s.rim n p f) m q = f (rimOf s m q) := by
      unfold rimOf State.rim
      rw [he]
      exact Sp.get_set_self ..
    rw [hself]
    exact hk _ h
  · have hother : rimOf (s.rim n p f) m q = rimOf s m q := Sp.get_set_of_ne _ _ _ he
    rw [hother]
    exact h
theorem tidCnt_rests (t : Nat) (f : TidCnt → TidCnt) : Rests s (s.tidCnt t f) := .of_same rfl rfl rfl rfl rfl fun _ _ => rfl
theorem energy_rests (k n t : Nat) (w : Option Nat) : Rests s (s.energy k n t w) := .of_same rfl rfl rfl rfl rfl fun _ _ => rfl
theorem setFlight_rests (l : List Access) (hl : s.hub.flight = [] → l = []) : Rests s (s.setFlight l) :=
  ⟨rfl, rfl, rfl, fun _ _ => rfl, hl, id, fun _ _ h => h⟩
theorem upd_rests (a : Access) : Rests s (s.upd a) := setFlight_rests s _ fun h => by rw [h]; rfl
theorem noteWrite_rests (old : State) (a : Access) : Rests s (s.noteWrite old a) := setFlight_rests s _ fun h => by rw [h]; rfl
theorem draw_rests : Rests s s.draw.2 := .of_same rfl rfl rfl rfl rfl fun _ _ => rfl

/-! ### A write of the array -/

theorem storeAt_rests (layer p frame r c : Nat) (w : Stored) (fl : Bool) : Rests s (storeAt s layer p frame r c w fl) := by
  unfold storeAt
  extract_lets _ _ _ u
  have hstored : Rests s u := .of_same rfl rfl rfl rfl rfl fun _ _ => rfl
  refine hstored.trans (cond_rests _ ?_)
  dsimp only
  refine Rests.trans ?_ (irq_rests _ _ (by simp [Aside, pgINTEG, HDR_IRQ_STAT]))
  refine Rests.trans ?_ (put_rests _ _ (by simp [Aside, pgINTEG, INTEG_FLIP_PTA_PTA]))
  refine Rests.trans ?_ (put_rests _ _ (by simp [Aside, pgINTEG, INTEG_FLIP_CTL_DONE]))
  refine Rests.trans ?_ (put_rests _ _ (by simp [Aside, pgINTEG, INTEG_FLIP_CTL_ARM]))
  exact arr_rests ..
theorem storeWord_rests (layer frame r c : Nat) (w : Stored) (fl : Bool) : Rests s (storeWord s layer frame r c w fl) := by
  unfold storeWord
  dsimp only
  refine Rests.trans ?_ (arr_rests ..)
  refine Rests.trans ?_ (cond_rests _ (put_rests _ _ (by simp [Aside, pgINTEG, INTEG_WB_CANCEL])))
  split
  · exact (storeAt_rests ..).trans (storeAt_rests ..)
  · exact storeAt_rests ..

/-! ### An access that is lost -/

theorem settleLine_rests (x tag line st : Nat) : Rests s (s.settleLine x tag line st) := .of_same rfl rfl rfl rfl rfl fun _ _ => rfl
theorem settleAcc_rests (a : Access) (st : Nat) : Rests s (s.settleAcc a st) := by
  unfold State.settleAcc
  split
  · exact settleLine_rests ..
  · exact settleLine_rests ..
  · exact .refl s
theorem writeHalf_rests (n p : Nat) : Rests s (s.writeHalf n p) := by
  unfold State.writeHalf
  split
  · exact .refl s
  · rename_i half _
    extract_lets old written freed
    have hfreed : Rests s freed :=
      (Rests.each (fun s w => storeWord_rests s _ _ _ _ _ _) half.writes s).trans (rim_rests _ _ _ _ fun _ h => h)
    split
    · exact (hfreed.trans (settleAcc_rests ..)).trans ((upd_rests ..).trans (noteWrite_rests ..))
    · exact hfreed
theorem oneAcc_rests (n p : Nat) (tids : List Nat) (w : Option Nat) : Rests s (s.oneAcc n p tids w) := by
  unfold State.oneAcc
  exact (((put_rests s _ (accCnt_not_aside n p)).trans (hubf_rests _ _ id id)).trans (energy_rests ..)).trans
    (Rests.each (fun s t => tidCnt_rests s t _) _ _)
theorem countAcc_rests (n i : Nat) (tids writers : List Nat) (w : Option Nat) : Rests s (s.countAcc n i tids writers w) := by
  unfold State.countAcc
  refine cond_rests _ ?_
  dsimp only
  split
  · exact (oneAcc_rests ..).trans (cond_rests _ (oneAcc_rests ..))
  · exact oneAcc_rests ..
theorem settle_rests (n i : Nat) : Rests s (s.settle n i) := by
  unfold State.settle
  dsimp only
  split
  · exact .refl s
  · exact (writeHalf_rests ..).trans (countAcc_rests ..)
theorem loseHalf_rests (a : Access) : Rests s (s.loseHalf a) := by
  unfold State.loseHalf
  dsimp only
  split
  · exact (draw_rests s).trans (settle_rests ..)
  · refine ((draw_rests s).trans (rim_rests _ _ _ _ ?_)).trans (settleAcc_rests ..)
    exact fun _ h => h
theorem unknownWrite_rests (a : Access) : Rests s (s.unknownWrite a) := by
  have hback : ∀ (s : State) (u : Undo), Rests s (s.takeBack u) := fun s u => by
    unfold State.takeBack State.setWord
    split
    · exact (arr_rests ..).trans (arr_rests ..)
    · exact .refl s
  unfold State.unknownWrite
  split
  · exact .refl s
  · dsimp only
    refine (draw_rests s).trans (Rests.each (fun s u => ?_) _ _)
    exact cond_rests _ (hback s u)
theorem occDown_rests (t : Nat) : Rests s (s.occDown t) := by
  unfold State.occDown
  exact cond_rests _ (.of_same rfl rfl rfl rfl rfl fun _ _ => rfl)
theorem loseAccess_rests (a : Access) : Rests s (s.loseAccess a) := by
  unfold State.loseAccess
  dsimp only
  refine (Rests.trans ?_ (upd_rests ..)).trans (occDown_rests ..)
  split
  · exact loseHalf_rests ..
  · exact (cond_rests _ (unknownWrite_rests ..)).trans (settleAcc_rests ..)

/-! ### A request that is answered -/

theorem countStatus_rests {x : Nat} (st : Nat) (hx : x < 72) : Rests s (s.countStatus x st) := by
  unfold State.countStatus State.cond
  split
  · rename_i h
    have hst : 1 ≤ st ∧ st ≤ 9 := of_decide_eq_true h
    refine put_rests _ _ (port_not_aside hx ?_)
    have hoff : ((Fld.word PORT_STS_CNT).at 4 (st - 1)).off = PORT_STS_CNT + 4 * (st - 1) := rfl
    rw [hoff]
    simp only [PORT_STS_CNT]
    omega
  · exact .refl s
theorem answerReq_rests {x : Nat} (tag st : Nat) (hx : x < 72) : Rests s (s.answerReq x tag st) := by
  unfold State.answerReq
  split
  · exact .refl s
  · exact (((port_rests ..).trans (syn_rests ..)).trans (port_rests ..)).trans (countStatus_rests _ _ hx)
theorem answerLine_rests {x : Nat} (tag k st pm : Nat) (d : Option (Nat × Nat)) (hx : x < 72) : Rests s (s.answerLine x tag k st pm d) := by
  unfold State.answerLine
  split
  · exact .refl s
  · dsimp only
    split
    · exact (((port_rests ..).trans (port_rests ..)).trans (countStatus_rests _ _ hx)).trans (energy_rests ..)
    · exact ((port_rests ..).trans (port_rests ..)).trans (countStatus_rests _ _ hx)
theorem parkTxn_rests {x : Nat} (t : Txn) (hx : x < 72) : Rests s (s.parkTxn x t) := by
  unfold State.parkTxn
  dsimp only
  split
  · exact answerReq_rests _ _ _ hx
  · refine Rests.trans (Rests.trans (Rests.each (fun s k => ?_) _ _) (Rests.each (fun s k => settleLine_rests ..) _ _)) (port_rests ..)
    exact (settleLine_rests ..).trans (answerLine_rests _ _ _ _ _ _ hx)

/-! ### Parking -/

theorem parkRecords_rests : Rests s s.parkRecords := by
  unfold State.parkRecords
  dsimp only
  have hrims : ∀ u : State, Rests u { u with rims := u.rims.map fun e => (e.1, { e.2 with krun := false, kq := none }) } := fun u => by
    refine ⟨rfl, rfl, rfl, fun _ _ => rfl, id, id, fun n p _ => ?_⟩
    exact congrArg RimSt.kq (Sp.get_map (fun r : RimSt => { r with krun := false, kq := none }) {} (17 * n + p) u.rims)
  refine Rests.trans (Rests.trans (Rests.each (fun s q => ?_) _ _) (hubf_rests _ _ id fun _ => rfl)) (hrims _)
  exact .of_same rfl rfl rfl rfl rfl fun _ _ => rfl
theorem parkCache_rests : Rests s s.parkCache := by
  unfold State.parkCache
  dsimp only
  have hjobs : ∀ (u : State) (f : CacheSt → CacheSt), Rests u (u.cach f) := fun u f => .of_same rfl rfl rfl rfl rfl fun _ _ => rfl
  refine Rests.trans (Rests.each (fun s j => ?_) _ _) (hjobs ..)
  cases hop : j.op with
  | mover c u =>
    unfold State.tellLine
    rw [hop]
    exact hubf_rests _ _ id id
  | _ => exact .refl s
theorem sqStop_rests (x err : Nat) : Rests s (s.sqStop x err) := by
  unfold State.sqStop
  dsimp only
  refine (port_rests ..).trans (Rests.each (fun s h => ?_) _ _)
  unfold State.sw
  dsimp only
  refine ((port_rests ..).trans (cond_rests _ (put_rests _ _ ?_))).trans (cond_rests _ (put_rests _ _ ?_))
  · simp [Aside, pgSYNCCTR, SYNC_CTR_SY_WAKE_CNT_COUNT]
  · simp [Aside, pgSYNCCTR, SYNC_CTR_SY_ERR_CNT_COUNT]
/-- What a parking device keeps, but for MODE. -/
theorem park_rests : Rests (s.put pgHUB HUB_PLANE_STAT_MODE 3) s.park := by
  unfold State.park
  extract_lets u flown emptied asked released unshared quiet
  have hflown : Rests u flown := Rests.each (fun s a => (cond_rests _ (loseAccess_rests ..)).trans (tidCnt_rests ..)) _ _
  have hemptied : Rests u emptied := hflown.trans (hubf_rests _ _ (fun _ => rfl) id)
  have hasked : Rests u asked := hemptied.trans <| Rests.each_mem _ (fun s x hx => by
    have hx : x < 72 := Nat.lt_trans (List.mem_range.mp hx) (by decide)
    exact (Rests.each (fun s tag => answerReq_rests s tag _ hx) _ _).trans (Rests.each (fun s t => parkTxn_rests s t hx) _ _)) _
  have hreleased : Rests u released := hasked.trans (Rests.each (fun s x => port_rests s x _) _ _)
  have hshare : ∀ v : State, Rests v { v with shareHeld := [] } := fun v => .of_same rfl rfl rfl rfl rfl fun _ _ => rfl
  have hquiet : Rests u quiet :=
    (((hreleased.trans (hshare ..)).trans (syn_rests ..)).trans (parkRecords_rests _)).trans (parkCache_rests _)
  refine hquiet.trans (Rests.each_mem _ (fun s x hx => ?_) _)
  exact (sqStop_rests ..).trans (cond_rests _ (put_rests _ _ (port_not_aside (List.mem_range.mp hx) (by decide))))
end

theorem park_fused (s : State) : s.park.fused = s.fused := (park_rests s).fused
theorem park_mode (s : State) : s.park.get pgHUB HUB_PLANE_STAT_MODE = 3 := by
  unfold State.get
  rw [(park_rests s).regs _ (.inl (by decide))]
  exact State.get_put_of_lt s pgHUB (by decide) (by decide)
theorem park_lcState (s : State) : lcState s.park = lcState s := by
  have hkeeps := (park_rests s).regs (pgTEST + TEST_LC_STAT_STATE.off) (.inr (.inl (by decide)))
  unfold lcState State.get
  rw [hkeeps, State.rd_put_of_ne _ _ (by decide)]
theorem park_parked (s : State) : parked s.park = true := by
  unfold parked
  rw [park_mode]
  rfl

end Sys2Proof.Machine

/-! PROOFS. The lifecycle fuses and the service token (spec/19_test.md R556 to R558). -/
namespace Sys2Proof.Machine

section
variable {s t : State} {m : Master}

theorem lcState_congr (h : t.rd (pgTEST + TEST_LC_STAT) = s.rd (pgTEST + TEST_LC_STAT)) : lcState t = lcState s := congrArg TEST_LC_STAT_STATE.of h
/-- The fuses and the lifecycle state in force are as they were. -/
def SameLife (s t : State) : Prop := t.fused = s.fused ∧ lcState t = lcState s
theorem refused_sameLife (reg : Nat) : SameLife s (s.refused m pgTEST reg) :=
  ⟨rfl, lcState_congr (State.refused_rd _ _ _ _ _ (by decide) (by decide) (by decide))⟩
theorem flagged_sameLife (off cause : Nat) : SameLife s ((s.flagPage m pgTEST off cause).fabStat m off) := by
  refine ⟨(congrArg State.fused (fabStat_sansRec (s.flagPage m pgTEST off cause) m off) :), lcState_congr ?_⟩
  rw [fabStat_rd _ _ _ (uncounted_of_page (by decide)) (by decide) (by decide) (by decide) (by decide),
    flagPage_rd _ _ _ _ _ (by decide) (by decide) (by decide)]
/-- A write of LC_CMD that the fabric does not perform is a record at most. -/
theorem lcGate_sameLife {act : State → State} (h : SameLife s (act s)) : SameLife s (s.gate m pgTEST TEST_LC_CMD false act) := by
  unfold State.gate
  dsimp only
  rw [show pageAt (pgTEST + TEST_LC_CMD) = some ⟨.test, 0, pgTEST⟩ by decide]
  dsimp only
  split
  · exact ⟨rfl, rfl⟩
  · split
    · exact ⟨rfl, rfl⟩
    · split
      · exact flagged_sameLife ..
      · split
        · rw [Bool.false_and, Bool.false_and, if_neg (by decide)]
          exact h
        · exact h

/-! ### LC_CMD (R556, R557) -/

/-- The word of LC_CMD with an OP and a CONFIRM. -/
def lcWord (op confirm : Nat) : Word32 := BitVec.ofNat 32 (op * 2 ^ 28 + confirm % 2 ^ 16)
theorem lcWord_confirm {op c : Nat} (hc : c < 2 ^ 16) : TEST_LC_CMD_CONFIRM.of (lcWord op c) = c := by
  simp only [Fld.of, bits, lcWord, TEST_LC_CMD_CONFIRM, BitVec.toNat_ofNat]
  omega
theorem lcCmdWrite_unconfirmed {op c : Nat} (hc : c < 2 ^ 16) (hne : c ≠ 0x4C43) : SameLife s (lcCmdWrite m (lcWord op c) s) := by
  unfold lcCmdWrite
  refine lcGate_sameLife ?_
  dsimp only
  rw [if_pos (by rwa [lcWord_confirm hc])]
  exact refused_sameLife ..
theorem lcAdvance_fuses (hmay : mayWrite s m pgTEST TEST_LC_CMD false = true) (hm : m.isEm = false) (hlc : lcState s ≤ 1) :
    ∃ t, exec (.lcAdvance m 0x4C43) s = .next t ∧ t.fused = lcState s + 1 ∧
      t.flag pgTEST TEST_LC_STAT_PENDING = true ∧ lcState t = lcState s := by
  refine ⟨({ s with fused := lcState s + 1 } : State).put pgTEST TEST_LC_STAT_PENDING 1, ?_, rfl,
    State.flag_put_self _ _ _ true (by decide) rfl, ?_⟩
  · show Host.Outcome.next (lcCmdWrite m (BitVec.ofNat 32 (2 ^ 28 + 0x4C43 % 2 ^ 16)) s) = _
    unfold lcCmdWrite
    rw [State.gate_open _ _ _ _ _ _ hmay]
    dsimp only
    rw [if_neg (by decide), show TEST_LC_CMD_OP.of (BitVec.ofNat 32 (2 ^ 28 + 0x4C43 % 2 ^ 16)) = 1 by decide]
    exact congrArg Host.Outcome.next (if_pos ⟨hlc, by simp [hm]⟩)
  · exact State.get_put_page _ _ _ _ _ (by decide) (by decide)
theorem lcRetireDevice_retires (hmay : mayWrite s m pgTEST TEST_LC_CMD false = true) (hlc : lcState s = 1 ∨ lcState s = 3) :
    ∃ t, exec (.lcRetireDevice m 0x4C43) s = .next t ∧ t.fused = 4 ∧ lcState t = 4 ∧ parked t = true := by
  refine ⟨(({ s with fused := 4 } : State).put pgTEST TEST_LC_STAT_STATE 4).park, ?_, (park_fused _).trans rfl, ?_, park_parked _⟩
  · show Host.Outcome.next (lcCmdWrite m (BitVec.ofNat 32 (2 * 2 ^ 28 + 0x4C43 % 2 ^ 16)) s) = _
    unfold lcCmdWrite
    rw [State.gate_open _ _ _ _ _ _ hmay]
    dsimp only
    rw [if_neg (by decide), show TEST_LC_CMD_OP.of (BitVec.ofNat 32 (2 * 2 ^ 28 + 0x4C43 % 2 ^ 16)) = 2 by decide]
    exact congrArg Host.Outcome.next (if_pos hlc)
  · rw [park_lcState]
    exact State.get_put_of_lt _ _ (by decide) (by decide)

/-! ### The service token (R558) -/

theorem newNonce_rd (s : State) {o : Nat} (hlo : o ≠ pgTEST + TEST_SVC_NONCE_LO) (hhi : o ≠ pgTEST + TEST_SVC_NONCE_HI) :
    s.newNonce.rd o = s.rd o := by
  show (s.draw.2.put64 (pgTEST + TEST_SVC_NONCE_LO) (pgTEST + TEST_SVC_NONCE_HI) s.draw.1).rd o = _
  rw [State.put64, State.rd_wr_of_ne _ _ hhi, State.rd_wr_of_ne _ _ hlo]
  rfl
theorem tokenOk_congr (h : ∀ o, o ≠ pgTEST + TEST_SVC_CTL → t.rd o = s.rd o) : tokenOk t = tokenOk s := by
  have htoken : svcToken t = svcToken s := by
    unfold svcToken
    refine congrArg (fun f => List.foldl f 0 (List.range 40)) (funext fun a => funext fun k => ?_)
    rw [h _ (by simp only [TEST_SVC_TOK, TEST_SVC_CTL]; omega)]
  have hnonce : svcNonce t = svcNonce s := by
    unfold svcNonce
    rw [h _ (by decide), h _ (by decide)]
  unfold tokenOk
  rw [htoken, hnonce]
/-- What ENTER leaves of a token that does not pass: the nonce is used up, and REFUSED and the interrupt are set. -/
def svcRefused (m : Master) (s : State) : State := ((s.newNonce.put pgTEST TEST_SVC_CTL_REFUSED 1).irq pgTEST 2).refused m pgTEST TEST_SVC_CTL
theorem svcRefused_rd (s : State) {o : Nat} (h : Uncounted o) (hr : o ≠ pgREC + HDR_IRQ_STAT) (hb : o ≠ pgTEST + HDR_IRQ_STAT)
    (h0 : o ≠ pgTEST + HDR_ERR_INFO) (h1 : o ≠ pgTEST + HDR_ERR_ADDR) (h2 : o ≠ pgTEST + HDR_VIOL_CNT) :
    (svcRefused m s).rd o = (s.newNonce.put pgTEST TEST_SVC_CTL_REFUSED 1).rd o := by
  rw [svcRefused, State.refused_rd _ _ _ _ _ h0 h1 h2, irq_rd_of_uncounted _ _ _ h hb hr]
theorem svcRefused_flags (s : State) : (svcRefused m s).flag pgTEST TEST_SVC_CTL_REFUSED = true ∧
    ((svcRefused m s).rd (pgTEST + HDR_IRQ_STAT)).toNat.testBit 2 = true := by
  refine ⟨?_, ?_⟩
  · unfold State.flag State.get
    rw [(svcRefused_rd s (uncounted_of_page (by decide)) (by decide) (by decide) (by decide) (by decide) (by decide) :
      _ = (s.newNonce.put pgTEST TEST_SVC_CTL_REFUSED 1).rd (pgTEST + TEST_SVC_CTL_REFUSED.off))]
    exact State.flag_put_self _ _ _ true (by decide) rfl
  · rw [svcRefused, State.refused_rd _ _ _ _ _ (by decide) (by decide) (by decide)]
    exact irq_sets_of_uncounted _ _ _ (by decide) (uncounted_of_page (by decide))
theorem svcRefused_keeps (s : State) : (svcRefused m s).freeCtr = s.freeCtr + 1 ∧ SameLife s (svcRefused m s) := by
  have hirq := State.irq_sansRec (s.newNonce.put pgTEST TEST_SVC_CTL_REFUSED 1) pgTEST 2
  refine ⟨(congrArg State.freeCtr hirq :), (congrArg State.fused hirq :), lcState_congr ?_⟩
  rw [svcRefused_rd s (uncounted_of_page (by decide)) (by decide) (by decide) (by decide) (by decide) (by decide),
    State.rd_put_of_ne _ _ (by decide), newNonce_rd _ (by decide) (by decide)]
/-- A write of SVC_CTL sets nothing but SVC_CTL. -/
theorem svcCtl_fields (w : Word32) : (∀ o, o ≠ pgTEST + TEST_SVC_CTL → (s.setFields m pgTEST TEST_SVC_CTL w).rd o = s.rd o) ∧
    { s.setFields m pgTEST TEST_SVC_CTL w with regs := s.regs } = s := by
  have hp : pageAt (pgTEST + TEST_SVC_CTL) = some ⟨.test, 0, pgTEST⟩ := by decide
  have hr : rowAt Page.test TEST_SVC_CTL = some ⟨0x078, 1, 0, 1, 0, [⟨31, 31, .w1s, 0⟩, ⟨30, 30, .rw1c, 0⟩]⟩ := rfl
  exact ⟨fun o ho => setFields_rd hp hr (.inr (by decide)) w ho, setFields_sansRegs hp hr (.inr (by decide)) w⟩
theorem svcEnter_decides (hmay : mayWrite s m pgTEST TEST_SVC_CTL true = true) (hlc : lcState s = 2) :
    ∃ t, exec (.svcEnter m) s = .next t ∧ lcState t = (if tokenOk s then 3 else 2) ∧ t.freeCtr = s.freeCtr + 1 ∧ t.fused = s.fused ∧
      (tokenOk s = false → t.flag pgTEST TEST_SVC_CTL_REFUSED = true ∧ (t.rd (pgTEST + HDR_IRQ_STAT)).toNat.testBit 2 = true) := by
  obtain ⟨hregs, hrest⟩ := svcCtl_fields (s := s) (m := m) (BitVec.ofNat 32 (2 ^ 31))
  have hfree := congrArg State.freeCtr hrest
  have hfused := congrArg State.fused hrest
  show ∃ t, Host.Outcome.next (svcCtlWrite m (BitVec.ofNat 32 (2 ^ 31)) s) = .next t ∧ _
  unfold svcCtlWrite
  rw [State.gate_open _ _ _ _ _ _ (mayWrite_any hmay)]
  dsimp only
  generalize s.setFields m pgTEST TEST_SVC_CTL (BitVec.ofNat 32 (2 ^ 31)) = u at hregs hfree hfused
  have hlc' : lcState u = 2 := (lcState_congr (hregs _ (by decide))).trans hlc
  rw [State.cond, if_pos (by rw [hlc']; decide), tokenOk_congr hregs]
  refine ⟨_, rfl, ?_⟩
  cases tokenOk s with
  | true =>
    rw [if_pos rfl, if_pos rfl]
    exact ⟨State.get_put_of_lt _ _ (by decide) (by decide), congrArg (· + 1) hfree, hfused, fun h => by cases h⟩
  | false =>
    rw [if_neg (by decide), if_neg (by decide)]
    obtain ⟨hcount, hfuses, hstate⟩ := svcRefused_keeps (m := m) u
    exact ⟨hstate.trans hlc', hcount.trans (congrArg (· + 1) hfree), hfuses.trans hfused, fun _ => svcRefused_flags u⟩
end

/-- Settles O53: LC_CMD by its OP and CONFIRM, RETIRE_DEVICE by what parking leaves (`park_rests`), and ENTER by the check of its token. -/
theorem lifecycleCommands : Obligations.LifecycleCommands := by
  refine ⟨fun s m => lcAdvance_fuses, fun s m c hc hne => ⟨?_, ?_⟩, fun s m => lcRetireDevice_retires, fun s m => svcEnter_decides⟩
  · obtain ⟨hfused, hstate⟩ := lcCmdWrite_unconfirmed (s := s) (m := m) (op := 1) hc hne
    exact ⟨_, rfl, hfused, hstate⟩
  · obtain ⟨hfused, hstate⟩ := lcCmdWrite_unconfirmed (s := s) (m := m) (op := 2) hc hne
    exact ⟨_, rfl, hfused, hstate⟩

end Sys2Proof.Machine

/-! PROOFS. What the sending side of the link block leaves (spec/13_amiys_link.md R385 to R402, R408, R412): packets and control blocks that go
out change the link block, the ledger, the free values and few registers. -/
namespace Sys2Proof.Machine

/-- No sending of the link block writes the register: it is none of the recorder's page, and of the LINK page neither IRQ_STAT, NAK_LAST,
NAK_CNT, nor a port's TXFL or DISC. -/
def OffSend (o : Nat) : Prop := (o < pgREC ∨ pgREC + 4096 ≤ o) ∧
  (o < pgLINK ∨ pgLINK + 4096 ≤ o ∨ o ≠ pgLINK + HDR_IRQ_STAT ∧ o ≠ pgLINK + LINK_NAK_LAST ∧ o ≠ pgLINK + LINK_NAK_CNT ∧
    (o < pgLINK + LINK_P_CTL ∨ o % 256 ≠ 0x20 ∧ o % 256 ≠ 0x28))
/-- The state without what a sending changes. -/
def State.unsent (s : State) : State := { s with regs := [], recd := {}, link := {}, energyAcc := {}, freeCtr := 0 }
/-- A state keeps what a sending of the link block keeps. -/
structure Sends (s t : State) : Prop where
  regs : ∀ o, OffSend o → t.rd o = s.rd o
  rest : t.unsent = s.unsent

theorem Sends.refl (s : State) : Sends s s := ⟨fun _ _ => rfl, rfl⟩
theorem Sends.trans {s t u : State} (h : Sends s t) (k : Sends t u) : Sends s u :=
  ⟨fun o ho => (k.regs o ho).trans (h.regs o ho), k.rest.trans h.rest⟩
theorem cond_sends {s : State} (c : Bool) {f : State → State} (h : Sends s (f s)) : Sends s (s.cond c f) := by
  unfold State.cond
  split
  · exact h
  · exact .refl s
theorem Sends.each_mem {α : Type} {f : State → α → State} :
    ∀ (l : List α), (∀ s, ∀ a ∈ l, Sends s (f s a)) → ∀ s : State, Sends s (s.each l f)
  | [], _, s => .refl s
  | a :: l, h, s => (h s a List.mem_cons_self).trans (Sends.each_mem l (fun s b hb => h s b (List.mem_cons_of_mem _ hb)) (f s a))

section
variable {s t : State} (h : Sends s t)
include h
theorem Sends.get (a : Nat) (f : Fld) (ho : OffSend (a + f.off)) : t.get a f = s.get a f := by
  unfold State.get
  rw [h.regs _ ho]
theorem Sends.cfg : t.cfg = s.cfg := (congrArg State.cfg h.rest :)
theorem Sends.now : t.now = s.now := (congrArg State.now h.rest :)
theorem Sends.win : t.win = s.win := (congrArg State.win h.rest :)
theorem Sends.sync : t.sync = s.sync := (congrArg State.sync h.rest :)
theorem Sends.hub : t.hub = s.hub := (congrArg State.hub h.rest :)
theorem Sends.domUp : t.domUp = s.domUp := (congrArg State.domUp h.rest :)
end

section
variable (s : State)

theorem lnk_sends (f : LinkSt → LinkSt) : Sends s (s.lnk f) := ⟨fun _ _ => rfl, rfl⟩
theorem lport_sends (p : Nat) (f : LinkPort → LinkPort) : Sends s (s.lport p f) := lnk_sends ..
theorem put_sends {a : Nat} {f : Fld} (v : Nat) (h : ¬ OffSend (a + f.off)) : Sends s (s.put a f v) :=
  ⟨fun _ ho => State.rd_put_of_ne s v fun e => h (e ▸ ho), rfl⟩
/-- A count of a port's block is TXFL or DISC. -/
theorem portCount_sends {p : Nat} {f : Fld} (v : Nat) (hp : p < 8) (hf : f.off = LINK_P_TXFL ∨ f.off = LINK_P_DISC) :
    Sends s (s.put pgLINK (f.at 256 p) v) := by
  refine put_sends s v ?_
  have hoff : (f.at 256 p).off = f.off + 256 * p := rfl
  rw [hoff]
  simp only [OffSend, pgLINK, pgREC, LINK_P_CTL, LINK_P_TXFL, LINK_P_DISC, HDR_IRQ_STAT, LINK_NAK_LAST, LINK_NAK_CNT] at *
  omega
theorem irq_sends (k : Nat) : Sends s (s.irq pgLINK k) := by
  refine ⟨fun o ho => State.irq_rd s pgLINK k o ?_ ho.1, ?_⟩
  · intro e
    subst e
    simp only [OffSend, pgLINK, HDR_IRQ_STAT] at ho
    omega
  · exact (congrArg State.unsent (State.irq_sansRec s pgLINK k) :)

/-! ### Blocks (R385, R386, R388) -/

theorem sendWord_sends (p : Nat) (bs : List Nat) : Sends s (s.sendWord p bs) := by
  unfold State.sendWord
  dsimp only
  refine Sends.trans (cond_sends _ ?_) (lport_sends ..)
  unfold State.sendMarks
  dsimp only
  have hfree : ∀ n, Sends s { s with freeCtr := n } := fun n => ⟨fun _ _ => rfl, rfl⟩
  exact (hfree _).trans (lport_sends ..)
theorem sendBlocks_sends (p : Nat) : ∀ (fuel : Nat) (l : List Nat) (s : State), Sends s (s.sendBlocks p fuel l)
  | 0, _, s => .refl s
  | _ + 1, [], s => .refl s
  | fuel + 1, _ :: _, _ => (sendWord_sends ..).trans (sendBlocks_sends p fuel _ _)
theorem sentCb_sends (p k v : Nat) : Sends s (s.sendCb p k v) := by
  unfold State.sendCb
  refine cond_sends _ ?_
  dsimp only
  split
  · exact (lport_sends ..).trans (sendBlocks_sends ..)
  · exact (lport_sends ..).trans (lport_sends ..)
theorem sendLink_sends (p : Nat) : Sends s (s.sendLink p) := by
  unfold State.sendLink
  dsimp only
  split
  · exact lport_sends ..
  · exact (lport_sends ..).trans (sentCb_sends ..)
theorem freeLane_sends (p lane n : Nat) : Sends s (s.freeLane p lane n) := by
  unfold State.freeLane
  refine cond_sends _ ?_
  exact (lport_sends ..).trans (sendLink_sends ..)

/-! ### Packets (R394 to R402) -/

theorem flitsSent_sends {p : Nat} (t : LinkTx) (hp : p < 8) : Sends s (s.flitsSent p t) := by
  have hsent : Sends s (((s.bump pgLINK (LINK_P_TXFL_COUNT.at 256 p) t.pk.flits).sendBlocks p t.pk.flits (packetBlocks t.pk)).cond
      (lkPort ((s.bump pgLINK (LINK_P_TXFL_COUNT.at 256 p) t.pk.flits).sendBlocks p t.pk.flits (packetBlocks t.pk)) p).linkDue
      fun s => s.sendLink p) :=
    ((portCount_sends s _ hp (.inl rfl)).trans (sendBlocks_sends ..)).trans (cond_sends _ (sendLink_sends ..))
  have hcharge : ∀ (u : State) (k n t : Nat) (w : Option Nat), Sends u (u.energy k n t w) := fun u k n t w => ⟨fun _ _ => rfl, rfl⟩
  have hnone : ∀ (u : State) (k n : Nat), Sends u (u.energyNone k n) := fun u k n => ⟨fun _ _ => rfl, rfl⟩
  unfold State.flitsSent
  dsimp only
  split
  · exact hsent
  · split
    · exact hsent.trans (hcharge ..)
    · exact hsent.trans (hnone ..)
theorem pump_sends {p : Nat} (hp : p < 8) : ∀ (fuel : Nat) (s : State), Sends s (s.pump p fuel)
  | 0, s => .refl s
  | fuel + 1, s => by
    unfold State.pump
    dsimp only
    split
    · exact .refl s
    · refine Sends.trans ?_ (pump_sends hp fuel _)
      refine Sends.trans ?_ (cond_sends _ (freeLane_sends ..))
      refine Sends.trans ?_ (flitsSent_sends _ _ hp)
      exact (cond_sends _ (lnk_sends ..)).trans (lport_sends ..)
theorem enqueue_sends {p : Nat} (inp : Nat) (pk : Packet) (tid own : Option Nat) (hp : p < 8) : Sends s (s.enqueue p inp pk tid own) := by
  unfold State.enqueue
  split
  · exact (lnk_sends ..).trans (freeLane_sends ..)
  · exact (lport_sends ..).trans (pump_sends hp _ _)
theorem routeOf_lt {dst p : Nat} (h : routeOf s dst = .inr p) : p < 8 := by
  unfold routeOf at h
  dsimp only at h
  split at h
  · cases h
    decide
  · split at h
    · cases h
    · split at h
      · cases h
      · cases h
        exact State.get_lt s pgLINK (LINK_FWD_PORT.at 4 dst)
theorem discard_sends (dst : Nat) : Sends s (s.discard dst) := by
  unfold State.discard
  dsimp only
  have hq : s.get pgLINK (LINK_FWD_PORT.at 4 dst) < 8 := State.get_lt s pgLINK (LINK_FWD_PORT.at 4 dst)
  refine cond_sends _ (portCount_sends _ _ ?_ (.inr rfl))
  split <;> omega
theorem sendResp_sends (pk : Packet) (tid : Option Nat) : Sends s (s.sendResp pk tid) := by
  unfold State.sendResp
  split
  · exact discard_sends ..
  · split
    · exact discard_sends ..
    · rename_i hroute
      exact enqueue_sends _ _ _ _ _ (routeOf_lt s hroute)
theorem countNak_sends (cause to_ dst ty : Nat) : Sends s (s.countNak cause to_ dst ty) := by
  unfold State.countNak
  dsimp only
  have hlast : ∀ w, Sends s (s.wr (pgLINK + LINK_NAK_LAST) w) := fun w => by
    refine ⟨fun o ho => State.rd_wr_of_ne s w ?_, rfl⟩
    intro e
    subst e
    simp only [OffSend, pgLINK, pgREC, LINK_NAK_LAST] at ho
    omega
  refine ((hlast _).trans (put_sends _ _ ?_)).trans (irq_sends ..)
  simp [OffSend, pgLINK, pgREC, LINK_NAK_CNT_COUNT, LINK_NAK_CNT]
theorem nakTo_sends (cause : Nat) (pk : Packet) (tid : Option Nat) : Sends s (s.nakTo cause pk tid) :=
  (countNak_sends ..).trans (sendResp_sends ..)
theorem closeTag_sends (etag : Nat) (nak : Option Nat) : Sends s (s.closeTag etag nak) := by
  unfold State.closeTag
  split
  · exact .refl s
  · exact lnk_sends ..
theorem refusePk_sends {p : Nat} (cause inp : Nat) (pk : Packet) (hp : p < 8) : Sends s (s.refusePk p cause inp pk) := by
  unfold State.refusePk
  split
  · exact (countNak_sends ..).trans (closeTag_sends ..)
  · split
    · exact portCount_sends _ _ hp (.inr rfl)
    · split
      · exact nakTo_sends ..
      · exact portCount_sends _ _ hp (.inr rfl)
theorem dropQueue_sends {p : Nat} (hp : p < 8) : Sends s (s.dropQueue p) := by
  unfold State.dropQueue
  dsimp only
  refine (lport_sends s p _).trans (Sends.each_mem _ (fun u t _ => ?_) _)
  refine Sends.trans (cond_sends (!t.freed) ?_) (refusePk_sends _ _ _ _ hp)
  exact freeLane_sends u t.inp t.laneIn t.pk.flits
end

end Sys2Proof.Machine

/-! PROOFS. The power domains (spec/16_power_and_energy.md R473, R474): DOM_CMD, what refuses it, and the end of a power-up. -/
namespace Sys2Proof.Machine

/-! ### The map of the domains that are on (R473) -/

/-- The bit of DOM_ON that shows domain n. -/
def domFld (n : Nat) : Fld := ⟨POWER_DOM_ON + 4 * (n / 32), n % 32, n % 32⟩
theorem domFld_fits (n : Nat) : (domFld n).fits := ⟨Nat.le_refl _, Nat.mod_lt _ (by decide)⟩
theorem domOn_eq_flag (s : State) (n : Nat) : domOn s n = s.flag pgPOWER (domFld n) := by
  unfold domOn State.flag State.get Fld.of bits bit
  rw [show pgPOWER + (domFld n).off = pgPOWER + POWER_DOM_ON + 4 * (n / 32) by simp only [domFld]; omega]
  simp only [domFld, Nat.add_sub_cancel_left, Nat.pow_one]
  rw [Nat.testBit_eq_decide_div_mod_eq, Nat.shiftRight_eq_div_pow]
  rfl
theorem domOn_setDom_self (s : State) (n : Nat) (on : Bool) : domOn (s.setDom n on) n = on := by
  rw [domOn_eq_flag]
  exact State.flag_put_self _ _ _ _ (domFld_fits n) rfl
theorem domOn_congr_get {s t : State} {n : Nat} (h : t.get pgPOWER (domFld n) = s.get pgPOWER (domFld n)) : domOn t n = domOn s n := by
  rw [domOn_eq_flag, domOn_eq_flag, State.flag_congr h]
theorem domOn_congr_rd {s t : State} {n : Nat} (h : t.rd (pgPOWER + (domFld n).off) = s.rd (pgPOWER + (domFld n).off)) :
    domOn t n = domOn s n := domOn_congr_get (congrArg (domFld n).of h)
/-- The words of DOM_ON lie apart from the other registers of the POWER page. -/
theorem domFld_off {n : Nat} (hn : n ≤ 194) : 0x60 ≤ (domFld n).off ∧ (domFld n).off ≤ 0x78 := by
  simp only [domFld, POWER_DOM_ON]
  omega

/-! ### DOM_CMD (R474) -/

section
variable {s : State} {m : Master} {n : Nat} {w : Word32}

/-- The word of DOM_CMD with GO. -/
def domWordOf : Bool → Nat → Word32
  | true, n => BitVec.ofNat 32 (2 ^ 31 + 2 ^ 30 + n % 256)
  | false, n => BitVec.ofNat 32 (2 ^ 31 + n % 256)
theorem domWordOf_fields (on : Bool) (n : Nat) (hn : n < 256) : POWER_DOM_CMD_GO.of (domWordOf on n) = 1 ∧
    POWER_DOM_CMD_ON.of (domWordOf on n) = b2n on ∧ POWER_DOM_CMD_DOMAIN.of (domWordOf on n) = n := by
  cases on <;> simp only [Fld.of, bits, domWordOf, b2n, POWER_DOM_CMD_GO, POWER_DOM_CMD_ON, POWER_DOM_CMD_DOMAIN, BitVec.toNat_ofNat,
    Nat.shiftRight_eq_div_pow] <;> simp <;> omega
/-- The state with the fields of DOM_CMD written. -/
def domTaken (s : State) (m : Master) (w : Word32) : State := s.setFields m pgPOWER POWER_DOM_CMD w
/-- A write of DOM_CMD by a master that owns the page's group sets DOMAIN and ON, and nothing but DOM_CMD. -/
theorem domTaken_fields (hmay : mayWrite s m pgPOWER POWER_DOM_CMD true = true) (w : Word32) :
    (domTaken s m w).get pgPOWER POWER_DOM_CMD_DOMAIN = POWER_DOM_CMD_DOMAIN.of w ∧
      (domTaken s m w).get pgPOWER POWER_DOM_CMD_ON = POWER_DOM_CMD_ON.of w ∧
      (∀ o, o ≠ pgPOWER + POWER_DOM_CMD → (domTaken s m w).rd o = s.rd o) ∧ { domTaken s m w with regs := s.regs } = s := by
  have hp : pageAt (pgPOWER + POWER_DOM_CMD) = some ⟨.power, 0, pgPOWER⟩ := by decide
  have hr : rowAt Page.power POWER_DOM_CMD = some ⟨0x044, 1, 0, 1, 0, [⟨31, 31, .w1s, 0⟩, ⟨30, 30, .rwo, 0⟩, ⟨7, 0, .rwo, 0⟩]⟩ := rfl
  have hown := Or.inl (b := (List.any [(⟨31, 31, .w1s, 0⟩ : FieldRow), ⟨30, 30, .rwo, 0⟩, ⟨7, 0, .rwo, 0⟩] fun f => f.acc == .rwo) = false)
    (owns_of_mayWrite hp hmay)
  exact ⟨setFields_get (f := ⟨7, 0, .rwo, 0⟩) hp hr hown w (by simp), setFields_get (f := ⟨30, 30, .rwo, 0⟩) hp hr hown w (by simp),
    fun o ho => setFields_rd hp hr hown w ho, setFields_sansRegs hp hr hown w⟩
/-- DOM_STAT as a DOM_CMD leaves it: the domain it names, and its reason. -/
def domStat (s : State) (n r : Nat) : State := (s.put pgPOWER POWER_DOM_STAT_DOMAIN n).put pgPOWER POWER_DOM_STAT_REASON r
theorem domCmdWrite_open (hmay : mayWrite s m pgPOWER POWER_DOM_CMD true = true) (on : Bool) (hn : n < 256) :
    domCmdWrite m (domWordOf on n) s =
      let u := domTaken s m (domWordOf on n)
      let r := domReason u n on
      let v := domStat u n r
      if r ≠ 0 then ((v.put pgPOWER POWER_DOM_STAT_REJ 1).irq pgPOWER 5).refused m pgPOWER POWER_DOM_CMD
      else if on then (if domOn v n || rising v n then v else { v with domUp := Sp.set v.domUp n v.now })
      else v.cond (domOn v n || rising v n) fun v => v.domOff n := by
  obtain ⟨hgo, hon, hdom⟩ := domWordOf_fields on n hn
  obtain ⟨hdom', hon', -, -⟩ := domTaken_fields hmay (domWordOf on n)
  have hflag : (domTaken s m (domWordOf on n)).flag pgPOWER POWER_DOM_CMD_ON = on := by
    unfold State.flag
    rw [hon', hon]
    cases on <;> rfl
  unfold domCmdWrite
  rw [State.gate_open _ _ _ _ _ _ (mayWrite_any hmay)]
  dsimp only
  rw [hgo, State.cond, if_pos (show ((1 : Nat) == 1) = true from rfl),
    show s.setFields m pgPOWER POWER_DOM_CMD (domWordOf on n) = domTaken s m (domWordOf on n) from rfl, hdom', hdom, hflag]
  rfl

/-- What a DOM_CMD may not change before its domain is looked at: a state with the same registers but for DOM_CMD and DOM_STAT. -/
structure DomSame (s t : State) : Prop where
  regs : ∀ o, o ≠ pgPOWER + POWER_DOM_CMD → o ≠ pgPOWER + POWER_DOM_STAT → t.rd o = s.rd o
  rest : { t with regs := s.regs } = s
theorem domTaken_same (hmay : mayWrite s m pgPOWER POWER_DOM_CMD true = true) (w : Word32) : DomSame s (domTaken s m w) := by
  obtain ⟨-, -, hregs, hrest⟩ := domTaken_fields hmay w
  exact ⟨fun o ho _ => hregs o ho, hrest⟩
theorem domStat_same {t : State} (h : DomSame s t) (n r : Nat) : DomSame s (domStat t n r) := by
  refine ⟨fun o hcmd hstat => ?_, h.rest⟩
  rw [domStat, State.rd_put_of_ne _ _ hstat, State.rd_put_of_ne _ _ hstat, h.regs o hcmd hstat]

section
variable {t : State} (h : DomSame s t)
include h
theorem DomSame.get (a : Nat) (f : Fld) (hcmd : a + f.off ≠ pgPOWER + POWER_DOM_CMD) (hstat : a + f.off ≠ pgPOWER + POWER_DOM_STAT) :
    t.get a f = s.get a f := congrArg f.of (h.regs _ hcmd hstat)
theorem DomSame.on (hn : n ≤ 194) : domOn t n = domOn s n := by
  have hoff := domFld_off hn
  exact domOn_congr_rd (h.regs _ (by simp only [POWER_DOM_CMD]; omega) (by simp only [POWER_DOM_STAT]; omega))
theorem DomSame.domUp : t.domUp = s.domUp := (congrArg State.domUp h.rest :)
theorem DomSame.now : t.now = s.now := (congrArg State.now h.rest :)
theorem DomSame.up : rising t n = rising s n := by
  unfold rising
  rw [h.domUp]
theorem DomSame.rim (layer p : Nat) : rimPower t layer p = rimPower s layer p :=
  h.get _ _ (by simp only [rimBase, layerBase, pgPOWER, POWER_DOM_CMD]; omega) (by simp only [rimBase, layerBase, pgPOWER, POWER_DOM_STAT]; omega)
theorem DomSame.phys (layer i : Nat) : physOf t layer i = physOf s layer i := by
  unfold physOf
  rw [h.regs _ (by simp only [layerBase, pgPOWER, POWER_DOM_CMD]; omega) (by simp only [layerBase, pgPOWER, POWER_DOM_STAT]; omega)]
theorem DomSame.port {x : Nat} (hx : x < 72) : portState t x = portState s x :=
  h.get _ _ (by simp only [portBase, PORT_PSTAT_STATE, pgPOWER, POWER_DOM_CMD]; omega)
    (by simp only [portBase, PORT_PSTAT_STATE, pgPOWER, POWER_DOM_STAT]; omega)
theorem DomSame.lp {q : Nat} (hq : q < 4) : lpState t q = lpState s q :=
  h.get _ _ (by simp only [LINK_P_STAT_STATE, pgLINK, pgPOWER, POWER_DOM_CMD]; omega)
    (by simp only [LINK_P_STAT_STATE, pgLINK, pgPOWER, POWER_DOM_STAT]; omega)
theorem DomSame.cacheInUse : cacheInUse t = cacheInUse s := by
  unfold Machine.cacheInUse
  rw [h.get _ _ (by decide) (by decide), show t.cache = s.cache from (congrArg State.cache h.rest :)]
end
theorem domPorts_lt {n x : Nat} (h : x ∈ domPorts n) : x < 72 := by
  unfold domPorts at h
  by_cases h1 : n < 170
  · rw [if_pos h1] at h
    cases h
  by_cases h2 : n < 178
  · rw [if_neg h1, if_pos h2, List.mem_singleton] at h
    omega
  by_cases h3 : n < 180
  · rw [if_neg h1, if_neg h2, if_pos h3] at h
    simp only [List.mem_map, List.mem_range] at h
    omega
  by_cases h4 : n < 182
  · rw [if_neg h1, if_neg h2, if_neg h3, if_pos h4] at h
    simp only [List.mem_map, List.mem_range] at h
    omega
  by_cases h5 : n < 186
  · rw [if_neg h1, if_neg h2, if_neg h3, if_neg h4, if_pos h5] at h
    simp only [List.mem_map, List.mem_range] at h
    omega
  · rw [if_neg h1, if_neg h2, if_neg h3, if_neg h4, if_neg h5] at h
    cases h
theorem all_congr_mem {α : Type} {f g : α → Bool} {l : List α} (h : ∀ x ∈ l, f x = g x) : l.all f = l.all g := by
  induction l with
  | nil => rfl
  | cons a l ih =>
    rw [List.all_cons, List.all_cons, h a List.mem_cons_self, ih fun x hx => h x (List.mem_cons_of_mem _ hx)]
theorem DomSame.mayOff {t : State} (h : DomSame s t) (n : Nat) : domMayOff t n = domMayOff s n := by
  unfold domMayOff
  by_cases h1 : n < 168
  · rw [if_pos h1, if_pos h1]
    simp only [h.rim, h.phys]
  by_cases h2 : n < 170
  · rw [if_neg h1, if_neg h1, if_pos h2, if_pos h2]
    have hplane : ∀ f : Fld, f.off = HUB_PLANE_STAT → t.get pgHUB f = s.get pgHUB f := fun f hf =>
      h.get _ _ (by rw [hf]; decide) (by rw [hf]; decide)
    rw [hplane _ (by split <;> rfl)]
  by_cases h3 : n < 186
  · rw [if_neg h1, if_neg h1, if_neg h2, if_neg h2, if_pos h3, if_pos h3]
    refine all_congr_mem fun x hx => ?_
    rw [h.port (domPorts_lt hx)]
  by_cases h4 : n < 190
  · rw [if_neg h1, if_neg h1, if_neg h2, if_neg h2, if_neg h3, if_neg h3, if_pos h4, if_pos h4, h.lp (by omega)]
  · rw [if_neg h1, if_neg h1, if_neg h2, if_neg h2, if_neg h3, if_neg h3, if_neg h4, if_neg h4, h.cacheInUse,
      h.get _ _ (by decide) (by decide)]
/-- The reason of a refusal is that of the state before the write. -/
theorem DomSame.reason {t : State} (h : DomSame s t) (n : Nat) (on : Bool) : domReason t n on = domReason s n on := by
  unfold domReason
  rw [show t.cfg = s.cfg from (congrArg State.cfg h.rest :), show t.domDead = s.domDead from (congrArg State.domDead h.rest :), h.mayOff]
  by_cases hn : n ≤ 194
  · rw [h.on hn]
  · rw [if_pos (.inl (by omega)), if_pos (.inl (by omega))]

theorem domStat_fields (u : State) {n r : Nat} (hn : n < 256) (hr : r < 8) : (domStat u n r).get pgPOWER POWER_DOM_STAT_DOMAIN = n ∧
    (domStat u n r).get pgPOWER POWER_DOM_STAT_REASON = r := by
  refine ⟨?_, State.get_put_of_lt _ _ (by decide) hr⟩
  rw [domStat, State.get_put_page _ _ _ _ _ (by decide) (by decide)]
  exact State.get_put_of_lt _ _ (by decide) hn

/-! ### ON (R474) -/

/-- A domain that can be commanded: present, no rim's, and not one that never switches. -/
theorem domReason_switchable (hlo : 136 ≤ n) (hhi : n ≤ 194) (hnever : ¬ (190 ≤ n ∧ n ≤ 192)) (hpres : domPresent s.cfg n = true) (on : Bool) :
    domReason s n on = if on then b2n (s.domDead.contains n) * 3 else if domOn s n && !domMayOff s n then 3 else 0 := by
  unfold domReason
  rw [if_neg (by simp [hpres]; omega), if_neg (by omega), if_neg hnever]
/-- The power-up of a domain begun. -/
def domRaised (v : State) (n : Nat) : State := { v with domUp := Sp.set v.domUp n v.now }
theorem domRaised_keeps (v : State) (n : Nat) : (∀ a f, (domRaised v n).get a f = v.get a f) ∧
    (domRaised v n).domUp = Sp.set v.domUp n v.now := ⟨fun _ _ => rfl, rfl⟩
theorem domCmdOn_rises (hmay : mayWrite s m pgPOWER POWER_DOM_CMD true = true) (hlo : 136 ≤ n) (hhi : n ≤ 194)
    (hnever : ¬ (190 ≤ n ∧ n ≤ 192)) (hpres : domPresent s.cfg n = true) (hdead : s.domDead.contains n = false) (hoff : domOn s n = false)
    (hrise : rising s n = false) : ∃ t, exec (.domCmdOn m n) s = .next t ∧ t.domUp = Sp.set s.domUp n s.now ∧
      t.get pgPOWER POWER_DOM_STAT_REASON = 0 ∧ t.get pgPOWER POWER_DOM_STAT_DOMAIN = n ∧ domOn t n = false := by
  have htaken := domTaken_same hmay (domWordOf true n)
  show ∃ t, Host.Outcome.next (domCmdWrite m (domWordOf true n) s) = .next t ∧ _
  rw [domCmdWrite_open hmay true (by omega)]
  dsimp only
  generalize domTaken s m (domWordOf true n) = u at htaken
  have hreason : domReason u n true = 0 := by
    rw [htaken.reason, domReason_switchable hlo hhi hnever hpres, if_pos rfl, hdead]
    rfl
  have hsame := domStat_same htaken n 0
  obtain ⟨hdom, hzero⟩ := domStat_fields u (n := n) (r := 0) (by omega) (by decide)
  rw [hreason, if_neg (by decide), if_pos rfl, if_neg (by rw [hsame.on hhi, hsame.up, hoff, hrise]; decide)]
  obtain ⟨hkeeps, hraised⟩ := domRaised_keeps (domStat u n 0) n
  refine ⟨domRaised (domStat u n 0) n, rfl, ?_, (hkeeps _ _).trans hzero, (hkeeps _ _).trans hdom, ?_⟩
  · rw [hraised, hsame.domUp, hsame.now]
  · exact (domOn_congr_get (hkeeps _ _)).trans ((hsame.on hhi).trans hoff)

/-! ### Refusals (R474) -/

/-- Which DOM_CMDs with ON 0 are refused, and why. -/
def OffRefused (s : State) (n reason : Nat) : Prop := (reason = 1 ∧ (194 < n ∨ domPresent s.cfg n = false)) ∨ (domPresent s.cfg n = true ∧
  ((reason = 2 ∧ n < 136) ∨ (reason = 4 ∧ 190 ≤ n ∧ n ≤ 192) ∨
    (reason = 3 ∧ 136 ≤ n ∧ n ≤ 194 ∧ ¬ (190 ≤ n ∧ n ≤ 192) ∧ domOn s n = true ∧ domMayOff s n = false)))
theorem domReason_refused {reason : Nat} (h : OffRefused s n reason) : domReason s n false = reason ∧ 1 ≤ reason ∧ reason ≤ 4 := by
  unfold domReason
  obtain ⟨rfl, h⟩ | ⟨hpres, ⟨rfl, h⟩ | ⟨rfl, hlo, hhi⟩ | ⟨rfl, hlo, hhi, hnever, hon, hoff⟩⟩ := h
  · refine ⟨if_pos ?_, by decide, by decide⟩
    obtain h | h := h
    · exact .inl h
    · exact .inr (by rw [h]; rfl)
  · rw [if_neg (by simp [hpres]; omega), if_pos h]
    decide
  · rw [if_neg (by simp [hpres]; omega), if_neg (by omega), if_pos ⟨hlo, hhi⟩]
    decide
  · rw [if_neg (by simp [hpres]; omega), if_neg (by omega), if_neg hnever, hon, hoff]
    exact ⟨rfl, by decide, by decide⟩
/-- The state that a refused DOM_CMD leaves. -/
def domRejected (m : Master) (v : State) : State := ((v.put pgPOWER POWER_DOM_STAT_REJ 1).irq pgPOWER 5).refused m pgPOWER POWER_DOM_CMD
theorem domRejected_domUp (v : State) : (domRejected m v).domUp = v.domUp :=
  (congrArg State.domUp (State.irq_sansRec (v.put pgPOWER POWER_DOM_STAT_REJ 1) pgPOWER 5) :)
theorem domRejected_get (v : State) {f : Fld} (h : 0x40 ≤ f.off) (hpage : f.off < 0x1000) :
    (domRejected m v).get pgPOWER f = (v.put pgPOWER POWER_DOM_STAT_REJ 1).get pgPOWER f := by
  have hstat : pgPOWER + f.off ≠ pgPOWER + HDR_IRQ_STAT := by
    simp only [HDR_IRQ_STAT]
    omega
  have hlt : pgPOWER + f.off < pgREC := by
    simp only [pgPOWER, pgREC]
    omega
  exact (State.refused_get ((v.put pgPOWER POWER_DOM_STAT_REJ 1).irq pgPOWER 5) m pgPOWER POWER_DOM_CMD f h).trans
    (State.get_irq (v.put pgPOWER POWER_DOM_STAT_REJ 1) pgPOWER pgPOWER 5 f hstat hlt)
theorem domCmdOff_refused {reason : Nat} (hmay : mayWrite s m pgPOWER POWER_DOM_CMD true = true) (hn : n < 256) (h : OffRefused s n reason) :
    ∃ t, exec (.domCmdOff m n) s = .next t ∧ t.get pgPOWER POWER_DOM_STAT_REASON = reason ∧ t.get pgPOWER POWER_DOM_STAT_REJ = 1 ∧
      t.domUp = s.domUp ∧ ∀ k ≤ 194, domOn t k = domOn s k := by
  have htaken := domTaken_same hmay (domWordOf false n)
  obtain ⟨hreason, hlo, hhi⟩ := domReason_refused h
  have hsame := domStat_same htaken n reason
  obtain ⟨-, hshown⟩ := domStat_fields (domTaken s m (domWordOf false n)) (n := n) (r := reason) hn (by omega)
  refine ⟨domRejected m (domStat (domTaken s m (domWordOf false n)) n reason), ?_, ?_, ?_, ?_, fun k hk => ?_⟩
  · show Host.Outcome.next (domCmdWrite m (domWordOf false n) s) = _
    rw [domCmdWrite_open hmay false hn]
    dsimp only
    rw [htaken.reason, hreason, if_pos (by omega)]
    rfl
  · rw [domRejected_get _ (by decide) (by decide), State.get_put_page _ _ _ _ _ (by decide) (by decide), hshown]
  · rw [domRejected_get _ (by decide) (by decide)]
    exact State.get_put_of_lt _ _ (by decide) (by decide)
  · exact (domRejected_domUp _).trans hsame.domUp
  · have hoff := domFld_off hk
    refine (domOn_congr_get ?_).trans (hsame.on hk)
    rw [domRejected_get _ (by omega) (by omega), State.get_put_page _ _ _ _ _ (by decide) (.inl (by simp only [POWER_DOM_STAT_REJ]; omega))]

/-! ### What a domain that goes off, or has come on, shows (R474) -/

section
variable (v : State)

/-- A register write with a value of its own for each port of a list. -/
theorem each_portPut (val : State → Nat) (hval : ∀ (u : State) x k, x < 72 → val (u.put (portBase x) PORT_PSTAT_STATE k) = val u)
    (l : List Nat) (hl : ∀ x ∈ l, x < 72) (hlt : val v < 8) (x : Nat) (hx : x ∈ l ∨ portState v x = val v) :
    portState (v.each l fun u y => u.put (portBase y) PORT_PSTAT_STATE (val u)) x = val v := by
  induction l generalizing v with
  | nil => exact hx.resolve_left (by simp)
  | cons y l ih =>
    have hy := hl y List.mem_cons_self
    have hsame := hval v y (val v) hy
    show portState ((v.put (portBase y) PORT_PSTAT_STATE (val v)).each l _) x = _
    rw [ih _ (fun z hz => hl z (List.mem_cons_of_mem _ hz)) (hsame.symm ▸ hlt), hsame]
    rw [hsame]
    by_cases hxy : x = y
    · subst hxy
      exact .inr (State.get_put_of_lt _ _ (by decide) hlt)
    · obtain hmem | hval := hx
      · exact .inl ((List.mem_cons.mp hmem).resolve_left hxy)
      · refine .inr (.trans ?_ hval)
        refine State.get_put_apart _ _ (by decide) (.inl ?_)
        simp only [portBase]
        omega
theorem each_portPut_rd (val : State → Nat) (l : List Nat) (hl : ∀ x ∈ l, x < 72) {o : Nat} (ho : 0x19000 ≤ o) :
    (v.each l fun u y => u.put (portBase y) PORT_PSTAT_STATE (val u)).rd o = v.rd o :=
  State.each_mem (fun u => u.rd o) _ l (fun u y hy => State.rd_put_of_ne _ _ (by
    have := hl y hy
    simp only [portBase, PORT_PSTAT_STATE]
    omega)) v
end

/-- The state in which a domain's power-up is called off or over, and its bit of DOM_ON set. -/
def domShown (s : State) (n : Nat) (on : Bool) : State := ({ s with domUp := Sp.del s.domUp n } : State).setDom n on
theorem domShown_on (s : State) (n : Nat) (on : Bool) : domOn (domShown s n on) n = on := domOn_setDom_self ..
theorem domShown_rd (s : State) {n o : Nat} (on : Bool) (h : o ≠ pgPOWER + (domFld n).off) : (domShown s n on).rd o = s.rd o :=
  State.rd_put_of_ne _ _ h
theorem domShown_domUp (s : State) (n : Nat) (on : Bool) : (domShown s n on).domUp = Sp.del s.domUp n := rfl

section
variable (s : State) (n : Nat)
theorem emgUpdate_domUp : s.emgUpdate.domUp = s.domUp := by
  rw [emgUpdate_eq]
  split
  · split
    · rfl
    · rw [State.irq_domUp]
      rfl
  · split <;> rfl
theorem otUpdate_domUp : s.otUpdate.domUp = s.domUp := emgUpdate_domUp _
theorem thStat_domUp : s.thStat.domUp = s.domUp := by
  unfold State.thStat
  split <;> rfl
theorem paceDevice_domUp : s.paceDevice.domUp = s.domUp := by
  unfold State.paceDevice
  dsimp only
  rw [State.cond_domUp]
  exact ite_self _
theorem lpSet_domUp (p st : Nat) : (s.lpSet p st).domUp = s.domUp := (congrArg State.domUp (lpSet_sansRec s p st) :)
theorem lpStart_domUp (p : Nat) : (s.lpStart p).domUp = s.domUp := (congrArg State.domUp (lpStart_sansRec s p) :)
/-- A sector periphery that goes off takes its sector out of the temperature's count. -/
def sectorDark (s : State) (q : Nat) : State :=
  (((s.nrg fun e => { e with current := Sp.del e.current q }).put pgPOWER (POWER_SEC_VALID.at 4 q) 0).put pgPOWER (POWER_SEC_OT.at 4 q)
    0).paceDevice.thStat.otUpdate
theorem sectorDark_valid {q : Nat} (hq : q < 32) : (sectorDark s q).flag pgPOWER (POWER_SEC_VALID.at 4 q) = false := by
  have hsec : (POWER_SEC_VALID.at 4 q).ofSec := Fld.at_ofSec POWER_SEC_VALID q hq rfl
  unfold State.flag sectorDark
  rw [otUpdate_sec _ _ hsec, thStat_get _ _ (hsec.ne (by decide)), paceDevice_sec _ _ hsec,
    State.get_put_bits _ _ _ _ _ (by decide) (.inr (by decide)), State.get_put_of_lt _ _ (Fld.at_fits _ _ (by decide)) (Nat.two_pow_pos _)]
  rfl
theorem sectorDark_domOn {q k : Nat} (hq : q < 32) (hk : k ≤ 194) : domOn (sectorDark s q) k = domOn s k := by
  have hoff := domFld_off hk
  refine domOn_congr_get ?_
  unfold sectorDark
  rw [otUpdate_get _ _ (by constructor <;> omega) (by simp only [POWER_EMG_CNT]; omega) (by simp only [POWER_ARB_STAT]; omega)
      (by simp only [POWER_EMG_STAT]; omega), thStat_get _ _ (by simp only [POWER_TH_STAT]; omega),
    paceDevice_get _ _ (by simp only [POWER_PACE_MM]; omega) (.inl (by simp only [POWER_PACE_DEV]; omega)),
    State.get_put_page _ _ _ _ _ (Fld.at_fits _ _ (by decide)) (.inl (by simp only [POWER_SEC_OT]; omega)),
    State.get_put_page _ _ _ _ _ (Fld.at_fits _ _ (by decide)) (.inl (by simp only [POWER_SEC_VALID]; omega)), State.nrg_get]
theorem sectorDark_domUp (q : Nat) : (sectorDark s q).domUp = s.domUp := by
  rw [sectorDark, otUpdate_domUp, thStat_domUp, paceDevice_domUp]
  rfl
end
end

/-! ### The ranges of the domains (R473) -/

section
variable {n : Nat}
theorem domOff_eq (s : State) : s.domOff n =
    if n < 168 then sectorDark (domShown s n false) (n - 136)
    else if n < 170 then domShown s n false
    else if n < 186 then (domShown s n false).each (domPorts n) fun s x => s.put (portBase x) PORT_PSTAT_STATE 0
    else if n < 190 then ((domShown s n false).setLanes (n - 186) 0 0).lpSet (n - 186) 8
    else if n = 194 then { domShown s n false with recd := { s.recd with slots := [], waiting := [], writing := none } }
    else domShown s n false := rfl
theorem domPorts_nil (h : n < 170 ∨ 186 ≤ n) : domPorts n = [] := by
  unfold domPorts
  split
  · rfl
  · rw [if_neg (by omega), if_neg (by omega), if_neg (by omega), if_neg (by omega)]
/-- A register of the POWER page that shows the domains lies off the link and recorder pages. -/
theorem domFld_offLink (hn : n ≤ 194) : OffLink (pgPOWER + (domFld n).off) := by
  have := domFld_off hn
  simp only [OffLink, pgPOWER, pgLINK, pgREC]
  omega
theorem domOff_leaves (s : State) (hlo : 136 ≤ n) (hhi : n ≤ 194) : domOn (s.domOff n) n = false ∧ (s.domOff n).domUp = Sp.del s.domUp n ∧
    (n < 168 → (s.domOff n).flag pgPOWER (POWER_SEC_VALID.at 4 (n - 136)) = false) ∧ ∀ x ∈ domPorts n, portState (s.domOff n) x = 0 := by
  have hshown := domShown_on s n false
  have hup := domShown_domUp s n false
  have hoff := domFld_off hhi
  rw [domOff_eq]
  generalize domShown s n false = u at hshown hup
  by_cases h1 : n < 168
  · rw [if_pos h1]
    refine ⟨(sectorDark_domOn u (by omega) hhi).trans hshown, (sectorDark_domUp u _).trans hup, fun _ => sectorDark_valid u (by omega), ?_⟩
    rw [domPorts_nil (.inl (by omega))]
    exact fun _ h => by cases h
  by_cases h2 : n < 170
  · rw [if_neg h1, if_pos h2, domPorts_nil (.inl h2)]
    exact ⟨hshown, hup, fun h => absurd h h1, fun _ h => by cases h⟩
  by_cases h3 : n < 186
  · rw [if_neg h1, if_neg h2, if_pos h3]
    have hports : ∀ x ∈ domPorts n, x < 72 := fun x hx => domPorts_lt hx
    refine ⟨(domOn_congr_rd (each_portPut_rd u (fun _ => 0) _ hports (by simp only [pgPOWER]; omega))).trans hshown, ?_, fun h => absurd h h1,
      fun x hx => each_portPut u (fun _ => 0) (fun _ _ _ _ => rfl) _ hports (by decide) x (.inl hx)⟩
    exact (State.each_of State.domUp (fun s x => s.put (portBase x) PORT_PSTAT_STATE 0) (fun _ _ => rfl) _ u).trans hup
  rw [if_neg h1, if_neg h2, if_neg h3, domPorts_nil (.inr (by omega))]
  by_cases h4 : n < 190
  · rw [if_pos h4]
    have hp : n - 186 < 4 := by omega
    have hrd : ((u.setLanes (n - 186) 0 0).lpSet (n - 186) 8).rd (pgPOWER + (domFld n).off) = u.rd (pgPOWER + (domFld n).off) :=
      (lpSet_rd _ _ _ hp (domFld_offLink hhi)).trans (setLanes_rd _ _ _ _ hp (domFld_offLink hhi))
    exact ⟨(domOn_congr_rd hrd).trans hshown, (lpSet_domUp ..).trans hup, fun h => absurd h h1, fun _ h => by cases h⟩
  · rw [if_neg h4]
    split
    · exact ⟨(domOn_congr_rd (s := u) (State.rd_congr rfl rfl _)).trans hshown, hup, fun h => absurd h h1, fun _ h => by cases h⟩
    · exact ⟨hshown, hup, fun h => absurd h h1, fun _ h => by cases h⟩
theorem domCmdOff_switches {s : State} {m : Master} (hmay : mayWrite s m pgPOWER POWER_DOM_CMD true = true) (hlo : 136 ≤ n) (hhi : n ≤ 194)
    (hnever : ¬ (190 ≤ n ∧ n ≤ 192)) (hpres : domPresent s.cfg n = true) (hon : domOn s n = true) (hmayOff : domMayOff s n = true) :
    ∃ t, exec (.domCmdOff m n) s = .next t ∧ domOn t n = false ∧ t.domUp = Sp.del s.domUp n ∧
      (n < 168 → t.flag pgPOWER (POWER_SEC_VALID.at 4 (n - 136)) = false) ∧ ∀ x ∈ domPorts n, portState t x = 0 := by
  have htaken := domTaken_same hmay (domWordOf false n)
  show ∃ t, Host.Outcome.next (domCmdWrite m (domWordOf false n) s) = .next t ∧ _
  rw [domCmdWrite_open hmay false (by omega)]
  dsimp only
  generalize domTaken s m (domWordOf false n) = u at htaken
  have hreason : domReason u n false = 0 := by
    rw [htaken.reason, domReason_switchable hlo hhi hnever hpres, if_neg (by decide), hmayOff, hon]
    rfl
  have hsame := domStat_same htaken n 0
  rw [hreason, if_neg (by decide), if_neg (by decide), State.cond, if_pos (by rw [hsame.on hhi, hon]; rfl)]
  obtain ⟨hoff, hup, hvalid, hports⟩ := domOff_leaves (domStat u n 0) hlo hhi
  exact ⟨_, rfl, hoff, hup.trans (by rw [hsame.domUp]), hvalid, hports⟩

/-- The state that the end of a domain's power-up leaves. -/
def domUpDone (s : State) (n : Nat) : State :=
  let u := domShown s n true
  if n < 168 then u
  else if n < 170 then u.cond (planeState u (n - 168) != 3) fun s => s.setPlane (n - 168) 2
  else if n < 186 then u.each (domPorts n) fun s x => s.put (portBase x) PORT_PSTAT_STATE (if parked s then 5 else 1)
  else if n < 190 then u.lpDown (n - 186)
  else if n = 194 then u.put pgREC RECORDER_RC_STAT_STATE 0
  else u
theorem exec_domainOnDone {s : State} (hrise : rising s n = true) (hdue : Sp.get 0 s.domUp n + domTime n ≤ s.now) :
    exec (.domainOnDone n) s = .next (domUpDone s n) := by
  show execDomainOnDone n s = _
  unfold execDomainOnDone
  rw [if_neg (by rw [hrise]; simp; omega)]
  rfl
/-- A link port that becomes DOWN with whatever waits in its queue. -/
theorem lpDown_keeps (u : State) {p : Nat} (hp : p < 4) : (∀ o, OffLink o → (u.lpDown p).rd o = u.rd o) ∧ (u.lpDown p).domUp = u.domUp := by
  have hsends : Sends (u.setLanes p 0 0) (((u.setLanes p 0 0).lport p fun l =>
      { l with replay := [], waitL := false, dropMask := none, lossAt := none, lock := true }).dropQueue p) :=
    (lport_sends ..).trans (dropQueue_sends _ (by omega))
  refine ⟨fun o ho => ?_, ?_⟩
  · have hsend : OffSend o := ⟨ho.2, ho.1.imp_right .inl⟩
    unfold State.lpDown
    dsimp only
    rw [lpStart_rd _ _ hp ho, lpSet_rd _ _ _ hp ho, hsends.regs o hsend, setLanes_rd u p _ _ hp ho]
  · unfold State.lpDown
    dsimp only
    rw [lpStart_domUp, lpSet_domUp, hsends.domUp]
    rfl
/-- One that is not enabled stays DOWN. -/
theorem lpDown_down (u : State) {p : Nat} (hp : p < 4) (hen : lpGet u p LINK_P_CTL_EN = 0) : lpState (u.lpDown p) p = 0 := by
  have hsends : Sends (u.setLanes p 0 0) (((u.setLanes p 0 0).lport p fun l =>
      { l with replay := [], waitL := false, dropMask := none, lossAt := none, lock := true }).dropQueue p) :=
    (lport_sends ..).trans (dropQueue_sends _ (by omega))
  have hkeeps : lpGet (((u.setLanes p 0 0).lport p fun l =>
      { l with replay := [], waitL := false, dropMask := none, lossAt := none, lock := true }).dropQueue p) p LINK_P_CTL_EN = 0 := by
    refine (hsends.get _ _ ?_).trans ((lpGet_setLanes _ _ _ _ _ (.inl (by decide))).trans hen)
    simp only [OffSend, pgLINK, pgREC, LINK_P_CTL, LINK_P_CTL_EN, HDR_IRQ_STAT, LINK_NAK_LAST, LINK_NAK_CNT]
    omega
  unfold State.lpDown
  dsimp only
  rw [lpStart_idle]
  · exact State.lpSet_state _ _ _ (by decide) hp
  · right
    rw [lpGet_lpSet _ _ _ _ hp (by decide) (.inl (by decide)), hkeeps]
    decide
theorem domUpDone_leaves (s : State) (hlo : 136 ≤ n) (hhi : n ≤ 194) : domOn (domUpDone s n) n = true ∧ (domUpDone s n).domUp = Sp.del s.domUp n ∧
    (n = 168 ∨ n = 169 → planeState s (n - 168) ≠ 3 → planeState (domUpDone s n) (n - 168) = 2) ∧
    (∀ x ∈ domPorts n, portState (domUpDone s n) x = if parked s then 5 else 1) ∧
    (186 ≤ n → n ≤ 189 → lpGet s (n - 186) LINK_P_CTL_EN = 0 → lpState (domUpDone s n) (n - 186) = 0) := by
  have hshown := domShown_on s n true
  have hup := domShown_domUp s n true
  have hrd : ∀ o, o < pgPOWER ∨ pgREC ≤ o → (domShown s n true).rd o = s.rd o := fun o ho => by
    have := domFld_off hhi
    refine domShown_rd s true ?_
    simp only [pgPOWER, pgREC] at ho ⊢
    omega
  have hoff := domFld_off hhi
  unfold domUpDone
  dsimp only
  generalize domShown s n true = u at hshown hup hrd
  by_cases h1 : n < 168
  · rw [if_pos h1, domPorts_nil (.inl (by omega))]
    exact ⟨hshown, hup, by omega, fun _ h => (by cases h), by omega⟩
  by_cases h2 : n < 170
  · have hplane := planeState_of_rd (hrd (pgHUB + HUB_PLANE_STAT) (.inl (by decide))) (n - 168)
    rw [if_neg h1, if_pos h2, domPorts_nil (.inl h2), hplane]
    refine ⟨?_, ?_, fun _ hne => ?_, fun _ h => (by cases h), by omega⟩
    · refine (domOn_congr_rd ?_).trans hshown
      rw [State.cond_rd, State.setPlane, State.rd_put_of_ne _ _ (by
        have : ∀ p, (if p = 0 then HUB_PLANE_STAT_A_STATE else HUB_PLANE_STAT_B_STATE).off = HUB_PLANE_STAT := fun p => by split <;> rfl
        rw [this]
        simp only [pgPOWER, pgHUB, HUB_PLANE_STAT]
        omega), ite_self]
    · rw [State.cond_domUp]
      exact (ite_self _).trans hup
    · rw [State.cond, if_pos (by simpa using hne)]
      exact planeState_setPlane_self _ _ (by decide)
  by_cases h3 : n < 186
  · rw [if_neg h1, if_neg h2, if_pos h3]
    have hports : ∀ x ∈ domPorts n, x < 72 := fun x hx => domPorts_lt hx
    have hparked : parked u = parked s := parked_of_rd (hrd _ (.inl (by decide))) (hrd _ (.inr (by decide)))
    have hval : ∀ (v : State) x k, x < 72 →
        (if parked (v.put (portBase x) PORT_PSTAT_STATE k) then 5 else 1) = if parked v then 5 else 1 := fun v x k hx => by
      rw [parked_of_rd (State.rd_put_of_ne _ _ (by simp only [pgHUB, HUB_PLANE_STAT, portBase, PORT_PSTAT_STATE]; omega))
        (State.rd_put_of_ne _ _ (by simp only [pgTEST, TEST_LC_STAT, portBase, PORT_PSTAT_STATE]; omega))]
    refine ⟨(domOn_congr_rd (each_portPut_rd u (fun v => if parked v then 5 else 1) _ hports (by simp only [pgPOWER]; omega))).trans hshown, ?_,
      by omega, fun x hx => ?_, by omega⟩
    · exact (State.each_of State.domUp (fun s x => s.put (portBase x) PORT_PSTAT_STATE (if parked s then 5 else 1)) (fun _ _ => rfl) _ u).trans hup
    · rw [← hparked]
      exact each_portPut u (fun v => if parked v then 5 else 1) hval _ hports (by split <;> decide) x (.inl hx)
  rw [if_neg h1, if_neg h2, if_neg h3, domPorts_nil (.inr (by omega))]
  by_cases h4 : n < 190
  · rw [if_pos h4]
    have hp : n - 186 < 4 := by omega
    obtain ⟨hregs, hups⟩ := lpDown_keeps u hp
    refine ⟨(domOn_congr_rd (hregs _ (domFld_offLink hhi))).trans hshown, hups.trans hup, by omega, fun _ h => (by cases h), fun _ _ hen => ?_⟩
    refine lpDown_down u hp (.trans ?_ hen)
    refine congrArg (LINK_P_CTL_EN.at 256 (n - 186)).of (hrd _ (.inl ?_))
    simp only [pgLINK, pgPOWER, LINK_P_CTL_EN]
    omega
  · rw [if_neg h4]
    split
    · refine ⟨(domOn_congr_rd (State.rd_put_of_ne _ _ ?_)).trans hshown, hup, by omega, fun _ h => (by cases h), by omega⟩
      simp only [pgPOWER, pgREC, RECORDER_RC_STAT_STATE]
      omega
    · exact ⟨hshown, hup, by omega, fun _ h => (by cases h), by omega⟩
end

/-- Settles O40: DOM_CMD by the reason of its domain (`domReason`), and what goes off or has come on by the ranges of the domains. -/
theorem powerDomains : Obligations.PowerDomains := by
  refine ⟨fun s m n => domCmdOn_rises, fun s m n => domCmdOff_switches, fun s m n reason hmay hn h => domCmdOff_refused hmay hn h,
    fun s n hrise hdue hlo hhi => ?_⟩
  obtain ⟨hon, hup, hplane, hports, hlink⟩ := domUpDone_leaves s hlo hhi
  exact ⟨_, exec_domainOnDone hrise hdue, hon, hup, hplane, hports, hlink⟩

end Sys2Proof.Machine

/-! PROOFS. The window unit at rest (spec/14_remote_access.md R415 to R422): a run of it that finds nothing to do, and the fields of a window. -/
namespace Sys2Proof.Machine

/-! ### A run with nothing to do -/

theorem each_empty {α : Type} (s : State) (f : State → α → State) : s.each [] f = s := rfl
/-- The unit with the queue shares that its packets wait for. -/
def State.heldFor (s : State) (l : List Nat) : State := s.wnu fun u => { u with held := l }
theorem rxRun_empty {s : State} {p : Nat} (h : (lkPort s p).rxq = []) : s.rxRun p (lkPort s p).rxq.length = s := by
  rw [h]
  rfl
/-- Nothing waits in the receive buffers, so nothing waits for a share. -/
theorem sharesHeld_empty {s : State} (h : ∀ q < 5, (lkPort s q).rxq = []) :
    ((List.range 5).flatMap fun p => (laneHeads (lkPort s p).rxq).filterMap (shareOf s)).eraseDups = [] := by
  have hnil : ((List.range 5).flatMap fun p => (laneHeads (lkPort s p).rxq).filterMap (shareOf s)) = [] := by
    refine List.flatMap_eq_nil_iff.mpr fun q hq => ?_
    rw [h q (List.mem_range.mp hq)]
    rfl
  rw [hnil]
  rfl
/-- Outcomes taken where there are none, and no write to settle. -/
theorem pullParts_idle {s : State} (ha : s.hub.answers = []) (hw : s.win.arr = []) : s.pullParts = s := pull_id s ha (by rw [hw]; rfl)
theorem each_range_of {f : State → Nat → State} {s : State} (n : Nat) (h : ∀ k < n, f s k = s) : s.each (List.range n) f = s := by
  have hall : ∀ l : List Nat, (∀ k ∈ l, k < n) → s.each l f = s := fun l => by
    induction l with
    | nil => exact fun _ => rfl
    | cons k l ih =>
      intro hl
      show (f s k).each l f = s
      rw [h k (hl k List.mem_cons_self)]
      exact ih fun j hj => hl j (List.mem_cons_of_mem _ hj)
  exact hall _ fun k hk => List.mem_range.mp hk
/-- A run of the unit at rest leaves it as it is, with no share waited for. -/
theorem winRun_idle {s : State} (h : idleWin s) : s.winRun = s.heldFor (if s.cfg.links = 0 then s.win.held else []) := by
  obtain ⟨ha, hw, hr, hrx⟩ := h
  unfold State.winRun
  split
  · rfl
  · dsimp only
    rw [pullParts_idle ha hw, hw, List.map_nil, each_empty, pullParts_idle ha hw, each_range_of 5 fun q hq => rxRun_empty (hrx q hq),
      pullParts_idle ha hw, hr]
    show (s.wnu fun u => { u with held := _ }) = _
    rw [show s.sendRecords ([] : List (Nat × Nat)).length = s from rfl, sharesHeld_empty hrx]
    rfl

section
variable (s : State) (l : List Nat)
@[simp] theorem State.heldFor_rd (o : Nat) : (s.heldFor l).rd o = s.rd o := rfl
@[simp] theorem State.heldFor_get (a : Nat) (f : Fld) : (s.heldFor l).get a f = s.get a f := rfl
@[simp] theorem State.heldFor_link : (s.heldFor l).link = s.link := rfl
@[simp] theorem State.heldFor_sync : (s.heldFor l).sync = s.sync := rfl
@[simp] theorem State.heldFor_cfg : (s.heldFor l).cfg = s.cfg := rfl
@[simp] theorem State.heldFor_hub : (s.heldFor l).hub = s.hub := rfl
@[simp] theorem State.heldFor_now : (s.heldFor l).now = s.now := rfl
@[simp] theorem State.heldFor_arr : (s.heldFor l).win.arr = s.win.arr := rfl
@[simp] theorem State.heldFor_fences : (s.heldFor l).win.fences = s.win.fences := rfl
@[simp] theorem State.heldFor_landed : (s.heldFor l).win.landed = s.win.landed := rfl
@[simp] theorem State.heldFor_tokens : (s.heldFor l).win.tokens = s.win.tokens := rfl
end

theorem idleWin_congr {s t : State} (hhub : t.hub = s.hub) (hwin : t.win = s.win) (hlink : t.link = s.link) (h : idleWin s) : idleWin t := by
  obtain ⟨ha, hw, hr, hrx⟩ := h
  refine ⟨by rw [hhub, ha], by rw [hwin, hw], by rw [hwin, hr], fun q hq => ?_⟩
  rw [lkPort_congr hlink]
  exact hrx q hq
/-- A run of the unit at rest, seen from what it leaves. -/
theorem winRun_rests {u : State} (h : idleWin u) (hlinks : u.cfg.links ≠ 0) : u.winRun = u.heldFor [] := by
  rw [winRun_idle h, if_neg hlinks]

/-! ### The fields of a window -/

section
variable (s : State) (w : Nat)
/-- The words of a window lie in the two pages of the windows' table. -/
theorem winFld_off {f : Fld} (hf : 0x100 ≤ f.off ∧ f.off < 0x110) :
    0x0A1100 ≤ winBase w + (f.at 16 (w % 128)).off ∧ winBase w + (f.at 16 (w % 128)).off < 0x0A3000 := by
  have hoff : (f.at 16 (w % 128)).off = f.off + 16 * (w % 128) := rfl
  rw [hoff]
  unfold winBase
  split <;> omega
theorem winGet_congr {s t : State} (f : Fld) (h : t.rd (winBase w + (f.at 16 (w % 128)).off) = s.rd (winBase w + (f.at 16 (w % 128)).off)) :
    winGet t w f = winGet s w f := congrArg (f.at 16 (w % 128)).of h
theorem winGet_winPut_self {f : Fld} {v : Nat} (h : f.fits) (hv : v < 2 ^ (f.hi + 1 - f.lo)) : winGet (s.winPut w f v) w f = v :=
  State.get_put_of_lt _ _ (Fld.at_fits _ _ h) hv
theorem winGet_winPut_apart {f g : Fld} (v : Nat) (h : f.fits) (d : g.hi < f.lo ∨ f.hi < g.lo) :
    winGet (s.winPut w f v) w g = winGet s w g := State.get_put_bits _ _ _ _ _ h d
/-- A word of another place than that of the window's field. -/
theorem winPut_rd {f : Fld} (v : Nat) {o : Nat} (hf : 0x100 ≤ f.off ∧ f.off < 0x110) (ho : o < 0x0A1100 ∨ 0x0A3000 ≤ o) :
    (s.winPut w f v).rd o = s.rd o := by
  have := winFld_off w hf
  exact State.rd_put_of_ne _ _ (by omega)
end

end Sys2Proof.Machine

/-! PROOFS. The window unit's own registers and the windows (spec/14_remote_access.md R414 to R422). -/
namespace Sys2Proof.Machine

/-! ### WCTL (R414, R422) -/

theorem windowUnitEnable_takes {s : State} {m : Master} {w : Word32} (hmay : mayWrite s m pgWINCTL WINDOW_CTL_WCTL true = true) (h : idleWin s) :
    ∃ t, exec (.windowUnitEnable m w) s = .next t ∧ t.get pgWINCTL WINDOW_CTL_WCTL_EN = WINDOW_CTL_WCTL_EN.of w ∧
      t.get pgWINCTL WINDOW_CTL_WCTL_REG = WINDOW_CTL_WCTL_REG.of w ∧ t.link = s.link := by
  have hidle := idleWin_congr (s := s) (t := (s.put pgWINCTL WINDOW_CTL_WCTL_EN (WINDOW_CTL_WCTL_EN.of w)).put pgWINCTL WINDOW_CTL_WCTL_REG
    (WINDOW_CTL_WCTL_REG.of w)) rfl rfl rfl h
  show ∃ t, execWindowUnitEnable m w s = .next t ∧ _
  unfold execWindowUnitEnable
  rw [State.gate_open _ _ _ _ _ _ hmay, winRun_idle hidle]
  refine ⟨_, rfl, ?_, ?_, rfl⟩
  · rw [State.heldFor_get, State.get_put_page _ _ _ _ _ (by decide) (by decide)]
    exact State.get_put_of_lt _ _ (by decide) (Fld.of_lt _ w)
  · rw [State.heldFor_get]
    exact State.get_put_of_lt _ _ (by decide) (Fld.of_lt _ w)

/-! ### OPEN (R417, R420, R421) -/

section
variable {s : State} {m : Master} {w : Nat}

/-- Register CFG0 of a window. -/
def cfg0 (w : Nat) : Nat := WINDOW_TAB_WIN_CFG0 + 16 * (w % 128)
theorem exec_windowOpen (hmay : mayWrite s m (winBase w) (cfg0 w) false = true) (hw : w < 256) :
    exec (.windowOpen m w) s = .next (s.openWin m w) := by
  show execWindowOpen m w s = _
  unfold execWindowOpen
  dsimp only
  rw [Nat.mod_eq_of_lt hw]
  exact congrArg Host.Outcome.next (State.gate_open _ _ _ _ _ _ hmay)
/-- The state of a window that has opened, its landed-write counters 0. -/
def winOpened (s : State) (w : Nat) : State :=
  (s.winPut w WINDOW_TAB_WIN_CFG0_STATE 1).wnu fun u => { u with landed := u.landed.filter fun e => e.1 / 64 != w }
theorem openWin_opens (hst : winState s w = 0) (hok : openReason s w = 0) : s.openWin m w = (winOpened s w).registry w true := by
  unfold State.openWin
  rw [if_neg (by rw [hst]; decide), hok]
  rfl
theorem winOpened_state : winState (winOpened s w) w = 1 :=
  winGet_winPut_self s w (f := WINDOW_TAB_WIN_CFG0_STATE) (by decide) (by decide)
/-- The window's words are apart from the window unit's own. -/
theorem winOpened_rd {o : Nat} (ho : o < 0x0A1100 ∨ 0x0A3000 ≤ o) : (winOpened s w).rd o = s.rd o := winPut_rd s w 1 (by decide) ho
/-- A counter of another window is kept, one of this window is gone. -/
theorem landed_filter (l : Sp Nat) (w src : Nat) (hs : src < 64) : Sp.get 0 (l.filter fun e => e.1 / 64 != w) (64 * w + src) = 0 := by
  induction l with
  | nil => rfl
  | cons e l ih =>
    rw [List.filter_cons]
    split
    · rename_i he
      have hne : 64 * w + src ≠ e.1 := fun h => by
        rw [← h] at he
        simp only [bne_iff_ne, ne_eq] at he
        omega
      unfold Sp.get
      rw [if_neg hne]
      split
      · rfl
      · exact ih
    · exact ih
theorem registry_off {on : Bool} (h : s.flag pgWINCTL WINDOW_CTL_WCTL_REG = false) : s.registry w on = s := by
  unfold State.registry
  rw [h]
  rfl
theorem windowOpen_opens (hmay : mayWrite s m (winBase w) (cfg0 w) false = true) (hw : w < 256) (hst : winState s w = 0)
    (hok : openReason s w = 0) (hreg : s.flag pgWINCTL WINDOW_CTL_WCTL_REG = false) :
    ∃ t, exec (.windowOpen m w) s = .next t ∧ winState t w = 1 ∧ t.win.landed = s.win.landed.filter (fun e => e.1 / 64 != w) ∧
      (∀ src < 64, landedOf t w src = 0) ∧ t.link = s.link := by
  have hflag : (winOpened s w).flag pgWINCTL WINDOW_CTL_WCTL_REG = false :=
    (State.flag_congr (congrArg WINDOW_CTL_WCTL_REG.of (winOpened_rd (.inl (by decide))))).trans hreg
  refine ⟨winOpened s w, ?_, winOpened_state, rfl, fun src hs => landed_filter _ w src hs, rfl⟩
  rw [exec_windowOpen hmay hw, openWin_opens hst hok, registry_off hflag]
/-- A registry record behind those that wait. -/
def recordQueued (s : State) (w data : Nat) : State := s.wnu fun u => { u with records := u.records ++ [(32 * (256 * devAddr s + w), data)] }
theorem recordQueued_records (w data : Nat) :
    (recordQueued s w data).win.records.map (·.1) = s.win.records.map (·.1) ++ [32 * (256 * devAddr s + w)] := List.map_append ..
theorem recordQueued_state (w k data : Nat) : winState (recordQueued s w data) k = winState s k := rfl
/-- A record that no tag is free for waits behind those before it. -/
theorem registry_waits {on : Bool} (h : s.flag pgWINCTL WINDOW_CTL_WCTL_REG = true) (hroom : tagRoom s = false) :
    ∃ data, s.registry w on = recordQueued s w data := by
  have hstop : ∀ (t : State) fuel, tagRoom t = false → t.sendRecords fuel = t := fun t fuel ht => by
    cases fuel with
    | zero => rfl
    | succ fuel =>
      unfold State.sendRecords
      split
      · rfl
      · rw [ht]
        rfl
  unfold State.registry
  rw [h]
  dsimp only
  rw [if_neg (by decide)]
  exact ⟨_, hstop _ _ hroom⟩
theorem windowOpen_records (hmay : mayWrite s m (winBase w) (cfg0 w) false = true) (hw : w < 256) (hst : winState s w = 0)
    (hok : openReason s w = 0) (hreg : s.flag pgWINCTL WINDOW_CTL_WCTL_REG = true) (hroom : tagRoom s = false) :
    ∃ t, exec (.windowOpen m w) s = .next t ∧ winState t w = 1 ∧
      t.win.records.map (·.1) = s.win.records.map (·.1) ++ [32 * (256 * devAddr s + w)] := by
  have hflag : (winOpened s w).flag pgWINCTL WINDOW_CTL_WCTL_REG = true :=
    (State.flag_congr (congrArg WINDOW_CTL_WCTL_REG.of (winOpened_rd (.inl (by decide))))).trans hreg
  have haddr : devAddr (winOpened s w) = devAddr s := congrArg LINK_ENUM_STAT_ADDR.of (winOpened_rd (.inl (by decide)))
  obtain ⟨data, hrecord⟩ := registry_waits (s := winOpened s w) (w := w) (on := true) hflag hroom
  have hopen := openWin_opens (m := m) hst hok
  have hstate : winState (winOpened s w) w = 1 := winOpened_state
  have hkeep : (winOpened s w).win.records = s.win.records := rfl
  rw [hrecord] at hopen
  generalize winOpened s w = u at *
  refine ⟨recordQueued u w data, (exec_windowOpen hmay hw).trans (congrArg _ hopen), (recordQueued_state w w data).trans hstate, ?_⟩
  rw [recordQueued_records, hkeep, haddr]
/-- The record of a refused write of a window lies in the header of the window's page. -/
theorem winRefused_rd (u : State) {o : Nat} (ho : o < 0x0A1000 ∨ 0x0A1100 ≤ o ∧ o < 0x0A2000 ∨ 0x0A2100 ≤ o) :
    (u.refused m (winBase w) (cfg0 w)).rd o = u.rd o := by
  have hbase : winBase w = 0x0A1000 ∨ winBase w = 0x0A2000 := by
    unfold winBase
    split
    · exact .inl rfl
    · exact .inr rfl
  refine State.refused_rd _ _ _ _ _ ?_ ?_ ?_ <;> simp only [HDR_ERR_INFO, HDR_ERR_ADDR, HDR_VIOL_CNT] <;> omega
/-- Where CFG0 of a window lies. -/
theorem winState_off (w : Nat) : (0x0A1100 ≤ winBase w + (WINDOW_TAB_WIN_CFG0_STATE.at 16 (w % 128)).off ∧
    winBase w + (WINDOW_TAB_WIN_CFG0_STATE.at 16 (w % 128)).off < 0x0A2000) ∨
    0x0A2100 ≤ winBase w + (WINDOW_TAB_WIN_CFG0_STATE.at 16 (w % 128)).off := by
  have hlow : (WINDOW_TAB_WIN_CFG0_STATE.at 16 (w % 128)).off = 0x100 + 16 * (w % 128) := rfl
  rw [hlow]
  unfold winBase
  split <;> omega
/-- A word that is apart from a window's state. -/
theorem winState_ne {o : Nat} (ho : o < 0x0A1100 ∨ 0x0A2000 ≤ o ∧ o < 0x0A2100 ∨ 0x0A3000 ≤ o) :
    o ≠ winBase w + (WINDOW_TAB_WIN_CFG0_STATE.at 16 (w % 128)).off := by
  have hlow := winState_off w
  have hhigh := winFld_off w (f := WINDOW_TAB_WIN_CFG0_STATE) (by decide)
  generalize winBase w + (WINDOW_TAB_WIN_CFG0_STATE.at 16 (w % 128)).off = k at *
  omega
/-- A refused write leaves the window as it was, and WERR as it names it. -/
theorem winErr_leaves (num reason : Nat) (hnum : num < 256) (hreason : reason < 16) :
    winState (s.winErr m (winBase w) (cfg0 w) 0 num reason) w = winState s w ∧
      (s.winErr m (winBase w) (cfg0 w) 0 num reason).get pgWINCTL WINDOW_CTL_WERR_REASON = reason ∧
      (s.winErr m (winBase w) (cfg0 w) 0 num reason).get pgWINCTL WINDOW_CTL_WERR_KIND = 0 ∧
      (s.winErr m (winBase w) (cfg0 w) 0 num reason).get pgWINCTL WINDOW_CTL_WERR_NUM = num := by
  have hwerr : ∀ (u : State) (f : Fld), f.off = WINDOW_CTL_WERR → (u.refused m (winBase w) (cfg0 w)).get pgWINCTL f = u.get pgWINCTL f :=
    fun u f hf => congrArg f.of (winRefused_rd u (.inl (by rw [hf]; decide)))
  unfold State.winErr
  dsimp only
  refine ⟨?_, ?_, ?_, ?_⟩
  · refine winGet_congr w _ ?_
    rw [winRefused_rd _ (.inr (winState_off w)), State.rd_put_of_ne _ _ (winState_ne (by decide)).symm,
      State.rd_put_of_ne _ _ (winState_ne (by decide)).symm, State.rd_put_of_ne _ _ (winState_ne (by decide)).symm]
  · rw [hwerr _ _ rfl, State.get_put_page _ _ _ _ _ (by decide) (by decide), State.get_put_page _ _ _ _ _ (by decide) (by decide)]
    exact State.get_put_of_lt _ _ (by decide) hreason
  · rw [hwerr _ _ rfl, State.get_put_page _ _ _ _ _ (by decide) (by decide)]
    exact State.get_put_of_lt _ _ (by decide) (by decide)
  · rw [hwerr _ _ rfl]
    exact State.get_put_of_lt _ _ (by decide) hnum
theorem openReason_lt : openReason s w < 16 := by
  unfold openReason
  split
  · decide
  · split
    · decide
    · split
      · decide
      · split <;> decide
theorem windowOpen_fails (hmay : mayWrite s m (winBase w) (cfg0 w) false = true) (hw : w < 256) (hst : winState s w = 0)
    (hbad : openReason s w ≠ 0) : ∃ t, exec (.windowOpen m w) s = .next t ∧ winState t w = 0 ∧
      t.get pgWINCTL WINDOW_CTL_WERR_REASON = openReason s w ∧ t.get pgWINCTL WINDOW_CTL_WERR_KIND = 0 ∧
      t.get pgWINCTL WINDOW_CTL_WERR_NUM = w ∧ t.win = s.win := by
  have hopen : s.openWin m w = s.winErr m (winBase w) (cfg0 w) 0 w (openReason s w) := by
    unfold State.openWin
    dsimp only
    rw [if_neg (by rw [hst]; decide)]
    cases hr : openReason s w with
    | zero => exact absurd hr hbad
    | succ r => rfl
  obtain ⟨hstate, hreason, hkind, hnum⟩ := winErr_leaves (s := s) (m := m) (w := w) w _ hw (openReason_lt (s := s))
  exact ⟨_, (exec_windowOpen hmay hw).trans (congrArg _ hopen), hstate.trans hst, hreason, hkind, hnum, rfl⟩
theorem windowOpen_busy (hmay : mayWrite s m (winBase w) (cfg0 w) false = true) (hw : w < 256) (hst : winState s w ≠ 0) :
    ∃ t, exec (.windowOpen m w) s = .next t ∧ winState t w = winState s w ∧ t.get pgWINCTL WINDOW_CTL_WERR_BUSY = 1 ∧ t.win = s.win := by
  have hopen : s.openWin m w = s.winBusy m (winBase w) (cfg0 w) := by
    unfold State.openWin
    exact if_pos hst
  refine ⟨_, (exec_windowOpen hmay hw).trans (congrArg _ hopen), ?_, ?_, rfl⟩
  · refine winGet_congr w _ ?_
    rw [State.winBusy, winRefused_rd _ (.inr (winState_off w)), State.rd_put_of_ne _ _ (winState_ne (by decide)).symm]
  · have hwerr := winRefused_rd (m := m) (w := w) (s.put pgWINCTL WINDOW_CTL_WERR_BUSY 1) (o := pgWINCTL + WINDOW_CTL_WERR_BUSY.off)
      (.inl (by decide))
    rw [State.winBusy, State.get, hwerr]
    exact State.get_put_of_lt _ _ (by decide) (by decide)

/-! ### CLOSE (R421) -/

theorem windowClose_closing (hmay : mayWrite s m (winBase w) (cfg0 w) false = true) (hw : w < 256) (hst : winState s w = 1) :
    ∃ t, exec (.windowClose m w) s = .next t ∧ winState t w = 2 ∧ t.win = s.win := by
  refine ⟨s.winPut w WINDOW_TAB_WIN_CFG0_STATE 2, ?_, winGet_winPut_self s w (f := WINDOW_TAB_WIN_CFG0_STATE) (by decide) (by decide), rfl⟩
  show execWindowClose m w s = _
  unfold execWindowClose
  dsimp only
  rw [Nat.mod_eq_of_lt hw]
  refine congrArg Host.Outcome.next ((State.gate_open _ _ _ _ _ _ hmay).trans ?_)
  rw [hst]
  rfl
/-- The window CLOSED, with the interrupt of DIRQ. -/
def winClosed (s : State) (w : Nat) : State :=
  (s.winPut w WINDOW_TAB_WIN_CFG0_STATE 0).cond (winGet (s.winPut w WINDOW_TAB_WIN_CFG0_STATE 0) w WINDOW_TAB_WIN_CFG0_DIRQ == 1) fun s =>
    s.irq pgWINCTL 0
/-- Its completion counter raised, where DCNT asks for it. -/
def winCounted (s : State) (w : Nat) : State :=
  let k := winGet s w WINDOW_TAB_WIN_CFG2_COUNTER
  s.cond (winGet s w WINDOW_TAB_WIN_CFG0_DCNT == 1 && decide (k ≤ 47)) fun s => s.ctrOp (48 * winGet s w WINDOW_TAB_WIN_CFG2_CORE + k) 0 1
theorem exec_windowCloseDone (h : idleWin s) (hw : w < 256) (hst : winState s w = 2) : ∃ l, exec (.windowCloseDone w) s =
    .next ((winCounted (winClosed (s.heldFor l) w) w).registry w false) := by
  refine ⟨if s.cfg.links = 0 then s.win.held else [], ?_⟩
  have harr : s.win.arr = [] := h.2.1
  show execWindowCloseDone w s = _
  unfold execWindowCloseDone
  dsimp only
  rw [Nat.mod_eq_of_lt hw, winRun_idle h]
  generalize (if s.cfg.links = 0 then s.win.held else []) = l
  rw [if_neg (by rw [State.heldFor_arr, harr]; rintro (hne | hany); exacts [hne hst, by cases hany])]
  rfl
/-- A CLOSED window's registers but for its state, the interrupt's and the recorder's are as they were. -/
theorem winClosed_rd {o : Nat} (hirq : o ≠ pgWINCTL + HDR_IRQ_STAT) (hrec : o < pgREC ∨ pgREC + 4096 ≤ o)
    (ho : o ≠ winBase w + (WINDOW_TAB_WIN_CFG0_STATE.at 16 (w % 128)).off) : (winClosed s w).rd o = s.rd o := by
  rw [winClosed, State.cond_rd, State.irq_rd _ _ _ _ hirq hrec, ite_self]
  exact State.rd_put_of_ne _ _ ho
/-- The window's words, once the interrupt is raised. -/
theorem winClosed_word {o : Nat} (hlow : 0x0A1100 ≤ o) (hhigh : o < 0x0A3000) :
    (winClosed s w).rd o = (s.winPut w WINDOW_TAB_WIN_CFG0_STATE 0).rd o := by
  rw [winClosed, State.cond_rd, State.irq_rd _ _ _ _ (by simp only [pgWINCTL, HDR_IRQ_STAT]; omega) (.inl (by simp only [pgREC]; omega)), ite_self]
/-- A field of the window other than STATE. -/
theorem winClosed_get {f : Fld} (hf : 0x100 ≤ f.off ∧ f.off < 0x110) (d : f.off ≠ WINDOW_TAB_WIN_CFG0_STATE.off ∨ f.hi < 30) :
    winGet (winClosed s w) w f = winGet s w f := by
  have hput : winGet (s.winPut w WINDOW_TAB_WIN_CFG0_STATE 0) w f = winGet s w f :=
    State.get_put_page _ _ _ _ _ (Fld.at_fits _ _ (by decide)) (d.imp (fun hne he => hne (Nat.add_right_cancel he).symm) .inl)
  refine (winGet_congr (s := s.winPut w WINDOW_TAB_WIN_CFG0_STATE 0) w f ?_).trans hput
  obtain ⟨hlow, hhigh⟩ := winFld_off w hf
  exact winClosed_word hlow hhigh
theorem winClosed_state : winState (winClosed s w) w = 0 := by
  obtain ⟨hlow, hhigh⟩ := winFld_off w (f := WINDOW_TAB_WIN_CFG0_STATE) (by decide)
  exact (winGet_congr (s := s.winPut w WINDOW_TAB_WIN_CFG0_STATE 0) w _ (winClosed_word hlow hhigh)).trans
    (winGet_winPut_self s w (f := WINDOW_TAB_WIN_CFG0_STATE) (by decide) (by decide))
theorem winClosed_reg : (winClosed s w).flag pgWINCTL WINDOW_CTL_WCTL_REG = s.flag pgWINCTL WINDOW_CTL_WCTL_REG :=
  State.flag_congr (congrArg WINDOW_CTL_WCTL_REG.of (winClosed_rd (by decide) (.inl (by decide)) (winState_ne (by decide))))
theorem windowCloseDone_closes (h : idleWin s) (hw : w < 256) (hst : winState s w = 2) (hreg : s.flag pgWINCTL WINDOW_CTL_WCTL_REG = false)
    (hdcnt : winGet s w WINDOW_TAB_WIN_CFG0_DCNT = 0) : ∃ t, exec (.windowCloseDone w) s = .next t ∧ winState t w = 0 ∧
      (winGet s w WINDOW_TAB_WIN_CFG0_DIRQ = 1 → (t.rd (pgWINCTL + HDR_IRQ_STAT)).toNat.testBit 0 = true) := by
  obtain ⟨l, hexec⟩ := exec_windowCloseDone h hw hst
  have hcount : winCounted (winClosed (s.heldFor l) w) w = winClosed (s.heldFor l) w := by
    have hget : winGet (winClosed (s.heldFor l) w) w WINDOW_TAB_WIN_CFG0_DCNT = 0 := (winClosed_get (by decide) (by decide)).trans hdcnt
    rw [winCounted, hget]
    rfl
  refine ⟨winClosed (s.heldFor l) w, ?_, winClosed_state, fun hdirq => ?_⟩
  · rw [hexec, hcount, registry_off (s := winClosed (s.heldFor l) w) (winClosed_reg.trans hreg)]
  · have hset : winGet ((s.heldFor l).winPut w WINDOW_TAB_WIN_CFG0_STATE 0) w WINDOW_TAB_WIN_CFG0_DIRQ = 1 :=
      (winGet_winPut_apart _ w 0 (by decide) (.inl (by decide))).trans hdirq
    rw [winClosed, hset, State.cond, if_pos (by rfl)]
    exact State.irq_sets _ _ _ (by decide) (by decide)
theorem windowCloseDone_counts {c : Nat} (h : idleWin s) (hw : w < 256) (hst : winState s w = 2)
    (hreg : s.flag pgWINCTL WINDOW_CTL_WCTL_REG = false) (hdcnt : winGet s w WINDOW_TAB_WIN_CFG0_DCNT = 1)
    (hk : winGet s w WINDOW_TAB_WIN_CFG2_COUNTER ≤ 47)
    (hc : c = 48 * winGet s w WINDOW_TAB_WIN_CFG2_CORE + winGet s w WINDOW_TAB_WIN_CFG2_COUNTER) (hwatch : noWatch s c)
    (hpark : parked s = false) : ∃ t, exec (.windowCloseDone w) s = .next t ∧ winState t w = 0 ∧ counter t c = min (counter s c + 1) 0xFFFF := by
  obtain ⟨l, hexec⟩ := exec_windowCloseDone h hw hst
  obtain ⟨hlow, hhigh⟩ := winFld_off w (f := WINDOW_TAB_WIN_CFG0_STATE) (by decide)
  have hcore : winGet s w WINDOW_TAB_WIN_CFG2_CORE < 8 := State.get_lt s (winBase w) (WINDOW_TAB_WIN_CFG2_CORE.at 16 (w % 128))
  have hcount : winCounted (winClosed (s.heldFor l) w) w = (winClosed (s.heldFor l) w).ctrOp c 0 1 := by
    have hdcnt' : winGet (winClosed (s.heldFor l) w) w WINDOW_TAB_WIN_CFG0_DCNT = 1 := (winClosed_get (by decide) (by decide)).trans hdcnt
    have hk' : winGet (winClosed (s.heldFor l) w) w WINDOW_TAB_WIN_CFG2_COUNTER = winGet s w WINDOW_TAB_WIN_CFG2_COUNTER :=
      winClosed_get (by decide) (by decide)
    have hcore' : winGet (winClosed (s.heldFor l) w) w WINDOW_TAB_WIN_CFG2_CORE = winGet s w WINDOW_TAB_WIN_CFG2_CORE :=
      winClosed_get (by decide) (by decide)
    rw [winCounted, hdcnt', hk', State.cond, if_pos (by simpa using hk), hcore', hc]
  have hrd : ∀ o, o < 0x0A0000 ∨ 0x0F0000 ≤ o → (winClosed (s.heldFor l) w).rd o = s.rd o := fun o ho =>
    winClosed_rd (by simp only [pgWINCTL, HDR_IRQ_STAT]; omega) (by simp only [pgREC]; omega) (winState_ne (by omega))
  have hsync : (winClosed (s.heldFor l) w).sync = s.sync := by
    rw [winClosed, State.cond_sync, State.irq_sync, ite_self]
    rfl
  have hwatch' : noWatch (winClosed (s.heldFor l) w) c := fun k hmem => by
    rw [hsync] at hmem
    obtain ⟨hk, hne⟩ := hwatch k hmem
    refine ⟨hk, fun he => hne ?_⟩
    rw [← he]
    refine congrArg (fun v => 48 * (k / 16) + v) (congrArg (SYNC_CTR_WATCH_CTR.at 4 k).of (hrd _ (.inl ?_))).symm
    simp only [pgSYNCCTR, SYNC_CTR_WATCH_CTR]
    omega
  have hpark' : parked (winClosed (s.heldFor l) w) = false :=
    (parked_of_rd (hrd _ (.inl (by decide))) (hrd _ (.inr (by decide)))).trans hpark
  obtain ⟨hframe, hvalue, -⟩ := ctrOp_frame (winClosed (s.heldFor l) w) c 0 1 hwatch' (by omega) hpark'
  refine ⟨(winClosed (s.heldFor l) w).ctrOp c 0 1, ?_, ?_, ?_⟩
  · rw [hexec, hcount, registry_off]
    refine (State.flag_congr (congrArg WINDOW_CTL_WCTL_REG.of (hframe _ (.inr (by decide)) (.inl (by decide)) ?_))).trans
      (winClosed_reg.trans hreg)
    simp only [pgWINCTL, WINDOW_CTL_WCTL_REG, pgSYNCCTR, SYNC_CTR_CTR]
    omega
  · refine (winGet_congr (s := winClosed (s.heldFor l) w) w _ (hframe _ (.inr ?_) (.inl ?_) ?_)).trans winClosed_state
    · exact Nat.le_trans (show pgSYNCCTR + SYNC_CTR_CTR ≤ 0x0A1100 by decide) hlow
    · exact Nat.lt_trans hhigh (show 0x0A3000 < pgREC by decide)
    · exact Nat.ne_of_gt (Nat.lt_of_lt_of_le (by simp only [pgSYNCCTR, SYNC_CTR_CTR]; omega) hlow)
  · have hctr : counter (winClosed (s.heldFor l) w) c = counter s c :=
      ctr_eq c (hrd _ (.inl (by simp only [pgSYNCCTR, SYNC_CTR_CTR]; omega)))
    rw [hvalue, hctr, if_pos rfl]
    exact Nat.mod_eq_of_lt (Nat.lt_succ_of_le (Nat.min_le_right _ _))
end

/-- Settles O34: a run of the window unit at rest (`winRun_idle`), and OPEN and CLOSE by the fields of the window and of WERR. -/
theorem windowCommands : Obligations.WindowCommands := by
  refine ⟨fun s m w => windowUnitEnable_takes, fun s m w => windowOpen_opens, fun s m w => windowOpen_records, fun s m w => windowOpen_fails,
    fun s m w => windowOpen_busy, fun s m w => windowClose_closing, fun s w h _ => windowCloseDone_closes h,
    fun s w c h _ => windowCloseDone_counts h⟩

end Sys2Proof.Machine

/-! PROOFS. What goes out on a link port, and what it leaves of the link block (spec/13_amiys_link.md R385 to R402, R408, R412). -/
namespace Sys2Proof.Machine

/-! ### Control blocks and flits leave a port's queues as they are -/

/-- A port without its coder, the blocks that it hands over and the flits that it frees. -/
def LinkPort.core (l : LinkPort) : LinkPort := { l.sansOut with freed := [], held := [], stale := [], linkAt := 0, linkDue := false }
/-- The link block but its ports. -/
def LinkSt.sansPorts (l : LinkSt) : LinkSt := { l with ports := [] }
/-- Blocks have gone out: the queues of every port, the link block but its ports, and every register below the ports' blocks are kept. -/
structure Talks (s t : State) : Prop where
  sends : Sends s t
  low : ∀ o < pgLINK + LINK_P_CTL, t.rd o = s.rd o
  rest : t.link.sansPorts = s.link.sansPorts
  core : ∀ q, (lkPort t q).core = (lkPort s q).core

theorem Talks.refl (s : State) : Talks s s := ⟨.refl s, fun _ _ => rfl, rfl, fun _ => rfl⟩
theorem Talks.trans {s t u : State} (h : Talks s t) (k : Talks t u) : Talks s u :=
  ⟨h.sends.trans k.sends, fun o ho => (k.low o ho).trans (h.low o ho), k.rest.trans h.rest, fun q => (k.core q).trans (h.core q)⟩

section
variable {s t : State} (h : Talks s t)
include h
theorem Talks.cfg : t.cfg = s.cfg := h.sends.cfg
theorem Talks.now : t.now = s.now := h.sends.now
theorem Talks.get (a : Nat) (f : Fld) (ho : OffSend (a + f.off)) : t.get a f = s.get a f := h.sends.get a f ho
theorem Talks.replay (q : Nat) : (lkPort t q).replay = (lkPort s q).replay := (congrArg LinkPort.replay (h.core q) :)
theorem Talks.txq (q : Nat) : (lkPort t q).txq = (lkPort s q).txq := (congrArg LinkPort.txq (h.core q) :)
theorem Talks.rxq (q : Nat) : (lkPort t q).rxq = (lkPort s q).rxq := (congrArg LinkPort.rxq (h.core q) :)
theorem Talks.expL (q : Nat) : (lkPort t q).expL = (lkPort s q).expL := (congrArg LinkPort.expL (h.core q) :)
theorem Talks.rxFlits (q : Nat) : (lkPort t q).rxFlits = (lkPort s q).rxFlits := (congrArg LinkPort.rxFlits (h.core q) :)
theorem Talks.rxCtl (q : Nat) : (lkPort t q).rxCtl = (lkPort s q).rxCtl := (congrArg LinkPort.rxCtl (h.core q) :)
theorem Talks.sentC (q : Nat) : (lkPort t q).sentC = (lkPort s q).sentC := (congrArg LinkPort.sentC (h.core q) :)
theorem Talks.farC (q : Nat) : (lkPort t q).farC = (lkPort s q).farC := (congrArg LinkPort.farC (h.core q) :)
theorem Talks.marksTo (q : Nat) : (lkPort t q).marksTo = (lkPort s q).marksTo := (congrArg LinkPort.marksTo (h.core q) :)
theorem Talks.heard (q : Nat) : (lkPort t q).heard = (lkPort s q).heard := (congrArg LinkPort.heard (h.core q) :)
theorem Talks.sent : t.link.sent = s.link.sent := (congrArg LinkSt.sent h.rest :)
theorem Talks.results : t.link.results = s.link.results := (congrArg LinkSt.results h.rest :)
theorem Talks.here : t.link.here = s.link.here := (congrArg LinkSt.here h.rest :)
theorem Talks.lacks : t.link.lacks = s.link.lacks := (congrArg LinkSt.lacks h.rest :)
theorem Talks.ts : t.link.ts = s.link.ts := (congrArg LinkSt.ts h.rest :)
theorem Talks.tsAt : t.link.tsAt = s.link.tsAt := (congrArg LinkSt.tsAt h.rest :)
theorem Talks.chainAt : t.link.chainAt = s.link.chainAt := (congrArg LinkSt.chainAt h.rest :)
theorem Talks.chainOut : t.link.chainOut = s.link.chainOut := (congrArg LinkSt.chainOut h.rest :)
end

theorem cond_talks {s : State} (c : Bool) {f : State → State} (h : Talks s (f s)) : Talks s (s.cond c f) := by
  unfold State.cond
  split
  · exact h
  · exact .refl s
theorem Talks.each {α : Type} {f : State → α → State} (h : ∀ s a, Talks s (f s a)) : ∀ (l : List α) (s : State), Talks s (s.each l f)
  | [], s => .refl s
  | a :: l, s => (h s a).trans (Talks.each h l (f s a))
/-- A change of a port outside its queues. -/
theorem lport_talks (s : State) (p : Nat) (f : LinkPort → LinkPort) (h : ∀ l, (f l).core = l.core) : Talks s (s.lport p f) := by
  refine ⟨lport_sends s p f, fun _ _ => rfl, rfl, fun q => ?_⟩
  by_cases hq : q = p
  · rw [hq, lkPort_lport_self]
    exact h _
  · rw [lkPort_lport_of_ne s f hq]
/-- A state whose link block is the same. -/
theorem Talks.of_link {s t : State} (h : Sends s t) (hlow : ∀ o < pgLINK + LINK_P_CTL, t.rd o = s.rd o) (hl : t.link = s.link) : Talks s t :=
  ⟨h, hlow, congrArg _ hl, fun q => congrArg _ (lkPort_congr hl q)⟩

section
variable (s : State)
theorem sendMarks_talks (p : Nat) : Talks s (s.sendMarks p) := by
  unfold State.sendMarks
  dsimp only
  have hfree : ∀ n, Talks s { s with freeCtr := n } := fun n => .of_link ⟨fun _ _ => rfl, rfl⟩ (fun _ _ => rfl) rfl
  exact (hfree _).trans (lport_talks _ p _ fun _ => rfl)
theorem sendWord_talks (p : Nat) (bs : List Nat) : Talks s (s.sendWord p bs) := by
  unfold State.sendWord
  dsimp only
  exact (cond_talks _ (sendMarks_talks ..)).trans (lport_talks _ p _ fun _ => rfl)
theorem sendBlocks_talks (p : Nat) : ∀ (fuel : Nat) (l : List Nat) (s : State), Talks s (s.sendBlocks p fuel l)
  | 0, _, s => .refl s
  | _ + 1, [], s => .refl s
  | fuel + 1, _ :: _, _ => (sendWord_talks ..).trans (sendBlocks_talks p fuel _ _)
theorem sendCb_talks (p k v : Nat) : Talks s (s.sendCb p k v) := by
  unfold State.sendCb
  refine cond_talks _ ?_
  have hout := lport_talks s p (fun l => { l with cbOut := Sp.set l.cbOut k (controlBlock k v) }) fun _ => rfl
  dsimp only
  split
  · exact hout.trans (sendBlocks_talks ..)
  · exact hout.trans (lport_talks _ p _ fun _ => rfl)
theorem sendLink_talks (p : Nat) : Talks s (s.sendLink p) := by
  unfold State.sendLink
  dsimp only
  split
  · exact lport_talks _ p _ fun _ => rfl
  · exact (lport_talks s p (fun l => { l with linkDue := false, linkAt := s.now, linkCw := 0 }) fun _ => rfl).trans (sendCb_talks ..)
theorem freeLane_talks (p lane n : Nat) : Talks s (s.freeLane p lane n) := by
  unfold State.freeLane
  refine cond_talks _ ?_
  dsimp only
  exact (lport_talks s p (fun l => { l with
    freed := totalUp l.freed lane (n - min n ((lkPort s p).stale.getD lane 0)), held := totalDown l.held lane n,
    stale := totalDown l.stale lane (min n ((lkPort s p).stale.getD lane 0)) }) fun _ => rfl).trans (sendLink_talks ..)
theorem freeRx_talks (p : Nat) (pk : Packet) : Talks s (s.freeRx p pk) := freeLane_talks ..
theorem sendInit_talks (p : Nat) : Talks s (s.sendInit p) := sendCb_talks ..
theorem sendInits_talks : Talks s s.sendInits := by
  unfold State.sendInits
  refine Talks.each (fun u p => ?_) _ s
  refine cond_talks _ ?_
  exact sendInit_talks u p
/-- A register of a port's block lies above those that are not a port's. -/
theorem rd_portPut (p : Nat) {f : Fld} (v : Nat) (hf : LINK_P_CTL ≤ f.off) :
    ∀ o < pgLINK + LINK_P_CTL, (s.put pgLINK (f.at 256 p) v).rd o = s.rd o := fun o ho => by
  have hoff : (f.at 256 p).off = f.off + 256 * p := rfl
  exact State.rd_put_of_ne _ _ (by rw [hoff]; omega)
/-- The blocks of a packet counted and sent. -/
theorem flitsCoded_talks {p : Nat} (n : Nat) (l : List Nat) (hp : p < 8) :
    Talks s (((s.bump pgLINK (LINK_P_TXFL_COUNT.at 256 p) n).sendBlocks p n l).cond
      (lkPort ((s.bump pgLINK (LINK_P_TXFL_COUNT.at 256 p) n).sendBlocks p n l) p).linkDue fun s => s.sendLink p) := by
  have hcount : Talks s (s.bump pgLINK (LINK_P_TXFL_COUNT.at 256 p) n) :=
    .of_link (portCount_sends s _ hp (.inl rfl)) (rd_portPut s p _ (by decide)) rfl
  generalize s.bump pgLINK (LINK_P_TXFL_COUNT.at 256 p) n = u at *
  exact (hcount.trans (sendBlocks_talks ..)).trans (cond_talks _ (sendLink_talks ..))
theorem energy_talks (k n t : Nat) (w : Option Nat) : Talks s (s.energy k n t w) := .of_link ⟨fun _ _ => rfl, rfl⟩ (fun _ _ => rfl) rfl
theorem energyNone_talks (k n : Nat) : Talks s (s.energyNone k n) := .of_link ⟨fun _ _ => rfl, rfl⟩ (fun _ _ => rfl) rfl
theorem flitsSent_talks {p : Nat} (t : LinkTx) (hp : p < 8) : Talks s (s.flitsSent p t) := by
  have hcoded := flitsCoded_talks s t.pk.flits (packetBlocks t.pk) hp
  unfold State.flitsSent
  dsimp only
  generalize (State.cond _ _ _ : State) = u at *
  split
  · exact hcoded
  · split
    · exact hcoded.trans (energy_talks ..)
    · exact hcoded.trans (energyNone_talks ..)
theorem discard_talks (dst : Nat) : Talks s (s.discard dst) := by
  refine .of_link (discard_sends s dst) ?_ ?_
  · unfold State.discard State.cond
    dsimp only
    split
    · exact rd_portPut s _ _ (by decide)
    · exact fun _ _ => rfl
  · unfold State.discard
    dsimp only
    rw [State.cond_link]
    exact ite_self _
end

/-! ### A packet that finds its way goes out at once (R395, R397, R399) -/

/-- A packet but what each hop gives it. -/
def packetBody (pk : Packet) : Packet := { pk with vl := 0, hops := 0, lseq := 0, pcrc := 0 }
/-- A port with one packet out, kept for replay, and none queued. -/
def outWith (l : LinkPort) (x : LinkTx) : LinkPort :=
  { l with txq := [], replay := [x], nextL := (l.nextL + 1) % 4096, sentC := totalUp l.sentC x.pk.lane x.pk.flits }
/-- A running time exchange takes its t1 as its TSREQ goes out. -/
def State.stampTs (s : State) (ptype : Nat) : State := s.cond (ptype == 12) fun s => s.lnk fun l => { l with ts := l.ts.map fun e => (s.now, e.2) }
theorem lkPort_stampTs (s : State) (ty q : Nat) : lkPort (s.stampTs ty) q = lkPort s q := by
  unfold State.stampTs State.cond
  split <;> rfl
/-- The state with one packet out on port p. -/
def State.outAt (s : State) (p : Nat) (x : LinkTx) : State := (s.stampTs x.pk.ptype).lport p fun l => outWith l x
theorem outAt_port (s : State) (p : Nat) (x : LinkTx) : lkPort (s.outAt p x) p = outWith (lkPort s p) x := by
  rw [State.outAt, lkPort_lport_self, lkPort_stampTs]
theorem outAt_other (s : State) {p q : Nat} (x : LinkTx) (h : q ≠ p) : lkPort (s.outAt p x) q = lkPort s q := by
  rw [State.outAt, lkPort_lport_of_ne _ _ h, lkPort_stampTs]
theorem outAt_replay (s : State) (p : Nat) (x : LinkTx) : (lkPort (s.outAt p x) p).replay = [x] := by
  rw [outAt_port]
  rfl
theorem headOf_single (x : LinkTx) : headOf [x] x = true := by
  unfold headOf
  rw [List.find?_cons_of_pos (by simp)]
  exact beq_self_eq_true _
theorem lpState_of_route {s : State} {dst p : Nat} (h : routeOf s dst = .inr p) (hp : p < 4) : lpState s p = 4 := by
  unfold routeOf at h
  dsimp only at h
  split at h
  · cases h
    exact absurd hp (by decide)
  · split at h
    · cases h
    · split at h
      · cases h
      · rename_i hst
        cases h
        exact not_not.mp hst
theorem laneRoom_pos {k : Nat} (h : k < 8) : 1 ≤ laneRoom k := by
  interval_cases k <;> decide
/-- A port with a way, and nothing queued but one packet of one flit, can send it. -/
theorem canSend_wayTo {s : State} {dst p : Nat} {x : LinkTx} (h : wayTo s dst p) (hf : x.pk.flits = 1) (hl : x.pk.lane < 8) :
    canSend (s.lport p fun l => { l with txq := [x] }) p x = true := by
  obtain ⟨-, -, hroute, hp, hmarks, -, hreplay, hsent, hfar⟩ := h
  have hup : lpState (s.lport p fun l => { l with txq := [x] }) p = 4 := lpState_of_route hroute hp
  have hroom := laneRoom_pos hl
  unfold canSend
  rw [lkPort_lport_self, hup, hf]
  dsimp only
  rw [hsent, hfar, hreplay]
  simp [hmarks, hroom]
theorem lport_congr {s : State} {p : Nat} {f g : LinkPort → LinkPort} (h : f (lkPort s p) = g (lkPort s p)) : s.lport p f = s.lport p g := by
  unfold State.lport
  rw [h]
/-- A packet as it is sent and kept for replay. -/
def sentAs (s : State) (p : Nat) (x : LinkTx) : LinkTx :=
  { x with pk := { sealPacket (stampPacket s.now x.pk) with lseq := (lkPort s p).nextL }, freed := true }
theorem stampPacket_body (now : Nat) (pk : Packet) :
    (stampPacket now pk).ptype = pk.ptype ∧ (stampPacket now pk).cls = pk.cls ∧ (stampPacket now pk).vl = pk.vl ∧
      (stampPacket now pk).dst = pk.dst ∧ (stampPacket now pk).ndata = pk.ndata := by
  unfold stampPacket
  dsimp only
  split
  · exact ⟨rfl, rfl, rfl, rfl, rfl⟩
  · split <;> exact ⟨rfl, rfl, rfl, rfl, rfl⟩
theorem sentAs_shape (s : State) (p : Nat) (x : LinkTx) :
    (sentAs s p x).pk.ptype = x.pk.ptype ∧ (sentAs s p x).pk.lane = x.pk.lane ∧ (sentAs s p x).pk.flits = x.pk.flits := by
  obtain ⟨hty, hcls, hvl, -, hn⟩ := stampPacket_body s.now x.pk
  refine ⟨hty, ?_, congrArg (1 + ·) hn⟩
  show 2 * (stampPacket s.now x.pk).cls + (stampPacket s.now x.pk).vl = _
  rw [hcls, hvl]
  rfl
/-- The packet that waits alone at a port that can send it goes out. -/
theorem pumpAll_single {s : State} {p : Nat} {x : LinkTx} (hq : (lkPort s p).txq = [x]) (hr : (lkPort s p).replay = [])
    (hc : canSend s p x = true) (hp : p < 8) (hin : x.inp = 4) (hfree : x.freed = false) :
    Talks (s.outAt p (sentAs s p x)) (s.pumpAll p) := by
  obtain ⟨hty, hlane, hflits⟩ := sentAs_shape s p x
  have hout : s.outAt p (sentAs s p x) = (s.stampTs x.pk.ptype).lport p
      fun l => { l with txq := l.txq.erase x, replay := l.replay ++ [sentAs s p x], nextL := (l.nextL + 1) % 4096,
                        sentC := totalUp l.sentC x.pk.lane x.pk.flits } := by
    rw [State.outAt, hty]
    refine lport_congr ?_
    rw [lkPort_stampTs, hq, hr, List.erase_cons_head, outWith, hlane, hflits]
    rfl
  unfold State.pumpAll
  rw [hq, hout]
  show Talks _ (s.pump p 1)
  unfold State.pump
  dsimp only
  rw [hq, List.find?_cons_of_pos (by rw [headOf_single, hc]; rfl)]
  dsimp only
  rw [if_pos ⟨hin, by rw [hfree]; rfl⟩]
  have hfirst : (x.inp == 4 && !x.freed && (sealPacket (stampPacket s.now x.pk)).ptype == 12) = (x.pk.ptype == 12) := by
    rw [hin, hfree]
    exact congrArg (· == 12) hty
  rw [hfirst]
  exact (flitsSent_talks _ _ hp).trans (cond_talks _ (freeLane_talks ..))
/-- What was queued at the port before does not matter for what is left of it. -/
theorem outAt_talks (s : State) (p : Nat) (l : List LinkTx) (x : LinkTx) :
    Talks (s.outAt p x) ((s.lport p fun k => { k with txq := l }).outAt p x) := by
  refine ⟨?_, ?_, ?_, fun q => congrArg LinkPort.core ?_⟩
  · unfold State.outAt State.stampTs State.cond
    split <;> exact ⟨fun _ _ => rfl, rfl⟩
  · unfold State.outAt State.stampTs State.cond
    split <;> exact fun _ _ => rfl
  · unfold State.outAt State.stampTs State.cond
    split <;> rfl
  · by_cases hq : q = p
    · rw [hq, outAt_port, outAt_port, lkPort_lport_self]
      rfl
    · rw [outAt_other _ _ hq, outAt_other _ _ hq, lkPort_lport_of_ne _ _ hq]
theorem stampPacket_routed (now vl hops : Nat) (pk : Packet) :
    packetBody (stampPacket now { pk with vl := vl, hops := hops }) = packetBody (stampPacket now pk) := by
  unfold stampPacket
  dsimp only
  split
  · rfl
  · split <;> rfl
/-- A RESP or CTRL packet of this device, of one flit, goes out on the port that its route names. -/
theorem sendResp_wayTo {s : State} {p : Nat} {pk : Packet} (tid : Option Nat) (h : wayTo s pk.dst p) (hn : pk.ndata = 0) (hc : pk.cls < 4) :
    ∃ x, packetBody x.pk = packetBody (stampPacket s.now pk) ∧ Talks (s.outAt p x) (s.sendResp pk tid) := by
  obtain ⟨henum, hdst, hroute, hp, -, hq, hr, -⟩ := id h
  unfold State.sendResp
  rw [if_neg (by rw [henum]; simpa using hdst), hroute]
  dsimp only
  unfold State.enqueue
  rw [if_neg (by omega)]
  dsimp only
  generalize hvl : (if s.flag pgLINK (LINK_FWD_WRAP.at 4 pk.dst) then 1
    else if 4 < 4 ∧ s.get pgLINK (LINK_P_CTL_DIM.at 256 p) = s.get pgLINK (LINK_P_CTL_DIM.at 256 4) then pk.vl else 0 : Nat) = vl
  have hvl1 : vl ≤ 1 := by
    rw [← hvl]
    split
    · decide
    · split
      · rename_i hin
        exact absurd hin.1 (by decide)
      · decide
  generalize hx : ({ pk := { pk with vl := vl, hops := pk.hops + 1 }, inp := 4, laneIn := pk.lane, tid := tid, own := none } : LinkTx) = x
  have hqueue : (s.lport p fun l => { l with txq := l.txq ++ [x] }) = s.lport p fun l => { l with txq := [x] } :=
    lport_congr (by rw [hq, List.nil_append])
  rw [hqueue]
  have hflits : x.pk.flits = 1 := by rw [← hx]; exact congrArg (1 + ·) hn
  have hlane : x.pk.lane < 8 := by rw [← hx]; show 2 * pk.cls + vl < 8; omega
  have hport : (lkPort (s.lport p fun l => { l with txq := [x] }) p).txq = [x] ∧
      (lkPort (s.lport p fun l => { l with txq := [x] }) p).replay = [] := by
    rw [lkPort_lport_self]
    exact ⟨rfl, hr⟩
  refine ⟨sentAs (s.lport p fun l => { l with txq := [x] }) p x, ?_, (outAt_talks ..).trans
    (pumpAll_single hport.1 hport.2 (canSend_wayTo h hflits hlane) (by omega) (by rw [← hx]) (by rw [← hx]))⟩
  rw [← stampPacket_routed s.now vl (pk.hops + 1) pk, ← hx]
  rfl

/-! ### Packets that go out, whatever waits (R394 to R402) -/

/-- A port without what goes out on it. -/
def LinkPort.rxSide (l : LinkPort) : LinkPort := { l.core with txq := [], replay := [], nextL := 0, sentC := [] }
/-- The link block without its ports, the packets to this device itself, the running time exchange and the gathered acknowledgements. -/
def LinkSt.sansOut (l : LinkSt) : LinkSt := { l with ports := [], here := [], ts := none, lacks := [], lackTid := [] }
/-- Packets have gone out: what every port receives, the packets that await an answer, and every register below the ports' blocks are kept;
the running time exchange is, but that its t1 may have become the present time. -/
structure Emits (s t : State) : Prop where
  sends : Sends s t
  low : ∀ o < pgLINK + LINK_P_CTL, t.rd o = s.rd o
  rest : t.link.sansOut = s.link.sansOut
  rx : ∀ q, (lkPort t q).rxSide = (lkPort s q).rxSide
  ts : t.link.ts = s.link.ts ∨ t.link.ts = s.link.ts.map fun e => (s.now, e.2)
theorem Emits.trans {s t u : State} (h : Emits s t) (k : Emits t u) : Emits s u := by
  refine ⟨h.sends.trans k.sends, fun o ho => (k.low o ho).trans (h.low o ho), k.rest.trans h.rest, fun q => (k.rx q).trans (h.rx q), ?_⟩
  have hnow := h.sends.now
  rcases k.ts with hk | hk <;> rcases h.ts with hh | hh <;> rw [hk, hh]
  · exact .inl rfl
  · exact .inr rfl
  · rw [hnow]
    exact .inr rfl
  · rw [hnow, Option.map_map]
    exact .inr rfl
theorem Talks.emits {s t : State} (h : Talks s t) : Emits s t :=
  ⟨h.sends, h.low, (congrArg (fun l : LinkSt => { l with here := [], ts := none, lacks := [], lackTid := [] }) h.rest :), fun q =>
    (congrArg (fun l : LinkPort => { l with txq := [], replay := [], nextL := 0, sentC := [] }) (h.core q) :), .inl h.ts⟩
section
variable {s t : State} (h : Emits s t)
include h
theorem Emits.tsAt : t.link.tsAt = s.link.tsAt := (congrArg LinkSt.tsAt h.rest :)
theorem Emits.sent : t.link.sent = s.link.sent := (congrArg LinkSt.sent h.rest :)
theorem Emits.results : t.link.results = s.link.results := (congrArg LinkSt.results h.rest :)
theorem Emits.rxq (q : Nat) : (lkPort t q).rxq = (lkPort s q).rxq := (congrArg LinkPort.rxq (h.rx q) :)
theorem Emits.rxFlits (q : Nat) : (lkPort t q).rxFlits = (lkPort s q).rxFlits := (congrArg LinkPort.rxFlits (h.rx q) :)
theorem Emits.expL (q : Nat) : (lkPort t q).expL = (lkPort s q).expL := (congrArg LinkPort.expL (h.rx q) :)
theorem Emits.get (a : Nat) (f : Fld) (ho : OffSend (a + f.off)) : t.get a f = s.get a f := h.sends.get a f ho
/-- An exchange that began at the present time stays so. -/
theorem Emits.started {tm : Nat} (hts : s.link.ts = some (s.now, tm)) : t.link.ts = some (s.now, tm) := by
  rcases h.ts with hh | hh <;> rw [hh, hts]
  rfl
theorem Emits.idleWin (hidle : idleWin s) : idleWin t := by
  obtain ⟨ha, hw, hr, hrx⟩ := hidle
  refine ⟨by rw [h.sends.hub, ha], by rw [h.sends.win, hw], by rw [h.sends.win, hr], fun q hq => ?_⟩
  rw [h.rxq]
  exact hrx q hq
end

section
variable (s : State)
/-- A change of what a port sends. -/
theorem lport_emits (p : Nat) (f : LinkPort → LinkPort) (h : ∀ l, (f l).rxSide = l.rxSide) : Emits s (s.lport p f) := by
  refine ⟨lport_sends s p f, fun _ _ => rfl, rfl, fun q => ?_, .inl rfl⟩
  by_cases hq : q = p
  · rw [hq, lkPort_lport_self]
    exact h _
  · rw [lkPort_lport_of_ne s f hq]
theorem outPort_emits (p : Nat) (q r : LinkPort → List LinkTx) (n : LinkPort → Nat) (c : LinkPort → List Nat) :
    Emits s (s.lport p fun l => { l with txq := q l, replay := r l, nextL := n l, sentC := c l }) := lport_emits s p _ fun _ => rfl
theorem txq_emits (p : Nat) (q : LinkPort → List LinkTx) : Emits s (s.lport p fun l => { l with txq := q l }) := lport_emits s p _ fun _ => rfl
/-- A change of the link block outside its ports, the packets that await an answer and the Chain. -/
theorem lnk_emits (f : LinkSt → LinkSt) (h : (f s.link).sansOut = s.link.sansOut) (hp : (f s.link).ports = s.link.ports)
    (hts : (f s.link).ts = s.link.ts ∨ (f s.link).ts = s.link.ts.map fun e => (s.now, e.2)) : Emits s (s.lnk f) := by
  refine ⟨lnk_sends s f, fun _ _ => rfl, h, fun q => congrArg LinkPort.rxSide ?_, hts⟩
  show Sp.get {} (f s.link).ports q = _
  rw [hp]
  rfl
theorem cond_emits {s : State} (c : Bool) {f : State → State} (h : Emits s (f s)) : Emits s (s.cond c f) := by
  unfold State.cond
  split
  · exact h
  · exact (Talks.refl s).emits
/-- A packet that goes out, first or not, with its blocks and the room that it frees. -/
theorem flitsOut_emits {s : State} (t : State) {p : Nat} (x : LinkTx) (c : Bool) (inp lane n : Nat) (hp : p < 8) (h : Emits s t) :
    Emits s ((t.flitsSent p x).cond c fun s => s.freeLane inp lane n) := by
  have hfree : ∀ u : State, Talks u (u.cond c fun s => s.freeLane inp lane n) := fun u => by
    refine cond_talks c ?_
    exact freeLane_talks u inp lane n
  exact (h.trans (flitsSent_talks t x hp).emits).trans (hfree _).emits
theorem stampTs_emits (c : Bool) : Emits s (s.cond c fun s => s.lnk fun l => { l with ts := l.ts.map fun e => (s.now, e.2) }) := by
  refine cond_emits c ?_
  exact lnk_emits s _ rfl rfl (.inr rfl)
theorem pump_emits {p : Nat} (hp : p < 8) (fuel : Nat) (s : State) : Emits s (s.pump p fuel) := by
  induction fuel generalizing s with
  | zero => exact (Talks.refl s).emits
  | succ fuel ih =>
    unfold State.pump
    dsimp only
    split
    · exact (Talks.refl s).emits
    · exact (flitsOut_emits _ _ _ _ _ _ hp ((stampTs_emits ..).trans (outPort_emits ..))).trans (ih _)
theorem enqueue_emits {p : Nat} (inp : Nat) (pk : Packet) (tid own : Option Nat) (hp : p < 8) : Emits s (s.enqueue p inp pk tid own) := by
  unfold State.enqueue
  split
  · exact (lnk_emits s (fun l => { l with here := l.here ++ [pk] }) rfl rfl (.inl rfl)).trans (freeRx_talks ..).emits
  · exact (txq_emits ..).trans (pump_emits hp _ _)
theorem sendResp_emits (pk : Packet) (tid : Option Nat) : Emits s (s.sendResp pk tid) := by
  unfold State.sendResp
  split
  · exact (discard_talks ..).emits
  · split
    · exact (discard_talks ..).emits
    · rename_i hroute
      exact enqueue_emits _ _ _ _ _ (routeOf_lt s hroute)
/-- An acknowledgement gathered, or sent. -/
theorem sendLack_emits (src : Nat) : Emits s (s.sendLack src) := by
  unfold State.sendLack
  dsimp only
  refine Emits.trans (lnk_emits s _ rfl rfl (.inl rfl)) (cond_emits _ ?_)
  exact sendResp_emits ..
theorem lack_emits (src etag : Nat) (tid : Option Nat) : Emits s (s.lack src etag tid) := by
  unfold State.lack
  split
  · exact (Talks.refl s).emits
  · dsimp only
    refine Emits.trans (Emits.trans (cond_emits _ ?_) (lnk_emits _ _ rfl rfl (.inl rfl))) (cond_emits _ ?_)
    · split
      · exact lnk_emits s _ rfl rfl (.inl rfl)
      · exact (Talks.refl s).emits
    · exact sendLack_emits ..
end

/-! ### NAKs (R412, R435) -/

theorem countNak_frame (u : State) (cause to_ dst ty : Nat) : (u.countNak cause to_ dst ty).link = u.link ∧
    (u.countNak cause to_ dst ty).win = u.win ∧ (u.countNak cause to_ dst ty).hub = u.hub ∧ (u.countNak cause to_ dst ty).cfg = u.cfg := by
  have hsans : (u.countNak cause to_ dst ty).sansRec = u.sansRec := by
    unfold State.countNak
    dsimp only
    rw [State.irq_sansRec]
    rfl
  exact ⟨(congrArg State.link hsans :), (congrArg State.win hsans :), (congrArg State.hub hsans :), (congrArg State.cfg hsans :)⟩
/-- The last NAK made is recorded. -/
theorem countNak_last (u : State) (cause to_ dst ty : Nat) : (u.countNak cause to_ dst ty).rd (pgLINK + LINK_NAK_LAST) =
    BitVec.ofNat 32 (cause * 2 ^ 24 + to_ * 2 ^ 16 + dst * 2 ^ 8 + ty) := by
  unfold State.countNak
  dsimp only
  rw [State.irq_rd _ _ _ _ (by decide) (by decide), State.bumpSat_rd _ _ (by decide), State.rd_wr_self]
/-- A NAK goes out after it has been recorded. -/
theorem nakTo_emits (u : State) (cause : Nat) (pk : Packet) (tid : Option Nat) :
    Emits (u.countNak cause pk.src pk.dst pk.ptype) (u.nakTo cause pk tid) := sendResp_emits ..


end Sys2Proof.Machine

/-! PROOFS. The forwarding table, enumeration and domain time (spec/13_amiys_link.md R400, R406, R407, R410, R412). -/
namespace Sys2Proof.Machine

/-! ### The forwarding table (R400) -/

section
variable {s : State} {m : Master}

theorem fwdWrite_whole {a : Nat} {w : Word32} (ha : a < 64) (hmay : mayWrite s m pgLINK (LINK_FWD + 4 * a) true = true) :
    ∃ t, exec (.fwdWrite m a w) s = .next t ∧ t.get pgLINK (LINK_FWD_VALID.at 4 a) = LINK_FWD_VALID.of w ∧
      t.get pgLINK (LINK_FWD_WRAP.at 4 a) = LINK_FWD_WRAP.of w ∧ t.get pgLINK (LINK_FWD_PORT.at 4 a) = LINK_FWD_PORT.of w ∧ t.link = s.link := by
  refine ⟨((s.put pgLINK (LINK_FWD_VALID.at 4 a) (LINK_FWD_VALID.of w)).put pgLINK (LINK_FWD_WRAP.at 4 a) (LINK_FWD_WRAP.of w)).put pgLINK
    (LINK_FWD_PORT.at 4 a) (LINK_FWD_PORT.of w), ?_, ?_, ?_, ?_, rfl⟩
  · show execFwdWrite m a w s = _
    unfold execFwdWrite
    dsimp only
    rw [Nat.mod_eq_of_lt ha]
    exact congrArg Host.Outcome.next (State.gate_open _ _ _ _ _ _ hmay)
  · rw [State.get_put_bits _ _ _ _ _ (by decide) (by decide), State.get_put_bits _ _ _ _ _ (by decide) (by decide)]
    exact State.get_put_of_lt _ _ (Fld.at_fits _ _ (by decide)) (Fld.of_lt _ w)
  · rw [State.get_put_bits _ _ _ _ _ (by decide) (by decide)]
    exact State.get_put_of_lt _ _ (Fld.at_fits _ _ (by decide)) (Fld.of_lt _ w)
  · exact State.get_put_of_lt _ _ (Fld.at_fits _ _ (by decide)) (Fld.of_lt _ w)

/-! ### Enumeration (R406, R407) -/

/-- Nothing that goes out changes ENUM_STAT. -/
theorem enumStat_offSend : OffSend (pgLINK + LINK_ENUM_STAT) := by
  unfold OffSend
  decide
/-- A field of ENUM_STAT after blocks have gone out. -/
theorem Talks.enumStat {s t : State} (h : Talks s t) (f : Fld) (hf : f.off = LINK_ENUM_STAT) : t.get pgLINK f = s.get pgLINK f :=
  h.get _ _ (hf ▸ enumStat_offSend)
/-- A field of ENUM_STAT put, and the other ones. -/
theorem enumPut_self (s : State) {f : Fld} {v : Nat} (h : f.fits) (hv : v < 2 ^ (f.hi + 1 - f.lo)) : (s.enumPut f v).get pgLINK f = v :=
  State.get_put_of_lt _ _ h hv
theorem enumPut_apart (s : State) {f g : Fld} (v : Nat) (h : f.fits) (d : g.hi < f.lo ∨ f.hi < g.lo) :
    (s.enumPut f v).get pgLINK g = s.get pgLINK g := State.get_put_page _ _ _ _ _ h (.inr d)
theorem enumGo_clears (hmay : mayWrite s m pgLINK LINK_ENUM_CTL false = true) (hman : isManager s = true) :
    ∃ t, exec (.enumGo m) s = .next t ∧ devAddr t = 0 ∧ t.flag pgLINK LINK_ENUM_STAT_ADDR_V = true ∧ t.get pgLINK LINK_ENUM_STAT_STATE = 1 ∧
      t.link.chainOut = some (chainFrame 3 0 0) ∧ t.link.chainAt = some (3, s.now) := by
  obtain ⟨u, hu⟩ : ∃ u, u = (((s.enumPut LINK_ENUM_STAT_ADDR 0).enumPut LINK_ENUM_STAT_ADDR_V 1).enumPut LINK_ENUM_STAT_STATE 1).enumPut
    LINK_ENUM_STAT_CAUSE 0 := ⟨_, rfl⟩
  have haddr : u.get pgLINK LINK_ENUM_STAT_ADDR = 0 := by
    rw [hu, enumPut_apart _ _ (by decide) (by decide), enumPut_apart _ _ (by decide) (by decide), enumPut_apart _ _ (by decide) (by decide)]
    exact enumPut_self _ (by decide) (by decide)
  have hvalid : u.get pgLINK LINK_ENUM_STAT_ADDR_V = 1 := by
    rw [hu, enumPut_apart _ _ (by decide) (by decide), enumPut_apart _ _ (by decide) (by decide)]
    exact enumPut_self _ (by decide) (by decide)
  have hstate : u.get pgLINK LINK_ENUM_STAT_STATE = 1 := by
    rw [hu, enumPut_apart _ _ (by decide) (by decide)]
    exact enumPut_self _ (by decide) (by decide)
  have htalks := sendInits_talks u
  refine ⟨u.sendInits.chainSend 3 0 0 true, ?_, (htalks.enumStat _ rfl).trans haddr, ?_, (htalks.enumStat _ rfl).trans hstate, rfl, ?_⟩
  · show execEnumGo m s = _
    unfold execEnumGo
    rw [State.gate_open _ _ _ _ _ _ hmay, hman, State.cond_true, hu]
  · exact (congrArg (· == 1) ((htalks.enumStat LINK_ENUM_STAT_ADDR_V rfl).trans hvalid) :)
  · show some (3, u.sendInits.now) = _
    rw [htalks.now, hu]
    rfl
/-- A frame of its OP that passes its check is acted on. -/
theorem onFrame_acts {op w : Nat} {act : State → State} (h : frameIn s op w) : onFrame op w s act = .next (act s) := by
  obtain ⟨hlinks, hsound, hop⟩ := h
  unfold onFrame
  rw [if_neg hlinks, hsound, if_neg (by decide), if_pos hop]
theorem chainClear_manager {w : Nat} (h : frameIn s 3 w) (hman : isManager s = true) (hwait : chainWaits s 3 = true) :
    ∃ t, exec (.chainClear w) s = .next t ∧ t.link.chainOut = some (chainFrame 1 1 0) ∧ t.link.chainAt = some (1, s.now) := by
  refine ⟨s.chainSend 1 1 0 true, ?_, rfl, rfl⟩
  show execChainClear w s = _
  unfold execChainClear
  rw [onFrame_acts h, if_pos hman, hwait, State.cond_true]
theorem chainClear_worker {w : Nat} (h : frameIn s 3 w) (hman : isManager s = false) :
    ∃ t, exec (.chainClear w) s = .next t ∧ t.flag pgLINK LINK_ENUM_STAT_ADDR_V = false ∧ t.get pgLINK LINK_ENUM_STAT_STATE = 1 ∧
      t.link.chainOut = some (chainFrame 3 0 0) := by
  have htalks := sendInits_talks ((s.enumPut LINK_ENUM_STAT_ADDR_V 0).enumPut LINK_ENUM_STAT_STATE 1)
  refine ⟨(((s.enumPut LINK_ENUM_STAT_ADDR_V 0).enumPut LINK_ENUM_STAT_STATE 1).sendInits).chainSend 3 0 0 false, ?_, ?_, ?_, rfl⟩
  · show execChainClear w s = _
    unfold execChainClear
    rw [onFrame_acts h, if_neg (by rw [hman]; decide)]
  · refine (congrArg (· == 1) ((htalks.enumStat LINK_ENUM_STAT_ADDR_V rfl).trans ?_ : _ = 0) :)
    rw [enumPut_apart _ _ (by decide) (by decide)]
    exact enumPut_self _ (by decide) (by decide)
  · exact (htalks.enumStat LINK_ENUM_STAT_STATE rfl).trans (enumPut_self _ (by decide) (by decide))
theorem chainEnum_count {w : Nat} (h : frameIn s 1 w) (hman : isManager s = true) (hwait : chainWaits s 1 = true) (ha : frameAddr w < 65) :
    ∃ t, exec (.chainEnum w) s = .next t ∧ t.link.chainOut = some (chainFrame 2 0 (frameAddr w)) ∧ t.link.chainAt = some (2, s.now) := by
  refine ⟨s.chainSend 2 0 (frameAddr w) true, ?_, rfl, rfl⟩
  show execChainEnum w s = _
  unfold execChainEnum
  dsimp only
  rw [onFrame_acts h, if_pos hman, hwait, State.cond_true, if_neg (by omega)]
/-- Enumeration that ends: its state is shown, and no frame is waited for. -/
theorem enumEnd_state (s : State) {st : Nat} (h : st < 4) : (s.enumEnd st).get pgLINK LINK_ENUM_STAT_STATE = st := by
  unfold State.enumEnd
  rw [State.get_irq _ _ _ _ _ (by decide) (by decide)]
  exact enumPut_self s (f := LINK_ENUM_STAT_STATE) (by decide) (Nat.lt_trans h (by decide))
theorem enumEnd_apart (s : State) (st : Nat) {f : Fld} (hf : f.off = LINK_ENUM_STAT)
    (d : f.hi < LINK_ENUM_STAT_STATE.lo ∨ LINK_ENUM_STAT_STATE.hi < f.lo) :
    (s.enumEnd st).get pgLINK f = s.get pgLINK f := by
  unfold State.enumEnd
  rw [State.get_irq _ _ _ _ _ (by rw [hf]; decide) (by rw [hf]; decide)]
  exact enumPut_apart s st (f := LINK_ENUM_STAT_STATE) (by decide) d
theorem enumEnd_chainAt (s : State) (st : Nat) : (s.enumEnd st).link.chainAt = none := by
  unfold State.enumEnd
  rw [State.irq_link]
  rfl
theorem chainEnum_full {w : Nat} (h : frameIn s 1 w) (hman : isManager s = true) (hwait : chainWaits s 1 = true) (ha : 65 ≤ frameAddr w) :
    ∃ t, exec (.chainEnum w) s = .next t ∧ t.get pgLINK LINK_ENUM_STAT_STATE = 3 ∧ t.get pgLINK LINK_ENUM_STAT_CAUSE = 1 ∧
      t.link.chainAt = none := by
  refine ⟨(s.enumPut LINK_ENUM_STAT_CAUSE 1).enumEnd 3, ?_, enumEnd_state _ (by decide), ?_, enumEnd_chainAt ..⟩
  · show execChainEnum w s = _
    unfold execChainEnum
    dsimp only
    rw [onFrame_acts h, if_pos hman, hwait, State.cond_true, if_pos ha]
  · exact (enumEnd_apart _ _ rfl (by decide)).trans (enumPut_self _ (by decide) (by decide))
theorem chainEnum_takes {w : Nat} (h : frameIn s 1 w) (hman : isManager s = false) (ha : frameAddr w < 64) :
    ∃ t, exec (.chainEnum w) s = .next t ∧ devAddr t = frameAddr w ∧ t.flag pgLINK LINK_ENUM_STAT_ADDR_V = true ∧
      t.link.chainOut = some (chainFrame 1 (frameAddr w + 1) 0) := by
  have htalks := sendInits_talks ((s.enumPut LINK_ENUM_STAT_ADDR (frameAddr w)).enumPut LINK_ENUM_STAT_ADDR_V 1)
  refine ⟨(((s.enumPut LINK_ENUM_STAT_ADDR (frameAddr w)).enumPut LINK_ENUM_STAT_ADDR_V 1).sendInits).chainSend 1 (frameAddr w + 1) 0 false, ?_,
    (htalks.enumStat LINK_ENUM_STAT_ADDR rfl).trans ?_, ?_, rfl⟩
  · show execChainEnum w s = _
    unfold execChainEnum
    dsimp only
    rw [onFrame_acts h, if_neg (by rw [hman]; decide), if_pos ha]
  · rw [enumPut_apart _ _ (by decide) (by decide)]
    exact enumPut_self _ (by decide) ha
  · exact (congrArg (· == 1) ((htalks.enumStat LINK_ENUM_STAT_ADDR_V rfl).trans (enumPut_self _ (by decide) (by decide)) : _ = 1) :)
theorem chainEnum_beyond {w : Nat} (h : frameIn s 1 w) (hman : isManager s = false) (ha : 64 ≤ frameAddr w) :
    ∃ t, exec (.chainEnum w) s = .next t ∧ devAddr t = devAddr s ∧ t.get pgLINK LINK_ENUM_STAT_CAUSE = 1 ∧
      t.link.chainOut = some (chainFrame 1 (frameAddr w + 1) 0) := by
  refine ⟨(s.enumPut LINK_ENUM_STAT_CAUSE 1).chainSend 1 (frameAddr w + 1) 0 false, ?_,
    enumPut_apart s 1 (f := LINK_ENUM_STAT_CAUSE) (g := LINK_ENUM_STAT_ADDR) (by decide) (by decide), enumPut_self s (by decide) (by decide), rfl⟩
  show execChainEnum w s = _
  unfold execChainEnum
  dsimp only
  rw [onFrame_acts h, if_neg (by rw [hman]; decide), if_neg (by omega)]
theorem chainDone_manager {w : Nat} (h : frameIn s 2 w) (hman : isManager s = true) (hwait : chainWaits s 2 = true) :
    ∃ t, exec (.chainDone w) s = .next t ∧ enumerated t = true ∧ devices t = frameCount w ∧ t.link.chainAt = none := by
  have htalks := sendInits_talks ((s.enumPut LINK_ENUM_STAT_DEVICES (frameCount w)).enumEnd 2)
  refine ⟨((s.enumPut LINK_ENUM_STAT_DEVICES (frameCount w)).enumEnd 2).sendInits, ?_, ?_, (htalks.enumStat LINK_ENUM_STAT_DEVICES rfl).trans ?_,
    htalks.chainAt.trans (enumEnd_chainAt ..)⟩
  · show execChainDone w s = _
    unfold execChainDone
    dsimp only
    rw [onFrame_acts h, if_pos hman, hwait, State.cond_true]
  · exact (congrArg (· == 2) ((htalks.enumStat LINK_ENUM_STAT_STATE rfl).trans (enumEnd_state _ (by decide))) :)
  · exact (enumEnd_apart _ _ rfl (by decide)).trans (enumPut_self _ (by decide) (Nat.mod_lt _ (by decide)))
theorem chainDone_worker {w : Nat} (h : frameIn s 2 w) (hman : isManager s = false) :
    ∃ t, exec (.chainDone w) s = .next t ∧ enumerated t = true ∧ devices t = frameCount w ∧
      t.link.chainOut = some (chainFrame 2 0 (frameCount w)) := by
  have htalks := sendInits_talks ((s.enumPut LINK_ENUM_STAT_DEVICES (frameCount w)).enumPut LINK_ENUM_STAT_STATE 2)
  refine ⟨(((s.enumPut LINK_ENUM_STAT_DEVICES (frameCount w)).enumPut LINK_ENUM_STAT_STATE 2).sendInits).chainSend 2 0 (frameCount w) false, ?_, ?_,
    (htalks.enumStat LINK_ENUM_STAT_DEVICES rfl).trans ?_, rfl⟩
  · show execChainDone w s = _
    unfold execChainDone
    dsimp only
    rw [onFrame_acts h, if_neg (by rw [hman]; decide)]
  · exact (congrArg (· == 2) ((htalks.enumStat LINK_ENUM_STAT_STATE rfl).trans (enumPut_self _ (by decide) (by decide)) : _ = 2) :)
  · rw [enumPut_apart _ _ (by decide) (by decide)]
    exact enumPut_self _ (by decide) (Nat.mod_lt _ (by decide))
/-- Each of the three frame commands acts on a frame of its OP. -/
theorem chain_onFrame {w : Nat} {i : Instr} (h : i ∈ [Instr.chainClear w, .chainEnum w, .chainDone w]) :
    ∃ op ∈ [1, 2, 3], ∃ act, exec i s = onFrame op w s act := by
  simp only [List.mem_cons, List.not_mem_nil, or_false] at h
  rcases h with rfl | rfl | rfl
  · refine ⟨3, by decide, ?_⟩
    show ∃ act, execChainClear w s = _
    unfold execChainClear
    exact ⟨_, rfl⟩
  · refine ⟨1, by decide, ?_⟩
    show ∃ act, execChainEnum w s = _
    unfold execChainEnum
    exact ⟨_, rfl⟩
  · refine ⟨2, by decide, ?_⟩
    show ∃ act, execChainDone w s = _
    unfold execChainDone
    exact ⟨_, rfl⟩
/-- A frame that fails its check is stopped, whatever would be done with it. -/
theorem onFrame_stops {op w : Nat} {act : State → State} (hlinks : s.cfg.links ≠ 0) (h : frameSound w = false) :
    ∃ t, onFrame op w s act = .next t ∧ t.get pgLINK LINK_ENUM_STAT_CAUSE = 3 ∧ t.link = s.link := by
  refine ⟨s.enumPut LINK_ENUM_STAT_CAUSE 3, ?_, enumPut_self _ (by decide) (by decide), rfl⟩
  unfold onFrame
  rw [if_neg hlinks, h]
  rfl
/-- A frame of a reserved OP is passed on. -/
theorem onFrame_passes {op w : Nat} {act : State → State} (hlinks : s.cfg.links ≠ 0) (hsound : frameSound w = true) (hop : frameOp w ∉ [1, 2, 3])
    (hmem : op ∈ [1, 2, 3]) : onFrame op w s act = .next { s with link := { s.link with chainOut := some w } } := by
  unfold onFrame
  rw [if_neg hlinks, hsound, if_neg (by decide), if_neg (fun he : frameOp w = op => hop (he ▸ hmem)), if_neg (by simpa using hop)]
  rfl
theorem enumTimeout_fails {op tm : Nat} (h : s.link.chainAt = some (op, tm)) (htmo : tm + hundredUs * s.get pgLINK LINK_ENUM_CTL_TMO ≤ s.now) :
    ∃ t, exec .enumTimeout s = .next t ∧ t.get pgLINK LINK_ENUM_STAT_STATE = 3 ∧ t.get pgLINK LINK_ENUM_STAT_CAUSE = 2 ∧ t.link.chainAt = none := by
  refine ⟨(s.enumPut LINK_ENUM_STAT_CAUSE 2).enumEnd 3, ?_, enumEnd_state _ (by decide),
    (enumEnd_apart _ _ rfl (by decide)).trans (enumPut_self _ (by decide) (by decide)), enumEnd_chainAt ..⟩
  show execEnumTimeout s = _
  unfold execEnumTimeout
  rw [h]
  exact if_pos htmo

/-! ### Domain time (R410, R412) -/

theorem tsStart_ts (s : State) : s.tsStart.link.ts = some (s.now, s.now) := (sendResp_emits _ _ none).started rfl
theorem exec_tsGo (hmay : mayWrite s m pgLINK LINK_TS_CTL false = true) (hman : isManager s = false) : exec (.tsGo m) s = .next s.tsStart := by
  show execTsGo m s = _
  unfold execTsGo
  rw [State.gate_open _ _ _ _ _ _ hmay, hman]
  rfl
/-- A way does not depend on the running exchange. -/
theorem tsStart_sends {p : Nat} (h : wayTo s 0 p) : (lkPort s.tsStart p).replay.map (fun x => (x.pk.ptype, x.pk.dst, x.pk.h2, x.pk.h3)) =
    [(12, 0, s.now % 2 ^ 32, s.now / 2 ^ 32 % 2 ^ 32)] := by
  obtain ⟨x, hx, htalks⟩ := sendResp_wayTo (s := s.lnk fun l => { l with ts := some (s.now, s.now) }) (p := p)
    (pk := newPacket (s.lnk fun l => { l with ts := some (s.now, s.now) }) 12 3 0) none h rfl (show 3 < 4 by decide)
  have hreplay : (lkPort s.tsStart p).replay = [x] := (htalks.replay p).trans (outAt_replay ..)
  rw [hreplay]
  have hty : x.pk.ptype = 12 := (congrArg Packet.ptype hx :)
  have hdst : x.pk.dst = 0 := (congrArg Packet.dst hx :)
  have hlow : x.pk.h2 = s.now % 2 ^ 32 := (congrArg Packet.h2 hx :)
  have hhigh : x.pk.h3 = s.now / 2 ^ 32 % 2 ^ 32 := (congrArg Packet.h3 hx :)
  rw [List.map_cons, List.map_nil, hty, hdst, hlow, hhigh]
theorem tsPeriod_starts (hlinks : s.cfg.links ≠ 0) (hperiod : s.get pgLINK LINK_TS_CTL_PERIOD ≠ 0) (hman : isManager s = false)
    (hdue : s.link.tsAt + s.get pgLINK LINK_TS_CTL_PERIOD * msTicks ≤ s.now) :
    ∃ t, exec .tsPeriod s = .next t ∧ t.link.ts = some (s.now, s.now) ∧ t.link.tsAt = s.now := by
  refine ⟨(s.lnk fun l => { l with tsAt := s.now }).tsStart, ?_, tsStart_ts _, (sendResp_emits _ _ none).tsAt⟩
  show execTsPeriod s = _
  unfold execTsPeriod
  exact if_pos ⟨hlinks, hperiod, by rw [hman]; rfl, hdue⟩
theorem e2eTimeout_exchange {t1 tm : Nat} (htmo : s.get pgLINK LINK_E2E_TMO_TICKS ≠ 0) (hts : s.link.ts = some (t1, tm))
    (hdue : tm + s.get pgLINK LINK_E2E_TMO_TICKS ≤ s.now) :
    ∃ t, exec (.e2eTimeout 0) s = .next t ∧ t.link.ts = none ∧ t.flag pgLINK LINK_TS_CTL_ERR = true := by
  refine ⟨(s.put pgLINK LINK_TS_CTL_ERR 1).lnk fun l => { l with ts := none }, ?_, rfl,
    State.flag_put_self s pgLINK LINK_TS_CTL_ERR true (by decide) rfl⟩
  show execE2eTimeout 0 s = _
  unfold execE2eTimeout
  dsimp only
  rw [if_neg htmo, if_pos rfl, hts]
  exact if_pos hdue
/-- A packet with a tag that is tracked for a mover is answered. -/
theorem closeTag_closes {etag : Nat} {e : SentPk} (nak : Option Nat) (h : (s.link.sent.find? fun e => e.etag == etag) = some e)
    (hwho : e.who ≠ .other) :
    (s.closeTag etag nak).link.sent = s.link.sent.filter (fun e => e.etag != etag) ∧
      (s.closeTag etag nak).link.results = s.link.results ++ [(e.who, nak)] := by
  unfold State.closeTag
  rw [h]
  refine ⟨rfl, ?_⟩
  show (if e.who = .other then _ else _) = _
  exact if_neg hwho
theorem countNak_link (cause to_ dst ty : Nat) : (s.countNak cause to_ dst ty).link = s.link := by
  unfold State.countNak
  dsimp only
  rw [State.irq_link]
  rfl
theorem e2eTimeout_packet {etag : Nat} {e : SentPk} (htmo : s.get pgLINK LINK_E2E_TMO_TICKS ≠ 0) (htag : etag ≠ 0)
    (h : (s.link.sent.find? fun e => e.etag == etag) = some e) (hdue : e.time + s.get pgLINK LINK_E2E_TMO_TICKS ≤ s.now) (hwho : e.who ≠ .other) :
    ∃ t, exec (.e2eTimeout etag) s = .next t ∧ t.link.sent = s.link.sent.filter (fun e => e.etag != etag) ∧
      t.link.results = s.link.results ++ [(e.who, some 0x44)] := by
  have hlink := countNak_link (s := s) 0x44 (devAddr s) e.dst e.ptype
  obtain ⟨hsent, hresults⟩ := closeTag_closes (s := s.countNak 0x44 (devAddr s) e.dst e.ptype) (some 0x44) (by rw [hlink]; exact h) hwho
  refine ⟨_, ?_, by rw [hsent, hlink], by rw [hresults, hlink]⟩
  show execE2eTimeout etag s = _
  unfold execE2eTimeout
  dsimp only
  rw [if_neg htmo, if_neg htag, h]
  exact if_pos hdue
end

/-- Settles O26: the frames by what acts on them (`onFrame`), what is sent by what it leaves (`Talks`), and the time exchange by the packet
that goes out (`sendResp_wayTo`). -/
theorem linkChainAndTime : Obligations.LinkChainAndTime := by
  refine ⟨fun s m a w => fwdWrite_whole, fun s m => enumGo_clears, fun s w => chainClear_manager, fun s w => chainClear_worker,
    fun s w => chainEnum_count, fun s w => chainEnum_full, fun s w => chainEnum_takes, fun s w => chainEnum_beyond,
    fun s w => chainDone_manager, fun s w => chainDone_worker, fun s w hlinks hsound i hi => ?_, fun s w hlinks hsound hop i hi => ?_,
    fun s op tm => enumTimeout_fails, fun s m hmay hman => ⟨_, exec_tsGo hmay hman, tsStart_ts s⟩,
    fun s m p hmay hman hway => ⟨_, exec_tsGo hmay hman, tsStart_sends hway⟩, fun s => tsPeriod_starts, fun s t1 tm => e2eTimeout_exchange,
    fun s etag e => e2eTimeout_packet⟩
  · obtain ⟨op, -, act, hexec⟩ := chain_onFrame (s := s) hi
    rw [hexec]
    exact onFrame_stops hlinks hsound
  · obtain ⟨op, hmem, act, hexec⟩ := chain_onFrame (s := s) hi
    rw [hexec]
    exact onFrame_passes hlinks hsound hop hmem

end Sys2Proof.Machine

/-! PROOFS. Acknowledgements, the fence table and the sent counters (spec/14_remote_access.md R431 to R434). -/
namespace Sys2Proof.Machine

section
variable {s : State}

/-! ### Acknowledgements (R434) -/

theorem outAt_lacks (u : State) (p : Nat) (x : LinkTx) : (u.outAt p x).link.lacks = u.link.lacks := by
  unfold State.outAt State.stampTs State.cond
  split <;> rfl

/-- The LACK that answers the gathered tags. -/
def lackPacket (u : State) (src : Nat) (tags : List Nat) : Packet :=
  { newPacket u 8 2 src with
    h2 := tags.getD 0 0 + 2 ^ 16 * tags.getD 1 0, h3 := tags.getD 2 0 + 2 ^ 16 * tags.getD 3 0,
    h4 := tags.getD 4 0 + 2 ^ 16 * tags.getD 5 0, h5 := tags.getD 6 0 + 2 ^ 16 * tags.getD 7 0, h6 := tags.length }
theorem lackSend_sends {src since p : Nat} {tags : List Nat} (hidle : idleWin s) (hlinks : s.cfg.links ≠ 0)
    (hl : Sp.get ([], 0) s.link.lacks src = (tags, since)) (hne : tags ≠ []) (hdue : 8 ≤ tags.length ∨ since + 26 ≤ s.now) (hway : wayTo s src p) :
    ∃ t, exec (.lackSend src) s = .next t ∧ t.link.lacks = Sp.del s.link.lacks src ∧
      (lkPort t p).replay.map (fun x => (x.pk.ptype, x.pk.dst, x.pk.h6, x.pk.h2, x.pk.h3, x.pk.h4, x.pk.h5)) = [(8, src, tags.length,
        tags.getD 0 0 + 2 ^ 16 * tags.getD 1 0, tags.getD 2 0 + 2 ^ 16 * tags.getD 3 0, tags.getD 4 0 + 2 ^ 16 * tags.getD 5 0,
        tags.getD 6 0 + 2 ^ 16 * tags.getD 7 0)] := by
  obtain ⟨u, hu⟩ : ∃ u, u = (s.heldFor []).lnk fun l => { l with lacks := Sp.del l.lacks src, lackTid := Sp.del l.lackTid src } := ⟨_, rfl⟩
  have hway' : wayTo u src p := by
    rw [hu]
    exact hway
  have hlacks : u.link.lacks = Sp.del s.link.lacks src := by
    rw [hu]
    rfl
  have hsend : ∃ tid, (s.heldFor []).sendLack src = u.sendResp (lackPacket u src tags) tid := by
    have hkeep : (s.heldFor []).link = s.link := rfl
    unfold State.sendLack
    dsimp only
    rw [hkeep, hl, hu]
    dsimp only
    rw [State.cond, if_pos (by simpa using hne)]
    exact ⟨_, rfl⟩
  obtain ⟨tid, hsend⟩ := hsend
  obtain ⟨x, hx, htalks⟩ := sendResp_wayTo (p := p) tid (pk := lackPacket u src tags) hway' rfl (show 2 < 4 by decide)
  rw [← hsend] at htalks
  refine ⟨(s.heldFor []).sendLack src, ?_, ?_, ?_⟩
  · show execLackSend src s = _
    have hkeep : (s.heldFor []).link = s.link := rfl
    unfold execLackSend
    dsimp only
    rw [winRun_rests hidle hlinks, hkeep, hl]
    exact if_pos ⟨hne, hdue⟩
  · exact (htalks.lacks.trans (outAt_lacks u p x)).trans hlacks
  · have hty : x.pk.ptype = 8 := (congrArg Packet.ptype hx :)
    have hdst : x.pk.dst = src := (congrArg Packet.dst hx :)
    have hh2 : x.pk.h2 = tags.getD 0 0 + 2 ^ 16 * tags.getD 1 0 := (congrArg Packet.h2 hx :)
    have hh3 : x.pk.h3 = tags.getD 2 0 + 2 ^ 16 * tags.getD 3 0 := (congrArg Packet.h3 hx :)
    have hh4 : x.pk.h4 = tags.getD 4 0 + 2 ^ 16 * tags.getD 5 0 := (congrArg Packet.h4 hx :)
    have hh5 : x.pk.h5 = tags.getD 6 0 + 2 ^ 16 * tags.getD 7 0 := (congrArg Packet.h5 hx :)
    have hh6 : x.pk.h6 = tags.length := (congrArg Packet.h6 hx :)
    rw [htalks.replay p, outAt_replay, List.map_cons, List.map_nil, hty, hdst, hh2, hh3, hh4, hh5, hh6]

/-! ### The fence table (R431, R433) -/

/-- The table without its entry k, after a run of the unit at rest. -/
def fenceTaken (s : State) (k : Nat) : State := (s.heldFor []).wnu fun u => { u with fences := u.fences.eraseIdx k }
theorem fenceTaken_idle (k : Nat) (h : idleWin s) : idleWin (fenceTaken s k) := h
/-- An entry whose fence is met, behind nothing. -/
theorem exec_notifyEffect {k : Nat} {h : Held} (hidle : idleWin s) (hlinks : s.cfg.links ≠ 0) (hk : s.win.fences[k]? = some h)
    (hmet : fenceMet s h.pk = true) : exec (.notifyEffect k) s = .next
      (if h.pk.ptype = 4 then ((fenceTaken s k).countBarr h.pk).winRun
      else ((if bit h.pk.h2 31 then (fenceTaken s k).cond (ringOn (fenceTaken s k) (bits h.pk.h3 31 24)) fun s =>
          s.fillSlot (bits h.pk.h3 31 24) (bits h.pk.h3 23 10)
        else (fenceTaken s k).ctrOp (48 * bits h.pk.h2 30 28 + bits h.pk.h2 27 22) 0 1).lack h.pk.src h.pk.etag).winRun) := by
  have harr : s.win.arr = [] := hidle.2.1
  have hmet' : fenceMet (s.heldFor []) h.pk = true := hmet
  show execNotifyEffect k s = _
  unfold execNotifyEffect
  dsimp only
  rw [winRun_rests hidle hlinks, State.heldFor_fences, hk]
  dsimp only
  rw [hmet', State.heldFor_arr, harr, if_neg (by simp)]
  split
  · rfl
  · rfl
/-- An effect that leaves the unit at rest, acknowledged. -/
theorem acknowledged {v : State} (src etag : Nat) (hidle : idleWin v) (hlinks : v.cfg.links ≠ 0) :
    ∃ w, Emits v w ∧ (v.lack src etag).winRun = w.heldFor [] := by
  have hemits := lack_emits v src etag none
  exact ⟨_, hemits, winRun_rests (hemits.idleWin hidle) (by rw [hemits.sends.cfg]; exact hlinks)⟩
theorem notifyEffect_counts {k c : Nat} {h : Held} (hidle : idleWin s) (hlinks : s.cfg.links ≠ 0) (hk : s.win.fences[k]? = some h)
    (hty : h.pk.ptype = 3) (hmet : fenceMet s h.pk = true) (hring : bit h.pk.h2 31 = false) (hbound : bits h.pk.h2 27 22 ≤ 47)
    (hc : c = 48 * bits h.pk.h2 30 28 + bits h.pk.h2 27 22) (hwatch : noWatch s c) (hpark : parked s = false) :
    ∃ t, exec (.notifyEffect k) s = .next t ∧ t.win.fences = s.win.fences.eraseIdx k ∧ counter t c = min (counter s c + 1) 0xFFFF := by
  have hcore : bits h.pk.h2 30 28 < 8 := Nat.mod_lt _ (by decide)
  obtain ⟨-, hvalue, hbare⟩ := ctrOp_frame (fenceTaken s k) c 0 1 hwatch (by omega) hpark
  have hwin : ((fenceTaken s k).ctrOp c 0 1).win = (fenceTaken s k).win := (congrArg State.win hbare :)
  have hidle' : idleWin ((fenceTaken s k).ctrOp c 0 1) := idleWin_congr (congrArg State.hub hbare :) (congrArg State.win hbare :)
    (congrArg State.link hbare :) (fenceTaken_idle k hidle)
  have hlinks' : ((fenceTaken s k).ctrOp c 0 1).cfg.links ≠ 0 := by
    have hcfg : ((fenceTaken s k).ctrOp c 0 1).cfg = (fenceTaken s k).cfg := (congrArg State.cfg hbare :)
    rw [hcfg]
    exact hlinks
  obtain ⟨w, hemits, hrun⟩ := acknowledged h.pk.src h.pk.etag hidle' hlinks'
  refine ⟨w.heldFor [], ?_, ?_, ?_⟩
  · rw [exec_notifyEffect hidle hlinks hk hmet, if_neg (by omega), hring, if_neg (by decide), ← hc, hrun]
  · exact (congrArg WinSt.fences (hemits.sends.win.trans hwin) :)
  · have hctr : counter (w.heldFor []) c = counter ((fenceTaken s k).ctrOp c 0 1) c :=
      ctr_eq c (hemits.sends.regs _ ⟨.inl (by simp only [pgSYNCCTR, SYNC_CTR_CTR, pgREC]; omega),
        .inl (by simp only [pgSYNCCTR, SYNC_CTR_CTR, pgLINK]; omega)⟩)
    have hkeep : counter (fenceTaken s k) c = counter s c := rfl
    rw [hctr, hvalue, hkeep, if_pos rfl]
    exact Nat.mod_eq_of_lt (Nat.lt_succ_of_le (Nat.min_le_right _ _))
/-- The tags lie outside the recorder's page and the LINK page. -/
theorem tagFull_of_emits {u w : State} (h : Emits u w) {r k : Nat} (hk : k < 2 ^ 14) : tagFull w r k = tagFull u r k := by
  have hbase : ringBase r + (SYNC_RING_RCFG2_TBASE.at 16 (r % 128)).off < pgLINK := by
    have hoff : (SYNC_RING_RCFG2_TBASE.at 16 (r % 128)).off = SYNC_RING_RCFG2_TBASE.off + 16 * (r % 128) := rfl
    rw [hoff]
    simp only [SYNC_RING_RCFG2_TBASE, pgLINK]
    unfold ringBase
    split <;> omega
  have hring : ringTag w r = ringTag u r := h.get _ _ ⟨.inl (Nat.lt_trans hbase (by decide)), .inl hbase⟩
  have htag : ringTag u r < 2 ^ 14 := State.get_lt u (ringBase r) (SYNC_RING_RCFG2_TBASE.at 16 (r % 128))
  unfold tagFull
  dsimp only
  rw [hring]
  generalize hn : ringTag u r + k = n
  have hoff : pgSYNCTAG + (SYNC_TAG_TAGBITS + 4 * (n / 32)) < pgLINK := by
    simp only [pgSYNCTAG, SYNC_TAG_TAGBITS, pgLINK]
    omega
  exact (congrArg (· == 1) (h.get _ ⟨SYNC_TAG_TAGBITS + 4 * (n / 32), n % 32, n % 32⟩ ⟨.inl (Nat.lt_trans hoff (by decide)), .inl hoff⟩) :)
theorem notifyEffect_fills {k : Nat} {h : Held} (hidle : idleWin s) (hlinks : s.cfg.links ≠ 0) (hk : s.win.fences[k]? = some h)
    (hty : h.pk.ptype = 3) (hmet : fenceMet s h.pk = true) (hring : bit h.pk.h2 31 = true) (hon : ringOn s (bits h.pk.h3 31 24) = true)
    (htag : tagFull s (bits h.pk.h3 31 24) (bits h.pk.h3 23 10) = false) (hparks : s.sync.parks = []) :
    ∃ t, exec (.notifyEffect k) s = .next t ∧ t.win.fences = s.win.fences.eraseIdx k ∧
      tagFull t (bits h.pk.h3 31 24) (bits h.pk.h3 23 10) = true := by
  have hfill : (fenceTaken s k).fillSlot (bits h.pk.h3 31 24) (bits h.pk.h3 23 10) =
      (fenceTaken s k).setTag (ringTag (fenceTaken s k) (bits h.pk.h3 31 24) + bits h.pk.h3 23 10) true := fillSlot_none htag hparks
  have hon' : ringOn (fenceTaken s k) (bits h.pk.h3 31 24) = true := hon
  obtain ⟨w, hemits, hrun⟩ := acknowledged (v := (fenceTaken s k).fillSlot (bits h.pk.h3 31 24) (bits h.pk.h3 23 10)) h.pk.src h.pk.etag
    (by rw [hfill]; exact hidle) (by rw [hfill]; exact hlinks)
  refine ⟨w.heldFor [], ?_, ?_, ?_⟩
  · rw [exec_notifyEffect hidle hlinks hk hmet, if_neg (by omega), if_pos hring, hon', State.cond_true, hrun]
  · have hwin := hemits.sends.win
    rw [hfill] at hwin
    exact (congrArg WinSt.fences hwin :)
  · have htag : tagFull w (bits h.pk.h3 31 24) (bits h.pk.h3 23 10) = true := by
      have hslot : bits h.pk.h3 23 10 < 2 ^ 14 := Nat.mod_lt _ (by decide)
      rw [tagFull_of_emits hemits hslot, hfill]
      exact tagFull_setTag ..
    exact htag
/-- The state with a device's arrival at a barrier counted. -/
def arrivalCounted (u : State) (n src : Nat) : State :=
  (u.syn fun y => { y with arrived := y.arrived ++ [(n, src)] }).barPut n SYNC_BAR_BSTAT_DEVCNT (barGet u n SYNC_BAR_BSTAT_DEVCNT + 1)
theorem arrivalCounted_arrived (u : State) (n src : Nat) : (arrivalCounted u n src).sync.arrived = u.sync.arrived ++ [(n, src)] := rfl
theorem arrivalCounted_idle {u : State} (n src : Nat) (h : idleWin u) : idleWin (arrivalCounted u n src) := h
/-- An arrival that does not complete its barrier is counted, and releases nobody. -/
theorem countBarr_counts {u : State} {pk : Packet} {n : Nat} (hn : n = pk.h2 % 64) (hon : barOn u n = true)
    (hdom : barGet u n SYNC_BAR_BCFG_DOMAIN = 1) (hphase : barGet u n SYNC_BAR_BSTAT_PHASE % 16 = bits pk.h2 11 8)
    (hless : barGet u n SYNC_BAR_BSTAT_DEVCNT + 1 < barGet u n SYNC_BAR_BCFG_DEVS) :
    u.countBarr pk = arrivalCounted u n pk.src := by
  have hphase16 : bits pk.h2 11 8 % 16 = bits pk.h2 11 8 := Nat.mod_mod _ _
  have harrive : u.devArrive n pk.src (bits pk.h2 11 8) = (false, arrivalCounted u n pk.src) := by
    unfold State.devArrive
    rw [hon, hdom, hphase, hphase16, if_neg (by simp)]
    exact if_pos hless
  unfold State.countBarr
  dsimp only
  rw [← hn, harrive]
  rfl
theorem arrivalCounted_count {u : State} {n src : Nat} (hless : barGet u n SYNC_BAR_BSTAT_DEVCNT + 1 < barGet u n SYNC_BAR_BCFG_DEVS) :
    barGet (arrivalCounted u n src) n SYNC_BAR_BSTAT_DEVCNT = barGet u n SYNC_BAR_BSTAT_DEVCNT + 1 := by
  have hwidth : barGet u n SYNC_BAR_BCFG_DEVS < 2 ^ 7 := State.get_lt u pgSYNCBAR (SYNC_BAR_BCFG_DEVS.at 16 n)
  exact barGet_barPut_self (by decide) (Nat.lt_trans hless hwidth)
theorem notifyEffect_arrives {k n : Nat} {h : Held} (hidle : idleWin s) (hlinks : s.cfg.links ≠ 0) (hk : s.win.fences[k]? = some h)
    (hty : h.pk.ptype = 4) (hmet : fenceMet s h.pk = true) (hn : n = h.pk.h2 % 64) (hon : barOn s n = true)
    (hdom : barGet s n SYNC_BAR_BCFG_DOMAIN = 1) (hphase : barGet s n SYNC_BAR_BSTAT_PHASE % 16 = bits h.pk.h2 11 8)
    (hless : barGet s n SYNC_BAR_BSTAT_DEVCNT + 1 < barGet s n SYNC_BAR_BCFG_DEVS) :
    ∃ t, exec (.notifyEffect k) s = .next t ∧ t.win.fences = s.win.fences.eraseIdx k ∧
      barGet t n SYNC_BAR_BSTAT_DEVCNT = barGet s n SYNC_BAR_BSTAT_DEVCNT + 1 ∧ t.sync.arrived = s.sync.arrived ++ [(n, h.pk.src)] := by
  have hcount := countBarr_counts (u := fenceTaken s k) (pk := h.pk) hn hon hdom hphase hless
  have hvalue := arrivalCounted_count (u := fenceTaken s k) (src := h.pk.src) hless
  have hrun := winRun_rests (arrivalCounted_idle n h.pk.src (fenceTaken_idle k hidle)) hlinks
  refine ⟨(arrivalCounted (fenceTaken s k) n h.pk.src).heldFor [], (exec_notifyEffect hidle hlinks hk hmet).trans ?_, rfl, hvalue,
    arrivalCounted_arrived ..⟩
  rw [if_pos hty, hcount, hrun]

/-! ### FENCE_TMO (R431, R433) -/

/-- The table without its entry k, its loss counted. -/
def fenceLost (s : State) (k : Nat) : State :=
  ((s.wnu fun u => { u with fences := u.fences.eraseIdx k }).bumpSat pgWINCTL WINDOW_CTL_FENCE_TO_CNT_COUNT).irq pgWINCTL 1
theorem fenceLost_rd (k : Nat) {o : Nat} (h : o ≠ pgWINCTL + WINDOW_CTL_FENCE_TO_CNT) (hirq : o ≠ pgWINCTL + HDR_IRQ_STAT)
    (hrec : o < pgREC ∨ pgREC + 4096 ≤ o) : (fenceLost s k).rd o = s.rd o := by
  rw [fenceLost, State.irq_rd _ _ _ _ hirq hrec]
  exact State.bumpSat_rd _ _ h
theorem fenceLost_counts (k : Nat) : (fenceLost s k).get pgWINCTL WINDOW_CTL_FENCE_TO_CNT_COUNT =
    min (s.get pgWINCTL WINDOW_CTL_FENCE_TO_CNT_COUNT + 1) (2 ^ 32 - 1) := by
  rw [fenceLost, State.get_irq _ _ _ _ _ (by decide) (by decide)]
  exact State.get_bumpSat_self _ _ _ _ (by decide)
theorem fenceLost_sansRec (k : Nat) : (fenceLost s k).sansRec = (s.wnu fun u => { u with fences := u.fences.eraseIdx k }).sansRec := by
  rw [fenceLost, State.irq_sansRec]
  rfl
theorem fenceTimeout_drops {k : Nat} {h : Held} (hidle : idleWin s) (hlinks : s.cfg.links ≠ 0) (hk : s.win.fences[k]? = some h)
    (htmo : s.get pgWINCTL WINDOW_CTL_FENCE_TMO_TICKS ≠ 0) (hdue : h.at_ + s.get pgWINCTL WINDOW_CTL_FENCE_TMO_TICKS ≤ s.now) :
    ∃ t, exec (.fenceTimeout k) s = .next t ∧ t.win.fences = s.win.fences.eraseIdx k ∧
      t.get pgWINCTL WINDOW_CTL_FENCE_TO_CNT_COUNT = min (s.get pgWINCTL WINDOW_CTL_FENCE_TO_CNT_COUNT + 1) (2 ^ 32 - 1) ∧
      if h.pk.ptype = 4 then t.get pgWINCTL WINDOW_CTL_BAR_DISC_COUNT = min (s.get pgWINCTL WINDOW_CTL_BAR_DISC_COUNT + 1) (2 ^ 32 - 1)
      else t.rd (pgLINK + LINK_NAK_LAST) = BitVec.ofNat 32 (0x19 * 2 ^ 24 + h.pk.src * 2 ^ 16 + h.pk.dst * 2 ^ 8 + h.pk.ptype) := by
  have hsans := fenceLost_sansRec (s := s) k
  have hwin : (fenceLost s k).win = { s.win with fences := s.win.fences.eraseIdx k } := (congrArg State.win hsans :)
  have hidle' : idleWin (fenceLost s k) := idleWin_congr (s := s.wnu fun u => { u with fences := u.fences.eraseIdx k })
    (congrArg State.hub hsans :) (congrArg State.win hsans :) (congrArg State.link hsans :) hidle
  have hlinks' : (fenceLost s k).cfg.links ≠ 0 := by
    have hcfg : (fenceLost s k).cfg = s.cfg := (congrArg State.cfg hsans :)
    rw [hcfg]
    exact hlinks
  have hcount := fenceLost_counts (s := s) k
  have hdisc : (fenceLost s k).get pgWINCTL WINDOW_CTL_BAR_DISC_COUNT = s.get pgWINCTL WINDOW_CTL_BAR_DISC_COUNT :=
    congrArg WINDOW_CTL_BAR_DISC_COUNT.of (fenceLost_rd k (by decide) (by decide) (by decide))
  have hexec : exec (.fenceTimeout k) s = if h.pk.ptype = 4 then .next ((fenceLost s k).bumpSat pgWINCTL WINDOW_CTL_BAR_DISC_COUNT).winRun
      else .next ((fenceLost s k).nakTo 0x19 h.pk).winRun := by
    show execFenceTimeout k s = _
    unfold execFenceTimeout
    dsimp only
    rw [hk]
    exact if_neg (by omega)
  rw [hexec]
  generalize fenceLost s k = u at *
  by_cases hty : h.pk.ptype = 4
  · rw [if_pos hty]
    refine ⟨(u.bumpSat pgWINCTL WINDOW_CTL_BAR_DISC_COUNT).heldFor [], congrArg _ (winRun_rests hidle' hlinks'), congrArg WinSt.fences hwin, ?_, ?_⟩
    · exact (State.get_put_page _ _ _ _ _ (by decide) (by decide)).trans hcount
    · rw [if_pos hty, ← hdisc]
      exact State.get_bumpSat_self u pgWINCTL WINDOW_CTL_BAR_DISC_COUNT 1 (by decide)
  · rw [if_neg hty]
    obtain ⟨hlink, hnakwin, hnakhub, hnakcfg⟩ := countNak_frame u 0x19 h.pk.src h.pk.dst h.pk.ptype
    have hlast := countNak_last u 0x19 h.pk.src h.pk.dst h.pk.ptype
    have hemits := nakTo_emits u 0x19 h.pk none
    have hidle'' := hemits.idleWin (idleWin_congr hnakhub hnakwin hlink hidle')
    have hcount' : (u.countNak 0x19 h.pk.src h.pk.dst h.pk.ptype).get pgWINCTL WINDOW_CTL_FENCE_TO_CNT_COUNT =
        u.get pgWINCTL WINDOW_CTL_FENCE_TO_CNT_COUNT := (countNak_sends u ..).get _ _ (by unfold OffSend; decide)
    refine ⟨(u.nakTo 0x19 h.pk).heldFor [], congrArg _ (winRun_rests hidle'' (by rw [hemits.sends.cfg, hnakcfg]; exact hlinks')),
      (congrArg WinSt.fences (hemits.sends.win.trans (hnakwin.trans hwin)) :), ?_, ?_⟩
    · exact ((hemits.get pgWINCTL WINDOW_CTL_FENCE_TO_CNT_COUNT (by unfold OffSend; decide)).trans hcount').trans hcount
    · rw [if_neg hty]
      exact (hemits.low _ (by decide)).trans hlast

/-! ### The sent counters (R11, R432) -/

/-- A write of a register's fields by their access codes changes no more than registers and what an interrupt fires. -/
theorem setFields_sansRec {m : Master} {base reg : Nat} {p : PageAt} {r : RegRow} (hp : pageAt (base + reg) = some p)
    (hr : rowAt p.page reg = some r) (w : Word32) : (s.setFields m base reg w).sansRec = s.sansRec := by
  have heach : (s.each r.fields fun u f => u.setField base reg (ownsPage s m p) w f).sansRec = s.sansRec :=
    (congrArg State.sansRec (each_setField_sansRegs (base := base) (reg := reg) (own := ownsPage s m p) (w := w) r.fields s) :)
  rw [setFields_eq hp hr]
  unfold State.cond
  split
  · rw [fabStat_sansRec, flagPage_sansRec, heach]
  · exact heach
theorem sentSel_page : pageAt (pgWINCTL + WINDOW_CTL_SENT_SEL) = some ⟨.windowCtl, 0, pgWINCTL⟩ := by decide
theorem sentSel_row : rowAt Page.windowCtl WINDOW_CTL_SENT_SEL =
    some ⟨0x064, 1, 0, 1, 0, [⟨31, 31, .w1s, 0⟩, ⟨30, 30, .w1s, 0⟩, ⟨13, 8, .rwo, 0⟩, ⟨7, 0, .rwo, 0⟩]⟩ := rfl
/-- The word of SENT_SEL with CLR. -/
def sentWord (dev w : Nat) : Word32 := BitVec.ofNat 32 (2 ^ 31 + dev % 64 * 2 ^ 8 + w % 256)
theorem sentWord_fields {dev w : Nat} (hdev : dev < 64) (hw : w < 256) : WINDOW_CTL_SENT_SEL_CLR.of (sentWord dev w) = 1 ∧
    WINDOW_CTL_SENT_SEL_CLRALL.of (sentWord dev w) = 0 ∧ bits (sentWord dev w).toNat 13 8 = dev ∧ bits (sentWord dev w).toNat 7 0 = w := by
  simp only [Fld.of, bits, sentWord, WINDOW_CTL_SENT_SEL_CLR, WINDOW_CTL_SENT_SEL_CLRALL, BitVec.toNat_ofNat, Nat.shiftRight_eq_div_pow]
  refine ⟨?_, ?_, ?_, ?_⟩ <;> simp <;> omega
theorem sentClr_clears {m : Master} {dev w : Nat} (hmay : mayWrite s m pgWINCTL WINDOW_CTL_SENT_SEL true = true) (hdev : dev < 64) (hw : w < 256) :
    ∃ t, exec (.sentClr m dev w) s = .next t ∧ t.win = { s.win with sentN := Sp.del s.win.sentN (256 * dev + w) } := by
  have hown := Or.inl (b := (List.any [(⟨31, 31, .w1s, 0⟩ : FieldRow), ⟨30, 30, .w1s, 0⟩, ⟨13, 8, .rwo, 0⟩, ⟨7, 0, .rwo, 0⟩] fun f =>
    f.acc == .rwo) = false) (owns_of_mayWrite sentSel_page hmay)
  obtain ⟨hclr, hall, hdevWord, hwinWord⟩ := sentWord_fields hdev hw
  obtain ⟨word, hword⟩ : ∃ word, word = sentWord dev w := ⟨_, rfl⟩
  rw [← hword] at hclr hall hdevWord hwinWord
  have hdevGet := setFields_get (f := ⟨13, 8, .rwo, 0⟩) sentSel_page sentSel_row hown word (by simp)
  have hwinGet := setFields_get (f := ⟨7, 0, .rwo, 0⟩) sentSel_page sentSel_row hown word (by simp)
  have hsans := setFields_sansRec (s := s) (m := m) sentSel_page sentSel_row word
  rw [hdevWord] at hdevGet
  rw [hwinWord] at hwinGet
  have hexec : exec (.sentClr m dev w) s = .next (sentSelWrite m word s) := by rw [hword]; rfl
  refine ⟨_, hexec, ?_⟩
  unfold sentSelWrite
  rw [State.gate_open _ _ _ _ _ _ (mayWrite_any hmay), hclr, hall]
  have hdevGet' : (s.setFields m pgWINCTL WINDOW_CTL_SENT_SEL word).get pgWINCTL WINDOW_CTL_SENT_SEL_DEV = dev := hdevGet
  have hwinGet' : (s.setFields m pgWINCTL WINDOW_CTL_SENT_SEL word).get pgWINCTL WINDOW_CTL_SENT_SEL_WIN = w := hwinGet
  dsimp only
  rw [hdevGet', hwinGet']
  have hkeep : (s.setFields m pgWINCTL WINDOW_CTL_SENT_SEL word).win = s.win := (congrArg State.win hsans :)
  generalize s.setFields m pgWINCTL WINDOW_CTL_SENT_SEL word = u at *
  show ({ u.win with sentN := Sp.del u.win.sentN (256 * dev + w) } : WinSt) = _
  rw [hkeep]
theorem sentClrall_clears {m : Master} (hmay : mayWrite s m pgWINCTL WINDOW_CTL_SENT_SEL false = true) :
    ∃ t, exec (.sentClrall m) s = .next t ∧ t.win = { s.win with sentN := [] } := by
  obtain ⟨word, hword⟩ : ∃ word, word = WINDOW_CTL_SENT_SEL_CLRALL.into (s.rd (pgWINCTL + WINDOW_CTL_SENT_SEL)) 1 := ⟨_, rfl⟩
  have hall : WINDOW_CTL_SENT_SEL_CLRALL.of word = 1 := by
    rw [hword]
    exact Fld.of_into_self _ (by decide) _ _
  have hsans := setFields_sansRec (s := s) (m := m) sentSel_page sentSel_row word
  have hkeep : (s.setFields m pgWINCTL WINDOW_CTL_SENT_SEL word).win = s.win := (congrArg State.win hsans :)
  have hexec : exec (.sentClrall m) s = .next (sentSelWrite m word s) := by rw [hword]; rfl
  refine ⟨_, hexec, ?_⟩
  unfold sentSelWrite
  rw [State.gate_open _ _ _ _ _ _ hmay, hall]
  dsimp only
  generalize s.setFields m pgWINCTL WINDOW_CTL_SENT_SEL word = u at *
  rw [← hkeep]
  unfold State.cond
  rw [if_pos (show ((1 : Nat) == 1) = true from rfl)]
  split <;> rfl
end

/-- Settles O36: each effect leaves the unit at rest (`winRun_rests`), and what goes out leaves its registers (`Emits`). -/
theorem fencesAndAcks : Obligations.FencesAndAcks := by
  exact ⟨fun s src since p tags => lackSend_sends, fun s k c h => notifyEffect_counts, fun s k h => notifyEffect_fills,

    fun s k n h hidle hlinks hk hty _ => notifyEffect_arrives hidle hlinks hk hty,
    fun s k h => fenceTimeout_drops, fun s m dev w => sentClr_clears, fun s m => sentClrall_clears⟩

end Sys2Proof.Machine

/-! PROOFS. A packet that comes in order, alone, at a device whose window unit holds nothing (spec/13_amiys_link.md R390 to R399,
spec/14_remote_access.md R415): the state in which it lies in its receive buffer, and the run of the unit that takes it. -/
namespace Sys2Proof.Machine

/-! ### A run of the unit that takes one packet (R415) -/

/-- A loop over ports that does something at one of them alone. -/
theorem each_range_one {f : State → Nat → State} {s t : State} {p : Nat} (n : Nat) (hp : p < n) (before : ∀ q < p, f s q = s)
    (at_ : f s p = t) (after : ∀ q < n, p < q → f t q = t) : s.each (List.range n) f = t := by
  induction n with
  | zero => omega
  | succ n ih =>
    have hlast : s.each (List.range (n + 1)) f = f (s.each (List.range n) f) n := by
      unfold State.each
      rw [List.range_succ, List.foldl_append]
      rfl
    rw [hlast]
    obtain rfl | hlt := Nat.lt_succ_iff_lt_or_eq.mp hp |>.symm
    · rw [each_range_of _ before, at_]
    · rw [ih hlt fun q hq => after q (by omega)]
      exact after n (by omega) hlt
/-- A packet alone in its buffer is the head of its lane. -/
theorem laneHeads_single (pk : Packet) : laneHeads [pk] = [pk] := by
  unfold laneHeads
  have hlane : pk.lane % 8 < 8 := Nat.mod_lt _ (by decide)
  simp only [List.find?_cons, List.find?_nil]
  generalize pk.lane % 8 = m at hlane
  interval_cases m <;> rfl
/-- The unit takes the one packet that it can take, and is left with nothing to go on with. -/
theorem winRun_takes {s u : State} {p : Nat} {pk : Packet} (hp : p < 5) (hlinks : s.cfg.links ≠ 0) (ha : s.hub.answers = [])
    (hw : s.win.arr = []) (hrx : (lkPort s p).rxq = [pk]) (hothers : ∀ q < 5, q ≠ p → (lkPort s q).rxq = [])
    (htake : takeHead s p pk = some u) (hrest : restful u) (hurx : (lkPort u p).rxq = [pk]) (huothers : ∀ q < 5, q ≠ p → (lkPort u q).rxq = []) :
    s.winRun = consumed u p := by
  obtain ⟨hua, hur, huw⟩ := hrest
  have hport : (u.lport p fun l => { l with rxq := l.rxq.erase pk }) = u.lport p fun l => { l with rxq := [] } :=
    lport_congr (by rw [hurx, List.erase_cons_head])
  have hempty : ∀ q < 5, (lkPort (u.lport p fun l => { l with rxq := [] }) q).rxq = [] := fun q hq => by
    by_cases hqp : q = p
    · rw [hqp, lkPort_lport_self]
    · rw [lkPort_lport_of_ne _ _ hqp]
      exact huothers q hq hqp
  have hrun : s.each (List.range 5) (fun s q => s.rxRun q (lkPort s q).rxq.length) = u.lport p fun l => { l with rxq := [] } := by
    refine each_range_one 5 hp (fun q hq => rxRun_empty (hothers q (by omega) (by omega))) ?_ fun q hq _ => rxRun_empty (hempty q hq)
    rw [hrx]
    show s.rxRun p 1 = _
    unfold State.rxRun
    rw [hrx, laneHeads_single, List.findSome?_cons, htake]
    exact hport
  unfold State.winRun
  rw [if_neg hlinks]
  dsimp only
  rw [pullParts_idle ha hw, hw, List.map_nil, each_empty, pullParts_idle ha hw, hrun]
  have hpull : (u.lport p fun l => { l with rxq := [] }).pullParts = u.lport p fun l => { l with rxq := [] } := pull_id _ hua huw
  have hrecords : (u.lport p fun l => { l with rxq := [] }).win.records = [] := hur
  rw [hpull, hrecords]
  show (State.wnu (u.lport p fun l => { l with rxq := [] }) fun w => { w with held := _ }) = _
  rw [show (u.lport p fun l => { l with rxq := [] }).sendRecords ([] : List (Nat × Nat)).length = u.lport p fun l => { l with rxq := [] } from rfl,
    sharesHeld_empty hempty]
  rfl

/-! ### A packet that has come in order lies in its buffer (R396 to R398) -/

/-- Where a port counts the flits it receives. -/
def rxflAt (p : Nat) : Nat := pgLINK + (LINK_P_RXFL_COUNT.at 256 p).off
/-- A port that has taken in a packet. -/
def takenPort (l : LinkPort) (pk : Packet) (rest : List Nat) : LinkPort :=
  { l with rxFlits := rest, expL := (l.expL + 1) % 4096, waitL := false, retries := 0, lossAt := none, rxq := l.rxq ++ [pk] }
/-- What the state in which a packet has come in shares with the one before. -/
structure Received (s t : State) (p : Nat) (pk : Packet) (rest : List Nat) : Prop where
  regs : ∀ o, OffSend o → o ≠ rxflAt p → t.rd o = s.rd o
  unsent : t.unsent = s.unsent
  link : t.link.sansPorts = s.link.sansPorts
  port : (lkPort t p).core = takenPort (lkPort s p).core (stampIn s pk) rest
  other : ∀ q, q ≠ p → (lkPort t q).core = (lkPort s q).core
/-- The flits counted and charged. -/
theorem flitsIn_talks (s : State) (p : Nat) (pk : Packet) : (∀ o, o ≠ rxflAt p → (s.flitsIn p pk).rd o = s.rd o) ∧
    (s.flitsIn p pk).unsent = s.unsent ∧ (s.flitsIn p pk).link.sansPorts = s.link.sansPorts ∧
    ∀ q, (lkPort (s.flitsIn p pk) q).core = (lkPort s q).core := by
  obtain ⟨u, hu⟩ : ∃ u, u = (s.bump pgLINK (LINK_P_RXFL_COUNT.at 256 p) pk.flits).lport p fun l =>
    { l with held := totalUp l.held pk.lane pk.flits } := ⟨_, rfl⟩
  have hrd : ∀ o, o ≠ rxflAt p → u.rd o = s.rd o := fun o ho => by
    have hbump : (s.bump pgLINK (LINK_P_RXFL_COUNT.at 256 p) pk.flits).rd o = s.rd o := State.rd_put_of_ne s _ ho
    rw [hu]
    exact hbump
  have hcore : ∀ q, (lkPort u q).core = (lkPort s q).core := fun q => by
    rw [hu]
    exact ((lport_talks (s.bump pgLINK (LINK_P_RXFL_COUNT.at 256 p) pk.flits) p (fun l => { l with held := totalUp l.held pk.lane pk.flits })
      fun _ => rfl).core q).trans rfl
  have hrest : u.unsent = s.unsent ∧ u.link.sansPorts = s.link.sansPorts := by
    rw [hu]
    exact ⟨rfl, rfl⟩
  unfold State.flitsIn
  dsimp only
  rw [← hu]
  split
  · exact ⟨hrd, hrest.1, hrest.2, hcore⟩
  · split
    · exact ⟨hrd, hrest.1, hrest.2, hcore⟩
    · exact ⟨hrd, hrest.1, hrest.2, hcore⟩
/-- The port before it acknowledges. -/
def headTaken (s : State) (p : Nat) (rest : List Nat) : State :=
  (s.lport p fun l => { l with rxFlits := rest }).lport p fun l =>
    { l with expL := (l.expL + 1) % 4096, waitL := false, retries := 0, lossAt := none }
theorem taken_eq (s : State) (p : Nat) (pk : Packet) (rest : List Nat) : taken s p pk rest =
    (((headTaken s p rest).sendLink p).flitsIn p pk).lport p fun l =>
      { l with rxq := l.rxq ++ [stampIn (((headTaken s p rest).sendLink p).flitsIn p pk) pk] } :=
  rfl
theorem headTaken_port (s : State) (p : Nat) (rest : List Nat) : lkPort (headTaken s p rest) p =
    { lkPort s p with rxFlits := rest, expL := ((lkPort s p).expL + 1) % 4096, waitL := false, retries := 0, lossAt := none } := by
  rw [headTaken, lkPort_lport_self, lkPort_lport_self]
theorem headTaken_other (s : State) {p q : Nat} (rest : List Nat) (h : q ≠ p) : lkPort (headTaken s p rest) q = lkPort s q := by
  rw [headTaken, lkPort_lport_of_ne _ _ h, lkPort_lport_of_ne _ _ h]
theorem stampIn_congr {s t : State} (h : t.now = s.now) (pk : Packet) : stampIn t pk = stampIn s pk := by
  unfold stampIn
  rw [h]
theorem taken_received (s : State) (p : Nat) (pk : Packet) (rest : List Nat) : Received s (taken s p pk rest) p pk rest := by
  have htalks := sendLink_talks (headTaken s p rest) p
  obtain ⟨hrd, hunsent, hlink, hcore⟩ := flitsIn_talks ((headTaken s p rest).sendLink p) p pk
  have hnow : (((headTaken s p rest).sendLink p).flitsIn p pk).now = s.now :=
    Eq.trans (congrArg State.now hunsent :) htalks.now
  have hhead : (headTaken s p rest).unsent = s.unsent ∧ (headTaken s p rest).link.sansPorts = s.link.sansPorts := ⟨rfl, rfl⟩
  have hcore' : ∀ q, (lkPort (((headTaken s p rest).sendLink p).flitsIn p pk) q).core = (lkPort (headTaken s p rest) q).core :=
    fun q => (hcore q).trans (htalks.core q)
  rw [taken_eq, stampIn_congr hnow]
  have hregs : ∀ o, OffSend o → o ≠ rxflAt p → (((headTaken s p rest).sendLink p).flitsIn p pk).rd o = s.rd o := fun o ho hne =>
    (hrd o hne).trans (htalks.sends.regs o ho)
  have hunsent' := (hunsent.trans htalks.sends.rest).trans hhead.1
  have hlink' := (hlink.trans htalks.rest).trans hhead.2
  generalize ((headTaken s p rest).sendLink p).flitsIn p pk = u at *
  refine ⟨hregs, hunsent', hlink', ?_, fun q hq => ?_⟩
  · have hport := hcore' p
    rw [headTaken_port] at hport
    rw [lkPort_lport_self]
    exact (congrArg (fun l : LinkPort => { l with rxq := l.rxq ++ [stampIn s pk] }) hport :)
  · rw [lkPort_lport_of_ne _ _ hq, hcore' q, headTaken_other _ _ hq]

section
variable {s t : State} {p : Nat} {pk : Packet} {rest : List Nat} (h : Received s t p pk rest)
include h
theorem Received.cfg : t.cfg = s.cfg := (congrArg State.cfg h.unsent :)
theorem Received.now : t.now = s.now := (congrArg State.now h.unsent :)
theorem Received.hub : t.hub = s.hub := (congrArg State.hub h.unsent :)
theorem Received.win : t.win = s.win := (congrArg State.win h.unsent :)
theorem Received.sync : t.sync = s.sync := (congrArg State.sync h.unsent :)
theorem Received.rxq_self : (lkPort t p).rxq = (lkPort s p).rxq ++ [stampIn s pk] := (congrArg LinkPort.rxq h.port :)
theorem Received.rxq_other {q : Nat} (hq : q ≠ p) : (lkPort t q).rxq = (lkPort s q).rxq := (congrArg LinkPort.rxq (h.other q hq) :)
theorem Received.expL : (lkPort t p).expL = ((lkPort s p).expL + 1) % 4096 := (congrArg LinkPort.expL h.port :)
theorem Received.rxFlits : (lkPort t p).rxFlits = rest := (congrArg LinkPort.rxFlits h.port :)
theorem Received.sent : t.link.sent = s.link.sent := (congrArg LinkSt.sent h.link :)
theorem Received.results : t.link.results = s.link.results := (congrArg LinkSt.results h.link :)
theorem Received.ts : t.link.ts = s.link.ts := (congrArg LinkSt.ts h.link :)
/-- What a port sends has not changed. -/
theorem Received.outward (q : Nat) : (lkPort t q).txq = (lkPort s q).txq ∧ (lkPort t q).replay = (lkPort s q).replay ∧
    (lkPort t q).sentC = (lkPort s q).sentC ∧ (lkPort t q).farC = (lkPort s q).farC ∧ (lkPort t q).marksTo = (lkPort s q).marksTo := by
  by_cases hq : q = p
  · subst hq
    exact ⟨(congrArg LinkPort.txq h.port :), (congrArg LinkPort.replay h.port :), (congrArg LinkPort.sentC h.port :),
      (congrArg LinkPort.farC h.port :), (congrArg LinkPort.marksTo h.port :)⟩
  · have hcore := h.other q hq
    exact ⟨(congrArg LinkPort.txq hcore :), (congrArg LinkPort.replay hcore :), (congrArg LinkPort.sentC hcore :),
      (congrArg LinkPort.farC hcore :), (congrArg LinkPort.marksTo hcore :)⟩
theorem Received.get (a : Nat) (f : Fld) (ho : OffSend (a + f.off)) (hne : a + f.off ≠ rxflAt p) : t.get a f = s.get a f := by
  unfold State.get
  rw [h.regs _ ho hne]
end

/-! ### The command of a packet's type (R390) -/

theorem offSend_enumStat : OffSend (pgLINK + LINK_ENUM_STAT) := by
  unfold OffSend
  decide
/-- ENUM_STAT lies below the ports' blocks. -/
theorem rxflAt_low (p : Nat) {o : Nat} (ho : o < pgLINK + LINK_P_CTL) : o ≠ rxflAt p := by
  have hoff : rxflAt p = pgLINK + (LINK_P_RXFL + 256 * p) := rfl
  rw [hoff]
  simp only [LINK_P_RXFL, LINK_P_CTL] at *
  omega
/-- A packet in order is taken: it lies in its buffer, and the unit runs. -/
theorem inOrder_taken {s : State} {p : Nat} {pk : Packet} {rest : List Nat} (h : comesIn s p pk rest) :
    (s.lport p fun l => { l with rxFlits := rest }).inOrder p pk = taken s p pk rest := by
  obtain ⟨-, -, -, -, hloss, -, -, -, hclass, hme, -⟩ := h
  obtain ⟨hrd, -, -, -⟩ := flitsIn_talks ((headTaken s p rest).sendLink p) p pk
  have htalks := sendLink_talks (headTaken s p rest) p
  have hstat : (((headTaken s p rest).sendLink p).flitsIn p pk).rd (pgLINK + LINK_ENUM_STAT) = s.rd (pgLINK + LINK_ENUM_STAT) :=
    (hrd _ (rxflAt_low p (by decide))).trans (htalks.sends.regs _ offSend_enumStat)
  have hme' : forMe (((headTaken s p rest).sendLink p).flitsIn p pk) pk = true := by
    rw [← hme]
    exact congrArg (fun w => pk.dst == LINK_ENUM_STAT_ADDR.of w && LINK_ENUM_STAT_ADDR_V.of w == 1) hstat
  have hhead : (s.lport p fun l => { l with rxFlits := rest }).lport p (fun l => { l with
      expL := (l.expL + 1) % 4096, waitL := false, retries := 0,
      lossAt := if (lkPort (s.lport p fun l => { l with rxFlits := rest }) p).dropMask.isNone then none else l.lossAt }) = headTaken s p rest := by
    refine lport_congr ?_
    rw [lkPort_lport_self]
    dsimp only
    rw [hloss, ite_self]
  unfold State.inOrder
  dsimp only
  rw [lkPort_lport_self]
  dsimp only
  rw [hloss]
  dsimp only
  rw [lkPort_lport_self] at hhead
  rw [hhead, taken_eq]
  unfold State.acceptPk
  rw [if_neg (by rw [hclass]; decide), if_pos hme']
/-- The command of the packet's type takes it in. -/
theorem pktIn_inOrder {s : State} {p : Nat} {pk : Packet} {rest : List Nat} {types : List Nat} (h : comesIn s p pk rest) (hty : pk.ptype ∈ types) :
    pktIn p types s = .next (taken s p pk rest).winRun := by
  obtain ⟨hp, -, hup, hlock, -, hnext, hsound, hlseq, -⟩ := id h
  unfold pktIn
  rw [if_neg (by omega), if_neg (by rw [hlock]; simp [hup]; omega), hnext]
  dsimp only
  rw [if_neg (by simp [hsound]), if_neg (by simpa using hty), lkPort_lport_self, if_neg (by rw [hlseq]; simp), inOrder_taken h]
/-- Each packet command takes the packets of its type. -/
theorem packetKinds_exec {ty : Nat} {f : Nat → Instr} (h : (ty, f) ∈ packetKinds) : ∃ types, ty ∈ types ∧ ∀ p s, exec (f p) s = pktIn p types s := by
  simp only [packetKinds, List.mem_cons, Prod.mk.injEq, List.not_mem_nil, or_false] at h
  rcases h with ⟨rfl, rfl⟩ | ⟨rfl, rfl⟩ | ⟨rfl, rfl⟩ | ⟨rfl, rfl⟩ | ⟨rfl, rfl⟩ | ⟨rfl, rfl⟩ | ⟨rfl, rfl⟩ | ⟨rfl, rfl⟩ | ⟨rfl, rfl⟩ | ⟨rfl, rfl⟩ |
    ⟨rfl, rfl⟩
  all_goals exact ⟨_, by decide, fun _ _ => rfl⟩
/-- The state in which a packet has come in holds that packet alone. -/
theorem taken_rxq {s : State} {p : Nat} {pk : Packet} {rest : List Nat} (h : comesIn s p pk rest) :
    (lkPort (taken s p pk rest) p).rxq = [stampIn s pk] ∧ ∀ q < 5, q ≠ p → (lkPort (taken s p pk rest) q).rxq = [] := by
  obtain ⟨hp, -, -, -, -, -, -, -, -, -, -, -, -, hrx⟩ := h
  have hreceived := taken_received s p pk rest
  refine ⟨?_, fun q hq hne => (hreceived.rxq_other hne).trans (hrx q hq)⟩
  rw [hreceived.rxq_self, hrx p (by omega)]
  rfl
/-- A packet that comes in, and that the unit can take, leaves its buffer with its effect. -/
theorem packet_takes {ty : Nat} {f : Nat → Instr} (hf : (ty, f) ∈ packetKinds) {s u : State} {p : Nat} {pk : Packet} {rest : List Nat}
    (hty : pk.ptype = ty) (h : comesIn s p pk rest) (htake : takeHead (taken s p pk rest) p (stampIn s pk) = some u) (hrest : restful u)
    (hothers : ∀ q < 5, q ≠ p → (lkPort u q).rxq = []) (hrx : (lkPort u p).rxq = [stampIn s pk]) : exec (f p) s = .next (consumed u p) := by
  obtain ⟨types, hmem, hexec⟩ := packetKinds_exec hf
  have hreceived := taken_received s p pk rest
  obtain ⟨hself, hempty⟩ := taken_rxq h
  obtain ⟨hp, hlinks, -, -, -, -, -, -, -, -, ha, hw, -, -⟩ := id h
  rw [hexec, pktIn_inOrder h (by rw [hty]; exact hmem)]
  refine congrArg Host.Outcome.next (winRun_takes (by omega) ?_ ?_ ?_ hself hempty htake hrest hrx hothers)
  · rw [hreceived.cfg]
    exact hlinks
  · rw [hreceived.hub, ha]
  · rw [hreceived.win, hw]


/-! ### What is left once the packet has gone (R395) -/

section
variable (w : State) (p : Nat)
theorem consumed_rd (o : Nat) : (consumed w p).rd o = w.rd o := rfl
theorem consumed_get (a : Nat) (f : Fld) : (consumed w p).get a f = w.get a f := rfl
theorem consumed_sync : (consumed w p).sync = w.sync := rfl
theorem consumed_win : (consumed w p).win = { w.win with held := [] } := rfl
theorem consumed_sent : (consumed w p).link.sent = w.link.sent := rfl
theorem consumed_results : (consumed w p).link.results = w.link.results := rfl
theorem consumed_ts : (consumed w p).link.ts = w.link.ts := rfl
/-- The ports but the buffer that has emptied. -/
theorem consumed_port : lkPort (consumed w p) p = { lkPort w p with rxq := [] } :=
  (lkPort_lport_self w p fun l => { l with rxq := [] } :)
theorem consumed_rxq : (lkPort (consumed w p) p).rxq = [] := by rw [consumed_port]
theorem consumed_outward (q : Nat) : (lkPort (consumed w p) q).replay = (lkPort w q).replay ∧ (lkPort (consumed w p) q).txq = (lkPort w q).txq := by
  by_cases hq : q = p
  · rw [hq, consumed_port]
    exact ⟨rfl, rfl⟩
  · have hport : lkPort (consumed w p) q = lkPort w q := (lkPort_lport_of_ne w (fun l => { l with rxq := [] }) hq :)
    rw [hport]
    exact ⟨rfl, rfl⟩
theorem consumed_expL : (lkPort (consumed w p) p).expL = (lkPort w p).expL ∧ (lkPort (consumed w p) p).rxFlits = (lkPort w p).rxFlits := by
  rw [consumed_port]
  exact ⟨rfl, rfl⟩
end

/-- The Hub's answers, the writes and registry records of the window unit, and the receive buffers are the same. -/
structure Still (s t : State) : Prop where
  hub : t.hub = s.hub
  arr : t.win.arr = s.win.arr
  records : t.win.records = s.win.records
  rxq : ∀ q, (lkPort t q).rxq = (lkPort s q).rxq
theorem Still.refl (s : State) : Still s s := ⟨rfl, rfl, rfl, fun _ => rfl⟩
theorem Still.trans {s t u : State} (h : Still s t) (k : Still t u) : Still s u :=
  ⟨k.hub.trans h.hub, k.arr.trans h.arr, k.records.trans h.records, fun q => (k.rxq q).trans (h.rxq q)⟩
theorem Emits.still {s t : State} (h : Emits s t) : Still s t := ⟨h.sends.hub, by rw [h.sends.win], by rw [h.sends.win], h.rxq⟩
theorem Still.of_link {s t : State} (hh : t.hub = s.hub) (hw : t.win = s.win) (hl : t.link = s.link) : Still s t :=
  ⟨hh, by rw [hw], by rw [hw], fun q => by rw [lkPort_congr hl]⟩
/-- A packet whose effect leaves the unit still leaves its buffer with it. -/
theorem packet_effect {ty : Nat} {f : Nat → Instr} (hf : (ty, f) ∈ packetKinds) {s v : State} {p : Nat} {pk : Packet} {rest : List Nat}
    (hty : pk.ptype = ty) (h : comesIn s p pk rest)
    (htake : takeHead (taken s p pk rest) p (stampIn s pk) = some (v.freeRx p (stampIn s pk))) (hstill : Still (taken s p pk rest) v) :
    ∃ w, Talks v w ∧ exec (f p) s = .next (consumed w p) := by
  have htalks := freeRx_talks v p (stampIn s pk)
  have hreceived := taken_received s p pk rest
  obtain ⟨hself, hempty⟩ := taken_rxq h
  obtain ⟨hp, hlinks, -, -, -, -, -, -, -, -, ha, hw, hr, -⟩ := id h
  have hstill' := hstill.trans htalks.emits.still
  refine ⟨_, htalks, packet_takes hf hty h htake ⟨?_, ?_, ?_⟩ (fun q hq hne => (hstill'.rxq q).trans (hempty q hq hne)) ((hstill'.rxq p).trans hself)⟩
  · rw [hstill'.hub, hreceived.hub, ha]
  · rw [hstill'.records, hreceived.win, hr]
  · rw [hstill'.arr, hreceived.win, hw]
    rfl
section
variable {s : State} (p : Nat) {pk : Packet} (h : s.win.arr = [])
include h
/-! With no write there to be sent, a packet goes by its type. -/
theorem takeHead_bwr (hty : pk.ptype = 1) : takeHead s p pk = bwrTake s p pk := by
  unfold takeHead
  rw [h, List.any_nil, if_neg (by decide), hty]
  rfl
theorem takeHead_twr (hty : pk.ptype = 2) : takeHead s p pk = twrTake s p pk := by
  unfold takeHead
  rw [h, List.any_nil, if_neg (by decide), hty]
  rfl
theorem takeHead_ntfy (hty : pk.ptype = 3) : takeHead s p pk = some ((ntfyTake s pk).freeRx p pk) := by
  unfold takeHead
  rw [h, List.any_nil, if_neg (by decide), hty]
  rfl
theorem takeHead_barr (hty : pk.ptype = 4) : takeHead s p pk = (barrTake s pk).map fun s => s.freeRx p pk := by
  unfold takeHead
  rw [h, List.any_nil, if_neg (by decide), hty]
  rfl
theorem takeHead_resp (hty : 4 < pk.ptype) : takeHead s p pk = some ((s.takeResp pk).freeRx p pk) := by
  unfold takeHead
  rw [h, List.any_nil, if_neg (by decide)]
  split
  · omega
  · omega
  · omega
  · omega
  · rfl
end

/-! ### A write of one part (R415, R419) -/

/-- The sending of a part keeps the link block and the window unit. -/
theorem sendPart_keepsLink (s : State) (a : Arrival) (part : Nat × Nat × Nat) : (s.sendPart a part).2.link = s.link ∧
    (s.sendPart a part).2.win = s.win ∧ (s.sendPart a part).2.cfg = s.cfg := by
  have hsent : ∀ x : Access, (s.sendAccess x).2.link = s.link ∧ (s.sendAccess x).2.win = s.win ∧ (s.sendAccess x).2.cfg = s.cfg := fun x => by
    have hstem := sendAccess_stemSent s x
    exact ⟨(congrArg State.link hstem :), (congrArg State.win hstem :), (congrArg State.cfg hstem :)⟩
  unfold State.sendPart
  dsimp only
  split
  · exact ⟨rfl, rfl, rfl⟩
  · split
    · exact ⟨rfl, rfl, rfl⟩
    · split
      · exact ⟨rfl, rfl, rfl⟩
      · exact hsent _
/-- The write that has been sent whole. -/
def partSent (u : State) (a : Arrival) : State := u.wnu fun w => { w with arr := [{ a with parts := [], go := 1 }] }
theorem wnu_congr {u : State} {f g : WinSt → WinSt} (h : f u.win = g u.win) : u.wnu f = u.wnu g := by
  unfold State.wnu
  rw [h]
theorem setArr_single {u : State} {a : Arrival} (h : u.win.arr = [a]) :
    u.setArr a.id (fun a => some { a with parts := [], go := a.go + 1 }) =
      u.wnu fun w => { w with arr := [{ a with parts := [], go := a.go + 1 }] } := by
  refine wnu_congr ?_
  rw [h, List.filterMap_cons, if_pos rfl]
  rfl
theorem sendParts_done {u : State} {a : Arrival} (h : u.win.arr = [a]) (hp : a.parts = []) (fuel : Nat) : u.sendParts a.id fuel = u := by
  cases fuel with
  | zero => rfl
  | succ fuel =>
    unfold State.sendParts
    rw [h, List.find?_cons_of_pos (by simp)]
    dsimp only
    rw [hp]
/-- A write of one part that its Hub takes is sent, and its flits leave the buffer. -/
theorem sendParts_single {s u : State} {a : Arrival} {part : Nat × Nat × Nat} (fuel : Nat) (harr : s.win.arr = [a]) (hparts : a.parts = [part])
    (hgo : a.go = 0) (hsend : s.sendPart a part = (true, u)) : s.sendParts a.id (fuel + 1) = (partSent u a).freeRx a.inp a.pk := by
  have hkeep := sendPart_keepsLink s a part
  rw [hsend] at hkeep
  obtain ⟨-, hwin, -⟩ := hkeep
  have huarr : u.win.arr = [a] := by rw [hwin, harr]
  have hset : u.setArr a.id (fun a => some { a with parts := [], go := a.go + 1 }) = partSent u a := by
    rw [setArr_single huarr, hgo]
    rfl
  have htalks := freeRx_talks (partSent u a) a.inp a.pk
  have hdone : ((partSent u a).freeRx a.inp a.pk).win.arr = [{ a with parts := [], go := 1 }] := by
    rw [htalks.sends.win]
    rfl
  have hstop := sendParts_done hdone rfl fuel
  unfold State.sendParts
  rw [harr, List.find?_cons_of_pos (by simp)]
  dsimp only
  rw [hparts]
  dsimp only
  rw [hsend]
  dsimp only
  rw [hset]
  exact hstop
theorem arrivalIn_single {s u : State} {p : Nat} {pk : Packet} {tid handle off n : Nat} {token : Option Nat} {part : Nat × Nat × Nat} {a : Arrival}
    (harr : s.win.arr = []) (ha : a = arrivalOf s p pk tid handle part token)
    (hcut : cutParts off n (pk.data / 256 ^ (off % 32)) = [part]) (hsend : (arrives s a).sendPart a part = (true, u)) :
    s.arrivalIn p pk tid handle off n token = (partSent u a).freeRx p pk := by
  have hin : s.arrivalIn p pk tid handle off n token = (arrives s a).sendParts a.id 32 := by
    unfold State.arrivalIn
    dsimp only
    rw [hcut, ha]
    exact congrArg (fun u : State => u.sendParts s.win.next 32) (wnu_congr (by
      rw [show (s.hubf fun h => { h with accCtr := h.accCtr + 1 }).win.arr = [] from harr]
      rfl))
  have hgo : a.go = 0 := by rw [ha]; rfl
  have hparts : a.parts = [part] := by rw [ha]; rfl
  have hplace : a.inp = p ∧ a.pk = pk := by rw [ha]; exact ⟨rfl, rfl⟩
  rw [hin, sendParts_single 31 rfl hparts hgo hsend, hplace.1, hplace.2]

end Sys2Proof.Machine

/-! PROOFS. What four packets do (spec/14_remote_access.md R426, spec/10_synchronisation.md R337, R338, spec/13_amiys_link.md R410). -/
namespace Sys2Proof.Machine

theorem stampIn_plain (s : State) {pk : Packet} (h : pk.ptype ≠ 12 ∧ pk.ptype ≠ 13) : stampIn s pk = pk := by
  unfold stampIn
  exact if_neg (by omega)
section
variable {s : State} {p : Nat} {pk : Packet} {rest : List Nat}

/-- The window unit that holds a packet that has come in holds no write. -/
theorem taken_arr (h : comesIn s p pk rest) : (taken s p pk rest).win.arr = [] := by
  obtain ⟨-, -, -, -, -, -, -, -, -, -, -, hw, -, -⟩ := h
  rw [(taken_received s p pk rest).win, hw]
/-- The registers outside the recorder's page and the LINK page are as they were. -/
theorem Received.get_far {t : State} (h : Received s t p pk rest) (a : Nat) (f : Fld) (ho : a + f.off < pgLINK) : t.get a f = s.get a f :=
  h.get a f ⟨.inl (Nat.lt_trans ho (by decide)), .inl ho⟩ (rxflAt_low p (Nat.lt_of_lt_of_le ho (by decide)))
/-- A RESP or CTRL packet, with what it does. -/
theorem resp_effect {ty : Nat} {f : Nat → Instr} (hf : (ty, f) ∈ packetKinds) (hty : pk.ptype = ty) (h4 : 4 < ty)
    (h : comesIn s p pk rest) {v : State}
    (hv : (taken s p pk rest).takeResp (stampIn s pk) = v) (hstill : Still (taken s p pk rest) v) :
    ∃ w, Talks v w ∧ exec (f p) s = .next (consumed w p) := by
  have hpt : (stampIn s pk).ptype = pk.ptype := by
    unfold stampIn
    split <;> rfl
  exact packet_effect hf hty h (by rw [takeHead_resp p (taken_arr h) (by omega), hv]) hstill

/-! ### Barriers (R337, R338) -/

/-- The waiters of a barrier answered: messages have gone to ports, and a wait is over. -/
theorem sw_still (u : State) (x : Nat) (m : SwMsg) : Still u (u.sw x m) := by
  unfold State.sw State.cond
  dsimp only
  split <;> split <;> exact .of_link rfl rfl rfl
theorem each_sw_still (l : List (Nat × Nat)) (m : SwMsg) (u : State) : Still u (u.each l fun u w => u.sw w.2 m) := by
  induction l generalizing u with
  | nil => exact .refl u
  | cons w l ih => exact (sw_still u w.2 m).trans (ih _)
theorem each_sw_sync (l : List (Nat × Nat)) (m : SwMsg) (u : State) : (u.each l fun u w => u.sw w.2 m).sync = u.sync :=
  State.each_of State.sync (fun u w => u.sw w.2 m) (fun u w => sw_sync u w.2 m) l u
theorem each_sw_same (l : List (Nat × Nat)) (m : SwMsg) (u : State) : syncSame u (u.each l fun u w => u.sw w.2 m) := by
  induction l generalizing u with
  | nil => exact fun _ _ _ => rfl
  | cons w l ih => exact syncSame_trans (sw_same u w.2 m) (ih _)
/-- What an answer to the waiters of barrier n leaves. -/
theorem answerWaiters_frame (u : State) (n : Nat) (m : SwMsg) : Still u (u.answerWaiters n m) ∧
    (u.answerWaiters n m).sync = { u.sync with waiters := u.sync.waiters.filter fun w => w.1 != n } ∧
    ∀ f : Fld, f.off ≠ SYNC_BAR_BWAIT → n < 64 → f.off < 0x1000 → barGet (u.answerWaiters n m) n f = barGet u n f := by
  unfold State.answerWaiters
  dsimp only
  refine ⟨?_, ?_, fun f hne hn hf => ?_⟩
  · have hbegun : Still u ((u.syn fun y => { y with waiters := y.waiters.filter fun w => w.1 != n }).barPut n SYNC_BAR_BWAIT_WAIT 0) :=
      .of_link rfl rfl rfl
    exact hbegun.trans (each_sw_still ..)
  · rw [each_sw_sync]
    rfl
  · have hsame := each_sw_same (u.sync.waiters.filter fun w => w.1 == n) m
      ((u.syn fun y => { y with waiters := y.waiters.filter fun w => w.1 != n }).barPut n SYNC_BAR_BWAIT_WAIT 0)
    exact (syncSame_bar hsame hn hf).trans (barGet_barPut_apart _ n 0 (by decide) (.inl (Ne.symm hne)))
/-- The released phase of a barrier ends. -/
theorem domRelease_frame (u : State) (n : Nat) (hn : n < 64) : Still u (u.domRelease n) ∧
    awaitsRelease (u.domRelease n) n = false ∧ (u.domRelease n).sync.waiters = u.sync.waiters.filter (fun w => w.1 != n) ∧
    barGet (u.domRelease n) n SYNC_BAR_BSTAT_PHASE = (barGet u n SYNC_BAR_BSTAT_PHASE + 1) % 16 ∧
    barGet (u.domRelease n) n SYNC_BAR_BSTAT_COUNT = barGet u n SYNC_BAR_BSTAT_COUNT ∧
    barGet (u.domRelease n) n SYNC_BAR_BCFG_EXPECT = barGet u n SYNC_BAR_BCFG_EXPECT := by
  obtain ⟨v, hv⟩ : ∃ v, v = u.syn fun y => { y with sent := y.sent.filter (· != n) } := ⟨_, rfl⟩
  obtain ⟨hstill, hsync, hbar⟩ := answerWaiters_frame v n ⟨3, 0, n, 0, barGet v n SYNC_BAR_BSTAT_PHASE, 0, 1, none⟩
  have hrelease : u.domRelease n = ((v.answerWaiters n ⟨3, 0, n, 0, barGet v n SYNC_BAR_BSTAT_PHASE, 0, 1, none⟩).barPut n SYNC_BAR_BSTAT_PHASE
      (barGet v n SYNC_BAR_BSTAT_PHASE + 1)).bump pgSYNCBAR (SYNC_BAR_BDONE_COUNT.at 16 n) := by
    rw [hv]
    rfl
  have hkeep : ∀ f, barGet v n f = barGet u n f := fun f => by rw [hv]; rfl
  have hvstill : Still u v := by rw [hv]; exact .of_link rfl rfl rfl
  have hvsent : v.sync.sent = u.sync.sent.filter (· != n) := by rw [hv]; rfl
  have hvwait : v.sync.waiters = u.sync.waiters := by rw [hv]; rfl
  rw [hrelease]
  generalize v.answerWaiters n _ = w at *
  have hbump : ∀ (x : State) (f : Fld), f.off ≠ SYNC_BAR_BDONE → barGet (x.bump pgSYNCBAR (SYNC_BAR_BDONE_COUNT.at 16 n)) n f = barGet x n f :=
    fun x f hf => barGet_barPut_apart x n _ (by decide) (.inl (Ne.symm hf))
  refine ⟨(hvstill.trans hstill).trans (.of_link rfl rfl rfl), ?_, ?_, ?_, ?_, ?_⟩
  · show w.sync.sent.contains n = false
    rw [hsync]
    show v.sync.sent.contains n = false
    rw [hvsent]
    simp
  · show w.sync.waiters = _
    rw [hsync, ← hvwait]
  · rw [hbump _ _ (by decide), hkeep]
    exact State.get_put_self w pgSYNCBAR _ _ (Fld.at_fits _ _ (by decide))
  · rw [hbump _ _ (by decide), barGet_barPut_apart _ _ _ (by decide) (by decide), hbar _ (by decide) hn (by decide), hkeep]
  · rw [hbump _ _ (by decide), barGet_barPut_apart _ _ _ (by decide) (by decide), hbar _ (by decide) hn (by decide), hkeep]
/-- A field of a barrier lies below the LINK page. -/
theorem barFld_low {n : Nat} {f : Fld} (hn : n < 64) (hf : f.off < 0x1000) : pgSYNCBAR + (f.at 16 n).off < pgLINK := by
  have hoff : (f.at 16 n).off = f.off + 16 * n := rfl
  rw [hoff]
  simp only [pgSYNCBAR, pgLINK]
  omega
theorem Received.bar {t : State} (h : Received s t p pk rest) {n : Nat} {f : Fld} (hn : n < 64) (hf : f.off < 0x1000) :
    barGet t n f = barGet s n f := h.get_far _ _ (barFld_low hn hf)
theorem Talks.bar {u w : State} (h : Talks u w) {n : Nat} {f : Fld} (hn : n < 64) (hf : f.off < 0x1000) : barGet w n f = barGet u n f :=
  h.get _ _ ⟨.inl (Nat.lt_trans (barFld_low hn hf) (by decide)), .inl (barFld_low hn hf)⟩
theorem pktBrel_releases {n : Nat} (hty : pk.ptype = 5) (h : comesIn s p pk rest) (hn : n = pk.h2 % 64) (hawaits : awaitsRelease s n = true)
    (hphase : barGet s n SYNC_BAR_BSTAT_PHASE = bits pk.h2 11 8) (hless : barGet s n SYNC_BAR_BSTAT_COUNT < barGet s n SYNC_BAR_BCFG_EXPECT) :
    ∃ t, exec (.pktBrel p) s = .next t ∧ barGet t n SYNC_BAR_BSTAT_PHASE = (barGet s n SYNC_BAR_BSTAT_PHASE + 1) % 16 ∧
      awaitsRelease t n = false ∧ t.sync.waiters = s.sync.waiters.filter (fun w => w.1 != n) ∧
      barGet t n SYNC_BAR_BSTAT_COUNT = barGet s n SYNC_BAR_BSTAT_COUNT ∧ (lkPort t p).rxq = [] := by
  have hn64 : n < 64 := by omega
  have hreceived := taken_received s p pk rest
  have hsync := hreceived.sync
  have hbar : ∀ f : Fld, f.off < 0x1000 → barGet (taken s p pk rest) n f = barGet s n f := fun f hf => hreceived.bar hn64 hf
  obtain ⟨hstill, hover, hwait, hph, hcount, hexpect⟩ := domRelease_frame (taken s p pk rest) n hn64
  have hphase16 : barGet s n SYNC_BAR_BSTAT_PHASE % 16 = bits pk.h2 11 8 := by
    rw [hphase]
    exact Nat.mod_mod _ _
  have hresp : (taken s p pk rest).takeResp (stampIn s pk) = (taken s p pk rest).domRelease n := by
    rw [stampIn_plain s (by omega)]
    unfold State.takeResp
    rw [hty]
    dsimp only
    have hawaits' : awaitsRelease (taken s p pk rest) n = true := by
      unfold awaitsRelease
      rw [hsync]
      exact hawaits
    rw [← hn, hawaits', hbar _ (by decide), hphase16, State.cond, if_pos (by simp)]
    exact barRun_waits 4096 (by rw [hcount, hexpect, hbar _ (by decide), hbar _ (by decide)]; exact hless)
  obtain ⟨w, htalks, hexec⟩ := resp_effect (ty := 5) (f := .pktBrel) (by simp [packetKinds]) hty (by decide) h hresp hstill
  have hwsync := htalks.sends.sync
  refine ⟨_, hexec, ?_, ?_, ?_, ?_, consumed_rxq w p⟩
  · exact ((htalks.bar hn64 (f := SYNC_BAR_BSTAT_PHASE) (by decide)).trans hph).trans (by rw [hbar _ (by decide)])
  · show w.sync.sent.contains n = false
    rw [hwsync]
    exact hover
  · rw [consumed_sync, hwsync, hwait, hsync]
  · exact ((htalks.bar hn64 (f := SYNC_BAR_BSTAT_COUNT) (by decide)).trans hcount).trans (hbar _ (by decide))
/-- A barrier aborted: its waiters are answered, its counts are 0, and it awaits no release. -/
theorem barAbort_frame (u : State) (n : Nat) (hn : n < 64) : Still u (u.barAbort n) ∧
    awaitsRelease (u.barAbort n) n = false ∧ (u.barAbort n).sync.waiters = u.sync.waiters.filter (fun w => w.1 != n) ∧
    barGet (u.barAbort n) n SYNC_BAR_BSTAT_COUNT = 0 ∧ barGet (u.barAbort n) n SYNC_BAR_BSTAT_DEVCNT = 0 ∧
    barGet (u.barAbort n) n SYNC_BAR_BSTAT_HELD = 0 ∧ barGet (u.barAbort n) n SYNC_BAR_BSTAT_PHASE = barGet u n SYNC_BAR_BSTAT_PHASE := by
  obtain ⟨hstill, hsync, hbar⟩ := answerWaiters_frame u n ⟨4, 0, n, 6, 0, 0, 1, none⟩
  have habort : u.barAbort n = ((((u.answerWaiters n ⟨4, 0, n, 6, 0, 0, 1, none⟩).barPut n SYNC_BAR_BSTAT_COUNT 0).barPut n
      SYNC_BAR_BSTAT_DEVCNT 0).barPut n SYNC_BAR_BSTAT_HELD 0).syn fun y => { y with sent := y.sent.filter (· != n) } := rfl
  rw [habort]
  generalize u.answerWaiters n _ = w at *
  have hsyn : ∀ (x : State) g f, barGet (x.syn g) n f = barGet x n f := fun _ _ _ => rfl
  refine ⟨hstill.trans (.of_link rfl rfl rfl), ?_, ?_, ?_, ?_, ?_, ?_⟩
  · show (w.sync.sent.filter (· != n)).contains n = false
    simp
  · show w.sync.waiters = _
    rw [hsync]
  · rw [hsyn, barGet_barPut_apart _ _ _ (by decide) (by decide), barGet_barPut_apart _ _ _ (by decide) (by decide)]
    exact barGet_barPut_self (by decide) (by decide)
  · rw [hsyn, barGet_barPut_apart _ _ _ (by decide) (by decide)]
    exact barGet_barPut_self (by decide) (by decide)
  · rw [hsyn]
    exact barGet_barPut_self (by decide) (by decide)
  · rw [hsyn, barGet_barPut_apart _ _ _ (by decide) (by decide), barGet_barPut_apart _ _ _ (by decide) (by decide),
      barGet_barPut_apart _ _ _ (by decide) (by decide), hbar _ (by decide) hn (by decide)]
theorem pktBabt_aborts {n : Nat} (hty : pk.ptype = 6) (h : comesIn s p pk rest) (hn : n = pk.h2 % 64) :
    ∃ t, exec (.pktBabt p) s = .next t ∧ barGet t n SYNC_BAR_BSTAT_COUNT = 0 ∧ barGet t n SYNC_BAR_BSTAT_DEVCNT = 0 ∧
      barGet t n SYNC_BAR_BSTAT_HELD = 0 ∧ awaitsRelease t n = false ∧ t.sync.waiters = s.sync.waiters.filter (fun w => w.1 != n) ∧
      barGet t n SYNC_BAR_BSTAT_PHASE = barGet s n SYNC_BAR_BSTAT_PHASE ∧ (lkPort t p).rxq = [] := by
  have hn64 : n < 64 := by omega
  have hreceived := taken_received s p pk rest
  obtain ⟨hstill, hover, hwait, hcount, hdev, hheld, hph⟩ := barAbort_frame (taken s p pk rest) n hn64
  have hresp : (taken s p pk rest).takeResp (stampIn s pk) = (taken s p pk rest).barAbort n := by
    rw [stampIn_plain s (by omega)]
    unfold State.takeResp
    rw [hty, hn]
    rfl
  obtain ⟨w, htalks, hexec⟩ := resp_effect (ty := 6) (f := .pktBabt) (by simp [packetKinds]) hty (by decide) h hresp hstill
  have hwsync := htalks.sends.sync
  have hbar : ∀ f : Fld, f.off < 0x1000 → barGet (consumed w p) n f = barGet ((taken s p pk rest).barAbort n) n f := fun f hf => htalks.bar hn64 hf
  refine ⟨_, hexec, (hbar _ (by decide)).trans hcount, (hbar _ (by decide)).trans hdev, (hbar _ (by decide)).trans hheld, ?_, ?_,
    ((hbar _ (by decide)).trans hph).trans (hreceived.bar hn64 (by decide)), consumed_rxq w p⟩
  · show w.sync.sent.contains n = false
    rw [hwsync]
    exact hover
  · rw [consumed_sync, hwsync, hwait, hreceived.sync]

/-! ### The time exchange (R410) -/

theorem stampIn_time (s : State) {pk : Packet} (h : pk.ptype = 12 ∨ pk.ptype = 13) : stampIn s pk = { pk with data := s.now } := by
  unfold stampIn
  exact if_pos h
/-- A port's block but TXFL, RXFL and DISC. -/
theorem portFld_off {p q : Nat} {f : Fld} (hq : q < 8) (hf : LINK_P_CTL ≤ f.off) (hf' : f.off < LINK_P_TXFL) :
    OffSend (pgLINK + (f.at 256 q).off) ∧ pgLINK + (f.at 256 q).off ≠ rxflAt p := by
  have hoff : (f.at 256 q).off = f.off + 256 * q := rfl
  have hat : rxflAt p = pgLINK + (LINK_P_RXFL + 256 * p) := rfl
  rw [hoff, hat]
  simp only [OffSend, pgLINK, pgREC, LINK_P_CTL, LINK_P_TXFL, LINK_P_RXFL, HDR_IRQ_STAT, LINK_NAK_LAST, LINK_NAK_CNT] at *
  omega
/-- The registers of the LINK page below the ports' blocks, but those that a NAK writes. -/
theorem Received.get_low {t : State} (h : Received s t p pk rest) {f : Fld} (hhi : f.off < LINK_P_CTL)
    (hne : f.off ≠ HDR_IRQ_STAT ∧ f.off ≠ LINK_NAK_LAST ∧ f.off ≠ LINK_NAK_CNT) : t.get pgLINK f = s.get pgLINK f := by
  refine h.get _ _ ?_ (rxflAt_low p (by omega))
  simp only [OffSend, pgLINK, pgREC, LINK_P_CTL, HDR_IRQ_STAT, LINK_NAK_LAST, LINK_NAK_CNT] at *
  omega
theorem Received.routeOf {t : State} (h : Received s t p pk rest) {dst : Nat} (hdst : dst < 128) : routeOf t dst = routeOf s dst := by
  have haddr : devAddr t = devAddr s := h.get_low (by decide) (by decide)
  have hvalid : t.flag pgLINK LINK_ENUM_STAT_ADDR_V = s.flag pgLINK LINK_ENUM_STAT_ADDR_V := State.flag_congr (h.get_low (by decide) (by decide))
  have hfwd : ∀ f : Fld, f.off = LINK_FWD → t.get pgLINK (f.at 4 dst) = s.get pgLINK (f.at 4 dst) := fun f hf => by
    have hoff : (f.at 4 dst).off = f.off + 4 * dst := rfl
    refine h.get_low ?_ ?_ <;> rw [hoff, hf] <;> simp only [LINK_FWD, LINK_P_CTL, HDR_IRQ_STAT, LINK_NAK_LAST, LINK_NAK_CNT] <;> omega
  have hport : s.get pgLINK (LINK_FWD_PORT.at 4 dst) < 8 := State.get_lt s pgLINK (LINK_FWD_PORT.at 4 dst)
  have hup : ∀ q < 8, lpState t q = lpState s q := fun q hq => by
    obtain ⟨hoff, hne⟩ := portFld_off (p := p) (f := LINK_P_STAT_STATE) hq (by decide) (by decide)
    exact h.get _ _ hoff hne
  unfold Sys2Proof.Machine.routeOf
  dsimp only
  have hentry := hfwd LINK_FWD_VALID rfl
  have hto := hfwd LINK_FWD_PORT rfl
  simp only [haddr, hvalid, hentry, hto, h.cfg, hup _ hport]
/-- The way of a packet of this device stays as it is while one comes in. -/
theorem Received.wayTo {t : State} (h : Received s t p pk rest) {dst q : Nat} (hway : wayTo s dst q) : wayTo t dst q := by
  obtain ⟨henum, hdev, hroute, hq, hmarks, htxq, hreplay, hsentC, hfarC⟩ := hway
  obtain ⟨ktxq, kreplay, ksentC, kfarC, kmarks⟩ := h.outward q
  have hstate : enumerated t = enumerated s := by
    unfold enumerated
    rw [h.get_low (by decide) (by decide)]
  have hdevs : devices t = devices s := h.get_low (by decide) (by decide)
  have hwidth : devices s < 128 := State.get_lt s pgLINK LINK_ENUM_STAT_DEVICES
  exact ⟨by rw [hstate, henum], by rw [hdevs]; exact hdev, by rw [h.routeOf (by omega), hroute], hq, by rw [kmarks, h.now]; exact hmarks,
    by rw [ktxq, htxq], by rw [kreplay, hreplay], by rw [ksentC, hsentC], by rw [kfarC, hfarC]⟩
/-- The answer to a TSREQ: t2 is its reception. -/
def tsAnswer (u : State) (pk : Packet) : Packet := { newPacket u 13 3 pk.src with h2 := pk.data % 2 ^ 32, h3 := pk.data / 2 ^ 32 % 2 ^ 32 }
theorem tsreq_resp (hty : pk.ptype = 12) : (taken s p pk rest).takeResp (stampIn s pk) = (taken s p pk rest).cond (isManager (taken s p pk rest))
    fun u => u.sendResp (tsAnswer u (stampIn s pk)) := by
  have hpt : (stampIn s pk).ptype = 12 := by
    rw [stampIn_time s (.inl hty)]
    exact hty
  unfold State.takeResp
  rw [hpt]
  rfl
theorem taken_manager : isManager (taken s p pk rest) = isManager s :=
  State.flag_congr ((taken_received s p pk rest).get_low (by decide) (by decide))
theorem pktTsreq_answers {q : Nat} (hty : pk.ptype = 12) (h : comesIn s p pk rest) (hman : isManager s = true) (hway : wayTo s pk.src q) :
    ∃ t, exec (.pktTsreq p) s = .next t ∧ (lkPort t p).rxq = [] ∧
      (lkPort t q).replay.map (fun x => (x.pk.ptype, x.pk.dst, x.pk.h2, x.pk.h3, x.pk.h4, x.pk.h5)) =
        [(13, pk.src, s.now % 2 ^ 32, s.now / 2 ^ 32 % 2 ^ 32, s.now % 2 ^ 32, s.now / 2 ^ 32 % 2 ^ 32)] := by
  have hreceived := taken_received s p pk rest
  have hstamp := stampIn_time s (pk := pk) (.inl hty)
  have hsrc : (tsAnswer (taken s p pk rest) (stampIn s pk)).dst = pk.src := by
    rw [hstamp]
    rfl
  have hresp := tsreq_resp (s := s) (p := p) (rest := rest) hty
  rw [taken_manager, hman, State.cond_true] at hresp
  obtain ⟨x, hx, hout⟩ := sendResp_wayTo (p := q) (pk := tsAnswer (taken s p pk rest) (stampIn s pk)) none
    (by rw [hsrc]; exact hreceived.wayTo hway) rfl (show 3 < 4 by decide)
  obtain ⟨w, htalks, hexec⟩ := resp_effect (ty := 12) (f := .pktTsreq) (by simp [packetKinds]) hty (by decide) h hresp
    (sendResp_emits ..).still
  refine ⟨_, hexec, consumed_rxq w p, ?_⟩
  rw [(consumed_outward w p q).1, htalks.replay q, hout.replay q, outAt_replay, List.map_cons, List.map_nil]
  rw [hreceived.now, hstamp] at hx
  have hpt : x.pk.ptype = 13 := (congrArg Packet.ptype hx :)
  have hdst : x.pk.dst = pk.src := (congrArg Packet.dst hx :)
  have hh2 : x.pk.h2 = s.now % 2 ^ 32 := (congrArg Packet.h2 hx :)
  have hh3 : x.pk.h3 = s.now / 2 ^ 32 % 2 ^ 32 := (congrArg Packet.h3 hx :)
  have hh4 : x.pk.h4 = s.now % 2 ^ 32 := (congrArg Packet.h4 hx :)
  have hh5 : x.pk.h5 = s.now / 2 ^ 32 % 2 ^ 32 := (congrArg Packet.h5 hx :)
  rw [hpt, hdst, hh2, hh3, hh4, hh5]
theorem pktTsreq_discarded (hty : pk.ptype = 12) (h : comesIn s p pk rest) (hman : isManager s = false) :
    ∃ t, exec (.pktTsreq p) s = .next t ∧ (lkPort t p).rxq = [] ∧ ∀ q, (lkPort t q).replay = (lkPort s q).replay ∧
      (lkPort t q).txq = (lkPort s q).txq := by
  have hreceived := taken_received s p pk rest
  have hresp := tsreq_resp (s := s) (p := p) (rest := rest) hty
  rw [taken_manager, hman] at hresp
  obtain ⟨w, htalks, hexec⟩ := resp_effect (ty := 12) (f := .pktTsreq) (by simp [packetKinds]) hty (by decide) h hresp (.refl _)
  refine ⟨_, hexec, consumed_rxq w p, fun q => ?_⟩
  obtain ⟨htxq, hreplay, -⟩ := hreceived.outward q
  obtain ⟨hcr, hct⟩ := consumed_outward w p q
  exact ⟨hcr.trans ((htalks.replay q).trans hreplay), hct.trans ((htalks.txq q).trans htxq)⟩

/-! ### A token write (R426) -/

theorem wnu_still (u : State) (f : WinSt → WinSt) (ha : (f u.win).arr = u.win.arr) (hr : (f u.win).records = u.win.records) : Still u (u.wnu f) :=
  ⟨rfl, ha, hr, fun _ => rfl⟩
theorem cond_still {u : State} (c : Bool) {f : State → State} (h : Still u (f u)) : Still u (u.cond c f) := by
  unfold State.cond
  split
  · exact h
  · exact .refl u
theorem nakTo_still (u : State) (cause : Nat) (pk : Packet) (tid : Option Nat) : Still u (u.nakTo cause pk tid) := by
  obtain ⟨hlink, hwin, hhub, -⟩ := countNak_frame u cause pk.src pk.dst pk.ptype
  exact (Still.of_link hhub hwin hlink).trans (nakTo_emits ..).still
theorem tokenRefused_still (u : State) (cause : Nat) (pk : Packet) : Still u (u.tokenRefused cause pk) := by
  unfold State.tokenRefused
  exact (nakTo_still ..).trans (cond_still _ (wnu_still _ _ rfl rfl))
theorem grant_still (u : State) (c n : Nat) : Still u (u.grant c n) := (sendResp_emits ..).still
/-- The first packet of a token leaves what the unit goes on with. -/
theorem tokenFirst_still (u : State) (pk : Packet) : Still u (u.tokenFirst pk) := by
  unfold State.tokenFirst
  split
  · exact tokenRefused_still ..
  · split
    · exact tokenRefused_still ..
    · dsimp only
      split
      · exact tokenRefused_still ..
      · split
        · exact tokenRefused_still ..
        · split
          · exact (tokenRefused_still ..).trans (grant_still ..)
          · refine Still.trans ?_ (wnu_still _ _ rfl rfl)
            exact .of_link rfl rfl rfl
theorem tokenBegun_still (u : State) (pk : Packet) : Still u (tokenBegun u pk) := by
  unfold tokenBegun
  split
  · exact (wnu_still u _ rfl rfl).trans (tokenFirst_still ..)
  · exact .refl u
/-- The token as the last of its packets marks it. -/
def tokenMarked (x : State) (k : Token) (pk : Packet) : State := x.setToken k.id fun t => { t with
  last := bit pk.h2 18, bad := if t.bad.isSome then t.bad else none, before := earlier x pk.src 1 }
theorem twrTake_writes {S F : State} {k : Token} (hwrites : tokenWrites S F pk k) : twrTake S p pk = some (tokenMarked
    (F.arrivalIn p pk k.tid (ringGet F k.ring SYNC_RING_RCFG0_HANDLE) (tokenAt F pk k) (pk.h4 % 512 + 1) (some k.id)) k pk) := by
  obtain ⟨hskip, hF, htoken, hbad, hline, hrefusal, hshare, hstop⟩ := hwrites
  have hfresh : (if bit pk.h2 19 then (S.wnu fun u => { u with skip := u.skip.filter (· != (pk.src, bits pk.h2 31 26)) }).tokenFirst pk else S) = F :=
    hF.symm
  unfold twrTake
  dsimp only
  have hkept : ¬ ((!bit pk.h2 19) = true ∧ S.win.skip.contains (pk.src, bits pk.h2 31 26) = true) := by
    rintro ⟨hlater, hkey⟩
    rcases hskip with hfirst | hnone
    · simp [hfirst] at hlater
    · rw [hnone] at hkey
      cases hkey
  rw [if_neg hkept, hfresh, htoken]
  dsimp only
  rw [if_neg (by simp [hbad]), if_neg (by omega), if_neg (by simp [hrefusal]), if_neg (by simp [hshare, hstop])]
  rfl
theorem pktTwr_writes {S F u : State} {part : Nat × Nat × Nat} {k : Token} {a : Arrival} (hty : pk.ptype = 2)
    (h : comesIn s p pk rest) (hS : S = taken s p pk rest) (hwrites : tokenWrites S F pk k)
    (ha : a = arrivalOf F p pk k.tid (ringGet F k.ring SYNC_RING_RCFG0_HANDLE) part (some k.id))
    (hcut : cutParts (tokenAt F pk k) (pk.h4 % 512 + 1) (pk.data / 256 ^ (tokenAt F pk k % 32)) = [part])
    (hsend : (arrives F a).sendPart a part = (true, u)) (hu : u.hub.answers = []) :
    ∃ t, exec (.pktTwr p) s = .next t ∧ t.win.arr = [{ a with parts := [], go := 1 }] ∧ t.hub = u.hub ∧ (lkPort t p).rxq = [] ∧
      t.win.tokens = F.win.tokens.map fun x => if x.id = k.id then { x with last := bit pk.h2 18, before := [a.id] } else x := by
  have hreceived := taken_received s p pk rest
  obtain ⟨hself, hempty⟩ := taken_rxq h
  obtain ⟨hp, hlinks, -, -, -, -, -, -, hclass, -, hans, hw, hr, -⟩ := id h
  have hcls : pk.cls = 1 := by
    unfold classOk at hclass
    rw [hty] at hclass
    exact beq_iff_eq.mp hclass
  have hstamp : stampIn s pk = pk := stampIn_plain s (by omega)
  have hF : Still S F := by
    obtain ⟨-, hF, -⟩ := hwrites
    rw [hF]
    exact tokenBegun_still S pk
  have hFarr : F.win.arr = [] := by rw [hF.arr, hS, hreceived.win, hw]
  have hrecords : F.win.records = [] := by rw [hF.records, hS, hreceived.win, hr]
  have hkeep := sendPart_keepsLink (arrives F a) a part
  rw [hsend] at hkeep
  obtain ⟨hulink, huwin, -⟩ := hkeep
  obtain ⟨x, hx⟩ : ∃ x, x = (partSent u a).freeRx p pk := ⟨_, rfl⟩
  have htalks := freeRx_talks (partSent u a) p pk
  rw [← hx] at htalks
  have hxwin : x.win = { (arrives F a).win with arr := [{ a with parts := [], go := 1 }] } := by
    rw [htalks.sends.win, ← huwin]
    rfl
  have hxhub : x.hub = u.hub := htalks.sends.hub
  have hxrxq : ∀ q, (lkPort x q).rxq = (lkPort S q).rxq := fun q => by
    have hq : lkPort (partSent u a) q = lkPort F q := lkPort_congr (s := F) (t := partSent u a) hulink q
    rw [htalks.rxq, hq, hF.rxq]
  have htake := twrTake_writes (p := p) hwrites
  rw [arrivalIn_single hFarr ha hcut hsend, ← hx] at htake
  have hearlier : earlier x pk.src 1 = [a.id] := by
    unfold earlier
    rw [hxwin]
    have hapk : a.pk = pk := by rw [ha]; rfl
    simp [hapk, hcls]
  have hexec := packet_takes (ty := 2) (f := .pktTwr) (by simp [packetKinds]) hty h (u := tokenMarked x k pk)
    (by rw [hstamp, takeHead_twr p (taken_arr h) hty, ← hS, htake]) ⟨?_, ?_, ?_⟩
    (fun q hq hne => (hxrxq q).trans (by rw [hS]; exact hempty q hq hne)) ((hxrxq p).trans (by rw [hS]; exact hself))
  · refine ⟨_, hexec, ?_, hxhub, consumed_rxq _ p, ?_⟩
    · exact (congrArg WinSt.arr hxwin :)
    · show x.win.tokens.map _ = _
      rw [hxwin, hearlier]
      refine List.map_congr_left fun y _ => ?_
      have hkept : (if y.bad.isSome then y.bad else none) = y.bad := by cases y.bad <;> rfl
      dsimp only
      rw [hkept]
  · exact (congrArg HubSt.answers hxhub :).trans hu
  · exact (congrArg WinSt.records hxwin :).trans hrecords
  · show x.win.arr.all _ = true
    rw [hxwin]
    rfl
end

/-- Settles O33: each packet lies in its buffer (`taken_received`), and leaves it with its effect (`packet_takes`). -/
theorem packetsAct : Obligations.PacketsAct := by
  exact ⟨fun s S F u p pk rest part k a => pktTwr_writes, fun s p n pk rest => pktBrel_releases, fun s p n pk rest => pktBabt_aborts,
    fun s p q pk rest => pktTsreq_answers, fun s p pk rest => pktTsreq_discarded⟩

end Sys2Proof.Machine

/-! PROOFS. What a packet does that arrives in order for this device (spec/13_amiys_link.md R390 to R399, spec/14_remote_access.md R415 to R436). -/
namespace Sys2Proof.Machine

/-- A packet that this device has sent to itself lies in the buffer of port 4. -/
def hereTaken (s : State) (pk : Packet) (rest : List Packet) : State :=
  (s.lnk fun l => { l with here := rest }).lport 4 fun l => { l with rxq := [stampIn s pk] }
theorem hereTaken_rxq (s : State) (pk : Packet) (rest : List Packet) : (lkPort (hereTaken s pk rest) 4).rxq = [stampIn s pk] ∧
    ∀ q, q ≠ 4 → (lkPort (hereTaken s pk rest) q).rxq = (lkPort s q).rxq := by
  refine ⟨?_, fun q hq => ?_⟩
  · rw [hereTaken, lkPort_lport_self]
  · rw [hereTaken, lkPort_lport_of_ne _ _ hq]
    rfl
/-- The command of its type takes in the packet that this device has sent to itself. -/
theorem pktIn_here {s : State} {pk : Packet} {rest : List Packet} {types : List Nat} (hhere : s.link.here = pk :: rest) (hidle : idleWin s)
    (hty : pk.ptype ∈ types) : pktIn 4 types s = .next (hereTaken s pk rest).winRun := by
  obtain ⟨-, -, -, hrx⟩ := hidle
  unfold pktIn
  rw [if_pos rfl, hhere]
  dsimp only
  rw [if_neg (by simpa using hty)]
  refine congrArg (fun u : State => Host.Outcome.next u.winRun) (lport_congr ?_)
  have hempty : (lkPort (s.lnk fun l => { l with here := rest }) 4).rxq = [] := hrx 4 (by decide)
  rw [hempty, List.nil_append]
theorem packet_here {ty : Nat} {f : Nat → Instr} (hf : (ty, f) ∈ packetKinds) {s u : State} {pk : Packet} {rest : List Packet}
    (hty : pk.ptype = ty) (hhere : s.link.here = pk :: rest) (hlinks : s.cfg.links ≠ 0) (hidle : idleWin s)
    (htake : takeHead (hereTaken s pk rest) 4 (stampIn s pk) = some u) (hrest : restful u)
    (hothers : ∀ q < 4, (lkPort u q).rxq = []) (hrx : (lkPort u 4).rxq = [stampIn s pk]) : exec (f 4) s = .next (consumed u 4) := by
  obtain ⟨types, hmem, hexec⟩ := packetKinds_exec hf
  obtain ⟨hself, hempty⟩ := hereTaken_rxq s pk rest
  rw [hexec, pktIn_here hhere hidle (by rw [hty]; exact hmem)]
  obtain ⟨ha, hw, -, hq⟩ := hidle
  exact congrArg Host.Outcome.next (winRun_takes (by decide) hlinks ha hw hself (fun q h5 hne => (hempty q hne).trans (hq q h5)) htake hrest hrx
    fun q h5 hne => hothers q (by omega))

section
variable {s : State} {p : Nat} {pk : Packet} {rest : List Nat}

/-! ### Bulk writes and notifies (R418, R419, R431) -/

theorem pktBwr_writes {u S : State} {tid : Nat} {part : Nat × Nat × Nat} {a : Arrival} (hty : pk.ptype = 1) (h : comesIn s p pk rest)
    (hS : S = taken s p pk rest) (hcheck : bwrCheck S pk = none) (htid : tid = winGet S (pk.h2 % 256) WINDOW_TAB_WIN_CFG0_TID)
    (hshare : shareFull S tid = false) (hstop : tidStopped S tid = false)
    (ha : a = arrivalOf S p pk tid (winGet S (pk.h2 % 256) WINDOW_TAB_WIN_CFG0_HANDLE) part none)
    (hcut : cutParts (512 * winGet S (pk.h2 % 256) WINDOW_TAB_WIN_CFG1_BASE + pk.h3 % 2 ^ 29) (pk.h4 % 512 + 1)
      (pk.data / 256 ^ ((512 * winGet S (pk.h2 % 256) WINDOW_TAB_WIN_CFG1_BASE + pk.h3 % 2 ^ 29) % 32)) = [part])
    (hsend : (arrives S a).sendPart a part = (true, u)) (hu : u.hub.answers = []) :
    ∃ t, exec (.pktBwr p) s = .next t ∧ t.win.arr = [{ a with parts := [], go := 1 }] ∧ t.hub = u.hub ∧ (lkPort t p).rxq = [] := by
  have hreceived := taken_received s p pk rest
  obtain ⟨hself, hempty⟩ := taken_rxq h
  have hSarr : S.win.arr = [] := by rw [hS]; exact taken_arr h
  obtain ⟨hp, hlinks, -, -, -, -, -, -, -, -, hans, hw, hr, -⟩ := id h
  have hrecords : S.win.records = [] := by rw [hS, hreceived.win, hr]
  have hstamp : stampIn s pk = pk := stampIn_plain s (by omega)
  have htake : bwrTake S p pk = some ((partSent u a).freeRx p pk) := by
    unfold bwrTake
    dsimp only
    rw [hcheck]
    dsimp only
    rw [← htid, if_neg (by simp [hshare, hstop]), arrivalIn_single hSarr ha hcut hsend]
  have hkeep := sendPart_keepsLink (arrives S a) a part
  rw [hsend] at hkeep
  obtain ⟨hulink, huwin, -⟩ := hkeep
  obtain ⟨x, hx⟩ : ∃ x, x = (partSent u a).freeRx p pk := ⟨_, rfl⟩
  have htalks := freeRx_talks (partSent u a) p pk
  rw [← hx] at htalks htake
  have hxwin : x.win = { (arrives S a).win with arr := [{ a with parts := [], go := 1 }] } := by
    rw [htalks.sends.win, ← huwin]
    rfl
  have hxhub : x.hub = u.hub := htalks.sends.hub
  have hxrxq : ∀ q, (lkPort x q).rxq = (lkPort S q).rxq := fun q => by
    have hq : lkPort (partSent u a) q = lkPort S q := lkPort_congr (s := S) (t := partSent u a) hulink q
    rw [htalks.rxq, hq]
  have hexec := packet_takes (ty := 1) (f := .pktBwr) (by simp [packetKinds]) hty h (u := x)
    (by rw [hstamp, takeHead_bwr p (taken_arr h) hty, ← hS, htake]) ⟨?_, ?_, ?_⟩
    (fun q hq hne => (hxrxq q).trans (by rw [hS]; exact hempty q hq hne)) ((hxrxq p).trans (by rw [hS]; exact hself))
  · exact ⟨_, hexec, (congrArg WinSt.arr hxwin :), hxhub, consumed_rxq _ p⟩
  · exact (congrArg HubSt.answers hxhub :).trans hu
  · exact (congrArg WinSt.records hxwin :).trans hrecords
  · rw [hxwin]
    rfl
theorem pktNtfy_holds (hty : pk.ptype = 3) (h : comesIn s p pk rest) (hcheck : ntfyCheck (taken s p pk rest) pk = none) :
    ∃ t, exec (.pktNtfy p) s = .next t ∧ t.win.fences = s.win.fences ++ [⟨pk, s.now, []⟩] ∧ (lkPort t p).expL = ((lkPort s p).expL + 1) % 4096 ∧
      (lkPort t p).rxFlits = rest := by
  have hreceived := taken_received s p pk rest
  have hstamp : stampIn s pk = pk := stampIn_plain s (by omega)
  have hearlier : earlier (taken s p pk rest) pk.src pk.cls = [] := by
    unfold earlier
    rw [taken_arr h]
    rfl
  have hhold : ntfyTake (taken s p pk rest) pk = (taken s p pk rest).wnu fun u => { u with fences := u.fences ++ [⟨pk, s.now, []⟩] } := by
    unfold ntfyTake
    rw [hcheck]
    dsimp only
    unfold State.holdFence
    rw [if_pos hty, hearlier, hreceived.now]
  obtain ⟨w, htalks, hexec⟩ := packet_effect (ty := 3) (f := .pktNtfy) (by simp [packetKinds]) hty h
    (by rw [hstamp, takeHead_ntfy p (taken_arr h) hty, hhold]) (wnu_still _ _ rfl rfl)
  refine ⟨_, hexec, ?_, ?_, ?_⟩
  · rw [consumed_win, htalks.sends.win, ← hreceived.win]
    rfl
  · rw [(consumed_expL w p).1, htalks.expL]
    exact hreceived.expL
  · rw [(consumed_expL w p).2, htalks.rxFlits]
    exact hreceived.rxFlits

/-! ### Arrivals at a domain barrier (R337) -/

theorem arrivalCounted_still (u : State) (n src : Nat) : Still u (arrivalCounted u n src) := .of_link rfl rfl rfl
theorem pktBarr_counts {n : Nat} (hty : pk.ptype = 4) (h : comesIn s p pk rest) (hgood : barrGood (taken s p pk rest) pk = true)
    (hmet : fenceMet s pk = true) (hn : n = pk.h2 % 64) (hless : barGet s n SYNC_BAR_BSTAT_DEVCNT + 1 < barGet s n SYNC_BAR_BCFG_DEVS) :
    ∃ t, exec (.pktBarr p) s = .next t ∧ barGet t n SYNC_BAR_BSTAT_DEVCNT = barGet s n SYNC_BAR_BSTAT_DEVCNT + 1 ∧
      t.sync.arrived = s.sync.arrived ++ [(n, pk.src)] := by
  have hn64 : n < 64 := by omega
  have hreceived := taken_received s p pk rest
  have hstamp : stampIn s pk = pk := stampIn_plain s (by omega)
  have hbar : ∀ f : Fld, f.off < 0x1000 → barGet (taken s p pk rest) n f = barGet s n f := fun f hf => hreceived.bar hn64 hf
  have hmet' : fenceMet (taken s p pk rest) pk = true := by
    unfold fenceMet landedOf
    rw [hreceived.win]
    exact hmet
  obtain ⟨hon, hdom, hphase⟩ : barOn (taken s p pk rest) n = true ∧ barGet (taken s p pk rest) n SYNC_BAR_BCFG_DOMAIN = 1 ∧
      barGet (taken s p pk rest) n SYNC_BAR_BSTAT_PHASE % 16 = bits pk.h2 11 8 := by
    unfold barrGood at hgood
    rw [← hn] at hgood
    simp only [Bool.and_eq_true, beq_iff_eq] at hgood
    exact ⟨hgood.1.1.2, hgood.1.2, hgood.2⟩
  have hless' : barGet (taken s p pk rest) n SYNC_BAR_BSTAT_DEVCNT + 1 < barGet (taken s p pk rest) n SYNC_BAR_BCFG_DEVS := by
    rw [hbar _ (by decide), hbar _ (by decide)]
    exact hless
  have htake : barrTake (taken s p pk rest) pk = some (arrivalCounted (taken s p pk rest) n pk.src) := by
    unfold barrTake
    rw [hgood, hmet', if_neg (by decide), if_pos rfl, countBarr_counts hn hon hdom hphase hless']
  obtain ⟨w, htalks, hexec⟩ := packet_effect (ty := 4) (f := .pktBarr) (by simp [packetKinds]) hty h
    (by rw [hstamp, takeHead_barr p (taken_arr h) hty, htake]; rfl) (arrivalCounted_still ..)
  refine ⟨_, hexec, ?_, ?_⟩
  · exact ((htalks.bar hn64 (f := SYNC_BAR_BSTAT_DEVCNT) (by decide)).trans (arrivalCounted_count hless')).trans (by rw [hbar _ (by decide)])
  · rw [consumed_sync, htalks.sends.sync, arrivalCounted_arrived, hreceived.sync]

/-! ### Answers (R430, R434, R435) -/

theorem closeTag_still (u : State) (etag : Nat) (nak : Option Nat) : Still u (u.closeTag etag nak) := by
  unfold State.closeTag
  split
  · exact .refl u
  · exact ⟨rfl, rfl, rfl, fun _ => rfl⟩
/-- A packet that answers another ends its wait. -/
theorem answer_closes {ty tag : Nat} {f : Nat → Instr} {e : SentPk} {nak : Option Nat} (hf : (ty, f) ∈ packetKinds)
    (hty : pk.ptype = ty) (h4 : 4 < ty)
    (h : comesIn s p pk rest) (hresp : (taken s p pk rest).takeResp (stampIn s pk) = (taken s p pk rest).closeTag tag nak)
    (hfind : (s.link.sent.find? fun e => e.etag == tag) = some e) (hwho : e.who ≠ .other) :
    ∃ t, exec (f p) s = .next t ∧ t.link.sent = s.link.sent.filter (fun e => e.etag != tag) ∧ t.link.results = s.link.results ++ [(e.who, nak)] := by
  have hreceived := taken_received s p pk rest
  obtain ⟨hsent, hresults⟩ := closeTag_closes (s := taken s p pk rest) nak (by rw [hreceived.sent]; exact hfind) hwho
  obtain ⟨w, htalks, hexec⟩ := resp_effect hf hty h4 h hresp (closeTag_still ..)
  refine ⟨_, hexec, ?_, ?_⟩
  · rw [consumed_sent, htalks.sent, hsent, hreceived.sent]
  · rw [consumed_results, htalks.results, hresults, hreceived.results]
theorem pktLack_closes {tag : Nat} {e : SentPk} (hty : pk.ptype = 8) (h : comesIn s p pk rest) (hn : pk.h6 = 1)
    (htag : pk.h2 = tag) (hlt : tag < 2 ^ 16)
    (hfind : (s.link.sent.find? fun e => e.etag == tag) = some e) (hwho : e.who ≠ .other) :
    ∃ t, exec (.pktLack p) s = .next t ∧ t.link.sent = s.link.sent.filter (fun e => e.etag != tag) ∧
      t.link.results = s.link.results ++ [(e.who, none)] := by
  have hfirst : ∀ x, x % 2 ^ 16 = tag → (elems 16 8 x).take (1 % 16) = [tag] := fun x hx => by
    show [x >>> (16 * 0) % 2 ^ 16] = _
    rw [Nat.shiftRight_zero, hx]
  refine answer_closes (ty := 8) (f := .pktLack) (by simp [packetKinds]) hty (by decide) h ?_ hfind hwho
  rw [stampIn_plain s (by omega)]
  unfold State.takeResp
  rw [hty]
  dsimp only
  rw [hn, hfirst _ (by omega)]
  rfl
theorem pktNak_closes {e : SentPk} (hty : pk.ptype = 9) (h : comesIn s p pk rest) (hfind : (s.link.sent.find? fun e => e.etag == pk.etag) = some e)
    (hwho : e.who ≠ .other) : ∃ t, exec (.pktNak p) s = .next t ∧ t.link.sent = s.link.sent.filter (fun e => e.etag != pk.etag) ∧
      t.link.results = s.link.results ++ [(e.who, some (pk.h2 % 256))] := by
  refine answer_closes (ty := 9) (f := .pktNak) (by simp [packetKinds]) hty (by decide) h ?_ hfind hwho
  rw [stampIn_plain s (by omega)]
  unfold State.takeResp
  rw [hty]
  rfl
theorem pktCgrant_adds {a : Nat} (hty : pk.ptype = 10) (h : comesIn s p pk rest) (ha : a = bits pk.h2 31 26)
    (hvalid : s.flag pgMOVER (MOVER_CA_CFG_VALID.at 8 a) = true) (hdev : s.get pgMOVER (MOVER_CA_CFG_DEV.at 8 a) = pk.src) :
    ∃ t, exec (.pktCgrant p) s = .next t ∧ t.get pgMOVER (MOVER_CA_CRED_CREDITS.at 8 a) =
      min (s.get pgMOVER (MOVER_CA_CRED_CREDITS.at 8 a) + pk.h2 % 2 ^ 16) (2 ^ 16 - 1) := by
  have ha64 : a < 64 := by
    rw [ha]
    exact Nat.mod_lt _ (by decide)
  have hreceived := taken_received s p pk rest
  have hlow : ∀ f : Fld, f.off < 0x1000 → pgMOVER + (f.at 8 a).off < pgLINK := fun f hf => by
    have hoff : (f.at 8 a).off = f.off + 8 * a := rfl
    rw [hoff]
    simp only [pgMOVER, pgLINK]
    omega
  have hvalid' : (taken s p pk rest).flag pgMOVER (MOVER_CA_CFG_VALID.at 8 a) = true := by
    rw [← hvalid]
    exact State.flag_congr (hreceived.get_far _ _ (hlow _ (by decide)))
  have hdev' : (taken s p pk rest).get pgMOVER (MOVER_CA_CFG_DEV.at 8 a) = pk.src := (hreceived.get_far _ _ (hlow _ (by decide))).trans hdev
  have hresp : (taken s p pk rest).takeResp (stampIn s pk) =
      (taken s p pk rest).bumpSat pgMOVER (MOVER_CA_CRED_CREDITS.at 8 a) (pk.h2 % 2 ^ 16) := by
    rw [stampIn_plain s (by omega)]
    unfold State.takeResp
    rw [hty]
    dsimp only
    rw [← ha, hvalid', hdev', if_pos (by simp)]
    rfl
  obtain ⟨w, htalks, hexec⟩ := resp_effect (ty := 10) (f := .pktCgrant) (by simp [packetKinds]) hty (by decide) h hresp (.of_link rfl rfl rfl)
  refine ⟨_, hexec, ?_⟩
  have hcred := hlow MOVER_CA_CRED_CREDITS (by decide)
  have hkeep : (taken s p pk rest).get pgMOVER (MOVER_CA_CRED_CREDITS.at 8 a) = s.get pgMOVER (MOVER_CA_CRED_CREDITS.at 8 a) :=
    hreceived.get_far _ _ hcred
  rw [consumed_get, htalks.get _ _ ⟨.inl (Nat.lt_trans hcred (by decide)), .inl hcred⟩, ← hkeep]
  exact State.get_bumpSat_self _ _ _ _ (Fld.at_fits _ _ (by decide))

/-! ### Domain time (R410) -/

/-- The offset set, and the exchange over. -/
def timeSet (u : State) (v : Nat) : State := (u.put64 (pgLINK + LINK_DT_OFS_LO) (pgLINK + LINK_DT_OFS_HI) v).lnk fun l => { l with ts := none }
theorem timeSet_still (u : State) (v : Nat) : Still u (timeSet u v) := ⟨rfl, rfl, rfl, fun _ => rfl⟩
theorem timeSet_ts (u : State) (v : Nat) : (timeSet u v).link.ts = none := rfl
theorem timeSet_low (u : State) (v : Nat) : ((timeSet u v).rd (pgLINK + LINK_DT_OFS_LO)).toNat = v % 2 ^ 32 := by
  have hput : (timeSet u v).rd (pgLINK + LINK_DT_OFS_LO) = BitVec.ofNat 32 v :=
    (State.rd_wr_of_ne (u.wr (pgLINK + LINK_DT_OFS_LO) (BitVec.ofNat 32 v)) _ (by decide)).trans (State.rd_wr_self ..)
  rw [hput, BitVec.toNat_ofNat]
theorem pktTsrsp_sets {t1 tm : Nat} (hty : pk.ptype = 13) (h : comesIn s p pk rest) (hts : s.link.ts = some (t1, tm)) :
    ∃ t, exec (.pktTsrsp p) s = .next t ∧ t.link.ts = none ∧ (t.rd (pgLINK + LINK_DT_OFS_LO)).toNat =
      dtOffset t1 (pk.h2 % 2 ^ 32 + 2 ^ 32 * (pk.h3 % 2 ^ 32)) (pk.h4 % 2 ^ 32 + 2 ^ 32 * (pk.h5 % 2 ^ 32)) s.now % 2 ^ 32 := by
  have hreceived := taken_received s p pk rest
  have hresp : (taken s p pk rest).takeResp (stampIn s pk) = timeSet (taken s p pk rest)
      (dtOffset t1 (pk.h2 % 2 ^ 32 + 2 ^ 32 * (pk.h3 % 2 ^ 32)) (pk.h4 % 2 ^ 32 + 2 ^ 32 * (pk.h5 % 2 ^ 32)) s.now) := by
    rw [stampIn_time s (.inr hty)]
    unfold State.takeResp
    rw [hty]
    dsimp only
    rw [hreceived.ts, hts]
    rfl
  obtain ⟨w, htalks, hexec⟩ := resp_effect (ty := 13) (f := .pktTsrsp) (by simp [packetKinds]) hty (by decide) h hresp (timeSet_still ..)
  refine ⟨_, hexec, ?_, ?_⟩
  · rw [consumed_ts, htalks.ts, timeSet_ts]
  · rw [consumed_rd, htalks.low _ (by decide), timeSet_low]
end

/-- Settles O27: a packet that has come in lies in its buffer alone (`taken_received`), and the run of the unit takes it (`winRun_takes`). -/
theorem packetsTaken : Obligations.PacketsTaken := by
  refine ⟨fun ty f hf s u p pk rest hty h htake hrest _ hothers hrx => packet_takes hf hty h htake hrest hothers hrx,
    fun ty f hf s S u pk rest hty hhere hlinks hidle hS htake hrest _ hothers hrx => ?_, fun s u p tid pk rest part S a => pktBwr_writes,
    fun s p pk rest => pktNtfy_holds, fun s p n pk rest => pktBarr_counts, fun s p pk rest tag e => pktLack_closes,
    fun s p pk rest e => pktNak_closes, fun s p a pk rest => pktCgrant_adds, fun s p t1 tm pk rest => pktTsrsp_sets⟩
  exact packet_here hf hty hhere hlinks hidle (by rw [← htake, hS]; rfl) hrest hothers hrx

end Sys2Proof.Machine

/-! PROOFS. Control blocks and codewords that a link port receives (spec/13_amiys_link.md R385 to R388, R395 to R398, R403 to R405). -/
namespace Sys2Proof.Machine

/-! ### A control block is taken (R388) -/

/-- The state in which port p has heard its oldest control block, with `rest` behind it. -/
def State.heardBlock (s : State) (p : Nat) (rest : List Nat) : State :=
  (s.lport p fun l => { l with rxCtl := rest }).lport p fun l => { l with heard := s.now }
theorem heardBlock_port (s : State) (p : Nat) (rest : List Nat) :
    lkPort (s.heardBlock p rest) p = { lkPort s p with rxCtl := rest, heard := s.now } := by
  unfold State.heardBlock
  rw [lkPort_lport_self, lkPort_lport_self]
theorem lpGet_heardBlock (s : State) (p q : Nat) (rest : List Nat) (f : Fld) : lpGet (s.heardBlock p rest) q f = lpGet s q f := rfl
theorem hears_lt {s : State} {p : Nat} (h : hears s p = true) : p < 4 := by
  unfold hears at h
  rw [Bool.and_eq_true] at h
  obtain ⟨hp, -⟩ := h
  exact of_decide_eq_true hp

/-- The kinds that a command of control blocks takes: the reserved ones count as IDLE. -/
def cbKinds : Nat → List Nat
  | 0 => [0, 6, 7, 8, 9, 10, 11, 12, 13, 14, 15]
  | k => [k]
section
variable {s : State} {p k b : Nat} {rest : List Nat} (h : cbFirst s p k b rest)
include h
theorem cbKinds_contains : (cbKinds k).contains (cbType b) = true := by
  obtain ⟨-, -, hk⟩ := h
  have hlt : cbType b < 16 := Nat.mod_lt _ (by decide)
  rw [← hk]
  generalize cbType b = n at *
  interval_cases n <;> decide
theorem cbFront_first : cbFront s p (cbKinds k) = some (b, rest) := by
  have hkind := cbKinds_contains h
  obtain ⟨hears, hctl, -⟩ := h
  unfold cbFront
  rw [hctl]
  dsimp only
  rw [hears, hkind]
  rfl
theorem onBlock_sound {kinds : List Nat} (hk : kinds = cbKinds k) (hb : cbSound b = true) (act : State → Nat → State) :
    onBlock p kinds s act = .next (act (s.heardBlock p rest) (cbData b)) := by
  rw [hk]
  unfold onBlock
  rw [cbFront_first h]
  dsimp only
  rw [if_pos hb]
  rfl
theorem onBlock_spoiled {kinds : List Nat} (hk : kinds = cbKinds k) (hb : cbSound b = false) (act : State → Nat → State) :
    onBlock p kinds s act = .next (s.lport p fun l => { l with rxCtl := rest }) := by
  rw [hk]
  unfold onBlock
  rw [cbFront_first h]
  dsimp only
  rw [if_neg (by rw [hb]; decide)]
end

/-- Where nothing waits to be sent, nothing is. -/
theorem pumpAll_idle (s : State) (p : Nat) (h : (lkPort s p).txq = []) : s.pumpAll p = s := by
  unfold State.pumpAll
  rw [h]
  rfl

/-! ### IDLE and LINK (R388, R395, R397) -/

section
variable {s : State} {p b : Nat} {rest : List Nat}

theorem cbIdle_heard (h : cbFirst s p 0 b rest) (hb : cbSound b = true) :
    ∃ t, exec (.cbIdle p) s = .next t ∧ lkPort t p = { lkPort s p with rxCtl := rest, heard := s.now } ∧ t.regs = s.regs :=
  ⟨s.heardBlock p rest, onBlock_sound h (kinds := cbKinds 0) rfl hb fun s _ => s, heardBlock_port .., rfl⟩
theorem cbLink_frees (h : cbFirst s p 1 b rest) (hb : cbSound b = true) {ack : Nat} {x : LinkTx} {l : List LinkTx} (hq : (lkPort s p).txq = [])
    (hr : (lkPort s p).replay = x :: l) (hack : ack = cbData b % 4096) (hn : (ack + 4097 - x.pk.lseq) % 4096 ≤ l.length + 1) :
    ∃ t, exec (.cbLink p) s = .next t ∧ (lkPort t p).farC = elems 12 8 (cbData b / 4096) ∧
      (lkPort t p).replay = (x :: l).drop ((ack + 4097 - x.pk.lseq) % 4096) ∧ (lkPort t p).heard = s.now := by
  show ∃ t, execCbLink p s = .next t ∧ _
  unfold execCbLink
  rw [onBlock_sound h (kinds := [1]) rfl hb]
  refine ⟨_, rfl, ?_⟩
  dsimp only
  rw [pumpAll_idle _ _ (by rw [lkPort_lport_self, heardBlock_port]; exact hq), lkPort_lport_self, heardBlock_port]
  dsimp only
  rw [hr]
  dsimp only
  rw [← hack, if_pos (show _ ≤ (x :: l).length from hn)]
  exact ⟨rfl, rfl, rfl⟩
end

/-! ### RETRY (R398) -/

theorem sendCb_sansLink (s : State) (p k v : Nat) : (s.sendCb p k v).sansLink = s.sansLink := by
  by_cases h : hears s p = true
  · exact (sendCb_sends s p k v h).1
  · unfold State.sendCb State.cond
    rw [if_neg h]
theorem sendLink_sansLink (s : State) (p : Nat) : (s.sendLink p).sansLink = s.sansLink := by
  unfold State.sendLink
  dsimp only
  split
  · rfl
  · exact sendCb_sansLink ..
/-- The flits of a packet sent are counted at the port. -/
theorem flitsSent_counts (s : State) (p : Nat) (x : LinkTx) :
    lpGet (s.flitsSent p x) p LINK_P_TXFL_COUNT = (lpGet s p LINK_P_TXFL_COUNT + x.pk.flits) % 2 ^ 32 := by
  have hcount : lpGet (s.bump pgLINK (LINK_P_TXFL_COUNT.at 256 p) x.pk.flits) p LINK_P_TXFL_COUNT =
      (lpGet s p LINK_P_TXFL_COUNT + x.pk.flits) % 2 ^ 32 := lpGet_put_self _ _ _ _ (by decide)
  unfold State.flitsSent
  dsimp only
  generalize s.bump pgLINK (LINK_P_TXFL_COUNT.at 256 p) x.pk.flits = u at *
  have hblocks : (u.sendBlocks p x.pk.flits (packetBlocks x.pk)).sansLink = u.sansLink := (coderStep_sendBlocks p _ _ u).1
  generalize u.sendBlocks p x.pk.flits (packetBlocks x.pk) = v at *
  have hlink : (v.cond (lkPort v p).linkDue fun s => s.sendLink p).sansLink = u.sansLink := by
    unfold State.cond
    split
    · exact (sendLink_sansLink v p).trans hblocks
    · exact hblocks
  generalize (v.cond (lkPort v p).linkDue fun s => s.sendLink p) = w at *
  have hw : lpGet w p LINK_P_TXFL_COUNT = (lpGet s p LINK_P_TXFL_COUNT + x.pk.flits) % 2 ^ 32 := (lpGet_of_sansLink hlink ..).trans hcount
  split
  · exact hw
  · split <;> exact hw
/-- Packets sent again: their flits are counted, and what is queued stays. -/
theorem sentAgain {p : Nat} (hp : p < 8) (l : List LinkTx) (s : State) :
    Talks s (s.each l fun s x => s.flitsSent p x) ∧
      lpGet (s.each l fun s x => s.flitsSent p x) p LINK_P_TXFL_COUNT = (lpGet s p LINK_P_TXFL_COUNT + (l.map fun x => x.pk.flits).sum) % 2 ^ 32 := by
  induction l generalizing s with
  | nil =>
    refine ⟨.refl s, ?_⟩
    exact (Nat.mod_eq_of_lt (State.get_lt s pgLINK (LINK_P_TXFL_COUNT.at 256 p))).symm
  | cons x l ih =>
    obtain ⟨htalks, hcount⟩ := ih (s.flitsSent p x)
    refine ⟨(flitsSent_talks s x hp).trans htalks, ?_⟩
    refine hcount.trans ?_
    rw [flitsSent_counts, List.map_cons, List.sum_cons, Nat.mod_add_mod, Nat.add_assoc]

theorem cbRetry_sends {s : State} {p b : Nat} {rest : List Nat} (h : cbFirst s p 2 b rest) (hb : cbSound b = true) (hq : (lkPort s p).txq = []) :
    ∃ t, exec (.cbRetry p) s = .next t ∧ (lkPort t p).replay = (lkPort s p).replay ∧
      lpGet t p LINK_P_REPLAY_COUNT = min (lpGet s p LINK_P_REPLAY_COUNT + 1) (2 ^ 32 - 1) ∧
      lpGet t p LINK_P_TXFL_COUNT = (lpGet s p LINK_P_TXFL_COUNT + if lpState s p = 3 then 0
        else (((lkPort s p).replay.dropWhile fun x => x.pk.lseq != cbData b % 4096).map fun x => x.pk.flits).sum) % 2 ^ 32 := by
  have hp : p < 4 := hears_lt h.1
  show ∃ t, execCbRetry p s = .next t ∧ _
  unfold execCbRetry
  rw [onBlock_sound h (kinds := [2]) rfl hb]
  refine ⟨_, rfl, ?_⟩
  dsimp only
  obtain ⟨u, hu⟩ : ∃ u, u = (s.heardBlock p rest).bumpSat pgLINK (LINK_P_REPLAY_COUNT.at 256 p) := ⟨_, rfl⟩
  have hport : lkPort u p = { lkPort s p with rxCtl := rest, heard := s.now } := by
    rw [hu]
    exact heardBlock_port ..
  have hcount : lpGet u p LINK_P_REPLAY_COUNT = min (lpGet s p LINK_P_REPLAY_COUNT + 1) (2 ^ 32 - 1) := by
    rw [hu]
    exact State.get_bumpSat_self _ _ (LINK_P_REPLAY_COUNT.at 256 p) 1 (Fld.at_fits _ _ (by decide))
  have hstate : lpState u p = lpState s p := by
    rw [hu]
    exact lpGet_bumpSat_apart (s.heardBlock p rest) p (g := LINK_P_STAT_STATE) 1 (by decide) (.inl (by decide))
  have hflits : lpGet u p LINK_P_TXFL_COUNT = lpGet s p LINK_P_TXFL_COUNT := by
    rw [hu]
    exact lpGet_bumpSat_apart (s.heardBlock p rest) p (g := LINK_P_TXFL_COUNT) 1 (by decide) (.inl (by decide))
  simp only [← hu]
  clear hu
  have hreplay : (lkPort u p).replay = (lkPort s p).replay := by rw [hport]
  by_cases hinit : lpState s p = 3
  · rw [hstate, hinit]
    refine ⟨hreplay, hcount, ?_⟩
    exact (Nat.mod_eq_of_lt (State.get_lt u pgLINK (LINK_P_TXFL_COUNT.at 256 p))).symm.trans (by rw [if_pos rfl]; exact congrArg (· % 2 ^ 32) hflits)
  · obtain ⟨htalks, hsent⟩ := sentAgain (show p < 8 by omega) ((lkPort u p).replay.dropWhile fun x => x.pk.lseq != cbData b % 4096) u
    rw [hreplay] at htalks hsent
    rw [hstate, hreplay, show (lpState s p != 3) = true by simpa using hinit, State.cond_true,
      pumpAll_idle _ _ (by rw [htalks.txq, hport]; exact hq), htalks.replay, hsent, hflits, if_neg hinit]
    refine ⟨hreplay, ?_, rfl⟩
    rw [← hcount]
    refine (htalks.get pgLINK (LINK_P_REPLAY_COUNT.at 256 p) ?_)
    have hoff : (LINK_P_REPLAY_COUNT.at 256 p).off = 0x418 + 256 * p := rfl
    rw [hoff]
    simp only [OffSend, pgLINK, pgREC, LINK_P_CTL, HDR_IRQ_STAT, LINK_NAK_LAST, LINK_NAK_CNT]
    omega

/-! ### LANE_DROP and LANE_SWITCH (R405) -/

/-- The transmitter goes on with fewer lanes, which it tells the far side, and sends markers for 10 µs. -/
theorem lanesKept {u : State} {p : Nat} (keep : Nat) (hh : hears u p = true) :
    let t := ((u.sendCb p 4 keep).sendMarks p).lport p fun l => { l with marksTo := u.now + 10 * usTicks }
    (∀ f, lpGet t p f = lpGet u p f) ∧ Sp.get 0 (lkPort t p).cbOut 4 = controlBlock 4 keep ∧ (lkPort t p).marksTo = u.now + 10 * usTicks := by
  intro t
  obtain ⟨hsans, -, hout⟩ := sendCb_sends u p 4 keep hh
  obtain ⟨hmarks, -, hsame⟩ := coderStep_sendMarks (u.sendCb p 4 keep) p
  have hall := hmarks.trans hsans
  refine ⟨fun f => lpGet_of_sansLink hall p f, ?_, ?_⟩
  · rw [lkPort_lport_self]
    dsimp only
    rw [hsame, hout]
  · rw [lkPort_lport_self]

theorem cbLaneDrop_keeps {s : State} {p b : Nat} {rest l : List Nat} {j keep : Nat} (h : cbFirst s p 3 b rest) (hb : cbSound b = true)
    (hgone : (List.range 8).filter (fun j => bit (lpGet s p LINK_P_STAT_TX_LANES) j && !bit (cbData b % 256) j) = j :: l)
    (hkeep : keep = (j :: l).foldl (fun m k => m - 2 ^ k) (lpGet s p LINK_P_STAT_TX_LANES)) (hlt : keep < 256)
    (hq : (lkPort s p).txq = []) (hr : (lkPort s p).replay = []) :
    ∃ t, exec (.cbLaneDrop p) s = .next t ∧
      if laneCount keep < minLanes s p then lpState t p = 6 ∧ lpGet t p LINK_P_STAT_TX_LANES = 0
      else lpState t p = lpState s p ∧ lpGet t p LINK_P_STAT_TX_LANES = keep ∧ Sp.get 0 (lkPort t p).cbOut 4 = controlBlock 4 keep ∧
        (lkPort t p).marksTo = s.now + 10 * usTicks := by
  have hp : p < 4 := hears_lt h.1
  show ∃ t, execCbLaneDrop p s = .next t ∧ _
  unfold execCbLaneDrop
  rw [onBlock_sound h (kinds := [3]) rfl hb]
  refine ⟨_, rfl, ?_⟩
  dsimp only
  simp only [lpGet_heardBlock, hgone, ← hkeep]
  obtain ⟨v, u, hv, hu⟩ : ∃ v u, v = (s.heardBlock p rest).draw.1 ∧ u = (s.heardBlock p rest).draw.2 := ⟨_, _, rfl, rfl⟩
  simp only [← hv, ← hu]
  have hport : lkPort u p = { lkPort s p with rxCtl := rest, heard := s.now } := by
    rw [hu]
    exact heardBlock_port ..
  have hget : ∀ f, lpGet u p f = lpGet s p f := fun f => by rw [hu]; rfl
  have hnow : u.now = s.now := by rw [hu]; rfl
  clear hu hv
  obtain ⟨hlink, hnote⟩ := noteDrop_frame u p (j :: l).length 1 j (v % 4) (v / 4) hp
  have hclock : (u.noteDrop p (j :: l).length 1 j (v % 4) (v / 4)).now = u.now := by
    unfold State.noteDrop
    simp
  generalize u.noteDrop p (j :: l).length 1 j (v % 4) (v / 4) = w at *
  obtain ⟨x, hx⟩ : ∃ x, x = w.put pgLINK (LINK_P_STAT_TX_LANES.at 256 p) keep := ⟨_, rfl⟩
  have hlanes : lpGet x p LINK_P_STAT_TX_LANES = keep := by
    rw [hx, lpGet_put_self _ _ _ _ (by decide)]
    exact Nat.mod_eq_of_lt hlt
  have hst : lpState x p = lpState s p := by
    rw [hx, lpState_eq, lpGet_put_apart _ _ _ (by decide) (by decide), hnote _ (by decide) (by decide), hget, lpState_eq]
  have hmin : minLanes x p = minLanes s p := by
    rw [hx, minLanes_eq, lpGet_put_apart _ _ _ (by decide) (by decide), hnote _ (by decide) (by decide), hget, minLanes_eq]
  have hxport : lkPort x p = { lkPort s p with rxCtl := rest, heard := s.now } := by
    rw [hx, ← hport]
    exact lkPort_congr hlink p
  have hxnow : x.now = s.now := by
    rw [hx]
    exact hclock.trans hnow
  rw [← hx, hmin]
  clear hx
  split
  · exact lpFail_quiet x p hp (by rw [hxport]; exact hq) (by rw [hxport]; exact hr)
  · have hx : hears x p = true := by
      have hs := h.1
      unfold hears at hs ⊢
      rw [hst]
      exact hs
    obtain ⟨hregs, hout, hmarks⟩ := lanesKept keep hx
    exact ⟨(hregs _).trans hst, (hregs _).trans hlanes, hout, hmarks.trans (by rw [hxnow])⟩

section
variable {s : State} {p b : Nat} {rest : List Nat}

theorem cbLaneSwitch_sets (h : cbFirst s p 4 b rest) (hb : cbSound b = true) :
    ∃ t, exec (.cbLaneSwitch p) s = .next t ∧ lpGet t p LINK_P_STAT_RX_LANES = cbData b % 256 ∧ (lkPort t p).lock = false ∧
      (lkPort t p).dropMask = none := by
  show ∃ t, execCbLaneSwitch p s = .next t ∧ _
  unfold execCbLaneSwitch
  rw [onBlock_sound h (kinds := [4]) rfl hb]
  refine ⟨_, rfl, ?_, ?_, ?_⟩
  · rw [lpGet_lport, lpGet_put_self _ _ _ _ (by decide)]
    exact Nat.mod_mod _ _
  · rw [lkPort_lport_self]
  · rw [lkPort_lport_self]

/-! ### INIT (R403, R404) -/

/-- The far side of port p as an INIT block names it. -/
def State.farSet (s : State) (p data : Nat) : State :=
  ((s.put pgLINK (LINK_P_STAT_FAR_ADDR.at 256 p) (bits data 5 0)).put pgLINK (LINK_P_STAT_FAR_PORT.at 256 p) (bits data 8 7)).put pgLINK
    (LINK_P_STAT_FAR_V.at 256 p) (bits data 6 6)
theorem farSet_shows (s : State) (p data : Nat) :
    lpGet (s.farSet p data) p LINK_P_STAT_FAR_ADDR = bits data 5 0 ∧ lpGet (s.farSet p data) p LINK_P_STAT_FAR_PORT = bits data 8 7 ∧
      lpGet (s.farSet p data) p LINK_P_STAT_FAR_V = bits data 6 6 ∧ lpState (s.farSet p data) p = lpState s p := by
  unfold State.farSet
  refine ⟨?_, ?_, ?_, ?_⟩
  · rw [lpGet_put_apart _ _ _ (by decide) (by decide), lpGet_put_apart _ _ _ (by decide) (by decide), lpGet_put_self _ _ _ _ (by decide)]
    exact Nat.mod_mod _ _
  · rw [lpGet_put_apart _ _ _ (by decide) (by decide), lpGet_put_self _ _ _ _ (by decide)]
    exact Nat.mod_mod _ _
  · rw [lpGet_put_self _ _ _ _ (by decide)]
    exact Nat.mod_mod _ _
  · rw [lpState_eq, lpGet_put_apart _ _ _ (by decide) (by decide), lpGet_put_apart _ _ _ (by decide) (by decide),
      lpGet_put_apart _ _ _ (by decide) (by decide), lpState_eq]
/-- A port in INIT that has heard INIT answers with one more, and is UP. -/
def State.initHeard (s : State) (p : Nat) : State := s.cond (lpState s p == 3) fun s => ((s.sendInit p).lpSet p 4).pumpAll p
theorem initHeard_state {u : State} {p : Nat} (hh : hears u p = true) (hq : (lkPort u p).txq = []) :
    (∀ f : Fld, f.ofPort → f.off ≠ LINK_P_STAT ∨ f.hi < 28 → lpGet (u.initHeard p) p f = lpGet u p f) ∧
      lpState (u.initHeard p) p = if lpState u p = 3 then 4 else lpState u p := by
  unfold State.initHeard
  by_cases h3 : lpState u p = 3
  · obtain ⟨hsans, hport, -⟩ := sendInit_sends u p hh
    have htx : (lkPort ((u.sendInit p).lpSet p 4) p).txq = [] := by
      rw [lkPort_lpSet]
      exact (congrArg LinkPort.txq hport :).trans hq
    rw [h3, if_pos rfl, beq_self_eq_true, State.cond_true, pumpAll_idle _ _ htx]
    refine ⟨fun f hf d => ?_, State.lpSet_state _ _ _ (by decide) (hears_lt hh)⟩
    rw [lpGet_lpSet _ _ _ _ (hears_lt hh) hf d, lpGet_of_sansLink hsans]
  · rw [if_neg h3, show (lpState u p == 3) = false by simpa using h3, State.cond_false]
    exact ⟨fun _ _ _ => rfl, rfl⟩
theorem cbInit_shows (h : cbFirst s p 5 b rest) (hb : cbSound b = true) (hq : (lkPort s p).txq = []) :
    ∃ t, exec (.cbInit p) s = .next t ∧ lpGet t p LINK_P_STAT_FAR_ADDR = bits (cbData b) 5 0 ∧
      lpGet t p LINK_P_STAT_FAR_PORT = bits (cbData b) 8 7 ∧ lpGet t p LINK_P_STAT_FAR_V = bits (cbData b) 6 6 ∧
      lpState t p = if lpState s p = 3 then 4 else lpState s p := by
  obtain ⟨haddr, hport, hvalid, hstate⟩ := farSet_shows (s.heardBlock p rest) p (cbData b)
  have hlk : lkPort ((s.heardBlock p rest).farSet p (cbData b)) p = { lkPort s p with rxCtl := rest, heard := s.now } := heardBlock_port ..
  have hexec : exec (.cbInit p) s = .next (((s.heardBlock p rest).farSet p (cbData b)).initHeard p) := by
    show execCbInit p s = _
    unfold execCbInit
    rw [onBlock_sound h (kinds := [5]) rfl hb]
    rfl
  refine ⟨_, hexec, ?_⟩
  generalize (s.heardBlock p rest).farSet p (cbData b) = u at *
  have hh : hears u p = true := by
    have hs := h.1
    unfold hears at hs ⊢
    rw [hstate]
    exact hs
  obtain ⟨hkeep, hup⟩ := initHeard_state hh (by rw [hlk]; exact hq)
  rw [hkeep _ (by decide) (by decide), hkeep _ (by decide) (by decide), hkeep _ (by decide) (by decide), hup, hstate]
  exact ⟨haddr, hport, hvalid, rfl⟩
end

/-! ### Codewords (R385 to R387) -/

/-- The descrambler of port p follows what it receives; a codeword of markers leaves it. -/
def State.descrambled (s : State) (p : Nat) (marks : Bool) (reg : Nat) : State :=
  s.cond (!marks) fun s => s.lport p fun l => { l with descr := reg }
theorem descrambled_port (s : State) (p : Nat) (marks : Bool) (reg : Nat) :
    ∃ d, lkPort (s.descrambled p marks reg) p = { lkPort s p with descr := d } := by
  cases marks
  · exact ⟨reg, lkPort_lport_self s p fun l => { l with descr := reg }⟩
  · exact ⟨(lkPort s p).descr, rfl⟩
theorem descrambled_rd (s : State) (p : Nat) (marks : Bool) (reg o : Nat) : (s.descrambled p marks reg).rd o = s.rd o := by
  cases marks <;> rfl
theorem descrambled_now (s : State) (p : Nat) (marks : Bool) (reg : Nat) : (s.descrambled p marks reg).now = s.now := by
  cases marks <;> rfl
/-- The corrected symbols of the lane at place j of n. -/
def symsAt (at_ : List Nat) (n j : Nat) : Nat := (at_.filter fun i => i % n == j).length
/-- The corrected symbols of one lane counted. -/
def State.serCounted (s : State) (p lane n : Nat) : State :=
  (s.bumpSat pgLINK (LINK_P_SER_COUNT.at 256 p |>.at 4 lane) n).lport p fun l => { l with serMark := addLane l.serMark lane n }
/-- The codewords with corrected symbols at port p, and one more counted. -/
def feccCount (s : State) (p : Nat) : Nat :=
  (s.rd (pgLINK + LINK_P_FECC_LO + 256 * p)).toNat + 2 ^ 32 * (s.rd (pgLINK + LINK_P_FECC_HI + 256 * p)).toNat
def State.feccCounted (s : State) (p n : Nat) : State :=
  s.put64 (pgLINK + LINK_P_FECC_LO + 256 * p) (pgLINK + LINK_P_FECC_HI + 256 * p) ((n + 1) % 2 ^ 48)
/-- The corrected symbols of a codeword on the active lanes counted. -/
def State.symsCounted (s : State) (p : Nat) (at_ active : List Nat) : State :=
  (s.cond (at_ != []) fun u => u.feccCounted p (feccCount s p)).each
    ((List.range active.length).filter fun j => symsAt at_ active.length j != 0) fun s j =>
      s.serCounted p (active.getD j 0) (symsAt at_ active.length j)

section
variable {s : State} {p : Nat} {lanes : List Nat} (hh : hears s p = true)
include hh
theorem not_loopback : lpState s p ≠ 7 := by
  unfold hears at hh
  intro h
  rw [h] at hh
  simp at hh
theorem codeword_lost (marks : Bool) (hd : rsDecode (wordIn s p lanes) = none) :
    ∃ reg, exec (.codewordReceived p marks lanes) s = .next
      ((((s.descrambled p marks reg).bumpSat pgLINK (LINK_P_FECU_COUNT.at 256 p)).takeBlocks p true []).cond
        (lpState (((s.descrambled p marks reg).bumpSat pgLINK (LINK_P_FECU_COUNT.at 256 p)).takeBlocks p true []) p == 4 ||
          lpState (((s.descrambled p marks reg).bumpSat pgLINK (LINK_P_FECU_COUNT.at 256 p)).takeBlocks p true []) p == 5)
        fun s => s.askRetry p) := by
  have h7 := not_loopback hh
  have hlanes : lanesIn s p lanes = lanes := if_neg fun h => h7 h.1
  refine ⟨(scrambleAll true (lkPort s p).descr (symsToBlocks (wordIn s p lanes))).1, ?_⟩
  show execCodewordReceived p marks lanes s = _
  unfold execCodewordReceived
  rw [if_neg (by simp [hh]), if_neg fun h => h7 h.1]
  dsimp only
  rw [hlanes]
  rw [show rsDecode (gather ((List.range (activeIn s p lanes.length).length).map fun j => lanes.getD j 0)) = none from hd]
  dsimp only [Option.map_none, Option.getD_none]
  unfold wordIn activeLanes State.descrambled
  rfl
theorem codeword_read (marks : Bool) {word at_ : List Nat} (hd : rsDecode (wordIn s p lanes) = some (word, at_)) :
    exec (.codewordReceived p marks lanes) s = .next
      (((s.descrambled p marks (scrambleAll true (lkPort s p).descr (symsToBlocks word)).1).symsCounted p at_ (activeLanes s p lanes)).cond
        (!marks) fun u => (u.cond (lpState u p == 7) fun u => u.checkFlits p (scrambleAll true (lkPort s p).descr (symsToBlocks word)).2).takeBlocks
          p false (scrambleAll true (lkPort s p).descr (symsToBlocks word)).2) := by
  have h7 := not_loopback hh
  have hlanes : lanesIn s p lanes = lanes := if_neg fun h => h7 h.1
  show execCodewordReceived p marks lanes s = _
  unfold execCodewordReceived
  rw [if_neg (by simp [hh]), if_neg fun h => h7 h.1]
  dsimp only
  rw [hlanes]
  rw [show rsDecode (gather ((List.range (activeIn s p lanes.length).length).map fun j => lanes.getD j 0)) = some (word, at_) from hd]
  dsimp only [Option.map_some, Option.getD_some]
  simp only [List.length_map, List.length_range]
  unfold State.symsCounted State.serCounted State.feccCounted feccCount symsAt activeLanes State.descrambled
  rfl
end

/-! ### An uncorrectable codeword (R387, R398) -/

theorem takeBlocks_regs (s : State) (p : Nat) (bad : Bool) (blocks : List Nat) : (s.takeBlocks p bad blocks).regs = s.regs := by
  unfold State.takeBlocks State.cond
  split <;> rfl
theorem takeBlocks_cfg (s : State) (p : Nat) (bad : Bool) (blocks : List Nat) : (s.takeBlocks p bad blocks).cfg = s.cfg := by
  unfold State.takeBlocks State.cond
  split <;> rfl
theorem takeBlocks_now (s : State) (p : Nat) (bad : Bool) (blocks : List Nat) : (s.takeBlocks p bad blocks).now = s.now := by
  unfold State.takeBlocks State.cond
  split <;> rfl
theorem takeBlocks_bad (s : State) (p : Nat) : ∃ l, lkPort (s.takeBlocks p true []) p = { lkPort s p with rxFlits := l } := by
  unfold State.takeBlocks State.cond
  split
  · exact ⟨wholeFlits (lkPort s p).rxFlits.length (lkPort s p).rxFlits, by rw [lkPort_lport_self]; rfl⟩
  · exact ⟨(lkPort s p).rxFlits, rfl⟩
theorem takeBlocks_good (s : State) (p : Nat) (blocks : List Nat) (hh : hears s p = true) (hl : (lkPort s p).lock = true) :
    (lkPort (s.takeBlocks p false blocks) p).rxFlits = (lkPort s p).rxFlits ++ (blocks.filter fun b => bit b 0).map (· / 2) ∧
      (lkPort (s.takeBlocks p false blocks) p).rxCtl = (lkPort s p).rxCtl ++ blocks.filter fun b => !bit b 0 := by
  unfold State.takeBlocks
  rw [hh, State.cond_true, lkPort_lport_self, if_neg (by decide), hl, if_pos rfl]
  exact ⟨rfl, rfl⟩
/-- A receiver that does not wait yet asks for the packet that it expects. -/
theorem askRetry_asks (s : State) (p : Nat) (hh : hears s p = true) (hw : (lkPort s p).waitL = false) :
    (s.askRetry p).sansLink = s.sansLink ∧ (lkPort (s.askRetry p) p).waitL = true ∧ (lkPort (s.askRetry p) p).retryAt = s.now ∧
      Sp.get 0 (lkPort (s.askRetry p) p).cbOut 2 = controlBlock 2 (lkPort s p).expL ∧ (lkPort (s.askRetry p) p).rxCtl = (lkPort s p).rxCtl := by
  unfold State.askRetry
  rw [if_neg (by rw [hw]; decide)]
  obtain ⟨hsans, hport, hout⟩ := sendRetry_sends (s.lport p fun l => { l with waitL := true, retryAt := s.now, retries := 1 }) p hh
  rw [lkPort_lport_self] at hport hout
  exact ⟨hsans, (congrArg LinkPort.waitL hport :), (congrArg LinkPort.retryAt hport :), hout, (congrArg LinkPort.rxCtl hport :)⟩

theorem codewordLost_asks {s : State} {p : Nat} (marks : Bool) {lanes : List Nat} (hp : p < 4) (hs : lpState s p = 4)
    (hw : (lkPort s p).waitL = false) (hd : rsDecode (wordIn s p lanes) = none) :
    ∃ t, exec (.codewordReceived p marks lanes) s = .next t ∧ lpGet t p LINK_P_FECU_COUNT = min (lpGet s p LINK_P_FECU_COUNT + 1) (2 ^ 32 - 1) ∧
      (lkPort t p).waitL = true ∧ (lkPort t p).retryAt = s.now ∧ Sp.get 0 (lkPort t p).cbOut 2 = controlBlock 2 (lkPort s p).expL ∧
      (lkPort t p).rxCtl = (lkPort s p).rxCtl := by
  obtain ⟨reg, hexec⟩ := codeword_lost (hears_of_state s p hp (.inr (.inl hs))) marks hd
  refine ⟨_, hexec, ?_⟩
  clear hexec
  obtain ⟨d, hport⟩ := descrambled_port s p marks reg
  have hget : ∀ f, lpGet (s.descrambled p marks reg) p f = lpGet s p f := fun f => by
    unfold lpGet State.get
    rw [descrambled_rd]
  have hnow := descrambled_now s p marks reg
  generalize s.descrambled p marks reg = u at *
  have hcount : lpGet (u.bumpSat pgLINK (LINK_P_FECU_COUNT.at 256 p)) p LINK_P_FECU_COUNT = min (lpGet u p LINK_P_FECU_COUNT + 1) (2 ^ 32 - 1) :=
    State.get_bumpSat_self u pgLINK (LINK_P_FECU_COUNT.at 256 p) 1 (Fld.at_fits _ _ (by decide))
  have hstate : lpState (u.bumpSat pgLINK (LINK_P_FECU_COUNT.at 256 p)) p = lpState u p :=
    lpGet_bumpSat_apart u p (g := LINK_P_STAT_STATE) 1 (by decide) (.inl (by decide))
  have hkept : lkPort (u.bumpSat pgLINK (LINK_P_FECU_COUNT.at 256 p)) p = lkPort u p := rfl
  have hclock : (u.bumpSat pgLINK (LINK_P_FECU_COUNT.at 256 p)).now = u.now := rfl
  generalize u.bumpSat pgLINK (LINK_P_FECU_COUNT.at 256 p) = v at *
  obtain ⟨l, htaken⟩ := takeBlocks_bad v p
  have hregs := takeBlocks_regs v p true []
  have hcfg := takeBlocks_cfg v p true []
  have htime := takeBlocks_now v p true []
  generalize v.takeBlocks p true [] = w at *
  have hup : lpState w p = 4 := (lpGet_congr hregs hcfg p _).trans (hstate.trans ((hget _).trans hs))
  obtain ⟨hsans, hwait, hat, hout, hctl⟩ := askRetry_asks w p (hears_of_state w p hp (.inr (.inl hup))) (by rw [htaken, hkept, hport]; exact hw)
  rw [hup, show ((4 : Nat) == 4 || (4 : Nat) == 5) = true from rfl, State.cond_true]
  refine ⟨?_, hwait, hat.trans (htime.trans (hclock.trans hnow)), hout.trans ?_, hctl.trans ?_⟩
  · rw [lpGet_of_sansLink hsans, lpGet_congr hregs hcfg, hcount, hget]
  · rw [htaken, hkept, hport]
  · rw [htaken, hkept, hport]

/-! ### A sound codeword (R385 to R387) -/

theorem serCounted_rd (s : State) (p lane n o : Nat) (h : o ≠ pgLINK + (LINK_P_SER + 256 * p + 4 * lane)) : (s.serCounted p lane n).rd o = s.rd o :=
  State.bumpSat_rd s (f := (LINK_P_SER_COUNT.at 256 p).at 4 lane) n h
theorem serCounted_port (s : State) (p lane n : Nat) :
    { lkPort (s.serCounted p lane n) p with serMark := [] } = { lkPort s p with serMark := [] } := by
  unfold State.serCounted
  rw [lkPort_lport_self]
  rfl
theorem feccCounted_rd (s : State) (p n o : Nat) (h : o ≠ pgLINK + LINK_P_FECC_LO + 256 * p) (k : o ≠ pgLINK + LINK_P_FECC_HI + 256 * p) :
    (s.feccCounted p n).rd o = s.rd o := by
  unfold State.feccCounted State.put64
  rw [State.rd_wr_of_ne _ _ k, State.rd_wr_of_ne _ _ h]
/-- Corrected symbols counted: the port keeps all but their sums of the interval, and its state. -/
theorem symsCounted_frame (s : State) (p : Nat) (at_ active : List Nat) :
    { lkPort (s.symsCounted p at_ active) p with serMark := [] } = { lkPort s p with serMark := [] } ∧
      lpState (s.symsCounted p at_ active) p = lpState s p := by
  have hfecc : { lkPort (s.cond (at_ != []) fun u => u.feccCounted p (feccCount s p)) p with serMark := [] } = { lkPort s p with serMark := [] } := by
    unfold State.cond
    split <;> rfl
  have hstat : (s.cond (at_ != []) fun u => u.feccCounted p (feccCount s p)).rd (pgLINK + (LINK_P_STAT + 256 * p)) =
      s.rd (pgLINK + (LINK_P_STAT + 256 * p)) := by
    rw [State.cond_rd, feccCounted_rd _ _ _ _ (by simp only [LINK_P_STAT, LINK_P_FECC_LO]; omega) (by simp only [LINK_P_STAT, LINK_P_FECC_HI]; omega),
      ite_self]
  unfold State.symsCounted
  generalize (s.cond (at_ != []) fun u => u.feccCounted p (feccCount s p)) = v at *
  constructor
  · rw [← hfecc]
    exact State.each_of (fun s => { lkPort s p with serMark := [] }) _ (fun u j => serCounted_port u p _ _) _ v
  · have hrd := State.each_of (fun s => s.rd (pgLINK + (LINK_P_STAT + 256 * p)))
      (fun s j => s.serCounted p (active.getD j 0) (symsAt at_ active.length j))
      (fun u j => serCounted_rd u p _ _ _ (by simp only [LINK_P_STAT, LINK_P_SER]; omega))
      ((List.range active.length).filter fun j => symsAt at_ active.length j != 0) v
    exact congrArg LINK_P_STAT_STATE.of (hrd.trans hstat)

/-- The lanes that a codeword comes on are distinct. -/
theorem activeLanes_nodup (s : State) (p : Nat) (lanes : List Nat) : (activeLanes s p lanes).Nodup := by
  have hall : ∀ m : Nat, ((List.range 8).filter (bit m)).Nodup := fun m => List.nodup_range.filter _
  unfold activeLanes activeIn
  dsimp only
  split
  · split <;> exact hall _
  · exact hall _
/-- The symbols of a lane are those of its place among the active lanes. -/
theorem symsAt_lane {active : List Nat} (hd : active.Nodup) (at_ : List Nat) {k : Nat} (hk : k < active.length) :
    (at_.filter fun i => active.getD (i % active.length) 0 == active.getD k 0).length = symsAt at_ active.length k := by
  refine congrArg List.length (List.filter_congr fun i _ => ?_)
  have hi : i % active.length < active.length := Nat.mod_lt _ (by omega)
  rw [List.getD_eq_getElem _ _ hi, List.getD_eq_getElem _ _ hk, Bool.eq_iff_iff, beq_iff_eq, beq_iff_eq]
  exact hd.getElem_inj_iff
/-- A lane's count takes the symbols of its place, where that place is among those counted. -/
theorem serCounted_sums (p lane k : Nat) (act n : Nat → Nat) (l : List Nat) (hd : l.Nodup)
    (hk : ∀ j ∈ l, act j = lane ↔ j = k) (s : State) :
    (s.each l fun s j => s.serCounted p (act j) (n j)).get pgLINK ((LINK_P_SER_COUNT.at 256 p).at 4 lane) =
      min (s.get pgLINK ((LINK_P_SER_COUNT.at 256 p).at 4 lane) + if k ∈ l then n k else 0) (2 ^ 32 - 1) := by
  induction l generalizing s with
  | nil =>
    have hlt : s.get pgLINK ((LINK_P_SER_COUNT.at 256 p).at 4 lane) < 2 ^ 32 := State.get_lt ..
    show s.get pgLINK ((LINK_P_SER_COUNT.at 256 p).at 4 lane) = _
    rw [if_neg List.not_mem_nil]
    omega
  | cons j l ih =>
    obtain ⟨hnot, hd⟩ := List.nodup_cons.mp hd
    have hrest := ih hd (fun i hi => hk i (List.mem_cons_of_mem _ hi)) (s.serCounted p (act j) (n j))
    refine hrest.trans ?_
    by_cases hj : j = k
    · have hact : act j = lane := (hk j List.mem_cons_self).mpr hj
      have hself : (s.serCounted p (act j) (n j)).get pgLINK ((LINK_P_SER_COUNT.at 256 p).at 4 lane) =
          min (s.get pgLINK ((LINK_P_SER_COUNT.at 256 p).at 4 lane) + n j) (2 ^ 32 - 1) := by
        rw [hact]
        exact State.get_bumpSat_self s pgLINK ((LINK_P_SER_COUNT.at 256 p).at 4 lane) (n j) (Fld.at_fits _ _ (Fld.at_fits _ _ (by decide)))
      rw [hself, if_neg (hj ▸ hnot), if_pos (hj ▸ List.mem_cons_self), ← hj]
      omega
    · have hact : act j ≠ lane := fun e => hj ((hk j List.mem_cons_self).mp e)
      have hother : (s.serCounted p (act j) (n j)).get pgLINK ((LINK_P_SER_COUNT.at 256 p).at 4 lane) =
          s.get pgLINK ((LINK_P_SER_COUNT.at 256 p).at 4 lane) := by
        unfold State.get
        have hoff : ((LINK_P_SER_COUNT.at 256 p).at 4 lane).off = LINK_P_SER + 256 * p + 4 * lane := rfl
        rw [hoff, serCounted_rd _ _ _ _ _ (by omega)]
      rw [hother]
      simp only [List.mem_cons, Ne.symm hj, false_or]

section
variable {s : State} {p : Nat} {lanes word : List Nat}

theorem codewordBlocks_taken {blocks at_ : List Nat} (hh : hears s p = true) (hl : (lkPort s p).lock = true)
    (hd : rsDecode (wordIn s p lanes) = some (word, at_)) (hb : blocks = (scrambleAll true (lkPort s p).descr (symsToBlocks word)).2) :
    ∃ t, exec (.codewordReceived p false lanes) s = .next t ∧
      (lkPort t p).rxFlits = (lkPort s p).rxFlits ++ (blocks.filter fun b => bit b 0).map (· / 2) ∧
      (lkPort t p).rxCtl = (lkPort s p).rxCtl ++ blocks.filter fun b => !bit b 0 := by
  refine ⟨_, codeword_read hh false hd, ?_⟩
  rw [← hb]
  obtain ⟨d, hport⟩ := descrambled_port s p false (scrambleAll true (lkPort s p).descr (symsToBlocks word)).1
  have hst : lpState (s.descrambled p false (scrambleAll true (lkPort s p).descr (symsToBlocks word)).1) p = lpState s p :=
    congrArg LINK_P_STAT_STATE.of (descrambled_rd ..)
  generalize s.descrambled p false (scrambleAll true (lkPort s p).descr (symsToBlocks word)).1 = u at *
  obtain ⟨hcounted, hstate⟩ := symsCounted_frame u p at_ (activeLanes s p lanes)
  generalize u.symsCounted p at_ (activeLanes s p lanes) = v at *
  have h7 : lpState v p ≠ 7 := by
    rw [hstate, hst]
    exact not_loopback hh
  have hhears : hears v p = true := by
    unfold hears at hh ⊢
    rw [hstate, hst]
    exact hh
  have hlock : (lkPort v p).lock = true := (congrArg LinkPort.lock hcounted :).trans (by rw [hport]; exact hl)
  have hflits : (lkPort v p).rxFlits = (lkPort s p).rxFlits := (congrArg LinkPort.rxFlits hcounted :).trans (by rw [hport])
  have hctl : (lkPort v p).rxCtl = (lkPort s p).rxCtl := (congrArg LinkPort.rxCtl hcounted :).trans (by rw [hport])
  rw [Bool.not_false, State.cond_true, show (lpState v p == 7) = false by simpa using h7, State.cond_false, ← hflits, ← hctl]
  exact takeBlocks_good v p blocks hhears hlock
theorem codewordSyms_counted {lane : Nat} {at_ : List Nat} (marks : Bool) (hh : hears s p = true)
    (hd : rsDecode (wordIn s p lanes) = some (word, at_)) (hlane : lane ∈ activeLanes s p lanes) :
    ∃ t, exec (.codewordReceived p marks lanes) s = .next t ∧ t.get pgLINK ((LINK_P_SER_COUNT.at 256 p).at 4 lane) =
      min (s.get pgLINK ((LINK_P_SER_COUNT.at 256 p).at 4 lane) +
        (at_.filter fun i => (activeLanes s p lanes).getD (i % (activeLanes s p lanes).length) 0 == lane).length) (2 ^ 32 - 1) := by
  refine ⟨_, codeword_read hh marks hd, ?_⟩
  have hdist := activeLanes_nodup s p lanes
  generalize activeLanes s p lanes = active at *
  generalize scrambleAll true (lkPort s p).descr (symsToBlocks word) = out
  have hrd := descrambled_rd s p marks out.1
  have hst : lpState (s.descrambled p marks out.1) p = lpState s p := congrArg LINK_P_STAT_STATE.of (hrd _)
  generalize s.descrambled p marks out.1 = u at *
  obtain ⟨-, hstate⟩ := symsCounted_frame u p at_ active
  obtain ⟨k, hk, hkl⟩ := List.getElem_of_mem hlane
  have hgetD : active.getD k 0 = lane := (List.getD_eq_getElem _ _ hk).trans hkl
  have hsum : (u.symsCounted p at_ active).get pgLINK ((LINK_P_SER_COUNT.at 256 p).at 4 lane) =
      min (s.get pgLINK ((LINK_P_SER_COUNT.at 256 p).at 4 lane) + symsAt at_ active.length k) (2 ^ 32 - 1) := by
    unfold State.symsCounted
    refine (serCounted_sums p lane k (fun j => active.getD j 0) (symsAt at_ active.length) _ (List.nodup_range.filter _) ?_ _).trans ?_
    · intro j hj
      have hjl := List.mem_range.mp (List.mem_filter.mp hj).1
      rw [List.getD_eq_getElem _ _ hjl, ← hkl]
      exact hdist.getElem_inj_iff
    · have hfecc : (u.cond (at_ != []) fun v => v.feccCounted p (feccCount u p)).get pgLINK ((LINK_P_SER_COUNT.at 256 p).at 4 lane) =
          s.get pgLINK ((LINK_P_SER_COUNT.at 256 p).at 4 lane) := by
        unfold State.get
        have hoff : ((LINK_P_SER_COUNT.at 256 p).at 4 lane).off = LINK_P_SER + 256 * p + 4 * lane := rfl
        rw [hoff, State.cond_rd, feccCounted_rd _ _ _ _ (by simp only [LINK_P_SER, LINK_P_FECC_LO]; omega)
          (by simp only [LINK_P_SER, LINK_P_FECC_HI]; omega),
          ite_self, hrd]
      rw [hfecc]
      refine congrArg (fun n => min (s.get pgLINK ((LINK_P_SER_COUNT.at 256 p).at 4 lane) + n) (2 ^ 32 - 1)) ?_
      simp only [List.mem_filter, List.mem_range, hk, true_and, bne_iff_ne, ne_eq]
      split
      · rfl
      · rename_i hzero
        exact (not_not.mp hzero).symm
  have hsyms := symsAt_lane hdist at_ hk
  rw [hgetD] at hsyms
  rw [hsyms, ← hsum]
  generalize u.symsCounted p at_ active = v at *
  have h7 : (lpState v p == 7) = false := by
    rw [hstate, hst]
    simpa using not_loopback hh
  cases marks
  · rw [Bool.not_false, State.cond_true, h7, State.cond_false]
    exact State.get_congr (takeBlocks_regs ..) (takeBlocks_cfg ..) ..
  · rfl
theorem codewordMarks_clean (hh : hears s p = true) (hd : rsDecode (wordIn s p lanes) = some (word, [])) :
    exec (.codewordReceived p true lanes) s = .next s := by
  rw [codeword_read hh true hd]
  unfold State.descrambled State.symsCounted
  simp only [Bool.not_true, State.cond_false]
  have hnone : ((List.range (activeLanes s p lanes).length).filter fun j => symsAt [] (activeLanes s p lanes).length j != 0) = [] :=
    List.filter_eq_nil_iff.mpr fun _ _ => by simp [symsAt]
  rw [hnone]
  rfl
end

/-! ### What a control block and a codeword do -/

/-- Settles O24: each kind of block by what its payload sets, and a codeword by what its decoder gives. -/
theorem linkBlocks : Obligations.LinkBlocks := by
  refine ⟨fun _ _ _ _ h hb => cbIdle_heard h hb, fun _ _ _ _ _ _ _ h hb hq hr hack hn => cbLink_frees h hb hq hr hack hn,
    fun _ _ _ _ h hb hq => cbRetry_sends h hb hq,
    fun _ _ _ _ _ _ _ h hb hgone hkeep hlt hq hr => cbLaneDrop_keeps h hb hgone hkeep hlt hq hr,
    fun _ _ _ _ h hb => cbLaneSwitch_sets h hb, fun _ _ _ _ h hb hq => cbInit_shows h hb hq, ?_,
    fun _ _ marks _ hp hs hw hd => codewordLost_asks marks hp hs hw hd, fun _ _ _ _ _ _ hh hl hd hb => codewordBlocks_taken hh hl hd hb,
    fun _ _ _ _ _ _ marks hh hd hlane => codewordSyms_counted marks hh hd hlane, fun _ _ _ _ hh hd => codewordMarks_clean hh hd⟩
  intro k f hkf s p b rest h hb
  simp only [cbCommands, List.mem_cons, Prod.mk.injEq, List.not_mem_nil, or_false] at hkf
  rcases hkf with ⟨rfl, rfl⟩ | ⟨rfl, rfl⟩ | ⟨rfl, rfl⟩ | ⟨rfl, rfl⟩ | ⟨rfl, rfl⟩ | ⟨rfl, rfl⟩
  · exact onBlock_spoiled h (kinds := cbKinds 0) rfl hb fun s _ => s
  · show execCbLink p s = _
    unfold execCbLink
    rw [onBlock_spoiled h (kinds := [1]) rfl hb]
  · show execCbRetry p s = _
    unfold execCbRetry
    rw [onBlock_spoiled h (kinds := [2]) rfl hb]
  · show execCbLaneDrop p s = _
    unfold execCbLaneDrop
    rw [onBlock_spoiled h (kinds := [3]) rfl hb]
  · show execCbLaneSwitch p s = _
    unfold execCbLaneSwitch
    rw [onBlock_spoiled h (kinds := [4]) rfl hb]
  · show execCbInit p s = _
    unfold execCbInit
    rw [onBlock_spoiled h (kinds := [5]) rfl hb]

end Sys2Proof.Machine

/-! PROOFS. The Cadence boundary and the budget (spec/16_power_and_energy.md R484 to R493). -/
namespace Sys2Proof.Machine

/-! ### The Cadence that ends (R484 to R487, R493) -/

/-- The charges of the running Cadence, and its budget, in the ledger's unit. -/
def cadTotal (s : State) : Nat := s.energyAcc.cls.foldl (· + ·) 0 + s.energyAcc.nobody + s.energyAcc.stat * njUnits
def cadLimit (s : State) : Nat :=
  if s.energyAcc.budget = 0 ∧ !s.flag pgPOWER POWER_ARB_STAT_FLOOR_ACT then s.energyAcc.grant else s.energyAcc.budget
/-- A Cadence charged more than its budget is counted. -/
def State.overCounted (s : State) : State :=
  s.cond (decide (cadLimit s * 1000 * njUnits < cadTotal s)) fun s => (s.bumpSat pgPOWER POWER_OVER_CNT_COUNT).irq pgPOWER 3
/-- The classes and their LAST registers. -/
def lastRegs : List (Nat × Nat) := [(0, POWER_LAST_RT), (1, POWER_LAST_LC), (2, POWER_LAST_BE), (3, POWER_LAST_MT)]
/-- The LAST registers show what the classes were charged. -/
def State.lastShown (s : State) (cls : List Nat) : State :=
  s.each lastRegs fun s x => s.wr (pgPOWER + x.2) (BitVec.ofNat 32 (sat32 (njOf (cls.getD x.1 0))))
/-- The static charge, the index of the Cadence that begins, and the supplies sampled are shown. -/
def State.sampled (s : State) (stat k arrMv periMv : Nat) : State :=
  ((((s.wr (pgPOWER + POWER_LAST_STAT) (BitVec.ofNat 32 (sat32 stat))).wr (pgPOWER + POWER_CAD_IDX) (BitVec.ofNat 32 k)).wr
    (pgPOWER + POWER_SUPPLY) (BitVec.ofNat 32 (periMv % 2 ^ 16 * 2 ^ 16 + arrMv % 2 ^ 16))).put pgPOWER POWER_VFACT_VF_PERI
    (supplyFactor (periMv % 2 ^ 16))).put pgPOWER POWER_VFACT_VF_ARR (supplyFactor (arrMv % 2 ^ 16))
/-- The Cadence closed: what it leaves in its registers. -/
def State.cadClosed (s : State) (arrMv periMv : Nat) : State :=
  (s.overCounted.lastShown s.energyAcc.cls).sampled s.energyAcc.stat (s.energyAcc.cad + 1) arrMv periMv

/-- A register that the close of a Cadence does not write. -/
def OffCad (o : Nat) : Prop :=
  0x40 ≤ o ∧ o < 0x1000 ∧ o ≠ POWER_SUPPLY ∧ o ≠ POWER_VFACT ∧ o ≠ POWER_CAD_IDX ∧ (o < POWER_LAST_RT ∨ POWER_OVER_CNT < o)

section
variable (s : State) (o : Nat)
theorem overCounted_rd (hlo : 0x40 ≤ o) (hhi : o < 0x1000) (hne : o ≠ POWER_OVER_CNT) : s.overCounted.rd (pgPOWER + o) = s.rd (pgPOWER + o) := by
  unfold State.overCounted
  rw [State.cond_rd, State.irq_rd _ _ _ _ (by simp only [HDR_IRQ_STAT]; omega) (by simp only [pgPOWER, pgREC]; omega),
    State.bumpSat_rd _ _ (by simp only [POWER_OVER_CNT_COUNT, POWER_OVER_CNT] at *; omega), ite_self]
theorem lastShown_rd (cls : List Nat) (h : o < POWER_LAST_RT ∨ POWER_LAST_MT < o) : (s.lastShown cls).rd (pgPOWER + o) = s.rd (pgPOWER + o) := by
  refine State.each_mem (fun s => s.rd (pgPOWER + o)) _ _ (fun u x hx => State.rd_wr_of_ne _ _ ?_) s
  have hreg : ∀ y ∈ lastRegs, POWER_LAST_RT ≤ y.2 ∧ y.2 ≤ POWER_LAST_MT := by decide
  obtain ⟨h1, h2⟩ := hreg x hx
  omega
theorem sampled_rd (stat k a p : Nat) (h1 : o ≠ POWER_LAST_STAT) (h2 : o ≠ POWER_CAD_IDX) (h3 : o ≠ POWER_SUPPLY) (h4 : o ≠ POWER_VFACT) :
    (s.sampled stat k a p).rd (pgPOWER + o) = s.rd (pgPOWER + o) := by
  unfold State.sampled
  rw [State.rd_put_of_ne _ _ (fun e => h4 (Nat.add_left_cancel e)), State.rd_put_of_ne _ _ (fun e => h4 (Nat.add_left_cancel e)),
    State.rd_wr_of_ne _ _ (fun e => h3 (Nat.add_left_cancel e)), State.rd_wr_of_ne _ _ (fun e => h2 (Nat.add_left_cancel e)),
    State.rd_wr_of_ne _ _ (fun e => h1 (Nat.add_left_cancel e))]
theorem cadClosed_rd (a p : Nat) (h : OffCad o) : (s.cadClosed a p).rd (pgPOWER + o) = s.rd (pgPOWER + o) := by
  obtain ⟨hlo, hhi, hsupply, hvfact, hidx, hlast⟩ := h
  simp only [POWER_LAST_RT, POWER_OVER_CNT] at hlast
  unfold State.cadClosed
  rw [sampled_rd _ _ _ _ _ _ (by simp only [POWER_LAST_STAT]; omega) hidx hsupply hvfact,
    lastShown_rd _ _ _ (by simp only [POWER_LAST_RT, POWER_LAST_MT]; omega), overCounted_rd _ _ hlo hhi (by simp only [POWER_OVER_CNT]; omega)]
end

theorem overCounted_energy (s : State) : s.overCounted.energyAcc = s.energyAcc := by
  unfold State.overCounted
  rw [State.cond_energyAcc, State.irq_energyAcc]
  exact ite_self _
theorem cadClosed_energy (s : State) (a p : Nat) : (s.cadClosed a p).energyAcc = s.energyAcc := by
  have hshown : ∀ (u : State) (cls : List Nat), (u.lastShown cls).energyAcc = u.energyAcc := fun u cls =>
    State.each_of State.energyAcc (fun (s : State) (x : Nat × Nat) => s.wr (pgPOWER + x.2) (BitVec.ofNat 32 (sat32 (njOf (cls.getD x.1 0)))))
      (fun _ _ => rfl) lastRegs u
  have hsampled : ∀ (u : State) (x k a p : Nat), (u.sampled x k a p).energyAcc = u.energyAcc := fun _ _ _ _ _ => rfl
  unfold State.cadClosed
  rw [hsampled, hshown, overCounted_energy]
theorem cadClosed_get (s : State) (a p : Nat) (f : Fld) (h : OffCad f.off) : (s.cadClosed a p).get pgPOWER f = s.get pgPOWER f :=
  congrArg f.of (cadClosed_rd s f.off a p h)

/-- A factor of a supply of less than 2 V fits its field. -/
theorem supplyFactor_lt {mv : Nat} (h : mv < 2000) : supplyFactor mv < 2 ^ 16 := by
  unfold supplyFactor
  have hsq : 8192 * mv * mv ≤ 8192 * 2000 * 2000 := Nat.mul_le_mul (Nat.mul_le_mul_left _ (by omega)) (by omega)
  omega
/-- What the close of a Cadence shows of the supplies, and of the Cadence that begins. -/
theorem cadClosed_samples (s : State) (a p : Nat) (ha : a < 2000) (hp : p < 2000) :
    (s.cadClosed a p).rd (pgPOWER + POWER_CAD_IDX) = BitVec.ofNat 32 (s.energyAcc.cad + 1) ∧
      (s.cadClosed a p).get pgPOWER POWER_SUPPLY_ARRAY_MV = a ∧ (s.cadClosed a p).get pgPOWER POWER_SUPPLY_PERI_MV = p ∧
      (s.cadClosed a p).get pgPOWER POWER_VFACT_VF_ARR = supplyFactor a ∧ (s.cadClosed a p).get pgPOWER POWER_VFACT_VF_PERI = supplyFactor p := by
  have hamod : a % 2 ^ 16 = a := Nat.mod_eq_of_lt (by omega)
  have hpmod : p % 2 ^ 16 = p := Nat.mod_eq_of_lt (by omega)
  unfold State.cadClosed
  generalize s.overCounted.lastShown s.energyAcc.cls = u
  unfold State.sampled
  rw [hamod, hpmod]
  refine ⟨?_, ?_, ?_, ?_, ?_⟩
  · rw [State.rd_put_of_ne _ _ (by decide), State.rd_put_of_ne _ _ (by decide), State.rd_wr_of_ne _ _ (by decide), State.rd_wr_self]
  · rw [State.get_put_page _ _ _ _ _ (by decide) (by decide), State.get_put_page _ _ _ _ _ (by decide) (by decide)]
    show POWER_SUPPLY_ARRAY_MV.of (State.rd (State.wr _ (pgPOWER + POWER_SUPPLY) _) (pgPOWER + POWER_SUPPLY)) = a
    rw [State.rd_wr_self]
    simp only [Fld.of, bits, POWER_SUPPLY_ARRAY_MV, BitVec.toNat_ofNat, Nat.shiftRight_eq_div_pow]
    omega
  · rw [State.get_put_page _ _ _ _ _ (by decide) (by decide), State.get_put_page _ _ _ _ _ (by decide) (by decide)]
    show POWER_SUPPLY_PERI_MV.of (State.rd (State.wr _ (pgPOWER + POWER_SUPPLY) _) (pgPOWER + POWER_SUPPLY)) = p
    rw [State.rd_wr_self]
    simp only [Fld.of, bits, POWER_SUPPLY_PERI_MV, BitVec.toNat_ofNat, Nat.shiftRight_eq_div_pow]
    omega
  · rw [State.get_put_self _ _ _ _ (by decide)]
    exact Nat.mod_eq_of_lt (supplyFactor_lt ha)
  · rw [State.get_put_page _ _ _ _ _ (by decide) (by decide), State.get_put_self _ _ _ _ (by decide)]
    exact Nat.mod_eq_of_lt (supplyFactor_lt hp)
/-- Each class's LAST register shows what the Cadence was charged. -/
theorem lastShown_shows (s : State) (cls : List Nat) : ∀ k r, (k, r) ∈ lastRegs →
    (s.lastShown cls).rd (pgPOWER + r) = BitVec.ofNat 32 (sat32 (njOf (cls.getD k 0))) := by
  intro k r h
  unfold State.lastShown State.each lastRegs
  simp only [List.foldl_cons, List.foldl_nil]
  simp only [lastRegs, List.mem_cons, Prod.mk.injEq, List.not_mem_nil, or_false] at h
  rcases h with ⟨rfl, rfl⟩ | ⟨rfl, rfl⟩ | ⟨rfl, rfl⟩ | ⟨rfl, rfl⟩
  · rw [State.rd_wr_of_ne _ _ (by decide), State.rd_wr_of_ne _ _ (by decide), State.rd_wr_of_ne _ _ (by decide), State.rd_wr_self]
  · rw [State.rd_wr_of_ne _ _ (by decide), State.rd_wr_of_ne _ _ (by decide), State.rd_wr_self]
  · rw [State.rd_wr_of_ne _ _ (by decide), State.rd_wr_self]
  · rw [State.rd_wr_self]
theorem cadClosed_last (s : State) (a p k r : Nat) (h : (k, r) ∈ lastRegs) :
    (s.cadClosed a p).rd (pgPOWER + r) = BitVec.ofNat 32 (sat32 (njOf (s.energyAcc.cls.getD k 0))) := by
  have hreg : ∀ y ∈ lastRegs, y.2 ≠ POWER_LAST_STAT ∧ y.2 ≠ POWER_CAD_IDX ∧ y.2 ≠ POWER_SUPPLY ∧ y.2 ≠ POWER_VFACT := by decide
  obtain ⟨h1, h2, h3, h4⟩ := hreg _ h
  unfold State.cadClosed
  rw [sampled_rd _ _ _ _ _ _ h1 h2 h3 h4]
  exact lastShown_shows _ _ k r h
theorem cadClosed_over (s : State) (a p : Nat) (hb : s.energyAcc.budget ≠ 0) :
    (s.cadClosed a p).get pgPOWER POWER_OVER_CNT_COUNT = if s.energyAcc.budget * 1000 * njUnits < cadTotal s
      then min (s.get pgPOWER POWER_OVER_CNT_COUNT + 1) (2 ^ 32 - 1) else s.get pgPOWER POWER_OVER_CNT_COUNT := by
  have hlimit : cadLimit s = s.energyAcc.budget := if_neg fun h => hb h.1
  unfold State.cadClosed
  have hword : (s.overCounted.lastShown s.energyAcc.cls).rd (pgPOWER + POWER_OVER_CNT) = s.overCounted.rd (pgPOWER + POWER_OVER_CNT) :=
    lastShown_rd _ _ _ (by decide)
  refine (congrArg POWER_OVER_CNT_COUNT.of ((sampled_rd _ POWER_OVER_CNT _ _ _ _ (by decide) (by decide) (by decide)
    (by decide)).trans hword)).trans ?_
  show s.overCounted.get pgPOWER POWER_OVER_CNT_COUNT = _
  unfold State.overCounted
  rw [hlimit, State.cond_get, powerIrq_get _ _ _ (by decide), State.get_bumpSat_self _ _ _ _ (by decide)]
  simp only [decide_eq_true_eq]
  rfl

/-! ### The Cadence that begins (R487 to R491) -/

/-- The Cadence that begins: its totals, and its estimate of leakage charged. -/
def State.cadStarted (s : State) (k : Nat) : State :=
  s.nrg fun e => { e with
    ledger := e.ledger + s.get pgPOWER POWER_LEAK_EST_NJ * njUnits, stat := s.get pgPOWER POWER_LEAK_EST_NJ, cls := [0, 0, 0, 0], nobody := 0,
    cad := k, grant := s.get pgPOWER POWER_GRANT_UJ, beAdmitted := false, chunks := e.chunks.map fun c => { c with live := false } }
/-- B is FLOOR. -/
def atFloor (s : State) : Bool := emergency s || s.energyAcc.em0Down
def cadBudget (s : State) (grant : Nat) : Nat := if atFloor s then s.get pgPOWER POWER_FLOOR_UJ else grant
/-- B and the pools of the Cadence that begins. -/
def State.floorShown (s : State) : State := s.put pgPOWER POWER_ARB_STAT_FLOOR_ACT (b2n (atFloor s))
def State.budgeted (s : State) (leak b : Nat) : State :=
  s.nrg fun e => { e with
    budget := b, rtPool := njInt (1000 * s.get pgPOWER POWER_RT_RES_UJ),
    lcPool := if emergency s then 0 else njInt (1000 * s.get pgPOWER POWER_LC_RES_UJ),
    pool := njInt (1000 * b) - njInt leak - njInt (1000 * s.get pgPOWER POWER_RT_RES_UJ) -
      if emergency s then 0 else njInt (1000 * s.get pgPOWER POWER_LC_RES_UJ) }
/-- The triggers of the recorder on a Cadence. -/
def State.cadTriggers (s : State) (k : Nat) : State :=
  s.each (triggers s 6) fun s n => s.cond (k % (bits (trgCfg s n) 15 0 + 1) == 0) fun s => s.trigger n (k % 2 ^ 32) 0
/-- The Cadence k opened, before its triggers. -/
def State.cadOpened (s : State) (k : Nat) : State :=
  let leak := s.get pgPOWER POWER_LEAK_EST_NJ
  let grant := s.get pgPOWER POWER_GRANT_UJ
  let u := (s.cadStarted k).em0Expire
  (u.floorShown.budgeted leak (cadBudget u grant)).retryChunks true
theorem exec_cadenceBoundary (s : State) (a p : Nat) (hclk : s.clockOn = true) (hnow : 10000 * (s.energyAcc.cad + 1) ≤ s.now) :
    exec (.cadenceBoundary a p) s = .next (((s.cadClosed a p).cadOpened (s.energyAcc.cad + 1)).cadTriggers (s.energyAcc.cad + 1)) := by
  show execCadenceBoundary a p s = _
  unfold execCadenceBoundary
  dsimp only
  rw [if_neg (by rw [hclk]; simp; omega)]
  rfl

/-! ### What the Cadence that begins shows (R487 to R491) -/

/-- The ledger's totals without the pools and the chunks. -/
def EnergySt.sansPools (e : EnergySt) : EnergySt := { e with pool := 0, rtPool := 0, lcPool := 0, chunks := [], beAdmitted := false }
theorem admitFrom_sansPools (s : State) (h : Chunk) (p : Nat) : (s.admitFrom h p).energyAcc.sansPools = s.energyAcc.sansPools := by
  unfold State.admitFrom State.commit
  dsimp only
  split <;> rfl
/-- Chunks retried change the pools and the chunks alone. -/
theorem retryChunks_sansPools (s : State) (b : Bool) : (s.retryChunks b).energyAcc.sansPools = s.energyAcc.sansPools := by
  unfold State.retryChunks
  generalize (List.filter _ _ : List Chunk) = l
  suffices h : ∀ (l : List Chunk) (acc : Bool × State), (l.foldl (fun (acc : Bool × State) h =>
      let (ahead, s) := acc
      match admitPool s h.tid h.est ahead (b && !ahead) with
      | some pool => (ahead, s.admitFrom h pool)
      | none => (true, s)) acc).2.energyAcc.sansPools = acc.2.energyAcc.sansPools from h l (false, s)
  intro l
  induction l with
  | nil => exact fun _ => rfl
  | cons c l ih =>
    intro acc
    rw [List.foldl_cons, ih]
    dsimp only
    split
    · exact admitFrom_sansPools ..
    · rfl
/-- With no chunk, none is retried. -/
theorem retryChunks_none (s : State) (b : Bool) (h : s.energyAcc.chunks = []) : s.retryChunks b = s := by
  unfold State.retryChunks
  rw [h]
  rfl
/-- EM0 alive, or known to be dead, B stays. -/
theorem em0Expire_alive (s : State) (h : s.energyAcc.em0Down = true ∨ em0Alive s = true) : s.em0Expire = s := by
  unfold State.em0Expire
  rw [if_pos]
  simpa using h
/-- The state in which EM0 has been found dead. -/
def State.em0Dead (s : State) : State := (s.nrg fun e => { e with em0Down := true }).irq pgPOWER 4
theorem em0Expire_dead (s : State) (hd : s.energyAcc.em0Down = false) (ha : em0Alive s = false) : s.em0Expire =
    s.em0Dead.cond (!s.em0Dead.flag pgPOWER POWER_ARB_STAT_FLOOR_ACT) fun s => s.setBudget (s.get pgPOWER POWER_FLOOR_UJ) true false := by
  unfold State.em0Expire
  rw [if_neg (by rw [hd, ha]; decide)]
  rfl
/-- The expiry of EM0 changes B, the pools and ARB_STAT. -/
theorem em0Expire_frame (s : State) :
    (∀ o, 0x40 ≤ o → o < 0x1000 → o ≠ POWER_ARB_STAT → s.em0Expire.rd (pgPOWER + o) = s.rd (pgPOWER + o)) ∧
    s.em0Expire.energyAcc.cls = s.energyAcc.cls ∧ s.em0Expire.energyAcc.stat = s.energyAcc.stat ∧
    s.em0Expire.energyAcc.ledger = s.energyAcc.ledger ∧ s.em0Expire.energyAcc.cad = s.energyAcc.cad := by
  by_cases h : s.energyAcc.em0Down = true ∨ em0Alive s = true
  · rw [em0Expire_alive s h]
    exact ⟨fun _ _ _ _ => rfl, rfl, rfl, rfl, rfl⟩
  · rw [not_or, Bool.not_eq_true, Bool.not_eq_true] at h
    obtain ⟨hd, ha⟩ := h
    rw [em0Expire_dead s hd ha]
    have hrd : ∀ o, 0x40 ≤ o → o < 0x1000 → s.em0Dead.rd (pgPOWER + o) = s.rd (pgPOWER + o) := fun o hlo hhi => by
      unfold State.em0Dead
      rw [State.irq_rd _ _ _ _ (by simp only [HDR_IRQ_STAT]; omega) (by simp only [pgPOWER, pgREC]; omega), State.nrg_rd]
    have hacc : s.em0Dead.energyAcc = { s.energyAcc with em0Down := true } := State.irq_energyAcc ..
    generalize s.em0Dead = u at *
    unfold State.cond
    split
    · refine ⟨fun o hlo hhi hne => ?_, ?_, ?_, ?_, ?_⟩
      · exact (State.rd_put_of_ne u (f := POWER_ARB_STAT_FLOOR_ACT) _ fun e => hne (Nat.add_left_cancel e)).trans (hrd o hlo hhi)
      · exact (congrArg EnergySt.cls hacc :)
      · exact (congrArg EnergySt.stat hacc :)
      · exact (congrArg EnergySt.ledger hacc :)
      · exact (congrArg EnergySt.cad hacc :)
    · exact ⟨fun o hlo hhi _ => hrd o hlo hhi, (congrArg EnergySt.cls hacc :), (congrArg EnergySt.stat hacc :),
        (congrArg EnergySt.ledger hacc :), (congrArg EnergySt.cad hacc :)⟩
/-- The triggers of a Cadence change the recorder alone. -/
theorem cadTriggers_frame (s : State) (k : Nat) :
    (∀ o < pgREC, (s.cadTriggers k).rd o = s.rd o) ∧ (s.cadTriggers k).energyAcc = s.energyAcc := by
  have hlt : ∀ n ∈ triggers s 6, n < 32 := fun n hn => List.mem_range.mp (List.mem_filter.mp hn).1
  unfold State.cadTriggers
  generalize triggers s 6 = l at *
  refine ⟨fun o ho => State.each_mem (fun s => s.rd o) _ l (fun u n hn => ?_) s, State.each_of State.energyAcc _ (fun u n => ?_) l s⟩
  · rw [State.cond_rd, State.trigger_rd _ _ _ _ _ (hlt n hn) (.inl ho), ite_self]
  · rw [State.cond_energyAcc, show (u.trigger n (k % 2 ^ 32) 0).energyAcc = u.energyAcc from
      (congrArg State.energyAcc (State.trigger_bare u n (k % 2 ^ 32) 0) :), ite_self]
theorem cadStarted_acc (s : State) (k : Nat) :
    (s.cadStarted k).energyAcc.cls = [0, 0, 0, 0] ∧ (s.cadStarted k).energyAcc.stat = s.get pgPOWER POWER_LEAK_EST_NJ ∧
      (s.cadStarted k).energyAcc.ledger = s.energyAcc.ledger + s.get pgPOWER POWER_LEAK_EST_NJ * njUnits ∧ (s.cadStarted k).energyAcc.cad = k := by
  unfold State.cadStarted
  rw [State.nrg_energyAcc]
  exact ⟨rfl, rfl, rfl, rfl⟩
theorem floorShown_rd (s : State) (o : Nat) (h : o ≠ POWER_ARB_STAT) : s.floorShown.rd (pgPOWER + o) = s.rd (pgPOWER + o) := by
  unfold State.floorShown
  exact State.rd_put_of_ne s _ fun e => h (Nat.add_left_cancel e)
theorem budgeted_sansPools (s : State) (leak b : Nat) :
    (s.budgeted leak b).energyAcc.sansPools = { s.energyAcc.sansPools with budget := b } := by
  unfold State.budgeted
  rw [State.nrg_energyAcc]
  rfl
theorem retryChunks_rd (s : State) (b : Bool) (o : Nat) : (s.retryChunks b).rd o = s.rd o := by
  have hregs : (s.retryChunks b).regs = s.regs := (congrArg State.regs (State.retryChunks_sansE s b) :)
  have hcfg : (s.retryChunks b).cfg = s.cfg := (congrArg State.cfg (State.retryChunks_sansE s b) :)
  unfold State.rd
  rw [hregs, hcfg]
/-- The Cadence opened: every register but ARB_STAT stays, its totals start anew, and its estimate of leakage is charged. -/
theorem cadOpened_frame (s : State) (k : Nat) :
    (∀ o, 0x40 ≤ o → o < 0x1000 → o ≠ POWER_ARB_STAT → (s.cadOpened k).rd (pgPOWER + o) = s.rd (pgPOWER + o)) ∧
    (s.cadOpened k).energyAcc.cls = [0, 0, 0, 0] ∧ (s.cadOpened k).energyAcc.stat = s.get pgPOWER POWER_LEAK_EST_NJ ∧
    (s.cadOpened k).energyAcc.ledger = s.energyAcc.ledger + s.get pgPOWER POWER_LEAK_EST_NJ * njUnits ∧ (s.cadOpened k).energyAcc.cad = k := by
  obtain ⟨hcls, hstat, hledger, hcad⟩ := cadStarted_acc s k
  have hstart : ∀ o, (s.cadStarted k).rd o = s.rd o := fun o => State.nrg_rd ..
  unfold State.cadOpened
  dsimp only
  generalize s.get pgPOWER POWER_LEAK_EST_NJ = leak at *
  generalize s.get pgPOWER POWER_GRANT_UJ = grant
  generalize s.cadStarted k = c at *
  obtain ⟨hrd, hcls', hstat', hledger', hcad'⟩ := em0Expire_frame c
  generalize c.em0Expire = u at *
  have hpools : ((u.floorShown.budgeted leak (cadBudget u grant)).retryChunks true).energyAcc.sansPools =
      { u.energyAcc.sansPools with budget := cadBudget u grant } :=
    ((retryChunks_sansPools _ true).trans (budgeted_sansPools ..)).trans (congrArg (fun e : EnergySt => { e.sansPools with
      budget := cadBudget u grant }) (State.put_energyAcc ..))
  refine ⟨fun o hlo hhi hne => ?_, ?_, ?_, ?_, ?_⟩
  · rw [retryChunks_rd, ← hstart, ← hrd o hlo hhi hne, ← floorShown_rd u o hne]
    exact State.nrg_rd ..
  · exact ((congrArg EnergySt.cls hpools :).trans hcls').trans hcls
  · exact ((congrArg EnergySt.stat hpools :).trans hstat').trans hstat
  · exact ((congrArg EnergySt.ledger hpools :).trans hledger').trans hledger
  · exact ((congrArg EnergySt.cad hpools :).trans hcad').trans hcad

/-! ### B with EM0 alive (R489, R490), and without it -/

/-- EM0 alive, and no chunk: B and the pools follow from EMERGENCY and the registers. -/
theorem cadOpened_alive (s : State) (k : Nat) (ha : k ≤ s.energyAcc.aliveAt + 2)
    (hc : s.energyAcc.chunks = []) :
    s.cadOpened k = (s.cadStarted k).floorShown.budgeted (s.get pgPOWER POWER_LEAK_EST_NJ)
      (cadBudget (s.cadStarted k) (s.get pgPOWER POWER_GRANT_UJ)) := by
  have halive : em0Alive (s.cadStarted k) = true := by
    unfold em0Alive State.cadStarted
    rw [State.nrg_energyAcc]
    exact decide_eq_true ha
  have hchunks : ∀ leak b, ((s.cadStarted k).floorShown.budgeted leak b).energyAcc.chunks = [] := fun leak b => by
    unfold State.budgeted State.floorShown State.cadStarted
    rw [State.nrg_energyAcc, State.put_energyAcc, State.nrg_energyAcc]
    dsimp only
    rw [hc]
    rfl
  unfold State.cadOpened
  dsimp only
  rw [em0Expire_alive _ (.inr halive), retryChunks_none _ _ (hchunks ..)]
/-- What the registers and EMERGENCY make of B and the pools. -/
structure Budgeted (s t : State) : Prop where
  budget : t.energyAcc.budget = if emergency s then s.get pgPOWER POWER_FLOOR_UJ else s.get pgPOWER POWER_GRANT_UJ
  rt : t.energyAcc.rtPool = njInt (1000 * s.get pgPOWER POWER_RT_RES_UJ)
  lc : t.energyAcc.lcPool = if emergency s then 0 else njInt (1000 * s.get pgPOWER POWER_LC_RES_UJ)
  pool : t.energyAcc.pool = njInt (1000 * t.energyAcc.budget) - njInt (s.get pgPOWER POWER_LEAK_EST_NJ) - t.energyAcc.rtPool - t.energyAcc.lcPool
  floor : t.flag pgPOWER POWER_ARB_STAT_FLOOR_ACT = emergency s
theorem cadOpened_budgeted (s : State) (k : Nat) (hd : s.energyAcc.em0Down = false) (ha : k ≤ s.energyAcc.aliveAt + 2)
    (hc : s.energyAcc.chunks = []) : Budgeted s (s.cadOpened k) := by
  rw [cadOpened_alive s k ha hc]
  have hget : ∀ f, (s.cadStarted k).get pgPOWER f = s.get pgPOWER f := fun f => State.nrg_get ..
  have hdown : (s.cadStarted k).energyAcc.em0Down = false := by
    unfold State.cadStarted
    rw [State.nrg_energyAcc]
    exact hd
  have hemg : emergency (s.cadStarted k) = emergency s := nrg_flag ..
  generalize s.cadStarted k = c at *
  have hfloor : atFloor c = emergency s := by
    unfold atFloor
    rw [hemg, hdown, Bool.or_false]
  have hflag : c.floorShown.flag pgPOWER POWER_ARB_STAT_FLOOR_ACT = emergency s := by
    unfold State.floorShown
    rw [hfloor]
    exact State.flag_put_self _ _ _ _ (by decide) rfl
  have hshown : ∀ f : Fld, f.off ≠ POWER_ARB_STAT → c.floorShown.get pgPOWER f = s.get pgPOWER f := fun f h =>
    (congrArg f.of (floorShown_rd c f.off h)).trans (hget f)
  have hemgShown : emergency c.floorShown = emergency s := (State.flag_congr (hshown _ (by decide)))
  have hbudget : cadBudget c (s.get pgPOWER POWER_GRANT_UJ) =
      if emergency s then s.get pgPOWER POWER_FLOOR_UJ else s.get pgPOWER POWER_GRANT_UJ := by
    unfold cadBudget
    rw [hfloor, hget]
  have hrt := hshown POWER_RT_RES_UJ (by decide)
  have hlc := hshown POWER_LC_RES_UJ (by decide)
  generalize c.floorShown = u at *
  unfold State.budgeted
  rw [hbudget, hemgShown, hrt, hlc]
  refine ⟨?_, ?_, ?_, ?_, (nrg_flag ..).trans hflag⟩ <;> simp only [State.nrg_energyAcc]
theorem cadClosed_emergency (s : State) (a p : Nat) : emergency (s.cadClosed a p) = emergency s :=
  State.flag_congr (cadClosed_get s a p _ (by unfold OffCad; decide))

section
variable {s : State} (a p : Nat) (hclk : s.clockOn = true) (hnow : 10000 * (s.energyAcc.cad + 1) ≤ s.now)
include hclk hnow
/-- After a boundary a register of the page, but ARB_STAT, is as the close of the Cadence left it. -/
theorem cadenceBoundary_frame : ∃ t, exec (.cadenceBoundary a p) s = .next t ∧
    t = ((s.cadClosed a p).cadOpened (s.energyAcc.cad + 1)).cadTriggers (s.energyAcc.cad + 1) ∧
    ∀ o, 0x40 ≤ o → o < 0x1000 → o ≠ POWER_ARB_STAT → t.rd (pgPOWER + o) = (s.cadClosed a p).rd (pgPOWER + o) := by
  refine ⟨_, exec_cadenceBoundary s a p hclk hnow, rfl, fun o hlo hhi hne => ?_⟩
  obtain ⟨hopened, -⟩ := cadOpened_frame (s.cadClosed a p) (s.energyAcc.cad + 1)
  obtain ⟨htrig, -⟩ := cadTriggers_frame ((s.cadClosed a p).cadOpened (s.energyAcc.cad + 1)) (s.energyAcc.cad + 1)
  rw [htrig _ (by simp only [pgPOWER, pgREC]; omega), hopened o hlo hhi hne]
theorem cadenceBoundary_shows (ha : a < 2000) (hp : p < 2000) :
    ∃ t, exec (.cadenceBoundary a p) s = .next t ∧ t.energyAcc.cad = s.energyAcc.cad + 1 ∧
      t.rd (pgPOWER + POWER_CAD_IDX) = BitVec.ofNat 32 (s.energyAcc.cad + 1) ∧
      t.get pgPOWER POWER_SUPPLY_ARRAY_MV = a ∧ t.get pgPOWER POWER_SUPPLY_PERI_MV = p ∧
      t.get pgPOWER POWER_VFACT_VF_ARR = supplyFactor a ∧ t.get pgPOWER POWER_VFACT_VF_PERI = supplyFactor p ∧
      t.energyAcc.cls = [0, 0, 0, 0] ∧ t.energyAcc.stat = s.get pgPOWER POWER_LEAK_EST_NJ ∧
      t.energyAcc.ledger = s.energyAcc.ledger + s.get pgPOWER POWER_LEAK_EST_NJ * njUnits ∧
      (∀ k r, (k, r) ∈ lastRegs → t.rd (pgPOWER + r) = BitVec.ofNat 32 (sat32 (njOf (s.energyAcc.cls.getD k 0)))) := by
  obtain ⟨t, hexec, ht, hrd⟩ := cadenceBoundary_frame a p hclk hnow
  obtain ⟨hidx, harr, hperi, hvarr, hvperi⟩ := cadClosed_samples s a p ha hp
  have hlast := cadClosed_last s a p
  have hleak : (s.cadClosed a p).get pgPOWER POWER_LEAK_EST_NJ = s.get pgPOWER POWER_LEAK_EST_NJ :=
    cadClosed_get s a p _ (by unfold OffCad; decide)
  have hacc := cadClosed_energy s a p
  generalize s.cadClosed a p = c at *
  obtain ⟨-, hcls, hstat, hledger, hcad⟩ := cadOpened_frame c (s.energyAcc.cad + 1)
  obtain ⟨-, htrig⟩ := cadTriggers_frame (c.cadOpened (s.energyAcc.cad + 1)) (s.energyAcc.cad + 1)
  rw [← ht] at htrig
  have hreg : ∀ y ∈ lastRegs, 0x40 ≤ y.2 ∧ y.2 < 0x1000 ∧ y.2 ≠ POWER_ARB_STAT := by decide
  refine ⟨t, hexec, ?_, ?_, ?_, ?_, ?_, ?_, ?_, ?_, ?_, fun k r h => ?_⟩
  · rw [htrig, hcad]
  · rw [hrd _ (by decide) (by decide) (by decide), hidx]
  · exact (congrArg POWER_SUPPLY_ARRAY_MV.of (hrd POWER_SUPPLY (by decide) (by decide) (by decide))).trans harr
  · exact (congrArg POWER_SUPPLY_PERI_MV.of (hrd POWER_SUPPLY (by decide) (by decide) (by decide))).trans hperi
  · exact (congrArg POWER_VFACT_VF_ARR.of (hrd POWER_VFACT (by decide) (by decide) (by decide))).trans hvarr
  · exact (congrArg POWER_VFACT_VF_PERI.of (hrd POWER_VFACT (by decide) (by decide) (by decide))).trans hvperi
  · rw [htrig, hcls]
  · rw [htrig, hstat, hleak]
  · rw [htrig, hledger, hleak, hacc]
  · obtain ⟨h1, h2, h3⟩ := hreg _ h
    rw [hrd r h1 h2 h3, hlast k r h]
theorem cadenceBoundary_budget (hd : s.energyAcc.em0Down = false) (halive : s.energyAcc.cad + 1 ≤ s.energyAcc.aliveAt + 2)
    (hc : s.energyAcc.chunks = []) : ∃ t, exec (.cadenceBoundary a p) s = .next t ∧ Budgeted s t := by
  obtain ⟨t, hexec, ht, -⟩ := cadenceBoundary_frame a p hclk hnow
  refine ⟨t, hexec, ?_⟩
  have hget : ∀ f : Fld, OffCad f.off → (s.cadClosed a p).get pgPOWER f = s.get pgPOWER f := cadClosed_get s a p
  have hemg := cadClosed_emergency s a p
  have hacc := cadClosed_energy s a p
  generalize s.cadClosed a p = c at *
  obtain ⟨hbudget, hrt, hlc, hpool, hfloor⟩ := cadOpened_budgeted c (s.energyAcc.cad + 1) (by rw [hacc]; exact hd) (by rw [hacc]; exact halive)
    (by rw [hacc]; exact hc)
  obtain ⟨hregs, htrig⟩ := cadTriggers_frame (c.cadOpened (s.energyAcc.cad + 1)) (s.energyAcc.cad + 1)
  rw [← ht] at htrig hregs
  rw [hemg, hget _ (by unfold OffCad; decide), hget _ (by unfold OffCad; decide)] at hbudget
  rw [hget _ (by unfold OffCad; decide)] at hrt
  rw [hemg, hget _ (by unfold OffCad; decide)] at hlc
  rw [hget _ (by unfold OffCad; decide)] at hpool
  refine ⟨?_, ?_, ?_, ?_, ?_⟩
  · rw [htrig, hbudget]
  · rw [htrig, hrt]
  · rw [htrig, hlc]
  · rw [htrig, hpool]
  · rw [← hemg, ← hfloor]
    exact State.flag_congr (congrArg POWER_ARB_STAT_FLOOR_ACT.of (hregs (pgPOWER + POWER_ARB_STAT) (by decide)))
theorem cadenceBoundary_over (hb : s.energyAcc.budget ≠ 0) :
    ∃ t, exec (.cadenceBoundary a p) s = .next t ∧ t.get pgPOWER POWER_OVER_CNT_COUNT =
      if s.energyAcc.budget * 1000 * njUnits < cadTotal s
      then min (s.get pgPOWER POWER_OVER_CNT_COUNT + 1) (2 ^ 32 - 1) else s.get pgPOWER POWER_OVER_CNT_COUNT := by
  obtain ⟨t, hexec, -, hrd⟩ := cadenceBoundary_frame a p hclk hnow
  exact ⟨t, hexec, (congrArg POWER_OVER_CNT_COUNT.of (hrd POWER_OVER_CNT (by decide) (by decide) (by decide))).trans (cadClosed_over s a p hb)⟩
end

/-- EM0 found dead: B is FLOOR, which ARB_STAT shows, with the interrupt. -/
theorem emAliveExpiry_floors (s : State) (hd : s.energyAcc.em0Down = false) (ha : em0Alive s = false)
    (hf : s.flag pgPOWER POWER_ARB_STAT_FLOOR_ACT = false) :
    ∃ t, exec .emAliveExpiry s = .next t ∧ t.energyAcc.em0Down = true ∧ t.energyAcc.budget = s.get pgPOWER POWER_FLOOR_UJ ∧
      t.flag pgPOWER POWER_ARB_STAT_FLOOR_ACT = true ∧ (t.rd (pgPOWER + HDR_IRQ_STAT)).toNat.testBit 4 = true := by
  refine ⟨s.em0Expire, rfl, ?_⟩
  rw [em0Expire_dead s hd ha]
  have hflag : s.em0Dead.flag pgPOWER POWER_ARB_STAT_FLOOR_ACT = false :=
    (State.flag_congr (powerIrq_get _ _ _ (by decide))).trans ((nrg_flag ..).trans hf)
  have hfloor : s.em0Dead.get pgPOWER POWER_FLOOR_UJ = s.get pgPOWER POWER_FLOOR_UJ := (powerIrq_get _ _ _ (by decide)).trans (State.nrg_get ..)
  have hirq : (s.em0Dead.rd (pgPOWER + HDR_IRQ_STAT)).toNat.testBit 4 = true := State.irq_sets _ _ _ (by decide) (by decide)
  have hdown : s.em0Dead.energyAcc.em0Down = true := (congrArg EnergySt.em0Down (State.irq_energyAcc ..) :)
  generalize s.em0Dead = u at *
  rw [hflag, Bool.not_false, State.cond_true, hfloor]
  unfold State.setBudget
  dsimp only
  rw [State.nrg_energyAcc, State.put_energyAcc, if_neg (by decide), nrg_flag, State.nrg_rd]
  refine ⟨hdown, rfl, State.flag_put_self _ _ _ true (by decide) rfl, ?_⟩
  rw [State.rd_put_of_ne _ _ (by decide)]
  exact hirq

/-- Settles O42: the Cadence closed, the one opened, its over-count, and the expiry of EM0. -/
theorem cadenceAndBudget : Obligations.CadenceAndBudget := by
  refine ⟨fun s a p hclk hnow ha hp => cadenceBoundary_shows a p hclk hnow ha hp, fun s a p hclk hnow hd ha hc => ?_,
    fun s a p hclk hnow hb => cadenceBoundary_over a p hclk hnow hb, emAliveExpiry_floors⟩
  obtain ⟨t, hexec, hbudget, hrt, hlc, hpool, hfloor⟩ := cadenceBoundary_budget a p hclk hnow hd ha hc
  exact ⟨t, hexec, hbudget, hrt, hlc, hpool, hfloor⟩

end Sys2Proof.Machine

/-! PROOFS. What the end of a rim ALU's steps leaves (spec/08_rim_alus.md R250 to R261): its registers and records change, and claims may go. -/
namespace Sys2Proof.Machine

/-- The storage, the accesses in flight, the integrity and test structures, and the registers outside the RIMALU page are kept, and a Hub
without claims, and a rim whose ALU has no step, are so after. -/
structure Steps (s t : State) : Prop where
  array : t.array = s.array
  integ : t.integ = s.integ
  test : t.test = s.test
  flight : t.hub.flight = s.hub.flight
  claims : s.hub.claims = [] → t.hub.claims = []
  kernels : ∀ n p, (rimOf s n p).kq = none → (rimOf t n p).kq = none
  regs : ∀ o, o < pgRIMALU ∨ pgCACHE ≤ o → t.rd o = s.rd o

theorem Steps.refl (s : State) : Steps s s := ⟨rfl, rfl, rfl, rfl, id, fun _ _ h => h, fun _ _ => rfl⟩
theorem Steps.trans {s t u : State} (h : Steps s t) (k : Steps t u) : Steps s u :=
  ⟨k.array.trans h.array, k.integ.trans h.integ, k.test.trans h.test, k.flight.trans h.flight, fun e => k.claims (h.claims e),
    fun n p e => k.kernels n p (h.kernels n p e), fun o ho => (k.regs o ho).trans (h.regs o ho)⟩
theorem cond_steps {s : State} (c : Bool) {f : State → State} (h : Steps s (f s)) : Steps s (s.cond c f) := by
  unfold State.cond
  split
  · exact h
  · exact .refl s
theorem Steps.each {α : Type} {f : State → α → State} (h : ∀ s a, Steps s (f s a)) (l : List α) (s : State) : Steps s (s.each l f) := by
  induction l generalizing s with
  | nil => exact .refl s
  | cons a l ih => exact (h s a).trans (ih (f s a))

section
variable (s : State)
theorem putAlu_steps {f : Fld} (v : Nat) (h : f.off < 0x10000) : Steps s (s.put pgRIMALU f v) :=
  ⟨rfl, rfl, rfl, rfl, id, fun _ _ h => h, fun _ ho => State.rd_put_of_ne s v (by simp only [pgRIMALU, pgCACHE] at ho ⊢; omega)⟩
theorem setRaq_steps (q : Nat) (f : RaQueue → RaQueue) : Steps s (s.setRaq q f) := ⟨rfl, rfl, rfl, rfl, id, fun _ _ h => h, fun _ _ => rfl⟩
theorem failStep_steps (q step st : Nat) : Steps s (s.failStep q step st) := by
  have hdrop : Steps s (s.dropClaims (raUnit q step)) :=
    ⟨rfl, rfl, rfl, rfl, fun h => by show s.hub.claims.filter _ = []; rw [h]; rfl, fun _ _ h => h, fun _ _ => rfl⟩
  unfold State.failStep State.headRec
  exact hdrop.trans (setRaq_steps ..)
theorem stepsDone_steps (n : Nat) : Steps s (s.stepsDone n) := putAlu_steps s _ (by decide)
theorem sendSteps_steps (q : Nat) : Steps s (s.sendSteps q) := by
  unfold State.sendSteps
  split
  · exact .refl s
  · exact setRaq_steps ..
theorem stepEnd_steps {q : Nat} (step st : Nat) (word : Option Nat) (hq : q < 4) : Steps s (s.stepEnd q step st word) := by
  have hresult : (RIMALU_Q_RESULT_VALUE.at 32 q).off < 0x10000 := by
    show RIMALU_Q_RESULT_VALUE.off + 32 * q < 0x10000
    simp only [RIMALU_Q_RESULT_VALUE]
    omega
  unfold State.stepEnd
  dsimp only
  have hfly : Steps s (s.headRec q fun r => { r with fly := r.fly.filter (· != step) }) := setRaq_steps ..
  generalize (s.headRec q fun r => { r with fly := r.fly.filter (· != step) }) = u at *
  split
  · refine Steps.trans ?_ ((stepsDone_steps _ 1).trans (sendSteps_steps ..))
    cases word with
    | none =>
      dsimp only
      split
      · rename_i hsome
        cases hsome
      · exact hfly
    | some w =>
      dsimp only
      have hred : Steps s (u.headRec q fun r => { r with red := Sp.set r.red step w }) := hfly.trans (setRaq_steps ..)
      split
      · exact hred.trans (cond_steps _ (putAlu_steps _ _ hresult))
      · exact hred
  · exact hfly.trans (failStep_steps ..)
theorem stepsLand_steps {q : Nat} (hq : q < 4) : Steps s (s.stepsLand q) := by
  unfold State.stepsLand
  split
  · exact .refl s
  · exact .each (fun u e => (setRaq_steps ..).trans (stepEnd_steps _ _ _ _ hq)) _ s
theorem stepsLanded_steps : Steps s (s.each [0, 1, 2, 3] fun s q => s.stepsLand q) :=
  (((stepsLand_steps s (by decide)).trans (stepsLand_steps _ (by decide))).trans (stepsLand_steps _ (by decide))).trans
    (stepsLand_steps _ (by decide))

/-- A rim that is lost, with no claim at it and no step of its ALU: a reserved half of the ALU goes, and the ended steps land. -/
theorem rim_steps (n p : Nat) (f : RimSt → RimSt) (hk : ∀ r, r.kq = none → (f r).kq = none) : Steps s (s.rim n p f) :=
  ⟨rfl, rfl, rfl, rfl, id, (rim_rests s n p f hk).kernels, fun _ _ => rfl⟩
theorem loseStep_steps (layer i st : Nat) (hclaims : s.hub.claims = []) (hkernel : (rimOf s layer (physOf s layer i)).kq = none) :
    Steps s (s.loseStep layer i st) := by
  have hnone : s.loseStep layer i st = s.loseClaims layer i st := by
    unfold State.loseStep
    dsimp only
    rw [hkernel]
  rw [hnone]
  unfold State.loseClaims
  extract_lets p u v
  have hu : Steps s u := by
    unfold u
    split
    · split
      · exact (rim_steps s layer p (fun r => { r with half := none }) fun _ h => h).trans (failStep_steps ..)
      · exact .refl s
    · exact .refl s
  have hv : Steps s v := by
    have hno : claimsAt u layer i = [] := by
      unfold claimsAt
      rw [hu.claims hclaims]
      rfl
    unfold v
    rw [hno]
    exact hu
  exact hv.trans (stepsLanded_steps v)
end

end Sys2Proof.Machine

/-! PROOFS. A rim's grant of a write-back (spec/15_integrity.md R445, R446; spec/06_hub.md R180). -/
namespace Sys2Proof.Machine

/-! ### What the counts of a grant leave -/

/-- A register of the INTEG page. -/
def InInteg (o : Nat) : Prop := pgINTEG ≤ o ∧ o < pgPOWER
/-- The storage, the accesses in flight and the registers of the INTEG page are kept. -/
structure Stays (s t : State) : Prop where
  array : t.array = s.array
  flight : t.hub.flight = s.hub.flight
  regs : ∀ o, InInteg o → t.rd o = s.rd o

theorem Stays.refl (s : State) : Stays s s := ⟨rfl, rfl, fun _ _ => rfl⟩
theorem Steps.stays {s t : State} (h : Steps s t) : Stays s t :=
  ⟨h.array, h.flight, fun o ho => h.regs o (.inr (Nat.le_trans (by decide) ho.1))⟩
theorem Stays.trans {s t u : State} (h : Stays s t) (k : Stays t u) : Stays s u :=
  ⟨k.array.trans h.array, k.flight.trans h.flight, fun o ho => (k.regs o ho).trans (h.regs o ho)⟩
theorem cond_stays {s : State} (c : Bool) {f : State → State} (h : Stays s (f s)) : Stays s (s.cond c f) := by
  unfold State.cond
  split
  · exact h
  · exact .refl s
theorem Stays.each {α : Type} {f : State → α → State} (h : ∀ s a, Stays s (f s a)) (l : List α) (s : State) : Stays s (s.each l f) := by
  induction l generalizing s with
  | nil => exact .refl s
  | cons a l ih => exact (h s a).trans (ih (f s a))

section
variable (s : State)
/-- A field put outside the page. -/
theorem put_stays {a : Nat} {f : Fld} (v : Nat) (h : ¬ InInteg (a + f.off)) : Stays s (s.put a f v) :=
  ⟨rfl, rfl, fun _ ho => State.rd_put_of_ne s v fun e => h (e ▸ ho)⟩
theorem tidCnt_stays (t : Nat) (f : TidCnt → TidCnt) : Stays s (s.tidCnt t f) := ⟨rfl, rfl, fun _ _ => rfl⟩
theorem rim_stays (n p : Nat) (f : RimSt → RimSt) : Stays s (s.rim n p f) := ⟨rfl, rfl, fun _ _ => rfl⟩
theorem energy_stays (k n t : Nat) (w : Option Nat) : Stays s (s.energy k n t w) := ⟨rfl, rfl, fun _ _ => rfl⟩
theorem oneAcc_stays (n p : Nat) (l : List Nat) (w : Option Nat) : Stays s (s.oneAcc n p l w) := by
  have hrim : ¬ InInteg (rimBase n p + RIM_ACC_CNT_COUNT.off) := by
    unfold InInteg rimBase layerBase
    simp only [pgINTEG, pgPOWER]
    omega
  unfold State.oneAcc
  dsimp only
  have hgov : ∀ u : State, Stays u (u.hubf fun h => { h with govStarts := h.govStarts + 1 }) := fun _ => ⟨rfl, rfl, fun _ _ => rfl⟩
  exact (((put_stays s _ hrim).trans (hgov _)).trans (energy_stays ..)).trans (.each (fun u t => tidCnt_stays u t _) _ _)
theorem countAcc_stays (n i : Nat) (l k : List Nat) (w : Option Nat) : Stays s (s.countAcc n i l k w) := by
  unfold State.countAcc
  refine cond_stays _ ?_
  dsimp only
  split
  · exact (oneAcc_stays ..).trans (cond_stays _ (oneAcc_stays ..))
  · exact oneAcc_stays ..
theorem countDispl_stays (arb : Nat) (c : List Access → List Access) (l g : List Access) : Stays s (s.countDispl arb c l g) := by
  unfold State.countDispl
  refine .each (fun u a => ?_) _ _
  split
  · exact tidCnt_stays ..
  · exact .refl u
theorem countGrant_stays (arb : Nat) (a : Access) : Stays s (s.countGrant arb a) := by
  unfold State.countGrant
  dsimp only
  exact (tidCnt_stays ..).trans (cond_stays _ (put_stays _ _ (by unfold InInteg; decide)))
end

/-! ### A rim grants its one entry (R180) -/

/-- What a rim grants now. -/
def rimTakes (s : State) (layer i : Nat) : List Access :=
  let arb := arbRim layer i
  let st := rimOf s layer (physOf s layer i)
  let busy := (st.half.map (·.banks)).getD []
  let free := (List.range 16).filter fun b => !busy.contains b
  let ok := served s arb ((eligible s layer i (rimEntries s layer i)).filter fun a => !govHolds s arb a)
  rimGrant s arb (outStage s layer i) free (!st.norm) (ok.length + 1) ok
theorem wins_eq (s : State) (layer i seq : Nat) : wins s layer i seq = (rimTakes s layer i).any fun a => a.seq == seq := rfl

section
variable {s : State} {a : Access}
/-- A choice from one entry that takes no place of the output stage. -/
theorem rimGrant_one (arb : Nat) (out : List Access) (free : List Nat) (rmwOk : Bool) (n : Nat) (ha : a.crosses = false) :
    rimGrant s arb out free rmwOk (n + 1) [a] = [a] ∨ rimGrant s arb out free rmwOk (n + 1) [a] = [] := by
  have hchoice : rimChoice s free rmwOk [a] = [a] ∨ rimChoice s free rmwOk [a] = [] := by
    unfold rimChoice rimWinner
    rw [List.find?_cons]
    split
    · right
      rename_i hnone
      split at hnone
      · cases hnone
      · rfl
    · left
      rename_i w hsome
      split at hsome
      · cases hsome
        simp [rimFill]
      · cases hsome
  have htake : takeOut s arb out [a] = [a] := by
    unfold takeOut
    rw [if_pos (by rw [ha]; simp)]
    rfl
  unfold rimGrant
  dsimp only
  rcases hchoice with h | h <;> rw [h]
  · left
    rw [htake]
    simp
  · right
    rfl
/-- A rim with one entry, which wins, grants that. -/
theorem rimTakes_single {layer i seq : Nat} (he : rimEntries s layer i = [a]) (ha : a.crosses = false) (hw : wins s layer i seq = true) :
    rimTakes s layer i = [a] := by
  rw [wins_eq] at hw
  have hok : (served s (arbRim layer i) ((eligible s layer i [a]).filter fun a => !govHolds s (arbRim layer i) a)) = [a] ∨
      (served s (arbRim layer i) ((eligible s layer i [a]).filter fun a => !govHolds s (arbRim layer i) a)) = [] := by
    have hsub : ∀ l : List Access, l.Sublist [a] → l = [a] ∨ l = [] := fun l h => by
      rcases List.sublist_singleton.mp h with h | h
      · exact .inr h
      · exact .inl h
    rcases hsub _ ((List.filter_sublist).trans List.filter_sublist) with h | h
    · left
      unfold eligible
      rw [h]
      rfl
    · right
      unfold eligible
      rw [h]
      rfl
  unfold rimTakes at hw ⊢
  dsimp only at hw ⊢
  rw [he] at hw ⊢
  rcases hok with h | h <;> rw [h] at hw ⊢
  · refine (rimGrant_one _ _ _ _ 1 ha).resolve_right fun hg => ?_
    rw [List.length_singleton, hg] at hw
    cases hw
  · cases hw
end

/-- The counts of a rim's grants, once they are performed. -/
def State.grantsCounted (s : State) (layer i p : Nat) (passed withheld : Bool) (tids writers : List Nat) (owner : Option Nat) : State :=
  let s := s.rim layer p fun r => { r with norm := passed, idleFrom := if tids.isEmpty then r.idleFrom else s.now }
  let s := s.cond passed fun s => s.bump pgHUB (.word HUB_RMW_PASS_CNT)
  let s := s.cond withheld fun s => s.bump pgPOWER POWER_GOV_HOLD_COUNT
  s.countAcc layer i tids writers owner
theorem grantsCounted_stays (s : State) (layer i p : Nat) (passed withheld : Bool) (tids writers : List Nat) (owner : Option Nat) :
    Stays s (s.grantsCounted layer i p passed withheld tids writers owner) := by
  unfold State.grantsCounted
  dsimp only
  refine Stays.trans ?_ (countAcc_stays ..)
  generalize hu : (s.rim layer p _) = u
  have hrim : Stays s u := hu ▸ rim_stays ..
  have hpass : ∀ v : State, Stays v (v.bump pgHUB (.word HUB_RMW_PASS_CNT)) := fun v => put_stays v _ (by unfold InInteg; decide)
  have hhold : ∀ v : State, Stays v (v.bump pgPOWER POWER_GOV_HOLD_COUNT) := fun v => put_stays v _ (by unfold InInteg; decide)
  refine Stays.trans (hrim.trans (cond_stays passed ?_)) (cond_stays withheld ?_)
  · exact hpass u
  · exact hhold _
/-- The state in which a rim performs its grants: their displacements are counted, and a number is taken. -/
def State.displCounted (s : State) (arb : Nat) (choice : List Access → List Access) (l granted : List Access) : State :=
  (s.countDispl arb choice l granted).hubf fun h => { h with seqCtr := h.seqCtr + 1 }
theorem displCounted_stays (s : State) (arb : Nat) (choice : List Access → List Access) (l granted : List Access) :
    Stays s (s.displCounted arb choice l granted) := (countDispl_stays ..).trans ⟨rfl, rfl, fun _ _ => rfl⟩
theorem displCounted_rd (s : State) (arb : Nat) (choice : List Access → List Access) (l granted : List Access) (o : Nat) :
    (s.displCounted arb choice l granted).rd o = s.rd o := by
  unfold State.displCounted State.countDispl
  rw [State.hubf_rd]
  refine State.each_of (fun s => s.rd o) _ (fun u a => ?_) _ _
  split <;> rfl
/-- What a rim grants, with the number of the rim access. -/
def rimGranted (s : State) (layer i : Nat) : List Access := (rimTakes s layer i).map fun a => { a with racc := s.hub.seqCtr }
/-- A rim in service that holds no reserved half performs what it grants, between counts. -/
theorem rimArb_eq {s : State} {layer i : Nat} (hp : physOf s layer i ≠ 31) (hup : rimUp s layer i = true)
    (hon : rimPower s layer (physOf s layer i) ≤ 1) (hhalf : (rimOf s layer (physOf s layer i)).half = none) :
    ∃ choice l passed withheld tids writers owner, rimArb s layer i =
      (((s.displCounted (arbRim layer i) choice l (rimGranted s layer i)).each (rimGranted s layer i) fun s a =>
        s.grantAt (arbRim layer i) a).grantsCounted layer i (physOf s layer i) passed withheld tids writers owner) := by
  have hwrite : s.writeHalf layer (physOf s layer i) = s := by
    unfold State.writeHalf
    rw [hhalf]
  unfold rimArb
  dsimp only
  rw [if_neg (by rw [hup]; simp; omega), hwrite]
  exact ⟨_, _, _, _, _, _, _, rfl⟩

/-! ### The write-backs of one rim access (R445, R446) -/

/-- Numbers that are all the same are one. -/
theorem eraseDups_all {l : List Nat} {n : Nat} (h : ∀ m ∈ l, m = n) (hne : l ≠ []) : l.eraseDups = [n] := by
  cases l with
  | nil => exact absurd rfl hne
  | cons m l =>
    have hnone : (l.filter fun k => !k == m) = [] := List.filter_eq_nil_iff.mpr fun k hk => by
      simp [h k (List.mem_cons_of_mem _ hk), h m List.mem_cons_self]
    rw [List.eraseDups_cons, hnone, h m List.mem_cons_self]
    rfl
section
variable {s : State} {b : WriteBack}
/-- The write-backs of one rim access, alone at their rim, are its one entry. -/
theorem wbEntries_one (hmem : b ∈ s.array.wbs) (hall : ∀ w ∈ s.array.wbs, w.layer = b.layer → w.rim = b.rim → w.id = b.id) :
    ∃ (w : WriteBack) (l : List WriteBack), wbEntries s b.layer b.rim = [w.access l] ∧ w.id = b.id := by
  obtain ⟨l, hl⟩ : ∃ l, l = s.array.wbs.filter fun w => w.layer == b.layer && w.rim == b.rim := ⟨_, rfl⟩
  have hb : b ∈ l := by
    rw [hl]
    exact List.mem_filter.mpr ⟨hmem, by simp⟩
  have hid : ∀ w ∈ l, w.id = b.id := fun w hw => by
    rw [hl] at hw
    obtain ⟨hw, hat⟩ := List.mem_filter.mp hw
    simp only [Bool.and_eq_true, beq_iff_eq] at hat
    obtain ⟨hlayer, hrim⟩ := hat
    exact hall w hw hlayer hrim
  have hids : (l.map (·.id)).eraseDups = [b.id] := by
    refine eraseDups_all (fun m hm => ?_) (fun e => ?_)
    · obtain ⟨w, hw, rfl⟩ := List.mem_map.mp hm
      exact hid w hw
    · rw [List.map_eq_nil_iff.mp e] at hb
      cases hb
  obtain ⟨w, hw⟩ : ∃ w, (l.find? fun w => w.id == b.id) = some w :=
    Option.isSome_iff_exists.mp (List.find?_isSome.mpr ⟨b, hb, beq_self_eq_true _⟩)
  refine ⟨w, l, ?_, hid w (List.mem_of_find?_eq_some hw)⟩
  unfold wbEntries
  dsimp only
  rw [← hl, hids, List.filterMap_cons, hw]
  rfl
theorem rimEntries_wbs (h : onlyWbs s b) : rimEntries s b.layer b.rim = wbEntries s b.layer b.rim := by
  obtain ⟨-, -, -, -, hqueue, hclaims, hcopy, -⟩ := h
  unfold rimEntries
  rw [hqueue, hclaims, hcopy, List.nil_append, List.nil_append, List.append_nil]
/-- The rim of write-backs that stand there alone, and win, performs them, between counts. -/
theorem rimArb_writesBack (hmem : b ∈ s.array.wbs) (h : onlyWbs s b) (hw : wins s b.layer b.rim b.id = true) :
    ∃ u a, Stays s u ∧ (∀ o, 0x100000 ≤ o → u.rd o = s.rd o) ∧ Stays (u.doWriteback a b.id) (rimArb s b.layer b.rim) := by
  have hentries := rimEntries_wbs h
  obtain ⟨hp, hup, hon, hhalf, -, -, -, hall⟩ := h
  obtain ⟨w, l, hone, hid⟩ := wbEntries_one hmem hall
  have htakes := rimTakes_single (hentries.trans hone) rfl hw
  obtain ⟨choice, k, passed, withheld, tids, writers, owner, heq⟩ := rimArb_eq hp hup hon hhalf
  have hgranted : rimGranted s b.layer b.rim = [{ w.access l with racc := s.hub.seqCtr }] := by
    unfold rimGranted
    rw [htakes]
    rfl
  rw [heq, hgranted]
  have hrd := displCounted_rd s (arbRim b.layer b.rim) choice k [{ w.access l with racc := s.hub.seqCtr }]
  have hstays := displCounted_stays s (arbRim b.layer b.rim) choice k [{ w.access l with racc := s.hub.seqCtr }]
  generalize s.displCounted (arbRim b.layer b.rim) choice k [{ w.access l with racc := s.hub.seqCtr }] = v at *
  refine ⟨v.countGrant (arbRim b.layer b.rim) { w.access l with racc := s.hub.seqCtr }, { w.access l with racc := s.hub.seqCtr },
    hstays.trans (countGrant_stays ..), fun o ho => ?_, ?_⟩
  · rw [← hrd o]
    unfold State.countGrant
    dsimp only
    rw [State.cond_rd, State.bump_rd _ _ (by simp only [pgHUB, HUB_PROMO_CNT]; omega), State.tidCnt_rd, ite_self]
  · have hgrant : (v.each [{ w.access l with racc := s.hub.seqCtr }] fun s a => s.grantAt (arbRim b.layer b.rim) a) =
        (v.countGrant (arbRim b.layer b.rim) { w.access l with racc := s.hub.seqCtr }).doWriteback { w.access l with racc := s.hub.seqCtr } b.id := by
      rw [← hid]
      rfl
    rw [hgrant]
    exact grantsCounted_stays ..
end

/-! ### What performing them leaves (R445) -/

/-- A stored word read after it has been set, or another. -/
theorem wordAt_setWord {s : State} (w k : Nat) (v : Stored) (h : Mem.wf s.array.mem = true) :
    wordAt (s.setWord w v) k = if k = w then v else wordAt s k := by
  unfold wordAt State.setWord
  dsimp only [State.arr]
  split
  · rename_i hk
    rw [hk, Mem.readN_writeN 36 _ _ _ h]
    refine BitVec.eq_of_toNat_eq ?_
    have hpow : ∀ n : Nat, 256 ^ n = 2 ^ (8 * n) := fun n => (Nat.pow_mul 2 8 n).symm
    rw [BitVec.toNat_ofNat, hpow, show 8 * 36 = 288 from rfl, Nat.mod_eq_of_lt v.isLt, Nat.mod_eq_of_lt v.isLt]
  · rename_i hk
    have hread : ∀ n a, (∀ j < n, a + j < w * 36 ∨ w * 36 + 36 ≤ a + j) →
        Mem.readN (Mem.writeN s.array.mem (w * 36) v.toNat 36) a n = Mem.readN s.array.mem a n := fun n => by
      induction n with
      | zero => exact fun _ _ => rfl
      | succ n ih =>
        intro a ha
        have h0 : a < w * 36 ∨ w * 36 + 36 ≤ a := ha 0 (Nat.succ_pos n)
        unfold Mem.readN
        rw [Mem.read_writeN_outside 36 _ _ _ _ h h0, ih (a + 1) fun j hj => by
          have := ha (j + 1) (Nat.succ_lt_succ hj)
          omega]
    rw [hread 36 (k * 36) fun j hj => by omega]
/-- A word stored without the flip mask stands at its place, and at no other. -/
theorem storeAt_plain (s : State) (layer p frame r c : Nat) (word : Stored) :
    storeAt s layer p frame r c word false =
      (s.setWord (wordIdx layer p (slotOfFrame frame) r c) word).setValid (wordIdx layer p (slotOfFrame frame) r c) true := by
  unfold storeAt
  dsimp only
  rw [Bool.false_and, State.cond_false, if_neg (by decide)]
theorem wordAt_setValid (s : State) (w k : Nat) (on : Bool) : wordAt (s.setValid w on) k = wordAt s k := rfl
theorem wordAt_storeAt {s : State} (layer p frame r c k : Nat) (word : Stored) (h : Mem.wf s.array.mem = true) :
    wordAt (storeAt s layer p frame r c word false) k = if k = wordIdx layer p (slotOfFrame frame) r c then word else wordAt s k := by
  rw [storeAt_plain, wordAt_setValid, wordAt_setWord _ _ _ h]
theorem storeAt_wf {s : State} (layer p frame r c : Nat) (word : Stored) (h : Mem.wf s.array.mem = true) :
    Mem.wf (storeAt s layer p frame r c word false).array.mem = true := by
  rw [storeAt_plain]
  exact Mem.wf_writeN _ _ _ _ h
/-- A segment stored reads so at the rim that serves its frame. -/
theorem wordAt_storeWord {s : State} (layer frame r c : Nat) (word : Stored) (h : Mem.wf s.array.mem = true) :
    wordAt (storeWord s layer frame r c word false) (wordIdx layer (physOf s layer (rimOfFrame frame)) (slotOfFrame frame) r c) = word := by
  have hserves : wordAt (storeAt s layer (physOf s layer (rimOfFrame frame)) frame r c word false)
      (wordIdx layer (physOf s layer (rimOfFrame frame)) (slotOfFrame frame) r c) = word := by
    rw [wordAt_storeAt _ _ _ _ _ _ _ h, if_pos rfl]
  have hwf := storeAt_wf layer (physOf s layer (rimOfFrame frame)) frame r c word h
  unfold storeWord
  dsimp only
  generalize storeAt s layer (physOf s layer (rimOfFrame frame)) frame r c word false = u at *
  have hcancel : ∀ (v : State) (n : Bool) (f : List WriteBack → List WriteBack) (k : Nat),
      wordAt ((v.cond n fun s => s.bumpSat pgINTEG (.word INTEG_WB_CANCEL)).arr fun a => { a with wbs := f a.wbs }) k = wordAt v k :=
    fun v n _ k => by cases n <;> rfl
  rw [hcancel _ _ (fun l => l.filter _)]
  split
  · rw [wordAt_storeAt _ _ _ _ _ _ _ hwf]
    split
    · rfl
    · exact hserves
  · exact hserves
/-- A segment stored adds no write-back. -/
theorem storeWord_wbs (s : State) (layer frame r c : Nat) (word : Stored) :
    ∀ w ∈ (storeWord s layer frame r c word false).array.wbs, w ∈ s.array.wbs := by
  have hat : ∀ (u : State) (p : Nat), (storeAt u layer p frame r c word false).array.wbs = u.array.wbs := fun u p => by
    rw [storeAt_plain]
    rfl
  have hcancel : ∀ (v : State) (n : Bool), (v.cond n fun s => s.bumpSat pgINTEG (.word INTEG_WB_CANCEL)).array.wbs = v.array.wbs :=
    fun v n => by cases n <;> rfl
  intro w hw
  unfold storeWord at hw
  dsimp only [State.arr] at hw
  have hw := List.mem_of_mem_filter hw
  rw [hcancel] at hw
  split at hw
  · rwa [hat, hat] at hw
  · rwa [hat] at hw
/-- A segment stored without the flip mask leaves the count of write-backs. -/
theorem storeWord_count (s : State) (layer frame r c : Nat) (word : Stored) :
    (storeWord s layer frame r c word false).rd (pgINTEG + INTEG_WB_CNT) = s.rd (pgINTEG + INTEG_WB_CNT) := by
  have hat : ∀ (u : State) (p o : Nat), (storeAt u layer p frame r c word false).rd o = u.rd o := fun u p o => by
    rw [storeAt_plain]
    rfl
  unfold storeWord
  dsimp only
  rw [State.arr_rd, State.cond_rd, State.bumpSat_rd _ _ (by decide), ite_self]
  split
  · rw [hat, hat]
  · rw [hat]
/-- One write-back stored. -/
def State.wbStored (s : State) (w : WriteBack) : State :=
  storeWord s w.layer w.frame w.row w.col
    (encodeWord (classOf s.array.cls w.layer w.frame) (segPta w.layer w.frame w.row w.col) w.data) false
/-- The write-backs of a rim access taken from those that wait. -/
def State.wbsTaken (s : State) (id : Nat) : State := s.arr fun x => { x with wbs := x.wbs.filter fun w => w.id != id }
theorem doWriteback_eq (s : State) (a : Access) (id : Nat) : ∃ lat, s.doWriteback a id =
    ((((s.wbsTaken id).each (s.array.wbs.filter fun w => w.id == id) State.wbStored).latency a.tid lat).bumpSat pgINTEG (.word INTEG_WB_CNT)
      (s.array.wbs.filter fun w => w.id == id).length) := ⟨_, rfl⟩
theorem wbsStored_frame (l : List WriteBack) (s : State) :
    (∀ w ∈ (s.each l State.wbStored).array.wbs, w ∈ s.array.wbs) ∧ (s.each l State.wbStored).hub = s.hub ∧
      (s.each l State.wbStored).rd (pgINTEG + INTEG_WB_CNT) = s.rd (pgINTEG + INTEG_WB_CNT) := by
  induction l generalizing s with
  | nil => exact ⟨fun _ h => h, rfl, rfl⟩
  | cons w l ih =>
    obtain ⟨hwbs, hhub, hcount⟩ := ih (s.wbStored w)
    refine ⟨fun x hx => ?_, hhub.trans (hub_of_bare (storeWord_bare ..)), hcount.trans (storeWord_count ..)⟩
    exact storeWord_wbs _ _ _ _ _ _ x (hwbs x hx)
/-- The write-backs of a rim access performed: they wait no longer, and are counted. -/
theorem doWriteback_counts (s : State) (a : Access) (id : Nat) :
    (∀ w ∈ (s.doWriteback a id).array.wbs, w.id ≠ id) ∧ (s.doWriteback a id).hub = s.hub ∧
      (s.doWriteback a id).get pgINTEG INTEG_WB_CNT_COUNT =
        min (s.get pgINTEG INTEG_WB_CNT_COUNT + (s.array.wbs.filter fun w => w.id == id).length) (2 ^ 32 - 1) := by
  obtain ⟨lat, heq⟩ := doWriteback_eq s a id
  rw [heq]
  obtain ⟨hwbs, hhub, hcount⟩ := wbsStored_frame (s.array.wbs.filter fun w => w.id == id) (s.wbsTaken id)
  have htaken : ∀ w ∈ (s.wbsTaken id).array.wbs, w.id ≠ id := fun w hw => by
    have h := (List.mem_filter.mp hw).2
    simpa using h
  have hkept : (s.wbsTaken id).hub = s.hub ∧ (s.wbsTaken id).rd (pgINTEG + INTEG_WB_CNT) = s.rd (pgINTEG + INTEG_WB_CNT) := ⟨rfl, rfl⟩
  generalize s.wbsTaken id = v at *
  generalize (s.array.wbs.filter fun w => w.id == id) = l at *
  generalize v.each l State.wbStored = u at *
  refine ⟨fun w hw => htaken w (hwbs w hw), hhub.trans hkept.1, ?_⟩
  have hlat : (u.latency a.tid lat).get pgINTEG INTEG_WB_CNT_COUNT = s.get pgINTEG INTEG_WB_CNT_COUNT :=
    congrArg INTEG_WB_CNT_COUNT.of (hcount.trans hkept.2)
  rw [← hlat]
  exact State.get_bumpSat_self _ pgINTEG INTEG_WB_CNT_COUNT _ (by decide)
/-- One write-back alone is stored as the encoding of its data. -/
theorem doWriteback_stores {s : State} {a : Access} {id : Nat} {b : WriteBack} (h : (s.array.wbs.filter fun w => w.id == id) = [b])
    (hwf : Mem.wf s.array.mem = true) :
    wordAt (s.doWriteback a id) (wordIdx b.layer (physOf s b.layer (rimOfFrame b.frame)) (slotOfFrame b.frame) b.row b.col) =
      encodeWord (classOf s.array.cls b.layer b.frame) (segPta b.layer b.frame b.row b.col) b.data := by
  obtain ⟨lat, heq⟩ := doWriteback_eq s a id
  rw [heq, h]
  exact wordAt_storeWord (s := s.wbsTaken id) _ _ _ _ _ hwf

/-! ### The command (R445) -/

theorem exec_correctionWriteback {s : State} {id : Nat} {b : WriteBack} (hb : (s.array.wbs.find? fun b => b.id == id) = some b)
    (hw : wins s b.layer b.rim id = true) :
    exec (.correctionWriteback id) s = .next ((rimArb s b.layer b.rim).each [0, 1, 2, 3] fun s q => s.stepsLand q) := by
  show execCorrectionWriteback id s = _
  unfold execCorrectionWriteback
  rw [hb]
  dsimp only
  rw [if_neg (by rw [hw]; decide)]
/-- The rim's grant of write-backs: their storing, between counts. -/
theorem correctionWriteback_performs {s : State} {id : Nat} {b : WriteBack} (hb : (s.array.wbs.find? fun b => b.id == id) = some b)
    (h : onlyWbs s b) (hw : wins s b.layer b.rim id = true) :
    ∃ t u a, exec (.correctionWriteback id) s = .next t ∧ Stays s u ∧ (∀ o, 0x100000 ≤ o → u.rd o = s.rd o) ∧
      Stays (u.doWriteback a id) t := by
  have hid : b.id = id := beq_iff_eq.mp (List.find?_some hb :)
  subst hid
  obtain ⟨u, a, hstays, hrd, hdone⟩ := rimArb_writesBack (List.mem_of_find?_eq_some hb) h hw
  exact ⟨_, u, a, exec_correctionWriteback hb hw, hstays, hrd, hdone.trans ((stepsLanded_steps _).stays)⟩
theorem correctionWriteback_counts {s : State} {id : Nat} {b : WriteBack} (hb : (s.array.wbs.find? fun b => b.id == id) = some b)
    (h : onlyWbs s b) (hw : wins s b.layer b.rim id = true) :
    ∃ t, exec (.correctionWriteback id) s = .next t ∧ (∀ w ∈ t.array.wbs, w.id ≠ id) ∧ t.hub.flight = s.hub.flight ∧
      t.get pgINTEG INTEG_WB_CNT_COUNT =
        min (s.get pgINTEG INTEG_WB_CNT_COUNT + (s.array.wbs.filter fun w => w.id == id).length) (2 ^ 32 - 1) := by
  obtain ⟨t, u, a, hexec, hbefore, -, hafter⟩ := correctionWriteback_performs hb h hw
  obtain ⟨hwbs, hhub, hcount⟩ := doWriteback_counts u a id
  have hreg : InInteg (pgINTEG + INTEG_WB_CNT) := by unfold InInteg; decide
  have hu : u.get pgINTEG INTEG_WB_CNT_COUNT = s.get pgINTEG INTEG_WB_CNT_COUNT := congrArg INTEG_WB_CNT_COUNT.of (hbefore.regs _ hreg)
  refine ⟨t, hexec, ?_, ?_, ?_⟩
  · rw [hafter.array]
    exact hwbs
  · rw [hafter.flight, hhub, hbefore.flight]
  · rw [hu, hbefore.array] at hcount
    exact (congrArg INTEG_WB_CNT_COUNT.of (hafter.regs _ hreg)).trans hcount
theorem correctionWriteback_stores {s : State} {id : Nat} {b : WriteBack} (hb : (s.array.wbs.filter fun b => b.id == id) = [b])
    (h : onlyWbs s b) (hw : wins s b.layer b.rim id = true) (hwf : Mem.wf s.array.mem = true) :
    ∃ t, exec (.correctionWriteback id) s = .next t ∧
      wordAt t (wordIdx b.layer (physOf s b.layer (rimOfFrame b.frame)) (slotOfFrame b.frame) b.row b.col) =
        encodeWord (classOf s.array.cls b.layer b.frame) (segPta b.layer b.frame b.row b.col) b.data := by
  have hfind : (s.array.wbs.find? fun b => b.id == id) = some b := by
    rw [← List.head?_filter, hb]
    rfl
  obtain ⟨t, u, a, hexec, hbefore, hrd, hafter⟩ := correctionWriteback_performs hfind h hw
  refine ⟨t, hexec, ?_⟩
  have hphys : physOf u b.layer (rimOfFrame b.frame) = physOf s b.layer (rimOfFrame b.frame) := by
    unfold physOf
    rw [hrd _ (by unfold layerBase; omega)]
  have hword := doWriteback_stores (s := u) (a := a) (id := id) (b := b) (by rw [hbefore.array]; exact hb) (by rw [hbefore.array]; exact hwf)
  rw [hphys, hbefore.array] at hword
  rw [← hword]
  unfold wordAt
  rw [hafter.array]

end Sys2Proof.Machine

/-! PROOFS. Scrub passes, the flip mask and the poison log (spec/15_integrity.md R452 to R458, R470), and the obligation of the integrity commands. -/
namespace Sys2Proof.Machine

/-! ### SCRUB_CMD (R454, R457) -/

/-- A write of SCRUB_CMD and the start of a pass change registers of a pass alone, and a start takes nothing of the rest. -/
structure ScrubSame (s t : State) : Prop where
  regs : ∀ o, o ≠ pgINTEG + INTEG_SCRUB_CMD → o < pgINTEG + INTEG_SCRUB_STAT ∨ pgINTEG + 0xE0 ≤ o → t.rd o = s.rd o
  rest : { t with regs := s.regs } = s

section
variable {s t : State}
theorem ScrubSame.refl (s : State) : ScrubSame s s := ⟨fun _ _ _ => rfl, rfl⟩
theorem ScrubSame.trans {u : State} (h : ScrubSame s t) (k : ScrubSame t u) : ScrubSame s u := by
  refine ⟨fun o hc ho => (k.regs o hc ho).trans (h.regs o hc ho), ?_⟩
  have hinner : { ({ u with regs := t.regs } : State) with regs := s.regs } = { t with regs := s.regs } :=
    congrArg (fun v : State => { v with regs := s.regs }) k.rest
  exact hinner.trans h.rest
theorem wr_scrubSame (s : State) {o : Nat} (w : Word32) (h : pgINTEG + INTEG_SCRUB_STAT ≤ o ∧ o < pgINTEG + 0xE0) : ScrubSame s (s.wr o w) :=
  ⟨fun _ _ hb => State.rd_wr_of_ne _ _ (by omega), rfl⟩
theorem put_scrubSame (s : State) {f : Fld} (v : Nat) (h : INTEG_SCRUB_STAT ≤ f.off ∧ f.off < 0xE0) : ScrubSame s (s.put pgINTEG f v) :=
  wr_scrubSame s _ ⟨by omega, by omega⟩
section
variable (h : ScrubSame s t)
include h
theorem ScrubSame.get (a : Nat) (f : Fld) (hc : a + f.off ≠ pgINTEG + INTEG_SCRUB_CMD)
    (ho : a + f.off < pgINTEG + INTEG_SCRUB_STAT ∨ pgINTEG + 0xE0 ≤ a + f.off) : t.get a f = s.get a f := congrArg f.of (h.regs _ hc ho)
theorem ScrubSame.integ : t.integ = s.integ := (congrArg State.integ h.rest :)
theorem ScrubSame.chans : t.chans = s.chans := (congrArg State.chans h.rest :)
theorem ScrubSame.hub : t.hub = s.hub := (congrArg State.hub h.rest :)
theorem ScrubSame.chanState {c : Nat} (hc : c < 16) : chanState t c = chanState s c :=
  h.get _ _ (by simp only [portBase, PORT_PSTAT_STATE, pgINTEG, INTEG_SCRUB_CMD]; omega)
    (by simp only [portBase, PORT_PSTAT_STATE, pgINTEG, INTEG_SCRUB_STAT]; omega)
theorem ScrubSame.emRuns : emRuns t 1 = emRuns s 1 := by
  unfold Machine.emRuns emState
  rw [h.get _ _ (by decide) (by decide)]
theorem ScrubSame.liveDesc (n g : Nat) : liveDesc t n g = liveDesc s n g := by
  unfold Machine.liveDesc
  by_cases hn : n = 0 ∨ 512 ≤ n
  · rw [if_pos hn, if_pos hn]
  have hstate : handleState t n = handleState s n :=
    h.get _ _ (by simp only [pgHSTATE, HANDLE_STATE_HSTATE_STATE, pgINTEG, INTEG_SCRUB_CMD]; omega)
      (by simp only [pgHSTATE, HANDLE_STATE_HSTATE_STATE, pgINTEG, INTEG_SCRUB_STAT]; omega)
  have hgen : handleGen t n = handleGen s n :=
    h.get _ _ (by simp only [pgHSTATE, HANDLE_STATE_HSTATE_GEN, pgINTEG, INTEG_SCRUB_CMD]; omega)
      (by simp only [pgHSTATE, HANDLE_STATE_HSTATE_GEN, pgINTEG, INTEG_SCRUB_STAT]; omega)
  rw [if_neg hn, if_neg hn, hstate, hgen, show t.handles = s.handles from (congrArg State.handles h.rest :)]
end
end

/-- The word of SCRUB_CMD with GO. -/
def scrubWord (pta : Bool) (tid c : Nat) : Word32 := BitVec.ofNat 32 (2 ^ 31 + b2n pta * 2 ^ 29 + tid % 64 * 2 ^ 16 + c % 16)
theorem scrubWord_fields (pta : Bool) {tid c : Nat} (ht : tid < 64) (hc : c < 16) :
    INTEG_SCRUB_CMD_GO.of (scrubWord pta tid c) = 1 ∧ INTEG_SCRUB_CMD_ABORT.of (scrubWord pta tid c) = 0 ∧
    INTEG_SCRUB_CMD_FORM.of (scrubWord pta tid c) = b2n pta ∧ INTEG_SCRUB_CMD_TID.of (scrubWord pta tid c) = tid ∧
    INTEG_SCRUB_CMD_CHAN.of (scrubWord pta tid c) = c := by
  have hpta : b2n pta < 2 := by cases pta <;> decide
  simp only [Fld.of, bits, scrubWord, INTEG_SCRUB_CMD_GO, INTEG_SCRUB_CMD_ABORT, INTEG_SCRUB_CMD_FORM, INTEG_SCRUB_CMD_TID,
    INTEG_SCRUB_CMD_CHAN, BitVec.toNat_ofNat, Nat.shiftRight_eq_div_pow]
  omega
theorem State.cond_yes (s : State) (f : State → State) : s.cond true f = f s := rfl
theorem State.cond_no (s : State) (f : State → State) : s.cond false f = s := rfl
theorem scrubCmd_page : pageAt (pgINTEG + INTEG_SCRUB_CMD) = some ⟨.integ, 0, pgINTEG⟩ := by decide
theorem scrubCmd_row : rowAt Page.integ INTEG_SCRUB_CMD = some ⟨0x0A0, 1, 0, 1, 0,
    [⟨31, 31, .w1s, 0⟩, ⟨30, 30, .w1s, 0⟩, ⟨29, 29, .rwo, 0⟩, ⟨21, 16, .rwo, 0⟩, ⟨3, 0, .rwo, 0⟩]⟩ := rfl

/-- A SCRUB_CMD taken: its fields stand as the command gives them, and all else as in s. -/
structure ScrubTaken (s u : State) (pta : Bool) (tid c : Nat) : Prop where
  same : ScrubSame s u
  form : u.flag pgINTEG INTEG_SCRUB_CMD_FORM = pta
  tid : u.get pgINTEG INTEG_SCRUB_CMD_TID = tid
  chan : u.get pgINTEG INTEG_SCRUB_CMD_CHAN = c

section
variable {s : State} {m : Master} {tid c : Nat} {pta : Bool}
/-- A write of SCRUB_CMD with GO and without ABORT. -/
theorem scrubCmdWrite_go {w : Word32} (hmay : mayWrite s m pgINTEG INTEG_SCRUB_CMD false = true) (hgo : INTEG_SCRUB_CMD_GO.of w = 1)
    (habort : INTEG_SCRUB_CMD_ABORT.of w = 0) : scrubCmdWrite m w s = (s.setFields m pgINTEG INTEG_SCRUB_CMD w).scrubGo m := by
  unfold scrubCmdWrite
  rw [State.gate_open _ _ _ _ _ _ hmay, hgo, habort, show ((1 : Nat) == 1) = true from rfl, show ((0 : Nat) == 1) = false from rfl]
  dsimp only
  rw [State.cond_no, State.cond_yes]
theorem scrubWord_takes {w : Word32} (hmay : mayWrite s m pgINTEG INTEG_SCRUB_CMD true = true) (hform : INTEG_SCRUB_CMD_FORM.of w = b2n pta)
    (htid : INTEG_SCRUB_CMD_TID.of w = tid) (hchan : INTEG_SCRUB_CMD_CHAN.of w = c) :
    ScrubTaken s (s.setFields m pgINTEG INTEG_SCRUB_CMD w) pta tid c := by
  have hown := Or.inl (b := (List.any [(⟨31, 31, .w1s, 0⟩ : FieldRow), ⟨30, 30, .w1s, 0⟩, ⟨29, 29, .rwo, 0⟩, ⟨21, 16, .rwo, 0⟩,
    ⟨3, 0, .rwo, 0⟩] fun f => f.acc == .rwo) = false) (owns_of_mayWrite scrubCmd_page hmay)
  have hformGet := setFields_get (f := ⟨29, 29, .rwo, 0⟩) scrubCmd_page scrubCmd_row hown w (by simp)
  have htidGet := setFields_get (f := ⟨21, 16, .rwo, 0⟩) scrubCmd_page scrubCmd_row hown w (by simp)
  have hchanGet := setFields_get (f := ⟨3, 0, .rwo, 0⟩) scrubCmd_page scrubCmd_row hown w (by simp)
  have hrd := fun o ho => setFields_rd (o := o) scrubCmd_page scrubCmd_row hown w ho
  have hrest := setFields_sansRegs scrubCmd_page scrubCmd_row hown w
  generalize s.setFields m pgINTEG INTEG_SCRUB_CMD w = u at *
  refine ⟨⟨fun o ho _ => hrd o ho, hrest⟩, ?_, htidGet.trans htid, hchanGet.trans hchan⟩
  have hflag : u.get pgINTEG INTEG_SCRUB_CMD_FORM = b2n pta := hformGet.trans hform
  unfold State.flag
  rw [hflag]
  cases pta <;> rfl
/-- A write of SCRUB_CMD with GO, by a master that owns the page's group. -/
theorem exec_scrubGo (hmay : mayWrite s m pgINTEG INTEG_SCRUB_CMD true = true) (ht : tid < 64) (hc : c < 16) :
    ∃ u, ScrubTaken s u pta tid c ∧ exec (.scrubGo m pta tid c) s = .next (u.scrubGo m) := by
  obtain ⟨hgo, habort, hform, htid, hchan⟩ := scrubWord_fields pta ht hc
  refine ⟨_, scrubWord_takes hmay hform htid hchan, ?_⟩
  rw [← scrubCmdWrite_go (mayWrite_any hmay) hgo habort]
  show execScrubGo m pta tid c s = _
  unfold execScrubGo scrubWord
  rfl
end

/-- The summary registers of a pass that starts, and BUSY. -/
def scrubBegun (s : State) : State :=
  (s.each (List.range 8) fun s k => s.wr (pgINTEG + INTEG_SCRUB_SUM + 4 * k) (BitVec.ofNat 32 (if k = 7 then 0x3FFFFFFF else 0))).put
    pgINTEG INTEG_SCRUB_STAT_BUSY 1
theorem each_sum_scrubSame (w : Nat → Word32) : ∀ (l : List Nat) (s : State), (∀ k ∈ l, k < 8) →
    ScrubSame s (s.each l fun s k => s.wr (pgINTEG + INTEG_SCRUB_SUM + 4 * k) (w k))
  | [], s, _ => .refl s
  | k :: l, s, h => by
    have hk := h k List.mem_cons_self
    exact (wr_scrubSame s (w k) ⟨by simp only [INTEG_SCRUB_STAT, INTEG_SCRUB_SUM]; omega, by simp only [INTEG_SCRUB_SUM]; omega⟩).trans
      (each_sum_scrubSame w l _ fun j hj => h j (List.mem_cons_of_mem _ hj))
theorem scrubBegun_same (s : State) : ScrubSame s (scrubBegun s) :=
  (each_sum_scrubSame _ _ s fun _ hk => List.mem_range.mp hk).trans (put_scrubSame _ _ (by decide))
theorem scrubBegun_busy (s : State) : (scrubBegun s).flag pgINTEG INTEG_SCRUB_STAT_BUSY = true := State.flag_put_self _ _ _ true (by decide) rfl
theorem scrubBegun_cmd (s : State) {f : Fld} (h : f.off = INTEG_SCRUB_CMD) : (scrubBegun s).get pgINTEG f = s.get pgINTEG f := by
  refine congrArg f.of ?_
  unfold scrubBegun
  rw [State.rd_put_of_ne _ _ (by rw [h]; decide)]
  refine State.each_of (fun u => u.rd (pgINTEG + f.off)) _ (fun u k => State.rd_wr_of_ne _ _ ?_) _ s
  rw [h]
  simp only [INTEG_SCRUB_CMD, INTEG_SCRUB_SUM]
  omega

section
variable {s u : State} {m : Master} {tid c : Nat} {pta : Bool}

/-- The words of a pass that starts, over PTA lines or a handle. -/
def scrubPosted (s : State) (tid : Nat) : Option Desc → List Nat
  | none => [3 * 2 ^ 28 + 2 ^ 27, s.get pgINTEG INTEG_SCRUB_ARG1_START, s.get pgINTEG INTEG_SCRUB_ARG2_LINES_M1, tid]
  | some d => [3 * 2 ^ 28 + s.get pgINTEG INTEG_SCRUB_ARG0_HANDLE * 2 ^ 18 + s.get pgINTEG INTEG_SCRUB_ARG0_GEN * 2 ^ 10, 0,
      16 * (d.extentM1 + 1) - 1, d.owner]
theorem scrubWords_posted (hu : ScrubTaken s u pta tid c) (d : Option Desc) : scrubWords (scrubBegun u) d = scrubPosted s tid d := by
  have hsame := hu.same.trans (scrubBegun_same u)
  unfold scrubWords
  dsimp only
  cases d with
  | none =>
    dsimp only
    rw [hsame.get _ _ (by decide) (by decide), hsame.get _ _ (by decide) (by decide), scrubBegun_cmd u (by decide), hu.tid]
    rfl
  | some d =>
    dsimp only
    rw [hsame.get _ _ (by decide) (by decide), hsame.get _ _ (by decide) (by decide)]
    rfl
theorem scrubPosted_type (s : State) (tid : Nat) (d : Option Desc) : bits ((scrubPosted s tid d).getD 0 0) 31 28 = 3 := by
  cases d with
  | none =>
    unfold scrubPosted
    rw [List.getD_cons_zero]
    decide
  | some d =>
    unfold scrubPosted
    rw [List.getD_cons_zero]
    have hh : s.get pgINTEG INTEG_SCRUB_ARG0_HANDLE < 2 ^ 9 := State.get_lt s _ _
    have hg : s.get pgINTEG INTEG_SCRUB_ARG0_GEN < 2 ^ 8 := State.get_lt s _ _
    unfold bits
    rw [Nat.shiftRight_eq_div_pow]
    omega
/-- A pass that may start: b is the state with its summary cleared. -/
theorem scrubGo_starts (hu : ScrubTaken s u pta tid c) (hc : c < 16) (hnone : s.integ.scrub = none) (hchan : chanState s c = 2) {d : Option Desc}
    (hd : pta = true ∧ d = none ∨ d.isSome = true ∧ pta = false ∧
      liveDesc s (s.get pgINTEG INTEG_SCRUB_ARG0_HANDLE) (s.get pgINTEG INTEG_SCRUB_ARG0_GEN) = d) :
    ∃ b, ScrubSame s b ∧ b.flag pgINTEG INTEG_SCRUB_STAT_BUSY = true ∧ u.scrubGo m = if emRuns s 1 then
        (b.ig fun g => { g with scrub := some { wait := some (c, scrubPosted s tid d) } }).scrubPost
      else b.ig fun g => { g with scrub := some { ended := true, part := true } } := by
  have hdesc : liveDesc u (u.get pgINTEG INTEG_SCRUB_ARG0_HANDLE) (u.get pgINTEG INTEG_SCRUB_ARG0_GEN) =
      liveDesc s (s.get pgINTEG INTEG_SCRUB_ARG0_HANDLE) (s.get pgINTEG INTEG_SCRUB_ARG0_GEN) := by
    rw [hu.same.liveDesc, hu.same.get _ _ (by decide) (by decide), hu.same.get _ _ (by decide) (by decide)]
  have hem : emRuns (scrubBegun u) 1 = emRuns s 1 := (hu.same.trans (scrubBegun_same u)).emRuns
  refine ⟨scrubBegun u, hu.same.trans (scrubBegun_same u), scrubBegun_busy u, ?_⟩
  rw [← scrubWords_posted hu, ← hem]
  unfold State.scrubGo
  dsimp only
  rw [hdesc, hu.form, hu.chan, hu.same.integ, hnone, hu.same.chanState hc, hchan]
  obtain ⟨hform, hd⟩ | ⟨hsome, hform, hd⟩ := hd <;> rw [hform, hd]
  · rw [if_neg (by simp)]
    rfl
  · rw [if_neg (by simp; exact Option.isSome_iff_ne_none.mp hsome)]
    rfl
/-- A pass that may not start. -/
theorem scrubGo_refuses (hu : ScrubTaken s u pta tid c) (hc : c < 16) (h : s.integ.scrub.isSome = true ∨ chanState s c ≠ 2 ∨
      pta = false ∧ liveDesc s (s.get pgINTEG INTEG_SCRUB_ARG0_HANDLE) (s.get pgINTEG INTEG_SCRUB_ARG0_GEN) = none) :
    u.scrubGo m = (u.put pgINTEG INTEG_SCRUB_STAT_RESULT 3).refused m pgINTEG INTEG_SCRUB_CMD := by
  have hdesc : liveDesc u (u.get pgINTEG INTEG_SCRUB_ARG0_HANDLE) (u.get pgINTEG INTEG_SCRUB_ARG0_GEN) =
      liveDesc s (s.get pgINTEG INTEG_SCRUB_ARG0_HANDLE) (s.get pgINTEG INTEG_SCRUB_ARG0_GEN) := by
    rw [hu.same.liveDesc, hu.same.get _ _ (by decide) (by decide), hu.same.get _ _ (by decide) (by decide)]
  unfold State.scrubGo
  dsimp only
  rw [hdesc, hu.form, hu.chan, hu.same.integ, hu.same.chanState hc]
  refine if_pos (h.imp_right (Or.imp_right fun ⟨hform, hd⟩ => ?_))
  rw [hform, hd]
  exact ⟨by decide, rfl⟩
/-- The pass that a channel has taken, or not yet. -/
def scrubWaits (s : State) (c : Nat) (words : List Nat) : State := s.ig fun g => { g with scrub := some { wait := some (c, words) } }
def scrubTakes (s : State) : State := s.ig fun g => { g with scrub := some { post := s.hub.accCtr } }
/-- A pass that waits for its channel is posted once EM1 runs and the channel has room. -/
theorem scrubPost_of_waits (s : State) (c : Nat) (words : List Nat) : (scrubWaits s c words).scrubPost =
    (scrubWaits s c words).cond (!false && emRuns (scrubWaits s c words) 1 && subReady (scrubWaits s c words) c) fun s =>
      (scrubTakes s).subTake c words true := by
  obtain ⟨u, p, hp, hwait, hended, hu⟩ : ∃ u p, u.integ.scrub = some p ∧ p.wait = some (c, words) ∧ p = { wait := some (c, words) } ∧
    u = scrubWaits s c words := ⟨_, _, rfl, rfl, rfl, rfl⟩
  rw [← hu]
  unfold State.scrubPost
  rw [hp]
  dsimp only
  rw [hwait]
  dsimp only
  rw [hended]
  rfl
theorem scrubWaits_ready (s : State) (c : Nat) (words : List Nat) : subReady (scrubWaits s c words) c = subReady s c := rfl
theorem scrubWaits_runs (s : State) (c : Nat) (words : List Nat) : emRuns (scrubWaits s c words) 1 = emRuns s 1 := rfl
theorem scrubTakes_waits (s : State) (c : Nat) (words : List Nat) : scrubTakes (scrubWaits s c words) = scrubTakes s := rfl
theorem scrubTakes_chanState (s : State) (c : Nat) : chanState (scrubTakes s) c = chanState s c := rfl
/-- EM1 posts the words of a pass on a channel that takes them. -/
theorem scrubPost_posts {words : List Nat} (hem : emRuns s 1 = true) (hchan : chanState s c = 2) (hroom : (chanOf s c).chains.length < 16)
    (htype : bits (words.getD 0 0) 31 28 = 3) : (scrubWaits s c words).scrubPost = ((scrubTakes s).chan c fun h =>
      { h with chains := h.chains ++ [⟨(scrubTakes s).hub.accCtr, true, words, 0⟩] }).hubf fun h => { h with accCtr := h.accCtr + 1 } := by
  have hready : subReady s c = true := by
    unfold subReady
    rw [hchan, decide_eq_true hroom]
    rfl
  have hpost : (scrubTakes s).postChain c words true = ((scrubTakes s).chan c fun h =>
      { h with chains := h.chains ++ [⟨(scrubTakes s).hub.accCtr, true, words, 0⟩] }).hubf fun h => { h with accCtr := h.accCtr + 1 } :=
    if_pos ((scrubTakes_chanState s c).trans hchan)
  rw [scrubPost_of_waits, scrubWaits_ready, scrubWaits_runs, hem, hready, show (!false && true && true) = true from rfl, State.cond_yes,
    scrubTakes_waits, subTake_scrub htype, if_pos rfl, hpost]
/-- A pass that finds no room waits. -/
theorem scrubPost_waits {words : List Nat} (hfull : 16 ≤ (chanOf s c).chains.length) :
    (scrubWaits s c words).scrubPost = scrubWaits s c words := by
  have hready : subReady s c = false := by
    unfold subReady
    rw [decide_eq_false (by omega), Bool.and_false]
  rw [scrubPost_of_waits, scrubWaits_ready, hready, Bool.and_false, State.cond_no]
/-- What a post on a channel leaves. -/
theorem posted_leaves {words : List Nat} {t : State} (ht : t = ((scrubTakes s).chan c fun h =>
      { h with chains := h.chains ++ [⟨(scrubTakes s).hub.accCtr, true, words, 0⟩] }).hubf fun h => { h with accCtr := h.accCtr + 1 }) :
    t.integ.scrub = some { post := s.hub.accCtr } ∧ t.regs = s.regs ∧ t.cfg = s.cfg ∧
      (chanOf t c).chains = (chanOf s c).chains ++ [⟨s.hub.accCtr, true, words, 0⟩] := by
  subst ht
  refine ⟨rfl, rfl, rfl, ?_⟩
  rw [chanOf_hubf, chanOf_chan_self]
  rfl
/-- A pass posted at once. -/
theorem scrubGo_posts (hu : ScrubTaken s u pta tid c) (hc : c < 16) (hnone : s.integ.scrub = none) (hchan : chanState s c = 2) {d : Option Desc}
    (hd : pta = true ∧ d = none ∨ d.isSome = true ∧ pta = false ∧
      liveDesc s (s.get pgINTEG INTEG_SCRUB_ARG0_HANDLE) (s.get pgINTEG INTEG_SCRUB_ARG0_GEN) = d)
    (hroom : (chanOf s c).chains.length < 16) (hem : emRuns s 1 = true) :
    (u.scrubGo m).flag pgINTEG INTEG_SCRUB_STAT_BUSY = true ∧ (u.scrubGo m).integ.scrub = some { post := s.hub.accCtr } ∧
      (chanOf (u.scrubGo m) c).chains = (chanOf s c).chains ++ [⟨s.hub.accCtr, true, scrubPosted s tid d, 0⟩] := by
  obtain ⟨b, hsame, hbusy, hgo⟩ := scrubGo_starts (m := m) hu hc hnone hchan hd
  rw [if_pos hem] at hgo
  have hchans : chanOf b c = chanOf s c := chanOf_congr hsame.chans c
  have hpost := scrubPost_posts (words := scrubPosted s tid d) (hsame.emRuns.trans hem) ((hsame.chanState hc).trans hchan)
    (by rw [hchans]; exact hroom) (scrubPosted_type s tid d)
  obtain ⟨hscrub, hregs, hcfg, hchains⟩ := posted_leaves (hgo.trans hpost)
  rw [hchans, hsame.hub] at hchains
  rw [hsame.hub] at hscrub
  exact ⟨(State.flag_congr (State.get_congr hregs hcfg _ _)).trans hbusy, hscrub, hchains⟩

/-! The clauses of SCRUB_CMD. -/

theorem scrubGo_postsLines (hmay : mayWrite s m pgINTEG INTEG_SCRUB_CMD true = true) (hnone : s.integ.scrub = none) (ht : tid < 64) (hc : c < 16)
    (hchan : chanState s c = 2) (hroom : (chanOf s c).chains.length < 16) (hem : emRuns s 1 = true) :
    ∃ t, exec (.scrubGo m true tid c) s = .next t ∧ t.flag pgINTEG INTEG_SCRUB_STAT_BUSY = true ∧
      t.integ.scrub = some { post := s.hub.accCtr } ∧ (chanOf t c).chains = (chanOf s c).chains ++ [⟨s.hub.accCtr, true,
        [3 * 2 ^ 28 + 2 ^ 27, s.get pgINTEG INTEG_SCRUB_ARG1_START, s.get pgINTEG INTEG_SCRUB_ARG2_LINES_M1, tid], 0⟩] := by
  obtain ⟨u, hu, hexec⟩ := exec_scrubGo (pta := true) hmay ht hc
  exact ⟨_, hexec, scrubGo_posts hu hc hnone hchan (.inl ⟨rfl, rfl⟩) hroom hem⟩
theorem scrubGo_postsHandle {h g : Nat} {d : Desc} (hmay : mayWrite s m pgINTEG INTEG_SCRUB_CMD true = true) (hnone : s.integ.scrub = none)
    (ht : tid < 64) (hc : c < 16) (hchan : chanState s c = 2) (hroom : (chanOf s c).chains.length < 16) (hem : emRuns s 1 = true)
    (hh : h = s.get pgINTEG INTEG_SCRUB_ARG0_HANDLE) (hg : g = s.get pgINTEG INTEG_SCRUB_ARG0_GEN) (hd : liveDesc s h g = some d) :
    ∃ t, exec (.scrubGo m false tid c) s = .next t ∧ t.integ.scrub = some { post := s.hub.accCtr } ∧
      (chanOf t c).chains = (chanOf s c).chains ++ [⟨s.hub.accCtr, true,
        [3 * 2 ^ 28 + h * 2 ^ 18 + g * 2 ^ 10, 0, 16 * (d.extentM1 + 1) - 1, d.owner], 0⟩] := by
  subst hh hg
  obtain ⟨u, hu, hexec⟩ := exec_scrubGo (pta := false) hmay ht hc
  exact ⟨_, hexec, (scrubGo_posts hu hc hnone hchan (.inr ⟨rfl, rfl, hd⟩) hroom hem).2⟩
theorem scrubGo_waits (hmay : mayWrite s m pgINTEG INTEG_SCRUB_CMD true = true) (hnone : s.integ.scrub = none) (ht : tid < 64) (hc : c < 16)
    (hchan : chanState s c = 2) (hfull : 16 ≤ (chanOf s c).chains.length) (hem : emRuns s 1 = true) :
    ∃ t, exec (.scrubGo m true tid c) s = .next t ∧ t.chans = s.chans ∧ t.integ.scrub = some { wait := some (c,
      [3 * 2 ^ 28 + 2 ^ 27, s.get pgINTEG INTEG_SCRUB_ARG1_START, s.get pgINTEG INTEG_SCRUB_ARG2_LINES_M1, tid]) } := by
  obtain ⟨u, hu, hexec⟩ := exec_scrubGo (pta := true) hmay ht hc
  obtain ⟨b, hsame, -, hgo⟩ := scrubGo_starts (m := m) hu hc hnone hchan (.inl ⟨rfl, rfl⟩)
  have hfull' : 16 ≤ (chanOf b c).chains.length := by
    rw [chanOf_congr hsame.chans]
    exact hfull
  rw [if_pos hem] at hgo
  refine ⟨_, hexec.trans (congrArg _ (hgo.trans (scrubPost_waits hfull'))), hsame.chans, rfl⟩
theorem scrubGo_ends (hmay : mayWrite s m pgINTEG INTEG_SCRUB_CMD true = true) (hnone : s.integ.scrub = none) (ht : tid < 64) (hc : c < 16)
    (hchan : chanState s c = 2) (hem : emRuns s 1 = false) :
    ∃ t, exec (.scrubGo m true tid c) s = .next t ∧ t.integ.scrub = some { ended := true, part := true } ∧ t.chans = s.chans := by
  obtain ⟨u, hu, hexec⟩ := exec_scrubGo (pta := true) hmay ht hc
  obtain ⟨b, hsame, -, hgo⟩ := scrubGo_starts (m := m) hu hc hnone hchan (.inl ⟨rfl, rfl⟩)
  rw [if_neg (by rw [hem]; decide)] at hgo
  exact ⟨_, hexec.trans (congrArg _ hgo), rfl, hsame.chans⟩
theorem scrubGo_refused (hmay : mayWrite s m pgINTEG INTEG_SCRUB_CMD true = true) (ht : tid < 64) (hc : c < 16)
    (h : s.integ.scrub.isSome = true ∨ chanState s c ≠ 2 ∨
      pta = false ∧ liveDesc s (s.get pgINTEG INTEG_SCRUB_ARG0_HANDLE) (s.get pgINTEG INTEG_SCRUB_ARG0_GEN) = none) :
    ∃ t, exec (.scrubGo m pta tid c) s = .next t ∧ t.get pgINTEG INTEG_SCRUB_STAT_RESULT = 3 ∧ t.integ = s.integ ∧ t.chans = s.chans := by
  obtain ⟨u, hu, hexec⟩ := exec_scrubGo (pta := pta) hmay ht hc
  refine ⟨_, hexec, ?_⟩
  rw [scrubGo_refuses hu hc h]
  refine ⟨?_, hu.same.integ, hu.same.chans⟩
  have hself : (u.put pgINTEG INTEG_SCRUB_STAT_RESULT 3).get pgINTEG INTEG_SCRUB_STAT_RESULT = 3 := State.get_put_self _ _ _ _ (by decide)
  refine Eq.trans (congrArg INTEG_SCRUB_STAT_RESULT.of ?_) hself
  exact flagPage_rd _ _ _ _ _ (by decide) (by decide) (by decide)
/-- ABORT marks the pass that runs, whatever the RWO fields of its write do; GO with it is refused while a pass runs. -/
theorem scrubAbort_marks {p : ScrubPass} (hmay : mayWrite s m pgINTEG INTEG_SCRUB_CMD false = true) (hscrub : s.integ.scrub = some p) :
    ∃ t, exec (.scrubAbort m) s = .next t ∧ t.integ.scrub = some { p with aborted := true, ended := p.ended || p.wait.isSome } ∧
      t.chans = s.chans := by
  obtain ⟨w, hw⟩ : ∃ w, w = s.rd (pgINTEG + INTEG_SCRUB_CMD) ||| BitVec.ofNat 32 (2 ^ 30) := ⟨_, rfl⟩
  have habort : INTEG_SCRUB_CMD_ABORT.of w = 1 := by
    have hbit : w.toNat.testBit 30 = true := by
      rw [hw, BitVec.toNat_or, Nat.testBit_or, show (BitVec.ofNat 32 (2 ^ 30)).toNat.testBit 30 = true by decide, Bool.or_true]
    simp only [Fld.of, bits, INTEG_SCRUB_CMD_ABORT, Nat.shiftRight_eq_div_pow]
    rw [Nat.testBit_eq_decide_div_mod_eq, decide_eq_true_eq] at hbit
    omega
  obtain ⟨u, hu⟩ : ∃ u, u = s.setFields m pgINTEG INTEG_SCRUB_CMD w := ⟨_, rfl⟩
  have hsans : u.sansRec = s.sansRec := hu ▸ setFields_sansRec scrubCmd_page scrubCmd_row w
  have hinteg : u.integ = s.integ := (congrArg State.integ hsans :)
  have hchans : u.chans = s.chans := (congrArg State.chans hsans :)
  obtain ⟨v, hv⟩ : ∃ v, v = u.cond (INTEG_SCRUB_CMD_GO.of w == 1) fun s => s.scrubGo m := ⟨_, rfl⟩
  have hgo : v.integ = u.integ ∧ v.chans = u.chans := by
    rw [hv]
    unfold State.cond
    split
    · have hrefused : u.scrubGo m = (u.put pgINTEG INTEG_SCRUB_STAT_RESULT 3).refused m pgINTEG INTEG_SCRUB_CMD := by
        unfold State.scrubGo
        dsimp only
        refine if_pos (.inl ?_)
        rw [hinteg, hscrub]
        rfl
      dsimp only
      rw [hrefused]
      exact ⟨rfl, rfl⟩
    · exact ⟨rfl, rfl⟩
  obtain ⟨hvinteg, hvchans⟩ := hgo
  refine ⟨v.scrubAbort, ?_, ?_, hvchans.trans hchans⟩
  · show execScrubAbort m s = _
    unfold execScrubAbort
    rw [← hw]
    unfold scrubCmdWrite
    rw [State.gate_open _ _ _ _ _ _ hmay, habort]
    dsimp only
    rw [← hu, ← hv]
    rfl
  · show (v.integ.scrub.map fun p => _) = _
    rw [hvinteg, hinteg, hscrub]
    rfl
/-- A pass that is over. -/
def scrubOver (s : State) (r : Nat) : State :=
  (((s.put pgINTEG INTEG_SCRUB_STAT_BUSY 0).put pgINTEG INTEG_SCRUB_STAT_RESULT r).ig fun g => { g with scrub := none }).irq pgINTEG 2
theorem ig_get (s : State) (f : IntegSt → IntegSt) (a : Nat) (g : Fld) : (s.ig f).get a g = s.get a g := rfl
theorem scrubOver_leaves (s : State) (r : Nat) (hr : r < 16) : (scrubOver s r).integ.scrub = none ∧
    (scrubOver s r).get pgINTEG INTEG_SCRUB_STAT_BUSY = 0 ∧ (scrubOver s r).get pgINTEG INTEG_SCRUB_STAT_RESULT = r := by
  unfold scrubOver
  refine ⟨?_, ?_, ?_⟩
  · have hkeep : ∀ v : State, (v.irq pgINTEG 2).integ = v.integ := fun v => (congrArg State.integ (State.irq_sansRec v pgINTEG 2) :)
    rw [hkeep]
    rfl
  · rw [State.get_irq _ _ _ _ _ (by decide) (by decide), ig_get, State.get_put_page _ _ _ _ _ (by decide) (by decide),
      State.get_put_self _ _ _ _ (by decide)]
    rfl
  · rw [State.get_irq _ _ _ _ _ (by decide) (by decide), ig_get, State.get_put_self _ _ _ _ (by decide)]
    exact Nat.mod_eq_of_lt hr
/-- A pass whose post has ended leaves its RESULT. -/
theorem scrubPassDone_ends {p : ScrubPass} (hscrub : s.integ.scrub = some p) (hended : p.ended = true) (hem : emRuns s 1 = true) :
    ∃ t, exec .scrubPassDone s = .next t ∧ t.integ.scrub = none ∧ t.flag pgINTEG INTEG_SCRUB_STAT_BUSY = false ∧
      t.get pgINTEG INTEG_SCRUB_STAT_RESULT = if p.part then 2 else if p.aborted then 1 else 0 := by
  obtain ⟨r, hr⟩ : ∃ r, r = if p.part then 2 else if p.aborted then 1 else 0 := ⟨_, rfl⟩
  have hlt : r < 16 := by
    rw [hr]
    split
    · decide
    · split <;> decide
  have hexec : exec .scrubPassDone s = .next (scrubOver (s.wr (pgINTEG + INTEG_SCRUB_SUM + 24) (BitVec.ofNat 32
      (s.get pgINTEG ((Fld.word INTEG_SCRUB_SUM).at 4 6) ||| (b2n p.aborted * 2 + b2n p.part)))) r) := by
    show execScrubPassDone s = _
    unfold execScrubPassDone
    rw [hscrub]
    dsimp only
    rw [if_neg (by rw [hended, hem]; decide), ← hr]
    rfl
  obtain ⟨hinteg, hbusy, hresult⟩ := scrubOver_leaves _ r hlt
  refine ⟨_, hexec, hinteg, ?_, hresult.trans hr⟩
  unfold State.flag
  rw [hbusy]
  rfl

/-! ### The flip mask and the poison log (R458, R470) -/

/-- The word of FLIP_CTL with ARM. -/
def flipWord (layer bank rim : Nat) : Word32 := BitVec.ofNat 32 (2 ^ 31 + layer % 8 * 2 ^ 8 + bank % 16 * 16 + rim % 16)
theorem flipWord_fields {layer bank rim : Nat} (hl : layer < 8) (hb : bank < 16) (hr : rim < 16) :
    INTEG_FLIP_CTL_ARM.of (flipWord layer bank rim) = 1 ∧ INTEG_FLIP_CTL_LAYER.of (flipWord layer bank rim) = layer ∧
    INTEG_FLIP_CTL_BANK.of (flipWord layer bank rim) = bank ∧ INTEG_FLIP_CTL_RIM.of (flipWord layer bank rim) = rim := by
  simp only [Fld.of, bits, flipWord, INTEG_FLIP_CTL_ARM, INTEG_FLIP_CTL_LAYER, INTEG_FLIP_CTL_BANK, INTEG_FLIP_CTL_RIM, BitVec.toNat_ofNat,
    Nat.shiftRight_eq_div_pow]
  omega
/-- The mask lies apart from FLIP_CTL. -/
theorem flipMask_congr {t : State} (h : ∀ o, o ≠ pgINTEG + INTEG_FLIP_CTL → t.rd o = s.rd o) : flipMask t = flipMask s := by
  unfold flipMask
  have hword : ∀ k, t.rd (pgINTEG + INTEG_FLIP_MASK + 4 * k) = s.rd (pgINTEG + INTEG_FLIP_MASK + 4 * k) := fun k =>
    h _ (by simp only [INTEG_FLIP_MASK, INTEG_FLIP_CTL]; omega)
  simp only [hword]
theorem flipArm_arms {layer bank rim : Nat} (hmay : mayWrite s m pgINTEG INTEG_FLIP_CTL true = true) (hl : layer < 8) (hb : bank < 16)
    (hr : rim < 16) : ∃ t, exec (.flipArm m layer bank rim) s = .next t ∧
      t.array = { s.array with flip := some ⟨layer, rim, bank, flipMask s⟩ } ∧ t.flag pgINTEG INTEG_FLIP_CTL_ARM = true := by
  obtain ⟨harm, hlayer, hbank, hrim⟩ := flipWord_fields hl hb hr
  have hp : pageAt (pgINTEG + INTEG_FLIP_CTL) = some ⟨.integ, 0, pgINTEG⟩ := by decide
  have hrow : rowAt Page.integ INTEG_FLIP_CTL = some ⟨0x0E0, 1, 0, 1, 0,
    [⟨31, 31, .w1s, 0⟩, ⟨30, 30, .rw1c, 0⟩, ⟨10, 8, .rwo, 0⟩, ⟨7, 4, .rwo, 0⟩, ⟨3, 0, .rwo, 0⟩]⟩ := rfl
  have hown := Or.inl (b := (List.any [(⟨31, 31, .w1s, 0⟩ : FieldRow), ⟨30, 30, .rw1c, 0⟩, ⟨10, 8, .rwo, 0⟩, ⟨7, 4, .rwo, 0⟩,
    ⟨3, 0, .rwo, 0⟩] fun f => f.acc == .rwo) = false) (owns_of_mayWrite hp hmay)
  have hlayerGet := (setFields_get (f := ⟨10, 8, .rwo, 0⟩) hp hrow hown (flipWord layer bank rim) (by simp)).trans hlayer
  have hbankGet := (setFields_get (f := ⟨7, 4, .rwo, 0⟩) hp hrow hown (flipWord layer bank rim) (by simp)).trans hbank
  have hrimGet := (setFields_get (f := ⟨3, 0, .rwo, 0⟩) hp hrow hown (flipWord layer bank rim) (by simp)).trans hrim
  have hmask : flipMask (s.setFields m pgINTEG INTEG_FLIP_CTL (flipWord layer bank rim)) = flipMask s :=
    flipMask_congr fun o ho => setFields_rd hp hrow hown _ ho
  have harray : (s.setFields m pgINTEG INTEG_FLIP_CTL (flipWord layer bank rim)).array = s.array :=
    (congrArg State.array (setFields_sansRegs hp hrow hown (flipWord layer bank rim)) :)
  have hexec : exec (.flipArm m layer bank rim) s = .next (flipCtlWrite m (flipWord layer bank rim) s) := rfl
  refine ⟨_, hexec, ?_⟩
  unfold flipCtlWrite
  rw [State.gate_open _ _ _ _ _ _ (mayWrite_any hmay), harm]
  dsimp only
  generalize s.setFields m pgINTEG INTEG_FLIP_CTL (flipWord layer bank rim) = u at *
  change u.get pgINTEG INTEG_FLIP_CTL_LAYER = layer at hlayerGet
  change u.get pgINTEG INTEG_FLIP_CTL_BANK = bank at hbankGet
  change u.get pgINTEG INTEG_FLIP_CTL_RIM = rim at hrimGet
  rw [State.cond, if_pos (show ((1 : Nat) == 1) = true from rfl), hlayerGet, hbankGet, hrimGet, hmask, ← harray]
  exact ⟨rfl, State.flag_put_self _ _ _ true (by decide) rfl⟩

/-- The words of an entry latched behind PSN_E0. -/
def psnLatched (s : State) (a b c : Nat) : State :=
  ((s.wr (pgINTEG + INTEG_PSN_E1) (BitVec.ofNat 32 a)).wr (pgINTEG + INTEG_PSN_E2) (BitVec.ofNat 32 b)).wr
    (pgINTEG + INTEG_PSN_E3) (BitVec.ofNat 32 c)
theorem psnLatched_words (s : State) (a b c : Nat) : (psnLatched s a b c).rd (pgINTEG + INTEG_PSN_E1) = BitVec.ofNat 32 a ∧
    (psnLatched s a b c).rd (pgINTEG + INTEG_PSN_E2) = BitVec.ofNat 32 b ∧ (psnLatched s a b c).rd (pgINTEG + INTEG_PSN_E3) = BitVec.ofNat 32 c := by
  unfold psnLatched
  refine ⟨?_, ?_, State.rd_wr_self ..⟩
  · rw [State.rd_wr_of_ne _ _ (by decide), State.rd_wr_of_ne _ _ (by decide), State.rd_wr_self]
  · rw [State.rd_wr_of_ne _ _ (by decide), State.rd_wr_self]
theorem answerMaster_get (s : State) (m : Master) (l : List (Nat × Nat)) (a : Nat) (f : Fld) : (s.answerMaster m l).get a f = s.get a f := rfl
theorem psnRead_pops {e : PsnEntry} {l : List PsnEntry} (h : s.psnLog = e :: l) :
    s.psnRead = (e.e0, psnLatched { s with psnLog := l } (e.pta % 2 ^ 30) (e.source % 128 * 2 ^ 25) e.time) := by
  unfold State.psnRead
  rw [h]
  rfl
theorem psnLogRead_pops {e : PsnEntry} {l : List PsnEntry} (hopen : fabricOpen s m ⟨.integ, 0, pgINTEG⟩ = true)
    (hpath : readPath s m ⟨.integ, 0, pgINTEG⟩ = true) (h : s.psnLog = e :: l) :
    ∃ t, exec (.psnLogRead m) s = .next t ∧ t.psnLog = l ∧ Sp.get [] t.reply m.code = [(e.e0, 0)] ∧
      t.get pgINTEG INTEG_PSN_E1_PTA = e.pta % 2 ^ 30 ∧ t.get pgINTEG INTEG_PSN_E2_SOURCE = e.source % 128 ∧
      t.get pgINTEG INTEG_PSN_E3_TIME = e.time % 2 ^ 32 := by
  obtain ⟨h1, h2, h3⟩ := psnLatched_words { s with psnLog := l } (e.pta % 2 ^ 30) (e.source % 128 * 2 ^ 25) e.time
  have hlog : (psnLatched { s with psnLog := l } (e.pta % 2 ^ 30) (e.source % 128 * 2 ^ 25) e.time).psnLog = l := rfl
  have hexec : exec (.psnLogRead m) s = .next ((psnLatched { s with psnLog := l } (e.pta % 2 ^ 30) (e.source % 128 * 2 ^ 25) e.time).answerMaster m
      [(e.e0, 0)]) := by
    show execPsnLogRead m s = _
    unfold execPsnLogRead
    dsimp only
    rw [hopen, hpath, if_neg (by decide), if_neg (by decide), psnRead_pops h]
  generalize psnLatched { s with psnLog := l } (e.pta % 2 ^ 30) (e.source % 128 * 2 ^ 25) e.time = u at *
  refine ⟨_, hexec, hlog, Sp.get_set_self .., ?_, ?_, ?_⟩
  · rw [answerMaster_get]
    refine (congrArg INTEG_PSN_E1_PTA.of h1).trans ?_
    simp only [Fld.of, bits, INTEG_PSN_E1_PTA, BitVec.toNat_ofNat, Nat.shiftRight_eq_div_pow]
    omega
  · rw [answerMaster_get]
    refine (congrArg INTEG_PSN_E2_SOURCE.of h2).trans ?_
    simp only [Fld.of, bits, INTEG_PSN_E2_SOURCE, BitVec.toNat_ofNat, Nat.shiftRight_eq_div_pow]
    omega
  · rw [answerMaster_get]
    refine (congrArg INTEG_PSN_E3_TIME.of h3).trans ?_
    simp only [Fld.of, bits, INTEG_PSN_E3_TIME, BitVec.toNat_ofNat, Nat.shiftRight_eq_div_pow]
    omega
end

/-- Settles O39: a rim with write-backs alone performs them (`rimArb_writesBack`), and SCRUB_CMD changes the registers of a pass alone. -/
theorem integrityCommands : Obligations.IntegrityCommands := by
  unfold Obligations.IntegrityCommands
  exact ⟨fun _ _ _ hb h hw hl ht => correctionWriteback_counts hb h hw, fun _ _ _ hb h hw hwf => correctionWriteback_stores hb h hw hwf,
    fun _ _ _ _ hmay hnone ht hc hchan hroom hem => scrubGo_postsLines hmay hnone ht hc hchan hroom hem,
    fun _ _ _ _ _ _ _ hmay hnone ht hc hchan hroom hem hh hg hd => scrubGo_postsHandle hmay hnone ht hc hchan hroom hem hh hg hd,
    fun _ _ _ _ hmay hnone ht hc hchan hfull hem => scrubGo_waits hmay hnone ht hc hchan hfull hem,
    fun _ _ _ _ hmay hnone ht hc hchan hem => scrubGo_ends hmay hnone ht hc hchan hem,
    fun _ _ _ _ _ hmay ht hc h => scrubGo_refused hmay ht hc h,
    fun _ _ _ hmay h => scrubAbort_marks hmay h,
    fun _ _ h hended hem => scrubPassDone_ends h hended hem,
    fun _ _ _ _ _ hmay hl hb hr => flipArm_arms hmay hl hb hr,
    fun _ _ _ _ hopen hpath h => psnLogRead_pops hopen hpath h⟩

end Sys2Proof.Machine

/-! PROOFS. The hard faults (spec/15_integrity.md R459 to R469; spec/21_integration.md R602 to R605), and their obligation. -/
namespace Sys2Proof.Machine

/-! ### Registers of the layers -/

section
variable {s t : State} {layer i j p : Nat}

/-- The bit of LAYER_STAT that shows logical rim i in service. -/
def upFld (i : Nat) : Fld := ⟨LAYER_LAYER_STAT, i, i⟩
theorem rimUp_eq_flag (s : State) (layer : Nat) (hi : i < 16) : rimUp s layer i = s.flag (layerBase layer) (upFld i) := by
  unfold rimUp State.flag State.get Fld.of bits bit
  simp only [upFld, LAYER_LAYER_STAT_RIM_UP, Nat.add_sub_cancel_left, Nat.pow_one, Nat.shiftRight_zero, Nat.sub_zero]
  rw [Nat.testBit_mod_two_pow, decide_eq_true (show i < 15 + 1 from hi), Bool.true_and, Nat.testBit_eq_decide_div_mod_eq,
    Nat.shiftRight_eq_div_pow]
  rfl
theorem rimUp_of_rd (h : t.rd (layerBase layer + LAYER_LAYER_STAT) = s.rd (layerBase layer + LAYER_LAYER_STAT)) (i : Nat) :
    rimUp t layer i = rimUp s layer i := congrArg (fun w => bit (LAYER_LAYER_STAT_RIM_UP.of w) i) h
theorem upFld_fits (hi : i < 16) : (upFld i).fits := ⟨Nat.le_refl _, Nat.lt_trans hi (by decide)⟩
theorem active_fits : LAYER_LAYER_STAT_ACTIVE.fits := by decide
theorem rimUp_setRimUp_self (s : State) (layer : Nat) (hi : i < 16) (on : Bool) : rimUp (s.setRimUp layer i on) layer i = on := by
  rw [rimUp_eq_flag _ _ hi]
  unfold State.setRimUp
  refine (State.flag_congr (State.get_put_page _ _ _ (upFld i) _ active_fits (.inr (.inl hi)))).trans ?_
  exact State.flag_put_self s _ (upFld i) on (upFld_fits hi) rfl
theorem rimUp_setRimUp_of_ne (s : State) (layer : Nat) (hi : i < 16) (hj : j < 16) (h : j ≠ i) (on : Bool) :
    rimUp (s.setRimUp layer i on) layer j = rimUp s layer j := by
  rw [rimUp_eq_flag _ _ hj, rimUp_eq_flag _ _ hj]
  unfold State.setRimUp
  refine (State.flag_congr (State.get_put_page _ _ _ (upFld j) _ active_fits (.inr (.inl hj)))).trans ?_
  refine State.flag_congr (State.get_put_page s _ (upFld i) (upFld j) _ (upFld_fits hi) (.inr ?_))
  show j < i ∨ i < j
  omega
theorem setRimUp_rd (s : State) (layer i : Nat) (on : Bool) {o : Nat} (h : o ≠ layerBase layer + LAYER_LAYER_STAT) :
    (s.setRimUp layer i on).rd o = s.rd o := (State.rd_put_of_ne _ _ h).trans (State.rd_put_of_ne _ _ h)

/-- A register of a LAYER page or of a RIM page other than ACC_CNT. -/
def AtLayer (o : Nat) : Prop := 0x100000 ≤ o ∧ o % 4096 ≠ 0x44
theorem AtLayer.aside {o : Nat} (h : AtLayer o) : Aside o := .inr (.inr (.inr h))
theorem fstat_atLayer (layer p : Nat) : AtLayer (rimBase layer p + RIM_RIM_FSTAT) := by
  simp only [AtLayer, rimBase, layerBase, RIM_RIM_FSTAT]
  omega
theorem layerReg_atLayer (layer : Nat) {o : Nat} (h : o < 0x1000 ∧ o ≠ 0x44) : AtLayer (layerBase layer + o) := by
  simp only [AtLayer, layerBase]
  omega
/-- The LAYER page of a layer is kept, LAYER_STAT aside. -/
def PageKept (s t : State) (layer : Nat) : Prop := ∀ k, k < 0x1000 → k ≠ 0x44 → t.rd (layerBase layer + k) = s.rd (layerBase layer + k)
theorem PageKept.of_atLayer (h : ∀ o, AtLayer o → t.rd o = s.rd o) (layer : Nat) : PageKept s t layer :=
  fun _ hk hne => h _ (layerReg_atLayer layer ⟨hk, hne⟩)
theorem PageKept.trans {u : State} (h : PageKept s t layer) (k : PageKept t u layer) : PageKept s u layer :=
  fun o ho hne => (k o ho hne).trans (h o ho hne)
theorem PageKept.phys (h : PageKept s t layer) (hi : i < 16) : physOf t layer i = physOf s layer i := by
  have hreg := h (LAYER_RIM_MAP + 4 * (i / 4)) (by simp only [LAYER_RIM_MAP]; omega) (by simp only [LAYER_RIM_MAP]; omega)
  rw [← Nat.add_assoc] at hreg
  unfold physOf
  rw [hreg]
theorem PageKept.role (h : PageKept s t layer) : spareRole t layer = spareRole s layer ∧ spareFor t layer = spareFor s layer := by
  have hreg := h LAYER_SPARE_STAT (by decide) (by decide)
  exact ⟨congrArg LAYER_SPARE_STAT_SPARE_ROLE.of hreg, congrArg LAYER_SPARE_STAT_SPARE_FOR.of hreg⟩

/-! ### What the record of a fault and the isolation of a rim change -/

theorem recordFault_rests (s : State) (kind cause layer unit : Nat) : Rests s (s.recordFault kind cause layer unit) := by
  have hwr : ∀ (u : State) (o : Nat) (w : Word32), ¬ Aside o → Rests u (u.wr o w) := fun u o w h =>
    .of_same rfl rfl rfl rfl rfl fun _ ho => State.rd_wr_of_ne u w fun e => h (e ▸ ho)
  have hno : ∀ k, k < 0x70 → ¬ Aside (pgINTEG + k) := fun k hk => by
    simp only [Aside, pgINTEG]
    omega
  unfold State.recordFault State.put64
  dsimp only
  refine Rests.trans (Rests.trans (Rests.trans (Rests.trans (hwr s _ _ ?_) (hwr _ _ _ ?_)) (hwr _ _ _ ?_)) (put_rests _ _ ?_)) (irq_rests _ _ ?_)
  · exact hno _ (by decide)
  · exact hno _ (by decide)
  · exact hno _ (by decide)
  · exact hno _ (by decide)
  · exact hno _ (by decide)
/-- The state with the fault of a rim recorded and the rim isolated. -/
theorem isolate_rd (s : State) (layer p cause : Nat) {o : Nat} (h : o ≠ rimBase layer p + RIM_RIM_FSTAT) :
    (s.isolate layer p cause).rd o = s.rd o := (State.rd_put_of_ne _ _ h).trans (State.rd_put_of_ne _ _ h)
theorem isolate_health (s : State) (layer p cause : Nat) : (s.isolate layer p cause).get (rimBase layer p) RIM_RIM_FSTAT_HEALTH = 1 := by
  unfold State.isolate
  rw [State.get_put_page _ _ _ _ _ (by decide) (by decide), State.get_put_self _ _ _ _ (by decide)]
  rfl
theorem isolate_cause (s : State) (layer p cause : Nat) :
    (s.isolate layer p cause).get (rimBase layer p) RIM_RIM_FSTAT_CAUSE = cause % 16 := State.get_put_self _ _ _ _ (by decide)
theorem isolate_page (s : State) (layer p cause : Nat) : PageKept s (s.isolate layer p cause) layer := fun k hk _ =>
  isolate_rd s layer p cause (by simp only [rimBase, RIM_RIM_FSTAT]; omega)
theorem recordFault_page (s : State) (kind cause layer unit n : Nat) : PageKept s (s.recordFault kind cause layer unit) n :=
  .of_atLayer (fun o ho => (recordFault_rests s kind cause layer unit).regs o ho.aside) n
theorem setRimUp_page (s : State) (layer i : Nat) (on : Bool) : PageKept s (s.setRimUp layer i on) layer := fun k _ hne =>
  setRimUp_rd s layer i on (by simp only [LAYER_LAYER_STAT]; omega)

/-! ### What a lost rim loses -/

/-- A rim lost, before the accesses that stand there are. -/
def stepsLost (s : State) (layer i : Nat) : State :=
  (s.loseStep layer i stFAULT).arr fun a => { a with wbs := a.wbs.filter fun w => !(w.layer == layer && w.rim == i) }
/-- The accesses that stand at a rim. -/
def standing (s : State) (layer i : Nat) : List Access :=
  s.hub.flight.filter fun a => a.layer == layer && a.rim == i && (a.loc == .rim || a.loc == .half || a.loc == .out)
theorem loseRim_eq (s : State) (layer i : Nat) :
    s.loseRim layer i = (stepsLost s layer i).each (standing (stepsLost s layer i) layer i) State.loseAccess := rfl
section
variable (hclaims : s.hub.claims = []) (hkernel : (rimOf s layer (physOf s layer i)).kq = none)
include hclaims hkernel
theorem stepsLost_steps : (∀ o, 0x100000 ≤ o → (stepsLost s layer i).rd o = s.rd o) ∧ (stepsLost s layer i).hub.flight = s.hub.flight ∧
    (stepsLost s layer i).hub.claims = [] ∧ (stepsLost s layer i).integ = s.integ ∧ (stepsLost s layer i).test = s.test ∧
    ∀ n q, (rimOf s n q).kq = none → (rimOf (stepsLost s layer i) n q).kq = none := by
  have h := loseStep_steps s layer i stFAULT hclaims hkernel
  unfold stepsLost
  generalize s.loseStep layer i stFAULT = u at *
  exact ⟨fun o ho => h.regs o (.inr (Nat.le_trans (by decide) ho)), h.flight, h.claims hclaims, h.integ, h.test, h.kernels⟩
theorem loseRim_atLayer {o : Nat} (ho : AtLayer o) : (s.loseRim layer i).rd o = s.rd o := by
  obtain ⟨hregs, -⟩ := stepsLost_steps hclaims hkernel
  rw [loseRim_eq, ← hregs o ho.1]
  exact (Rests.each loseAccess_rests _ _).regs o ho.aside
/-- What stands at a lost rim completes with FAULT. -/
theorem loseRim_lost {a : Access} (ha : a ∈ s.hub.flight) (hl : a.layer = layer) (hr : a.rim = i)
    (hloc : a.loc = .rim ∨ a.loc = .half ∨ a.loc = .out) : Lost (s.loseRim layer i) a.seq := by
  obtain ⟨-, hflight, -⟩ := stepsLost_steps hclaims hkernel
  rw [loseRim_eq]
  refine each_lost _ _ (List.mem_filter.mpr ⟨by rw [hflight]; exact ha, ?_⟩)
  rw [hl, hr, beq_self_eq_true, beq_self_eq_true]
  rcases hloc with h | h | h <;> rw [h] <;> rfl
end

/-! ### A hard fault of a rim in its own place (R459, R460) -/

/-- A rim isolated, and its fault recorded. -/
def faulted (s : State) (kind layer p cause : Nat) : State := (s.isolate layer p cause).recordFault kind cause layer p
theorem faulted_hub (s : State) (kind layer p cause : Nat) : (faulted s kind layer p cause).hub = s.hub := recordFault_hub ..
theorem faulted_page (s : State) (kind layer p cause : Nat) : PageKept s (faulted s kind layer p cause) layer :=
  PageKept.trans (isolate_page s layer p cause) (recordFault_page _ kind cause layer p layer)
theorem faulted_health (s : State) (kind layer p cause : Nat) : (faulted s kind layer p cause).get (rimBase layer p) RIM_RIM_FSTAT_HEALTH = 1 ∧
    (faulted s kind layer p cause).get (rimBase layer p) RIM_RIM_FSTAT_CAUSE = cause % 16 := by
  have hreg := (recordFault_rests (s.isolate layer p cause) kind cause layer p).regs _ (fstat_atLayer layer p).aside
  exact ⟨(congrArg RIM_RIM_FSTAT_HEALTH.of hreg).trans (isolate_health ..), (congrArg RIM_RIM_FSTAT_CAUSE.of hreg).trans (isolate_cause ..)⟩
theorem faulted_test (s : State) (kind layer p cause : Nat) : (faulted s kind layer p cause).test = s.test :=
  (recordFault_rests (s.isolate layer p cause) kind cause layer p).test
theorem faulted_integ (s : State) (kind layer p cause : Nat) : (faulted s kind layer p cause).integ = s.integ :=
  (recordFault_rests (s.isolate layer p cause) kind cause layer p).integ
theorem faulted_kernels (s : State) (kind layer p cause n q : Nat) (h : (rimOf s n q).kq = none) :
    (rimOf (faulted s kind layer p cause) n q).kq = none :=
  (recordFault_rests (s.isolate layer p cause) kind cause layer p).kernels n q h
theorem ftRim_none (h : t.test.ft = none) (layer : Nat) : ftRim t layer = none := by
  unfold ftRim
  rw [h]
theorem rimFault_own {cause : Nat} (hp : p < 16) (hft : s.test.ft = none) (hphys : physOf s layer p = p)
    (hevac : ¬ (spareRole s layer = 3 ∧ spareFor s layer = p)) :
    s.rimFault layer p cause = ((faulted s 1 layer p cause).loseRim layer p).setRimUp layer p false := by
  have hpage := faulted_page s 1 layer p cause
  obtain ⟨hrole, hfor⟩ := hpage.role
  have hfree := ftRim_none ((congrArg TestSt.ft (faulted_test s 1 layer p cause)).trans hft) layer
  have hown := (hpage.phys hp).trans hphys
  rw [← hrole, ← hfor] at hevac
  unfold State.rimFault
  dsimp only
  rw [show (s.isolate layer p cause).recordFault 1 cause layer p = faulted s 1 layer p cause from rfl]
  generalize faulted s 1 layer p cause = u at *
  rw [hfree]
  dsimp only
  rw [if_neg (by rw [hown]; exact fun h => h rfl), if_neg hevac]
theorem rimHardFault_isolates {cause : Nat} (hdies : layer < s.cfg.dies) (hp : p < 16) (hhealth : s.get (rimBase layer p) RIM_RIM_FSTAT_HEALTH = 0)
    (hpower : rimPower s layer p ≠ 5) (hft : s.test.ft = none) (hphys : physOf s layer p = p)
    (hevac : ¬ (spareRole s layer = 3 ∧ spareFor s layer = p)) (hclaims : s.hub.claims = []) (hkernel : (rimOf s layer p).kq = none) :
    ∃ t, exec (.rimHardFault layer p cause) s = .next t ∧ t.get (rimBase layer p) RIM_RIM_FSTAT_HEALTH = 1 ∧
      t.get (rimBase layer p) RIM_RIM_FSTAT_CAUSE = cause % 16 ∧ rimUp t layer p = false ∧
      ∀ a ∈ s.hub.flight, a.layer = layer → a.rim = p → a.loc = .rim ∨ a.loc = .half ∨ a.loc = .out →
        ∀ b ∈ t.hub.flight, b.seq = a.seq → b.loc = .merge ∧ b.status = stFAULT := by
  have hexec : exec (.rimHardFault layer p cause) s = .next (s.rimFault layer p (cause % 16)) := by
    show execRimHardFault layer p cause s = _
    unfold execRimHardFault
    rw [if_neg (by omega), if_neg (by omega)]
  have hhub := faulted_hub s 1 layer p (cause % 16)
  obtain ⟨hone, hcause⟩ := faulted_health s 1 layer p (cause % 16)
  have hclaims' : (faulted s 1 layer p (cause % 16)).hub.claims = [] := by rw [hhub]; exact hclaims
  have hkernel' : (rimOf (faulted s 1 layer p (cause % 16)) layer (physOf (faulted s 1 layer p (cause % 16)) layer p)).kq = none := by
    rw [(faulted_page s 1 layer p (cause % 16)).phys hp, hphys]
    exact faulted_kernels _ _ _ _ _ _ _ hkernel
  rw [rimFault_own hp hft hphys hevac] at hexec
  generalize faulted s 1 layer p (cause % 16) = u at *
  have hfstat : ((u.loseRim layer p).setRimUp layer p false).rd (rimBase layer p + RIM_RIM_FSTAT) = u.rd (rimBase layer p + RIM_RIM_FSTAT) := by
    rw [setRimUp_rd _ _ _ _ (by simp only [rimBase, RIM_RIM_FSTAT, LAYER_LAYER_STAT]; omega)]
    exact loseRim_atLayer hclaims' hkernel' (fstat_atLayer layer p)
  refine ⟨_, hexec, (congrArg RIM_RIM_FSTAT_HEALTH.of hfstat).trans hone,
    ((congrArg RIM_RIM_FSTAT_CAUSE.of hfstat).trans hcause).trans (Nat.mod_mod ..),
    rimUp_setRimUp_self _ _ hp _, fun a ha hl hr hloc => ?_⟩
  exact loseRim_lost hclaims' hkernel' (by rw [hhub]; exact ha) hl hr hloc

/-! ### A hard fault of an Idle spare (R462) -/

theorem listRetired_of {β : Type} (g : State → β) (hlife : ∀ (u : State) (f : LifeSt → LifeSt), g (u.lif f) = g u)
    (hfull : ∀ u : State, g (u.bumpSat pgREC RECORDER_LS_STAT_LISTFULL) = g u) (s : State) (layer p cause : Nat) :
    g (s.listRetired layer p cause) = g s := by
  unfold State.listRetired
  split
  · rfl
  · split
    · exact hlife ..
    · exact lsWrite_of _ g _ (hfull s)
theorem listRetired_hub (s : State) (layer p cause : Nat) : (s.listRetired layer p cause).hub = s.hub :=
  listRetired_of State.hub (fun _ _ => rfl) (fun _ => rfl) s layer p cause
theorem listRetired_rd (s : State) (layer p cause : Nat) {o : Nat} (h : AtLayer o) : (s.listRetired layer p cause).rd o = s.rd o :=
  listRetired_of (fun u => u.rd o) (fun _ _ => rfl)
    (fun u => State.bumpSat_rd _ _ (by simp only [AtLayer, pgREC, RECORDER_LS_STAT_LISTFULL] at h ⊢; omega)) s layer p cause
/-- An Idle spare that has failed: its role is RETIRED. -/
theorem spareFault_idle {cause : Nat} (hrole : spareRole s layer = 0) (hcmd : s.integ.cmd = none) (hfor : physOf s layer (spareFor s layer) ≠ 16) :
    s.spareFault layer cause = ((faulted s 5 layer 16 cause).setRole layer 5 (spareFor s layer)).listRetired layer 16 cause := by
  have hi : spareFor s layer < 16 := State.get_lt s _ _
  have hpage := (faulted_page s 5 layer 16 cause).phys hi
  have hcmd' : (faulted s 5 layer 16 cause).integ.cmd = none := by rw [faulted_integ]; exact hcmd
  unfold State.spareFault
  dsimp only
  rw [hrole, show (s.isolate layer 16 cause).recordFault 5 cause layer 16 = faulted s 5 layer 16 cause from rfl]
  generalize faulted s 5 layer 16 cause = u at *
  rw [hpage, show (physOf s layer (spareFor s layer) == 16) = false from beq_false_of_ne hfor]
  have hretire : u.retireLost layer = u := by
    unfold State.retireLost
    rw [hcmd']
  show ((((u.cond false fun v => v.loseRim layer (spareFor s layer)).retireLost layer).setRole layer 5 _).listRetired layer 16 cause) = _
  rw [show (u.cond false fun v => v.loseRim layer (spareFor s layer)) = u from rfl, hretire]
theorem setRole_role (s : State) (layer i : Nat) {role : Nat} (h : role < 8) : spareRole (s.setRole layer role i) layer = role := by
  unfold spareRole State.setRole
  rw [State.get_put_page _ _ _ _ _ (by decide) (by decide), State.get_put_self _ _ _ _ (by decide)]
  exact Nat.mod_eq_of_lt h
theorem spareHardFault_retires {cause : Nat} (hdies : layer < s.cfg.dies) (hhealth : s.get (rimBase layer 16) RIM_RIM_FSTAT_HEALTH = 0)
    (hpower : rimPower s layer 16 ≠ 5) (hrole : spareRole s layer = 0) (hcmd : s.integ.cmd = none)
    (hfor : physOf s layer (spareFor s layer) ≠ 16) :
    ∃ t, exec (.rimHardFault layer 16 cause) s = .next t ∧ t.get (rimBase layer 16) RIM_RIM_FSTAT_HEALTH = 1 ∧ spareRole t layer = 5 ∧
      t.hub = s.hub := by
  have hexec : exec (.rimHardFault layer 16 cause) s = .next (s.spareFault layer (cause % 16)) := by
    show execRimHardFault layer 16 cause s = _
    unfold execRimHardFault
    rw [if_neg (by omega), if_pos rfl]
  rw [spareFault_idle hrole hcmd hfor] at hexec
  obtain ⟨hone, -⟩ := faulted_health s 5 layer 16 (cause % 16)
  have hhub := faulted_hub s 5 layer 16 (cause % 16)
  generalize faulted s 5 layer 16 (cause % 16) = u at *
  have hat : ∀ o, AtLayer o → ((u.setRole layer 5 (spareFor s layer)).listRetired layer 16 (cause % 16)).rd o =
      (u.setRole layer 5 (spareFor s layer)).rd o := fun o ho => listRetired_rd _ _ _ _ ho
  refine ⟨_, hexec, ?_, ?_, (listRetired_hub ..).trans hhub⟩
  · refine Eq.trans (congrArg RIM_RIM_FSTAT_HEALTH.of ((hat _ (fstat_atLayer layer 16)).trans (setRole_rd _ _ _ _ ?_))) hone
    simp only [rimBase, RIM_RIM_FSTAT, LAYER_SPARE_STAT]
    omega
  · exact (PageKept.of_atLayer hat layer).role.1.trans (setRole_role _ _ _ (by decide))

/-! ### Faults of a unit (R467 to R469) -/

theorem syncPlaneFault_parks {cause : Nat} (h : parked s = false) :
    ∃ t, exec (.syncPlaneFault cause) s = .next t ∧ parked t = true ∧ t.get pgHUB HUB_PLANE_STAT_MODE = 3 := by
  refine ⟨(s.recordFault 6 (cause % 16) 0 0).park, ?_, park_parked _, park_mode _⟩
  show execSyncPlaneFault cause s = _
  unfold execSyncPlaneFault
  rw [if_neg (by rw [h]; decide)]
theorem portAdapterFault_stops {x : Nat} (hx : x < 72) :
    ∃ t, exec (.portAdapterFault x) s = .next t ∧ portOf t x = { portOf s x with broken := true } ∧ (∀ y, y ≠ x → portOf t y = portOf s y) ∧
      t.regs = s.regs := by
  refine ⟨s.port x fun p => { p with broken := true }, ?_, State.portOf_port_self .., fun y hy => State.portOf_port_of_ne _ _ hy, rfl⟩
  show execPortAdapterFault x s = _
  unfold execPortAdapterFault
  rw [if_neg (by omega)]
/-- Ports broken one after another. -/
theorem each_broken (f : Nat → Nat) : ∀ (l : List Nat) (s : State),
    (∀ k ∈ l, (portOf (s.each l fun s k => s.port (f k) fun p => { p with broken := true }) (f k)).broken = true) ∧
    (∀ y, (∀ k ∈ l, y ≠ f k) → portOf (s.each l fun s k => s.port (f k) fun p => { p with broken := true }) y = portOf s y) ∧
    (∀ y, (portOf s y).broken = true → (portOf (s.each l fun s k => s.port (f k) fun p => { p with broken := true }) y).broken = true) ∧
    (s.each l fun s k => s.port (f k) fun p => { p with broken := true }).regs = s.regs
  | [], s => ⟨fun _ h => (List.not_mem_nil h).elim, fun _ _ => rfl, fun _ h => h, rfl⟩
  | j :: l, s => by
    obtain ⟨hbroken, hother, hstays, hregs⟩ := each_broken f l (s.port (f j) fun p => { p with broken := true })
    have hself : (portOf (s.port (f j) fun p => { p with broken := true }) (f j)).broken = true := by rw [State.portOf_port_self]
    refine ⟨fun k hk => ?_, fun y hy => ?_, fun y hy => hstays y ?_, hregs⟩
    · obtain rfl | hmem := List.mem_cons.mp hk
      · exact hstays _ hself
      · exact hbroken k hmem
    · rw [List.forall_mem_cons] at hy
      obtain ⟨hne, hy⟩ := hy
      exact (hother y hy).trans (State.portOf_port_of_ne _ _ hne)
    · by_cases he : y = f j
      · rw [he]
        exact hself
      · rw [State.portOf_port_of_ne _ _ he]
        exact hy
theorem moverEngineFault_stops {e : Nat} (he : e < 4) :
    ∃ t, exec (.moverEngineFault e) s = .next t ∧ (∀ k < 4, (portOf t (56 + 4 * e + k)).broken = true) ∧
      (∀ y, y < 56 + 4 * e ∨ 60 + 4 * e ≤ y → portOf t y = portOf s y) ∧ t.regs = s.regs := by
  obtain ⟨hbroken, hother, -, hregs⟩ := each_broken (fun k => 56 + 4 * e + k) (List.range 4) s
  refine ⟨_, ?_, fun k hk => hbroken k (List.mem_range.mpr hk), fun y hy => hother y fun k hk => ?_, hregs⟩
  · show execMoverEngineFault e s = _
    unfold execMoverEngineFault
    rw [if_neg (by omega)]
  · have := List.mem_range.mp hk
    omega

/-! ### A sector that is cut off (R461, R604) -/

/-- Nothing stands at the rims of a sector, and nothing else goes on there. -/
structure Vacant (s : State) (layer sector : Nat) : Prop where
  flight : s.hub.flight = []
  claims : s.hub.claims = []
  kernels : ∀ k < 4, (rimOf s layer (physOf s layer (4 * sector + k))).kq = none
  test : s.test.ft = none
  cmd : s.integ.cmd = none
/-- What a step of the cut keeps: emptiness, the map, the sectors cut off, and the rims out of service. -/
structure Cuts (s t : State) (layer : Nat) : Prop where
  integ : t.integ = s.integ
  test : t.test = s.test
  flown : s.hub.flight = [] → t.hub.flight = []
  claims : s.hub.claims = [] → t.hub.claims = []
  kernels : ∀ n p, (rimOf s n p).kq = none → (rimOf t n p).kq = none
  page : PageKept s t layer
  down : ∀ j < 16, rimUp s layer j = false → rimUp t layer j = false
theorem Cuts.trans {u : State} (h : Cuts s t layer) (k : Cuts t u layer) : Cuts s u layer :=
  ⟨k.integ.trans h.integ, k.test.trans h.test, fun e => k.flown (h.flown e), fun e => k.claims (h.claims e),
    fun n p e => k.kernels n p (h.kernels n p e), h.page.trans k.page, fun j hj e => k.down j hj (h.down j hj e)⟩
theorem Vacant.cuts {sector : Nat} (h : Vacant s layer sector) (hs : sector < 4) (k : Cuts s t layer) : Vacant t layer sector := by
  refine ⟨k.flown h.flight, k.claims h.claims, fun n hn => ?_, (congrArg TestSt.ft k.test).trans h.test, (congrArg IntegSt.cmd k.integ).trans h.cmd⟩
  rw [k.page.phys (by omega)]
  exact k.kernels _ _ (h.kernels n hn)
theorem Vacant.spokes {sector : Nat} (h : Vacant s layer sector) (l : List Nat) : Vacant { s with spokeHeld := l } layer sector :=
  ⟨h.flight, h.claims, h.kernels, h.test, h.cmd⟩
theorem isolate_cuts (s : State) (layer p cause : Nat) : Cuts s (s.isolate layer p cause) layer := by
  refine ⟨rfl, rfl, id, id, fun _ _ h => h, isolate_page s layer p cause, fun j hj h => ?_⟩
  rw [rimUp_of_rd (isolate_rd s layer p cause (by simp only [rimBase, LAYER_LAYER_STAT, RIM_RIM_FSTAT]; omega))]
  exact h
theorem setRimUp_cuts (s : State) (layer : Nat) (hi : i < 16) : Cuts s (s.setRimUp layer i false) layer := by
  refine ⟨rfl, rfl, id, id, fun _ _ h => h, setRimUp_page s layer i false, fun j hj h => ?_⟩
  by_cases he : j = i
  · rw [he]
    exact rimUp_setRimUp_self _ _ hi _
  · rw [rimUp_setRimUp_of_ne _ _ hi hj he]
    exact h
/-- Where nothing stands, a lost rim loses at most a reserved half of its ALU. -/
theorem loseRim_cuts (hflight : s.hub.flight = []) (hclaims : s.hub.claims = []) (hkernel : (rimOf s layer (physOf s layer i)).kq = none) :
    Cuts s (s.loseRim layer i) layer := by
  obtain ⟨hregs, hflown, hunclaimed, hinteg, htest, hkernels⟩ := stepsLost_steps hclaims hkernel
  have hnone : s.loseRim layer i = stepsLost s layer i := by
    have hstand : standing (stepsLost s layer i) layer i = [] := by
      unfold standing
      rw [hflown, hflight]
      rfl
    rw [loseRim_eq, hstand]
    rfl
  rw [hnone]
  refine ⟨hinteg, htest, fun _ => hflown.trans hflight, fun _ => hunclaimed, hkernels, .of_atLayer (fun o ho => hregs o ho.1) layer, fun j _ h => ?_⟩
  rw [rimUp_of_rd (hregs _ (by simp only [layerBase]; omega))]
  exact h
/-- One rim of a sector that is cut off. -/
def State.cutRim (s : State) (layer sector cause k : Nat) : State :=
  let i := 4 * sector + k
  let s := s.cond (s.get (rimBase layer i) RIM_RIM_FSTAT_HEALTH == 0) fun s => s.isolate layer i cause
  let s := s.loseRim layer i
  let s := s.cond ((ftRim s layer).any fun f => f.unit == i) fun s =>
    (((s.setMap layer i i).setRole layer 0 0).ftEnd 6).retireLost layer
  let s := s.cond (s.integ.cmd.any fun c => c.layer == layer && c.rim == i) fun s =>
    ((s.copyEnd layer).setRole layer 0 0).rimCmdDone (if s.integ.cmd.any (·.evac) then 6 else 2)
  s.setRimUp layer i false
theorem isolateSector_eq (s : State) (layer sector cause : Nat) : s.isolateSector layer sector cause =
    (s.ig fun g => { g with sectors := NSet.insert g.sectors (4 * layer + sector) }).each (List.range 4) fun s k =>
      s.cutRim layer sector cause k := rfl
theorem cutRim_cuts {sector k : Nat} (cause : Nat) (h : Vacant s layer sector) (hs : sector < 4) (hk : k < 4) :
    Cuts s (s.cutRim layer sector cause k) layer ∧ rimUp (s.cutRim layer sector cause k) layer (4 * sector + k) = false := by
  have hi : 4 * sector + k < 16 := by omega
  unfold State.cutRim
  extract_lets i u v w x
  have hu : Cuts s u layer := by
    unfold u State.cond
    split
    · exact isolate_cuts ..
    · exact ⟨rfl, rfl, id, id, fun _ _ h => h, fun _ _ _ => rfl, fun _ _ h => h⟩
  have hvacant := h.cuts hs hu
  have hv : Cuts s v layer := hu.trans (loseRim_cuts hvacant.flight hvacant.claims (hvacant.kernels k hk))
  have hvacant := h.cuts hs hv
  have hw : w = v := by
    unfold w
    rw [ftRim_none hvacant.test]
    rfl
  have hx : x = v := by
    unfold x
    rw [hw, hvacant.cmd]
    rfl
  rw [hx]
  exact ⟨hv.trans (setRimUp_cuts v layer hi), rimUp_setRimUp_self v layer hi false⟩
theorem each_cutRim {sector : Nat} (cause : Nat) (hs : sector < 4) : ∀ (l : List Nat) (s : State), (∀ k ∈ l, k < 4) → Vacant s layer sector →
    Cuts s (s.each l fun s k => s.cutRim layer sector cause k) layer ∧
      ∀ k ∈ l, rimUp (s.each l fun s k => s.cutRim layer sector cause k) layer (4 * sector + k) = false
  | [], s, _, _ => ⟨⟨rfl, rfl, id, id, fun _ _ h => h, fun _ _ _ => rfl, fun _ _ h => h⟩, fun _ h => (List.not_mem_nil h).elim⟩
  | j :: l, s, hl, h => by
    rw [List.forall_mem_cons] at hl
    obtain ⟨hj, hl⟩ := hl
    obtain ⟨hcut, hself⟩ := cutRim_cuts cause h hs hj
    obtain ⟨hrest, hdown⟩ := each_cutRim cause hs l _ hl (h.cuts hs hcut)
    refine ⟨hcut.trans hrest, fun k hk => ?_⟩
    obtain rfl | hmem := List.mem_cons.mp hk
    · exact hrest.down _ (by omega) hself
    · exact hdown k hmem
theorem insert_contains (l : List Nat) (a : Nat) : (NSet.insert l a).contains a = true := by
  induction l with
  | nil => exact List.contains_iff_mem.mpr List.mem_cons_self
  | cons k l ih =>
    unfold NSet.insert
    rw [List.contains_iff_mem] at ih ⊢
    split
    · rename_i h
      exact h ▸ List.mem_cons_self
    · split
      · exact List.mem_cons_self
      · exact List.mem_cons_of_mem _ ih
/-- A sector where nothing stands is cut off: it is noted, and its four rims are out of service. -/
theorem isolateSector_cuts {sector : Nat} (cause : Nat) (h : Vacant s layer sector) (hs : sector < 4) :
    (s.isolateSector layer sector cause).integ.sectors.contains (4 * layer + sector) = true ∧
      ∀ k < 4, rimUp (s.isolateSector layer sector cause) layer (4 * sector + k) = false := by
  obtain ⟨hcuts, hdown⟩ := each_cutRim cause hs (List.range 4) (s.ig fun g => { g with sectors := NSet.insert g.sectors (4 * layer + sector) })
    (fun _ hk => List.mem_range.mp hk) ⟨h.flight, h.claims, h.kernels, h.test, h.cmd⟩
  rw [isolateSector_eq]
  refine ⟨?_, fun k hk => hdown k (List.mem_range.mpr hk)⟩
  rw [hcuts.integ]
  exact insert_contains _ _
/-- What a fault of a plane keeps too: the registers of the HUB page may change. -/
structure Holds (s t : State) : Prop where
  integ : t.integ = s.integ
  test : t.test = s.test
  flown : s.hub.flight = [] → t.hub.flight = []
  claims : s.hub.claims = [] → t.hub.claims = []
  kernels : ∀ n p, (rimOf s n p).kq = none → (rimOf t n p).kq = none
  regs : ∀ o, pgINTEG ≤ o → Aside o → t.rd o = s.rd o
theorem Holds.trans {u : State} (h : Holds s t) (k : Holds t u) : Holds s u :=
  ⟨k.integ.trans h.integ, k.test.trans h.test, fun e => k.flown (h.flown e), fun e => k.claims (h.claims e),
    fun n p e => k.kernels n p (h.kernels n p e), fun o hi ho => (k.regs o hi ho).trans (h.regs o hi ho)⟩
theorem Holds.of_rests (h : Rests s t) : Holds s t := ⟨h.integ, h.test, h.flown, h.claims, h.kernels, fun o _ ho => h.regs o ho⟩
theorem Vacant.holds {sector : Nat} (h : Vacant s layer sector) (hs : sector < 4) (k : Holds s t) : Vacant t layer sector := by
  refine ⟨k.flown h.flight, k.claims h.claims, fun n hn => ?_, (congrArg TestSt.ft k.test).trans h.test, (congrArg IntegSt.cmd k.integ).trans h.cmd⟩
  rw [(PageKept.of_atLayer (fun o ho => k.regs o (Nat.le_trans (by decide) ho.1) ho.aside) layer).phys (by omega)]
  exact k.kernels _ _ (h.kernels n hn)
theorem recordFault_holds (s : State) (kind cause layer unit : Nat) : Holds s (s.recordFault kind cause layer unit) :=
  .of_rests (recordFault_rests ..)
theorem vacant_of_nothingAt {sector : Nat} (hft : s.test.ft = none) (hcmd : s.integ.cmd = none) (h : ∀ k < 4, nothingAt s layer (4 * sector + k)) :
    Vacant s layer sector := by
  obtain ⟨hflight, hclaims, -⟩ := h 0 (by decide)
  exact ⟨hflight, hclaims, fun k hk => (h k hk).2.2, hft, hcmd⟩
theorem sectorPeripheryFault_cuts {sector cause : Nat} (hdies : layer < s.cfg.dies) (hs : sector < 4)
    (hnew : s.integ.sectors.contains (4 * layer + sector) = false) (hft : s.test.ft = none) (hcmd : s.integ.cmd = none)
    (h : ∀ k < 4, nothingAt s layer (4 * sector + k)) :
    ∃ t, exec (.sectorPeripheryFault layer sector cause) s = .next t ∧ t.integ.sectors.contains (4 * layer + sector) = true ∧
      ∀ k < 4, rimUp t layer (4 * sector + k) = false := by
  have hvacant := (vacant_of_nothingAt hft hcmd h).holds hs (recordFault_holds s 2 (cause % 16) layer sector)
  refine ⟨_, ?_, isolateSector_cuts (cause % 16) hvacant hs⟩
  show execSectorPeripheryFault layer sector cause s = _
  unfold execSectorPeripheryFault
  rw [if_neg (by rw [hnew]; simp; omega)]

/-! ### Lane groups of the Spokes (R602 to R605) -/

theorem putHub_holds (s : State) {f : Fld} (v : Nat) (h : f.off < 0x10000) : Holds s (s.put pgHUB f v) :=
  ⟨rfl, rfl, id, id, fun _ _ h => h, fun _ ho _ => State.rd_put_of_ne s v (by simp only [pgINTEG, pgHUB] at ho ⊢; omega)⟩
theorem setPlane_holds (s : State) (p v : Nat) : Holds s (s.setPlane p v) := by
  unfold State.setPlane
  split
  · exact putHub_holds s v (by decide)
  · exact putHub_holds s v (by decide)
theorem park_holds (s : State) : Holds s s.park := (putHub_holds s 3 (by decide)).trans (.of_rests (park_rests s))
theorem planeDown_holds (s : State) (p cause : Nat) : Holds s (s.planeDown p cause) := by
  have hlast : ∀ (u : State) (w : Word32), Holds u (u.wr (pgHUB + HUB_FO_LAST) w) := fun u w =>
    ⟨rfl, rfl, id, id, fun _ _ h => h, fun _ ho _ => State.rd_wr_of_ne u w (by simp only [pgINTEG, pgHUB, HUB_FO_LAST] at ho ⊢; omega)⟩
  unfold State.planeDown
  extract_lets q st down last lost taken paused counted
  have hdown : Holds s down := (recordFault_holds s 4 cause 0 p).trans (setPlane_holds ..)
  split
  · exact .of_rests (.refl s)
  · split
    · exact hdown.trans (hlast ..)
    · split
      · exact (hdown.trans (hlast ..)).trans (park_holds _)
      · have htaken : Holds s taken := ((hdown.trans (hlast ..)).trans (setPlane_holds ..)).trans (putHub_holds _ _ (by decide))
        have hpaused : Holds taken paused := .of_rests (hubf_rests taken _ id id)
        have hcounted : Holds s counted := (htaken.trans hpaused).trans (putHub_holds _ _ (by decide))
        exact hcounted.trans (.of_rests (.each loseAccess_rests _ _))
theorem mismatch_holds (s : State) (p n : Nat) : Holds (s.mismatchNoted p n) (s.mismatch p n) := by
  obtain h | h := mismatch_cases s p n
  · rw [h]
    exact .of_rests (.refl _)
  · rw [h]
    exact planeDown_holds ..
/-- A mismatch is counted in XPORT_CNT. -/
theorem mismatch_count (s : State) (p n : Nat) : (s.mismatch p n).get pgINTEG INTEG_XPORT_CNT_COUNT =
    min (s.get pgINTEG INTEG_XPORT_CNT_COUNT + n) (2 ^ 32 - 1) := by
  have hkeep := (mismatch_holds s p n).regs (pgINTEG + INTEG_XPORT_CNT) (Nat.le_add_right ..) (.inr (.inr (.inl rfl)))
  refine (congrArg INTEG_XPORT_CNT_COUNT.of hkeep).trans ?_
  exact State.get_bumpSat_self _ pgINTEG INTEG_XPORT_CNT_COUNT n (by decide)
theorem mismatch_vacant {sector : Nat} (h : Vacant s layer sector) (hs : sector < 4) (p n : Nat) : Vacant (s.mismatch p n) layer sector := by
  have hnoted : Vacant (s.mismatchNoted p n) layer sector := by
    refine ⟨h.flight, h.claims, fun k hk => ?_, h.test, h.cmd⟩
    have hpage : PageKept s (s.mismatchNoted p n) layer := fun k _ _ =>
      mismatchNoted_rd s p n (by simp only [layerBase, pgINTEG, INTEG_XPORT_CNT]; omega)
    rw [hpage.phys (by omega)]
    exact h.kernels k hk
  exact hnoted.holds hs (mismatch_holds s p n)
/-- The halves that failed their CRC before the Spoke stopped, on plane A and on plane B. -/
def halvesNoted (s : State) (a b : Nat) : State := (s.mismatch 0 (min a 4)).mismatch 1 (min b (4 - min a 4))
theorem halvesNoted_count (s : State) (a b : Nat) : (halvesNoted s a b).get pgINTEG INTEG_XPORT_CNT_COUNT =
    min (s.get pgINTEG INTEG_XPORT_CNT_COUNT + (min a 4 + min b (4 - min a 4))) (2 ^ 32 - 1) := by
  unfold halvesNoted
  rw [mismatch_count, mismatch_count]
  omega
/-- A spare lane put in for a group of a Spoke, which stops. -/
def laneTaken (s : State) (layer spoke key used : Nat) : State :=
  let s := s.ig fun g => { g with lanes := Sp.set g.lanes key (used + 1) }
  let s := (s.bump (layerBase layer) LAYER_DRG_STAT_SPARES).bumpSat (layerBase layer) LAYER_DRG_CNT_RUN_REP
  { s with spokeHeld := NSet.insert s.spokeHeld spoke }
theorem laneTaken_count (s : State) (layer spoke key used : Nat) :
    (laneTaken s layer spoke key used).get pgINTEG INTEG_XPORT_CNT_COUNT = s.get pgINTEG INTEG_XPORT_CNT_COUNT := by
  refine congrArg INTEG_XPORT_CNT_COUNT.of ?_
  have hpass : ∀ (u : State) (l : List Nat) (o : Nat), ({ u with spokeHeld := l } : State).rd o = u.rd o := fun _ _ _ => rfl
  unfold laneTaken
  dsimp only
  rw [hpass, State.bumpSat_rd, State.bump_rd, State.ig_rd]
  · simp only [layerBase, pgINTEG, INTEG_XPORT_CNT_COUNT, LAYER_DRG_STAT_SPARES]
    omega
  · simp only [layerBase, pgINTEG, INTEG_XPORT_CNT_COUNT, LAYER_DRG_CNT_RUN_REP]
    omega
section
variable {n sector group : Nat} {a b : Nat}
theorem exec_drigarParityError (hn : 1 ≤ n) (hnl : n ≤ layer) (hdies : layer < s.cfg.dies) (hs : sector < 4) (hg : group < 48)
    (hup : s.integ.sectors.contains (4 * layer + sector) = false) :
    exec (.drigarParityError n layer sector group a b) s =
      if 2 ≤ Sp.get 0 s.integ.lanes (laneKey n (4 * layer + sector) group) then
        .next (State.unreachable { halvesNoted s a b with spokeHeld := NSet.erase (halvesNoted s a b).spokeHeld (4 * layer + sector) } layer sector)
      else .next (laneTaken (halvesNoted s a b) layer (4 * layer + sector) (laneKey n (4 * layer + sector) group)
        (Sp.get 0 s.integ.lanes (laneKey n (4 * layer + sector) group))) := by
  show execDrigarParityError n layer sector group a b s = _
  unfold execDrigarParityError
  dsimp only
  rw [if_neg (by rw [hup]; simp; omega)]
  rfl
theorem drigarParityError_substitutes (hn : 1 ≤ n) (hnl : n ≤ layer) (hdies : layer < s.cfg.dies) (hs : sector < 4) (hg : group < 48)
    (hup : s.integ.sectors.contains (4 * layer + sector) = false) (hspare : Sp.get 0 s.integ.lanes (laneKey n (4 * layer + sector) group) < 2) :
    ∃ t, exec (.drigarParityError n layer sector group a b) s = .next t ∧ t.spokeHeld.contains (4 * layer + sector) = true ∧
      Sp.get 0 t.integ.lanes (laneKey n (4 * layer + sector) group) = Sp.get 0 s.integ.lanes (laneKey n (4 * layer + sector) group) + 1 ∧
      t.get pgINTEG INTEG_XPORT_CNT_COUNT =
        min (s.get pgINTEG INTEG_XPORT_CNT_COUNT + (min a 4 + min b (4 - min a 4))) (2 ^ 32 - 1) := by
  have hexec := exec_drigarParityError (a := a) (b := b) hn hnl hdies hs hg hup
  have hcount := halvesNoted_count s a b
  rw [if_neg (by omega)] at hexec
  generalize halvesNoted s a b = u at *
  refine ⟨_, hexec, insert_contains _ _, ?_, (laneTaken_count ..).trans hcount⟩
  exact Sp.get_set_self 0 u.integ.lanes _ _
theorem halvesNoted_vacant (h : Vacant s layer sector) (hs : sector < 4) (a b : Nat) : Vacant (halvesNoted s a b) layer sector := by
  unfold halvesNoted
  exact mismatch_vacant (mismatch_vacant h hs ..) hs ..
/-- DRG_STAT as a sector that cannot be reached leaves it. -/
def sectorLost (s : State) (layer sector : Nat) : State :=
  (s.put (layerBase layer) ⟨LAYER_DRG_STAT, 26 + sector, 26 + sector⟩ 0).put (layerBase layer) LAYER_DRG_STAT_STATE 2
theorem sectorLost_leaves (s : State) (layer sector : Nat) : (sectorLost s layer sector).integ = s.integ ∧
    (sectorLost s layer sector).rd (layerBase layer + LAYER_LAYER_STAT) = s.rd (layerBase layer + LAYER_LAYER_STAT) ∧
    (sectorLost s layer sector).get (layerBase layer) LAYER_DRG_STAT_STATE = 2 := by
  refine ⟨rfl, ?_, State.get_put_self _ _ _ _ (by decide)⟩
  unfold sectorLost
  rw [State.rd_put_of_ne _ _ (by simp only [LAYER_LAYER_STAT, LAYER_DRG_STAT_STATE]; omega),
    State.rd_put_of_ne _ _ (by simp only [LAYER_LAYER_STAT, LAYER_DRG_STAT]; omega)]
theorem unreachable_cuts (h : Vacant s layer sector) (hs : sector < 4) :
    (s.unreachable layer sector).integ.sectors.contains (4 * layer + sector) = true ∧
      (∀ k < 4, rimUp (s.unreachable layer sector) layer (4 * sector + k) = false) ∧
      (s.unreachable layer sector).get (layerBase layer) LAYER_DRG_STAT_STATE = 2 := by
  obtain ⟨hsector, hdown⟩ := isolateSector_cuts 5 (h.holds hs (recordFault_holds s 3 5 layer sector)) hs
  have heq : s.unreachable layer sector = sectorLost ((s.recordFault 3 5 layer sector).isolateSector layer sector 5) layer sector := rfl
  rw [heq]
  generalize (s.recordFault 3 5 layer sector).isolateSector layer sector 5 = v at *
  obtain ⟨hinteg, hstat, hstate⟩ := sectorLost_leaves v layer sector
  rw [← hinteg] at hsector
  exact ⟨hsector, fun k hk => (rimUp_of_rd hstat _).trans (hdown k hk), hstate⟩
theorem drigarParityError_cuts (hn : 1 ≤ n) (hnl : n ≤ layer) (hdies : layer < s.cfg.dies) (hs : sector < 4) (hg : group < 48)
    (hup : s.integ.sectors.contains (4 * layer + sector) = false) (hnone : 2 ≤ Sp.get 0 s.integ.lanes (laneKey n (4 * layer + sector) group))
    (hft : s.test.ft = none) (hcmd : s.integ.cmd = none) (h : ∀ k < 4, nothingAt s layer (4 * sector + k)) :
    ∃ t, exec (.drigarParityError n layer sector group a b) s = .next t ∧ t.integ.sectors.contains (4 * layer + sector) = true ∧
      (∀ k < 4, rimUp t layer (4 * sector + k) = false) ∧ t.get (layerBase layer) LAYER_DRG_STAT_STATE = 2 := by
  have hexec := exec_drigarParityError (a := a) (b := b) hn hnl hdies hs hg hup
  rw [if_pos hnone] at hexec
  exact ⟨_, hexec, unreachable_cuts ((halvesNoted_vacant (vacant_of_nothingAt hft hcmd h) hs a b).spokes _) hs⟩
end

/-! ### The rates of correctable errors (R465) -/

/-- What a look at the rates of a rim leaves, where it does not end at once. -/
def State.rimMarked (s : State) (layer p : Nat) : State :=
  let mark := (s.get (rimBase layer p) RIM_CE_CNT_COUNT, s.now, s.get (rimBase layer p) RIM_UE_CNT_COUNT)
  s.ig fun g => { g with ceMark := Sp.set g.ceMark (17 * layer + p) mark }
section
variable {ce0 t0 ue0 : Nat}
/-- EM1 evacuates a rim by itself. -/
def evacuates (s : State) (layer p : Nat) : Bool :=
  s.flag pgINTEG INTEG_IG_CTL_AUTO_EVAC && spareRole s layer == 0 && decide (p < 16) && physOf s layer p == p
theorem ceThreshold_hit (hdies : layer < s.cfg.dies) (hp : p ≤ 16) (hem : emRuns s 1 = true)
    (hmark : Sp.get (0, 0, 0) s.integ.ceMark (17 * layer + p) = (ce0, t0, ue0)) (hue : ue0 < s.get (rimBase layer p) RIM_UE_CNT_COUNT)
    (hfree : evacuates s layer p = true → s.integ.cmd = none) :
    exec (.ceThresholdCrossed layer p) s = if evacuates s layer p then .next (rimCmdWrite .em1 (rimCmdWord 1 layer p) (s.rimMarked layer p))
      else .next ((s.rimMarked layer p).irq pgINTEG 6) := by
  show execCeThresholdCrossed layer p s = _
  unfold execCeThresholdCrossed
  rw [if_neg (by rw [hem]; simp; omega)]
  extract_lets key ce ue evac win marked
  rw [show Sp.get (0, 0, 0) s.integ.ceMark key = (ce0, t0, ue0) from hmark]
  dsimp -zeta only
  extract_lets inTime hit
  have hhit : hit = true := by
    unfold hit
    rw [show decide (ue0 < ue) = true from decide_eq_true hue, Bool.or_true]
  rw [hhit, if_neg]
  · rfl
  · rintro (⟨-, h⟩ | ⟨-, hevac, hcmd⟩)
    · exact absurd h (by decide)
    · rw [hfree hevac] at hcmd
      cases hcmd
theorem ceThreshold_notes (hdies : layer < s.cfg.dies) (hp : p ≤ 16) (hem : emRuns s 1 = true)
    (hmark : Sp.get (0, 0, 0) s.integ.ceMark (17 * layer + p) = (ce0, t0, ue0)) (hue : ue0 < s.get (rimBase layer p) RIM_UE_CNT_COUNT)
    (hauto : s.flag pgINTEG INTEG_IG_CTL_AUTO_EVAC = false) :
    ∃ t, exec (.ceThresholdCrossed layer p) s = .next t ∧ (t.rd (pgINTEG + HDR_IRQ_STAT)).toNat.testBit 6 = true ∧ t.integ.cmd = s.integ.cmd ∧
      t.integ.ceMark = Sp.set s.integ.ceMark (17 * layer + p)
        (s.get (rimBase layer p) RIM_CE_CNT_COUNT, s.now, s.get (rimBase layer p) RIM_UE_CNT_COUNT) := by
  have hnot : evacuates s layer p = false := by
    unfold evacuates
    rw [hauto]
    rfl
  have hinteg : ((s.rimMarked layer p).irq pgINTEG 6).integ = (s.rimMarked layer p).integ := (congrArg State.integ (State.irq_sansRec _ _ _) :)
  refine ⟨(s.rimMarked layer p).irq pgINTEG 6, ?_, State.irq_sets _ _ _ (by decide) (by decide), ?_, ?_⟩
  · rw [ceThreshold_hit hdies hp hem hmark hue (fun h => by rw [hnot] at h; cases h), hnot, if_neg (by decide)]
  · rw [hinteg]
    rfl
  · rw [hinteg]
    rfl
theorem ceThreshold_waits (hmark : Sp.get (0, 0, 0) s.integ.ceMark (17 * layer + p) = (ce0, t0, ue0)) (hwin : s.get pgINTEG INTEG_CE_THRESH_WIN ≠ 0)
    (htime : s.now - t0 ≤ s.get pgINTEG INTEG_CE_THRESH_WIN * 100000000)
    (hce : s.get (rimBase layer p) RIM_CE_CNT_COUNT - ce0 ≤ s.get pgINTEG INTEG_CE_THRESH_MAX)
    (hue : s.get (rimBase layer p) RIM_UE_CNT_COUNT ≤ ue0) :
    exec (.ceThresholdCrossed layer p) s = .next s := by
  show execCeThresholdCrossed layer p s = _
  unfold execCeThresholdCrossed
  split
  · rfl
  · dsimp only
    rw [hmark]
    dsimp only
    rw [decide_eq_true htime, decide_eq_false (Nat.not_lt.mpr hce), decide_eq_false (Nat.not_lt.mpr hue), bne_iff_ne.mpr hwin]
    exact if_pos (.inl ⟨rfl, rfl⟩)

/-- RIM_CMD EVACUATE of a rim in service in its own place, by an Idle spare. -/
theorem evacuate_starts {m : Master} (hrole : spareRole s layer = 0) (hphys : physOf s layer p = p) (hp : p < 16) (hup : rimUp s layer p = true) :
    (s.evacuate m layer p).integ.cmd = some ⟨true, layer, p, s.pcNow⟩ ∧ spareRole (s.evacuate m layer p) layer = 3 := by
  have htid : maintTid s < 64 := State.get_lt s _ _
  obtain ⟨v, hv⟩ : ∃ v, v = ((s.clearRim layer 16 (maintTid s)).setRole layer 3 p).put pgINTEG INTEG_RIM_STAT_FRAMES 0 := ⟨_, rfl⟩
  obtain ⟨r, hr⟩ : ∃ r, r = maintTid v := ⟨_, rfl⟩
  have hrlt : r < 64 := by
    rw [hr]
    exact State.get_lt v _ _
  have hpc : v.pcNow = s.pcNow := by
    rw [hv]
    rfl
  have hthree : spareRole v layer = 3 := by
    rw [hv]
    refine Eq.trans (congrArg LAYER_SPARE_STAT_SPARE_ROLE.of (State.rd_put_of_ne _ _ ?_)) (setRole_role _ layer p (by decide))
    simp only [layerBase, pgINTEG, LAYER_SPARE_STAT_SPARE_ROLE, INTEG_RIM_STAT_FRAMES]
    omega
  obtain ⟨src, hevac⟩ : ∃ src, s.evacuate m layer p =
      (v.ig fun g => { g with cmd := some ⟨true, layer, p, v.pcNow⟩ }).copyStart layer p src 16 r := by
    refine ⟨physOf v layer p, ?_⟩
    unfold State.evacuate
    dsimp only
    rw [hrole, if_neg (by decide), if_neg (by decide), hphys, hup, if_neg (by simp; omega), ← hv, ← hr]
  rw [hevac]
  clear hevac hv
  refine ⟨?_, ?_⟩
  · unfold State.copyStart State.copyQueue State.cond
    dsimp only
    split
    · rw [← hpc]
      rfl
    · rw [← hpc]
      rfl
  · have hkeep := copyQueue_rd (v.ig fun g => { g with cmd := some ⟨true, layer, p, v.pcNow⟩ }) layer ⟨p, src, 16, r, 0, 0, 0, 0, 0⟩ hrlt
      (o := layerBase layer + LAYER_SPARE_STAT) (by simp only [layerBase, pgHCMD]; omega)
    exact (congrArg LAYER_SPARE_STAT_SPARE_ROLE.of hkeep).trans hthree
theorem rimCmdWord_fields {op : Nat} (hop : op < 16) (hl : layer < 8) (hp : p < 16) : INTEG_RIM_CMD_OP.of (rimCmdWord op layer p) = op ∧
    INTEG_RIM_CMD_LAYER.of (rimCmdWord op layer p) = layer ∧ INTEG_RIM_CMD_RIM.of (rimCmdWord op layer p) = p := by
  simp only [Fld.of, bits, rimCmdWord, INTEG_RIM_CMD_OP, INTEG_RIM_CMD_LAYER, INTEG_RIM_CMD_RIM, BitVec.toNat_ofNat, Nat.shiftRight_eq_div_pow]
  omega
theorem rimCmd_page : pageAt (pgINTEG + INTEG_RIM_CMD) = some ⟨.integ, 0, pgINTEG⟩ := by decide
theorem rimCmd_row : rowAt Page.integ INTEG_RIM_CMD = some ⟨0x048, 1, 0, 1, 0, [⟨31, 28, .rwo, 0⟩, ⟨6, 4, .rwo, 0⟩, ⟨3, 0, .rwo, 0⟩]⟩ := rfl
/-- RIM_CMD with its fields written, and BUSY 1. -/
def rimCmdTaken (s : State) (m : Master) (w : Word32) : State := (s.setFields m pgINTEG INTEG_RIM_CMD w).put pgINTEG INTEG_RIM_STAT_BUSY 1
theorem rimCmdTaken_leaves {m : Master} (hmay : mayWrite s m pgINTEG INTEG_RIM_CMD true = true) (w : Word32) :
    (∀ o, 0x100000 ≤ o → (rimCmdTaken s m w).rd o = s.rd o) ∧ (rimCmdTaken s m w).pcNow = s.pcNow ∧ (rimCmdTaken s m w).cfg = s.cfg := by
  have hown := Or.inl (b := (List.any [(⟨31, 28, .rwo, 0⟩ : FieldRow), ⟨6, 4, .rwo, 0⟩, ⟨3, 0, .rwo, 0⟩] fun f => f.acc == .rwo) = false)
    (owns_of_mayWrite rimCmd_page hmay)
  have hrd := fun o ho => setFields_rd (o := o) rimCmd_page rimCmd_row hown w ho
  have hrest := setFields_sansRegs rimCmd_page rimCmd_row hown w
  have hpc : (s.setFields m pgINTEG INTEG_RIM_CMD w).pcNow = s.pcNow := (congrArg State.pcNow hrest :)
  have hcfg : (s.setFields m pgINTEG INTEG_RIM_CMD w).cfg = s.cfg := (congrArg State.cfg hrest :)
  unfold rimCmdTaken
  generalize s.setFields m pgINTEG INTEG_RIM_CMD w = u at *
  refine ⟨fun o ho => (State.rd_put_of_ne _ _ ?_).trans (hrd o ?_), hpc, hcfg⟩
  · simp only [pgINTEG, INTEG_RIM_STAT_BUSY]
    omega
  · simp only [pgINTEG, INTEG_RIM_CMD]
    omega
/-- A write of RIM_CMD with EVACUATE, while no command runs. -/
theorem rimCmdWrite_evacuate {m : Master} (hmay : mayWrite s m pgINTEG INTEG_RIM_CMD true = true) (hcmd : s.integ.cmd = none)
    (hdies : layer < s.cfg.dies) (hl : layer < 8) (hp : p < 16) :
    rimCmdWrite m (rimCmdWord 1 layer p) s = (rimCmdTaken s m (rimCmdWord 1 layer p)).evacuate m layer p := by
  obtain ⟨hop, hlayer, hrim⟩ := rimCmdWord_fields (op := 1) (by decide) hl hp
  obtain ⟨-, -, hcfg⟩ := rimCmdTaken_leaves hmay (rimCmdWord 1 layer p)
  have hcfg' : ((s.setFields m pgINTEG INTEG_RIM_CMD (rimCmdWord 1 layer p)).put pgINTEG INTEG_RIM_STAT_BUSY 1).cfg = s.cfg := hcfg
  unfold rimCmdWrite
  rw [State.gate_open _ _ _ _ _ _ hmay, hop, hlayer, hrim]
  dsimp only
  rw [hcmd, if_neg (by simp), if_neg (by decide), hcfg', if_neg (by omega), if_pos rfl]
  rfl
theorem rimMarked_leaves (s : State) (layer p : Nat) : (s.rimMarked layer p).regs = s.regs ∧ (s.rimMarked layer p).cfg = s.cfg ∧
    (s.rimMarked layer p).pcNow = s.pcNow ∧ (s.rimMarked layer p).integ.cmd = s.integ.cmd ∧
    ∀ m a o b, mayWrite (s.rimMarked layer p) m a o b = mayWrite s m a o b :=
  ⟨rfl, rfl, rfl, rfl, fun _ _ _ _ => rfl⟩
theorem ceThreshold_evacuates (hdies : layer < s.cfg.dies) (hlayer : layer < 8) (hp : p < 16) (hem : emRuns s 1 = true)
    (hmark : Sp.get (0, 0, 0) s.integ.ceMark (17 * layer + p) = (ce0, t0, ue0)) (hue : ue0 < s.get (rimBase layer p) RIM_UE_CNT_COUNT)
    (hauto : s.flag pgINTEG INTEG_IG_CTL_AUTO_EVAC = true) (hrole : spareRole s layer = 0) (hphys : physOf s layer p = p)
    (hup : rimUp s layer p = true) (hcmd : s.integ.cmd = none) (hmay : mayWrite s .em1 pgINTEG INTEG_RIM_CMD true = true) :
    ∃ t, exec (.ceThresholdCrossed layer p) s = .next t ∧ t.integ.cmd = some ⟨true, layer, p, s.pcNow⟩ ∧ spareRole t layer = 3 := by
  have hevac : evacuates s layer p = true := by
    unfold evacuates
    rw [hauto, hrole, hphys, decide_eq_true hp, beq_self_eq_true p]
    rfl
  obtain ⟨hregs, hcfg, hpc, hnone, hwrites⟩ := rimMarked_leaves s layer p
  have hexec := ceThreshold_hit hdies (Nat.le_of_lt hp) hem hmark hue fun _ => hcmd
  rw [hevac, if_pos rfl] at hexec
  generalize s.rimMarked layer p = u at *
  have hmay' : mayWrite u .em1 pgINTEG INTEG_RIM_CMD true = true := (hwrites ..).trans hmay
  rw [rimCmdWrite_evacuate hmay' (hnone.trans hcmd) (by rw [hcfg]; exact hdies) hlayer hp] at hexec
  obtain ⟨hat, hpc', -⟩ := rimCmdTaken_leaves hmay' (rimCmdWord 1 layer p)
  generalize rimCmdTaken u .em1 (rimCmdWord 1 layer p) = v at *
  have hkeep : ∀ o, 0x100000 ≤ o → v.rd o = s.rd o := fun o ho => (hat o ho).trans (State.rd_congr hregs hcfg o)
  have hpage : PageKept s v layer := .of_atLayer (fun o ho => hkeep o ho.1) layer
  obtain ⟨hcmd', hthree⟩ := evacuate_starts (m := .em1) (hpage.role.1.trans hrole) ((hpage.phys hp).trans hphys) hp
    ((rimUp_of_rd (hkeep _ (by simp only [layerBase]; omega)) p).trans hup)
  exact ⟨_, hexec, by rw [hcmd', hpc', hpc], hthree⟩
end
end

/-- Settles O38: a lost rim's accesses are at the merge with FAULT (`loseRim_lost`), a cut sector's rims out of service (`isolateSector_cuts`). -/
theorem hardFaults : Obligations.HardFaults := by
  unfold Obligations.HardFaults
  exact ⟨fun _ _ _ _ hdies _ hp hhealth hpower hft hphys hevac hclaims hkernel _ =>
      rimHardFault_isolates hdies hp hhealth hpower hft hphys hevac hclaims hkernel,
    fun _ _ _ hdies _ hhealth hpower hrole hcmd hfor => spareHardFault_retires hdies hhealth hpower hrole hcmd hfor,
    fun _ _ _ _ hdies _ hs hnew hft hcmd h => sectorPeripheryFault_cuts hdies hs hnew hft hcmd h,
    fun _ _ h _ _ _ _ => syncPlaneFault_parks h,
    fun _ _ hx => portAdapterFault_stops hx,
    fun _ _ he => moverEngineFault_stops he,
    fun _ _ _ _ _ _ hdies hp hem hmark hue hauto => ceThreshold_notes hdies hp hem hmark hue hauto,
    fun _ _ _ _ _ _ hdies hl hp hem hmark hue hauto hrole hphys hup hcmd hmay =>
      ceThreshold_evacuates hdies hl hp hem hmark hue hauto hrole hphys hup hcmd hmay,
    fun _ _ _ _ _ _ hmark hwin htime hce hue => ceThreshold_waits hmark hwin htime hce hue,
    fun _ _ _ _ _ _ _ hn hnl hdies _ hs hg hup hspare => drigarParityError_substitutes hn hnl hdies hs hg hup hspare,
    fun _ _ _ _ _ _ _ hn hnl hdies _ hs hg hup hnone hft hcmd h => drigarParityError_cuts hn hnl hdies hs hg hup hnone hft hcmd h,
    fun _ _ _ => rfl⟩

end Sys2Proof.Machine
